-- ==== Sys2Proof/Word.lean ====
section
/-! DEFINITION. The plain types in which the commands and the state of the MV1024 are written:
bytes, device time, and the index of each replicated thing of the part (R10, R13, 00_scope.md vocabulary). -/

namespace Sys2Proof

/-- One byte of a memory structure (R5). -/
abbrev Byte := BitVec 8

/-- A 32-bit register word. -/
abbrev Word32 := BitVec 32

/-- A 64-bit register, step word or work-item word. -/
abbrev Word64 := BitVec 64

/-- A number of ticks of 0.125 ps (R4). -/
abbrev Ticks := Nat

/-- A local site, 0–255. -/
abbrev Site := Fin 256

/-- A channel by its global number ch = 128t + 16g + 4q + k (R10). -/
abbrev Chan := Fin 1024

/-- A slice of the device by 32t + j, with slice j = 0–31 of tile t (R63). -/
abbrev SliceNo := Fin 256

/-- A tile, 0–7. -/
abbrev Tile := Fin 8

/-- A channel group by its global number 8t + g. -/
abbrev Group := Fin 64

/-- An event channel, 0–255 (R299). -/
abbrev EvCh := Fin 256

/-- A vehicle bus engine, 0–63. -/
abbrev Engine := Fin 64

/-- A Lenkel port, 0–7. -/
abbrev Port := Fin 8

/-- A service core, 0–15. -/
abbrev Core := Fin 16

/-- A Lake bank, 0–63. -/
abbrev Bank := Fin 64

/-- A SYNC barrier, 0–63. -/
abbrev Barrier := Fin 64

/-- The agents that reach registers, mailboxes and Lake banks (R355). -/
inductive Agent
  | pf0
  | pf1
  | core (c : Core)
  | loader
  deriving DecidableEq, Repr

/-- The agent numbers of R355. -/
def Agent.num : Agent → Nat
  | .pf0 => 0x01
  | .pf1 => 0x02
  | .core c => 0x20 + c.val
  | .loader => 0x3F

/-- Which of the two PCI Express functions (R336). -/
inductive Func
  | pf0
  | pf1
  deriving DecidableEq, Repr

/-- The function as an agent. -/
def Func.agent : Func → Agent
  | .pf0 => .pf0
  | .pf1 => .pf1

/-- A state of a comparator or of the sense input it judges (R134). -/
inductive CmpState
  | low
  | mid
  | high
  deriving DecidableEq, Repr

/-- The code of a comparator state in registers and records (R134). -/
def CmpState.code : CmpState → Nat
  | .low => 0
  | .mid => 1
  | .high => 2

/-- The differential input of a comparator at an instant (R134, R135), in the units of a threshold code (1.5 V is 60,000), and on which side of
the high and of the low threshold it last was: above for true. The side decides while the input lies within the threshold's hysteresis
band. -/
structure SenseIn where
  v : Int
  overHi : Bool
  overLo : Bool
  deriving DecidableEq, Repr

/-- What the ECC check of a word that is read finds (R133, R153). -/
inductive Ecc
  | clean
  | corrected
  | uncorrectable
  deriving DecidableEq, Repr

/-- What the ECC check finds in a word of waveform memory that a vector reads (R116, R133): word 0 of an entry is the waveform word, 1
and 2 are its time words. -/
structure WaveRead where
  ch : Chan
  slot : Fin 64
  wf : Fin 16
  word : Fin 3
  ecc : Ecc
  deriving DecidableEq, Repr

/-- What ECC finds as a vector begins: in the microword and its match registers (R109), in the period table entry that a granule
latches, and in the waveform words read (R133). -/
structure VecEcc where
  rom : Ecc
  per : Ecc
  wave : List WaveRead
  deriving DecidableEq, Repr

/-- The causes that wake the device from Dormant (R45). -/
inductive WakeCause
  | ctrlWrite
  | event
  | doorbell
  deriving DecidableEq, Repr

/-- The comparator setting registers of R137. -/
inductive CmpReg
  | cfg
  | vth
  | vtt
  deriving DecidableEq, Repr

/-- An occurrence that a sequence trigger watches (R178): a comparator transition at a DT, a firing of an event channel, or
a history sample with the states it saw ([0] L, [1] M, [2] H). -/
inductive SeqOcc
  | cross (left entered : CmpState) (t : Nat)
  | event (c : EvCh)
  | sample (seen : Fin 8)
  deriving DecidableEq, Repr

/-- A crossing of a comparator threshold, VTH_HI or VTH_LO, rising or falling, at a DT (R134, R180). -/
structure Crossing where
  hi : Bool
  rising : Bool
  dt : Nat
  deriving DecidableEq, Repr

/-- What a privileged trigger evaluates (R180): two crossings, or a comparator state entered at a DT and, where it has ended, its end. -/
inductive PrivEval
  | pair (first last : Crossing)
  | spent (st : CmpState) (entered : Nat) (ended : Option Nat)
  deriving DecidableEq, Repr

/-- An image record as it is read whole: the fields of its header and its body (R50). -/
structure ImageRecord where
  typ : Nat
  flags : Nat
  length : Nat
  crc : Word32
  body : List Byte
  padding : List Byte
  deriving DecidableEq, Repr

/-- A frame as an engine receives it: fields of its record (R265). -/
structure BusRx where
  hdr : Nat
  kind : Nat
  info : Nat
  payload : List Byte
  sof : Nat
  eof : Nat
  tdc : Bool
  deriving DecidableEq, Repr

/-- A work item of Saffron (R273). -/
structure WorkItem where
  dt : Nat
  g0 : Nat
  g1 : Nat
  arg : Nat
  flow : Nat
  site : Nat
  src : Nat
  deriving DecidableEq, Repr

/-- A link of the part: the link of a tile, or a Lenkel port (R224). -/
inductive LinkId
  | tile (t : Tile)
  | port (p : Port)
  deriving DecidableEq, Repr

/-- What a host changes in a function's MSI-X capability (R337): the mask of one vector, the function mask, the enable. -/
inductive MsixOp
  | vector (v : Fin 32)
  | function
  | enable
  deriving DecidableEq, Repr

/-- A ring of descriptors: the command ring of a site, or a management ring (R345). -/
inductive RingId
  | cmd (x : Site)
  | mgmt (m : Fin 16)
  deriving DecidableEq, Repr

/-- What reaches an open UDS transaction: a response message, or a DoIP negative acknowledgement with its code (R288). -/
inductive UdsIn
  | message (b : List Byte)
  | nack (code : Byte)
  deriving DecidableEq, Repr

/-- What the datalog service writes: a record that a service made, or a copy of a fail or acquisition record (R286). -/
inductive LogSource
  | made
  | fail
  | acq
  deriving DecidableEq, Repr

/-- An access to a bank of a DRAM channel, and whether it hit the bank's open page (R329). -/
structure PageAccess where
  ch : Fin 8
  bank : Fin 64
  hit : Bool
  deriving DecidableEq, Repr

end Sys2Proof
end

