-- ==== Sys2Proof/Syntax.lean ====
section
/-! DEFINITION. The commands of the block: one constructor per row of spec/opcode_table.json. The first operand of
every command is the number of ticks of device time since the command before it (notes/assumptions/1.md). -/

namespace Sys2Proof

/-- The commands of the MV1024, in the order of the table. -/
inductive Instr
  /-- POWER_ON_RESET (R35). VAUX first becomes good: every item is cleared and the device leaves OFF for POWERING. -/
  | powerOnReset (e : Nat) (testen : Bool) (safeInHigh : Bool) (resetHigh : Bool)
  /-- VAUX_UNDER_VOLTAGE (R34). VAUX falls below its under-voltage threshold, which causes a power-on reset. -/
  | vauxUnderVoltage (e : Nat)
  /-- RAILS_GOOD (R35). Every rail is good with RESET_n high: the power controller begins admitting units in the fixed cold-start order. -/
  | railsGood (e : Nat)
  /-- RAIL_UNDER_VOLTAGE (R36). A rail other than VAUX falls below its threshold: UV is set, safe state is entered and the units on that rail are held until a device reset. -/
  | railUnderVoltage (e : Nat) (rail : Fin 7)
  /-- CORE_ISLAND_ADMISSION (R37). A 5 µs core-island admission completes and the next admission in the fixed order begins. -/
  | coreIslandAdmission (e : Nat)
  /-- TILE_COMMON_ADMISSION (R37). A 2 µs tile-common admission completes and the tile link starts blind. -/
  | tileCommonAdmission (e : Nat)
  /-- LADDER_REQUEST (R39). A group admission request is taken at a 100 MHz edge and its groups are queued in ladder order. -/
  | ladderRequest (e : Nat)
  /-- LADDER_SLOT (R38). A ladder slot begins and admits one queued group, or moves one group from ON to RETENTION. -/
  | ladderSlot (e : Nat)
  /-- GROUP_SETTLE_END (R38). 10 µs after its slot ends, a group becomes usable, or reads FAILED and faults its sites. -/
  | groupSettleEnd (e : Nat) (g : Group) (failed : Bool)
  /-- POWERING_END (R58). The last ladder group settles and the device leaves POWERING for LOADING. -/
  | poweringEnd (e : Nat)
  /-- RESET_N_FALL (R32). RESET_n goes low, and a low of 5 ns or more takes every drive pair to 0 mV. -/
  | resetNFall (e : Nat)
  /-- DEVICE_RESET (R32). RESET_n has been low for 10 µs: a device reset starts and the device stays in POWERING. -/
  | deviceReset (e : Nat)
  /-- RESET_N_RISE (R32). RESET_n rises: the drive pairs return to their R126 levels, and once RESET_n has been high for 10 µs with all rails good a reset cold start begins. -/
  | resetNRise (e : Nat)
  /-- DEV_RESET (R372). A PCI_DEVCMD write with OP 0x01 and KEY 0xD5 from PF1 performs a device reset, as a RESET_n low. -/
  | devReset (e : Nat) (v : Word32)
  /-- TESTEN_HIGH (R33). TESTEN goes high: every drive pair is held at 0 mV and no image is accepted. -/
  | testenHigh (e : Nat)
  /-- PWR_SLEEP_SET (R42). A write of 1 to a site bit puts an IDLE site with no bus-mode channel to sleep, or is refused with SLEEP_REJ. -/
  | pwrSleepSet (e : Nat) (w : Fin 8) (v : Word32)
  /-- PWR_SLEEP_CLR (R42). A write of 1 to a site bit wakes a sleeping site and queues its groups on the ladder. -/
  | pwrSleepClr (e : Nat) (w : Fin 8) (v : Word32)
  /-- DORMANT_REQUEST (R44). A write of PWR_CTRL.DORMANT in READY starts Dormant entry; in any other state it is refused with DORM_REJ. -/
  | dormantRequest (e : Nat)
  /-- DORMANT_ENTRY_COMPLETE (R44). Dormant entry finishes its last stage and the device is in DORMANT. -/
  | dormantEntryComplete (e : Nat)
  /-- WAKE (R45). A write of PWR_CTRL.WAKE, a firing of the wake event channel or a ring doorbell starts the wake from Dormant. -/
  | wake (e : Nat) (cause : WakeCause)
  /-- WAKE_COMPLETE (R45). Unit state is restored and DEV_STATE reads READY after a wake. -/
  | wakeComplete (e : Nat)
  /-- THERMAL_CONVERSION (R46). The 1 ms conversion of the junction sensors updates DEV_TEMP and raises THERM_WARN, THERM_TRIP or TEMP_LOW. -/
  | thermalConversion (e : Nat) (temps : List (BitVec 16))
  /-- LOAD_START (R48). The loader pulses NVM_RESET_n, reads the boot descriptor copies and enters the flash mode that the descriptor names. -/
  | loadStart (e : Nat) (copy0 : List Byte) (copy1 : List Byte)
  /-- SLOT_READ_START (R49). The loader begins reading a slot, the preferred one first, or re-reads it at 25 MHz after a header CRC failure. -/
  | slotReadStart (e : Nat) (hdr : List Byte)
  /-- IMAGE_RECORD_ARRIVAL (R58). A record has been read whole: its CRC, type and order are checked, it is hashed and it is written to its destination. -/
  | imageRecordArrival (e : Nat) (r : ImageRecord)
  /-- DRAM_TRAINING_COMPLETE (R331). DRAM training of the three operating points ends at OP_INIT, or fails with code 0x18, and reading resumes. -/
  | dramTrainingComplete (e : Nat) (ok : Bool)
  /-- LAST_RECORD_READ (R58). The last record has been read and the device enters CHECKING. -/
  | lastRecordRead (e : Nat)
  /-- CHECKS_COMPLETE (R58). The key, security-version, signature and cross-record checks end, passing or with the code of the first failure. -/
  | checksComplete (e : Nat)
  /-- COMMIT (R58). No earlier than 16 ms after the last group settled, all loaded configuration takes effect at one DT and the device enters READY. -/
  | commit (e : Nat)
  /-- RELOAD (R61). A CFG_RELOAD write with GO = 1 from PF1 starts a pre-check of the named source, or is refused with RELOAD_REJ. -/
  | reload (e : Nat) (v : Word32)
  /-- PRECHECK_COMPLETE (R61). The pre-check ends: on failure nothing changes, and on success teardown waits for the sites, aborting them if FORCE is set. -/
  | precheckComplete (e : Nat) (copy0 : List Byte) (copy1 : List Byte) (images : List (List Byte × List ImageRecord))
  /-- RELOAD_TEARDOWN (R61). No site is active any longer: every site becomes ABSENT and the device enters LOADING for the new image. -/
  | reloadTeardown (e : Nat)
  /-- FUSE_PROGRAM_KEY_HASH (R52). CFG_FUSE_CMD OP 1 programs the key-hash fuses from CFG_KEYHASH_IN once, and is refused if they are already programmed. -/
  | fuseProgramKeyHash (e : Nat) (v : Word32)
  /-- FUSE_RAISE_SECVER (R52). CFG_FUSE_CMD OP 2 raises the fused security version, never above the SECVER of the image in force. -/
  | fuseRaiseSecver (e : Nat) (v : Word32)
  /-- FUSE_OP_COMPLETE (R52). A fuse operation finishes and CFG_FUSE_RES reads done. -/
  | fuseOpComplete (e : Nat)
  /-- SITE_ARM (R72). MDR_SITE_CMD OP 1 arms a site: it loads the context, queues the site's groups and forms the start instant, or is refused. -/
  | siteArm (e : Nat) (x : Site) (prog : BitVec 16)
  /-- SITE_ABORT (R170). MDR_SITE_CMD OP 2 sends an abort to the site context, where it is settled against completion. -/
  | siteAbort (e : Nat) (x : Site)
  /-- SITE_ACK (R68). MDR_SITE_CMD OP 3 acknowledges a DONE site and returns it to IDLE. -/
  | siteAck (e : Nat) (x : Site)
  /-- SITE_RESET (R78). MDR_SITE_CMD OP 4 requests a site reset at a release DT of now plus the site's lead. -/
  | siteReset (e : Nat) (x : Site)
  /-- SITE_RESET_RELEASE (R78). At its release DT the reset clears the context, slices, counters and current test, and the site enters IDLE. -/
  | siteResetRelease (e : Nat) (x : Site)
  /-- STALE_CHECK (R72). At the ready DT the stale check runs over every spanned channel, and a failure cancels the start and returns the site to IDLE. -/
  | staleCheck (e : Nat) (x : Site)
  /-- START_INSTANT (R68). Every slice reaches the start instant: the site enters RUNNING, the counters clear and the slices play, or hold if data is absent. -/
  | startInstant (e : Nat) (x : Site)
  /-- SLICE_MISSED_RELEASE (R20). A time-released message reaches a slice at or after its release DT: the slice does not act on it and the site faults with cause 1. -/
  | sliceMissedRelease (e : Nat) (sl : SliceNo)
  /-- STOPPING_COMPLETE (R68). Every slice has ended and every record is written or dropped, and the site enters DONE. -/
  | stoppingComplete (e : Nat) (x : Site)
  /-- JOIN_SEND (R76). After commit, once its direct link carries tokens, a proxy site sends its join token to the home. -/
  | joinSend (e : Nat) (x : Site)
  /-- VECTOR_NEXT (R82). The slice player plays a NEXT vector once. -/
  | vectorNext (e : Nat) (sl : SliceNo) (ecc : VecEcc := ⟨.clean, .clean, []⟩)
  /-- VECTOR_REPEAT (R84). A REPEAT vector plays n vector cycles with its waveform, acting on MARK once. -/
  | vectorRepeat (e : Nat) (sl : SliceNo) (ecc : VecEcc := ⟨.clean, .clean, []⟩)
  /-- LOOP_BEGIN (R85). A LOOP_BEGIN on vector 0 of a granule opens loop register r. -/
  | loopBegin (e : Nat) (sl : SliceNo) (ecc : VecEcc := ⟨.clean, .clean, []⟩)
  /-- LOOP_END (R85). A LOOP_END sets or decrements the loop's remaining count and returns play to the body or closes the loop. -/
  | loopEnd (e : Nat) (sl : SliceNo) (ecc : VecEcc := ⟨.clean, .clean, []⟩)
  /-- MATCH (R86). A MATCH pass ends: the pass is judged over every slice, and at the deciding pass the exit is scheduled. -/
  | matchPass (e : Nat) (sl : SliceNo) (ecc : VecEcc := ⟨.clean, .clean, []⟩)
  /-- ALT (R87). An ALT vector switches the waveform tables between the primary and the alternate set. -/
  | altVector (e : Nat) (sl : SliceNo) (ecc : VecEcc := ⟨.clean, .clean, []⟩)
  /-- END (R89). An END vector ends the queue entry: the next entry follows, or the slices go idle and their vector time stops. -/
  | endVector (e : Nat) (sl : SliceNo) (ecc : VecEcc := ⟨.clean, .clean, []⟩)
  /-- CODE_7 (R82). Control code 7 runs the patch routine if one is defined, or else acts as NEXT and sets BADCODE. -/
  | code7 (e : Nat) (sl : SliceNo) (ecc : VecEcc := ⟨.clean, .clean, []⟩)
  /-- GRANULE_CHECK_POINT (R100). At C_G each slice judges whether the due granule is present, and sends a hold message if it is absent. -/
  | granuleCheckPoint (e : Nat) (sl : SliceNo)
  /-- HOLD_RELEASE (R100). At the boundary named by a hold message every slice stops, applies its hold policies and the site enters HOLD. -/
  | holdRelease (e : Nat) (x : Site)
  /-- REFILL_GRANULE_COMPLETE (R95). Refill completes a slot of a granule in the vector store. -/
  | refillGranuleComplete (e : Nat) (sl : SliceNo) (seg : BitVec 24) (gran : Fin 65536) (col : Fin 64)
  /-- SLICE_READY_REPORT (R101). A ready report from a slice reaches the home context, and the last one forms the resume instant at arrival plus 1 µs. -/
  | sliceReadyReport (e : Nat) (sl : SliceNo)
  /-- RESUME_RELEASE (R101). At the resume instant every slice plays the vector at B_G and the site returns to RUNNING. -/
  | resumeRelease (e : Nat) (x : Site)
  /-- SEGMENT_ADMISSION (R93). A segment descriptor is read and checked, and slots are allocated when the segment is admitted to a slice. -/
  | segmentAdmission (e : Nat) (sl : SliceNo) (seg : BitVec 24) (ecc : Ecc)
  /-- QUEUE_ENTRY_RELEASE (R161). At its release DT a slice queues an entry sent by PLAY. -/
  | queueEntryRelease (e : Nat) (sl : SliceNo)
  /-- EVENT_JUMP_REQUEST (R103). A firing of the SLP_JUMP_CFG event channel reaches the lead slice and makes a jump request. -/
  | eventJumpRequest (e : Nat) (x : Site)
  /-- JUMP_HONOURED (R103). At the honoured boundary every slice continues at vector 0 of the jump target. -/
  | jumpHonoured (e : Nat) (x : Site)
  /-- CTRL_CRC_REPORT (R83). At a segment end the slices' control-column CRCs are compared, and a difference faults the site. -/
  | ctrlCrcReport (e : Nat) (x : Site)
  /-- SLP_JUMP_CFG_WRITE (R99). A write of SLP_JUMP_CFG is accepted only while the site is IDLE or DONE, and is copied to every slice of the site. -/
  | slpJumpCfgWrite (e : Nat) (sl : SliceNo) (v : Word32)
  /-- SLP_LOOPPRE_WRITE (R85). A write of the loop count preset is accepted by site state and copied to every slice of the site on the device. -/
  | slpLooppreWrite (e : Nat) (sl : SliceNo) (r : Fin 4) (v : Word32)
  /-- SLP_MATCH_TMO_WRITE (R86). A write of the default match timeout follows the rules of SLP_LOOPPRE. -/
  | slpMatchTmoWrite (e : Nat) (sl : SliceNo) (v : Word32)
  /-- WAVEFORM_READ (R131). WOD_WF_CMD OP 1 with GO reads a waveform entry into WOD_WF_DATA. -/
  | waveformRead (e : Nat) (t : Tile)
  /-- WAVEFORM_WRITE (R132). WOD_WF_CMD OP 2 with GO checks and writes a waveform entry, or is refused with result 3 or 4. -/
  | waveformWrite (e : Nat) (t : Tile)
  /-- WAVEFORM_ACCESS_COMPLETE (R376). A waveform access completes within 1 µs and RESULT leaves busy. -/
  | waveformAccessComplete (e : Nat) (t : Tile) (e0 : Ecc) (e1 : Ecc := .clean) (e2 : Ecc := .clean)
  /-- WOD_PERIOD_WRITE (R131). A period write is accepted by site state and range, and is copied to every slice of the site. -/
  | wodPeriodWrite (e : Nat) (sl : SliceNo) (set : Fin 64) (v : Word64)
  /-- WOD_SLICE_TS_WRITE (R131). A timing-set selection write is accepted by site state and is copied to every slice of the site. -/
  | wodSliceTsWrite (e : Nat) (sl : SliceNo) (v : Word32)
  /-- WOD_CH_CFG_WRITE (R128). A FIXCOMP write is accepted under the waveform-write conditions. -/
  | wodChCfgWrite (e : Nat) (ch : Chan) (v : Word32)
  /-- DRIVE_EVENT (R120). The edge generator executes a drive event at its instant, placing a transition or dropping it under the spacing rule. -/
  | driveEvent (e : Nat) (ch : Chan)
  /-- STROBE (R138). A strobe samples the comparator state at its placed instant. -/
  | strobe (e : Nat) (ch : Chan) (inp : SenseIn)
  /-- WINDOW_END (R138). A compare window ends and its verdict is formed from the states seen. -/
  | windowEnd (e : Nat) (ch : Chan) (dL : Nat) (dM : Nat) (dH : Nat)
  /-- TIMING_SET_RELEASE (R123). An immediate timing-set change applies at the first granule boundary at or after its release DT. -/
  | timingSetRelease (e : Nat) (x : Site)
  /-- COMPARATOR_SETTING_WRITE (R137). A write of termination, hysteresis, thresholds or VTT is accepted or refused with WR_REJ, and settling begins. -/
  | comparatorSettingWrite (e : Nat) (ch : Chan) (r : CmpReg) (v : Word32)
  /-- SETTLING_END (R137). 2 µs after an accepted write the comparator follows its new setting and VALID returns to 1. -/
  | settlingEnd (e : Nat) (ch : Chan) (inp : SenseIn)
  /-- SEP_CMP_CH_MASK_WRITE (R141). A compare mask write is recorded and takes effect at the first granule boundary at least 120 ns later. -/
  | sepCmpChMaskWrite (e : Nat) (ch : Chan) (v : Word32)
  /-- GRANULE_COUNTS_ADD (R143). At a granule boundary each slice adds its fail counts to SEP_CAP_FAILS of the home site. -/
  | granuleCountsAdd (e : Nat) (sl : SliceNo)
  /-- FAIL_RECORD_ARRIVAL (R150). A staged fail record reaches the core die and is written to the site's capture ring or dropped. -/
  | failRecordArrival (e : Nat) (sl : SliceNo) (tag : Site)
  /-- STOP_DECISION (R145). At its detection DT a first-fail or limit stop is decided and a stop boundary is time-released to every slice. -/
  | stopDecision (e : Nat) (x : Site)
  /-- STOP_RELEASE (R145). At the stop boundary every slice ends play, queued entries are discarded and the site enters STOPPING. -/
  | stopRelease (e : Nat) (x : Site)
  /-- CAPTURE_RING_RD_WRITE (R149). The consumer advances SEP_CAP_RING_RD, and a write beyond WR is ignored. -/
  | captureRingRdWrite (e : Nat) (x : Site) (v : Word32)
  /-- STEP_WORD_FETCH (R153). A line of step words arrives from Lake or DRAM, with ECC correction or a fault with code 6. -/
  | stepWordFetch (e : Nat) (x : Site) (ecc : Ecc)
  /-- STEP_BOUNDARY_SAMPLE (R169). At a step boundary the context acts on a site fault, an abort or completion, a trap or its next instruction. -/
  | stepBoundarySample (e : Nat) (x : Site) (rom : Ecc := .clean)
  /-- NOP (R157). NOP has no effect. -/
  | nop (e : Nat) (x : Site)
  /-- PLAY (R161). PLAY queues an entry to every slice, stalling while any slice is full, and forms a new start instant if the slices have ended. -/
  | play (e : Nat) (x : Site)
  /-- JSEG (R164). JSEG sends a step-engine jump request to every slice. -/
  | jseg (e : Nat) (x : Site)
  /-- TSET (R123). TSET issues the timing-set instruction in its queued or its immediate form. -/
  | tset (e : Nat) (x : Site)
  /-- ACQ (R177). ACQ arms or disarms an acquisition unit of the site at a time-released DT. -/
  | acq (e : Nat) (x : Site)
  /-- MEAS (R195). MEAS starts a measurement unit, and with F0 waits for its result. -/
  | meas (e : Nat) (x : Site)
  /-- MGET (R199). MGET copies a unit statistic to G and sets T. -/
  | mget (e : Nat) (x : Site)
  /-- WAITEV (R159). WAITEV waits for the event latch to satisfy mask m. -/
  | waitev (e : Nat) (x : Site)
  /-- WAITDT (R160). WAITDT waits until an absolute or a relative device time. -/
  | waitdt (e : Nat) (x : Site)
  /-- DRAIN (R163). DRAIN waits until every slice has ended and the fail counts are final. -/
  | drain (e : Nat) (x : Site)
  /-- SYNC (R165). SYNC records an arrival at a barrier and waits for its release. -/
  | sync (e : Nat) (x : Site)
  /-- TRIMOK (R166). TRIMOK opens, replaces or closes the site's trim window. -/
  | trimok (e : Nat) (x : Site)
  /-- JMP (R157). JMP sets PC to an index. -/
  | jmp (e : Nat) (x : Site)
  /-- CALL (R157). CALL pushes PC + 1 and branches. -/
  | call (e : Nat) (x : Site)
  /-- RET (R168). RET pops PC, and with F0 also ends the trap. -/
  | ret (e : Nat) (x : Site)
  /-- DBNZ (R157). DBNZ decrements G and branches while it is nonzero. -/
  | dbnz (e : Nat) (x : Site)
  /-- LDI (R157). LDI loads an immediate into G, optionally shifted. -/
  | ldi (e : Nat) (x : Site)
  /-- ADDI (R156). ADDI adds or subtracts an immediate, saturating or wrapping. -/
  | addi (e : Nat) (x : Site)
  /-- ADD (R156). ADD adds two registers, saturating or wrapping. -/
  | add (e : Nat) (x : Site)
  /-- SUB (R156). SUB subtracts two registers, saturating or wrapping. -/
  | sub (e : Nat) (x : Site)
  /-- MOV (R157). MOV copies one register to another. -/
  | mov (e : Nat) (x : Site)
  /-- GET (R157). GET reads a value from the GET sources table. -/
  | get (e : Nat) (x : Site)
  /-- CMPI (R155). CMPI compares G with an immediate and sets Z and L. -/
  | cmpi (e : Nat) (x : Site)
  /-- CMP (R155). CMP compares two registers and sets Z and L. -/
  | cmp (e : Nat) (x : Site)
  /-- BIN (R157). BIN sets the test's bin, and refuses a reserved bin. -/
  | bin (e : Nat) (x : Site)
  /-- DLOG (R167). DLOG posts a datalog work item to the site's datalog flow. -/
  | dlog (e : Nat) (x : Site)
  /-- BUSTX (R167). BUSTX posts a transmit descriptor to a bus engine of the site. -/
  | bustx (e : Nat) (x : Site)
  /-- REQ (R167). REQ enqueues a work item to a Saffron flow, and with F0 waits for its result. -/
  | req (e : Nat) (x : Site)
  /-- STOP (R172). STOP ends the program, and the site enters STOPPING with outcome COMPLETED. -/
  | stop (e : Nat) (x : Site)
  /-- EVENT_LATCH (R159). An event-channel firing reaches a context and sets its EVL bit, or OVERRUN if the bit is already set. -/
  | eventLatch (e : Nat) (x : Site) (c : EvCh)
  /-- WAIT_TIMEOUT (R160). A wait's timeout expires, and the wait ends with T = 1. -/
  | waitTimeout (e : Nat) (x : Site)
  /-- SERVICE_RESULT (R167). The service completes a waited REQ item, and its result word becomes GET source 6. -/
  | serviceResult (e : Nat) (x : Site)
  /-- SYNC_RELEASE (R165). At a barrier's release DT the arrived contexts pass their SYNC and the arrivals clear. -/
  | syncRelease (e : Nat) (b : Barrier)
  /-- TRAP_FIRING (R168). A firing of the trap channel sets TRAP_PEND, or OVERRUN if it is already set. -/
  | trapFiring (e : Nat) (x : Site)
  /-- TRIM_WINDOW_CLOSE (R166). A TRIMOK window reaches its close DT, and Mordant returns every channel within 1 µs. -/
  | trimWindowClose (e : Nat) (x : Site)
  /-- SLICE_END_REPORT (R162). An end report of the last slice reaches a PLAY waiting after its boundary, and a restart instant is formed with RESTART set. -/
  | sliceEndReport (e : Nat) (x : Site)
  /-- SYNC_MEMBER_WRITE (R165). A barrier member mask write is accepted only while no member has arrived, and is otherwise ignored with WR_REJ. -/
  | syncMemberWrite (e : Nat) (b : Barrier) (w : Fin 8) (v : Word32)
  /-- STEP_MISSED_RELEASE (R20). A SYNC release reaches a context late: the SYNC is not passed and the site faults with cause 1. -/
  | stepMissedRelease (e : Nat) (x : Site)
  /-- ACQ_ARM_COMMAND (R177). SEP_ACQ_CH_CMD OP 1 arms a unit at arrival plus 120 ns, or is refused with a reason. -/
  | acqArmCommand (e : Nat) (ch : Chan)
  /-- ACQ_DISARM_COMMAND (R177). SEP_ACQ_CH_CMD OP 2 disarms a unit. -/
  | acqDisarmCommand (e : Nat) (ch : Chan)
  /-- ACQ_FORCE (R183). SEP_ACQ_CH_CMD OP 3 forces a trigger of an ARMED unit at arrival plus 120 ns. -/
  | acqForce (e : Nat) (ch : Chan)
  /-- ACQ_EVENT_ARM (R177). A firing of ARM_EVCH or DIS_EVCH arms or disarms a unit at arrival plus 8 ns. -/
  | acqEventArm (e : Nat) (ch : Chan) (arm : Bool)
  /-- ACQ_ARM_DT (R176). A unit reaches its arm DT, enters ARMED and enters sequence state 0. -/
  | acqArmDt (e : Nat) (ch : Chan) (late : Bool)
  /-- SEQUENCE_OCCURRENCE (R179). An occurrence of the state's condition is counted, and completion applies ON_MATCH or ON_EARLY. -/
  | sequenceOccurrence (e : Nat) (ch : Chan) (o : SeqOcc)
  /-- SEQUENCE_TIMER (R179). A state's TMAX, or TMIN for COND 6, expires and its outcome applies. -/
  | sequenceTimer (e : Nat) (ch : Chan)
  /-- PRIVILEGED_TRIGGER_EVAL (R180). An ending crossing or a timeout evaluates a TYPE 1–4 trigger against its RELATION. -/
  | privilegedTriggerEval (e : Nat) (ch : Chan) (v : PrivEval) (between : List Crossing)
  /-- ACQ_AUTO_TIMEOUT (R183). The auto timer expires and the unit is triggered as FORCED. -/
  | acqAutoTimeout (e : Nat) (ch : Chan)
  /-- HISTORY_SAMPLE (R184). A history sample interval of 2^DECIM vector cycles ends and its sample is stored. -/
  | historySample (e : Nat) (ch : Chan) (seen : Fin 8)
  /-- POST_TRIGGER_COMPLETE (R185). The post-trigger samples are complete, or the record closes early with TRUNC_POST, and the unit moves to MOVING. -/
  | postTriggerComplete (e : Nat) (ch : Chan)
  /-- ACQ_RECORD_ARRIVAL (R188). An acquisition record is written to the site's ring or dropped, and the unit re-arms or disarms. -/
  | acqRecordArrival (e : Nat) (ch : Chan) (tag : Site)
  /-- SEP_ACQ_CH_CFG_WRITE (R186). A unit configuration write takes the buffer of its DEPTH from the pool, or is refused with CFG_REJ. -/
  | sepAcqChCfgWrite (e : Nat) (ch : Chan) (v : Word32)
  /-- ACQ_RING_RD_WRITE (R188). The consumer advances SEP_ACQ_RING_RD. -/
  | acqRingRdWrite (e : Nat) (x : Site) (v : Word32)
  /-- TIA_START (R195). TIA_CH_CMD OP 1 starts a measurement unit at arrival plus the lead, or is refused with a reason. -/
  | tiaStart (e : Nat) (ch : Chan)
  /-- TIA_END (R197). TIA_CH_CMD OP 2 ends a unit in DONE with INCOMPLETE set. -/
  | tiaEnd (e : Nat) (ch : Chan)
  /-- MEAS_START_DT (R195). A unit reaches its start DT, clears its results and runs. -/
  | measStartDt (e : Nat) (ch : Chan) (late : Bool)
  /-- MEAS_SAMPLE (R199). A stamp pair or gate forms a sample x and the statistics are updated. -/
  | measSample (e : Nat) (ch : Chan) (a : Nat) (b : Nat) (p : Nat) (remote : Bool)
  /-- MEAS_WINDOW_EXPIRY (R196). No stop comes by start plus WMAX: the start is abandoned and counted in OUTSIDE. -/
  | measWindowExpiry (e : Nat) (ch : Chan) (a : Nat)
  /-- GATE_CLOSE (R198). A frequency gate closes at the first edge at or after its length, or takes no sample after 2 × GATE. -/
  | gateClose (e : Nat) (ch : Chan) (edges : Bool) (a : Nat) (b : Nat) (n : Nat)
  /-- MEAS_DONE (R197). A unit has taken N samples, enters DONE and records TIA_CH_DONE_DT. -/
  | measDone (e : Nat) (ch : Chan)
  /-- DT_WRAP (R202). DT wraps past 2^64 and UMB_ERA increments. -/
  | dtWrap (e : Nat)
  /-- UMB_DT_READ (R202). A read of the low word of UMB_DT latches its high word and UMB_ERA into UMB_ERA_LATCH. -/
  | umbDtRead (e : Nat) (a : Agent)
  /-- REFERENCE_LOCK (R205). The discipline source meets its lock condition and Umber enters LOCKED. -/
  | referenceLock (e : Nat) (err : Nat := 0)
  /-- REFERENCE_LOSS (R206). The reference is lost, Umber enters HOLDOVER and REF_LOST is set. -/
  | referenceLoss (e : Nat) (edge : Nat := 0) (err : Nat := 0)
  /-- XTAL_FAIL (R207). The crystal stops for 1 µs: DT runs from the backup oscillator and safe state is forced. -/
  | xtalFail (e : Nat)
  /-- PPS_IN_EDGE (R209). A PPS_IN rising edge is stamped in UMB_PPS_DT. -/
  | ppsInEdge (e : Nat)
  /-- PPS_OUT_RISE (R209). Station time reaches a whole second and PPS_OUT rises for 100 µs. -/
  | ppsOutRise (e : Nat)
  /-- TRIM_STEP_END (R211). A 1 µs trim step ends, stale step data are discarded, and a pass completes or is refused. -/
  | trimStepEnd (e : Nat) (q : Fin 256) (binsOk : Bool) (offsOk : Bool) (delay : BitVec 32) (qf : BitVec 16)
  /-- TRIM_COMMIT (R218). At its release DT a pending trim result commits and the channel's quality figures take it. -/
  | trimCommit (e : Nat) (ch : Chan)
  /-- TRIM_COMMIT_MISSED (R20). A commit reaches a channel late: it stays pending and MISSED_RELEASE is set. -/
  | trimCommitMissed (e : Nat) (ch : Chan)
  /-- CHANNEL_RETURN (R216). Mordant returns a held channel, and a waiting arm or start takes effect. -/
  | channelReturn (e : Nat) (ch : Chan)
  /-- SYNC_PULSE (R219). The 1 ms synchronising pulse is sent on each tile link and corrects the tile's DT replica. -/
  | syncPulse (e : Nat)
  /-- SYNC_PULSE_RETURN (R219). A returned pulse is stamped and the tile skew is measured. -/
  | syncPulseReturn (e : Nat) (t : Tile) (off : Word32)
  /-- TSKEW_LOST (R219). No pulse has returned for 10 ms and TSKEW_LOST is set. -/
  | tskewLost (e : Nat) (t : Tile)
  /-- QUALITY_AGE_CHANGE (R222). A channel's age passes 20 s or 60 s and it becomes AGING or STALE. -/
  | qualityAgeChange (e : Nat) (ch : Chan)
  /-- REFLECTION_REQUEST (R220). A GO write of MRD_REFL_CMD starts a reflection of the site's FIXTRIM channels, or is refused with REJ. -/
  | reflectionRequest (e : Nat) (x : Site)
  /-- REFLECTION_STEP (R220). A reflection step drives an edge and stamps the incident and returning crossings. -/
  | reflectionStep (e : Nat) (ch : Chan) (inc : Nat) (ret : Nat) (stamped : Bool)
  /-- REFLECTION_END (R221). A reflection ends, whole or PARTIAL, and d is set pending with NORET or CHANGED. -/
  | reflectionEnd (e : Nat) (x : Site)
  /-- TILE_LINK_UP (R232). Every lane of a tile link is locked and 8 good frames have arrived: the link is up and the tile's DT replica is loaded. -/
  | tileLinkUp (e : Nat) (t : Tile)
  /-- FRAME_ARRIVAL (R229). A frame's blocks are released by the elastic buffer at their fixed times. -/
  | frameArrival (e : Nat) (l : LinkId) (lane : Fin 16) (bits : List Bool)
  /-- ACK (R231). An ACK block acknowledges replayable blocks up to its CSEQ. -/
  | ack (e : Nat) (l : LinkId) (q : Byte)
  /-- TILE_REPLAY_TIMEOUT (R234). An unacknowledged control block is resent after 40 ns, and a third failure takes the link down. -/
  | tileReplayTimeout (e : Nat) (t : Tile) (q : Byte)
  /-- TILE_LINK_DOWN (R235). A tile link goes down: slices stop, sites fault and the link restarts blind. -/
  | tileLinkDown (e : Nat) (t : Tile)
  /-- PORT_START (R236). An enabled Lenkel port starts at code 1, locks its lanes and sends CAP. -/
  | portStart (e : Nat) (p : Port)
  /-- CAP (R236). A received CAP is checked against the port's settings, and the peer is accepted or refused. -/
  | cap (e : Nat) (p : Port) (q : Byte) (body : BitVec 40)
  /-- PORT_RETRY (R236). A refused port retries after 100 ms. -/
  | portRetry (e : Nat) (p : Port)
  /-- RATE (R237). A received RATE block proposes or acknowledges the next lane-rate code. -/
  | rate (e : Nat) (p : Port) (q : Byte) (body : BitVec 40)
  /-- RATE_SWITCH (R237). At the 16th comma after the acknowledgement each end switches its transmitter and retrains. -/
  | rateSwitch (e : Nat) (p : Port)
  /-- RATE_STEP_END (R237). A rate step succeeds after 2,048 good frames, or falls back when its lock time expires. -/
  | rateStepEnd (e : Nat) (p : Port) (ok : Bool)
  /-- PORT_REPLAY_TIMEOUT (R238). An unacknowledged replayable block is resent, and a third failure takes the port down. -/
  | portReplayTimeout (e : Nat) (p : Port) (q : Byte)
  /-- PORT_DOWN (R238). A port goes down, DOWN is set and it negotiates again from code 1. -/
  | portDown (e : Nat) (p : Port)
  /-- PORT_RETRAIN (R238). LNK_PORT_CMD RETRAIN makes the port negotiate again from code 1. -/
  | portRetrain (e : Nat) (p : Port)
  /-- PORT_DISABLE (R238). LNK_PORT_CMD DISABLE holds the port's transmitters idle until RETRAIN. -/
  | portDisable (e : Nat) (p : Port)
  /-- TIME_EXCHANGE_START (R241). Every PERIOD µs the upstream sends TSYNC and TFULL in one frame. -/
  | timeExchangeStart (e : Nat) (p : Port) (t1 : Word64)
  /-- TSYNC (R241). A follower receives TSYNC and TFULL, takes t1 and stamps t2, and sends TREQ. -/
  | tsync (e : Nat) (p : Port) (q : Byte) (body : BitVec 40) (full : BitVec 40) (t2 : Word64) (t3 : Word64)
  /-- TREQ (R241). The upstream stamps t4 and returns TRESP. -/
  | treq (e : Nat) (p : Port) (q : Byte) (body : BitVec 40) (t4 : Word64)
  /-- TRESP (R241). The follower resolves t4, computes θ and δ and steers c, or adopts the upstream's time. -/
  | tresp (e : Nat) (p : Port) (q : Byte) (body : BitVec 40)
  /-- TINFO (R240). A TINFO block delivers ERA, OFFSET or the hop count and master device. -/
  | tinfo (e : Nat) (p : Port) (q : Byte) (body : BitVec 40)
  /-- UPSTREAM_LOSS (R244). No TSYNC has arrived for 2 ms: the follower chooses a new upstream or holds over. -/
  | upstreamLoss (e : Nat)
  /-- EVBC (R246). A received event broadcast is scheduled to fire its local channel at the firing DT plus L. -/
  | evbc (e : Nat) (p : Port) (body : BitVec 40)
  /-- BROADCAST_RELEASE (R246). At the broadcast's release DT the local event channel fires. -/
  | broadcastRelease (e : Nat) (c : EvCh)
  /-- TOKEN_JOIN (R76). A JOIN token reaches the home, which records the joining device or refuses it. -/
  | tokenJoin (e : Nat) (p : Port) (q : Byte) (home : Site) (arg : BitVec 26 := 0)
  /-- TOKEN_JOINRES (R76). A JOINRES token tells the proxy whether its join was accepted, and a refusal faults it with cause 4. -/
  | tokenJoinres (e : Nat) (p : Port) (q : Byte) (home : Site) (arg : BitVec 26)
  /-- TOKEN_ENTRY (R247). An ENTRY token queues an entry to the proxy's slices at its release DT. -/
  | tokenEntry (e : Nat) (p : Port) (q : Byte) (home : Site) (arg : BitVec 26) (x0 : BitVec 40) (x1 : BitVec 40)
  /-- TOKEN_START (R247). A START token carries the start instant to the proxy's slices. -/
  | tokenStart (e : Nat) (p : Port) (q : Byte) (home : Site) (x0 : BitVec 40)
  /-- TOKEN_HOLD (R247). A HOLD token carries a hold boundary between home and proxy. -/
  | tokenHold (e : Nat) (p : Port) (q : Byte) (home : Site) (x0 : BitVec 40)
  /-- TOKEN_READY (R247). A READY token carries a proxy's ready DT and stale result to the home. -/
  | tokenReady (e : Nat) (p : Port) (q : Byte) (home : Site) (arg : BitVec 26) (x0 : BitVec 40)
  /-- TOKEN_RESUME (R247). A RESUME token carries the resume instant to the proxy's slices. -/
  | tokenResume (e : Nat) (p : Port) (q : Byte) (home : Site) (x0 : BitVec 40)
  /-- TOKEN_JUMP (R247). A JUMP token carries a jump target and its honoured boundary to the proxy. -/
  | tokenJump (e : Nat) (p : Port) (q : Byte) (home : Site) (arg : BitVec 26) (x0 : BitVec 40)
  /-- TOKEN_STOP (R247). A STOP token carries the stop boundary to the proxy. -/
  | tokenStop (e : Nat) (p : Port) (q : Byte) (home : Site) (x0 : BitVec 40)
  /-- TOKEN_TSET (R247). A TSET token carries the timing sets and the primary period to the proxy. -/
  | tokenTset (e : Nat) (p : Port) (q : Byte) (home : Site) (arg : BitVec 26) (x0 : BitVec 40) (x1 : BitVec 40)
  /-- TOKEN_STATE (R247). A STATE token changes the proxy site's state at its release DT. -/
  | tokenState (e : Nat) (p : Port) (q : Byte) (home : Site) (arg : BitVec 26) (x0 : BitVec 40)
  /-- TOKEN_RESET (R247). A RESET token resets the proxy site at its release DT. -/
  | tokenReset (e : Nat) (p : Port) (q : Byte) (home : Site) (x0 : BitVec 40)
  /-- TOKEN_TRIM (R247). A TRIM token opens or closes the proxy's trim window, or requests a reflection. -/
  | tokenTrim (e : Nat) (p : Port) (q : Byte) (home : Site) (arg : BitVec 26) (x0 : BitVec 40)
  /-- TOKEN_COUNTS (R247). A COUNTS token adds a proxy's failing results to the home's SEP_CAP_FAILS. -/
  | tokenCounts (e : Nat) (p : Port) (q : Byte) (home : Site) (x0 : BitVec 40)
  /-- TOKEN_CCRC (R247). A CCRC token carries a proxy's control-column CRC for comparison. -/
  | tokenCcrc (e : Nat) (p : Port) (q : Byte) (home : Site) (arg : BitVec 26) (x0 : BitVec 40)
  /-- RECORD (R248). A forwarded RECORD block and its bytes are written to the home site's ring. -/
  | record (e : Nat) (p : Port) (q : Byte) (home : Site) (typ : Byte) (bytes : List Byte)
  /-- BUS_RUN_WRITE (R249). Setting or clearing BUS_CTRL.RUN turns an engine on, or stops it after the frame in progress. -/
  | busRunWrite (e : Nat) (en : Engine) (run : Bool)
  /-- BUS_FLUSH (R262). BUS_CTRL.FLUSH writes back every queued descriptor as FLUSHED. -/
  | busFlush (e : Nat) (en : Engine)
  /-- BUS_RECOVER (R267). BUS_CTRL.RECOVER starts bus-off recovery. -/
  | busRecover (e : Nat) (en : Engine)
  /-- PHY_RESET_WRITE (R252). BUS_CTRL.PHY_RESET holds or releases the PHY reset output. -/
  | phyResetWrite (e : Nat) (en : Engine) (held : Bool)
  /-- BUS_TX_POST (R258). A host posting copies a descriptor into the transmit queue, or is refused. -/
  | busTxPost (e : Nat) (en : Engine) (v : Word64)
  /-- PAYLOAD_READ (R258). The payload of a queue entry is read, or the descriptor fails INVALID. -/
  | payloadRead (e : Nat) (en : Engine) (k : Fin 2) (ecc : Ecc)
  /-- FRAME_START (R260). The head frame starts on the medium at LAUNCH, after its gate, as the medium allows. -/
  | frameStart (e : Nat) (en : Engine)
  /-- ARBITRATION_LOST (R260). A CAN frame loses arbitration and waits for the next start point. -/
  | arbitrationLost (e : Nat) (en : Engine)
  /-- FRAME_EXPIRED (R260). LAUNCH plus LATE_US passes before the frame starts, and it is withdrawn EXPIRED. -/
  | frameExpired (e : Nat) (en : Engine)
  /-- TX_WRITE_BACK (R262). A completed descriptor is overwritten with its write-back and status. -/
  | txWriteBack (e : Nat) (en : Engine) (sof : Nat) (eof : Nat)
  /-- GATE_FIRING (R261). A firing of the gate channel releases a gated descriptor at the head, or sets GATE_OVR. -/
  | gateFiring (e : Nat) (en : Engine)
  /-- FRAME_RECEIVED (R264). A received frame is filtered and written to the receive ring, the stranger ring, or discarded. -/
  | frameReceived (e : Nat) (en : Engine) (f : BusRx) (tag : Site)
  /-- BUS_ERROR (R265). A protocol error is detected and an error record is formed. -/
  | busError (e : Nat) (en : Engine) (code : Fin 8) (inc : Fin 9)
  /-- BUS_OFF_RECOVERY (R267). 128 occurrences of 11 recessive bits end bus-off recovery. -/
  | busOffRecovery (e : Nat) (en : Engine)
  /-- LIN_HEADER (R255). A LIN responder receives a protected identifier and answers by its BUS_LIN_RESP entry. -/
  | linHeader (e : Nat) (en : Engine) (id : Fin 64)
  /-- LIN_WAKE_UP (R255). A wake-up pulse of 150 µs to 5 ms is received and recorded. -/
  | linWakeUp (e : Nat) (en : Engine) (fell : Nat) (tag : Site)
  /-- MDIO_COMMAND (R270). BUS_MDIO_CMD GO queues one Clause 22 transaction. -/
  | mdioCommand (e : Nat) (en : Engine) (v : Word32)
  /-- MDIO_COMPLETE (R270). An MDIO transaction completes after 25.6 µs. -/
  | mdioComplete (e : Nat) (data : BitVec 16)
  /-- WORK_ITEM_ENQUEUE (R273). A work item is enqueued to its flow, or refused when the pool or flow is full. -/
  | workItemEnqueue (e : Nat) (w : WorkItem) (delayed : Bool) (due : Nat)
  /-- SAF_GET (R278). A core's read of SAF_GET waits until an item is given to it. -/
  | safGet (e : Nat) (c : Core) (own : Bool)
  /-- DISPATCH (R278). An eligible item is given to a core, pre-empting lower-priority work. -/
  | dispatch (e : Nat) (y : Option Core) (ecc : Ecc)
  /-- ITEM_COMPLETE (R276). A core completes an item, and its flow's next item becomes eligible. -/
  | itemComplete (e : Nat) (c : Core) (status : Fin 6) (nrc : Byte) (v : Word32) (fw : Ecc)
  /-- DELAY_DUE (R277). A delayed item reaches its due tick and becomes eligible. -/
  | delayDue (e : Nat)
  /-- WATCHDOG (R272). A core running one item for 100 µs without a yield is reset, and the item completes with status 4. -/
  | watchdog (e : Nat) (c : Core)
  /-- PLAN_START (R281). SVC_PLAN_CMD OP 1 starts a DUT on the test plan. -/
  | planStart (e : Nat) (x : Site)
  /-- PLAN_STOP (R281). SVC_PLAN_CMD OP 2 stops the plan after the current DUT. -/
  | planStop (e : Nat) (x : Site)
  /-- PLAN_ABORT (R281). SVC_PLAN_CMD OP 3 aborts the current test and stops the plan. -/
  | planAbort (e : Nat) (x : Site)
  /-- DUT_EVENT (R281). A firing of DUT_EVCH while the plan waits starts a DUT. -/
  | dutEvent (e : Nat) (x : Site)
  /-- PLAN_TEST_END (R281). The site reaches DONE, FAULTED or IDLE, and the plan judges limits, bins, logs and goes on. -/
  | planTestEnd (e : Nat) (x : Site)
  /-- PLAN_TIMEOUT (R281). TIMEOUT_MS expires and the plan service sends an abort. -/
  | planTimeout (e : Nat) (x : Site)
  /-- STALE_RETRY (R281). After STALE_RETRY_MS the plan re-arms the site, or records NOT_RUN. -/
  | staleRetry (e : Nat) (x : Site)
  /-- REFL_EVENT (R282). A firing of REFL_EVCH while the plan waits requests a reflection. -/
  | reflEvent (e : Nat) (x : Site)
  /-- DATALOG_RECORD (R285). The datalog service writes a record to the result ring, or drops it. -/
  | datalogRecord (e : Nat) (x : Site) (src : LogSource)
  /-- LOST (R286). Space returns in the result ring and a LOST record is written. -/
  | lost (e : Nat) (x : Site)
  /-- UDS_REQUEST (R289). A UDS job with OP REQUEST sends a request and waits for its response. -/
  | udsRequest (e : Nat) (c : Core) (sof : Word64) (eof : Word64)
  /-- UDS_SESSION (R289). A SESSION job changes the diagnostic session. -/
  | udsSession (e : Nat) (c : Core) (sof : Word64) (eof : Word64)
  /-- SECURITY (R290). A SECURITY job requests a seed, computes the key and sends it. -/
  | security (e : Nat) (c : Core) (ecc : Ecc) (sof : Word64) (eof : Word64)
  /-- DOWNLOAD (R293). A DOWNLOAD job programs the ECU region by region. -/
  | download (e : Nat) (c : Core) (sof : Word64) (eof : Word64)
  /-- ECU_RESET (R289). An ECU_RESET job sends ECUReset with its reset type. -/
  | ecuReset (e : Nat) (c : Core) (sof : Word64) (eof : Word64)
  /-- UDS_RESPONSE (R289). A response frame completes or extends a UDS transaction. -/
  | udsResponse (e : Nat) (x : Site) (u : Fin 64) (r : UdsIn) (sof : Word64) (eof : Word64)
  /-- P2_EXPIRY (R289). The P2 or P2* wait expires, and the job times out. -/
  | p2Expiry (e : Nat) (x : Site) (u : Fin 64)
  /-- TESTER_PRESENT (R289). Every S3_MS TesterPresent is sent in a non-default session. -/
  | testerPresent (e : Nat) (x : Site) (u : Fin 64)
  /-- KEY_REPLY (R292). A host key reply is taken from secure mailbox 1, and a matching one supplies the key. -/
  | keyReply (e : Nat)
  /-- KEY_TIMEOUT (R292). KEY_TMO_MS expires and the job completes with status 2. -/
  | keyTimeout (e : Nat) (x : Site) (u : Fin 64)
  /-- NETLIST_BUILD (R295). The netlist service writes the sweep waveforms, segment and program. -/
  | netlistBuild (e : Nat) (x : Site)
  /-- NETLIST_ANALYSIS (R296). The sweep's fail records are mapped into findings and a summary. -/
  | netlistAnalysis (e : Nat) (x : Site)
  /-- TRIG_IN_EDGE (R297). A TRIG_IN rising edge fires its producer. -/
  | trigInEdge (e : Nat) (n : Fin 16)
  /-- EVF_SWFIRE (R297). A write of 1 to a bit fires a software producer. -/
  | evfSwfire (e : Nat) (v : Word32)
  /-- EVENT_CHANNEL_FIRING (R302). A producer firing fires its event channels at once, or is held by the re-fire interval. -/
  | eventChannelFiring (e : Nat) (p : Fin 1536)
  /-- HELD_FIRING_RELEASE (R302). A held firing is released at the previous firing plus I_c as a self-triggered firing. -/
  | heldFiringRelease (e : Nat) (c : EvCh)
  /-- TRIG_OUT_PULSE_END (R306). TRIG_OUT falls 8 ns after the last firing. -/
  | trigOutPulseEnd (e : Nat) (n : Fin 16)
  /-- TIMER_EXPIRY (R308). A timer reaches its target and fires its producer. -/
  | timerExpiry (e : Nat) (k : Fin 32)
  /-- EVF_TIMER_CFG_WRITE (R308). A timer configuration write stops the timer and restarts it. -/
  | evfTimerCfgWrite (e : Nat) (k : Fin 32) (v : Word64)
  /-- TIMER_START_FIRING (R308). A firing of a DELAY or COUNT timer's channel starts a delay or counts. -/
  | timerStartFiring (e : Nat) (k : Fin 32)
  /-- INTERRUPT_PENDING (R312). A source becomes pending and, if deliverable, asserts a core or sends MSI-X. -/
  | interruptPending (e : Nat) (n : Fin 4096)
  /-- IRC_CLAIM (R313). A claim read returns and claims the best deliverable source, or 0. -/
  | ircClaim (e : Nat) (a : Agent) (x : Fin 56)
  /-- IRC_COMPLETE (R314). A completion write returns a claimed source to pending or idle. -/
  | ircComplete (e : Nat) (a : Agent) (x : Fin 56) (n : Fin 4096)
  /-- IRC_MASK_WRITE (R315). A mask write withdraws or restores delivery. -/
  | ircMaskWrite (e : Nat) (a : Agent) (w : Fin 128) (v : Word32)
  /-- HOLDOFF_END (R316). A group's hold-off ends and its pending sources become deliverable. -/
  | holdoffEnd (e : Nat) (g : Group)
  /-- LAK_OWNER_WRITE (R321). A bank handover is applied in order, or refused with HANDOVER_REJ. -/
  | lakOwnerWrite (e : Nat) (a : Agent) (b : Bank) (v : Byte)
  /-- LAK_STATE_WRITE (R323). A bank power-state request begins a transition, or is refused. -/
  | lakStateWrite (e : Nat) (a : Agent) (b : Bank) (v : Word32)
  /-- BANK_TRANSITION_COMPLETE (R323). A bank reaches its requested power state. -/
  | bankTransitionComplete (e : Nat) (b : Bank)
  /-- LAKE_WRITE (R320). A port A plain write is stored, or dropped under ownership and state. -/
  | lakeWrite (e : Nat) (a : Agent) (addr : Fin 33554432) (data : List (Option Byte)) (coll : List Nat)
  /-- LAKE_SET_WRITE (R319). A set-window write ORs bits into a word. -/
  | lakeSetWrite (e : Nat) (a : Agent) (addr : Fin 33554432) (data : List (Option Byte))
  /-- LAKE_CLEAR_WRITE (R319). A clear-window write clears bits of a word. -/
  | lakeClearWrite (e : Nat) (a : Agent) (addr : Fin 33554432) (data : List (Option Byte))
  /-- DMC_OP_CMD (R332). A GO write changes the DRAM operating point in READY, or is refused. -/
  | dmcOpCmd (e : Nat) (v : Word32)
  /-- OP_CHANGE_COMPLETE (R332). The operating-point change completes, or fails with OP_FAIL. -/
  | opChangeComplete (e : Nat) (ok : Bool)
  /-- REQUEST_PROMOTION (R328). A DRAM request older than 1.5 µs is promoted to SC0. -/
  | requestPromotion (e : Nat) (k : Fin 4)
  /-- PAGE_CLOSE_TIMEOUT (R329). An open page is closed after 200 ns without access. -/
  | pageCloseTimeout (e : Nat) (ch : Fin 8) (bank : Fin 64)
  /-- PERST_N (R344). PERST_n resets the endpoint and both functions' host-side state. -/
  | perstN (e : Nat) (high : Bool)
  /-- FLR (R344). A function-level reset resets one function's host-side state. -/
  | flr (e : Nat) (f : Func)
  /-- HRG_CMD_TAIL_WRITE (R346). A TAIL write publishes descriptors, or is ignored with DB_REJ. -/
  | hrgCmdTailWrite (e : Nat) (a : Agent) (r : RingId) (v : Word32)
  /-- DESCRIPTOR_READ (R346). A published descriptor is read at HEAD and executed. -/
  | descriptorRead (e : Nat) (r : RingId)
  /-- ARM (R348). Command-ring OP 1 arms the site. -/
  | arm (e : Nat) (x : Site)
  /-- ABORT (R348). Command-ring OP 2 aborts the test. -/
  | abort (e : Nat) (x : Site)
  /-- ACK_COMMAND (R348). Command-ring OP 3 acknowledges the site. -/
  | ackCommand (e : Nat) (x : Site)
  /-- RESET (R348). Command-ring OP 4 resets the site. -/
  | reset (e : Nat) (x : Site)
  /-- SET_ARG (R348). Command-ring OP 5 writes MDR_STEP_ARG[n] while the site is IDLE or DONE. -/
  | setArg (e : Nat) (x : Site)
  /-- RING_PLAN_START (R348). Command-ring OP 6 starts a DUT with a serial. -/
  | ringPlanStart (e : Nat) (x : Site)
  /-- RING_PLAN_STOP (R348). Command-ring OP 7 stops the plan. -/
  | ringPlanStop (e : Nat) (x : Site)
  /-- RING_PLAN_ABORT (R348). Command-ring OP 8 aborts the test and stops the plan. -/
  | ringPlanAbort (e : Nat) (x : Site)
  /-- REFLECT (R348). Command-ring OP 9 requests a reflection. -/
  | reflect (e : Nat) (x : Site)
  /-- TABLE_LOAD (R348). Command-ring OP 10 checks and replaces one SERVICES table of the site. -/
  | tableLoad (e : Nat) (x : Site)
  /-- NVM_READ (R349). Management OP 1 reads flash bytes into memory. -/
  | nvmRead (e : Nat) (m : Fin 16) (data : List Byte)
  /-- NVM_ERASE (R349). Management OP 2 erases 4 KiB flash sectors. -/
  | nvmErase (e : Nat) (m : Fin 16) (done : Nat)
  /-- NVM_PROGRAM (R349). Management OP 3 programs and verifies flash pages. -/
  | nvmProgram (e : Nat) (m : Fin 16) (done : Nat)
  /-- TOD_SET (R349). Management OP 4 writes UMB_TOD_OFFSET, or is refused. -/
  | todSet (e : Nat) (m : Fin 16)
  /-- TOD_ADJ (R349). Management OP 5 adds whole seconds to UMB_TOD_OFFSET, or is refused. -/
  | todAdj (e : Nat) (m : Fin 16)
  /-- DESCRIPTOR_COMPLETE (R346). A descriptor completes with its write-back and DONE advances. -/
  | descriptorComplete (e : Nat) (r : RingId)
  /-- HRG_CMD_SEEN_WRITE (R346). The host acknowledges completed descriptors by SEEN. -/
  | hrgCmdSeenWrite (e : Nat) (a : Agent) (r : RingId) (v : Word32)
  /-- RING_DISABLE (R346). Clearing a ring's EN flushes its published descriptors. -/
  | ringDisable (e : Nat) (a : Agent) (r : RingId)
  /-- HRG_RES_RD_WRITE (R350). The host advances a result ring's RD. -/
  | hrgResRdWrite (e : Nat) (x : Site) (v : Word32)
  /-- MBX_DATA_WRITE (R353). A sender writes mailbox data while EMPTY, or is refused. -/
  | mbxDataWrite (e : Nat) (a : Agent) (n : Fin 64) (w : Fin 16) (v : Word32)
  /-- MBX_DOORBELL (R353). A doorbell posts the message and the mailbox becomes FULL. -/
  | mbxDoorbell (e : Nat) (a : Agent) (n : Fin 64) (v : Word32)
  /-- MBX_TAKE (R353). The receiver empties the mailbox and the emptied source is raised. -/
  | mbxTake (e : Nat) (a : Agent) (n : Fin 64) (ecc : Ecc)
  /-- MBX_LOCK_READ (R354). A read of a free lock takes it, and returns the holder otherwise. -/
  | mbxLockRead (e : Nat) (a : Agent) (n : Fin 64)
  /-- MBX_LOCK_RELEASE (R354). A write of the holder's number releases the lock. -/
  | mbxLockRelease (e : Nat) (a : Agent) (n : Fin 64) (v : Byte)
  /-- KEY_STORE_WRITE (R291). PCI_KEY_CMD OP 1 writes a key into the selected slot. -/
  | keyStoreWrite (e : Nat)
  /-- KEY_STORE_ERASE (R291). PCI_KEY_CMD OP 2 erases the selected slot. -/
  | keyStoreErase (e : Nat)
  /-- REG64_LOW_READ (R342). A low-word read of a 64-bit register latches its high word and clears its RC fields. -/
  | reg64LowRead (e : Nat) (a : Agent) (off : Fin 67108864)
  /-- REG64_HIGH_WRITE (R342). A high-word write goes to the agent's write shadow. -/
  | reg64HighWrite (e : Nat) (a : Agent) (off : Fin 67108864) (v : Word32)
  /-- RC_REGISTER_READ (R7). A read of an RC field returns it and clears it. -/
  | rcRegisterRead (e : Nat) (a : Agent) (off : Fin 67108864) (n : Fin 9)
  /-- REGISTER_WRITE (R7). A write to a register with no row of its own acts by its access code. -/
  | registerWrite (e : Nat) (a : Agent) (off : Fin 67108864) (n : Fin 9) (v : Word64)
  /-- SAFE_IN_N_FALL (R363). SAFE_IN_n falls for 5 ns or more and safe state is entered. -/
  | safeInNFall (e : Nat) (long : Bool)
  /-- CIN_FORCE_WRITE (R363). PF1 sets or withdraws the forced safe-state cause. -/
  | cinForceWrite (e : Nat) (v : Word32)
  /-- CIN_EXIT (R368). An exit write with its key is accepted and time-released, or refused. -/
  | cinExit (e : Nat) (v : Word32)
  /-- EXIT_RELEASE (R368). At the release instant the drive pairs take their levels and SAFE_OUT_n releases. -/
  | exitRelease (e : Nat)
  /-- CIN_TILE_RESET (R372). PF1 resets tiles whose sites are inactive, or is refused. -/
  | cinTileReset (e : Nat) (v : Word32)
  /-- CIN_CORE_RESET (R372). PF1 resets service cores. -/
  | cinCoreReset (e : Nat) (v : Word32)
  /-- SAFE_IN_N_RISE (R368). SAFE_IN_n rises, and 1 µs later cause bit 0 of CIN_CAUSE clears and the exit precondition on SAFE_IN_n can be met. -/
  | safeInNRise (e : Nat)
  /-- TESTEN_LOW (R33). TESTEN returns low, releasing the drive pairs from the TESTEN hold and allowing images to be accepted again. -/
  | testenLow (e : Nat)
  /-- REFERENCE_RETURN (R206). A lost REFIN, PPS_IN or Lenkel reference returns and Umber leaves HOLDOVER for ACQUIRE. -/
  | referenceReturn (e : Nat)
  /-- PCIE_LINK_DOWN (R344). The PCI Express link leaves L0 without PERST_n, setting PCI_FAULT_STAT.LINK_DOWN and counting in PCI_LINK.DOWNS. -/
  | pcieLinkDown (e : Nat)
  /-- PCIE_LINK_UP (R334). The PCI Express link finishes training at a negotiated rate and width and PCI_LINK reads up. -/
  | pcieLinkUp (e : Nat) (rate : Fin 16) (width : Fin 16) (flit : Bool) (rev : Bool)
  /-- MSIX_UNMASK (R337). A host unmasks an MSI-X vector, clears the function mask or enables MSI-X, and the function sends one message per vector that has a deliverable source. -/
  | msixUnmask (e : Nat) (f : Func) (op : MsixOp)
  /-- DRAM_WRITE (R326). A host write through BAR2 or the PF1 staging window reaches DRAM, with read-modify-write and ECC in CONTROL regions or NO_REGION outside a usable part. -/
  | dramWrite (e : Nat) (f : Func) (addr : Fin 137438953472) (data : List (Option Byte)) (bad : List Nat) (fixed : Bool) (lat : Nat) (pages : List PageAccess)
  /-- ISOTP_N_TIMEOUT (R288). The N_Bs or N_Cr wait of an ISO-TP transfer expires after N_TMO_MS and the job ends. -/
  | isotpNTimeout (e : Nat) (c : Core) (began : Word64)
  /-- PHY_RESET_RELEASE (R252). 10 µs after commit a protocol-6 engine releases its PHY reset output, unless BUS_CTRL.PHY_RESET holds it. -/
  | phyResetRelease (e : Nat) (en : Engine)
  /-- XTAL_TEMP_READ (R204). Every 1 ms the sensor beside the crystal is read into UMB_XTAL_TEMP and Umber updates its temperature correction of c, setting SLEW_LIMIT if c is held at its bound. -/
  | xtalTempRead (e : Nat) (temp : BitVec 16)
  /-- UMB_AGE_INCREMENT (R204). Each 1,024 operating hours a UMB_AGE fuse bit is programmed and the ageing correction advances. -/
  | umbAgeIncrement (e : Nat)
  deriving DecidableEq, Repr

end Sys2Proof
end

