-- ==== Sys2Proof/Decode.lean ====
section
/-! DEFINITION. Decoding. The rows of spec/opcode_table.json give no bits: the block takes commands, not words
(notes/assumptions/1.md), so no word spells a command. -/

namespace Sys2Proof

/-- The command that a word of nbits spells by the table's bits: none, since no row gives bits. -/
def decodeTableWord (_nbits _w : Nat) : Option Instr := none

end Sys2Proof
end

