-- ==== Sys2Proof/Config.lean ====
section
/-! DEFINITION. What the spec leaves open, as opaque constants: nothing in Lean can evaluate them, so a claim
holds whatever they are (notes/assumptions/3.md). -/

namespace Sys2Proof.Config

/-- The free values: the n-th one drawn in a run (the counter is `State.free`). The step bounds it where the
spec gives a bound. -/
opaque freeValue : Nat → Nat

/-- What a byte of DRAM or Lake that nothing has written since its contents became undefined reads as: the number
of that moment and the address fix it, nothing else is known. -/
opaque openByte : Nat → Nat → Byte

/-- SHA-384 (FIPS 180-4, R51, R52): the 48 bytes of the hash, first byte first. The standard lies outside the spec. -/
opaque sha384 : List Byte → List Byte

/-- ECDSA P-384 verification (FIPS 186-5, R51, R53): does the signature (r, s) verify over the hash under the key
bytes Qx then Qy, the point being valid and r, s in range. The standard lies outside the spec. -/
opaque ecdsaVerify : List Byte → List Byte → List Byte → List Byte → Bool

/-- The Uskaond key held in service-core ROM (R53): Qx then Qy. -/
opaque romKey : List Byte

/-- HMAC-SHA-256 (R290): secret, then message. The standard lies outside the spec. -/
opaque hmacSha256 : List Byte → List Byte → List Byte

/-- AES-128-CMAC (R290): key, then message. The standard lies outside the spec. -/
opaque aesCmac : List Byte → List Byte → List Byte

end Sys2Proof.Config
end

