-- ==== Sys2Proof/Machine/Bits.lean ====
section
/-! DEFINITION. Bit fields, two's complement, byte order and the two CRCs the spec defines. -/

namespace Sys2Proof.Machine

/-- Bits [lo+w-1:lo] of a number. -/
def bitsOf (v lo w : Nat) : Nat := (v >>> lo) % 2 ^ w

/-- Bit i of a number. -/
def bitAt (v i : Nat) : Bool := v.testBit i

/-- A number with bit i set. -/
def setBit (v i : Nat) : Nat := v ||| (1 <<< i)

/-- A number with bit i cleared. -/
def clearBit (v i : Nat) : Nat := if v.testBit i then v ^^^ (1 <<< i) else v

/-- A Bool as a field of one bit. -/
def ofBool (b : Bool) : Nat := if b then 1 else 0

/-- The two's complement value of a field of w bits. -/
def toInt (w v : Nat) : Int := if v % 2 ^ w < 2 ^ (w - 1) then (v % 2 ^ w : Nat) else ((v % 2 ^ w : Nat) : Int) - (2 ^ w : Nat)

/-- An integer as a two's complement field of w bits. -/
def ofInt (w : Nat) (i : Int) : Nat := (i % (2 ^ w : Nat)).toNat

/-- An integer held to the signed range of w bits. -/
def satInt (w : Nat) (i : Int) : Int :=
  let hi : Int := (2 ^ (w - 1) : Nat) - 1
  let lo : Int := - ((2 ^ (w - 1) : Nat) : Int)
  if i > hi then hi else if i < lo then lo else i

/-- The 64-bit wrap of device time and of every target formed from it (R202, R308). -/
def wrap64 (n : Nat) : Nat := n % 2 ^ 64

/-- The signed distance from DT a to DT b, modulo 2^64 (R160). -/
def dtDiff (a b : Nat) : Int := toInt 64 (wrap64 (b + 2 ^ 64 - wrap64 a))

/-- DT a has reached DT b, by the wrapping comparison of R160. -/
def dtReached (now target : Nat) : Bool := decide (0 ≤ dtDiff target now)

/-- A little-endian number from its bytes (R5). -/
def ofBytes : List Byte → Nat
  | [] => 0
  | b :: r => b.toNat + 256 * ofBytes r

/-- The n bytes of a number, least significant first (R5). -/
def toBytes : Nat → Nat → List Byte
  | 0, _ => []
  | n + 1, v => BitVec.ofNat 8 v :: toBytes n (v / 256)

/-- The little-endian number of n bytes at offset o of a body; bytes past its end read 0. -/
def leAt (bs : List Byte) (o n : Nat) : Nat := ofBytes ((bs.drop o).take n)

/-- Is every byte of the list zero. -/
def allZero (bs : List Byte) : Bool := bs.all (· == 0)

/-- One reflected CRC bit step with polynomial p. -/
def crcStep (p c : Nat) : Nat := if c % 2 = 1 then (c >>> 1) ^^^ p else c >>> 1

/-- Eight reflected CRC bit steps. -/
def crcByte (p c b : Nat) : Nat :=
  (List.range 8).foldl (fun c _ => crcStep p c) (c ^^^ b)

/-- CRC-32C over bytes from a running value, without the final XOR (R50, R83). -/
def crc32cRun (c : Nat) (bs : List Byte) : Nat := bs.foldl (fun c b => crcByte 0x82F63B78 c b.toNat) c

/-- CRC-32C of R50: reflected, initial value and final XOR 0xFFFF_FFFF. -/
def crc32c (bs : List Byte) : Nat := crc32cRun 0xFFFFFFFF bs ^^^ 0xFFFFFFFF

/-- The CRC8 of control blocks, polynomial 0x2F, initial value and final XOR 0xFF (R228). -/
def crc8 (bs : List Byte) : Nat :=
  (bs.foldl (fun c b => (List.range 8).foldl
    (fun c _ => if c ≥ 128 then ((c * 2) ^^^ 0x2F) % 256 else (c * 2) % 256) (c ^^^ b.toNat)) 0xFF) ^^^ 0xFF

/-- A number rounded up to a multiple of m. -/
def alignUp (n m : Nat) : Nat := (n + m - 1) / m * m

end Sys2Proof.Machine
end

