-- ==== Sys2Proof/Machine/Regs.lean ====
section
/-! DEFINITION. The registers of the part and their fields, as the field tables of spec/ give them: one name per
register and per field, with its place, width, access code (R7) and reset value (R9), and the address map (R338, R339).
A FAULT_MASK register has the layout of its FAULT_STAT and is held as one field. -/

namespace Sys2Proof.Machine

/-- The access codes of R7. -/
inductive Access
  | rw | ro | w1c | w1s | rc | wo | lk
  deriving DecidableEq, Repr

/-- The registers of the part, named as spec/ names them. -/
inductive Reg
  -- spec/02_package_power.md
  | DEV_ID | DEV_SERIAL | DEV_STATE | DEV_NUMBER | DEV_TEMP | DEV_THERM_CFG | DEV_FAULT_STAT | DEV_FAULT_MASK
  | PWR_RAIL_STAT | PWR_CTRL | PWR_STAT | PWR_LADDER_CFG | PWR_WAKE_CFG | PWR_FAULT_STAT | PWR_FAULT_MASK
  | PWR_GROUP_STATE | PWR_SLEEP_SET | PWR_SLEEP_CLR | PWR_SLIP
  -- spec/03_image_and_boot.md
  | CFG_STAT | CFG_FAIL | CFG_IMAGE | CFG_HASH | CFG_LOAD_DT | CFG_FUSE_STAT | CFG_FAULT_STAT | CFG_FAULT_MASK
  | CFG_RELOAD | CFG_STAGE_ADDR | CFG_STAGE_LEN | CFG_FUSE_CMD | CFG_FUSE_RES | CFG_KEYHASH_IN
  -- spec/04_sites.md
  | SMAP_QUAD | SMAP_BUSMODE | SMAP_SITE | SMAP_TSLICE | MDR_SITE_STATE | MDR_SITE_CMD | MDR_SITE_START_REQ
  | MDR_SITE_CMD_RES | MDR_SITE_START_DT | MDR_SITE_STALL | MDR_SITE_STALL_DT | MDR_SITE_RESUME_DT | MDR_SITE_HOLDS
  | MDR_SITE_SPAN | MDR_SITE_STAT | MDR_SITE_FCAUSE | MDR_SITE_DONE_DT
  -- spec/05_vectors_segments.md
  | VST_SLOTS | VST_DEMAND | VST_FAULT_STAT | VST_FAULT_MASK | VST_SLICE | SLP_FAULT_STAT | SLP_FAULT_MASK
  | SLP_PATCH | SLP_STAT | SLP_POS | SLP_VCOUNT | SLP_JUMP_CFG | SLP_JUMPSTAT | SLP_JUMP_DT | SLP_LOOPPRE
  | SLP_MATCH_TMO | SLP_CTRLCRC
  -- spec/06_timing_waveforms.md
  | WOD_WF_SEL | WOD_WF_DATA | WOD_WF_CMD | WOD_WF_RES | WOD_FAULT_STAT | WOD_FAULT_MASK | WOD_SLICE_TS
  | WOD_SLICE_PERIOD | WOD_SLICE_BOUNDARY | WOD_SLICE_STAT | WOD_PERIOD | WOD_CH_PIN | WOD_CH_CFG | WOD_CH_FIXDELAY
  | WOD_CH_STAT | WOD_CH_DROPS
  -- spec/07_compare_capture.md
  | SEP_CMP_CH_CFG | SEP_CMP_CH_MASK | SEP_CMP_CH_VTH | SEP_CMP_CH_VTT | SEP_CMP_CH_LIVE | SEP_CMP_CH_FAILS
  | SEP_CMP_CH_STAT | SEP_CMP_FAULT_STAT | SEP_CMP_FAULT_MASK | SEP_CMP_SLICE_FAILVEC | SEP_CMP_SLICE_FAILS
  | SEP_CAP_TFAULT_STAT | SEP_CAP_TFAULT_MASK | SEP_CAP_STAGE | SEP_CAP_FAULT_STAT | SEP_CAP_FAULT_MASK
  | SEP_CAP_POLICY | SEP_CAP_LIMIT | SEP_CAP_LOGMAX | SEP_CAP_FAILS | SEP_CAP_FF_DT | SEP_CAP_FF_REC
  | SEP_CAP_STAT | SEP_CAP_STOP_DT | SEP_CAP_RING_BASE | SEP_CAP_RING_CFG | SEP_CAP_RING_WR | SEP_CAP_RING_RD
  | SEP_CAP_LOST | SEP_CAP_LOGGED
  -- spec/08_step_engine.md
  | MDR_STEP_STAT | MDR_STEP_PC | MDR_STEP_FAULT | MDR_STEP_BIN | MDR_STEP_EVDT | MDR_STEP_TRAP | MDR_STEP_SVC_TMO
  | MDR_STEP_SVC_RES | MDR_STEP_ARG | MDR_STEP_EVSTAT | MDR_STEP_TRIM | MDR_STEP_G | MDR_STEP_WMASK | MDR_STEP_EVL
  | MDR_STEP_STACK | MDR_STEP_PATCH | MDR_STEP_PDIR | MDR_STEP_FAULT_STAT | MDR_STEP_FAULT_MASK | MDR_STEP_SYNC_MEM
  | MDR_STEP_SYNC_STAT | MDR_STEP_SYNC_DT
  -- spec/09_acquisition.md
  | SEP_ACQ_CH_CFG | SEP_ACQ_CH_AUTO | SEP_ACQ_CH_ARMEV | SEP_ACQ_CH_PARAM0 | SEP_ACQ_CH_PARAM1 | SEP_ACQ_CH_CMD
  | SEP_ACQ_CH_STAT | SEP_ACQ_CH_TRIGS | SEP_ACQ_CH_ARM_DT | SEP_ACQ_CH_SEQ | SEP_ACQ_CH_TIMER | SEP_ACQ_POOL
  | SEP_ACQ_TFAULT_STAT | SEP_ACQ_TFAULT_MASK | SEP_ACQ_RING_BASE | SEP_ACQ_RING_CFG | SEP_ACQ_RING_WR
  | SEP_ACQ_RING_RD | SEP_ACQ_LOST | SEP_ACQ_LOGGED | SEP_ACQ_FAULT_STAT | SEP_ACQ_FAULT_MASK
  -- spec/10_time_interval_timebase.md
  | TIA_CH_CFG | TIA_CH_N | TIA_CH_WMIN | TIA_CH_WMAX | TIA_CH_GATE | TIA_CH_PARTNER | TIA_CH_CMD | TIA_CH_STAT
  | TIA_CH_COUNT | TIA_CH_SUM | TIA_CH_MIN | TIA_CH_MAX | TIA_CH_MEAN | TIA_CH_SD | TIA_CH_M2 | TIA_CH_AUX
  | TIA_CH_START_DT | TIA_CH_DONE_DT | TIA_FAULT_STAT | TIA_FAULT_MASK | UMB_DT | UMB_ERA | UMB_ERA_LATCH
  | UMB_CFG | UMB_STAT | UMB_RATE | UMB_PHASE_ERR | UMB_XTAL_TEMP | UMB_AGE | UMB_TOD_OFFSET | UMB_PPS_DT
  | UMB_FAULT_STAT | UMB_FAULT_MASK
  -- spec/11_self_trim.md
  | MRD_CH_QF | MRD_CH_AGE | MRD_CH_TRIM_DT | MRD_CH_PASS | MRD_CH_REFL | MRD_TILE_STAT | MRD_TSKEW | MRD_FAULT_STAT
  | MRD_FAULT_MASK | MRD_REFL_CMD | MRD_REFL_CFG | MRD_REFL_STAT | MRD_REFL_DT | MRD_SITE_QF
  -- spec/12_links_time.md
  | TLK_STAT | TLK_ERR | TLK_FAULT_STAT | TLK_FAULT_MASK | TLK_CORE_STAT | TLK_CORE_UPDT | LNK_TIME_STAT
  | LNK_TIME_OFFS | LNK_TIME_ADOPT | LNK_TIME_CFG | LNK_FAULT_STAT | LNK_FAULT_MASK | LNK_PORT_STAT | LNK_PORT_CMD
  | LNK_PORT_DELAY | LNK_PORT_BCLAT | LNK_PORT_ERR | LNK_PORT_DROP | LNK_PORT_TRAIN
  -- spec/13_bus_engines.md
  | BUS_CFG | BUS_CTRL | BUS_STAT | BUS_TX_POST | BUS_TX_RES | BUS_GATE | BUS_EV_CFG | BUS_CAN_ERR | BUS_FAULT_STAT
  | BUS_FAULT_MASK | BUS_CNT | BUS_RX_BASE | BUS_SR_BASE | BUS_RX_CFG | BUS_SR_CFG | BUS_RX_WR | BUS_RX_RD
  | BUS_SR_WR | BUS_SR_RD | BUS_RX_LOST | BUS_SR_LOST | BUS_FILT_VAL | BUS_FILT_MSK | BUS_LIN_RESP | BUS_LIN_DATA
  | BUS_MDIO_CMD | BUS_MDIO_RES
  -- spec/14_services.md
  | SAF_CFG | SAF_STAT | SAF_FAULT_STAT | SAF_FAULT_MASK | SAF_GET | SAF_CORE | SAF_LEVEL | SAF_FLOW_SEL
  | SAF_FLOW_STAT | SAF_DELAY | SVC_FW | SVC_FAULT_STAT | SVC_FAULT_MASK | SVC_CORE_STAT | SVC_PLAN_CMD
  | SVC_PLAN_SERIAL | SVC_PLAN_STAT | SVC_DUTS | SVC_LAST | SVC_DLOST
  -- spec/15_events_interrupts.md
  | EVF_STAT | EVF_SWFIRE | EVF_FAULT_STAT | EVF_FAULT_MASK | EVF_LOOPSTAT | EVF_TRIGOUT_SRC | EVF_BCAST
  | EVF_COINC | EVF_CHEVSEL | EVF_TIMER_CFG | EVF_TIMER_T0 | EVF_TIMER_PERIOD | EVF_TIMER_STAT | EVF_CH_CFG
  | EVF_CH_LAST | EVF_CH_CNT | EVF_MATRIX | IRC_FAULT_STAT | IRC_FAULT_MASK | IRC_HOLDOFF | IRC_MASK
  | IRC_PEND | IRC_CLAIMED | IRC_LINE | IRC_OVR | IRC_CLAIM | IRC_COMPLETE | IRC_SRC
  -- spec/16_memory_dram.md
  | LAK_FAULT_STAT | LAK_FAULT_MASK | LAK_OWNER | LAK_STATE | LAK_BANK_STAT | DMC_CFG | DMC_OP_STAT | DMC_OP_CMD
  | DMC_FAULT_STAT | DMC_FAULT_MASK | DMC_REGION | DMC_SC | DMC_CH_STAT
  -- spec/17_host_interface.md
  | PCI_ID | PCI_LINK | PCI_FAULT_STAT | PCI_FAULT_MASK | PCI_RWIN | PCI_DWIN | PCI_KEY_SEL | PCI_KEY_DATA
  | PCI_KEY_CMD | PCI_KEY_RES | PCI_KEY_MAP | PCI_DEVCMD | HRG_FAULT_STAT | HRG_FAULT_MASK | HRG_RES_BASE
  | HRG_RES_CFG | HRG_RES_WR | HRG_RES_RD | HRG_CMD_BASE | HRG_CMD_CFG | HRG_CMD_TAIL | HRG_CMD_HEAD
  | HRG_CMD_DONE | HRG_CMD_SEEN | MBX_FAULT_STAT | MBX_FAULT_MASK | MBX_DATA | MBX_DOORBELL | MBX_CODE
  | MBX_TAKE | MBX_STAT | MBX_LOCK | MBX_POST_DT | MBX_TAKE_DT | HRG_MGT_BASE | HRG_MGT_CFG | HRG_MGT_TAIL
  | HRG_MGT_HEAD | HRG_MGT_DONE | HRG_MGT_SEEN | PCI_MSIX0_ADDR | PCI_MSIX0_DATA | PCI_MSIX0_CTRL | PCI_MSIX0_PBA
  | PCI_MSIX1_ADDR | PCI_MSIX1_DATA | PCI_MSIX1_CTRL | PCI_MSIX1_PBA
  -- spec/18_faults_safe_state.md
  | CIN_STAT | CIN_CAUSE | CIN_CAUSE_SEEN | CIN_ENTRY_DT | CIN_EXIT_DT | CIN_ENTRIES | CIN_SAT | CIN_FAULT_STAT
  | CIN_FAULT_MASK | CIN_FORCE | CIN_EXIT | CIN_TILE_RESET | CIN_CORE_RESET
  deriving DecidableEq, Repr

/-- A field of a register: its register, lowest bit, width, access code and reset value. A field of a replicated
register has one value per index; the index is the row-major number of the register's own indices, which for a channel
is its global number and for a slice is 32t + j. -/
structure Fld where
  reg : Reg
  lo : Nat
  w : Nat
  acc : Access
  rst : Nat
  deriving DecidableEq, Repr

/-- The number under which a field is held: one number per register and lowest bit. -/
def Fld.id (f : Fld) : Nat := f.reg.ctorIdx * 128 + f.lo

namespace F

/-! Fields of spec/02_package_power.md -/

abbrev DEV_ID.PART : Fld := ⟨.DEV_ID, 16, 16, .ro, 4132⟩
abbrev DEV_ID.ORDER : Fld := ⟨.DEV_ID, 12, 4, .ro, 0⟩
abbrev DEV_ID.REV : Fld := ⟨.DEV_ID, 4, 8, .ro, 176⟩
abbrev DEV_SERIAL.SERIAL : Fld := ⟨.DEV_SERIAL, 0, 64, .ro, 0⟩
abbrev DEV_STATE.STATE : Fld := ⟨.DEV_STATE, 0, 4, .ro, 1⟩
abbrev DEV_STATE.SAFE : Fld := ⟨.DEV_STATE, 4, 1, .ro, 0⟩
abbrev DEV_STATE.ENTERING : Fld := ⟨.DEV_STATE, 5, 1, .ro, 0⟩
abbrev DEV_STATE.WAKING : Fld := ⟨.DEV_STATE, 6, 1, .ro, 0⟩
abbrev DEV_NUMBER.NUMBER : Fld := ⟨.DEV_NUMBER, 0, 5, .lk, 0⟩
abbrev DEV_TEMP.TEMP : Fld := ⟨.DEV_TEMP, 0, 16, .ro, 0⟩
abbrev DEV_TEMP.VALID : Fld := ⟨.DEV_TEMP, 16, 1, .ro, 0⟩
abbrev DEV_THERM_CFG.WARN : Fld := ⟨.DEV_THERM_CFG, 0, 8, .rw, 100⟩
abbrev DEV_FAULT_STAT.THERM_WARN : Fld := ⟨.DEV_FAULT_STAT, 0, 1, .w1c, 0⟩
abbrev DEV_FAULT_STAT.THERM_TRIP : Fld := ⟨.DEV_FAULT_STAT, 1, 1, .w1c, 0⟩
abbrev DEV_FAULT_STAT.TEMP_LOW : Fld := ⟨.DEV_FAULT_STAT, 2, 1, .w1c, 0⟩
abbrev DEV_FAULT_STAT.FUSE_CORR : Fld := ⟨.DEV_FAULT_STAT, 3, 1, .w1c, 0⟩
abbrev DEV_FAULT_MASK.BITS : Fld := ⟨.DEV_FAULT_MASK, 0, 4, .rw, 0⟩
abbrev PWR_RAIL_STAT.GOOD : Fld := ⟨.PWR_RAIL_STAT, 0, 8, .ro, 0⟩
abbrev PWR_CTRL.DORMANT : Fld := ⟨.PWR_CTRL, 0, 1, .wo, 0⟩
abbrev PWR_CTRL.WAKE : Fld := ⟨.PWR_CTRL, 1, 1, .wo, 0⟩
abbrev PWR_STAT.PHASE : Fld := ⟨.PWR_STAT, 0, 3, .ro, 0⟩
abbrev PWR_STAT.DORM_REJ : Fld := ⟨.PWR_STAT, 3, 1, .w1c, 0⟩
abbrev PWR_STAT.SLEEP_REJ : Fld := ⟨.PWR_STAT, 4, 1, .w1c, 0⟩
abbrev PWR_STAT.QUEUED : Fld := ⟨.PWR_STAT, 8, 8, .ro, 0⟩
abbrev PWR_LADDER_CFG.SPACING : Fld := ⟨.PWR_LADDER_CFG, 0, 4, .lk, 1⟩
abbrev PWR_WAKE_CFG.EVCH : Fld := ⟨.PWR_WAKE_CFG, 0, 8, .lk, 0⟩
abbrev PWR_WAKE_CFG.EN : Fld := ⟨.PWR_WAKE_CFG, 8, 1, .lk, 0⟩
abbrev PWR_FAULT_STAT.UV : Fld := ⟨.PWR_FAULT_STAT, 0, 7, .w1c, 0⟩
abbrev PWR_FAULT_STAT.SETTLE_FAIL : Fld := ⟨.PWR_FAULT_STAT, 7, 1, .w1c, 0⟩
abbrev PWR_FAULT_MASK.BITS : Fld := ⟨.PWR_FAULT_MASK, 0, 8, .rw, 0⟩
abbrev PWR_GROUP_STATE.G0 : Fld := ⟨.PWR_GROUP_STATE, 0, 3, .ro, 0⟩
abbrev PWR_GROUP_STATE.G1 : Fld := ⟨.PWR_GROUP_STATE, 3, 3, .ro, 0⟩
abbrev PWR_GROUP_STATE.G2 : Fld := ⟨.PWR_GROUP_STATE, 6, 3, .ro, 0⟩
abbrev PWR_GROUP_STATE.G3 : Fld := ⟨.PWR_GROUP_STATE, 9, 3, .ro, 0⟩
abbrev PWR_GROUP_STATE.G4 : Fld := ⟨.PWR_GROUP_STATE, 12, 3, .ro, 0⟩
abbrev PWR_GROUP_STATE.G5 : Fld := ⟨.PWR_GROUP_STATE, 15, 3, .ro, 0⟩
abbrev PWR_GROUP_STATE.G6 : Fld := ⟨.PWR_GROUP_STATE, 18, 3, .ro, 0⟩
abbrev PWR_GROUP_STATE.G7 : Fld := ⟨.PWR_GROUP_STATE, 21, 3, .ro, 0⟩
abbrev PWR_SLEEP_SET.SITE : Fld := ⟨.PWR_SLEEP_SET, 0, 32, .w1s, 0⟩
abbrev PWR_SLEEP_CLR.SITE : Fld := ⟨.PWR_SLEEP_CLR, 0, 32, .w1c, 0⟩
abbrev PWR_SLIP.SLIP : Fld := ⟨.PWR_SLIP, 0, 64, .ro, 0⟩

/-! Fields of spec/03_image_and_boot.md -/

abbrev CFG_STAT.CODE : Fld := ⟨.CFG_STAT, 0, 8, .ro, 0⟩
abbrev CFG_STAT.SOURCE : Fld := ⟨.CFG_STAT, 8, 2, .ro, 0⟩
abbrev CFG_STAT.FALLBACK : Fld := ⟨.CFG_STAT, 10, 1, .ro, 0⟩
abbrev CFG_STAT.BUSY : Fld := ⟨.CFG_STAT, 11, 1, .ro, 0⟩
abbrev CFG_STAT.RELOAD_REJ : Fld := ⟨.CFG_STAT, 12, 1, .w1c, 0⟩
abbrev CFG_FAIL.CODE : Fld := ⟨.CFG_FAIL, 0, 8, .ro, 0⟩
abbrev CFG_FAIL.RECORD : Fld := ⟨.CFG_FAIL, 16, 16, .ro, 0⟩
abbrev CFG_FAIL.OFFSET : Fld := ⟨.CFG_FAIL, 32, 32, .ro, 0⟩
abbrev CFG_IMAGE.IMAGE_ID : Fld := ⟨.CFG_IMAGE, 0, 32, .lk, 0⟩
abbrev CFG_IMAGE.FORMAT : Fld := ⟨.CFG_IMAGE, 32, 16, .lk, 0⟩
abbrev CFG_IMAGE.SECVER : Fld := ⟨.CFG_IMAGE, 48, 16, .lk, 0⟩
abbrev CFG_HASH.HASH : Fld := ⟨.CFG_HASH, 0, 32, .lk, 0⟩
abbrev CFG_LOAD_DT.DT : Fld := ⟨.CFG_LOAD_DT, 0, 64, .lk, 0⟩
abbrev CFG_FUSE_STAT.KEYHASH_PROG : Fld := ⟨.CFG_FUSE_STAT, 0, 1, .ro, 0⟩
abbrev CFG_FUSE_STAT.SECVER : Fld := ⟨.CFG_FUSE_STAT, 8, 7, .ro, 0⟩
abbrev CFG_FAULT_STAT.FALLBACK : Fld := ⟨.CFG_FAULT_STAT, 0, 1, .w1c, 0⟩
abbrev CFG_FAULT_STAT.LOAD_FAIL : Fld := ⟨.CFG_FAULT_STAT, 1, 1, .w1c, 0⟩
abbrev CFG_FAULT_STAT.PRECHECK_FAIL : Fld := ⟨.CFG_FAULT_STAT, 2, 1, .w1c, 0⟩
abbrev CFG_FAULT_MASK.BITS : Fld := ⟨.CFG_FAULT_MASK, 0, 3, .rw, 0⟩
abbrev CFG_RELOAD.SRC : Fld := ⟨.CFG_RELOAD, 0, 2, .wo, 0⟩
abbrev CFG_RELOAD.FORCE : Fld := ⟨.CFG_RELOAD, 2, 1, .wo, 0⟩
abbrev CFG_RELOAD.GO : Fld := ⟨.CFG_RELOAD, 31, 1, .wo, 0⟩
abbrev CFG_STAGE_ADDR.ADDR : Fld := ⟨.CFG_STAGE_ADDR, 0, 64, .rw, 0⟩
abbrev CFG_STAGE_LEN.LEN : Fld := ⟨.CFG_STAGE_LEN, 0, 32, .rw, 0⟩
abbrev CFG_FUSE_CMD.OP : Fld := ⟨.CFG_FUSE_CMD, 0, 2, .wo, 0⟩
abbrev CFG_FUSE_CMD.VALUE : Fld := ⟨.CFG_FUSE_CMD, 8, 7, .wo, 0⟩
abbrev CFG_FUSE_CMD.GO : Fld := ⟨.CFG_FUSE_CMD, 31, 1, .wo, 0⟩
abbrev CFG_FUSE_RES.RESULT : Fld := ⟨.CFG_FUSE_RES, 0, 2, .ro, 0⟩
abbrev CFG_KEYHASH_IN.HASH : Fld := ⟨.CFG_KEYHASH_IN, 0, 32, .wo, 0⟩

/-! Fields of spec/04_sites.md -/

abbrev SMAP_QUAD.SITE_LO : Fld := ⟨.SMAP_QUAD, 0, 16, .lk, 0⟩
abbrev SMAP_QUAD.SITE_HI : Fld := ⟨.SMAP_QUAD, 16, 16, .lk, 0⟩
abbrev SMAP_BUSMODE.CH : Fld := ⟨.SMAP_BUSMODE, 0, 32, .lk, 0⟩
abbrev SMAP_SITE.FLAGS : Fld := ⟨.SMAP_SITE, 0, 16, .lk, 0⟩
abbrev SMAP_SITE.ALIGN_SET : Fld := ⟨.SMAP_SITE, 16, 8, .lk, 0⟩
abbrev SMAP_SITE.HOME_DEV : Fld := ⟨.SMAP_SITE, 24, 5, .lk, 0⟩
abbrev SMAP_SITE.HOME_SITE : Fld := ⟨.SMAP_SITE, 32, 8, .lk, 0⟩
abbrev SMAP_SITE.TILES : Fld := ⟨.SMAP_SITE, 40, 8, .lk, 0⟩
abbrev SMAP_SITE.QUADS : Fld := ⟨.SMAP_SITE, 48, 9, .lk, 0⟩
abbrev SMAP_SITE.PROXY : Fld := ⟨.SMAP_SITE, 57, 1, .lk, 0⟩
abbrev SMAP_TSLICE.QUADS : Fld := ⟨.SMAP_TSLICE, 0, 32, .lk, 0⟩
abbrev SMAP_TSLICE.SITE : Fld := ⟨.SMAP_TSLICE, 32, 8, .lk, 0⟩
abbrev SMAP_TSLICE.VALID : Fld := ⟨.SMAP_TSLICE, 40, 1, .lk, 0⟩
abbrev SMAP_TSLICE.PROXY : Fld := ⟨.SMAP_TSLICE, 41, 1, .lk, 0⟩
abbrev MDR_SITE_STATE.STATE : Fld := ⟨.MDR_SITE_STATE, 0, 4, .ro, 0⟩
abbrev MDR_SITE_STATE.OUTCOME : Fld := ⟨.MDR_SITE_STATE, 4, 2, .ro, 0⟩
abbrev MDR_SITE_STATE.PROXY : Fld := ⟨.MDR_SITE_STATE, 6, 1, .ro, 0⟩
abbrev MDR_SITE_STATE.ASLEEP : Fld := ⟨.MDR_SITE_STATE, 7, 1, .ro, 0⟩
abbrev MDR_SITE_STATE.TRIMOK : Fld := ⟨.MDR_SITE_STATE, 8, 1, .ro, 0⟩
abbrev MDR_SITE_STATE.ALIGN_WAIT : Fld := ⟨.MDR_SITE_STATE, 9, 1, .ro, 0⟩
abbrev MDR_SITE_CMD.OP : Fld := ⟨.MDR_SITE_CMD, 0, 4, .wo, 0⟩
abbrev MDR_SITE_CMD.PROG_ID : Fld := ⟨.MDR_SITE_CMD, 16, 16, .wo, 0⟩
abbrev MDR_SITE_START_REQ.DT : Fld := ⟨.MDR_SITE_START_REQ, 0, 64, .rw, 0⟩
abbrev MDR_SITE_CMD_RES.RESULT : Fld := ⟨.MDR_SITE_CMD_RES, 0, 3, .ro, 0⟩
abbrev MDR_SITE_CMD_RES.BUSY : Fld := ⟨.MDR_SITE_CMD_RES, 3, 1, .ro, 0⟩
abbrev MDR_SITE_START_DT.DT : Fld := ⟨.MDR_SITE_START_DT, 0, 64, .ro, 0⟩
abbrev MDR_SITE_STALL.SEG : Fld := ⟨.MDR_SITE_STALL, 0, 24, .ro, 0⟩
abbrev MDR_SITE_STALL.GRANULE : Fld := ⟨.MDR_SITE_STALL, 24, 16, .ro, 0⟩
abbrev MDR_SITE_STALL.CAUSE : Fld := ⟨.MDR_SITE_STALL, 40, 2, .ro, 0⟩
abbrev MDR_SITE_STALL_DT.DT : Fld := ⟨.MDR_SITE_STALL_DT, 0, 64, .ro, 0⟩
abbrev MDR_SITE_RESUME_DT.DT : Fld := ⟨.MDR_SITE_RESUME_DT, 0, 64, .ro, 0⟩
abbrev MDR_SITE_HOLDS.COUNT : Fld := ⟨.MDR_SITE_HOLDS, 0, 31, .rc, 0⟩
abbrev MDR_SITE_HOLDS.OVF : Fld := ⟨.MDR_SITE_HOLDS, 31, 1, .rc, 0⟩
abbrev MDR_SITE_SPAN.DEV : Fld := ⟨.MDR_SITE_SPAN, 0, 32, .ro, 0⟩
abbrev MDR_SITE_STAT.STALE_REJ : Fld := ⟨.MDR_SITE_STAT, 0, 1, .w1c, 0⟩
abbrev MDR_SITE_STAT.UNDERRUN : Fld := ⟨.MDR_SITE_STAT, 1, 1, .w1c, 0⟩
abbrev MDR_SITE_STAT.JOIN_REFUSED : Fld := ⟨.MDR_SITE_STAT, 2, 1, .w1c, 0⟩
abbrev MDR_SITE_FCAUSE.CAUSE : Fld := ⟨.MDR_SITE_FCAUSE, 0, 3, .ro, 0⟩
abbrev MDR_SITE_DONE_DT.DT : Fld := ⟨.MDR_SITE_DONE_DT, 0, 64, .ro, 0⟩

/-! Fields of spec/05_vectors_segments.md -/

abbrev VST_SLOTS.FREE : Fld := ⟨.VST_SLOTS, 0, 17, .ro, 65536⟩
abbrev VST_SLOTS.LOWEST : Fld := ⟨.VST_SLOTS, 32, 17, .rc, 65536⟩
abbrev VST_DEMAND.NOW : Fld := ⟨.VST_DEMAND, 0, 16, .ro, 0⟩
abbrev VST_DEMAND.PEAK : Fld := ⟨.VST_DEMAND, 16, 16, .rc, 0⟩
abbrev VST_FAULT_STAT.NOSPACE : Fld := ⟨.VST_FAULT_STAT, 0, 1, .w1c, 0⟩
abbrev VST_FAULT_STAT.MAPFORM : Fld := ⟨.VST_FAULT_STAT, 1, 1, .w1c, 0⟩
abbrev VST_FAULT_STAT.SEG_INVALID : Fld := ⟨.VST_FAULT_STAT, 2, 1, .w1c, 0⟩
abbrev VST_FAULT_STAT.COPY_FIRST : Fld := ⟨.VST_FAULT_STAT, 3, 1, .w1c, 0⟩
abbrev VST_FAULT_MASK.BITS : Fld := ⟨.VST_FAULT_MASK, 0, 4, .rw, 0⟩
abbrev VST_SLICE.SLOTS : Fld := ⟨.VST_SLICE, 0, 17, .ro, 0⟩
abbrev VST_SLICE.AHEAD : Fld := ⟨.VST_SLICE, 17, 8, .ro, 0⟩
abbrev VST_SLICE.AHEAD_MIN : Fld := ⟨.VST_SLICE, 25, 8, .rc, 255⟩
abbrev SLP_FAULT_STAT.BADCODE : Fld := ⟨.SLP_FAULT_STAT, 0, 1, .w1c, 0⟩
abbrev SLP_FAULT_STAT.BADLOOP : Fld := ⟨.SLP_FAULT_STAT, 1, 1, .w1c, 0⟩
abbrev SLP_FAULT_STAT.CTRL_DIVERGE : Fld := ⟨.SLP_FAULT_STAT, 2, 1, .w1c, 0⟩
abbrev SLP_FAULT_STAT.ROM_CORR : Fld := ⟨.SLP_FAULT_STAT, 3, 1, .w1c, 0⟩
abbrev SLP_FAULT_STAT.ROM_UNCORR : Fld := ⟨.SLP_FAULT_STAT, 4, 1, .w1c, 0⟩
abbrev SLP_FAULT_STAT.MISSED_RELEASE : Fld := ⟨.SLP_FAULT_STAT, 5, 1, .w1c, 0⟩
abbrev SLP_FAULT_MASK.BITS : Fld := ⟨.SLP_FAULT_MASK, 0, 6, .rw, 0⟩
abbrev SLP_PATCH.WORDS : Fld := ⟨.SLP_PATCH, 0, 7, .lk, 0⟩
abbrev SLP_PATCH.MATCHES : Fld := ⟨.SLP_PATCH, 8, 5, .lk, 0⟩
abbrev SLP_STAT.STATE : Fld := ⟨.SLP_STAT, 0, 3, .ro, 0⟩
abbrev SLP_STAT.ALT : Fld := ⟨.SLP_STAT, 3, 1, .ro, 0⟩
abbrev SLP_STAT.LATE_JUMP : Fld := ⟨.SLP_STAT, 4, 1, .w1c, 0⟩
abbrev SLP_STAT.JUMP_LOST : Fld := ⟨.SLP_STAT, 5, 1, .w1c, 0⟩
abbrev SLP_STAT.MATCH_TMO : Fld := ⟨.SLP_STAT, 6, 1, .w1c, 0⟩
abbrev SLP_STAT.STARVED : Fld := ⟨.SLP_STAT, 7, 1, .w1c, 0⟩
abbrev SLP_STAT.MATCH_WAIT : Fld := ⟨.SLP_STAT, 8, 1, .ro, 0⟩
abbrev SLP_STAT.LOOPS : Fld := ⟨.SLP_STAT, 9, 3, .ro, 0⟩
abbrev SLP_STAT.QUEUED : Fld := ⟨.SLP_STAT, 12, 3, .ro, 0⟩
abbrev SLP_STAT.LEAD : Fld := ⟨.SLP_STAT, 15, 1, .ro, 0⟩
abbrev SLP_POS.SEG : Fld := ⟨.SLP_POS, 0, 24, .ro, 0⟩
abbrev SLP_POS.GRANULE : Fld := ⟨.SLP_POS, 24, 16, .ro, 0⟩
abbrev SLP_POS.VEC : Fld := ⟨.SLP_POS, 40, 6, .ro, 0⟩
abbrev SLP_VCOUNT.COUNT : Fld := ⟨.SLP_VCOUNT, 0, 63, .ro, 0⟩
abbrev SLP_VCOUNT.OVF : Fld := ⟨.SLP_VCOUNT, 63, 1, .ro, 0⟩
abbrev SLP_JUMP_CFG.EVCH : Fld := ⟨.SLP_JUMP_CFG, 0, 8, .rw, 0⟩
abbrev SLP_JUMP_CFG.EN : Fld := ⟨.SLP_JUMP_CFG, 8, 1, .rw, 0⟩
abbrev SLP_JUMP_CFG.HINT : Fld := ⟨.SLP_JUMP_CFG, 9, 1, .rw, 0⟩
abbrev SLP_JUMPSTAT.LATE_VEC : Fld := ⟨.SLP_JUMPSTAT, 0, 16, .ro, 0⟩
abbrev SLP_JUMPSTAT.SRC : Fld := ⟨.SLP_JUMPSTAT, 16, 2, .ro, 0⟩
abbrev SLP_JUMP_DT.DT : Fld := ⟨.SLP_JUMP_DT, 0, 64, .ro, 0⟩
abbrev SLP_LOOPPRE.COUNT : Fld := ⟨.SLP_LOOPPRE, 0, 32, .rw, 1⟩
abbrev SLP_MATCH_TMO.PASSES : Fld := ⟨.SLP_MATCH_TMO, 0, 24, .rw, 1024⟩
abbrev SLP_CTRLCRC.CRC : Fld := ⟨.SLP_CTRLCRC, 0, 32, .ro, 0xffffffff⟩

/-! Fields of spec/06_timing_waveforms.md -/

abbrev WOD_WF_SEL.CH : Fld := ⟨.WOD_WF_SEL, 0, 7, .rw, 0⟩
abbrev WOD_WF_SEL.SLOT : Fld := ⟨.WOD_WF_SEL, 8, 6, .rw, 0⟩
abbrev WOD_WF_SEL.WF : Fld := ⟨.WOD_WF_SEL, 16, 4, .rw, 0⟩
abbrev WOD_WF_DATA.DATA : Fld := ⟨.WOD_WF_DATA, 0, 64, .rw, 0⟩
abbrev WOD_WF_CMD.OP : Fld := ⟨.WOD_WF_CMD, 0, 2, .wo, 0⟩
abbrev WOD_WF_CMD.GO : Fld := ⟨.WOD_WF_CMD, 31, 1, .wo, 0⟩
abbrev WOD_WF_RES.RESULT : Fld := ⟨.WOD_WF_RES, 0, 3, .ro, 0⟩
abbrev WOD_WF_RES.REASON : Fld := ⟨.WOD_WF_RES, 8, 3, .ro, 0⟩
abbrev WOD_WF_RES.WF : Fld := ⟨.WOD_WF_RES, 16, 4, .ro, 0⟩
abbrev WOD_FAULT_STAT.WF_CORR : Fld := ⟨.WOD_FAULT_STAT, 0, 1, .w1c, 0⟩
abbrev WOD_FAULT_STAT.WF_UNCORR : Fld := ⟨.WOD_FAULT_STAT, 1, 1, .w1c, 0⟩
abbrev WOD_FAULT_STAT.PER_CORR : Fld := ⟨.WOD_FAULT_STAT, 2, 1, .w1c, 0⟩
abbrev WOD_FAULT_STAT.PER_UNCORR : Fld := ⟨.WOD_FAULT_STAT, 3, 1, .w1c, 0⟩
abbrev WOD_FAULT_STAT.TSET_UNDEF : Fld := ⟨.WOD_FAULT_STAT, 4, 1, .w1c, 0⟩
abbrev WOD_FAULT_STAT.EDGE_DROP : Fld := ⟨.WOD_FAULT_STAT, 5, 1, .w1c, 0⟩
abbrev WOD_FAULT_STAT.OFFS_RANGE : Fld := ⟨.WOD_FAULT_STAT, 6, 1, .w1c, 0⟩
abbrev WOD_FAULT_STAT.CMP_DROP : Fld := ⟨.WOD_FAULT_STAT, 7, 1, .w1c, 0⟩
abbrev WOD_FAULT_MASK.BITS : Fld := ⟨.WOD_FAULT_MASK, 0, 8, .rw, 0⟩
abbrev WOD_SLICE_TS.PRIMARY : Fld := ⟨.WOD_SLICE_TS, 0, 6, .rw, 0⟩
abbrev WOD_SLICE_TS.ALTERNATE : Fld := ⟨.WOD_SLICE_TS, 8, 6, .rw, 0⟩
abbrev WOD_SLICE_TS.ALT_ACTIVE : Fld := ⟨.WOD_SLICE_TS, 16, 1, .ro, 0⟩
abbrev WOD_SLICE_PERIOD.PERIOD : Fld := ⟨.WOD_SLICE_PERIOD, 0, 64, .ro, 0⟩
abbrev WOD_SLICE_BOUNDARY.DT : Fld := ⟨.WOD_SLICE_BOUNDARY, 0, 64, .ro, 0⟩
abbrev WOD_SLICE_STAT.TS_OVERRIDDEN : Fld := ⟨.WOD_SLICE_STAT, 0, 1, .w1c, 0⟩
abbrev WOD_SLICE_STAT.TSET_UNDEF : Fld := ⟨.WOD_SLICE_STAT, 1, 1, .w1c, 0⟩
abbrev WOD_SLICE_STAT.WR_REJ : Fld := ⟨.WOD_SLICE_STAT, 2, 1, .w1c, 0⟩
abbrev WOD_SLICE_STAT.PER_REJ : Fld := ⟨.WOD_SLICE_STAT, 3, 1, .w1c, 0⟩
abbrev WOD_PERIOD.PERIOD : Fld := ⟨.WOD_PERIOD, 0, 64, .rw, 0⟩
abbrev WOD_CH_PIN.HOLD_POLICY : Fld := ⟨.WOD_CH_PIN, 0, 2, .lk, 0⟩
abbrev WOD_CH_PIN.DRIVE_EN : Fld := ⟨.WOD_CH_PIN, 2, 1, .lk, 0⟩
abbrev WOD_CH_PIN.FIXTRIM : Fld := ⟨.WOD_CH_PIN, 3, 1, .lk, 0⟩
abbrev WOD_CH_PIN.IDLE_SLOT : Fld := ⟨.WOD_CH_PIN, 8, 6, .lk, 0⟩
abbrev WOD_CH_PIN.IDLE_WF : Fld := ⟨.WOD_CH_PIN, 16, 4, .lk, 0⟩
abbrev WOD_CH_CFG.FIXCOMP : Fld := ⟨.WOD_CH_CFG, 0, 1, .rw, 0⟩
abbrev WOD_CH_FIXDELAY.DELAY : Fld := ⟨.WOD_CH_FIXDELAY, 0, 17, .ro, 0⟩
abbrev WOD_CH_FIXDELAY.VALID : Fld := ⟨.WOD_CH_FIXDELAY, 31, 1, .ro, 0⟩
abbrev WOD_CH_STAT.LEVEL : Fld := ⟨.WOD_CH_STAT, 0, 2, .ro, 0⟩
abbrev WOD_CH_STAT.SOURCE : Fld := ⟨.WOD_CH_STAT, 2, 3, .ro, 0⟩
abbrev WOD_CH_STAT.EDGE_DROP : Fld := ⟨.WOD_CH_STAT, 5, 1, .w1c, 0⟩
abbrev WOD_CH_STAT.OFFS_RANGE : Fld := ⟨.WOD_CH_STAT, 6, 1, .w1c, 0⟩
abbrev WOD_CH_STAT.CMP_DROP : Fld := ⟨.WOD_CH_STAT, 7, 1, .w1c, 0⟩
abbrev WOD_CH_DROPS.COUNT : Fld := ⟨.WOD_CH_DROPS, 0, 31, .rc, 0⟩
abbrev WOD_CH_DROPS.OVF : Fld := ⟨.WOD_CH_DROPS, 31, 1, .rc, 0⟩

/-! Fields of spec/07_compare_capture.md -/

abbrev SEP_CMP_CH_CFG.TERM : Fld := ⟨.SEP_CMP_CH_CFG, 0, 1, .rw, 0⟩
abbrev SEP_CMP_CH_CFG.HYST : Fld := ⟨.SEP_CMP_CH_CFG, 1, 2, .rw, 0⟩
abbrev SEP_CMP_CH_MASK.MASK : Fld := ⟨.SEP_CMP_CH_MASK, 0, 1, .rw, 0⟩
abbrev SEP_CMP_CH_VTH.HI : Fld := ⟨.SEP_CMP_CH_VTH, 0, 16, .rw, 0⟩
abbrev SEP_CMP_CH_VTH.LO : Fld := ⟨.SEP_CMP_CH_VTH, 16, 16, .rw, 0⟩
abbrev SEP_CMP_CH_VTT.VTT : Fld := ⟨.SEP_CMP_CH_VTT, 0, 16, .rw, 0⟩
abbrev SEP_CMP_CH_LIVE.STATE : Fld := ⟨.SEP_CMP_CH_LIVE, 0, 2, .ro, 0⟩
abbrev SEP_CMP_CH_LIVE.VALID : Fld := ⟨.SEP_CMP_CH_LIVE, 2, 1, .ro, 0⟩
abbrev SEP_CMP_CH_FAILS.COUNT : Fld := ⟨.SEP_CMP_CH_FAILS, 0, 32, .ro, 0⟩
abbrev SEP_CMP_CH_FAILS.OVF : Fld := ⟨.SEP_CMP_CH_FAILS, 32, 1, .ro, 0⟩
abbrev SEP_CMP_CH_STAT.WR_REJ : Fld := ⟨.SEP_CMP_CH_STAT, 0, 1, .w1c, 0⟩
abbrev SEP_CMP_CH_STAT.MASK_PEND : Fld := ⟨.SEP_CMP_CH_STAT, 1, 1, .ro, 0⟩
abbrev SEP_CMP_FAULT_STAT.CNT_OVF : Fld := ⟨.SEP_CMP_FAULT_STAT, 0, 1, .w1c, 0⟩
abbrev SEP_CMP_FAULT_MASK.BITS : Fld := ⟨.SEP_CMP_FAULT_MASK, 0, 1, .rw, 0⟩
abbrev SEP_CMP_SLICE_FAILVEC.COUNT : Fld := ⟨.SEP_CMP_SLICE_FAILVEC, 0, 32, .ro, 0⟩
abbrev SEP_CMP_SLICE_FAILVEC.OVF : Fld := ⟨.SEP_CMP_SLICE_FAILVEC, 32, 1, .ro, 0⟩
abbrev SEP_CMP_SLICE_FAILS.COUNT : Fld := ⟨.SEP_CMP_SLICE_FAILS, 0, 32, .ro, 0⟩
abbrev SEP_CMP_SLICE_FAILS.OVF : Fld := ⟨.SEP_CMP_SLICE_FAILS, 32, 1, .ro, 0⟩
abbrev SEP_CAP_TFAULT_STAT.STAGE_OVF : Fld := ⟨.SEP_CAP_TFAULT_STAT, 0, 1, .w1c, 0⟩
abbrev SEP_CAP_TFAULT_MASK.BITS : Fld := ⟨.SEP_CAP_TFAULT_MASK, 0, 1, .rw, 0⟩
abbrev SEP_CAP_STAGE.LEVEL : Fld := ⟨.SEP_CAP_STAGE, 0, 11, .ro, 0⟩
abbrev SEP_CAP_STAGE.PEAK : Fld := ⟨.SEP_CAP_STAGE, 16, 11, .rc, 0⟩
abbrev SEP_CAP_FAULT_STAT.RING_FULL : Fld := ⟨.SEP_CAP_FAULT_STAT, 0, 1, .w1c, 0⟩
abbrev SEP_CAP_FAULT_STAT.TAG_MISMATCH : Fld := ⟨.SEP_CAP_FAULT_STAT, 1, 1, .w1c, 0⟩
abbrev SEP_CAP_FAULT_STAT.RING_ADDR : Fld := ⟨.SEP_CAP_FAULT_STAT, 2, 1, .w1c, 0⟩
abbrev SEP_CAP_FAULT_STAT.CNT_OVF : Fld := ⟨.SEP_CAP_FAULT_STAT, 3, 1, .w1c, 0⟩
abbrev SEP_CAP_FAULT_MASK.BITS : Fld := ⟨.SEP_CAP_FAULT_MASK, 0, 4, .rw, 0⟩
abbrev SEP_CAP_POLICY.STOP : Fld := ⟨.SEP_CAP_POLICY, 0, 2, .rw, 0⟩
abbrev SEP_CAP_POLICY.LOG_EN : Fld := ⟨.SEP_CAP_POLICY, 2, 1, .rw, 1⟩
abbrev SEP_CAP_LIMIT.VALUE : Fld := ⟨.SEP_CAP_LIMIT, 0, 32, .rw, 0⟩
abbrev SEP_CAP_LOGMAX.VALUE : Fld := ⟨.SEP_CAP_LOGMAX, 0, 32, .rw, 0⟩
abbrev SEP_CAP_FAILS.COUNT : Fld := ⟨.SEP_CAP_FAILS, 0, 32, .ro, 0⟩
abbrev SEP_CAP_FAILS.OVF : Fld := ⟨.SEP_CAP_FAILS, 32, 1, .ro, 0⟩
abbrev SEP_CAP_FF_DT.DT : Fld := ⟨.SEP_CAP_FF_DT, 0, 64, .ro, 0⟩
abbrev SEP_CAP_FF_REC.DATA : Fld := ⟨.SEP_CAP_FF_REC, 0, 64, .ro, 0⟩
abbrev SEP_CAP_STAT.FF_VALID : Fld := ⟨.SEP_CAP_STAT, 0, 1, .ro, 0⟩
abbrev SEP_CAP_STAT.FF_MULTI : Fld := ⟨.SEP_CAP_STAT, 1, 1, .ro, 0⟩
abbrev SEP_CAP_STAT.STOPPED : Fld := ⟨.SEP_CAP_STAT, 2, 1, .ro, 0⟩
abbrev SEP_CAP_STAT.LIMIT_HIT : Fld := ⟨.SEP_CAP_STAT, 3, 1, .ro, 0⟩
abbrev SEP_CAP_STAT.LOGMAX_HIT : Fld := ⟨.SEP_CAP_STAT, 4, 1, .ro, 0⟩
abbrev SEP_CAP_STAT.LOST_ANY : Fld := ⟨.SEP_CAP_STAT, 5, 1, .ro, 0⟩
abbrev SEP_CAP_STOP_DT.DT : Fld := ⟨.SEP_CAP_STOP_DT, 0, 64, .ro, 0⟩
abbrev SEP_CAP_RING_BASE.ADDR : Fld := ⟨.SEP_CAP_RING_BASE, 0, 40, .rw, 0⟩
abbrev SEP_CAP_RING_CFG.MEM : Fld := ⟨.SEP_CAP_RING_CFG, 0, 1, .rw, 0⟩
abbrev SEP_CAP_RING_CFG.LOG2 : Fld := ⟨.SEP_CAP_RING_CFG, 1, 5, .rw, 6⟩
abbrev SEP_CAP_RING_CFG.EN : Fld := ⟨.SEP_CAP_RING_CFG, 6, 1, .rw, 0⟩
abbrev SEP_CAP_RING_WR.POS : Fld := ⟨.SEP_CAP_RING_WR, 0, 32, .ro, 0⟩
abbrev SEP_CAP_RING_RD.POS : Fld := ⟨.SEP_CAP_RING_RD, 0, 32, .rw, 0⟩
abbrev SEP_CAP_LOST.COUNT : Fld := ⟨.SEP_CAP_LOST, 0, 32, .ro, 0⟩
abbrev SEP_CAP_LOST.OVF : Fld := ⟨.SEP_CAP_LOST, 32, 1, .ro, 0⟩
abbrev SEP_CAP_LOGGED.COUNT : Fld := ⟨.SEP_CAP_LOGGED, 0, 32, .ro, 0⟩
abbrev SEP_CAP_LOGGED.OVF : Fld := ⟨.SEP_CAP_LOGGED, 32, 1, .ro, 0⟩

/-! Fields of spec/08_step_engine.md -/

abbrev MDR_STEP_STAT.STATE : Fld := ⟨.MDR_STEP_STAT, 0, 3, .ro, 0⟩
abbrev MDR_STEP_STAT.Z : Fld := ⟨.MDR_STEP_STAT, 3, 1, .ro, 0⟩
abbrev MDR_STEP_STAT.L : Fld := ⟨.MDR_STEP_STAT, 4, 1, .ro, 0⟩
abbrev MDR_STEP_STAT.T : Fld := ⟨.MDR_STEP_STAT, 5, 1, .ro, 0⟩
abbrev MDR_STEP_STAT.TRAP_ACTIVE : Fld := ⟨.MDR_STEP_STAT, 6, 1, .ro, 0⟩
abbrev MDR_STEP_STAT.TRAP_PEND : Fld := ⟨.MDR_STEP_STAT, 7, 1, .ro, 0⟩
abbrev MDR_STEP_STAT.DEPTH : Fld := ⟨.MDR_STEP_STAT, 8, 5, .ro, 0⟩
abbrev MDR_STEP_STAT.SAT : Fld := ⟨.MDR_STEP_STAT, 16, 1, .w1c, 0⟩
abbrev MDR_STEP_STAT.BIN_REJ : Fld := ⟨.MDR_STEP_STAT, 17, 1, .w1c, 0⟩
abbrev MDR_STEP_STAT.LATE_START : Fld := ⟨.MDR_STEP_STAT, 18, 1, .w1c, 0⟩
abbrev MDR_STEP_STAT.RESTART : Fld := ⟨.MDR_STEP_STAT, 19, 1, .w1c, 0⟩
abbrev MDR_STEP_STAT.JUMP_IDLE : Fld := ⟨.MDR_STEP_STAT, 20, 1, .w1c, 0⟩
abbrev MDR_STEP_PC.PC : Fld := ⟨.MDR_STEP_PC, 0, 20, .ro, 0⟩
abbrev MDR_STEP_PC.PROG_ID : Fld := ⟨.MDR_STEP_PC, 32, 16, .ro, 0⟩
abbrev MDR_STEP_FAULT.CODE : Fld := ⟨.MDR_STEP_FAULT, 0, 4, .ro, 0⟩
abbrev MDR_STEP_FAULT.PC : Fld := ⟨.MDR_STEP_FAULT, 12, 20, .ro, 0⟩
abbrev MDR_STEP_BIN.BIN : Fld := ⟨.MDR_STEP_BIN, 0, 10, .ro, 0⟩
abbrev MDR_STEP_BIN.VALID : Fld := ⟨.MDR_STEP_BIN, 10, 1, .ro, 0⟩
abbrev MDR_STEP_EVDT.DT : Fld := ⟨.MDR_STEP_EVDT, 0, 64, .ro, 0⟩
abbrev MDR_STEP_TRAP.EVCH : Fld := ⟨.MDR_STEP_TRAP, 0, 8, .rw, 0⟩
abbrev MDR_STEP_TRAP.EN : Fld := ⟨.MDR_STEP_TRAP, 8, 1, .rw, 0⟩
abbrev MDR_STEP_TRAP.HANDLER : Fld := ⟨.MDR_STEP_TRAP, 12, 20, .rw, 0⟩
abbrev MDR_STEP_SVC_TMO.US : Fld := ⟨.MDR_STEP_SVC_TMO, 0, 32, .rw, 0xf4240⟩
abbrev MDR_STEP_SVC_RES.RESULT : Fld := ⟨.MDR_STEP_SVC_RES, 0, 64, .ro, 0⟩
abbrev MDR_STEP_ARG.VALUE : Fld := ⟨.MDR_STEP_ARG, 0, 64, .rw, 0⟩
abbrev MDR_STEP_EVSTAT.OVERRUN : Fld := ⟨.MDR_STEP_EVSTAT, 0, 1, .w1c, 0⟩
abbrev MDR_STEP_TRIM.DT : Fld := ⟨.MDR_STEP_TRIM, 0, 64, .ro, 0⟩
abbrev MDR_STEP_G.VALUE : Fld := ⟨.MDR_STEP_G, 0, 64, .ro, 0⟩
abbrev MDR_STEP_WMASK.CH : Fld := ⟨.MDR_STEP_WMASK, 0, 32, .rw, 0⟩
abbrev MDR_STEP_EVL.CH : Fld := ⟨.MDR_STEP_EVL, 0, 32, .ro, 0⟩
abbrev MDR_STEP_STACK.INDEX : Fld := ⟨.MDR_STEP_STACK, 0, 20, .ro, 0⟩
abbrev MDR_STEP_PATCH.WORDS : Fld := ⟨.MDR_STEP_PATCH, 0, 9, .lk, 0⟩
abbrev MDR_STEP_PATCH.MATCHES : Fld := ⟨.MDR_STEP_PATCH, 16, 6, .lk, 0⟩
abbrev MDR_STEP_PDIR.ADDR : Fld := ⟨.MDR_STEP_PDIR, 0, 40, .lk, 0⟩
abbrev MDR_STEP_FAULT_STAT.CTX_FAULT : Fld := ⟨.MDR_STEP_FAULT_STAT, 0, 1, .w1c, 0⟩
abbrev MDR_STEP_FAULT_STAT.WORD_CORR : Fld := ⟨.MDR_STEP_FAULT_STAT, 1, 1, .w1c, 0⟩
abbrev MDR_STEP_FAULT_STAT.ROM_CORR : Fld := ⟨.MDR_STEP_FAULT_STAT, 2, 1, .w1c, 0⟩
abbrev MDR_STEP_FAULT_STAT.ROM_UNCORR : Fld := ⟨.MDR_STEP_FAULT_STAT, 3, 1, .w1c, 0⟩
abbrev MDR_STEP_FAULT_STAT.MISSED_RELEASE : Fld := ⟨.MDR_STEP_FAULT_STAT, 4, 1, .w1c, 0⟩
abbrev MDR_STEP_FAULT_MASK.BITS : Fld := ⟨.MDR_STEP_FAULT_MASK, 0, 5, .rw, 0⟩
abbrev MDR_STEP_SYNC_MEM.SITE : Fld := ⟨.MDR_STEP_SYNC_MEM, 0, 32, .rw, 0⟩
abbrev MDR_STEP_SYNC_STAT.ARRIVED : Fld := ⟨.MDR_STEP_SYNC_STAT, 0, 9, .ro, 0⟩
abbrev MDR_STEP_SYNC_STAT.WR_REJ : Fld := ⟨.MDR_STEP_SYNC_STAT, 16, 1, .w1c, 0⟩
abbrev MDR_STEP_SYNC_STAT.RELEASES : Fld := ⟨.MDR_STEP_SYNC_STAT, 32, 32, .ro, 0⟩
abbrev MDR_STEP_SYNC_DT.DT : Fld := ⟨.MDR_STEP_SYNC_DT, 0, 64, .ro, 0⟩

/-! Fields of spec/09_acquisition.md -/

abbrev SEP_ACQ_CH_CFG.TYPE : Fld := ⟨.SEP_ACQ_CH_CFG, 0, 3, .rw, 0⟩
abbrev SEP_ACQ_CH_CFG.REPEAT : Fld := ⟨.SEP_ACQ_CH_CFG, 3, 1, .rw, 0⟩
abbrev SEP_ACQ_CH_CFG.AUTO : Fld := ⟨.SEP_ACQ_CH_CFG, 4, 1, .rw, 0⟩
abbrev SEP_ACQ_CH_CFG.DEPTH : Fld := ⟨.SEP_ACQ_CH_CFG, 5, 3, .rw, 7⟩
abbrev SEP_ACQ_CH_CFG.DECIM : Fld := ⟨.SEP_ACQ_CH_CFG, 8, 4, .rw, 0⟩
abbrev SEP_ACQ_CH_CFG.PRE : Fld := ⟨.SEP_ACQ_CH_CFG, 16, 16, .rw, 0⟩
abbrev SEP_ACQ_CH_AUTO.US : Fld := ⟨.SEP_ACQ_CH_AUTO, 0, 32, .rw, 1000⟩
abbrev SEP_ACQ_CH_ARMEV.ARM_EVCH : Fld := ⟨.SEP_ACQ_CH_ARMEV, 0, 8, .rw, 0⟩
abbrev SEP_ACQ_CH_ARMEV.ARM_EN : Fld := ⟨.SEP_ACQ_CH_ARMEV, 8, 1, .rw, 0⟩
abbrev SEP_ACQ_CH_ARMEV.DIS_EVCH : Fld := ⟨.SEP_ACQ_CH_ARMEV, 16, 8, .rw, 0⟩
abbrev SEP_ACQ_CH_ARMEV.DIS_EN : Fld := ⟨.SEP_ACQ_CH_ARMEV, 24, 1, .rw, 0⟩
abbrev SEP_ACQ_CH_PARAM0.LIMIT : Fld := ⟨.SEP_ACQ_CH_PARAM0, 0, 40, .rw, 400⟩
abbrev SEP_ACQ_CH_PARAM0.RELATION : Fld := ⟨.SEP_ACQ_CH_PARAM0, 40, 3, .rw, 0⟩
abbrev SEP_ACQ_CH_PARAM0.EDGE : Fld := ⟨.SEP_ACQ_CH_PARAM0, 43, 2, .rw, 0⟩
abbrev SEP_ACQ_CH_PARAM1.LIMIT : Fld := ⟨.SEP_ACQ_CH_PARAM1, 0, 40, .rw, 400⟩
abbrev SEP_ACQ_CH_CMD.OP : Fld := ⟨.SEP_ACQ_CH_CMD, 0, 2, .wo, 0⟩
abbrev SEP_ACQ_CH_STAT.STATE : Fld := ⟨.SEP_ACQ_CH_STAT, 0, 3, .ro, 0⟩
abbrev SEP_ACQ_CH_STAT.SEQ : Fld := ⟨.SEP_ACQ_CH_STAT, 3, 3, .ro, 0⟩
abbrev SEP_ACQ_CH_STAT.ARM_REJ : Fld := ⟨.SEP_ACQ_CH_STAT, 6, 1, .w1c, 0⟩
abbrev SEP_ACQ_CH_STAT.ARM_DUP : Fld := ⟨.SEP_ACQ_CH_STAT, 7, 1, .w1c, 0⟩
abbrev SEP_ACQ_CH_STAT.OVERRUN : Fld := ⟨.SEP_ACQ_CH_STAT, 8, 1, .w1c, 0⟩
abbrev SEP_ACQ_CH_STAT.CFG_REJ : Fld := ⟨.SEP_ACQ_CH_STAT, 9, 1, .w1c, 0⟩
abbrev SEP_ACQ_CH_STAT.REASON : Fld := ⟨.SEP_ACQ_CH_STAT, 10, 3, .ro, 0⟩
abbrev SEP_ACQ_CH_TRIGS.COUNT : Fld := ⟨.SEP_ACQ_CH_TRIGS, 0, 31, .rc, 0⟩
abbrev SEP_ACQ_CH_TRIGS.OVF : Fld := ⟨.SEP_ACQ_CH_TRIGS, 31, 1, .rc, 0⟩
abbrev SEP_ACQ_CH_ARM_DT.DT : Fld := ⟨.SEP_ACQ_CH_ARM_DT, 0, 64, .ro, 0⟩
abbrev SEP_ACQ_CH_SEQ.COND : Fld := ⟨.SEP_ACQ_CH_SEQ, 0, 3, .rw, 0⟩
abbrev SEP_ACQ_CH_SEQ.CSTATE : Fld := ⟨.SEP_ACQ_CH_SEQ, 3, 2, .rw, 0⟩
abbrev SEP_ACQ_CH_SEQ.EVCH : Fld := ⟨.SEP_ACQ_CH_SEQ, 8, 8, .rw, 0⟩
abbrev SEP_ACQ_CH_SEQ.COUNT : Fld := ⟨.SEP_ACQ_CH_SEQ, 16, 16, .rw, 1⟩
abbrev SEP_ACQ_CH_SEQ.ON_MATCH : Fld := ⟨.SEP_ACQ_CH_SEQ, 32, 4, .rw, 0⟩
abbrev SEP_ACQ_CH_SEQ.ON_EARLY : Fld := ⟨.SEP_ACQ_CH_SEQ, 36, 4, .rw, 0⟩
abbrev SEP_ACQ_CH_SEQ.ON_TMO : Fld := ⟨.SEP_ACQ_CH_SEQ, 40, 4, .rw, 0⟩
abbrev SEP_ACQ_CH_TIMER.TMIN : Fld := ⟨.SEP_ACQ_CH_TIMER, 0, 32, .rw, 0⟩
abbrev SEP_ACQ_CH_TIMER.TMAX : Fld := ⟨.SEP_ACQ_CH_TIMER, 32, 32, .rw, 0⟩
abbrev SEP_ACQ_POOL.FREE : Fld := ⟨.SEP_ACQ_POOL, 0, 22, .ro, 0x200000⟩
abbrev SEP_ACQ_TFAULT_STAT.MISSED : Fld := ⟨.SEP_ACQ_TFAULT_STAT, 0, 1, .w1c, 0⟩
abbrev SEP_ACQ_TFAULT_MASK.BITS : Fld := ⟨.SEP_ACQ_TFAULT_MASK, 0, 1, .rw, 0⟩
abbrev SEP_ACQ_RING_BASE.ADDR : Fld := ⟨.SEP_ACQ_RING_BASE, 0, 40, .rw, 0⟩
abbrev SEP_ACQ_RING_CFG.MEM : Fld := ⟨.SEP_ACQ_RING_CFG, 0, 1, .rw, 0⟩
abbrev SEP_ACQ_RING_CFG.LOG2 : Fld := ⟨.SEP_ACQ_RING_CFG, 1, 5, .rw, 11⟩
abbrev SEP_ACQ_RING_CFG.EN : Fld := ⟨.SEP_ACQ_RING_CFG, 6, 1, .rw, 0⟩
abbrev SEP_ACQ_RING_WR.POS : Fld := ⟨.SEP_ACQ_RING_WR, 0, 32, .ro, 0⟩
abbrev SEP_ACQ_RING_RD.POS : Fld := ⟨.SEP_ACQ_RING_RD, 0, 32, .rw, 0⟩
abbrev SEP_ACQ_LOST.COUNT : Fld := ⟨.SEP_ACQ_LOST, 0, 32, .ro, 0⟩
abbrev SEP_ACQ_LOST.OVF : Fld := ⟨.SEP_ACQ_LOST, 32, 1, .ro, 0⟩
abbrev SEP_ACQ_LOGGED.COUNT : Fld := ⟨.SEP_ACQ_LOGGED, 0, 32, .ro, 0⟩
abbrev SEP_ACQ_LOGGED.OVF : Fld := ⟨.SEP_ACQ_LOGGED, 32, 1, .ro, 0⟩
abbrev SEP_ACQ_FAULT_STAT.RING_FULL : Fld := ⟨.SEP_ACQ_FAULT_STAT, 0, 1, .w1c, 0⟩
abbrev SEP_ACQ_FAULT_STAT.TAG_MISMATCH : Fld := ⟨.SEP_ACQ_FAULT_STAT, 1, 1, .w1c, 0⟩
abbrev SEP_ACQ_FAULT_STAT.RING_ADDR : Fld := ⟨.SEP_ACQ_FAULT_STAT, 2, 1, .w1c, 0⟩
abbrev SEP_ACQ_FAULT_MASK.BITS : Fld := ⟨.SEP_ACQ_FAULT_MASK, 0, 3, .rw, 0⟩

/-! Fields of spec/10_time_interval_timebase.md -/

abbrev TIA_CH_CFG.TYPE : Fld := ⟨.TIA_CH_CFG, 0, 3, .rw, 0⟩
abbrev TIA_CH_CFG.START_THR : Fld := ⟨.TIA_CH_CFG, 3, 1, .rw, 0⟩
abbrev TIA_CH_CFG.START_SLOPE : Fld := ⟨.TIA_CH_CFG, 4, 2, .rw, 1⟩
abbrev TIA_CH_CFG.STOP_THR : Fld := ⟨.TIA_CH_CFG, 6, 1, .rw, 0⟩
abbrev TIA_CH_CFG.STOP_SLOPE : Fld := ⟨.TIA_CH_CFG, 8, 2, .rw, 2⟩
abbrev TIA_CH_CFG.STOP_CH : Fld := ⟨.TIA_CH_CFG, 16, 7, .rw, 0⟩
abbrev TIA_CH_N.N : Fld := ⟨.TIA_CH_N, 0, 25, .rw, 1⟩
abbrev TIA_CH_WMIN.TICKS : Fld := ⟨.TIA_CH_WMIN, 0, 40, .rw, 0⟩
abbrev TIA_CH_WMAX.TICKS : Fld := ⟨.TIA_CH_WMAX, 0, 40, .rw, 0⟩
abbrev TIA_CH_GATE.US : Fld := ⟨.TIA_CH_GATE, 0, 24, .rw, 1000⟩
abbrev TIA_CH_PARTNER.CH : Fld := ⟨.TIA_CH_PARTNER, 0, 10, .rw, 0⟩
abbrev TIA_CH_PARTNER.DEV : Fld := ⟨.TIA_CH_PARTNER, 16, 5, .rw, 0⟩
abbrev TIA_CH_CMD.OP : Fld := ⟨.TIA_CH_CMD, 0, 2, .wo, 0⟩
abbrev TIA_CH_STAT.STATE : Fld := ⟨.TIA_CH_STAT, 0, 2, .ro, 0⟩
abbrev TIA_CH_STAT.INCOMPLETE : Fld := ⟨.TIA_CH_STAT, 2, 1, .ro, 0⟩
abbrev TIA_CH_STAT.STALE : Fld := ⟨.TIA_CH_STAT, 3, 1, .ro, 0⟩
abbrev TIA_CH_STAT.OVF : Fld := ⟨.TIA_CH_STAT, 4, 1, .ro, 0⟩
abbrev TIA_CH_STAT.REJ : Fld := ⟨.TIA_CH_STAT, 5, 1, .w1c, 0⟩
abbrev TIA_CH_STAT.REASON : Fld := ⟨.TIA_CH_STAT, 6, 3, .ro, 0⟩
abbrev TIA_CH_STAT.CFG_REJ : Fld := ⟨.TIA_CH_STAT, 9, 1, .w1c, 0⟩
abbrev TIA_CH_COUNT.SAMPLES : Fld := ⟨.TIA_CH_COUNT, 0, 25, .ro, 0⟩
abbrev TIA_CH_COUNT.OUTSIDE : Fld := ⟨.TIA_CH_COUNT, 32, 31, .ro, 0⟩
abbrev TIA_CH_COUNT.OUT_OVF : Fld := ⟨.TIA_CH_COUNT, 63, 1, .ro, 0⟩
abbrev TIA_CH_SUM.VALUE : Fld := ⟨.TIA_CH_SUM, 0, 64, .ro, 0⟩
abbrev TIA_CH_MIN.VALUE : Fld := ⟨.TIA_CH_MIN, 0, 64, .ro, 0⟩
abbrev TIA_CH_MAX.VALUE : Fld := ⟨.TIA_CH_MAX, 0, 64, .ro, 0⟩
abbrev TIA_CH_MEAN.VALUE : Fld := ⟨.TIA_CH_MEAN, 0, 64, .ro, 0⟩
abbrev TIA_CH_SD.VALUE : Fld := ⟨.TIA_CH_SD, 0, 64, .ro, 0⟩
abbrev TIA_CH_M2.VALUE : Fld := ⟨.TIA_CH_M2, 0, 64, .ro, 0⟩
abbrev TIA_CH_AUX.VALUE : Fld := ⟨.TIA_CH_AUX, 0, 64, .ro, 0⟩
abbrev TIA_CH_START_DT.DT : Fld := ⟨.TIA_CH_START_DT, 0, 64, .ro, 0⟩
abbrev TIA_CH_DONE_DT.DT : Fld := ⟨.TIA_CH_DONE_DT, 0, 64, .ro, 0⟩
abbrev TIA_FAULT_STAT.SAT : Fld := ⟨.TIA_FAULT_STAT, 0, 1, .w1c, 0⟩
abbrev TIA_FAULT_STAT.MISSED : Fld := ⟨.TIA_FAULT_STAT, 1, 1, .w1c, 0⟩
abbrev TIA_FAULT_MASK.BITS : Fld := ⟨.TIA_FAULT_MASK, 0, 2, .rw, 0⟩
abbrev UMB_DT.DT : Fld := ⟨.UMB_DT, 0, 64, .ro, 0⟩
abbrev UMB_ERA.ERA : Fld := ⟨.UMB_ERA, 0, 32, .ro, 0⟩
abbrev UMB_ERA_LATCH.ERA : Fld := ⟨.UMB_ERA_LATCH, 0, 32, .ro, 0⟩
abbrev UMB_CFG.SRC : Fld := ⟨.UMB_CFG, 0, 2, .lk, 0⟩
abbrev UMB_STAT.STATE : Fld := ⟨.UMB_STAT, 0, 3, .ro, 0⟩
abbrev UMB_STAT.BACKUP : Fld := ⟨.UMB_STAT, 3, 1, .ro, 0⟩
abbrev UMB_STAT.REF_OK : Fld := ⟨.UMB_STAT, 4, 1, .ro, 0⟩
abbrev UMB_RATE.C : Fld := ⟨.UMB_RATE, 0, 32, .ro, 0⟩
abbrev UMB_PHASE_ERR.TICKS : Fld := ⟨.UMB_PHASE_ERR, 0, 64, .ro, 0⟩
abbrev UMB_XTAL_TEMP.TEMP : Fld := ⟨.UMB_XTAL_TEMP, 0, 16, .ro, 0⟩
abbrev UMB_AGE.BLOCKS : Fld := ⟨.UMB_AGE, 0, 8, .ro, 0⟩
abbrev UMB_TOD_OFFSET.OFFSET : Fld := ⟨.UMB_TOD_OFFSET, 0, 64, .ro, 0⟩
abbrev UMB_PPS_DT.DT : Fld := ⟨.UMB_PPS_DT, 0, 64, .ro, 0⟩
abbrev UMB_FAULT_STAT.REF_LOST : Fld := ⟨.UMB_FAULT_STAT, 0, 1, .w1c, 0⟩
abbrev UMB_FAULT_STAT.SLEW_LIMIT : Fld := ⟨.UMB_FAULT_STAT, 1, 1, .w1c, 0⟩
abbrev UMB_FAULT_STAT.XTAL_FAIL : Fld := ⟨.UMB_FAULT_STAT, 2, 1, .w1c, 0⟩
abbrev UMB_FAULT_MASK.BITS : Fld := ⟨.UMB_FAULT_MASK, 0, 3, .rw, 0⟩

/-! Fields of spec/11_self_trim.md -/

abbrev MRD_CH_QF.QF_EDGE : Fld := ⟨.MRD_CH_QF, 0, 16, .ro, 65535⟩
abbrev MRD_CH_QF.STATE : Fld := ⟨.MRD_CH_QF, 16, 2, .ro, 2⟩
abbrev MRD_CH_QF.HELD : Fld := ⟨.MRD_CH_QF, 18, 1, .ro, 0⟩
abbrev MRD_CH_QF.PENDING : Fld := ⟨.MRD_CH_QF, 19, 1, .ro, 0⟩
abbrev MRD_CH_QF.NEVER : Fld := ⟨.MRD_CH_QF, 20, 1, .ro, 1⟩
abbrev MRD_CH_QF.TRIM_FAIL : Fld := ⟨.MRD_CH_QF, 21, 1, .w1c, 0⟩
abbrev MRD_CH_AGE.MS : Fld := ⟨.MRD_CH_AGE, 0, 32, .ro, 0xffffffff⟩
abbrev MRD_CH_TRIM_DT.DT : Fld := ⟨.MRD_CH_TRIM_DT, 0, 64, .ro, 0⟩
abbrev MRD_CH_PASS.STEPS : Fld := ⟨.MRD_CH_PASS, 0, 12, .ro, 0⟩
abbrev MRD_CH_PASS.PHASE : Fld := ⟨.MRD_CH_PASS, 12, 3, .ro, 0⟩
abbrev MRD_CH_PASS.QF_TRIM : Fld := ⟨.MRD_CH_PASS, 16, 16, .ro, 0⟩
abbrev MRD_CH_REFL.D : Fld := ⟨.MRD_CH_REFL, 0, 17, .ro, 0⟩
abbrev MRD_CH_REFL.NORET : Fld := ⟨.MRD_CH_REFL, 17, 1, .w1c, 0⟩
abbrev MRD_CH_REFL.CHANGED : Fld := ⟨.MRD_CH_REFL, 18, 1, .w1c, 0⟩
abbrev MRD_CH_REFL.PEND : Fld := ⟨.MRD_CH_REFL, 19, 1, .ro, 0⟩
abbrev MRD_TILE_STAT.FRESH : Fld := ⟨.MRD_TILE_STAT, 0, 8, .ro, 0⟩
abbrev MRD_TILE_STAT.AGING : Fld := ⟨.MRD_TILE_STAT, 8, 8, .ro, 0⟩
abbrev MRD_TILE_STAT.STALE : Fld := ⟨.MRD_TILE_STAT, 16, 8, .ro, 128⟩
abbrev MRD_TILE_STAT.BUSY : Fld := ⟨.MRD_TILE_STAT, 24, 6, .ro, 0⟩
abbrev MRD_TSKEW.OFFSET : Fld := ⟨.MRD_TSKEW, 0, 32, .ro, 0⟩
abbrev MRD_TSKEW.RESID : Fld := ⟨.MRD_TSKEW, 32, 16, .ro, 0⟩
abbrev MRD_TSKEW.VALID : Fld := ⟨.MRD_TSKEW, 48, 1, .ro, 0⟩
abbrev MRD_FAULT_STAT.TRIM_FAIL : Fld := ⟨.MRD_FAULT_STAT, 0, 1, .w1c, 0⟩
abbrev MRD_FAULT_STAT.STALE_NEW : Fld := ⟨.MRD_FAULT_STAT, 1, 1, .w1c, 0⟩
abbrev MRD_FAULT_STAT.TSKEW_LOST : Fld := ⟨.MRD_FAULT_STAT, 2, 1, .w1c, 0⟩
abbrev MRD_FAULT_STAT.REFL_CHANGED : Fld := ⟨.MRD_FAULT_STAT, 3, 1, .w1c, 0⟩
abbrev MRD_FAULT_STAT.MISSED_RELEASE : Fld := ⟨.MRD_FAULT_STAT, 4, 1, .w1c, 0⟩
abbrev MRD_FAULT_MASK.BITS : Fld := ⟨.MRD_FAULT_MASK, 0, 5, .rw, 0⟩
abbrev MRD_REFL_CMD.GO : Fld := ⟨.MRD_REFL_CMD, 0, 1, .wo, 0⟩
abbrev MRD_REFL_CFG.VTH_INC : Fld := ⟨.MRD_REFL_CFG, 0, 16, .rw, 20000⟩
abbrev MRD_REFL_CFG.VTH_RET : Fld := ⟨.MRD_REFL_CFG, 16, 16, .rw, 40000⟩
abbrev MRD_REFL_CFG.REPS : Fld := ⟨.MRD_REFL_CFG, 32, 8, .rw, 32⟩
abbrev MRD_REFL_CFG.JUMP : Fld := ⟨.MRD_REFL_CFG, 40, 16, .rw, 80⟩
abbrev MRD_REFL_STAT.STATE : Fld := ⟨.MRD_REFL_STAT, 0, 2, .ro, 0⟩
abbrev MRD_REFL_STAT.PARTIAL : Fld := ⟨.MRD_REFL_STAT, 2, 1, .ro, 0⟩
abbrev MRD_REFL_STAT.REJ : Fld := ⟨.MRD_REFL_STAT, 3, 1, .w1c, 0⟩
abbrev MRD_REFL_STAT.CHANNELS : Fld := ⟨.MRD_REFL_STAT, 4, 10, .ro, 0⟩
abbrev MRD_REFL_DT.DT : Fld := ⟨.MRD_REFL_DT, 0, 64, .ro, 0⟩
abbrev MRD_SITE_QF.WORST : Fld := ⟨.MRD_SITE_QF, 0, 16, .ro, 0⟩
abbrev MRD_SITE_QF.STALE : Fld := ⟨.MRD_SITE_QF, 16, 11, .ro, 0⟩
abbrev MRD_SITE_QF.AGING : Fld := ⟨.MRD_SITE_QF, 32, 11, .ro, 0⟩

/-! Fields of spec/12_links_time.md -/

abbrev TLK_STAT.STATE : Fld := ⟨.TLK_STAT, 0, 2, .ro, 0⟩
abbrev TLK_STAT.DOWN_LOCK : Fld := ⟨.TLK_STAT, 16, 16, .ro, 0⟩
abbrev TLK_ERR.CRC : Fld := ⟨.TLK_ERR, 0, 16, .rc, 0⟩
abbrev TLK_ERR.REPLAY : Fld := ⟨.TLK_ERR, 16, 16, .rc, 0⟩
abbrev TLK_FAULT_STAT.DOWN : Fld := ⟨.TLK_FAULT_STAT, 0, 1, .w1c, 0⟩
abbrev TLK_FAULT_STAT.CRC : Fld := ⟨.TLK_FAULT_STAT, 1, 1, .w1c, 0⟩
abbrev TLK_FAULT_MASK.BITS : Fld := ⟨.TLK_FAULT_MASK, 0, 2, .rw, 0⟩
abbrev TLK_CORE_STAT.STATE : Fld := ⟨.TLK_CORE_STAT, 0, 2, .ro, 0⟩
abbrev TLK_CORE_STAT.DOWN : Fld := ⟨.TLK_CORE_STAT, 2, 1, .w1c, 0⟩
abbrev TLK_CORE_STAT.UP_LOCK : Fld := ⟨.TLK_CORE_STAT, 8, 8, .ro, 0⟩
abbrev TLK_CORE_STAT.UPS : Fld := ⟨.TLK_CORE_STAT, 16, 16, .ro, 0⟩
abbrev TLK_CORE_UPDT.DT : Fld := ⟨.TLK_CORE_UPDT, 0, 64, .ro, 0⟩
abbrev LNK_TIME_STAT.STATE : Fld := ⟨.LNK_TIME_STAT, 0, 3, .ro, 0⟩
abbrev LNK_TIME_STAT.UPSTREAM : Fld := ⟨.LNK_TIME_STAT, 3, 3, .ro, 0⟩
abbrev LNK_TIME_STAT.UP_VALID : Fld := ⟨.LNK_TIME_STAT, 6, 1, .ro, 0⟩
abbrev LNK_TIME_STAT.ADOPTED : Fld := ⟨.LNK_TIME_STAT, 7, 1, .w1c, 0⟩
abbrev LNK_TIME_STAT.HOPS : Fld := ⟨.LNK_TIME_STAT, 8, 5, .ro, 0⟩
abbrev LNK_TIME_STAT.MASTER : Fld := ⟨.LNK_TIME_STAT, 13, 5, .ro, 0⟩
abbrev LNK_TIME_OFFS.THETA : Fld := ⟨.LNK_TIME_OFFS, 0, 64, .ro, 0⟩
abbrev LNK_TIME_ADOPT.STEP : Fld := ⟨.LNK_TIME_ADOPT, 0, 64, .ro, 0⟩
abbrev LNK_TIME_CFG.PERIOD : Fld := ⟨.LNK_TIME_CFG, 0, 10, .rw, 250⟩
abbrev LNK_FAULT_STAT.DOWN : Fld := ⟨.LNK_FAULT_STAT, 0, 1, .w1c, 0⟩
abbrev LNK_FAULT_STAT.DUP_DEV : Fld := ⟨.LNK_FAULT_STAT, 1, 1, .w1c, 0⟩
abbrev LNK_FAULT_STAT.TWO_MASTERS : Fld := ⟨.LNK_FAULT_STAT, 2, 1, .w1c, 0⟩
abbrev LNK_FAULT_STAT.TIME_LOST : Fld := ⟨.LNK_FAULT_STAT, 3, 1, .w1c, 0⟩
abbrev LNK_FAULT_STAT.BC_LATE : Fld := ⟨.LNK_FAULT_STAT, 4, 1, .w1c, 0⟩
abbrev LNK_FAULT_STAT.CRC : Fld := ⟨.LNK_FAULT_STAT, 5, 1, .w1c, 0⟩
abbrev LNK_FAULT_MASK.BITS : Fld := ⟨.LNK_FAULT_MASK, 0, 6, .rw, 0⟩
abbrev LNK_PORT_STAT.STATE : Fld := ⟨.LNK_PORT_STAT, 0, 2, .ro, 0⟩
abbrev LNK_PORT_STAT.RATE : Fld := ⟨.LNK_PORT_STAT, 2, 3, .ro, 0⟩
abbrev LNK_PORT_STAT.REASON : Fld := ⟨.LNK_PORT_STAT, 5, 3, .ro, 0⟩
abbrev LNK_PORT_STAT.PEER_DEV : Fld := ⟨.LNK_PORT_STAT, 8, 5, .ro, 0⟩
abbrev LNK_PORT_STAT.PEER_PORT : Fld := ⟨.LNK_PORT_STAT, 13, 3, .ro, 0⟩
abbrev LNK_PORT_STAT.LANE_MAP : Fld := ⟨.LNK_PORT_STAT, 16, 8, .ro, 0⟩
abbrev LNK_PORT_STAT.SLOW : Fld := ⟨.LNK_PORT_STAT, 24, 1, .ro, 0⟩
abbrev LNK_PORT_STAT.TIME_UP : Fld := ⟨.LNK_PORT_STAT, 25, 1, .ro, 0⟩
abbrev LNK_PORT_CMD.RETRAIN : Fld := ⟨.LNK_PORT_CMD, 0, 1, .wo, 0⟩
abbrev LNK_PORT_CMD.DISABLE : Fld := ⟨.LNK_PORT_CMD, 1, 1, .wo, 0⟩
abbrev LNK_PORT_DELAY.DELTA : Fld := ⟨.LNK_PORT_DELAY, 0, 32, .ro, 0⟩
abbrev LNK_PORT_BCLAT.L : Fld := ⟨.LNK_PORT_BCLAT, 0, 32, .ro, 0⟩
abbrev LNK_PORT_ERR.CRC : Fld := ⟨.LNK_PORT_ERR, 0, 16, .rc, 0⟩
abbrev LNK_PORT_ERR.REPLAY : Fld := ⟨.LNK_PORT_ERR, 16, 16, .rc, 0⟩
abbrev LNK_PORT_ERR.SKIPPED : Fld := ⟨.LNK_PORT_ERR, 32, 16, .rc, 0⟩
abbrev LNK_PORT_ERR.BADTYPE : Fld := ⟨.LNK_PORT_ERR, 48, 16, .rc, 0⟩
abbrev LNK_PORT_DROP.DROP : Fld := ⟨.LNK_PORT_DROP, 0, 32, .rc, 0⟩
abbrev LNK_PORT_DROP.LATE : Fld := ⟨.LNK_PORT_DROP, 32, 32, .rc, 0⟩
abbrev LNK_PORT_TRAIN.FAILED : Fld := ⟨.LNK_PORT_TRAIN, 0, 3, .ro, 0⟩
abbrev LNK_PORT_TRAIN.COUNT : Fld := ⟨.LNK_PORT_TRAIN, 16, 16, .ro, 0⟩

/-! Fields of spec/13_bus_engines.md -/

abbrev BUS_CFG.PROTOCOL : Fld := ⟨.BUS_CFG, 0, 3, .lk, 0⟩
abbrev BUS_CFG.STRANGER : Fld := ⟨.BUS_CFG, 3, 1, .lk, 0⟩
abbrev BUS_CFG.SITE : Fld := ⟨.BUS_CFG, 8, 8, .lk, 0⟩
abbrev BUS_CFG.FIRST_CH : Fld := ⟨.BUS_CFG, 16, 10, .lk, 0⟩
abbrev BUS_CTRL.RUN : Fld := ⟨.BUS_CTRL, 0, 1, .rw, 0⟩
abbrev BUS_CTRL.FLUSH : Fld := ⟨.BUS_CTRL, 1, 1, .wo, 0⟩
abbrev BUS_CTRL.RECOVER : Fld := ⟨.BUS_CTRL, 2, 1, .wo, 0⟩
abbrev BUS_CTRL.PHY_RESET : Fld := ⟨.BUS_CTRL, 3, 1, .rw, 0⟩
abbrev BUS_STAT.STATE : Fld := ⟨.BUS_STAT, 0, 2, .ro, 0⟩
abbrev BUS_STAT.ERRSTATE : Fld := ⟨.BUS_STAT, 2, 2, .ro, 0⟩
abbrev BUS_STAT.TXQ : Fld := ⟨.BUS_STAT, 4, 7, .ro, 0⟩
abbrev BUS_STAT.GATE_OVR : Fld := ⟨.BUS_STAT, 11, 1, .w1c, 0⟩
abbrev BUS_STAT.ERR_CHG : Fld := ⟨.BUS_STAT, 12, 1, .w1c, 0⟩
abbrev BUS_STAT.WR_REJ : Fld := ⟨.BUS_STAT, 13, 1, .w1c, 0⟩
abbrev BUS_STAT.PLCA_OK : Fld := ⟨.BUS_STAT, 14, 1, .ro, 0⟩
abbrev BUS_TX_POST.ADDR : Fld := ⟨.BUS_TX_POST, 0, 40, .wo, 0⟩
abbrev BUS_TX_POST.LAKE : Fld := ⟨.BUS_TX_POST, 40, 1, .wo, 0⟩
abbrev BUS_TX_RES.RESULT : Fld := ⟨.BUS_TX_RES, 0, 2, .ro, 0⟩
abbrev BUS_GATE.EVCH : Fld := ⟨.BUS_GATE, 0, 8, .rw, 0⟩
abbrev BUS_GATE.EN : Fld := ⟨.BUS_GATE, 8, 1, .rw, 0⟩
abbrev BUS_EV_CFG.SRC : Fld := ⟨.BUS_EV_CFG, 0, 3, .rw, 0⟩
abbrev BUS_EV_CFG.FILT : Fld := ⟨.BUS_EV_CFG, 8, 5, .rw, 0⟩
abbrev BUS_CAN_ERR.TEC : Fld := ⟨.BUS_CAN_ERR, 0, 9, .ro, 0⟩
abbrev BUS_CAN_ERR.REC : Fld := ⟨.BUS_CAN_ERR, 16, 8, .ro, 0⟩
abbrev BUS_CAN_ERR.PASSIVE : Fld := ⟨.BUS_CAN_ERR, 24, 1, .ro, 0⟩
abbrev BUS_FAULT_STAT.BUS_OFF : Fld := ⟨.BUS_FAULT_STAT, 0, 1, .w1c, 0⟩
abbrev BUS_FAULT_STAT.RING_FULL : Fld := ⟨.BUS_FAULT_STAT, 1, 1, .w1c, 0⟩
abbrev BUS_FAULT_STAT.RING_ADDR : Fld := ⟨.BUS_FAULT_STAT, 2, 1, .w1c, 0⟩
abbrev BUS_FAULT_STAT.TAG_MISMATCH : Fld := ⟨.BUS_FAULT_STAT, 3, 1, .w1c, 0⟩
abbrev BUS_FAULT_STAT.PAYLOAD : Fld := ⟨.BUS_FAULT_STAT, 4, 1, .w1c, 0⟩
abbrev BUS_FAULT_MASK.BITS : Fld := ⟨.BUS_FAULT_MASK, 0, 5, .rw, 0⟩
abbrev BUS_CNT.COUNT : Fld := ⟨.BUS_CNT, 0, 32, .rc, 0⟩
abbrev BUS_CNT.OVF : Fld := ⟨.BUS_CNT, 32, 1, .rc, 0⟩
abbrev BUS_RX_BASE.ADDR : Fld := ⟨.BUS_RX_BASE, 0, 40, .rw, 0⟩
abbrev BUS_SR_BASE.ADDR : Fld := ⟨.BUS_SR_BASE, 0, 40, .rw, 0⟩
abbrev BUS_RX_CFG.MEM : Fld := ⟨.BUS_RX_CFG, 0, 1, .rw, 0⟩
abbrev BUS_RX_CFG.LOG2 : Fld := ⟨.BUS_RX_CFG, 1, 5, .rw, 11⟩
abbrev BUS_RX_CFG.EN : Fld := ⟨.BUS_RX_CFG, 6, 1, .rw, 0⟩
abbrev BUS_SR_CFG.MEM : Fld := ⟨.BUS_SR_CFG, 0, 1, .rw, 0⟩
abbrev BUS_SR_CFG.LOG2 : Fld := ⟨.BUS_SR_CFG, 1, 5, .rw, 11⟩
abbrev BUS_SR_CFG.EN : Fld := ⟨.BUS_SR_CFG, 6, 1, .rw, 0⟩
abbrev BUS_SR_CFG.ERRORS : Fld := ⟨.BUS_SR_CFG, 7, 1, .rw, 0⟩
abbrev BUS_SR_CFG.MAXLEN : Fld := ⟨.BUS_SR_CFG, 16, 12, .rw, 64⟩
abbrev BUS_RX_WR.POS : Fld := ⟨.BUS_RX_WR, 0, 32, .ro, 0⟩
abbrev BUS_RX_RD.POS : Fld := ⟨.BUS_RX_RD, 0, 32, .rw, 0⟩
abbrev BUS_SR_WR.POS : Fld := ⟨.BUS_SR_WR, 0, 32, .ro, 0⟩
abbrev BUS_SR_RD.POS : Fld := ⟨.BUS_SR_RD, 0, 32, .rw, 0⟩
abbrev BUS_RX_LOST.COUNT : Fld := ⟨.BUS_RX_LOST, 0, 32, .rc, 0⟩
abbrev BUS_RX_LOST.OVF : Fld := ⟨.BUS_RX_LOST, 32, 1, .rc, 0⟩
abbrev BUS_SR_LOST.COUNT : Fld := ⟨.BUS_SR_LOST, 0, 32, .rc, 0⟩
abbrev BUS_SR_LOST.OVF : Fld := ⟨.BUS_SR_LOST, 32, 1, .rc, 0⟩
abbrev BUS_FILT_VAL.KEY : Fld := ⟨.BUS_FILT_VAL, 0, 62, .rw, 0⟩
abbrev BUS_FILT_VAL.REJECT : Fld := ⟨.BUS_FILT_VAL, 62, 1, .rw, 0⟩
abbrev BUS_FILT_VAL.EN : Fld := ⟨.BUS_FILT_VAL, 63, 1, .rw, 0⟩
abbrev BUS_FILT_MSK.KEY : Fld := ⟨.BUS_FILT_MSK, 0, 62, .rw, 0⟩
abbrev BUS_LIN_RESP.ACTION : Fld := ⟨.BUS_LIN_RESP, 0, 2, .rw, 0⟩
abbrev BUS_LIN_RESP.ENHANCED : Fld := ⟨.BUS_LIN_RESP, 2, 1, .rw, 0⟩
abbrev BUS_LIN_RESP.LEN : Fld := ⟨.BUS_LIN_RESP, 3, 4, .rw, 0⟩
abbrev BUS_LIN_DATA.DATA : Fld := ⟨.BUS_LIN_DATA, 0, 64, .rw, 0⟩
abbrev BUS_MDIO_CMD.DATA : Fld := ⟨.BUS_MDIO_CMD, 0, 16, .wo, 0⟩
abbrev BUS_MDIO_CMD.REG : Fld := ⟨.BUS_MDIO_CMD, 16, 5, .wo, 0⟩
abbrev BUS_MDIO_CMD.WRITE : Fld := ⟨.BUS_MDIO_CMD, 30, 1, .wo, 0⟩
abbrev BUS_MDIO_CMD.GO : Fld := ⟨.BUS_MDIO_CMD, 31, 1, .wo, 0⟩
abbrev BUS_MDIO_RES.DATA : Fld := ⟨.BUS_MDIO_RES, 0, 16, .ro, 0⟩
abbrev BUS_MDIO_RES.RESULT : Fld := ⟨.BUS_MDIO_RES, 16, 2, .ro, 0⟩

/-! Fields of spec/14_services.md -/

abbrev SAF_CFG.PULL : Fld := ⟨.SAF_CFG, 0, 16, .lk, 65535⟩
abbrev SAF_CFG.TICK_NS : Fld := ⟨.SAF_CFG, 16, 16, .lk, 1000⟩
abbrev SAF_STAT.USED : Fld := ⟨.SAF_STAT, 0, 17, .ro, 0⟩
abbrev SAF_STAT.PEAK : Fld := ⟨.SAF_STAT, 32, 17, .rc, 0⟩
abbrev SAF_FAULT_STAT.POOL_FULL : Fld := ⟨.SAF_FAULT_STAT, 0, 1, .w1c, 0⟩
abbrev SAF_FAULT_STAT.FLOW_FULL : Fld := ⟨.SAF_FAULT_STAT, 1, 1, .w1c, 0⟩
abbrev SAF_FAULT_STAT.STATE_CORR : Fld := ⟨.SAF_FAULT_STAT, 2, 1, .w1c, 0⟩
abbrev SAF_FAULT_STAT.STATE_UNCORR : Fld := ⟨.SAF_FAULT_STAT, 3, 1, .w1c, 0⟩
abbrev SAF_FAULT_MASK.BITS : Fld := ⟨.SAF_FAULT_MASK, 0, 4, .rw, 0⟩
abbrev SAF_GET.FLOW : Fld := ⟨.SAF_GET, 0, 18, .ro, 0⟩
abbrev SAF_GET.LEVEL : Fld := ⟨.SAF_GET, 18, 4, .ro, 0⟩
abbrev SAF_GET.VALID : Fld := ⟨.SAF_GET, 31, 1, .ro, 0⟩
abbrev SAF_CORE.STATE : Fld := ⟨.SAF_CORE, 0, 2, .ro, 0⟩
abbrev SAF_CORE.LEVEL : Fld := ⟨.SAF_CORE, 2, 4, .ro, 0⟩
abbrev SAF_CORE.FLOW : Fld := ⟨.SAF_CORE, 8, 18, .ro, 0⟩
abbrev SAF_LEVEL.ELIGIBLE : Fld := ⟨.SAF_LEVEL, 0, 17, .ro, 0⟩
abbrev SAF_LEVEL.MAXLAT : Fld := ⟨.SAF_LEVEL, 32, 16, .rc, 0⟩
abbrev SAF_FLOW_SEL.FLOW : Fld := ⟨.SAF_FLOW_SEL, 0, 18, .rw, 0⟩
abbrev SAF_FLOW_STAT.DEPTH : Fld := ⟨.SAF_FLOW_STAT, 0, 7, .ro, 0⟩
abbrev SAF_FLOW_STAT.INSERV : Fld := ⟨.SAF_FLOW_STAT, 7, 1, .ro, 0⟩
abbrev SAF_FLOW_STAT.LEVEL : Fld := ⟨.SAF_FLOW_STAT, 8, 4, .ro, 0⟩
abbrev SAF_FLOW_STAT.REFUSED : Fld := ⟨.SAF_FLOW_STAT, 16, 16, .ro, 0⟩
abbrev SAF_DELAY.ENTRIES : Fld := ⟨.SAF_DELAY, 0, 17, .ro, 0⟩
abbrev SVC_FW.VERSION : Fld := ⟨.SVC_FW, 0, 32, .lk, 0⟩
abbrev SVC_FW.CORE_MASK : Fld := ⟨.SVC_FW, 32, 16, .lk, 0⟩
abbrev SVC_FAULT_STAT.FW_CORR : Fld := ⟨.SVC_FAULT_STAT, 0, 1, .w1c, 0⟩
abbrev SVC_FAULT_STAT.FW_UNCORR : Fld := ⟨.SVC_FAULT_STAT, 1, 1, .w1c, 0⟩
abbrev SVC_FAULT_STAT.WDOG : Fld := ⟨.SVC_FAULT_STAT, 2, 1, .w1c, 0⟩
abbrev SVC_FAULT_STAT.KEY_CORR : Fld := ⟨.SVC_FAULT_STAT, 3, 1, .w1c, 0⟩
abbrev SVC_FAULT_STAT.KEY_UNCORR : Fld := ⟨.SVC_FAULT_STAT, 4, 1, .w1c, 0⟩
abbrev SVC_FAULT_MASK.BITS : Fld := ⟨.SVC_FAULT_MASK, 0, 5, .rw, 0⟩
abbrev SVC_CORE_STAT.STATE : Fld := ⟨.SVC_CORE_STAT, 0, 2, .ro, 0⟩
abbrev SVC_CORE_STAT.WDOG : Fld := ⟨.SVC_CORE_STAT, 8, 8, .ro, 0⟩
abbrev SVC_PLAN_CMD.OP : Fld := ⟨.SVC_PLAN_CMD, 0, 2, .wo, 0⟩
abbrev SVC_PLAN_SERIAL.SERIAL : Fld := ⟨.SVC_PLAN_SERIAL, 0, 64, .rw, 0⟩
abbrev SVC_PLAN_STAT.STATE : Fld := ⟨.SVC_PLAN_STAT, 0, 3, .ro, 0⟩
abbrev SVC_PLAN_STAT.ENTRY : Fld := ⟨.SVC_PLAN_STAT, 4, 12, .ro, 0⟩
abbrev SVC_PLAN_STAT.RESULT : Fld := ⟨.SVC_PLAN_STAT, 16, 3, .ro, 0⟩
abbrev SVC_DUTS.DUTS : Fld := ⟨.SVC_DUTS, 0, 32, .ro, 0⟩
abbrev SVC_DUTS.PASSED : Fld := ⟨.SVC_DUTS, 32, 32, .ro, 0⟩
abbrev SVC_LAST.BIN : Fld := ⟨.SVC_LAST, 0, 10, .ro, 0⟩
abbrev SVC_LAST.HARD : Fld := ⟨.SVC_LAST, 10, 8, .ro, 0⟩
abbrev SVC_LAST.PASS : Fld := ⟨.SVC_LAST, 18, 1, .ro, 0⟩
abbrev SVC_LAST.VALID : Fld := ⟨.SVC_LAST, 19, 1, .ro, 0⟩
abbrev SVC_DLOST.COUNT : Fld := ⟨.SVC_DLOST, 0, 32, .rc, 0⟩
abbrev SVC_DLOST.OVF : Fld := ⟨.SVC_DLOST, 32, 1, .rc, 0⟩

/-! Fields of spec/15_events_interrupts.md -/

abbrev EVF_STAT.ACTIVE : Fld := ⟨.EVF_STAT, 0, 1, .ro, 0⟩
abbrev EVF_STAT.LOOPS : Fld := ⟨.EVF_STAT, 1, 9, .ro, 0⟩
abbrev EVF_SWFIRE.FIRE : Fld := ⟨.EVF_SWFIRE, 0, 16, .wo, 0⟩
abbrev EVF_FAULT_STAT.LOOP : Fld := ⟨.EVF_FAULT_STAT, 0, 1, .w1c, 0⟩
abbrev EVF_FAULT_MASK.BITS : Fld := ⟨.EVF_FAULT_MASK, 0, 1, .rw, 0⟩
abbrev EVF_LOOPSTAT.CH : Fld := ⟨.EVF_LOOPSTAT, 0, 32, .w1c, 0⟩
abbrev EVF_TRIGOUT_SRC.EVCH : Fld := ⟨.EVF_TRIGOUT_SRC, 0, 32, .lk, 0⟩
abbrev EVF_BCAST.CH : Fld := ⟨.EVF_BCAST, 0, 32, .lk, 0⟩
abbrev EVF_COINC.CH : Fld := ⟨.EVF_COINC, 0, 32, .w1c, 0⟩
abbrev EVF_CHEVSEL.CODE : Fld := ⟨.EVF_CHEVSEL, 0, 32, .lk, 0⟩
abbrev EVF_TIMER_CFG.MODE : Fld := ⟨.EVF_TIMER_CFG, 0, 3, .rw, 0⟩
abbrev EVF_TIMER_CFG.EVCH : Fld := ⟨.EVF_TIMER_CFG, 8, 8, .rw, 0⟩
abbrev EVF_TIMER_CFG.COUNT : Fld := ⟨.EVF_TIMER_CFG, 16, 32, .rw, 1⟩
abbrev EVF_TIMER_T0.TICKS : Fld := ⟨.EVF_TIMER_T0, 0, 64, .rw, 0⟩
abbrev EVF_TIMER_PERIOD.TICKS : Fld := ⟨.EVF_TIMER_PERIOD, 0, 64, .rw, 0⟩
abbrev EVF_TIMER_STAT.FIRES : Fld := ⟨.EVF_TIMER_STAT, 0, 32, .rc, 0⟩
abbrev EVF_TIMER_STAT.FOVF : Fld := ⟨.EVF_TIMER_STAT, 32, 1, .rc, 0⟩
abbrev EVF_TIMER_STAT.OVR : Fld := ⟨.EVF_TIMER_STAT, 33, 1, .w1c, 0⟩
abbrev EVF_CH_CFG.REFIRE_NS : Fld := ⟨.EVF_CH_CFG, 0, 32, .lk, 8⟩
abbrev EVF_CH_CFG.LOCKOUT_NS : Fld := ⟨.EVF_CH_CFG, 32, 32, .lk, 0⟩
abbrev EVF_CH_CFG.LOOP_DECL : Fld := ⟨.EVF_CH_CFG, 64, 1, .lk, 0⟩
abbrev EVF_CH_CFG.INTERVAL_NS : Fld := ⟨.EVF_CH_CFG, 96, 32, .lk, 8⟩
abbrev EVF_CH_LAST.DT : Fld := ⟨.EVF_CH_LAST, 0, 64, .ro, 0⟩
abbrev EVF_CH_CNT.FIRES : Fld := ⟨.EVF_CH_CNT, 0, 32, .rc, 0⟩
abbrev EVF_CH_CNT.FOVF : Fld := ⟨.EVF_CH_CNT, 32, 1, .rc, 0⟩
abbrev EVF_CH_CNT.MERGED : Fld := ⟨.EVF_CH_CNT, 40, 16, .rc, 0⟩
abbrev EVF_CH_CNT.MOVF : Fld := ⟨.EVF_CH_CNT, 56, 1, .rc, 0⟩
abbrev EVF_MATRIX.EN : Fld := ⟨.EVF_MATRIX, 0, 32, .lk, 0⟩
abbrev IRC_FAULT_STAT.BAD_COMPLETE : Fld := ⟨.IRC_FAULT_STAT, 0, 1, .w1c, 0⟩
abbrev IRC_FAULT_MASK.BITS : Fld := ⟨.IRC_FAULT_MASK, 0, 1, .rw, 0⟩
abbrev IRC_HOLDOFF.STEPS : Fld := ⟨.IRC_HOLDOFF, 0, 17, .lk, 0⟩
abbrev IRC_HOLDOFF.ACTIVE : Fld := ⟨.IRC_HOLDOFF, 31, 1, .ro, 0⟩
abbrev IRC_MASK.SRC : Fld := ⟨.IRC_MASK, 0, 32, .rw, 0⟩
abbrev IRC_PEND.SRC : Fld := ⟨.IRC_PEND, 0, 32, .ro, 0⟩
abbrev IRC_CLAIMED.SRC : Fld := ⟨.IRC_CLAIMED, 0, 32, .ro, 0⟩
abbrev IRC_LINE.SRC : Fld := ⟨.IRC_LINE, 0, 32, .ro, 0⟩
abbrev IRC_OVR.SRC : Fld := ⟨.IRC_OVR, 0, 32, .w1c, 0⟩
abbrev IRC_CLAIM.SRC : Fld := ⟨.IRC_CLAIM, 0, 12, .rc, 0⟩
abbrev IRC_COMPLETE.SRC : Fld := ⟨.IRC_COMPLETE, 0, 12, .wo, 0⟩
abbrev IRC_SRC.TARGETS : Fld := ⟨.IRC_SRC, 0, 18, .lk, 0⟩
abbrev IRC_SRC.PRIO : Fld := ⟨.IRC_SRC, 18, 4, .lk, 0⟩
abbrev IRC_SRC.EDGE : Fld := ⟨.IRC_SRC, 22, 1, .lk, 0⟩
abbrev IRC_SRC.VECTOR : Fld := ⟨.IRC_SRC, 24, 5, .lk, 0⟩

/-! Fields of spec/16_memory_dram.md -/

abbrev LAK_FAULT_STAT.OWN_WR : Fld := ⟨.LAK_FAULT_STAT, 0, 1, .w1c, 0⟩
abbrev LAK_FAULT_STAT.OWN_RD : Fld := ⟨.LAK_FAULT_STAT, 1, 1, .w1c, 0⟩
abbrev LAK_FAULT_STAT.STATE_ACC : Fld := ⟨.LAK_FAULT_STAT, 2, 1, .w1c, 0⟩
abbrev LAK_FAULT_STAT.COLLIDE : Fld := ⟨.LAK_FAULT_STAT, 3, 1, .w1c, 0⟩
abbrev LAK_FAULT_STAT.HANDOVER_REJ : Fld := ⟨.LAK_FAULT_STAT, 4, 1, .w1c, 0⟩
abbrev LAK_FAULT_STAT.ECC_CORR : Fld := ⟨.LAK_FAULT_STAT, 5, 1, .w1c, 0⟩
abbrev LAK_FAULT_STAT.ECC_UNCORR : Fld := ⟨.LAK_FAULT_STAT, 6, 1, .w1c, 0⟩
abbrev LAK_FAULT_STAT.PORTB_DENY : Fld := ⟨.LAK_FAULT_STAT, 7, 1, .w1c, 0⟩
abbrev LAK_FAULT_MASK.BITS : Fld := ⟨.LAK_FAULT_MASK, 0, 8, .rw, 0⟩
abbrev LAK_OWNER.OWNER : Fld := ⟨.LAK_OWNER, 0, 8, .rw, 0⟩
abbrev LAK_STATE.REQ : Fld := ⟨.LAK_STATE, 0, 2, .rw, 0⟩
abbrev LAK_STATE.CUR : Fld := ⟨.LAK_STATE, 2, 2, .ro, 0⟩
abbrev LAK_STATE.BUSY : Fld := ⟨.LAK_STATE, 4, 1, .ro, 0⟩
abbrev LAK_BANK_STAT.COLLIDE : Fld := ⟨.LAK_BANK_STAT, 0, 16, .rc, 0⟩
abbrev LAK_BANK_STAT.COVF : Fld := ⟨.LAK_BANK_STAT, 16, 1, .rc, 0⟩
abbrev LAK_BANK_STAT.COLLIDED : Fld := ⟨.LAK_BANK_STAT, 17, 1, .w1c, 0⟩
abbrev LAK_BANK_STAT.OWN_VIOL : Fld := ⟨.LAK_BANK_STAT, 18, 1, .w1c, 0⟩
abbrev LAK_BANK_STAT.STATE_VIOL : Fld := ⟨.LAK_BANK_STAT, 19, 1, .w1c, 0⟩
abbrev LAK_BANK_STAT.CHECKED : Fld := ⟨.LAK_BANK_STAT, 20, 1, .ro, 0⟩
abbrev DMC_CFG.GEN : Fld := ⟨.DMC_CFG, 0, 2, .lk, 0⟩
abbrev DMC_CFG.CH_MASK : Fld := ⟨.DMC_CFG, 2, 8, .lk, 0⟩
abbrev DMC_CFG.DENSITY : Fld := ⟨.DMC_CFG, 10, 3, .lk, 0⟩
abbrev DMC_CFG.SEGTAB_REGION : Fld := ⟨.DMC_CFG, 13, 4, .lk, 0⟩
abbrev DMC_OP_STAT.OP : Fld := ⟨.DMC_OP_STAT, 0, 2, .ro, 0⟩
abbrev DMC_OP_STAT.CHANGING : Fld := ⟨.DMC_OP_STAT, 2, 1, .ro, 0⟩
abbrev DMC_OP_STAT.RESULT : Fld := ⟨.DMC_OP_STAT, 3, 2, .ro, 0⟩
abbrev DMC_OP_STAT.RATE : Fld := ⟨.DMC_OP_STAT, 16, 16, .ro, 0⟩
abbrev DMC_OP_STAT.SC0_WORST : Fld := ⟨.DMC_OP_STAT, 32, 16, .ro, 720⟩
abbrev DMC_OP_CMD.OP : Fld := ⟨.DMC_OP_CMD, 0, 2, .wo, 0⟩
abbrev DMC_OP_CMD.GO : Fld := ⟨.DMC_OP_CMD, 31, 1, .wo, 0⟩
abbrev DMC_FAULT_STAT.ECC_CORR : Fld := ⟨.DMC_FAULT_STAT, 0, 1, .w1c, 0⟩
abbrev DMC_FAULT_STAT.ECC_UNCORR : Fld := ⟨.DMC_FAULT_STAT, 1, 1, .w1c, 0⟩
abbrev DMC_FAULT_STAT.NO_REGION : Fld := ⟨.DMC_FAULT_STAT, 2, 1, .w1c, 0⟩
abbrev DMC_FAULT_STAT.OP_FAIL : Fld := ⟨.DMC_FAULT_STAT, 3, 1, .w1c, 0⟩
abbrev DMC_FAULT_MASK.BITS : Fld := ⟨.DMC_FAULT_MASK, 0, 4, .rw, 0⟩
abbrev DMC_REGION.BASE : Fld := ⟨.DMC_REGION, 0, 40, .lk, 0⟩
abbrev DMC_REGION.SIZE_MIB : Fld := ⟨.DMC_REGION, 64, 32, .lk, 0⟩
abbrev DMC_REGION.TYPE : Fld := ⟨.DMC_REGION, 96, 2, .lk, 0⟩
abbrev DMC_SC.MAXLAT : Fld := ⟨.DMC_SC, 0, 16, .rc, 0⟩
abbrev DMC_SC.PROMOTED : Fld := ⟨.DMC_SC, 32, 31, .rc, 0⟩
abbrev DMC_SC.POVF : Fld := ⟨.DMC_SC, 63, 1, .rc, 0⟩
abbrev DMC_CH_STAT.PRESENT : Fld := ⟨.DMC_CH_STAT, 0, 1, .ro, 0⟩
abbrev DMC_CH_STAT.TRAINED : Fld := ⟨.DMC_CH_STAT, 1, 2, .ro, 0⟩
abbrev DMC_CH_STAT.SELF_REFRESH : Fld := ⟨.DMC_CH_STAT, 3, 1, .ro, 0⟩
abbrev DMC_CH_STAT.HOT : Fld := ⟨.DMC_CH_STAT, 4, 1, .ro, 0⟩
abbrev DMC_CH_STAT.REFRESHES : Fld := ⟨.DMC_CH_STAT, 32, 32, .rc, 0⟩

/-! Fields of spec/17_host_interface.md -/

abbrev PCI_ID.VENDOR : Fld := ⟨.PCI_ID, 0, 16, .ro, 0⟩
abbrev PCI_ID.DEVICE : Fld := ⟨.PCI_ID, 16, 16, .ro, 4132⟩
abbrev PCI_LINK.STATE : Fld := ⟨.PCI_LINK, 0, 2, .ro, 0⟩
abbrev PCI_LINK.RATE : Fld := ⟨.PCI_LINK, 2, 3, .ro, 0⟩
abbrev PCI_LINK.WIDTH : Fld := ⟨.PCI_LINK, 5, 4, .ro, 0⟩
abbrev PCI_LINK.FLIT : Fld := ⟨.PCI_LINK, 9, 1, .ro, 0⟩
abbrev PCI_LINK.REVERSED : Fld := ⟨.PCI_LINK, 10, 1, .ro, 0⟩
abbrev PCI_LINK.DOWNS : Fld := ⟨.PCI_LINK, 16, 16, .ro, 0⟩
abbrev PCI_FAULT_STAT.LINK_DOWN : Fld := ⟨.PCI_FAULT_STAT, 0, 1, .w1c, 0⟩
abbrev PCI_FAULT_STAT.BAD_SIZE : Fld := ⟨.PCI_FAULT_STAT, 1, 1, .w1c, 0⟩
abbrev PCI_FAULT_STAT.POISONED : Fld := ⟨.PCI_FAULT_STAT, 2, 1, .w1c, 0⟩
abbrev PCI_FAULT_STAT.PERST : Fld := ⟨.PCI_FAULT_STAT, 3, 1, .w1c, 0⟩
abbrev PCI_FAULT_STAT.FLR0 : Fld := ⟨.PCI_FAULT_STAT, 4, 1, .w1c, 0⟩
abbrev PCI_FAULT_STAT.FLR1 : Fld := ⟨.PCI_FAULT_STAT, 5, 1, .w1c, 0⟩
abbrev PCI_FAULT_MASK.BITS : Fld := ⟨.PCI_FAULT_MASK, 0, 6, .rw, 0⟩
abbrev PCI_RWIN.BASE : Fld := ⟨.PCI_RWIN, 18, 8, .rw, 0⟩
abbrev PCI_DWIN.BASE : Fld := ⟨.PCI_DWIN, 18, 22, .rw, 0⟩
abbrev PCI_KEY_SEL.SITE : Fld := ⟨.PCI_KEY_SEL, 0, 8, .rw, 0⟩
abbrev PCI_KEY_SEL.SLOT : Fld := ⟨.PCI_KEY_SEL, 8, 3, .rw, 0⟩
abbrev PCI_KEY_SEL.KIND : Fld := ⟨.PCI_KEY_SEL, 12, 2, .rw, 0⟩
abbrev PCI_KEY_DATA.DATA : Fld := ⟨.PCI_KEY_DATA, 0, 32, .wo, 0⟩
abbrev PCI_KEY_CMD.OP : Fld := ⟨.PCI_KEY_CMD, 0, 2, .wo, 0⟩
abbrev PCI_KEY_CMD.GO : Fld := ⟨.PCI_KEY_CMD, 31, 1, .wo, 0⟩
abbrev PCI_KEY_RES.RESULT : Fld := ⟨.PCI_KEY_RES, 0, 2, .ro, 0⟩
abbrev PCI_KEY_MAP.SLOTS : Fld := ⟨.PCI_KEY_MAP, 0, 16, .ro, 0⟩
abbrev PCI_DEVCMD.OP : Fld := ⟨.PCI_DEVCMD, 0, 8, .wo, 0⟩
abbrev PCI_DEVCMD.KEY : Fld := ⟨.PCI_DEVCMD, 8, 8, .wo, 0⟩
abbrev HRG_FAULT_STAT.DB_REJ : Fld := ⟨.HRG_FAULT_STAT, 0, 1, .w1c, 0⟩
abbrev HRG_FAULT_STAT.RING_ADDR : Fld := ⟨.HRG_FAULT_STAT, 1, 1, .w1c, 0⟩
abbrev HRG_FAULT_MASK.BITS : Fld := ⟨.HRG_FAULT_MASK, 0, 2, .rw, 0⟩
abbrev HRG_RES_BASE.ADDR : Fld := ⟨.HRG_RES_BASE, 0, 40, .rw, 0⟩
abbrev HRG_RES_CFG.MEM : Fld := ⟨.HRG_RES_CFG, 0, 1, .rw, 0⟩
abbrev HRG_RES_CFG.LOG2 : Fld := ⟨.HRG_RES_CFG, 1, 5, .rw, 11⟩
abbrev HRG_RES_CFG.EN : Fld := ⟨.HRG_RES_CFG, 6, 1, .rw, 0⟩
abbrev HRG_RES_CFG.THRESH : Fld := ⟨.HRG_RES_CFG, 16, 16, .rw, 1⟩
abbrev HRG_RES_WR.POS : Fld := ⟨.HRG_RES_WR, 0, 32, .ro, 0⟩
abbrev HRG_RES_RD.POS : Fld := ⟨.HRG_RES_RD, 0, 32, .rw, 0⟩
abbrev HRG_CMD_BASE.ADDR : Fld := ⟨.HRG_CMD_BASE, 0, 40, .rw, 0⟩
abbrev HRG_CMD_CFG.MEM : Fld := ⟨.HRG_CMD_CFG, 0, 1, .rw, 0⟩
abbrev HRG_CMD_CFG.LOG2 : Fld := ⟨.HRG_CMD_CFG, 1, 5, .rw, 4⟩
abbrev HRG_CMD_CFG.EN : Fld := ⟨.HRG_CMD_CFG, 6, 1, .rw, 0⟩
abbrev HRG_CMD_TAIL.POS : Fld := ⟨.HRG_CMD_TAIL, 0, 32, .rw, 0⟩
abbrev HRG_CMD_HEAD.POS : Fld := ⟨.HRG_CMD_HEAD, 0, 32, .ro, 0⟩
abbrev HRG_CMD_DONE.POS : Fld := ⟨.HRG_CMD_DONE, 0, 32, .ro, 0⟩
abbrev HRG_CMD_SEEN.POS : Fld := ⟨.HRG_CMD_SEEN, 0, 32, .rw, 0⟩
abbrev MBX_FAULT_STAT.SIDE_ERR : Fld := ⟨.MBX_FAULT_STAT, 0, 1, .w1c, 0⟩
abbrev MBX_FAULT_STAT.ECC_CORR : Fld := ⟨.MBX_FAULT_STAT, 1, 1, .w1c, 0⟩
abbrev MBX_FAULT_STAT.ECC_UNCORR : Fld := ⟨.MBX_FAULT_STAT, 2, 1, .w1c, 0⟩
abbrev MBX_FAULT_MASK.BITS : Fld := ⟨.MBX_FAULT_MASK, 0, 3, .rw, 0⟩
abbrev MBX_DATA.DATA : Fld := ⟨.MBX_DATA, 0, 32, .rw, 0⟩
abbrev MBX_DOORBELL.VALUE : Fld := ⟨.MBX_DOORBELL, 0, 32, .wo, 0⟩
abbrev MBX_CODE.VALUE : Fld := ⟨.MBX_CODE, 0, 32, .ro, 0⟩
abbrev MBX_TAKE.VALUE : Fld := ⟨.MBX_TAKE, 0, 32, .wo, 0⟩
abbrev MBX_STAT.FULL : Fld := ⟨.MBX_STAT, 0, 1, .ro, 0⟩
abbrev MBX_STAT.ORPHAN : Fld := ⟨.MBX_STAT, 1, 1, .ro, 0⟩
abbrev MBX_STAT.DISCARD : Fld := ⟨.MBX_STAT, 2, 1, .ro, 0⟩
abbrev MBX_STAT.WR_FULL : Fld := ⟨.MBX_STAT, 3, 1, .w1c, 0⟩
abbrev MBX_STAT.DB_REJ : Fld := ⟨.MBX_STAT, 4, 1, .w1c, 0⟩
abbrev MBX_STAT.SIDE_ERR : Fld := ⟨.MBX_STAT, 5, 1, .w1c, 0⟩
abbrev MBX_STAT.DIR : Fld := ⟨.MBX_STAT, 6, 1, .ro, 0⟩
abbrev MBX_STAT.SENDER : Fld := ⟨.MBX_STAT, 8, 8, .ro, 0⟩
abbrev MBX_LOCK.OWNER : Fld := ⟨.MBX_LOCK, 0, 8, .ro, 0⟩
abbrev MBX_POST_DT.DT : Fld := ⟨.MBX_POST_DT, 0, 64, .ro, 0⟩
abbrev MBX_TAKE_DT.DT : Fld := ⟨.MBX_TAKE_DT, 0, 64, .ro, 0⟩
abbrev HRG_MGT_BASE.ADDR : Fld := ⟨.HRG_MGT_BASE, 0, 40, .rw, 0⟩
abbrev HRG_MGT_CFG.MEM : Fld := ⟨.HRG_MGT_CFG, 0, 1, .rw, 0⟩
abbrev HRG_MGT_CFG.LOG2 : Fld := ⟨.HRG_MGT_CFG, 1, 5, .rw, 4⟩
abbrev HRG_MGT_CFG.EN : Fld := ⟨.HRG_MGT_CFG, 6, 1, .rw, 0⟩
abbrev HRG_MGT_TAIL.POS : Fld := ⟨.HRG_MGT_TAIL, 0, 32, .rw, 0⟩
abbrev HRG_MGT_HEAD.POS : Fld := ⟨.HRG_MGT_HEAD, 0, 32, .ro, 0⟩
abbrev HRG_MGT_DONE.POS : Fld := ⟨.HRG_MGT_DONE, 0, 32, .ro, 0⟩
abbrev HRG_MGT_SEEN.POS : Fld := ⟨.HRG_MGT_SEEN, 0, 32, .rw, 0⟩
abbrev PCI_MSIX0_ADDR.ADDR : Fld := ⟨.PCI_MSIX0_ADDR, 0, 64, .rw, 0⟩
abbrev PCI_MSIX0_DATA.DATA : Fld := ⟨.PCI_MSIX0_DATA, 0, 32, .rw, 0⟩
abbrev PCI_MSIX0_CTRL.MASK : Fld := ⟨.PCI_MSIX0_CTRL, 0, 1, .rw, 1⟩
abbrev PCI_MSIX0_PBA.PEND : Fld := ⟨.PCI_MSIX0_PBA, 0, 32, .ro, 0⟩
abbrev PCI_MSIX1_ADDR.ADDR : Fld := ⟨.PCI_MSIX1_ADDR, 0, 64, .rw, 0⟩
abbrev PCI_MSIX1_DATA.DATA : Fld := ⟨.PCI_MSIX1_DATA, 0, 32, .rw, 0⟩
abbrev PCI_MSIX1_CTRL.MASK : Fld := ⟨.PCI_MSIX1_CTRL, 0, 1, .rw, 1⟩
abbrev PCI_MSIX1_PBA.PEND : Fld := ⟨.PCI_MSIX1_PBA, 0, 8, .ro, 0⟩

/-! Fields of spec/18_faults_safe_state.md -/

abbrev CIN_STAT.SAFE : Fld := ⟨.CIN_STAT, 0, 1, .ro, 0⟩
abbrev CIN_STAT.SAFE_IN : Fld := ⟨.CIN_STAT, 1, 1, .ro, 0⟩
abbrev CIN_STAT.EXIT_PEND : Fld := ⟨.CIN_STAT, 2, 1, .ro, 0⟩
abbrev CIN_STAT.EXIT_REJ : Fld := ⟨.CIN_STAT, 3, 1, .w1c, 0⟩
abbrev CIN_CAUSE.CAUSE : Fld := ⟨.CIN_CAUSE, 0, 10, .ro, 0⟩
abbrev CIN_CAUSE_SEEN.CAUSE : Fld := ⟨.CIN_CAUSE_SEEN, 0, 10, .w1c, 0⟩
abbrev CIN_ENTRY_DT.DT : Fld := ⟨.CIN_ENTRY_DT, 0, 64, .ro, 0⟩
abbrev CIN_EXIT_DT.DT : Fld := ⟨.CIN_EXIT_DT, 0, 64, .ro, 0⟩
abbrev CIN_ENTRIES.COUNT : Fld := ⟨.CIN_ENTRIES, 0, 31, .rc, 0⟩
abbrev CIN_ENTRIES.OVF : Fld := ⟨.CIN_ENTRIES, 31, 1, .rc, 0⟩
abbrev CIN_SAT.BLOCK : Fld := ⟨.CIN_SAT, 0, 28, .w1c, 0⟩
abbrev CIN_FAULT_STAT.SAT : Fld := ⟨.CIN_FAULT_STAT, 0, 1, .w1c, 0⟩
abbrev CIN_FAULT_STAT.EXIT_REJ : Fld := ⟨.CIN_FAULT_STAT, 1, 1, .w1c, 0⟩
abbrev CIN_FAULT_MASK.BITS : Fld := ⟨.CIN_FAULT_MASK, 0, 2, .rw, 0⟩
abbrev CIN_FORCE.FORCE : Fld := ⟨.CIN_FORCE, 0, 1, .rw, 0⟩
abbrev CIN_EXIT.EXIT : Fld := ⟨.CIN_EXIT, 0, 1, .wo, 0⟩
abbrev CIN_EXIT.KEY : Fld := ⟨.CIN_EXIT, 8, 8, .wo, 0⟩
abbrev CIN_TILE_RESET.TILES : Fld := ⟨.CIN_TILE_RESET, 0, 8, .wo, 0⟩
abbrev CIN_TILE_RESET.KEY : Fld := ⟨.CIN_TILE_RESET, 8, 8, .wo, 0⟩
abbrev CIN_TILE_RESET.RESULT : Fld := ⟨.CIN_TILE_RESET, 16, 2, .ro, 0⟩
abbrev CIN_CORE_RESET.CORES : Fld := ⟨.CIN_CORE_RESET, 0, 16, .wo, 0⟩
abbrev CIN_CORE_RESET.KEY : Fld := ⟨.CIN_CORE_RESET, 16, 8, .wo, 0⟩

end F

/-- The fields of each register, lowest first (the field tables of spec/). -/
def Reg.fields : Reg → List Fld
  | .DEV_ID => [F.DEV_ID.PART, F.DEV_ID.ORDER, F.DEV_ID.REV]
  | .DEV_SERIAL => [F.DEV_SERIAL.SERIAL]
  | .DEV_STATE => [F.DEV_STATE.STATE, F.DEV_STATE.SAFE, F.DEV_STATE.ENTERING, F.DEV_STATE.WAKING]
  | .DEV_NUMBER => [F.DEV_NUMBER.NUMBER]
  | .DEV_TEMP => [F.DEV_TEMP.TEMP, F.DEV_TEMP.VALID]
  | .DEV_THERM_CFG => [F.DEV_THERM_CFG.WARN]
  | .DEV_FAULT_STAT => [F.DEV_FAULT_STAT.THERM_WARN, F.DEV_FAULT_STAT.THERM_TRIP, F.DEV_FAULT_STAT.TEMP_LOW, F.DEV_FAULT_STAT.FUSE_CORR]
  | .DEV_FAULT_MASK => [F.DEV_FAULT_MASK.BITS]
  | .PWR_RAIL_STAT => [F.PWR_RAIL_STAT.GOOD]
  | .PWR_CTRL => [F.PWR_CTRL.DORMANT, F.PWR_CTRL.WAKE]
  | .PWR_STAT => [F.PWR_STAT.PHASE, F.PWR_STAT.DORM_REJ, F.PWR_STAT.SLEEP_REJ, F.PWR_STAT.QUEUED]
  | .PWR_LADDER_CFG => [F.PWR_LADDER_CFG.SPACING]
  | .PWR_WAKE_CFG => [F.PWR_WAKE_CFG.EVCH, F.PWR_WAKE_CFG.EN]
  | .PWR_FAULT_STAT => [F.PWR_FAULT_STAT.UV, F.PWR_FAULT_STAT.SETTLE_FAIL]
  | .PWR_FAULT_MASK => [F.PWR_FAULT_MASK.BITS]
  | .PWR_GROUP_STATE => [F.PWR_GROUP_STATE.G0, F.PWR_GROUP_STATE.G1, F.PWR_GROUP_STATE.G2, F.PWR_GROUP_STATE.G3, F.PWR_GROUP_STATE.G4, F.PWR_GROUP_STATE.G5, F.PWR_GROUP_STATE.G6, F.PWR_GROUP_STATE.G7]
  | .PWR_SLEEP_SET => [F.PWR_SLEEP_SET.SITE]
  | .PWR_SLEEP_CLR => [F.PWR_SLEEP_CLR.SITE]
  | .PWR_SLIP => [F.PWR_SLIP.SLIP]
  | .CFG_STAT => [F.CFG_STAT.CODE, F.CFG_STAT.SOURCE, F.CFG_STAT.FALLBACK, F.CFG_STAT.BUSY, F.CFG_STAT.RELOAD_REJ]
  | .CFG_FAIL => [F.CFG_FAIL.CODE, F.CFG_FAIL.RECORD, F.CFG_FAIL.OFFSET]
  | .CFG_IMAGE => [F.CFG_IMAGE.IMAGE_ID, F.CFG_IMAGE.FORMAT, F.CFG_IMAGE.SECVER]
  | .CFG_HASH => [F.CFG_HASH.HASH]
  | .CFG_LOAD_DT => [F.CFG_LOAD_DT.DT]
  | .CFG_FUSE_STAT => [F.CFG_FUSE_STAT.KEYHASH_PROG, F.CFG_FUSE_STAT.SECVER]
  | .CFG_FAULT_STAT => [F.CFG_FAULT_STAT.FALLBACK, F.CFG_FAULT_STAT.LOAD_FAIL, F.CFG_FAULT_STAT.PRECHECK_FAIL]
  | .CFG_FAULT_MASK => [F.CFG_FAULT_MASK.BITS]
  | .CFG_RELOAD => [F.CFG_RELOAD.SRC, F.CFG_RELOAD.FORCE, F.CFG_RELOAD.GO]
  | .CFG_STAGE_ADDR => [F.CFG_STAGE_ADDR.ADDR]
  | .CFG_STAGE_LEN => [F.CFG_STAGE_LEN.LEN]
  | .CFG_FUSE_CMD => [F.CFG_FUSE_CMD.OP, F.CFG_FUSE_CMD.VALUE, F.CFG_FUSE_CMD.GO]
  | .CFG_FUSE_RES => [F.CFG_FUSE_RES.RESULT]
  | .CFG_KEYHASH_IN => [F.CFG_KEYHASH_IN.HASH]
  | .SMAP_QUAD => [F.SMAP_QUAD.SITE_LO, F.SMAP_QUAD.SITE_HI]
  | .SMAP_BUSMODE => [F.SMAP_BUSMODE.CH]
  | .SMAP_SITE => [F.SMAP_SITE.FLAGS, F.SMAP_SITE.ALIGN_SET, F.SMAP_SITE.HOME_DEV, F.SMAP_SITE.HOME_SITE, F.SMAP_SITE.TILES, F.SMAP_SITE.QUADS, F.SMAP_SITE.PROXY]
  | .SMAP_TSLICE => [F.SMAP_TSLICE.QUADS, F.SMAP_TSLICE.SITE, F.SMAP_TSLICE.VALID, F.SMAP_TSLICE.PROXY]
  | .MDR_SITE_STATE => [F.MDR_SITE_STATE.STATE, F.MDR_SITE_STATE.OUTCOME, F.MDR_SITE_STATE.PROXY, F.MDR_SITE_STATE.ASLEEP, F.MDR_SITE_STATE.TRIMOK, F.MDR_SITE_STATE.ALIGN_WAIT]
  | .MDR_SITE_CMD => [F.MDR_SITE_CMD.OP, F.MDR_SITE_CMD.PROG_ID]
  | .MDR_SITE_START_REQ => [F.MDR_SITE_START_REQ.DT]
  | .MDR_SITE_CMD_RES => [F.MDR_SITE_CMD_RES.RESULT, F.MDR_SITE_CMD_RES.BUSY]
  | .MDR_SITE_START_DT => [F.MDR_SITE_START_DT.DT]
  | .MDR_SITE_STALL => [F.MDR_SITE_STALL.SEG, F.MDR_SITE_STALL.GRANULE, F.MDR_SITE_STALL.CAUSE]
  | .MDR_SITE_STALL_DT => [F.MDR_SITE_STALL_DT.DT]
  | .MDR_SITE_RESUME_DT => [F.MDR_SITE_RESUME_DT.DT]
  | .MDR_SITE_HOLDS => [F.MDR_SITE_HOLDS.COUNT, F.MDR_SITE_HOLDS.OVF]
  | .MDR_SITE_SPAN => [F.MDR_SITE_SPAN.DEV]
  | .MDR_SITE_STAT => [F.MDR_SITE_STAT.STALE_REJ, F.MDR_SITE_STAT.UNDERRUN, F.MDR_SITE_STAT.JOIN_REFUSED]
  | .MDR_SITE_FCAUSE => [F.MDR_SITE_FCAUSE.CAUSE]
  | .MDR_SITE_DONE_DT => [F.MDR_SITE_DONE_DT.DT]
  | .VST_SLOTS => [F.VST_SLOTS.FREE, F.VST_SLOTS.LOWEST]
  | .VST_DEMAND => [F.VST_DEMAND.NOW, F.VST_DEMAND.PEAK]
  | .VST_FAULT_STAT => [F.VST_FAULT_STAT.NOSPACE, F.VST_FAULT_STAT.MAPFORM, F.VST_FAULT_STAT.SEG_INVALID, F.VST_FAULT_STAT.COPY_FIRST]
  | .VST_FAULT_MASK => [F.VST_FAULT_MASK.BITS]
  | .VST_SLICE => [F.VST_SLICE.SLOTS, F.VST_SLICE.AHEAD, F.VST_SLICE.AHEAD_MIN]
  | .SLP_FAULT_STAT => [F.SLP_FAULT_STAT.BADCODE, F.SLP_FAULT_STAT.BADLOOP, F.SLP_FAULT_STAT.CTRL_DIVERGE, F.SLP_FAULT_STAT.ROM_CORR, F.SLP_FAULT_STAT.ROM_UNCORR, F.SLP_FAULT_STAT.MISSED_RELEASE]
  | .SLP_FAULT_MASK => [F.SLP_FAULT_MASK.BITS]
  | .SLP_PATCH => [F.SLP_PATCH.WORDS, F.SLP_PATCH.MATCHES]
  | .SLP_STAT => [F.SLP_STAT.STATE, F.SLP_STAT.ALT, F.SLP_STAT.LATE_JUMP, F.SLP_STAT.JUMP_LOST, F.SLP_STAT.MATCH_TMO, F.SLP_STAT.STARVED, F.SLP_STAT.MATCH_WAIT, F.SLP_STAT.LOOPS, F.SLP_STAT.QUEUED, F.SLP_STAT.LEAD]
  | .SLP_POS => [F.SLP_POS.SEG, F.SLP_POS.GRANULE, F.SLP_POS.VEC]
  | .SLP_VCOUNT => [F.SLP_VCOUNT.COUNT, F.SLP_VCOUNT.OVF]
  | .SLP_JUMP_CFG => [F.SLP_JUMP_CFG.EVCH, F.SLP_JUMP_CFG.EN, F.SLP_JUMP_CFG.HINT]
  | .SLP_JUMPSTAT => [F.SLP_JUMPSTAT.LATE_VEC, F.SLP_JUMPSTAT.SRC]
  | .SLP_JUMP_DT => [F.SLP_JUMP_DT.DT]
  | .SLP_LOOPPRE => [F.SLP_LOOPPRE.COUNT]
  | .SLP_MATCH_TMO => [F.SLP_MATCH_TMO.PASSES]
  | .SLP_CTRLCRC => [F.SLP_CTRLCRC.CRC]
  | .WOD_WF_SEL => [F.WOD_WF_SEL.CH, F.WOD_WF_SEL.SLOT, F.WOD_WF_SEL.WF]
  | .WOD_WF_DATA => [F.WOD_WF_DATA.DATA]
  | .WOD_WF_CMD => [F.WOD_WF_CMD.OP, F.WOD_WF_CMD.GO]
  | .WOD_WF_RES => [F.WOD_WF_RES.RESULT, F.WOD_WF_RES.REASON, F.WOD_WF_RES.WF]
  | .WOD_FAULT_STAT => [F.WOD_FAULT_STAT.WF_CORR, F.WOD_FAULT_STAT.WF_UNCORR, F.WOD_FAULT_STAT.PER_CORR, F.WOD_FAULT_STAT.PER_UNCORR, F.WOD_FAULT_STAT.TSET_UNDEF, F.WOD_FAULT_STAT.EDGE_DROP, F.WOD_FAULT_STAT.OFFS_RANGE, F.WOD_FAULT_STAT.CMP_DROP]
  | .WOD_FAULT_MASK => [F.WOD_FAULT_MASK.BITS]
  | .WOD_SLICE_TS => [F.WOD_SLICE_TS.PRIMARY, F.WOD_SLICE_TS.ALTERNATE, F.WOD_SLICE_TS.ALT_ACTIVE]
  | .WOD_SLICE_PERIOD => [F.WOD_SLICE_PERIOD.PERIOD]
  | .WOD_SLICE_BOUNDARY => [F.WOD_SLICE_BOUNDARY.DT]
  | .WOD_SLICE_STAT => [F.WOD_SLICE_STAT.TS_OVERRIDDEN, F.WOD_SLICE_STAT.TSET_UNDEF, F.WOD_SLICE_STAT.WR_REJ, F.WOD_SLICE_STAT.PER_REJ]
  | .WOD_PERIOD => [F.WOD_PERIOD.PERIOD]
  | .WOD_CH_PIN => [F.WOD_CH_PIN.HOLD_POLICY, F.WOD_CH_PIN.DRIVE_EN, F.WOD_CH_PIN.FIXTRIM, F.WOD_CH_PIN.IDLE_SLOT, F.WOD_CH_PIN.IDLE_WF]
  | .WOD_CH_CFG => [F.WOD_CH_CFG.FIXCOMP]
  | .WOD_CH_FIXDELAY => [F.WOD_CH_FIXDELAY.DELAY, F.WOD_CH_FIXDELAY.VALID]
  | .WOD_CH_STAT => [F.WOD_CH_STAT.LEVEL, F.WOD_CH_STAT.SOURCE, F.WOD_CH_STAT.EDGE_DROP, F.WOD_CH_STAT.OFFS_RANGE, F.WOD_CH_STAT.CMP_DROP]
  | .WOD_CH_DROPS => [F.WOD_CH_DROPS.COUNT, F.WOD_CH_DROPS.OVF]
  | .SEP_CMP_CH_CFG => [F.SEP_CMP_CH_CFG.TERM, F.SEP_CMP_CH_CFG.HYST]
  | .SEP_CMP_CH_MASK => [F.SEP_CMP_CH_MASK.MASK]
  | .SEP_CMP_CH_VTH => [F.SEP_CMP_CH_VTH.HI, F.SEP_CMP_CH_VTH.LO]
  | .SEP_CMP_CH_VTT => [F.SEP_CMP_CH_VTT.VTT]
  | .SEP_CMP_CH_LIVE => [F.SEP_CMP_CH_LIVE.STATE, F.SEP_CMP_CH_LIVE.VALID]
  | .SEP_CMP_CH_FAILS => [F.SEP_CMP_CH_FAILS.COUNT, F.SEP_CMP_CH_FAILS.OVF]
  | .SEP_CMP_CH_STAT => [F.SEP_CMP_CH_STAT.WR_REJ, F.SEP_CMP_CH_STAT.MASK_PEND]
  | .SEP_CMP_FAULT_STAT => [F.SEP_CMP_FAULT_STAT.CNT_OVF]
  | .SEP_CMP_FAULT_MASK => [F.SEP_CMP_FAULT_MASK.BITS]
  | .SEP_CMP_SLICE_FAILVEC => [F.SEP_CMP_SLICE_FAILVEC.COUNT, F.SEP_CMP_SLICE_FAILVEC.OVF]
  | .SEP_CMP_SLICE_FAILS => [F.SEP_CMP_SLICE_FAILS.COUNT, F.SEP_CMP_SLICE_FAILS.OVF]
  | .SEP_CAP_TFAULT_STAT => [F.SEP_CAP_TFAULT_STAT.STAGE_OVF]
  | .SEP_CAP_TFAULT_MASK => [F.SEP_CAP_TFAULT_MASK.BITS]
  | .SEP_CAP_STAGE => [F.SEP_CAP_STAGE.LEVEL, F.SEP_CAP_STAGE.PEAK]
  | .SEP_CAP_FAULT_STAT => [F.SEP_CAP_FAULT_STAT.RING_FULL, F.SEP_CAP_FAULT_STAT.TAG_MISMATCH, F.SEP_CAP_FAULT_STAT.RING_ADDR, F.SEP_CAP_FAULT_STAT.CNT_OVF]
  | .SEP_CAP_FAULT_MASK => [F.SEP_CAP_FAULT_MASK.BITS]
  | .SEP_CAP_POLICY => [F.SEP_CAP_POLICY.STOP, F.SEP_CAP_POLICY.LOG_EN]
  | .SEP_CAP_LIMIT => [F.SEP_CAP_LIMIT.VALUE]
  | .SEP_CAP_LOGMAX => [F.SEP_CAP_LOGMAX.VALUE]
  | .SEP_CAP_FAILS => [F.SEP_CAP_FAILS.COUNT, F.SEP_CAP_FAILS.OVF]
  | .SEP_CAP_FF_DT => [F.SEP_CAP_FF_DT.DT]
  | .SEP_CAP_FF_REC => [F.SEP_CAP_FF_REC.DATA]
  | .SEP_CAP_STAT => [F.SEP_CAP_STAT.FF_VALID, F.SEP_CAP_STAT.FF_MULTI, F.SEP_CAP_STAT.STOPPED, F.SEP_CAP_STAT.LIMIT_HIT, F.SEP_CAP_STAT.LOGMAX_HIT, F.SEP_CAP_STAT.LOST_ANY]
  | .SEP_CAP_STOP_DT => [F.SEP_CAP_STOP_DT.DT]
  | .SEP_CAP_RING_BASE => [F.SEP_CAP_RING_BASE.ADDR]
  | .SEP_CAP_RING_CFG => [F.SEP_CAP_RING_CFG.MEM, F.SEP_CAP_RING_CFG.LOG2, F.SEP_CAP_RING_CFG.EN]
  | .SEP_CAP_RING_WR => [F.SEP_CAP_RING_WR.POS]
  | .SEP_CAP_RING_RD => [F.SEP_CAP_RING_RD.POS]
  | .SEP_CAP_LOST => [F.SEP_CAP_LOST.COUNT, F.SEP_CAP_LOST.OVF]
  | .SEP_CAP_LOGGED => [F.SEP_CAP_LOGGED.COUNT, F.SEP_CAP_LOGGED.OVF]
  | .MDR_STEP_STAT => [F.MDR_STEP_STAT.STATE, F.MDR_STEP_STAT.Z, F.MDR_STEP_STAT.L, F.MDR_STEP_STAT.T, F.MDR_STEP_STAT.TRAP_ACTIVE, F.MDR_STEP_STAT.TRAP_PEND, F.MDR_STEP_STAT.DEPTH, F.MDR_STEP_STAT.SAT, F.MDR_STEP_STAT.BIN_REJ, F.MDR_STEP_STAT.LATE_START, F.MDR_STEP_STAT.RESTART, F.MDR_STEP_STAT.JUMP_IDLE]
  | .MDR_STEP_PC => [F.MDR_STEP_PC.PC, F.MDR_STEP_PC.PROG_ID]
  | .MDR_STEP_FAULT => [F.MDR_STEP_FAULT.CODE, F.MDR_STEP_FAULT.PC]
  | .MDR_STEP_BIN => [F.MDR_STEP_BIN.BIN, F.MDR_STEP_BIN.VALID]
  | .MDR_STEP_EVDT => [F.MDR_STEP_EVDT.DT]
  | .MDR_STEP_TRAP => [F.MDR_STEP_TRAP.EVCH, F.MDR_STEP_TRAP.EN, F.MDR_STEP_TRAP.HANDLER]
  | .MDR_STEP_SVC_TMO => [F.MDR_STEP_SVC_TMO.US]
  | .MDR_STEP_SVC_RES => [F.MDR_STEP_SVC_RES.RESULT]
  | .MDR_STEP_ARG => [F.MDR_STEP_ARG.VALUE]
  | .MDR_STEP_EVSTAT => [F.MDR_STEP_EVSTAT.OVERRUN]
  | .MDR_STEP_TRIM => [F.MDR_STEP_TRIM.DT]
  | .MDR_STEP_G => [F.MDR_STEP_G.VALUE]
  | .MDR_STEP_WMASK => [F.MDR_STEP_WMASK.CH]
  | .MDR_STEP_EVL => [F.MDR_STEP_EVL.CH]
  | .MDR_STEP_STACK => [F.MDR_STEP_STACK.INDEX]
  | .MDR_STEP_PATCH => [F.MDR_STEP_PATCH.WORDS, F.MDR_STEP_PATCH.MATCHES]
  | .MDR_STEP_PDIR => [F.MDR_STEP_PDIR.ADDR]
  | .MDR_STEP_FAULT_STAT => [F.MDR_STEP_FAULT_STAT.CTX_FAULT, F.MDR_STEP_FAULT_STAT.WORD_CORR, F.MDR_STEP_FAULT_STAT.ROM_CORR, F.MDR_STEP_FAULT_STAT.ROM_UNCORR, F.MDR_STEP_FAULT_STAT.MISSED_RELEASE]
  | .MDR_STEP_FAULT_MASK => [F.MDR_STEP_FAULT_MASK.BITS]
  | .MDR_STEP_SYNC_MEM => [F.MDR_STEP_SYNC_MEM.SITE]
  | .MDR_STEP_SYNC_STAT => [F.MDR_STEP_SYNC_STAT.ARRIVED, F.MDR_STEP_SYNC_STAT.WR_REJ, F.MDR_STEP_SYNC_STAT.RELEASES]
  | .MDR_STEP_SYNC_DT => [F.MDR_STEP_SYNC_DT.DT]
  | .SEP_ACQ_CH_CFG => [F.SEP_ACQ_CH_CFG.TYPE, F.SEP_ACQ_CH_CFG.REPEAT, F.SEP_ACQ_CH_CFG.AUTO, F.SEP_ACQ_CH_CFG.DEPTH, F.SEP_ACQ_CH_CFG.DECIM, F.SEP_ACQ_CH_CFG.PRE]
  | .SEP_ACQ_CH_AUTO => [F.SEP_ACQ_CH_AUTO.US]
  | .SEP_ACQ_CH_ARMEV => [F.SEP_ACQ_CH_ARMEV.ARM_EVCH, F.SEP_ACQ_CH_ARMEV.ARM_EN, F.SEP_ACQ_CH_ARMEV.DIS_EVCH, F.SEP_ACQ_CH_ARMEV.DIS_EN]
  | .SEP_ACQ_CH_PARAM0 => [F.SEP_ACQ_CH_PARAM0.LIMIT, F.SEP_ACQ_CH_PARAM0.RELATION, F.SEP_ACQ_CH_PARAM0.EDGE]
  | .SEP_ACQ_CH_PARAM1 => [F.SEP_ACQ_CH_PARAM1.LIMIT]
  | .SEP_ACQ_CH_CMD => [F.SEP_ACQ_CH_CMD.OP]
  | .SEP_ACQ_CH_STAT => [F.SEP_ACQ_CH_STAT.STATE, F.SEP_ACQ_CH_STAT.SEQ, F.SEP_ACQ_CH_STAT.ARM_REJ, F.SEP_ACQ_CH_STAT.ARM_DUP, F.SEP_ACQ_CH_STAT.OVERRUN, F.SEP_ACQ_CH_STAT.CFG_REJ, F.SEP_ACQ_CH_STAT.REASON]
  | .SEP_ACQ_CH_TRIGS => [F.SEP_ACQ_CH_TRIGS.COUNT, F.SEP_ACQ_CH_TRIGS.OVF]
  | .SEP_ACQ_CH_ARM_DT => [F.SEP_ACQ_CH_ARM_DT.DT]
  | .SEP_ACQ_CH_SEQ => [F.SEP_ACQ_CH_SEQ.COND, F.SEP_ACQ_CH_SEQ.CSTATE, F.SEP_ACQ_CH_SEQ.EVCH, F.SEP_ACQ_CH_SEQ.COUNT, F.SEP_ACQ_CH_SEQ.ON_MATCH, F.SEP_ACQ_CH_SEQ.ON_EARLY, F.SEP_ACQ_CH_SEQ.ON_TMO]
  | .SEP_ACQ_CH_TIMER => [F.SEP_ACQ_CH_TIMER.TMIN, F.SEP_ACQ_CH_TIMER.TMAX]
  | .SEP_ACQ_POOL => [F.SEP_ACQ_POOL.FREE]
  | .SEP_ACQ_TFAULT_STAT => [F.SEP_ACQ_TFAULT_STAT.MISSED]
  | .SEP_ACQ_TFAULT_MASK => [F.SEP_ACQ_TFAULT_MASK.BITS]
  | .SEP_ACQ_RING_BASE => [F.SEP_ACQ_RING_BASE.ADDR]
  | .SEP_ACQ_RING_CFG => [F.SEP_ACQ_RING_CFG.MEM, F.SEP_ACQ_RING_CFG.LOG2, F.SEP_ACQ_RING_CFG.EN]
  | .SEP_ACQ_RING_WR => [F.SEP_ACQ_RING_WR.POS]
  | .SEP_ACQ_RING_RD => [F.SEP_ACQ_RING_RD.POS]
  | .SEP_ACQ_LOST => [F.SEP_ACQ_LOST.COUNT, F.SEP_ACQ_LOST.OVF]
  | .SEP_ACQ_LOGGED => [F.SEP_ACQ_LOGGED.COUNT, F.SEP_ACQ_LOGGED.OVF]
  | .SEP_ACQ_FAULT_STAT => [F.SEP_ACQ_FAULT_STAT.RING_FULL, F.SEP_ACQ_FAULT_STAT.TAG_MISMATCH, F.SEP_ACQ_FAULT_STAT.RING_ADDR]
  | .SEP_ACQ_FAULT_MASK => [F.SEP_ACQ_FAULT_MASK.BITS]
  | .TIA_CH_CFG => [F.TIA_CH_CFG.TYPE, F.TIA_CH_CFG.START_THR, F.TIA_CH_CFG.START_SLOPE, F.TIA_CH_CFG.STOP_THR, F.TIA_CH_CFG.STOP_SLOPE, F.TIA_CH_CFG.STOP_CH]
  | .TIA_CH_N => [F.TIA_CH_N.N]
  | .TIA_CH_WMIN => [F.TIA_CH_WMIN.TICKS]
  | .TIA_CH_WMAX => [F.TIA_CH_WMAX.TICKS]
  | .TIA_CH_GATE => [F.TIA_CH_GATE.US]
  | .TIA_CH_PARTNER => [F.TIA_CH_PARTNER.CH, F.TIA_CH_PARTNER.DEV]
  | .TIA_CH_CMD => [F.TIA_CH_CMD.OP]
  | .TIA_CH_STAT => [F.TIA_CH_STAT.STATE, F.TIA_CH_STAT.INCOMPLETE, F.TIA_CH_STAT.STALE, F.TIA_CH_STAT.OVF, F.TIA_CH_STAT.REJ, F.TIA_CH_STAT.REASON, F.TIA_CH_STAT.CFG_REJ]
  | .TIA_CH_COUNT => [F.TIA_CH_COUNT.SAMPLES, F.TIA_CH_COUNT.OUTSIDE, F.TIA_CH_COUNT.OUT_OVF]
  | .TIA_CH_SUM => [F.TIA_CH_SUM.VALUE]
  | .TIA_CH_MIN => [F.TIA_CH_MIN.VALUE]
  | .TIA_CH_MAX => [F.TIA_CH_MAX.VALUE]
  | .TIA_CH_MEAN => [F.TIA_CH_MEAN.VALUE]
  | .TIA_CH_SD => [F.TIA_CH_SD.VALUE]
  | .TIA_CH_M2 => [F.TIA_CH_M2.VALUE]
  | .TIA_CH_AUX => [F.TIA_CH_AUX.VALUE]
  | .TIA_CH_START_DT => [F.TIA_CH_START_DT.DT]
  | .TIA_CH_DONE_DT => [F.TIA_CH_DONE_DT.DT]
  | .TIA_FAULT_STAT => [F.TIA_FAULT_STAT.SAT, F.TIA_FAULT_STAT.MISSED]
  | .TIA_FAULT_MASK => [F.TIA_FAULT_MASK.BITS]
  | .UMB_DT => [F.UMB_DT.DT]
  | .UMB_ERA => [F.UMB_ERA.ERA]
  | .UMB_ERA_LATCH => [F.UMB_ERA_LATCH.ERA]
  | .UMB_CFG => [F.UMB_CFG.SRC]
  | .UMB_STAT => [F.UMB_STAT.STATE, F.UMB_STAT.BACKUP, F.UMB_STAT.REF_OK]
  | .UMB_RATE => [F.UMB_RATE.C]
  | .UMB_PHASE_ERR => [F.UMB_PHASE_ERR.TICKS]
  | .UMB_XTAL_TEMP => [F.UMB_XTAL_TEMP.TEMP]
  | .UMB_AGE => [F.UMB_AGE.BLOCKS]
  | .UMB_TOD_OFFSET => [F.UMB_TOD_OFFSET.OFFSET]
  | .UMB_PPS_DT => [F.UMB_PPS_DT.DT]
  | .UMB_FAULT_STAT => [F.UMB_FAULT_STAT.REF_LOST, F.UMB_FAULT_STAT.SLEW_LIMIT, F.UMB_FAULT_STAT.XTAL_FAIL]
  | .UMB_FAULT_MASK => [F.UMB_FAULT_MASK.BITS]
  | .MRD_CH_QF => [F.MRD_CH_QF.QF_EDGE, F.MRD_CH_QF.STATE, F.MRD_CH_QF.HELD, F.MRD_CH_QF.PENDING, F.MRD_CH_QF.NEVER, F.MRD_CH_QF.TRIM_FAIL]
  | .MRD_CH_AGE => [F.MRD_CH_AGE.MS]
  | .MRD_CH_TRIM_DT => [F.MRD_CH_TRIM_DT.DT]
  | .MRD_CH_PASS => [F.MRD_CH_PASS.STEPS, F.MRD_CH_PASS.PHASE, F.MRD_CH_PASS.QF_TRIM]
  | .MRD_CH_REFL => [F.MRD_CH_REFL.D, F.MRD_CH_REFL.NORET, F.MRD_CH_REFL.CHANGED, F.MRD_CH_REFL.PEND]
  | .MRD_TILE_STAT => [F.MRD_TILE_STAT.FRESH, F.MRD_TILE_STAT.AGING, F.MRD_TILE_STAT.STALE, F.MRD_TILE_STAT.BUSY]
  | .MRD_TSKEW => [F.MRD_TSKEW.OFFSET, F.MRD_TSKEW.RESID, F.MRD_TSKEW.VALID]
  | .MRD_FAULT_STAT => [F.MRD_FAULT_STAT.TRIM_FAIL, F.MRD_FAULT_STAT.STALE_NEW, F.MRD_FAULT_STAT.TSKEW_LOST, F.MRD_FAULT_STAT.REFL_CHANGED, F.MRD_FAULT_STAT.MISSED_RELEASE]
  | .MRD_FAULT_MASK => [F.MRD_FAULT_MASK.BITS]
  | .MRD_REFL_CMD => [F.MRD_REFL_CMD.GO]
  | .MRD_REFL_CFG => [F.MRD_REFL_CFG.VTH_INC, F.MRD_REFL_CFG.VTH_RET, F.MRD_REFL_CFG.REPS, F.MRD_REFL_CFG.JUMP]
  | .MRD_REFL_STAT => [F.MRD_REFL_STAT.STATE, F.MRD_REFL_STAT.PARTIAL, F.MRD_REFL_STAT.REJ, F.MRD_REFL_STAT.CHANNELS]
  | .MRD_REFL_DT => [F.MRD_REFL_DT.DT]
  | .MRD_SITE_QF => [F.MRD_SITE_QF.WORST, F.MRD_SITE_QF.STALE, F.MRD_SITE_QF.AGING]
  | .TLK_STAT => [F.TLK_STAT.STATE, F.TLK_STAT.DOWN_LOCK]
  | .TLK_ERR => [F.TLK_ERR.CRC, F.TLK_ERR.REPLAY]
  | .TLK_FAULT_STAT => [F.TLK_FAULT_STAT.DOWN, F.TLK_FAULT_STAT.CRC]
  | .TLK_FAULT_MASK => [F.TLK_FAULT_MASK.BITS]
  | .TLK_CORE_STAT => [F.TLK_CORE_STAT.STATE, F.TLK_CORE_STAT.DOWN, F.TLK_CORE_STAT.UP_LOCK, F.TLK_CORE_STAT.UPS]
  | .TLK_CORE_UPDT => [F.TLK_CORE_UPDT.DT]
  | .LNK_TIME_STAT => [F.LNK_TIME_STAT.STATE, F.LNK_TIME_STAT.UPSTREAM, F.LNK_TIME_STAT.UP_VALID, F.LNK_TIME_STAT.ADOPTED, F.LNK_TIME_STAT.HOPS, F.LNK_TIME_STAT.MASTER]
  | .LNK_TIME_OFFS => [F.LNK_TIME_OFFS.THETA]
  | .LNK_TIME_ADOPT => [F.LNK_TIME_ADOPT.STEP]
  | .LNK_TIME_CFG => [F.LNK_TIME_CFG.PERIOD]
  | .LNK_FAULT_STAT => [F.LNK_FAULT_STAT.DOWN, F.LNK_FAULT_STAT.DUP_DEV, F.LNK_FAULT_STAT.TWO_MASTERS, F.LNK_FAULT_STAT.TIME_LOST, F.LNK_FAULT_STAT.BC_LATE, F.LNK_FAULT_STAT.CRC]
  | .LNK_FAULT_MASK => [F.LNK_FAULT_MASK.BITS]
  | .LNK_PORT_STAT => [F.LNK_PORT_STAT.STATE, F.LNK_PORT_STAT.RATE, F.LNK_PORT_STAT.REASON, F.LNK_PORT_STAT.PEER_DEV, F.LNK_PORT_STAT.PEER_PORT, F.LNK_PORT_STAT.LANE_MAP, F.LNK_PORT_STAT.SLOW, F.LNK_PORT_STAT.TIME_UP]
  | .LNK_PORT_CMD => [F.LNK_PORT_CMD.RETRAIN, F.LNK_PORT_CMD.DISABLE]
  | .LNK_PORT_DELAY => [F.LNK_PORT_DELAY.DELTA]
  | .LNK_PORT_BCLAT => [F.LNK_PORT_BCLAT.L]
  | .LNK_PORT_ERR => [F.LNK_PORT_ERR.CRC, F.LNK_PORT_ERR.REPLAY, F.LNK_PORT_ERR.SKIPPED, F.LNK_PORT_ERR.BADTYPE]
  | .LNK_PORT_DROP => [F.LNK_PORT_DROP.DROP, F.LNK_PORT_DROP.LATE]
  | .LNK_PORT_TRAIN => [F.LNK_PORT_TRAIN.FAILED, F.LNK_PORT_TRAIN.COUNT]
  | .BUS_CFG => [F.BUS_CFG.PROTOCOL, F.BUS_CFG.STRANGER, F.BUS_CFG.SITE, F.BUS_CFG.FIRST_CH]
  | .BUS_CTRL => [F.BUS_CTRL.RUN, F.BUS_CTRL.FLUSH, F.BUS_CTRL.RECOVER, F.BUS_CTRL.PHY_RESET]
  | .BUS_STAT => [F.BUS_STAT.STATE, F.BUS_STAT.ERRSTATE, F.BUS_STAT.TXQ, F.BUS_STAT.GATE_OVR, F.BUS_STAT.ERR_CHG, F.BUS_STAT.WR_REJ, F.BUS_STAT.PLCA_OK]
  | .BUS_TX_POST => [F.BUS_TX_POST.ADDR, F.BUS_TX_POST.LAKE]
  | .BUS_TX_RES => [F.BUS_TX_RES.RESULT]
  | .BUS_GATE => [F.BUS_GATE.EVCH, F.BUS_GATE.EN]
  | .BUS_EV_CFG => [F.BUS_EV_CFG.SRC, F.BUS_EV_CFG.FILT]
  | .BUS_CAN_ERR => [F.BUS_CAN_ERR.TEC, F.BUS_CAN_ERR.REC, F.BUS_CAN_ERR.PASSIVE]
  | .BUS_FAULT_STAT => [F.BUS_FAULT_STAT.BUS_OFF, F.BUS_FAULT_STAT.RING_FULL, F.BUS_FAULT_STAT.RING_ADDR, F.BUS_FAULT_STAT.TAG_MISMATCH, F.BUS_FAULT_STAT.PAYLOAD]
  | .BUS_FAULT_MASK => [F.BUS_FAULT_MASK.BITS]
  | .BUS_CNT => [F.BUS_CNT.COUNT, F.BUS_CNT.OVF]
  | .BUS_RX_BASE => [F.BUS_RX_BASE.ADDR]
  | .BUS_SR_BASE => [F.BUS_SR_BASE.ADDR]
  | .BUS_RX_CFG => [F.BUS_RX_CFG.MEM, F.BUS_RX_CFG.LOG2, F.BUS_RX_CFG.EN]
  | .BUS_SR_CFG => [F.BUS_SR_CFG.MEM, F.BUS_SR_CFG.LOG2, F.BUS_SR_CFG.EN, F.BUS_SR_CFG.ERRORS, F.BUS_SR_CFG.MAXLEN]
  | .BUS_RX_WR => [F.BUS_RX_WR.POS]
  | .BUS_RX_RD => [F.BUS_RX_RD.POS]
  | .BUS_SR_WR => [F.BUS_SR_WR.POS]
  | .BUS_SR_RD => [F.BUS_SR_RD.POS]
  | .BUS_RX_LOST => [F.BUS_RX_LOST.COUNT, F.BUS_RX_LOST.OVF]
  | .BUS_SR_LOST => [F.BUS_SR_LOST.COUNT, F.BUS_SR_LOST.OVF]
  | .BUS_FILT_VAL => [F.BUS_FILT_VAL.KEY, F.BUS_FILT_VAL.REJECT, F.BUS_FILT_VAL.EN]
  | .BUS_FILT_MSK => [F.BUS_FILT_MSK.KEY]
  | .BUS_LIN_RESP => [F.BUS_LIN_RESP.ACTION, F.BUS_LIN_RESP.ENHANCED, F.BUS_LIN_RESP.LEN]
  | .BUS_LIN_DATA => [F.BUS_LIN_DATA.DATA]
  | .BUS_MDIO_CMD => [F.BUS_MDIO_CMD.DATA, F.BUS_MDIO_CMD.REG, F.BUS_MDIO_CMD.WRITE, F.BUS_MDIO_CMD.GO]
  | .BUS_MDIO_RES => [F.BUS_MDIO_RES.DATA, F.BUS_MDIO_RES.RESULT]
  | .SAF_CFG => [F.SAF_CFG.PULL, F.SAF_CFG.TICK_NS]
  | .SAF_STAT => [F.SAF_STAT.USED, F.SAF_STAT.PEAK]
  | .SAF_FAULT_STAT => [F.SAF_FAULT_STAT.POOL_FULL, F.SAF_FAULT_STAT.FLOW_FULL, F.SAF_FAULT_STAT.STATE_CORR, F.SAF_FAULT_STAT.STATE_UNCORR]
  | .SAF_FAULT_MASK => [F.SAF_FAULT_MASK.BITS]
  | .SAF_GET => [F.SAF_GET.FLOW, F.SAF_GET.LEVEL, F.SAF_GET.VALID]
  | .SAF_CORE => [F.SAF_CORE.STATE, F.SAF_CORE.LEVEL, F.SAF_CORE.FLOW]
  | .SAF_LEVEL => [F.SAF_LEVEL.ELIGIBLE, F.SAF_LEVEL.MAXLAT]
  | .SAF_FLOW_SEL => [F.SAF_FLOW_SEL.FLOW]
  | .SAF_FLOW_STAT => [F.SAF_FLOW_STAT.DEPTH, F.SAF_FLOW_STAT.INSERV, F.SAF_FLOW_STAT.LEVEL, F.SAF_FLOW_STAT.REFUSED]
  | .SAF_DELAY => [F.SAF_DELAY.ENTRIES]
  | .SVC_FW => [F.SVC_FW.VERSION, F.SVC_FW.CORE_MASK]
  | .SVC_FAULT_STAT => [F.SVC_FAULT_STAT.FW_CORR, F.SVC_FAULT_STAT.FW_UNCORR, F.SVC_FAULT_STAT.WDOG, F.SVC_FAULT_STAT.KEY_CORR, F.SVC_FAULT_STAT.KEY_UNCORR]
  | .SVC_FAULT_MASK => [F.SVC_FAULT_MASK.BITS]
  | .SVC_CORE_STAT => [F.SVC_CORE_STAT.STATE, F.SVC_CORE_STAT.WDOG]
  | .SVC_PLAN_CMD => [F.SVC_PLAN_CMD.OP]
  | .SVC_PLAN_SERIAL => [F.SVC_PLAN_SERIAL.SERIAL]
  | .SVC_PLAN_STAT => [F.SVC_PLAN_STAT.STATE, F.SVC_PLAN_STAT.ENTRY, F.SVC_PLAN_STAT.RESULT]
  | .SVC_DUTS => [F.SVC_DUTS.DUTS, F.SVC_DUTS.PASSED]
  | .SVC_LAST => [F.SVC_LAST.BIN, F.SVC_LAST.HARD, F.SVC_LAST.PASS, F.SVC_LAST.VALID]
  | .SVC_DLOST => [F.SVC_DLOST.COUNT, F.SVC_DLOST.OVF]
  | .EVF_STAT => [F.EVF_STAT.ACTIVE, F.EVF_STAT.LOOPS]
  | .EVF_SWFIRE => [F.EVF_SWFIRE.FIRE]
  | .EVF_FAULT_STAT => [F.EVF_FAULT_STAT.LOOP]
  | .EVF_FAULT_MASK => [F.EVF_FAULT_MASK.BITS]
  | .EVF_LOOPSTAT => [F.EVF_LOOPSTAT.CH]
  | .EVF_TRIGOUT_SRC => [F.EVF_TRIGOUT_SRC.EVCH]
  | .EVF_BCAST => [F.EVF_BCAST.CH]
  | .EVF_COINC => [F.EVF_COINC.CH]
  | .EVF_CHEVSEL => [F.EVF_CHEVSEL.CODE]
  | .EVF_TIMER_CFG => [F.EVF_TIMER_CFG.MODE, F.EVF_TIMER_CFG.EVCH, F.EVF_TIMER_CFG.COUNT]
  | .EVF_TIMER_T0 => [F.EVF_TIMER_T0.TICKS]
  | .EVF_TIMER_PERIOD => [F.EVF_TIMER_PERIOD.TICKS]
  | .EVF_TIMER_STAT => [F.EVF_TIMER_STAT.FIRES, F.EVF_TIMER_STAT.FOVF, F.EVF_TIMER_STAT.OVR]
  | .EVF_CH_CFG => [F.EVF_CH_CFG.REFIRE_NS, F.EVF_CH_CFG.LOCKOUT_NS, F.EVF_CH_CFG.LOOP_DECL, F.EVF_CH_CFG.INTERVAL_NS]
  | .EVF_CH_LAST => [F.EVF_CH_LAST.DT]
  | .EVF_CH_CNT => [F.EVF_CH_CNT.FIRES, F.EVF_CH_CNT.FOVF, F.EVF_CH_CNT.MERGED, F.EVF_CH_CNT.MOVF]
  | .EVF_MATRIX => [F.EVF_MATRIX.EN]
  | .IRC_FAULT_STAT => [F.IRC_FAULT_STAT.BAD_COMPLETE]
  | .IRC_FAULT_MASK => [F.IRC_FAULT_MASK.BITS]
  | .IRC_HOLDOFF => [F.IRC_HOLDOFF.STEPS, F.IRC_HOLDOFF.ACTIVE]
  | .IRC_MASK => [F.IRC_MASK.SRC]
  | .IRC_PEND => [F.IRC_PEND.SRC]
  | .IRC_CLAIMED => [F.IRC_CLAIMED.SRC]
  | .IRC_LINE => [F.IRC_LINE.SRC]
  | .IRC_OVR => [F.IRC_OVR.SRC]
  | .IRC_CLAIM => [F.IRC_CLAIM.SRC]
  | .IRC_COMPLETE => [F.IRC_COMPLETE.SRC]
  | .IRC_SRC => [F.IRC_SRC.TARGETS, F.IRC_SRC.PRIO, F.IRC_SRC.EDGE, F.IRC_SRC.VECTOR]
  | .LAK_FAULT_STAT => [F.LAK_FAULT_STAT.OWN_WR, F.LAK_FAULT_STAT.OWN_RD, F.LAK_FAULT_STAT.STATE_ACC, F.LAK_FAULT_STAT.COLLIDE, F.LAK_FAULT_STAT.HANDOVER_REJ, F.LAK_FAULT_STAT.ECC_CORR, F.LAK_FAULT_STAT.ECC_UNCORR, F.LAK_FAULT_STAT.PORTB_DENY]
  | .LAK_FAULT_MASK => [F.LAK_FAULT_MASK.BITS]
  | .LAK_OWNER => [F.LAK_OWNER.OWNER]
  | .LAK_STATE => [F.LAK_STATE.REQ, F.LAK_STATE.CUR, F.LAK_STATE.BUSY]
  | .LAK_BANK_STAT => [F.LAK_BANK_STAT.COLLIDE, F.LAK_BANK_STAT.COVF, F.LAK_BANK_STAT.COLLIDED, F.LAK_BANK_STAT.OWN_VIOL, F.LAK_BANK_STAT.STATE_VIOL, F.LAK_BANK_STAT.CHECKED]
  | .DMC_CFG => [F.DMC_CFG.GEN, F.DMC_CFG.CH_MASK, F.DMC_CFG.DENSITY, F.DMC_CFG.SEGTAB_REGION]
  | .DMC_OP_STAT => [F.DMC_OP_STAT.OP, F.DMC_OP_STAT.CHANGING, F.DMC_OP_STAT.RESULT, F.DMC_OP_STAT.RATE, F.DMC_OP_STAT.SC0_WORST]
  | .DMC_OP_CMD => [F.DMC_OP_CMD.OP, F.DMC_OP_CMD.GO]
  | .DMC_FAULT_STAT => [F.DMC_FAULT_STAT.ECC_CORR, F.DMC_FAULT_STAT.ECC_UNCORR, F.DMC_FAULT_STAT.NO_REGION, F.DMC_FAULT_STAT.OP_FAIL]
  | .DMC_FAULT_MASK => [F.DMC_FAULT_MASK.BITS]
  | .DMC_REGION => [F.DMC_REGION.BASE, F.DMC_REGION.SIZE_MIB, F.DMC_REGION.TYPE]
  | .DMC_SC => [F.DMC_SC.MAXLAT, F.DMC_SC.PROMOTED, F.DMC_SC.POVF]
  | .DMC_CH_STAT => [F.DMC_CH_STAT.PRESENT, F.DMC_CH_STAT.TRAINED, F.DMC_CH_STAT.SELF_REFRESH, F.DMC_CH_STAT.HOT, F.DMC_CH_STAT.REFRESHES]
  | .PCI_ID => [F.PCI_ID.VENDOR, F.PCI_ID.DEVICE]
  | .PCI_LINK => [F.PCI_LINK.STATE, F.PCI_LINK.RATE, F.PCI_LINK.WIDTH, F.PCI_LINK.FLIT, F.PCI_LINK.REVERSED, F.PCI_LINK.DOWNS]
  | .PCI_FAULT_STAT => [F.PCI_FAULT_STAT.LINK_DOWN, F.PCI_FAULT_STAT.BAD_SIZE, F.PCI_FAULT_STAT.POISONED, F.PCI_FAULT_STAT.PERST, F.PCI_FAULT_STAT.FLR0, F.PCI_FAULT_STAT.FLR1]
  | .PCI_FAULT_MASK => [F.PCI_FAULT_MASK.BITS]
  | .PCI_RWIN => [F.PCI_RWIN.BASE]
  | .PCI_DWIN => [F.PCI_DWIN.BASE]
  | .PCI_KEY_SEL => [F.PCI_KEY_SEL.SITE, F.PCI_KEY_SEL.SLOT, F.PCI_KEY_SEL.KIND]
  | .PCI_KEY_DATA => [F.PCI_KEY_DATA.DATA]
  | .PCI_KEY_CMD => [F.PCI_KEY_CMD.OP, F.PCI_KEY_CMD.GO]
  | .PCI_KEY_RES => [F.PCI_KEY_RES.RESULT]
  | .PCI_KEY_MAP => [F.PCI_KEY_MAP.SLOTS]
  | .PCI_DEVCMD => [F.PCI_DEVCMD.OP, F.PCI_DEVCMD.KEY]
  | .HRG_FAULT_STAT => [F.HRG_FAULT_STAT.DB_REJ, F.HRG_FAULT_STAT.RING_ADDR]
  | .HRG_FAULT_MASK => [F.HRG_FAULT_MASK.BITS]
  | .HRG_RES_BASE => [F.HRG_RES_BASE.ADDR]
  | .HRG_RES_CFG => [F.HRG_RES_CFG.MEM, F.HRG_RES_CFG.LOG2, F.HRG_RES_CFG.EN, F.HRG_RES_CFG.THRESH]
  | .HRG_RES_WR => [F.HRG_RES_WR.POS]
  | .HRG_RES_RD => [F.HRG_RES_RD.POS]
  | .HRG_CMD_BASE => [F.HRG_CMD_BASE.ADDR]
  | .HRG_CMD_CFG => [F.HRG_CMD_CFG.MEM, F.HRG_CMD_CFG.LOG2, F.HRG_CMD_CFG.EN]
  | .HRG_CMD_TAIL => [F.HRG_CMD_TAIL.POS]
  | .HRG_CMD_HEAD => [F.HRG_CMD_HEAD.POS]
  | .HRG_CMD_DONE => [F.HRG_CMD_DONE.POS]
  | .HRG_CMD_SEEN => [F.HRG_CMD_SEEN.POS]
  | .MBX_FAULT_STAT => [F.MBX_FAULT_STAT.SIDE_ERR, F.MBX_FAULT_STAT.ECC_CORR, F.MBX_FAULT_STAT.ECC_UNCORR]
  | .MBX_FAULT_MASK => [F.MBX_FAULT_MASK.BITS]
  | .MBX_DATA => [F.MBX_DATA.DATA]
  | .MBX_DOORBELL => [F.MBX_DOORBELL.VALUE]
  | .MBX_CODE => [F.MBX_CODE.VALUE]
  | .MBX_TAKE => [F.MBX_TAKE.VALUE]
  | .MBX_STAT => [F.MBX_STAT.FULL, F.MBX_STAT.ORPHAN, F.MBX_STAT.DISCARD, F.MBX_STAT.WR_FULL, F.MBX_STAT.DB_REJ, F.MBX_STAT.SIDE_ERR, F.MBX_STAT.DIR, F.MBX_STAT.SENDER]
  | .MBX_LOCK => [F.MBX_LOCK.OWNER]
  | .MBX_POST_DT => [F.MBX_POST_DT.DT]
  | .MBX_TAKE_DT => [F.MBX_TAKE_DT.DT]
  | .CIN_STAT => [F.CIN_STAT.SAFE, F.CIN_STAT.SAFE_IN, F.CIN_STAT.EXIT_PEND, F.CIN_STAT.EXIT_REJ]
  | .CIN_CAUSE => [F.CIN_CAUSE.CAUSE]
  | .CIN_CAUSE_SEEN => [F.CIN_CAUSE_SEEN.CAUSE]
  | .CIN_ENTRY_DT => [F.CIN_ENTRY_DT.DT]
  | .CIN_EXIT_DT => [F.CIN_EXIT_DT.DT]
  | .CIN_ENTRIES => [F.CIN_ENTRIES.COUNT, F.CIN_ENTRIES.OVF]
  | .CIN_SAT => [F.CIN_SAT.BLOCK]
  | .CIN_FAULT_STAT => [F.CIN_FAULT_STAT.SAT, F.CIN_FAULT_STAT.EXIT_REJ]
  | .CIN_FAULT_MASK => [F.CIN_FAULT_MASK.BITS]
  | .CIN_FORCE => [F.CIN_FORCE.FORCE]
  | .CIN_EXIT => [F.CIN_EXIT.EXIT, F.CIN_EXIT.KEY]
  | .CIN_TILE_RESET => [F.CIN_TILE_RESET.TILES, F.CIN_TILE_RESET.KEY, F.CIN_TILE_RESET.RESULT]
  | .CIN_CORE_RESET => [F.CIN_CORE_RESET.CORES, F.CIN_CORE_RESET.KEY]
  | .HRG_MGT_BASE => [F.HRG_MGT_BASE.ADDR]
  | .HRG_MGT_CFG => [F.HRG_MGT_CFG.MEM, F.HRG_MGT_CFG.LOG2, F.HRG_MGT_CFG.EN]
  | .HRG_MGT_TAIL => [F.HRG_MGT_TAIL.POS]
  | .HRG_MGT_HEAD => [F.HRG_MGT_HEAD.POS]
  | .HRG_MGT_DONE => [F.HRG_MGT_DONE.POS]
  | .HRG_MGT_SEEN => [F.HRG_MGT_SEEN.POS]
  | .PCI_MSIX0_ADDR => [F.PCI_MSIX0_ADDR.ADDR]
  | .PCI_MSIX0_DATA => [F.PCI_MSIX0_DATA.DATA]
  | .PCI_MSIX0_CTRL => [F.PCI_MSIX0_CTRL.MASK]
  | .PCI_MSIX0_PBA => [F.PCI_MSIX0_PBA.PEND]
  | .PCI_MSIX1_ADDR => [F.PCI_MSIX1_ADDR.ADDR]
  | .PCI_MSIX1_DATA => [F.PCI_MSIX1_DATA.DATA]
  | .PCI_MSIX1_CTRL => [F.PCI_MSIX1_CTRL.MASK]
  | .PCI_MSIX1_PBA => [F.PCI_MSIX1_PBA.PEND]

/-- A row of the address map: a register (or a part of its instances) in the BAR0 of one function, its first
address, its index dimensions (count, stride) from the outermost, and the index of its first instance. -/
structure MapRow where
  reg : Reg
  func : Func
  base : Nat
  dims : List (Nat × Nat)
  first : Nat
  deriving DecidableEq, Repr

/-- Part of the address map (R338, R339 and the register headings of spec/). -/
def mapRows0 : List MapRow :=
  [ ⟨.DEV_ID, .pf0, 0x0, [], 0⟩,
    ⟨.DEV_SERIAL, .pf0, 0x8, [], 0⟩,
    ⟨.DEV_STATE, .pf0, 0x10, [], 0⟩,
    ⟨.DEV_NUMBER, .pf0, 0x14, [], 0⟩,
    ⟨.DEV_TEMP, .pf0, 0x40, [(9, 0x4)], 0⟩,
    ⟨.DEV_THERM_CFG, .pf0, 0x70, [], 0⟩,
    ⟨.DEV_FAULT_STAT, .pf0, 0x80, [], 0⟩,
    ⟨.DEV_FAULT_MASK, .pf0, 0x84, [], 0⟩,
    ⟨.PWR_RAIL_STAT, .pf0, 0x20000, [], 0⟩,
    ⟨.PWR_CTRL, .pf0, 0x20010, [], 0⟩,
    ⟨.PWR_STAT, .pf0, 0x20014, [], 0⟩,
    ⟨.PWR_LADDER_CFG, .pf0, 0x20018, [], 0⟩,
    ⟨.PWR_WAKE_CFG, .pf0, 0x20020, [], 0⟩,
    ⟨.PWR_FAULT_STAT, .pf0, 0x20080, [], 0⟩,
    ⟨.PWR_FAULT_MASK, .pf0, 0x20084, [], 0⟩,
    ⟨.PWR_GROUP_STATE, .pf0, 0x20100, [(8, 0x4)], 0⟩,
    ⟨.PWR_SLEEP_SET, .pf0, 0x20200, [(8, 0x4)], 0⟩,
    ⟨.PWR_SLEEP_CLR, .pf0, 0x20240, [(8, 0x4)], 0⟩,
    ⟨.PWR_SLIP, .pf0, 0x21000, [(256, 0x8)], 0⟩,
    ⟨.CFG_STAT, .pf0, 0x10000, [], 0⟩,
    ⟨.CFG_FAIL, .pf0, 0x10010, [(3, 0x8)], 0⟩,
    ⟨.CFG_IMAGE, .pf0, 0x10030, [], 0⟩,
    ⟨.CFG_HASH, .pf0, 0x10040, [(12, 0x4)], 0⟩,
    ⟨.CFG_LOAD_DT, .pf0, 0x10070, [], 0⟩,
    ⟨.CFG_FUSE_STAT, .pf0, 0x10078, [], 0⟩,
    ⟨.CFG_FAULT_STAT, .pf0, 0x10080, [], 0⟩,
    ⟨.CFG_FAULT_MASK, .pf0, 0x10084, [], 0⟩,
    ⟨.CFG_RELOAD, .pf1, 0x20000, [], 0⟩,
    ⟨.CFG_STAGE_ADDR, .pf1, 0x20008, [], 0⟩,
    ⟨.CFG_STAGE_LEN, .pf1, 0x20010, [], 0⟩,
    ⟨.CFG_FUSE_CMD, .pf1, 0x20020, [], 0⟩,
    ⟨.CFG_FUSE_RES, .pf1, 0x20028, [], 0⟩,
    ⟨.CFG_KEYHASH_IN, .pf1, 0x20040, [(12, 0x4)], 0⟩,
    ⟨.SMAP_QUAD, .pf0, 0xF0000, [(128, 0x4)], 0⟩,
    ⟨.SMAP_BUSMODE, .pf0, 0xF0200, [(32, 0x4)], 0⟩,
    ⟨.SMAP_SITE, .pf0, 0xF0400, [(256, 0x8)], 0⟩,
    ⟨.SMAP_TSLICE, .pf0, 0xF1000, [(256, 0x8)], 0⟩,
    ⟨.MDR_SITE_STATE, .pf0, 0x100000, [(256, 0x400)], 0⟩,
    ⟨.MDR_SITE_CMD, .pf0, 0x100008, [(256, 0x400)], 0⟩,
    ⟨.MDR_SITE_START_REQ, .pf0, 0x100010, [(256, 0x400)], 0⟩,
    ⟨.MDR_SITE_CMD_RES, .pf0, 0x100018, [(256, 0x400)], 0⟩,
    ⟨.MDR_SITE_START_DT, .pf0, 0x100020, [(256, 0x400)], 0⟩,
    ⟨.MDR_SITE_STALL, .pf0, 0x100030, [(256, 0x400)], 0⟩,
    ⟨.MDR_SITE_STALL_DT, .pf0, 0x100038, [(256, 0x400)], 0⟩,
    ⟨.MDR_SITE_RESUME_DT, .pf0, 0x100040, [(256, 0x400)], 0⟩,
    ⟨.MDR_SITE_HOLDS, .pf0, 0x100048, [(256, 0x400)], 0⟩,
    ⟨.MDR_SITE_SPAN, .pf0, 0x100050, [(256, 0x400)], 0⟩,
    ⟨.MDR_SITE_STAT, .pf0, 0x100058, [(256, 0x400)], 0⟩,
    ⟨.MDR_SITE_FCAUSE, .pf0, 0x100060, [(256, 0x400)], 0⟩,
    ⟨.MDR_SITE_DONE_DT, .pf0, 0x100068, [(256, 0x400)], 0⟩,
    ⟨.VST_SLOTS, .pf0, 0x280000, [(8, 0x100000)], 0⟩,
    ⟨.VST_DEMAND, .pf0, 0x280008, [(8, 0x100000)], 0⟩,
    ⟨.VST_FAULT_STAT, .pf0, 0x280080, [(8, 0x100000)], 0⟩,
    ⟨.VST_FAULT_MASK, .pf0, 0x280084, [(8, 0x100000)], 0⟩,
    ⟨.VST_SLICE, .pf0, 0x280100, [(8, 0x100000), (32, 0x8)], 0⟩,
    ⟨.SLP_FAULT_STAT, .pf0, 0x284080, [(8, 0x100000)], 0⟩,
    ⟨.SLP_FAULT_MASK, .pf0, 0x284084, [(8, 0x100000)], 0⟩,
    ⟨.SLP_PATCH, .pf0, 0x284090, [(8, 0x100000)], 0⟩,
    ⟨.SLP_STAT, .pf0, 0x284100, [(8, 0x100000), (32, 0x100)], 0⟩,
    ⟨.SLP_POS, .pf0, 0x284108, [(8, 0x100000), (32, 0x100)], 0⟩ ]

/-- Part of the address map (R338, R339 and the register headings of spec/). -/
def mapRows1 : List MapRow :=
  [ ⟨.SLP_VCOUNT, .pf0, 0x284110, [(8, 0x100000), (32, 0x100)], 0⟩,
    ⟨.SLP_JUMP_CFG, .pf0, 0x284118, [(8, 0x100000), (32, 0x100)], 0⟩,
    ⟨.SLP_JUMPSTAT, .pf0, 0x284120, [(8, 0x100000), (32, 0x100)], 0⟩,
    ⟨.SLP_JUMP_DT, .pf0, 0x284128, [(8, 0x100000), (32, 0x100)], 0⟩,
    ⟨.SLP_LOOPPRE, .pf0, 0x284140, [(8, 0x100000), (32, 0x100), (4, 0x8)], 0⟩,
    ⟨.SLP_MATCH_TMO, .pf0, 0x284160, [(8, 0x100000), (32, 0x100)], 0⟩,
    ⟨.SLP_CTRLCRC, .pf0, 0x284168, [(8, 0x100000), (32, 0x100)], 0⟩,
    ⟨.WOD_WF_SEL, .pf0, 0x288010, [(8, 0x100000)], 0⟩,
    ⟨.WOD_WF_DATA, .pf0, 0x288020, [(8, 0x100000), (3, 0x8)], 0⟩,
    ⟨.WOD_WF_CMD, .pf0, 0x288040, [(8, 0x100000)], 0⟩,
    ⟨.WOD_WF_RES, .pf0, 0x288044, [(8, 0x100000)], 0⟩,
    ⟨.WOD_FAULT_STAT, .pf0, 0x288080, [(8, 0x100000)], 0⟩,
    ⟨.WOD_FAULT_MASK, .pf0, 0x288084, [(8, 0x100000)], 0⟩,
    ⟨.WOD_SLICE_TS, .pf0, 0x288100, [(8, 0x100000), (32, 0x40)], 0⟩,
    ⟨.WOD_SLICE_PERIOD, .pf0, 0x288108, [(8, 0x100000), (32, 0x40)], 0⟩,
    ⟨.WOD_SLICE_BOUNDARY, .pf0, 0x288110, [(8, 0x100000), (32, 0x40)], 0⟩,
    ⟨.WOD_SLICE_STAT, .pf0, 0x288118, [(8, 0x100000), (32, 0x40)], 0⟩,
    ⟨.WOD_PERIOD, .pf0, 0x28C000, [(8, 0x100000), (32, 0x200), (64, 0x8)], 0⟩,
    ⟨.WOD_CH_PIN, .pf0, 0x200000, [(8, 0x100000), (8, 0x10000), (16, 0x1000)], 0⟩,
    ⟨.WOD_CH_CFG, .pf0, 0x200008, [(8, 0x100000), (8, 0x10000), (16, 0x1000)], 0⟩,
    ⟨.WOD_CH_FIXDELAY, .pf0, 0x200010, [(8, 0x100000), (8, 0x10000), (16, 0x1000)], 0⟩,
    ⟨.WOD_CH_STAT, .pf0, 0x200018, [(8, 0x100000), (8, 0x10000), (16, 0x1000)], 0⟩,
    ⟨.WOD_CH_DROPS, .pf0, 0x200020, [(8, 0x100000), (8, 0x10000), (16, 0x1000)], 0⟩,
    ⟨.SEP_CMP_CH_CFG, .pf0, 0x200080, [(8, 0x100000), (8, 0x10000), (16, 0x1000)], 0⟩,
    ⟨.SEP_CMP_CH_MASK, .pf0, 0x200088, [(8, 0x100000), (8, 0x10000), (16, 0x1000)], 0⟩,
    ⟨.SEP_CMP_CH_VTH, .pf0, 0x200090, [(8, 0x100000), (8, 0x10000), (16, 0x1000)], 0⟩,
    ⟨.SEP_CMP_CH_VTT, .pf0, 0x200098, [(8, 0x100000), (8, 0x10000), (16, 0x1000)], 0⟩,
    ⟨.SEP_CMP_CH_LIVE, .pf0, 0x2000A0, [(8, 0x100000), (8, 0x10000), (16, 0x1000)], 0⟩,
    ⟨.SEP_CMP_CH_FAILS, .pf0, 0x2000A8, [(8, 0x100000), (8, 0x10000), (16, 0x1000)], 0⟩,
    ⟨.SEP_CMP_CH_STAT, .pf0, 0x2000B0, [(8, 0x100000), (8, 0x10000), (16, 0x1000)], 0⟩,
    ⟨.SEP_CMP_FAULT_STAT, .pf0, 0x290080, [(8, 0x100000)], 0⟩,
    ⟨.SEP_CMP_FAULT_MASK, .pf0, 0x290084, [(8, 0x100000)], 0⟩,
    ⟨.SEP_CMP_SLICE_FAILVEC, .pf0, 0x290100, [(8, 0x100000), (32, 0x10)], 0⟩,
    ⟨.SEP_CMP_SLICE_FAILS, .pf0, 0x290108, [(8, 0x100000), (32, 0x10)], 0⟩,
    ⟨.SEP_CAP_TFAULT_STAT, .pf0, 0x298080, [(8, 0x100000)], 0⟩,
    ⟨.SEP_CAP_TFAULT_MASK, .pf0, 0x298084, [(8, 0x100000)], 0⟩,
    ⟨.SEP_CAP_STAGE, .pf0, 0x298100, [(8, 0x100000), (32, 0x8)], 0⟩,
    ⟨.SEP_CAP_FAULT_STAT, .pf0, 0x190080, [], 0⟩,
    ⟨.SEP_CAP_FAULT_MASK, .pf0, 0x190084, [], 0⟩,
    ⟨.SEP_CAP_POLICY, .pf0, 0x180000, [(256, 0x100)], 0⟩,
    ⟨.SEP_CAP_LIMIT, .pf0, 0x180008, [(256, 0x100)], 0⟩,
    ⟨.SEP_CAP_LOGMAX, .pf0, 0x18000C, [(256, 0x100)], 0⟩,
    ⟨.SEP_CAP_FAILS, .pf0, 0x180010, [(256, 0x100)], 0⟩,
    ⟨.SEP_CAP_FF_DT, .pf0, 0x180018, [(256, 0x100)], 0⟩,
    ⟨.SEP_CAP_FF_REC, .pf0, 0x180020, [(256, 0x100), (4, 0x8)], 0⟩,
    ⟨.SEP_CAP_STAT, .pf0, 0x180040, [(256, 0x100)], 0⟩,
    ⟨.SEP_CAP_STOP_DT, .pf0, 0x180048, [(256, 0x100)], 0⟩,
    ⟨.SEP_CAP_RING_BASE, .pf0, 0x180050, [(256, 0x100)], 0⟩,
    ⟨.SEP_CAP_RING_CFG, .pf0, 0x180058, [(256, 0x100)], 0⟩,
    ⟨.SEP_CAP_RING_WR, .pf0, 0x180060, [(256, 0x100)], 0⟩,
    ⟨.SEP_CAP_RING_RD, .pf0, 0x180064, [(256, 0x100)], 0⟩,
    ⟨.SEP_CAP_LOST, .pf0, 0x180068, [(256, 0x100)], 0⟩,
    ⟨.SEP_CAP_LOGGED, .pf0, 0x180070, [(256, 0x100)], 0⟩,
    ⟨.MDR_STEP_STAT, .pf0, 0x100100, [(256, 0x400)], 0⟩,
    ⟨.MDR_STEP_PC, .pf0, 0x100108, [(256, 0x400)], 0⟩,
    ⟨.MDR_STEP_FAULT, .pf0, 0x100110, [(256, 0x400)], 0⟩,
    ⟨.MDR_STEP_BIN, .pf0, 0x100118, [(256, 0x400)], 0⟩,
    ⟨.MDR_STEP_EVDT, .pf0, 0x100120, [(256, 0x400)], 0⟩,
    ⟨.MDR_STEP_TRAP, .pf0, 0x100128, [(256, 0x400)], 0⟩,
    ⟨.MDR_STEP_SVC_TMO, .pf0, 0x100130, [(256, 0x400)], 0⟩ ]

/-- Part of the address map (R338, R339 and the register headings of spec/). -/
def mapRows2 : List MapRow :=
  [ ⟨.MDR_STEP_SVC_RES, .pf0, 0x100138, [(256, 0x400)], 0⟩,
    ⟨.MDR_STEP_ARG, .pf0, 0x100140, [(256, 0x400), (4, 0x8)], 0⟩,
    ⟨.MDR_STEP_EVSTAT, .pf0, 0x100160, [(256, 0x400)], 0⟩,
    ⟨.MDR_STEP_TRIM, .pf0, 0x100168, [(256, 0x400)], 0⟩,
    ⟨.MDR_STEP_G, .pf0, 0x100180, [(256, 0x400), (16, 0x8)], 0⟩,
    ⟨.MDR_STEP_WMASK, .pf0, 0x100200, [(256, 0x400), (8, 0x20), (8, 0x4)], 0⟩,
    ⟨.MDR_STEP_EVL, .pf0, 0x100300, [(256, 0x400), (8, 0x4)], 0⟩,
    ⟨.MDR_STEP_STACK, .pf0, 0x100320, [(256, 0x400), (16, 0x4)], 0⟩,
    ⟨.MDR_STEP_PATCH, .pf0, 0xF8000, [], 0⟩,
    ⟨.MDR_STEP_PDIR, .pf0, 0xF8008, [], 0⟩,
    ⟨.MDR_STEP_FAULT_STAT, .pf0, 0xF8080, [], 0⟩,
    ⟨.MDR_STEP_FAULT_MASK, .pf0, 0xF8084, [], 0⟩,
    ⟨.MDR_STEP_SYNC_MEM, .pf0, 0xF8100, [(64, 0x40), (8, 0x4)], 0⟩,
    ⟨.MDR_STEP_SYNC_STAT, .pf0, 0xF8120, [(64, 0x40)], 0⟩,
    ⟨.MDR_STEP_SYNC_DT, .pf0, 0xF8128, [(64, 0x40)], 0⟩,
    ⟨.SEP_ACQ_CH_CFG, .pf0, 0x200100, [(8, 0x100000), (8, 0x10000), (16, 0x1000)], 0⟩,
    ⟨.SEP_ACQ_CH_AUTO, .pf0, 0x200108, [(8, 0x100000), (8, 0x10000), (16, 0x1000)], 0⟩,
    ⟨.SEP_ACQ_CH_ARMEV, .pf0, 0x200110, [(8, 0x100000), (8, 0x10000), (16, 0x1000)], 0⟩,
    ⟨.SEP_ACQ_CH_PARAM0, .pf0, 0x200118, [(8, 0x100000), (8, 0x10000), (16, 0x1000)], 0⟩,
    ⟨.SEP_ACQ_CH_PARAM1, .pf0, 0x200120, [(8, 0x100000), (8, 0x10000), (16, 0x1000)], 0⟩,
    ⟨.SEP_ACQ_CH_CMD, .pf0, 0x200128, [(8, 0x100000), (8, 0x10000), (16, 0x1000)], 0⟩,
    ⟨.SEP_ACQ_CH_STAT, .pf0, 0x200130, [(8, 0x100000), (8, 0x10000), (16, 0x1000)], 0⟩,
    ⟨.SEP_ACQ_CH_TRIGS, .pf0, 0x200138, [(8, 0x100000), (8, 0x10000), (16, 0x1000)], 0⟩,
    ⟨.SEP_ACQ_CH_ARM_DT, .pf0, 0x200140, [(8, 0x100000), (8, 0x10000), (16, 0x1000)], 0⟩,
    ⟨.SEP_ACQ_CH_SEQ, .pf0, 0x200180, [(8, 0x100000), (8, 0x10000), (16, 0x1000), (8, 0x8)], 0⟩,
    ⟨.SEP_ACQ_CH_TIMER, .pf0, 0x2001C0, [(8, 0x100000), (8, 0x10000), (16, 0x1000), (8, 0x8)], 0⟩,
    ⟨.SEP_ACQ_POOL, .pf0, 0x2A0000, [(8, 0x100000)], 0⟩,
    ⟨.SEP_ACQ_TFAULT_STAT, .pf0, 0x2A0080, [(8, 0x100000)], 0⟩,
    ⟨.SEP_ACQ_TFAULT_MASK, .pf0, 0x2A0084, [(8, 0x100000)], 0⟩,
    ⟨.SEP_ACQ_RING_BASE, .pf0, 0x1A0000, [(256, 0x40)], 0⟩,
    ⟨.SEP_ACQ_RING_CFG, .pf0, 0x1A0008, [(256, 0x40)], 0⟩,
    ⟨.SEP_ACQ_RING_WR, .pf0, 0x1A0010, [(256, 0x40)], 0⟩,
    ⟨.SEP_ACQ_RING_RD, .pf0, 0x1A0014, [(256, 0x40)], 0⟩,
    ⟨.SEP_ACQ_LOST, .pf0, 0x1A0018, [(256, 0x40)], 0⟩,
    ⟨.SEP_ACQ_LOGGED, .pf0, 0x1A0020, [(256, 0x40)], 0⟩,
    ⟨.SEP_ACQ_FAULT_STAT, .pf0, 0x1A4080, [], 0⟩,
    ⟨.SEP_ACQ_FAULT_MASK, .pf0, 0x1A4084, [], 0⟩,
    ⟨.TIA_CH_CFG, .pf0, 0x200200, [(8, 0x100000), (8, 0x10000), (16, 0x1000)], 0⟩,
    ⟨.TIA_CH_N, .pf0, 0x200208, [(8, 0x100000), (8, 0x10000), (16, 0x1000)], 0⟩,
    ⟨.TIA_CH_WMIN, .pf0, 0x200210, [(8, 0x100000), (8, 0x10000), (16, 0x1000)], 0⟩,
    ⟨.TIA_CH_WMAX, .pf0, 0x200218, [(8, 0x100000), (8, 0x10000), (16, 0x1000)], 0⟩,
    ⟨.TIA_CH_GATE, .pf0, 0x200220, [(8, 0x100000), (8, 0x10000), (16, 0x1000)], 0⟩,
    ⟨.TIA_CH_PARTNER, .pf0, 0x200228, [(8, 0x100000), (8, 0x10000), (16, 0x1000)], 0⟩,
    ⟨.TIA_CH_CMD, .pf0, 0x200230, [(8, 0x100000), (8, 0x10000), (16, 0x1000)], 0⟩,
    ⟨.TIA_CH_STAT, .pf0, 0x200238, [(8, 0x100000), (8, 0x10000), (16, 0x1000)], 0⟩,
    ⟨.TIA_CH_COUNT, .pf0, 0x200240, [(8, 0x100000), (8, 0x10000), (16, 0x1000)], 0⟩,
    ⟨.TIA_CH_SUM, .pf0, 0x200248, [(8, 0x100000), (8, 0x10000), (16, 0x1000)], 0⟩,
    ⟨.TIA_CH_MIN, .pf0, 0x200260, [(8, 0x100000), (8, 0x10000), (16, 0x1000)], 0⟩,
    ⟨.TIA_CH_MAX, .pf0, 0x200268, [(8, 0x100000), (8, 0x10000), (16, 0x1000)], 0⟩,
    ⟨.TIA_CH_MEAN, .pf0, 0x200250, [(8, 0x100000), (8, 0x10000), (16, 0x1000)], 0⟩,
    ⟨.TIA_CH_SD, .pf0, 0x200258, [(8, 0x100000), (8, 0x10000), (16, 0x1000)], 0⟩,
    ⟨.TIA_CH_M2, .pf0, 0x200270, [(8, 0x100000), (8, 0x10000), (16, 0x1000)], 0⟩,
    ⟨.TIA_CH_AUX, .pf0, 0x200278, [(8, 0x100000), (8, 0x10000), (16, 0x1000)], 0⟩,
    ⟨.TIA_CH_START_DT, .pf0, 0x200280, [(8, 0x100000), (8, 0x10000), (16, 0x1000)], 0⟩,
    ⟨.TIA_CH_DONE_DT, .pf0, 0x200288, [(8, 0x100000), (8, 0x10000), (16, 0x1000)], 0⟩,
    ⟨.TIA_FAULT_STAT, .pf0, 0x2A8080, [(8, 0x100000)], 0⟩,
    ⟨.TIA_FAULT_MASK, .pf0, 0x2A8084, [(8, 0x100000)], 0⟩,
    ⟨.UMB_DT, .pf0, 0x30000, [], 0⟩,
    ⟨.UMB_ERA, .pf0, 0x30008, [], 0⟩,
    ⟨.UMB_ERA_LATCH, .pf0, 0x3000C, [], 0⟩ ]

/-- Part of the address map (R338, R339 and the register headings of spec/). -/
def mapRows3 : List MapRow :=
  [ ⟨.UMB_CFG, .pf0, 0x30010, [], 0⟩,
    ⟨.UMB_STAT, .pf0, 0x30018, [], 0⟩,
    ⟨.UMB_RATE, .pf0, 0x30020, [], 0⟩,
    ⟨.UMB_PHASE_ERR, .pf0, 0x30028, [], 0⟩,
    ⟨.UMB_XTAL_TEMP, .pf0, 0x30030, [], 0⟩,
    ⟨.UMB_AGE, .pf0, 0x30034, [], 0⟩,
    ⟨.UMB_TOD_OFFSET, .pf0, 0x30040, [], 0⟩,
    ⟨.UMB_PPS_DT, .pf0, 0x30058, [], 0⟩,
    ⟨.UMB_FAULT_STAT, .pf0, 0x30080, [], 0⟩,
    ⟨.UMB_FAULT_MASK, .pf0, 0x30084, [], 0⟩,
    ⟨.MRD_CH_QF, .pf0, 0x200300, [(8, 0x100000), (8, 0x10000), (16, 0x1000)], 0⟩,
    ⟨.MRD_CH_AGE, .pf0, 0x200308, [(8, 0x100000), (8, 0x10000), (16, 0x1000)], 0⟩,
    ⟨.MRD_CH_TRIM_DT, .pf0, 0x200310, [(8, 0x100000), (8, 0x10000), (16, 0x1000)], 0⟩,
    ⟨.MRD_CH_PASS, .pf0, 0x200318, [(8, 0x100000), (8, 0x10000), (16, 0x1000)], 0⟩,
    ⟨.MRD_CH_REFL, .pf0, 0x200320, [(8, 0x100000), (8, 0x10000), (16, 0x1000)], 0⟩,
    ⟨.MRD_TILE_STAT, .pf0, 0x2B0000, [(8, 0x100000)], 0⟩,
    ⟨.MRD_TSKEW, .pf0, 0x2B0008, [(8, 0x100000)], 0⟩,
    ⟨.MRD_FAULT_STAT, .pf0, 0x2B0080, [(8, 0x100000)], 0⟩,
    ⟨.MRD_FAULT_MASK, .pf0, 0x2B0084, [(8, 0x100000)], 0⟩,
    ⟨.MRD_REFL_CMD, .pf0, 0x1B0000, [(256, 0x40)], 0⟩,
    ⟨.MRD_REFL_CFG, .pf0, 0x1B0008, [(256, 0x40)], 0⟩,
    ⟨.MRD_REFL_STAT, .pf0, 0x1B0010, [(256, 0x40)], 0⟩,
    ⟨.MRD_REFL_DT, .pf0, 0x1B0018, [(256, 0x40)], 0⟩,
    ⟨.MRD_SITE_QF, .pf0, 0x1B0020, [(256, 0x40)], 0⟩,
    ⟨.TLK_STAT, .pf0, 0x2B8000, [(8, 0x100000)], 0⟩,
    ⟨.TLK_ERR, .pf0, 0x2B8008, [(8, 0x100000)], 0⟩,
    ⟨.TLK_FAULT_STAT, .pf0, 0x2B8080, [(8, 0x100000)], 0⟩,
    ⟨.TLK_FAULT_MASK, .pf0, 0x2B8084, [(8, 0x100000)], 0⟩,
    ⟨.TLK_CORE_STAT, .pf0, 0xE8000, [(8, 0x100)], 0⟩,
    ⟨.TLK_CORE_UPDT, .pf0, 0xE8008, [(8, 0x100)], 0⟩,
    ⟨.LNK_TIME_STAT, .pf0, 0xE0000, [], 0⟩,
    ⟨.LNK_TIME_OFFS, .pf0, 0xE0008, [], 0⟩,
    ⟨.LNK_TIME_ADOPT, .pf0, 0xE0010, [], 0⟩,
    ⟨.LNK_TIME_CFG, .pf0, 0xE0018, [], 0⟩,
    ⟨.LNK_FAULT_STAT, .pf0, 0xE0080, [], 0⟩,
    ⟨.LNK_FAULT_MASK, .pf0, 0xE0084, [], 0⟩,
    ⟨.LNK_PORT_STAT, .pf0, 0xE1000, [(8, 0x100)], 0⟩,
    ⟨.LNK_PORT_CMD, .pf0, 0xE1008, [(8, 0x100)], 0⟩,
    ⟨.LNK_PORT_DELAY, .pf0, 0xE1010, [(8, 0x100)], 0⟩,
    ⟨.LNK_PORT_BCLAT, .pf0, 0xE1018, [(8, 0x100)], 0⟩,
    ⟨.LNK_PORT_ERR, .pf0, 0xE1020, [(8, 0x100)], 0⟩,
    ⟨.LNK_PORT_DROP, .pf0, 0xE1028, [(8, 0x100)], 0⟩,
    ⟨.LNK_PORT_TRAIN, .pf0, 0xE1030, [(8, 0x100)], 0⟩,
    ⟨.BUS_CFG, .pf0, 0x140000, [(64, 0x1000)], 0⟩,
    ⟨.BUS_CTRL, .pf0, 0x140008, [(64, 0x1000)], 0⟩,
    ⟨.BUS_STAT, .pf0, 0x140010, [(64, 0x1000)], 0⟩,
    ⟨.BUS_TX_POST, .pf0, 0x140018, [(64, 0x1000)], 0⟩,
    ⟨.BUS_TX_RES, .pf0, 0x140020, [(64, 0x1000)], 0⟩,
    ⟨.BUS_GATE, .pf0, 0x140028, [(64, 0x1000)], 0⟩,
    ⟨.BUS_EV_CFG, .pf0, 0x140030, [(64, 0x1000)], 0⟩,
    ⟨.BUS_CAN_ERR, .pf0, 0x1400C0, [(64, 0x1000)], 0⟩,
    ⟨.BUS_FAULT_STAT, .pf0, 0x140080, [(64, 0x1000)], 0⟩,
    ⟨.BUS_FAULT_MASK, .pf0, 0x140084, [(64, 0x1000)], 0⟩,
    ⟨.BUS_CNT, .pf0, 0x140100, [(64, 0x1000), (8, 0x8)], 0⟩,
    ⟨.BUS_RX_BASE, .pf0, 0x140140, [(64, 0x1000)], 0⟩,
    ⟨.BUS_SR_BASE, .pf0, 0x140180, [(64, 0x1000)], 0⟩,
    ⟨.BUS_RX_CFG, .pf0, 0x140148, [(64, 0x1000)], 0⟩,
    ⟨.BUS_SR_CFG, .pf0, 0x140188, [(64, 0x1000)], 0⟩,
    ⟨.BUS_RX_WR, .pf0, 0x140150, [(64, 0x1000)], 0⟩,
    ⟨.BUS_RX_RD, .pf0, 0x140154, [(64, 0x1000)], 0⟩ ]

/-- Part of the address map (R338, R339 and the register headings of spec/). -/
def mapRows4 : List MapRow :=
  [ ⟨.BUS_SR_WR, .pf0, 0x140190, [(64, 0x1000)], 0⟩,
    ⟨.BUS_SR_RD, .pf0, 0x140194, [(64, 0x1000)], 0⟩,
    ⟨.BUS_RX_LOST, .pf0, 0x140158, [(64, 0x1000)], 0⟩,
    ⟨.BUS_SR_LOST, .pf0, 0x140198, [(64, 0x1000)], 0⟩,
    ⟨.BUS_FILT_VAL, .pf0, 0x140200, [(64, 0x1000), (32, 0x10)], 0⟩,
    ⟨.BUS_FILT_MSK, .pf0, 0x140208, [(64, 0x1000), (32, 0x10)], 0⟩,
    ⟨.BUS_LIN_RESP, .pf0, 0x140400, [(64, 0x1000), (64, 0x8)], 0⟩,
    ⟨.BUS_LIN_DATA, .pf0, 0x140600, [(64, 0x1000), (64, 0x8)], 0⟩,
    ⟨.BUS_MDIO_CMD, .pf0, 0x140F00, [(64, 0x1000)], 0⟩,
    ⟨.BUS_MDIO_RES, .pf0, 0x140F08, [(64, 0x1000)], 0⟩,
    ⟨.SAF_CFG, .pf0, 0xB0000, [], 0⟩,
    ⟨.SAF_STAT, .pf0, 0xB0008, [], 0⟩,
    ⟨.SAF_FAULT_STAT, .pf0, 0xB0080, [], 0⟩,
    ⟨.SAF_FAULT_MASK, .pf0, 0xB0084, [], 0⟩,
    ⟨.SAF_GET, .pf0, 0xB0100, [(16, 0x8)], 0⟩,
    ⟨.SAF_CORE, .pf0, 0xB0200, [(16, 0x8)], 0⟩,
    ⟨.SAF_LEVEL, .pf0, 0xB0300, [(16, 0x8)], 0⟩,
    ⟨.SAF_FLOW_SEL, .pf0, 0xB0400, [], 0⟩,
    ⟨.SAF_FLOW_STAT, .pf0, 0xB0408, [], 0⟩,
    ⟨.SAF_DELAY, .pf0, 0xB0410, [], 0⟩,
    ⟨.SVC_FW, .pf0, 0xC0000, [], 0⟩,
    ⟨.SVC_FAULT_STAT, .pf0, 0xC0080, [], 0⟩,
    ⟨.SVC_FAULT_MASK, .pf0, 0xC0084, [], 0⟩,
    ⟨.SVC_CORE_STAT, .pf0, 0xC0100, [(16, 0x8)], 0⟩,
    ⟨.SVC_PLAN_CMD, .pf0, 0xC1000, [(256, 0x40)], 0⟩,
    ⟨.SVC_PLAN_SERIAL, .pf0, 0xC1008, [(256, 0x40)], 0⟩,
    ⟨.SVC_PLAN_STAT, .pf0, 0xC1010, [(256, 0x40)], 0⟩,
    ⟨.SVC_DUTS, .pf0, 0xC1018, [(256, 0x40)], 0⟩,
    ⟨.SVC_LAST, .pf0, 0xC1020, [(256, 0x40)], 0⟩,
    ⟨.SVC_DLOST, .pf0, 0xC1028, [(256, 0x40)], 0⟩,
    ⟨.EVF_STAT, .pf0, 0x60000, [], 0⟩,
    ⟨.EVF_SWFIRE, .pf0, 0x60008, [], 0⟩,
    ⟨.EVF_FAULT_STAT, .pf0, 0x60080, [], 0⟩,
    ⟨.EVF_FAULT_MASK, .pf0, 0x60084, [], 0⟩,
    ⟨.EVF_LOOPSTAT, .pf0, 0x60100, [(8, 0x4)], 0⟩,
    ⟨.EVF_TRIGOUT_SRC, .pf0, 0x60140, [(4, 0x4)], 0⟩,
    ⟨.EVF_BCAST, .pf0, 0x60180, [(8, 0x4)], 0⟩,
    ⟨.EVF_COINC, .pf0, 0x60200, [(10, 0x20), (8, 0x4)], 0⟩,
    ⟨.EVF_CHEVSEL, .pf0, 0x60400, [(256, 0x4)], 0⟩,
    ⟨.EVF_TIMER_CFG, .pf0, 0x60800, [(32, 0x20)], 0⟩,
    ⟨.EVF_TIMER_T0, .pf0, 0x60808, [(32, 0x20)], 0⟩,
    ⟨.EVF_TIMER_PERIOD, .pf0, 0x60810, [(32, 0x20)], 0⟩,
    ⟨.EVF_TIMER_STAT, .pf0, 0x60818, [(32, 0x20)], 0⟩,
    ⟨.EVF_CH_CFG, .pf0, 0x61000, [(256, 0x10)], 0⟩,
    ⟨.EVF_CH_LAST, .pf0, 0x62000, [(256, 0x8)], 0⟩,
    ⟨.EVF_CH_CNT, .pf0, 0x62800, [(256, 0x8)], 0⟩,
    ⟨.EVF_MATRIX, .pf0, 0x64000, [(256, 0xC0), (48, 0x4)], 0⟩,
    ⟨.IRC_FAULT_STAT, .pf0, 0x50080, [], 0⟩,
    ⟨.IRC_FAULT_MASK, .pf0, 0x50084, [], 0⟩,
    ⟨.IRC_HOLDOFF, .pf0, 0x50100, [(64, 0x4)], 0⟩,
    ⟨.IRC_MASK, .pf0, 0x50200, [(128, 0x4)], 0⟩,
    ⟨.IRC_PEND, .pf0, 0x50400, [(128, 0x4)], 0⟩,
    ⟨.IRC_CLAIMED, .pf0, 0x50600, [(128, 0x4)], 0⟩,
    ⟨.IRC_LINE, .pf0, 0x50800, [(128, 0x4)], 0⟩,
    ⟨.IRC_OVR, .pf0, 0x50A00, [(128, 0x4)], 0⟩,
    ⟨.IRC_CLAIM, .pf0, 0x51000, [(48, 0x10)], 0⟩,
    ⟨.IRC_COMPLETE, .pf0, 0x51004, [(48, 0x10)], 0⟩,
    ⟨.IRC_SRC, .pf0, 0x54000, [(4096, 0x4)], 0⟩,
    ⟨.LAK_FAULT_STAT, .pf0, 0xA0080, [], 0⟩,
    ⟨.LAK_FAULT_MASK, .pf0, 0xA0084, [], 0⟩ ]

/-- Part of the address map (R338, R339 and the register headings of spec/). -/
def mapRows5 : List MapRow :=
  [ ⟨.LAK_OWNER, .pf0, 0xA0100, [(64, 0x4)], 0⟩,
    ⟨.LAK_STATE, .pf0, 0xA0200, [(64, 0x4)], 0⟩,
    ⟨.LAK_BANK_STAT, .pf0, 0xA0400, [(64, 0x8)], 0⟩,
    ⟨.DMC_CFG, .pf0, 0x90000, [], 0⟩,
    ⟨.DMC_OP_STAT, .pf0, 0x90008, [], 0⟩,
    ⟨.DMC_OP_CMD, .pf0, 0x90010, [], 0⟩,
    ⟨.DMC_FAULT_STAT, .pf0, 0x90080, [], 0⟩,
    ⟨.DMC_FAULT_MASK, .pf0, 0x90084, [], 0⟩,
    ⟨.DMC_REGION, .pf0, 0x90100, [(16, 0x10)], 0⟩,
    ⟨.DMC_SC, .pf0, 0x90200, [(4, 0x8)], 0⟩,
    ⟨.DMC_CH_STAT, .pf0, 0x90300, [(8, 0x8)], 0⟩,
    ⟨.PCI_ID, .pf0, 0x1C0000, [], 0⟩,
    ⟨.PCI_LINK, .pf0, 0x1C0008, [], 0⟩,
    ⟨.PCI_FAULT_STAT, .pf0, 0x1C0080, [], 0⟩,
    ⟨.PCI_FAULT_MASK, .pf0, 0x1C0084, [], 0⟩,
    ⟨.PCI_RWIN, .pf1, 0x10, [], 0⟩,
    ⟨.PCI_DWIN, .pf1, 0x18, [], 0⟩,
    ⟨.PCI_KEY_SEL, .pf1, 0x40000, [], 0⟩,
    ⟨.PCI_KEY_DATA, .pf1, 0x40010, [(8, 0x4)], 0⟩,
    ⟨.PCI_KEY_CMD, .pf1, 0x40040, [], 0⟩,
    ⟨.PCI_KEY_RES, .pf1, 0x40044, [], 0⟩,
    ⟨.PCI_KEY_MAP, .pf1, 0x41000, [(256, 0x4)], 0⟩,
    ⟨.PCI_DEVCMD, .pf1, 0x70000, [], 0⟩,
    ⟨.HRG_FAULT_STAT, .pf0, 0xD0080, [], 0⟩,
    ⟨.HRG_FAULT_MASK, .pf0, 0xD0084, [], 0⟩,
    ⟨.HRG_RES_BASE, .pf0, 0xD1000, [(256, 0x20)], 0⟩,
    ⟨.HRG_RES_CFG, .pf0, 0xD1008, [(256, 0x20)], 0⟩,
    ⟨.HRG_RES_WR, .pf0, 0xD100C, [(256, 0x20)], 0⟩,
    ⟨.HRG_RES_RD, .pf0, 0xD1010, [(256, 0x20)], 0⟩,
    ⟨.HRG_CMD_BASE, .pf0, 0xD4000, [(256, 0x20)], 0⟩,
    ⟨.HRG_CMD_CFG, .pf0, 0xD4008, [(256, 0x20)], 0⟩,
    ⟨.HRG_CMD_TAIL, .pf0, 0xD400C, [(256, 0x20)], 0⟩,
    ⟨.HRG_CMD_HEAD, .pf0, 0xD4010, [(256, 0x20)], 0⟩,
    ⟨.HRG_CMD_DONE, .pf0, 0xD4014, [(256, 0x20)], 0⟩,
    ⟨.HRG_CMD_SEEN, .pf0, 0xD4018, [(256, 0x20)], 0⟩,
    ⟨.MBX_FAULT_STAT, .pf0, 0x80080, [], 0⟩,
    ⟨.MBX_FAULT_MASK, .pf0, 0x80084, [], 0⟩,
    ⟨.MBX_DATA, .pf0, 0x82000, [(48, 0x100), (16, 0x4)], 256⟩,
    ⟨.MBX_DOORBELL, .pf0, 0x82040, [(48, 0x100)], 16⟩,
    ⟨.MBX_CODE, .pf0, 0x82044, [(48, 0x100)], 16⟩,
    ⟨.MBX_TAKE, .pf0, 0x82048, [(48, 0x100)], 16⟩,
    ⟨.MBX_STAT, .pf0, 0x82050, [(48, 0x100)], 16⟩,
    ⟨.MBX_LOCK, .pf0, 0x82058, [(48, 0x100)], 16⟩,
    ⟨.MBX_POST_DT, .pf0, 0x82060, [(48, 0x100)], 16⟩,
    ⟨.MBX_TAKE_DT, .pf0, 0x82068, [(48, 0x100)], 16⟩,
    ⟨.CIN_STAT, .pf0, 0x40000, [], 0⟩,
    ⟨.CIN_CAUSE, .pf0, 0x40008, [], 0⟩,
    ⟨.CIN_CAUSE_SEEN, .pf0, 0x4000C, [], 0⟩,
    ⟨.CIN_ENTRY_DT, .pf0, 0x40010, [], 0⟩,
    ⟨.CIN_EXIT_DT, .pf0, 0x40018, [], 0⟩,
    ⟨.CIN_ENTRIES, .pf0, 0x40020, [], 0⟩,
    ⟨.CIN_SAT, .pf0, 0x40028, [], 0⟩,
    ⟨.CIN_FAULT_STAT, .pf0, 0x40080, [], 0⟩,
    ⟨.CIN_FAULT_MASK, .pf0, 0x40084, [], 0⟩,
    ⟨.CIN_FORCE, .pf1, 0x60000, [], 0⟩,
    ⟨.CIN_EXIT, .pf1, 0x60008, [], 0⟩,
    ⟨.CIN_TILE_RESET, .pf1, 0x60010, [], 0⟩,
    ⟨.CIN_CORE_RESET, .pf1, 0x60018, [], 0⟩,
    ⟨.HRG_MGT_BASE, .pf0, 0xD7000, [(16, 0x20)], 0⟩,
    ⟨.HRG_MGT_CFG, .pf0, 0xD7008, [(16, 0x20)], 0⟩ ]

/-- Part of the address map (R338, R339 and the register headings of spec/). -/
def mapRows6 : List MapRow :=
  [ ⟨.HRG_MGT_TAIL, .pf0, 0xD700C, [(16, 0x20)], 0⟩,
    ⟨.HRG_MGT_HEAD, .pf0, 0xD7010, [(16, 0x20)], 0⟩,
    ⟨.HRG_MGT_DONE, .pf0, 0xD7014, [(16, 0x20)], 0⟩,
    ⟨.HRG_MGT_SEEN, .pf0, 0xD7018, [(16, 0x20)], 0⟩,
    ⟨.PCI_MSIX0_ADDR, .pf0, 0x1C1000, [(32, 0x10)], 0⟩,
    ⟨.PCI_MSIX0_DATA, .pf0, 0x1C1008, [(32, 0x10)], 0⟩,
    ⟨.PCI_MSIX0_CTRL, .pf0, 0x1C100C, [(32, 0x10)], 0⟩,
    ⟨.PCI_MSIX0_PBA, .pf0, 0x1C2000, [], 0⟩,
    ⟨.PCI_MSIX1_ADDR, .pf1, 0x1000, [(8, 0x10)], 0⟩,
    ⟨.PCI_MSIX1_DATA, .pf1, 0x1008, [(8, 0x10)], 0⟩,
    ⟨.PCI_MSIX1_CTRL, .pf1, 0x100C, [(8, 0x10)], 0⟩,
    ⟨.PCI_MSIX1_PBA, .pf1, 0x2000, [], 0⟩,
    ⟨.MBX_DATA, .pf1, 0x11000, [(16, 0x100), (16, 0x4)], 0⟩,
    ⟨.MBX_DOORBELL, .pf1, 0x11040, [(16, 0x100)], 0⟩,
    ⟨.MBX_CODE, .pf1, 0x11044, [(16, 0x100)], 0⟩,
    ⟨.MBX_TAKE, .pf1, 0x11048, [(16, 0x100)], 0⟩,
    ⟨.MBX_STAT, .pf1, 0x11050, [(16, 0x100)], 0⟩,
    ⟨.MBX_LOCK, .pf1, 0x11058, [(16, 0x100)], 0⟩,
    ⟨.MBX_POST_DT, .pf1, 0x11060, [(16, 0x100)], 0⟩,
    ⟨.MBX_TAKE_DT, .pf1, 0x11068, [(16, 0x100)], 0⟩,
    ⟨.LAK_OWNER, .pf1, 0x50000, [(64, 0x4)], 0⟩,
    ⟨.IRC_CLAIM, .pf1, 0x30000, [(8, 0x10)], 48⟩,
    ⟨.IRC_COMPLETE, .pf1, 0x30004, [(8, 0x10)], 48⟩ ]

/-- The address map of both functions (R338, R339). -/
def mapRows : List MapRow := mapRows0 ++ mapRows1 ++ mapRows2 ++ mapRows3 ++ mapRows4 ++ mapRows5 ++ mapRows6

end Sys2Proof.Machine
end

