-- ==== Sys2Proof/Machine/Tab.lean ====
section
/-! DEFINITION. Sparse tables: a list of (key, value) pairs with keys rising, in which a key that is not listed has
the default value and no entry holds the default. Registers, memories and per-unit tables are held in this one form. -/

namespace Sys2Proof.Machine

/-- A sparse table. -/
abbrev Tab (α : Type) := List (Nat × α)

/-- The value at a key; d where the key is not listed. -/
def Tab.get {α : Type} (d : α) : Tab α → Nat → α
  | [], _ => d
  | (k, v) :: r, n => if n = k then v else Tab.get d r n

/-- An entry put in its place by key. -/
def Tab.insert {α : Type} (n : Nat) (x : α) : Tab α → Tab α
  | [] => [(n, x)]
  | (k, v) :: r => if n < k then (n, x) :: (k, v) :: r else (k, v) :: Tab.insert n x r

/-- The table without a key. -/
def Tab.erase {α : Type} (t : Tab α) (n : Nat) : Tab α := t.filter (fun e => e.1 != n)

/-- The table with a value at a key; writing the default removes the entry. -/
def Tab.set {α : Type} [DecidableEq α] (d : α) (t : Tab α) (n : Nat) (x : α) : Tab α :=
  if x = d then Tab.erase t n else Tab.insert n x (Tab.erase t n)

/-- The table with a function applied at a key. -/
def Tab.update {α : Type} [DecidableEq α] (d : α) (t : Tab α) (n : Nat) (f : α → α) : Tab α :=
  Tab.set d t n (f (Tab.get d t n))

/-- The canonical form: keys strictly rising, no entry at the default. -/
def Tab.wf {α : Type} [DecidableEq α] (d : α) : Tab α → Bool
  | [] => true
  | [(_, v)] => v != d
  | (k, v) :: (k', v') :: r => v != d && decide (k < k') && Tab.wf d ((k', v') :: r)

end Sys2Proof.Machine
end

