-- ==== Sys2Proof/Machine/Units.lean ====
section
/-! DEFINITION. The state of the part's units that no register shows: power controller, loader, sites, slices,
channels, step contexts, event fabric, interrupt controller and safe state. Plain data throughout. -/

namespace Sys2Proof.Machine

/-- The balls whose level the model holds (R31). `resetFall` is the DT of RESET_n's fall while it is low, `resetDone` tells that
the low has started a device reset, `ppsRise` is the latest rise of PPS_OUT, which stays high for 100 µs. -/
structure Pins where
  resetN : Bool := true
  resetFall : Nat := 0
  resetRise : Nat := 0
  resetDone : Bool := false
  testen : Bool := false
  safeInHigh : Bool := true
  safeInRise : Option Nat := none
  perstN : Bool := true
  safeOutLow : Bool := false
  trigOut : Nat := 0
  trigUntil : Tab (Option Nat) := []
  ppsRise : Option Nat := none
  deriving DecidableEq, Repr

/-- What the block has handed to the world outside: messages, tokens, frames, records of the log (oldest first). The op of a flash output
is 0 for a read with its command bytes, 1 for a pulse of NVM_RESET_n, 2 for an erase, 3 for a program, 4 for a write-enable and 5 for the
mode-entry bytes (R47, R48, R349). A bus frame carries ESI of its engine (R267). -/
inductive Output
  | msix (f : Func) (vector : Nat)
  | token (dev kind site : Nat) (release : Nat) (args : List Nat)
  | lnkBlock (port kind : Nat) (args : List Nat)
  | tlkBlock (tile kind : Nat) (args : List Nat)
  | replay (port tile : Option Nat) (seq : Nat)
  | busFrame (engine : Nat) (id : Nat) (esi : Bool) (payload : List Byte)
  | linWake (engine : Nat)
  | uds (site conn : Nat) (message : List Byte)
  | mdio (phy reg : Nat) (write : Bool) (data : Nat)
  | flash (op : Nat) (addr : Nat) (bytes : List Byte)
  | tskewPulse (tile : Nat)
  | wakeN
  deriving DecidableEq, Repr

/-- A job of the start ladder: an admission or a move to RETENTION (R39). -/
inductive LadderJob
  | powerUp (g : Nat)
  | retire (g : Nat)
  deriving DecidableEq, Repr

/-- A request for the ladder: its arrival, the least station site number of its sites, its groups, the sites whose
start waits for it, and whether it asks for moves to RETENTION instead of admissions (R39). -/
structure LadderReq where
  arrived : Nat
  key : Nat
  groups : List Nat
  sites : List Nat
  retire : Bool
  deriving DecidableEq, Repr

/-- The power controller (R35–R45). `coldIdx` counts the unit admissions made: core islands 0–5, tile-common 6–13;
`coldDue` is the end of the admission in progress. `settling` holds the groups admitted and the end of their 10 µs.
`heldRails` are the rails whose units are held until a device reset (R36); `dormOp` the DRAM operating point and
`dormBanks` the Lake banks that the wake restores (R45). -/
structure Power where
  vauxGood : Bool := true
  coldIdx : Nat := 0
  coldDue : Option Nat := none
  requests : List LadderReq := []
  queue : List LadderJob := []
  slotEnd : Nat := 0
  settling : List (Nat × Nat) := []
  lastSettle : Nat := 0
  heldRails : Nat := 0
  inReset : Bool := false
  dormOp : Nat := 0
  dormBanks : List Nat := []
  deriving DecidableEq, Repr

/-- A boot descriptor, parsed (R48): mode, clock, dummy cycles, the preferred slot, the read command of mode 2, the mode-entry bytes and
the slots. -/
structure BootDesc where
  mode : Nat := 0
  clk : Nat := 25
  dummy : Nat := 0
  preferred : Nat := 0
  readCmd : Nat := 0
  entry : List Byte := []
  offA : Nat := 0
  lenA : Nat := 0
  offB : Nat := 0
  lenB : Nat := 0
  deriving DecidableEq, Repr

/-- Where the loader stands (R48, R49, R58, R61). -/
inductive LoadPhase
  | idle
  | start
  | desc
  | reading
  | training
  | checking
  | passed
  | preparing
  | precheck
  | teardown
  deriving DecidableEq, Repr

/-- The configuration loader. `source` is the source being read: 0 slot A, 1 slot B, 2 staged; `todo` those to try after
it. `reqSrc` is the SRC code of the load (R61), `fellBack` a named or staged source that failed, `dram` the DRAM record
in force, `keyHash` the fused key hash and `keyHashIn` CFG_KEYHASH_IN. -/
structure Loader where
  phase : LoadPhase := .idle
  source : Nat := 0
  todo : List Nat := []
  fellBack : Bool := false
  force : Bool := false
  reqSrc : Nat := 0
  desc : BootDesc := {}
  legacy : Bool := false
  header : List Byte := []
  records : List ImageRecord := []
  offset : Nat := 0
  trained : Bool := false
  dram : List Byte := []
  keyHash : List Byte := []
  keyHashIn : Tab Nat := []
  fuseOp : Nat := 0
  fuseArg : Nat := 0
  deriving DecidableEq, Repr

/-- A table of the SERVICES record (R54): type, local site and bytes. -/
structure SvcTable where
  typ : Nat
  site : Nat
  data : List Byte
  deriving DecidableEq, Repr

/-- What the image in force fixes beside the LK registers: record bodies that the rules read (R54, R60). -/
structure ImageCfg where
  escalate : Tab Nat := []
  trigLevel : Nat := 0
  trigForce : Nat := 0
  leadTile : Nat := 128000
  leadCore : Nat := 960000
  leadHop : Nat := 2240000
  stationTag : Nat := 0
  links : List Byte := []
  buseng : List Byte := []
  tables : List SvcTable := []
  flowPri : List Byte := []
  idleWave : Tab Nat := []
  segtab : Nat := 0
  rates : Tab Nat := []
  patchL0 : List Byte := []
  patchL1 : List Byte := []
  deriving DecidableEq, Repr

/-- A jump request waiting for its boundary (R103): 1 step engine, 2 MATCH, 3 event channel. `endV` is the vector
cycle at which the segment of its request instant ended, for LATE_JUMP (R105); `inHold` marks a request made in HOLD
(R104); `atB` is the boundary that a JUMP token names on a proxy (R247). -/
structure JumpReq where
  src : Nat
  req : Nat
  target : Nat
  endV : Option Nat
  inHold : Bool
  atB : Option Nat
  deriving DecidableEq, Repr

/-- An immediate timing-set change that waits for its boundary (R123): the sets, its release DT, and on a proxy the period
of the primary set that the token carried (R247). -/
structure TsetReq where
  prim : Nat
  alt : Nat
  release : Nat
  period : Option Nat := none
  deriving DecidableEq, Repr

/-- A decided stop: the boundary time it waits for, and which outcome it carries (R145, R171). -/
structure StopDec where
  kind : Nat
  detect : Nat
  earliest : Nat
  deriving DecidableEq, Repr

/-- A site (R67–R79) beside its registers. `abortReg` tells that MDR_SITE_CMD waits for the
pending abort and `abortAns` holds the answer of the latest one. `failDet` is the detection DT of a stop that is not decided yet, `ctxStop` a
decided stop that the context has not met (R145), `states` the states that STATE tokens name with their release DTs
(R247), `resetReg` that MDR_SITE_CMD waits for the pending reset, `ringLost` and `acqLost` a drop since the last record written.
`leadHere` tells on a proxy that the lead slice is its first (R99), `toldStart` that the set of the start segment has gone to the proxies
(R112), `farSent` counts the entries sent to the slices of other devices since the ARM (R161), `farSlices` holds the joined devices
with their slice counts (R76), `stopped` tells that a stop has been decided in the test (R146). -/
structure SiteUnit where
  reqStart : Nat := 0
  armDT : Nat := 0
  fromIdle : Bool := false
  reqDT : Nat := 0
  entered : Bool := false
  alignKept : Bool := false
  waitGroups : List Nat := []
  groupsAt : Nat := 0
  ready : Option Nat := none
  checkedStale : Bool := false
  start : Option Nat := none
  startMin : Nat := 0
  first : Bool := false
  abortPend : Bool := false
  abortReg : Bool := false
  abortAns : Option Nat := none
  resetAt : Option Nat := none
  stop : Option StopDec := none
  failDet : Option Nat := none
  ctxStop : Bool := false
  ringLost : Bool := false
  acqLost : Bool := false
  hold : Option (Nat × Nat) := none
  holdSeg : Nat := 0
  holdGran : Nat := 0
  reports : List Nat := []
  lastReport : Nat := 0
  resume : Option Nat := none
  jumps : List JumpReq := []
  tsImm : List TsetReq := []
  tsQueued : Option TsetReq := none
  completed : Bool := false
  faultAt : Option Nat := none
  lastEnd : Nat := 0
  endReports : List Nat := []
  crcs : List (Nat × Nat) := []
  joinSent : Bool := false
  proxyReady : List (Nat × Nat × Nat) := []
  trimOpen : Nat := 0
  trimClosed : Nat := 0
  restart : Bool := false
  refl : Nat := 0
  idleSince : Nat := 0
  states : List (Nat × Nat) := []
  resetReg : Bool := false
  leadHere : Bool := false
  toldStart : Bool := false
  farSent : Nat := 0
  farSlices : List (Nat × Nat) := []
  stopped : Bool := false
  deriving DecidableEq, Repr

/-- An admitted segment descriptor (R92, R93). -/
structure Desc where
  seg : Nat
  addr : Nat
  len : Nat
  streamed : Bool
  uhold : Nat
  cols : List Nat
  tset : Nat
  keep : Bool
  succ : Nat
  jt0 : Nat
  jt1 : Nat
  ring : Nat
  target : Bool
  deriving DecidableEq, Repr

/-- A queue entry (R89) with the timing sets of a queued TSET (R123) and its release DT (R161). -/
structure QEntry where
  seg : Nat
  count : Nat
  release : Nat
  ts : Option TsetReq
  deriving DecidableEq, Repr

/-- An open loop (R85). -/
structure LoopReg where
  r : Nat
  b : Nat
  len : Nat
  arrived : Bool
  left : Nat
  deriving DecidableEq, Repr

/-- A granule of one column in the vector store (R94, R95): its 64 words and the DT at which it was complete. -/
structure Gran where
  slice : Nat
  seg : Nat
  gran : Nat
  col : Nat
  words : List Nat
  came : Nat
  deriving DecidableEq, Repr

/-- A failing channel result of a vector cycle: the channel's index in the slice, expect code and states seen. -/
structure ChanFail where
  idx : Nat
  expect : Nat
  obs : Nat
  deriving DecidableEq, Repr

/-- A vector cycle that a slice has played: its stored place, its boundary and its end (R187). -/
structure CycleAt where
  seg : Nat
  voff : Nat
  b : Nat
  fin : Nat
  deriving DecidableEq, Repr

/-- The verdict of one vector cycle of a slice while its actions are pending: number, boundary, stored place and the
channels that failed (R140, R147). -/
structure VecVerdict where
  n : Nat
  dt : Nat
  seg : Nat
  voff : Nat
  fails : List ChanFail
  deriving DecidableEq, Repr

/-- The state of MATCH in a slice (R86): passes judged, a mismatch seen, and the decision with its request instant. -/
structure MatchSt where
  pass : Nat := 0
  miss : Bool := false
  judge : Option Nat := none
  decided : Option (Bool × Nat) := none
  word : Nat := 0
  deriving DecidableEq, Repr

/-- A slice (R13, R63) beside its registers. `seg/gran/vec` is the vector that begins at `nextB`; `needEntry`: its queue
entry has ended and the next is due; `segNew`: that vector starts its segment; `resumed`: it is played at a resume
instant; `tsStep`: the boundary and primary set of the latest step-engine change (R124); `checked`: the boundary whose
check point was judged; `endDT`: the boundary at which play ended; `segAt` that of the latest segment
start. `per` is the period latched at the granule's first boundary (R110), `hints` the jump targets of the segment whose vector
plays (R103), `segEnd` the boundary at which the latest segment ended and its vector cycle (R105), `again` that the vector begins a
repeat of its granule (R85, R86), `missed` the boundary at which it missed a time-released message (R20). -/
structure SliceUnit where
  admitted : List Desc := []
  queue : List QEntry := []
  inbound : List QEntry := []
  entry : Option QEntry := none
  playing : Bool := false
  needEntry : Bool := false
  segNew : Bool := false
  resumed : Bool := false
  tsStep : Option (Nat × Nat) := none
  seg : Nat := 0
  gran : Nat := 0
  vec : Nat := 0
  repLeft : Nat := 0
  nextB : Nat := 0
  prevB : Nat := 0
  vidx : Nat := 0
  loops : List LoopReg := []
  mat : MatchSt := {}
  matchGran : Bool := false
  checked : Option Nat := none
  endDT : Option Nat := none
  crcEnd : Option (Nat × Nat) := none
  verdicts : List VecVerdict := []
  lostBefore : Bool := false
  staged : List (Nat × List Byte) := []
  failAdd : Nat := 0
  counted : Nat := 0
  uhold : Nat := 0
  reported : Bool := false
  resumes : Nat := 0
  lastSeg : Nat := 0xFFFFFF
  lastGran : Nat := 0
  segAt : Option Nat := none
  tokPeriod : Option Nat := none
  per : Nat := 0
  hints : Nat × Nat := (0xFFFFFF, 0xFFFFFF)
  segEnd : Option (Nat × Nat) := none
  again : Bool := false
  missed : Option Nat := none
  lastCyc : Option CycleAt := none
  deriving DecidableEq, Repr

/-- A placed drive event of a channel (R119): instant at the ball, uncompensated instant, vector cycle, action. -/
structure DriveEv where
  instant : Nat
  ideal : Nat
  n : Nat
  act : Nat
  deriving DecidableEq, Repr

/-- A placed compare action of a channel (R119): its start and end, kind 1 strobe or 2 window, expect code, vector
cycle; `mtch`: a match compare (R86). -/
structure CmpAct where
  t1 : Nat
  t2 : Nat
  ideal2 : Nat
  kind : Nat
  expect : Nat
  n : Nat
  masked : Bool
  mtch : Bool
  deriving DecidableEq, Repr

/-- A channel: its drive state, placed events and pending settings. -/
structure ChanUnit where
  drive : List DriveEv := []
  cmps : List CmpAct := []
  level : Nat := 0
  driven : Bool := false
  lastTrans : Option Nat := none
  settle : Option Nat := none
  maskNext : Option (Nat × Nat) := none
  maskNow : Nat := 0
  deriving DecidableEq, Repr

/-- A waveform entry: the waveform word and its two time words (R116). -/
structure WaveEntry where
  word : Nat
  t0 : Nat
  t1 : Nat
  deriving DecidableEq, Repr

/-- A waveform access in progress in a tile (R376): 1 read or 2 write, and its result. -/
structure WfAccess where
  op : Nat
  began : Nat
  result : Nat
  reason : Nat
  wf : Nat
  deriving DecidableEq, Repr

/-- A wait of a step context (R159–R167): the opcode that waits, its boundary and the DT at which it times out; `late` marks an arrival
at a barrier whose release was already formed (R165). -/
structure WaitSt where
  op : Nat
  began : Nat
  limit : Option Nat
  aux : Nat
  late : Bool := false
  deriving DecidableEq, Repr

/-- A step context (R155) beside its registers. -/
structure CtxUnit where
  base : Nat := 0
  words : Nat := 0
  hot : Bool := false
  lines : List (Nat × List Nat) := []
  wait : Option WaitSt := none
  evlast : Tab Nat := []
  syncDT : Nat := 0
  startInst : Nat := 0
  svcDone : Option Nat := none
  svcItem : Option Nat := none
  faultPend : Bool := false
  playAt : Option Nat := none
  deriving DecidableEq, Repr

/-- A running timer of the event fabric (R308). -/
structure TimerRun where
  target : Option Nat := none
  count : Nat := 0
  deriving DecidableEq, Repr

/-- The event fabric (R297–R309) beside its registers: the producers that have fired, each channel's latest firing DT, the
release DT of a held firing and whether only broadcasts made it, the loop counts, the timers, and the received broadcasts
with their release DTs. -/
structure Evf where
  raised : List Nat := []
  last : Tab (Option Nat) := []
  held : Tab (Option (Nat × Bool)) := []
  loops : Tab Nat := []
  timers : Tab TimerRun := []
  bcast : List (Nat × Nat) := []
  deriving DecidableEq, Repr

/-- The interrupt controller (R310–R317) beside its registers: pulses that have not reached it, the line levels last
sampled, the edges latched during a claim, each claimed source's slot plus 1, each group's hold-off end, and the MSI-X
enable and function mask of each function (R337). -/
structure Irc where
  pulses : List Nat := []
  lineWas : Tab Nat := []
  latched : Tab Nat := []
  holder : Tab Nat := []
  holdUntil : Tab Nat := []
  msixOn : Tab Nat := []
  msixMask : Tab Nat := []
  deriving DecidableEq, Repr

/-- Safe state (R363–R368) beside its registers: an accepted exit's release instant. -/
structure SafeUnit where
  exitAt : Option Nat := none
  deriving DecidableEq, Repr

/-- The trigger of an acquisition unit that collects or moves its record (R182, R187). -/
structure Trigger where
  dt : Nat
  interp : Bool
  forced : Bool
  seqState : Nat
  meas : Nat
  seg : Nat
  voff : Nat
  vecDT : Nat
  noplay : Bool
  deriving DecidableEq, Repr

/-- An acquisition unit (R174–R189) beside its registers. `entry` is the instant at which its sequence state was entered
and `entryTdc` whether a TDC stamped it; `pre`, `tsamp` and `post` are the history samples, oldest first, bit 4 of a sample
telling that its interval spans a HOLD; `nextSample` is the interval that ends next. -/
structure AcqUnit where
  armAt : Option Nat := none
  timeReleased : Bool := false
  entry : Nat := 0
  entryTdc : Bool := false
  count : Nat := 0
  pre : List Nat := []
  tsamp : Option Nat := none
  post : List Nat := []
  trig : Option Trigger := none
  trunc : Bool := false
  missed : Nat := 0
  recno : Nat := 0
  disarmWhileMoving : Bool := false
  forceAt : List Nat := []
  disarmAt : List Nat := []
  autoFrom : Nat := 0
  lastStamp : Option Nat := none
  lastStart : Option Nat := none
  nextSample : Nat := 0
  resumes : Nat := 0
  deriving DecidableEq, Repr

/-- A measurement unit (R193–R200) beside its registers. `startStamp` waits for its stop; `lastA` and `lastB` are the
latest stamps of the two converters, `pairEnd` the instant at which the latest pair was formed or abandoned, `prevStamp`
the reference edge of TYPE 2. `m` is the running mean in 1/65,536 tick. -/
structure TiaUnit where
  startAt : Option Nat := none
  released : Bool := false
  startStamp : Option Nat := none
  lastA : Option Nat := none
  lastB : Option Nat := none
  pairEnd : Option Nat := none
  prevStamp : Option Nat := none
  gateOpen : Nat := 0
  gateFirst : Option Nat := none
  m : Int := 0
  periods : Nat := 0
  periodSum : Nat := 0
  staleRun : Bool := false
  deriving DecidableEq, Repr

/-- Umber (R202–R209) beside its registers: the latest reading of the crystal's sensor, the DT at which ACQUIRE began, the latest second
mark of PPS_IN and the marks in a row that fell on whole seconds, the discipline's part of c in 10^-12, and the extended time at which
the latest block of operating hours was counted. -/
structure Umb where
  tempAt : Option Nat := none
  refAt : Nat := 0
  ppsAt : Option Nat := none
  ppsGood : Nat := 0
  disc : Int := 0
  agedAt : Int := 0
  deriving DecidableEq, Repr

/-- The shadows of an agent for 64-bit registers: tag and half (R342). -/
structure Shadow where
  rd : Option (Nat × Nat) := none
  wr : Option (Nat × Nat) := none
  deriving DecidableEq, Repr

/-- Results of a trim pass that await commit (R218): completion DT, residual, channel delay, the junction temperature of
the latest conversion before completion, and the DT from which the release is formed. -/
structure TrimResult where
  done : Nat
  qf : Nat
  delay : Nat
  temp : Nat
  from_ : Nat
  deriving DecidableEq, Repr

/-- A fixture delay that awaits commit (R221). -/
structure FixResult where
  d : Nat
  valid : Bool
  from_ : Nat
  deriving DecidableEq, Repr

/-- Mordant's view of a channel (R211–R223). `steps` holds the kept steps of the current pass as (index, end DT), `delay`
and `temp` belong to the committed pass, `old` tells that the committed pass is more than 60 s old, `reflSteps` holds the
stamp differences of the reflection in progress and whether the return was stamped. -/
structure TrimUnit where
  steps : List (Nat × Nat) := []
  pend : Option TrimResult := none
  fix : Option FixResult := none
  delay : Option Nat := none
  temp : Nat := 0
  old : Bool := false
  reflSteps : List (Nat × Bool) := []
  reflDone : Bool := false
  deriving DecidableEq, Repr

/-- A quad's trim engine (R211): the channel of its pass, the channel it holds, the index and the end of the step in
progress, and whether the step is one of a reflection. -/
structure TrimEngine where
  cur : Option Nat := none
  hold : Option Nat := none
  idx : Nat := 0
  stepEnd : Nat := 0
  refl : Bool := false
  deriving DecidableEq, Repr

/-- The tile skew measurement of a tile (R219): the latest pulse sent, the latest return, the latest measurement and
whether it is more than 60 s old. -/
structure Skew where
  sent : Option Nat := none
  waiting : Bool := false
  lastReturn : Option Nat := none
  old : Bool := false
  deriving DecidableEq, Repr

/-- A transmit descriptor in a bus engine's queue (R258, R259): where it stands, its 32 bytes as posted, its posting DT,
its payload once read, the firing that opened its gate, and its current attempt. -/
structure TxDesc where
  addr : Nat
  lake : Bool
  raw : List Byte
  posted : Nat
  payload : Option (List Byte) := none
  gate : Option Nat := none
  started : Option Nat := none
  late : Bool := false
  arbLost : Nat := 0
  retries : Nat := 0
  errors : Nat := 0
  deriving DecidableEq, Repr

/-- A bus engine (R249–R270) beside its registers. `finished` holds completed descriptors awaiting their write-back with
status, SOF_DT and EOF_DT; `linHdr` the identifier and responder entry of the latest LIN header; `slow` the slow messages of a SENT
transmitter that have left the queue, the first of which rides in the fast frames, with the fast frames that have carried it and the
stamp of the first of them (R256). -/
structure BusUnit where
  queue : List TxDesc := []
  finished : List (TxDesc × Nat × Nat × Nat) := []
  rxLost : Bool := false
  srLost : Bool := false
  phyHeld : Bool := false
  commitDT : Nat := 0
  linHdr : Option (Nat × Nat) := none
  slow : List (TxDesc × Nat × Nat) := []
  deriving DecidableEq, Repr

/-- An item that Saffron holds (R273, R276, R277): its number, since when it has been eligible and in which order it became
so, and its due DT in the delay list. -/
structure SafItem where
  w : WorkItem
  id : Nat
  elig : Option (Nat × Nat)
  due : Nat
  deriving DecidableEq, Repr

/-- Saffron (R273–R279) beside its registers: queued items in order of enqueue, delayed items by due DT, items in service
with their cores (the latest given first), cores that wait in SAF_GET, the DT at which each core was last given an item,
and the enqueues each flow refused. -/
structure Saf where
  items : List SafItem := []
  delay : List SafItem := []
  serv : List (Nat × SafItem) := []
  waiting : List Nat := []
  given : Tab Nat := []
  refused : Tab Nat := []
  nextId : Nat := 1
  order : Nat := 0
  deriving DecidableEq, Repr

/-! ### Links (R224–R248) -/

/-- A tile link (R232–R235) beside its registers: the control blocks that have timed out without an acknowledgement, by
CSEQ with the number of their sendings and the DT of the latest, and whether the link went down since it was last up. -/
structure TileLink where
  resent : List (Nat × Nat × Nat) := []
  restart : Bool := false
  deriving DecidableEq, Repr

/-- A Lenkel port (R236–R246) beside its registers. `proposed` is the code that RATE proposed, `switchTo` the code that both
ends have agreed on, `stepFrom` the code before the step that runs since `switchAt` (0 for the first lock), `direct` marks
the retraining after a wake at the code `wakeCode`. `seq` is the CSEQ sent next, `unacked` the blocks sent and not yet
acknowledged (CSEQ, sendings, latest sending DT), `ackSeq` the latest CSEQ taken, `capOk` that the peer's CAP was accepted. `hops` and `master` are the peer's
(R240), `follows` tells that the peer has chosen this device as its upstream, `ts` holds t1, t2 and t3 of the exchange in
progress (R241), `first` that the first offset of this upstream has been taken, `good` the consecutive offsets within 16
ticks, `bcast` the DT of the latest broadcast received for each event channel. -/
structure LinkPort where
  disabled : Bool := false
  retryAt : Option Nat := none
  wakeCode : Nat := 0
  direct : Bool := false
  peerMaster : Bool := false
  peerMax : Nat := 1
  proposed : Option Nat := none
  switchTo : Option Nat := none
  stepping : Bool := false
  stepFrom : Nat := 0
  switchAt : Nat := 0
  seq : Nat := 0
  unacked : List (Nat × Nat × Nat) := []
  ackSeq : Option Nat := none
  capOk : Bool := false
  delta : Option Nat := none
  hops : Nat := 31
  master : Nat := 0
  follows : Bool := false
  sentSync : Option Nat := none
  lastSync : Option Nat := none
  exch : Nat := 0
  ts : Option (Nat × Nat × Nat) := none
  first : Bool := false
  good : Nat := 0
  era : Nat := 0
  offLow : Nat := 0
  bcast : Tab (Option Nat) := []
  deriving DecidableEq, Repr

/-! ### Services (R280–R296) -/

/-- The plan of a site (R281, R282) beside its registers. `armed` tells that the test of the entry runs, `alignWait` that an
aligned entry waits for the plans of its set; `retryAt` is the DT of the next re-arm; `dutPend` is the serial of a start that waits for a reflection to end; `bin` is the first failing test's
bin, `last` the last test's; `reflAt` the latest reflection asked for; `net` the netlist fault count of the latest analysis
(none where it was incomplete), `netDone` that the test in progress has been analysed, and `copied` its fail records copied
to the datalog (R286). -/
structure Plan where
  inDut : Bool := false
  entry : Nat := 0
  armed : Bool := false
  alignWait : Bool := false
  retries : Nat := 0
  retryAt : Option Nat := none
  tmoAt : Option Nat := none
  dutPend : Option Nat := none
  stopAfter : Bool := false
  abortDut : Bool := false
  tests : Nat := 0
  failed : Nat := 0
  bin : Option Nat := none
  last : Option Nat := none
  reflAt : Option Nat := none
  net : Option Nat := none
  netDone : Bool := false
  copied : Nat := 0
  deriving DecidableEq, Repr

/-- The datalog service of a site (R285, R286): the records made and not yet written, the records dropped since the last LOST
record, and whether the next record carries LOST_BEFORE. -/
structure Datalog where
  made : List (List Byte) := []
  dropped : Nat := 0
  lost : Bool := false
  deriving DecidableEq, Repr

/-- A UDS job in progress (R289–R293): the item and core it runs as, its job block, whether a request awaits its response,
that request with the end of its last frame and the wait it allows, and where a SECURITY or DOWNLOAD job stands. `first` is
SOF_DT of the first request frame, `sid` the latest request's SID and `count` the responsePending responses. -/
structure UdsJob where
  item : Nat
  core : Nat
  block : Nat
  lake : Bool
  op : Nat
  param : Nat
  reqAddr : Nat
  rspAddr : Nat
  rspMax : Nat
  first : Option Nat := none
  sent : Nat := 0
  wait : Nat := 0
  out : Bool := false
  req : List Byte := []
  count : Nat := 0
  stage : Nat := 0
  region : Nat := 0
  blockLen : Nat := 0
  off : Nat := 0
  ctr : Nat := 1
  acked : Nat := 0
  seed : List Byte := []
  key : List Byte := []
  keyNo : Option Nat := none
  keyAt : Option Nat := none
  deriving DecidableEq, Repr

/-- A UDS connection (R287, R289): its job, the diagnostic session, the server's P2 and P2* in ms, and the DT at which
TesterPresent is due. -/
structure UdsConn where
  job : Option UdsJob := none
  session : Nat := 1
  p2 : Option Nat := none
  p2x : Option Nat := none
  presentAt : Option Nat := none
  discarded : Nat := 0
  deriving DecidableEq, Repr

/-! ### Host rings and DRAM banks -/

/-- A descriptor in execution (R346, R347): its 32 bytes as posted, the DT at which it was read, whether its operation has
begun, and its STATUS and RESULT once they are known. -/
structure RingCmd where
  raw : List Byte
  taken : Nat
  begun : Bool := false
  result : Option (Nat × Nat) := none
  deriving DecidableEq, Repr

/-- A host ring (R345–R349) beside its registers: the descriptor in execution, whether the ring has stopped on RING_ADDR,
and whether it is being flushed. -/
structure HostRing where
  cur : Option RingCmd := none
  stopped : Bool := false
  flushing : Bool := false
  deriving DecidableEq, Repr

/-- A DRAM bank (R329): the counter of page outcomes, and the latest access to its open page. -/
structure DramBank where
  ctr : Nat := 2
  openAt : Option Nat := none
  deriving DecidableEq, Repr

end Sys2Proof.Machine
end

