-- ==== Sys2Proof/Machine/State.lean ====
section
/-! DEFINITION. The state of the block, the reasons a step can stop, and the state after power-on reset. -/

namespace Sys2Proof.Machine

/-- Why a step stops with a fault. -/
inductive Fault
  /-- Raised by no meaning: the spec names no behaviour of the block that ends its operation. Kept so that the
  outcome type of the host's interface is inhabited in every arm. Safe. -/
  | halted
  deriving DecidableEq, Repr

/-- Why a step gives no meaning. -/
inductive Refusal
  /-- Raised by an arm of Dispatch.lean whose command has no meaning yet. Safe. -/
  | notModelled (mnemonic : String)
  deriving DecidableEq, Repr

/-- What the hardware has done to a register field at the present DT (R7): the field, its index, its value before, and the
bits set in a W1C field or the amount counted in an RC field. -/
structure TickNote where
  id : Nat
  idx : Nat
  was : Nat
  amt : Nat
  deriving DecidableEq, Repr

/-- The state of the block. `regs` holds every register field of spec/ by `Fld.id` and index, as the exclusive OR of
its value with its reset value, so that a field at reset is not listed. `free` counts the free values drawn. `epoch`
numbers the times at which DRAM and Lake contents became undefined; `tick` holds what the hardware did to W1C and RC fields at the present DT; `dramZero` lists the DRAM ranges (first byte,
length) that the loader has cleared since (R152), `lakeEpoch` counts the times each Lake bank lost its contents (R323).
`lakeAt` is the target of a bank's transition and its end where the spec gives one, `opAt` the target and the latest end of an operating-point change (R332), and
`dramDead` tells that one failed; `dramBad` lists the DRAM words of CONTROL regions found to hold an uncorrectable error (R326);
`keyQ` holds the UDS connections that ask the host for a key in order (R292), and `nvm` the
management rings and positions of NVM operations in order of arrival (R349). -/
structure State where
  regs : Tab (Tab Nat) := []
  tick : List TickNote := []
  free : Nat := 0
  epoch : Nat := 0
  dram : List Host.Cell := []
  dramZero : List (Nat × Nat) := []
  lake : List Host.Cell := []
  readData : Nat := 0
  out : List Output := []
  pins : Pins := {}
  pwr : Power := {}
  ldr : Loader := {}
  img : ImageCfg := {}
  sites : Tab SiteUnit := []
  slices : Tab SliceUnit := []
  grans : List Gran := []
  chans : Tab ChanUnit := []
  wave : Tab (Option WaveEntry) := []
  waveBad : List Nat := []
  wfAcc : Tab (Option WfAccess) := []
  ctxs : Tab CtxUnit := []
  acqs : Tab AcqUnit := []
  tias : Tab TiaUnit := []
  trims : Tab TrimUnit := []
  engines : Tab TrimEngine := []
  skews : Tab Skew := []
  buses : Tab BusUnit := []
  mdioQ : List (Nat × Nat) := []
  mdioAt : Nat := 0
  evf : Evf := {}
  irc : Irc := {}
  safe : SafeUnit := {}
  keys : Tab (List Byte) := []
  barriers : Tab (Option Nat) := []
  demand : Tab (List (Nat × Nat)) := []
  umb : Umb := {}
  saf : Saf := {}
  shadows : Tab Shadow := []
  tlinks : Tab TileLink := []
  ports : Tab LinkPort := []
  plans : Tab Plan := []
  logs : Tab Datalog := []
  uds : Tab UdsConn := []
  keyQ : List Nat := []
  rings : Tab HostRing := []
  lakeAt : Tab (Option (Nat × Option Nat)) := []
  lakeEpoch : Tab Nat := []
  opAt : Option (Nat × Nat) := none
  banks : Tab DramBank := []
  nvm : List (Nat × Nat) := []
  dramDead : Bool := false
  dramBad : List Nat := []
  pending : List Instr := []
  deriving DecidableEq, Repr

/-- What a command answers. -/
abbrev Out := Host.Outcome State Fault Refusal

/-- The reset value of a field at an index: that of the field tables, but for the direction of a mailbox, which is
that of its number (R352). -/
def Fld.reset (f : Fld) (i : Nat) : Nat := if f = F.MBX_STAT.DIR then i % 2 else f.rst

/-- The value of a register field at an index. -/
def State.get (s : State) (f : Fld) (i : Nat) : Nat := Tab.get 0 (Tab.get [] s.regs f.id) i ^^^ f.reset i

/-- The state with a register field at an index holding a value, cut to the field's width, as a write of an agent leaves it. -/
def State.put (s : State) (f : Fld) (i v : Nat) : State :=
  { s with regs := Tab.update [] s.regs f.id (fun t => Tab.set 0 t i (v % 2 ^ f.w ^^^ f.reset i)) }

/-- The note of a field among those of the present DT. -/
def noteAt (l : List TickNote) (id i : Nat) : Option TickNote := l.find? (fun n => n.id == id && n.idx == i)

/-- The notes with one of a field replaced or added. -/
def addNote (l : List TickNote) (n : TickNote) : List TickNote := l.filter (fun m => m.id != n.id || m.idx != n.idx) ++ [n]

/-- The notes of the present DT after the hardware gave a W1C field a value: the bits that it set are kept (R7). -/
def State.noted (s : State) (f : Fld) (i v : Nat) : List TickNote :=
  let old := s.get f i
  let bits := if f.w = 1 then v % 2 else (v ||| old) ^^^ old
  if f.acc == .w1c && bits != 0 then
    match noteAt s.tick f.id i with
    | some n => addNote s.tick { n with amt := n.amt ||| bits }
    | none => addNote s.tick ⟨f.id, i, old, bits⟩
  else s.tick

/-- The state with a register field at an index holding a value that the hardware gives it. -/
def State.set (s : State) (f : Fld) (i v : Nat) : State := { s.put f i v with tick := s.noted f i v }

/-- The state after power-on reset (R35, R373): every field at its reset value, VAUX good and no other rail, the
device in POWERING, no command waiting. -/
def State.reset : State := State.set {} F.PWR_RAIL_STAT.GOOD 0 0x80

end Sys2Proof.Machine
end

