-- ==== Sys2Proof/Machine/Ops.lean ====
section
/-! DEFINITION. The named operations over the state: device time, free values, stamps, counters, bit maps, producers
and interrupt pulses, memory, the site map, and the per-unit tables. -/

namespace Sys2Proof.Machine

/-! ### Device time (R4, R202, R377) -/

/-- Device time. -/
def State.now (s : State) : Nat := s.get F.UMB_DT.DT 0

/-- Device time passes by e ticks: DT wraps modulo 2^64 and each wrap adds to UMB_ERA (R202). It runs while VAUX is good. What the
hardware did at the DT that ends is forgotten (R7). -/
def State.elapse (s : State) (e : Nat) : State :=
  let s1 := { s with tick := if e = 0 then s.tick else [] }
  if s.pwr.vauxGood then
    (s1.set F.UMB_DT.DT 0 (s.now + e)).set F.UMB_ERA.ERA 0 (s.get F.UMB_ERA.ERA 0 + (s.now + e) / 2 ^ 64)
  else s1

/-- Ticks in a nanosecond. -/
abbrev ns (n : Nat) : Nat := n * 8000

/-- Ticks in a microsecond. -/
abbrev us (n : Nat) : Nat := n * 8000000

/-- Has device time reached DT d (R160). -/
def State.reached (s : State) (d : Nat) : Bool := dtReached s.now d

/-- Has device time reached an optional DT. -/
def State.due (s : State) (d : Option Nat) : Bool :=
  match d with
  | some d => s.reached d
  | none => false

/-- The later of two DTs, by the wrapping comparison. -/
def dtMax (a b : Nat) : Nat := if dtReached a b then a else b

/-- The free value drawn next. -/
def State.fresh (s : State) : Nat := Config.freeValue s.free

/-- The state after a free value was drawn. -/
def State.drew (s : State) : State := { s with free := s.free + 1 }

/-- A DT recorded to 1 ns (R377) of an instant: truncated from a replica that lies within 1 ns of Umber (R18). -/
def State.stampAt (s : State) (t : Nat) : Nat := wrap64 (t + 8000 + 2 ^ 64 - s.fresh % 24000)

/-- A field takes the stamp, to 1 ns, of an instant. -/
def State.stamp (s : State) (f : Fld) (i t : Nat) : State := (s.set f i (s.stampAt t)).drew

/-- A quotient rounded to the nearest whole number; which way a tie goes the spec does not say (R199). -/
def State.roundDiv (s : State) (a : Int) (n : Nat) : Int :=
  let q := a / (n : Int)
  let r := 2 * (a % (n : Int))
  if (n : Int) < r then q + 1 else if r = (n : Int) then q + (s.fresh % 2 : Nat) else q

/-- A quotient of which the spec does not state the rounding: one of the two nearest whole numbers (R199). -/
def State.openDiv (s : State) (a : Int) (n : Nat) : Int :=
  if a % (n : Int) = 0 then a / (n : Int) else a / (n : Int) + (s.fresh % 2 : Nat)

/-! ### Fields, flags and counters -/

/-- Is a field of one bit set. -/
def State.flag (s : State) (f : Fld) (i : Nat) : Bool := s.get f i == 1

/-- A counter of block blk saturated (R371). -/
def State.saturated (s : State) (blk : Nat) : State :=
  (s.set F.CIN_SAT.BLOCK 0 (setBit (s.get F.CIN_SAT.BLOCK 0) blk)).set F.CIN_FAULT_STAT.SAT 0 1

/-- Did a saturating counter just reach its largest value (R371). -/
def State.saturates (s : State) (f : Fld) (i n : Nat) : Bool :=
  decide (s.get f i < 2 ^ f.w - 1) && decide (2 ^ f.w - 1 ≤ s.get f i + n)

/-- An update of an RC field at the present DT is noted, by the amount counted (R7). -/
def State.noteRc (s : State) (f : Fld) (i n : Nat) : State :=
  if f.acc == .rc then
    match noteAt s.tick f.id i with
    | some m => { s with tick := addNote s.tick { m with amt := m.amt + n } }
    | none => { s with tick := addNote s.tick ⟨f.id, i, s.get f i, n⟩ }
  else s

/-- What an RC read finds in a field: the value before the updates of the same DT (R7). -/
def State.rcVal (s : State) (f : Fld) (i : Nat) : Nat :=
  match noteAt s.tick f.id i with
  | some n => n.was
  | none => s.get f i

/-- An RC read clears a field to its reset value, to which the updates of the same DT are applied (R7). -/
def State.rcClear (s : State) (f : Fld) (i : Nat) : State :=
  match noteAt s.tick f.id i with
  | some n => { s.put f i (min (f.reset i + n.amt) (2 ^ f.w - 1)) with tick := s.tick.filter (fun m => m.id != f.id || m.idx != i) }
  | none => s.put f i (f.reset i)

/-- A saturating counter of block blk counts n, with its overflow bit if it has one (R371). -/
def State.count (s : State) (f : Fld) (ovf : Option Fld) (i blk n : Nat) : State :=
  let s1 := (match ovf with
    | some o => (s.noteRc o i 0).noteRc f i n
    | none => s.noteRc f i n).set f i (min (s.get f i + n) (2 ^ f.w - 1))
  if s.saturates f i n then
    match ovf with
    | some o => (s1.set o i 1).saturated blk
    | none => s1.saturated blk
  else s1

/-- A saturating count held outside a register. -/
def satAdd (w v n : Nat) : Nat := min (v + n) (2 ^ w - 1)

/-- Bit n of a bit map of 32-bit words that begins at word base. -/
def State.mapBit (s : State) (f : Fld) (base n : Nat) : Bool := bitAt (s.get f (base + n / 32)) (n % 32)

/-- Bit n of a bit map set or cleared. -/
def State.setMapBit (s : State) (f : Fld) (base n : Nat) (b : Bool) : State :=
  let v := s.get f (base + n / 32)
  s.set f (base + n / 32) (if b then setBit v (n % 32) else clearBit v (n % 32))

/-- Byte n of a byte array held in 32-bit words. -/
def State.byteOf (s : State) (f : Fld) (n : Nat) : Nat := bitsOf (s.get f (n / 4)) (8 * (n % 4)) 8

/-- A register goes back to its reset value at every index. -/
def State.clearReg (s : State) (r : Reg) : State := { s with regs := s.regs.filter (fun e => e.1 / 128 != r.ctorIdx) }

/-- Registers go back to their reset values. -/
def State.clearRegs (s : State) (l : List Reg) : State := l.foldl (fun s r => s.clearReg r) s

/-- The bits of a bit map of 32-bit words that are set, below a bound. -/
def State.mapList (s : State) (f : Fld) (base bound : Nat) : List Nat :=
  (List.range bound).filter (fun n => s.mapBit f base n)

/-- Fields of an index go back to their reset values. -/
def State.clearFields (s : State) (i : Nat) (l : List Fld) : State := l.foldl (fun s f => s.set f i (f.reset i)) s

/-- A state transformation made for each number of a list, in order. -/
def State.each (s : State) (l : List Nat) (f : State → Nat → State) : State := l.foldl f s

/-! ### Device state -/

/-- DEV_STATE.STATE. -/
def State.dev (s : State) : Nat := s.get F.DEV_STATE.STATE 0

/-- Safe state holds. -/
def State.isSafe (s : State) : Bool := s.flag F.CIN_STAT.SAFE 0

/-- READY or RUNNING. -/
def State.running (s : State) : Bool := s.dev == 4 || s.dev == 5

/-! ### Producers and interrupt pulses -/

/-- The producers that fire in Dormant (R309). -/
def dormantProducer (p : Nat) : Bool :=
  (1344 ≤ p && p ≤ 1459) || (1478 ≤ p && p ≤ 1493)

/-- Producer p fires (R297). Before the first commit no channel fires (R299), and in Dormant only the producers of
R309 do. -/
def State.fire (s : State) (p : Nat) : State :=
  if s.flag F.EVF_STAT.ACTIVE 0 && (s.dev != 6 || dormantProducer p) then
    { s with evf := { s.evf with raised := s.evf.raised ++ [p] } }
  else s

/-- Has SAFE_IN_n been high for 1 µs (R368). -/
def State.safeInLong (s : State) : Bool :=
  s.pins.safeInHigh && (match s.pins.safeInRise with | some t => s.reached (wrap64 (t + us 1)) | none => true)

/-- Does a firing reach a consumer that Dormant does not shut off: in Dormant one is discarded without a flag (R309). -/
def State.consumes (s : State) : Bool := s.dev != 6

/-- A pulse source of the interrupt controller fires; in Dormant it is lost (R317). -/
def State.pulse (s : State) (n : Nat) : State :=
  if s.dev == 6 then s else { s with irc := { s.irc with pulses := s.irc.pulses ++ [n] } }

/-- An output of the block. -/
def State.emit (s : State) (o : Output) : State := { s with out := s.out ++ [o] }

/-- The event channels whose column enables producer p (R299). -/
def State.columns (s : State) (p : Nat) : List Nat :=
  (List.range 256).filter (fun c => s.mapBit F.EVF_MATRIX.EN (48 * c) p)

/-- The upstream port, where there is one (R240). -/
def State.upstream (s : State) : Option Nat :=
  if s.flag F.LNK_TIME_STAT.UP_VALID 0 then some (s.get F.LNK_TIME_STAT.UPSTREAM 0) else none

/-! ### Unit tables -/

/-- A site's hidden state. -/
def State.site (s : State) (x : Nat) : SiteUnit := Tab.get {} s.sites x

/-- A site's hidden state replaced. -/
def State.setSite (s : State) (x : Nat) (u : SiteUnit) : State := { s with sites := Tab.set {} s.sites x u }

/-- A slice's hidden state. -/
def State.slice (s : State) (i : Nat) : SliceUnit := Tab.get {} s.slices i

/-- A slice's hidden state replaced. -/
def State.setSlice (s : State) (i : Nat) (u : SliceUnit) : State := { s with slices := Tab.set {} s.slices i u }

/-- A channel's hidden state. -/
def State.chan (s : State) (c : Nat) : ChanUnit := Tab.get {} s.chans c

/-- A channel's hidden state replaced. -/
def State.setChan (s : State) (c : Nat) (u : ChanUnit) : State := { s with chans := Tab.set {} s.chans c u }

/-- A context's hidden state. -/
def State.ctx (s : State) (x : Nat) : CtxUnit := Tab.get {} s.ctxs x

/-- A context's hidden state replaced. -/
def State.setCtx (s : State) (x : Nat) (u : CtxUnit) : State := { s with ctxs := Tab.set {} s.ctxs x u }

/-- An acquisition unit's hidden state. -/
def State.acqU (s : State) (c : Nat) : AcqUnit := Tab.get {} s.acqs c

/-- An acquisition unit's hidden state replaced. -/
def State.setAcqU (s : State) (c : Nat) (u : AcqUnit) : State := { s with acqs := Tab.set {} s.acqs c u }

/-- A measurement unit's hidden state. -/
def State.tiaU (s : State) (c : Nat) : TiaUnit := Tab.get {} s.tias c

/-- A measurement unit's hidden state replaced. -/
def State.setTiaU (s : State) (c : Nat) (u : TiaUnit) : State := { s with tias := Tab.set {} s.tias c u }

/-- Mordant's state of a channel. -/
def State.trimU (s : State) (c : Nat) : TrimUnit := Tab.get {} s.trims c

/-- Mordant's state of a channel replaced. -/
def State.setTrimU (s : State) (c : Nat) (u : TrimUnit) : State := { s with trims := Tab.set {} s.trims c u }

/-- A quad's trim engine. -/
def State.engine (s : State) (q : Nat) : TrimEngine := Tab.get {} s.engines q

/-- A quad's trim engine replaced. -/
def State.setEngine (s : State) (q : Nat) (u : TrimEngine) : State := { s with engines := Tab.set {} s.engines q u }

/-- A bus engine's hidden state. -/
def State.bus (s : State) (e : Nat) : BusUnit := Tab.get {} s.buses e

/-- A bus engine's hidden state replaced. -/
def State.setBus (s : State) (e : Nat) (u : BusUnit) : State := { s with buses := Tab.set {} s.buses e u }

/-- A Lenkel port's hidden state. -/
def State.port (s : State) (p : Nat) : LinkPort := Tab.get {} s.ports p

/-- A Lenkel port's hidden state replaced. -/
def State.setPort (s : State) (p : Nat) (u : LinkPort) : State := { s with ports := Tab.set {} s.ports p u }

/-! ### Lenkel ports (R231, R238, R239, R247) -/

/-- The port that leads straight to a device. -/
def State.portTo (s : State) (dev : Nat) : Option Nat :=
  (List.range 8).find? (fun p => s.get F.LNK_PORT_STAT.STATE p == 2 && s.get F.LNK_PORT_STAT.PEER_DEV p == dev)

/-- The port that carries slice tokens, joins and records to a device (R239). -/
def State.carrier (s : State) (dev : Nat) : Option Nat :=
  match s.portTo dev with
  | some p => if s.flag F.LNK_PORT_STAT.SLOW p then none else some p
  | none => none

/-- One replayable block is sent on a port: it takes the next CSEQ and waits for its acknowledgement (R238). -/
def State.sendSeq (s : State) (p : Nat) : State :=
  let u := s.port p
  s.setPort p { u with seq := (u.seq + 1) % 256, unacked := u.unacked ++ [(u.seq, 1, s.now)] }

/-- n replayable blocks are sent on a port. -/
def State.sendSeqs (s : State) (p n : Nat) : State := (List.range n).foldl (fun s _ => s.sendSeq p) s

/-- A replayable block with its body is sent on a port. -/
def State.sendBlock (s : State) (p kind : Nat) (args : List Nat) : State := (s.emit (.lnkBlock p kind args)).sendSeq p

/-- The extension blocks of a token of a kind (R247). -/
def tokenExt (kind : Nat) : Nat := if kind = 1 || kind = 2 then 0 else if kind = 3 || kind = 10 then 2 else 1

/-- A slice token goes to a device, with its extension blocks; a device that no port reaches gets none. -/
def State.tokenTo (s : State) (dev kind site release : Nat) (args : List Nat) : State :=
  match s.carrier dev with
  | some p => (s.emit (.token dev kind site release args)).sendSeqs p (1 + tokenExt kind)
  | none => s

/-! ### Memory -/

/-- The byte listed at an address of a memory. -/
def memGet : List Host.Cell → Nat → Option Byte
  | [], _ => none
  | (k, v) :: r, a => if a = k then some v else memGet r a

/-- Does a list of ranges (first byte, length) hold an address. -/
def inRanges (z : List (Nat × Nat)) (a : Nat) : Bool := z.any (fun p => decide (p.1 ≤ a) && decide (a < p.1 + p.2))

/-- A memory with a byte at an address; z lists the ranges in which an unlisted address reads 0. -/
def memPut (z : List (Nat × Nat)) (m : List Host.Cell) (a : Nat) (b : Byte) : List Host.Cell :=
  if inRanges z a && b == 0 then Tab.erase m a else Tab.insert a b (Tab.erase m a)

/-- The addresses of a memory are strictly rising. -/
def rising : List Host.Cell → Bool
  | [] => true
  | [_] => true
  | (a, _) :: (b, v) :: r => decide (a < b) && rising ((b, v) :: r)

/-- The canonical form of a memory: addresses strictly rising, and no byte listed that equals what its address reads as
when it is not listed: 0 in a cleared range. Elsewhere an unlisted address holds an open value, equal to no number. -/
def Memory.wf (z : List (Nat × Nat)) (m : List Host.Cell) : Bool :=
  rising m && m.all (fun p => !(inRanges z p.1 && p.2 == 0))

/-- The cleared ranges of DRAM, or of Lake, which has none. -/
def State.zeroed (s : State) (lake : Bool) : List (Nat × Nat) := if lake then [] else s.dramZero

/-- A byte of DRAM (lake = false) or Lake; a byte that nothing has written is open (R373), or 0 where the loader has
cleared it (R152). -/
def State.byteAt (s : State) (lake : Bool) (a : Nat) : Byte :=
  match memGet (if lake then s.lake else s.dram) a with
  | some b => b
  | none => if inRanges (s.zeroed lake) a then 0 else if lake then Config.openByte (2 * s.epoch + 1) (a + 33554432 * Tab.get 0 s.lakeEpoch (a / 524288))
    else Config.openByte (2 * s.epoch) a

/-- A byte of memory written; DRAM that an operating point failed takes nothing (R332). -/
def State.putByte (s : State) (lake : Bool) (a : Nat) (b : Byte) : State :=
  if lake then { s with lake := memPut [] s.lake a b }
  else if s.dramDead then s
  else { s with dram := memPut s.dramZero s.dram a b }

/-- A range of DRAM cleared to 0. -/
def State.clearDram (s : State) (a n : Nat) : State :=
  { s with
    dram := s.dram.filter (fun p => !inRanges [(a, n)] p.1), dramZero := s.dramZero ++ [(a, n)],
    dramBad := s.dramBad.filter (fun w => decide (8 * w < a) || decide (a + n < 8 * w + 8)) }

/-- n bytes of memory from an address. -/
def State.bytesAt (s : State) (lake : Bool) (a n : Nat) : List Byte :=
  (List.range n).map (fun k => s.byteAt lake (a + k))

/-- A little-endian number of n bytes in memory (R5). -/
def State.word (s : State) (lake : Bool) (a n : Nat) : Nat := ofBytes (s.bytesAt lake a n)

/-- Bytes written to memory from an address. -/
def State.putBytes (s : State) (lake : Bool) (a : Nat) (bs : List Byte) : State :=
  (List.range bs.length).foldl (fun t k => t.putByte lake (a + k) (bs.getD k 0)) s

/-- Bytes written into a ring of 2^log2 units of 32 bytes from a free-running position (R149, R188). -/
def State.putRing (s : State) (lake : Bool) (base log2 pos : Nat) (bs : List Byte) : State :=
  (List.range bs.length).foldl
    (fun t k => t.putByte lake (base + (pos * 32 + k) % (32 * 2 ^ log2)) (bs.getD k 0)) s

/-- The Lake bank of a byte offset (R318). -/
def bankOf (a : Nat) : Nat := a / 524288

/-- Is Lake bank b ON: a bank in transition counts as not ON (R323). -/
def State.bankIsOn (s : State) (b : Nat) : Bool := s.get F.LAK_STATE.CUR b == 2 && s.get F.LAK_STATE.BUSY b == 0

/-- Is the Lake bank of an offset ON (R323). -/
def State.bankOn (s : State) (a : Nat) : Bool := s.bankIsOn (bankOf a)

/-- A Lake bank loses its contents (R323). -/
def State.loseBank (s : State) (b : Nat) : State :=
  { s with lake := s.lake.filter (fun p => bankOf p.1 != b), lakeEpoch := Tab.update 0 s.lakeEpoch b (fun n => n + 1) }

/-- Are the banks of a span of Lake offsets ON. -/
def State.banksOn (s : State) (a n : Nat) : Bool :=
  (List.range (bankOf (a + n - 1) + 1 - bankOf a)).all (fun k => s.bankIsOn (bankOf a + k))

/-- Does the loader own a bank of a span of Lake offsets, so that no engine may write there (R322). -/
def State.loaderSpan (s : State) (a n : Nat) : Bool :=
  (List.range (bankOf (a + n - 1) + 1 - bankOf a)).any (fun k => s.get F.LAK_OWNER.OWNER (bankOf a + k) == 0x3F)

/-- May an engine write a span of Lake offsets through port B (R322, R323). -/
def State.portB (s : State) (a n : Nat) : Bool := s.banksOn a n && !s.loaderSpan a n

/-- The usable size of a DRAM region in bytes: all of a DATA region, 7/8 of a CONTROL region (R56). -/
def State.regionSize (s : State) (r : Nat) : Nat :=
  let n := s.get F.DMC_REGION.SIZE_MIB r * 1048576
  if s.get F.DMC_REGION.TYPE r = 2 then n / 8 * 7 else n

/-- The DRAM region whose usable part holds n bytes from an address, of a type (1 DATA, 2 CONTROL, 0 either). -/
def State.region (s : State) (typ a n : Nat) : Option Nat :=
  (List.range 16).find? (fun r =>
    let t := s.get F.DMC_REGION.TYPE r
    (t == 1 || t == 2) && (typ == 0 || t == typ) &&
      decide (s.get F.DMC_REGION.BASE r ≤ a) && decide (a + n ≤ s.get F.DMC_REGION.BASE r + s.regionSize r))

/-! ### The site map (R10–R17, R62–R65) -/

/-- A site's state code (R67). -/
def State.siteState (s : State) (x : Nat) : Nat := s.get F.MDR_SITE_STATE.STATE x

/-- ARMED, RUNNING, HOLD or STOPPING. -/
def activeCode (c : Nat) : Bool := c == 2 || c == 3 || c == 4 || c == 5

/-- Is a site ARMED, RUNNING, HOLD or STOPPING. -/
def State.active (s : State) (x : Nat) : Bool := activeCode (s.siteState x)

/-- Is a site IDLE, DONE or FAULTED: the states in which its settings may be written. -/
def State.settable (s : State) (x : Nat) : Bool :=
  s.siteState x == 1 || s.siteState x == 6 || s.siteState x == 7

/-- Is any site ARMED, RUNNING, HOLD or STOPPING. -/
def State.anyActive (s : State) : Bool := (List.range 256).any (fun x => s.active x)

/-- The owner of a quad 32t + 4g + q, if it is mapped and its site is not ABSENT. -/
def State.quadSite (s : State) (q : Nat) : Option Nat :=
  let v := s.get (if q % 2 = 0 then F.SMAP_QUAD.SITE_LO else F.SMAP_QUAD.SITE_HI) (q / 2)
  if v < 256 && s.siteState v != 0 then some v else none

/-- The site of a channel, if it is mapped. -/
def State.chanSite (s : State) (c : Nat) : Option Nat := s.quadSite (c / 4)

/-- Is a channel in bus mode (R65). -/
def State.busMode (s : State) (c : Nat) : Bool := s.mapBit F.SMAP_BUSMODE.CH 0 c

/-- The number of channels that an engine of a protocol takes (R250). -/
def busWidth (p : Nat) : Nat := if p = 0 then 0 else if p = 6 then 12 else 1

/-- The bus engine that takes a channel (R57). -/
def State.busEngine (s : State) (c : Nat) : Option Nat :=
  (List.range 64).find? (fun e => s.get F.BUS_CFG.FIRST_CH e ≤ c &&
    c < s.get F.BUS_CFG.FIRST_CH e + busWidth (s.get F.BUS_CFG.PROTOCOL e))

/-- Does one of a set of rails hold the units that it feeds (R36); the bits are those of PWR_RAIL_STAT. -/
def State.railHeld (s : State) (m : Nat) : Bool := s.pwr.heldRails &&& m != 0

/-- Is an engine on (R249), its rail not holding it (R36), and the device not loading (R59). -/
def State.busOn (s : State) (e : Nat) : Bool :=
  s.get F.BUS_CFG.PROTOCOL e != 0 && s.flag F.BUS_CTRL.RUN e && !s.railHeld 1 && !(s.dev == 2 || s.dev == 3 || s.dev == 7)

/-- The conditions of R131 for a write to a channel: unmapped, or its site IDLE, DONE or FAULTED. -/
def State.chanSettable (s : State) (c : Nat) : Bool :=
  match s.chanSite c with
  | none => true
  | some x => s.settable x

/-- Does slice i = 32t + j exist. -/
def State.sliceValid (s : State) (i : Nat) : Bool := s.flag F.SMAP_TSLICE.VALID i

/-- The site of a slice. -/
def State.sliceSite (s : State) (i : Nat) : Nat := s.get F.SMAP_TSLICE.SITE i

/-- The slices of a site on this device, ascending by tile. -/
def State.slicesOf (s : State) (x : Nat) : List Nat :=
  (List.range 256).filter (fun i => s.sliceValid i && s.sliceSite i == x)

/-- The quads of a slice as their indices in the tile, ascending: quad column c is the c-th of them (R64). -/
def State.sliceQuads (s : State) (i : Nat) : List Nat :=
  (List.range 32).filter (fun b => bitAt (s.get F.SMAP_TSLICE.QUADS i) b)

/-- The channels of a slice by slice channel index (R64). -/
def State.sliceChans (s : State) (i : Nat) : List Nat :=
  (s.sliceQuads i).flatMap (fun b => (List.range 4).map (fun k => 128 * (i / 32) + 4 * b + k))

/-- The slice that contains a channel. -/
def State.chanSlice (s : State) (c : Nat) : Option Nat :=
  ((List.range 32).map (fun j => 32 * (c / 128) + j)).find?
    (fun i => s.sliceValid i && bitAt (s.get F.SMAP_TSLICE.QUADS i) (c % 128 / 4))

/-- The channels of a site on this device. -/
def State.siteChans (s : State) (x : Nat) : List Nat := (s.slicesOf x).flatMap (fun i => s.sliceChans i)

/-- The channel groups in which a site has a quad, ascending by global group order 8t + g. -/
def State.siteGroups (s : State) (x : Nat) : List Nat :=
  (List.range 64).filter (fun g => (List.range 4).any (fun q => s.quadSite (4 * g + q) == some x))

/-- The sites with a quad in a group. -/
def State.groupSites (s : State) (g : Nat) : List Nat :=
  (List.range 256).filter (fun x => (List.range 4).any (fun q => s.quadSite (4 * g + q) == some x))

/-- Is a site a proxy (R75). -/
def State.proxy (s : State) (x : Nat) : Bool := s.flag F.SMAP_SITE.PROXY x

/-- Does a home site have joined slices on another device (R76). -/
def State.hasProxies (s : State) (x : Nat) : Bool :=
  clearBit (s.get F.MDR_SITE_SPAN.DEV x) (s.get F.DEV_NUMBER.NUMBER 0) != 0

/-- The crossing lead of a site's farthest slice (R20, R40). -/
def State.lead (s : State) (x : Nat) : Nat := if s.hasProxies x then s.img.leadHop else s.img.leadCore

/-- The lead of messages between the slices of a site (R99). -/
def State.siteLine (s : State) (x : Nat) : Nat := if s.hasProxies x then ns 280 else ns 24

/-- The lead slice of a site on this device: its slice in the lowest-numbered tile of the home device, or where that has no slice
of the lowest-numbered joined device (R99, notes/assumptions/20.md). -/
def State.leadSlice (s : State) (x : Nat) : Option Nat :=
  if s.proxy x && !(s.site x).leadHere then none else (s.slicesOf x).head?

/-- The sites of an aligned set that are present (R74). -/
def State.alignSet (s : State) (x : Nat) : List Nat :=
  (List.range 256).filter (fun y => s.siteState y != 0 && bitAt (s.get F.SMAP_SITE.FLAGS y) 3 &&
    s.get F.SMAP_SITE.ALIGN_SET y == s.get F.SMAP_SITE.ALIGN_SET x)

/-- Is a site a member of an aligned set. -/
def State.aligned (s : State) (x : Nat) : Bool := bitAt (s.get F.SMAP_SITE.FLAGS x) 3

/-- The underrun policy is STRICT (R102). -/
def State.strict (s : State) (x : Nat) : Bool := bitAt (s.get F.SMAP_SITE.FLAGS x) 1

/-- The state register of a channel group. -/
def groupFld (g : Nat) : Fld := ⟨.PWR_GROUP_STATE, 3 * (g % 8), 3, .ro, 0⟩

/-- The power state of group 8t + g (R38). -/
def State.group (s : State) (g : Nat) : Nat := s.get (groupFld g) (g / 8)

/-- The power state of a group set. -/
def State.setGroup (s : State) (g v : Nat) : State := s.set (groupFld g) (g / 8) v

/-- Is the group of a channel ON. -/
def State.chanOn (s : State) (c : Nat) : Bool := s.group (c / 16) == 5

/-- A service table of a site: its own, or the one for every site (R54). -/
def State.svcTable (s : State) (x typ : Nat) : Option (List Byte) :=
  ((s.img.tables.find? (fun t => t.typ == typ && t.site == x)) <|>
    (s.img.tables.find? (fun t => t.typ == typ && t.site == 0xFFFF))).map (fun t => t.data)

/-- READY and RUNNING follow the sites (R43); an entry to READY fires producer 1477. -/
def State.syncDev (s : State) : State :=
  if s.running then
    if s.anyActive then s.set F.DEV_STATE.STATE 0 5
    else if s.dev == 5 then (s.set F.DEV_STATE.STATE 0 4).fire 1477
    else s
  else s

/-- The opcode of SYNC (R157). -/
abbrev opSync : Nat := 0x13

/-- The contexts that have arrived at barrier b for its next release (R165). -/
def State.arrived (s : State) (b : Nat) : List Nat :=
  (s.ctxs.filter (fun p => match p.2.wait with | some w => w.op == opSync && w.aux == b && !w.late | none => false)).map (·.1)

/-- The release DT of barrier b is formed if every member has arrived or is not ARMED, RUNNING or HOLD (R165). -/
def State.formSync (s : State) (b : Nat) : State :=
  let arr := s.arrived b
  let ms := s.mapList F.MDR_STEP_SYNC_MEM.SITE (8 * b) 256
  let s1 := s.set F.MDR_STEP_SYNC_STAT.ARRIVED b arr.length
  if !arr.isEmpty && (Tab.get none s.barriers b).isNone &&
      ms.all (fun x => arr.contains x || !(s.siteState x == 2 || s.siteState x == 3 || s.siteState x == 4)) then
    let lead := if ms.any (fun x => s.hasProxies x) then s.img.leadHop else s.img.leadCore
    { s1 with barriers := Tab.set none s1.barriers b (some (wrap64 (s.now + lead))) }
  else s1

/-- Every barrier at which a context waits is looked at again. -/
def State.formSyncs (s : State) : State :=
  s.each (s.ctxs.filterMap (fun p => match p.2.wait with
    | some w => if w.op == opSync then some w.aux else none
    | none => none)) (fun s b => s.formSync b)

/-- A site enters a state: HOLD, DONE and FAULTED raise its interrupt source (R310), IDLE opens its trim window (R214),
and the barriers look at it again (R165). -/
def State.enterState (s : State) (x c : Nat) : State :=
  let s1 := (s.set F.MDR_SITE_STATE.STATE x c).syncDev
  let s2 := if c == 4 || c == 6 || c == 7 then s1.pulse (425 + x) else s1
  let s3 := if c == 1 then s2.setSite x { s2.site x with idleSince := s2.now } else s2
  s3.formSyncs

end Sys2Proof.Machine
end

