-- ==== Sys2Proof/Machine/Stops.lean ====
section
/-! DEFINITION. What stops play, units and engines, and what a fault does: drive levels at rest, fail records, the end
of units, safe-state entry (R363–R367), site faults (R73) and the raising of fault bits by class (R358–R363). -/

namespace Sys2Proof.Machine

/-! ### Waveforms and levels at rest (R116, R118, R125, R126) -/

/-- An entry of the default waveform table (R118). -/
def defaultWave (w : Nat) : WaveEntry :=
  let word := match w with
    | 0 => 0x2
    | 1 => 0x1
    | 2 => 0x3
    | 3 => 0x2500000003
    | 4 => 0x2900000003
    | 5 => 0x3
    | 6 => 0x2D00000003
    | 7 => 0x3100000003
    | _ => 0
  ⟨word, 0, if w = 0 then 3200 else 0⟩

/-- The key of waveform w of slot `slot` of channel c. -/
def waveKey (c slot w : Nat) : Nat := c * 1024 + slot * 16 + w

/-- A waveform entry as it is held. -/
def State.waveAt (s : State) (c slot w : Nat) : WaveEntry :=
  match Tab.get none s.wave (waveKey c slot w) with
  | some e => e
  | none => defaultWave w

/-- Time word k of a slot's table of 32 (R116). -/
def State.timeAt (s : State) (c slot k : Nat) : Nat :=
  let e := s.waveAt c slot (k / 2)
  bitsOf (if k % 2 = 0 then e.t0 else e.t1) 0 39

/-- The drive level an action leaves: 0 driver off, 1 high, 2 low. -/
def actLevel (a : Nat) : Nat := if a = 3 then 0 else a

/-- The key of a channel's idle waveform. -/
def State.idleKey (s : State) (c : Nat) : Nat := waveKey c (s.get F.WOD_CH_PIN.IDLE_SLOT c) (s.get F.WOD_CH_PIN.IDLE_WF c)

/-- Does word n of the waveform entry of a key hold an uncorrectable error (R133): each 8-byte word has its own ECC. -/
def State.badWord (s : State) (k n : Nat) : Bool := s.waveBad.contains (3 * k + n)

/-- The idle level of a channel (R125). An idle waveform with an uncorrectable error leaves the drive state as it is (R133). -/
def State.idleLevel (s : State) (c : Nat) : Nat :=
  let w := (s.waveAt c (s.get F.WOD_CH_PIN.IDLE_SLOT c) (s.get F.WOD_CH_PIN.IDLE_WF c)).word
  if s.badWord (s.idleKey c) 0 then (s.chan c).level
  else match [3, 2, 1, 0].find? (fun e => bitsOf w (8 * e) 2 != 0) with
    | some e => actLevel (bitsOf w (8 * e) 2)
    | none => (s.chan c).level

/-- A channel's drive state becomes a level at an instant; a change counts for spacing (R120). -/
def State.setLevel (s : State) (c lv t : Nat) : State :=
  let u := s.chan c
  if u.level = lv then s else s.setChan c { u with level := lv, lastTrans := some t }

/-- The level of a channel under the hold policy (R100, R126): the segment's UHOLD, or its own when UHOLD is 0. -/
def State.holdLevel (s : State) (c uhold : Nat) : Nat :=
  let p := if uhold = 0 then s.get F.WOD_CH_PIN.HOLD_POLICY c else uhold - 1
  if p = 1 then s.idleLevel c else if p = 2 then 0 else (s.chan c).level

/-- The event of a channel that comes first. -/
def firstDrive (l : List DriveEv) : Option DriveEv :=
  l.foldl (fun o d => match o with
    | none => some d
    | some f => if dtReached d.instant f.instant then some f else some d) none

/-- A transition dropped by the spacing rule (R120). -/
def State.dropEdge (s : State) (c : Nat) : State :=
  ((s.count F.WOD_CH_DROPS.COUNT (some F.WOD_CH_DROPS.OVF) c 20 1).set F.WOD_CH_STAT.EDGE_DROP c 1).set
    F.WOD_FAULT_STAT.EDGE_DROP (c / 128) 1

/-- Is a transition at instant t too close to the one before (R120). -/
def ChanUnit.tooClose (u : ChanUnit) (t : Nat) : Bool :=
  match u.lastTrans with
  | some l => !dtReached t (wrap64 (l + 3200))
  | none => false

/-- A drive event executes (R120). -/
def State.driveNow (s : State) (c : Nat) (d : DriveEv) : State :=
  let u := s.chan c
  let lv := actLevel d.act
  let s1 := s.setChan c { u with drive := u.drive.erase d }
  if u.level = lv then s1
  else if u.tooClose d.instant then s1.dropEdge c
  else s1.setChan c { s1.chan c with level := lv, lastTrans := some d.instant }

/-- The placed events of a channel that lie before an instant execute in their order: the channel leaves play there (R122). -/
def State.runEvents (s : State) (c t : Nat) : State :=
  s.each (List.range (s.chan c).drive.length) (fun s _ =>
    match firstDrive ((s.chan c).drive.filter (fun d => !dtReached d.instant t)) with
    | some d => s.driveNow c d
    | none => s)

/-- The placed events of a channel at or after an instant are discarded; those before it have their effect (R122). -/
def State.cutEvents (s : State) (c t : Nat) : State :=
  let s := s.runEvents c t
  let u := s.chan c
  s.setChan c { u with drive := u.drive.filter (fun d => !dtReached d.instant t),
                       cmps := u.cmps.filter (fun a => !dtReached a.t2 t) }

/-- The channels of a slice that its waveforms drive: those that are not in bus mode (R65). -/
def State.drivenChans (s : State) (i : Nat) : List Nat := (s.sliceChans i).filter (fun c => !s.busMode c)

/-- A read of a channel's idle waveform that meets an uncorrectable error sets WF_UNCORR (R133). -/
def State.idleRead (s : State) (c : Nat) : State :=
  if s.badWord (s.idleKey c) 0 then s.set F.WOD_FAULT_STAT.WF_UNCORR (c / 128) 1 else s

/-- Every channel of a slice takes its idle level at an instant, and later events are discarded. -/
def State.idleSlice (s : State) (i t : Nat) : State :=
  s.each (s.drivenChans i) (fun s c => ((s.cutEvents c t).idleRead c).setLevel c (s.idleLevel c) t)

/-- Every channel of a slice takes its hold level at an instant, and later events are discarded. At the first granule of a segment the
segment that has ended governs: the one that begins has not played (R100 names only the segment; notes/assumptions/88.md). -/
def State.holdSliceLevels (s : State) (i t : Nat) : State :=
  s.each (s.drivenChans i) (fun s c => (s.cutEvents c t).setLevel c (s.holdLevel c (s.slice i).uhold) t)

/-! ### Tokens to proxies -/

/-- The devices that hold joined slices of a site, other than this one (R76). -/
def State.joined (s : State) (x : Nat) : List Nat :=
  (List.range 32).filter (fun d => bitAt (s.get F.MDR_SITE_SPAN.DEV x) d && d != s.get F.DEV_NUMBER.NUMBER 0)

/-- A slice token of a kind goes to every joined device (R247). -/
def State.sendToken (s : State) (x kind release : Nat) (args : List Nat) : State :=
  s.each (s.joined x) (fun s d => s.tokenTo d kind x release args)

/-- A token goes from a proxy site to its home (R247). -/
def State.tokenHome (s : State) (x kind release : Nat) (args : List Nat) : State :=
  s.tokenTo (s.get F.SMAP_SITE.HOME_DEV x) kind (s.get F.SMAP_SITE.HOME_SITE x) release args

/-! ### Fail records (R144, R147, R148) -/

/-- The home site number carried in records (R147). -/
def State.homeSite (s : State) (x : Nat) : Nat := if s.proxy x then s.get F.SMAP_SITE.HOME_SITE x else x

/-- Does a vector cycle's boundary lie at or after the detection of a stop by fails (R146). The STOP token of a proxy carries neither the
detection nor the reason of the stop, so on a proxy it is a free value. -/
def State.afterStop (s : State) (x b : Nat) : Bool :=
  match (s.site x).stop, (s.site x).failDet with
  | some d, _ => if s.proxy x then s.fresh % 2 == 1 else d.kind != 3 && dtReached b d.detect
  | none, some f => dtReached b f
  | none, none => false

/-- A fail record of one block of 16 slice channels (R147). -/
def State.failRecord (s : State) (i : Nat) (v : VecVerdict) (blk : Nat) (lost : Bool) : List Byte :=
  let fs := v.fails.filter (fun f => f.idx / 16 == blk)
  let sum (g : ChanFail → Nat) : Nat := fs.foldl (fun a f => a ||| g f) 0
  toBytes 8 v.dt ++ toBytes 3 v.seg ++ toBytes 3 v.voff ++ toBytes 1 (s.homeSite (s.sliceSite i)) ++
    toBytes 1 (i / 32 + (if lost then 8 else 0) + (if s.afterStop (s.sliceSite i) v.dt then 16 else 0)) ++ toBytes 1 1 ++
    toBytes 1 (blk + 8 * s.get F.DEV_NUMBER.NUMBER 0) ++ toBytes 2 (sum (fun f => 1 <<< (f.idx % 16))) ++
    toBytes 6 (sum (fun f => f.expect <<< (3 * (f.idx % 16)))) ++
    toBytes 6 (sum (fun f => f.obs <<< (3 * (f.idx % 16))))

/-- The order in which records that share the earliest boundary are held (R144): device, tile, BLOCK. -/
def recordRank (b : List Byte) : Nat :=
  leAt b 17 1 / 8 * 64 + leAt b 15 1 % 8 * 8 + leAt b 17 1 % 8

/-- The first-fail capture of a home site takes a report, until the totals are final as the site enters DONE (R143, R144). -/
def State.firstFail (s : State) (x : Nat) (b : List Byte) : State :=
  if s.siteState x = 6 then s else
  let take (s : State) : State :=
    s.each (List.range 4) (fun s n => s.set F.SEP_CAP_FF_REC.DATA (4 * x + n) (leAt b (8 * n) 8))
  let held := (List.range 4).flatMap (fun n => toBytes 8 (s.get F.SEP_CAP_FF_REC.DATA (4 * x + n)))
  let d := leAt b 0 8
  if !s.flag F.SEP_CAP_STAT.FF_VALID x then
    ((take s).set F.SEP_CAP_FF_DT.DT x d).set F.SEP_CAP_STAT.FF_VALID x 1
  else
    let h := s.get F.SEP_CAP_FF_DT.DT x
    if d = h then
      (if recordRank b < recordRank held then take s else s).set F.SEP_CAP_STAT.FF_MULTI x 1
    else if dtReached h d then
      ((take s).set F.SEP_CAP_FF_DT.DT x d).set F.SEP_CAP_STAT.FF_MULTI x 0
    else s

/-- A fail record of a site is dropped (R148, R150). -/
def State.capLost (s : State) (x : Nat) : State :=
  (s.count F.SEP_CAP_LOST.COUNT (some F.SEP_CAP_LOST.OVF) x 15 1).set F.SEP_CAP_STAT.LOST_ANY x 1

/-- A fail record is staged in the tile, or dropped where the slice's 1,024 places are full (R148). -/
def State.stageRecord (s : State) (i : Nat) (v : VecVerdict) (blk : Nat) : State :=
  let u := s.slice i
  let x := s.sliceSite i
  let b := s.failRecord i v blk u.lostBefore
  let s := s.drew
  if 1024 ≤ u.staged.length then
    (((s.capLost x).set F.SEP_CAP_TFAULT_STAT.STAGE_OVF (i / 32) 1).setSlice i { u with lostBefore := true }).firstFail x b
  else
    let n := u.staged.length + 1
    ((s.setSlice i { u with staged := u.staged ++ [(x, b)], lostBefore := false }).set F.SEP_CAP_STAGE.LEVEL i n).set
      F.SEP_CAP_STAGE.PEAK i (max n (s.get F.SEP_CAP_STAGE.PEAK i))

/-- The records of one vector cycle are emitted in ascending BLOCK order (R147). -/
def State.emitVerdict (s : State) (i : Nat) (v : VecVerdict) : State :=
  s.each ((List.range 8).filter (fun k => v.fails.any (fun f => f.idx / 16 == k))) (fun s k => s.stageRecord i v k)

/-- The vector cycles of a slice whose actions have all ended emit their records. -/
def State.flushVerdicts (s : State) (i : Nat) : State :=
  let open_ (v : VecVerdict) : Bool := (s.sliceChans i).any (fun c => (s.chan c).cmps.any (fun a => a.n == v.n))
  let u := s.slice i
  (u.verdicts.filter (fun v => !open_ v)).foldl (fun s v => s.emitVerdict i v)
    (s.setSlice i { u with verdicts := u.verdicts.filter open_ })

/-- The limit of a site in mode 2 (R145). -/
def State.failLimit (s : State) (x : Nat) : Nat := max 1 (s.get F.SEP_CAP_LIMIT.VALUE x)

/-- A stop by fails is detected at DT d, unless one has been decided in this test already (R145, R146). -/
def State.detect (s : State) (x d : Nat) : State :=
  let u := s.site x
  if u.stop.isNone && !u.stopped && (s.siteState x == 3 || s.siteState x == 4 || s.siteState x == 5) then
    s.setSite x { u with failDet := match u.failDet with | some f => some (if dtReached d f then f else d) | none => some d }
  else s

/-- n failing results are added to a home site's total (R142, R143); in mode 2 the limit may be reached (R145). -/
def State.addFails (s : State) (x n : Nat) : State :=
  let s1 := s.count F.SEP_CAP_FAILS.COUNT (some F.SEP_CAP_FAILS.OVF) x 15 n
  let s2 := if s.saturates F.SEP_CAP_FAILS.COUNT x n then s1.set F.SEP_CAP_FAULT_STAT.CNT_OVF 0 1 else s1
  if s.get F.SEP_CAP_POLICY.STOP x = 2 && decide (s.get F.SEP_CAP_FAILS.COUNT x < s.failLimit x) &&
      decide (s.failLimit x ≤ s2.get F.SEP_CAP_FAILS.COUNT x) then s2.detect x s2.now
  else s2

/-- The fail counts a slice has made since its last granule boundary are added to its site; a proxy slice sends them
home (R143, R247). -/
def State.addCounts (s : State) (i : Nat) : State :=
  let u := s.slice i
  let x := s.sliceSite i
  if u.failAdd = 0 then s
  else
    let s1 := s.setSlice i { u with failAdd := 0 }
    if s.proxy x then s1.tokenHome x 14 0 [i / 32, u.failAdd] else s1.addFails x u.failAdd

/-- A channel's compare mask that waits takes effect (R141). -/
def State.forceMask (s : State) (c : Nat) : State :=
  let u := s.chan c
  match u.maskNext with
  | some (m, _) => (s.setChan c { u with maskNow := m, maskNext := none }).set F.SEP_CMP_CH_STAT.MASK_PEND c 0
  | none => s

/-- The masks that wait in a slice take effect because it does not play (R141). -/
def State.forceMasks (s : State) (i : Nat) : State := s.each (s.sliceChans i) (fun s c => s.forceMask c)

/-! ### Slots of the vector store (R94) -/

/-- The columns of a segment in the tile of slice i (R92). -/
def Desc.width (d : Desc) (t : Nat) : Nat := d.cols.getD t 0

/-- Is a streamed segment its own jump target: two granules more of it are prefetched as a target's (R94, R106). -/
def Desc.selfTarget (d : Desc) : Bool := d.streamed && !d.target && (d.jt0 == d.seg || d.jt1 == d.seg)

/-- The slots that a segment takes in a tile (R94). -/
def Desc.slots (d : Desc) (t : Nat) : Nat :=
  d.width t * (if d.streamed then (if d.target then 2 else min d.ring d.len + (if d.selfTarget then 2 else 0)) else d.len)

/-- Slots go back to the free pool. -/
def State.freeSlots (s : State) (i n : Nat) : State :=
  let t := i / 32
  (s.set F.VST_SLOTS.FREE t (s.get F.VST_SLOTS.FREE t + n)).set F.VST_SLICE.SLOTS i (s.get F.VST_SLICE.SLOTS i - n)

/-- A slice keeps no segment: its slots are free and the next admission of a segment reads its descriptor anew (R93, R94). -/
def State.dropAll (s : State) (i : Nat) : State :=
  let u := s.slice i
  let n := u.admitted.foldl (fun a d => a + d.slots (i / 32)) 0
  let s1 := s.setSlice i { u with admitted := [] }
  ({ s1 with grans := s1.grans.filter (fun g => g.slice != i) }).freeSlots i n

/-! ### Ending play -/

/-- Queue and player of a slice are emptied: nothing plays and nothing waits. -/
def SliceUnit.cleared (u : SliceUnit) : SliceUnit :=
  { u with queue := [], inbound := [], entry := none, playing := false, needEntry := false, segNew := false,
           repLeft := 0, loops := [], mat := {}, matchGran := false, checked := none, segEnd := none, again := false,
           missed := none }

/-- Nothing waits in a slice that has stopped for good: its queue is discarded and its slots are free (R94, R171). -/
def State.emptySlice (s : State) (i : Nat) : State :=
  ((s.setSlice i { s.slice i with queue := [], inbound := [] }).set F.SLP_STAT.QUEUED i 0).dropAll i

/-- A slice ends play at a boundary with nothing queued, as after END (R89): idle levels, records and counts final. -/
def State.endSlice (s : State) (i b : Nat) : State :=
  let s1 := (s.idleSlice i b).flushVerdicts i
  let s2 := (s1.addCounts i).forceMasks i
  let s3 := s2.setSlice i { (s2.slice i).cleared with endDT := some b, verdicts := [] }
  ((((s3.set F.SLP_STAT.STATE i 4).set F.SLP_STAT.QUEUED i 0).set F.SLP_STAT.LOOPS i 0).set F.SLP_STAT.MATCH_WAIT i 0)

/-- A slice stops at a boundary under the hold policies (R100, R122, R158); its queue is kept. -/
def State.stopSlice (s : State) (i b : Nat) : State :=
  let s1 := (s.holdSliceLevels i b).flushVerdicts i
  let s2 := (s1.addCounts i).forceMasks i
  ((s2.setSlice i { s2.slice i with playing := false, checked := none, reported := false }).set F.SLP_STAT.STATE i 3).set
    F.WOD_SLICE_BOUNDARY.DT i b

/-! ### Ending units (R176, R185, R189, R197) -/

/-- A record in collection closes early with TRUNC_POST and the samples already taken (R185). It has its trigger sample too, by
R187; where the interval of that sample has not ended, the states it saw are a free value, at least one of them
(notes/assumptions/96.md). -/
def State.cutRecord (s : State) (c : Nat) : State :=
  let u := s.acqU c
  let noplay := match u.trig with | some t => t.noplay | none => true
  let s1 := s.set F.SEP_ACQ_CH_STAT.STATE c 4
  if noplay || u.tsamp.isSome then s1.setAcqU c { u with trunc := true }
  else s1.drew.setAcqU c { u with trunc := true, tsamp := some (9 + s.fresh % 7) }

/-- An acquisition unit is disarmed; a record in collection closes with TRUNC_POST (R185). -/
def State.disarmUnit (s : State) (c : Nat) : State :=
  let u := s.acqU c
  match s.get F.SEP_ACQ_CH_STAT.STATE c with
  | 1 | 2 => (s.set F.SEP_ACQ_CH_STAT.STATE c 0).setAcqU c { u with armAt := none }
  | 3 =>
    let s1 := s.cutRecord c
    s1.setAcqU c { s1.acqU c with disarmWhileMoving := true }
  | 4 => s.setAcqU c { u with disarmWhileMoving := true }
  | _ => s

/-- The CHEVSEL code of a channel (R298). -/
def State.chevsel (s : State) (c : Nat) : Nat := s.byteOf F.EVF_CHEVSEL.CODE c

/-- The channel event fires if CHEVSEL selects the occurrence, unless Mordant holds the channel or its group is not
ON (R298). -/
def State.channelEvent (s : State) (c code : Nat) : State :=
  if s.chevsel c == code && s.chanOn c && !s.flag F.MRD_CH_QF.HELD c then s.fire c else s

/-- A measurement unit that is starting or running enters DONE (R197), STALE while Mordant holds its channel (R200). -/
def State.measDone (s : State) (c : Nat) (incomplete : Bool) : State :=
  let s1 := (s.set F.TIA_CH_STAT.STATE c 3).set F.TIA_CH_STAT.INCOMPLETE c (ofBool incomplete)
  let held := if s.flag F.MRD_CH_QF.HELD c then s1.set F.TIA_CH_STAT.STALE c 1 else s1
  let s2 := (held.set F.TIA_CH_DONE_DT.DT c s.now).setTiaU c
    { s.tiaU c with startAt := none, startStamp := none, lastA := none, lastB := none, pairEnd := none,
                     prevStamp := none, gateFirst := none }
  s2.channelEvent c 7

/-- A measurement unit ends early with INCOMPLETE set (R197). -/
def State.endMeas (s : State) (c : Nat) : State :=
  if s.get F.TIA_CH_STAT.STATE c == 1 || s.get F.TIA_CH_STAT.STATE c == 2 then s.measDone c true else s

/-- Every unit of a site is disarmed or ended (R189, R197). -/
def State.endUnits (s : State) (x : Nat) : State :=
  s.each (s.siteChans x) (fun s c => (s.disarmUnit c).endMeas c)

/-- The delay that a reflection found for a channel awaits commit, or NORET does (R221). -/
def State.settleRefl (s : State) (x c : Nat) : State :=
  let u := s.trimU c
  let n := u.reflSteps.length
  let u1 := { u with reflSteps := [], reflDone := false }
  if !u.reflDone || n = 0 then s.setTrimU c { u with reflSteps := [], reflDone := false }
  else if u.reflSteps.any (fun p => !p.2) then
    ((s.set F.MRD_CH_REFL.NORET c 1).setTrimU c { u1 with fix := some ⟨s.get F.WOD_CH_FIXDELAY.DELAY c, false, s.now⟩ }).set
      F.MRD_CH_REFL.PEND c 1
  else
    let d := (s.roundDiv ((u.reflSteps.foldl (fun a p => a + p.1) 0 : Nat) : Int) (2 * n)).toNat
    let was := s.get F.WOD_CH_FIXDELAY.DELAY c
    let s1 := ((s.drew.set F.MRD_CH_REFL.D c d).set F.MRD_CH_REFL.PEND c 1).setTrimU c
      { u1 with fix := some ⟨d, decide (d ≤ 128000), s.now⟩ }
    if decide (was + s.get F.MRD_REFL_CFG.JUMP x < d) || decide (d + s.get F.MRD_REFL_CFG.JUMP x < was) then
      (s1.set F.MRD_CH_REFL.CHANGED c 1).set F.MRD_FAULT_STAT.REFL_CHANGED (c / 128) 1
    else s1

/-- A reflection in progress ends, whole or with PARTIAL (R221). -/
def State.endReflection (s : State) (x : Nat) (part : Bool) : State :=
  if s.get F.MRD_REFL_STAT.STATE x == 2 then
    let s1 := ((s.set F.MRD_REFL_STAT.STATE x 3).set F.MRD_REFL_STAT.PARTIAL x (ofBool part)).set F.MRD_REFL_DT.DT x s.now
    s1.each (s1.siteChans x) (fun s c => s.settleRefl x c)
  else s

/-! ### Bus engines (R262, R268) -/

/-- Every queued descriptor of an engine is completed as FLUSHED; its write-back follows (R262). The frame on the
medium ends at once. -/
def State.flushBus (s : State) (e : Nat) : State :=
  let u := s.bus e
  let gone := u.slow.map (fun m => m.1) ++ u.queue
  let s1 := s.setBus e { u with queue := [], slow := [], finished := u.finished ++ gone.map (fun d => (d, 6, 0, 0)) }
  let s2 := s1.set F.BUS_STAT.TXQ e 0
  if s.get F.BUS_STAT.STATE e == 2 then s2.set F.BUS_STAT.STATE e (s.get F.BUS_CTRL.RUN e) else s2

/-! ### Tests and their ends -/

/-- The bin of the current test (R157, R170). -/
def State.setBin (s : State) (x b : Nat) : State := (s.set F.MDR_STEP_BIN.BIN x b).set F.MDR_STEP_BIN.VALID x 1

/-- A command of MDR_SITE_CMD is answered (R79). -/
def State.answer (s : State) (x r : Nat) : State := (s.set F.MDR_SITE_CMD_RES.RESULT x r).set F.MDR_SITE_CMD_RES.BUSY x 0

/-- An abort that no boundary sampled is answered with a result (R170). -/
def State.answerAbort (s : State) (x r : Nat) : State :=
  if (s.site x).abortPend then
    (if (s.site x).abortReg then s.answer x r else s.set F.MDR_SITE_CMD_RES.BUSY x (ofBool (s.site x).resetAt.isSome)).setSite x
      { s.site x with abortPend := false, abortReg := false, abortAns := some r }
  else s

/-- The step context stops; a barrier at which it waited has one arrival less (R165). -/
def State.stopCtx (s : State) (x : Nat) : State :=
  let s1 := (s.set F.MDR_STEP_STAT.STATE x 0).setCtx x { s.ctx x with wait := none }
  match (s.ctx x).wait with
  | some w => if w.op = opSync then s1.formSync w.aux else s1
  | none => s1

/-- An open trim window closes (R166). -/
def State.closeTrim (s : State) (x : Nat) : State :=
  if s.flag F.MDR_SITE_STATE.TRIMOK x then
    (((s.set F.MDR_SITE_STATE.TRIMOK x 0).set F.MDR_STEP_TRIM.DT x 0).setSite x
      { s.site x with trimClosed := s.now }).endReflection x true
  else s

/-- A site enters DONE (R68): units ended, slices idle, DONE DT recorded. -/
def State.enterDone (s : State) (x : Nat) : State :=
  let s0 := s.answerAbort x (if s.get F.MDR_SITE_STATE.OUTCOME x = 1 then 6 else 1)
  let s1 := (((s0.stopCtx x).closeTrim x).endUnits x).set F.MDR_SITE_DONE_DT.DT x s.now
  let s2 := s1.each (s.slicesOf x) (fun s i =>
    ((s.setSlice i (s.slice i).cleared).emptySlice i).set F.SLP_STAT.STATE i 0)
  let u := s2.site x
  let s3 := s2.setSite x { u with stop := none, hold := none, resume := none, jumps := [], tsImm := [], tsQueued := none,
                                  start := none, ready := none, waitGroups := [], entered := false, faultAt := none,
                                  failDet := none, ctxStop := false, completed := false, alignKept := false,
                                  toldStart := false, farSent := 0, stopped := false }
  (s3.set F.MDR_SITE_STATE.ALIGN_WAIT x 0).enterState x 6

/-- Do other sites that wait for the ladder need a group. -/
def State.othersWait (s : State) (x g : Nat) : Bool :=
  (List.range 256).any (fun y => y != x && (s.site y).waitGroups.contains g)

/-- A ladder request without a site: a request that only this site made is gone, one of a set keeps the groups that other sites
need (R74, R78). -/
def State.withoutSite (s : State) (x : Nat) (r : LadderReq) : Option LadderReq :=
  if r.sites.contains x then
    let gs := r.groups.filter (fun g => s.othersWait x g)
    if r.sites.filter (· != x) = [] || gs = [] then none else some { r with sites := r.sites.filter (· != x), groups := gs }
  else some r

/-- The pending admissions of a site are withdrawn: those not yet taken, and those in the ladder's queue that no other site waits for
(R78, R171). An admission in progress goes on. -/
def State.withdrawLadder (s : State) (x : Nat) : State :=
  let p := s.pwr
  let mine := (s.site x).waitGroups.filter (fun g => s.running && p.queue.contains (.powerUp g) && !s.othersWait x g)
  let q := p.queue.filter (fun j => match j with | .powerUp g => !mine.contains g | .retire _ => true)
  let s1 := s.setSite x { s.site x with waitGroups := [] }
  let s2 := s1.each mine (fun s g => s.setGroup g 1)
  ({ s2 with pwr := { p with requests := p.requests.filterMap (fun r => s.withoutSite x r), queue := q } }).set
    F.PWR_STAT.QUEUED 0 q.length

/-- A site fault (R73): FAULTED with its cause. The context stops at its next boundary and playing slices at their
next granule boundary; after the start instant and before completion the test ends ABORTED (R170), where this device has the
test's outcome and bin (R75). The requested start of a member of a set that has entered the ladder stays (R375). -/
def State.siteFault (s : State) (x cause : Nat) : State :=
  let st := s.siteState x
  if st == 0 || st == 7 then s else
  let s1 := (s.answerAbort x 1).set F.MDR_SITE_FCAUSE.CAUSE x cause
  let s2 := if (st == 3 || st == 4) && !s.proxy x then (s1.set F.MDR_SITE_STATE.OUTCOME x 2).setBin x 1023 else s1
  let s3 := (s2.closeTrim x).endUnits x
  let s4 := s3.setSite x { s3.site x with faultAt := some s.now, start := none, resume := none, stop := none,
                                          hold := none, jumps := [], failDet := none, ctxStop := false,
                                          alignKept := s.aligned x && st == 2 && (s.site x).entered }
  let s5 := s4.setCtx x { s4.ctx x with faultPend := true }
  let s6 := s5.each (s5.slicesOf x) (fun s i =>
    if (s.slice i).playing then s else (s.holdSliceLevels i s.now).emptySlice i)
  let s7 := if s.proxy x then s6 else s6.sendToken x 11 (wrap64 (s.now + s.img.leadHop)) [7]
  (s7.set F.MDR_SITE_STATE.ALIGN_WAIT x 0).enterState x 7

/-! ### Safe state (R363–R367) -/

/-- A site at safe-state entry (R68, R70, R365, R366). -/
def State.safeSite (s : State) (x : Nat) : State :=
  let st := s.siteState x
  if activeCode st then
    if s.proxy x then
      (s.tokenHome x 5 0 []).enterDone x
    else
      let s1 := s.answerAbort x 1
      let s2 := if st == 5 && (s.site x).completed then s1 else s1.set F.MDR_SITE_STATE.OUTCOME x 2
      ((s2.setBin x 1022).withdrawLadder x).sendToken x 11 (wrap64 (s.now + s.img.leadHop)) [6] |>.enterDone x
  else s

/-- A slice at safe-state entry: its vector time stops, its queue is discarded, later compares are not judged. -/
def State.safeSlice (s : State) (i : Nat) : State :=
  if s.sliceValid i then
    let s1 := s.idleSlice i s.now |>.flushVerdicts i
    let s2 := (s1.addCounts i).forceMasks i
    ((s2.setSlice i { (s2.slice i).cleared with endDT := some s.now, verdicts := [] }).set F.SLP_STAT.STATE i 0).emptySlice i
  else s

/-- The level of the TRIG_OUT balls in safe state (R307). -/
def State.trigSafe (s : State) : State :=
  let p := s.pins
  { s with pins := { p with trigOut := (p.trigOut &&& (0xFFFF ^^^ s.img.trigForce)) ||| (s.img.trigLevel &&& s.img.trigForce) } }

/-- Everything that safe state does to the rest of the part at entry (R365). -/
def State.safeEffects (s : State) : State :=
  let s1 := s.each (List.range 256) (fun s i => s.safeSlice i)
  let s2 := s1.each (List.range 256) (fun s x => s.safeSite x)
  let s3 := s2.each (List.range 1024) (fun s c => (s.disarmUnit c).endMeas c)
  let s4 := s3.each (List.range 64) (fun s e => if s.get F.BUS_CFG.PROTOCOL e != 0 then s.flushBus e else s)
  let s5 := s4.each (List.range 256) (fun s x => s.endReflection x true)
  s5.trigSafe

/-- The causes latched together are recorded, the entry counted and stamped (R363, R367). -/
def State.latchEntry (s : State) (bits : Nat) : State :=
  ((((s.set F.CIN_CAUSE.CAUSE 0 (s.get F.CIN_CAUSE.CAUSE 0 ||| bits)).set F.CIN_CAUSE_SEEN.CAUSE 0 bits).stamp
    F.CIN_ENTRY_DT.DT 0 s.now).count F.CIN_ENTRIES.COUNT (some F.CIN_ENTRIES.OVF) 0 4 1)

/-- A cause that arrives while safe state holds: its bits are added (R367). -/
def State.addCause (s : State) (bits : Nat) : State :=
  (s.set F.CIN_CAUSE.CAUSE 0 (s.get F.CIN_CAUSE.CAUSE 0 ||| bits)).set F.CIN_CAUSE_SEEN.CAUSE 0
    (s.get F.CIN_CAUSE_SEEN.CAUSE 0 ||| bits)

/-- An accepted exit is withdrawn. -/
def State.voidExit (s : State) : State :=
  { s.set F.CIN_STAT.EXIT_PEND 0 0 with safe := { s.safe with exitAt := none } }

/-- An exit is refused (R368). -/
def State.refuseExit (s : State) : State := (s.set F.CIN_STAT.EXIT_REJ 0 1).set F.CIN_FAULT_STAT.EXIT_REJ 0 1

/-- Safe state is entered on the causes whose bits are given (R363); while it holds, the bits are added, and an
accepted exit becomes void and the entry counts again. An exit accepted at the same DT is refused instead (R367). -/
def State.enterSafe (s : State) (bits : Nat) : State :=
  if s.isSafe then
    if !s.flag F.CIN_STAT.EXIT_PEND 0 then s.addCause bits
    else if s.safe.exitAt = some (wrap64 (s.now + ns 120)) then (s.voidExit.refuseExit).addCause bits
    else (s.latchEntry bits).voidExit
  else
    let s1 := ((s.latchEntry bits).set F.CIN_STAT.SAFE 0 1).set F.DEV_STATE.SAFE 0 1
    let s2 := { s1 with pins := { s1.pins with safeOutLow := true } }
    (s2.safeEffects).fire 1458

/-! ### Raising fault bits (R358–R363) -/

/-- The class-U sources of block i, by bit of its FAULT_STAT (R361, in the order of R362). -/
def classU (i : Nat) : Nat :=
  match i with
  | 1 => 0x2      -- CFG LOAD_FAIL
  | 2 => 0x80     -- PWR SETTLE_FAIL
  | 7 => 1 <<< F.MBX_FAULT_STAT.ECC_UNCORR.lo
  | 8 => 1 <<< F.DMC_FAULT_STAT.ECC_UNCORR.lo
  | 9 => 1 <<< F.LAK_FAULT_STAT.ECC_UNCORR.lo
  | 10 => 1 <<< F.SAF_FAULT_STAT.STATE_UNCORR.lo
  | 11 => (1 <<< F.SVC_FAULT_STAT.WDOG.lo) + (1 <<< F.SVC_FAULT_STAT.KEY_UNCORR.lo)
  | 12 => 1 <<< F.HRG_FAULT_STAT.RING_ADDR.lo
  | 13 => (1 <<< F.LNK_FAULT_STAT.DUP_DEV.lo) + (1 <<< F.LNK_FAULT_STAT.TWO_MASTERS.lo)
  | 14 => 0x11    -- MDR_STEP CTX_FAULT, MISSED_RELEASE
  | 15 => 0x6     -- SEP_CAP TAG_MISMATCH, RING_ADDR
  | 16 => 0x6     -- SEP_ACQ TAG_MISMATCH, RING_ADDR
  | 18 => 0x5     -- VST NOSPACE, SEG_INVALID
  | 19 => 0x26    -- SLP BADLOOP, CTRL_DIVERGE, MISSED_RELEASE
  | 20 => 0x1A    -- WOD WF_UNCORR, PER_UNCORR, TSET_UNDEF
  | 26 => 0x1     -- TLK DOWN
  | 27 => 0xC     -- BUS RING_ADDR, TAG_MISMATCH
  | _ => 0

/-- Is a class-U source of block i escalated by SAFE_STATES (R362). -/
def State.escalated (s : State) (i bit : Nat) : Bool := bitAt (Tab.get 0 s.img.escalate i) bit

/-- The FAULT_STAT of block i, and how many instances it has (R362). -/
def blockStat (i : Nat) : Reg × Nat :=
  match i with
  | 0 => (.DEV_FAULT_STAT, 1)
  | 1 => (.CFG_FAULT_STAT, 1)
  | 2 => (.PWR_FAULT_STAT, 1)
  | 3 => (.UMB_FAULT_STAT, 1)
  | 4 => (.CIN_FAULT_STAT, 1)
  | 5 => (.IRC_FAULT_STAT, 1)
  | 6 => (.EVF_FAULT_STAT, 1)
  | 7 => (.MBX_FAULT_STAT, 1)
  | 8 => (.DMC_FAULT_STAT, 1)
  | 9 => (.LAK_FAULT_STAT, 1)
  | 10 => (.SAF_FAULT_STAT, 1)
  | 11 => (.SVC_FAULT_STAT, 1)
  | 12 => (.HRG_FAULT_STAT, 1)
  | 13 => (.LNK_FAULT_STAT, 1)
  | 14 => (.MDR_STEP_FAULT_STAT, 1)
  | 15 => (.SEP_CAP_FAULT_STAT, 1)
  | 16 => (.SEP_ACQ_FAULT_STAT, 1)
  | 17 => (.PCI_FAULT_STAT, 1)
  | 18 => (.VST_FAULT_STAT, 8)
  | 19 => (.SLP_FAULT_STAT, 8)
  | 20 => (.WOD_FAULT_STAT, 8)
  | 21 => (.SEP_CMP_FAULT_STAT, 8)
  | 22 => (.SEP_CAP_TFAULT_STAT, 8)
  | 23 => (.SEP_ACQ_TFAULT_STAT, 8)
  | 24 => (.TIA_FAULT_STAT, 8)
  | 25 => (.MRD_FAULT_STAT, 8)
  | 26 => (.TLK_FAULT_STAT, 8)
  | _ => (.BUS_FAULT_STAT, 64)

/-- A register's value at an index, its fields in place and its other bits 0. -/
def State.regVal (s : State) (r : Reg) (i : Nat) : Nat := r.fields.foldl (fun v f => v + s.get f i * 2 ^ f.lo) 0

/-- Is an escalated class-U bit of block i set in one of its instances (R362). -/
def State.escalates (s : State) (i : Nat) : Bool :=
  let m := Tab.get 0 s.img.escalate i &&& classU i
  m != 0 && (List.range (blockStat i).2).any (fun k => s.regVal (blockStat i).1 k &&& m != 0)

/-- Does the sticky bit or the condition behind a cause of safe state still stand (R368). Those of SAFE_IN_n and CIN_FORCE
are not judged here. -/
def State.causeHolds (s : State) (b : Nat) : Bool :=
  match b with
  | 2 => s.flag F.DEV_FAULT_STAT.THERM_TRIP 0 || (List.range 9).any (fun n => s.flag F.DEV_TEMP.VALID n &&
      decide (112 * 16 ≤ toInt 16 (s.get F.DEV_TEMP.TEMP n)))
  | 3 => s.get F.PWR_FAULT_STAT.UV 0 != 0 || s.pwr.heldRails != 0
  | 4 => s.flag F.UMB_FAULT_STAT.XTAL_FAIL 0 || s.flag F.UMB_STAT.BACKUP 0
  | 5 => s.flag F.DMC_FAULT_STAT.OP_FAIL 0 || s.dramDead
  | 6 => s.flag F.SVC_FAULT_STAT.FW_UNCORR 0
  | 7 => s.flag F.MDR_STEP_FAULT_STAT.ROM_UNCORR 0
  | 8 => (List.range 8).any (fun t => s.flag F.SLP_FAULT_STAT.ROM_UNCORR t)
  | 9 => (List.range 28).any (fun i => s.escalates i)
  | _ => true

/-- The bits of CIN_CAUSE whose sticky bit is clear and whose condition is gone are cleared (R368). -/
def State.recause (s : State) : State :=
  let v := s.get F.CIN_CAUSE.CAUSE 0
  s.set F.CIN_CAUSE.CAUSE 0 (((List.range 10).filter (fun b => bitAt v b && s.causeHolds b)).foldl (fun n b => n + 2 ^ b) 0)

/-- A class-C source sets its sticky bit. -/
def State.raiseC (s : State) (f : Fld) (i : Nat) : State := s.set f i 1

/-- A port B write to a bank that the loader owns sets PORTB_DENY (R322). -/
def State.denyB (s : State) (a n : Nat) : State :=
  if s.loaderSpan a n then s.raiseC F.LAK_FAULT_STAT.PORTB_DENY 0 else s

/-- A class-U source of block blk sets its sticky bit, and enters safe state where it is escalated (R362). -/
def State.raiseU (s : State) (blk : Nat) (f : Fld) (i : Nat) : State :=
  if s.escalated blk f.lo then (s.set f i 1).enterSafe 0x200 else s.set f i 1

/-- A class-F source sets its sticky bit and enters safe state with its cause bit (R363). -/
def State.raiseF (s : State) (f : Fld) (i cause : Nat) : State := (s.set f i 1).enterSafe (1 <<< cause)

/-- A class-U fault of a block that a rule attributes to a site: the bit is raised and the site faults (R73, cause 6
unless the rule names another). -/
def State.faultSite (s : State) (blk : Nat) (f : Fld) (i x cause : Nat) : State := (s.raiseU blk f i).siteFault x cause

/-! ### Memory with its check bits (R322, R326, R327) -/

/-- The DRAM words known to hold an uncorrectable error that n bytes from an address touch. -/
def State.badIn (s : State) (a n : Nat) : List Nat := s.dramBad.filter (fun w => decide (8 * w < a + n) && decide (a < 8 * w + 8))

/-- Does a write of n bytes from an address store word w whole. -/
def wholeWord (a n w : Nat) : Bool := decide (a ≤ 8 * w) && decide (8 * w + 8 ≤ a + n)

/-- What the check of n bytes from an address finds, where it would find `e` in a checked store: nothing outside CONTROL regions and
loader-owned banks, and an uncorrectable error in a word that is known to hold one. -/
def State.eccAt (s : State) (lake : Bool) (a n : Nat) (e : Ecc) : Ecc :=
  if lake then (if s.loaderSpan a n then e else .clean)
  else if (s.region 2 a n).isSome then (if (s.badIn a n).isEmpty then e else .uncorrectable)
  else .clean

/-- The flags of an error found in Lake or in DRAM. -/
def State.eccRaise (s : State) (lake : Bool) (e : Ecc) : State :=
  match e with
  | .clean => s
  | .corrected => s.raiseC (if lake then F.LAK_FAULT_STAT.ECC_CORR else F.DMC_FAULT_STAT.ECC_CORR) 0
  | .uncorrectable => if lake then s.raiseU 9 F.LAK_FAULT_STAT.ECC_UNCORR 0 else s.raiseU 8 F.DMC_FAULT_STAT.ECC_UNCORR 0

/-- Are n bytes from an address unreadable for an uncorrectable error that is known. -/
def State.eccBad (s : State) (lake : Bool) (a n : Nat) : Bool := s.eccAt lake a n .clean == .uncorrectable

/-- Bytes go to DRAM. A word with an uncorrectable error takes a whole word; a write of a part of it is dropped (R326). -/
def State.dramPut (s : State) (a : Nat) (bs : List Byte) : State :=
  let kept := s.dramBad.filter (fun w => !wholeWord a bs.length w)
  if (s.badIn a bs.length).all (fun w => wholeWord a bs.length w) then { s.putBytes false a bs with dramBad := kept }
  else
    let s1 := s.each (List.range bs.length) (fun s k =>
      if kept.contains ((a + k) / 8) then s else s.putByte false (a + k) (bs.getD k 0))
    ({ s1 with dramBad := kept }).raiseU 8 F.DMC_FAULT_STAT.ECC_UNCORR 0

/-- Bytes go to memory: a write outside every usable part of DRAM is dropped with NO_REGION (R326). -/
def State.dmaWrite (s : State) (lake : Bool) (a : Nat) (bs : List Byte) : State :=
  if lake then s.putBytes true a bs
  else if (s.region 0 a bs.length).isSome then s.dramPut a bs
  else s.raiseC F.DMC_FAULT_STAT.NO_REGION 0

end Sys2Proof.Machine
end

