-- ==== Sys2Proof/Machine/Access.lean ====
section
/-! DEFINITION. Which agent reaches which register in which device state (R45, R59), a register read whole, and the sending of
MSI-X messages (R312, R337). -/

namespace Sys2Proof.Machine

/-! ### Registers as words (R6–R8) -/

/-- The value that a write gives a field. -/
def Fld.part (f : Fld) (v : Nat) : Nat := bitsOf v f.lo f.w

/-- Does a register stand between two others in the order of spec/. -/
def Reg.within (r a b : Reg) : Bool := decide (a.ctorIdx ≤ r.ctorIdx) && decide (r.ctorIdx ≤ b.ctorIdx)

/-- The registers of the DEV, CFG, PWR, UMB and CIN blocks (R59). -/
def Reg.inBoot (r : Reg) : Bool :=
  r.within .DEV_ID .CFG_KEYHASH_IN || r.within .UMB_DT .UMB_FAULT_MASK || r.within .CIN_STAT .CIN_CORE_RESET

/-- The registers that PF0 and PF1 reach in Dormant (R45). -/
def Reg.inDormant (r : Reg) : Bool :=
  r.inBoot || r.within .EVF_STAT .EVF_MATRIX || r.within .HRG_FAULT_STAT .HRG_MGT_SEEN

/-- Does an agent's access reach a register in the device state (R45, R59). In POWERING the endpoint answers from the
admission of its island, the fifth (R37); in Dormant the service cluster is off. Units that VCORE or a PCI Express rail feeds are
held after its under-voltage (R36). -/
def State.reaches (s : State) (a : Agent) (r : Reg) : Bool :=
  if s.railHeld 0x61 then false else
  match s.dev with
  | 0 => false
  | 1 => decide (5 ≤ s.pwr.coldIdx) && (r.inBoot || (a == .pf1 && (decide (6 ≤ s.pwr.coldIdx) || !r.within .LNK_TIME_STAT .LNK_PORT_TRAIN)))
  | 6 => (a == .pf0 || a == .pf1) && r.inDormant
  | 4 => true
  | 5 => true
  | _ => a != .pf0 || r.inBoot

/-! ### Deliverable sources and messages (R311, R312, R337) -/

/-- Does source n serve slot x: 0–15 cores, 16–47 vectors of PF0, 48–55 vectors of PF1 (R311). -/
def State.serves (s : State) (n x : Nat) : Bool :=
  let t := s.get F.IRC_SRC.TARGETS n
  let v := s.get F.IRC_SRC.VECTOR n
  if x < 16 then bitAt t x else if x < 48 then bitAt t 16 && v == x - 16 else bitAt t 17 && v == x - 48

/-- Is source n pending, not masked, and its group not holding off (R312). -/
def State.deliverable (s : State) (n : Nat) : Bool :=
  s.mapBit F.IRC_PEND.SRC 0 n && !s.mapBit F.IRC_MASK.SRC 0 n && s.get F.IRC_HOLDOFF.ACTIVE (n / 64) == 0

/-- The number of a function. -/
def fnNum : Func → Nat
  | .pf0 => 0
  | .pf1 => 1

/-- The first slot of a function, and the number of its vectors (R311). -/
def fnSlots : Func → Nat × Nat
  | .pf0 => (16, 32)
  | .pf1 => (48, 8)

/-- The PBA of a function. -/
def fnPba : Func → Fld
  | .pf0 => F.PCI_MSIX0_PBA.PEND
  | .pf1 => F.PCI_MSIX1_PBA.PEND

/-- The mask bit of a function's vectors. -/
def fnMask : Func → Fld
  | .pf0 => F.PCI_MSIX0_CTRL.MASK
  | .pf1 => F.PCI_MSIX1_CTRL.MASK

/-- May a function send a message on a vector: MSI-X enabled, function and vector not masked, not in Dormant (R317, R337). -/
def State.msixOpen (s : State) (f : Func) (v : Nat) : Bool :=
  Tab.get 0 s.irc.msixOn (fnNum f) == 1 && Tab.get 0 s.irc.msixMask (fnNum f) == 0 && s.get (fnMask f) v == 0 && s.dev != 6

/-- A message on a vector is sent, or its PBA bit is set (R337). -/
def State.sendMsix (s : State) (f : Func) (v : Nat) : State :=
  if s.msixOpen f v then s.emit (.msix f v) else s.set (fnPba f) 0 (setBit (s.get (fnPba f) 0) v)

/-- A source that is deliverable to a slot of a function sends one message there (R312). -/
def State.deliver (s : State) (n : Nat) : State :=
  if s.deliverable n then
    let t := s.get F.IRC_SRC.TARGETS n
    let v := s.get F.IRC_SRC.VECTOR n
    let s1 := if bitAt t 16 then s.sendMsix .pf0 v else s
    if bitAt t 17 && decide (v < 8) then s1.sendMsix .pf1 v else s1
  else s

/-- Is some source deliverable to slot x. -/
def State.slotWaits (s : State) (x : Nat) : Bool := (List.range 1977).any (fun n => s.deliverable n && s.serves n x)

/-- After an unmask: one message on every open vector with its PBA bit set that still has a deliverable source (R337). -/
def State.flushMsix (s : State) (f : Func) : State :=
  s.each (List.range (fnSlots f).2) (fun s v =>
    if bitAt (s.get (fnPba f) 0) v && s.msixOpen f v then
      let s1 := s.set (fnPba f) 0 (clearBit (s.get (fnPba f) 0) v)
      if s1.slotWaits ((fnSlots f).1 + v) then s1.emit (.msix f v) else s1
    else s)

end Sys2Proof.Machine
end

