-- ==== Sys2Proof/Machine/Irc.lean ====
section
/-! DEFINITION. The interrupt controller (spec/15_events_interrupts.md, R310–R317): line levels, pending sources, claims,
completions, masks and hold-off. -/

namespace Sys2Proof.Machine

/-! ### Line levels (R310, R351, R359) -/

/-- Are there unmasked fault bits in a FAULT_STAT and FAULT_MASK pair (R359). -/
def State.faultLine (s : State) (st : Reg) (mask : Fld) (i : Nat) : Bool := s.regVal st i &&& (2 ^ mask.w - 1 - s.get mask i) != 0

/-- The line of core block i of interrupt source 257 + i. -/
def State.coreLine (s : State) (i : Nat) : Bool :=
  match i with
  | 0 => s.faultLine .DEV_FAULT_STAT F.DEV_FAULT_MASK.BITS 0
  | 1 => s.faultLine .CFG_FAULT_STAT F.CFG_FAULT_MASK.BITS 0
  | 2 => s.faultLine .PWR_FAULT_STAT F.PWR_FAULT_MASK.BITS 0
  | 3 => s.faultLine .UMB_FAULT_STAT F.UMB_FAULT_MASK.BITS 0
  | 4 => s.faultLine .CIN_FAULT_STAT F.CIN_FAULT_MASK.BITS 0
  | 5 => s.faultLine .IRC_FAULT_STAT F.IRC_FAULT_MASK.BITS 0
  | 6 => s.faultLine .EVF_FAULT_STAT F.EVF_FAULT_MASK.BITS 0
  | 7 => s.faultLine .MBX_FAULT_STAT F.MBX_FAULT_MASK.BITS 0
  | 8 => s.faultLine .DMC_FAULT_STAT F.DMC_FAULT_MASK.BITS 0
  | 9 => s.faultLine .LAK_FAULT_STAT F.LAK_FAULT_MASK.BITS 0
  | 10 => s.faultLine .SAF_FAULT_STAT F.SAF_FAULT_MASK.BITS 0
  | 11 => s.faultLine .SVC_FAULT_STAT F.SVC_FAULT_MASK.BITS 0
  | 12 => s.faultLine .HRG_FAULT_STAT F.HRG_FAULT_MASK.BITS 0
  | 13 => s.faultLine .LNK_FAULT_STAT F.LNK_FAULT_MASK.BITS 0
  | 14 => s.faultLine .MDR_STEP_FAULT_STAT F.MDR_STEP_FAULT_MASK.BITS 0
  | 15 => s.faultLine .SEP_CAP_FAULT_STAT F.SEP_CAP_FAULT_MASK.BITS 0
  | 16 => s.faultLine .SEP_ACQ_FAULT_STAT F.SEP_ACQ_FAULT_MASK.BITS 0
  | 17 => s.faultLine .PCI_FAULT_STAT F.PCI_FAULT_MASK.BITS 0
  | _ => false

/-- The line of block k of tile t, of interrupt source 289 + 9t + k. -/
def State.tileLine (s : State) (t k : Nat) : Bool :=
  match k with
  | 0 => s.faultLine .VST_FAULT_STAT F.VST_FAULT_MASK.BITS t
  | 1 => s.faultLine .SLP_FAULT_STAT F.SLP_FAULT_MASK.BITS t
  | 2 => s.faultLine .WOD_FAULT_STAT F.WOD_FAULT_MASK.BITS t
  | 3 => s.faultLine .SEP_CMP_FAULT_STAT F.SEP_CMP_FAULT_MASK.BITS t
  | 4 => s.faultLine .SEP_CAP_TFAULT_STAT F.SEP_CAP_TFAULT_MASK.BITS t
  | 5 => s.faultLine .SEP_ACQ_TFAULT_STAT F.SEP_ACQ_TFAULT_MASK.BITS t
  | 6 => s.faultLine .TIA_FAULT_STAT F.TIA_FAULT_MASK.BITS t
  | 7 => s.faultLine .MRD_FAULT_STAT F.MRD_FAULT_MASK.BITS t
  | _ => s.faultLine .TLK_FAULT_STAT F.TLK_FAULT_MASK.BITS t

/-- The distance from one ring position to another, modulo 2^32 (R371). -/
def ringDist (rd wr : Nat) : Nat := (wr + 2 ^ 32 - rd) % 2 ^ 32

/-- Is source n a pulse source (R310). -/
def pulseSource (n : Nat) : Bool := (1 ≤ n && n ≤ 256) || (425 ≤ n && n ≤ 680) || (1913 ≤ n && n ≤ 1976)

/-- The level of line source n (R310, R351). -/
def State.lineLevel (s : State) (n : Nat) : Bool :=
  if n < 257 then false
  else if n < 289 then s.coreLine (n - 257)
  else if n < 361 then s.tileLine ((n - 289) / 9) ((n - 289) % 9)
  else if n < 425 then s.faultLine .BUS_FAULT_STAT F.BUS_FAULT_MASK.BITS (n - 361)
  else if n < 681 then false
  else if n < 937 then s.get F.SEP_CAP_RING_WR.POS (n - 681) != s.get F.SEP_CAP_RING_RD.POS (n - 681)
  else if n < 1193 then s.get F.SEP_ACQ_RING_WR.POS (n - 937) != s.get F.SEP_ACQ_RING_RD.POS (n - 937)
  else if n < 1257 then s.get F.BUS_RX_WR.POS (n - 1193) != s.get F.BUS_RX_RD.POS (n - 1193)
  else if n < 1321 then s.get F.BUS_SR_WR.POS (n - 1257) != s.get F.BUS_SR_RD.POS (n - 1257)
  else if n < 1577 then decide (max 1 (s.get F.HRG_RES_CFG.THRESH (n - 1321)) ≤
    ringDist (s.get F.HRG_RES_RD.POS (n - 1321)) (s.get F.HRG_RES_WR.POS (n - 1321)))
  else if n < 1833 then s.get F.HRG_CMD_DONE.POS (n - 1577) != s.get F.HRG_CMD_SEEN.POS (n - 1577)
  else if n < 1849 then s.get F.HRG_MGT_DONE.POS (n - 1833) != s.get F.HRG_MGT_SEEN.POS (n - 1833)
  else if n < 1913 then s.flag F.MBX_STAT.FULL (n - 1849)
  else false

/-- Is source n treated by edges: a pulse source, or a line that its entry sets to edge (R310). -/
def State.edgeSource (s : State) (n : Nat) : Bool := pulseSource n || s.flag F.IRC_SRC.EDGE n

/-! ### Pending (R312, R314) -/

/-- A source that is neither pending nor claimed becomes pending, and is delivered where it is deliverable. -/
def State.pend (s : State) (n : Nat) : State := (s.setMapBit F.IRC_PEND.SRC 0 n true).deliver n

/-- A pulse or an edge arrives at source n: pending, latched during a claim, or merged with OVR set (R312, R314). -/
def State.edgeArrive (s : State) (n : Nat) : State :=
  if s.mapBit F.IRC_CLAIMED.SRC 0 n then
    if Tab.get 0 s.irc.latched n = 1 then s.setMapBit F.IRC_OVR.SRC 0 n true
    else { s with irc := { s.irc with latched := Tab.set 0 s.irc.latched n 1 } }
  else if s.mapBit F.IRC_PEND.SRC 0 n then s.setMapBit F.IRC_OVR.SRC 0 n true
  else s.pend n

/-- A line source is sampled: by edge it arrives on the rise, by level it becomes pending while asserted. -/
def State.sampleLine (s : State) (n : Nat) : State :=
  let lv := s.lineLevel n
  let was := Tab.get 0 s.irc.lineWas n
  let s1 := s.setMapBit F.IRC_LINE.SRC 0 n lv
  let s2 := { s1 with irc := { s1.irc with lineWas := Tab.set 0 s1.irc.lineWas n (ofBool lv) } }
  if s.edgeSource n then (if lv && was == 0 then s2.edgeArrive n else s2)
  else if lv && !s.mapBit F.IRC_PEND.SRC 0 n && !s.mapBit F.IRC_CLAIMED.SRC 0 n then s2.pend n
  else s2

/-- INTERRUPT_PENDING (R312): source n is looked at. In Dormant a pulse is lost and no line is sampled (R317). -/
def execInterruptPending (e : Nat) (n : Fin 4096) (s : State) : Out :=
  let s := s.elapse e
  let n := n.val
  if pulseSource n then
    if s.irc.pulses.contains n then
      let s1 := { s with irc := { s.irc with pulses := s.irc.pulses.erase n } }
      .next (if s.dev == 6 then s1 else s1.edgeArrive n)
    else .next s
  else if s.dev == 6 then .next s
  else .next (s.sampleLine n)

/-! ### Claim and completion (R313, R314, R316) -/

/-- May an agent use a slot: cores 0–15 their own, PF1 the slots of its own map, and any agent the slots of PF0 (R311, R313). -/
def slotOpen (a : Agent) (x : Nat) : Bool :=
  if x < 16 then a == .core (Fin.ofNat 16 x)
  else if x < 48 then a != .loader
  else a == .pf1

/-- The better of a source found and the next by number: a lower PRIO wins, then the lower number. -/
def State.betterSource (s : State) (best : Option Nat) (n : Nat) : Option Nat :=
  match best with
  | some b => if s.get F.IRC_SRC.PRIO n < s.get F.IRC_SRC.PRIO b then some n else best
  | none => some n

/-- The deliverable source for slot x of the highest priority, and among equals of the lowest number. -/
def State.bestSource (s : State) (x : Nat) : Option Nat :=
  ((List.range 1977).filter (fun n => s.deliverable n && s.serves n x)).foldl (fun b n => s.betterSource b n) none

/-- A claim of source n by slot x: its hold-off group holds off (R313, R316). -/
def State.claim (s : State) (x n : Nat) : State :=
  let g := n / 64
  let s1 := (s.setMapBit F.IRC_PEND.SRC 0 n false).setMapBit F.IRC_CLAIMED.SRC 0 n true
  let s2 := { s1 with irc := { s1.irc with holder := Tab.set 0 s1.irc.holder n (x + 1) } }
  let k := s.get F.IRC_HOLDOFF.STEPS g
  if k = 0 then s2
  else
    let s3 := s2.set F.IRC_HOLDOFF.ACTIVE g 1
    { s3 with irc := { s3.irc with holdUntil := Tab.set 0 s3.irc.holdUntil g (wrap64 (s.now + k * ns 100)) } }

/-- IRC_CLAIM (R313): a read of IRC_CLAIM[x] by an agent. -/
def execIrcClaim (e : Nat) (a : Agent) (x : Fin 56) (s : State) : Out :=
  let s := s.elapse e
  if slotOpen a x.val && s.reaches a .IRC_CLAIM then
    match s.bestSource x.val with
    | some n => .next { s.claim x.val n with readData := n }
    | none => .next { s with readData := 0 }
  else .next { s with readData := 0 }

/-- A claimed source is completed: pending again by a latched edge or an asserted line, idle otherwise (R314). -/
def State.completeSrc (s : State) (n : Nat) : State :=
  let s1 := s.setMapBit F.IRC_CLAIMED.SRC 0 n false
  let s2 := { s1 with irc := { s1.irc with holder := Tab.set 0 s1.irc.holder n 0, latched := Tab.set 0 s1.irc.latched n 0 } }
  if s.edgeSource n then (if Tab.get 0 s.irc.latched n = 1 then s2.pend n else s2)
  else s2.sampleLine n

/-- A write of n to IRC_COMPLETE[x] (R314). -/
def State.completeWrite (s : State) (x n : Nat) : State :=
  if Tab.get 0 s.irc.holder n = x + 1 then s.completeSrc n else s.raiseC F.IRC_FAULT_STAT.BAD_COMPLETE 0

/-- IRC_COMPLETE (R314). -/
def execIrcComplete (e : Nat) (a : Agent) (x : Fin 56) (n : Fin 4096) (s : State) : Out :=
  let s := s.elapse e
  if s.reaches a .IRC_COMPLETE && (decide (x.val < 48) || a == .pf1) then .next (s.completeWrite x.val n.val) else .next s

/-! ### Mask and hold-off (R315, R316) -/

/-- A write to a word of IRC_MASK: pending sources whose bit clears are delivered again. -/
def State.writeIrcMask (s : State) (w v : Nat) : State :=
  let v := if w = 0 then v / 2 * 2 else v
  let old := s.get F.IRC_MASK.SRC w
  let s1 := s.set F.IRC_MASK.SRC w v
  s1.each ((List.range 32).filter (fun b => bitAt old b && !bitAt v b)) (fun s b => s.deliver (32 * w + b))

/-- IRC_MASK_WRITE (R315). -/
def execIrcMaskWrite (e : Nat) (a : Agent) (w : Fin 128) (v : Word32) (s : State) : Out :=
  let s := s.elapse e
  if s.reaches a .IRC_MASK then .next (s.writeIrcMask w.val v.toNat) else .next s

/-- HOLDOFF_END (R316): the pending, unmasked sources of a group become deliverable at once. -/
def execHoldoffEnd (e : Nat) (g : Group) (s : State) : Out :=
  let s := s.elapse e
  let g := g.val
  if s.flag F.IRC_HOLDOFF.ACTIVE g && s.dev != 6 && s.reached (Tab.get 0 s.irc.holdUntil g) then
    let s1 := s.set F.IRC_HOLDOFF.ACTIVE g 0
    let s2 := { s1 with irc := { s1.irc with holdUntil := Tab.set 0 s1.irc.holdUntil g 0 } }
    .next (s2.each (List.range 64) (fun s k => s.deliver (64 * g + k)))
  else .next s

/-! ### MSI-X (R337) -/

/-- MSIX_UNMASK (R337): a vector is unmasked, the function mask is cleared, or MSI-X is enabled. -/
def execMsixUnmask (e : Nat) (f : Func) (op : MsixOp) (s : State) : Out :=
  let s := s.elapse e
  match op with
  | .vector v =>
    if v.val < (fnSlots f).2 && s.reaches f.agent .PCI_MSIX0_CTRL then .next ((s.set (fnMask f) v.val 0).flushMsix f) else .next s
  | .function => .next ({ s with irc := { s.irc with msixMask := Tab.set 0 s.irc.msixMask (fnNum f) 0 } }.flushMsix f)
  | .enable => .next ({ s with irc := { s.irc with msixOn := Tab.set 0 s.irc.msixOn (fnNum f) 1 } }.flushMsix f)

end Sys2Proof.Machine
end

