-- ==== Sys2Proof/Machine/Starts.lean ====
section
/-! DEFINITION. Trim quality as the rules read it (R219, R222), requests to the start ladder (R39) and the forming of
ready DTs and start instants (R40, R41, R74). -/

namespace Sys2Proof.Machine

/-! ### Quality states (R219, R222) -/

/-- Ticks in a second. -/
abbrev secs (n : Nat) : Nat := n * 8000000000000

/-- The state that an age gives: 0 FRESH, 1 AGING, 2 STALE (R222). -/
def ageState (a : Nat) : Nat := if a ≤ secs 20 then 0 else if a ≤ secs 60 then 1 else 2

/-- The time since DT d. -/
def State.since (s : State) (d : Nat) : Nat := wrap64 (s.now + 2 ^ 64 - wrap64 d)

/-- What the age of a tile's skew measurement makes of its channels (R219); before the first measurement the age
counts from the tile's link-up. -/
def State.skewState (s : State) (t : Nat) : Nat :=
  let k := Tab.get {} s.skews t
  let a := s.since (k.lastReturn.getD (s.get F.TLK_CORE_UPDT.DT t))
  if k.old then 2 else if a < secs 20 then 0 else if a < secs 60 then 1 else 2

/-- The quality state of a channel (R219, R222). -/
def State.quality (s : State) (c : Nat) : Nat :=
  if s.flag F.MRD_CH_QF.NEVER c || (s.trimU c).old then 2
  else max (ageState (s.since (s.get F.MRD_CH_TRIM_DT.DT c))) (s.skewState (c / 128))

/-- Is any non-bus channel of a site on this device STALE (R66, R72). -/
def State.staleSite (s : State) (x : Nat) : Bool :=
  (s.siteChans x).any (fun c => !s.busMode c && s.quality c == 2)

/-! ### Ready DT and start instant (R40, R41) -/

/-- The sites that start together with a site: the entered members of its aligned set, or itself. -/
def State.members (s : State) (x : Nat) : List Nat :=
  if s.aligned x then
    (s.alignSet x).filter (fun y => (s.siteState y == 2 && (s.site y).entered) || (s.site y).alignKept)
  else [x]

/-- Is a threshold setting of a channel still settling (R137). -/
def State.settling (s : State) (c : Nat) : Bool := (s.chan c).settle.isSome

/-- Has every joined device of a home site reported its ready DT (R41, R77). -/
def State.proxiesReady (s : State) (x : Nat) : Bool :=
  (s.joined x).all (fun d => (s.site x).proxyReady.any (fun p => p.1 == d))

/-- Can the ready DT of a site be formed. Of a member that has left ARMED only the groups count: its proxies report no more
(R74, R375). -/
def State.canReady (s : State) (x : Nat) : Bool :=
  (s.members x).all (fun y =>
    (s.site y).waitGroups.isEmpty && !(s.siteChans y).any (fun c => s.settling c) && (s.proxiesReady y || s.siteState y != 2))

/-- The descriptor of a segment admitted to a slice. -/
def State.descFor (s : State) (i seg : Nat) : Option Desc := (s.slice i).admitted.find? (fun d => d.seg == seg)

/-- The period of a timing set in a slice, by its own period table. -/
def State.setPeriodOf (s : State) (i set : Nat) : Nat := s.get F.WOD_PERIOD.PERIOD (64 * i + set)

/-- The lead slice tells the proxies the sets and the period of a segment that starts at a boundary (R112, R247): the descriptor's
set, else that of a queued change, else the set in force. -/
def State.tellSets (s : State) (x i b : Nat) (d : Desc) (ts : Option TsetReq) : State :=
  let p := if !d.keep then d.tset else match ts with | some r => r.prim | none => s.get F.WOD_SLICE_TS.PRIMARY i
  let a := match ts with | some r => r.alt | none => s.get F.WOD_SLICE_TS.ALTERNATE i
  s.sendToken x 10 b [p, a, 0, s.setPeriodOf i p]

/-- Once a start instant is formed and the first queued segment is admitted, the proxies learn its sets and period (R112). -/
def State.tellStart (s : State) (x : Nat) : State :=
  match (s.site x).start, s.leadSlice x with
  | some st, some i =>
    match ((s.slice i).queue ++ (s.slice i).inbound).head? with
    | some q => match s.descFor i q.seg with
      | some d =>
        if s.hasProxies x && !(s.site x).toldStart then
          (s.setSite x { s.site x with toldStart := true }).tellSets x i st d q.ts
        else s
      | none => s
    | none => s
  | _, _ => s

/-- The start instant of a site and its set is formed from the ready DT (R40, R41), and goes to the proxies. The proxies of a member
that was aborted after the set entered the ladder learn its DONE now (R74). -/
def State.formStart (s : State) (x : Nat) : State :=
  let ms := s.members x
  let req := ms.foldl (fun a y => dtMax a (s.site y).reqStart) (s.site x).reqStart
  let lead := ms.foldl (fun a y => max a (s.lead y)) 0
  match (s.site x).ready with
  | none => s
  | some r =>
    let st := dtMax req (wrap64 (r + lead))
    s.each ms (fun s y =>
      if s.siteState y == 2 && (s.site y).entered then
        ((s.setSite y { s.site y with start := some st, startMin := req, toldStart := false }).sendToken y 4 st []).tellStart y
      else
        let s1 := s.setSite y { s.site y with alignKept := false, waitGroups := [], ready := none }
        if s.siteState y == 6 then s1.sendToken y 11 (wrap64 (s.now + s.img.leadHop)) [6] else s1)

/-- The ready DT of a site and its set is formed once every group has settled, every threshold has settled and every
joined device has reported; where no member has the stale policy the start instant follows at once (R40, R72). -/
def State.formReady (s : State) (x : Nat) : State :=
  if s.siteState x == 2 && (s.site x).entered && (s.site x).ready.isNone && s.canReady x then
    let ms := s.members x
    let r := ms.foldl (fun a y => ((s.site y).proxyReady.map (fun p => p.2.2)).foldl dtMax
      (dtMax a (s.site y).groupsAt)) (s.site x).groupsAt
    let s1 := s.each ms (fun s y => s.setSite y { s.site y with ready := some r })
    if s.proxy x || ms.any (fun y => bitAt (s.get F.SMAP_SITE.FLAGS y) 2) then s1 else s1.formStart x
  else s

/-! ### Requests to the ladder (R39) -/

/-- The station site number of a site: that of its home device, which a proxy's entry names (R11). -/
def State.station (s : State) (x : Nat) : Nat :=
  if s.proxy x then 256 * s.get F.SMAP_SITE.HOME_DEV x + s.get F.SMAP_SITE.HOME_SITE x else 256 * s.get F.DEV_NUMBER.NUMBER 0 + x

/-- The jobs that wait for the ladder are replaced. -/
def State.setQueue (s : State) (q : List LadderJob) : State :=
  ({ s with pwr := { s.pwr with queue := q } }).set F.PWR_STAT.QUEUED 0 q.length

/-- Must a group pass the ladder before it can be used: it is neither FAILED nor ON for good. -/
def State.needsLadder (s : State) (g : Nat) : Bool :=
  s.group g != 6 && !(s.group g == 5 && !s.pwr.queue.contains (.retire g) &&
    !s.pwr.requests.any (fun r => r.retire && r.groups.contains g))

/-- A request reaches the power controller (R39). -/
def State.ladderAsk (s : State) (r : LadderReq) : State :=
  { s with pwr := { s.pwr with requests := s.pwr.requests ++ [r] } }

/-- Sites ask for their groups together: the groups that need the ladder are requested, and each site waits for them;
where none does, the ready DT is formed at once. -/
def State.askSites (s : State) (sites groups : List Nat) : State :=
  let need := groups.filter (fun g => s.needsLadder g)
  let s1 := s.each sites (fun s y => s.setSite y { s.site y with waitGroups := need })
  if need.isEmpty then s1.each sites (fun s y => s.formReady y)
  else s1.ladderAsk ⟨s.now, (sites.map s.station).foldl min (2 ^ 32), need, sites, false⟩

/-- A site no longer sleeps (R42). -/
def State.unsleep (s : State) (x : Nat) : State :=
  (s.setMapBit F.PWR_SLEEP_SET.SITE 0 x false).set F.MDR_SITE_STATE.ASLEEP x 0

/-- Does a site sleep. -/
def State.asleep (s : State) (x : Nat) : Bool := s.mapBit F.PWR_SLEEP_SET.SITE 0 x

/-- Does every mapped quad of a group belong to a sleeping site, at least one quad being mapped (R42). -/
def State.groupAsleep (s : State) (g : Nat) : Bool :=
  !(s.groupSites g).isEmpty && (s.groupSites g).all (fun x => s.mapBit F.PWR_SLEEP_SET.SITE 0 x)

/-- The groups of a list that are ON with every mapped quad asleep ask for their move to RETENTION (R42). -/
def State.askRetire (s : State) (key : Nat) (gs : List Nat) : State :=
  let l := gs.filter (fun g => s.group g == 5 && s.groupAsleep g)
  if l.isEmpty then s else s.ladderAsk ⟨s.now, key, l, [], true⟩

/-- A taken request queues one of its groups (R39). -/
def State.takeGroup (s : State) (r : LadderReq) (g : Nat) : State :=
  if r.retire then
    if s.group g == 5 && s.groupAsleep g && !s.pwr.queue.contains (.retire g) then s.setQueue (s.pwr.queue ++ [.retire g])
    else s
  else
    let met (s : State) : State :=
      s.each r.sites (fun s y => s.setSite y { s.site y with waitGroups := (s.site y).waitGroups.filter (· != g) })
    match s.group g with
    | 5 => met (s.setQueue (s.pwr.queue.filter (· != .retire g)))
    | 6 => met s
    | 2 | 3 | 4 => s
    | _ => (s.setGroup g 2).setQueue (s.pwr.queue ++ [.powerUp g])

/-- The edge of the 100 MHz clock at which a request is taken (R39, notes/assumptions/14.md). -/
def takeEdge (d : Nat) : Nat := alignUp d 80000

/-- Does request a precede request b in ladder order. -/
def LadderReq.before (a b : LadderReq) : Bool :=
  decide (takeEdge a.arrived < takeEdge b.arrived) ||
    (takeEdge a.arrived == takeEdge b.arrived && decide (a.key ≤ b.key))

/-- The request that is taken next. -/
def nextRequest (l : List LadderReq) : Option LadderReq :=
  l.foldl (fun o r => match o with | none => some r | some q => if q.before r then some q else some r) none

/-- A group is usable, or has failed, at a DT: the sites that wait for it go on (R375). -/
def State.groupDone (s : State) (g t : Nat) : State :=
  let waiting := (List.range 256).filter (fun x => (s.site x).waitGroups.contains g)
  let s1 := s.each waiting (fun s x => s.setSite x
    { s.site x with waitGroups := (s.site x).waitGroups.filter (· != g), groupsAt := dtMax (s.site x).groupsAt t })
  s1.each waiting (fun s x => s.formReady x)

/-! ### Umber's state (R205, R297) -/

/-- UMB_STAT.STATE is entered; leaving LOCKED fires producer 1476. -/
def State.umberTo (s : State) (st : Nat) : State :=
  let s1 := s.set F.UMB_STAT.STATE 0 st
  if s.get F.UMB_STAT.STATE 0 == 2 && st != 2 then s1.fire 1476 else s1

/-- The reference is lost: Umber holds over (R206), with the discipline correction averaged over the last 100 s of lock, of which the
model keeps no history: it is a free value within the bound of R203 (notes/assumptions/25.md). -/
def State.holdover (s : State) : State :=
  let s := { s.drew with umb := { s.umb with disc := (s.fresh % 100000001 : Nat) - 50000000 } }
  ((s.umberTo 3).set F.UMB_STAT.REF_OK 0 0).raiseC F.UMB_FAULT_STAT.REF_LOST 0

/-! ### Aborts (R79, R170) -/

/-- An abort is sent to the context of a site that is ARMED, RUNNING or HOLD; the context settles it (R170). -/
def State.sendAbort (s : State) (x : Nat) : State :=
  if activeCode (s.siteState x) && s.siteState x != 5 then s.setSite x { s.site x with abortPend := true } else s

end Sys2Proof.Machine
end

