-- ==== Sys2Proof/Machine/Datalog.lean ====
section
/-! DEFINITION. The plan and the datalog service of a site as the rest of the part sees them: the plan's place, and the
records that the services make (spec/14_services.md, R280, R285, R286). -/

namespace Sys2Proof.Machine

/-! ### Plans and their tables (R280) -/

/-- A site's plan. -/
def State.plan (s : State) (x : Nat) : Plan := Tab.get {} s.plans x

/-- A site's plan replaced. -/
def State.setPlan (s : State) (x : Nat) (u : Plan) : State := { s with plans := Tab.set {} s.plans x u }

/-- A field of entry k of a plan table. -/
def planFld (t : List Byte) (k o n : Nat) : Nat := leAt t (32 + 64 * k + o) n

/-- The test that is being run by a site's plan, by its user number; 0xFFFF outside a test (R285). -/
def State.testNo (s : State) (x : Nat) : Nat :=
  match s.svcTable x 1 with
  | some t => if (s.plan x).armed then planFld t (s.plan x).entry 0 2 else 0xFFFF
  | none => 0xFFFF

/-! ### Records of the datalog (R285, R286) -/

/-- A site's datalog. -/
def State.logOf (s : State) (x : Nat) : Datalog := Tab.get {} s.logs x

/-- A site's datalog replaced. -/
def State.setLog (s : State) (x : Nat) (u : Datalog) : State := { s with logs := Tab.set {} s.logs x u }

/-- Does a site's selection write records of a type (R286). -/
def State.logSelects (s : State) (x typ : Nat) : Bool :=
  match s.svcTable x 4 with
  | some t => bitAt (leAt t (typ / 8) 1) (typ % 8)
  | none => typ != 1 && typ != 2

/-- A record of n units of 32 bytes: the head of R285 and a body from 0x14, padded with zeros. -/
def State.logRecord (s : State) (x typ dt test flags n : Nat) (body : List Byte) : List Byte :=
  let b := toBytes 8 dt ++ toBytes 4 (s.get F.SVC_DUTS.DUTS x) ++ toBytes 2 test ++ toBytes 1 x ++ toBytes 1 flags ++
    toBytes 1 typ ++ toBytes 1 0 ++ toBytes 2 n ++ body
  b ++ List.replicate (32 * n - b.length) 0

/-- A service makes a record of a type that the site's selection writes; the datalog service writes it later. -/
def State.log (s : State) (x typ dt test flags n : Nat) (body : List Byte) : State :=
  if s.logSelects x typ then
    s.setLog x { s.logOf x with made := (s.logOf x).made ++ [s.logRecord x typ dt test flags n body] }
  else s

/-- The record of a DLOG item: a type below 0x80 is written as 0x80 with BADTYPE (R285). -/
def State.logUser (s : State) (w : WorkItem) : State :=
  let typ := w.flow % 256
  let n := bitsOf w.flow 8 2
  let bad := decide (typ < 0x80)
  s.log w.site (if bad then 0x80 else typ) w.dt (s.testNo w.site) (if bad then 2 else 0) (if n = 2 then 2 else 1)
    (toBytes 4 w.arg ++ toBytes 8 (if 1 ≤ n then w.g0 else 0) ++ (if n = 2 then toBytes 8 w.g1 else []))

/-! ### The result ring (R286, R350) -/

/-- The units of a site's result ring that the host has not read. -/
def State.resUsed (s : State) (x : Nat) : Nat := ringDist (s.get F.HRG_RES_RD.POS x) (s.get F.HRG_RES_WR.POS x)

/-- Is a site's result ring more than 7/8 full (R286). -/
def State.resHigh (s : State) (x : Nat) : Bool := decide (7 * 2 ^ s.get F.HRG_RES_CFG.LOG2 x < 8 * s.resUsed x)

/-- Does a site's plan pause while the result ring is more than 7/8 full, which it is (R280, R286). -/
def State.planHeld (s : State) (x : Nat) : Bool :=
  match s.svcTable x 1 with
  | some t => bitAt (leAt t 4 2) 1 && s.resHigh x
  | none => false

/-- A plan that waits for a DUT pauses on a full ring, and waits again once space has returned (R286). -/
def State.planPause (s : State) (x : Nat) : State :=
  let st := s.get F.SVC_PLAN_STAT.STATE x
  if st = 1 || st = 3 then s.set F.SVC_PLAN_STAT.STATE x (if s.planHeld x then 3 else 1) else s

end Sys2Proof.Machine
end

