-- ==== Sys2Proof/Machine/Saffron.lean ====
section
/-! DEFINITION. Saffron (spec/14_services.md): flows, levels, the delay list, and dispatch to the service cores. -/

namespace Sys2Proof.Machine

/-- The flow id of an item (R273). -/
def flowOf (w : WorkItem) : Nat := 1024 * w.site + (if w.src = 4 then 1 else w.flow % 1024)

/-- The level of a flow (R276). -/
def State.flowLevel (s : State) (f : Nat) : Nat := bitsOf (leAt s.img.flowPri (f / 2) 1) (4 * (f % 2)) 4

/-- The result word of an item (R275). -/
def resultWord (status nrc value : Nat) : Nat := status % 256 * 2 ^ 56 + nrc % 256 * 2 ^ 48 + value % 2 ^ 32

/-- Saffron replaced. -/
def State.setSaf (s : State) (u : Saf) : State := { s with saf := u }

/-- The items that Saffron holds, queued or in service. -/
def Saf.used (u : Saf) : Nat := u.items.length + u.serv.length

/-- The items of a flow that Saffron holds. -/
def Saf.ofFlow (u : Saf) (f : Nat) : Nat :=
  (u.items.filter (fun i => (flowOf i.w) == f)).length + (u.serv.filter (fun p => (flowOf p.2.w) == f)).length

/-- Is an item of a flow in service (R276). -/
def Saf.busy (u : Saf) (f : Nat) : Bool := u.serv.any (fun p => (flowOf p.2.w) == f)

/-- The first queued item of a flow becomes eligible where none of the flow is in service (R276). -/
def Saf.wake (u : Saf) (f now : Nat) : Saf :=
  if u.busy f then u
  else match u.items.find? (fun i => (flowOf i.w) == f) with
    | some i =>
      if i.elig.isSome then u
      else { u with items := u.items.map (fun j => if j.id = i.id then { j with elig := some (now, u.order) } else j),
                    order := u.order + 1 }
    | none => u

/-- The registers of Saffron follow its queues. -/
def State.showSaf (s : State) : State :=
  let u := s.saf
  let n := u.used
  let s1 := ((s.set F.SAF_STAT.USED 0 n).set F.SAF_STAT.PEAK 0 (max n (s.get F.SAF_STAT.PEAK 0))).set F.SAF_DELAY.ENTRIES 0
    u.delay.length
  s1.each (List.range 16) (fun s p => s.set F.SAF_LEVEL.ELIGIBLE p
    (u.items.filter (fun i => i.elig.isSome && s.flowLevel (flowOf i.w) == p)).length)

/-- Is an enqueue to a flow refused, and with which fault (R273). -/
def State.safRefuses (s : State) (f : Nat) : Option Fld :=
  if 65536 ≤ s.saf.used then some F.SAF_FAULT_STAT.POOL_FULL
  else if 64 ≤ s.saf.ofFlow f then some F.SAF_FAULT_STAT.FLOW_FULL
  else none

/-- An enqueue is refused (R273). -/
def State.safRefused (s : State) (f : Nat) (b : Fld) : State :=
  (s.setSaf { s.saf with refused := Tab.update 0 s.saf.refused f (fun n => satAdd 16 n 1) }).raiseC b 0

/-- An accepted item takes its place at the end of its flow (R273). -/
def State.safAdd (s : State) (w : WorkItem) : State :=
  let u := s.saf
  let u1 := { u with items := u.items ++ [(⟨w, u.nextId, none, 0⟩ : SafItem)], nextId := u.nextId + 1 }
  (s.setSaf (u1.wake (flowOf w) s.now)).showSaf

/-- An item is enqueued or refused (R273). -/
def State.safEnqueue (s : State) (w : WorkItem) : State :=
  match s.safRefuses (flowOf w) with
  | some b => s.safRefused (flowOf w) b
  | none => s.safAdd w

/-- An item waits in the delay list for its due DT, behind those with the same one (R277). -/
def State.safDelay (s : State) (w : WorkItem) (due : Nat) : State :=
  let u := s.saf
  let i : SafItem := ⟨w, u.nextId, none, due⟩
  let before := u.delay.takeWhile (fun j => dtReached due j.due)
  (s.setSaf { u with delay := before ++ i :: u.delay.drop before.length, nextId := u.nextId + 1 }).showSaf

/-- WORK_ITEM_ENQUEUE (R273, R277): a service posts an item, at once or with a due DT. -/
def execWorkItemEnqueue (e : Nat) (w : WorkItem) (delayed : Bool) (due : Nat) (s : State) : Out :=
  let s := s.elapse e
  .next (if delayed then s.safDelay w (wrap64 due) else s.safEnqueue w)

/-- Is a core in PULL mode (R278). -/
def State.pulls (s : State) (c : Nat) : Bool := bitAt (s.get F.SAF_CFG.PULL 0) c

/-- SAF_GET (R278): a PULL core reads SAF_GET and waits; the read of any other agent returns 0. -/
def execSafGet (e : Nat) (c : Core) (own : Bool) (s : State) : Out :=
  let s := s.elapse e
  if own && s.pulls c.val && !s.saf.waiting.contains c.val && !s.saf.serv.any (fun p => p.1 == c.val) then
    .next (s.setSaf { s.saf with waiting := s.saf.waiting ++ [c.val] })
  else .next (if own then s else { s with readData := 0 })

/-- The eligible item that is dispatched next: the highest level, within it the first that became eligible (R276). -/
def State.safBest (s : State) : Option SafItem :=
  s.saf.items.foldl (fun o i =>
    match i.elig, o with
    | none, _ => o
    | some _, none => some i
    | some (_, n), some b =>
      let p := s.flowLevel (flowOf i.w)
      let q := s.flowLevel (flowOf b.w)
      match b.elig with
      | some (_, m) => if p < q || (p == q && decide (n < m)) then some i else o
      | none => some i) none

/-- The level of the item that a core runs. -/
def State.coreLevel (s : State) (c : Nat) : Option Nat :=
  (s.saf.serv.find? (fun p => p.1 == c)).map (fun p => s.flowLevel (flowOf p.2.w))

/-- The PUSH core that runs the lowest-priority work below a level; the lowest core on ties (R278). -/
def State.preempted (s : State) (p : Nat) : Option Nat :=
  (List.range 16).foldl (fun o c =>
    match s.coreLevel c with
    | some l =>
      if !s.pulls c && decide (p < l) then
        match o with
        | none => some c
        | some d => if (s.coreLevel d).getD 0 < l then some c else o
      else o
    | none => o) none

/-- The core that an item of a level is given to (R278); `y` is a core at a yield point. -/
def State.safCore (s : State) (p : Nat) (y : Option Nat) : Option Nat :=
  match (List.range 16).find? (fun c => s.saf.waiting.contains c && s.pulls c) with
  | some c => some c
  | none =>
    match (List.range 16).find? (fun c => !s.pulls c && (s.coreLevel c).isNone) with
    | some c => some c
    | none =>
      match s.preempted p with
      | some c => some c
      | none => match y with
        | some c => if (s.coreLevel c).isSome then some c else none
        | none => none

/-- The dispatch registers of a core follow what it runs (SAF_CORE). -/
def State.showCore (s : State) (c : Nat) : State :=
  let l := s.saf.serv.filter (fun p => p.1 == c)
  match l with
  | [] => ((s.set F.SAF_CORE.STATE c 0).set F.SAF_CORE.LEVEL c 0).set F.SAF_CORE.FLOW c 0
  | p :: r =>
    ((s.set F.SAF_CORE.STATE c (if r.isEmpty then 1 else 2)).set F.SAF_CORE.LEVEL c (s.flowLevel (flowOf p.2.w))).set
      F.SAF_CORE.FLOW c (flowOf p.2.w)

/-- An item is given to a core (R278, R279). -/
def State.safGive (s : State) (i : SafItem) (c : Nat) : State :=
  let u := s.saf
  let f := (flowOf i.w)
  let p := s.flowLevel f
  let lat := match i.elig with | some (d, _) => min 65535 (s.since d / 80000) | none => 0
  let s1 := s.setSaf { u with items := u.items.filter (fun j => j.id != i.id), serv := (c, i) :: u.serv,
                              waiting := u.waiting.filter (· != c), given := Tab.set 0 u.given c s.now }
  let s2 := (s1.showCore c).set F.SAF_LEVEL.MAXLAT p (max lat (s.get F.SAF_LEVEL.MAXLAT p))
  let s3 := if s.pulls c then { s2 with readData := f + p * 2 ^ 18 + 2 ^ 31 } else s2
  s3.showSaf

/-- An uncorrectable error of Saffron's stores discards the queued items of a flow and faults its site (R273). -/
def State.safUncorr (s : State) (i : SafItem) : State :=
  let f := (flowOf i.w)
  let s1 := s.setSaf { s.saf with items := s.saf.items.filter (fun j => (flowOf j.w) != f) }
  (s1.showSaf).faultSite 10 F.SAF_FAULT_STAT.STATE_UNCORR 0 i.w.site 6

/-- A core has reached a yield point: the watchdog counts from here (R272). -/
def State.yielded (s : State) (y : Option Nat) : State :=
  match y with
  | some c => s.setSaf { s.saf with given := Tab.set 0 s.saf.given c s.now }
  | none => s

/-- DISPATCH (R273, R276, R278): the eligible item that comes first is given to a core; `ecc` is what the check of its
store finds, `y` a core at a yield point. -/
def execDispatch (e : Nat) (y : Option Core) (ecc : Ecc) (s : State) : Out :=
  let s := (s.elapse e).yielded (y.map (fun c => c.val))
  match s.safBest with
  | some i =>
    match ecc with
    | .uncorrectable => .next (s.safUncorr i)
    | _ =>
      let s1 := if ecc = .corrected then s.raiseC F.SAF_FAULT_STAT.STATE_CORR 0 else s
      match s1.safCore (s1.flowLevel (flowOf i.w)) (y.map (fun c => c.val)) with
      | some c => .next (s1.safGive i c)
      | none => .next s1
  | none => .next s

/-- The result of an item goes to the context that waits for it; a context that no longer waits discards it (R167,
R275). -/
def State.giveResult (s : State) (i : SafItem) (r : Nat) : State :=
  if (s.ctx i.w.site).svcItem = some i.id then s.setCtx i.w.site { s.ctx i.w.site with svcDone := some r } else s

/-- Does an item run the open job of a UDS connection. -/
def UdsConn.runs (u : UdsConn) (id : Nat) : Bool := match u.job with | some j => j.item == id | none => false

/-- The UDS job that an item ran is over (R289). -/
def State.endJob (s : State) (id : Nat) : State :=
  let ended := (s.uds.filter (fun p => p.2.runs id)).map (fun p => p.1)
  s.each ended (fun s k => { s with uds := Tab.set {} s.uds k { Tab.get {} s.uds k with job := none },
                                    keyQ := s.keyQ.filter (fun n => n != k) })

/-- An item in service ends with a result; its flow goes on (R276), and a pre-empted item of the core resumes (R278). -/
def State.safEnd (s : State) (c : Nat) (i : SafItem) (r : Nat) : State :=
  let s1 := s.setSaf { s.saf with serv := s.saf.serv.filter (fun p => p.2.id != i.id), given := Tab.set 0 s.saf.given c s.now }
  let s2 := (s1.giveResult i r).setSaf (s1.saf.wake (flowOf i.w) s.now)
  ((s2.showCore c).showSaf).endJob i.id

/-- The item that a core runs. -/
def State.running? (s : State) (c : Nat) : Option SafItem := (s.saf.serv.find? (fun p => p.1 == c)).map (fun p => p.2)

/-- ITEM_COMPLETE (R275, R276): a core completes the item that it runs, unless a UDS job of it is open (R289); a DLOG item
becomes a record of the datalog (R285). `fw` is what the check of its firmware memory finds (R272). -/
def execItemComplete (e : Nat) (c : Core) (status : Fin 6) (nrc : Byte) (v : Word32) (fw : Ecc) (s : State) : Out :=
  let s := s.elapse e
  match s.running? c.val with
  | some i =>
    if s.uds.any (fun p => p.2.runs i.id) then .next s else
    match fw with
    | .uncorrectable => .next (s.raiseF F.SVC_FAULT_STAT.FW_UNCORR 0 6)
    | _ =>
      let s1 := if fw = .corrected then s.raiseC F.SVC_FAULT_STAT.FW_CORR 0 else s
      let s2 := if i.w.src = 4 then s1.logUser i.w else s1
      .next (s2.safEnd c.val i (resultWord status.val nrc.toNat v.toNat))
  | none => .next s

/-- The last whole tick of the delay list (R277). -/
def State.safTick (s : State) : Nat := let t := max 1 (s.get F.SAF_CFG.TICK_NS 0) * 8000; s.now / t * t

/-- The delayed items whose tick has come are enqueued in their order; one that is refused (R273) waits with those behind it. -/
def State.dueItems (s : State) : List SafItem → State
  | [] => s
  | i :: r =>
    if !dtReached s.safTick i.due then s
    else match s.safRefuses (flowOf i.w) with
      | some b => s.safRefused (flowOf i.w) b
      | none =>
        let u := { s.saf with delay := r, items := s.saf.items ++ [i] }
        (s.setSaf (u.wake (flowOf i.w) s.now)).dueItems r

/-- DELAY_DUE (R277). -/
def execDelayDue (e : Nat) (s : State) : Out :=
  let s := s.elapse e
  .next (s.dueItems s.saf.delay).showSaf

/-- A core is reset: its items complete with status 4, and its shadows are cleared (R272, R373). -/
def State.safCoreReset (s : State) (c : Nat) : State :=
  let s := { s with shadows := Tab.set {} s.shadows (0x20 + c) {} }
  let l := (s.saf.serv.filter (fun p => p.1 == c)).map (fun p => p.2)
  let s1 := s.setSaf { s.saf with waiting := s.saf.waiting.filter (· != c) }
  l.foldl (fun s i => s.safEnd c i (resultWord 4 0 0)) s1

/-- WATCHDOG (R272): a core ran one item for 100 µs without a yield point. -/
def execWatchdog (e : Nat) (c : Core) (s : State) : Out :=
  let s := s.elapse e
  let k := c.val
  if (s.running? k).isSome && s.reached (wrap64 (Tab.get 0 s.saf.given k + us 100)) then
    let s1 := s.set F.SVC_CORE_STAT.WDOG k (min 255 (s.get F.SVC_CORE_STAT.WDOG k + 1))
    .next ((s1.safCoreReset k).raiseU 11 F.SVC_FAULT_STAT.WDOG 0)
  else .next s

/-- TesterPresent of every connection of a site stops (R289). -/
def State.stopPresent (s : State) (x : Nat) : State :=
  (List.range 64).foldl (fun s u => if (Tab.get {} s.uds (64 * x + u)).presentAt.isSome then
    { s with uds := Tab.set {} s.uds (64 * x + u) { Tab.get {} s.uds (64 * x + u) with presentAt := none } } else s) s

/-- A site reset: the site's items complete with status 5 (R275, R373), and TesterPresent stops (R289). -/
def State.safSiteReset (s : State) (x : Nat) : State :=
  let l := s.saf.serv.filter (fun p => p.2.w.site == x)
  let s1 := s.setSaf { s.saf with items := s.saf.items.filter (fun i => i.w.site != x),
                                  delay := s.saf.delay.filter (fun i => i.w.site != x) }
  ((l.foldl (fun s p => s.safEnd p.1 p.2 (resultWord 5 0 0)) s1).showSaf).stopPresent x

end Sys2Proof.Machine
end

