-- ==== Sys2Proof/Machine/Waves.lean ====
section
/-! DEFINITION. Waveform entries: their bytes (R116) and the validity rules (R117). -/

namespace Sys2Proof.Machine

/-- A waveform entry from its 24 bytes (R116). -/
def waveOfBytes (b : List Byte) : WaveEntry := ⟨leAt b 0 8, leAt b 8 8, leAt b 16 8⟩

/-- ACTION of drive event e. -/
def WaveEntry.action (w : WaveEntry) (e : Nat) : Nat := bitsOf w.word (8 * e) 2

/-- TIDX of drive event e. -/
def WaveEntry.tidx (w : WaveEntry) (e : Nat) : Nat := bitsOf w.word (8 * e + 2) 5

/-- KIND of compare action a. -/
def WaveEntry.kind (w : WaveEntry) (a : Nat) : Nat := bitsOf w.word (32 + 16 * a) 2

/-- EXPECT of compare action a. -/
def WaveEntry.expect (w : WaveEntry) (a : Nat) : Nat := bitsOf w.word (32 + 16 * a + 2) 3

/-- T1 of compare action a. -/
def WaveEntry.t1i (w : WaveEntry) (a : Nat) : Nat := bitsOf w.word (32 + 16 * a + 5) 5

/-- T2 of compare action a. -/
def WaveEntry.t2i (w : WaveEntry) (a : Nat) : Nat := bitsOf w.word (32 + 16 * a + 10) 5

/-- Rule 1 of R117. -/
def WaveEntry.rule1 (w : WaveEntry) : Bool :=
  (List.range 4).all (fun e => !bitAt w.word (8 * e + 7)) &&
  (List.range 2).all (fun a => !bitAt w.word (32 + 16 * a + 15) && w.kind a != 3 && decide (w.expect a ≤ 4) &&
    (w.kind a != 1 || w.t2i a == 0)) &&
  decide (w.t0 < 2 ^ 39) && decide (w.t1 < 2 ^ 39)

/-- The times of the non-keep drive events, in index order. -/
def WaveEntry.driveTimes (w : WaveEntry) (time : Nat → Nat) : List Nat :=
  ((List.range 4).filter (fun e => w.action e != 0)).map (fun e => time (w.tidx e))

/-- Is each time at least d after the one before. -/
def spaced (d : Nat) : List Nat → Bool
  | [] => true
  | [_] => true
  | a :: b :: r => decide (a + d ≤ b) && spaced d (b :: r)

/-- The instant at which a compare action ends. -/
def WaveEntry.endTime (w : WaveEntry) (time : Nat → Nat) (a : Nat) : Nat :=
  if w.kind a = 2 then time (w.t2i a) else time (w.t1i a)

/-- Every time a waveform uses. -/
def WaveEntry.times (w : WaveEntry) (time : Nat → Nat) : List Nat :=
  w.driveTimes time ++ (List.range 2).flatMap (fun a =>
    if w.kind a = 0 then [] else if w.kind a = 2 then [time (w.t1i a), time (w.t2i a)] else [time (w.t1i a)])

/-- The first rule of R117 that a waveform breaks under the slot's time table and set period; 0 when it is valid. -/
def WaveEntry.broken (w : WaveEntry) (time : Nat → Nat) (p : Nat) : Nat :=
  if !w.rule1 then 1
  else if !spaced 3200 (w.driveTimes time) then 2
  else if !(List.range 2).all (fun a => w.kind a != 2 || decide (time (w.t1i a) + 800 ≤ time (w.t2i a))) then 3
  else if w.kind 0 != 0 && w.kind 1 != 0 && !decide (w.endTime time 0 + 1600 ≤ time (w.t1i 1)) then 4
  else if p != 0 && !(w.times time).all (fun t => decide (t < 2 * p)) then 5
  else 0

/-- Does a waveform use time word k. -/
def WaveEntry.uses (w : WaveEntry) (k : Nat) : Bool :=
  (List.range 4).any (fun e => w.action e != 0 && w.tidx e == k) ||
    (List.range 2).any (fun a => w.kind a != 0 && (w.t1i a == k || (w.kind a == 2 && w.t2i a == k)))

/-- The time table of a slot given by its entries (R116). -/
def slotTime (entry : Nat → WaveEntry) (k : Nat) : Nat :=
  bitsOf (if k % 2 = 0 then (entry (k / 2)).t0 else (entry (k / 2)).t1) 0 39

end Sys2Proof.Machine
end

