-- ==== Sys2Proof/Machine/Player.lean ====
section
/-! DEFINITION. The slice player: segments and granules in the vector store (R90–R95), placing of events (R119–R122),
the boundary rules that a vector obeys (R99–R106), and what one vector cycle does. -/

namespace Sys2Proof.Machine

/-! ### Segments and granules (R90–R94) -/

/-- A granule of one column in the vector store. -/
def State.granAt (s : State) (i seg gran col : Nat) : Option Gran :=
  s.grans.find? (fun g => g.slice == i && g.seg == seg && g.gran == gran && g.col == col)

/-- A word of a granule in the vector store. -/
def State.granWord (s : State) (i seg gran col vec : Nat) : Nat :=
  match s.granAt i seg gran col with
  | some g => g.words.getD vec 0
  | none => 0

/-- Was a granule of one column complete at a DT. -/
def Gran.by (g : Gran) (t : Nat) : Bool := dtReached t g.came

/-- Was every column of a granule complete in the vector store at a DT. -/
def State.granHere (s : State) (i seg gran t : Nat) : Bool :=
  match s.descFor i seg with
  | some d => decide (gran < d.len) && (List.range (d.width (i / 32))).all (fun c =>
      match s.granAt i seg gran c with
      | some g => g.by t
      | none => false)
  | none => false

/-- Does a granule count as present at a DT (R100): a resident segment only if all of it was complete. -/
def State.present (s : State) (i seg gran t : Nat) : Bool :=
  match s.descFor i seg with
  | some d => if d.streamed then s.granHere i seg gran t else (List.range d.len).all (fun m => s.granHere i seg m t)
  | none => false

/-- Is a jump target present at a DT (R106). -/
def State.targetHere (s : State) (i seg t : Nat) : Bool := s.present i seg 0 t && s.present i seg 1 t

/-- The control word of the vector that plays next. -/
def State.ctrl (s : State) (i : Nat) : Nat :=
  let u := s.slice i
  s.granWord i u.seg u.gran 0 u.vec

/-- CODE of a control word (R81). -/
def ctrlCode (w : Nat) : Nat := bitsOf w 12 3

/-- OPERAND of a control word. -/
def ctrlOp (w : Nat) : Nat := bitsOf w 0 12

/-- Slots of tile t are taken for, or given back by, slice i. -/
def State.useSlots (s : State) (i n : Nat) : State :=
  let t := i / 32
  let f := s.get F.VST_SLOTS.FREE t - n
  ((s.set F.VST_SLOTS.FREE t f).set F.VST_SLOTS.LOWEST t (min f (s.get F.VST_SLOTS.LOWEST t))).set
    F.VST_SLICE.SLOTS i (s.get F.VST_SLICE.SLOTS i + n)

/-- The segments a slice plays, has queued, or whose predecessor plays (R93, R94). -/
def State.wanted (s : State) (i : Nat) : List Nat :=
  let u := s.slice i
  let cur := if u.needEntry || !(u.playing || s.get F.SLP_STAT.STATE i == 3) then []
    else u.seg :: (match s.descFor i u.seg with | some d => [d.succ] | none => [])
  let again := match u.entry with | some q => if 1 < q.count then [q.seg] else [] | none => []
  (cur ++ again ++ (u.queue ++ u.inbound).map (fun q => q.seg)).filter (· != 0xFFFFFF)

/-- The segments named as jump targets by the segment that plays or by a jump request (R93, R164). -/
def State.targets (s : State) (i : Nat) : List Nat :=
  let u := s.slice i
  let jt := if u.needEntry || !(u.playing || s.get F.SLP_STAT.STATE i == 3) then [] else match s.descFor i u.seg with | some d => [d.jt0, d.jt1] | none => []
  (jt ++ (s.site (s.sliceSite i)).jumps.map (fun j => j.target)).filter (· != 0xFFFFFF)

/-- Segments that nothing names any more leave the vector store (R94). -/
def State.dropSegs (s : State) (i : Nat) : State :=
  let keep := s.wanted i ++ s.targets i
  let u := s.slice i
  let gone := u.admitted.filter (fun d => !keep.contains d.seg)
  let s1 := s.setSlice i { u with admitted := u.admitted.filter (fun d => keep.contains d.seg) }
  let s2 := { s1 with grans := s1.grans.filter (fun g => !(g.slice == i && gone.any (fun d => d.seg == g.seg))) }
  s2.freeSlots i (gone.foldl (fun a d => a + d.slots (i / 32)) 0)

/-- A streamed jump target becomes the ring of a segment that is played or queued (R94). -/
def State.widen (s : State) (i seg : Nat) : State :=
  match s.descFor i seg with
  | some d =>
    if d.target then
      let t := i / 32
      let d' := { d with target := false }
      let more := d'.slots t - d.slots t
      if s.get F.VST_SLOTS.FREE t < more then s.faultSite 18 F.VST_FAULT_STAT.NOSPACE t (s.sliceSite i) 6
      else
        let u := s.slice i
        (s.setSlice i { u with admitted := u.admitted.map (fun x => if x.seg == seg then d' else x) }).useSlots i more
    else s
  | none => s

/-- The granules of the streamed segment that plays which are present ahead of play (VST_SLICE). -/
def State.ahead (s : State) (i : Nat) : Nat :=
  let u := s.slice i
  match s.descFor i u.seg with
  | some d =>
    if d.streamed then
      min 255 ((((s.grans.filter (fun g => g.slice == i && g.seg == u.seg && g.col == 0 && decide (u.gran < g.gran))).map
        (fun g => g.gran)).filter (fun m => s.granHere i u.seg m s.now)).length)
    else 0
  | none => 0

/-- AHEAD follows play and refill. -/
def State.seeAhead (s : State) (i : Nat) : State :=
  match s.descFor i (s.slice i).seg with
  | some d =>
    if d.streamed && (s.slice i).playing then
      let a := s.ahead i
      (s.set F.VST_SLICE.AHEAD i a).set F.VST_SLICE.AHEAD_MIN i (min a (s.get F.VST_SLICE.AHEAD_MIN i))
    else s.set F.VST_SLICE.AHEAD i 0
  | none => s.set F.VST_SLICE.AHEAD i 0

/-- Is a granule's loop body pinned: an open loop holds it and the ring is deep enough (R107). -/
def pinnedBy (loops : List LoopReg) (ring gran : Nat) : Bool :=
  loops.any (fun l => decide (l.b ≤ gran) && decide (gran < l.b + l.len) && decide (l.len + 2 ≤ ring))

/-- A player leaves a granule: a streamed one leaves play unless its loop body is pinned, or it is one of the first two of a segment
that is its own jump target (R95, R106, R107). -/
def State.leaveGran (s : State) (i : Nat) : State :=
  let u := s.slice i
  match s.descFor i u.seg with
  | some d =>
    if d.streamed && !pinnedBy u.loops (min d.ring d.len) u.gran && !(d.selfTarget && decide (u.gran < 2)) then
      { s with grans := s.grans.filter (fun g => !(g.slice == i && g.seg == u.seg && g.gran == u.gran)) }
    else s
  | none => s

/-! ### Periods and timing sets (R112, R115, R123, R124) -/

/-- The period that the primary set gives a slice. A proxy slice takes it from its home's tokens alone (R112): before one has come its
set counts as undefined (notes/assumptions/90.md). -/
def State.setPeriod (s : State) (i : Nat) : Nat :=
  if s.proxy (s.sliceSite i) then (s.slice i).tokPeriod.getD 0 else s.setPeriodOf i (s.get F.WOD_SLICE_TS.PRIMARY i)

/-- The period in force in a slice: that latched at its granule's first boundary (R110), and before the first the set's. -/
def State.period (s : State) (i : Nat) : Nat := if (s.slice i).per = 0 then s.setPeriod i else (s.slice i).per

/-- The slot whose waveforms play (R87, R113). -/
def State.slotNow (s : State) (i : Nat) : Nat :=
  if s.flag F.SLP_STAT.ALT i then s.get F.WOD_SLICE_TS.ALTERNATE i else s.get F.WOD_SLICE_TS.PRIMARY i

/-- The ALT state of a slice (R87). -/
def State.setAlt (s : State) (i v : Nat) : State := (s.set F.SLP_STAT.ALT i v).set F.WOD_SLICE_TS.ALT_ACTIVE i v

/-- A step-engine change of the sets applies in a slice at a boundary (R123). -/
def State.stepSets (s : State) (i b : Nat) (r : TsetReq) : State :=
  let s1 := (s.set F.WOD_SLICE_TS.PRIMARY i r.prim).set F.WOD_SLICE_TS.ALTERNATE i r.alt
  let u := s1.slice i
  s1.setSlice i { u with tsStep := some (b, r.prim), tokPeriod := if r.period.isSome then r.period else u.tokPeriod }

/-- The queued form waiting with the entry that starts applies first (R123, R124). -/
def State.queuedSets (s : State) (i b : Nat) : State :=
  let u := s.slice i
  match u.entry with
  | some q => match q.ts with
    | some r => (s.setSlice i { u with entry := some { q with ts := none } }).stepSets i b r
    | none => s
  | none => s

/-- The descriptor's set applies at the first boundary of its segment (R123, R124); a proxy slice ignores it (R112). -/
def State.descSets (s : State) (i b : Nat) : State :=
  match s.descFor i (s.slice i).seg with
  | some d =>
    if d.keep || s.proxy (s.sliceSite i) then s
    else
      let differs := match (s.slice i).tsStep with
        | some (b', p) => b' == b && p != d.tset
        | none => false
      let s1 := s.set F.WOD_SLICE_TS.PRIMARY i d.tset
      if differs then s1.set F.WOD_SLICE_STAT.TS_OVERRIDDEN i 1 else s1
  | none => s

/-! ### Placing events (R119–R122, R128, R133) -/

/-- The fixture delay in force for a channel (R128). -/
def State.fixture (s : State) (c : Nat) : Nat :=
  if s.flag F.WOD_CH_CFG.FIXCOMP c && s.flag F.WOD_CH_PIN.FIXTRIM c && s.flag F.WOD_CH_FIXDELAY.VALID c then
    s.get F.WOD_CH_FIXDELAY.DELAY c
  else 0

/-- A channel drops a compare action (R121). -/
def State.dropCmp (s : State) (c : Nat) : State :=
  ((s.count F.WOD_CH_DROPS.COUNT (some F.WOD_CH_DROPS.OVF) c 20 1).set F.WOD_CH_STAT.CMP_DROP c 1).raiseC
    F.WOD_FAULT_STAT.CMP_DROP (c / 128)

/-- A compare action is placed, or dropped where two are pending at its start (R121). -/
def State.placeCmp (s : State) (c : Nat) (a : CmpAct) : State :=
  let u := s.chan c
  let busy := u.cmps.filter (fun x => dtReached a.t1 x.t1 && !dtReached a.t1 x.t2)
  if 2 ≤ busy.length then s.dropCmp c else s.setChan c { u with cmps := u.cmps ++ [a] }

/-- The words that a waveform needs, as entry and word: its own and those of its times. -/
def WaveEntry.needs (e : WaveEntry) (w : Nat) : List (Nat × Nat) :=
  (w, 0) :: ((List.range 32).filter (fun k => e.uses k)).map (fun k => (k / 2, 1 + k % 2))

/-- The events of one channel in one vector cycle are placed (R119, R128). A word with an uncorrectable error places
nothing and faults the site (R133). -/
def State.placeChan (s : State) (i c slot sym b : Nat) : State :=
  let e := s.waveAt c slot sym
  let bad := (e.needs sym).any (fun p => s.badWord (waveKey c slot p.1) p.2)
  if bad then s.faultSite 20 F.WOD_FAULT_STAT.WF_UNCORR (c / 128) (s.sliceSite i) 6
  else
    let d := s.fixture c
    let n := (s.slice i).vidx
    let t (k : Nat) : Nat := s.timeAt c slot k
    let evs := ((List.range 4).filter (fun k => e.action k != 0)).map (fun k =>
      let id := wrap64 (b + t (e.tidx k))
      (⟨wrap64 (id + 2 ^ 64 - d), id, n, e.action k⟩ : DriveEv))
    let u := s.chan c
    let s1 := s.setChan c { u with drive := u.drive ++ evs }
    s1.each ((List.range 2).filter (fun a => e.kind a != 0)) (fun s a =>
      let id := wrap64 (b + e.endTime t a)
      s.placeCmp c ⟨wrap64 (b + t (e.t1i a) + d), wrap64 (id + d), id, e.kind a, e.expect a, n,
        (s.chan c).maskNow == 1, (s.slice i).matchGran⟩)

/-- An event lies outside its range (R119). -/
def State.offsRange (s : State) (c : Nat) : State :=
  (s.set F.WOD_CH_STAT.OFFS_RANGE c 1).raiseC F.WOD_FAULT_STAT.OFFS_RANGE (c / 128)

/-- The events of vector cycle n of a channel at or after the boundary two vectors on are discarded (R119). -/
def State.rangeCheck (s : State) (c n b2 : Nat) : State :=
  let u := s.chan c
  let okD (d : DriveEv) : Bool := d.n != n || !dtReached d.ideal b2
  let okC (a : CmpAct) : Bool := a.n != n || !dtReached a.ideal2 b2
  if u.drive.all okD && u.cmps.all okC then s
  else (s.setChan c { u with drive := u.drive.filter okD, cmps := u.cmps.filter okC }).offsRange c

/-- The symbol of slice channel index k in the vector that plays (R64, R80). -/
def State.symbol (s : State) (i k : Nat) : Nat :=
  let u := s.slice i
  bitsOf (s.granWord i u.seg u.gran (1 + k / 4) u.vec) (4 * (k % 4)) 4

/-- The events of the vector that plays are placed on every channel that is not a bus channel (R65). -/
def State.placeVector (s : State) (i b : Nat) : State :=
  let slot := s.slotNow i
  let cs := s.sliceChans i
  s.each (List.range cs.length) (fun t k =>
    let c := cs.getD k 0
    if t.busMode c then t else t.placeChan i c slot (s.symbol i k) b)

/-! ### Holds and jumps at a boundary (R99–R106) -/

/-- Jsetup of a slice (R103). -/
def State.jsetup (s : State) (i : Nat) : Nat := ns 40 + 8 * s.period i

/-- The lead of the check point of a site (R99). -/
def State.checkLead (s : State) (x : Nat) : Nat := if s.hasProxies x || s.proxy x then ns 288 else ns 32

/-- Does jump request a come before b at one boundary (R104). -/
def JumpReq.before (a b : JumpReq) : Bool :=
  if a.req = b.req then decide (a.src ≤ b.src) else !dtReached a.req b.req

/-- The request that wins (R104). -/
def winner (l : List JumpReq) : Option JumpReq :=
  l.foldl (fun o j => match o with | none => some j | some k => if k.before j then some k else some j) none

/-- The jump requests that are honoured at the boundary at which a slice stands (R103, R104). -/
def State.jumpsDue (s : State) (i : Nat) : List JumpReq :=
  let u := s.slice i
  (s.site (s.sliceSite i)).jumps.filter (fun j =>
    match j.atB with
    | some b => b == u.nextB
    | none => dtReached u.nextB (wrap64 (j.req + s.jsetup i)) && !(j.inHold && u.resumed))

/-- Is a decided stop due at a boundary. -/
def State.stopDue (s : State) (x b : Nat) : Bool :=
  match (s.site x).stop with
  | some d => dtReached b d.earliest
  | none => false

/-- Is the hold of a site for boundary b. -/
def State.holdDue (s : State) (x b : Nat) : Bool :=
  match (s.site x).hold with
  | some (b', _) => b' == b
  | none => false

/-- Does a slice stand at a granule boundary. -/
def SliceUnit.atGran (u : SliceUnit) : Bool := u.vec == 0 && u.repLeft == 0

/-- Does a slice play: its player runs and has not ended. -/
def SliceUnit.live (u : SliceUnit) : Bool := u.playing && u.endDT.isNone

/-- Is an immediate timing-set change due at a boundary (R123). -/
def State.setsDue (s : State) (x b : Nat) : Bool := (s.site x).tsImm.any (fun p => dtReached b p.release)

/-- Nothing acts on a slice before the vector that begins at its next boundary: the boundary has come, and at a granule
boundary the check point has passed, the counts are added, and no hold, jump, stop, timing set, MATCH judgement or
fault is due (notes/assumptions/9.md), unless the slice missed the message for this boundary (R20). -/
def State.boundaryFree (s : State) (i : Nat) : Bool :=
  let u := s.slice i
  let x := s.sliceSite i
  s.sliceValid i && u.live && !u.needEntry && s.reached u.nextB &&
    (!u.atGran || u.missed == some u.nextB || (u.checked == some u.nextB && !s.holdDue x u.nextB && (s.jumpsDue i).isEmpty &&
      !s.stopDue x u.nextB && !s.setsDue x u.nextB && u.mat.judge.isNone && u.failAdd == 0 && s.siteState x != 7))

/-! ### One vector cycle (R22, R83, R88, R111) -/

/-- The control word is folded into the running CRC (R83). -/
def State.foldCtrl (s : State) (i w : Nat) : State :=
  s.set F.SLP_CTRLCRC.CRC i (crc32cRun (s.get F.SLP_CTRLCRC.CRC i) (toBytes 2 w))

/-- A channel's compare mask follows a write that waits for this granule boundary (R141). -/
def State.takeMask (s : State) (c b : Nat) : State :=
  let u := s.chan c
  match u.maskNext with
  | some (_, since) => if dtReached b since then s.forceMask c else s
  | none => s

/-- What happens at the first vector of a segment: the timing sets apply, ALT is primary, the CRC and the loops begin
anew (R83, R85, R123). -/
def State.beginSegment (s : State) (i b : Nat) : State :=
  let s1 := (((s.setAlt i 0).queuedSets i b).descSets i b).set F.SLP_CTRLCRC.CRC i 0xFFFFFFFF
  let u := s1.slice i
  let hold := match s1.descFor i u.seg with | some d => d.uhold | none => 0
  let hints := match s1.descFor i u.seg with | some d => (d.jt0, d.jt1) | none => (0xFFFFFF, 0xFFFFFF)
  (s1.setSlice i { u with segNew := false, segAt := some b, loops := [], uhold := hold, hints := hints }).set F.SLP_STAT.LOOPS i 0

/-- The period that a granule latches (R110). Of a table entry with an uncorrectable error it is a free value, and the site faults
(R133). -/
def State.latchPeriod (s : State) (i : Nat) (ecc : Ecc) : State :=
  let t := i / 32
  match ecc with
  | .clean => s.setSlice i { s.slice i with per := s.setPeriod i }
  | .corrected => (s.set F.WOD_FAULT_STAT.PER_CORR t 1).setSlice i { s.slice i with per := s.setPeriod i }
  | .uncorrectable =>
    (s.drew.setSlice i { s.slice i with per := s.fresh % 2 ^ 37 }).faultSite 20 F.WOD_FAULT_STAT.PER_UNCORR t (s.sliceSite i) 6

/-- What happens at a granule boundary as a granule begins: masks take effect, the match granule is known, the period
is latched and shows (R86, R110, R141). -/
def State.beginGranule (s : State) (i b : Nat) (ecc : Ecc) : State :=
  let s1 := (s.each (s.sliceChans i) (fun s c => s.takeMask c b)).latchPeriod i ecc
  let u := s1.slice i
  let m := ctrlCode (s1.granWord i u.seg u.gran 0 63) == 4
  let s2 := (s1.setSlice i { u with matchGran := m, missed := none }).set F.SLP_STAT.MATCH_WAIT i (ofBool m)
  (s2.seeAhead i).set F.WOD_SLICE_PERIOD.PERIOD i (s2.period i)

/-- A vector cycle with compares keeps its place for the fail records (R147). -/
def State.openVerdict (s : State) (i b : Nat) : State :=
  let u := s.slice i
  if (s.sliceChans i).any (fun c => (s.chan c).cmps.any (fun a => a.n == u.vidx && !a.mtch)) then
    s.setSlice i { u with verdicts := u.verdicts ++ [⟨u.vidx, b, u.seg, 64 * u.gran + u.vec, []⟩] }
  else s

/-- The vector cycle that a slice played last (R187): its end is the next boundary, or that at which the slice held. -/
def State.cycleAt (s : State) (i : Nat) : CycleAt :=
  let u := s.slice i
  { seg := s.get F.SLP_POS.SEG i, voff := 64 * s.get F.SLP_POS.GRANULE i + s.get F.SLP_POS.VEC i, b := u.prevB,
    fin := if u.resumed then s.get F.WOD_SLICE_BOUNDARY.DT i else u.nextB }

/-- One vector cycle: events are placed and the next boundary is formed by exact addition (R22). -/
def State.cycle (s : State) (i : Nat) : State :=
  let u := s.slice i
  let b := u.nextB
  let b1 := wrap64 (b + s.period i)
  let s0 := (s.placeVector i b).openVerdict i b
  let s1 := if u.vidx = 0 then s0 else s0.each (s.sliceChans i) (fun s c => s.rangeCheck c (u.vidx - 1) b1)
  let last := if u.vidx = 0 then none else some (s.cycleAt i)
  let s2 := s1.setSlice i { s1.slice i with prevB := b, nextB := b1, vidx := u.vidx + 1, resumed := false, lastCyc := last }
  let s3 := ((s2.set F.SLP_POS.SEG i u.seg).set F.SLP_POS.GRANULE i u.gran).set F.SLP_POS.VEC i u.vec
  (s3.count F.SLP_VCOUNT.COUNT (some F.SLP_VCOUNT.OVF) i 19 1).set F.WOD_SLICE_BOUNDARY.DT i b

/-- A set with period 0 would become the primary set at a boundary: every live slice of the site that stands there stops with its hold
policies, and the site faults (R115). -/
def State.setUndef (s : State) (i b : Nat) : State :=
  let x := s.sliceSite i
  let is := (s.slicesOf x).filter (fun j => (s.slice j).live && (s.slice j).nextB == b)
  (s.each is (fun s j => (((s.stopSlice j b).emptySlice j).set F.WOD_SLICE_STAT.TSET_UNDEF j 1).raiseU 20
    F.WOD_FAULT_STAT.TSET_UNDEF (j / 32))).siteFault x 6

/-- A waveform word is read for a vector with an ECC finding (R133): corrected, or bad until it is next written. -/
def State.waveRead (s : State) (r : WaveRead) : State :=
  let k := 3 * waveKey r.ch.val r.slot.val r.wf.val + r.word.val
  match r.ecc with
  | .clean => s
  | .corrected => s.raiseC F.WOD_FAULT_STAT.WF_CORR (r.ch.val / 128)
  | .uncorrectable => { s with waveBad := if s.waveBad.contains k then s.waveBad else s.waveBad ++ [k] }

/-- The ECC findings of a microword fetch and of the waveform words that a vector reads (R109, R133). An uncorrectable error in ROM,
patch memory or match registers forces safe state. -/
def State.vectorReads (s : State) (i : Nat) (ecc : VecEcc) : State :=
  let s1 := (ecc.wave.filter (fun r => r.ch.val / 128 == i / 32)).foldl State.waveRead s
  match ecc.rom with
  | .clean => s1
  | .corrected => s1.raiseC F.SLP_FAULT_STAT.ROM_CORR (i / 32)
  | .uncorrectable => s1.raiseF F.SLP_FAULT_STAT.ROM_UNCORR (i / 32) 8

/-- The first play of a vector: its memories are read, segment and granule begin, ALT acts, the control word is folded, MARK fires,
and its first cycle plays (R82–R88); then `k` continues from the state. An undefined primary set is found before it applies (R115). -/
def State.playVector (s : State) (i : Nat) (ecc : VecEcc) (k : State → State) : State :=
  let b := (s.slice i).nextB
  let s0 := s.vectorReads i ecc
  let s1 := if (s0.slice i).segNew then s0.beginSegment i b else s0
  if !(s0.slice i).live then s0
  else if (s1.slice i).vec = 0 && s1.setPeriod i = 0 then s0.setUndef i b
  else
    let s2 := if (s1.slice i).vec = 0 then s1.beginGranule i b ecc.per else s1
    let w := s2.ctrl i
    let s3 := if ctrlCode w = 5 then s2.setAlt i (bitsOf w 0 1) else s2
    let s4 := s3.foldCtrl i w
    let x := s.sliceSite i
    let s5 := if bitAt w 15 && s4.leadSlice x == some i then s4.fire (1024 + x) else s4
    k (s5.cycle i)

/-- A segment ends in a slice: its CRC is reported, and requests made in it may become late (R83, R105). -/
def State.reportCrc (s : State) (i : Nat) : State :=
  let u := s.slice i
  let x := s.sliceSite i
  let s1 := s.setSlice i { u with crcEnd := some (u.seg, s.get F.SLP_CTRLCRC.CRC i), lastSeg := u.seg, lastGran := u.gran,
                                  segEnd := some (u.nextB, u.vidx) }
  let v := s1.site x
  s1.setSite x { v with jumps := v.jumps.map (fun j =>
    if j.endV.isNone && !dtReached j.req u.nextB then { j with endV := some u.vidx } else j) }

/-- A slice goes to granule 0 of a segment. -/
def State.goSegment (s : State) (i seg : Nat) : State :=
  let u := s.slice i
  let s1 := s.setSlice i { u with seg := seg, gran := 0, vec := 0, repLeft := 0, segNew := true, needEntry := false,
                                  loops := [], mat := {}, matchGran := false, again := false }
  ((s1.set F.SLP_STAT.LOOPS i 0).set F.SLP_STAT.MATCH_WAIT i 0).widen i seg |>.dropSegs i

/-- The last vector of a segment has played: the chain goes on, begins anew, or its entry is at its end (R89). -/
def State.endSegment (s : State) (i : Nat) : State :=
  let s1 := s.reportCrc i
  let u := s1.slice i
  let succ := match s1.descFor i u.seg with | some d => d.succ | none => 0xFFFFFF
  if succ != 0xFFFFFF then s1.goSegment i succ
  else match u.entry with
    | some q =>
      if 1 < q.count then
        (s1.setSlice i { u with entry := some { q with count := q.count - 1 } }).goSegment i q.seg
      else s1.setSlice i { u with vec := 0, repLeft := 0, needEntry := true }
    | none => s1.setSlice i { u with vec := 0, repLeft := 0, needEntry := true }

/-- A slice goes to vector 0 of a granule of the segment that plays. -/
def State.goGranule (s : State) (i gran : Nat) : State :=
  let s1 := s.leaveGran i
  s1.setSlice i { s1.slice i with gran := gran, vec := 0, repLeft := 0, again := false }

/-- The vector after the one that has played, in order. -/
def State.nextVector (s : State) (i : Nat) : State :=
  let u := s.slice i
  if u.vec < 63 then s.setSlice i { u with vec := u.vec + 1, repLeft := 0, again := false }
  else
    let len := match s.descFor i u.seg with | some d => d.len | none => 0
    if u.gran + 1 < len then s.goGranule i (u.gran + 1) else (s.leaveGran i).endSegment i

/-! ### The end of play (R89, R111) -/

/-- An idle waveform that a slice's channel cannot read faults the site (R133). -/
def State.idleFault (s : State) (i : Nat) : State :=
  if (s.drivenChans i).any (fun c => s.badWord (s.idleKey c) 0) then
    s.faultSite 20 F.WOD_FAULT_STAT.WF_UNCORR (i / 32) (s.sliceSite i) 6
  else s

/-- Play that ended by END with nothing queued takes its idle levels; entries released later are kept (R162). -/
def State.finishEnd (s : State) (i : Nat) : State :=
  let u := s.slice i
  match u.endDT with
  | some b => if u.playing then
      let s1 := s.endSlice i b
      (((s1.setSlice i { s1.slice i with queue := u.queue, inbound := u.inbound }).set F.SLP_STAT.QUEUED i
        u.queue.length).dropSegs i).idleFault i
    else s
  | none => s

/-- Play that has reached the boundary at which it ended takes its idle levels and its last counts are added (R89, R143). -/
def State.settleEnd (s : State) (i : Nat) : State := if s.due (s.slice i).endDT then s.finishEnd i else s

/-- A FAULTED site's slice that plays stops at its granule boundary under the hold policies (R67, R158). -/
def State.faultStop (s : State) (i : Nat) : State :=
  let u := s.slice i
  if s.sliceValid i && s.siteState (s.sliceSite i) == 7 && u.live && u.atGran && s.reached u.nextB && u.missed != some u.nextB then
    (s.stopSlice i u.nextB).emptySlice i
  else s

/-! ### What plays next (R101) -/

/-- Does the vector store hold the control column of a granule with END in it. -/
def State.hasEnd (s : State) (i seg gran : Nat) : Bool :=
  (List.range 64).any (fun v => ctrlCode (s.granWord i seg gran 0 v) == 6)

/-- The pass count of a LOOP_END (R85). -/
def State.loopCount (s : State) (i w : Nat) : Nat :=
  let n := bitsOf w 2 10
  if n = 0 then max 1 (s.get F.SLP_LOOPPRE.COUNT (4 * i + bitsOf w 0 2)) else n

/-- The first granule of the next queued entry. -/
def State.nextEntry (s : State) (i : Nat) : Option (Nat × Nat) :=
  ((s.slice i).queue.head?).map (fun q => (q.seg, 0))

/-- The granule after the last of a chain. -/
def State.afterChain (s : State) (i seg : Nat) (entry : Option QEntry) : Option (Nat × Nat) :=
  match s.descFor i seg with
  | some d =>
    if d.succ != 0xFFFFFF then some (d.succ, 0)
    else match entry with
      | some q => if 1 < q.count then some (q.seg, 0) else s.nextEntry i
      | none => s.nextEntry i
  | none => none

/-- The loops that are open once granule gran has begun: a LOOP_BEGIN on its vector 0 opens its register (R85). -/
def loopsAt (loops : List LoopReg) (gran w0 : Nat) : List LoopReg :=
  if ctrlCode w0 = 2 && !loops.any (fun l => l.r == bitsOf w0 0 2) then
    loops ++ [⟨bitsOf w0 0 2, gran, if bitsOf (ctrlOp w0) 2 10 = 0 then 1024 else bitsOf (ctrlOp w0) 2 10, false, 0⟩]
  else loops

/-- The granule that plays after granule (seg, gran), which is in the vector store; none where play ends with it. -/
def State.afterGran (s : State) (i seg gran : Nat) (entry : Option QEntry) : Option (Nat × Nat) :=
  let w := s.granWord i seg gran 0 63
  let loops := loopsAt (if (s.slice i).seg = seg then (s.slice i).loops else []) gran (s.granWord i seg gran 0 0)
  let len := match s.descFor i seg with | some d => d.len | none => 0
  let plain := if gran + 1 < len then some (seg, gran + 1) else s.afterChain i seg entry
  if s.hasEnd i seg gran then s.nextEntry i
  else if ctrlCode w = 4 then some (seg, gran)
  else if ctrlCode w = 3 then
    match loops.find? (fun l => l.r == bitsOf w 0 2) with
    | some l => if (if l.arrived then decide (0 < l.left) else decide (1 < s.loopCount i w)) then some (seg, l.b) else plain
    | none => plain
  else plain

/-- Is a slice in HOLD ready to go on: the granule at which it stands and the one after it are present (R101). -/
def State.ready (s : State) (i : Nat) : Bool :=
  let u := s.slice i
  let here (seg gran : Nat) (entry : Option QEntry) : Bool :=
    s.present i seg gran s.now &&
      (match s.afterGran i seg gran entry with | some (a, b) => s.present i a b s.now | none => true)
  if u.needEntry then
    match u.queue with
    | q :: _ => here q.seg 0 (some q)
    | [] => false
  else here u.seg u.gran u.entry

/-- The next queued entry is taken. -/
def State.popEntry (s : State) (i : Nat) : State :=
  let u := s.slice i
  match u.queue with
  | q :: r => ((s.setSlice i { u with queue := r, entry := some q }).set F.SLP_STAT.QUEUED i r.length).goSegment i q.seg
  | [] => s

end Sys2Proof.Machine
end

