-- ==== Sys2Proof/Machine/Vectors.lean ====
section
/-! DEFINITION. Vectors, segments and streaming (spec/05_vectors_segments.md): the control codes, check points and
holds, jumps, refill, segment admission and the slice-player registers. -/

namespace Sys2Proof.Machine

/-! ### Routines of the control codes (R82–R89) -/

/-- n of a REPEAT operand (R82). -/
def repeatCount (op : Nat) : Nat := if op = 0 then 4096 else op

/-- A REPEAT vector has played once; n − 1 cycles remain (R84). -/
def State.beginRepeat (s : State) (i op : Nat) : State :=
  let n := repeatCount op
  if n = 1 then s.nextVector i else s.setSlice i { s.slice i with repLeft := n - 1 }

/-- A loop rule is broken (R85). -/
def State.badLoop (s : State) (i : Nat) : State :=
  s.faultSite 19 F.SLP_FAULT_STAT.BADLOOP (i / 32) (s.sliceSite i) 6

/-- The open loops of a slice are replaced. -/
def State.setLoops (s : State) (i : Nat) (l : List LoopReg) : State :=
  (s.setSlice i { s.slice i with loops := l }).set F.SLP_STAT.LOOPS i l.length

/-- The body length of a LOOP_BEGIN (R82). -/
def loopBody (op : Nat) : Nat := if bitsOf op 2 10 = 0 then 1024 else bitsOf op 2 10

/-- A LOOP_BEGIN opens its register on the granule that begins, or breaks a rule (R85). A granule that repeats, by its own loop's return or
by MATCH, opens nothing. -/
def State.openLoop (s : State) (i op : Nat) : State :=
  let u := s.slice i
  let r := bitsOf op 0 2
  let n := loopBody op
  let len := match s.descFor i u.seg with | some d => d.len | none => 0
  match u.loops.find? (fun l => l.r == r) with
  | some l => if l.b == u.gran && u.vec == 0 && u.again then s else s.badLoop i
  | none =>
    if u.vec == 0 && decide (u.gran + n ≤ len) && u.loops.all (fun l => decide (u.gran + n ≤ l.b + l.len)) then
      s.setLoops i (u.loops ++ [⟨r, u.gran, n, false, 0⟩])
    else s.badLoop i

/-- The granules of a closed loop's body leave play, but for the one that plays and those of an outer pinned body (R95, R107). -/
def State.unpin (s : State) (i : Nat) (l : LoopReg) : State :=
  let u := s.slice i
  match s.descFor i u.seg with
  | some d =>
    if d.streamed then
      { s with grans := s.grans.filter (fun g => !(g.slice == i && g.seg == u.seg && decide (l.b ≤ g.gran) && decide (g.gran < u.gran) &&
        !pinnedBy u.loops (min d.ring d.len) g.gran && !(d.selfTarget && decide (g.gran < 2)))) }
    else s
  | none => s

/-- A LOOP_END of an open loop: play returns to the body while passes remain, or the loop closes (R85). -/
def State.closeLoop (s : State) (i w : Nat) : State :=
  let u := s.slice i
  let r := bitsOf w 0 2
  match u.loops.find? (fun l => l.r == r) with
  | some l =>
    if u.vec == 63 && u.gran + 1 == l.b + l.len then
      let left := if l.arrived then l.left else s.loopCount i w - 1
      if 0 < left then
        let s1 := (s.setLoops i (u.loops.map (fun x => if x.r == r then { x with arrived := true, left := left - 1 } else x))).goGranule i l.b
        s1.setSlice i { s1.slice i with again := true }
      else ((s.setLoops i (u.loops.filter (fun x => x.r != r))).unpin i l).nextVector i
    else (s.badLoop i).nextVector i
  | none => (s.badLoop i).nextVector i

/-- SLP_STAT.JUMP_LOST of every slice of a site. -/
def State.jumpLost (s : State) (x : Nat) : State := s.each (s.slicesOf x) (fun s i => s.set F.SLP_STAT.JUMP_LOST i 1)

/-- The vector cycle at which the segment of a request instant ended, where that segment has ended (R105). -/
def State.endCycle (s : State) (x req : Nat) : Option Nat :=
  (s.slicesOf x).findSome? (fun i => match (s.slice i).segEnd with
    | some (b, v) => if dtReached req b then none else some v
    | none => none)

/-- Do the slices of a site stand held: HOLD, or STOPPING with a slice held (R102, R104). -/
def State.holding (s : State) (x : Nat) : Bool :=
  s.siteState x == 4 || (s.siteState x == 5 && (s.slicesOf x).any (fun i => s.get F.SLP_STAT.STATE i == 3))

/-- A jump request is made; one to no segment is discarded with JUMP_LOST (R104). -/
def State.addJump (s : State) (x src req target : Nat) : State :=
  if target = 0xFFFFFF then s.jumpLost x
  else
    let v := s.site x
    s.setSite x { v with jumps := v.jumps ++ [⟨src, req, target, s.endCycle x req, s.holding x, none⟩] }

/-- Jump target hint of the segment whose vector plays (R103). -/
def State.hinted (s : State) (i hint : Nat) : Nat := if hint = 0 then (s.slice i).hints.1 else (s.slice i).hints.2

/-- The timeout of a MATCH in passes (R86). -/
def State.matchTmo (s : State) (i w : Nat) : Nat :=
  let n := bitsOf w 0 10
  if n = 0 then max 1 (s.get F.SLP_MATCH_TMO.PASSES i) else n

/-- Vector 63 of a match granule has played: the exit of a decided MATCH is taken at the first pass end at least Jsetup
after its request instant, and otherwise the granule repeats (R86). -/
def State.endPass (s : State) (i w : Nat) : State :=
  let u := s.slice i
  match u.mat.decided with
  | some (m, req) =>
    if dtReached u.nextB (wrap64 (req + s.jsetup i)) then
      let s1 := s.setSlice i { u with mat := {}, matchGran := false }
      let s2 := s1.set F.SLP_STAT.MATCH_WAIT i 0
      (if m then s2 else s2.set F.SLP_STAT.MATCH_TMO i 1).nextVector i
    else s.setSlice i { u with vec := 0, repLeft := 0, again := true }
  | none => s.setSlice i { u with vec := 0, repLeft := 0, again := true, mat := { u.mat with judge := some u.nextB, word := w } }

/-- An END vector has played: the next entry follows, or the slices ends play at the next boundary; jump requests are
discarded (R89, R104). -/
def State.endEntry (s : State) (i : Nat) : State :=
  let x := s.sliceSite i
  let s0 := if (s.site x).jumps.isEmpty then s else s.jumpLost x
  let s1 := (s0.setSite x { s0.site x with jumps := [] }).reportCrc i
  let s2 := (s1.leaveGran i).setLoops i []
  let u := s2.slice i
  let v := { u with vec := 0, repLeft := 0, needEntry := true, entry := none, mat := {}, matchGran := false }
  let s3 := (s2.setSlice i v).set F.SLP_STAT.MATCH_WAIT i 0
  if u.queue.isEmpty then (s3.setSlice i { v with endDT := some u.nextB }).set F.SLP_STAT.STATE i 4 else s3

/-- A code without a routine acts as NEXT with BADCODE (R82, R86). -/
def State.badCode (s : State) (i : Nat) : State := (s.raiseC F.SLP_FAULT_STAT.BADCODE (i / 32)).nextVector i

/-- What the ROM routine of a control code does with its operand once its vector has played (R82–R89). -/
def State.routine (s : State) (i n op : Nat) : State :=
  match n with
  | 0 => s.nextVector i
  | 1 => s.beginRepeat i op
  | 2 => (s.openLoop i op).nextVector i
  | 3 => s.closeLoop i op
  | 4 => if (s.slice i).vec = 63 then s.endPass i op else s.badCode i
  | 5 => s.nextVector i
  | 6 => s.endEntry i
  | _ => s.badCode i

/-- The ROM addresses of a control code's routine, from and below (R108). -/
def romRange (n : Nat) : Nat × Nat :=
  match n with
  | 0 => (0x000, 0x010)
  | 1 => (0x010, 0x040)
  | 2 => (0x040, 0x080)
  | 3 => (0x080, 0x0C0)
  | 4 => (0x0C0, 0x140)
  | 5 => (0x140, 0x150)
  | 6 => (0x150, 0x180)
  | _ => (0x180, 0x190)

/-- Does a valid match register name an address in the routine of a control code, so that patch words execute there (R109). -/
def State.patchHit (s : State) (n : Nat) : Bool :=
  (List.range 16).any (fun k =>
    let m := leAt s.img.patchL0 (0x200 + 4 * k) 4
    bitAt m 31 && decide ((romRange n).1 ≤ bitsOf m 0 9) && decide (bitsOf m 0 9 < (romRange n).2))

/-- A routine with patch words in it: the microword format is internal to Uskaond (R108), so which of the routines it amounts to, and with
which operand, are free values (notes/assumptions/91.md). -/
def State.freeRoutine (s : State) (i : Nat) : State :=
  s.drew.drew.routine i (s.fresh % 7) (Config.freeValue (s.free + 1) % 4096)

/-- What follows a vector of control code n, by ROM or by patch words (R108, R109). -/
def State.follow (s : State) (i n : Nat) (t : State) : State :=
  if s.patchHit n then t.freeRoutine i else t.routine i n (ctrlOp (s.ctrl i))

/-! ### Control codes (R82–R89) -/

/-- Does the vector of a slice with control code n begin now. -/
def State.vectorDue (s : State) (i n : Nat) : Bool :=
  s.boundaryFree i && (s.slice i).repLeft == 0 && ctrlCode (s.ctrl i) == n

/-- A vector with control code n plays and its routine follows, where it begins now; else a slice of a FAULTED site stops. -/
def State.playCode (s : State) (i n : Nat) (ecc : VecEcc) : State :=
  if s.vectorDue i n then s.playVector i ecc (s.follow i n) else s.faultStop i

/-- VECTOR_NEXT (R82): the vector plays once. -/
def execVectorNext (e : Nat) (sl : SliceNo) (s : State) (ecc : VecEcc := ⟨.clean, .clean, []⟩) : Out := .next ((s.elapse e).playCode sl.val 0 ecc)

/-- A further cycle of a REPEAT vector plays (R84); each executes one microword (R108). -/
def State.repeatVector (s : State) (i : Nat) (ecc : VecEcc) : State :=
  let left := (s.slice i).repLeft
  let s0 := s.vectorReads i ecc
  if !(s0.slice i).live then s0
  else
    let t := s0.cycle i
    if left = 1 then (t.setSlice i { t.slice i with repLeft := 0 }).nextVector i
    else t.setSlice i { t.slice i with repLeft := left - 1 }

/-- VECTOR_REPEAT (R84): one of the n cycles of a REPEAT vector plays; MARK acts at the first. -/
def execVectorRepeat (e : Nat) (sl : SliceNo) (s : State) (ecc : VecEcc := ⟨.clean, .clean, []⟩) : Out :=
  let s := s.elapse e
  let i := sl.val
  .next (if !s.vectorDue i 1 && s.boundaryFree i && (s.slice i).repLeft != 0 then s.repeatVector i ecc else s.playCode i 1 ecc)

/-- LOOP_BEGIN (R85). -/
def execLoopBegin (e : Nat) (sl : SliceNo) (s : State) (ecc : VecEcc := ⟨.clean, .clean, []⟩) : Out := .next ((s.elapse e).playCode sl.val 2 ecc)

/-- LOOP_END (R85). -/
def execLoopEnd (e : Nat) (sl : SliceNo) (s : State) (ecc : VecEcc := ⟨.clean, .clean, []⟩) : Out := .next ((s.elapse e).playCode sl.val 3 ecc)

/-- Has every match compare of a slice that ends at or before a boundary been taken. -/
def State.comparesDone (s : State) (i b : Nat) : Bool :=
  (s.sliceChans i).all (fun c => (s.chan c).cmps.all (fun a => !(a.mtch && dtReached b a.t2)))

/-- A pass is judged over every slice of the site (R86). The slices on other devices enter by a free value: the spec
gives no message that carries their pass results. A proxy makes no jump request of its own: its home's token brings the jump. -/
def State.judgePass (s : State) (x i b : Nat) : State :=
  let u := s.slice i
  let far := s.hasProxies x || s.proxy x
  let hit := (s.slicesOf x).all (fun j => !(s.slice j).mat.miss) && (!far || s.fresh % 2 == 0)
  let s0 := if far then s.drew else s
  let w := u.mat.word
  let over_ := hit || decide (s.matchTmo i w ≤ u.mat.pass + 1)
  let req := if far then wrap64 (b + ns 280) else b
  let s1 := s0.each (s0.slicesOf x) (fun s j =>
    let v := s.slice j
    s.setSlice j { v with mat := { v.mat with pass := v.mat.pass + 1, miss := false, judge := none,
                                              decided := if over_ then some (hit, req) else none } })
  if hit && bitAt w 11 && !s.proxy x then s1.addJump x 2 req (s1.hinted i (bitsOf w 10 1)) else s1

/-- The pass of a match granule is judged where it has ended on every slice and its compares are in (R86). -/
def State.judgeDue (s : State) (i : Nat) : State :=
  let x := s.sliceSite i
  match (s.slice i).mat.judge with
  | some b =>
    if s.sliceValid i && s.reached b && (s.slicesOf x).all (fun j => (s.slice j).mat.judge == some b && s.comparesDone j b) then
      s.judgePass x i b
    else s.faultStop i
  | none => s.faultStop i

/-- MATCH (R86): on vector 63 the vector plays and its pass ends; when the compares of the pass are in, the pass is
judged. Elsewhere it acts as NEXT with BADCODE. -/
def execMatchPass (e : Nat) (sl : SliceNo) (s : State) (ecc : VecEcc := ⟨.clean, .clean, []⟩) : Out :=
  let s := s.elapse e
  .next (if s.vectorDue sl.val 4 then s.playCode sl.val 4 ecc else s.judgeDue sl.val)

/-- ALT (R87): the waveform tables switch from this vector. -/
def execAltVector (e : Nat) (sl : SliceNo) (s : State) (ecc : VecEcc := ⟨.clean, .clean, []⟩) : Out := .next ((s.elapse e).playCode sl.val 5 ecc)

/-- END (R89). -/
def execEndVector (e : Nat) (sl : SliceNo) (s : State) (ecc : VecEcc := ⟨.clean, .clean, []⟩) : Out := .next ((s.elapse e).playCode sl.val 6 ecc)

/-- CODE_7 (R82): it acts as NEXT with BADCODE, unless a patch has words in its routine (R109). -/
def execCode7 (e : Nat) (sl : SliceNo) (s : State) (ecc : VecEcc := ⟨.clean, .clean, []⟩) : Out := .next ((s.elapse e).playCode sl.val 7 ecc)

/-! ### Check points and holds (R99–R102) -/

/-- A hold message for a boundary (R100): those for one boundary merge; it goes to the slices on other devices too. -/
def State.askHold (s : State) (x b cause : Nat) : State :=
  let v := s.site x
  match v.hold with
  | some _ => s
  | none =>
    let s1 := s.setSite x { v with hold := some (b, cause) }
    if s.proxy x then s1.tokenHome x 5 b [] else s1.sendToken x 5 b []

/-- The lead slice tells the proxies what happens at a boundary: a stop there, or the jump that wins there, and the sets and period of the segment that
begins there (R104, R112, R145, R247). -/
def State.tellProxies (s : State) (i b : Nat) : State :=
  let x := s.sliceSite i
  let u := s.slice i
  if s.leadSlice x == some i then
    if s.stopDue x b then s.sendToken x 9 b []
    else match winner (s.jumpsDue i) with
    | some j =>
      let s1 := s.sendToken x 8 b [j.target]
      match s1.descFor i j.target with
      | some d => s1.tellSets x i b d none
      | none => s1
    | none =>
      match s.descFor i u.seg with
      | some d => if u.segNew then s.tellSets x i b d (u.entry.bind (fun q => q.ts)) else s
      | none => s
  else s

/-- A check point is judged. -/
def State.judged (s : State) (i b : Nat) : State := s.setSlice i { s.slice i with checked := some b }

/-- A slice of a STOPPING site has nothing left to play at boundary b: play ends there as after END, with STARVED set but at a start
instant (R89, R172). -/
def State.endQueue (s : State) (i b : Nat) : State :=
  let s1 := if (s.slice i).vidx = 0 then s else s.set F.SLP_STAT.STARVED i 1
  (s1.setSlice i { s1.slice i with endDT := some b }).finishEnd i

/-- The check point of a slice for the boundary b at which it stands (R99, R100, R106): the next queued entry is taken
where one is due, and what plays at b was present at the check point's DT, or the slice asks for a hold. A chain that ends with nothing
queued starves, or while the site is STOPPING ends play (R89, R172). -/
def State.checkPoint (s : State) (i b : Nat) : State :=
  let x := s.sliceSite i
  let c := wrap64 (b + 2 ^ 64 - s.checkLead x)
  match winner (s.jumpsDue i) with
  | some j =>
    let s1 := (s.tellProxies i b).judged i b
    if s1.targetHere i j.target c then s1 else s1.askHold x b 2
  | none =>
    let s1 := if (s.slice i).needEntry then s.popEntry i else s
    let u := s1.slice i
    if u.needEntry then
      if s1.siteState x == 5 then s1.endQueue i b else ((s1.set F.SLP_STAT.STARVED i 1).judged i b).askHold x b 3
    else
      let s2 := (s1.tellProxies i b).judged i b
      if s2.present i u.seg u.gran c then s2 else s2.askHold x b 1

/-- GRANULE_CHECK_POINT (R99, R100). -/
def execGranuleCheckPoint (e : Nat) (sl : SliceNo) (s : State) : Out :=
  let s := s.elapse e
  let i := sl.val
  let x := s.sliceSite i
  let u := s.slice i
  if s.sliceValid i && u.live && u.atGran && u.checked != some u.nextB && u.mat.judge.isNone &&
      (s.siteState x == 3 || s.siteState x == 5) && s.reached (wrap64 (u.nextB + 2 ^ 64 - s.checkLead x)) then
    .next (s.checkPoint i u.nextB)
  else .next (s.faultStop i)

/-- Do all playing slices of a site stand at granule boundary b. -/
def State.allAt (s : State) (x b : Nat) : Bool :=
  (s.slicesOf x).all (fun i => !(s.slice i).live || ((s.slice i).atGran && (s.slice i).nextB == b && (s.slice i).checked == some b))

/-- The stall of a site is recorded (R100). -/
def State.recordStall (s : State) (x seg gran cause b : Nat) : State :=
  let s1 := ((s.set F.MDR_SITE_STALL.SEG x seg).set F.MDR_SITE_STALL.GRANULE x gran).set F.MDR_SITE_STALL.CAUSE x cause
  ((s1.set F.MDR_SITE_STALL_DT.DT x b).set F.MDR_SITE_RESUME_DT.DT x 0).count F.MDR_SITE_HOLDS.COUNT
    (some F.MDR_SITE_HOLDS.OVF) x 14 1

/-- The slices of a site stop at boundary b and its stall is recorded (R100). -/
def State.holdSlices (s : State) (x b cause : Nat) : State :=
  let is := s.slicesOf x
  let u := match is.head? with | some i => s.slice i | none => {}
  let s1 := s.each (is.filter (fun i => (s.slice i).live)) (fun s i => s.stopSlice i b)
  let s2 := s1.recordStall x (if cause = 3 then u.lastSeg else u.seg) (if cause = 3 then u.lastGran else u.gran) cause b
  s2.setSite x { s2.site x with hold := none, resume := none, reports := [] }

/-- A site under STRICT that has held plays no further (R102). -/
def State.strictEnd (s : State) (x b : Nat) : State :=
  let s1 := s.each (s.slicesOf x) (fun s i => (s.setSlice i { (s.slice i).cleared with endDT := some b }).emptySlice i)
  (s1.set F.MDR_SITE_STAT.UNDERRUN x 1).setBin x 1021

/-- The hold of a site takes effect (R100–R102): HOLD, or STOPPING with bin STREAM_UNDERRUN under STRICT. A site that is
already STOPPING stays so. -/
def State.enterHold (s : State) (x b cause : Nat) : State :=
  let s1 := s.holdSlices x b cause
  let st := s1.siteState x
  if st == 5 then (if s1.strict x then s1.strictEnd x b else s1)
  else if s1.proxy x then s1.enterState x 4
  else
    let s2 := s1.enterState x 4
    if s2.strict x then
      let s3 := ((s2.answerAbort x 1).strictEnd x b).set F.MDR_SITE_STATE.OUTCOME x 2
      let s4 := (s3.stopCtx x).closeTrim x
      (s4.sendToken x 11 b [5]).enterState x 5
    else s2

/-- HOLD_RELEASE (R100). A stop at the same boundary wins (R146), and so does a jump (R104). -/
def execHoldRelease (e : Nat) (x : Site) (s : State) : Out :=
  let s := s.elapse e
  let x := x.val
  match (s.site x).hold with
  | some (b, cause) =>
    if (s.siteState x == 3 || s.siteState x == 5) && s.reached b && !s.stopDue x b && s.allAt x b &&
        (s.slicesOf x).all (fun i => (s.jumpsDue i).isEmpty) then
      .next (s.enterHold x b cause)
    else .next s
  | none => .next s

/-! ### Refill and admission (R90–R95) -/

/-- The bytes of one tile block of a segment (R91). -/
def blockBytes (len w : Nat) : Nat := if w = 0 then 0 else alignUp (4 * len * w) 64 + 128 * len * w

/-- Where the block of a tile begins (R91). -/
def Desc.block (d : Desc) (t : Nat) : Nat :=
  d.addr + (List.range t).foldl (fun a k => a + blockBytes d.len (d.width k)) 0

/-- The map entry of a column's granule (R91). -/
def State.mapEntry (s : State) (d : Desc) (t col m : Nat) : Nat := s.word false (d.block t + 4 * (col * d.len + m)) 4

/-- The 64 column-vectors of a granule's data slot (R91). -/
def State.rawWords (s : State) (d : Desc) (t col m : Nat) : List Nat :=
  let a := d.block t + alignUp (4 * d.len * d.width t) 64 + 128 * (col * d.len + m)
  (List.range 64).map (fun v => s.word false (a + 2 * v) 2)

/-- The column-vectors of a granule after its form is applied (R90). -/
def State.granWords (s : State) (d : Desc) (t col : Nat) : Nat → List Nat
  | 0 =>
    let me := s.mapEntry d t col 0
    match bitsOf me 0 2 with
    | 0 => s.rawWords d t col 0
    | 1 => List.replicate 64 (bitsOf me 16 16)
    | _ => List.replicate 64 0
  | m + 1 =>
    let me := s.mapEntry d t col (m + 1)
    match bitsOf me 0 2 with
    | 0 => s.rawWords d t col (m + 1)
    | 1 => List.replicate 64 (bitsOf me 16 16)
    | 2 => s.granWords d t col m
    | _ => List.replicate 64 0

/-- The first granule of a segment that plays again once its last has played, where its chain repeats at once. -/
def State.repeats (s : State) (i : Nat) (d : Desc) : Bool :=
  d.succ == d.seg || (d.succ == 0xFFFFFF && (match (s.slice i).entry with
    | some q => q.seg == d.seg && decide (1 < q.count)
    | none => false))

/-- The granules of a streamed segment in the order in which they play from one on, as far as the control columns in the vector store
tell: an unpinned body is fetched again for each pass that remains, a pinned one is passed over (R107). -/
def State.playOrder (s : State) (i : Nat) (d : Desc) : Nat → Nat → List LoopReg → List Nat
  | 0, _, _ => []
  | n + 1, g, open_ =>
    let loops := loopsAt open_ g (s.granWord i d.seg g 0 0)
    let w := s.granWord i d.seg g 0 63
    let on (l : List LoopReg) : List Nat :=
      if g + 1 < d.len then s.playOrder i d n (g + 1) l else if s.repeats i d then s.playOrder i d n 0 [] else []
    if d.len ≤ g then []
    else if s.hasEnd i d.seg g then [g]
    else if ctrlCode w = 3 then
      match loops.find? (fun l => l.r == bitsOf w 0 2) with
      | some l =>
        let left := if l.arrived then l.left else s.loopCount i w - 1
        if 0 < left && !pinnedBy [l] (min d.ring d.len) g then
          g :: s.playOrder i d n l.b (loops.map (fun x => if x.r == l.r then { x with arrived := true, left := left - 1 } else x))
        else g :: on (loops.filter (fun x => x.r != l.r))
      | none => g :: on loops
    else g :: on loops

/-- The granules that refill may bring into a column: all of a resident segment, two of a target, or of a streamed one the first that is
missing in the order of play, into a ring position whose granule has left play (R94–R96, R107). Between segments and slices of a tile
the order is that of the commands (notes/assumptions/92.md). -/
def State.mayRefill (s : State) (i : Nat) (d : Desc) (gran col : Nat) : Bool :=
  let u := s.slice i
  let ring := min d.ring d.len
  let own (g : Gran) : Bool := g.slice == i && g.seg == d.seg && g.col == col
  let pre (n : Nat) : Bool := d.selfTarget && decide (n < 2)
  let here := (s.grans.filter (fun g => own g && !pre g.gran)).length
  let (pos, loops) := if u.seg == d.seg && !u.needEntry then (u.gran, u.loops) else (0, [])
  decide (gran < d.len) && decide (col < d.width (i / 32)) && (s.granAt i d.seg gran col).isNone &&
    (!d.streamed || (if d.target || pre gran then decide (gran < 2)
      else decide (here < ring) &&
        (s.playOrder i d (ring + 2) pos loops).find? (fun g => !pre g && (s.granAt i d.seg g col).isNone) == some gran))

/-- The refill payload of the last 1 µs on a tile's down-link (VST_DEMAND): a map entry of 32 bits, and 1,024 bits of a
RAW granule. -/
def State.addDemand (s : State) (t bits : Nat) : State :=
  let l := ((Tab.get [] s.demand t) ++ [(s.now, bits)]).filter (fun p => !s.reached (wrap64 (p.1 + us 1)))
  let n := min 65535 (l.foldl (fun a p => a + p.2) 0 / 125)
  let s1 := { s with demand := Tab.set [] s.demand t l }
  (s1.set F.VST_DEMAND.NOW t n).set F.VST_DEMAND.PEAK t (max n (s1.get F.VST_DEMAND.PEAK t))

/-- A granule of a column comes into the vector store (R90, R95). It is read from DRAM whole at this command: what plays of a segment
whose bytes the host writes while it is admitted (R93) is the old data of some granules and the new data of others, as the
commands fall, never a mixture within one (notes/assumptions/92.md). -/
def State.refill (s : State) (i : Nat) (d : Desc) (gran col : Nat) : State :=
  let t := i / 32
  let form := bitsOf (s.mapEntry d t col gran) 0 2
  let s1 := { s with grans := s.grans ++ [(⟨i, d.seg, gran, col, s.granWords d t col gran, s.now⟩ : Gran)] }
  let s2 := if form = 3 then s1.raiseC F.VST_FAULT_STAT.MAPFORM t else s1
  let s3 := if form = 2 && gran = 0 then s2.raiseC F.VST_FAULT_STAT.COPY_FIRST t else s2
  (s3.addDemand t (if form = 0 then 1056 else 32)).seeAhead i

/-- REFILL_GRANULE_COMPLETE (R95). -/
def execRefillGranuleComplete (e : Nat) (sl : SliceNo) (seg : BitVec 24) (gran : Fin 65536) (col : Fin 64) (s : State) : Out :=
  let s := s.elapse e
  let i := sl.val
  match s.descFor i seg.toNat with
  | some d => if s.sliceValid i && s.mayRefill i d gran.val col.val then .next (s.refill i d gran.val col.val) else .next s
  | none => .next s

/-- The words of a segment's descriptor in DRAM (R92). -/
def State.descWord (s : State) (seg k : Nat) : Nat := s.word false (s.img.segtab + 32 * seg + 8 * k) 8

/-- A descriptor parsed (R92). -/
def State.readDesc (s : State) (seg : Nat) : Desc :=
  let w0 := s.descWord seg 0
  let w1 := s.descWord seg 1
  let w2 := s.descWord seg 2
  let w3 := s.descWord seg 3
  let ring := bitsOf w2 48 8
  let len := bitsOf w0 40 17
  { seg := seg, addr := bitsOf w0 0 40, len := len, streamed := bitAt w0 57, uhold := bitsOf w0 58 2,
    cols := (List.range 8).map (fun t => bitsOf w1 (6 * t) 6), tset := bitsOf w1 56 6, keep := bitAt w1 62,
    succ := bitsOf w2 0 24, jt0 := bitsOf w2 24 24, jt1 := bitsOf w3 0 24,
    ring := if ring = 0 then 16 else ring, target := false }

/-- The columns that a descriptor must give for a site on this device (R92). -/
def State.mapCols (s : State) (x t : Nat) : Nat :=
  match (s.slicesOf x).find? (fun i => i / 32 == t) with
  | some i => (s.sliceQuads i).length + 1
  | none => 0

/-- The checks of an admission (R93). -/
def State.descValid (s : State) (i seg : Nat) : Bool :=
  let d := s.readDesc seg
  let w0 := s.descWord seg 0
  let w1 := s.descWord seg 1
  let w2 := s.descWord seg 2
  let w3 := s.descWord seg 3
  let x := s.sliceSite i
  bitAt w0 63 && bitsOf w0 60 3 == 0 && bitsOf w1 48 8 == x && !bitAt w1 63 && bitsOf w2 56 8 == 0 && bitsOf w3 24 40 == 0 &&
    (List.range 8).all (fun t => d.width t == s.mapCols x t) && decide (8 ≤ d.len) && decide (d.len ≤ 65536) &&
    d.addr % 64 == 0 && (s.region 1 d.addr (d.block 8 - d.addr)).isSome

/-- A segment is admitted to a slice, or faults its site (R93, R94). -/
def State.takeIn (s : State) (i seg : Nat) (target : Bool) (ecc : Ecc) : State :=
  let t := i / 32
  let x := s.sliceSite i
  if ecc == .uncorrectable || !s.descValid i seg then s.faultSite 18 F.VST_FAULT_STAT.SEG_INVALID t x 6
  else
    let d := { s.readDesc seg with target := target && (s.readDesc seg).streamed }
    if s.get F.VST_SLOTS.FREE t < d.slots t then s.faultSite 18 F.VST_FAULT_STAT.NOSPACE t x 6
    else
      let u := s.slice i
      ((s.setSlice i { u with admitted := u.admitted ++ [d] }).useSlots i (d.slots t)).tellStart x

/-- SEGMENT_ADMISSION (R93): a segment that plays next, is queued or is a target is admitted to the slice. -/
def execSegmentAdmission (e : Nat) (sl : SliceNo) (seg : BitVec 24) (ecc : Ecc) (s : State) : Out :=
  let s := s.elapse e
  let i := sl.val
  let n := seg.toNat
  if !s.sliceValid i then .next s
  else match s.descFor i n with
    | some _ => .next (if (s.wanted i).contains n then s.widen i n else s)
    | none =>
      let ecc := s.eccAt false (s.img.segtab + 32 * n) 32 ecc
      if (s.wanted i).contains n then .next ((s.eccRaise false ecc).takeIn i n false ecc)
      else if (s.targets i).contains n then .next ((s.eccRaise false ecc).takeIn i n true ecc)
      else .next s

/-! ### Ready and resume (R101) -/

/-- The resume instant is formed once every slice and every joined device has reported (R101, R216); the HOLD trim
window closes (R214). -/
def State.formResume (s : State) (x : Nat) : State :=
  let v := s.site x
  if v.resume.isNone && (s.slicesOf x).all (fun i => (s.slice i).reported || s.get F.SLP_STAT.STATE i != 3) &&
      (s.joined x).all (fun d => v.reports.contains d) then
    let r := wrap64 (s.now + us 1)
    (s.setSite x { v with resume := some r, lastReport := s.now, trimClosed := s.now }).sendToken x 7 r []
  else s

/-- A proxy site whose slices are all ready reports to its home (R101, R247). -/
def State.proxyReport (s : State) (x : Nat) : State :=
  if (s.slicesOf x).all (fun i => (s.slice i).reported || s.get F.SLP_STAT.STATE i != 3) then s.tokenHome x 6 s.now [2] else s

/-- Is a site held in a way that can resume: HOLD, or STOPPING under TOLERANT with its slices held (R101, R102); all slices of a home
may lie on other devices. -/
def State.held (s : State) (x : Nat) : Bool :=
  (s.siteState x == 4 || (s.siteState x == 5 && !s.strict x)) &&
    ((s.slicesOf x).any (fun i => s.get F.SLP_STAT.STATE i == 3) || (s.siteState x == 4 && (s.slicesOf x).isEmpty))

/-- SLICE_READY_REPORT (R101). -/
def execSliceReadyReport (e : Nat) (sl : SliceNo) (s : State) : Out :=
  let s := s.elapse e
  let i := sl.val
  let x := s.sliceSite i
  let u := s.slice i
  if s.sliceValid i && s.held x && s.get F.SLP_STAT.STATE i == 3 && !u.reported && (s.site x).resume.isNone &&
      (s.site x).stop.isNone && s.ready i then
    let s1 := s.setSlice i { u with reported := true }
    .next (if s1.proxy x then s1.proxyReport x else s1.formResume x)
  else .next s

/-- A slice plays again from the vector at which it held (R101). -/
def State.resumeSlice (s : State) (i r : Nat) : State :=
  let u := { s.slice i with playing := true, nextB := r, checked := none, resumed := true, reported := false }
  (s.setSlice i { u with resumes := u.resumes + 1 }).set F.SLP_STAT.STATE i 2

/-- RESUME_RELEASE (R101): the slices play on, each judged as at the check point of the resume instant (R106). -/
def execResumeRelease (e : Nat) (x : Site) (s : State) : Out :=
  let s := s.elapse e
  let x := x.val
  match (s.site x).resume with
  | some r =>
    if s.held x && s.reached r && (s.site x).stop.isNone then
      let is := (s.slicesOf x).filter (fun i => s.get F.SLP_STAT.STATE i == 3)
      let s1 := s.each is (fun s i => s.resumeSlice i r)
      let s2 := (s1.set F.MDR_SITE_RESUME_DT.DT x r).setSite x { s1.site x with resume := none, reports := [] }
      let s3 := if s2.siteState x == 4 then s2.enterState x 3 else s2
      .next (s3.each is (fun s i => s.checkPoint i r))
    else .next s
  | none => .next s

/-! ### Queue entries and jumps (R103–R106, R161) -/

/-- An entry is queued in a slice at its release DT (R89, R161, R162). Play that has ended by END goes on without a gap
where the entry is released before the boundary at which it ends. -/
def State.queueEntry (s : State) (i : Nat) (q : QEntry) : State :=
  let add (s : State) : State :=
    let u := s.slice i
    (s.setSlice i { u with queue := u.queue ++ [q] }).set F.SLP_STAT.QUEUED i (u.queue.length + 1)
  match (s.slice i).endDT with
  | some b =>
    if (s.slice i).playing && !dtReached q.release b then
      (add (s.setSlice i { s.slice i with endDT := none })).set F.SLP_STAT.STATE i 2
    else add (s.finishEnd i)
  | none => add s

/-- QUEUE_ENTRY_RELEASE (R161). -/
def execQueueEntryRelease (e : Nat) (sl : SliceNo) (s : State) : Out :=
  let s := s.elapse e
  let i := sl.val
  match (s.slice i).inbound with
  | q :: r =>
    if s.sliceValid i && s.reached q.release && s.siteState (s.sliceSite i) != 7 then
      .next ((s.setSlice i { s.slice i with inbound := r }).queueEntry i q)
    else .next s
  | [] => .next s

/-- EVENT_JUMP_REQUEST (R103, R104): a firing of the lead slice's event channel reaches it. -/
def execEventJumpRequest (e : Nat) (x : Site) (s : State) : Out :=
  let s := s.elapse e
  let x := x.val
  match s.leadSlice x with
  | some i =>
    let st := s.get F.SLP_STAT.STATE i
    if s.flag F.SLP_JUMP_CFG.EN i && (st == 2 || st == 3) && s.active x then
      let req := if s.hasProxies x then wrap64 (s.now + ns 280) else s.now
      .next (s.addJump x 3 req (s.hinted i (s.get F.SLP_JUMP_CFG.HINT i)))
    else .next s
  | none => .next s

/-- The granules of a streamed segment that jumps to itself leave play, but for the two prefetched as its target's (R95, R106). -/
def State.leaveRing (s : State) (i seg : Nat) : State :=
  { s with grans := s.grans.filter (fun g => !(g.slice == i && g.seg == seg && decide (2 ≤ g.gran) &&
    (match s.descFor i seg with | some d => d.streamed | none => false))) }

/-- A slice takes an honoured jump at boundary b (R103, R105): ALT returns to primary at once. -/
def State.takeJump (s : State) (i b : Nat) (j : JumpReq) : State :=
  let u := s.slice i
  let late := match j.endV with | some v => u.vidx - v | none => 0
  let s1 := (if u.segNew || u.needEntry then s else s.reportCrc i).setAlt i 0
  let s1 := if j.target = u.seg then s1.leaveRing i u.seg else s1
  let s2 := ((s1.leaveGran i).set F.SLP_JUMPSTAT.SRC i j.src).set F.SLP_JUMP_DT.DT i b
  let s3 := s2.set F.SLP_JUMPSTAT.LATE_VEC i (min 65535 late)
  let s4 := if 0 < late then s3.set F.SLP_STAT.LATE_JUMP i 1 else s3
  s4.goSegment i j.target

/-- JUMP_HONOURED (R103–R106): a hold for another cause at the boundary is discarded, and the requests that lose set
JUMP_LOST. A stop at the boundary wins (R146). -/
def execJumpHonoured (e : Nat) (x : Site) (s : State) : Out :=
  let s := s.elapse e
  let x := x.val
  let is := (s.slicesOf x).filter (fun i => (s.slice i).live)
  match is with
  | i :: _ =>
    let b := (s.slice i).nextB
    let due := s.jumpsDue i
    match winner due with
    | some j =>
      if s.reached b && s.allAt x b && !s.stopDue x b && (s.siteState x == 3 || s.siteState x == 5) &&
          is.all (fun i => (s.slice i).mat.judge.isNone) then
        let v := s.site x
        let hold := match v.hold with
          | some (b', c) => if b' == b && c != 2 then none else some (b', c)
          | none => none
        let s1 := s.setSite x { v with jumps := v.jumps.filter (fun k => !due.contains k), hold := hold }
        let s2 := s1.each is (fun s i => s.takeJump i b j)
        .next (if 1 < due.length then s2.jumpLost x else s2)
      else .next s
    | none => .next s
  | [] => .next s

/-! ### Control-column check (R83) -/

/-- The CRCs of a segment end that come from joined devices: one from each of their slices (R76, R83). -/
def State.farCrcs (s : State) (x : Nat) : Nat :=
  ((s.site x).farSlices.filter (fun p => (s.joined x).contains p.1)).foldl (fun a p => a + p.2) 0

/-- A proxy site sends the CRC of each of its slices home (R83, R247). -/
def State.sendCrcs (s : State) (x : Nat) : State :=
  s.each (s.slicesOf x) (fun s i => match (s.slice i).crcEnd with
    | some (seg, crc) => (s.setSlice i { s.slice i with crcEnd := none }).tokenHome x 15 0 [seg, crc]
    | none => s)

/-- A home site compares the CRCs of its slices and of its joined devices (R83). CTRL_DIVERGE is set in the tiles of its slices that differ
from the first of all, else in the tile of its first slice, or in tile 0 where it has none (notes/assumptions/93.md). -/
def State.judgeCrcs (s : State) (x : Nat) : State :=
  let is := s.slicesOf x
  let n := s.farCrcs x
  let all := is.filterMap (fun i => (s.slice i).crcEnd) ++ (s.site x).crcs.take n
  let first := all.headD (0, 0)
  let bad := is.filter (fun i => (s.slice i).crcEnd != some first)
  let s1 := s.each is (fun s i => s.setSlice i { s.slice i with crcEnd := none })
  let s2 := s1.setSite x { s1.site x with crcs := (s1.site x).crcs.drop n }
  if all.all (fun p => p == first) then s2
  else (s2.each (if bad.isEmpty then [is.headD 0] else bad) (fun s i =>
    s.raiseU 19 F.SLP_FAULT_STAT.CTRL_DIVERGE (i / 32))).siteFault x 6

/-- CTRL_CRC_REPORT (R83): a proxy site sends its CRCs home; a home site compares all that have come. -/
def execCtrlCrcReport (e : Nat) (x : Site) (s : State) : Out :=
  let s := s.elapse e
  let x := x.val
  let is := s.slicesOf x
  let n := s.farCrcs x
  if !is.all (fun i => (s.slice i).crcEnd.isSome) then .next s
  else if s.proxy x then .next (s.sendCrcs x)
  else if (!is.isEmpty || n != 0) && decide (n ≤ (s.site x).crcs.length) then .next (s.judgeCrcs x)
  else .next s

/-! ### Slice-player registers (R85, R86, R99) -/

/-- The slices that take a value written through slice i: every slice of its site on the device. -/
def State.siblings (s : State) (i : Nat) : List Nat := if s.sliceValid i then s.slicesOf (s.sliceSite i) else [i]

/-- A write to SLP_JUMP_CFG. -/
def State.writeJumpCfg (s : State) (i v : Nat) : State :=
  let st := s.siteState (s.sliceSite i)
  if s.sliceValid i && (st == 1 || st == 6) then
    s.each (s.siblings i) (fun s j =>
      ((s.set F.SLP_JUMP_CFG.EVCH j (bitsOf v 0 8)).set F.SLP_JUMP_CFG.EN j (bitsOf v 8 1)).set F.SLP_JUMP_CFG.HINT j (bitsOf v 9 1))
  else s

/-- SLP_JUMP_CFG_WRITE (R99). -/
def execSlpJumpCfgWrite (e : Nat) (sl : SliceNo) (v : Word32) (s : State) : Out :=
  .next ((s.elapse e).writeJumpCfg sl.val v.toNat)

/-- Does the state of a slice's site accept a preset (R85, R86). -/
def State.presetOk (s : State) (i : Nat) : Bool := !s.sliceValid i || s.settable (s.sliceSite i)

/-- A write to SLP_LOOPPRE. -/
def State.writeLooppre (s : State) (i r v : Nat) : State :=
  if s.presetOk i then s.each (s.siblings i) (fun s j => s.set F.SLP_LOOPPRE.COUNT (4 * j + r) v) else s

/-- SLP_LOOPPRE_WRITE (R85). -/
def execSlpLooppreWrite (e : Nat) (sl : SliceNo) (r : Fin 4) (v : Word32) (s : State) : Out :=
  .next ((s.elapse e).writeLooppre sl.val r.val v.toNat)

/-- A write to SLP_MATCH_TMO. -/
def State.writeMatchTmo (s : State) (i v : Nat) : State :=
  if s.presetOk i then s.each (s.siblings i) (fun s j => s.set F.SLP_MATCH_TMO.PASSES j (bitsOf v 0 24)) else s

/-- SLP_MATCH_TMO_WRITE (R86). -/
def execSlpMatchTmoWrite (e : Nat) (sl : SliceNo) (v : Word32) (s : State) : Out :=
  .next ((s.elapse e).writeMatchTmo sl.val v.toNat)

end Sys2Proof.Machine
end

