-- ==== Sys2Proof/Machine/Sites.lean ====
section
/-! DEFINITION. Sites (spec/04_sites.md): arming, aborting, acknowledging and resetting a site, its stale check, start
instant and end of test, and the join of a proxy. -/

namespace Sys2Proof.Machine

/-! ### Arming (R72, R74) -/

/-- Where a program directory entry lies (R152). -/
def State.dirAddr (s : State) (x prog : Nat) : Nat := s.get F.MDR_STEP_PDIR.ADDR 0 + 524288 * x + 8 * prog

/-- A program directory entry; with an uncorrectable error it is treated as WORDS = 0 (R152, R327). -/
def State.dirEntry (s : State) (x prog : Nat) : Nat :=
  if s.eccBad false (s.dirAddr x prog) 8 then 0 else s.word false (s.dirAddr x prog) 8

/-- A directory entry that an ARM has read reports its error (R327). -/
def State.dirSeen (s : State) (x prog : Nat) : State :=
  if s.eccBad false (s.dirAddr x prog) 8 then s.eccRaise false .uncorrectable else s

/-- The call stack, the general registers and the flags of a context at ARM (R155). -/
def State.clearCtx (s : State) (x : Nat) : State :=
  let s1 := s.each (List.range 16) (fun s n =>
    s.set F.MDR_STEP_G.VALUE (16 * x + n) (if n < 4 then s.get F.MDR_STEP_ARG.VALUE (4 * x + n) else 0))
  let s2 := s1.each (List.range 8) (fun s w => s.set F.MDR_STEP_EVL.CH (8 * x + w) 0)
  [F.MDR_STEP_STAT.Z, F.MDR_STEP_STAT.L, F.MDR_STEP_STAT.T, F.MDR_STEP_STAT.TRAP_ACTIVE, F.MDR_STEP_STAT.TRAP_PEND,
    F.MDR_STEP_STAT.DEPTH, F.MDR_STEP_BIN.VALID].foldl (fun s f => s.set f x 0) s2

/-- A context is loaded at a program's entry (R72, R155). -/
def State.loadCtx (s : State) (x prog : Nat) : State :=
  let d := s.dirEntry x prog
  let s1 := (((s.clearCtx x).set F.MDR_STEP_PC.PC x 0).set F.MDR_STEP_PC.PROG_ID x prog).set F.MDR_STEP_STAT.STATE x 1
  s1.setCtx x { base := bitsOf d 3 37 * 8, words := bitsOf d 40 21, hot := bitAt d 0, syncDT := (s.ctx x).syncDT,
                startInst := (s.ctx x).startInst }

/-- A site sends its entry to a state to its proxies (R77, R247). -/
def State.tellState (s : State) (x c : Nat) : State := s.sendToken x 11 (wrap64 (s.now + s.img.leadHop)) [c]

/-- A site sends its entry to ARMED to its proxies, whose groups are then admitted (R77, R247). -/
def State.tellArmed (s : State) (x : Nat) : State := s.tellState x 2

/-- Armed sites enter the ladder as one request of all their groups, in ascending order (R39, R41, R74). -/
def State.enterLadder (s : State) (xs : List Nat) : State :=
  let s1 := s.each xs (fun s y =>
    let u := s.site y
    let g := if u.fromIdle then dtMax s.now (wrap64 (u.armDT + us 1)) else s.now
    (s.setSite y { u with entered := true, reqDT := s.now, groupsAt := g, ready := none, start := none }).set
      F.MDR_SITE_STATE.ALIGN_WAIT y 0)
  s1.askSites xs ((List.range 64).filter (fun g => xs.any (fun y => (s1.siteGroups y).contains g)))

/-- The members of an aligned set enter the ladder once every present member waits in ARMED (R74). -/
def State.alignedSet (s : State) (x : Nat) : State :=
  let ms := s.alignSet x
  if ms.all (fun y => s.siteState y == 2 && s.flag F.MDR_SITE_STATE.ALIGN_WAIT y) then s.enterLadder ms else s

/-- A slice of an armed site waits for its start instant. -/
def State.readySlice (s : State) (i : Nat) : State :=
  let s1 := s.setSlice i { (s.slice i).cleared with endDT := none, crcEnd := none, reported := false }
  (s1.set F.SLP_STAT.STATE i 1).set F.SLP_STAT.QUEUED i 0

/-- The result of an ARM (R68, R70, R75, R152). -/
def State.armCode (s : State) (x prog : Nat) : Nat :=
  if s.proxy x then 5
  else if s.isSafe then 3
  else if s.siteState x != 1 && s.siteState x != 6 then 2
  else if bitsOf (s.dirEntry x prog) 40 21 = 0 then 4
  else 1

/-- What an accepted ARM with a start request does (R72): the trim window closes, the context is loaded, the groups are queued. A site with a
FAILED group faults at once (R375). -/
def State.armAccepted (s : State) (x prog req : Nat) : State :=
  let u := s.site x
  let s0 := if s.asleep x then s.unsleep x else s
  let s1 := s0.setSite x { u with
    reqStart := if req = 0 then wrap64 (s.now + s.lead x) else req, armDT := s.now, fromIdle := s.siteState x == 1,
    entered := false, ready := none, start := none, proxyReady := [], first := true, completed := false, restart := false,
    stop := none, hold := none, resume := none, jumps := [], tsImm := [], tsQueued := none, endReports := [], crcs := [],
    reports := [], trimClosed := s.now, waitGroups := [], toldStart := false, farSent := 0, stopped := false }
  let s2 := (s1.each (s1.slicesOf x) (fun s i => s.readySlice i)).loadCtx x prog
  let s3 := ((s2.set F.MDR_SITE_STATE.OUTCOME x 0).enterState x 2).tellArmed x
  if (s3.siteGroups x).any (fun g => s3.group g == 6) then s3.siteFault x 2
  else if s3.aligned x then (s3.set F.MDR_SITE_STATE.ALIGN_WAIT x 1).alignedSet x
  else s3.enterLadder [x]

/-- An ARM of a site is accepted or refused. -/
def State.armSite (s : State) (x prog : Nat) : State :=
  let r := s.armCode x prog
  if r = 1 then (s.answer x 1).armAccepted x prog (s.get F.MDR_SITE_START_REQ.DT x)
  else (if r = 4 then s.dirSeen x prog else s).answer x r

/-- A command written while another is processed is refused with result 7 (R79). -/
def State.siteCmd (s : State) (x : Nat) (f : State → State) : State :=
  if s.flag F.MDR_SITE_CMD_RES.BUSY x then s.set F.MDR_SITE_CMD_RES.RESULT x 7 else f s

/-- SITE_ARM (R72). -/
def execSiteArm (e : Nat) (x : Site) (prog : BitVec 16) (s : State) : Out :=
  .next ((s.elapse e).siteCmd x.val (fun s => s.armSite x.val prog.toNat))

/-! ### Abort, acknowledge, reset (R68, R78, R79, R170) -/

/-- The result of an ABORT that is settled without the context: 0 where the context settles it, also one that comes before the
boundary of a pending fail stop (R68, R75, R170). A program that stopped in ARMED has completed (R69). -/
def State.abortCode (s : State) (x : Nat) : Nat :=
  let st := s.siteState x
  if s.proxy x then 5
  else if (st == 5 || st == 6) && s.get F.MDR_SITE_STATE.OUTCOME x == 1 || st == 2 && (s.site x).completed then 6
  else if st == 2 || st == 3 || st == 4 || st == 5 && (s.site x).ctxStop then 0
  else 2

/-- An ABORT written to a site: the context settles it, and the result follows (R170). -/
def State.abortSite (s : State) (x : Nat) : State :=
  let r := s.abortCode x
  if r = 0 then
    ((s.set F.MDR_SITE_CMD_RES.BUSY x 1).set F.MDR_SITE_CMD_RES.RESULT x 0).setSite x { s.site x with abortPend := true, abortReg := true }
  else s.answer x r

/-- SITE_ABORT (R170). -/
def execSiteAbort (e : Nat) (x : Site) (s : State) : Out := .next ((s.elapse e).siteCmd x.val (fun s => s.abortSite x.val))

/-- The result of an ACK (R68, R75). -/
def State.ackCode (s : State) (x : Nat) : Nat := if s.proxy x then 5 else if s.siteState x == 6 then 1 else 2

/-- A DONE site returns to IDLE. -/
def State.ackDone (s : State) (x : Nat) : State := (s.enterState x 1).tellState x 1

/-- An ACK returns a DONE site to IDLE. -/
def State.ackSite (s : State) (x : Nat) : State :=
  let r := s.ackCode x
  if r = 1 then (s.answer x 1).ackDone x else s.answer x r

/-- SITE_ACK (R68). -/
def execSiteAck (e : Nat) (x : Site) (s : State) : Out := .next ((s.elapse e).siteCmd x.val (fun s => s.ackSite x.val))

/-- The result of a RESET (R68, R78). -/
def State.resetCode (s : State) (x : Nat) : Nat :=
  let c := s.get F.MDR_SITE_FCAUSE.CAUSE x
  if s.siteState x == 0 then 2
  else if s.proxy x && !(s.siteState x == 7 && (c == 3 || c == 4)) then 5
  else 1

/-- A RESET is accepted for a release DT of now plus the site's lead, and carried to the proxies (R78). -/
def State.resetSite (s : State) (x : Nat) : State :=
  let r := s.resetCode x
  if r = 1 then
    let d := wrap64 (s.now + s.lead x)
    (((s.set F.MDR_SITE_CMD_RES.BUSY x 1).set F.MDR_SITE_CMD_RES.RESULT x 0).setSite x
      { s.site x with resetAt := some d, resetReg := true }).sendToken x 12 d []
  else s.answer x r

/-- SITE_RESET (R78). -/
def execSiteReset (e : Nat) (x : Site) (s : State) : Out := .next ((s.elapse e).siteCmd x.val (fun s => s.resetSite x.val))

/-- The counters and the first-fail capture of a site on this device are cleared (R142). -/
def State.clearFails (s : State) (x : Nat) : State :=
  let s1 := s.clearFields x [F.SEP_CAP_FAILS.COUNT, F.SEP_CAP_FAILS.OVF, F.SEP_CAP_FF_DT.DT, F.SEP_CAP_STAT.FF_VALID,
    F.SEP_CAP_STAT.FF_MULTI, F.SEP_CAP_STAT.STOPPED, F.SEP_CAP_STAT.LIMIT_HIT, F.SEP_CAP_STAT.LOGMAX_HIT,
    F.SEP_CAP_STAT.LOST_ANY, F.SEP_CAP_STOP_DT.DT, F.SEP_CAP_LOST.COUNT, F.SEP_CAP_LOST.OVF, F.SEP_CAP_LOGGED.COUNT,
    F.SEP_CAP_LOGGED.OVF]
  let s2 := s1.each (List.range 4) (fun s n => s.set F.SEP_CAP_FF_REC.DATA (4 * x + n) 0)
  let s3 := s2.each (s2.slicesOf x) (fun s i => (s.clearFields i [F.SEP_CMP_SLICE_FAILVEC.COUNT, F.SEP_CMP_SLICE_FAILVEC.OVF,
    F.SEP_CMP_SLICE_FAILS.COUNT, F.SEP_CMP_SLICE_FAILS.OVF]).setSlice i { s.slice i with failAdd := 0, verdicts := [] })
  s3.each (s3.siteChans x) (fun s c => s.clearFields c [F.SEP_CMP_CH_FAILS.COUNT, F.SEP_CMP_CH_FAILS.OVF])

/-- The acquisition record counts of a test are cleared (spec/09_acquisition.md, SEP_ACQ_LOST). -/
def State.clearAcqCounts (s : State) (x : Nat) : State :=
  s.clearFields x [F.SEP_ACQ_LOST.COUNT, F.SEP_ACQ_LOST.OVF, F.SEP_ACQ_LOGGED.COUNT, F.SEP_ACQ_LOGGED.OVF]

/-- A slice at a site reset: its queue, player and vector time are cleared, and every per-slice SLP field but the RW ones
goes to its reset value (R78). -/
def State.resetSlice (s : State) (i : Nat) : State :=
  let s1 := (s.idleSlice i s.now).forceMasks i
  let s2 := s1.clearFields i [F.SLP_STAT.STATE, F.SLP_STAT.ALT, F.SLP_STAT.LATE_JUMP, F.SLP_STAT.JUMP_LOST,
    F.SLP_STAT.MATCH_TMO, F.SLP_STAT.STARVED, F.SLP_STAT.MATCH_WAIT, F.SLP_STAT.LOOPS, F.SLP_STAT.QUEUED, F.SLP_POS.SEG,
    F.SLP_POS.GRANULE, F.SLP_POS.VEC, F.SLP_VCOUNT.COUNT, F.SLP_VCOUNT.OVF, F.SLP_JUMPSTAT.LATE_VEC, F.SLP_JUMPSTAT.SRC,
    F.SLP_JUMP_DT.DT, F.SLP_CTRLCRC.CRC, F.WOD_SLICE_BOUNDARY.DT, F.WOD_SLICE_TS.ALT_ACTIVE]
  let u := s2.slice i
  (s2.dropAll i).setSlice i { staged := u.staged, lostBefore := u.lostBefore }

/-- The step context of a site at a site reset: every MDR_STEP field that software cannot write goes to its reset
value (R78). -/
def State.resetCtx (s : State) (x : Nat) : State :=
  let s1 := s.clearFields x [F.MDR_STEP_STAT.STATE, F.MDR_STEP_STAT.Z, F.MDR_STEP_STAT.L, F.MDR_STEP_STAT.T,
    F.MDR_STEP_STAT.TRAP_ACTIVE, F.MDR_STEP_STAT.TRAP_PEND, F.MDR_STEP_STAT.DEPTH, F.MDR_STEP_STAT.SAT,
    F.MDR_STEP_STAT.BIN_REJ, F.MDR_STEP_STAT.LATE_START, F.MDR_STEP_STAT.RESTART, F.MDR_STEP_STAT.JUMP_IDLE,
    F.MDR_STEP_PC.PC, F.MDR_STEP_PC.PROG_ID, F.MDR_STEP_FAULT.CODE, F.MDR_STEP_FAULT.PC, F.MDR_STEP_BIN.BIN,
    F.MDR_STEP_BIN.VALID, F.MDR_STEP_EVDT.DT, F.MDR_STEP_SVC_RES.RESULT, F.MDR_STEP_EVSTAT.OVERRUN, F.MDR_STEP_TRIM.DT]
  let s2 := s1.each (List.range 16) (fun s n =>
    (s.set F.MDR_STEP_G.VALUE (16 * x + n) 0).set F.MDR_STEP_STACK.INDEX (16 * x + n) 0)
  (s2.each (List.range 8) (fun s w => s.set F.MDR_STEP_EVL.CH (8 * x + w) 0)).setCtx x {}

/-- The results of a measurement unit are cleared (R195, R197). -/
def State.clearMeas (s : State) (c : Nat) : State :=
  [F.TIA_CH_STAT.INCOMPLETE, F.TIA_CH_STAT.STALE, F.TIA_CH_STAT.OVF, F.TIA_CH_COUNT.SAMPLES, F.TIA_CH_COUNT.OUTSIDE,
    F.TIA_CH_COUNT.OUT_OVF, F.TIA_CH_SUM.VALUE, F.TIA_CH_MIN.VALUE, F.TIA_CH_MAX.VALUE, F.TIA_CH_MEAN.VALUE,
    F.TIA_CH_SD.VALUE, F.TIA_CH_M2.VALUE, F.TIA_CH_AUX.VALUE].foldl (fun s f => s.set f c 0) s

/-- A site reset disarms every acquisition unit of the site and discards a record in collection, a record that moves being
kept (R185); its measurement units return to IDLE with their results cleared (R197). -/
def State.resetUnits (s : State) (x : Nat) : State :=
  s.each (s.siteChans x) (fun s c =>
    let s1 := match s.get F.SEP_ACQ_CH_STAT.STATE c with
      | 0 => s.setAcqU c { s.acqU c with forceAt := [], disarmAt := [] }
      | 4 => (s.disarmUnit c).setAcqU c { (s.disarmUnit c).acqU c with forceAt := [], disarmAt := [] }
      | _ => (s.set F.SEP_ACQ_CH_STAT.STATE c 0).setAcqU c {}
    let s2 := ((s1.clearMeas c).set F.TIA_CH_START_DT.DT c 0).set F.TIA_CH_DONE_DT.DT c 0
    (s2.set F.TIA_CH_STAT.STATE c 0).setTiaU c {})

/-- What a site reset does (R78). The join record stays, so a proxy joins again only after a refused or broken join. -/
def State.resetNow (s : State) (x : Nat) : State :=
  let s1 := (((((s.answerAbort x 2).stopCtx x).closeTrim x).withdrawLadder x).resetUnits x).safSiteReset x
  let s2 := ((s1.each (s1.slicesOf x) (fun s i => s.resetSlice i)).resetCtx x).clearFails x
  let s3 := (s2.clearAcqCounts x).clearFields x [F.MDR_SITE_STALL.SEG, F.MDR_SITE_STALL.GRANULE, F.MDR_SITE_STALL.CAUSE,
    F.MDR_SITE_STALL_DT.DT, F.MDR_SITE_RESUME_DT.DT, F.MDR_SITE_HOLDS.COUNT, F.MDR_SITE_HOLDS.OVF, F.MDR_SITE_FCAUSE.CAUSE,
    F.MDR_SITE_STATE.ALIGN_WAIT]
  let u := s3.site x
  let c := s.get F.MDR_SITE_FCAUSE.CAUSE x
  let rejoin := s.siteState x == 7 && (c == 3 || c == 4)
  let s4 := s3.setSite x { resetAt := none, abortAns := u.abortAns, trimClosed := u.trimClosed, trimOpen := u.trimOpen, refl := u.refl,
                           joinSent := u.joinSent && !rejoin, farSlices := u.farSlices }
  let s5 := (s4.set F.MDR_SITE_STATE.OUTCOME x 3).enterState x 1
  if u.resetReg then s5.answer x 1 else s5.set F.MDR_SITE_CMD_RES.BUSY x 0

/-- SITE_RESET_RELEASE (R78). -/
def execSiteResetRelease (e : Nat) (x : Site) (s : State) : Out :=
  let s := s.elapse e
  let x := x.val
  if s.due (s.site x).resetAt && s.siteState x != 0 then .next (s.resetNow x) else .next s

/-! ### Stale check and start (R40, R41, R68, R72) -/

/-- A site goes back from ARMED to IDLE because the stale check failed (R72, R74). -/
def State.unarm (s : State) (x : Nat) : State :=
  let s0 := s.each (s.siteChans x) (fun s c => s.endMeas c)
  let s1 := ((s0.answerAbort x 2).stopCtx x).set F.MDR_SITE_STAT.STALE_REJ x 1
  let s2 := s1.each (s1.slicesOf x) (fun s i =>
    ((s.setSlice i (s.slice i).cleared).set F.SLP_STAT.STATE i 0).set F.SLP_STAT.QUEUED i 0)
  let u := s2.site x
  let s3 := (s2.setSite x { u with entered := false, alignKept := false, ready := none, start := none, waitGroups := [],
                                   completed := false, tsImm := [], tsQueued := none }).set F.MDR_SITE_STATE.ALIGN_WAIT x 0
  (s3.tellState x 1).enterState x 1

/-- Did the stale check of a home site fail: a channel of its own or of a joined device is STALE (R72). -/
def State.staleFails (s : State) (y : Nat) : Bool :=
  s.siteState y == 2 && bitAt (s.get F.SMAP_SITE.FLAGS y) 2 && (s.staleSite y || (s.site y).proxyReady.any (fun p => p.2.1 != 0))

/-- STALE_CHECK (R72, R74): at the ready DT. A proxy site reports its ready DT and stale result to its home. -/
def execStaleCheck (e : Nat) (x : Site) (s : State) : Out :=
  let s := s.elapse e
  let x := x.val
  let u := s.site x
  if s.siteState x == 2 && u.entered && u.start.isNone && s.due u.ready then
    if s.proxy x then
      if u.checkedStale then .next s
      else .next ((s.setSite x { u with checkedStale := true }).tokenHome x 6 (u.ready.getD 0) [ofBool (s.staleSite x)])
    else
      let ms := s.members x
      if ms.any (fun y => s.staleFails y) then
        .next (s.each (ms.filter (fun y => s.siteState y == 2)) (fun s y => s.unarm y))
      else .next (s.formStart x)
  else .next s

/-- A slice starts at a start instant: its vector time begins with its first queued entry (R22, R89, R111). -/
def State.startSlice (s : State) (i st : Nat) : State :=
  let s1 := s.finishEnd i
  let u := s1.slice i
  let s2 := s1.setSlice i { u with
    playing := true, needEntry := true, entry := none, nextB := st, prevB := st, vidx := 0, vec := 0, repLeft := 0,
    endDT := none, checked := none, loops := [], mat := {}, resumed := false, lastSeg := 0xFFFFFF, lastGran := 0, segEnd := none,
    again := false, missed := none, lastCyc := none }
  ((s2.set F.SLP_STAT.STATE i 2).set F.SLP_VCOUNT.COUNT i 0).set F.SLP_VCOUNT.OVF i 0

/-- Every slice of a site starts, and is judged as at a check point: absent data hold it at the start instant
(R89, R100). The sample intervals of its units are counted from it (R184). -/
def State.startSlices (s : State) (x st : Nat) : State :=
  let is := s.slicesOf x
  let s1 := s.each is (fun s i => s.startSlice i st)
  let s2 := s1.each (s1.siteChans x) (fun s c => s.setAcqU c { s.acqU c with nextSample := 0 })
  s2.each is (fun s i => s.checkPoint i st)

/-- A site starts its test (R40, R68, R69): RUNNING, or STOPPING where the program has already stopped. -/
def State.startTest (s : State) (x st : Nat) : State :=
  let u := s.site x
  let s0 := s.setPlan x { s.plan x with copied := 0 }
  let s1 := ((s0.clearFails x).clearAcqCounts x).set F.MDR_SITE_START_DT.DT x st
  let s2 := (s1.set F.PWR_SLIP.SLIP x (wrap64 (st + 2 ^ 64 - u.startMin))).setCtx x { s1.ctx x with startInst := st }
  let s3 := (s2.setSite x { u with start := none, first := false, entered := false, alignKept := false }).enterState x 3
  let s4 := if u.completed then ((s3.set F.MDR_SITE_STATE.OUTCOME x 1).enterState x 5).tellState x 5 else s3
  s4.startSlices x st

/-- START_INSTANT (R68): the start of a test, or a later start instant of R162. -/
def execStartInstant (e : Nat) (x : Site) (s : State) : Out :=
  let s := s.elapse e
  let x := x.val
  match (s.site x).start with
  | some st =>
    if !s.reached st then .next s
    else if s.siteState x == 2 then .next (s.startTest x st)
    else if s.siteState x == 3 || s.siteState x == 5 then
      let s1 := (s.setSite x { s.site x with start := none, restart := false }).setCtx x { s.ctx x with startInst := st }
      .next (s1.startSlices x st)
    else .next s
  | none => .next s

/-! ### The end of a test (R68, R189) -/

/-- Has a slice ended play, with none of its site's records staged. -/
def State.sliceDone (s : State) (i : Nat) : Bool :=
  let u := s.slice i
  u.staged.isEmpty && (s.due u.endDT || (!u.playing && (s.get F.SLP_STAT.STATE i == 0 || s.get F.SLP_STAT.STATE i == 1)))

/-- Have the slices on other devices ended play, with their counts and records at home: the spec gives no message that says so, so
it is a free value (notes/assumptions/89.md). -/
def State.farDone (s : State) (x : Nat) : Bool := !s.hasProxies x || s.fresh % 2 == 0

/-- Has a site nothing more to finish (R68, R189). -/
def State.siteFinished (s : State) (x : Nat) : Bool :=
  (s.slicesOf x).all (fun i => s.sliceDone i) && (s.site x).start.isNone && !(s.site x).ctxStop && s.farDone x &&
    (s.siteChans x).all (fun c => !(s.get F.SEP_ACQ_CH_STAT.STATE c == 3 || s.get F.SEP_ACQ_CH_STAT.STATE c == 4))

/-- The state after a free value was drawn about slices on other devices. -/
def State.drewFar (s : State) (x : Nat) : State := if s.hasProxies x then s.drew else s

/-- A site leaves STOPPING for DONE: every slice takes its idle levels (R68, R102), unless an idle waveform cannot be read (R133). -/
def State.completeTest (s : State) (x : Nat) : State :=
  let s1 := s.each (s.slicesOf x) (fun s i =>
    (if s.get F.SLP_STAT.STATE i == 3 then s.idleSlice i s.now else s.finishEnd i).idleFault i)
  if s1.siteState x == 7 then s1 else (s1.tellState x 6).enterDone x

/-- STOPPING_COMPLETE (R68). -/
def execStoppingComplete (e : Nat) (x : Site) (s : State) : Out :=
  let s := s.elapse e
  let x := x.val
  if s.siteState x == 5 && !s.proxy x then .next (if s.siteFinished x then (s.drewFar x).completeTest x else s.drewFar x)
  else .next s

/-! ### Joins (R76, R239) -/

/-- JOIN_SEND (R76). -/
def execJoinSend (e : Nat) (x : Site) (s : State) : Out :=
  let s := s.elapse e
  let x := x.val
  if s.running && s.proxy x && s.siteState x == 1 && !(s.site x).joinSent &&
      (s.carrier (s.get F.SMAP_SITE.HOME_DEV x)).isSome then
    .next ((s.setSite x { s.site x with joinSent := true }).tokenHome x 1 0
      [x, s.get F.SMAP_SITE.TILES x, s.get F.SMAP_SITE.QUADS x])
  else .next s

end Sys2Proof.Machine
end

