-- ==== Sys2Proof/Machine/Timing.lean ====
section
/-! DEFINITION. Periods, timing sets and waveforms (spec/06_timing_waveforms.md): waveform accesses, period and set
writes, drive events and immediate timing-set changes. -/

namespace Sys2Proof.Machine

/-! ### Waveform accesses (R131–R133, R376) -/

/-- The channel that WOD_WF_SEL names in tile t. -/
def State.wfChan (s : State) (t : Nat) : Nat := 128 * t + s.get F.WOD_WF_SEL.CH t

/-- The entry that WOD_WF_DATA holds. -/
def State.wfData (s : State) (t : Nat) : WaveEntry :=
  ⟨s.get F.WOD_WF_DATA.DATA (3 * t), s.get F.WOD_WF_DATA.DATA (3 * t + 1), s.get F.WOD_WF_DATA.DATA (3 * t + 2)⟩

/-- The period in force of a channel's slot; 0 where the channel has no slice (R132). -/
def State.slotPeriod (s : State) (c slot : Nat) : Nat :=
  match s.chanSlice c with
  | some i => s.setPeriodOf i slot
  | none => 0

/-- The first waveform of a slot, and the rule of R117 it breaks, once entry w holds d: d itself, then every waveform that
uses a time word of entry w (R132). -/
def State.writeBreaks (s : State) (c slot w : Nat) (d : WaveEntry) : Option (Nat × Nat) :=
  let entry (k : Nat) : WaveEntry := if k = w then d else s.waveAt c slot k
  let p := s.slotPeriod c slot
  let check (k : Nat) : Option (Nat × Nat) :=
    let r := (entry k).broken (slotTime entry) p
    if r = 0 then none else some (r, k)
  (w :: (List.range 16).filter (fun k => k != w && ((entry k).uses (2 * w) || (entry k).uses (2 * w + 1)))).findSome? check

/-- A waveform access starts: what its result will be is judged as the GO write arrives (R131, R132, R376). -/
def State.startAccess (s : State) (t op : Nat) : State :=
  if s.get F.WOD_WF_RES.RESULT t = 1 then s
  else
    let c := s.wfChan t
    let slot := s.get F.WOD_WF_SEL.SLOT t
    let w := s.get F.WOD_WF_SEL.WF t
    let acc : WfAccess := ⟨op, s.now, 2, 0, 0⟩
    let acc := if op = 2 then
        (if !s.chanSettable c then { acc with result := 3 }
         else match s.writeBreaks c slot w (s.wfData t) with
          | some (r, k) => { acc with result := 4, reason := r, wf := k }
          | none => acc)
      else acc
    ({ s with wfAcc := Tab.set none s.wfAcc t (some acc) }).set F.WOD_WF_RES.RESULT t 1

/-- A write to WOD_WF_CMD. OP 0 and 3 name no access: such a GO is ignored (notes/assumptions/94.md). -/
def State.wfCmd (s : State) (t v : Nat) : State :=
  if bitAt v 31 && (bitsOf v 0 2 == 1 || bitsOf v 0 2 == 2) then s.startAccess t (bitsOf v 0 2) else s

/-- WAVEFORM_READ (R131). -/
def execWaveformRead (e : Nat) (t : Tile) (s : State) : Out := .next ((s.elapse e).wfCmd t.val 0x80000001)

/-- WAVEFORM_WRITE (R132). -/
def execWaveformWrite (e : Nat) (t : Tile) (s : State) : Out := .next ((s.elapse e).wfCmd t.val 0x80000002)

/-- A waveform entry is written. -/
def State.setWave (s : State) (c slot w : Nat) (d : WaveEntry) : State :=
  let k := waveKey c slot w
  { s with wave := Tab.set none s.wave k (some d), waveBad := s.waveBad.filter (fun n => n / 3 != k) }

/-- A channel at rest follows its idle waveform (R125, R126): a waveform that is rewritten changes the level of an idle channel and of
one held by the idle-waveform policy. -/
def State.relevel (s : State) (c : Nat) : State :=
  match s.chanSlice c with
  | some i =>
    let st := s.siteState (s.sliceSite i)
    if (s.slice i).playing || s.busMode c then s
    else if st == 1 || st == 6 then s.setLevel c (s.idleLevel c) s.now
    else if st == 7 then s.setLevel c (s.holdLevel c (s.slice i).uhold) s.now
    else s
  | none => s

/-- WOD_WF_DATA takes an entry. -/
def State.setWfData (s : State) (t : Nat) (d : WaveEntry) : State :=
  ((s.set F.WOD_WF_DATA.DATA (3 * t) d.word).set F.WOD_WF_DATA.DATA (3 * t + 1) d.t0).set F.WOD_WF_DATA.DATA (3 * t + 2) d.t1

/-- An entry is read: each of its words has its own ECC finding, and one that kept an error keeps it (R133). -/
def State.readEntry (s : State) (t c k : Nat) (e : Ecc × Ecc × Ecc) : State :=
  let one (s : State) (n : Nat) (f : Ecc) : State :=
    match f with
    | .clean => s
    | .corrected => s.raiseC F.WOD_FAULT_STAT.WF_CORR t
    | .uncorrectable => { s with waveBad := if s.waveBad.contains (3 * k + n) then s.waveBad else s.waveBad ++ [3 * k + n] }
  let s1 := one (one (one s 0 e.1) 1 e.2.1) 2 e.2.2
  let d := s.waveAt c (k % 1024 / 16) (k % 16)
  let word (n v : Nat) : Nat := if s1.badWord k n then Config.freeValue (s.free + n) else v
  let s2 := (s1.setWfData t ⟨word 0 d.word, word 1 d.t0, word 2 d.t1⟩).drew.drew.drew
  if !(s1.badWord k 0 || s1.badWord k 1 || s1.badWord k 2) then s2
  else match s2.chanSite c with
  | some x => s2.faultSite 20 F.WOD_FAULT_STAT.WF_UNCORR t x 6
  | none => s2.raiseU 20 F.WOD_FAULT_STAT.WF_UNCORR t

/-- The effect of a waveform access that was not refused. The data that a read returns of a word with an uncorrectable error are free
values, and the channel's site faults, where it has one (R133). -/
def State.doAccess (s : State) (t op : Nat) (ecc : Ecc × Ecc × Ecc) : State :=
  let c := s.wfChan t
  let slot := s.get F.WOD_WF_SEL.SLOT t
  let w := s.get F.WOD_WF_SEL.WF t
  let k := waveKey c slot w
  if op = 2 then
    let s1 := s.setWave c slot w (s.wfData t)
    if k = s1.idleKey c then s1.relevel c else s1
  else s.readEntry t c k ecc

/-- WAVEFORM_ACCESS_COMPLETE (R376). -/
def execWaveformAccessComplete (e : Nat) (t : Tile) (e0 : Ecc) (s : State) (e1 : Ecc := .clean) (e2 : Ecc := .clean) : Out :=
  let s := s.elapse e
  let t := t.val
  match Tab.get none s.wfAcc t with
  | some a =>
    let s1 := if a.result = 2 then s.doAccess t a.op (e0, e1, e2) else s
    let s2 := { s1 with wfAcc := Tab.set none s1.wfAcc t none }
    .next (((s2.set F.WOD_WF_RES.RESULT t a.result).set F.WOD_WF_RES.REASON t a.reason).set F.WOD_WF_RES.WF t a.wf)
  | none => .next s

/-! ### Period, set and channel writes (R114, R128, R131) -/

/-- May a period or a selection of slice i be written (R131). -/
def State.sliceSettable (s : State) (i : Nat) : Bool := !s.sliceValid i || s.settable (s.sliceSite i)

/-- Is a value a period (R113). -/
def periodOk (p : Nat) : Bool := p == 0 || (decide (6400 ≤ p) && decide (p ≤ 80000000000))

/-- A write to WOD_PERIOD. -/
def State.writePeriod (s : State) (i set v : Nat) : State :=
  if !s.sliceSettable i then s.set F.WOD_SLICE_STAT.WR_REJ i 1
  else if !periodOk v then s.set F.WOD_SLICE_STAT.PER_REJ i 1
  else s.each (s.siblings i) (fun s j => s.set F.WOD_PERIOD.PERIOD (64 * j + set) v)

/-- WOD_PERIOD_WRITE (R131). -/
def execWodPeriodWrite (e : Nat) (sl : SliceNo) (set : Fin 64) (v : Word64) (s : State) : Out :=
  .next ((s.elapse e).writePeriod sl.val set.val v.toNat)

/-- A write to WOD_SLICE_TS. -/
def State.writeSliceTs (s : State) (i v : Nat) : State :=
  if s.sliceSettable i then
    s.each (s.siblings i) (fun s j =>
      (s.set F.WOD_SLICE_TS.PRIMARY j (bitsOf v 0 6)).set F.WOD_SLICE_TS.ALTERNATE j (bitsOf v 8 6))
  else s.set F.WOD_SLICE_STAT.WR_REJ i 1

/-- WOD_SLICE_TS_WRITE (R131). -/
def execWodSliceTsWrite (e : Nat) (sl : SliceNo) (v : Word32) (s : State) : Out :=
  .next ((s.elapse e).writeSliceTs sl.val v.toNat)

/-- A write to WOD_CH_CFG. -/
def State.writeChCfg (s : State) (c v : Nat) : State :=
  if s.chanSettable c then s.set F.WOD_CH_CFG.FIXCOMP c (bitsOf v 0 1) else s

/-- WOD_CH_CFG_WRITE (R128). -/
def execWodChCfgWrite (e : Nat) (ch : Chan) (v : Word32) (s : State) : Out := .next ((s.elapse e).writeChCfg ch.val v.toNat)

/-! ### Drive events (R119, R120) -/

/-- Must an event or action wait until the vector that begins before its uncompensated instant has played, or does its compensated
instant fall at or after the end of play (R119, R122, R128). -/
def State.waitsForVector (s : State) (c ideal inst : Nat) : Bool :=
  match s.chanSlice c with
  | some i =>
    let u := s.slice i
    match u.endDT with
    | some b => u.playing && dtReached inst b
    | none => u.playing && dtReached ideal u.nextB && s.reached u.nextB
  | none => false

/-- DRIVE_EVENT (R120): the earliest placed event of the channel executes at its instant. -/
def execDriveEvent (e : Nat) (ch : Chan) (s : State) : Out :=
  let s := s.elapse e
  let c := ch.val
  match firstDrive (s.chan c).drive with
  | some d => if s.reached d.instant && !s.waitsForVector c d.ideal d.instant then .next (s.driveNow c d) else .next s
  | none => .next s

/-! ### What drives a channel (R126) -/

/-- RESET_n is low and has been for 5 ns (R32). For the first 5 ns the level is the one before: a low that short may or may not act. -/
def State.resetHolds (s : State) : Bool := !s.pins.resetN && s.reached (wrap64 (s.pins.resetFall + ns 5))

/-- Is a channel forced to 0 mV with everything of its package: safe state, RESET_n low, TESTEN high, VCH absent, or its group in
retention or not yet settled (R126, R29, R32, R33). -/
def State.forcedOff (s : State) (c : Nat) : Bool :=
  s.isSafe || s.resetHolds || s.pins.testen || !s.pwr.vauxGood || !bitAt (s.get F.PWR_RAIL_STAT.GOOD 0) 3 || !s.chanOn c

/-- Is the PHY of a protocol-6 engine held in reset (R252). -/
def State.phyReset (s : State) (en : Nat) : Bool := (s.bus en).phyHeld || s.flag F.BUS_CTRL.PHY_RESET en

/-- What the engine of a bus-mode channel drives (R65, R250, R251): TXD, which rests at 1; the MII outputs, which rest at 0; the PHY's reset;
nothing on inputs. While a frame is on the medium the level is a free value. -/
def State.busLevel (s : State) (c : Nat) : Nat :=
  match s.busEngine c with
  | none => 0
  | some e =>
    let sending := s.get F.BUS_STAT.STATE e == 2
    if s.get F.BUS_CFG.PROTOCOL e = 6 then
      let k := c - s.get F.BUS_CFG.FIRST_CH e
      if k < 6 then (if sending then 1 + s.fresh % 2 else 2)
      else if k = 10 then (if s.phyReset e then 2 else 1) else 0
    else if sending && s.get F.BUS_CFG.PROTOCOL e != 4 then 1 + s.fresh % 2 else 1

/-- SOURCE and LEVEL of a channel: the first row of the table of R126 that applies. -/
def State.driveRow (s : State) (c : Nat) : Nat × Nat :=
  let q := c / 4
  let owner := s.get (if q % 2 = 0 then F.SMAP_QUAD.SITE_LO else F.SMAP_QUAD.SITE_HI) (q / 2)
  if s.forcedOff c || decide (256 ≤ owner) || !s.flag F.WOD_CH_PIN.DRIVE_EN c then (0, 0)
  else if s.busMode c then (4, s.busLevel c)
  else if s.siteState owner == 0 then (0, 0)
  else match s.chanSlice c with
    | none => (0, 0)
    | some i =>
      let u := s.slice i
      if u.playing then (if s.due u.endDT then (1, s.idleLevel c) else (2, (s.chan c).level))
      else if s.get F.SLP_STAT.STATE i == 3 || s.siteState owner == 7 then (3, (s.chan c).level)
      else (1, s.idleLevel c)

/-! ### Immediate timing-set changes (R123, R124) -/

/-- Do the live slices of a site stand at granule boundary b. -/
def State.atBoundary (s : State) (x b : Nat) : Bool :=
  (s.slicesOf x).all (fun i => !(s.slice i).live || ((s.slice i).atGran && (s.slice i).nextB == b))

/-- An immediate change applies in a slice at boundary b, after a queued form that falls on it (R124). -/
def State.immediateSets (s : State) (i b : Nat) (r : TsetReq) : State :=
  (if (s.slice i).segNew then s.queuedSets i b else s).stepSets i b r

/-- TIMING_SET_RELEASE (R123): at the first granule boundary at or after the release DT. A hold, stop or jump at that
boundary comes first. -/
def execTimingSetRelease (e : Nat) (x : Site) (s : State) : Out :=
  let s := s.elapse e
  let x := x.val
  let is := (s.slicesOf x).filter (fun i => (s.slice i).live)
  match is, (s.site x).tsImm with
  | i :: _, r :: rest =>
    let b := (s.slice i).nextB
    if s.atBoundary x b && s.reached b && dtReached b r.release && !(s.slice i).needEntry && !s.holdDue x b && !s.stopDue x b &&
        (s.jumpsDue i).isEmpty then
      let s1 := s.setSite x { s.site x with tsImm := rest }
      .next (s1.each is (fun s j => s.immediateSets j b r))
    else .next s
  | _, _ => .next s

end Sys2Proof.Machine
end

