-- ==== Sys2Proof/Machine/Compare.lean ====
section
/-! DEFINITION. Compare, fail processing and capture (spec/07_compare_capture.md): verdicts, counters, comparator
settings and masks, stops on fails and the capture ring. -/

namespace Sys2Proof.Machine

/-! ### The comparator (R134, R135) -/

/-- The hysteresis bands in threshold codes: none, 2 mV, 8 mV and 20 mV (R135). -/
def hystBand (h : Nat) : Int := match h with | 0 => 0 | 1 => 80 | 2 => 320 | _ => 800

/-- Is an input above a threshold with a band centred on it: beyond the band it is settled, within it the side stays (R135). -/
def aboveThreshold (v thr band : Int) (was : Bool) : Bool :=
  if thr + band / 2 < v then true else if v < thr - band / 2 then false else if band = 0 then decide (thr < v) else was

/-- The state that a channel's comparator reports: H above VTH_HI, L below VTH_LO, M between (R134). -/
def State.sense (s : State) (c : Nat) (inp : SenseIn) : CmpState :=
  let band := hystBand (s.get F.SEP_CMP_CH_CFG.HYST c)
  if aboveThreshold inp.v (s.get F.SEP_CMP_CH_VTH.HI c) band inp.overHi then .high
  else if aboveThreshold inp.v (s.get F.SEP_CMP_CH_VTH.LO c) band inp.overLo || (band = 0 && inp.v = s.get F.SEP_CMP_CH_VTH.LO c) then .mid
  else .low

/-- LIVE shows the state that a command brings; between commands the input of the model does not move (notes/assumptions/95.md). -/
def State.seeLive (s : State) (c : Nat) (st : CmpState) : State := s.set F.SEP_CMP_CH_LIVE.STATE c st.code

/-! ### Verdicts (R138–R142) -/

/-- Does a strobe that found a state pass (R138). -/
def strobePasses (expect : Nat) (st : CmpState) : Bool :=
  match expect with
  | 1 => st == .low
  | 2 => st == .high
  | 3 => st == .mid
  | 4 => st != .mid
  | _ => true

/-- Does a window that saw the states of a bit set pass: [0] L, [1] M, [2] H (R138). -/
def windowPasses (expect seen : Nat) : Bool :=
  match expect with
  | 1 => !bitAt seen 1 && !bitAt seen 2
  | 2 => !bitAt seen 0 && !bitAt seen 1
  | 3 => !bitAt seen 0 && !bitAt seen 2
  | 4 => !bitAt seen 1
  | _ => true

/-- Is an action masked (R139): X, its mask in force, held by Mordant, or a bus channel. -/
def State.actionMasked (s : State) (c : Nat) (a : CmpAct) : Bool :=
  a.expect == 0 || a.masked || s.flag F.MRD_CH_QF.HELD c || s.busMode c

/-- The slice channel index of a channel (R64). -/
def State.sliceIdx (s : State) (i c : Nat) : Nat := (s.sliceChans i).idxOf c

/-- A fail counter of a channel or slice counts one (R142). -/
def State.countFail (s : State) (f o : Fld) (k tile : Nat) : State :=
  let s1 := s.count f (some o) k 21 1
  if s.saturates f k 1 then s1.raiseC F.SEP_CMP_FAULT_STAT.CNT_OVF tile else s1

/-- A channel fails in vector cycle n of its slice: the first fail of a channel in a cycle counts once, its record
remembers it, and a stop at the first fail is detected (R140, R142, R145). -/
def State.failAction (s : State) (i c : Nat) (a : CmpAct) (obs : Nat) : State :=
  let u := s.slice i
  let k := s.sliceIdx i c
  let t := i / 32
  match u.verdicts.find? (fun v => v.n == a.n) with
  | some v =>
    if v.fails.any (fun f => f.idx == k) then s
    else
      let v' := { v with fails := v.fails ++ [⟨k, a.expect, obs⟩] }
      let s1 := s.setSlice i { u with verdicts := u.verdicts.map (fun w => if w.n == a.n then v' else w),
                                      failAdd := u.failAdd + 1 }
      let s2 := (s1.countFail F.SEP_CMP_CH_FAILS.COUNT F.SEP_CMP_CH_FAILS.OVF c t).countFail
        F.SEP_CMP_SLICE_FAILS.COUNT F.SEP_CMP_SLICE_FAILS.OVF i t
      let s3 := if v.fails.isEmpty then s2.countFail F.SEP_CMP_SLICE_FAILVEC.COUNT F.SEP_CMP_SLICE_FAILVEC.OVF i t else s2
      let x := s.sliceSite i
      let s4 := s3.channelEvent c 6
      if s.get F.SEP_CAP_POLICY.STOP x = 1 && !s.proxy x then s4.detect x (wrap64 (a.t2 + ns 8)) else s4
  | none => s

/-- An action of a channel ends with a verdict (R86, R140). -/
def State.verdict (s : State) (c : Nat) (a : CmpAct) (pass : Bool) (obs : Nat) : State :=
  let u := s.chan c
  let s1 := s.setChan c { u with cmps := u.cmps.erase a }
  match s.chanSlice c with
  | some i =>
    let bad := !pass && !s.actionMasked c a
    if a.mtch then
      let v := s1.slice i
      if bad && v.matchGran then s1.setSlice i { v with mat := { v.mat with miss := true } } else s1
    else (if bad then s1.failAction i c a obs else s1).flushVerdicts i
  | none => s1

/-- The action of a channel that ends first. -/
def firstCmp (l : List CmpAct) : Option CmpAct :=
  l.foldl (fun o a => match o with
    | none => some a
    | some f => if dtReached a.t2 f.t2 then some f else some a) none

/-- Must an action that ends after a pass's end boundary wait until the pass is judged (R86). -/
def State.waitsForPass (s : State) (c : Nat) (a : CmpAct) : Bool :=
  match s.chanSlice c with
  | some i => match (s.slice i).mat.judge with
    | some b => !dtReached b a.t2
    | none => false
  | none => false

/-- Can the action of a channel end now. -/
def State.actionDue (s : State) (c : Nat) (a : CmpAct) : Bool :=
  s.reached a.t2 && !s.waitsForVector c a.ideal2 a.t2 && !s.waitsForPass c a

/-- STROBE (R138): the input sampled at the placed instant; within ±2 ps of a crossing the command may bring either side's. -/
def execStrobe (e : Nat) (ch : Chan) (inp : SenseIn) (s : State) : Out :=
  let s := s.elapse e
  let c := ch.val
  let st := s.sense c inp
  match firstCmp (s.chan c).cmps with
  | some a =>
    if a.kind == 1 && s.actionDue c a then .next ((s.seeLive c st).verdict c a (strobePasses a.expect st) (1 <<< st.code)) else .next s
  | none => .next s

/-- Is a state that lasted d ticks in a window seen: always from 30 ps, never below 10 ps, and between them a free value
decides (R138). -/
def seen (d r : Nat) : Nat := if 240 ≤ d then 1 else if d < 80 then 0 else r % 2

/-- WINDOW_END (R138): the longest time that each of L, M and H lasted within the window. -/
def execWindowEnd (e : Nat) (ch : Chan) (dL dM dH : Nat) (s : State) : Out :=
  let s := s.elapse e
  let c := ch.val
  match firstCmp (s.chan c).cmps with
  | some a =>
    if a.kind == 2 && s.actionDue c a then
      let obs := seen dL s.fresh + 2 * seen dM (Config.freeValue (s.free + 1)) + 4 * seen dH (Config.freeValue (s.free + 2))
      .next (s.drew.drew.drew.verdict c a (windowPasses a.expect obs) obs)
    else .next s
  | none => .next s

/-! ### Comparator settings and masks (R135–R137, R141) -/

/-- The largest threshold or VTT code (R134). -/
abbrev maxCode : Nat := 60000

/-- Is a comparator setting valid (R137). -/
def cmpValueOk (r : CmpReg) (v : Nat) : Bool :=
  match r with
  | .cfg => true
  | .vth => decide (bitsOf v 0 16 ≤ maxCode) && decide (bitsOf v 16 16 ≤ bitsOf v 0 16)
  | .vtt => decide (bitsOf v 0 16 ≤ maxCode)

/-- The fields of a comparator setting take a value. -/
def State.putCmp (s : State) (c : Nat) (r : CmpReg) (v : Nat) : State :=
  match r with
  | .cfg => (s.set F.SEP_CMP_CH_CFG.TERM c (bitsOf v 0 1)).set F.SEP_CMP_CH_CFG.HYST c (bitsOf v 1 2)
  | .vth => (s.set F.SEP_CMP_CH_VTH.HI c (bitsOf v 0 16)).set F.SEP_CMP_CH_VTH.LO c (bitsOf v 16 16)
  | .vtt => s.set F.SEP_CMP_CH_VTT.VTT c (bitsOf v 0 16)

/-- Is a channel a bus channel whose engine is on (R250). -/
def State.busHolds (s : State) (c : Nat) : Bool :=
  s.busMode c && (match s.busEngine c with | some e => s.busOn e | none => false)

/-- A write of a comparator setting (R137, R250). -/
def State.writeCmp (s : State) (c : Nat) (r : CmpReg) (v : Nat) : State :=
  if s.chanSettable c && cmpValueOk r v && !(r == .vth && s.busHolds c) then
    let s1 := (s.putCmp c r v).set F.SEP_CMP_CH_LIVE.VALID c 0
    s1.setChan c { s1.chan c with settle := some (wrap64 (s.now + us 2)) }
  else s.set F.SEP_CMP_CH_STAT.WR_REJ c 1

/-- COMPARATOR_SETTING_WRITE (R137). -/
def execComparatorSettingWrite (e : Nat) (ch : Chan) (r : CmpReg) (v : Word32) (s : State) : Out :=
  .next ((s.elapse e).writeCmp ch.val r v.toNat)

/-- SETTLING_END (R137): the comparator follows its new setting; the end enters the ready DT of a site that is armed. -/
def execSettlingEnd (e : Nat) (ch : Chan) (inp : SenseIn) (s : State) : Out :=
  let s := s.elapse e
  let c := ch.val
  match (s.chan c).settle with
  | some d =>
    if s.reached d then
      let s1 := (s.setChan c { s.chan c with settle := none }).seeLive c (s.sense c inp)
      let s2 := if s1.chanOn c && !s1.flag F.MRD_CH_QF.HELD c then s1.set F.SEP_CMP_CH_LIVE.VALID c 1 else s1
      match s2.chanSite c with
      | some x =>
        let u := s2.site x
        if s2.siteState x == 2 then .next ((s2.setSite x { u with groupsAt := dtMax u.groupsAt d }).formReady x) else .next s2
      | none => .next s2
    else .next s
  | none => .next s

/-- A write of a channel's compare mask (R141): at once where the slice does not play, else at the first granule boundary
at least 120 ns later. -/
def State.writeMask (s : State) (c v : Nat) : State :=
  let m := bitsOf v 0 1
  let s1 := s.set F.SEP_CMP_CH_MASK.MASK c m
  let playing := match s.chanSlice c with | some i => s.get F.SLP_STAT.STATE i == 2 | none => false
  if playing then
    (s1.setChan c { s1.chan c with maskNext := some (m, wrap64 (s.now + ns 120)) }).set F.SEP_CMP_CH_STAT.MASK_PEND c 1
  else (s1.setChan c { s1.chan c with maskNow := m, maskNext := none }).set F.SEP_CMP_CH_STAT.MASK_PEND c 0

/-- SEP_CMP_CH_MASK_WRITE (R141). -/
def execSepCmpChMaskWrite (e : Nat) (ch : Chan) (v : Word32) (s : State) : Out :=
  .next ((s.elapse e).writeMask ch.val v.toNat)

/-! ### Counts and capture rings (R143, R148–R150) -/

/-- GRANULE_COUNTS_ADD (R143): at a granule boundary, and at the boundary at which play has ended. -/
def execGranuleCountsAdd (e : Nat) (sl : SliceNo) (s : State) : Out :=
  let s := s.elapse e
  let i := sl.val
  let u := s.slice i
  if s.sliceValid i && u.live && u.atGran && s.reached u.nextB then .next (s.addCounts i)
  else .next (if s.sliceValid i then s.settleEnd i else s)

/-- A byte of a record with a bit set. -/
def setRecBit (b : List Byte) (o k : Nat) : List Byte := b.set o (BitVec.ofNat 8 (setBit (b.getD o 0).toNat k))

/-- The cases in which a record does not go to the capture ring of a site, each with the flag it sets; none where it does (R149, R150). A
ring lies in banks of Lake that are ON, where a bank of the loader takes no write (R322), or in a DATA region, outside which a write
is dropped (R326). -/
def State.capDrops (s : State) (x : Nat) : List (State → State) :=
  let base := s.get F.SEP_CAP_RING_BASE.ADDR x
  let size := 32 * 2 ^ s.get F.SEP_CAP_RING_CFG.LOG2 x
  let max_ := s.get F.SEP_CAP_LOGMAX.VALUE x
  let lake := s.flag F.SEP_CAP_RING_CFG.MEM x
  let used := (s.get F.SEP_CAP_RING_WR.POS x + 2 ^ 32 - s.get F.SEP_CAP_RING_RD.POS x) % 2 ^ 32
  let if_ (b : Bool) (f : State → State) : List (State → State) := if b then [f] else []
  if !s.flag F.SEP_CAP_RING_CFG.EN x then [id]
  else
    if_ (!s.flag F.SEP_CAP_POLICY.LOG_EN x) id ++
    if_ (max_ != 0 && decide (max_ ≤ s.get F.SEP_CAP_LOGGED.COUNT x)) (fun s => s.set F.SEP_CAP_STAT.LOGMAX_HIT x 1) ++
    if_ (decide (2 ^ s.get F.SEP_CAP_RING_CFG.LOG2 x ≤ used)) (fun s => s.raiseC F.SEP_CAP_FAULT_STAT.RING_FULL 0) ++
    if_ (lake && s.loaderSpan base size) (fun s => s.denyB base size) ++
    if_ (!lake && (s.region 1 base size).isNone) (fun s => s.raiseC F.DMC_FAULT_STAT.NO_REGION 0) ++
    if_ (lake && !s.banksOn base size) (fun s => s.raiseU 15 F.SEP_CAP_FAULT_STAT.RING_ADDR 0)

/-- A fail record that is dropped is counted; the next record written tells of it (R150). -/
def State.capGone (s : State) (x : Nat) : State :=
  let s1 := s.capLost x
  s1.setSite x { s1.site x with ringLost := true }

/-- A fail record reaches the capture ring of its site (R149, R150). -/
def State.capRecord (s : State) (x : Nat) (b : List Byte) : State :=
  let s1 := s.firstFail x b
  match s1.capDrops x with
  | f :: fs => (f :: fs).foldl (fun s g => g s) (s1.capGone x)
  | [] =>
    let b1 := if (s1.site x).ringLost then setRecBit b 15 3 else b
    let wr := s1.get F.SEP_CAP_RING_WR.POS x
    let lake := s1.flag F.SEP_CAP_RING_CFG.MEM x
    let a := s1.get F.SEP_CAP_RING_BASE.ADDR x + 32 * (wr % 2 ^ s1.get F.SEP_CAP_RING_CFG.LOG2 x)
    let s2 := (s1.dmaWrite lake a b1).set F.SEP_CAP_RING_WR.POS x (wr + 1)
    (s2.count F.SEP_CAP_LOGGED.COUNT (some F.SEP_CAP_LOGGED.OVF) x 15 1).setSite x { s2.site x with ringLost := false }

/-- A record of a proxy slice goes to its home over the port that leads there, or is dropped while it is down (R248). -/
def State.forwardRecord (s : State) (x : Nat) (b : List Byte) : State :=
  match s.carrier (s.get F.SMAP_SITE.HOME_DEV x) with
  | some p => s.sendBlock p 0x48 ([s.get F.SMAP_SITE.HOME_SITE x, 1, 1] ++ b.map (fun v => v.toNat))
  | none => s.capGone x

/-- FAIL_RECORD_ARRIVAL (R16, R150): the oldest staged record of a slice reaches the core die with a site tag. -/
def execFailRecordArrival (e : Nat) (sl : SliceNo) (tag : Site) (s : State) : Out :=
  let s := s.elapse e
  let i := sl.val
  let u := s.slice i
  match u.staged with
  | (x, b) :: r =>
    let s1 := (s.setSlice i { u with staged := r }).set F.SEP_CAP_STAGE.LEVEL i r.length
    if tag.val != x then .next (s1.faultSite 15 F.SEP_CAP_FAULT_STAT.TAG_MISMATCH 0 x 5)
    else if s1.proxy x then .next (s1.forwardRecord x b)
    else .next (s1.capRecord x b)
  | [] => .next s

/-- A write of a read position is taken unless it lies beyond the write position (R149). -/
def rdOk (rd wr v : Nat) : Bool := decide ((v + 2 ^ 32 - rd) % 2 ^ 32 ≤ (wr + 2 ^ 32 - rd) % 2 ^ 32)

/-- A write to SEP_CAP_RING_RD. -/
def State.writeCapRd (s : State) (x v : Nat) : State :=
  if rdOk (s.get F.SEP_CAP_RING_RD.POS x) (s.get F.SEP_CAP_RING_WR.POS x) v then s.set F.SEP_CAP_RING_RD.POS x v else s

/-- CAPTURE_RING_RD_WRITE (R149). -/
def execCaptureRingRdWrite (e : Nat) (x : Site) (v : Word32) (s : State) : Out :=
  .next ((s.elapse e).writeCapRd x.val v.toNat)

/-! ### Stops by fails and by abort (R145, R146, R171) -/

/-- The lead of a stop decision (R145). -/
def State.stopLead (s : State) (x kind : Nat) : Nat :=
  if s.hasProxies x then ns 280 else if kind = 1 then ns 24 else ns 120

/-- A decided stop goes to the proxies with its boundary, as soon as that is known (R145, R247): with the check point of the boundary
(`tellProxies`), or at once where that has passed; where nothing plays it takes effect at its earliest DT. -/
def State.tellStop (s : State) (x : Nat) : State :=
  match (s.site x).stop, ((s.slicesOf x).filter (fun i => (s.slice i).live)).head? with
  | some d, some i =>
    let u := s.slice i
    if u.checked == some u.nextB && dtReached u.nextB d.earliest then s.sendToken x 9 u.nextB [] else s
  | some d, none => s.sendToken x 9 d.earliest []
  | none, _ => s

/-- STOP_DECISION (R145). -/
def execStopDecision (e : Nat) (x : Site) (s : State) : Out :=
  let s := s.elapse e
  let x := x.val
  let u := s.site x
  let kind := s.get F.SEP_CAP_POLICY.STOP x
  match u.failDet with
  | some d =>
    if s.reached d && u.stop.isNone && (s.siteState x == 3 || s.siteState x == 4 || s.siteState x == 5) then
      .next ((s.setSite x { u with failDet := none, stopped := true, ctxStop := s.siteState x != 5,
                                   stop := some ⟨kind, d, wrap64 (d + s.stopLead x kind)⟩ }).tellStop x)
    else .next s
  | none => .next s

/-- A stop by fails is recorded with its boundary (R145). -/
def State.recordStop (s : State) (x kind b : Nat) : State :=
  match kind with
  | 1 => (s.set F.SEP_CAP_STAT.STOPPED x 1).set F.SEP_CAP_STOP_DT.DT x b
  | 2 => (s.set F.SEP_CAP_STAT.LIMIT_HIT x 1).set F.SEP_CAP_STOP_DT.DT x b
  | _ => s

/-- Play ends at stop boundary b: queued entries are discarded, a hold there is not entered, a jump there is lost, and a
site that is not STOPPING enters it (R145, R146). -/
def State.stopPlay (s : State) (x : Nat) (d : StopDec) (b : Nat) : State :=
  let is := s.slicesOf x
  let lost := is.any (fun i => !(s.jumpsDue i).isEmpty)
  let s1 := s.each is (fun s i =>
    (if (s.slice i).live || s.get F.SLP_STAT.STATE i == 3 then s.endSlice i b else s.finishEnd i).emptySlice i)
  let s2 := if lost then s1.jumpLost x else s1
  let u := s2.site x
  let s3 := (s2.setSite x { u with stop := none, hold := none, resume := none, jumps := [], start := none }).recordStop x d.kind b
  if s3.siteState x == 3 || s3.siteState x == 4 then (s3.enterState x 5).tellState x 5 else s3

/-- STOP_RELEASE (R145, R146, R171): at the first granule boundary from the decision's earliest DT; in HOLD the boundary
is the one at which the site holds, and where nothing plays it is the earliest DT. -/
def execStopRelease (e : Nat) (x : Site) (s : State) : Out :=
  let s := s.elapse e
  let x := x.val
  let is := s.slicesOf x
  match (s.site x).stop with
  | some d =>
    match is.filter (fun i => (s.slice i).live) with
    | i :: _ =>
      let b := (s.slice i).nextB
      if s.atBoundary x b && s.reached b && dtReached b d.earliest then .next (s.stopPlay x d b) else .next s
    | [] =>
      if s.reached d.earliest then
        .next (s.stopPlay x d (if is.any (fun i => s.get F.SLP_STAT.STATE i == 3) then s.get F.MDR_SITE_STALL_DT.DT x
          else d.earliest))
      else .next s
  | none => .next s

/-! ### Missed releases (R20) -/

/-- The slices of a site other than one act at boundary b on the message that this one missed: a stop, a jump, a hold or a change of the
timing sets, in the order in which they act. -/
def State.othersAct (s : State) (i b : Nat) : State :=
  let x := s.sliceSite i
  let js := (s.slicesOf x).filter (fun j => j != i && (s.slice j).live && (s.slice j).atGran && (s.slice j).nextB == b)
  if s.stopDue x b then s.each js (fun s j => (s.endSlice j b).emptySlice j)
  else match winner (s.jumpsDue i) with
    | some k => s.each js (fun s j => s.takeJump j b k)
    | none =>
      if s.holdDue x b then s.each js (fun s j => s.stopSlice j b)
      else match (s.site x).tsImm with
        | r :: _ => s.each js (fun s j => s.immediateSets j b r)
        | [] => s

/-- Does a message act on a slice at the boundary at which it stands. -/
def State.messageDue (s : State) (i : Nat) : Bool :=
  let u := s.slice i
  let x := s.sliceSite i
  u.live && u.atGran && s.reached u.nextB && !u.needEntry && s.present i u.seg u.gran s.now &&
    (s.stopDue x u.nextB || !(s.jumpsDue i).isEmpty || s.holdDue x u.nextB || s.setsDue x u.nextB)

/-- SLICE_MISSED_RELEASE (R20): the slice does not act on the message, and its site faults with cause 1. A late start leaves it at rest, a
late resume held, a late entry unqueued; past a late stop, jump, hold or timing set it plays on to its next granule boundary. -/
def execSliceMissedRelease (e : Nat) (sl : SliceNo) (s : State) : Out :=
  let s := s.elapse e
  let i := sl.val
  let x := s.sliceSite i
  if s.sliceValid i && s.active x then
    let u := s.slice i
    let s1 := if u.playing && u.vidx == 0 then (s.setSlice i u.cleared).set F.SLP_STAT.STATE i 0
      else if s.messageDue i then
        let t := s.othersAct i u.nextB
        t.setSlice i { t.slice i with missed := some u.nextB, inbound := [] }
      else s.setSlice i { u with inbound := [] }
    let s2 := match (s.site x).resume with
      | some r => if s.held x && s.reached r then
          s1.each ((s.slicesOf x).filter (fun j => j != i && s.get F.SLP_STAT.STATE j == 3)) (fun s j => s.resumeSlice j r)
        else s1
      | none => s1
    .next (s2.faultSite 19 F.SLP_FAULT_STAT.MISSED_RELEASE (i / 32) x 1)
  else .next s

end Sys2Proof.Machine
end

