-- ==== Sys2Proof/Machine/Acq.lean ====
section
/-! DEFINITION. Triggers and acquisition (spec/09_acquisition.md): arming, sequence and privileged triggers, history,
records and rings. -/

namespace Sys2Proof.Machine

/-! ### Arming and disarming (R175–R177) -/

/-- The state of an acquisition unit (R176). -/
def State.acqState (s : State) (c : Nat) : Nat := s.get F.SEP_ACQ_CH_STAT.STATE c

/-- Does a measurement unit start or run. -/
def State.measuring (s : State) (d : Nat) : Bool := s.get F.TIA_CH_STAT.STATE d == 1 || s.get F.TIA_CH_STAT.STATE d == 2

/-- The channel of this device whose TDC B a unit takes for its stops (R193, R194). -/
def State.stopOf (s : State) (d : Nat) : Option Nat :=
  match s.get F.TIA_CH_CFG.TYPE d with
  | 0 => some (128 * (d / 128) + s.get F.TIA_CH_CFG.STOP_CH d)
  | 1 => if s.get F.TIA_CH_PARTNER.DEV d = s.get F.DEV_NUMBER.NUMBER 0 then some (s.get F.TIA_CH_PARTNER.CH d) else none
  | _ => none

/-- Does a measurement unit hold a converter of a channel (R193). -/
def State.unitHolds (s : State) (d c : Nat) : Bool := s.measuring d && (d == c || s.stopOf d == some c)

/-- Does a unit on another device hold TDC B of a channel of this device's part of a site that spans devices (R193)? No message tells,
so it is a free value (notes/assumptions/97.md). -/
def State.farHold (s : State) (c : Nat) : Bool :=
  match s.chanSite c with
  | some x => (s.hasProxies x || s.proxy x) && s.fresh % 2 == 1
  | none => false

/-- Do measurement units hold a converter of a channel (R193). -/
def State.tdcsMeasured (s : State) (c : Nat) : Bool := (List.range 1024).any (fun d => s.unitHolds d c) || s.farHold c

/-- The reason for which an arm is refused, 0 where it is accepted (R177). `cmd` is an arm by command or event, which an
IDLE site takes too. -/
def State.armReason (s : State) (c : Nat) (cmd : Bool) : Nat :=
  match s.chanSite c with
  | none => 1
  | some x =>
    let st := s.siteState x
    if s.tdcsMeasured c then 2
    else if s.get F.SEP_ACQ_CH_CFG.DEPTH c = 7 then 3
    else if !(st == 2 || st == 3 || st == 4 || (cmd && st == 1)) then 4
    else if s.isSafe then 5
    else 0

/-- An arm reaches a unit for arm DT d (R177). -/
def State.armUnit (s : State) (c d : Nat) (cmd event : Bool) : State :=
  if s.acqState c != 0 then
    let s1 := s.set F.SEP_ACQ_CH_STAT.ARM_DUP c 1
    if event then s1.set F.SEP_ACQ_CH_STAT.OVERRUN c 1 else s1
  else
    let r := s.armReason c cmd
    let s := s.drew
    if r = 0 then
      (s.set F.SEP_ACQ_CH_STAT.STATE c 1).setAcqU c { s.acqU c with armAt := some d, timeReleased := !cmd, entry := s.now, count := 0 }
    else (s.set F.SEP_ACQ_CH_STAT.ARM_REJ c 1).set F.SEP_ACQ_CH_STAT.REASON c r

/-- A disarm reaches a unit for DT d; the site's state must accept it (R177). One that waits already keeps its DT. -/
def State.disarmAtDT (s : State) (c d : Nat) (cmd : Bool) : State :=
  match s.chanSite c with
  | some x =>
    let st := s.siteState x
    if s.acqState c != 0 && (st == 2 || st == 3 || st == 4 || (cmd && st == 1)) then
      s.setAcqU c { s.acqU c with disarmAt := (s.acqU c).disarmAt ++ [d] }
    else s
  | none => s

/-- A write to SEP_ACQ_CH_CMD (R177, R183). -/
def State.acqCmd (s : State) (c v : Nat) : State :=
  let d := wrap64 (s.now + ns 120)
  match bitsOf v 0 2 with
  | 1 => s.armUnit c d true false
  | 2 => s.disarmAtDT c d true
  | 3 => s.setAcqU c { s.acqU c with forceAt := (s.acqU c).forceAt ++ [d] }
  | _ => s

/-- ACQ_ARM_COMMAND (R177). -/
def execAcqArmCommand (e : Nat) (ch : Chan) (s : State) : Out := .next ((s.elapse e).acqCmd ch.val 1)

/-- ACQ_DISARM_COMMAND (R177). -/
def execAcqDisarmCommand (e : Nat) (ch : Chan) (s : State) : Out := .next ((s.elapse e).acqCmd ch.val 2)

/-- ACQ_FORCE (R183). -/
def execAcqForce (e : Nat) (ch : Chan) (s : State) : Out := .next ((s.elapse e).acqCmd ch.val 3)

/-- ACQ_EVENT_ARM (R177): a firing of ARM_EVCH or DIS_EVCH reaches the tile. -/
def execAcqEventArm (e : Nat) (ch : Chan) (arm : Bool) (s : State) : Out :=
  let s := s.elapse e
  let c := ch.val
  let d := wrap64 (s.now + ns 8)
  if !s.consumes then .next s
  else if arm then
    .next (if s.flag F.SEP_ACQ_CH_ARMEV.ARM_EN c then s.armUnit c d true true else s)
  else .next (if s.flag F.SEP_ACQ_CH_ARMEV.DIS_EN c then s.disarmAtDT c d true else s)

/-- The history interval in progress in a channel's slice (R184). -/
def State.interval (s : State) (c : Nat) : Nat :=
  match s.chanSlice c with
  | some i => ((s.slice i).vidx - 1) / 2 ^ s.get F.SEP_ACQ_CH_CFG.DECIM c
  | none => 0

/-- A unit begins to watch at DT d: sequence state 0 is entered and its history begins (R176, R179). A disarm or a FORCE that fell due
before found it in another state, and is gone (R177, R183). -/
def State.watch (s : State) (c d : Nat) : State :=
  let u := s.acqU c
  let res := match s.chanSlice c with | some i => (s.slice i).resumes | none => 0
  ((s.set F.SEP_ACQ_CH_STAT.STATE c 2).set F.SEP_ACQ_CH_STAT.SEQ c 0).setAcqU c
    { u with armAt := none, entry := d, entryTdc := false, count := 0, pre := [], tsamp := none, post := [], trig := none,
             trunc := false, disarmWhileMoving := false, autoFrom := d, forceAt := u.forceAt.filter (fun f => dtReached f d),
             disarmAt := u.disarmAt.filter (fun f => dtReached f d), nextSample := s.interval c, resumes := res }

/-- An arm takes effect at DT d (R176). -/
def State.armNow (s : State) (c d : Nat) : State :=
  let s1 := (s.watch c d).set F.SEP_ACQ_CH_ARM_DT.DT c d
  s1.setAcqU c { s1.acqU c with recno := 0, lastStamp := none, lastStart := none }

/-- An arm whose DT has come takes effect, unless Mordant holds the channel (R175); one that came late takes effect on
arrival with MISSED set (R20). -/
def State.armDue (s : State) (c : Nat) (late : Bool) : State :=
  let u := s.acqU c
  match u.armAt with
  | some d =>
    if s.acqState c == 1 && s.reached d && !s.flag F.MRD_CH_QF.HELD c then
      if late && u.timeReleased then (s.armNow c s.now).raiseC F.SEP_ACQ_TFAULT_STAT.MISSED (c / 128)
      else s.armNow c d
    else s
  | none => s

/-- ACQ_ARM_DT (R176): a unit reaches its arm DT, or its disarm DT. -/
def execAcqArmDt (e : Nat) (ch : Chan) (late : Bool) (s : State) : Out :=
  let s := s.elapse e
  let c := ch.val
  let u := s.acqU c
  if u.disarmAt.any (fun d => s.reached d) then
    .next ((s.setAcqU c { u with disarmAt := u.disarmAt.filter (fun d => !s.reached d) }).disarmUnit c)
  else .next (s.armDue c late)

/-! ### Triggers (R178–R183) -/

/-- A trigger condition met where none is taken (R176, R181). -/
def State.missTrigger (s : State) (c : Nat) : State :=
  let u := s.acqU c
  ((s.setAcqU c { u with missed := satAdd 32 u.missed 1 }).count F.SEP_ACQ_CH_TRIGS.COUNT (some F.SEP_ACQ_CH_TRIGS.OVF) c
    23 1).raiseC F.SEP_ACQ_TFAULT_STAT.MISSED (c / 128)

/-- Is a trigger time at or after the unit's disarm DT: the disarm wins (R177). -/
def AcqUnit.disarmed (u : AcqUnit) (t : Nat) : Bool :=
  u.disarmAt.any (fun d => dtReached t d)

/-- Where a trigger at time t falls in the play of a slice (R185, R187): the vector cycle that contains it, or outside play. The
model keeps the cycle that plays and the one before; of an older one the place is a free value (notes/assumptions/96.md). -/
def State.cycleOf (s : State) (i t : Nat) : Option CycleAt :=
  let v := s.slice i
  let c := s.cycleAt i
  if v.vidx = 0 then none
  else if dtReached t v.prevB then
    if dtReached t c.fin && (v.resumed || !v.live) then none else some c
  else match v.lastCyc with
    | some l =>
      if dtReached t l.fin then none
      else if dtReached t l.b then some l
      else some { l with seg := s.fresh % 2 ^ 24, voff := s.drew.fresh % 2 ^ 24, b := wrap64 s.drew.drew.fresh }
    | none => none

/-- The pre-trigger history and the trigger sample of a record at its trigger (R185): the last PRE samples, and the newest sample
itself where its interval has ended since and contains the trigger time. -/
def State.splitHistory (s : State) (c t : Nat) : List Nat × Option Nat :=
  let u := s.acqU c
  let n := s.get F.SEP_ACQ_CH_CFG.PRE c
  let ended := match s.chanSlice c with
    | some i => !dtReached t (s.slice i).prevB && u.nextSample == s.interval c &&
        ((s.slice i).vidx - 1) % 2 ^ s.get F.SEP_ACQ_CH_CFG.DECIM c == 0
    | none => false
  let pre := if ended then u.pre.dropLast else u.pre
  (pre.drop (pre.length - n), if ended then u.pre.getLast?.map (fun w => w ||| 8) else none)

/-- A unit takes a trigger at time t (R182, R185): its vector cycle is kept, or NOPLAY. Its sequence state begins anew, to judge the
conditions that come while the record is collected and moves (R176, notes/assumptions/96.md). -/
def State.takeTrigger (s : State) (c t : Nat) (interp forced : Bool) (seq meas : Nat) : State :=
  let u := s.acqU c
  let cyc := match s.chanSlice c with | some i => s.cycleOf i t | none => none
  let at_ : CycleAt := cyc.getD { seg := 0xFFFFFF, voff := 0, b := 0, fin := 0 }
  let tr : Trigger := { dt := t, interp := interp, forced := forced, seqState := seq, meas := meas, seg := at_.seg, voff := at_.voff,
                        vecDT := at_.b, noplay := cyc.isNone }
  let h := s.splitHistory c t
  let s1 := s.drew.drew.drew.setAcqU c { u with
    trig := some tr, pre := h.1, tsamp := if cyc.isSome then h.2 else none, count := 0, entry := t }
  let s2 := s1.set F.SEP_ACQ_CH_STAT.STATE c 3
  let s3 := if forced then s2 else s2.count F.SEP_ACQ_CH_TRIGS.COUNT (some F.SEP_ACQ_CH_TRIGS.OVF) c 23 1
  s3.channelEvent c 1

/-- A condition trigger on the tick of a forced trigger already taken wins: the record is its own (R183). -/
def State.overForced (s : State) (c t : Nat) : Bool :=
  match (s.acqU c).trig with
  | some tr => s.acqState c == 3 && tr.forced && tr.dt == t
  | none => false

/-- A condition trigger at time t: taken by an ARMED unit unless a disarm comes first, put in the place of a forced one of its tick,
else missed (R176, R177, R183). -/
def State.condTrigger (s : State) (c t : Nat) (interp : Bool) (seq meas : Nat) : State :=
  let u := s.acqU c
  if u.disarmed t then s
  else if s.acqState c == 2 then s.takeTrigger c t interp false seq meas
  else if s.overForced c t then
    (s.setAcqU c { u with trig := u.trig.map (fun tr => { tr with interp := interp, forced := false, seqState := seq, meas := meas }) }).count
      F.SEP_ACQ_CH_TRIGS.COUNT (some F.SEP_ACQ_CH_TRIGS.OVF) c 23 1
  else s.missTrigger c

/-- A unit enters a sequence state at an instant (R179). -/
def State.enterSeq (s : State) (c i t : Nat) (tdc : Bool) : State :=
  (s.set F.SEP_ACQ_CH_STAT.SEQ c i).setAcqU c { s.acqU c with entry := t, entryTdc := tdc, count := 0 }

/-- An outcome of sequence state i applies at an instant: the next state, or the trigger (R178). -/
def State.seqOutcome (s : State) (c i o t : Nat) (tdc : Bool) : State :=
  if o = 8 then s.condTrigger c t tdc i 0 else s.enterSeq c o t tdc

/-- Is an occurrence one that sequence state i counts (R178). -/
def State.seqMatches (s : State) (c i : Nat) (o : SeqOcc) : Bool :=
  let k := 8 * c + i
  let cs := s.get F.SEP_ACQ_CH_SEQ.CSTATE k
  match s.get F.SEP_ACQ_CH_SEQ.COND k, o with
  | 1, .cross _ b _ => b.code == cs
  | 2, .cross a _ _ => a.code == cs
  | 3, .sample w => bitAt w.val cs
  | 4, .event ev => ev.val == s.get F.SEP_ACQ_CH_SEQ.EVCH k
  | 5, .cross _ _ _ => true
  | _, _ => false

/-- The stamp of an occurrence: by TDC where a converter is free, else to 1 ns; for a history sample the spec states
none, and it is a free value (R181, R182). -/
def State.seqStamp (s : State) (c : Nat) (o : SeqOcc) : State × Nat × Bool :=
  let u := s.acqU c
  match o with
  | .cross _ _ t =>
    let near := match u.lastStamp with | some l => !dtReached t (wrap64 (l + ns 16)) | none => false
    if near then (s.drew, s.stampAt t, false) else (s.setAcqU c { u with lastStamp := some (wrap64 t) }, wrap64 t, true)
  | .event _ => (s.drew, s.stampAt s.now, false)
  | .sample _ => (s.drew, wrap64 s.fresh, false)

/-- The outcome of sequence state i at its completing occurrence: ON_EARLY before entry + TMIN, else ON_MATCH (R179). -/
def State.seqResult (s : State) (c i t : Nat) : Nat :=
  let k := 8 * c + i
  if dtReached t (wrap64 ((s.acqU c).entry + ns (s.get F.SEP_ACQ_CH_TIMER.TMIN k))) then s.get F.SEP_ACQ_CH_SEQ.ON_MATCH k
  else s.get F.SEP_ACQ_CH_SEQ.ON_EARLY k

/-- A counted occurrence of sequence state i at an instant (R179). A unit that takes no trigger stays in its sequence state, which
begins anew; where the outcome is the trigger, its condition is met and missed (R176, notes/assumptions/96.md). -/
def State.seqCount (s : State) (c i t : Nat) (tdc : Bool) : State :=
  let u := s.acqU c
  let n := max 1 (s.get F.SEP_ACQ_CH_SEQ.COUNT (8 * c + i))
  if u.count + 1 < n then s.setAcqU c { u with count := u.count + 1 }
  else
    let o := s.seqResult c i t
    if s.acqState c == 2 then s.seqOutcome c i o t tdc
    else
      let s1 := s.setAcqU c { u with entry := t, entryTdc := tdc, count := 0 }
      if o = 8 then s1.condTrigger c t tdc i 0 else s1

/-- Is an instant past the TMAX of sequence state i: its timer applies first (R179). -/
def State.pastTmax (s : State) (c i t : Nat) : Bool :=
  let m := s.get F.SEP_ACQ_CH_TIMER.TMAX (8 * c + i)
  let l := wrap64 ((s.acqU c).entry + ns m)
  m != 0 && dtReached t l && t != l

/-- A comparator transition shows in LIVE (R134). -/
def State.seqSeen (s : State) (c : Nat) (o : SeqOcc) : State :=
  match o with
  | .cross _ b _ => s.seeLive c b
  | _ => s

/-- SEQUENCE_OCCURRENCE (R179). -/
def execSequenceOccurrence (e : Nat) (ch : Chan) (o : SeqOcc) (s : State) : Out :=
  let s := s.elapse e
  let c := ch.val
  let s := s.seqSeen c o
  let i := if s.acqState c == 1 then 0 else s.get F.SEP_ACQ_CH_STAT.SEQ c
  if s.acqState c != 0 && s.get F.SEP_ACQ_CH_CFG.TYPE c == 0 && s.seqMatches c i o then
    let (s1, t, tdc) := s.seqStamp c o
    if (s1.acqU c).disarmed t || (s1.acqState c == 2 && s1.pastTmax c i t) then .next s1 else .next (s1.seqCount c i t tdc)
  else .next s

/-- SEQUENCE_TIMER (R179): TMAX of the current state, or TMIN for COND 6, has come. -/
def execSequenceTimer (e : Nat) (ch : Chan) (s : State) : Out :=
  let s := s.elapse e
  let c := ch.val
  let u := s.acqU c
  let i := s.get F.SEP_ACQ_CH_STAT.SEQ c
  let k := 8 * c + i
  if s.acqState c == 2 && s.get F.SEP_ACQ_CH_CFG.TYPE c == 0 then
    let tmin := wrap64 (u.entry + ns (s.get F.SEP_ACQ_CH_TIMER.TMIN k))
    let tmax := wrap64 (u.entry + ns (s.get F.SEP_ACQ_CH_TIMER.TMAX k))
    if s.get F.SEP_ACQ_CH_SEQ.COND k = 6 && s.reached tmin && !u.disarmed tmin then
      .next (s.seqOutcome c i (s.get F.SEP_ACQ_CH_SEQ.ON_MATCH k) tmin u.entryTdc)
    else if s.get F.SEP_ACQ_CH_SEQ.COND k != 6 && s.get F.SEP_ACQ_CH_TIMER.TMAX k != 0 && s.reached tmax && !u.disarmed tmax then
      .next (s.seqOutcome c i (s.get F.SEP_ACQ_CH_SEQ.ON_TMO k) tmax u.entryTdc)
    else .next s
  else .next s

/-- Does RELATION hold for a measured quantity (R180). -/
def State.relation (s : State) (c q : Nat) : Bool :=
  let a := s.get F.SEP_ACQ_CH_PARAM0.LIMIT c
  let b := s.get F.SEP_ACQ_CH_PARAM1.LIMIT c
  match s.get F.SEP_ACQ_CH_PARAM0.RELATION c with
  | 0 => decide (q < a)
  | 1 => decide (a < q)
  | 2 => decide (a ≤ q) && decide (q ≤ b)
  | 3 => decide (q < a) || decide (b < q)
  | _ => true

/-- Is a crossing of a kind: of VTH_HI or VTH_LO, rising or falling. -/
def crossIs (k : Crossing) (hi rising : Bool) : Bool := k.hi == hi && k.rising == rising

/-- Are two crossings, with those between them, what a TYPE and an EDGE measure (R180): the ending crossing is the next of its kind; a
runt has no crossing of the other threshold between them; a slew does not turn back before its second threshold. -/
def pairMeasured (ty edge : Nat) (a b : Crossing) (between : List Crossing) : Bool :=
  let none_ (hi rising : Bool) : Bool := between.all (fun k => !crossIs k hi rising)
  let pulse (hi : Bool) : Bool := crossIs a hi hi && crossIs b hi (!hi) && none_ hi (!hi)
  let runt (lo : Bool) : Bool := crossIs a (!lo) lo && crossIs b (!lo) (!lo) && none_ (!lo) (!lo) && none_ lo true && none_ lo false
  let slew (up : Bool) : Bool := crossIs a (!up) up && crossIs b up up && none_ up up && none_ (!up) (!up)
  match ty, edge with
  | 1, 0 => pulse true
  | 1, 1 => pulse false
  | 2, 0 => runt true
  | 2, 1 => runt false
  | 4, 0 => slew true
  | 4, 1 => slew false
  | 4, 2 => slew true || slew false
  | _, _ => false

/-- Is a comparator state the condition whose time TYPE 3 measures under an EDGE (R180). -/
def stateMeasured (edge : Nat) (st : CmpState) : Bool :=
  match edge with
  | 0 => st == .high
  | 1 => st == .low
  | _ => true

/-- A privileged evaluation of a unit (R180): its start, its trigger time, its quantity and whether its condition is met. -/
structure PrivJudged where
  start : Nat
  trig : Nat
  q : Nat
  met : Bool
  deriving DecidableEq, Repr

/-- What an evaluation comes to under a unit's TYPE, EDGE, RELATION and limits; none where the unit does not measure it, or the instant
that judges it has not come (R180, R181); `between` are the crossings between the two of a pair. A state that ends before LIMIT_A is judged and not met. -/
def State.judge (s : State) (c : Nat) (v : PrivEval) (between : List Crossing) : Option PrivJudged :=
  let ty := s.get F.SEP_ACQ_CH_CFG.TYPE c
  let edge := s.get F.SEP_ACQ_CH_PARAM0.EDGE c
  let la := s.get F.SEP_ACQ_CH_PARAM0.LIMIT c
  match v with
  | .pair a b =>
    let q := wrap64 (wrap64 b.dt + 2 ^ 64 - wrap64 a.dt)
    if pairMeasured ty edge a b between && s.reached (wrap64 b.dt) then
      some { start := wrap64 a.dt, trig := wrap64 b.dt, q := q, met := s.relation c q }
    else none
  | .spent st a ended =>
    let t := wrap64 (a + la)
    let short := match ended with | some b => !dtReached (wrap64 b) t | none => false
    if ty = 3 && stateMeasured edge st && (short || s.reached t) then
      some { start := wrap64 a, trig := t, q := la, met := !short }
    else none

/-- The comparator state that an evaluation leaves shows in LIVE (R134). -/
def State.evalSeen (s : State) (c : Nat) (v : PrivEval) : State :=
  match v with
  | .pair _ b => s.seeLive c (if b.hi && b.rising then .high else if !b.hi && !b.rising then .low else .mid)
  | .spent st _ none => s.seeLive c st
  | .spent _ _ (some _) => s

/-- PRIVILEGED_TRIGGER_EVAL (R180–R182). A start within 32 ns of the previous evaluation's start is not evaluated (R181). -/
def execPrivilegedTriggerEval (e : Nat) (ch : Chan) (v : PrivEval) (between : List Crossing) (s : State) : Out :=
  let s := s.elapse e
  let c := ch.val
  let s := s.evalSeen c v
  let u := s.acqU c
  match s.judge c v between with
  | some j =>
    let dead := match u.lastStart with | some l => !dtReached j.start (wrap64 (l + ns 32)) | none => false
    if s.acqState c == 0 then .next s
    else if dead then .next (if j.met then s.missTrigger c else s)
    else
      let s1 := s.setAcqU c { u with lastStart := some j.start }
      .next (if j.met then s1.condTrigger c j.trig true (s1.get F.SEP_ACQ_CH_STAT.SEQ c) j.q else s1)
  | none => .next s

/-- The forced triggers that have come to a unit: its FORCEs, and the auto timer (R183). A disarm at or before one discards it. -/
def State.forcedDue (s : State) (c : Nat) : List Nat :=
  let u := s.acqU c
  let auto := wrap64 (u.autoFrom + us (max 1 (s.get F.SEP_ACQ_CH_AUTO.US c)))
  let l := u.forceAt ++ (if s.flag F.SEP_ACQ_CH_CFG.AUTO c then [auto] else [])
  l.filter (fun d => s.reached d && !u.disarmed d)

/-- The earliest of some DTs. -/
def earliest : List Nat → Option Nat
  | [] => none
  | d :: r => some (r.foldl (fun a b => if dtReached b a then a else b) d)

/-- ACQ_AUTO_TIMEOUT (R183): the auto timer, or the DT of a FORCE, has come to an ARMED unit. A FORCE that finds the unit
in another state is ignored. -/
def execAcqAutoTimeout (e : Nat) (ch : Chan) (s : State) : Out :=
  let s := s.elapse e
  let c := ch.val
  let s1 := s.setAcqU c { s.acqU c with forceAt := (s.acqU c).forceAt.filter (fun d => !s.reached d) }
  if s.acqState c == 2 then
    match earliest (s.forcedDue c) with
    | some d => .next (s1.takeTrigger c d false true (s.get F.SEP_ACQ_CH_STAT.SEQ c) 0)
    | none => .next s1
  else .next s1

/-! ### History (R184, R185) -/

/-- The depth of a unit's history buffer; 0 where it has none (R186). -/
def State.acqDepth (s : State) (c : Nat) : Nat :=
  let k := s.get F.SEP_ACQ_CH_CFG.DEPTH c
  if k = 7 then 0 else 1024 * 2 ^ k

/-- The post-trigger samples that a record collects (R185). -/
def State.acqPost (s : State) (c : Nat) : Nat := s.acqDepth c - 1 - s.get F.SEP_ACQ_CH_CFG.PRE c

/-- A history sample is stored: in the pre-trigger history (the last PRE samples and the newest, which may yet prove to be the trigger
sample), as the trigger sample, or after it (R185). -/
def State.storeSample (s : State) (c w : Nat) (done : Bool) : State :=
  let u := s.acqU c
  match u.trig, u.tsamp with
  | none, _ => s.setAcqU c { u with pre := (u.pre ++ [w]).drop (u.pre.length - s.get F.SEP_ACQ_CH_CFG.PRE c) }
  | some _, none => if done then s.setAcqU c { u with tsamp := some (w ||| 8) } else s
  | some _, some _ => if u.post.length < s.acqPost c then s.setAcqU c { u with post := u.post ++ [w] } else s

/-- HISTORY_SAMPLE (R184): the interval of 2^DECIM vector cycles in progress ends with the states it saw. -/
def execHistorySample (e : Nat) (ch : Chan) (seen : Fin 8) (s : State) : Out :=
  let s := s.elapse e
  let c := ch.val
  let u := s.acqU c
  match s.chanSlice c with
  | some i =>
    let v := s.slice i
    let noplay := match u.trig with | some t => t.noplay | none => false
    let cycles := (u.nextSample + 1) * 2 ^ s.get F.SEP_ACQ_CH_CFG.DECIM c
    let ended := decide (cycles < v.vidx) || (v.vidx == cycles && s.reached v.nextB)
    if (s.acqState c == 2 || s.acqState c == 3) && seen.val != 0 && v.playing && ended && !noplay then
      let w := seen.val + (if u.resumes < v.resumes then 16 else 0)
      let s1 := s.storeSample c w true
      .next (s1.setAcqU c { s1.acqU c with nextSample := u.nextSample + 1, resumes := v.resumes })
    else .next s
  | none => .next s

/-- Has the slice of a channel ended play, so that a record in collection closes (R185). A hold under STRICT ends it (R102). -/
def State.playOver (s : State) (c : Nat) : Bool :=
  match s.chanSlice c with
  | some i => !(s.get F.SLP_STAT.STATE i == 2 || (s.get F.SLP_STAT.STATE i == 3 && (s.slice i).endDT.isNone))
  | none => true

/-- POST_TRIGGER_COMPLETE (R185): the record is complete, or closes early with TRUNC_POST. -/
def execPostTriggerComplete (e : Nat) (ch : Chan) (s : State) : Out :=
  let s := s.elapse e
  let c := ch.val
  let u := s.acqU c
  if s.acqState c != 3 then .next s
  else match u.trig with
    | some t =>
      if t.noplay || (u.tsamp.isSome && u.post.length == s.acqPost c) then .next (s.set F.SEP_ACQ_CH_STAT.STATE c 4)
      else if s.playOver c then .next (s.cutRecord c)
      else .next s
    | none => .next s

/-! ### Records and rings (R187, R188) -/

/-- Samples packed two to a byte, the earlier in the low half (R187). -/
def packSamples : List Nat → List Byte
  | [] => []
  | [a] => [BitVec.ofNat 8 (a % 16)]
  | a :: b :: r => BitVec.ofNat 8 (a % 16 + 16 * (b % 16)) :: packSamples r

/-- The acquisition record of a unit (R187). -/
def State.acqRecord (s : State) (c x : Nat) (u : AcqUnit) (t : Trigger) (lost : Bool) : List Byte :=
  let samples := u.pre ++ u.tsamp.toList ++ u.post
  let body := packSamples samples
  let len := alignUp (64 + body.length) 32
  let holdIn := samples.any (fun w => bitAt w 4)
  let flags := ofBool t.forced + 2 * ofBool t.interp + 4 * ofBool u.trunc + 8 * ofBool lost + 16 * ofBool holdIn + 32 * ofBool t.noplay
  let head := toBytes 8 t.dt ++ toBytes 3 t.seg ++ toBytes 3 t.voff ++ toBytes 1 (s.homeSite x) ++ toBytes 1 flags ++
    toBytes 1 2 ++ toBytes 1 (s.get F.SEP_ACQ_CH_CFG.TYPE c + 8 * t.seqState) ++ toBytes 2 c ++
    toBytes 1 (s.get F.DEV_NUMBER.NUMBER 0) ++ toBytes 1 (s.get F.SEP_ACQ_CH_CFG.DECIM c) ++ toBytes 2 (len / 32) ++
    toBytes 2 u.pre.length ++ toBytes 2 u.post.length ++ toBytes 4 u.recno ++ toBytes 8 t.meas ++ toBytes 8 t.vecDT ++
    toBytes 4 u.missed ++ toBytes 8 (s.get F.SEP_ACQ_CH_ARM_DT.DT c) ++ toBytes 4 0
  head ++ body ++ List.replicate (len - 64 - body.length) 0

/-- An acquisition record of a site is dropped (R188). -/
def State.acqDropped (s : State) (x : Nat) : State :=
  (s.count F.SEP_ACQ_LOST.COUNT (some F.SEP_ACQ_LOST.OVF) x 16 1).setSite x { s.site x with acqLost := true }

/-- Bytes go to a ring of 32-byte units from a free-running position, and wrap at its end (R188). -/
def State.ringWrite (s : State) (lake : Bool) (base log2 pos : Nat) (b : List Byte) : State :=
  let size := 2 ^ log2
  let p := pos % size
  let n := b.length / 32
  if p + n ≤ size then s.dmaWrite lake (base + 32 * p) b
  else (s.dmaWrite lake (base + 32 * p) (b.take (32 * (size - p)))).dmaWrite lake base (b.drop (32 * (size - p)))

/-- The reasons for which the ring of a site drops a record of n units, each with the flags it sets (R188): the ring is disabled, a
Lake bank under it is not ON or is the loader's, it lies in no DRAM DATA region, or its free space is below the record. -/
def State.acqDrops (s : State) (x n : Nat) : List (State → State) :=
  let base := s.get F.SEP_ACQ_RING_BASE.ADDR x
  let log2 := s.get F.SEP_ACQ_RING_CFG.LOG2 x
  let size := 32 * 2 ^ log2
  let lake := s.flag F.SEP_ACQ_RING_CFG.MEM x
  let used := (s.get F.SEP_ACQ_RING_WR.POS x + 2 ^ 32 - s.get F.SEP_ACQ_RING_RD.POS x) % 2 ^ 32
  let if_ (b : Bool) (f : State → State) : List (State → State) := if b then [f] else []
  if !s.flag F.SEP_ACQ_RING_CFG.EN x then [id]
  else
    if_ (decide (2 ^ log2 < used + n)) (fun s => s.raiseC F.SEP_ACQ_FAULT_STAT.RING_FULL 0) ++
    if_ (lake && s.loaderSpan base size) (fun s => s.denyB base size) ++
    if_ (!lake && (s.region 1 base size).isNone) (fun s => s.raiseC F.DMC_FAULT_STAT.NO_REGION 0) ++
    if_ (lake && !s.banksOn base size) (fun s => s.raiseU 16 F.SEP_ACQ_FAULT_STAT.RING_ADDR 0)

/-- An acquisition record reaches the ring of its site (R188). -/
def State.acqToRing (s : State) (x : Nat) (b : List Byte) : State :=
  let n := b.length / 32
  match s.acqDrops x n with
  | f :: fs => (f :: fs).foldl (fun s g => g s) (s.acqDropped x)
  | [] =>
    let wr := s.get F.SEP_ACQ_RING_WR.POS x
    let b1 := if (s.site x).acqLost then setRecBit b 15 3 else b
    let s1 := (s.ringWrite (s.flag F.SEP_ACQ_RING_CFG.MEM x) (s.get F.SEP_ACQ_RING_BASE.ADDR x) (s.get F.SEP_ACQ_RING_CFG.LOG2 x) wr
      b1).set F.SEP_ACQ_RING_WR.POS x (wr + n)
    (s1.count F.SEP_ACQ_LOGGED.COUNT (some F.SEP_ACQ_LOGGED.OVF) x 16 1).setSite x { s1.site x with acqLost := false }

/-- A proxy slice's acquisition record goes to its home, or is dropped while the port is down (R248). -/
def State.forwardAcq (s : State) (x : Nat) (b : List Byte) : State :=
  match s.carrier (s.get F.SMAP_SITE.HOME_DEV x) with
  | some p => s.sendBlock p 0x48 ([s.get F.SMAP_SITE.HOME_SITE x, 2, b.length / 32] ++ b.map (fun v => v.toNat))
  | none => s.acqDropped x

/-- The unit whose record has been written or dropped is re-armed, or is DISARMED (R176). -/
def State.afterRecord (s : State) (c : Nat) : State :=
  let u := s.acqU c
  let s1 := s.setAcqU c { u with missed := 0, recno := satAdd 32 u.recno 1 }
  if s.flag F.SEP_ACQ_CH_CFG.REPEAT c && !u.disarmWhileMoving then s1.watch c s1.now
  else (s1.set F.SEP_ACQ_CH_STAT.STATE c 0).setAcqU c { s1.acqU c with
    pre := [], tsamp := none, post := [], trig := none, trunc := false, disarmWhileMoving := false }

/-- ACQ_RECORD_ARRIVAL (R16, R176, R188): a unit's record reaches the core die with a site tag. -/
def execAcqRecordArrival (e : Nat) (ch : Chan) (tag : Site) (s : State) : Out :=
  let s := s.elapse e
  let c := ch.val
  let u := s.acqU c
  if s.acqState c != 4 then .next s
  else match u.trig, s.chanSite c with
    | some t, some x =>
      let b := s.acqRecord c x u t false
      let s1 := if tag.val != x then s.faultSite 16 F.SEP_ACQ_FAULT_STAT.TAG_MISMATCH 0 x 5
        else if s.proxy x then s.forwardAcq x b
        else s.acqToRing x b
      .next (s1.afterRecord c)
    | _, _ => .next (s.afterRecord c)

/-- A write to SEP_ACQ_RING_RD. -/
def State.writeAcqRd (s : State) (x v : Nat) : State :=
  if rdOk (s.get F.SEP_ACQ_RING_RD.POS x) (s.get F.SEP_ACQ_RING_WR.POS x) v then s.set F.SEP_ACQ_RING_RD.POS x v else s

/-- ACQ_RING_RD_WRITE (R188). -/
def execAcqRingRdWrite (e : Nat) (x : Site) (v : Word32) (s : State) : Out := .next ((s.elapse e).writeAcqRd x.val v.toNat)

/-! ### Configuration (R180, R186) -/

/-- May a unit's configuration be written: DISARMED, and its channel unmapped or its site IDLE, DONE or FAULTED. -/
def State.acqSettable (s : State) (c : Nat) : Bool := s.acqState c == 0 && s.chanSettable c

/-- Is a channel privileged: quad 0, position 0 of its group. -/
def privileged (c : Nat) : Bool := c % 16 == 0

/-- Are a unit type and the EDGE and RELATION of PARAM0 valid together (R180). -/
def typeOk (ty edge rel : Nat) : Bool :=
  decide (ty ≤ 4) && decide (edge ≤ 2) && decide (rel ≤ 4) && !((ty == 1 || ty == 2) && edge == 2) && !(rel == 4 && ty != 2 && ty != 0)

/-- Is a value of SEP_ACQ_CH_CFG valid. -/
def State.acqCfgOk (s : State) (c v : Nat) : Bool :=
  let ty := bitsOf v 0 3
  let d := bitsOf v 5 3
  typeOk ty (s.get F.SEP_ACQ_CH_PARAM0.EDGE c) (s.get F.SEP_ACQ_CH_PARAM0.RELATION c) && (ty == 0 || privileged c) &&
    (d == 7 || decide (bitsOf v 16 16 < 1024 * 2 ^ d))

/-- A write to SEP_ACQ_CH_CFG: the buffer of its DEPTH is taken from the tile's pool, and the old one returned (R186). -/
def State.writeAcqCfg (s : State) (c v : Nat) : State :=
  let t := c / 128
  let d := bitsOf v 5 3
  let need := if d = 7 then 0 else 1024 * 2 ^ d
  let free := s.get F.SEP_ACQ_POOL.FREE t + s.acqDepth c
  if s.acqSettable c && s.acqCfgOk c v && decide (need ≤ free) then
    let s1 := (s.set F.SEP_ACQ_POOL.FREE t (free - need)).set F.SEP_ACQ_CH_CFG.TYPE c (bitsOf v 0 3)
    let s2 := ((s1.set F.SEP_ACQ_CH_CFG.REPEAT c (bitsOf v 3 1)).set F.SEP_ACQ_CH_CFG.AUTO c (bitsOf v 4 1)).set
      F.SEP_ACQ_CH_CFG.DEPTH c d
    (s2.set F.SEP_ACQ_CH_CFG.DECIM c (bitsOf v 8 4)).set F.SEP_ACQ_CH_CFG.PRE c (bitsOf v 16 16)
  else s.set F.SEP_ACQ_CH_STAT.CFG_REJ c 1

/-- SEP_ACQ_CH_CFG_WRITE (R186). -/
def execSepAcqChCfgWrite (e : Nat) (ch : Chan) (v : Word32) (s : State) : Out :=
  .next ((s.elapse e).writeAcqCfg ch.val v.toNat)

end Sys2Proof.Machine
end

