-- ==== Sys2Proof/Machine/Plan.lean ====
section
/-! DEFINITION. Test plans (spec/14_services.md, R280–R282): starting a DUT, running an entry, retrying, ending a DUT, and the
plan commands. Judging a test stands in Services.lean. -/

namespace Sys2Proof.Machine

/-! ### The end of a DUT (R281, R283) -/

/-- Is a bin of pass class; a site without a bins table treats bin 0 as its only pass bin (R283). -/
def State.binPass (s : State) (x b : Nat) : Bool :=
  match s.svcTable x 3 with
  | some t => bitAt (leAt t (4 * b) 1) 0
  | none => b == 0

/-- The hardware bin of a bin; the spec gives none for a site without a bins table. -/
def State.binHard (s : State) (x b : Nat) : Nat :=
  match s.svcTable x 3 with
  | some t => leAt t (4 * b + 1) 1
  | none => s.fresh % 256

/-- The record that ends a DUT, and SVC_LAST: with its bin and class, or without a bin (R285). -/
def State.recordDut (s : State) (x : Nat) (bin : Option Nat) : State :=
  let p := s.plan x
  let tail := toBytes 2 p.tests ++ toBytes 2 p.failed
  match bin with
  | some b =>
    let hard := s.binHard x b
    let pass := ofBool (s.binPass x b)
    let s1 := s.drew.log x 0x14 s.now 0xFFFF 0 1 (toBytes 2 b ++ toBytes 1 hard ++ toBytes 1 pass ++ tail)
    let s2 := if pass = 1 then s1.count F.SVC_DUTS.PASSED none x 11 1 else s1
    (((s2.set F.SVC_LAST.BIN x b).set F.SVC_LAST.HARD x hard).set F.SVC_LAST.PASS x pass).set F.SVC_LAST.VALID x 1
  | none =>
    let s1 := s.drew.drew.log x 0x14 s.now 0xFFFF 0 1 (toBytes 2 0xFFFF ++ toBytes 1 s.fresh ++ toBytes 1 0 ++ tail)
    let s2 := (s1.set F.SVC_LAST.BIN x s.drew.fresh).set F.SVC_LAST.HARD x s.fresh
    (s2.set F.SVC_LAST.PASS x 0).set F.SVC_LAST.VALID x 0

/-- A DUT ends, and the plan waits for the next or stops (R281). -/
def State.endDut (s : State) (x : Nat) (bin : Option Nat) (stop : Bool) : State :=
  let p := s.plan x
  let s1 := (s.recordDut x bin).setPlan x { reflAt := p.reflAt, net := p.net, copied := p.copied }
  (s1.set F.SVC_PLAN_STAT.STATE x (if stop || p.stopAfter then 0 else 1)).planPause x

/-- A test that did not run is recorded with its reason (R281, R285). -/
def State.notRun (s : State) (x : Nat) (t : List Byte) (reason : Nat) : State :=
  let k := (s.plan x).entry
  s.log x 0x13 s.now (planFld t k 0 2) 0 1 (toBytes 2 (planFld t k 2 2) ++ toBytes 1 reason)

/-! ### Arming an entry (R281) -/

/-- The ARM of an entry was refused, or the stale check failed: the entry is armed again later, or is not run. -/
def State.planRefused (s : State) (x : Nat) (t : List Byte) (reason : Nat) : State :=
  let p := s.plan x
  if p.retries < leAt t 0xE 1 then
    s.setPlan x { p with armed := false, alignWait := false, tmoAt := none, retries := p.retries + 1,
                         retryAt := some (wrap64 (s.now + us (1000 * leAt t 0xC 2))) }
  else (s.notRun x t reason).endDut x none false

/-- A plan issues the ARM of its entry. -/
def State.planArm (s : State) (x : Nat) : State :=
  match s.svcTable x 1 with
  | none => s
  | some t =>
    let p := s.plan x
    let prog := planFld t p.entry 2 2
    let s1 := s.set F.MDR_SITE_START_REQ.DT x 0
    if s1.armCode x prog = 1 then
      let ms := planFld t p.entry 0x10 4
      let tmo := if ms = 0 then none else some (wrap64 (s.now + us (1000 * ms)))
      (s1.setPlan x { p with armed := true, alignWait := false, retryAt := none, tmoAt := tmo, netDone := false }).armAccepted
        x prog 0
    else (if s1.armCode x prog = 4 then s1.dirSeen x prog else s1).planRefused x t 2

/-- A plan writes the arguments of its entry and arms it; an aligned entry waits until every plan of its set waits at one. -/
def State.tryEntry (s : State) (x : Nat) (t : List Byte) : State :=
  let k := (s.plan x).entry
  let s1 := s.each (List.range 4) (fun s n => s.set F.MDR_STEP_ARG.VALUE (4 * x + n) (planFld t k (0x20 + 8 * n) 8))
  if bitAt (planFld t k 0x14 2) 0 && s.aligned x then
    let s2 := s1.setPlan x { s1.plan x with alignWait := true, retryAt := none }
    if (s2.alignSet x).all (fun y => (s2.plan y).alignWait) then s2.each (s2.alignSet x) (fun s y => s.planArm y) else s2
  else s1.planArm x

/-- A plan turns to an entry. -/
def State.runEntry (s : State) (x : Nat) (t : List Byte) (k : Nat) : State :=
  let s1 := s.setPlan x { s.plan x with entry := k, armed := false, alignWait := false, retries := 0, retryAt := none,
                                        tmoAt := none, netDone := false }
  (s1.set F.SVC_PLAN_STAT.ENTRY x k).tryEntry x t

/-! ### Starting a DUT (R281, R282) -/

/-- A DUT is started: its record is made and its first entry runs. -/
def State.dutStart (s : State) (x serial : Nat) : State :=
  match s.svcTable x 1 with
  | none => s
  | some t =>
    let s1 := s.count F.SVC_DUTS.DUTS none x 11 1
    let s2 := s1.log x 0x10 s.now 0xFFFF 0 1 (toBytes 8 serial ++ toBytes 2 (leAt t 2 2))
    let p := s2.plan x
    let s3 := s2.setPlan x { inDut := true, reflAt := p.reflAt, net := p.net, copied := p.copied }
    (s3.set F.SVC_PLAN_STAT.STATE x 2).runEntry x t (leAt t 2 2)

/-- A start is taken: it waits for a reflection of the site to end (R282). -/
def State.dutAsk (s : State) (x serial : Nat) : State :=
  if s.get F.MRD_REFL_STAT.STATE x = 2 then
    (s.setPlan x { s.plan x with dutPend := some serial }).set F.SVC_PLAN_STAT.STATE x 1
  else s.dutStart x serial

/-- A start that waited for a reflection is taken up once none is in progress (R282). -/
def State.dutKick (s : State) (x : Nat) : State :=
  match (s.plan x).dutPend with
  | some n => if s.get F.MRD_REFL_STAT.STATE x = 2 then s else (s.setPlan x { s.plan x with dutPend := none }).dutStart x n
  | none => s

/-! ### Plan commands (R281) -/

/-- The answer to a plan command: 1 accepted, 2 refused in this state, 3 no plan. -/
def State.planCode (s : State) (x op : Nat) : Nat :=
  let st := s.get F.SVC_PLAN_STAT.STATE x
  if st = 5 then 3
  else if !s.running then 2
  else match op with
    | 1 => if decide (st ≤ 1) && (s.plan x).dutPend.isNone && !s.planHeld x then 1 else 2
    | 2 => if st = 0 || st = 4 then 2 else 1
    | _ => if st = 0 then 2 else 1

/-- A plan stops after the current DUT, or at once where none is in progress. -/
def State.planStop (s : State) (x : Nat) : State :=
  if (s.plan x).inDut then (s.setPlan x { s.plan x with stopAfter := true }).set F.SVC_PLAN_STAT.STATE x 4
  else (s.setPlan x { s.plan x with dutPend := none }).set F.SVC_PLAN_STAT.STATE x 0

/-- A plan aborts its test and stops: the abort is settled by R170, and the DUT ends with that test. -/
def State.planAbort (s : State) (x : Nat) : State :=
  let p := s.plan x
  if p.armed then
    ((s.setPlan x { p with stopAfter := true, abortDut := true }).set F.SVC_PLAN_STAT.STATE x 4).sendAbort x
  else if p.inDut then s.endDut x none true
  else s.planStop x

/-- A plan command is answered and, where it is accepted, takes effect. -/
def State.planCmd (s : State) (x op serial : Nat) : State :=
  let r := s.planCode x op
  let s1 := s.set F.SVC_PLAN_STAT.RESULT x r
  if r != 1 then s1
  else match op with
    | 1 => s1.dutAsk x serial
    | 2 => s1.planStop x
    | _ => s1.planAbort x

/-- A write to SVC_PLAN_CMD. -/
def State.writePlanCmd (s : State) (x op : Nat) : State :=
  if op = 0 then s else s.planCmd x op (s.get F.SVC_PLAN_SERIAL.SERIAL x)

/-- PLAN_START (R281). -/
def execPlanStart (e : Nat) (x : Site) (s : State) : Out := .next ((s.elapse e).writePlanCmd x.val 1)

/-- PLAN_STOP (R281). -/
def execPlanStop (e : Nat) (x : Site) (s : State) : Out := .next ((s.elapse e).writePlanCmd x.val 2)

/-- PLAN_ABORT (R281). -/
def execPlanAbort (e : Nat) (x : Site) (s : State) : Out := .next ((s.elapse e).writePlanCmd x.val 3)

/-- DUT_EVENT (R281): a firing of DUT_EVCH while the plan waits for a DUT. -/
def execDutEvent (e : Nat) (x : Site) (s : State) : Out :=
  let s := s.elapse e
  let x := x.val
  match s.svcTable x 1 with
  | some t =>
    if bitAt (leAt t 4 2) 0 && s.running && s.get F.SVC_PLAN_STAT.STATE x == 1 && (s.plan x).dutPend.isNone && !s.planHeld x then
      .next (s.dutAsk x (s.get F.SVC_PLAN_SERIAL.SERIAL x))
    else .next s
  | none => .next s

/-- PLAN_TIMEOUT (R281): TIMEOUT_MS has expired, and the service sends an abort. -/
def execPlanTimeout (e : Nat) (x : Site) (s : State) : Out :=
  let s := s.elapse e
  let x := x.val
  let p := s.plan x
  if p.armed && s.due p.tmoAt then .next ((s.setPlan x { p with tmoAt := none }).sendAbort x) else .next s

/-- STALE_RETRY (R281): STALE_RETRY_MS has passed and the entry is armed again. -/
def execStaleRetry (e : Nat) (x : Site) (s : State) : Out :=
  let s := s.elapse e
  let x := x.val
  let p := s.plan x
  match s.svcTable x 1 with
  | some t =>
    if p.inDut && !p.armed && s.due p.retryAt then .next ((s.setPlan x { p with retryAt := none }).tryEntry x t)
    else .next s
  | none => .next s

end Sys2Proof.Machine
end

