-- ==== Sys2Proof/Machine/Tia.lean ====
section
/-! DEFINITION. Time-interval and frequency measurement (spec/10_time_interval_timebase.md): starting and ending a unit,
samples, gates and statistics. -/

namespace Sys2Proof.Machine

/-! ### Starting and ending (R193–R197) -/

/-- May the channel of a cross measurement's partner be in the site: on this device by the map, on another one where the site may
have quads there: a home knows the devices that joined it, and a proxy only that its home is one of them (R194). -/
def State.partnerIn (s : State) (c x : Nat) : Bool :=
  let d := s.get F.TIA_CH_PARTNER.DEV c
  if d = s.get F.DEV_NUMBER.NUMBER 0 then s.chanSite (s.get F.TIA_CH_PARTNER.CH c) == some x
  else s.proxy x || bitAt (s.get F.MDR_SITE_SPAN.DEV x) d

/-- Is the partner of a unit's cross measurement on another device. -/
def State.partnerFar (s : State) (c : Nat) : Bool :=
  s.get F.TIA_CH_CFG.TYPE c == 1 && s.get F.TIA_CH_PARTNER.DEV c != s.get F.DEV_NUMBER.NUMBER 0

/-- What the other device has to say of a partner: 0 in the site and free, 1 outside the site, 2 its converter held (R193, R195). No
message carries it, so it is a free value (notes/assumptions/97.md). -/
def State.farReason (s : State) (c : Nat) : Nat := if s.partnerFar c then s.fresh / 2 % 3 else 0

/-- Is the stop channel of a unit in its site (R195). -/
def State.stopIn (s : State) (c x : Nat) : Bool :=
  match s.get F.TIA_CH_CFG.TYPE c with
  | 0 => s.chanSite (128 * (c / 128) + s.get F.TIA_CH_CFG.STOP_CH c) == some x
  | 1 => s.partnerIn c x
  | _ => true

/-- Does an acquisition unit hold the converters of a channel (R175). -/
def State.acqHolds (s : State) (c : Nat) : Bool := 1 ≤ s.acqState c && s.acqState c ≤ 3

/-- Is a converter of channel d held against the unit of channel c (R193). -/
def State.heldFrom (s : State) (c d : Nat) : Bool :=
  s.acqHolds d || (List.range 1024).any (fun k => k != c && s.unitHolds k d) || s.farHold d

/-- Is a converter that a unit needs held (R193). -/
def State.tdcsHeld (s : State) (c : Nat) : Bool :=
  s.heldFrom c c || (match s.stopOf c with | some d => s.heldFrom c d | none => false)

/-- Is the configuration of a unit valid for its channel (R194). -/
def measCfgOk (c ty start stop : Nat) : Bool := ty != 7 && (ty != 6 || privileged c) && start != 0 && stop != 0

/-- The reason for which a start is refused, 0 where it is accepted (R195). `cmd` is a start by TIA_CH_CMD, which an IDLE
site takes too. -/
def State.measReason (s : State) (c : Nat) (cmd : Bool) : Nat :=
  match s.chanSite c with
  | none => 1
  | some x =>
    let st := s.siteState x
    if !s.stopIn c x || s.farReason c == 1 then 1
    else if s.tdcsHeld c || s.farReason c == 2 then 2
    else if !measCfgOk c (s.get F.TIA_CH_CFG.TYPE c) (s.get F.TIA_CH_CFG.START_SLOPE c) (s.get F.TIA_CH_CFG.STOP_SLOPE c) then 3
    else if !(st == 2 || st == 3 || st == 4 || (cmd && st == 1)) then 4
    else if s.isSafe then 5
    else if s.measuring c then 6
    else 0

/-- The lead of a start (R195): by MEAS the crossing leads of R20, which an image may reload; by command 120 ns or 280 ns. -/
def State.measLead (s : State) (c : Nat) (cmd : Bool) : Nat :=
  if s.partnerFar c then (if cmd then ns 280 else s.img.leadHop) else if cmd then ns 120 else s.img.leadCore

/-- A start of a unit formed at DT b (R195): accepted, it clears every count and statistic of the unit. -/
def State.startMeas (s : State) (c b : Nat) (cmd : Bool) : State :=
  let r := s.measReason c cmd
  let s := s.drew
  if r = 0 then
    ((s.clearMeas c).set F.TIA_CH_STAT.STATE c 1).setTiaU c { startAt := some (wrap64 (b + s.measLead c cmd)), released := !cmd }
  else (s.set F.TIA_CH_STAT.REJ c 1).set F.TIA_CH_STAT.REASON c r

/-- TIA_START (R195). -/
def execTiaStart (e : Nat) (ch : Chan) (s : State) : Out :=
  let s := s.elapse e
  .next (s.startMeas ch.val s.now true)

/-- TIA_END (R197). -/
def execTiaEnd (e : Nat) (ch : Chan) (s : State) : Out := .next ((s.elapse e).endMeas ch.val)

/-- A unit runs from DT d with its results cleared (R195). -/
def State.runMeas (s : State) (c d : Nat) : State :=
  (((s.clearMeas c).set F.TIA_CH_STAT.STATE c 2).set F.TIA_CH_START_DT.DT c d).setTiaU c { gateOpen := d }

/-- A start whose DT has come takes effect, unless Mordant holds the channel (R216); one that came late takes effect on
arrival (R20). -/
def State.measDue (s : State) (c : Nat) (late : Bool) : State :=
  let u := s.tiaU c
  match u.startAt with
  | some d =>
    if s.get F.TIA_CH_STAT.STATE c == 1 && s.reached d && !s.flag F.MRD_CH_QF.HELD c then
      if late && u.released then (s.runMeas c s.now).raiseC F.TIA_FAULT_STAT.MISSED (c / 128) else s.runMeas c d
    else s
  | none => s

/-- MEAS_START_DT (R195). -/
def execMeasStartDt (e : Nat) (ch : Chan) (late : Bool) (s : State) : Out := .next ((s.elapse e).measDue ch.val late)

/-! ### Statistics (R199, R200) -/

/-- A square root rounded down, by bits from bit k down. -/
def isqrt (n : Nat) : Nat → Nat → Nat
  | 0, r => r
  | k + 1, r => isqrt n k (if (r + 2 ^ k) * (r + 2 ^ k) ≤ n then r + 2 ^ k else r)

/-- The standard deviation of n samples in 1/256 tick: within 1 % or 1/256 tick of the exact value (R199); which of the
values so allowed it is, is free. -/
def State.deviation (s : State) (m2 n : Nat) : Nat :=
  if n < 2 then 0
  else
    let r := isqrt (65536 * m2 / (n - 1)) 48 0
    let d := max (r / 100) 1
    (r + 1 - d) + s.fresh % (2 * d)

/-- A unit's accumulator saturates (R199). -/
def State.tiaSat (s : State) (c : Nat) (b : Bool) : State :=
  if b then (s.set F.TIA_CH_STAT.OVF c 1).raiseC F.TIA_FAULT_STAT.SAT (c / 128) else s

/-- The running mean and the deviation accumulator take sample x, the n-th (R199). -/
def State.moments (s : State) (c n : Nat) (x : Int) : State :=
  let u := s.tiaU c
  let d := x * 65536 - u.m
  let s1 := s.drew
  let m := u.m + s.openDiv d n
  let q := s1.openDiv (d * (x * 65536 - m)) (2 ^ 32)
  let m2 := (s.get F.TIA_CH_M2.VALUE c : Int) + q
  let s2 := (s1.drew.setTiaU c { u with m := m }).set F.TIA_CH_M2.VALUE c (min m2.toNat (2 ^ 64 - 1))
  s2.tiaSat c (decide ((2 ^ 64 : Nat) ≤ m2))

/-- SUM takes a value, saturating (R199). -/
def State.addSum (s : State) (c : Nat) (v : Int) : State :=
  let t := toInt 64 (s.get F.TIA_CH_SUM.VALUE c) + v
  (s.set F.TIA_CH_SUM.VALUE c (ofInt 64 (satInt 64 t))).tiaSat c (decide (satInt 64 t ≠ t))

/-- MIN and MAX take sample x, the n-th (R199). -/
def State.extremes (s : State) (c n : Nat) (x : Int) : State :=
  let lo := toInt 64 (s.get F.TIA_CH_MIN.VALUE c)
  let hi := toInt 64 (s.get F.TIA_CH_MAX.VALUE c)
  (s.set F.TIA_CH_MIN.VALUE c (ofInt 64 (if n = 1 then x else min lo x))).set F.TIA_CH_MAX.VALUE c
    (ofInt 64 (if n = 1 then x else max hi x))

/-- MEAN and SD follow the accumulators (R199). -/
def State.results (s : State) (c n : Nat) : State :=
  let sum := toInt 64 (s.get F.TIA_CH_SUM.VALUE c)
  let den := if s.get F.TIA_CH_CFG.TYPE c = 3 then s.get F.TIA_CH_AUX.VALUE c else n
  let s1 := s.drew.set F.TIA_CH_MEAN.VALUE c (ofInt 64 (s.roundDiv (sum * 256) den))
  if s1.flag F.TIA_CH_STAT.OVF c then s1.set F.TIA_CH_SD.VALUE c (2 ^ 64 - 1)
  else s1.drew.set F.TIA_CH_SD.VALUE c (s1.deviation (s1.get F.TIA_CH_M2.VALUE c) n)

/-- Is a channel that a unit's sample rests on STALE; of a partner on another device its forwarding tells (R200). -/
def State.sampleStale (s : State) (c : Nat) (remote : Bool) : Bool :=
  s.quality c == 2 || (match s.stopOf c with
    | some d => s.quality d == 2
    | none => s.get F.TIA_CH_CFG.TYPE c == 1 && remote)

/-- STALE is set for the rest of the run (R200). -/
def State.markStale (s : State) (c : Nat) (remote : Bool) : State :=
  if s.sampleStale c remote then (s.set F.TIA_CH_STAT.STALE c 1).setTiaU c { s.tiaU c with staleRun := true } else s

/-- The sample count of a unit's run (R197). -/
def State.measN (s : State) (c : Nat) : Nat := max 1 (s.get F.TIA_CH_N.N c)

/-- A unit takes sample x; SUM takes v (R199). -/
def State.sample (s : State) (c : Nat) (x v : Int) (remote : Bool) : State :=
  let n := s.get F.TIA_CH_COUNT.SAMPLES c + 1
  let s1 := ((s.set F.TIA_CH_COUNT.SAMPLES c n).addSum c v).moments c n x
  ((s1.extremes c n x).results c n).markStale c remote

/-- A stop, an edge or a gate is ignored or not stamped (R196, R198). -/
def State.outside (s : State) (c : Nat) : State :=
  s.count F.TIA_CH_COUNT.OUTSIDE (some F.TIA_CH_COUNT.OUT_OVF) c 24 1

/-- An edge falls in a converter's dead time (R192). -/
def State.notStamped (s : State) (c : Nat) : State := (s.outside c).raiseC F.TIA_FAULT_STAT.MISSED (c / 128)

/-! ### Intervals, widths, duty, slew and periods (R192, R194, R196) -/

/-- Can a unit take samples: RUNNING with fewer than N. -/
def State.sampling (s : State) (c : Nat) : Bool :=
  s.get F.TIA_CH_STAT.STATE c == 2 && s.get F.TIA_CH_COUNT.SAMPLES c < s.measN c

/-- Does instant t fall within n ticks after an optional earlier stamp. -/
def within (last : Option Nat) (n t : Nat) : Bool :=
  match last with
  | some l => !dtReached t (wrap64 (l + n))
  | none => false

/-- May a start edge at a be the next: after the unit's start and after the latest pair (R196). -/
def State.startFits (s : State) (c a : Nat) : Bool :=
  let u := s.tiaU c
  dtReached a (s.get F.TIA_CH_START_DT.DT c) &&
    (match u.startStamp with
     | some w => w == wrap64 a
     | none => match u.pairEnd with
       | some p => dtReached a p
       | none => true)

/-- Is the start edge at a, not yet held, in the dead time of TDC A (R190). -/
def State.startDead (s : State) (c a : Nat) : Bool :=
  (s.tiaU c).startStamp.isNone && within (s.tiaU c).lastA (ns 32) a

/-- The DT from which the next start edge is taken after a pair of stamps a and b (R194, R196): b; for TYPE 1 also 1 µs after a, its
fastest rate; for TYPE 5 the next start edge itself, at which the cycle of period p ends. -/
def State.nextStart (s : State) (c a b p : Nat) : Nat :=
  match s.get F.TIA_CH_CFG.TYPE c with
  | 1 => dtMax (wrap64 b) (wrap64 (a + us 1))
  | 5 => wrap64 (a + p)
  | _ => wrap64 b

/-- A pair of stamps a and b makes a sample (R194); for TYPE 5, `p` is the period of its cycle. -/
def State.pairSample (s : State) (c a b p : Nat) (remote : Bool) : State :=
  let u := s.tiaU c
  let s1 := s.setTiaU c { u with
    startStamp := none, lastA := some (wrap64 a), lastB := some (wrap64 b), pairEnd := some (s.nextStart c a b p) }
  let s2 := s1.sample c (dtDiff a b) (dtDiff a b) remote
  if s.get F.TIA_CH_CFG.TYPE c = 5 then
    let w := s2.tiaU c
    let s3 := s2.setTiaU c { w with periods := w.periods + 1, periodSum := w.periodSum + p }
    s3.drew.set F.TIA_CH_AUX.VALUE c (s3.roundDiv ((w.periodSum + p : Nat) * 256) (w.periods + 1)).toNat
  else s2

/-- The DT at which the start at a is abandoned: the end of its window, for TYPE 1 with the forwarding lead of 280 ns (R196). -/
def State.windowEnd (s : State) (c a : Nat) : Nat :=
  wrap64 (a + s.get F.TIA_CH_WMAX.TICKS c + (if s.get F.TIA_CH_CFG.TYPE c = 1 then ns 280 else 0))

/-- A start is abandoned at DT t (R196). -/
def State.abandon (s : State) (c a t : Nat) : State :=
  (s.setTiaU c { s.tiaU c with startStamp := none, lastA := some (wrap64 a), pairEnd := some (wrap64 t) }).outside c

/-- A stop at b for the start at a (R196). -/
def State.pairStop (s : State) (c a b p : Nat) (remote : Bool) : State :=
  let u := s.tiaU c
  let x := wrap64 (b + 2 ^ 64 - wrap64 a)
  let wmax := s.get F.TIA_CH_WMAX.TICKS c
  let s1 := s.setTiaU c { u with startStamp := some (wrap64 a) }
  if within u.lastB (ns 32) b then s1.notStamped c
  else if x < s.get F.TIA_CH_WMIN.TICKS c then
    (s1.setTiaU c { s1.tiaU c with lastB := some (wrap64 b) }).outside c
  else if wmax != 0 && decide (wmax < x) then s1.abandon c a (s.windowEnd c a)
  else s1.pairSample c a b p remote

/-- An edge at b after the reference edge at a, for TYPE 2 (R192, R196). -/
def State.periodStep (s : State) (c a b : Nat) : State :=
  let u := s.tiaU c
  let x := wrap64 (b + 2 ^ 64 - wrap64 a)
  let wmax := s.get F.TIA_CH_WMAX.TICKS c
  if within u.lastA (ns 16) b then s.notStamped c
  else
    let s2 := s.setTiaU c { u with lastA := some (wrap64 b) }
    if x < s.get F.TIA_CH_WMIN.TICKS c then s2.outside c
    else
      let s3 := s2.setTiaU c { s2.tiaU c with prevStamp := some (wrap64 b) }
      if wmax != 0 && decide (wmax < x) then s3 else s3.sample c x x false

/-- The edges at a and b for TYPE 2: a is the reference edge, or a new one, which is stamped too unless it falls within 16 ns of the
latest stamp; then it is no reference (R192, R196). -/
def State.periodEdge (s : State) (c a b : Nat) : State :=
  let u := s.tiaU c
  if u.prevStamp.isSome then s.periodStep c a b
  else if within u.lastA (ns 16) a then
    let s1 := s.notStamped c
    s1.setTiaU c { s1.tiaU c with pairEnd := some (wrap64 (a + 1)) }
  else (s.setTiaU c { u with prevStamp := some (wrap64 a), lastA := some (wrap64 a) }).periodStep c a b

/-- May an edge pair of TYPE 2 be taken: a is the reference edge, or the first edge of the run, and b comes after every
edge stamped. -/
def State.edgeFits (s : State) (c a b : Nat) : Bool :=
  let u := s.tiaU c
  (match u.prevStamp with
   | some r => r == wrap64 a
   | none => dtReached a (s.get F.TIA_CH_START_DT.DT c) && !within u.lastA 1 a &&
       (match u.pairEnd with | some p => dtReached a p | none => true)) && !within u.lastA 1 b && wrap64 a != wrap64 b

/-- Does the cycle of TYPE 5 end at a start edge that comes after its stop and has come: a + p (R194). -/
def State.cycleFits (s : State) (c a b p : Nat) : Bool :=
  s.get F.TIA_CH_CFG.TYPE c != 5 || (decide (dtDiff a b ≤ (p : Int)) && decide (p < 2 ^ 63) && s.reached (wrap64 (a + p)))

/-- MEAS_SAMPLE (R194, R196, R199): the start stamp, or reference edge, at a and the stop or edge at b; for TYPE 5, p is the
period of the cycle; `remote`: the partner on another device is STALE. -/
def execMeasSample (e : Nat) (ch : Chan) (a b p : Nat) (remote : Bool) (s : State) : Out :=
  let s := s.elapse e
  let c := ch.val
  let ty := s.get F.TIA_CH_CFG.TYPE c
  if !(s.sampling c && dtReached b a && s.reached b) || ty = 3 then .next s
  else if ty = 2 then .next (if s.edgeFits c a b then s.periodEdge c a b else s)
  else if !s.startFits c a || within (s.tiaU c).lastB 1 b || !s.cycleFits c a b p then .next s
  else if s.startDead c a then .next ((s.notStamped c).setTiaU c { s.tiaU c with pairEnd := some (wrap64 (a + 1)) })
  else .next (s.pairStop c a b p remote)

/-- MEAS_WINDOW_EXPIRY (R196): no stop was accepted by the end of the window of the start at a. -/
def execMeasWindowExpiry (e : Nat) (ch : Chan) (a : Nat) (s : State) : Out :=
  let s := s.elapse e
  let c := ch.val
  let ty := s.get F.TIA_CH_CFG.TYPE c
  let wmax := s.get F.TIA_CH_WMAX.TICKS c
  let u := s.tiaU c
  if !s.sampling c || wmax = 0 || ty = 3 then .next s
  else if ty = 2 then
    .next (if u.prevStamp == some (wrap64 a) && s.reached (wrap64 (a + wmax)) then s.setTiaU c { u with prevStamp := none } else s)
  else if s.startFits c a && !s.startDead c a && s.reached (s.windowEnd c a) then
    .next (s.abandon c a (s.windowEnd c a))
  else .next s

/-! ### Frequency (R198) -/

/-- The gate length of a unit in ticks. -/
def State.gateLen (s : State) (c : Nat) : Nat := us (s.get F.TIA_CH_GATE.US c)

/-- A gate closes with its first edge at a, its last at b and n cycles between them (R198). -/
def State.closeGate (s : State) (c a b n : Nat) : State :=
  let u := s.tiaU c
  let len := wrap64 (b + 2 ^ 64 - wrap64 a)
  let s1 := s.setTiaU c { u with gateOpen := wrap64 b, gateFirst := some (wrap64 b) }
  let x := s1.roundDiv (len : Int) n
  (s1.drew.set F.TIA_CH_AUX.VALUE c (s1.get F.TIA_CH_AUX.VALUE c + n)).sample c x len false

/-- The DT by which a gate must find an edge: its opening plus twice its length (R198). -/
def State.gateLimit (s : State) (c : Nat) : Nat := wrap64 ((s.tiaU c).gateOpen + 2 * s.gateLen c)

/-- Do the edges of a gate show that none came by its limit: its first edge came after it; or, where the gate before gave it that, the
only other one did (R198). -/
def State.gateEmpty (s : State) (c a b n : Nat) : Bool :=
  let late (t : Nat) : Bool := dtReached t (s.gateLimit c) && wrap64 t != s.gateLimit c
  if (s.tiaU c).gateFirst.isSome then n == 1 && late b else late a

/-- Can a gate have its first edge at a, its closing edge at b and n cycles: at most 1.6 GHz, edges 625 ps apart or more (R198). -/
def State.gateFits (s : State) (c a b n : Nat) : Bool :=
  let u := s.tiaU c
  (match u.gateFirst with
   | some f => f == wrap64 a
   | none => dtReached a u.gateOpen) &&
  dtReached b (wrap64 (u.gateOpen + s.gateLen c)) && dtReached b a && n != 0 && decide ((5000 * n : Nat) ≤ dtDiff a b)

/-- GATE_CLOSE (R198): the gate closes with its first edge at a, its closing edge at b and n cycles; or, with `edges` false,
it takes no sample because no edge came by its opening plus twice its length. -/
def execGateClose (e : Nat) (ch : Chan) (edges : Bool) (a b n : Nat) (s : State) : Out :=
  let s := s.elapse e
  let c := ch.val
  let lim := s.gateLimit c
  if !(s.sampling c && s.get F.TIA_CH_CFG.TYPE c = 3) then .next s
  else if edges && !s.gateEmpty c a b n then .next (if s.gateFits c a b n && s.reached b then s.closeGate c a b n else s)
  else if s.reached lim then .next ((s.setTiaU c { s.tiaU c with gateOpen := lim, gateFirst := none }).outside c)
  else .next s

/-- MEAS_DONE (R197). -/
def execMeasDone (e : Nat) (ch : Chan) (s : State) : Out :=
  let s := s.elapse e
  let c := ch.val
  if s.get F.TIA_CH_STAT.STATE c == 2 && s.measN c ≤ s.get F.TIA_CH_COUNT.SAMPLES c then .next (s.measDone c false)
  else .next s

/-! ### Configuration -/

/-- May a unit's configuration be written: IDLE or DONE, and its channel unmapped or its site IDLE, DONE or FAULTED. -/
def State.measSettable (s : State) (c : Nat) : Bool := !s.measuring c && s.chanSettable c

/-- A configuration write is accepted or refused with CFG_REJ. -/
def State.measWrite (s : State) (c : Nat) (ok : Bool) (l : List (Fld × Nat)) : State :=
  if s.measSettable c && ok then l.foldl (fun s p => s.set p.1 c p.2) s else s.set F.TIA_CH_STAT.CFG_REJ c 1

/-- A write to TIA_CH_CFG (R194). -/
def State.writeTiaCfg (s : State) (c v : Nat) : State :=
  s.measWrite c (measCfgOk c (bitsOf v 0 3) (bitsOf v 4 2) (bitsOf v 8 2))
    [(F.TIA_CH_CFG.TYPE, bitsOf v 0 3), (F.TIA_CH_CFG.START_THR, bitsOf v 3 1), (F.TIA_CH_CFG.START_SLOPE, bitsOf v 4 2),
     (F.TIA_CH_CFG.STOP_THR, bitsOf v 6 1), (F.TIA_CH_CFG.STOP_SLOPE, bitsOf v 8 2), (F.TIA_CH_CFG.STOP_CH, bitsOf v 16 7)]

/-- A write to TIA_CH_CMD (R195, R197). -/
def State.tiaCmd (s : State) (c v : Nat) : State :=
  match bitsOf v 0 2 with
  | 1 => s.startMeas c s.now true
  | 2 => s.endMeas c
  | _ => s

end Sys2Proof.Machine
end

