-- ==== Sys2Proof/Machine/Trim.lean ====
section
/-! DEFINITION. Self-trim (spec/11_self_trim.md): windows, steps and passes of the trim engines, commits, tile skew,
quality figures and fixture reflection. -/

namespace Sys2Proof.Machine

/-! ### Quality figures (R222) -/

/-- The rise of QF_EDGE with age and temperature (R222). -/
def State.edgeDrift (s : State) (c : Nat) : Nat :=
  let age := s.since (s.get F.MRD_CH_TRIM_DT.DT c)
  let past := age - secs 20
  let dt := toInt 16 (s.get F.DEV_TEMP.TEMP (1 + c / 128)) - toInt 16 (s.trimU c).temp
  (past + 19999999999999) / 20000000000000 + 4 * (dt.natAbs / 16)

/-- QF_EDGE of a channel (R222). -/
def State.qfEdge (s : State) (c : Nat) : Nat :=
  let base := s.get F.MRD_CH_PASS.QF_TRIM c + 8
  if s.flag F.MRD_CH_QF.NEVER c then 65535
  else if s.quality c = 0 then base
  else min 65535 (base + s.edgeDrift c)

/-- The quality registers of a channel take its figures. -/
def State.refreshChan (s : State) (c : Nat) : State :=
  let ms := if s.flag F.MRD_CH_QF.NEVER c then 2 ^ 32 - 1
    else min (2 ^ 32 - 1) (s.since (s.get F.MRD_CH_TRIM_DT.DT c) / 8000000000)
  ((s.set F.MRD_CH_QF.QF_EDGE c (s.qfEdge c)).set F.MRD_CH_QF.STATE c (s.quality c)).set F.MRD_CH_AGE.MS c ms

/-- The channels of a tile. -/
def tileChans (t : Nat) : List Nat := (List.range 128).map (fun k => 128 * t + k)

/-- How many channels of a list read a quality state. -/
def State.countState (s : State) (l : List Nat) (q : Nat) : Nat := (l.filter (fun c => s.get F.MRD_CH_QF.STATE c == q)).length

/-- The counts of a tile follow its channels. -/
def State.refreshTile (s : State) (t : Nat) : State :=
  let l := tileChans t
  ((s.set F.MRD_TILE_STAT.FRESH t (s.countState l 0)).set F.MRD_TILE_STAT.AGING t (s.countState l 1)).set
    F.MRD_TILE_STAT.STALE t (s.countState l 2)

/-- The quality of a site follows its channels on this device. -/
def State.refreshSite (s : State) (x : Nat) : State :=
  let l := (s.siteChans x).filter (fun c => !s.busMode c)
  ((s.set F.MRD_SITE_QF.WORST x (l.foldl (fun a c => max a (s.get F.MRD_CH_QF.QF_EDGE c)) 0)).set F.MRD_SITE_QF.STALE x
    (s.countState l 2)).set F.MRD_SITE_QF.AGING x (s.countState l 1)

/-- Every figure that rests on a channel's quality is formed again. -/
def State.refresh (s : State) (c : Nat) : State :=
  let s1 := (s.refreshChan c).refreshTile (c / 128)
  match s1.chanSite c with
  | some x => s1.refreshSite x
  | none => s1

/-- A channel takes the quality state that its age or its tile's skew gives it; a mapped non-bus channel that becomes
STALE sets STALE_NEW. -/
def State.ageChan (s : State) (c : Nat) : State :=
  let was := s.get F.MRD_CH_QF.STATE c
  let old := decide (secs 60 < s.since (s.get F.MRD_CH_TRIM_DT.DT c)) && !s.flag F.MRD_CH_QF.NEVER c
  let s1 := (if old then s.setTrimU c { s.trimU c with old := true } else s).refresh c
  if was != 2 && s1.get F.MRD_CH_QF.STATE c == 2 && (s1.chanSite c).isSome && !s1.busMode c then
    s1.raiseC F.MRD_FAULT_STAT.STALE_NEW (c / 128)
  else s1

/-- QUALITY_AGE_CHANGE (R219, R222): a channel's age, or that of its tile's skew, passes 20 s or 60 s. -/
def execQualityAgeChange (e : Nat) (ch : Chan) (s : State) : Out :=
  let s := s.elapse e
  let c := ch.val
  let t := c / 128
  let k := Tab.get {} s.skews t
  let aged := decide (secs 60 ≤ s.since (k.lastReturn.getD (s.get F.TLK_CORE_UPDT.DT t)))
  let s1 := if aged then { s with skews := Tab.set {} s.skews t { k with old := true } } else s
  let s2 := if s1.skewState t = 0 then s1 else s1.set F.MRD_TSKEW.VALID t 0
  .next (s2.ageChan c)

/-! ### Windows (R214, R215) -/

/-- Is a channel's trim window open (R214). -/
def State.trimWindow (s : State) (c : Nat) : Bool :=
  if s.dev == 2 || s.dev == 3 then true
  else if s.busMode c then !(match s.busEngine c with | some e => s.busOn e | none => false)
  else match s.chanSite c with
    | none => true
    | some x =>
      let playing := match s.chanSlice c with | some i => s.get F.SLP_STAT.STATE i == 2 || s.get F.SLP_STAT.STATE i == 1 | none => false
      if s.siteState x = 1 then true
      else if s.siteState x = 4 then (s.site x).resume.isNone
      else s.flag F.MDR_SITE_STATE.TRIMOK x && s.reached (s.site x).trimOpen && !playing

/-- Would a step that begins now end after its window's close (R211)? Only a TRIMOK window's close is known ahead. -/
def State.stepFits (s : State) (c : Nat) : Bool :=
  match s.chanSite c with
  | some x =>
    if s.flag F.MDR_SITE_STATE.TRIMOK x && s.get F.MDR_STEP_TRIM.DT x != 0 then
      dtReached (s.get F.MDR_STEP_TRIM.DT x) (wrap64 (s.now + us 1))
    else true
  | none => true

/-- May Mordant take a channel (R214, R215). -/
def State.trimAvail (s : State) (c : Nat) : Bool :=
  s.trimWindow c && s.chanOn c && s.acqState c == 0 && !s.tdcsMeasured c

/-! ### Holding and returning a channel (R216, R217) -/

/-- The engines of a tile that hold a channel are counted. -/
def State.countBusy (s : State) (t : Nat) : State :=
  s.set F.MRD_TILE_STAT.BUSY t ((tileChans t).filter (fun c => s.flag F.MRD_CH_QF.HELD c)).length

/-- Mordant takes a channel (R217). -/
def State.holdChan (s : State) (c : Nat) : State :=
  let s1 := (s.set F.MRD_CH_QF.HELD c 1).set F.SEP_CMP_CH_LIVE.VALID c 0
  (if s1.get F.TIA_CH_STAT.STATE c == 3 then s1.set F.TIA_CH_STAT.STALE c 1 else s1).countBusy (c / 128)

/-- A measurement start that waited for its channel takes effect at its return (R216). -/
def State.startOnReturn (s : State) (c : Nat) : State :=
  if s.get F.TIA_CH_STAT.STATE c == 1 && s.due (s.tiaU c).startAt then s.runMeas c s.now else s

/-- An arm that waited for its channel takes effect at its return (R175). -/
def State.armOnReturn (s : State) (c : Nat) : State :=
  if s.acqState c == 1 && s.due (s.acqU c).armAt then s.armNow c s.now else s

/-- Mordant returns a channel (R216, R217). -/
def State.returnChan (s : State) (c : Nat) : State :=
  if s.flag F.MRD_CH_QF.HELD c then
    let s1 := (s.set F.MRD_CH_QF.HELD c 0).set F.SEP_CMP_CH_LIVE.VALID c (ofBool (s.chanOn c && !s.settling c))
    let s2 := if s1.get F.TIA_CH_STAT.STATE c == 3 then s1.set F.TIA_CH_STAT.STALE c (ofBool (s1.tiaU c).staleRun) else s1
    ((s2.countBusy (c / 128)).armOnReturn c).startOnReturn c
  else s

/-- An engine lets its channel go and takes no step. -/
def State.idleEngine (s : State) (q : Nat) : State :=
  let g := s.engine q
  let s1 := s.setEngine q { g with hold := none, refl := false }
  match g.hold with
  | some c => s1.returnChan c
  | none => s1

/-- CHANNEL_RETURN (R216): the window of a held channel has closed, or an exclusion of R215 applies; the step in progress
is abandoned. -/
def execChannelReturn (e : Nat) (ch : Chan) (s : State) : Out :=
  let s := s.elapse e
  let c := ch.val
  if s.flag F.MRD_CH_QF.HELD c && !s.trimAvail c then .next ((s.idleEngine (c / 4)).returnChan c) else .next s

/-! ### Passes (R211–R213) -/

/-- The index of the next step of a channel's pass: the lowest that is not held. -/
def TrimUnit.next (u : TrimUnit) : Nat :=
  ((List.range 4000).find? (fun k => !u.steps.any (fun p => p.1 == k))).getD 0

/-- The phase of a step (R212). -/
def trimPhase (k : Nat) : Nat := if k < 1500 then 1 else if k < 3000 then 2 else if k < 3500 then 3 else 4

/-- The age by which an engine chooses: never trimmed is oldest, a pass that awaits commit counts (R212). -/
def State.trimAge (s : State) (c : Nat) : Nat :=
  match (s.trimU c).pend with
  | some r => s.since r.done
  | none => if s.flag F.MRD_CH_QF.NEVER c || (s.trimU c).old then 2 ^ 64 else s.since (s.get F.MRD_CH_TRIM_DT.DT c)

/-- The available channel of a quad with the greatest age, at equal age the lowest position (R212). -/
def State.chooseChan (s : State) (q : Nat) : Option Nat :=
  ((List.range 4).map (fun k => 4 * q + k)).foldl (fun o c =>
    if s.trimAvail c && s.stepFits c then
      match o with
      | none => some c
      | some d => if s.trimAge d < s.trimAge c then some c else o
    else o) none

/-- The channel on which an engine takes its next step: its current one while it is available, else the oldest. -/
def State.nextChan (s : State) (q : Nat) : Option Nat :=
  match (s.engine q).cur with
  | some c => if s.trimAvail c && s.stepFits c then some c else s.chooseChan q
  | none => s.chooseChan q

/-- An engine begins its next step, or lets its channel go where none is available. -/
def State.beginStep (s : State) (q : Nat) : State :=
  match s.nextChan q with
  | none => s.idleEngine q
  | some c =>
    let s1 := if (s.engine q).hold == some c then s else (s.idleEngine q).holdChan c
    s1.setEngine q ⟨some c, some c, (s1.trimU c).next, wrap64 (s.now + us 1), false⟩

/-- The progress of a channel's pass shows in MRD_CH_PASS. -/
def State.showPass (s : State) (c : Nat) : State :=
  let u := s.trimU c
  (s.set F.MRD_CH_PASS.STEPS c u.steps.length).set F.MRD_CH_PASS.PHASE c (if u.steps.isEmpty then 0 else trimPhase u.next)

/-- A pass is plausible (R213). -/
def TrimUnit.plausible (u : TrimUnit) (binsOk offsOk : Bool) (delay qf : Nat) : Bool :=
  binsOk && offsOk && decide (qf ≤ 32) &&
    (match u.delay with | some d => decide (delay ≤ d + 40) && decide (d ≤ delay + 40) | none => true)

/-- A pass completes: pending, or refused (R213, R218). -/
def State.closePass (s : State) (c : Nat) (binsOk offsOk : Bool) (delay qf : Nat) : State :=
  let u := s.trimU c
  let s1 := s.setEngine (c / 4) { s.engine (c / 4) with cur := none }
  if u.plausible binsOk offsOk delay qf then
    let r : TrimResult := ⟨s.now, qf, delay, s.get F.DEV_TEMP.TEMP (1 + c / 128), s.now⟩
    (s1.set F.MRD_CH_QF.PENDING c 1).setTrimU c { u with steps := [], pend := some r }
  else
    ((s1.set F.MRD_CH_QF.TRIM_FAIL c 1).raiseC F.MRD_FAULT_STAT.TRIM_FAIL (c / 128)).setTrimU c { u with steps := [] }

/-- The data of a step count, unless its window closed or its group went off during it (R211). -/
def State.stepValid (s : State) (c ended : Nat) : Bool :=
  s.chanOn c && (match s.chanSite c with
    | some x =>
      let w := (s.site x).trimClosed
      s.trimWindow c || !(dtReached w (wrap64 (ended + 2 ^ 64 - us 1)) && dtReached ended w && w != 0)
    | none => true)

/-- A step ends: older steps are discarded and the pass may complete (R212). -/
def State.keepStep (s : State) (c k ended : Nat) (binsOk offsOk : Bool) (delay qf : Nat) : State :=
  let u := s.trimU c
  let kept := u.steps.filter (fun p => decide (wrap64 (ended + 2 ^ 64 - p.2) ≤ secs 5) && p.1 != k)
  let s1 := s.setTrimU c { u with steps := kept ++ [(k, ended)] }
  let s2 := if (kept.length + 1 == 4000) then s1.closePass c binsOk offsOk delay qf else s1
  s2.showPass c

/-- TRIM_STEP_END (R211–R213): a step boundary of an engine. A step that was in progress ends; what the pass found is
used where it completes; the next step begins. -/
def execTrimStepEnd (e : Nat) (q : Fin 256) (binsOk offsOk : Bool) (delay : BitVec 32) (qf : BitVec 16) (s : State) : Out :=
  let s := s.elapse e
  let g := s.engine q.val
  match g.hold with
  | none => .next (s.beginStep q.val)
  | some c =>
    if g.refl || !s.reached g.stepEnd then .next s
    else if s.stepValid c g.stepEnd then
      .next ((s.keepStep c g.idx g.stepEnd binsOk offsOk delay.toNat qf.toNat).beginStep q.val)
    else .next (s.beginStep q.val)

/-! ### Commit (R218) -/

/-- The segment start of a channel's slice that is due or the latest (R218). -/
def State.segStart (s : State) (c : Nat) : Option Nat :=
  match s.chanSlice c with
  | some i =>
    let u := s.slice i
    if u.playing && u.segNew && s.reached u.nextB then some u.nextB else u.segAt
  | none => none

/-- Has the release DT of a result formed at DT d come (R218), by the within-tile lead of R20. -/
def State.commitDue (s : State) (c d : Nat) : Bool :=
  let lead := wrap64 (d + s.img.leadTile)
  match s.chanSite c with
  | none => s.reached lead
  | some x =>
    if s.busMode c then s.reached lead
    else if s.siteState x = 1 then s.reached lead && s.reached (wrap64 ((s.site x).idleSince + s.img.leadTile))
    else match s.segStart c with
      | some b => s.reached b && dtReached b lead
      | none => false

/-- A pass is committed. -/
def State.commitPass (s : State) (c : Nat) (r : TrimResult) : State :=
  let s1 := ((s.set F.MRD_CH_TRIM_DT.DT c r.done).set F.MRD_CH_QF.NEVER c 0).set F.MRD_CH_QF.PENDING c 0
  let s2 := (s1.set F.MRD_CH_PASS.QF_TRIM c r.qf).setTrimU c
    { s.trimU c with pend := none, delay := some r.delay, temp := r.temp, old := false }
  s2.refresh c

/-- A fixture delay is committed (R221). -/
def State.commitFix (s : State) (c : Nat) (f : FixResult) : State :=
  let s1 := (s.set F.MRD_CH_REFL.PEND c 0).setTrimU c { s.trimU c with fix := none }
  if f.valid then (s1.set F.WOD_CH_FIXDELAY.DELAY c f.d).set F.WOD_CH_FIXDELAY.VALID c 1
  else (s1.set F.WOD_CH_FIXDELAY.DELAY c f.d).set F.WOD_CH_FIXDELAY.VALID c 0

/-- The results of a channel whose release DT has come are committed. -/
def State.commitChan (s : State) (c : Nat) : State :=
  let s1 := match (s.trimU c).pend with
    | some r => if s.commitDue c r.from_ then s.commitPass c r else s
    | none => s
  match (s1.trimU c).fix with
  | some f => if s1.commitDue c f.from_ then s1.commitFix c f else s1
  | none => s1

/-- TRIM_COMMIT (R218, R221). -/
def execTrimCommit (e : Nat) (ch : Chan) (s : State) : Out := .next ((s.elapse e).commitChan ch.val)

/-- TRIM_COMMIT_MISSED (R20): the result stays pending for the channel's next commit point. -/
def execTrimCommitMissed (e : Nat) (ch : Chan) (s : State) : Out :=
  let s := s.elapse e
  let c := ch.val
  let u := s.trimU c
  let latePass := match u.pend with | some r => s.commitDue c r.from_ | none => false
  let lateFix := match u.fix with | some f => s.commitDue c f.from_ | none => false
  let u1 := if latePass then { u with pend := u.pend.map (fun r => { r with from_ := s.now }) } else u
  let u2 := if lateFix then { u1 with fix := u1.fix.map (fun f => { f with from_ := s.now }) } else u1
  if latePass || lateFix then .next ((s.setTrimU c u2).raiseC F.MRD_FAULT_STAT.MISSED_RELEASE (c / 128)) else .next s

/-! ### Tile skew (R219) -/

/-- Is a tile's link up. -/
def State.tileUp (s : State) (t : Nat) : Bool := s.get F.TLK_CORE_STAT.STATE t == 2

/-- SYNC_PULSE (R219): the pulse goes out on every tile link, a millisecond after the one before. -/
def execSyncPulse (e : Nat) (s : State) : Out :=
  let s := s.elapse e
  .next (s.each (List.range 8) (fun s t =>
    let k := Tab.get {} s.skews t
    let duePulse := match k.sent with | some d => s.reached (wrap64 (d + us 1000)) | none => true
    if s.tileUp t && duePulse then
      { s with skews := Tab.set {} s.skews t { k with sent := some s.now, waiting := true } }.emit (.tskewPulse t)
    else s))

/-- SYNC_PULSE_RETURN (R219): a pulse has returned; `off` is the tile's offset as measured. -/
def execSyncPulseReturn (e : Nat) (t : Tile) (off : Word32) (s : State) : Out :=
  let s := s.elapse e
  let k := Tab.get {} s.skews t.val
  if k.waiting then
    let s1 := { s with skews := Tab.set {} s.skews t.val { k with waiting := false, lastReturn := some s.now, old := false } }
    let s2 := (s1.set F.MRD_TSKEW.OFFSET t.val off.toNat).set F.MRD_TSKEW.VALID t.val 1
    let s3 := s2.drew.set F.MRD_TSKEW.RESID t.val (s2.fresh % 17)
    let s4 := s3.each ((tileChans t.val).filter (fun c => s3.get F.MRD_CH_QF.STATE c != s3.quality c)) (fun s c => s.refreshChan c)
    .next (s4.refreshTile t.val)
  else .next s

/-- TSKEW_LOST (R219): no pulse has returned for 10 ms. -/
def execTskewLost (e : Nat) (t : Tile) (s : State) : Out :=
  let s := s.elapse e
  let k := Tab.get {} s.skews t.val
  if s.reached (wrap64 (k.lastReturn.getD (s.get F.TLK_CORE_UPDT.DT t.val) + us 10000)) then
    .next (s.raiseC F.MRD_FAULT_STAT.TSKEW_LOST t.val)
  else .next s

/-! ### Fixture reflection (R220, R221) -/

/-- The channels of a site that a reflection measures (R220). -/
def State.reflChans (s : State) (x : Nat) : List Nat :=
  (s.siteChans x).filter (fun c => s.flag F.WOD_CH_PIN.FIXTRIM c && !s.busMode c)

/-- An engine takes the next channel of its quad that a reflection has not measured, or goes back to its pass. -/
def State.nextRefl (s : State) (x q : Nat) : State :=
  let l := (s.reflChans x).filter (fun c => c / 4 == q && !(s.trimU c).reflDone && s.trimAvail c)
  match l.head? with
  | some c =>
    let s1 := (s.idleEngine q).holdChan c
    s1.setEngine q { s1.engine q with hold := some c, refl := true, stepEnd := wrap64 (s.now + us 1) }
  | none => s.idleEngine q

/-- Is a request for a reflection of a site refused (R220); a proxy takes one only from its home's token. -/
def State.reflRefused (s : State) (x : Nat) (token : Bool) : Bool :=
  !(s.siteState x == 1 || (s.flag F.MDR_SITE_STATE.TRIMOK x && s.reached (s.site x).trimOpen)) ||
    s.get F.MRD_REFL_STAT.STATE x == 2 || s.isSafe || (s.proxy x && !token)

/-- A reflection of a site begins on this device (R220). -/
def State.beginRefl (s : State) (x : Nat) : State :=
  let l := s.reflChans x
  let s1 := ((s.set F.MRD_REFL_STAT.STATE x 2).set F.MRD_REFL_STAT.PARTIAL x 0).set F.MRD_REFL_STAT.CHANNELS x 0
  let s2 := s1.each l (fun s c => s.setTrimU c { s.trimU c with reflSteps := [], reflDone := false })
  s2.each (l.map (fun c => c / 4)).dedup (fun s q => s.nextRefl x q)

/-- A reflection is requested (R220). -/
def State.requestRefl (s : State) (x : Nat) : State :=
  if s.reflRefused x false then s.set F.MRD_REFL_STAT.REJ x 1
  else (s.beginRefl x).sendToken x 13 (wrap64 (s.now + s.img.leadHop)) [2 + s.get F.MDR_SITE_STATE.TRIMOK x]

/-- REFLECTION_REQUEST (R220). -/
def execReflectionRequest (e : Nat) (x : Site) (s : State) : Out := .next ((s.elapse e).requestRefl x.val)

/-- The steps of a reflection on each channel. -/
def State.reflReps (s : State) (x : Nat) : Nat := max 1 (s.get F.MRD_REFL_CFG.REPS x)

/-- A channel of a reflection has taken a step: the next step, or the next channel of its quad. -/
def State.afterRefl (s : State) (x c : Nat) : State :=
  let q := c / 4
  let u := s.trimU c
  if u.reflSteps.length < s.reflReps x then s.setEngine q { s.engine q with stepEnd := wrap64 (s.now + us 1) }
  else
    let s1 := (s.setTrimU c { u with reflDone := true }).set F.MRD_REFL_STAT.CHANNELS x (s.get F.MRD_REFL_STAT.CHANNELS x + 1)
    s1.nextRefl x q

/-- REFLECTION_STEP (R220): a step ends with its incident stamp and, if one was taken, its return stamp; an engine that is
free takes the channel up. -/
def execReflectionStep (e : Nat) (ch : Chan) (inc ret : Nat) (stamped : Bool) (s : State) : Out :=
  let s := s.elapse e
  let c := ch.val
  let g := s.engine (c / 4)
  match s.chanSite c with
  | some x =>
    if s.get F.MRD_REFL_STAT.STATE x != 2 then .next s
    else if g.refl && g.hold == some c then
      if s.reached g.stepEnd then
        let d := wrap64 (ret + 2 ^ 64 - wrap64 inc)
        let u := s.trimU c
        .next ((s.setTrimU c { u with reflSteps := u.reflSteps ++ [(d, stamped && decide (d ≤ 256000))] }).afterRefl x c)
      else .next s
    else if !g.refl && (s.reflChans x).contains c then .next (s.nextRefl x (c / 4))
    else .next s
  | none => .next s

/-- REFLECTION_END (R221): every channel of the reflection is measured, or its window has closed; a DUT start that waited for
it is taken up (R282). -/
def execReflectionEnd (e : Nat) (x : Site) (s : State) : Out :=
  let s := s.elapse e
  let x := x.val
  if (s.reflChans x).all (fun c => (s.trimU c).reflDone) then .next ((s.endReflection x false).dutKick x)
  else if s.siteState x != 1 && !s.flag F.MDR_SITE_STATE.TRIMOK x then .next ((s.endReflection x true).dutKick x)
  else .next s

/-- A write to MRD_REFL_CFG: only while no reflection of the site is in progress, with threshold codes up to 60,000. -/
def State.writeReflCfg (s : State) (x v : Nat) : State :=
  if s.get F.MRD_REFL_STAT.STATE x != 2 && decide (bitsOf v 0 16 ≤ 60000) && decide (bitsOf v 16 16 ≤ 60000) then
    ((s.set F.MRD_REFL_CFG.VTH_INC x (bitsOf v 0 16)).set F.MRD_REFL_CFG.VTH_RET x (bitsOf v 16 16) |>.set
      F.MRD_REFL_CFG.REPS x (bitsOf v 32 8)).set F.MRD_REFL_CFG.JUMP x (bitsOf v 40 16)
  else s

end Sys2Proof.Machine
end

