-- ==== Sys2Proof/Machine/Bus.lean ====
section
/-! DEFINITION. Vehicle bus engines (spec/13_vehicle_bus.md): transmit queues and their descriptors, frames on the medium,
receive and stranger rings, error states, LIN, MDIO and the PHY reset. -/

namespace Sys2Proof.Machine

/-! ### An engine's configuration (R57, R249, R253–R257) -/

/-- The protocol of an engine. -/
def State.proto (s : State) (en : Nat) : Nat := s.get F.BUS_CFG.PROTOCOL en

/-- Byte n of an engine's PARAM. -/
def State.busParam (s : State) (en n k : Nat) : Nat := leAt s.img.buseng (32 * en + 16 + n) k

/-- A bit of MODE of a CAN engine (R254). -/
def State.canMode (s : State) (en k : Nat) : Bool := s.proto en == 1 && bitAt (s.busParam en 4 1) k

/-- Listen-only or restricted operation: no frame starts and every posting is flushed (R260). -/
def State.busSilent (s : State) (en : Nat) : Bool := s.canMode en 2 || s.canMode en 3

/-- The occurrence `src` of BUS_EV_CFG happens at an engine (R269). -/
def State.busEvent (s : State) (en src : Nat) : State := if s.get F.BUS_EV_CFG.SRC en = src then s.fire (1280 + en) else s

/-- A statistic of an engine counts. -/
def State.busCount (s : State) (en n : Nat) : State := s.count F.BUS_CNT.COUNT (some F.BUS_CNT.OVF) (8 * en + n) 27 1

/-- An engine with no frame on the medium is idle, or off where RUN is 0 (R249). -/
def State.busIdle (s : State) (en : Nat) : State := s.set F.BUS_STAT.STATE en (if s.flag F.BUS_CTRL.RUN en then 1 else 0)

/-- The queue of an engine is replaced. -/
def State.setTxq (s : State) (en : Nat) (q : List TxDesc) : State :=
  (s.setBus en { s.bus en with queue := q }).set F.BUS_STAT.TXQ en q.length

/-- A descriptor completes with a status; its write-back follows (R262). -/
def State.finishTx (s : State) (en : Nat) (d : TxDesc) (st sof eof : Nat) : State :=
  s.setBus en { s.bus en with finished := (s.bus en).finished ++ [(d, st, sof, eof)] }

/-- The head of an engine's queue completes with a status. -/
def State.finishHead (s : State) (en st sof eof : Nat) : State :=
  match (s.bus en).queue with
  | d :: r => ((s.setTxq en r).finishTx en d st sof eof).busIdle en
  | [] => s

/-! ### Descriptors (R259) -/

/-- A field of a posted descriptor. -/
def TxDesc.fld (d : TxDesc) (o n : Nat) : Nat := leAt d.raw o n

/-- LAUNCH of a descriptor. -/
def TxDesc.launch (d : TxDesc) : Nat := d.fld 0 8

/-- HDR, LEN, KIND and FLAGS of a descriptor. -/
def TxDesc.hdr (d : TxDesc) : Nat := d.fld 0x10 4
/-- LEN of a descriptor. -/
def TxDesc.len (d : TxDesc) : Nat := d.fld 0x14 2
/-- KIND of a descriptor. -/
def TxDesc.kind (d : TxDesc) : Nat := d.fld 0x16 1
/-- FLAGS of a descriptor. -/
def TxDesc.flags (d : TxDesc) : Nat := d.fld 0x17 1

/-- The payload lengths of CAN FD. -/
def fdLen (n : Nat) : Bool := n ≤ 8 || [12, 16, 20, 24, 32, 48, 64].contains n

/-- The rules of R259 that every descriptor keeps: reserved bits 0, a payload in place of at most 8 bytes. -/
def TxDesc.formOk (d : TxDesc) : Bool :=
  d.flags < 8 && d.fld 0x19 1 == 0 && d.fld 0x1E 1 == 0 && d.fld 0x1F 1 == 0 &&
    (if bitAt d.flags 0 then decide (d.len ≤ 8) else decide (d.fld 8 8 < 2 ^ 41))

/-- A CAN descriptor's header, kind and length (R253, R259). -/
def State.canDescOk (s : State) (en : Nat) (d : TxDesc) : Bool :=
  let h := d.hdr
  let idOk := bitAt h 29 || decide (bitsOf h 0 29 < 2048)
  match d.kind with
  | 0 => !bitAt h 31 && idOk && decide (d.len ≤ 8)
  | 1 => !bitAt h 31 && idOk && s.canMode en 0 && fdLen d.len
  | 2 => !bitAt h 31 && idOk && s.canMode en 0 && fdLen d.len
  | 3 => bitsOf h 28 2 == 0 && !bitAt h 31 && s.canMode en 1 && decide (1 ≤ d.len) && decide (d.len ≤ 2048) && !bitAt d.flags 0
  | _ => false

/-- A SENT descriptor's header, kind and length (R256, R259). -/
def State.sentDescOk (s : State) (en : Nat) (d : TxDesc) : Bool :=
  let n := s.busParam en 4 1
  let slow := bitsOf (s.busParam en 5 1) 2 2
  match d.kind with
  | 0 => decide (d.hdr < 4096) && bitsOf d.hdr 4 3 == n && bitsOf d.hdr 7 4 == 0 && d.len == (n + 1) / 2
  | 1 => slow == 1 && decide (d.hdr < 256) && d.len == 1
  | 2 => slow == 2 && decide (d.hdr < 256) && d.len == 2
  | 3 => slow == 2 && decide (d.hdr < 256) && d.len == 2
  | _ => false

/-- Does a descriptor keep every rule of R259 for its engine's protocol. -/
def State.txDescOk (s : State) (en : Nat) (d : TxDesc) : Bool :=
  d.formOk && (match s.proto en with
    | 1 => s.canDescOk en d
    | 2 => decide (d.hdr < 512) && decide (d.kind ≤ 2) && decide (d.len ≤ 8) && (d.kind != 0 || d.len != 0)
    | 3 => d.kind == 2 && d.len == 0
    | 5 => s.sentDescOk en d
    | 6 => d.kind == 0 && decide (d.hdr < 65536) && decide (14 ≤ d.len) && decide (d.len ≤ 1514)
    | _ => false)

/-- The payload bytes that a descriptor asks for: LEN, and the AF of an XL frame before them. -/
def State.payloadLen (s : State) (en : Nat) (d : TxDesc) : Nat := d.len + (if s.proto en = 1 && d.kind = 3 then 4 else 0)

/-- Can a span of memory be read: usable DRAM, or Lake banks that are ON. -/
def State.readable (s : State) (lake : Bool) (a n : Nat) : Bool :=
  if lake then decide (a + n ≤ 33554432) && s.banksOn a n else (s.region 0 a n).isSome

/-- May a descriptor at an address be posted: 32-byte aligned and readable. -/
def State.descAddrOk (s : State) (a : Nat) (lake : Bool) : Bool := a % 32 == 0 && s.readable lake a 32

/-- A descriptor as read from memory is copied into an engine's queue (R258, R259, R268); it is written back INVALID where it breaks
a rule, FLUSHED in safe state and where no frame may start. -/
def State.postRaw (s : State) (en a : Nat) (lake : Bool) (raw : List Byte) : State :=
  let d0 : TxDesc := { addr := a, lake := lake, raw := raw, posted := s.now }
  let d := if bitAt d0.flags 0 then { d0 with payload := some ((raw.drop 8).take d0.len) }
    else if s.payloadLen en d0 = 0 then { d0 with payload := some [] } else d0
  if s.eccBad lake a 32 then (s.eccRaise lake .uncorrectable).finishTx en d 7 0 0
  else if !s.txDescOk en d then s.finishTx en d 7 0 0
  else if s.isSafe || s.busSilent en then s.finishTx en d 6 0 0
  else s.setTxq en ((s.bus en).queue ++ [d])

/-- Is an engine's queue full (R258). -/
def State.txFull (s : State) (en : Nat) : Bool := 64 ≤ (s.bus en).queue.length

/-- BUS_TX_POST is written with an address, and bit 40 for Lake (R258). -/
def State.hostPost (s : State) (en v : Nat) : State :=
  let a := bitsOf v 0 40
  let lake := bitAt v 40
  if !s.busOn en || !s.descAddrOk a lake then s.set F.BUS_TX_RES.RESULT en 3
  else if s.txFull en then s.set F.BUS_TX_RES.RESULT en 2
  else (s.postRaw en a lake (s.bytesAt lake a 32)).set F.BUS_TX_RES.RESULT en 1

/-- BUS_TX_POST (R258). -/
def execBusTxPost (e : Nat) (en : Engine) (v : Word64) (s : State) : Out := .next ((s.elapse e).hostPost en.val v.toNat)

/-- PAYLOAD_READ (R258, R262): the payload of queue entry k is read; where it cannot be, the descriptor is INVALID. -/
def execPayloadRead (e : Nat) (en : Engine) (k : Fin 2) (ecc : Ecc) (s : State) : Out :=
  let s := s.elapse e
  let q := (s.bus en.val).queue
  match q[k.val]? with
  | some d =>
    if d.payload.isSome then .next s
    else
      let a := bitsOf (d.fld 8 8) 0 40
      let lake := bitAt (d.fld 8 8) 40
      let n := s.payloadLen en.val d
      let ecc := s.eccAt lake a n ecc
      let s := s.eccRaise lake ecc
      if ecc != .uncorrectable && s.readable lake a n then
        .next (s.setTxq en.val (q.set k.val { d with payload := some (s.bytesAt lake a n) }))
      else
        .next (((s.setTxq en.val (q.eraseIdx k.val)).finishTx en.val d 7 0 0).raiseC F.BUS_FAULT_STAT.PAYLOAD en.val)
  | none => .next s

/-! ### Frames on the medium (R260–R262) -/

/-- The launch time of a descriptor at the head: after its gate where it is gated (R261); none while the gate is shut. -/
def TxDesc.launchAt (d : TxDesc) : Option Nat :=
  if bitAt d.flags 1 then
    match d.gate with
    | some g => some (if d.launch = 0 then wrap64 (g + ns 40) else dtMax d.launch (wrap64 (g + ns 40)))
    | none => none
  else some (if d.launch = 0 then d.posted else d.launch)

/-- May the frame at the head of a queue start (R260). -/
def State.mayStart (s : State) (en : Nat) (d : TxDesc) : Bool :=
  s.busOn en && !s.isSafe && d.started.isNone && d.payload.isSome && s.due d.launchAt && !s.busSilent en &&
    !(2 ≤ s.get F.BUS_STAT.ERRSTATE en) && s.proto en != 4

/-- Did a frame start later than its launch time, which is 0 for a start at once (R262). -/
def State.startsLate (s : State) (d : TxDesc) : Bool :=
  match d.launchAt with
  | some t => !(d.launch == 0 && !bitAt d.flags 1) && wrap64 t != s.now
  | none => false

/-- Is a descriptor a slow message of a SENT transmitter (R256, R259). -/
def State.isSlow (s : State) (en : Nat) (d : TxDesc) : Bool := s.proto en == 5 && d.kind != 0

/-- Does a CAN engine send ESI: in error passive state (R267). -/
def State.esi (s : State) (en : Nat) : Bool := s.proto en == 1 && s.get F.BUS_STAT.ERRSTATE en == 1

/-- The header with which a frame goes out. A fast frame of SENT carries the slow message in status bits 3 and 2; which bits of the
message, SAE J2716 says and the spec does not: a free value (R256). -/
def State.sentHdr (s : State) (en : Nat) (d : TxDesc) : Nat :=
  if s.proto en = 5 && !(s.bus en).slow.isEmpty then d.hdr - bitsOf d.hdr 2 2 * 4 + s.fresh % 4 * 4 else d.hdr

/-- A slow message whose turn has come leaves the queue; it rides in the fast frames that follow (R256). That the queue goes on behind it
is a reading (DESIGN CHOICE, notes/assumptions/100.md). -/
def State.takeSlow (s : State) (en : Nat) (d : TxDesc) (r : List TxDesc) : State :=
  let s1 := s.setTxq en r
  s1.setBus en { s1.bus en with slow := (s1.bus en).slow ++ [({ d with late := d.late || s.startsLate d }, 0, 0)] }

/-- The fast frames that a slow message takes: 16 for a short one, 18 for an enhanced one (R256). -/
def slowFrames (d : TxDesc) : Nat := if d.kind = 1 then 16 else 18

/-- A fast frame that carried the slow message in turn has been sent; after the last one the message is complete (R256). -/
def State.slowSent (s : State) (en sof eof : Nat) : State :=
  match (s.bus en).slow with
  | (d, n, first) :: r =>
    let first := if n = 0 then sof else first
    if slowFrames d ≤ n + 1 then
      ((s.setBus en { s.bus en with slow := r }).finishTx en d (if d.late then 2 else 1) first eof)
    else s.setBus en { s.bus en with slow := (d, n + 1, first) :: r }
  | [] => s

/-- FRAME_START (R260): the medium lets the head frame start. -/
def execFrameStart (e : Nat) (en : Engine) (s : State) : Out :=
  let s := s.elapse e
  let n := en.val
  match (s.bus n).queue with
  | d :: r =>
    if s.mayStart n d && s.isSlow n d then .next (s.takeSlow n d r)
    else if s.mayStart n d then
      let d1 := { d with started := some s.now, late := d.late || d.retries != 0 || d.arbLost != 0 || s.startsLate d }
      let s1 := (s.setTxq n (d1 :: r)).set F.BUS_STAT.STATE n 2
      let s2 := if (s.proto n = 2 || s.proto n = 3) && d.kind = 2 then s1.emit (.linWake n)
        else s1.drew.emit (.busFrame n (s1.sentHdr n d) (s1.esi n) (d.payload.getD []))
      .next (s2.busEvent n 3)
    else .next s
  | [] => .next s

/-- ARBITRATION_LOST (R260): a CAN frame goes on waiting, and the engine receives the frame that won. -/
def execArbitrationLost (e : Nat) (en : Engine) (s : State) : Out :=
  let s := s.elapse e
  let n := en.val
  match (s.bus n).queue with
  | d :: r =>
    if s.proto n = 1 && d.started.isSome then
      let s1 := (s.setTxq n ({ d with started := none, arbLost := satAdd 8 d.arbLost 1 } :: r)).set F.BUS_STAT.STATE n 3
      .next (s1.busCount n 4)
    else .next s
  | [] => .next s

/-- The DT after which a frame that has not started is withdrawn (R260). -/
def TxDesc.expiry (d : TxDesc) : Option Nat :=
  if d.fld 0x1A 2 = 0 then none else some (wrap64 ((if d.launch = 0 then d.posted else d.launch) + us (d.fld 0x1A 2)))

/-- The oldest slow message that no fast frame has carried yet and whose time has passed is withdrawn (R256, R260). -/
def State.slowExpired (s : State) (en : Nat) : State :=
  let l := (s.bus en).slow
  let k := l.findIdx (fun m => m.2.1 == 0 && s.due m.1.expiry)
  match l[k]? with
  | some (d, _, _) => ((s.setBus en { s.bus en with slow := l.eraseIdx k }).finishTx en d 3 0 0).busCount en 7
  | none => s

/-- FRAME_EXPIRED (R260). -/
def execFrameExpired (e : Nat) (en : Engine) (s : State) : Out :=
  let s := s.elapse e
  let n := en.val
  match (s.bus n).queue with
  | d :: _ => .next (if d.started.isNone && s.due d.expiry then (s.finishHead n 3 0 0).busCount n 7 else s.slowExpired n)
  | [] => .next (s.slowExpired n)

/-- The write-back of a completed descriptor (R262). -/
def TxDesc.writeBack (d : TxDesc) (st sof eof : Nat) : List Byte :=
  toBytes 8 sof ++ toBytes 8 eof ++ (d.raw.drop 0x10).take 8 ++ toBytes 1 (min 255 d.arbLost) ++ toBytes 1 (min 255 d.retries) ++
    toBytes 2 (min 65535 d.errors) ++ (d.raw.drop 0x1C).take 2 ++ toBytes 1 0 ++ toBytes 1 st

/-- The oldest completed descriptor is written back, and its event fires (R262, R269). -/
def State.writeBackFirst (s : State) (en : Nat) : State :=
  match (s.bus en).finished with
  | (d, st, sof, eof) :: r =>
    let s1 := s.setBus en { s.bus en with finished := r }
    let s2 := if s1.readable d.lake d.addr 32 then s1.putBytes d.lake d.addr (d.writeBack st sof eof) else s1
    if bitAt d.flags 2 then s2.busEvent en 4 else s2
  | [] => s

/-- An error state of a CAN engine is entered (R267). -/
def State.canState (s : State) (en st : Nat) : State :=
  if s.get F.BUS_STAT.ERRSTATE en = st then s
  else ((s.set F.BUS_STAT.ERRSTATE en st).set F.BUS_STAT.ERR_CHG en 1).busEvent en 5

/-- The counters of a CAN engine take new values, and its error state follows (R267). -/
def State.canCounters (s : State) (en tec rec : Nat) : State :=
  let s1 := ((s.set F.BUS_CAN_ERR.TEC en (min tec 511)).set F.BUS_CAN_ERR.REC en (min rec 127)).set F.BUS_CAN_ERR.PASSIVE en
    (ofBool (decide (128 ≤ rec)))
  if 2 ≤ s.get F.BUS_STAT.ERRSTATE en then s1
  else if 256 ≤ tec then
    let s2 := (s1.canState en 2).raiseC F.BUS_FAULT_STAT.BUS_OFF en |>.busCount en 5
    let s3 := if s2.canMode en 6 then s2.set F.BUS_STAT.ERRSTATE en 3 else s2
    match (s3.bus en).queue with
    | d :: _ => if d.started.isSome then s3.finishHead en 5 0 0 else s3
    | [] => s3
  else s1.canState en (if 128 ≤ tec || 128 ≤ rec then 1 else 0)

/-- The receive error counter as ISO 11898-1 holds it; at or above 128 the register tells no more than that. -/
def State.canRec (s : State) (en : Nat) : Nat :=
  if s.flag F.BUS_CAN_ERR.PASSIVE en then 128 else s.get F.BUS_CAN_ERR.REC en

/-- A CAN frame was sent or received without error (R267). Above 127 the receive counter falls to a value from 119 to 127
that ISO 11898-1 leaves open. -/
def State.canGood (s : State) (en : Nat) (sent : Bool) : State :=
  if s.proto en != 1 then s
  else if sent then s.canCounters en (s.get F.BUS_CAN_ERR.TEC en - 1) (s.canRec en)
  else if 128 ≤ s.canRec en then s.drew.canCounters en (s.get F.BUS_CAN_ERR.TEC en) (119 + s.fresh % 9)
  else s.canCounters en (s.get F.BUS_CAN_ERR.TEC en) (s.canRec en - 1)

/-- The frame on the medium has been sent to its end (R262). -/
def State.frameSent (s : State) (en sof eof : Nat) (d : TxDesc) : State :=
  let st := if d.late then 2 else 1
  let start := if s.proto en = 6 then wrap64 (d.started.getD 0 + ns (s.busParam en 6 2)) else wrap64 sof
  let s1 := ((s.finishHead en st start (wrap64 eof)).busCount en 1).canGood en true
  if s.proto en = 5 then s1.slowSent en start (wrap64 eof) else s1

/-- TX_WRITE_BACK (R262): the frame on the medium ends with its stamps sof and eof where no other descriptor waits; the
oldest completed descriptor is written back. -/
def execTxWriteBack (e : Nat) (en : Engine) (sof eof : Nat) (s : State) : Out :=
  let s := s.elapse e
  let n := en.val
  match (s.bus n).finished, (s.bus n).queue with
  | _ :: _, _ => .next (s.writeBackFirst n)
  | [], d :: _ => .next (if d.started.isSome && s.reached eof then (s.frameSent n sof eof d).writeBackFirst n else s)
  | [], [] => .next s

/-- GATE_FIRING (R261). -/
def execGateFiring (e : Nat) (en : Engine) (s : State) : Out :=
  let s := s.elapse e
  let n := en.val
  if !s.flag F.BUS_GATE.EN n || !s.consumes then .next s
  else match (s.bus n).queue with
    | d :: r =>
      if bitAt d.flags 1 && d.gate.isNone then .next (s.setTxq n ({ d with gate := some s.now } :: r))
      else .next (s.set F.BUS_STAT.GATE_OVR n 1)
    | [] => .next (s.set F.BUS_STAT.GATE_OVR n 1)

/-! ### Control (R249, R252, R262, R267) -/

/-- BUS_CTRL.RUN is written (R249). -/
def State.busRun (s : State) (en : Nat) (run : Bool) : State :=
  let s1 := s.set F.BUS_CTRL.RUN en (ofBool run)
  if s.proto en = 0 then s1
  else if 2 ≤ s.get F.BUS_STAT.STATE en then s1
  else s1.busIdle en

/-- BUS_RUN_WRITE (R249). -/
def execBusRunWrite (e : Nat) (en : Engine) (run : Bool) (s : State) : Out := .next ((s.elapse e).busRun en.val run)

/-- BUS_FLUSH (R262). -/
def execBusFlush (e : Nat) (en : Engine) (s : State) : Out := .next ((s.elapse e).flushBus en.val)

/-- BUS_CTRL.RECOVER (R267). -/
def State.busRecover (s : State) (en : Nat) : State :=
  if s.proto en = 1 && s.get F.BUS_STAT.ERRSTATE en = 2 then s.canState en 3 else s

/-- BUS_RECOVER (R267). -/
def execBusRecover (e : Nat) (en : Engine) (s : State) : Out := .next ((s.elapse e).busRecover en.val)

/-- BUS_OFF_RECOVERY (R267): 128 occurrences of 11 recessive bits have come. -/
def execBusOffRecovery (e : Nat) (en : Engine) (s : State) : Out :=
  let s := s.elapse e
  let n := en.val
  if s.proto n = 1 && s.get F.BUS_STAT.ERRSTATE n = 3 then
    .next (((s.canState n 0).set F.BUS_CAN_ERR.TEC n 0).set F.BUS_CAN_ERR.REC n 0 |>.set F.BUS_CAN_ERR.PASSIVE n 0)
  else .next s

/-- PHY_RESET_WRITE (R252). -/
def execPhyResetWrite (e : Nat) (en : Engine) (held : Bool) (s : State) : Out :=
  .next ((s.elapse e).set F.BUS_CTRL.PHY_RESET en.val (ofBool held))

/-- PHY_RESET_RELEASE (R252): 10 µs after commit. -/
def execPhyResetRelease (e : Nat) (en : Engine) (s : State) : Out :=
  let s := s.elapse e
  let u := s.bus en.val
  .next (if u.phyHeld && s.reached (wrap64 (u.commitDT + us 10)) then s.setBus en.val { u with phyHeld := false } else s)

/-- A write to BUS_CTRL. -/
def State.writeBusCtrl (s : State) (en v : Nat) : State :=
  let s1 := (s.busRun en (bitAt v 0)).set F.BUS_CTRL.PHY_RESET en (bitsOf v 3 1)
  let s2 := if bitAt v 1 then s1.flushBus en else s1
  if bitAt v 2 then s2.busRecover en else s2

/-! ### Receiving (R264–R266) -/

/-- The filter key of a frame (R264). -/
def busKey (p : Nat) (f : BusRx) : Nat :=
  match p with
  | 1 =>
    if f.kind = 3 then bitsOf f.hdr 0 11 + bitsOf f.hdr 30 1 * 2 ^ 30 + 2 * 2 ^ 31 + bitsOf f.hdr 19 8 * 2 ^ 33 + bitsOf f.hdr 11 8 * 2 ^ 41
    else bitsOf f.hdr 0 31 + (if f.kind = 0 then 0 else 2 ^ 31)
  | 2 => bitsOf f.hdr 0 6
  | 3 => bitsOf f.hdr 0 6
  | 6 => leAt f.payload 0 6
  | _ => 0

/-- Does filter entry n of an engine match a key (R264). -/
def State.filtMatch (s : State) (en n key : Nat) : Bool :=
  let k := 32 * en + n
  s.flag F.BUS_FILT_VAL.EN k && (key ^^^ s.get F.BUS_FILT_VAL.KEY k) &&& s.get F.BUS_FILT_MSK.KEY k == 0

/-- The first filter entry that matches a key (R264). -/
def State.filtFirst (s : State) (en key : Nat) : Option Nat := (List.range 32).find? (fun n => s.filtMatch en n key)

/-- What becomes of a received frame: 0 accepted, 1 discarded, 2 a stranger; with the matching entry or 0xFF (R264). -/
def State.busSort (s : State) (en : Nat) (f : BusRx) : Nat × Nat :=
  let key := busKey (s.proto en) f
  let filt : Nat × Nat := match s.filtFirst en key with
    | some n => (if s.flag F.BUS_FILT_VAL.REJECT (32 * en + n) then 1 else 0, n)
    | none => (2, 0xFF)
  match s.proto en with
  | 1 => if bitAt f.info 1 && !s.canMode en 7 then (1, 0xFF) else filt
  | 3 =>
    let id := bitsOf f.hdr 0 6
    let act := match (s.bus en).linHdr with
      | some (i, a) => if i = id then a else s.get F.BUS_LIN_RESP.ACTION (64 * en + id)
      | none => s.get F.BUS_LIN_RESP.ACTION (64 * en + id)
    if act = 1 then (0, 0xFF) else (2, 0xFF)
  | 4 => (0, 0xFF)
  | 5 => (0, 0xFF)
  | 6 =>
    let own := leAt f.payload 0 6 == s.busParam en 0xA 6
    let bcast := leAt f.payload 0 6 == 2 ^ 48 - 1 && bitAt (s.busParam en 5 1) 0
    if own || bcast then (0, 0xFF) else filt
  | _ => filt

/-- SOF_DT of a received frame: the stamp, on T1S less the receive latency of the PHY (R263). -/
def State.sofOf (s : State) (en : Nat) (f : BusRx) : Nat :=
  if s.proto en = 6 && f.kind != 15 then wrap64 (f.sof + 2 ^ 64 - ns (s.busParam en 8 2)) else f.sof

/-- A receive record (R265). -/
def State.busRecord (s : State) (en : Nat) (f : BusRx) (filt : Nat) (stranger cut : Bool) (payload : List Byte) : List Byte :=
  let len := alignUp (32 + payload.length) 32
  let xl := if s.proto en = 1 && f.kind = 3 then 4 else 0
  let flags := ofBool f.tdc + 4 * ofBool stranger + 8 * ofBool cut
  toBytes 8 (s.sofOf en f) ++ toBytes 4 f.hdr ++ toBytes 2 (f.payload.length - xl) ++ toBytes 1 (s.homeSite (s.get F.BUS_CFG.SITE en)) ++
    toBytes 1 flags ++ toBytes 1 3 ++ toBytes 1 en ++ toBytes 1 f.kind ++ toBytes 1 filt ++ toBytes 2 (len / 32) ++
    toBytes 2 f.info ++ toBytes 8 f.eof ++ payload ++ List.replicate (len - 32 - payload.length) 0

/-- The registers of one of an engine's two rings. -/
structure BusRing where
  base : Fld
  mem : Fld
  log2 : Fld
  en : Fld
  wr : Fld
  rd : Fld
  lost : Fld
  ovf : Fld

/-- The receive ring. -/
def rxRing : BusRing := ⟨F.BUS_RX_BASE.ADDR, F.BUS_RX_CFG.MEM, F.BUS_RX_CFG.LOG2, F.BUS_RX_CFG.EN, F.BUS_RX_WR.POS,
  F.BUS_RX_RD.POS, F.BUS_RX_LOST.COUNT, F.BUS_RX_LOST.OVF⟩

/-- The stranger ring. -/
def srRing : BusRing := ⟨F.BUS_SR_BASE.ADDR, F.BUS_SR_CFG.MEM, F.BUS_SR_CFG.LOG2, F.BUS_SR_CFG.EN, F.BUS_SR_WR.POS,
  F.BUS_SR_RD.POS, F.BUS_SR_LOST.COUNT, F.BUS_SR_LOST.OVF⟩

/-- Was a record of a ring dropped since the last that was written. -/
def State.busLost (s : State) (en : Nat) (sr : Bool) : Bool := if sr then (s.bus en).srLost else (s.bus en).rxLost

/-- The mark of a dropped record. -/
def State.setBusLost (s : State) (en : Nat) (sr b : Bool) : State :=
  s.setBus en (if sr then { s.bus en with srLost := b } else { s.bus en with rxLost := b })

/-- A record of a ring is dropped (R266). -/
def State.busDrop (s : State) (en : Nat) (sr : Bool) (r : BusRing) : State :=
  (s.count r.lost (some r.ovf) en 27 1).setBusLost en sr true

/-- A record reaches one of an engine's rings (R266). -/
def State.busToRing (s : State) (en : Nat) (sr : Bool) (b : List Byte) : State :=
  let r := if sr then srRing else rxRing
  let base := s.get r.base en
  let log2 := s.get r.log2 en
  let lake := s.flag r.mem en
  let wr := s.get r.wr en
  let n := b.length / 32
  let used := (wr + 2 ^ 32 - s.get r.rd en) % 2 ^ 32
  if !s.flag r.en en then s.busDrop en sr r
  else if lake && !s.portB base (32 * 2 ^ log2) then ((s.busDrop en sr r).denyB base (32 * 2 ^ log2)).raiseU 27 F.BUS_FAULT_STAT.RING_ADDR en
  else if !lake && (s.region 1 base (32 * 2 ^ log2)).isNone then (s.busDrop en sr r).raiseC F.DMC_FAULT_STAT.NO_REGION 0
  else if 2 ^ log2 < used + n then (s.busDrop en sr r).raiseC F.BUS_FAULT_STAT.RING_FULL en
  else
    let b1 := if s.busLost en sr then setRecBit b 15 1 else b
    ((s.ringWrite lake base log2 wr b1).set r.wr en (wr + n)).setBusLost en sr false

/-- A record with a site tag goes to a ring of its engine, or is dropped for its tag (R16). -/
def State.busLog (s : State) (en : Nat) (sr : Bool) (tag : Nat) (b : List Byte) : State :=
  let x := s.get F.BUS_CFG.SITE en
  if tag != x then s.faultSite 27 F.BUS_FAULT_STAT.TAG_MISMATCH en x 5 else s.busToRing en sr b

/-- A stranger goes to the stranger ring where the engine has one (R266). -/
def State.strangerIn (s : State) (en tag : Nat) (f : BusRx) : State :=
  let s1 := s.busCount en 2
  let n := s.get F.BUS_SR_CFG.MAXLEN en
  if s1.flag F.BUS_CFG.STRANGER en then
    s1.busLog en true tag (s1.busRecord en f 0xFF true (decide (n < f.payload.length)) (f.payload.take n))
  else s1

/-- An accepted frame goes to the receive ring (R264, R269). -/
def State.frameIn (s : State) (en tag filt : Nat) (f : BusRx) : State :=
  let s1 := (s.busCount en 0).busLog en false tag (s.busRecord en f filt false false f.payload)
  let s2 := s1.busEvent en 1
  if filt = s2.get F.BUS_EV_CFG.FILT en then s2.busEvent en 2 else s2

/-- Does PLCA run on an engine: protocol 6, on, NODE_ID not 255 (R257). -/
def State.plcaOn (s : State) (en : Nat) : Bool := s.proto en == 6 && s.busOn en && s.busParam en 0 1 != 255

/-- Does the engine receive: on, and in no state that stops it (R268). -/
def State.busReceives (s : State) (en : Nat) : Bool := s.busOn en || 2 ≤ s.get F.BUS_STAT.STATE en

/-- A slow message of a SENT engine, or a LIN wake-up, is counted (BUS_CNT[6]). -/
def State.slowIn (s : State) (en : Nat) (f : BusRx) : State :=
  if (s.proto en = 4 || s.proto en = 5) && f.kind != 0 then s.busCount en 6 else s

/-- FRAME_RECEIVED (R264–R266). -/
def execFrameReceived (e : Nat) (en : Engine) (f : BusRx) (tag : Site) (s : State) : Out :=
  let s := s.elapse e
  let n := en.val
  if !s.busReceives n || !s.reached f.eof then .next s
  else
    let s0 := if s.get F.BUS_STAT.STATE n = 3 then s.busIdle n else s
    let s1 := (if bitAt f.info 1 then s0 else s0.canGood n false).slowIn n f
    let s2 := s1.busEvent n 3
    match s2.busSort n f with
    | (0, k) => .next (s2.frameIn n tag.val k f)
    | (1, _) => .next s2
    | _ => .next (s2.strangerIn n tag.val f)

/-! ### Errors (R265, R267) -/

/-- The statistic that an error code counts in, by protocol. -/
def errorCounter (p code : Nat) : Option Nat :=
  match p, code with
  | 1, 3 => some 3
  | 2, 1 => some 3
  | 3, 1 => some 3
  | 4, 4 => some 3
  | 5, 4 => some 3
  | 6, 1 => some 3
  | 2, 2 => some 4
  | 3, 2 => some 4
  | 4, 1 => some 4
  | 5, 1 => some 4
  | 4, 2 => some 4
  | 5, 2 => some 4
  | 6, 4 => some 4
  | 2, 3 => some 5
  | 3, 3 => some 5
  | 2, 4 => some 5
  | 3, 4 => some 5
  | 4, 3 => some 5
  | 5, 3 => some 5
  | 6, 5 => some 6
  | _, _ => none

/-- The number of error codes of a protocol (R265). -/
def errorCodes (p : Nat) : Nat := if p = 1 then 6 else if p = 0 then 0 else 5

/-- An error record goes to the stranger ring where it is wanted (R265, R266). -/
def State.errorRecord (s : State) (en code : Nat) : State :=
  let f : BusRx := ⟨code, 15, code, [], s.now, s.now, false⟩
  if s.flag F.BUS_CFG.STRANGER en && s.flag F.BUS_SR_CFG.ERRORS en then
    s.busLog en true (s.get F.BUS_CFG.SITE en) (s.busRecord en f 0xFF false false [])
  else s

/-- The retransmissions that a descriptor allows; none without limit (R259). -/
def State.retryLimit (s : State) (en : Nat) (d : TxDesc) : Option Nat :=
  let r := d.fld 0x18 1
  if r = 255 then (if s.proto en = 6 then some 15 else if s.proto en = 1 then none else some 255) else some r

/-- An error meets the frame on the medium: it is sent again, or completes as RETRY_LIMIT (R262). -/
def State.failAttempt (s : State) (en : Nat) : State :=
  match (s.bus en).queue with
  | d :: r =>
    if d.started.isNone then s
    else
      let d1 := { d with errors := satAdd 16 d.errors 1, started := none }
      let s1 := (s.setTxq en (d1 :: r)).busIdle en
      match s1.retryLimit en d1 with
      | some k => if k ≤ d1.retries then s1.finishHead en 4 0 0 else s1.setTxq en ({ d1 with retries := d1.retries + 1 } :: r)
      | none => s1.setTxq en ({ d1 with retries := satAdd 8 d1.retries 1 } :: r)
  | [] => s

/-- The counters of a CAN engine after an error: by inc, as ISO 11898-1 moves the one that the error belongs to (R267). -/
def State.canError (s : State) (en inc : Nat) (sending : Bool) : State :=
  if s.proto en != 1 then s
  else if sending then s.canCounters en (s.get F.BUS_CAN_ERR.TEC en + inc) (s.canRec en)
  else s.canCounters en (s.get F.BUS_CAN_ERR.TEC en) (s.canRec en + inc)

/-- BUS_ERROR (R265, R267). -/
def execBusError (e : Nat) (en : Engine) (code : Fin 8) (inc : Fin 9) (s : State) : Out :=
  let s := s.elapse e
  let n := en.val
  if !s.busReceives n || code.val = 0 || errorCodes (s.proto n) < code.val then .next s
  else
    let sending := match (s.bus n).queue with | d :: _ => d.started.isSome | [] => false
    let s1 := match errorCounter (s.proto n) code.val with | some k => s.busCount n k | none => s
    let s2 := if s.proto n = 1 && code.val != 6 then s1.busCount n 6 else s1
    let s3 := (s2.errorRecord n code.val).busEvent n 5
    .next ((s3.canError n inc.val sending).failAttempt n)

/-! ### LIN (R255) -/

/-- LIN_HEADER (R255): a responder answers by its entry as it stands now. -/
def execLinHeader (e : Nat) (en : Engine) (id : Fin 64) (s : State) : Out :=
  let s := s.elapse e
  let n := en.val
  let k := 64 * n + id.val
  if s.proto n != 3 || !s.busOn n then .next s
  else
    let act := s.get F.BUS_LIN_RESP.ACTION k
    let s1 := s.setBus n { s.bus n with linHdr := some (id.val, act) }
    let len := if s.get F.BUS_LIN_RESP.LEN k = 0 then 8 else s.get F.BUS_LIN_RESP.LEN k
    if act = 2 && !s.isSafe then
      let hdr := id.val + 256 * s.get F.BUS_LIN_RESP.ENHANCED k
      .next ((s1.emit (.busFrame n hdr false (toBytes (min 8 len) (s.get F.BUS_LIN_DATA.DATA k)))).busCount n 1)
    else .next s1

/-- LIN_WAKE_UP (R255): a wake-up pulse whose edge fell at a DT has ended, 150 µs to 5 ms long. -/
def execLinWakeUp (e : Nat) (en : Engine) (fell : Nat) (tag : Site) (s : State) : Out :=
  let s := s.elapse e
  let n := en.val
  let w := s.since fell
  if (s.proto n = 2 || s.proto n = 3) && s.busReceives n && decide (us 150 ≤ w) && decide (w ≤ us 5000) then
    .next ((s.busCount n 6).frameIn n tag.val 0xFF ⟨0, 2, 0, [], wrap64 fell, s.now, true⟩)
  else .next s

/-! ### MDIO (R270) -/

/-- The transaction at the head of the MDIO queue begins. -/
def State.mdioBegin (s : State) : State := { s with mdioAt := s.now }

/-- BUS_MDIO_CMD is written (R270). -/
def State.mdioCmd (s : State) (en v : Nat) : State :=
  if !bitAt v 31 || s.get F.BUS_MDIO_RES.RESULT en = 1 then s
  else if s.proto en != 6 then s.set F.BUS_MDIO_RES.RESULT en 3
  else
    let s1 := { s.set F.BUS_MDIO_RES.RESULT en 1 with mdioQ := s.mdioQ ++ [(en, v)] }
    if s.mdioQ.isEmpty then s1.mdioBegin else s1

/-- MDIO_COMMAND (R270). -/
def execMdioCommand (e : Nat) (en : Engine) (v : Word32) (s : State) : Out := .next ((s.elapse e).mdioCmd en.val v.toNat)

/-- MDIO_COMPLETE (R270): the transaction in progress ends after 25.6 µs; a read has found `data`. -/
def execMdioComplete (e : Nat) (data : BitVec 16) (s : State) : Out :=
  let s := s.elapse e
  match s.mdioQ with
  | (en, v) :: r =>
    if s.reached (wrap64 (s.mdioAt + 204800000)) then
      let wr := bitAt v 30
      let s1 := ({ s with mdioQ := r }.set F.BUS_MDIO_RES.RESULT en 2).emit
        (.mdio (leAt s.img.buseng (32 * en + 6) 1) (bitsOf v 16 5) wr (if wr then bitsOf v 0 16 else data.toNat))
      .next ((if wr then s1 else s1.set F.BUS_MDIO_RES.DATA en data.toNat).mdioBegin)
    else .next s
  | [] => .next s

/-! ### Configuration writes -/

/-- A configuration register of an engine accepts a write only while RUN is 0. -/
def State.busWrite (s : State) (en : Nat) (ok : Bool) (l : List (Fld × Nat × Nat)) : State :=
  if !s.flag F.BUS_CTRL.RUN en && ok then l.foldl (fun s p => s.set p.1 p.2.1 p.2.2) s else s.set F.BUS_STAT.WR_REJ en 1

/-- May a ring's configuration take a LOG2. -/
def log2Ok (n : Nat) : Bool := 11 ≤ n && n ≤ 24

end Sys2Proof.Machine
end

