-- ==== Sys2Proof/Machine/Power.lean ====
section
/-! DEFINITION. Package, power and the start ladder (spec/02_package_power.md): resets and rails, cold start, ladder
slots, sleeping sites, Dormant and the thermal conversion. -/

namespace Sys2Proof.Machine

/-! ### Resets (R32, R35, R373) -/

/-- A field keeps, at every index, the value it had in s. -/
def State.keep (r s : State) (f : Fld) : State :=
  { r with regs := Tab.set [] r.regs f.id (Tab.get [] s.regs f.id) }

/-- What every reset keeps is put back into the reset state (R9, R373): the fuses, UMB_AGE, what was handed out, the
free values drawn and the commands that wait. DRAM and Lake contents become open. -/
def State.restart (s r : State) : State :=
  let r1 := [F.DEV_ID.ORDER, F.DEV_SERIAL.SERIAL, F.CFG_FUSE_STAT.KEYHASH_PROG, F.CFG_FUSE_STAT.SECVER,
    F.UMB_AGE.BLOCKS].foldl (fun r f => r.keep s f) r
  { r1 with free := s.free, epoch := s.epoch + 1, out := s.out, pending := s.pending,
            ldr := { r1.ldr with keyHash := s.ldr.keyHash } }

/-- SAFE_IN_n low at a reset enters safe state again (R31, R373). -/
def State.sampleSafeIn (s : State) : State :=
  if s.pins.safeInHigh then s else (s.set F.CIN_STAT.SAFE_IN 0 1).enterSafe 1

/-- A device reset (R32, R373): device time and the key store are kept too, and the levels of balls and rails. -/
def State.deviceReset (s : State) : State :=
  let r := s.restart State.reset
  let r1 := [F.UMB_DT.DT, F.UMB_ERA.ERA, F.PWR_RAIL_STAT.GOOD, F.PCI_KEY_MAP.SLOTS].foldl (fun r f => r.keep s f) r
  let r2 := { r1 with
    pins := { s.pins with safeOutLow := false, trigOut := 0, trigUntil := [], ppsRise := none },
    pwr := { r1.pwr with vauxGood := s.pwr.vauxGood, inReset := true },
    keys := s.keys, umb := { agedAt := s.umb.agedAt } }
  r2.sampleSafeIn

/-- Are all rails good. -/
def State.railsGood (s : State) : Bool := s.get F.PWR_RAIL_STAT.GOOD 0 == 0xFF

/-- A cold start begins at DT t: the first core island is admitted (R37, R38). -/
def State.coldStart (s : State) (t : Nat) : State :=
  ({ s with pwr := { s.pwr with coldIdx := 0, coldDue := some (wrap64 (t + us 5)) } }).set F.PWR_STAT.PHASE 0 1

/-- The DT from which a cold start may begin: 10 µs after RESET_n rose where a reset has started (R32). -/
def State.coldFrom (s : State) : Nat :=
  if s.pwr.inReset then dtMax s.now (wrap64 (s.pins.resetRise + us 10)) else s.now

/-- POWER_ON_RESET (R35, R373). -/
def execPowerOnReset (e : Nat) (testen safeInHigh resetHigh : Bool) (s : State) : Out :=
  let s := s.elapse e
  let r := s.restart State.reset
  let r1 := { r with
    pins := { resetN := resetHigh, testen := testen, safeInHigh := safeInHigh, perstN := s.pins.perstN },
    pwr := { r.pwr with inReset := !resetHigh } }
  .next r1.sampleSafeIn

/-- VAUX_UNDER_VOLTAGE (R34): the device is OFF, every item is cleared and both lines of every pair are at GND (R29). -/
def execVauxUnderVoltage (e : Nat) (s : State) : Out :=
  let s := s.elapse e
  let r := s.restart State.reset
  .next { r.set F.PWR_RAIL_STAT.GOOD 0 0 with
    pins := { s.pins with safeOutLow := false, trigOut := 0, trigUntil := [], ppsRise := none },
    pwr := { r.pwr with vauxGood := false } }

/-- RAILS_GOOD (R35): every rail is good; with RESET_n high a device in POWERING begins its cold start. -/
def execRailsGood (e : Nat) (s : State) : Out :=
  let s := s.elapse e
  if !s.pwr.vauxGood then .next s else
  let s1 := s.set F.PWR_RAIL_STAT.GOOD 0 0xFF
  if s.dev == 1 && s.pins.resetN && s.pwr.coldDue.isNone && s.get F.PWR_STAT.PHASE 0 == 0 && s.pwr.heldRails == 0 then
    .next (s1.coldStart s1.coldFrom)
  else .next s1

/-- RAIL_UNDER_VOLTAGE (R34, R36): UV is set, safe state is entered and the units on the rail are held until a device
reset. -/
def execRailUnderVoltage (e : Nat) (rail : Fin 7) (s : State) : Out :=
  let s := s.elapse e
  let good := s.get F.PWR_RAIL_STAT.GOOD 0
  if bitAt good rail.val then
    let s1 := (s.set F.PWR_RAIL_STAT.GOOD 0 (clearBit good rail.val)).set F.PWR_FAULT_STAT.UV 0
      (setBit (s.get F.PWR_FAULT_STAT.UV 0) rail.val)
    let s2 := { s1 with pwr := { s1.pwr with heldRails := setBit s1.pwr.heldRails rail.val } }
    .next (s2.enterSafe 8)
  else .next s

/-- RESET_N_FALL (R32): while RESET_n is low every drive pair is at 0 mV. A wait for the cold start begins anew. -/
def execResetNFall (e : Nat) (s : State) : Out :=
  let s := s.elapse e
  if s.pins.resetN then
    let waiting := s.pwr.inReset && (match s.pwr.coldDue with
      | some d => s.pwr.coldIdx == 0 && !s.reached (wrap64 (d + 2 ^ 64 - us 5))
      | none => false)
    let p := if waiting then { s.pwr with coldDue := none } else s.pwr
    .next { s with pins := { s.pins with resetN := false, resetFall := s.now, resetDone := false }, pwr := p }
  else .next s

/-- Has RESET_n been low for 10 µs (R32). -/
def State.resetLong (s : State) : Bool := !s.pins.resetN && s.reached (wrap64 (s.pins.resetFall + us 10))

/-- A low of RESET_n of 10 µs starts a device reset, once (R32). -/
def State.longLow (s : State) : State :=
  let r := s.deviceReset
  { r with pins := { r.pins with resetDone := true } }

/-- DEVICE_RESET (R32): RESET_n has been low for 10 µs. -/
def execDeviceReset (e : Nat) (s : State) : Out :=
  let s := s.elapse e
  if s.resetLong && !s.pins.resetDone then .next s.longLow else .next s

/-- A low of RESET_n shorter than 10 µs may or may not start a reset (R32): a free value settles it. -/
def State.shortLow (s : State) : State :=
  let t := s.drew
  if s.fresh % 2 = 1 then t.deviceReset else t

/-- RESET_n is high again (R32): the cold start begins 10 µs later where a reset has been taken and every rail is good. -/
def State.resetRisen (s : State) : State :=
  let s2 := { s with pins := { s.pins with resetN := true, resetRise := s.now } }
  if s2.pwr.inReset && s2.railsGood && s2.pwr.heldRails == 0 && s2.pwr.coldDue.isNone && s2.dev == 1 then s2.coldStart s2.coldFrom
  else s2

/-- RESET_N_RISE (R32): the pairs return to their R126 levels, or the cold start begins after 10 µs. A low of 10 µs that has not
started its reset yet starts it now. -/
def execResetNRise (e : Nat) (s : State) : Out :=
  let s := s.elapse e
  if s.pins.resetN then .next s
  else if s.resetLong then .next (if s.pins.resetDone then s else s.longLow).resetRisen
  else .next (if s.pwr.inReset then s else s.shortLow).resetRisen

/-- DEV_RESET (R32, R372): a write to PCI_DEVCMD acts as a RESET_n low that ends when the write arrives. -/
def State.devCmd (s : State) (v : Nat) : State :=
  if bitsOf v 0 8 = 1 && bitsOf v 8 8 = 0xD5 then
    let r := s.deviceReset
    let r1 := { r with pins := { r.pins with resetRise := r.now } }
    if r1.pins.resetN && r1.railsGood then r1.coldStart r1.coldFrom else r1
  else s

/-- DEV_RESET (R372). -/
def execDevReset (e : Nat) (v : Word32) (s : State) : Out := .next ((s.elapse e).devCmd v.toNat)

/-- TESTEN_HIGH (R33): every drive pair is held at 0 mV and no image is accepted. -/
def execTestenHigh (e : Nat) (s : State) : Out :=
  let s := s.elapse e
  .next { s with pins := { s.pins with testen := true } }

/-- TESTEN_LOW (R33): the pairs leave 0 mV. -/
def execTestenLow (e : Nat) (s : State) : Out :=
  let s := s.elapse e
  .next { s with pins := { s.pins with testen := false } }

/-! ### Unit admissions (R37) -/

/-- The groups that a cold start or a wake admits: those neither FAILED nor ON, without those whose quads all sleep
(R38, R45, R375). -/
def State.groupsToAdmit (s : State) : List Nat :=
  (List.range 64).filter (fun g => (s.group g == 0 || s.group g == 1) && !s.groupAsleep g)

/-- Groups are queued for admission in ascending order. -/
def State.queueGroups (s : State) (gs : List Nat) : State :=
  (s.each gs (fun s g => s.setGroup g 2)).setQueue (s.pwr.queue ++ gs.map LadderJob.powerUp)

/-- CORE_ISLAND_ADMISSION (R37): an admission of 5 µs ends and the next in the fixed order begins. -/
def execCoreIslandAdmission (e : Nat) (s : State) : Out :=
  let s := s.elapse e
  match s.pwr.coldDue with
  | some d =>
    if s.pwr.coldIdx < 6 && s.reached d && s.pwr.heldRails == 0 then
      let n := s.pwr.coldIdx + 1
      .next { s with pwr := { s.pwr with coldIdx := n, coldDue := some (wrap64 (d + (if n < 6 then us 5 else us 2))) } }
    else .next s
  | none => .next s

/-- TILE_COMMON_ADMISSION (R37, R232): an admission of 2 µs ends and the tile link starts blind; after tile 7 the
groups follow through the ladder. -/
def execTileCommonAdmission (e : Nat) (s : State) : Out :=
  let s := s.elapse e
  match s.pwr.coldDue with
  | some d =>
    if 6 ≤ s.pwr.coldIdx && s.pwr.coldIdx < 14 && s.reached d && s.pwr.heldRails == 0 then
      let n := s.pwr.coldIdx + 1
      let t := s.pwr.coldIdx - 6
      let s1 := (s.set F.TLK_CORE_STAT.STATE t 1).set F.TLK_STAT.STATE t 1
      let s2 := { s1 with pwr := { s1.pwr with coldIdx := n,
                                               coldDue := if n < 14 then some (wrap64 (d + us 2)) else none } }
      .next (if n < 14 then s2 else s2.queueGroups s2.groupsToAdmit)
    else .next s
  | none => .next s

/-! ### The start ladder (R38–R41) -/

/-- LADDER_REQUEST (R39): the next request is taken at a clock edge and its groups are queued. -/
def execLadderRequest (e : Nat) (s : State) : Out :=
  let s := s.elapse e
  match nextRequest s.pwr.requests with
  | some r =>
    if s.reached (takeEdge r.arrived) then
      let s1 := { s with pwr := { s.pwr with requests := s.pwr.requests.erase r } }
      let s2 := s1.each r.groups (fun s g => s.takeGroup r g)
      .next (s2.each r.sites (fun s y => s.formReady y))
    else .next s
  | none => .next s

/-- The channels of a group. -/
def groupChans (g : Nat) : List Nat := (List.range 16).map (fun k => 16 * g + k)

/-- The comparators of a group that is ON follow their inputs, but for channels that Mordant holds or that settle. -/
def State.groupLive (s : State) (g : Nat) : State :=
  s.each ((groupChans g).filter (fun c => !s.flag F.MRD_CH_QF.HELD c && !s.settling c)) (fun s c => s.set F.SEP_CMP_CH_LIVE.VALID c 1)

/-- The slot length (R38). -/
def State.slotLen (s : State) : Nat := us (max 1 (s.get F.PWR_LADDER_CFG.SPACING 0))

/-- What PWR_GROUP_STATE shows of a group: SETTLING once the slot that admits it has ended (R38). -/
def State.groupShown (s : State) (g : Nat) : Nat :=
  if s.group g = 3 && s.pwr.settling.any (fun p => p.1 == g && s.reached (wrap64 (p.2 + 2 ^ 64 - us 10))) then 4 else s.group g

/-- LADDER_SLOT (R38): a slot begins and admits one group, or moves one from ON to RETENTION. No group is admitted
before the link of its tile is up (R232), nor while a rail that feeds the groups holds them (R36). -/
def execLadderSlot (e : Nat) (s : State) : Out :=
  let s := s.elapse e
  if !s.reached s.pwr.slotEnd then .next s else
  let fin := wrap64 (s.now + s.slotLen)
  match s.pwr.queue with
  | .powerUp g :: q =>
    if s.get F.TLK_CORE_STAT.STATE (g / 8) == 2 && !s.railHeld 0x0E then
      let s1 := (s.setQueue q).setGroup g 3
      .next { s1 with pwr := { s1.pwr with slotEnd := fin,
                                           settling := s1.pwr.settling ++ [(g, wrap64 (fin + us 10))] } }
    else .next s
  | .retire g :: q =>
    let s1 := ((s.setQueue q).setGroup g 1).each (groupChans g) (fun s c => s.set F.SEP_CMP_CH_LIVE.VALID c 0)
    .next { s1 with pwr := { s1.pwr with slotEnd := fin } }
  | [] => .next s

/-- GROUP_SETTLE_END (R38, R375): 10 µs after its slot a group is usable, or FAILED with SETTLE_FAIL set and its sites
FAULTED with cause 2. -/
def execGroupSettleEnd (e : Nat) (g : Group) (failed : Bool) (s : State) : Out :=
  let s := s.elapse e
  match s.pwr.settling.find? (fun p => p.1 == g.val) with
  | some (_, t) =>
    if s.reached t then
      let s1 := { s with pwr := { s.pwr with settling := s.pwr.settling.filter (fun p => p.1 != g.val),
                                             lastSettle := t } }
      let s2 := if failed then
          let s2 := (s1.setGroup g.val 6).raiseU 2 F.PWR_FAULT_STAT.SETTLE_FAIL 0
          s2.each (s2.groupSites g.val) (fun s x => s.siteFault x 2)
        else (s1.setGroup g.val 5).groupLive g.val
      let s3 := s2.groupDone g.val t
      if failed then .next s3
      else if s3.flag F.DEV_STATE.ENTERING 0 then .next (s3.setQueue (s3.pwr.queue ++ [.retire g.val]))
      else .next (s3.askRetire (256 * s3.get F.DEV_NUMBER.NUMBER 0) [g.val])
    else .next s
  | none => .next s

/-- Nothing is on the ladder: no job, no slot in progress, no group settling. -/
def State.ladderIdle (s : State) : Bool :=
  s.pwr.coldDue.isNone && s.pwr.queue.isEmpty && s.pwr.settling.isEmpty && s.reached s.pwr.slotEnd

/-- POWERING_END (R38, R58): the last group has settled and LOADING begins. -/
def execPoweringEnd (e : Nat) (s : State) : Out :=
  let s := s.elapse e
  if s.dev == 1 && s.get F.PWR_STAT.PHASE 0 == 1 && s.pwr.coldIdx == 14 && s.ladderIdle then
    let s1 := (s.set F.DEV_STATE.STATE 0 2).set F.PWR_STAT.PHASE 0 0
    .next { s1 with pwr := { s1.pwr with inReset := false }, ldr := { s1.ldr with phase := .start } }
  else .next s

/-! ### Sleeping sites (R42) -/

/-- The sites of word w of a bit map whose bits a write sets. -/
def wordSites (w v : Nat) : List Nat := ((List.range 32).filter (fun b => bitAt v b)).map (fun b => 32 * w + b)

/-- A site goes to sleep, or its request is refused (R42). -/
def State.sleepSite (s : State) (x : Nat) : State :=
  if s.siteState x == 1 && !(s.siteChans x).any (fun c => s.busMode c) then
    ((s.setMapBit F.PWR_SLEEP_SET.SITE 0 x true).set F.MDR_SITE_STATE.ASLEEP x 1)
  else s.set F.PWR_STAT.SLEEP_REJ 0 1

/-- A write to PWR_SLEEP_SET (R42). -/
def State.sleepSet (s : State) (w v : Nat) : State :=
  let xs := wordSites w v
  let s1 := s.each xs (fun s x => s.sleepSite x)
  s1.each (xs.filter (fun x => s1.asleep x)) (fun s x => s.askRetire (s.station x) (s.siteGroups x))

/-- A write to PWR_SLEEP_CLR (R42). -/
def State.sleepClr (s : State) (w v : Nat) : State :=
  s.each ((wordSites w v).filter (fun x => s.asleep x)) (fun s x =>
    let s1 := s.unsleep x
    let need := (s1.siteGroups x).filter (fun g => s1.needsLadder g)
    if need.isEmpty then s1 else s1.ladderAsk ⟨s1.now, s1.station x, need, [], false⟩)

/-- PWR_SLEEP_SET (R42). -/
def execPwrSleepSet (e : Nat) (w : Fin 8) (v : Word32) (s : State) : Out :=
  .next ((s.elapse e).sleepSet w.val v.toNat)

/-- PWR_SLEEP_CLR (R42). -/
def execPwrSleepClr (e : Nat) (w : Fin 8) (v : Word32) (s : State) : Out :=
  .next ((s.elapse e).sleepClr w.val v.toNat)

/-! ### Dormant (R44, R45) -/

/-- The DRAM operating point in force changes (R331, R332). Below 6,400 MT/s the spec gives no SC0 bound. -/
def State.setOp (s : State) (op : Nat) : State :=
  let rate := Tab.get 0 s.img.rates op
  let s1 := (s.set F.DMC_OP_STAT.OP 0 op).set F.DMC_OP_STAT.RATE 0 rate
  if 6400 ≤ rate then s1.set F.DMC_OP_STAT.SC0_WORST 0 720
  else (s1.set F.DMC_OP_STAT.SC0_WORST 0 s1.fresh).drew

/-- A write of 1 to PWR_CTRL.DORMANT (R44): the groups that are ON go to RETENTION in descending order. DESIGN CHOICE
(notes/assumptions/87.md): a request while an entry or a wake is in progress changes nothing, DORM_REJ included. -/
def State.dormant (s : State) : State :=
  if s.dev == 4 then
    if s.flag F.DEV_STATE.ENTERING 0 || s.flag F.DEV_STATE.WAKING 0 then s
    else
      let back := s.each (List.range 64) (fun s g => if s.group g == 2 then s.setGroup g 1 else s)
      let on := ((List.range 64).filter (fun g => back.group g == 5)).reverse
      ((back.setQueue (on.map LadderJob.retire)).set F.DEV_STATE.ENTERING 0 1).set F.PWR_STAT.PHASE 0 2
  else s.set F.PWR_STAT.DORM_REJ 0 1

/-- DORMANT_REQUEST (R44). -/
def execDormantRequest (e : Nat) (s : State) : Out := .next (s.elapse e).dormant

/-- The DRAM channels that CH_MASK names go into self-refresh, or leave it. -/
def State.selfRefresh (s : State) (b : Bool) : State :=
  s.each ((List.range 8).filter (fun c => bitAt (s.get F.DMC_CFG.CH_MASK 0) c)) (fun s c => s.set F.DMC_CH_STAT.SELF_REFRESH c (ofBool b))

/-- The Lenkel island goes off (R44, R237, R244): every port is off, one that was up keeps its code for the wake, and a
follower holds over. -/
def State.portsOff (s : State) : State :=
  let s1 := s.each (List.range 8) (fun s p =>
    let u := s.port p
    let code := if s.get F.LNK_PORT_STAT.STATE p == 2 then s.get F.LNK_PORT_STAT.RATE p else 0
    ((s.setPort p { disabled := u.disabled, wakeCode := code }).set F.LNK_PORT_STAT.STATE p 0).set F.LNK_PORT_STAT.RATE p 0 |>.set
      F.LNK_PORT_STAT.TIME_UP p 0)
  if s1.upstream.isSome then
    ((s1.set F.LNK_TIME_STAT.UP_VALID 0 0).set F.LNK_TIME_STAT.STATE 0 3 |>.set F.LNK_TIME_STAT.HOPS 0 31).holdover
  else s1

/-- DORMANT_ENTRY_COMPLETE (R44, R323): tile-common and core islands are down, the Lake banks that were ON are in
RETENTION, and the DRAM is in self-refresh at operating point 2. -/
def execDormantEntryComplete (e : Nat) (s : State) : Out :=
  let s := s.elapse e
  if s.flag F.DEV_STATE.ENTERING 0 && s.dev == 4 && s.ladderIdle &&
      (List.range 64).all (fun g => s.group g != 5) then
    let on := (List.range 64).filter (fun b => s.bankIsOn b)
    let s1 := { s with pwr := { s.pwr with dormOp := s.get F.DMC_OP_STAT.OP 0, dormBanks := on } }
    let s2 := s1.each on (fun s b => s.set F.LAK_STATE.CUR b 1)
    let s3 := s2.each (List.range 8) (fun s t => (s.set F.TLK_CORE_STAT.STATE t 0).set F.TLK_STAT.STATE t 0)
    .next (((((s3.setOp 2).selfRefresh true).portsOff.set F.DEV_STATE.ENTERING 0 0).set F.DEV_STATE.STATE 0 6).set F.PWR_STAT.PHASE 0 3)
  else .next s

/-- The device is woken (R45): from Dormant by the islands and tiles, during entry from the point reached. -/
def State.wake (s : State) : State :=
  if s.flag F.DEV_STATE.WAKING 0 then s
  else if s.dev == 6 then
    let s1 := { s with pwr := { s.pwr with coldIdx := 1, coldDue := some (wrap64 (s.now + us 5)) } }
    (s1.set F.DEV_STATE.WAKING 0 1).set F.PWR_STAT.PHASE 0 4
  else if s.flag F.DEV_STATE.ENTERING 0 then
    let s1 := (((s.setQueue []).set F.DEV_STATE.ENTERING 0 0).set F.DEV_STATE.WAKING 0 1).set F.PWR_STAT.PHASE 0 4
    s1.queueGroups s1.groupsToAdmit
  else s

/-- WAKE (R45). -/
def execWake (e : Nat) (cause : WakeCause) (s : State) : Out :=
  let s := s.elapse e
  match cause with
  | .event => .next (if s.flag F.PWR_WAKE_CFG.EN 0 then s.wake else s)
  | _ => .next s.wake

/-- WAKE_COMPLETE (R45): unit state is restored, and after Dormant the operating point and the Lake banks too. -/
def execWakeComplete (e : Nat) (s : State) : Out :=
  let s := s.elapse e
  if s.flag F.DEV_STATE.WAKING 0 && s.ladderIdle then
    let s1 := (s.set F.DEV_STATE.WAKING 0 0).set F.PWR_STAT.PHASE 0 0
    if s.dev == 6 then
      let s2 := s1.each s1.pwr.dormBanks (fun s b => s.set F.LAK_STATE.CUR b 2)
      let s3 := { (s2.setOp s2.pwr.dormOp).selfRefresh false with pwr := { s2.pwr with dormBanks := [] } }
      .next ((((s3.set F.DEV_STATE.STATE 0 4).fire 1477).flushMsix .pf0).flushMsix .pf1)
    else .next s1
  else .next s

/-! ### Thermal limits (R46) -/

/-- THERM_CFG.WARN as it acts: outside 60–110 it is 110 (R46). -/
def State.warnAt (s : State) : Int :=
  let w := s.get F.DEV_THERM_CFG.WARN 0
  if 60 ≤ w ∧ w ≤ 110 then w else 110

/-- The lower junction limit of the ordering code (R2). -/
def State.lowLimit (s : State) : Int := if s.get F.DEV_ID.ORDER 0 = 1 then -20 else 0

/-- THERMAL_CONVERSION (R46): the nine sensors are converted; temps holds their readings in 1/16 °C. -/
def execThermalConversion (e : Nat) (temps : List (BitVec 16)) (s : State) : Out :=
  let s := s.elapse e
  let at_ (n : Nat) : Int := toInt 16 (temps.getD n 0).toNat
  let s1 := s.each (List.range 9) (fun s n =>
    (s.set F.DEV_TEMP.TEMP n (temps.getD n 0).toNat).set F.DEV_TEMP.VALID n 1)
  let any_ (p : Int → Bool) : Bool := (List.range 9).any (fun n => p (at_ n))
  let s2 := if any_ (fun t => decide (s.warnAt * 16 ≤ t)) then s1.raiseC F.DEV_FAULT_STAT.THERM_WARN 0 else s1
  let s3 := if any_ (fun t => decide (t < s.lowLimit * 16)) then s2.raiseC F.DEV_FAULT_STAT.TEMP_LOW 0 else s2
  .next (if any_ (fun t => decide (112 * 16 ≤ t)) then s3.raiseF F.DEV_FAULT_STAT.THERM_TRIP 0 2 else s3.recause)

end Sys2Proof.Machine
end

