-- ==== Sys2Proof/Machine/Events.lean ====
section
/-! DEFINITION. The event fabric (spec/15_events_interrupts.md): event channels, held firings, loops, TRIG_OUT, Lenkel
broadcast and the timers. -/

namespace Sys2Proof.Machine

/-! ### Consumers of a firing (R305–R307) -/

/-- The fabric replaced. -/
def State.setEvf (s : State) (u : Evf) : State := { s with evf := u }

/-- A coincidence at an input of class k (R306). -/
def State.coincide (s : State) (k c : Nat) : State := s.setMapBit F.EVF_COINC.CH (8 * k) c true

/-- Safe state forces TRIG_OUT[n] (R307). -/
def State.trigForced (s : State) (n : Nat) : Bool := s.isSafe && bitAt s.img.trigForce n

/-- The level of TRIG_OUT[n] follows its pulse, or is forced by safe state (R307). -/
def State.showTrig (s : State) (n : Nat) : State :=
  let high := if s.trigForced n then bitAt s.img.trigLevel n else (Tab.get none s.pins.trigUntil n).isSome
  let v := s.pins.trigOut
  { s with pins := { s.pins with trigOut := if high then setBit v n else clearBit v n } }

/-- TRIG_OUT[n] rises, or its pulse is extended, by a firing of channel c at DT t (R306, R307). -/
def State.trigPulse (s : State) (n c t : Nat) : State :=
  let high := match Tab.get none s.pins.trigUntil n with | some u => !dtReached t u | none => false
  let s1 := if high then s.coincide 4 c else s
  { s1 with pins := { s1.pins with trigUntil := Tab.set none s1.pins.trigUntil n (some (wrap64 (t + ns 8))) } }.showTrig n

/-- The TRIG_OUT balls that an event channel drives. -/
def State.trigBalls (s : State) (c : Nat) : List Nat := (List.range 16).filter (fun n => s.byteOf F.EVF_TRIGOUT_SRC.EVCH n == c)

/-- Is a port enabled by the image in force (R236). -/
def State.portEn (s : State) (p : Nat) : Bool := leAt s.img.links (0x20 + 8 * p) 1 == 1

/-- Is this device's time LOCKED; the time master always counts as LOCKED (R239). -/
def State.ownLocked (s : State) : Bool := s.get F.LNK_TIME_STAT.STATE 0 == 0 || s.get F.LNK_TIME_STAT.STATE 0 == 2

/-- Are both ends of a port LOCKED (R239, R240). -/
def State.bothLocked (s : State) (p : Nat) : Bool := s.ownLocked && decide ((s.port p).hops < 31)

/-- A firing of channel c is sent on every enabled port, twice, or is discarded and counted there (R246). -/
def State.broadcast (s : State) (c dt : Nat) : State :=
  s.each ((List.range 8).filter (fun p => s.portEn p)) (fun s p =>
    if s.get F.LNK_PORT_STAT.STATE p == 2 && s.dev != 6 && s.bothLocked p then
      (s.emit (.lnkBlock p 0x30 [c, dt % 2 ^ 32])).emit (.lnkBlock p 0x30 [c, dt % 2 ^ 32])
    else s.count F.LNK_PORT_DROP.DROP none p 13 1)

/-- The wake that a firing of the channel named in PWR_WAKE_CFG causes (R45); two within 10 ns coincide (R306). -/
def State.wakeEvent (s : State) (c t : Nat) (last : Option Nat) : State :=
  if s.flag F.PWR_WAKE_CFG.EN 0 && s.get F.PWR_WAKE_CFG.EVCH 0 == c then
    let near := match last with | some l => !dtReached t (wrap64 (l + ns 10)) | none => false
    (if near then s.coincide 7 c else s).wake
  else s

/-! ### Firing (R300, R302, R303) -/

/-- A self-triggered firing adds to the loop count, which is reset by one made at once (R303). -/
def State.countLoop (s : State) (c : Nat) (self : Bool) : State :=
  let n := Tab.get 0 s.evf.loops c
  if !self then s.setEvf { s.evf with loops := Tab.set 0 s.evf.loops c 0 }
  else
    let s1 := s.setEvf { s.evf with loops := Tab.set 0 s.evf.loops c (min 1024 (n + 1)) }
    if n = 1023 then
      let s2 := s1.setMapBit F.EVF_LOOPSTAT.CH 0 c true
      (s2.set F.EVF_STAT.LOOPS 0 (s2.mapList F.EVF_LOOPSTAT.CH 0 256).length).raiseC F.EVF_FAULT_STAT.LOOP 0
    else s1

/-- Event channel c fires at DT t: `self` where it is released from hold, `bc` where only received broadcasts made it
(R246, R300–R303). -/
def State.fireChannel (s : State) (c t : Nat) (self bc : Bool) : State :=
  let last := Tab.get none s.evf.last c
  let s1 := s.countLoop c self
  let s2 := (s1.setEvf { s1.evf with last := Tab.set none s1.evf.last c (some (wrap64 t)) }).stamp F.EVF_CH_LAST.DT c t
  let s3 := s2.count F.EVF_CH_CNT.FIRES (some F.EVF_CH_CNT.FOVF) c 6 1
  let s4 := if c < 64 then s3.fire (1392 + c) else s3
  let s5 := s4.each (s4.trigBalls c) (fun s n => s.trigPulse n c t)
  let s6 := if !bc && s5.mapBit F.EVF_BCAST.CH 0 c then s5.broadcast c (s5.get F.EVF_CH_LAST.DT c) else s5
  (s6.pulse (1 + c)).wakeEvent c t last

/-- The re-fire interval of a channel (R302). -/
def State.refire (s : State) (c : Nat) : Nat := ns (s.get F.EVF_CH_CFG.INTERVAL_NS c)

/-- A firing merges into the one that is held (R302). -/
def State.merge (s : State) (c : Nat) : State := s.count F.EVF_CH_CNT.MERGED (some F.EVF_CH_CNT.MOVF) c 6 1

/-- A firing arrives at channel c at DT t while none is held: it fires at once, or is held (R302). One that arrives at the
very instant of a release from hold merges into it. -/
def State.arriveFree (s : State) (c t : Nat) (bc : Bool) : State :=
  match Tab.get none s.evf.last c with
  | none => s.fireChannel c t false bc
  | some l =>
    let since := wrap64 (t + 2 ^ 64 - wrap64 l)
    if s.refire c ≤ since then s.fireChannel c t false bc
    else if since = 0 && Tab.get 0 s.evf.loops c != 0 then s.merge c
    else s.setEvf { s.evf with held := Tab.set none s.evf.held c (some (wrap64 (l + s.refire c), bc)) }

/-- A producer's firing, or a received broadcast, arrives at channel c at DT t (R246, R302). -/
def State.arriveAt (s : State) (c t : Nat) (bc : Bool) : State :=
  match Tab.get none s.evf.held c with
  | some (r, b) =>
    if dtReached r t then
      (s.setEvf { s.evf with held := Tab.set none s.evf.held c (some (r, b && bc)) }).merge c
    else ((s.setEvf { s.evf with held := Tab.set none s.evf.held c none }).fireChannel c r true b).arriveFree c t bc
  | none => s.arriveFree c t bc

/-- EVENT_CHANNEL_FIRING (R299, R302): the firing of producer p reaches every channel whose column enables it. -/
def execEventChannelFiring (e : Nat) (p : Fin 1536) (s : State) : Out :=
  let s := s.elapse e
  if s.evf.raised.contains p.val then
    let s1 := s.setEvf { s.evf with raised := s.evf.raised.erase p.val }
    .next (s1.each (s1.columns p.val) (fun s c => s.arriveAt c s.now false))
  else .next s

/-- HELD_FIRING_RELEASE (R302): a held firing is released at the previous firing plus I_c. -/
def execHeldFiringRelease (e : Nat) (c : EvCh) (s : State) : Out :=
  let s := s.elapse e
  match Tab.get none s.evf.held c.val with
  | some (r, b) =>
    if s.reached r then
      .next ((s.setEvf { s.evf with held := Tab.set none s.evf.held c.val none }).fireChannel c.val r true b)
    else .next s
  | none => .next s

/-- BROADCAST_RELEASE (R246, R300): a received broadcast fires its channel at its release DT. -/
def execBroadcastRelease (e : Nat) (c : EvCh) (s : State) : Out :=
  let s := s.elapse e
  match s.evf.bcast.find? (fun b => b.1 == c.val && s.reached b.2) with
  | some b => .next ((s.setEvf { s.evf with bcast := s.evf.bcast.erase b }).arriveAt c.val b.2 true)
  | none => .next s

/-- TRIG_OUT_PULSE_END (R306): a ball falls 8 ns after the last firing. -/
def execTrigOutPulseEnd (e : Nat) (n : Fin 16) (s : State) : Out :=
  let s := s.elapse e
  if s.due (Tab.get none s.pins.trigUntil n.val) then
    .next ({ s with pins := { s.pins with trigUntil := Tab.set none s.pins.trigUntil n.val none } }.showTrig n.val)
  else .next s

/-! ### Producers of the balls and of software (R297) -/

/-- TRIG_IN_EDGE (R297): a rising edge at TRIG_IN[n]. -/
def execTrigInEdge (e : Nat) (n : Fin 16) (s : State) : Out := .next ((s.elapse e).fire (1344 + n.val))

/-- A write to EVF_SWFIRE: each bit that is 1 fires its producer. -/
def State.swFire (s : State) (v : Nat) : State :=
  s.each ((List.range 16).filter (fun n => bitAt v n)) (fun s n => s.fire (1478 + n))

/-- EVF_SWFIRE (R297). -/
def execEvfSwfire (e : Nat) (v : Word32) (s : State) : Out := .next ((s.elapse e).swFire v.toNat)

/-! ### Timers (R308) -/

/-- A timer's run. -/
def State.timer (s : State) (k : Nat) : TimerRun := Tab.get {} s.evf.timers k

/-- A timer's run replaced. -/
def State.setTimer (s : State) (k : Nat) (r : TimerRun) : State :=
  s.setEvf { s.evf with timers := Tab.set {} s.evf.timers k r }

/-- The mode of a timer; 5 to 7 act as OFF. -/
def State.timerMode (s : State) (k : Nat) : Nat :=
  let m := s.get F.EVF_TIMER_CFG.MODE k
  if 4 < m then 0 else m

/-- The period of a timer, at least 8,000 ticks. -/
def State.timerPeriod (s : State) (k : Nat) : Nat := max 8000 (s.get F.EVF_TIMER_PERIOD.TICKS k)

/-- A timer fires its producer. -/
def State.timerFire (s : State) (k : Nat) : State :=
  (s.count F.EVF_TIMER_STAT.FIRES (some F.EVF_TIMER_STAT.FOVF) k 6 1).fire (1360 + k)

/-- A write to EVF_TIMER_CFG: the timer stops and restarts under the new setting. -/
def State.writeTimer (s : State) (k v : Nat) : State :=
  let s1 := ((s.set F.EVF_TIMER_CFG.MODE k (bitsOf v 0 3)).set F.EVF_TIMER_CFG.EVCH k (bitsOf v 8 8)).set
    F.EVF_TIMER_CFG.COUNT k (bitsOf v 16 32)
  let m := s1.timerMode k
  s1.setTimer k { target := if m = 1 || m = 2 then some (s1.get F.EVF_TIMER_T0.TICKS k) else none, count := 0 }

/-- EVF_TIMER_CFG_WRITE (R308). -/
def execEvfTimerCfgWrite (e : Nat) (k : Fin 32) (v : Word64) (s : State) : Out := .next ((s.elapse e).writeTimer k.val v.toNat)

/-- The target of a PERIODIC timer after the one at DT t: the next multiple, or the first that lies in the future. -/
def State.nextTarget (s : State) (k t : Nat) : Nat :=
  let p := s.timerPeriod k
  let n := if dtReached s.now t then s.since t / p + 1 else 1
  wrap64 (t + n * p)

/-- TIMER_EXPIRY (R308): a timer fires within 1 ns of its target. -/
def execTimerExpiry (e : Nat) (k : Fin 32) (s : State) : Out :=
  let s := s.elapse e
  let k := k.val
  match (s.timer k).target with
  | some t =>
    if s.reached (wrap64 (t + 2 ^ 64 - 8000)) then
      let s1 := s.timerFire k
      match s.timerMode k with
      | 1 => .next ((s1.setTimer k {}).set F.EVF_TIMER_CFG.MODE k 0)
      | 2 => .next (s1.setTimer k { target := some (s.nextTarget k t) })
      | _ => .next (s1.setTimer k {})
    else .next s
  | none => .next s

/-- TIMER_START_FIRING (R308): a firing of the channel of a DELAY or COUNT timer. -/
def execTimerStartFiring (e : Nat) (k : Fin 32) (s : State) : Out :=
  let s := s.elapse e
  let k := k.val
  let r := s.timer k
  match s.timerMode k with
  | 3 =>
    if r.target.isSome then .next (s.set F.EVF_TIMER_STAT.OVR k 1)
    else .next (s.setTimer k { target := some (wrap64 (s.get F.EVF_CH_LAST.DT (s.get F.EVF_TIMER_CFG.EVCH k) + s.timerPeriod k)) })
  | 4 =>
    if r.count + 1 < max 1 (s.get F.EVF_TIMER_CFG.COUNT k) then .next (s.setTimer k { count := r.count + 1 })
    else .next ((s.timerFire k).setTimer k {})
  | _ => .next s

end Sys2Proof.Machine
end

