-- ==== Sys2Proof/Machine/ImageChecks.lean ====
section
/-! DEFINITION. The loader's checks on an image (spec/03_image_and_boot.md): descriptor, header, records as they
arrive (R50, R54, R56, R58) and the checks of CHECKING (R51–R57, R62, R65, R75, R117, R240, R284, R298, R304, R362). -/

namespace Sys2Proof.Machine

/-- Are n bytes from offset o zero. -/
def zeros (b : List Byte) (o n : Nat) : Bool := allZero ((b.drop o).take n)

/-! ### Boot descriptor (R48, R49) -/

/-- The code of a boot descriptor copy: 0 valid, 0x01 wrong magic or CRC, 0x02 a field out of range or slots that
overlap. -/
def descCode (b : List Byte) : Nat :=
  if leAt b 0 4 ≠ 0x424B564D ∨ leAt b 0x3C 4 ≠ crc32c (b.take 0x3C) then 1
  else
    let mode := leAt b 4 1
    let clk := leAt b 5 1
    let oA := leAt b 0x18 4
    let lA := leAt b 0x1C 4
    let oB := leAt b 0x20 4
    let lB := leAt b 0x24 4
    let slot (o l : Nat) : Bool := o % 4096 == 0 && decide (0x2000 ≤ o) && decide (l ≤ 134217728) &&
      decide (o + l ≤ 268435456)
    let ok := decide (mode ≤ 2) && decide (25 ≤ clk) && decide (clk ≤ if mode = 2 then 200 else 100) &&
      decide (leAt b 6 1 ≤ 31) && decide (leAt b 7 1 ≤ 1) && decide (leAt b 0xA 1 ≤ 6) && zeros b 0xB 1 &&
      zeros b 0x12 6 && zeros b 0x28 20 && slot oA lA && slot oB lB &&
      (decide (oA + lA ≤ oB) || decide (oB + lB ≤ oA))
    if ok then 0 else 2

/-- A valid descriptor, parsed. -/
def descOf (b : List Byte) : BootDesc :=
  { mode := leAt b 4 1, clk := leAt b 5 1, dummy := leAt b 6 1, preferred := leAt b 7 1, readCmd := leAt b 8 2,
    entry := (b.drop 0xC).take (leAt b 0xA 1), offA := leAt b 0x18 4, lenA := leAt b 0x1C 4,
    offB := leAt b 0x20 4, lenB := leAt b 0x24 4 }

/-- The bytes of the read command in which a slot is read (R47), in the mode of its descriptor or, `legacy`, in 1S-1S-1S. -/
def BootDesc.readBytes (d : BootDesc) (legacy : Bool) : List Byte :=
  if legacy || d.mode = 0 then [0x0C] else if d.mode = 1 then [0x6C] else toBytes 2 d.readCmd

/-! ### Image header (R50) -/

/-- Is the CRC of an image header wrong. -/
def hdrCrcBad (h : List Byte) : Bool := leAt h 0x3C 4 != crc32c (h.take 0x3C)

/-- The code of an image header read from a source of len bytes; 0 when it passes. -/
def hdrCode (h : List Byte) (len : Nat) : Nat :=
  if leAt h 0 4 ≠ 0x494B564D then 3
  else if hdrCrcBad h || leAt h 4 2 != 0x0100 || leAt h 6 2 != 64 then 4
  else if len < leAt h 0xC 4 then 5
  else if !(zeros h 0x12 2 && zeros h 0x20 28) then 0xA
  else 0

/-- RECORD_COUNT of a header. -/
def hdrCount (h : List Byte) : Nat := leAt h 8 4

/-- TOTAL_LEN of a header. -/
def hdrTotal (h : List Byte) : Nat := leAt h 0xC 4

/-- SECVER of a header. -/
def hdrSecver (h : List Byte) : Nat := leAt h 0x10 2

/-! ### Records -/

/-- Bytes a record takes in the image, padding included. -/
def recSize (r : ImageRecord) : Nat := alignUp (12 + r.length) 16

/-- The bytes of a record header that its CRC covers. -/
def recHead (r : ImageRecord) : List Byte := toBytes 2 r.typ ++ toBytes 2 r.flags ++ toBytes 4 r.length

/-- The bytes of a record. -/
def recBytes (r : ImageRecord) : List Byte := recHead r ++ toBytes 4 r.crc.toNat ++ r.body ++ r.padding

/-- The largest number of records of a type (R50). -/
def maxCount (t : Nat) : Nat := if t = 5 ∨ t = 0xD ∨ t = 0x12 ∨ t = 0x13 ∨ t = 0x14 then 65535 else 1

/-- The types that must be present (R50). -/
def required : List Nat := [1, 2, 3, 9, 0xB, 0x15, 0x16]

/-- The records of a type. -/
def ofType (t : Nat) (rs : List ImageRecord) : List ImageRecord := rs.filter (fun r => r.typ == t)

/-- The body of the only record of a type; empty when absent. -/
def bodyOf (t : Nat) (rs : List ImageRecord) : List Byte := ((ofType t rs).head?.map (·.body)).getD []

/-- Is a type present. -/
def hasType (t : Nat) (rs : List ImageRecord) : Bool := rs.any (fun r => r.typ == t)

/-- The blocks of a WAVEFORMS body: header bytes and entry bytes; none where they do not fill it (R54). -/
def waveBlocks : Nat → List Byte → Option (List (List Byte × List Byte))
  | 0, _ => none
  | n + 1, b =>
    if b.isEmpty then some []
    else
      let len := 24 * leAt b 4 1
      if b.length < 8 + len then none
      else (waveBlocks n (b.drop (8 + len))).map (fun r => (b.take 8, (b.drop 8).take len) :: r)

/-- The tables of a SERVICES body; none where they do not fill it (R54). -/
def svcTables : Nat → List Byte → Option (List SvcTable)
  | 0, _ => none
  | n + 1, b =>
    if b.isEmpty then some []
    else
      let len := leAt b 4 4
      if b.length < 8 + len then none
      else (svcTables n (b.drop (8 + len))).map (fun r => ⟨leAt b 0 2, leAt b 2 2, (b.drop 8).take len⟩ :: r)

/-- Has a body the length that its type's layout defines (R51, R54). -/
def lengthOk (t : Nat) (b : List Byte) : Bool :=
  let n := b.length
  match t with
  | 1 => n == 32
  | 2 => n == 16384
  | 3 => n == 4736
  | 4 => n % 16 == 0
  | 5 => (waveBlocks (n + 1) b).isSome
  | 6 => n == 54320
  | 7 => n == 16640
  | 8 => n == 132
  | 9 => n == 480
  | 0xA => n == 256
  | 0xB => n == 96
  | 0xC => n == 2048
  | 0xD => (svcTables (n + 1) b).isSome
  | 0xE => n == 131104
  | 0xF => n == 576
  | 0x10 => n == 3200
  | 0x11 => decide (112 ≤ n) && leAt b 8 4 == n - 112
  | 0x12 => decide (16 ≤ n) && n == 16 + 32 * leAt b 4 4
  | 0x13 => decide (16 ≤ n) && n == 16 + 8 * leAt b 4 4
  | 0x14 => decide (16 ≤ n) && n == 16 + leAt b 8 8
  | 0x15 => n == 104 || n == 208 || n == 312 || n == 416
  | 0x16 => n == 104
  | _ => false

/-- The class-U bits of R361 by block, which ESCALATE may name (R362). -/
def escalateOk (b : List Byte) : Bool :=
  (List.range 32).all (fun i => (leAt b (4 * i) 4) &&& (0xFFFFFFFF ^^^ classU i) == 0)

/-- The reserved fields of a services table are 0 (R280, R283, R286, R287, R290, R294). -/
def svcReservedOk (v : SvcTable) : Bool :=
  let b := v.data
  let n := b.length
  match v.typ with
  | 1 => leAt b 4 2 / 8 == 0 && zeros b 0xF 17 && (List.range ((n - 32) / 64)).all (fun k =>
      leAt b (32 + 64 * k + 0x14) 2 / 2 == 0 && zeros b (32 + 64 * k + 0x16) 10)
  | 2 => (List.range (n / 32)).all (fun k => leAt b (32 * k + 4) 1 / 8 == 0 && zeros b (32 * k + 5) 1 && zeros b (32 * k + 0x18) 8)
  | 3 => (List.range (n / 4)).all (fun k => bitsOf (leAt b (4 * k) 4) 1 7 == 0 && leAt b (4 * k + 2) 2 == 0)
  | 4 => zeros b 0x24 4
  | 5 => (List.range (n / 64)).all (fun k => leAt b (64 * k + 0xF) 1 / 4 == 0 && zeros b (64 * k + 0x11) 1 &&
      zeros b (64 * k + 0x1C) 4 && zeros b (64 * k + 0x25) 3 && zeros b (64 * k + 0x38) 8)
  | 6 => (List.range (n / 16)).all (fun k => zeros b (16 * k + 5) 1)
  | 7 => zeros b 6 2 && zeros b 0xC 4 && (List.range ((n - 32) / 8)).all (fun k =>
      zeros b (32 + 8 * k + 1) 1 && zeros b (32 + 8 * k + 6) 2)
  | _ => true

/-- The reserved fields of a body are 0 (R50, R54, R331, R362). Bits [7:6] of PINMAP IDLE, which its layout does not list, count as
reserved (DESIGN CHOICE, notes/assumptions/98.md). -/
def reservedOk (t : Nat) (b : List Byte) : Bool :=
  match t with
  | 1 => zeros b 0x10 16
  | 2 => (List.range 1024).all (fun c => leAt b (16 * c) 1 / 32 == 0 && leAt b (16 * c + 2) 2 &&& 0xF0C0 == 0 &&
      zeros b (16 * c + 0xA) 6)
  | 3 => (List.range 256).all (fun x => leAt b (0x280 + 16 * x) 2 / 16 == 0 && zeros b (0x280 + 16 * x + 5) 11)
  | 4 => (List.range (b.length / 16)).all (fun k => zeros b (16 * k + 2) 6)
  | 5 => ((waveBlocks (b.length + 1) b).getD []).all (fun p => zeros p.1 6 2)
  | 6 => (List.range 256).all (fun c => leAt b (0xC000 + 16 * c + 8) 2 / 2 == 0 && zeros b (0xC000 + 16 * c + 0xA) 6)
  | 7 => (List.range 4096).all (fun n => !bitAt (leAt b (4 * n) 4) 23 && leAt b (4 * n) 4 / 2 ^ 29 == 0)
  | 8 => escalateOk b
  | 9 => zeros b 0xA 2 && zeros b 0xD 3 && zeros b 0x18 8 && (List.range 3).all (fun k =>
      leAt b (0x20 + 64 * k + 0x1B) 1 / 64 == 0 && leAt b (0x20 + 64 * k + 0x1F) 1 / 8 == 0 && zeros b (0x20 + 64 * k + 0x30) 16) &&
      (List.range 16).all (fun k => zeros b (0xE0 + 16 * k + 0xD) 3)
  | 0xA => (List.range 64).all (fun k => zeros b (4 * k + 2) 2)
  | 0xB => zeros b 3 5 && (List.range 8).all (fun p => zeros b (0x20 + 8 * p + 4) 4)
  | 0xC => (List.range 64).all (fun e =>
      let p := 32 * e + 0x10
      leAt b (32 * e + 7) 1 / 2 == 0 && (match leAt b (32 * e) 1 with
        | 1 => zeros b (p + 6) 2 && zeros b (p + 0xC) 4
        | 2 | 3 => leAt b (p + 6) 1 / 2 == 0 && zeros b (p + 7) 9
        | 4 | 5 => leAt b (p + 5) 1 / 16 == 0 && zeros b (p + 8) 8
        | 6 => leAt b (p + 5) 1 / 2 == 0
        | _ => true))
  | 0xD => ((svcTables (b.length + 1) b).getD []).all svcReservedOk
  | 0xE => zeros b 0x14 12
  | 0xF => (List.range 16).all (fun k => bitsOf (leAt b (0x200 + 4 * k) 4) 15 16 == 0)
  | 0x10 => (List.range 32).all (fun k => bitsOf (leAt b (0xC00 + 4 * k) 4) 22 9 == 0)
  | 0x11 => zeros b 6 2 && zeros b 0xC 4
  | 0x12 => zeros b 8 8
  | 0x13 => leAt b 1 1 / 2 == 0
  | 0x15 => (List.range (b.length / 104)).all (fun k => zeros b (104 * k + 4) 4)
  | 0x16 => zeros b 4 4
  | _ => true

/-! ### The DRAM record (R54, R56, R152, R325, R331) -/

/-- The DRAM region r of a DRAM body: base, size in bytes and type. -/
def dramRegion (b : List Byte) (r : Nat) : Nat × Nat × Nat :=
  (leAt b (0xE0 + 16 * r) 8, leAt b (0xE0 + 16 * r + 8) 4 * 1048576, leAt b (0xE0 + 16 * r + 0xC) 1)

/-- The part of a region that software may use: all of a DATA region, 7/8 of a CONTROL region (R56). -/
def usable (p : Nat × Nat × Nat) : Nat := if p.2.2 = 2 then p.2.1 / 8 * 7 else p.2.1

/-- The number of channels that a CH_MASK populates. -/
def channelsOf (m : Nat) : Nat := ((List.range 8).filter (fun i => bitAt m i)).length

/-- The DRAM address of the segment table (R54). -/
def dramSegtab (b : List Byte) : Nat := (dramRegion b (leAt b 0xC 1)).1 + leAt b 0x10 8

/-- Is a DRAM body within its ranges, with its regions by R56 and the directory by R152. -/
def dramOk (b : List Byte) : Bool :=
  let gen := leAt b 0 1
  let rate (k : Nat) : Nat := leAt b (4 + 2 * k) 2
  let cap := channelsOf (leAt b 1 1) * 2 ^ leAt b 2 1 * 1073741824
  let used := (List.range 16).filter (fun r => (dramRegion b r).2.2 != 0)
  let seg := dramRegion b (leAt b 0xC 1)
  (gen == 1 || gen == 2) && [1, 3, 0xF, 0xFF].contains (leAt b 1 1) && decide (leAt b 2 1 ≤ 4) &&
    decide (leAt b 3 1 ≤ 2) &&
    (List.range 3).all (fun k => decide (1600 ≤ rate k) && decide (rate k ≤ if gen = 2 then 9600 else 6400)) &&
    decide (rate 2 ≤ rate 0) && decide (rate 2 ≤ rate 1) && decide (leAt b 0xC 1 ≤ 15) &&
    used.all (fun r => decide ((dramRegion b r).2.2 ≤ 2) && (dramRegion b r).1 % 1048576 == 0 &&
      decide ((dramRegion b r).1 + (dramRegion b r).2.1 ≤ cap)) &&
    used.all (fun r => used.all (fun q => r == q ||
      decide ((dramRegion b r).1 + (dramRegion b r).2.1 ≤ (dramRegion b q).1) ||
      decide ((dramRegion b q).1 + (dramRegion b q).2.1 ≤ (dramRegion b r).1))) &&
    seg.2.2 == 2 && decide (leAt b 0x10 8 + 536870912 + 134217728 ≤ usable seg)

/-- Do n bytes from an address lie in the usable part of a region of a type. -/
def dramFits (b : List Byte) (typ a n : Nat) : Bool :=
  (List.range 16).any (fun r => (dramRegion b r).2.2 == typ && decide ((dramRegion b r).1 ≤ a) &&
    decide (a + n ≤ (dramRegion b r).1 + usable (dramRegion b r)))

/-- The DRAM bytes that a record writes: address and data (R54). -/
def dramDest (dram : List Byte) (r : ImageRecord) : Option (Nat × List Byte) :=
  match r.typ with
  | 0x12 => some (dramSegtab dram + 32 * leAt r.body 0 4, r.body.drop 16)
  | 0x13 => some (leAt r.body 8 8, r.body.drop 16)
  | 0x14 => some (leAt r.body 0 8, r.body.drop 16)
  | _ => none

/-- Does a record obey the region rules (R54, R56): code 0x19 otherwise, which the model gives to a misaligned destination too, for which
the table of checks names no code (DESIGN CHOICE, notes/assumptions/98.md). -/
def dramRecOk (dram : List Byte) (r : ImageRecord) : Bool :=
  match r.typ with
  | 9 => dramOk r.body
  | 0x12 => dramFits dram 2 (dramSegtab dram + 32 * leAt r.body 0 4) (r.body.length - 16)
  | 0x13 => leAt r.body 8 8 % 8 == 0 && dramFits dram 2 (leAt r.body 8 8) (r.body.length - 16)
  | 0x14 => leAt r.body 0 8 % 64 == 0 && dramFits dram 1 (leAt r.body 0 8) (r.body.length - 16)
  | _ => true

/-! ### Checks made as a record arrives (R50, R58) -/

/-- What the loader knows when a record arrives: the header, the records before it, its image offset, the DRAM record
in use and, for a staged image, where it stands. -/
structure ArrivalCtx where
  hdr : List Byte
  recs : List ImageRecord
  offset : Nat
  dram : List Byte
  trained : Bool
  stage : Option (Nat × Nat)

/-- The code of the first check that an arriving record fails, without those of the DRAM; 0 when it passes. -/
def arrivalCode (x : ArrivalCtx) (r : ImageRecord) : Nat :=
  let n := x.recs.length + 1
  let last := (x.recs.getLast?.map (·.typ)).getD 0
  if hdrTotal x.hdr < x.offset + recSize r then 5
  else if r.crc.toNat ≠ crc32c (recHead r ++ r.body) then 6
  else if r.typ = 0 ∨ 0x16 < r.typ ∨ r.typ < last ∨ (r.typ = 0x16 ↔ n ≠ hdrCount x.hdr) then 7
  else if maxCount r.typ ≤ (ofType r.typ x.recs).length then 8
  else if r.length ≠ r.body.length ∨ !lengthOk r.typ r.body then 9
  else if r.flags ≠ 0 ∨ !allZero r.padding ∨ !reservedOk r.typ r.body then 0xA
  else 0

/-- The DRAM checks on an arriving record: 0x19 and 0x22 (R56, R58); 0 when it passes. -/
def arrivalDram (x : ArrivalCtx) (r : ImageRecord) : Nat :=
  let dest := dramDest x.dram r
  if !dramRecOk x.dram r || (dest.isSome && !x.trained) then 0x19
  else match dest, x.stage with
    | some (a, d), some (p, n) => if a < p + n ∧ p < a + d.length then 0x22 else 0
    | _, _ => 0

/-- The code at the end of the records: they must end at TOTAL_LEN and every required type must have come. -/
def endCode (hdr : List Byte) (recs : List ImageRecord) (offset : Nat) : Nat :=
  if offset ≠ hdrTotal hdr ∨ recs.length ≠ hdrCount hdr then 5
  else if !required.all (fun t => hasType t recs) then 8
  else 0

/-! ### Site map checks (R13, R17, R62, R65, R75) -/

/-- QUAD_SITE of quad q in a SITEMAP body. -/
def smQuad (b : List Byte) (q : Nat) : Nat := leAt b (2 * q) 2

/-- BUSMODE of channel c in a SITEMAP body. -/
def smBus (b : List Byte) (c : Nat) : Bool := bitAt (leAt b (0x200 + c / 8) 1) (c % 8)

/-- FLAGS of site x in a SITEMAP body. -/
def smFlags (b : List Byte) (x : Nat) : Nat := leAt b (0x280 + 16 * x) 2

/-- Is site x present in a SITEMAP body. -/
def smPresent (b : List Byte) (x : Nat) : Bool := bitAt (smFlags b x) 0

/-- HOME_DEV of site x. -/
def smHome (b : List Byte) (x : Nat) : Nat := leAt b (0x283 + 16 * x) 1

/-- DEV_NUM of a LINKS body. -/
def linksDev (l : List Byte) : Nat := leAt l 0 1

/-- The sites that own a quad of tile t, ascending (R63). -/
def smTileSites (b : List Byte) (t : Nat) : List Nat :=
  (List.range 256).filter (fun x => (List.range 32).any (fun i => smQuad b (32 * t + i) == x))

/-- Is a site entry valid (R17, R62, R75). -/
def siteEntryOk (b links : List Byte) (x : Nat) : Bool :=
  let o := 0x280 + 16 * x
  if !smPresent b x then zeros b o 16
  else
    (bitAt (smFlags b x) 3 || leAt b (o + 2) 1 == 0) && decide (smHome b x ≤ 31) &&
    (smHome b x == linksDev links ||
      (smFlags b x == 1 && leAt b (o + 2) 1 == 0 &&
        (List.range 8).any (fun p => leAt links (0x20 + 8 * p) 1 == 1 && leAt links (0x22 + 8 * p) 1 == smHome b x)))

/-- Is a SITEMAP body valid but for the slice count. -/
def sitemapOk (b links : List Byte) : Bool :=
  (List.range 256).all (fun q => smQuad b q == 0xFFFF || (decide (smQuad b q < 256) && smPresent b (smQuad b q))) &&
    (List.range 256).all (fun x => siteEntryOk b links x) &&
    (List.range 1024).all (fun c => !smBus b c || smQuad b (c / 4) != 0xFFFF)

/-! ### Waveforms, events, interrupts -/

/-- The entries that WAVEFORMS writes, in order: channel, slot, index and entry. -/
def waveWrites (rs : List ImageRecord) : List (Nat × Nat × Nat × WaveEntry) :=
  (ofType 5 rs).flatMap (fun r => ((waveBlocks (r.body.length + 1) r.body).getD []).flatMap (fun p =>
    (List.range (leAt p.1 4 1)).map (fun k =>
      (leAt p.1 0 2, leAt p.1 2 1, leAt p.1 3 1 + k, waveOfBytes ((p.2.drop (24 * k)).take 24)))))

/-- The waveform table that the records leave. -/
def waveTable (rs : List ImageRecord) : Tab (Option WaveEntry) :=
  (waveWrites rs).foldl (fun t w => Tab.set none t (waveKey w.1 w.2.1 w.2.2.1) (some w.2.2.2)) []

/-- An entry of a waveform table under construction. -/
def tableEntry (t : Tab (Option WaveEntry)) (c slot w : Nat) : WaveEntry :=
  (Tab.get none t (waveKey c slot w)).getD (defaultWave w)

/-- The period of a set of a site in the TIMESETS records; 0 undefined. -/
def setPeriod (rs : List ImageRecord) (x k : Nat) : Nat :=
  let b := bodyOf 4 rs
  match (List.range (b.length / 16)).find? (fun i => leAt b (16 * i) 1 == x && leAt b (16 * i + 1) 1 == k) with
  | some i => leAt b (16 * i + 8) 8
  | none => 0

/-- Are the WAVEFORMS records valid (R54, R117). -/
def wavesOk (rs : List ImageRecord) : Bool :=
  let sm := bodyOf 3 rs
  let heads := (ofType 5 rs).flatMap (fun r => ((waveBlocks (r.body.length + 1) r.body).getD []).map (·.1))
  let t := waveTable rs
  let slots := ((waveWrites rs).map (fun w => (w.1, w.2.1))).eraseDups
  heads.all (fun h => decide (leAt h 0 2 < 1024) && decide (leAt h 2 1 < 64) && decide (leAt h 3 1 < 16) &&
      decide (1 ≤ leAt h 4 1) && decide (leAt h 4 1 ≤ 16) && decide (leAt h 3 1 + leAt h 4 1 ≤ 16) && leAt h 5 1 == 24) &&
    slots.all (fun p =>
      let owner := smQuad sm (p.1 / 4)
      let per := if owner = 0xFFFF then 0 else setPeriod rs owner p.2
      (List.range 16).all (fun w =>
        (tableEntry t p.1 p.2 w).broken (slotTime (tableEntry t p.1 p.2)) per == 0))

/-- Is producer p enabled in the column of event channel c. -/
def evEnabled (b : List Byte) (c p : Nat) : Bool := bitAt (leAt b (192 * c + p / 8) 1) (p % 8)

/-- Does event channel c declare its loop with a lockout of at least 100 ns (R304). -/
def evDeclared (b : List Byte) (c : Nat) : Bool :=
  bitAt (leAt b (0xC000 + 16 * c + 8) 2) 0 && decide (100 ≤ leAt b (0xC000 + 16 * c + 4) 4)

/-- Is there a cycle of relays without a declared channel: the relays that stay when those without a successor are
removed 64 times (R304). -/
def evCyclic (b : List Byte) : Bool :=
  let nodes := (List.range 64).filter (fun r => !evDeclared b r)
  let edges := nodes.map (fun r => (r, nodes.filter (fun d => evEnabled b d (1392 + r))))
  let round (l : List (Nat × List Nat)) : List (Nat × List Nat) :=
    l.filter (fun p => p.2.any (fun d => l.any (fun q => q.1 == d)))
  !((List.range 64).foldl (fun l _ => round l) edges).isEmpty

/-- Are re-fire intervals and lockouts in range (R304). -/
def evIntervalsOk (b : List Byte) : Bool :=
  (List.range 256).all (fun c =>
    let o := 0xC000 + 16 * c
    let refire := leAt b o 4
    let lock := leAt b (o + 4) 4
    decide (2 ≤ refire) && decide (refire ≤ 1000000) &&
      (if bitAt (leAt b (o + 8) 2) 0 then decide (100 ≤ lock) && decide (lock ≤ 1000000) else lock == 0))

/-- Are the CHEVSEL codes valid (R298). -/
def chevselOk (b sm : List Byte) : Bool :=
  (List.range 1024).all (fun c => decide (leAt b (0xD030 + c) 1 ≤ 7) && !(smBus sm c && leAt b (0xD030 + c) 1 == 6))

/-- Is an INTERRUPTS body valid (R54). -/
def interruptsOk (b : List Byte) : Bool :=
  leAt b 0 4 == 0 &&
    (List.range 4096).all (fun n => !bitAt (leAt b (4 * n) 4) 17 || decide (bitsOf (leAt b (4 * n) 4) 24 5 ≤ 7)) &&
    (List.range 64).all (fun g => decide (leAt b (0x4000 + 4 * g) 4 ≤ 65536))

/-! ### Links, Lake, bus engines -/

/-- Is an agent number one of R355. -/
def agentOk (n : Nat) : Bool := n == 1 || n == 2 || n == 0x3F || (decide (0x20 ≤ n) && decide (n ≤ 0x2F))

/-- Is a LAKE body valid (R54). -/
def lakeOk (b : List Byte) : Bool :=
  (List.range 64).all (fun k => agentOk (leAt b (4 * k) 1) && decide (leAt b (4 * k + 1) 1 ≤ 2))

/-- The crossing leads of R20. -/
def baseLead (k : Nat) : Nat := if k = 0 then 128000 else if k = 1 then 960000 else 2240000

/-- Is a LINKS body valid (R54, R240); disc is DEVICE.DISCIPLINE. -/
def linksOk (b : List Byte) (disc : Nat) : Bool :=
  let role := leAt b 1 1
  let size := leAt b 2 1
  decide (leAt b 0 1 ≤ 31) && decide (role ≤ 1) && decide (1 ≤ size) && decide (size ≤ 32) &&
    (List.range 3).all (fun k => leAt b (8 + 8 * k) 8 == 0 || decide (baseLead k ≤ leAt b (8 + 8 * k) 8)) &&
    (List.range 8).all (fun p =>
      let o := 0x20 + 8 * p
      decide (leAt b o 1 ≤ 1) && (leAt b o 1 == 0 ||
        (decide (1 ≤ leAt b (o + 1) 1) && decide (leAt b (o + 1) 1 ≤ 7) &&
          (leAt b (o + 2) 1 == 0xFF || (decide (leAt b (o + 2) 1 ≤ 31) && decide (leAt b (o + 3) 1 ≤ 7)))))) &&
    (if size = 1 then role == 1 && disc != 3 else if role = 1 then decide (disc ≤ 2) else disc == 3)

/-- The channels that an engine takes (R54, R250). -/
def busChans (b : List Byte) (e : Nat) : List Nat :=
  let o := 32 * e
  if leAt b o 1 = 0 then []
  else (List.range (if leAt b o 1 = 6 then 12 else 1)).map (fun k => leAt b (o + 2) 2 + k)

/-- Are the PARAM bytes and rates of an engine in range (R253–R257). -/
def busParamOk (b : List Byte) (e : Nat) : Bool :=
  let o := 32 * e
  let p := o + 0x10
  let nom := leAt b (o + 8) 4
  let data := leAt b (o + 0xC) 4
  let mode := leAt b (p + 4) 1
  match leAt b o 1 with
  | 1 => decide (10000 ≤ nom) && decide (nom ≤ 1000000) &&
      (if bitAt mode 0 then decide (nom ≤ data) && decide (data ≤ 8000000) else data == 0) &&
      (if bitAt mode 1 then decide (nom ≤ leAt b (p + 8) 4) && decide (leAt b (p + 8) 4 ≤ 20000000) else leAt b (p + 8) 4 == 0) &&
      decide (128 ≤ leAt b p 1) && decide (leAt b p 1 ≤ 230) && decide (1 ≤ leAt b (p + 1) 1) && decide (leAt b (p + 1) 1 ≤ 128) &&
      decide (128 ≤ leAt b (p + 2) 1) && decide (leAt b (p + 2) 1 ≤ 230) && decide (1 ≤ leAt b (p + 3) 1) &&
      decide (leAt b (p + 3) 1 ≤ 128)
  | 2 | 3 => decide (1000 ≤ nom) && decide (nom ≤ 20000) && data == 0 && decide (13 ≤ leAt b p 1) && decide (leAt b p 1 ≤ 26) &&
      decide (1 ≤ leAt b (p + 1) 1) && decide (leAt b (p + 1) 1 ≤ 4) && decide (leAt b (p + 2) 1 ≤ 15) &&
      decide (leAt b (p + 3) 1 ≤ 15) && decide (100 ≤ leAt b (p + 4) 2) && decide (leAt b (p + 4) 2 ≤ 200)
  | 4 | 5 => nom == 0 && data == 0 && decide (3000 ≤ leAt b p 4) && decide (leAt b p 4 ≤ 90000) &&
      decide (1 ≤ leAt b (p + 4) 1) && decide (leAt b (p + 4) 1 ≤ 6) && decide (bitsOf (leAt b (p + 5) 1) 2 2 ≤ 2)
  | 6 => nom == 10000000 && data == 0 && decide (1 ≤ leAt b (p + 1) 1) && decide (1 ≤ leAt b (p + 2) 1) &&
      decide (1 ≤ leAt b (p + 4) 1) && decide (leAt b (p + 6) 2 ≤ 10000) &&
      decide (leAt b (p + 8) 2 ≤ 10000) && decide (leAt b (o + 6) 1 ≤ 31)
  | _ => leAt b o 1 == 0

/-- Is a BUSENG body valid (R54, R57, R250). -/
def busengOk (b sm : List Byte) : Bool :=
  (List.range 64).all (fun e =>
    let o := 32 * e
    let cs := busChans b e
    let first := leAt b (o + 2) 2
    busParamOk b e && cs.all (fun c => decide (c < 1024) && smBus sm c && smQuad sm (c / 4) == leAt b (o + 1) 1 &&
        (List.range e).all (fun d => !(busChans b d).contains c)) &&
      (leAt b o 1 == 0 || decide (leAt b (o + 4) 2 ≤ 60000)) &&
      (leAt b o 1 != 6 || (first % 4 == 0 && first / 128 == (first + 11) / 128)))

/-! ### Services (R280–R294) -/

/-- The CAN FD frame lengths from 8 to 64. -/
def fdLengths : List Nat := [8, 12, 16, 20, 24, 32, 48, 64]

/-- Is a UDS entry at offset o of a table valid (R287). -/
def udsEntryOk (b bus : List Byte) (site o : Nat) : Bool :=
  let e := leAt b o 1
  let st := leAt b (o + 0xD) 1
  decide (e < 64) && (leAt bus (32 * e) 1 == 1 || leAt bus (32 * e) 1 == 6) &&
    (site == 0xFFFF || leAt bus (32 * e + 1) 1 == site) &&
    decide (1 ≤ leAt b (o + 1) 1) && decide (leAt b (o + 1) 1 ≤ 3) && decide (leAt b (o + 2) 1 ≤ 5) &&
    (decide (st ≤ 0x7F) || (decide (0xF1 ≤ st) && decide (st ≤ 0xF9))) && fdLengths.contains (leAt b (o + 0x10) 1) &&
    decide (1 ≤ leAt b (o + 0x12) 2) && decide (1 ≤ leAt b (o + 0x14) 2) && decide (100 ≤ leAt b (o + 0x16) 2) &&
    decide (1 ≤ leAt b (o + 0x18) 2) && decide (3 ≤ leAt b (o + 0x1A) 2)

/-- May a table name this bin (R284). -/
def binOk (n : Nat) : Bool := decide (n ≤ 1020)

/-- Is a services table valid (R280, R283, R284, R286, R287, R290, R294). -/
def svcTableOk (v : SvcTable) (bus : List Byte) : Bool :=
  let b := v.data
  let n := b.length
  match v.typ with
  | 1 =>
    let k := leAt b 0 2
    decide (1 ≤ k) && decide (k ≤ 4096) && n == 32 + 64 * k && decide (leAt b 2 2 < k) &&
      decide (1 ≤ leAt b 0xC 2) && decide (leAt b 0xC 2 ≤ 60000) &&
      (List.range k).all (fun i =>
        let o := 32 + 64 * i
        (leAt b (o + 4) 2 == 0xFFFF || decide (leAt b (o + 4) 2 < k)) &&
          (leAt b (o + 6) 2 == 0xFFFF || decide (leAt b (o + 6) 2 < k)) && binOk (leAt b (o + 8) 2) &&
          binOk (leAt b (o + 0xA) 2) && decide (leAt b (o + 0xE) 2 ≤ 256))
  | 2 => n % 32 == 0 && (List.range (n / 32)).all (fun i =>
      decide (leAt b (32 * i) 1 ≤ 4) && binOk (leAt b (32 * i + 6) 2) &&
        (leAt b (32 * i) 1 != 1 || (decide (leAt b (32 * i + 1) 1 ≤ 3) && decide (leAt b (32 * i + 2) 2 < 1024))) &&
        (leAt b (32 * i) 1 != 2 || decide (leAt b (32 * i + 1) 1 ≤ 15)))
  | 3 => n == 4096 && [1021, 1022, 1023].all (fun k => leAt b (4 * k) 1 % 2 == 0)
  | 4 => n == 40
  | 5 => n % 64 == 0 && decide (n ≤ 4096) && (List.range (n / 64)).all (fun i => udsEntryOk b bus v.site (64 * i))
  | 6 => n % 16 == 0 && (List.range (n / 16)).all (fun i =>
      let o := 16 * i
      leAt b o 1 % 2 == 1 && decide (leAt b o 1 ≤ 0x7D) && decide (leAt b (o + 1) 1 ≤ 2) && decide (leAt b (o + 2) 1 ≤ 7) &&
        (leAt b (o + 1) 1 == 0 || (decide (1 ≤ leAt b (o + 3) 1) &&
          decide (leAt b (o + 3) 1 ≤ if leAt b (o + 1) 1 = 1 then 32 else 16))) && decide (leAt b (o + 4) 1 ≤ 8))
  | 7 =>
    let k := leAt b 0 2
    decide (2 ≤ k) && decide (k ≤ 4096) && n == 32 + 8 * k && decide (leAt b 4 1 < 64) && decide (leAt b 5 1 < 64) &&
      decide (leAt b 8 4 < 2 ^ 24 - 1) && (List.range k).all (fun i =>
        let o := 32 + 8 * i
        decide (leAt b o 1 ≤ 31) && decide (leAt b (o + 2) 2 < 1024) &&
          (leAt b (o + 4) 2 == 0xFFFF || decide (leAt b (o + 4) 2 ≤ 4094)))
  | _ => false

/-- Every table of the SERVICES records. -/
def allTables (rs : List ImageRecord) : List SvcTable :=
  (ofType 0xD rs).flatMap (fun r => (svcTables (r.body.length + 1) r.body).getD [])

/-- Are the SERVICES records valid: each table, its site, and one test plan at most for a site (R54, R280). -/
def servicesOk (rs : List ImageRecord) : Bool :=
  let sm := bodyOf 3 rs
  let ts := allTables rs
  ts.all (fun v => svcTableOk v (bodyOf 0xC rs) && (v.site == 0xFFFF || (decide (v.site < 256) && smPresent sm v.site))) &&
    (List.range 256).all (fun x =>
      decide ((ts.filter (fun v => v.typ == 1 && (v.site == x || v.site == 0xFFFF))).length ≤ 1))

/-! ### Programs (R152, R153) -/

/-- Owner of Lake bank k in a LAKE body; PF0 when the record is absent (R50). -/
def lakeOwner (b : List Byte) (k : Nat) : Nat := if b.isEmpty then 1 else leAt b (4 * k) 1

/-- Do n bytes from a Lake offset lie in banks that the loader owns. -/
def hotFits (lake : List Byte) (a n : Nat) : Bool :=
  decide (a + n ≤ 64 * 524288) &&
    (List.range ((a + n - 1) / 524288 + 1 - a / 524288)).all (fun k => lakeOwner lake (a / 524288 + k) == 0x3F)

/-- The Lake offset of a hot program of n bytes placed at or after a cursor. -/
def hotPlace (lake : List Byte) (cur n : Nat) : Option Nat :=
  (cur :: ((List.range 64).map (· * 524288)).filter (fun a => decide (cur < a))).find? (fun a => hotFits lake a n)

/-- The Lake offsets of the hot programs in record order; none where they do not fit (R153). -/
def hotOffsets (lake : List Byte) : Nat → List ImageRecord → Option (List Nat)
  | _, [] => some []
  | cur, r :: rs =>
    match hotPlace lake cur (8 * leAt r.body 4 4) with
    | none => none
    | some a => (hotOffsets lake (a + 8 * leAt r.body 4 4) rs).map (fun l => a :: l)

/-- The hot STEP_PROGRAMS records. -/
def hotRecs (rs : List ImageRecord) : List ImageRecord := (ofType 0x13 rs).filter (fun r => bitAt (leAt r.body 1 1) 0)

/-- Are the STEP_PROGRAMS records valid (R54, R153). -/
def programsOk (rs : List ImageRecord) : Bool :=
  let sm := bodyOf 3 rs
  let ps := ofType 0x13 rs
  ps.all (fun r => decide (1 ≤ leAt r.body 4 4) && decide (leAt r.body 4 4 ≤ 1048576) &&
      smPresent sm (leAt r.body 0 1) && smHome sm (leAt r.body 0 1) == linksDev (bodyOf 0xB rs)) &&
    decide ((ps.map (fun r => (leAt r.body 0 1, leAt r.body 2 2))).Nodup) &&
    (hotOffsets (bodyOf 0xA rs) 0 (hotRecs rs)).isSome

/-! ### CHECKING (R58) -/

/-- What the checks know of the device. -/
structure DeviceFacts where
  order : Nat
  rev : Nat
  keyProg : Bool
  keyHash : List Byte
  secver : Nat

/-- The image bytes that its hash covers (R51). -/
def hashedBytes (hdr : List Byte) (rs : List ImageRecord) : List Byte :=
  hdr ++ (rs.filter (fun r => r.typ != 0x16)).flatMap recBytes

/-- The key entry that signs an image, as its bytes. -/
def signingKey (rs : List ImageRecord) : Option (List Byte) :=
  let k := bodyOf 0x15 rs
  let id := leAt (bodyOf 0x16 rs) 0 2
  ((List.range (k.length / 104)).map (fun i => (k.drop (104 * i)).take 104)).find? (fun e => leAt e 0 2 == id)

/-- The code of the key checks (R51, R52): 0x0B, or 0. -/
def keyCode (d : DeviceFacts) (rs : List ImageRecord) : Nat :=
  let k := bodyOf 0x15 rs
  let es := (List.range (k.length / 104)).map (fun i => (k.drop (104 * i)).take 104)
  if !d.keyProg || !es.all (fun e => decide (leAt e 0 2 ≤ 3) && leAt e 2 2 == 1) ||
      !decide ((es.map (fun e => leAt e 0 2)).Nodup) then 0xB
  else match signingKey rs with
    | none => 0xB
    | some e => if Config.sha384 ((e.drop 8).take 96) = d.keyHash then 0 else 0xB

/-- The prime of the field of P-384, its coefficient b and the order of its group, as FIPS 186-5 has them (PRESUMED,
notes/assumptions/103.md). -/
def p384 : Nat := 2 ^ 384 - 2 ^ 128 - 2 ^ 96 + 2 ^ 32 - 1

/-- The coefficient b of P-384. -/
def p384b : Nat :=
  0xB3312FA7E23EE7E4988E056BE3F82D19181D9C6EFE8141120314088F5013875AC656398D8A2ED19D2A85C8EDD3EC2AEF

/-- The order of P-384. -/
def p384n : Nat :=
  0xFFFFFFFFFFFFFFFFFFFFFFFFFFFFFFFFFFFFFFFFFFFFFFFFC7634D81F4372DDF581A0DB248B0A77AECEC196ACCC52973

/-- Is a key, Qx then Qy, a valid point of P-384 (R51): both below the prime, with y² = x³ - 3x + b. -/
def pointOk (key : List Byte) : Bool :=
  let x := ofBytes (key.take 48)
  let y := ofBytes ((key.drop 48).take 48)
  decide (x < p384) && decide (y < p384) && y * y % p384 == (x * x * x + (p384 - 3) * x + p384b) % p384

/-- Does a part of a signature lie in [1, n - 1] (R51). -/
def scalarOk (v : List Byte) : Bool := ofBytes v != 0 && decide (ofBytes v < p384n)

/-- Does the image signature verify (R51). -/
def signatureOk (hdr : List Byte) (rs : List ImageRecord) : Bool :=
  let g := bodyOf 0x16 rs
  leAt g 2 2 == 1 && scalarOk ((g.drop 8).take 48) && scalarOk ((g.drop 0x38).take 48) && (match signingKey rs with
    | none => false
    | some e => pointOk ((e.drop 8).take 96) && Config.ecdsaVerify ((e.drop 8).take 96) (Config.sha384 (hashedBytes hdr rs)) ((g.drop 8).take 48)
        ((g.drop 0x38).take 48))

/-- Does the firmware signature verify (R53). -/
def firmwareOk (rs : List ImageRecord) : Bool :=
  let b := bodyOf 0x11 rs
  !hasType 0x11 rs || Config.ecdsaVerify Config.romKey (Config.sha384 (b.drop 112)) ((b.drop 0x10).take 48)
    ((b.drop 0x40).take 48)

/-- Is the DEVICE body valid for this device (R54). -/
def deviceOk (d : DeviceFacts) (b : List Byte) : Bool :=
  leAt b 0 2 == 0x1024 && decide (leAt b 2 1 ≤ d.rev) && bitAt (leAt b 3 1) d.order && decide (leAt b 4 1 ≤ 8) &&
    decide (leAt b 6 1 ≤ 1) && decide (leAt b 7 1 ≤ 3)

/-- Is the PINMAP body in range (R54). -/
def pinmapOk (b : List Byte) : Bool :=
  (List.range 1024).all (fun c =>
    let o := 16 * c
    decide (leAt b (o + 1) 1 ≤ 2) && decide (leAt b (o + 4) 2 ≤ 60000) && decide (leAt b (o + 6) 2 ≤ 60000) &&
      decide (leAt b (o + 8) 2 ≤ leAt b (o + 6) 2))

/-- Are the TIMESETS valid (R54). -/
def timesetsOk (b sm : List Byte) : Bool :=
  let l := List.range (b.length / 16)
  l.all (fun i => decide (leAt b (16 * i + 1) 1 < 64) && smPresent sm (leAt b (16 * i) 1) &&
      decide (6400 ≤ leAt b (16 * i + 8) 8) && decide (leAt b (16 * i + 8) 8 ≤ 80000000000)) &&
    decide ((l.map (fun i => leAt b (16 * i) 2)).Nodup)

/-- Is the SCHED body in range (R54). -/
def schedOk (b : List Byte) : Bool :=
  let t := leAt b 0x10 4
  (List.range 16).all (fun k => decide (leAt b k 1 ≤ 1)) && decide (250 ≤ t) && decide (t ≤ 16000) && t % 250 == 0

/-- The cross-record checks in the order of their codes, each with the record type it names. -/
def crossChecks (d : DeviceFacts) (rs : List ImageRecord) : List (Nat × Nat × Bool) :=
  let sm := bodyOf 3 rs
  let ev := bodyOf 6 rs
  let links := bodyOf 0xB rs
  [ (0xF, 1, deviceOk d (bodyOf 1 rs)),
    (0x10, 2, pinmapOk (bodyOf 2 rs)),
    (0x11, 3, (List.range 8).all (fun t => decide ((smTileSites sm t).length ≤ 32))),
    (0x12, 3, sitemapOk sm links),
    (0x13, 4, timesetsOk (bodyOf 4 rs) sm),
    (0x14, 5, wavesOk rs),
    (0x15, 6, !hasType 6 rs || !evCyclic ev),
    (0x16, 6, !hasType 6 rs || evIntervalsOk ev),
    (0x17, 7, !hasType 7 rs || interruptsOk (bodyOf 7 rs)),
    (0x1A, 0xA, !hasType 0xA rs || lakeOk (bodyOf 0xA rs)),
    (0x1B, 0xB, linksOk links (leAt (bodyOf 1 rs) 7 1)),
    (0x1C, 0xC, !hasType 0xC rs || busengOk (bodyOf 0xC rs) sm),
    (0x1D, 0xD, servicesOk rs),
    (0x1E, 0xE, !hasType 0xE rs || schedOk (bodyOf 0xE rs)),
    (0x20, 0x12, (ofType 0x12 rs).all (fun r => decide (leAt r.body 0 4 + leAt r.body 4 4 ≤ 2 ^ 24))),
    (0x21, 0x13, programsOk rs),
    (0x24, 6, !hasType 6 rs || chevselOk ev sm) ]

/-- The first check of CHECKING that an image fails, in the order of R58, with the record type it names; 0 when it
passes. -/
def checkCode (d : DeviceFacts) (hdr : List Byte) (rs : List ImageRecord) : Nat × Nat :=
  if keyCode d rs ≠ 0 then (keyCode d rs, 0x15)
  else if hdrSecver hdr < d.secver then (0xD, 0)
  else if !signatureOk hdr rs then (0xC, 0x16)
  else if !firmwareOk rs then (0xE, 0x11)
  else match (crossChecks d rs).find? (fun c => !c.2.2) with
    | some c => (c.1, c.2.1)
    | none => (0, 0)

/-- The record index and image offset of the first record of a type; 0xFFFF and 0 for the header. -/
def whereType (t : Nat) : Nat → Nat → List ImageRecord → Nat × Nat
  | _, _, [] => (0xFFFF, 0)
  | i, o, r :: rs => if r.typ = t then (i, o) else whereType t (i + 1) (o + recSize r) rs

/-- The records with only the first k of a type. -/
def keepFirst (t : Nat) : Nat → List ImageRecord → List ImageRecord
  | _, [] => []
  | k, r :: rs =>
    if r.typ != t then r :: keepFirst t k rs
    else match k with
      | 0 => keepFirst t 0 rs
      | n + 1 => r :: keepFirst t n rs

/-- Does an image with only the first k records of a type pass the check of a code. -/
def passesTo (d : DeviceFacts) (rs : List ImageRecord) (code t k : Nat) : Bool :=
  match (crossChecks d (keepFirst t k rs)).find? (fun c => c.1 == code) with
  | some c => c.2.2
  | none => true

/-- The failing record of a cross-record check among those of its type (R49): the one from which on the check fails. -/
def failIndex (d : DeviceFacts) (rs : List ImageRecord) (code t : Nat) : Nat :=
  ((List.range (ofType t rs).length).reverse.find? (fun k => passesTo d rs code t k)).getD 0

/-- The record index and image offset of record k of a type. -/
def whereNth (t : Nat) : Nat → Nat → Nat → List ImageRecord → Nat × Nat
  | _, _, _, [] => (0xFFFF, 0)
  | k, i, o, r :: rs =>
    if r.typ != t then whereNth t k (i + 1) (o + recSize r) rs
    else match k with
      | 0 => (i, o)
      | n + 1 => whereNth t n (i + 1) (o + recSize r) rs

/-- Where a check of CHECKING failed: its code with the type that it names. -/
def whereCheck (d : DeviceFacts) (rs : List ImageRecord) (c : Nat × Nat) : Nat × Nat :=
  if (ofType c.2 rs).length ≤ 1 then whereType c.2 0 64 rs else whereNth c.2 (failIndex d rs c.1 c.2) 0 64 rs

/-- A record as its bytes spell it: header, body and padding (R50). -/
def parseRecord (b : List Byte) : ImageRecord :=
  let n := leAt b 4 4
  { typ := leAt b 0 2, flags := leAt b 2 2, length := n, crc := BitVec.ofNat 32 (leAt b 8 4), body := (b.drop 12).take n,
    padding := (b.drop (12 + n)).take (alignUp (12 + n) 16 - (12 + n)) }

/-- The whole pre-check of an image without the checks 0x18, 0x19 and 0x22 (R61): its code, failing record and
offset. -/
def precheck (d : DeviceFacts) (hdr : List Byte) (len : Nat) (rs : List ImageRecord) : Nat × Nat × Nat :=
  if hdrCode hdr len ≠ 0 then (hdrCode hdr len, 0xFFFF, 0)
  else
    let go := rs.foldl (fun (a : (Nat × Nat × Nat) × List ImageRecord × Nat) r =>
      if a.1.1 ≠ 0 then a
      else
        let c := arrivalCode ⟨hdr, a.2.1, a.2.2, [], true, none⟩ r
        if c ≠ 0 then ((c, a.2.1.length, a.2.2), a.2) else (a.1, a.2.1 ++ [r], a.2.2 + recSize r)) ((0, 0, 0), [], 64)
    if go.1.1 ≠ 0 then go.1
    else
      let c := endCode hdr rs go.2.2
      if c ≠ 0 then (c, rs.length - 1, go.2.2)
      else
        let k := checkCode d hdr rs
        (k.1, whereCheck d rs k)

end Sys2Proof.Machine
end

