-- ==== Sys2Proof/Machine/Mailbox.lean ====
section
/-! DEFINITION. Mailboxes (spec/17_host_interface.md, R352–R357): their sides, posting, emptying, and the reset of a function. -/

namespace Sys2Proof.Machine

/-- Is an agent a service core. -/
def Agent.isCore : Agent → Bool
  | .core _ => true
  | _ => false

/-- Is an agent on the host side of mailbox n: PF1, and PF0 for mailboxes 16–63 (R352). -/
def mbxHost (n : Nat) (a : Agent) : Bool := a == .pf1 || (a == .pf0 && decide (16 ≤ n))

/-- Does an agent reach the registers of mailbox n (R352). -/
def mbxOpen (n : Nat) (a : Agent) : Bool := Agent.isCore a || mbxHost n a

/-- Is an agent on the sender side of mailbox n: the firmware for an even one, the host for an odd one (R352). -/
def mbxSends (n : Nat) (a : Agent) : Bool := if n % 2 = 0 then Agent.isCore a else mbxHost n a

/-- Is an agent on the receiver side of mailbox n. -/
def mbxTakes (n : Nat) (a : Agent) : Bool := if n % 2 = 0 then mbxHost n a else Agent.isCore a

/-- A write from the wrong side is ignored and sets SIDE_ERR (R353). -/
def State.mbxSideErr (s : State) (n : Nat) : State :=
  (s.set F.MBX_STAT.SIDE_ERR n 1).raiseC F.MBX_FAULT_STAT.SIDE_ERR 0

/-- Was a function reset at the present DT. -/
def State.resetNowBy (s : State) (agent : Nat) : Bool :=
  (agent == 1 && (noteAt s.tick F.PCI_FAULT_STAT.FLR0.id 0).isSome) || (agent == 2 && (noteAt s.tick F.PCI_FAULT_STAT.FLR1.id 0).isSome)

/-- A message is posted in an EMPTY mailbox by an agent number, with its code; one whose sender is reset at the same DT is marked
ORPHAN (R353, R356). -/
def State.mbxPost (s : State) (n agent code : Nat) : State :=
  let s1 := ((s.set F.MBX_STAT.FULL n 1).set F.MBX_CODE.VALUE n code).set F.MBX_STAT.SENDER n agent
  ((s1.set F.MBX_POST_DT.DT n s.now).set F.MBX_STAT.ORPHAN n (ofBool (s.resetNowBy agent))).set F.MBX_STAT.DISCARD n 0

/-- A FULL mailbox becomes EMPTY, and its emptied source is raised (R351, R353). -/
def State.mbxEmpty (s : State) (n : Nat) : State :=
  ((s.set F.MBX_STAT.FULL n 0).set F.MBX_TAKE_DT.DT n s.now).pulse (1913 + n)

/-- A write of a data word (R353). -/
def State.mbxData (s : State) (a : Agent) (n w v : Nat) : State :=
  if !mbxOpen n a then s
  else if !mbxSends n a then s.mbxSideErr n
  else if s.flag F.MBX_STAT.FULL n then s.set F.MBX_STAT.WR_FULL n 1
  else s.set F.MBX_DATA.DATA (16 * n + w) v

/-- A write of the doorbell; of two at one DT the one from the lower agent number is posted (R353). -/
def State.mbxBell (s : State) (a : Agent) (n v : Nat) : State :=
  if !mbxOpen n a then s
  else if !mbxSends n a then s.mbxSideErr n
  else if s.flag F.MBX_STAT.FULL n then
    (if s.get F.MBX_POST_DT.DT n == s.now && decide (a.num < s.get F.MBX_STAT.SENDER n) then s.mbxPost n a.num v else s).set
      F.MBX_STAT.DB_REJ n 1
  else s.mbxPost n a.num v

/-- What an FLR of a function does to mailbox n (R356): a message that the function sent is marked, one that it should take is
emptied with DISCARD set, and its lock is released. -/
def State.mbxReset (s : State) (f : Func) (n : Nat) : State :=
  let num := f.agent.num
  let full := s.flag F.MBX_STAT.FULL n
  let s1 := if full && s.get F.MBX_STAT.SENDER n == num then s.set F.MBX_STAT.ORPHAN n 1 else s
  let s2 := if full && mbxTakes n f.agent && (f == .pf1) == decide (n < 16) then
    (s1.mbxEmpty n).set F.MBX_STAT.DISCARD n 1 else s1
  if s2.get F.MBX_LOCK.OWNER n = num then s2.set F.MBX_LOCK.OWNER n 0 else s2

end Sys2Proof.Machine
end

