-- ==== Sys2Proof/Machine/Flags.lean ====
section
/-! DEFINITION. The flags of a step context (R154, R155) and the arithmetic of R156. -/

namespace Sys2Proof.Machine

/-- Does a condition hold for flags Z, L, T and a fail total; none where the code is invalid (R154). -/
def condHolds (c : Nat) (z l t : Bool) (fails : Nat) : Option Bool :=
  match c with
  | 0 => some true
  | 1 => some z
  | 2 => some !z
  | 3 => some l
  | 4 => some !l
  | 5 => some t
  | 6 => some !t
  | 7 => some (fails != 0)
  | 8 => some (fails == 0)
  | _ => none

/-- The flags that a comparison sets: Z where the values are equal, L where the first is below the second, unsigned
(R155). -/
def State.setCompare (s : State) (x a b : Nat) : State :=
  (s.set F.MDR_STEP_STAT.Z x (ofBool (a == b))).set F.MDR_STEP_STAT.L x (ofBool (decide (a < b)))

/-- Flag T, set by a wait's end (R155). -/
def State.setT (s : State) (x : Nat) (t : Bool) : State := s.set F.MDR_STEP_STAT.T x (ofBool t)

/-- A sum, and whether it saturated (R156). -/
def addG (wrap : Bool) (a b : Nat) : Nat × Bool :=
  if wrap then (wrap64 (a + b), false) else if 2 ^ 64 ≤ a + b then (2 ^ 64 - 1, true) else (a + b, false)

/-- A difference, and whether it saturated (R156). -/
def subG (wrap : Bool) (a b : Nat) : Nat × Bool :=
  if wrap then (wrap64 (a + 2 ^ 64 - b % 2 ^ 64), false) else if a < b then (0, true) else (a - b, false)

end Sys2Proof.Machine
end

