-- ==== Sys2Proof/Machine/Operands.lean ====
section
/-! DEFINITION. The operand forms of step words (R154, R157): fields of the 64-bit word and the bits that an opcode leaves
unused, which must be 0. -/

namespace Sys2Proof.Machine

/-- The opcode of a step word (R154). -/
def opcodeOf (w : Nat) : Nat := bitsOf w 56 8

/-- The condition of a step word (R154). -/
def condOf (w : Nat) : Nat := bitsOf w 52 4

/-- Flag Fk of a step word (R154). -/
def flagOf (w k : Nat) : Bool := bitAt w (48 + k)

/-- The low general register that a step word names, in bits [3:0]. -/
def regA (w : Nat) : Nat := bitsOf w 0 4

/-- The second general register that a step word names, in bits [7:4]. -/
def regB (w : Nat) : Nat := bitsOf w 4 4

/-- The 40-bit immediate or time in bits [47:8]. -/
def imm40 (w : Nat) : Nat := bitsOf w 8 40

/-- Are the flag bits outside a mask, and the operand bits outside a mask, all 0 (R154). -/
def unusedZero (w flags operand : Nat) : Bool :=
  bitsOf w 48 4 &&& (15 ^^^ flags) == 0 && bitsOf w 0 48 &&& ((2 ^ 48 - 1) ^^^ operand) == 0

/-- The mask of operand bits [hi:lo]. -/
def fieldMask (hi lo : Nat) : Nat := (2 ^ (hi + 1 - lo) - 1) * 2 ^ lo

/-- The flag bits and the operand bits that each opcode of R157 uses; none for an opcode that is not in the table. -/
def usedBits (op : Nat) : Option (Nat × Nat) :=
  match op with
  | 0x00 => some (0, 0)
  | 0x01 => some (1, fieldMask 47 0)
  | 0x02 => some (0, fieldMask 23 0)
  | 0x03 => some (1, fieldMask 5 0 + fieldMask 13 8)
  | 0x04 => some (1, fieldMask 9 0)
  | 0x05 => some (1, fieldMask 9 0 + fieldMask 47 16)
  | 0x06 => some (0, fieldMask 15 0)
  | 0x10 => some (3, fieldMask 2 0 + fieldMask 47 8)
  | 0x11 => some (1, fieldMask 3 0 + fieldMask 47 8)
  | 0x12 => some (0, fieldMask 47 8)
  | 0x13 => some (0, fieldMask 5 0 + fieldMask 47 8)
  | 0x14 => some (0, fieldMask 47 8)
  | 0x20 => some (0, fieldMask 19 0)
  | 0x21 => some (0, fieldMask 19 0)
  | 0x22 => some (1, 0)
  | 0x23 => some (0, fieldMask 3 0 + fieldMask 27 8)
  | 0x30 => some (2, fieldMask 3 0 + fieldMask 47 8)
  | 0x31 => some (3, fieldMask 3 0 + fieldMask 47 8)
  | 0x32 => some (1, fieldMask 7 0)
  | 0x33 => some (1, fieldMask 7 0)
  | 0x34 => some (0, fieldMask 7 0)
  | 0x35 => some (0, fieldMask 3 0 + fieldMask 15 8)
  | 0x36 => some (0, fieldMask 3 0 + fieldMask 47 8)
  | 0x37 => some (0, fieldMask 7 0)
  | 0x40 => some (0, fieldMask 9 0)
  | 0x41 => some (0, fieldMask 13 0 + fieldMask 47 16)
  | 0x42 => some (3, fieldMask 5 0 + fieldMask 47 8)
  | 0x43 => some (1, fieldMask 9 0 + fieldMask 47 16)
  | 0x7F => some (0, 0)
  | _ => none

/-- Does a step word keep the rule of R154 on unused bits. -/
def formOk (w : Nat) : Bool :=
  match usedBits (opcodeOf w) with
  | some (f, o) => unusedZero w f o
  | none => false

end Sys2Proof.Machine
end

