-- ==== Sys2Proof/Machine/StepEngine.lean ====
section
/-! DEFINITION. The step engine (spec/08_step_engine.md): step words, boundaries, every opcode of R157, waits, traps and
barriers. -/

namespace Sys2Proof.Machine

/-! ### Registers and position (R155) -/

/-- General register Gn of a context. -/
def State.gr (s : State) (x n : Nat) : Nat := s.get F.MDR_STEP_G.VALUE (16 * x + n)

/-- General register Gn of a context written. -/
def State.setGr (s : State) (x n v : Nat) : State := s.set F.MDR_STEP_G.VALUE (16 * x + n) v

/-- PC of a context. -/
def State.stepPc (s : State) (x : Nat) : Nat := s.get F.MDR_STEP_PC.PC x

/-- The line of step words that holds a word is held by a context (R153). -/
def State.lineHeld (s : State) (x pc : Nat) : Option (List Nat) :=
  ((s.ctx x).lines.find? (fun p => p.1 == pc / 8)).map (fun p => p.2)

/-- The step word at PC, where its line is held and good. -/
def State.stepWord (s : State) (x : Nat) : Option Nat :=
  match s.lineHeld x (s.stepPc x) with
  | some l => l[s.stepPc x % 8]?
  | none => none

/-- A context stands at its next boundary: it executes, or waits for its step word. -/
def State.atPc (s : State) (x pc : Nat) : State :=
  let s1 := (s.set F.MDR_STEP_PC.PC x pc).setCtx x { s.ctx x with wait := none }
  s1.set F.MDR_STEP_STAT.STATE x (if (s1.lineHeld x pc).isSome then 1 else 4)

/-- A context goes on to the next instruction. -/
def State.advance (s : State) (x : Nat) : State := s.atPc x (s.stepPc x + 1)

/-- A context breaks a rule (R158): it stops at the faulting boundary and its site faults. -/
def State.stepFault (s : State) (x code : Nat) : State :=
  let s1 := (s.set F.MDR_STEP_FAULT.CODE x code).set F.MDR_STEP_FAULT.PC x (s.stepPc x)
  let s2 := s1.faultSite 14 F.MDR_STEP_FAULT_STAT.CTX_FAULT 0 x 6
  let s3 := s2.stopCtx x
  (s3.setCtx x { s3.ctx x with faultPend := false }).set F.MDR_STEP_STAT.STATE x 5

/-- Has a fail stop put the site in STOPPING before the context's next boundary, which is to settle it (R145, R170). -/
def State.ctxEnds (s : State) (x : Nat) : Bool := s.siteState x == 5 && (s.site x).ctxStop

/-- Does a context run: its site is ARMED, RUNNING or HOLD and it has not stopped. -/
def State.ctxRuns (s : State) (x : Nat) : Bool :=
  let st := s.siteState x
  let c := s.get F.MDR_STEP_STAT.STATE x
  (st == 2 || st == 3 || st == 4) && c != 0 && c != 5

/-- Does something come before the next instruction at a boundary: a site fault, an abort or a completion, a trap (R169). -/
def State.preceded (s : State) (x : Nat) : Bool :=
  (s.ctx x).faultPend || (s.site x).abortPend || (s.site x).ctxStop ||
    (s.flag F.MDR_STEP_STAT.TRAP_PEND x && s.flag F.MDR_STEP_TRAP.EN x && !s.flag F.MDR_STEP_STAT.TRAP_ACTIVE x)

/-- The condition of a step word as the context's flags and the fail total settle it (R154). -/
def State.stepCond (s : State) (x w : Nat) : Option Bool :=
  condHolds (condOf w) (s.flag F.MDR_STEP_STAT.Z x) (s.flag F.MDR_STEP_STAT.L x) (s.flag F.MDR_STEP_STAT.T x)
    (s.get F.SEP_CAP_FAILS.COUNT x)

/-- An instruction at its boundary: the word at PC has the opcode; one whose condition does not hold has no effect, one
with an unused bit set faults (R154, R158). -/
def State.instr (s : State) (x op : Nat) (f : Nat → State) : State :=
  if !s.ctxRuns x || s.preceded x then s
  else match s.stepWord x with
    | some w =>
      if opcodeOf w != op then s
      else match s.stepCond x w with
        | none => s
        | some false => s.advance x
        | some true => if formOk w then f w else s.stepFault x 3
    | none => s

/-- A wait of an instruction in progress at a context. -/
def State.waiting (s : State) (x op : Nat) : Option WaitSt :=
  match (s.ctx x).wait with
  | some w => if w.op = op then some w else none
  | none => none

/-- A context waits inside an instruction (R159, R160), with its timeout in ticks; 0 is none. -/
def State.beginWait (s : State) (x op tmo aux : Nat) : State :=
  let lim := if tmo = 0 then none else some (wrap64 (s.now + tmo))
  (s.setCtx x { s.ctx x with wait := some ⟨op, s.now, lim, aux, false⟩ }).set F.MDR_STEP_STAT.STATE x 2

/-- A wait ends other than by timeout (R155). -/
def State.endWait (s : State) (x : Nat) : State := (s.setT x false).advance x

/-! ### Fetch and boundaries (R153, R168–R171) -/

/-- A line of step words is read from Lake or DRAM. -/
def State.readLine (s : State) (x n : Nat) : List Nat :=
  let c := s.ctx x
  (List.range 8).map (fun k => s.word c.hot (c.base + 8 * (8 * n + k)) 8)

/-- STEP_WORD_FETCH (R153): the line at PC arrives, or the one after it. An uncorrectable error leaves the line bad, and the
context faults where it reaches it. -/
def execStepWordFetch (e : Nat) (x : Site) (ecc : Ecc) (s : State) : Out :=
  let s := s.elapse e
  let x := x.val
  let pc := s.stepPc x
  let n := if (s.lineHeld x pc).isSome then pc / 8 + 1 else pc / 8
  if !s.ctxRuns x || (s.lineHeld x (8 * n)).isSome || (s.ctx x).words ≤ 8 * n then .next s
  else
    let c := s.ctx x
    let ecc := s.eccAt c.hot (c.base + 64 * n) 64 ecc
    let line := if ecc = .uncorrectable then [] else s.readLine x n
    let kept := c.lines.filter (fun p => p.1 == pc / 8)
    let s1 := s.setCtx x { c with lines := kept ++ [(n, line)] }
    let s2 := (if ecc = .corrected then s1.raiseC F.MDR_STEP_FAULT_STAT.WORD_CORR 0 else s1).eccRaise c.hot ecc
    .next (if s2.get F.MDR_STEP_STAT.STATE x == 4 && (s2.lineHeld x pc).isSome then s2.set F.MDR_STEP_STAT.STATE x 1 else s2)

/-- A trim window of a site closes, here and at its proxies (R166). -/
def State.shutTrim (s : State) (x : Nat) : State :=
  if s.flag F.MDR_SITE_STATE.TRIMOK x then (s.closeTrim x).sendToken x 13 (wrap64 (s.now + s.lead x)) [0] else s

/-- A SYNC in progress withdraws its arrival (R160). -/
def State.withdrawSync (s : State) (x : Nat) : State :=
  match s.waiting x opSync with
  | some w =>
    let s1 := s.setCtx x { s.ctx x with wait := none }
    s1.set F.MDR_STEP_SYNC_STAT.ARRIVED w.aux (s1.arrived w.aux).length
  | none => s

/-- A test completes (R69, R170): STOPPING with outcome COMPLETED, or the site stays ARMED until its start instant. -/
def State.testDone (s : State) (x : Nat) : State :=
  let s1 := (s.withdrawSync x).stopCtx x
  let s2 := s1.setSite x { s1.site x with completed := true, ctxStop := false }
  if s2.siteState x = 2 then s2
  else if s2.siteState x = 5 then s2.set F.MDR_SITE_STATE.OUTCOME x 1
  else ((s2.set F.MDR_SITE_STATE.OUTCOME x 1).enterState x 5).tellState x 5

/-- An abort wins in ARMED: the slices never start. The request of a member whose set has entered the ladder is kept, its proxies' groups
with it: they learn of DONE when the start instant is formed (R74, R171). -/
def State.abortArmed (s : State) (x : Nat) : State :=
  let u := s.site x
  let keep := s.aligned x && u.entered
  let s1 := if keep then s else s.withdrawLadder x
  let s2 := (if keep then s1 else s1.tellState x 6).enterDone x
  if keep then s2.setSite x { s2.site x with alignKept := true, waitGroups := u.waitGroups, groupsAt := u.groupsAt,
                                             ready := u.ready, reqStart := u.reqStart }
  else s2

/-- An abort that wins a boundary (R170, R171); the play that a fail stop has ended already is not ended again. -/
def State.settleAbort (s : State) (x : Nat) : State :=
  let s1 := ((s.answerAbort x 1).withdrawSync x).stopCtx x
  let s2 := ((s1.shutTrim x).set F.MDR_SITE_STATE.OUTCOME x 2).setBin x 1023
  let u := s2.site x
  if s2.siteState x = 2 then s2.abortArmed x
  else
    let ended := s2.siteState x == 5
    let s3 := s2.setSite x { u with stop := if ended then u.stop else some ⟨3, s2.now, wrap64 (s2.now + s2.lead x)⟩, failDet := none,
                                    ctxStop := false, stopped := true, resume := none, start := none }
    if ended then s3 else ((s3.enterState x 5).tellState x 5).tellStop x

/-- A context takes its trap (R168): a wait in progress is abandoned. -/
def State.takeTrap (s : State) (x : Nat) : State :=
  let d := s.get F.MDR_STEP_STAT.DEPTH x
  if 16 ≤ d then s.stepFault x 4
  else
    let s1 := (s.withdrawSync x).set F.MDR_STEP_STACK.INDEX (16 * x + d) (s.stepPc x)
    let s2 := ((s1.set F.MDR_STEP_STAT.DEPTH x (d + 1)).set F.MDR_STEP_STAT.TRAP_ACTIVE x 1).set F.MDR_STEP_STAT.TRAP_PEND x 0
    let s3 := s2.setCtx x { s2.ctx x with svcItem := none, svcDone := none }
    s3.atPc x (s.get F.MDR_STEP_TRAP.HANDLER x)

/-- The faults that a boundary finds in the word that is to execute next (R153, R157, R158). -/
def State.wordFault (s : State) (x : Nat) : Option Nat :=
  let pc := s.stepPc x
  if (s.ctx x).words ≤ pc then some 7
  else match s.lineHeld x pc with
    | none => none
    | some l => match l[pc % 8]? with
      | none => some 6
      | some w =>
        if (usedBits (opcodeOf w)).isNone then some 1
        else if (s.stepCond x w).isNone then some 2
        else none

/-- What ECC finds as microwords are fetched: an uncorrectable error in ROM, patch memory or match registers forces safe state (R173). -/
def State.microRead (s : State) (rom : Ecc) : State :=
  match rom with
  | .clean => s
  | .corrected => s.raiseC F.MDR_STEP_FAULT_STAT.ROM_CORR 0
  | .uncorrectable => s.raiseF F.MDR_STEP_FAULT_STAT.ROM_UNCORR 0 7

/-- Does a context execute or wait. -/
def State.ctxLive (s : State) (x : Nat) : Bool := s.get F.MDR_STEP_STAT.STATE x != 0 && s.get F.MDR_STEP_STAT.STATE x != 5

/-- STEP_BOUNDARY_SAMPLE (R169): a site fault, an abort or a completion, a trap, the next instruction. -/
def execStepBoundarySample (e : Nat) (x : Site) (s : State) (rom : Ecc := .clean) : Out :=
  let s := s.elapse e
  let x := x.val
  let s := if s.ctxLive x then s.microRead rom else s
  let c := s.ctx x
  if !s.ctxLive x then .next s
  else if c.faultPend then .next ((s.withdrawSync x).stopCtx x |>.setCtx x { c with faultPend := false, wait := none })
  else if !s.ctxRuns x && !s.ctxEnds x then .next s
  else if (s.site x).abortPend then .next (s.settleAbort x)
  else if (s.site x).ctxStop then .next ((s.shutTrim x).testDone x)
  else if s.preceded x then .next (s.takeTrap x)
  else match s.wordFault x with
    | some k => .next (s.stepFault x k)
    | none => .next s

/-! ### Playing segments (R161–R164) -/

/-- Has a slice ended play with nothing queued. -/
def State.sliceEnded (s : State) (i : Nat) : Bool :=
  let u := s.slice i
  s.due u.endDT && u.queue.isEmpty && u.inbound.isEmpty

/-- Has a slice ended play, whatever is queued. -/
def State.playEnded (s : State) (i : Nat) : Bool := s.due (s.slice i).endDT

/-- Does a home site play on other devices alone (R62, R99). -/
def State.allFar (s : State) (x : Nat) : Bool := (s.slicesOf x).isEmpty && s.hasProxies x

/-- Have the slices ended play of a site that plays on other devices alone: the spec gives no message that says so, so once entries have been
sent and the test has started it is a free value (notes/assumptions/89.md). -/
def State.farEnded (s : State) (x : Nat) : Bool := (s.site x).farSent == 0 || (s.siteState x != 2 && s.fresh % 2 == 0)

/-- Do four entries wait in a slice of a site that plays on other devices alone: before the start each entry sent waits; afterwards it is a
free value (R161, notes/assumptions/89.md). -/
def State.farFull (s : State) (x : Nat) : Bool := decide (4 ≤ (s.site x).farSent) && (s.siteState x == 2 || s.fresh % 2 == 0)

/-- Do four entries wait in a slice (R161). -/
def State.sliceFull (s : State) (i : Nat) : Bool := 4 ≤ (s.slice i).queue.length + (s.slice i).inbound.length

/-- A start instant no earlier than a DT is formed (R162): AT asks for the DT in G15. -/
def State.formRestart (s : State) (x earliest : Nat) (at_ : Option Nat) : State :=
  let st := match at_ with | some g => dtMax g earliest | none => earliest
  let late := match at_ with | some g => !dtReached g earliest | none => false
  let s1 := if late then s.set F.MDR_STEP_STAT.LATE_START x 1 else s
  ((s1.setSite x { s1.site x with start := some st, toldStart := false }).sendToken x 4 st []).tellStart x

/-- One queue entry is sent to every slice of a site (R161, R247). -/
def State.sendEntry (s : State) (x seg c : Nat) : State :=
  let r := wrap64 (s.now + s.lead x)
  let q : QEntry := ⟨seg, c, r, (s.site x).tsQueued⟩
  let s1 := s.each (s.slicesOf x) (fun s i => s.setSlice i { s.slice i with inbound := (s.slice i).inbound ++ [q] })
  ((s1.setSite x { s1.site x with tsQueued := none, farSent := (s1.site x).farSent + 1 }).sendToken x 3 r [c, seg]).tellStart x

/-- PLAY at its boundary (R161, R162, R166). -/
def State.doPlay (s : State) (x w : Nat) : State :=
  let seg := bitsOf w 0 24
  let c := bitsOf w 24 24
  if seg = 0xFFFFFF || c = 0 then s.stepFault x 3
  else if (s.slicesOf x).any (fun i => s.sliceFull i) || (s.allFar x && s.farFull x) then (s.drewFar x).set F.MDR_STEP_STAT.STATE x 3
  else
    let closes := s.flag F.MDR_SITE_STATE.TRIMOK x
    let earliest := if closes then dtMax (wrap64 (s.now + s.lead x)) (wrap64 (s.now + us 1)) else wrap64 (s.now + s.lead x)
    let at_ := if flagOf w 0 then some (s.gr x 15) else none
    let ended := if s.allFar x then Config.freeValue (s.free + 1) % 2 == 0
      else !(s.slicesOf x).isEmpty && (s.slicesOf x).all (fun i => s.sliceEnded i)
    let s1 := (((s.drewFar x).drewFar x).shutTrim x).setCtx x { s.ctx x with playAt := at_ }
    let s2 := s1.sendEntry x seg c
    let s3 := if s.siteState x = 3 && ended && (s.site x).start.isNone then s2.formRestart x earliest at_ else s2
    s3.advance x

/-- PLAY (R161). -/
def execPlay (e : Nat) (x : Site) (s : State) : Out :=
  let s := s.elapse e
  .next (s.instr x.val 0x01 (fun w => s.doPlay x.val w))

/-- SLICE_END_REPORT (R162): the slices ended after a PLAY's boundary and before its entry's release; they keep the entry,
and a start instant is formed from the last report. -/
def execSliceEndReport (e : Nat) (x : Site) (s : State) : Out :=
  let s := s.elapse e
  let x := x.val
  let is := s.slicesOf x
  let kept := is.any (fun i => !(s.slice i).queue.isEmpty || !(s.slice i).inbound.isEmpty)
  if !s.proxy x && (s.siteState x == 3 || s.siteState x == 5) && (s.site x).start.isNone && (s.site x).stop.isNone && !is.isEmpty &&
      is.all (fun i => s.playEnded i) && kept then
    let s1 := s.each is (fun s i => s.finishEnd i)
    let s2 := s1.formRestart x (wrap64 (s.now + s.lead x)) (s.ctx x).playAt
    .next (s2.set F.MDR_STEP_STAT.RESTART x 1)
  else .next s

/-- JSEG at its boundary (R164, R166). -/
def State.doJseg (s : State) (x w : Nat) : State :=
  let seg := bitsOf w 0 24
  if seg = 0xFFFFFF then s.stepFault x 3
  else
    let s1 := s.shutTrim x
    let plays := if s.allFar x then !s.farEnded x
      else (s1.slicesOf x).any (fun i => s1.get F.SLP_STAT.STATE i == 2 || s1.get F.SLP_STAT.STATE i == 3)
    let s1 := s1.drewFar x
    (if plays then s1.addJump x 1 (wrap64 (s.now + s.lead x)) seg else s1.set F.MDR_STEP_STAT.JUMP_IDLE x 1).advance x

/-- JSEG (R164). -/
def execJseg (e : Nat) (x : Site) (s : State) : Out :=
  let s := s.elapse e
  .next (s.instr x.val 0x02 (fun w => s.doJseg x.val w))

/-- TSET at its boundary (R123). -/
def State.doTset (s : State) (x w : Nat) : State :=
  let p := bitsOf w 0 6
  let a := bitsOf w 8 6
  let r := wrap64 (s.now + s.lead x)
  let u := s.site x
  let q : TsetReq := { prim := p, alt := a, release := r }
  let per := match s.leadSlice x with | some i => s.setPeriodOf i p | none => 0
  let s1 := s.sendToken x 10 r [p, a, ofBool (flagOf w 0), per]
  (if flagOf w 0 then s1.setSite x { s1.site x with tsQueued := some q }
   else s1.setSite x { s1.site x with tsImm := u.tsImm ++ [q] }).advance x

/-- TSET (R123). -/
def execTset (e : Nat) (x : Site) (s : State) : Out :=
  let s := s.elapse e
  .next (s.instr x.val 0x03 (fun w => s.doTset x.val w))

/-! ### Units (R158, R177, R195, R199) -/

/-- ACQ at its boundary (R177). -/
def State.doAcq (s : State) (x w : Nat) : State :=
  let c := bitsOf w 0 10
  if s.chanSite c != some x then s.stepFault x 8
  else
    let d := wrap64 (s.now + s.img.leadCore)
    (if flagOf w 0 then s.disarmAtDT c d false else s.armUnit c d false false).advance x

/-- ACQ (R177). -/
def execAcq (e : Nat) (x : Site) (s : State) : Out :=
  let s := s.elapse e
  .next (s.instr x.val 0x04 (fun w => s.doAcq x.val w))

/-- MEAS at its boundary (R195, R197): with F0 it waits until the unit is DONE; a refused start ends it with T = 1. -/
def State.doMeas (s : State) (x w : Nat) : State :=
  let c := bitsOf w 0 10
  if s.chanSite c != some x then s.stepFault x 8
  else if !flagOf w 0 && bitsOf w 16 32 != 0 then s.stepFault x 3
  else match s.waiting x 0x05 with
    | some _ => if s.get F.TIA_CH_STAT.STATE c = 3 then s.endWait x else s
    | none =>
      let ok := s.measReason c false == 0
      let s1 := s.startMeas c s.now false
      if !flagOf w 0 then s1.advance x
      else if ok then s1.beginWait x 0x05 (us (bitsOf w 16 32)) c
      else (s1.setT x true).advance x

/-- MEAS (R195). -/
def execMeas (e : Nat) (x : Site) (s : State) : Out :=
  let s := s.elapse e
  .next (s.instr x.val 0x05 (fun w => s.doMeas x.val w))

/-- The statistic of a unit that MGET returns (R199). -/
def State.mgetValue (s : State) (c k : Nat) : Nat :=
  match k with
  | 0 => ofInt 64 (s.roundDiv (toInt 64 (s.get F.TIA_CH_MEAN.VALUE c)) 256)
  | 1 => ofInt 64 (s.roundDiv (s.get F.TIA_CH_SD.VALUE c) 256)
  | 2 => s.get F.TIA_CH_MIN.VALUE c
  | _ => s.get F.TIA_CH_MAX.VALUE c

/-- MGET at its boundary (R199). -/
def State.doMget (s : State) (x w : Nat) : State :=
  let c := bitsOf w 0 10
  if s.chanSite c != some x then s.stepFault x 8
  else
    let bad := s.get F.TIA_CH_COUNT.SAMPLES c == 0 || s.flag F.TIA_CH_STAT.OVF c || s.flag F.TIA_CH_STAT.STALE c
    ((s.drew.setGr x (bitsOf w 12 4) (s.mgetValue c (bitsOf w 10 2))).setT x bad).advance x

/-- MGET (R199). -/
def execMget (e : Nat) (x : Site) (s : State) : Out :=
  let s := s.elapse e
  .next (s.instr x.val 0x06 (fun w => s.doMget x.val w))

/-! ### Waits (R159, R160, R163, R165) -/

/-- Word k of wait mask m of a context. -/
def State.wmask (s : State) (x m k : Nat) : Nat := s.get F.MDR_STEP_WMASK.CH (64 * x + 8 * m + k)

/-- Word k of a context's event latch. -/
def State.evl (s : State) (x k : Nat) : Nat := s.get F.MDR_STEP_EVL.CH (8 * x + k)

/-- The bits of mask m are cleared in the event latch (R159). -/
def State.clearEvl (s : State) (x m : Nat) : State :=
  s.each (List.range 8) (fun s k => s.set F.MDR_STEP_EVL.CH (8 * x + k) (s.evl x k &&& ((2 ^ 32 - 1) ^^^ s.wmask x m k)))

/-- Does the event latch satisfy mask m (R159). -/
def State.evMet (s : State) (x m : Nat) (all_ : Bool) : Bool :=
  if all_ then (List.range 8).all (fun k => s.evl x k &&& s.wmask x m k == s.wmask x m k)
  else (List.range 8).any (fun k => s.evl x k &&& s.wmask x m k != 0)

/-- WAITEV at its boundary (R159). -/
def State.doWaitev (s : State) (x w : Nat) : State :=
  let m := bitsOf w 0 3
  let first := (s.waiting x 0x10).isNone
  let s1 := if first && flagOf w 1 then s.clearEvl x m else s
  if s1.evMet x m (flagOf w 0) then
    let d := Tab.get 0 (s1.ctx x).evlast m
    ((s1.set F.MDR_STEP_EVDT.DT x d).clearEvl x m).endWait x
  else if first then s1.beginWait x 0x10 (ns (imm40 w)) m
  else s1

/-- WAITEV (R159). -/
def execWaitev (e : Nat) (x : Site) (s : State) : Out :=
  let s := s.elapse e
  .next (s.instr x.val 0x10 (fun w => s.doWaitev x.val w))

/-- WAITDT at its boundary (R160). -/
def State.doWaitdt (s : State) (x w : Nat) : State :=
  if flagOf w 0 && regA w != 0 then s.stepFault x 3
  else
    let began := match s.waiting x 0x11 with | some v => v.began | none => s.now
    let target := if flagOf w 0 then wrap64 (began + ns (imm40 w)) else s.gr x (regA w)
    if s.reached target then s.endWait x
    else match s.waiting x 0x11 with
      | some _ => s
      | none => s.beginWait x 0x11 (if flagOf w 0 then 0 else ns (imm40 w)) target

/-- WAITDT (R160). -/
def execWaitdt (e : Nat) (x : Site) (s : State) : Out :=
  let s := s.elapse e
  .next (s.instr x.val 0x11 (fun w => s.doWaitdt x.val w))

/-- The time that DRAIN leaves after the end of play (R163). -/
def State.drainAfter (s : State) (x : Nat) : Nat := if s.hasProxies x then ns 700 else ns 400

/-- Is DRAIN met (R163). -/
def State.drained (s : State) (x : Nat) : Bool :=
  s.siteState x != 4 && (!s.allFar x || s.farEnded x) && (s.slicesOf x).all (fun i =>
    s.sliceEnded i && s.reached (wrap64 ((s.slice i).endDT.getD 0 + s.drainAfter x)))

/-- DRAIN at its boundary (R163): every fail of the play that ended is then in the site's total (R143). -/
def State.doDrain (s : State) (x w : Nat) : State :=
  let t := s.drewFar x
  if s.drained x then (t.each (t.slicesOf x) (fun s i => s.settleEnd i)).endWait x
  else match s.waiting x 0x12 with
    | some _ => t
    | none => t.beginWait x 0x12 (ns (imm40 w)) 0

/-- DRAIN (R163). -/
def execDrain (e : Nat) (x : Site) (s : State) : Out :=
  let s := s.elapse e
  .next (s.instr x.val 0x12 (fun w => s.doDrain x.val w))

/-- Is a site a member of a barrier. -/
def State.syncMember (s : State) (b x : Nat) : Bool := s.mapBit F.MDR_STEP_SYNC_MEM.SITE (8 * b) x

/-- SYNC at its boundary (R165): the arrival is recorded, and the release DT formed once every member has arrived. One that
arrives when a release has been formed waits for the next. -/
def State.doSync (s : State) (x w : Nat) : State :=
  let b := bitsOf w 0 6
  if !s.syncMember b x then s.stepFault x 8
  else match s.waiting x opSync with
    | some _ => s
    | none =>
      let s1 := s.beginWait x opSync (ns (imm40 w)) b
      if (Tab.get none s.barriers b).isSome then
        s1.setCtx x { s1.ctx x with wait := (s1.ctx x).wait.map (fun v => { v with late := true }) }
      else s1.formSync b

/-- SYNC (R165). -/
def execSync (e : Nat) (x : Site) (s : State) : Out :=
  let s := s.elapse e
  .next (s.instr x.val 0x13 (fun w => s.doSync x.val w))

/-- A context passes its SYNC at the release, unless something comes first at its boundary: then the SYNC executes again
or never (R165, R168, R169). -/
def State.passSync (s : State) (x r : Nat) : State :=
  if s.preceded x then s.setCtx x { s.ctx x with wait := none }
  else (s.setCtx x { s.ctx x with syncDT := r }).endWait x

/-- Arrivals that came after a release was formed count for the next (R165). -/
def State.nextSync (s : State) (b : Nat) : State :=
  { s with ctxs := s.ctxs.map (fun (p : Nat × CtxUnit) => (p.1, { p.2 with wait := p.2.wait.map (fun (w : WaitSt) =>
    if w.op == opSync && w.aux == b then { w with late := false } else w) })) : State }.formSync b

/-- SYNC_RELEASE (R165). -/
def execSyncRelease (e : Nat) (b : Barrier) (s : State) : Out :=
  let s := s.elapse e
  let b := b.val
  match Tab.get none s.barriers b with
  | some r =>
    if s.reached r then
      let l := s.arrived b
      let s1 := s.each l (fun s x => s.passSync x r)
      let s2 := ({ s1 with barriers := Tab.set none s1.barriers b none }.set F.MDR_STEP_SYNC_STAT.ARRIVED b 0).set
        F.MDR_STEP_SYNC_DT.DT b r
      .next ((s2.set F.MDR_STEP_SYNC_STAT.RELEASES b (min (2 ^ 32 - 1) (s.get F.MDR_STEP_SYNC_STAT.RELEASES b + 1))).nextSync b)
    else .next s
  | none => .next s

/-- STEP_MISSED_RELEASE (R20): a SYNC release reaches a context late. -/
def execStepMissedRelease (e : Nat) (x : Site) (s : State) : Out :=
  let s := s.elapse e
  let x := x.val
  match s.waiting x opSync with
  | some w =>
    if s.due (Tab.get none s.barriers w.aux) then
      .next ((s.withdrawSync x).faultSite 14 F.MDR_STEP_FAULT_STAT.MISSED_RELEASE 0 x 1)
    else .next s
  | none => .next s

/-- A write to a barrier's member mask (R165). -/
def State.writeSyncMem (s : State) (b w v : Nat) : State :=
  if (s.arrived b).isEmpty && (Tab.get none s.barriers b).isNone then s.set F.MDR_STEP_SYNC_MEM.SITE (8 * b + w) v
  else s.set F.MDR_STEP_SYNC_STAT.WR_REJ b 1

/-- SYNC_MEMBER_WRITE (R165). -/
def execSyncMemberWrite (e : Nat) (b : Barrier) (w : Fin 8) (v : Word32) (s : State) : Out :=
  .next ((s.elapse e).writeSyncMem b.val w.val v.toNat)

/-- Has the condition of a wait come true, so that the wait does not end by timeout (R160). -/
def State.waitMet (s : State) (x : Nat) (w : WaitSt) : Bool :=
  match w.op with
  | 0x05 => s.get F.TIA_CH_STAT.STATE w.aux == 3
  | 0x10 => match s.stepWord x with | some v => s.evMet x w.aux (flagOf v 0) | none => false
  | 0x11 => match w.limit with | some l => dtReached l w.aux | none => true
  | 0x12 => s.drained x
  | 0x43 => (s.ctx x).svcDone.isSome
  | _ => false

/-- A wait ends by timeout (R160, R167): T = 1; SYNC withdraws its arrival, a waited item is left in service. -/
def State.timeOut (s : State) (x : Nat) : State :=
  let s1 := (s.withdrawSync x).setCtx x { (s.withdrawSync x).ctx x with svcItem := none, svcDone := none }
  ((s1.setT x true).advance x).formSyncs

/-- WAIT_TIMEOUT (R160). -/
def execWaitTimeout (e : Nat) (x : Site) (s : State) : Out :=
  let s := s.elapse e
  let x := x.val
  match (s.ctx x).wait with
  | some w => .next (if s.ctxRuns x && !s.preceded x && s.due w.limit && !s.waitMet x w then s.timeOut x else s)
  | none => .next s

/-- EVENT_LATCH (R159). -/
def execEventLatch (e : Nat) (x : Site) (c : EvCh) (s : State) : Out :=
  let s := s.elapse e
  let x := x.val
  let k := c.val / 32
  let b := c.val % 32
  let ms := (List.range 8).filter (fun m => bitAt (s.wmask x m k) b)
  if ms.isEmpty || !s.consumes then .next s
  else if bitAt (s.evl x k) b then .next (s.set F.MDR_STEP_EVSTAT.OVERRUN x 1)
  else
    let u := s.ctx x
    let s1 := s.setCtx x { u with evlast := ms.foldl (fun t m => Tab.set 0 t m s.now) u.evlast }
    .next (s1.set F.MDR_STEP_EVL.CH (8 * x + k) (setBit (s.evl x k) b))

/-- TRAP_FIRING (R168). -/
def execTrapFiring (e : Nat) (x : Site) (s : State) : Out :=
  let s := s.elapse e
  let x := x.val
  .next (if !s.consumes then s else if s.flag F.MDR_STEP_STAT.TRAP_PEND x then s.set F.MDR_STEP_EVSTAT.OVERRUN x 1 else s.set F.MDR_STEP_STAT.TRAP_PEND x 1)

/-! ### Trim windows (R166) -/

/-- TRIMOK at its boundary (R166). The window is kept from here; the registers show it from its open DT (`trimShown`). -/
def State.doTrimok (s : State) (x w : Nat) : State :=
  let n := imm40 w
  let opens := wrap64 (s.now + s.lead x)
  let closes := wrap64 (opens + ns n)
  if n = 0 then (s.shutTrim x).advance x
  else
    let s1 := if s.flag F.MDR_SITE_STATE.TRIMOK x then s
      else ((s.set F.MDR_SITE_STATE.TRIMOK x 1).setSite x { s.site x with trimOpen := opens }).sendToken x 13 opens [1]
    (s1.set F.MDR_STEP_TRIM.DT x closes).advance x

/-- TRIMOK (R166). -/
def execTrimok (e : Nat) (x : Site) (s : State) : Out :=
  let s := s.elapse e
  .next (s.instr x.val 0x14 (fun w => s.doTrimok x.val w))

/-- TRIM_WINDOW_CLOSE (R166). -/
def execTrimWindowClose (e : Nat) (x : Site) (s : State) : Out :=
  let s := s.elapse e
  let x := x.val
  let known := !s.proxy x || s.get F.MDR_STEP_TRIM.DT x != 0
  .next (if s.flag F.MDR_SITE_STATE.TRIMOK x && known && s.reached (s.get F.MDR_STEP_TRIM.DT x) then s.shutTrim x else s)

/-! ### Branches (R157, R168) -/

/-- PC goes to an index, which must lie in the program (R158). -/
def State.branch (s : State) (x t : Nat) : State := if (s.ctx x).words ≤ t then s.stepFault x 7 else s.atPc x t

/-- JMP (R157). -/
def execJmp (e : Nat) (x : Site) (s : State) : Out :=
  let s := s.elapse e
  .next (s.instr x.val 0x20 (fun w => s.branch x.val (bitsOf w 0 20)))

/-- CALL at its boundary (R157, R158). -/
def State.doCall (s : State) (x w : Nat) : State :=
  let d := s.get F.MDR_STEP_STAT.DEPTH x
  if 16 ≤ d then s.stepFault x 4
  else if (s.ctx x).words ≤ bitsOf w 0 20 then s.stepFault x 7
  else
    let s1 := (s.set F.MDR_STEP_STACK.INDEX (16 * x + d) (s.stepPc x + 1)).set F.MDR_STEP_STAT.DEPTH x (d + 1)
    s1.branch x (bitsOf w 0 20)

/-- CALL (R157). -/
def execCall (e : Nat) (x : Site) (s : State) : Out :=
  let s := s.elapse e
  .next (s.instr x.val 0x21 (fun w => s.doCall x.val w))

/-- RET at its boundary (R168). -/
def State.doRet (s : State) (x w : Nat) : State :=
  let d := s.get F.MDR_STEP_STAT.DEPTH x
  if d = 0 then s.stepFault x 5
  else
    let s1 := s.set F.MDR_STEP_STAT.DEPTH x (d - 1)
    let s2 := if flagOf w 0 then s1.set F.MDR_STEP_STAT.TRAP_ACTIVE x 0 else s1
    s2.atPc x (s.get F.MDR_STEP_STACK.INDEX (16 * x + (d - 1)))

/-- RET (R168). -/
def execRet (e : Nat) (x : Site) (s : State) : Out :=
  let s := s.elapse e
  .next (s.instr x.val 0x22 (fun w => s.doRet x.val w))

/-- DBNZ at its boundary (R157). -/
def State.doDbnz (s : State) (x w : Nat) : State :=
  let v := s.gr x (regA w)
  let s1 := s.setGr x (regA w) (v - 1)
  if 1 < v then s1.branch x (bitsOf w 8 20) else s1.advance x

/-- DBNZ (R157). -/
def execDbnz (e : Nat) (x : Site) (s : State) : Out :=
  let s := s.elapse e
  .next (s.instr x.val 0x23 (fun w => s.doDbnz x.val w))

/-! ### Registers (R155–R157) -/

/-- NOP (R157). -/
def execNop (e : Nat) (x : Site) (s : State) : Out :=
  let s := s.elapse e
  .next (s.instr x.val 0x00 (fun _ => s.advance x.val))

/-- LDI (R157). -/
def execLdi (e : Nat) (x : Site) (s : State) : Out :=
  let s := s.elapse e
  .next (s.instr x.val 0x30 (fun w =>
    (s.setGr x.val (regA w) (if flagOf w 1 then imm40 w * 2 ^ 24 else imm40 w)).advance x.val))

/-- A register takes a sum or difference; a saturated one sets SAT (R156). -/
def State.arith (s : State) (x d : Nat) (r : Nat × Bool) : State :=
  ((if r.2 then s.set F.MDR_STEP_STAT.SAT x 1 else s).setGr x d r.1).advance x

/-- ADDI (R156). -/
def execAddi (e : Nat) (x : Site) (s : State) : Out :=
  let s := s.elapse e
  .next (s.instr x.val 0x31 (fun w =>
    let a := s.gr x.val (regA w)
    s.arith x.val (regA w) (if flagOf w 1 then subG (flagOf w 0) a (imm40 w) else addG (flagOf w 0) a (imm40 w))))

/-- ADD (R156). -/
def execAdd (e : Nat) (x : Site) (s : State) : Out :=
  let s := s.elapse e
  .next (s.instr x.val 0x32 (fun w =>
    s.arith x.val (regA w) (addG (flagOf w 0) (s.gr x.val (regA w)) (s.gr x.val (regB w)))))

/-- SUB (R156). -/
def execSub (e : Nat) (x : Site) (s : State) : Out :=
  let s := s.elapse e
  .next (s.instr x.val 0x33 (fun w =>
    s.arith x.val (regA w) (subG (flagOf w 0) (s.gr x.val (regA w)) (s.gr x.val (regB w)))))

/-- MOV (R157). -/
def execMov (e : Nat) (x : Site) (s : State) : Out :=
  let s := s.elapse e
  .next (s.instr x.val 0x34 (fun w => (s.setGr x.val (regA w) (s.gr x.val (regB w))).advance x.val))

/-- The value of a GET source (R157); none for an invalid one. -/
def State.getSource (s : State) (x n : Nat) : Option Nat :=
  match n with
  | 0 => some s.now
  | 1 => some (s.ctx x).startInst
  | 2 => some (s.get F.MDR_STEP_EVDT.DT x)
  | 3 => some (s.get F.SEP_CAP_FAILS.COUNT x)
  | 4 => some (s.get F.SEP_CAP_FF_DT.DT x)
  | 5 => some (s.ctx x).syncDT
  | 6 => some (s.get F.MDR_STEP_SVC_RES.RESULT x)
  | 7 => some (s.get F.UMB_ERA.ERA 0)
  | _ => none

/-- GET at its boundary (R157). -/
def State.doGet (s : State) (x w : Nat) : State :=
  match s.getSource x (bitsOf w 8 8) with
  | some v => (s.setGr x (regA w) v).advance x
  | none => s.stepFault x 3

/-- GET (R157). -/
def execGet (e : Nat) (x : Site) (s : State) : Out :=
  let s := s.elapse e
  .next (s.instr x.val 0x35 (fun w => s.doGet x.val w))

/-- CMPI (R155). -/
def execCmpi (e : Nat) (x : Site) (s : State) : Out :=
  let s := s.elapse e
  .next (s.instr x.val 0x36 (fun w => (s.setCompare x.val (s.gr x.val (regA w)) (imm40 w)).advance x.val))

/-- CMP (R155). -/
def execCmp (e : Nat) (x : Site) (s : State) : Out :=
  let s := s.elapse e
  .next (s.instr x.val 0x37 (fun w => (s.setCompare x.val (s.gr x.val (regA w)) (s.gr x.val (regB w))).advance x.val))

/-- BIN (R157, R284). -/
def execBin (e : Nat) (x : Site) (s : State) : Out :=
  let s := s.elapse e
  .next (s.instr x.val 0x40 (fun w =>
    let b := bitsOf w 0 10
    (if 1021 ≤ b then s.set F.MDR_STEP_STAT.BIN_REJ x.val 1 else s.setBin x.val b).advance x.val))

/-! ### Services, datalog and bus descriptors (R167) -/

/-- An item that Saffron refuses stays at its boundary and is tried again (R167). -/
def State.retryItem (s : State) (x op tmo : Nat) (f : Nat) : State :=
  let s1 := match s.safRefuses f with | some b => s.safRefused f b | none => s
  if (s.waiting x op).isSome then s1 else s1.beginWait x op tmo 0

/-- DLOG at its boundary (R157, R273). -/
def State.doDlog (s : State) (x w : Nat) : State :=
  let first := bitsOf w 8 4
  let n := bitsOf w 12 2
  if n = 3 || 16 < first + n then s.stepFault x 3
  else
    let i : WorkItem := { dt := s.now, g0 := if 1 ≤ n then s.gr x first else 0, g1 := if 2 ≤ n then s.gr x (first + 1) else 0,
                          arg := bitsOf w 16 32, flow := bitsOf w 0 8 + 256 * n, site := x, src := 4 }
    if (s.safRefuses (flowOf i)).isSome then s.retryItem x 0x41 0 (flowOf i) else (s.safAdd i).advance x

/-- DLOG (R167). -/
def execDlog (e : Nat) (x : Site) (s : State) : Out :=
  let s := s.elapse e
  .next (s.instr x.val 0x41 (fun w => s.doDlog x.val w))

/-- Does a site have a UDS connection (R274, R287). -/
def State.hasConn (s : State) (x u : Nat) : Bool :=
  match s.svcTable x 5 with
  | some t => decide (64 * (u + 1) ≤ t.length)
  | none => false

/-- REQ at its boundary (R167, R274). -/
def State.doReq (s : State) (x w : Nat) : State :=
  let f := bitsOf w 0 10
  let c := s.ctx x
  if c.svcItem.isSome && (s.waiting x 0x43).isSome then s
  else if !(decide (8 ≤ f) && decide (f ≤ 71) && s.hasConn x (f - 8)) then
    if flagOf w 0 then (s.set F.MDR_STEP_SVC_RES.RESULT x (resultWord 3 0 0)).endWait x else s.advance x
  else
    let i : WorkItem := { dt := s.now, g0 := s.gr x 0, g1 := s.gr x 1, arg := bitsOf w 16 32, flow := f, site := x, src := 0 }
    let tmo := if flagOf w 0 then us (s.get F.MDR_STEP_SVC_TMO.US x) else 0
    if (s.safRefuses (flowOf i)).isSome then s.retryItem x 0x43 tmo (flowOf i)
    else
      let s1 := s.safAdd i
      if flagOf w 0 then
        let s2 := if (s.waiting x 0x43).isSome then s1 else s1.beginWait x 0x43 tmo 0
        s2.setCtx x { s2.ctx x with svcItem := some s.saf.nextId, svcDone := none }
      else s1.advance x

/-- REQ (R167). -/
def execReq (e : Nat) (x : Site) (s : State) : Out :=
  let s := s.elapse e
  .next (s.instr x.val 0x43 (fun w => s.doReq x.val w))

/-- SERVICE_RESULT (R167): the result of a waited item reaches its context. -/
def execServiceResult (e : Nat) (x : Site) (s : State) : Out :=
  let s := s.elapse e
  let x := x.val
  let c := s.ctx x
  match c.svcDone with
  | some r =>
    if s.ctxRuns x && !s.preceded x && (s.waiting x 0x43).isSome then
      let s1 := (s.set F.MDR_STEP_SVC_RES.RESULT x r).setCtx x { c with svcItem := none, svcDone := none }
      .next (s1.endWait x)
    else .next s
  | none => .next s

/-- BUSTX at its boundary (R157, R167, R258). A descriptor that no memory holds reads as zeros. -/
def State.doBustx (s : State) (x w : Nat) : State :=
  let en := bitsOf w 0 6
  let a := imm40 w
  let lake := flagOf w 1
  if a % 32 != 0 then s.stepFault x 3
  else if s.proto en = 0 || s.get F.BUS_CFG.SITE en != x then s.stepFault x 8
  else if s.txFull en then (if (s.waiting x 0x42).isSome then s else s.beginWait x 0x42 0 0)
  else
    let ok := s.readable lake a 32
    let raw := if ok then s.bytesAt lake a 32 else List.replicate 32 0
    let raw1 := if flagOf w 0 then toBytes 8 (s.gr x 15) ++ raw.drop 8 else raw
    let s1 := if ok || lake then s else s.raiseC F.DMC_FAULT_STAT.NO_REGION 0
    (s1.postRaw en a lake raw1).advance x

/-- BUSTX (R167). -/
def execBustx (e : Nat) (x : Site) (s : State) : Out :=
  let s := s.elapse e
  .next (s.instr x.val 0x42 (fun w => s.doBustx x.val w))

/-- STOP (R69, R170, R172). -/
def execStop (e : Nat) (x : Site) (s : State) : Out :=
  let s := s.elapse e
  .next (s.instr x.val 0x7F (fun _ => (s.shutTrim x.val).testDone x.val))

end Sys2Proof.Machine
end

