-- ==== Sys2Proof/Machine/Services.lean ====
section
/-! DEFINITION. What the services make of a test (spec/14_services.md): limits and bins (R283), the plan at the end of a test
(R281), reflections that a plan asks for (R282), the records of the datalog (R285, R286) and the netlist sweep (R294–R296). -/

namespace Sys2Proof.Machine

/-! ### Limits (R283) -/

/-- A field of limit k of a limits table. -/
def limitFld (t : List Byte) (k o n : Nat) : Nat := leAt t (32 * k + o) n

/-- The value that a limit judges, and whether it is valid (R199, R200, R283, R296). -/
def State.limitValue (s : State) (x : Nat) (t : List Byte) (k : Nat) : Nat × Bool :=
  let sel := limitFld t k 1 1
  let c := limitFld t k 2 2
  match limitFld t k 0 1 with
  | 0 => (s.get F.SEP_CAP_FAILS.COUNT x, true)
  | 1 => (s.mgetValue c sel, s.get F.TIA_CH_COUNT.SAMPLES c != 0 && !s.flag F.TIA_CH_STAT.OVF c && !s.flag F.TIA_CH_STAT.STALE c)
  | 2 => (s.get F.MDR_STEP_G.VALUE (16 * x + sel), true)
  | 3 => (s.get F.MDR_STEP_SVC_RES.RESULT x % 2 ^ 32, true)
  | _ => match (s.plan x).net with
    | some n => (n, true)
    | none => (0xFFFF, false)

/-- Is value a below value b, by the comparison that the limit asks for. -/
def limitBelow (signed : Bool) (a b : Nat) : Bool := if signed then decide (toInt 64 a < toInt 64 b) else decide (a < b)

/-- The result of a limit: 0 pass, 1 low, 2 high, 3 invalid (R283, R285). -/
def limitResult (t : List Byte) (k v : Nat) (valid : Bool) : Nat :=
  let f := limitFld t k 4 1
  if !valid then 3
  else if bitAt f 0 && limitBelow (bitAt f 2) v (limitFld t k 8 8) then 1
  else if bitAt f 1 && limitBelow (bitAt f 2) (limitFld t k 0x10 8) v then 2
  else 0

/-- A limit once it is evaluated: its index, value and result. -/
abbrev Judged := Nat × Nat × Nat

/-- The limits of a list are evaluated in order. -/
def State.judgeLimits (s : State) (x : Nat) (t : List Byte) (ks : List Nat) : State × List Judged :=
  ks.foldl (fun p k =>
    let v := p.1.limitValue x t k
    (p.1.drew, p.2 ++ [(k, v.1, limitResult t k v.1 v.2)])) (s, [])

/-- The record of an evaluated limit (R285). -/
def State.logLimit (s : State) (x test : Nat) (t : List Byte) (j : Judged) : State :=
  s.log x 0x12 s.now test 0 2 (toBytes 2 j.1 ++ toBytes 1 j.2.2 ++ toBytes 1 (limitFld t j.1 0 1) ++ toBytes 8 j.2.1 ++
    toBytes 8 (limitFld t j.1 8 8) ++ toBytes 8 (limitFld t j.1 0x10 8))

/-- The FAIL_BIN of the first failing limit (R283). -/
def failBin (t : List Byte) (js : List Judged) : Option Nat := (js.find? (fun j => j.2.2 != 0)).map (fun j => limitFld t j.1 6 2)

/-- The limits of a plan entry that its site's table holds, in order. -/
def State.entryLimits (s : State) (x : Nat) (t : List Byte) (e : Nat) : List Nat :=
  match s.svcTable x 2 with
  | some l => ((List.range (planFld t e 0xE 2)).map (fun i => planFld t e 0xC 2 + i)).filter (fun k => decide (32 * (k + 1) ≤ l.length))
  | none => []

/-- The bin of a test (R283): the first that applies. -/
def State.testBin (s : State) (x : Nat) (t : List Byte) (e : Nat) (limit : Option Nat) : Nat :=
  let set := s.flag F.MDR_STEP_BIN.VALID x
  let b := s.get F.MDR_STEP_BIN.BIN x
  if set && (s.get F.MDR_SITE_STATE.OUTCOME x == 2 || decide (1021 ≤ b)) then b
  else if set && !s.binPass x b then b
  else match limit with
    | some n => n
    | none =>
      if set then b
      else if s.get F.SEP_CAP_FAILS.COUNT x = 0 then planFld t e 8 2 else planFld t e 0xA 2

/-! ### The end of a test of a plan (R281) -/

/-- The TEST_END record (R285). -/
def State.testEndBody (s : State) (x prog bin hard : Nat) : List Byte :=
  toBytes 2 prog ++ toBytes 2 bin ++ toBytes 1 (s.get F.MDR_SITE_STATE.OUTCOME x) ++ toBytes 1 hard ++ toBytes 2 0 ++
    toBytes 4 (s.get F.SEP_CAP_FAILS.COUNT x) ++ toBytes 8 (s.get F.MDR_SITE_START_DT.DT x) ++ toBytes 8 (s.get F.PWR_SLIP.SLIP x) ++
    toBytes 8 (s.get F.SEP_CAP_STOP_DT.DT x) ++ toBytes 4 (s.get F.MDR_SITE_HOLDS.COUNT x) ++ toBytes 4 (s.get F.SEP_CAP_LOST.COUNT x)

/-- The bin of a DUT: that of its first failing test, or of its last test (R283). -/
def Plan.dutBin (p : Plan) : Option Nat := match p.bin with | some b => some b | none => p.last

/-- A test of a plan is judged in DONE: its records, ACK, and the next entry or the end of the DUT. The bin stands in TEST_END,
which the LIMIT records follow. -/
def State.judgeTest (s : State) (x : Nat) (t : List Byte) : State :=
  let p := s.plan x
  let test := planFld t p.entry 0 2
  let lim := (s.svcTable x 2).getD []
  let j := s.judgeLimits x lim (s.entryLimits x t p.entry)
  let s0 := j.1
  let bin := s0.testBin x t p.entry (failBin lim j.2)
  let pass := s0.binPass x bin
  let s1 := s0.drew.log x 0x11 (s0.get F.MDR_SITE_DONE_DT.DT x) test 0 2
    (s0.testEndBody x (planFld t p.entry 2 2) bin (s0.binHard x bin))
  let s2 := (j.2.foldl (fun s l => s.logLimit x test lim l) s1).ackDone x
  let p1 : Plan := { p with armed := false, tmoAt := none, tests := p.tests + 1, failed := p.failed + ofBool (!pass), last := some bin,
                            bin := if pass then p.bin else match p.bin with | some b => some b | none => some bin }
  let s3 := s2.setPlan x p1
  let next := planFld t p.entry (if pass then 4 else 6) 2
  if p.abortDut || next == 0xFFFF then s3.endDut x p1.dutBin false else s3.runEntry x t next

/-- Does the test that a plan runs wait for its netlist analysis (R296). -/
def State.netPending (s : State) (x : Nat) (t : List Byte) : Bool :=
  match s.svcTable x 7 with
  | some n => planFld t (s.plan x).entry 2 2 == leAt n 2 2 && !(s.plan x).netDone
  | none => false

/-- A plan looks at its site (R281): in DONE the test is judged, FAULTED stops the plan, and a site that has gone back to IDLE is
armed again. -/
def State.planLook (s : State) (x : Nat) (t : List Byte) : State :=
  let p := s.plan x
  if !p.armed then s.dutKick x
  else if s.siteState x = 6 then (if s.netPending x t then s else s.judgeTest x t)
  else if s.siteState x = 7 then (s.notRun x t 3).endDut x none true
  else if s.siteState x = 1 then (if p.abortDut then s.endDut x none true else s.planRefused x t 1)
  else s

/-- PLAN_TEST_END (R281, R283). -/
def execPlanTestEnd (e : Nat) (x : Site) (s : State) : Out :=
  let s := s.elapse e
  match s.svcTable x.val 1 with
  | some t => .next (s.planLook x.val t)
  | none => .next s

/-- REFL_EVENT (R282): a firing of REFL_EVCH while the plan waits for a DUT, REFL_MIN_S after the last reflection. -/
def execReflEvent (e : Nat) (x : Site) (s : State) : Out :=
  let s := s.elapse e
  let x := x.val
  match s.svcTable x 1 with
  | some t =>
    let p := s.plan x
    let rested := match p.reflAt with | some d => s.reached (wrap64 (d + secs (leAt t 8 4))) | none => true
    if bitAt (leAt t 4 2) 2 && s.running && s.get F.SVC_PLAN_STAT.STATE x == 1 && p.dutPend.isNone && rested then
      .next ((if s.reflRefused x false then s else s.setPlan x { p with reflAt := some s.now }).requestRefl x)
    else .next s
  | none => .next s

/-! ### Records into the result ring (R285, R286, R350) -/

/-- Does a site's result ring lie where it can be written: in a DRAM DATA region, or in Lake in banks that are ON (R345, R346). -/
def State.resPlaced (s : State) (x : Nat) : Bool :=
  let a := s.get F.HRG_RES_BASE.ADDR x
  let n := 32 * 2 ^ s.get F.HRG_RES_CFG.LOG2 x
  if s.flag F.HRG_RES_CFG.MEM x then s.portB a n else (s.region 1 a n).isSome

/-- Is there space for n units in a site's result ring: it is in use, placed and not full (R346, R350). -/
def State.resSpace (s : State) (x n : Nat) : Bool :=
  s.flag F.HRG_RES_CFG.EN x && decide (s.resUsed x + n ≤ 2 ^ s.get F.HRG_RES_CFG.LOG2 x) && s.resPlaced x

/-- A record is written to a site's result ring, and WR advances past it. -/
def State.resWrite (s : State) (x : Nat) (b : List Byte) : State :=
  let wr := s.get F.HRG_RES_WR.POS x
  (s.ringWrite (s.flag F.HRG_RES_CFG.MEM x) (s.get F.HRG_RES_BASE.ADDR x) (s.get F.HRG_RES_CFG.LOG2 x) wr b).set
    F.HRG_RES_WR.POS x (wr + b.length / 32)

/-- A ring in a Lake bank that cannot be written raises RING_ADDR, one in no DATA region NO_REGION (R322, R326, R346). -/
def State.resFault (s : State) (x : Nat) : State :=
  let a := s.get F.HRG_RES_BASE.ADDR x
  let n := 32 * 2 ^ s.get F.HRG_RES_CFG.LOG2 x
  if !s.flag F.HRG_RES_CFG.EN x || s.resPlaced x then s
  else if s.flag F.HRG_RES_CFG.MEM x then (s.denyB a n).raiseU 12 F.HRG_FAULT_STAT.RING_ADDR 0
  else s.raiseC F.DMC_FAULT_STAT.NO_REGION 0

/-- A record that the ring has no space for is dropped and counted (R286). -/
def State.resDrop (s : State) (x : Nat) : State :=
  let u := s.logOf x
  ((s.count F.SVC_DLOST.COUNT (some F.SVC_DLOST.OVF) x 11 1).setLog x { u with dropped := satAdd 32 u.dropped 1 }).resFault x

/-- Space has returned after a drop: the LOST record is written where the selection asks for it, and the next record will carry
LOST_BEFORE (R286). -/
def State.resLost (s : State) (x : Nat) : State :=
  let u := s.logOf x
  if u.dropped = 0 || !s.resSpace x 1 then s
  else
    let s1 := if s.logSelects x 0x17 then
      s.resWrite x (s.logRecord x 0x17 s.now 0xFFFF 0 1 (toBytes 4 u.dropped)) else s
    s1.setLog x { u with dropped := 0, lost := true }

/-- A record goes to a site's result ring, after the LOST record that is due, or is dropped. -/
def State.resPut (s : State) (x : Nat) (b : List Byte) : State :=
  let s1 := s.resLost x
  let u := s1.logOf x
  if u.dropped = 0 && s1.resSpace x (b.length / 32) then
    (s1.resWrite x (if u.lost then setRecBit b 15 0 else b)).setLog x { u with lost := false }
  else s1.resDrop x

/-- The oldest record that a service has made is written or dropped. -/
def State.putMade (s : State) (x : Nat) : State :=
  let u := s.logOf x
  match u.made with
  | b :: r => (s.setLog x { u with made := r }).resPut x b
  | [] => s

/-- A copy of a record from another ring, behind the head of R285. -/
def State.copyRecord (s : State) (x typ pos : Nat) (b : List Byte) : List Byte :=
  s.logRecord x typ (leAt b 0 8) (s.testNo x) 0 (1 + b.length / 32) (toBytes 4 pos ++ toBytes 8 0 ++ b)

/-- n units of a ring of 2^log2 units of 32 bytes, from a position. -/
def State.ringBytes (s : State) (lake : Bool) (base log2 pos n : Nat) : List Byte :=
  (List.range n).flatMap (fun k => s.bytesAt lake (base + 32 * ((pos + k) % 2 ^ log2)) 32)

/-- The fail records that a site's selection copies for one test; 0 for all (R286). -/
def State.failMax (s : State) (x : Nat) : Nat := match s.svcTable x 4 with | some t => leAt t 0x20 4 | none => 0

/-- Does a sweep run at a site, whose capture ring the netlist service then consumes (R296). -/
def State.sweeps (s : State) (x : Nat) : Bool :=
  match s.svcTable x 1 with
  | some t => (s.plan x).armed && s.netPending x t
  | none => false

/-- The oldest record of the capture ring is consumed, and copied where the test's FAIL_MAX allows it (R286). -/
def State.putFail (s : State) (x : Nat) : State :=
  let rd := s.get F.SEP_CAP_RING_RD.POS x
  if !s.logSelects x 1 || s.sweeps x || rd = s.get F.SEP_CAP_RING_WR.POS x then s
  else
    let b := s.ringBytes (s.flag F.SEP_CAP_RING_CFG.MEM x) (s.get F.SEP_CAP_RING_BASE.ADDR x) (s.get F.SEP_CAP_RING_CFG.LOG2 x) rd 1
    let p := s.plan x
    let s1 := s.set F.SEP_CAP_RING_RD.POS x (rd + 1)
    if s.failMax x = 0 || p.copied < s.failMax x then
      (s1.setPlan x { p with copied := p.copied + 1 }).resPut x (s.copyRecord x 1 rd b)
    else s1

/-- The oldest record of the acquisition ring is consumed and copied (R286). -/
def State.putAcq (s : State) (x : Nat) : State :=
  let rd := s.get F.SEP_ACQ_RING_RD.POS x
  let base := s.get F.SEP_ACQ_RING_BASE.ADDR x
  let log2 := s.get F.SEP_ACQ_RING_CFG.LOG2 x
  let lake := s.flag F.SEP_ACQ_RING_CFG.MEM x
  if !s.logSelects x 2 || rd = s.get F.SEP_ACQ_RING_WR.POS x then s
  else
    let n := max 1 (leAt (s.ringBytes lake base log2 rd 1) 0x16 2)
    (s.set F.SEP_ACQ_RING_RD.POS x (rd + n)).resPut x (s.copyRecord x 2 rd (s.ringBytes lake base log2 rd n))

/-- DATALOG_RECORD (R285, R286): the datalog service writes the oldest record of a source to the result ring, or drops it. -/
def execDatalogRecord (e : Nat) (x : Site) (src : LogSource) (s : State) : Out :=
  let s := s.elapse e
  let x := x.val
  if !s.running then .next s
  else match src with
    | .made => .next ((s.putMade x).planPause x)
    | .fail => .next ((s.putFail x).planPause x)
    | .acq => .next ((s.putAcq x).planPause x)

/-- LOST (R286). -/
def execLost (e : Nat) (x : Site) (s : State) : Out :=
  let s := s.elapse e
  .next (if s.running then (s.resLost x.val).planPause x.val else s)

/-- A write to HRG_RES_RD (R350): ignored beyond WR; a paused plan looks at the ring again (R286). -/
def State.writeResRd (s : State) (x v : Nat) : State :=
  if rdOk (s.get F.HRG_RES_RD.POS x) (s.get F.HRG_RES_WR.POS x) v then (s.set F.HRG_RES_RD.POS x v).planPause x else s

/-- HRG_RES_RD_WRITE (R350). -/
def execHrgResRdWrite (e : Nat) (x : Site) (v : Word32) (s : State) : Out := .next ((s.elapse e).writeResRd x.val v.toNat)

/-! ### The netlist sweep (R294, R295) -/

/-- The contacts of a netlist table as (device, channel, net). -/
def netContacts (t : List Byte) : List (Nat × Nat × Nat) :=
  (List.range (leAt t 0 2)).map (fun k => (leAt t (32 + 8 * k) 1, leAt t (32 + 8 * k + 2) 2, leAt t (32 + 8 * k + 4) 2))

/-- The index of this device's contact on a channel. -/
def State.contactOf (s : State) (cs : List (Nat × Nat × Nat)) (c : Nat) : Option Nat :=
  cs.findIdx? (fun p => p.1 == s.get F.DEV_NUMBER.NUMBER 0 && p.2.1 == c)

/-- The net of contact i. -/
def netOf (cs : List (Nat × Nat × Nat)) (i : Nat) : Nat := (cs.getD i (0, 0, 0xFFFF)).2.2

/-- Are two contacts expected to reach each other. -/
def sameNet (cs : List (Nat × Nat × Nat)) (i j : Nat) : Bool := netOf cs i != 0xFFFF && netOf cs i == netOf cs j

/-- The symbol that contact j carries in step granule i (R295). -/
def sweepSymbol (cs : List (Nat × Nat × Nat)) (i j : Nat) : Nat :=
  if cs.length ≤ i then 0xE else if i = j then 0xD else if sameNet cs i j then 0xF else 0xE

/-- The symbol that a channel of the site carries in granule i: X where it is no contact. -/
def State.sweepAt (s : State) (cs : List (Nat × Nat × Nat)) (i c : Nat) : Nat :=
  match s.contactOf cs c with
  | some j => sweepSymbol cs i j
  | none => 5

/-- The sweep waveform of a symbol in the alternate or the primary set, with its strobe at `half` (R116, R295). Each uses the
two time words of its own entry. -/
def sweepWave (w half : Nat) (alt : Bool) : WaveEntry :=
  let drive := (if w = 0xD then 1 else 3) + 8 * w
  let strobe := (1 + 4 * (if w = 0xE then 1 else 2) + 32 * (2 * w + 1)) * 2 ^ 32
  ⟨if alt && w != 0xD then drive + strobe else drive, 0, half⟩

/-- The sweep waveforms of a contact channel. -/
def State.sweepChan (s : State) (t : List Byte) (i c : Nat) : State :=
  let prim := leAt t 4 1
  let half := s.get F.WOD_PERIOD.PERIOD (64 * i + prim) / 2
  s.each [0xD, 0xE, 0xF] (fun s w =>
    (s.setWave c prim w (sweepWave w half false)).setWave c (leAt t 5 1) w (sweepWave w half true))

/-- The number of granules of the sweep segment. -/
def sweepLen (t : List Byte) : Nat := max 8 (leAt t 0 2 + 1)

/-- The map entry of a granule of the control column: RAW for the first and the last, COPY between (R90, R295). -/
def sweepForm (len m : Nat) : Nat := if m = 0 || m + 1 = len then 0 else 2

/-- The control words of a granule of the sweep: ALT 0 at vector 0, and ALT 1 or END at vector 63. -/
def sweepControl (last : Bool) : List Byte :=
  toBytes 2 0x5000 ++ List.replicate 124 0 ++ toBytes 2 (if last then 0x6000 else 0x5001)

/-- The tile block of the sweep segment for a slice, at a base (R91, R295). -/
def State.sweepBlock (s : State) (cs : List (Nat × Nat × Nat)) (len i base : Nat) : State :=
  let qs := s.sliceQuads i
  let mt := alignUp (4 * len * (qs.length + 1)) 64
  let s1 := s.each (List.range len) (fun s m => s.putBytes false (base + 4 * m) (toBytes 4 (sweepForm len m)))
  let s2 := (s1.putBytes false (base + mt) (sweepControl false)).putBytes false (base + mt + 128 * (len - 1)) (sweepControl true)
  s2.each (List.range qs.length) (fun s q => s.each (List.range len) (fun s m =>
    let word := (List.range 4).foldl (fun a k => a + s.sweepAt cs m (128 * (i / 32) + 4 * qs.getD q 0 + k) * 16 ^ k) 0
    s.putBytes false (base + 4 * ((q + 1) * len + m)) (toBytes 4 (1 + word * 65536))))

/-- The column counts of a site's slices on this device (R92). -/
def State.sweepCols (s : State) (x : Nat) : Nat :=
  (s.slicesOf x).foldl (fun a i => a + ((s.sliceQuads i).length + 1) * 64 ^ (i / 32)) 0

/-- The bytes of the tile block of slice i (R91). -/
def State.sweepBytes (s : State) (len i : Nat) : Nat :=
  let c := (s.sliceQuads i).length + 1
  alignUp (4 * len * c) 64 + 128 * len * c

/-- The segment of the sweep and its descriptor. -/
def State.sweepSegment (s : State) (x : Nat) (t : List Byte) : State :=
  let cs := netContacts t
  let len := sweepLen t
  let r := (s.slicesOf x).foldl (fun (p : State × Nat) i => (p.1.sweepBlock cs len i p.2, p.2 + s.sweepBytes len i)) (s, leAt t 0x10 8)
  let w0 := leAt t 0x10 8 + len * 2 ^ 40 + 2 ^ 57 + 2 ^ 63
  let w1 := s.sweepCols x + x * 2 ^ 48 + 2 ^ 62
  let w2 := 0xFFFFFF + 0xFFFFFF * 2 ^ 24
  r.1.putBytes false (s.img.segtab + 32 * leAt t 8 4) (toBytes 8 w0 ++ toBytes 8 w1 ++ toBytes 8 w2 ++ toBytes 8 0xFFFFFF)

/-- The program of the sweep and its directory entry (R152, R157, R295). -/
def State.sweepProgram (s : State) (x : Nat) (t : List Byte) : State :=
  let w0 := 0x03 * 2 ^ 56 + 2 ^ 48 + leAt t 4 1 + leAt t 5 1 * 256
  let w1 := 0x01 * 2 ^ 56 + leAt t 8 4 + 2 ^ 24
  let a := leAt t 0x18 8
  let s1 := s.putBytes false a (toBytes 8 w0 ++ toBytes 8 w1 ++ toBytes 8 (0x12 * 2 ^ 56) ++ toBytes 8 (0x7F * 2 ^ 56))
  s1.putBytes false (s.get F.MDR_STEP_PDIR.ADDR 0 + 524288 * x + 8 * leAt t 2 2) (toBytes 8 (a / 8 * 8 + 4 * 2 ^ 40))

/-- The netlist service builds the sweep of a site on this device (R295). -/
def State.netBuild (s : State) (x : Nat) (t : List Byte) : State :=
  let cs := netContacts t
  let s1 := s.each (s.slicesOf x) (fun s i =>
    s.each ((s.sliceChans i).filter (fun c => (s.contactOf cs c).isSome)) (fun s c => s.sweepChan t i c))
  let s2 := s1.sweepSegment x t
  if s.proxy x then s2 else s2.sweepProgram x t

/-- The sweep of a site that has a netlist table is built. -/
def State.netRebuild (s : State) (x : Nat) : State := match s.svcTable x 7 with | some t => s.netBuild x t | none => s

/-- NETLIST_BUILD (R295): at commit, and for a table that is replaced. -/
def execNetlistBuild (e : Nat) (x : Site) (s : State) : Out :=
  let s := s.elapse e
  .next (if s.running && (s.siteState x.val == 1 || s.siteState x.val == 6) then s.netRebuild x.val else s)

/-! ### Netlist findings (R296) -/

/-- The channel on its device that slice channel index k names in a tile: through R64 on this device, and through the quads
that hold contacts on another. -/
def State.netChannel (s : State) (x dev tile k : Nat) (cs : List (Nat × Nat × Nat)) : Nat :=
  if dev = s.get F.DEV_NUMBER.NUMBER 0 then
    match (s.slicesOf x).find? (fun i => i / 32 == tile) with
    | some i => (s.sliceChans i).getD k 1024
    | none => 1024
  else
    let qs := ((cs.filter (fun p => p.1 == dev && p.2.1 / 128 == tile)).map (fun p => p.2.1 / 4)).dedup.mergeSort (fun a b => a ≤ b)
    4 * qs.getD (k / 4) 256 + k % 4

/-- What the fail records of a sweep say: for (step, contact), whether a failing strobe saw H. -/
def State.netFails (s : State) (x : Nat) (cs : List (Nat × Nat × Nat)) (recs : List (List Byte)) : List ((Nat × Nat) × Bool) :=
  recs.flatMap (fun b =>
    let bd := leAt b 0x11 1
    let i := leAt b 0xB 3 / 64
    ((List.range 16).filter (fun k => bitAt (leAt b 0x12 2) k)).filterMap (fun k =>
      let c := s.netChannel x (bd / 8) (leAt b 0xF 1 % 8) (16 * (bd % 8) + k) cs
      (cs.findIdx? (fun p => p.1 == bd / 8 && p.2.1 == c)).map (fun j => ((i, j), bitAt (leAt b 0x1A 6) (3 * k + 2)))))

/-- Did contact j count as reached in step i: its strobe saw H. A strobe without a fail record saw what it expected. -/
def netReached (cs : List (Nat × Nat × Nat)) (fails : List ((Nat × Nat) × Bool)) (i j : Nat) : Bool :=
  match fails.find? (fun p => p.1 == (i, j)) with
  | some p => p.2
  | none => sameNet cs i j

/-- The net that a contact is miswired to (R296). -/
def netMiswire (cs : List (Nat × Nat × Nat)) (reach : Nat → Nat → Bool) (j : Nat) : Option Nat :=
  let all := (List.range cs.length).filter (fun i => i != j)
  let r := all.filter (fun i => reach j i)
  match r with
  | [] => none
  | a :: _ =>
    let m := netOf cs a
    if r.any (fun i => sameNet cs j i) || m == 0xFFFF then none
    else if r == (List.range cs.length).filter (fun i => netOf cs i == m) then some m else none

/-- The findings of a sweep as (kind, A, B), ascending by the first contact (R296). -/
def netFindings (cs : List (Nat × Nat × Nat)) (reach : Nat → Nat → Bool) : List (Nat × Nat × Nat) :=
  (List.range cs.length).flatMap (fun i =>
    match netMiswire cs reach i with
    | some m => [(3, i, m)]
    | none => ((List.range cs.length).filter (fun j => decide (i < j) && (netMiswire cs reach j).isNone)).filterMap (fun j =>
      if sameNet cs i j then (if reach i j && reach j i then none else some (1, i, j))
      else if reach i j || reach j i then some (2, i, j) else none))

/-- The records that stand in a site's capture ring. -/
def State.capRecords (s : State) (x : Nat) : List (List Byte) :=
  let rd := s.get F.SEP_CAP_RING_RD.POS x
  (List.range (ringDist rd (s.get F.SEP_CAP_RING_WR.POS x))).map (fun k =>
    s.ringBytes (s.flag F.SEP_CAP_RING_CFG.MEM x) (s.get F.SEP_CAP_RING_BASE.ADDR x) (s.get F.SEP_CAP_RING_CFG.LOG2 x) (rd + k) 1)

/-- A NETLIST record (R285). -/
def State.logNet (s : State) (x kind flags a b n : Nat) : State :=
  s.log x 0x16 s.now (s.testNo x) 0 1 (toBytes 1 kind ++ toBytes 1 flags ++ toBytes 2 a ++ toBytes 2 b ++ toBytes 2 n)

/-- The fail records of a sweep become findings and a summary, and the capture ring is consumed (R296). -/
def State.netAnalyse (s : State) (x : Nat) (t : List Byte) : State :=
  let cs := netContacts t
  let recs := s.capRecords x
  let found := netFindings cs (netReached cs (s.netFails x cs recs))
  let part := s.get F.SEP_CAP_LOST.COUNT x != 0 || recs.any (fun b => bitAt (leAt b 0xF 1) 3)
  let s1 := found.foldl (fun s f => s.logNet x f.1 0 f.2.1 f.2.2 0) s
  let s2 := s1.logNet x 4 (ofBool part) 0 0 (if part then 0xFFFF else found.length)
  (s2.setPlan x { s2.plan x with netDone := true, net := if part then none else some found.length }).set F.SEP_CAP_RING_RD.POS x
    (s.get F.SEP_CAP_RING_WR.POS x)

/-- NETLIST_ANALYSIS (R296): the sweep that a plan runs has ended. -/
def execNetlistAnalysis (e : Nat) (x : Site) (s : State) : Out :=
  let s := s.elapse e
  let x := x.val
  match s.svcTable x 1, s.svcTable x 7 with
  | some t, some n =>
    if (s.plan x).armed && s.siteState x == 6 && s.netPending x t then .next (s.netAnalyse x n) else .next s
  | _, _ => .next s

end Sys2Proof.Machine
end

