-- ==== Sys2Proof/Machine/Uds.lean ====
section
/-! DEFINITION. The UDS client (spec/14_services.md, R287–R293): jobs, responses and their timing, security access, downloads. The
messages are modelled; the frames that carry them are those of ISO 15765-2 and ISO 13400-2, outside the spec. -/

namespace Sys2Proof.Machine

/-! ### Connections (R287) -/

/-- The key of connection u of a site. -/
def connKey (x u : Nat) : Nat := 64 * x + u

/-- A connection. -/
def State.conn (s : State) (k : Nat) : UdsConn := Tab.get {} s.uds k

/-- A connection replaced. -/
def State.setConn (s : State) (k : Nat) (u : UdsConn) : State := { s with uds := Tab.set {} s.uds k u }

/-- A field of the entry of a connection. -/
def State.connFld (s : State) (k o n : Nat) : Nat := leAt ((s.svcTable (k / 64) 5).getD []) (64 * (k % 64) + o) n

/-- Ticks in a millisecond. -/
abbrev msec (n : Nat) : Nat := us (1000 * n)

/-- A number as n bytes, most significant first. -/
def beBytes (n v : Nat) : List Byte := (toBytes n v).reverse

/-- The number of n bytes at an offset, most significant first. -/
def beAt (b : List Byte) (o n : Nat) : Nat := ofBytes ((b.drop o).take n).reverse

/-- The wait for a response: P2 of the server once a session has given it (R289). -/
def State.p2 (s : State) (k : Nat) : Nat := msec (match (s.conn k).p2 with | some n => n | none => s.connFld k 0x12 2)

/-- The wait after a responsePending response: P2* (R289). -/
def State.p2x (s : State) (k : Nat) : Nat := msec (match (s.conn k).p2x with | some n => n | none => s.connFld k 0x14 2)

/-- The client consumes the receive ring of the connection's engine (R288). -/
def State.connConsume (s : State) (k : Nat) : State :=
  let en := s.connFld k 0 1
  s.set F.BUS_RX_RD.POS en (s.get F.BUS_RX_WR.POS en)

/-! ### Jobs (R289) -/

/-- The UDS item that a core runs, with the key of its connection. -/
def State.udsItem (s : State) (c : Nat) : Option (SafItem × Nat) :=
  match s.running? c with
  | some i =>
    if i.w.src != 4 && decide (8 ≤ i.w.flow) && decide (i.w.flow ≤ 71) && s.hasConn i.w.site (i.w.flow - 8) then
      some (i, connKey i.w.site (i.w.flow - 8))
    else none
  | none => none

/-- Where a 41-bit address field points: its address, and whether it lies in Lake. -/
def memPtr (v : Nat) : Nat × Bool := (bitsOf v 0 40, bitAt v 40)

/-- Can n bytes at an address field be read. -/
def State.ptrOk (s : State) (v n : Nat) : Bool := s.readable (memPtr v).2 (memPtr v).1 n

/-- n bytes at an address field. -/
def State.ptrBytes (s : State) (v n : Nat) : List Byte := s.bytesAt (memPtr v).2 (memPtr v).1 n

/-- Bytes written at an address field; a Lake span that no engine may write takes nothing (R322). -/
def State.ptrWrite (s : State) (v : Nat) (b : List Byte) : State :=
  let a := (memPtr v).1
  if b.isEmpty then s
  else if (memPtr v).2 then (if s.portB a b.length then s.dmaWrite true a b else s.denyB a b.length)
  else s.dmaWrite false a b

/-- The address field of an item's job block. -/
def jobPtr (i : SafItem) : Nat := bitsOf i.w.g0 0 40 + (if i.w.arg % 2 = 1 then 2 ^ 40 else 0)

/-- The job that a job block describes. -/
def State.readJob (s : State) (c : Nat) (i : SafItem) : UdsJob :=
  let b := s.ptrBytes (jobPtr i) 64
  { item := i.id, core := c, block := bitsOf (jobPtr i) 0 40, lake := bitAt (jobPtr i) 40, op := leAt b 0 1, param := leAt b 2 2,
    reqAddr := leAt b 8 8, rspAddr := leAt b 0x10 8, rspMax := leAt b 0x18 4 }

/-- The request of a REQUEST job. -/
def State.requestOf (s : State) (i : SafItem) : Nat := leAt (s.ptrBytes (jobPtr i) 64) 4 4

/-- Is a job block valid: its reserved bytes, its parameter, and the bytes that it names. -/
def State.jobOk (s : State) (i : SafItem) (k : Nat) (j : UdsJob) : Bool :=
  let b := s.ptrBytes (jobPtr i) 64
  let n := s.requestOf i
  leAt b 1 1 == 0 && allZero ((b.drop 0x34).take 12) && (match j.op with
    | 1 => decide (1 ≤ n) && (s.connFld k 1 1 != 1 || decide (n ≤ 4095)) && s.ptrOk j.reqAddr n
    | 2 => decide (j.param < 256)
    | 3 => decide (j.param ≤ 0x7D) && j.param % 2 == 1
    | 4 => decide (1 ≤ j.param) && decide (j.param ≤ 256) && s.ptrOk j.reqAddr (32 * j.param)
    | 5 => decide (j.param < 256)
    | _ => false)

/-- A job ends: its block is written back, its record made, and its item completes (R275, R285, R289). A DT that no frame gave is
open. -/
def State.jobEnd (s : State) (k : Nat) (j : UdsJob) (status nrc len : Nat) (last : Option Nat) : State :=
  let x := k / 64
  let first := match j.first with | some d => d | none => s.fresh
  let end_ := match last with | some d => d | none => s.drew.fresh
  let tail := toBytes 4 len ++ toBytes 8 first ++ toBytes 8 end_
  let s1 := s.drew.drew.ptrWrite (j.block + 0x1C + (if j.lake then 2 ^ 40 else 0))
    (tail ++ toBytes 1 nrc ++ toBytes 1 status ++ toBytes 2 j.count)
  let sid := match j.req with | b :: _ => b.toNat | [] => 0
  let s2 := s1.log x 0x15 s.now (s.testNo x) 0 2 (toBytes 1 (k % 64) ++ toBytes 1 j.op ++ toBytes 1 sid ++ toBytes 1 nrc ++
    toBytes 1 status ++ toBytes 1 0 ++ toBytes 2 j.count ++ tail)
  match s2.saf.serv.find? (fun p => p.2.id == j.item) with
  | some p => s2.safEnd p.1 p.2 (resultWord status nrc len)
  | none => s2.setConn k { s2.conn k with job := none }

/-- A request of a job goes out; its frames began at `sof` and ended at `eof`. -/
def State.jobSend (s : State) (k : Nat) (j : UdsJob) (msg : List Byte) (sof eof : Nat) : State :=
  let j1 : UdsJob := { j with out := true, req := msg, sent := eof, wait := s.p2 k,
                              first := match j.first with | some d => some d | none => some sof }
  (s.setConn k { s.conn k with job := some j1 }).emit (.uds (k / 64) (k % 64) msg)

/-! ### Downloads (R293) -/

/-- A field of region r of a DOWNLOAD job. -/
def State.regionFld (s : State) (j : UdsJob) (o n : Nat) : Nat := leAt (s.ptrBytes j.reqAddr (32 * j.param)) (32 * j.region + o) n

/-- Address and size of a region by its ALFID: as many bytes as its low and high nibbles say. -/
def State.regionSpan (s : State) (j : UdsJob) : List Byte :=
  let f := s.regionFld j 0x10 1
  beBytes (f % 16) (s.regionFld j 8 4) ++ beBytes (f / 16) (s.regionFld j 0xC 4)

/-- The image bytes that the next TransferData request carries. -/
def State.chunkLen (s : State) (j : UdsJob) : Nat := min (j.blockLen - 2) (s.regionFld j 0xC 4 - j.off)

/-- The next request of a DOWNLOAD job by its stage: 0 erase routine, 1 RequestDownload, 2 TransferData, 3 RequestTransferExit, 4
check routine. -/
def State.loadMessage (s : State) (j : UdsJob) : List Byte :=
  match j.stage with
  | 0 => toBytes 2 0x0131 ++ beBytes 2 (s.regionFld j 0x12 2) ++ s.regionSpan j
  | 1 => toBytes 1 0x34 ++ toBytes 1 (s.regionFld j 0x11 1) ++ toBytes 1 (s.regionFld j 0x10 1) ++ s.regionSpan j
  | 2 => toBytes 1 0x36 ++ toBytes 1 j.ctr ++ s.bytesAt false (s.regionFld j 0 8 + j.off) (s.chunkLen j)
  | 3 => toBytes 1 0x37
  | _ => toBytes 2 0x0131 ++ beBytes 2 (s.regionFld j 0x14 2)

/-- A region begins: with its erase routine where it has one. -/
def State.regionStart (s : State) (j : UdsJob) : UdsJob :=
  { j with stage := if s.regionFld j 0x12 2 = 0 then 1 else 0, off := 0, ctr := 1, out := false }

/-- Can the image bytes of the region be read, of which there are some. -/
def State.regionOk (s : State) (j : UdsJob) : Bool :=
  let n := s.regionFld j 0xC 4
  decide (1 ≤ n) && decide (s.regionFld j 0 8 < 2 ^ 40) && (s.region 0 (s.regionFld j 0 8) n).isSome

/-- A region is done: the next begins, or the job ends with status 0 (R293). -/
def State.regionDone (s : State) (k : Nat) (j : UdsJob) (eof : Nat) : State :=
  if j.region + 1 < j.param then
    s.setConn k { s.conn k with job := some (s.regionStart { j with region := j.region + 1 }) }
  else s.jobEnd k j 0 0 j.acked (some eof)

/-- maxNumberOfBlockLength of a RequestDownload response (R293). -/
def blockLenOf (b : List Byte) : Nat := beAt b 2 ((b.getD 1 0).toNat / 16)

/-- A positive response advances a DOWNLOAD job. -/
def State.loadNext (s : State) (k : Nat) (j : UdsJob) (b : List Byte) (eof : Nat) : State :=
  let put (j : UdsJob) : State := s.setConn k { s.conn k with job := some { j with out := false } }
  match j.stage with
  | 0 => put { j with stage := 1 }
  | 1 =>
    let n := min (blockLenOf b) (s.connFld k 0x1A 2)
    if n < 3 then s.jobEnd k j 3 0 j.acked (some eof) else put { j with stage := 2, blockLen := n, off := 0, ctr := 1 }
  | 2 =>
    let n := s.chunkLen j
    let j1 : UdsJob := { j with off := j.off + n, acked := j.acked + n, ctr := (j.ctr + 1) % 256 }
    put (if s.regionFld j 0xC 4 ≤ j1.off then { j1 with stage := 3 } else j1)
  | 3 => if s.regionFld j 0x14 2 = 0 then s.regionDone k j eof else put { j with stage := 4 }
  | _ => s.regionDone k j eof

/-! ### Security access (R290–R292) -/

/-- The entry of a site's security table for a level. -/
def State.secEntry (s : State) (x level : Nat) : Option (List Byte) :=
  let t := (s.svcTable x 6).getD []
  ((List.range (t.length / 16)).map (fun n => (t.drop (16 * n)).take 16)).find? (fun b => leAt b 0 1 == level)

/-- The kind of key in a slot of a site: 0 empty, 1 HMAC, 2 AES (R291). -/
def State.slotKind (s : State) (x n : Nat) : Nat := bitsOf (s.get F.PCI_KEY_MAP.SLOTS x) (2 * n) 2

/-- A slot of a site's key store takes a key of a kind, or is emptied. -/
def State.setSlot (s : State) (x n kind : Nat) (b : List Byte) : State :=
  let v := s.get F.PCI_KEY_MAP.SLOTS x
  { s.set F.PCI_KEY_MAP.SLOTS x (v - s.slotKind x n * 4 ^ n + kind * 4 ^ n) with keys := Tab.set [] s.keys (8 * x + n) b }

/-- The key that an entry computes from a seed (R290). -/
def State.secKey (s : State) (x : Nat) (b seed : List Byte) : List Byte :=
  let secret := Tab.get [] s.keys (8 * x + leAt b 2 1)
  let msg := seed ++ (b.drop 8).take (leAt b 4 1)
  (if leAt b 1 1 = 1 then Config.hmacSha256 secret msg else Config.aesCmac secret msg).take (leAt b 3 1)

/-- The first job that asks the host for a key posts its request in mailbox 0 once that is EMPTY (R292). The request number and the
doorbell value are open. -/
def State.keyPost (s : State) : State :=
  match s.keyQ with
  | k :: _ =>
    match (s.conn k).job with
    | some j =>
      if j.keyNo.isSome || s.flag F.MBX_STAT.FULL 0 then s
      else
        let n := s.fresh % 256
        let s1 := s.drew.set F.MBX_DATA.DATA 0 (k / 64 + j.param * 256 + j.seed.length * 65536 + n * 16777216)
        let s2 := s1.each (List.range 12) (fun s w => s.set F.MBX_DATA.DATA (w + 1) (leAt j.seed (4 * w) 4))
        let s3 := s2.drew.mbxPost 0 (0x20 + j.core) s2.fresh
        s3.setConn k { s3.conn k with job := some { j with keyNo := some n } }
    | none => s
  | [] => s

/-- A SECURITY job with its seed computes the key, or asks the host for it; `ecc` is what the check of the key store finds. -/
def State.secCompute (s : State) (k : Nat) (j : UdsJob) (ecc : Ecc) (sof eof : Nat) : State :=
  let x := k / 64
  match s.secEntry x j.param with
  | none => s.jobEnd k j 3 0 0 none
  | some b =>
    let slot := leAt b 2 1
    if leAt b 1 1 = 0 then
      if j.seed.length ≤ 48 then
        { s.setConn k { s.conn k with job := some { j with stage := 2, keyAt := some (wrap64 (s.now + msec (leAt b 6 2))) } } with
          keyQ := s.keyQ ++ [k] }
      else s.jobEnd k j 3 0 0 none
    else if s.slotKind x slot != leAt b 1 1 then s.jobEnd k j 3 0 0 none
    else if ecc = .uncorrectable then
      ((s.setSlot x slot 0 []).raiseU 11 F.SVC_FAULT_STAT.KEY_UNCORR 0).jobEnd k j 4 0 0 none
    else
      let s1 := if ecc = .corrected then s.raiseC F.SVC_FAULT_STAT.KEY_CORR 0 else s
      s1.jobSend k { j with stage := 3 } (toBytes 1 0x27 ++ toBytes 1 (j.param + 1) ++ s.secKey x b j.seed) sof eof

/-! ### Sending requests (R289, R290, R293) -/

/-- The first request of a job. -/
def State.firstMessage (s : State) (i : SafItem) (j : UdsJob) : List Byte :=
  match j.op with
  | 1 => s.ptrBytes j.reqAddr (s.requestOf i)
  | 2 => toBytes 1 0x10 ++ toBytes 1 j.param
  | 3 => toBytes 1 0x27 ++ toBytes 1 j.param
  | 5 => toBytes 1 0x11 ++ toBytes 1 j.param
  | _ => s.loadMessage j

/-- A core begins the UDS job that it runs, if it is of an operation: its first request has gone out, or the job is invalid. -/
def State.jobBegin (s : State) (c op : Nat) (i : SafItem) (k sof eof : Nat) : State :=
  if !s.ptrOk (jobPtr i) 64 then s.safEnd c i (resultWord 3 0 0)
  else if s.eccBad (memPtr (jobPtr i)).2 (memPtr (jobPtr i)).1 64 then
    (s.eccRaise (memPtr (jobPtr i)).2 .uncorrectable).safEnd c i (resultWord 4 0 0)
  else
    let j := s.readJob c i
    if j.op != op then s
    else if !s.jobOk i k j then s.jobEnd k j 3 0 0 none
    else
      let j1 := if op = 4 then s.regionStart j else j
      if op = 4 && !s.regionOk j1 then s.jobEnd k j1 3 0 0 none else s.jobSend k j1 (s.firstMessage i j1) sof eof

/-- The row of an operation: the job on a core begins, where its request has gone out by now. -/
def State.udsRow (s : State) (c op sof eof : Nat) : State :=
  match s.udsItem c with
  | some (i, k) => if (s.conn k).job.isNone && s.reached sof && s.reached eof then s.jobBegin c op i k sof eof else s
  | none => s

/-- UDS_REQUEST (R289): the request of a REQUEST job has gone out in frames from `sof` to `eof`. -/
def execUdsRequest (e : Nat) (c : Core) (sof eof : Word64) (s : State) : Out :=
  .next ((s.elapse e).udsRow c.val 1 sof.toNat eof.toNat)

/-- UDS_SESSION (R289). -/
def execUdsSession (e : Nat) (c : Core) (sof eof : Word64) (s : State) : Out :=
  .next ((s.elapse e).udsRow c.val 2 sof.toNat eof.toNat)

/-- ECU_RESET (R289). -/
def execEcuReset (e : Nat) (c : Core) (sof eof : Word64) (s : State) : Out :=
  .next ((s.elapse e).udsRow c.val 5 sof.toNat eof.toNat)

/-- An open SECURITY job goes on: with a seed the key is found, with a key it is sent. -/
def State.secGo (s : State) (k : Nat) (j : UdsJob) (ecc : Ecc) (sof eof : Nat) : State :=
  if j.op != 3 || j.out then s
  else if j.stage = 1 then (s.secCompute k j ecc sof eof).keyPost
  else if j.stage = 3 then s.jobSend k j (toBytes 1 0x27 ++ toBytes 1 (j.param + 1) ++ j.key) sof eof
  else s.keyPost

/-- SECURITY (R290–R292): a SECURITY job requests a seed, and sends the key once it has one. -/
def execSecurity (e : Nat) (c : Core) (ecc : Ecc) (sof eof : Word64) (s : State) : Out :=
  let s := s.elapse e
  match s.udsItem c.val with
  | some (i, k) =>
    if !s.reached sof.toNat || !s.reached eof.toNat then .next s
    else match (s.conn k).job with
      | none => .next (s.jobBegin c.val 3 i k sof.toNat eof.toNat)
      | some j => .next (s.secGo k j ecc sof.toNat eof.toNat)
  | none => .next s

/-- An open DOWNLOAD job sends its next request. -/
def State.loadGo (s : State) (k : Nat) (j : UdsJob) (sof eof : Nat) : State :=
  if j.op != 4 || j.out then s
  else if s.regionOk j then s.jobSend k j (s.loadMessage j) sof eof
  else s.jobEnd k j 3 0 j.acked none

/-- DOWNLOAD (R293): a DOWNLOAD job sends its next request. -/
def execDownload (e : Nat) (c : Core) (sof eof : Word64) (s : State) : Out :=
  let s := s.elapse e
  match s.udsItem c.val with
  | some (i, k) =>
    if !s.reached sof.toNat || !s.reached eof.toNat then .next s
    else match (s.conn k).job with
      | none => .next (s.jobBegin c.val 4 i k sof.toNat eof.toNat)
      | some j => .next (s.loadGo k j sof.toNat eof.toNat)
  | none => .next s

/-! ### Responses (R288, R289) -/

/-- Does a positive response answer a request: its SID, and what it must echo (R289). -/
def udsAnswers (q r : List Byte) : Bool :=
  let sid := (q.getD 0 0).toNat
  let sub := (r.getD 1 0).toNat == (q.getD 1 0).toNat % 128 && decide (2 ≤ r.length)
  let two (o : Nat) : Bool := decide (o + 2 ≤ r.length) && (r.drop o).take 2 == (q.drop o).take 2
  (r.getD 0 0).toNat == (sid + 0x40) % 256 && decide (1 ≤ r.length) && (match sid with
    | 0x10 => sub
    | 0x11 => sub
    | 0x19 => sub
    | 0x27 => sub
    | 0x31 => sub && two 2
    | 0x22 => two 1
    | 0x2E => two 1
    | _ => true)

/-- Does a request ask that its positive response be suppressed: bit 7 of the sub-function, where its service has one. -/
def udsSuppress (q : List Byte) : Bool :=
  [0x10, 0x11, 0x19, 0x27, 0x28, 0x29, 0x2C, 0x31, 0x3E, 0x83, 0x85, 0x86, 0x87].contains (q.getD 0 0).toNat &&
    bitAt (q.getD 1 0).toNat 7

/-- A positive response to DiagnosticSessionControl: the server's P2 and P2* (in units of 10 ms), and TesterPresent (R289). -/
def State.sessionUp (s : State) (k : Nat) (q r : List Byte) : State :=
  if (q.getD 0 0).toNat != 0x10 then s
  else
    let u := s.conn k
    let n := (q.getD 1 0).toNat % 128
    let u1 : UdsConn := if 6 ≤ r.length then { u with p2 := some (beAt r 2 2), p2x := some (10 * beAt r 4 2) } else u
    let at_ := if n != 1 && bitAt (s.connFld k 0xF 1) 1 then some (wrap64 (s.now + msec (s.connFld k 0x16 2))) else none
    s.setConn k { u1 with session := n, presentAt := at_ }

/-- A job's last response is put in its buffer; a longer one is cut, and completes with status 3 (R289). -/
def State.jobAnswer (s : State) (k : Nat) (j : UdsJob) (r : List Byte) (status nrc eof : Nat) : State :=
  let s1 := s.ptrWrite j.rspAddr (r.take j.rspMax)
  s1.jobEnd k j (if status = 0 && decide (j.rspMax < r.length) then 3 else status) nrc r.length (some eof)

/-- A positive response that answers the request of a job. -/
def State.jobPositive (s : State) (k : Nat) (j : UdsJob) (r : List Byte) (eof : Nat) : State :=
  let s1 := s.sessionUp k j.req r
  if j.op = 4 then s1.loadNext k j r eof
  else if j.op = 3 && j.stage = 0 then
    if allZero (r.drop 2) then s1.jobAnswer k j r 0 0 eof
    else s1.setConn k { s1.conn k with job := some { j with stage := 1, seed := r.drop 2, out := false } }
  else s1.jobAnswer k j r 0 0 eof

/-- The result value of a job that a response ends early: the bytes acknowledged, for a DOWNLOAD (R293). -/
def State.jobNegative (s : State) (k : Nat) (j : UdsJob) (r : List Byte) (status nrc eof : Nat) : State :=
  if j.op = 4 then s.jobEnd k j status nrc j.acked (some eof) else s.jobAnswer k j r status nrc eof

/-- A response message reaches a job that waits for one (R289). -/
def State.jobMessage (s : State) (k : Nat) (j : UdsJob) (r : List Byte) (eof : Nat) : State :=
  let neg := (r.getD 0 0).toNat == 0x7F && r.length == 3 && r.getD 1 0 == j.req.getD 0 0
  let nrc := (r.getD 2 0).toNat
  if neg && nrc == 0x78 then
    let j1 : UdsJob := { j with count := j.count + 1, sent := eof, wait := s.p2x k }
    if 255 ≤ j1.count then s.jobEnd k j1 2 0 0 (some eof) else s.setConn k { s.conn k with job := some j1 }
  else if neg then s.jobNegative k j r 1 nrc eof
  else if udsAnswers j.req r then s.jobPositive k j r eof
  else s.jobNegative k j r 3 0 eof

/-- What reaches an open transaction. -/
def State.jobInput (s : State) (k : Nat) (j : UdsJob) (r : UdsIn) (eof : Nat) : State :=
  match r with
  | .message b => s.jobMessage k j b eof
  | .nack code => if s.connFld k 1 1 = 3 then s.jobEnd k j 1 code.toNat 0 (some eof) else s

/-- Does a message that began at a DT meet the transaction of a job: a request is out, and the message begins within its wait. -/
def UdsJob.meets (j : UdsJob) (sof : Nat) : Bool := j.out && dtReached (wrap64 (j.sent + j.wait)) sof

/-- UDS_RESPONSE (R288, R289): a response in frames from `sof` to `eof` reaches connection u of a site; one that belongs to no open
transaction is discarded and counted. -/
def execUdsResponse (e : Nat) (x : Site) (u : Fin 64) (r : UdsIn) (sof eof : Word64) (s : State) : Out :=
  let s := s.elapse e
  let k := connKey x.val u.val
  if !s.hasConn x.val u.val || !s.reached eof.toNat || !s.running then .next s
  else
    let s1 := s.connConsume k
    let lost := s1.setConn k { s1.conn k with discarded := satAdd 32 (s1.conn k).discarded 1 }
    match (s1.conn k).job with
    | some j => .next (if j.meets sof.toNat then s1.jobInput k j r eof.toNat else lost)
    | none => .next lost

/-- P2_EXPIRY (R289): no response began within the wait. With a suppressed positive response the job is done, otherwise it has timed
out. -/
def execP2Expiry (e : Nat) (x : Site) (u : Fin 64) (s : State) : Out :=
  let s := s.elapse e
  let k := connKey x.val u.val
  match (s.conn k).job with
  | some j =>
    if j.out && s.reached (wrap64 (j.sent + j.wait)) then
      if udsSuppress j.req && j.count = 0 then .next (s.jobEnd k j 0 0 0 none)
      else .next (s.jobEnd k j 2 0 (if j.op = 4 then j.acked else 0) none)
    else .next s
  | none => .next s

/-- TESTER_PRESENT (R289): 0x3E 0x80 is sent every S3_MS in a session that is not the default. -/
def execTesterPresent (e : Nat) (x : Site) (u : Fin 64) (s : State) : Out :=
  let s := s.elapse e
  let k := connKey x.val u.val
  match (s.conn k).presentAt with
  | some d =>
    if s.reached d && s.running then
      .next ((s.setConn k { s.conn k with presentAt := some (wrap64 (d + msec (s.connFld k 0x16 2))) }).emit
        (.uds x.val u.val (toBytes 2 0x803E)))
    else .next s
  | none => .next s

/-- ISOTP_N_TIMEOUT (R288): the N_Bs or N_Cr wait of a transfer that began at a DT has expired. -/
def execIsotpNTimeout (e : Nat) (c : Core) (began : Word64) (s : State) : Out :=
  let s := s.elapse e
  match s.udsItem c.val with
  | some (i, k) =>
    if s.connFld k 1 1 = 3 || !s.reached (wrap64 (began.toNat + msec (s.connFld k 0x18 2))) then .next s
    else match (s.conn k).job with
      | some j => .next (s.jobEnd k j 2 0 (if j.op = 4 then j.acked else 0) none)
      | none =>
        if s.ptrOk (jobPtr i) 64 then .next (s.jobEnd k (s.readJob c.val i) 2 0 0 none)
        else .next (s.safEnd c.val i (resultWord 2 0 0))
  | none => .next s

/-! ### Keys from the host (R292) -/

/-- Does the reply in mailbox 1 answer the request of a job. -/
def State.replyFits (s : State) (j : UdsJob) : Bool :=
  let w := s.get F.MBX_DATA.DATA 16
  j.keyNo == some (bitsOf w 24 8) && decide (1 ≤ bitsOf w 16 8) && decide (bitsOf w 16 8 ≤ 32)

/-- The key that the reply in mailbox 1 carries. -/
def State.replyKey (s : State) : List Byte :=
  ((List.range 8).flatMap (fun w => toBytes 4 (s.get F.MBX_DATA.DATA (17 + w)))).take (bitsOf (s.get F.MBX_DATA.DATA 16) 16 8)

/-- KEY_REPLY (R292): a reply is taken from mailbox 1; one that does not match the request is discarded. -/
def execKeyReply (e : Nat) (s : State) : Out :=
  let s := s.elapse e
  if !s.flag F.MBX_STAT.FULL 1 then .next s
  else
    let s1 := s.mbxEmpty 1
    match s.keyQ with
    | k :: r =>
      match (s.conn k).job with
      | some j =>
        if s.replyFits j then
          .next ({ s1.setConn k { s1.conn k with job := some { j with stage := 3, key := s.replyKey, keyNo := none, keyAt := none } } with
            keyQ := r }.keyPost)
        else .next s1
      | none => .next s1
    | [] => .next s1

/-- KEY_TIMEOUT (R292): no matching reply came within KEY_TMO_MS. -/
def execKeyTimeout (e : Nat) (x : Site) (u : Fin 64) (s : State) : Out :=
  let s := s.elapse e
  let k := connKey x.val u.val
  match (s.conn k).job with
  | some j => if j.stage = 2 && s.due j.keyAt then .next ((s.jobEnd k j 2 0 0 none).keyPost) else .next s
  | none => .next s

/-- MBX_TAKE by an agent (R353); it wins over a reset that has discarded the message at the same DT (R356); the next key request follows in mailbox 0 once it is EMPTY (R292). A message whose words have an
uncorrectable error is emptied with DISCARD set. -/
def State.mbxTake (s : State) (a : Agent) (n : Nat) (ecc : Ecc) : State :=
  if !mbxOpen n a then s
  else if !mbxTakes n a then s.mbxSideErr n
  else if !s.flag F.MBX_STAT.FULL n then
    (if s.flag F.MBX_STAT.DISCARD n && s.get F.MBX_TAKE_DT.DT n == s.now then s.set F.MBX_STAT.DISCARD n 0 else s)
  else
    let s1 := s.mbxEmpty n
    let s2 := match ecc with
      | .clean => s1
      | .corrected => s1.raiseC F.MBX_FAULT_STAT.ECC_CORR 0
      | .uncorrectable => (s1.set F.MBX_STAT.DISCARD n 1).raiseU 7 F.MBX_FAULT_STAT.ECC_UNCORR 0
    if n = 0 then s2.keyPost else s2

end Sys2Proof.Machine
end

