-- ==== Sys2Proof/Machine/MemoryOps.lean ====
section
/-! DEFINITION. Lake and DRAM as the fabric and the host reach them (spec/16_memory_dram.md): bank ownership and power states, port A
writes, operating points, promotion, open pages, and host writes to DRAM. -/

namespace Sys2Proof.Machine

/-! ### Ownership (R320, R321) -/

/-- The owner of a Lake bank. -/
def State.owner (s : State) (b : Nat) : Nat := s.get F.LAK_OWNER.OWNER b

/-- May an agent hand a bank over, or select its state: its owner, or PF1. -/
def State.bankAgent (s : State) (a : Agent) (b : Nat) : Bool := s.owner b == a.num || a == .pf1

/-- Does a value name an owner to which a bank may be handed: PF0, PF1 or a service core (R320, R321). -/
def ownerValue (v : Nat) : Bool := v == 1 || v == 2 || (decide (0x20 ≤ v) && decide (v ≤ 0x2F))

/-- A write to LAK_OWNER (R321). -/
def State.writeOwner (s : State) (a : Agent) (b v : Nat) : State :=
  if s.bankAgent a b && ownerValue v && s.owner b != 0x3F then s.set F.LAK_OWNER.OWNER b v
  else s.raiseC F.LAK_FAULT_STAT.HANDOVER_REJ 0

/-- LAK_OWNER_WRITE (R321). -/
def execLakOwnerWrite (e : Nat) (a : Agent) (b : Bank) (v : Byte) (s : State) : Out :=
  let s := s.elapse e
  .next (if s.reaches a .LAK_OWNER then s.writeOwner a b.val v.toNat else s)

/-! ### Bank power states (R323) -/

/-- The time a transition takes, where the spec gives one: to ON, or leaving ON. -/
def bankTime (cur tgt : Nat) : Option Nat :=
  if tgt = 2 then some (us (if cur = 1 then 2 else 4)) else if cur = 2 then some (us 1) else none

/-- A bank begins the transition to the state that REQ names, if it stands in another. -/
def State.bankStart (s : State) (b : Nat) : State :=
  let tgt := s.get F.LAK_STATE.REQ b
  let cur := s.get F.LAK_STATE.CUR b
  if tgt = cur then s
  else
    let due := (bankTime cur tgt).map (fun n => wrap64 (s.now + n))
    { s.set F.LAK_STATE.BUSY b 1 with lakeAt := Tab.set none s.lakeAt b (some (tgt, due)) }

/-- A write to LAK_STATE (R323): 3 is ignored, a loader-owned bank refuses. A transition in progress ends first. -/
def State.writeBank (s : State) (a : Agent) (b v : Nat) : State :=
  if s.owner b = 0x3F then s.raiseC F.LAK_FAULT_STAT.HANDOVER_REJ 0
  else if !s.bankAgent a b || v % 4 = 3 then s
  else
    let s1 := s.set F.LAK_STATE.REQ b (v % 4)
    if s.flag F.LAK_STATE.BUSY b then s1 else s1.bankStart b

/-- LAK_STATE_WRITE (R323). -/
def execLakStateWrite (e : Nat) (a : Agent) (b : Bank) (v : Word32) (s : State) : Out :=
  let s := s.elapse e
  .next (if s.reaches a .LAK_STATE then s.writeBank a b.val v.toNat else s)

/-- A bank stands in the state that its transition leads to; in OFF its contents are lost. -/
def State.bankDone (s : State) (b tgt : Nat) : State :=
  let s1 := if tgt = 0 then s.loseBank b else s
  let s2 := { (s1.set F.LAK_STATE.BUSY b 0).set F.LAK_STATE.CUR b tgt with lakeAt := Tab.set none s1.lakeAt b none }
  s2.bankStart b

/-- BANK_TRANSITION_COMPLETE (R323). -/
def execBankTransitionComplete (e : Nat) (b : Bank) (s : State) : Out :=
  let s := s.elapse e
  match Tab.get none s.lakeAt b.val with
  | some (tgt, none) => .next (s.bankDone b.val tgt)
  | some (tgt, some d) => .next (if s.reached d then s.bankDone b.val tgt else s)
  | none => .next s

/-! ### Port A writes (R319, R320, R323, R324) -/

/-- The byte that a write leaves of an old one: 0 plain, 1 set window, 2 clear window (R319). -/
def aliasByte (kind : Nat) (old v : Byte) : Byte := if kind = 0 then v else if kind = 1 then old ||| v else old &&& ~~~v

/-- Does port A reach Lake: the host in READY and RUNNING, the service cores while their cluster is on (R343). -/
def State.lakeOpen (s : State) (a : Agent) : Bool :=
  match a with
  | .pf0 => s.running
  | .pf1 => s.running
  | .core _ => s.dev != 6 && s.dev != 0
  | .loader => true

/-- The flags of a port A write that bank b does not take: its agent is not the owner, or the bank is not ON (R320, R323). -/
def State.bankRefuse (s : State) (a : Agent) (b : Nat) : State :=
  let s1 := if s.owner b != a.num then (s.set F.LAK_BANK_STAT.OWN_VIOL b 1).raiseC F.LAK_FAULT_STAT.OWN_WR 0 else s
  if s.bankIsOn b then s1 else (s1.set F.LAK_BANK_STAT.STATE_VIOL b 1).raiseC F.LAK_FAULT_STAT.STATE_ACC 0

/-- Does bank b take a port A write of an agent. -/
def State.bankTakes (s : State) (a : Agent) (b : Nat) : Bool := s.owner b == a.num && s.bankIsOn b

/-- One enabled byte of a port A write. -/
def State.lakeByte (s : State) (kind addr : Nat) (v : Option Byte) : State :=
  match v with
  | some v => s.putByte true addr (aliasByte kind (s.byteAt true addr) v)
  | none => s

/-- The banks that n bytes from an offset touch, below the end of Lake. -/
def banksFrom (addr n : Nat) : List Nat := (List.range 64).filter (fun b => decide (addr < 524288 * (b + 1)) && decide (524288 * b < addr + n))

/-- A port A write of bytes from a Lake offset; those of a bank that does not take it are dropped. -/
def State.lakeWrite (s : State) (a : Agent) (kind addr : Nat) (data : List (Option Byte)) : State :=
  let s1 := s.each (banksFrom addr data.length) (fun s b => s.bankRefuse a b)
  s1.each (List.range data.length) (fun s n =>
    if addr + n < 33554432 && s1.bankTakes a (bankOf (addr + n)) then s.lakeByte kind (addr + n) (data.getD n none) else s)

/-- A plain write of port A met one of port B at word w, whose write is discarded (R324): the word of port A is stored whole, so the
bytes that it does not enable are open, and the collision is recorded. -/
def State.lakeCollide (s : State) (a : Agent) (addr : Nat) (data : List (Option Byte)) (w : Nat) : State :=
  let b := bankOf (8 * w)
  if !s.bankTakes a b || 33554432 ≤ 8 * w || 8 * w + 8 ≤ addr || addr + data.length ≤ 8 * w then s
  else
    let s1 := (List.range 8).foldl (fun s k =>
      let p := 8 * w + k
      if p < addr || (data.getD (p - addr) none).isNone then s.drew.putByte true p (BitVec.ofNat 8 s.fresh) else s) s
    ((s1.count F.LAK_BANK_STAT.COLLIDE (some F.LAK_BANK_STAT.COVF) b 9 1).set F.LAK_BANK_STAT.COLLIDED b 1).raiseC
      F.LAK_FAULT_STAT.COLLIDE 0

/-- LAKE_WRITE (R320, R323, R324): a plain port A write. `coll` names the words that port B wrote plainly in the same cycle, by a
command that stands before this one. -/
def execLakeWrite (e : Nat) (a : Agent) (addr : Fin 33554432) (data : List (Option Byte)) (coll : List Nat) (s : State) : Out :=
  let s := s.elapse e
  if s.lakeOpen a then
    .next (coll.dedup.foldl (fun s w => s.lakeCollide a addr.val data w) (s.lakeWrite a 0 addr.val data))
  else .next s

/-- LAKE_SET_WRITE (R319). -/
def execLakeSetWrite (e : Nat) (a : Agent) (addr : Fin 33554432) (data : List (Option Byte)) (s : State) : Out :=
  let s := s.elapse e
  .next (if s.lakeOpen a then s.lakeWrite a 1 addr.val data else s)

/-- LAKE_CLEAR_WRITE (R319). -/
def execLakeClearWrite (e : Nat) (a : Agent) (addr : Fin 33554432) (data : List (Option Byte)) (s : State) : Out :=
  let s := s.elapse e
  .next (if s.lakeOpen a then s.lakeWrite a 2 addr.val data else s)

/-! ### Operating points (R332) -/

/-- A write to DMC_OP_CMD (R332): the change begins, or is refused with RESULT 3. -/
def State.opCmd (s : State) (v : Nat) : State :=
  if !bitAt v 31 then s
  else if s.dev == 4 && !s.anyActive && v % 4 != 3 && s.opAt.isNone && !s.dramDead then
    { ((s.set F.DMC_OP_STAT.CHANGING 0 1).set F.DMC_OP_STAT.RESULT 0 2).selfRefresh true with opAt := some (v % 4, wrap64 (s.now + us 25)) }
  else s.set F.DMC_OP_STAT.RESULT 0 3

/-- DMC_OP_CMD (R332). -/
def execDmcOpCmd (e : Nat) (v : Word32) (s : State) : Out := .next ((s.elapse e).opCmd v.toNat)

/-- OP_CHANGE_COMPLETE (R332): the channels have left self-refresh at the new point; or one failed, and DRAM is unusable until a
device reset. -/
def execOpChangeComplete (e : Nat) (ok : Bool) (s : State) : Out :=
  let s := s.elapse e
  match s.opAt with
  | some (op, _) =>
    let s1 := { s.set F.DMC_OP_STAT.CHANGING 0 0 with opAt := none }
    if ok then .next (((s1.setOp op).selfRefresh false).set F.DMC_OP_STAT.RESULT 0 1)
    else 
      let s2 : State := { s1 with dram := [], dramZero := [], dramBad := [], dramDead := true }
      .next (s2.raiseF F.DMC_FAULT_STAT.OP_FAIL 0 5)
  | none => .next s

/-! ### Scheduling (R328, R329) -/

/-- REQUEST_PROMOTION (R328): a request of class k older than 1.5 µs is promoted to SC0. -/
def execRequestPromotion (e : Nat) (k : Fin 4) (s : State) : Out :=
  let s := s.elapse e
  .next (if k.val = 0 then s else s.count F.DMC_SC.PROMOTED (some F.DMC_SC.POVF) k.val 8 1)

/-- A DRAM bank. -/
def State.dramBank (s : State) (n : Nat) : DramBank := Tab.get {} s.banks n

/-- A DRAM bank replaced. -/
def State.setDramBank (s : State) (n : Nat) (u : DramBank) : State := { s with banks := Tab.set {} s.banks n u }

/-- An access to a bank (R329): the counter follows the outcome where a page was kept open, and the page stays open while the counter
is 2 or more. -/
def State.pageAccess (s : State) (p : PageAccess) : State :=
  let n := 64 * p.ch.val + p.bank.val
  let u := s.dramBank n
  let ctr := if u.openAt.isNone then u.ctr else if p.hit then min 3 (u.ctr + 1) else u.ctr - 1
  s.setDramBank n { ctr := ctr, openAt := if 2 ≤ ctr then some s.now else none }

/-- PAGE_CLOSE_TIMEOUT (R329): a page stood open for 200 ns without an access. -/
def execPageCloseTimeout (e : Nat) (ch : Fin 8) (bank : Fin 64) (s : State) : Out :=
  let s := s.elapse e
  let n := 64 * ch.val + bank.val
  match (s.dramBank n).openAt with
  | some d => .next (if s.reached (wrap64 (d + ns 200)) then s.setDramBank n { s.dramBank n with openAt := none } else s)
  | none => .next s

/-! ### Host writes to DRAM (R326, R327, R340, R343) -/

/-- The type of the region whose usable part holds a word; before a commit the regions are those of the record that trained the
DRAM (R58, R340). -/
def State.wordRegion (s : State) (a : Nat) : Nat :=
  if s.running then
    match s.region 0 a 8 with
    | some r => s.get F.DMC_REGION.TYPE r
    | none => 0
  else
    match ((List.range 16).map (fun r => dramRegion s.ldr.dram r)).find? (fun p =>
      (p.2.2 == 1 || p.2.2 == 2) && decide (p.1 ≤ a) && decide (a + 8 ≤ p.1 + usable p)) with
    | some p => p.2.2
    | none => 0

/-- The bytes of a write that fall in word w. -/
def wordPart (addr : Nat) (data : List (Option Byte)) (w : Nat) : List (Option Byte) :=
  (List.range 8).map (fun k => if addr ≤ 8 * w + k then data.getD (8 * w + k - addr) none else none)

/-- One word of a host write (R326): in a CONTROL region a partial write of a word with an uncorrectable error is dropped and the word keeps
its error, a write of the whole word replaces it; outside every usable part the write is dropped with NO_REGION. -/
def State.dramWord (s : State) (w : Nat) (part : List (Option Byte)) (bad : Bool) : State :=
  let typ := s.wordRegion (8 * w)
  if part.all (fun b => b.isNone) then s
  else if typ = 0 then s.raiseC F.DMC_FAULT_STAT.NO_REGION 0
  else if typ = 2 && (bad || s.dramBad.contains w) && part.any (fun b => b.isNone) then
    ({ s with dramBad := s.dramBad.filter (· != w) ++ [w] }).raiseU 8 F.DMC_FAULT_STAT.ECC_UNCORR 0
  else
    let s1 := if part.all (fun b => b.isSome) then { s with dramBad := s.dramBad.filter (· != w) } else s
    (List.range 8).foldl (fun s k => match part.getD k none with
      | some v => s.putByte false (8 * w + k) v
      | none => s) s1

/-- Does a host write reach DRAM: through BAR2 in READY and RUNNING, through the staging window of PF1 while the DRAM is trained and not
in self-refresh (R340, R343). -/
def State.dramOpen (s : State) (f : Func) (addr n : Nat) : Bool :=
  match f with
  | .pf0 => s.running
  | .pf1 => s.ldr.trained && !s.flag F.DMC_CH_STAT.SELF_REFRESH 0 && s.dev != 0 &&
      decide (s.get F.PCI_DWIN.BASE 0 * 262144 ≤ addr) && decide (addr + n ≤ (s.get F.PCI_DWIN.BASE 0 + 1) * 262144)

/-- DRAM_WRITE (R326, R329): a host write of bytes at a DRAM address. `bad` names the words found with an uncorrectable error when they
were read, `fixed` tells that a corrected error was met, `lat` is the request's latency in ns and `pages` its accesses. -/
def execDramWrite (e : Nat) (f : Func) (addr : Fin 137438953472) (data : List (Option Byte)) (bad : List Nat) (fixed : Bool)
    (lat : Nat) (pages : List PageAccess) (s : State) : Out :=
  let s := s.elapse e
  if s.dramOpen f addr.val data.length then
    let w := addr.val / 8
    let s1 := s.each (List.range ((addr.val % 8 + data.length + 7) / 8)) (fun s n =>
      s.dramWord (w + n) (wordPart addr.val data (w + n)) (bad.contains (w + n)))
    let s2 := if fixed then s1.raiseC F.DMC_FAULT_STAT.ECC_CORR 0 else s1
    let s3 := s2.set F.DMC_SC.MAXLAT 3 (max (s2.get F.DMC_SC.MAXLAT 3) (min 65535 lat))
    .next (pages.foldl (fun s p => s.pageAccess p) s3)
  else .next s

end Sys2Proof.Machine
end

