-- ==== Sys2Proof/Machine/Rings.lean ====
section
/-! DEFINITION. Command and management rings (spec/17_host_interface.md, R345–R347): a ring's registers, its descriptors and
their write-back, and flushing. -/

namespace Sys2Proof.Machine

/-- The registers of a ring. -/
structure RingFlds where
  base : Fld
  mem : Fld
  log2 : Fld
  en : Fld
  tail : Fld
  head : Fld
  done : Fld
  seen : Fld

/-- The key of a ring among `State.rings`: 0–255 the command rings, from 256 the management rings. -/
def ringKey : RingId → Nat
  | .cmd x => x.val
  | .mgmt m => 256 + m.val

/-- The registers of the ring of a key. -/
def ringFlds (k : Nat) : RingFlds :=
  if k < 256 then ⟨F.HRG_CMD_BASE.ADDR, F.HRG_CMD_CFG.MEM, F.HRG_CMD_CFG.LOG2, F.HRG_CMD_CFG.EN, F.HRG_CMD_TAIL.POS,
    F.HRG_CMD_HEAD.POS, F.HRG_CMD_DONE.POS, F.HRG_CMD_SEEN.POS⟩
  else ⟨F.HRG_MGT_BASE.ADDR, F.HRG_MGT_CFG.MEM, F.HRG_MGT_CFG.LOG2, F.HRG_MGT_CFG.EN, F.HRG_MGT_TAIL.POS, F.HRG_MGT_HEAD.POS,
    F.HRG_MGT_DONE.POS, F.HRG_MGT_SEEN.POS⟩

/-- The index of a ring of a key in its registers. -/
def ringIdx (k : Nat) : Nat := if k < 256 then k else k - 256

/-- A ring's hidden state. -/
def State.hring (s : State) (k : Nat) : HostRing := Tab.get {} s.rings k

/-- A ring's hidden state replaced. -/
def State.setHring (s : State) (k : Nat) (u : HostRing) : State := { s with rings := Tab.set {} s.rings k u }

/-- A register of a ring. -/
def State.ringGet (s : State) (k : Nat) (f : RingFlds → Fld) : Nat := s.get (f (ringFlds k)) (ringIdx k)

/-- A register of a ring set. -/
def State.ringSet (s : State) (k : Nat) (f : RingFlds → Fld) (v : Nat) : State := s.set (f (ringFlds k)) (ringIdx k) v

/-- Does a ring lie in Lake. -/
def State.ringLake (s : State) (k : Nat) : Bool := s.ringGet k (·.mem) == 1

/-- The bytes of a ring. -/
def State.ringSize (s : State) (k : Nat) : Nat := 32 * 2 ^ s.ringGet k (·.log2)

/-- The address of the descriptor at a position (R345). -/
def State.descAt (s : State) (k pos : Nat) : Nat := s.ringGet k (·.base) + 32 * (pos % 2 ^ s.ringGet k (·.log2))

/-- Do the banks of a ring in Lake stand ON, with none that the loader owns (R322, R346). -/
def State.ringUsable (s : State) (k : Nat) : Bool := !s.ringLake k || s.portB (s.ringGet k (·.base)) (s.ringSize k)

/-- The 32 bytes of a descriptor; outside every usable part of DRAM they read 0, and NO_REGION is set (R326). -/
def State.descBytes (s : State) (k pos : Nat) : List Byte :=
  let a := s.descAt k pos
  if s.ringLake k || (s.region 0 a 32).isSome then s.bytesAt (s.ringLake k) a 32 else List.replicate 32 0

/-- A descriptor's write-back (R347). -/
def descBack (raw : List Byte) (taken now result status : Nat) : List Byte :=
  toBytes 8 taken ++ toBytes 8 now ++ toBytes 8 result ++ (raw.drop 0x18).take 4 ++ toBytes 3 0 ++ toBytes 1 status

/-- The descriptor in execution is written back and DONE passes it (R346). -/
def State.ringDone (s : State) (k : Nat) (c : RingCmd) (status result : Nat) : State :=
  let d := s.ringGet k (·.done)
  let s1 := s.dmaWrite (s.ringLake k) (s.descAt k d) (descBack c.raw c.taken s.now result status)
  (s1.ringSet k (·.done) (d + 1)).setHring k { s1.hring k with cur := none }

/-- A published descriptor that has not been read is written back FLUSHED; the spec gives it no RESULT. -/
def State.flushAt (s : State) (k pos : Nat) : State :=
  s.drew.dmaWrite (s.ringLake k) (s.descAt k pos) (descBack (s.descBytes k pos) s.now s.now s.fresh 5)

/-- Every published descriptor that has not been read is written back FLUSHED, and HEAD and DONE move to TAIL (R346). -/
def State.flushRing (s : State) (k : Nat) : State :=
  let h := s.ringGet k (·.head)
  let t := s.ringGet k (·.tail)
  let n := (t + 2 ^ 32 - h) % 2 ^ 32
  let s1 := s.each (List.range n) (fun s i => s.flushAt k (h + i))
  ((s1.ringSet k (·.head) t).ringSet k (·.done) t).setHring k { s1.hring k with flushing := false }

/-- At a teardown the descriptors in execution are written back FLUSHED (R346). -/
def State.flushTaken (s : State) : State :=
  let busy := (s.rings.filter (fun p => p.2.cur.isSome)).map (fun p => p.1)
  let s1 := s.each busy (fun s k => match (s.hring k).cur with
    | some c => s.drew.ringDone k c 5 s.fresh
    | none => s)
  { s1 with nvm := [] }

end Sys2Proof.Machine
end

