-- ==== Sys2Proof/Machine/HostIf.lean ====
section
/-! DEFINITION. The host interface (spec/17_host_interface.md): the PCI Express link and its resets, command and management rings,
mailboxes and locks, and the key store. -/

namespace Sys2Proof.Machine

/-! ### The link and the host-side resets (R334, R344) -/

/-- The registers of a function that its reset returns to their reset values: its MSI-X table and PBA, and the windows of PF1. -/
def fnRegs : Func → List Reg
  | .pf0 => [.PCI_MSIX0_ADDR, .PCI_MSIX0_DATA, .PCI_MSIX0_CTRL, .PCI_MSIX0_PBA]
  | .pf1 => [.PCI_MSIX1_ADDR, .PCI_MSIX1_DATA, .PCI_MSIX1_CTRL, .PCI_MSIX1_PBA, .PCI_RWIN, .PCI_DWIN]

/-- The sources that a function's slots have claimed. -/
def State.claimedBy (s : State) (f : Func) : List Nat :=
  (List.range 1977).filter (fun n =>
    let h := Tab.get 0 s.irc.holder n
    decide ((fnSlots f).1 < h) && decide (h ≤ (fnSlots f).1 + (fnSlots f).2))

/-- What a reset of a function does to its host-side state (R344, R356). -/
def State.fnReset (s : State) (f : Func) : State :=
  let s1 := s.clearRegs (fnRegs f)
  let s2 := { s1 with
    irc := { s1.irc with msixOn := Tab.set 0 s1.irc.msixOn (fnNum f) 0, msixMask := Tab.set 0 s1.irc.msixMask (fnNum f) 0 },
    shadows := Tab.set {} s1.shadows f.agent.num {} }
  let s3 := s2.each (List.range 64) (fun s n => s.mbxReset f n)
  s3.each (s3.claimedBy f) (fun s n => s.completeSrc n)

/-- The link leaves L0 or is reset: its state code, and a link-down counted if it was up. -/
def State.linkTo (s : State) (st : Nat) : State :=
  let s1 := if s.get F.PCI_LINK.STATE 0 = 2 then s.count F.PCI_LINK.DOWNS none 0 17 1 else s
  [F.PCI_LINK.RATE, F.PCI_LINK.WIDTH, F.PCI_LINK.FLIT, F.PCI_LINK.REVERSED].foldl (fun s f => s.set f 0 0) (s1.set F.PCI_LINK.STATE 0 st)

/-- PERST_N (R344): PERST_n falls and resets the endpoint and both functions, or rises and the link trains. -/
def execPerstN (e : Nat) (high : Bool) (s : State) : Out :=
  let s := s.elapse e
  if high == s.pins.perstN then .next s
  else
    let s1 := { s with pins := { s.pins with perstN := high } }
    if s.dev = 0 then .next s1
    else if high then .next (s1.set F.PCI_LINK.STATE 0 1)
    else .next ((((s1.raiseC F.PCI_FAULT_STAT.PERST 0).linkTo 0).fnReset .pf0).fnReset .pf1)

/-- FLR (R344). -/
def execFlr (e : Nat) (f : Func) (s : State) : Out :=
  let s := s.elapse e
  if s.dev = 0 then .next s
  else .next ((s.raiseC (match f with | .pf0 => F.PCI_FAULT_STAT.FLR0 | .pf1 => F.PCI_FAULT_STAT.FLR1) 0).fnReset f)

/-- PCIE_LINK_DOWN (R344). -/
def execPcieLinkDown (e : Nat) (s : State) : Out :=
  let s := s.elapse e
  if s.get F.PCI_LINK.STATE 0 = 2 then .next ((s.raiseC F.PCI_FAULT_STAT.LINK_DOWN 0).linkTo 1) else .next s

/-- Is a rate code, with its FLIT mode, and a width that the endpoint supports (R334). -/
def linkForm (rate width : Nat) (flit : Bool) : Bool :=
  decide (1 ≤ rate) && decide (rate ≤ 6) && (rate != 6 || flit) && (width == 1 || width == 2 || width == 4 || width == 8)

/-- PCIE_LINK_UP (R334). -/
def execPcieLinkUp (e : Nat) (rate width : Fin 16) (flit rev : Bool) (s : State) : Out :=
  let s := s.elapse e
  if s.pins.perstN && s.get F.PCI_LINK.STATE 0 != 2 && linkForm rate.val width.val flit && s.reaches .pf1 .PCI_LINK then
    let s1 := ((s.set F.PCI_LINK.STATE 0 2).set F.PCI_LINK.RATE 0 rate.val).set F.PCI_LINK.WIDTH 0 width.val
    .next ((s1.set F.PCI_LINK.FLIT 0 (ofBool flit)).set F.PCI_LINK.REVERSED 0 (ofBool rev))
  else .next s

/-! ### Descriptors (R346–R349) -/

/-- Argument n of a descriptor. -/
def RingCmd.arg (c : RingCmd) (n : Nat) : Nat := leAt c.raw (8 * n) 8

/-- The operation of a descriptor. -/
def RingCmd.op (c : RingCmd) : Nat := leAt c.raw 0x18 2

/-- Is a management operation one of the flash. -/
def nvmOp (op : Nat) : Bool := op == 1 || op == 2 || op == 3

/-- Are the arguments of a management operation in range (R349). -/
def mgmtArgsOk (c : RingCmd) : Bool :=
  let o := c.arg 0
  let n := c.arg 2
  match c.op with
  | 1 => decide (1 ≤ n) && decide (n ≤ 16777216) && decide (o + n ≤ 2 ^ 32)
  | 2 => o % 4096 == 0 && n % 4096 == 0 && decide (o + n ≤ 2 ^ 32)
  | 3 => o % 256 == 0 && n % 256 == 0 && decide (o + n ≤ 2 ^ 32)
  | _ => true

/-- Is a descriptor of a ring valid: its OP, its reserved bytes and STATUS, its arguments (R347). -/
def descOk (k : Nat) (c : RingCmd) : Bool :=
  leAt c.raw 0x1C 4 == 0 && decide (1 ≤ c.op) && (if k < 256 then decide (c.op ≤ 10) else decide (c.op ≤ 5) && mgmtArgsOk c)

/-- The flow of Saffron in which an operation of a ring is an item, if it is one (R274, R348). -/
def descFlow (k op : Nat) : Option Nat :=
  if 256 ≤ k then some 1023 else if op == 6 || op == 7 || op == 8 || op == 10 then some (1024 * k) else none

/-- Does a load or a pre-check read the flash. -/
def State.flashBusy (s : State) : Bool := s.ldr.phase == .precheck && s.ldr.reqSrc != 3

/-- Has the descriptor at HEAD an uncorrectable error that is known: it fails (R327), as INVALID (DESIGN CHOICE, notes/assumptions/102.md). -/
def State.descBad (s : State) (k : Nat) : Bool := s.eccBad (s.ringLake k) (s.descAt k (s.ringGet k (·.head))) 32

/-- The STATUS of a descriptor that is not executed: 2 BUSY with the fault of Saffron's refusal, 3 INVALID, 4 REFUSED; none
where it is (R347). -/
def State.descRefused (s : State) (k : Nat) (c : RingCmd) : Option (Nat × Option Fld) :=
  if s.descBad k || !descOk k c then some (3, none)
  else if decide (256 ≤ k) && nvmOp c.op && s.flashBusy then some (4, none)
  else match descFlow k c.op with
    | some f => (s.safRefuses f).map (fun b => (2, some b))
    | none => none

/-- A ring that lies in a bank that is not ON stops (R346). -/
def State.ringStop (s : State) (k : Nat) : State :=
  (((s.setHring k { s.hring k with stopped := true }).denyB (s.ringGet k (·.base)) (s.ringSize k))).raiseU 12 F.HRG_FAULT_STAT.RING_ADDR 0

/-- A published descriptor is read at HEAD. One that is not executed has its STATUS at once, and no RESULT that the spec states;
an operation of the flash takes its place in the order of arrival (R346, R349). -/
def State.takeDesc (s : State) (k : Nat) : State :=
  let h := s.ringGet k (·.head)
  let c : RingCmd := { raw := s.descBytes k h, taken := s.now }
  let s0 := if s.ringLake k || (s.region 0 (s.descAt k h) 32).isSome then s else s.raiseC F.DMC_FAULT_STAT.NO_REGION 0
  let s1 := (if s.descBad k then s0.eccRaise (s.ringLake k) .uncorrectable else s0).ringSet k (·.head) (h + 1)
  match s.descRefused k c with
  | some (st, fault) =>
    let s2 := match fault, descFlow k c.op with
      | some b, some f => s1.safRefused f b
      | _, _ => s1
    (s2.setHring k { s2.hring k with cur := some { c with result := some (st, s2.fresh % 2 ^ 64) } }).drew
  | none =>
    let s2 := s1.setHring k { s1.hring k with cur := some c }
    if decide (256 ≤ k) && nvmOp c.op then { s2 with nvm := s2.nvm ++ [(k - 256, h)] } else s2

/-- Does a ring have a descriptor to read: in use, none in execution, one published. -/
def State.ringReady (s : State) (k : Nat) : Bool :=
  let u := s.hring k
  s.ringGet k (·.en) == 1 && s.running && u.cur.isNone && !u.stopped && s.ringGet k (·.head) != s.ringGet k (·.tail)

/-- DESCRIPTOR_READ (R346). -/
def execDescriptorRead (e : Nat) (r : RingId) (s : State) : Out :=
  let s := s.elapse e
  let k := ringKey r
  if s.ringReady k then .next (if s.ringUsable k then s.takeDesc k else s.ringStop k) else .next s

/-! ### Publishing, acknowledging, disabling (R346) -/

/-- A write to TAIL of a ring: taken, and in Dormant a wake cause, or ignored with DB_REJ. -/
def State.writeTail (s : State) (k v : Nat) : State :=
  let d := s.ringGet k (·.done)
  let n := ringDist d v
  if n < ringDist d (s.ringGet k (·.tail)) || 2 ^ s.ringGet k (·.log2) < n then s.raiseC F.HRG_FAULT_STAT.DB_REJ 0
  else (s.ringSet k (·.tail) v).wake

/-- Does an agent reach the registers of a ring (R59, R338). -/
def State.ringOpen (s : State) (a : Agent) : Bool := s.reaches a .HRG_CMD_TAIL

/-- HRG_CMD_TAIL_WRITE (R346). -/
def execHrgCmdTailWrite (e : Nat) (a : Agent) (r : RingId) (v : Word32) (s : State) : Out :=
  let s := s.elapse e
  .next (if s.ringOpen a then s.writeTail (ringKey r) v.toNat else s)

/-- A write to SEEN of a ring: ignored beyond DONE. -/
def State.writeSeen (s : State) (k v : Nat) : State :=
  if rdOk (s.ringGet k (·.seen)) (s.ringGet k (·.done)) v then s.ringSet k (·.seen) v else s

/-- HRG_CMD_SEEN_WRITE (R346). -/
def execHrgCmdSeenWrite (e : Nat) (a : Agent) (r : RingId) (v : Word32) (s : State) : Out :=
  let s := s.elapse e
  .next (if s.ringOpen a then s.writeSeen (ringKey r) v.toNat else s)

/-- What has been published on a ring that is no longer in use is flushed; where the ring's bank is not ON, RING_ADDR is set. -/
def State.flushOrStop (s : State) (k : Nat) : State := if s.ringUsable k then s.flushRing k else s.ringStop k

/-- EN of a ring becomes 0: the descriptor in execution finishes, every other published one is flushed (R346). -/
def State.ringOff (s : State) (k : Nat) : State :=
  if s.ringGet k (·.en) = 0 then s
  else
    let s1 := (s.ringSet k (·.en) 0).setHring k { s.hring k with stopped := false }
    if (s.hring k).cur.isSome then s1.setHring k { s1.hring k with flushing := true } else s1.flushOrStop k

/-- RING_DISABLE (R346). -/
def execRingDisable (e : Nat) (a : Agent) (r : RingId) (s : State) : Out :=
  let s := s.elapse e
  .next (if s.ringOpen a then s.ringOff (ringKey r) else s)

/-- A write to CFG of a ring: refused with a LOG2 outside 4–12; LOG2 is taken only while EN is 0 (R345). -/
def State.writeRingCfg (s : State) (k v : Nat) : State :=
  let n := bitsOf v 1 5
  if n < 4 || 12 < n then s
  else
    let off := s.ringGet k (·.en) = 0
    let s1 := if bitAt v 6 then (s.ringSet k (·.en) 1).setHring k { s.hring k with stopped := false } else s.ringOff k
    let s2 := s1.ringSet k (·.mem) (bitsOf v 0 1)
    if off then s2.ringSet k (·.log2) n else s2

/-- A write to BASE of a ring: taken only while EN is 0 (R345). -/
def State.writeRingBase (s : State) (k v : Nat) : State :=
  if s.ringGet k (·.en) = 0 then s.ringSet k (·.base) v else s

/-! ### Command operations (R348) -/

/-- The descriptor in execution on a ring, where it has the operation and nothing has been done of it. -/
def State.opOf (s : State) (k op : Nat) : Option RingCmd :=
  match (s.hring k).cur with
  | some c => if c.op = op && !c.begun && c.result.isNone && s.running then some c else none
  | none => none

/-- The operation in execution has its RESULT. -/
def State.opResult (s : State) (k : Nat) (c : RingCmd) (v : Nat) : State :=
  s.setHring k { s.hring k with cur := some { c with result := some (1, v) } }

/-- The operation in execution has begun and its answer follows. -/
def State.opBegun (s : State) (k : Nat) (c : RingCmd) : State := s.setHring k { s.hring k with cur := some { c with begun := true } }

/-- An operation 1 to 4 reaches the site's context, behind a register command that is processed. -/
def State.siteOp (s : State) (x op : Nat) (f : RingCmd → State) : State :=
  match s.opOf x op with
  | some c => if s.flag F.MDR_SITE_CMD_RES.BUSY x then s else f c
  | none => s

/-- ARM (R348). -/
def execArm (e : Nat) (x : Site) (s : State) : Out :=
  let s := s.elapse e
  let x := x.val
  .next (s.siteOp x 1 (fun c =>
    let prog := bitsOf (c.arg 0) 0 16
    let r := s.armCode x prog
    (if r = 1 then s.armAccepted x prog (c.arg 1) else if r = 4 then s.dirSeen x prog else s).opResult x c r))

/-- ABORT (R348). The site context is busy with it, for the register too (R79). -/
def execAbort (e : Nat) (x : Site) (s : State) : Out :=
  let s := s.elapse e
  let x := x.val
  .next (s.siteOp x 2 (fun c =>
    let r := s.abortCode x
    if r = 0 then ((s.set F.MDR_SITE_CMD_RES.BUSY x 1).setSite x { s.site x with abortPend := true, abortAns := none }).opBegun x c
    else s.opResult x c r))

/-- ACK_COMMAND (R348). -/
def execAckCommand (e : Nat) (x : Site) (s : State) : Out :=
  let s := s.elapse e
  let x := x.val
  .next (s.siteOp x 3 (fun c =>
    let r := s.ackCode x
    (if r = 1 then s.ackDone x else s).opResult x c r))

/-- RESET (R348). The site context is busy with it, for the register too (R79). -/
def execReset (e : Nat) (x : Site) (s : State) : Out :=
  let s := s.elapse e
  let x := x.val
  .next (s.siteOp x 4 (fun c =>
    let r := s.resetCode x
    let d := wrap64 (s.now + s.lead x)
    if r = 1 then (((s.set F.MDR_SITE_CMD_RES.BUSY x 1).setSite x { s.site x with resetAt := some d }).sendToken x 12 d []).opBegun x c
    else s.opResult x c r))

/-- SET_ARG (R348). -/
def execSetArg (e : Nat) (x : Site) (s : State) : Out :=
  let s := s.elapse e
  let x := x.val
  match s.opOf x 5 with
  | some c =>
    if s.siteState x = 1 || s.siteState x = 6 then
      .next ((s.set F.MDR_STEP_ARG.VALUE (4 * x + c.arg 0 % 4) (c.arg 1)).opResult x c 1)
    else .next (s.opResult x c 2)
  | none => .next s

/-- A plan operation is answered by the test-plan service: the result word of its item, with the answer as its value (R275). -/
def State.planOp (s : State) (x op cmd : Nat) : State :=
  match s.opOf x op with
  | some c =>
    let s1 := s.planCmd x cmd (c.arg 0)
    let r := s1.get F.SVC_PLAN_STAT.RESULT x
    s1.opResult x c (resultWord (if r = 1 then 0 else 3) 0 r)
  | none => s

/-- RING_PLAN_START (R348). -/
def execRingPlanStart (e : Nat) (x : Site) (s : State) : Out := .next ((s.elapse e).planOp x.val 6 1)

/-- RING_PLAN_STOP (R348). -/
def execRingPlanStop (e : Nat) (x : Site) (s : State) : Out := .next ((s.elapse e).planOp x.val 7 2)

/-- RING_PLAN_ABORT (R348). -/
def execRingPlanAbort (e : Nat) (x : Site) (s : State) : Out := .next ((s.elapse e).planOp x.val 8 3)

/-- REFLECT (R348). -/
def execReflect (e : Nat) (x : Site) (s : State) : Out :=
  let s := s.elapse e
  let x := x.val
  match s.opOf x 9 with
  | some c => .next ((s.requestRefl x).opResult x c (if s.reflRefused x false then 2 else 1))
  | none => .next s

/-- The SERVICES table that TABLE_LOAD names, if it is one for site x that the loader would accept (R54, R348). -/
def State.tableAt (s : State) (x : Nat) (c : RingCmd) : Option SvcTable :=
  let n := c.arg 1
  if n < 8 || !s.ptrOk (c.arg 0) n then none
  else
    let b := s.ptrBytes (c.arg 0) n
    let v : SvcTable := ⟨leAt b 0 2, leAt b 2 2, b.drop 8⟩
    if v.site == x && leAt b 4 4 + 8 == n && decide (1 ≤ v.typ) && decide (v.typ ≤ 7) && svcReservedOk v && svcTableOk v s.img.buseng then
      some v
    else none

/-- A table of site x is put in force in place of the one it has; a plan may then be started, and a netlist is rebuilt (R348). -/
def State.loadTable (s : State) (x : Nat) (v : SvcTable) : State :=
  let l := s.img.tables.filter (fun t => !(t.typ == v.typ && t.site == x)) ++ [v]
  let s1 := { s with img := { s.img with tables := l } }
  let s2 := if v.typ = 1 && s1.get F.SVC_PLAN_STAT.STATE x = 5 then s1.set F.SVC_PLAN_STAT.STATE x 1 else s1
  if v.typ = 7 then s2.netRebuild x else s2

/-- TABLE_LOAD (R348). -/
def execTableLoad (e : Nat) (x : Site) (s : State) : Out :=
  let s := s.elapse e
  let x := x.val
  match s.opOf x 10 with
  | some c =>
    let p := s.get F.SVC_PLAN_STAT.STATE x
    if !(s.siteState x == 1 || s.siteState x == 6) || !(p == 0 || p == 1 || p == 5) then .next (s.opResult x c 2)
    else match s.tableAt x c with
      | some v => .next ((s.loadTable x v).opResult x c 1)
      | none => .next (s.opResult x c (3 + 0x1D * 256))
  | none => .next s

/-! ### Management operations (R349) -/

/-- The flash operation of a management ring whose turn it is. -/
def State.nvmTurn (s : State) (m op : Nat) : Option RingCmd :=
  match s.nvm with
  | (k, _) :: _ => if k = m then s.opOf (256 + m) op else none
  | [] => none

/-- A flash operation ends with the bytes it completed. -/
def State.nvmDone (s : State) (m : Nat) (c : RingCmd) (n : Nat) : State := ({ s with nvm := s.nvm.drop 1 }).opResult (256 + m) c n

/-- NVM_READ (R349): the bytes read from the flash go to memory. -/
def execNvmRead (e : Nat) (m : Fin 16) (data : List Byte) (s : State) : Out :=
  let s := s.elapse e
  match s.nvmTurn m.val 1 with
  | some c => if data.length = c.arg 2 then .next ((s.ptrWrite (c.arg 1) data).nvmDone m.val c data.length) else .next s
  | none => .next s

/-- NVM_ERASE (R349): `done` of the bytes are erased. -/
def execNvmErase (e : Nat) (m : Fin 16) (done : Nat) (s : State) : Out :=
  let s := s.elapse e
  match s.nvmTurn m.val 2 with
  | some c =>
    if done ≤ c.arg 2 && done % 4096 == 0 then
      .next ((s.emit (.flash 2 (c.arg 0) (List.replicate done 0xFF))).nvmDone m.val c done)
    else .next s
  | none => .next s

/-- NVM_PROGRAM (R349): `done` of the bytes are programmed and verified. Bytes that lie in no usable memory read 0 (R326). -/
def execNvmProgram (e : Nat) (m : Fin 16) (done : Nat) (s : State) : Out :=
  let s := s.elapse e
  match s.nvmTurn m.val 3 with
  | some c =>
    if done ≤ c.arg 2 && done % 256 == 0 then
      let b := if s.ptrOk (c.arg 1) done then s.ptrBytes (c.arg 1) done else List.replicate done 0
      .next ((s.emit (.flash 3 (c.arg 0) b)).nvmDone m.val c done)
    else .next s
  | none => .next s

/-- May the service write a new UMB_TOD_OFFSET: not on a follower, and with PPS_IN only if whole seconds change (R208). -/
def State.todOk (s : State) (v : Nat) : Bool :=
  s.get F.UMB_CFG.SRC 0 != 3 && s.upstream.isNone &&
    (s.get F.UMB_CFG.SRC 0 != 2 || (toInt 64 v - toInt 64 (s.get F.UMB_TOD_OFFSET.OFFSET 0)) % 8000000000000 == 0)

/-- UMB_TOD_OFFSET is written, or refused (R208, R349). -/
def State.writeTod (s : State) (m : Nat) (c : RingCmd) (v : Nat) : State :=
  if s.todOk v then (s.set F.UMB_TOD_OFFSET.OFFSET 0 v).opResult (256 + m) c 1 else s.opResult (256 + m) c 2

/-- TOD_SET (R349). -/
def execTodSet (e : Nat) (m : Fin 16) (s : State) : Out :=
  let s := s.elapse e
  match s.opOf (256 + m.val) 4 with
  | some c => .next (s.writeTod m.val c (c.arg 0))
  | none => .next s

/-- TOD_ADJ (R349). -/
def execTodAdj (e : Nat) (m : Fin 16) (s : State) : Out :=
  let s := s.elapse e
  match s.opOf (256 + m.val) 5 with
  | some c => .next (s.writeTod m.val c (wrap64 (s.get F.UMB_TOD_OFFSET.OFFSET 0 + c.arg 0 * 8000000000000)))
  | none => .next s

/-! ### Completion (R346) -/

/-- The STATUS and RESULT of the descriptor in execution, once its operation has completed: an abort once it is settled, a reset
once its release DT is reached. -/
def State.descResult (s : State) (k : Nat) (c : RingCmd) : Option (Nat × Nat) :=
  match c.result with
  | some r => some r
  | none =>
    if !c.begun then none
    else if c.op = 2 then (s.site k).abortAns.map (fun r => (1, r))
    else if (s.site k).resetAt.isNone then some (1, 1)
    else none

/-- DESCRIPTOR_COMPLETE (R346): the write-back stands before DONE passes it; a ring that was disabled is then flushed. -/
def execDescriptorComplete (e : Nat) (r : RingId) (s : State) : Out :=
  let s := s.elapse e
  let k := ringKey r
  let u := s.hring k
  match u.cur with
  | some c =>
    match s.descResult k c with
    | some (st, v) =>
      if u.stopped then .next s
      else if !s.ringUsable k then .next (s.ringStop k)
      else
        let s1 := s.ringDone k c st v
        .next (if u.flushing then s1.flushOrStop k else s1)
    | none => .next s
  | none => .next s

/-! ### Mailboxes and locks (R352–R354) -/

/-- MBX_DATA_WRITE (R353). -/
def execMbxDataWrite (e : Nat) (a : Agent) (n : Fin 64) (w : Fin 16) (v : Word32) (s : State) : Out :=
  let s := s.elapse e
  .next (if s.reaches a .MBX_DATA then s.mbxData a n.val w.val v.toNat else s)

/-- MBX_DOORBELL (R353). -/
def execMbxDoorbell (e : Nat) (a : Agent) (n : Fin 64) (v : Word32) (s : State) : Out :=
  let s := s.elapse e
  .next (if s.reaches a .MBX_DOORBELL then s.mbxBell a n.val v.toNat else s)

/-- MBX_TAKE (R353, R369): what the mailbox's ECC found is given. -/
def execMbxTake (e : Nat) (a : Agent) (n : Fin 64) (ecc : Ecc) (s : State) : Out :=
  let s := s.elapse e
  .next (if s.reaches a .MBX_TAKE then s.mbxTake a n.val ecc else s)

/-- A read of MBX_LOCK: a free lock answers 0 and goes to the reader (R354). -/
def State.lockRead (s : State) (a : Agent) (n : Nat) : State :=
  let h := s.get F.MBX_LOCK.OWNER n
  if h = 0 then { s.set F.MBX_LOCK.OWNER n a.num with readData := 0 } else { s with readData := h }

/-- MBX_LOCK_READ (R354). -/
def execMbxLockRead (e : Nat) (a : Agent) (n : Fin 64) (s : State) : Out :=
  let s := s.elapse e
  .next (if s.reaches a .MBX_LOCK && mbxOpen n.val a then s.lockRead a n.val else { s with readData := 0 })

/-- A write to MBX_LOCK: the holder's number, from the holder or PF1, releases it (R354). -/
def State.lockWrite (s : State) (a : Agent) (n v : Nat) : State :=
  let h := s.get F.MBX_LOCK.OWNER n
  if h != 0 && v == h && (a.num == h || a == .pf1) then s.set F.MBX_LOCK.OWNER n 0 else s

/-- MBX_LOCK_RELEASE (R354). -/
def execMbxLockRelease (e : Nat) (a : Agent) (n : Fin 64) (v : Byte) (s : State) : Out :=
  let s := s.elapse e
  .next (if s.reaches a .MBX_LOCK && mbxOpen n.val a then s.lockWrite a n.val v.toNat else s)

/-! ### The key store (R291) -/

/-- The bytes of PCI_KEY_DATA that a key of a kind has. -/
def State.keyBytes (s : State) (kind : Nat) : List Byte :=
  ((List.range 8).flatMap (fun n => toBytes 4 (s.get F.PCI_KEY_DATA.DATA n))).take (if kind = 1 then 32 else 16)

/-- A write to PCI_KEY_CMD (R291): a key is written or erased, or the command is refused; PCI_KEY_DATA is cleared. -/
def State.keyCmd (s : State) (v : Nat) : State :=
  let x := s.get F.PCI_KEY_SEL.SITE 0
  let n := s.get F.PCI_KEY_SEL.SLOT 0
  let kind := s.get F.PCI_KEY_SEL.KIND 0
  let op := bitsOf v 0 2
  let s1 := s.clearReg .PCI_KEY_DATA
  if !bitAt v 31 || !(op == 1 || op == 2) then s1
  else if s.siteState x = 0 || !(kind == 1 || kind == 2) then s1.set F.PCI_KEY_RES.RESULT 0 3
  else ((if op = 1 then s1.setSlot x n kind (s.keyBytes kind) else s1.setSlot x n 0 []).set F.PCI_KEY_RES.RESULT 0 2)

/-- KEY_STORE_WRITE (R291). -/
def execKeyStoreWrite (e : Nat) (s : State) : Out :=
  let s := s.elapse e
  .next (if s.reaches .pf1 .PCI_KEY_CMD then s.keyCmd 0x80000001 else s)

/-- KEY_STORE_ERASE (R291). -/
def execKeyStoreErase (e : Nat) (s : State) : Out :=
  let s := s.elapse e
  .next (if s.reaches .pf1 .PCI_KEY_CMD then s.keyCmd 0x80000002 else s)

end Sys2Proof.Machine
end

