-- ==== Sys2Proof/Machine/Loader.lean ====
section
/-! DEFINITION. The configuration loader (spec/03_image_and_boot.md): sources, reading, training, checks, commit,
reload and the fuses. -/

namespace Sys2Proof.Machine

/-! ### Sources and failures (R48, R49, R58) -/

/-- A check of source n fails: its code, record and offset are recorded (R49). -/
def State.cfgFail (s : State) (n code rec off : Nat) : State :=
  (((s.set F.CFG_FAIL.CODE n code).set F.CFG_FAIL.RECORD n rec).set F.CFG_FAIL.OFFSET n off).set F.CFG_STAT.CODE 0 code

/-- A source has passed, or has not been tried in this load: CFG_FAIL reads 0 (R49). -/
def State.clearFail (s : State) (n : Nat) : State := s.clearFields n [F.CFG_FAIL.CODE, F.CFG_FAIL.RECORD, F.CFG_FAIL.OFFSET]

/-- The device enters FAILED_LOAD (R49). -/
def State.failedLoad (s : State) : State :=
  let s1 := ((s.set F.DEV_STATE.STATE 0 7).set F.CFG_STAT.BUSY 0 0).raiseU 1 F.CFG_FAULT_STAT.LOAD_FAIL 0
  { s1 with ldr := { s1.ldr with phase := .idle, todo := [] } }

/-- The flash enters the mode of its descriptor (R48): write-enable 0x06, then the ENTRY bytes, in 1S-1S-1S. -/
def State.enterMode (s : State) (d : BootDesc) : State :=
  if d.mode = 0 then s else (s.emit (.flash 4 0 [0x06])).emit (.flash 5 0 d.entry)

/-- The loader turns to its next source: the next slot, after a named or staged source the flash in preferred order,
or FAILED_LOAD (R49, R61). A slot that follows one read once more in 1S-1S-1S is read in the descriptor's mode, which is entered again
(DESIGN CHOICE, notes/assumptions/98.md). -/
def State.nextSource (s : State) : State :=
  match s.ldr.todo with
  | n :: r =>
    let s1 := if s.ldr.legacy && n != 2 then s.enterMode s.ldr.desc else s
    { s1.set F.DEV_STATE.STATE 0 2 with
      ldr := { s.ldr with phase := .desc, source := n, todo := r, legacy := false, records := [], header := [], offset := 0 } }
  | [] =>
    if s.ldr.reqSrc != 0 then
      { s.set F.DEV_STATE.STATE 0 2 with ldr := { s.ldr with phase := .start, reqSrc := 0, fellBack := s.ldr.reqSrc == 3 } }
    else s.failedLoad

/-- The source being read fails a check. -/
def State.slotFail (s : State) (code rec off : Nat) : State := (s.cfgFail s.ldr.source code rec off).nextSource

/-- The slots in the order in which the descriptor has them tried. -/
def BootDesc.order (d : BootDesc) : List Nat := if d.preferred = 1 then [1, 0] else [0, 1]

/-- The bytes that a source offers: a slot, or the staged length. -/
def State.sourceLen (s : State) (n : Nat) : Nat :=
  if n = 0 then s.ldr.desc.lenA else if n = 1 then s.ldr.desc.lenB else s.get F.CFG_STAGE_LEN.LEN 0

/-- Both slots fail with a code before any is read (R33, R48). -/
def State.noSource (s : State) (code : Nat) : State :=
  ((s.cfgFail 0 code 0xFFFF 0).cfgFail 1 code 0xFFFF 0)

/-- LOAD_START (R33, R48): NVM_RESET_n is pulsed, the boot descriptor is read, and its mode entered. -/
def execLoadStart (e : Nat) (copy0 copy1 : List Byte) (s : State) : Out :=
  let s := s.elapse e
  if s.dev == 2 && s.ldr.phase == .start then
    let s1 := s.set F.CFG_STAT.BUSY 0 1
    if s1.pins.testen then .next (s1.noSource 0x23).failedLoad
    else
      let s2 := (s1.emit (.flash 1 0 [])).emit (.flash 0 0 [0x13])
      let s2 := if descCode copy0 != 0 then s2.emit (.flash 0 0x1000 [0x13]) else s2
      if descCode copy0 != 0 && descCode copy1 != 0 then .next (s2.noSource (descCode copy1)).failedLoad
      else
        let b := if descCode copy0 = 0 then copy0 else copy1
        let d := descOf b
        let s3 := s2.enterMode d
        let l := if s3.ldr.reqSrc = 1 then [0] else if s3.ldr.reqSrc = 2 then [1] else d.order
        .next ({ s3 with ldr := { s3.ldr with desc := d, todo := l } }).nextSource
  else .next s

/-- A record of the staged image at an offset of it (R61). -/
def State.stagedRecord (s : State) (o : Nat) : ImageRecord :=
  let a := s.get F.CFG_STAGE_ADDR.ADDR 0 + o
  parseRecord (s.bytesAt false a (alignUp (12 + s.word false (a + 4) 4) 16))

/-- The header of the staged image. -/
def State.stagedHeader (s : State) : List Byte := s.bytesAt false (s.get F.CFG_STAGE_ADDR.ADDR 0) 64

/-- The records of the staged image from an offset, n at most and within its length. -/
def State.stagedRecords (s : State) : Nat → Nat → List ImageRecord
  | 0, _ => []
  | n + 1, o =>
    if s.get F.CFG_STAGE_LEN.LEN 0 < o + 12 then []
    else
      let r := s.stagedRecord o
      r :: s.stagedRecords n (o + alignUp (12 + r.length) 16)

/-- The bytes at which a slot stands in the flash. -/
def BootDesc.slotOff (d : BootDesc) (n : Nat) : Nat := if n = 0 then d.offA else d.offB

/-- SLOT_READ_START (R49, R58): the header of the source is read and checked; a header that fails its CRC in mode 1 or
2 is read once more at 25 MHz. The header of a staged image is what stands in DRAM. -/
def execSlotReadStart (e : Nat) (hdr : List Byte) (s : State) : Out :=
  let s := s.elapse e
  if s.dev == 2 && s.ldr.phase == .desc then
    let flash := s.ldr.source != 2
    let hdr := if flash then hdr else s.stagedHeader
    let s := if flash then s.emit (.flash 0 (s.ldr.desc.slotOff s.ldr.source) (s.ldr.desc.readBytes s.ldr.legacy)) else s
    if flash && hdrCrcBad hdr && s.ldr.desc.mode != 0 && !s.ldr.legacy then
      .next { s.emit (.flash 1 0 []) with ldr := { s.ldr with legacy := true } }
    else
      let c := hdrCode hdr (s.sourceLen s.ldr.source)
      if c != 0 then .next (s.slotFail c 0xFFFF 0)
      else .next { s with ldr := { s.ldr with phase := .reading, header := hdr, records := [], offset := 64 } }
  else .next s

/-- The DRAM record that addresses the writes of an image: its own once it has come. -/
def State.loadDram (s : State) : List Byte := bodyOf 9 s.ldr.records

/-- Where the staged image stands while it is being read. -/
def State.stageOf (s : State) : Option (Nat × Nat) :=
  if s.ldr.source = 2 then some (s.get F.CFG_STAGE_ADDR.ADDR 0, s.get F.CFG_STAGE_LEN.LEN 0) else none

/-- IMAGE_RECORD_ARRIVAL (R50, R54, R56, R58): a record has been read whole, of a staged image from DRAM; it is checked, hashed and,
where DRAM is its destination, written. Every other destination holds it, without action, in the records of the loader until commit
(notes/assumptions/99.md). A DRAM record that differs from the one in force trains the controller. -/
def execImageRecordArrival (e : Nat) (r : ImageRecord) (s : State) : Out :=
  let s := s.elapse e
  if s.dev == 2 && s.ldr.phase == .reading && decide (s.ldr.records.length < hdrCount s.ldr.header) then
    let l := s.ldr
    let r := if l.source = 2 then s.stagedRecord l.offset else r
    let dram := if r.typ = 9 then r.body else s.loadDram
    let x : ArrivalCtx := ⟨l.header, l.records, l.offset, dram, l.trained, s.stageOf⟩
    let c := if arrivalCode x r ≠ 0 then arrivalCode x r else arrivalDram x r
    if c != 0 then .next (s.slotFail c l.records.length l.offset)
    else
      let s1 := { s with ldr := { l with records := l.records ++ [r], offset := l.offset + recSize r } }
      let s2 := match dramDest dram r with
        | some (a, d) => s1.putBytes false a d
        | none => s1
      if r.typ = 9 && !(l.trained && l.dram == r.body) then
        .next { s2 with ldr := { s2.ldr with phase := .training, trained := false } }
      else .next s2
  else .next s

/-- DRAM_TRAINING_COMPLETE (R58, R331): training ends at OP_INIT with the DRAM's contents open, or fails with 0x18. -/
def execDramTrainingComplete (e : Nat) (ok : Bool) (s : State) : Out :=
  let s := s.elapse e
  if s.dev == 2 && s.ldr.phase == .training then
    if ok then
      let b := s.loadDram
      let rates := (List.range 3).foldl (fun t k => Tab.set 0 t k (leAt b (4 + 2 * k) 2)) []
      let s1 := { s with dram := [], dramZero := [], dramBad := [], epoch := s.epoch + 1,
                         ldr := { s.ldr with phase := .reading, trained := true, dram := b },
                         img := { s.img with rates := rates } }
      let s2 := s1.each (List.range 8) (fun s c =>
        let on := bitAt (leAt b 1 1) c
        ((s.set F.DMC_CH_STAT.PRESENT c (ofBool on)).set F.DMC_CH_STAT.TRAINED c (if on then 3 else 0)).set
          F.DMC_CH_STAT.SELF_REFRESH c 0)
      .next ({ s2 with banks := [] }.setOp (leAt b 3 1))
    else
      let i := s.ldr.records.length - 1
      .next (s.slotFail 0x18 i (whereType 9 0 64 s.ldr.records).2)
  else .next s

/-- LAST_RECORD_READ (R58): the last record has been read and the device enters CHECKING. -/
def execLastRecordRead (e : Nat) (s : State) : Out :=
  let s := s.elapse e
  if s.dev == 2 && s.ldr.phase == .reading && s.ldr.records.length == hdrCount s.ldr.header then
    let c := endCode s.ldr.header s.ldr.records s.ldr.offset
    if c != 0 then .next (s.slotFail c (s.ldr.records.length - 1) s.ldr.offset)
    else .next { s.set F.DEV_STATE.STATE 0 3 with ldr := { s.ldr with phase := .checking } }
  else .next s

/-- What the checks know of this device. -/
def State.facts (s : State) : DeviceFacts :=
  { order := s.get F.DEV_ID.ORDER 0, rev := s.get F.DEV_ID.REV 0, keyProg := s.flag F.CFG_FUSE_STAT.KEYHASH_PROG 0,
    keyHash := s.ldr.keyHash, secver := s.get F.CFG_FUSE_STAT.SECVER 0 }

/-- CHECKS_COMPLETE (R51–R53, R58): the checks of CHECKING end. -/
def execChecksComplete (e : Nat) (s : State) : Out :=
  let s := s.elapse e
  if s.dev == 3 && s.ldr.phase == .checking then
    let c := checkCode s.facts s.ldr.header s.ldr.records
    if c.1 != 0 then
      let w := whereCheck s.facts s.ldr.records c
      .next (s.slotFail c.1 w.1 w.2)
    else .next { s with ldr := { s.ldr with phase := .passed } }
  else .next s

/-! ### Commit (R58, R60) -/

/-- A bit map of bytes of an image packed into 32-bit registers from word base. -/
def State.setWords (s : State) (f : Fld) (base : Nat) (b : List Byte) (o n : Nat) : State :=
  s.each (List.range n) (fun s k => s.set f (base + k) (leAt b (o + 4 * k) 4))

/-- DEVICE takes effect (R54). A changed source leaves Umber FREE. -/
def State.commitDevice (s : State) (b : List Byte) : State :=
  let s1 := ((s.set F.PWR_LADDER_CFG.SPACING 0 (leAt b 4 1)).set F.PWR_WAKE_CFG.EVCH 0 (leAt b 5 1)).set F.PWR_WAKE_CFG.EN 0
    (leAt b 6 1)
  let s2 := { s1 with img := { s1.img with stationTag := leAt b 8 8 } }.set F.UMB_CFG.SRC 0 (leAt b 7 1)
  if s.get F.UMB_CFG.SRC 0 = leAt b 7 1 then s2 else (s2.umberTo 0).set F.UMB_STAT.REF_OK 0 0

/-- PINMAP takes effect (R54). -/
def State.commitPins (s : State) (b : List Byte) : State :=
  s.each (List.range 1024) (fun s c =>
    let o := 16 * c
    let fl := leAt b o 1
    let idle := leAt b (o + 2) 2
    let s1 := ((s.set F.WOD_CH_PIN.HOLD_POLICY c (leAt b (o + 1) 1)).set F.WOD_CH_PIN.DRIVE_EN c (bitsOf fl 4 1)).set
      F.WOD_CH_PIN.FIXTRIM c (bitsOf fl 3 1)
    let s2 := (s1.set F.WOD_CH_PIN.IDLE_SLOT c (bitsOf idle 0 6)).set F.WOD_CH_PIN.IDLE_WF c (bitsOf idle 8 4)
    let s3 := (s2.set F.SEP_CMP_CH_CFG.TERM c (bitsOf fl 0 1)).set F.SEP_CMP_CH_CFG.HYST c (bitsOf fl 1 2)
    ((s3.set F.SEP_CMP_CH_VTT.VTT c (leAt b (o + 4) 2)).set F.SEP_CMP_CH_VTH.HI c (leAt b (o + 6) 2)).set
      F.SEP_CMP_CH_VTH.LO c (leAt b (o + 8) 2))

/-- The site entry of SITEMAP for site x (R54). -/
def State.commitSite (s : State) (sm links : List Byte) (x : Nat) : State :=
  let o := 0x280 + 16 * x
  let own := (List.range 256).filter (fun q => smQuad sm q == x)
  let home := leAt sm (o + 3) 1
  let proxy := smPresent sm x && home != linksDev links
  let tiles := (List.range 8).foldl (fun a t => if own.any (fun q => q / 32 == t) then setBit a t else a) 0
  let s1 := ((s.set F.SMAP_SITE.FLAGS x (smFlags sm x)).set F.SMAP_SITE.ALIGN_SET x (leAt sm (o + 2) 1)).set
    F.SMAP_SITE.HOME_DEV x home
  let s2 := ((s1.set F.SMAP_SITE.HOME_SITE x (leAt sm (o + 4) 1)).set F.SMAP_SITE.TILES x tiles).set
    F.SMAP_SITE.QUADS x own.length
  let s3 := (s2.set F.SMAP_SITE.PROXY x (ofBool proxy)).set F.MDR_SITE_STATE.PROXY x (ofBool proxy)
  if smPresent sm x then
    let s4 := (s3.set F.MDR_SITE_STATE.STATE x 1).set F.MDR_SITE_STATE.ASLEEP x (ofBool (s.asleep x))
    if !proxy && !own.isEmpty then s4.set F.MDR_SITE_SPAN.DEV x (2 ^ linksDev links) else s4
  else s3

/-- The slices of tile t are numbered (R63). -/
def State.commitSlices (s : State) (sm links : List Byte) (t : Nat) : State :=
  let xs := smTileSites sm t
  s.each (List.range xs.length) (fun s j =>
    let x := xs.getD j 0
    let i := 32 * t + j
    let quads := (List.range 32).foldl (fun a b => if smQuad sm (32 * t + b) = x then setBit a b else a) 0
    let home := smHome sm x == linksDev links
    let lead := home && (List.range t).all (fun u => !(smTileSites sm u).contains x)
    ((((s.set F.SMAP_TSLICE.QUADS i quads).set F.SMAP_TSLICE.SITE i x).set F.SMAP_TSLICE.VALID i 1).set
      F.SMAP_TSLICE.PROXY i (ofBool !home)).set F.SLP_STAT.LEAD i (ofBool lead))

/-- SITEMAP takes effect (R54, R63, R68). -/
def State.commitSites (s : State) (sm links : List Byte) : State :=
  let s1 := s.clearRegs [.SMAP_QUAD, .SMAP_BUSMODE, .SMAP_SITE, .SMAP_TSLICE]
  let s2 := s1.each (List.range 256) (fun s q =>
    s.set (if q % 2 = 0 then F.SMAP_QUAD.SITE_LO else F.SMAP_QUAD.SITE_HI) (q / 2) (smQuad sm q))
  let s3 := s2.setWords F.SMAP_BUSMODE.CH 0 sm 0x200 32
  let s4 := s3.each (List.range 256) (fun s x => s.commitSite sm links x)
  s4.each (List.range 8) (fun s t => s.commitSlices sm links t)

/-- TIMESETS and WAVEFORMS take effect (R113, R118, R124): the periods, the waveform tables, and set 0 as primary and
alternate of every slice. -/
def State.commitTiming (s : State) (rs : List ImageRecord) : State :=
  let b := bodyOf 4 rs
  let s1 := s.clearRegs [.WOD_PERIOD, .WOD_SLICE_TS, .WOD_SLICE_PERIOD]
  let s2 := s1.each (List.range (b.length / 16)) (fun s n =>
    s.each (s.slicesOf (leAt b (16 * n) 1)) (fun s i =>
      s.set F.WOD_PERIOD.PERIOD (64 * i + leAt b (16 * n + 1) 1) (leAt b (16 * n + 8) 8)))
  let s3 := s2.each (List.range 256) (fun s i => s.set F.WOD_SLICE_PERIOD.PERIOD i (s.get F.WOD_PERIOD.PERIOD (64 * i)))
  { s3 with wave := waveTable rs, waveBad := [] }

/-- EVENT_MATRIX takes effect, and the counters, loop flags and timers of the fabric are cleared (R299, R309). -/
def State.commitEvents (s : State) (rs : List ImageRecord) : State :=
  let b := bodyOf 6 rs
  let s1 := s.clearRegs [.EVF_MATRIX, .EVF_CH_CFG, .EVF_TRIGOUT_SRC, .EVF_BCAST, .EVF_CHEVSEL, .EVF_LOOPSTAT, .EVF_COINC,
    .EVF_CH_CNT]
  let s2 := s1.each (List.range 32) (fun s k => s.set F.EVF_TIMER_CFG.MODE k 0)
  let s3 := { s2 with evf := { s2.evf with raised := [], held := [], loops := [], timers := [] } }
  let s4 := if b.isEmpty then s3 else
    let t1 := s3.setWords F.EVF_MATRIX.EN 0 b 0 12288
    let t2 := t1.each (List.range 256) (fun s c =>
      let o := 0xC000 + 16 * c
      let re := leAt b o 4
      let lo := leAt b (o + 4) 4
      let d := bitsOf (leAt b (o + 8) 2) 0 1
      (((s.set F.EVF_CH_CFG.REFIRE_NS c re).set F.EVF_CH_CFG.LOCKOUT_NS c lo).set F.EVF_CH_CFG.LOOP_DECL c d).set
        F.EVF_CH_CFG.INTERVAL_NS c (if d = 1 then max re lo else re))
    let t3 := (t2.setWords F.EVF_TRIGOUT_SRC.EVCH 0 b 0xD000 4).setWords F.EVF_BCAST.CH 0 b 0xD010 8
    t3.setWords F.EVF_CHEVSEL.CODE 0 b 0xD030 256
  s4.set F.EVF_STAT.ACTIVE 0 1

/-- INTERRUPTS and SAFE_STATES take effect (R311, R316, R362, R307); without SAFE_STATES every TRIG_OUT is low in safe state (R50). -/
def State.commitIrqs (s : State) (rs : List ImageRecord) : State :=
  let b := bodyOf 7 rs
  let v := bodyOf 8 rs
  let s1 := (s.clearReg .IRC_SRC).each (List.range 64) (fun s g => s.set F.IRC_HOLDOFF.STEPS g (leAt b (0x4000 + 4 * g) 4))
  let s2 := if b.isEmpty then s1 else s1.each (List.range 4096) (fun s n =>
    let w := leAt b (4 * n) 4
    (((s.set F.IRC_SRC.TARGETS n (bitsOf w 0 18)).set F.IRC_SRC.PRIO n (bitsOf w 18 4)).set F.IRC_SRC.EDGE n
      (bitsOf w 22 1)).set F.IRC_SRC.VECTOR n (bitsOf w 24 5))
  { s2 with img := { s2.img with
      escalate := (List.range 32).foldl (fun t i => Tab.set 0 t i (leAt v (4 * i) 4)) [],
      trigLevel := leAt v 0x80 2, trigForce := if v.isEmpty then 0xFFFF else leAt v 0x82 2 } }

/-- DRAM and LAKE take effect (R54, R152, R320, R323); Lake defaults to every bank ON and owned by PF0 (R50). -/
def State.commitMemory (s : State) (rs : List ImageRecord) : State :=
  let b := bodyOf 9 rs
  let l := bodyOf 0xA rs
  let s1 := (((s.set F.DMC_CFG.GEN 0 (leAt b 0 1)).set F.DMC_CFG.CH_MASK 0 (leAt b 1 1)).set F.DMC_CFG.DENSITY 0
    (leAt b 2 1)).set F.DMC_CFG.SEGTAB_REGION 0 (leAt b 0xC 1)
  let s2 := s1.each (List.range 16) (fun s r =>
    ((s.set F.DMC_REGION.BASE r (leAt b (0xE0 + 16 * r) 8)).set F.DMC_REGION.SIZE_MIB r (leAt b (0xE8 + 16 * r) 4)).set
      F.DMC_REGION.TYPE r (leAt b (0xEC + 16 * r) 1))
  let s3 := (s2.set F.MDR_STEP_PDIR.ADDR 0 (dramSegtab b + 536870912))
  let s4 := { s3 with img := { s3.img with segtab := dramSegtab b } }
  { s4 with lakeAt := [] }.each (List.range 64) (fun s0 k =>
    let st := if l.isEmpty then 2 else leAt l (4 * k + 1) 1
    let s := (if st = 0 then s0.loseBank k else s0).set F.LAK_STATE.BUSY k 0
    (((s.set F.LAK_OWNER.OWNER k (lakeOwner l k)).set F.LAK_STATE.REQ k st).set F.LAK_STATE.CUR k st).set
      F.LAK_BANK_STAT.CHECKED k (ofBool (lakeOwner l k == 0x3F)))

/-- The program directory is written: one entry for each STEP_PROGRAMS record, every other entry cleared, and the hot
programs are copied into Lake (R152, R153). -/
def State.commitPrograms (s : State) (rs : List ImageRecord) : State :=
  let base := s.get F.MDR_STEP_PDIR.ADDR 0
  let hots := (hotOffsets (bodyOf 0xA rs) 0 (hotRecs rs)).getD []
  let s1 := s.clearDram base 134217728
  let go := (ofType 0x13 rs).foldl (fun (a : State × List Nat) r =>
    let hot := bitAt (leAt r.body 1 1) 0
    let n := leAt r.body 4 4
    let at_ := base + 524288 * leAt r.body 0 1 + 8 * leAt r.body 2 2
    let addr := if hot then a.2.headD 0 else leAt r.body 8 8
    let w := ofBool hot + addr / 8 * 8 + n * 2 ^ 40
    let t := a.1.putBytes false at_ (toBytes 8 w)
    if hot then (t.putBytes true addr (r.body.drop 16), a.2.drop 1) else (t, a.2)) (s1, hots)
  go.1

/-- LINKS takes effect (R20, R240, R243). -/
def State.commitLinks (s : State) (b : List Byte) : State :=
  let lead (k : Nat) : Nat := if leAt b (8 + 8 * k) 8 = 0 then baseLead k else leAt b (8 + 8 * k) 8
  let s1 := s.set F.DEV_NUMBER.NUMBER 0 (leAt b 0 1)
  let s2 := { s1 with img := { s1.img with leadTile := lead 0, leadCore := lead 1, leadHop := lead 2, links := b } }
  let s2 := s2.each ((List.range 8).filter (fun p => leAt b (0x20 + 8 * p) 1 % 2 = 0)) (fun s p =>
    ((s.setPort p {}).set F.LNK_PORT_STAT.STATE p 0).set F.LNK_PORT_STAT.RATE p 0 |>.set F.LNK_PORT_STAT.TIME_UP p 0)
  if leAt b 1 1 = 1 then
    ((s2.set F.LNK_TIME_STAT.STATE 0 0).set F.LNK_TIME_STAT.HOPS 0 0).set F.LNK_TIME_STAT.MASTER 0 (leAt b 0 1)
  else ((s2.set F.LNK_TIME_STAT.STATE 0 5).set F.LNK_TIME_STAT.HOPS 0 31).set F.LNK_TIME_STAT.UP_VALID 0 0

/-- The registers of the bus engines. -/
def busRegs : List Reg :=
  [.BUS_CFG, .BUS_CTRL, .BUS_STAT, .BUS_TX_RES, .BUS_GATE, .BUS_EV_CFG, .BUS_CAN_ERR, .BUS_CNT, .BUS_RX_BASE, .BUS_SR_BASE,
   .BUS_RX_CFG, .BUS_SR_CFG, .BUS_RX_WR, .BUS_RX_RD, .BUS_SR_WR, .BUS_SR_RD, .BUS_RX_LOST, .BUS_SR_LOST, .BUS_FILT_VAL,
   .BUS_FILT_MSK, .BUS_LIN_RESP, .BUS_LIN_DATA, .BUS_MDIO_RES]

/-- BUSENG takes effect: no engine holds state across it, every engine with a protocol runs, and its channels take
RX_THRESH (R249, R250). -/
def State.commitBus (s : State) (b : List Byte) : State :=
  let s1 := { s.clearRegs busRegs with buses := [], mdioQ := [], img := { s.img with buseng := b } }
  s1.each (List.range 64) (fun s e =>
    let o := 32 * e
    let p := leAt b o 1
    if p = 0 then s else
    let t := (((s.set F.BUS_CFG.PROTOCOL e p).set F.BUS_CFG.STRANGER e (leAt b (o + 7) 1)).set F.BUS_CFG.SITE e
      (leAt b (o + 1) 1)).set F.BUS_CFG.FIRST_CH e (leAt b (o + 2) 2)
    let t1 := (t.set F.BUS_CTRL.RUN e 1).set F.BUS_STAT.STATE e 1
    let t2 := t1.each (busChans b e) (fun s c =>
      (s.set F.SEP_CMP_CH_VTH.HI c (leAt b (o + 4) 2)).set F.SEP_CMP_CH_VTH.LO c (leAt b (o + 4) 2))
    t2.setBus e { t2.bus e with commitDT := s.now, phyHeld := p == 6 })

/-- The number of valid match registers of a patch body: n words from offset o. -/
def validMatches (b : List Byte) (o n : Nat) : Nat := ((List.range n).filter (fun k => bitAt (leAt b (o + 4 * k) 4) 31)).length

/-- SCHED, the patches and FIRMWARE take effect (R50, R109, R173, R271). -/
def State.commitCores (s : State) (rs : List ImageRecord) : State :=
  let b := bodyOf 0xE rs
  let p0 := bodyOf 0xF rs
  let p1 := bodyOf 0x10 rs
  let fw := bodyOf 0x11 rs
  let pull := if b.isEmpty then 0xFFFF else (List.range 16).foldl (fun a k => if leAt b k 1 = 1 then setBit a k else a) 0
  let s1 := (s.set F.SAF_CFG.PULL 0 pull).set F.SAF_CFG.TICK_NS 0 (if b.isEmpty then 1000 else leAt b 0x10 4)
  let s2 := s1.each (List.range 8) (fun s t =>
    (s.set F.SLP_PATCH.WORDS t (if p0.isEmpty then 0 else 64)).set F.SLP_PATCH.MATCHES t (validMatches p0 0x200 16))
  let s3 := (s2.set F.MDR_STEP_PATCH.WORDS 0 (if p1.isEmpty then 0 else 256)).set F.MDR_STEP_PATCH.MATCHES 0
    (validMatches p1 0xC00 32)
  let s4 := (s3.set F.SVC_FW.VERSION 0 (leAt fw 0 4)).set F.SVC_FW.CORE_MASK 0 (leAt fw 4 2)
  let s5 := s4.each (List.range 16) (fun s c =>
    (s.set F.SVC_CORE_STAT.STATE c (if bitAt (leAt fw 4 2) c then 2 else 1)).set F.SVC_CORE_STAT.WDOG c 0)
  { s5 with saf := { s5.saf with refused := [] }, img := { s5.img with tables := allTables rs, flowPri := b.drop 0x20, patchL0 := p0, patchL1 := p1 } }

/-- The plans begin anew: a site with a plan table waits for its first DUT, every other has no plan (R280, R285). -/
def State.commitPlans (s : State) : State :=
  let s1 : State := { s.clearRegs [.SVC_DUTS, .SVC_LAST] with plans := [], logs := [], uds := [], keyQ := [] }
  s1.each (List.range 256) (fun s x =>
    (s.set F.SVC_PLAN_STAT.STATE x
      (if s.siteState x != 0 && !s.proxy x && (s.svcTable x 1).isSome then 1 else 5)).set
        F.SVC_PLAN_STAT.ENTRY x 0)

/-- The identity of the image in force (R51, R58). -/
def State.commitIdentity (s : State) (hdr : List Byte) (rs : List ImageRecord) : State :=
  let s1 := ((s.set F.CFG_IMAGE.IMAGE_ID 0 (leAt hdr 0x14 4)).set F.CFG_IMAGE.FORMAT 0 (leAt hdr 4 2)).set
    F.CFG_IMAGE.SECVER 0 (hdrSecver hdr)
  (s1.setWords F.CFG_HASH.HASH 0 (Config.sha384 (hashedBytes hdr rs)) 0 12).set F.CFG_LOAD_DT.DT 0 s.now

/-- Everything that an image loads takes effect (R58). -/
def State.applyImage (s : State) (hdr : List Byte) (rs : List ImageRecord) : State :=
  let links := bodyOf 0xB rs
  let s1 := ((s.commitDevice (bodyOf 1 rs)).commitPins (bodyOf 2 rs)).commitLinks links
  let s2 := ((s1.commitSites (bodyOf 3 rs) links).commitTiming rs).commitEvents rs
  let s3 := (((s2.commitIrqs rs).commitMemory rs).commitPrograms rs).commitBus (bodyOf 0xC rs)
  ((s3.commitCores rs).commitPlans).commitIdentity hdr rs

/-- The result of the load is recorded: the source, and a fallback (R49, R61). -/
def State.commitResult (s : State) : State :=
  let l := s.ldr
  let fell := (l.source != 2 && l.source != l.desc.preferred) || l.fellBack
  let s := s.clearFail l.source
  let s1 := (((s.set F.CFG_STAT.CODE 0 0).set F.CFG_STAT.SOURCE 0 l.source).set F.CFG_STAT.FALLBACK 0 (ofBool fell)).set
    F.CFG_STAT.BUSY 0 0
  let s2 := if fell then s1.raiseC F.CFG_FAULT_STAT.FALLBACK 0 else s1
  { s2 with ldr := { s2.ldr with phase := .idle, todo := [], fellBack := false, reqSrc := 0, header := [], records := [] } }

/-- COMMIT (R58, R68): no earlier than 16 ms after the last group settled, the loaded configuration takes effect at one
DT and the device enters READY, every mapped channel at its idle level (R125, R126); a site with a quad of a FAILED group enters
FAULTED with cause 2. -/
def execCommit (e : Nat) (s : State) : Out :=
  let s := s.elapse e
  if s.dev == 3 && s.ldr.phase == .passed && decide (us 16000 ≤ s.since s.pwr.lastSettle) then
    let s1 := (s.applyImage s.ldr.header s.ldr.records).commitResult
    let s2 := (s1.set F.DEV_STATE.STATE 0 4).fire 1477
    let bad := (List.range 256).filter (fun x => (s2.siteGroups x).any (fun g => s2.group g == 6))
    let s3 := s2.each ((List.range 256).filter (fun i => s2.sliceValid i)) (fun s i => s.idleSlice i s.now)
    .next (s3.each bad (fun s x => s.siteFault x 2))
  else .next s

/-! ### Reload (R61) -/

/-- The sources that a reload names. -/
def reloadSources (src : Nat) : List Nat := if src = 0 then [0, 1] else if src = 1 then [0] else if src = 2 then [1] else [2]

/-- The pre-check of a reload fails: nothing changes but the records of the failure. -/
def State.precheckFail (s : State) : State :=
  let s1 := ((s.set F.CFG_STAT.RELOAD_REJ 0 1).raiseC F.CFG_FAULT_STAT.PRECHECK_FAIL 0).set F.CFG_STAT.BUSY 0 0
  { s1 with ldr := { s1.ldr with phase := .idle } }

/-- A write to CFG_RELOAD (R33, R61); from the flash it is refused while an NVM operation runs (R349). Refused with RELOAD_REJ too are,
by the model's choice, a reload in POWERING or DORMANT, and one of a staged image that lies in no DATA region
(DESIGN CHOICE, notes/assumptions/98.md). -/
def State.reload (s : State) (v : Nat) : State :=
  if !bitAt v 31 then s
  else if s.flag F.CFG_STAT.BUSY 0 || s.dev == 1 || s.dev == 2 || s.dev == 3 || s.dev == 6 then s.set F.CFG_STAT.RELOAD_REJ 0 1
  else
    let src := bitsOf v 0 2
    if src != 3 && !s.nvm.isEmpty then s.set F.CFG_STAT.RELOAD_REJ 0 1
    else if src = 3 && (s.region 1 (s.get F.CFG_STAGE_ADDR.ADDR 0) (s.get F.CFG_STAGE_LEN.LEN 0)).isNone then
      s.set F.CFG_STAT.RELOAD_REJ 0 1
    else if s.pins.testen then ((reloadSources src).foldl (fun s n => s.cfgFail n 0x23 0xFFFF 0) s).precheckFail
    else { s.set F.CFG_STAT.BUSY 0 1 with ldr := { s.ldr with phase := .precheck, reqSrc := src, force := bitAt v 2 } }

/-- RELOAD (R61). -/
def execReload (e : Nat) (v : Word32) (s : State) : Out := .next ((s.elapse e).reload v.toNat)

/-- The sources of a reload are pre-checked in order until one passes; the failures are recorded. A staged image is what stands in
DRAM. -/
def State.precheckAll (s : State) (d : BootDesc) :
    List Nat → List (List Byte × List ImageRecord) → State × Bool
  | [], _ => (s, false)
  | n :: ns, l =>
    if n != 2 && l.isEmpty then (s, false)
    else
      let len := if n = 0 then d.lenA else if n = 1 then d.lenB else s.get F.CFG_STAGE_LEN.LEN 0
      let hdr := if n = 2 then s.stagedHeader else (l.headD ([], [])).1
      let rs := if n = 2 then s.stagedRecords (hdrCount hdr) 64 else (l.headD ([], [])).2
      let p := precheck s.facts hdr len rs
      let c := if p.1 = 0 && n == 2 && bodyOf 9 rs != s.ldr.dram then (0x25, (whereType 9 0 64 rs)) else p
      if c.1 = 0 then (s.clearFail n, true) else (s.cfgFail n c.1 c.2.1 c.2.2).precheckAll d ns (l.drop 1)

/-- PRECHECK_COMPLETE (R61): the sources that the reload names have been read, images holding what stands in each in
the order of trying; on success the teardown waits for the sites, which FORCE aborts. -/
def execPrecheckComplete (e : Nat) (copy0 copy1 : List Byte) (images : List (List Byte × List ImageRecord)) (s : State) : Out :=
  let s := s.elapse e
  if s.ldr.phase == .precheck then
    let flash := s.ldr.reqSrc != 3
    if flash && descCode copy0 != 0 && descCode copy1 != 0 then
      .next ((reloadSources s.ldr.reqSrc).foldl (fun s n => s.cfgFail n (descCode copy1) 0xFFFF 0) s).precheckFail
    else
      let d := descOf (if descCode copy0 = 0 then copy0 else copy1)
      let l := if s.ldr.reqSrc = 0 then d.order else reloadSources s.ldr.reqSrc
      let r := s.precheckAll d l images
      if r.2 then
        let s1 := { r.1 with ldr := { r.1.ldr with phase := .teardown } }
        .next (if s1.ldr.force then s1.each (List.range 256) (fun s x => s.sendAbort x) else s1)
      else .next r.1.precheckFail
  else .next s

/-- The channels without a site: off, with nothing to drive or compare, but the comparators settle on. -/
def State.restChans (s : State) : Tab ChanUnit :=
  (s.chans.filter (fun p => p.2.settle.isSome)).map (fun p => (p.1, { settle := p.2.settle }))

/-- Every site becomes ABSENT and no event channel fires (R61, R68, R299); the plans are gone with the sites, a descriptor in execution
is flushed (R346), the bus engines and barriers hold nothing, every pair is at 0 mV (R59), and no source of the load is tried yet. -/
def State.teardown (s : State) : State :=
  let s0 : State := { s.flushTaken with plans := [] }
  let s1 := s0.each (List.range 256) (fun s x => (s.endUnits x).set F.SVC_PLAN_STAT.STATE x 5)
  let s2 := s1.clearRegs [.MDR_SITE_STATE, .MDR_SITE_SPAN, .SLP_STAT]
  let s3 := s2.clearRegs [.MDR_SITE_FCAUSE, .MDR_STEP_SYNC_STAT, .CFG_FAIL]
  let s4 : State := { s3 with sites := [], slices := [], ctxs := [], grans := [], barriers := [], buses := [], chans := s3.restChans }
  (s4.set F.EVF_STAT.ACTIVE 0 0).set F.DEV_STATE.STATE 0 2

/-- The loader turns to the source that the reload names. -/
def State.reloadSource (s : State) : State :=
  if s.ldr.reqSrc = 3 then ({ s with ldr := { s.ldr with todo := [2], fellBack := false } }).nextSource
  else { s with ldr := { s.ldr with phase := .start, todo := [], fellBack := false } }

/-- RELOAD_TEARDOWN (R61): no site is active any longer; the device enters LOADING for the new image. -/
def execReloadTeardown (e : Nat) (s : State) : Out :=
  let s := s.elapse e
  if s.ldr.phase == .teardown && !s.anyActive then .next s.teardown.reloadSource else .next s

/-! ### Fuses (R52) -/

/-- A write to CFG_FUSE_CMD: the operation starts, or is refused with result 3. A write while one runs is ignored
(DESIGN CHOICE, notes/assumptions/98.md). -/
def State.fuseCmd (s : State) (v : Nat) : State :=
  if !bitAt v 31 || s.get F.CFG_FUSE_RES.RESULT 0 == 1 then s
  else
    let op := bitsOf v 0 2
    let n := bitsOf v 8 7
    let ok := (op == 1 && !s.flag F.CFG_FUSE_STAT.KEYHASH_PROG 0) ||
      (op == 2 && decide (s.get F.CFG_FUSE_STAT.SECVER 0 ≤ n) && decide (n ≤ s.get F.CFG_IMAGE.SECVER 0) && decide (n ≤ 64))
    if ok then { s.set F.CFG_FUSE_RES.RESULT 0 1 with ldr := { s.ldr with fuseOp := op, fuseArg := n } }
    else s.set F.CFG_FUSE_RES.RESULT 0 3

/-- FUSE_PROGRAM_KEY_HASH (R52). -/
def execFuseProgramKeyHash (e : Nat) (v : Word32) (s : State) : Out := .next ((s.elapse e).fuseCmd v.toNat)

/-- FUSE_RAISE_SECVER (R52). -/
def execFuseRaiseSecver (e : Nat) (v : Word32) (s : State) : Out := .next ((s.elapse e).fuseCmd v.toNat)

/-- FUSE_OP_COMPLETE (R52): the fuses are programmed and the result reads done. -/
def execFuseOpComplete (e : Nat) (s : State) : Out :=
  let s := s.elapse e
  if s.get F.CFG_FUSE_RES.RESULT 0 == 1 then
    let s1 := s.set F.CFG_FUSE_RES.RESULT 0 2
    if s.ldr.fuseOp = 1 then
      let h := (List.range 12).flatMap (fun n => toBytes 4 (Tab.get 0 s.ldr.keyHashIn n))
      .next { s1.set F.CFG_FUSE_STAT.KEYHASH_PROG 0 1 with ldr := { s1.ldr with keyHash := h, fuseOp := 0 } }
    else .next { s1.set F.CFG_FUSE_STAT.SECVER 0 s.ldr.fuseArg with ldr := { s1.ldr with fuseOp := 0 } }
  else .next s

end Sys2Proof.Machine
end

