-- ==== Sys2Proof/Machine/Line.lean ====
section
/-! DEFINITION. The line code of both link classes (spec/12_links_time.md, R224–R228): stuffing, scrambling, blocks of 66
bits, control blocks with their CRC8, and a frame as one lane receives it. A list of bits is in time order. -/

namespace Sys2Proof.Machine

/-! ### Stuffing (R226) -/

/-- What was sent last: the value of the latest bit and how many equal bits end with it. -/
structure RunCount where
  last : Bool
  n : Nat
  deriving DecidableEq, Repr

/-- The run after one more bit. -/
def RunCount.push (r : RunCount) (b : Bool) : RunCount := ⟨b, if b = r.last then r.n + 1 else 1⟩

/-- A comma ends with 28 ones (R227). -/
def afterComma : RunCount := ⟨true, 28⟩

/-- The bits of a stream as they are sent: after 23 equal bits, one of the opposite value is inserted. -/
def stuff (r : RunCount) : List Bool → List Bool
  | [] => []
  | b :: l =>
    if 23 ≤ r.n then (!r.last) :: b :: stuff ((r.push (!r.last)).push b) l else b :: stuff (r.push b) l

/-- The bits of a received stream without the inserted ones. -/
def unstuff (r : RunCount) : List Bool → List Bool
  | [] => []
  | b :: l => if 23 ≤ r.n then unstuff (r.push b) l else b :: unstuff (r.push b) l

/-! ### Scrambling (R225) -/

/-- The generator after a comma: s[−1] to s[−58], latest first, all 1. -/
def scrambleSeed : List Bool := List.replicate 58 true

/-- The next bit of the generator, s[n−39] XOR s[n−58]. -/
def scrambleBit (g : List Bool) : Bool := xor (g.getD 38 false) (g.getD 57 false)

/-- The generator advanced by one step. -/
def scrambleStep (g : List Bool) : List Bool := scrambleBit g :: g.take 57

/-- Payload bits scrambled, or descrambled, from a state of the generator. -/
def scramble (g : List Bool) : List Bool → List Bool
  | [] => []
  | b :: l => xor b (scrambleBit g) :: scramble (scrambleStep g) l

/-- The generator after n payload bits. -/
def scrambleAfter (g : List Bool) : Nat → List Bool
  | 0 => g
  | n + 1 => scrambleAfter (scrambleStep g) n

/-! ### Blocks (R224, R228) -/

/-- The number whose bit k is the k-th bit of a list. -/
def ofBits : List Bool → Nat
  | [] => 0
  | b :: l => ofBool b + 2 * ofBits l

/-- A block as it is received: its header and its descrambled payload. -/
structure LineBlock where
  header : Nat
  payload : Nat
  deriving DecidableEq, Repr

/-- The blocks of a stream without stuffing, the generator standing at g. -/
def blocksOf (g : List Bool) (l : List Bool) : Nat → List LineBlock
  | 0 => []
  | n + 1 =>
    if l.length < 66 then []
    else ⟨ofBits (l.take 2), ofBits (scramble g ((l.drop 2).take 64))⟩ :: blocksOf (scrambleAfter g 64) (l.drop 66) n

/-- The TYPE of a control block. -/
def LineBlock.typ (b : LineBlock) : Nat := bitsOf b.payload 0 8

/-- The CSEQ of a control block. -/
def LineBlock.cseq (b : LineBlock) : Nat := bitsOf b.payload 8 8

/-- The BODY of a control block. -/
def LineBlock.body (b : LineBlock) : Nat := bitsOf b.payload 16 40

/-- Is a block a control block. -/
def LineBlock.control (b : LineBlock) : Bool := b.header == 2

/-- Is the header of a block invalid. -/
def LineBlock.invalid (b : LineBlock) : Bool := b.header == 0 || b.header == 3

/-- Does the CRC8 of a control block hold over its bytes 0 to 6. -/
def LineBlock.crcOk (b : LineBlock) : Bool := crc8 (toBytes 7 b.payload) == bitsOf b.payload 56 8

/-- The types that Lenkel defines (R245). -/
def lenkelTypes : List Nat := [0x01, 0x02, 0x03, 0x10, 0x11, 0x20, 0x21, 0x22, 0x23, 0x24, 0x30, 0x40, 0x41, 0x48]

/-! ### Frames (R227, R228) -/

/-- What one lane's frame carries: COUNT, the lane number and the ACK of its FRAME block, and how many of its blocks have an
invalid header, a failing CRC8, or a type that is not defined. -/
structure FrameInfo where
  count : Nat
  lane : Nat
  ack : Nat
  invalid : Nat
  badCrc : Nat
  badType : Nat
  deriving DecidableEq, Repr

/-- The frame of one lane from the bits after its comma; none where its FRAME block fails, so that it is discarded with every
block it carries. -/
def readFrame (bits : List Bool) : Option FrameInfo :=
  match blocksOf scrambleSeed (unstuff afterComma bits) 61 with
  | f :: l =>
    if f.control && f.crcOk && f.typ == 0x01 then
      let n := bitsOf f.body 0 6
      let bs := l.take n
      let cs := bs.filter (fun b => b.control)
      some ⟨n, bitsOf f.body 6 4, bitsOf f.body 10 8, (bs.filter (fun b => b.invalid)).length,
        (cs.filter (fun b => !b.crcOk)).length, (cs.filter (fun b => b.crcOk && !lenkelTypes.contains b.typ)).length⟩
    else none
  | [] => none

end Sys2Proof.Machine
end

