-- ==== Sys2Proof/Machine/Tlink.lean ====
section
/-! DEFINITION. Tile links (spec/12_links_time.md, R232–R235): link-up, frames, acknowledgements, replay, link-down and the reset
of a tile (R373). -/

namespace Sys2Proof.Machine

/-- A tile link's hidden state. -/
def State.tlink (s : State) (t : Nat) : TileLink := Tab.get {} s.tlinks t

/-- A tile link's hidden state replaced. -/
def State.setTlink (s : State) (t : Nat) (u : TileLink) : State := { s with tlinks := Tab.set {} s.tlinks t u }

/-- Both ends of a tile link show a state. -/
def State.tlinkState (s : State) (t v : Nat) : State := (s.set F.TLK_CORE_STAT.STATE t v).set F.TLK_STAT.STATE t v

/-- The slices of a tile that exist. -/
def State.tileSlices (s : State) (t : Nat) : List Nat :=
  ((List.range 32).map (fun j => 32 * t + j)).filter (fun i => s.sliceValid i)

/-- The sites with a slice in a tile. -/
def State.tileSites (s : State) (t : Nat) : List Nat := (s.tileSlices t).map (fun i => s.sliceSite i)

/-- A slice of a tile at a tile reset: store, player and capture staging are cleared. -/
def State.tileSlice (s : State) (i : Nat) : State := ((s.resetSlice i).setSlice i {}).set F.SEP_CAP_STAGE.LEVEL i 0

/-- The units of a channel at a tile reset: its history buffer and its measurement unit are cleared. -/
def State.tileChan (s : State) (c : Nat) : State :=
  (((s.clearFields c [F.SEP_ACQ_CH_STAT.STATE, F.TIA_CH_STAT.STATE, F.TIA_CH_START_DT.DT, F.TIA_CH_DONE_DT.DT]).setAcqU c {}).clearMeas c).setTiaU c {}

/-- A tile reset (R372, R373): its store, players, staging, history buffers and measurement units are cleared, and the sites
with a slice in it are FAULTED. -/
def State.tileReset (s : State) (t : Nat) : State :=
  let s1 := s.each (s.tileSites t) (fun s x => s.siteFault x 6)
  let s2 := s1.each (s1.tileSlices t) (fun s i => s.tileSlice i)
  s2.each (tileChans t) (fun s c => s.tileChan c)

/-- TILE_LINK_UP (R232, R233): the link is up; one that went down resets its tile as it restarts (R372). -/
def execTileLinkUp (e : Nat) (t : Tile) (s : State) : Out :=
  let s := s.elapse e
  let t := t.val
  if s.get F.TLK_CORE_STAT.STATE t == 1 then
    let s1 := if (s.tlink t).restart then s.tileReset t else s
    let s2 := ((s1.tlinkState t 2).set F.TLK_STAT.DOWN_LOCK t 0xFFFF).set F.TLK_CORE_STAT.UP_LOCK t 0xFF
    .next (((s2.count F.TLK_CORE_STAT.UPS none t 26 1).stamp F.TLK_CORE_UPDT.DT t s2.now).setTlink t {})
  else .next s

/-- A tile link goes down (R235): its sites fault, their slices stop at the next granule boundary, and the link restarts
blind at once. -/
def State.tlinkDown (s : State) (t : Nat) : State :=
  let s1 := ((s.tlinkState t 1).set F.TLK_STAT.DOWN_LOCK t 0).set F.TLK_CORE_STAT.UP_LOCK t 0
  let s2 := ((s1.set F.TLK_CORE_STAT.DOWN t 1).setTlink t { restart := true }).fire (1468 + t)
  let s3 := s2.raiseU 26 F.TLK_FAULT_STAT.DOWN t
  s3.each (s3.tileSites t) (fun s x => s.siteFault x 6)

/-- TILE_LINK_DOWN (R235). -/
def execTileLinkDown (e : Nat) (t : Tile) (s : State) : Out :=
  let s := s.elapse e
  .next (if s.tileUp t.val then s.tlinkDown t.val else s)

/-- Has a block sent n times been sent long enough ago, and how often (R234, R238). -/
def resendOf (l : List (Nat × Nat × Nat)) (q : Nat) : Option (Nat × Nat) := (l.find? (fun b => b.1 == q)).map (·.2)

/-- TILE_REPLAY_TIMEOUT (R234): the control block with a CSEQ is sent again, at most twice; when the third sending fails too,
the link is down. -/
def execTileReplayTimeout (e : Nat) (t : Tile) (q : Byte) (s : State) : Out :=
  let s := s.elapse e
  let t := t.val
  let q := q.toNat
  let u := s.tlink t
  if s.tileUp t then
    let again (n : Nat) : State :=
      ((s.setTlink t { u with resent := u.resent.filter (fun b => b.1 != q) ++ [(q, n, s.now)] }).count
        F.TLK_ERR.REPLAY none t 26 1).emit (.replay none (some t) q)
    match resendOf u.resent q with
    | none => .next (again 2)
    | some (n, d) => if s.reached (wrap64 (d + ns 40)) then .next (if n < 3 then again (n + 1) else s.tlinkDown t) else .next s
  else .next s

/-! ### Acknowledgements and frames, on both link classes (R228–R231, R234, R238, R245) -/

/-- Does an acknowledgement of CSEQ q cover CSEQ c: it is cumulative, modulo 256. -/
def ackCovers (q c : Nat) : Bool := decide ((q + 256 - c % 256) % 256 < 128)

/-- An acknowledgement up to CSEQ q arrives on a link. -/
def State.acked (s : State) (l : LinkId) (q : Nat) : State :=
  match l with
  | .tile t => let u := s.tlink t.val; s.setTlink t.val { u with resent := u.resent.filter (fun b => !ackCovers q b.1) }
  | .port p => let u := s.port p.val; s.setPort p.val { u with unacked := u.unacked.filter (fun b => !ackCovers q b.1) }

/-- Does a link receive frames: a tile link that is locking or up, a port that is training or up. -/
def State.linkLive (s : State) (l : LinkId) : Bool :=
  match l with
  | .tile t => s.get F.TLK_STAT.STATE t.val == 1 || s.get F.TLK_STAT.STATE t.val == 2
  | .port p => s.get F.LNK_PORT_STAT.STATE p.val == 1 || s.get F.LNK_PORT_STAT.STATE p.val == 2

/-- ACK (R231). -/
def execAck (e : Nat) (l : LinkId) (q : Byte) (s : State) : Out :=
  let s := s.elapse e
  .next (if s.linkLive l then s.acked l q.toNat else s)

/-- n blocks or frames of a link fail (TLK_ERR, LNK_PORT_ERR). -/
def State.linkErr (s : State) (l : LinkId) (n : Nat) : State :=
  match l with
  | .tile t => s.count F.TLK_ERR.CRC none t.val 26 n
  | .port p => s.count F.LNK_PORT_ERR.CRC none p.val 13 n

/-- A control block of a link failed its CRC. -/
def State.linkCrc (s : State) (l : LinkId) : State :=
  match l with
  | .tile t => s.raiseC F.TLK_FAULT_STAT.CRC t.val
  | .port _ => s.raiseC F.LNK_FAULT_STAT.CRC 0

/-- What a frame's own blocks tell: the lane found at a received lane, and blocks of unknown type. -/
def State.frameSeen (s : State) (l : LinkId) (lane : Nat) (f : FrameInfo) : State :=
  match l with
  | .tile _ => s
  | .port p =>
    let m := s.get F.LNK_PORT_STAT.LANE_MAP p.val
    let s1 := if lane < 4 then
        s.set F.LNK_PORT_STAT.LANE_MAP p.val (m - bitsOf m (2 * lane) 2 * 4 ^ lane + f.lane % 4 * 4 ^ lane) else s
    if f.badType = 0 then s1 else s1.count F.LNK_PORT_ERR.BADTYPE none p.val 13 f.badType

/-- FRAME_ARRIVAL (R224–R230): the bits that followed a comma on a lane. A frame whose FRAME block fails is discarded with
every block it carries; the typed blocks of a good frame act by commands of their own. -/
def execFrameArrival (e : Nat) (l : LinkId) (lane : Fin 16) (bits : List Bool) (s : State) : Out :=
  let s := s.elapse e
  if s.linkLive l then
    match readFrame bits with
    | some f =>
      let s1 := if f.invalid + f.badCrc = 0 then s else s.linkErr l (f.invalid + f.badCrc)
      let s2 := if f.badCrc = 0 then s1 else s1.linkCrc l
      .next ((s2.frameSeen l lane.val f).acked l f.ack)
    | none => .next ((s.linkErr l 1).linkCrc l)
  else .next s

end Sys2Proof.Machine
end

