-- ==== Sys2Proof/Machine/Umber.lean ====
section
/-! DEFINITION. Umber (spec/10_time_interval_timebase.md): device time, discipline, the crystal, PPS_IN and PPS_OUT. -/

namespace Sys2Proof.Machine

/-- DT_WRAP (R202): the passing of time that carries DT past 2^64 also counts the wrap. -/
def execDtWrap (e : Nat) (s : State) : Out := .next (s.elapse e)

/-- The address of UMB_DT. -/
abbrev umbDtAddr : Nat := 0x00030000

/-- The low word of a 64-bit register is read by an agent: its high word is latched in the agent's read shadow (R342). -/
def State.latchHigh (s : State) (a : Agent) (addr v : Nat) : State :=
  let w := Tab.get {} s.shadows a.num
  { s with shadows := Tab.set {} s.shadows a.num { w with rd := some (addr, v / 2 ^ 32) }, readData := v % 2 ^ 32 }

/-- A read of the low word of UMB_DT (R202). -/
def State.readDt (s : State) (a : Agent) : State :=
  (s.latchHigh a umbDtAddr s.now).set F.UMB_ERA_LATCH.ERA 0 (s.get F.UMB_ERA.ERA 0)

/-- UMB_DT_READ (R202). -/
def execUmbDtRead (e : Nat) (a : Agent) (s : State) : Out := .next ((s.elapse e).readDt a)

/-! ### Discipline (R205, R206) -/

/-- Does the time protocol report lock, where it is the source (R205, R243). -/
def State.timeHolds (s : State) : Bool :=
  s.get F.UMB_CFG.SRC 0 != 3 || (match s.upstream with | some p => decide (16 ≤ (s.port p).good) | none => false)

/-- Ticks in a second of station time. -/
abbrev second : Nat := 8000000000000

/-- Does the selected source meet its lock condition (R205): for REFIN, a frequency error that has stayed below 10^-9 (`err`, its
largest in 10^-12) for 10 s since it was acquired; for PPS_IN, three successive edges within 50 ns of whole seconds. -/
def State.lockMet (s : State) (err : Nat) : Bool :=
  match s.get F.UMB_CFG.SRC 0 with
  | 1 => decide (err < 1000) && s.reached (wrap64 (s.umb.refAt + 10 * second))
  | 2 => decide (3 ≤ s.umb.ppsGood)
  | 3 => s.timeHolds
  | _ => false

/-- Is the selected reference lost (R206): for REFIN, its latest edge at DT `edge` lies 1 µs back or its frequency is more than 20 ppm
off (`err` in 10^-12); for PPS_IN, no edge came within 1 ms of the expected second; for Lenkel, no port qualifies (R244). -/
def State.lossMet (s : State) (edge err : Nat) : Bool :=
  match s.get F.UMB_CFG.SRC 0 with
  | 1 => s.reached (wrap64 (edge + us 1)) || decide (20000000 < err)
  | 2 => match s.umb.ppsAt with
    | some d => s.reached (wrap64 (d + second + us 1000 + 1))
    | none => true
  | 3 => s.upstream.isNone
  | _ => false

/-- REFERENCE_LOCK (R205): the selected source, acquired, meets its lock condition. -/
def execReferenceLock (e : Nat) (s : State) (err : Nat := 0) : Out :=
  let s := s.elapse e
  if s.get F.UMB_STAT.STATE 0 == 1 && s.lockMet err then .next ((s.umberTo 2).set F.UMB_STAT.REF_OK 0 1)
  else .next s

/-- REFERENCE_LOSS (R206). -/
def execReferenceLoss (e : Nat) (s : State) (edge : Nat := 0) (err : Nat := 0) : Out :=
  let s := s.elapse e
  let st := s.get F.UMB_STAT.STATE 0
  if (st == 1 || st == 2) && s.lossMet edge err then .next s.holdover
  else .next s

/-- REFERENCE_RETURN (R205, R206): the reference is there, first or again, and Umber acquires it; a Lenkel master once the follower
has begun to pull (R242). -/
def execReferenceReturn (e : Nat) (s : State) : Out :=
  let s := s.elapse e
  let st := s.get F.UMB_STAT.STATE 0
  let here := s.get F.UMB_CFG.SRC 0 != 3 || (match s.upstream with | some p => (s.port p).first | none => false)
  if s.get F.UMB_CFG.SRC 0 != 0 && (st == 0 || st == 3) && here then
    .next ({ s with umb := { s.umb with refAt := s.now, ppsGood := 0 } }.umberTo 1 |>.set F.UMB_STAT.REF_OK 0 1)
  else .next s

/-! ### The crystal (R203, R204, R207) -/

/-- XTAL_FAIL (R207): safe state is forced and DT goes on from the backup oscillator. -/
def execXtalFail (e : Nat) (s : State) : Out :=
  let s := s.elapse e
  .next ((s.set F.UMB_STAT.BACKUP 0 1).raiseF F.UMB_FAULT_STAT.XTAL_FAIL 0 4)

/-- A number moves towards another by at most 0.01 ppm, in units of 10^-12. -/
def slew (c aim : Int) : Int := max (c - 10000) (min (c + 10000) aim)

/-- The discipline's part of c: free in ACQUIRE and LOCKED, kept in HOLDOVER, nothing in FREE (R205, R206). -/
def State.discipline (s : State) : Int :=
  match s.get F.UMB_STAT.STATE 0 with
  | 0 => 0
  | 3 => s.umb.disc
  | _ => s.umb.disc + (s.fresh % 20001 : Nat) - 10000

/-- The correction c is the sum of the temperature and ageing corrections, a free value (R204), and the discipline's; it changes by at
most 0.01 ppm in a millisecond and stays within 50 ppm (R203). A c that is held at its bound sets SLEW_LIMIT. -/
def State.correct (s : State) : State :=
  let d := s.discipline
  let s0 := { s.drew with umb := { s.umb with disc := d } }
  let c := slew (toInt 32 (s.get F.UMB_RATE.C 0)) (d + (s0.fresh % 100000001 : Nat) - 50000000)
  let k := max (-50000000) (min 50000000 c)
  let s1 := s0.drew.set F.UMB_RATE.C 0 (ofInt 32 k)
  if k ≠ c then s1.raiseC F.UMB_FAULT_STAT.SLEW_LIMIT 0 else s1

/-- XTAL_TEMP_READ (R204): every millisecond. -/
def execXtalTempRead (e : Nat) (temp : BitVec 16) (s : State) : Out :=
  let s := s.elapse e
  if (match s.umb.tempAt with | some d => s.reached (wrap64 (d + us 1000)) | none => true) then
    let s1 := { s with umb := { s.umb with tempAt := some s.now } }
    .next (s1.set F.UMB_XTAL_TEMP.TEMP 0 temp.toNat).correct
  else .next s

/-- The extended time E (R202). -/
def State.extTime (s : State) : Int := (s.get F.UMB_ERA.ERA 0 * 2 ^ 64 + s.now : Nat)

/-- UMB_AGE_INCREMENT (R204): 1,024 hours of operation after the block before, or after power-on, a fuse counts them. -/
def execUmbAgeIncrement (e : Nat) (s : State) : Out :=
  let s := s.elapse e
  let full := s.umb.agedAt + ((1024 * 3600 * second : Nat) : Int)
  if decide (s.get F.UMB_AGE.BLOCKS 0 < 128) && decide (full ≤ s.extTime) then
    .next ({ s with umb := { s.umb with agedAt := full } }.set F.UMB_AGE.BLOCKS 0 (s.get F.UMB_AGE.BLOCKS 0 + 1))
  else .next s

/-! ### Station time (R208, R209) -/

/-- Station time (R208). -/
def State.stationTime (s : State) : Int := s.extTime + toInt 64 (s.get F.UMB_TOD_OFFSET.OFFSET 0)

/-- With DISCIPLINE = PPS_IN, Umber owns the part of OFFSET below one second (R208): a free value, which in LOCKED puts the
whole second within 20 ns of the edge (R205). -/
def State.ownOffset (s : State) : State :=
  let o := toInt 64 (s.get F.UMB_TOD_OFFSET.OFFSET 0)
  let whole := o - o % (second : Int)
  let aim := (second : Int) - ((s.get F.UMB_ERA.ERA 0 * 2 ^ 64 + s.now : Nat) : Int) % (second : Int)
  let sub := if s.get F.UMB_STAT.STATE 0 = 2 then (aim + (s.fresh % 320001 : Nat) - 160000) % (second : Int)
    else ((s.fresh % second : Nat) : Int)
  let s1 := s.drew.set F.UMB_TOD_OFFSET.OFFSET 0 (ofInt 64 (whole + sub))
  s1.drew.set F.UMB_PHASE_ERR.TICKS 0 s1.fresh

/-- An edge of PPS_IN as a second mark (R205, R206): the next second is expected from it, unless it comes more than 1 ms before the
second expected now; and it counts towards lock while it falls within 50 ns of a whole second of station time. -/
def State.markSecond (s : State) : State :=
  let early := match s.umb.ppsAt with | some d => !s.reached (wrap64 (d + second - us 1000)) | none => false
  let off := (s.stationTime + 400000) % (second : Int)
  let good := if off ≤ 800000 then min 3 (s.umb.ppsGood + 1) else 0
  { s with umb := { s.umb with ppsGood := good, ppsAt := if early then s.umb.ppsAt else some s.now } }

/-- PPS_IN_EDGE (R209). -/
def execPpsInEdge (e : Nat) (s : State) : Out :=
  let s := s.elapse e
  let s1 := (s.markSecond.set F.UMB_PPS_DT.DT 0 s.now).fire 1457
  .next (if s.get F.UMB_CFG.SRC 0 = 2 then s1.ownOffset else s1)

/-- The level of PPS_OUT: high for 100 µs from its rise (R31, R209). -/
def State.ppsOut (s : State) : Bool :=
  match s.pins.ppsRise with
  | some d => decide (s.since d < us 100)
  | none => false

/-- PPS_OUT_RISE (R209): within 1 ns of a whole second, and 500 ms after the rise before. -/
def execPpsOutRise (e : Nat) (s : State) : Out :=
  let s := s.elapse e
  let whole := decide ((s.stationTime + 8000) % (second : Int) ≤ 16000)
  let apart := match s.pins.ppsRise with | some d => s.reached (wrap64 (d + us 500000)) | none => true
  if whole && apart then .next ({ s with pins := { s.pins with ppsRise := some s.now } }.fire 1456)
  else .next s

end Sys2Proof.Machine
end

