-- ==== Sys2Proof/Machine/Ports.lean ====
section
/-! DEFINITION. Lenkel ports (spec/12_links_time.md, R236–R246): bring-up, rate negotiation, replay, loss of a port, the
station time protocol and received event broadcasts. -/

namespace Sys2Proof.Machine

/-! ### Settings and rates (R54, R236, R237) -/

/-- Byte o of a port's entry in LINKS. -/
def State.portByte (s : State) (p o : Nat) : Nat := leAt s.img.links (0x20 + 8 * p + o) 1

/-- This device's number. -/
def State.devNum (s : State) : Nat := s.get F.DEV_NUMBER.NUMBER 0

/-- Is this device the time master of its station. -/
def State.timeMaster (s : State) : Bool := leAt s.img.links 1 1 == 1

/-- The bit time of a rate code in ticks. -/
def bitTime (code : Nat) : Nat := [0, 6400, 3200, 1600, 800, 500, 320, 250].getD code 0

/-- The broadcast constant K of a rate code. -/
def castK (code : Nat) : Nat := ns ([0, 508, 256, 130, 68, 44, 30, 24].getD code 0)

/-- The state of a port. -/
def State.portState (s : State) (p : Nat) : Nat := s.get F.LNK_PORT_STAT.STATE p

/-- The code that a port runs at. -/
def State.rate (s : State) (p : Nat) : Nat := s.get F.LNK_PORT_STAT.RATE p

/-- SLOW of every port that is up (R239). -/
def State.setSlow (s : State) : State :=
  s.each ((List.range 8).filter (fun p => s.portState p == 2)) (fun s p =>
    let near := match (s.port p).delta with | some d => decide (d ≤ 128000) | none => false
    s.set F.LNK_PORT_STAT.SLOW p (ofBool !(decide (6 ≤ s.rate p) && near && s.bothLocked p)))

/-! ### Blocks received (R231, R238) -/

/-- n replayable blocks from CSEQ q arrive on a port: in order they are acknowledged and act; ones that were taken before are
acknowledged again and do nothing; ones out of order are ignored. -/
def State.recv (s : State) (p q n : Nat) (f : State → State) : State :=
  let u := s.port p
  let take : State := (s.setPort p { u with ackSeq := some ((q + n - 1) % 256) }).each (List.range n)
    (fun s k => s.emit (.lnkBlock p 0x03 [(q + k) % 256]))
  match u.ackSeq with
  | none => f take
  | some a =>
    if q % 256 = (a + 1) % 256 then f take
    else if ackCovers a q then s.emit (.lnkBlock p 0x03 [a])
    else s

/-- The value nearest to a base of which a field of w bits holds the low bits v (R245). -/
def nearDT (base w v : Nat) : Nat := ofInt 64 ((base : Int) + toInt w (v + 2 ^ w - base % 2 ^ w))

/-! ### Upstream (R240, R244) -/

/-- The hop count and master of this device in a TINFO (R245). -/
def State.hopInfo (s : State) : Nat := s.get F.LNK_TIME_STAT.HOPS 0 + 32 * s.get F.LNK_TIME_STAT.MASTER 0

/-- The ports that can be this device's upstream. -/
def State.upstreams (s : State) : List Nat :=
  (List.range 8).filter (fun p => s.portState p == 2 && decide ((s.port p).hops < 31) && !(s.port p).follows)

/-- The port of the lowest hop count, on equal counts the lowest port. -/
def State.bestUpstream (s : State) : Option Nat :=
  s.upstreams.foldl (fun o p => match o with
    | none => some p
    | some b => if (s.port p).hops < (s.port b).hops then some p else some b) none

/-- No port is the upstream. -/
def State.noUpstream (s : State) : State :=
  ((s.each (List.range 8) (fun s p => s.set F.LNK_PORT_STAT.TIME_UP p 0)).set F.LNK_TIME_STAT.UP_VALID 0 0).set F.LNK_TIME_STAT.HOPS 0 31

/-- Every port that is up is told this device's hop count (R240): the TINFO goes out as the count changes (DESIGN CHOICE,
notes/assumptions/98.md). -/
def State.tellHops (s : State) : State :=
  s.each ((List.range 8).filter (fun p => s.portState p == 2)) (fun s p => s.sendBlock p 0x24 [3, s.hopInfo])

/-- A follower takes a port as its upstream; a lock it had on another one ends. -/
def State.takeUpstream (s : State) (p : Nat) : State :=
  let s1 := ((s.noUpstream.set F.LNK_PORT_STAT.TIME_UP p 1).set F.LNK_TIME_STAT.UPSTREAM 0 p).set F.LNK_TIME_STAT.UP_VALID 0 1
  let s2 := (s1.set F.LNK_TIME_STAT.STATE 0 1).setPort p { s1.port p with first := false, good := 0, ts := none, lastSync := some s1.now }
  (if s2.get F.UMB_STAT.STATE 0 == 2 then s2.umberTo 1 else s2).tellHops.setSlow

/-- A follower that loses its last upstream holds over (R244). -/
def State.timeLost (s : State) : State :=
  ((s.noUpstream.set F.LNK_TIME_STAT.STATE 0 3).holdover.raiseC F.LNK_FAULT_STAT.TIME_LOST 0).tellHops.setSlow

/-- A follower chooses its upstream (R240). -/
def State.selectUpstream (s : State) : State :=
  if s.timeMaster then s
  else match s.bestUpstream, s.upstream with
    | some p, some u => if p = u then s else s.takeUpstream p
    | some p, none => s.takeUpstream p
    | none, some _ => s.timeLost
    | none, none => s

/-! ### Bring-up (R236) -/

/-- The CAP of a port (R245). -/
def State.sendCap (s : State) (p : Nat) : State :=
  s.sendBlock p 0x10 [s.devNum, ofBool s.timeMaster, s.portByte p 1, p, leAt s.img.links 2 1 - 1, s.img.stationTag % 2 ^ 18]

/-- A port begins to negotiate from code 1 and sends CAP, or retrains directly at the code it ran before Dormant (R237). Its
first CSEQ is its own: a free value. -/
def State.train (s : State) (p : Nat) (direct : Bool) : State :=
  let code := if direct then (s.port p).wakeCode else 1
  let s1 := s.drew.setPort p { stepping := true, switchAt := s.now, direct := direct, seq := s.fresh % 256 }
  let s2 := ((s1.set F.LNK_PORT_STAT.STATE p 1).set F.LNK_PORT_STAT.RATE p code).set F.LNK_PORT_STAT.REASON p 0
  let s3 := (s2.set F.LNK_PORT_STAT.SLOW p 0).count F.LNK_PORT_TRAIN.COUNT none p 13 1
  if direct then s3 else s3.sendCap p

/-- Is the Lenkel island on with an image committed (R37, R45, R236). -/
def State.lenkelOn (s : State) : Bool :=
  s.flag F.EVF_STAT.ACTIVE 0 && (s.running || (s.dev == 6 && s.flag F.DEV_STATE.WAKING 0 && decide (6 ≤ s.pwr.coldIdx)))

/-- PORT_START (R236, R237). -/
def execPortStart (e : Nat) (p : Port) (s : State) : Out :=
  let s := s.elapse e
  let p := p.val
  if s.lenkelOn && s.portEn p && s.portState p == 0 && !(s.port p).disabled then
    .next (s.train p (decide (0 < (s.port p).wakeCode)))
  else .next s

/-- A port is refused, or does not lock: it is FAILED and retries after 100 ms (R236). -/
def State.portFailed (s : State) (p reason : Nat) : State :=
  let s1 := ((s.set F.LNK_PORT_STAT.STATE p 3).set F.LNK_PORT_STAT.RATE p 0).set F.LNK_PORT_STAT.REASON p reason
  s1.setPort p { retryAt := some (wrap64 (s.now + us 100000)) }

/-- A port is up: the time protocol and the broadcasts start afresh on it. -/
def State.portUp (s : State) (p : Nat) : State :=
  let u := s.port p
  (s.set F.LNK_PORT_STAT.STATE p 2 |>.setPort p
    { u with stepping := false, direct := false, proposed := none, switchTo := none, hops := 31, follows := false,
             sentSync := none, ts := none, first := false, good := 0, delta := none, bcast := [] }).setSlow

/-- A port with an accepted peer and no step in progress goes on: the end with the lower device number proposes the next
code, until the lower MAX_RATE is reached (R237). -/
def State.portAdvance (s : State) (p : Nat) : State :=
  let u := s.port p
  let r := s.rate p
  if s.portState p != 1 || u.stepping || !u.capOk then s
  else if min (s.portByte p 1) u.peerMax ≤ r then s.portUp p
  else if s.devNum < s.get F.LNK_PORT_STAT.PEER_DEV p then
    (s.setPort p { u with proposed := some (r + 1) }).sendBlock p 0x11 [r + 1, 0]
  else s

/-- Why a peer is refused: 0 where it is accepted (R236). -/
def State.capReason (s : State) (p dev port tag : Nat) (master : Bool) : Nat :=
  let anyPeer := s.portByte p 2 == 0xFF
  if dev = s.devNum then 1
  else if !anyPeer && (dev != s.portByte p 2 || port != s.portByte p 3) then 2
  else if tag != s.img.stationTag % 2 ^ 18 then 3
  else if master && s.timeMaster then 4
  else 0

/-- A CAP is checked (R236). -/
def State.takeCap (s : State) (p b : Nat) : State :=
  let dev := bitsOf b 0 5
  let r := s.capReason p dev (bitsOf b 9 3) (bitsOf b 17 18) (bitAt b 5)
  let s1 := (s.set F.LNK_PORT_STAT.PEER_DEV p dev).set F.LNK_PORT_STAT.PEER_PORT p (bitsOf b 9 3)
  if r = 0 then (s1.setPort p { s1.port p with capOk := true, peerMaster := bitAt b 5, peerMax := bitsOf b 6 3 }).portAdvance p
  else
    let s2 := if r = 1 then s1.raiseU 13 F.LNK_FAULT_STAT.DUP_DEV 0 else s1
    (if r = 4 then s2.raiseU 13 F.LNK_FAULT_STAT.TWO_MASTERS 0 else s2).portFailed p r

/-- CAP (R236): a CAP block with its CSEQ and body. -/
def execCap (e : Nat) (p : Port) (q : Byte) (body : BitVec 40) (s : State) : Out :=
  let s := s.elapse e
  let p := p.val
  if s.portState p == 1 && !(s.port p).direct then
    .next (s.recv p q.toNat 1 (fun s => if (s.port p).capOk then s else s.takeCap p body.toNat))
  else .next s

/-- PORT_RETRY (R236). -/
def execPortRetry (e : Nat) (p : Port) (s : State) : Out :=
  let s := s.elapse e
  let p := p.val
  .next (if s.portState p == 3 && s.due (s.port p).retryAt then s.train p false else s)

/-! ### Rate steps (R237) -/

/-- A RATE block: a proposal is answered, an answer is taken; both ends then switch. -/
def State.takeRate (s : State) (p b : Nat) : State :=
  let u := s.port p
  let code := bitsOf b 0 3
  if bitAt b 3 then
    if u.proposed == some code then s.setPort p { u with proposed := none, switchTo := some code } else s
  else if u.capOk && !u.stepping && code == s.rate p + 1 && s.get F.LNK_PORT_STAT.PEER_DEV p < s.devNum then
    (s.setPort p { u with switchTo := some code }).sendBlock p 0x11 [code, 1]
  else s

/-- RATE (R237). -/
def execRate (e : Nat) (p : Port) (q : Byte) (body : BitVec 40) (s : State) : Out :=
  let s := s.elapse e
  let p := p.val
  if s.portState p == 1 then .next (s.recv p q.toNat 1 (fun s => s.takeRate p body.toNat)) else .next s

/-- RATE_SWITCH (R237): the 16th comma after the acknowledgement. -/
def execRateSwitch (e : Nat) (p : Port) (s : State) : Out :=
  let s := s.elapse e
  let p := p.val
  let u := s.port p
  match u.switchTo with
  | some code =>
    if s.portState p == 1 then
      .next ((s.set F.LNK_PORT_STAT.RATE p code).setPort p
        { u with switchTo := none, stepping := true, stepFrom := s.rate p, switchAt := s.now })
    else .next s
  | none => .next s

/-- Has a step that began at switchAt run for 2,048 frames at its code. -/
def State.stepGood (s : State) (p : Nat) : Bool := s.reached (wrap64 ((s.port p).switchAt + 2048 * 4096 * bitTime (s.rate p)))

/-- A step succeeds, or fails: the first lock of code 1 fails the port, a direct retraining negotiates from code 1, any other
falls back to the code before it and stays there (R236, R237). -/
def State.stepEnd (s : State) (p : Nat) (ok : Bool) : State :=
  let u := s.port p
  if ok then (if u.direct then s.portUp p else (s.setPort p { u with stepping := false }).portAdvance p)
  else if u.direct then s.train p false
  else
    let s1 := s.set F.LNK_PORT_TRAIN.FAILED p (s.rate p)
    if u.stepFrom = 0 then s1.portFailed p 5 else (s1.set F.LNK_PORT_STAT.RATE p u.stepFrom).portUp p

/-- RATE_STEP_END (R237). -/
def execRateStepEnd (e : Nat) (p : Port) (ok : Bool) (s : State) : Out :=
  let s := s.elapse e
  let p := p.val
  let u := s.port p
  let due := if ok then u.direct || s.stepGood p
    else s.reached (wrap64 (u.switchAt + (if u.direct then us 20 else us 50)))
  if s.portState p == 1 && u.stepping && due then .next (s.stepEnd p ok) else .next s

/-! ### Loss of a port (R77, R238, R244) -/

/-- The sites that a lost link to a device concerns: proxies of its sites, and home sites that it has joined. -/
def State.linkSites (s : State) (dev : Nat) : List Nat :=
  (List.range 256).filter (fun x =>
    let st := s.siteState x
    !(st == 0 || st == 1 || st == 6 || st == 7) &&
      (if s.proxy x then s.get F.SMAP_SITE.HOME_DEV x == dev else bitAt (s.get F.MDR_SITE_SPAN.DEV x) dev))

/-- What hangs on a port that was up is lost: its sites fault with cause 3 and a follower chooses again (R77, R244). -/
def State.portLost (s : State) (p : Nat) : State :=
  (s.each (s.linkSites (s.get F.LNK_PORT_STAT.PEER_DEV p)) (fun s x => s.siteFault x 3)).selectUpstream

/-- A port goes down and negotiates again from code 1 (R238). -/
def State.portDown (s : State) (p : Nat) : State :=
  let s1 := (s.raiseC F.LNK_FAULT_STAT.DOWN 0).fire (1460 + p)
  (if s.portState p == 2 then (s1.train p false).portLost p else s1.train p false)

/-- PORT_DOWN (R238). -/
def execPortDown (e : Nat) (p : Port) (s : State) : Out :=
  let s := s.elapse e
  .next (if s.portState p.val == 2 then s.portDown p.val else s)

/-- The time after which an unacknowledged block of a port is sent again (R238). -/
def State.replayTime (s : State) (p : Nat) : Nat :=
  640 * bitTime (s.rate p) + (match (s.port p).delta with | some d => 2 * d + ns 16 | none => ns 200)

/-- PORT_REPLAY_TIMEOUT (R238). -/
def execPortReplayTimeout (e : Nat) (p : Port) (q : Byte) (s : State) : Out :=
  let s := s.elapse e
  let p := p.val
  let q := q.toNat
  let u := s.port p
  match resendOf u.unacked q with
  | some (n, d) =>
    if s.linkLive (.port (Fin.ofNat 8 p)) && s.reached (wrap64 (d + s.replayTime p)) then
      if n < 3 then
        .next (((s.setPort p { u with unacked := u.unacked.map (fun b => if b.1 == q then (q, n + 1, s.now) else b) }).count
          F.LNK_PORT_ERR.REPLAY none p 13 1).emit (.replay (some p) none q))
      else .next (s.portDown p)
    else .next s
  | none => .next s

/-- LNK_PORT_CMD RETRAIN. -/
def State.retrain (s : State) (p : Nat) : State :=
  if s.lenkelOn && s.portEn p then (if s.portState p == 2 then s.portDown p else s.train p false) else s

/-- LNK_PORT_CMD DISABLE: the port is off until RETRAIN. -/
def State.disablePort (s : State) (p : Nat) : State :=
  let s1 := (((s.setPort p { disabled := true }).set F.LNK_PORT_STAT.STATE p 0).set F.LNK_PORT_STAT.RATE p 0).set F.LNK_PORT_STAT.SLOW p 0
  if s.portState p == 2 then s1.portLost p else s1

/-- PORT_RETRAIN (R238). -/
def execPortRetrain (e : Nat) (p : Port) (s : State) : Out := .next ((s.elapse e).retrain p.val)

/-- PORT_DISABLE (R238). -/
def execPortDisable (e : Nat) (p : Port) (s : State) : Out := .next ((s.elapse e).disablePort p.val)

/-! ### Time exchanges (R240–R243) -/

/-- A TINFO item goes out on a port. -/
def State.sendInfo (s : State) (p item v : Nat) : State := s.sendBlock p 0x24 [item, v]

/-- TIME_EXCHANGE_START (R241): TSYNC and TFULL carry t1, the departure of the comma that opened their frame. The TINFO items
go with them (DESIGN CHOICE: the spec does not say when they are sent). -/
def execTimeExchangeStart (e : Nat) (p : Port) (t1 : Word64) (s : State) : Out :=
  let s := s.elapse e
  let p := p.val
  let period := match (s.port p).sentSync with
    | some d => s.reached (wrap64 (d + us (s.get F.LNK_TIME_CFG.PERIOD 0)))
    | none => true
  if s.portState p == 2 && s.upstream != some p && s.ownLocked && period && s.reached t1.toNat then
    let off := s.get F.UMB_TOD_OFFSET.OFFSET 0
    let s1 := ((s.setPort p { s.port p with sentSync := some s.now }).sendBlock p 0x20 [t1.toNat % 2 ^ 40]).sendBlock p 0x23
      [t1.toNat / 2 ^ 40]
    .next ((((s1.sendInfo p 0 (s.get F.UMB_ERA.ERA 0 % 2 ^ 32)).sendInfo p 1 (off % 2 ^ 32)).sendInfo p 2 (off / 2 ^ 32)).sendInfo p 3 s.hopInfo)
  else .next s

/-- TSYNC and TFULL reach the follower: t1 is taken, t2 stamped, and TREQ goes out in the frame that departed at t3. An
exchange that is still open is skipped (R241). -/
def State.takeSync (s : State) (p t1 t2 t3 : Nat) : State :=
  if s.upstream == some p then
    let u := s.port p
    let s1 := if u.ts.isSome then s.count F.LNK_PORT_ERR.SKIPPED none p 13 1 else s
    let x := (u.exch + 1) % 256
    ((s1.setPort p { u with lastSync := some s.now, exch := x, ts := some (t1, t2, t3) }).sendBlock p 0x21 [x]).sendInfo p 3 s.hopInfo
  else s

/-- TSYNC (R241): the bodies of TSYNC and TFULL, and the stamps t2 and t3. -/
def execTsync (e : Nat) (p : Port) (q : Byte) (body full : BitVec 40) (t2 t3 : Word64) (s : State) : Out :=
  let s := s.elapse e
  let p := p.val
  if s.portState p == 2 then
    .next (s.recv p q.toNat 2 (fun s => s.takeSync p (body.toNat + 2 ^ 40 * (full.toNat % 2 ^ 24)) t2.toNat t3.toNat))
  else .next s

/-- δ of a port is known; L of R246 is fixed by the first one since the port came up. -/
def State.setDelta (s : State) (p : Nat) (d : Nat) : State :=
  let u := s.port p
  let s1 := (s.setPort p { u with delta := some d }).set F.LNK_PORT_DELAY.DELTA p d
  (if u.delta.isNone then s1.set F.LNK_PORT_BCLAT.L p (d + castK (s.rate p)) else s1).setSlow

/-- A TREQ reaches the upstream, which answers with t4. The peer has chosen this device; the δ of this end, which no message
carries back, is a free value. -/
def State.takeReq (s : State) (p x t4 : Nat) : State :=
  let s1 := s.sendBlock p 0x22 [x, t4 % 2 ^ 32]
  ((s1.drew.setPort p { s1.port p with follows := true }).setDelta p (s1.fresh % 2 ^ 32)).selectUpstream

/-- TREQ (R241). -/
def execTreq (e : Nat) (p : Port) (q : Byte) (body : BitVec 40) (t4 : Word64) (s : State) : Out :=
  let s := s.elapse e
  let p := p.val
  if s.portState p == 2 then .next (s.recv p q.toNat 1 (fun s => s.takeReq p (bitsOf body.toNat 0 8) t4.toNat)) else .next s

/-- May the device adopt a time now (R242): before discipline begins, for DT steps once only and never in ACQUIRE, LOCKED or
HOLDOVER (R203). -/
def State.mayAdopt (s : State) : Bool :=
  s.get F.UMB_STAT.STATE 0 == 0 && (s.dev == 2 || s.dev == 3 || s.dev == 4 || s.dev == 7) && !s.anyActive

/-- Device time steps to another value; PPS_OUT keeps its distance from its latest rise (R209, R242). -/
def State.stepDT (s : State) (d : Nat) : State :=
  let by_ := wrap64 (d + 2 ^ 64 - s.now)
  let s1 := (s.set F.UMB_DT.DT 0 d).set F.LNK_TIME_ADOPT.STEP 0 by_
  { s1 with pins := { s1.pins with ppsRise := s1.pins.ppsRise.map (fun r => wrap64 (r + by_)) } }

/-- The device adopts its upstream's time before discipline begins (R242). -/
def State.adopt (s : State) (p t1 t2 : Nat) (delta : Int) : State :=
  let s1 := s.each (List.range 1024) (fun s c => (s.endMeas c).disarmUnit c)
  let d := ofInt 64 ((t1 : Int) + delta + dtDiff t2 s.now)
  let by_ : Int := (((s.port p).era * 2 ^ 64 + d : Nat) : Int) - (s.get F.UMB_ERA.ERA 0 * 2 ^ 64 + s.now : Nat)
  let s2 := s1.stepDT d
  let s3 := { s2 with umb := { s2.umb with agedAt := s2.umb.agedAt + by_ } }
  (s3.set F.UMB_ERA.ERA 0 (s.port p).era).set F.LNK_TIME_STAT.ADOPTED 0 1

/-- The follower begins to pull onto its upstream. -/
def State.beginPull (s : State) (p : Nat) : State :=
  let s1 := (s.setPort p { s.port p with first := true, good := 0 }).set F.LNK_TIME_STAT.STATE 0 1
  (s1.umberTo 1).set F.UMB_STAT.REF_OK 0 1

/-- An offset of a follower that has begun to pull: 16 in a row within 16 ticks lock it (R243). -/
def State.countGood (s : State) (p : Nat) (theta : Int) : State :=
  let u := s.port p
  let n := if theta.natAbs ≤ 16 then min 16 (u.good + 1) else 0
  let s1 := s.setPort p { u with good := n }
  if n = 16 && s.get F.LNK_TIME_STAT.STATE 0 != 2 then
    let s2 := ((s1.set F.LNK_TIME_STAT.STATE 0 2).set F.LNK_TIME_STAT.HOPS 0 (min 31 (u.hops + 1))).set F.LNK_TIME_STAT.MASTER 0 u.master
    ((s2.umberTo 2).set F.UMB_STAT.REF_OK 0 1).tellHops.setSlow
  else s1

/-- The follower acts on θ and δ (R241–R243). -/
def State.useOffset (s : State) (p t1 t2 : Nat) (theta delta : Int) : State :=
  let s1 := (s.set F.LNK_TIME_OFFS.THETA 0 (ofInt 64 theta)).setDelta p (ofInt 32 delta)
  if (s1.port p).first then s1.countGood p theta
  else if theta.natAbs ≤ 8000000 then (s1.beginPull p).countGood p theta
  else if s1.mayAdopt then (s1.adopt p t1 t2 delta).beginPull p
  else s1.set F.LNK_TIME_STAT.STATE 0 4

/-- TRESP reaches the follower; one of another exchange is discarded (R241). -/
def State.takeResp (s : State) (p b : Nat) : State :=
  let u := s.port p
  match u.ts with
  | some (t1, t2, t3) =>
    if s.upstream == some p && bitsOf b 0 8 == u.exch then
      let t4 := nearDT (wrap64 (t1 + t3 + 2 ^ 64 - t2 % 2 ^ 64)) 32 (bitsOf b 8 32)
      let theta := s.openDiv (dtDiff t1 t2 - dtDiff t3 t4) 2
      let delta := s.drew.openDiv (dtDiff t1 t2 + dtDiff t3 t4) 2
      (s.drew.drew.setPort p { u with ts := none }).useOffset p t1 t2 theta delta
    else s
  | none => s

/-- TRESP (R241). -/
def execTresp (e : Nat) (p : Port) (q : Byte) (body : BitVec 40) (s : State) : Out :=
  let s := s.elapse e
  let p := p.val
  if s.portState p == 2 then .next (s.recv p q.toNat 1 (fun s => s.takeResp p body.toNat)) else .next s

/-- A TINFO item (R240, R243, R245). -/
def State.takeInfo (s : State) (p b : Nat) : State :=
  let u := s.port p
  let v := bitsOf b 0 32
  let up := s.upstream == some p
  match bitsOf b 32 8 with
  | 0 => s.setPort p { u with era := v }
  | 1 => s.setPort p { u with offLow := v }
  | 2 => if up then s.set F.UMB_TOD_OFFSET.OFFSET 0 (v * 2 ^ 32 + u.offLow) else s
  | 3 =>
    let s1 := s.setPort p { u with hops := bitsOf v 0 5, master := bitsOf v 5 5 }
    let s2 := if up && s.get F.LNK_TIME_STAT.STATE 0 == 2 then
        (s1.set F.LNK_TIME_STAT.HOPS 0 (min 31 (bitsOf v 0 5 + 1))).set F.LNK_TIME_STAT.MASTER 0 (bitsOf v 5 5) else s1
    s2.selectUpstream.setSlow
  | _ => s

/-- TINFO (R240). -/
def execTinfo (e : Nat) (p : Port) (q : Byte) (body : BitVec 40) (s : State) : Out :=
  let s := s.elapse e
  let p := p.val
  if s.portState p == 2 then .next (s.recv p q.toNat 1 (fun s => s.takeInfo p body.toNat)) else .next s

/-- UPSTREAM_LOSS (R244): no TSYNC for 2 ms. -/
def execUpstreamLoss (e : Nat) (s : State) : Out :=
  let s := s.elapse e
  match s.upstream with
  | some p =>
    match (s.port p).lastSync with
    | some d =>
      if s.reached (wrap64 (d + us 2000)) then .next (s.setPort p { s.port p with hops := 31 }).selectUpstream else .next s
    | none => .next s
  | none => .next s

/-! ### Received broadcasts (R246) -/

/-- An EVBC of channel c with a firing DT arrives on a port. -/
def State.takeCast (s : State) (p c dt : Nat) : State :=
  let u := s.port p
  if Tab.get none u.bcast c = some dt then s
  else
    let s1 := s.setPort p { u with bcast := Tab.set none u.bcast c (some dt) }
    if s.portState p == 2 && s.bothLocked p && s.dev != 6 then
      let r := wrap64 (dt + s.get F.LNK_PORT_BCLAT.L p)
      if s.reached r then
        ((s1.arriveAt c s.now true).count F.LNK_PORT_DROP.LATE none p 13 1).raiseC F.LNK_FAULT_STAT.BC_LATE 0
      else s1.setEvf { s1.evf with bcast := s1.evf.bcast ++ [(c, r)] }
    else s1.count F.LNK_PORT_DROP.DROP none p 13 1

/-- EVBC (R246). -/
def execEvbc (e : Nat) (p : Port) (body : BitVec 40) (s : State) : Out :=
  let s := s.elapse e
  let b := body.toNat
  .next (s.takeCast p.val (bitsOf b 0 8) (nearDT s.now 32 (bitsOf b 8 32)))

end Sys2Proof.Machine
end

