-- ==== Sys2Proof/Machine/SafeState.lean ====
section
/-! DEFINITION. Safe state (spec/18_faults_safe_state.md, R363–R368, R372): its pin, its forced cause, leaving it, and the resets
that Cinnabar carries out for PF1. -/

namespace Sys2Proof.Machine

/-- 1 µs after SAFE_IN_n rose its cause bit clears (R368). -/
def State.safeInSettle (s : State) : State :=
  if s.safeInLong then
    let s1 := { s with pins := { s.pins with safeInRise := none } }
    s1.set F.CIN_CAUSE.CAUSE 0 (clearBit (s.get F.CIN_CAUSE.CAUSE 0) 0)
  else s

/-- SAFE_IN_N_FALL (R363): SAFE_IN_n falls and stays low 5 ns or more; a shorter low may or may not enter safe state. -/
def execSafeInNFall (e : Nat) (long : Bool) (s : State) : Out :=
  let s := s.elapse e
  if !s.pwr.vauxGood then .next { s with pins := { s.pins with safeInHigh := !long } }
  else if long then
    let s1 := { s with pins := { s.pins with safeInHigh := false, safeInRise := none } }
    .next ((s1.set F.CIN_STAT.SAFE_IN 0 1).enterSafe 1)
  else if s.pins.safeInHigh then
    let s1 := { s.drew with pins := { s.pins with safeInRise := some s.now } }
    .next (if s.fresh % 2 = 1 then s1.enterSafe 1 else s1)
  else .next s

/-- SAFE_IN_N_RISE (R368): SAFE_IN_n rises; 1 µs later its cause bit clears. -/
def execSafeInNRise (e : Nat) (s : State) : Out :=
  let s := s.elapse e
  if s.pins.safeInHigh then .next s.safeInSettle
  else .next (({ s with pins := { s.pins with safeInHigh := true, safeInRise := some s.now } }).set F.CIN_STAT.SAFE_IN 0 0)

/-- A write to CIN_FORCE (R363). -/
def State.writeForce (s : State) (v : Nat) : State :=
  let s1 := s.set F.CIN_FORCE.FORCE 0 (v % 2)
  if v % 2 = 1 then s1.enterSafe 2 else s1.set F.CIN_CAUSE.CAUSE 0 (clearBit (s.get F.CIN_CAUSE.CAUSE 0) 1)

/-- CIN_FORCE_WRITE (R363). -/
def execCinForceWrite (e : Nat) (v : Word32) (s : State) : Out :=
  let s := s.elapse e
  .next (if s.reaches .pf1 .CIN_FORCE then s.writeForce v.toNat else s)

/-- May safe state be left (R368). -/
def State.exitOk (s : State) : Bool :=
  s.isSafe && !s.flag F.CIN_STAT.EXIT_PEND 0 && s.safeInLong && !s.flag F.CIN_FORCE.FORCE 0 && s.get F.CIN_CAUSE.CAUSE 0 == 0

/-- A write to CIN_EXIT (R368): ignored without its key or EXIT, accepted for a release instant 120 ns later, or refused. -/
def State.exitCmd (s : State) (v : Nat) : State :=
  if bitsOf v 8 8 != 0xA7 || !bitAt v 0 then s
  else
    let s1 := s.safeInSettle
    if s1.exitOk then
      let s2 := s1.set F.CIN_STAT.EXIT_PEND 0 1
      { s2 with safe := { s2.safe with exitAt := some (wrap64 (s.now + ns 120)) } }
    else s.refuseExit

/-- CIN_EXIT (R368). -/
def execCinExit (e : Nat) (v : Word32) (s : State) : Out :=
  let s := s.elapse e
  .next (if s.reaches .pf1 .CIN_EXIT then s.exitCmd v.toNat else s)

/-- The channels of a slice whose site is at rest take their idle level at an instant (R126). -/
def State.restSlice (s : State) (i t : Nat) : State :=
  let st := s.siteState (s.sliceSite i)
  if s.sliceValid i && (st == 1 || st == 6) then s.each (s.sliceChans i) (fun s c => s.setLevel c (s.idleLevel c) t) else s

/-- Safe state ends at release instant d (R368). -/
def State.exitAt (s : State) (d : Nat) : State :=
  let s1 := ((s.set F.CIN_STAT.SAFE 0 0).set F.DEV_STATE.SAFE 0 0).set F.CIN_STAT.EXIT_PEND 0 0
  let s2 := { s1.set F.CIN_EXIT_DT.DT 0 d with
    safe := { s1.safe with exitAt := none }, pins := { s1.pins with safeOutLow := false } }
  let s3 := s2.each (List.range 256) (fun s i => s.restSlice i d)
  (s3.each (List.range 16) (fun s n => s.showTrig n)).fire 1459

/-- EXIT_RELEASE (R368). -/
def execExitRelease (e : Nat) (s : State) : Out :=
  let s := s.elapse e
  match s.safe.exitAt with
  | some d => .next (if s.reached d then s.exitAt d else s)
  | none => .next s

/-- A write to CIN_TILE_RESET (R372). -/
def State.tileCmd (s : State) (v : Nat) : State :=
  if bitsOf v 8 8 != 0xA7 then s
  else
    let l := (List.range 8).filter (fun t => bitAt v t)
    if l.any (fun t => (s.tileSites t).any (fun x => s.active x)) then s.set F.CIN_TILE_RESET.RESULT 0 2
    else (s.each l (fun s t => s.tileReset t)).set F.CIN_TILE_RESET.RESULT 0 1

/-- CIN_TILE_RESET (R372). -/
def execCinTileReset (e : Nat) (v : Word32) (s : State) : Out :=
  let s := s.elapse e
  .next (if s.reaches .pf1 .CIN_TILE_RESET then s.tileCmd v.toNat else s)

/-- A write to CIN_CORE_RESET (R372). -/
def State.coreCmd (s : State) (v : Nat) : State :=
  if bitsOf v 16 8 != 0xA7 then s
  else s.each ((List.range 16).filter (fun c => bitAt v c)) (fun s c => s.safCoreReset c)

/-- CIN_CORE_RESET (R372). -/
def execCinCoreReset (e : Nat) (v : Word32) (s : State) : Out :=
  let s := s.elapse e
  .next (if s.reaches .pf1 .CIN_CORE_RESET then s.coreCmd v.toNat else s)

end Sys2Proof.Machine
end

