-- ==== Sys2Proof/Machine/RegAccess.lean ====
section
/-! DEFINITION. Register accesses (spec/00_scope.md, R6–R8; spec/17_host_interface.md, R338–R342): an address to its register, reads
and writes by access code, the shadows of 64-bit registers, and the registers that act on a write. -/

namespace Sys2Proof.Machine

/-! ### Addresses (R338–R341) -/

/-- The bit after the last field of a register. -/
def Reg.lim (r : Reg) : Nat := r.fields.foldl (fun m f => max m (f.lo + f.w)) 0

/-- The bytes of a register: 4, or a multiple of 8. -/
def Reg.bytes (r : Reg) : Nat := if r.lim ≤ 32 then 4 else 8 * ((r.lim + 63) / 64)

/-- The index and the byte within a register of an address that a row of the map holds. -/
def MapRow.locate (m : MapRow) (off : Nat) : Option (Nat × Nat) :=
  if off < m.base then none
  else
    let p := m.dims.foldl (fun (o : Option (Nat × Nat)) d => match o with
      | some (i, n) => if n / d.2 < d.1 then some (i * d.1 + n / d.2, n % d.2) else none
      | none => none) (some (0, off - m.base))
    match p with
    | some (i, n) => if n < m.reg.bytes then some (m.first + i, n) else none
    | none => none

/-- The register at an address of a function's BAR0, its index, and the byte in it. -/
def findReg (f : Func) (off : Nat) : Option (Reg × Nat × Nat) :=
  mapRows.findSome? (fun m => if m.func = f then (m.locate off).map (fun p => (m.reg, p.1, p.2)) else none)

/-- Where an agent's address leads: PF0 and the service cores see BAR0 of PF0, PF1 its own and, through its register window, that of
PF0 (R339, R340). -/
def State.leadsTo (s : State) (a : Agent) (off : Nat) : Option (Func × Nat) :=
  match a with
  | .pf0 => some (.pf0, off)
  | .core _ => some (.pf0, off)
  | .pf1 =>
    if 0x80000 ≤ off && off < 0xC0000 then some (.pf0, s.get F.PCI_RWIN.BASE 0 * 262144 + (off - 0x80000))
    else if off < 0x100000 then some (.pf1, off)
    else none
  | .loader => none

/-- A word that an access reaches: the register, its index, the byte in it, and the address that tags its 64-bit word in shadows. -/
structure RegHit where
  reg : Reg
  idx : Nat
  k : Nat
  tag : Nat

/-- Is the tile of an address of the tile windows reached through its link (R235), VTILE not holding it (R36). -/
def State.windowUp (s : State) (f : Func) (off : Nat) : Bool :=
  f == .pf1 || off < 0x200000 || 0xA00000 ≤ off || (s.tileUp ((off - 0x200000) / 0x100000) && !s.railHeld 2)

/-- The word that an agent's access at an address reaches, if any. -/
def State.hit (s : State) (a : Agent) (off : Nat) : Option RegHit :=
  match s.leadsTo a off with
  | some (f, o) =>
    match findReg f o with
    | some (r, i, k) =>
      if s.reaches a r && s.windowUp f o then some ⟨r, i, k, o - k % 8 + (match f with | .pf0 => 0 | .pf1 => 2 ^ 26)⟩ else none
    | none => none
  | none => none

/-- Is a size, with its address, one that BAR0 accepts (R341). -/
def sizeOk (off n : Nat) : Bool := (n == 4 && off % 4 == 0) || (n == 8 && off % 8 == 0)

/-- An access of a size that BAR0 does not accept (R341). -/
def State.badSize (s : State) (a : Agent) : State :=
  if (a == .pf0 || a == .pf1) && s.reaches a .DEV_ID then s.raiseC F.PCI_FAULT_STAT.BAD_SIZE 0 else s

/-! ### Reads (R7, R342) -/

/-- Is a trim window declared that has not opened: TRIMOK and MDR_STEP_TRIM show it from its open DT on (R166). -/
def State.trimAhead (s : State) (x : Nat) : Bool := s.flag F.MDR_SITE_STATE.TRIMOK x && !s.reached (s.site x).trimOpen

/-- BUS_CNT with the beacons of a PLCA engine, which no command brings: how many have come since the last read is a free value (R257). -/
def State.beaconCount (s : State) (i : Nat) : Nat :=
  let n := s.rcVal F.BUS_CNT.COUNT i
  let m := if i % 8 = 5 && s.plcaOn (i / 8) then n + s.fresh % 2 ^ 32 else n
  if m < 2 ^ 32 then m + 2 ^ 32 * s.rcVal F.BUS_CNT.OVF i else 2 ^ 33 - 1

/-- The fields of a register as a read finds them: WO fields read 0. -/
def State.plainVal (s : State) (r : Reg) (i : Nat) : Nat :=
  r.fields.foldl (fun v f => match f.acc with
    | .wo => v
    | .rc => v + s.rcVal f i * 2 ^ f.lo
    | _ => v + s.get f i * 2 ^ f.lo) 0

/-- The value that a read of a register finds: WO fields read 0; the selected flow of Saffron and the lines of the interrupt
controller are looked at as they are now. -/
def State.readVal (s : State) (r : Reg) (i : Nat) : Nat :=
  match r with
  | .SAF_FLOW_STAT =>
    let f := s.get F.SAF_FLOW_SEL.FLOW 0
    (s.saf.items.filter (fun j => flowOf j.w == f)).length + 128 * ofBool (s.saf.busy f) + 256 * s.flowLevel f +
      65536 * Tab.get 0 s.saf.refused f
  | .IRC_LINE => (List.range 32).foldl (fun v b => v + ofBool (s.lineLevel (32 * i + b)) * 2 ^ b) 0
  | .PWR_SLEEP_CLR => s.get F.PWR_SLEEP_SET.SITE i
  | .PWR_GROUP_STATE => (List.range 8).foldl (fun v g => v + s.groupShown (8 * i + g) * 2 ^ (3 * g)) 0
  | .PWR_STAT => s.regVal .PWR_STAT i + (if s.get F.PWR_STAT.PHASE i = 0 && !s.ladderIdle then 5 else 0)
  | .WOD_CH_STAT => s.regVal .WOD_CH_STAT i + (s.driveRow i).2 + 4 * (s.driveRow i).1
  | .MDR_SITE_STATE => s.regVal .MDR_SITE_STATE i - (if s.trimAhead i then 256 else 0)
  | .BUS_STAT => s.regVal .BUS_STAT i + (if s.plcaOn i then 2 ^ 14 * (s.fresh % 2) else 0)
  | .BUS_CNT => s.beaconCount i
  | .DMC_SC => s.plainVal .DMC_SC i + (if i < 3 then s.fresh % 65536 else 0)
  | .DMC_CH_STAT => s.plainVal .DMC_CH_STAT i +
      (if s.flag F.DMC_CH_STAT.PRESENT i then 16 * (s.fresh % 2) + 2 ^ 32 * (s.drew.fresh % 2 ^ 32) else 0)
  | .CIN_CAUSE => if s.safeInLong then clearBit (s.get F.CIN_CAUSE.CAUSE 0) 0 else s.get F.CIN_CAUSE.CAUSE 0
  | .MDR_STEP_TRIM => if s.trimAhead i then 0 else s.get F.MDR_STEP_TRIM.DT i
  | _ => s.plainVal r i

/-- The RC fields of 64-bit word c of a register return to their reset values (R7). -/
def State.clearRC (s : State) (r : Reg) (i c : Nat) : State :=
  (r.fields.filter (fun f => f.acc == .rc && f.lo / 64 == c)).foldl (fun s f => s.rcClear f i) s

/-- A read of the high word of a 64-bit register: the agent's read shadow where its tag matches, the live word otherwise. -/
def State.readHigh (s : State) (a : Agent) (h : RegHit) : State :=
  match (Tab.get {} s.shadows a.num).rd with
  | some (t, v) => if t = h.tag then { s with readData := v } else { s with readData := bitsOf (s.readVal h.reg h.idx) (8 * h.k) 32 }
  | none => { s with readData := bitsOf (s.readVal h.reg h.idx) (8 * h.k) 32 }

/-- A read draws the free values that it shows: the level of a bus engine's output, the PLCA status and the beacons received, the latencies of
DRAM requests that no command carries, the refresh rate and the refreshes of a channel. -/
def State.readDraws (s : State) (r : Reg) : State :=
  match r with
  | .WOD_CH_STAT => s.drew
  | .BUS_STAT => s.drew
  | .BUS_CNT => s.drew
  | .DMC_SC => s.drew
  | .DMC_CH_STAT => s.drew.drew
  | _ => s

/-- A 4-byte read of a word. -/
def State.readHit (s : State) (a : Agent) (h : RegHit) : State :=
  match h.reg with
  | .IRC_CLAIM =>
    if slotOpen a h.idx then
      match s.bestSource h.idx with
      | some n => { s.claim h.idx n with readData := n }
      | none => { s with readData := 0 }
    else { s with readData := 0 }
  | .MBX_LOCK => s.lockRead a h.idx
  | r =>
    let v := s.readVal r h.idx
    if r.bytes = 4 then { (s.readDraws r).clearRC r h.idx 0 with readData := v }
    else if h.k % 8 = 4 then (s.readHigh a h).readDraws r
    else if r = .UMB_DT then s.readDt a
    else (((s.readDraws r).latchHigh a h.tag (bitsOf v (8 * h.k) 64)).clearRC r h.idx (h.k / 8))

/-- A 4-byte read at an address: 0 where no register is reached (R8). -/
def State.read4 (s : State) (a : Agent) (off : Nat) : State :=
  match s.hit a off with
  | some h => s.readHit a h
  | none => { s with readData := 0 }

/-- Two reads of 4 bytes, as one of 8. -/
def State.readPair (s : State) (a : Agent) (off : Nat) : State :=
  let s1 := s.read4 a off
  let s2 := s1.read4 a (off + 4)
  { s2 with readData := s1.readData + 2 ^ 32 * s2.readData }

/-- An aligned read of 8 bytes: both halves of a 64-bit register at once, or two registers (R342). -/
def State.read8 (s : State) (a : Agent) (off : Nat) : State :=
  match s.hit a off with
  | some h =>
    if h.reg.bytes = 4 then s.readPair a off
    else
      let v := bitsOf (s.readVal h.reg h.idx) (8 * h.k) 64
      let s1 := if h.reg = .UMB_DT then s.set F.UMB_ERA_LATCH.ERA 0 (s.get F.UMB_ERA.ERA 0) else (s.readDraws h.reg).clearRC h.reg h.idx (h.k / 8)
      { s1 with readData := v }
  | none => s.readPair a off

/-- A read of n bytes at an address. -/
def State.regRead (s : State) (a : Agent) (off n : Nat) : State :=
  if !sizeOk off n then { s.badSize a with readData := 0 }
  else if n = 4 then s.read4 a off
  else s.read8 a off

/-- RC_REGISTER_READ (R7, R342): a read of a register by an agent. -/
def execRcRegisterRead (e : Nat) (a : Agent) (off : Fin 67108864) (n : Fin 9) (s : State) : Out :=
  .next ((s.elapse e).regRead a off.val n.val)

/-- REG64_LOW_READ (R342): a read of the low word of a 64-bit register. -/
def execReg64LowRead (e : Nat) (a : Agent) (off : Fin 67108864) (s : State) : Out :=
  .next ((s.elapse e).regRead a off.val 4)

/-! ### Writes (R7) -/

/-- What a write leaves of a field; a bit of a W1C field that the hardware has set at the same DT stays set (R7). `full` is the written value with what was not written kept, `v` the written bits alone. -/
def State.writeFld (s : State) (f : Fld) (i full v : Nat) : State :=
  match f.acc with
  | .rw => s.put f i (f.part full)
  | .w1c =>
    let kept := match noteAt s.tick f.id i with | some n => n.amt | none => 0
    let c := s.get f i &&& f.part v
    s.put f i (s.get f i ^^^ (c ^^^ (c &&& kept)))
  | .w1s => s.put f i (s.get f i ||| f.part v)
  | _ => s

/-- A write to a register acts on each of its fields by its access code. -/
def State.writePlain (s : State) (r : Reg) (i full v : Nat) : State := r.fields.foldl (fun s f => s.writeFld f i full v) s

/-- A write that only some states of its site take; others ignore it. -/
def State.writeIf (s : State) (ok : Bool) (l : List (Fld × Nat × Nat)) : State :=
  if ok then l.foldl (fun s p => s.set p.1 p.2.1 p.2.2) s else s

/-- A configuration write of an acquisition unit: taken, or refused with CFG_REJ. -/
def State.acqWrite (s : State) (c : Nat) (ok : Bool) (l : List (Fld × Nat × Nat)) : State :=
  if s.acqSettable c && ok then s.writeIf true l else s.set F.SEP_ACQ_CH_STAT.CFG_REJ c 1

/-- Is a limit of PARAM0 or PARAM1 in range. -/
def limitOk (v : Nat) : Bool := decide (400 ≤ bitsOf v 0 40)

/-- Is a value of a sequence state valid. -/
def seqOk (v : Nat) : Bool :=
  bitsOf v 0 3 != 7 && bitsOf v 3 2 != 3 && decide (bitsOf v 32 4 ≤ 8) && decide (bitsOf v 36 4 ≤ 8) && decide (bitsOf v 40 4 ≤ 8)

/-- Is a value of a sequence timer valid: TMAX 0, or at least TMIN. -/
def timerOk (v : Nat) : Bool := bitsOf v 32 32 == 0 || decide (bitsOf v 0 32 ≤ bitsOf v 32 32)

/-- A write to the registers of an acquisition unit or of its site's ring. -/
def State.writeAcq (s : State) (r : Reg) (i v : Nat) : State :=
  match r with
  | .SEP_ACQ_CH_CFG => s.writeAcqCfg i v
  | .SEP_ACQ_CH_AUTO => s.acqWrite i true [(F.SEP_ACQ_CH_AUTO.US, i, bitsOf v 0 32)]
  | .SEP_ACQ_CH_ARMEV => s.acqWrite i true [(F.SEP_ACQ_CH_ARMEV.ARM_EVCH, i, bitsOf v 0 8), (F.SEP_ACQ_CH_ARMEV.ARM_EN, i, bitsOf v 8 1),
      (F.SEP_ACQ_CH_ARMEV.DIS_EVCH, i, bitsOf v 16 8), (F.SEP_ACQ_CH_ARMEV.DIS_EN, i, bitsOf v 24 1)]
  | .SEP_ACQ_CH_PARAM0 =>
    s.acqWrite i (limitOk v && typeOk (s.get F.SEP_ACQ_CH_CFG.TYPE i) (bitsOf v 43 2) (bitsOf v 40 3))
      [(F.SEP_ACQ_CH_PARAM0.LIMIT, i, bitsOf v 0 40), (F.SEP_ACQ_CH_PARAM0.RELATION, i, bitsOf v 40 3),
       (F.SEP_ACQ_CH_PARAM0.EDGE, i, bitsOf v 43 2)]
  | .SEP_ACQ_CH_PARAM1 => s.acqWrite i (limitOk v) [(F.SEP_ACQ_CH_PARAM1.LIMIT, i, bitsOf v 0 40)]
  | .SEP_ACQ_CH_SEQ => s.acqWrite (i / 8) (seqOk v) [(F.SEP_ACQ_CH_SEQ.COND, i, bitsOf v 0 3), (F.SEP_ACQ_CH_SEQ.CSTATE, i, bitsOf v 3 2),
      (F.SEP_ACQ_CH_SEQ.EVCH, i, bitsOf v 8 8), (F.SEP_ACQ_CH_SEQ.COUNT, i, bitsOf v 16 16), (F.SEP_ACQ_CH_SEQ.ON_MATCH, i, bitsOf v 32 4),
      (F.SEP_ACQ_CH_SEQ.ON_EARLY, i, bitsOf v 36 4), (F.SEP_ACQ_CH_SEQ.ON_TMO, i, bitsOf v 40 4)]
  | .SEP_ACQ_CH_TIMER => s.acqWrite (i / 8) (timerOk v) [(F.SEP_ACQ_CH_TIMER.TMIN, i, bitsOf v 0 32), (F.SEP_ACQ_CH_TIMER.TMAX, i, bitsOf v 32 32)]
  | .SEP_ACQ_CH_CMD => s.acqCmd i v
  | .SEP_ACQ_RING_BASE => s.writeIf (s.settable i) [(F.SEP_ACQ_RING_BASE.ADDR, i, bitsOf v 0 40)]
  | .SEP_ACQ_RING_CFG => s.writeIf (s.settable i && log2Ok (bitsOf v 1 5)) [(F.SEP_ACQ_RING_CFG.MEM, i, bitsOf v 0 1),
      (F.SEP_ACQ_RING_CFG.LOG2, i, bitsOf v 1 5), (F.SEP_ACQ_RING_CFG.EN, i, bitsOf v 6 1)]
  | _ => s.writeAcqRd i (bitsOf v 0 32)

/-- A write to the registers of a measurement unit. -/
def State.writeTia (s : State) (r : Reg) (i v : Nat) : State :=
  match r with
  | .TIA_CH_CFG => s.writeTiaCfg i v
  | .TIA_CH_N => s.measWrite i (decide (bitsOf v 0 25 ≤ 16777216)) [(F.TIA_CH_N.N, bitsOf v 0 25)]
  | .TIA_CH_WMIN => s.measWrite i true [(F.TIA_CH_WMIN.TICKS, bitsOf v 0 40)]
  | .TIA_CH_WMAX => s.measWrite i true [(F.TIA_CH_WMAX.TICKS, bitsOf v 0 40)]
  | .TIA_CH_GATE => s.measWrite i (decide (1 ≤ bitsOf v 0 24) && decide (bitsOf v 0 24 ≤ 10000000)) [(F.TIA_CH_GATE.US, bitsOf v 0 24)]
  | .TIA_CH_PARTNER => s.measWrite i true [(F.TIA_CH_PARTNER.CH, bitsOf v 0 10), (F.TIA_CH_PARTNER.DEV, bitsOf v 16 5)]
  | _ => s.tiaCmd i v

/-- A write to the capture settings of a site: taken while it is IDLE, DONE or FAULTED. -/
def State.writeCap (s : State) (r : Reg) (i v : Nat) : State :=
  match r with
  | .SEP_CAP_POLICY => s.writeIf (s.settable i) [(F.SEP_CAP_POLICY.STOP, i, bitsOf v 0 2), (F.SEP_CAP_POLICY.LOG_EN, i, bitsOf v 2 1)]
  | .SEP_CAP_LIMIT => s.writeIf (s.settable i) [(F.SEP_CAP_LIMIT.VALUE, i, bitsOf v 0 32)]
  | .SEP_CAP_LOGMAX => s.writeIf (s.settable i) [(F.SEP_CAP_LOGMAX.VALUE, i, bitsOf v 0 32)]
  | .SEP_CAP_RING_BASE => s.writeIf (s.settable i) [(F.SEP_CAP_RING_BASE.ADDR, i, bitsOf v 0 40)]
  | .SEP_CAP_RING_CFG => s.writeIf (s.settable i && decide (6 ≤ bitsOf v 1 5) && decide (bitsOf v 1 5 ≤ 24))
      [(F.SEP_CAP_RING_CFG.MEM, i, bitsOf v 0 1), (F.SEP_CAP_RING_CFG.LOG2, i, bitsOf v 1 5), (F.SEP_CAP_RING_CFG.EN, i, bitsOf v 6 1)]
  | _ => s.writeCapRd i (bitsOf v 0 32)

/-- A write of a ring's read position is taken unless it lies beyond the write position. -/
def State.writeRd (s : State) (rd wr : Fld) (i v : Nat) : State := if rdOk (s.get rd i) (s.get wr i) v then s.set rd i v else s

/-- A write to the registers of a bus engine (R249, spec/13_bus_engines.md). -/
def State.writeBus (s : State) (r : Reg) (i v : Nat) : State :=
  match r with
  | .BUS_CTRL => s.writeBusCtrl i v
  | .BUS_TX_POST => s.hostPost i v
  | .BUS_GATE => s.busWrite i true [(F.BUS_GATE.EVCH, i, bitsOf v 0 8), (F.BUS_GATE.EN, i, bitsOf v 8 1)]
  | .BUS_EV_CFG => s.busWrite i true [(F.BUS_EV_CFG.SRC, i, bitsOf v 0 3), (F.BUS_EV_CFG.FILT, i, bitsOf v 8 5)]
  | .BUS_RX_BASE => s.busWrite i true [(F.BUS_RX_BASE.ADDR, i, bitsOf v 0 40)]
  | .BUS_SR_BASE => s.busWrite i true [(F.BUS_SR_BASE.ADDR, i, bitsOf v 0 40)]
  | .BUS_RX_CFG => s.busWrite i (log2Ok (bitsOf v 1 5)) [(F.BUS_RX_CFG.MEM, i, bitsOf v 0 1), (F.BUS_RX_CFG.LOG2, i, bitsOf v 1 5),
      (F.BUS_RX_CFG.EN, i, bitsOf v 6 1)]
  | .BUS_SR_CFG => s.busWrite i (log2Ok (bitsOf v 1 5) && decide (bitsOf v 16 12 ≤ 2048)) [(F.BUS_SR_CFG.MEM, i, bitsOf v 0 1),
      (F.BUS_SR_CFG.LOG2, i, bitsOf v 1 5), (F.BUS_SR_CFG.EN, i, bitsOf v 6 1), (F.BUS_SR_CFG.ERRORS, i, bitsOf v 7 1),
      (F.BUS_SR_CFG.MAXLEN, i, bitsOf v 16 12)]
  | .BUS_FILT_VAL => s.busWrite (i / 32) true [(F.BUS_FILT_VAL.KEY, i, bitsOf v 0 62), (F.BUS_FILT_VAL.REJECT, i, bitsOf v 62 1),
      (F.BUS_FILT_VAL.EN, i, bitsOf v 63 1)]
  | .BUS_FILT_MSK => s.busWrite (i / 32) true [(F.BUS_FILT_MSK.KEY, i, bitsOf v 0 62)]
  | .BUS_RX_RD => s.writeRd F.BUS_RX_RD.POS F.BUS_RX_WR.POS i (bitsOf v 0 32)
  | .BUS_SR_RD => s.writeRd F.BUS_SR_RD.POS F.BUS_SR_WR.POS i (bitsOf v 0 32)
  | _ => s.mdioCmd i v

/-- A write to the settings of a result ring (R345). -/
def State.writeRes (s : State) (r : Reg) (i v : Nat) : State :=
  let off := s.get F.HRG_RES_CFG.EN i == 0
  match r with
  | .HRG_RES_BASE => s.writeIf off [(F.HRG_RES_BASE.ADDR, i, bitsOf v 0 40)]
  | .HRG_RES_CFG =>
    if !log2Ok (bitsOf v 1 5) then s
    else (s.writeIf off [(F.HRG_RES_CFG.LOG2, i, bitsOf v 1 5)]).writeIf true [(F.HRG_RES_CFG.MEM, i, bitsOf v 0 1),
      (F.HRG_RES_CFG.EN, i, bitsOf v 6 1), (F.HRG_RES_CFG.THRESH, i, bitsOf v 16 16)]
  | _ => s.writeResRd i (bitsOf v 0 32)

/-- A write to a host ring register of the command and management rings (R345, R346). -/
def State.writeRing (s : State) (r : Reg) (i v : Nat) : State :=
  match r with
  | .HRG_CMD_BASE => s.writeRingBase i (bitsOf v 0 40)
  | .HRG_CMD_CFG => s.writeRingCfg i v
  | .HRG_CMD_TAIL => s.writeTail i v
  | .HRG_CMD_SEEN => s.writeSeen i v
  | .HRG_MGT_BASE => s.writeRingBase (256 + i) (bitsOf v 0 40)
  | .HRG_MGT_CFG => s.writeRingCfg (256 + i) v
  | .HRG_MGT_TAIL => s.writeTail (256 + i) v
  | _ => s.writeSeen (256 + i) v

/-- A write to MDR_SITE_CMD (R68): an OP that is none of 1 to 4 is refused with result 2. -/
def State.writeSiteCmd (s : State) (x v : Nat) : State :=
  s.siteCmd x (fun s => match v % 16 with
    | 1 => s.armSite x (bitsOf v 16 16)
    | 2 => s.abortSite x
    | 3 => s.ackSite x
    | 4 => s.resetSite x
    | _ => s.answer x 2)

/-- A write to a register that acts on it (R7: WO fields, and fields whose table restricts their writes); none for a register whose
fields just take what is written. -/
def State.writeActs (s : State) (a : Agent) (r : Reg) (i full v : Nat) : Option State :=
  match r with
  | .PWR_CTRL => some (let s1 := if bitAt v 0 then s.dormant else s; if bitAt v 1 then s1.wake else s1)
  | .PWR_SLEEP_SET => some (s.sleepSet i v)
  | .PWR_SLEEP_CLR => some (s.sleepClr i v)
  | .CFG_RELOAD => some (s.reload v)
  | .CFG_FUSE_CMD => some (s.fuseCmd v)
  | .CFG_KEYHASH_IN => some { s with ldr := { s.ldr with keyHashIn := Tab.set 0 s.ldr.keyHashIn i v } }
  | .MDR_SITE_CMD => some (s.writeSiteCmd i v)
  | .SLP_JUMP_CFG => some (s.writeJumpCfg i v)
  | .SLP_LOOPPRE => some (s.writeLooppre (i / 4) (i % 4) v)
  | .SLP_MATCH_TMO => some (s.writeMatchTmo i v)
  | .WOD_WF_CMD => some (s.wfCmd i v)
  | .WOD_WF_SEL => some (if s.get F.WOD_WF_RES.RESULT i = 1 then s else s.writePlain r i full v)
  | .WOD_WF_DATA => some (if s.get F.WOD_WF_RES.RESULT (i / 3) = 1 then s else s.writePlain r i full v)
  | .WOD_SLICE_TS => some (s.writeSliceTs i v)
  | .WOD_PERIOD => some (s.writePeriod (i / 64) (i % 64) full)
  | .WOD_CH_CFG => some (s.writeChCfg i v)
  | .SEP_CMP_CH_CFG => some (s.writeCmp i .cfg v)
  | .SEP_CMP_CH_MASK => some (s.writeMask i v)
  | .SEP_CMP_CH_VTH => some (s.writeCmp i .vth v)
  | .SEP_CMP_CH_VTT => some (s.writeCmp i .vtt v)
  | .SEP_CAP_POLICY | .SEP_CAP_LIMIT | .SEP_CAP_LOGMAX | .SEP_CAP_RING_BASE | .SEP_CAP_RING_CFG | .SEP_CAP_RING_RD =>
    some (s.writeCap r i full)
  | .MDR_STEP_TRAP => some (if s.settable i then s.writePlain r i full v else s)
  | .MDR_STEP_WMASK => some (if s.settable (i / 64) then s.writePlain r i full v else s)
  | .MDR_STEP_SYNC_MEM => some (s.writeSyncMem (i / 8) (i % 8) v)
  | .SEP_ACQ_CH_CFG | .SEP_ACQ_CH_AUTO | .SEP_ACQ_CH_ARMEV | .SEP_ACQ_CH_PARAM0 | .SEP_ACQ_CH_PARAM1 | .SEP_ACQ_CH_SEQ
  | .SEP_ACQ_CH_TIMER | .SEP_ACQ_CH_CMD | .SEP_ACQ_RING_BASE | .SEP_ACQ_RING_CFG | .SEP_ACQ_RING_RD => some (s.writeAcq r i full)
  | .TIA_CH_CFG | .TIA_CH_N | .TIA_CH_WMIN | .TIA_CH_WMAX | .TIA_CH_GATE | .TIA_CH_PARTNER | .TIA_CH_CMD => some (s.writeTia r i full)
  | .MRD_REFL_CMD => some (if bitAt v 0 then s.requestRefl i else s)
  | .MRD_REFL_CFG => some (s.writeReflCfg i full)
  | .LNK_TIME_CFG => some (if decide (100 ≤ bitsOf v 0 10) && decide (bitsOf v 0 10 ≤ 1000) then s.set F.LNK_TIME_CFG.PERIOD 0 (bitsOf v 0 10) else s)
  | .LNK_PORT_CMD => some (if bitAt v 1 then s.disablePort i else if bitAt v 0 then s.retrain i else s)
  | .BUS_CTRL | .BUS_TX_POST | .BUS_GATE | .BUS_EV_CFG | .BUS_RX_BASE | .BUS_SR_BASE | .BUS_RX_CFG | .BUS_SR_CFG | .BUS_FILT_VAL
  | .BUS_FILT_MSK | .BUS_RX_RD | .BUS_SR_RD | .BUS_MDIO_CMD => some (s.writeBus r i full)
  | .SVC_PLAN_CMD => some (s.writePlanCmd i (bitsOf v 0 2))
  | .EVF_SWFIRE => some (s.swFire v)
  | .EVF_TIMER_CFG => some (s.writeTimer i full)
  | .IRC_MASK => some (s.writeIrcMask i v)
  | .IRC_COMPLETE => some (s.completeWrite i (bitsOf v 0 12))
  | .LAK_OWNER => some (s.writeOwner a i (bitsOf v 0 8))
  | .LAK_STATE => some (s.writeBank a i v)
  | .DMC_OP_CMD => some (s.opCmd v)
  | .PCI_KEY_DATA => some (s.set F.PCI_KEY_DATA.DATA i v)
  | .PCI_KEY_CMD => some (s.keyCmd v)
  | .PCI_DEVCMD => some (s.devCmd v)
  | .HRG_RES_BASE | .HRG_RES_CFG | .HRG_RES_RD => some (s.writeRes r i full)
  | .HRG_CMD_BASE | .HRG_CMD_CFG | .HRG_CMD_TAIL | .HRG_CMD_SEEN | .HRG_MGT_BASE | .HRG_MGT_CFG | .HRG_MGT_TAIL | .HRG_MGT_SEEN =>
    some (s.writeRing r i full)
  | .MBX_DATA => some (s.mbxData a (i / 16) (i % 16) v)
  | .MBX_DOORBELL => some (s.mbxBell a i v)
  | .MBX_TAKE => some (s.mbxTake a i .clean)
  | .MBX_LOCK => some (s.lockWrite a i (bitsOf v 0 8))
  | .CIN_FORCE => some (s.writeForce v)
  | .CIN_EXIT => some (s.exitCmd v)
  | .CIN_TILE_RESET => some (s.tileCmd v)
  | .CIN_CORE_RESET => some (s.coreCmd v)
  | _ => none

/-- What follows a plain write: a cause of safe state may clear (R368), LOOPS counts the loop flags, and an unmasked vector sends
its message (R337). -/
def State.afterWrite (s : State) (r : Reg) : State :=
  match r with
  | .EVF_LOOPSTAT => s.set F.EVF_STAT.LOOPS 0 (s.mapList F.EVF_LOOPSTAT.CH 0 256).length
  | .PCI_MSIX0_CTRL => s.flushMsix .pf0
  | .PCI_MSIX1_CTRL => s.flushMsix .pf1
  | _ => if (List.range 28).any (fun b => (blockStat b).1 == r) then s.recause else s

/-- The bits that mask m names of a register at an index are written with v. -/
def State.regWrite (s : State) (a : Agent) (r : Reg) (i v m : Nat) : State :=
  let v := v &&& m
  let old := s.regVal r i
  let full := (old ^^^ (old &&& m)) ||| v
  match s.writeActs a r i full v with
  | some t => t
  | none => (s.writePlain r i full v).afterWrite r

/-- The high word of a 64-bit register is written: it waits in the agent's write shadow (R342). -/
def State.shadowHigh (s : State) (a : Agent) (h : RegHit) (v : Nat) : State :=
  { s with shadows := Tab.set {} s.shadows a.num { Tab.get {} s.shadows a.num with wr := some (h.tag, v) } }

/-- The low word of a 64-bit register is written: both halves are committed where the write shadow holds its high word, which it
then no longer does; the low word alone otherwise (R342). -/
def State.commitLow (s : State) (a : Agent) (h : RegHit) (v : Nat) : State :=
  let c := 8 * h.k
  let w := Tab.get {} s.shadows a.num
  let low := s.regWrite a h.reg h.idx (v * 2 ^ c) ((2 ^ 32 - 1) * 2 ^ c)
  match w.wr with
  | some (t, hi) =>
    if t = h.tag then
      let s1 := { s with shadows := Tab.set {} s.shadows a.num { w with wr := none } }
      s1.regWrite a h.reg h.idx ((v + hi * 2 ^ 32) * 2 ^ c) ((2 ^ 64 - 1) * 2 ^ c)
    else low
  | none => low

/-- A 4-byte write of a word. -/
def State.writeHit (s : State) (a : Agent) (h : RegHit) (v : Nat) : State :=
  if h.reg.bytes = 4 then s.regWrite a h.reg h.idx v (2 ^ 32 - 1)
  else if h.k % 8 = 4 then s.shadowHigh a h v
  else s.commitLow a h v

/-- A 4-byte write at an address: discarded where no register is reached (R8). -/
def State.write4 (s : State) (a : Agent) (off v : Nat) : State :=
  match s.hit a off with
  | some h => s.writeHit a h v
  | none => s

/-- An aligned write of 8 bytes: both halves of a 64-bit register at once, or two registers (R342). -/
def State.write8 (s : State) (a : Agent) (off v : Nat) : State :=
  let pair := (s.write4 a off (v % 2 ^ 32)).write4 a (off + 4) (v / 2 ^ 32)
  match s.hit a off with
  | some h => if h.reg.bytes = 4 then pair else s.regWrite a h.reg h.idx (v * 2 ^ (8 * h.k)) ((2 ^ 64 - 1) * 2 ^ (8 * h.k))
  | none => pair

/-- A write of n bytes at an address. -/
def State.busStore (s : State) (a : Agent) (off n v : Nat) : State :=
  if !sizeOk off n then s.badSize a
  else if n = 4 then s.write4 a off (v % 2 ^ 32)
  else s.write8 a off v

/-- REGISTER_WRITE (R7, R8, R341, R342). -/
def execRegisterWrite (e : Nat) (a : Agent) (off : Fin 67108864) (n : Fin 9) (v : Word64) (s : State) : Out :=
  .next ((s.elapse e).busStore a off.val n.val v.toNat)

/-- REG64_HIGH_WRITE (R342): a write of the high word of a 64-bit register. -/
def execReg64HighWrite (e : Nat) (a : Agent) (off : Fin 67108864) (v : Word32) (s : State) : Out :=
  .next ((s.elapse e).busStore a off.val 4 v.toNat)

end Sys2Proof.Machine
end

