-- ==== Sys2Proof/Machine/Tokens.lean ====
section
/-! DEFINITION. Slice tokens and forwarded records (spec/12_links_time.md, R247, R248; spec/04_sites.md, R75–R77). -/

namespace Sys2Proof.Machine

/-- Does a port carry tokens and records (R239). -/
def State.carries (s : State) (p : Nat) : Bool := s.portState p == 2 && !s.flag F.LNK_PORT_STAT.SLOW p && !s.railHeld 5

/-- A token of n blocks from CSEQ q arrives on a port. -/
def State.token (s : State) (p q n : Nat) (f : State → State) : State := if s.carries p then s.recv p q n f else s

/-- The proxy site of a home site of the device at the other end of a port (R75). -/
def State.proxyOf (s : State) (p home : Nat) : Option Nat :=
  (List.range 256).find? (fun x => s.proxy x && s.siteState x != 0 &&
    s.get F.SMAP_SITE.HOME_DEV x == s.get F.LNK_PORT_STAT.PEER_DEV p && s.get F.SMAP_SITE.HOME_SITE x == home)

/-- A token from a home acts on the proxy of its site, if there is one. -/
def State.toProxy (s : State) (p home : Nat) (f : State → Nat → State) : State :=
  match s.proxyOf p home with
  | some x => f s x
  | none => s

/-- A token from a proxy acts on its home site, if this device holds it. -/
def State.toHome (s : State) (home : Nat) (f : State → Nat → State) : State :=
  if s.siteState home != 0 && !s.proxy home then f s home else s

/-- A 40-bit DT field of a token (R245). -/
def State.dt40 (s : State) (v : BitVec 40) : Nat := nearDT s.now 40 v.toNat

/-- A time-released token that arrives in time acts; one that arrives at or after its release is a missed release of the
site's slices (R20, R247). -/
def State.timed (s : State) (x d : Nat) (f : State → State) : State :=
  if s.reached d then
    (s.each (s.slicesOf x) (fun s i => s.raiseU 19 F.SLP_FAULT_STAT.MISSED_RELEASE (i / 32))).siteFault x 1
  else f s

/-! ### Joins (R76) -/

/-- The number of set bits of a word of 32. -/
def popCount (v : Nat) : Nat := ((List.range 32).filter (fun b => bitAt v b)).length

/-- A join reaches a home site: it is recorded, with the slices that its tiles tell of, or refused. The devices that a site spans are the
bits of MDR_SITE_SPAN: its home counts where it has quads, and a device that joins again counts once (DESIGN CHOICE,
notes/assumptions/98.md). -/
def State.takeJoin (s : State) (p x tiles : Nat) : State :=
  let dev := s.get F.LNK_PORT_STAT.PEER_DEV p
  let span := s.get F.MDR_SITE_SPAN.DEV x
  let st := s.siteState x
  if !s.proxy x && (st == 1 || st == 6) && decide (popCount (setBit span dev) ≤ 4) then
    let u := s.site x
    let s1 := s.setSite x { u with farSlices := u.farSlices.filter (fun r => r.1 != dev) ++ [(dev, popCount tiles)] }
    (s1.set F.MDR_SITE_SPAN.DEV x (setBit span dev)).tokenTo dev 2 x 0 [1]
  else (s.set F.MDR_SITE_STAT.JOIN_REFUSED x 1).tokenTo dev 2 x 0 [0]

/-- TOKEN_JOIN (R76). -/
def execTokenJoin (e : Nat) (p : Port) (q : Byte) (home : Site) (s : State) (arg : BitVec 26 := 0) : Out :=
  .next ((s.elapse e).token p.val q.toNat 1 (fun s => s.takeJoin p.val home.val (bitsOf arg.toNat 8 8)))

/-- TOKEN_JOINRES (R76): a refusal faults the proxy with cause 4. -/
def execTokenJoinres (e : Nat) (p : Port) (q : Byte) (home : Site) (arg : BitVec 26) (s : State) : Out :=
  .next ((s.elapse e).token p.val q.toNat 1 (fun s => s.toProxy p.val home.val (fun s x =>
    if bitAt arg.toNat 0 then s else s.siteFault x 4)))

/-! ### Tokens from home to proxy (R247) -/

/-- An entry is queued to the slices of a proxy for its release DT, with the sets that a queued TSET left for it. -/
def State.takeEntry (s : State) (x c seg d : Nat) : State :=
  s.timed x d (fun s =>
    let q : QEntry := ⟨seg, c, d, (s.site x).tsQueued⟩
    let s1 := s.each (s.slicesOf x) (fun s i => s.setSlice i { s.slice i with inbound := (s.slice i).inbound ++ [q] })
    s1.setSite x { s1.site x with tsQueued := none })

/-- TOKEN_ENTRY (R247). -/
def execTokenEntry (e : Nat) (p : Port) (q : Byte) (home : Site) (arg : BitVec 26) (x0 x1 : BitVec 40) (s : State) : Out :=
  .next ((s.elapse e).token p.val q.toNat 3 (fun s => s.toProxy p.val home.val (fun s x =>
    s.takeEntry x (bitsOf arg.toNat 0 24) (bitsOf x1.toNat 0 24) (s.dt40 x0))))

/-- TOKEN_START (R247). The token carries the start instant alone: the start that the proxy requested is taken to be equal to it, so its
PWR_SLIP reads 0 (R41; DESIGN CHOICE, notes/assumptions/98.md). -/
def execTokenStart (e : Nat) (p : Port) (q : Byte) (home : Site) (x0 : BitVec 40) (s : State) : Out :=
  .next ((s.elapse e).token p.val q.toNat 2 (fun s => s.toProxy p.val home.val (fun s x =>
    let d := s.dt40 x0
    s.timed x d (fun s => s.setSite x { s.site x with start := some d, startMin := d }))))

/-- A hold boundary reaches a proxy from its home; which cause it has is not carried: a free value. -/
def State.proxyHold (s : State) (x d : Nat) : State :=
  s.timed x d (fun s =>
    if (s.site x).hold.isSome then s else s.drew.setSite x { s.site x with hold := some (d, 1 + s.fresh % 3) })

/-- A hold boundary reaches a home from a proxy, which it passes on; boundary 0 is the loss of the proxy's device (R366). -/
def State.homeHold (s : State) (x v d : Nat) : State :=
  if v = 0 then s.siteFault x 3
  else s.timed x d (fun s => s.drew.askHold x d (1 + s.fresh % 3))

/-- TOKEN_HOLD (R247, R366): to the proxy of the peer's site, where there is one, or to the home. -/
def execTokenHold (e : Nat) (p : Port) (q : Byte) (home : Site) (x0 : BitVec 40) (s : State) : Out :=
  .next ((s.elapse e).token p.val q.toNat 2 (fun s =>
    match s.proxyOf p.val home.val with
    | some x => s.proxyHold x (s.dt40 x0)
    | none => s.toHome home.val (fun s x => s.homeHold x x0.toNat (s.dt40 x0))))

/-- TOKEN_RESUME (R101, R247). -/
def execTokenResume (e : Nat) (p : Port) (q : Byte) (home : Site) (x0 : BitVec 40) (s : State) : Out :=
  .next ((s.elapse e).token p.val q.toNat 2 (fun s => s.toProxy p.val home.val (fun s x =>
    let d := s.dt40 x0
    s.timed x d (fun s => s.setSite x { s.site x with resume := some d, trimClosed := s.now }))))

/-- TOKEN_JUMP (R247): the jump is honoured at the boundary that the token names; its source is not carried. -/
def execTokenJump (e : Nat) (p : Port) (q : Byte) (home : Site) (arg : BitVec 26) (x0 : BitVec 40) (s : State) : Out :=
  .next ((s.elapse e).token p.val q.toNat 2 (fun s => s.toProxy p.val home.val (fun s x =>
    let d := s.dt40 x0
    s.timed x d (fun s =>
      let j : JumpReq := ⟨1 + s.fresh % 3, s.now, bitsOf arg.toNat 0 24, none, false, some d⟩
      s.drew.setSite x { s.site x with jumps := (s.site x).jumps ++ [j] }))))

/-- TOKEN_STOP (R247). -/
def execTokenStop (e : Nat) (p : Port) (q : Byte) (home : Site) (x0 : BitVec 40) (s : State) : Out :=
  .next ((s.elapse e).token p.val q.toNat 2 (fun s => s.toProxy p.val home.val (fun s x =>
    let d := s.dt40 x0
    s.timed x d (fun s => s.setSite x { s.site x with stop := some ⟨3, d, d⟩ }))))

/-- A timing-set change reaches a proxy: at once, or with the next entry (R123, R247). -/
def State.takeTset (s : State) (x a d per : Nat) : State :=
  s.timed x d (fun s =>
    let r : TsetReq := { prim := bitsOf a 0 6, alt := bitsOf a 6 6, release := d, period := some per }
    let u := s.site x
    s.setSite x (if bitAt a 12 then { u with tsQueued := some r } else { u with tsImm := u.tsImm ++ [r] }))

/-- TOKEN_TSET (R247). -/
def execTokenTset (e : Nat) (p : Port) (q : Byte) (home : Site) (arg : BitVec 26) (x0 x1 : BitVec 40) (s : State) : Out :=
  .next ((s.elapse e).token p.val q.toNat 3 (fun s => s.toProxy p.val home.val (fun s x =>
    s.takeTset x arg.toNat (s.dt40 x0) x1.toNat)))

/-! ### The state of a proxy (R77, R247) -/

/-- A proxy goes to IDLE: its slices wait for nothing. -/
def State.proxyIdle (s : State) (x : Nat) : State :=
  let s1 := s.each (s.siteChans x) (fun s c => s.endMeas c)
  let s2 := s1.each (s1.slicesOf x) (fun s i =>
    ((s.setSlice i (s.slice i).cleared).set F.SLP_STAT.STATE i 0).set F.SLP_STAT.QUEUED i 0)
  (s2.setSite x { s2.site x with entered := false, ready := none, start := none, waitGroups := [], tsImm := [], tsQueued := none }).enterState x 1

/-- A proxy goes to ARMED: its slices wait for a start and its groups are requested (R41, R77). Whether the lead slice of its site is its
first depends on the other devices (R99), and is a free value. -/
def State.proxyArm (s : State) (x : Nat) : State :=
  let u := s.site x
  let s0 := if s.asleep x then s.unsleep x else s
  let s1 := s0.setSite x { u with
    armDT := s.now, fromIdle := s.siteState x == 1, entered := false, ready := none, start := none, first := true,
    checkedStale := false, completed := false, restart := false, stop := none, hold := none, resume := none, jumps := [],
    tsImm := [], tsQueued := none, trimClosed := s.now, waitGroups := [], leadHere := s.fresh % 2 == 1 }
  let s2 := (s1.each (s1.slicesOf x) (fun s i => s.readySlice i)).set F.MDR_SITE_STATE.OUTCOME x 0
  let s3 := s2.drew.enterState x 2
  if (s3.siteGroups x).any (fun g => s3.group g == 6) then s3.siteFault x 2 else s3.enterLadder [x]

/-- A proxy goes to DONE: its slices stop with their idle levels (R366). -/
def State.proxyDone (s : State) (x : Nat) : State := (s.each (s.slicesOf x) (fun s i => s.endSlice i s.now)).enterDone x

/-- The reflection that a TRIM token asks for begins unless it is refused here (R220). -/
def State.proxyRefl (s : State) (x : Nat) : State :=
  if s.reflRefused x true then s.set F.MRD_REFL_STAT.REJ x 1 else s.beginRefl x

/-- A proxy takes the state of its home; the cause of a fault is not carried. Code 16 stands for a reflection request. A FAULTED proxy
leaves that state by its reset alone (R73). -/
def State.proxyState (s : State) (x c : Nat) : State :=
  if s.siteState x == 7 && c != 16 then s else
  match c with
  | 1 => s.proxyIdle x
  | 2 => s.proxyArm x
  | 3 | 4 | 5 => s.enterState x c
  | 6 => s.proxyDone x
  | 7 => s.drew.siteFault x (1 + s.fresh % 6)
  | 16 => s.proxyRefl x
  | _ => s

/-- What a token holds for a proxy is taken at its release DT. -/
def State.takeHeld (s : State) (x c d : Nat) : State :=
  (s.setSite x { s.site x with states := (s.site x).states.erase (c, d) }).proxyState x c

/-- A token for a proxy holds a code until a release DT. -/
def State.holdCode (s : State) (x c d : Nat) : State :=
  s.timed x d (fun s => s.setSite x { s.site x with states := (s.site x).states ++ [(c, d)] })

/-- A token with a held code: before its release DT the command is its arrival, at or after it the command is its release. -/
def State.heldToken (s : State) (p q home c d : Nat) (arrive : State → Nat → State) : State :=
  match (s.proxyOf p home).filter (fun x => (s.site x).states.contains (c, d) && s.reached d) with
  | some x => s.takeHeld x c d
  | none => s.token p q 2 (fun s => s.toProxy p home arrive)

/-- TOKEN_STATE (R77, R247). -/
def execTokenState (e : Nat) (p : Port) (q : Byte) (home : Site) (arg : BitVec 26) (x0 : BitVec 40) (s : State) : Out :=
  let s := s.elapse e
  let c := bitsOf arg.toNat 0 4
  let d := s.dt40 x0
  .next (s.heldToken p.val q.toNat home.val c d (fun s x => s.holdCode x c d))

/-- TOKEN_RESET (R78, R247): the reset takes effect at its release DT (SITE_RESET_RELEASE). -/
def execTokenReset (e : Nat) (p : Port) (q : Byte) (home : Site) (x0 : BitVec 40) (s : State) : Out :=
  .next ((s.elapse e).token p.val q.toNat 2 (fun s => s.toProxy p.val home.val (fun s x =>
    let d := s.dt40 x0
    s.timed x d (fun s => s.setSite x { s.site x with resetAt := some d }))))

/-- A TRIM token opens a proxy's trim window, closes it, or asks for a reflection (R166, R220, R247). -/
def State.takeTrim (s : State) (x a d : Nat) : State :=
  let s1 := if bitAt a 0 then
      (if s.flag F.MDR_SITE_STATE.TRIMOK x then s
       else (s.set F.MDR_SITE_STATE.TRIMOK x 1).setSite x { s.site x with trimOpen := d })
    else if bitAt a 1 then s
    else if s.flag F.MDR_SITE_STATE.TRIMOK x then s.set F.MDR_STEP_TRIM.DT x d else s
  if bitAt a 1 then s1.setSite x { s1.site x with states := (s1.site x).states ++ [(16, d)] } else s1

/-- TOKEN_TRIM (R247). -/
def execTokenTrim (e : Nat) (p : Port) (q : Byte) (home : Site) (arg : BitVec 26) (x0 : BitVec 40) (s : State) : Out :=
  let s := s.elapse e
  let d := s.dt40 x0
  .next (s.heldToken p.val q.toNat home.val 16 d (fun s x => s.timed x d (fun s => s.takeTrim x arg.toNat d)))

/-! ### Tokens from proxy to home (R41, R83, R101, R143, R247) -/

/-- A READY token: after a HOLD it reports the joined device, before a start its ready DT and stale result. -/
def State.takeReady (s : State) (x dev a d : Nat) : State :=
  let u := s.site x
  if bitAt a 1 then
    let s1 := s.setSite x { u with reports := if u.reports.contains dev then u.reports else u.reports ++ [dev] }
    if s1.held x then s1.formResume x else s1
  else
    (s.setSite x { u with proxyReady := u.proxyReady.filter (fun r => r.1 != dev) ++ [(dev, bitsOf a 0 1, d)] }).formReady x

/-- TOKEN_READY (R247). -/
def execTokenReady (e : Nat) (p : Port) (q : Byte) (home : Site) (arg : BitVec 26) (x0 : BitVec 40) (s : State) : Out :=
  .next ((s.elapse e).token p.val q.toNat 2 (fun s => s.toHome home.val (fun s x =>
    s.takeReady x (s.get F.LNK_PORT_STAT.PEER_DEV p.val) arg.toNat (s.dt40 x0))))

/-- A proxy's failing results are added to its home's total (R143); with stop at the first fail they are a detection, 8 ns after the end
of the failing action (R145), which the token does not carry: a free DT since the start of the test. -/
def State.takeCounts (s : State) (x n : Nat) : State :=
  let s1 := (s.addFails x n).drew
  let back := s.fresh % (s.since (s.get F.MDR_SITE_START_DT.DT x) + 1)
  if s.get F.SEP_CAP_POLICY.STOP x = 1 && n != 0 then s1.detect x (wrap64 (s1.now + 2 ^ 64 - back)) else s1

/-- TOKEN_COUNTS (R247). -/
def execTokenCounts (e : Nat) (p : Port) (q : Byte) (home : Site) (x0 : BitVec 40) (s : State) : Out :=
  .next ((s.elapse e).token p.val q.toNat 2 (fun s => s.toHome home.val (fun s x => s.takeCounts x (bitsOf x0.toNat 0 32))))

/-- TOKEN_CCRC (R83, R247). -/
def execTokenCcrc (e : Nat) (p : Port) (q : Byte) (home : Site) (arg : BitVec 26) (x0 : BitVec 40) (s : State) : Out :=
  .next ((s.elapse e).token p.val q.toNat 2 (fun s => s.toHome home.val (fun s x =>
    s.setSite x { s.site x with crcs := (s.site x).crcs ++ [(bitsOf arg.toNat 0 24, bitsOf x0.toNat 0 32)] })))

/-! ### Forwarded records (R248) -/

/-- A record of a proxy slice is written to the home site's ring: TYPE 1 a fail record, 2 an acquisition record. One whose SITE tag
does not match the ring's site is dropped (R16). -/
def State.takeRecord (s : State) (x typ : Nat) (b : List Byte) : State :=
  let tagged := leAt b 14 1 == s.homeSite x % 256
  if typ = 1 && b.length == 32 then
    if tagged then s.capRecord x b else s.faultSite 15 F.SEP_CAP_FAULT_STAT.TAG_MISMATCH 0 x 5
  else if typ = 2 && b.length % 32 == 0 && !b.isEmpty then
    if tagged then s.acqToRing x b else s.faultSite 16 F.SEP_ACQ_FAULT_STAT.TAG_MISMATCH 0 x 5
  else s

/-- RECORD (R248): the RECORD block and the bytes that followed it. -/
def execRecord (e : Nat) (p : Port) (q : Byte) (home : Site) (typ : Byte) (bytes : List Byte) (s : State) : Out :=
  .next ((s.elapse e).token p.val q.toNat 1 (fun s => s.toHome home.val (fun s x => s.takeRecord x typ.toNat bytes)))

end Sys2Proof.Machine
end

