-- ==== Sys2Proof/Machine/Dispatch.lean ====
section
/-! DEFINITION. The dispatch: one arm per command, each one call of its meaning. -/

namespace Sys2Proof.Machine

def exec (i : Instr) (s : State) : Host.Outcome State Fault Refusal :=
  match i with
  | .powerOnReset e testen safeInHigh resetHigh => Sys2Proof.Machine.execPowerOnReset e testen safeInHigh resetHigh s
  | .vauxUnderVoltage e => Sys2Proof.Machine.execVauxUnderVoltage e s
  | .railsGood e => Sys2Proof.Machine.execRailsGood e s
  | .railUnderVoltage e rail => Sys2Proof.Machine.execRailUnderVoltage e rail s
  | .coreIslandAdmission e => Sys2Proof.Machine.execCoreIslandAdmission e s
  | .tileCommonAdmission e => Sys2Proof.Machine.execTileCommonAdmission e s
  | .ladderRequest e => Sys2Proof.Machine.execLadderRequest e s
  | .ladderSlot e => Sys2Proof.Machine.execLadderSlot e s
  | .groupSettleEnd e g failed => Sys2Proof.Machine.execGroupSettleEnd e g failed s
  | .poweringEnd e => Sys2Proof.Machine.execPoweringEnd e s
  | .resetNFall e => Sys2Proof.Machine.execResetNFall e s
  | .deviceReset e => Sys2Proof.Machine.execDeviceReset e s
  | .resetNRise e => Sys2Proof.Machine.execResetNRise e s
  | .devReset e v => Sys2Proof.Machine.execDevReset e v s
  | .testenHigh e => Sys2Proof.Machine.execTestenHigh e s
  | .pwrSleepSet e w v => Sys2Proof.Machine.execPwrSleepSet e w v s
  | .pwrSleepClr e w v => Sys2Proof.Machine.execPwrSleepClr e w v s
  | .dormantRequest e => Sys2Proof.Machine.execDormantRequest e s
  | .dormantEntryComplete e => Sys2Proof.Machine.execDormantEntryComplete e s
  | .wake e cause => Sys2Proof.Machine.execWake e cause s
  | .wakeComplete e => Sys2Proof.Machine.execWakeComplete e s
  | .thermalConversion e temps => Sys2Proof.Machine.execThermalConversion e temps s
  | .loadStart e copy0 copy1 => Sys2Proof.Machine.execLoadStart e copy0 copy1 s
  | .slotReadStart e hdr => Sys2Proof.Machine.execSlotReadStart e hdr s
  | .imageRecordArrival e r => Sys2Proof.Machine.execImageRecordArrival e r s
  | .dramTrainingComplete e ok => Sys2Proof.Machine.execDramTrainingComplete e ok s
  | .lastRecordRead e => Sys2Proof.Machine.execLastRecordRead e s
  | .checksComplete e => Sys2Proof.Machine.execChecksComplete e s
  | .commit e => Sys2Proof.Machine.execCommit e s
  | .reload e v => Sys2Proof.Machine.execReload e v s
  | .precheckComplete e copy0 copy1 images => Sys2Proof.Machine.execPrecheckComplete e copy0 copy1 images s
  | .reloadTeardown e => Sys2Proof.Machine.execReloadTeardown e s
  | .fuseProgramKeyHash e v => Sys2Proof.Machine.execFuseProgramKeyHash e v s
  | .fuseRaiseSecver e v => Sys2Proof.Machine.execFuseRaiseSecver e v s
  | .fuseOpComplete e => Sys2Proof.Machine.execFuseOpComplete e s
  | .siteArm e x prog => Sys2Proof.Machine.execSiteArm e x prog s
  | .siteAbort e x => Sys2Proof.Machine.execSiteAbort e x s
  | .siteAck e x => Sys2Proof.Machine.execSiteAck e x s
  | .siteReset e x => Sys2Proof.Machine.execSiteReset e x s
  | .siteResetRelease e x => Sys2Proof.Machine.execSiteResetRelease e x s
  | .staleCheck e x => Sys2Proof.Machine.execStaleCheck e x s
  | .startInstant e x => Sys2Proof.Machine.execStartInstant e x s
  | .sliceMissedRelease e sl => Sys2Proof.Machine.execSliceMissedRelease e sl s
  | .stoppingComplete e x => Sys2Proof.Machine.execStoppingComplete e x s
  | .joinSend e x => Sys2Proof.Machine.execJoinSend e x s
  | .vectorNext e sl ecc => Sys2Proof.Machine.execVectorNext e sl s ecc
  | .vectorRepeat e sl ecc => Sys2Proof.Machine.execVectorRepeat e sl s ecc
  | .loopBegin e sl ecc => Sys2Proof.Machine.execLoopBegin e sl s ecc
  | .loopEnd e sl ecc => Sys2Proof.Machine.execLoopEnd e sl s ecc
  | .matchPass e sl ecc => Sys2Proof.Machine.execMatchPass e sl s ecc
  | .altVector e sl ecc => Sys2Proof.Machine.execAltVector e sl s ecc
  | .endVector e sl ecc => Sys2Proof.Machine.execEndVector e sl s ecc
  | .code7 e sl ecc => Sys2Proof.Machine.execCode7 e sl s ecc
  | .granuleCheckPoint e sl => Sys2Proof.Machine.execGranuleCheckPoint e sl s
  | .holdRelease e x => Sys2Proof.Machine.execHoldRelease e x s
  | .refillGranuleComplete e sl seg gran col => Sys2Proof.Machine.execRefillGranuleComplete e sl seg gran col s
  | .sliceReadyReport e sl => Sys2Proof.Machine.execSliceReadyReport e sl s
  | .resumeRelease e x => Sys2Proof.Machine.execResumeRelease e x s
  | .segmentAdmission e sl seg ecc => Sys2Proof.Machine.execSegmentAdmission e sl seg ecc s
  | .queueEntryRelease e sl => Sys2Proof.Machine.execQueueEntryRelease e sl s
  | .eventJumpRequest e x => Sys2Proof.Machine.execEventJumpRequest e x s
  | .jumpHonoured e x => Sys2Proof.Machine.execJumpHonoured e x s
  | .ctrlCrcReport e x => Sys2Proof.Machine.execCtrlCrcReport e x s
  | .slpJumpCfgWrite e sl v => Sys2Proof.Machine.execSlpJumpCfgWrite e sl v s
  | .slpLooppreWrite e sl r v => Sys2Proof.Machine.execSlpLooppreWrite e sl r v s
  | .slpMatchTmoWrite e sl v => Sys2Proof.Machine.execSlpMatchTmoWrite e sl v s
  | .waveformRead e t => Sys2Proof.Machine.execWaveformRead e t s
  | .waveformWrite e t => Sys2Proof.Machine.execWaveformWrite e t s
  | .waveformAccessComplete e t e0 e1 e2 => Sys2Proof.Machine.execWaveformAccessComplete e t e0 s e1 e2
  | .wodPeriodWrite e sl set v => Sys2Proof.Machine.execWodPeriodWrite e sl set v s
  | .wodSliceTsWrite e sl v => Sys2Proof.Machine.execWodSliceTsWrite e sl v s
  | .wodChCfgWrite e ch v => Sys2Proof.Machine.execWodChCfgWrite e ch v s
  | .driveEvent e ch => Sys2Proof.Machine.execDriveEvent e ch s
  | .strobe e ch st => Sys2Proof.Machine.execStrobe e ch st s
  | .windowEnd e ch dL dM dH => Sys2Proof.Machine.execWindowEnd e ch dL dM dH s
  | .timingSetRelease e x => Sys2Proof.Machine.execTimingSetRelease e x s
  | .comparatorSettingWrite e ch r v => Sys2Proof.Machine.execComparatorSettingWrite e ch r v s
  | .settlingEnd e ch st => Sys2Proof.Machine.execSettlingEnd e ch st s
  | .sepCmpChMaskWrite e ch v => Sys2Proof.Machine.execSepCmpChMaskWrite e ch v s
  | .granuleCountsAdd e sl => Sys2Proof.Machine.execGranuleCountsAdd e sl s
  | .failRecordArrival e sl tag => Sys2Proof.Machine.execFailRecordArrival e sl tag s
  | .stopDecision e x => Sys2Proof.Machine.execStopDecision e x s
  | .stopRelease e x => Sys2Proof.Machine.execStopRelease e x s
  | .captureRingRdWrite e x v => Sys2Proof.Machine.execCaptureRingRdWrite e x v s
  | .stepWordFetch e x ecc => Sys2Proof.Machine.execStepWordFetch e x ecc s
  | .stepBoundarySample e x rom => Sys2Proof.Machine.execStepBoundarySample e x s rom
  | .nop e x => Sys2Proof.Machine.execNop e x s
  | .play e x => Sys2Proof.Machine.execPlay e x s
  | .jseg e x => Sys2Proof.Machine.execJseg e x s
  | .tset e x => Sys2Proof.Machine.execTset e x s
  | .acq e x => Sys2Proof.Machine.execAcq e x s
  | .meas e x => Sys2Proof.Machine.execMeas e x s
  | .mget e x => Sys2Proof.Machine.execMget e x s
  | .waitev e x => Sys2Proof.Machine.execWaitev e x s
  | .waitdt e x => Sys2Proof.Machine.execWaitdt e x s
  | .drain e x => Sys2Proof.Machine.execDrain e x s
  | .sync e x => Sys2Proof.Machine.execSync e x s
  | .trimok e x => Sys2Proof.Machine.execTrimok e x s
  | .jmp e x => Sys2Proof.Machine.execJmp e x s
  | .call e x => Sys2Proof.Machine.execCall e x s
  | .ret e x => Sys2Proof.Machine.execRet e x s
  | .dbnz e x => Sys2Proof.Machine.execDbnz e x s
  | .ldi e x => Sys2Proof.Machine.execLdi e x s
  | .addi e x => Sys2Proof.Machine.execAddi e x s
  | .add e x => Sys2Proof.Machine.execAdd e x s
  | .sub e x => Sys2Proof.Machine.execSub e x s
  | .mov e x => Sys2Proof.Machine.execMov e x s
  | .get e x => Sys2Proof.Machine.execGet e x s
  | .cmpi e x => Sys2Proof.Machine.execCmpi e x s
  | .cmp e x => Sys2Proof.Machine.execCmp e x s
  | .bin e x => Sys2Proof.Machine.execBin e x s
  | .dlog e x => Sys2Proof.Machine.execDlog e x s
  | .bustx e x => Sys2Proof.Machine.execBustx e x s
  | .req e x => Sys2Proof.Machine.execReq e x s
  | .stop e x => Sys2Proof.Machine.execStop e x s
  | .eventLatch e x c => Sys2Proof.Machine.execEventLatch e x c s
  | .waitTimeout e x => Sys2Proof.Machine.execWaitTimeout e x s
  | .serviceResult e x => Sys2Proof.Machine.execServiceResult e x s
  | .syncRelease e b => Sys2Proof.Machine.execSyncRelease e b s
  | .trapFiring e x => Sys2Proof.Machine.execTrapFiring e x s
  | .trimWindowClose e x => Sys2Proof.Machine.execTrimWindowClose e x s
  | .sliceEndReport e x => Sys2Proof.Machine.execSliceEndReport e x s
  | .syncMemberWrite e b w v => Sys2Proof.Machine.execSyncMemberWrite e b w v s
  | .stepMissedRelease e x => Sys2Proof.Machine.execStepMissedRelease e x s
  | .acqArmCommand e ch => Sys2Proof.Machine.execAcqArmCommand e ch s
  | .acqDisarmCommand e ch => Sys2Proof.Machine.execAcqDisarmCommand e ch s
  | .acqForce e ch => Sys2Proof.Machine.execAcqForce e ch s
  | .acqEventArm e ch arm => Sys2Proof.Machine.execAcqEventArm e ch arm s
  | .acqArmDt e ch late => Sys2Proof.Machine.execAcqArmDt e ch late s
  | .sequenceOccurrence e ch o => Sys2Proof.Machine.execSequenceOccurrence e ch o s
  | .sequenceTimer e ch => Sys2Proof.Machine.execSequenceTimer e ch s
  | .privilegedTriggerEval e ch v between => Sys2Proof.Machine.execPrivilegedTriggerEval e ch v between s
  | .acqAutoTimeout e ch => Sys2Proof.Machine.execAcqAutoTimeout e ch s
  | .historySample e ch seen => Sys2Proof.Machine.execHistorySample e ch seen s
  | .postTriggerComplete e ch => Sys2Proof.Machine.execPostTriggerComplete e ch s
  | .acqRecordArrival e ch tag => Sys2Proof.Machine.execAcqRecordArrival e ch tag s
  | .sepAcqChCfgWrite e ch v => Sys2Proof.Machine.execSepAcqChCfgWrite e ch v s
  | .acqRingRdWrite e x v => Sys2Proof.Machine.execAcqRingRdWrite e x v s
  | .tiaStart e ch => Sys2Proof.Machine.execTiaStart e ch s
  | .tiaEnd e ch => Sys2Proof.Machine.execTiaEnd e ch s
  | .measStartDt e ch late => Sys2Proof.Machine.execMeasStartDt e ch late s
  | .measSample e ch a b p remote => Sys2Proof.Machine.execMeasSample e ch a b p remote s
  | .measWindowExpiry e ch a => Sys2Proof.Machine.execMeasWindowExpiry e ch a s
  | .gateClose e ch edges a b n => Sys2Proof.Machine.execGateClose e ch edges a b n s
  | .measDone e ch => Sys2Proof.Machine.execMeasDone e ch s
  | .dtWrap e => Sys2Proof.Machine.execDtWrap e s
  | .umbDtRead e a => Sys2Proof.Machine.execUmbDtRead e a s
  | .referenceLock e err => Sys2Proof.Machine.execReferenceLock e s err
  | .referenceLoss e edge err => Sys2Proof.Machine.execReferenceLoss e s edge err
  | .xtalFail e => Sys2Proof.Machine.execXtalFail e s
  | .ppsInEdge e => Sys2Proof.Machine.execPpsInEdge e s
  | .ppsOutRise e => Sys2Proof.Machine.execPpsOutRise e s
  | .trimStepEnd e q binsOk offsOk delay qf => Sys2Proof.Machine.execTrimStepEnd e q binsOk offsOk delay qf s
  | .trimCommit e ch => Sys2Proof.Machine.execTrimCommit e ch s
  | .trimCommitMissed e ch => Sys2Proof.Machine.execTrimCommitMissed e ch s
  | .channelReturn e ch => Sys2Proof.Machine.execChannelReturn e ch s
  | .syncPulse e => Sys2Proof.Machine.execSyncPulse e s
  | .syncPulseReturn e t off => Sys2Proof.Machine.execSyncPulseReturn e t off s
  | .tskewLost e t => Sys2Proof.Machine.execTskewLost e t s
  | .qualityAgeChange e ch => Sys2Proof.Machine.execQualityAgeChange e ch s
  | .reflectionRequest e x => Sys2Proof.Machine.execReflectionRequest e x s
  | .reflectionStep e ch inc ret stamped => Sys2Proof.Machine.execReflectionStep e ch inc ret stamped s
  | .reflectionEnd e x => Sys2Proof.Machine.execReflectionEnd e x s
  | .tileLinkUp e t => Sys2Proof.Machine.execTileLinkUp e t s
  | .frameArrival e l lane bits => Sys2Proof.Machine.execFrameArrival e l lane bits s
  | .ack e l q => Sys2Proof.Machine.execAck e l q s
  | .tileReplayTimeout e t q => Sys2Proof.Machine.execTileReplayTimeout e t q s
  | .tileLinkDown e t => Sys2Proof.Machine.execTileLinkDown e t s
  | .portStart e p => Sys2Proof.Machine.execPortStart e p s
  | .cap e p q body => Sys2Proof.Machine.execCap e p q body s
  | .portRetry e p => Sys2Proof.Machine.execPortRetry e p s
  | .rate e p q body => Sys2Proof.Machine.execRate e p q body s
  | .rateSwitch e p => Sys2Proof.Machine.execRateSwitch e p s
  | .rateStepEnd e p ok => Sys2Proof.Machine.execRateStepEnd e p ok s
  | .portReplayTimeout e p q => Sys2Proof.Machine.execPortReplayTimeout e p q s
  | .portDown e p => Sys2Proof.Machine.execPortDown e p s
  | .portRetrain e p => Sys2Proof.Machine.execPortRetrain e p s
  | .portDisable e p => Sys2Proof.Machine.execPortDisable e p s
  | .timeExchangeStart e p t1 => Sys2Proof.Machine.execTimeExchangeStart e p t1 s
  | .tsync e p q body full t2 t3 => Sys2Proof.Machine.execTsync e p q body full t2 t3 s
  | .treq e p q body t4 => Sys2Proof.Machine.execTreq e p q body t4 s
  | .tresp e p q body => Sys2Proof.Machine.execTresp e p q body s
  | .tinfo e p q body => Sys2Proof.Machine.execTinfo e p q body s
  | .upstreamLoss e => Sys2Proof.Machine.execUpstreamLoss e s
  | .evbc e p body => Sys2Proof.Machine.execEvbc e p body s
  | .broadcastRelease e c => Sys2Proof.Machine.execBroadcastRelease e c s
  | .tokenJoin e p q home arg => Sys2Proof.Machine.execTokenJoin e p q home s arg
  | .tokenJoinres e p q home arg => Sys2Proof.Machine.execTokenJoinres e p q home arg s
  | .tokenEntry e p q home arg x0 x1 => Sys2Proof.Machine.execTokenEntry e p q home arg x0 x1 s
  | .tokenStart e p q home x0 => Sys2Proof.Machine.execTokenStart e p q home x0 s
  | .tokenHold e p q home x0 => Sys2Proof.Machine.execTokenHold e p q home x0 s
  | .tokenReady e p q home arg x0 => Sys2Proof.Machine.execTokenReady e p q home arg x0 s
  | .tokenResume e p q home x0 => Sys2Proof.Machine.execTokenResume e p q home x0 s
  | .tokenJump e p q home arg x0 => Sys2Proof.Machine.execTokenJump e p q home arg x0 s
  | .tokenStop e p q home x0 => Sys2Proof.Machine.execTokenStop e p q home x0 s
  | .tokenTset e p q home arg x0 x1 => Sys2Proof.Machine.execTokenTset e p q home arg x0 x1 s
  | .tokenState e p q home arg x0 => Sys2Proof.Machine.execTokenState e p q home arg x0 s
  | .tokenReset e p q home x0 => Sys2Proof.Machine.execTokenReset e p q home x0 s
  | .tokenTrim e p q home arg x0 => Sys2Proof.Machine.execTokenTrim e p q home arg x0 s
  | .tokenCounts e p q home x0 => Sys2Proof.Machine.execTokenCounts e p q home x0 s
  | .tokenCcrc e p q home arg x0 => Sys2Proof.Machine.execTokenCcrc e p q home arg x0 s
  | .record e p q home typ bytes => Sys2Proof.Machine.execRecord e p q home typ bytes s
  | .busRunWrite e en run => Sys2Proof.Machine.execBusRunWrite e en run s
  | .busFlush e en => Sys2Proof.Machine.execBusFlush e en s
  | .busRecover e en => Sys2Proof.Machine.execBusRecover e en s
  | .phyResetWrite e en held => Sys2Proof.Machine.execPhyResetWrite e en held s
  | .busTxPost e en v => Sys2Proof.Machine.execBusTxPost e en v s
  | .payloadRead e en k ecc => Sys2Proof.Machine.execPayloadRead e en k ecc s
  | .frameStart e en => Sys2Proof.Machine.execFrameStart e en s
  | .arbitrationLost e en => Sys2Proof.Machine.execArbitrationLost e en s
  | .frameExpired e en => Sys2Proof.Machine.execFrameExpired e en s
  | .txWriteBack e en sof eof => Sys2Proof.Machine.execTxWriteBack e en sof eof s
  | .gateFiring e en => Sys2Proof.Machine.execGateFiring e en s
  | .frameReceived e en f tag => Sys2Proof.Machine.execFrameReceived e en f tag s
  | .busError e en code inc => Sys2Proof.Machine.execBusError e en code inc s
  | .busOffRecovery e en => Sys2Proof.Machine.execBusOffRecovery e en s
  | .linHeader e en id => Sys2Proof.Machine.execLinHeader e en id s
  | .linWakeUp e en fell tag => Sys2Proof.Machine.execLinWakeUp e en fell tag s
  | .mdioCommand e en v => Sys2Proof.Machine.execMdioCommand e en v s
  | .mdioComplete e data => Sys2Proof.Machine.execMdioComplete e data s
  | .workItemEnqueue e w delayed due => Sys2Proof.Machine.execWorkItemEnqueue e w delayed due s
  | .safGet e c own => Sys2Proof.Machine.execSafGet e c own s
  | .dispatch e y ecc => Sys2Proof.Machine.execDispatch e y ecc s
  | .itemComplete e c status nrc v fw => Sys2Proof.Machine.execItemComplete e c status nrc v fw s
  | .delayDue e => Sys2Proof.Machine.execDelayDue e s
  | .watchdog e c => Sys2Proof.Machine.execWatchdog e c s
  | .planStart e x => Sys2Proof.Machine.execPlanStart e x s
  | .planStop e x => Sys2Proof.Machine.execPlanStop e x s
  | .planAbort e x => Sys2Proof.Machine.execPlanAbort e x s
  | .dutEvent e x => Sys2Proof.Machine.execDutEvent e x s
  | .planTestEnd e x => Sys2Proof.Machine.execPlanTestEnd e x s
  | .planTimeout e x => Sys2Proof.Machine.execPlanTimeout e x s
  | .staleRetry e x => Sys2Proof.Machine.execStaleRetry e x s
  | .reflEvent e x => Sys2Proof.Machine.execReflEvent e x s
  | .datalogRecord e x src => Sys2Proof.Machine.execDatalogRecord e x src s
  | .lost e x => Sys2Proof.Machine.execLost e x s
  | .udsRequest e c sof eof => Sys2Proof.Machine.execUdsRequest e c sof eof s
  | .udsSession e c sof eof => Sys2Proof.Machine.execUdsSession e c sof eof s
  | .security e c ecc sof eof => Sys2Proof.Machine.execSecurity e c ecc sof eof s
  | .download e c sof eof => Sys2Proof.Machine.execDownload e c sof eof s
  | .ecuReset e c sof eof => Sys2Proof.Machine.execEcuReset e c sof eof s
  | .udsResponse e x u r sof eof => Sys2Proof.Machine.execUdsResponse e x u r sof eof s
  | .p2Expiry e x u => Sys2Proof.Machine.execP2Expiry e x u s
  | .testerPresent e x u => Sys2Proof.Machine.execTesterPresent e x u s
  | .keyReply e => Sys2Proof.Machine.execKeyReply e s
  | .keyTimeout e x u => Sys2Proof.Machine.execKeyTimeout e x u s
  | .netlistBuild e x => Sys2Proof.Machine.execNetlistBuild e x s
  | .netlistAnalysis e x => Sys2Proof.Machine.execNetlistAnalysis e x s
  | .trigInEdge e n => Sys2Proof.Machine.execTrigInEdge e n s
  | .evfSwfire e v => Sys2Proof.Machine.execEvfSwfire e v s
  | .eventChannelFiring e p => Sys2Proof.Machine.execEventChannelFiring e p s
  | .heldFiringRelease e c => Sys2Proof.Machine.execHeldFiringRelease e c s
  | .trigOutPulseEnd e n => Sys2Proof.Machine.execTrigOutPulseEnd e n s
  | .timerExpiry e k => Sys2Proof.Machine.execTimerExpiry e k s
  | .evfTimerCfgWrite e k v => Sys2Proof.Machine.execEvfTimerCfgWrite e k v s
  | .timerStartFiring e k => Sys2Proof.Machine.execTimerStartFiring e k s
  | .interruptPending e n => Sys2Proof.Machine.execInterruptPending e n s
  | .ircClaim e a x => Sys2Proof.Machine.execIrcClaim e a x s
  | .ircComplete e a x n => Sys2Proof.Machine.execIrcComplete e a x n s
  | .ircMaskWrite e a w v => Sys2Proof.Machine.execIrcMaskWrite e a w v s
  | .holdoffEnd e g => Sys2Proof.Machine.execHoldoffEnd e g s
  | .lakOwnerWrite e a b v => Sys2Proof.Machine.execLakOwnerWrite e a b v s
  | .lakStateWrite e a b v => Sys2Proof.Machine.execLakStateWrite e a b v s
  | .bankTransitionComplete e b => Sys2Proof.Machine.execBankTransitionComplete e b s
  | .lakeWrite e a addr data coll => Sys2Proof.Machine.execLakeWrite e a addr data coll s
  | .lakeSetWrite e a addr data => Sys2Proof.Machine.execLakeSetWrite e a addr data s
  | .lakeClearWrite e a addr data => Sys2Proof.Machine.execLakeClearWrite e a addr data s
  | .dmcOpCmd e v => Sys2Proof.Machine.execDmcOpCmd e v s
  | .opChangeComplete e ok => Sys2Proof.Machine.execOpChangeComplete e ok s
  | .requestPromotion e k => Sys2Proof.Machine.execRequestPromotion e k s
  | .pageCloseTimeout e ch bank => Sys2Proof.Machine.execPageCloseTimeout e ch bank s
  | .perstN e high => Sys2Proof.Machine.execPerstN e high s
  | .flr e f => Sys2Proof.Machine.execFlr e f s
  | .hrgCmdTailWrite e a r v => Sys2Proof.Machine.execHrgCmdTailWrite e a r v s
  | .descriptorRead e r => Sys2Proof.Machine.execDescriptorRead e r s
  | .arm e x => Sys2Proof.Machine.execArm e x s
  | .abort e x => Sys2Proof.Machine.execAbort e x s
  | .ackCommand e x => Sys2Proof.Machine.execAckCommand e x s
  | .reset e x => Sys2Proof.Machine.execReset e x s
  | .setArg e x => Sys2Proof.Machine.execSetArg e x s
  | .ringPlanStart e x => Sys2Proof.Machine.execRingPlanStart e x s
  | .ringPlanStop e x => Sys2Proof.Machine.execRingPlanStop e x s
  | .ringPlanAbort e x => Sys2Proof.Machine.execRingPlanAbort e x s
  | .reflect e x => Sys2Proof.Machine.execReflect e x s
  | .tableLoad e x => Sys2Proof.Machine.execTableLoad e x s
  | .nvmRead e m data => Sys2Proof.Machine.execNvmRead e m data s
  | .nvmErase e m done => Sys2Proof.Machine.execNvmErase e m done s
  | .nvmProgram e m done => Sys2Proof.Machine.execNvmProgram e m done s
  | .todSet e m => Sys2Proof.Machine.execTodSet e m s
  | .todAdj e m => Sys2Proof.Machine.execTodAdj e m s
  | .descriptorComplete e r => Sys2Proof.Machine.execDescriptorComplete e r s
  | .hrgCmdSeenWrite e a r v => Sys2Proof.Machine.execHrgCmdSeenWrite e a r v s
  | .ringDisable e a r => Sys2Proof.Machine.execRingDisable e a r s
  | .hrgResRdWrite e x v => Sys2Proof.Machine.execHrgResRdWrite e x v s
  | .mbxDataWrite e a n w v => Sys2Proof.Machine.execMbxDataWrite e a n w v s
  | .mbxDoorbell e a n v => Sys2Proof.Machine.execMbxDoorbell e a n v s
  | .mbxTake e a n ecc => Sys2Proof.Machine.execMbxTake e a n ecc s
  | .mbxLockRead e a n => Sys2Proof.Machine.execMbxLockRead e a n s
  | .mbxLockRelease e a n v => Sys2Proof.Machine.execMbxLockRelease e a n v s
  | .keyStoreWrite e => Sys2Proof.Machine.execKeyStoreWrite e s
  | .keyStoreErase e => Sys2Proof.Machine.execKeyStoreErase e s
  | .reg64LowRead e a off => Sys2Proof.Machine.execReg64LowRead e a off s
  | .reg64HighWrite e a off v => Sys2Proof.Machine.execReg64HighWrite e a off v s
  | .rcRegisterRead e a off n => Sys2Proof.Machine.execRcRegisterRead e a off n s
  | .registerWrite e a off n v => Sys2Proof.Machine.execRegisterWrite e a off n v s
  | .safeInNFall e long => Sys2Proof.Machine.execSafeInNFall e long s
  | .cinForceWrite e v => Sys2Proof.Machine.execCinForceWrite e v s
  | .cinExit e v => Sys2Proof.Machine.execCinExit e v s
  | .exitRelease e => Sys2Proof.Machine.execExitRelease e s
  | .cinTileReset e v => Sys2Proof.Machine.execCinTileReset e v s
  | .cinCoreReset e v => Sys2Proof.Machine.execCinCoreReset e v s
  | .safeInNRise e => Sys2Proof.Machine.execSafeInNRise e s
  | .testenLow e => Sys2Proof.Machine.execTestenLow e s
  | .referenceReturn e => Sys2Proof.Machine.execReferenceReturn e s
  | .pcieLinkDown e => Sys2Proof.Machine.execPcieLinkDown e s
  | .pcieLinkUp e rate width flit rev => Sys2Proof.Machine.execPcieLinkUp e rate width flit rev s
  | .msixUnmask e f op => Sys2Proof.Machine.execMsixUnmask e f op s
  | .dramWrite e f addr data bad fixed lat pages => Sys2Proof.Machine.execDramWrite e f addr data bad fixed lat pages s
  | .isotpNTimeout e c began => Sys2Proof.Machine.execIsotpNTimeout e c began s
  | .phyResetRelease e en => Sys2Proof.Machine.execPhyResetRelease e en s
  | .xtalTempRead e temp => Sys2Proof.Machine.execXtalTempRead e temp s
  | .umbAgeIncrement e => Sys2Proof.Machine.execUmbAgeIncrement e s

end Sys2Proof.Machine
end

