-- ==== Sys2Proof/Safety.lean ====
section
/-! DEFINITION. What counts as a safe state and a safe run in the terms the claims use. -/

namespace Sys2Proof.Machine

/-- The tables of registers are in canonical form: no field is listed at its reset value, keys rise. -/
def State.regsWf (s : State) : Bool := Tab.wf [] s.regs && s.regs.all (fun e => Tab.wf 0 e.2)

/-- Both memories are in canonical form. -/
def State.memWf (s : State) : Bool := Memory.wf s.dramZero s.dram && Memory.wf [] s.lake

/-- A run of k steps is safe: it ends in a next state. -/
def safeRun (k : Nat) (s : State) : Bool :=
  match Sys2Proof.core.run k s with
  | .next _ => true
  | _ => false

/-- A command answers a next state, of which a property holds. -/
def gives (c : Instr) (s : State) (P : State → Prop) : Prop := ∃ t, exec c s = .next t ∧ P t

/-- A context executes step word w, of an opcode, at its boundary: it runs, nothing precedes the word, the word's condition holds
and its unused bits are 0 (R154, R169). -/
def State.runsWord (s : State) (x op w : Nat) : Bool :=
  s.ctxRuns x && !s.preceded x && s.stepWord x == some w && opcodeOf w == op && s.stepCond x w == some true && formOk w

/-- Does a block with CSEQ q come next in order on a port: it is the first that the port takes, or the one after the last that it
acknowledged (R231, R238). -/
def State.inOrder (s : State) (p q : Nat) : Bool :=
  match (s.port p).ackSeq with
  | some a => q % 256 == (a + 1) % 256
  | none => true

/-- A port after n blocks from CSEQ q were taken on it in order: each is acknowledged (R231). -/
def State.took (s : State) (p q n : Nat) : State :=
  (s.setPort p { s.port p with ackSeq := some ((q + n - 1) % 256) }).each (List.range n)
    (fun s k => s.emit (.lnkBlock p 0x03 [(q + k) % 256]))

end Sys2Proof.Machine
end

