-- ==== Sys2Proof/Touches.lean ====
section
/-! DEFINITION. What each command may change at most: registers, the memories, and what leaves the device. Claims that a command
leaves the rest alone are stated by this table. -/

namespace Sys2Proof.Machine

/-- What a command may change at most: fields of the registers listed, bytes of Lake and DRAM, and what is sent. -/
structure Touch where
  regs : List Reg
  mem : Bool
  out : Bool
  deriving DecidableEq, Repr

/-- The registers that count device time; they change as time passes, whatever is commanded (R202). -/
def timeRegs : List Reg := [.UMB_DT, .UMB_ERA]

/-- The registers that an entry into safe state may change (R363–R367): a command that may raise a fault of class F, or of an escalated
class U, may enter safe state. -/
def safeRegs : List Reg :=
  [.DEV_STATE, .PWR_STAT, .PWR_GROUP_STATE, .MDR_SITE_STATE, .MDR_SITE_CMD_RES, .MDR_SITE_DONE_DT, .VST_SLOTS, .VST_SLICE,
   .SLP_STAT, .WOD_FAULT_STAT, .WOD_CH_STAT, .WOD_CH_DROPS, .SEP_CMP_CH_STAT, .SEP_CAP_TFAULT_STAT, .SEP_CAP_STAGE,
   .SEP_CAP_FAULT_STAT, .SEP_CAP_FAILS, .SEP_CAP_FF_DT, .SEP_CAP_FF_REC, .SEP_CAP_STAT, .SEP_CAP_LOST, .MDR_STEP_STAT,
   .MDR_STEP_BIN, .MDR_STEP_TRIM, .MDR_STEP_SYNC_STAT, .SEP_ACQ_CH_STAT, .TIA_CH_STAT, .TIA_CH_DONE_DT, .MRD_CH_REFL,
   .MRD_FAULT_STAT, .MRD_REFL_STAT, .MRD_REFL_DT, .BUS_STAT, .CIN_STAT, .CIN_CAUSE, .CIN_CAUSE_SEEN, .CIN_ENTRY_DT,
   .CIN_ENTRIES, .CIN_SAT, .CIN_FAULT_STAT]

/-- The registers that a command may change at most, beside those of device time; none for a reset of the device and for a register
access, which reach every register. -/
def touches : Instr → Option Touch
  | .powerOnReset .. => none
  | .vauxUnderVoltage .. => none
  | .railsGood .. => some ⟨[.PWR_RAIL_STAT, .PWR_STAT], false, false⟩
  | .railUnderVoltage .. => some ⟨safeRegs ++ [.PWR_RAIL_STAT, .PWR_FAULT_STAT], false, true⟩
  | .coreIslandAdmission .. => some ⟨[], false, false⟩
  | .tileCommonAdmission .. => some ⟨[.PWR_STAT, .PWR_GROUP_STATE, .TLK_STAT, .TLK_CORE_STAT], false, false⟩
  | .ladderRequest .. => some ⟨[.PWR_STAT, .PWR_GROUP_STATE], false, true⟩
  | .ladderSlot .. => some ⟨[.PWR_STAT, .PWR_GROUP_STATE, .SEP_CMP_CH_LIVE], false, false⟩
  | .groupSettleEnd .. => some ⟨safeRegs ++ [.PWR_FAULT_STAT, .MDR_SITE_FCAUSE, .SEP_CMP_CH_LIVE], false, true⟩
  | .poweringEnd .. => some ⟨[.DEV_STATE, .PWR_STAT], false, false⟩
  | .resetNFall .. => some ⟨[], false, false⟩
  | .deviceReset .. => none
  | .resetNRise .. => none
  | .devReset .. => none
  | .testenHigh .. => some ⟨[], false, false⟩
  | .pwrSleepSet .. => some ⟨[.PWR_STAT, .PWR_SLEEP_SET, .MDR_SITE_STATE], false, false⟩
  | .pwrSleepClr .. => some ⟨[.PWR_SLEEP_SET, .MDR_SITE_STATE], false, false⟩
  | .dormantRequest .. => some ⟨[.DEV_STATE, .PWR_STAT, .PWR_GROUP_STATE], false, false⟩
  | .dormantEntryComplete .. => some ⟨[.DEV_STATE, .PWR_STAT, .UMB_STAT, .UMB_FAULT_STAT, .TLK_STAT, .TLK_CORE_STAT,
      .LNK_TIME_STAT, .LNK_PORT_STAT, .LAK_STATE, .DMC_OP_STAT, .DMC_CH_STAT], false, false⟩
  | .wake .. => some ⟨[.DEV_STATE, .PWR_STAT, .PWR_GROUP_STATE], false, false⟩
  | .wakeComplete .. => some ⟨[.DEV_STATE, .PWR_STAT, .LAK_STATE, .DMC_OP_STAT, .DMC_CH_STAT, .PCI_MSIX0_PBA, .PCI_MSIX1_PBA], false, true⟩
  | .thermalConversion .. => some ⟨safeRegs ++ [.DEV_TEMP, .DEV_FAULT_STAT], false, true⟩
  | .loadStart .. => some ⟨safeRegs ++ [.CFG_STAT, .CFG_FAIL, .CFG_FAULT_STAT], false, true⟩
  | .slotReadStart .. => some ⟨safeRegs ++ [.CFG_STAT, .CFG_FAIL, .CFG_FAULT_STAT], false, true⟩
  | .imageRecordArrival .. => some ⟨safeRegs ++ [.CFG_STAT, .CFG_FAIL, .CFG_FAULT_STAT], true, true⟩
  | .dramTrainingComplete .. => some ⟨safeRegs ++ [.CFG_STAT, .CFG_FAIL, .CFG_FAULT_STAT, .DMC_OP_STAT, .DMC_CH_STAT], true, true⟩
  | .lastRecordRead .. => some ⟨safeRegs ++ [.CFG_STAT, .CFG_FAIL, .CFG_FAULT_STAT], false, true⟩
  | .checksComplete .. => some ⟨safeRegs ++ [.CFG_STAT, .CFG_FAIL, .CFG_FAULT_STAT], false, true⟩
  | .commit .. => some ⟨[.DEV_STATE, .DEV_NUMBER, .PWR_LADDER_CFG, .PWR_WAKE_CFG, .CFG_STAT, .CFG_FAIL, .CFG_IMAGE, .CFG_HASH,
      .CFG_LOAD_DT, .CFG_FAULT_STAT, .SMAP_QUAD, .SMAP_BUSMODE, .SMAP_SITE, .SMAP_TSLICE, .MDR_SITE_STATE, .MDR_SITE_CMD_RES,
      .MDR_SITE_SPAN, .MDR_SITE_FCAUSE, .VST_SLOTS, .VST_SLICE, .SLP_PATCH, .SLP_STAT, .WOD_FAULT_STAT, .WOD_SLICE_TS,
      .WOD_SLICE_PERIOD, .WOD_PERIOD, .WOD_CH_PIN, .WOD_CH_STAT, .WOD_CH_DROPS, .SEP_CMP_CH_CFG, .SEP_CMP_CH_VTH,
      .SEP_CMP_CH_VTT, .MDR_STEP_BIN, .MDR_STEP_TRIM, .MDR_STEP_PATCH, .MDR_STEP_PDIR, .MDR_STEP_SYNC_STAT, .SEP_ACQ_CH_STAT,
      .TIA_CH_STAT, .TIA_CH_DONE_DT, .UMB_CFG, .UMB_STAT, .MRD_CH_REFL, .MRD_FAULT_STAT, .MRD_REFL_STAT, .MRD_REFL_DT,
      .LNK_TIME_STAT, .LNK_PORT_STAT, .BUS_CFG, .BUS_CTRL, .BUS_STAT, .BUS_TX_RES, .BUS_GATE, .BUS_EV_CFG, .BUS_CAN_ERR,
      .BUS_CNT, .BUS_RX_BASE, .BUS_SR_BASE, .BUS_RX_CFG, .BUS_SR_CFG, .BUS_RX_WR, .BUS_RX_RD, .BUS_SR_WR, .BUS_SR_RD,
      .BUS_RX_LOST, .BUS_SR_LOST, .BUS_FILT_VAL, .BUS_FILT_MSK, .BUS_LIN_RESP, .BUS_LIN_DATA, .BUS_MDIO_RES, .SAF_CFG, .SVC_FW,
      .SVC_CORE_STAT, .SVC_PLAN_STAT, .SVC_DUTS, .SVC_LAST, .EVF_STAT, .EVF_LOOPSTAT, .EVF_TRIGOUT_SRC, .EVF_BCAST, .EVF_COINC,
      .EVF_CHEVSEL, .EVF_TIMER_CFG, .EVF_CH_CFG, .EVF_CH_CNT, .EVF_MATRIX, .IRC_HOLDOFF, .IRC_SRC, .LAK_OWNER, .LAK_STATE,
      .LAK_BANK_STAT, .DMC_CFG, .DMC_REGION, .CIN_SAT, .CIN_FAULT_STAT], true, true⟩
  | .reload .. => some ⟨[.CFG_STAT, .CFG_FAIL, .CFG_FAULT_STAT], false, false⟩
  | .precheckComplete .. => some ⟨[.CFG_STAT, .CFG_FAIL, .CFG_FAULT_STAT], false, false⟩
  | .reloadTeardown .. => some ⟨safeRegs ++ [.CFG_STAT, .CFG_FAIL, .CFG_FAULT_STAT, .MDR_SITE_SPAN, .MDR_SITE_FCAUSE,
      .SVC_PLAN_STAT, .EVF_STAT, .DMC_FAULT_STAT, .HRG_CMD_DONE, .HRG_MGT_DONE], true, true⟩
  | .fuseProgramKeyHash .. => some ⟨[.CFG_FUSE_RES], false, false⟩
  | .fuseRaiseSecver .. => some ⟨[.CFG_FUSE_RES], false, false⟩
  | .fuseOpComplete .. => some ⟨[.CFG_FUSE_STAT, .CFG_FUSE_RES], false, false⟩
  | .siteArm .. => some ⟨safeRegs ++ [.PWR_SLEEP_SET, .MDR_SITE_FCAUSE, .MDR_STEP_PC, .MDR_STEP_G, .MDR_STEP_EVL,
      .LAK_FAULT_STAT, .DMC_FAULT_STAT], false, true⟩
  | .siteAbort .. => some ⟨[.MDR_SITE_CMD_RES], false, false⟩
  | .siteAck .. => some ⟨[.DEV_STATE, .MDR_SITE_STATE, .MDR_SITE_CMD_RES, .MDR_STEP_SYNC_STAT], false, true⟩
  | .siteReset .. => some ⟨[.MDR_SITE_CMD_RES], false, true⟩
  | .siteResetRelease .. => some ⟨[.DEV_STATE, .PWR_STAT, .PWR_GROUP_STATE, .MDR_SITE_STATE, .MDR_SITE_CMD_RES,
      .MDR_SITE_STALL, .MDR_SITE_STALL_DT, .MDR_SITE_RESUME_DT, .MDR_SITE_HOLDS, .MDR_SITE_FCAUSE, .VST_SLOTS, .VST_SLICE,
      .SLP_STAT, .SLP_POS, .SLP_VCOUNT, .SLP_JUMPSTAT, .SLP_JUMP_DT, .SLP_CTRLCRC, .WOD_FAULT_STAT, .WOD_SLICE_TS,
      .WOD_SLICE_BOUNDARY, .WOD_CH_STAT, .WOD_CH_DROPS, .SEP_CMP_CH_FAILS, .SEP_CMP_CH_STAT, .SEP_CMP_SLICE_FAILVEC,
      .SEP_CMP_SLICE_FAILS, .SEP_CAP_FAILS, .SEP_CAP_FF_DT, .SEP_CAP_FF_REC, .SEP_CAP_STAT, .SEP_CAP_STOP_DT, .SEP_CAP_LOST,
      .SEP_CAP_LOGGED, .MDR_STEP_STAT, .MDR_STEP_PC, .MDR_STEP_FAULT, .MDR_STEP_BIN, .MDR_STEP_EVDT, .MDR_STEP_SVC_RES,
      .MDR_STEP_EVSTAT, .MDR_STEP_TRIM, .MDR_STEP_G, .MDR_STEP_EVL, .MDR_STEP_STACK, .MDR_STEP_SYNC_STAT, .SEP_ACQ_CH_STAT,
      .SEP_ACQ_LOST, .SEP_ACQ_LOGGED, .TIA_CH_STAT, .TIA_CH_COUNT, .TIA_CH_SUM, .TIA_CH_MIN, .TIA_CH_MAX, .TIA_CH_MEAN,
      .TIA_CH_SD, .TIA_CH_M2, .TIA_CH_AUX, .TIA_CH_START_DT, .TIA_CH_DONE_DT, .MRD_CH_REFL, .MRD_FAULT_STAT, .MRD_REFL_STAT,
      .MRD_REFL_DT, .SAF_STAT, .SAF_CORE, .SAF_LEVEL, .SAF_DELAY, .CIN_SAT, .CIN_FAULT_STAT], false, false⟩
  | .staleCheck .. => some ⟨[.DEV_STATE, .MDR_SITE_STATE, .MDR_SITE_CMD_RES, .MDR_SITE_STAT, .SLP_STAT, .MDR_STEP_STAT,
      .MDR_STEP_SYNC_STAT, .TIA_CH_STAT, .TIA_CH_DONE_DT], false, true⟩
  | .startInstant .. => some ⟨safeRegs ++ [.PWR_SLIP, .MDR_SITE_START_DT, .MDR_SITE_FCAUSE, .VST_FAULT_STAT, .SLP_VCOUNT,
      .SEP_CMP_CH_FAILS, .SEP_CMP_SLICE_FAILVEC, .SEP_CMP_SLICE_FAILS, .SEP_CAP_STOP_DT, .SEP_CAP_LOGGED, .SEP_ACQ_LOST,
      .SEP_ACQ_LOGGED], false, true⟩
  | .sliceMissedRelease .. => some ⟨safeRegs ++ [.MDR_SITE_FCAUSE, .VST_FAULT_STAT, .SLP_FAULT_STAT, .SLP_JUMPSTAT,
      .SLP_JUMP_DT, .WOD_SLICE_TS, .WOD_SLICE_BOUNDARY], false, true⟩
  | .stoppingComplete .. => some ⟨safeRegs ++ [.MDR_SITE_FCAUSE], false, true⟩
  | .joinSend .. => some ⟨[], false, true⟩
  | .vectorNext .. => some ⟨safeRegs ++ [.MDR_SITE_FCAUSE, .VST_FAULT_STAT, .SLP_FAULT_STAT, .SLP_POS, .SLP_VCOUNT,
      .SLP_CTRLCRC, .WOD_SLICE_TS, .WOD_SLICE_PERIOD, .WOD_SLICE_BOUNDARY, .WOD_SLICE_STAT], false, true⟩
  | .vectorRepeat .. => some ⟨safeRegs ++ [.MDR_SITE_FCAUSE, .VST_FAULT_STAT, .SLP_FAULT_STAT, .SLP_POS, .SLP_VCOUNT,
      .SLP_CTRLCRC, .WOD_SLICE_TS, .WOD_SLICE_PERIOD, .WOD_SLICE_BOUNDARY, .WOD_SLICE_STAT], false, true⟩
  | .loopBegin .. => some ⟨safeRegs ++ [.MDR_SITE_FCAUSE, .VST_FAULT_STAT, .SLP_FAULT_STAT, .SLP_POS, .SLP_VCOUNT,
      .SLP_CTRLCRC, .WOD_SLICE_TS, .WOD_SLICE_PERIOD, .WOD_SLICE_BOUNDARY, .WOD_SLICE_STAT], false, true⟩
  | .loopEnd .. => some ⟨safeRegs ++ [.MDR_SITE_FCAUSE, .VST_FAULT_STAT, .SLP_FAULT_STAT, .SLP_POS, .SLP_VCOUNT, .SLP_CTRLCRC,
      .WOD_SLICE_TS, .WOD_SLICE_PERIOD, .WOD_SLICE_BOUNDARY, .WOD_SLICE_STAT], false, true⟩
  | .matchPass .. => some ⟨safeRegs ++ [.MDR_SITE_FCAUSE, .VST_FAULT_STAT, .SLP_FAULT_STAT, .SLP_POS, .SLP_VCOUNT,
      .SLP_CTRLCRC, .WOD_SLICE_TS, .WOD_SLICE_PERIOD, .WOD_SLICE_BOUNDARY, .WOD_SLICE_STAT], false, true⟩
  | .altVector .. => some ⟨safeRegs ++ [.MDR_SITE_FCAUSE, .VST_FAULT_STAT, .SLP_FAULT_STAT, .SLP_POS, .SLP_VCOUNT,
      .SLP_CTRLCRC, .WOD_SLICE_TS, .WOD_SLICE_PERIOD, .WOD_SLICE_BOUNDARY, .WOD_SLICE_STAT], false, true⟩
  | .endVector .. => some ⟨safeRegs ++ [.MDR_SITE_FCAUSE, .VST_FAULT_STAT, .SLP_FAULT_STAT, .SLP_POS, .SLP_VCOUNT,
      .SLP_CTRLCRC, .WOD_SLICE_TS, .WOD_SLICE_PERIOD, .WOD_SLICE_BOUNDARY, .WOD_SLICE_STAT], false, true⟩
  | .code7 .. => some ⟨safeRegs ++ [.MDR_SITE_FCAUSE, .VST_FAULT_STAT, .SLP_FAULT_STAT, .SLP_POS, .SLP_VCOUNT, .SLP_CTRLCRC,
      .WOD_SLICE_TS, .WOD_SLICE_PERIOD, .WOD_SLICE_BOUNDARY, .WOD_SLICE_STAT], false, true⟩
  | .granuleCheckPoint .. => some ⟨safeRegs ++ [.MDR_SITE_FCAUSE, .VST_FAULT_STAT, .WOD_SLICE_BOUNDARY], false, true⟩
  | .holdRelease .. => some ⟨[.DEV_STATE, .MDR_SITE_STATE, .MDR_SITE_CMD_RES, .MDR_SITE_STALL, .MDR_SITE_STALL_DT,
      .MDR_SITE_RESUME_DT, .MDR_SITE_HOLDS, .MDR_SITE_STAT, .VST_SLOTS, .VST_SLICE, .SLP_STAT, .WOD_FAULT_STAT,
      .WOD_SLICE_BOUNDARY, .WOD_CH_STAT, .WOD_CH_DROPS, .SEP_CMP_CH_STAT, .SEP_CAP_TFAULT_STAT, .SEP_CAP_STAGE,
      .SEP_CAP_FAULT_STAT, .SEP_CAP_FAILS, .SEP_CAP_FF_DT, .SEP_CAP_FF_REC, .SEP_CAP_STAT, .SEP_CAP_LOST, .MDR_STEP_STAT,
      .MDR_STEP_BIN, .MDR_STEP_TRIM, .MDR_STEP_SYNC_STAT, .MRD_CH_REFL, .MRD_FAULT_STAT, .MRD_REFL_STAT, .MRD_REFL_DT,
      .CIN_SAT, .CIN_FAULT_STAT], false, true⟩
  | .refillGranuleComplete .. => some ⟨[.VST_DEMAND, .VST_FAULT_STAT, .VST_SLICE], false, false⟩
  | .sliceReadyReport .. => some ⟨[], false, true⟩
  | .resumeRelease .. => some ⟨safeRegs ++ [.MDR_SITE_RESUME_DT, .MDR_SITE_FCAUSE, .VST_FAULT_STAT], false, true⟩
  | .segmentAdmission .. => some ⟨safeRegs ++ [.MDR_SITE_FCAUSE, .VST_FAULT_STAT, .LAK_FAULT_STAT, .DMC_FAULT_STAT], false, true⟩
  | .queueEntryRelease .. => some ⟨safeRegs ++ [.MDR_SITE_FCAUSE], false, true⟩
  | .eventJumpRequest .. => some ⟨[.SLP_STAT], false, false⟩
  | .jumpHonoured .. => some ⟨safeRegs ++ [.MDR_SITE_FCAUSE, .VST_FAULT_STAT, .SLP_JUMPSTAT, .SLP_JUMP_DT, .WOD_SLICE_TS], false, true⟩
  | .ctrlCrcReport .. => some ⟨safeRegs ++ [.MDR_SITE_FCAUSE, .SLP_FAULT_STAT], false, true⟩
  | .slpJumpCfgWrite .. => some ⟨[.SLP_JUMP_CFG], false, false⟩
  | .slpLooppreWrite .. => some ⟨[.SLP_LOOPPRE], false, false⟩
  | .slpMatchTmoWrite .. => some ⟨[.SLP_MATCH_TMO], false, false⟩
  | .waveformRead .. => some ⟨[.WOD_WF_RES], false, false⟩
  | .waveformWrite .. => some ⟨[.WOD_WF_RES], false, false⟩
  | .waveformAccessComplete .. => some ⟨safeRegs ++ [.MDR_SITE_FCAUSE, .WOD_WF_DATA, .WOD_WF_RES], false, true⟩
  | .wodPeriodWrite .. => some ⟨[.WOD_SLICE_STAT, .WOD_PERIOD], false, false⟩
  | .wodSliceTsWrite .. => some ⟨[.WOD_SLICE_TS, .WOD_SLICE_STAT], false, false⟩
  | .wodChCfgWrite .. => some ⟨[.WOD_CH_CFG], false, false⟩
  | .driveEvent .. => some ⟨[.WOD_FAULT_STAT, .WOD_CH_STAT, .WOD_CH_DROPS, .CIN_SAT, .CIN_FAULT_STAT], false, false⟩
  | .strobe .. => some ⟨[.SEP_CMP_CH_LIVE, .SEP_CMP_CH_FAILS, .SEP_CMP_FAULT_STAT, .SEP_CMP_SLICE_FAILVEC,
      .SEP_CMP_SLICE_FAILS, .SEP_CAP_TFAULT_STAT, .SEP_CAP_STAGE, .SEP_CAP_FF_DT, .SEP_CAP_FF_REC, .SEP_CAP_STAT,
      .SEP_CAP_LOST, .CIN_SAT, .CIN_FAULT_STAT], false, false⟩
  | .windowEnd .. => some ⟨[.SEP_CMP_CH_FAILS, .SEP_CMP_FAULT_STAT, .SEP_CMP_SLICE_FAILVEC, .SEP_CMP_SLICE_FAILS,
      .SEP_CAP_TFAULT_STAT, .SEP_CAP_STAGE, .SEP_CAP_FF_DT, .SEP_CAP_FF_REC, .SEP_CAP_STAT, .SEP_CAP_LOST, .CIN_SAT,
      .CIN_FAULT_STAT], false, false⟩
  | .timingSetRelease .. => some ⟨[.WOD_SLICE_TS], false, false⟩
  | .comparatorSettingWrite .. => some ⟨[.SEP_CMP_CH_CFG, .SEP_CMP_CH_VTH, .SEP_CMP_CH_VTT, .SEP_CMP_CH_LIVE, .SEP_CMP_CH_STAT], false, false⟩
  | .settlingEnd .. => some ⟨[.SEP_CMP_CH_LIVE], false, true⟩
  | .sepCmpChMaskWrite .. => some ⟨[.SEP_CMP_CH_MASK, .SEP_CMP_CH_STAT], false, false⟩
  | .granuleCountsAdd .. => some ⟨safeRegs ++ [.MDR_SITE_FCAUSE], false, true⟩
  | .failRecordArrival .. => some ⟨safeRegs ++ [.MDR_SITE_FCAUSE, .SEP_CAP_RING_WR, .SEP_CAP_LOGGED, .LAK_FAULT_STAT,
      .DMC_FAULT_STAT], true, true⟩
  | .stopDecision .. => some ⟨[], false, true⟩
  | .stopRelease .. => some ⟨safeRegs ++ [.MDR_SITE_FCAUSE, .SEP_CAP_STOP_DT], false, true⟩
  | .captureRingRdWrite .. => some ⟨[.SEP_CAP_RING_RD], false, false⟩
  | .stepWordFetch .. => some ⟨safeRegs ++ [.MDR_STEP_FAULT_STAT, .LAK_FAULT_STAT, .DMC_FAULT_STAT], false, true⟩
  | .stepBoundarySample .. => some ⟨safeRegs ++ [.MDR_SITE_FCAUSE, .MDR_STEP_PC, .MDR_STEP_FAULT, .MDR_STEP_STACK,
      .MDR_STEP_FAULT_STAT], false, true⟩
  | .nop .. => some ⟨safeRegs ++ [.MDR_SITE_FCAUSE, .MDR_STEP_PC, .MDR_STEP_FAULT, .MDR_STEP_FAULT_STAT], false, true⟩
  | .play .. => some ⟨safeRegs ++ [.MDR_SITE_FCAUSE, .MDR_STEP_PC, .MDR_STEP_FAULT, .MDR_STEP_FAULT_STAT], false, true⟩
  | .jseg .. => some ⟨safeRegs ++ [.MDR_SITE_FCAUSE, .MDR_STEP_PC, .MDR_STEP_FAULT, .MDR_STEP_FAULT_STAT], false, true⟩
  | .tset .. => some ⟨safeRegs ++ [.MDR_SITE_FCAUSE, .MDR_STEP_PC, .MDR_STEP_FAULT, .MDR_STEP_FAULT_STAT], false, true⟩
  | .acq .. => some ⟨safeRegs ++ [.MDR_SITE_FCAUSE, .MDR_STEP_PC, .MDR_STEP_FAULT, .MDR_STEP_FAULT_STAT], false, true⟩
  | .meas .. => some ⟨safeRegs ++ [.MDR_SITE_FCAUSE, .MDR_STEP_PC, .MDR_STEP_FAULT, .MDR_STEP_FAULT_STAT, .TIA_CH_COUNT,
      .TIA_CH_SUM, .TIA_CH_MIN, .TIA_CH_MAX, .TIA_CH_MEAN, .TIA_CH_SD, .TIA_CH_M2, .TIA_CH_AUX], false, true⟩
  | .mget .. => some ⟨safeRegs ++ [.MDR_SITE_FCAUSE, .MDR_STEP_PC, .MDR_STEP_FAULT, .MDR_STEP_G, .MDR_STEP_FAULT_STAT], false, true⟩
  | .waitev .. => some ⟨safeRegs ++ [.MDR_SITE_FCAUSE, .MDR_STEP_PC, .MDR_STEP_FAULT, .MDR_STEP_EVDT, .MDR_STEP_EVL,
      .MDR_STEP_FAULT_STAT], false, true⟩
  | .waitdt .. => some ⟨safeRegs ++ [.MDR_SITE_FCAUSE, .MDR_STEP_PC, .MDR_STEP_FAULT, .MDR_STEP_FAULT_STAT], false, true⟩
  | .drain .. => some ⟨safeRegs ++ [.MDR_SITE_FCAUSE, .MDR_STEP_PC, .MDR_STEP_FAULT, .MDR_STEP_FAULT_STAT], false, true⟩
  | .sync .. => some ⟨safeRegs ++ [.MDR_SITE_FCAUSE, .MDR_STEP_PC, .MDR_STEP_FAULT, .MDR_STEP_FAULT_STAT], false, true⟩
  | .trimok .. => some ⟨safeRegs ++ [.MDR_SITE_FCAUSE, .MDR_STEP_PC, .MDR_STEP_FAULT, .MDR_STEP_FAULT_STAT], false, true⟩
  | .jmp .. => some ⟨safeRegs ++ [.MDR_SITE_FCAUSE, .MDR_STEP_PC, .MDR_STEP_FAULT, .MDR_STEP_FAULT_STAT], false, true⟩
  | .call .. => some ⟨safeRegs ++ [.MDR_SITE_FCAUSE, .MDR_STEP_PC, .MDR_STEP_FAULT, .MDR_STEP_STACK, .MDR_STEP_FAULT_STAT], false, true⟩
  | .ret .. => some ⟨safeRegs ++ [.MDR_SITE_FCAUSE, .MDR_STEP_PC, .MDR_STEP_FAULT, .MDR_STEP_FAULT_STAT], false, true⟩
  | .dbnz .. => some ⟨safeRegs ++ [.MDR_SITE_FCAUSE, .MDR_STEP_PC, .MDR_STEP_FAULT, .MDR_STEP_G, .MDR_STEP_FAULT_STAT], false, true⟩
  | .ldi .. => some ⟨safeRegs ++ [.MDR_SITE_FCAUSE, .MDR_STEP_PC, .MDR_STEP_FAULT, .MDR_STEP_G, .MDR_STEP_FAULT_STAT], false, true⟩
  | .addi .. => some ⟨safeRegs ++ [.MDR_SITE_FCAUSE, .MDR_STEP_PC, .MDR_STEP_FAULT, .MDR_STEP_G, .MDR_STEP_FAULT_STAT], false, true⟩
  | .add .. => some ⟨safeRegs ++ [.MDR_SITE_FCAUSE, .MDR_STEP_PC, .MDR_STEP_FAULT, .MDR_STEP_G, .MDR_STEP_FAULT_STAT], false, true⟩
  | .sub .. => some ⟨safeRegs ++ [.MDR_SITE_FCAUSE, .MDR_STEP_PC, .MDR_STEP_FAULT, .MDR_STEP_G, .MDR_STEP_FAULT_STAT], false, true⟩
  | .mov .. => some ⟨safeRegs ++ [.MDR_SITE_FCAUSE, .MDR_STEP_PC, .MDR_STEP_FAULT, .MDR_STEP_G, .MDR_STEP_FAULT_STAT], false, true⟩
  | .get .. => some ⟨safeRegs ++ [.MDR_SITE_FCAUSE, .MDR_STEP_PC, .MDR_STEP_FAULT, .MDR_STEP_G, .MDR_STEP_FAULT_STAT], false, true⟩
  | .cmpi .. => some ⟨safeRegs ++ [.MDR_SITE_FCAUSE, .MDR_STEP_PC, .MDR_STEP_FAULT, .MDR_STEP_FAULT_STAT], false, true⟩
  | .cmp .. => some ⟨safeRegs ++ [.MDR_SITE_FCAUSE, .MDR_STEP_PC, .MDR_STEP_FAULT, .MDR_STEP_FAULT_STAT], false, true⟩
  | .bin .. => some ⟨safeRegs ++ [.MDR_SITE_FCAUSE, .MDR_STEP_PC, .MDR_STEP_FAULT, .MDR_STEP_FAULT_STAT], false, true⟩
  | .dlog .. => some ⟨safeRegs ++ [.MDR_SITE_FCAUSE, .MDR_STEP_PC, .MDR_STEP_FAULT, .MDR_STEP_FAULT_STAT, .SAF_STAT,
      .SAF_FAULT_STAT, .SAF_LEVEL, .SAF_DELAY], false, true⟩
  | .bustx .. => some ⟨safeRegs ++ [.MDR_SITE_FCAUSE, .MDR_STEP_PC, .MDR_STEP_FAULT, .MDR_STEP_FAULT_STAT, .LAK_FAULT_STAT,
      .DMC_FAULT_STAT], false, true⟩
  | .req .. => some ⟨safeRegs ++ [.MDR_SITE_FCAUSE, .MDR_STEP_PC, .MDR_STEP_FAULT, .MDR_STEP_SVC_RES, .MDR_STEP_FAULT_STAT,
      .SAF_STAT, .SAF_FAULT_STAT, .SAF_LEVEL, .SAF_DELAY], false, true⟩
  | .stop .. => some ⟨safeRegs ++ [.MDR_SITE_FCAUSE, .MDR_STEP_PC, .MDR_STEP_FAULT, .MDR_STEP_FAULT_STAT], false, true⟩
  | .eventLatch .. => some ⟨[.MDR_STEP_EVSTAT, .MDR_STEP_EVL], false, false⟩
  | .waitTimeout .. => some ⟨[.MDR_STEP_STAT, .MDR_STEP_PC, .MDR_STEP_SYNC_STAT], false, false⟩
  | .serviceResult .. => some ⟨[.MDR_STEP_STAT, .MDR_STEP_PC, .MDR_STEP_SVC_RES], false, false⟩
  | .syncRelease .. => some ⟨[.MDR_STEP_STAT, .MDR_STEP_PC, .MDR_STEP_SYNC_STAT, .MDR_STEP_SYNC_DT], false, false⟩
  | .trapFiring .. => some ⟨[.MDR_STEP_STAT, .MDR_STEP_EVSTAT], false, false⟩
  | .trimWindowClose .. => some ⟨[.MDR_SITE_STATE, .MDR_STEP_TRIM, .MRD_CH_REFL, .MRD_FAULT_STAT, .MRD_REFL_STAT, .MRD_REFL_DT], false, true⟩
  | .sliceEndReport .. => some ⟨safeRegs ++ [.MDR_SITE_FCAUSE], false, true⟩
  | .syncMemberWrite .. => some ⟨[.MDR_STEP_SYNC_MEM, .MDR_STEP_SYNC_STAT], false, false⟩
  | .stepMissedRelease .. => some ⟨safeRegs ++ [.MDR_SITE_FCAUSE, .MDR_STEP_FAULT_STAT], false, true⟩
  | .acqArmCommand .. => some ⟨[.SEP_ACQ_CH_STAT], false, false⟩
  | .acqDisarmCommand .. => some ⟨[.SEP_ACQ_CH_STAT], false, false⟩
  | .acqForce .. => some ⟨[.SEP_ACQ_CH_STAT], false, false⟩
  | .acqEventArm .. => some ⟨[.SEP_ACQ_CH_STAT], false, false⟩
  | .acqArmDt .. => some ⟨[.SEP_ACQ_CH_STAT, .SEP_ACQ_CH_ARM_DT, .SEP_ACQ_TFAULT_STAT], false, false⟩
  | .sequenceOccurrence .. => some ⟨[.SEP_CMP_CH_LIVE, .SEP_ACQ_CH_STAT, .SEP_ACQ_CH_TRIGS, .SEP_ACQ_TFAULT_STAT, .CIN_SAT,
      .CIN_FAULT_STAT], false, false⟩
  | .sequenceTimer .. => some ⟨[.SEP_ACQ_CH_STAT, .SEP_ACQ_CH_TRIGS, .SEP_ACQ_TFAULT_STAT, .CIN_SAT, .CIN_FAULT_STAT], false, false⟩
  | .privilegedTriggerEval .. => some ⟨[.SEP_CMP_CH_LIVE, .SEP_ACQ_CH_STAT, .SEP_ACQ_CH_TRIGS, .SEP_ACQ_TFAULT_STAT, .CIN_SAT,
      .CIN_FAULT_STAT], false, false⟩
  | .acqAutoTimeout .. => some ⟨[.SEP_ACQ_CH_STAT, .SEP_ACQ_CH_TRIGS, .CIN_SAT, .CIN_FAULT_STAT], false, false⟩
  | .historySample .. => some ⟨[], false, false⟩
  | .postTriggerComplete .. => some ⟨[.SEP_ACQ_CH_STAT], false, false⟩
  | .acqRecordArrival .. => some ⟨safeRegs ++ [.MDR_SITE_FCAUSE, .SEP_ACQ_RING_WR, .SEP_ACQ_LOST, .SEP_ACQ_LOGGED,
      .SEP_ACQ_FAULT_STAT, .LAK_FAULT_STAT, .DMC_FAULT_STAT], true, true⟩
  | .sepAcqChCfgWrite .. => some ⟨[.SEP_ACQ_CH_CFG, .SEP_ACQ_CH_STAT, .SEP_ACQ_POOL], false, false⟩
  | .acqRingRdWrite .. => some ⟨[.SEP_ACQ_RING_RD], false, false⟩
  | .tiaStart .. => some ⟨[.TIA_CH_STAT, .TIA_CH_COUNT, .TIA_CH_SUM, .TIA_CH_MIN, .TIA_CH_MAX, .TIA_CH_MEAN, .TIA_CH_SD,
      .TIA_CH_M2, .TIA_CH_AUX], false, false⟩
  | .tiaEnd .. => some ⟨[.TIA_CH_STAT, .TIA_CH_DONE_DT], false, false⟩
  | .measStartDt .. => some ⟨[.TIA_CH_STAT, .TIA_CH_COUNT, .TIA_CH_SUM, .TIA_CH_MIN, .TIA_CH_MAX, .TIA_CH_MEAN, .TIA_CH_SD,
      .TIA_CH_M2, .TIA_CH_AUX, .TIA_CH_START_DT, .TIA_FAULT_STAT], false, false⟩
  | .measSample .. => some ⟨[.TIA_CH_STAT, .TIA_CH_COUNT, .TIA_CH_SUM, .TIA_CH_MIN, .TIA_CH_MAX, .TIA_CH_MEAN, .TIA_CH_SD,
      .TIA_CH_M2, .TIA_CH_AUX, .TIA_FAULT_STAT, .CIN_SAT, .CIN_FAULT_STAT], false, false⟩
  | .measWindowExpiry .. => some ⟨[.TIA_CH_COUNT, .CIN_SAT, .CIN_FAULT_STAT], false, false⟩
  | .gateClose .. => some ⟨[.TIA_CH_STAT, .TIA_CH_COUNT, .TIA_CH_SUM, .TIA_CH_MIN, .TIA_CH_MAX, .TIA_CH_MEAN, .TIA_CH_SD,
      .TIA_CH_M2, .TIA_CH_AUX, .TIA_FAULT_STAT, .CIN_SAT, .CIN_FAULT_STAT], false, false⟩
  | .measDone .. => some ⟨[.TIA_CH_STAT, .TIA_CH_DONE_DT], false, false⟩
  | .dtWrap .. => some ⟨[], false, false⟩
  | .umbDtRead .. => some ⟨[.UMB_ERA_LATCH], false, false⟩
  | .referenceLock .. => some ⟨[.UMB_STAT], false, false⟩
  | .referenceLoss .. => some ⟨[.UMB_STAT, .UMB_FAULT_STAT], false, false⟩
  | .xtalFail .. => some ⟨safeRegs ++ [.UMB_STAT, .UMB_FAULT_STAT], false, true⟩
  | .ppsInEdge .. => some ⟨[.UMB_PHASE_ERR, .UMB_TOD_OFFSET, .UMB_PPS_DT], false, false⟩
  | .ppsOutRise .. => some ⟨[], false, false⟩
  | .trimStepEnd .. => some ⟨[.SEP_CMP_CH_LIVE, .SEP_ACQ_CH_STAT, .SEP_ACQ_CH_ARM_DT, .TIA_CH_STAT, .TIA_CH_COUNT, .TIA_CH_SUM,
      .TIA_CH_MIN, .TIA_CH_MAX, .TIA_CH_MEAN, .TIA_CH_SD, .TIA_CH_M2, .TIA_CH_AUX, .TIA_CH_START_DT, .MRD_CH_QF, .MRD_CH_PASS,
      .MRD_TILE_STAT, .MRD_FAULT_STAT], false, false⟩
  | .trimCommit .. => some ⟨[.WOD_CH_FIXDELAY, .MRD_CH_QF, .MRD_CH_AGE, .MRD_CH_TRIM_DT, .MRD_CH_PASS, .MRD_CH_REFL,
      .MRD_TILE_STAT, .MRD_SITE_QF], false, false⟩
  | .trimCommitMissed .. => some ⟨[.MRD_FAULT_STAT], false, false⟩
  | .channelReturn .. => some ⟨[.SEP_CMP_CH_LIVE, .SEP_ACQ_CH_STAT, .SEP_ACQ_CH_ARM_DT, .TIA_CH_STAT, .TIA_CH_COUNT,
      .TIA_CH_SUM, .TIA_CH_MIN, .TIA_CH_MAX, .TIA_CH_MEAN, .TIA_CH_SD, .TIA_CH_M2, .TIA_CH_AUX, .TIA_CH_START_DT, .MRD_CH_QF,
      .MRD_TILE_STAT], false, false⟩
  | .syncPulse .. => some ⟨[], false, true⟩
  | .syncPulseReturn .. => some ⟨[.MRD_CH_QF, .MRD_CH_AGE, .MRD_TILE_STAT, .MRD_TSKEW], false, false⟩
  | .tskewLost .. => some ⟨[.MRD_FAULT_STAT], false, false⟩
  | .qualityAgeChange .. => some ⟨[.MRD_CH_QF, .MRD_CH_AGE, .MRD_TILE_STAT, .MRD_TSKEW, .MRD_FAULT_STAT, .MRD_SITE_QF], false, false⟩
  | .reflectionRequest .. => some ⟨[.SEP_CMP_CH_LIVE, .SEP_ACQ_CH_STAT, .SEP_ACQ_CH_ARM_DT, .TIA_CH_STAT, .TIA_CH_COUNT,
      .TIA_CH_SUM, .TIA_CH_MIN, .TIA_CH_MAX, .TIA_CH_MEAN, .TIA_CH_SD, .TIA_CH_M2, .TIA_CH_AUX, .TIA_CH_START_DT, .MRD_CH_QF,
      .MRD_TILE_STAT, .MRD_REFL_STAT], false, true⟩
  | .reflectionStep .. => some ⟨[.SEP_CMP_CH_LIVE, .SEP_ACQ_CH_STAT, .SEP_ACQ_CH_ARM_DT, .TIA_CH_STAT, .TIA_CH_COUNT,
      .TIA_CH_SUM, .TIA_CH_MIN, .TIA_CH_MAX, .TIA_CH_MEAN, .TIA_CH_SD, .TIA_CH_M2, .TIA_CH_AUX, .TIA_CH_START_DT, .MRD_CH_QF,
      .MRD_TILE_STAT, .MRD_REFL_STAT], false, false⟩
  | .reflectionEnd .. => some ⟨safeRegs ++ [.PWR_SLEEP_SET, .MDR_SITE_START_REQ, .MDR_SITE_FCAUSE, .MDR_STEP_PC, .MDR_STEP_ARG,
      .MDR_STEP_G, .MDR_STEP_EVL, .SVC_PLAN_STAT, .SVC_DUTS, .SVC_LAST, .LAK_FAULT_STAT, .DMC_FAULT_STAT], false, true⟩
  | .tileLinkUp .. => some ⟨[.DEV_STATE, .MDR_SITE_STATE, .MDR_SITE_CMD_RES, .MDR_SITE_FCAUSE, .VST_SLOTS, .VST_SLICE,
      .SLP_STAT, .SLP_POS, .SLP_VCOUNT, .SLP_JUMPSTAT, .SLP_JUMP_DT, .SLP_CTRLCRC, .WOD_FAULT_STAT, .WOD_SLICE_TS,
      .WOD_SLICE_BOUNDARY, .WOD_CH_STAT, .WOD_CH_DROPS, .SEP_CMP_CH_STAT, .SEP_CAP_STAGE, .MDR_STEP_BIN, .MDR_STEP_TRIM,
      .MDR_STEP_SYNC_STAT, .SEP_ACQ_CH_STAT, .TIA_CH_STAT, .TIA_CH_COUNT, .TIA_CH_SUM, .TIA_CH_MIN, .TIA_CH_MAX, .TIA_CH_MEAN,
      .TIA_CH_SD, .TIA_CH_M2, .TIA_CH_AUX, .TIA_CH_START_DT, .TIA_CH_DONE_DT, .MRD_CH_REFL, .MRD_FAULT_STAT, .MRD_REFL_STAT,
      .MRD_REFL_DT, .TLK_STAT, .TLK_CORE_STAT, .TLK_CORE_UPDT, .CIN_SAT, .CIN_FAULT_STAT], false, true⟩
  | .frameArrival .. => some ⟨[.TLK_ERR, .TLK_FAULT_STAT, .LNK_FAULT_STAT, .LNK_PORT_STAT, .LNK_PORT_ERR, .CIN_SAT,
      .CIN_FAULT_STAT], false, false⟩
  | .ack .. => some ⟨[], false, false⟩
  | .tileReplayTimeout .. => some ⟨safeRegs ++ [.MDR_SITE_FCAUSE, .TLK_STAT, .TLK_ERR, .TLK_FAULT_STAT, .TLK_CORE_STAT], false, true⟩
  | .tileLinkDown .. => some ⟨safeRegs ++ [.MDR_SITE_FCAUSE, .TLK_STAT, .TLK_FAULT_STAT, .TLK_CORE_STAT], false, true⟩
  | .portStart .. => some ⟨[.LNK_PORT_STAT, .LNK_PORT_TRAIN, .CIN_SAT, .CIN_FAULT_STAT], false, true⟩
  | .cap .. => some ⟨safeRegs ++ [.LNK_FAULT_STAT, .LNK_PORT_STAT], false, true⟩
  | .portRetry .. => some ⟨[.LNK_PORT_STAT, .LNK_PORT_TRAIN, .CIN_SAT, .CIN_FAULT_STAT], false, true⟩
  | .rate .. => some ⟨[], false, true⟩
  | .rateSwitch .. => some ⟨[.LNK_PORT_STAT], false, false⟩
  | .rateStepEnd .. => some ⟨[.LNK_PORT_STAT, .LNK_PORT_TRAIN, .CIN_SAT, .CIN_FAULT_STAT], false, true⟩
  | .portReplayTimeout .. => some ⟨[.DEV_STATE, .MDR_SITE_STATE, .MDR_SITE_CMD_RES, .MDR_SITE_FCAUSE, .VST_SLOTS, .VST_SLICE,
      .SLP_STAT, .WOD_FAULT_STAT, .WOD_CH_STAT, .WOD_CH_DROPS, .MDR_STEP_BIN, .MDR_STEP_TRIM, .MDR_STEP_SYNC_STAT,
      .SEP_ACQ_CH_STAT, .TIA_CH_STAT, .TIA_CH_DONE_DT, .UMB_STAT, .UMB_FAULT_STAT, .MRD_CH_REFL, .MRD_FAULT_STAT,
      .MRD_REFL_STAT, .MRD_REFL_DT, .LNK_TIME_STAT, .LNK_FAULT_STAT, .LNK_PORT_STAT, .LNK_PORT_ERR, .LNK_PORT_TRAIN, .CIN_SAT,
      .CIN_FAULT_STAT], false, true⟩
  | .portDown .. => some ⟨[.DEV_STATE, .MDR_SITE_STATE, .MDR_SITE_CMD_RES, .MDR_SITE_FCAUSE, .VST_SLOTS, .VST_SLICE, .SLP_STAT,
      .WOD_FAULT_STAT, .WOD_CH_STAT, .WOD_CH_DROPS, .MDR_STEP_BIN, .MDR_STEP_TRIM, .MDR_STEP_SYNC_STAT, .SEP_ACQ_CH_STAT,
      .TIA_CH_STAT, .TIA_CH_DONE_DT, .UMB_STAT, .UMB_FAULT_STAT, .MRD_CH_REFL, .MRD_FAULT_STAT, .MRD_REFL_STAT, .MRD_REFL_DT,
      .LNK_TIME_STAT, .LNK_FAULT_STAT, .LNK_PORT_STAT, .LNK_PORT_TRAIN, .CIN_SAT, .CIN_FAULT_STAT], false, true⟩
  | .portRetrain .. => some ⟨[.DEV_STATE, .MDR_SITE_STATE, .MDR_SITE_CMD_RES, .MDR_SITE_FCAUSE, .VST_SLOTS, .VST_SLICE,
      .SLP_STAT, .WOD_FAULT_STAT, .WOD_CH_STAT, .WOD_CH_DROPS, .MDR_STEP_BIN, .MDR_STEP_TRIM, .MDR_STEP_SYNC_STAT,
      .SEP_ACQ_CH_STAT, .TIA_CH_STAT, .TIA_CH_DONE_DT, .UMB_STAT, .UMB_FAULT_STAT, .MRD_CH_REFL, .MRD_FAULT_STAT,
      .MRD_REFL_STAT, .MRD_REFL_DT, .LNK_TIME_STAT, .LNK_FAULT_STAT, .LNK_PORT_STAT, .LNK_PORT_TRAIN, .CIN_SAT, .CIN_FAULT_STAT], false, true⟩
  | .portDisable .. => some ⟨[.DEV_STATE, .MDR_SITE_STATE, .MDR_SITE_CMD_RES, .MDR_SITE_FCAUSE, .VST_SLOTS, .VST_SLICE,
      .SLP_STAT, .WOD_FAULT_STAT, .WOD_CH_STAT, .WOD_CH_DROPS, .MDR_STEP_BIN, .MDR_STEP_TRIM, .MDR_STEP_SYNC_STAT,
      .SEP_ACQ_CH_STAT, .TIA_CH_STAT, .TIA_CH_DONE_DT, .UMB_STAT, .UMB_FAULT_STAT, .MRD_CH_REFL, .MRD_FAULT_STAT,
      .MRD_REFL_STAT, .MRD_REFL_DT, .LNK_TIME_STAT, .LNK_FAULT_STAT, .LNK_PORT_STAT, .CIN_SAT, .CIN_FAULT_STAT], false, true⟩
  | .timeExchangeStart .. => some ⟨[], false, true⟩
  | .tsync .. => some ⟨[.LNK_PORT_ERR, .CIN_SAT, .CIN_FAULT_STAT], false, true⟩
  | .treq .. => some ⟨[.UMB_STAT, .UMB_FAULT_STAT, .LNK_TIME_STAT, .LNK_FAULT_STAT, .LNK_PORT_STAT, .LNK_PORT_DELAY,
      .LNK_PORT_BCLAT], false, true⟩
  | .tresp .. => some ⟨[.SEP_ACQ_CH_STAT, .TIA_CH_STAT, .TIA_CH_DONE_DT, .UMB_DT, .UMB_ERA, .UMB_STAT, .LNK_TIME_STAT,
      .LNK_TIME_OFFS, .LNK_TIME_ADOPT, .LNK_PORT_STAT, .LNK_PORT_DELAY, .LNK_PORT_BCLAT], false, true⟩
  | .tinfo .. => some ⟨[.UMB_STAT, .UMB_TOD_OFFSET, .UMB_FAULT_STAT, .LNK_TIME_STAT, .LNK_FAULT_STAT, .LNK_PORT_STAT], false, true⟩
  | .upstreamLoss .. => some ⟨[.UMB_STAT, .UMB_FAULT_STAT, .LNK_TIME_STAT, .LNK_FAULT_STAT, .LNK_PORT_STAT], false, true⟩
  | .evbc .. => some ⟨[.DEV_STATE, .PWR_STAT, .PWR_GROUP_STATE, .LNK_FAULT_STAT, .LNK_PORT_DROP, .EVF_STAT, .EVF_FAULT_STAT,
      .EVF_LOOPSTAT, .EVF_COINC, .EVF_CH_LAST, .EVF_CH_CNT, .CIN_SAT, .CIN_FAULT_STAT], false, true⟩
  | .broadcastRelease .. => some ⟨[.DEV_STATE, .PWR_STAT, .PWR_GROUP_STATE, .LNK_PORT_DROP, .EVF_STAT, .EVF_FAULT_STAT,
      .EVF_LOOPSTAT, .EVF_COINC, .EVF_CH_LAST, .EVF_CH_CNT, .CIN_SAT, .CIN_FAULT_STAT], false, true⟩
  | .tokenJoin .. => some ⟨[.MDR_SITE_SPAN, .MDR_SITE_STAT], false, true⟩
  | .tokenJoinres .. => some ⟨[.DEV_STATE, .MDR_SITE_STATE, .MDR_SITE_CMD_RES, .MDR_SITE_FCAUSE, .VST_SLOTS, .VST_SLICE,
      .SLP_STAT, .WOD_FAULT_STAT, .WOD_CH_STAT, .WOD_CH_DROPS, .MDR_STEP_BIN, .MDR_STEP_TRIM, .MDR_STEP_SYNC_STAT,
      .SEP_ACQ_CH_STAT, .TIA_CH_STAT, .TIA_CH_DONE_DT, .MRD_CH_REFL, .MRD_FAULT_STAT, .MRD_REFL_STAT, .MRD_REFL_DT, .CIN_SAT,
      .CIN_FAULT_STAT], false, true⟩
  | .tokenEntry .. => some ⟨safeRegs ++ [.MDR_SITE_FCAUSE, .SLP_FAULT_STAT], false, true⟩
  | .tokenStart .. => some ⟨safeRegs ++ [.MDR_SITE_FCAUSE, .SLP_FAULT_STAT], false, true⟩
  | .tokenHold .. => some ⟨safeRegs ++ [.MDR_SITE_FCAUSE, .SLP_FAULT_STAT], false, true⟩
  | .tokenReady .. => some ⟨[], false, true⟩
  | .tokenResume .. => some ⟨safeRegs ++ [.MDR_SITE_FCAUSE, .SLP_FAULT_STAT], false, true⟩
  | .tokenJump .. => some ⟨safeRegs ++ [.MDR_SITE_FCAUSE, .SLP_FAULT_STAT], false, true⟩
  | .tokenStop .. => some ⟨safeRegs ++ [.MDR_SITE_FCAUSE, .SLP_FAULT_STAT], false, true⟩
  | .tokenTset .. => some ⟨safeRegs ++ [.MDR_SITE_FCAUSE, .SLP_FAULT_STAT], false, true⟩
  | .tokenState .. => some ⟨safeRegs ++ [.PWR_SLEEP_SET, .MDR_SITE_FCAUSE, .SLP_FAULT_STAT, .SEP_CMP_CH_LIVE,
      .SEP_ACQ_CH_ARM_DT, .TIA_CH_COUNT, .TIA_CH_SUM, .TIA_CH_MIN, .TIA_CH_MAX, .TIA_CH_MEAN, .TIA_CH_SD, .TIA_CH_M2,
      .TIA_CH_AUX, .TIA_CH_START_DT, .MRD_CH_QF, .MRD_TILE_STAT], false, true⟩
  | .tokenReset .. => some ⟨safeRegs ++ [.MDR_SITE_FCAUSE, .SLP_FAULT_STAT], false, true⟩
  | .tokenTrim .. => some ⟨safeRegs ++ [.PWR_SLEEP_SET, .MDR_SITE_FCAUSE, .SLP_FAULT_STAT, .SEP_CMP_CH_LIVE,
      .SEP_ACQ_CH_ARM_DT, .TIA_CH_COUNT, .TIA_CH_SUM, .TIA_CH_MIN, .TIA_CH_MAX, .TIA_CH_MEAN, .TIA_CH_SD, .TIA_CH_M2,
      .TIA_CH_AUX, .TIA_CH_START_DT, .MRD_CH_QF, .MRD_TILE_STAT], false, true⟩
  | .tokenCounts .. => some ⟨[.SEP_CAP_FAULT_STAT, .SEP_CAP_FAILS, .CIN_SAT, .CIN_FAULT_STAT], false, true⟩
  | .tokenCcrc .. => some ⟨[], false, true⟩
  | .record .. => some ⟨safeRegs ++ [.MDR_SITE_FCAUSE, .SEP_CAP_RING_WR, .SEP_CAP_LOGGED, .SEP_ACQ_RING_WR, .SEP_ACQ_LOST,
      .SEP_ACQ_LOGGED, .SEP_ACQ_FAULT_STAT, .LAK_FAULT_STAT, .DMC_FAULT_STAT], true, true⟩
  | .busRunWrite .. => some ⟨[.BUS_CTRL, .BUS_STAT], false, false⟩
  | .busFlush .. => some ⟨[.BUS_STAT], false, false⟩
  | .busRecover .. => some ⟨[.BUS_STAT], false, false⟩
  | .phyResetWrite .. => some ⟨[.BUS_CTRL], false, false⟩
  | .busTxPost .. => some ⟨safeRegs ++ [.BUS_TX_RES, .LAK_FAULT_STAT, .DMC_FAULT_STAT], false, true⟩
  | .payloadRead .. => some ⟨safeRegs ++ [.BUS_FAULT_STAT, .LAK_FAULT_STAT, .DMC_FAULT_STAT], false, true⟩
  | .frameStart .. => some ⟨[.BUS_STAT], false, true⟩
  | .arbitrationLost .. => some ⟨[.BUS_STAT, .BUS_CNT, .CIN_SAT, .CIN_FAULT_STAT], false, false⟩
  | .frameExpired .. => some ⟨[.BUS_STAT, .BUS_CNT, .CIN_SAT, .CIN_FAULT_STAT], false, false⟩
  | .txWriteBack .. => some ⟨[.BUS_STAT, .BUS_CAN_ERR, .BUS_FAULT_STAT, .BUS_CNT, .CIN_SAT, .CIN_FAULT_STAT], true, false⟩
  | .gateFiring .. => some ⟨[.BUS_STAT], false, false⟩
  | .frameReceived .. => some ⟨safeRegs ++ [.MDR_SITE_FCAUSE, .BUS_CAN_ERR, .BUS_FAULT_STAT, .BUS_CNT, .BUS_RX_WR, .BUS_SR_WR,
      .BUS_RX_LOST, .BUS_SR_LOST, .LAK_FAULT_STAT, .DMC_FAULT_STAT], true, true⟩
  | .busError .. => some ⟨safeRegs ++ [.MDR_SITE_FCAUSE, .BUS_CAN_ERR, .BUS_FAULT_STAT, .BUS_CNT, .BUS_RX_WR, .BUS_SR_WR,
      .BUS_RX_LOST, .BUS_SR_LOST, .LAK_FAULT_STAT, .DMC_FAULT_STAT], true, true⟩
  | .busOffRecovery .. => some ⟨[.BUS_STAT, .BUS_CAN_ERR], false, false⟩
  | .linHeader .. => some ⟨[.BUS_CNT, .CIN_SAT, .CIN_FAULT_STAT], false, true⟩
  | .linWakeUp .. => some ⟨safeRegs ++ [.MDR_SITE_FCAUSE, .BUS_FAULT_STAT, .BUS_CNT, .BUS_RX_WR, .BUS_SR_WR, .BUS_RX_LOST,
      .BUS_SR_LOST, .LAK_FAULT_STAT, .DMC_FAULT_STAT], true, true⟩
  | .mdioCommand .. => some ⟨[.BUS_MDIO_RES], false, false⟩
  | .mdioComplete .. => some ⟨[.BUS_MDIO_RES], false, true⟩
  | .workItemEnqueue .. => some ⟨[.SAF_STAT, .SAF_FAULT_STAT, .SAF_LEVEL, .SAF_DELAY], false, false⟩
  | .safGet .. => some ⟨[], false, false⟩
  | .dispatch .. => some ⟨safeRegs ++ [.MDR_SITE_FCAUSE, .SAF_STAT, .SAF_FAULT_STAT, .SAF_CORE, .SAF_LEVEL, .SAF_DELAY], false, true⟩
  | .itemComplete .. => some ⟨safeRegs ++ [.SAF_STAT, .SAF_CORE, .SAF_LEVEL, .SAF_DELAY, .SVC_FAULT_STAT], false, true⟩
  | .delayDue .. => some ⟨[.SAF_STAT, .SAF_FAULT_STAT, .SAF_LEVEL, .SAF_DELAY], false, false⟩
  | .watchdog .. => some ⟨safeRegs ++ [.SAF_STAT, .SAF_CORE, .SAF_LEVEL, .SAF_DELAY, .SVC_FAULT_STAT, .SVC_CORE_STAT], false, true⟩
  | .planStart .. => some ⟨safeRegs ++ [.PWR_SLEEP_SET, .MDR_SITE_START_REQ, .MDR_SITE_FCAUSE, .MDR_STEP_PC, .MDR_STEP_ARG,
      .MDR_STEP_G, .MDR_STEP_EVL, .SVC_PLAN_STAT, .SVC_DUTS, .SVC_LAST, .LAK_FAULT_STAT, .DMC_FAULT_STAT], false, true⟩
  | .planStop .. => some ⟨safeRegs ++ [.PWR_SLEEP_SET, .MDR_SITE_START_REQ, .MDR_SITE_FCAUSE, .MDR_STEP_PC, .MDR_STEP_ARG,
      .MDR_STEP_G, .MDR_STEP_EVL, .SVC_PLAN_STAT, .SVC_DUTS, .SVC_LAST, .LAK_FAULT_STAT, .DMC_FAULT_STAT], false, true⟩
  | .planAbort .. => some ⟨safeRegs ++ [.PWR_SLEEP_SET, .MDR_SITE_START_REQ, .MDR_SITE_FCAUSE, .MDR_STEP_PC, .MDR_STEP_ARG,
      .MDR_STEP_G, .MDR_STEP_EVL, .SVC_PLAN_STAT, .SVC_DUTS, .SVC_LAST, .LAK_FAULT_STAT, .DMC_FAULT_STAT], false, true⟩
  | .dutEvent .. => some ⟨safeRegs ++ [.PWR_SLEEP_SET, .MDR_SITE_START_REQ, .MDR_SITE_FCAUSE, .MDR_STEP_PC, .MDR_STEP_ARG,
      .MDR_STEP_G, .MDR_STEP_EVL, .SVC_PLAN_STAT, .SVC_DUTS, .SVC_LAST, .LAK_FAULT_STAT, .DMC_FAULT_STAT], false, true⟩
  | .planTestEnd .. => some ⟨safeRegs ++ [.PWR_SLEEP_SET, .MDR_SITE_START_REQ, .MDR_SITE_FCAUSE, .MDR_STEP_PC, .MDR_STEP_ARG,
      .MDR_STEP_G, .MDR_STEP_EVL, .SVC_PLAN_STAT, .SVC_DUTS, .SVC_LAST, .LAK_FAULT_STAT, .DMC_FAULT_STAT], false, true⟩
  | .planTimeout .. => some ⟨[], false, false⟩
  | .staleRetry .. => some ⟨safeRegs ++ [.PWR_SLEEP_SET, .MDR_SITE_START_REQ, .MDR_SITE_FCAUSE, .MDR_STEP_PC, .MDR_STEP_ARG,
      .MDR_STEP_G, .MDR_STEP_EVL, .SVC_PLAN_STAT, .SVC_DUTS, .SVC_LAST, .LAK_FAULT_STAT, .DMC_FAULT_STAT], false, true⟩
  | .reflEvent .. => some ⟨[.SEP_CMP_CH_LIVE, .SEP_ACQ_CH_STAT, .SEP_ACQ_CH_ARM_DT, .TIA_CH_STAT, .TIA_CH_COUNT, .TIA_CH_SUM,
      .TIA_CH_MIN, .TIA_CH_MAX, .TIA_CH_MEAN, .TIA_CH_SD, .TIA_CH_M2, .TIA_CH_AUX, .TIA_CH_START_DT, .MRD_CH_QF,
      .MRD_TILE_STAT, .MRD_REFL_STAT], false, true⟩
  | .datalogRecord .. => some ⟨safeRegs ++ [.SEP_CAP_RING_RD, .SEP_ACQ_RING_RD, .SVC_PLAN_STAT, .SVC_DLOST, .LAK_FAULT_STAT,
      .DMC_FAULT_STAT, .HRG_FAULT_STAT, .HRG_RES_WR], true, true⟩
  | .lost .. => some ⟨safeRegs ++ [.SVC_PLAN_STAT, .DMC_FAULT_STAT, .HRG_RES_WR], true, true⟩
  | .udsRequest .. => some ⟨safeRegs ++ [.SAF_STAT, .SAF_CORE, .SAF_LEVEL, .SAF_DELAY, .LAK_FAULT_STAT, .DMC_FAULT_STAT], true, true⟩
  | .udsSession .. => some ⟨safeRegs ++ [.SAF_STAT, .SAF_CORE, .SAF_LEVEL, .SAF_DELAY, .LAK_FAULT_STAT, .DMC_FAULT_STAT], true, true⟩
  | .security .. => some ⟨safeRegs ++ [.SAF_STAT, .SAF_CORE, .SAF_LEVEL, .SAF_DELAY, .SVC_FAULT_STAT, .LAK_FAULT_STAT,
      .DMC_FAULT_STAT, .PCI_KEY_MAP, .MBX_DATA, .MBX_CODE, .MBX_STAT, .MBX_POST_DT], true, true⟩
  | .download .. => some ⟨safeRegs ++ [.SAF_STAT, .SAF_CORE, .SAF_LEVEL, .SAF_DELAY, .LAK_FAULT_STAT, .DMC_FAULT_STAT], true, true⟩
  | .ecuReset .. => some ⟨safeRegs ++ [.SAF_STAT, .SAF_CORE, .SAF_LEVEL, .SAF_DELAY, .LAK_FAULT_STAT, .DMC_FAULT_STAT], true, true⟩
  | .udsResponse .. => some ⟨safeRegs ++ [.BUS_RX_RD, .SAF_STAT, .SAF_CORE, .SAF_LEVEL, .SAF_DELAY, .LAK_FAULT_STAT,
      .DMC_FAULT_STAT], true, true⟩
  | .p2Expiry .. => some ⟨safeRegs ++ [.SAF_STAT, .SAF_CORE, .SAF_LEVEL, .SAF_DELAY, .LAK_FAULT_STAT, .DMC_FAULT_STAT], true, true⟩
  | .testerPresent .. => some ⟨[], false, true⟩
  | .keyReply .. => some ⟨[.MBX_DATA, .MBX_CODE, .MBX_STAT, .MBX_POST_DT, .MBX_TAKE_DT], false, false⟩
  | .keyTimeout .. => some ⟨safeRegs ++ [.SAF_STAT, .SAF_CORE, .SAF_LEVEL, .SAF_DELAY, .LAK_FAULT_STAT, .DMC_FAULT_STAT,
      .MBX_DATA, .MBX_CODE, .MBX_STAT, .MBX_POST_DT], true, true⟩
  | .netlistBuild .. => some ⟨[], true, false⟩
  | .netlistAnalysis .. => some ⟨[.SEP_CAP_RING_RD], false, false⟩
  | .trigInEdge .. => some ⟨[], false, false⟩
  | .evfSwfire .. => some ⟨[], false, false⟩
  | .eventChannelFiring .. => some ⟨[.DEV_STATE, .PWR_STAT, .PWR_GROUP_STATE, .LNK_PORT_DROP, .EVF_STAT, .EVF_FAULT_STAT,
      .EVF_LOOPSTAT, .EVF_COINC, .EVF_CH_LAST, .EVF_CH_CNT, .CIN_SAT, .CIN_FAULT_STAT], false, true⟩
  | .heldFiringRelease .. => some ⟨[.DEV_STATE, .PWR_STAT, .PWR_GROUP_STATE, .LNK_PORT_DROP, .EVF_STAT, .EVF_FAULT_STAT,
      .EVF_LOOPSTAT, .EVF_COINC, .EVF_CH_LAST, .EVF_CH_CNT, .CIN_SAT, .CIN_FAULT_STAT], false, true⟩
  | .trigOutPulseEnd .. => some ⟨[], false, false⟩
  | .timerExpiry .. => some ⟨[.EVF_TIMER_CFG, .EVF_TIMER_STAT, .CIN_SAT, .CIN_FAULT_STAT], false, false⟩
  | .evfTimerCfgWrite .. => some ⟨[.EVF_TIMER_CFG], false, false⟩
  | .timerStartFiring .. => some ⟨[.EVF_TIMER_STAT, .CIN_SAT, .CIN_FAULT_STAT], false, false⟩
  | .interruptPending .. => some ⟨[.IRC_PEND, .IRC_LINE, .IRC_OVR, .PCI_MSIX0_PBA, .PCI_MSIX1_PBA], false, true⟩
  | .ircClaim .. => some ⟨[.IRC_HOLDOFF, .IRC_PEND, .IRC_CLAIMED], false, false⟩
  | .ircComplete .. => some ⟨[.IRC_FAULT_STAT, .IRC_PEND, .IRC_CLAIMED, .IRC_LINE, .IRC_OVR, .PCI_MSIX0_PBA, .PCI_MSIX1_PBA], false, true⟩
  | .ircMaskWrite .. => some ⟨[.IRC_MASK, .PCI_MSIX0_PBA, .PCI_MSIX1_PBA], false, true⟩
  | .holdoffEnd .. => some ⟨[.IRC_HOLDOFF, .PCI_MSIX0_PBA, .PCI_MSIX1_PBA], false, true⟩
  | .lakOwnerWrite .. => some ⟨[.LAK_FAULT_STAT, .LAK_OWNER], false, false⟩
  | .lakStateWrite .. => some ⟨[.LAK_FAULT_STAT, .LAK_STATE], false, false⟩
  | .bankTransitionComplete .. => some ⟨[.LAK_STATE], true, false⟩
  | .lakeWrite .. => some ⟨[.LAK_FAULT_STAT, .LAK_BANK_STAT, .CIN_SAT, .CIN_FAULT_STAT], true, false⟩
  | .lakeSetWrite .. => some ⟨[.LAK_FAULT_STAT, .LAK_BANK_STAT], true, false⟩
  | .lakeClearWrite .. => some ⟨[.LAK_FAULT_STAT, .LAK_BANK_STAT], true, false⟩
  | .dmcOpCmd .. => some ⟨[.DMC_OP_STAT, .DMC_CH_STAT], false, false⟩
  | .opChangeComplete .. => some ⟨safeRegs ++ [.DMC_OP_STAT, .DMC_FAULT_STAT, .DMC_CH_STAT], true, true⟩
  | .requestPromotion .. => some ⟨[.DMC_SC, .CIN_SAT, .CIN_FAULT_STAT], false, false⟩
  | .pageCloseTimeout .. => some ⟨[], false, false⟩
  | .perstN .. => some ⟨[.IRC_PEND, .IRC_CLAIMED, .IRC_LINE, .IRC_OVR, .PCI_LINK, .PCI_FAULT_STAT, .PCI_RWIN, .PCI_DWIN,
      .MBX_STAT, .MBX_LOCK, .MBX_TAKE_DT, .PCI_MSIX0_ADDR, .PCI_MSIX0_DATA, .PCI_MSIX0_CTRL, .PCI_MSIX0_PBA, .PCI_MSIX1_ADDR,
      .PCI_MSIX1_DATA, .PCI_MSIX1_CTRL, .PCI_MSIX1_PBA, .CIN_SAT, .CIN_FAULT_STAT], false, true⟩
  | .flr .. => some ⟨[.IRC_PEND, .IRC_CLAIMED, .IRC_LINE, .IRC_OVR, .PCI_FAULT_STAT, .PCI_RWIN, .PCI_DWIN, .MBX_STAT,
      .MBX_LOCK, .MBX_TAKE_DT, .PCI_MSIX0_ADDR, .PCI_MSIX0_DATA, .PCI_MSIX0_CTRL, .PCI_MSIX0_PBA, .PCI_MSIX1_ADDR,
      .PCI_MSIX1_DATA, .PCI_MSIX1_CTRL, .PCI_MSIX1_PBA], false, true⟩
  | .hrgCmdTailWrite .. => some ⟨[.DEV_STATE, .PWR_STAT, .PWR_GROUP_STATE, .HRG_FAULT_STAT, .HRG_CMD_TAIL, .HRG_MGT_TAIL], false, false⟩
  | .descriptorRead .. => some ⟨safeRegs ++ [.SAF_FAULT_STAT, .LAK_FAULT_STAT, .DMC_FAULT_STAT, .HRG_FAULT_STAT, .HRG_CMD_HEAD,
      .HRG_MGT_HEAD], false, true⟩
  | .arm .. => some ⟨safeRegs ++ [.PWR_SLEEP_SET, .MDR_SITE_FCAUSE, .MDR_STEP_PC, .MDR_STEP_G, .MDR_STEP_EVL, .LAK_FAULT_STAT,
      .DMC_FAULT_STAT], false, true⟩
  | .abort .. => some ⟨[.MDR_SITE_CMD_RES], false, false⟩
  | .ackCommand .. => some ⟨[.DEV_STATE, .MDR_SITE_STATE, .MDR_STEP_SYNC_STAT], false, true⟩
  | .reset .. => some ⟨[.MDR_SITE_CMD_RES], false, true⟩
  | .setArg .. => some ⟨[.MDR_STEP_ARG], false, false⟩
  | .ringPlanStart .. => some ⟨safeRegs ++ [.PWR_SLEEP_SET, .MDR_SITE_START_REQ, .MDR_SITE_FCAUSE, .MDR_STEP_PC, .MDR_STEP_ARG,
      .MDR_STEP_G, .MDR_STEP_EVL, .SVC_PLAN_STAT, .SVC_DUTS, .SVC_LAST, .LAK_FAULT_STAT, .DMC_FAULT_STAT], false, true⟩
  | .ringPlanStop .. => some ⟨safeRegs ++ [.PWR_SLEEP_SET, .MDR_SITE_START_REQ, .MDR_SITE_FCAUSE, .MDR_STEP_PC, .MDR_STEP_ARG,
      .MDR_STEP_G, .MDR_STEP_EVL, .SVC_PLAN_STAT, .SVC_DUTS, .SVC_LAST, .LAK_FAULT_STAT, .DMC_FAULT_STAT], false, true⟩
  | .ringPlanAbort .. => some ⟨safeRegs ++ [.PWR_SLEEP_SET, .MDR_SITE_START_REQ, .MDR_SITE_FCAUSE, .MDR_STEP_PC, .MDR_STEP_ARG,
      .MDR_STEP_G, .MDR_STEP_EVL, .SVC_PLAN_STAT, .SVC_DUTS, .SVC_LAST, .LAK_FAULT_STAT, .DMC_FAULT_STAT], false, true⟩
  | .reflect .. => some ⟨[.SEP_CMP_CH_LIVE, .SEP_ACQ_CH_STAT, .SEP_ACQ_CH_ARM_DT, .TIA_CH_STAT, .TIA_CH_COUNT, .TIA_CH_SUM,
      .TIA_CH_MIN, .TIA_CH_MAX, .TIA_CH_MEAN, .TIA_CH_SD, .TIA_CH_M2, .TIA_CH_AUX, .TIA_CH_START_DT, .MRD_CH_QF,
      .MRD_TILE_STAT, .MRD_REFL_STAT], false, true⟩
  | .tableLoad .. => some ⟨[.SVC_PLAN_STAT], true, false⟩
  | .nvmRead .. => some ⟨safeRegs ++ [.LAK_FAULT_STAT, .DMC_FAULT_STAT], true, true⟩
  | .nvmErase .. => some ⟨[], false, true⟩
  | .nvmProgram .. => some ⟨[], false, true⟩
  | .todSet .. => some ⟨[.UMB_TOD_OFFSET], false, false⟩
  | .todAdj .. => some ⟨[.UMB_TOD_OFFSET], false, false⟩
  | .descriptorComplete .. => some ⟨safeRegs ++ [.LAK_FAULT_STAT, .DMC_FAULT_STAT, .HRG_FAULT_STAT, .HRG_CMD_HEAD,
      .HRG_CMD_DONE, .HRG_MGT_HEAD, .HRG_MGT_DONE], true, true⟩
  | .hrgCmdSeenWrite .. => some ⟨[.HRG_CMD_SEEN, .HRG_MGT_SEEN], false, false⟩
  | .ringDisable .. => some ⟨safeRegs ++ [.LAK_FAULT_STAT, .DMC_FAULT_STAT, .HRG_FAULT_STAT, .HRG_CMD_CFG, .HRG_CMD_HEAD,
      .HRG_CMD_DONE, .HRG_MGT_CFG, .HRG_MGT_HEAD, .HRG_MGT_DONE], true, true⟩
  | .hrgResRdWrite .. => some ⟨[.SVC_PLAN_STAT, .HRG_RES_RD], false, false⟩
  | .mbxDataWrite .. => some ⟨[.MBX_FAULT_STAT, .MBX_DATA, .MBX_STAT], false, false⟩
  | .mbxDoorbell .. => some ⟨[.MBX_FAULT_STAT, .MBX_CODE, .MBX_STAT, .MBX_POST_DT], false, false⟩
  | .mbxTake .. => some ⟨safeRegs ++ [.MBX_FAULT_STAT, .MBX_DATA, .MBX_CODE, .MBX_STAT, .MBX_POST_DT, .MBX_TAKE_DT], false, true⟩
  | .mbxLockRead .. => some ⟨[.MBX_LOCK], false, false⟩
  | .mbxLockRelease .. => some ⟨[.MBX_LOCK], false, false⟩
  | .keyStoreWrite .. => some ⟨[.PCI_KEY_DATA, .PCI_KEY_RES, .PCI_KEY_MAP], false, false⟩
  | .keyStoreErase .. => some ⟨[.PCI_KEY_DATA, .PCI_KEY_RES, .PCI_KEY_MAP], false, false⟩
  | .reg64LowRead .. => none
  | .reg64HighWrite .. => none
  | .rcRegisterRead .. => none
  | .registerWrite .. => none
  | .safeInNFall .. => some ⟨safeRegs, false, true⟩
  | .cinForceWrite .. => some ⟨safeRegs ++ [.CIN_FORCE], false, true⟩
  | .cinExit .. => some ⟨[.CIN_STAT, .CIN_CAUSE, .CIN_FAULT_STAT], false, false⟩
  | .exitRelease .. => some ⟨[.DEV_STATE, .CIN_STAT, .CIN_EXIT_DT], false, false⟩
  | .cinTileReset .. => some ⟨[.DEV_STATE, .MDR_SITE_STATE, .MDR_SITE_CMD_RES, .MDR_SITE_FCAUSE, .VST_SLOTS, .VST_SLICE,
      .SLP_STAT, .SLP_POS, .SLP_VCOUNT, .SLP_JUMPSTAT, .SLP_JUMP_DT, .SLP_CTRLCRC, .WOD_FAULT_STAT, .WOD_SLICE_TS,
      .WOD_SLICE_BOUNDARY, .WOD_CH_STAT, .WOD_CH_DROPS, .SEP_CMP_CH_STAT, .SEP_CAP_STAGE, .MDR_STEP_BIN, .MDR_STEP_TRIM,
      .MDR_STEP_SYNC_STAT, .SEP_ACQ_CH_STAT, .TIA_CH_STAT, .TIA_CH_COUNT, .TIA_CH_SUM, .TIA_CH_MIN, .TIA_CH_MAX, .TIA_CH_MEAN,
      .TIA_CH_SD, .TIA_CH_M2, .TIA_CH_AUX, .TIA_CH_START_DT, .TIA_CH_DONE_DT, .MRD_CH_REFL, .MRD_FAULT_STAT, .MRD_REFL_STAT,
      .MRD_REFL_DT, .CIN_SAT, .CIN_FAULT_STAT, .CIN_TILE_RESET], false, true⟩
  | .cinCoreReset .. => some ⟨[.SAF_STAT, .SAF_CORE, .SAF_LEVEL, .SAF_DELAY], false, false⟩
  | .safeInNRise .. => some ⟨[.CIN_STAT, .CIN_CAUSE], false, false⟩
  | .testenLow .. => some ⟨[], false, false⟩
  | .referenceReturn .. => some ⟨[.UMB_STAT], false, false⟩
  | .pcieLinkDown .. => some ⟨[.PCI_LINK, .PCI_FAULT_STAT, .CIN_SAT, .CIN_FAULT_STAT], false, false⟩
  | .pcieLinkUp .. => some ⟨[.PCI_LINK], false, false⟩
  | .msixUnmask .. => some ⟨[.PCI_MSIX0_CTRL, .PCI_MSIX0_PBA, .PCI_MSIX1_CTRL, .PCI_MSIX1_PBA], false, true⟩
  | .dramWrite .. => some ⟨safeRegs ++ [.DMC_FAULT_STAT, .DMC_SC], true, true⟩
  | .isotpNTimeout .. => some ⟨safeRegs ++ [.SAF_STAT, .SAF_CORE, .SAF_LEVEL, .SAF_DELAY, .LAK_FAULT_STAT, .DMC_FAULT_STAT], true, true⟩
  | .phyResetRelease .. => some ⟨[], false, false⟩
  | .xtalTempRead .. => some ⟨[.UMB_RATE, .UMB_XTAL_TEMP, .UMB_FAULT_STAT], false, false⟩
  | .umbAgeIncrement .. => some ⟨[.UMB_AGE], false, false⟩

end Sys2Proof.Machine
end

