-- ==== Sys2Proof/Certificates/Slice0/Obligations.lean ====
section
/-! DEFINITION. The statements about the device: what each command does when it completes, and what the rules of the spec say of the
whole device. Every statement that names a time takes the state u that the command finds after the ticks before it (notes/assumptions/1.md). -/

set_option linter.unusedVariables false

open Sys2Proof Sys2Proof.Machine

/-- The resets, the rails and the pins of power and test take effect (R32–R36, R373). -/
def Obligations.PowerAndPinsComplete : Prop := ∀ (e : Nat) (s u : State), u = s.elapse e →
  (∀ ti ri, gives (.powerOnReset e ti true ri) s (fun t => t.dev = 1 ∧ t.now = 0 ∧ t.get F.UMB_ERA.ERA 0 = 0 ∧
    t.isSafe = false ∧ t.get F.CFG_FUSE_STAT.SECVER 0 = u.get F.CFG_FUSE_STAT.SECVER 0 ∧
    t.get F.UMB_AGE.BLOCKS 0 = u.get F.UMB_AGE.BLOCKS 0 ∧ t.dram = [] ∧ t.lake = [] ∧ t.keys = [] ∧ t.pins.testen = ti ∧
    t.pins.resetN = ri)) ∧
  (gives (.vauxUnderVoltage e) s (fun t => t.pwr.vauxGood = false ∧ t.get F.PWR_RAIL_STAT.GOOD 0 = 0 ∧ t.now = 0 ∧
    t.get F.CFG_FUSE_STAT.SECVER 0 = u.get F.CFG_FUSE_STAT.SECVER 0 ∧ t.dram = [] ∧ t.lake = [])) ∧
  (u.pwr.vauxGood = true → gives (.railsGood e) s (fun t => t.get F.PWR_RAIL_STAT.GOOD 0 = 0xFF)) ∧
  (∀ rail : Fin 7, bitAt (u.get F.PWR_RAIL_STAT.GOOD 0) rail.val = true → gives (.railUnderVoltage e rail) s (fun t =>
    t.isSafe = true ∧ t.get F.PWR_FAULT_STAT.UV 0 = setBit (u.get F.PWR_FAULT_STAT.UV 0) rail.val % 128 ∧
    t.get F.PWR_RAIL_STAT.GOOD 0 = clearBit (u.get F.PWR_RAIL_STAT.GOOD 0) rail.val % 256)) ∧
  (u.pins.resetN = true → gives (.resetNFall e) s (fun t => t.pins.resetN = false ∧ t.pins.resetFall = u.now ∧
    ∀ f i, t.get f i = u.get f i)) ∧
  (u.pins.resetN = false → u.reached (wrap64 (u.pins.resetFall + us 10)) = true → u.pins.resetDone = false → u.pins.safeInHigh = true →
    gives (.deviceReset e) s (fun t => t.dev = 1 ∧ t.now = u.now ∧ t.get F.UMB_ERA.ERA 0 = u.get F.UMB_ERA.ERA 0 ∧
      t.isSafe = false ∧ t.keys = u.keys ∧ t.dram = [] ∧ t.lake = [] ∧ t.pwr.inReset = true)) ∧
  (u.pins.resetN = false → u.reached (wrap64 (u.pins.resetFall + us 10)) = true → u.pins.resetDone = true ∨ u.pins.safeInHigh = true →
    gives (.resetNRise e) s (fun t => t.pins.resetN = true ∧ t.pins.resetRise = u.now)) ∧
  (∀ v : Word32, bitsOf v.toNat 0 8 = 1 → bitsOf v.toNat 8 8 = 0xD5 → u.pins.safeInHigh = true →
    gives (.devReset e v) s (fun t => t.dev = 1 ∧ t.now = u.now ∧ t.pins.resetRise = u.now ∧ t.pwr.inReset = true)) ∧
  (gives (.testenHigh e) s (fun t => t.pins.testen = true ∧ ∀ f i, t.get f i = u.get f i)) ∧
  (gives (.testenLow e) s (fun t => t.pins.testen = false ∧ ∀ f i, t.get f i = u.get f i))

/-- The cold start, the ladder, sleep, Dormant and the thermal sensors take effect (R37–R46). -/
def Obligations.PowerLadderComplete : Prop := ∀ (e : Nat) (s u : State), u = s.elapse e →
  (∀ d, u.pwr.coldDue = some d → u.pwr.coldIdx < 6 → u.reached d = true → u.pwr.heldRails = 0 → gives (.coreIslandAdmission e) s (fun t =>
    t.pwr.coldIdx = u.pwr.coldIdx + 1 ∧ t.pwr.coldDue = some (wrap64 (d + (if u.pwr.coldIdx + 1 < 6 then us 5 else us 2))) ∧
    ∀ f i, t.get f i = u.get f i)) ∧
  (∀ d, u.pwr.coldDue = some d → 6 ≤ u.pwr.coldIdx → u.pwr.coldIdx < 14 → u.reached d = true → u.pwr.heldRails = 0 →
    gives (.tileCommonAdmission e) s (fun t => t.get F.TLK_CORE_STAT.STATE (u.pwr.coldIdx - 6) = 1 ∧
      t.get F.TLK_STAT.STATE (u.pwr.coldIdx - 6) = 1)) ∧
  (∀ r, nextRequest u.pwr.requests = some r → u.reached (takeEdge r.arrived) = true → exec (.ladderRequest e) s = .next
    ((({ u with pwr := { u.pwr with requests := u.pwr.requests.erase r } } : State).each r.groups (fun s g => s.takeGroup r g)).each
      r.sites (fun s y => s.formReady y))) ∧
  (∀ g q, u.pwr.queue = .powerUp g :: q → u.reached u.pwr.slotEnd = true → u.get F.TLK_CORE_STAT.STATE (g / 8) = 2 →
    u.railHeld 0x0E = false →
    gives (.ladderSlot e) s (fun t => t.group g = 3 ∧ t.pwr.queue = q ∧ t.pwr.slotEnd = wrap64 (u.now + u.slotLen) ∧
      t.pwr.settling = u.pwr.settling ++ [(g, wrap64 (wrap64 (u.now + u.slotLen) + us 10))])) ∧
  (∀ g q, u.pwr.queue = .retire g :: q → u.reached u.pwr.slotEnd = true → gives (.ladderSlot e) s (fun t => t.group g = 1 ∧
    t.pwr.slotEnd = wrap64 (u.now + u.slotLen))) ∧
  (∀ (g : Group) t₀, u.pwr.settling.find? (fun p => p.1 == g.val) = some (g.val, t₀) → u.reached t₀ = true →
    gives (.groupSettleEnd e g false) s (fun t => t.group g.val = 5)) ∧
  (∀ (g : Group) t₀, u.pwr.settling.find? (fun p => p.1 == g.val) = some (g.val, t₀) → u.reached t₀ = true →
    gives (.groupSettleEnd e g true) s (fun t => t.get F.PWR_FAULT_STAT.SETTLE_FAIL 0 = 1 ∧
      (u.escalated 2 F.PWR_FAULT_STAT.SETTLE_FAIL.lo = false → t.group g.val = 6))) ∧
  (u.dev = 1 → u.get F.PWR_STAT.PHASE 0 = 1 → u.pwr.coldIdx = 14 → u.ladderIdle = true → gives (.poweringEnd e) s (fun t => t.dev = 2 ∧
    t.get F.PWR_STAT.PHASE 0 = 0 ∧ t.ldr.phase = .start ∧ t.pwr.inReset = false)) ∧
  (∀ (w : Fin 8) (v : Word32), exec (.pwrSleepSet e w v) s = .next (u.sleepSet w.val v.toNat)) ∧
  (∀ (w : Fin 8) (v : Word32), exec (.pwrSleepClr e w v) s = .next (u.sleepClr w.val v.toNat)) ∧
  (u.dev ≠ 4 → exec (.dormantRequest e) s = .next (u.set F.PWR_STAT.DORM_REJ 0 1)) ∧
  (u.dev = 4 → u.flag F.DEV_STATE.ENTERING 0 = false → u.flag F.DEV_STATE.WAKING 0 = false → gives (.dormantRequest e) s (fun t =>
    t.get F.DEV_STATE.ENTERING 0 = 1 ∧ t.get F.PWR_STAT.PHASE 0 = 2)) ∧
  (u.flag F.DEV_STATE.ENTERING 0 = true → u.dev = 4 → u.ladderIdle = true → (∀ g < 64, u.group g ≠ 5) →
    gives (.dormantEntryComplete e) s (fun t => t.dev = 6 ∧ t.get F.DEV_STATE.ENTERING 0 = 0 ∧ t.get F.PWR_STAT.PHASE 0 = 3)) ∧
  (∀ c : WakeCause, (c = .event → u.flag F.PWR_WAKE_CFG.EN 0 = true) → u.dev = 6 → u.flag F.DEV_STATE.WAKING 0 = false →
    gives (.wake e c) s (fun t => t.get F.DEV_STATE.WAKING 0 = 1 ∧ t.get F.PWR_STAT.PHASE 0 = 4 ∧ t.pwr.coldIdx = 1 ∧
      t.pwr.coldDue = some (wrap64 (u.now + us 5)))) ∧
  (u.flag F.DEV_STATE.WAKING 0 = true → u.ladderIdle = true → u.dev ≠ 6 → exec (.wakeComplete e) s = .next
    ((u.set F.DEV_STATE.WAKING 0 0).set F.PWR_STAT.PHASE 0 0)) ∧
  (u.flag F.DEV_STATE.WAKING 0 = true → u.ladderIdle = true → u.dev = 6 → gives (.wakeComplete e) s (fun t => t.dev = 4 ∧
    t.get F.DEV_STATE.WAKING 0 = 0)) ∧
  (∀ temps : List (BitVec 16), (∀ n < 9, ¬ (u.warnAt * 16 ≤ toInt 16 (temps.getD n 0).toNat)) →
    (∀ n < 9, ¬ (toInt 16 (temps.getD n 0).toNat < u.lowLimit * 16)) → (∀ n < 9, ¬ (112 * 16 ≤ toInt 16 (temps.getD n 0).toNat)) →
    exec (.thermalConversion e temps) s = .next (u.each (List.range 9) (fun s n =>
      (s.set F.DEV_TEMP.TEMP n (temps.getD n 0).toNat).set F.DEV_TEMP.VALID n 1)).recause)

/-- The load, its commit and a reload take effect (R48–R61). -/
def Obligations.BootComplete : Prop := ∀ (e : Nat) (s u : State), u = s.elapse e →
  (∀ c0 c1 : List Byte, u.dev = 2 → u.ldr.phase = .start → u.pins.testen = false → descCode c0 = 0 →
    gives (.loadStart e c0 c1) s (fun t => t.dev = 2 ∧ t.get F.CFG_STAT.BUSY 0 = 1 ∧ t.ldr.phase = .desc ∧ t.ldr.desc = descOf c0)) ∧
  (∀ (hdr : List Byte) (v : State), u.dev = 2 → u.ldr.phase = .desc → u.ldr.source ≠ 2 → hdrCrcBad hdr = false →
    hdrCode hdr (u.sourceLen u.ldr.source) = 0 →
    v = u.emit (.flash 0 (u.ldr.desc.slotOff u.ldr.source) (u.ldr.desc.readBytes u.ldr.legacy)) →
    exec (.slotReadStart e hdr) s = .next { v with ldr := { u.ldr with phase := .reading, header := hdr, records := [], offset := 64 } }) ∧
  (∀ (hdr : List Byte), u.dev = 2 → u.ldr.phase = .desc → u.ldr.source = 2 → hdrCode u.stagedHeader (u.sourceLen 2) = 0 →
    exec (.slotReadStart e hdr) s = .next
      { u with ldr := { u.ldr with phase := .reading, header := u.stagedHeader, records := [], offset := 64 } }) ∧
  (∀ i r : ImageRecord, u.dev = 2 → u.ldr.phase = .reading → u.ldr.records.length < hdrCount u.ldr.header →
    r = (if u.ldr.source = 2 then u.stagedRecord u.ldr.offset else i) → r.typ ≠ 9 →
    arrivalCode ⟨u.ldr.header, u.ldr.records, u.ldr.offset, u.loadDram, u.ldr.trained, u.stageOf⟩ r = 0 →
    arrivalDram ⟨u.ldr.header, u.ldr.records, u.ldr.offset, u.loadDram, u.ldr.trained, u.stageOf⟩ r = 0 →
    exec (.imageRecordArrival e i) s = .next (match dramDest u.loadDram r with
      | some (a, d) => ({ u with ldr := { u.ldr with records := u.ldr.records ++ [r], offset := u.ldr.offset + recSize r } } : State).putBytes
          false a d
      | none => { u with ldr := { u.ldr with records := u.ldr.records ++ [r], offset := u.ldr.offset + recSize r } })) ∧
  (∀ i r : ImageRecord, u.dev = 2 → u.ldr.phase = .reading → u.ldr.records.length < hdrCount u.ldr.header →
    r = (if u.ldr.source = 2 then u.stagedRecord u.ldr.offset else i) → r.typ = 9 →
    arrivalCode ⟨u.ldr.header, u.ldr.records, u.ldr.offset, r.body, u.ldr.trained, u.stageOf⟩ r = 0 →
    arrivalDram ⟨u.ldr.header, u.ldr.records, u.ldr.offset, r.body, u.ldr.trained, u.stageOf⟩ r = 0 → u.ldr.trained = false →
    gives (.imageRecordArrival e i) s (fun t => t.ldr.phase = .training)) ∧
  (u.dev = 2 → u.ldr.phase = .training → gives (.dramTrainingComplete e true) s (fun t =>
    t.get F.DMC_OP_STAT.OP 0 = leAt u.loadDram 3 1 % 4 ∧ t.dram = [] ∧ t.epoch = u.epoch + 1)) ∧
  (u.dev = 2 → u.ldr.phase = .training → exec (.dramTrainingComplete e false) s = .next
    (u.slotFail 0x18 (u.ldr.records.length - 1) (whereType 9 0 64 u.ldr.records).2)) ∧
  (u.dev = 2 → u.ldr.phase = .reading → u.ldr.records.length = hdrCount u.ldr.header →
    endCode u.ldr.header u.ldr.records u.ldr.offset = 0 → gives (.lastRecordRead e) s (fun t => t.dev = 3 ∧ t.ldr.phase = .checking)) ∧
  (u.dev = 3 → u.ldr.phase = .checking → (checkCode u.facts u.ldr.header u.ldr.records).1 = 0 → exec (.checksComplete e) s = .next
    { u with ldr := { u.ldr with phase := .passed } }) ∧
  (∀ w, u.dev = 3 → u.ldr.phase = .checking → (checkCode u.facts u.ldr.header u.ldr.records).1 ≠ 0 →
    w = whereCheck u.facts u.ldr.records (checkCode u.facts u.ldr.header u.ldr.records) → exec (.checksComplete e) s = .next
    (u.slotFail (checkCode u.facts u.ldr.header u.ldr.records).1 w.1 w.2)) ∧
  (∀ v : State, u.dev = 3 → u.ldr.phase = .passed → us 16000 ≤ u.since u.pwr.lastSettle →
    v = ((((u.applyImage u.ldr.header u.ldr.records).commitResult).set F.DEV_STATE.STATE 0 4).fire 1477) →
    exec (.commit e) s = .next ((v.each ((List.range 256).filter (fun i => v.sliceValid i)) (fun s i => s.idleSlice i s.now)).each ((List.range 256).filter (fun x => (v.siteGroups x).any (fun g => v.group g == 6)))
      (fun s x => s.siteFault x 2)) ∧ v.dev = 4) ∧
  (∀ v : Word32, bitAt v.toNat 31 = true → u.flag F.CFG_STAT.BUSY 0 = false → u.dev = 4 ∨ u.dev = 5 ∨ u.dev = 7 → u.pins.testen = false →
    (bitsOf v.toNat 0 2 = 3 ∧ (u.region 1 (u.get F.CFG_STAGE_ADDR.ADDR 0) (u.get F.CFG_STAGE_LEN.LEN 0)).isSome = true) ∨
      (bitsOf v.toNat 0 2 ≠ 3 ∧ u.nvm = []) → gives (.reload e v) s (fun t => t.get F.CFG_STAT.BUSY 0 = 1 ∧ t.ldr.phase = .precheck ∧
      t.ldr.reqSrc = bitsOf v.toNat 0 2 ∧ t.ldr.force = bitAt v.toNat 2)) ∧
  (∀ v : Word32, bitAt v.toNat 31 = true → u.flag F.CFG_STAT.BUSY 0 = true ∨ u.dev = 1 ∨ u.dev = 2 ∨ u.dev = 3 ∨ u.dev = 6 →
    exec (.reload e v) s = .next (u.set F.CFG_STAT.RELOAD_REJ 0 1)) ∧
  (∀ c0 c1 images r, u.ldr.phase = .precheck → descCode c0 = 0 → u.precheckAll (descOf c0)
      (if u.ldr.reqSrc = 0 then (descOf c0).order else reloadSources u.ldr.reqSrc) images = r → r.2 = true →
    gives (.precheckComplete e c0 c1 images) s (fun t => t.ldr.phase = .teardown)) ∧
  (u.ldr.phase = .teardown → u.anyActive = false → exec (.reloadTeardown e) s = .next u.teardown.reloadSource ∧
    u.teardown.dev = 2 ∧ u.teardown.get F.EVF_STAT.ACTIVE 0 = 0 ∧ u.teardown.sites = [] ∧ u.teardown.slices = []) ∧
  (∀ v : Word32, bitAt v.toNat 31 = true → bitsOf v.toNat 0 2 = 1 → u.get F.CFG_FUSE_RES.RESULT 0 ≠ 1 →
    u.flag F.CFG_FUSE_STAT.KEYHASH_PROG 0 = false → gives (.fuseProgramKeyHash e v) s (fun t =>
      t.get F.CFG_FUSE_RES.RESULT 0 = 1 ∧ t.ldr.fuseOp = 1 ∧ t.get F.CFG_FUSE_STAT.KEYHASH_PROG 0 = u.get F.CFG_FUSE_STAT.KEYHASH_PROG 0)) ∧
  (∀ v : Word32, bitAt v.toNat 31 = true → bitsOf v.toNat 0 2 = 2 → u.get F.CFG_FUSE_RES.RESULT 0 ≠ 1 →
    u.get F.CFG_FUSE_STAT.SECVER 0 ≤ bitsOf v.toNat 8 7 → bitsOf v.toNat 8 7 ≤ u.get F.CFG_IMAGE.SECVER 0 → bitsOf v.toNat 8 7 ≤ 64 →
    gives (.fuseRaiseSecver e v) s (fun t => t.get F.CFG_FUSE_RES.RESULT 0 = 1 ∧ t.ldr.fuseOp = 2 ∧ t.ldr.fuseArg = bitsOf v.toNat 8 7)) ∧
  (∀ v : Word32, bitAt v.toNat 31 = true → bitsOf v.toNat 0 2 = 2 → u.get F.CFG_FUSE_RES.RESULT 0 ≠ 1 →
    bitsOf v.toNat 8 7 < u.get F.CFG_FUSE_STAT.SECVER 0 ∨ u.get F.CFG_IMAGE.SECVER 0 < bitsOf v.toNat 8 7 →
    exec (.fuseRaiseSecver e v) s = .next (u.set F.CFG_FUSE_RES.RESULT 0 3)) ∧
  (u.get F.CFG_FUSE_RES.RESULT 0 = 1 → u.ldr.fuseOp = 1 → gives (.fuseOpComplete e) s (fun t => t.get F.CFG_FUSE_RES.RESULT 0 = 2 ∧
    t.get F.CFG_FUSE_STAT.KEYHASH_PROG 0 = 1 ∧ t.get F.CFG_FUSE_STAT.SECVER 0 = u.get F.CFG_FUSE_STAT.SECVER 0)) ∧
  (u.get F.CFG_FUSE_RES.RESULT 0 = 1 → u.ldr.fuseOp = 2 → u.ldr.fuseArg ≤ 64 → gives (.fuseOpComplete e) s (fun t =>
    t.get F.CFG_FUSE_RES.RESULT 0 = 2 ∧ t.get F.CFG_FUSE_STAT.SECVER 0 = u.ldr.fuseArg ∧
    t.get F.CFG_FUSE_STAT.KEYHASH_PROG 0 = u.get F.CFG_FUSE_STAT.KEYHASH_PROG 0))

/-- The site commands take effect (R68–R79). -/
def Obligations.SiteComplete : Prop := ∀ (e : Nat) (s u : State), u = s.elapse e →
  (∀ (x : Site) (prog : BitVec 16), u.flag F.MDR_SITE_CMD_RES.BUSY x.val = false → u.armCode x.val prog.toNat = 1 →
    exec (.siteArm e x prog) s = .next ((u.answer x.val 1).armAccepted x.val prog.toNat (u.get F.MDR_SITE_START_REQ.DT x.val))) ∧
  (∀ (x : Site) (prog : BitVec 16), u.flag F.MDR_SITE_CMD_RES.BUSY x.val = false → u.armCode x.val prog.toNat ≠ 1 →
    gives (.siteArm e x prog) s (fun t => t.get F.MDR_SITE_CMD_RES.RESULT x.val = u.armCode x.val prog.toNat % 8 ∧
      t.get F.MDR_SITE_CMD_RES.BUSY x.val = 0 ∧ (u.armCode x.val prog.toNat ≠ 4 → t.siteState x.val = u.siteState x.val))) ∧
  (∀ (x : Site), u.flag F.MDR_SITE_CMD_RES.BUSY x.val = true → ∀ prog : BitVec 16,
    exec (.siteArm e x prog) s = .next (u.set F.MDR_SITE_CMD_RES.RESULT x.val 7)) ∧
  (∀ (x : Site), u.flag F.MDR_SITE_CMD_RES.BUSY x.val = false → u.abortCode x.val = 0 → gives (.siteAbort e x) s (fun t =>
    t.get F.MDR_SITE_CMD_RES.BUSY x.val = 1 ∧ t.get F.MDR_SITE_CMD_RES.RESULT x.val = 0 ∧
    t.site x.val = { u.site x.val with abortPend := true, abortReg := true })) ∧
  (∀ (x : Site), u.flag F.MDR_SITE_CMD_RES.BUSY x.val = false → u.abortCode x.val ≠ 0 →
    exec (.siteAbort e x) s = .next (u.answer x.val (u.abortCode x.val))) ∧
  (∀ (x : Site), u.flag F.MDR_SITE_CMD_RES.BUSY x.val = false → u.proxy x.val = false → u.siteState x.val = 6 →
    gives (.siteAck e x) s (fun t => t.siteState x.val = 1 ∧ t.get F.MDR_SITE_CMD_RES.RESULT x.val = 1)) ∧
  (∀ (x : Site), u.flag F.MDR_SITE_CMD_RES.BUSY x.val = false → u.resetCode x.val = 1 → exec (.siteReset e x) s = .next
    ((((u.set F.MDR_SITE_CMD_RES.BUSY x.val 1).set F.MDR_SITE_CMD_RES.RESULT x.val 0).setSite x.val
      { u.site x.val with resetAt := some (wrap64 (u.now + u.lead x.val)), resetReg := true }).sendToken x.val 12
        (wrap64 (u.now + u.lead x.val)) [])) ∧
  (∀ (x : Site), u.due (u.site x.val).resetAt = true → u.siteState x.val ≠ 0 → gives (.siteResetRelease e x) s (fun t =>
    t.siteState x.val = 1 ∧ t.get F.MDR_SITE_STATE.OUTCOME x.val = 3)) ∧
  (∀ (x : Site), u.siteState x.val = 2 → (u.site x.val).entered = true → (u.site x.val).start = none →
    u.due (u.site x.val).ready = true → u.proxy x.val = false → (∀ y ∈ u.members x.val, u.staleFails y = false) →
    exec (.staleCheck e x) s = .next (u.formStart x.val)) ∧
  (∀ (x y : Site), u.siteState x.val = 2 → (u.site x.val).entered = true → (u.site x.val).start = none →
    u.due (u.site x.val).ready = true → u.proxy x.val = false → y.val ∈ u.members x.val → u.staleFails y.val = true →
    exec (.staleCheck e x) s = .next (u.each ((u.members x.val).filter (fun y => u.siteState y == 2)) (fun s y => s.unarm y))) ∧
  (∀ (x : Site) st, (u.site x.val).start = some st → u.reached st = true → u.siteState x.val = 2 →
    exec (.startInstant e x) s = .next (u.startTest x.val st) ∧
    (u.startTest x.val st).get F.MDR_SITE_START_DT.DT x.val = st % 2 ^ 64) ∧
  (∀ (sl : SliceNo), u.sliceValid sl.val = true → u.active (u.sliceSite sl.val) = true →
    gives (.sliceMissedRelease e sl) s (fun t => t.get F.SLP_FAULT_STAT.MISSED_RELEASE (sl.val / 32) = 1)) ∧
  (∀ (x : Site), u.siteState x.val = 5 → u.proxy x.val = false → u.siteFinished x.val = true →
    gives (.stoppingComplete e x) s (fun t => (t.siteState x.val = 6 ∨ t.siteState x.val = 7) ∧
      (u.slicesOf x.val = [] → t.siteState x.val = 6))) ∧
  (∀ (x : Site), u.running = true → u.proxy x.val = true → u.siteState x.val = 1 → (u.site x.val).joinSent = false →
    (u.carrier (u.get F.SMAP_SITE.HOME_DEV x.val)).isSome = true → exec (.joinSend e x) s = .next
      ((u.setSite x.val { u.site x.val with joinSent := true }).tokenHome x.val 1 0
        [x.val, u.get F.SMAP_SITE.TILES x.val, u.get F.SMAP_SITE.QUADS x.val]))

/-- Every vector code plays its cycle and moves the player on (R82–R88); a routine that a patch matches does what the patch says, which the
spec leaves open (R109, notes/assumptions/91.md). -/
def Obligations.VectorComplete : Prop := ∀ (e : Nat) (s u : State), u = s.elapse e →
  (∀ (sl : SliceNo) (ecc : VecEcc), u.vectorDue sl.val 0 = true → u.patchHit 0 = false → exec (.vectorNext e sl ecc) s = .next
    (u.playVector sl.val ecc (fun t => t.nextVector sl.val))) ∧
  (∀ (sl : SliceNo) (ecc : VecEcc), u.vectorDue sl.val 1 = true → u.patchHit 1 = false → exec (.vectorRepeat e sl ecc) s = .next
    (u.playVector sl.val ecc (fun t => t.beginRepeat sl.val (ctrlOp (u.ctrl sl.val))))) ∧
  (∀ (sl : SliceNo) (ecc : VecEcc) (v : State), u.boundaryFree sl.val = true → 1 < (u.slice sl.val).repLeft → v = u.vectorReads sl.val ecc →
    (v.slice sl.val).live = true → exec (.vectorRepeat e sl ecc) s = .next
    ((v.cycle sl.val).setSlice sl.val { (v.cycle sl.val).slice sl.val with repLeft := (u.slice sl.val).repLeft - 1 })) ∧
  (∀ (sl : SliceNo) (ecc : VecEcc) (v : State), u.boundaryFree sl.val = true → (u.slice sl.val).repLeft = 1 → v = u.vectorReads sl.val ecc →
    (v.slice sl.val).live = true → exec (.vectorRepeat e sl ecc) s = .next
    (((v.cycle sl.val).setSlice sl.val { (v.cycle sl.val).slice sl.val with repLeft := 0 }).nextVector sl.val)) ∧
  (∀ (sl : SliceNo) (ecc : VecEcc), u.vectorDue sl.val 2 = true → u.patchHit 2 = false → exec (.loopBegin e sl ecc) s = .next
    (u.playVector sl.val ecc (fun t => (t.openLoop sl.val (ctrlOp (u.ctrl sl.val))).nextVector sl.val))) ∧
  (∀ (sl : SliceNo) (ecc : VecEcc), u.vectorDue sl.val 3 = true → u.patchHit 3 = false → exec (.loopEnd e sl ecc) s = .next
    (u.playVector sl.val ecc (fun t => t.closeLoop sl.val (ctrlOp (u.ctrl sl.val))))) ∧
  (∀ (sl : SliceNo) (ecc : VecEcc), u.vectorDue sl.val 4 = true → u.patchHit 4 = false → exec (.matchPass e sl ecc) s = .next
    (u.playVector sl.val ecc (fun t => if (t.slice sl.val).vec = 63 then t.endPass sl.val (ctrlOp (u.ctrl sl.val)) else t.badCode sl.val))) ∧
  (∀ (sl : SliceNo) (ecc : VecEcc), u.vectorDue sl.val 4 = false → exec (.matchPass e sl ecc) s = .next (u.judgeDue sl.val)) ∧
  (∀ (sl : SliceNo) b, (u.slice sl.val).mat.judge = some b → u.sliceValid sl.val = true → u.reached b = true →
    (∀ j ∈ u.slicesOf (u.sliceSite sl.val), (u.slice j).mat.judge = some b ∧ u.comparesDone j b = true) →
    u.judgeDue sl.val = u.judgePass (u.sliceSite sl.val) sl.val b) ∧
  (∀ (sl : SliceNo) (ecc : VecEcc), u.vectorDue sl.val 5 = true → u.patchHit 5 = false → exec (.altVector e sl ecc) s = .next
    (u.playVector sl.val ecc (fun t => t.nextVector sl.val))) ∧
  (∀ (sl : SliceNo) (ecc : VecEcc), u.vectorDue sl.val 6 = true → u.patchHit 6 = false → exec (.endVector e sl ecc) s = .next
    (u.playVector sl.val ecc (fun t => t.endEntry sl.val))) ∧
  (∀ (sl : SliceNo) (ecc : VecEcc), u.vectorDue sl.val 7 = true → u.patchHit 7 = false → exec (.code7 e sl ecc) s = .next
    (u.playVector sl.val ecc (fun t => t.badCode sl.val))) ∧
  (∀ (sl : SliceNo) (ecc : VecEcc) (c : Instr) (n : Nat), (c, n) ∈ [(.vectorNext e sl ecc, 0), (.vectorRepeat e sl ecc, 1), (.loopBegin e sl ecc, 2),
    (.loopEnd e sl ecc, 3), (.matchPass e sl ecc, 4), (.altVector e sl ecc, 5), (.endVector e sl ecc, 6), (.code7 e sl ecc, 7)] →
    u.vectorDue sl.val n = true → u.patchHit n = true → exec c s = .next (u.playVector sl.val ecc (fun t => t.freeRoutine sl.val))) ∧
  (∀ (sl : SliceNo) (ecc : VecEcc), (∀ n, u.vectorDue sl.val n = false) → exec (.vectorNext e sl ecc) s = .next (u.faultStop sl.val) ∧
    exec (.endVector e sl ecc) s = .next (u.faultStop sl.val))

/-- The player's boundaries, refills, holds, resumes, admissions, queues and jumps take effect (R89–R105). -/
def Obligations.PlayerComplete : Prop := ∀ (e : Nat) (s u : State), u = s.elapse e →
  (∀ sl : SliceNo, u.sliceValid sl.val = true → (u.slice sl.val).live = true → (u.slice sl.val).atGran = true →
    (u.slice sl.val).checked ≠ some (u.slice sl.val).nextB → (u.slice sl.val).mat.judge = none →
    u.siteState (u.sliceSite sl.val) = 3 ∨ u.siteState (u.sliceSite sl.val) = 5 →
    u.reached (wrap64 ((u.slice sl.val).nextB + 2 ^ 64 - u.checkLead (u.sliceSite sl.val))) = true →
    exec (.granuleCheckPoint e sl) s = .next (u.checkPoint sl.val (u.slice sl.val).nextB)) ∧
  (∀ (x : Site) b cause, (u.site x.val).hold = some (b, cause) → u.siteState x.val = 3 ∨ u.siteState x.val = 5 → u.reached b = true →
    u.stopDue x.val b = false → u.allAt x.val b = true → (∀ i ∈ u.slicesOf x.val, u.jumpsDue i = []) →
    exec (.holdRelease e x) s = .next (u.enterHold x.val b cause)) ∧
  (∀ (sl : SliceNo) (seg : BitVec 24) (gran : Fin 65536) (col : Fin 64) d, u.descFor sl.val seg.toNat = some d → u.sliceValid sl.val = true →
    u.mayRefill sl.val d gran.val col.val = true → exec (.refillGranuleComplete e sl seg gran col) s = .next
      (u.refill sl.val d gran.val col.val)) ∧
  (∀ sl : SliceNo, u.sliceValid sl.val = true → u.held (u.sliceSite sl.val) = true → u.get F.SLP_STAT.STATE sl.val = 3 →
    (u.slice sl.val).reported = false → (u.site (u.sliceSite sl.val)).resume = none → (u.site (u.sliceSite sl.val)).stop = none →
    u.ready sl.val = true → u.proxy (u.sliceSite sl.val) = false → exec (.sliceReadyReport e sl) s = .next
      ((u.setSlice sl.val { u.slice sl.val with reported := true }).formResume (u.sliceSite sl.val))) ∧
  (∀ (x : Site) r, (u.site x.val).resume = some r → u.held x.val = true → u.reached r = true → (u.site x.val).stop = none →
    ∃ v : State, exec (.resumeRelease e x) s = .next (v.each ((u.slicesOf x.val).filter (fun i => u.get F.SLP_STAT.STATE i == 3))
      (fun s i => s.checkPoint i r)) ∧ v.get F.MDR_SITE_RESUME_DT.DT x.val = r % 2 ^ 64 ∧ v.siteState x.val ≠ 4) ∧
  (∀ (sl : SliceNo) (seg : BitVec 24) (ecc r : Ecc), r = u.eccAt false (u.img.segtab + 32 * seg.toNat) 32 ecc → u.sliceValid sl.val = true → u.descFor sl.val seg.toNat = none →
    (u.wanted sl.val).contains seg.toNat = true → exec (.segmentAdmission e sl seg ecc) s = .next
      ((u.eccRaise false r).takeIn sl.val seg.toNat false r)) ∧
  (∀ (sl : SliceNo) (seg : BitVec 24) (ecc r : Ecc), r = u.eccAt false (u.img.segtab + 32 * seg.toNat) 32 ecc → u.sliceValid sl.val = true → u.descFor sl.val seg.toNat = none →
    (u.wanted sl.val).contains seg.toNat = false → (u.targets sl.val).contains seg.toNat = true → exec (.segmentAdmission e sl seg ecc) s = .next
      ((u.eccRaise false r).takeIn sl.val seg.toNat true r)) ∧
  (∀ (sl : SliceNo) q r, (u.slice sl.val).inbound = q :: r → u.sliceValid sl.val = true → u.reached q.release = true →
    u.siteState (u.sliceSite sl.val) ≠ 7 → exec (.queueEntryRelease e sl) s = .next
      ((u.setSlice sl.val { u.slice sl.val with inbound := r }).queueEntry sl.val q)) ∧
  (∀ (x : Site) i, u.leadSlice x.val = some i → u.flag F.SLP_JUMP_CFG.EN i = true → u.get F.SLP_STAT.STATE i = 2 ∨ u.get F.SLP_STAT.STATE i = 3 →
    u.active x.val = true → exec (.eventJumpRequest e x) s = .next (u.addJump x.val 3
      (if u.hasProxies x.val then wrap64 (u.now + ns 280) else u.now) (u.hinted i (u.get F.SLP_JUMP_CFG.HINT i)))) ∧
  (∀ (x : Site) i is j, (u.slicesOf x.val).filter (fun i => (u.slice i).live) = i :: is → winner (u.jumpsDue i) = some j →
    u.reached (u.slice i).nextB = true → u.allAt x.val (u.slice i).nextB = true → u.stopDue x.val (u.slice i).nextB = false →
    u.siteState x.val = 3 ∨ u.siteState x.val = 5 → (∀ k ∈ i :: is, (u.slice k).mat.judge = none) → (u.jumpsDue i).length = 1 →
    (u.site x.val).hold = none → exec (.jumpHonoured e x) s = .next ((u.setSite x.val { u.site x.val with
      jumps := (u.site x.val).jumps.filter (fun k => !(u.jumpsDue i).contains k), hold := none }).each (i :: is)
        (fun s k => s.takeJump k (u.slice i).nextB j))) ∧
  (∀ (x : Site) i is seg crc (v : State), u.slicesOf x.val = i :: is → (∀ k ∈ i :: is, (u.slice k).crcEnd = some (seg, crc)) →
    u.proxy x.val = false → u.farCrcs x.val ≤ (u.site x.val).crcs.length →
    (∀ p ∈ (u.site x.val).crcs.take (u.farCrcs x.val), p = (seg, crc)) →
    v = u.each (i :: is) (fun s k => s.setSlice k { s.slice k with crcEnd := none }) →
    exec (.ctrlCrcReport e x) s = .next (v.setSite x.val { v.site x.val with crcs := (v.site x.val).crcs.drop (u.farCrcs x.val) })) ∧
  (∀ (x : Site), u.proxy x.val = true → (∀ i ∈ u.slicesOf x.val, (u.slice i).crcEnd.isSome = true) →
    exec (.ctrlCrcReport e x) s = .next (u.sendCrcs x.val)) ∧
  (∀ (sl : SliceNo) (v : Word32), u.sliceValid sl.val = true → u.siteState (u.sliceSite sl.val) = 1 ∨ u.siteState (u.sliceSite sl.val) = 6 →
    exec (.slpJumpCfgWrite e sl v) s = .next (u.each (u.siblings sl.val) (fun s j => ((s.set F.SLP_JUMP_CFG.EVCH j (bitsOf v.toNat 0 8)).set
      F.SLP_JUMP_CFG.EN j (bitsOf v.toNat 8 1)).set F.SLP_JUMP_CFG.HINT j (bitsOf v.toNat 9 1)))) ∧
  (∀ (sl : SliceNo) (r : Fin 4) (v : Word32), u.presetOk sl.val = true → exec (.slpLooppreWrite e sl r v) s = .next
    (u.each (u.siblings sl.val) (fun s j => s.set F.SLP_LOOPPRE.COUNT (4 * j + r.val) v.toNat))) ∧
  (∀ (sl : SliceNo) (v : Word32), u.presetOk sl.val = true → exec (.slpMatchTmoWrite e sl v) s = .next
    (u.each (u.siblings sl.val) (fun s j => s.set F.SLP_MATCH_TMO.PASSES j (bitsOf v.toNat 0 24))))

/-- Waveform accesses, periods, sets, drive events and set changes take effect (R113–R132, R376). -/
def Obligations.TimingComplete : Prop := ∀ (e : Nat) (s u : State), u = s.elapse e →
  (∀ t : Tile, u.get F.WOD_WF_RES.RESULT t.val ≠ 1 → gives (.waveformRead e t) s (fun v =>
    v.get F.WOD_WF_RES.RESULT t.val = 1 ∧ Tab.get none v.wfAcc t.val = some ⟨1, u.now, 2, 0, 0⟩)) ∧
  (∀ t : Tile, u.get F.WOD_WF_RES.RESULT t.val ≠ 1 → u.chanSettable (u.wfChan t.val) = true →
    u.writeBreaks (u.wfChan t.val) (u.get F.WOD_WF_SEL.SLOT t.val) (u.get F.WOD_WF_SEL.WF t.val) (u.wfData t.val) = none →
    gives (.waveformWrite e t) s (fun v => v.get F.WOD_WF_RES.RESULT t.val = 1 ∧ Tab.get none v.wfAcc t.val = some ⟨2, u.now, 2, 0, 0⟩)) ∧
  (∀ t : Tile, u.get F.WOD_WF_RES.RESULT t.val ≠ 1 → u.chanSettable (u.wfChan t.val) = false →
    gives (.waveformWrite e t) s (fun v => v.get F.WOD_WF_RES.RESULT t.val = 1 ∧ Tab.get none v.wfAcc t.val = some ⟨2, u.now, 3, 0, 0⟩)) ∧
  (∀ (t : Tile) (e0 e1 e2 : Ecc) a, Tab.get none u.wfAcc t.val = some a → gives (.waveformAccessComplete e t e0 e1 e2) s (fun v =>
    v.get F.WOD_WF_RES.RESULT t.val = a.result % 8 ∧ v.get F.WOD_WF_RES.REASON t.val = a.reason % 8 ∧
    v.get F.WOD_WF_RES.WF t.val = a.wf % 16)) ∧
  (∀ (t : Tile) (e0 e1 e2 : Ecc) a, Tab.get none u.wfAcc t.val = some a → a.result = 2 → a.op = 2 → gives (.waveformAccessComplete e t e0 e1 e2) s (fun v =>
    v.waveAt (u.wfChan t.val) (u.get F.WOD_WF_SEL.SLOT t.val) (u.get F.WOD_WF_SEL.WF t.val) = u.wfData t.val)) ∧
  (∀ (sl : SliceNo) (set : Fin 64) (v : Word64), u.sliceSettable sl.val = true → periodOk v.toNat = true →
    exec (.wodPeriodWrite e sl set v) s = .next (u.each (u.siblings sl.val) (fun s j => s.set F.WOD_PERIOD.PERIOD (64 * j + set.val) v.toNat))) ∧
  (∀ (sl : SliceNo) (set : Fin 64) (v : Word64), u.sliceSettable sl.val = true → periodOk v.toNat = false →
    exec (.wodPeriodWrite e sl set v) s = .next (u.set F.WOD_SLICE_STAT.PER_REJ sl.val 1)) ∧
  (∀ (sl : SliceNo) (set : Fin 64) (v : Word64), u.sliceSettable sl.val = false →
    exec (.wodPeriodWrite e sl set v) s = .next (u.set F.WOD_SLICE_STAT.WR_REJ sl.val 1)) ∧
  (∀ (sl : SliceNo) (v : Word32), u.sliceSettable sl.val = true → exec (.wodSliceTsWrite e sl v) s = .next
    (u.each (u.siblings sl.val) (fun s j => (s.set F.WOD_SLICE_TS.PRIMARY j (bitsOf v.toNat 0 6)).set F.WOD_SLICE_TS.ALTERNATE j (bitsOf v.toNat 8 6)))) ∧
  (∀ (ch : Chan) (v : Word32), u.chanSettable ch.val = true → exec (.wodChCfgWrite e ch v) s = .next
    (u.set F.WOD_CH_CFG.FIXCOMP ch.val (bitsOf v.toNat 0 1))) ∧
  (∀ (ch : Chan) (v : Word32), u.chanSettable ch.val = false → exec (.wodChCfgWrite e ch v) s = .next u) ∧
  (∀ (ch : Chan) d, firstDrive (u.chan ch.val).drive = some d → u.reached d.instant = true → u.waitsForVector ch.val d.ideal d.instant = false →
    (u.chan ch.val).level ≠ actLevel d.act → (u.chan ch.val).tooClose d.instant = false → gives (.driveEvent e ch) s (fun t =>
      t.chan ch.val = { u.chan ch.val with drive := (u.chan ch.val).drive.erase d, level := actLevel d.act, lastTrans := some d.instant })) ∧
  (∀ (ch : Chan) d, firstDrive (u.chan ch.val).drive = some d → u.reached d.instant = true → u.waitsForVector ch.val d.ideal d.instant = false →
    (u.chan ch.val).level ≠ actLevel d.act → (u.chan ch.val).tooClose d.instant = true → gives (.driveEvent e ch) s (fun t =>
      t.get F.WOD_CH_STAT.EDGE_DROP ch.val = 1 ∧ t.get F.WOD_FAULT_STAT.EDGE_DROP (ch.val / 128) = 1 ∧
      (t.chan ch.val).level = (u.chan ch.val).level)) ∧
  (∀ (x : Site) i is r rest, (u.slicesOf x.val).filter (fun i => (u.slice i).live) = i :: is → (u.site x.val).tsImm = r :: rest →
    u.atBoundary x.val (u.slice i).nextB = true → u.reached (u.slice i).nextB = true → dtReached (u.slice i).nextB r.release = true →
    (u.slice i).needEntry = false → u.holdDue x.val (u.slice i).nextB = false → u.stopDue x.val (u.slice i).nextB = false → u.jumpsDue i = [] →
    exec (.timingSetRelease e x) s = .next ((u.setSite x.val { u.site x.val with tsImm := rest }).each (i :: is)
      (fun s j => s.immediateSets j (u.slice i).nextB r)))

/-- Compares, comparator settings, fail records, counts and stops take effect (R134–R150). -/
def Obligations.CompareComplete : Prop := ∀ (e : Nat) (s u : State), u = s.elapse e →
  (∀ (ch : Chan) (inp : SenseIn) (st : CmpState) a, firstCmp (u.chan ch.val).cmps = some a → a.kind = 1 → u.actionDue ch.val a = true →
    st = u.sense ch.val inp → exec (.strobe e ch inp) s = .next
      ((u.set F.SEP_CMP_CH_LIVE.STATE ch.val st.code).verdict ch.val a (strobePasses a.expect st) (1 <<< st.code))) ∧
  (∀ (ch : Chan) (dL dM dH : Nat) a, firstCmp (u.chan ch.val).cmps = some a → a.kind = 2 → u.actionDue ch.val a = true →
    dL < 80 ∨ 240 ≤ dL → dM < 80 ∨ 240 ≤ dM → dH < 80 ∨ 240 ≤ dH → exec (.windowEnd e ch dL dM dH) s = .next
      (u.drew.drew.drew.verdict ch.val a (windowPasses a.expect (ofBool (decide (240 ≤ dL)) + 2 * ofBool (decide (240 ≤ dM)) +
        4 * ofBool (decide (240 ≤ dH)))) (ofBool (decide (240 ≤ dL)) + 2 * ofBool (decide (240 ≤ dM)) + 4 * ofBool (decide (240 ≤ dH))))) ∧
  (∀ (ch : Chan) (r : CmpReg) (v : Word32), u.chanSettable ch.val = true → cmpValueOk r v.toNat = true → u.busHolds ch.val = false →
    gives (.comparatorSettingWrite e ch r v) s (fun t => t.get F.SEP_CMP_CH_LIVE.VALID ch.val = 0 ∧
      (t.chan ch.val).settle = some (wrap64 (u.now + us 2)))) ∧
  (∀ (ch : Chan) (r : CmpReg) (v : Word32), u.chanSettable ch.val = false ∨ cmpValueOk r v.toNat = false →
    exec (.comparatorSettingWrite e ch r v) s = .next (u.set F.SEP_CMP_CH_STAT.WR_REJ ch.val 1)) ∧
  (∀ (ch : Chan) (inp : SenseIn) d, (u.chan ch.val).settle = some d → u.reached d = true → u.chanOn ch.val = true →
    u.flag F.MRD_CH_QF.HELD ch.val = false → gives (.settlingEnd e ch inp) s (fun t =>
      t.get F.SEP_CMP_CH_LIVE.STATE ch.val = (u.sense ch.val inp).code ∧ t.get F.SEP_CMP_CH_LIVE.VALID ch.val = 1)) ∧
  (∀ (ch : Chan) (v : Word32), gives (.sepCmpChMaskWrite e ch v) s (fun t => t.get F.SEP_CMP_CH_MASK.MASK ch.val = v.toNat % 2)) ∧
  (∀ (sl : SliceNo), u.sliceValid sl.val = true → (u.slice sl.val).live = true → (u.slice sl.val).atGran = true →
    u.reached (u.slice sl.val).nextB = true → exec (.granuleCountsAdd e sl) s = .next (u.addCounts sl.val)) ∧
  (∀ (sl : SliceNo) (tag : Site) x b r, (u.slice sl.val).staged = (x, b) :: r → tag.val = x → u.proxy x = false →
    exec (.failRecordArrival e sl tag) s = .next (((u.setSlice sl.val { u.slice sl.val with staged := r }).set F.SEP_CAP_STAGE.LEVEL sl.val
      r.length).capRecord x b)) ∧
  (∀ (sl : SliceNo) (tag : Site) x b r, (u.slice sl.val).staged = (x, b) :: r → tag.val ≠ x → exec (.failRecordArrival e sl tag) s = .next
    (((u.setSlice sl.val { u.slice sl.val with staged := r }).set F.SEP_CAP_STAGE.LEVEL sl.val r.length).faultSite 15
      F.SEP_CAP_FAULT_STAT.TAG_MISMATCH 0 x 5)) ∧
  (∀ (x : Site) (v : Word32), rdOk (u.get F.SEP_CAP_RING_RD.POS x.val) (u.get F.SEP_CAP_RING_WR.POS x.val) v.toNat = true →
    exec (.captureRingRdWrite e x v) s = .next (u.set F.SEP_CAP_RING_RD.POS x.val v.toNat)) ∧
  (∀ (x : Site) d, (u.site x.val).failDet = some d → u.reached d = true → (u.site x.val).stop = none →
    u.siteState x.val = 3 ∨ u.siteState x.val = 4 ∨ u.siteState x.val = 5 → exec (.stopDecision e x) s = .next
      ((u.setSite x.val { u.site x.val with failDet := none, stopped := true, ctxStop := u.siteState x.val != 5, stop := some ⟨u.get
        F.SEP_CAP_POLICY.STOP x.val, d, wrap64 (d + u.stopLead x.val (u.get F.SEP_CAP_POLICY.STOP x.val))⟩ }).tellStop x.val)) ∧
  (∀ (x : Site) d i is, (u.site x.val).stop = some d → (u.slicesOf x.val).filter (fun i => (u.slice i).live) = i :: is →
    u.atBoundary x.val (u.slice i).nextB = true → u.reached (u.slice i).nextB = true → dtReached (u.slice i).nextB d.earliest = true →
    exec (.stopRelease e x) s = .next (u.stopPlay x.val d (u.slice i).nextB)) ∧
  (∀ (x : Site) d, (u.site x.val).stop = some d → (u.slicesOf x.val).filter (fun i => (u.slice i).live) = [] → u.reached d.earliest = true →
    (∀ i ∈ u.slicesOf x.val, u.get F.SLP_STAT.STATE i ≠ 3) → exec (.stopRelease e x) s = .next (u.stopPlay x.val d d.earliest))

/-- The step words of registers, flags and branches have the effect of R155–R157 and R168 where a context executes them. -/
def Obligations.StepArithmeticComplete : Prop := ∀ (e : Nat) (s u : State), u = s.elapse e →
  (∀ (x : Site) w, u.runsWord x.val 0x00 w = true → gives (.nop e x) s (fun t => t.stepPc x.val = (u.stepPc x.val + 1) % 2 ^ 20 ∧ ∀ n, t.gr x.val n = u.gr x.val n)) ∧
  (∀ (x : Site) w, u.runsWord x.val 0x30 w = true → gives (.ldi e x) s (fun t => t.gr x.val (regA w) = (if flagOf w 1 then imm40 w * 2 ^ 24 else imm40 w) % 2 ^ 64 ∧ t.stepPc x.val = (u.stepPc x.val + 1) % 2 ^ 20)) ∧
  (∀ (x : Site) w, u.runsWord x.val 0x31 w = true → gives (.addi e x) s (fun t => t.gr x.val (regA w) = (if flagOf w 1 then subG (flagOf w 0) (u.gr x.val (regA w)) (imm40 w) else addG (flagOf w 0) (u.gr x.val (regA w)) (imm40 w)).1 % 2 ^ 64 ∧ t.stepPc x.val = (u.stepPc x.val + 1) % 2 ^ 20 ∧
      ((if flagOf w 1 then subG (flagOf w 0) (u.gr x.val (regA w)) (imm40 w) else addG (flagOf w 0) (u.gr x.val (regA w)) (imm40 w)).2 = true → t.get F.MDR_STEP_STAT.SAT x.val = 1))) ∧
  (∀ (x : Site) w, u.runsWord x.val 0x32 w = true → gives (.add e x) s (fun t => t.gr x.val (regA w) = (addG (flagOf w 0) (u.gr x.val (regA w)) (u.gr x.val (regB w))).1 % 2 ^ 64 ∧ t.stepPc x.val = (u.stepPc x.val + 1) % 2 ^ 20 ∧
      ((addG (flagOf w 0) (u.gr x.val (regA w)) (u.gr x.val (regB w))).2 = true → t.get F.MDR_STEP_STAT.SAT x.val = 1))) ∧
  (∀ (x : Site) w, u.runsWord x.val 0x33 w = true → gives (.sub e x) s (fun t => t.gr x.val (regA w) = (subG (flagOf w 0) (u.gr x.val (regA w)) (u.gr x.val (regB w))).1 % 2 ^ 64 ∧ t.stepPc x.val = (u.stepPc x.val + 1) % 2 ^ 20 ∧
      ((subG (flagOf w 0) (u.gr x.val (regA w)) (u.gr x.val (regB w))).2 = true → t.get F.MDR_STEP_STAT.SAT x.val = 1))) ∧
  (∀ (x : Site) w, u.runsWord x.val 0x34 w = true → gives (.mov e x) s (fun t => t.gr x.val (regA w) = u.gr x.val (regB w) % 2 ^ 64 ∧ t.stepPc x.val = (u.stepPc x.val + 1) % 2 ^ 20)) ∧
  (∀ (x : Site) w v, u.runsWord x.val 0x35 w = true → u.getSource x.val (bitsOf w 8 8) = some v → gives (.get e x) s (fun t => t.gr x.val (regA w) = v % 2 ^ 64 ∧ t.stepPc x.val = (u.stepPc x.val + 1) % 2 ^ 20)) ∧
  (∀ (x : Site) w, u.runsWord x.val 0x36 w = true → gives (.cmpi e x) s (fun t => t.get F.MDR_STEP_STAT.Z x.val = ofBool (u.gr x.val (regA w) == imm40 w) ∧
      t.get F.MDR_STEP_STAT.L x.val = ofBool (decide (u.gr x.val (regA w) < imm40 w)) ∧ t.stepPc x.val = (u.stepPc x.val + 1) % 2 ^ 20)) ∧
  (∀ (x : Site) w, u.runsWord x.val 0x37 w = true → gives (.cmp e x) s (fun t => t.get F.MDR_STEP_STAT.Z x.val = ofBool (u.gr x.val (regA w) == u.gr x.val (regB w)) ∧
      t.get F.MDR_STEP_STAT.L x.val = ofBool (decide (u.gr x.val (regA w) < u.gr x.val (regB w))) ∧ t.stepPc x.val = (u.stepPc x.val + 1) % 2 ^ 20)) ∧
  (∀ (x : Site) w, u.runsWord x.val 0x40 w = true → bitsOf w 0 10 < 1021 → gives (.bin e x) s (fun t => t.get F.MDR_STEP_BIN.BIN x.val = bitsOf w 0 10 ∧ t.get F.MDR_STEP_BIN.VALID x.val = 1 ∧ t.stepPc x.val = (u.stepPc x.val + 1) % 2 ^ 20)) ∧
  (∀ (x : Site) w, u.runsWord x.val 0x40 w = true → 1021 ≤ bitsOf w 0 10 → gives (.bin e x) s (fun t => t.get F.MDR_STEP_STAT.BIN_REJ x.val = 1 ∧ t.get F.MDR_STEP_BIN.BIN x.val = u.get F.MDR_STEP_BIN.BIN x.val ∧ t.stepPc x.val = (u.stepPc x.val + 1) % 2 ^ 20)) ∧
  (∀ (x : Site) w, u.runsWord x.val 0x20 w = true → bitsOf w 0 20 < (u.ctx x.val).words → gives (.jmp e x) s (fun t => t.stepPc x.val = bitsOf w 0 20)) ∧
  (∀ (x : Site) w, u.runsWord x.val 0x21 w = true → u.get F.MDR_STEP_STAT.DEPTH x.val < 16 → bitsOf w 0 20 < (u.ctx x.val).words → gives (.call e x) s (fun t => t.stepPc x.val = bitsOf w 0 20 ∧ t.get F.MDR_STEP_STAT.DEPTH x.val = u.get F.MDR_STEP_STAT.DEPTH x.val + 1 ∧
      t.get F.MDR_STEP_STACK.INDEX (16 * x.val + u.get F.MDR_STEP_STAT.DEPTH x.val) = (u.stepPc x.val + 1) % 2 ^ 20)) ∧
  (∀ (x : Site) w d, u.runsWord x.val 0x22 w = true → u.get F.MDR_STEP_STAT.DEPTH x.val = d + 1 → gives (.ret e x) s (fun t => t.stepPc x.val = u.get F.MDR_STEP_STACK.INDEX (16 * x.val + d) % 2 ^ 20 ∧ t.get F.MDR_STEP_STAT.DEPTH x.val = d % 32 ∧
      (flagOf w 0 = true → t.get F.MDR_STEP_STAT.TRAP_ACTIVE x.val = 0))) ∧
  (∀ (x : Site) w, u.runsWord x.val 0x23 w = true → 1 < u.gr x.val (regA w) → bitsOf w 8 20 < (u.ctx x.val).words → gives (.dbnz e x) s (fun t => t.gr x.val (regA w) = (u.gr x.val (regA w) - 1) % 2 ^ 64 ∧ t.stepPc x.val = bitsOf w 8 20)) ∧
  (∀ (x : Site) w, u.runsWord x.val 0x23 w = true → u.gr x.val (regA w) ≤ 1 → gives (.dbnz e x) s (fun t => t.gr x.val (regA w) = 0 ∧ t.stepPc x.val = (u.stepPc x.val + 1) % 2 ^ 20)) ∧
  (∀ (x : Site) w, u.runsWord x.val 0x7F w = true → exec (.stop e x) s = .next ((u.shutTrim x.val).testDone x.val))

/-- The step words that play, jump, use units and services take effect (R157–R167). -/
def Obligations.StepUnitsComplete : Prop := ∀ (e : Nat) (s u : State), u = s.elapse e →
  (∀ (x : Site) w, u.runsWord x.val 0x01 w = true → bitsOf w 0 24 ≠ 0xFFFFFF → bitsOf w 24 24 ≠ 0 → (∀ i ∈ u.slicesOf x.val, u.sliceFull i = false) →
    (u.allFar x.val = true → u.farFull x.val = false) → u.siteState x.val ≠ 3 → exec (.play e x) s = .next (((((((u.drewFar x.val).drewFar x.val).shutTrim x.val).setCtx x.val { u.ctx x.val with playAt := if flagOf w 0 then some (u.gr x.val 15) else none }).sendEntry x.val
      (bitsOf w 0 24) (bitsOf w 24 24)).advance x.val))) ∧
  (∀ (x : Site) w, u.runsWord x.val 0x01 w = true → bitsOf w 0 24 ≠ 0xFFFFFF → bitsOf w 24 24 ≠ 0 →
    ((∃ i ∈ u.slicesOf x.val, u.sliceFull i = true) ∨ (u.allFar x.val = true ∧ u.farFull x.val = true)) →
    exec (.play e x) s = .next ((u.drewFar x.val).set F.MDR_STEP_STAT.STATE x.val 3)) ∧
  (∀ (x : Site) w, u.runsWord x.val 0x01 w = true → bitsOf w 0 24 ≠ 0xFFFFFF → bitsOf w 24 24 ≠ 0 →
    (∀ i ∈ u.slicesOf x.val, u.sliceFull i = false) → (u.allFar x.val = true → u.farFull x.val = false) →
    gives (.play e x) s (fun t => t.stepPc x.val = (u.stepPc x.val + 1) % 2 ^ 20)) ∧
  (∀ (x : Site) w, u.runsWord x.val 0x02 w = true → bitsOf w 0 24 ≠ 0xFFFFFF →
    exec (.jseg e x) s = .next ((if (if u.allFar x.val then !u.farEnded x.val else ((u.shutTrim x.val).slicesOf x.val).any (fun i =>
      (u.shutTrim x.val).get F.SLP_STAT.STATE i == 2 || (u.shutTrim x.val).get F.SLP_STAT.STATE i == 3)) then
      ((u.shutTrim x.val).drewFar x.val).addJump x.val 1 (wrap64 (u.now + u.lead x.val)) (bitsOf w 0 24)
      else ((u.shutTrim x.val).drewFar x.val).set F.MDR_STEP_STAT.JUMP_IDLE x.val 1).advance x.val)) ∧
  (∀ (x : Site) w i, u.runsWord x.val 0x03 w = true → u.leadSlice x.val = some i → flagOf w 0 = false →
    exec (.tset e x) s = .next ((((u.sendToken x.val 10 (wrap64 (u.now + u.lead x.val)) [bitsOf w 0 6, bitsOf w 8 6, 0, u.setPeriodOf i (bitsOf w 0 6)]).setSite x.val
      { (u.sendToken x.val 10 (wrap64 (u.now + u.lead x.val)) [bitsOf w 0 6, bitsOf w 8 6, 0, u.setPeriodOf i (bitsOf w 0 6)]).site x.val with
        tsImm := (u.site x.val).tsImm ++ [{ prim := bitsOf w 0 6, alt := bitsOf w 8 6, release := wrap64 (u.now + u.lead x.val) }] }).advance x.val))) ∧
  (∀ (x : Site) w, u.runsWord x.val 0x04 w = true → u.chanSite (bitsOf w 0 10) = some x.val → exec (.acq e x) s = .next ((if flagOf w 0 then u.disarmAtDT (bitsOf w 0 10) (wrap64 (u.now + u.img.leadCore)) false
      else u.armUnit (bitsOf w 0 10) (wrap64 (u.now + u.img.leadCore)) false false).advance x.val)) ∧
  (∀ (x : Site) w, u.runsWord x.val 0x05 w = true → u.chanSite (bitsOf w 0 10) = some x.val → u.waiting x.val 0x05 = none → flagOf w 0 = false →
    bitsOf w 16 32 = 0 → exec (.meas e x) s = .next ((u.startMeas (bitsOf w 0 10) u.now false).advance x.val)) ∧
  (∀ (x : Site) w, u.runsWord x.val 0x05 w = true → u.chanSite (bitsOf w 0 10) = some x.val → u.waiting x.val 0x05 = none → flagOf w 0 = true →
    u.measReason (bitsOf w 0 10) false = 0 → exec (.meas e x) s = .next ((u.startMeas (bitsOf w 0 10) u.now false).beginWait x.val 0x05 (us (bitsOf w 16 32)) (bitsOf w 0 10))) ∧
  (∀ (x : Site) w v, u.runsWord x.val 0x05 w = true → u.chanSite (bitsOf w 0 10) = some x.val → u.waiting x.val 0x05 = some v → flagOf w 0 = true →
    u.get F.TIA_CH_STAT.STATE (bitsOf w 0 10) = 3 → exec (.meas e x) s = .next (u.endWait x.val)) ∧
  (∀ (x : Site) w, u.runsWord x.val 0x06 w = true → u.chanSite (bitsOf w 0 10) = some x.val → u.get F.TIA_CH_COUNT.SAMPLES (bitsOf w 0 10) ≠ 0 →
    u.flag F.TIA_CH_STAT.OVF (bitsOf w 0 10) = false → u.flag F.TIA_CH_STAT.STALE (bitsOf w 0 10) = false → exec (.mget e x) s = .next (((u.drew.setGr x.val (bitsOf w 12 4) (u.mgetValue (bitsOf w 0 10) (bitsOf w 10 2))).setT x.val false).advance x.val)) ∧
  (∀ (x : Site) w, u.runsWord x.val 0x41 w = true → bitsOf w 12 2 = 0 → bitsOf w 8 4 = 0 → u.safRefuses (flowOf { dt := u.now, g0 := 0, g1 := 0, arg := bitsOf w 16 32, flow := bitsOf w 0 8, site := x.val, src := 4 }) = none →
    exec (.dlog e x) s = .next ((u.safAdd { dt := u.now, g0 := 0, g1 := 0, arg := bitsOf w 16 32, flow := bitsOf w 0 8, site := x.val, src := 4 }).advance x.val)) ∧
  (∀ (x : Site) w, u.runsWord x.val 0x43 w = true → (u.ctx x.val).svcItem = none → 8 ≤ bitsOf w 0 10 → bitsOf w 0 10 ≤ 71 → u.hasConn x.val (bitsOf w 0 10 - 8) = true → flagOf w 0 = false →
    u.safRefuses (flowOf { dt := u.now, g0 := u.gr x.val 0, g1 := u.gr x.val 1, arg := bitsOf w 16 32, flow := bitsOf w 0 10, site := x.val, src := 0 }) = none →
    exec (.req e x) s = .next ((u.safAdd { dt := u.now, g0 := u.gr x.val 0, g1 := u.gr x.val 1, arg := bitsOf w 16 32, flow := bitsOf w 0 10, site := x.val, src := 0 }).advance x.val)) ∧
  (∀ (x : Site) w, u.runsWord x.val 0x43 w = true → (u.ctx x.val).svcItem = none → u.hasConn x.val (bitsOf w 0 10 - 8) = false → flagOf w 0 = true →
    exec (.req e x) s = .next ((u.set F.MDR_STEP_SVC_RES.RESULT x.val (resultWord 3 0 0)).endWait x.val)) ∧
  (∀ (x : Site) w, u.runsWord x.val 0x42 w = true → imm40 w % 32 = 0 → u.proto (bitsOf w 0 6) ≠ 0 → u.get F.BUS_CFG.SITE (bitsOf w 0 6) = x.val → u.txFull (bitsOf w 0 6) = false →
    flagOf w 0 = false → u.readable (flagOf w 1) (imm40 w) 32 = true → exec (.bustx e x) s = .next ((u.postRaw (bitsOf w 0 6) (imm40 w) (flagOf w 1) (u.bytesAt (flagOf w 1) (imm40 w) 32)).advance x.val)) ∧
  (∀ (x : Site) w, u.runsWord x.val 0x42 w = true → imm40 w % 32 = 0 → u.proto (bitsOf w 0 6) ≠ 0 → u.get F.BUS_CFG.SITE (bitsOf w 0 6) = x.val → u.txFull (bitsOf w 0 6) = true →
    u.waiting x.val 0x42 = none → exec (.bustx e x) s = .next (u.beginWait x.val 0x42 0 0))

/-- The waits, barriers, traps, fetches and boundaries of a context take effect (R153, R159–R169). -/
def Obligations.StepWaitsComplete : Prop := ∀ (e : Nat) (s u : State), u = s.elapse e →
  (∀ (x : Site) w, u.runsWord x.val 0x10 w = true → u.waiting x.val 0x10 = none → flagOf w 1 = false → u.evMet x.val (bitsOf w 0 3) (flagOf w 0) = false →
    exec (.waitev e x) s = .next (u.beginWait x.val 0x10 (ns (imm40 w)) (bitsOf w 0 3))) ∧
  (∀ (x : Site) w, u.runsWord x.val 0x10 w = true → flagOf w 1 = false → u.evMet x.val (bitsOf w 0 3) (flagOf w 0) = true →
    exec (.waitev e x) s = .next (((u.set F.MDR_STEP_EVDT.DT x.val (Tab.get 0 (u.ctx x.val).evlast (bitsOf w 0 3))).clearEvl x.val (bitsOf w 0 3)).endWait x.val)) ∧
  (∀ (x : Site) w, u.runsWord x.val 0x11 w = true → flagOf w 0 = false → u.reached (u.gr x.val (regA w)) = true → exec (.waitdt e x) s = .next (u.endWait x.val)) ∧
  (∀ (x : Site) w, u.runsWord x.val 0x11 w = true → flagOf w 0 = false → u.waiting x.val 0x11 = none → u.reached (u.gr x.val (regA w)) = false → exec (.waitdt e x) s = .next (u.beginWait x.val 0x11 (ns (imm40 w)) (u.gr x.val (regA w)))) ∧
  (∀ (x : Site) w, u.runsWord x.val 0x11 w = true → flagOf w 0 = true → regA w = 0 → u.waiting x.val 0x11 = none → u.reached (wrap64 (u.now + ns (imm40 w))) = false → exec (.waitdt e x) s = .next (u.beginWait x.val 0x11 0 (wrap64 (u.now + ns (imm40 w))))) ∧
  (∀ (x : Site) w, u.runsWord x.val 0x12 w = true → u.drained x.val = true → exec (.drain e x) s = .next (((u.drewFar x.val).each ((u.drewFar x.val).slicesOf x.val) (fun s i => s.settleEnd i)).endWait x.val)) ∧
  (∀ (x : Site) w, u.runsWord x.val 0x12 w = true → u.drained x.val = false → u.waiting x.val 0x12 = none → exec (.drain e x) s = .next ((u.drewFar x.val).beginWait x.val 0x12 (ns (imm40 w)) 0)) ∧
  (∀ (x : Site) w, u.runsWord x.val 0x13 w = true → u.syncMember (bitsOf w 0 6) x.val = true → u.waiting x.val opSync = none → Tab.get none u.barriers (bitsOf w 0 6) = none →
    exec (.sync e x) s = .next ((u.beginWait x.val opSync (ns (imm40 w)) (bitsOf w 0 6)).formSync (bitsOf w 0 6))) ∧
  (∀ (x : Site) w, u.runsWord x.val 0x13 w = true → u.syncMember (bitsOf w 0 6) x.val = false → exec (.sync e x) s = .next (u.stepFault x.val 8)) ∧
  (∀ (x : Site) w, u.runsWord x.val 0x14 w = true → imm40 w ≠ 0 → u.flag F.MDR_SITE_STATE.TRIMOK x.val = true → exec (.trimok e x) s = .next (((u.set F.MDR_STEP_TRIM.DT x.val (wrap64 (wrap64 (u.now + u.lead x.val) + ns (imm40 w)))).advance x.val))) ∧
  (∀ (x : Site) w, u.runsWord x.val 0x14 w = true → imm40 w ≠ 0 → u.flag F.MDR_SITE_STATE.TRIMOK x.val = false → exec (.trimok e x) s = .next (((((u.set F.MDR_SITE_STATE.TRIMOK x.val 1).setSite x.val { u.site x.val with trimOpen := wrap64 (u.now + u.lead x.val) }).sendToken x.val 13
      (wrap64 (u.now + u.lead x.val)) [1]).set F.MDR_STEP_TRIM.DT x.val (wrap64 (wrap64 (u.now + u.lead x.val) + ns (imm40 w)))).advance x.val)) ∧
  (∀ (x : Site), u.ctxRuns x.val = true → u.lineHeld x.val (u.stepPc x.val) = none → u.stepPc x.val < (u.ctx x.val).words →
    u.eccAt (u.ctx x.val).hot ((u.ctx x.val).base + 64 * (u.stepPc x.val / 8)) 64 .clean = .clean →
    u.get F.MDR_STEP_STAT.STATE x.val ≠ 4 → exec (.stepWordFetch e x .clean) s = .next
      (u.setCtx x.val { u.ctx x.val with lines := ((u.ctx x.val).lines.filter (fun p => p.1 == u.stepPc x.val / 8)) ++
        [(u.stepPc x.val / 8, u.readLine x.val (u.stepPc x.val / 8))] })) ∧
  (∀ (x : Site) (rom : Ecc) (v : State), u.ctxLive x.val = true → v = u.microRead rom → v.ctxLive x.val = true → (v.ctx x.val).faultPend = true →
    exec (.stepBoundarySample e x rom) s = .next (((v.withdrawSync x.val).stopCtx x.val).setCtx x.val { v.ctx x.val with faultPend := false, wait := none })) ∧
  (∀ (x : Site) (rom : Ecc) (v : State), u.ctxLive x.val = true → v = u.microRead rom → v.ctxLive x.val = true → (v.ctx x.val).faultPend = false →
    v.ctxRuns x.val = true ∨ v.ctxEnds x.val = true → (v.site x.val).abortPend = true →
    exec (.stepBoundarySample e x rom) s = .next (v.settleAbort x.val)) ∧
  (∀ (x : Site) (rom : Ecc) (v : State), u.ctxLive x.val = true → v = u.microRead rom → v.ctxLive x.val = true → (v.ctx x.val).faultPend = false →
    v.ctxRuns x.val = true ∨ v.ctxEnds x.val = true → (v.site x.val).abortPend = false → (v.site x.val).ctxStop = true →
    exec (.stepBoundarySample e x rom) s = .next ((v.shutTrim x.val).testDone x.val)) ∧
  (∀ (x : Site) (rom : Ecc) (v : State), u.ctxLive x.val = true → v = u.microRead rom → v.ctxLive x.val = true → (v.ctx x.val).faultPend = false →
    v.ctxRuns x.val = true → (v.site x.val).abortPend = false → (v.site x.val).ctxStop = false →
    v.preceded x.val = true → exec (.stepBoundarySample e x rom) s = .next (v.takeTrap x.val)) ∧
  (∀ (x : Site) (rom : Ecc) (v : State) k, u.ctxLive x.val = true → v = u.microRead rom → v.ctxLive x.val = true → v.ctxRuns x.val = true → v.preceded x.val = false →
    v.wordFault x.val = some k → exec (.stepBoundarySample e x rom) s = .next (v.stepFault x.val k)) ∧
  (∀ (x : Site), u.proxy x.val = false → u.siteState x.val = 3 ∨ u.siteState x.val = 5 → (u.site x.val).start = none →
    (u.site x.val).stop = none → u.slicesOf x.val ≠ [] → (∀ i ∈ u.slicesOf x.val, u.playEnded i = true ∧ (u.slice i).queue ≠ []) →
    gives (.sliceEndReport e x) s (fun t => t.get F.MDR_STEP_STAT.RESTART x.val = 1)) ∧
  (∀ (x : Site) (c : EvCh) m, u.consumes = true → m < 8 → bitAt (u.wmask x.val m (c.val / 32)) (c.val % 32) = true →
    bitAt (u.evl x.val (c.val / 32)) (c.val % 32) = false → gives (.eventLatch e x c) s (fun t =>
      t.evl x.val (c.val / 32) = setBit (u.evl x.val (c.val / 32)) (c.val % 32) % 2 ^ 32)) ∧
  (∀ (x : Site) (c : EvCh) m, u.consumes = true → m < 8 → bitAt (u.wmask x.val m (c.val / 32)) (c.val % 32) = true →
    bitAt (u.evl x.val (c.val / 32)) (c.val % 32) = true → exec (.eventLatch e x c) s = .next (u.set F.MDR_STEP_EVSTAT.OVERRUN x.val 1)) ∧
  (∀ (x : Site) w, (u.ctx x.val).wait = some w → u.ctxRuns x.val = true → u.preceded x.val = false → u.due w.limit = true →
    u.waitMet x.val w = false → exec (.waitTimeout e x) s = .next (u.timeOut x.val)) ∧
  (∀ (x : Site) r, (u.ctx x.val).svcDone = some r → u.ctxRuns x.val = true → u.preceded x.val = false →
    (u.waiting x.val 0x43).isSome = true → exec (.serviceResult e x) s = .next
      (((u.set F.MDR_STEP_SVC_RES.RESULT x.val r).setCtx x.val { u.ctx x.val with svcItem := none, svcDone := none }).endWait x.val)) ∧
  (∀ (b : Barrier) r, Tab.get none u.barriers b.val = some r → u.reached r = true → gives (.syncRelease e b) s (fun t =>
    t.get F.MDR_STEP_SYNC_DT.DT b.val = r % 2 ^ 64 ∧
    t.get F.MDR_STEP_SYNC_STAT.RELEASES b.val = min (2 ^ 32 - 1) (u.get F.MDR_STEP_SYNC_STAT.RELEASES b.val + 1) % 2 ^ 32 ∧
    t.get F.MDR_STEP_SYNC_STAT.ARRIVED b.val = (t.arrived b.val).length % 2 ^ 9)) ∧
  (∀ (x : Site), u.consumes = true → u.flag F.MDR_STEP_STAT.TRAP_PEND x.val = false → exec (.trapFiring e x) s = .next (u.set F.MDR_STEP_STAT.TRAP_PEND x.val 1)) ∧
  (∀ (x : Site), u.flag F.MDR_SITE_STATE.TRIMOK x.val = true → u.proxy x.val = false → u.reached (u.get F.MDR_STEP_TRIM.DT x.val) = true →
    exec (.trimWindowClose e x) s = .next (u.shutTrim x.val)) ∧
  (∀ (b : Barrier) (w : Fin 8) (v : Word32), u.arrived b.val = [] → Tab.get none u.barriers b.val = none →
    exec (.syncMemberWrite e b w v) s = .next (u.set F.MDR_STEP_SYNC_MEM.SITE (8 * b.val + w.val) v.toNat)) ∧
  (∀ (b : Barrier) (w : Fin 8) (v : Word32), u.arrived b.val ≠ [] →
    exec (.syncMemberWrite e b w v) s = .next (u.set F.MDR_STEP_SYNC_STAT.WR_REJ b.val 1)) ∧
  (∀ (x : Site) w, u.waiting x.val opSync = some w → u.due (Tab.get none u.barriers w.aux) = true → exec (.stepMissedRelease e x) s = .next
    ((u.withdrawSync x.val).faultSite 14 F.MDR_STEP_FAULT_STAT.MISSED_RELEASE 0 x.val 1))

/-- An acquisition unit is configured, armed, forced and disarmed (R177, R180, R186). -/
def Obligations.AcquisitionComplete : Prop := ∀ (e : Nat) (s u : State), u = s.elapse e →
  (∀ ch : Chan, u.acqState ch.val = 0 → u.armReason ch.val true = 0 → gives (.acqArmCommand e ch) s (fun t =>
    t.get F.SEP_ACQ_CH_STAT.STATE ch.val = 1 ∧ (t.acqU ch.val).armAt = some (wrap64 (u.now + ns 120)) ∧ (t.acqU ch.val).timeReleased = false)) ∧
  (∀ ch : Chan, u.acqState ch.val = 0 → u.armReason ch.val true ≠ 0 → exec (.acqArmCommand e ch) s =
    .next ((u.drew.set F.SEP_ACQ_CH_STAT.ARM_REJ ch.val 1).set F.SEP_ACQ_CH_STAT.REASON ch.val (u.armReason ch.val true))) ∧
  (∀ ch : Chan, u.acqState ch.val ≠ 0 → exec (.acqArmCommand e ch) s = .next (u.set F.SEP_ACQ_CH_STAT.ARM_DUP ch.val 1)) ∧
  (∀ (ch : Chan) x, u.chanSite ch.val = some x → u.acqState ch.val ≠ 0 → 1 ≤ u.siteState x → u.siteState x ≤ 4 → exec (.acqDisarmCommand e ch) s =
    .next (u.setAcqU ch.val { u.acqU ch.val with disarmAt := (u.acqU ch.val).disarmAt ++ [wrap64 (u.now + ns 120)] })) ∧
  (∀ ch : Chan, exec (.acqForce e ch) s = .next (u.setAcqU ch.val { u.acqU ch.val with forceAt := (u.acqU ch.val).forceAt ++ [wrap64 (u.now + ns 120)] })) ∧
  (∀ ch : Chan, u.consumes = true → u.flag F.SEP_ACQ_CH_ARMEV.ARM_EN ch.val = true → u.acqState ch.val = 0 → u.armReason ch.val true = 0 → gives (.acqEventArm e ch true) s (fun t =>
    t.get F.SEP_ACQ_CH_STAT.STATE ch.val = 1 ∧ (t.acqU ch.val).armAt = some (wrap64 (u.now + ns 8)) ∧ (t.acqU ch.val).timeReleased = false)) ∧
  (∀ ch : Chan, u.consumes = true → u.flag F.SEP_ACQ_CH_ARMEV.ARM_EN ch.val = true → u.acqState ch.val ≠ 0 → exec (.acqEventArm e ch true) s =
    .next ((u.set F.SEP_ACQ_CH_STAT.ARM_DUP ch.val 1).set F.SEP_ACQ_CH_STAT.OVERRUN ch.val 1)) ∧
  (∀ ch : Chan, u.consumes = true → u.flag F.SEP_ACQ_CH_ARMEV.DIS_EN ch.val = true → exec (.acqEventArm e ch false) s =
    .next (u.disarmAtDT ch.val (wrap64 (u.now + ns 8)) true)) ∧
  (∀ (ch : Chan) d, (u.acqU ch.val).disarmAt.any (fun f => u.reached f) = false → (u.acqU ch.val).armAt = some d → u.acqState ch.val = 1 → u.reached d = true →
    u.flag F.MRD_CH_QF.HELD ch.val = false → gives (.acqArmDt e ch false) s (fun t => t.get F.SEP_ACQ_CH_STAT.STATE ch.val = 2 ∧
      t.get F.SEP_ACQ_CH_STAT.SEQ ch.val = 0 ∧ t.get F.SEP_ACQ_CH_ARM_DT.DT ch.val = d % 2 ^ 64 ∧ (t.acqU ch.val).entry = d ∧
      (t.acqU ch.val).pre = [] ∧ (t.acqU ch.val).recno = 0)) ∧
  (∀ ch : Chan, (u.acqU ch.val).disarmAt.any (fun f => u.reached f) = true → u.acqState ch.val = 2 → gives (.acqArmDt e ch false) s (fun t =>
    t.get F.SEP_ACQ_CH_STAT.STATE ch.val = 0 ∧ (t.acqU ch.val).disarmAt = (u.acqU ch.val).disarmAt.filter (fun f => !u.reached f))) ∧
  (∀ ch : Chan, (u.acqU ch.val).disarmAt.any (fun f => u.reached f) = true → u.acqState ch.val = 4 → gives (.acqArmDt e ch false) s (fun t =>
    t.get F.SEP_ACQ_CH_STAT.STATE ch.val = 4 ∧ (t.acqU ch.val).disarmWhileMoving = true)) ∧
  (∀ (ch : Chan) (v : Word32) n, n = (if bitsOf v.toNat 5 3 = 7 then 0 else 1024 * 2 ^ bitsOf v.toNat 5 3) → u.acqSettable ch.val = true →
    u.acqCfgOk ch.val v.toNat = true → n ≤ u.get F.SEP_ACQ_POOL.FREE (ch.val / 128) + u.acqDepth ch.val → gives (.sepAcqChCfgWrite e ch v) s (fun t =>
      t.get F.SEP_ACQ_POOL.FREE (ch.val / 128) = (u.get F.SEP_ACQ_POOL.FREE (ch.val / 128) + u.acqDepth ch.val - n) % 2 ^ F.SEP_ACQ_POOL.FREE.w ∧
      t.get F.SEP_ACQ_CH_CFG.TYPE ch.val = bitsOf v.toNat 0 3 ∧ t.get F.SEP_ACQ_CH_CFG.DEPTH ch.val = bitsOf v.toNat 5 3 ∧
      t.get F.SEP_ACQ_CH_CFG.DECIM ch.val = bitsOf v.toNat 8 4 ∧ t.get F.SEP_ACQ_CH_CFG.PRE ch.val = bitsOf v.toNat 16 16)) ∧
  (∀ (ch : Chan) (v : Word32), u.acqSettable ch.val = false ∨ u.acqCfgOk ch.val v.toNat = false → exec (.sepAcqChCfgWrite e ch v) s =
    .next (u.set F.SEP_ACQ_CH_STAT.CFG_REJ ch.val 1))

/-- A sequence, a privileged trigger, a forced trigger and an automatic one move an acquisition unit on (R176, R178–R183). -/
def Obligations.TriggerComplete : Prop := ∀ (e : Nat) (s u : State), u = s.elapse e →
  (∀ (ch : Chan) ev n o, o = .event ev → n = u.get F.SEP_ACQ_CH_STAT.SEQ ch.val → u.acqState ch.val = 2 → u.get F.SEP_ACQ_CH_CFG.TYPE ch.val = 0 →
    u.get F.SEP_ACQ_CH_SEQ.COND (8 * ch.val + n) = 4 → u.get F.SEP_ACQ_CH_SEQ.EVCH (8 * ch.val + n) = ev.val →
    (u.acqU ch.val).disarmed (u.stampAt u.now) = false → u.drew.pastTmax ch.val n (u.stampAt u.now) = false →
    (u.acqU ch.val).count + 1 < u.get F.SEP_ACQ_CH_SEQ.COUNT (8 * ch.val + n) →
    exec (.sequenceOccurrence e ch o) s = .next (u.drew.setAcqU ch.val { u.acqU ch.val with count := (u.acqU ch.val).count + 1 })) ∧
  (∀ (ch : Chan) ev n m o, o = .event ev → n = u.get F.SEP_ACQ_CH_STAT.SEQ ch.val → m = u.get F.SEP_ACQ_CH_SEQ.ON_MATCH (8 * ch.val + n) →
    u.acqState ch.val = 2 → u.get F.SEP_ACQ_CH_CFG.TYPE ch.val = 0 →
    u.get F.SEP_ACQ_CH_SEQ.COND (8 * ch.val + n) = 4 → u.get F.SEP_ACQ_CH_SEQ.EVCH (8 * ch.val + n) = ev.val →
    (u.acqU ch.val).disarmed (u.stampAt u.now) = false → u.drew.pastTmax ch.val n (u.stampAt u.now) = false →
    u.get F.SEP_ACQ_CH_SEQ.COUNT (8 * ch.val + n) ≤ (u.acqU ch.val).count + 1 → m ≠ 8 →
    dtReached (u.stampAt u.now) (wrap64 ((u.acqU ch.val).entry + ns (u.get F.SEP_ACQ_CH_TIMER.TMIN (8 * ch.val + n)))) = true →
    gives (.sequenceOccurrence e ch o) s (fun t => t.get F.SEP_ACQ_CH_STAT.SEQ ch.val = m % 8 ∧
      (t.acqU ch.val).entry = u.stampAt u.now ∧ (t.acqU ch.val).count = 0)) ∧
  (∀ (ch : Chan) k, k = 8 * ch.val + u.get F.SEP_ACQ_CH_STAT.SEQ ch.val → u.acqState ch.val = 2 → u.get F.SEP_ACQ_CH_CFG.TYPE ch.val = 0 →
    u.get F.SEP_ACQ_CH_SEQ.COND k ≠ 6 → u.get F.SEP_ACQ_CH_TIMER.TMAX k ≠ 0 →
    u.reached (wrap64 ((u.acqU ch.val).entry + ns (u.get F.SEP_ACQ_CH_TIMER.TMAX k))) = true → (u.acqU ch.val).disarmAt = [] →
    exec (.sequenceTimer e ch) s = .next (u.seqOutcome ch.val (u.get F.SEP_ACQ_CH_STAT.SEQ ch.val) (u.get F.SEP_ACQ_CH_SEQ.ON_TMO k)
      (wrap64 ((u.acqU ch.val).entry + ns (u.get F.SEP_ACQ_CH_TIMER.TMAX k))) (u.acqU ch.val).entryTdc)) ∧
  (∀ (ch : Chan) k i, i = u.get F.SEP_ACQ_CH_STAT.SEQ ch.val → k = 8 * ch.val + i → u.acqState ch.val = 2 → u.get F.SEP_ACQ_CH_CFG.TYPE ch.val = 0 →
    u.get F.SEP_ACQ_CH_SEQ.COND k = 6 → u.get F.SEP_ACQ_CH_SEQ.ON_MATCH k ≠ 8 →
    u.reached (wrap64 ((u.acqU ch.val).entry + ns (u.get F.SEP_ACQ_CH_TIMER.TMIN k))) = true → (u.acqU ch.val).disarmAt = [] →
    gives (.sequenceTimer e ch) s (fun t => t.get F.SEP_ACQ_CH_STAT.SEQ ch.val = u.get F.SEP_ACQ_CH_SEQ.ON_MATCH k % 8 ∧
      (t.acqU ch.val).entry = wrap64 ((u.acqU ch.val).entry + ns (u.get F.SEP_ACQ_CH_TIMER.TMIN k)) ∧ (t.acqU ch.val).count = 0)) ∧
  (∀ (ch : Chan) v l j, u.acqState ch.val = 2 → (u.evalSeen ch.val v).judge ch.val v l = some j → j.met = true → (u.acqU ch.val).disarmed j.trig = false →
    (∀ d, (u.acqU ch.val).lastStart = some d → dtReached j.start (wrap64 (d + ns 32)) = true) → gives (.privilegedTriggerEval e ch v l) s (fun t =>
      t.get F.SEP_ACQ_CH_STAT.STATE ch.val = 3 ∧ (t.acqU ch.val).trig.map (fun r => (r.dt, r.interp, r.forced, r.meas)) = some (j.trig, true, false, j.q))) ∧
  (∀ (ch : Chan) v l j, u.acqState ch.val ≠ 0 → (u.evalSeen ch.val v).judge ch.val v l = some j → j.met = false →
    (∀ d, (u.acqU ch.val).lastStart = some d → dtReached j.start (wrap64 (d + ns 32)) = true) → exec (.privilegedTriggerEval e ch v l) s =
      .next ((u.evalSeen ch.val v).setAcqU ch.val { u.acqU ch.val with lastStart := some j.start })) ∧
  (∀ (ch : Chan) v l, (u.evalSeen ch.val v).judge ch.val v l = none → exec (.privilegedTriggerEval e ch v l) s = .next (u.evalSeen ch.val v)) ∧
  (∀ (ch : Chan) a b l q, q = wrap64 (wrap64 b.dt + 2 ^ 64 - wrap64 a.dt) → pairMeasured (u.get F.SEP_ACQ_CH_CFG.TYPE ch.val) (u.get F.SEP_ACQ_CH_PARAM0.EDGE ch.val) a b l = true →
    u.reached (wrap64 b.dt) = true → u.judge ch.val (.pair a b) l =
      some { start := wrap64 a.dt, trig := wrap64 b.dt, q := q, met := u.relation ch.val q }) ∧
  (∀ (ch : Chan) f, u.acqState ch.val = 2 → (u.acqU ch.val).forceAt = [f] → u.flag F.SEP_ACQ_CH_CFG.AUTO ch.val = false → u.reached f = true →
    (u.acqU ch.val).disarmed f = false → exec (.acqAutoTimeout e ch) s =
      .next ((u.setAcqU ch.val { u.acqU ch.val with forceAt := [] }).takeTrigger ch.val f false true (u.get F.SEP_ACQ_CH_STAT.SEQ ch.val) 0)) ∧
  (∀ (ch : Chan) a, a = wrap64 ((u.acqU ch.val).autoFrom + us (max 1 (u.get F.SEP_ACQ_CH_AUTO.US ch.val))) →
    (u.acqU ch.val).forceAt = [] → u.flag F.SEP_ACQ_CH_CFG.AUTO ch.val = true → u.reached a = true → (u.acqU ch.val).disarmed a = false →
    earliest (u.forcedDue ch.val) = some a) ∧
  (∀ (ch : Chan) d, u.acqState ch.val = 2 → earliest (u.forcedDue ch.val) = some d → gives (.acqAutoTimeout e ch) s (fun t =>
    t.get F.SEP_ACQ_CH_STAT.STATE ch.val = 3 ∧ (t.acqU ch.val).trig.map (fun r => (r.dt, r.interp, r.forced, r.meas)) = some (d, false, true, 0)))

/-- Samples, records and the ring of an acquisition unit advance (R184, R185, R187, R188). -/
def Obligations.HistoryComplete : Prop := ∀ (e : Nat) (s u : State), u = s.elapse e →
  (∀ (ch : Chan) (w : Fin 8) i, u.chanSlice ch.val = some i → u.acqState ch.val = 2 → w.val ≠ 0 → (u.slice i).playing = true → (u.acqU ch.val).trig = none →
    ((u.acqU ch.val).nextSample + 1) * 2 ^ u.get F.SEP_ACQ_CH_CFG.DECIM ch.val < (u.slice i).vidx → (u.slice i).resumes = (u.acqU ch.val).resumes →
    gives (.historySample e ch w) s (fun t => (t.acqU ch.val).nextSample = (u.acqU ch.val).nextSample + 1 ∧
      (t.acqU ch.val).pre = ((u.acqU ch.val).pre ++ [w.val]).drop ((u.acqU ch.val).pre.length - u.get F.SEP_ACQ_CH_CFG.PRE ch.val))) ∧
  (∀ (ch : Chan) tr, u.acqState ch.val = 3 → (u.acqU ch.val).trig = some tr → (u.acqU ch.val).tsamp.isSome = true →
    (u.acqU ch.val).post.length = u.acqPost ch.val → exec (.postTriggerComplete e ch) s = .next (u.set F.SEP_ACQ_CH_STAT.STATE ch.val 4)) ∧
  (∀ (ch : Chan) tr, u.acqState ch.val = 3 → (u.acqU ch.val).trig = some tr → tr.noplay = false → (u.acqU ch.val).post.length ≠ u.acqPost ch.val →
    u.playOver ch.val = true → gives (.postTriggerComplete e ch) s (fun t => t.get F.SEP_ACQ_CH_STAT.STATE ch.val = 4 ∧ (t.acqU ch.val).trunc = true)) ∧
  (∀ (ch : Chan) (x : Site) tr, u.acqState ch.val = 4 → (u.acqU ch.val).trig = some tr → u.chanSite ch.val = some x.val → u.proxy x.val = false →
    exec (.acqRecordArrival e ch x) s = .next ((u.acqToRing x.val (u.acqRecord ch.val x.val (u.acqU ch.val) tr false)).afterRecord ch.val)) ∧
  (∀ (ch : Chan) (x : Site) y tr, u.acqState ch.val = 4 → (u.acqU ch.val).trig = some tr → u.chanSite ch.val = some y → x.val ≠ y →
    exec (.acqRecordArrival e ch x) s = .next ((u.faultSite 16 F.SEP_ACQ_FAULT_STAT.TAG_MISMATCH 0 y 5).afterRecord ch.val)) ∧
  (∀ (x : Site) (v : Word32), rdOk (u.get F.SEP_ACQ_RING_RD.POS x.val) (u.get F.SEP_ACQ_RING_WR.POS x.val) v.toNat = true →
    exec (.acqRingRdWrite e x v) s = .next (u.set F.SEP_ACQ_RING_RD.POS x.val v.toNat)) ∧
  (∀ (x : Site) (v : Word32), rdOk (u.get F.SEP_ACQ_RING_RD.POS x.val) (u.get F.SEP_ACQ_RING_WR.POS x.val) v.toNat = false →
    exec (.acqRingRdWrite e x v) s = .next u)

/-- Starts, samples, windows, gates and ends of a measurement unit take effect (R193–R200). -/
def Obligations.MeasurementComplete : Prop := ∀ (e : Nat) (s u : State), u = s.elapse e →
  (∀ ch : Chan, u.measReason ch.val true = 0 → gives (.tiaStart e ch) s (fun t => t.get F.TIA_CH_STAT.STATE ch.val = 1 ∧
    (t.tiaU ch.val).startAt = some (wrap64 (u.now + u.measLead ch.val true)) ∧ (t.tiaU ch.val).released = false)) ∧
  (∀ ch : Chan, u.measReason ch.val true ≠ 0 → exec (.tiaStart e ch) s =
    .next ((u.drew.set F.TIA_CH_STAT.REJ ch.val 1).set F.TIA_CH_STAT.REASON ch.val (u.measReason ch.val true))) ∧
  (∀ ch : Chan, u.get F.TIA_CH_STAT.STATE ch.val = 2 → exec (.tiaEnd e ch) s = .next (u.measDone ch.val true)) ∧
  (∀ (ch : Chan) d, (u.tiaU ch.val).startAt = some d → u.get F.TIA_CH_STAT.STATE ch.val = 1 → u.reached d = true →
    u.flag F.MRD_CH_QF.HELD ch.val = false → gives (.measStartDt e ch false) s (fun t => t.get F.TIA_CH_STAT.STATE ch.val = 2 ∧
      t.get F.TIA_CH_START_DT.DT ch.val = d % 2 ^ 64)) ∧
  (∀ (ch : Chan) a b p, u.sampling ch.val = true → dtReached b a = true → u.reached b = true → u.get F.TIA_CH_CFG.TYPE ch.val = 0 →
    u.startFits ch.val a = true → u.startDead ch.val a = false → (u.tiaU ch.val).lastB = none → u.cycleFits ch.val a b p = true →
    u.get F.TIA_CH_WMIN.TICKS ch.val ≤ wrap64 (b + 2 ^ 64 - wrap64 a) → u.get F.TIA_CH_WMAX.TICKS ch.val = 0 →
    exec (.measSample e ch a b p false) s = .next ((u.setTiaU ch.val { u.tiaU ch.val with startStamp := some (wrap64 a) }).pairSample ch.val a b p false)) ∧
  (∀ (ch : Chan) a b p, u.sampling ch.val = true → dtReached b a = true → u.reached b = true → u.get F.TIA_CH_CFG.TYPE ch.val = 0 →
    u.startFits ch.val a = true → u.startDead ch.val a = false → (u.tiaU ch.val).lastB = none → u.cycleFits ch.val a b p = true →
    u.get F.TIA_CH_WMIN.TICKS ch.val ≤ wrap64 (b + 2 ^ 64 - wrap64 a) → u.get F.TIA_CH_WMAX.TICKS ch.val = 0 → gives (.measSample e ch a b p false) s (fun t =>
      t.get F.TIA_CH_COUNT.SAMPLES ch.val = (u.get F.TIA_CH_COUNT.SAMPLES ch.val + 1) % 2 ^ F.TIA_CH_COUNT.SAMPLES.w ∧
      t.get F.TIA_CH_SUM.VALUE ch.val = ofInt 64 (satInt 64 (toInt 64 (u.get F.TIA_CH_SUM.VALUE ch.val) + dtDiff a b)) % 2 ^ 64)) ∧
  (∀ (ch : Chan) a, u.sampling ch.val = true → u.get F.TIA_CH_WMAX.TICKS ch.val ≠ 0 → u.get F.TIA_CH_CFG.TYPE ch.val = 0 → u.startFits ch.val a = true →
    u.startDead ch.val a = false → u.reached (u.windowEnd ch.val a) = true →
    exec (.measWindowExpiry e ch a) s = .next (u.abandon ch.val a (u.windowEnd ch.val a))) ∧
  (∀ (ch : Chan) a b n, u.sampling ch.val = true → u.get F.TIA_CH_CFG.TYPE ch.val = 3 → u.gateEmpty ch.val a b n = false → u.gateFits ch.val a b n = true → u.reached b = true →
    exec (.gateClose e ch true a b n) s = .next (u.closeGate ch.val a b n)) ∧
  (∀ (ch : Chan) a b n l, l = wrap64 ((u.tiaU ch.val).gateOpen + 2 * u.gateLen ch.val) → u.sampling ch.val = true → u.get F.TIA_CH_CFG.TYPE ch.val = 3 →
    u.reached l = true → exec (.gateClose e ch false a b n) s = .next ((u.setTiaU ch.val { u.tiaU ch.val with gateOpen := l, gateFirst := none }).outside ch.val)) ∧
  (∀ ch : Chan, u.get F.TIA_CH_STAT.STATE ch.val = 2 → u.measN ch.val ≤ u.get F.TIA_CH_COUNT.SAMPLES ch.val → gives (.measDone e ch) s (fun t =>
    t.get F.TIA_CH_STAT.STATE ch.val = 3))

/-- Umber's reads, discipline, crystal, station time and pulses take effect (R202–R209). -/
def Obligations.TimebaseComplete : Prop := ∀ (e : Nat) (s u : State), u = s.elapse e →
  (exec (.dtWrap e) s = .next u) ∧
  (∀ a : Agent, gives (.umbDtRead e a) s (fun t => t.get F.UMB_ERA_LATCH.ERA 0 = u.get F.UMB_ERA.ERA 0 % 2 ^ F.UMB_ERA_LATCH.ERA.w ∧
    t.readData = u.now % 2 ^ 32 ∧ (Tab.get {} t.shadows a.num).rd = some (0x00030000, u.now / 2 ^ 32))) ∧
  (∀ err, u.get F.UMB_STAT.STATE 0 = 1 → (u.get F.UMB_CFG.SRC 0 = 1 ∧ err < 1000 ∧ u.reached (wrap64 (u.umb.refAt + 10 * second)) = true) ∨
      (u.get F.UMB_CFG.SRC 0 = 2 ∧ 3 ≤ u.umb.ppsGood) ∨ (u.get F.UMB_CFG.SRC 0 = 3 ∧ u.timeHolds = true) → gives (.referenceLock e err) s (fun t =>
    t.get F.UMB_STAT.STATE 0 = 2 ∧ t.get F.UMB_STAT.REF_OK 0 = 1)) ∧
  (∀ edge err, u.get F.UMB_STAT.STATE 0 = 1 ∨ u.get F.UMB_STAT.STATE 0 = 2 →
    (u.get F.UMB_CFG.SRC 0 = 1 ∧ (u.reached (wrap64 (edge + us 1)) = true ∨ 20000000 < err)) ∨
      (u.get F.UMB_CFG.SRC 0 = 2 ∧ ∀ d, u.umb.ppsAt = some d → u.reached (wrap64 (d + second + us 1000 + 1)) = true) ∨
      (u.get F.UMB_CFG.SRC 0 = 3 ∧ u.upstream = none) → gives (.referenceLoss e edge err) s (fun t =>
    t.get F.UMB_STAT.STATE 0 = 3 ∧ t.get F.UMB_STAT.REF_OK 0 = 0 ∧ t.get F.UMB_FAULT_STAT.REF_LOST 0 = 1)) ∧
  (u.get F.UMB_CFG.SRC 0 ≠ 0 → u.get F.UMB_CFG.SRC 0 ≠ 3 → u.get F.UMB_STAT.STATE 0 = 0 ∨ u.get F.UMB_STAT.STATE 0 = 3 → gives (.referenceReturn e) s (fun t =>
    t.get F.UMB_STAT.STATE 0 = 1 ∧ t.get F.UMB_STAT.REF_OK 0 = 1)) ∧
  (gives (.xtalFail e) s (fun t => t = (((u.set F.UMB_STAT.BACKUP 0 1).set F.UMB_FAULT_STAT.XTAL_FAIL 0 1).enterSafe 16) ∧ t.isSafe = true)) ∧
  (∀ temp : BitVec 16, u.umb.tempAt = none → gives (.xtalTempRead e temp) s (fun t => t.get F.UMB_XTAL_TEMP.TEMP 0 = temp.toNat % 2 ^ F.UMB_XTAL_TEMP.TEMP.w ∧
    t.umb.tempAt = some u.now)) ∧
  (u.get F.UMB_AGE.BLOCKS 0 < 128 → u.umb.agedAt + ((1024 * 3600 * second : Nat) : Int) ≤ u.extTime → gives (.umbAgeIncrement e) s (fun t => t.get F.UMB_AGE.BLOCKS 0 = u.get F.UMB_AGE.BLOCKS 0 + 1)) ∧
  (gives (.ppsInEdge e) s (fun t => t.get F.UMB_PPS_DT.DT 0 = u.now % 2 ^ 64)) ∧
  ((u.stationTime + 400000) % (second : Int) ≤ 800000 → u.markSecond.umb.ppsGood = min 3 (u.umb.ppsGood + 1)) ∧
  (¬ (u.stationTime + 400000) % (second : Int) ≤ 800000 → u.markSecond.umb.ppsGood = 0) ∧
  (u.get F.UMB_CFG.SRC 0 ≠ 2 → exec (.ppsInEdge e) s = .next ((u.markSecond.set F.UMB_PPS_DT.DT 0 u.now).fire 1457)) ∧
  ((u.stationTime + 8000) % 8000000000000 ≤ 16000 → u.pins.ppsRise = none →
    exec (.ppsOutRise e) s = .next (State.fire { u with pins := { u.pins with ppsRise := some u.now } } 1456))

/-- Windows, steps, passes, commits and reflections of the trim engines take effect (R211–R222). -/
def Obligations.TrimComplete : Prop := ∀ (e : Nat) (s u : State), u = s.elapse e →
  (∀ ch : Chan, u.flag F.MRD_CH_QF.HELD ch.val = true → u.trimAvail ch.val = false →
    exec (.channelReturn e ch) s = .next ((u.idleEngine (ch.val / 4)).returnChan ch.val)) ∧
  (∀ ch : Chan, exec (.qualityAgeChange e ch) s = .next (State.ageChan (
    let v := if secs 60 ≤ u.since ((Tab.get {} u.skews (ch.val / 128)).lastReturn.getD (u.get F.TLK_CORE_UPDT.DT (ch.val / 128))) then
      { u with skews := Tab.set {} u.skews (ch.val / 128) { Tab.get {} u.skews (ch.val / 128) with old := true } } else u
    if v.skewState (ch.val / 128) = 0 then v else v.set F.MRD_TSKEW.VALID (ch.val / 128) 0) ch.val)) ∧
  (∀ (q : Fin 256) b o d f, (u.engine q.val).hold = none → exec (.trimStepEnd e q b o d f) s = .next (u.beginStep q.val)) ∧
  (∀ (q : Fin 256) b o d f c, (u.engine q.val).hold = some c → (u.engine q.val).refl = false → u.reached (u.engine q.val).stepEnd = true →
    u.stepValid c (u.engine q.val).stepEnd = true → exec (.trimStepEnd e q b o d f) s = .next
      ((u.keepStep c (u.engine q.val).idx (u.engine q.val).stepEnd b o d.toNat f.toNat).beginStep q.val)) ∧
  (∀ (ch : Chan) r, (u.trimU ch.val).pend = some r → (u.trimU ch.val).fix = none → u.commitDue ch.val r.from_ = true →
    gives (.trimCommit e ch) s (fun t => t.get F.MRD_CH_TRIM_DT.DT ch.val = r.done % 2 ^ 64 ∧ t.get F.MRD_CH_QF.NEVER ch.val = 0 ∧
      t.get F.MRD_CH_QF.PENDING ch.val = 0 ∧ t.get F.MRD_CH_PASS.QF_TRIM ch.val = r.qf % 2 ^ F.MRD_CH_PASS.QF_TRIM.w)) ∧
  (∀ (ch : Chan) f, (u.trimU ch.val).pend = none → (u.trimU ch.val).fix = some f → u.commitDue ch.val f.from_ = true →
    gives (.trimCommit e ch) s (fun t => t.get F.MRD_CH_REFL.PEND ch.val = 0 ∧
      t.get F.WOD_CH_FIXDELAY.DELAY ch.val = f.d % 2 ^ F.WOD_CH_FIXDELAY.DELAY.w ∧ t.get F.WOD_CH_FIXDELAY.VALID ch.val = if f.valid then 1 else 0)) ∧
  (∀ (ch : Chan) r, (u.trimU ch.val).pend = some r → u.commitDue ch.val r.from_ = true →
    gives (.trimCommitMissed e ch) s (fun t => t.get F.MRD_FAULT_STAT.MISSED_RELEASE (ch.val / 128) = 1)) ∧
  (∀ t : Tile, (∀ k < 8, k ≠ t.val → u.tileUp k = false) → u.tileUp t.val = true → (Tab.get {} u.skews t.val).sent = none → gives (.syncPulse e) s (fun v =>
    v.out = u.out ++ [.tskewPulse t.val] ∧ (Tab.get {} v.skews t.val).waiting = true ∧ (Tab.get {} v.skews t.val).sent = some u.now)) ∧
  (∀ (t : Tile) (off : Word32), (Tab.get {} u.skews t.val).waiting = true → gives (.syncPulseReturn e t off) s (fun v =>
    v.get F.MRD_TSKEW.OFFSET t.val = off.toNat % 2 ^ F.MRD_TSKEW.OFFSET.w ∧ v.get F.MRD_TSKEW.VALID t.val = 1)) ∧
  (∀ t : Tile, u.reached (wrap64 ((Tab.get {} u.skews t.val).lastReturn.getD (u.get F.TLK_CORE_UPDT.DT t.val) + us 10000)) = true →
    exec (.tskewLost e t) s = .next (u.set F.MRD_FAULT_STAT.TSKEW_LOST t.val 1)) ∧
  (∀ x : Site, u.reflRefused x.val false = true → exec (.reflectionRequest e x) s = .next (u.set F.MRD_REFL_STAT.REJ x.val 1)) ∧
  (∀ x : Site, u.reflRefused x.val false = false → exec (.reflectionRequest e x) s =
    .next ((u.beginRefl x.val).sendToken x.val 13 (wrap64 (u.now + u.img.leadHop)) [2 + u.get F.MDR_SITE_STATE.TRIMOK x.val])) ∧
  (∀ (ch : Chan) x a b, u.chanSite ch.val = some x → u.get F.MRD_REFL_STAT.STATE x = 2 → (u.engine (ch.val / 4)).refl = true →
    (u.engine (ch.val / 4)).hold = some ch.val → u.reached (u.engine (ch.val / 4)).stepEnd = true → exec (.reflectionStep e ch a b true) s = .next
      ((u.setTrimU ch.val { u.trimU ch.val with reflSteps := (u.trimU ch.val).reflSteps ++
        [(wrap64 (b + 2 ^ 64 - wrap64 a), decide (wrap64 (b + 2 ^ 64 - wrap64 a) ≤ 256000))] }).afterRefl x ch.val)) ∧
  (∀ x : Site, (u.reflChans x.val).all (fun c => (u.trimU c).reflDone) = true →
    exec (.reflectionEnd e x) s = .next ((u.endReflection x.val false).dutKick x.val)) ∧
  (∀ x : Site, (u.reflChans x.val).all (fun c => (u.trimU c).reflDone) = false → u.siteState x.val ≠ 1 → u.flag F.MDR_SITE_STATE.TRIMOK x.val = false →
    exec (.reflectionEnd e x) s = .next ((u.endReflection x.val true).dutKick x.val))

/-- Tile links come up, go down, replay and acknowledge, and frames are taken or fail (R224–R235, R372). -/
def Obligations.LinkComplete : Prop := ∀ (e : Nat) (s u : State), u = s.elapse e →
  (∀ t : Tile, u.get F.TLK_CORE_STAT.STATE t.val = 1 → gives (.tileLinkUp e t) s (fun v =>
    v.get F.TLK_CORE_STAT.STATE t.val = 2 ∧ v.get F.TLK_STAT.STATE t.val = 2 ∧ v.get F.TLK_STAT.DOWN_LOCK t.val = 0xFFFF ∧
    v.get F.TLK_CORE_STAT.UP_LOCK t.val = 0xFF)) ∧
  (∀ t : Tile, u.tileUp t.val = true → exec (.tileLinkDown e t) s = .next (u.tlinkDown t.val)) ∧
  (∀ t : Tile, u.tileUp t.val = true → gives (.tileLinkDown e t) s (fun v => v.get F.TLK_STAT.STATE t.val = 1 ∧ v.get F.TLK_CORE_STAT.DOWN t.val = 1 ∧
    v.get F.TLK_FAULT_STAT.DOWN t.val = 1)) ∧
  (∀ (t : Tile) (q : Byte), u.tileUp t.val = true → resendOf (u.tlink t.val).resent q.toNat = none → exec (.tileReplayTimeout e t q) s = .next
    (((u.setTlink t.val { u.tlink t.val with resent := (u.tlink t.val).resent.filter (fun b => b.1 != q.toNat) ++ [(q.toNat, 2, u.now)] }).count
      F.TLK_ERR.REPLAY none t.val 26 1).emit (.replay none (some t.val) q.toNat))) ∧
  (∀ (t : Tile) (q : Byte) d, u.tileUp t.val = true → resendOf (u.tlink t.val).resent q.toNat = some (3, d) → u.reached (wrap64 (d + ns 40)) = true →
    exec (.tileReplayTimeout e t q) s = .next (u.tlinkDown t.val)) ∧
  (∀ (l : LinkId) (q : Byte), u.linkLive l = true → exec (.ack e l q) s = .next (u.acked l q.toNat)) ∧
  (∀ (l : LinkId) (n : Fin 16) bits f, u.linkLive l = true → readFrame bits = some f → f.invalid = 0 → f.badCrc = 0 →
    exec (.frameArrival e l n bits) s = .next ((u.frameSeen l n.val f).acked l f.ack)) ∧
  (∀ (l : LinkId) (n : Fin 16) bits, u.linkLive l = true → readFrame bits = none →
    exec (.frameArrival e l n bits) s = .next ((u.linkErr l 1).linkCrc l))

/-- Ports come up, step their rates, go down, replay and keep station time (R236–R246). -/
def Obligations.PortComplete : Prop := ∀ (e : Nat) (s u : State), u = s.elapse e →
  (∀ p : Port, u.lenkelOn = true → u.portEn p.val = true → u.portState p.val = 0 → (u.port p.val).disabled = false → (u.port p.val).wakeCode = 0 →
    gives (.portStart e p) s (fun t => t.get F.LNK_PORT_STAT.STATE p.val = 1 ∧ t.get F.LNK_PORT_STAT.RATE p.val = 1 ∧ t.get F.LNK_PORT_STAT.REASON p.val = 0)) ∧
  (∀ (p : Port) (q : Byte) (b : BitVec 40), u.portState p.val = 1 → (u.port p.val).direct = false → (u.port p.val).capOk = false → u.inOrder p.val q.toNat = true →
    u.capReason p.val (bitsOf b.toNat 0 5) (bitsOf b.toNat 9 3) (bitsOf b.toNat 17 18) (bitAt b.toNat 5) = 0 → gives (.cap e p q b) s (fun t =>
      t.get F.LNK_PORT_STAT.PEER_DEV p.val = bitsOf b.toNat 0 5 ∧ t.get F.LNK_PORT_STAT.PEER_PORT p.val = bitsOf b.toNat 9 3)) ∧
  (∀ (p : Port) (q : Byte) (b : BitVec 40) r, u.portState p.val = 1 → (u.port p.val).direct = false → (u.port p.val).capOk = false → u.inOrder p.val q.toNat = true →
    u.capReason p.val (bitsOf b.toNat 0 5) (bitsOf b.toNat 9 3) (bitsOf b.toNat 17 18) (bitAt b.toNat 5) = r → r = 2 ∨ r = 3 → gives (.cap e p q b) s (fun t =>
      t.get F.LNK_PORT_STAT.STATE p.val = 3 ∧ t.get F.LNK_PORT_STAT.REASON p.val = r ∧ (t.port p.val).retryAt = some (wrap64 (u.now + us 100000)))) ∧
  (∀ (p : Port) d, u.portState p.val = 3 → (u.port p.val).retryAt = some d → u.reached d = true → exec (.portRetry e p) s = .next (u.train p.val false)) ∧
  (∀ (p : Port) (q : Byte) (b : BitVec 40) v, v = u.took p.val q.toNat 1 → u.portState p.val = 1 → u.inOrder p.val q.toNat = true → bitAt b.toNat 3 = true →
    (u.port p.val).proposed = some (bitsOf b.toNat 0 3) → exec (.rate e p q b) s =
      .next (v.setPort p.val { v.port p.val with proposed := none, switchTo := some (bitsOf b.toNat 0 3) })) ∧
  (∀ (p : Port) (q : Byte) (b : BitVec 40) v, v = u.took p.val q.toNat 1 → u.portState p.val = 1 → u.inOrder p.val q.toNat = true → bitAt b.toNat 3 = false →
    (u.port p.val).capOk = true → (u.port p.val).stepping = false → bitsOf b.toNat 0 3 = u.rate p.val + 1 → u.get F.LNK_PORT_STAT.PEER_DEV p.val < u.devNum →
    exec (.rate e p q b) s = .next ((v.setPort p.val { v.port p.val with switchTo := some (bitsOf b.toNat 0 3) }).sendBlock p.val 0x11 [bitsOf b.toNat 0 3, 1])) ∧
  (∀ (p : Port) c, (u.port p.val).switchTo = some c → u.portState p.val = 1 → gives (.rateSwitch e p) s (fun t =>
    t.get F.LNK_PORT_STAT.RATE p.val = c % 2 ^ F.LNK_PORT_STAT.RATE.w ∧ (t.port p.val).stepping = true ∧ (t.port p.val).stepFrom = u.rate p.val)) ∧
  (∀ p : Port, u.portState p.val = 1 → (u.port p.val).stepping = true → (u.port p.val).direct = false → u.stepGood p.val = true →
    exec (.rateStepEnd e p true) s = .next ((u.setPort p.val { u.port p.val with stepping := false }).portAdvance p.val)) ∧
  (∀ p : Port, u.portState p.val = 1 → (u.port p.val).stepping = true → (u.port p.val).direct = false → (u.port p.val).stepFrom = 0 →
    u.reached (wrap64 ((u.port p.val).switchAt + us 50)) = true → gives (.rateStepEnd e p false) s (fun t => t.get F.LNK_PORT_STAT.STATE p.val = 3 ∧
      t.get F.LNK_PORT_STAT.REASON p.val = 5)) ∧
  (∀ p : Port, u.portState p.val = 1 → (u.port p.val).stepping = true → (u.port p.val).direct = false → (u.port p.val).stepFrom ≠ 0 →
    u.reached (wrap64 ((u.port p.val).switchAt + us 50)) = true → gives (.rateStepEnd e p false) s (fun t => t.get F.LNK_PORT_STAT.STATE p.val = 2 ∧
      t.get F.LNK_PORT_STAT.RATE p.val = (u.port p.val).stepFrom % 2 ^ F.LNK_PORT_STAT.RATE.w)) ∧
  (∀ p : Port, u.portState p.val = 2 → exec (.portDown e p) s =
    .next ((((u.set F.LNK_FAULT_STAT.DOWN 0 1).fire (1460 + p.val)).train p.val false).portLost p.val)) ∧
  (∀ (p : Port) (q : Byte) n d, u.portState p.val = 2 → resendOf (u.port p.val).unacked q.toNat = some (n, d) → n < 3 →
    u.reached (wrap64 (d + u.replayTime p.val)) = true → exec (.portReplayTimeout e p q) s = .next (((u.setPort p.val { u.port p.val with
      unacked := (u.port p.val).unacked.map (fun b => if b.1 == q.toNat then (q.toNat, n + 1, u.now) else b) }).count
        F.LNK_PORT_ERR.REPLAY none p.val 13 1).emit (.replay (some p.val) none q.toNat))) ∧
  (∀ (p : Port) (q : Byte) d, u.portState p.val = 2 → resendOf (u.port p.val).unacked q.toNat = some (3, d) →
    u.reached (wrap64 (d + u.replayTime p.val)) = true → exec (.portReplayTimeout e p q) s = .next (u.portDown p.val)) ∧
  (∀ p : Port, u.lenkelOn = true → u.portEn p.val = true → u.portState p.val ≠ 2 → exec (.portRetrain e p) s = .next (u.train p.val false)) ∧
  (∀ p : Port, u.portState p.val ≠ 2 → gives (.portDisable e p) s (fun t => t.get F.LNK_PORT_STAT.STATE p.val = 0 ∧ t.get F.LNK_PORT_STAT.RATE p.val = 0 ∧
    (t.port p.val).disabled = true)) ∧
  (∀ (p : Port) (t1 : Word64) v, u.portState p.val = 2 → u.upstream ≠ some p.val → u.ownLocked = true → (u.port p.val).sentSync = none → u.reached t1.toNat = true →
    v = ((u.setPort p.val { u.port p.val with sentSync := some u.now }).sendBlock p.val 0x20 [t1.toNat % 2 ^ 40]).sendBlock p.val 0x23 [t1.toNat / 2 ^ 40] →
    exec (.timeExchangeStart e p t1) s = .next ((((v.sendBlock p.val 0x24 [0, u.get F.UMB_ERA.ERA 0 % 2 ^ 32]).sendBlock p.val 0x24
      [1, u.get F.UMB_TOD_OFFSET.OFFSET 0 % 2 ^ 32]).sendBlock p.val 0x24 [2, u.get F.UMB_TOD_OFFSET.OFFSET 0 / 2 ^ 32]).sendBlock p.val 0x24 [3, u.hopInfo])) ∧
  (∀ (p : Port) (q : Byte) (a b : BitVec 40) (t2 t3 : Word64) v, v = u.took p.val q.toNat 2 → u.portState p.val = 2 → u.inOrder p.val q.toNat = true →
    u.upstream = some p.val → (u.port p.val).ts = none → exec (.tsync e p q a b t2 t3) s = .next (((v.setPort p.val { v.port p.val with
      lastSync := some u.now, exch := ((u.port p.val).exch + 1) % 256, ts := some (a.toNat + 2 ^ 40 * (b.toNat % 2 ^ 24), t2.toNat, t3.toNat) }).sendBlock
        p.val 0x21 [((u.port p.val).exch + 1) % 256]).sendInfo p.val 3 v.hopInfo)) ∧
  (∀ (p : Port) (q : Byte) (b : BitVec 40) (t4 : Word64), u.portState p.val = 2 → u.inOrder p.val q.toNat = true →
    exec (.treq e p q b t4) s = .next ((u.took p.val q.toNat 1).takeReq p.val (bitsOf b.toNat 0 8) t4.toNat)) ∧
  (∀ (p : Port) (q : Byte) (b : BitVec 40) t1 t2 t3 t4 v, v = u.took p.val q.toNat 1 → u.portState p.val = 2 → u.inOrder p.val q.toNat = true →
    u.upstream = some p.val → (u.port p.val).ts = some (t1, t2, t3) → bitsOf b.toNat 0 8 = (u.port p.val).exch →
    t4 = nearDT (wrap64 (t1 + t3 + 2 ^ 64 - t2 % 2 ^ 64)) 32 (bitsOf b.toNat 8 32) → exec (.tresp e p q b) s =
      .next ((v.drew.drew.setPort p.val { v.port p.val with ts := none }).useOffset p.val t1 t2 (v.openDiv (dtDiff t1 t2 - dtDiff t3 t4) 2)
        (v.drew.openDiv (dtDiff t1 t2 + dtDiff t3 t4) 2))) ∧
  (∀ (p : Port) (q : Byte) (b : BitVec 40), u.portState p.val = 2 → u.inOrder p.val q.toNat = true → bitsOf b.toNat 32 8 = 2 → u.upstream = some p.val →
    gives (.tinfo e p q b) s (fun t => t.get F.UMB_TOD_OFFSET.OFFSET 0 = (bitsOf b.toNat 0 32 * 2 ^ 32 + (u.port p.val).offLow) % 2 ^ 64)) ∧
  (∀ (p : Port) (q : Byte) (b : BitVec 40), u.portState p.val = 2 → u.inOrder p.val q.toNat = true → bitsOf b.toNat 32 8 = 0 →
    gives (.tinfo e p q b) s (fun t => (t.port p.val).era = bitsOf b.toNat 0 32)) ∧
  (∀ p d, u.upstream = some p → (u.port p).lastSync = some d → u.reached (wrap64 (d + us 2000)) = true →
    exec (.upstreamLoss e) s = .next (u.setPort p { u.port p with hops := 31 }).selectUpstream) ∧
  (∀ (p : Port) (b : BitVec 40) c d v, c = bitsOf b.toNat 0 8 → d = nearDT u.now 32 (bitsOf b.toNat 8 32) → Tab.get none (u.port p.val).bcast c = none →
    v = u.setPort p.val { u.port p.val with bcast := Tab.set none (u.port p.val).bcast c (some d) } → u.portState p.val = 2 → u.bothLocked p.val = true → u.dev ≠ 6 →
    u.reached (wrap64 (d + u.get F.LNK_PORT_BCLAT.L p.val)) = false →
    exec (.evbc e p b) s = .next (v.setEvf { v.evf with bcast := v.evf.bcast ++ [(c, wrap64 (d + u.get F.LNK_PORT_BCLAT.L p.val))] })) ∧
  (∀ (p : Port) (b : BitVec 40) c d v, c = bitsOf b.toNat 0 8 → d = nearDT u.now 32 (bitsOf b.toNat 8 32) → Tab.get none (u.port p.val).bcast c = none →
    v = u.setPort p.val { u.port p.val with bcast := Tab.set none (u.port p.val).bcast c (some d) } → u.portState p.val ≠ 2 →
    exec (.evbc e p b) s = .next (v.count F.LNK_PORT_DROP.DROP none p.val 13 1))

/-- Joins, slice tokens and forwarded records act on the proxy or the home of their site (R75–R78, R247, R248). -/
def Obligations.TokenComplete : Prop := ∀ (e : Nat) (s u : State), u = s.elapse e →
  (∀ (p : Port) (q : Byte) (home : Site) (arg : BitVec 26) v d, v = u.took p.val q.toNat 1 → d = u.get F.LNK_PORT_STAT.PEER_DEV p.val → u.carries p.val = true →
    u.inOrder p.val q.toNat = true → u.proxy home.val = false → u.siteState home.val = 1 ∨ u.siteState home.val = 6 →
    popCount (setBit (u.get F.MDR_SITE_SPAN.DEV home.val) d) ≤ 4 → exec (.tokenJoin e p q home arg) s =
      .next (((v.setSite home.val { v.site home.val with farSlices := (v.site home.val).farSlices.filter (fun r => r.1 != d) ++
        [(d, popCount (bitsOf arg.toNat 8 8))] }).set F.MDR_SITE_SPAN.DEV home.val (setBit (u.get F.MDR_SITE_SPAN.DEV home.val) d)).tokenTo d 2 home.val 0 [1])) ∧
  (∀ (p : Port) (q : Byte) (home : Site) (arg : BitVec 26) v d, v = u.took p.val q.toNat 1 → d = u.get F.LNK_PORT_STAT.PEER_DEV p.val → u.carries p.val = true →
    u.inOrder p.val q.toNat = true → 4 < popCount (setBit (u.get F.MDR_SITE_SPAN.DEV home.val) d) → exec (.tokenJoin e p q home arg) s =
      .next ((v.set F.MDR_SITE_STAT.JOIN_REFUSED home.val 1).tokenTo d 2 home.val 0 [0])) ∧
  (∀ (p : Port) (q : Byte) (home : Site) (arg : BitVec 26) x v, v = u.took p.val q.toNat 1 → u.carries p.val = true → u.inOrder p.val q.toNat = true →
    u.proxyOf p.val home.val = some x → bitAt arg.toNat 0 = false → exec (.tokenJoinres e p q home arg) s = .next (v.siteFault x 4)) ∧
  (∀ (p : Port) (q : Byte) (home : Site) (arg : BitVec 26) x v, v = u.took p.val q.toNat 1 → u.carries p.val = true → u.inOrder p.val q.toNat = true →
    u.proxyOf p.val home.val = some x → bitAt arg.toNat 0 = true → exec (.tokenJoinres e p q home arg) s = .next (v)) ∧
  (∀ (p : Port) (q : Byte) (home : Site) (arg : BitVec 26) (x0 x1 : BitVec 40) x v, v = u.took p.val q.toNat 3 → u.carries p.val = true → u.inOrder p.val q.toNat = true →
    u.proxyOf p.val home.val = some x → u.reached (u.dt40 x0) = false → exec (.tokenEntry e p q home arg x0 x1) s = .next (((v.each (v.slicesOf x) (fun s i => s.setSlice i { s.slice i with inbound := (s.slice i).inbound ++ [⟨bitsOf x1.toNat 0 24, bitsOf arg.toNat 0 24, u.dt40 x0, (v.site x).tsQueued⟩] })).setSite x { (v.each (v.slicesOf x) (fun s i => s.setSlice i { s.slice i with inbound := (s.slice i).inbound ++ [⟨bitsOf x1.toNat 0 24, bitsOf arg.toNat 0 24, u.dt40 x0, (v.site x).tsQueued⟩] })).site x with tsQueued := none }))) ∧
  (∀ (p : Port) (q : Byte) (home : Site) (x0 : BitVec 40) x v, v = u.took p.val q.toNat 2 → u.carries p.val = true → u.inOrder p.val q.toNat = true →
    u.proxyOf p.val home.val = some x → u.reached (u.dt40 x0) = false → exec (.tokenStart e p q home x0) s = .next (v.setSite x { v.site x with start := some (u.dt40 x0), startMin := u.dt40 x0 })) ∧
  (∀ (p : Port) (q : Byte) (home : Site) (x0 : BitVec 40) x v, v = u.took p.val q.toNat 2 → u.carries p.val = true → u.inOrder p.val q.toNat = true →
    u.proxyOf p.val home.val = some x → u.reached (u.dt40 x0) = true → exec (.tokenStart e p q home x0) s = .next
      ((v.each (v.slicesOf x) (fun s i => s.raiseU 19 F.SLP_FAULT_STAT.MISSED_RELEASE (i / 32))).siteFault x 1)) ∧
  (∀ (p : Port) (q : Byte) (home : Site) (x0 : BitVec 40) x v, v = u.took p.val q.toNat 2 → u.carries p.val = true → u.inOrder p.val q.toNat = true →
    u.proxyOf p.val home.val = some x → u.reached (u.dt40 x0) = false → exec (.tokenResume e p q home x0) s = .next (v.setSite x { v.site x with resume := some (u.dt40 x0), trimClosed := v.now })) ∧
  (∀ (p : Port) (q : Byte) (home : Site) (x0 : BitVec 40) x v, v = u.took p.val q.toNat 2 → u.carries p.val = true → u.inOrder p.val q.toNat = true →
    u.proxyOf p.val home.val = some x → u.reached (u.dt40 x0) = false → exec (.tokenStop e p q home x0) s = .next (v.setSite x { v.site x with stop := some ⟨3, u.dt40 x0, u.dt40 x0⟩ })) ∧
  (∀ (p : Port) (q : Byte) (home : Site) (x0 : BitVec 40) x v, v = u.took p.val q.toNat 2 → u.carries p.val = true → u.inOrder p.val q.toNat = true →
    u.proxyOf p.val home.val = some x → u.reached (u.dt40 x0) = false → exec (.tokenReset e p q home x0) s = .next (v.setSite x { v.site x with resetAt := some (u.dt40 x0) })) ∧
  (∀ (p : Port) (q : Byte) (home : Site) (arg : BitVec 26) (x0 : BitVec 40) x v, v = u.took p.val q.toNat 2 → u.carries p.val = true → u.inOrder p.val q.toNat = true →
    u.proxyOf p.val home.val = some x → u.reached (u.dt40 x0) = false → exec (.tokenJump e p q home arg x0) s = .next (v.drew.setSite x
      { v.site x with jumps := (v.site x).jumps ++ [⟨1 + v.fresh % 3, v.now, bitsOf arg.toNat 0 24, none, false, some (u.dt40 x0)⟩] })) ∧
  (∀ (p : Port) (q : Byte) (home : Site) (x0 : BitVec 40) x v, v = u.took p.val q.toNat 2 → u.carries p.val = true → u.inOrder p.val q.toNat = true →
    u.proxyOf p.val home.val = some x → u.reached (u.dt40 x0) = false → (u.site x).hold = none → exec (.tokenHold e p q home x0) s =
      .next (v.drew.setSite x { v.site x with hold := some (u.dt40 x0, 1 + v.fresh % 3) })) ∧
  (∀ (p : Port) (q : Byte) (home : Site) (x0 : BitVec 40) v, v = u.took p.val q.toNat 2 → u.carries p.val = true → u.inOrder p.val q.toNat = true →
    u.proxyOf p.val home.val = none → u.siteState home.val ≠ 0 → u.proxy home.val = false → x0.toNat = 0 →
    exec (.tokenHold e p q home x0) s = .next (v.siteFault home.val 3)) ∧
  (∀ (p : Port) (q : Byte) (home : Site) (arg : BitVec 26) (x0 x1 : BitVec 40) x v, v = u.took p.val q.toNat 3 → u.carries p.val = true → u.inOrder p.val q.toNat = true →
    u.proxyOf p.val home.val = some x → u.reached (u.dt40 x0) = false → bitAt arg.toNat 12 = false → exec (.tokenTset e p q home arg x0 x1) s = .next (v.setSite x
      { v.site x with tsImm := (v.site x).tsImm ++ [{ prim := bitsOf arg.toNat 0 6, alt := bitsOf arg.toNat 6 6, release := u.dt40 x0, period := some x1.toNat }] })) ∧
  (∀ (p : Port) (q : Byte) (home : Site) (arg : BitVec 26) (x0 x1 : BitVec 40) x v, v = u.took p.val q.toNat 3 → u.carries p.val = true → u.inOrder p.val q.toNat = true →
    u.proxyOf p.val home.val = some x → u.reached (u.dt40 x0) = false → bitAt arg.toNat 12 = true → exec (.tokenTset e p q home arg x0 x1) s = .next (v.setSite x
      { v.site x with tsQueued := some { prim := bitsOf arg.toNat 0 6, alt := bitsOf arg.toNat 6 6, release := u.dt40 x0, period := some x1.toNat } })) ∧
  (∀ (p : Port) (q : Byte) (home : Site) (arg : BitVec 26) (x0 : BitVec 40) x v, v = u.took p.val q.toNat 2 → u.carries p.val = true →
    u.inOrder p.val q.toNat = true → u.proxyOf p.val home.val = some x → u.reached (u.dt40 x0) = false → exec (.tokenState e p q home arg x0) s =
      .next (v.setSite x { v.site x with states := (v.site x).states ++ [(bitsOf arg.toNat 0 4, u.dt40 x0)] })) ∧
  (∀ (p : Port) (q : Byte) (home : Site) (arg : BitVec 26) (x0 : BitVec 40) x, u.proxyOf p.val home.val = some x → u.reached (u.dt40 x0) = true →
    (bitsOf arg.toNat 0 4, u.dt40 x0) ∈ (u.site x).states → exec (.tokenState e p q home arg x0) s = .next (State.proxyState
      (u.setSite x { u.site x with states := (u.site x).states.erase (bitsOf arg.toNat 0 4, u.dt40 x0) }) x (bitsOf arg.toNat 0 4))) ∧
  (∀ (p : Port) (q : Byte) (home : Site) (arg : BitVec 26) (x0 : BitVec 40) x v, v = u.took p.val q.toNat 2 → u.carries p.val = true →
    u.inOrder p.val q.toNat = true → u.proxyOf p.val home.val = some x → u.reached (u.dt40 x0) = false → bitAt arg.toNat 0 = true → bitAt arg.toNat 1 = false →
    u.flag F.MDR_SITE_STATE.TRIMOK x = false → exec (.tokenTrim e p q home arg x0) s =
      .next ((v.set F.MDR_SITE_STATE.TRIMOK x 1).setSite x { v.site x with trimOpen := u.dt40 x0 })) ∧
  (∀ (p : Port) (q : Byte) (home : Site) (arg : BitVec 26) (x0 : BitVec 40) v, v = u.took p.val q.toNat 2 → u.carries p.val = true → u.inOrder p.val q.toNat = true →
    u.siteState home.val ≠ 0 → u.proxy home.val = false → bitAt arg.toNat 1 = false → exec (.tokenReady e p q home arg x0) s = .next ((v.setSite home.val
      { v.site home.val with proxyReady := (v.site home.val).proxyReady.filter (fun r => r.1 != u.get F.LNK_PORT_STAT.PEER_DEV p.val) ++ [(u.get F.LNK_PORT_STAT.PEER_DEV p.val, bitsOf arg.toNat 0 1, u.dt40 x0)] }).formReady home.val)) ∧
  (∀ (p : Port) (q : Byte) (home : Site) (x0 : BitVec 40) v, v = u.took p.val q.toNat 2 → u.carries p.val = true → u.inOrder p.val q.toNat = true →
    u.siteState home.val ≠ 0 → u.proxy home.val = false → u.get F.SEP_CAP_POLICY.STOP home.val ≠ 1 ∨ bitsOf x0.toNat 0 32 = 0 → exec (.tokenCounts e p q home x0) s = .next ((v.addFails home.val (bitsOf x0.toNat 0 32)).drew)) ∧
  (∀ (p : Port) (q : Byte) (home : Site) (x0 : BitVec 40) v, v = u.took p.val q.toNat 2 → u.carries p.val = true → u.inOrder p.val q.toNat = true →
    u.siteState home.val ≠ 0 → u.proxy home.val = false → u.get F.SEP_CAP_POLICY.STOP home.val = 1 → bitsOf x0.toNat 0 32 ≠ 0 → exec (.tokenCounts e p q home x0) s = .next ((v.addFails home.val (bitsOf x0.toNat 0 32)).drew.detect home.val (wrap64 ((v.addFails home.val (bitsOf x0.toNat 0 32)).now + 2 ^ 64 - v.fresh % (v.since (u.get F.MDR_SITE_START_DT.DT home.val) + 1))))) ∧
  (∀ (p : Port) (q : Byte) (home : Site) (arg : BitVec 26) (x0 : BitVec 40) v, v = u.took p.val q.toNat 2 → u.carries p.val = true → u.inOrder p.val q.toNat = true →
    u.siteState home.val ≠ 0 → u.proxy home.val = false → exec (.tokenCcrc e p q home arg x0) s = .next (v.setSite home.val { v.site home.val with crcs := (v.site home.val).crcs ++ [(bitsOf arg.toNat 0 24, bitsOf x0.toNat 0 32)] })) ∧
  (∀ (p : Port) (q : Byte) (home : Site) (typ : Byte) b v, v = u.took p.val q.toNat 1 → u.carries p.val = true → u.inOrder p.val q.toNat = true →
    u.siteState home.val ≠ 0 → u.proxy home.val = false → typ.toNat = 1 → b.length = 32 → leAt b 14 1 = home.val % 256 → exec (.record e p q home typ b) s = .next (v.capRecord home.val b)) ∧
  (∀ (p : Port) (q : Byte) (home : Site) (typ : Byte) b v, v = u.took p.val q.toNat 1 → u.carries p.val = true → u.inOrder p.val q.toNat = true →
    u.siteState home.val ≠ 0 → u.proxy home.val = false → typ.toNat = 1 → b.length = 32 → leAt b 14 1 ≠ home.val % 256 → exec (.record e p q home typ b) s = .next (v.faultSite 15 F.SEP_CAP_FAULT_STAT.TAG_MISMATCH 0 home.val 5)) ∧
  (∀ (p : Port) (q : Byte) (home : Site) (typ : Byte) b v, v = u.took p.val q.toNat 1 → u.carries p.val = true → u.inOrder p.val q.toNat = true →
    u.siteState home.val ≠ 0 → u.proxy home.val = false → typ.toNat = 2 → b.length % 32 = 0 → b ≠ [] → leAt b 14 1 = home.val % 256 → exec (.record e p q home typ b) s = .next (v.acqToRing home.val b)) ∧
  (∀ (p : Port) (q : Byte) (home : Site) (typ : Byte) b v, v = u.took p.val q.toNat 1 → u.carries p.val = true → u.inOrder p.val q.toNat = true →
    u.siteState home.val ≠ 0 → u.proxy home.val = false → typ.toNat = 2 → b.length % 32 = 0 → b ≠ [] → leAt b 14 1 ≠ home.val % 256 → exec (.record e p q home typ b) s = .next (v.faultSite 16 F.SEP_ACQ_FAULT_STAT.TAG_MISMATCH 0 home.val 5))

/-- Postings, frames, gates, errors, LIN and MDIO of the vehicle bus engines take effect (R249–R270). -/
def Obligations.BusComplete : Prop := ∀ (e : Nat) (s u : State), u = s.elapse e →
  (∀ (n : Engine) (v : Word64), u.busOn n.val = true → u.descAddrOk (bitsOf v.toNat 0 40) (bitAt v.toNat 40) = true → u.txFull n.val = false →
    gives (.busTxPost e n v) s (fun t => t = ((u.postRaw n.val (bitsOf v.toNat 0 40) (bitAt v.toNat 40)
      (u.bytesAt (bitAt v.toNat 40) (bitsOf v.toNat 0 40) 32)).set F.BUS_TX_RES.RESULT n.val 1) ∧ t.get F.BUS_TX_RES.RESULT n.val = 1)) ∧
  (∀ (n : Engine) (v : Word64), u.busOn n.val = true → u.descAddrOk (bitsOf v.toNat 0 40) (bitAt v.toNat 40) = true → u.txFull n.val = true →
    exec (.busTxPost e n v) s = .next (u.set F.BUS_TX_RES.RESULT n.val 2)) ∧
  (∀ (n : Engine) (v : Word64), u.busOn n.val = false ∨ u.descAddrOk (bitsOf v.toNat 0 40) (bitAt v.toNat 40) = false →
    exec (.busTxPost e n v) s = .next (u.set F.BUS_TX_RES.RESULT n.val 3)) ∧
  (∀ (n : Engine) (k : Fin 2) d a l c, (u.bus n.val).queue[k.val]? = some d → d.payload = none → a = bitsOf (d.fld 8 8) 0 40 → l = bitAt (d.fld 8 8) 40 →
    u.eccAt l a (u.payloadLen n.val d) c = .clean → u.readable l a (u.payloadLen n.val d) = true → exec (.payloadRead e n k c) s = .next
      (u.setTxq n.val ((u.bus n.val).queue.set k.val { d with payload := some (u.bytesAt l a (u.payloadLen n.val d)) }))) ∧
  (∀ (n : Engine) (k : Fin 2) d a l c, (u.bus n.val).queue[k.val]? = some d → d.payload = none → a = bitsOf (d.fld 8 8) 0 40 → l = bitAt (d.fld 8 8) 40 →
    u.eccAt l a (u.payloadLen n.val d) c = .uncorrectable → exec (.payloadRead e n k c) s = .next
      (((((u.eccRaise l .uncorrectable).setTxq n.val ((u.bus n.val).queue.eraseIdx k.val)).finishTx n.val d 7 0 0)).raiseC F.BUS_FAULT_STAT.PAYLOAD n.val)) ∧
  (∀ (n : Engine) d r, (u.bus n.val).queue = d :: r → u.mayStart n.val d = true → u.proto n.val = 1 → gives (.frameStart e n) s (fun t =>
    t.get F.BUS_STAT.STATE n.val = 2 ∧ t.out = u.out ++ [.busFrame n.val d.hdr (u.get F.BUS_STAT.ERRSTATE n.val == 1) (d.payload.getD [])] ∧
    (t.bus n.val).queue = { d with started := some u.now, late := d.late || d.retries != 0 || d.arbLost != 0 || u.startsLate d } :: r)) ∧
  (∀ (n : Engine) d r, (u.bus n.val).queue = d :: r → u.mayStart n.val d = true → u.proto n.val = 5 → d.kind ≠ 0 → gives (.frameStart e n) s (fun t =>
    (t.bus n.val).queue = r ∧ (t.bus n.val).slow = (u.bus n.val).slow ++ [({ d with late := d.late || u.startsLate d }, 0, 0)] ∧ t.out = u.out)) ∧
  (∀ (n : Engine) d r, (u.bus n.val).queue = d :: r → u.proto n.val = 1 → d.started.isSome = true → exec (.arbitrationLost e n) s = .next
    (((u.setTxq n.val ({ d with started := none, arbLost := satAdd 8 d.arbLost 1 } :: r)).set F.BUS_STAT.STATE n.val 3).count
      F.BUS_CNT.COUNT (some F.BUS_CNT.OVF) (8 * n.val + 4) 27 1)) ∧
  (∀ (n : Engine) d r, (u.bus n.val).queue = d :: r → d.started = none → u.due d.expiry = true →
    exec (.frameExpired e n) s = .next ((u.finishHead n.val 3 0 0).busCount n.val 7)) ∧
  (∀ (n : Engine) d st a b r, (u.bus n.val).finished = (d, st, a, b) :: r → bitAt d.flags 2 = false → u.readable d.lake d.addr 32 = true →
    exec (.txWriteBack e n 0 0) s = .next ((u.setBus n.val { u.bus n.val with finished := r }).putBytes d.lake d.addr (d.writeBack st a b))) ∧
  (∀ (n : Engine) a b d r, (u.bus n.val).finished = [] → (u.bus n.val).queue = d :: r → d.started.isSome = true → u.reached b = true →
    exec (.txWriteBack e n a b) s = .next ((u.frameSent n.val a b d).writeBackFirst n.val)) ∧
  (∀ (n : Engine) d r, u.consumes = true → u.flag F.BUS_GATE.EN n.val = true → (u.bus n.val).queue = d :: r → bitAt d.flags 1 = true → d.gate = none →
    exec (.gateFiring e n) s = .next (u.setTxq n.val ({ d with gate := some u.now } :: r))) ∧
  (∀ (n : Engine), u.consumes = true → u.flag F.BUS_GATE.EN n.val = true → (u.bus n.val).queue = [] → exec (.gateFiring e n) s = .next (u.set F.BUS_STAT.GATE_OVR n.val 1)) ∧
  (∀ (n : Engine) b, u.proto n.val ≠ 0 → u.get F.BUS_STAT.STATE n.val < 2 → gives (.busRunWrite e n b) s (fun t =>
    t.get F.BUS_CTRL.RUN n.val = (if b then 1 else 0) ∧ t.get F.BUS_STAT.STATE n.val = if b then 1 else 0)) ∧
  (∀ (n : Engine), exec (.busFlush e n) s = .next (u.flushBus n.val)) ∧
  (∀ (n : Engine), u.proto n.val = 1 → u.get F.BUS_STAT.ERRSTATE n.val = 2 → gives (.busRecover e n) s (fun t => t.get F.BUS_STAT.ERRSTATE n.val = 3 ∧
    t.get F.BUS_STAT.ERR_CHG n.val = 1)) ∧
  (∀ (n : Engine), u.proto n.val = 1 → u.get F.BUS_STAT.ERRSTATE n.val = 3 → gives (.busOffRecovery e n) s (fun t => t.get F.BUS_STAT.ERRSTATE n.val = 0 ∧
    t.get F.BUS_CAN_ERR.TEC n.val = 0 ∧ t.get F.BUS_CAN_ERR.REC n.val = 0 ∧ t.get F.BUS_CAN_ERR.PASSIVE n.val = 0)) ∧
  (∀ (n : Engine) b, exec (.phyResetWrite e n b) s = .next (u.set F.BUS_CTRL.PHY_RESET n.val (if b then 1 else 0))) ∧
  (∀ (n : Engine), (u.bus n.val).phyHeld = true → u.reached (wrap64 ((u.bus n.val).commitDT + us 10)) = true →
    exec (.phyResetRelease e n) s = .next (u.setBus n.val { u.bus n.val with phyHeld := false })) ∧
  (∀ (n : Engine) f (tag : Site) k v, u.busReceives n.val = true → u.reached f.eof = true → u.proto n.val = 2 → u.get F.BUS_STAT.STATE n.val = 1 → bitAt f.info 1 = true →
    v = u.busEvent n.val 3 → v.busSort n.val f = (0, k) → exec (.frameReceived e n f tag) s = .next (v.frameIn n.val tag.val k f)) ∧
  (∀ (n : Engine) f (tag : Site) k v, u.busReceives n.val = true → u.reached f.eof = true → u.proto n.val = 2 → u.get F.BUS_STAT.STATE n.val = 1 → bitAt f.info 1 = true →
    v = u.busEvent n.val 3 → v.busSort n.val f = (2, k) → exec (.frameReceived e n f tag) s = .next (v.strangerIn n.val tag.val f)) ∧
  (∀ (n : Engine) (inc : Fin 9), u.busReceives n.val = true → u.proto n.val = 3 → (u.bus n.val).queue = [] →
    exec (.busError e n 2 inc) s = .next (((((u.busCount n.val 4).errorRecord n.val 2).busEvent n.val 5).canError n.val inc.val false).failAttempt n.val)) ∧
  (∀ (n : Engine) (id : Fin 64), u.proto n.val = 3 → u.busOn n.val = true → u.get F.BUS_LIN_RESP.ACTION (64 * n.val + id.val) ≠ 2 →
    exec (.linHeader e n id) s = .next (u.setBus n.val { u.bus n.val with linHdr := some (id.val, u.get F.BUS_LIN_RESP.ACTION (64 * n.val + id.val)) })) ∧
  (∀ (n : Engine) (id : Fin 64) k l, k = 64 * n.val + id.val → l = u.get F.BUS_LIN_RESP.LEN k → u.proto n.val = 3 → u.busOn n.val = true → u.get F.BUS_LIN_RESP.ACTION k = 2 →
    u.isSafe = false → exec (.linHeader e n id) s = .next (((u.setBus n.val { u.bus n.val with linHdr := some (id.val, 2) }).emit
      (.busFrame n.val (id.val + 256 * u.get F.BUS_LIN_RESP.ENHANCED k) false (toBytes (min 8 (if l = 0 then 8 else l)) (u.get F.BUS_LIN_DATA.DATA k)))).busCount n.val 1)) ∧
  (∀ (n : Engine) f (tag : Site), u.proto n.val = 3 → u.busReceives n.val = true → us 150 ≤ u.since f → u.since f ≤ us 5000 →
    exec (.linWakeUp e n f tag) s = .next ((u.busCount n.val 6).frameIn n.val tag.val 0xFF ⟨0, 2, 0, [], wrap64 f, u.now, true⟩)) ∧
  (∀ (n : Engine) (v : Word32), bitAt v.toNat 31 = true → u.get F.BUS_MDIO_RES.RESULT n.val ≠ 1 → u.proto n.val = 6 → u.mdioQ = [] → gives (.mdioCommand e n v) s (fun t =>
    t.get F.BUS_MDIO_RES.RESULT n.val = 1 ∧ t.mdioQ = [(n.val, v.toNat)] ∧ t.mdioAt = u.now)) ∧
  (∀ (n : Engine) (v : Word32), bitAt v.toNat 31 = true → u.get F.BUS_MDIO_RES.RESULT n.val ≠ 1 → u.proto n.val ≠ 6 →
    exec (.mdioCommand e n v) s = .next (u.set F.BUS_MDIO_RES.RESULT n.val 3)) ∧
  (∀ (d : BitVec 16) n v r, u.mdioQ = (n, v) :: r → u.reached (wrap64 (u.mdioAt + 204800000)) = true → bitAt v 30 = false → gives (.mdioComplete e d) s (fun t =>
    t.get F.BUS_MDIO_RES.RESULT n = 2 ∧ t.get F.BUS_MDIO_RES.DATA n = d.toNat % 2 ^ 16 ∧ t.mdioQ = r ∧
    t.out = u.out ++ [.mdio (leAt u.img.buseng (32 * n + 6) 1) (bitsOf v 16 5) false d.toNat]))

/-- Work items are dispatched to cores and completed, and a core that hangs is reset (R272, R276, R278, R279). -/
def Obligations.SaffronComplete : Prop := ∀ (e : Nat) (s u : State), u = s.elapse e →
  (∀ i c, u.safBest = some i → u.safCore (u.flowLevel (flowOf i.w)) none = some c → exec (.dispatch e none .clean) s = .next (u.safGive i c)) ∧
  (∀ i y v, v = u.yielded (y.map (fun c : Core => c.val)) → v.safBest = some i → exec (.dispatch e y .uncorrectable) s = .next (v.safUncorr i)) ∧
  (∀ i (c : Core) y d v, y = some c → v = u.setSaf { u.saf with given := Tab.set 0 u.saf.given c.val u.now } → v.safBest = some i → v.safCore (v.flowLevel (flowOf i.w)) (some c.val) = some d →
    exec (.dispatch e y .clean) s = .next (v.safGive i d)) ∧
  (∀ (c : Core) (st : Fin 6) (nrc : Byte) (v : Word32) i, u.running? c.val = some i → u.uds.any (fun p => p.2.runs i.id) = false → i.w.src ≠ 4 →
    exec (.itemComplete e c st nrc v .clean) s = .next (u.safEnd c.val i (resultWord st.val nrc.toNat v.toNat))) ∧
  (∀ (c : Core) (st : Fin 6) (nrc : Byte) (v : Word32) i, u.running? c.val = some i → u.uds.any (fun p => p.2.runs i.id) = false → i.w.src = 4 →
    exec (.itemComplete e c st nrc v .clean) s = .next ((u.logUser i.w).safEnd c.val i (resultWord st.val nrc.toNat v.toNat))) ∧
  (∀ (c : Core) (st : Fin 6) (nrc : Byte) (v : Word32) i, u.running? c.val = some i → u.uds.any (fun p => p.2.runs i.id) = false →
    gives (.itemComplete e c st nrc v .uncorrectable) s (fun t => t.isSafe = true)) ∧
  (∀ c : Core, (u.running? c.val).isSome = true → u.reached (wrap64 (Tab.get 0 u.saf.given c.val + us 100)) = true →
    exec (.watchdog e c) s = .next (((u.set F.SVC_CORE_STAT.WDOG c.val (min 255 (u.get F.SVC_CORE_STAT.WDOG c.val + 1))).safCoreReset c.val).raiseU
      11 F.SVC_FAULT_STAT.WDOG 0))

/-- Work items are enqueued, refused, delayed and pulled by a core (R271–R277). -/
def Obligations.WorkItemComplete : Prop := ∀ (e : Nat) (s u : State), u = s.elapse e →
  (∀ w d, u.safRefuses (flowOf w) = none → exec (.workItemEnqueue e w false d) s = .next (u.safAdd w)) ∧
  (∀ w d b, u.safRefuses (flowOf w) = some b → exec (.workItemEnqueue e w false d) s = .next (u.safRefused (flowOf w) b)) ∧
  (∀ w d, exec (.workItemEnqueue e w true d) s = .next (u.safDelay w (wrap64 d))) ∧
  (∀ w d, u.safRefuses (flowOf w) = none → gives (.workItemEnqueue e w false d) s (fun t => t.saf.items.map (fun i => i.w) = u.saf.items.map (fun i => i.w) ++ [w])) ∧
  (∀ c : Core, u.pulls c.val = true → u.saf.waiting.contains c.val = false → u.saf.serv.any (fun p => p.1 == c.val) = false →
    exec (.safGet e c true) s = .next (u.setSaf { u.saf with waiting := u.saf.waiting ++ [c.val] })) ∧
  (∀ c : Core, exec (.safGet e c false) s = .next { u with readData := 0 }) ∧
  (∀ i, u.saf.delay = [i] → dtReached u.safTick i.due = true → u.safRefuses (flowOf i.w) = none → exec (.delayDue e) s =
    .next ((u.setSaf (Saf.wake { u.saf with delay := [], items := u.saf.items ++ [i] } (flowOf i.w) u.now)).showSaf))

/-- Test plans are started, stopped, aborted, timed out, retried and judged (R280–R283). -/
def Obligations.PlanComplete : Prop := ∀ (e : Nat) (s u : State), u = s.elapse e →
  (∀ x : Site, u.planCode x.val 1 = 1 → u.get F.MRD_REFL_STAT.STATE x.val ≠ 2 → exec (.planStart e x) s =
    .next ((u.set F.SVC_PLAN_STAT.RESULT x.val 1).dutStart x.val (u.get F.SVC_PLAN_SERIAL.SERIAL x.val))) ∧
  (∀ x : Site, u.planCode x.val 1 = 1 → u.get F.MRD_REFL_STAT.STATE x.val = 2 → gives (.planStart e x) s (fun t => t.get F.SVC_PLAN_STAT.RESULT x.val = 1 ∧
    t.get F.SVC_PLAN_STAT.STATE x.val = 1 ∧ (t.plan x.val).dutPend = some (u.get F.SVC_PLAN_SERIAL.SERIAL x.val))) ∧
  (∀ (x : Site) r, u.planCode x.val 1 = r → r ≠ 1 → exec (.planStart e x) s = .next (u.set F.SVC_PLAN_STAT.RESULT x.val r)) ∧
  (∀ x : Site, u.planCode x.val 2 = 1 → (u.plan x.val).inDut = true → gives (.planStop e x) s (fun t => t.get F.SVC_PLAN_STAT.RESULT x.val = 1 ∧
    t.get F.SVC_PLAN_STAT.STATE x.val = 4 ∧ (t.plan x.val).stopAfter = true)) ∧
  (∀ x : Site, u.planCode x.val 2 = 1 → (u.plan x.val).inDut = false → gives (.planStop e x) s (fun t => t.get F.SVC_PLAN_STAT.RESULT x.val = 1 ∧
    t.get F.SVC_PLAN_STAT.STATE x.val = 0)) ∧
  (∀ (x : Site) v, v = u.set F.SVC_PLAN_STAT.RESULT x.val 1 → u.planCode x.val 3 = 1 → (u.plan x.val).armed = true → exec (.planAbort e x) s =
    .next (((v.setPlan x.val { v.plan x.val with stopAfter := true, abortDut := true }).set F.SVC_PLAN_STAT.STATE x.val 4).sendAbort x.val)) ∧
  (∀ (x : Site) t, u.svcTable x.val 1 = some t → bitAt (leAt t 4 2) 0 = true → u.running = true → u.get F.SVC_PLAN_STAT.STATE x.val = 1 →
    (u.plan x.val).dutPend = none → u.planHeld x.val = false → exec (.dutEvent e x) s = .next (u.dutAsk x.val (u.get F.SVC_PLAN_SERIAL.SERIAL x.val))) ∧
  (∀ x : Site, (u.plan x.val).armed = true → u.due (u.plan x.val).tmoAt = true → exec (.planTimeout e x) s =
    .next ((u.setPlan x.val { u.plan x.val with tmoAt := none }).sendAbort x.val)) ∧
  (∀ (x : Site) t, u.svcTable x.val 1 = some t → (u.plan x.val).inDut = true → (u.plan x.val).armed = false → u.due (u.plan x.val).retryAt = true →
    exec (.staleRetry e x) s = .next ((u.setPlan x.val { u.plan x.val with retryAt := none }).tryEntry x.val t)) ∧
  (∀ (x : Site) t, u.svcTable x.val 1 = some t → (u.plan x.val).armed = true → u.siteState x.val = 6 → u.netPending x.val t = false →
    exec (.planTestEnd e x) s = .next (u.judgeTest x.val t)) ∧
  (∀ (x : Site) t, u.svcTable x.val 1 = some t → (u.plan x.val).armed = true → u.siteState x.val = 7 →
    exec (.planTestEnd e x) s = .next ((u.notRun x.val t 3).endDut x.val none true)) ∧
  (∀ (x : Site) t, u.svcTable x.val 1 = some t → (u.plan x.val).armed = true → (u.plan x.val).abortDut = false → u.siteState x.val = 1 →
    exec (.planTestEnd e x) s = .next (u.planRefused x.val t 1)) ∧
  (∀ (x : Site) t, u.svcTable x.val 1 = some t → bitAt (leAt t 4 2) 2 = true → u.running = true → u.get F.SVC_PLAN_STAT.STATE x.val = 1 →
    (u.plan x.val).dutPend = none → (u.plan x.val).reflAt = none → u.reflRefused x.val false = false → exec (.reflEvent e x) s =
      .next ((u.setPlan x.val { u.plan x.val with reflAt := some u.now }).requestRefl x.val))

/-- Datalog records go to the result ring, and the netlist sweep is built and judged (R285, R286, R294–R296, R350). -/
def Obligations.DatalogComplete : Prop := ∀ (e : Nat) (s u : State), u = s.elapse e →
  (∀ (x : Site) b r, u.running = true → (u.logOf x.val).made = b :: r → exec (.datalogRecord e x .made) s =
    .next (((u.setLog x.val { u.logOf x.val with made := r }).resPut x.val b).planPause x.val)) ∧
  (∀ (x : Site) b r, u.running = true → (u.logOf x.val).made = b :: r → (u.logOf x.val).dropped = 0 → u.resSpace x.val (b.length / 32) = true →
    gives (.datalogRecord e x .made) s (fun t => t.get F.HRG_RES_WR.POS x.val = (u.get F.HRG_RES_WR.POS x.val + b.length / 32) % 2 ^ 32 ∧
      (t.logOf x.val).made = r)) ∧
  (∀ (x : Site), u.running = true → (u.logOf x.val).dropped ≠ 0 → u.resSpace x.val 1 = true → u.logSelects x.val 0x17 = false →
    exec (.lost e x) s = .next ((u.setLog x.val { u.logOf x.val with dropped := 0, lost := true }).planPause x.val)) ∧
  (∀ (x : Site), u.running = true → (u.logOf x.val).dropped ≠ 0 → u.resSpace x.val 1 = true → u.logSelects x.val 0x17 = true →
    exec (.lost e x) s = .next (((u.resWrite x.val (u.logRecord x.val 0x17 u.now 0xFFFF 0 1 (toBytes 4 (u.logOf x.val).dropped))).setLog x.val
      { u.logOf x.val with dropped := 0, lost := true }).planPause x.val)) ∧
  (∀ (x : Site) (v : Word32), rdOk (u.get F.HRG_RES_RD.POS x.val) (u.get F.HRG_RES_WR.POS x.val) v.toNat = true →
    exec (.hrgResRdWrite e x v) s = .next ((u.set F.HRG_RES_RD.POS x.val v.toNat).planPause x.val)) ∧
  (∀ (x : Site) (v : Word32), rdOk (u.get F.HRG_RES_RD.POS x.val) (u.get F.HRG_RES_WR.POS x.val) v.toNat = false →
    exec (.hrgResRdWrite e x v) s = .next u) ∧
  (∀ (x : Site) t, u.running = true → u.siteState x.val = 1 ∨ u.siteState x.val = 6 → u.svcTable x.val 7 = some t →
    exec (.netlistBuild e x) s = .next (u.netBuild x.val t)) ∧
  (∀ (x : Site) t n, u.svcTable x.val 1 = some t → u.svcTable x.val 7 = some n → (u.plan x.val).armed = true → u.siteState x.val = 6 →
    u.netPending x.val t = true → exec (.netlistAnalysis e x) s = .next (u.netAnalyse x.val n))

/-- The UDS client opens, continues, times out and ends its jobs (R287–R293). -/
def Obligations.UdsComplete : Prop := ∀ (e : Nat) (s u : State), u = s.elapse e →
  (∀ (c : Core) (a b : Word64) i k j, u.udsItem c.val = some (i, k) → (u.conn k).job = none → u.reached a.toNat = true → u.reached b.toNat = true →
    u.ptrOk (jobPtr i) 64 = true → u.eccBad (memPtr (jobPtr i)).2 (memPtr (jobPtr i)).1 64 = false → j = u.readJob c.val i → j.op = 1 → u.jobOk i k j = true → exec (.udsRequest e c a b) s = .next (u.jobSend k j (u.ptrBytes j.reqAddr (u.requestOf i)) a.toNat b.toNat)) ∧
  (∀ (c : Core) (a b : Word64) i k j, u.udsItem c.val = some (i, k) → (u.conn k).job = none → u.reached a.toNat = true → u.reached b.toNat = true →
    u.ptrOk (jobPtr i) 64 = true → u.eccBad (memPtr (jobPtr i)).2 (memPtr (jobPtr i)).1 64 = false → j = u.readJob c.val i → j.op = 2 → u.jobOk i k j = true → exec (.udsSession e c a b) s = .next (u.jobSend k j (toBytes 1 0x10 ++ toBytes 1 j.param) a.toNat b.toNat)) ∧
  (∀ (c : Core) (a b : Word64) i k j, u.udsItem c.val = some (i, k) → (u.conn k).job = none → u.reached a.toNat = true → u.reached b.toNat = true →
    u.ptrOk (jobPtr i) 64 = true → u.eccBad (memPtr (jobPtr i)).2 (memPtr (jobPtr i)).1 64 = false → j = u.readJob c.val i → j.op = 5 → u.jobOk i k j = true → exec (.ecuReset e c a b) s = .next (u.jobSend k j (toBytes 1 0x11 ++ toBytes 1 j.param) a.toNat b.toNat)) ∧
  (∀ (c : Core) (a b : Word64) i k j, u.udsItem c.val = some (i, k) → (u.conn k).job = none → u.ptrOk (jobPtr i) 64 = true → u.eccBad (memPtr (jobPtr i)).2 (memPtr (jobPtr i)).1 64 = false → j = u.readJob c.val i →
    u.reached a.toNat = true → u.reached b.toNat = true → j.op = 1 → u.jobOk i k j = false → exec (.udsRequest e c a b) s = .next (u.jobEnd k j 3 0 0 none)) ∧
  (∀ (c : Core) (a b : Word64) i k j, u.udsItem c.val = some (i, k) → (u.conn k).job = none → u.reached a.toNat = true → u.reached b.toNat = true →
    u.ptrOk (jobPtr i) 64 = true → u.eccBad (memPtr (jobPtr i)).2 (memPtr (jobPtr i)).1 64 = false → j = u.readJob c.val i → j.op = 3 → u.jobOk i k j = true →
    exec (.security e c .clean a b) s = .next (u.jobSend k j (toBytes 1 0x27 ++ toBytes 1 j.param) a.toNat b.toNat)) ∧
  (∀ (c : Core) (ecc : Ecc) (a b : Word64) i k j, u.udsItem c.val = some (i, k) → (u.conn k).job = some j → u.reached a.toNat = true → u.reached b.toNat = true →
    j.op = 3 → j.out = false → j.stage = 3 → exec (.security e c ecc a b) s =
      .next (u.jobSend k j (toBytes 1 0x27 ++ toBytes 1 (j.param + 1) ++ j.key) a.toNat b.toNat)) ∧
  (∀ (c : Core) (a b : Word64) i k j d, u.udsItem c.val = some (i, k) → (u.conn k).job = some j → u.reached a.toNat = true → u.reached b.toNat = true →
    j.op = 3 → j.out = false → j.stage = 1 → u.secEntry (k / 64) j.param = some d → leAt d 1 1 = 1 → u.slotKind (k / 64) (leAt d 2 1) = 1 → u.keyQ = [] →
    exec (.security e c .clean a b) s = .next (u.jobSend k { j with stage := 3 } (toBytes 1 0x27 ++ toBytes 1 (j.param + 1) ++
      (Config.hmacSha256 (Tab.get [] u.keys (8 * (k / 64) + leAt d 2 1)) (j.seed ++ (d.drop 8).take (leAt d 4 1))).take (leAt d 3 1)) a.toNat b.toNat)) ∧
  (∀ (c : Core) (a b : Word64) i k j, u.udsItem c.val = some (i, k) → (u.conn k).job = none → u.reached a.toNat = true → u.reached b.toNat = true →
    u.ptrOk (jobPtr i) 64 = true → u.eccBad (memPtr (jobPtr i)).2 (memPtr (jobPtr i)).1 64 = false → (u.readJob c.val i).op = 4 → u.jobOk i k (u.readJob c.val i) = true → j = u.regionStart (u.readJob c.val i) → u.regionOk j = true →
    exec (.download e c a b) s = .next (u.jobSend k j (u.loadMessage j) a.toNat b.toNat)) ∧
  (∀ (c : Core) (a b : Word64) i k j, u.udsItem c.val = some (i, k) → (u.conn k).job = some j → u.reached a.toNat = true → u.reached b.toNat = true →
    j.op = 4 → j.out = false → u.regionOk j = true → exec (.download e c a b) s = .next (u.jobSend k j (u.loadMessage j) a.toNat b.toNat)) ∧
  (∀ (x : Site) (n : Fin 64) b r (p q : Word64) k v j, r = .message b → k = connKey x.val n.val → u.hasConn x.val n.val = true → u.reached q.toNat = true → u.running = true →
    v = u.connConsume k → (u.conn k).job = some j → j.meets p.toNat = true → exec (.udsResponse e x n r p q) s = .next (v.jobMessage k j b q.toNat)) ∧
  (∀ (x : Site) (n : Fin 64) r (p q : Word64) k v, k = connKey x.val n.val → u.hasConn x.val n.val = true → u.reached q.toNat = true → u.running = true →
    v = u.connConsume k → (u.conn k).job = none → exec (.udsResponse e x n r p q) s =
      .next (v.setConn k { v.conn k with discarded := satAdd 32 (v.conn k).discarded 1 })) ∧
  (∀ (x : Site) (n : Fin 64) j k, k = connKey x.val n.val → (u.conn k).job = some j → j.out = true → u.reached (wrap64 (j.sent + j.wait)) = true →
    udsSuppress j.req = false → j.op ≠ 4 → exec (.p2Expiry e x n) s = .next (u.jobEnd k j 2 0 0 none)) ∧
  (∀ (x : Site) (n : Fin 64) j k, k = connKey x.val n.val → (u.conn k).job = some j → j.out = true → u.reached (wrap64 (j.sent + j.wait)) = true →
    udsSuppress j.req = true → j.count = 0 → exec (.p2Expiry e x n) s = .next (u.jobEnd k j 0 0 0 none)) ∧
  (∀ (x : Site) (n : Fin 64) d k, k = connKey x.val n.val → (u.conn k).presentAt = some d → u.reached d = true → u.running = true →
    exec (.testerPresent e x n) s = .next ((u.setConn k { u.conn k with presentAt := some (wrap64 (d + msec (u.connFld k 0x16 2))) }).emit
      (.uds x.val n.val [0x3E, 0x80]))) ∧
  (∀ (c : Core) (b : Word64) i k j, u.udsItem c.val = some (i, k) → u.connFld k 1 1 ≠ 3 → u.reached (wrap64 (b.toNat + msec (u.connFld k 0x18 2))) = true →
    (u.conn k).job = some j → j.op ≠ 4 → exec (.isotpNTimeout e c b) s = .next (u.jobEnd k j 2 0 0 none)) ∧
  (∀ k r j v, u.flag F.MBX_STAT.FULL 1 = true → u.keyQ = k :: r → (u.conn k).job = some j → u.replyFits j = true → v = u.mbxEmpty 1 →
    exec (.keyReply e) s = .next (State.keyPost { v.setConn k { v.conn k with job := some { j with stage := 3, key := u.replyKey, keyNo := none, keyAt := none } } with keyQ := r })) ∧
  (u.flag F.MBX_STAT.FULL 1 = true → u.keyQ = [] → exec (.keyReply e) s = .next (u.mbxEmpty 1)) ∧
  (∀ (x : Site) (n : Fin 64) j k, k = connKey x.val n.val → (u.conn k).job = some j → j.stage = 2 → u.due j.keyAt = true →
    exec (.keyTimeout e x n) s = .next ((u.jobEnd k j 2 0 0 none).keyPost))

/-- Firings, held firings, broadcasts, balls, software firings and timers take effect (R297–R308). -/
def Obligations.EventComplete : Prop := ∀ (e : Nat) (s u : State), u = s.elapse e →
  (∀ p : Fin 1536, u.evf.raised.contains p.val = true → exec (.eventChannelFiring e p) s = .next
    ((u.setEvf { u.evf with raised := u.evf.raised.erase p.val }).each ((u.setEvf { u.evf with raised := u.evf.raised.erase p.val }).columns p.val)
      (fun s c => s.arriveAt c s.now false))) ∧
  (∀ (c : EvCh) r b, Tab.get none u.evf.held c.val = some (r, b) → u.reached r = true → exec (.heldFiringRelease e c) s = .next
    ((u.setEvf { u.evf with held := Tab.set none u.evf.held c.val none }).fireChannel c.val r true b)) ∧
  (∀ (c : EvCh) b, u.evf.bcast.find? (fun b => b.1 == c.val && u.reached b.2) = some b → exec (.broadcastRelease e c) s = .next
    ((u.setEvf { u.evf with bcast := u.evf.bcast.erase b }).arriveAt c.val b.2 true)) ∧
  (∀ (n : Fin 16) d, Tab.get none u.pins.trigUntil n.val = some d → u.reached d = true → u.isSafe = false → gives (.trigOutPulseEnd e n) s (fun t =>
    Tab.get none t.pins.trigUntil n.val = none ∧ t.pins.trigOut = clearBit u.pins.trigOut n.val)) ∧
  (∀ n : Fin 16, exec (.trigInEdge e n) s = .next (u.fire (1344 + n.val))) ∧
  (∀ v : Word32, exec (.evfSwfire e v) s = .next (u.each ((List.range 16).filter (fun n => bitAt v.toNat n)) (fun s n => s.fire (1478 + n)))) ∧
  (∀ (k : Fin 32) (v : Word64), gives (.evfTimerCfgWrite e k v) s (fun t => t.get F.EVF_TIMER_CFG.MODE k.val = bitsOf v.toNat 0 3 ∧
    t.get F.EVF_TIMER_CFG.EVCH k.val = bitsOf v.toNat 8 8 ∧ t.get F.EVF_TIMER_CFG.COUNT k.val = bitsOf v.toNat 16 32 ∧ (t.timer k.val).count = 0)) ∧
  (∀ (k : Fin 32) t, (u.timer k.val).target = some t → u.reached (wrap64 (t + 2 ^ 64 - 8000)) = true → u.timerMode k.val = 1 → gives (.timerExpiry e k) s (fun v =>
    v.get F.EVF_TIMER_CFG.MODE k.val = 0 ∧ (v.timer k.val).target = none)) ∧
  (∀ (k : Fin 32) t, (u.timer k.val).target = some t → u.reached (wrap64 (t + 2 ^ 64 - 8000)) = true → u.timerMode k.val = 2 →
    exec (.timerExpiry e k) s = .next ((u.timerFire k.val).setTimer k.val { target := some (u.nextTarget k.val t) })) ∧
  (∀ k : Fin 32, u.timerMode k.val = 3 → (u.timer k.val).target = none → exec (.timerStartFiring e k) s = .next (u.setTimer k.val
    { target := some (wrap64 (u.get F.EVF_CH_LAST.DT (u.get F.EVF_TIMER_CFG.EVCH k.val) + u.timerPeriod k.val)) })) ∧
  (∀ k : Fin 32, u.timerMode k.val = 3 → (u.timer k.val).target.isSome = true → exec (.timerStartFiring e k) s = .next (u.set F.EVF_TIMER_STAT.OVR k.val 1)) ∧
  (∀ k : Fin 32, u.timerMode k.val = 4 → max 1 (u.get F.EVF_TIMER_CFG.COUNT k.val) ≤ (u.timer k.val).count + 1 →
    exec (.timerStartFiring e k) s = .next ((u.timerFire k.val).setTimer k.val {}))

/-- Sources become pending, are masked and held off (R310–R313, R316). -/
def Obligations.InterruptComplete : Prop := ∀ (e : Nat) (s u : State), u = s.elapse e →
  (∀ n : Fin 4096, pulseSource n.val = true → u.irc.pulses.contains n.val = true → u.dev ≠ 6 → exec (.interruptPending e n) s = .next
    (State.edgeArrive { u with irc := { u.irc with pulses := u.irc.pulses.erase n.val } } n.val)) ∧
  (∀ n : Fin 4096, pulseSource n.val = true → u.irc.pulses.contains n.val = true → u.dev = 6 → exec (.interruptPending e n) s = .next
    { u with irc := { u.irc with pulses := u.irc.pulses.erase n.val } }) ∧
  (∀ n : Fin 4096, pulseSource n.val = false → u.dev ≠ 6 → exec (.interruptPending e n) s = .next (u.sampleLine n.val)) ∧
  (∀ (a : Agent) (w : Fin 128) (v : Word32), u.reaches a .IRC_MASK = true → w.val ≠ 0 → exec (.ircMaskWrite e a w v) s = .next
    ((u.set F.IRC_MASK.SRC w.val v.toNat).each ((List.range 32).filter (fun b => bitAt (u.get F.IRC_MASK.SRC w.val) b && !bitAt v.toNat b))
      (fun s b => s.deliver (32 * w.val + b)))) ∧
  (∀ g : Group, u.flag F.IRC_HOLDOFF.ACTIVE g.val = true → u.dev ≠ 6 → u.reached (Tab.get 0 u.irc.holdUntil g.val) = true →
    exec (.holdoffEnd e g) s = .next (State.each { u.set F.IRC_HOLDOFF.ACTIVE g.val 0 with irc := { u.irc with holdUntil := Tab.set 0 u.irc.holdUntil g.val 0 } }
      (List.range 64) (fun s k => s.deliver (64 * g.val + k))))

/-- Sources are claimed and completed, and vectors are unmasked (R313–R315, R317, R337). -/
def Obligations.ClaimComplete : Prop := ∀ (e : Nat) (s u : State), u = s.elapse e →
  (∀ (a : Agent) (x : Fin 56) n, slotOpen a x.val = true → u.reaches a .IRC_CLAIM = true → u.bestSource x.val = some n →
    exec (.ircClaim e a x) s = .next { u.claim x.val n with readData := n }) ∧
  (∀ (a : Agent) (x : Fin 56), slotOpen a x.val = true → u.reaches a .IRC_CLAIM = true → u.bestSource x.val = none →
    exec (.ircClaim e a x) s = .next { u with readData := 0 }) ∧
  (∀ (a : Agent) (x : Fin 56) (n : Fin 4096), u.reaches a .IRC_COMPLETE = true → x.val < 48 → Tab.get 0 u.irc.holder n.val = x.val + 1 →
    exec (.ircComplete e a x n) s = .next (u.completeSrc n.val)) ∧
  (∀ (a : Agent) (x : Fin 56) (n : Fin 4096), u.reaches a .IRC_COMPLETE = true → x.val < 48 → Tab.get 0 u.irc.holder n.val ≠ x.val + 1 →
    exec (.ircComplete e a x n) s = .next (u.set F.IRC_FAULT_STAT.BAD_COMPLETE 0 1)) ∧
  (∀ (f : Func) op (v : Fin 32), op = .vector v → v.val < (fnSlots f).2 → u.reaches f.agent .PCI_MSIX0_CTRL = true →
    exec (.msixUnmask e f op) s = .next ((u.set (fnMask f) v.val 0).flushMsix f)) ∧
  (∀ f : Func, exec (.msixUnmask e f .enable) s = .next (State.flushMsix { u with irc := { u.irc with msixOn := Tab.set 0 u.irc.msixOn (fnNum f) 1 } } f))

/-- Banks change hands and power state, port A writes Lake, DRAM changes its operating point, promotes requests, closes pages and takes host writes (R319–R332). -/
def Obligations.MemoryComplete : Prop := ∀ (e : Nat) (s u : State), u = s.elapse e →
  (∀ (a : Agent) (b : Bank) (v : Byte), u.reaches a .LAK_OWNER = true → u.bankAgent a b.val = true → ownerValue v.toNat = true →
    u.owner b.val ≠ 0x3F → gives (.lakOwnerWrite e a b v) s (fun t => t.owner b.val = v.toNat ∧ ∀ c, c ≠ b.val → t.owner c = u.owner c)) ∧
  (∀ (a : Agent) (b : Bank) (v : Byte), u.reaches a .LAK_OWNER = true →
    (u.bankAgent a b.val && ownerValue v.toNat && u.owner b.val != 0x3F) = false →
    exec (.lakOwnerWrite e a b v) s = .next (u.raiseC F.LAK_FAULT_STAT.HANDOVER_REJ 0)) ∧
  (∀ (a : Agent) (b : Bank) (v : Word32), u.reaches a .LAK_STATE = true → u.owner b.val = 0x3F →
    exec (.lakStateWrite e a b v) s = .next (u.raiseC F.LAK_FAULT_STAT.HANDOVER_REJ 0)) ∧
  (∀ (a : Agent) (b : Bank) (v : Word32), u.reaches a .LAK_STATE = true → u.owner b.val ≠ 0x3F → u.bankAgent a b.val = true →
    v.toNat % 4 ≠ 3 → u.flag F.LAK_STATE.BUSY b.val = false →
    exec (.lakStateWrite e a b v) s = .next ((u.set F.LAK_STATE.REQ b.val (v.toNat % 4)).bankStart b.val)) ∧
  (∀ (b : Bank) tgt, Tab.get none u.lakeAt b.val = some (tgt, none) → exec (.bankTransitionComplete e b) s = .next (u.bankDone b.val tgt)) ∧
  (∀ (b : Bank) tgt d, Tab.get none u.lakeAt b.val = some (tgt, some d) → u.reached d = true →
    exec (.bankTransitionComplete e b) s = .next (u.bankDone b.val tgt)) ∧
  (∀ (a : Agent) (n : Fin 33554432) (data : List (Option Byte)) coll, u.lakeOpen a = true → exec (.lakeWrite e a n data coll) s = .next
    (coll.dedup.foldl (fun s w => s.lakeCollide a n.val data w) (u.lakeWrite a 0 n.val data))) ∧
  (∀ (a : Agent) (n : Fin 33554432) (data : List (Option Byte)), u.lakeOpen a = true → exec (.lakeSetWrite e a n data) s = .next (u.lakeWrite a 1 n.val data)) ∧
  (∀ (a : Agent) (n : Fin 33554432) (data : List (Option Byte)), u.lakeOpen a = true → exec (.lakeClearWrite e a n data) s = .next (u.lakeWrite a 2 n.val data)) ∧
  (∀ v : Word32, bitAt v.toNat 31 = true → u.dev = 4 → u.anyActive = false → v.toNat % 4 ≠ 3 → u.opAt = none → u.dramDead = false →
    gives (.dmcOpCmd e v) s (fun t => t.get F.DMC_OP_STAT.CHANGING 0 = 1 ∧ t.get F.DMC_OP_STAT.RESULT 0 = 2 ∧
      t.opAt = some (v.toNat % 4, wrap64 (u.now + 25 * 8000000)))) ∧
  (∀ v : Word32, bitAt v.toNat 31 = true → (u.dev == 4 && !u.anyActive && v.toNat % 4 != 3 && u.opAt.isNone && !u.dramDead) = false →
    exec (.dmcOpCmd e v) s = .next (u.set F.DMC_OP_STAT.RESULT 0 3)) ∧
  (∀ op d, u.opAt = some (op, d) → exec (.opChangeComplete e true) s = .next
    (((State.setOp { u.set F.DMC_OP_STAT.CHANGING 0 0 with opAt := none } op).selfRefresh false).set F.DMC_OP_STAT.RESULT 0 1)) ∧
  (∀ op d, u.opAt = some (op, d) → exec (.opChangeComplete e false) s = .next (State.raiseF { u.set F.DMC_OP_STAT.CHANGING 0 0 with
      opAt := none, dram := [], dramZero := [], dramBad := [], dramDead := true } F.DMC_FAULT_STAT.OP_FAIL 0 5)) ∧
  (∀ k : Fin 4, k.val ≠ 0 → exec (.requestPromotion e k) s = .next (u.count F.DMC_SC.PROMOTED (some F.DMC_SC.POVF) k.val 8 1)) ∧
  (∀ (c : Fin 8) (b : Fin 64) d, (u.dramBank (64 * c.val + b.val)).openAt = some d → u.reached (wrap64 (d + 200 * 8000)) = true →
    gives (.pageCloseTimeout e c b) s (fun t => (t.dramBank (64 * c.val + b.val)).openAt = none ∧
      (t.dramBank (64 * c.val + b.val)).ctr = (u.dramBank (64 * c.val + b.val)).ctr)) ∧
  (∀ (f : Func) (n : Fin 137438953472) (data : List (Option Byte)) bad fixed lat pages, u.dramOpen f n.val data.length = true →
    gives (.dramWrite e f n data bad fixed lat pages) s (fun t => t.get F.DMC_SC.MAXLAT 3 = max (u.get F.DMC_SC.MAXLAT 3) (min 65535 lat) % 2 ^ 16))

/-- The safe-state pin, the forced cause, the exit with its release, and the resets of PF1 take effect (R363, R368, R372). -/
def Obligations.SafeStateComplete : Prop := ∀ (e : Nat) (s u : State), u = s.elapse e →
  (u.pwr.vauxGood = true → exec (.safeInNFall e true) s = .next
    ((State.set { u with pins := { u.pins with safeInHigh := false, safeInRise := none } } F.CIN_STAT.SAFE_IN 0 1).enterSafe 1)) ∧
  (u.pwr.vauxGood = true → gives (.safeInNFall e true) s (fun t => t.isSafe = true)) ∧
  (u.pwr.vauxGood = true → u.pins.safeInHigh = true → u.fresh % 2 = 1 → exec (.safeInNFall e false) s = .next
    (State.enterSafe { u.drew with pins := { u.pins with safeInRise := some u.now } } 1)) ∧
  (u.pwr.vauxGood = true → u.pins.safeInHigh = true → u.fresh % 2 ≠ 1 → exec (.safeInNFall e false) s = .next
    { u.drew with pins := { u.pins with safeInRise := some u.now } }) ∧
  (u.pins.safeInHigh = false → exec (.safeInNRise e) s = .next
    (State.set { u with pins := { u.pins with safeInHigh := true, safeInRise := some u.now } } F.CIN_STAT.SAFE_IN 0 0)) ∧
  (u.safeInLong = true → gives (.safeInNRise e) s (fun t => t.get F.CIN_CAUSE.CAUSE 0 = clearBit (u.get F.CIN_CAUSE.CAUSE 0) 0 % 2 ^ 10)) ∧
  (∀ v : Word32, u.reaches .pf1 .CIN_FORCE = true → v.toNat % 2 = 1 → gives (.cinForceWrite e v) s (fun t =>
    t.isSafe = true ∧ t.get F.CIN_FORCE.FORCE 0 = 1)) ∧
  (∀ v : Word32, u.reaches .pf1 .CIN_FORCE = true → v.toNat % 2 = 0 → gives (.cinForceWrite e v) s (fun t =>
    t.get F.CIN_FORCE.FORCE 0 = 0 ∧ bitAt (t.get F.CIN_CAUSE.CAUSE 0) 1 = false)) ∧
  (∀ v : Word32, u.reaches .pf1 .CIN_EXIT = true → bitsOf v.toNat 8 8 = 0xA7 → bitAt v.toNat 0 = true → u.safeInSettle.exitOk = true →
    gives (.cinExit e v) s (fun t => t.get F.CIN_STAT.EXIT_PEND 0 = 1 ∧ t.safe.exitAt = some (wrap64 (u.now + 120 * 8000)))) ∧
  (∀ v : Word32, u.reaches .pf1 .CIN_EXIT = true → bitsOf v.toNat 8 8 = 0xA7 → bitAt v.toNat 0 = true → u.safeInSettle.exitOk = false →
    exec (.cinExit e v) s = .next ((u.set F.CIN_STAT.EXIT_REJ 0 1).set F.CIN_FAULT_STAT.EXIT_REJ 0 1)) ∧
  (∀ d, u.safe.exitAt = some d → u.reached d = true → d < 2 ^ 64 → gives (.exitRelease e) s (fun t => t.isSafe = false ∧ t.get F.DEV_STATE.SAFE 0 = 0 ∧
    t.get F.CIN_STAT.EXIT_PEND 0 = 0 ∧ t.get F.CIN_EXIT_DT.DT 0 = d)) ∧
  (∀ v : Word32, u.reaches .pf1 .CIN_TILE_RESET = true → bitsOf v.toNat 8 8 = 0xA7 →
    ((List.range 8).filter (fun t => bitAt v.toNat t)).any (fun t => (u.tileSites t).any (fun x => u.active x)) = true →
    exec (.cinTileReset e v) s = .next (u.set F.CIN_TILE_RESET.RESULT 0 2)) ∧
  (∀ v : Word32, u.reaches .pf1 .CIN_TILE_RESET = true → bitsOf v.toNat 8 8 = 0xA7 →
    ((List.range 8).filter (fun t => bitAt v.toNat t)).any (fun t => (u.tileSites t).any (fun x => u.active x)) = false →
    exec (.cinTileReset e v) s = .next ((u.each ((List.range 8).filter (fun t => bitAt v.toNat t)) (fun s t => s.tileReset t)).set F.CIN_TILE_RESET.RESULT 0 1)) ∧
  (∀ v : Word32, u.reaches .pf1 .CIN_CORE_RESET = true → bitsOf v.toNat 16 8 = 0xA7 →
    exec (.cinCoreReset e v) s = .next (u.each ((List.range 16).filter (fun c => bitAt v.toNat c)) (fun s c => s.safCoreReset c)))

/-- Register accesses of every agent read and write what their address names (R7, R8, R341, R342). -/
def Obligations.AccessComplete : Prop := ∀ (e : Nat) (s u : State), u = s.elapse e →
  (∀ (a : Agent) (o : Fin 67108864) (n : Fin 9), sizeOk o.val n.val = false → exec (.rcRegisterRead e a o n) s = .next { u.badSize a with readData := 0 }) ∧
  (∀ (a : Agent) (o : Fin 67108864) (n : Fin 9), sizeOk o.val n.val = true → n.val = 4 → u.hit a o.val = none →
    exec (.rcRegisterRead e a o n) s = .next { u with readData := 0 }) ∧
  (∀ (a : Agent) (o : Fin 67108864) (n : Fin 9) h, sizeOk o.val n.val = true → n.val = 4 → u.hit a o.val = some h →
    exec (.rcRegisterRead e a o n) s = .next (u.readHit a h)) ∧
  (∀ (a : Agent) (o : Fin 67108864) h, sizeOk o.val 4 = true → u.hit a o.val = some h → exec (.reg64LowRead e a o) s = .next (u.readHit a h)) ∧
  (∀ (a : Agent) (o : Fin 67108864) (n : Fin 9) (v : Word64), sizeOk o.val n.val = false → exec (.registerWrite e a o n v) s = .next (u.badSize a)) ∧
  (∀ (a : Agent) (o : Fin 67108864) (n : Fin 9) (v : Word64), sizeOk o.val n.val = true → n.val = 4 → u.hit a o.val = none →
    exec (.registerWrite e a o n v) s = .next u) ∧
  (∀ (a : Agent) (o : Fin 67108864) (n : Fin 9) (v : Word64) h, sizeOk o.val n.val = true → n.val = 4 → u.hit a o.val = some h →
    h.reg.bytes = 4 → exec (.registerWrite e a o n v) s = .next (u.regWrite a h.reg h.idx (v.toNat % 2 ^ 32) (2 ^ 32 - 1))) ∧
  (∀ (a : Agent) (o : Fin 67108864) (v : Word32) h, sizeOk o.val 4 = true → u.hit a o.val = some h → h.reg.bytes ≠ 4 → h.k % 8 = 4 →
    exec (.reg64HighWrite e a o v) s = .next (u.shadowHigh a h v.toNat))

/-- The PCI Express link trains and goes down, PERST_n and FLR reset the endpoint and a function (R334, R344). -/
def Obligations.HostLinkComplete : Prop := ∀ (e : Nat) (s u : State), u = s.elapse e →
  (∀ h : Bool, h ≠ u.pins.perstN → u.dev = 0 → exec (.perstN e h) s = .next { u with pins := { u.pins with perstN := h } }) ∧
  (u.pins.perstN = false → u.dev ≠ 0 → exec (.perstN e true) s = .next (State.set { u with pins := { u.pins with perstN := true } } F.PCI_LINK.STATE 0 1)) ∧
  (u.pins.perstN = true → u.dev ≠ 0 → exec (.perstN e false) s = .next
    ((((State.raiseC { u with pins := { u.pins with perstN := false } } F.PCI_FAULT_STAT.PERST 0).linkTo 0).fnReset .pf0).fnReset .pf1)) ∧
  (u.pins.perstN = true → u.dev ≠ 0 → gives (.perstN e false) s (fun t => t.get F.PCI_FAULT_STAT.PERST 0 = 1 ∧ t.get F.PCI_LINK.STATE 0 = 0)) ∧
  (∀ f : Func, u.dev ≠ 0 → exec (.flr e f) s = .next ((u.raiseC (match f with | .pf0 => F.PCI_FAULT_STAT.FLR0 | .pf1 => F.PCI_FAULT_STAT.FLR1) 0).fnReset f)) ∧
  (u.get F.PCI_LINK.STATE 0 = 2 → gives (.pcieLinkDown e) s (fun t => t.get F.PCI_LINK.STATE 0 = 1 ∧ t.get F.PCI_FAULT_STAT.LINK_DOWN 0 = 1 ∧
    t.get F.PCI_LINK.WIDTH 0 = 0)) ∧
  (∀ (r w : Fin 16) (fl rev : Bool), u.pins.perstN = true → u.get F.PCI_LINK.STATE 0 ≠ 2 → linkForm r.val w.val fl = true → u.reaches .pf1 .PCI_LINK = true →
    gives (.pcieLinkUp e r w fl rev) s (fun t => t.get F.PCI_LINK.STATE 0 = 2 ∧ t.get F.PCI_LINK.RATE 0 = r.val ∧ t.get F.PCI_LINK.WIDTH 0 = w.val ∧
      t.get F.PCI_LINK.FLIT 0 = ofBool fl ∧ t.get F.PCI_LINK.REVERSED 0 = ofBool rev))

/-- Rings publish, read, complete, acknowledge and flush descriptors (R346, R347). -/
def Obligations.DescriptorComplete : Prop := ∀ (e : Nat) (s u : State), u = s.elapse e →
  (∀ (a : Agent) (r : RingId) (v : Word32) k, k = ringKey r → u.ringOpen a = true → ringDist (u.ringGet k (·.done)) (u.ringGet k (·.tail)) ≤ ringDist (u.ringGet k (·.done)) v.toNat →
    ringDist (u.ringGet k (·.done)) v.toNat ≤ 2 ^ u.ringGet k (·.log2) →
    exec (.hrgCmdTailWrite e a r v) s = .next ((u.ringSet k (·.tail) v.toNat).wake)) ∧
  (∀ (a : Agent) (r : RingId) (v : Word32) k, k = ringKey r → u.ringOpen a = true → (ringDist (u.ringGet k (·.done)) v.toNat < ringDist (u.ringGet k (·.done)) (u.ringGet k (·.tail)) ∨
    2 ^ u.ringGet k (·.log2) < ringDist (u.ringGet k (·.done)) v.toNat) →
    exec (.hrgCmdTailWrite e a r v) s = .next (u.raiseC F.HRG_FAULT_STAT.DB_REJ 0)) ∧
  (∀ r : RingId, u.ringReady (ringKey r) = true → u.ringUsable (ringKey r) = true → exec (.descriptorRead e r) s = .next (u.takeDesc (ringKey r))) ∧
  (∀ r : RingId, u.ringReady (ringKey r) = true → u.ringUsable (ringKey r) = false → exec (.descriptorRead e r) s = .next (u.ringStop (ringKey r))) ∧
  (∀ (r : RingId) c st v, (u.hring (ringKey r)).cur = some c → u.descResult (ringKey r) c = some (st, v) → (u.hring (ringKey r)).stopped = false →
    u.ringUsable (ringKey r) = true → (u.hring (ringKey r)).flushing = false →
    exec (.descriptorComplete e r) s = .next (u.ringDone (ringKey r) c st v)) ∧
  (∀ (a : Agent) (r : RingId) (v : Word32) k, k = ringKey r → u.ringOpen a = true → rdOk (u.ringGet k (·.seen)) (u.ringGet k (·.done)) v.toNat = true →
    exec (.hrgCmdSeenWrite e a r v) s = .next (u.ringSet k (·.seen) v.toNat)) ∧
  (∀ (a : Agent) (r : RingId) (v : Word32) k, k = ringKey r → u.ringOpen a = true → rdOk (u.ringGet k (·.seen)) (u.ringGet k (·.done)) v.toNat = false →
    exec (.hrgCmdSeenWrite e a r v) s = .next u) ∧
  (∀ (a : Agent) (r : RingId) k, k = ringKey r → u.ringOpen a = true → u.ringGet k (·.en) ≠ 0 → (u.hring k).cur.isSome = true →
    gives (.ringDisable e a r) s (fun t => (t.hring k).flushing = true ∧ (t.hring k).cur = (u.hring k).cur)) ∧
  (∀ (a : Agent) (r : RingId) k, k = ringKey r → u.ringOpen a = true → u.ringGet k (·.en) ≠ 0 → (u.hring k).cur = none →
    exec (.ringDisable e a r) s = .next (((u.ringSet k (·.en) 0).setHring k { u.hring k with stopped := false }).flushOrStop k))

/-- The operations of command and management descriptors take effect and have their RESULT (R348, R349). -/
def Obligations.RingOpComplete : Prop := ∀ (e : Nat) (s u : State), u = s.elapse e →
  (∀ (x : Site) c, u.opOf x.val 1 = some c → u.flag F.MDR_SITE_CMD_RES.BUSY x.val = false → u.armCode x.val (bitsOf (c.arg 0) 0 16) = 1 →
    exec (.arm e x) s = .next ((u.armAccepted x.val (bitsOf (c.arg 0) 0 16) (c.arg 1)).opResult x.val c 1)) ∧
  (∀ (x : Site) c r, u.opOf x.val 1 = some c → u.flag F.MDR_SITE_CMD_RES.BUSY x.val = false → u.armCode x.val (bitsOf (c.arg 0) 0 16) = r → r ≠ 1 →
    exec (.arm e x) s = .next ((if r = 4 then u.dirSeen x.val (bitsOf (c.arg 0) 0 16) else u).opResult x.val c r)) ∧
  (∀ (x : Site) c, u.opOf x.val 2 = some c → u.flag F.MDR_SITE_CMD_RES.BUSY x.val = false → u.abortCode x.val = 0 →
    exec (.abort e x) s = .next (((u.set F.MDR_SITE_CMD_RES.BUSY x.val 1).setSite x.val { u.site x.val with abortPend := true, abortAns := none }).opBegun x.val c)) ∧
  (∀ (x : Site) c, u.opOf x.val 3 = some c → u.flag F.MDR_SITE_CMD_RES.BUSY x.val = false → u.ackCode x.val = 1 →
    exec (.ackCommand e x) s = .next ((u.ackDone x.val).opResult x.val c 1)) ∧
  (∀ (x : Site) c d, u.opOf x.val 4 = some c → u.flag F.MDR_SITE_CMD_RES.BUSY x.val = false → u.resetCode x.val = 1 → d = wrap64 (u.now + u.lead x.val) →
    exec (.reset e x) s = .next ((((u.set F.MDR_SITE_CMD_RES.BUSY x.val 1).setSite x.val { u.site x.val with resetAt := some d }).sendToken x.val 12 d []).opBegun x.val c)) ∧
  (∀ (x : Site) c, u.opOf x.val 5 = some c → (u.siteState x.val = 1 ∨ u.siteState x.val = 6) →
    exec (.setArg e x) s = .next ((u.set F.MDR_STEP_ARG.VALUE (4 * x.val + c.arg 0 % 4) (c.arg 1)).opResult x.val c 1)) ∧
  (∀ (x : Site) c, u.opOf x.val 5 = some c → ¬ (u.siteState x.val = 1 ∨ u.siteState x.val = 6) → exec (.setArg e x) s = .next (u.opResult x.val c 2)) ∧
  (∀ (x : Site) c t, u.opOf x.val 6 = some c → t = u.planCmd x.val 1 (c.arg 0) → exec (.ringPlanStart e x) s = .next
    (t.opResult x.val c (resultWord (if t.get F.SVC_PLAN_STAT.RESULT x.val = 1 then 0 else 3) 0 (t.get F.SVC_PLAN_STAT.RESULT x.val)))) ∧
  (∀ (x : Site) c t, u.opOf x.val 7 = some c → t = u.planCmd x.val 2 (c.arg 0) → exec (.ringPlanStop e x) s = .next
    (t.opResult x.val c (resultWord (if t.get F.SVC_PLAN_STAT.RESULT x.val = 1 then 0 else 3) 0 (t.get F.SVC_PLAN_STAT.RESULT x.val)))) ∧
  (∀ (x : Site) c t, u.opOf x.val 8 = some c → t = u.planCmd x.val 3 (c.arg 0) → exec (.ringPlanAbort e x) s = .next
    (t.opResult x.val c (resultWord (if t.get F.SVC_PLAN_STAT.RESULT x.val = 1 then 0 else 3) 0 (t.get F.SVC_PLAN_STAT.RESULT x.val)))) ∧
  (∀ (x : Site) c, u.opOf x.val 9 = some c → exec (.reflect e x) s = .next ((u.requestRefl x.val).opResult x.val c (if u.reflRefused x.val false then 2 else 1))) ∧
  (∀ (x : Site) c v, u.opOf x.val 10 = some c → (u.siteState x.val = 1 ∨ u.siteState x.val = 6) → (u.get F.SVC_PLAN_STAT.STATE x.val = 0 ∨
    u.get F.SVC_PLAN_STAT.STATE x.val = 1 ∨ u.get F.SVC_PLAN_STAT.STATE x.val = 5) → u.tableAt x.val c = some v →
    exec (.tableLoad e x) s = .next ((u.loadTable x.val v).opResult x.val c 1)) ∧
  (∀ (x : Site) c, u.opOf x.val 10 = some c → (u.siteState x.val = 1 ∨ u.siteState x.val = 6) → (u.get F.SVC_PLAN_STAT.STATE x.val = 0 ∨
    u.get F.SVC_PLAN_STAT.STATE x.val = 1 ∨ u.get F.SVC_PLAN_STAT.STATE x.val = 5) → u.tableAt x.val c = none →
    exec (.tableLoad e x) s = .next (u.opResult x.val c (3 + 0x1D * 256))) ∧
  (∀ (m : Fin 16) (data : List Byte) c, u.nvmTurn m.val 1 = some c → data.length = c.arg 2 →
    exec (.nvmRead e m data) s = .next ((u.ptrWrite (c.arg 1) data).nvmDone m.val c data.length)) ∧
  (∀ (m : Fin 16) (n : Nat) c, u.nvmTurn m.val 2 = some c → n ≤ c.arg 2 → n % 4096 = 0 →
    exec (.nvmErase e m n) s = .next ((u.emit (.flash 2 (c.arg 0) (List.replicate n 0xFF))).nvmDone m.val c n)) ∧
  (∀ (m : Fin 16) (n : Nat) c b, u.nvmTurn m.val 3 = some c → n ≤ c.arg 2 → n % 256 = 0 → u.ptrOk (c.arg 1) n = true → b = u.ptrBytes (c.arg 1) n →
    exec (.nvmProgram e m n) s = .next ((u.emit (.flash 3 (c.arg 0) b)).nvmDone m.val c n)) ∧
  (∀ (m : Fin 16) c, u.opOf (256 + m.val) 4 = some c → u.todOk (c.arg 0) = true →
    exec (.todSet e m) s = .next ((u.set F.UMB_TOD_OFFSET.OFFSET 0 (c.arg 0)).opResult (256 + m.val) c 1)) ∧
  (∀ (m : Fin 16) c, u.opOf (256 + m.val) 4 = some c → u.todOk (c.arg 0) = false → exec (.todSet e m) s = .next (u.opResult (256 + m.val) c 2)) ∧
  (∀ (m : Fin 16) c v, u.opOf (256 + m.val) 5 = some c → v = wrap64 (u.get F.UMB_TOD_OFFSET.OFFSET 0 + c.arg 0 * 8000000000000) → u.todOk v = true →
    exec (.todAdj e m) s = .next ((u.set F.UMB_TOD_OFFSET.OFFSET 0 v).opResult (256 + m.val) c 1))

/-- Mailboxes are filled, posted and taken, locks are taken and released, and keys are stored and erased (R291, R352–R354). -/
def Obligations.MailboxComplete : Prop := ∀ (e : Nat) (s u : State), u = s.elapse e →
  (∀ (a : Agent) (n : Fin 64) (w : Fin 16) (v : Word32), u.reaches a .MBX_DATA = true → mbxOpen n.val a = true → mbxSends n.val a = true →
    u.flag F.MBX_STAT.FULL n.val = false → exec (.mbxDataWrite e a n w v) s = .next (u.set F.MBX_DATA.DATA (16 * n.val + w.val) v.toNat)) ∧
  (∀ (a : Agent) (n : Fin 64) (w : Fin 16) (v : Word32), u.reaches a .MBX_DATA = true → mbxOpen n.val a = true → mbxSends n.val a = true →
    u.flag F.MBX_STAT.FULL n.val = true → exec (.mbxDataWrite e a n w v) s = .next (u.set F.MBX_STAT.WR_FULL n.val 1)) ∧
  (∀ (a : Agent) (n : Fin 64) (v : Word32), u.reaches a .MBX_DOORBELL = true → mbxOpen n.val a = true → mbxSends n.val a = true →
    u.flag F.MBX_STAT.FULL n.val = false → u.resetNowBy a.num = false → gives (.mbxDoorbell e a n v) s (fun t => t.get F.MBX_STAT.FULL n.val = 1 ∧ t.get F.MBX_CODE.VALUE n.val = v.toNat ∧
      t.get F.MBX_STAT.SENDER n.val = a.num ∧ t.get F.MBX_STAT.ORPHAN n.val = 0 ∧ t.get F.MBX_STAT.DISCARD n.val = 0)) ∧
  (∀ (a : Agent) (n : Fin 64) (v : Word32), u.reaches a .MBX_DOORBELL = true → mbxOpen n.val a = true → mbxSends n.val a = true →
    u.flag F.MBX_STAT.FULL n.val = true → u.get F.MBX_POST_DT.DT n.val ≠ u.now ∨ u.get F.MBX_STAT.SENDER n.val ≤ a.num → exec (.mbxDoorbell e a n v) s = .next (u.set F.MBX_STAT.DB_REJ n.val 1)) ∧
  (∀ (a : Agent) (n : Fin 64) (v : Word32), u.reaches a .MBX_DOORBELL = true → mbxOpen n.val a = true → mbxSends n.val a = true →
    u.flag F.MBX_STAT.FULL n.val = true → u.get F.MBX_POST_DT.DT n.val = u.now → a.num < u.get F.MBX_STAT.SENDER n.val → exec (.mbxDoorbell e a n v) s = .next ((u.mbxPost n.val a.num v.toNat).set F.MBX_STAT.DB_REJ n.val 1)) ∧
  (∀ (a : Agent) (n : Fin 64) (v : Word32), u.reaches a .MBX_DOORBELL = true → mbxOpen n.val a = true → mbxSends n.val a = false →
    exec (.mbxDoorbell e a n v) s = .next (u.mbxSideErr n.val)) ∧
  (∀ (a : Agent) (n : Fin 64), u.reaches a .MBX_TAKE = true → mbxOpen n.val a = true → mbxTakes n.val a = true →
    u.flag F.MBX_STAT.FULL n.val = true → n.val ≠ 0 → exec (.mbxTake e a n .clean) s = .next (u.mbxEmpty n.val)) ∧
  (∀ (a : Agent) (n : Fin 64), u.reaches a .MBX_TAKE = true → mbxOpen n.val a = true → mbxTakes n.val a = true →
    u.flag F.MBX_STAT.FULL n.val = true → n.val = 0 → exec (.mbxTake e a n .clean) s = .next (u.mbxEmpty n.val).keyPost) ∧
  (∀ (a : Agent) (n : Fin 64), u.reaches a .MBX_LOCK = true → mbxOpen n.val a = true → u.get F.MBX_LOCK.OWNER n.val = 0 → gives (.mbxLockRead e a n) s (fun t =>
    t.readData = 0 ∧ t.get F.MBX_LOCK.OWNER n.val = a.num)) ∧
  (∀ (a : Agent) (n : Fin 64), u.reaches a .MBX_LOCK = true → mbxOpen n.val a = true → u.get F.MBX_LOCK.OWNER n.val ≠ 0 →
    exec (.mbxLockRead e a n) s = .next { u with readData := u.get F.MBX_LOCK.OWNER n.val }) ∧
  (∀ (a : Agent) (n : Fin 64) (v : Byte), u.reaches a .MBX_LOCK = true → mbxOpen n.val a = true → u.get F.MBX_LOCK.OWNER n.val ≠ 0 →
    u.get F.MBX_LOCK.OWNER n.val = v.toNat → (a.num = v.toNat ∨ a = .pf1) → gives (.mbxLockRelease e a n v) s (fun t => t.get F.MBX_LOCK.OWNER n.val = 0)) ∧
  (u.reaches .pf1 .PCI_KEY_CMD = true → exec (.keyStoreWrite e) s = .next (u.keyCmd 0x80000001)) ∧
  (u.reaches .pf1 .PCI_KEY_CMD = true → u.siteState (u.get F.PCI_KEY_SEL.SITE 0) ≠ 0 → (u.get F.PCI_KEY_SEL.KIND 0 = 1 ∨ u.get F.PCI_KEY_SEL.KIND 0 = 2) →
    exec (.keyStoreErase e) s = .next (((u.clearReg .PCI_KEY_DATA).setSlot (u.get F.PCI_KEY_SEL.SITE 0) (u.get F.PCI_KEY_SEL.SLOT 0) 0 []).set
      F.PCI_KEY_RES.RESULT 0 2))

/-- A step at a waiting queue executes the command at its front on the state with the queue's rest; on an empty queue it idles. -/
def Obligations.StepRunsFront : Prop := ∀ s : State, (∀ c r, s.pending = c :: r → Sys2Proof.core.step s = exec c { s with pending := r }) ∧
  (s.pending = [] → Sys2Proof.core.step s = .next s)

/-- A step takes exactly one command off the queue, never gives a free value back, and only adds to what was sent. -/
def Obligations.StepHistory : Prop := ∀ s t : State, Sys2Proof.core.step s = .next t →
  t.pending = s.pending.tail ∧ s.free ≤ t.free ∧ s.out <+: t.out

/-- After reset registers and memories are in canonical form, and nothing waits. -/
def Obligations.FormsAtReset : Prop := Sys2Proof.core.reset.regsWf = true ∧ Sys2Proof.core.reset.memWf = true ∧ Sys2Proof.core.reset.pending = []

/-- Every step keeps registers and memories in canonical form. -/
def Obligations.FormsKept : Prop := ∀ s t : State, Sys2Proof.core.step s = .next t →
  (s.regsWf = true → t.regsWf = true) ∧ (s.memWf = true → t.memWf = true)

/-- No command ever stops: each answers a next state in every state and with all operands. -/
def Obligations.CommandsAnswer : Prop := ∀ (c : Instr) (s : State), ∃ t, exec c s = .next t

/-- The frame of every command: no field of a register that its row of the table does not name changes, no byte of Lake or DRAM where the row
names no memory, and nothing is sent where it says so. -/
def Obligations.Frame : Prop := ∀ (c : Instr) (s t : State) (w : Touch), touches c = some w → exec c s = .next t →
  (∀ r, r ∉ timeRegs → r ∉ w.regs → ∀ f ∈ r.fields, ∀ i, t.get f i = s.get f i) ∧
  (w.mem = false → (∀ lake a, t.byteAt lake a = s.byteAt lake a) ∧ t.dramBad = s.dramBad) ∧ (w.out = false → t.out = s.out)

/-- ADD, SUB and ADDI saturate with F0 = 0, and set SAT when they do; with F0 = 1 they wrap modulo 2^64 and leave SAT alone. DBNZ stops at 0 (R156). -/
def Obligations.ArithmeticRule : Prop := ∀ (e : Nat) (s u : State) (x : Site) (w a b : Nat), u = s.elapse e → a = u.gr x.val (regA w) →
  (u.runsWord x.val 0x32 w = true → b = u.gr x.val (regB w) → gives (.add e x) s (fun t =>
    t.gr x.val (regA w) = (if flagOf w 0 then (a + b) % 2 ^ 64 else min (a + b) (2 ^ 64 - 1)) ∧
    t.get F.MDR_STEP_STAT.SAT x.val = (if !flagOf w 0 && decide (2 ^ 64 ≤ a + b) then 1 else u.get F.MDR_STEP_STAT.SAT x.val))) ∧
  (u.runsWord x.val 0x33 w = true → b = u.gr x.val (regB w) → a < 2 ^ 64 → b < 2 ^ 64 → gives (.sub e x) s (fun t =>
    t.gr x.val (regA w) = (if flagOf w 0 then (a + 2 ^ 64 - b) % 2 ^ 64 else a - b) ∧
    t.get F.MDR_STEP_STAT.SAT x.val = (if !flagOf w 0 && decide (a < b) then 1 else u.get F.MDR_STEP_STAT.SAT x.val))) ∧
  (u.runsWord x.val 0x31 w = true → b = imm40 w → flagOf w 1 = false → gives (.addi e x) s (fun t =>
    t.gr x.val (regA w) = (if flagOf w 0 then (a + b) % 2 ^ 64 else min (a + b) (2 ^ 64 - 1)) ∧
    t.get F.MDR_STEP_STAT.SAT x.val = (if !flagOf w 0 && decide (2 ^ 64 ≤ a + b) then 1 else u.get F.MDR_STEP_STAT.SAT x.val))) ∧
  (u.runsWord x.val 0x31 w = true → b = imm40 w → flagOf w 1 = true → a < 2 ^ 64 → gives (.addi e x) s (fun t =>
    t.gr x.val (regA w) = (if flagOf w 0 then (a + 2 ^ 64 - b) % 2 ^ 64 else a - b) ∧
    t.get F.MDR_STEP_STAT.SAT x.val = (if !flagOf w 0 && decide (a < b) then 1 else u.get F.MDR_STEP_STAT.SAT x.val))) ∧
  (u.runsWord x.val 0x23 w = true → a = 0 → gives (.dbnz e x) s (fun t =>
    t.gr x.val (regA w) = 0 ∧ t.get F.MDR_STEP_PC.PC x.val = (u.stepPc x.val + 1) % 2 ^ 20))

/-- MDR_SITE_CMD holds one command at a time (R79): a write while BUSY is refused with result 7, and nothing else changes; otherwise the
command is carried out as it arrives. -/
def Obligations.BusyRule : Prop := ∀ (e : Nat) (s u : State) (x : Site), u = s.elapse e →
  (u.flag F.MDR_SITE_CMD_RES.BUSY x.val = true → ∀ c, ((∃ p, c = .siteArm e x p) ∨ c = .siteAbort e x ∨ c = .siteAck e x ∨ c = .siteReset e x) →
    exec c s = .next (u.set F.MDR_SITE_CMD_RES.RESULT x.val 7)) ∧
  (u.flag F.MDR_SITE_CMD_RES.BUSY x.val = false → (∀ p, exec (.siteArm e x p) s = .next (u.armSite x.val p.toNat)) ∧
    exec (.siteAbort e x) s = .next (u.abortSite x.val) ∧ exec (.siteAck e x) s = .next (u.ackSite x.val) ∧
    exec (.siteReset e x) s = .next (u.resetSite x.val))

/-- Device time counts ticks modulo 2^64 and each wrap adds to UMB_ERA, so extended time repeats after 2^96 ticks; differences are read as
signed; a read of the low word of UMB_DT latches the high word and the era (R202). -/
def Obligations.DeviceTimeRule : Prop := ∀ (e : Nat) (s u : State), u = s.elapse e →
  (s.pwr.vauxGood = true → u.now = (s.now + e) % 2 ^ 64 ∧
    u.get F.UMB_ERA.ERA 0 = (s.get F.UMB_ERA.ERA 0 + (s.now + e) / 2 ^ 64) % 2 ^ 32 ∧ u.extTime = (s.extTime + e) % 2 ^ 96) ∧
  (∀ a b, a < 2 ^ 64 → b < 2 ^ 64 → dtDiff a b = (if (b + 2 ^ 64 - a) % 2 ^ 64 < 2 ^ 63 then (((b + 2 ^ 64 - a) % 2 ^ 64 : Nat) : Int)
    else (((b + 2 ^ 64 - a) % 2 ^ 64 : Nat) : Int) - 2 ^ 64)) ∧
  (∀ a, gives (.umbDtRead e a) s (fun t => t.readData = u.now % 2 ^ 32 ∧ (Tab.get {} t.shadows a.num).rd = some (umbDtAddr, u.now / 2 ^ 32) ∧
    t.get F.UMB_ERA_LATCH.ERA 0 = u.get F.UMB_ERA.ERA 0 % 2 ^ 32))

/-- A read of IRC_CLAIM answers the deliverable source of the slot with the highest priority, among equals the lowest number, and claims it;
0 where there is none, and where the slot is not the agent's (R313). -/
def Obligations.ClaimTakesBest : Prop := ∀ (e : Nat) (s u : State) (a : Agent) (x : Fin 56), u = s.elapse e → u.reaches a .IRC_CLAIM = true →
  (slotOpen a x.val = true → (∃ m, m < 1977 ∧ u.deliverable m = true ∧ u.serves m x.val = true) → gives (.ircClaim e a x) s (fun t =>
    ∃ n, n < 1977 ∧ t.readData = n ∧ u.deliverable n = true ∧ u.serves n x.val = true ∧
      (∀ m, m < 1977 → u.deliverable m = true → u.serves m x.val = true → u.get F.IRC_SRC.PRIO n < u.get F.IRC_SRC.PRIO m ∨
        (u.get F.IRC_SRC.PRIO n = u.get F.IRC_SRC.PRIO m ∧ n ≤ m)) ∧
      Tab.get 0 t.irc.holder n = x.val + 1 ∧ t.mapBit F.IRC_CLAIMED.SRC 0 n = true ∧ t.deliverable n = false)) ∧
  (slotOpen a x.val = true → (∀ m, m < 1977 → ¬ (u.deliverable m = true ∧ u.serves m x.val = true)) →
    exec (.ircClaim e a x) s = .next { u with readData := 0 }) ∧
  (slotOpen a x.val = false → exec (.ircClaim e a x) s = .next { u with readData := 0 }) ∧
  (x.val < 16 → slotOpen a x.val = true → a.num = 0x20 + x.val)

/-- A claim starts the hold-off of the source's group, for HOLDOFF × 100 ns; no source of the group is deliverable until it ends, each stays
pending, and at the end every pending, unmasked one is deliverable; a HOLDOFF of 0 means none; no source of a group that holds off is claimed (R316). -/
def Obligations.HoldOffRule : Prop := ∀ (e : Nat) (s u : State), u = s.elapse e →
  (∀ (a : Agent) (x : Fin 56) n, slotOpen a x.val = true → u.reaches a .IRC_CLAIM = true → u.bestSource x.val = some n →
    u.get F.IRC_HOLDOFF.ACTIVE (n / 64) = 0 ∧
    (u.get F.IRC_HOLDOFF.STEPS (n / 64) ≠ 0 → gives (.ircClaim e a x) s (fun t => t.get F.IRC_HOLDOFF.ACTIVE (n / 64) = 1 ∧
      Tab.get 0 t.irc.holdUntil (n / 64) = (u.now + u.get F.IRC_HOLDOFF.STEPS (n / 64) * 800000) % 2 ^ 64 ∧
      (∀ m, m / 64 = n / 64 → t.deliverable m = false) ∧ (∀ m, m ≠ n → t.mapBit F.IRC_PEND.SRC 0 m = u.mapBit F.IRC_PEND.SRC 0 m))) ∧
    (u.get F.IRC_HOLDOFF.STEPS (n / 64) = 0 → gives (.ircClaim e a x) s (fun t => ∀ g, t.get F.IRC_HOLDOFF.ACTIVE g = u.get F.IRC_HOLDOFF.ACTIVE g))) ∧
  (∀ g : Group, u.get F.IRC_HOLDOFF.ACTIVE g.val = 1 → u.dev ≠ 6 → u.reached (Tab.get 0 u.irc.holdUntil g.val) = true →
    gives (.holdoffEnd e g) s (fun t => t.get F.IRC_HOLDOFF.ACTIVE g.val = 0 ∧
      ∀ m, m / 64 = g.val → u.mapBit F.IRC_PEND.SRC 0 m = true → u.mapBit F.IRC_MASK.SRC 0 m = false → t.deliverable m = true))

/-- A completion by the slot that claimed a source returns it to idle, or to pending where an edge was latched or the level is asserted; one by
another slot is ignored and sets BAD_COMPLETE; a second edge merges and sets OVR (R314). -/
def Obligations.CompletionRule : Prop := ∀ (e : Nat) (s u : State) (a : Agent) (x : Fin 56) (n : Fin 4096), u = s.elapse e →
  (u.reaches a .IRC_COMPLETE = true → (x.val < 48 ∨ a = .pf1) → Tab.get 0 u.irc.holder n.val = x.val + 1 → gives (.ircComplete e a x n) s (fun t =>
    t.mapBit F.IRC_CLAIMED.SRC 0 n.val = false ∧
    (u.edgeSource n.val = true → t.mapBit F.IRC_PEND.SRC 0 n.val = (u.mapBit F.IRC_PEND.SRC 0 n.val || Tab.get 0 u.irc.latched n.val == 1)) ∧
    (u.edgeSource n.val = false → t.mapBit F.IRC_PEND.SRC 0 n.val = (u.mapBit F.IRC_PEND.SRC 0 n.val || u.lineLevel n.val)))) ∧
  (u.reaches a .IRC_COMPLETE = true → (x.val < 48 ∨ a = .pf1) → Tab.get 0 u.irc.holder n.val ≠ x.val + 1 →
    exec (.ircComplete e a x n) s = .next (u.set F.IRC_FAULT_STAT.BAD_COMPLETE 0 1)) ∧
  (pulseSource n.val = true → u.irc.pulses.contains n.val = true → u.dev ≠ 6 →
    (if u.mapBit F.IRC_CLAIMED.SRC 0 n.val then Tab.get 0 u.irc.latched n.val = 1 else u.mapBit F.IRC_PEND.SRC 0 n.val = true) →
    gives (.interruptPending e n) s (fun t => t.mapBit F.IRC_OVR.SRC 0 n.val = true ∧ t.mapBit F.IRC_PEND.SRC 0 n.val = u.mapBit F.IRC_PEND.SRC 0 n.val)) ∧
  (u.edgeSource n.val = true → pulseSource n.val = false → u.lineLevel n.val = true → Tab.get 0 u.irc.lineWas n.val = 0 → u.dev ≠ 6 →
    (if u.mapBit F.IRC_CLAIMED.SRC 0 n.val then Tab.get 0 u.irc.latched n.val = 1 else u.mapBit F.IRC_PEND.SRC 0 n.val = true) →
    gives (.interruptPending e n) s (fun t => t.mapBit F.IRC_OVR.SRC 0 n.val = true ∧ t.mapBit F.IRC_PEND.SRC 0 n.val = u.mapBit F.IRC_PEND.SRC 0 n.val))

/-- A lock is free at 0: a read of a free lock answers 0 and takes it, any other read answers the holder, the holder's number written by the holder
or PF1 releases it, other writes are ignored, and the doorbell does not look at it (R354). -/
def Obligations.LockRule : Prop := ∀ (e : Nat) (s u : State) (a : Agent) (n : Fin 64) (h : Nat), u = s.elapse e → u.reaches a .MBX_LOCK = true →
  mbxOpen n.val a = true → h = u.get F.MBX_LOCK.OWNER n.val →
  (h = 0 → gives (.mbxLockRead e a n) s (fun t => t.readData = 0 ∧ t.get F.MBX_LOCK.OWNER n.val = a.num)) ∧
  (h ≠ 0 → exec (.mbxLockRead e a n) s = .next { u with readData := h }) ∧
  (∀ v : Byte, h ≠ 0 → v.toNat = h → (a.num = h ∨ a = .pf1) → exec (.mbxLockRelease e a n v) s = .next (u.set F.MBX_LOCK.OWNER n.val 0)) ∧
  (∀ v : Byte, (h = 0 ∨ v.toNat ≠ h ∨ (a.num ≠ h ∧ a ≠ .pf1)) → exec (.mbxLockRelease e a n v) s = .next u) ∧
  (∀ v : Word32, u.reaches a .MBX_DOORBELL = true → mbxSends n.val a = true → u.flag F.MBX_STAT.FULL n.val = false →
    gives (.mbxDoorbell e a n v) s (fun t => t.get F.MBX_STAT.FULL n.val = 1 ∧ t.get F.MBX_LOCK.OWNER n.val = h))

/-- A bank is handed over by its owner or by PF1 to an owner that may hold one; otherwise HANDOVER_REJ is set and the owner stays; a bank of the loader
is never handed over (R321). -/
def Obligations.HandoverRule : Prop := ∀ (e : Nat) (s u : State) (a : Agent) (b : Bank) (v : Byte), u = s.elapse e → u.reaches a .LAK_OWNER = true →
  ((u.owner b.val = a.num ∨ a = .pf1) → u.owner b.val ≠ 0x3F → (v.toNat = 1 ∨ v.toNat = 2 ∨ (0x20 ≤ v.toNat ∧ v.toNat ≤ 0x2F)) →
    gives (.lakOwnerWrite e a b v) s (fun t => t.owner b.val = v.toNat ∧ t.get F.LAK_FAULT_STAT.HANDOVER_REJ 0 = u.get F.LAK_FAULT_STAT.HANDOVER_REJ 0 ∧
      (∀ a2 : Agent, t.bankTakes a2 b.val = (decide (a2.num = v.toNat) && t.bankIsOn b.val)))) ∧
  ((u.owner b.val ≠ a.num ∧ a ≠ .pf1) ∨ ¬ (v.toNat = 1 ∨ v.toNat = 2 ∨ (0x20 ≤ v.toNat ∧ v.toNat ≤ 0x2F)) ∨ u.owner b.val = 0x3F →
    gives (.lakOwnerWrite e a b v) s (fun t => t.owner b.val = u.owner b.val ∧ t.get F.LAK_FAULT_STAT.HANDOVER_REJ 0 = 1))

/-- What a port A write of an agent does to Lake (R319, R320, R323): each enabled byte of a bank that the agent owns and that is ON takes the written
value plainly, ORed in the set window or cleared in the clear window; every other byte of Lake, and all of DRAM, reads as before. -/
def Obligations.LakeBytes : Prop := ∀ (e : Nat) (s u : State) (a : Agent) (addr : Fin 33554432) (data : List (Option Byte)) (c : Instr) (kind : Nat),
  u = s.elapse e → u.lakeOpen a = true →
  (c = .lakeWrite e a addr data [] ∧ kind = 0) ∨ (c = .lakeSetWrite e a addr data ∧ kind = 1) ∨ (c = .lakeClearWrite e a addr data ∧ kind = 2) →
  gives c s (fun t =>
    (∀ k v, data.getD k none = some v → addr.val + k < 33554432 → u.bankTakes a (bankOf (addr.val + k)) = true →
      t.byteAt true (addr.val + k) = (if kind = 0 then v else if kind = 1 then u.byteAt true (addr.val + k) ||| v else u.byteAt true (addr.val + k) &&& ~~~v)) ∧
    (∀ p, (p < addr.val ∨ addr.val + data.length ≤ p ∨ data.getD (p - addr.val) none = none ∨ 33554432 ≤ p ∨ u.bankTakes a (bankOf p) = false) →
      t.byteAt true p = u.byteAt true p) ∧ (∀ p, t.byteAt false p = u.byteAt false p))

/-- What a host write of DRAM does to memory (R326, R327, R343): bytes that it does not enable, and all of Lake, read as before; without an uncorrectable
error now or before each enabled byte of a word in a region's usable part takes the written value, and words outside every usable part keep theirs. -/
def Obligations.DramBytes : Prop := ∀ (e : Nat) (s u : State) (f : Func) (addr : Fin 137438953472) (data : List (Option Byte)) bad fixed lat pages,
  u = s.elapse e → u.dramOpen f addr.val data.length = true → gives (.dramWrite e f addr data bad fixed lat pages) s (fun t =>
    (∀ p, (p < addr.val ∨ addr.val + data.length ≤ p ∨ data.getD (p - addr.val) none = none) → t.byteAt false p = u.byteAt false p) ∧
    (∀ p, t.byteAt true p = u.byteAt true p) ∧
    (bad = [] → u.dramBad = [] → (∀ p, u.wordRegion (8 * (p / 8)) = 0 → t.byteAt false p = u.byteAt false p) ∧
      (u.dramDead = false → ∀ k v, data.getD k none = some v → u.wordRegion (8 * ((addr.val + k) / 8)) ≠ 0 → t.byteAt false (addr.val + k) = v)))

/-- Outside READY and RUNNING the host's writes to Lake and DRAM through its BARs are discarded, and no fault is raised (R343). -/
def Obligations.ClosedMemory : Prop := ∀ (e : Nat) (s u : State), u = s.elapse e → u.dev ≠ 4 → u.dev ≠ 5 →
  (∀ addr data coll, exec (.lakeWrite e .pf0 addr data coll) s = .next u) ∧ (∀ addr data, exec (.lakeSetWrite e .pf0 addr data) s = .next u) ∧
  (∀ addr data, exec (.lakeClearWrite e .pf0 addr data) s = .next u) ∧
  (∀ addr data bad fixed lat pages, exec (.dramWrite e .pf0 addr data bad fixed lat pages) s = .next u)

/-- The page policy of a DRAM bank (R329): the counter follows a page that was kept open, the page stays open while it is 2 or more, an open page closes
after 200 ns, and no other bank is touched. That the counter holds at 0 and 3 is the model's reading (notes/assumptions/70.md). -/
def Obligations.PagePolicy : Prop :=
  (∀ (s : State) (p : PageAccess), let n := 64 * p.ch.val + p.bank.val; let t := s.pageAccess p
    (t.dramBank n).ctr = (if (s.dramBank n).openAt.isNone then (s.dramBank n).ctr else if p.hit then min 3 ((s.dramBank n).ctr + 1) else (s.dramBank n).ctr - 1) ∧
    (t.dramBank n).openAt = (if 2 ≤ (t.dramBank n).ctr then some s.now else none) ∧ ∀ m, m ≠ n → t.dramBank m = s.dramBank m) ∧
  (∀ (e : Nat) (s u : State) (f : Func) addr data bad fixed lat pages, u = s.elapse e → u.dramOpen f addr.val data.length = true →
    ∃ v : State, exec (.dramWrite e f addr data bad fixed lat pages) s = .next (pages.foldl (fun s p => s.pageAccess p) v)) ∧
  (∀ (e : Nat) (s u : State) (c : Fin 8) (b : Fin 64) d, u = s.elapse e → (u.dramBank (64 * c.val + b.val)).openAt = some d →
    gives (.pageCloseTimeout e c b) s (fun t => (t.dramBank (64 * c.val + b.val)).openAt = (if u.reached (wrap64 (d + 1600000)) then none else some d)))

/-- A counter saturates at its largest value and never wraps; the event that brings it there, and no other, sets its overflow bit, the block's bit of CIN_SAT
and CIN_FAULT_STAT.SAT (R371). -/
def Obligations.CounterRule : Prop := ∀ (s : State) (f o : Fld) (i blk n : Nat), f.id ≠ o.id → f.reg ≠ .CIN_SAT → f.reg ≠ .CIN_FAULT_STAT →
  o.reg ≠ .CIN_SAT → o.reg ≠ .CIN_FAULT_STAT → o.w = 1 → f.lo < 128 → o.lo < 128 → blk < 28 →
  (∀ ovf : Option Fld, (ovf = none ∨ ovf = some o) → (s.count f ovf i blk n).get f i = min (s.get f i + n) (2 ^ f.w - 1)) ∧
  (s.get f i < 2 ^ f.w - 1 → 2 ^ f.w - 1 ≤ s.get f i + n → ((s.count f (some o) i blk n).get o i = 1 ∧
    ∀ ovf : Option Fld, (ovf = none ∨ ovf = some o) → bitAt ((s.count f ovf i blk n).get F.CIN_SAT.BLOCK 0) blk = true ∧
      (s.count f ovf i blk n).get F.CIN_FAULT_STAT.SAT 0 = 1)) ∧
  ((2 ^ f.w - 1 ≤ s.get f i ∨ s.get f i + n < 2 ^ f.w - 1) → ∀ ovf : Option Fld, (ovf = none ∨ ovf = some o) →
    ∀ (g : Fld) j, (s.count f ovf i blk n).get g j = (s.set f i (min (s.get f i + n) (2 ^ f.w - 1))).get g j)

/-- Overlapping causes of safe state, shown on the cause that PF1 forces (R363, R367): an entry latches the cause and counts; a cause while safe state holds
adds its bit and is not counted; a cause while an accepted exit waits makes the exit void, counts, and fires nothing; a cause at the DT at which the exit was
accepted refuses it instead. -/
def Obligations.SafeOverlap : Prop := ∀ (e : Nat) (s u : State) (v : Word32), u = s.elapse e → u.reaches .pf1 .CIN_FORCE = true → v.toNat % 2 = 1 →
  (u.isSafe = false → gives (.cinForceWrite e v) s (fun t => t.isSafe = true ∧ t.get F.CIN_CAUSE.CAUSE 0 = (u.get F.CIN_CAUSE.CAUSE 0 ||| 2) % 2 ^ 10 ∧
    t.get F.CIN_CAUSE_SEEN.CAUSE 0 = 2 ∧ t.get F.CIN_ENTRIES.COUNT 0 = min (u.get F.CIN_ENTRIES.COUNT 0 + 1) (2 ^ 31 - 1) ∧ t.get F.DEV_STATE.SAFE 0 = 1)) ∧
  (u.isSafe = true → u.flag F.CIN_STAT.EXIT_PEND 0 = false → gives (.cinForceWrite e v) s (fun t => t.isSafe = true ∧
    t.get F.CIN_CAUSE.CAUSE 0 = (u.get F.CIN_CAUSE.CAUSE 0 ||| 2) % 2 ^ 10 ∧ t.get F.CIN_CAUSE_SEEN.CAUSE 0 = (u.get F.CIN_CAUSE_SEEN.CAUSE 0 ||| 2) % 2 ^ 10 ∧
    t.get F.CIN_ENTRIES.COUNT 0 = u.get F.CIN_ENTRIES.COUNT 0 ∧ t.get F.CIN_ENTRY_DT.DT 0 = u.get F.CIN_ENTRY_DT.DT 0 ∧ t.evf = u.evf)) ∧
  (u.isSafe = true → u.flag F.CIN_STAT.EXIT_PEND 0 = true → u.safe.exitAt ≠ some (wrap64 (u.now + ns 120)) → gives (.cinForceWrite e v) s (fun t => t.isSafe = true ∧
    t.get F.CIN_STAT.EXIT_PEND 0 = 0 ∧ t.safe.exitAt = none ∧ t.get F.CIN_EXIT_DT.DT 0 = u.get F.CIN_EXIT_DT.DT 0 ∧ t.pins = u.pins ∧ t.evf = u.evf ∧
    t.get F.CIN_CAUSE.CAUSE 0 = (u.get F.CIN_CAUSE.CAUSE 0 ||| 2) % 2 ^ 10 ∧ t.get F.CIN_CAUSE_SEEN.CAUSE 0 = 2 ∧
    t.get F.CIN_ENTRIES.COUNT 0 = min (u.get F.CIN_ENTRIES.COUNT 0 + 1) (2 ^ 31 - 1))) ∧
  (u.isSafe = true → u.flag F.CIN_STAT.EXIT_PEND 0 = true → u.safe.exitAt = some (wrap64 (u.now + ns 120)) → gives (.cinForceWrite e v) s (fun t => t.isSafe = true ∧
    t.get F.CIN_STAT.EXIT_PEND 0 = 0 ∧ t.safe.exitAt = none ∧ t.get F.CIN_STAT.EXIT_REJ 0 = 1 ∧ t.get F.CIN_ENTRIES.COUNT 0 = u.get F.CIN_ENTRIES.COUNT 0 ∧
    t.get F.CIN_CAUSE.CAUSE 0 = (u.get F.CIN_CAUSE.CAUSE 0 ||| 2) % 2 ^ 10 ∧ t.evf = u.evf))

/-- The line code agrees with its decoding (R225, R226): the receiver removes exactly the bits that stuffing inserts, whatever run precedes; descrambling undoes
scrambling; the bit after a comma is 0, and no run of equal bits in stuffed data is longer than 23. -/
def Obligations.LineCode : Prop :=
  (∀ (r : RunCount) (l : List Bool), unstuff r (stuff r l) = l) ∧ (∀ (g l : List Bool), scramble g (scramble g l) = l) ∧
  (∀ (b : Bool) (l : List Bool), (stuff afterComma (b :: l)).head? = some false) ∧
  (∀ (l p q : List Bool) (b : Bool), stuff afterComma l ≠ p ++ List.replicate 24 b ++ q)
end

