-- ==== Sys2Proof/Laws/Answers.lean ====
section
/-! SUPPORT. Every command answers a next state, whatever the state and its operands. -/

set_option linter.unusedTactic false
set_option linter.unreachableTactic false

namespace Sys2Proof.Machine

theorem answers_next (s : State) : ∃ t, (.next s : Out) = .next t := ⟨s, rfl⟩

theorem execPowerOnReset_answers (p0 p1 p2 p3) (s : State) : ∃ t, execPowerOnReset p0 p1 p2 p3 s = .next t := by
  unfold execPowerOnReset
  with_reducible (repeat' first | exact answers_next _ | extract_lets | split)

theorem execVauxUnderVoltage_answers (p0) (s : State) : ∃ t, execVauxUnderVoltage p0 s = .next t := by
  unfold execVauxUnderVoltage
  with_reducible (repeat' first | exact answers_next _ | extract_lets | split)

theorem execRailsGood_answers (p0) (s : State) : ∃ t, execRailsGood p0 s = .next t := by
  unfold execRailsGood
  with_reducible (repeat' first | exact answers_next _ | extract_lets | split)

theorem execRailUnderVoltage_answers (p0 p1) (s : State) : ∃ t, execRailUnderVoltage p0 p1 s = .next t := by
  unfold execRailUnderVoltage
  with_reducible (repeat' first | exact answers_next _ | extract_lets | split)

theorem execCoreIslandAdmission_answers (p0) (s : State) : ∃ t, execCoreIslandAdmission p0 s = .next t := by
  unfold execCoreIslandAdmission
  with_reducible (repeat' first | exact answers_next _ | extract_lets | split)

theorem execTileCommonAdmission_answers (p0) (s : State) : ∃ t, execTileCommonAdmission p0 s = .next t := by
  unfold execTileCommonAdmission
  with_reducible (repeat' first | exact answers_next _ | extract_lets | split)

theorem execLadderRequest_answers (p0) (s : State) : ∃ t, execLadderRequest p0 s = .next t := by
  unfold execLadderRequest
  with_reducible (repeat' first | exact answers_next _ | extract_lets | split)

theorem execLadderSlot_answers (p0) (s : State) : ∃ t, execLadderSlot p0 s = .next t := by
  unfold execLadderSlot
  with_reducible (repeat' first | exact answers_next _ | extract_lets | split)

theorem execGroupSettleEnd_answers (p0 p1 p2) (s : State) : ∃ t, execGroupSettleEnd p0 p1 p2 s = .next t := by
  unfold execGroupSettleEnd
  with_reducible (repeat' first | exact answers_next _ | extract_lets | split)

theorem execPoweringEnd_answers (p0) (s : State) : ∃ t, execPoweringEnd p0 s = .next t := by
  unfold execPoweringEnd
  with_reducible (repeat' first | exact answers_next _ | extract_lets | split)

theorem execResetNFall_answers (p0) (s : State) : ∃ t, execResetNFall p0 s = .next t := by
  unfold execResetNFall
  with_reducible (repeat' first | exact answers_next _ | extract_lets | split)

theorem execDeviceReset_answers (p0) (s : State) : ∃ t, execDeviceReset p0 s = .next t := by
  unfold execDeviceReset
  with_reducible (repeat' first | exact answers_next _ | extract_lets | split)

theorem execResetNRise_answers (p0) (s : State) : ∃ t, execResetNRise p0 s = .next t := by
  unfold execResetNRise
  with_reducible (repeat' first | exact answers_next _ | extract_lets | split)

theorem execDevReset_answers (p0 p1) (s : State) : ∃ t, execDevReset p0 p1 s = .next t := by
  unfold execDevReset
  with_reducible (repeat' first | exact answers_next _ | extract_lets | split)

theorem execTestenHigh_answers (p0) (s : State) : ∃ t, execTestenHigh p0 s = .next t := by
  unfold execTestenHigh
  with_reducible (repeat' first | exact answers_next _ | extract_lets | split)

theorem execPwrSleepSet_answers (p0 p1 p2) (s : State) : ∃ t, execPwrSleepSet p0 p1 p2 s = .next t := by
  unfold execPwrSleepSet
  with_reducible (repeat' first | exact answers_next _ | extract_lets | split)

theorem execPwrSleepClr_answers (p0 p1 p2) (s : State) : ∃ t, execPwrSleepClr p0 p1 p2 s = .next t := by
  unfold execPwrSleepClr
  with_reducible (repeat' first | exact answers_next _ | extract_lets | split)

theorem execDormantRequest_answers (p0) (s : State) : ∃ t, execDormantRequest p0 s = .next t := by
  unfold execDormantRequest
  with_reducible (repeat' first | exact answers_next _ | extract_lets | split)

theorem execDormantEntryComplete_answers (p0) (s : State) : ∃ t, execDormantEntryComplete p0 s = .next t := by
  unfold execDormantEntryComplete
  with_reducible (repeat' first | exact answers_next _ | extract_lets | split)

theorem execWake_answers (p0 p1) (s : State) : ∃ t, execWake p0 p1 s = .next t := by
  unfold execWake
  with_reducible (repeat' first | exact answers_next _ | extract_lets | split)

theorem execWakeComplete_answers (p0) (s : State) : ∃ t, execWakeComplete p0 s = .next t := by
  unfold execWakeComplete
  with_reducible (repeat' first | exact answers_next _ | extract_lets | split)

theorem execThermalConversion_answers (p0 p1) (s : State) : ∃ t, execThermalConversion p0 p1 s = .next t := by
  unfold execThermalConversion
  with_reducible (repeat' first | exact answers_next _ | extract_lets | split)

theorem execLoadStart_answers (p0 p1 p2) (s : State) : ∃ t, execLoadStart p0 p1 p2 s = .next t := by
  unfold execLoadStart
  with_reducible (repeat' first | exact answers_next _ | extract_lets | split)

theorem execSlotReadStart_answers (p0 p1) (s : State) : ∃ t, execSlotReadStart p0 p1 s = .next t := by
  unfold execSlotReadStart
  with_reducible (repeat' first | exact answers_next _ | extract_lets | split)

theorem execImageRecordArrival_answers (p0 p1) (s : State) : ∃ t, execImageRecordArrival p0 p1 s = .next t := by
  unfold execImageRecordArrival
  with_reducible (repeat' first | exact answers_next _ | extract_lets | split)

theorem execDramTrainingComplete_answers (p0 p1) (s : State) : ∃ t, execDramTrainingComplete p0 p1 s = .next t := by
  unfold execDramTrainingComplete
  with_reducible (repeat' first | exact answers_next _ | extract_lets | split)

theorem execLastRecordRead_answers (p0) (s : State) : ∃ t, execLastRecordRead p0 s = .next t := by
  unfold execLastRecordRead
  with_reducible (repeat' first | exact answers_next _ | extract_lets | split)

theorem execChecksComplete_answers (p0) (s : State) : ∃ t, execChecksComplete p0 s = .next t := by
  unfold execChecksComplete
  with_reducible (repeat' first | exact answers_next _ | extract_lets | split)

theorem execCommit_answers (p0) (s : State) : ∃ t, execCommit p0 s = .next t := by
  unfold execCommit
  with_reducible (repeat' first | exact answers_next _ | extract_lets | split)

theorem execReload_answers (p0 p1) (s : State) : ∃ t, execReload p0 p1 s = .next t := by
  unfold execReload
  with_reducible (repeat' first | exact answers_next _ | extract_lets | split)

theorem execPrecheckComplete_answers (p0 p1 p2 p3) (s : State) : ∃ t, execPrecheckComplete p0 p1 p2 p3 s = .next t := by
  unfold execPrecheckComplete
  with_reducible (repeat' first | exact answers_next _ | extract_lets | split)

theorem execReloadTeardown_answers (p0) (s : State) : ∃ t, execReloadTeardown p0 s = .next t := by
  unfold execReloadTeardown
  with_reducible (repeat' first | exact answers_next _ | extract_lets | split)

theorem execFuseProgramKeyHash_answers (p0 p1) (s : State) : ∃ t, execFuseProgramKeyHash p0 p1 s = .next t := by
  unfold execFuseProgramKeyHash
  with_reducible (repeat' first | exact answers_next _ | extract_lets | split)

theorem execFuseRaiseSecver_answers (p0 p1) (s : State) : ∃ t, execFuseRaiseSecver p0 p1 s = .next t := by
  unfold execFuseRaiseSecver
  with_reducible (repeat' first | exact answers_next _ | extract_lets | split)

theorem execFuseOpComplete_answers (p0) (s : State) : ∃ t, execFuseOpComplete p0 s = .next t := by
  unfold execFuseOpComplete
  with_reducible (repeat' first | exact answers_next _ | extract_lets | split)

theorem execSiteArm_answers (p0 p1 p2) (s : State) : ∃ t, execSiteArm p0 p1 p2 s = .next t := by
  unfold execSiteArm
  with_reducible (repeat' first | exact answers_next _ | extract_lets | split)

theorem execSiteAbort_answers (p0 p1) (s : State) : ∃ t, execSiteAbort p0 p1 s = .next t := by
  unfold execSiteAbort
  with_reducible (repeat' first | exact answers_next _ | extract_lets | split)

theorem execSiteAck_answers (p0 p1) (s : State) : ∃ t, execSiteAck p0 p1 s = .next t := by
  unfold execSiteAck
  with_reducible (repeat' first | exact answers_next _ | extract_lets | split)

theorem execSiteReset_answers (p0 p1) (s : State) : ∃ t, execSiteReset p0 p1 s = .next t := by
  unfold execSiteReset
  with_reducible (repeat' first | exact answers_next _ | extract_lets | split)

theorem execSiteResetRelease_answers (p0 p1) (s : State) : ∃ t, execSiteResetRelease p0 p1 s = .next t := by
  unfold execSiteResetRelease
  with_reducible (repeat' first | exact answers_next _ | extract_lets | split)

theorem execStaleCheck_answers (p0 p1) (s : State) : ∃ t, execStaleCheck p0 p1 s = .next t := by
  unfold execStaleCheck
  with_reducible (repeat' first | exact answers_next _ | extract_lets | split)

theorem execStartInstant_answers (p0 p1) (s : State) : ∃ t, execStartInstant p0 p1 s = .next t := by
  unfold execStartInstant
  with_reducible (repeat' first | exact answers_next _ | extract_lets | split)

theorem execSliceMissedRelease_answers (p0 p1) (s : State) : ∃ t, execSliceMissedRelease p0 p1 s = .next t := by
  unfold execSliceMissedRelease
  with_reducible (repeat' first | exact answers_next _ | extract_lets | split)

theorem execStoppingComplete_answers (p0 p1) (s : State) : ∃ t, execStoppingComplete p0 p1 s = .next t := by
  unfold execStoppingComplete
  with_reducible (repeat' first | exact answers_next _ | extract_lets | split)

theorem execJoinSend_answers (p0 p1) (s : State) : ∃ t, execJoinSend p0 p1 s = .next t := by
  unfold execJoinSend
  with_reducible (repeat' first | exact answers_next _ | extract_lets | split)

theorem execVectorNext_answers (p0 p1 p2) (s : State) : ∃ t, execVectorNext p0 p1 s p2 = .next t := by
  unfold execVectorNext
  with_reducible (repeat' first | exact answers_next _ | extract_lets | split)

theorem execVectorRepeat_answers (p0 p1 p2) (s : State) : ∃ t, execVectorRepeat p0 p1 s p2 = .next t := by
  unfold execVectorRepeat
  with_reducible (repeat' first | exact answers_next _ | extract_lets | split)

theorem execLoopBegin_answers (p0 p1 p2) (s : State) : ∃ t, execLoopBegin p0 p1 s p2 = .next t := by
  unfold execLoopBegin
  with_reducible (repeat' first | exact answers_next _ | extract_lets | split)

theorem execLoopEnd_answers (p0 p1 p2) (s : State) : ∃ t, execLoopEnd p0 p1 s p2 = .next t := by
  unfold execLoopEnd
  with_reducible (repeat' first | exact answers_next _ | extract_lets | split)

theorem execMatchPass_answers (p0 p1 p2) (s : State) : ∃ t, execMatchPass p0 p1 s p2 = .next t := by
  unfold execMatchPass
  with_reducible (repeat' first | exact answers_next _ | extract_lets | split)

theorem execAltVector_answers (p0 p1 p2) (s : State) : ∃ t, execAltVector p0 p1 s p2 = .next t := by
  unfold execAltVector
  with_reducible (repeat' first | exact answers_next _ | extract_lets | split)

theorem execEndVector_answers (p0 p1 p2) (s : State) : ∃ t, execEndVector p0 p1 s p2 = .next t := by
  unfold execEndVector
  with_reducible (repeat' first | exact answers_next _ | extract_lets | split)

theorem execCode7_answers (p0 p1 p2) (s : State) : ∃ t, execCode7 p0 p1 s p2 = .next t := by
  unfold execCode7
  with_reducible (repeat' first | exact answers_next _ | extract_lets | split)

theorem execGranuleCheckPoint_answers (p0 p1) (s : State) : ∃ t, execGranuleCheckPoint p0 p1 s = .next t := by
  unfold execGranuleCheckPoint
  with_reducible (repeat' first | exact answers_next _ | extract_lets | split)

theorem execHoldRelease_answers (p0 p1) (s : State) : ∃ t, execHoldRelease p0 p1 s = .next t := by
  unfold execHoldRelease
  with_reducible (repeat' first | exact answers_next _ | extract_lets | split)

theorem execRefillGranuleComplete_answers (p0 p1 p2 p3 p4) (s : State) : ∃ t, execRefillGranuleComplete p0 p1 p2 p3 p4 s = .next t := by
  unfold execRefillGranuleComplete
  with_reducible (repeat' first | exact answers_next _ | extract_lets | split)

theorem execSliceReadyReport_answers (p0 p1) (s : State) : ∃ t, execSliceReadyReport p0 p1 s = .next t := by
  unfold execSliceReadyReport
  with_reducible (repeat' first | exact answers_next _ | extract_lets | split)

theorem execResumeRelease_answers (p0 p1) (s : State) : ∃ t, execResumeRelease p0 p1 s = .next t := by
  unfold execResumeRelease
  with_reducible (repeat' first | exact answers_next _ | extract_lets | split)

theorem execSegmentAdmission_answers (p0 p1 p2 p3) (s : State) : ∃ t, execSegmentAdmission p0 p1 p2 p3 s = .next t := by
  unfold execSegmentAdmission
  with_reducible (repeat' first | exact answers_next _ | extract_lets | split)

theorem execQueueEntryRelease_answers (p0 p1) (s : State) : ∃ t, execQueueEntryRelease p0 p1 s = .next t := by
  unfold execQueueEntryRelease
  with_reducible (repeat' first | exact answers_next _ | extract_lets | split)

theorem execEventJumpRequest_answers (p0 p1) (s : State) : ∃ t, execEventJumpRequest p0 p1 s = .next t := by
  unfold execEventJumpRequest
  with_reducible (repeat' first | exact answers_next _ | extract_lets | split)

theorem execJumpHonoured_answers (p0 p1) (s : State) : ∃ t, execJumpHonoured p0 p1 s = .next t := by
  unfold execJumpHonoured
  extract_lets s x is
  clear_value is
  with_reducible (repeat' first | exact answers_next _ | extract_lets | split)

theorem execCtrlCrcReport_answers (p0 p1) (s : State) : ∃ t, execCtrlCrcReport p0 p1 s = .next t := by
  unfold execCtrlCrcReport
  with_reducible (repeat' first | exact answers_next _ | extract_lets | split)

theorem execSlpJumpCfgWrite_answers (p0 p1 p2) (s : State) : ∃ t, execSlpJumpCfgWrite p0 p1 p2 s = .next t := by
  unfold execSlpJumpCfgWrite
  with_reducible (repeat' first | exact answers_next _ | extract_lets | split)

theorem execSlpLooppreWrite_answers (p0 p1 p2 p3) (s : State) : ∃ t, execSlpLooppreWrite p0 p1 p2 p3 s = .next t := by
  unfold execSlpLooppreWrite
  with_reducible (repeat' first | exact answers_next _ | extract_lets | split)

theorem execSlpMatchTmoWrite_answers (p0 p1 p2) (s : State) : ∃ t, execSlpMatchTmoWrite p0 p1 p2 s = .next t := by
  unfold execSlpMatchTmoWrite
  with_reducible (repeat' first | exact answers_next _ | extract_lets | split)

theorem execWaveformRead_answers (p0 p1) (s : State) : ∃ t, execWaveformRead p0 p1 s = .next t := by
  unfold execWaveformRead
  with_reducible (repeat' first | exact answers_next _ | extract_lets | split)

theorem execWaveformWrite_answers (p0 p1) (s : State) : ∃ t, execWaveformWrite p0 p1 s = .next t := by
  unfold execWaveformWrite
  with_reducible (repeat' first | exact answers_next _ | extract_lets | split)

theorem execWaveformAccessComplete_answers (p0 p1 p2 p3 p4) (s : State) : ∃ t, execWaveformAccessComplete p0 p1 p2 s p3 p4 = .next t := by
  unfold execWaveformAccessComplete
  with_reducible (repeat' first | exact answers_next _ | extract_lets | split)

theorem execWodPeriodWrite_answers (p0 p1 p2 p3) (s : State) : ∃ t, execWodPeriodWrite p0 p1 p2 p3 s = .next t := by
  unfold execWodPeriodWrite
  with_reducible (repeat' first | exact answers_next _ | extract_lets | split)

theorem execWodSliceTsWrite_answers (p0 p1 p2) (s : State) : ∃ t, execWodSliceTsWrite p0 p1 p2 s = .next t := by
  unfold execWodSliceTsWrite
  with_reducible (repeat' first | exact answers_next _ | extract_lets | split)

theorem execWodChCfgWrite_answers (p0 p1 p2) (s : State) : ∃ t, execWodChCfgWrite p0 p1 p2 s = .next t := by
  unfold execWodChCfgWrite
  with_reducible (repeat' first | exact answers_next _ | extract_lets | split)

theorem execDriveEvent_answers (p0 p1) (s : State) : ∃ t, execDriveEvent p0 p1 s = .next t := by
  unfold execDriveEvent
  with_reducible (repeat' first | exact answers_next _ | extract_lets | split)

theorem execStrobe_answers (p0 p1 p2) (s : State) : ∃ t, execStrobe p0 p1 p2 s = .next t := by
  unfold execStrobe
  with_reducible (repeat' first | exact answers_next _ | extract_lets | split)

theorem execWindowEnd_answers (p0 p1 p2 p3 p4) (s : State) : ∃ t, execWindowEnd p0 p1 p2 p3 p4 s = .next t := by
  unfold execWindowEnd
  with_reducible (repeat' first | exact answers_next _ | extract_lets | split)

theorem execTimingSetRelease_answers (p0 p1) (s : State) : ∃ t, execTimingSetRelease p0 p1 s = .next t := by
  unfold execTimingSetRelease
  with_reducible (repeat' first | exact answers_next _ | extract_lets | split)

theorem execComparatorSettingWrite_answers (p0 p1 p2 p3) (s : State) : ∃ t, execComparatorSettingWrite p0 p1 p2 p3 s = .next t := by
  unfold execComparatorSettingWrite
  with_reducible (repeat' first | exact answers_next _ | extract_lets | split)

theorem execSettlingEnd_answers (p0 p1 p2) (s : State) : ∃ t, execSettlingEnd p0 p1 p2 s = .next t := by
  unfold execSettlingEnd
  with_reducible (repeat' first | exact answers_next _ | extract_lets | split)

theorem execSepCmpChMaskWrite_answers (p0 p1 p2) (s : State) : ∃ t, execSepCmpChMaskWrite p0 p1 p2 s = .next t := by
  unfold execSepCmpChMaskWrite
  with_reducible (repeat' first | exact answers_next _ | extract_lets | split)

theorem execGranuleCountsAdd_answers (p0 p1) (s : State) : ∃ t, execGranuleCountsAdd p0 p1 s = .next t := by
  unfold execGranuleCountsAdd
  with_reducible (repeat' first | exact answers_next _ | extract_lets | split)

theorem execFailRecordArrival_answers (p0 p1 p2) (s : State) : ∃ t, execFailRecordArrival p0 p1 p2 s = .next t := by
  unfold execFailRecordArrival
  with_reducible (repeat' first | exact answers_next _ | extract_lets | split)

theorem execStopDecision_answers (p0 p1) (s : State) : ∃ t, execStopDecision p0 p1 s = .next t := by
  unfold execStopDecision
  with_reducible (repeat' first | exact answers_next _ | extract_lets | split)

theorem execStopRelease_answers (p0 p1) (s : State) : ∃ t, execStopRelease p0 p1 s = .next t := by
  unfold execStopRelease
  with_reducible (repeat' first | exact answers_next _ | extract_lets | split)

theorem execCaptureRingRdWrite_answers (p0 p1 p2) (s : State) : ∃ t, execCaptureRingRdWrite p0 p1 p2 s = .next t := by
  unfold execCaptureRingRdWrite
  with_reducible (repeat' first | exact answers_next _ | extract_lets | split)

theorem execStepWordFetch_answers (p0 p1 p2) (s : State) : ∃ t, execStepWordFetch p0 p1 p2 s = .next t := by
  unfold execStepWordFetch
  with_reducible (repeat' first | exact answers_next _ | extract_lets | split)

theorem execStepBoundarySample_answers (p0 p1 p2) (s : State) : ∃ t, execStepBoundarySample p0 p1 s p2 = .next t := by
  unfold execStepBoundarySample
  with_reducible (repeat' first | exact answers_next _ | extract_lets | split)

theorem execNop_answers (p0 p1) (s : State) : ∃ t, execNop p0 p1 s = .next t := by
  unfold execNop
  with_reducible (repeat' first | exact answers_next _ | extract_lets | split)

theorem execPlay_answers (p0 p1) (s : State) : ∃ t, execPlay p0 p1 s = .next t := by
  unfold execPlay
  with_reducible (repeat' first | exact answers_next _ | extract_lets | split)

theorem execJseg_answers (p0 p1) (s : State) : ∃ t, execJseg p0 p1 s = .next t := by
  unfold execJseg
  with_reducible (repeat' first | exact answers_next _ | extract_lets | split)

theorem execTset_answers (p0 p1) (s : State) : ∃ t, execTset p0 p1 s = .next t := by
  unfold execTset
  with_reducible (repeat' first | exact answers_next _ | extract_lets | split)

theorem execAcq_answers (p0 p1) (s : State) : ∃ t, execAcq p0 p1 s = .next t := by
  unfold execAcq
  with_reducible (repeat' first | exact answers_next _ | extract_lets | split)

theorem execMeas_answers (p0 p1) (s : State) : ∃ t, execMeas p0 p1 s = .next t := by
  unfold execMeas
  with_reducible (repeat' first | exact answers_next _ | extract_lets | split)

theorem execMget_answers (p0 p1) (s : State) : ∃ t, execMget p0 p1 s = .next t := by
  unfold execMget
  with_reducible (repeat' first | exact answers_next _ | extract_lets | split)

theorem execWaitev_answers (p0 p1) (s : State) : ∃ t, execWaitev p0 p1 s = .next t := by
  unfold execWaitev
  with_reducible (repeat' first | exact answers_next _ | extract_lets | split)

theorem execWaitdt_answers (p0 p1) (s : State) : ∃ t, execWaitdt p0 p1 s = .next t := by
  unfold execWaitdt
  with_reducible (repeat' first | exact answers_next _ | extract_lets | split)

theorem execDrain_answers (p0 p1) (s : State) : ∃ t, execDrain p0 p1 s = .next t := by
  unfold execDrain
  with_reducible (repeat' first | exact answers_next _ | extract_lets | split)

theorem execSync_answers (p0 p1) (s : State) : ∃ t, execSync p0 p1 s = .next t := by
  unfold execSync
  with_reducible (repeat' first | exact answers_next _ | extract_lets | split)

theorem execTrimok_answers (p0 p1) (s : State) : ∃ t, execTrimok p0 p1 s = .next t := by
  unfold execTrimok
  with_reducible (repeat' first | exact answers_next _ | extract_lets | split)

theorem execJmp_answers (p0 p1) (s : State) : ∃ t, execJmp p0 p1 s = .next t := by
  unfold execJmp
  with_reducible (repeat' first | exact answers_next _ | extract_lets | split)

theorem execCall_answers (p0 p1) (s : State) : ∃ t, execCall p0 p1 s = .next t := by
  unfold execCall
  with_reducible (repeat' first | exact answers_next _ | extract_lets | split)

theorem execRet_answers (p0 p1) (s : State) : ∃ t, execRet p0 p1 s = .next t := by
  unfold execRet
  with_reducible (repeat' first | exact answers_next _ | extract_lets | split)

theorem execDbnz_answers (p0 p1) (s : State) : ∃ t, execDbnz p0 p1 s = .next t := by
  unfold execDbnz
  with_reducible (repeat' first | exact answers_next _ | extract_lets | split)

theorem execLdi_answers (p0 p1) (s : State) : ∃ t, execLdi p0 p1 s = .next t := by
  unfold execLdi
  with_reducible (repeat' first | exact answers_next _ | extract_lets | split)

theorem execAddi_answers (p0 p1) (s : State) : ∃ t, execAddi p0 p1 s = .next t := by
  unfold execAddi
  with_reducible (repeat' first | exact answers_next _ | extract_lets | split)

theorem execAdd_answers (p0 p1) (s : State) : ∃ t, execAdd p0 p1 s = .next t := by
  unfold execAdd
  with_reducible (repeat' first | exact answers_next _ | extract_lets | split)

theorem execSub_answers (p0 p1) (s : State) : ∃ t, execSub p0 p1 s = .next t := by
  unfold execSub
  with_reducible (repeat' first | exact answers_next _ | extract_lets | split)

theorem execMov_answers (p0 p1) (s : State) : ∃ t, execMov p0 p1 s = .next t := by
  unfold execMov
  with_reducible (repeat' first | exact answers_next _ | extract_lets | split)

theorem execGet_answers (p0 p1) (s : State) : ∃ t, execGet p0 p1 s = .next t := by
  unfold execGet
  with_reducible (repeat' first | exact answers_next _ | extract_lets | split)

theorem execCmpi_answers (p0 p1) (s : State) : ∃ t, execCmpi p0 p1 s = .next t := by
  unfold execCmpi
  with_reducible (repeat' first | exact answers_next _ | extract_lets | split)

theorem execCmp_answers (p0 p1) (s : State) : ∃ t, execCmp p0 p1 s = .next t := by
  unfold execCmp
  with_reducible (repeat' first | exact answers_next _ | extract_lets | split)

theorem execBin_answers (p0 p1) (s : State) : ∃ t, execBin p0 p1 s = .next t := by
  unfold execBin
  with_reducible (repeat' first | exact answers_next _ | extract_lets | split)

theorem execDlog_answers (p0 p1) (s : State) : ∃ t, execDlog p0 p1 s = .next t := by
  unfold execDlog
  with_reducible (repeat' first | exact answers_next _ | extract_lets | split)

theorem execBustx_answers (p0 p1) (s : State) : ∃ t, execBustx p0 p1 s = .next t := by
  unfold execBustx
  with_reducible (repeat' first | exact answers_next _ | extract_lets | split)

theorem execReq_answers (p0 p1) (s : State) : ∃ t, execReq p0 p1 s = .next t := by
  unfold execReq
  with_reducible (repeat' first | exact answers_next _ | extract_lets | split)

theorem execStop_answers (p0 p1) (s : State) : ∃ t, execStop p0 p1 s = .next t := by
  unfold execStop
  with_reducible (repeat' first | exact answers_next _ | extract_lets | split)

theorem execEventLatch_answers (p0 p1 p2) (s : State) : ∃ t, execEventLatch p0 p1 p2 s = .next t := by
  unfold execEventLatch
  with_reducible (repeat' first | exact answers_next _ | extract_lets | split)

theorem execWaitTimeout_answers (p0 p1) (s : State) : ∃ t, execWaitTimeout p0 p1 s = .next t := by
  unfold execWaitTimeout
  with_reducible (repeat' first | exact answers_next _ | extract_lets | split)

theorem execServiceResult_answers (p0 p1) (s : State) : ∃ t, execServiceResult p0 p1 s = .next t := by
  unfold execServiceResult
  with_reducible (repeat' first | exact answers_next _ | extract_lets | split)

theorem execSyncRelease_answers (p0 p1) (s : State) : ∃ t, execSyncRelease p0 p1 s = .next t := by
  unfold execSyncRelease
  with_reducible (repeat' first | exact answers_next _ | extract_lets | split)

theorem execTrapFiring_answers (p0 p1) (s : State) : ∃ t, execTrapFiring p0 p1 s = .next t := by
  unfold execTrapFiring
  with_reducible (repeat' first | exact answers_next _ | extract_lets | split)

theorem execTrimWindowClose_answers (p0 p1) (s : State) : ∃ t, execTrimWindowClose p0 p1 s = .next t := by
  unfold execTrimWindowClose
  with_reducible (repeat' first | exact answers_next _ | extract_lets | split)

theorem execSliceEndReport_answers (p0 p1) (s : State) : ∃ t, execSliceEndReport p0 p1 s = .next t := by
  unfold execSliceEndReport
  with_reducible (repeat' first | exact answers_next _ | extract_lets | split)

theorem execSyncMemberWrite_answers (p0 p1 p2 p3) (s : State) : ∃ t, execSyncMemberWrite p0 p1 p2 p3 s = .next t := by
  unfold execSyncMemberWrite
  with_reducible (repeat' first | exact answers_next _ | extract_lets | split)

theorem execStepMissedRelease_answers (p0 p1) (s : State) : ∃ t, execStepMissedRelease p0 p1 s = .next t := by
  unfold execStepMissedRelease
  with_reducible (repeat' first | exact answers_next _ | extract_lets | split)

theorem execAcqArmCommand_answers (p0 p1) (s : State) : ∃ t, execAcqArmCommand p0 p1 s = .next t := by
  unfold execAcqArmCommand
  with_reducible (repeat' first | exact answers_next _ | extract_lets | split)

theorem execAcqDisarmCommand_answers (p0 p1) (s : State) : ∃ t, execAcqDisarmCommand p0 p1 s = .next t := by
  unfold execAcqDisarmCommand
  with_reducible (repeat' first | exact answers_next _ | extract_lets | split)

theorem execAcqForce_answers (p0 p1) (s : State) : ∃ t, execAcqForce p0 p1 s = .next t := by
  unfold execAcqForce
  with_reducible (repeat' first | exact answers_next _ | extract_lets | split)

theorem execAcqEventArm_answers (p0 p1 p2) (s : State) : ∃ t, execAcqEventArm p0 p1 p2 s = .next t := by
  unfold execAcqEventArm
  with_reducible (repeat' first | exact answers_next _ | extract_lets | split)

theorem execAcqArmDt_answers (p0 p1 p2) (s : State) : ∃ t, execAcqArmDt p0 p1 p2 s = .next t := by
  unfold execAcqArmDt
  with_reducible (repeat' first | exact answers_next _ | extract_lets | split)

theorem execSequenceOccurrence_answers (p0 p1 p2) (s : State) : ∃ t, execSequenceOccurrence p0 p1 p2 s = .next t := by
  unfold execSequenceOccurrence
  with_reducible (repeat' first | exact answers_next _ | extract_lets | split)

theorem execSequenceTimer_answers (p0 p1) (s : State) : ∃ t, execSequenceTimer p0 p1 s = .next t := by
  unfold execSequenceTimer
  with_reducible (repeat' first | exact answers_next _ | extract_lets | split)

theorem execPrivilegedTriggerEval_answers (p0 p1 p2 p3) (s : State) : ∃ t, execPrivilegedTriggerEval p0 p1 p2 p3 s = .next t := by
  unfold execPrivilegedTriggerEval
  with_reducible (repeat' first | exact answers_next _ | extract_lets | split)

theorem execAcqAutoTimeout_answers (p0 p1) (s : State) : ∃ t, execAcqAutoTimeout p0 p1 s = .next t := by
  unfold execAcqAutoTimeout
  with_reducible (repeat' first | exact answers_next _ | extract_lets | split)

theorem execHistorySample_answers (p0 p1 p2) (s : State) : ∃ t, execHistorySample p0 p1 p2 s = .next t := by
  unfold execHistorySample
  with_reducible (repeat' first | exact answers_next _ | extract_lets | split)

theorem execPostTriggerComplete_answers (p0 p1) (s : State) : ∃ t, execPostTriggerComplete p0 p1 s = .next t := by
  unfold execPostTriggerComplete
  with_reducible (repeat' first | exact answers_next _ | extract_lets | split)

theorem execAcqRecordArrival_answers (p0 p1 p2) (s : State) : ∃ t, execAcqRecordArrival p0 p1 p2 s = .next t := by
  unfold execAcqRecordArrival
  with_reducible (repeat' first | exact answers_next _ | extract_lets | split)

theorem execSepAcqChCfgWrite_answers (p0 p1 p2) (s : State) : ∃ t, execSepAcqChCfgWrite p0 p1 p2 s = .next t := by
  unfold execSepAcqChCfgWrite
  with_reducible (repeat' first | exact answers_next _ | extract_lets | split)

theorem execAcqRingRdWrite_answers (p0 p1 p2) (s : State) : ∃ t, execAcqRingRdWrite p0 p1 p2 s = .next t := by
  unfold execAcqRingRdWrite
  with_reducible (repeat' first | exact answers_next _ | extract_lets | split)

theorem execTiaStart_answers (p0 p1) (s : State) : ∃ t, execTiaStart p0 p1 s = .next t := by
  unfold execTiaStart
  with_reducible (repeat' first | exact answers_next _ | extract_lets | split)

theorem execTiaEnd_answers (p0 p1) (s : State) : ∃ t, execTiaEnd p0 p1 s = .next t := by
  unfold execTiaEnd
  with_reducible (repeat' first | exact answers_next _ | extract_lets | split)

theorem execMeasStartDt_answers (p0 p1 p2) (s : State) : ∃ t, execMeasStartDt p0 p1 p2 s = .next t := by
  unfold execMeasStartDt
  with_reducible (repeat' first | exact answers_next _ | extract_lets | split)

theorem execMeasSample_answers (p0 p1 p2 p3 p4 p5) (s : State) : ∃ t, execMeasSample p0 p1 p2 p3 p4 p5 s = .next t := by
  unfold execMeasSample
  with_reducible (repeat' first | exact answers_next _ | extract_lets | split)

theorem execMeasWindowExpiry_answers (p0 p1 p2) (s : State) : ∃ t, execMeasWindowExpiry p0 p1 p2 s = .next t := by
  unfold execMeasWindowExpiry
  with_reducible (repeat' first | exact answers_next _ | extract_lets | split)

theorem execGateClose_answers (p0 p1 p2 p3 p4 p5) (s : State) : ∃ t, execGateClose p0 p1 p2 p3 p4 p5 s = .next t := by
  unfold execGateClose
  with_reducible (repeat' first | exact answers_next _ | extract_lets | split)

theorem execMeasDone_answers (p0 p1) (s : State) : ∃ t, execMeasDone p0 p1 s = .next t := by
  unfold execMeasDone
  with_reducible (repeat' first | exact answers_next _ | extract_lets | split)

theorem execDtWrap_answers (p0) (s : State) : ∃ t, execDtWrap p0 s = .next t := by
  unfold execDtWrap
  with_reducible (repeat' first | exact answers_next _ | extract_lets | split)

theorem execUmbDtRead_answers (p0 p1) (s : State) : ∃ t, execUmbDtRead p0 p1 s = .next t := by
  unfold execUmbDtRead
  with_reducible (repeat' first | exact answers_next _ | extract_lets | split)

theorem execReferenceLock_answers (p0 p1) (s : State) : ∃ t, execReferenceLock p0 s p1 = .next t := by
  unfold execReferenceLock
  with_reducible (repeat' first | exact answers_next _ | extract_lets | split)

theorem execReferenceLoss_answers (p0 p1 p2) (s : State) : ∃ t, execReferenceLoss p0 s p1 p2 = .next t := by
  unfold execReferenceLoss
  with_reducible (repeat' first | exact answers_next _ | extract_lets | split)

theorem execXtalFail_answers (p0) (s : State) : ∃ t, execXtalFail p0 s = .next t := by
  unfold execXtalFail
  with_reducible (repeat' first | exact answers_next _ | extract_lets | split)

theorem execPpsInEdge_answers (p0) (s : State) : ∃ t, execPpsInEdge p0 s = .next t := by
  unfold execPpsInEdge
  with_reducible (repeat' first | exact answers_next _ | extract_lets | split)

theorem execPpsOutRise_answers (p0) (s : State) : ∃ t, execPpsOutRise p0 s = .next t := by
  unfold execPpsOutRise
  with_reducible (repeat' first | exact answers_next _ | extract_lets | split)

theorem execTrimStepEnd_answers (p0 p1 p2 p3 p4 p5) (s : State) : ∃ t, execTrimStepEnd p0 p1 p2 p3 p4 p5 s = .next t := by
  unfold execTrimStepEnd
  with_reducible (repeat' first | exact answers_next _ | extract_lets | split)

theorem execTrimCommit_answers (p0 p1) (s : State) : ∃ t, execTrimCommit p0 p1 s = .next t := by
  unfold execTrimCommit
  with_reducible (repeat' first | exact answers_next _ | extract_lets | split)

theorem execTrimCommitMissed_answers (p0 p1) (s : State) : ∃ t, execTrimCommitMissed p0 p1 s = .next t := by
  unfold execTrimCommitMissed
  with_reducible (repeat' first | exact answers_next _ | extract_lets | split)

theorem execChannelReturn_answers (p0 p1) (s : State) : ∃ t, execChannelReturn p0 p1 s = .next t := by
  unfold execChannelReturn
  with_reducible (repeat' first | exact answers_next _ | extract_lets | split)

theorem execSyncPulse_answers (p0) (s : State) : ∃ t, execSyncPulse p0 s = .next t := by
  unfold execSyncPulse
  with_reducible (repeat' first | exact answers_next _ | extract_lets | split)

theorem execSyncPulseReturn_answers (p0 p1 p2) (s : State) : ∃ t, execSyncPulseReturn p0 p1 p2 s = .next t := by
  unfold execSyncPulseReturn
  with_reducible (repeat' first | exact answers_next _ | extract_lets | split)

theorem execTskewLost_answers (p0 p1) (s : State) : ∃ t, execTskewLost p0 p1 s = .next t := by
  unfold execTskewLost
  with_reducible (repeat' first | exact answers_next _ | extract_lets | split)

theorem execQualityAgeChange_answers (p0 p1) (s : State) : ∃ t, execQualityAgeChange p0 p1 s = .next t := by
  unfold execQualityAgeChange
  with_reducible (repeat' first | exact answers_next _ | extract_lets | split)

theorem execReflectionRequest_answers (p0 p1) (s : State) : ∃ t, execReflectionRequest p0 p1 s = .next t := by
  unfold execReflectionRequest
  with_reducible (repeat' first | exact answers_next _ | extract_lets | split)

theorem execReflectionStep_answers (p0 p1 p2 p3 p4) (s : State) : ∃ t, execReflectionStep p0 p1 p2 p3 p4 s = .next t := by
  unfold execReflectionStep
  with_reducible (repeat' first | exact answers_next _ | extract_lets | split)

theorem execReflectionEnd_answers (p0 p1) (s : State) : ∃ t, execReflectionEnd p0 p1 s = .next t := by
  unfold execReflectionEnd
  with_reducible (repeat' first | exact answers_next _ | extract_lets | split)

theorem execTileLinkUp_answers (p0 p1) (s : State) : ∃ t, execTileLinkUp p0 p1 s = .next t := by
  unfold execTileLinkUp
  with_reducible (repeat' first | exact answers_next _ | extract_lets | split)

theorem execFrameArrival_answers (p0 p1 p2 p3) (s : State) : ∃ t, execFrameArrival p0 p1 p2 p3 s = .next t := by
  unfold execFrameArrival
  with_reducible (repeat' first | exact answers_next _ | extract_lets | split)

theorem execAck_answers (p0 p1 p2) (s : State) : ∃ t, execAck p0 p1 p2 s = .next t := by
  unfold execAck
  with_reducible (repeat' first | exact answers_next _ | extract_lets | split)

theorem execTileReplayTimeout_answers (p0 p1 p2) (s : State) : ∃ t, execTileReplayTimeout p0 p1 p2 s = .next t := by
  unfold execTileReplayTimeout
  with_reducible (repeat' first | exact answers_next _ | extract_lets | split)

theorem execTileLinkDown_answers (p0 p1) (s : State) : ∃ t, execTileLinkDown p0 p1 s = .next t := by
  unfold execTileLinkDown
  with_reducible (repeat' first | exact answers_next _ | extract_lets | split)

theorem execPortStart_answers (p0 p1) (s : State) : ∃ t, execPortStart p0 p1 s = .next t := by
  unfold execPortStart
  with_reducible (repeat' first | exact answers_next _ | extract_lets | split)

theorem execCap_answers (p0 p1 p2 p3) (s : State) : ∃ t, execCap p0 p1 p2 p3 s = .next t := by
  unfold execCap
  with_reducible (repeat' first | exact answers_next _ | extract_lets | split)

theorem execPortRetry_answers (p0 p1) (s : State) : ∃ t, execPortRetry p0 p1 s = .next t := by
  unfold execPortRetry
  with_reducible (repeat' first | exact answers_next _ | extract_lets | split)

theorem execRate_answers (p0 p1 p2 p3) (s : State) : ∃ t, execRate p0 p1 p2 p3 s = .next t := by
  unfold execRate
  with_reducible (repeat' first | exact answers_next _ | extract_lets | split)

theorem execRateSwitch_answers (p0 p1) (s : State) : ∃ t, execRateSwitch p0 p1 s = .next t := by
  unfold execRateSwitch
  with_reducible (repeat' first | exact answers_next _ | extract_lets | split)

theorem execRateStepEnd_answers (p0 p1 p2) (s : State) : ∃ t, execRateStepEnd p0 p1 p2 s = .next t := by
  unfold execRateStepEnd
  with_reducible (repeat' first | exact answers_next _ | extract_lets | split)

theorem execPortReplayTimeout_answers (p0 p1 p2) (s : State) : ∃ t, execPortReplayTimeout p0 p1 p2 s = .next t := by
  unfold execPortReplayTimeout
  with_reducible (repeat' first | exact answers_next _ | extract_lets | split)

theorem execPortDown_answers (p0 p1) (s : State) : ∃ t, execPortDown p0 p1 s = .next t := by
  unfold execPortDown
  with_reducible (repeat' first | exact answers_next _ | extract_lets | split)

theorem execPortRetrain_answers (p0 p1) (s : State) : ∃ t, execPortRetrain p0 p1 s = .next t := by
  unfold execPortRetrain
  with_reducible (repeat' first | exact answers_next _ | extract_lets | split)

theorem execPortDisable_answers (p0 p1) (s : State) : ∃ t, execPortDisable p0 p1 s = .next t := by
  unfold execPortDisable
  with_reducible (repeat' first | exact answers_next _ | extract_lets | split)

theorem execTimeExchangeStart_answers (p0 p1 p2) (s : State) : ∃ t, execTimeExchangeStart p0 p1 p2 s = .next t := by
  unfold execTimeExchangeStart
  with_reducible (repeat' first | exact answers_next _ | extract_lets | split)

theorem execTsync_answers (p0 p1 p2 p3 p4 p5 p6) (s : State) : ∃ t, execTsync p0 p1 p2 p3 p4 p5 p6 s = .next t := by
  unfold execTsync
  with_reducible (repeat' first | exact answers_next _ | extract_lets | split)

theorem execTreq_answers (p0 p1 p2 p3 p4) (s : State) : ∃ t, execTreq p0 p1 p2 p3 p4 s = .next t := by
  unfold execTreq
  with_reducible (repeat' first | exact answers_next _ | extract_lets | split)

theorem execTresp_answers (p0 p1 p2 p3) (s : State) : ∃ t, execTresp p0 p1 p2 p3 s = .next t := by
  unfold execTresp
  with_reducible (repeat' first | exact answers_next _ | extract_lets | split)

theorem execTinfo_answers (p0 p1 p2 p3) (s : State) : ∃ t, execTinfo p0 p1 p2 p3 s = .next t := by
  unfold execTinfo
  with_reducible (repeat' first | exact answers_next _ | extract_lets | split)

theorem execUpstreamLoss_answers (p0) (s : State) : ∃ t, execUpstreamLoss p0 s = .next t := by
  unfold execUpstreamLoss
  with_reducible (repeat' first | exact answers_next _ | extract_lets | split)

theorem execEvbc_answers (p0 p1 p2) (s : State) : ∃ t, execEvbc p0 p1 p2 s = .next t := by
  unfold execEvbc
  with_reducible (repeat' first | exact answers_next _ | extract_lets | split)

theorem execBroadcastRelease_answers (p0 p1) (s : State) : ∃ t, execBroadcastRelease p0 p1 s = .next t := by
  unfold execBroadcastRelease
  with_reducible (repeat' first | exact answers_next _ | extract_lets | split)

theorem execTokenJoin_answers (p0 p1 p2 p3 p4) (s : State) : ∃ t, execTokenJoin p0 p1 p2 p3 s p4 = .next t := by
  unfold execTokenJoin
  with_reducible (repeat' first | exact answers_next _ | extract_lets | split)

theorem execTokenJoinres_answers (p0 p1 p2 p3 p4) (s : State) : ∃ t, execTokenJoinres p0 p1 p2 p3 p4 s = .next t := by
  unfold execTokenJoinres
  with_reducible (repeat' first | exact answers_next _ | extract_lets | split)

theorem execTokenEntry_answers (p0 p1 p2 p3 p4 p5 p6) (s : State) : ∃ t, execTokenEntry p0 p1 p2 p3 p4 p5 p6 s = .next t := by
  unfold execTokenEntry
  with_reducible (repeat' first | exact answers_next _ | extract_lets | split)

theorem execTokenStart_answers (p0 p1 p2 p3 p4) (s : State) : ∃ t, execTokenStart p0 p1 p2 p3 p4 s = .next t := by
  unfold execTokenStart
  with_reducible (repeat' first | exact answers_next _ | extract_lets | split)

theorem execTokenHold_answers (p0 p1 p2 p3 p4) (s : State) : ∃ t, execTokenHold p0 p1 p2 p3 p4 s = .next t := by
  unfold execTokenHold
  with_reducible (repeat' first | exact answers_next _ | extract_lets | split)

theorem execTokenReady_answers (p0 p1 p2 p3 p4 p5) (s : State) : ∃ t, execTokenReady p0 p1 p2 p3 p4 p5 s = .next t := by
  unfold execTokenReady
  with_reducible (repeat' first | exact answers_next _ | extract_lets | split)

theorem execTokenResume_answers (p0 p1 p2 p3 p4) (s : State) : ∃ t, execTokenResume p0 p1 p2 p3 p4 s = .next t := by
  unfold execTokenResume
  with_reducible (repeat' first | exact answers_next _ | extract_lets | split)

theorem execTokenJump_answers (p0 p1 p2 p3 p4 p5) (s : State) : ∃ t, execTokenJump p0 p1 p2 p3 p4 p5 s = .next t := by
  unfold execTokenJump
  with_reducible (repeat' first | exact answers_next _ | extract_lets | split)

theorem execTokenStop_answers (p0 p1 p2 p3 p4) (s : State) : ∃ t, execTokenStop p0 p1 p2 p3 p4 s = .next t := by
  unfold execTokenStop
  with_reducible (repeat' first | exact answers_next _ | extract_lets | split)

theorem execTokenTset_answers (p0 p1 p2 p3 p4 p5 p6) (s : State) : ∃ t, execTokenTset p0 p1 p2 p3 p4 p5 p6 s = .next t := by
  unfold execTokenTset
  with_reducible (repeat' first | exact answers_next _ | extract_lets | split)

theorem execTokenState_answers (p0 p1 p2 p3 p4 p5) (s : State) : ∃ t, execTokenState p0 p1 p2 p3 p4 p5 s = .next t := by
  unfold execTokenState
  with_reducible (repeat' first | exact answers_next _ | extract_lets | split)

theorem execTokenReset_answers (p0 p1 p2 p3 p4) (s : State) : ∃ t, execTokenReset p0 p1 p2 p3 p4 s = .next t := by
  unfold execTokenReset
  with_reducible (repeat' first | exact answers_next _ | extract_lets | split)

theorem execTokenTrim_answers (p0 p1 p2 p3 p4 p5) (s : State) : ∃ t, execTokenTrim p0 p1 p2 p3 p4 p5 s = .next t := by
  unfold execTokenTrim
  with_reducible (repeat' first | exact answers_next _ | extract_lets | split)

theorem execTokenCounts_answers (p0 p1 p2 p3 p4) (s : State) : ∃ t, execTokenCounts p0 p1 p2 p3 p4 s = .next t := by
  unfold execTokenCounts
  with_reducible (repeat' first | exact answers_next _ | extract_lets | split)

theorem execTokenCcrc_answers (p0 p1 p2 p3 p4 p5) (s : State) : ∃ t, execTokenCcrc p0 p1 p2 p3 p4 p5 s = .next t := by
  unfold execTokenCcrc
  with_reducible (repeat' first | exact answers_next _ | extract_lets | split)

theorem execRecord_answers (p0 p1 p2 p3 p4 p5) (s : State) : ∃ t, execRecord p0 p1 p2 p3 p4 p5 s = .next t := by
  unfold execRecord
  with_reducible (repeat' first | exact answers_next _ | extract_lets | split)

theorem execBusRunWrite_answers (p0 p1 p2) (s : State) : ∃ t, execBusRunWrite p0 p1 p2 s = .next t := by
  unfold execBusRunWrite
  with_reducible (repeat' first | exact answers_next _ | extract_lets | split)

theorem execBusFlush_answers (p0 p1) (s : State) : ∃ t, execBusFlush p0 p1 s = .next t := by
  unfold execBusFlush
  with_reducible (repeat' first | exact answers_next _ | extract_lets | split)

theorem execBusRecover_answers (p0 p1) (s : State) : ∃ t, execBusRecover p0 p1 s = .next t := by
  unfold execBusRecover
  with_reducible (repeat' first | exact answers_next _ | extract_lets | split)

theorem execPhyResetWrite_answers (p0 p1 p2) (s : State) : ∃ t, execPhyResetWrite p0 p1 p2 s = .next t := by
  unfold execPhyResetWrite
  with_reducible (repeat' first | exact answers_next _ | extract_lets | split)

theorem execBusTxPost_answers (p0 p1 p2) (s : State) : ∃ t, execBusTxPost p0 p1 p2 s = .next t := by
  unfold execBusTxPost
  with_reducible (repeat' first | exact answers_next _ | extract_lets | split)

theorem execPayloadRead_answers (p0 p1 p2 p3) (s : State) : ∃ t, execPayloadRead p0 p1 p2 p3 s = .next t := by
  unfold execPayloadRead
  with_reducible (repeat' first | exact answers_next _ | extract_lets | split)

theorem execFrameStart_answers (p0 p1) (s : State) : ∃ t, execFrameStart p0 p1 s = .next t := by
  unfold execFrameStart
  with_reducible (repeat' first | exact answers_next _ | extract_lets | split)

theorem execArbitrationLost_answers (p0 p1) (s : State) : ∃ t, execArbitrationLost p0 p1 s = .next t := by
  unfold execArbitrationLost
  with_reducible (repeat' first | exact answers_next _ | extract_lets | split)

theorem execFrameExpired_answers (p0 p1) (s : State) : ∃ t, execFrameExpired p0 p1 s = .next t := by
  unfold execFrameExpired
  with_reducible (repeat' first | exact answers_next _ | extract_lets | split)

theorem execTxWriteBack_answers (p0 p1 p2 p3) (s : State) : ∃ t, execTxWriteBack p0 p1 p2 p3 s = .next t := by
  unfold execTxWriteBack
  with_reducible (repeat' first | exact answers_next _ | extract_lets | split)

theorem execGateFiring_answers (p0 p1) (s : State) : ∃ t, execGateFiring p0 p1 s = .next t := by
  unfold execGateFiring
  with_reducible (repeat' first | exact answers_next _ | extract_lets | split)

theorem execFrameReceived_answers (p0 p1 p2 p3) (s : State) : ∃ t, execFrameReceived p0 p1 p2 p3 s = .next t := by
  unfold execFrameReceived
  with_reducible (repeat' first | exact answers_next _ | extract_lets | split)

theorem execBusError_answers (p0 p1 p2 p3) (s : State) : ∃ t, execBusError p0 p1 p2 p3 s = .next t := by
  unfold execBusError
  with_reducible (repeat' first | exact answers_next _ | extract_lets | split)

theorem execBusOffRecovery_answers (p0 p1) (s : State) : ∃ t, execBusOffRecovery p0 p1 s = .next t := by
  unfold execBusOffRecovery
  with_reducible (repeat' first | exact answers_next _ | extract_lets | split)

theorem execLinHeader_answers (p0 p1 p2) (s : State) : ∃ t, execLinHeader p0 p1 p2 s = .next t := by
  unfold execLinHeader
  with_reducible (repeat' first | exact answers_next _ | extract_lets | split)

theorem execLinWakeUp_answers (p0 p1 p2 p3) (s : State) : ∃ t, execLinWakeUp p0 p1 p2 p3 s = .next t := by
  unfold execLinWakeUp
  with_reducible (repeat' first | exact answers_next _ | extract_lets | split)

theorem execMdioCommand_answers (p0 p1 p2) (s : State) : ∃ t, execMdioCommand p0 p1 p2 s = .next t := by
  unfold execMdioCommand
  with_reducible (repeat' first | exact answers_next _ | extract_lets | split)

theorem execMdioComplete_answers (p0 p1) (s : State) : ∃ t, execMdioComplete p0 p1 s = .next t := by
  unfold execMdioComplete
  with_reducible (repeat' first | exact answers_next _ | extract_lets | split)

theorem execWorkItemEnqueue_answers (p0 p1 p2 p3) (s : State) : ∃ t, execWorkItemEnqueue p0 p1 p2 p3 s = .next t := by
  unfold execWorkItemEnqueue
  with_reducible (repeat' first | exact answers_next _ | extract_lets | split)

theorem execSafGet_answers (p0 p1 p2) (s : State) : ∃ t, execSafGet p0 p1 p2 s = .next t := by
  unfold execSafGet
  with_reducible (repeat' first | exact answers_next _ | extract_lets | split)

theorem execDispatch_answers (p0 p1 p2) (s : State) : ∃ t, execDispatch p0 p1 p2 s = .next t := by
  unfold execDispatch
  with_reducible (repeat' first | exact answers_next _ | extract_lets | split)

theorem execItemComplete_answers (p0 p1 p2 p3 p4 p5) (s : State) : ∃ t, execItemComplete p0 p1 p2 p3 p4 p5 s = .next t := by
  unfold execItemComplete
  with_reducible (repeat' first | exact answers_next _ | extract_lets | split)

theorem execDelayDue_answers (p0) (s : State) : ∃ t, execDelayDue p0 s = .next t := by
  unfold execDelayDue
  with_reducible (repeat' first | exact answers_next _ | extract_lets | split)

theorem execWatchdog_answers (p0 p1) (s : State) : ∃ t, execWatchdog p0 p1 s = .next t := by
  unfold execWatchdog
  with_reducible (repeat' first | exact answers_next _ | extract_lets | split)

theorem execPlanStart_answers (p0 p1) (s : State) : ∃ t, execPlanStart p0 p1 s = .next t := by
  unfold execPlanStart
  with_reducible (repeat' first | exact answers_next _ | extract_lets | split)

theorem execPlanStop_answers (p0 p1) (s : State) : ∃ t, execPlanStop p0 p1 s = .next t := by
  unfold execPlanStop
  with_reducible (repeat' first | exact answers_next _ | extract_lets | split)

theorem execPlanAbort_answers (p0 p1) (s : State) : ∃ t, execPlanAbort p0 p1 s = .next t := by
  unfold execPlanAbort
  with_reducible (repeat' first | exact answers_next _ | extract_lets | split)

theorem execDutEvent_answers (p0 p1) (s : State) : ∃ t, execDutEvent p0 p1 s = .next t := by
  unfold execDutEvent
  with_reducible (repeat' first | exact answers_next _ | extract_lets | split)

theorem execPlanTestEnd_answers (p0 p1) (s : State) : ∃ t, execPlanTestEnd p0 p1 s = .next t := by
  unfold execPlanTestEnd
  with_reducible (repeat' first | exact answers_next _ | extract_lets | split)

theorem execPlanTimeout_answers (p0 p1) (s : State) : ∃ t, execPlanTimeout p0 p1 s = .next t := by
  unfold execPlanTimeout
  with_reducible (repeat' first | exact answers_next _ | extract_lets | split)

theorem execStaleRetry_answers (p0 p1) (s : State) : ∃ t, execStaleRetry p0 p1 s = .next t := by
  unfold execStaleRetry
  with_reducible (repeat' first | exact answers_next _ | extract_lets | split)

theorem execReflEvent_answers (p0 p1) (s : State) : ∃ t, execReflEvent p0 p1 s = .next t := by
  unfold execReflEvent
  with_reducible (repeat' first | exact answers_next _ | extract_lets | split)

theorem execDatalogRecord_answers (p0 p1 p2) (s : State) : ∃ t, execDatalogRecord p0 p1 p2 s = .next t := by
  unfold execDatalogRecord
  with_reducible (repeat' first | exact answers_next _ | extract_lets | split)

theorem execLost_answers (p0 p1) (s : State) : ∃ t, execLost p0 p1 s = .next t := by
  unfold execLost
  with_reducible (repeat' first | exact answers_next _ | extract_lets | split)

theorem execUdsRequest_answers (p0 p1 p2 p3) (s : State) : ∃ t, execUdsRequest p0 p1 p2 p3 s = .next t := by
  unfold execUdsRequest
  with_reducible (repeat' first | exact answers_next _ | extract_lets | split)

theorem execUdsSession_answers (p0 p1 p2 p3) (s : State) : ∃ t, execUdsSession p0 p1 p2 p3 s = .next t := by
  unfold execUdsSession
  with_reducible (repeat' first | exact answers_next _ | extract_lets | split)

theorem execSecurity_answers (p0 p1 p2 p3 p4) (s : State) : ∃ t, execSecurity p0 p1 p2 p3 p4 s = .next t := by
  unfold execSecurity
  with_reducible (repeat' first | exact answers_next _ | extract_lets | split)

theorem execDownload_answers (p0 p1 p2 p3) (s : State) : ∃ t, execDownload p0 p1 p2 p3 s = .next t := by
  unfold execDownload
  with_reducible (repeat' first | exact answers_next _ | extract_lets | split)

theorem execEcuReset_answers (p0 p1 p2 p3) (s : State) : ∃ t, execEcuReset p0 p1 p2 p3 s = .next t := by
  unfold execEcuReset
  with_reducible (repeat' first | exact answers_next _ | extract_lets | split)

theorem execUdsResponse_answers (p0 p1 p2 p3 p4 p5) (s : State) : ∃ t, execUdsResponse p0 p1 p2 p3 p4 p5 s = .next t := by
  unfold execUdsResponse
  with_reducible (repeat' first | exact answers_next _ | extract_lets | split)

theorem execP2Expiry_answers (p0 p1 p2) (s : State) : ∃ t, execP2Expiry p0 p1 p2 s = .next t := by
  unfold execP2Expiry
  with_reducible (repeat' first | exact answers_next _ | extract_lets | split)

theorem execTesterPresent_answers (p0 p1 p2) (s : State) : ∃ t, execTesterPresent p0 p1 p2 s = .next t := by
  unfold execTesterPresent
  with_reducible (repeat' first | exact answers_next _ | extract_lets | split)

theorem execKeyReply_answers (p0) (s : State) : ∃ t, execKeyReply p0 s = .next t := by
  unfold execKeyReply
  with_reducible (repeat' first | exact answers_next _ | extract_lets | split)

theorem execKeyTimeout_answers (p0 p1 p2) (s : State) : ∃ t, execKeyTimeout p0 p1 p2 s = .next t := by
  unfold execKeyTimeout
  with_reducible (repeat' first | exact answers_next _ | extract_lets | split)

theorem execNetlistBuild_answers (p0 p1) (s : State) : ∃ t, execNetlistBuild p0 p1 s = .next t := by
  unfold execNetlistBuild
  with_reducible (repeat' first | exact answers_next _ | extract_lets | split)

theorem execNetlistAnalysis_answers (p0 p1) (s : State) : ∃ t, execNetlistAnalysis p0 p1 s = .next t := by
  unfold execNetlistAnalysis
  with_reducible (repeat' first | exact answers_next _ | extract_lets | split)

theorem execTrigInEdge_answers (p0 p1) (s : State) : ∃ t, execTrigInEdge p0 p1 s = .next t := by
  unfold execTrigInEdge
  with_reducible (repeat' first | exact answers_next _ | extract_lets | split)

theorem execEvfSwfire_answers (p0 p1) (s : State) : ∃ t, execEvfSwfire p0 p1 s = .next t := by
  unfold execEvfSwfire
  with_reducible (repeat' first | exact answers_next _ | extract_lets | split)

theorem execEventChannelFiring_answers (p0 p1) (s : State) : ∃ t, execEventChannelFiring p0 p1 s = .next t := by
  unfold execEventChannelFiring
  with_reducible (repeat' first | exact answers_next _ | extract_lets | split)

theorem execHeldFiringRelease_answers (p0 p1) (s : State) : ∃ t, execHeldFiringRelease p0 p1 s = .next t := by
  unfold execHeldFiringRelease
  with_reducible (repeat' first | exact answers_next _ | extract_lets | split)

theorem execTrigOutPulseEnd_answers (p0 p1) (s : State) : ∃ t, execTrigOutPulseEnd p0 p1 s = .next t := by
  unfold execTrigOutPulseEnd
  with_reducible (repeat' first | exact answers_next _ | extract_lets | split)

theorem execTimerExpiry_answers (p0 p1) (s : State) : ∃ t, execTimerExpiry p0 p1 s = .next t := by
  unfold execTimerExpiry
  with_reducible (repeat' first | exact answers_next _ | extract_lets | split)

theorem execEvfTimerCfgWrite_answers (p0 p1 p2) (s : State) : ∃ t, execEvfTimerCfgWrite p0 p1 p2 s = .next t := by
  unfold execEvfTimerCfgWrite
  with_reducible (repeat' first | exact answers_next _ | extract_lets | split)

theorem execTimerStartFiring_answers (p0 p1) (s : State) : ∃ t, execTimerStartFiring p0 p1 s = .next t := by
  unfold execTimerStartFiring
  with_reducible (repeat' first | exact answers_next _ | extract_lets | split)

theorem execInterruptPending_answers (p0 p1) (s : State) : ∃ t, execInterruptPending p0 p1 s = .next t := by
  unfold execInterruptPending
  with_reducible (repeat' first | exact answers_next _ | extract_lets | split)

theorem execIrcClaim_answers (p0 p1 p2) (s : State) : ∃ t, execIrcClaim p0 p1 p2 s = .next t := by
  unfold execIrcClaim
  with_reducible (repeat' first | exact answers_next _ | extract_lets | split)

theorem execIrcComplete_answers (p0 p1 p2 p3) (s : State) : ∃ t, execIrcComplete p0 p1 p2 p3 s = .next t := by
  unfold execIrcComplete
  with_reducible (repeat' first | exact answers_next _ | extract_lets | split)

theorem execIrcMaskWrite_answers (p0 p1 p2 p3) (s : State) : ∃ t, execIrcMaskWrite p0 p1 p2 p3 s = .next t := by
  unfold execIrcMaskWrite
  with_reducible (repeat' first | exact answers_next _ | extract_lets | split)

theorem execHoldoffEnd_answers (p0 p1) (s : State) : ∃ t, execHoldoffEnd p0 p1 s = .next t := by
  unfold execHoldoffEnd
  with_reducible (repeat' first | exact answers_next _ | extract_lets | split)

theorem execLakOwnerWrite_answers (p0 p1 p2 p3) (s : State) : ∃ t, execLakOwnerWrite p0 p1 p2 p3 s = .next t := by
  unfold execLakOwnerWrite
  with_reducible (repeat' first | exact answers_next _ | extract_lets | split)

theorem execLakStateWrite_answers (p0 p1 p2 p3) (s : State) : ∃ t, execLakStateWrite p0 p1 p2 p3 s = .next t := by
  unfold execLakStateWrite
  with_reducible (repeat' first | exact answers_next _ | extract_lets | split)

theorem execBankTransitionComplete_answers (p0 p1) (s : State) : ∃ t, execBankTransitionComplete p0 p1 s = .next t := by
  unfold execBankTransitionComplete
  with_reducible (repeat' first | exact answers_next _ | extract_lets | split)

theorem execLakeWrite_answers (p0 p1 p2 p3 p4) (s : State) : ∃ t, execLakeWrite p0 p1 p2 p3 p4 s = .next t := by
  unfold execLakeWrite
  with_reducible (repeat' first | exact answers_next _ | extract_lets | split)

theorem execLakeSetWrite_answers (p0 p1 p2 p3) (s : State) : ∃ t, execLakeSetWrite p0 p1 p2 p3 s = .next t := by
  unfold execLakeSetWrite
  with_reducible (repeat' first | exact answers_next _ | extract_lets | split)

theorem execLakeClearWrite_answers (p0 p1 p2 p3) (s : State) : ∃ t, execLakeClearWrite p0 p1 p2 p3 s = .next t := by
  unfold execLakeClearWrite
  with_reducible (repeat' first | exact answers_next _ | extract_lets | split)

theorem execDmcOpCmd_answers (p0 p1) (s : State) : ∃ t, execDmcOpCmd p0 p1 s = .next t := by
  unfold execDmcOpCmd
  with_reducible (repeat' first | exact answers_next _ | extract_lets | split)

theorem execOpChangeComplete_answers (p0 p1) (s : State) : ∃ t, execOpChangeComplete p0 p1 s = .next t := by
  unfold execOpChangeComplete
  with_reducible (repeat' first | exact answers_next _ | extract_lets | split)

theorem execRequestPromotion_answers (p0 p1) (s : State) : ∃ t, execRequestPromotion p0 p1 s = .next t := by
  unfold execRequestPromotion
  with_reducible (repeat' first | exact answers_next _ | extract_lets | split)

theorem execPageCloseTimeout_answers (p0 p1 p2) (s : State) : ∃ t, execPageCloseTimeout p0 p1 p2 s = .next t := by
  unfold execPageCloseTimeout
  with_reducible (repeat' first | exact answers_next _ | extract_lets | split)

theorem execPerstN_answers (p0 p1) (s : State) : ∃ t, execPerstN p0 p1 s = .next t := by
  unfold execPerstN
  with_reducible (repeat' first | exact answers_next _ | extract_lets | split)

theorem execFlr_answers (p0 p1) (s : State) : ∃ t, execFlr p0 p1 s = .next t := by
  unfold execFlr
  with_reducible (repeat' first | exact answers_next _ | extract_lets | split)

theorem execHrgCmdTailWrite_answers (p0 p1 p2 p3) (s : State) : ∃ t, execHrgCmdTailWrite p0 p1 p2 p3 s = .next t := by
  unfold execHrgCmdTailWrite
  with_reducible (repeat' first | exact answers_next _ | extract_lets | split)

theorem execDescriptorRead_answers (p0 p1) (s : State) : ∃ t, execDescriptorRead p0 p1 s = .next t := by
  unfold execDescriptorRead
  with_reducible (repeat' first | exact answers_next _ | extract_lets | split)

theorem execArm_answers (p0 p1) (s : State) : ∃ t, execArm p0 p1 s = .next t := by
  unfold execArm
  with_reducible (repeat' first | exact answers_next _ | extract_lets | split)

theorem execAbort_answers (p0 p1) (s : State) : ∃ t, execAbort p0 p1 s = .next t := by
  unfold execAbort
  with_reducible (repeat' first | exact answers_next _ | extract_lets | split)

theorem execAckCommand_answers (p0 p1) (s : State) : ∃ t, execAckCommand p0 p1 s = .next t := by
  unfold execAckCommand
  with_reducible (repeat' first | exact answers_next _ | extract_lets | split)

theorem execReset_answers (p0 p1) (s : State) : ∃ t, execReset p0 p1 s = .next t := by
  unfold execReset
  with_reducible (repeat' first | exact answers_next _ | extract_lets | split)

theorem execSetArg_answers (p0 p1) (s : State) : ∃ t, execSetArg p0 p1 s = .next t := by
  unfold execSetArg
  with_reducible (repeat' first | exact answers_next _ | extract_lets | split)

theorem execRingPlanStart_answers (p0 p1) (s : State) : ∃ t, execRingPlanStart p0 p1 s = .next t := by
  unfold execRingPlanStart
  with_reducible (repeat' first | exact answers_next _ | extract_lets | split)

theorem execRingPlanStop_answers (p0 p1) (s : State) : ∃ t, execRingPlanStop p0 p1 s = .next t := by
  unfold execRingPlanStop
  with_reducible (repeat' first | exact answers_next _ | extract_lets | split)

theorem execRingPlanAbort_answers (p0 p1) (s : State) : ∃ t, execRingPlanAbort p0 p1 s = .next t := by
  unfold execRingPlanAbort
  with_reducible (repeat' first | exact answers_next _ | extract_lets | split)

theorem execReflect_answers (p0 p1) (s : State) : ∃ t, execReflect p0 p1 s = .next t := by
  unfold execReflect
  with_reducible (repeat' first | exact answers_next _ | extract_lets | split)

theorem execTableLoad_answers (p0 p1) (s : State) : ∃ t, execTableLoad p0 p1 s = .next t := by
  unfold execTableLoad
  with_reducible (repeat' first | exact answers_next _ | extract_lets | split)

theorem execNvmRead_answers (p0 p1 p2) (s : State) : ∃ t, execNvmRead p0 p1 p2 s = .next t := by
  unfold execNvmRead
  with_reducible (repeat' first | exact answers_next _ | extract_lets | split)

theorem execNvmErase_answers (p0 p1 p2) (s : State) : ∃ t, execNvmErase p0 p1 p2 s = .next t := by
  unfold execNvmErase
  with_reducible (repeat' first | exact answers_next _ | extract_lets | split)

theorem execNvmProgram_answers (p0 p1 p2) (s : State) : ∃ t, execNvmProgram p0 p1 p2 s = .next t := by
  unfold execNvmProgram
  with_reducible (repeat' first | exact answers_next _ | extract_lets | split)

theorem execTodSet_answers (p0 p1) (s : State) : ∃ t, execTodSet p0 p1 s = .next t := by
  unfold execTodSet
  with_reducible (repeat' first | exact answers_next _ | extract_lets | split)

theorem execTodAdj_answers (p0 p1) (s : State) : ∃ t, execTodAdj p0 p1 s = .next t := by
  unfold execTodAdj
  with_reducible (repeat' first | exact answers_next _ | extract_lets | split)

theorem execDescriptorComplete_answers (p0 p1) (s : State) : ∃ t, execDescriptorComplete p0 p1 s = .next t := by
  unfold execDescriptorComplete
  with_reducible (repeat' first | exact answers_next _ | extract_lets | split)

theorem execHrgCmdSeenWrite_answers (p0 p1 p2 p3) (s : State) : ∃ t, execHrgCmdSeenWrite p0 p1 p2 p3 s = .next t := by
  unfold execHrgCmdSeenWrite
  with_reducible (repeat' first | exact answers_next _ | extract_lets | split)

theorem execRingDisable_answers (p0 p1 p2) (s : State) : ∃ t, execRingDisable p0 p1 p2 s = .next t := by
  unfold execRingDisable
  with_reducible (repeat' first | exact answers_next _ | extract_lets | split)

theorem execHrgResRdWrite_answers (p0 p1 p2) (s : State) : ∃ t, execHrgResRdWrite p0 p1 p2 s = .next t := by
  unfold execHrgResRdWrite
  with_reducible (repeat' first | exact answers_next _ | extract_lets | split)

theorem execMbxDataWrite_answers (p0 p1 p2 p3 p4) (s : State) : ∃ t, execMbxDataWrite p0 p1 p2 p3 p4 s = .next t := by
  unfold execMbxDataWrite
  with_reducible (repeat' first | exact answers_next _ | extract_lets | split)

theorem execMbxDoorbell_answers (p0 p1 p2 p3) (s : State) : ∃ t, execMbxDoorbell p0 p1 p2 p3 s = .next t := by
  unfold execMbxDoorbell
  with_reducible (repeat' first | exact answers_next _ | extract_lets | split)

theorem execMbxTake_answers (p0 p1 p2 p3) (s : State) : ∃ t, execMbxTake p0 p1 p2 p3 s = .next t := by
  unfold execMbxTake
  with_reducible (repeat' first | exact answers_next _ | extract_lets | split)

theorem execMbxLockRead_answers (p0 p1 p2) (s : State) : ∃ t, execMbxLockRead p0 p1 p2 s = .next t := by
  unfold execMbxLockRead
  with_reducible (repeat' first | exact answers_next _ | extract_lets | split)

theorem execMbxLockRelease_answers (p0 p1 p2 p3) (s : State) : ∃ t, execMbxLockRelease p0 p1 p2 p3 s = .next t := by
  unfold execMbxLockRelease
  with_reducible (repeat' first | exact answers_next _ | extract_lets | split)

theorem execKeyStoreWrite_answers (p0) (s : State) : ∃ t, execKeyStoreWrite p0 s = .next t := by
  unfold execKeyStoreWrite
  with_reducible (repeat' first | exact answers_next _ | extract_lets | split)

theorem execKeyStoreErase_answers (p0) (s : State) : ∃ t, execKeyStoreErase p0 s = .next t := by
  unfold execKeyStoreErase
  with_reducible (repeat' first | exact answers_next _ | extract_lets | split)

theorem execReg64LowRead_answers (p0 p1 p2) (s : State) : ∃ t, execReg64LowRead p0 p1 p2 s = .next t := by
  unfold execReg64LowRead
  with_reducible (repeat' first | exact answers_next _ | extract_lets | split)

theorem execReg64HighWrite_answers (p0 p1 p2 p3) (s : State) : ∃ t, execReg64HighWrite p0 p1 p2 p3 s = .next t := by
  unfold execReg64HighWrite
  with_reducible (repeat' first | exact answers_next _ | extract_lets | split)

theorem execRcRegisterRead_answers (p0 p1 p2 p3) (s : State) : ∃ t, execRcRegisterRead p0 p1 p2 p3 s = .next t := by
  unfold execRcRegisterRead
  with_reducible (repeat' first | exact answers_next _ | extract_lets | split)

theorem execRegisterWrite_answers (p0 p1 p2 p3 p4) (s : State) : ∃ t, execRegisterWrite p0 p1 p2 p3 p4 s = .next t := by
  unfold execRegisterWrite
  with_reducible (repeat' first | exact answers_next _ | extract_lets | split)

theorem execSafeInNFall_answers (p0 p1) (s : State) : ∃ t, execSafeInNFall p0 p1 s = .next t := by
  unfold execSafeInNFall
  with_reducible (repeat' first | exact answers_next _ | extract_lets | split)

theorem execCinForceWrite_answers (p0 p1) (s : State) : ∃ t, execCinForceWrite p0 p1 s = .next t := by
  unfold execCinForceWrite
  with_reducible (repeat' first | exact answers_next _ | extract_lets | split)

theorem execCinExit_answers (p0 p1) (s : State) : ∃ t, execCinExit p0 p1 s = .next t := by
  unfold execCinExit
  with_reducible (repeat' first | exact answers_next _ | extract_lets | split)

theorem execExitRelease_answers (p0) (s : State) : ∃ t, execExitRelease p0 s = .next t := by
  unfold execExitRelease
  with_reducible (repeat' first | exact answers_next _ | extract_lets | split)

theorem execCinTileReset_answers (p0 p1) (s : State) : ∃ t, execCinTileReset p0 p1 s = .next t := by
  unfold execCinTileReset
  with_reducible (repeat' first | exact answers_next _ | extract_lets | split)

theorem execCinCoreReset_answers (p0 p1) (s : State) : ∃ t, execCinCoreReset p0 p1 s = .next t := by
  unfold execCinCoreReset
  with_reducible (repeat' first | exact answers_next _ | extract_lets | split)

theorem execSafeInNRise_answers (p0) (s : State) : ∃ t, execSafeInNRise p0 s = .next t := by
  unfold execSafeInNRise
  with_reducible (repeat' first | exact answers_next _ | extract_lets | split)

theorem execTestenLow_answers (p0) (s : State) : ∃ t, execTestenLow p0 s = .next t := by
  unfold execTestenLow
  with_reducible (repeat' first | exact answers_next _ | extract_lets | split)

theorem execReferenceReturn_answers (p0) (s : State) : ∃ t, execReferenceReturn p0 s = .next t := by
  unfold execReferenceReturn
  with_reducible (repeat' first | exact answers_next _ | extract_lets | split)

theorem execPcieLinkDown_answers (p0) (s : State) : ∃ t, execPcieLinkDown p0 s = .next t := by
  unfold execPcieLinkDown
  with_reducible (repeat' first | exact answers_next _ | extract_lets | split)

theorem execPcieLinkUp_answers (p0 p1 p2 p3 p4) (s : State) : ∃ t, execPcieLinkUp p0 p1 p2 p3 p4 s = .next t := by
  unfold execPcieLinkUp
  with_reducible (repeat' first | exact answers_next _ | extract_lets | split)

theorem execMsixUnmask_answers (p0 p1 p2) (s : State) : ∃ t, execMsixUnmask p0 p1 p2 s = .next t := by
  unfold execMsixUnmask
  with_reducible (repeat' first | exact answers_next _ | extract_lets | split)

theorem execDramWrite_answers (p0 p1 p2 p3 p4 p5 p6 p7) (s : State) : ∃ t, execDramWrite p0 p1 p2 p3 p4 p5 p6 p7 s = .next t := by
  unfold execDramWrite
  with_reducible (repeat' first | exact answers_next _ | extract_lets | split)

theorem execIsotpNTimeout_answers (p0 p1 p2) (s : State) : ∃ t, execIsotpNTimeout p0 p1 p2 s = .next t := by
  unfold execIsotpNTimeout
  with_reducible (repeat' first | exact answers_next _ | extract_lets | split)

theorem execPhyResetRelease_answers (p0 p1) (s : State) : ∃ t, execPhyResetRelease p0 p1 s = .next t := by
  unfold execPhyResetRelease
  with_reducible (repeat' first | exact answers_next _ | extract_lets | split)

theorem execXtalTempRead_answers (p0 p1) (s : State) : ∃ t, execXtalTempRead p0 p1 s = .next t := by
  unfold execXtalTempRead
  with_reducible (repeat' first | exact answers_next _ | extract_lets | split)

theorem execUmbAgeIncrement_answers (p0) (s : State) : ∃ t, execUmbAgeIncrement p0 s = .next t := by
  unfold execUmbAgeIncrement
  with_reducible (repeat' first | exact answers_next _ | extract_lets | split)

end Sys2Proof.Machine
end

