-- ==== Sys2Proof/Laws/Tab.lean ====
section
/-! SUPPORT. The laws of sparse tables: read after write, and the canonical form is kept. -/

namespace Sys2Proof.Machine

variable {α : Type}

theorem Tab.get_insert_self (d : α) (n : Nat) (x : α) (t : Tab α) (h : ∀ e ∈ t, e.1 ≠ n) :
    Tab.get d (Tab.insert n x t) n = x := by
  induction t with
  | nil => simp [Tab.insert, Tab.get]
  | cons e r ih =>
    obtain ⟨k, v⟩ := e
    have hk : n ≠ k := fun e => h (k, v) (by simp) e.symm
    simp only [Tab.insert]
    split
    · simp [Tab.get]
    · simp [Tab.get, hk, ih (fun e he => h e (by simp [he]))]

theorem Tab.get_insert_ne (d : α) (n m : Nat) (x : α) (t : Tab α) (h : m ≠ n) :
    Tab.get d (Tab.insert n x t) m = Tab.get d t m := by
  induction t with
  | nil => simp [Tab.insert, Tab.get, h]
  | cons e r ih =>
    obtain ⟨k, v⟩ := e
    simp only [Tab.insert]
    split
    · simp [Tab.get, h]
    · simp [Tab.get, ih]

theorem Tab.get_erase_self (d : α) (n : Nat) (t : Tab α) : Tab.get d (Tab.erase t n) n = d := by
  induction t with
  | nil => rfl
  | cons e r ih =>
    obtain ⟨k, v⟩ := e
    by_cases hk : k = n
    · subst hk; simpa [Tab.erase] using ih
    · have : n ≠ k := fun e => hk e.symm
      simpa [Tab.erase, hk, Tab.get, this] using ih

theorem Tab.get_erase_ne (d : α) (n m : Nat) (t : Tab α) (h : m ≠ n) :
    Tab.get d (Tab.erase t n) m = Tab.get d t m := by
  induction t with
  | nil => rfl
  | cons e r ih =>
    obtain ⟨k, v⟩ := e
    by_cases hk : k = n
    · subst hk; simpa [Tab.erase, Tab.get, h] using ih
    · by_cases hm : m = k
      · subst hm; simp [Tab.erase, hk, Tab.get]
      · simpa [Tab.erase, hk, Tab.get, hm] using ih

theorem Tab.erase_keys (t : Tab α) (n : Nat) : ∀ e ∈ Tab.erase t n, e.1 ≠ n := by
  intro e he; simp [Tab.erase] at he; exact he.2

/-- Read after write at the same key. -/
@[simp] theorem Tab.get_set_self [DecidableEq α] (d : α) (t : Tab α) (n : Nat) (x : α) :
    Tab.get d (Tab.set d t n x) n = x := by
  unfold Tab.set
  split
  · rename_i h; rw [Tab.get_erase_self, h]
  · exact Tab.get_insert_self d n x _ (Tab.erase_keys t n)

/-- A write leaves every other key alone. -/
theorem Tab.get_set_ne [DecidableEq α] (d : α) (t : Tab α) (n m : Nat) (x : α) (h : m ≠ n) :
    Tab.get d (Tab.set d t n x) m = Tab.get d t m := by
  unfold Tab.set
  split
  · exact Tab.get_erase_ne d n m t h
  · rw [Tab.get_insert_ne d n m x _ h, Tab.get_erase_ne d n m t h]

theorem Tab.get_set [DecidableEq α] (d : α) (t : Tab α) (n m : Nat) (x : α) :
    Tab.get d (Tab.set d t n x) m = if m = n then x else Tab.get d t m := by
  split
  · rename_i h; subst h; simp
  · rename_i h; exact Tab.get_set_ne d t n m x h

/-- The canonical form said with the library's Pairwise. -/
theorem Tab.wf_iff [DecidableEq α] (d : α) (t : Tab α) :
    Tab.wf d t = true ↔ t.Pairwise (fun a b => a.1 < b.1) ∧ ∀ e ∈ t, e.2 ≠ d := by
  induction t with
  | nil => simp [Tab.wf]
  | cons e r ih =>
    obtain ⟨k, v⟩ := e
    cases r with
    | nil => simp [Tab.wf]
    | cons e' r' =>
      obtain ⟨k', v'⟩ := e'
      simp only [Tab.wf, Bool.and_eq_true, bne_iff_ne, decide_eq_true_eq, ih, List.pairwise_cons,
        List.mem_cons, forall_eq_or_imp]
      constructor
      · rintro ⟨⟨hv, hk⟩, ⟨h1, h2⟩, h3, h4⟩
        exact ⟨⟨⟨hk, fun a ha => lt_trans hk (h1 a ha)⟩, h1, h2⟩, hv, h3, h4⟩
      · rintro ⟨⟨⟨hk, _⟩, h1, h2⟩, hv, h3, h4⟩
        exact ⟨⟨hv, hk⟩, ⟨h1, h2⟩, h3, h4⟩

theorem Tab.wf_erase [DecidableEq α] (d : α) (t : Tab α) (n : Nat) (h : Tab.wf d t = true) :
    Tab.wf d (Tab.erase t n) = true := by
  rw [Tab.wf_iff] at *
  refine ⟨h.1.sublist List.filter_sublist, fun e he => h.2 e ?_⟩
  simp [Tab.erase] at he; exact he.1

theorem Tab.mem_insert (n : Nat) (x : α) (t : Tab α) (e : Nat × α) :
    e ∈ Tab.insert n x t ↔ e = (n, x) ∨ e ∈ t := by
  induction t with
  | nil => simp [Tab.insert]
  | cons a r ih =>
    obtain ⟨k, v⟩ := a
    simp only [Tab.insert]
    split
    · simp
    · simp [ih]; tauto

theorem Tab.pairwise_insert (n : Nat) (x : α) (t : Tab α) (h : t.Pairwise (fun a b => a.1 < b.1))
    (hn : ∀ e ∈ t, e.1 ≠ n) : (Tab.insert n x t).Pairwise (fun a b => a.1 < b.1) := by
  induction t with
  | nil => simp [Tab.insert]
  | cons a r ih =>
    obtain ⟨k, v⟩ := a
    rw [List.pairwise_cons] at h
    simp only [Tab.insert]
    split
    · rename_i hk
      refine List.pairwise_cons.2 ⟨?_, List.pairwise_cons.2 h⟩
      intro e he
      rcases List.mem_cons.1 he with rfl | he
      · exact hk
      · exact lt_trans hk (h.1 e he)
    · rename_i hk
      refine List.pairwise_cons.2 ⟨?_, ih h.2 (fun e he => hn e (by simp [he]))⟩
      intro e he
      rcases (Tab.mem_insert n x r e).1 he with rfl | he
      · have := hn (k, v) (by simp); dsimp at *; omega
      · exact h.1 e he

/-- A write keeps the canonical form. -/
theorem Tab.wf_set [DecidableEq α] (d : α) (t : Tab α) (n : Nat) (x : α) (h : Tab.wf d t = true) :
    Tab.wf d (Tab.set d t n x) = true := by
  unfold Tab.set
  split
  · exact Tab.wf_erase d t n h
  · rename_i hx
    have h' := (Tab.wf_iff d _).1 (Tab.wf_erase d t n h)
    rw [Tab.wf_iff]
    refine ⟨Tab.pairwise_insert n x _ h'.1 (Tab.erase_keys t n), fun e he => ?_⟩
    rcases (Tab.mem_insert n x _ e).1 he with rfl | he
    · exact hx
    · exact h'.2 e he

end Sys2Proof.Machine
end

