-- ==== Sys2Proof/Laws/Memory.lean ====
section
/-! SUPPORT. The laws of the memories: every memory operation keeps the canonical form, a byte written reads back, and a write
leaves every other byte alone. -/

namespace Sys2Proof.Machine

/-- Rising addresses said with the library's Pairwise. -/
theorem rising_iff (m : List Host.Cell) : rising m = true ↔ m.Pairwise (fun a b => a.1 < b.1) := by
  induction m with
  | nil => simp [rising]
  | cons e r ih =>
    obtain ⟨k, v⟩ := e
    cases r with
    | nil => simp [rising]
    | cons e' r' =>
      obtain ⟨k', v'⟩ := e'
      simp only [rising, Bool.and_eq_true, decide_eq_true_eq, ih, List.pairwise_cons, List.mem_cons, forall_eq_or_imp]
      exact ⟨fun ⟨h, h1, h2⟩ => ⟨⟨h, fun a ha => lt_trans h (h1 a ha)⟩, h1, h2⟩, fun ⟨⟨h, _⟩, h1, h2⟩ => ⟨h, h1, h2⟩⟩

/-- The canonical form, as two facts. -/
theorem memory_wf_iff (z : List (Nat × Nat)) (m : List Host.Cell) :
    Memory.wf z m = true ↔ m.Pairwise (fun a b => a.1 < b.1) ∧ ∀ p ∈ m, inRanges z p.1 = true → p.2 ≠ 0 := by
  simp only [Memory.wf, Bool.and_eq_true, rising_iff, List.all_eq_true, Bool.not_eq_true', Bool.and_eq_false_iff]
  refine and_congr_right fun _ => forall₂_congr fun p _ => ?_
  cases inRanges z p.1 <;> simp

/-- Entries left out of a canonical memory leave it canonical. -/
theorem memory_wf_filter (z : List (Nat × Nat)) (m : List Host.Cell) (q : Host.Cell → Bool) (h : Memory.wf z m = true) :
    Memory.wf z (m.filter q) = true := by
  rw [memory_wf_iff] at *
  exact ⟨h.1.sublist List.filter_sublist, fun p hp => h.2 p (List.mem_filter.1 hp).1⟩

/-- A byte put into a canonical memory leaves it canonical. -/
theorem memory_wf_put (z : List (Nat × Nat)) (m : List Host.Cell) (a : Nat) (b : Byte) (h : Memory.wf z m = true) :
    Memory.wf z (memPut z m a b) = true := by
  have he : Memory.wf z (Tab.erase m a) = true := memory_wf_filter z m _ h
  unfold memPut
  split
  · exact he
  · rename_i hz
    rw [memory_wf_iff] at he ⊢
    refine ⟨Tab.pairwise_insert a b _ he.1 (Tab.erase_keys m a), fun p hp => ?_⟩
    rcases (Tab.mem_insert a b _ p).1 hp with rfl | hp
    · intro hr h0
      have h0 : b = 0 := h0
      have hr : inRanges z a = true := hr
      exact hz (by rw [hr, h0]; rfl)
    · exact he.2 p hp

/-- A cleared range leaves a memory canonical over the ranges cleared so far and the new one. -/
theorem memory_wf_clear (z : List (Nat × Nat)) (m : List Host.Cell) (a n : Nat) (h : Memory.wf z m = true) :
    Memory.wf (z ++ [(a, n)]) (m.filter (fun p => !inRanges [(a, n)] p.1)) = true := by
  have hf := memory_wf_filter z m (fun p => !inRanges [(a, n)] p.1) h
  rw [memory_wf_iff] at hf ⊢
  refine ⟨hf.1, fun p hp hr => hf.2 p hp ?_⟩
  have hq := (List.mem_filter.1 hp).2
  simp only [inRanges, List.any_append, Bool.or_eq_true] at hr
  rcases hr with hr | hr
  · exact hr
  · simp only [inRanges] at hq; rw [hr] at hq; exact absurd hq (by simp)

/-- What is listed at an address is what the sparse table holds there. -/
theorem memGet_eq (m : List Host.Cell) (a : Nat) : memGet m a = Tab.get none (m.map (fun p => (p.1, some p.2))) a := by
  induction m with
  | nil => rfl
  | cons e r ih => obtain ⟨k, v⟩ := e; simp only [memGet, List.map_cons, Tab.get, ih]

theorem memGet_erase_ne (m : List Host.Cell) (a c : Nat) (h : c ≠ a) : memGet (Tab.erase m a) c = memGet m c := by
  induction m with
  | nil => rfl
  | cons e r ih =>
    obtain ⟨k, v⟩ := e
    by_cases hk : k = a
    · subst hk; simpa [Tab.erase, memGet, h] using ih
    · by_cases hc : c = k
      · subst hc; simp [Tab.erase, hk, memGet]
      · simpa [Tab.erase, hk, memGet, hc] using ih

theorem memGet_erase_self (m : List Host.Cell) (a : Nat) : memGet (Tab.erase m a) a = none := by
  induction m with
  | nil => rfl
  | cons e r ih =>
    obtain ⟨k, v⟩ := e
    by_cases hk : k = a
    · subst hk; simpa [Tab.erase] using ih
    · have : a ≠ k := fun e => hk e.symm
      simpa [Tab.erase, hk, memGet, this] using ih

theorem memGet_insert_self (m : List Host.Cell) (a : Nat) (b : Byte) (h : ∀ e ∈ m, e.1 ≠ a) : memGet (Tab.insert a b m) a = some b := by
  induction m with
  | nil => simp [Tab.insert, memGet]
  | cons e r ih =>
    obtain ⟨k, v⟩ := e
    have hk : a ≠ k := fun e => h (k, v) (by simp) e.symm
    simp only [Tab.insert]
    split
    · simp [memGet]
    · simp [memGet, hk, ih (fun e he => h e (by simp [he]))]

theorem memGet_insert_ne (m : List Host.Cell) (a c : Nat) (b : Byte) (h : c ≠ a) : memGet (Tab.insert a b m) c = memGet m c := by
  induction m with
  | nil => simp [Tab.insert, memGet, h]
  | cons e r ih =>
    obtain ⟨k, v⟩ := e
    simp only [Tab.insert]
    split
    · simp [memGet, h]
    · simp [memGet, ih]

/-- A put leaves every other address alone. -/
theorem memGet_put_ne (z : List (Nat × Nat)) (m : List Host.Cell) (a c : Nat) (b : Byte) (h : c ≠ a) :
    memGet (memPut z m a b) c = memGet m c := by
  unfold memPut
  split
  · exact memGet_erase_ne m a c h
  · rw [memGet_insert_ne _ a c b h, memGet_erase_ne m a c h]

/-- After a put the address lists the byte, or nothing where an unlisted address reads as that byte. -/
theorem memGet_put_self (z : List (Nat × Nat)) (m : List Host.Cell) (a : Nat) (b : Byte) :
    memGet (memPut z m a b) a = if inRanges z a && b == 0 then none else some b := by
  unfold memPut
  split
  · exact memGet_erase_self m a
  · exact memGet_insert_self _ a b (Tab.erase_keys m a)

/-- A byte written to Lake reads back. -/
theorem State.byteAt_putLake (s : State) (a : Nat) (b : Byte) : (s.putByte true a b).byteAt true a = b := by
  simp [State.putByte, State.byteAt, memGet_put_self, inRanges]

/-- A byte written to usable DRAM reads back. -/
theorem State.byteAt_putDram (s : State) (a : Nat) (b : Byte) (h : s.dramDead = false) :
    (s.putByte false a b).byteAt false a = b := by
  simp only [State.putByte, State.byteAt, h, Bool.false_eq_true, if_false, memGet_put_self, State.zeroed]
  by_cases hz : inRanges s.dramZero a = true
  · by_cases hb : b = 0
    · simp [hz, hb]
    · have hb' : ¬ b = 0#8 := hb
      simp [hb']
  · simp [hz]

/-- A byte written leaves every other byte of its memory alone. -/
theorem State.byteAt_putByte_ne (s : State) (lake : Bool) (a c : Nat) (b : Byte) (h : c ≠ a) :
    (s.putByte lake a b).byteAt lake c = s.byteAt lake c := by
  cases lake
  · by_cases hd : s.dramDead = true
    · simp [State.putByte, hd]
    · simp [State.putByte, hd, State.byteAt, memGet_put_ne _ _ _ _ _ h, State.zeroed]
  · simp [State.putByte, State.byteAt, memGet_put_ne _ _ _ _ _ h, State.zeroed]

/-- A byte written to one memory leaves the other alone. -/
theorem State.byteAt_putByte_other (s : State) (lake : Bool) (a c : Nat) (b : Byte) :
    (s.putByte lake a b).byteAt (!lake) c = s.byteAt (!lake) c := by
  cases lake
  · by_cases hd : s.dramDead = true
    · simp [State.putByte, hd]
    · simp [State.putByte, hd, State.byteAt, State.zeroed]
  · simp [State.putByte, State.byteAt, State.zeroed]

end Sys2Proof.Machine
end

