-- ==== Sys2Proof/Laws/State.lean ====
section
/-! SUPPORT. The laws of the state: a register field written reads back cut to its width, every other field is left alone, and
what each update of the hidden state leaves alone. -/

namespace Sys2Proof.Machine

/-! ### Register fields -/

theorem xor_xor_self (a b : Nat) : a ^^^ b ^^^ b = a := by rw [Nat.xor_assoc, Nat.xor_self, Nat.xor_zero]

/-- What a register field holds after a write to one (R7). -/
theorem State.get_set (s : State) (f g : Fld) (i j v : Nat) :
    (s.set f i v).get g j = if g.id = f.id ∧ j = i then (v % 2 ^ f.w ^^^ f.reset i) ^^^ g.reset j else s.get g j := by
  unfold State.get State.set State.put Tab.update
  simp only [Tab.get_set]
  by_cases hf : g.id = f.id
  · by_cases hi : j = i
    · simp [hf, hi]
    · simp [hf, hi, Tab.get_set_ne 0 _ i j _ hi]
  · simp [hf]

/-- A field written reads back, cut to its width. -/
@[simp] theorem State.get_set_self (s : State) (f : Fld) (i v : Nat) : (s.set f i v).get f i = v % 2 ^ f.w := by
  simp [State.get_set]

/-- A write leaves every other field alone. -/
theorem State.get_set_fld (s : State) (f g : Fld) (i j v : Nat) (h : g.id ≠ f.id) : (s.set f i v).get g j = s.get g j := by
  simp [State.get_set, h]

/-- A write leaves every other index alone. -/
theorem State.get_set_idx (s : State) (f g : Fld) (i j v : Nat) (h : j ≠ i) : (s.set f i v).get g j = s.get g j := by
  simp [State.get_set, h]

/-- A field reads the same in states whose registers are the same. -/
theorem State.get_congr {s t : State} (h : t.regs = s.regs) (f : Fld) (i : Nat) : t.get f i = s.get f i := by
  simp [State.get, h]

/-- A field at reset. -/
theorem State.get_default (f : Fld) (i : Nat) : State.get {} f i = f.reset i := by simp [State.get, Tab.get]

/-! ### A register write leaves the hidden state alone -/

@[simp] theorem State.set_free (s : State) (f : Fld) (i v : Nat) : (s.set f i v).free = s.free := (rfl)
@[simp] theorem State.set_epoch (s : State) (f : Fld) (i v : Nat) : (s.set f i v).epoch = s.epoch := (rfl)
@[simp] theorem State.set_dram (s : State) (f : Fld) (i v : Nat) : (s.set f i v).dram = s.dram := (rfl)
@[simp] theorem State.set_dramZero (s : State) (f : Fld) (i v : Nat) : (s.set f i v).dramZero = s.dramZero := (rfl)
@[simp] theorem State.set_lake (s : State) (f : Fld) (i v : Nat) : (s.set f i v).lake = s.lake := (rfl)
@[simp] theorem State.set_readData (s : State) (f : Fld) (i v : Nat) : (s.set f i v).readData = s.readData := (rfl)
@[simp] theorem State.set_out (s : State) (f : Fld) (i v : Nat) : (s.set f i v).out = s.out := (rfl)
@[simp] theorem State.set_pins (s : State) (f : Fld) (i v : Nat) : (s.set f i v).pins = s.pins := (rfl)
@[simp] theorem State.set_pwr (s : State) (f : Fld) (i v : Nat) : (s.set f i v).pwr = s.pwr := (rfl)
@[simp] theorem State.set_ldr (s : State) (f : Fld) (i v : Nat) : (s.set f i v).ldr = s.ldr := (rfl)
@[simp] theorem State.set_img (s : State) (f : Fld) (i v : Nat) : (s.set f i v).img = s.img := (rfl)
@[simp] theorem State.set_sites (s : State) (f : Fld) (i v : Nat) : (s.set f i v).sites = s.sites := (rfl)
@[simp] theorem State.set_slices (s : State) (f : Fld) (i v : Nat) : (s.set f i v).slices = s.slices := (rfl)
@[simp] theorem State.set_grans (s : State) (f : Fld) (i v : Nat) : (s.set f i v).grans = s.grans := (rfl)
@[simp] theorem State.set_chans (s : State) (f : Fld) (i v : Nat) : (s.set f i v).chans = s.chans := (rfl)
@[simp] theorem State.set_wave (s : State) (f : Fld) (i v : Nat) : (s.set f i v).wave = s.wave := (rfl)
@[simp] theorem State.set_waveBad (s : State) (f : Fld) (i v : Nat) : (s.set f i v).waveBad = s.waveBad := (rfl)
@[simp] theorem State.set_wfAcc (s : State) (f : Fld) (i v : Nat) : (s.set f i v).wfAcc = s.wfAcc := (rfl)
@[simp] theorem State.set_ctxs (s : State) (f : Fld) (i v : Nat) : (s.set f i v).ctxs = s.ctxs := (rfl)
@[simp] theorem State.set_acqs (s : State) (f : Fld) (i v : Nat) : (s.set f i v).acqs = s.acqs := (rfl)
@[simp] theorem State.set_tias (s : State) (f : Fld) (i v : Nat) : (s.set f i v).tias = s.tias := (rfl)
@[simp] theorem State.set_trims (s : State) (f : Fld) (i v : Nat) : (s.set f i v).trims = s.trims := (rfl)
@[simp] theorem State.set_engines (s : State) (f : Fld) (i v : Nat) : (s.set f i v).engines = s.engines := (rfl)
@[simp] theorem State.set_skews (s : State) (f : Fld) (i v : Nat) : (s.set f i v).skews = s.skews := (rfl)
@[simp] theorem State.set_buses (s : State) (f : Fld) (i v : Nat) : (s.set f i v).buses = s.buses := (rfl)
@[simp] theorem State.set_mdioQ (s : State) (f : Fld) (i v : Nat) : (s.set f i v).mdioQ = s.mdioQ := (rfl)
@[simp] theorem State.set_mdioAt (s : State) (f : Fld) (i v : Nat) : (s.set f i v).mdioAt = s.mdioAt := (rfl)
@[simp] theorem State.set_evf (s : State) (f : Fld) (i v : Nat) : (s.set f i v).evf = s.evf := (rfl)
@[simp] theorem State.set_irc (s : State) (f : Fld) (i v : Nat) : (s.set f i v).irc = s.irc := (rfl)
@[simp] theorem State.set_safe (s : State) (f : Fld) (i v : Nat) : (s.set f i v).safe = s.safe := (rfl)
@[simp] theorem State.set_keys (s : State) (f : Fld) (i v : Nat) : (s.set f i v).keys = s.keys := (rfl)
@[simp] theorem State.set_barriers (s : State) (f : Fld) (i v : Nat) : (s.set f i v).barriers = s.barriers := (rfl)
@[simp] theorem State.set_demand (s : State) (f : Fld) (i v : Nat) : (s.set f i v).demand = s.demand := (rfl)
@[simp] theorem State.set_umb (s : State) (f : Fld) (i v : Nat) : (s.set f i v).umb = s.umb := (rfl)
@[simp] theorem State.set_saf (s : State) (f : Fld) (i v : Nat) : (s.set f i v).saf = s.saf := (rfl)
@[simp] theorem State.set_shadows (s : State) (f : Fld) (i v : Nat) : (s.set f i v).shadows = s.shadows := (rfl)
@[simp] theorem State.set_tlinks (s : State) (f : Fld) (i v : Nat) : (s.set f i v).tlinks = s.tlinks := (rfl)
@[simp] theorem State.set_ports (s : State) (f : Fld) (i v : Nat) : (s.set f i v).ports = s.ports := (rfl)
@[simp] theorem State.set_plans (s : State) (f : Fld) (i v : Nat) : (s.set f i v).plans = s.plans := (rfl)
@[simp] theorem State.set_logs (s : State) (f : Fld) (i v : Nat) : (s.set f i v).logs = s.logs := (rfl)
@[simp] theorem State.set_uds (s : State) (f : Fld) (i v : Nat) : (s.set f i v).uds = s.uds := (rfl)
@[simp] theorem State.set_keyQ (s : State) (f : Fld) (i v : Nat) : (s.set f i v).keyQ = s.keyQ := (rfl)
@[simp] theorem State.set_rings (s : State) (f : Fld) (i v : Nat) : (s.set f i v).rings = s.rings := (rfl)
@[simp] theorem State.set_lakeAt (s : State) (f : Fld) (i v : Nat) : (s.set f i v).lakeAt = s.lakeAt := (rfl)
@[simp] theorem State.set_lakeEpoch (s : State) (f : Fld) (i v : Nat) : (s.set f i v).lakeEpoch = s.lakeEpoch := (rfl)
@[simp] theorem State.set_opAt (s : State) (f : Fld) (i v : Nat) : (s.set f i v).opAt = s.opAt := (rfl)
@[simp] theorem State.set_banks (s : State) (f : Fld) (i v : Nat) : (s.set f i v).banks = s.banks := (rfl)
@[simp] theorem State.set_nvm (s : State) (f : Fld) (i v : Nat) : (s.set f i v).nvm = s.nvm := (rfl)
@[simp] theorem State.set_dramDead (s : State) (f : Fld) (i v : Nat) : (s.set f i v).dramDead = s.dramDead := (rfl)
@[simp] theorem State.set_dramBad (s : State) (f : Fld) (i v : Nat) : (s.set f i v).dramBad = s.dramBad := (rfl)
@[simp] theorem State.set_pending (s : State) (f : Fld) (i v : Nat) : (s.set f i v).pending = s.pending := (rfl)

/-! ### The updates of the unit tables -/

@[simp] theorem State.setSite_get (s : State) (x : Nat) (u : SiteUnit) (f : Fld) (j : Nat) : (s.setSite x u).get f j = s.get f j := (rfl)
@[simp] theorem State.setSite_self (s : State) (x : Nat) (u : SiteUnit) : (s.setSite x u).site x = u := by simp [State.setSite, State.site]
theorem State.setSite_ne (s : State) (x : Nat) (u : SiteUnit) (y : Nat) (h : y ≠ x) : (s.setSite x u).site y = s.site y := by
  simp [State.setSite, State.site, Tab.get_set, h]
@[simp] theorem State.setSite_regs (s : State) (x : Nat) (u : SiteUnit) : (s.setSite x u).regs = s.regs := (rfl)
@[simp] theorem State.setSite_tick (s : State) (x : Nat) (u : SiteUnit) : (s.setSite x u).tick = s.tick := (rfl)
@[simp] theorem State.setSite_free (s : State) (x : Nat) (u : SiteUnit) : (s.setSite x u).free = s.free := (rfl)
@[simp] theorem State.setSite_epoch (s : State) (x : Nat) (u : SiteUnit) : (s.setSite x u).epoch = s.epoch := (rfl)
@[simp] theorem State.setSite_dram (s : State) (x : Nat) (u : SiteUnit) : (s.setSite x u).dram = s.dram := (rfl)
@[simp] theorem State.setSite_dramZero (s : State) (x : Nat) (u : SiteUnit) : (s.setSite x u).dramZero = s.dramZero := (rfl)
@[simp] theorem State.setSite_lake (s : State) (x : Nat) (u : SiteUnit) : (s.setSite x u).lake = s.lake := (rfl)
@[simp] theorem State.setSite_readData (s : State) (x : Nat) (u : SiteUnit) : (s.setSite x u).readData = s.readData := (rfl)
@[simp] theorem State.setSite_out (s : State) (x : Nat) (u : SiteUnit) : (s.setSite x u).out = s.out := (rfl)
@[simp] theorem State.setSite_pins (s : State) (x : Nat) (u : SiteUnit) : (s.setSite x u).pins = s.pins := (rfl)
@[simp] theorem State.setSite_pwr (s : State) (x : Nat) (u : SiteUnit) : (s.setSite x u).pwr = s.pwr := (rfl)
@[simp] theorem State.setSite_ldr (s : State) (x : Nat) (u : SiteUnit) : (s.setSite x u).ldr = s.ldr := (rfl)
@[simp] theorem State.setSite_img (s : State) (x : Nat) (u : SiteUnit) : (s.setSite x u).img = s.img := (rfl)
@[simp] theorem State.setSite_slices (s : State) (x : Nat) (u : SiteUnit) : (s.setSite x u).slices = s.slices := (rfl)
@[simp] theorem State.setSite_grans (s : State) (x : Nat) (u : SiteUnit) : (s.setSite x u).grans = s.grans := (rfl)
@[simp] theorem State.setSite_chans (s : State) (x : Nat) (u : SiteUnit) : (s.setSite x u).chans = s.chans := (rfl)
@[simp] theorem State.setSite_wave (s : State) (x : Nat) (u : SiteUnit) : (s.setSite x u).wave = s.wave := (rfl)
@[simp] theorem State.setSite_waveBad (s : State) (x : Nat) (u : SiteUnit) : (s.setSite x u).waveBad = s.waveBad := (rfl)
@[simp] theorem State.setSite_wfAcc (s : State) (x : Nat) (u : SiteUnit) : (s.setSite x u).wfAcc = s.wfAcc := (rfl)
@[simp] theorem State.setSite_ctxs (s : State) (x : Nat) (u : SiteUnit) : (s.setSite x u).ctxs = s.ctxs := (rfl)
@[simp] theorem State.setSite_acqs (s : State) (x : Nat) (u : SiteUnit) : (s.setSite x u).acqs = s.acqs := (rfl)
@[simp] theorem State.setSite_tias (s : State) (x : Nat) (u : SiteUnit) : (s.setSite x u).tias = s.tias := (rfl)
@[simp] theorem State.setSite_trims (s : State) (x : Nat) (u : SiteUnit) : (s.setSite x u).trims = s.trims := (rfl)
@[simp] theorem State.setSite_engines (s : State) (x : Nat) (u : SiteUnit) : (s.setSite x u).engines = s.engines := (rfl)
@[simp] theorem State.setSite_skews (s : State) (x : Nat) (u : SiteUnit) : (s.setSite x u).skews = s.skews := (rfl)
@[simp] theorem State.setSite_buses (s : State) (x : Nat) (u : SiteUnit) : (s.setSite x u).buses = s.buses := (rfl)
@[simp] theorem State.setSite_mdioQ (s : State) (x : Nat) (u : SiteUnit) : (s.setSite x u).mdioQ = s.mdioQ := (rfl)
@[simp] theorem State.setSite_mdioAt (s : State) (x : Nat) (u : SiteUnit) : (s.setSite x u).mdioAt = s.mdioAt := (rfl)
@[simp] theorem State.setSite_evf (s : State) (x : Nat) (u : SiteUnit) : (s.setSite x u).evf = s.evf := (rfl)
@[simp] theorem State.setSite_irc (s : State) (x : Nat) (u : SiteUnit) : (s.setSite x u).irc = s.irc := (rfl)
@[simp] theorem State.setSite_safe (s : State) (x : Nat) (u : SiteUnit) : (s.setSite x u).safe = s.safe := (rfl)
@[simp] theorem State.setSite_keys (s : State) (x : Nat) (u : SiteUnit) : (s.setSite x u).keys = s.keys := (rfl)
@[simp] theorem State.setSite_barriers (s : State) (x : Nat) (u : SiteUnit) : (s.setSite x u).barriers = s.barriers := (rfl)
@[simp] theorem State.setSite_demand (s : State) (x : Nat) (u : SiteUnit) : (s.setSite x u).demand = s.demand := (rfl)
@[simp] theorem State.setSite_umb (s : State) (x : Nat) (u : SiteUnit) : (s.setSite x u).umb = s.umb := (rfl)
@[simp] theorem State.setSite_saf (s : State) (x : Nat) (u : SiteUnit) : (s.setSite x u).saf = s.saf := (rfl)
@[simp] theorem State.setSite_shadows (s : State) (x : Nat) (u : SiteUnit) : (s.setSite x u).shadows = s.shadows := (rfl)
@[simp] theorem State.setSite_tlinks (s : State) (x : Nat) (u : SiteUnit) : (s.setSite x u).tlinks = s.tlinks := (rfl)
@[simp] theorem State.setSite_ports (s : State) (x : Nat) (u : SiteUnit) : (s.setSite x u).ports = s.ports := (rfl)
@[simp] theorem State.setSite_plans (s : State) (x : Nat) (u : SiteUnit) : (s.setSite x u).plans = s.plans := (rfl)
@[simp] theorem State.setSite_logs (s : State) (x : Nat) (u : SiteUnit) : (s.setSite x u).logs = s.logs := (rfl)
@[simp] theorem State.setSite_uds (s : State) (x : Nat) (u : SiteUnit) : (s.setSite x u).uds = s.uds := (rfl)
@[simp] theorem State.setSite_keyQ (s : State) (x : Nat) (u : SiteUnit) : (s.setSite x u).keyQ = s.keyQ := (rfl)
@[simp] theorem State.setSite_rings (s : State) (x : Nat) (u : SiteUnit) : (s.setSite x u).rings = s.rings := (rfl)
@[simp] theorem State.setSite_lakeAt (s : State) (x : Nat) (u : SiteUnit) : (s.setSite x u).lakeAt = s.lakeAt := (rfl)
@[simp] theorem State.setSite_lakeEpoch (s : State) (x : Nat) (u : SiteUnit) : (s.setSite x u).lakeEpoch = s.lakeEpoch := (rfl)
@[simp] theorem State.setSite_opAt (s : State) (x : Nat) (u : SiteUnit) : (s.setSite x u).opAt = s.opAt := (rfl)
@[simp] theorem State.setSite_banks (s : State) (x : Nat) (u : SiteUnit) : (s.setSite x u).banks = s.banks := (rfl)
@[simp] theorem State.setSite_nvm (s : State) (x : Nat) (u : SiteUnit) : (s.setSite x u).nvm = s.nvm := (rfl)
@[simp] theorem State.setSite_dramDead (s : State) (x : Nat) (u : SiteUnit) : (s.setSite x u).dramDead = s.dramDead := (rfl)
@[simp] theorem State.setSite_dramBad (s : State) (x : Nat) (u : SiteUnit) : (s.setSite x u).dramBad = s.dramBad := (rfl)
@[simp] theorem State.setSite_pending (s : State) (x : Nat) (u : SiteUnit) : (s.setSite x u).pending = s.pending := (rfl)
@[simp] theorem State.setSlice_get (s : State) (i : Nat) (u : SliceUnit) (f : Fld) (j : Nat) : (s.setSlice i u).get f j = s.get f j := (rfl)
@[simp] theorem State.setSlice_self (s : State) (i : Nat) (u : SliceUnit) : (s.setSlice i u).slice i = u := by simp [State.setSlice, State.slice]
theorem State.setSlice_ne (s : State) (i : Nat) (u : SliceUnit) (y : Nat) (h : y ≠ i) : (s.setSlice i u).slice y = s.slice y := by
  simp [State.setSlice, State.slice, Tab.get_set, h]
@[simp] theorem State.setSlice_regs (s : State) (i : Nat) (u : SliceUnit) : (s.setSlice i u).regs = s.regs := (rfl)
@[simp] theorem State.setSlice_tick (s : State) (i : Nat) (u : SliceUnit) : (s.setSlice i u).tick = s.tick := (rfl)
@[simp] theorem State.setSlice_free (s : State) (i : Nat) (u : SliceUnit) : (s.setSlice i u).free = s.free := (rfl)
@[simp] theorem State.setSlice_epoch (s : State) (i : Nat) (u : SliceUnit) : (s.setSlice i u).epoch = s.epoch := (rfl)
@[simp] theorem State.setSlice_dram (s : State) (i : Nat) (u : SliceUnit) : (s.setSlice i u).dram = s.dram := (rfl)
@[simp] theorem State.setSlice_dramZero (s : State) (i : Nat) (u : SliceUnit) : (s.setSlice i u).dramZero = s.dramZero := (rfl)
@[simp] theorem State.setSlice_lake (s : State) (i : Nat) (u : SliceUnit) : (s.setSlice i u).lake = s.lake := (rfl)
@[simp] theorem State.setSlice_readData (s : State) (i : Nat) (u : SliceUnit) : (s.setSlice i u).readData = s.readData := (rfl)
@[simp] theorem State.setSlice_out (s : State) (i : Nat) (u : SliceUnit) : (s.setSlice i u).out = s.out := (rfl)
@[simp] theorem State.setSlice_pins (s : State) (i : Nat) (u : SliceUnit) : (s.setSlice i u).pins = s.pins := (rfl)
@[simp] theorem State.setSlice_pwr (s : State) (i : Nat) (u : SliceUnit) : (s.setSlice i u).pwr = s.pwr := (rfl)
@[simp] theorem State.setSlice_ldr (s : State) (i : Nat) (u : SliceUnit) : (s.setSlice i u).ldr = s.ldr := (rfl)
@[simp] theorem State.setSlice_img (s : State) (i : Nat) (u : SliceUnit) : (s.setSlice i u).img = s.img := (rfl)
@[simp] theorem State.setSlice_sites (s : State) (i : Nat) (u : SliceUnit) : (s.setSlice i u).sites = s.sites := (rfl)
@[simp] theorem State.setSlice_grans (s : State) (i : Nat) (u : SliceUnit) : (s.setSlice i u).grans = s.grans := (rfl)
@[simp] theorem State.setSlice_chans (s : State) (i : Nat) (u : SliceUnit) : (s.setSlice i u).chans = s.chans := (rfl)
@[simp] theorem State.setSlice_wave (s : State) (i : Nat) (u : SliceUnit) : (s.setSlice i u).wave = s.wave := (rfl)
@[simp] theorem State.setSlice_waveBad (s : State) (i : Nat) (u : SliceUnit) : (s.setSlice i u).waveBad = s.waveBad := (rfl)
@[simp] theorem State.setSlice_wfAcc (s : State) (i : Nat) (u : SliceUnit) : (s.setSlice i u).wfAcc = s.wfAcc := (rfl)
@[simp] theorem State.setSlice_ctxs (s : State) (i : Nat) (u : SliceUnit) : (s.setSlice i u).ctxs = s.ctxs := (rfl)
@[simp] theorem State.setSlice_acqs (s : State) (i : Nat) (u : SliceUnit) : (s.setSlice i u).acqs = s.acqs := (rfl)
@[simp] theorem State.setSlice_tias (s : State) (i : Nat) (u : SliceUnit) : (s.setSlice i u).tias = s.tias := (rfl)
@[simp] theorem State.setSlice_trims (s : State) (i : Nat) (u : SliceUnit) : (s.setSlice i u).trims = s.trims := (rfl)
@[simp] theorem State.setSlice_engines (s : State) (i : Nat) (u : SliceUnit) : (s.setSlice i u).engines = s.engines := (rfl)
@[simp] theorem State.setSlice_skews (s : State) (i : Nat) (u : SliceUnit) : (s.setSlice i u).skews = s.skews := (rfl)
@[simp] theorem State.setSlice_buses (s : State) (i : Nat) (u : SliceUnit) : (s.setSlice i u).buses = s.buses := (rfl)
@[simp] theorem State.setSlice_mdioQ (s : State) (i : Nat) (u : SliceUnit) : (s.setSlice i u).mdioQ = s.mdioQ := (rfl)
@[simp] theorem State.setSlice_mdioAt (s : State) (i : Nat) (u : SliceUnit) : (s.setSlice i u).mdioAt = s.mdioAt := (rfl)
@[simp] theorem State.setSlice_evf (s : State) (i : Nat) (u : SliceUnit) : (s.setSlice i u).evf = s.evf := (rfl)
@[simp] theorem State.setSlice_irc (s : State) (i : Nat) (u : SliceUnit) : (s.setSlice i u).irc = s.irc := (rfl)
@[simp] theorem State.setSlice_safe (s : State) (i : Nat) (u : SliceUnit) : (s.setSlice i u).safe = s.safe := (rfl)
@[simp] theorem State.setSlice_keys (s : State) (i : Nat) (u : SliceUnit) : (s.setSlice i u).keys = s.keys := (rfl)
@[simp] theorem State.setSlice_barriers (s : State) (i : Nat) (u : SliceUnit) : (s.setSlice i u).barriers = s.barriers := (rfl)
@[simp] theorem State.setSlice_demand (s : State) (i : Nat) (u : SliceUnit) : (s.setSlice i u).demand = s.demand := (rfl)
@[simp] theorem State.setSlice_umb (s : State) (i : Nat) (u : SliceUnit) : (s.setSlice i u).umb = s.umb := (rfl)
@[simp] theorem State.setSlice_saf (s : State) (i : Nat) (u : SliceUnit) : (s.setSlice i u).saf = s.saf := (rfl)
@[simp] theorem State.setSlice_shadows (s : State) (i : Nat) (u : SliceUnit) : (s.setSlice i u).shadows = s.shadows := (rfl)
@[simp] theorem State.setSlice_tlinks (s : State) (i : Nat) (u : SliceUnit) : (s.setSlice i u).tlinks = s.tlinks := (rfl)
@[simp] theorem State.setSlice_ports (s : State) (i : Nat) (u : SliceUnit) : (s.setSlice i u).ports = s.ports := (rfl)
@[simp] theorem State.setSlice_plans (s : State) (i : Nat) (u : SliceUnit) : (s.setSlice i u).plans = s.plans := (rfl)
@[simp] theorem State.setSlice_logs (s : State) (i : Nat) (u : SliceUnit) : (s.setSlice i u).logs = s.logs := (rfl)
@[simp] theorem State.setSlice_uds (s : State) (i : Nat) (u : SliceUnit) : (s.setSlice i u).uds = s.uds := (rfl)
@[simp] theorem State.setSlice_keyQ (s : State) (i : Nat) (u : SliceUnit) : (s.setSlice i u).keyQ = s.keyQ := (rfl)
@[simp] theorem State.setSlice_rings (s : State) (i : Nat) (u : SliceUnit) : (s.setSlice i u).rings = s.rings := (rfl)
@[simp] theorem State.setSlice_lakeAt (s : State) (i : Nat) (u : SliceUnit) : (s.setSlice i u).lakeAt = s.lakeAt := (rfl)
@[simp] theorem State.setSlice_lakeEpoch (s : State) (i : Nat) (u : SliceUnit) : (s.setSlice i u).lakeEpoch = s.lakeEpoch := (rfl)
@[simp] theorem State.setSlice_opAt (s : State) (i : Nat) (u : SliceUnit) : (s.setSlice i u).opAt = s.opAt := (rfl)
@[simp] theorem State.setSlice_banks (s : State) (i : Nat) (u : SliceUnit) : (s.setSlice i u).banks = s.banks := (rfl)
@[simp] theorem State.setSlice_nvm (s : State) (i : Nat) (u : SliceUnit) : (s.setSlice i u).nvm = s.nvm := (rfl)
@[simp] theorem State.setSlice_dramDead (s : State) (i : Nat) (u : SliceUnit) : (s.setSlice i u).dramDead = s.dramDead := (rfl)
@[simp] theorem State.setSlice_dramBad (s : State) (i : Nat) (u : SliceUnit) : (s.setSlice i u).dramBad = s.dramBad := (rfl)
@[simp] theorem State.setSlice_pending (s : State) (i : Nat) (u : SliceUnit) : (s.setSlice i u).pending = s.pending := (rfl)
@[simp] theorem State.setChan_get (s : State) (c : Nat) (u : ChanUnit) (f : Fld) (j : Nat) : (s.setChan c u).get f j = s.get f j := (rfl)
@[simp] theorem State.setChan_self (s : State) (c : Nat) (u : ChanUnit) : (s.setChan c u).chan c = u := by simp [State.setChan, State.chan]
theorem State.setChan_ne (s : State) (c : Nat) (u : ChanUnit) (y : Nat) (h : y ≠ c) : (s.setChan c u).chan y = s.chan y := by
  simp [State.setChan, State.chan, Tab.get_set, h]
@[simp] theorem State.setChan_regs (s : State) (c : Nat) (u : ChanUnit) : (s.setChan c u).regs = s.regs := (rfl)
@[simp] theorem State.setChan_tick (s : State) (c : Nat) (u : ChanUnit) : (s.setChan c u).tick = s.tick := (rfl)
@[simp] theorem State.setChan_free (s : State) (c : Nat) (u : ChanUnit) : (s.setChan c u).free = s.free := (rfl)
@[simp] theorem State.setChan_epoch (s : State) (c : Nat) (u : ChanUnit) : (s.setChan c u).epoch = s.epoch := (rfl)
@[simp] theorem State.setChan_dram (s : State) (c : Nat) (u : ChanUnit) : (s.setChan c u).dram = s.dram := (rfl)
@[simp] theorem State.setChan_dramZero (s : State) (c : Nat) (u : ChanUnit) : (s.setChan c u).dramZero = s.dramZero := (rfl)
@[simp] theorem State.setChan_lake (s : State) (c : Nat) (u : ChanUnit) : (s.setChan c u).lake = s.lake := (rfl)
@[simp] theorem State.setChan_readData (s : State) (c : Nat) (u : ChanUnit) : (s.setChan c u).readData = s.readData := (rfl)
@[simp] theorem State.setChan_out (s : State) (c : Nat) (u : ChanUnit) : (s.setChan c u).out = s.out := (rfl)
@[simp] theorem State.setChan_pins (s : State) (c : Nat) (u : ChanUnit) : (s.setChan c u).pins = s.pins := (rfl)
@[simp] theorem State.setChan_pwr (s : State) (c : Nat) (u : ChanUnit) : (s.setChan c u).pwr = s.pwr := (rfl)
@[simp] theorem State.setChan_ldr (s : State) (c : Nat) (u : ChanUnit) : (s.setChan c u).ldr = s.ldr := (rfl)
@[simp] theorem State.setChan_img (s : State) (c : Nat) (u : ChanUnit) : (s.setChan c u).img = s.img := (rfl)
@[simp] theorem State.setChan_sites (s : State) (c : Nat) (u : ChanUnit) : (s.setChan c u).sites = s.sites := (rfl)
@[simp] theorem State.setChan_slices (s : State) (c : Nat) (u : ChanUnit) : (s.setChan c u).slices = s.slices := (rfl)
@[simp] theorem State.setChan_grans (s : State) (c : Nat) (u : ChanUnit) : (s.setChan c u).grans = s.grans := (rfl)
@[simp] theorem State.setChan_wave (s : State) (c : Nat) (u : ChanUnit) : (s.setChan c u).wave = s.wave := (rfl)
@[simp] theorem State.setChan_waveBad (s : State) (c : Nat) (u : ChanUnit) : (s.setChan c u).waveBad = s.waveBad := (rfl)
@[simp] theorem State.setChan_wfAcc (s : State) (c : Nat) (u : ChanUnit) : (s.setChan c u).wfAcc = s.wfAcc := (rfl)
@[simp] theorem State.setChan_ctxs (s : State) (c : Nat) (u : ChanUnit) : (s.setChan c u).ctxs = s.ctxs := (rfl)
@[simp] theorem State.setChan_acqs (s : State) (c : Nat) (u : ChanUnit) : (s.setChan c u).acqs = s.acqs := (rfl)
@[simp] theorem State.setChan_tias (s : State) (c : Nat) (u : ChanUnit) : (s.setChan c u).tias = s.tias := (rfl)
@[simp] theorem State.setChan_trims (s : State) (c : Nat) (u : ChanUnit) : (s.setChan c u).trims = s.trims := (rfl)
@[simp] theorem State.setChan_engines (s : State) (c : Nat) (u : ChanUnit) : (s.setChan c u).engines = s.engines := (rfl)
@[simp] theorem State.setChan_skews (s : State) (c : Nat) (u : ChanUnit) : (s.setChan c u).skews = s.skews := (rfl)
@[simp] theorem State.setChan_buses (s : State) (c : Nat) (u : ChanUnit) : (s.setChan c u).buses = s.buses := (rfl)
@[simp] theorem State.setChan_mdioQ (s : State) (c : Nat) (u : ChanUnit) : (s.setChan c u).mdioQ = s.mdioQ := (rfl)
@[simp] theorem State.setChan_mdioAt (s : State) (c : Nat) (u : ChanUnit) : (s.setChan c u).mdioAt = s.mdioAt := (rfl)
@[simp] theorem State.setChan_evf (s : State) (c : Nat) (u : ChanUnit) : (s.setChan c u).evf = s.evf := (rfl)
@[simp] theorem State.setChan_irc (s : State) (c : Nat) (u : ChanUnit) : (s.setChan c u).irc = s.irc := (rfl)
@[simp] theorem State.setChan_safe (s : State) (c : Nat) (u : ChanUnit) : (s.setChan c u).safe = s.safe := (rfl)
@[simp] theorem State.setChan_keys (s : State) (c : Nat) (u : ChanUnit) : (s.setChan c u).keys = s.keys := (rfl)
@[simp] theorem State.setChan_barriers (s : State) (c : Nat) (u : ChanUnit) : (s.setChan c u).barriers = s.barriers := (rfl)
@[simp] theorem State.setChan_demand (s : State) (c : Nat) (u : ChanUnit) : (s.setChan c u).demand = s.demand := (rfl)
@[simp] theorem State.setChan_umb (s : State) (c : Nat) (u : ChanUnit) : (s.setChan c u).umb = s.umb := (rfl)
@[simp] theorem State.setChan_saf (s : State) (c : Nat) (u : ChanUnit) : (s.setChan c u).saf = s.saf := (rfl)
@[simp] theorem State.setChan_shadows (s : State) (c : Nat) (u : ChanUnit) : (s.setChan c u).shadows = s.shadows := (rfl)
@[simp] theorem State.setChan_tlinks (s : State) (c : Nat) (u : ChanUnit) : (s.setChan c u).tlinks = s.tlinks := (rfl)
@[simp] theorem State.setChan_ports (s : State) (c : Nat) (u : ChanUnit) : (s.setChan c u).ports = s.ports := (rfl)
@[simp] theorem State.setChan_plans (s : State) (c : Nat) (u : ChanUnit) : (s.setChan c u).plans = s.plans := (rfl)
@[simp] theorem State.setChan_logs (s : State) (c : Nat) (u : ChanUnit) : (s.setChan c u).logs = s.logs := (rfl)
@[simp] theorem State.setChan_uds (s : State) (c : Nat) (u : ChanUnit) : (s.setChan c u).uds = s.uds := (rfl)
@[simp] theorem State.setChan_keyQ (s : State) (c : Nat) (u : ChanUnit) : (s.setChan c u).keyQ = s.keyQ := (rfl)
@[simp] theorem State.setChan_rings (s : State) (c : Nat) (u : ChanUnit) : (s.setChan c u).rings = s.rings := (rfl)
@[simp] theorem State.setChan_lakeAt (s : State) (c : Nat) (u : ChanUnit) : (s.setChan c u).lakeAt = s.lakeAt := (rfl)
@[simp] theorem State.setChan_lakeEpoch (s : State) (c : Nat) (u : ChanUnit) : (s.setChan c u).lakeEpoch = s.lakeEpoch := (rfl)
@[simp] theorem State.setChan_opAt (s : State) (c : Nat) (u : ChanUnit) : (s.setChan c u).opAt = s.opAt := (rfl)
@[simp] theorem State.setChan_banks (s : State) (c : Nat) (u : ChanUnit) : (s.setChan c u).banks = s.banks := (rfl)
@[simp] theorem State.setChan_nvm (s : State) (c : Nat) (u : ChanUnit) : (s.setChan c u).nvm = s.nvm := (rfl)
@[simp] theorem State.setChan_dramDead (s : State) (c : Nat) (u : ChanUnit) : (s.setChan c u).dramDead = s.dramDead := (rfl)
@[simp] theorem State.setChan_dramBad (s : State) (c : Nat) (u : ChanUnit) : (s.setChan c u).dramBad = s.dramBad := (rfl)
@[simp] theorem State.setChan_pending (s : State) (c : Nat) (u : ChanUnit) : (s.setChan c u).pending = s.pending := (rfl)
@[simp] theorem State.setCtx_get (s : State) (x : Nat) (u : CtxUnit) (f : Fld) (j : Nat) : (s.setCtx x u).get f j = s.get f j := (rfl)
@[simp] theorem State.setCtx_self (s : State) (x : Nat) (u : CtxUnit) : (s.setCtx x u).ctx x = u := by simp [State.setCtx, State.ctx]
theorem State.setCtx_ne (s : State) (x : Nat) (u : CtxUnit) (y : Nat) (h : y ≠ x) : (s.setCtx x u).ctx y = s.ctx y := by
  simp [State.setCtx, State.ctx, Tab.get_set, h]
@[simp] theorem State.setCtx_regs (s : State) (x : Nat) (u : CtxUnit) : (s.setCtx x u).regs = s.regs := (rfl)
@[simp] theorem State.setCtx_tick (s : State) (x : Nat) (u : CtxUnit) : (s.setCtx x u).tick = s.tick := (rfl)
@[simp] theorem State.setCtx_free (s : State) (x : Nat) (u : CtxUnit) : (s.setCtx x u).free = s.free := (rfl)
@[simp] theorem State.setCtx_epoch (s : State) (x : Nat) (u : CtxUnit) : (s.setCtx x u).epoch = s.epoch := (rfl)
@[simp] theorem State.setCtx_dram (s : State) (x : Nat) (u : CtxUnit) : (s.setCtx x u).dram = s.dram := (rfl)
@[simp] theorem State.setCtx_dramZero (s : State) (x : Nat) (u : CtxUnit) : (s.setCtx x u).dramZero = s.dramZero := (rfl)
@[simp] theorem State.setCtx_lake (s : State) (x : Nat) (u : CtxUnit) : (s.setCtx x u).lake = s.lake := (rfl)
@[simp] theorem State.setCtx_readData (s : State) (x : Nat) (u : CtxUnit) : (s.setCtx x u).readData = s.readData := (rfl)
@[simp] theorem State.setCtx_out (s : State) (x : Nat) (u : CtxUnit) : (s.setCtx x u).out = s.out := (rfl)
@[simp] theorem State.setCtx_pins (s : State) (x : Nat) (u : CtxUnit) : (s.setCtx x u).pins = s.pins := (rfl)
@[simp] theorem State.setCtx_pwr (s : State) (x : Nat) (u : CtxUnit) : (s.setCtx x u).pwr = s.pwr := (rfl)
@[simp] theorem State.setCtx_ldr (s : State) (x : Nat) (u : CtxUnit) : (s.setCtx x u).ldr = s.ldr := (rfl)
@[simp] theorem State.setCtx_img (s : State) (x : Nat) (u : CtxUnit) : (s.setCtx x u).img = s.img := (rfl)
@[simp] theorem State.setCtx_sites (s : State) (x : Nat) (u : CtxUnit) : (s.setCtx x u).sites = s.sites := (rfl)
@[simp] theorem State.setCtx_slices (s : State) (x : Nat) (u : CtxUnit) : (s.setCtx x u).slices = s.slices := (rfl)
@[simp] theorem State.setCtx_grans (s : State) (x : Nat) (u : CtxUnit) : (s.setCtx x u).grans = s.grans := (rfl)
@[simp] theorem State.setCtx_chans (s : State) (x : Nat) (u : CtxUnit) : (s.setCtx x u).chans = s.chans := (rfl)
@[simp] theorem State.setCtx_wave (s : State) (x : Nat) (u : CtxUnit) : (s.setCtx x u).wave = s.wave := (rfl)
@[simp] theorem State.setCtx_waveBad (s : State) (x : Nat) (u : CtxUnit) : (s.setCtx x u).waveBad = s.waveBad := (rfl)
@[simp] theorem State.setCtx_wfAcc (s : State) (x : Nat) (u : CtxUnit) : (s.setCtx x u).wfAcc = s.wfAcc := (rfl)
@[simp] theorem State.setCtx_acqs (s : State) (x : Nat) (u : CtxUnit) : (s.setCtx x u).acqs = s.acqs := (rfl)
@[simp] theorem State.setCtx_tias (s : State) (x : Nat) (u : CtxUnit) : (s.setCtx x u).tias = s.tias := (rfl)
@[simp] theorem State.setCtx_trims (s : State) (x : Nat) (u : CtxUnit) : (s.setCtx x u).trims = s.trims := (rfl)
@[simp] theorem State.setCtx_engines (s : State) (x : Nat) (u : CtxUnit) : (s.setCtx x u).engines = s.engines := (rfl)
@[simp] theorem State.setCtx_skews (s : State) (x : Nat) (u : CtxUnit) : (s.setCtx x u).skews = s.skews := (rfl)
@[simp] theorem State.setCtx_buses (s : State) (x : Nat) (u : CtxUnit) : (s.setCtx x u).buses = s.buses := (rfl)
@[simp] theorem State.setCtx_mdioQ (s : State) (x : Nat) (u : CtxUnit) : (s.setCtx x u).mdioQ = s.mdioQ := (rfl)
@[simp] theorem State.setCtx_mdioAt (s : State) (x : Nat) (u : CtxUnit) : (s.setCtx x u).mdioAt = s.mdioAt := (rfl)
@[simp] theorem State.setCtx_evf (s : State) (x : Nat) (u : CtxUnit) : (s.setCtx x u).evf = s.evf := (rfl)
@[simp] theorem State.setCtx_irc (s : State) (x : Nat) (u : CtxUnit) : (s.setCtx x u).irc = s.irc := (rfl)
@[simp] theorem State.setCtx_safe (s : State) (x : Nat) (u : CtxUnit) : (s.setCtx x u).safe = s.safe := (rfl)
@[simp] theorem State.setCtx_keys (s : State) (x : Nat) (u : CtxUnit) : (s.setCtx x u).keys = s.keys := (rfl)
@[simp] theorem State.setCtx_barriers (s : State) (x : Nat) (u : CtxUnit) : (s.setCtx x u).barriers = s.barriers := (rfl)
@[simp] theorem State.setCtx_demand (s : State) (x : Nat) (u : CtxUnit) : (s.setCtx x u).demand = s.demand := (rfl)
@[simp] theorem State.setCtx_umb (s : State) (x : Nat) (u : CtxUnit) : (s.setCtx x u).umb = s.umb := (rfl)
@[simp] theorem State.setCtx_saf (s : State) (x : Nat) (u : CtxUnit) : (s.setCtx x u).saf = s.saf := (rfl)
@[simp] theorem State.setCtx_shadows (s : State) (x : Nat) (u : CtxUnit) : (s.setCtx x u).shadows = s.shadows := (rfl)
@[simp] theorem State.setCtx_tlinks (s : State) (x : Nat) (u : CtxUnit) : (s.setCtx x u).tlinks = s.tlinks := (rfl)
@[simp] theorem State.setCtx_ports (s : State) (x : Nat) (u : CtxUnit) : (s.setCtx x u).ports = s.ports := (rfl)
@[simp] theorem State.setCtx_plans (s : State) (x : Nat) (u : CtxUnit) : (s.setCtx x u).plans = s.plans := (rfl)
@[simp] theorem State.setCtx_logs (s : State) (x : Nat) (u : CtxUnit) : (s.setCtx x u).logs = s.logs := (rfl)
@[simp] theorem State.setCtx_uds (s : State) (x : Nat) (u : CtxUnit) : (s.setCtx x u).uds = s.uds := (rfl)
@[simp] theorem State.setCtx_keyQ (s : State) (x : Nat) (u : CtxUnit) : (s.setCtx x u).keyQ = s.keyQ := (rfl)
@[simp] theorem State.setCtx_rings (s : State) (x : Nat) (u : CtxUnit) : (s.setCtx x u).rings = s.rings := (rfl)
@[simp] theorem State.setCtx_lakeAt (s : State) (x : Nat) (u : CtxUnit) : (s.setCtx x u).lakeAt = s.lakeAt := (rfl)
@[simp] theorem State.setCtx_lakeEpoch (s : State) (x : Nat) (u : CtxUnit) : (s.setCtx x u).lakeEpoch = s.lakeEpoch := (rfl)
@[simp] theorem State.setCtx_opAt (s : State) (x : Nat) (u : CtxUnit) : (s.setCtx x u).opAt = s.opAt := (rfl)
@[simp] theorem State.setCtx_banks (s : State) (x : Nat) (u : CtxUnit) : (s.setCtx x u).banks = s.banks := (rfl)
@[simp] theorem State.setCtx_nvm (s : State) (x : Nat) (u : CtxUnit) : (s.setCtx x u).nvm = s.nvm := (rfl)
@[simp] theorem State.setCtx_dramDead (s : State) (x : Nat) (u : CtxUnit) : (s.setCtx x u).dramDead = s.dramDead := (rfl)
@[simp] theorem State.setCtx_dramBad (s : State) (x : Nat) (u : CtxUnit) : (s.setCtx x u).dramBad = s.dramBad := (rfl)
@[simp] theorem State.setCtx_pending (s : State) (x : Nat) (u : CtxUnit) : (s.setCtx x u).pending = s.pending := (rfl)
@[simp] theorem State.setAcqU_get (s : State) (c : Nat) (u : AcqUnit) (f : Fld) (j : Nat) : (s.setAcqU c u).get f j = s.get f j := (rfl)
@[simp] theorem State.setAcqU_self (s : State) (c : Nat) (u : AcqUnit) : (s.setAcqU c u).acqU c = u := by simp [State.setAcqU, State.acqU]
theorem State.setAcqU_ne (s : State) (c : Nat) (u : AcqUnit) (y : Nat) (h : y ≠ c) : (s.setAcqU c u).acqU y = s.acqU y := by
  simp [State.setAcqU, State.acqU, Tab.get_set, h]
@[simp] theorem State.setAcqU_regs (s : State) (c : Nat) (u : AcqUnit) : (s.setAcqU c u).regs = s.regs := (rfl)
@[simp] theorem State.setAcqU_tick (s : State) (c : Nat) (u : AcqUnit) : (s.setAcqU c u).tick = s.tick := (rfl)
@[simp] theorem State.setAcqU_free (s : State) (c : Nat) (u : AcqUnit) : (s.setAcqU c u).free = s.free := (rfl)
@[simp] theorem State.setAcqU_epoch (s : State) (c : Nat) (u : AcqUnit) : (s.setAcqU c u).epoch = s.epoch := (rfl)
@[simp] theorem State.setAcqU_dram (s : State) (c : Nat) (u : AcqUnit) : (s.setAcqU c u).dram = s.dram := (rfl)
@[simp] theorem State.setAcqU_dramZero (s : State) (c : Nat) (u : AcqUnit) : (s.setAcqU c u).dramZero = s.dramZero := (rfl)
@[simp] theorem State.setAcqU_lake (s : State) (c : Nat) (u : AcqUnit) : (s.setAcqU c u).lake = s.lake := (rfl)
@[simp] theorem State.setAcqU_readData (s : State) (c : Nat) (u : AcqUnit) : (s.setAcqU c u).readData = s.readData := (rfl)
@[simp] theorem State.setAcqU_out (s : State) (c : Nat) (u : AcqUnit) : (s.setAcqU c u).out = s.out := (rfl)
@[simp] theorem State.setAcqU_pins (s : State) (c : Nat) (u : AcqUnit) : (s.setAcqU c u).pins = s.pins := (rfl)
@[simp] theorem State.setAcqU_pwr (s : State) (c : Nat) (u : AcqUnit) : (s.setAcqU c u).pwr = s.pwr := (rfl)
@[simp] theorem State.setAcqU_ldr (s : State) (c : Nat) (u : AcqUnit) : (s.setAcqU c u).ldr = s.ldr := (rfl)
@[simp] theorem State.setAcqU_img (s : State) (c : Nat) (u : AcqUnit) : (s.setAcqU c u).img = s.img := (rfl)
@[simp] theorem State.setAcqU_sites (s : State) (c : Nat) (u : AcqUnit) : (s.setAcqU c u).sites = s.sites := (rfl)
@[simp] theorem State.setAcqU_slices (s : State) (c : Nat) (u : AcqUnit) : (s.setAcqU c u).slices = s.slices := (rfl)
@[simp] theorem State.setAcqU_grans (s : State) (c : Nat) (u : AcqUnit) : (s.setAcqU c u).grans = s.grans := (rfl)
@[simp] theorem State.setAcqU_chans (s : State) (c : Nat) (u : AcqUnit) : (s.setAcqU c u).chans = s.chans := (rfl)
@[simp] theorem State.setAcqU_wave (s : State) (c : Nat) (u : AcqUnit) : (s.setAcqU c u).wave = s.wave := (rfl)
@[simp] theorem State.setAcqU_waveBad (s : State) (c : Nat) (u : AcqUnit) : (s.setAcqU c u).waveBad = s.waveBad := (rfl)
@[simp] theorem State.setAcqU_wfAcc (s : State) (c : Nat) (u : AcqUnit) : (s.setAcqU c u).wfAcc = s.wfAcc := (rfl)
@[simp] theorem State.setAcqU_ctxs (s : State) (c : Nat) (u : AcqUnit) : (s.setAcqU c u).ctxs = s.ctxs := (rfl)
@[simp] theorem State.setAcqU_tias (s : State) (c : Nat) (u : AcqUnit) : (s.setAcqU c u).tias = s.tias := (rfl)
@[simp] theorem State.setAcqU_trims (s : State) (c : Nat) (u : AcqUnit) : (s.setAcqU c u).trims = s.trims := (rfl)
@[simp] theorem State.setAcqU_engines (s : State) (c : Nat) (u : AcqUnit) : (s.setAcqU c u).engines = s.engines := (rfl)
@[simp] theorem State.setAcqU_skews (s : State) (c : Nat) (u : AcqUnit) : (s.setAcqU c u).skews = s.skews := (rfl)
@[simp] theorem State.setAcqU_buses (s : State) (c : Nat) (u : AcqUnit) : (s.setAcqU c u).buses = s.buses := (rfl)
@[simp] theorem State.setAcqU_mdioQ (s : State) (c : Nat) (u : AcqUnit) : (s.setAcqU c u).mdioQ = s.mdioQ := (rfl)
@[simp] theorem State.setAcqU_mdioAt (s : State) (c : Nat) (u : AcqUnit) : (s.setAcqU c u).mdioAt = s.mdioAt := (rfl)
@[simp] theorem State.setAcqU_evf (s : State) (c : Nat) (u : AcqUnit) : (s.setAcqU c u).evf = s.evf := (rfl)
@[simp] theorem State.setAcqU_irc (s : State) (c : Nat) (u : AcqUnit) : (s.setAcqU c u).irc = s.irc := (rfl)
@[simp] theorem State.setAcqU_safe (s : State) (c : Nat) (u : AcqUnit) : (s.setAcqU c u).safe = s.safe := (rfl)
@[simp] theorem State.setAcqU_keys (s : State) (c : Nat) (u : AcqUnit) : (s.setAcqU c u).keys = s.keys := (rfl)
@[simp] theorem State.setAcqU_barriers (s : State) (c : Nat) (u : AcqUnit) : (s.setAcqU c u).barriers = s.barriers := (rfl)
@[simp] theorem State.setAcqU_demand (s : State) (c : Nat) (u : AcqUnit) : (s.setAcqU c u).demand = s.demand := (rfl)
@[simp] theorem State.setAcqU_umb (s : State) (c : Nat) (u : AcqUnit) : (s.setAcqU c u).umb = s.umb := (rfl)
@[simp] theorem State.setAcqU_saf (s : State) (c : Nat) (u : AcqUnit) : (s.setAcqU c u).saf = s.saf := (rfl)
@[simp] theorem State.setAcqU_shadows (s : State) (c : Nat) (u : AcqUnit) : (s.setAcqU c u).shadows = s.shadows := (rfl)
@[simp] theorem State.setAcqU_tlinks (s : State) (c : Nat) (u : AcqUnit) : (s.setAcqU c u).tlinks = s.tlinks := (rfl)
@[simp] theorem State.setAcqU_ports (s : State) (c : Nat) (u : AcqUnit) : (s.setAcqU c u).ports = s.ports := (rfl)
@[simp] theorem State.setAcqU_plans (s : State) (c : Nat) (u : AcqUnit) : (s.setAcqU c u).plans = s.plans := (rfl)
@[simp] theorem State.setAcqU_logs (s : State) (c : Nat) (u : AcqUnit) : (s.setAcqU c u).logs = s.logs := (rfl)
@[simp] theorem State.setAcqU_uds (s : State) (c : Nat) (u : AcqUnit) : (s.setAcqU c u).uds = s.uds := (rfl)
@[simp] theorem State.setAcqU_keyQ (s : State) (c : Nat) (u : AcqUnit) : (s.setAcqU c u).keyQ = s.keyQ := (rfl)
@[simp] theorem State.setAcqU_rings (s : State) (c : Nat) (u : AcqUnit) : (s.setAcqU c u).rings = s.rings := (rfl)
@[simp] theorem State.setAcqU_lakeAt (s : State) (c : Nat) (u : AcqUnit) : (s.setAcqU c u).lakeAt = s.lakeAt := (rfl)
@[simp] theorem State.setAcqU_lakeEpoch (s : State) (c : Nat) (u : AcqUnit) : (s.setAcqU c u).lakeEpoch = s.lakeEpoch := (rfl)
@[simp] theorem State.setAcqU_opAt (s : State) (c : Nat) (u : AcqUnit) : (s.setAcqU c u).opAt = s.opAt := (rfl)
@[simp] theorem State.setAcqU_banks (s : State) (c : Nat) (u : AcqUnit) : (s.setAcqU c u).banks = s.banks := (rfl)
@[simp] theorem State.setAcqU_nvm (s : State) (c : Nat) (u : AcqUnit) : (s.setAcqU c u).nvm = s.nvm := (rfl)
@[simp] theorem State.setAcqU_dramDead (s : State) (c : Nat) (u : AcqUnit) : (s.setAcqU c u).dramDead = s.dramDead := (rfl)
@[simp] theorem State.setAcqU_dramBad (s : State) (c : Nat) (u : AcqUnit) : (s.setAcqU c u).dramBad = s.dramBad := (rfl)
@[simp] theorem State.setAcqU_pending (s : State) (c : Nat) (u : AcqUnit) : (s.setAcqU c u).pending = s.pending := (rfl)
@[simp] theorem State.setTiaU_get (s : State) (c : Nat) (u : TiaUnit) (f : Fld) (j : Nat) : (s.setTiaU c u).get f j = s.get f j := (rfl)
@[simp] theorem State.setTiaU_self (s : State) (c : Nat) (u : TiaUnit) : (s.setTiaU c u).tiaU c = u := by simp [State.setTiaU, State.tiaU]
theorem State.setTiaU_ne (s : State) (c : Nat) (u : TiaUnit) (y : Nat) (h : y ≠ c) : (s.setTiaU c u).tiaU y = s.tiaU y := by
  simp [State.setTiaU, State.tiaU, Tab.get_set, h]
@[simp] theorem State.setTiaU_regs (s : State) (c : Nat) (u : TiaUnit) : (s.setTiaU c u).regs = s.regs := (rfl)
@[simp] theorem State.setTiaU_tick (s : State) (c : Nat) (u : TiaUnit) : (s.setTiaU c u).tick = s.tick := (rfl)
@[simp] theorem State.setTiaU_free (s : State) (c : Nat) (u : TiaUnit) : (s.setTiaU c u).free = s.free := (rfl)
@[simp] theorem State.setTiaU_epoch (s : State) (c : Nat) (u : TiaUnit) : (s.setTiaU c u).epoch = s.epoch := (rfl)
@[simp] theorem State.setTiaU_dram (s : State) (c : Nat) (u : TiaUnit) : (s.setTiaU c u).dram = s.dram := (rfl)
@[simp] theorem State.setTiaU_dramZero (s : State) (c : Nat) (u : TiaUnit) : (s.setTiaU c u).dramZero = s.dramZero := (rfl)
@[simp] theorem State.setTiaU_lake (s : State) (c : Nat) (u : TiaUnit) : (s.setTiaU c u).lake = s.lake := (rfl)
@[simp] theorem State.setTiaU_readData (s : State) (c : Nat) (u : TiaUnit) : (s.setTiaU c u).readData = s.readData := (rfl)
@[simp] theorem State.setTiaU_out (s : State) (c : Nat) (u : TiaUnit) : (s.setTiaU c u).out = s.out := (rfl)
@[simp] theorem State.setTiaU_pins (s : State) (c : Nat) (u : TiaUnit) : (s.setTiaU c u).pins = s.pins := (rfl)
@[simp] theorem State.setTiaU_pwr (s : State) (c : Nat) (u : TiaUnit) : (s.setTiaU c u).pwr = s.pwr := (rfl)
@[simp] theorem State.setTiaU_ldr (s : State) (c : Nat) (u : TiaUnit) : (s.setTiaU c u).ldr = s.ldr := (rfl)
@[simp] theorem State.setTiaU_img (s : State) (c : Nat) (u : TiaUnit) : (s.setTiaU c u).img = s.img := (rfl)
@[simp] theorem State.setTiaU_sites (s : State) (c : Nat) (u : TiaUnit) : (s.setTiaU c u).sites = s.sites := (rfl)
@[simp] theorem State.setTiaU_slices (s : State) (c : Nat) (u : TiaUnit) : (s.setTiaU c u).slices = s.slices := (rfl)
@[simp] theorem State.setTiaU_grans (s : State) (c : Nat) (u : TiaUnit) : (s.setTiaU c u).grans = s.grans := (rfl)
@[simp] theorem State.setTiaU_chans (s : State) (c : Nat) (u : TiaUnit) : (s.setTiaU c u).chans = s.chans := (rfl)
@[simp] theorem State.setTiaU_wave (s : State) (c : Nat) (u : TiaUnit) : (s.setTiaU c u).wave = s.wave := (rfl)
@[simp] theorem State.setTiaU_waveBad (s : State) (c : Nat) (u : TiaUnit) : (s.setTiaU c u).waveBad = s.waveBad := (rfl)
@[simp] theorem State.setTiaU_wfAcc (s : State) (c : Nat) (u : TiaUnit) : (s.setTiaU c u).wfAcc = s.wfAcc := (rfl)
@[simp] theorem State.setTiaU_ctxs (s : State) (c : Nat) (u : TiaUnit) : (s.setTiaU c u).ctxs = s.ctxs := (rfl)
@[simp] theorem State.setTiaU_acqs (s : State) (c : Nat) (u : TiaUnit) : (s.setTiaU c u).acqs = s.acqs := (rfl)
@[simp] theorem State.setTiaU_trims (s : State) (c : Nat) (u : TiaUnit) : (s.setTiaU c u).trims = s.trims := (rfl)
@[simp] theorem State.setTiaU_engines (s : State) (c : Nat) (u : TiaUnit) : (s.setTiaU c u).engines = s.engines := (rfl)
@[simp] theorem State.setTiaU_skews (s : State) (c : Nat) (u : TiaUnit) : (s.setTiaU c u).skews = s.skews := (rfl)
@[simp] theorem State.setTiaU_buses (s : State) (c : Nat) (u : TiaUnit) : (s.setTiaU c u).buses = s.buses := (rfl)
@[simp] theorem State.setTiaU_mdioQ (s : State) (c : Nat) (u : TiaUnit) : (s.setTiaU c u).mdioQ = s.mdioQ := (rfl)
@[simp] theorem State.setTiaU_mdioAt (s : State) (c : Nat) (u : TiaUnit) : (s.setTiaU c u).mdioAt = s.mdioAt := (rfl)
@[simp] theorem State.setTiaU_evf (s : State) (c : Nat) (u : TiaUnit) : (s.setTiaU c u).evf = s.evf := (rfl)
@[simp] theorem State.setTiaU_irc (s : State) (c : Nat) (u : TiaUnit) : (s.setTiaU c u).irc = s.irc := (rfl)
@[simp] theorem State.setTiaU_safe (s : State) (c : Nat) (u : TiaUnit) : (s.setTiaU c u).safe = s.safe := (rfl)
@[simp] theorem State.setTiaU_keys (s : State) (c : Nat) (u : TiaUnit) : (s.setTiaU c u).keys = s.keys := (rfl)
@[simp] theorem State.setTiaU_barriers (s : State) (c : Nat) (u : TiaUnit) : (s.setTiaU c u).barriers = s.barriers := (rfl)
@[simp] theorem State.setTiaU_demand (s : State) (c : Nat) (u : TiaUnit) : (s.setTiaU c u).demand = s.demand := (rfl)
@[simp] theorem State.setTiaU_umb (s : State) (c : Nat) (u : TiaUnit) : (s.setTiaU c u).umb = s.umb := (rfl)
@[simp] theorem State.setTiaU_saf (s : State) (c : Nat) (u : TiaUnit) : (s.setTiaU c u).saf = s.saf := (rfl)
@[simp] theorem State.setTiaU_shadows (s : State) (c : Nat) (u : TiaUnit) : (s.setTiaU c u).shadows = s.shadows := (rfl)
@[simp] theorem State.setTiaU_tlinks (s : State) (c : Nat) (u : TiaUnit) : (s.setTiaU c u).tlinks = s.tlinks := (rfl)
@[simp] theorem State.setTiaU_ports (s : State) (c : Nat) (u : TiaUnit) : (s.setTiaU c u).ports = s.ports := (rfl)
@[simp] theorem State.setTiaU_plans (s : State) (c : Nat) (u : TiaUnit) : (s.setTiaU c u).plans = s.plans := (rfl)
@[simp] theorem State.setTiaU_logs (s : State) (c : Nat) (u : TiaUnit) : (s.setTiaU c u).logs = s.logs := (rfl)
@[simp] theorem State.setTiaU_uds (s : State) (c : Nat) (u : TiaUnit) : (s.setTiaU c u).uds = s.uds := (rfl)
@[simp] theorem State.setTiaU_keyQ (s : State) (c : Nat) (u : TiaUnit) : (s.setTiaU c u).keyQ = s.keyQ := (rfl)
@[simp] theorem State.setTiaU_rings (s : State) (c : Nat) (u : TiaUnit) : (s.setTiaU c u).rings = s.rings := (rfl)
@[simp] theorem State.setTiaU_lakeAt (s : State) (c : Nat) (u : TiaUnit) : (s.setTiaU c u).lakeAt = s.lakeAt := (rfl)
@[simp] theorem State.setTiaU_lakeEpoch (s : State) (c : Nat) (u : TiaUnit) : (s.setTiaU c u).lakeEpoch = s.lakeEpoch := (rfl)
@[simp] theorem State.setTiaU_opAt (s : State) (c : Nat) (u : TiaUnit) : (s.setTiaU c u).opAt = s.opAt := (rfl)
@[simp] theorem State.setTiaU_banks (s : State) (c : Nat) (u : TiaUnit) : (s.setTiaU c u).banks = s.banks := (rfl)
@[simp] theorem State.setTiaU_nvm (s : State) (c : Nat) (u : TiaUnit) : (s.setTiaU c u).nvm = s.nvm := (rfl)
@[simp] theorem State.setTiaU_dramDead (s : State) (c : Nat) (u : TiaUnit) : (s.setTiaU c u).dramDead = s.dramDead := (rfl)
@[simp] theorem State.setTiaU_dramBad (s : State) (c : Nat) (u : TiaUnit) : (s.setTiaU c u).dramBad = s.dramBad := (rfl)
@[simp] theorem State.setTiaU_pending (s : State) (c : Nat) (u : TiaUnit) : (s.setTiaU c u).pending = s.pending := (rfl)
@[simp] theorem State.setTrimU_get (s : State) (c : Nat) (u : TrimUnit) (f : Fld) (j : Nat) : (s.setTrimU c u).get f j = s.get f j := (rfl)
@[simp] theorem State.setTrimU_self (s : State) (c : Nat) (u : TrimUnit) : (s.setTrimU c u).trimU c = u := by simp [State.setTrimU, State.trimU]
theorem State.setTrimU_ne (s : State) (c : Nat) (u : TrimUnit) (y : Nat) (h : y ≠ c) : (s.setTrimU c u).trimU y = s.trimU y := by
  simp [State.setTrimU, State.trimU, Tab.get_set, h]
@[simp] theorem State.setTrimU_regs (s : State) (c : Nat) (u : TrimUnit) : (s.setTrimU c u).regs = s.regs := (rfl)
@[simp] theorem State.setTrimU_tick (s : State) (c : Nat) (u : TrimUnit) : (s.setTrimU c u).tick = s.tick := (rfl)
@[simp] theorem State.setTrimU_free (s : State) (c : Nat) (u : TrimUnit) : (s.setTrimU c u).free = s.free := (rfl)
@[simp] theorem State.setTrimU_epoch (s : State) (c : Nat) (u : TrimUnit) : (s.setTrimU c u).epoch = s.epoch := (rfl)
@[simp] theorem State.setTrimU_dram (s : State) (c : Nat) (u : TrimUnit) : (s.setTrimU c u).dram = s.dram := (rfl)
@[simp] theorem State.setTrimU_dramZero (s : State) (c : Nat) (u : TrimUnit) : (s.setTrimU c u).dramZero = s.dramZero := (rfl)
@[simp] theorem State.setTrimU_lake (s : State) (c : Nat) (u : TrimUnit) : (s.setTrimU c u).lake = s.lake := (rfl)
@[simp] theorem State.setTrimU_readData (s : State) (c : Nat) (u : TrimUnit) : (s.setTrimU c u).readData = s.readData := (rfl)
@[simp] theorem State.setTrimU_out (s : State) (c : Nat) (u : TrimUnit) : (s.setTrimU c u).out = s.out := (rfl)
@[simp] theorem State.setTrimU_pins (s : State) (c : Nat) (u : TrimUnit) : (s.setTrimU c u).pins = s.pins := (rfl)
@[simp] theorem State.setTrimU_pwr (s : State) (c : Nat) (u : TrimUnit) : (s.setTrimU c u).pwr = s.pwr := (rfl)
@[simp] theorem State.setTrimU_ldr (s : State) (c : Nat) (u : TrimUnit) : (s.setTrimU c u).ldr = s.ldr := (rfl)
@[simp] theorem State.setTrimU_img (s : State) (c : Nat) (u : TrimUnit) : (s.setTrimU c u).img = s.img := (rfl)
@[simp] theorem State.setTrimU_sites (s : State) (c : Nat) (u : TrimUnit) : (s.setTrimU c u).sites = s.sites := (rfl)
@[simp] theorem State.setTrimU_slices (s : State) (c : Nat) (u : TrimUnit) : (s.setTrimU c u).slices = s.slices := (rfl)
@[simp] theorem State.setTrimU_grans (s : State) (c : Nat) (u : TrimUnit) : (s.setTrimU c u).grans = s.grans := (rfl)
@[simp] theorem State.setTrimU_chans (s : State) (c : Nat) (u : TrimUnit) : (s.setTrimU c u).chans = s.chans := (rfl)
@[simp] theorem State.setTrimU_wave (s : State) (c : Nat) (u : TrimUnit) : (s.setTrimU c u).wave = s.wave := (rfl)
@[simp] theorem State.setTrimU_waveBad (s : State) (c : Nat) (u : TrimUnit) : (s.setTrimU c u).waveBad = s.waveBad := (rfl)
@[simp] theorem State.setTrimU_wfAcc (s : State) (c : Nat) (u : TrimUnit) : (s.setTrimU c u).wfAcc = s.wfAcc := (rfl)
@[simp] theorem State.setTrimU_ctxs (s : State) (c : Nat) (u : TrimUnit) : (s.setTrimU c u).ctxs = s.ctxs := (rfl)
@[simp] theorem State.setTrimU_acqs (s : State) (c : Nat) (u : TrimUnit) : (s.setTrimU c u).acqs = s.acqs := (rfl)
@[simp] theorem State.setTrimU_tias (s : State) (c : Nat) (u : TrimUnit) : (s.setTrimU c u).tias = s.tias := (rfl)
@[simp] theorem State.setTrimU_engines (s : State) (c : Nat) (u : TrimUnit) : (s.setTrimU c u).engines = s.engines := (rfl)
@[simp] theorem State.setTrimU_skews (s : State) (c : Nat) (u : TrimUnit) : (s.setTrimU c u).skews = s.skews := (rfl)
@[simp] theorem State.setTrimU_buses (s : State) (c : Nat) (u : TrimUnit) : (s.setTrimU c u).buses = s.buses := (rfl)
@[simp] theorem State.setTrimU_mdioQ (s : State) (c : Nat) (u : TrimUnit) : (s.setTrimU c u).mdioQ = s.mdioQ := (rfl)
@[simp] theorem State.setTrimU_mdioAt (s : State) (c : Nat) (u : TrimUnit) : (s.setTrimU c u).mdioAt = s.mdioAt := (rfl)
@[simp] theorem State.setTrimU_evf (s : State) (c : Nat) (u : TrimUnit) : (s.setTrimU c u).evf = s.evf := (rfl)
@[simp] theorem State.setTrimU_irc (s : State) (c : Nat) (u : TrimUnit) : (s.setTrimU c u).irc = s.irc := (rfl)
@[simp] theorem State.setTrimU_safe (s : State) (c : Nat) (u : TrimUnit) : (s.setTrimU c u).safe = s.safe := (rfl)
@[simp] theorem State.setTrimU_keys (s : State) (c : Nat) (u : TrimUnit) : (s.setTrimU c u).keys = s.keys := (rfl)
@[simp] theorem State.setTrimU_barriers (s : State) (c : Nat) (u : TrimUnit) : (s.setTrimU c u).barriers = s.barriers := (rfl)
@[simp] theorem State.setTrimU_demand (s : State) (c : Nat) (u : TrimUnit) : (s.setTrimU c u).demand = s.demand := (rfl)
@[simp] theorem State.setTrimU_umb (s : State) (c : Nat) (u : TrimUnit) : (s.setTrimU c u).umb = s.umb := (rfl)
@[simp] theorem State.setTrimU_saf (s : State) (c : Nat) (u : TrimUnit) : (s.setTrimU c u).saf = s.saf := (rfl)
@[simp] theorem State.setTrimU_shadows (s : State) (c : Nat) (u : TrimUnit) : (s.setTrimU c u).shadows = s.shadows := (rfl)
@[simp] theorem State.setTrimU_tlinks (s : State) (c : Nat) (u : TrimUnit) : (s.setTrimU c u).tlinks = s.tlinks := (rfl)
@[simp] theorem State.setTrimU_ports (s : State) (c : Nat) (u : TrimUnit) : (s.setTrimU c u).ports = s.ports := (rfl)
@[simp] theorem State.setTrimU_plans (s : State) (c : Nat) (u : TrimUnit) : (s.setTrimU c u).plans = s.plans := (rfl)
@[simp] theorem State.setTrimU_logs (s : State) (c : Nat) (u : TrimUnit) : (s.setTrimU c u).logs = s.logs := (rfl)
@[simp] theorem State.setTrimU_uds (s : State) (c : Nat) (u : TrimUnit) : (s.setTrimU c u).uds = s.uds := (rfl)
@[simp] theorem State.setTrimU_keyQ (s : State) (c : Nat) (u : TrimUnit) : (s.setTrimU c u).keyQ = s.keyQ := (rfl)
@[simp] theorem State.setTrimU_rings (s : State) (c : Nat) (u : TrimUnit) : (s.setTrimU c u).rings = s.rings := (rfl)
@[simp] theorem State.setTrimU_lakeAt (s : State) (c : Nat) (u : TrimUnit) : (s.setTrimU c u).lakeAt = s.lakeAt := (rfl)
@[simp] theorem State.setTrimU_lakeEpoch (s : State) (c : Nat) (u : TrimUnit) : (s.setTrimU c u).lakeEpoch = s.lakeEpoch := (rfl)
@[simp] theorem State.setTrimU_opAt (s : State) (c : Nat) (u : TrimUnit) : (s.setTrimU c u).opAt = s.opAt := (rfl)
@[simp] theorem State.setTrimU_banks (s : State) (c : Nat) (u : TrimUnit) : (s.setTrimU c u).banks = s.banks := (rfl)
@[simp] theorem State.setTrimU_nvm (s : State) (c : Nat) (u : TrimUnit) : (s.setTrimU c u).nvm = s.nvm := (rfl)
@[simp] theorem State.setTrimU_dramDead (s : State) (c : Nat) (u : TrimUnit) : (s.setTrimU c u).dramDead = s.dramDead := (rfl)
@[simp] theorem State.setTrimU_dramBad (s : State) (c : Nat) (u : TrimUnit) : (s.setTrimU c u).dramBad = s.dramBad := (rfl)
@[simp] theorem State.setTrimU_pending (s : State) (c : Nat) (u : TrimUnit) : (s.setTrimU c u).pending = s.pending := (rfl)
@[simp] theorem State.setEngine_get (s : State) (q : Nat) (u : TrimEngine) (f : Fld) (j : Nat) : (s.setEngine q u).get f j = s.get f j := (rfl)
@[simp] theorem State.setEngine_self (s : State) (q : Nat) (u : TrimEngine) : (s.setEngine q u).engine q = u := by simp [State.setEngine, State.engine]
theorem State.setEngine_ne (s : State) (q : Nat) (u : TrimEngine) (y : Nat) (h : y ≠ q) : (s.setEngine q u).engine y = s.engine y := by
  simp [State.setEngine, State.engine, Tab.get_set, h]
@[simp] theorem State.setEngine_regs (s : State) (q : Nat) (u : TrimEngine) : (s.setEngine q u).regs = s.regs := (rfl)
@[simp] theorem State.setEngine_tick (s : State) (q : Nat) (u : TrimEngine) : (s.setEngine q u).tick = s.tick := (rfl)
@[simp] theorem State.setEngine_free (s : State) (q : Nat) (u : TrimEngine) : (s.setEngine q u).free = s.free := (rfl)
@[simp] theorem State.setEngine_epoch (s : State) (q : Nat) (u : TrimEngine) : (s.setEngine q u).epoch = s.epoch := (rfl)
@[simp] theorem State.setEngine_dram (s : State) (q : Nat) (u : TrimEngine) : (s.setEngine q u).dram = s.dram := (rfl)
@[simp] theorem State.setEngine_dramZero (s : State) (q : Nat) (u : TrimEngine) : (s.setEngine q u).dramZero = s.dramZero := (rfl)
@[simp] theorem State.setEngine_lake (s : State) (q : Nat) (u : TrimEngine) : (s.setEngine q u).lake = s.lake := (rfl)
@[simp] theorem State.setEngine_readData (s : State) (q : Nat) (u : TrimEngine) : (s.setEngine q u).readData = s.readData := (rfl)
@[simp] theorem State.setEngine_out (s : State) (q : Nat) (u : TrimEngine) : (s.setEngine q u).out = s.out := (rfl)
@[simp] theorem State.setEngine_pins (s : State) (q : Nat) (u : TrimEngine) : (s.setEngine q u).pins = s.pins := (rfl)
@[simp] theorem State.setEngine_pwr (s : State) (q : Nat) (u : TrimEngine) : (s.setEngine q u).pwr = s.pwr := (rfl)
@[simp] theorem State.setEngine_ldr (s : State) (q : Nat) (u : TrimEngine) : (s.setEngine q u).ldr = s.ldr := (rfl)
@[simp] theorem State.setEngine_img (s : State) (q : Nat) (u : TrimEngine) : (s.setEngine q u).img = s.img := (rfl)
@[simp] theorem State.setEngine_sites (s : State) (q : Nat) (u : TrimEngine) : (s.setEngine q u).sites = s.sites := (rfl)
@[simp] theorem State.setEngine_slices (s : State) (q : Nat) (u : TrimEngine) : (s.setEngine q u).slices = s.slices := (rfl)
@[simp] theorem State.setEngine_grans (s : State) (q : Nat) (u : TrimEngine) : (s.setEngine q u).grans = s.grans := (rfl)
@[simp] theorem State.setEngine_chans (s : State) (q : Nat) (u : TrimEngine) : (s.setEngine q u).chans = s.chans := (rfl)
@[simp] theorem State.setEngine_wave (s : State) (q : Nat) (u : TrimEngine) : (s.setEngine q u).wave = s.wave := (rfl)
@[simp] theorem State.setEngine_waveBad (s : State) (q : Nat) (u : TrimEngine) : (s.setEngine q u).waveBad = s.waveBad := (rfl)
@[simp] theorem State.setEngine_wfAcc (s : State) (q : Nat) (u : TrimEngine) : (s.setEngine q u).wfAcc = s.wfAcc := (rfl)
@[simp] theorem State.setEngine_ctxs (s : State) (q : Nat) (u : TrimEngine) : (s.setEngine q u).ctxs = s.ctxs := (rfl)
@[simp] theorem State.setEngine_acqs (s : State) (q : Nat) (u : TrimEngine) : (s.setEngine q u).acqs = s.acqs := (rfl)
@[simp] theorem State.setEngine_tias (s : State) (q : Nat) (u : TrimEngine) : (s.setEngine q u).tias = s.tias := (rfl)
@[simp] theorem State.setEngine_trims (s : State) (q : Nat) (u : TrimEngine) : (s.setEngine q u).trims = s.trims := (rfl)
@[simp] theorem State.setEngine_skews (s : State) (q : Nat) (u : TrimEngine) : (s.setEngine q u).skews = s.skews := (rfl)
@[simp] theorem State.setEngine_buses (s : State) (q : Nat) (u : TrimEngine) : (s.setEngine q u).buses = s.buses := (rfl)
@[simp] theorem State.setEngine_mdioQ (s : State) (q : Nat) (u : TrimEngine) : (s.setEngine q u).mdioQ = s.mdioQ := (rfl)
@[simp] theorem State.setEngine_mdioAt (s : State) (q : Nat) (u : TrimEngine) : (s.setEngine q u).mdioAt = s.mdioAt := (rfl)
@[simp] theorem State.setEngine_evf (s : State) (q : Nat) (u : TrimEngine) : (s.setEngine q u).evf = s.evf := (rfl)
@[simp] theorem State.setEngine_irc (s : State) (q : Nat) (u : TrimEngine) : (s.setEngine q u).irc = s.irc := (rfl)
@[simp] theorem State.setEngine_safe (s : State) (q : Nat) (u : TrimEngine) : (s.setEngine q u).safe = s.safe := (rfl)
@[simp] theorem State.setEngine_keys (s : State) (q : Nat) (u : TrimEngine) : (s.setEngine q u).keys = s.keys := (rfl)
@[simp] theorem State.setEngine_barriers (s : State) (q : Nat) (u : TrimEngine) : (s.setEngine q u).barriers = s.barriers := (rfl)
@[simp] theorem State.setEngine_demand (s : State) (q : Nat) (u : TrimEngine) : (s.setEngine q u).demand = s.demand := (rfl)
@[simp] theorem State.setEngine_umb (s : State) (q : Nat) (u : TrimEngine) : (s.setEngine q u).umb = s.umb := (rfl)
@[simp] theorem State.setEngine_saf (s : State) (q : Nat) (u : TrimEngine) : (s.setEngine q u).saf = s.saf := (rfl)
@[simp] theorem State.setEngine_shadows (s : State) (q : Nat) (u : TrimEngine) : (s.setEngine q u).shadows = s.shadows := (rfl)
@[simp] theorem State.setEngine_tlinks (s : State) (q : Nat) (u : TrimEngine) : (s.setEngine q u).tlinks = s.tlinks := (rfl)
@[simp] theorem State.setEngine_ports (s : State) (q : Nat) (u : TrimEngine) : (s.setEngine q u).ports = s.ports := (rfl)
@[simp] theorem State.setEngine_plans (s : State) (q : Nat) (u : TrimEngine) : (s.setEngine q u).plans = s.plans := (rfl)
@[simp] theorem State.setEngine_logs (s : State) (q : Nat) (u : TrimEngine) : (s.setEngine q u).logs = s.logs := (rfl)
@[simp] theorem State.setEngine_uds (s : State) (q : Nat) (u : TrimEngine) : (s.setEngine q u).uds = s.uds := (rfl)
@[simp] theorem State.setEngine_keyQ (s : State) (q : Nat) (u : TrimEngine) : (s.setEngine q u).keyQ = s.keyQ := (rfl)
@[simp] theorem State.setEngine_rings (s : State) (q : Nat) (u : TrimEngine) : (s.setEngine q u).rings = s.rings := (rfl)
@[simp] theorem State.setEngine_lakeAt (s : State) (q : Nat) (u : TrimEngine) : (s.setEngine q u).lakeAt = s.lakeAt := (rfl)
@[simp] theorem State.setEngine_lakeEpoch (s : State) (q : Nat) (u : TrimEngine) : (s.setEngine q u).lakeEpoch = s.lakeEpoch := (rfl)
@[simp] theorem State.setEngine_opAt (s : State) (q : Nat) (u : TrimEngine) : (s.setEngine q u).opAt = s.opAt := (rfl)
@[simp] theorem State.setEngine_banks (s : State) (q : Nat) (u : TrimEngine) : (s.setEngine q u).banks = s.banks := (rfl)
@[simp] theorem State.setEngine_nvm (s : State) (q : Nat) (u : TrimEngine) : (s.setEngine q u).nvm = s.nvm := (rfl)
@[simp] theorem State.setEngine_dramDead (s : State) (q : Nat) (u : TrimEngine) : (s.setEngine q u).dramDead = s.dramDead := (rfl)
@[simp] theorem State.setEngine_dramBad (s : State) (q : Nat) (u : TrimEngine) : (s.setEngine q u).dramBad = s.dramBad := (rfl)
@[simp] theorem State.setEngine_pending (s : State) (q : Nat) (u : TrimEngine) : (s.setEngine q u).pending = s.pending := (rfl)
@[simp] theorem State.setBus_get (s : State) (e : Nat) (u : BusUnit) (f : Fld) (j : Nat) : (s.setBus e u).get f j = s.get f j := (rfl)
@[simp] theorem State.setBus_self (s : State) (e : Nat) (u : BusUnit) : (s.setBus e u).bus e = u := by simp [State.setBus, State.bus]
theorem State.setBus_ne (s : State) (e : Nat) (u : BusUnit) (y : Nat) (h : y ≠ e) : (s.setBus e u).bus y = s.bus y := by
  simp [State.setBus, State.bus, Tab.get_set, h]
@[simp] theorem State.setBus_regs (s : State) (e : Nat) (u : BusUnit) : (s.setBus e u).regs = s.regs := (rfl)
@[simp] theorem State.setBus_tick (s : State) (e : Nat) (u : BusUnit) : (s.setBus e u).tick = s.tick := (rfl)
@[simp] theorem State.setBus_free (s : State) (e : Nat) (u : BusUnit) : (s.setBus e u).free = s.free := (rfl)
@[simp] theorem State.setBus_epoch (s : State) (e : Nat) (u : BusUnit) : (s.setBus e u).epoch = s.epoch := (rfl)
@[simp] theorem State.setBus_dram (s : State) (e : Nat) (u : BusUnit) : (s.setBus e u).dram = s.dram := (rfl)
@[simp] theorem State.setBus_dramZero (s : State) (e : Nat) (u : BusUnit) : (s.setBus e u).dramZero = s.dramZero := (rfl)
@[simp] theorem State.setBus_lake (s : State) (e : Nat) (u : BusUnit) : (s.setBus e u).lake = s.lake := (rfl)
@[simp] theorem State.setBus_readData (s : State) (e : Nat) (u : BusUnit) : (s.setBus e u).readData = s.readData := (rfl)
@[simp] theorem State.setBus_out (s : State) (e : Nat) (u : BusUnit) : (s.setBus e u).out = s.out := (rfl)
@[simp] theorem State.setBus_pins (s : State) (e : Nat) (u : BusUnit) : (s.setBus e u).pins = s.pins := (rfl)
@[simp] theorem State.setBus_pwr (s : State) (e : Nat) (u : BusUnit) : (s.setBus e u).pwr = s.pwr := (rfl)
@[simp] theorem State.setBus_ldr (s : State) (e : Nat) (u : BusUnit) : (s.setBus e u).ldr = s.ldr := (rfl)
@[simp] theorem State.setBus_img (s : State) (e : Nat) (u : BusUnit) : (s.setBus e u).img = s.img := (rfl)
@[simp] theorem State.setBus_sites (s : State) (e : Nat) (u : BusUnit) : (s.setBus e u).sites = s.sites := (rfl)
@[simp] theorem State.setBus_slices (s : State) (e : Nat) (u : BusUnit) : (s.setBus e u).slices = s.slices := (rfl)
@[simp] theorem State.setBus_grans (s : State) (e : Nat) (u : BusUnit) : (s.setBus e u).grans = s.grans := (rfl)
@[simp] theorem State.setBus_chans (s : State) (e : Nat) (u : BusUnit) : (s.setBus e u).chans = s.chans := (rfl)
@[simp] theorem State.setBus_wave (s : State) (e : Nat) (u : BusUnit) : (s.setBus e u).wave = s.wave := (rfl)
@[simp] theorem State.setBus_waveBad (s : State) (e : Nat) (u : BusUnit) : (s.setBus e u).waveBad = s.waveBad := (rfl)
@[simp] theorem State.setBus_wfAcc (s : State) (e : Nat) (u : BusUnit) : (s.setBus e u).wfAcc = s.wfAcc := (rfl)
@[simp] theorem State.setBus_ctxs (s : State) (e : Nat) (u : BusUnit) : (s.setBus e u).ctxs = s.ctxs := (rfl)
@[simp] theorem State.setBus_acqs (s : State) (e : Nat) (u : BusUnit) : (s.setBus e u).acqs = s.acqs := (rfl)
@[simp] theorem State.setBus_tias (s : State) (e : Nat) (u : BusUnit) : (s.setBus e u).tias = s.tias := (rfl)
@[simp] theorem State.setBus_trims (s : State) (e : Nat) (u : BusUnit) : (s.setBus e u).trims = s.trims := (rfl)
@[simp] theorem State.setBus_engines (s : State) (e : Nat) (u : BusUnit) : (s.setBus e u).engines = s.engines := (rfl)
@[simp] theorem State.setBus_skews (s : State) (e : Nat) (u : BusUnit) : (s.setBus e u).skews = s.skews := (rfl)
@[simp] theorem State.setBus_mdioQ (s : State) (e : Nat) (u : BusUnit) : (s.setBus e u).mdioQ = s.mdioQ := (rfl)
@[simp] theorem State.setBus_mdioAt (s : State) (e : Nat) (u : BusUnit) : (s.setBus e u).mdioAt = s.mdioAt := (rfl)
@[simp] theorem State.setBus_evf (s : State) (e : Nat) (u : BusUnit) : (s.setBus e u).evf = s.evf := (rfl)
@[simp] theorem State.setBus_irc (s : State) (e : Nat) (u : BusUnit) : (s.setBus e u).irc = s.irc := (rfl)
@[simp] theorem State.setBus_safe (s : State) (e : Nat) (u : BusUnit) : (s.setBus e u).safe = s.safe := (rfl)
@[simp] theorem State.setBus_keys (s : State) (e : Nat) (u : BusUnit) : (s.setBus e u).keys = s.keys := (rfl)
@[simp] theorem State.setBus_barriers (s : State) (e : Nat) (u : BusUnit) : (s.setBus e u).barriers = s.barriers := (rfl)
@[simp] theorem State.setBus_demand (s : State) (e : Nat) (u : BusUnit) : (s.setBus e u).demand = s.demand := (rfl)
@[simp] theorem State.setBus_umb (s : State) (e : Nat) (u : BusUnit) : (s.setBus e u).umb = s.umb := (rfl)
@[simp] theorem State.setBus_saf (s : State) (e : Nat) (u : BusUnit) : (s.setBus e u).saf = s.saf := (rfl)
@[simp] theorem State.setBus_shadows (s : State) (e : Nat) (u : BusUnit) : (s.setBus e u).shadows = s.shadows := (rfl)
@[simp] theorem State.setBus_tlinks (s : State) (e : Nat) (u : BusUnit) : (s.setBus e u).tlinks = s.tlinks := (rfl)
@[simp] theorem State.setBus_ports (s : State) (e : Nat) (u : BusUnit) : (s.setBus e u).ports = s.ports := (rfl)
@[simp] theorem State.setBus_plans (s : State) (e : Nat) (u : BusUnit) : (s.setBus e u).plans = s.plans := (rfl)
@[simp] theorem State.setBus_logs (s : State) (e : Nat) (u : BusUnit) : (s.setBus e u).logs = s.logs := (rfl)
@[simp] theorem State.setBus_uds (s : State) (e : Nat) (u : BusUnit) : (s.setBus e u).uds = s.uds := (rfl)
@[simp] theorem State.setBus_keyQ (s : State) (e : Nat) (u : BusUnit) : (s.setBus e u).keyQ = s.keyQ := (rfl)
@[simp] theorem State.setBus_rings (s : State) (e : Nat) (u : BusUnit) : (s.setBus e u).rings = s.rings := (rfl)
@[simp] theorem State.setBus_lakeAt (s : State) (e : Nat) (u : BusUnit) : (s.setBus e u).lakeAt = s.lakeAt := (rfl)
@[simp] theorem State.setBus_lakeEpoch (s : State) (e : Nat) (u : BusUnit) : (s.setBus e u).lakeEpoch = s.lakeEpoch := (rfl)
@[simp] theorem State.setBus_opAt (s : State) (e : Nat) (u : BusUnit) : (s.setBus e u).opAt = s.opAt := (rfl)
@[simp] theorem State.setBus_banks (s : State) (e : Nat) (u : BusUnit) : (s.setBus e u).banks = s.banks := (rfl)
@[simp] theorem State.setBus_nvm (s : State) (e : Nat) (u : BusUnit) : (s.setBus e u).nvm = s.nvm := (rfl)
@[simp] theorem State.setBus_dramDead (s : State) (e : Nat) (u : BusUnit) : (s.setBus e u).dramDead = s.dramDead := (rfl)
@[simp] theorem State.setBus_dramBad (s : State) (e : Nat) (u : BusUnit) : (s.setBus e u).dramBad = s.dramBad := (rfl)
@[simp] theorem State.setBus_pending (s : State) (e : Nat) (u : BusUnit) : (s.setBus e u).pending = s.pending := (rfl)
@[simp] theorem State.setPort_get (s : State) (p : Nat) (u : LinkPort) (f : Fld) (j : Nat) : (s.setPort p u).get f j = s.get f j := (rfl)
@[simp] theorem State.setPort_self (s : State) (p : Nat) (u : LinkPort) : (s.setPort p u).port p = u := by simp [State.setPort, State.port]
theorem State.setPort_ne (s : State) (p : Nat) (u : LinkPort) (y : Nat) (h : y ≠ p) : (s.setPort p u).port y = s.port y := by
  simp [State.setPort, State.port, Tab.get_set, h]
@[simp] theorem State.setPort_regs (s : State) (p : Nat) (u : LinkPort) : (s.setPort p u).regs = s.regs := (rfl)
@[simp] theorem State.setPort_tick (s : State) (p : Nat) (u : LinkPort) : (s.setPort p u).tick = s.tick := (rfl)
@[simp] theorem State.setPort_free (s : State) (p : Nat) (u : LinkPort) : (s.setPort p u).free = s.free := (rfl)
@[simp] theorem State.setPort_epoch (s : State) (p : Nat) (u : LinkPort) : (s.setPort p u).epoch = s.epoch := (rfl)
@[simp] theorem State.setPort_dram (s : State) (p : Nat) (u : LinkPort) : (s.setPort p u).dram = s.dram := (rfl)
@[simp] theorem State.setPort_dramZero (s : State) (p : Nat) (u : LinkPort) : (s.setPort p u).dramZero = s.dramZero := (rfl)
@[simp] theorem State.setPort_lake (s : State) (p : Nat) (u : LinkPort) : (s.setPort p u).lake = s.lake := (rfl)
@[simp] theorem State.setPort_readData (s : State) (p : Nat) (u : LinkPort) : (s.setPort p u).readData = s.readData := (rfl)
@[simp] theorem State.setPort_out (s : State) (p : Nat) (u : LinkPort) : (s.setPort p u).out = s.out := (rfl)
@[simp] theorem State.setPort_pins (s : State) (p : Nat) (u : LinkPort) : (s.setPort p u).pins = s.pins := (rfl)
@[simp] theorem State.setPort_pwr (s : State) (p : Nat) (u : LinkPort) : (s.setPort p u).pwr = s.pwr := (rfl)
@[simp] theorem State.setPort_ldr (s : State) (p : Nat) (u : LinkPort) : (s.setPort p u).ldr = s.ldr := (rfl)
@[simp] theorem State.setPort_img (s : State) (p : Nat) (u : LinkPort) : (s.setPort p u).img = s.img := (rfl)
@[simp] theorem State.setPort_sites (s : State) (p : Nat) (u : LinkPort) : (s.setPort p u).sites = s.sites := (rfl)
@[simp] theorem State.setPort_slices (s : State) (p : Nat) (u : LinkPort) : (s.setPort p u).slices = s.slices := (rfl)
@[simp] theorem State.setPort_grans (s : State) (p : Nat) (u : LinkPort) : (s.setPort p u).grans = s.grans := (rfl)
@[simp] theorem State.setPort_chans (s : State) (p : Nat) (u : LinkPort) : (s.setPort p u).chans = s.chans := (rfl)
@[simp] theorem State.setPort_wave (s : State) (p : Nat) (u : LinkPort) : (s.setPort p u).wave = s.wave := (rfl)
@[simp] theorem State.setPort_waveBad (s : State) (p : Nat) (u : LinkPort) : (s.setPort p u).waveBad = s.waveBad := (rfl)
@[simp] theorem State.setPort_wfAcc (s : State) (p : Nat) (u : LinkPort) : (s.setPort p u).wfAcc = s.wfAcc := (rfl)
@[simp] theorem State.setPort_ctxs (s : State) (p : Nat) (u : LinkPort) : (s.setPort p u).ctxs = s.ctxs := (rfl)
@[simp] theorem State.setPort_acqs (s : State) (p : Nat) (u : LinkPort) : (s.setPort p u).acqs = s.acqs := (rfl)
@[simp] theorem State.setPort_tias (s : State) (p : Nat) (u : LinkPort) : (s.setPort p u).tias = s.tias := (rfl)
@[simp] theorem State.setPort_trims (s : State) (p : Nat) (u : LinkPort) : (s.setPort p u).trims = s.trims := (rfl)
@[simp] theorem State.setPort_engines (s : State) (p : Nat) (u : LinkPort) : (s.setPort p u).engines = s.engines := (rfl)
@[simp] theorem State.setPort_skews (s : State) (p : Nat) (u : LinkPort) : (s.setPort p u).skews = s.skews := (rfl)
@[simp] theorem State.setPort_buses (s : State) (p : Nat) (u : LinkPort) : (s.setPort p u).buses = s.buses := (rfl)
@[simp] theorem State.setPort_mdioQ (s : State) (p : Nat) (u : LinkPort) : (s.setPort p u).mdioQ = s.mdioQ := (rfl)
@[simp] theorem State.setPort_mdioAt (s : State) (p : Nat) (u : LinkPort) : (s.setPort p u).mdioAt = s.mdioAt := (rfl)
@[simp] theorem State.setPort_evf (s : State) (p : Nat) (u : LinkPort) : (s.setPort p u).evf = s.evf := (rfl)
@[simp] theorem State.setPort_irc (s : State) (p : Nat) (u : LinkPort) : (s.setPort p u).irc = s.irc := (rfl)
@[simp] theorem State.setPort_safe (s : State) (p : Nat) (u : LinkPort) : (s.setPort p u).safe = s.safe := (rfl)
@[simp] theorem State.setPort_keys (s : State) (p : Nat) (u : LinkPort) : (s.setPort p u).keys = s.keys := (rfl)
@[simp] theorem State.setPort_barriers (s : State) (p : Nat) (u : LinkPort) : (s.setPort p u).barriers = s.barriers := (rfl)
@[simp] theorem State.setPort_demand (s : State) (p : Nat) (u : LinkPort) : (s.setPort p u).demand = s.demand := (rfl)
@[simp] theorem State.setPort_umb (s : State) (p : Nat) (u : LinkPort) : (s.setPort p u).umb = s.umb := (rfl)
@[simp] theorem State.setPort_saf (s : State) (p : Nat) (u : LinkPort) : (s.setPort p u).saf = s.saf := (rfl)
@[simp] theorem State.setPort_shadows (s : State) (p : Nat) (u : LinkPort) : (s.setPort p u).shadows = s.shadows := (rfl)
@[simp] theorem State.setPort_tlinks (s : State) (p : Nat) (u : LinkPort) : (s.setPort p u).tlinks = s.tlinks := (rfl)
@[simp] theorem State.setPort_plans (s : State) (p : Nat) (u : LinkPort) : (s.setPort p u).plans = s.plans := (rfl)
@[simp] theorem State.setPort_logs (s : State) (p : Nat) (u : LinkPort) : (s.setPort p u).logs = s.logs := (rfl)
@[simp] theorem State.setPort_uds (s : State) (p : Nat) (u : LinkPort) : (s.setPort p u).uds = s.uds := (rfl)
@[simp] theorem State.setPort_keyQ (s : State) (p : Nat) (u : LinkPort) : (s.setPort p u).keyQ = s.keyQ := (rfl)
@[simp] theorem State.setPort_rings (s : State) (p : Nat) (u : LinkPort) : (s.setPort p u).rings = s.rings := (rfl)
@[simp] theorem State.setPort_lakeAt (s : State) (p : Nat) (u : LinkPort) : (s.setPort p u).lakeAt = s.lakeAt := (rfl)
@[simp] theorem State.setPort_lakeEpoch (s : State) (p : Nat) (u : LinkPort) : (s.setPort p u).lakeEpoch = s.lakeEpoch := (rfl)
@[simp] theorem State.setPort_opAt (s : State) (p : Nat) (u : LinkPort) : (s.setPort p u).opAt = s.opAt := (rfl)
@[simp] theorem State.setPort_banks (s : State) (p : Nat) (u : LinkPort) : (s.setPort p u).banks = s.banks := (rfl)
@[simp] theorem State.setPort_nvm (s : State) (p : Nat) (u : LinkPort) : (s.setPort p u).nvm = s.nvm := (rfl)
@[simp] theorem State.setPort_dramDead (s : State) (p : Nat) (u : LinkPort) : (s.setPort p u).dramDead = s.dramDead := (rfl)
@[simp] theorem State.setPort_dramBad (s : State) (p : Nat) (u : LinkPort) : (s.setPort p u).dramBad = s.dramBad := (rfl)
@[simp] theorem State.setPort_pending (s : State) (p : Nat) (u : LinkPort) : (s.setPort p u).pending = s.pending := (rfl)
@[simp] theorem State.drew_get (s : State)  (f : Fld) (j : Nat) : (s.drew).get f j = s.get f j := (rfl)
@[simp] theorem State.drew_regs (s : State)  : (s.drew).regs = s.regs := (rfl)
@[simp] theorem State.drew_tick (s : State)  : (s.drew).tick = s.tick := (rfl)
@[simp] theorem State.drew_epoch (s : State)  : (s.drew).epoch = s.epoch := (rfl)
@[simp] theorem State.drew_dram (s : State)  : (s.drew).dram = s.dram := (rfl)
@[simp] theorem State.drew_dramZero (s : State)  : (s.drew).dramZero = s.dramZero := (rfl)
@[simp] theorem State.drew_lake (s : State)  : (s.drew).lake = s.lake := (rfl)
@[simp] theorem State.drew_readData (s : State)  : (s.drew).readData = s.readData := (rfl)
@[simp] theorem State.drew_out (s : State)  : (s.drew).out = s.out := (rfl)
@[simp] theorem State.drew_pins (s : State)  : (s.drew).pins = s.pins := (rfl)
@[simp] theorem State.drew_pwr (s : State)  : (s.drew).pwr = s.pwr := (rfl)
@[simp] theorem State.drew_ldr (s : State)  : (s.drew).ldr = s.ldr := (rfl)
@[simp] theorem State.drew_img (s : State)  : (s.drew).img = s.img := (rfl)
@[simp] theorem State.drew_sites (s : State)  : (s.drew).sites = s.sites := (rfl)
@[simp] theorem State.drew_slices (s : State)  : (s.drew).slices = s.slices := (rfl)
@[simp] theorem State.drew_grans (s : State)  : (s.drew).grans = s.grans := (rfl)
@[simp] theorem State.drew_chans (s : State)  : (s.drew).chans = s.chans := (rfl)
@[simp] theorem State.drew_wave (s : State)  : (s.drew).wave = s.wave := (rfl)
@[simp] theorem State.drew_waveBad (s : State)  : (s.drew).waveBad = s.waveBad := (rfl)
@[simp] theorem State.drew_wfAcc (s : State)  : (s.drew).wfAcc = s.wfAcc := (rfl)
@[simp] theorem State.drew_ctxs (s : State)  : (s.drew).ctxs = s.ctxs := (rfl)
@[simp] theorem State.drew_acqs (s : State)  : (s.drew).acqs = s.acqs := (rfl)
@[simp] theorem State.drew_tias (s : State)  : (s.drew).tias = s.tias := (rfl)
@[simp] theorem State.drew_trims (s : State)  : (s.drew).trims = s.trims := (rfl)
@[simp] theorem State.drew_engines (s : State)  : (s.drew).engines = s.engines := (rfl)
@[simp] theorem State.drew_skews (s : State)  : (s.drew).skews = s.skews := (rfl)
@[simp] theorem State.drew_buses (s : State)  : (s.drew).buses = s.buses := (rfl)
@[simp] theorem State.drew_mdioQ (s : State)  : (s.drew).mdioQ = s.mdioQ := (rfl)
@[simp] theorem State.drew_mdioAt (s : State)  : (s.drew).mdioAt = s.mdioAt := (rfl)
@[simp] theorem State.drew_evf (s : State)  : (s.drew).evf = s.evf := (rfl)
@[simp] theorem State.drew_irc (s : State)  : (s.drew).irc = s.irc := (rfl)
@[simp] theorem State.drew_safe (s : State)  : (s.drew).safe = s.safe := (rfl)
@[simp] theorem State.drew_keys (s : State)  : (s.drew).keys = s.keys := (rfl)
@[simp] theorem State.drew_barriers (s : State)  : (s.drew).barriers = s.barriers := (rfl)
@[simp] theorem State.drew_demand (s : State)  : (s.drew).demand = s.demand := (rfl)
@[simp] theorem State.drew_umb (s : State)  : (s.drew).umb = s.umb := (rfl)
@[simp] theorem State.drew_saf (s : State)  : (s.drew).saf = s.saf := (rfl)
@[simp] theorem State.drew_shadows (s : State)  : (s.drew).shadows = s.shadows := (rfl)
@[simp] theorem State.drew_tlinks (s : State)  : (s.drew).tlinks = s.tlinks := (rfl)
@[simp] theorem State.drew_ports (s : State)  : (s.drew).ports = s.ports := (rfl)
@[simp] theorem State.drew_plans (s : State)  : (s.drew).plans = s.plans := (rfl)
@[simp] theorem State.drew_logs (s : State)  : (s.drew).logs = s.logs := (rfl)
@[simp] theorem State.drew_uds (s : State)  : (s.drew).uds = s.uds := (rfl)
@[simp] theorem State.drew_keyQ (s : State)  : (s.drew).keyQ = s.keyQ := (rfl)
@[simp] theorem State.drew_rings (s : State)  : (s.drew).rings = s.rings := (rfl)
@[simp] theorem State.drew_lakeAt (s : State)  : (s.drew).lakeAt = s.lakeAt := (rfl)
@[simp] theorem State.drew_lakeEpoch (s : State)  : (s.drew).lakeEpoch = s.lakeEpoch := (rfl)
@[simp] theorem State.drew_opAt (s : State)  : (s.drew).opAt = s.opAt := (rfl)
@[simp] theorem State.drew_banks (s : State)  : (s.drew).banks = s.banks := (rfl)
@[simp] theorem State.drew_nvm (s : State)  : (s.drew).nvm = s.nvm := (rfl)
@[simp] theorem State.drew_dramDead (s : State)  : (s.drew).dramDead = s.dramDead := (rfl)
@[simp] theorem State.drew_dramBad (s : State)  : (s.drew).dramBad = s.dramBad := (rfl)
@[simp] theorem State.drew_pending (s : State)  : (s.drew).pending = s.pending := (rfl)
@[simp] theorem State.emit_get (s : State) (o : Output) (f : Fld) (j : Nat) : (s.emit o).get f j = s.get f j := (rfl)
@[simp] theorem State.emit_regs (s : State) (o : Output) : (s.emit o).regs = s.regs := (rfl)
@[simp] theorem State.emit_tick (s : State) (o : Output) : (s.emit o).tick = s.tick := (rfl)
@[simp] theorem State.emit_free (s : State) (o : Output) : (s.emit o).free = s.free := (rfl)
@[simp] theorem State.emit_epoch (s : State) (o : Output) : (s.emit o).epoch = s.epoch := (rfl)
@[simp] theorem State.emit_dram (s : State) (o : Output) : (s.emit o).dram = s.dram := (rfl)
@[simp] theorem State.emit_dramZero (s : State) (o : Output) : (s.emit o).dramZero = s.dramZero := (rfl)
@[simp] theorem State.emit_lake (s : State) (o : Output) : (s.emit o).lake = s.lake := (rfl)
@[simp] theorem State.emit_readData (s : State) (o : Output) : (s.emit o).readData = s.readData := (rfl)
@[simp] theorem State.emit_pins (s : State) (o : Output) : (s.emit o).pins = s.pins := (rfl)
@[simp] theorem State.emit_pwr (s : State) (o : Output) : (s.emit o).pwr = s.pwr := (rfl)
@[simp] theorem State.emit_ldr (s : State) (o : Output) : (s.emit o).ldr = s.ldr := (rfl)
@[simp] theorem State.emit_img (s : State) (o : Output) : (s.emit o).img = s.img := (rfl)
@[simp] theorem State.emit_sites (s : State) (o : Output) : (s.emit o).sites = s.sites := (rfl)
@[simp] theorem State.emit_slices (s : State) (o : Output) : (s.emit o).slices = s.slices := (rfl)
@[simp] theorem State.emit_grans (s : State) (o : Output) : (s.emit o).grans = s.grans := (rfl)
@[simp] theorem State.emit_chans (s : State) (o : Output) : (s.emit o).chans = s.chans := (rfl)
@[simp] theorem State.emit_wave (s : State) (o : Output) : (s.emit o).wave = s.wave := (rfl)
@[simp] theorem State.emit_waveBad (s : State) (o : Output) : (s.emit o).waveBad = s.waveBad := (rfl)
@[simp] theorem State.emit_wfAcc (s : State) (o : Output) : (s.emit o).wfAcc = s.wfAcc := (rfl)
@[simp] theorem State.emit_ctxs (s : State) (o : Output) : (s.emit o).ctxs = s.ctxs := (rfl)
@[simp] theorem State.emit_acqs (s : State) (o : Output) : (s.emit o).acqs = s.acqs := (rfl)
@[simp] theorem State.emit_tias (s : State) (o : Output) : (s.emit o).tias = s.tias := (rfl)
@[simp] theorem State.emit_trims (s : State) (o : Output) : (s.emit o).trims = s.trims := (rfl)
@[simp] theorem State.emit_engines (s : State) (o : Output) : (s.emit o).engines = s.engines := (rfl)
@[simp] theorem State.emit_skews (s : State) (o : Output) : (s.emit o).skews = s.skews := (rfl)
@[simp] theorem State.emit_buses (s : State) (o : Output) : (s.emit o).buses = s.buses := (rfl)
@[simp] theorem State.emit_mdioQ (s : State) (o : Output) : (s.emit o).mdioQ = s.mdioQ := (rfl)
@[simp] theorem State.emit_mdioAt (s : State) (o : Output) : (s.emit o).mdioAt = s.mdioAt := (rfl)
@[simp] theorem State.emit_evf (s : State) (o : Output) : (s.emit o).evf = s.evf := (rfl)
@[simp] theorem State.emit_irc (s : State) (o : Output) : (s.emit o).irc = s.irc := (rfl)
@[simp] theorem State.emit_safe (s : State) (o : Output) : (s.emit o).safe = s.safe := (rfl)
@[simp] theorem State.emit_keys (s : State) (o : Output) : (s.emit o).keys = s.keys := (rfl)
@[simp] theorem State.emit_barriers (s : State) (o : Output) : (s.emit o).barriers = s.barriers := (rfl)
@[simp] theorem State.emit_demand (s : State) (o : Output) : (s.emit o).demand = s.demand := (rfl)
@[simp] theorem State.emit_umb (s : State) (o : Output) : (s.emit o).umb = s.umb := (rfl)
@[simp] theorem State.emit_saf (s : State) (o : Output) : (s.emit o).saf = s.saf := (rfl)
@[simp] theorem State.emit_shadows (s : State) (o : Output) : (s.emit o).shadows = s.shadows := (rfl)
@[simp] theorem State.emit_tlinks (s : State) (o : Output) : (s.emit o).tlinks = s.tlinks := (rfl)
@[simp] theorem State.emit_ports (s : State) (o : Output) : (s.emit o).ports = s.ports := (rfl)
@[simp] theorem State.emit_plans (s : State) (o : Output) : (s.emit o).plans = s.plans := (rfl)
@[simp] theorem State.emit_logs (s : State) (o : Output) : (s.emit o).logs = s.logs := (rfl)
@[simp] theorem State.emit_uds (s : State) (o : Output) : (s.emit o).uds = s.uds := (rfl)
@[simp] theorem State.emit_keyQ (s : State) (o : Output) : (s.emit o).keyQ = s.keyQ := (rfl)
@[simp] theorem State.emit_rings (s : State) (o : Output) : (s.emit o).rings = s.rings := (rfl)
@[simp] theorem State.emit_lakeAt (s : State) (o : Output) : (s.emit o).lakeAt = s.lakeAt := (rfl)
@[simp] theorem State.emit_lakeEpoch (s : State) (o : Output) : (s.emit o).lakeEpoch = s.lakeEpoch := (rfl)
@[simp] theorem State.emit_opAt (s : State) (o : Output) : (s.emit o).opAt = s.opAt := (rfl)
@[simp] theorem State.emit_banks (s : State) (o : Output) : (s.emit o).banks = s.banks := (rfl)
@[simp] theorem State.emit_nvm (s : State) (o : Output) : (s.emit o).nvm = s.nvm := (rfl)
@[simp] theorem State.emit_dramDead (s : State) (o : Output) : (s.emit o).dramDead = s.dramDead := (rfl)
@[simp] theorem State.emit_dramBad (s : State) (o : Output) : (s.emit o).dramBad = s.dramBad := (rfl)
@[simp] theorem State.emit_pending (s : State) (o : Output) : (s.emit o).pending = s.pending := (rfl)
@[simp] theorem State.drew_free (s : State) : s.drew.free = s.free + 1 := (rfl)
@[simp] theorem State.emit_out (s : State) (o : Output) : (s.emit o).out = s.out ++ [o] := (rfl)

/-! ### Device time -/

/-- The passing of time changes no register but device time and its wraps (R202). -/
theorem State.elapse_get (s : State) (e : Nat) (f : Fld) (i : Nat) (h1 : f.id ≠ F.UMB_DT.DT.id) (h2 : f.id ≠ F.UMB_ERA.ERA.id) :
    (s.elapse e).get f i = s.get f i := by
  simp only [State.elapse]
  split
  · rw [State.get_set_fld _ _ _ _ _ _ h2, State.get_set_fld _ _ _ _ _ _ h1]
    rfl
  · rfl

/-- The DT after e ticks, where VAUX is good (R202). -/
theorem State.elapse_now (s : State) (e : Nat) (h : s.pwr.vauxGood = true) : (s.elapse e).now = (s.now + e) % 2 ^ 64 := by
  simp only [State.elapse, h, if_true, State.now]
  rw [State.get_set_fld _ _ _ _ _ _ (by decide)]
  simp

@[simp] theorem State.elapse_free (s : State) (e : Nat) : (s.elapse e).free = s.free := by simp only [State.elapse]; split <;> rfl
@[simp] theorem State.elapse_epoch (s : State) (e : Nat) : (s.elapse e).epoch = s.epoch := by simp only [State.elapse]; split <;> rfl
@[simp] theorem State.elapse_dram (s : State) (e : Nat) : (s.elapse e).dram = s.dram := by simp only [State.elapse]; split <;> rfl
@[simp] theorem State.elapse_dramZero (s : State) (e : Nat) : (s.elapse e).dramZero = s.dramZero := by simp only [State.elapse]; split <;> rfl
@[simp] theorem State.elapse_lake (s : State) (e : Nat) : (s.elapse e).lake = s.lake := by simp only [State.elapse]; split <;> rfl
@[simp] theorem State.elapse_readData (s : State) (e : Nat) : (s.elapse e).readData = s.readData := by simp only [State.elapse]; split <;> rfl
@[simp] theorem State.elapse_out (s : State) (e : Nat) : (s.elapse e).out = s.out := by simp only [State.elapse]; split <;> rfl
@[simp] theorem State.elapse_pins (s : State) (e : Nat) : (s.elapse e).pins = s.pins := by simp only [State.elapse]; split <;> rfl
@[simp] theorem State.elapse_pwr (s : State) (e : Nat) : (s.elapse e).pwr = s.pwr := by simp only [State.elapse]; split <;> rfl
@[simp] theorem State.elapse_ldr (s : State) (e : Nat) : (s.elapse e).ldr = s.ldr := by simp only [State.elapse]; split <;> rfl
@[simp] theorem State.elapse_img (s : State) (e : Nat) : (s.elapse e).img = s.img := by simp only [State.elapse]; split <;> rfl
@[simp] theorem State.elapse_sites (s : State) (e : Nat) : (s.elapse e).sites = s.sites := by simp only [State.elapse]; split <;> rfl
@[simp] theorem State.elapse_slices (s : State) (e : Nat) : (s.elapse e).slices = s.slices := by simp only [State.elapse]; split <;> rfl
@[simp] theorem State.elapse_grans (s : State) (e : Nat) : (s.elapse e).grans = s.grans := by simp only [State.elapse]; split <;> rfl
@[simp] theorem State.elapse_chans (s : State) (e : Nat) : (s.elapse e).chans = s.chans := by simp only [State.elapse]; split <;> rfl
@[simp] theorem State.elapse_wave (s : State) (e : Nat) : (s.elapse e).wave = s.wave := by simp only [State.elapse]; split <;> rfl
@[simp] theorem State.elapse_waveBad (s : State) (e : Nat) : (s.elapse e).waveBad = s.waveBad := by simp only [State.elapse]; split <;> rfl
@[simp] theorem State.elapse_wfAcc (s : State) (e : Nat) : (s.elapse e).wfAcc = s.wfAcc := by simp only [State.elapse]; split <;> rfl
@[simp] theorem State.elapse_ctxs (s : State) (e : Nat) : (s.elapse e).ctxs = s.ctxs := by simp only [State.elapse]; split <;> rfl
@[simp] theorem State.elapse_acqs (s : State) (e : Nat) : (s.elapse e).acqs = s.acqs := by simp only [State.elapse]; split <;> rfl
@[simp] theorem State.elapse_tias (s : State) (e : Nat) : (s.elapse e).tias = s.tias := by simp only [State.elapse]; split <;> rfl
@[simp] theorem State.elapse_trims (s : State) (e : Nat) : (s.elapse e).trims = s.trims := by simp only [State.elapse]; split <;> rfl
@[simp] theorem State.elapse_engines (s : State) (e : Nat) : (s.elapse e).engines = s.engines := by simp only [State.elapse]; split <;> rfl
@[simp] theorem State.elapse_skews (s : State) (e : Nat) : (s.elapse e).skews = s.skews := by simp only [State.elapse]; split <;> rfl
@[simp] theorem State.elapse_buses (s : State) (e : Nat) : (s.elapse e).buses = s.buses := by simp only [State.elapse]; split <;> rfl
@[simp] theorem State.elapse_mdioQ (s : State) (e : Nat) : (s.elapse e).mdioQ = s.mdioQ := by simp only [State.elapse]; split <;> rfl
@[simp] theorem State.elapse_mdioAt (s : State) (e : Nat) : (s.elapse e).mdioAt = s.mdioAt := by simp only [State.elapse]; split <;> rfl
@[simp] theorem State.elapse_evf (s : State) (e : Nat) : (s.elapse e).evf = s.evf := by simp only [State.elapse]; split <;> rfl
@[simp] theorem State.elapse_irc (s : State) (e : Nat) : (s.elapse e).irc = s.irc := by simp only [State.elapse]; split <;> rfl
@[simp] theorem State.elapse_safe (s : State) (e : Nat) : (s.elapse e).safe = s.safe := by simp only [State.elapse]; split <;> rfl
@[simp] theorem State.elapse_keys (s : State) (e : Nat) : (s.elapse e).keys = s.keys := by simp only [State.elapse]; split <;> rfl
@[simp] theorem State.elapse_barriers (s : State) (e : Nat) : (s.elapse e).barriers = s.barriers := by simp only [State.elapse]; split <;> rfl
@[simp] theorem State.elapse_demand (s : State) (e : Nat) : (s.elapse e).demand = s.demand := by simp only [State.elapse]; split <;> rfl
@[simp] theorem State.elapse_umb (s : State) (e : Nat) : (s.elapse e).umb = s.umb := by simp only [State.elapse]; split <;> rfl
@[simp] theorem State.elapse_saf (s : State) (e : Nat) : (s.elapse e).saf = s.saf := by simp only [State.elapse]; split <;> rfl
@[simp] theorem State.elapse_shadows (s : State) (e : Nat) : (s.elapse e).shadows = s.shadows := by simp only [State.elapse]; split <;> rfl
@[simp] theorem State.elapse_tlinks (s : State) (e : Nat) : (s.elapse e).tlinks = s.tlinks := by simp only [State.elapse]; split <;> rfl
@[simp] theorem State.elapse_ports (s : State) (e : Nat) : (s.elapse e).ports = s.ports := by simp only [State.elapse]; split <;> rfl
@[simp] theorem State.elapse_plans (s : State) (e : Nat) : (s.elapse e).plans = s.plans := by simp only [State.elapse]; split <;> rfl
@[simp] theorem State.elapse_logs (s : State) (e : Nat) : (s.elapse e).logs = s.logs := by simp only [State.elapse]; split <;> rfl
@[simp] theorem State.elapse_uds (s : State) (e : Nat) : (s.elapse e).uds = s.uds := by simp only [State.elapse]; split <;> rfl
@[simp] theorem State.elapse_keyQ (s : State) (e : Nat) : (s.elapse e).keyQ = s.keyQ := by simp only [State.elapse]; split <;> rfl
@[simp] theorem State.elapse_rings (s : State) (e : Nat) : (s.elapse e).rings = s.rings := by simp only [State.elapse]; split <;> rfl
@[simp] theorem State.elapse_lakeAt (s : State) (e : Nat) : (s.elapse e).lakeAt = s.lakeAt := by simp only [State.elapse]; split <;> rfl
@[simp] theorem State.elapse_lakeEpoch (s : State) (e : Nat) : (s.elapse e).lakeEpoch = s.lakeEpoch := by simp only [State.elapse]; split <;> rfl
@[simp] theorem State.elapse_opAt (s : State) (e : Nat) : (s.elapse e).opAt = s.opAt := by simp only [State.elapse]; split <;> rfl
@[simp] theorem State.elapse_banks (s : State) (e : Nat) : (s.elapse e).banks = s.banks := by simp only [State.elapse]; split <;> rfl
@[simp] theorem State.elapse_nvm (s : State) (e : Nat) : (s.elapse e).nvm = s.nvm := by simp only [State.elapse]; split <;> rfl
@[simp] theorem State.elapse_dramDead (s : State) (e : Nat) : (s.elapse e).dramDead = s.dramDead := by simp only [State.elapse]; split <;> rfl
@[simp] theorem State.elapse_dramBad (s : State) (e : Nat) : (s.elapse e).dramBad = s.dramBad := by simp only [State.elapse]; split <;> rfl
@[simp] theorem State.elapse_pending (s : State) (e : Nat) : (s.elapse e).pending = s.pending := by simp only [State.elapse]; split <;> rfl

/-! ### Counters -/

/-- A noted update changes the notes of the present DT and nothing else (R7). -/
theorem State.noteRc_rest (s : State) (f : Fld) (i n : Nat) : s.noteRc f i n = { s with tick := (s.noteRc f i n).tick } := by
  unfold State.noteRc
  split
  · split <;> rfl
  · rfl

@[simp] theorem State.noteRc_get (s : State) (f : Fld) (i n : Nat) (g : Fld) (j : Nat) : (s.noteRc f i n).get g j = s.get g j := by
  rw [State.noteRc_rest]; rfl

/-- A count changes registers and the notes of the present DT and nothing else (R371). -/
theorem State.count_rest (s : State) (f : Fld) (o : Option Fld) (i blk n : Nat) :
    s.count f o i blk n = { s with regs := (s.count f o i blk n).regs, tick := (s.count f o i blk n).tick } := by
  have k : ∀ (v : State) r l, v = { s with regs := r, tick := l } → v = { s with regs := v.regs, tick := v.tick } := by
    rintro v r l rfl; rfl
  unfold State.count State.saturated
  dsimp only
  rw [State.noteRc_rest s f i n]
  cases o with
  | none => split <;> exact k _ _ _ rfl
  | some o =>
    dsimp only
    rw [State.noteRc_rest (s.noteRc o i 0), State.noteRc_rest s o i 0]
    split <;> exact k _ _ _ rfl

/-! ### Folds -/

/-- A fold of operations that all leave a view of the state alone leaves it alone. -/
theorem foldl_view {α β : Type} (p : State → β) (f : State → α → State) (l : List α) (h : ∀ s x, p (f s x) = p s) (s : State) :
    p (l.foldl f s) = p s := by
  induction l generalizing s with
  | nil => rfl
  | cons a r ih => rw [List.foldl_cons, ih, h]

/-- An operation made for each number of a list leaves alone what each of its steps does. -/
theorem State.each_view {β : Type} (p : State → β) (s : State) (l : List Nat) (f : State → Nat → State) (h : ∀ s x, p (f s x) = p s) :
    p (s.each l f) = p s := foldl_view p f l h s

end Sys2Proof.Machine
end

