-- ==== Sys2Proof/Laws/Keeps.lean ====
section
/-! SUPPORT. What every operation of the model keeps: the queue of waiting commands stays as it is, free values are only drawn and
never given back, what was handed out is only added to, and registers and memories keep their canonical forms. The relation
is proved here of the operations that write those fields, and of every other operation in the files beside this one. -/

namespace Sys2Proof.Machine

/-- The places that a change of registers may name: the number of a register, 500 for the memories and 501 for what is handed
out. A mask names a set of places. -/
abbrev Places : Type := Nat → Bool

/-- The places of a mask are all among W. -/
def Within (m : Nat) (W : Places) : Prop := ∀ k, m.testBit k = true → W k = true

/-- The smaller of two masks names places of W where the larger does. -/
theorem Within.trans {m n : Nat} {W : Places} (h : m &&& n = m) (k : Within n W) : Within m W := fun i hi => by
  refine k i ?_
  rw [← h, Nat.testBit_and, Bool.and_eq_true] at hi
  exact hi.2

theorem Within.all {m : Nat} {W : Places} (hW : ∀ k, W k = true) : Within m W := fun k _ => hW k

/-- A place of a mask is among W. -/
theorem Within.bit {m k : Nat} {W : Places} (h : m.testBit k = true) (hW : Within m W) : W k = true := hW k h

theorem places_some {W : Places} {f : Fld} (h : W (f.id / 128) = true) : ∀ o ∈ some f, W (o.id / 128) = true := by
  intro o ho
  cases ho
  exact h

theorem places_none {W : Places} : ∀ o ∈ (none : Option Fld), W (o.id / 128) = true := fun _ ho => by cases ho

theorem places_cons {W : Places} {f : Fld} {l : List Fld} (h : W (f.id / 128) = true) (k : ∀ o ∈ l, W (o.id / 128) = true) :
    ∀ o ∈ f :: l, W (o.id / 128) = true := List.forall_mem_cons.2 ⟨h, k⟩

theorem places_pair {W : Places} {α : Type} {f : Fld} {v : α} {l : List (Fld × α)} (h : W (f.id / 128) = true)
    (k : ∀ o ∈ l, W (o.1.id / 128) = true) : ∀ o ∈ (f, v) :: l, W (o.1.id / 128) = true := List.forall_mem_cons.2 ⟨h, k⟩

theorem places_nil {W : Places} {α : Type} {g : α → Fld} : ∀ o ∈ ([] : List α), W ((g o).id / 128) = true := fun _ ho => by cases ho

theorem places_reg {W : Places} {r : Reg} {l : List Reg} (h : W r.ctorIdx = true) (k : ∀ o ∈ l, W o.ctorIdx = true) :
    ∀ o ∈ r :: l, W o.ctorIdx = true := List.forall_mem_cons.2 ⟨h, k⟩

theorem places_regs {W : Places} : ∀ o ∈ ([] : List Reg), W o.ctorIdx = true := fun _ ho => by cases ho

/-- From state s to state t: the queue is unchanged, the free values and the outputs only grow, canonical forms are kept, and
only registers, memories and outputs of the places W change. -/
structure Keeps (W : Places) (s t : State) : Prop where
  pending : t.pending = s.pending
  free : s.free ≤ t.free
  out : s.out <+: t.out
  regs : s.regsWf = true → t.regsWf = true
  mem : s.memWf = true → t.memWf = true
  reg : ∀ f i, W (f.id / 128) = false → t.get f i = s.get f i
  byte : W 500 = false → t.dram = s.dram ∧ t.dramZero = s.dramZero ∧ t.dramDead = s.dramDead ∧ t.lake = s.lake ∧
    t.lakeEpoch = s.lakeEpoch ∧ t.epoch = s.epoch ∧ t.dramBad = s.dramBad
  said : W 501 = false → t.out = s.out

theorem Keeps.refl (W : Places) (s : State) : Keeps W s s :=
  ⟨rfl, le_refl _, List.prefix_refl _, id, id, fun _ _ _ => rfl, fun _ => ⟨rfl, rfl, rfl, rfl, rfl, rfl, rfl⟩, fun _ => rfl⟩

theorem Keeps.trans {W : Places} {a b c : State} (h : Keeps W a b) (k : Keeps W b c) : Keeps W a c := by
  refine ⟨k.pending.trans h.pending, h.free.trans k.free, h.out.trans k.out, k.regs ∘ h.regs, k.mem ∘ h.mem,
    fun f i w => (k.reg f i w).trans (h.reg f i w), fun w => ?_, fun w => (k.said w).trans (h.said w)⟩
  obtain ⟨h1, h2, h3, h4, h5, h6, h7⟩ := h.byte w
  obtain ⟨k1, k2, k3, k4, k5, k6, k7⟩ := k.byte w
  exact ⟨k1.trans h1, k2.trans h2, k3.trans h3, k4.trans h4, k5.trans h5, k6.trans h6, k7.trans h7⟩

/-- An update of the other fields keeps all. -/
theorem Keeps.same {W : Places} {a s t : State} (h0 : t.dramDead = s.dramDead ∧ t.lakeEpoch = s.lakeEpoch ∧ t.epoch = s.epoch ∧ t.dramBad = s.dramBad)
    (h1 : t.regs = s.regs) (h2 : t.free = s.free) (h3 : t.dram = s.dram)
    (h4 : t.dramZero = s.dramZero) (h5 : t.lake = s.lake) (h6 : t.out = s.out) (h7 : t.pending = s.pending) (h : Keeps W a s) :
    Keeps W a t := by
  refine h.trans ⟨h7, by rw [h2], by rw [h6], fun k => ?_, fun k => ?_, fun f i _ => State.get_congr h1 f i,
    fun _ => ⟨h3, h4, h0.1, h5, h0.2.1, h0.2.2.1, h0.2.2.2⟩, fun _ => h6⟩
  · simpa [State.regsWf, h1] using k
  · simpa [State.memWf, h3, h4, h5] using k

/-- An update written as a record of fields keeps all where the fields that matter are those of a state that does. -/
theorem Keeps.upd {W : Places} {a s : State}
    {x_tick : List TickNote} {x_readData : Nat} {x_pins : Pins} {x_pwr : Power}
    {x_ldr : Loader} {x_img : ImageCfg} {x_sites : Tab SiteUnit} {x_slices : Tab SliceUnit} {x_grans : List Gran}
    {x_chans : Tab ChanUnit} {x_wave : Tab (Option WaveEntry)} {x_waveBad : List Nat} {x_wfAcc : Tab (Option WfAccess)} {x_ctxs : Tab CtxUnit}
    {x_acqs : Tab AcqUnit} {x_tias : Tab TiaUnit} {x_trims : Tab TrimUnit} {x_engines : Tab TrimEngine} {x_skews : Tab Skew}
    {x_buses : Tab BusUnit} {x_mdioQ : List (Nat × Nat)} {x_mdioAt : Nat} {x_evf : Evf} {x_irc : Irc}
    {x_safe : SafeUnit} {x_keys : Tab (List Byte)} {x_barriers : Tab (Option Nat)} {x_demand : Tab (List (Nat × Nat))} {x_umb : Umb}
    {x_saf : Saf} {x_shadows : Tab Shadow} {x_tlinks : Tab TileLink} {x_ports : Tab LinkPort} {x_plans : Tab Plan}
    {x_logs : Tab Datalog} {x_uds : Tab UdsConn} {x_keyQ : List Nat} {x_rings : Tab HostRing} {x_lakeAt : Tab (Option (Nat × Option Nat))}
    {x_opAt : Option (Nat × Nat)} {x_banks : Tab DramBank} {x_nvm : List (Nat × Nat)}
    
    (h : Keeps W a s) :
    Keeps W a (State.mk s.regs x_tick s.free s.epoch s.dram s.dramZero s.lake x_readData s.out x_pins x_pwr x_ldr x_img x_sites x_slices x_grans x_chans x_wave x_waveBad x_wfAcc x_ctxs x_acqs x_tias x_trims x_engines x_skews x_buses x_mdioQ x_mdioAt x_evf x_irc x_safe x_keys x_barriers x_demand x_umb x_saf x_shadows x_tlinks x_ports x_plans x_logs x_uds x_keyQ x_rings x_lakeAt s.lakeEpoch x_opAt x_banks x_nvm s.dramDead s.dramBad s.pending) :=
  Keeps.same (s := s) ⟨rfl, rfl, rfl, rfl⟩ rfl rfl rfl rfl rfl rfl rfl h

theorem Keeps.ite {W : Places} {a s t : State} {p : Prop} [Decidable p] (h : Keeps W a s) (k : Keeps W a t) : Keeps W a (if p then s else t) := by
  split <;> assumption

theorem Keeps.foldl {α : Type} {W : Places} {a s : State} {f : State → α → State} {l : List α} (hf : ∀ u x, Keeps W a u → Keeps W a (f u x))
    (h : Keeps W a s) : Keeps W a (l.foldl f s) := by
  induction l generalizing s with
  | nil => exact h
  | cons x r ih => exact ih (hf s x h)

/-- The same where each element of the list is known. -/
theorem Keeps.foldlMem {α : Type} {W : Places} {a s : State} {f : State → α → State} {l : List α}
    (hf : ∀ u x, x ∈ l → Keeps W a u → Keeps W a (f u x)) (h : Keeps W a s) : Keeps W a (l.foldl f s) := by
  induction l generalizing s with
  | nil => exact h
  | cons x r ih =>
    exact ih (fun u y hy => hf u y (List.mem_cons_of_mem _ hy)) (hf s x (List.mem_cons_self ..) h)

/-- The same of a fold that carries another value beside the state. -/
theorem Keeps.foldlFst {α β : Type} {W : Places} {a s : State} {b : β} {f : State × β → α → State × β} {l : List α}
    (hf : ∀ u x, Keeps W a u.1 → Keeps W a (f u x).1) (h : Keeps W a s) : Keeps W a (l.foldl f (s, b)).1 := by
  suffices ∀ u : State × β, Keeps W a u.1 → Keeps W a (l.foldl f u).1 from this (s, b) h
  intro u hu
  induction l generalizing u with
  | nil => exact hu
  | cons x r ih => exact ih (f u x) (hf u x hu)

theorem State.each_keeps {W : Places} {a s : State} {l : List Nat} {f : State → Nat → State} (hf : ∀ u x, Keeps W a u → Keeps W a (f u x))
    (h : Keeps W a s) : Keeps W a (s.each l f) := Keeps.foldl hf h

/-! ### Registers -/

theorem regsWf_iff (s : State) : s.regsWf = true ↔ Tab.wf [] s.regs = true ∧ ∀ e ∈ s.regs, Tab.wf 0 e.2 = true := by
  simp [State.regsWf]

theorem Tab.wf_get {t : Tab (Tab Nat)} (h : ∀ e ∈ t, Tab.wf 0 e.2 = true) (n : Nat) : Tab.wf 0 (Tab.get [] t n) = true := by
  induction t with
  | nil => rfl
  | cons e r ih =>
    obtain ⟨k, v⟩ := e
    simp only [Tab.get]
    split
    · exact h (k, v) (by simp)
    · exact ih (fun e he => h e (by simp [he]))

theorem Tab.mem_set {α : Type} [DecidableEq α] {d : α} {t : Tab α} {n : Nat} {x : α} {e : Nat × α} (h : e ∈ Tab.set d t n x) :
    e = (n, x) ∨ e ∈ t := by
  unfold Tab.set at h
  split at h
  · simp [Tab.erase] at h; exact .inr h.1
  · rcases (Tab.mem_insert n x _ e).1 h with h | h
    · exact .inl h
    · simp [Tab.erase] at h; exact .inr h.1

/-- A table of tables in canonical form with a canonical table put in stays in canonical form. -/
theorem tabs_set {t : Tab (Tab Nat)} (h : Tab.wf [] t = true ∧ ∀ e ∈ t, Tab.wf 0 e.2 = true) (n : Nat) (x : Tab Nat)
    (hx : Tab.wf 0 x = true) : Tab.wf [] (Tab.set [] t n x) = true ∧ ∀ e ∈ Tab.set [] t n x, Tab.wf 0 e.2 = true := by
  refine ⟨Tab.wf_set _ _ _ _ h.1, fun e he => ?_⟩
  rcases Tab.mem_set he with rfl | he
  · exact hx
  · exact h.2 e he

theorem State.put_keeps {W : Places} {a s : State} {f : Fld} {i v : Nat} (hf : W (f.id / 128) = true) (h : Keeps W a s) :
    Keeps W a (s.put f i v) := by
  refine h.trans ⟨rfl, le_refl _, List.prefix_refl _, fun k => ?_, fun k => k, fun g j w => ?_,
    fun _ => ⟨rfl, rfl, rfl, rfl, rfl, rfl, rfl⟩, fun _ => rfl⟩
  · rw [regsWf_iff] at k ⊢
    exact tabs_set k _ _ (Tab.wf_set _ _ _ _ (Tab.wf_get k.2 _))
  · refine (State.get_set_fld s f g i j v (fun e => ?_) :)
    rw [e, hf] at w
    cases w

theorem State.set_keeps {W : Places} {a s : State} {f : Fld} {i v : Nat} (hf : W (f.id / 128) = true) (h : Keeps W a s) :
    Keeps W a (s.set f i v) :=
  Keeps.same (s := s.put f i v) ⟨rfl, rfl, rfl, rfl⟩ rfl rfl rfl rfl rfl rfl rfl (State.put_keeps hf h)

theorem Tab.get_filter {t : Tab (Tab Nat)} {p : Nat → Bool} {n : Nat} (h : p n = true) :
    Tab.get [] (t.filter (fun e => p e.1)) n = Tab.get [] t n := by
  induction t with
  | nil => rfl
  | cons e r ih =>
    obtain ⟨k, v⟩ := e
    by_cases hk : k = n
    · subst hk
      simp [h, Tab.get]
    · by_cases hp : p k = true
      · simp [hp, Tab.get, Ne.symm hk, ih]
      · simp [hp, Tab.get, Ne.symm hk, ih]

theorem State.clearReg_keeps {W : Places} {a s : State} {r : Reg} (hr : W r.ctorIdx = true) (h : Keeps W a s) :
    Keeps W a (s.clearReg r) := by
  refine h.trans ⟨rfl, le_refl _, List.prefix_refl _, fun k => ?_, fun k => k, fun g j w => ?_,
    fun _ => ⟨rfl, rfl, rfl, rfl, rfl, rfl, rfl⟩, fun _ => rfl⟩
  · rw [regsWf_iff] at k ⊢
    refine ⟨?_, fun e he => k.2 e (List.mem_filter.1 he).1⟩
    have h1 := (Tab.wf_iff _ _).1 k.1
    exact (Tab.wf_iff _ _).2 ⟨h1.1.sublist List.filter_sublist, fun e he => h1.2 e (List.mem_filter.1 he).1⟩
  · have hg : (fun k => k / 128 != r.ctorIdx) g.id = true := by
      simp only [bne_iff_ne]
      intro e
      rw [e, hr] at w
      cases w
    simp only [State.get, State.clearReg]
    rw [Tab.get_filter (p := fun k => k / 128 != r.ctorIdx) hg]

/-! ### Free values and outputs -/

theorem State.drew_keeps {W : Places} {a s : State} (h : Keeps W a s) : Keeps W a s.drew :=
  h.trans ⟨rfl, Nat.le_succ _, List.prefix_refl _, id, id, fun _ _ _ => rfl, fun _ => ⟨rfl, rfl, rfl, rfl, rfl, rfl, rfl⟩, fun _ => rfl⟩

theorem State.emit_keeps {W : Places} {a s : State} {o : Output} (ho : W 501 = true) (h : Keeps W a s) : Keeps W a (s.emit o) :=
  h.trans ⟨rfl, le_refl _, List.prefix_append _ _, id, id, fun _ _ _ => rfl, fun _ => ⟨rfl, rfl, rfl, rfl, rfl, rfl, rfl⟩,
    fun w => by rw [ho] at w; cases w⟩

/-! ### Memories -/

theorem memWf_iff (s : State) : s.memWf = true ↔ Memory.wf s.dramZero s.dram = true ∧ Memory.wf [] s.lake = true := by
  simp [State.memWf]

/-- A change of the memories alone. -/
theorem Keeps.memory {W : Places} {a s t : State} (hm : W 500 = true) (h1 : t.regs = s.regs) (h2 : t.free = s.free)
    (h3 : s.memWf = true → t.memWf = true) (h6 : t.out = s.out) (h7 : t.pending = s.pending) (h : Keeps W a s) : Keeps W a t := by
  refine h.trans ⟨h7, by rw [h2], by rw [h6], fun k => ?_, h3, fun f i _ => State.get_congr h1 f i, fun w => ?_, fun _ => h6⟩
  · simpa [State.regsWf, h1] using k
  · rw [hm] at w
    cases w

theorem State.putByte_keeps {W : Places} {a s : State} {lake : Bool} {n : Nat} {b : Byte} (hm : W 500 = true) (h : Keeps W a s) :
    Keeps W a (s.putByte lake n b) := by
  cases lake
  · by_cases hd : s.dramDead = true
    · simpa [State.putByte, hd] using h
    · refine Keeps.memory (s := s) hm ?_ ?_ (fun k => ?_) ?_ ?_ h
      · simp [State.putByte, hd]
      · simp [State.putByte, hd]
      · rw [memWf_iff] at k ⊢
        simpa [State.putByte, hd] using And.intro (memory_wf_put _ _ _ _ k.1) k.2
      · simp [State.putByte, hd]
      · simp [State.putByte, hd]
  · refine Keeps.memory (s := s) hm rfl rfl (fun k => ?_) rfl rfl h
    rw [memWf_iff] at k ⊢
    exact ⟨k.1, memory_wf_put _ _ _ _ k.2⟩

theorem State.clearDram_keeps {W : Places} {a s : State} {n m : Nat} (hm : W 500 = true) (h : Keeps W a s) :
    Keeps W a (s.clearDram n m) := by
  refine Keeps.memory (s := s) hm rfl rfl (fun k => ?_) rfl rfl h
  rw [memWf_iff] at k ⊢
  exact ⟨memory_wf_clear _ _ _ _ k.1, k.2⟩

theorem State.loseBank_keeps {W : Places} {a s : State} {b : Nat} (hm : W 500 = true) (h : Keeps W a s) : Keeps W a (s.loseBank b) := by
  refine Keeps.memory (s := s) hm rfl rfl (fun k => ?_) rfl rfl h
  rw [memWf_iff] at k ⊢
  exact ⟨k.1, memory_wf_filter _ _ _ k.2⟩

/-- A DRAM whose contents are open anew lists nothing. -/
theorem Keeps.openDram {W : Places} {a s t : State} (hm : W 500 = true) (h1 : t.regs = s.regs) (h2 : t.free = s.free) (h3 : t.dram = [])
    (h5 : t.lake = s.lake) (h6 : t.out = s.out) (h7 : t.pending = s.pending) (h : Keeps W a s) : Keeps W a t := by
  refine Keeps.memory hm h1 h2 (fun k => ?_) h6 h7 h
  rw [memWf_iff] at k ⊢
  rw [h3, h5]
  exact ⟨rfl, k.2⟩

/-- The same, written as a record of fields. -/
theorem Keeps.updOpen {W : Places} {a s : State}
    {x_epoch : Nat}
    {x_tick : List TickNote} {x_readData : Nat} {x_pins : Pins} {x_pwr : Power}
    {x_ldr : Loader} {x_img : ImageCfg} {x_sites : Tab SiteUnit} {x_slices : Tab SliceUnit} {x_grans : List Gran}
    {x_chans : Tab ChanUnit} {x_wave : Tab (Option WaveEntry)} {x_waveBad : List Nat} {x_wfAcc : Tab (Option WfAccess)} {x_ctxs : Tab CtxUnit}
    {x_acqs : Tab AcqUnit} {x_tias : Tab TiaUnit} {x_trims : Tab TrimUnit} {x_engines : Tab TrimEngine} {x_skews : Tab Skew}
    {x_buses : Tab BusUnit} {x_mdioQ : List (Nat × Nat)} {x_mdioAt : Nat} {x_evf : Evf} {x_irc : Irc}
    {x_safe : SafeUnit} {x_keys : Tab (List Byte)} {x_barriers : Tab (Option Nat)} {x_demand : Tab (List (Nat × Nat))} {x_umb : Umb}
    {x_saf : Saf} {x_shadows : Tab Shadow} {x_tlinks : Tab TileLink} {x_ports : Tab LinkPort} {x_plans : Tab Plan}
    {x_logs : Tab Datalog} {x_uds : Tab UdsConn} {x_keyQ : List Nat} {x_rings : Tab HostRing} {x_lakeAt : Tab (Option (Nat × Option Nat))}
    {x_lakeEpoch : Tab Nat} {x_opAt : Option (Nat × Nat)} {x_banks : Tab DramBank} {x_nvm : List (Nat × Nat)} {x_dramDead : Bool} {x_dramBad : List Nat}
    
    (hm : W 500 = true) (h : Keeps W a s) :
    Keeps W a (State.mk s.regs x_tick s.free x_epoch [] [] s.lake x_readData s.out x_pins x_pwr x_ldr x_img x_sites x_slices x_grans x_chans x_wave x_waveBad x_wfAcc x_ctxs x_acqs x_tias x_trims x_engines x_skews x_buses x_mdioQ x_mdioAt x_evf x_irc x_safe x_keys x_barriers x_demand x_umb x_saf x_shadows x_tlinks x_ports x_plans x_logs x_uds x_keyQ x_rings x_lakeAt x_lakeEpoch x_opAt x_banks x_nvm x_dramDead x_dramBad s.pending) :=
  Keeps.openDram (s := s) hm rfl rfl rfl rfl rfl rfl h

/-- A change of the words found bad, written as a record of fields. -/
theorem Keeps.updBad {W : Places} {a s : State} {x_dramBad : List Nat} (hm : W 500 = true) (h : Keeps W a s) :
    Keeps W a { s with dramBad := x_dramBad } := Keeps.memory (s := s) hm rfl rfl (fun k => k) rfl rfl h

/-! ### Answers -/

/-- The next state that a command answers keeps what s has. -/
def KeepsOut (W : Places) (s : State) (o : Out) : Prop := ∀ t, o = .next t → Keeps W s t

theorem KeepsOut.next {W : Places} {s t : State} (h : Keeps W s t) : KeepsOut W s (.next t) := fun _ e => by cases e; exact h

theorem KeepsOut.refused {W : Places} {s : State} {r : Refusal} : KeepsOut W s (.refused r) := fun _ e => by cases e

/-- The same of a state that an operation may not give. -/
def KeepsOpt (W : Places) (s : State) (o : Option State) : Prop := ∀ t, o = some t → Keeps W s t

theorem KeepsOpt.some {W : Places} {s t : State} (h : Keeps W s t) : KeepsOpt W s (some t) := fun _ e => by cases e; exact h

theorem KeepsOpt.none {W : Places} {s : State} : KeepsOpt W s none := fun _ e => by cases e

theorem KeepsOut.ite {W : Places} {s : State} {a b : Out} {p : Prop} [Decidable p] (h : KeepsOut W s a) (k : KeepsOut W s b) :
    KeepsOut W s (if p then a else b) := by
  split <;> assumption

end Sys2Proof.Machine
end

