-- ==== Sys2Proof/Laws/KeepOps.lean ====
section
/-! SUPPORT. What the operations and the commands of Machine/Ops.lean keep (Laws/Keeps.lean). -/

set_option linter.unusedTactic false
set_option linter.unreachableTactic false
set_option linter.unusedVariables false
set_option linter.unusedSimpArgs false

namespace Sys2Proof.Machine

theorem State.elapse_keeps {W : Places} {a₀ s₀ : State} (p1) (hW : Within 0x600000000000000000000000000000000000000000000 W) (h₀ : Keeps W a₀ s₀) : Keeps W a₀ (State.elapse s₀ p1) := by
  unfold State.elapse
  with_reducible (repeat' first | assumption | exact Within.trans (by decide) hW | exact Within.bit (by decide) hW | refine places_some ?_ | exact places_none | refine places_cons ?_ ?_ | refine places_pair ?_ ?_ | exact places_nil | refine places_reg ?_ ?_ | exact places_regs | intro _ | apply State.set_keeps | apply Keeps.ite | simp only [List.foldl_cons, List.foldl_nil] | apply Keeps.foldl | apply Keeps.foldlFst | extract_lets | split | apply Keeps.upd | apply Keeps.updOpen | apply Keeps.updBad)

theorem State.stamp_keeps {W : Places} {a₀ s₀ : State} (p1 p2 p3) (h1 : W (p1.id / 128) = true) (h₀ : Keeps W a₀ s₀) : Keeps W a₀ (State.stamp s₀ p1 p2 p3) := by
  unfold State.stamp
  with_reducible (repeat' first | assumption | exact Within.trans (by decide) hW | exact Within.bit (by decide) hW | refine places_some ?_ | exact places_none | refine places_cons ?_ ?_ | refine places_pair ?_ ?_ | exact places_nil | refine places_reg ?_ ?_ | exact places_regs | intro _ | apply State.drew_keeps | apply State.set_keeps | apply Keeps.ite | simp only [List.foldl_cons, List.foldl_nil] | apply Keeps.foldl | apply Keeps.foldlFst | extract_lets | split)

theorem State.saturated_keeps {W : Places} {a₀ s₀ : State} (p1) (hW : Within 0x60000000000000000000000000000000000000000000000000000000000000000000000000000000000000000000 W) (h₀ : Keeps W a₀ s₀) : Keeps W a₀ (State.saturated s₀ p1) := by
  unfold State.saturated
  with_reducible (repeat' first | assumption | exact Within.trans (by decide) hW | exact Within.bit (by decide) hW | refine places_some ?_ | exact places_none | refine places_cons ?_ ?_ | refine places_pair ?_ ?_ | exact places_nil | refine places_reg ?_ ?_ | exact places_regs | intro _ | apply State.set_keeps | apply Keeps.ite | simp only [List.foldl_cons, List.foldl_nil] | apply Keeps.foldl | apply Keeps.foldlFst | extract_lets | split)

theorem State.noteRc_keeps {W : Places} {a₀ s₀ : State} (p1 p2 p3) (h1 : W (p1.id / 128) = true) (h₀ : Keeps W a₀ s₀) : Keeps W a₀ (State.noteRc s₀ p1 p2 p3) := by
  unfold State.noteRc
  with_reducible (repeat' first | assumption | exact Within.trans (by decide) hW | exact Within.bit (by decide) hW | refine places_some ?_ | exact places_none | refine places_cons ?_ ?_ | refine places_pair ?_ ?_ | exact places_nil | refine places_reg ?_ ?_ | exact places_regs | intro _ | apply Keeps.ite | simp only [List.foldl_cons, List.foldl_nil] | apply Keeps.foldl | apply Keeps.foldlFst | extract_lets | split | apply Keeps.upd | apply Keeps.updOpen | apply Keeps.updBad)

theorem State.rcClear_keeps {W : Places} {a₀ s₀ : State} (p1 p2) (h1 : W (p1.id / 128) = true) (h₀ : Keeps W a₀ s₀) : Keeps W a₀ (State.rcClear s₀ p1 p2) := by
  unfold State.rcClear
  with_reducible (repeat' first | assumption | exact Within.trans (by decide) hW | exact Within.bit (by decide) hW | refine places_some ?_ | exact places_none | refine places_cons ?_ ?_ | refine places_pair ?_ ?_ | exact places_nil | refine places_reg ?_ ?_ | exact places_regs | intro _ | apply State.put_keeps | apply Keeps.ite | simp only [List.foldl_cons, List.foldl_nil] | apply Keeps.foldl | apply Keeps.foldlFst | extract_lets | split | apply Keeps.upd | apply Keeps.updOpen | apply Keeps.updBad)

theorem State.count_keeps {W : Places} {a s : State} (f ovf i blk n) (hW : Within 0x60000000000000000000000000000000000000000000000000000000000000000000000000000000000000000000 W) (hf : W (f.id / 128) = true)
    (ho : ∀ o ∈ ovf, W (o.id / 128) = true) (h : Keeps W a s) : Keeps W a (s.count f ovf i blk n) := by
  unfold State.count
  extract_lets s1
  have h1 : Keeps W a s1 := by
    refine State.set_keeps hf ?_
    split
    · rename_i o
      exact State.noteRc_keeps _ _ _ hf (State.noteRc_keeps _ _ _ (ho o rfl) h)
    · exact State.noteRc_keeps _ _ _ hf h
  clear_value s1
  split
  · split
    · rename_i o
      exact State.saturated_keeps _ hW (State.set_keeps (ho o rfl) h1)
    · exact State.saturated_keeps _ hW h1
  · exact h1

theorem State.setMapBit_keeps {W : Places} {a₀ s₀ : State} (p1 p2 p3 p4) (h1 : W (p1.id / 128) = true) (h₀ : Keeps W a₀ s₀) : Keeps W a₀ (State.setMapBit s₀ p1 p2 p3 p4) := by
  unfold State.setMapBit
  with_reducible (repeat' first | assumption | exact Within.trans (by decide) hW | exact Within.bit (by decide) hW | refine places_some ?_ | exact places_none | refine places_cons ?_ ?_ | refine places_pair ?_ ?_ | exact places_nil | refine places_reg ?_ ?_ | exact places_regs | intro _ | apply State.set_keeps | apply Keeps.ite | simp only [List.foldl_cons, List.foldl_nil] | apply Keeps.foldl | apply Keeps.foldlFst | extract_lets | split)

theorem State.clearRegs_keeps {W : Places} {a s : State} (l) (hl : ∀ r ∈ l, W r.ctorIdx = true) (h : Keeps W a s) : Keeps W a (s.clearRegs l) :=
  Keeps.foldlMem (fun _ x hx hu => State.clearReg_keeps (hl x hx) hu) h

theorem State.clearFields_keeps {W : Places} {a s : State} (i l) (hl : ∀ f ∈ l, W (f.id / 128) = true) (h : Keeps W a s) :
    Keeps W a (s.clearFields i l) :=
  Keeps.foldlMem (fun _ x hx hu => State.set_keeps (hl x hx) hu) h

theorem State.fire_keeps {W : Places} {a₀ s₀ : State} (p1) (h₀ : Keeps W a₀ s₀) : Keeps W a₀ (State.fire s₀ p1) := by
  unfold State.fire
  with_reducible (repeat' first | assumption | exact Within.trans (by decide) hW | exact Within.bit (by decide) hW | refine places_some ?_ | exact places_none | refine places_cons ?_ ?_ | refine places_pair ?_ ?_ | exact places_nil | refine places_reg ?_ ?_ | exact places_regs | intro _ | apply Keeps.ite | simp only [List.foldl_cons, List.foldl_nil] | apply Keeps.foldl | apply Keeps.foldlFst | extract_lets | split | apply Keeps.upd | apply Keeps.updOpen | apply Keeps.updBad)

theorem State.pulse_keeps {W : Places} {a₀ s₀ : State} (p1) (h₀ : Keeps W a₀ s₀) : Keeps W a₀ (State.pulse s₀ p1) := by
  unfold State.pulse
  with_reducible (repeat' first | assumption | exact Within.trans (by decide) hW | exact Within.bit (by decide) hW | refine places_some ?_ | exact places_none | refine places_cons ?_ ?_ | refine places_pair ?_ ?_ | exact places_nil | refine places_reg ?_ ?_ | exact places_regs | intro _ | apply Keeps.ite | simp only [List.foldl_cons, List.foldl_nil] | apply Keeps.foldl | apply Keeps.foldlFst | extract_lets | split | apply Keeps.upd | apply Keeps.updOpen | apply Keeps.updBad)

theorem State.setSite_keeps {W : Places} {a₀ s₀ : State} (p1 p2) (h₀ : Keeps W a₀ s₀) : Keeps W a₀ (State.setSite s₀ p1 p2) := by
  unfold State.setSite
  with_reducible (repeat' first | assumption | exact Within.trans (by decide) hW | exact Within.bit (by decide) hW | refine places_some ?_ | exact places_none | refine places_cons ?_ ?_ | refine places_pair ?_ ?_ | exact places_nil | refine places_reg ?_ ?_ | exact places_regs | intro _ | apply Keeps.ite | simp only [List.foldl_cons, List.foldl_nil] | apply Keeps.foldl | apply Keeps.foldlFst | extract_lets | split | apply Keeps.upd | apply Keeps.updOpen | apply Keeps.updBad)

theorem State.setSlice_keeps {W : Places} {a₀ s₀ : State} (p1 p2) (h₀ : Keeps W a₀ s₀) : Keeps W a₀ (State.setSlice s₀ p1 p2) := by
  unfold State.setSlice
  with_reducible (repeat' first | assumption | exact Within.trans (by decide) hW | exact Within.bit (by decide) hW | refine places_some ?_ | exact places_none | refine places_cons ?_ ?_ | refine places_pair ?_ ?_ | exact places_nil | refine places_reg ?_ ?_ | exact places_regs | intro _ | apply Keeps.ite | simp only [List.foldl_cons, List.foldl_nil] | apply Keeps.foldl | apply Keeps.foldlFst | extract_lets | split | apply Keeps.upd | apply Keeps.updOpen | apply Keeps.updBad)

theorem State.setChan_keeps {W : Places} {a₀ s₀ : State} (p1 p2) (h₀ : Keeps W a₀ s₀) : Keeps W a₀ (State.setChan s₀ p1 p2) := by
  unfold State.setChan
  with_reducible (repeat' first | assumption | exact Within.trans (by decide) hW | exact Within.bit (by decide) hW | refine places_some ?_ | exact places_none | refine places_cons ?_ ?_ | refine places_pair ?_ ?_ | exact places_nil | refine places_reg ?_ ?_ | exact places_regs | intro _ | apply Keeps.ite | simp only [List.foldl_cons, List.foldl_nil] | apply Keeps.foldl | apply Keeps.foldlFst | extract_lets | split | apply Keeps.upd | apply Keeps.updOpen | apply Keeps.updBad)

theorem State.setCtx_keeps {W : Places} {a₀ s₀ : State} (p1 p2) (h₀ : Keeps W a₀ s₀) : Keeps W a₀ (State.setCtx s₀ p1 p2) := by
  unfold State.setCtx
  with_reducible (repeat' first | assumption | exact Within.trans (by decide) hW | exact Within.bit (by decide) hW | refine places_some ?_ | exact places_none | refine places_cons ?_ ?_ | refine places_pair ?_ ?_ | exact places_nil | refine places_reg ?_ ?_ | exact places_regs | intro _ | apply Keeps.ite | simp only [List.foldl_cons, List.foldl_nil] | apply Keeps.foldl | apply Keeps.foldlFst | extract_lets | split | apply Keeps.upd | apply Keeps.updOpen | apply Keeps.updBad)

theorem State.setAcqU_keeps {W : Places} {a₀ s₀ : State} (p1 p2) (h₀ : Keeps W a₀ s₀) : Keeps W a₀ (State.setAcqU s₀ p1 p2) := by
  unfold State.setAcqU
  with_reducible (repeat' first | assumption | exact Within.trans (by decide) hW | exact Within.bit (by decide) hW | refine places_some ?_ | exact places_none | refine places_cons ?_ ?_ | refine places_pair ?_ ?_ | exact places_nil | refine places_reg ?_ ?_ | exact places_regs | intro _ | apply Keeps.ite | simp only [List.foldl_cons, List.foldl_nil] | apply Keeps.foldl | apply Keeps.foldlFst | extract_lets | split | apply Keeps.upd | apply Keeps.updOpen | apply Keeps.updBad)

theorem State.setTiaU_keeps {W : Places} {a₀ s₀ : State} (p1 p2) (h₀ : Keeps W a₀ s₀) : Keeps W a₀ (State.setTiaU s₀ p1 p2) := by
  unfold State.setTiaU
  with_reducible (repeat' first | assumption | exact Within.trans (by decide) hW | exact Within.bit (by decide) hW | refine places_some ?_ | exact places_none | refine places_cons ?_ ?_ | refine places_pair ?_ ?_ | exact places_nil | refine places_reg ?_ ?_ | exact places_regs | intro _ | apply Keeps.ite | simp only [List.foldl_cons, List.foldl_nil] | apply Keeps.foldl | apply Keeps.foldlFst | extract_lets | split | apply Keeps.upd | apply Keeps.updOpen | apply Keeps.updBad)

theorem State.setTrimU_keeps {W : Places} {a₀ s₀ : State} (p1 p2) (h₀ : Keeps W a₀ s₀) : Keeps W a₀ (State.setTrimU s₀ p1 p2) := by
  unfold State.setTrimU
  with_reducible (repeat' first | assumption | exact Within.trans (by decide) hW | exact Within.bit (by decide) hW | refine places_some ?_ | exact places_none | refine places_cons ?_ ?_ | refine places_pair ?_ ?_ | exact places_nil | refine places_reg ?_ ?_ | exact places_regs | intro _ | apply Keeps.ite | simp only [List.foldl_cons, List.foldl_nil] | apply Keeps.foldl | apply Keeps.foldlFst | extract_lets | split | apply Keeps.upd | apply Keeps.updOpen | apply Keeps.updBad)

theorem State.setEngine_keeps {W : Places} {a₀ s₀ : State} (p1 p2) (h₀ : Keeps W a₀ s₀) : Keeps W a₀ (State.setEngine s₀ p1 p2) := by
  unfold State.setEngine
  with_reducible (repeat' first | assumption | exact Within.trans (by decide) hW | exact Within.bit (by decide) hW | refine places_some ?_ | exact places_none | refine places_cons ?_ ?_ | refine places_pair ?_ ?_ | exact places_nil | refine places_reg ?_ ?_ | exact places_regs | intro _ | apply Keeps.ite | simp only [List.foldl_cons, List.foldl_nil] | apply Keeps.foldl | apply Keeps.foldlFst | extract_lets | split | apply Keeps.upd | apply Keeps.updOpen | apply Keeps.updBad)

theorem State.setBus_keeps {W : Places} {a₀ s₀ : State} (p1 p2) (h₀ : Keeps W a₀ s₀) : Keeps W a₀ (State.setBus s₀ p1 p2) := by
  unfold State.setBus
  with_reducible (repeat' first | assumption | exact Within.trans (by decide) hW | exact Within.bit (by decide) hW | refine places_some ?_ | exact places_none | refine places_cons ?_ ?_ | refine places_pair ?_ ?_ | exact places_nil | refine places_reg ?_ ?_ | exact places_regs | intro _ | apply Keeps.ite | simp only [List.foldl_cons, List.foldl_nil] | apply Keeps.foldl | apply Keeps.foldlFst | extract_lets | split | apply Keeps.upd | apply Keeps.updOpen | apply Keeps.updBad)

theorem State.setPort_keeps {W : Places} {a₀ s₀ : State} (p1 p2) (h₀ : Keeps W a₀ s₀) : Keeps W a₀ (State.setPort s₀ p1 p2) := by
  unfold State.setPort
  with_reducible (repeat' first | assumption | exact Within.trans (by decide) hW | exact Within.bit (by decide) hW | refine places_some ?_ | exact places_none | refine places_cons ?_ ?_ | refine places_pair ?_ ?_ | exact places_nil | refine places_reg ?_ ?_ | exact places_regs | intro _ | apply Keeps.ite | simp only [List.foldl_cons, List.foldl_nil] | apply Keeps.foldl | apply Keeps.foldlFst | extract_lets | split | apply Keeps.upd | apply Keeps.updOpen | apply Keeps.updBad)

theorem State.sendSeq_keeps {W : Places} {a₀ s₀ : State} (p1) (h₀ : Keeps W a₀ s₀) : Keeps W a₀ (State.sendSeq s₀ p1) := by
  unfold State.sendSeq
  with_reducible (repeat' first | assumption | exact Within.trans (by decide) hW | exact Within.bit (by decide) hW | refine places_some ?_ | exact places_none | refine places_cons ?_ ?_ | refine places_pair ?_ ?_ | exact places_nil | refine places_reg ?_ ?_ | exact places_regs | intro _ | apply State.setPort_keeps | apply Keeps.ite | simp only [List.foldl_cons, List.foldl_nil] | apply Keeps.foldl | apply Keeps.foldlFst | extract_lets | split)

theorem State.sendSeqs_keeps {W : Places} {a₀ s₀ : State} (p1 p2) (h₀ : Keeps W a₀ s₀) : Keeps W a₀ (State.sendSeqs s₀ p1 p2) := by
  unfold State.sendSeqs
  with_reducible (repeat' first | assumption | exact Within.trans (by decide) hW | exact Within.bit (by decide) hW | refine places_some ?_ | exact places_none | refine places_cons ?_ ?_ | refine places_pair ?_ ?_ | exact places_nil | refine places_reg ?_ ?_ | exact places_regs | intro _ | apply State.sendSeq_keeps | apply Keeps.ite | simp only [List.foldl_cons, List.foldl_nil] | apply Keeps.foldl | apply Keeps.foldlFst | extract_lets | split)

theorem State.sendBlock_keeps {W : Places} {a₀ s₀ : State} (p1 p2 p3) (hW : Within 0x200000000000000000000000000000000000000000000000000000000000000000000000000000000000000000000000000000000000000000000000000000 W) (h₀ : Keeps W a₀ s₀) : Keeps W a₀ (State.sendBlock s₀ p1 p2 p3) := by
  unfold State.sendBlock
  with_reducible (repeat' first | assumption | exact Within.trans (by decide) hW | exact Within.bit (by decide) hW | refine places_some ?_ | exact places_none | refine places_cons ?_ ?_ | refine places_pair ?_ ?_ | exact places_nil | refine places_reg ?_ ?_ | exact places_regs | intro _ | apply State.sendSeq_keeps | apply State.emit_keeps | apply Keeps.ite | simp only [List.foldl_cons, List.foldl_nil] | apply Keeps.foldl | apply Keeps.foldlFst | extract_lets | split)

theorem State.tokenTo_keeps {W : Places} {a₀ s₀ : State} (p1 p2 p3 p4 p5) (hW : Within 0x200000000000000000000000000000000000000000000000000000000000000000000000000000000000000000000000000000000000000000000000000000 W) (h₀ : Keeps W a₀ s₀) : Keeps W a₀ (State.tokenTo s₀ p1 p2 p3 p4 p5) := by
  unfold State.tokenTo
  with_reducible (repeat' first | assumption | exact Within.trans (by decide) hW | exact Within.bit (by decide) hW | refine places_some ?_ | exact places_none | refine places_cons ?_ ?_ | refine places_pair ?_ ?_ | exact places_nil | refine places_reg ?_ ?_ | exact places_regs | intro _ | apply State.sendSeqs_keeps | apply State.emit_keeps | apply Keeps.ite | simp only [List.foldl_cons, List.foldl_nil] | apply Keeps.foldl | apply Keeps.foldlFst | extract_lets | split)

theorem State.putBytes_keeps {W : Places} {a₀ s₀ : State} (p1 p2 p3) (hW : Within 0x100000000000000000000000000000000000000000000000000000000000000000000000000000000000000000000000000000000000000000000000000000 W) (h₀ : Keeps W a₀ s₀) : Keeps W a₀ (State.putBytes s₀ p1 p2 p3) := by
  unfold State.putBytes
  with_reducible (repeat' first | assumption | exact Within.trans (by decide) hW | exact Within.bit (by decide) hW | refine places_some ?_ | exact places_none | refine places_cons ?_ ?_ | refine places_pair ?_ ?_ | exact places_nil | refine places_reg ?_ ?_ | exact places_regs | intro _ | apply State.putByte_keeps | apply Keeps.ite | simp only [List.foldl_cons, List.foldl_nil] | apply Keeps.foldl | apply Keeps.foldlFst | extract_lets | split)

theorem State.putRing_keeps {W : Places} {a₀ s₀ : State} (p1 p2 p3 p4 p5) (hW : Within 0x100000000000000000000000000000000000000000000000000000000000000000000000000000000000000000000000000000000000000000000000000000 W) (h₀ : Keeps W a₀ s₀) : Keeps W a₀ (State.putRing s₀ p1 p2 p3 p4 p5) := by
  unfold State.putRing
  with_reducible (repeat' first | assumption | exact Within.trans (by decide) hW | exact Within.bit (by decide) hW | refine places_some ?_ | exact places_none | refine places_cons ?_ ?_ | refine places_pair ?_ ?_ | exact places_nil | refine places_reg ?_ ?_ | exact places_regs | intro _ | apply State.putByte_keeps | apply Keeps.ite | simp only [List.foldl_cons, List.foldl_nil] | apply Keeps.foldl | apply Keeps.foldlFst | extract_lets | split)

theorem State.setGroup_keeps {W : Places} {a s : State} (g v) (hW : Within 0x8000 W) (h : Keeps W a s) : Keeps W a (s.setGroup g v) := by
  refine State.set_keeps ?_ h
  have e : (groupFld g).id / 128 = Reg.PWR_GROUP_STATE.ctorIdx := by
    simp only [groupFld, Fld.id]
    omega
  rw [e]
  exact Within.bit (by decide) hW

theorem State.syncDev_keeps {W : Places} {a₀ s₀ : State} (hW : Within 0x4 W) (h₀ : Keeps W a₀ s₀) : Keeps W a₀ (State.syncDev s₀) := by
  unfold State.syncDev
  with_reducible (repeat' first | assumption | exact Within.trans (by decide) hW | exact Within.bit (by decide) hW | refine places_some ?_ | exact places_none | refine places_cons ?_ ?_ | refine places_pair ?_ ?_ | exact places_nil | refine places_reg ?_ ?_ | exact places_regs | intro _ | apply State.set_keeps | apply State.fire_keeps | apply Keeps.ite | simp only [List.foldl_cons, List.foldl_nil] | apply Keeps.foldl | apply Keeps.foldlFst | extract_lets | split)

theorem State.formSync_keeps {W : Places} {a₀ s₀ : State} (p1) (hW : Within 0x2000000000000000000000000000000000 W) (h₀ : Keeps W a₀ s₀) : Keeps W a₀ (State.formSync s₀ p1) := by
  unfold State.formSync
  with_reducible (repeat' first | assumption | exact Within.trans (by decide) hW | exact Within.bit (by decide) hW | refine places_some ?_ | exact places_none | refine places_cons ?_ ?_ | refine places_pair ?_ ?_ | exact places_nil | refine places_reg ?_ ?_ | exact places_regs | intro _ | apply State.set_keeps | apply Keeps.ite | simp only [List.foldl_cons, List.foldl_nil] | apply Keeps.foldl | apply Keeps.foldlFst | extract_lets | split | apply Keeps.upd | apply Keeps.updOpen | apply Keeps.updBad)

theorem State.formSyncs_keeps {W : Places} {a₀ s₀ : State} (hW : Within 0x2000000000000000000000000000000000 W) (h₀ : Keeps W a₀ s₀) : Keeps W a₀ (State.formSyncs s₀) := by
  unfold State.formSyncs
  with_reducible (repeat' first | assumption | exact Within.trans (by decide) hW | exact Within.bit (by decide) hW | refine places_some ?_ | exact places_none | refine places_cons ?_ ?_ | refine places_pair ?_ ?_ | exact places_nil | refine places_reg ?_ ?_ | exact places_regs | intro _ | apply State.each_keeps | apply State.formSync_keeps | apply Keeps.ite | simp only [List.foldl_cons, List.foldl_nil] | apply Keeps.foldl | apply Keeps.foldlFst | extract_lets | split)

theorem State.enterState_keeps {W : Places} {a₀ s₀ : State} (p1 p2) (hW : Within 0x2000000000000000000000002000000004 W) (h₀ : Keeps W a₀ s₀) : Keeps W a₀ (State.enterState s₀ p1 p2) := by
  unfold State.enterState
  with_reducible (repeat' first | assumption | exact Within.trans (by decide) hW | exact Within.bit (by decide) hW | refine places_some ?_ | exact places_none | refine places_cons ?_ ?_ | refine places_pair ?_ ?_ | exact places_nil | refine places_reg ?_ ?_ | exact places_regs | intro _ | apply State.syncDev_keeps | apply State.set_keeps | apply State.pulse_keeps | apply State.setSite_keeps | apply State.formSyncs_keeps | apply Keeps.ite | simp only [List.foldl_cons, List.foldl_nil] | apply Keeps.foldl | apply Keeps.foldlFst | extract_lets | split)

end Sys2Proof.Machine
end

