-- ==== Sys2Proof/Laws/KeepStops.lean ====
section
/-! SUPPORT. What the operations and the commands of Machine/Stops.lean keep (Laws/Keeps.lean). -/

set_option linter.unusedTactic false
set_option linter.unreachableTactic false
set_option linter.unusedVariables false
set_option linter.unusedSimpArgs false

namespace Sys2Proof.Machine

theorem State.setLevel_keeps {W : Places} {a₀ s₀ : State} (p1 p2 p3) (h₀ : Keeps W a₀ s₀) : Keeps W a₀ (State.setLevel s₀ p1 p2 p3) := by
  unfold State.setLevel
  with_reducible (repeat' first | assumption | exact Within.trans (by decide) hW | exact Within.bit (by decide) hW | refine places_some ?_ | exact places_none | refine places_cons ?_ ?_ | refine places_pair ?_ ?_ | exact places_nil | refine places_reg ?_ ?_ | exact places_regs | intro _ | apply State.setChan_keeps | apply Keeps.ite | simp only [List.foldl_cons, List.foldl_nil] | apply Keeps.foldl | apply Keeps.foldlFst | extract_lets | split)

theorem State.dropEdge_keeps {W : Places} {a₀ s₀ : State} (p1) (hW : Within 0x60000000000000000000000000000000000000000000000000000000000000000000000600800000000000000000 W) (h₀ : Keeps W a₀ s₀) : Keeps W a₀ (State.dropEdge s₀ p1) := by
  unfold State.dropEdge
  with_reducible (repeat' first | assumption | exact Within.trans (by decide) hW | exact Within.bit (by decide) hW | refine places_some ?_ | exact places_none | refine places_cons ?_ ?_ | refine places_pair ?_ ?_ | exact places_nil | refine places_reg ?_ ?_ | exact places_regs | intro _ | apply State.set_keeps | apply State.count_keeps | apply Keeps.ite | simp only [List.foldl_cons, List.foldl_nil] | apply Keeps.foldl | apply Keeps.foldlFst | extract_lets | split)

theorem State.driveNow_keeps {W : Places} {a₀ s₀ : State} (p1 p2) (hW : Within 0x60000000000000000000000000000000000000000000000000000000000000000000000600800000000000000000 W) (h₀ : Keeps W a₀ s₀) : Keeps W a₀ (State.driveNow s₀ p1 p2) := by
  unfold State.driveNow
  with_reducible (repeat' first | assumption | exact Within.trans (by decide) hW | exact Within.bit (by decide) hW | refine places_some ?_ | exact places_none | refine places_cons ?_ ?_ | refine places_pair ?_ ?_ | exact places_nil | refine places_reg ?_ ?_ | exact places_regs | intro _ | apply State.setChan_keeps | apply State.dropEdge_keeps | apply Keeps.ite | simp only [List.foldl_cons, List.foldl_nil] | apply Keeps.foldl | apply Keeps.foldlFst | extract_lets | split)

theorem State.runEvents_keeps {W : Places} {a₀ s₀ : State} (p1 p2) (hW : Within 0x60000000000000000000000000000000000000000000000000000000000000000000000600800000000000000000 W) (h₀ : Keeps W a₀ s₀) : Keeps W a₀ (State.runEvents s₀ p1 p2) := by
  unfold State.runEvents
  with_reducible (repeat' first | assumption | exact Within.trans (by decide) hW | exact Within.bit (by decide) hW | refine places_some ?_ | exact places_none | refine places_cons ?_ ?_ | refine places_pair ?_ ?_ | exact places_nil | refine places_reg ?_ ?_ | exact places_regs | intro _ | apply State.each_keeps | apply State.driveNow_keeps | apply Keeps.ite | simp only [List.foldl_cons, List.foldl_nil] | apply Keeps.foldl | apply Keeps.foldlFst | extract_lets | split)

theorem State.cutEvents_keeps {W : Places} {a₀ s₀ : State} (p1 p2) (hW : Within 0x60000000000000000000000000000000000000000000000000000000000000000000000600800000000000000000 W) (h₀ : Keeps W a₀ s₀) : Keeps W a₀ (State.cutEvents s₀ p1 p2) := by
  unfold State.cutEvents
  with_reducible (repeat' first | assumption | exact Within.trans (by decide) hW | exact Within.bit (by decide) hW | refine places_some ?_ | exact places_none | refine places_cons ?_ ?_ | refine places_pair ?_ ?_ | exact places_nil | refine places_reg ?_ ?_ | exact places_regs | intro _ | apply State.runEvents_keeps | apply State.setChan_keeps | apply Keeps.ite | simp only [List.foldl_cons, List.foldl_nil] | apply Keeps.foldl | apply Keeps.foldlFst | extract_lets | split)

theorem State.idleRead_keeps {W : Places} {a₀ s₀ : State} (p1) (hW : Within 0x800000000000000000 W) (h₀ : Keeps W a₀ s₀) : Keeps W a₀ (State.idleRead s₀ p1) := by
  unfold State.idleRead
  with_reducible (repeat' first | assumption | exact Within.trans (by decide) hW | exact Within.bit (by decide) hW | refine places_some ?_ | exact places_none | refine places_cons ?_ ?_ | refine places_pair ?_ ?_ | exact places_nil | refine places_reg ?_ ?_ | exact places_regs | intro _ | apply State.set_keeps | apply Keeps.ite | simp only [List.foldl_cons, List.foldl_nil] | apply Keeps.foldl | apply Keeps.foldlFst | extract_lets | split)

theorem State.idleSlice_keeps {W : Places} {a₀ s₀ : State} (p1 p2) (hW : Within 0x60000000000000000000000000000000000000000000000000000000000000000000000600800000000000000000 W) (h₀ : Keeps W a₀ s₀) : Keeps W a₀ (State.idleSlice s₀ p1 p2) := by
  unfold State.idleSlice
  with_reducible (repeat' first | assumption | exact Within.trans (by decide) hW | exact Within.bit (by decide) hW | refine places_some ?_ | exact places_none | refine places_cons ?_ ?_ | refine places_pair ?_ ?_ | exact places_nil | refine places_reg ?_ ?_ | exact places_regs | intro _ | apply State.each_keeps | apply State.setLevel_keeps | apply State.idleRead_keeps | apply State.cutEvents_keeps | apply Keeps.ite | simp only [List.foldl_cons, List.foldl_nil] | apply Keeps.foldl | apply Keeps.foldlFst | extract_lets | split)

theorem State.holdSliceLevels_keeps {W : Places} {a₀ s₀ : State} (p1 p2) (hW : Within 0x60000000000000000000000000000000000000000000000000000000000000000000000600800000000000000000 W) (h₀ : Keeps W a₀ s₀) : Keeps W a₀ (State.holdSliceLevels s₀ p1 p2) := by
  unfold State.holdSliceLevels
  with_reducible (repeat' first | assumption | exact Within.trans (by decide) hW | exact Within.bit (by decide) hW | refine places_some ?_ | exact places_none | refine places_cons ?_ ?_ | refine places_pair ?_ ?_ | exact places_nil | refine places_reg ?_ ?_ | exact places_regs | intro _ | apply State.each_keeps | apply State.setLevel_keeps | apply State.cutEvents_keeps | apply Keeps.ite | simp only [List.foldl_cons, List.foldl_nil] | apply Keeps.foldl | apply Keeps.foldlFst | extract_lets | split)

theorem State.sendToken_keeps {W : Places} {a₀ s₀ : State} (p1 p2 p3 p4) (hW : Within 0x200000000000000000000000000000000000000000000000000000000000000000000000000000000000000000000000000000000000000000000000000000 W) (h₀ : Keeps W a₀ s₀) : Keeps W a₀ (State.sendToken s₀ p1 p2 p3 p4) := by
  unfold State.sendToken
  with_reducible (repeat' first | assumption | exact Within.trans (by decide) hW | exact Within.bit (by decide) hW | refine places_some ?_ | exact places_none | refine places_cons ?_ ?_ | refine places_pair ?_ ?_ | exact places_nil | refine places_reg ?_ ?_ | exact places_regs | intro _ | apply State.each_keeps | apply State.tokenTo_keeps | apply Keeps.ite | simp only [List.foldl_cons, List.foldl_nil] | apply Keeps.foldl | apply Keeps.foldlFst | extract_lets | split)

theorem State.tokenHome_keeps {W : Places} {a₀ s₀ : State} (p1 p2 p3 p4) (hW : Within 0x200000000000000000000000000000000000000000000000000000000000000000000000000000000000000000000000000000000000000000000000000000 W) (h₀ : Keeps W a₀ s₀) : Keeps W a₀ (State.tokenHome s₀ p1 p2 p3 p4) := by
  unfold State.tokenHome
  with_reducible (repeat' first | assumption | exact Within.trans (by decide) hW | exact Within.bit (by decide) hW | refine places_some ?_ | exact places_none | refine places_cons ?_ ?_ | refine places_pair ?_ ?_ | exact places_nil | refine places_reg ?_ ?_ | exact places_regs | intro _ | apply State.tokenTo_keeps | apply Keeps.ite | simp only [List.foldl_cons, List.foldl_nil] | apply Keeps.foldl | apply Keeps.foldlFst | extract_lets | split)

theorem State.firstFail_keeps {W : Places} {a₀ s₀ : State} (p1 p2) (hW : Within 0x380000000000000000000000000 W) (h₀ : Keeps W a₀ s₀) : Keeps W a₀ (State.firstFail s₀ p1 p2) := by
  unfold State.firstFail
  with_reducible (repeat' first | assumption | exact Within.trans (by decide) hW | exact Within.bit (by decide) hW | refine places_some ?_ | exact places_none | refine places_cons ?_ ?_ | refine places_pair ?_ ?_ | exact places_nil | refine places_reg ?_ ?_ | exact places_regs | intro _ | apply State.each_keeps | apply State.set_keeps | apply Keeps.ite | simp only [List.foldl_cons, List.foldl_nil] | apply Keeps.foldl | apply Keeps.foldlFst | extract_lets | split)

theorem State.capLost_keeps {W : Places} {a₀ s₀ : State} (p1) (hW : Within 0x60000000000000000000000000000000000000000000000000000000000000008200000000000000000000000000 W) (h₀ : Keeps W a₀ s₀) : Keeps W a₀ (State.capLost s₀ p1) := by
  unfold State.capLost
  with_reducible (repeat' first | assumption | exact Within.trans (by decide) hW | exact Within.bit (by decide) hW | refine places_some ?_ | exact places_none | refine places_cons ?_ ?_ | refine places_pair ?_ ?_ | exact places_nil | refine places_reg ?_ ?_ | exact places_regs | intro _ | apply State.set_keeps | apply State.count_keeps | apply Keeps.ite | simp only [List.foldl_cons, List.foldl_nil] | apply Keeps.foldl | apply Keeps.foldlFst | extract_lets | split)

theorem State.stageRecord_keeps {W : Places} {a₀ s₀ : State} (p1 p2 p3) (hW : Within 0x60000000000000000000000000000000000000000000000000000000000000008381400000000000000000000000 W) (h₀ : Keeps W a₀ s₀) : Keeps W a₀ (State.stageRecord s₀ p1 p2 p3) := by
  unfold State.stageRecord
  with_reducible (repeat' first | assumption | exact Within.trans (by decide) hW | exact Within.bit (by decide) hW | refine places_some ?_ | exact places_none | refine places_cons ?_ ?_ | refine places_pair ?_ ?_ | exact places_nil | refine places_reg ?_ ?_ | exact places_regs | intro _ | apply State.drew_keeps | apply State.firstFail_keeps | apply State.setSlice_keeps | apply State.set_keeps | apply State.capLost_keeps | apply Keeps.ite | simp only [List.foldl_cons, List.foldl_nil] | apply Keeps.foldl | apply Keeps.foldlFst | extract_lets | split)

theorem State.emitVerdict_keeps {W : Places} {a₀ s₀ : State} (p1 p2) (hW : Within 0x60000000000000000000000000000000000000000000000000000000000000008381400000000000000000000000 W) (h₀ : Keeps W a₀ s₀) : Keeps W a₀ (State.emitVerdict s₀ p1 p2) := by
  unfold State.emitVerdict
  with_reducible (repeat' first | assumption | exact Within.trans (by decide) hW | exact Within.bit (by decide) hW | refine places_some ?_ | exact places_none | refine places_cons ?_ ?_ | refine places_pair ?_ ?_ | exact places_nil | refine places_reg ?_ ?_ | exact places_regs | intro _ | apply State.each_keeps | apply State.stageRecord_keeps | apply Keeps.ite | simp only [List.foldl_cons, List.foldl_nil] | apply Keeps.foldl | apply Keeps.foldlFst | extract_lets | split)

theorem State.flushVerdicts_keeps {W : Places} {a₀ s₀ : State} (p1) (hW : Within 0x60000000000000000000000000000000000000000000000000000000000000008381400000000000000000000000 W) (h₀ : Keeps W a₀ s₀) : Keeps W a₀ (State.flushVerdicts s₀ p1) := by
  unfold State.flushVerdicts
  with_reducible (repeat' first | assumption | exact Within.trans (by decide) hW | exact Within.bit (by decide) hW | refine places_some ?_ | exact places_none | refine places_cons ?_ ?_ | refine places_pair ?_ ?_ | exact places_nil | refine places_reg ?_ ?_ | exact places_regs | intro _ | apply State.emitVerdict_keeps | apply State.setSlice_keeps | apply Keeps.ite | simp only [List.foldl_cons, List.foldl_nil] | apply Keeps.foldl | apply Keeps.foldlFst | extract_lets | split)

theorem State.detect_keeps {W : Places} {a₀ s₀ : State} (p1 p2) (h₀ : Keeps W a₀ s₀) : Keeps W a₀ (State.detect s₀ p1 p2) := by
  unfold State.detect
  with_reducible (repeat' first | assumption | exact Within.trans (by decide) hW | exact Within.bit (by decide) hW | refine places_some ?_ | exact places_none | refine places_cons ?_ ?_ | refine places_pair ?_ ?_ | exact places_nil | refine places_reg ?_ ?_ | exact places_regs | intro _ | apply State.setSite_keeps | apply Keeps.ite | simp only [List.foldl_cons, List.foldl_nil] | apply Keeps.foldl | apply Keeps.foldlFst | extract_lets | split)

theorem State.addFails_keeps {W : Places} {a₀ s₀ : State} (p1 p2) (hW : Within 0x60000000000000000000000000000000000000000000000000000000000000000042000000000000000000000000 W) (h₀ : Keeps W a₀ s₀) : Keeps W a₀ (State.addFails s₀ p1 p2) := by
  unfold State.addFails
  with_reducible (repeat' first | assumption | exact Within.trans (by decide) hW | exact Within.bit (by decide) hW | refine places_some ?_ | exact places_none | refine places_cons ?_ ?_ | refine places_pair ?_ ?_ | exact places_nil | refine places_reg ?_ ?_ | exact places_regs | intro _ | apply State.count_keeps | apply State.set_keeps | apply State.detect_keeps | apply Keeps.ite | simp only [List.foldl_cons, List.foldl_nil] | apply Keeps.foldl | apply Keeps.foldlFst | extract_lets | split)

theorem State.addCounts_keeps {W : Places} {a₀ s₀ : State} (p1) (hW : Within 0x200000000000000000000000000000000060000000000000000000000000000000000000000000000000000000000000000042000000000000000000000000 W) (h₀ : Keeps W a₀ s₀) : Keeps W a₀ (State.addCounts s₀ p1) := by
  unfold State.addCounts
  with_reducible (repeat' first | assumption | exact Within.trans (by decide) hW | exact Within.bit (by decide) hW | refine places_some ?_ | exact places_none | refine places_cons ?_ ?_ | refine places_pair ?_ ?_ | exact places_nil | refine places_reg ?_ ?_ | exact places_regs | intro _ | apply State.setSlice_keeps | apply State.tokenHome_keeps | apply State.addFails_keeps | apply Keeps.ite | simp only [List.foldl_cons, List.foldl_nil] | apply Keeps.foldl | apply Keeps.foldlFst | extract_lets | split)

theorem State.forceMask_keeps {W : Places} {a₀ s₀ : State} (p1) (hW : Within 0x20000000000000000000000 W) (h₀ : Keeps W a₀ s₀) : Keeps W a₀ (State.forceMask s₀ p1) := by
  unfold State.forceMask
  with_reducible (repeat' first | assumption | exact Within.trans (by decide) hW | exact Within.bit (by decide) hW | refine places_some ?_ | exact places_none | refine places_cons ?_ ?_ | refine places_pair ?_ ?_ | exact places_nil | refine places_reg ?_ ?_ | exact places_regs | intro _ | apply State.set_keeps | apply State.setChan_keeps | apply Keeps.ite | simp only [List.foldl_cons, List.foldl_nil] | apply Keeps.foldl | apply Keeps.foldlFst | extract_lets | split)

theorem State.forceMasks_keeps {W : Places} {a₀ s₀ : State} (p1) (hW : Within 0x20000000000000000000000 W) (h₀ : Keeps W a₀ s₀) : Keeps W a₀ (State.forceMasks s₀ p1) := by
  unfold State.forceMasks
  with_reducible (repeat' first | assumption | exact Within.trans (by decide) hW | exact Within.bit (by decide) hW | refine places_some ?_ | exact places_none | refine places_cons ?_ ?_ | refine places_pair ?_ ?_ | exact places_nil | refine places_reg ?_ ?_ | exact places_regs | intro _ | apply State.each_keeps | apply State.forceMask_keeps | apply Keeps.ite | simp only [List.foldl_cons, List.foldl_nil] | apply Keeps.foldl | apply Keeps.foldlFst | extract_lets | split)

theorem State.freeSlots_keeps {W : Places} {a₀ s₀ : State} (p1 p2) (hW : Within 0x44000000000000 W) (h₀ : Keeps W a₀ s₀) : Keeps W a₀ (State.freeSlots s₀ p1 p2) := by
  unfold State.freeSlots
  with_reducible (repeat' first | assumption | exact Within.trans (by decide) hW | exact Within.bit (by decide) hW | refine places_some ?_ | exact places_none | refine places_cons ?_ ?_ | refine places_pair ?_ ?_ | exact places_nil | refine places_reg ?_ ?_ | exact places_regs | intro _ | apply State.set_keeps | apply Keeps.ite | simp only [List.foldl_cons, List.foldl_nil] | apply Keeps.foldl | apply Keeps.foldlFst | extract_lets | split)

theorem State.dropAll_keeps {W : Places} {a₀ s₀ : State} (p1) (hW : Within 0x44000000000000 W) (h₀ : Keeps W a₀ s₀) : Keeps W a₀ (State.dropAll s₀ p1) := by
  unfold State.dropAll
  with_reducible (repeat' first | assumption | exact Within.trans (by decide) hW | exact Within.bit (by decide) hW | refine places_some ?_ | exact places_none | refine places_cons ?_ ?_ | refine places_pair ?_ ?_ | exact places_nil | refine places_reg ?_ ?_ | exact places_regs | intro _ | apply State.setSlice_keeps | apply State.freeSlots_keeps | apply Keeps.ite | simp only [List.foldl_cons, List.foldl_nil] | apply Keeps.foldl | apply Keeps.foldlFst | extract_lets | split | apply Keeps.upd | apply Keeps.updOpen | apply Keeps.updBad)

theorem State.emptySlice_keeps {W : Places} {a₀ s₀ : State} (p1) (hW : Within 0x444000000000000 W) (h₀ : Keeps W a₀ s₀) : Keeps W a₀ (State.emptySlice s₀ p1) := by
  unfold State.emptySlice
  with_reducible (repeat' first | assumption | exact Within.trans (by decide) hW | exact Within.bit (by decide) hW | refine places_some ?_ | exact places_none | refine places_cons ?_ ?_ | refine places_pair ?_ ?_ | exact places_nil | refine places_reg ?_ ?_ | exact places_regs | intro _ | apply State.dropAll_keeps | apply State.set_keeps | apply State.setSlice_keeps | apply Keeps.ite | simp only [List.foldl_cons, List.foldl_nil] | apply Keeps.foldl | apply Keeps.foldlFst | extract_lets | split)

theorem State.endSlice_keeps {W : Places} {a₀ s₀ : State} (p1 p2) (hW : Within 0x2000000000000000000000000000000000600000000000000000000000000000000000000000000000000000000000000083c3420600800400000000000000 W) (h₀ : Keeps W a₀ s₀) : Keeps W a₀ (State.endSlice s₀ p1 p2) := by
  unfold State.endSlice
  with_reducible (repeat' first | assumption | exact Within.trans (by decide) hW | exact Within.bit (by decide) hW | refine places_some ?_ | exact places_none | refine places_cons ?_ ?_ | refine places_pair ?_ ?_ | exact places_nil | refine places_reg ?_ ?_ | exact places_regs | intro _ | apply State.flushVerdicts_keeps | apply State.idleSlice_keeps | apply State.forceMasks_keeps | apply State.addCounts_keeps | apply State.setSlice_keeps | apply State.set_keeps | apply Keeps.ite | simp only [List.foldl_cons, List.foldl_nil] | apply Keeps.foldl | apply Keeps.foldlFst | extract_lets | split)

theorem State.stopSlice_keeps {W : Places} {a₀ s₀ : State} (p1 p2) (hW : Within 0x2000000000000000000000000000000000600000000000000000000000000000000000000000000000000000000000000083c3420608800400000000000000 W) (h₀ : Keeps W a₀ s₀) : Keeps W a₀ (State.stopSlice s₀ p1 p2) := by
  unfold State.stopSlice
  with_reducible (repeat' first | assumption | exact Within.trans (by decide) hW | exact Within.bit (by decide) hW | refine places_some ?_ | exact places_none | refine places_cons ?_ ?_ | refine places_pair ?_ ?_ | exact places_nil | refine places_reg ?_ ?_ | exact places_regs | intro _ | apply State.flushVerdicts_keeps | apply State.holdSliceLevels_keeps | apply State.forceMasks_keeps | apply State.addCounts_keeps | apply State.set_keeps | apply State.setSlice_keeps | apply Keeps.ite | simp only [List.foldl_cons, List.foldl_nil] | apply Keeps.foldl | apply Keeps.foldlFst | extract_lets | split)

theorem State.cutRecord_keeps {W : Places} {a₀ s₀ : State} (p1) (hW : Within 0x200000000000000000000000000000000000 W) (h₀ : Keeps W a₀ s₀) : Keeps W a₀ (State.cutRecord s₀ p1) := by
  unfold State.cutRecord
  with_reducible (repeat' first | assumption | exact Within.trans (by decide) hW | exact Within.bit (by decide) hW | refine places_some ?_ | exact places_none | refine places_cons ?_ ?_ | refine places_pair ?_ ?_ | exact places_nil | refine places_reg ?_ ?_ | exact places_regs | intro _ | apply State.set_keeps | apply State.setAcqU_keeps | apply State.drew_keeps | apply Keeps.ite | simp only [List.foldl_cons, List.foldl_nil] | apply Keeps.foldl | apply Keeps.foldlFst | extract_lets | split)

theorem State.disarmUnit_keeps {W : Places} {a₀ s₀ : State} (p1) (hW : Within 0x200000000000000000000000000000000000 W) (h₀ : Keeps W a₀ s₀) : Keeps W a₀ (State.disarmUnit s₀ p1) := by
  unfold State.disarmUnit
  with_reducible (repeat' first | assumption | exact Within.trans (by decide) hW | exact Within.bit (by decide) hW | refine places_some ?_ | exact places_none | refine places_cons ?_ ?_ | refine places_pair ?_ ?_ | exact places_nil | refine places_reg ?_ ?_ | exact places_regs | intro _ | apply State.setAcqU_keeps | apply State.set_keeps | apply State.cutRecord_keeps | apply Keeps.ite | simp only [List.foldl_cons, List.foldl_nil] | apply Keeps.foldl | apply Keeps.foldlFst | extract_lets | split)

theorem State.channelEvent_keeps {W : Places} {a₀ s₀ : State} (p1 p2) (h₀ : Keeps W a₀ s₀) : Keeps W a₀ (State.channelEvent s₀ p1 p2) := by
  unfold State.channelEvent
  with_reducible (repeat' first | assumption | exact Within.trans (by decide) hW | exact Within.bit (by decide) hW | refine places_some ?_ | exact places_none | refine places_cons ?_ ?_ | refine places_pair ?_ ?_ | exact places_nil | refine places_reg ?_ ?_ | exact places_regs | intro _ | apply State.fire_keeps | apply Keeps.ite | simp only [List.foldl_cons, List.foldl_nil] | apply Keeps.foldl | apply Keeps.foldlFst | extract_lets | split)

theorem State.measDone_keeps {W : Places} {a₀ s₀ : State} (p1 p2) (hW : Within 0x40100000000000000000000000000000000000000000 W) (h₀ : Keeps W a₀ s₀) : Keeps W a₀ (State.measDone s₀ p1 p2) := by
  unfold State.measDone
  with_reducible (repeat' first | assumption | exact Within.trans (by decide) hW | exact Within.bit (by decide) hW | refine places_some ?_ | exact places_none | refine places_cons ?_ ?_ | refine places_pair ?_ ?_ | exact places_nil | refine places_reg ?_ ?_ | exact places_regs | intro _ | apply State.set_keeps | apply State.setTiaU_keeps | apply State.channelEvent_keeps | apply Keeps.ite | simp only [List.foldl_cons, List.foldl_nil] | apply Keeps.foldl | apply Keeps.foldlFst | extract_lets | split)

theorem State.endMeas_keeps {W : Places} {a₀ s₀ : State} (p1) (hW : Within 0x40100000000000000000000000000000000000000000 W) (h₀ : Keeps W a₀ s₀) : Keeps W a₀ (State.endMeas s₀ p1) := by
  unfold State.endMeas
  with_reducible (repeat' first | assumption | exact Within.trans (by decide) hW | exact Within.bit (by decide) hW | refine places_some ?_ | exact places_none | refine places_cons ?_ ?_ | refine places_pair ?_ ?_ | exact places_nil | refine places_reg ?_ ?_ | exact places_regs | intro _ | apply State.measDone_keeps | apply Keeps.ite | simp only [List.foldl_cons, List.foldl_nil] | apply Keeps.foldl | apply Keeps.foldlFst | extract_lets | split)

theorem State.endUnits_keeps {W : Places} {a₀ s₀ : State} (p1) (hW : Within 0x40100000200000000000000000000000000000000000 W) (h₀ : Keeps W a₀ s₀) : Keeps W a₀ (State.endUnits s₀ p1) := by
  unfold State.endUnits
  with_reducible (repeat' first | assumption | exact Within.trans (by decide) hW | exact Within.bit (by decide) hW | refine places_some ?_ | exact places_none | refine places_cons ?_ ?_ | refine places_pair ?_ ?_ | exact places_nil | refine places_reg ?_ ?_ | exact places_regs | intro _ | apply State.each_keeps | apply State.endMeas_keeps | apply State.disarmUnit_keeps | apply Keeps.ite | simp only [List.foldl_cons, List.foldl_nil] | apply Keeps.foldl | apply Keeps.foldlFst | extract_lets | split)

theorem State.settleRefl_keeps {W : Places} {a₀ s₀ : State} (p1 p2) (hW : Within 0x24000000000000000000000000000000000000000000000000 W) (h₀ : Keeps W a₀ s₀) : Keeps W a₀ (State.settleRefl s₀ p1 p2) := by
  unfold State.settleRefl
  with_reducible (repeat' first | assumption | exact Within.trans (by decide) hW | exact Within.bit (by decide) hW | refine places_some ?_ | exact places_none | refine places_cons ?_ ?_ | refine places_pair ?_ ?_ | exact places_nil | refine places_reg ?_ ?_ | exact places_regs | intro _ | apply State.setTrimU_keeps | apply State.set_keeps | apply State.drew_keeps | apply Keeps.ite | simp only [List.foldl_cons, List.foldl_nil] | apply Keeps.foldl | apply Keeps.foldlFst | extract_lets | split)

theorem State.endReflection_keeps {W : Places} {a₀ s₀ : State} (p1 p2) (hW : Within 0x624000000000000000000000000000000000000000000000000 W) (h₀ : Keeps W a₀ s₀) : Keeps W a₀ (State.endReflection s₀ p1 p2) := by
  unfold State.endReflection
  with_reducible (repeat' first | assumption | exact Within.trans (by decide) hW | exact Within.bit (by decide) hW | refine places_some ?_ | exact places_none | refine places_cons ?_ ?_ | refine places_pair ?_ ?_ | exact places_nil | refine places_reg ?_ ?_ | exact places_regs | intro _ | apply State.set_keeps | apply State.each_keeps | apply State.settleRefl_keeps | apply Keeps.ite | simp only [List.foldl_cons, List.foldl_nil] | apply Keeps.foldl | apply Keeps.foldlFst | extract_lets | split)

theorem State.flushBus_keeps {W : Places} {a₀ s₀ : State} (p1) (hW : Within 0x200000000000000000000000000000000000000000000000000000000 W) (h₀ : Keeps W a₀ s₀) : Keeps W a₀ (State.flushBus s₀ p1) := by
  unfold State.flushBus
  with_reducible (repeat' first | assumption | exact Within.trans (by decide) hW | exact Within.bit (by decide) hW | refine places_some ?_ | exact places_none | refine places_cons ?_ ?_ | refine places_pair ?_ ?_ | exact places_nil | refine places_reg ?_ ?_ | exact places_regs | intro _ | apply State.setBus_keeps | apply State.set_keeps | apply Keeps.ite | simp only [List.foldl_cons, List.foldl_nil] | apply Keeps.foldl | apply Keeps.foldlFst | extract_lets | split)

theorem State.setBin_keeps {W : Places} {a₀ s₀ : State} (p1 p2) (hW : Within 0x100000000000000000000000000000 W) (h₀ : Keeps W a₀ s₀) : Keeps W a₀ (State.setBin s₀ p1 p2) := by
  unfold State.setBin
  with_reducible (repeat' first | assumption | exact Within.trans (by decide) hW | exact Within.bit (by decide) hW | refine places_some ?_ | exact places_none | refine places_cons ?_ ?_ | refine places_pair ?_ ?_ | exact places_nil | refine places_reg ?_ ?_ | exact places_regs | intro _ | apply State.set_keeps | apply Keeps.ite | simp only [List.foldl_cons, List.foldl_nil] | apply Keeps.foldl | apply Keeps.foldlFst | extract_lets | split)

theorem State.answer_keeps {W : Places} {a₀ s₀ : State} (p1 p2) (hW : Within 0x10000000000 W) (h₀ : Keeps W a₀ s₀) : Keeps W a₀ (State.answer s₀ p1 p2) := by
  unfold State.answer
  with_reducible (repeat' first | assumption | exact Within.trans (by decide) hW | exact Within.bit (by decide) hW | refine places_some ?_ | exact places_none | refine places_cons ?_ ?_ | refine places_pair ?_ ?_ | exact places_nil | refine places_reg ?_ ?_ | exact places_regs | intro _ | apply State.set_keeps | apply Keeps.ite | simp only [List.foldl_cons, List.foldl_nil] | apply Keeps.foldl | apply Keeps.foldlFst | extract_lets | split)

theorem State.answerAbort_keeps {W : Places} {a₀ s₀ : State} (p1 p2) (hW : Within 0x10000000000 W) (h₀ : Keeps W a₀ s₀) : Keeps W a₀ (State.answerAbort s₀ p1 p2) := by
  unfold State.answerAbort
  with_reducible (repeat' first | assumption | exact Within.trans (by decide) hW | exact Within.bit (by decide) hW | refine places_some ?_ | exact places_none | refine places_cons ?_ ?_ | refine places_pair ?_ ?_ | exact places_nil | refine places_reg ?_ ?_ | exact places_regs | intro _ | apply State.setSite_keeps | apply State.answer_keeps | apply State.set_keeps | apply Keeps.ite | simp only [List.foldl_cons, List.foldl_nil] | apply Keeps.foldl | apply Keeps.foldlFst | extract_lets | split)

theorem State.stopCtx_keeps {W : Places} {a₀ s₀ : State} (p1) (hW : Within 0x2000020000000000000000000000000000 W) (h₀ : Keeps W a₀ s₀) : Keeps W a₀ (State.stopCtx s₀ p1) := by
  unfold State.stopCtx
  with_reducible (repeat' first | assumption | exact Within.trans (by decide) hW | exact Within.bit (by decide) hW | refine places_some ?_ | exact places_none | refine places_cons ?_ ?_ | refine places_pair ?_ ?_ | exact places_nil | refine places_reg ?_ ?_ | exact places_regs | intro _ | apply State.setCtx_keeps | apply State.set_keeps | apply State.formSync_keeps | apply Keeps.ite | simp only [List.foldl_cons, List.foldl_nil] | apply Keeps.foldl | apply Keeps.foldlFst | extract_lets | split)

theorem State.closeTrim_keeps {W : Places} {a₀ s₀ : State} (p1) (hW : Within 0x624000000000000000008000000000000000000002000000000 W) (h₀ : Keeps W a₀ s₀) : Keeps W a₀ (State.closeTrim s₀ p1) := by
  unfold State.closeTrim
  with_reducible (repeat' first | assumption | exact Within.trans (by decide) hW | exact Within.bit (by decide) hW | refine places_some ?_ | exact places_none | refine places_cons ?_ ?_ | refine places_pair ?_ ?_ | exact places_nil | refine places_reg ?_ ?_ | exact places_regs | intro _ | apply State.endReflection_keeps | apply State.setSite_keeps | apply State.set_keeps | apply Keeps.ite | simp only [List.foldl_cons, List.foldl_nil] | apply Keeps.foldl | apply Keeps.foldlFst | extract_lets | split)

theorem State.enterDone_keeps {W : Places} {a₀ s₀ : State} (p1) (hW : Within 0x624000040100000202008020000000000000446012000000004 W) (h₀ : Keeps W a₀ s₀) : Keeps W a₀ (State.enterDone s₀ p1) := by
  unfold State.enterDone
  with_reducible (repeat' first | assumption | exact Within.trans (by decide) hW | exact Within.bit (by decide) hW | refine places_some ?_ | exact places_none | refine places_cons ?_ ?_ | refine places_pair ?_ ?_ | exact places_nil | refine places_reg ?_ ?_ | exact places_regs | intro _ | apply State.answerAbort_keeps | apply State.set_keeps | apply State.endUnits_keeps | apply State.closeTrim_keeps | apply State.stopCtx_keeps | apply State.each_keeps | apply State.emptySlice_keeps | apply State.setSlice_keeps | apply State.setSite_keeps | apply State.enterState_keeps | apply Keeps.ite | simp only [List.foldl_cons, List.foldl_nil] | apply Keeps.foldl | apply Keeps.foldlFst | extract_lets | split)

theorem State.withdrawLadder_keeps {W : Places} {a₀ s₀ : State} (p1) (hW : Within 0x8400 W) (h₀ : Keeps W a₀ s₀) : Keeps W a₀ (State.withdrawLadder s₀ p1) := by
  unfold State.withdrawLadder
  with_reducible (repeat' first | assumption | exact Within.trans (by decide) hW | exact Within.bit (by decide) hW | refine places_some ?_ | exact places_none | refine places_cons ?_ ?_ | refine places_pair ?_ ?_ | exact places_nil | refine places_reg ?_ ?_ | exact places_regs | intro _ | apply State.setSite_keeps | apply State.each_keeps | apply State.setGroup_keeps | apply State.set_keeps | apply Keeps.ite | simp only [List.foldl_cons, List.foldl_nil] | apply Keeps.foldl | apply Keeps.foldlFst | extract_lets | split | apply Keeps.upd | apply Keeps.updOpen | apply Keeps.updBad)

theorem State.siteFault_keeps {W : Places} {a₀ s₀ : State} (p1 p2) (hW : Within 0x200000000000000000000000000000000060000000000000000000000000000000000000000624000040100000202008100000000600800445012000000004 W) (h₀ : Keeps W a₀ s₀) : Keeps W a₀ (State.siteFault s₀ p1 p2) := by
  unfold State.siteFault
  with_reducible (repeat' first | assumption | exact Within.trans (by decide) hW | exact Within.bit (by decide) hW | refine places_some ?_ | exact places_none | refine places_cons ?_ ?_ | refine places_pair ?_ ?_ | exact places_nil | refine places_reg ?_ ?_ | exact places_regs | intro _ | apply State.set_keeps | apply State.answerAbort_keeps | apply State.setBin_keeps | apply State.endUnits_keeps | apply State.closeTrim_keeps | apply State.setSite_keeps | apply State.setCtx_keeps | apply State.each_keeps | apply State.emptySlice_keeps | apply State.holdSliceLevels_keeps | apply State.sendToken_keeps | apply State.enterState_keeps | apply Keeps.ite | simp only [List.foldl_cons, List.foldl_nil] | apply Keeps.foldl | apply Keeps.foldlFst | extract_lets | split)

theorem State.safeSite_keeps {W : Places} {a₀ s₀ : State} (p1) (hW : Within 0x200000000000000000000000000000000000000000000000000000000000000000000000000624000040100000202008120000000000000446012000008404 W) (h₀ : Keeps W a₀ s₀) : Keeps W a₀ (State.safeSite s₀ p1) := by
  unfold State.safeSite
  with_reducible (repeat' first | assumption | exact Within.trans (by decide) hW | exact Within.bit (by decide) hW | refine places_some ?_ | exact places_none | refine places_cons ?_ ?_ | refine places_pair ?_ ?_ | exact places_nil | refine places_reg ?_ ?_ | exact places_regs | intro _ | apply State.enterDone_keeps | apply State.tokenHome_keeps | apply State.answerAbort_keeps | apply State.set_keeps | apply State.sendToken_keeps | apply State.withdrawLadder_keeps | apply State.setBin_keeps | apply Keeps.ite | simp only [List.foldl_cons, List.foldl_nil] | apply Keeps.foldl | apply Keeps.foldlFst | extract_lets | split)

theorem State.safeSlice_keeps {W : Places} {a₀ s₀ : State} (p1) (hW : Within 0x2000000000000000000000000000000000600000000000000000000000000000000000000000000000000000000000000083c3420600800444000000000000 W) (h₀ : Keeps W a₀ s₀) : Keeps W a₀ (State.safeSlice s₀ p1) := by
  unfold State.safeSlice
  with_reducible (repeat' first | assumption | exact Within.trans (by decide) hW | exact Within.bit (by decide) hW | refine places_some ?_ | exact places_none | refine places_cons ?_ ?_ | refine places_pair ?_ ?_ | exact places_nil | refine places_reg ?_ ?_ | exact places_regs | intro _ | apply State.flushVerdicts_keeps | apply State.idleSlice_keeps | apply State.forceMasks_keeps | apply State.addCounts_keeps | apply State.emptySlice_keeps | apply State.set_keeps | apply State.setSlice_keeps | apply Keeps.ite | simp only [List.foldl_cons, List.foldl_nil] | apply Keeps.foldl | apply Keeps.foldlFst | extract_lets | split)

theorem State.trigSafe_keeps {W : Places} {a₀ s₀ : State} (h₀ : Keeps W a₀ s₀) : Keeps W a₀ (State.trigSafe s₀) := by
  unfold State.trigSafe
  with_reducible (repeat' first | assumption | exact Within.trans (by decide) hW | exact Within.bit (by decide) hW | refine places_some ?_ | exact places_none | refine places_cons ?_ ?_ | refine places_pair ?_ ?_ | exact places_nil | refine places_reg ?_ ?_ | exact places_regs | intro _ | apply Keeps.ite | simp only [List.foldl_cons, List.foldl_nil] | apply Keeps.foldl | apply Keeps.foldlFst | extract_lets | split | apply Keeps.upd | apply Keeps.updOpen | apply Keeps.updBad)

theorem State.safeEffects_keeps {W : Places} {a₀ s₀ : State} (hW : Within 0x2000000000000000000000000000000000600000000000000000000000000000000002000006240000401000002020081283c3420600800446012000008404 W) (h₀ : Keeps W a₀ s₀) : Keeps W a₀ (State.safeEffects s₀) := by
  unfold State.safeEffects
  with_reducible (repeat' first | assumption | exact Within.trans (by decide) hW | exact Within.bit (by decide) hW | refine places_some ?_ | exact places_none | refine places_cons ?_ ?_ | refine places_pair ?_ ?_ | exact places_nil | refine places_reg ?_ ?_ | exact places_regs | intro _ | apply State.each_keeps | apply State.safeSlice_keeps | apply State.safeSite_keeps | apply State.endMeas_keeps | apply State.disarmUnit_keeps | apply State.flushBus_keeps | apply State.endReflection_keeps | apply State.trigSafe_keeps | apply Keeps.ite | simp only [List.foldl_cons, List.foldl_nil] | apply Keeps.foldl | apply Keeps.foldlFst | extract_lets | split)

theorem State.latchEntry_keeps {W : Places} {a₀ s₀ : State} (p1) (hW : Within 0x77000000000000000000000000000000000000000000000000000000000000000000000000000000000000000000 W) (h₀ : Keeps W a₀ s₀) : Keeps W a₀ (State.latchEntry s₀ p1) := by
  unfold State.latchEntry
  with_reducible (repeat' first | assumption | exact Within.trans (by decide) hW | exact Within.bit (by decide) hW | refine places_some ?_ | exact places_none | refine places_cons ?_ ?_ | refine places_pair ?_ ?_ | exact places_nil | refine places_reg ?_ ?_ | exact places_regs | intro _ | apply State.count_keeps | apply State.stamp_keeps | apply State.set_keeps | apply Keeps.ite | simp only [List.foldl_cons, List.foldl_nil] | apply Keeps.foldl | apply Keeps.foldlFst | extract_lets | split)

theorem State.addCause_keeps {W : Places} {a₀ s₀ : State} (p1) (hW : Within 0x3000000000000000000000000000000000000000000000000000000000000000000000000000000000000000000 W) (h₀ : Keeps W a₀ s₀) : Keeps W a₀ (State.addCause s₀ p1) := by
  unfold State.addCause
  with_reducible (repeat' first | assumption | exact Within.trans (by decide) hW | exact Within.bit (by decide) hW | refine places_some ?_ | exact places_none | refine places_cons ?_ ?_ | refine places_pair ?_ ?_ | exact places_nil | refine places_reg ?_ ?_ | exact places_regs | intro _ | apply State.set_keeps | apply Keeps.ite | simp only [List.foldl_cons, List.foldl_nil] | apply Keeps.foldl | apply Keeps.foldlFst | extract_lets | split)

theorem State.voidExit_keeps {W : Places} {a₀ s₀ : State} (hW : Within 0x800000000000000000000000000000000000000000000000000000000000000000000000000000000000000000 W) (h₀ : Keeps W a₀ s₀) : Keeps W a₀ (State.voidExit s₀) := by
  unfold State.voidExit
  with_reducible (repeat' first | assumption | exact Within.trans (by decide) hW | exact Within.bit (by decide) hW | refine places_some ?_ | exact places_none | refine places_cons ?_ ?_ | refine places_pair ?_ ?_ | exact places_nil | refine places_reg ?_ ?_ | exact places_regs | intro _ | apply State.set_keeps | apply Keeps.ite | simp only [List.foldl_cons, List.foldl_nil] | apply Keeps.foldl | apply Keeps.foldlFst | extract_lets | split | apply Keeps.upd | apply Keeps.updOpen | apply Keeps.updBad)

theorem State.refuseExit_keeps {W : Places} {a₀ s₀ : State} (hW : Within 0x40800000000000000000000000000000000000000000000000000000000000000000000000000000000000000000 W) (h₀ : Keeps W a₀ s₀) : Keeps W a₀ (State.refuseExit s₀) := by
  unfold State.refuseExit
  with_reducible (repeat' first | assumption | exact Within.trans (by decide) hW | exact Within.bit (by decide) hW | refine places_some ?_ | exact places_none | refine places_cons ?_ ?_ | refine places_pair ?_ ?_ | exact places_nil | refine places_reg ?_ ?_ | exact places_regs | intro _ | apply State.set_keeps | apply Keeps.ite | simp only [List.foldl_cons, List.foldl_nil] | apply Keeps.foldl | apply Keeps.foldlFst | extract_lets | split)

theorem State.enterSafe_keeps {W : Places} {a₀ s₀ : State} (p1) (hW : Within 0x2000000000000000000000000000000000778000000000000000000000000000000002000006240000401000002020081283c3420600800446012000008404 W) (h₀ : Keeps W a₀ s₀) : Keeps W a₀ (State.enterSafe s₀ p1) := by
  unfold State.enterSafe
  with_reducible (repeat' first | assumption | exact Within.trans (by decide) hW | exact Within.bit (by decide) hW | refine places_some ?_ | exact places_none | refine places_cons ?_ ?_ | refine places_pair ?_ ?_ | exact places_nil | refine places_reg ?_ ?_ | exact places_regs | intro _ | apply State.addCause_keeps | apply State.refuseExit_keeps | apply State.voidExit_keeps | apply State.latchEntry_keeps | apply State.set_keeps | apply State.fire_keeps | apply State.safeEffects_keeps | apply Keeps.ite | simp only [List.foldl_cons, List.foldl_nil] | apply Keeps.foldl | apply Keeps.foldlFst | extract_lets | split | apply Keeps.upd | apply Keeps.updOpen | apply Keeps.updBad)

theorem State.recause_keeps {W : Places} {a₀ s₀ : State} (hW : Within 0x1000000000000000000000000000000000000000000000000000000000000000000000000000000000000000000 W) (h₀ : Keeps W a₀ s₀) : Keeps W a₀ (State.recause s₀) := by
  unfold State.recause
  with_reducible (repeat' first | assumption | exact Within.trans (by decide) hW | exact Within.bit (by decide) hW | refine places_some ?_ | exact places_none | refine places_cons ?_ ?_ | refine places_pair ?_ ?_ | exact places_nil | refine places_reg ?_ ?_ | exact places_regs | intro _ | apply State.set_keeps | apply Keeps.ite | simp only [List.foldl_cons, List.foldl_nil] | apply Keeps.foldl | apply Keeps.foldlFst | extract_lets | split)

theorem State.raiseC_keeps {W : Places} {a₀ s₀ : State} (p1 p2) (h1 : W (p1.id / 128) = true) (h₀ : Keeps W a₀ s₀) : Keeps W a₀ (State.raiseC s₀ p1 p2) := by
  unfold State.raiseC
  with_reducible (repeat' first | assumption | exact Within.trans (by decide) hW | exact Within.bit (by decide) hW | refine places_some ?_ | exact places_none | refine places_cons ?_ ?_ | refine places_pair ?_ ?_ | exact places_nil | refine places_reg ?_ ?_ | exact places_regs | intro _ | apply State.set_keeps | apply Keeps.ite | simp only [List.foldl_cons, List.foldl_nil] | apply Keeps.foldl | apply Keeps.foldlFst | extract_lets | split)

theorem State.denyB_keeps {W : Places} {a₀ s₀ : State} (p1 p2) (hW : Within 0x400000000000000000000000000000000000000000000000000000000000000000000000000 W) (h₀ : Keeps W a₀ s₀) : Keeps W a₀ (State.denyB s₀ p1 p2) := by
  unfold State.denyB
  with_reducible (repeat' first | assumption | exact Within.trans (by decide) hW | exact Within.bit (by decide) hW | refine places_some ?_ | exact places_none | refine places_cons ?_ ?_ | refine places_pair ?_ ?_ | exact places_nil | refine places_reg ?_ ?_ | exact places_regs | intro _ | apply State.raiseC_keeps | apply Keeps.ite | simp only [List.foldl_cons, List.foldl_nil] | apply Keeps.foldl | apply Keeps.foldlFst | extract_lets | split)

theorem State.raiseU_keeps {W : Places} {a₀ s₀ : State} (p1 p2 p3) (hW : Within 0x2000000000000000000000000000000000778000000000000000000000000000000002000006240000401000002020081283c3420600800446012000008404 W) (h2 : W (p2.id / 128) = true) (h₀ : Keeps W a₀ s₀) : Keeps W a₀ (State.raiseU s₀ p1 p2 p3) := by
  unfold State.raiseU
  with_reducible (repeat' first | assumption | exact Within.trans (by decide) hW | exact Within.bit (by decide) hW | refine places_some ?_ | exact places_none | refine places_cons ?_ ?_ | refine places_pair ?_ ?_ | exact places_nil | refine places_reg ?_ ?_ | exact places_regs | intro _ | apply State.enterSafe_keeps | apply State.set_keeps | apply Keeps.ite | simp only [List.foldl_cons, List.foldl_nil] | apply Keeps.foldl | apply Keeps.foldlFst | extract_lets | split)

theorem State.raiseF_keeps {W : Places} {a₀ s₀ : State} (p1 p2 p3) (hW : Within 0x2000000000000000000000000000000000778000000000000000000000000000000002000006240000401000002020081283c3420600800446012000008404 W) (h1 : W (p1.id / 128) = true) (h₀ : Keeps W a₀ s₀) : Keeps W a₀ (State.raiseF s₀ p1 p2 p3) := by
  unfold State.raiseF
  with_reducible (repeat' first | assumption | exact Within.trans (by decide) hW | exact Within.bit (by decide) hW | refine places_some ?_ | exact places_none | refine places_cons ?_ ?_ | refine places_pair ?_ ?_ | exact places_nil | refine places_reg ?_ ?_ | exact places_regs | intro _ | apply State.enterSafe_keeps | apply State.set_keeps | apply Keeps.ite | simp only [List.foldl_cons, List.foldl_nil] | apply Keeps.foldl | apply Keeps.foldlFst | extract_lets | split)

theorem State.faultSite_keeps {W : Places} {a₀ s₀ : State} (p1 p2 p3 p4 p5) (hW : Within 0x2000000000000000000000000000000000778000000000000000000000000000000002000006240000401000002020081283c3420600800447012000008404 W) (h2 : W (p2.id / 128) = true) (h₀ : Keeps W a₀ s₀) : Keeps W a₀ (State.faultSite s₀ p1 p2 p3 p4 p5) := by
  unfold State.faultSite
  with_reducible (repeat' first | assumption | exact Within.trans (by decide) hW | exact Within.bit (by decide) hW | refine places_some ?_ | exact places_none | refine places_cons ?_ ?_ | refine places_pair ?_ ?_ | exact places_nil | refine places_reg ?_ ?_ | exact places_regs | intro _ | apply State.siteFault_keeps | apply State.raiseU_keeps | apply Keeps.ite | simp only [List.foldl_cons, List.foldl_nil] | apply Keeps.foldl | apply Keeps.foldlFst | extract_lets | split)

theorem State.eccRaise_keeps {W : Places} {a₀ s₀ : State} (p1 p2) (hW : Within 0x2000000000000000000000000000000000778000000000000404000000000000000002000006240000401000002020081283c3420600800446012000008404 W) (h₀ : Keeps W a₀ s₀) : Keeps W a₀ (State.eccRaise s₀ p1 p2) := by
  unfold State.eccRaise
  with_reducible (repeat' first | assumption | exact Within.trans (by decide) hW | exact Within.bit (by decide) hW | refine places_some ?_ | exact places_none | refine places_cons ?_ ?_ | refine places_pair ?_ ?_ | exact places_nil | refine places_reg ?_ ?_ | exact places_regs | intro _ | apply State.raiseC_keeps | apply State.raiseU_keeps | apply Keeps.ite | simp only [List.foldl_cons, List.foldl_nil] | apply Keeps.foldl | apply Keeps.foldlFst | extract_lets | split)

theorem State.dramPut_keeps {W : Places} {a₀ s₀ : State} (p1 p2) (hW : Within 0x3000000000000000000000000000000000778000000000000400000000000000000002000006240000401000002020081283c3420600800446012000008404 W) (h₀ : Keeps W a₀ s₀) : Keeps W a₀ (State.dramPut s₀ p1 p2) := by
  unfold State.dramPut
  with_reducible (repeat' first | assumption | exact Within.trans (by decide) hW | exact Within.bit (by decide) hW | refine places_some ?_ | exact places_none | refine places_cons ?_ ?_ | refine places_pair ?_ ?_ | exact places_nil | refine places_reg ?_ ?_ | exact places_regs | intro _ | apply State.putBytes_keeps | apply State.each_keeps | apply State.putByte_keeps | apply State.raiseU_keeps | apply Keeps.ite | simp only [List.foldl_cons, List.foldl_nil] | apply Keeps.foldl | apply Keeps.foldlFst | extract_lets | split | apply Keeps.upd | apply Keeps.updOpen | apply Keeps.updBad)

theorem State.dmaWrite_keeps {W : Places} {a₀ s₀ : State} (p1 p2 p3) (hW : Within 0x3000000000000000000000000000000000778000000000000400000000000000000002000006240000401000002020081283c3420600800446012000008404 W) (h₀ : Keeps W a₀ s₀) : Keeps W a₀ (State.dmaWrite s₀ p1 p2 p3) := by
  unfold State.dmaWrite
  with_reducible (repeat' first | assumption | exact Within.trans (by decide) hW | exact Within.bit (by decide) hW | refine places_some ?_ | exact places_none | refine places_cons ?_ ?_ | refine places_pair ?_ ?_ | exact places_nil | refine places_reg ?_ ?_ | exact places_regs | intro _ | apply State.putBytes_keeps | apply State.dramPut_keeps | apply State.raiseC_keeps | apply Keeps.ite | simp only [List.foldl_cons, List.foldl_nil] | apply Keeps.foldl | apply Keeps.foldlFst | extract_lets | split)

end Sys2Proof.Machine
end

