-- ==== Sys2Proof/Laws/KeepAccess.lean ====
section
/-! SUPPORT. What the operations and the commands of Machine/Access.lean keep (Laws/Keeps.lean). -/

set_option linter.unusedTactic false
set_option linter.unreachableTactic false
set_option linter.unusedVariables false
set_option linter.unusedSimpArgs false

namespace Sys2Proof.Machine

theorem State.sendMsix_keeps {W : Places} {a₀ s₀ : State} (p1 p2) (hW : Within 0x200000000000000000000000000000000000440000000000000000000000000000000000000000000000000000000000000000000000000000000000000000 W) (h₀ : Keeps W a₀ s₀) : Keeps W a₀ (State.sendMsix s₀ p1 p2) := by
  unfold State.sendMsix
  with_reducible (repeat' first | assumption | (unfold fnPba; split <;> exact Within.bit (by decide) hW) | (unfold fnMask; split <;> exact Within.bit (by decide) hW) | (simp only [ringFlds]; split <;> exact Within.bit (by decide) hW) | exact Within.trans (by decide) hW | exact Within.bit (by decide) hW | refine places_some ?_ | exact places_none | refine places_cons ?_ ?_ | refine places_pair ?_ ?_ | exact places_nil | refine places_reg ?_ ?_ | exact places_regs | intro _ | apply State.emit_keeps | apply State.set_keeps | apply Keeps.ite | simp only [List.foldl_cons, List.foldl_nil] | apply Keeps.foldl | apply Keeps.foldlFst | extract_lets | split)

theorem State.deliver_keeps {W : Places} {a₀ s₀ : State} (p1) (hW : Within 0x200000000000000000000000000000000000440000000000000000000000000000000000000000000000000000000000000000000000000000000000000000 W) (h₀ : Keeps W a₀ s₀) : Keeps W a₀ (State.deliver s₀ p1) := by
  unfold State.deliver
  with_reducible (repeat' first | assumption | exact Within.trans (by decide) hW | exact Within.bit (by decide) hW | refine places_some ?_ | exact places_none | refine places_cons ?_ ?_ | refine places_pair ?_ ?_ | exact places_nil | refine places_reg ?_ ?_ | exact places_regs | intro _ | apply State.sendMsix_keeps | apply Keeps.ite | simp only [List.foldl_cons, List.foldl_nil] | apply Keeps.foldl | apply Keeps.foldlFst | extract_lets | split)

theorem State.flushMsix_keeps {W : Places} {a₀ s₀ : State} (p1) (hW : Within 0x200000000000000000000000000000000000440000000000000000000000000000000000000000000000000000000000000000000000000000000000000000 W) (h₀ : Keeps W a₀ s₀) : Keeps W a₀ (State.flushMsix s₀ p1) := by
  unfold State.flushMsix
  with_reducible (repeat' first | assumption | (unfold fnPba; split <;> exact Within.bit (by decide) hW) | (unfold fnMask; split <;> exact Within.bit (by decide) hW) | (simp only [ringFlds]; split <;> exact Within.bit (by decide) hW) | exact Within.trans (by decide) hW | exact Within.bit (by decide) hW | refine places_some ?_ | exact places_none | refine places_cons ?_ ?_ | refine places_pair ?_ ?_ | exact places_nil | refine places_reg ?_ ?_ | exact places_regs | intro _ | apply State.each_keeps | apply State.set_keeps | apply State.emit_keeps | apply Keeps.ite | simp only [List.foldl_cons, List.foldl_nil] | apply Keeps.foldl | apply Keeps.foldlFst | extract_lets | split)

end Sys2Proof.Machine
end

