-- ==== Sys2Proof/Laws/KeepIrc.lean ====
section
/-! SUPPORT. What the operations and the commands of Machine/Irc.lean keep (Laws/Keeps.lean). -/

set_option linter.unusedTactic false
set_option linter.unreachableTactic false
set_option linter.unusedVariables false
set_option linter.unusedSimpArgs false

namespace Sys2Proof.Machine

theorem State.pend_keeps {W : Places} {a₀ s₀ : State} (p1) (hW : Within 0x200000000000000000000000000000000000440000000000000008000000000000000000000000000000000000000000000000000000000000000000000000 W) (h₀ : Keeps W a₀ s₀) : Keeps W a₀ (State.pend s₀ p1) := by
  unfold State.pend
  with_reducible (repeat' first | assumption | exact Within.trans (by decide) hW | exact Within.bit (by decide) hW | refine places_some ?_ | exact places_none | refine places_cons ?_ ?_ | refine places_pair ?_ ?_ | exact places_nil | refine places_reg ?_ ?_ | exact places_regs | intro _ | apply State.deliver_keeps | apply State.setMapBit_keeps | apply Keeps.ite | simp only [List.foldl_cons, List.foldl_nil] | apply Keeps.foldl | apply Keeps.foldlFst | extract_lets | split)

theorem State.edgeArrive_keeps {W : Places} {a₀ s₀ : State} (p1) (hW : Within 0x200000000000000000000000000000000000440000000000000048000000000000000000000000000000000000000000000000000000000000000000000000 W) (h₀ : Keeps W a₀ s₀) : Keeps W a₀ (State.edgeArrive s₀ p1) := by
  unfold State.edgeArrive
  with_reducible (repeat' first | assumption | exact Within.trans (by decide) hW | exact Within.bit (by decide) hW | refine places_some ?_ | exact places_none | refine places_cons ?_ ?_ | refine places_pair ?_ ?_ | exact places_nil | refine places_reg ?_ ?_ | exact places_regs | intro _ | apply State.setMapBit_keeps | apply State.pend_keeps | apply Keeps.ite | simp only [List.foldl_cons, List.foldl_nil] | apply Keeps.foldl | apply Keeps.foldlFst | extract_lets | split | apply Keeps.upd | apply Keeps.updOpen | apply Keeps.updBad)

theorem State.sampleLine_keeps {W : Places} {a₀ s₀ : State} (p1) (hW : Within 0x200000000000000000000000000000000000440000000000000068000000000000000000000000000000000000000000000000000000000000000000000000 W) (h₀ : Keeps W a₀ s₀) : Keeps W a₀ (State.sampleLine s₀ p1) := by
  unfold State.sampleLine
  with_reducible (repeat' first | assumption | exact Within.trans (by decide) hW | exact Within.bit (by decide) hW | refine places_some ?_ | exact places_none | refine places_cons ?_ ?_ | refine places_pair ?_ ?_ | exact places_nil | refine places_reg ?_ ?_ | exact places_regs | intro _ | apply State.setMapBit_keeps | apply State.edgeArrive_keeps | apply State.pend_keeps | apply Keeps.ite | simp only [List.foldl_cons, List.foldl_nil] | apply Keeps.foldl | apply Keeps.foldlFst | extract_lets | split | apply Keeps.upd | apply Keeps.updOpen | apply Keeps.updBad)

theorem execInterruptPending_keeps {W : Places} {a₀ s₀ : State} (p0 p1) (hW : Within 0x200000000000000000000000000000000000440000000000000068000000000000000000000000000000000000000000000000000000000000000000000000 W) (h₀ : Keeps W a₀ (s₀.elapse p0)) : KeepsOut W a₀ (execInterruptPending p0 p1 s₀) := by
  unfold execInterruptPending
  with_reducible (repeat' first | assumption | exact Within.trans (by decide) hW | exact Within.bit (by decide) hW | refine places_some ?_ | exact places_none | refine places_cons ?_ ?_ | refine places_pair ?_ ?_ | exact places_nil | refine places_reg ?_ ?_ | exact places_regs | intro _ | apply KeepsOut.next | apply KeepsOut.refused | apply KeepsOut.ite | apply State.edgeArrive_keeps | apply State.sampleLine_keeps | apply Keeps.ite | simp only [List.foldl_cons, List.foldl_nil] | apply Keeps.foldl | apply Keeps.foldlFst | extract_lets | split | apply Keeps.upd | apply Keeps.updOpen | apply Keeps.updBad)

theorem State.claim_keeps {W : Places} {a₀ s₀ : State} (p1 p2) (hW : Within 0x1a000000000000000000000000000000000000000000000000000000000000000000000000 W) (h₀ : Keeps W a₀ s₀) : Keeps W a₀ (State.claim s₀ p1 p2) := by
  unfold State.claim
  with_reducible (repeat' first | assumption | exact Within.trans (by decide) hW | exact Within.bit (by decide) hW | refine places_some ?_ | exact places_none | refine places_cons ?_ ?_ | refine places_pair ?_ ?_ | exact places_nil | refine places_reg ?_ ?_ | exact places_regs | intro _ | apply State.setMapBit_keeps | apply State.set_keeps | apply Keeps.ite | simp only [List.foldl_cons, List.foldl_nil] | apply Keeps.foldl | apply Keeps.foldlFst | extract_lets | split | apply Keeps.upd | apply Keeps.updOpen | apply Keeps.updBad)

theorem execIrcClaim_keeps {W : Places} {a₀ s₀ : State} (p0 p1 p2) (hW : Within 0x1a000000000000000000000000000000000000000000000000000000000000000000000000 W) (h₀ : Keeps W a₀ (s₀.elapse p0)) : KeepsOut W a₀ (execIrcClaim p0 p1 p2 s₀) := by
  unfold execIrcClaim
  with_reducible (repeat' first | assumption | exact Within.trans (by decide) hW | exact Within.bit (by decide) hW | refine places_some ?_ | exact places_none | refine places_cons ?_ ?_ | refine places_pair ?_ ?_ | exact places_nil | refine places_reg ?_ ?_ | exact places_regs | intro _ | apply KeepsOut.next | apply KeepsOut.refused | apply KeepsOut.ite | apply State.claim_keeps | apply Keeps.ite | simp only [List.foldl_cons, List.foldl_nil] | apply Keeps.foldl | apply Keeps.foldlFst | extract_lets | split | apply Keeps.upd | apply Keeps.updOpen | apply Keeps.updBad)

theorem State.completeSrc_keeps {W : Places} {a₀ s₀ : State} (p1) (hW : Within 0x200000000000000000000000000000000000440000000000000078000000000000000000000000000000000000000000000000000000000000000000000000 W) (h₀ : Keeps W a₀ s₀) : Keeps W a₀ (State.completeSrc s₀ p1) := by
  unfold State.completeSrc
  with_reducible (repeat' first | assumption | exact Within.trans (by decide) hW | exact Within.bit (by decide) hW | refine places_some ?_ | exact places_none | refine places_cons ?_ ?_ | refine places_pair ?_ ?_ | exact places_nil | refine places_reg ?_ ?_ | exact places_regs | intro _ | apply State.setMapBit_keeps | apply State.pend_keeps | apply State.sampleLine_keeps | apply Keeps.ite | simp only [List.foldl_cons, List.foldl_nil] | apply Keeps.foldl | apply Keeps.foldlFst | extract_lets | split | apply Keeps.upd | apply Keeps.updOpen | apply Keeps.updBad)

theorem State.completeWrite_keeps {W : Places} {a₀ s₀ : State} (p1 p2) (hW : Within 0x200000000000000000000000000000000000440000000000000078800000000000000000000000000000000000000000000000000000000000000000000000 W) (h₀ : Keeps W a₀ s₀) : Keeps W a₀ (State.completeWrite s₀ p1 p2) := by
  unfold State.completeWrite
  with_reducible (repeat' first | assumption | exact Within.trans (by decide) hW | exact Within.bit (by decide) hW | refine places_some ?_ | exact places_none | refine places_cons ?_ ?_ | refine places_pair ?_ ?_ | exact places_nil | refine places_reg ?_ ?_ | exact places_regs | intro _ | apply State.completeSrc_keeps | apply State.raiseC_keeps | apply Keeps.ite | simp only [List.foldl_cons, List.foldl_nil] | apply Keeps.foldl | apply Keeps.foldlFst | extract_lets | split)

theorem execIrcComplete_keeps {W : Places} {a₀ s₀ : State} (p0 p1 p2 p3) (hW : Within 0x200000000000000000000000000000000000440000000000000078800000000000000000000000000000000000000000000000000000000000000000000000 W) (h₀ : Keeps W a₀ (s₀.elapse p0)) : KeepsOut W a₀ (execIrcComplete p0 p1 p2 p3 s₀) := by
  unfold execIrcComplete
  with_reducible (repeat' first | assumption | exact Within.trans (by decide) hW | exact Within.bit (by decide) hW | refine places_some ?_ | exact places_none | refine places_cons ?_ ?_ | refine places_pair ?_ ?_ | exact places_nil | refine places_reg ?_ ?_ | exact places_regs | intro _ | apply KeepsOut.next | apply KeepsOut.refused | apply KeepsOut.ite | apply State.completeWrite_keeps | apply Keeps.ite | simp only [List.foldl_cons, List.foldl_nil] | apply Keeps.foldl | apply Keeps.foldlFst | extract_lets | split)

theorem State.writeIrcMask_keeps {W : Places} {a₀ s₀ : State} (p1 p2) (hW : Within 0x200000000000000000000000000000000000440000000000000004000000000000000000000000000000000000000000000000000000000000000000000000 W) (h₀ : Keeps W a₀ s₀) : Keeps W a₀ (State.writeIrcMask s₀ p1 p2) := by
  unfold State.writeIrcMask
  with_reducible (repeat' first | assumption | exact Within.trans (by decide) hW | exact Within.bit (by decide) hW | refine places_some ?_ | exact places_none | refine places_cons ?_ ?_ | refine places_pair ?_ ?_ | exact places_nil | refine places_reg ?_ ?_ | exact places_regs | intro _ | apply State.set_keeps | apply State.each_keeps | apply State.deliver_keeps | apply Keeps.ite | simp only [List.foldl_cons, List.foldl_nil] | apply Keeps.foldl | apply Keeps.foldlFst | extract_lets | split)

theorem execIrcMaskWrite_keeps {W : Places} {a₀ s₀ : State} (p0 p1 p2 p3) (hW : Within 0x200000000000000000000000000000000000440000000000000004000000000000000000000000000000000000000000000000000000000000000000000000 W) (h₀ : Keeps W a₀ (s₀.elapse p0)) : KeepsOut W a₀ (execIrcMaskWrite p0 p1 p2 p3 s₀) := by
  unfold execIrcMaskWrite
  with_reducible (repeat' first | assumption | exact Within.trans (by decide) hW | exact Within.bit (by decide) hW | refine places_some ?_ | exact places_none | refine places_cons ?_ ?_ | refine places_pair ?_ ?_ | exact places_nil | refine places_reg ?_ ?_ | exact places_regs | intro _ | apply KeepsOut.next | apply KeepsOut.refused | apply KeepsOut.ite | apply State.writeIrcMask_keeps | apply Keeps.ite | simp only [List.foldl_cons, List.foldl_nil] | apply Keeps.foldl | apply Keeps.foldlFst | extract_lets | split)

theorem execHoldoffEnd_keeps {W : Places} {a₀ s₀ : State} (p0 p1) (hW : Within 0x200000000000000000000000000000000000440000000000000002000000000000000000000000000000000000000000000000000000000000000000000000 W) (h₀ : Keeps W a₀ (s₀.elapse p0)) : KeepsOut W a₀ (execHoldoffEnd p0 p1 s₀) := by
  unfold execHoldoffEnd
  with_reducible (repeat' first | assumption | exact Within.trans (by decide) hW | exact Within.bit (by decide) hW | refine places_some ?_ | exact places_none | refine places_cons ?_ ?_ | refine places_pair ?_ ?_ | exact places_nil | refine places_reg ?_ ?_ | exact places_regs | intro _ | apply KeepsOut.next | apply KeepsOut.refused | apply KeepsOut.ite | apply State.set_keeps | apply State.each_keeps | apply State.deliver_keeps | apply Keeps.ite | simp only [List.foldl_cons, List.foldl_nil] | apply Keeps.foldl | apply Keeps.foldlFst | extract_lets | split | apply Keeps.upd | apply Keeps.updOpen | apply Keeps.updBad)

theorem execMsixUnmask_keeps {W : Places} {a₀ s₀ : State} (p0 p1 p2) (hW : Within 0x200000000000000000000000000000000000660000000000000000000000000000000000000000000000000000000000000000000000000000000000000000 W) (h₀ : Keeps W a₀ (s₀.elapse p0)) : KeepsOut W a₀ (execMsixUnmask p0 p1 p2 s₀) := by
  unfold execMsixUnmask
  with_reducible (repeat' first | assumption | (unfold fnPba; split <;> exact Within.bit (by decide) hW) | (unfold fnMask; split <;> exact Within.bit (by decide) hW) | (simp only [ringFlds]; split <;> exact Within.bit (by decide) hW) | exact Within.trans (by decide) hW | exact Within.bit (by decide) hW | refine places_some ?_ | exact places_none | refine places_cons ?_ ?_ | refine places_pair ?_ ?_ | exact places_nil | refine places_reg ?_ ?_ | exact places_regs | intro _ | apply KeepsOut.next | apply KeepsOut.refused | apply KeepsOut.ite | apply State.flushMsix_keeps | apply State.set_keeps | apply Keeps.ite | simp only [List.foldl_cons, List.foldl_nil] | apply Keeps.foldl | apply Keeps.foldlFst | extract_lets | split | apply Keeps.upd | apply Keeps.updOpen | apply Keeps.updBad)

end Sys2Proof.Machine
end

