-- ==== Sys2Proof/Laws/KeepStarts.lean ====
section
/-! SUPPORT. What the operations and the commands of Machine/Starts.lean keep (Laws/Keeps.lean). -/

set_option linter.unusedTactic false
set_option linter.unreachableTactic false
set_option linter.unusedVariables false
set_option linter.unusedSimpArgs false

namespace Sys2Proof.Machine

theorem State.tellSets_keeps {W : Places} {a₀ s₀ : State} (p1 p2 p3 p4 p5) (hW : Within 0x200000000000000000000000000000000000000000000000000000000000000000000000000000000000000000000000000000000000000000000000000000 W) (h₀ : Keeps W a₀ s₀) : Keeps W a₀ (State.tellSets s₀ p1 p2 p3 p4 p5) := by
  unfold State.tellSets
  with_reducible (repeat' first | assumption | exact Within.trans (by decide) hW | exact Within.bit (by decide) hW | refine places_some ?_ | exact places_none | refine places_cons ?_ ?_ | refine places_pair ?_ ?_ | exact places_nil | refine places_reg ?_ ?_ | exact places_regs | intro _ | apply State.sendToken_keeps | apply Keeps.ite | simp only [List.foldl_cons, List.foldl_nil] | apply Keeps.foldl | apply Keeps.foldlFst | extract_lets | split)

theorem State.tellStart_keeps {W : Places} {a₀ s₀ : State} (p1) (hW : Within 0x200000000000000000000000000000000000000000000000000000000000000000000000000000000000000000000000000000000000000000000000000000 W) (h₀ : Keeps W a₀ s₀) : Keeps W a₀ (State.tellStart s₀ p1) := by
  unfold State.tellStart
  with_reducible (repeat' first | assumption | exact Within.trans (by decide) hW | exact Within.bit (by decide) hW | refine places_some ?_ | exact places_none | refine places_cons ?_ ?_ | refine places_pair ?_ ?_ | exact places_nil | refine places_reg ?_ ?_ | exact places_regs | intro _ | apply State.tellSets_keeps | apply State.setSite_keeps | apply Keeps.ite | simp only [List.foldl_cons, List.foldl_nil] | apply Keeps.foldl | apply Keeps.foldlFst | extract_lets | split)

theorem State.formStart_keeps {W : Places} {a₀ s₀ : State} (p1) (hW : Within 0x200000000000000000000000000000000000000000000000000000000000000000000000000000000000000000000000000000000000000000000000000000 W) (h₀ : Keeps W a₀ s₀) : Keeps W a₀ (State.formStart s₀ p1) := by
  unfold State.formStart
  with_reducible (repeat' first | assumption | exact Within.trans (by decide) hW | exact Within.bit (by decide) hW | refine places_some ?_ | exact places_none | refine places_cons ?_ ?_ | refine places_pair ?_ ?_ | exact places_nil | refine places_reg ?_ ?_ | exact places_regs | intro _ | apply State.each_keeps | apply State.tellStart_keeps | apply State.sendToken_keeps | apply State.setSite_keeps | apply Keeps.ite | simp only [List.foldl_cons, List.foldl_nil] | apply Keeps.foldl | apply Keeps.foldlFst | extract_lets | split)

theorem State.formReady_keeps {W : Places} {a₀ s₀ : State} (p1) (hW : Within 0x200000000000000000000000000000000000000000000000000000000000000000000000000000000000000000000000000000000000000000000000000000 W) (h₀ : Keeps W a₀ s₀) : Keeps W a₀ (State.formReady s₀ p1) := by
  unfold State.formReady
  with_reducible (repeat' first | assumption | exact Within.trans (by decide) hW | exact Within.bit (by decide) hW | refine places_some ?_ | exact places_none | refine places_cons ?_ ?_ | refine places_pair ?_ ?_ | exact places_nil | refine places_reg ?_ ?_ | exact places_regs | intro _ | apply State.each_keeps | apply State.setSite_keeps | apply State.formStart_keeps | apply Keeps.ite | simp only [List.foldl_cons, List.foldl_nil] | apply Keeps.foldl | apply Keeps.foldlFst | extract_lets | split)

theorem State.setQueue_keeps {W : Places} {a₀ s₀ : State} (p1) (hW : Within 0x400 W) (h₀ : Keeps W a₀ s₀) : Keeps W a₀ (State.setQueue s₀ p1) := by
  unfold State.setQueue
  with_reducible (repeat' first | assumption | exact Within.trans (by decide) hW | exact Within.bit (by decide) hW | refine places_some ?_ | exact places_none | refine places_cons ?_ ?_ | refine places_pair ?_ ?_ | exact places_nil | refine places_reg ?_ ?_ | exact places_regs | intro _ | apply State.set_keeps | apply Keeps.ite | simp only [List.foldl_cons, List.foldl_nil] | apply Keeps.foldl | apply Keeps.foldlFst | extract_lets | split | apply Keeps.upd | apply Keeps.updOpen | apply Keeps.updBad)

theorem State.ladderAsk_keeps {W : Places} {a₀ s₀ : State} (p1) (h₀ : Keeps W a₀ s₀) : Keeps W a₀ (State.ladderAsk s₀ p1) := by
  unfold State.ladderAsk
  with_reducible (repeat' first | assumption | exact Within.trans (by decide) hW | exact Within.bit (by decide) hW | refine places_some ?_ | exact places_none | refine places_cons ?_ ?_ | refine places_pair ?_ ?_ | exact places_nil | refine places_reg ?_ ?_ | exact places_regs | intro _ | apply Keeps.ite | simp only [List.foldl_cons, List.foldl_nil] | apply Keeps.foldl | apply Keeps.foldlFst | extract_lets | split | apply Keeps.upd | apply Keeps.updOpen | apply Keeps.updBad)

theorem State.askSites_keeps {W : Places} {a₀ s₀ : State} (p1 p2) (hW : Within 0x200000000000000000000000000000000000000000000000000000000000000000000000000000000000000000000000000000000000000000000000000000 W) (h₀ : Keeps W a₀ s₀) : Keeps W a₀ (State.askSites s₀ p1 p2) := by
  unfold State.askSites
  with_reducible (repeat' first | assumption | exact Within.trans (by decide) hW | exact Within.bit (by decide) hW | refine places_some ?_ | exact places_none | refine places_cons ?_ ?_ | refine places_pair ?_ ?_ | exact places_nil | refine places_reg ?_ ?_ | exact places_regs | intro _ | apply State.each_keeps | apply State.setSite_keeps | apply State.formReady_keeps | apply State.ladderAsk_keeps | apply Keeps.ite | simp only [List.foldl_cons, List.foldl_nil] | apply Keeps.foldl | apply Keeps.foldlFst | extract_lets | split)

theorem State.unsleep_keeps {W : Places} {a₀ s₀ : State} (p1) (hW : Within 0x2000010000 W) (h₀ : Keeps W a₀ s₀) : Keeps W a₀ (State.unsleep s₀ p1) := by
  unfold State.unsleep
  with_reducible (repeat' first | assumption | exact Within.trans (by decide) hW | exact Within.bit (by decide) hW | refine places_some ?_ | exact places_none | refine places_cons ?_ ?_ | refine places_pair ?_ ?_ | exact places_nil | refine places_reg ?_ ?_ | exact places_regs | intro _ | apply State.set_keeps | apply State.setMapBit_keeps | apply Keeps.ite | simp only [List.foldl_cons, List.foldl_nil] | apply Keeps.foldl | apply Keeps.foldlFst | extract_lets | split)

theorem State.askRetire_keeps {W : Places} {a₀ s₀ : State} (p1 p2) (h₀ : Keeps W a₀ s₀) : Keeps W a₀ (State.askRetire s₀ p1 p2) := by
  unfold State.askRetire
  with_reducible (repeat' first | assumption | exact Within.trans (by decide) hW | exact Within.bit (by decide) hW | refine places_some ?_ | exact places_none | refine places_cons ?_ ?_ | refine places_pair ?_ ?_ | exact places_nil | refine places_reg ?_ ?_ | exact places_regs | intro _ | apply State.ladderAsk_keeps | apply Keeps.ite | simp only [List.foldl_cons, List.foldl_nil] | apply Keeps.foldl | apply Keeps.foldlFst | extract_lets | split)

theorem State.takeGroup_keeps {W : Places} {a₀ s₀ : State} (p1 p2) (hW : Within 0x8400 W) (h₀ : Keeps W a₀ s₀) : Keeps W a₀ (State.takeGroup s₀ p1 p2) := by
  unfold State.takeGroup
  with_reducible (repeat' first | assumption | exact Within.trans (by decide) hW | exact Within.bit (by decide) hW | refine places_some ?_ | exact places_none | refine places_cons ?_ ?_ | refine places_pair ?_ ?_ | exact places_nil | refine places_reg ?_ ?_ | exact places_regs | intro _ | apply State.setQueue_keeps | apply State.each_keeps | apply State.setSite_keeps | apply State.setGroup_keeps | apply Keeps.ite | simp only [List.foldl_cons, List.foldl_nil] | apply Keeps.foldl | apply Keeps.foldlFst | extract_lets | split)

theorem State.groupDone_keeps {W : Places} {a₀ s₀ : State} (p1 p2) (hW : Within 0x200000000000000000000000000000000000000000000000000000000000000000000000000000000000000000000000000000000000000000000000000000 W) (h₀ : Keeps W a₀ s₀) : Keeps W a₀ (State.groupDone s₀ p1 p2) := by
  unfold State.groupDone
  with_reducible (repeat' first | assumption | exact Within.trans (by decide) hW | exact Within.bit (by decide) hW | refine places_some ?_ | exact places_none | refine places_cons ?_ ?_ | refine places_pair ?_ ?_ | exact places_nil | refine places_reg ?_ ?_ | exact places_regs | intro _ | apply State.each_keeps | apply State.setSite_keeps | apply State.formReady_keeps | apply Keeps.ite | simp only [List.foldl_cons, List.foldl_nil] | apply Keeps.foldl | apply Keeps.foldlFst | extract_lets | split)

theorem State.umberTo_keeps {W : Places} {a₀ s₀ : State} (p1) (hW : Within 0x2000000000000000000000000000000000000000000000 W) (h₀ : Keeps W a₀ s₀) : Keeps W a₀ (State.umberTo s₀ p1) := by
  unfold State.umberTo
  with_reducible (repeat' first | assumption | exact Within.trans (by decide) hW | exact Within.bit (by decide) hW | refine places_some ?_ | exact places_none | refine places_cons ?_ ?_ | refine places_pair ?_ ?_ | exact places_nil | refine places_reg ?_ ?_ | exact places_regs | intro _ | apply State.set_keeps | apply State.fire_keeps | apply Keeps.ite | simp only [List.foldl_cons, List.foldl_nil] | apply Keeps.foldl | apply Keeps.foldlFst | extract_lets | split)

theorem State.holdover_keeps {W : Places} {a₀ s₀ : State} (hW : Within 0x102000000000000000000000000000000000000000000000 W) (h₀ : Keeps W a₀ s₀) : Keeps W a₀ (State.holdover s₀) := by
  unfold State.holdover
  with_reducible (repeat' first | assumption | exact Within.trans (by decide) hW | exact Within.bit (by decide) hW | refine places_some ?_ | exact places_none | refine places_cons ?_ ?_ | refine places_pair ?_ ?_ | exact places_nil | refine places_reg ?_ ?_ | exact places_regs | intro _ | apply State.drew_keeps | apply State.raiseC_keeps | apply State.set_keeps | apply State.umberTo_keeps | apply Keeps.ite | simp only [List.foldl_cons, List.foldl_nil] | apply Keeps.foldl | apply Keeps.foldlFst | extract_lets | split | apply Keeps.upd | apply Keeps.updOpen | apply Keeps.updBad)

theorem State.sendAbort_keeps {W : Places} {a₀ s₀ : State} (p1) (h₀ : Keeps W a₀ s₀) : Keeps W a₀ (State.sendAbort s₀ p1) := by
  unfold State.sendAbort
  with_reducible (repeat' first | assumption | exact Within.trans (by decide) hW | exact Within.bit (by decide) hW | refine places_some ?_ | exact places_none | refine places_cons ?_ ?_ | refine places_pair ?_ ?_ | exact places_nil | refine places_reg ?_ ?_ | exact places_regs | intro _ | apply State.setSite_keeps | apply Keeps.ite | simp only [List.foldl_cons, List.foldl_nil] | apply Keeps.foldl | apply Keeps.foldlFst | extract_lets | split)

end Sys2Proof.Machine
end

