-- ==== Sys2Proof/Laws/KeepDatalog.lean ====
section
/-! SUPPORT. What the operations and the commands of Machine/Datalog.lean keep (Laws/Keeps.lean). -/

set_option linter.unusedTactic false
set_option linter.unreachableTactic false
set_option linter.unusedVariables false
set_option linter.unusedSimpArgs false

namespace Sys2Proof.Machine

theorem State.setPlan_keeps {W : Places} {a₀ s₀ : State} (p1 p2) (h₀ : Keeps W a₀ s₀) : Keeps W a₀ (State.setPlan s₀ p1 p2) := by
  unfold State.setPlan
  with_reducible (repeat' first | assumption | exact Within.trans (by decide) hW | exact Within.bit (by decide) hW | refine places_some ?_ | exact places_none | refine places_cons ?_ ?_ | refine places_pair ?_ ?_ | exact places_nil | refine places_reg ?_ ?_ | exact places_regs | intro _ | apply Keeps.ite | simp only [List.foldl_cons, List.foldl_nil] | apply Keeps.foldl | apply Keeps.foldlFst | extract_lets | split | apply Keeps.upd | apply Keeps.updOpen | apply Keeps.updBad)

theorem State.setLog_keeps {W : Places} {a₀ s₀ : State} (p1 p2) (h₀ : Keeps W a₀ s₀) : Keeps W a₀ (State.setLog s₀ p1 p2) := by
  unfold State.setLog
  with_reducible (repeat' first | assumption | exact Within.trans (by decide) hW | exact Within.bit (by decide) hW | refine places_some ?_ | exact places_none | refine places_cons ?_ ?_ | refine places_pair ?_ ?_ | exact places_nil | refine places_reg ?_ ?_ | exact places_regs | intro _ | apply Keeps.ite | simp only [List.foldl_cons, List.foldl_nil] | apply Keeps.foldl | apply Keeps.foldlFst | extract_lets | split | apply Keeps.upd | apply Keeps.updOpen | apply Keeps.updBad)

theorem State.log_keeps {W : Places} {a₀ s₀ : State} (p1 p2 p3 p4 p5 p6 p7) (h₀ : Keeps W a₀ s₀) : Keeps W a₀ (State.log s₀ p1 p2 p3 p4 p5 p6 p7) := by
  unfold State.log
  with_reducible (repeat' first | assumption | exact Within.trans (by decide) hW | exact Within.bit (by decide) hW | refine places_some ?_ | exact places_none | refine places_cons ?_ ?_ | refine places_pair ?_ ?_ | exact places_nil | refine places_reg ?_ ?_ | exact places_regs | intro _ | apply State.setLog_keeps | apply Keeps.ite | simp only [List.foldl_cons, List.foldl_nil] | apply Keeps.foldl | apply Keeps.foldlFst | extract_lets | split)

theorem State.logUser_keeps {W : Places} {a₀ s₀ : State} (p1) (h₀ : Keeps W a₀ s₀) : Keeps W a₀ (State.logUser s₀ p1) := by
  unfold State.logUser
  with_reducible (repeat' first | assumption | exact Within.trans (by decide) hW | exact Within.bit (by decide) hW | refine places_some ?_ | exact places_none | refine places_cons ?_ ?_ | refine places_pair ?_ ?_ | exact places_nil | refine places_reg ?_ ?_ | exact places_regs | intro _ | apply State.log_keeps | apply Keeps.ite | simp only [List.foldl_cons, List.foldl_nil] | apply Keeps.foldl | apply Keeps.foldlFst | extract_lets | split)

theorem State.planPause_keeps {W : Places} {a₀ s₀ : State} (p1) (hW : Within 0x4000000000000000000000000000000000000000000000000000000000000000000 W) (h₀ : Keeps W a₀ s₀) : Keeps W a₀ (State.planPause s₀ p1) := by
  unfold State.planPause
  with_reducible (repeat' first | assumption | exact Within.trans (by decide) hW | exact Within.bit (by decide) hW | refine places_some ?_ | exact places_none | refine places_cons ?_ ?_ | refine places_pair ?_ ?_ | exact places_nil | refine places_reg ?_ ?_ | exact places_regs | intro _ | apply State.set_keeps | apply Keeps.ite | simp only [List.foldl_cons, List.foldl_nil] | apply Keeps.foldl | apply Keeps.foldlFst | extract_lets | split)

end Sys2Proof.Machine
end

