-- ==== Sys2Proof/Laws/KeepRings.lean ====
section
/-! SUPPORT. What the operations and the commands of Machine/Rings.lean keep (Laws/Keeps.lean). -/

set_option linter.unusedTactic false
set_option linter.unreachableTactic false
set_option linter.unusedVariables false
set_option linter.unusedSimpArgs false

namespace Sys2Proof.Machine

theorem State.setHring_keeps {W : Places} {a₀ s₀ : State} (p1 p2) (h₀ : Keeps W a₀ s₀) : Keeps W a₀ (State.setHring s₀ p1 p2) := by
  unfold State.setHring
  with_reducible (repeat' first | assumption | exact Within.trans (by decide) hW | exact Within.bit (by decide) hW | refine places_some ?_ | exact places_none | refine places_cons ?_ ?_ | refine places_pair ?_ ?_ | exact places_nil | refine places_reg ?_ ?_ | exact places_regs | intro _ | apply Keeps.ite | simp only [List.foldl_cons, List.foldl_nil] | apply Keeps.foldl | apply Keeps.foldlFst | extract_lets | split | apply Keeps.upd | apply Keeps.updOpen | apply Keeps.updBad)

theorem State.ringSet_keeps {W : Places} {a s : State} (k f v) (hf : W ((f (ringFlds k)).id / 128) = true) (h : Keeps W a s) :
    Keeps W a (s.ringSet k f v) := State.set_keeps hf h

theorem State.ringDone_keeps {W : Places} {a₀ s₀ : State} (p1 p2 p3 p4) (hW : Within 0x3000000000000000000000000000000000778020002000000400000000000000000002000006240000401000002020081283c3420600800446012000008404 W) (h₀ : Keeps W a₀ s₀) : Keeps W a₀ (State.ringDone s₀ p1 p2 p3 p4) := by
  unfold State.ringDone
  with_reducible (repeat' first | assumption | (unfold fnPba; split <;> exact Within.bit (by decide) hW) | (unfold fnMask; split <;> exact Within.bit (by decide) hW) | (simp only [ringFlds]; split <;> exact Within.bit (by decide) hW) | exact Within.trans (by decide) hW | exact Within.bit (by decide) hW | refine places_some ?_ | exact places_none | refine places_cons ?_ ?_ | refine places_pair ?_ ?_ | exact places_nil | refine places_reg ?_ ?_ | exact places_regs | intro _ | apply State.dmaWrite_keeps | apply State.setHring_keeps | apply State.ringSet_keeps | apply Keeps.ite | simp only [List.foldl_cons, List.foldl_nil] | apply Keeps.foldl | apply Keeps.foldlFst | extract_lets | split)

theorem State.flushAt_keeps {W : Places} {a₀ s₀ : State} (p1 p2) (hW : Within 0x3000000000000000000000000000000000778000000000000400000000000000000002000006240000401000002020081283c3420600800446012000008404 W) (h₀ : Keeps W a₀ s₀) : Keeps W a₀ (State.flushAt s₀ p1 p2) := by
  unfold State.flushAt
  with_reducible (repeat' first | assumption | exact Within.trans (by decide) hW | exact Within.bit (by decide) hW | refine places_some ?_ | exact places_none | refine places_cons ?_ ?_ | refine places_pair ?_ ?_ | exact places_nil | refine places_reg ?_ ?_ | exact places_regs | intro _ | apply State.dmaWrite_keeps | apply State.drew_keeps | apply Keeps.ite | simp only [List.foldl_cons, List.foldl_nil] | apply Keeps.foldl | apply Keeps.foldlFst | extract_lets | split)

theorem State.flushRing_keeps {W : Places} {a₀ s₀ : State} (p1) (hW : Within 0x3000000000000000000000000000000000778030003000000400000000000000000002000006240000401000002020081283c3420600800446012000008404 W) (h₀ : Keeps W a₀ s₀) : Keeps W a₀ (State.flushRing s₀ p1) := by
  unfold State.flushRing
  with_reducible (repeat' first | assumption | (unfold fnPba; split <;> exact Within.bit (by decide) hW) | (unfold fnMask; split <;> exact Within.bit (by decide) hW) | (simp only [ringFlds]; split <;> exact Within.bit (by decide) hW) | exact Within.trans (by decide) hW | exact Within.bit (by decide) hW | refine places_some ?_ | exact places_none | refine places_cons ?_ ?_ | refine places_pair ?_ ?_ | exact places_nil | refine places_reg ?_ ?_ | exact places_regs | intro _ | apply State.each_keeps | apply State.flushAt_keeps | apply State.setHring_keeps | apply State.ringSet_keeps | apply Keeps.ite | simp only [List.foldl_cons, List.foldl_nil] | apply Keeps.foldl | apply Keeps.foldlFst | extract_lets | split)

theorem State.flushTaken_keeps {W : Places} {a₀ s₀ : State} (hW : Within 0x3000000000000000000000000000000000778020002000000400000000000000000002000006240000401000002020081283c3420600800446012000008404 W) (h₀ : Keeps W a₀ s₀) : Keeps W a₀ (State.flushTaken s₀) := by
  unfold State.flushTaken
  with_reducible (repeat' first | assumption | exact Within.trans (by decide) hW | exact Within.bit (by decide) hW | refine places_some ?_ | exact places_none | refine places_cons ?_ ?_ | refine places_pair ?_ ?_ | exact places_nil | refine places_reg ?_ ?_ | exact places_regs | intro _ | apply State.each_keeps | apply State.ringDone_keeps | apply State.drew_keeps | apply Keeps.ite | simp only [List.foldl_cons, List.foldl_nil] | apply Keeps.foldl | apply Keeps.foldlFst | extract_lets | split | apply Keeps.upd | apply Keeps.updOpen | apply Keeps.updBad)

end Sys2Proof.Machine
end

