-- ==== Sys2Proof/Laws/KeepPower.lean ====
section
/-! SUPPORT. What the operations and the commands of Machine/Power.lean keep (Laws/Keeps.lean). -/

set_option linter.unusedTactic false
set_option linter.unreachableTactic false
set_option linter.unusedVariables false
set_option linter.unusedSimpArgs false

namespace Sys2Proof.Machine

theorem State.keep_regsWf {r s : State} {f : Fld} (hr : r.regsWf = true) (hs : s.regsWf = true) :
    (r.keep s f).regsWf = true := by
  rw [regsWf_iff] at hr hs ⊢
  exact tabs_set hr _ _ (Tab.wf_get hs.2 _)

theorem State.keep_keeps {W : Places} {a r s : State} (f : Fld) (hW : ∀ k, W k = true) (hs : Keeps W a s) (h : Keeps W a r) :
    Keeps W a (r.keep s f) :=
  ⟨h.pending, h.free, h.out, fun k => State.keep_regsWf (h.regs k) (hs.regs k), h.mem, fun g _ w => by (rw [hW] at w; cases w),
    fun w => by (rw [hW] at w; cases w), fun w => by (rw [hW] at w; cases w)⟩

theorem State.keeps_regsWf {s : State} (l : List Fld) (hs : s.regsWf = true) : ∀ {r : State}, r.regsWf = true →
    (l.foldl (fun r f => r.keep s f) r).regsWf = true := by
  induction l with
  | nil => exact id
  | cons f l ih => exact fun hr => ih (State.keep_regsWf hr hs)

theorem State.keeps_memWf {s : State} (l : List Fld) : ∀ {r : State}, r.memWf = true →
    (l.foldl (fun r f => r.keep s f) r).memWf = true := by
  induction l with
  | nil => exact id
  | cons f l ih => exact fun hr => ih (r := State.keep _ s f) hr

theorem reset_regsWf : State.reset.regsWf = true := by decide

theorem reset_memWf : State.reset.memWf = true := by decide

theorem State.restart_keeps {W : Places} {a s : State} (hW : ∀ k, W k = true) (h : Keeps W a s) : Keeps W a (s.restart State.reset) :=
  ⟨h.pending, h.free, h.out, fun k => State.keeps_regsWf _ (h.regs k) reset_regsWf, fun _ => State.keeps_memWf (s := s) _ reset_memWf,
    fun g _ w => by (rw [hW] at w; cases w), fun w => by (rw [hW] at w; cases w), fun w => by (rw [hW] at w; cases w)⟩

theorem State.sampleSafeIn_keeps {W : Places} {a₀ s₀ : State} (hW : Within 0x2000000000000000000000000000000000778000000000000000000000000000000002000006240000401000002020081283c3420600800446012000008404 W) (h₀ : Keeps W a₀ s₀) : Keeps W a₀ (State.sampleSafeIn s₀) := by
  unfold State.sampleSafeIn
  with_reducible (repeat' first | assumption | exact Within.trans (by decide) hW | exact Within.bit (by decide) hW | refine places_some ?_ | exact places_none | refine places_cons ?_ ?_ | refine places_pair ?_ ?_ | exact places_nil | refine places_reg ?_ ?_ | exact places_regs | intro _ | apply State.enterSafe_keeps | apply State.set_keeps | apply Keeps.ite | simp only [List.foldl_cons, List.foldl_nil] | apply Keeps.foldl | apply Keeps.foldlFst | extract_lets | split)

theorem State.deviceReset_keeps {W : Places} {a₀ s₀ : State} (hW : ∀ k, W k = true) (h₀ : Keeps W a₀ s₀) : Keeps W a₀ (State.deviceReset s₀) := by
  unfold State.deviceReset
  with_reducible (repeat' first | assumption | exact hW _ | exact Within.all hW | refine places_some ?_ | exact places_none | refine places_cons ?_ ?_ | refine places_pair ?_ ?_ | exact places_nil | refine places_reg ?_ ?_ | exact places_regs | exact fun _ _ => hW _ | intro _ | apply State.restart_keeps | apply State.keep_keeps | apply State.sampleSafeIn_keeps | apply Keeps.ite | simp only [List.foldl_cons, List.foldl_nil] | apply Keeps.foldl | apply Keeps.foldlFst | extract_lets | split | apply Keeps.upd | apply Keeps.updOpen | apply Keeps.updBad)

theorem State.coldStart_keeps {W : Places} {a₀ s₀ : State} (p1) (hW : Within 0x400 W) (h₀ : Keeps W a₀ s₀) : Keeps W a₀ (State.coldStart s₀ p1) := by
  unfold State.coldStart
  with_reducible (repeat' first | assumption | exact Within.trans (by decide) hW | exact Within.bit (by decide) hW | refine places_some ?_ | exact places_none | refine places_cons ?_ ?_ | refine places_pair ?_ ?_ | exact places_nil | refine places_reg ?_ ?_ | exact places_regs | intro _ | apply State.set_keeps | apply Keeps.ite | simp only [List.foldl_cons, List.foldl_nil] | apply Keeps.foldl | apply Keeps.foldlFst | extract_lets | split | apply Keeps.upd | apply Keeps.updOpen | apply Keeps.updBad)

theorem execPowerOnReset_keeps {W : Places} {a₀ s₀ : State} (p0 p1 p2 p3) (hW : ∀ k, W k = true) (h₀ : Keeps W a₀ (s₀.elapse p0)) : KeepsOut W a₀ (execPowerOnReset p0 p1 p2 p3 s₀) := by
  unfold execPowerOnReset
  with_reducible (repeat' first | assumption | exact hW _ | exact Within.all hW | refine places_some ?_ | exact places_none | refine places_cons ?_ ?_ | refine places_pair ?_ ?_ | exact places_nil | refine places_reg ?_ ?_ | exact places_regs | exact fun _ _ => hW _ | intro _ | apply KeepsOut.next | apply KeepsOut.refused | apply KeepsOut.ite | apply State.restart_keeps | apply State.sampleSafeIn_keeps | apply Keeps.ite | simp only [List.foldl_cons, List.foldl_nil] | apply Keeps.foldl | apply Keeps.foldlFst | extract_lets | split | apply Keeps.upd | apply Keeps.updOpen | apply Keeps.updBad)

theorem execVauxUnderVoltage_keeps {W : Places} {a₀ s₀ : State} (p0) (hW : ∀ k, W k = true) (h₀ : Keeps W a₀ (s₀.elapse p0)) : KeepsOut W a₀ (execVauxUnderVoltage p0 s₀) := by
  unfold execVauxUnderVoltage
  with_reducible (repeat' first | assumption | exact hW _ | exact Within.all hW | refine places_some ?_ | exact places_none | refine places_cons ?_ ?_ | refine places_pair ?_ ?_ | exact places_nil | refine places_reg ?_ ?_ | exact places_regs | exact fun _ _ => hW _ | intro _ | apply KeepsOut.next | apply KeepsOut.refused | apply KeepsOut.ite | apply State.restart_keeps | apply State.set_keeps | apply Keeps.ite | simp only [List.foldl_cons, List.foldl_nil] | apply Keeps.foldl | apply Keeps.foldlFst | extract_lets | split | apply Keeps.upd | apply Keeps.updOpen | apply Keeps.updBad)

theorem execRailsGood_keeps {W : Places} {a₀ s₀ : State} (p0) (hW : Within 0x500 W) (h₀ : Keeps W a₀ (s₀.elapse p0)) : KeepsOut W a₀ (execRailsGood p0 s₀) := by
  unfold execRailsGood
  with_reducible (repeat' first | assumption | exact Within.trans (by decide) hW | exact Within.bit (by decide) hW | refine places_some ?_ | exact places_none | refine places_cons ?_ ?_ | refine places_pair ?_ ?_ | exact places_nil | refine places_reg ?_ ?_ | exact places_regs | intro _ | apply KeepsOut.next | apply KeepsOut.refused | apply KeepsOut.ite | apply State.set_keeps | apply State.coldStart_keeps | apply Keeps.ite | simp only [List.foldl_cons, List.foldl_nil] | apply Keeps.foldl | apply Keeps.foldlFst | extract_lets | split)

theorem execRailUnderVoltage_keeps {W : Places} {a₀ s₀ : State} (p0 p1) (hW : Within 0x2000000000000000000000000000000000778000000000000000000000000000000002000006240000401000002020081283c342060080044601200000a504 W) (h₀ : Keeps W a₀ (s₀.elapse p0)) : KeepsOut W a₀ (execRailUnderVoltage p0 p1 s₀) := by
  unfold execRailUnderVoltage
  with_reducible (repeat' first | assumption | exact Within.trans (by decide) hW | exact Within.bit (by decide) hW | refine places_some ?_ | exact places_none | refine places_cons ?_ ?_ | refine places_pair ?_ ?_ | exact places_nil | refine places_reg ?_ ?_ | exact places_regs | intro _ | apply KeepsOut.next | apply KeepsOut.refused | apply KeepsOut.ite | apply State.set_keeps | apply State.enterSafe_keeps | apply Keeps.ite | simp only [List.foldl_cons, List.foldl_nil] | apply Keeps.foldl | apply Keeps.foldlFst | extract_lets | split | apply Keeps.upd | apply Keeps.updOpen | apply Keeps.updBad)

theorem execResetNFall_keeps {W : Places} {a₀ s₀ : State} (p0) (h₀ : Keeps W a₀ (s₀.elapse p0)) : KeepsOut W a₀ (execResetNFall p0 s₀) := by
  unfold execResetNFall
  with_reducible (repeat' first | assumption | exact Within.trans (by decide) hW | exact Within.bit (by decide) hW | refine places_some ?_ | exact places_none | refine places_cons ?_ ?_ | refine places_pair ?_ ?_ | exact places_nil | refine places_reg ?_ ?_ | exact places_regs | intro _ | apply KeepsOut.next | apply KeepsOut.refused | apply KeepsOut.ite | apply Keeps.ite | simp only [List.foldl_cons, List.foldl_nil] | apply Keeps.foldl | apply Keeps.foldlFst | extract_lets | split | apply Keeps.upd | apply Keeps.updOpen | apply Keeps.updBad)

theorem State.longLow_keeps {W : Places} {a₀ s₀ : State} (hW : ∀ k, W k = true) (h₀ : Keeps W a₀ s₀) : Keeps W a₀ (State.longLow s₀) := by
  unfold State.longLow
  with_reducible (repeat' first | assumption | exact hW _ | exact Within.all hW | refine places_some ?_ | exact places_none | refine places_cons ?_ ?_ | refine places_pair ?_ ?_ | exact places_nil | refine places_reg ?_ ?_ | exact places_regs | exact fun _ _ => hW _ | intro _ | apply State.deviceReset_keeps | apply Keeps.ite | simp only [List.foldl_cons, List.foldl_nil] | apply Keeps.foldl | apply Keeps.foldlFst | extract_lets | split | apply Keeps.upd | apply Keeps.updOpen | apply Keeps.updBad)

theorem execDeviceReset_keeps {W : Places} {a₀ s₀ : State} (p0) (hW : ∀ k, W k = true) (h₀ : Keeps W a₀ (s₀.elapse p0)) : KeepsOut W a₀ (execDeviceReset p0 s₀) := by
  unfold execDeviceReset
  with_reducible (repeat' first | assumption | exact hW _ | exact Within.all hW | refine places_some ?_ | exact places_none | refine places_cons ?_ ?_ | refine places_pair ?_ ?_ | exact places_nil | refine places_reg ?_ ?_ | exact places_regs | exact fun _ _ => hW _ | intro _ | apply KeepsOut.next | apply KeepsOut.refused | apply KeepsOut.ite | apply State.longLow_keeps | apply Keeps.ite | simp only [List.foldl_cons, List.foldl_nil] | apply Keeps.foldl | apply Keeps.foldlFst | extract_lets | split)

theorem State.shortLow_keeps {W : Places} {a₀ s₀ : State} (hW : ∀ k, W k = true) (h₀ : Keeps W a₀ s₀) : Keeps W a₀ (State.shortLow s₀) := by
  unfold State.shortLow
  with_reducible (repeat' first | assumption | exact hW _ | exact Within.all hW | refine places_some ?_ | exact places_none | refine places_cons ?_ ?_ | refine places_pair ?_ ?_ | exact places_nil | refine places_reg ?_ ?_ | exact places_regs | exact fun _ _ => hW _ | intro _ | apply State.drew_keeps | apply State.deviceReset_keeps | apply Keeps.ite | simp only [List.foldl_cons, List.foldl_nil] | apply Keeps.foldl | apply Keeps.foldlFst | extract_lets | split)

theorem State.resetRisen_keeps {W : Places} {a₀ s₀ : State} (hW : Within 0x400 W) (h₀ : Keeps W a₀ s₀) : Keeps W a₀ (State.resetRisen s₀) := by
  unfold State.resetRisen
  with_reducible (repeat' first | assumption | exact Within.trans (by decide) hW | exact Within.bit (by decide) hW | refine places_some ?_ | exact places_none | refine places_cons ?_ ?_ | refine places_pair ?_ ?_ | exact places_nil | refine places_reg ?_ ?_ | exact places_regs | intro _ | apply State.coldStart_keeps | apply Keeps.ite | simp only [List.foldl_cons, List.foldl_nil] | apply Keeps.foldl | apply Keeps.foldlFst | extract_lets | split | apply Keeps.upd | apply Keeps.updOpen | apply Keeps.updBad)

theorem execResetNRise_keeps {W : Places} {a₀ s₀ : State} (p0) (hW : ∀ k, W k = true) (h₀ : Keeps W a₀ (s₀.elapse p0)) : KeepsOut W a₀ (execResetNRise p0 s₀) := by
  unfold execResetNRise
  with_reducible (repeat' first | assumption | exact hW _ | exact Within.all hW | refine places_some ?_ | exact places_none | refine places_cons ?_ ?_ | refine places_pair ?_ ?_ | exact places_nil | refine places_reg ?_ ?_ | exact places_regs | exact fun _ _ => hW _ | intro _ | apply KeepsOut.next | apply KeepsOut.refused | apply KeepsOut.ite | apply State.resetRisen_keeps | apply State.longLow_keeps | apply State.shortLow_keeps | apply Keeps.ite | simp only [List.foldl_cons, List.foldl_nil] | apply Keeps.foldl | apply Keeps.foldlFst | extract_lets | split)

theorem State.devCmd_keeps {W : Places} {a₀ s₀ : State} (p1) (hW : ∀ k, W k = true) (h₀ : Keeps W a₀ s₀) : Keeps W a₀ (State.devCmd s₀ p1) := by
  unfold State.devCmd
  with_reducible (repeat' first | assumption | exact hW _ | exact Within.all hW | refine places_some ?_ | exact places_none | refine places_cons ?_ ?_ | refine places_pair ?_ ?_ | exact places_nil | refine places_reg ?_ ?_ | exact places_regs | exact fun _ _ => hW _ | intro _ | apply State.deviceReset_keeps | apply State.coldStart_keeps | apply Keeps.ite | simp only [List.foldl_cons, List.foldl_nil] | apply Keeps.foldl | apply Keeps.foldlFst | extract_lets | split | apply Keeps.upd | apply Keeps.updOpen | apply Keeps.updBad)

theorem execDevReset_keeps {W : Places} {a₀ s₀ : State} (p0 p1) (hW : ∀ k, W k = true) (h₀ : Keeps W a₀ (s₀.elapse p0)) : KeepsOut W a₀ (execDevReset p0 p1 s₀) := by
  unfold execDevReset
  with_reducible (repeat' first | assumption | exact hW _ | exact Within.all hW | refine places_some ?_ | exact places_none | refine places_cons ?_ ?_ | refine places_pair ?_ ?_ | exact places_nil | refine places_reg ?_ ?_ | exact places_regs | exact fun _ _ => hW _ | intro _ | apply KeepsOut.next | apply KeepsOut.refused | apply KeepsOut.ite | apply State.devCmd_keeps | apply Keeps.ite | simp only [List.foldl_cons, List.foldl_nil] | apply Keeps.foldl | apply Keeps.foldlFst | extract_lets | split)

theorem execTestenHigh_keeps {W : Places} {a₀ s₀ : State} (p0) (h₀ : Keeps W a₀ (s₀.elapse p0)) : KeepsOut W a₀ (execTestenHigh p0 s₀) := by
  unfold execTestenHigh
  with_reducible (repeat' first | assumption | exact Within.trans (by decide) hW | exact Within.bit (by decide) hW | refine places_some ?_ | exact places_none | refine places_cons ?_ ?_ | refine places_pair ?_ ?_ | exact places_nil | refine places_reg ?_ ?_ | exact places_regs | intro _ | apply KeepsOut.next | apply KeepsOut.refused | apply KeepsOut.ite | apply Keeps.ite | simp only [List.foldl_cons, List.foldl_nil] | apply Keeps.foldl | apply Keeps.foldlFst | extract_lets | split | apply Keeps.upd | apply Keeps.updOpen | apply Keeps.updBad)

theorem execTestenLow_keeps {W : Places} {a₀ s₀ : State} (p0) (h₀ : Keeps W a₀ (s₀.elapse p0)) : KeepsOut W a₀ (execTestenLow p0 s₀) := by
  unfold execTestenLow
  with_reducible (repeat' first | assumption | exact Within.trans (by decide) hW | exact Within.bit (by decide) hW | refine places_some ?_ | exact places_none | refine places_cons ?_ ?_ | refine places_pair ?_ ?_ | exact places_nil | refine places_reg ?_ ?_ | exact places_regs | intro _ | apply KeepsOut.next | apply KeepsOut.refused | apply KeepsOut.ite | apply Keeps.ite | simp only [List.foldl_cons, List.foldl_nil] | apply Keeps.foldl | apply Keeps.foldlFst | extract_lets | split | apply Keeps.upd | apply Keeps.updOpen | apply Keeps.updBad)

theorem State.queueGroups_keeps {W : Places} {a₀ s₀ : State} (p1) (hW : Within 0x8400 W) (h₀ : Keeps W a₀ s₀) : Keeps W a₀ (State.queueGroups s₀ p1) := by
  unfold State.queueGroups
  with_reducible (repeat' first | assumption | exact Within.trans (by decide) hW | exact Within.bit (by decide) hW | refine places_some ?_ | exact places_none | refine places_cons ?_ ?_ | refine places_pair ?_ ?_ | exact places_nil | refine places_reg ?_ ?_ | exact places_regs | intro _ | apply State.setQueue_keeps | apply State.each_keeps | apply State.setGroup_keeps | apply Keeps.ite | simp only [List.foldl_cons, List.foldl_nil] | apply Keeps.foldl | apply Keeps.foldlFst | extract_lets | split)

theorem execCoreIslandAdmission_keeps {W : Places} {a₀ s₀ : State} (p0) (h₀ : Keeps W a₀ (s₀.elapse p0)) : KeepsOut W a₀ (execCoreIslandAdmission p0 s₀) := by
  unfold execCoreIslandAdmission
  with_reducible (repeat' first | assumption | exact Within.trans (by decide) hW | exact Within.bit (by decide) hW | refine places_some ?_ | exact places_none | refine places_cons ?_ ?_ | refine places_pair ?_ ?_ | exact places_nil | refine places_reg ?_ ?_ | exact places_regs | intro _ | apply KeepsOut.next | apply KeepsOut.refused | apply KeepsOut.ite | apply Keeps.ite | simp only [List.foldl_cons, List.foldl_nil] | apply Keeps.foldl | apply Keeps.foldlFst | extract_lets | split | apply Keeps.upd | apply Keeps.updOpen | apply Keeps.updBad)

theorem execTileCommonAdmission_keeps {W : Places} {a₀ s₀ : State} (p0) (hW : Within 0x11000000000000000000000000000000000000000000000008400 W) (h₀ : Keeps W a₀ (s₀.elapse p0)) : KeepsOut W a₀ (execTileCommonAdmission p0 s₀) := by
  unfold execTileCommonAdmission
  with_reducible (repeat' first | assumption | exact Within.trans (by decide) hW | exact Within.bit (by decide) hW | refine places_some ?_ | exact places_none | refine places_cons ?_ ?_ | refine places_pair ?_ ?_ | exact places_nil | refine places_reg ?_ ?_ | exact places_regs | intro _ | apply KeepsOut.next | apply KeepsOut.refused | apply KeepsOut.ite | apply State.set_keeps | apply State.queueGroups_keeps | apply Keeps.ite | simp only [List.foldl_cons, List.foldl_nil] | apply Keeps.foldl | apply Keeps.foldlFst | extract_lets | split | apply Keeps.upd | apply Keeps.updOpen | apply Keeps.updBad)

theorem execLadderRequest_keeps {W : Places} {a₀ s₀ : State} (p0) (hW : Within 0x200000000000000000000000000000000000000000000000000000000000000000000000000000000000000000000000000000000000000000000000008400 W) (h₀ : Keeps W a₀ (s₀.elapse p0)) : KeepsOut W a₀ (execLadderRequest p0 s₀) := by
  unfold execLadderRequest
  with_reducible (repeat' first | assumption | exact Within.trans (by decide) hW | exact Within.bit (by decide) hW | refine places_some ?_ | exact places_none | refine places_cons ?_ ?_ | refine places_pair ?_ ?_ | exact places_nil | refine places_reg ?_ ?_ | exact places_regs | intro _ | apply KeepsOut.next | apply KeepsOut.refused | apply KeepsOut.ite | apply State.each_keeps | apply State.takeGroup_keeps | apply State.formReady_keeps | apply Keeps.ite | simp only [List.foldl_cons, List.foldl_nil] | apply Keeps.foldl | apply Keeps.foldlFst | extract_lets | split | apply Keeps.upd | apply Keeps.updOpen | apply Keeps.updBad)

theorem State.groupLive_keeps {W : Places} {a₀ s₀ : State} (p1) (hW : Within 0x8000000000000000000000 W) (h₀ : Keeps W a₀ s₀) : Keeps W a₀ (State.groupLive s₀ p1) := by
  unfold State.groupLive
  with_reducible (repeat' first | assumption | exact Within.trans (by decide) hW | exact Within.bit (by decide) hW | refine places_some ?_ | exact places_none | refine places_cons ?_ ?_ | refine places_pair ?_ ?_ | exact places_nil | refine places_reg ?_ ?_ | exact places_regs | intro _ | apply State.each_keeps | apply State.set_keeps | apply Keeps.ite | simp only [List.foldl_cons, List.foldl_nil] | apply Keeps.foldl | apply Keeps.foldlFst | extract_lets | split)

theorem execLadderSlot_keeps {W : Places} {a₀ s₀ : State} (p0) (hW : Within 0x8000000000000000008400 W) (h₀ : Keeps W a₀ (s₀.elapse p0)) : KeepsOut W a₀ (execLadderSlot p0 s₀) := by
  unfold execLadderSlot
  with_reducible (repeat' first | assumption | exact Within.trans (by decide) hW | exact Within.bit (by decide) hW | refine places_some ?_ | exact places_none | refine places_cons ?_ ?_ | refine places_pair ?_ ?_ | exact places_nil | refine places_reg ?_ ?_ | exact places_regs | intro _ | apply KeepsOut.next | apply KeepsOut.refused | apply KeepsOut.ite | apply State.setGroup_keeps | apply State.setQueue_keeps | apply State.each_keeps | apply State.set_keeps | apply Keeps.ite | simp only [List.foldl_cons, List.foldl_nil] | apply Keeps.foldl | apply Keeps.foldlFst | extract_lets | split | apply Keeps.upd | apply Keeps.updOpen | apply Keeps.updBad)

theorem execGroupSettleEnd_keeps {W : Places} {a₀ s₀ : State} (p0 p1 p2) (hW : Within 0x2000000000000000000000000000000000778000000000000000000000000000000002000006240000401000002020081283c342860080044701200000a404 W) (h₀ : Keeps W a₀ (s₀.elapse p0)) : KeepsOut W a₀ (execGroupSettleEnd p0 p1 p2 s₀) := by
  unfold execGroupSettleEnd
  with_reducible (repeat' first | assumption | exact Within.trans (by decide) hW | exact Within.bit (by decide) hW | refine places_some ?_ | exact places_none | refine places_cons ?_ ?_ | refine places_pair ?_ ?_ | exact places_nil | refine places_reg ?_ ?_ | exact places_regs | intro _ | apply KeepsOut.next | apply KeepsOut.refused | apply KeepsOut.ite | apply State.raiseU_keeps | apply State.setGroup_keeps | apply State.each_keeps | apply State.siteFault_keeps | apply State.groupLive_keeps | apply State.groupDone_keeps | apply State.setQueue_keeps | apply State.askRetire_keeps | apply Keeps.ite | simp only [List.foldl_cons, List.foldl_nil] | apply Keeps.foldl | apply Keeps.foldlFst | extract_lets | split | apply Keeps.upd | apply Keeps.updOpen | apply Keeps.updBad)

theorem execPoweringEnd_keeps {W : Places} {a₀ s₀ : State} (p0) (hW : Within 0x404 W) (h₀ : Keeps W a₀ (s₀.elapse p0)) : KeepsOut W a₀ (execPoweringEnd p0 s₀) := by
  unfold execPoweringEnd
  with_reducible (repeat' first | assumption | exact Within.trans (by decide) hW | exact Within.bit (by decide) hW | refine places_some ?_ | exact places_none | refine places_cons ?_ ?_ | refine places_pair ?_ ?_ | exact places_nil | refine places_reg ?_ ?_ | exact places_regs | intro _ | apply KeepsOut.next | apply KeepsOut.refused | apply KeepsOut.ite | apply State.set_keeps | apply Keeps.ite | simp only [List.foldl_cons, List.foldl_nil] | apply Keeps.foldl | apply Keeps.foldlFst | extract_lets | split | apply Keeps.upd | apply Keeps.updOpen | apply Keeps.updBad)

theorem State.sleepSite_keeps {W : Places} {a₀ s₀ : State} (p1) (hW : Within 0x2000010400 W) (h₀ : Keeps W a₀ s₀) : Keeps W a₀ (State.sleepSite s₀ p1) := by
  unfold State.sleepSite
  with_reducible (repeat' first | assumption | exact Within.trans (by decide) hW | exact Within.bit (by decide) hW | refine places_some ?_ | exact places_none | refine places_cons ?_ ?_ | refine places_pair ?_ ?_ | exact places_nil | refine places_reg ?_ ?_ | exact places_regs | intro _ | apply State.set_keeps | apply State.setMapBit_keeps | apply Keeps.ite | simp only [List.foldl_cons, List.foldl_nil] | apply Keeps.foldl | apply Keeps.foldlFst | extract_lets | split)

theorem State.sleepSet_keeps {W : Places} {a₀ s₀ : State} (p1 p2) (hW : Within 0x2000010400 W) (h₀ : Keeps W a₀ s₀) : Keeps W a₀ (State.sleepSet s₀ p1 p2) := by
  unfold State.sleepSet
  with_reducible (repeat' first | assumption | exact Within.trans (by decide) hW | exact Within.bit (by decide) hW | refine places_some ?_ | exact places_none | refine places_cons ?_ ?_ | refine places_pair ?_ ?_ | exact places_nil | refine places_reg ?_ ?_ | exact places_regs | intro _ | apply State.each_keeps | apply State.sleepSite_keeps | apply State.askRetire_keeps | apply Keeps.ite | simp only [List.foldl_cons, List.foldl_nil] | apply Keeps.foldl | apply Keeps.foldlFst | extract_lets | split)

theorem State.sleepClr_keeps {W : Places} {a₀ s₀ : State} (p1 p2) (hW : Within 0x2000010000 W) (h₀ : Keeps W a₀ s₀) : Keeps W a₀ (State.sleepClr s₀ p1 p2) := by
  unfold State.sleepClr
  with_reducible (repeat' first | assumption | exact Within.trans (by decide) hW | exact Within.bit (by decide) hW | refine places_some ?_ | exact places_none | refine places_cons ?_ ?_ | refine places_pair ?_ ?_ | exact places_nil | refine places_reg ?_ ?_ | exact places_regs | intro _ | apply State.each_keeps | apply State.unsleep_keeps | apply State.ladderAsk_keeps | apply Keeps.ite | simp only [List.foldl_cons, List.foldl_nil] | apply Keeps.foldl | apply Keeps.foldlFst | extract_lets | split)

theorem execPwrSleepSet_keeps {W : Places} {a₀ s₀ : State} (p0 p1 p2) (hW : Within 0x2000010400 W) (h₀ : Keeps W a₀ (s₀.elapse p0)) : KeepsOut W a₀ (execPwrSleepSet p0 p1 p2 s₀) := by
  unfold execPwrSleepSet
  with_reducible (repeat' first | assumption | exact Within.trans (by decide) hW | exact Within.bit (by decide) hW | refine places_some ?_ | exact places_none | refine places_cons ?_ ?_ | refine places_pair ?_ ?_ | exact places_nil | refine places_reg ?_ ?_ | exact places_regs | intro _ | apply KeepsOut.next | apply KeepsOut.refused | apply KeepsOut.ite | apply State.sleepSet_keeps | apply Keeps.ite | simp only [List.foldl_cons, List.foldl_nil] | apply Keeps.foldl | apply Keeps.foldlFst | extract_lets | split)

theorem execPwrSleepClr_keeps {W : Places} {a₀ s₀ : State} (p0 p1 p2) (hW : Within 0x2000010000 W) (h₀ : Keeps W a₀ (s₀.elapse p0)) : KeepsOut W a₀ (execPwrSleepClr p0 p1 p2 s₀) := by
  unfold execPwrSleepClr
  with_reducible (repeat' first | assumption | exact Within.trans (by decide) hW | exact Within.bit (by decide) hW | refine places_some ?_ | exact places_none | refine places_cons ?_ ?_ | refine places_pair ?_ ?_ | exact places_nil | refine places_reg ?_ ?_ | exact places_regs | intro _ | apply KeepsOut.next | apply KeepsOut.refused | apply KeepsOut.ite | apply State.sleepClr_keeps | apply Keeps.ite | simp only [List.foldl_cons, List.foldl_nil] | apply Keeps.foldl | apply Keeps.foldlFst | extract_lets | split)

theorem State.setOp_keeps {W : Places} {a₀ s₀ : State} (p1) (hW : Within 0x10000000000000000000000000000000000000000000000000000000000000000000000000000 W) (h₀ : Keeps W a₀ s₀) : Keeps W a₀ (State.setOp s₀ p1) := by
  unfold State.setOp
  with_reducible (repeat' first | assumption | exact Within.trans (by decide) hW | exact Within.bit (by decide) hW | refine places_some ?_ | exact places_none | refine places_cons ?_ ?_ | refine places_pair ?_ ?_ | exact places_nil | refine places_reg ?_ ?_ | exact places_regs | intro _ | apply State.set_keeps | apply State.drew_keeps | apply Keeps.ite | simp only [List.foldl_cons, List.foldl_nil] | apply Keeps.foldl | apply Keeps.foldlFst | extract_lets | split)

theorem State.dormant_keeps {W : Places} {a₀ s₀ : State} (hW : Within 0x8404 W) (h₀ : Keeps W a₀ s₀) : Keeps W a₀ (State.dormant s₀) := by
  unfold State.dormant
  with_reducible (repeat' first | assumption | exact Within.trans (by decide) hW | exact Within.bit (by decide) hW | refine places_some ?_ | exact places_none | refine places_cons ?_ ?_ | refine places_pair ?_ ?_ | exact places_nil | refine places_reg ?_ ?_ | exact places_regs | intro _ | apply State.each_keeps | apply State.setGroup_keeps | apply State.set_keeps | apply State.setQueue_keeps | apply Keeps.ite | simp only [List.foldl_cons, List.foldl_nil] | apply Keeps.foldl | apply Keeps.foldlFst | extract_lets | split)

theorem execDormantRequest_keeps {W : Places} {a₀ s₀ : State} (p0) (hW : Within 0x8404 W) (h₀ : Keeps W a₀ (s₀.elapse p0)) : KeepsOut W a₀ (execDormantRequest p0 s₀) := by
  unfold execDormantRequest
  with_reducible (repeat' first | assumption | exact Within.trans (by decide) hW | exact Within.bit (by decide) hW | refine places_some ?_ | exact places_none | refine places_cons ?_ ?_ | refine places_pair ?_ ?_ | exact places_nil | refine places_reg ?_ ?_ | exact places_regs | intro _ | apply KeepsOut.next | apply KeepsOut.refused | apply KeepsOut.ite | apply State.dormant_keeps | apply Keeps.ite | simp only [List.foldl_cons, List.foldl_nil] | apply Keeps.foldl | apply Keeps.foldlFst | extract_lets | split)

theorem State.selfRefresh_keeps {W : Places} {a₀ s₀ : State} (p1) (hW : Within 0x400000000000000000000000000000000000000000000000000000000000000000000000000000 W) (h₀ : Keeps W a₀ s₀) : Keeps W a₀ (State.selfRefresh s₀ p1) := by
  unfold State.selfRefresh
  with_reducible (repeat' first | assumption | exact Within.trans (by decide) hW | exact Within.bit (by decide) hW | refine places_some ?_ | exact places_none | refine places_cons ?_ ?_ | refine places_pair ?_ ?_ | exact places_nil | refine places_reg ?_ ?_ | exact places_regs | intro _ | apply State.each_keeps | apply State.set_keeps | apply Keeps.ite | simp only [List.foldl_cons, List.foldl_nil] | apply Keeps.foldl | apply Keeps.foldlFst | extract_lets | split)

theorem State.portsOff_keeps {W : Places} {a₀ s₀ : State} (hW : Within 0x1040000102000000000000000000000000000000000000000000000 W) (h₀ : Keeps W a₀ s₀) : Keeps W a₀ (State.portsOff s₀) := by
  unfold State.portsOff
  with_reducible (repeat' first | assumption | exact Within.trans (by decide) hW | exact Within.bit (by decide) hW | refine places_some ?_ | exact places_none | refine places_cons ?_ ?_ | refine places_pair ?_ ?_ | exact places_nil | refine places_reg ?_ ?_ | exact places_regs | intro _ | apply State.each_keeps | apply State.set_keeps | apply State.setPort_keeps | apply State.holdover_keeps | apply Keeps.ite | simp only [List.foldl_cons, List.foldl_nil] | apply Keeps.foldl | apply Keeps.foldlFst | extract_lets | split)

theorem execDormantEntryComplete_keeps {W : Places} {a₀ s₀ : State} (p0) (hW : Within 0x412000000000000000000001051000102000000000000000000000000000000000000000000404 W) (h₀ : Keeps W a₀ (s₀.elapse p0)) : KeepsOut W a₀ (execDormantEntryComplete p0 s₀) := by
  unfold execDormantEntryComplete
  with_reducible (repeat' first | assumption | exact Within.trans (by decide) hW | exact Within.bit (by decide) hW | refine places_some ?_ | exact places_none | refine places_cons ?_ ?_ | refine places_pair ?_ ?_ | exact places_nil | refine places_reg ?_ ?_ | exact places_regs | intro _ | apply KeepsOut.next | apply KeepsOut.refused | apply KeepsOut.ite | apply State.each_keeps | apply State.set_keeps | apply State.portsOff_keeps | apply State.selfRefresh_keeps | apply State.setOp_keeps | apply Keeps.ite | simp only [List.foldl_cons, List.foldl_nil] | apply Keeps.foldl | apply Keeps.foldlFst | extract_lets | split | apply Keeps.upd | apply Keeps.updOpen | apply Keeps.updBad)

theorem State.wake_keeps {W : Places} {a₀ s₀ : State} (hW : Within 0x8404 W) (h₀ : Keeps W a₀ s₀) : Keeps W a₀ (State.wake s₀) := by
  unfold State.wake
  with_reducible (repeat' first | assumption | exact Within.trans (by decide) hW | exact Within.bit (by decide) hW | refine places_some ?_ | exact places_none | refine places_cons ?_ ?_ | refine places_pair ?_ ?_ | exact places_nil | refine places_reg ?_ ?_ | exact places_regs | intro _ | apply State.set_keeps | apply State.setQueue_keeps | apply State.queueGroups_keeps | apply Keeps.ite | simp only [List.foldl_cons, List.foldl_nil] | apply Keeps.foldl | apply Keeps.foldlFst | extract_lets | split | apply Keeps.upd | apply Keeps.updOpen | apply Keeps.updBad)

theorem execWake_keeps {W : Places} {a₀ s₀ : State} (p0 p1) (hW : Within 0x8404 W) (h₀ : Keeps W a₀ (s₀.elapse p0)) : KeepsOut W a₀ (execWake p0 p1 s₀) := by
  unfold execWake
  with_reducible (repeat' first | assumption | exact Within.trans (by decide) hW | exact Within.bit (by decide) hW | refine places_some ?_ | exact places_none | refine places_cons ?_ ?_ | refine places_pair ?_ ?_ | exact places_nil | refine places_reg ?_ ?_ | exact places_regs | intro _ | apply KeepsOut.next | apply KeepsOut.refused | apply KeepsOut.ite | apply State.wake_keeps | apply Keeps.ite | simp only [List.foldl_cons, List.foldl_nil] | apply Keeps.foldl | apply Keeps.foldlFst | extract_lets | split)

theorem execWakeComplete_keeps {W : Places} {a₀ s₀ : State} (p0) (hW : Within 0x200000000000000000000000000000000000440000000000412000000000000000000000000000000000000000000000000000000000000000000000000404 W) (h₀ : Keeps W a₀ (s₀.elapse p0)) : KeepsOut W a₀ (execWakeComplete p0 s₀) := by
  unfold execWakeComplete
  with_reducible (repeat' first | assumption | exact Within.trans (by decide) hW | exact Within.bit (by decide) hW | refine places_some ?_ | exact places_none | refine places_cons ?_ ?_ | refine places_pair ?_ ?_ | exact places_nil | refine places_reg ?_ ?_ | exact places_regs | intro _ | apply KeepsOut.next | apply KeepsOut.refused | apply KeepsOut.ite | apply State.set_keeps | apply State.each_keeps | apply State.selfRefresh_keeps | apply State.setOp_keeps | apply State.flushMsix_keeps | apply State.fire_keeps | apply Keeps.ite | simp only [List.foldl_cons, List.foldl_nil] | apply Keeps.foldl | apply Keeps.foldlFst | extract_lets | split | apply Keeps.upd | apply Keeps.updOpen | apply Keeps.updBad)

theorem execThermalConversion_keeps {W : Places} {a₀ s₀ : State} (p0 p1) (hW : Within 0x2000000000000000000000000000000000778000000000000000000000000000000002000006240000401000002020081283c3420600800446012000008454 W) (h₀ : Keeps W a₀ (s₀.elapse p0)) : KeepsOut W a₀ (execThermalConversion p0 p1 s₀) := by
  unfold execThermalConversion
  with_reducible (repeat' first | assumption | exact Within.trans (by decide) hW | exact Within.bit (by decide) hW | refine places_some ?_ | exact places_none | refine places_cons ?_ ?_ | refine places_pair ?_ ?_ | exact places_nil | refine places_reg ?_ ?_ | exact places_regs | intro _ | apply KeepsOut.next | apply KeepsOut.refused | apply KeepsOut.ite | apply State.each_keeps | apply State.set_keeps | apply State.raiseC_keeps | apply State.raiseF_keeps | apply State.recause_keeps | apply Keeps.ite | simp only [List.foldl_cons, List.foldl_nil] | apply Keeps.foldl | apply Keeps.foldlFst | extract_lets | split)

end Sys2Proof.Machine
end

