-- ==== Sys2Proof/Laws/KeepEvents.lean ====
section
/-! SUPPORT. What the operations and the commands of Machine/Events.lean keep (Laws/Keeps.lean). -/

set_option linter.unusedTactic false
set_option linter.unreachableTactic false
set_option linter.unusedVariables false
set_option linter.unusedSimpArgs false

namespace Sys2Proof.Machine

theorem State.setEvf_keeps {W : Places} {a₀ s₀ : State} (p1) (h₀ : Keeps W a₀ s₀) : Keeps W a₀ (State.setEvf s₀ p1) := by
  unfold State.setEvf
  with_reducible (repeat' first | assumption | exact Within.trans (by decide) hW | exact Within.bit (by decide) hW | refine places_some ?_ | exact places_none | refine places_cons ?_ ?_ | refine places_pair ?_ ?_ | exact places_nil | refine places_reg ?_ ?_ | exact places_regs | intro _ | apply Keeps.ite | simp only [List.foldl_cons, List.foldl_nil] | apply Keeps.foldl | apply Keeps.foldlFst | extract_lets | split | apply Keeps.upd | apply Keeps.updOpen | apply Keeps.updBad)

theorem State.coincide_keeps {W : Places} {a₀ s₀ : State} (p1 p2) (hW : Within 0x2000000000000000000000000000000000000000000000000000000000000000000000 W) (h₀ : Keeps W a₀ s₀) : Keeps W a₀ (State.coincide s₀ p1 p2) := by
  unfold State.coincide
  with_reducible (repeat' first | assumption | exact Within.trans (by decide) hW | exact Within.bit (by decide) hW | refine places_some ?_ | exact places_none | refine places_cons ?_ ?_ | refine places_pair ?_ ?_ | exact places_nil | refine places_reg ?_ ?_ | exact places_regs | intro _ | apply State.setMapBit_keeps | apply Keeps.ite | simp only [List.foldl_cons, List.foldl_nil] | apply Keeps.foldl | apply Keeps.foldlFst | extract_lets | split)

theorem State.showTrig_keeps {W : Places} {a₀ s₀ : State} (p1) (h₀ : Keeps W a₀ s₀) : Keeps W a₀ (State.showTrig s₀ p1) := by
  unfold State.showTrig
  with_reducible (repeat' first | assumption | exact Within.trans (by decide) hW | exact Within.bit (by decide) hW | refine places_some ?_ | exact places_none | refine places_cons ?_ ?_ | refine places_pair ?_ ?_ | exact places_nil | refine places_reg ?_ ?_ | exact places_regs | intro _ | apply Keeps.ite | simp only [List.foldl_cons, List.foldl_nil] | apply Keeps.foldl | apply Keeps.foldlFst | extract_lets | split | apply Keeps.upd | apply Keeps.updOpen | apply Keeps.updBad)

theorem State.trigPulse_keeps {W : Places} {a₀ s₀ : State} (p1 p2 p3) (hW : Within 0x2000000000000000000000000000000000000000000000000000000000000000000000 W) (h₀ : Keeps W a₀ s₀) : Keeps W a₀ (State.trigPulse s₀ p1 p2 p3) := by
  unfold State.trigPulse
  with_reducible (repeat' first | assumption | exact Within.trans (by decide) hW | exact Within.bit (by decide) hW | refine places_some ?_ | exact places_none | refine places_cons ?_ ?_ | refine places_pair ?_ ?_ | exact places_nil | refine places_reg ?_ ?_ | exact places_regs | intro _ | apply State.coincide_keeps | apply State.showTrig_keeps | apply Keeps.ite | simp only [List.foldl_cons, List.foldl_nil] | apply Keeps.foldl | apply Keeps.foldlFst | extract_lets | split | apply Keeps.upd | apply Keeps.updOpen | apply Keeps.updBad)

theorem State.broadcast_keeps {W : Places} {a₀ s₀ : State} (p1 p2) (hW : Within 0x200000000000000000000000000000000060000000000000000000000000000000000020000000000000000000000000000000000000000000000000000000 W) (h₀ : Keeps W a₀ s₀) : Keeps W a₀ (State.broadcast s₀ p1 p2) := by
  unfold State.broadcast
  with_reducible (repeat' first | assumption | exact Within.trans (by decide) hW | exact Within.bit (by decide) hW | refine places_some ?_ | exact places_none | refine places_cons ?_ ?_ | refine places_pair ?_ ?_ | exact places_nil | refine places_reg ?_ ?_ | exact places_regs | intro _ | apply State.each_keeps | apply State.emit_keeps | apply State.count_keeps | apply Keeps.ite | simp only [List.foldl_cons, List.foldl_nil] | apply Keeps.foldl | apply Keeps.foldlFst | extract_lets | split)

theorem State.wakeEvent_keeps {W : Places} {a₀ s₀ : State} (p1 p2 p3) (hW : Within 0x2000000000000000000000000000000000000000000000000000000000000000008404 W) (h₀ : Keeps W a₀ s₀) : Keeps W a₀ (State.wakeEvent s₀ p1 p2 p3) := by
  unfold State.wakeEvent
  with_reducible (repeat' first | assumption | exact Within.trans (by decide) hW | exact Within.bit (by decide) hW | refine places_some ?_ | exact places_none | refine places_cons ?_ ?_ | refine places_pair ?_ ?_ | exact places_nil | refine places_reg ?_ ?_ | exact places_regs | intro _ | apply State.wake_keeps | apply State.coincide_keeps | apply Keeps.ite | simp only [List.foldl_cons, List.foldl_nil] | apply Keeps.foldl | apply Keeps.foldlFst | extract_lets | split)

theorem State.countLoop_keeps {W : Places} {a₀ s₀ : State} (p1 p2) (hW : Within 0x540000000000000000000000000000000000000000000000000000000000000000000 W) (h₀ : Keeps W a₀ s₀) : Keeps W a₀ (State.countLoop s₀ p1 p2) := by
  unfold State.countLoop
  with_reducible (repeat' first | assumption | exact Within.trans (by decide) hW | exact Within.bit (by decide) hW | refine places_some ?_ | exact places_none | refine places_cons ?_ ?_ | refine places_pair ?_ ?_ | exact places_nil | refine places_reg ?_ ?_ | exact places_regs | intro _ | apply State.setEvf_keeps | apply State.setMapBit_keeps | apply State.raiseC_keeps | apply State.set_keeps | apply Keeps.ite | simp only [List.foldl_cons, List.foldl_nil] | apply Keeps.foldl | apply Keeps.foldlFst | extract_lets | split)

theorem State.fireChannel_keeps {W : Places} {a₀ s₀ : State} (p1 p2 p3 p4) (hW : Within 0x200000000000000000000000000000000060000000000000000000302540000000000020000000000000000000000000000000000000000000000000008404 W) (h₀ : Keeps W a₀ s₀) : Keeps W a₀ (State.fireChannel s₀ p1 p2 p3 p4) := by
  unfold State.fireChannel
  with_reducible (repeat' first | assumption | exact Within.trans (by decide) hW | exact Within.bit (by decide) hW | refine places_some ?_ | exact places_none | refine places_cons ?_ ?_ | refine places_pair ?_ ?_ | exact places_nil | refine places_reg ?_ ?_ | exact places_regs | intro _ | apply State.countLoop_keeps | apply State.stamp_keeps | apply State.setEvf_keeps | apply State.count_keeps | apply State.fire_keeps | apply State.each_keeps | apply State.trigPulse_keeps | apply State.broadcast_keeps | apply State.wakeEvent_keeps | apply State.pulse_keeps | apply Keeps.ite | simp only [List.foldl_cons, List.foldl_nil] | apply Keeps.foldl | apply Keeps.foldlFst | extract_lets | split)

theorem State.merge_keeps {W : Places} {a₀ s₀ : State} (p1) (hW : Within 0x60000000000000000000200000000000000000000000000000000000000000000000000000000000000000000000 W) (h₀ : Keeps W a₀ s₀) : Keeps W a₀ (State.merge s₀ p1) := by
  unfold State.merge
  with_reducible (repeat' first | assumption | exact Within.trans (by decide) hW | exact Within.bit (by decide) hW | refine places_some ?_ | exact places_none | refine places_cons ?_ ?_ | refine places_pair ?_ ?_ | exact places_nil | refine places_reg ?_ ?_ | exact places_regs | intro _ | apply State.count_keeps | apply Keeps.ite | simp only [List.foldl_cons, List.foldl_nil] | apply Keeps.foldl | apply Keeps.foldlFst | extract_lets | split)

theorem State.arriveFree_keeps {W : Places} {a₀ s₀ : State} (p1 p2 p3) (hW : Within 0x200000000000000000000000000000000060000000000000000000302540000000000020000000000000000000000000000000000000000000000000008404 W) (h₀ : Keeps W a₀ s₀) : Keeps W a₀ (State.arriveFree s₀ p1 p2 p3) := by
  unfold State.arriveFree
  with_reducible (repeat' first | assumption | exact Within.trans (by decide) hW | exact Within.bit (by decide) hW | refine places_some ?_ | exact places_none | refine places_cons ?_ ?_ | refine places_pair ?_ ?_ | exact places_nil | refine places_reg ?_ ?_ | exact places_regs | intro _ | apply State.fireChannel_keeps | apply State.merge_keeps | apply State.setEvf_keeps | apply Keeps.ite | simp only [List.foldl_cons, List.foldl_nil] | apply Keeps.foldl | apply Keeps.foldlFst | extract_lets | split)

theorem State.arriveAt_keeps {W : Places} {a₀ s₀ : State} (p1 p2 p3) (hW : Within 0x200000000000000000000000000000000060000000000000000000302540000000000020000000000000000000000000000000000000000000000000008404 W) (h₀ : Keeps W a₀ s₀) : Keeps W a₀ (State.arriveAt s₀ p1 p2 p3) := by
  unfold State.arriveAt
  with_reducible (repeat' first | assumption | exact Within.trans (by decide) hW | exact Within.bit (by decide) hW | refine places_some ?_ | exact places_none | refine places_cons ?_ ?_ | refine places_pair ?_ ?_ | exact places_nil | refine places_reg ?_ ?_ | exact places_regs | intro _ | apply State.merge_keeps | apply State.setEvf_keeps | apply State.arriveFree_keeps | apply State.fireChannel_keeps | apply Keeps.ite | simp only [List.foldl_cons, List.foldl_nil] | apply Keeps.foldl | apply Keeps.foldlFst | extract_lets | split)

theorem execEventChannelFiring_keeps {W : Places} {a₀ s₀ : State} (p0 p1) (hW : Within 0x200000000000000000000000000000000060000000000000000000302540000000000020000000000000000000000000000000000000000000000000008404 W) (h₀ : Keeps W a₀ (s₀.elapse p0)) : KeepsOut W a₀ (execEventChannelFiring p0 p1 s₀) := by
  unfold execEventChannelFiring
  with_reducible (repeat' first | assumption | exact Within.trans (by decide) hW | exact Within.bit (by decide) hW | refine places_some ?_ | exact places_none | refine places_cons ?_ ?_ | refine places_pair ?_ ?_ | exact places_nil | refine places_reg ?_ ?_ | exact places_regs | intro _ | apply KeepsOut.next | apply KeepsOut.refused | apply KeepsOut.ite | apply State.setEvf_keeps | apply State.each_keeps | apply State.arriveAt_keeps | apply Keeps.ite | simp only [List.foldl_cons, List.foldl_nil] | apply Keeps.foldl | apply Keeps.foldlFst | extract_lets | split)

theorem execHeldFiringRelease_keeps {W : Places} {a₀ s₀ : State} (p0 p1) (hW : Within 0x200000000000000000000000000000000060000000000000000000302540000000000020000000000000000000000000000000000000000000000000008404 W) (h₀ : Keeps W a₀ (s₀.elapse p0)) : KeepsOut W a₀ (execHeldFiringRelease p0 p1 s₀) := by
  unfold execHeldFiringRelease
  with_reducible (repeat' first | assumption | exact Within.trans (by decide) hW | exact Within.bit (by decide) hW | refine places_some ?_ | exact places_none | refine places_cons ?_ ?_ | refine places_pair ?_ ?_ | exact places_nil | refine places_reg ?_ ?_ | exact places_regs | intro _ | apply KeepsOut.next | apply KeepsOut.refused | apply KeepsOut.ite | apply State.fireChannel_keeps | apply State.setEvf_keeps | apply Keeps.ite | simp only [List.foldl_cons, List.foldl_nil] | apply Keeps.foldl | apply Keeps.foldlFst | extract_lets | split)

theorem execBroadcastRelease_keeps {W : Places} {a₀ s₀ : State} (p0 p1) (hW : Within 0x200000000000000000000000000000000060000000000000000000302540000000000020000000000000000000000000000000000000000000000000008404 W) (h₀ : Keeps W a₀ (s₀.elapse p0)) : KeepsOut W a₀ (execBroadcastRelease p0 p1 s₀) := by
  unfold execBroadcastRelease
  with_reducible (repeat' first | assumption | exact Within.trans (by decide) hW | exact Within.bit (by decide) hW | refine places_some ?_ | exact places_none | refine places_cons ?_ ?_ | refine places_pair ?_ ?_ | exact places_nil | refine places_reg ?_ ?_ | exact places_regs | intro _ | apply KeepsOut.next | apply KeepsOut.refused | apply KeepsOut.ite | apply State.arriveAt_keeps | apply State.setEvf_keeps | apply Keeps.ite | simp only [List.foldl_cons, List.foldl_nil] | apply Keeps.foldl | apply Keeps.foldlFst | extract_lets | split)

theorem execTrigOutPulseEnd_keeps {W : Places} {a₀ s₀ : State} (p0 p1) (h₀ : Keeps W a₀ (s₀.elapse p0)) : KeepsOut W a₀ (execTrigOutPulseEnd p0 p1 s₀) := by
  unfold execTrigOutPulseEnd
  with_reducible (repeat' first | assumption | exact Within.trans (by decide) hW | exact Within.bit (by decide) hW | refine places_some ?_ | exact places_none | refine places_cons ?_ ?_ | refine places_pair ?_ ?_ | exact places_nil | refine places_reg ?_ ?_ | exact places_regs | intro _ | apply KeepsOut.next | apply KeepsOut.refused | apply KeepsOut.ite | apply State.showTrig_keeps | apply Keeps.ite | simp only [List.foldl_cons, List.foldl_nil] | apply Keeps.foldl | apply Keeps.foldlFst | extract_lets | split | apply Keeps.upd | apply Keeps.updOpen | apply Keeps.updBad)

theorem execTrigInEdge_keeps {W : Places} {a₀ s₀ : State} (p0 p1) (h₀ : Keeps W a₀ (s₀.elapse p0)) : KeepsOut W a₀ (execTrigInEdge p0 p1 s₀) := by
  unfold execTrigInEdge
  with_reducible (repeat' first | assumption | exact Within.trans (by decide) hW | exact Within.bit (by decide) hW | refine places_some ?_ | exact places_none | refine places_cons ?_ ?_ | refine places_pair ?_ ?_ | exact places_nil | refine places_reg ?_ ?_ | exact places_regs | intro _ | apply KeepsOut.next | apply KeepsOut.refused | apply KeepsOut.ite | apply State.fire_keeps | apply Keeps.ite | simp only [List.foldl_cons, List.foldl_nil] | apply Keeps.foldl | apply Keeps.foldlFst | extract_lets | split)

theorem State.swFire_keeps {W : Places} {a₀ s₀ : State} (p1) (h₀ : Keeps W a₀ s₀) : Keeps W a₀ (State.swFire s₀ p1) := by
  unfold State.swFire
  with_reducible (repeat' first | assumption | exact Within.trans (by decide) hW | exact Within.bit (by decide) hW | refine places_some ?_ | exact places_none | refine places_cons ?_ ?_ | refine places_pair ?_ ?_ | exact places_nil | refine places_reg ?_ ?_ | exact places_regs | intro _ | apply State.each_keeps | apply State.fire_keeps | apply Keeps.ite | simp only [List.foldl_cons, List.foldl_nil] | apply Keeps.foldl | apply Keeps.foldlFst | extract_lets | split)

theorem execEvfSwfire_keeps {W : Places} {a₀ s₀ : State} (p0 p1) (h₀ : Keeps W a₀ (s₀.elapse p0)) : KeepsOut W a₀ (execEvfSwfire p0 p1 s₀) := by
  unfold execEvfSwfire
  with_reducible (repeat' first | assumption | exact Within.trans (by decide) hW | exact Within.bit (by decide) hW | refine places_some ?_ | exact places_none | refine places_cons ?_ ?_ | refine places_pair ?_ ?_ | exact places_nil | refine places_reg ?_ ?_ | exact places_regs | intro _ | apply KeepsOut.next | apply KeepsOut.refused | apply KeepsOut.ite | apply State.swFire_keeps | apply Keeps.ite | simp only [List.foldl_cons, List.foldl_nil] | apply Keeps.foldl | apply Keeps.foldlFst | extract_lets | split)

theorem State.setTimer_keeps {W : Places} {a₀ s₀ : State} (p1 p2) (h₀ : Keeps W a₀ s₀) : Keeps W a₀ (State.setTimer s₀ p1 p2) := by
  unfold State.setTimer
  with_reducible (repeat' first | assumption | exact Within.trans (by decide) hW | exact Within.bit (by decide) hW | refine places_some ?_ | exact places_none | refine places_cons ?_ ?_ | refine places_pair ?_ ?_ | exact places_nil | refine places_reg ?_ ?_ | exact places_regs | intro _ | apply State.setEvf_keeps | apply Keeps.ite | simp only [List.foldl_cons, List.foldl_nil] | apply Keeps.foldl | apply Keeps.foldlFst | extract_lets | split)

theorem State.timerFire_keeps {W : Places} {a₀ s₀ : State} (p1) (hW : Within 0x60000000000000000000040000000000000000000000000000000000000000000000000000000000000000000000 W) (h₀ : Keeps W a₀ s₀) : Keeps W a₀ (State.timerFire s₀ p1) := by
  unfold State.timerFire
  with_reducible (repeat' first | assumption | exact Within.trans (by decide) hW | exact Within.bit (by decide) hW | refine places_some ?_ | exact places_none | refine places_cons ?_ ?_ | refine places_pair ?_ ?_ | exact places_nil | refine places_reg ?_ ?_ | exact places_regs | intro _ | apply State.fire_keeps | apply State.count_keeps | apply Keeps.ite | simp only [List.foldl_cons, List.foldl_nil] | apply Keeps.foldl | apply Keeps.foldlFst | extract_lets | split)

theorem State.writeTimer_keeps {W : Places} {a₀ s₀ : State} (p1 p2) (hW : Within 0x8000000000000000000000000000000000000000000000000000000000000000000000 W) (h₀ : Keeps W a₀ s₀) : Keeps W a₀ (State.writeTimer s₀ p1 p2) := by
  unfold State.writeTimer
  with_reducible (repeat' first | assumption | exact Within.trans (by decide) hW | exact Within.bit (by decide) hW | refine places_some ?_ | exact places_none | refine places_cons ?_ ?_ | refine places_pair ?_ ?_ | exact places_nil | refine places_reg ?_ ?_ | exact places_regs | intro _ | apply State.set_keeps | apply State.setTimer_keeps | apply Keeps.ite | simp only [List.foldl_cons, List.foldl_nil] | apply Keeps.foldl | apply Keeps.foldlFst | extract_lets | split)

theorem execEvfTimerCfgWrite_keeps {W : Places} {a₀ s₀ : State} (p0 p1 p2) (hW : Within 0x8000000000000000000000000000000000000000000000000000000000000000000000 W) (h₀ : Keeps W a₀ (s₀.elapse p0)) : KeepsOut W a₀ (execEvfTimerCfgWrite p0 p1 p2 s₀) := by
  unfold execEvfTimerCfgWrite
  with_reducible (repeat' first | assumption | exact Within.trans (by decide) hW | exact Within.bit (by decide) hW | refine places_some ?_ | exact places_none | refine places_cons ?_ ?_ | refine places_pair ?_ ?_ | exact places_nil | refine places_reg ?_ ?_ | exact places_regs | intro _ | apply KeepsOut.next | apply KeepsOut.refused | apply KeepsOut.ite | apply State.writeTimer_keeps | apply Keeps.ite | simp only [List.foldl_cons, List.foldl_nil] | apply Keeps.foldl | apply Keeps.foldlFst | extract_lets | split)

theorem execTimerExpiry_keeps {W : Places} {a₀ s₀ : State} (p0 p1) (hW : Within 0x60000000000000000000048000000000000000000000000000000000000000000000000000000000000000000000 W) (h₀ : Keeps W a₀ (s₀.elapse p0)) : KeepsOut W a₀ (execTimerExpiry p0 p1 s₀) := by
  unfold execTimerExpiry
  with_reducible (repeat' first | assumption | exact Within.trans (by decide) hW | exact Within.bit (by decide) hW | refine places_some ?_ | exact places_none | refine places_cons ?_ ?_ | refine places_pair ?_ ?_ | exact places_nil | refine places_reg ?_ ?_ | exact places_regs | intro _ | apply KeepsOut.next | apply KeepsOut.refused | apply KeepsOut.ite | apply State.timerFire_keeps | apply State.set_keeps | apply State.setTimer_keeps | apply Keeps.ite | simp only [List.foldl_cons, List.foldl_nil] | apply Keeps.foldl | apply Keeps.foldlFst | extract_lets | split)

theorem execTimerStartFiring_keeps {W : Places} {a₀ s₀ : State} (p0 p1) (hW : Within 0x60000000000000000000040000000000000000000000000000000000000000000000000000000000000000000000 W) (h₀ : Keeps W a₀ (s₀.elapse p0)) : KeepsOut W a₀ (execTimerStartFiring p0 p1 s₀) := by
  unfold execTimerStartFiring
  with_reducible (repeat' first | assumption | exact Within.trans (by decide) hW | exact Within.bit (by decide) hW | refine places_some ?_ | exact places_none | refine places_cons ?_ ?_ | refine places_pair ?_ ?_ | exact places_nil | refine places_reg ?_ ?_ | exact places_regs | intro _ | apply KeepsOut.next | apply KeepsOut.refused | apply KeepsOut.ite | apply State.set_keeps | apply State.setTimer_keeps | apply State.timerFire_keeps | apply Keeps.ite | simp only [List.foldl_cons, List.foldl_nil] | apply Keeps.foldl | apply Keeps.foldlFst | extract_lets | split)

end Sys2Proof.Machine
end

