-- ==== Sys2Proof/Laws/KeepLoader.lean ====
section
/-! SUPPORT. What the operations and the commands of Machine/Loader.lean keep (Laws/Keeps.lean). -/

set_option linter.unusedTactic false
set_option linter.unreachableTactic false
set_option linter.unusedVariables false
set_option linter.unusedSimpArgs false

namespace Sys2Proof.Machine

theorem State.cfgFail_keeps {W : Places} {a₀ s₀ : State} (p1 p2 p3 p4) (hW : Within 0x180000 W) (h₀ : Keeps W a₀ s₀) : Keeps W a₀ (State.cfgFail s₀ p1 p2 p3 p4) := by
  unfold State.cfgFail
  with_reducible (repeat' first | assumption | exact Within.trans (by decide) hW | exact Within.bit (by decide) hW | refine places_some ?_ | exact places_none | refine places_cons ?_ ?_ | refine places_pair ?_ ?_ | exact places_nil | refine places_reg ?_ ?_ | exact places_regs | intro _ | apply State.set_keeps | apply Keeps.ite | simp only [List.foldl_cons, List.foldl_nil] | apply Keeps.foldl | apply Keeps.foldlFst | extract_lets | split)

theorem State.clearFail_keeps {W : Places} {a₀ s₀ : State} (p1) (hW : Within 0x100000 W) (h₀ : Keeps W a₀ s₀) : Keeps W a₀ (State.clearFail s₀ p1) := by
  unfold State.clearFail
  with_reducible (repeat' first | assumption | exact Within.trans (by decide) hW | exact Within.bit (by decide) hW | refine places_some ?_ | exact places_none | refine places_cons ?_ ?_ | refine places_pair ?_ ?_ | exact places_nil | refine places_reg ?_ ?_ | exact places_regs | intro _ | apply State.clearFields_keeps | apply Keeps.ite | simp only [List.foldl_cons, List.foldl_nil] | apply Keeps.foldl | apply Keeps.foldlFst | extract_lets | split)

theorem State.failedLoad_keeps {W : Places} {a₀ s₀ : State} (hW : Within 0x2000000000000000000000000000000000778000000000000000000000000000000002000006240000401000002020081283c3420600800446012002088404 W) (h₀ : Keeps W a₀ s₀) : Keeps W a₀ (State.failedLoad s₀) := by
  unfold State.failedLoad
  with_reducible (repeat' first | assumption | exact Within.trans (by decide) hW | exact Within.bit (by decide) hW | refine places_some ?_ | exact places_none | refine places_cons ?_ ?_ | refine places_pair ?_ ?_ | exact places_nil | refine places_reg ?_ ?_ | exact places_regs | intro _ | apply State.raiseU_keeps | apply State.set_keeps | apply Keeps.ite | simp only [List.foldl_cons, List.foldl_nil] | apply Keeps.foldl | apply Keeps.foldlFst | extract_lets | split | apply Keeps.upd | apply Keeps.updOpen | apply Keeps.updBad)

theorem State.enterMode_keeps {W : Places} {a₀ s₀ : State} (p1) (hW : Within 0x200000000000000000000000000000000000000000000000000000000000000000000000000000000000000000000000000000000000000000000000000000 W) (h₀ : Keeps W a₀ s₀) : Keeps W a₀ (State.enterMode s₀ p1) := by
  unfold State.enterMode
  with_reducible (repeat' first | assumption | exact Within.trans (by decide) hW | exact Within.bit (by decide) hW | refine places_some ?_ | exact places_none | refine places_cons ?_ ?_ | refine places_pair ?_ ?_ | exact places_nil | refine places_reg ?_ ?_ | exact places_regs | intro _ | apply State.emit_keeps | apply Keeps.ite | simp only [List.foldl_cons, List.foldl_nil] | apply Keeps.foldl | apply Keeps.foldlFst | extract_lets | split)

theorem State.nextSource_keeps {W : Places} {a₀ s₀ : State} (hW : Within 0x2000000000000000000000000000000000778000000000000000000000000000000002000006240000401000002020081283c3420600800446012002088404 W) (h₀ : Keeps W a₀ s₀) : Keeps W a₀ (State.nextSource s₀) := by
  unfold State.nextSource
  with_reducible (repeat' first | assumption | exact Within.trans (by decide) hW | exact Within.bit (by decide) hW | refine places_some ?_ | exact places_none | refine places_cons ?_ ?_ | refine places_pair ?_ ?_ | exact places_nil | refine places_reg ?_ ?_ | exact places_regs | intro _ | apply State.enterMode_keeps | apply State.set_keeps | apply State.failedLoad_keeps | apply Keeps.ite | simp only [List.foldl_cons, List.foldl_nil] | apply Keeps.foldl | apply Keeps.foldlFst | extract_lets | split | apply Keeps.upd | apply Keeps.updOpen | apply Keeps.updBad)

theorem State.slotFail_keeps {W : Places} {a₀ s₀ : State} (p1 p2 p3) (hW : Within 0x2000000000000000000000000000000000778000000000000000000000000000000002000006240000401000002020081283c3420600800446012002188404 W) (h₀ : Keeps W a₀ s₀) : Keeps W a₀ (State.slotFail s₀ p1 p2 p3) := by
  unfold State.slotFail
  with_reducible (repeat' first | assumption | exact Within.trans (by decide) hW | exact Within.bit (by decide) hW | refine places_some ?_ | exact places_none | refine places_cons ?_ ?_ | refine places_pair ?_ ?_ | exact places_nil | refine places_reg ?_ ?_ | exact places_regs | intro _ | apply State.nextSource_keeps | apply State.cfgFail_keeps | apply Keeps.ite | simp only [List.foldl_cons, List.foldl_nil] | apply Keeps.foldl | apply Keeps.foldlFst | extract_lets | split)

theorem State.noSource_keeps {W : Places} {a₀ s₀ : State} (p1) (hW : Within 0x180000 W) (h₀ : Keeps W a₀ s₀) : Keeps W a₀ (State.noSource s₀ p1) := by
  unfold State.noSource
  with_reducible (repeat' first | assumption | exact Within.trans (by decide) hW | exact Within.bit (by decide) hW | refine places_some ?_ | exact places_none | refine places_cons ?_ ?_ | refine places_pair ?_ ?_ | exact places_nil | refine places_reg ?_ ?_ | exact places_regs | intro _ | apply State.cfgFail_keeps | apply Keeps.ite | simp only [List.foldl_cons, List.foldl_nil] | apply Keeps.foldl | apply Keeps.foldlFst | extract_lets | split)

theorem execLoadStart_keeps {W : Places} {a₀ s₀ : State} (p0 p1 p2) (hW : Within 0x2000000000000000000000000000000000778000000000000000000000000000000002000006240000401000002020081283c3420600800446012002188404 W) (h₀ : Keeps W a₀ (s₀.elapse p0)) : KeepsOut W a₀ (execLoadStart p0 p1 p2 s₀) := by
  unfold execLoadStart
  with_reducible (repeat' first | assumption | exact Within.trans (by decide) hW | exact Within.bit (by decide) hW | refine places_some ?_ | exact places_none | refine places_cons ?_ ?_ | refine places_pair ?_ ?_ | exact places_nil | refine places_reg ?_ ?_ | exact places_regs | intro _ | apply KeepsOut.next | apply KeepsOut.refused | apply KeepsOut.ite | apply State.set_keeps | apply State.failedLoad_keeps | apply State.noSource_keeps | apply State.emit_keeps | apply State.enterMode_keeps | apply State.nextSource_keeps | apply Keeps.ite | simp only [List.foldl_cons, List.foldl_nil] | apply Keeps.foldl | apply Keeps.foldlFst | extract_lets | split | apply Keeps.upd | apply Keeps.updOpen | apply Keeps.updBad)

theorem execSlotReadStart_keeps {W : Places} {a₀ s₀ : State} (p0 p1) (hW : Within 0x2000000000000000000000000000000000778000000000000000000000000000000002000006240000401000002020081283c3420600800446012002188404 W) (h₀ : Keeps W a₀ (s₀.elapse p0)) : KeepsOut W a₀ (execSlotReadStart p0 p1 s₀) := by
  unfold execSlotReadStart
  with_reducible (repeat' first | assumption | exact Within.trans (by decide) hW | exact Within.bit (by decide) hW | refine places_some ?_ | exact places_none | refine places_cons ?_ ?_ | refine places_pair ?_ ?_ | exact places_nil | refine places_reg ?_ ?_ | exact places_regs | intro _ | apply KeepsOut.next | apply KeepsOut.refused | apply KeepsOut.ite | apply State.emit_keeps | apply State.slotFail_keeps | apply Keeps.ite | simp only [List.foldl_cons, List.foldl_nil] | apply Keeps.foldl | apply Keeps.foldlFst | extract_lets | split | apply Keeps.upd | apply Keeps.updOpen | apply Keeps.updBad)

theorem execImageRecordArrival_keeps {W : Places} {a₀ s₀ : State} (p0 p1) (hW : Within 0x3000000000000000000000000000000000778000000000000000000000000000000002000006240000401000002020081283c3420600800446012002188404 W) (h₀ : Keeps W a₀ (s₀.elapse p0)) : KeepsOut W a₀ (execImageRecordArrival p0 p1 s₀) := by
  unfold execImageRecordArrival
  with_reducible (repeat' first | assumption | exact Within.trans (by decide) hW | exact Within.bit (by decide) hW | refine places_some ?_ | exact places_none | refine places_cons ?_ ?_ | refine places_pair ?_ ?_ | exact places_nil | refine places_reg ?_ ?_ | exact places_regs | intro _ | apply KeepsOut.next | apply KeepsOut.refused | apply KeepsOut.ite | apply State.slotFail_keeps | apply State.putBytes_keeps | apply Keeps.ite | simp only [List.foldl_cons, List.foldl_nil] | apply Keeps.foldl | apply Keeps.foldlFst | extract_lets | split | apply Keeps.upd | apply Keeps.updOpen | apply Keeps.updBad)

theorem execDramTrainingComplete_keeps {W : Places} {a₀ s₀ : State} (e ok) (hW : Within 0x3000000000000000000000000000000000778000000000004100000000000000000002000006240000401000002020081283c3420600800446012002188404 W) (h₀ : Keeps W a₀ (s₀.elapse e)) :
    KeepsOut W a₀ (execDramTrainingComplete e ok s₀) := by
  unfold execDramTrainingComplete
  extract_lets s b rates u v s1 s2 i
  have h : Keeps W a₀ s := h₀
  clear_value s
  split
  · split
    · have h1 : Keeps W a₀ s1 := Keeps.openDram (s := s) (Within.bit (by decide) hW) rfl rfl rfl rfl rfl rfl h
      clear_value s1
      have h2 : Keeps W a₀ s2 := State.each_keeps (fun u x hu => by with_reducible (repeat' first | assumption | exact Within.trans (by decide) hW | exact Within.bit (by decide) hW | refine places_some ?_ | exact places_none | refine places_cons ?_ ?_ | refine places_pair ?_ ?_ | exact places_nil | refine places_reg ?_ ?_ | exact places_regs | intro _ | apply KeepsOut.next | apply KeepsOut.refused | apply KeepsOut.ite | apply State.elapse_keeps | apply State.each_keeps | apply State.set_keeps | apply State.setOp_keeps | apply State.slotFail_keeps | apply Keeps.ite | simp only [List.foldl_cons, List.foldl_nil] | apply Keeps.foldl | apply Keeps.foldlFst | extract_lets | split | apply Keeps.upd | apply Keeps.updOpen | apply Keeps.updBad)) h1
      clear_value s2
      with_reducible (repeat' first | assumption | exact Within.trans (by decide) hW | exact Within.bit (by decide) hW | refine places_some ?_ | exact places_none | refine places_cons ?_ ?_ | refine places_pair ?_ ?_ | exact places_nil | refine places_reg ?_ ?_ | exact places_regs | intro _ | apply KeepsOut.next | apply KeepsOut.refused | apply KeepsOut.ite | apply State.elapse_keeps | apply State.each_keeps | apply State.set_keeps | apply State.setOp_keeps | apply State.slotFail_keeps | apply Keeps.ite | simp only [List.foldl_cons, List.foldl_nil] | apply Keeps.foldl | apply Keeps.foldlFst | extract_lets | split | apply Keeps.upd | apply Keeps.updOpen | apply Keeps.updBad)
    · with_reducible (repeat' first | assumption | exact Within.trans (by decide) hW | exact Within.bit (by decide) hW | refine places_some ?_ | exact places_none | refine places_cons ?_ ?_ | refine places_pair ?_ ?_ | exact places_nil | refine places_reg ?_ ?_ | exact places_regs | intro _ | apply KeepsOut.next | apply KeepsOut.refused | apply KeepsOut.ite | apply State.elapse_keeps | apply State.each_keeps | apply State.set_keeps | apply State.setOp_keeps | apply State.slotFail_keeps | apply Keeps.ite | simp only [List.foldl_cons, List.foldl_nil] | apply Keeps.foldl | apply Keeps.foldlFst | extract_lets | split | apply Keeps.upd | apply Keeps.updOpen | apply Keeps.updBad)
  · exact KeepsOut.next h

theorem execLastRecordRead_keeps {W : Places} {a₀ s₀ : State} (p0) (hW : Within 0x2000000000000000000000000000000000778000000000000000000000000000000002000006240000401000002020081283c3420600800446012002188404 W) (h₀ : Keeps W a₀ (s₀.elapse p0)) : KeepsOut W a₀ (execLastRecordRead p0 s₀) := by
  unfold execLastRecordRead
  with_reducible (repeat' first | assumption | exact Within.trans (by decide) hW | exact Within.bit (by decide) hW | refine places_some ?_ | exact places_none | refine places_cons ?_ ?_ | refine places_pair ?_ ?_ | exact places_nil | refine places_reg ?_ ?_ | exact places_regs | intro _ | apply KeepsOut.next | apply KeepsOut.refused | apply KeepsOut.ite | apply State.slotFail_keeps | apply State.set_keeps | apply Keeps.ite | simp only [List.foldl_cons, List.foldl_nil] | apply Keeps.foldl | apply Keeps.foldlFst | extract_lets | split | apply Keeps.upd | apply Keeps.updOpen | apply Keeps.updBad)

theorem execChecksComplete_keeps {W : Places} {a₀ s₀ : State} (p0) (hW : Within 0x2000000000000000000000000000000000778000000000000000000000000000000002000006240000401000002020081283c3420600800446012002188404 W) (h₀ : Keeps W a₀ (s₀.elapse p0)) : KeepsOut W a₀ (execChecksComplete p0 s₀) := by
  unfold execChecksComplete
  with_reducible (repeat' first | assumption | exact Within.trans (by decide) hW | exact Within.bit (by decide) hW | refine places_some ?_ | exact places_none | refine places_cons ?_ ?_ | refine places_pair ?_ ?_ | exact places_nil | refine places_reg ?_ ?_ | exact places_regs | intro _ | apply KeepsOut.next | apply KeepsOut.refused | apply KeepsOut.ite | apply State.slotFail_keeps | apply Keeps.ite | simp only [List.foldl_cons, List.foldl_nil] | apply Keeps.foldl | apply Keeps.foldlFst | extract_lets | split | apply Keeps.upd | apply Keeps.updOpen | apply Keeps.updBad)

theorem State.setWords_keeps {W : Places} {a₀ s₀ : State} (p1 p2 p3 p4 p5) (h1 : W (p1.id / 128) = true) (h₀ : Keeps W a₀ s₀) : Keeps W a₀ (State.setWords s₀ p1 p2 p3 p4 p5) := by
  unfold State.setWords
  with_reducible (repeat' first | assumption | exact Within.trans (by decide) hW | exact Within.bit (by decide) hW | refine places_some ?_ | exact places_none | refine places_cons ?_ ?_ | refine places_pair ?_ ?_ | exact places_nil | refine places_reg ?_ ?_ | exact places_regs | intro _ | apply State.each_keeps | apply State.set_keeps | apply Keeps.ite | simp only [List.foldl_cons, List.foldl_nil] | apply Keeps.foldl | apply Keeps.foldlFst | extract_lets | split)

theorem State.commitDevice_keeps {W : Places} {a₀ s₀ : State} (p1) (hW : Within 0x3000000000000000000000000000000000000000001800 W) (h₀ : Keeps W a₀ s₀) : Keeps W a₀ (State.commitDevice s₀ p1) := by
  unfold State.commitDevice
  with_reducible (repeat' first | assumption | exact Within.trans (by decide) hW | exact Within.bit (by decide) hW | refine places_some ?_ | exact places_none | refine places_cons ?_ ?_ | refine places_pair ?_ ?_ | exact places_nil | refine places_reg ?_ ?_ | exact places_regs | intro _ | apply State.set_keeps | apply State.umberTo_keeps | apply Keeps.ite | simp only [List.foldl_cons, List.foldl_nil] | apply Keeps.foldl | apply Keeps.foldlFst | extract_lets | split | apply Keeps.upd | apply Keeps.updOpen | apply Keeps.updBad)

theorem State.commitPins_keeps {W : Places} {a₀ s₀ : State} (p1) (hW : Within 0x6840000000000000000000 W) (h₀ : Keeps W a₀ s₀) : Keeps W a₀ (State.commitPins s₀ p1) := by
  unfold State.commitPins
  with_reducible (repeat' first | assumption | exact Within.trans (by decide) hW | exact Within.bit (by decide) hW | refine places_some ?_ | exact places_none | refine places_cons ?_ ?_ | refine places_pair ?_ ?_ | exact places_nil | refine places_reg ?_ ?_ | exact places_regs | intro _ | apply State.each_keeps | apply State.set_keeps | apply Keeps.ite | simp only [List.foldl_cons, List.foldl_nil] | apply Keeps.foldl | apply Keeps.foldlFst | extract_lets | split)

theorem State.commitSite_keeps {W : Places} {a₀ s₀ : State} (p1 p2 p3) (hW : Within 0x402800000000 W) (h₀ : Keeps W a₀ s₀) : Keeps W a₀ (State.commitSite s₀ p1 p2 p3) := by
  unfold State.commitSite
  with_reducible (repeat' first | assumption | exact Within.trans (by decide) hW | exact Within.bit (by decide) hW | refine places_some ?_ | exact places_none | refine places_cons ?_ ?_ | refine places_pair ?_ ?_ | exact places_nil | refine places_reg ?_ ?_ | exact places_regs | intro _ | apply State.set_keeps | apply Keeps.ite | simp only [List.foldl_cons, List.foldl_nil] | apply Keeps.foldl | apply Keeps.foldlFst | extract_lets | split)

theorem State.commitSlices_keeps {W : Places} {a₀ s₀ : State} (p1 p2 p3) (hW : Within 0x400001000000000 W) (h₀ : Keeps W a₀ s₀) : Keeps W a₀ (State.commitSlices s₀ p1 p2 p3) := by
  unfold State.commitSlices
  with_reducible (repeat' first | assumption | exact Within.trans (by decide) hW | exact Within.bit (by decide) hW | refine places_some ?_ | exact places_none | refine places_cons ?_ ?_ | refine places_pair ?_ ?_ | exact places_nil | refine places_reg ?_ ?_ | exact places_regs | intro _ | apply State.each_keeps | apply State.set_keeps | apply Keeps.ite | simp only [List.foldl_cons, List.foldl_nil] | apply Keeps.foldl | apply Keeps.foldlFst | extract_lets | split)

theorem State.commitSites_keeps {W : Places} {a₀ s₀ : State} (sm links) (hW : Within 0x400403e00000000 W) (h₀ : Keeps W a₀ s₀) :
    Keeps W a₀ (s₀.commitSites sm links) := by
  unfold State.commitSites
  extract_lets s1 s2 s3 s4
  have h1 : Keeps W a₀ s1 := by
    unfold s1
    with_reducible (repeat' first | assumption | exact Within.trans (by decide) hW | exact Within.bit (by decide) hW | refine places_some ?_ | exact places_none | refine places_cons ?_ ?_ | refine places_pair ?_ ?_ | exact places_nil | refine places_reg ?_ ?_ | exact places_regs | intro _ | apply State.clearRegs_keeps | apply State.each_keeps | apply State.set_keeps | apply State.setWords_keeps | apply State.commitSite_keeps | apply State.commitSlices_keeps | apply Keeps.ite | simp only [List.foldl_cons, List.foldl_nil] | apply Keeps.foldl | apply Keeps.foldlFst | extract_lets | split)
  clear_value s1
  have h2 : Keeps W a₀ s2 := by
    refine State.each_keeps (fun u q hu => ?_) h1
    by_cases hq : q % 2 = 0
    · rw [if_pos hq]
      with_reducible (repeat' first | assumption | exact Within.trans (by decide) hW | exact Within.bit (by decide) hW | refine places_some ?_ | exact places_none | refine places_cons ?_ ?_ | refine places_pair ?_ ?_ | exact places_nil | refine places_reg ?_ ?_ | exact places_regs | intro _ | apply State.clearRegs_keeps | apply State.each_keeps | apply State.set_keeps | apply State.setWords_keeps | apply State.commitSite_keeps | apply State.commitSlices_keeps | apply Keeps.ite | simp only [List.foldl_cons, List.foldl_nil] | apply Keeps.foldl | apply Keeps.foldlFst | extract_lets | split)
    · rw [if_neg hq]
      with_reducible (repeat' first | assumption | exact Within.trans (by decide) hW | exact Within.bit (by decide) hW | refine places_some ?_ | exact places_none | refine places_cons ?_ ?_ | refine places_pair ?_ ?_ | exact places_nil | refine places_reg ?_ ?_ | exact places_regs | intro _ | apply State.clearRegs_keeps | apply State.each_keeps | apply State.set_keeps | apply State.setWords_keeps | apply State.commitSite_keeps | apply State.commitSlices_keeps | apply Keeps.ite | simp only [List.foldl_cons, List.foldl_nil] | apply Keeps.foldl | apply Keeps.foldlFst | extract_lets | split)
  clear_value s2
  have h3 : Keeps W a₀ s3 := by
    unfold s3
    with_reducible (repeat' first | assumption | exact Within.trans (by decide) hW | exact Within.bit (by decide) hW | refine places_some ?_ | exact places_none | refine places_cons ?_ ?_ | refine places_pair ?_ ?_ | exact places_nil | refine places_reg ?_ ?_ | exact places_regs | intro _ | apply State.clearRegs_keeps | apply State.each_keeps | apply State.set_keeps | apply State.setWords_keeps | apply State.commitSite_keeps | apply State.commitSlices_keeps | apply Keeps.ite | simp only [List.foldl_cons, List.foldl_nil] | apply Keeps.foldl | apply Keeps.foldlFst | extract_lets | split)
  clear_value s3
  have h4 : Keeps W a₀ s4 := by
    unfold s4
    with_reducible (repeat' first | assumption | exact Within.trans (by decide) hW | exact Within.bit (by decide) hW | refine places_some ?_ | exact places_none | refine places_cons ?_ ?_ | refine places_pair ?_ ?_ | exact places_nil | refine places_reg ?_ ?_ | exact places_regs | intro _ | apply State.clearRegs_keeps | apply State.each_keeps | apply State.set_keeps | apply State.setWords_keeps | apply State.commitSite_keeps | apply State.commitSlices_keeps | apply Keeps.ite | simp only [List.foldl_cons, List.foldl_nil] | apply Keeps.foldl | apply Keeps.foldlFst | extract_lets | split)
  clear_value s4
  with_reducible (repeat' first | assumption | exact Within.trans (by decide) hW | exact Within.bit (by decide) hW | refine places_some ?_ | exact places_none | refine places_cons ?_ ?_ | refine places_pair ?_ ?_ | exact places_nil | refine places_reg ?_ ?_ | exact places_regs | intro _ | apply State.clearRegs_keeps | apply State.each_keeps | apply State.set_keeps | apply State.setWords_keeps | apply State.commitSite_keeps | apply State.commitSlices_keeps | apply Keeps.ite | simp only [List.foldl_cons, List.foldl_nil] | apply Keeps.foldl | apply Keeps.foldlFst | extract_lets | split)

theorem State.commitTiming_keeps {W : Places} {a₀ s₀ : State} (p1) (hW : Within 0x26000000000000000000 W) (h₀ : Keeps W a₀ s₀) : Keeps W a₀ (State.commitTiming s₀ p1) := by
  unfold State.commitTiming
  with_reducible (repeat' first | assumption | exact Within.trans (by decide) hW | exact Within.bit (by decide) hW | refine places_some ?_ | exact places_none | refine places_cons ?_ ?_ | refine places_pair ?_ ?_ | exact places_nil | refine places_reg ?_ ?_ | exact places_regs | intro _ | apply State.clearRegs_keeps | apply State.each_keeps | apply State.set_keeps | apply Keeps.ite | simp only [List.foldl_cons, List.foldl_nil] | apply Keeps.foldl | apply Keeps.foldlFst | extract_lets | split | apply Keeps.upd | apply Keeps.updOpen | apply Keeps.updBad)

theorem State.commitEvents_keeps {W : Places} {a₀ s₀ : State} (p1) (hW : Within 0x68fc40000000000000000000000000000000000000000000000000000000000000000000 W) (h₀ : Keeps W a₀ s₀) : Keeps W a₀ (State.commitEvents s₀ p1) := by
  unfold State.commitEvents
  with_reducible (repeat' first | assumption | exact Within.trans (by decide) hW | exact Within.bit (by decide) hW | refine places_some ?_ | exact places_none | refine places_cons ?_ ?_ | refine places_pair ?_ ?_ | exact places_nil | refine places_reg ?_ ?_ | exact places_regs | intro _ | apply State.clearRegs_keeps | apply State.each_keeps | apply State.set_keeps | apply State.setWords_keeps | apply Keeps.ite | simp only [List.foldl_cons, List.foldl_nil] | apply Keeps.foldl | apply Keeps.foldlFst | extract_lets | split | apply Keeps.upd | apply Keeps.updOpen | apply Keeps.updBad)

theorem State.commitIrqs_keeps {W : Places} {a₀ s₀ : State} (p1) (hW : Within 0x202000000000000000000000000000000000000000000000000000000000000000000000000 W) (h₀ : Keeps W a₀ s₀) : Keeps W a₀ (State.commitIrqs s₀ p1) := by
  unfold State.commitIrqs
  with_reducible (repeat' first | assumption | exact Within.trans (by decide) hW | exact Within.bit (by decide) hW | refine places_some ?_ | exact places_none | refine places_cons ?_ ?_ | refine places_pair ?_ ?_ | exact places_nil | refine places_reg ?_ ?_ | exact places_regs | intro _ | apply State.each_keeps | apply State.clearReg_keeps | apply State.set_keeps | apply Keeps.ite | simp only [List.foldl_cons, List.foldl_nil] | apply Keeps.foldl | apply Keeps.foldlFst | extract_lets | split | apply Keeps.upd | apply Keeps.updOpen | apply Keeps.updBad)

theorem State.commitMemory_keeps {W : Places} {a₀ s₀ : State} (p1) (hW : Within 0x10000000000000000000000000000000000000000000000010f000000000000000000000000000000000000000000200000000000000000000000000000000 W) (h₀ : Keeps W a₀ s₀) : Keeps W a₀ (State.commitMemory s₀ p1) := by
  unfold State.commitMemory
  with_reducible (repeat' first | assumption | exact Within.trans (by decide) hW | exact Within.bit (by decide) hW | refine places_some ?_ | exact places_none | refine places_cons ?_ ?_ | refine places_pair ?_ ?_ | exact places_nil | refine places_reg ?_ ?_ | exact places_regs | intro _ | apply State.set_keeps | apply State.each_keeps | apply State.loseBank_keeps | apply Keeps.ite | simp only [List.foldl_cons, List.foldl_nil] | apply Keeps.foldl | apply Keeps.foldlFst | extract_lets | split | apply Keeps.upd | apply Keeps.updOpen | apply Keeps.updBad)

theorem State.commitPrograms_keeps {W : Places} {a₀ s₀ : State} (rs : List ImageRecord) (hW : Within 0x100000000000000000000000000000000000000000000000000000000000000000000000000000000000000000000000000000000000000000000000000000 W) (h : Keeps W a₀ s₀) :
    Keeps W a₀ (s₀.commitPrograms rs) := by
  unfold State.commitPrograms
  extract_lets base hots s1 go
  refine Keeps.foldlFst (fun u r hu => ?_) (State.clearDram_keeps (Within.bit (by decide) hW) h)
  dsimp only
  split
  · with_reducible (repeat' first | assumption | exact Within.trans (by decide) hW | exact Within.bit (by decide) hW | refine places_some ?_ | exact places_none | refine places_cons ?_ ?_ | refine places_pair ?_ ?_ | exact places_nil | refine places_reg ?_ ?_ | exact places_regs | intro _ | apply State.clearDram_keeps | apply State.putBytes_keeps | apply Keeps.ite | simp only [List.foldl_cons, List.foldl_nil] | apply Keeps.foldl | apply Keeps.foldlFst | extract_lets | split)
  · with_reducible (repeat' first | assumption | exact Within.trans (by decide) hW | exact Within.bit (by decide) hW | refine places_some ?_ | exact places_none | refine places_cons ?_ ?_ | refine places_pair ?_ ?_ | exact places_nil | refine places_reg ?_ ?_ | exact places_regs | intro _ | apply State.clearDram_keeps | apply State.putBytes_keeps | apply Keeps.ite | simp only [List.foldl_cons, List.foldl_nil] | apply Keeps.foldl | apply Keeps.foldlFst | extract_lets | split)

theorem State.commitLinks_keeps {W : Places} {a₀ s₀ : State} (p1) (hW : Within 0x1040000000000000000000000000000000000000000000000000008 W) (h₀ : Keeps W a₀ s₀) : Keeps W a₀ (State.commitLinks s₀ p1) := by
  unfold State.commitLinks
  with_reducible (repeat' first | assumption | exact Within.trans (by decide) hW | exact Within.bit (by decide) hW | refine places_some ?_ | exact places_none | refine places_cons ?_ ?_ | refine places_pair ?_ ?_ | exact places_nil | refine places_reg ?_ ?_ | exact places_regs | intro _ | apply State.set_keeps | apply State.each_keeps | apply State.setPort_keeps | apply Keeps.ite | simp only [List.foldl_cons, List.foldl_nil] | apply Keeps.foldl | apply Keeps.foldlFst | extract_lets | split | apply Keeps.upd | apply Keeps.updOpen | apply Keeps.updBad)

theorem State.commitBus_keeps {W : Places} {a₀ s₀ : State} (b) (hW : Within 0x2fffe7b80000000000000000000000000000000002000000000000000000000 W) (h₀ : Keeps W a₀ s₀) : Keeps W a₀ (s₀.commitBus b) := by
  unfold State.commitBus
  extract_lets u i s1
  have h1 : Keeps W a₀ s1 := by
    unfold s1
    with_reducible apply Keeps.upd
    unfold u busRegs
    with_reducible (repeat' first | assumption | exact Within.trans (by decide) hW | exact Within.bit (by decide) hW | refine places_some ?_ | exact places_none | refine places_cons ?_ ?_ | refine places_pair ?_ ?_ | exact places_nil | refine places_reg ?_ ?_ | exact places_regs | intro _ | apply State.clearRegs_keeps | apply State.each_keeps | apply State.set_keeps | apply State.setBus_keeps | apply Keeps.ite | simp only [List.foldl_cons, List.foldl_nil] | apply Keeps.foldl | apply Keeps.foldlFst | extract_lets | split | apply Keeps.upd | apply Keeps.updOpen | apply Keeps.updBad)
  clear_value s1
  with_reducible refine State.each_keeps (fun s e hs => ?_) h1
  extract_lets o p t t1 t2
  split
  · exact hs
  · have h2 : Keeps W a₀ t := by
      unfold t
      with_reducible (repeat' first | assumption | exact Within.trans (by decide) hW | exact Within.bit (by decide) hW | refine places_some ?_ | exact places_none | refine places_cons ?_ ?_ | refine places_pair ?_ ?_ | exact places_nil | refine places_reg ?_ ?_ | exact places_regs | intro _ | apply State.clearRegs_keeps | apply State.each_keeps | apply State.set_keeps | apply State.setBus_keeps | apply Keeps.ite | simp only [List.foldl_cons, List.foldl_nil] | apply Keeps.foldl | apply Keeps.foldlFst | extract_lets | split | apply Keeps.upd | apply Keeps.updOpen | apply Keeps.updBad)
    clear_value t
    have h3 : Keeps W a₀ t1 := by
      unfold t1
      with_reducible (repeat' first | assumption | exact Within.trans (by decide) hW | exact Within.bit (by decide) hW | refine places_some ?_ | exact places_none | refine places_cons ?_ ?_ | refine places_pair ?_ ?_ | exact places_nil | refine places_reg ?_ ?_ | exact places_regs | intro _ | apply State.clearRegs_keeps | apply State.each_keeps | apply State.set_keeps | apply State.setBus_keeps | apply Keeps.ite | simp only [List.foldl_cons, List.foldl_nil] | apply Keeps.foldl | apply Keeps.foldlFst | extract_lets | split | apply Keeps.upd | apply Keeps.updOpen | apply Keeps.updBad)
    clear_value t1
    have h4 : Keeps W a₀ t2 := by
      unfold t2
      with_reducible (repeat' first | assumption | exact Within.trans (by decide) hW | exact Within.bit (by decide) hW | refine places_some ?_ | exact places_none | refine places_cons ?_ ?_ | refine places_pair ?_ ?_ | exact places_nil | refine places_reg ?_ ?_ | exact places_regs | intro _ | apply State.clearRegs_keeps | apply State.each_keeps | apply State.set_keeps | apply State.setBus_keeps | apply Keeps.ite | simp only [List.foldl_cons, List.foldl_nil] | apply Keeps.foldl | apply Keeps.foldlFst | extract_lets | split | apply Keeps.upd | apply Keeps.updOpen | apply Keeps.updBad)
    clear_value t2
    exact State.setBus_keeps _ _ h4

theorem State.commitCores_keeps {W : Places} {a₀ s₀ : State} (p1) (hW : Within 0x900400000000000000000000000000000100000000000000000200000000000000 W) (h₀ : Keeps W a₀ s₀) : Keeps W a₀ (State.commitCores s₀ p1) := by
  unfold State.commitCores
  with_reducible (repeat' first | assumption | exact Within.trans (by decide) hW | exact Within.bit (by decide) hW | refine places_some ?_ | exact places_none | refine places_cons ?_ ?_ | refine places_pair ?_ ?_ | exact places_nil | refine places_reg ?_ ?_ | exact places_regs | intro _ | apply State.set_keeps | apply State.each_keeps | apply Keeps.ite | simp only [List.foldl_cons, List.foldl_nil] | apply Keeps.foldl | apply Keeps.foldlFst | extract_lets | split | apply Keeps.upd | apply Keeps.updOpen | apply Keeps.updBad)

theorem State.commitPlans_keeps {W : Places} {a₀ s₀ : State} (hW : Within 0x1c000000000000000000000000000000000000000000000000000000000000000000 W) (h₀ : Keeps W a₀ s₀) : Keeps W a₀ (State.commitPlans s₀) := by
  unfold State.commitPlans
  with_reducible (repeat' first | assumption | exact Within.trans (by decide) hW | exact Within.bit (by decide) hW | refine places_some ?_ | exact places_none | refine places_cons ?_ ?_ | refine places_pair ?_ ?_ | exact places_nil | refine places_reg ?_ ?_ | exact places_regs | intro _ | apply State.clearRegs_keeps | apply State.each_keeps | apply State.set_keeps | apply Keeps.ite | simp only [List.foldl_cons, List.foldl_nil] | apply Keeps.foldl | apply Keeps.foldlFst | extract_lets | split | apply Keeps.upd | apply Keeps.updOpen | apply Keeps.updBad)

theorem State.commitIdentity_keeps {W : Places} {a₀ s₀ : State} (p1 p2) (hW : Within 0xe00000 W) (h₀ : Keeps W a₀ s₀) : Keeps W a₀ (State.commitIdentity s₀ p1 p2) := by
  unfold State.commitIdentity
  with_reducible (repeat' first | assumption | exact Within.trans (by decide) hW | exact Within.bit (by decide) hW | refine places_some ?_ | exact places_none | refine places_cons ?_ ?_ | refine places_pair ?_ ?_ | exact places_nil | refine places_reg ?_ ?_ | exact places_regs | intro _ | apply State.set_keeps | apply State.setWords_keeps | apply Keeps.ite | simp only [List.foldl_cons, List.foldl_nil] | apply Keeps.foldl | apply Keeps.foldlFst | extract_lets | split)

theorem State.applyImage_keeps {W : Places} {a₀ s₀ : State} (p1 p2) (hW : Within 0x10000000000000000000000000000000000000000000000010f20268fc5c9006fffe7b81040000003000000000000300000000006866000600403e00e01808 W) (h₀ : Keeps W a₀ s₀) : Keeps W a₀ (State.applyImage s₀ p1 p2) := by
  unfold State.applyImage
  with_reducible (repeat' first | assumption | exact Within.trans (by decide) hW | exact Within.bit (by decide) hW | refine places_some ?_ | exact places_none | refine places_cons ?_ ?_ | refine places_pair ?_ ?_ | exact places_nil | refine places_reg ?_ ?_ | exact places_regs | intro _ | apply State.commitLinks_keeps | apply State.commitPins_keeps | apply State.commitDevice_keeps | apply State.commitEvents_keeps | apply State.commitTiming_keeps | apply State.commitSites_keeps | apply State.commitBus_keeps | apply State.commitPrograms_keeps | apply State.commitMemory_keeps | apply State.commitIrqs_keeps | apply State.commitIdentity_keeps | apply State.commitPlans_keeps | apply State.commitCores_keeps | apply Keeps.ite | simp only [List.foldl_cons, List.foldl_nil] | apply Keeps.foldl | apply Keeps.foldlFst | extract_lets | split)

theorem State.commitResult_keeps {W : Places} {a₀ s₀ : State} (hW : Within 0x2180000 W) (h₀ : Keeps W a₀ s₀) : Keeps W a₀ (State.commitResult s₀) := by
  unfold State.commitResult
  with_reducible (repeat' first | assumption | exact Within.trans (by decide) hW | exact Within.bit (by decide) hW | refine places_some ?_ | exact places_none | refine places_cons ?_ ?_ | refine places_pair ?_ ?_ | exact places_nil | refine places_reg ?_ ?_ | exact places_regs | intro _ | apply State.clearFail_keeps | apply State.set_keeps | apply State.raiseC_keeps | apply Keeps.ite | simp only [List.foldl_cons, List.foldl_nil] | apply Keeps.foldl | apply Keeps.foldlFst | extract_lets | split | apply Keeps.upd | apply Keeps.updOpen | apply Keeps.updBad)

theorem execCommit_keeps {W : Places} {a₀ s₀ : State} (p0) (hW : Within 0x30000000000000000000000000000000006000000000000010f20268fc5c9006fffe7b81040624003040100000202308100000006e66800645413e02f8180c W) (h₀ : Keeps W a₀ (s₀.elapse p0)) : KeepsOut W a₀ (execCommit p0 s₀) := by
  unfold execCommit
  with_reducible (repeat' first | assumption | exact Within.trans (by decide) hW | exact Within.bit (by decide) hW | refine places_some ?_ | exact places_none | refine places_cons ?_ ?_ | refine places_pair ?_ ?_ | exact places_nil | refine places_reg ?_ ?_ | exact places_regs | intro _ | apply KeepsOut.next | apply KeepsOut.refused | apply KeepsOut.ite | apply State.commitResult_keeps | apply State.applyImage_keeps | apply State.fire_keeps | apply State.set_keeps | apply State.each_keeps | apply State.idleSlice_keeps | apply State.siteFault_keeps | apply Keeps.ite | simp only [List.foldl_cons, List.foldl_nil] | apply Keeps.foldl | apply Keeps.foldlFst | extract_lets | split)

theorem State.precheckFail_keeps {W : Places} {a₀ s₀ : State} (hW : Within 0x2080000 W) (h₀ : Keeps W a₀ s₀) : Keeps W a₀ (State.precheckFail s₀) := by
  unfold State.precheckFail
  with_reducible (repeat' first | assumption | exact Within.trans (by decide) hW | exact Within.bit (by decide) hW | refine places_some ?_ | exact places_none | refine places_cons ?_ ?_ | refine places_pair ?_ ?_ | exact places_nil | refine places_reg ?_ ?_ | exact places_regs | intro _ | apply State.set_keeps | apply State.raiseC_keeps | apply Keeps.ite | simp only [List.foldl_cons, List.foldl_nil] | apply Keeps.foldl | apply Keeps.foldlFst | extract_lets | split | apply Keeps.upd | apply Keeps.updOpen | apply Keeps.updBad)

theorem State.reload_keeps {W : Places} {a₀ s₀ : State} (p1) (hW : Within 0x2180000 W) (h₀ : Keeps W a₀ s₀) : Keeps W a₀ (State.reload s₀ p1) := by
  unfold State.reload
  with_reducible (repeat' first | assumption | exact Within.trans (by decide) hW | exact Within.bit (by decide) hW | refine places_some ?_ | exact places_none | refine places_cons ?_ ?_ | refine places_pair ?_ ?_ | exact places_nil | refine places_reg ?_ ?_ | exact places_regs | intro _ | apply State.set_keeps | apply State.precheckFail_keeps | apply State.cfgFail_keeps | apply Keeps.ite | simp only [List.foldl_cons, List.foldl_nil] | apply Keeps.foldl | apply Keeps.foldlFst | extract_lets | split | apply Keeps.upd | apply Keeps.updOpen | apply Keeps.updBad)

theorem execReload_keeps {W : Places} {a₀ s₀ : State} (p0 p1) (hW : Within 0x2180000 W) (h₀ : Keeps W a₀ (s₀.elapse p0)) : KeepsOut W a₀ (execReload p0 p1 s₀) := by
  unfold execReload
  with_reducible (repeat' first | assumption | exact Within.trans (by decide) hW | exact Within.bit (by decide) hW | refine places_some ?_ | exact places_none | refine places_cons ?_ ?_ | refine places_pair ?_ ?_ | exact places_nil | refine places_reg ?_ ?_ | exact places_regs | intro _ | apply KeepsOut.next | apply KeepsOut.refused | apply KeepsOut.ite | apply State.reload_keeps | apply Keeps.ite | simp only [List.foldl_cons, List.foldl_nil] | apply Keeps.foldl | apply Keeps.foldlFst | extract_lets | split)

theorem State.precheckAll_keeps {W : Places} {a : State} (d : BootDesc) (hW : Within 0x180000 W) (ns : List Nat) :
    ∀ (l : List (List Byte × List ImageRecord)) {s : State}, Keeps W a s → Keeps W a (s.precheckAll d ns l).1 := by
  induction ns with
  | nil => exact fun _ _ h => h
  | cons n ns ih =>
    intro l s h
    unfold State.precheckAll
    extract_lets len hdr rs p c
    clear_value c
    split
    · exact h
    split
    · exact State.clearFail_keeps _ (Within.trans (by decide) hW) h
    · exact ih _ (State.cfgFail_keeps _ _ _ _ (Within.trans (by decide) hW) h)

theorem execPrecheckComplete_keeps {W : Places} {a₀ s₀ : State} (p0 p1 p2 p3) (hW : Within 0x2180000 W) (h₀ : Keeps W a₀ (s₀.elapse p0)) : KeepsOut W a₀ (execPrecheckComplete p0 p1 p2 p3 s₀) := by
  unfold execPrecheckComplete
  with_reducible (repeat' first | assumption | exact Within.trans (by decide) hW | exact Within.bit (by decide) hW | refine places_some ?_ | exact places_none | refine places_cons ?_ ?_ | refine places_pair ?_ ?_ | exact places_nil | refine places_reg ?_ ?_ | exact places_regs | intro _ | apply KeepsOut.next | apply KeepsOut.refused | apply KeepsOut.ite | apply State.precheckFail_keeps | apply State.cfgFail_keeps | apply State.precheckAll_keeps | apply State.each_keeps | apply State.sendAbort_keeps | apply Keeps.ite | simp only [List.foldl_cons, List.foldl_nil] | apply Keeps.foldl | apply Keeps.foldlFst | extract_lets | split | apply Keeps.upd | apply Keeps.updOpen | apply Keeps.updBad)

theorem State.teardown_keeps {W : Places} {a₀ s₀ : State} (hW : Within 0x3000000000000000000000000000000000778020002000000400000000440000000002000006240000401000002020081283c3420600800447412000108404 W) (h₀ : Keeps W a₀ s₀) : Keeps W a₀ (State.teardown s₀) := by
  unfold State.teardown
  with_reducible (repeat' first | assumption | exact Within.trans (by decide) hW | exact Within.bit (by decide) hW | refine places_some ?_ | exact places_none | refine places_cons ?_ ?_ | refine places_pair ?_ ?_ | exact places_nil | refine places_reg ?_ ?_ | exact places_regs | intro _ | apply State.flushTaken_keeps | apply State.each_keeps | apply State.set_keeps | apply State.endUnits_keeps | apply State.clearRegs_keeps | apply Keeps.ite | simp only [List.foldl_cons, List.foldl_nil] | apply Keeps.foldl | apply Keeps.foldlFst | extract_lets | split | apply Keeps.upd | apply Keeps.updOpen | apply Keeps.updBad)

theorem State.reloadSource_keeps {W : Places} {a₀ s₀ : State} (hW : Within 0x2000000000000000000000000000000000778000000000000000000000000000000002000006240000401000002020081283c3420600800446012002088404 W) (h₀ : Keeps W a₀ s₀) : Keeps W a₀ (State.reloadSource s₀) := by
  unfold State.reloadSource
  with_reducible (repeat' first | assumption | exact Within.trans (by decide) hW | exact Within.bit (by decide) hW | refine places_some ?_ | exact places_none | refine places_cons ?_ ?_ | refine places_pair ?_ ?_ | exact places_nil | refine places_reg ?_ ?_ | exact places_regs | intro _ | apply State.nextSource_keeps | apply Keeps.ite | simp only [List.foldl_cons, List.foldl_nil] | apply Keeps.foldl | apply Keeps.foldlFst | extract_lets | split | apply Keeps.upd | apply Keeps.updOpen | apply Keeps.updBad)

theorem execReloadTeardown_keeps {W : Places} {a₀ s₀ : State} (p0) (hW : Within 0x3000000000000000000000000000000000778020002000000400000000440000000002000006240000401000002020081283c3420600800447412002188404 W) (h₀ : Keeps W a₀ (s₀.elapse p0)) : KeepsOut W a₀ (execReloadTeardown p0 s₀) := by
  unfold execReloadTeardown
  with_reducible (repeat' first | assumption | exact Within.trans (by decide) hW | exact Within.bit (by decide) hW | refine places_some ?_ | exact places_none | refine places_cons ?_ ?_ | refine places_pair ?_ ?_ | exact places_nil | refine places_reg ?_ ?_ | exact places_regs | intro _ | apply KeepsOut.next | apply KeepsOut.refused | apply KeepsOut.ite | apply State.reloadSource_keeps | apply State.teardown_keeps | apply Keeps.ite | simp only [List.foldl_cons, List.foldl_nil] | apply Keeps.foldl | apply Keeps.foldlFst | extract_lets | split)

theorem State.fuseCmd_keeps {W : Places} {a₀ s₀ : State} (p1) (hW : Within 0x80000000 W) (h₀ : Keeps W a₀ s₀) : Keeps W a₀ (State.fuseCmd s₀ p1) := by
  unfold State.fuseCmd
  with_reducible (repeat' first | assumption | exact Within.trans (by decide) hW | exact Within.bit (by decide) hW | refine places_some ?_ | exact places_none | refine places_cons ?_ ?_ | refine places_pair ?_ ?_ | exact places_nil | refine places_reg ?_ ?_ | exact places_regs | intro _ | apply State.set_keeps | apply Keeps.ite | simp only [List.foldl_cons, List.foldl_nil] | apply Keeps.foldl | apply Keeps.foldlFst | extract_lets | split | apply Keeps.upd | apply Keeps.updOpen | apply Keeps.updBad)

theorem execFuseProgramKeyHash_keeps {W : Places} {a₀ s₀ : State} (p0 p1) (hW : Within 0x80000000 W) (h₀ : Keeps W a₀ (s₀.elapse p0)) : KeepsOut W a₀ (execFuseProgramKeyHash p0 p1 s₀) := by
  unfold execFuseProgramKeyHash
  with_reducible (repeat' first | assumption | exact Within.trans (by decide) hW | exact Within.bit (by decide) hW | refine places_some ?_ | exact places_none | refine places_cons ?_ ?_ | refine places_pair ?_ ?_ | exact places_nil | refine places_reg ?_ ?_ | exact places_regs | intro _ | apply KeepsOut.next | apply KeepsOut.refused | apply KeepsOut.ite | apply State.fuseCmd_keeps | apply Keeps.ite | simp only [List.foldl_cons, List.foldl_nil] | apply Keeps.foldl | apply Keeps.foldlFst | extract_lets | split)

theorem execFuseRaiseSecver_keeps {W : Places} {a₀ s₀ : State} (p0 p1) (hW : Within 0x80000000 W) (h₀ : Keeps W a₀ (s₀.elapse p0)) : KeepsOut W a₀ (execFuseRaiseSecver p0 p1 s₀) := by
  unfold execFuseRaiseSecver
  with_reducible (repeat' first | assumption | exact Within.trans (by decide) hW | exact Within.bit (by decide) hW | refine places_some ?_ | exact places_none | refine places_cons ?_ ?_ | refine places_pair ?_ ?_ | exact places_nil | refine places_reg ?_ ?_ | exact places_regs | intro _ | apply KeepsOut.next | apply KeepsOut.refused | apply KeepsOut.ite | apply State.fuseCmd_keeps | apply Keeps.ite | simp only [List.foldl_cons, List.foldl_nil] | apply Keeps.foldl | apply Keeps.foldlFst | extract_lets | split)

theorem execFuseOpComplete_keeps {W : Places} {a₀ s₀ : State} (p0) (hW : Within 0x81000000 W) (h₀ : Keeps W a₀ (s₀.elapse p0)) : KeepsOut W a₀ (execFuseOpComplete p0 s₀) := by
  unfold execFuseOpComplete
  with_reducible (repeat' first | assumption | exact Within.trans (by decide) hW | exact Within.bit (by decide) hW | refine places_some ?_ | exact places_none | refine places_cons ?_ ?_ | refine places_pair ?_ ?_ | exact places_nil | refine places_reg ?_ ?_ | exact places_regs | intro _ | apply KeepsOut.next | apply KeepsOut.refused | apply KeepsOut.ite | apply State.set_keeps | apply Keeps.ite | simp only [List.foldl_cons, List.foldl_nil] | apply Keeps.foldl | apply Keeps.foldlFst | extract_lets | split | apply Keeps.upd | apply Keeps.updOpen | apply Keeps.updBad)

end Sys2Proof.Machine
end

