-- ==== Sys2Proof/Laws/KeepPlayer.lean ====
section
/-! SUPPORT. What the operations and the commands of Machine/Player.lean keep (Laws/Keeps.lean). -/

set_option linter.unusedTactic false
set_option linter.unreachableTactic false
set_option linter.unusedVariables false
set_option linter.unusedSimpArgs false

namespace Sys2Proof.Machine

theorem State.useSlots_keeps {W : Places} {a₀ s₀ : State} (p1 p2) (hW : Within 0x44000000000000 W) (h₀ : Keeps W a₀ s₀) : Keeps W a₀ (State.useSlots s₀ p1 p2) := by
  unfold State.useSlots
  with_reducible (repeat' first | assumption | exact Within.trans (by decide) hW | exact Within.bit (by decide) hW | refine places_some ?_ | exact places_none | refine places_cons ?_ ?_ | refine places_pair ?_ ?_ | exact places_nil | refine places_reg ?_ ?_ | exact places_regs | intro _ | apply State.set_keeps | apply Keeps.ite | simp only [List.foldl_cons, List.foldl_nil] | apply Keeps.foldl | apply Keeps.foldlFst | extract_lets | split)

theorem State.dropSegs_keeps {W : Places} {a₀ s₀ : State} (p1) (hW : Within 0x44000000000000 W) (h₀ : Keeps W a₀ s₀) : Keeps W a₀ (State.dropSegs s₀ p1) := by
  unfold State.dropSegs
  with_reducible (repeat' first | assumption | exact Within.trans (by decide) hW | exact Within.bit (by decide) hW | refine places_some ?_ | exact places_none | refine places_cons ?_ ?_ | refine places_pair ?_ ?_ | exact places_nil | refine places_reg ?_ ?_ | exact places_regs | intro _ | apply State.setSlice_keeps | apply State.freeSlots_keeps | apply Keeps.ite | simp only [List.foldl_cons, List.foldl_nil] | apply Keeps.foldl | apply Keeps.foldlFst | extract_lets | split | apply Keeps.upd | apply Keeps.updOpen | apply Keeps.updBad)

theorem State.widen_keeps {W : Places} {a₀ s₀ : State} (p1 p2) (hW : Within 0x2000000000000000000000000000000000778000000000000000000000000000000002000006240000401000002020081283c3420600800457012000008404 W) (h₀ : Keeps W a₀ s₀) : Keeps W a₀ (State.widen s₀ p1 p2) := by
  unfold State.widen
  with_reducible (repeat' first | assumption | exact Within.trans (by decide) hW | exact Within.bit (by decide) hW | refine places_some ?_ | exact places_none | refine places_cons ?_ ?_ | refine places_pair ?_ ?_ | exact places_nil | refine places_reg ?_ ?_ | exact places_regs | intro _ | apply State.faultSite_keeps | apply State.useSlots_keeps | apply State.setSlice_keeps | apply Keeps.ite | simp only [List.foldl_cons, List.foldl_nil] | apply Keeps.foldl | apply Keeps.foldlFst | extract_lets | split)

theorem State.seeAhead_keeps {W : Places} {a₀ s₀ : State} (p1) (hW : Within 0x40000000000000 W) (h₀ : Keeps W a₀ s₀) : Keeps W a₀ (State.seeAhead s₀ p1) := by
  unfold State.seeAhead
  with_reducible (repeat' first | assumption | exact Within.trans (by decide) hW | exact Within.bit (by decide) hW | refine places_some ?_ | exact places_none | refine places_cons ?_ ?_ | refine places_pair ?_ ?_ | exact places_nil | refine places_reg ?_ ?_ | exact places_regs | intro _ | apply State.set_keeps | apply Keeps.ite | simp only [List.foldl_cons, List.foldl_nil] | apply Keeps.foldl | apply Keeps.foldlFst | extract_lets | split)

theorem State.leaveGran_keeps {W : Places} {a₀ s₀ : State} (p1) (h₀ : Keeps W a₀ s₀) : Keeps W a₀ (State.leaveGran s₀ p1) := by
  unfold State.leaveGran
  with_reducible (repeat' first | assumption | exact Within.trans (by decide) hW | exact Within.bit (by decide) hW | refine places_some ?_ | exact places_none | refine places_cons ?_ ?_ | refine places_pair ?_ ?_ | exact places_nil | refine places_reg ?_ ?_ | exact places_regs | intro _ | apply Keeps.ite | simp only [List.foldl_cons, List.foldl_nil] | apply Keeps.foldl | apply Keeps.foldlFst | extract_lets | split | apply Keeps.upd | apply Keeps.updOpen | apply Keeps.updBad)

theorem State.setAlt_keeps {W : Places} {a₀ s₀ : State} (p1 p2) (hW : Within 0x2000400000000000000 W) (h₀ : Keeps W a₀ s₀) : Keeps W a₀ (State.setAlt s₀ p1 p2) := by
  unfold State.setAlt
  with_reducible (repeat' first | assumption | exact Within.trans (by decide) hW | exact Within.bit (by decide) hW | refine places_some ?_ | exact places_none | refine places_cons ?_ ?_ | refine places_pair ?_ ?_ | exact places_nil | refine places_reg ?_ ?_ | exact places_regs | intro _ | apply State.set_keeps | apply Keeps.ite | simp only [List.foldl_cons, List.foldl_nil] | apply Keeps.foldl | apply Keeps.foldlFst | extract_lets | split)

theorem State.stepSets_keeps {W : Places} {a₀ s₀ : State} (p1 p2 p3) (hW : Within 0x2000000000000000000 W) (h₀ : Keeps W a₀ s₀) : Keeps W a₀ (State.stepSets s₀ p1 p2 p3) := by
  unfold State.stepSets
  with_reducible (repeat' first | assumption | exact Within.trans (by decide) hW | exact Within.bit (by decide) hW | refine places_some ?_ | exact places_none | refine places_cons ?_ ?_ | refine places_pair ?_ ?_ | exact places_nil | refine places_reg ?_ ?_ | exact places_regs | intro _ | apply State.set_keeps | apply State.setSlice_keeps | apply Keeps.ite | simp only [List.foldl_cons, List.foldl_nil] | apply Keeps.foldl | apply Keeps.foldlFst | extract_lets | split)

theorem State.queuedSets_keeps {W : Places} {a₀ s₀ : State} (p1 p2) (hW : Within 0x2000000000000000000 W) (h₀ : Keeps W a₀ s₀) : Keeps W a₀ (State.queuedSets s₀ p1 p2) := by
  unfold State.queuedSets
  with_reducible (repeat' first | assumption | exact Within.trans (by decide) hW | exact Within.bit (by decide) hW | refine places_some ?_ | exact places_none | refine places_cons ?_ ?_ | refine places_pair ?_ ?_ | exact places_nil | refine places_reg ?_ ?_ | exact places_regs | intro _ | apply State.stepSets_keeps | apply State.setSlice_keeps | apply Keeps.ite | simp only [List.foldl_cons, List.foldl_nil] | apply Keeps.foldl | apply Keeps.foldlFst | extract_lets | split)

theorem State.descSets_keeps {W : Places} {a₀ s₀ : State} (p1 p2) (hW : Within 0x12000000000000000000 W) (h₀ : Keeps W a₀ s₀) : Keeps W a₀ (State.descSets s₀ p1 p2) := by
  unfold State.descSets
  with_reducible (repeat' first | assumption | exact Within.trans (by decide) hW | exact Within.bit (by decide) hW | refine places_some ?_ | exact places_none | refine places_cons ?_ ?_ | refine places_pair ?_ ?_ | exact places_nil | refine places_reg ?_ ?_ | exact places_regs | intro _ | apply State.set_keeps | apply Keeps.ite | simp only [List.foldl_cons, List.foldl_nil] | apply Keeps.foldl | apply Keeps.foldlFst | extract_lets | split)

theorem State.dropCmp_keeps {W : Places} {a₀ s₀ : State} (p1) (hW : Within 0x60000000000000000000000000000000000000000000000000000000000000000000000600800000000000000000 W) (h₀ : Keeps W a₀ s₀) : Keeps W a₀ (State.dropCmp s₀ p1) := by
  unfold State.dropCmp
  with_reducible (repeat' first | assumption | exact Within.trans (by decide) hW | exact Within.bit (by decide) hW | refine places_some ?_ | exact places_none | refine places_cons ?_ ?_ | refine places_pair ?_ ?_ | exact places_nil | refine places_reg ?_ ?_ | exact places_regs | intro _ | apply State.raiseC_keeps | apply State.set_keeps | apply State.count_keeps | apply Keeps.ite | simp only [List.foldl_cons, List.foldl_nil] | apply Keeps.foldl | apply Keeps.foldlFst | extract_lets | split)

theorem State.placeCmp_keeps {W : Places} {a₀ s₀ : State} (p1 p2) (hW : Within 0x60000000000000000000000000000000000000000000000000000000000000000000000600800000000000000000 W) (h₀ : Keeps W a₀ s₀) : Keeps W a₀ (State.placeCmp s₀ p1 p2) := by
  unfold State.placeCmp
  with_reducible (repeat' first | assumption | exact Within.trans (by decide) hW | exact Within.bit (by decide) hW | refine places_some ?_ | exact places_none | refine places_cons ?_ ?_ | refine places_pair ?_ ?_ | exact places_nil | refine places_reg ?_ ?_ | exact places_regs | intro _ | apply State.dropCmp_keeps | apply State.setChan_keeps | apply Keeps.ite | simp only [List.foldl_cons, List.foldl_nil] | apply Keeps.foldl | apply Keeps.foldlFst | extract_lets | split)

theorem State.placeChan_keeps {W : Places} {a₀ s₀ : State} (p1 p2 p3 p4 p5) (hW : Within 0x2000000000000000000000000000000000778000000000000000000000000000000002000006240000401000002020081283c3420600800447012000008404 W) (h₀ : Keeps W a₀ s₀) : Keeps W a₀ (State.placeChan s₀ p1 p2 p3 p4 p5) := by
  unfold State.placeChan
  with_reducible (repeat' first | assumption | exact Within.trans (by decide) hW | exact Within.bit (by decide) hW | refine places_some ?_ | exact places_none | refine places_cons ?_ ?_ | refine places_pair ?_ ?_ | exact places_nil | refine places_reg ?_ ?_ | exact places_regs | intro _ | apply State.faultSite_keeps | apply State.setChan_keeps | apply State.each_keeps | apply State.placeCmp_keeps | apply Keeps.ite | simp only [List.foldl_cons, List.foldl_nil] | apply Keeps.foldl | apply Keeps.foldlFst | extract_lets | split)

theorem State.offsRange_keeps {W : Places} {a₀ s₀ : State} (p1) (hW : Within 0x200800000000000000000 W) (h₀ : Keeps W a₀ s₀) : Keeps W a₀ (State.offsRange s₀ p1) := by
  unfold State.offsRange
  with_reducible (repeat' first | assumption | exact Within.trans (by decide) hW | exact Within.bit (by decide) hW | refine places_some ?_ | exact places_none | refine places_cons ?_ ?_ | refine places_pair ?_ ?_ | exact places_nil | refine places_reg ?_ ?_ | exact places_regs | intro _ | apply State.raiseC_keeps | apply State.set_keeps | apply Keeps.ite | simp only [List.foldl_cons, List.foldl_nil] | apply Keeps.foldl | apply Keeps.foldlFst | extract_lets | split)

theorem State.rangeCheck_keeps {W : Places} {a₀ s₀ : State} (p1 p2 p3) (hW : Within 0x200800000000000000000 W) (h₀ : Keeps W a₀ s₀) : Keeps W a₀ (State.rangeCheck s₀ p1 p2 p3) := by
  unfold State.rangeCheck
  with_reducible (repeat' first | assumption | exact Within.trans (by decide) hW | exact Within.bit (by decide) hW | refine places_some ?_ | exact places_none | refine places_cons ?_ ?_ | refine places_pair ?_ ?_ | exact places_nil | refine places_reg ?_ ?_ | exact places_regs | intro _ | apply State.offsRange_keeps | apply State.setChan_keeps | apply Keeps.ite | simp only [List.foldl_cons, List.foldl_nil] | apply Keeps.foldl | apply Keeps.foldlFst | extract_lets | split)

theorem State.placeVector_keeps {W : Places} {a₀ s₀ : State} (p1 p2) (hW : Within 0x2000000000000000000000000000000000778000000000000000000000000000000002000006240000401000002020081283c3420600800447012000008404 W) (h₀ : Keeps W a₀ s₀) : Keeps W a₀ (State.placeVector s₀ p1 p2) := by
  unfold State.placeVector
  with_reducible (repeat' first | assumption | exact Within.trans (by decide) hW | exact Within.bit (by decide) hW | refine places_some ?_ | exact places_none | refine places_cons ?_ ?_ | refine places_pair ?_ ?_ | exact places_nil | refine places_reg ?_ ?_ | exact places_regs | intro _ | apply State.each_keeps | apply State.placeChan_keeps | apply Keeps.ite | simp only [List.foldl_cons, List.foldl_nil] | apply Keeps.foldl | apply Keeps.foldlFst | extract_lets | split)

theorem State.foldCtrl_keeps {W : Places} {a₀ s₀ : State} (p1 p2) (hW : Within 0x40000000000000000 W) (h₀ : Keeps W a₀ s₀) : Keeps W a₀ (State.foldCtrl s₀ p1 p2) := by
  unfold State.foldCtrl
  with_reducible (repeat' first | assumption | exact Within.trans (by decide) hW | exact Within.bit (by decide) hW | refine places_some ?_ | exact places_none | refine places_cons ?_ ?_ | refine places_pair ?_ ?_ | exact places_nil | refine places_reg ?_ ?_ | exact places_regs | intro _ | apply State.set_keeps | apply Keeps.ite | simp only [List.foldl_cons, List.foldl_nil] | apply Keeps.foldl | apply Keeps.foldlFst | extract_lets | split)

theorem State.takeMask_keeps {W : Places} {a₀ s₀ : State} (p1 p2) (hW : Within 0x20000000000000000000000 W) (h₀ : Keeps W a₀ s₀) : Keeps W a₀ (State.takeMask s₀ p1 p2) := by
  unfold State.takeMask
  with_reducible (repeat' first | assumption | exact Within.trans (by decide) hW | exact Within.bit (by decide) hW | refine places_some ?_ | exact places_none | refine places_cons ?_ ?_ | refine places_pair ?_ ?_ | exact places_nil | refine places_reg ?_ ?_ | exact places_regs | intro _ | apply State.forceMask_keeps | apply Keeps.ite | simp only [List.foldl_cons, List.foldl_nil] | apply Keeps.foldl | apply Keeps.foldlFst | extract_lets | split)

theorem State.beginSegment_keeps {W : Places} {a₀ s₀ : State} (p1 p2) (hW : Within 0x12040400000000000000 W) (h₀ : Keeps W a₀ s₀) : Keeps W a₀ (State.beginSegment s₀ p1 p2) := by
  unfold State.beginSegment
  with_reducible (repeat' first | assumption | exact Within.trans (by decide) hW | exact Within.bit (by decide) hW | refine places_some ?_ | exact places_none | refine places_cons ?_ ?_ | refine places_pair ?_ ?_ | exact places_nil | refine places_reg ?_ ?_ | exact places_regs | intro _ | apply State.set_keeps | apply State.descSets_keeps | apply State.queuedSets_keeps | apply State.setAlt_keeps | apply State.setSlice_keeps | apply Keeps.ite | simp only [List.foldl_cons, List.foldl_nil] | apply Keeps.foldl | apply Keeps.foldlFst | extract_lets | split)

theorem State.latchPeriod_keeps {W : Places} {a₀ s₀ : State} (p1 p2) (hW : Within 0x2000000000000000000000000000000000778000000000000000000000000000000002000006240000401000002020081283c3420600800447012000008404 W) (h₀ : Keeps W a₀ s₀) : Keeps W a₀ (State.latchPeriod s₀ p1 p2) := by
  unfold State.latchPeriod
  with_reducible (repeat' first | assumption | exact Within.trans (by decide) hW | exact Within.bit (by decide) hW | refine places_some ?_ | exact places_none | refine places_cons ?_ ?_ | refine places_pair ?_ ?_ | exact places_nil | refine places_reg ?_ ?_ | exact places_regs | intro _ | apply State.setSlice_keeps | apply State.set_keeps | apply State.faultSite_keeps | apply State.drew_keeps | apply Keeps.ite | simp only [List.foldl_cons, List.foldl_nil] | apply Keeps.foldl | apply Keeps.foldlFst | extract_lets | split)

theorem State.beginGranule_keeps {W : Places} {a₀ s₀ : State} (p1 p2 p3) (hW : Within 0x2000000000000000000000000000000000778000000000000000000000000000000002000006240000401000002020081283c3420604800447012000008404 W) (h₀ : Keeps W a₀ s₀) : Keeps W a₀ (State.beginGranule s₀ p1 p2 p3) := by
  unfold State.beginGranule
  with_reducible (repeat' first | assumption | exact Within.trans (by decide) hW | exact Within.bit (by decide) hW | refine places_some ?_ | exact places_none | refine places_cons ?_ ?_ | refine places_pair ?_ ?_ | exact places_nil | refine places_reg ?_ ?_ | exact places_regs | intro _ | apply State.latchPeriod_keeps | apply State.each_keeps | apply State.takeMask_keeps | apply State.set_keeps | apply State.setSlice_keeps | apply State.seeAhead_keeps | apply Keeps.ite | simp only [List.foldl_cons, List.foldl_nil] | apply Keeps.foldl | apply Keeps.foldlFst | extract_lets | split)

theorem State.openVerdict_keeps {W : Places} {a₀ s₀ : State} (p1 p2) (h₀ : Keeps W a₀ s₀) : Keeps W a₀ (State.openVerdict s₀ p1 p2) := by
  unfold State.openVerdict
  with_reducible (repeat' first | assumption | exact Within.trans (by decide) hW | exact Within.bit (by decide) hW | refine places_some ?_ | exact places_none | refine places_cons ?_ ?_ | refine places_pair ?_ ?_ | exact places_nil | refine places_reg ?_ ?_ | exact places_regs | intro _ | apply State.setSlice_keeps | apply Keeps.ite | simp only [List.foldl_cons, List.foldl_nil] | apply Keeps.foldl | apply Keeps.foldlFst | extract_lets | split)

theorem State.cycle_keeps {W : Places} {a₀ s₀ : State} (p1) (hW : Within 0x2000000000000000000000000000000000778000000000000000000000000000000002000006240000401000002020081283c3420608801c47012000008404 W) (h₀ : Keeps W a₀ s₀) : Keeps W a₀ (State.cycle s₀ p1) := by
  unfold State.cycle
  with_reducible (repeat' first | assumption | exact Within.trans (by decide) hW | exact Within.bit (by decide) hW | refine places_some ?_ | exact places_none | refine places_cons ?_ ?_ | refine places_pair ?_ ?_ | exact places_nil | refine places_reg ?_ ?_ | exact places_regs | intro _ | apply State.openVerdict_keeps | apply State.placeVector_keeps | apply State.each_keeps | apply State.rangeCheck_keeps | apply State.setSlice_keeps | apply State.set_keeps | apply State.count_keeps | apply Keeps.ite | simp only [List.foldl_cons, List.foldl_nil] | apply Keeps.foldl | apply Keeps.foldlFst | extract_lets | split)

theorem State.setUndef_keeps {W : Places} {a₀ s₀ : State} (p1 p2) (hW : Within 0x2000000000000000000000000000000000778000000000000000000000000000000002000006240000401000002020081283c3420618800447012000008404 W) (h₀ : Keeps W a₀ s₀) : Keeps W a₀ (State.setUndef s₀ p1 p2) := by
  unfold State.setUndef
  with_reducible (repeat' first | assumption | exact Within.trans (by decide) hW | exact Within.bit (by decide) hW | refine places_some ?_ | exact places_none | refine places_cons ?_ ?_ | refine places_pair ?_ ?_ | exact places_nil | refine places_reg ?_ ?_ | exact places_regs | intro _ | apply State.siteFault_keeps | apply State.each_keeps | apply State.raiseU_keeps | apply State.set_keeps | apply State.emptySlice_keeps | apply State.stopSlice_keeps | apply Keeps.ite | simp only [List.foldl_cons, List.foldl_nil] | apply Keeps.foldl | apply Keeps.foldlFst | extract_lets | split)

theorem State.waveRead_keeps {W : Places} {a₀ s₀ : State} (p1) (hW : Within 0x800000000000000000 W) (h₀ : Keeps W a₀ s₀) : Keeps W a₀ (State.waveRead s₀ p1) := by
  unfold State.waveRead
  with_reducible (repeat' first | assumption | exact Within.trans (by decide) hW | exact Within.bit (by decide) hW | refine places_some ?_ | exact places_none | refine places_cons ?_ ?_ | refine places_pair ?_ ?_ | exact places_nil | refine places_reg ?_ ?_ | exact places_regs | intro _ | apply State.raiseC_keeps | apply Keeps.ite | simp only [List.foldl_cons, List.foldl_nil] | apply Keeps.foldl | apply Keeps.foldlFst | extract_lets | split | apply Keeps.upd | apply Keeps.updOpen | apply Keeps.updBad)

theorem State.vectorReads_keeps {W : Places} {a₀ s₀ : State} (p1 p2) (hW : Within 0x2000000000000000000000000000000000778000000000000000000000000000000002000006240000401000002020081283c34206008004c6012000008404 W) (h₀ : Keeps W a₀ s₀) : Keeps W a₀ (State.vectorReads s₀ p1 p2) := by
  unfold State.vectorReads
  with_reducible (repeat' first | assumption | exact Within.trans (by decide) hW | exact Within.bit (by decide) hW | refine places_some ?_ | exact places_none | refine places_cons ?_ ?_ | refine places_pair ?_ ?_ | exact places_nil | refine places_reg ?_ ?_ | exact places_regs | intro _ | apply State.waveRead_keeps | apply State.raiseC_keeps | apply State.raiseF_keeps | apply Keeps.ite | simp only [List.foldl_cons, List.foldl_nil] | apply Keeps.foldl | apply Keeps.foldlFst | extract_lets | split)

theorem State.playVector_keeps {W : Places} {a₀ s₀ : State} (p1 p2 p3) (hW : Within 0x2000000000000000000000000000000000778000000000000000000000000000000002000006240000401000002020081283c342061e841cc7012000008404 W) (hf : ∀ u, Keeps W a₀ u → Keeps W a₀ (p3 u)) (h₀ : Keeps W a₀ s₀) : Keeps W a₀ (State.playVector s₀ p1 p2 p3) := by
  unfold State.playVector
  with_reducible (repeat' first | assumption | exact Within.trans (by decide) hW | exact Within.bit (by decide) hW | refine places_some ?_ | exact places_none | refine places_cons ?_ ?_ | refine places_pair ?_ ?_ | exact places_nil | refine places_reg ?_ ?_ | exact places_regs | intro _ | apply State.vectorReads_keeps | apply State.beginSegment_keeps | apply State.setUndef_keeps | apply State.beginGranule_keeps | apply State.setAlt_keeps | apply State.foldCtrl_keeps | apply State.fire_keeps | apply State.cycle_keeps | apply hf | apply Keeps.ite | simp only [List.foldl_cons, List.foldl_nil] | apply Keeps.foldl | apply Keeps.foldlFst | extract_lets | split)

theorem State.reportCrc_keeps {W : Places} {a₀ s₀ : State} (p1) (h₀ : Keeps W a₀ s₀) : Keeps W a₀ (State.reportCrc s₀ p1) := by
  unfold State.reportCrc
  with_reducible (repeat' first | assumption | exact Within.trans (by decide) hW | exact Within.bit (by decide) hW | refine places_some ?_ | exact places_none | refine places_cons ?_ ?_ | refine places_pair ?_ ?_ | exact places_nil | refine places_reg ?_ ?_ | exact places_regs | intro _ | apply State.setSlice_keeps | apply State.setSite_keeps | apply Keeps.ite | simp only [List.foldl_cons, List.foldl_nil] | apply Keeps.foldl | apply Keeps.foldlFst | extract_lets | split)

theorem State.goSegment_keeps {W : Places} {a₀ s₀ : State} (p1 p2) (hW : Within 0x2000000000000000000000000000000000778000000000000000000000000000000002000006240000401000002020081283c3420600800457012000008404 W) (h₀ : Keeps W a₀ s₀) : Keeps W a₀ (State.goSegment s₀ p1 p2) := by
  unfold State.goSegment
  with_reducible (repeat' first | assumption | exact Within.trans (by decide) hW | exact Within.bit (by decide) hW | refine places_some ?_ | exact places_none | refine places_cons ?_ ?_ | refine places_pair ?_ ?_ | exact places_nil | refine places_reg ?_ ?_ | exact places_regs | intro _ | apply State.setSlice_keeps | apply State.dropSegs_keeps | apply State.widen_keeps | apply State.set_keeps | apply Keeps.ite | simp only [List.foldl_cons, List.foldl_nil] | apply Keeps.foldl | apply Keeps.foldlFst | extract_lets | split)

theorem State.endSegment_keeps {W : Places} {a₀ s₀ : State} (p1) (hW : Within 0x2000000000000000000000000000000000778000000000000000000000000000000002000006240000401000002020081283c3420600800457012000008404 W) (h₀ : Keeps W a₀ s₀) : Keeps W a₀ (State.endSegment s₀ p1) := by
  unfold State.endSegment
  with_reducible (repeat' first | assumption | exact Within.trans (by decide) hW | exact Within.bit (by decide) hW | refine places_some ?_ | exact places_none | refine places_cons ?_ ?_ | refine places_pair ?_ ?_ | exact places_nil | refine places_reg ?_ ?_ | exact places_regs | intro _ | apply State.reportCrc_keeps | apply State.goSegment_keeps | apply State.setSlice_keeps | apply Keeps.ite | simp only [List.foldl_cons, List.foldl_nil] | apply Keeps.foldl | apply Keeps.foldlFst | extract_lets | split)

theorem State.goGranule_keeps {W : Places} {a₀ s₀ : State} (p1 p2) (h₀ : Keeps W a₀ s₀) : Keeps W a₀ (State.goGranule s₀ p1 p2) := by
  unfold State.goGranule
  with_reducible (repeat' first | assumption | exact Within.trans (by decide) hW | exact Within.bit (by decide) hW | refine places_some ?_ | exact places_none | refine places_cons ?_ ?_ | refine places_pair ?_ ?_ | exact places_nil | refine places_reg ?_ ?_ | exact places_regs | intro _ | apply State.leaveGran_keeps | apply State.setSlice_keeps | apply Keeps.ite | simp only [List.foldl_cons, List.foldl_nil] | apply Keeps.foldl | apply Keeps.foldlFst | extract_lets | split)

theorem State.nextVector_keeps {W : Places} {a₀ s₀ : State} (p1) (hW : Within 0x2000000000000000000000000000000000778000000000000000000000000000000002000006240000401000002020081283c3420600800457012000008404 W) (h₀ : Keeps W a₀ s₀) : Keeps W a₀ (State.nextVector s₀ p1) := by
  unfold State.nextVector
  with_reducible (repeat' first | assumption | exact Within.trans (by decide) hW | exact Within.bit (by decide) hW | refine places_some ?_ | exact places_none | refine places_cons ?_ ?_ | refine places_pair ?_ ?_ | exact places_nil | refine places_reg ?_ ?_ | exact places_regs | intro _ | apply State.setSlice_keeps | apply State.goGranule_keeps | apply State.endSegment_keeps | apply State.leaveGran_keeps | apply Keeps.ite | simp only [List.foldl_cons, List.foldl_nil] | apply Keeps.foldl | apply Keeps.foldlFst | extract_lets | split)

theorem State.idleFault_keeps {W : Places} {a₀ s₀ : State} (p1) (hW : Within 0x2000000000000000000000000000000000778000000000000000000000000000000002000006240000401000002020081283c3420600800447012000008404 W) (h₀ : Keeps W a₀ s₀) : Keeps W a₀ (State.idleFault s₀ p1) := by
  unfold State.idleFault
  with_reducible (repeat' first | assumption | exact Within.trans (by decide) hW | exact Within.bit (by decide) hW | refine places_some ?_ | exact places_none | refine places_cons ?_ ?_ | refine places_pair ?_ ?_ | exact places_nil | refine places_reg ?_ ?_ | exact places_regs | intro _ | apply State.faultSite_keeps | apply Keeps.ite | simp only [List.foldl_cons, List.foldl_nil] | apply Keeps.foldl | apply Keeps.foldlFst | extract_lets | split)

theorem State.finishEnd_keeps {W : Places} {a₀ s₀ : State} (p1) (hW : Within 0x2000000000000000000000000000000000778000000000000000000000000000000002000006240000401000002020081283c3420600800447012000008404 W) (h₀ : Keeps W a₀ s₀) : Keeps W a₀ (State.finishEnd s₀ p1) := by
  unfold State.finishEnd
  with_reducible (repeat' first | assumption | exact Within.trans (by decide) hW | exact Within.bit (by decide) hW | refine places_some ?_ | exact places_none | refine places_cons ?_ ?_ | refine places_pair ?_ ?_ | exact places_nil | refine places_reg ?_ ?_ | exact places_regs | intro _ | apply State.endSlice_keeps | apply State.idleFault_keeps | apply State.dropSegs_keeps | apply State.set_keeps | apply State.setSlice_keeps | apply Keeps.ite | simp only [List.foldl_cons, List.foldl_nil] | apply Keeps.foldl | apply Keeps.foldlFst | extract_lets | split)

theorem State.settleEnd_keeps {W : Places} {a₀ s₀ : State} (p1) (hW : Within 0x2000000000000000000000000000000000778000000000000000000000000000000002000006240000401000002020081283c3420600800447012000008404 W) (h₀ : Keeps W a₀ s₀) : Keeps W a₀ (State.settleEnd s₀ p1) := by
  unfold State.settleEnd
  with_reducible (repeat' first | assumption | exact Within.trans (by decide) hW | exact Within.bit (by decide) hW | refine places_some ?_ | exact places_none | refine places_cons ?_ ?_ | refine places_pair ?_ ?_ | exact places_nil | refine places_reg ?_ ?_ | exact places_regs | intro _ | apply State.finishEnd_keeps | apply Keeps.ite | simp only [List.foldl_cons, List.foldl_nil] | apply Keeps.foldl | apply Keeps.foldlFst | extract_lets | split)

theorem State.faultStop_keeps {W : Places} {a₀ s₀ : State} (p1) (hW : Within 0x2000000000000000000000000000000000600000000000000000000000000000000000000000000000000000000000000083c3420608800444000000000000 W) (h₀ : Keeps W a₀ s₀) : Keeps W a₀ (State.faultStop s₀ p1) := by
  unfold State.faultStop
  with_reducible (repeat' first | assumption | exact Within.trans (by decide) hW | exact Within.bit (by decide) hW | refine places_some ?_ | exact places_none | refine places_cons ?_ ?_ | refine places_pair ?_ ?_ | exact places_nil | refine places_reg ?_ ?_ | exact places_regs | intro _ | apply State.emptySlice_keeps | apply State.stopSlice_keeps | apply Keeps.ite | simp only [List.foldl_cons, List.foldl_nil] | apply Keeps.foldl | apply Keeps.foldlFst | extract_lets | split)

theorem State.popEntry_keeps {W : Places} {a₀ s₀ : State} (p1) (hW : Within 0x2000000000000000000000000000000000778000000000000000000000000000000002000006240000401000002020081283c3420600800457012000008404 W) (h₀ : Keeps W a₀ s₀) : Keeps W a₀ (State.popEntry s₀ p1) := by
  unfold State.popEntry
  with_reducible (repeat' first | assumption | exact Within.trans (by decide) hW | exact Within.bit (by decide) hW | refine places_some ?_ | exact places_none | refine places_cons ?_ ?_ | refine places_pair ?_ ?_ | exact places_nil | refine places_reg ?_ ?_ | exact places_regs | intro _ | apply State.goSegment_keeps | apply State.set_keeps | apply State.setSlice_keeps | apply Keeps.ite | simp only [List.foldl_cons, List.foldl_nil] | apply Keeps.foldl | apply Keeps.foldlFst | extract_lets | split)

end Sys2Proof.Machine
end

