-- ==== Sys2Proof/Laws/KeepVectors.lean ====
section
/-! SUPPORT. What the operations and the commands of Machine/Vectors.lean keep (Laws/Keeps.lean). -/

set_option linter.unusedTactic false
set_option linter.unreachableTactic false
set_option linter.unusedVariables false
set_option linter.unusedSimpArgs false

namespace Sys2Proof.Machine

theorem State.beginRepeat_keeps {W : Places} {a₀ s₀ : State} (p1 p2) (hW : Within 0x2000000000000000000000000000000000778000000000000000000000000000000002000006240000401000002020081283c3420600800457012000008404 W) (h₀ : Keeps W a₀ s₀) : Keeps W a₀ (State.beginRepeat s₀ p1 p2) := by
  unfold State.beginRepeat
  with_reducible (repeat' first | assumption | exact Within.trans (by decide) hW | exact Within.bit (by decide) hW | refine places_some ?_ | exact places_none | refine places_cons ?_ ?_ | refine places_pair ?_ ?_ | exact places_nil | refine places_reg ?_ ?_ | exact places_regs | intro _ | apply State.nextVector_keeps | apply State.setSlice_keeps | apply Keeps.ite | simp only [List.foldl_cons, List.foldl_nil] | apply Keeps.foldl | apply Keeps.foldlFst | extract_lets | split)

theorem State.badLoop_keeps {W : Places} {a₀ s₀ : State} (p1) (hW : Within 0x2000000000000000000000000000000000778000000000000000000000000000000002000006240000401000002020081283c34206008004c7012000008404 W) (h₀ : Keeps W a₀ s₀) : Keeps W a₀ (State.badLoop s₀ p1) := by
  unfold State.badLoop
  with_reducible (repeat' first | assumption | exact Within.trans (by decide) hW | exact Within.bit (by decide) hW | refine places_some ?_ | exact places_none | refine places_cons ?_ ?_ | refine places_pair ?_ ?_ | exact places_nil | refine places_reg ?_ ?_ | exact places_regs | intro _ | apply State.faultSite_keeps | apply Keeps.ite | simp only [List.foldl_cons, List.foldl_nil] | apply Keeps.foldl | apply Keeps.foldlFst | extract_lets | split)

theorem State.setLoops_keeps {W : Places} {a₀ s₀ : State} (p1 p2) (hW : Within 0x400000000000000 W) (h₀ : Keeps W a₀ s₀) : Keeps W a₀ (State.setLoops s₀ p1 p2) := by
  unfold State.setLoops
  with_reducible (repeat' first | assumption | exact Within.trans (by decide) hW | exact Within.bit (by decide) hW | refine places_some ?_ | exact places_none | refine places_cons ?_ ?_ | refine places_pair ?_ ?_ | exact places_nil | refine places_reg ?_ ?_ | exact places_regs | intro _ | apply State.set_keeps | apply State.setSlice_keeps | apply Keeps.ite | simp only [List.foldl_cons, List.foldl_nil] | apply Keeps.foldl | apply Keeps.foldlFst | extract_lets | split)

theorem State.openLoop_keeps {W : Places} {a₀ s₀ : State} (p1 p2) (hW : Within 0x2000000000000000000000000000000000778000000000000000000000000000000002000006240000401000002020081283c34206008004c7012000008404 W) (h₀ : Keeps W a₀ s₀) : Keeps W a₀ (State.openLoop s₀ p1 p2) := by
  unfold State.openLoop
  with_reducible (repeat' first | assumption | exact Within.trans (by decide) hW | exact Within.bit (by decide) hW | refine places_some ?_ | exact places_none | refine places_cons ?_ ?_ | refine places_pair ?_ ?_ | exact places_nil | refine places_reg ?_ ?_ | exact places_regs | intro _ | apply State.badLoop_keeps | apply State.setLoops_keeps | apply Keeps.ite | simp only [List.foldl_cons, List.foldl_nil] | apply Keeps.foldl | apply Keeps.foldlFst | extract_lets | split)

theorem State.unpin_keeps {W : Places} {a₀ s₀ : State} (p1 p2) (h₀ : Keeps W a₀ s₀) : Keeps W a₀ (State.unpin s₀ p1 p2) := by
  unfold State.unpin
  with_reducible (repeat' first | assumption | exact Within.trans (by decide) hW | exact Within.bit (by decide) hW | refine places_some ?_ | exact places_none | refine places_cons ?_ ?_ | refine places_pair ?_ ?_ | exact places_nil | refine places_reg ?_ ?_ | exact places_regs | intro _ | apply Keeps.ite | simp only [List.foldl_cons, List.foldl_nil] | apply Keeps.foldl | apply Keeps.foldlFst | extract_lets | split | apply Keeps.upd | apply Keeps.updOpen | apply Keeps.updBad)

theorem State.closeLoop_keeps {W : Places} {a₀ s₀ : State} (p1 p2) (hW : Within 0x2000000000000000000000000000000000778000000000000000000000000000000002000006240000401000002020081283c34206008004d7012000008404 W) (h₀ : Keeps W a₀ s₀) : Keeps W a₀ (State.closeLoop s₀ p1 p2) := by
  unfold State.closeLoop
  with_reducible (repeat' first | assumption | exact Within.trans (by decide) hW | exact Within.bit (by decide) hW | refine places_some ?_ | exact places_none | refine places_cons ?_ ?_ | refine places_pair ?_ ?_ | exact places_nil | refine places_reg ?_ ?_ | exact places_regs | intro _ | apply State.goGranule_keeps | apply State.setLoops_keeps | apply State.setSlice_keeps | apply State.nextVector_keeps | apply State.unpin_keeps | apply State.badLoop_keeps | apply Keeps.ite | simp only [List.foldl_cons, List.foldl_nil] | apply Keeps.foldl | apply Keeps.foldlFst | extract_lets | split)

theorem State.jumpLost_keeps {W : Places} {a₀ s₀ : State} (p1) (hW : Within 0x400000000000000 W) (h₀ : Keeps W a₀ s₀) : Keeps W a₀ (State.jumpLost s₀ p1) := by
  unfold State.jumpLost
  with_reducible (repeat' first | assumption | exact Within.trans (by decide) hW | exact Within.bit (by decide) hW | refine places_some ?_ | exact places_none | refine places_cons ?_ ?_ | refine places_pair ?_ ?_ | exact places_nil | refine places_reg ?_ ?_ | exact places_regs | intro _ | apply State.each_keeps | apply State.set_keeps | apply Keeps.ite | simp only [List.foldl_cons, List.foldl_nil] | apply Keeps.foldl | apply Keeps.foldlFst | extract_lets | split)

theorem State.addJump_keeps {W : Places} {a₀ s₀ : State} (p1 p2 p3 p4) (hW : Within 0x400000000000000 W) (h₀ : Keeps W a₀ s₀) : Keeps W a₀ (State.addJump s₀ p1 p2 p3 p4) := by
  unfold State.addJump
  with_reducible (repeat' first | assumption | exact Within.trans (by decide) hW | exact Within.bit (by decide) hW | refine places_some ?_ | exact places_none | refine places_cons ?_ ?_ | refine places_pair ?_ ?_ | exact places_nil | refine places_reg ?_ ?_ | exact places_regs | intro _ | apply State.jumpLost_keeps | apply State.setSite_keeps | apply Keeps.ite | simp only [List.foldl_cons, List.foldl_nil] | apply Keeps.foldl | apply Keeps.foldlFst | extract_lets | split)

theorem State.endPass_keeps {W : Places} {a₀ s₀ : State} (p1 p2) (hW : Within 0x2000000000000000000000000000000000778000000000000000000000000000000002000006240000401000002020081283c3420600800457012000008404 W) (h₀ : Keeps W a₀ s₀) : Keeps W a₀ (State.endPass s₀ p1 p2) := by
  unfold State.endPass
  with_reducible (repeat' first | assumption | exact Within.trans (by decide) hW | exact Within.bit (by decide) hW | refine places_some ?_ | exact places_none | refine places_cons ?_ ?_ | refine places_pair ?_ ?_ | exact places_nil | refine places_reg ?_ ?_ | exact places_regs | intro _ | apply State.setSlice_keeps | apply State.set_keeps | apply State.nextVector_keeps | apply Keeps.ite | simp only [List.foldl_cons, List.foldl_nil] | apply Keeps.foldl | apply Keeps.foldlFst | extract_lets | split)

theorem State.endEntry_keeps {W : Places} {a₀ s₀ : State} (p1) (hW : Within 0x400000000000000 W) (h₀ : Keeps W a₀ s₀) : Keeps W a₀ (State.endEntry s₀ p1) := by
  unfold State.endEntry
  with_reducible (repeat' first | assumption | exact Within.trans (by decide) hW | exact Within.bit (by decide) hW | refine places_some ?_ | exact places_none | refine places_cons ?_ ?_ | refine places_pair ?_ ?_ | exact places_nil | refine places_reg ?_ ?_ | exact places_regs | intro _ | apply State.jumpLost_keeps | apply State.reportCrc_keeps | apply State.setSite_keeps | apply State.setLoops_keeps | apply State.leaveGran_keeps | apply State.set_keeps | apply State.setSlice_keeps | apply Keeps.ite | simp only [List.foldl_cons, List.foldl_nil] | apply Keeps.foldl | apply Keeps.foldlFst | extract_lets | split)

theorem State.badCode_keeps {W : Places} {a₀ s₀ : State} (p1) (hW : Within 0x2000000000000000000000000000000000778000000000000000000000000000000002000006240000401000002020081283c34206008004d7012000008404 W) (h₀ : Keeps W a₀ s₀) : Keeps W a₀ (State.badCode s₀ p1) := by
  unfold State.badCode
  with_reducible (repeat' first | assumption | exact Within.trans (by decide) hW | exact Within.bit (by decide) hW | refine places_some ?_ | exact places_none | refine places_cons ?_ ?_ | refine places_pair ?_ ?_ | exact places_nil | refine places_reg ?_ ?_ | exact places_regs | intro _ | apply State.nextVector_keeps | apply State.raiseC_keeps | apply Keeps.ite | simp only [List.foldl_cons, List.foldl_nil] | apply Keeps.foldl | apply Keeps.foldlFst | extract_lets | split)

theorem State.routine_keeps {W : Places} {a₀ s₀ : State} (p1 p2 p3) (hW : Within 0x2000000000000000000000000000000000778000000000000000000000000000000002000006240000401000002020081283c34206008004d7012000008404 W) (h₀ : Keeps W a₀ s₀) : Keeps W a₀ (State.routine s₀ p1 p2 p3) := by
  unfold State.routine
  with_reducible (repeat' first | assumption | exact Within.trans (by decide) hW | exact Within.bit (by decide) hW | refine places_some ?_ | exact places_none | refine places_cons ?_ ?_ | refine places_pair ?_ ?_ | exact places_nil | refine places_reg ?_ ?_ | exact places_regs | intro _ | apply State.nextVector_keeps | apply State.beginRepeat_keeps | apply State.openLoop_keeps | apply State.closeLoop_keeps | apply State.endPass_keeps | apply State.badCode_keeps | apply State.endEntry_keeps | apply Keeps.ite | simp only [List.foldl_cons, List.foldl_nil] | apply Keeps.foldl | apply Keeps.foldlFst | extract_lets | split)

theorem State.freeRoutine_keeps {W : Places} {a₀ s₀ : State} (p1) (hW : Within 0x2000000000000000000000000000000000778000000000000000000000000000000002000006240000401000002020081283c34206008004d7012000008404 W) (h₀ : Keeps W a₀ s₀) : Keeps W a₀ (State.freeRoutine s₀ p1) := by
  unfold State.freeRoutine
  with_reducible (repeat' first | assumption | exact Within.trans (by decide) hW | exact Within.bit (by decide) hW | refine places_some ?_ | exact places_none | refine places_cons ?_ ?_ | refine places_pair ?_ ?_ | exact places_nil | refine places_reg ?_ ?_ | exact places_regs | intro _ | apply State.routine_keeps | apply State.drew_keeps | apply Keeps.ite | simp only [List.foldl_cons, List.foldl_nil] | apply Keeps.foldl | apply Keeps.foldlFst | extract_lets | split)

theorem State.follow_keeps {W : Places} {a s t : State} (i n) (hW : Within 0x2000000000000000000000000000000000778000000000000000000000000000000002000006240000401000002020081283c34206008004d7012000008404 W) (h : Keeps W a t) : Keeps W a (s.follow i n t) := by
  unfold State.follow
  split
  · exact State.freeRoutine_keeps _ (Within.trans (by decide) hW) h
  · exact State.routine_keeps _ _ _ (Within.trans (by decide) hW) h

theorem State.playCode_keeps {W : Places} {a₀ s₀ : State} (p1 p2 p3) (hW : Within 0x2000000000000000000000000000000000778000000000000000000000000000000002000006240000401000002020081283c342061e841cd7012000008404 W) (h₀ : Keeps W a₀ s₀) : Keeps W a₀ (State.playCode s₀ p1 p2 p3) := by
  unfold State.playCode
  with_reducible (repeat' first | assumption | exact Within.trans (by decide) hW | exact Within.bit (by decide) hW | refine places_some ?_ | exact places_none | refine places_cons ?_ ?_ | refine places_pair ?_ ?_ | exact places_nil | refine places_reg ?_ ?_ | exact places_regs | intro _ | apply State.playVector_keeps | apply State.follow_keeps | apply State.faultStop_keeps | apply Keeps.ite | simp only [List.foldl_cons, List.foldl_nil] | apply Keeps.foldl | apply Keeps.foldlFst | extract_lets | split)

theorem execVectorNext_keeps {W : Places} {a₀ s₀ : State} (p0 p1 p2) (hW : Within 0x2000000000000000000000000000000000778000000000000000000000000000000002000006240000401000002020081283c342061e841cd7012000008404 W) (h₀ : Keeps W a₀ (s₀.elapse p0)) : KeepsOut W a₀ (execVectorNext p0 p1 s₀ p2) := by
  unfold execVectorNext
  with_reducible (repeat' first | assumption | exact Within.trans (by decide) hW | exact Within.bit (by decide) hW | refine places_some ?_ | exact places_none | refine places_cons ?_ ?_ | refine places_pair ?_ ?_ | exact places_nil | refine places_reg ?_ ?_ | exact places_regs | intro _ | apply KeepsOut.next | apply KeepsOut.refused | apply KeepsOut.ite | apply State.playCode_keeps | apply Keeps.ite | simp only [List.foldl_cons, List.foldl_nil] | apply Keeps.foldl | apply Keeps.foldlFst | extract_lets | split)

theorem State.repeatVector_keeps {W : Places} {a₀ s₀ : State} (p1 p2) (hW : Within 0x2000000000000000000000000000000000778000000000000000000000000000000002000006240000401000002020081283c3420608801cd7012000008404 W) (h₀ : Keeps W a₀ s₀) : Keeps W a₀ (State.repeatVector s₀ p1 p2) := by
  unfold State.repeatVector
  with_reducible (repeat' first | assumption | exact Within.trans (by decide) hW | exact Within.bit (by decide) hW | refine places_some ?_ | exact places_none | refine places_cons ?_ ?_ | refine places_pair ?_ ?_ | exact places_nil | refine places_reg ?_ ?_ | exact places_regs | intro _ | apply State.vectorReads_keeps | apply State.cycle_keeps | apply State.nextVector_keeps | apply State.setSlice_keeps | apply Keeps.ite | simp only [List.foldl_cons, List.foldl_nil] | apply Keeps.foldl | apply Keeps.foldlFst | extract_lets | split)

theorem execVectorRepeat_keeps {W : Places} {a₀ s₀ : State} (p0 p1 p2) (hW : Within 0x2000000000000000000000000000000000778000000000000000000000000000000002000006240000401000002020081283c342061e841cd7012000008404 W) (h₀ : Keeps W a₀ (s₀.elapse p0)) : KeepsOut W a₀ (execVectorRepeat p0 p1 s₀ p2) := by
  unfold execVectorRepeat
  with_reducible (repeat' first | assumption | exact Within.trans (by decide) hW | exact Within.bit (by decide) hW | refine places_some ?_ | exact places_none | refine places_cons ?_ ?_ | refine places_pair ?_ ?_ | exact places_nil | refine places_reg ?_ ?_ | exact places_regs | intro _ | apply KeepsOut.next | apply KeepsOut.refused | apply KeepsOut.ite | apply State.repeatVector_keeps | apply State.playCode_keeps | apply Keeps.ite | simp only [List.foldl_cons, List.foldl_nil] | apply Keeps.foldl | apply Keeps.foldlFst | extract_lets | split)

theorem execLoopBegin_keeps {W : Places} {a₀ s₀ : State} (p0 p1 p2) (hW : Within 0x2000000000000000000000000000000000778000000000000000000000000000000002000006240000401000002020081283c342061e841cd7012000008404 W) (h₀ : Keeps W a₀ (s₀.elapse p0)) : KeepsOut W a₀ (execLoopBegin p0 p1 s₀ p2) := by
  unfold execLoopBegin
  with_reducible (repeat' first | assumption | exact Within.trans (by decide) hW | exact Within.bit (by decide) hW | refine places_some ?_ | exact places_none | refine places_cons ?_ ?_ | refine places_pair ?_ ?_ | exact places_nil | refine places_reg ?_ ?_ | exact places_regs | intro _ | apply KeepsOut.next | apply KeepsOut.refused | apply KeepsOut.ite | apply State.playCode_keeps | apply Keeps.ite | simp only [List.foldl_cons, List.foldl_nil] | apply Keeps.foldl | apply Keeps.foldlFst | extract_lets | split)

theorem execLoopEnd_keeps {W : Places} {a₀ s₀ : State} (p0 p1 p2) (hW : Within 0x2000000000000000000000000000000000778000000000000000000000000000000002000006240000401000002020081283c342061e841cd7012000008404 W) (h₀ : Keeps W a₀ (s₀.elapse p0)) : KeepsOut W a₀ (execLoopEnd p0 p1 s₀ p2) := by
  unfold execLoopEnd
  with_reducible (repeat' first | assumption | exact Within.trans (by decide) hW | exact Within.bit (by decide) hW | refine places_some ?_ | exact places_none | refine places_cons ?_ ?_ | refine places_pair ?_ ?_ | exact places_nil | refine places_reg ?_ ?_ | exact places_regs | intro _ | apply KeepsOut.next | apply KeepsOut.refused | apply KeepsOut.ite | apply State.playCode_keeps | apply Keeps.ite | simp only [List.foldl_cons, List.foldl_nil] | apply Keeps.foldl | apply Keeps.foldlFst | extract_lets | split)

theorem State.judgePass_keeps {W : Places} {a₀ s₀ : State} (p1 p2 p3) (hW : Within 0x400000000000000 W) (h₀ : Keeps W a₀ s₀) : Keeps W a₀ (State.judgePass s₀ p1 p2 p3) := by
  unfold State.judgePass
  with_reducible (repeat' first | assumption | exact Within.trans (by decide) hW | exact Within.bit (by decide) hW | refine places_some ?_ | exact places_none | refine places_cons ?_ ?_ | refine places_pair ?_ ?_ | exact places_nil | refine places_reg ?_ ?_ | exact places_regs | intro _ | apply State.drew_keeps | apply State.each_keeps | apply State.setSlice_keeps | apply State.addJump_keeps | apply Keeps.ite | simp only [List.foldl_cons, List.foldl_nil] | apply Keeps.foldl | apply Keeps.foldlFst | extract_lets | split)

theorem State.judgeDue_keeps {W : Places} {a₀ s₀ : State} (p1) (hW : Within 0x2000000000000000000000000000000000600000000000000000000000000000000000000000000000000000000000000083c3420608800444000000000000 W) (h₀ : Keeps W a₀ s₀) : Keeps W a₀ (State.judgeDue s₀ p1) := by
  unfold State.judgeDue
  with_reducible (repeat' first | assumption | exact Within.trans (by decide) hW | exact Within.bit (by decide) hW | refine places_some ?_ | exact places_none | refine places_cons ?_ ?_ | refine places_pair ?_ ?_ | exact places_nil | refine places_reg ?_ ?_ | exact places_regs | intro _ | apply State.judgePass_keeps | apply State.faultStop_keeps | apply Keeps.ite | simp only [List.foldl_cons, List.foldl_nil] | apply Keeps.foldl | apply Keeps.foldlFst | extract_lets | split)

theorem execMatchPass_keeps {W : Places} {a₀ s₀ : State} (p0 p1 p2) (hW : Within 0x2000000000000000000000000000000000778000000000000000000000000000000002000006240000401000002020081283c342061e841cd7012000008404 W) (h₀ : Keeps W a₀ (s₀.elapse p0)) : KeepsOut W a₀ (execMatchPass p0 p1 s₀ p2) := by
  unfold execMatchPass
  with_reducible (repeat' first | assumption | exact Within.trans (by decide) hW | exact Within.bit (by decide) hW | refine places_some ?_ | exact places_none | refine places_cons ?_ ?_ | refine places_pair ?_ ?_ | exact places_nil | refine places_reg ?_ ?_ | exact places_regs | intro _ | apply KeepsOut.next | apply KeepsOut.refused | apply KeepsOut.ite | apply State.playCode_keeps | apply State.judgeDue_keeps | apply Keeps.ite | simp only [List.foldl_cons, List.foldl_nil] | apply Keeps.foldl | apply Keeps.foldlFst | extract_lets | split)

theorem execAltVector_keeps {W : Places} {a₀ s₀ : State} (p0 p1 p2) (hW : Within 0x2000000000000000000000000000000000778000000000000000000000000000000002000006240000401000002020081283c342061e841cd7012000008404 W) (h₀ : Keeps W a₀ (s₀.elapse p0)) : KeepsOut W a₀ (execAltVector p0 p1 s₀ p2) := by
  unfold execAltVector
  with_reducible (repeat' first | assumption | exact Within.trans (by decide) hW | exact Within.bit (by decide) hW | refine places_some ?_ | exact places_none | refine places_cons ?_ ?_ | refine places_pair ?_ ?_ | exact places_nil | refine places_reg ?_ ?_ | exact places_regs | intro _ | apply KeepsOut.next | apply KeepsOut.refused | apply KeepsOut.ite | apply State.playCode_keeps | apply Keeps.ite | simp only [List.foldl_cons, List.foldl_nil] | apply Keeps.foldl | apply Keeps.foldlFst | extract_lets | split)

theorem execEndVector_keeps {W : Places} {a₀ s₀ : State} (p0 p1 p2) (hW : Within 0x2000000000000000000000000000000000778000000000000000000000000000000002000006240000401000002020081283c342061e841cd7012000008404 W) (h₀ : Keeps W a₀ (s₀.elapse p0)) : KeepsOut W a₀ (execEndVector p0 p1 s₀ p2) := by
  unfold execEndVector
  with_reducible (repeat' first | assumption | exact Within.trans (by decide) hW | exact Within.bit (by decide) hW | refine places_some ?_ | exact places_none | refine places_cons ?_ ?_ | refine places_pair ?_ ?_ | exact places_nil | refine places_reg ?_ ?_ | exact places_regs | intro _ | apply KeepsOut.next | apply KeepsOut.refused | apply KeepsOut.ite | apply State.playCode_keeps | apply Keeps.ite | simp only [List.foldl_cons, List.foldl_nil] | apply Keeps.foldl | apply Keeps.foldlFst | extract_lets | split)

theorem execCode7_keeps {W : Places} {a₀ s₀ : State} (p0 p1 p2) (hW : Within 0x2000000000000000000000000000000000778000000000000000000000000000000002000006240000401000002020081283c342061e841cd7012000008404 W) (h₀ : Keeps W a₀ (s₀.elapse p0)) : KeepsOut W a₀ (execCode7 p0 p1 s₀ p2) := by
  unfold execCode7
  with_reducible (repeat' first | assumption | exact Within.trans (by decide) hW | exact Within.bit (by decide) hW | refine places_some ?_ | exact places_none | refine places_cons ?_ ?_ | refine places_pair ?_ ?_ | exact places_nil | refine places_reg ?_ ?_ | exact places_regs | intro _ | apply KeepsOut.next | apply KeepsOut.refused | apply KeepsOut.ite | apply State.playCode_keeps | apply Keeps.ite | simp only [List.foldl_cons, List.foldl_nil] | apply Keeps.foldl | apply Keeps.foldlFst | extract_lets | split)

theorem State.askHold_keeps {W : Places} {a₀ s₀ : State} (p1 p2 p3) (hW : Within 0x200000000000000000000000000000000000000000000000000000000000000000000000000000000000000000000000000000000000000000000000000000 W) (h₀ : Keeps W a₀ s₀) : Keeps W a₀ (State.askHold s₀ p1 p2 p3) := by
  unfold State.askHold
  with_reducible (repeat' first | assumption | exact Within.trans (by decide) hW | exact Within.bit (by decide) hW | refine places_some ?_ | exact places_none | refine places_cons ?_ ?_ | refine places_pair ?_ ?_ | exact places_nil | refine places_reg ?_ ?_ | exact places_regs | intro _ | apply State.setSite_keeps | apply State.tokenHome_keeps | apply State.sendToken_keeps | apply Keeps.ite | simp only [List.foldl_cons, List.foldl_nil] | apply Keeps.foldl | apply Keeps.foldlFst | extract_lets | split)

theorem State.tellProxies_keeps {W : Places} {a₀ s₀ : State} (p1 p2) (hW : Within 0x200000000000000000000000000000000000000000000000000000000000000000000000000000000000000000000000000000000000000000000000000000 W) (h₀ : Keeps W a₀ s₀) : Keeps W a₀ (State.tellProxies s₀ p1 p2) := by
  unfold State.tellProxies
  with_reducible (repeat' first | assumption | exact Within.trans (by decide) hW | exact Within.bit (by decide) hW | refine places_some ?_ | exact places_none | refine places_cons ?_ ?_ | refine places_pair ?_ ?_ | exact places_nil | refine places_reg ?_ ?_ | exact places_regs | apply State.sendToken_keeps | apply State.tellSets_keeps | apply Keeps.ite | simp only [List.foldl_cons, List.foldl_nil] | apply Keeps.foldl | apply Keeps.foldlFst | lift_lets | (intro x; first | (have hx : Keeps W a₀ x := (by unfold x; with_reducible (repeat' first | assumption | exact Within.trans (by decide) hW | exact Within.bit (by decide) hW | refine places_some ?_ | exact places_none | refine places_cons ?_ ?_ | refine places_pair ?_ ?_ | exact places_nil | refine places_reg ?_ ?_ | exact places_regs | intro _ | apply State.sendToken_keeps | apply State.tellSets_keeps | apply Keeps.ite | simp only [List.foldl_cons, List.foldl_nil] | apply Keeps.foldl | apply Keeps.foldlFst | extract_lets | split)); clear_value x) | (have hx : (x : State) = x := rfl) | clear_value x | skip) | split)

theorem State.judged_keeps {W : Places} {a₀ s₀ : State} (p1 p2) (h₀ : Keeps W a₀ s₀) : Keeps W a₀ (State.judged s₀ p1 p2) := by
  unfold State.judged
  with_reducible (repeat' first | assumption | exact Within.trans (by decide) hW | exact Within.bit (by decide) hW | refine places_some ?_ | exact places_none | refine places_cons ?_ ?_ | refine places_pair ?_ ?_ | exact places_nil | refine places_reg ?_ ?_ | exact places_regs | intro _ | apply State.setSlice_keeps | apply Keeps.ite | simp only [List.foldl_cons, List.foldl_nil] | apply Keeps.foldl | apply Keeps.foldlFst | extract_lets | split)

theorem State.endQueue_keeps {W : Places} {a₀ s₀ : State} (p1 p2) (hW : Within 0x2000000000000000000000000000000000778000000000000000000000000000000002000006240000401000002020081283c3420600800447012000008404 W) (h₀ : Keeps W a₀ s₀) : Keeps W a₀ (State.endQueue s₀ p1 p2) := by
  unfold State.endQueue
  with_reducible (repeat' first | assumption | exact Within.trans (by decide) hW | exact Within.bit (by decide) hW | refine places_some ?_ | exact places_none | refine places_cons ?_ ?_ | refine places_pair ?_ ?_ | exact places_nil | refine places_reg ?_ ?_ | exact places_regs | intro _ | apply State.set_keeps | apply State.finishEnd_keeps | apply State.setSlice_keeps | apply Keeps.ite | simp only [List.foldl_cons, List.foldl_nil] | apply Keeps.foldl | apply Keeps.foldlFst | extract_lets | split)

theorem State.checkPoint_keeps {W : Places} {a₀ s₀ : State} (p1 p2) (hW : Within 0x2000000000000000000000000000000000778000000000000000000000000000000002000006240000401000002020081283c3420600800457012000008404 W) (h₀ : Keeps W a₀ s₀) : Keeps W a₀ (State.checkPoint s₀ p1 p2) := by
  unfold State.checkPoint
  with_reducible (repeat' first | assumption | exact Within.trans (by decide) hW | exact Within.bit (by decide) hW | refine places_some ?_ | exact places_none | refine places_cons ?_ ?_ | refine places_pair ?_ ?_ | exact places_nil | refine places_reg ?_ ?_ | exact places_regs | intro _ | apply State.judged_keeps | apply State.tellProxies_keeps | apply State.askHold_keeps | apply State.popEntry_keeps | apply State.endQueue_keeps | apply State.set_keeps | apply Keeps.ite | simp only [List.foldl_cons, List.foldl_nil] | apply Keeps.foldl | apply Keeps.foldlFst | extract_lets | split)

theorem execGranuleCheckPoint_keeps {W : Places} {a₀ s₀ : State} (p0 p1) (hW : Within 0x2000000000000000000000000000000000778000000000000000000000000000000002000006240000401000002020081283c3420608800457012000008404 W) (h₀ : Keeps W a₀ (s₀.elapse p0)) : KeepsOut W a₀ (execGranuleCheckPoint p0 p1 s₀) := by
  unfold execGranuleCheckPoint
  with_reducible (repeat' first | assumption | exact Within.trans (by decide) hW | exact Within.bit (by decide) hW | refine places_some ?_ | exact places_none | refine places_cons ?_ ?_ | refine places_pair ?_ ?_ | exact places_nil | refine places_reg ?_ ?_ | exact places_regs | intro _ | apply KeepsOut.next | apply KeepsOut.refused | apply KeepsOut.ite | apply State.checkPoint_keeps | apply State.faultStop_keeps | apply Keeps.ite | simp only [List.foldl_cons, List.foldl_nil] | apply Keeps.foldl | apply Keeps.foldlFst | extract_lets | split)

theorem State.recordStall_keeps {W : Places} {a₀ s₀ : State} (p1 p2 p3 p4 p5) (hW : Within 0x600000000000000000000000000000000000000000000000000000000000000000000000000000003c0000000000 W) (h₀ : Keeps W a₀ s₀) : Keeps W a₀ (State.recordStall s₀ p1 p2 p3 p4 p5) := by
  unfold State.recordStall
  with_reducible (repeat' first | assumption | exact Within.trans (by decide) hW | exact Within.bit (by decide) hW | refine places_some ?_ | exact places_none | refine places_cons ?_ ?_ | refine places_pair ?_ ?_ | exact places_nil | refine places_reg ?_ ?_ | exact places_regs | intro _ | apply State.set_keeps | apply State.count_keeps | apply Keeps.ite | simp only [List.foldl_cons, List.foldl_nil] | apply Keeps.foldl | apply Keeps.foldlFst | extract_lets | split)

theorem State.holdSlices_keeps {W : Places} {a₀ s₀ : State} (p1 p2 p3) (hW : Within 0x2000000000000000000000000000000000600000000000000000000000000000000000000000000000000000000000000083c34206088004003c0000000000 W) (h₀ : Keeps W a₀ s₀) : Keeps W a₀ (State.holdSlices s₀ p1 p2 p3) := by
  unfold State.holdSlices
  with_reducible (repeat' first | assumption | exact Within.trans (by decide) hW | exact Within.bit (by decide) hW | refine places_some ?_ | exact places_none | refine places_cons ?_ ?_ | refine places_pair ?_ ?_ | exact places_nil | refine places_reg ?_ ?_ | exact places_regs | intro _ | apply State.each_keeps | apply State.stopSlice_keeps | apply State.recordStall_keeps | apply State.setSite_keeps | apply Keeps.ite | simp only [List.foldl_cons, List.foldl_nil] | apply Keeps.foldl | apply Keeps.foldlFst | extract_lets | split)

theorem State.strictEnd_keeps {W : Places} {a₀ s₀ : State} (p1 p2) (hW : Within 0x100000000000000444800000000000 W) (h₀ : Keeps W a₀ s₀) : Keeps W a₀ (State.strictEnd s₀ p1 p2) := by
  unfold State.strictEnd
  with_reducible (repeat' first | assumption | exact Within.trans (by decide) hW | exact Within.bit (by decide) hW | refine places_some ?_ | exact places_none | refine places_cons ?_ ?_ | refine places_pair ?_ ?_ | exact places_nil | refine places_reg ?_ ?_ | exact places_regs | intro _ | apply State.each_keeps | apply State.emptySlice_keeps | apply State.setSlice_keeps | apply State.setBin_keeps | apply State.set_keeps | apply Keeps.ite | simp only [List.foldl_cons, List.foldl_nil] | apply Keeps.foldl | apply Keeps.foldlFst | extract_lets | split)

theorem State.enterHold_keeps {W : Places} {a₀ s₀ : State} (p1 p2 p3) (hW : Within 0x2000000000000000000000000000000000600000000000000000000000000000000000000006240000000000000020081283c3420608800444bd2000000004 W) (h₀ : Keeps W a₀ s₀) : Keeps W a₀ (State.enterHold s₀ p1 p2 p3) := by
  unfold State.enterHold
  with_reducible (repeat' first | assumption | exact Within.trans (by decide) hW | exact Within.bit (by decide) hW | refine places_some ?_ | exact places_none | refine places_cons ?_ ?_ | refine places_pair ?_ ?_ | exact places_nil | refine places_reg ?_ ?_ | exact places_regs | intro _ | apply State.holdSlices_keeps | apply State.strictEnd_keeps | apply State.enterState_keeps | apply State.set_keeps | apply State.answerAbort_keeps | apply State.closeTrim_keeps | apply State.stopCtx_keeps | apply State.sendToken_keeps | apply Keeps.ite | simp only [List.foldl_cons, List.foldl_nil] | apply Keeps.foldl | apply Keeps.foldlFst | extract_lets | split)

theorem execHoldRelease_keeps {W : Places} {a₀ s₀ : State} (p0 p1) (hW : Within 0x2000000000000000000000000000000000600000000000000000000000000000000000000006240000000000000020081283c3420608800444bd2000000004 W) (h₀ : Keeps W a₀ (s₀.elapse p0)) : KeepsOut W a₀ (execHoldRelease p0 p1 s₀) := by
  unfold execHoldRelease
  with_reducible (repeat' first | assumption | exact Within.trans (by decide) hW | exact Within.bit (by decide) hW | refine places_some ?_ | exact places_none | refine places_cons ?_ ?_ | refine places_pair ?_ ?_ | exact places_nil | refine places_reg ?_ ?_ | exact places_regs | intro _ | apply KeepsOut.next | apply KeepsOut.refused | apply KeepsOut.ite | apply State.enterHold_keeps | apply Keeps.ite | simp only [List.foldl_cons, List.foldl_nil] | apply Keeps.foldl | apply Keeps.foldlFst | extract_lets | split)

theorem State.addDemand_keeps {W : Places} {a₀ s₀ : State} (p1 p2) (hW : Within 0x8000000000000 W) (h₀ : Keeps W a₀ s₀) : Keeps W a₀ (State.addDemand s₀ p1 p2) := by
  unfold State.addDemand
  with_reducible (repeat' first | assumption | exact Within.trans (by decide) hW | exact Within.bit (by decide) hW | refine places_some ?_ | exact places_none | refine places_cons ?_ ?_ | refine places_pair ?_ ?_ | exact places_nil | refine places_reg ?_ ?_ | exact places_regs | intro _ | apply State.set_keeps | apply Keeps.ite | simp only [List.foldl_cons, List.foldl_nil] | apply Keeps.foldl | apply Keeps.foldlFst | extract_lets | split | apply Keeps.upd | apply Keeps.updOpen | apply Keeps.updBad)

theorem State.refill_keeps {W : Places} {a₀ s₀ : State} (p1 p2 p3 p4) (hW : Within 0x58000000000000 W) (h₀ : Keeps W a₀ s₀) : Keeps W a₀ (State.refill s₀ p1 p2 p3 p4) := by
  unfold State.refill
  with_reducible (repeat' first | assumption | exact Within.trans (by decide) hW | exact Within.bit (by decide) hW | refine places_some ?_ | exact places_none | refine places_cons ?_ ?_ | refine places_pair ?_ ?_ | exact places_nil | refine places_reg ?_ ?_ | exact places_regs | intro _ | apply State.raiseC_keeps | apply State.seeAhead_keeps | apply State.addDemand_keeps | apply Keeps.ite | simp only [List.foldl_cons, List.foldl_nil] | apply Keeps.foldl | apply Keeps.foldlFst | extract_lets | split | apply Keeps.upd | apply Keeps.updOpen | apply Keeps.updBad)

theorem execRefillGranuleComplete_keeps {W : Places} {a₀ s₀ : State} (p0 p1 p2 p3 p4) (hW : Within 0x58000000000000 W) (h₀ : Keeps W a₀ (s₀.elapse p0)) : KeepsOut W a₀ (execRefillGranuleComplete p0 p1 p2 p3 p4 s₀) := by
  unfold execRefillGranuleComplete
  with_reducible (repeat' first | assumption | exact Within.trans (by decide) hW | exact Within.bit (by decide) hW | refine places_some ?_ | exact places_none | refine places_cons ?_ ?_ | refine places_pair ?_ ?_ | exact places_nil | refine places_reg ?_ ?_ | exact places_regs | intro _ | apply KeepsOut.next | apply KeepsOut.refused | apply KeepsOut.ite | apply State.refill_keeps | apply Keeps.ite | simp only [List.foldl_cons, List.foldl_nil] | apply Keeps.foldl | apply Keeps.foldlFst | extract_lets | split)

theorem State.takeIn_keeps {W : Places} {a₀ s₀ : State} (p1 p2 p3 p4) (hW : Within 0x2000000000000000000000000000000000778000000000000000000000000000000002000006240000401000002020081283c3420600800457012000008404 W) (h₀ : Keeps W a₀ s₀) : Keeps W a₀ (State.takeIn s₀ p1 p2 p3 p4) := by
  unfold State.takeIn
  with_reducible (repeat' first | assumption | exact Within.trans (by decide) hW | exact Within.bit (by decide) hW | refine places_some ?_ | exact places_none | refine places_cons ?_ ?_ | refine places_pair ?_ ?_ | exact places_nil | refine places_reg ?_ ?_ | exact places_regs | intro _ | apply State.faultSite_keeps | apply State.tellStart_keeps | apply State.useSlots_keeps | apply State.setSlice_keeps | apply Keeps.ite | simp only [List.foldl_cons, List.foldl_nil] | apply Keeps.foldl | apply Keeps.foldlFst | extract_lets | split)

theorem execSegmentAdmission_keeps {W : Places} {a₀ s₀ : State} (p0 p1 p2 p3) (hW : Within 0x2000000000000000000000000000000000778000000000000404000000000000000002000006240000401000002020081283c3420600800457012000008404 W) (h₀ : Keeps W a₀ (s₀.elapse p0)) : KeepsOut W a₀ (execSegmentAdmission p0 p1 p2 p3 s₀) := by
  unfold execSegmentAdmission
  with_reducible (repeat' first | assumption | exact Within.trans (by decide) hW | exact Within.bit (by decide) hW | refine places_some ?_ | exact places_none | refine places_cons ?_ ?_ | refine places_pair ?_ ?_ | exact places_nil | refine places_reg ?_ ?_ | exact places_regs | intro _ | apply KeepsOut.next | apply KeepsOut.refused | apply KeepsOut.ite | apply State.widen_keeps | apply State.takeIn_keeps | apply State.eccRaise_keeps | apply Keeps.ite | simp only [List.foldl_cons, List.foldl_nil] | apply Keeps.foldl | apply Keeps.foldlFst | extract_lets | split)

theorem State.formResume_keeps {W : Places} {a₀ s₀ : State} (p1) (hW : Within 0x200000000000000000000000000000000000000000000000000000000000000000000000000000000000000000000000000000000000000000000000000000 W) (h₀ : Keeps W a₀ s₀) : Keeps W a₀ (State.formResume s₀ p1) := by
  unfold State.formResume
  with_reducible (repeat' first | assumption | exact Within.trans (by decide) hW | exact Within.bit (by decide) hW | refine places_some ?_ | exact places_none | refine places_cons ?_ ?_ | refine places_pair ?_ ?_ | exact places_nil | refine places_reg ?_ ?_ | exact places_regs | intro _ | apply State.sendToken_keeps | apply State.setSite_keeps | apply Keeps.ite | simp only [List.foldl_cons, List.foldl_nil] | apply Keeps.foldl | apply Keeps.foldlFst | extract_lets | split)

theorem State.proxyReport_keeps {W : Places} {a₀ s₀ : State} (p1) (hW : Within 0x200000000000000000000000000000000000000000000000000000000000000000000000000000000000000000000000000000000000000000000000000000 W) (h₀ : Keeps W a₀ s₀) : Keeps W a₀ (State.proxyReport s₀ p1) := by
  unfold State.proxyReport
  with_reducible (repeat' first | assumption | exact Within.trans (by decide) hW | exact Within.bit (by decide) hW | refine places_some ?_ | exact places_none | refine places_cons ?_ ?_ | refine places_pair ?_ ?_ | exact places_nil | refine places_reg ?_ ?_ | exact places_regs | intro _ | apply State.tokenHome_keeps | apply Keeps.ite | simp only [List.foldl_cons, List.foldl_nil] | apply Keeps.foldl | apply Keeps.foldlFst | extract_lets | split)

theorem execSliceReadyReport_keeps {W : Places} {a₀ s₀ : State} (p0 p1) (hW : Within 0x200000000000000000000000000000000000000000000000000000000000000000000000000000000000000000000000000000000000000000000000000000 W) (h₀ : Keeps W a₀ (s₀.elapse p0)) : KeepsOut W a₀ (execSliceReadyReport p0 p1 s₀) := by
  unfold execSliceReadyReport
  with_reducible (repeat' first | assumption | exact Within.trans (by decide) hW | exact Within.bit (by decide) hW | refine places_some ?_ | exact places_none | refine places_cons ?_ ?_ | refine places_pair ?_ ?_ | exact places_nil | refine places_reg ?_ ?_ | exact places_regs | intro _ | apply KeepsOut.next | apply KeepsOut.refused | apply KeepsOut.ite | apply State.setSlice_keeps | apply State.proxyReport_keeps | apply State.formResume_keeps | apply Keeps.ite | simp only [List.foldl_cons, List.foldl_nil] | apply Keeps.foldl | apply Keeps.foldlFst | extract_lets | split)

theorem State.resumeSlice_keeps {W : Places} {a₀ s₀ : State} (p1 p2) (hW : Within 0x400000000000000 W) (h₀ : Keeps W a₀ s₀) : Keeps W a₀ (State.resumeSlice s₀ p1 p2) := by
  unfold State.resumeSlice
  with_reducible (repeat' first | assumption | exact Within.trans (by decide) hW | exact Within.bit (by decide) hW | refine places_some ?_ | exact places_none | refine places_cons ?_ ?_ | refine places_pair ?_ ?_ | exact places_nil | refine places_reg ?_ ?_ | exact places_regs | intro _ | apply State.set_keeps | apply State.setSlice_keeps | apply Keeps.ite | simp only [List.foldl_cons, List.foldl_nil] | apply Keeps.foldl | apply Keeps.foldlFst | extract_lets | split)

theorem execResumeRelease_keeps {W : Places} {a₀ s₀ : State} (p0 p1) (hW : Within 0x2000000000000000000000000000000000778000000000000000000000000000000002000006240000401000002020081283c3420600800457112000008404 W) (h₀ : Keeps W a₀ (s₀.elapse p0)) : KeepsOut W a₀ (execResumeRelease p0 p1 s₀) := by
  unfold execResumeRelease
  with_reducible (repeat' first | assumption | exact Within.trans (by decide) hW | exact Within.bit (by decide) hW | refine places_some ?_ | exact places_none | refine places_cons ?_ ?_ | refine places_pair ?_ ?_ | exact places_nil | refine places_reg ?_ ?_ | exact places_regs | intro _ | apply KeepsOut.next | apply KeepsOut.refused | apply KeepsOut.ite | apply State.each_keeps | apply State.resumeSlice_keeps | apply State.setSite_keeps | apply State.set_keeps | apply State.enterState_keeps | apply State.checkPoint_keeps | apply Keeps.ite | simp only [List.foldl_cons, List.foldl_nil] | apply Keeps.foldl | apply Keeps.foldlFst | extract_lets | split)

theorem State.queueEntry_keeps {W : Places} {a₀ s₀ : State} (p1 p2) (hW : Within 0x2000000000000000000000000000000000778000000000000000000000000000000002000006240000401000002020081283c3420600800447012000008404 W) (h₀ : Keeps W a₀ s₀) : Keeps W a₀ (State.queueEntry s₀ p1 p2) := by
  unfold State.queueEntry
  with_reducible (repeat' first | assumption | exact Within.trans (by decide) hW | exact Within.bit (by decide) hW | refine places_some ?_ | exact places_none | refine places_cons ?_ ?_ | refine places_pair ?_ ?_ | exact places_nil | refine places_reg ?_ ?_ | exact places_regs | intro _ | apply State.set_keeps | apply State.setSlice_keeps | apply State.finishEnd_keeps | apply Keeps.ite | simp only [List.foldl_cons, List.foldl_nil] | apply Keeps.foldl | apply Keeps.foldlFst | extract_lets | split)

theorem execQueueEntryRelease_keeps {W : Places} {a₀ s₀ : State} (p0 p1) (hW : Within 0x2000000000000000000000000000000000778000000000000000000000000000000002000006240000401000002020081283c3420600800447012000008404 W) (h₀ : Keeps W a₀ (s₀.elapse p0)) : KeepsOut W a₀ (execQueueEntryRelease p0 p1 s₀) := by
  unfold execQueueEntryRelease
  with_reducible (repeat' first | assumption | exact Within.trans (by decide) hW | exact Within.bit (by decide) hW | refine places_some ?_ | exact places_none | refine places_cons ?_ ?_ | refine places_pair ?_ ?_ | exact places_nil | refine places_reg ?_ ?_ | exact places_regs | intro _ | apply KeepsOut.next | apply KeepsOut.refused | apply KeepsOut.ite | apply State.queueEntry_keeps | apply State.setSlice_keeps | apply Keeps.ite | simp only [List.foldl_cons, List.foldl_nil] | apply Keeps.foldl | apply Keeps.foldlFst | extract_lets | split)

theorem execEventJumpRequest_keeps {W : Places} {a₀ s₀ : State} (p0 p1) (hW : Within 0x400000000000000 W) (h₀ : Keeps W a₀ (s₀.elapse p0)) : KeepsOut W a₀ (execEventJumpRequest p0 p1 s₀) := by
  unfold execEventJumpRequest
  with_reducible (repeat' first | assumption | exact Within.trans (by decide) hW | exact Within.bit (by decide) hW | refine places_some ?_ | exact places_none | refine places_cons ?_ ?_ | refine places_pair ?_ ?_ | exact places_nil | refine places_reg ?_ ?_ | exact places_regs | intro _ | apply KeepsOut.next | apply KeepsOut.refused | apply KeepsOut.ite | apply State.addJump_keeps | apply Keeps.ite | simp only [List.foldl_cons, List.foldl_nil] | apply Keeps.foldl | apply Keeps.foldlFst | extract_lets | split)

theorem State.leaveRing_keeps {W : Places} {a₀ s₀ : State} (p1 p2) (h₀ : Keeps W a₀ s₀) : Keeps W a₀ (State.leaveRing s₀ p1 p2) := by
  unfold State.leaveRing
  with_reducible (repeat' first | assumption | exact Within.trans (by decide) hW | exact Within.bit (by decide) hW | refine places_some ?_ | exact places_none | refine places_cons ?_ ?_ | refine places_pair ?_ ?_ | exact places_nil | refine places_reg ?_ ?_ | exact places_regs | intro _ | apply Keeps.ite | simp only [List.foldl_cons, List.foldl_nil] | apply Keeps.foldl | apply Keeps.foldlFst | extract_lets | split | apply Keeps.upd | apply Keeps.updOpen | apply Keeps.updBad)

theorem State.takeJump_keeps {W : Places} {a₀ s₀ : State} (p1 p2 p3) (hW : Within 0x2000000000000000000000000000000000778000000000000000000000000000000002000006240000401000002020081283c342060280c457012000008404 W) (h₀ : Keeps W a₀ s₀) : Keeps W a₀ (State.takeJump s₀ p1 p2 p3) := by
  unfold State.takeJump
  with_reducible (repeat' first | assumption | exact Within.trans (by decide) hW | exact Within.bit (by decide) hW | refine places_some ?_ | exact places_none | refine places_cons ?_ ?_ | refine places_pair ?_ ?_ | exact places_nil | refine places_reg ?_ ?_ | exact places_regs | intro _ | apply State.setAlt_keeps | apply State.reportCrc_keeps | apply State.leaveRing_keeps | apply State.set_keeps | apply State.leaveGran_keeps | apply State.goSegment_keeps | apply Keeps.ite | simp only [List.foldl_cons, List.foldl_nil] | apply Keeps.foldl | apply Keeps.foldlFst | extract_lets | split)

theorem execJumpHonoured_keeps {W : Places} {a₀ s₀ : State} (p0 p1) (hW : Within 0x2000000000000000000000000000000000778000000000000000000000000000000002000006240000401000002020081283c342060280c457012000008404 W) (h₀ : Keeps W a₀ (s₀.elapse p0)) : KeepsOut W a₀ (execJumpHonoured p0 p1 s₀) := by
  unfold execJumpHonoured
  with_reducible (repeat' first | assumption | exact Within.trans (by decide) hW | exact Within.bit (by decide) hW | refine places_some ?_ | exact places_none | refine places_cons ?_ ?_ | refine places_pair ?_ ?_ | exact places_nil | refine places_reg ?_ ?_ | exact places_regs | apply KeepsOut.next | apply KeepsOut.refused | apply KeepsOut.ite | apply State.setSite_keeps | apply State.each_keeps | apply State.takeJump_keeps | apply State.jumpLost_keeps | apply Keeps.ite | simp only [List.foldl_cons, List.foldl_nil] | apply Keeps.foldl | apply Keeps.foldlFst | lift_lets | (intro x; first | (have hx : Keeps W a₀ x := (by unfold x; with_reducible (repeat' first | assumption | exact Within.trans (by decide) hW | exact Within.bit (by decide) hW | refine places_some ?_ | exact places_none | refine places_cons ?_ ?_ | refine places_pair ?_ ?_ | exact places_nil | refine places_reg ?_ ?_ | exact places_regs | intro _ | apply State.setSite_keeps | apply State.each_keeps | apply State.takeJump_keeps | apply State.jumpLost_keeps | apply Keeps.ite | simp only [List.foldl_cons, List.foldl_nil] | apply Keeps.foldl | apply Keeps.foldlFst | extract_lets | split)); clear_value x) | (have hx : (x : State) = x := rfl) | clear_value x | skip) | split)

theorem State.sendCrcs_keeps {W : Places} {a₀ s₀ : State} (p1) (hW : Within 0x200000000000000000000000000000000000000000000000000000000000000000000000000000000000000000000000000000000000000000000000000000 W) (h₀ : Keeps W a₀ s₀) : Keeps W a₀ (State.sendCrcs s₀ p1) := by
  unfold State.sendCrcs
  with_reducible (repeat' first | assumption | exact Within.trans (by decide) hW | exact Within.bit (by decide) hW | refine places_some ?_ | exact places_none | refine places_cons ?_ ?_ | refine places_pair ?_ ?_ | exact places_nil | refine places_reg ?_ ?_ | exact places_regs | intro _ | apply State.each_keeps | apply State.tokenHome_keeps | apply State.setSlice_keeps | apply Keeps.ite | simp only [List.foldl_cons, List.foldl_nil] | apply Keeps.foldl | apply Keeps.foldlFst | extract_lets | split)

theorem State.judgeCrcs_keeps {W : Places} {a₀ s₀ : State} (p1) (hW : Within 0x2000000000000000000000000000000000778000000000000000000000000000000002000006240000401000002020081283c34206008004c7012000008404 W) (h₀ : Keeps W a₀ s₀) : Keeps W a₀ (State.judgeCrcs s₀ p1) := by
  unfold State.judgeCrcs
  with_reducible (repeat' first | assumption | exact Within.trans (by decide) hW | exact Within.bit (by decide) hW | refine places_some ?_ | exact places_none | refine places_cons ?_ ?_ | refine places_pair ?_ ?_ | exact places_nil | refine places_reg ?_ ?_ | exact places_regs | intro _ | apply State.each_keeps | apply State.setSlice_keeps | apply State.setSite_keeps | apply State.siteFault_keeps | apply State.raiseU_keeps | apply Keeps.ite | simp only [List.foldl_cons, List.foldl_nil] | apply Keeps.foldl | apply Keeps.foldlFst | extract_lets | split)

theorem execCtrlCrcReport_keeps {W : Places} {a₀ s₀ : State} (p0 p1) (hW : Within 0x2000000000000000000000000000000000778000000000000000000000000000000002000006240000401000002020081283c34206008004c7012000008404 W) (h₀ : Keeps W a₀ (s₀.elapse p0)) : KeepsOut W a₀ (execCtrlCrcReport p0 p1 s₀) := by
  unfold execCtrlCrcReport
  with_reducible (repeat' first | assumption | exact Within.trans (by decide) hW | exact Within.bit (by decide) hW | refine places_some ?_ | exact places_none | refine places_cons ?_ ?_ | refine places_pair ?_ ?_ | exact places_nil | refine places_reg ?_ ?_ | exact places_regs | intro _ | apply KeepsOut.next | apply KeepsOut.refused | apply KeepsOut.ite | apply State.sendCrcs_keeps | apply State.judgeCrcs_keeps | apply Keeps.ite | simp only [List.foldl_cons, List.foldl_nil] | apply Keeps.foldl | apply Keeps.foldlFst | extract_lets | split)

theorem State.writeJumpCfg_keeps {W : Places} {a₀ s₀ : State} (p1 p2) (hW : Within 0x2000000000000000 W) (h₀ : Keeps W a₀ s₀) : Keeps W a₀ (State.writeJumpCfg s₀ p1 p2) := by
  unfold State.writeJumpCfg
  with_reducible (repeat' first | assumption | exact Within.trans (by decide) hW | exact Within.bit (by decide) hW | refine places_some ?_ | exact places_none | refine places_cons ?_ ?_ | refine places_pair ?_ ?_ | exact places_nil | refine places_reg ?_ ?_ | exact places_regs | intro _ | apply State.each_keeps | apply State.set_keeps | apply Keeps.ite | simp only [List.foldl_cons, List.foldl_nil] | apply Keeps.foldl | apply Keeps.foldlFst | extract_lets | split)

theorem execSlpJumpCfgWrite_keeps {W : Places} {a₀ s₀ : State} (p0 p1 p2) (hW : Within 0x2000000000000000 W) (h₀ : Keeps W a₀ (s₀.elapse p0)) : KeepsOut W a₀ (execSlpJumpCfgWrite p0 p1 p2 s₀) := by
  unfold execSlpJumpCfgWrite
  with_reducible (repeat' first | assumption | exact Within.trans (by decide) hW | exact Within.bit (by decide) hW | refine places_some ?_ | exact places_none | refine places_cons ?_ ?_ | refine places_pair ?_ ?_ | exact places_nil | refine places_reg ?_ ?_ | exact places_regs | intro _ | apply KeepsOut.next | apply KeepsOut.refused | apply KeepsOut.ite | apply State.writeJumpCfg_keeps | apply Keeps.ite | simp only [List.foldl_cons, List.foldl_nil] | apply Keeps.foldl | apply Keeps.foldlFst | extract_lets | split)

theorem State.writeLooppre_keeps {W : Places} {a₀ s₀ : State} (p1 p2 p3) (hW : Within 0x10000000000000000 W) (h₀ : Keeps W a₀ s₀) : Keeps W a₀ (State.writeLooppre s₀ p1 p2 p3) := by
  unfold State.writeLooppre
  with_reducible (repeat' first | assumption | exact Within.trans (by decide) hW | exact Within.bit (by decide) hW | refine places_some ?_ | exact places_none | refine places_cons ?_ ?_ | refine places_pair ?_ ?_ | exact places_nil | refine places_reg ?_ ?_ | exact places_regs | intro _ | apply State.each_keeps | apply State.set_keeps | apply Keeps.ite | simp only [List.foldl_cons, List.foldl_nil] | apply Keeps.foldl | apply Keeps.foldlFst | extract_lets | split)

theorem execSlpLooppreWrite_keeps {W : Places} {a₀ s₀ : State} (p0 p1 p2 p3) (hW : Within 0x10000000000000000 W) (h₀ : Keeps W a₀ (s₀.elapse p0)) : KeepsOut W a₀ (execSlpLooppreWrite p0 p1 p2 p3 s₀) := by
  unfold execSlpLooppreWrite
  with_reducible (repeat' first | assumption | exact Within.trans (by decide) hW | exact Within.bit (by decide) hW | refine places_some ?_ | exact places_none | refine places_cons ?_ ?_ | refine places_pair ?_ ?_ | exact places_nil | refine places_reg ?_ ?_ | exact places_regs | intro _ | apply KeepsOut.next | apply KeepsOut.refused | apply KeepsOut.ite | apply State.writeLooppre_keeps | apply Keeps.ite | simp only [List.foldl_cons, List.foldl_nil] | apply Keeps.foldl | apply Keeps.foldlFst | extract_lets | split)

theorem State.writeMatchTmo_keeps {W : Places} {a₀ s₀ : State} (p1 p2) (hW : Within 0x20000000000000000 W) (h₀ : Keeps W a₀ s₀) : Keeps W a₀ (State.writeMatchTmo s₀ p1 p2) := by
  unfold State.writeMatchTmo
  with_reducible (repeat' first | assumption | exact Within.trans (by decide) hW | exact Within.bit (by decide) hW | refine places_some ?_ | exact places_none | refine places_cons ?_ ?_ | refine places_pair ?_ ?_ | exact places_nil | refine places_reg ?_ ?_ | exact places_regs | intro _ | apply State.each_keeps | apply State.set_keeps | apply Keeps.ite | simp only [List.foldl_cons, List.foldl_nil] | apply Keeps.foldl | apply Keeps.foldlFst | extract_lets | split)

theorem execSlpMatchTmoWrite_keeps {W : Places} {a₀ s₀ : State} (p0 p1 p2) (hW : Within 0x20000000000000000 W) (h₀ : Keeps W a₀ (s₀.elapse p0)) : KeepsOut W a₀ (execSlpMatchTmoWrite p0 p1 p2 s₀) := by
  unfold execSlpMatchTmoWrite
  with_reducible (repeat' first | assumption | exact Within.trans (by decide) hW | exact Within.bit (by decide) hW | refine places_some ?_ | exact places_none | refine places_cons ?_ ?_ | refine places_pair ?_ ?_ | exact places_nil | refine places_reg ?_ ?_ | exact places_regs | intro _ | apply KeepsOut.next | apply KeepsOut.refused | apply KeepsOut.ite | apply State.writeMatchTmo_keeps | apply Keeps.ite | simp only [List.foldl_cons, List.foldl_nil] | apply Keeps.foldl | apply Keeps.foldlFst | extract_lets | split)

end Sys2Proof.Machine
end

