-- ==== Sys2Proof/Laws/KeepSites.lean ====
section
/-! SUPPORT. What the operations and the commands of Machine/Sites.lean keep (Laws/Keeps.lean). -/

set_option linter.unusedTactic false
set_option linter.unreachableTactic false
set_option linter.unusedVariables false
set_option linter.unusedSimpArgs false

namespace Sys2Proof.Machine

theorem State.dirSeen_keeps {W : Places} {a₀ s₀ : State} (p1 p2) (hW : Within 0x2000000000000000000000000000000000778000000000000404000000000000000002000006240000401000002020081283c3420600800446012000008404 W) (h₀ : Keeps W a₀ s₀) : Keeps W a₀ (State.dirSeen s₀ p1 p2) := by
  unfold State.dirSeen
  with_reducible (repeat' first | assumption | exact Within.trans (by decide) hW | exact Within.bit (by decide) hW | refine places_some ?_ | exact places_none | refine places_cons ?_ ?_ | refine places_pair ?_ ?_ | exact places_nil | refine places_reg ?_ ?_ | exact places_regs | intro _ | apply State.eccRaise_keeps | apply Keeps.ite | simp only [List.foldl_cons, List.foldl_nil] | apply Keeps.foldl | apply Keeps.foldlFst | extract_lets | split)

theorem State.clearCtx_keeps {W : Places} {a₀ s₀ : State} (p1) (hW : Within 0x50120000000000000000000000000000 W) (h₀ : Keeps W a₀ s₀) : Keeps W a₀ (State.clearCtx s₀ p1) := by
  unfold State.clearCtx
  with_reducible (repeat' first | assumption | exact Within.trans (by decide) hW | exact Within.bit (by decide) hW | refine places_some ?_ | exact places_none | refine places_cons ?_ ?_ | refine places_pair ?_ ?_ | exact places_nil | refine places_reg ?_ ?_ | exact places_regs | intro _ | apply State.each_keeps | apply State.set_keeps | apply Keeps.ite | simp only [List.foldl_cons, List.foldl_nil] | apply Keeps.foldl | apply Keeps.foldlFst | extract_lets | split)

theorem State.loadCtx_keeps {W : Places} {a₀ s₀ : State} (p1 p2) (hW : Within 0x50160000000000000000000000000000 W) (h₀ : Keeps W a₀ s₀) : Keeps W a₀ (State.loadCtx s₀ p1 p2) := by
  unfold State.loadCtx
  with_reducible (repeat' first | assumption | exact Within.trans (by decide) hW | exact Within.bit (by decide) hW | refine places_some ?_ | exact places_none | refine places_cons ?_ ?_ | refine places_pair ?_ ?_ | exact places_nil | refine places_reg ?_ ?_ | exact places_regs | intro _ | apply State.set_keeps | apply State.clearCtx_keeps | apply State.setCtx_keeps | apply Keeps.ite | simp only [List.foldl_cons, List.foldl_nil] | apply Keeps.foldl | apply Keeps.foldlFst | extract_lets | split)

theorem State.tellState_keeps {W : Places} {a₀ s₀ : State} (p1 p2) (hW : Within 0x200000000000000000000000000000000000000000000000000000000000000000000000000000000000000000000000000000000000000000000000000000 W) (h₀ : Keeps W a₀ s₀) : Keeps W a₀ (State.tellState s₀ p1 p2) := by
  unfold State.tellState
  with_reducible (repeat' first | assumption | exact Within.trans (by decide) hW | exact Within.bit (by decide) hW | refine places_some ?_ | exact places_none | refine places_cons ?_ ?_ | refine places_pair ?_ ?_ | exact places_nil | refine places_reg ?_ ?_ | exact places_regs | intro _ | apply State.sendToken_keeps | apply Keeps.ite | simp only [List.foldl_cons, List.foldl_nil] | apply Keeps.foldl | apply Keeps.foldlFst | extract_lets | split)

theorem State.tellArmed_keeps {W : Places} {a₀ s₀ : State} (p1) (hW : Within 0x200000000000000000000000000000000000000000000000000000000000000000000000000000000000000000000000000000000000000000000000000000 W) (h₀ : Keeps W a₀ s₀) : Keeps W a₀ (State.tellArmed s₀ p1) := by
  unfold State.tellArmed
  with_reducible (repeat' first | assumption | exact Within.trans (by decide) hW | exact Within.bit (by decide) hW | refine places_some ?_ | exact places_none | refine places_cons ?_ ?_ | refine places_pair ?_ ?_ | exact places_nil | refine places_reg ?_ ?_ | exact places_regs | intro _ | apply State.tellState_keeps | apply Keeps.ite | simp only [List.foldl_cons, List.foldl_nil] | apply Keeps.foldl | apply Keeps.foldlFst | extract_lets | split)

theorem State.enterLadder_keeps {W : Places} {a₀ s₀ : State} (p1) (hW : Within 0x200000000000000000000000000000000000000000000000000000000000000000000000000000000000000000000000000000000000000000002000000000 W) (h₀ : Keeps W a₀ s₀) : Keeps W a₀ (State.enterLadder s₀ p1) := by
  unfold State.enterLadder
  with_reducible (repeat' first | assumption | exact Within.trans (by decide) hW | exact Within.bit (by decide) hW | refine places_some ?_ | exact places_none | refine places_cons ?_ ?_ | refine places_pair ?_ ?_ | exact places_nil | refine places_reg ?_ ?_ | exact places_regs | intro _ | apply State.each_keeps | apply State.set_keeps | apply State.setSite_keeps | apply State.askSites_keeps | apply Keeps.ite | simp only [List.foldl_cons, List.foldl_nil] | apply Keeps.foldl | apply Keeps.foldlFst | extract_lets | split)

theorem State.alignedSet_keeps {W : Places} {a₀ s₀ : State} (p1) (hW : Within 0x200000000000000000000000000000000000000000000000000000000000000000000000000000000000000000000000000000000000000000002000000000 W) (h₀ : Keeps W a₀ s₀) : Keeps W a₀ (State.alignedSet s₀ p1) := by
  unfold State.alignedSet
  with_reducible (repeat' first | assumption | exact Within.trans (by decide) hW | exact Within.bit (by decide) hW | refine places_some ?_ | exact places_none | refine places_cons ?_ ?_ | refine places_pair ?_ ?_ | exact places_nil | refine places_reg ?_ ?_ | exact places_regs | intro _ | apply State.enterLadder_keeps | apply Keeps.ite | simp only [List.foldl_cons, List.foldl_nil] | apply Keeps.foldl | apply Keeps.foldlFst | extract_lets | split)

theorem State.readySlice_keeps {W : Places} {a₀ s₀ : State} (p1) (hW : Within 0x400000000000000 W) (h₀ : Keeps W a₀ s₀) : Keeps W a₀ (State.readySlice s₀ p1) := by
  unfold State.readySlice
  with_reducible (repeat' first | assumption | exact Within.trans (by decide) hW | exact Within.bit (by decide) hW | refine places_some ?_ | exact places_none | refine places_cons ?_ ?_ | refine places_pair ?_ ?_ | exact places_nil | refine places_reg ?_ ?_ | exact places_regs | intro _ | apply State.setSlice_keeps | apply State.set_keeps | apply Keeps.ite | simp only [List.foldl_cons, List.foldl_nil] | apply Keeps.foldl | apply Keeps.foldlFst | extract_lets | split)

theorem State.armAccepted_keeps {W : Places} {a₀ s₀ : State} (p1 p2 p3) (hW : Within 0x200000000000000000000000000000000060000000000000000000000000000000000000000624000040100000202058160000000600800445012000010004 W) (h₀ : Keeps W a₀ s₀) : Keeps W a₀ (State.armAccepted s₀ p1 p2 p3) := by
  unfold State.armAccepted
  with_reducible (repeat' first | assumption | exact Within.trans (by decide) hW | exact Within.bit (by decide) hW | refine places_some ?_ | exact places_none | refine places_cons ?_ ?_ | refine places_pair ?_ ?_ | exact places_nil | refine places_reg ?_ ?_ | exact places_regs | intro _ | apply State.unsleep_keeps | apply State.setSite_keeps | apply State.loadCtx_keeps | apply State.each_keeps | apply State.readySlice_keeps | apply State.tellArmed_keeps | apply State.enterState_keeps | apply State.set_keeps | apply State.siteFault_keeps | apply State.alignedSet_keeps | apply State.enterLadder_keeps | apply Keeps.ite | simp only [List.foldl_cons, List.foldl_nil] | apply Keeps.foldl | apply Keeps.foldlFst | extract_lets | split)

theorem State.armSite_keeps {W : Places} {a₀ s₀ : State} (p1 p2) (hW : Within 0x2000000000000000000000000000000000778000000000000404000000000000000002000006240000401000002020581683c3420600800447012000018404 W) (h₀ : Keeps W a₀ s₀) : Keeps W a₀ (State.armSite s₀ p1 p2) := by
  unfold State.armSite
  with_reducible (repeat' first | assumption | exact Within.trans (by decide) hW | exact Within.bit (by decide) hW | refine places_some ?_ | exact places_none | refine places_cons ?_ ?_ | refine places_pair ?_ ?_ | exact places_nil | refine places_reg ?_ ?_ | exact places_regs | intro _ | apply State.armAccepted_keeps | apply State.answer_keeps | apply State.dirSeen_keeps | apply Keeps.ite | simp only [List.foldl_cons, List.foldl_nil] | apply Keeps.foldl | apply Keeps.foldlFst | extract_lets | split)

theorem State.siteCmd_keeps {W : Places} {a₀ s₀ : State} (p1 p2) (hW : Within 0x10000000000 W) (hf : ∀ u, Keeps W a₀ u → Keeps W a₀ (p2 u)) (h₀ : Keeps W a₀ s₀) : Keeps W a₀ (State.siteCmd s₀ p1 p2) := by
  unfold State.siteCmd
  with_reducible (repeat' first | assumption | exact Within.trans (by decide) hW | exact Within.bit (by decide) hW | refine places_some ?_ | exact places_none | refine places_cons ?_ ?_ | refine places_pair ?_ ?_ | exact places_nil | refine places_reg ?_ ?_ | exact places_regs | intro _ | apply State.set_keeps | apply hf | apply Keeps.ite | simp only [List.foldl_cons, List.foldl_nil] | apply Keeps.foldl | apply Keeps.foldlFst | extract_lets | split)

theorem execSiteArm_keeps {W : Places} {a₀ s₀ : State} (p0 p1 p2) (hW : Within 0x2000000000000000000000000000000000778000000000000404000000000000000002000006240000401000002020581683c3420600800447012000018404 W) (h₀ : Keeps W a₀ (s₀.elapse p0)) : KeepsOut W a₀ (execSiteArm p0 p1 p2 s₀) := by
  unfold execSiteArm
  with_reducible (repeat' first | assumption | exact Within.trans (by decide) hW | exact Within.bit (by decide) hW | refine places_some ?_ | exact places_none | refine places_cons ?_ ?_ | refine places_pair ?_ ?_ | exact places_nil | refine places_reg ?_ ?_ | exact places_regs | intro _ | apply KeepsOut.next | apply KeepsOut.refused | apply KeepsOut.ite | apply State.siteCmd_keeps | apply State.armSite_keeps | apply Keeps.ite | simp only [List.foldl_cons, List.foldl_nil] | apply Keeps.foldl | apply Keeps.foldlFst | extract_lets | split)

theorem State.abortSite_keeps {W : Places} {a₀ s₀ : State} (p1) (hW : Within 0x10000000000 W) (h₀ : Keeps W a₀ s₀) : Keeps W a₀ (State.abortSite s₀ p1) := by
  unfold State.abortSite
  with_reducible (repeat' first | assumption | exact Within.trans (by decide) hW | exact Within.bit (by decide) hW | refine places_some ?_ | exact places_none | refine places_cons ?_ ?_ | refine places_pair ?_ ?_ | exact places_nil | refine places_reg ?_ ?_ | exact places_regs | intro _ | apply State.setSite_keeps | apply State.set_keeps | apply State.answer_keeps | apply Keeps.ite | simp only [List.foldl_cons, List.foldl_nil] | apply Keeps.foldl | apply Keeps.foldlFst | extract_lets | split)

theorem execSiteAbort_keeps {W : Places} {a₀ s₀ : State} (p0 p1) (hW : Within 0x10000000000 W) (h₀ : Keeps W a₀ (s₀.elapse p0)) : KeepsOut W a₀ (execSiteAbort p0 p1 s₀) := by
  unfold execSiteAbort
  with_reducible (repeat' first | assumption | exact Within.trans (by decide) hW | exact Within.bit (by decide) hW | refine places_some ?_ | exact places_none | refine places_cons ?_ ?_ | refine places_pair ?_ ?_ | exact places_nil | refine places_reg ?_ ?_ | exact places_regs | intro _ | apply KeepsOut.next | apply KeepsOut.refused | apply KeepsOut.ite | apply State.siteCmd_keeps | apply State.abortSite_keeps | apply Keeps.ite | simp only [List.foldl_cons, List.foldl_nil] | apply Keeps.foldl | apply Keeps.foldlFst | extract_lets | split)

theorem State.ackDone_keeps {W : Places} {a₀ s₀ : State} (p1) (hW : Within 0x200000000000000000000000000000000000000000000000000000000000000000000000000000000000000000002000000000000000000000002000000004 W) (h₀ : Keeps W a₀ s₀) : Keeps W a₀ (State.ackDone s₀ p1) := by
  unfold State.ackDone
  with_reducible (repeat' first | assumption | exact Within.trans (by decide) hW | exact Within.bit (by decide) hW | refine places_some ?_ | exact places_none | refine places_cons ?_ ?_ | refine places_pair ?_ ?_ | exact places_nil | refine places_reg ?_ ?_ | exact places_regs | intro _ | apply State.tellState_keeps | apply State.enterState_keeps | apply Keeps.ite | simp only [List.foldl_cons, List.foldl_nil] | apply Keeps.foldl | apply Keeps.foldlFst | extract_lets | split)

theorem State.ackSite_keeps {W : Places} {a₀ s₀ : State} (p1) (hW : Within 0x200000000000000000000000000000000000000000000000000000000000000000000000000000000000000000002000000000000000000000012000000004 W) (h₀ : Keeps W a₀ s₀) : Keeps W a₀ (State.ackSite s₀ p1) := by
  unfold State.ackSite
  with_reducible (repeat' first | assumption | exact Within.trans (by decide) hW | exact Within.bit (by decide) hW | refine places_some ?_ | exact places_none | refine places_cons ?_ ?_ | refine places_pair ?_ ?_ | exact places_nil | refine places_reg ?_ ?_ | exact places_regs | intro _ | apply State.ackDone_keeps | apply State.answer_keeps | apply Keeps.ite | simp only [List.foldl_cons, List.foldl_nil] | apply Keeps.foldl | apply Keeps.foldlFst | extract_lets | split)

theorem execSiteAck_keeps {W : Places} {a₀ s₀ : State} (p0 p1) (hW : Within 0x200000000000000000000000000000000000000000000000000000000000000000000000000000000000000000002000000000000000000000012000000004 W) (h₀ : Keeps W a₀ (s₀.elapse p0)) : KeepsOut W a₀ (execSiteAck p0 p1 s₀) := by
  unfold execSiteAck
  with_reducible (repeat' first | assumption | exact Within.trans (by decide) hW | exact Within.bit (by decide) hW | refine places_some ?_ | exact places_none | refine places_cons ?_ ?_ | refine places_pair ?_ ?_ | exact places_nil | refine places_reg ?_ ?_ | exact places_regs | intro _ | apply KeepsOut.next | apply KeepsOut.refused | apply KeepsOut.ite | apply State.siteCmd_keeps | apply State.ackSite_keeps | apply Keeps.ite | simp only [List.foldl_cons, List.foldl_nil] | apply Keeps.foldl | apply Keeps.foldlFst | extract_lets | split)

theorem State.resetSite_keeps {W : Places} {a₀ s₀ : State} (p1) (hW : Within 0x200000000000000000000000000000000000000000000000000000000000000000000000000000000000000000000000000000000000000000010000000000 W) (h₀ : Keeps W a₀ s₀) : Keeps W a₀ (State.resetSite s₀ p1) := by
  unfold State.resetSite
  with_reducible (repeat' first | assumption | exact Within.trans (by decide) hW | exact Within.bit (by decide) hW | refine places_some ?_ | exact places_none | refine places_cons ?_ ?_ | refine places_pair ?_ ?_ | exact places_nil | refine places_reg ?_ ?_ | exact places_regs | intro _ | apply State.sendToken_keeps | apply State.setSite_keeps | apply State.set_keeps | apply State.answer_keeps | apply Keeps.ite | simp only [List.foldl_cons, List.foldl_nil] | apply Keeps.foldl | apply Keeps.foldlFst | extract_lets | split)

theorem execSiteReset_keeps {W : Places} {a₀ s₀ : State} (p0 p1) (hW : Within 0x200000000000000000000000000000000000000000000000000000000000000000000000000000000000000000000000000000000000000000010000000000 W) (h₀ : Keeps W a₀ (s₀.elapse p0)) : KeepsOut W a₀ (execSiteReset p0 p1 s₀) := by
  unfold execSiteReset
  with_reducible (repeat' first | assumption | exact Within.trans (by decide) hW | exact Within.bit (by decide) hW | refine places_some ?_ | exact places_none | refine places_cons ?_ ?_ | refine places_pair ?_ ?_ | exact places_nil | refine places_reg ?_ ?_ | exact places_regs | intro _ | apply KeepsOut.next | apply KeepsOut.refused | apply KeepsOut.ite | apply State.siteCmd_keeps | apply State.resetSite_keeps | apply Keeps.ite | simp only [List.foldl_cons, List.foldl_nil] | apply Keeps.foldl | apply Keeps.foldlFst | extract_lets | split)

theorem State.clearFails_keeps {W : Places} {a₀ s₀ : State} (p1) (hW : Within 0x187c0310000000000000000000000 W) (h₀ : Keeps W a₀ s₀) : Keeps W a₀ (State.clearFails s₀ p1) := by
  unfold State.clearFails
  with_reducible (repeat' first | assumption | exact Within.trans (by decide) hW | exact Within.bit (by decide) hW | refine places_some ?_ | exact places_none | refine places_cons ?_ ?_ | refine places_pair ?_ ?_ | exact places_nil | refine places_reg ?_ ?_ | exact places_regs | intro _ | apply State.clearFields_keeps | apply State.each_keeps | apply State.set_keeps | apply State.setSlice_keeps | apply Keeps.ite | simp only [List.foldl_cons, List.foldl_nil] | apply Keeps.foldl | apply Keeps.foldlFst | extract_lets | split)

theorem State.clearAcqCounts_keeps {W : Places} {a₀ s₀ : State} (p1) (hW : Within 0x600000000000000000000000000000000000000 W) (h₀ : Keeps W a₀ s₀) : Keeps W a₀ (State.clearAcqCounts s₀ p1) := by
  unfold State.clearAcqCounts
  with_reducible (repeat' first | assumption | exact Within.trans (by decide) hW | exact Within.bit (by decide) hW | refine places_some ?_ | exact places_none | refine places_cons ?_ ?_ | refine places_pair ?_ ?_ | exact places_nil | refine places_reg ?_ ?_ | exact places_regs | intro _ | apply State.clearFields_keeps | apply Keeps.ite | simp only [List.foldl_cons, List.foldl_nil] | apply Keeps.foldl | apply Keeps.foldlFst | extract_lets | split)

theorem State.resetSlice_keeps {W : Places} {a₀ s₀ : State} (p1) (hW : Within 0x6000000000000000000000000000000000000000000000000000000000000000000002060a84dc44000000000000 W) (h₀ : Keeps W a₀ s₀) : Keeps W a₀ (State.resetSlice s₀ p1) := by
  unfold State.resetSlice
  with_reducible (repeat' first | assumption | exact Within.trans (by decide) hW | exact Within.bit (by decide) hW | refine places_some ?_ | exact places_none | refine places_cons ?_ ?_ | refine places_pair ?_ ?_ | exact places_nil | refine places_reg ?_ ?_ | exact places_regs | intro _ | apply State.forceMasks_keeps | apply State.idleSlice_keeps | apply State.clearFields_keeps | apply State.setSlice_keeps | apply State.dropAll_keeps | apply Keeps.ite | simp only [List.foldl_cons, List.foldl_nil] | apply Keeps.foldl | apply Keeps.foldlFst | extract_lets | split)

theorem State.resetCtx_keeps {W : Places} {a₀ s₀ : State} (p1) (hW : Within 0xdd3e0000000000000000000000000000 W) (h₀ : Keeps W a₀ s₀) : Keeps W a₀ (State.resetCtx s₀ p1) := by
  unfold State.resetCtx
  with_reducible (repeat' first | assumption | exact Within.trans (by decide) hW | exact Within.bit (by decide) hW | refine places_some ?_ | exact places_none | refine places_cons ?_ ?_ | refine places_pair ?_ ?_ | exact places_nil | refine places_reg ?_ ?_ | exact places_regs | intro _ | apply State.clearFields_keeps | apply State.each_keeps | apply State.set_keeps | apply State.setCtx_keeps | apply Keeps.ite | simp only [List.foldl_cons, List.foldl_nil] | apply Keeps.foldl | apply Keeps.foldlFst | extract_lets | split)

theorem State.clearMeas_keeps {W : Places} {a₀ s₀ : State} (p1) (hW : Within 0x1ff00000000000000000000000000000000000000000 W) (h₀ : Keeps W a₀ s₀) : Keeps W a₀ (State.clearMeas s₀ p1) := by
  unfold State.clearMeas
  with_reducible (repeat' first | assumption | exact Within.trans (by decide) hW | exact Within.bit (by decide) hW | refine places_some ?_ | exact places_none | refine places_cons ?_ ?_ | refine places_pair ?_ ?_ | exact places_nil | refine places_reg ?_ ?_ | exact places_regs | intro _ | apply State.set_keeps | apply Keeps.ite | simp only [List.foldl_cons, List.foldl_nil] | apply Keeps.foldl | apply Keeps.foldlFst | extract_lets | split)

theorem State.resetUnits_keeps {W : Places} {a₀ s₀ : State} (p1) (hW : Within 0x7ff00000200000000000000000000000000000000000 W) (h₀ : Keeps W a₀ s₀) : Keeps W a₀ (State.resetUnits s₀ p1) := by
  unfold State.resetUnits
  with_reducible (repeat' first | assumption | exact Within.trans (by decide) hW | exact Within.bit (by decide) hW | refine places_some ?_ | exact places_none | refine places_cons ?_ ?_ | refine places_pair ?_ ?_ | exact places_nil | refine places_reg ?_ ?_ | exact places_regs | intro _ | apply State.each_keeps | apply State.setAcqU_keeps | apply State.disarmUnit_keeps | apply State.set_keeps | apply State.clearMeas_keeps | apply State.setTiaU_keeps | apply Keeps.ite | simp only [List.foldl_cons, List.foldl_nil] | apply Keeps.foldl | apply Keeps.foldlFst | extract_lets | split)

theorem State.resetNow_keeps {W : Places} {a₀ s₀ : State} (p1) (hW : Within 0x6000000000000000000000000009880000000000062400007ff006002020dd3f87c033060a84dc453d2000008404 W) (h₀ : Keeps W a₀ s₀) : Keeps W a₀ (State.resetNow s₀ p1) := by
  unfold State.resetNow
  with_reducible (repeat' first | assumption | exact Within.trans (by decide) hW | exact Within.bit (by decide) hW | refine places_some ?_ | exact places_none | refine places_cons ?_ ?_ | refine places_pair ?_ ?_ | exact places_nil | refine places_reg ?_ ?_ | exact places_regs | intro _ | apply State.safSiteReset_keeps | apply State.resetUnits_keeps | apply State.withdrawLadder_keeps | apply State.closeTrim_keeps | apply State.stopCtx_keeps | apply State.answerAbort_keeps | apply State.clearFails_keeps | apply State.resetCtx_keeps | apply State.each_keeps | apply State.resetSlice_keeps | apply State.clearFields_keeps | apply State.clearAcqCounts_keeps | apply State.setSite_keeps | apply State.enterState_keeps | apply State.set_keeps | apply State.answer_keeps | apply Keeps.ite | simp only [List.foldl_cons, List.foldl_nil] | apply Keeps.foldl | apply Keeps.foldlFst | extract_lets | split)

theorem execSiteResetRelease_keeps {W : Places} {a₀ s₀ : State} (p0 p1) (hW : Within 0x6000000000000000000000000009880000000000062400007ff006002020dd3f87c033060a84dc453d2000008404 W) (h₀ : Keeps W a₀ (s₀.elapse p0)) : KeepsOut W a₀ (execSiteResetRelease p0 p1 s₀) := by
  unfold execSiteResetRelease
  with_reducible (repeat' first | assumption | exact Within.trans (by decide) hW | exact Within.bit (by decide) hW | refine places_some ?_ | exact places_none | refine places_cons ?_ ?_ | refine places_pair ?_ ?_ | exact places_nil | refine places_reg ?_ ?_ | exact places_regs | intro _ | apply KeepsOut.next | apply KeepsOut.refused | apply KeepsOut.ite | apply State.resetNow_keeps | apply Keeps.ite | simp only [List.foldl_cons, List.foldl_nil] | apply Keeps.foldl | apply Keeps.foldlFst | extract_lets | split)

theorem State.unarm_keeps {W : Places} {a₀ s₀ : State} (p1) (hW : Within 0x200000000000000000000000000000000000000000000000000000000000000000000000000000000040100000002000020000000000000400812000000004 W) (h₀ : Keeps W a₀ s₀) : Keeps W a₀ (State.unarm s₀ p1) := by
  unfold State.unarm
  with_reducible (repeat' first | assumption | exact Within.trans (by decide) hW | exact Within.bit (by decide) hW | refine places_some ?_ | exact places_none | refine places_cons ?_ ?_ | refine places_pair ?_ ?_ | exact places_nil | refine places_reg ?_ ?_ | exact places_regs | intro _ | apply State.each_keeps | apply State.endMeas_keeps | apply State.set_keeps | apply State.stopCtx_keeps | apply State.answerAbort_keeps | apply State.setSlice_keeps | apply State.setSite_keeps | apply State.enterState_keeps | apply State.tellState_keeps | apply Keeps.ite | simp only [List.foldl_cons, List.foldl_nil] | apply Keeps.foldl | apply Keeps.foldlFst | extract_lets | split)

theorem execStaleCheck_keeps {W : Places} {a₀ s₀ : State} (p0 p1) (hW : Within 0x200000000000000000000000000000000000000000000000000000000000000000000000000000000040100000002000020000000000000400812000000004 W) (h₀ : Keeps W a₀ (s₀.elapse p0)) : KeepsOut W a₀ (execStaleCheck p0 p1 s₀) := by
  unfold execStaleCheck
  with_reducible (repeat' first | assumption | exact Within.trans (by decide) hW | exact Within.bit (by decide) hW | refine places_some ?_ | exact places_none | refine places_cons ?_ ?_ | refine places_pair ?_ ?_ | exact places_nil | refine places_reg ?_ ?_ | exact places_regs | intro _ | apply KeepsOut.next | apply KeepsOut.refused | apply KeepsOut.ite | apply State.tokenHome_keeps | apply State.setSite_keeps | apply State.each_keeps | apply State.unarm_keeps | apply State.formStart_keeps | apply Keeps.ite | simp only [List.foldl_cons, List.foldl_nil] | apply Keeps.foldl | apply Keeps.foldlFst | extract_lets | split)

theorem State.startSlice_keeps {W : Places} {a₀ s₀ : State} (p1 p2) (hW : Within 0x2000000000000000000000000000000000778000000000000000000000000000000002000006240000401000002020081283c3420600801447012000008404 W) (h₀ : Keeps W a₀ s₀) : Keeps W a₀ (State.startSlice s₀ p1 p2) := by
  unfold State.startSlice
  with_reducible (repeat' first | assumption | exact Within.trans (by decide) hW | exact Within.bit (by decide) hW | refine places_some ?_ | exact places_none | refine places_cons ?_ ?_ | refine places_pair ?_ ?_ | exact places_nil | refine places_reg ?_ ?_ | exact places_regs | intro _ | apply State.finishEnd_keeps | apply State.setSlice_keeps | apply State.set_keeps | apply Keeps.ite | simp only [List.foldl_cons, List.foldl_nil] | apply Keeps.foldl | apply Keeps.foldlFst | extract_lets | split)

theorem State.startSlices_keeps {W : Places} {a₀ s₀ : State} (p1 p2) (hW : Within 0x2000000000000000000000000000000000778000000000000000000000000000000002000006240000401000002020081283c3420600801457012000008404 W) (h₀ : Keeps W a₀ s₀) : Keeps W a₀ (State.startSlices s₀ p1 p2) := by
  unfold State.startSlices
  with_reducible (repeat' first | assumption | exact Within.trans (by decide) hW | exact Within.bit (by decide) hW | refine places_some ?_ | exact places_none | refine places_cons ?_ ?_ | refine places_pair ?_ ?_ | exact places_nil | refine places_reg ?_ ?_ | exact places_regs | intro _ | apply State.each_keeps | apply State.startSlice_keeps | apply State.setAcqU_keeps | apply State.checkPoint_keeps | apply Keeps.ite | simp only [List.foldl_cons, List.foldl_nil] | apply Keeps.foldl | apply Keeps.foldlFst | extract_lets | split)

theorem State.startTest_keeps {W : Places} {a₀ s₀ : State} (p1 p2) (hW : Within 0x2000000000000000000000000000000000778000000000000000000000000000000002000006240000401006002020081387c3730600801457032000048404 W) (h₀ : Keeps W a₀ s₀) : Keeps W a₀ (State.startTest s₀ p1 p2) := by
  unfold State.startTest
  with_reducible (repeat' first | assumption | exact Within.trans (by decide) hW | exact Within.bit (by decide) hW | refine places_some ?_ | exact places_none | refine places_cons ?_ ?_ | refine places_pair ?_ ?_ | exact places_nil | refine places_reg ?_ ?_ | exact places_regs | intro _ | apply State.setPlan_keeps | apply State.set_keeps | apply State.clearAcqCounts_keeps | apply State.clearFails_keeps | apply State.setCtx_keeps | apply State.enterState_keeps | apply State.setSite_keeps | apply State.tellState_keeps | apply State.startSlices_keeps | apply Keeps.ite | simp only [List.foldl_cons, List.foldl_nil] | apply Keeps.foldl | apply Keeps.foldlFst | extract_lets | split)

theorem execStartInstant_keeps {W : Places} {a₀ s₀ : State} (p0 p1) (hW : Within 0x2000000000000000000000000000000000778000000000000000000000000000000002000006240000401006002020081387c3730600801457032000048404 W) (h₀ : Keeps W a₀ (s₀.elapse p0)) : KeepsOut W a₀ (execStartInstant p0 p1 s₀) := by
  unfold execStartInstant
  with_reducible (repeat' first | assumption | exact Within.trans (by decide) hW | exact Within.bit (by decide) hW | refine places_some ?_ | exact places_none | refine places_cons ?_ ?_ | refine places_pair ?_ ?_ | exact places_nil | refine places_reg ?_ ?_ | exact places_regs | intro _ | apply KeepsOut.next | apply KeepsOut.refused | apply KeepsOut.ite | apply State.startTest_keeps | apply State.setCtx_keeps | apply State.setSite_keeps | apply State.startSlices_keeps | apply Keeps.ite | simp only [List.foldl_cons, List.foldl_nil] | apply Keeps.foldl | apply Keeps.foldlFst | extract_lets | split)

theorem State.drewFar_keeps {W : Places} {a₀ s₀ : State} (p1) (h₀ : Keeps W a₀ s₀) : Keeps W a₀ (State.drewFar s₀ p1) := by
  unfold State.drewFar
  with_reducible (repeat' first | assumption | exact Within.trans (by decide) hW | exact Within.bit (by decide) hW | refine places_some ?_ | exact places_none | refine places_cons ?_ ?_ | refine places_pair ?_ ?_ | exact places_nil | refine places_reg ?_ ?_ | exact places_regs | intro _ | apply State.drew_keeps | apply Keeps.ite | simp only [List.foldl_cons, List.foldl_nil] | apply Keeps.foldl | apply Keeps.foldlFst | extract_lets | split)

theorem State.completeTest_keeps {W : Places} {a₀ s₀ : State} (p1) (hW : Within 0x2000000000000000000000000000000000778000000000000000000000000000000002000006240000401000002020081283c3420600800447012000008404 W) (h₀ : Keeps W a₀ s₀) : Keeps W a₀ (State.completeTest s₀ p1) := by
  unfold State.completeTest
  with_reducible (repeat' first | assumption | exact Within.trans (by decide) hW | exact Within.bit (by decide) hW | refine places_some ?_ | exact places_none | refine places_cons ?_ ?_ | refine places_pair ?_ ?_ | exact places_nil | refine places_reg ?_ ?_ | exact places_regs | intro _ | apply State.each_keeps | apply State.idleFault_keeps | apply State.idleSlice_keeps | apply State.finishEnd_keeps | apply State.enterDone_keeps | apply State.tellState_keeps | apply Keeps.ite | simp only [List.foldl_cons, List.foldl_nil] | apply Keeps.foldl | apply Keeps.foldlFst | extract_lets | split)

theorem execStoppingComplete_keeps {W : Places} {a₀ s₀ : State} (p0 p1) (hW : Within 0x2000000000000000000000000000000000778000000000000000000000000000000002000006240000401000002020081283c3420600800447012000008404 W) (h₀ : Keeps W a₀ (s₀.elapse p0)) : KeepsOut W a₀ (execStoppingComplete p0 p1 s₀) := by
  unfold execStoppingComplete
  with_reducible (repeat' first | assumption | exact Within.trans (by decide) hW | exact Within.bit (by decide) hW | refine places_some ?_ | exact places_none | refine places_cons ?_ ?_ | refine places_pair ?_ ?_ | exact places_nil | refine places_reg ?_ ?_ | exact places_regs | intro _ | apply KeepsOut.next | apply KeepsOut.refused | apply KeepsOut.ite | apply State.completeTest_keeps | apply State.drewFar_keeps | apply Keeps.ite | simp only [List.foldl_cons, List.foldl_nil] | apply Keeps.foldl | apply Keeps.foldlFst | extract_lets | split)

theorem execJoinSend_keeps {W : Places} {a₀ s₀ : State} (p0 p1) (hW : Within 0x200000000000000000000000000000000000000000000000000000000000000000000000000000000000000000000000000000000000000000000000000000 W) (h₀ : Keeps W a₀ (s₀.elapse p0)) : KeepsOut W a₀ (execJoinSend p0 p1 s₀) := by
  unfold execJoinSend
  with_reducible (repeat' first | assumption | exact Within.trans (by decide) hW | exact Within.bit (by decide) hW | refine places_some ?_ | exact places_none | refine places_cons ?_ ?_ | refine places_pair ?_ ?_ | exact places_nil | refine places_reg ?_ ?_ | exact places_regs | intro _ | apply KeepsOut.next | apply KeepsOut.refused | apply KeepsOut.ite | apply State.tokenHome_keeps | apply State.setSite_keeps | apply Keeps.ite | simp only [List.foldl_cons, List.foldl_nil] | apply Keeps.foldl | apply Keeps.foldlFst | extract_lets | split)

end Sys2Proof.Machine
end

