-- ==== Sys2Proof/Laws/KeepPlan.lean ====
section
/-! SUPPORT. What the operations and the commands of Machine/Plan.lean keep (Laws/Keeps.lean). -/

set_option linter.unusedTactic false
set_option linter.unreachableTactic false
set_option linter.unusedVariables false
set_option linter.unusedSimpArgs false

namespace Sys2Proof.Machine

theorem State.recordDut_keeps {W : Places} {a₀ s₀ : State} (p1 p2) (hW : Within 0x60000000000000000000000018000000000000000000000000000000000000000000000000000000000000000000 W) (h₀ : Keeps W a₀ s₀) : Keeps W a₀ (State.recordDut s₀ p1 p2) := by
  unfold State.recordDut
  with_reducible (repeat' first | assumption | exact Within.trans (by decide) hW | exact Within.bit (by decide) hW | refine places_some ?_ | exact places_none | refine places_cons ?_ ?_ | refine places_pair ?_ ?_ | exact places_nil | refine places_reg ?_ ?_ | exact places_regs | intro _ | apply State.log_keeps | apply State.drew_keeps | apply State.count_keeps | apply State.set_keeps | apply Keeps.ite | simp only [List.foldl_cons, List.foldl_nil] | apply Keeps.foldl | apply Keeps.foldlFst | extract_lets | split)

theorem State.endDut_keeps {W : Places} {a₀ s₀ : State} (p1 p2 p3) (hW : Within 0x6000000000000000000000001c000000000000000000000000000000000000000000000000000000000000000000 W) (h₀ : Keeps W a₀ s₀) : Keeps W a₀ (State.endDut s₀ p1 p2 p3) := by
  unfold State.endDut
  with_reducible (repeat' first | assumption | exact Within.trans (by decide) hW | exact Within.bit (by decide) hW | refine places_some ?_ | exact places_none | refine places_cons ?_ ?_ | refine places_pair ?_ ?_ | exact places_nil | refine places_reg ?_ ?_ | exact places_regs | intro _ | apply State.setPlan_keeps | apply State.recordDut_keeps | apply State.planPause_keeps | apply State.set_keeps | apply Keeps.ite | simp only [List.foldl_cons, List.foldl_nil] | apply Keeps.foldl | apply Keeps.foldlFst | extract_lets | split)

theorem State.notRun_keeps {W : Places} {a₀ s₀ : State} (p1 p2 p3) (h₀ : Keeps W a₀ s₀) : Keeps W a₀ (State.notRun s₀ p1 p2 p3) := by
  unfold State.notRun
  with_reducible (repeat' first | assumption | exact Within.trans (by decide) hW | exact Within.bit (by decide) hW | refine places_some ?_ | exact places_none | refine places_cons ?_ ?_ | refine places_pair ?_ ?_ | exact places_nil | refine places_reg ?_ ?_ | exact places_regs | intro _ | apply State.log_keeps | apply Keeps.ite | simp only [List.foldl_cons, List.foldl_nil] | apply Keeps.foldl | apply Keeps.foldlFst | extract_lets | split)

theorem State.planRefused_keeps {W : Places} {a₀ s₀ : State} (p1 p2 p3) (hW : Within 0x6000000000000000000000001c000000000000000000000000000000000000000000000000000000000000000000 W) (h₀ : Keeps W a₀ s₀) : Keeps W a₀ (State.planRefused s₀ p1 p2 p3) := by
  unfold State.planRefused
  with_reducible (repeat' first | assumption | exact Within.trans (by decide) hW | exact Within.bit (by decide) hW | refine places_some ?_ | exact places_none | refine places_cons ?_ ?_ | refine places_pair ?_ ?_ | exact places_nil | refine places_reg ?_ ?_ | exact places_regs | intro _ | apply State.setPlan_keeps | apply State.endDut_keeps | apply State.notRun_keeps | apply Keeps.ite | simp only [List.foldl_cons, List.foldl_nil] | apply Keeps.foldl | apply Keeps.foldlFst | extract_lets | split)

theorem State.planArm_keeps {W : Places} {a₀ s₀ : State} (p1) (hW : Within 0x20000000000000000000000000000000007780000000000004040000001c0000000002000006240000401000002020581683c342060080044701a000018404 W) (h₀ : Keeps W a₀ s₀) : Keeps W a₀ (State.planArm s₀ p1) := by
  unfold State.planArm
  with_reducible (repeat' first | assumption | exact Within.trans (by decide) hW | exact Within.bit (by decide) hW | refine places_some ?_ | exact places_none | refine places_cons ?_ ?_ | refine places_pair ?_ ?_ | exact places_nil | refine places_reg ?_ ?_ | exact places_regs | intro _ | apply State.set_keeps | apply State.armAccepted_keeps | apply State.setPlan_keeps | apply State.planRefused_keeps | apply State.dirSeen_keeps | apply Keeps.ite | simp only [List.foldl_cons, List.foldl_nil] | apply Keeps.foldl | apply Keeps.foldlFst | extract_lets | split)

theorem State.tryEntry_keeps {W : Places} {a₀ s₀ : State} (p1 p2) (hW : Within 0x20000000000000000000000000000000007780000000000004040000001c00000000020000062400004010000020205a1683c342060080044701a000018404 W) (h₀ : Keeps W a₀ s₀) : Keeps W a₀ (State.tryEntry s₀ p1 p2) := by
  unfold State.tryEntry
  with_reducible (repeat' first | assumption | exact Within.trans (by decide) hW | exact Within.bit (by decide) hW | refine places_some ?_ | exact places_none | refine places_cons ?_ ?_ | refine places_pair ?_ ?_ | exact places_nil | refine places_reg ?_ ?_ | exact places_regs | intro _ | apply State.each_keeps | apply State.set_keeps | apply State.setPlan_keeps | apply State.planArm_keeps | apply Keeps.ite | simp only [List.foldl_cons, List.foldl_nil] | apply Keeps.foldl | apply Keeps.foldlFst | extract_lets | split)

theorem State.runEntry_keeps {W : Places} {a₀ s₀ : State} (p1 p2 p3) (hW : Within 0x20000000000000000000000000000000007780000000000004040000001c00000000020000062400004010000020205a1683c342060080044701a000018404 W) (h₀ : Keeps W a₀ s₀) : Keeps W a₀ (State.runEntry s₀ p1 p2 p3) := by
  unfold State.runEntry
  with_reducible (repeat' first | assumption | exact Within.trans (by decide) hW | exact Within.bit (by decide) hW | refine places_some ?_ | exact places_none | refine places_cons ?_ ?_ | refine places_pair ?_ ?_ | exact places_nil | refine places_reg ?_ ?_ | exact places_regs | intro _ | apply State.setPlan_keeps | apply State.tryEntry_keeps | apply State.set_keeps | apply Keeps.ite | simp only [List.foldl_cons, List.foldl_nil] | apply Keeps.foldl | apply Keeps.foldlFst | extract_lets | split)

theorem State.dutStart_keeps {W : Places} {a₀ s₀ : State} (p1 p2) (hW : Within 0x20000000000000000000000000000000007780000000000004040000001c00000000020000062400004010000020205a1683c342060080044701a000018404 W) (h₀ : Keeps W a₀ s₀) : Keeps W a₀ (State.dutStart s₀ p1 p2) := by
  unfold State.dutStart
  with_reducible (repeat' first | assumption | exact Within.trans (by decide) hW | exact Within.bit (by decide) hW | refine places_some ?_ | exact places_none | refine places_cons ?_ ?_ | refine places_pair ?_ ?_ | exact places_nil | refine places_reg ?_ ?_ | exact places_regs | intro _ | apply State.count_keeps | apply State.log_keeps | apply State.setPlan_keeps | apply State.runEntry_keeps | apply State.set_keeps | apply Keeps.ite | simp only [List.foldl_cons, List.foldl_nil] | apply Keeps.foldl | apply Keeps.foldlFst | extract_lets | split)

theorem State.dutAsk_keeps {W : Places} {a₀ s₀ : State} (p1 p2) (hW : Within 0x20000000000000000000000000000000007780000000000004040000001c00000000020000062400004010000020205a1683c342060080044701a000018404 W) (h₀ : Keeps W a₀ s₀) : Keeps W a₀ (State.dutAsk s₀ p1 p2) := by
  unfold State.dutAsk
  with_reducible (repeat' first | assumption | exact Within.trans (by decide) hW | exact Within.bit (by decide) hW | refine places_some ?_ | exact places_none | refine places_cons ?_ ?_ | refine places_pair ?_ ?_ | exact places_nil | refine places_reg ?_ ?_ | exact places_regs | intro _ | apply State.set_keeps | apply State.setPlan_keeps | apply State.dutStart_keeps | apply Keeps.ite | simp only [List.foldl_cons, List.foldl_nil] | apply Keeps.foldl | apply Keeps.foldlFst | extract_lets | split)

theorem State.dutKick_keeps {W : Places} {a₀ s₀ : State} (p1) (hW : Within 0x20000000000000000000000000000000007780000000000004040000001c00000000020000062400004010000020205a1683c342060080044701a000018404 W) (h₀ : Keeps W a₀ s₀) : Keeps W a₀ (State.dutKick s₀ p1) := by
  unfold State.dutKick
  with_reducible (repeat' first | assumption | exact Within.trans (by decide) hW | exact Within.bit (by decide) hW | refine places_some ?_ | exact places_none | refine places_cons ?_ ?_ | refine places_pair ?_ ?_ | exact places_nil | refine places_reg ?_ ?_ | exact places_regs | intro _ | apply State.dutStart_keeps | apply State.setPlan_keeps | apply Keeps.ite | simp only [List.foldl_cons, List.foldl_nil] | apply Keeps.foldl | apply Keeps.foldlFst | extract_lets | split)

theorem State.planStop_keeps {W : Places} {a₀ s₀ : State} (p1) (hW : Within 0x4000000000000000000000000000000000000000000000000000000000000000000 W) (h₀ : Keeps W a₀ s₀) : Keeps W a₀ (State.planStop s₀ p1) := by
  unfold State.planStop
  with_reducible (repeat' first | assumption | exact Within.trans (by decide) hW | exact Within.bit (by decide) hW | refine places_some ?_ | exact places_none | refine places_cons ?_ ?_ | refine places_pair ?_ ?_ | exact places_nil | refine places_reg ?_ ?_ | exact places_regs | intro _ | apply State.set_keeps | apply State.setPlan_keeps | apply Keeps.ite | simp only [List.foldl_cons, List.foldl_nil] | apply Keeps.foldl | apply Keeps.foldlFst | extract_lets | split)

theorem State.planAbort_keeps {W : Places} {a₀ s₀ : State} (p1) (hW : Within 0x6000000000000000000000001c000000000000000000000000000000000000000000000000000000000000000000 W) (h₀ : Keeps W a₀ s₀) : Keeps W a₀ (State.planAbort s₀ p1) := by
  unfold State.planAbort
  with_reducible (repeat' first | assumption | exact Within.trans (by decide) hW | exact Within.bit (by decide) hW | refine places_some ?_ | exact places_none | refine places_cons ?_ ?_ | refine places_pair ?_ ?_ | exact places_nil | refine places_reg ?_ ?_ | exact places_regs | intro _ | apply State.sendAbort_keeps | apply State.set_keeps | apply State.setPlan_keeps | apply State.endDut_keeps | apply State.planStop_keeps | apply Keeps.ite | simp only [List.foldl_cons, List.foldl_nil] | apply Keeps.foldl | apply Keeps.foldlFst | extract_lets | split)

theorem State.planCmd_keeps {W : Places} {a₀ s₀ : State} (p1 p2 p3) (hW : Within 0x20000000000000000000000000000000007780000000000004040000001c00000000020000062400004010000020205a1683c342060080044701a000018404 W) (h₀ : Keeps W a₀ s₀) : Keeps W a₀ (State.planCmd s₀ p1 p2 p3) := by
  unfold State.planCmd
  with_reducible (repeat' first | assumption | exact Within.trans (by decide) hW | exact Within.bit (by decide) hW | refine places_some ?_ | exact places_none | refine places_cons ?_ ?_ | refine places_pair ?_ ?_ | exact places_nil | refine places_reg ?_ ?_ | exact places_regs | intro _ | apply State.set_keeps | apply State.dutAsk_keeps | apply State.planStop_keeps | apply State.planAbort_keeps | apply Keeps.ite | simp only [List.foldl_cons, List.foldl_nil] | apply Keeps.foldl | apply Keeps.foldlFst | extract_lets | split)

theorem State.writePlanCmd_keeps {W : Places} {a₀ s₀ : State} (p1 p2) (hW : Within 0x20000000000000000000000000000000007780000000000004040000001c00000000020000062400004010000020205a1683c342060080044701a000018404 W) (h₀ : Keeps W a₀ s₀) : Keeps W a₀ (State.writePlanCmd s₀ p1 p2) := by
  unfold State.writePlanCmd
  with_reducible (repeat' first | assumption | exact Within.trans (by decide) hW | exact Within.bit (by decide) hW | refine places_some ?_ | exact places_none | refine places_cons ?_ ?_ | refine places_pair ?_ ?_ | exact places_nil | refine places_reg ?_ ?_ | exact places_regs | intro _ | apply State.planCmd_keeps | apply Keeps.ite | simp only [List.foldl_cons, List.foldl_nil] | apply Keeps.foldl | apply Keeps.foldlFst | extract_lets | split)

theorem execPlanStart_keeps {W : Places} {a₀ s₀ : State} (p0 p1) (hW : Within 0x20000000000000000000000000000000007780000000000004040000001c00000000020000062400004010000020205a1683c342060080044701a000018404 W) (h₀ : Keeps W a₀ (s₀.elapse p0)) : KeepsOut W a₀ (execPlanStart p0 p1 s₀) := by
  unfold execPlanStart
  with_reducible (repeat' first | assumption | exact Within.trans (by decide) hW | exact Within.bit (by decide) hW | refine places_some ?_ | exact places_none | refine places_cons ?_ ?_ | refine places_pair ?_ ?_ | exact places_nil | refine places_reg ?_ ?_ | exact places_regs | intro _ | apply KeepsOut.next | apply KeepsOut.refused | apply KeepsOut.ite | apply State.writePlanCmd_keeps | apply Keeps.ite | simp only [List.foldl_cons, List.foldl_nil] | apply Keeps.foldl | apply Keeps.foldlFst | extract_lets | split)

theorem execPlanStop_keeps {W : Places} {a₀ s₀ : State} (p0 p1) (hW : Within 0x20000000000000000000000000000000007780000000000004040000001c00000000020000062400004010000020205a1683c342060080044701a000018404 W) (h₀ : Keeps W a₀ (s₀.elapse p0)) : KeepsOut W a₀ (execPlanStop p0 p1 s₀) := by
  unfold execPlanStop
  with_reducible (repeat' first | assumption | exact Within.trans (by decide) hW | exact Within.bit (by decide) hW | refine places_some ?_ | exact places_none | refine places_cons ?_ ?_ | refine places_pair ?_ ?_ | exact places_nil | refine places_reg ?_ ?_ | exact places_regs | intro _ | apply KeepsOut.next | apply KeepsOut.refused | apply KeepsOut.ite | apply State.writePlanCmd_keeps | apply Keeps.ite | simp only [List.foldl_cons, List.foldl_nil] | apply Keeps.foldl | apply Keeps.foldlFst | extract_lets | split)

theorem execPlanAbort_keeps {W : Places} {a₀ s₀ : State} (p0 p1) (hW : Within 0x20000000000000000000000000000000007780000000000004040000001c00000000020000062400004010000020205a1683c342060080044701a000018404 W) (h₀ : Keeps W a₀ (s₀.elapse p0)) : KeepsOut W a₀ (execPlanAbort p0 p1 s₀) := by
  unfold execPlanAbort
  with_reducible (repeat' first | assumption | exact Within.trans (by decide) hW | exact Within.bit (by decide) hW | refine places_some ?_ | exact places_none | refine places_cons ?_ ?_ | refine places_pair ?_ ?_ | exact places_nil | refine places_reg ?_ ?_ | exact places_regs | intro _ | apply KeepsOut.next | apply KeepsOut.refused | apply KeepsOut.ite | apply State.writePlanCmd_keeps | apply Keeps.ite | simp only [List.foldl_cons, List.foldl_nil] | apply Keeps.foldl | apply Keeps.foldlFst | extract_lets | split)

theorem execDutEvent_keeps {W : Places} {a₀ s₀ : State} (p0 p1) (hW : Within 0x20000000000000000000000000000000007780000000000004040000001c00000000020000062400004010000020205a1683c342060080044701a000018404 W) (h₀ : Keeps W a₀ (s₀.elapse p0)) : KeepsOut W a₀ (execDutEvent p0 p1 s₀) := by
  unfold execDutEvent
  with_reducible (repeat' first | assumption | exact Within.trans (by decide) hW | exact Within.bit (by decide) hW | refine places_some ?_ | exact places_none | refine places_cons ?_ ?_ | refine places_pair ?_ ?_ | exact places_nil | refine places_reg ?_ ?_ | exact places_regs | intro _ | apply KeepsOut.next | apply KeepsOut.refused | apply KeepsOut.ite | apply State.dutAsk_keeps | apply Keeps.ite | simp only [List.foldl_cons, List.foldl_nil] | apply Keeps.foldl | apply Keeps.foldlFst | extract_lets | split)

theorem execPlanTimeout_keeps {W : Places} {a₀ s₀ : State} (p0 p1) (h₀ : Keeps W a₀ (s₀.elapse p0)) : KeepsOut W a₀ (execPlanTimeout p0 p1 s₀) := by
  unfold execPlanTimeout
  with_reducible (repeat' first | assumption | exact Within.trans (by decide) hW | exact Within.bit (by decide) hW | refine places_some ?_ | exact places_none | refine places_cons ?_ ?_ | refine places_pair ?_ ?_ | exact places_nil | refine places_reg ?_ ?_ | exact places_regs | intro _ | apply KeepsOut.next | apply KeepsOut.refused | apply KeepsOut.ite | apply State.sendAbort_keeps | apply State.setPlan_keeps | apply Keeps.ite | simp only [List.foldl_cons, List.foldl_nil] | apply Keeps.foldl | apply Keeps.foldlFst | extract_lets | split)

theorem execStaleRetry_keeps {W : Places} {a₀ s₀ : State} (p0 p1) (hW : Within 0x20000000000000000000000000000000007780000000000004040000001c00000000020000062400004010000020205a1683c342060080044701a000018404 W) (h₀ : Keeps W a₀ (s₀.elapse p0)) : KeepsOut W a₀ (execStaleRetry p0 p1 s₀) := by
  unfold execStaleRetry
  with_reducible (repeat' first | assumption | exact Within.trans (by decide) hW | exact Within.bit (by decide) hW | refine places_some ?_ | exact places_none | refine places_cons ?_ ?_ | refine places_pair ?_ ?_ | exact places_nil | refine places_reg ?_ ?_ | exact places_regs | intro _ | apply KeepsOut.next | apply KeepsOut.refused | apply KeepsOut.ite | apply State.tryEntry_keeps | apply State.setPlan_keeps | apply Keeps.ite | simp only [List.foldl_cons, List.foldl_nil] | apply Keeps.foldl | apply Keeps.foldlFst | extract_lets | split)

end Sys2Proof.Machine
end

