-- ==== Sys2Proof/Laws/KeepCompare.lean ====
section
/-! SUPPORT. What the operations and the commands of Machine/Compare.lean keep (Laws/Keeps.lean). -/

set_option linter.unusedTactic false
set_option linter.unreachableTactic false
set_option linter.unusedVariables false
set_option linter.unusedSimpArgs false

namespace Sys2Proof.Machine

theorem State.seeLive_keeps {W : Places} {a₀ s₀ : State} (p1 p2) (hW : Within 0x8000000000000000000000 W) (h₀ : Keeps W a₀ s₀) : Keeps W a₀ (State.seeLive s₀ p1 p2) := by
  unfold State.seeLive
  with_reducible (repeat' first | assumption | exact Within.trans (by decide) hW | exact Within.bit (by decide) hW | refine places_some ?_ | exact places_none | refine places_cons ?_ ?_ | refine places_pair ?_ ?_ | exact places_nil | refine places_reg ?_ ?_ | exact places_regs | intro _ | apply State.set_keeps | apply Keeps.ite | simp only [List.foldl_cons, List.foldl_nil] | apply Keeps.foldl | apply Keeps.foldlFst | extract_lets | split)

theorem State.countFail_keeps {W : Places} {a₀ s₀ : State} (p1 p2 p3 p4) (hW : Within 0x60000000000000000000000000000000000000000000000000000000000000000000040000000000000000000000 W) (h1 : W (p1.id / 128) = true) (h2 : W (p2.id / 128) = true) (h₀ : Keeps W a₀ s₀) : Keeps W a₀ (State.countFail s₀ p1 p2 p3 p4) := by
  unfold State.countFail
  with_reducible (repeat' first | assumption | exact Within.trans (by decide) hW | exact Within.bit (by decide) hW | refine places_some ?_ | exact places_none | refine places_cons ?_ ?_ | refine places_pair ?_ ?_ | exact places_nil | refine places_reg ?_ ?_ | exact places_regs | intro _ | apply State.count_keeps | apply State.raiseC_keeps | apply Keeps.ite | simp only [List.foldl_cons, List.foldl_nil] | apply Keeps.foldl | apply Keeps.foldlFst | extract_lets | split)

theorem State.failAction_keeps {W : Places} {a₀ s₀ : State} (p1 p2 p3 p4) (hW : Within 0x60000000000000000000000000000000000000000000000000000000000000000000350000000000000000000000 W) (h₀ : Keeps W a₀ s₀) : Keeps W a₀ (State.failAction s₀ p1 p2 p3 p4) := by
  unfold State.failAction
  with_reducible (repeat' first | assumption | exact Within.trans (by decide) hW | exact Within.bit (by decide) hW | refine places_some ?_ | exact places_none | refine places_cons ?_ ?_ | refine places_pair ?_ ?_ | exact places_nil | refine places_reg ?_ ?_ | exact places_regs | intro _ | apply State.setSlice_keeps | apply State.countFail_keeps | apply State.channelEvent_keeps | apply State.detect_keeps | apply Keeps.ite | simp only [List.foldl_cons, List.foldl_nil] | apply Keeps.foldl | apply Keeps.foldlFst | extract_lets | split)

theorem State.verdict_keeps {W : Places} {a₀ s₀ : State} (p1 p2 p3 p4) (hW : Within 0x60000000000000000000000000000000000000000000000000000000000000008381750000000000000000000000 W) (h₀ : Keeps W a₀ s₀) : Keeps W a₀ (State.verdict s₀ p1 p2 p3 p4) := by
  unfold State.verdict
  with_reducible (repeat' first | assumption | exact Within.trans (by decide) hW | exact Within.bit (by decide) hW | refine places_some ?_ | exact places_none | refine places_cons ?_ ?_ | refine places_pair ?_ ?_ | exact places_nil | refine places_reg ?_ ?_ | exact places_regs | intro _ | apply State.setChan_keeps | apply State.setSlice_keeps | apply State.flushVerdicts_keeps | apply State.failAction_keeps | apply Keeps.ite | simp only [List.foldl_cons, List.foldl_nil] | apply Keeps.foldl | apply Keeps.foldlFst | extract_lets | split)

theorem execStrobe_keeps {W : Places} {a₀ s₀ : State} (p0 p1 p2) (hW : Within 0x60000000000000000000000000000000000000000000000000000000000000008381758000000000000000000000 W) (h₀ : Keeps W a₀ (s₀.elapse p0)) : KeepsOut W a₀ (execStrobe p0 p1 p2 s₀) := by
  unfold execStrobe
  with_reducible (repeat' first | assumption | exact Within.trans (by decide) hW | exact Within.bit (by decide) hW | refine places_some ?_ | exact places_none | refine places_cons ?_ ?_ | refine places_pair ?_ ?_ | exact places_nil | refine places_reg ?_ ?_ | exact places_regs | intro _ | apply KeepsOut.next | apply KeepsOut.refused | apply KeepsOut.ite | apply State.verdict_keeps | apply State.seeLive_keeps | apply Keeps.ite | simp only [List.foldl_cons, List.foldl_nil] | apply Keeps.foldl | apply Keeps.foldlFst | extract_lets | split)

theorem execWindowEnd_keeps {W : Places} {a₀ s₀ : State} (p0 p1 p2 p3 p4) (hW : Within 0x60000000000000000000000000000000000000000000000000000000000000008381750000000000000000000000 W) (h₀ : Keeps W a₀ (s₀.elapse p0)) : KeepsOut W a₀ (execWindowEnd p0 p1 p2 p3 p4 s₀) := by
  unfold execWindowEnd
  with_reducible (repeat' first | assumption | exact Within.trans (by decide) hW | exact Within.bit (by decide) hW | refine places_some ?_ | exact places_none | refine places_cons ?_ ?_ | refine places_pair ?_ ?_ | exact places_nil | refine places_reg ?_ ?_ | exact places_regs | intro _ | apply KeepsOut.next | apply KeepsOut.refused | apply KeepsOut.ite | apply State.verdict_keeps | apply State.drew_keeps | apply Keeps.ite | simp only [List.foldl_cons, List.foldl_nil] | apply Keeps.foldl | apply Keeps.foldlFst | extract_lets | split)

theorem State.putCmp_keeps {W : Places} {a₀ s₀ : State} (p1 p2 p3) (hW : Within 0x6800000000000000000000 W) (h₀ : Keeps W a₀ s₀) : Keeps W a₀ (State.putCmp s₀ p1 p2 p3) := by
  unfold State.putCmp
  with_reducible (repeat' first | assumption | exact Within.trans (by decide) hW | exact Within.bit (by decide) hW | refine places_some ?_ | exact places_none | refine places_cons ?_ ?_ | refine places_pair ?_ ?_ | exact places_nil | refine places_reg ?_ ?_ | exact places_regs | intro _ | apply State.set_keeps | apply Keeps.ite | simp only [List.foldl_cons, List.foldl_nil] | apply Keeps.foldl | apply Keeps.foldlFst | extract_lets | split)

theorem State.writeCmp_keeps {W : Places} {a₀ s₀ : State} (p1 p2 p3) (hW : Within 0x2e800000000000000000000 W) (h₀ : Keeps W a₀ s₀) : Keeps W a₀ (State.writeCmp s₀ p1 p2 p3) := by
  unfold State.writeCmp
  with_reducible (repeat' first | assumption | exact Within.trans (by decide) hW | exact Within.bit (by decide) hW | refine places_some ?_ | exact places_none | refine places_cons ?_ ?_ | refine places_pair ?_ ?_ | exact places_nil | refine places_reg ?_ ?_ | exact places_regs | intro _ | apply State.set_keeps | apply State.putCmp_keeps | apply State.setChan_keeps | apply Keeps.ite | simp only [List.foldl_cons, List.foldl_nil] | apply Keeps.foldl | apply Keeps.foldlFst | extract_lets | split)

theorem execComparatorSettingWrite_keeps {W : Places} {a₀ s₀ : State} (p0 p1 p2 p3) (hW : Within 0x2e800000000000000000000 W) (h₀ : Keeps W a₀ (s₀.elapse p0)) : KeepsOut W a₀ (execComparatorSettingWrite p0 p1 p2 p3 s₀) := by
  unfold execComparatorSettingWrite
  with_reducible (repeat' first | assumption | exact Within.trans (by decide) hW | exact Within.bit (by decide) hW | refine places_some ?_ | exact places_none | refine places_cons ?_ ?_ | refine places_pair ?_ ?_ | exact places_nil | refine places_reg ?_ ?_ | exact places_regs | intro _ | apply KeepsOut.next | apply KeepsOut.refused | apply KeepsOut.ite | apply State.writeCmp_keeps | apply Keeps.ite | simp only [List.foldl_cons, List.foldl_nil] | apply Keeps.foldl | apply Keeps.foldlFst | extract_lets | split)

theorem execSettlingEnd_keeps {W : Places} {a₀ s₀ : State} (p0 p1 p2) (hW : Within 0x200000000000000000000000000000000000000000000000000000000000000000000000000000000000000000000000000000008000000000000000000000 W) (h₀ : Keeps W a₀ (s₀.elapse p0)) : KeepsOut W a₀ (execSettlingEnd p0 p1 p2 s₀) := by
  unfold execSettlingEnd
  with_reducible (repeat' first | assumption | exact Within.trans (by decide) hW | exact Within.bit (by decide) hW | refine places_some ?_ | exact places_none | refine places_cons ?_ ?_ | refine places_pair ?_ ?_ | exact places_nil | refine places_reg ?_ ?_ | exact places_regs | intro _ | apply KeepsOut.next | apply KeepsOut.refused | apply KeepsOut.ite | apply State.seeLive_keeps | apply State.setChan_keeps | apply State.set_keeps | apply State.formReady_keeps | apply State.setSite_keeps | apply Keeps.ite | simp only [List.foldl_cons, List.foldl_nil] | apply Keeps.foldl | apply Keeps.foldlFst | extract_lets | split)

theorem State.writeMask_keeps {W : Places} {a₀ s₀ : State} (p1 p2) (hW : Within 0x21000000000000000000000 W) (h₀ : Keeps W a₀ s₀) : Keeps W a₀ (State.writeMask s₀ p1 p2) := by
  unfold State.writeMask
  with_reducible (repeat' first | assumption | exact Within.trans (by decide) hW | exact Within.bit (by decide) hW | refine places_some ?_ | exact places_none | refine places_cons ?_ ?_ | refine places_pair ?_ ?_ | exact places_nil | refine places_reg ?_ ?_ | exact places_regs | intro _ | apply State.set_keeps | apply State.setChan_keeps | apply Keeps.ite | simp only [List.foldl_cons, List.foldl_nil] | apply Keeps.foldl | apply Keeps.foldlFst | extract_lets | split)

theorem execSepCmpChMaskWrite_keeps {W : Places} {a₀ s₀ : State} (p0 p1 p2) (hW : Within 0x21000000000000000000000 W) (h₀ : Keeps W a₀ (s₀.elapse p0)) : KeepsOut W a₀ (execSepCmpChMaskWrite p0 p1 p2 s₀) := by
  unfold execSepCmpChMaskWrite
  with_reducible (repeat' first | assumption | exact Within.trans (by decide) hW | exact Within.bit (by decide) hW | refine places_some ?_ | exact places_none | refine places_cons ?_ ?_ | refine places_pair ?_ ?_ | exact places_nil | refine places_reg ?_ ?_ | exact places_regs | intro _ | apply KeepsOut.next | apply KeepsOut.refused | apply KeepsOut.ite | apply State.writeMask_keeps | apply Keeps.ite | simp only [List.foldl_cons, List.foldl_nil] | apply Keeps.foldl | apply Keeps.foldlFst | extract_lets | split)

theorem execGranuleCountsAdd_keeps {W : Places} {a₀ s₀ : State} (p0 p1) (hW : Within 0x2000000000000000000000000000000000778000000000000000000000000000000002000006240000401000002020081283c3420600800447012000008404 W) (h₀ : Keeps W a₀ (s₀.elapse p0)) : KeepsOut W a₀ (execGranuleCountsAdd p0 p1 s₀) := by
  unfold execGranuleCountsAdd
  with_reducible (repeat' first | assumption | exact Within.trans (by decide) hW | exact Within.bit (by decide) hW | refine places_some ?_ | exact places_none | refine places_cons ?_ ?_ | refine places_pair ?_ ?_ | exact places_nil | refine places_reg ?_ ?_ | exact places_regs | intro _ | apply KeepsOut.next | apply KeepsOut.refused | apply KeepsOut.ite | apply State.addCounts_keeps | apply State.settleEnd_keeps | apply Keeps.ite | simp only [List.foldl_cons, List.foldl_nil] | apply Keeps.foldl | apply Keeps.foldlFst | extract_lets | split)

theorem State.capDrops_keeps {W : Places} {a₀ s₀ : State} (x : Nat) {f : State → State} (hW : Within 0x2000000000000000000000000000000000778000000000000404000000000000000002000006240000401000002020081283c3420600800446012000008404 W) (hf : f ∈ s₀.capDrops x)
    {u : State} (h : Keeps W a₀ u) : Keeps W a₀ (f u) := by
  unfold State.capDrops at hf
  extract_lets base size max_ lake used if_ at hf
  have hif : ∀ {b : Bool} {g : State → State}, f ∈ if_ b g → f = g := by
    intro b g hg
    cases b
    · exact absurd hg (List.not_mem_nil)
    · exact List.mem_singleton.1 hg
  clear_value if_
  split at hf
  · cases List.mem_singleton.1 hf; exact h
  simp only [List.mem_append] at hf
  rcases hf with ((((hf | hf) | hf) | hf) | hf) | hf
  · rw [hif hf]; exact h
  · rw [hif hf]; with_reducible (repeat' first | assumption | exact Within.trans (by decide) hW | exact Within.bit (by decide) hW | refine places_some ?_ | exact places_none | refine places_cons ?_ ?_ | refine places_pair ?_ ?_ | exact places_nil | refine places_reg ?_ ?_ | exact places_regs | intro _ | apply State.set_keeps | apply State.raiseC_keeps | apply State.denyB_keeps | apply State.raiseU_keeps | apply Keeps.ite | simp only [List.foldl_cons, List.foldl_nil] | apply Keeps.foldl | apply Keeps.foldlFst | extract_lets | split)
  · rw [hif hf]; with_reducible (repeat' first | assumption | exact Within.trans (by decide) hW | exact Within.bit (by decide) hW | refine places_some ?_ | exact places_none | refine places_cons ?_ ?_ | refine places_pair ?_ ?_ | exact places_nil | refine places_reg ?_ ?_ | exact places_regs | intro _ | apply State.set_keeps | apply State.raiseC_keeps | apply State.denyB_keeps | apply State.raiseU_keeps | apply Keeps.ite | simp only [List.foldl_cons, List.foldl_nil] | apply Keeps.foldl | apply Keeps.foldlFst | extract_lets | split)
  · rw [hif hf]; with_reducible (repeat' first | assumption | exact Within.trans (by decide) hW | exact Within.bit (by decide) hW | refine places_some ?_ | exact places_none | refine places_cons ?_ ?_ | refine places_pair ?_ ?_ | exact places_nil | refine places_reg ?_ ?_ | exact places_regs | intro _ | apply State.set_keeps | apply State.raiseC_keeps | apply State.denyB_keeps | apply State.raiseU_keeps | apply Keeps.ite | simp only [List.foldl_cons, List.foldl_nil] | apply Keeps.foldl | apply Keeps.foldlFst | extract_lets | split)
  · rw [hif hf]; with_reducible (repeat' first | assumption | exact Within.trans (by decide) hW | exact Within.bit (by decide) hW | refine places_some ?_ | exact places_none | refine places_cons ?_ ?_ | refine places_pair ?_ ?_ | exact places_nil | refine places_reg ?_ ?_ | exact places_regs | intro _ | apply State.set_keeps | apply State.raiseC_keeps | apply State.denyB_keeps | apply State.raiseU_keeps | apply Keeps.ite | simp only [List.foldl_cons, List.foldl_nil] | apply Keeps.foldl | apply Keeps.foldlFst | extract_lets | split)
  · rw [hif hf]; with_reducible (repeat' first | assumption | exact Within.trans (by decide) hW | exact Within.bit (by decide) hW | refine places_some ?_ | exact places_none | refine places_cons ?_ ?_ | refine places_pair ?_ ?_ | exact places_nil | refine places_reg ?_ ?_ | exact places_regs | intro _ | apply State.set_keeps | apply State.raiseC_keeps | apply State.denyB_keeps | apply State.raiseU_keeps | apply Keeps.ite | simp only [List.foldl_cons, List.foldl_nil] | apply Keeps.foldl | apply Keeps.foldlFst | extract_lets | split)

theorem State.capGone_keeps {W : Places} {a₀ s₀ : State} (p1) (hW : Within 0x60000000000000000000000000000000000000000000000000000000000000008200000000000000000000000000 W) (h₀ : Keeps W a₀ s₀) : Keeps W a₀ (State.capGone s₀ p1) := by
  unfold State.capGone
  with_reducible (repeat' first | assumption | exact Within.trans (by decide) hW | exact Within.bit (by decide) hW | refine places_some ?_ | exact places_none | refine places_cons ?_ ?_ | refine places_pair ?_ ?_ | exact places_nil | refine places_reg ?_ ?_ | exact places_regs | intro _ | apply State.capLost_keeps | apply State.setSite_keeps | apply Keeps.ite | simp only [List.foldl_cons, List.foldl_nil] | apply Keeps.foldl | apply Keeps.foldlFst | extract_lets | split)

theorem State.capRecord_keeps {W : Places} {a₀ s₀ : State} (x b) (hW : Within 0x30000000000000000000000000000000007780000000000004040000000000000000020000062400004010000020200813a3c3420600800446012000008404 W) (h : Keeps W a₀ s₀) : Keeps W a₀ (s₀.capRecord x b) := by
  unfold State.capRecord
  extract_lets s1
  have h1 : Keeps W a₀ s1 := State.firstFail_keeps _ _ (Within.trans (by decide) hW) h
  clear_value s1
  split
  · rename_i f fs hf
    exact Keeps.foldlMem (fun _ g hg hu => State.capDrops_keeps x (Within.trans (by decide) hW) (hf ▸ hg) hu) (State.capGone_keeps _ (Within.trans (by decide) hW) h1)
  · with_reducible (repeat' first | assumption | exact Within.trans (by decide) hW | exact Within.bit (by decide) hW | refine places_some ?_ | exact places_none | refine places_cons ?_ ?_ | refine places_pair ?_ ?_ | exact places_nil | refine places_reg ?_ ?_ | exact places_regs | intro _ | apply State.firstFail_keeps | apply State.capDrops_keeps | apply State.capGone_keeps | apply State.set_keeps | apply State.dmaWrite_keeps | apply State.setSite_keeps | apply State.count_keeps | apply Keeps.ite | simp only [List.foldl_cons, List.foldl_nil] | apply Keeps.foldl | apply Keeps.foldlFst | extract_lets | split)

theorem State.forwardRecord_keeps {W : Places} {a₀ s₀ : State} (p1 p2) (hW : Within 0x200000000000000000000000000000000060000000000000000000000000000000000000000000000000000000000000008200000000000000000000000000 W) (h₀ : Keeps W a₀ s₀) : Keeps W a₀ (State.forwardRecord s₀ p1 p2) := by
  unfold State.forwardRecord
  with_reducible (repeat' first | assumption | exact Within.trans (by decide) hW | exact Within.bit (by decide) hW | refine places_some ?_ | exact places_none | refine places_cons ?_ ?_ | refine places_pair ?_ ?_ | exact places_nil | refine places_reg ?_ ?_ | exact places_regs | intro _ | apply State.sendBlock_keeps | apply State.capGone_keeps | apply Keeps.ite | simp only [List.foldl_cons, List.foldl_nil] | apply Keeps.foldl | apply Keeps.foldlFst | extract_lets | split)

theorem execFailRecordArrival_keeps {W : Places} {a₀ s₀ : State} (p0 p1 p2) (hW : Within 0x30000000000000000000000000000000007780000000000004040000000000000000020000062400004010000020200813a3c3420600800447012000008404 W) (h₀ : Keeps W a₀ (s₀.elapse p0)) : KeepsOut W a₀ (execFailRecordArrival p0 p1 p2 s₀) := by
  unfold execFailRecordArrival
  with_reducible (repeat' first | assumption | exact Within.trans (by decide) hW | exact Within.bit (by decide) hW | refine places_some ?_ | exact places_none | refine places_cons ?_ ?_ | refine places_pair ?_ ?_ | exact places_nil | refine places_reg ?_ ?_ | exact places_regs | intro _ | apply KeepsOut.next | apply KeepsOut.refused | apply KeepsOut.ite | apply State.set_keeps | apply State.setSlice_keeps | apply State.faultSite_keeps | apply State.forwardRecord_keeps | apply State.capRecord_keeps | apply Keeps.ite | simp only [List.foldl_cons, List.foldl_nil] | apply Keeps.foldl | apply Keeps.foldlFst | extract_lets | split)

theorem State.writeCapRd_keeps {W : Places} {a₀ s₀ : State} (p1 p2) (hW : Within 0x4000000000000000000000000000 W) (h₀ : Keeps W a₀ s₀) : Keeps W a₀ (State.writeCapRd s₀ p1 p2) := by
  unfold State.writeCapRd
  with_reducible (repeat' first | assumption | exact Within.trans (by decide) hW | exact Within.bit (by decide) hW | refine places_some ?_ | exact places_none | refine places_cons ?_ ?_ | refine places_pair ?_ ?_ | exact places_nil | refine places_reg ?_ ?_ | exact places_regs | intro _ | apply State.set_keeps | apply Keeps.ite | simp only [List.foldl_cons, List.foldl_nil] | apply Keeps.foldl | apply Keeps.foldlFst | extract_lets | split)

theorem execCaptureRingRdWrite_keeps {W : Places} {a₀ s₀ : State} (p0 p1 p2) (hW : Within 0x4000000000000000000000000000 W) (h₀ : Keeps W a₀ (s₀.elapse p0)) : KeepsOut W a₀ (execCaptureRingRdWrite p0 p1 p2 s₀) := by
  unfold execCaptureRingRdWrite
  with_reducible (repeat' first | assumption | exact Within.trans (by decide) hW | exact Within.bit (by decide) hW | refine places_some ?_ | exact places_none | refine places_cons ?_ ?_ | refine places_pair ?_ ?_ | exact places_nil | refine places_reg ?_ ?_ | exact places_regs | intro _ | apply KeepsOut.next | apply KeepsOut.refused | apply KeepsOut.ite | apply State.writeCapRd_keeps | apply Keeps.ite | simp only [List.foldl_cons, List.foldl_nil] | apply Keeps.foldl | apply Keeps.foldlFst | extract_lets | split)

theorem State.tellStop_keeps {W : Places} {a₀ s₀ : State} (p1) (hW : Within 0x200000000000000000000000000000000000000000000000000000000000000000000000000000000000000000000000000000000000000000000000000000 W) (h₀ : Keeps W a₀ s₀) : Keeps W a₀ (State.tellStop s₀ p1) := by
  unfold State.tellStop
  with_reducible (repeat' first | assumption | exact Within.trans (by decide) hW | exact Within.bit (by decide) hW | refine places_some ?_ | exact places_none | refine places_cons ?_ ?_ | refine places_pair ?_ ?_ | exact places_nil | refine places_reg ?_ ?_ | exact places_regs | intro _ | apply State.sendToken_keeps | apply Keeps.ite | simp only [List.foldl_cons, List.foldl_nil] | apply Keeps.foldl | apply Keeps.foldlFst | extract_lets | split)

theorem execStopDecision_keeps {W : Places} {a₀ s₀ : State} (p0 p1) (hW : Within 0x200000000000000000000000000000000000000000000000000000000000000000000000000000000000000000000000000000000000000000000000000000 W) (h₀ : Keeps W a₀ (s₀.elapse p0)) : KeepsOut W a₀ (execStopDecision p0 p1 s₀) := by
  unfold execStopDecision
  with_reducible (repeat' first | assumption | exact Within.trans (by decide) hW | exact Within.bit (by decide) hW | refine places_some ?_ | exact places_none | refine places_cons ?_ ?_ | refine places_pair ?_ ?_ | exact places_nil | refine places_reg ?_ ?_ | exact places_regs | intro _ | apply KeepsOut.next | apply KeepsOut.refused | apply KeepsOut.ite | apply State.tellStop_keeps | apply State.setSite_keeps | apply Keeps.ite | simp only [List.foldl_cons, List.foldl_nil] | apply Keeps.foldl | apply Keeps.foldlFst | extract_lets | split)

theorem State.recordStop_keeps {W : Places} {a₀ s₀ : State} (p1 p2 p3) (hW : Within 0x600000000000000000000000000 W) (h₀ : Keeps W a₀ s₀) : Keeps W a₀ (State.recordStop s₀ p1 p2 p3) := by
  unfold State.recordStop
  with_reducible (repeat' first | assumption | exact Within.trans (by decide) hW | exact Within.bit (by decide) hW | refine places_some ?_ | exact places_none | refine places_cons ?_ ?_ | refine places_pair ?_ ?_ | exact places_nil | refine places_reg ?_ ?_ | exact places_regs | intro _ | apply State.set_keeps | apply Keeps.ite | simp only [List.foldl_cons, List.foldl_nil] | apply Keeps.foldl | apply Keeps.foldlFst | extract_lets | split)

theorem State.stopPlay_keeps {W : Places} {a₀ s₀ : State} (p1 p2 p3) (hW : Within 0x2000000000000000000000000000000000778000000000000000000000000000000002000006240000401000002020081287c3420600800447012000008404 W) (h₀ : Keeps W a₀ s₀) : Keeps W a₀ (State.stopPlay s₀ p1 p2 p3) := by
  unfold State.stopPlay
  with_reducible (repeat' first | assumption | exact Within.trans (by decide) hW | exact Within.bit (by decide) hW | refine places_some ?_ | exact places_none | refine places_cons ?_ ?_ | refine places_pair ?_ ?_ | exact places_nil | refine places_reg ?_ ?_ | exact places_regs | intro _ | apply State.each_keeps | apply State.emptySlice_keeps | apply State.endSlice_keeps | apply State.finishEnd_keeps | apply State.jumpLost_keeps | apply State.recordStop_keeps | apply State.setSite_keeps | apply State.tellState_keeps | apply State.enterState_keeps | apply Keeps.ite | simp only [List.foldl_cons, List.foldl_nil] | apply Keeps.foldl | apply Keeps.foldlFst | extract_lets | split)

theorem execStopRelease_keeps {W : Places} {a₀ s₀ : State} (p0 p1) (hW : Within 0x2000000000000000000000000000000000778000000000000000000000000000000002000006240000401000002020081287c3420600800447012000008404 W) (h₀ : Keeps W a₀ (s₀.elapse p0)) : KeepsOut W a₀ (execStopRelease p0 p1 s₀) := by
  unfold execStopRelease
  with_reducible (repeat' first | assumption | exact Within.trans (by decide) hW | exact Within.bit (by decide) hW | refine places_some ?_ | exact places_none | refine places_cons ?_ ?_ | refine places_pair ?_ ?_ | exact places_nil | refine places_reg ?_ ?_ | exact places_regs | intro _ | apply KeepsOut.next | apply KeepsOut.refused | apply KeepsOut.ite | apply State.stopPlay_keeps | apply Keeps.ite | simp only [List.foldl_cons, List.foldl_nil] | apply Keeps.foldl | apply Keeps.foldlFst | extract_lets | split)

theorem State.othersAct_keeps {W : Places} {a₀ s₀ : State} (p1 p2) (hW : Within 0x2000000000000000000000000000000000778000000000000000000000000000000002000006240000401000002020081283c342060a80c457012000008404 W) (h₀ : Keeps W a₀ s₀) : Keeps W a₀ (State.othersAct s₀ p1 p2) := by
  unfold State.othersAct
  with_reducible (repeat' first | assumption | exact Within.trans (by decide) hW | exact Within.bit (by decide) hW | refine places_some ?_ | exact places_none | refine places_cons ?_ ?_ | refine places_pair ?_ ?_ | exact places_nil | refine places_reg ?_ ?_ | exact places_regs | intro _ | apply State.each_keeps | apply State.emptySlice_keeps | apply State.endSlice_keeps | apply State.takeJump_keeps | apply State.stopSlice_keeps | apply State.immediateSets_keeps | apply Keeps.ite | simp only [List.foldl_cons, List.foldl_nil] | apply Keeps.foldl | apply Keeps.foldlFst | extract_lets | split)

theorem execSliceMissedRelease_keeps {W : Places} {a₀ s₀ : State} (p0 p1) (hW : Within 0x2000000000000000000000000000000000778000000000000000000000000000000002000006240000401000002020081283c342060a80c4d7012000008404 W) (h₀ : Keeps W a₀ (s₀.elapse p0)) : KeepsOut W a₀ (execSliceMissedRelease p0 p1 s₀) := by
  unfold execSliceMissedRelease
  with_reducible (repeat' first | assumption | exact Within.trans (by decide) hW | exact Within.bit (by decide) hW | refine places_some ?_ | exact places_none | refine places_cons ?_ ?_ | refine places_pair ?_ ?_ | exact places_nil | refine places_reg ?_ ?_ | exact places_regs | intro _ | apply KeepsOut.next | apply KeepsOut.refused | apply KeepsOut.ite | apply State.set_keeps | apply State.setSlice_keeps | apply State.othersAct_keeps | apply State.each_keeps | apply State.resumeSlice_keeps | apply State.faultSite_keeps | apply Keeps.ite | simp only [List.foldl_cons, List.foldl_nil] | apply Keeps.foldl | apply Keeps.foldlFst | extract_lets | split)

end Sys2Proof.Machine
end

