-- ==== Sys2Proof/Laws/KeepRegAccess.lean ====
section
/-! SUPPORT. What the operations and the commands of Machine/RegAccess.lean keep (Laws/Keeps.lean). -/

set_option linter.unusedTactic false
set_option linter.unreachableTactic false
set_option linter.unusedVariables false
set_option linter.unusedSimpArgs false

namespace Sys2Proof.Machine

theorem State.badSize_keeps {W : Places} {a₀ s₀ : State} (p1) (hW : Within 0x2000000000000000000000000000000000000000000000000000000000000000000000000000000 W) (h₀ : Keeps W a₀ s₀) : Keeps W a₀ (State.badSize s₀ p1) := by
  unfold State.badSize
  with_reducible (repeat' first | assumption | exact Within.trans (by decide) hW | exact Within.bit (by decide) hW | refine places_some ?_ | exact places_none | refine places_cons ?_ ?_ | refine places_pair ?_ ?_ | exact places_nil | refine places_reg ?_ ?_ | exact places_regs | intro _ | apply State.raiseC_keeps | apply Keeps.ite | simp only [List.foldl_cons, List.foldl_nil] | apply Keeps.foldl | apply Keeps.foldlFst | extract_lets | split)

theorem State.clearRC_keeps {W : Places} {a₀ s₀ : State} (p1 p2 p3) (hW : ∀ k, W k = true) (h1 : W p1.ctorIdx = true) (h₀ : Keeps W a₀ s₀) : Keeps W a₀ (State.clearRC s₀ p1 p2 p3) := by
  unfold State.clearRC
  with_reducible (repeat' first | assumption | exact hW _ | exact Within.all hW | refine places_some ?_ | exact places_none | refine places_cons ?_ ?_ | refine places_pair ?_ ?_ | exact places_nil | refine places_reg ?_ ?_ | exact places_regs | exact fun _ _ => hW _ | intro _ | apply State.rcClear_keeps | apply Keeps.ite | simp only [List.foldl_cons, List.foldl_nil] | apply Keeps.foldl | apply Keeps.foldlFst | extract_lets | split)

theorem State.readHigh_keeps {W : Places} {a₀ s₀ : State} (p1 p2) (h₀ : Keeps W a₀ s₀) : Keeps W a₀ (State.readHigh s₀ p1 p2) := by
  unfold State.readHigh
  with_reducible (repeat' first | assumption | exact Within.trans (by decide) hW | exact Within.bit (by decide) hW | refine places_some ?_ | exact places_none | refine places_cons ?_ ?_ | refine places_pair ?_ ?_ | exact places_nil | refine places_reg ?_ ?_ | exact places_regs | intro _ | apply Keeps.ite | simp only [List.foldl_cons, List.foldl_nil] | apply Keeps.foldl | apply Keeps.foldlFst | extract_lets | split | apply Keeps.upd | apply Keeps.updOpen | apply Keeps.updBad)

theorem State.readDraws_keeps {W : Places} {a₀ s₀ : State} (p1) (h1 : W p1.ctorIdx = true) (h₀ : Keeps W a₀ s₀) : Keeps W a₀ (State.readDraws s₀ p1) := by
  unfold State.readDraws
  with_reducible (repeat' first | assumption | exact Within.trans (by decide) hW | exact Within.bit (by decide) hW | refine places_some ?_ | exact places_none | refine places_cons ?_ ?_ | refine places_pair ?_ ?_ | exact places_nil | refine places_reg ?_ ?_ | exact places_regs | intro _ | apply State.drew_keeps | apply Keeps.ite | simp only [List.foldl_cons, List.foldl_nil] | apply Keeps.foldl | apply Keeps.foldlFst | extract_lets | split)

theorem State.readHit_keeps {W : Places} {a₀ s₀ : State} (p1 p2) (hW : ∀ k, W k = true) (h₀ : Keeps W a₀ s₀) : Keeps W a₀ (State.readHit s₀ p1 p2) := by
  unfold State.readHit
  with_reducible (repeat' first | assumption | exact hW _ | exact Within.all hW | refine places_some ?_ | exact places_none | refine places_cons ?_ ?_ | refine places_pair ?_ ?_ | exact places_nil | refine places_reg ?_ ?_ | exact places_regs | exact fun _ _ => hW _ | intro _ | apply State.claim_keeps | apply State.lockRead_keeps | apply State.clearRC_keeps | apply State.readDraws_keeps | apply State.readHigh_keeps | apply State.readDt_keeps | apply State.latchHigh_keeps | apply Keeps.ite | simp only [List.foldl_cons, List.foldl_nil] | apply Keeps.foldl | apply Keeps.foldlFst | extract_lets | split | apply Keeps.upd | apply Keeps.updOpen | apply Keeps.updBad)

theorem State.read4_keeps {W : Places} {a₀ s₀ : State} (p1 p2) (hW : ∀ k, W k = true) (h₀ : Keeps W a₀ s₀) : Keeps W a₀ (State.read4 s₀ p1 p2) := by
  unfold State.read4
  with_reducible (repeat' first | assumption | exact hW _ | exact Within.all hW | refine places_some ?_ | exact places_none | refine places_cons ?_ ?_ | refine places_pair ?_ ?_ | exact places_nil | refine places_reg ?_ ?_ | exact places_regs | exact fun _ _ => hW _ | intro _ | apply State.readHit_keeps | apply Keeps.ite | simp only [List.foldl_cons, List.foldl_nil] | apply Keeps.foldl | apply Keeps.foldlFst | extract_lets | split | apply Keeps.upd | apply Keeps.updOpen | apply Keeps.updBad)

theorem State.readPair_keeps {W : Places} {a₀ s₀ : State} (p1 p2) (hW : ∀ k, W k = true) (h₀ : Keeps W a₀ s₀) : Keeps W a₀ (State.readPair s₀ p1 p2) := by
  unfold State.readPair
  with_reducible (repeat' first | assumption | exact hW _ | exact Within.all hW | refine places_some ?_ | exact places_none | refine places_cons ?_ ?_ | refine places_pair ?_ ?_ | exact places_nil | refine places_reg ?_ ?_ | exact places_regs | exact fun _ _ => hW _ | intro _ | apply State.read4_keeps | apply Keeps.ite | simp only [List.foldl_cons, List.foldl_nil] | apply Keeps.foldl | apply Keeps.foldlFst | extract_lets | split | apply Keeps.upd | apply Keeps.updOpen | apply Keeps.updBad)

theorem State.read8_keeps {W : Places} {a₀ s₀ : State} (p1 p2) (hW : ∀ k, W k = true) (h₀ : Keeps W a₀ s₀) : Keeps W a₀ (State.read8 s₀ p1 p2) := by
  unfold State.read8
  with_reducible (repeat' first | assumption | exact hW _ | exact Within.all hW | refine places_some ?_ | exact places_none | refine places_cons ?_ ?_ | refine places_pair ?_ ?_ | exact places_nil | refine places_reg ?_ ?_ | exact places_regs | exact fun _ _ => hW _ | intro _ | apply State.readPair_keeps | apply State.set_keeps | apply State.clearRC_keeps | apply State.readDraws_keeps | apply Keeps.ite | simp only [List.foldl_cons, List.foldl_nil] | apply Keeps.foldl | apply Keeps.foldlFst | extract_lets | split | apply Keeps.upd | apply Keeps.updOpen | apply Keeps.updBad)

theorem State.regRead_keeps {W : Places} {a₀ s₀ : State} (p1 p2 p3) (hW : ∀ k, W k = true) (h₀ : Keeps W a₀ s₀) : Keeps W a₀ (State.regRead s₀ p1 p2 p3) := by
  unfold State.regRead
  with_reducible (repeat' first | assumption | exact hW _ | exact Within.all hW | refine places_some ?_ | exact places_none | refine places_cons ?_ ?_ | refine places_pair ?_ ?_ | exact places_nil | refine places_reg ?_ ?_ | exact places_regs | exact fun _ _ => hW _ | intro _ | apply State.badSize_keeps | apply State.read4_keeps | apply State.read8_keeps | apply Keeps.ite | simp only [List.foldl_cons, List.foldl_nil] | apply Keeps.foldl | apply Keeps.foldlFst | extract_lets | split | apply Keeps.upd | apply Keeps.updOpen | apply Keeps.updBad)

theorem execRcRegisterRead_keeps {W : Places} {a₀ s₀ : State} (p0 p1 p2 p3) (hW : ∀ k, W k = true) (h₀ : Keeps W a₀ (s₀.elapse p0)) : KeepsOut W a₀ (execRcRegisterRead p0 p1 p2 p3 s₀) := by
  unfold execRcRegisterRead
  with_reducible (repeat' first | assumption | exact hW _ | exact Within.all hW | refine places_some ?_ | exact places_none | refine places_cons ?_ ?_ | refine places_pair ?_ ?_ | exact places_nil | refine places_reg ?_ ?_ | exact places_regs | exact fun _ _ => hW _ | intro _ | apply KeepsOut.next | apply KeepsOut.refused | apply KeepsOut.ite | apply State.regRead_keeps | apply Keeps.ite | simp only [List.foldl_cons, List.foldl_nil] | apply Keeps.foldl | apply Keeps.foldlFst | extract_lets | split)

theorem execReg64LowRead_keeps {W : Places} {a₀ s₀ : State} (p0 p1 p2) (hW : ∀ k, W k = true) (h₀ : Keeps W a₀ (s₀.elapse p0)) : KeepsOut W a₀ (execReg64LowRead p0 p1 p2 s₀) := by
  unfold execReg64LowRead
  with_reducible (repeat' first | assumption | exact hW _ | exact Within.all hW | refine places_some ?_ | exact places_none | refine places_cons ?_ ?_ | refine places_pair ?_ ?_ | exact places_nil | refine places_reg ?_ ?_ | exact places_regs | exact fun _ _ => hW _ | intro _ | apply KeepsOut.next | apply KeepsOut.refused | apply KeepsOut.ite | apply State.regRead_keeps | apply Keeps.ite | simp only [List.foldl_cons, List.foldl_nil] | apply Keeps.foldl | apply Keeps.foldlFst | extract_lets | split)

theorem State.writeFld_keeps {W : Places} {a₀ s₀ : State} (p1 p2 p3 p4) (h1 : W (p1.id / 128) = true) (h₀ : Keeps W a₀ s₀) : Keeps W a₀ (State.writeFld s₀ p1 p2 p3 p4) := by
  unfold State.writeFld
  with_reducible (repeat' first | assumption | exact Within.trans (by decide) hW | exact Within.bit (by decide) hW | refine places_some ?_ | exact places_none | refine places_cons ?_ ?_ | refine places_pair ?_ ?_ | exact places_nil | refine places_reg ?_ ?_ | exact places_regs | intro _ | apply State.put_keeps | apply Keeps.ite | simp only [List.foldl_cons, List.foldl_nil] | apply Keeps.foldl | apply Keeps.foldlFst | extract_lets | split)

theorem Reg.fields_place (r : Reg) : ∀ f ∈ r.fields, f.id / 128 = r.ctorIdx := by
  cases r <;> decide

theorem State.writePlain_keeps {W : Places} {a s : State} (r i full v) (hr : W r.ctorIdx = true) (h : Keeps W a s) : Keeps W a (s.writePlain r i full v) :=
  Keeps.foldlMem (fun _ x hx hu => State.writeFld_keeps x _ _ _ (by rw [Reg.fields_place r x hx]; exact hr) hu) h

theorem State.writeIf_keeps {W : Places} {a s : State} (ok l) (hl : ∀ q ∈ l, W (q.1.id / 128) = true) (h : Keeps W a s) :
    Keeps W a (s.writeIf ok l) := by
  unfold State.writeIf
  split
  · exact Keeps.foldlMem (fun _ x hx hu => State.set_keeps (hl x hx) hu) h
  · exact h

theorem State.acqWrite_keeps {W : Places} {a s : State} (c ok l) (hW : Within 0x200000000000000000000000000000000000 W) (hl : ∀ q ∈ l, W (q.1.id / 128) = true) (h : Keeps W a s) :
    Keeps W a (s.acqWrite c ok l) := by
  unfold State.acqWrite
  split
  · exact State.writeIf_keeps _ _ hl h
  · exact State.set_keeps (Within.bit (by decide) hW) h

theorem State.writeAcq_keeps {W : Places} {a₀ s₀ : State} (p1 p2 p3) (hW : Within 0x1672f8000000000000000000000000000000000 W) (h₀ : Keeps W a₀ s₀) : Keeps W a₀ (State.writeAcq s₀ p1 p2 p3) := by
  unfold State.writeAcq
  with_reducible (repeat' first | assumption | exact Within.trans (by decide) hW | exact Within.bit (by decide) hW | refine places_some ?_ | exact places_none | refine places_cons ?_ ?_ | refine places_pair ?_ ?_ | exact places_nil | refine places_reg ?_ ?_ | exact places_regs | intro _ | apply State.writeAcqCfg_keeps | apply State.acqWrite_keeps | apply State.acqCmd_keeps | apply State.writeIf_keeps | apply State.writeAcqRd_keeps | apply Keeps.ite | simp only [List.foldl_cons, List.foldl_nil] | apply Keeps.foldl | apply Keeps.foldlFst | extract_lets | split)

theorem State.writeTia_keeps {W : Places} {a₀ s₀ : State} (p1 p2 p3) (hW : Within 0x5ff7e000000000000000000000000000000000000000 W) (h₀ : Keeps W a₀ s₀) : Keeps W a₀ (State.writeTia s₀ p1 p2 p3) := by
  unfold State.writeTia
  with_reducible (repeat' first | assumption | exact Within.trans (by decide) hW | exact Within.bit (by decide) hW | refine places_some ?_ | exact places_none | refine places_cons ?_ ?_ | refine places_pair ?_ ?_ | exact places_nil | refine places_reg ?_ ?_ | exact places_regs | intro _ | apply State.writeTiaCfg_keeps | apply State.measWrite_keeps | apply State.tiaCmd_keeps | apply Keeps.ite | simp only [List.foldl_cons, List.foldl_nil] | apply Keeps.foldl | apply Keeps.foldlFst | extract_lets | split)

theorem State.writeCap_keeps {W : Places} {a₀ s₀ : State} (p1 p2 p3) (hW : Within 0x5838000000000000000000000000 W) (h₀ : Keeps W a₀ s₀) : Keeps W a₀ (State.writeCap s₀ p1 p2 p3) := by
  unfold State.writeCap
  with_reducible (repeat' first | assumption | exact Within.trans (by decide) hW | exact Within.bit (by decide) hW | refine places_some ?_ | exact places_none | refine places_cons ?_ ?_ | refine places_pair ?_ ?_ | exact places_nil | refine places_reg ?_ ?_ | exact places_regs | intro _ | apply State.writeIf_keeps | apply State.writeCapRd_keeps | apply Keeps.ite | simp only [List.foldl_cons, List.foldl_nil] | apply Keeps.foldl | apply Keeps.foldlFst | extract_lets | split)

theorem State.writeRd_keeps {W : Places} {a₀ s₀ : State} (rd wr i v) (h1 : W (rd.id / 128) = true) (h₀ : Keeps W a₀ s₀) :
    Keeps W a₀ (s₀.writeRd rd wr i v) := by
  unfold State.writeRd
  split
  · exact State.set_keeps h1 h₀
  · exact h₀

theorem State.writeBus_keeps {W : Places} {a₀ s₀ : State} (p1 p2 p3) (hW : Within 0x200000000000000000000000000000000077800000000000040400000000000232bc3b000006240000401000002020081283c3420600800446012000008404 W) (h₀ : Keeps W a₀ s₀) : Keeps W a₀ (State.writeBus s₀ p1 p2 p3) := by
  unfold State.writeBus
  with_reducible (repeat' first | assumption | exact Within.trans (by decide) hW | exact Within.bit (by decide) hW | refine places_some ?_ | exact places_none | refine places_cons ?_ ?_ | refine places_pair ?_ ?_ | exact places_nil | refine places_reg ?_ ?_ | exact places_regs | intro _ | apply State.writeBusCtrl_keeps | apply State.hostPost_keeps | apply State.busWrite_keeps | apply State.writeRd_keeps | apply State.mdioCmd_keeps | apply Keeps.ite | simp only [List.foldl_cons, List.foldl_nil] | apply Keeps.foldl | apply Keeps.foldlFst | extract_lets | split)

theorem State.writeRes_keeps {W : Places} {a₀ s₀ : State} (p1 p2 p3) (hW : Within 0x16000000000000004000000000000000000000000000000000000000000000000000000000000000000 W) (h₀ : Keeps W a₀ s₀) : Keeps W a₀ (State.writeRes s₀ p1 p2 p3) := by
  unfold State.writeRes
  with_reducible (repeat' first | assumption | exact Within.trans (by decide) hW | exact Within.bit (by decide) hW | refine places_some ?_ | exact places_none | refine places_cons ?_ ?_ | refine places_pair ?_ ?_ | exact places_nil | refine places_reg ?_ ?_ | exact places_regs | intro _ | apply State.writeIf_keeps | apply State.writeResRd_keeps | apply Keeps.ite | simp only [List.foldl_cons, List.foldl_nil] | apply Keeps.foldl | apply Keeps.foldlFst | extract_lets | split)

theorem State.writeRing_keeps {W : Places} {a₀ s₀ : State} (p1 p2 p3) (hW : Within 0x300000000000000000000000000000000077807e007e08000404000000000000000002000006240000401000002020081283c3420600800446012000008404 W) (h₀ : Keeps W a₀ s₀) : Keeps W a₀ (State.writeRing s₀ p1 p2 p3) := by
  unfold State.writeRing
  with_reducible (repeat' first | assumption | exact Within.trans (by decide) hW | exact Within.bit (by decide) hW | refine places_some ?_ | exact places_none | refine places_cons ?_ ?_ | refine places_pair ?_ ?_ | exact places_nil | refine places_reg ?_ ?_ | exact places_regs | intro _ | apply State.writeRingBase_keeps | apply State.writeRingCfg_keeps | apply State.writeTail_keeps | apply State.writeSeen_keeps | apply Keeps.ite | simp only [List.foldl_cons, List.foldl_nil] | apply Keeps.foldl | apply Keeps.foldlFst | extract_lets | split)

theorem State.writeSiteCmd_keeps {W : Places} {a₀ s₀ : State} (p1 p2) (hW : Within 0x2000000000000000000000000000000000778000000000000404000000000000000002000006240000401000002020581683c3420600800447012000018404 W) (h₀ : Keeps W a₀ s₀) : Keeps W a₀ (State.writeSiteCmd s₀ p1 p2) := by
  unfold State.writeSiteCmd
  with_reducible (repeat' first | assumption | exact Within.trans (by decide) hW | exact Within.bit (by decide) hW | refine places_some ?_ | exact places_none | refine places_cons ?_ ?_ | refine places_pair ?_ ?_ | exact places_nil | refine places_reg ?_ ?_ | exact places_regs | intro _ | apply State.siteCmd_keeps | apply State.armSite_keeps | apply State.abortSite_keeps | apply State.ackSite_keeps | apply State.resetSite_keeps | apply State.answer_keeps | apply Keeps.ite | simp only [List.foldl_cons, List.foldl_nil] | apply Keeps.foldl | apply Keeps.foldlFst | extract_lets | split)

theorem State.writeActs_keeps {W : Places} {a₀ s₀ : State} (p1 p2 p3 p4 p5) (hW : ∀ k, W k = true) (h₀ : Keeps W a₀ s₀) :
    KeepsOpt W a₀ (s₀.writeActs p1 p2 p3 p4 p5) := by
  unfold State.writeActs
  split <;> first | exact KeepsOpt.none | apply KeepsOpt.some
  all_goals with_reducible (repeat' first | assumption | exact hW _ | exact Within.all hW | refine places_some ?_ | exact places_none | refine places_cons ?_ ?_ | refine places_pair ?_ ?_ | exact places_nil | refine places_reg ?_ ?_ | exact places_regs | exact fun _ _ => hW _ | intro _ | apply State.dormant_keeps | apply State.wake_keeps | apply State.sleepSet_keeps | apply State.sleepClr_keeps | apply State.reload_keeps | apply State.fuseCmd_keeps | apply State.writeSiteCmd_keeps | apply State.writeJumpCfg_keeps | apply State.writeLooppre_keeps | apply State.writeMatchTmo_keeps | apply State.wfCmd_keeps | apply State.writePlain_keeps | apply State.writeSliceTs_keeps | apply State.writePeriod_keeps | apply State.writeChCfg_keeps | apply State.writeCmp_keeps | apply State.writeMask_keeps | apply State.writeCap_keeps | apply State.writeSyncMem_keeps | apply State.writeAcq_keeps | apply State.writeTia_keeps | apply State.requestRefl_keeps | apply State.writeReflCfg_keeps | apply State.set_keeps | apply State.disablePort_keeps | apply State.retrain_keeps | apply State.writeBus_keeps | apply State.writePlanCmd_keeps | apply State.swFire_keeps | apply State.writeTimer_keeps | apply State.writeIrcMask_keeps | apply State.completeWrite_keeps | apply State.writeOwner_keeps | apply State.writeBank_keeps | apply State.opCmd_keeps | apply State.keyCmd_keeps | apply State.devCmd_keeps | apply State.writeRes_keeps | apply State.writeRing_keeps | apply State.mbxData_keeps | apply State.mbxBell_keeps | apply State.mbxTake_keeps | apply State.lockWrite_keeps | apply State.writeForce_keeps | apply State.exitCmd_keeps | apply State.tileCmd_keeps | apply State.coreCmd_keeps | apply Keeps.ite | simp only [List.foldl_cons, List.foldl_nil] | apply Keeps.foldl | apply Keeps.foldlFst | extract_lets | split | apply Keeps.upd | apply Keeps.updOpen | apply Keeps.updBad)

theorem State.afterWrite_keeps {W : Places} {a₀ s₀ : State} (p1) (hW : Within 0x200000000000000000000000000000000001440000000000000000000040000000000000000000000000000000000000000000000000000000000000000000 W) (h₀ : Keeps W a₀ s₀) : Keeps W a₀ (State.afterWrite s₀ p1) := by
  unfold State.afterWrite
  with_reducible (repeat' first | assumption | exact Within.trans (by decide) hW | exact Within.bit (by decide) hW | refine places_some ?_ | exact places_none | refine places_cons ?_ ?_ | refine places_pair ?_ ?_ | exact places_nil | refine places_reg ?_ ?_ | exact places_regs | intro _ | apply State.set_keeps | apply State.flushMsix_keeps | apply State.recause_keeps | apply Keeps.ite | simp only [List.foldl_cons, List.foldl_nil] | apply Keeps.foldl | apply Keeps.foldlFst | extract_lets | split)

theorem State.regWrite_keeps {W : Places} {a₀ s₀ : State} (p1 p2 p3 p4 p5) (hW : ∀ k, W k = true) (h₀ : Keeps W a₀ s₀) :
    Keeps W a₀ (s₀.regWrite p1 p2 p3 p4 p5) := by
  unfold State.regWrite
  extract_lets v old full
  split
  · rename_i t ht
    exact State.writeActs_keeps _ _ _ _ _ hW h₀ t ht
  · exact State.afterWrite_keeps _ (Within.all hW) (State.writePlain_keeps _ _ _ _ (hW _) h₀)

theorem State.shadowHigh_keeps {W : Places} {a₀ s₀ : State} (p1 p2 p3) (h₀ : Keeps W a₀ s₀) : Keeps W a₀ (State.shadowHigh s₀ p1 p2 p3) := by
  unfold State.shadowHigh
  with_reducible (repeat' first | assumption | exact Within.trans (by decide) hW | exact Within.bit (by decide) hW | refine places_some ?_ | exact places_none | refine places_cons ?_ ?_ | refine places_pair ?_ ?_ | exact places_nil | refine places_reg ?_ ?_ | exact places_regs | intro _ | apply Keeps.ite | simp only [List.foldl_cons, List.foldl_nil] | apply Keeps.foldl | apply Keeps.foldlFst | extract_lets | split | apply Keeps.upd | apply Keeps.updOpen | apply Keeps.updBad)

theorem State.commitLow_keeps {W : Places} {a₀ s₀ : State} (p1 p2 p3) (hW : ∀ k, W k = true) (h₀ : Keeps W a₀ s₀) : Keeps W a₀ (State.commitLow s₀ p1 p2 p3) := by
  unfold State.commitLow
  with_reducible (repeat' first | assumption | exact hW _ | exact Within.all hW | refine places_some ?_ | exact places_none | refine places_cons ?_ ?_ | refine places_pair ?_ ?_ | exact places_nil | refine places_reg ?_ ?_ | exact places_regs | exact fun _ _ => hW _ | intro _ | apply State.regWrite_keeps | apply Keeps.ite | simp only [List.foldl_cons, List.foldl_nil] | apply Keeps.foldl | apply Keeps.foldlFst | extract_lets | split | apply Keeps.upd | apply Keeps.updOpen | apply Keeps.updBad)

theorem State.writeHit_keeps {W : Places} {a₀ s₀ : State} (p1 p2 p3) (hW : ∀ k, W k = true) (h₀ : Keeps W a₀ s₀) : Keeps W a₀ (State.writeHit s₀ p1 p2 p3) := by
  unfold State.writeHit
  with_reducible (repeat' first | assumption | exact hW _ | exact Within.all hW | refine places_some ?_ | exact places_none | refine places_cons ?_ ?_ | refine places_pair ?_ ?_ | exact places_nil | refine places_reg ?_ ?_ | exact places_regs | exact fun _ _ => hW _ | intro _ | apply State.regWrite_keeps | apply State.shadowHigh_keeps | apply State.commitLow_keeps | apply Keeps.ite | simp only [List.foldl_cons, List.foldl_nil] | apply Keeps.foldl | apply Keeps.foldlFst | extract_lets | split)

theorem State.write4_keeps {W : Places} {a₀ s₀ : State} (p1 p2 p3) (hW : ∀ k, W k = true) (h₀ : Keeps W a₀ s₀) : Keeps W a₀ (State.write4 s₀ p1 p2 p3) := by
  unfold State.write4
  with_reducible (repeat' first | assumption | exact hW _ | exact Within.all hW | refine places_some ?_ | exact places_none | refine places_cons ?_ ?_ | refine places_pair ?_ ?_ | exact places_nil | refine places_reg ?_ ?_ | exact places_regs | exact fun _ _ => hW _ | intro _ | apply State.writeHit_keeps | apply Keeps.ite | simp only [List.foldl_cons, List.foldl_nil] | apply Keeps.foldl | apply Keeps.foldlFst | extract_lets | split)

theorem State.write8_keeps {W : Places} {a₀ s₀ : State} (p1 p2 p3) (hW : ∀ k, W k = true) (h₀ : Keeps W a₀ s₀) : Keeps W a₀ (State.write8 s₀ p1 p2 p3) := by
  unfold State.write8
  with_reducible (repeat' first | assumption | exact hW _ | exact Within.all hW | refine places_some ?_ | exact places_none | refine places_cons ?_ ?_ | refine places_pair ?_ ?_ | exact places_nil | refine places_reg ?_ ?_ | exact places_regs | exact fun _ _ => hW _ | intro _ | apply State.write4_keeps | apply State.regWrite_keeps | apply Keeps.ite | simp only [List.foldl_cons, List.foldl_nil] | apply Keeps.foldl | apply Keeps.foldlFst | extract_lets | split)

theorem State.busStore_keeps {W : Places} {a₀ s₀ : State} (p1 p2 p3 p4) (hW : ∀ k, W k = true) (h₀ : Keeps W a₀ s₀) : Keeps W a₀ (State.busStore s₀ p1 p2 p3 p4) := by
  unfold State.busStore
  with_reducible (repeat' first | assumption | exact hW _ | exact Within.all hW | refine places_some ?_ | exact places_none | refine places_cons ?_ ?_ | refine places_pair ?_ ?_ | exact places_nil | refine places_reg ?_ ?_ | exact places_regs | exact fun _ _ => hW _ | intro _ | apply State.badSize_keeps | apply State.write4_keeps | apply State.write8_keeps | apply Keeps.ite | simp only [List.foldl_cons, List.foldl_nil] | apply Keeps.foldl | apply Keeps.foldlFst | extract_lets | split)

theorem execRegisterWrite_keeps {W : Places} {a₀ s₀ : State} (p0 p1 p2 p3 p4) (hW : ∀ k, W k = true) (h₀ : Keeps W a₀ (s₀.elapse p0)) : KeepsOut W a₀ (execRegisterWrite p0 p1 p2 p3 p4 s₀) := by
  unfold execRegisterWrite
  with_reducible (repeat' first | assumption | exact hW _ | exact Within.all hW | refine places_some ?_ | exact places_none | refine places_cons ?_ ?_ | refine places_pair ?_ ?_ | exact places_nil | refine places_reg ?_ ?_ | exact places_regs | exact fun _ _ => hW _ | intro _ | apply KeepsOut.next | apply KeepsOut.refused | apply KeepsOut.ite | apply State.busStore_keeps | apply Keeps.ite | simp only [List.foldl_cons, List.foldl_nil] | apply Keeps.foldl | apply Keeps.foldlFst | extract_lets | split)

theorem execReg64HighWrite_keeps {W : Places} {a₀ s₀ : State} (p0 p1 p2 p3) (hW : ∀ k, W k = true) (h₀ : Keeps W a₀ (s₀.elapse p0)) : KeepsOut W a₀ (execReg64HighWrite p0 p1 p2 p3 s₀) := by
  unfold execReg64HighWrite
  with_reducible (repeat' first | assumption | exact hW _ | exact Within.all hW | refine places_some ?_ | exact places_none | refine places_cons ?_ ?_ | refine places_pair ?_ ?_ | exact places_nil | refine places_reg ?_ ?_ | exact places_regs | exact fun _ _ => hW _ | intro _ | apply KeepsOut.next | apply KeepsOut.refused | apply KeepsOut.ite | apply State.busStore_keeps | apply Keeps.ite | simp only [List.foldl_cons, List.foldl_nil] | apply Keeps.foldl | apply Keeps.foldlFst | extract_lets | split)

end Sys2Proof.Machine
end

