-- ==== Sys2Proof/Laws/Frame.lean ====
section
/-! SUPPORT. How the laws of what operations keep are used: a field of a register that an operation does not name reads as before,
and what entering safe state leaves. -/

namespace Sys2Proof.Machine

/-- A mask without a place names only others. -/
theorem Within.ne {m n : Nat} (h : m.testBit n = false) : Within m (fun k => k != n) := fun k hk => by
  rw [bne_iff_ne]
  rintro rfl
  rw [h] at hk
  cases hk

/-- A place other than the one that is left out. -/
theorem places_ne {k n : Nat} (h : k ≠ n) : (fun k => k != n) k = true := by
  rw [bne_iff_ne]
  exact h

/-- A field whose register is left alone reads as before. -/
theorem Keeps.get {s t : State} {f : Fld} {i : Nat} (h : Keeps (fun k => k != f.id / 128) s t) : t.get f i = s.get f i :=
  h.reg f i (by simp)

/-- Memories that are left alone read as before. -/
theorem Keeps.byteAt {s t : State} {lake : Bool} {a : Nat} (h : Keeps (fun k => k != 500) s t) : t.byteAt lake a = s.byteAt lake a := by
  obtain ⟨h1, h2, -, h4, h5, h6, -⟩ := h.byte (by simp)
  unfold State.byteAt State.zeroed
  rw [h1, h2, h4, h5, h6]

/-- Device time after an operation that leaves UMB_DT alone. -/
theorem Keeps.now {s t : State} (h : Keeps (fun k => k != F.UMB_DT.DT.id / 128) s t) : t.now = s.now := Keeps.get (f := F.UMB_DT.DT) h

/-- A field reads the same after an update of the other fields of the state. -/
@[simp] theorem State.get_mk (s : State) (f : Fld) (i : Nat)
    {x_tick : List TickNote} {x_free : Nat} {x_epoch : Nat} {x_dram : List Host.Cell} {x_dramZero : List (Nat × Nat)} {x_lake : List Host.Cell} {x_readData : Nat} {x_out : List
    Output} {x_pins : Pins} {x_pwr : Power} {x_ldr : Loader} {x_img : ImageCfg} {x_sites : Tab SiteUnit} {x_slices : Tab SliceUnit} {x_grans : List Gran}
    {x_chans : Tab ChanUnit} {x_wave : Tab (Option WaveEntry)} {x_waveBad : List Nat} {x_wfAcc : Tab (Option WfAccess)} {x_ctxs : Tab CtxUnit} {x_acqs :
    Tab AcqUnit} {x_tias : Tab TiaUnit} {x_trims : Tab TrimUnit} {x_engines : Tab TrimEngine} {x_skews : Tab Skew} {x_buses : Tab BusUnit} {x_mdioQ : List
    (Nat × Nat)} {x_mdioAt : Nat} {x_evf : Evf} {x_irc : Irc} {x_safe : SafeUnit} {x_keys : Tab (List Byte)} {x_barriers : Tab (Option Nat)} {x_demand :
    Tab (List (Nat × Nat))} {x_umb : Umb} {x_saf : Saf} {x_shadows : Tab Shadow} {x_tlinks : Tab TileLink} {x_ports : Tab LinkPort} {x_plans : Tab Plan}
    {x_logs : Tab Datalog} {x_uds : Tab UdsConn} {x_keyQ : List Nat} {x_rings : Tab HostRing} {x_lakeAt : Tab (Option (Nat × Option Nat))} {x_lakeEpoch :
    Tab Nat} {x_opAt : Option (Nat × Nat)} {x_banks : Tab DramBank} {x_nvm : List (Nat × Nat)} {x_dramDead : Bool} {x_dramBad : List Nat} {x_pending : List Instr} :
    (State.mk s.regs x_tick x_free x_epoch x_dram x_dramZero x_lake x_readData x_out x_pins x_pwr x_ldr x_img x_sites x_slices x_grans x_chans x_wave
      x_waveBad x_wfAcc x_ctxs x_acqs x_tias x_trims x_engines x_skews x_buses x_mdioQ x_mdioAt x_evf x_irc x_safe x_keys x_barriers x_demand
      x_umb x_saf x_shadows x_tlinks x_ports x_plans x_logs x_uds x_keyQ x_rings x_lakeAt x_lakeEpoch x_opAt x_banks x_nvm x_dramDead x_dramBad x_pending : State).get f i = s.get f i := State.get_congr (by rfl) f i

/-- A field that a reset keeps (R9, R373). -/
theorem State.get_keep (r s : State) (f g : Fld) (i : Nat) : (r.keep s f).get g i = if g.id = f.id then s.get g i else r.get g i := by
  unfold State.keep State.get
  simp only [Tab.get_set]
  split
  · rename_i h; rw [h]
  · rfl

/-- What every reset keeps (R9, R373). -/
theorem State.get_restart (s r : State) (g : Fld) (i : Nat) : (s.restart r).get g i =
    if g.id ∈ [F.DEV_ID.ORDER.id, F.DEV_SERIAL.SERIAL.id, F.CFG_FUSE_STAT.KEYHASH_PROG.id, F.CFG_FUSE_STAT.SECVER.id,
      F.UMB_AGE.BLOCKS.id] then s.get g i else r.get g i := by
  unfold State.restart
  simp only [List.foldl_cons, List.foldl_nil, State.get_mk, State.get_keep, List.mem_cons, List.not_mem_nil, or_false]
  by_cases h1 : g.id = F.UMB_AGE.BLOCKS.id
  · simp [h1]
  by_cases h2 : g.id = F.CFG_FUSE_STAT.SECVER.id
  · simp [h2]
  by_cases h3 : g.id = F.CFG_FUSE_STAT.KEYHASH_PROG.id
  · simp [h3]
  by_cases h4 : g.id = F.DEV_SERIAL.SERIAL.id
  · simp [h4]
  by_cases h5 : g.id = F.DEV_ID.ORDER.id
  · simp [h5]
  simp [h1, h2, h3, h4, h5]

/-- A field after a device reset with SAFE_IN_n high: kept, or at reset (R373). -/
theorem State.get_deviceReset (s : State) (h : s.pins.safeInHigh = true) (g : Fld) (i : Nat) : s.deviceReset.get g i =
    if g.id ∈ [F.UMB_DT.DT.id, F.UMB_ERA.ERA.id, F.PWR_RAIL_STAT.GOOD.id, F.PCI_KEY_MAP.SLOTS.id] then s.get g i
    else (s.restart State.reset).get g i := by
  unfold State.deviceReset State.sampleSafeIn
  simp only [h, if_true, State.get_mk, List.foldl_cons, List.foldl_nil, State.get_keep, List.mem_cons, List.not_mem_nil, or_false]
  by_cases h1 : g.id = F.PCI_KEY_MAP.SLOTS.id
  · simp [h1]
  by_cases h2 : g.id = F.PWR_RAIL_STAT.GOOD.id
  · simp [h2]
  by_cases h3 : g.id = F.UMB_ERA.ERA.id
  · simp [h3]
  by_cases h4 : g.id = F.UMB_DT.DT.id
  · simp [h4]
  simp [h1, h2, h3, h4]

/-- What a device reset does to the rest of the state, with SAFE_IN_n high. -/
theorem State.deviceReset_rest (s : State) (h : s.pins.safeInHigh = true) : s.deviceReset.keys = s.keys ∧ s.deviceReset.dram = [] ∧
    s.deviceReset.lake = [] ∧ s.deviceReset.pwr.inReset = true := by
  unfold State.deviceReset State.sampleSafeIn
  simp only [h, if_true]
  refine ⟨?_, ?_, ?_, ?_⟩ <;> trivial
/-- Safe state holds. -/
theorem State.isSafe_iff (s : State) : s.isSafe = true ↔ s.get F.CIN_STAT.SAFE 0 = 1 := by simp [State.isSafe, State.flag]

/-- What latching an entry leaves of CIN_STAT. -/
theorem State.latchEntry_safe (s : State) (b : Nat) : (s.latchEntry b).get F.CIN_STAT.SAFE 0 = s.get F.CIN_STAT.SAFE 0 :=
  Keeps.get (State.latchEntry_keeps _ (Within.ne (by decide)) (Keeps.refl _ s))

/-- Safe state holds after its entry (R363, R367). -/
theorem State.enterSafe_isSafe (s : State) (b : Nat) : (s.enterSafe b).isSafe = true := by
  rw [State.isSafe_iff]
  by_cases h : s.isSafe = true
  · have h' := (State.isSafe_iff s).1 h
    simp only [State.enterSafe, h, if_true]
    have ha : ∀ v : State, (v.addCause b).get F.CIN_STAT.SAFE 0 = v.get F.CIN_STAT.SAFE 0 := fun v =>
      Keeps.get (State.addCause_keeps _ (Within.ne (by decide)) (Keeps.refl _ v))
    have hv : ∀ v : State, v.voidExit.get F.CIN_STAT.SAFE 0 = v.get F.CIN_STAT.SAFE 0 := fun v => by
      simp only [State.voidExit, State.get_mk]
      exact State.get_set_fld _ _ _ _ _ _ (by decide)
    split
    · rw [ha, h']
    split
    · rw [ha, State.refuseExit, State.get_set_fld _ _ _ _ _ _ (by decide), State.get_set_fld _ _ _ _ _ _ (by decide), hv, h']
    · rw [hv, State.latchEntry_safe, h']
  · simp only [State.enterSafe, h, if_false, Bool.false_eq_true]
    refine (Keeps.get (State.fire_keeps _ (State.safeEffects_keeps (Within.ne (by decide)) (Keeps.refl _ _)))).trans ?_
    simp only [State.get_mk]
    rw [State.get_set_fld _ _ _ _ _ _ (by decide), State.get_set_self]
    rfl

/-- What each step of a loop leaves alone the loop leaves alone. -/
theorem State.each_inv {β : Type} (P : State → β) (f : State → Nat → State) (h : ∀ s x, P (f s x) = P s) (l : List Nat) (s : State) :
    P (s.each l f) = P s := by
  unfold State.each
  induction l generalizing s with
  | nil => rfl
  | cons a l ih => exact (ih (f s a)).trans (h s a)

/-- The power state of a group set reads back. -/
@[simp] theorem State.group_setGroup (s : State) (g v : Nat) : (s.setGroup g v).group g = v % 8 := by
  unfold State.group State.setGroup
  rw [State.get_set_self]
  rfl

/-- A word that a context executes has its opcode's effect. -/
theorem State.instr_runs {s : State} {x op w : Nat} (h : s.runsWord x op w = true) (f : Nat → State) : s.instr x op f = f w := by
  unfold State.runsWord at h
  simp only [Bool.and_eq_true, Bool.not_eq_true', beq_iff_eq] at h
  obtain ⟨⟨⟨⟨⟨h1, h2⟩, h3⟩, h4⟩, h5⟩, h6⟩ := h
  unfold State.instr
  rw [if_neg (by simp [h1, h2]), h3]
  dsimp only
  rw [if_neg (by simp [h4]), h5]
  dsimp only
  rw [if_pos h6]

/-- Blocks in order are taken (R231, R238). -/
theorem State.recv_inOrder {s : State} {p q : Nat} (h : s.inOrder p q = true) (n : Nat) (f : State → State) :
    s.recv p q n f = f (s.took p q n) := by
  unfold State.inOrder at h
  unfold State.recv State.took
  dsimp only
  split at h
  · rename_i a ha
    rw [ha]
    dsimp only
    rw [if_pos (by simpa using h)]
  · rename_i ha
    rw [ha]

/-- Taking blocks touches no register. -/
@[simp] theorem State.get_took (s : State) (p q n : Nat) (f : Fld) (i : Nat) : (s.took p q n).get f i = s.get f i := by
  unfold State.took
  refine (State.each_inv (fun s => s.get f i) _ (by intro s x; exact State.get_congr rfl f i) _ _).trans ?_
  exact State.get_congr rfl f i

/-- Taking blocks leaves the sites alone. -/
@[simp] theorem State.sites_took (s : State) (p q n : Nat) : (s.took p q n).sites = s.sites := by
  unfold State.took
  refine (State.each_inv (fun s => s.sites) _ (by intro s x; rfl) _ _).trans ?_
  rfl

/-- Taking blocks leaves a port's other state alone. -/
theorem State.port_took (s : State) (p q n : Nat) : (s.took p q n).port p = { s.port p with ackSeq := some ((q + n - 1) % 256) } := by
  unfold State.took
  refine (State.each_inv (fun s => s.port p) _ (by intro s x; rfl) _ _).trans ?_
  simp [State.port, State.setPort]

/-- A command gives what its meaning gives. -/
theorem gives_of {c : Instr} {s : State} {P : State → Prop} {o : Out} (h : exec c s = o) (k : ∃ t, o = .next t ∧ P t) : gives c s P := by
  unfold gives
  rw [h]
  exact k

end Sys2Proof.Machine
end

