-- ==== Sys2Proof/WellFormed.lean ====
section
/-! DEFINITION. The commands that are well formed: the time since the command before fits device time, and the lists
that a command carries have the lengths the spec gives them. `exec` is total and does not look at this check. -/

namespace Sys2Proof

/-- Is an elapsed time below one wrap of device time (R4, R202). -/
def wfTime (e : Nat) : Bool := decide (e < 2 ^ 64)

/-- Has an image record a header that its fields can hold (R50): type and flags of 16 bits, length of 32 bits. -/
def wfRecord (r : ImageRecord) : Bool :=
  decide (r.typ < 65536) && decide (r.flags < 65536) && decide (r.length < 2 ^ 32)

/-- The time that has passed since the command before. -/
def Instr.elapsed : Instr → Nat
  | .powerOnReset e .. => e
  | .vauxUnderVoltage e => e
  | .railsGood e => e
  | .railUnderVoltage e .. => e
  | .coreIslandAdmission e => e
  | .tileCommonAdmission e => e
  | .ladderRequest e => e
  | .ladderSlot e => e
  | .groupSettleEnd e .. => e
  | .poweringEnd e => e
  | .resetNFall e => e
  | .deviceReset e => e
  | .resetNRise e => e
  | .devReset e .. => e
  | .testenHigh e => e
  | .pwrSleepSet e .. => e
  | .pwrSleepClr e .. => e
  | .dormantRequest e => e
  | .dormantEntryComplete e => e
  | .wake e .. => e
  | .wakeComplete e => e
  | .thermalConversion e .. => e
  | .loadStart e .. => e
  | .slotReadStart e .. => e
  | .imageRecordArrival e .. => e
  | .dramTrainingComplete e .. => e
  | .lastRecordRead e => e
  | .checksComplete e => e
  | .commit e => e
  | .reload e .. => e
  | .precheckComplete e .. => e
  | .reloadTeardown e => e
  | .fuseProgramKeyHash e .. => e
  | .fuseRaiseSecver e .. => e
  | .fuseOpComplete e => e
  | .siteArm e .. => e
  | .siteAbort e .. => e
  | .siteAck e .. => e
  | .siteReset e .. => e
  | .siteResetRelease e .. => e
  | .staleCheck e .. => e
  | .startInstant e .. => e
  | .sliceMissedRelease e .. => e
  | .stoppingComplete e .. => e
  | .joinSend e .. => e
  | .vectorNext e .. => e
  | .vectorRepeat e .. => e
  | .loopBegin e .. => e
  | .loopEnd e .. => e
  | .matchPass e .. => e
  | .altVector e .. => e
  | .endVector e .. => e
  | .code7 e .. => e
  | .granuleCheckPoint e .. => e
  | .holdRelease e .. => e
  | .refillGranuleComplete e .. => e
  | .sliceReadyReport e .. => e
  | .resumeRelease e .. => e
  | .segmentAdmission e .. => e
  | .queueEntryRelease e .. => e
  | .eventJumpRequest e .. => e
  | .jumpHonoured e .. => e
  | .ctrlCrcReport e .. => e
  | .slpJumpCfgWrite e .. => e
  | .slpLooppreWrite e .. => e
  | .slpMatchTmoWrite e .. => e
  | .waveformRead e .. => e
  | .waveformWrite e .. => e
  | .waveformAccessComplete e .. => e
  | .wodPeriodWrite e .. => e
  | .wodSliceTsWrite e .. => e
  | .wodChCfgWrite e .. => e
  | .driveEvent e .. => e
  | .strobe e .. => e
  | .windowEnd e .. => e
  | .timingSetRelease e .. => e
  | .comparatorSettingWrite e .. => e
  | .settlingEnd e .. => e
  | .sepCmpChMaskWrite e .. => e
  | .granuleCountsAdd e .. => e
  | .failRecordArrival e .. => e
  | .stopDecision e .. => e
  | .stopRelease e .. => e
  | .captureRingRdWrite e .. => e
  | .stepWordFetch e .. => e
  | .stepBoundarySample e .. => e
  | .nop e .. => e
  | .play e .. => e
  | .jseg e .. => e
  | .tset e .. => e
  | .acq e .. => e
  | .meas e .. => e
  | .mget e .. => e
  | .waitev e .. => e
  | .waitdt e .. => e
  | .drain e .. => e
  | .sync e .. => e
  | .trimok e .. => e
  | .jmp e .. => e
  | .call e .. => e
  | .ret e .. => e
  | .dbnz e .. => e
  | .ldi e .. => e
  | .addi e .. => e
  | .add e .. => e
  | .sub e .. => e
  | .mov e .. => e
  | .get e .. => e
  | .cmpi e .. => e
  | .cmp e .. => e
  | .bin e .. => e
  | .dlog e .. => e
  | .bustx e .. => e
  | .req e .. => e
  | .stop e .. => e
  | .eventLatch e .. => e
  | .waitTimeout e .. => e
  | .serviceResult e .. => e
  | .syncRelease e .. => e
  | .trapFiring e .. => e
  | .trimWindowClose e .. => e
  | .sliceEndReport e .. => e
  | .syncMemberWrite e .. => e
  | .stepMissedRelease e .. => e
  | .acqArmCommand e .. => e
  | .acqDisarmCommand e .. => e
  | .acqForce e .. => e
  | .acqEventArm e .. => e
  | .acqArmDt e .. => e
  | .sequenceOccurrence e .. => e
  | .sequenceTimer e .. => e
  | .privilegedTriggerEval e .. => e
  | .acqAutoTimeout e .. => e
  | .historySample e .. => e
  | .postTriggerComplete e .. => e
  | .acqRecordArrival e .. => e
  | .sepAcqChCfgWrite e .. => e
  | .acqRingRdWrite e .. => e
  | .tiaStart e .. => e
  | .tiaEnd e .. => e
  | .measStartDt e .. => e
  | .measSample e .. => e
  | .measWindowExpiry e .. => e
  | .gateClose e .. => e
  | .measDone e .. => e
  | .dtWrap e => e
  | .umbDtRead e .. => e
  | .referenceLock e .. => e
  | .referenceLoss e .. => e
  | .xtalFail e => e
  | .ppsInEdge e => e
  | .ppsOutRise e => e
  | .trimStepEnd e .. => e
  | .trimCommit e .. => e
  | .trimCommitMissed e .. => e
  | .channelReturn e .. => e
  | .syncPulse e => e
  | .syncPulseReturn e .. => e
  | .tskewLost e .. => e
  | .qualityAgeChange e .. => e
  | .reflectionRequest e .. => e
  | .reflectionStep e .. => e
  | .reflectionEnd e .. => e
  | .tileLinkUp e .. => e
  | .frameArrival e .. => e
  | .ack e .. => e
  | .tileReplayTimeout e .. => e
  | .tileLinkDown e .. => e
  | .portStart e .. => e
  | .cap e .. => e
  | .portRetry e .. => e
  | .rate e .. => e
  | .rateSwitch e .. => e
  | .rateStepEnd e .. => e
  | .portReplayTimeout e .. => e
  | .portDown e .. => e
  | .portRetrain e .. => e
  | .portDisable e .. => e
  | .timeExchangeStart e .. => e
  | .tsync e .. => e
  | .treq e .. => e
  | .tresp e .. => e
  | .tinfo e .. => e
  | .upstreamLoss e => e
  | .evbc e .. => e
  | .broadcastRelease e .. => e
  | .tokenJoin e .. => e
  | .tokenJoinres e .. => e
  | .tokenEntry e .. => e
  | .tokenStart e .. => e
  | .tokenHold e .. => e
  | .tokenReady e .. => e
  | .tokenResume e .. => e
  | .tokenJump e .. => e
  | .tokenStop e .. => e
  | .tokenTset e .. => e
  | .tokenState e .. => e
  | .tokenReset e .. => e
  | .tokenTrim e .. => e
  | .tokenCounts e .. => e
  | .tokenCcrc e .. => e
  | .record e .. => e
  | .busRunWrite e .. => e
  | .busFlush e .. => e
  | .busRecover e .. => e
  | .phyResetWrite e .. => e
  | .busTxPost e .. => e
  | .payloadRead e .. => e
  | .frameStart e .. => e
  | .arbitrationLost e .. => e
  | .frameExpired e .. => e
  | .txWriteBack e .. => e
  | .gateFiring e .. => e
  | .frameReceived e .. => e
  | .busError e .. => e
  | .busOffRecovery e .. => e
  | .linHeader e .. => e
  | .linWakeUp e .. => e
  | .mdioCommand e .. => e
  | .mdioComplete e .. => e
  | .workItemEnqueue e .. => e
  | .safGet e .. => e
  | .dispatch e .. => e
  | .itemComplete e .. => e
  | .delayDue e => e
  | .watchdog e .. => e
  | .planStart e .. => e
  | .planStop e .. => e
  | .planAbort e .. => e
  | .dutEvent e .. => e
  | .planTestEnd e .. => e
  | .planTimeout e .. => e
  | .staleRetry e .. => e
  | .reflEvent e .. => e
  | .datalogRecord e .. => e
  | .lost e .. => e
  | .udsRequest e .. => e
  | .udsSession e .. => e
  | .security e .. => e
  | .download e .. => e
  | .ecuReset e .. => e
  | .udsResponse e .. => e
  | .p2Expiry e .. => e
  | .testerPresent e .. => e
  | .keyReply e => e
  | .keyTimeout e .. => e
  | .netlistBuild e .. => e
  | .netlistAnalysis e .. => e
  | .trigInEdge e .. => e
  | .evfSwfire e .. => e
  | .eventChannelFiring e .. => e
  | .heldFiringRelease e .. => e
  | .trigOutPulseEnd e .. => e
  | .timerExpiry e .. => e
  | .evfTimerCfgWrite e .. => e
  | .timerStartFiring e .. => e
  | .interruptPending e .. => e
  | .ircClaim e .. => e
  | .ircComplete e .. => e
  | .ircMaskWrite e .. => e
  | .holdoffEnd e .. => e
  | .lakOwnerWrite e .. => e
  | .lakStateWrite e .. => e
  | .bankTransitionComplete e .. => e
  | .lakeWrite e .. => e
  | .lakeSetWrite e .. => e
  | .lakeClearWrite e .. => e
  | .dmcOpCmd e .. => e
  | .opChangeComplete e .. => e
  | .requestPromotion e .. => e
  | .pageCloseTimeout e .. => e
  | .perstN e .. => e
  | .flr e .. => e
  | .hrgCmdTailWrite e .. => e
  | .descriptorRead e .. => e
  | .arm e .. => e
  | .abort e .. => e
  | .ackCommand e .. => e
  | .reset e .. => e
  | .setArg e .. => e
  | .ringPlanStart e .. => e
  | .ringPlanStop e .. => e
  | .ringPlanAbort e .. => e
  | .reflect e .. => e
  | .tableLoad e .. => e
  | .nvmRead e .. => e
  | .nvmErase e .. => e
  | .nvmProgram e .. => e
  | .todSet e .. => e
  | .todAdj e .. => e
  | .descriptorComplete e .. => e
  | .hrgCmdSeenWrite e .. => e
  | .ringDisable e .. => e
  | .hrgResRdWrite e .. => e
  | .mbxDataWrite e .. => e
  | .mbxDoorbell e .. => e
  | .mbxTake e .. => e
  | .mbxLockRead e .. => e
  | .mbxLockRelease e .. => e
  | .keyStoreWrite e => e
  | .keyStoreErase e => e
  | .reg64LowRead e .. => e
  | .reg64HighWrite e .. => e
  | .rcRegisterRead e .. => e
  | .registerWrite e .. => e
  | .safeInNFall e .. => e
  | .cinForceWrite e .. => e
  | .cinExit e .. => e
  | .exitRelease e => e
  | .cinTileReset e .. => e
  | .cinCoreReset e .. => e
  | .safeInNRise e => e
  | .testenLow e => e
  | .referenceReturn e => e
  | .pcieLinkDown e => e
  | .pcieLinkUp e .. => e
  | .msixUnmask e .. => e
  | .dramWrite e .. => e
  | .isotpNTimeout e .. => e
  | .phyResetRelease e .. => e
  | .xtalTempRead e .. => e
  | .umbAgeIncrement e => e

/-- The operands of a command that carries more than its time are well formed. -/
def wfOperands : Instr → Bool
  | .thermalConversion _ temps => temps.length == 9
  | .imageRecordArrival _ r => wfRecord r
  | .loadStart _ a b => a.length == 64 && b.length == 64
  | .slotReadStart _ h => h.length == 64
  | .precheckComplete _ a b images =>
    a.length == 64 && b.length == 64 && images.all (fun p => p.1.length == 64 && p.2.all wfRecord)
  | _ => true

/-- A command is well formed: its time and its operands are. -/
def wellFormed (i : Instr) : Bool := wfTime i.elapsed && wfOperands i

end Sys2Proof
end

