-- ==== Sys2Proof/Tests/Slice0.lean ====
section
/-! SUPPORT. Tests: each check of WellFormed refuses an ill-formed term, worked values of the spec, and for every clause of a statement
with hypotheses a concrete state and operands that meet them together. -/

set_option linter.unusedVariables false
set_option maxRecDepth 8000
set_option Elab.async false

namespace Sys2Proof.Tests

open Sys2Proof Sys2Proof.Machine

/-! ### Well-formedness -/

/-- A time of a whole wrap is refused. -/
theorem test_wf_time : wellFormed (.dtWrap (2 ^ 64)) = false ∧ wellFormed (.dtWrap (2 ^ 64 - 1)) = true := by decide +kernel

/-- Nine temperatures, not eight. -/
theorem test_wf_temps : wellFormed (.thermalConversion 0 (List.replicate 8 0)) = false ∧
    wellFormed (.thermalConversion 0 (List.replicate 9 0)) = true := by decide +kernel

/-- A boot descriptor copy of 63 bytes is refused, in either place. -/
theorem test_wf_load : wellFormed (.loadStart 0 (List.replicate 63 0) (List.replicate 64 0)) = false ∧
    wellFormed (.loadStart 0 (List.replicate 64 0) (List.replicate 63 0)) = false ∧
    wellFormed (.loadStart 0 (List.replicate 64 0) (List.replicate 64 0)) = true := by decide +kernel

/-- An image header has 64 bytes. -/
theorem test_wf_header : wellFormed (.slotReadStart 0 (List.replicate 65 0)) = false ∧
    wellFormed (.slotReadStart 0 (List.replicate 64 0)) = true := by decide +kernel

/-- Type and flags of a record have 16 bits, its length 32. -/
theorem test_wf_record : wellFormed (.imageRecordArrival 0 ⟨65536, 0, 0, 0, [], []⟩) = false ∧
    wellFormed (.imageRecordArrival 0 ⟨1, 65536, 0, 0, [], []⟩) = false ∧
    wellFormed (.imageRecordArrival 0 ⟨1, 0, 2 ^ 32, 0, [], []⟩) = false ∧
    wellFormed (.imageRecordArrival 0 ⟨1, 0, 0, 0, [], []⟩) = true := by decide +kernel

/-- The copies, the headers and the records of a pre-check. -/
theorem test_wf_precheck : wellFormed (.precheckComplete 0 [] (List.replicate 64 0) []) = false ∧
    wellFormed (.precheckComplete 0 (List.replicate 64 0) [] []) = false ∧
    wellFormed (.precheckComplete 0 (List.replicate 64 0) (List.replicate 64 0) [([], [])]) = false ∧
    wellFormed (.precheckComplete 0 (List.replicate 64 0) (List.replicate 64 0)
      [(List.replicate 64 0, [⟨65536, 0, 0, 0, [], []⟩])]) = false ∧
    wellFormed (.precheckComplete 0 (List.replicate 64 0) (List.replicate 64 0) [(List.replicate 64 0, [])]) = true := by decide +kernel

/-! ### Worked values of the spec -/

/-- The check value of CRC-32C (R50). -/
theorem test_crc32c : crc32c [0x31, 0x32, 0x33, 0x34, 0x35, 0x36, 0x37, 0x38, 0x39] = 0xE3069283 := by decide +kernel

/-- The rows of the table give no bits. -/
theorem test_no_words : decodeTableWord 64 0 = none := rfl

/-! ### Witnesses

For every clause of a statement that has hypotheses, a state and operands that meet them together; `witness_<statement>_<n>` is its
nth clause, an equation that only names an expression is put in. The clauses 9 and 14 of BootComplete ask that a signature verifies, which a
constant without a body decides, so no closed term meets them. -/

/-- The reset state with fields set: (field, index, value). -/
def setAll (l : List (Fld × Nat × Nat)) : State := l.foldl (fun s p => s.set p.1 p.2.1 p.2.2) State.reset


/-- An image header of n records and total bytes. -/
def header (n total : Nat) : List Byte :=
  let h := toBytes 4 0x494B564D ++ toBytes 2 0x0100 ++ toBytes 2 64 ++ toBytes 4 n ++ toBytes 4 total ++ List.replicate 44 0
  h ++ toBytes 4 (crc32c h)

/-- A boot descriptor copy that passes. -/
def bootDesc : List Byte :=
  let h := toBytes 4 0x424B564D ++ [0, 25] ++ List.replicate 18 0 ++ toBytes 4 0x2000 ++ toBytes 4 0 ++ toBytes 4 0x2000 ++ toBytes 4 0 ++
    List.replicate 20 0
  h ++ toBytes 4 (crc32c h)

/-- A record of a type with its checksum and padding. -/
def recordOf (t : Nat) (b : List Byte) : ImageRecord :=
  ⟨t, 0, b.length, BitVec.ofNat 32 (crc32c (recHead ⟨t, 0, b.length, 0, [], []⟩ ++ b)), b, List.replicate (recSize ⟨t, 0, b.length, 0, [], []⟩ - 12 - b.length) 0⟩

/-- A DRAM record with one CONTROL region of 1 GiB. -/
def dramBody : List Byte :=
  [1, 1, 0, 0] ++ toBytes 2 1600 ++ toBytes 2 1600 ++ toBytes 2 1600 ++ List.replicate 214 0 ++ toBytes 4 0 ++ toBytes 4 0 ++ toBytes 4 1024 ++ [2] ++
    List.replicate 243 0

/-- A command of a ring: operation and arguments. -/
def cmdOf (op a b c : Nat) : RingCmd := { raw := toBytes 8 a ++ toBytes 8 b ++ toBytes 8 c ++ toBytes 8 op, taken := 0 }

/-- The bits of a frame block of no blocks, scrambled and stuffed. -/
def frameBits : List Bool :=
  stuff afterComma ((List.range 2).map (fun k => bitAt 2 k) ++ scramble scrambleSeed ((List.range 64).map (fun k => bitAt (framePay + crc8 (toBytes 7 framePay) * 2 ^ 56) k)))
where framePay : Nat := 1


/-- The cells of a list of bytes at address 0. -/
def cells (b : List Byte) : List (Nat × Byte) := (b.zipIdx.filter (fun p => p.1 != 0)).map (fun p => (p.2, p.1))

/-! #### PowerAndPinsComplete -/

theorem witness_PowerAndPinsComplete_3 : ∃ (s u : State), u = s.elapse 0 ∧ u.pwr.vauxGood = true :=
  ⟨setAll [], _, rfl, by decide +kernel⟩

theorem witness_PowerAndPinsComplete_4 : ∃ (s u : State) (rail : Fin 7), u = s.elapse 0 ∧ bitAt (u.get F.PWR_RAIL_STAT.GOOD 0) rail.val = true :=
  ⟨setAll [(F.PWR_RAIL_STAT.GOOD, 0, 255)], _, 0, rfl, by decide +kernel⟩

theorem witness_PowerAndPinsComplete_5 : ∃ (s u : State), u = s.elapse 0 ∧ u.pins.resetN = true :=
  ⟨setAll [], _, rfl, by decide +kernel⟩

theorem witness_PowerAndPinsComplete_6 : ∃ (s u : State), u = s.elapse 0 ∧ u.pins.resetN = false ∧ u.reached (wrap64 (u.pins.resetFall + us 10)) =
    true ∧ u.pins.resetDone = false ∧ u.pins.safeInHigh = true :=
  ⟨{ setAll [(F.UMB_DT.DT, 0, 1000000000000)] with pins := { resetN := false } }, _, rfl, by decide +kernel⟩

theorem witness_PowerAndPinsComplete_7 : ∃ (s u : State), u = s.elapse 0 ∧ u.pins.resetN = false ∧ u.reached (wrap64 (u.pins.resetFall + us 10)) =
    true ∧ (u.pins.resetDone = true ∨ u.pins.safeInHigh = true) :=
  ⟨{ setAll [(F.UMB_DT.DT, 0, 1000000000000)] with pins := { resetN := false, safeInHigh := false, resetDone := true } }, _, rfl, by decide +kernel⟩

theorem witness_PowerAndPinsComplete_8 : ∃ (s u : State) (v : Word32), u = s.elapse 0 ∧ bitsOf v.toNat 0 8 = 1 ∧ bitsOf v.toNat 8 8 = 0xD5 ∧
    u.pins.safeInHigh = true :=
  ⟨setAll [], _, 0xD501, rfl, by decide +kernel⟩

/-! #### PowerLadderComplete -/

theorem witness_PowerLadderComplete_1 : ∃ (s u : State) (d : _), u = s.elapse 0 ∧ u.pwr.coldDue = some d ∧ u.pwr.coldIdx < 6 ∧ u.reached d = true ∧
    u.pwr.heldRails = 0 :=
  ⟨{ setAll [] with pwr := { coldIdx := 5, coldDue := some 0 } }, _, 0, rfl, by decide +kernel⟩

theorem witness_PowerLadderComplete_2 : ∃ (s u : State) (d : _), u = s.elapse 0 ∧ u.pwr.coldDue = some d ∧ 6 ≤ u.pwr.coldIdx ∧ u.pwr.coldIdx < 14 ∧
    u.reached d = true ∧ u.pwr.heldRails = 0 :=
  ⟨{ setAll [] with pwr := { coldIdx := 6, coldDue := some 0 } }, _, 0, rfl, by decide +kernel⟩

theorem witness_PowerLadderComplete_3 : ∃ (s u : State) (r : _), u = s.elapse 0 ∧ nextRequest u.pwr.requests = some r ∧ u.reached (takeEdge r.arrived)
    = true :=
  ⟨{ setAll [] with pwr := { requests := [⟨0, 0, [0], [0], false⟩] } }, _, ⟨0, 0, [0], [0], false⟩, rfl, by decide +kernel⟩

theorem witness_PowerLadderComplete_4 : ∃ (s u : State) (g : _) (q : _), u = s.elapse 0 ∧ u.pwr.queue = .powerUp g :: q ∧ u.reached u.pwr.slotEnd =
    true ∧ u.get F.TLK_CORE_STAT.STATE (g / 8) = 2 ∧ u.railHeld 0x0E = false :=
  ⟨{ setAll [(F.TLK_CORE_STAT.STATE, 7, 2)] with pwr := { queue := [.powerUp 63] } }, _, 63, [], rfl, by decide +kernel⟩

theorem witness_PowerLadderComplete_5 : ∃ (s u : State) (g : _) (q : _), u = s.elapse 0 ∧ u.pwr.queue = .retire g :: q ∧ u.reached u.pwr.slotEnd =
    true :=
  ⟨{ setAll [] with pwr := { queue := [.retire 63] } }, _, 63, [], rfl, by decide +kernel⟩

theorem witness_PowerLadderComplete_6 : ∃ (s u : State) (g : Group) (t₀ : _), u = s.elapse 0 ∧ u.pwr.settling.find? (fun p => p.1 == g.val) = some
    (g.val, t₀) ∧ u.reached t₀ = true :=
  ⟨{ setAll [] with pwr := { settling := [(63, 0)] } }, _, 63, 0, rfl, by decide +kernel⟩

theorem witness_PowerLadderComplete_7 : ∃ (s u : State) (g : Group) (t₀ : _), u = s.elapse 0 ∧ u.pwr.settling.find? (fun p => p.1 == g.val) = some
    (g.val, t₀) ∧ u.reached t₀ = true :=
  ⟨{ setAll [] with pwr := { settling := [(63, 0)] } }, _, 63, 0, rfl, by decide +kernel⟩

theorem witness_PowerLadderComplete_8 : ∃ (s u : State), u = s.elapse 0 ∧ u.dev = 1 ∧ u.get F.PWR_STAT.PHASE 0 = 1 ∧ u.pwr.coldIdx = 14 ∧ u.ladderIdle
    = true :=
  ⟨{ setAll [(F.DEV_STATE.STATE, 0, 1), (F.PWR_STAT.PHASE, 0, 1)] with pwr := { coldIdx := 14 } }, _, rfl, by decide +kernel⟩

theorem witness_PowerLadderComplete_11 : ∃ (s u : State), u = s.elapse 0 ∧ u.dev ≠ 4 :=
  ⟨setAll [(F.DEV_STATE.STATE, 0, 0)], _, rfl, by decide +kernel⟩

theorem witness_PowerLadderComplete_12 : ∃ (s u : State), u = s.elapse 0 ∧ u.dev = 4 ∧ u.flag F.DEV_STATE.ENTERING 0 = false ∧ u.flag
    F.DEV_STATE.WAKING 0 = false :=
  ⟨setAll [(F.DEV_STATE.STATE, 0, 4), (F.DEV_STATE.ENTERING, 0, 0), (F.DEV_STATE.WAKING, 0, 0)], _, rfl, by decide +kernel⟩

theorem witness_PowerLadderComplete_13 : ∃ (s u : State), u = s.elapse 0 ∧ u.flag F.DEV_STATE.ENTERING 0 = true ∧ u.dev = 4 ∧ u.ladderIdle = true ∧ (∀
    g < 64, u.group g ≠ 5) :=
  ⟨setAll [(F.DEV_STATE.ENTERING, 0, 1), (F.DEV_STATE.STATE, 0, 4)], _, rfl, by decide +kernel⟩

theorem witness_PowerLadderComplete_14 : ∃ (s u : State) (c : WakeCause), u = s.elapse 0 ∧ (c = .event → u.flag F.PWR_WAKE_CFG.EN 0 = true) ∧ u.dev =
    6 ∧ u.flag F.DEV_STATE.WAKING 0 = false :=
  ⟨setAll [(F.DEV_STATE.STATE, 0, 6), (F.DEV_STATE.WAKING, 0, 0), (F.PWR_WAKE_CFG.EN, 0, 1)], _, .event, rfl, by decide +kernel⟩

theorem witness_PowerLadderComplete_15 : ∃ (s u : State), u = s.elapse 0 ∧ u.flag F.DEV_STATE.WAKING 0 = true ∧ u.ladderIdle = true ∧ u.dev ≠ 6 :=
  ⟨setAll [(F.DEV_STATE.WAKING, 0, 1), (F.DEV_STATE.STATE, 0, 0)], _, rfl, by decide +kernel⟩

theorem witness_PowerLadderComplete_16 : ∃ (s u : State), u = s.elapse 0 ∧ u.flag F.DEV_STATE.WAKING 0 = true ∧ u.ladderIdle = true ∧ u.dev = 6 :=
  ⟨setAll [(F.DEV_STATE.WAKING, 0, 1), (F.DEV_STATE.STATE, 0, 6)], _, rfl, by decide +kernel⟩

theorem witness_PowerLadderComplete_17 : ∃ (s u : State) (temps : List (BitVec 16)), u = s.elapse 0 ∧ (∀ n < 9, ¬ (u.warnAt * 16 ≤ toInt 16
    (temps.getD n 0).toNat)) ∧ (∀ n < 9, ¬ (toInt 16 (temps.getD n 0).toNat < u.lowLimit * 16)) ∧ (∀ n < 9, ¬ (112 * 16 ≤ toInt 16 (temps.getD n
    0).toNat)) :=
  ⟨setAll [], _, List.replicate 9 0, rfl, by decide +kernel⟩

/-! #### BootComplete -/

theorem witness_BootComplete_1 : ∃ (s u : State) (c0 : List Byte), u = s.elapse 0 ∧ u.dev = 2 ∧ u.ldr.phase = .start ∧ u.pins.testen = false ∧
    descCode c0 = 0 :=
  ⟨{ setAll [(F.DEV_STATE.STATE, 0, 2)] with ldr := { phase := .start } }, _, bootDesc, rfl, by decide +kernel⟩

theorem witness_BootComplete_2 : ∃ (s u : State) (hdr : List Byte), u = s.elapse 0 ∧ u.dev = 2 ∧ u.ldr.phase = .desc ∧ u.ldr.source ≠ 2 ∧ hdrCrcBad
    hdr = false ∧ hdrCode hdr (u.sourceLen u.ldr.source) = 0 :=
  ⟨{ setAll [(F.DEV_STATE.STATE, 0, 2)] with ldr := { phase := .desc, desc := { lenA := 64 } } }, _, header 1 64, rfl, by decide +kernel⟩

theorem witness_BootComplete_3 : ∃ (s u : State), u = s.elapse 0 ∧ u.dev = 2 ∧ u.ldr.phase = .desc ∧ u.ldr.source = 2 ∧ hdrCode u.stagedHeader
    (u.sourceLen 2) = 0 :=
  ⟨{ setAll [(F.DEV_STATE.STATE, 0, 2), (F.CFG_STAGE_LEN.LEN, 0, 64), (F.DMC_REGION.TYPE, 0, 1), (F.DMC_REGION.SIZE_MIB, 0, 1)] with ldr := { phase := .desc, source := 2 }, dram := cells (header 1 64), dramZero := [(0, 4096)] },
    _, rfl, by decide +kernel⟩

theorem witness_BootComplete_4 : ∃ (s u : State) (i : ImageRecord), u = s.elapse 0 ∧ u.dev = 2 ∧ u.ldr.phase = .reading ∧ u.ldr.records.length <
    hdrCount u.ldr.header ∧ ((if u.ldr.source = 2 then u.stagedRecord u.ldr.offset else i)).typ ≠ 9 ∧ arrivalCode ⟨u.ldr.header, u.ldr.records,
    u.ldr.offset, u.loadDram, u.ldr.trained, u.stageOf⟩ ((if u.ldr.source = 2 then u.stagedRecord u.ldr.offset else i)) = 0 ∧ arrivalDram
    ⟨u.ldr.header, u.ldr.records, u.ldr.offset, u.loadDram, u.ldr.trained, u.stageOf⟩ ((if u.ldr.source = 2 then u.stagedRecord u.ldr.offset else i))
    = 0 :=
  ⟨{ setAll [(F.DEV_STATE.STATE, 0, 2)] with ldr := { phase := .reading, header := header 2 4096, offset := 64 } }, _, recordOf 1 (List.replicate 32 0),
    rfl, by decide +kernel⟩

theorem witness_BootComplete_5 : ∃ (s u : State) (i : ImageRecord), u = s.elapse 0 ∧ u.dev = 2 ∧ u.ldr.phase = .reading ∧ u.ldr.records.length <
    hdrCount u.ldr.header ∧ ((if u.ldr.source = 2 then u.stagedRecord u.ldr.offset else i)).typ = 9 ∧ arrivalCode ⟨u.ldr.header, u.ldr.records,
    u.ldr.offset, ((if u.ldr.source = 2 then u.stagedRecord u.ldr.offset else i)).body, u.ldr.trained, u.stageOf⟩ ((if u.ldr.source = 2 then
    u.stagedRecord u.ldr.offset else i)) = 0 ∧ arrivalDram ⟨u.ldr.header, u.ldr.records, u.ldr.offset, ((if u.ldr.source = 2 then u.stagedRecord
    u.ldr.offset else i)).body, u.ldr.trained, u.stageOf⟩ ((if u.ldr.source = 2 then u.stagedRecord u.ldr.offset else i)) = 0 ∧ u.ldr.trained = false
    :=
  ⟨{ setAll [(F.DEV_STATE.STATE, 0, 2)] with ldr := { phase := .reading, header := header 2 4096, offset := 64 } }, _, recordOf 9 dramBody, rfl,
    by decide +kernel⟩

theorem witness_BootComplete_6 : ∃ (s u : State), u = s.elapse 0 ∧ u.dev = 2 ∧ u.ldr.phase = .training :=
  ⟨{ setAll [(F.DEV_STATE.STATE, 0, 2)] with ldr := { phase := .training } }, _, rfl, by decide +kernel⟩

theorem witness_BootComplete_7 : ∃ (s u : State), u = s.elapse 0 ∧ u.dev = 2 ∧ u.ldr.phase = .training :=
  ⟨{ setAll [(F.DEV_STATE.STATE, 0, 2)] with ldr := { phase := .training } }, _, rfl, by decide +kernel⟩

theorem witness_BootComplete_8 : ∃ (s u : State), u = s.elapse 0 ∧ u.dev = 2 ∧ u.ldr.phase = .reading ∧ u.ldr.records.length = hdrCount u.ldr.header ∧
    endCode u.ldr.header u.ldr.records u.ldr.offset = 0 :=
  ⟨{ setAll [(F.DEV_STATE.STATE, 0, 2)] with ldr := { phase := .reading, header := header 7 4096, offset := 4096, records := required.map (fun t => recordOf t []) } },
    _, rfl, by decide +kernel⟩

theorem witness_BootComplete_10 : ∃ (s u : State), u = s.elapse 0 ∧ u.dev = 3 ∧ u.ldr.phase = .checking ∧ (checkCode u.facts u.ldr.header
    u.ldr.records).1 ≠ 0 :=
  ⟨{ setAll [(F.DEV_STATE.STATE, 0, 3)] with ldr := { phase := .checking } }, _, rfl, by decide +kernel⟩

theorem witness_BootComplete_11 : ∃ (s u : State), u = s.elapse 0 ∧ u.dev = 3 ∧ u.ldr.phase = .passed ∧ us 16000 ≤ u.since u.pwr.lastSettle :=
  ⟨{ setAll [(F.DEV_STATE.STATE, 0, 3), (F.UMB_DT.DT, 0, 1000000000000)] with ldr := { phase := .passed } }, _, rfl, by decide +kernel⟩

theorem witness_BootComplete_12 : ∃ (s u : State) (v : Word32), u = s.elapse 0 ∧ bitAt v.toNat 31 = true ∧ u.flag F.CFG_STAT.BUSY 0 = false ∧ (u.dev =
    4 ∨ u.dev = 5 ∨ u.dev = 7) ∧ u.pins.testen = false ∧ ((bitsOf v.toNat 0 2 = 3 ∧ (u.region 1 (u.get F.CFG_STAGE_ADDR.ADDR 0) (u.get
    F.CFG_STAGE_LEN.LEN 0)).isSome = true) ∨ (bitsOf v.toNat 0 2 ≠ 3 ∧ u.nvm = [])) :=
  ⟨setAll [(F.CFG_STAT.BUSY, 0, 0), (F.DEV_STATE.STATE, 0, 4)], _, 2147483648, rfl, by decide +kernel⟩

theorem witness_BootComplete_13 : ∃ (s u : State) (v : Word32), u = s.elapse 0 ∧ bitAt v.toNat 31 = true ∧ (u.flag F.CFG_STAT.BUSY 0 = true ∨ u.dev =
    1 ∨ u.dev = 2 ∨ u.dev = 3 ∨ u.dev = 6) :=
  ⟨setAll [(F.CFG_STAT.BUSY, 0, 1)], _, 2147483648, rfl, by decide +kernel⟩

theorem witness_BootComplete_15 : ∃ (s u : State), u = s.elapse 0 ∧ u.ldr.phase = .teardown ∧ u.anyActive = false :=
  ⟨{ setAll [] with ldr := { phase := .teardown } }, _, rfl, by decide +kernel⟩

theorem witness_BootComplete_16 : ∃ (s u : State) (v : Word32), u = s.elapse 0 ∧ bitAt v.toNat 31 = true ∧ bitsOf v.toNat 0 2 = 1 ∧ u.get
    F.CFG_FUSE_RES.RESULT 0 ≠ 1 ∧ u.flag F.CFG_FUSE_STAT.KEYHASH_PROG 0 = false :=
  ⟨setAll [(F.CFG_FUSE_RES.RESULT, 0, 0), (F.CFG_FUSE_STAT.KEYHASH_PROG, 0, 0)], _, 2147483649, rfl, by decide +kernel⟩

theorem witness_BootComplete_17 : ∃ (s u : State) (v : Word32), u = s.elapse 0 ∧ bitAt v.toNat 31 = true ∧ bitsOf v.toNat 0 2 = 2 ∧ u.get
    F.CFG_FUSE_RES.RESULT 0 ≠ 1 ∧ u.get F.CFG_FUSE_STAT.SECVER 0 ≤ bitsOf v.toNat 8 7 ∧ bitsOf v.toNat 8 7 ≤ u.get F.CFG_IMAGE.SECVER 0 ∧ bitsOf
    v.toNat 8 7 ≤ 64 :=
  ⟨setAll [(F.CFG_FUSE_RES.RESULT, 0, 0)], _, 2147483650, rfl, by decide +kernel⟩

theorem witness_BootComplete_18 : ∃ (s u : State) (v : Word32), u = s.elapse 0 ∧ bitAt v.toNat 31 = true ∧ bitsOf v.toNat 0 2 = 2 ∧ u.get
    F.CFG_FUSE_RES.RESULT 0 ≠ 1 ∧ (bitsOf v.toNat 8 7 < u.get F.CFG_FUSE_STAT.SECVER 0 ∨ u.get F.CFG_IMAGE.SECVER 0 < bitsOf v.toNat 8 7) :=
  ⟨setAll [(F.CFG_FUSE_RES.RESULT, 0, 0), (F.CFG_FUSE_STAT.SECVER, 0, 1)], _, 2147483650, rfl, by decide +kernel⟩

theorem witness_BootComplete_19 : ∃ (s u : State), u = s.elapse 0 ∧ u.get F.CFG_FUSE_RES.RESULT 0 = 1 ∧ u.ldr.fuseOp = 1 :=
  ⟨{ setAll [(F.CFG_FUSE_RES.RESULT, 0, 1)] with ldr := { fuseOp := 1 } }, _, rfl, by decide +kernel⟩

theorem witness_BootComplete_20 : ∃ (s u : State), u = s.elapse 0 ∧ u.get F.CFG_FUSE_RES.RESULT 0 = 1 ∧ u.ldr.fuseOp = 2 ∧ u.ldr.fuseArg ≤ 64 :=
  ⟨{ setAll [(F.CFG_FUSE_RES.RESULT, 0, 1)] with ldr := { fuseOp := 2, fuseArg := 64 } }, _, rfl, by decide +kernel⟩

/-! #### SiteComplete -/

theorem witness_SiteComplete_1 : ∃ (s u : State) (x : Site) (prog : BitVec 16), u = s.elapse 0 ∧ u.flag F.MDR_SITE_CMD_RES.BUSY x.val = false ∧
    u.armCode x.val prog.toNat = 1 :=
  ⟨{ setAll [(F.MDR_SITE_CMD_RES.BUSY, 0, 0), (F.MDR_SITE_STATE.STATE, 0, 1), (F.DMC_REGION.TYPE, 0, 1), (F.DMC_REGION.SIZE_MIB, 0, 1)] with dram := [(5, 1)], dramZero := [(0, 4096)] },
    _, 0, 0, rfl, by decide +kernel⟩

theorem witness_SiteComplete_2 : ∃ (s u : State) (x : Site) (prog : BitVec 16), u = s.elapse 0 ∧ u.flag F.MDR_SITE_CMD_RES.BUSY x.val = false ∧
    u.armCode x.val prog.toNat ≠ 1 :=
  ⟨setAll [(F.MDR_SITE_CMD_RES.BUSY, 0, 0)], _, 0, 0, rfl, by decide +kernel⟩

theorem witness_SiteComplete_3 : ∃ (s u : State) (x : Site), u = s.elapse 0 ∧ u.flag F.MDR_SITE_CMD_RES.BUSY x.val = true :=
  ⟨setAll [(F.MDR_SITE_CMD_RES.BUSY, 0, 1)], _, 0, rfl, by decide +kernel⟩

theorem witness_SiteComplete_4 : ∃ (s u : State) (x : Site), u = s.elapse 0 ∧ u.flag F.MDR_SITE_CMD_RES.BUSY x.val = false ∧ u.abortCode x.val = 0 :=
  ⟨setAll [(F.MDR_SITE_CMD_RES.BUSY, 0, 0), (F.MDR_SITE_STATE.STATE, 0, 4)], _, 0, rfl, by decide +kernel⟩

theorem witness_SiteComplete_5 : ∃ (s u : State) (x : Site), u = s.elapse 0 ∧ u.flag F.MDR_SITE_CMD_RES.BUSY x.val = false ∧ u.abortCode x.val ≠ 0 :=
  ⟨setAll [(F.MDR_SITE_CMD_RES.BUSY, 0, 0)], _, 0, rfl, by decide +kernel⟩

theorem witness_SiteComplete_6 : ∃ (s u : State) (x : Site), u = s.elapse 0 ∧ u.flag F.MDR_SITE_CMD_RES.BUSY x.val = false ∧ u.proxy x.val = false ∧
    u.siteState x.val = 6 :=
  ⟨setAll [(F.MDR_SITE_CMD_RES.BUSY, 0, 0), (F.SMAP_SITE.PROXY, 0, 0), (F.MDR_SITE_STATE.STATE, 0, 6)], _, 0, rfl, by decide +kernel⟩

theorem witness_SiteComplete_7 : ∃ (s u : State) (x : Site), u = s.elapse 0 ∧ u.flag F.MDR_SITE_CMD_RES.BUSY x.val = false ∧ u.resetCode x.val = 1 :=
  ⟨setAll [(F.MDR_SITE_CMD_RES.BUSY, 0, 0), (F.MDR_SITE_STATE.STATE, 0, 7)], _, 0, rfl, by decide +kernel⟩

theorem witness_SiteComplete_8 : ∃ (s u : State) (x : Site), u = s.elapse 0 ∧ u.due (u.site x.val).resetAt = true ∧ u.siteState x.val ≠ 0 :=
  ⟨{ setAll [(F.MDR_SITE_STATE.STATE, 0, 1)] with sites := [(0, { resetAt := some 0 })] }, _, 0, rfl, by decide +kernel⟩

theorem witness_SiteComplete_9 : ∃ (s u : State) (x : Site), u = s.elapse 0 ∧ u.siteState x.val = 2 ∧ (u.site x.val).entered = true ∧ (u.site
    x.val).start = none ∧ u.due (u.site x.val).ready = true ∧ u.proxy x.val = false ∧ (∀ y ∈ u.members x.val, u.staleFails y = false) :=
  ⟨{ setAll [(F.MDR_SITE_STATE.STATE, 0, 2), (F.SMAP_SITE.PROXY, 0, 0)] with sites := [(0, { entered := true, ready := some 0 })] }, _, 0, rfl,
    by decide +kernel⟩

theorem witness_SiteComplete_10 : ∃ (s u : State) (x : Site) (y : Site), u = s.elapse 0 ∧ u.siteState x.val = 2 ∧ (u.site x.val).entered = true ∧
    (u.site x.val).start = none ∧ u.due (u.site x.val).ready = true ∧ u.proxy x.val = false ∧ y.val ∈ u.members x.val ∧ u.staleFails y.val = true :=
  ⟨{ setAll [(F.MDR_SITE_STATE.STATE, 0, 2), (F.SMAP_SITE.PROXY, 0, 0), (F.SMAP_SITE.FLAGS, 0, 4)] with sites := [(0, { entered := true, ready := some 0, proxyReady := [(1, 1, 0)] })] },
    _, 0, 0, rfl, by decide +kernel⟩

theorem witness_SiteComplete_11 : ∃ (s u : State) (x : Site) (st : _), u = s.elapse 0 ∧ (u.site x.val).start = some st ∧ u.reached st = true ∧
    u.siteState x.val = 2 :=
  ⟨{ setAll [(F.MDR_SITE_STATE.STATE, 0, 2)] with sites := [(0, { start := some 0 })] }, _, 0, 0, rfl, by decide +kernel⟩

theorem witness_SiteComplete_12 : ∃ (s u : State) (sl : SliceNo), u = s.elapse 0 ∧ u.sliceValid sl.val = true ∧ u.active (u.sliceSite sl.val) = true
    :=
  ⟨setAll [(F.SMAP_TSLICE.VALID, 0, 1), (F.MDR_SITE_STATE.STATE, 0, 2)], _, 0, rfl, by decide +kernel⟩

theorem witness_SiteComplete_13 : ∃ (s u : State) (x : Site), u = s.elapse 0 ∧ u.siteState x.val = 5 ∧ u.proxy x.val = false ∧ u.siteFinished x.val =
    true :=
  ⟨setAll [(F.MDR_SITE_STATE.STATE, 0, 5), (F.SMAP_SITE.PROXY, 0, 0)], _, 0, rfl, by decide +kernel⟩

theorem witness_SiteComplete_14 : ∃ (s u : State) (x : Site), u = s.elapse 0 ∧ u.running = true ∧ u.proxy x.val = true ∧ u.siteState x.val = 1 ∧
    (u.site x.val).joinSent = false ∧ (u.carrier (u.get F.SMAP_SITE.HOME_DEV x.val)).isSome = true :=
  ⟨setAll [(F.DEV_STATE.STATE, 0, 4), (F.SMAP_SITE.PROXY, 0, 1), (F.MDR_SITE_STATE.STATE, 0, 1), (F.LNK_PORT_STAT.STATE, 7, 2)], _, 0, rfl,
    by decide +kernel⟩

/-! #### VectorComplete -/

theorem witness_VectorComplete_1 : ∃ (s u : State) (sl : SliceNo), u = s.elapse 0 ∧ u.vectorDue sl.val 0 = true ∧ u.patchHit 0 = false :=
  ⟨{ setAll [(F.SMAP_TSLICE.VALID, 0, 1)] with slices := [(0, { playing := true, vec := 0, repLeft := 0, checked := some 0 })], grans := [⟨0, 0, 0, 0, [0], 0⟩] },
    _, 0, rfl, by decide +kernel⟩

theorem witness_VectorComplete_2 : ∃ (s u : State) (sl : SliceNo), u = s.elapse 0 ∧ u.vectorDue sl.val 1 = true ∧ u.patchHit 1 = false :=
  ⟨{ setAll [(F.SMAP_TSLICE.VALID, 0, 1)] with slices := [(0, { playing := true, vec := 0, repLeft := 0, checked := some 0 })], grans := [⟨0, 0, 0, 0, [4097], 0⟩] },
    _, 0, rfl, by decide +kernel⟩

theorem witness_VectorComplete_3 : ∃ (s u : State) (sl : SliceNo) (ecc : VecEcc), u = s.elapse 0 ∧ u.boundaryFree sl.val = true ∧ 1 < (u.slice
    sl.val).repLeft ∧ ((u.vectorReads sl.val ecc).slice sl.val).live = true :=
  ⟨{ setAll [(F.SMAP_TSLICE.VALID, 0, 1)] with slices := [(0, { playing := true, vec := 0, repLeft := 2 })], grans := [⟨0, 0, 0, 0, [0], 0⟩] }, _, 0,
    ⟨.clean, .clean, []⟩, rfl, by decide +kernel⟩

theorem witness_VectorComplete_4 : ∃ (s u : State) (sl : SliceNo) (ecc : VecEcc), u = s.elapse 0 ∧ u.boundaryFree sl.val = true ∧ (u.slice
    sl.val).repLeft = 1 ∧ ((u.vectorReads sl.val ecc).slice sl.val).live = true :=
  ⟨{ setAll [(F.SMAP_TSLICE.VALID, 0, 1)] with slices := [(0, { playing := true, vec := 0, repLeft := 1 })], grans := [⟨0, 0, 0, 0, [0], 0⟩] }, _, 0,
    ⟨.clean, .clean, []⟩, rfl, by decide +kernel⟩

theorem witness_VectorComplete_5 : ∃ (s u : State) (sl : SliceNo), u = s.elapse 0 ∧ u.vectorDue sl.val 2 = true ∧ u.patchHit 2 = false :=
  ⟨{ setAll [(F.SMAP_TSLICE.VALID, 0, 1)] with slices := [(0, { playing := true, vec := 0, repLeft := 0, checked := some 0 })], grans := [⟨0, 0, 0, 0, [8192], 0⟩] },
    _, 0, rfl, by decide +kernel⟩

theorem witness_VectorComplete_6 : ∃ (s u : State) (sl : SliceNo), u = s.elapse 0 ∧ u.vectorDue sl.val 3 = true ∧ u.patchHit 3 = false :=
  ⟨{ setAll [(F.SMAP_TSLICE.VALID, 0, 1)] with slices := [(0, { playing := true, vec := 0, repLeft := 0, checked := some 0 })], grans := [⟨0, 0, 0, 0, [12288], 0⟩] },
    _, 0, rfl, by decide +kernel⟩

theorem witness_VectorComplete_7 : ∃ (s u : State) (sl : SliceNo), u = s.elapse 0 ∧ u.vectorDue sl.val 4 = true ∧ u.patchHit 4 = false :=
  ⟨{ setAll [(F.SMAP_TSLICE.VALID, 0, 1)] with slices := [(0, { playing := true, vec := 63, repLeft := 0 })], grans := [⟨0, 0, 0, 0, List.replicate 63 0 ++ [16384], 0⟩] },
    _, 0, rfl, by decide +kernel⟩

theorem witness_VectorComplete_8 : ∃ (s u : State) (sl : SliceNo), u = s.elapse 0 ∧ u.vectorDue sl.val 4 = false :=
  ⟨{ setAll [(F.SMAP_TSLICE.VALID, 0, 1)] with slices := [(0, { playing := true, vec := 0, repLeft := 0, checked := some 0 })], grans := [⟨0, 0, 0, 0, [0], 0⟩] },
    _, 0, rfl, by decide +kernel⟩

theorem witness_VectorComplete_9 : ∃ (s u : State) (sl : SliceNo) (b : _), u = s.elapse 0 ∧ (u.slice sl.val).mat.judge = some b ∧ u.sliceValid sl.val
    = true ∧ u.reached b = true ∧ (∀ j ∈ u.slicesOf (u.sliceSite sl.val), (u.slice j).mat.judge = some b ∧ u.comparesDone j b = true) :=
  ⟨{ setAll [(F.SMAP_TSLICE.VALID, 0, 1)] with slices := [(0, { mat := { judge := some 0 } })] }, _, 0, 0, rfl, by decide +kernel⟩

theorem witness_VectorComplete_10 : ∃ (s u : State) (sl : SliceNo), u = s.elapse 0 ∧ u.vectorDue sl.val 5 = true ∧ u.patchHit 5 = false :=
  ⟨{ setAll [(F.SMAP_TSLICE.VALID, 0, 1)] with slices := [(0, { playing := true, vec := 0, repLeft := 0, checked := some 0 })], grans := [⟨0, 0, 0, 0, [20480], 0⟩] },
    _, 0, rfl, by decide +kernel⟩

theorem witness_VectorComplete_11 : ∃ (s u : State) (sl : SliceNo), u = s.elapse 0 ∧ u.vectorDue sl.val 6 = true ∧ u.patchHit 6 = false :=
  ⟨{ setAll [(F.SMAP_TSLICE.VALID, 0, 1)] with slices := [(0, { playing := true, vec := 0, repLeft := 0, checked := some 0 })], grans := [⟨0, 0, 0, 0, [24576], 0⟩] },
    _, 0, rfl, by decide +kernel⟩

theorem witness_VectorComplete_12 : ∃ (s u : State) (sl : SliceNo), u = s.elapse 0 ∧ u.vectorDue sl.val 7 = true ∧ u.patchHit 7 = false :=
  ⟨{ setAll [(F.SMAP_TSLICE.VALID, 0, 1)] with slices := [(0, { playing := true, vec := 0, repLeft := 0, checked := some 0 })], grans := [⟨0, 0, 0, 0, [28672], 0⟩] },
    _, 0, rfl, by decide +kernel⟩

/-! #### PlayerComplete -/

theorem witness_PlayerComplete_1 : ∃ (s u : State) (sl : SliceNo), u = s.elapse 0 ∧ u.sliceValid sl.val = true ∧ (u.slice sl.val).live = true ∧
    (u.slice sl.val).atGran = true ∧ (u.slice sl.val).checked ≠ some (u.slice sl.val).nextB ∧ (u.slice sl.val).mat.judge = none ∧ (u.siteState
    (u.sliceSite sl.val) = 3 ∨ u.siteState (u.sliceSite sl.val) = 5) ∧ u.reached (wrap64 ((u.slice sl.val).nextB + 2 ^ 64 - u.checkLead (u.sliceSite
    sl.val))) = true :=
  ⟨{ setAll [(F.SMAP_TSLICE.VALID, 0, 1), (F.MDR_SITE_STATE.STATE, 0, 3)] with slices := [(0, { playing := true, nextB := 0 })] }, _, 0, rfl,
    by decide +kernel⟩

theorem witness_PlayerComplete_2 : ∃ (s u : State) (x : Site) (b : _) (cause : _), u = s.elapse 0 ∧ (u.site x.val).hold = some (b, cause) ∧
    (u.siteState x.val = 3 ∨ u.siteState x.val = 5) ∧ u.reached b = true ∧ u.stopDue x.val b = false ∧ u.allAt x.val b = true ∧ (∀ i ∈ u.slicesOf
    x.val, u.jumpsDue i = []) :=
  ⟨{ setAll [(F.MDR_SITE_STATE.STATE, 0, 3), (F.SMAP_TSLICE.VALID, 0, 1)] with sites := [(0, { hold := some (0, 1) })], slices := [(0, { playing := true, checked := some 0 })] },
    _, 0, 0, 1, rfl, by decide +kernel⟩

theorem witness_PlayerComplete_3 : ∃ (s u : State) (sl : SliceNo) (seg : BitVec 24) (gran : Fin 65536) (col : Fin 64) (d : _), u = s.elapse 0 ∧
    u.descFor sl.val seg.toNat = some d ∧ u.sliceValid sl.val = true ∧ u.mayRefill sl.val d gran.val col.val = true :=
  ⟨{ setAll [(F.SMAP_TSLICE.VALID, 0, 1)] with slices := [(0, { admitted := [⟨0, 0, 1, false, 0, [1, 1, 1, 1, 1, 1, 1, 1], 0, false, 0xFFFFFF, 0xFFFFFF, 0xFFFFFF, 0, false⟩] })] },
    _, 0, 0, 0, 0, ⟨0, 0, 1, false, 0, [1, 1, 1, 1, 1, 1, 1, 1], 0, false, 0xFFFFFF, 0xFFFFFF, 0xFFFFFF, 0, false⟩, rfl, by decide +kernel⟩

theorem witness_PlayerComplete_4 : ∃ (s u : State) (sl : SliceNo), u = s.elapse 0 ∧ u.sliceValid sl.val = true ∧ u.held (u.sliceSite sl.val) = true ∧
    u.get F.SLP_STAT.STATE sl.val = 3 ∧ (u.slice sl.val).reported = false ∧ (u.site (u.sliceSite sl.val)).resume = none ∧ (u.site (u.sliceSite
    sl.val)).stop = none ∧ u.ready sl.val = true ∧ u.proxy (u.sliceSite sl.val) = false :=
  ⟨{ setAll [(F.SMAP_TSLICE.VALID, 0, 1), (F.SLP_STAT.STATE, 0, 3), (F.MDR_SITE_STATE.STATE, 0, 4)] with slices := [(0, { playing := true, admitted := [⟨0, 0, 1, false, 0, [1, 1, 1, 1, 1, 1, 1, 1], 0, false, 0xFFFFFF, 0xFFFFFF, 0xFFFFFF, 0, false⟩], entry := some ⟨0, 1, 0, none⟩ })], grans := [⟨0, 0, 0, 0, List.replicate 64 0, 0⟩] },
    _, 0, rfl, by decide +kernel⟩

theorem witness_PlayerComplete_5 : ∃ (s u : State) (x : Site) (r : _), u = s.elapse 0 ∧ (u.site x.val).resume = some r ∧ u.held x.val = true ∧
    u.reached r = true ∧ (u.site x.val).stop = none :=
  ⟨{ setAll [(F.MDR_SITE_STATE.STATE, 0, 4), (F.SMAP_TSLICE.VALID, 0, 1), (F.SLP_STAT.STATE, 0, 3)] with sites := [(0, { resume := some 0 })] }, _, 0,
    0, rfl, by decide +kernel⟩

theorem witness_PlayerComplete_6 : ∃ (s u : State) (sl : SliceNo) (seg : BitVec 24), u = s.elapse 0 ∧ u.sliceValid sl.val = true ∧ u.descFor sl.val
    seg.toNat = none ∧ (u.wanted sl.val).contains seg.toNat = true :=
  ⟨{ setAll [(F.SMAP_TSLICE.VALID, 0, 1)] with slices := [(0, { queue := [⟨0xFFFFFE, 1, 0, none⟩] })] }, _, 0, 0xFFFFFE, rfl, by decide +kernel⟩

theorem witness_PlayerComplete_7 : ∃ (s u : State) (sl : SliceNo) (seg : BitVec 24), u = s.elapse 0 ∧ u.sliceValid sl.val = true ∧ u.descFor sl.val
    seg.toNat = none ∧ (u.wanted sl.val).contains seg.toNat = false ∧ (u.targets sl.val).contains seg.toNat = true :=
  ⟨{ setAll [(F.SMAP_TSLICE.VALID, 0, 1)] with sites := [(0, { jumps := [⟨1, 0, 0xFFFFFE, none, false, none⟩] })] }, _, 0, 0xFFFFFE, rfl,
    by decide +kernel⟩

theorem witness_PlayerComplete_8 : ∃ (s u : State) (sl : SliceNo) (q : _) (r : _), u = s.elapse 0 ∧ (u.slice sl.val).inbound = q :: r ∧ u.sliceValid
    sl.val = true ∧ u.reached q.release = true ∧ u.siteState (u.sliceSite sl.val) ≠ 7 :=
  ⟨{ setAll [(F.SMAP_TSLICE.VALID, 0, 1)] with slices := [(0, { inbound := [⟨0, 1, 0, none⟩] })] }, _, 0, ⟨0, 1, 0, none⟩, [], rfl, by decide +kernel⟩

theorem witness_PlayerComplete_9 : ∃ (s u : State) (x : Site) (i : _), u = s.elapse 0 ∧ u.leadSlice x.val = some i ∧ u.flag F.SLP_JUMP_CFG.EN i = true
    ∧ (u.get F.SLP_STAT.STATE i = 2 ∨ u.get F.SLP_STAT.STATE i = 3) ∧ u.active x.val = true :=
  ⟨setAll [(F.SLP_JUMP_CFG.EN, 0, 1), (F.SLP_STAT.STATE, 0, 2), (F.MDR_SITE_STATE.STATE, 0, 3), (F.SMAP_TSLICE.VALID, 0, 1)], _, 0, 0, rfl,
    by decide +kernel⟩

theorem witness_PlayerComplete_10 : ∃ (s u : State) (x : Site) (i : _) (is : _) (j : _), u = s.elapse 0 ∧ (u.slicesOf x.val).filter (fun i => (u.slice
    i).live) = i :: is ∧ winner (u.jumpsDue i) = some j ∧ u.reached (u.slice i).nextB = true ∧ u.allAt x.val (u.slice i).nextB = true ∧ u.stopDue
    x.val (u.slice i).nextB = false ∧ (u.siteState x.val = 3 ∨ u.siteState x.val = 5) ∧ (∀ k ∈ i :: is, (u.slice k).mat.judge = none) ∧ (u.jumpsDue
    i).length = 1 ∧ (u.site x.val).hold = none :=
  ⟨{ setAll [(F.MDR_SITE_STATE.STATE, 0, 3), (F.SMAP_TSLICE.VALID, 0, 1)] with sites := [(0, { jumps := [⟨1, 0, 0, none, false, some 0⟩] })], slices := [(0, { playing := true, checked := some 0 })] },
    _, 0, 0, [], ⟨1, 0, 0, none, false, some 0⟩, rfl, by decide +kernel⟩

theorem witness_PlayerComplete_11 : ∃ (s u : State) (x : Site) (i : _) (is : _) (seg : _) (crc : _), u = s.elapse 0 ∧ u.slicesOf x.val = i :: is ∧ (∀
    k ∈ i :: is, (u.slice k).crcEnd = some (seg, crc)) ∧ u.proxy x.val = false ∧ u.farCrcs x.val ≤ (u.site x.val).crcs.length ∧ (∀ p ∈ (u.site
    x.val).crcs.take (u.farCrcs x.val), p = (seg, crc)) :=
  ⟨{ setAll [(F.SMAP_SITE.PROXY, 0, 0), (F.SMAP_TSLICE.VALID, 0, 1), (F.MDR_SITE_STATE.STATE, 0, 3)] with slices := [(0, { crcEnd := some (0, 0) })] },
    _, 0, 0, [], 0, 0, rfl, by decide +kernel⟩

theorem witness_PlayerComplete_12 : ∃ (s u : State) (x : Site), u = s.elapse 0 ∧ u.proxy x.val = true ∧ (∀ i ∈ u.slicesOf x.val, (u.slice
    i).crcEnd.isSome = true) :=
  ⟨setAll [(F.SMAP_SITE.PROXY, 0, 1)], _, 0, rfl, by decide +kernel⟩

theorem witness_PlayerComplete_13 : ∃ (s u : State) (sl : SliceNo), u = s.elapse 0 ∧ u.sliceValid sl.val = true ∧ (u.siteState (u.sliceSite sl.val) =
    1 ∨ u.siteState (u.sliceSite sl.val) = 6) :=
  ⟨setAll [(F.SMAP_TSLICE.VALID, 0, 1), (F.MDR_SITE_STATE.STATE, 0, 1)], _, 0, rfl, by decide +kernel⟩

theorem witness_PlayerComplete_14 : ∃ (s u : State) (sl : SliceNo), u = s.elapse 0 ∧ u.presetOk sl.val = true :=
  ⟨setAll [], _, 0, rfl, by decide +kernel⟩

theorem witness_PlayerComplete_15 : ∃ (s u : State) (sl : SliceNo), u = s.elapse 0 ∧ u.presetOk sl.val = true :=
  ⟨setAll [], _, 0, rfl, by decide +kernel⟩

/-! #### TimingComplete -/

theorem witness_TimingComplete_1 : ∃ (s u : State) (t : Tile), u = s.elapse 0 ∧ u.get F.WOD_WF_RES.RESULT t.val ≠ 1 :=
  ⟨setAll [(F.WOD_WF_RES.RESULT, 0, 0)], _, 0, rfl, by decide +kernel⟩

theorem witness_TimingComplete_2 : ∃ (s u : State) (t : Tile), u = s.elapse 0 ∧ u.get F.WOD_WF_RES.RESULT t.val ≠ 1 ∧ u.chanSettable (u.wfChan t.val)
    = true ∧ u.writeBreaks (u.wfChan t.val) (u.get F.WOD_WF_SEL.SLOT t.val) (u.get F.WOD_WF_SEL.WF t.val) (u.wfData t.val) = none :=
  ⟨setAll [(F.WOD_WF_RES.RESULT, 0, 0)], _, 0, rfl, by decide +kernel⟩

theorem witness_TimingComplete_3 : ∃ (s u : State) (t : Tile), u = s.elapse 0 ∧ u.get F.WOD_WF_RES.RESULT t.val ≠ 1 ∧ u.chanSettable (u.wfChan t.val)
    = false :=
  ⟨setAll [(F.WOD_WF_RES.RESULT, 0, 0), (F.MDR_SITE_STATE.STATE, 0, 2), (F.SMAP_QUAD.SITE_LO, 0, 0)], _, 0, rfl, by decide +kernel⟩

theorem witness_TimingComplete_4 : ∃ (s u : State) (t : Tile) (a : _), u = s.elapse 0 ∧ Tab.get none u.wfAcc t.val = some a :=
  ⟨{ setAll [] with wfAcc := [(0, some ⟨2, 0, 0, 0, 0⟩)] }, _, 0, ⟨2, 0, 0, 0, 0⟩, rfl, by decide +kernel⟩

theorem witness_TimingComplete_5 : ∃ (s u : State) (t : Tile) (a : _), u = s.elapse 0 ∧ Tab.get none u.wfAcc t.val = some a ∧ a.result = 2 ∧ a.op = 2
    :=
  ⟨{ setAll [] with wfAcc := [(0, some ⟨2, 0, 2, 0, 0⟩)] }, _, 0, ⟨2, 0, 2, 0, 0⟩, rfl, by decide +kernel⟩

theorem witness_TimingComplete_6 : ∃ (s u : State) (sl : SliceNo) (v : Word64), u = s.elapse 0 ∧ u.sliceSettable sl.val = true ∧ periodOk v.toNat =
    true :=
  ⟨setAll [], _, 0, 6400, rfl, by decide +kernel⟩

theorem witness_TimingComplete_7 : ∃ (s u : State) (sl : SliceNo) (v : Word64), u = s.elapse 0 ∧ u.sliceSettable sl.val = true ∧ periodOk v.toNat =
    false :=
  ⟨setAll [], _, 0, 6399, rfl, by decide +kernel⟩

theorem witness_TimingComplete_8 : ∃ (s u : State) (sl : SliceNo), u = s.elapse 0 ∧ u.sliceSettable sl.val = false :=
  ⟨setAll [(F.SMAP_TSLICE.VALID, 0, 1), (F.MDR_SITE_STATE.STATE, 0, 2)], _, 0, rfl, by decide +kernel⟩

theorem witness_TimingComplete_9 : ∃ (s u : State) (sl : SliceNo), u = s.elapse 0 ∧ u.sliceSettable sl.val = true :=
  ⟨setAll [], _, 0, rfl, by decide +kernel⟩

theorem witness_TimingComplete_10 : ∃ (s u : State) (ch : Chan), u = s.elapse 0 ∧ u.chanSettable ch.val = true :=
  ⟨setAll [], _, 0, rfl, by decide +kernel⟩

theorem witness_TimingComplete_11 : ∃ (s u : State) (ch : Chan), u = s.elapse 0 ∧ u.chanSettable ch.val = false :=
  ⟨setAll [(F.SMAP_QUAD.SITE_LO, 0, 0), (F.MDR_SITE_STATE.STATE, 0, 2)], _, 0, rfl, by decide +kernel⟩

theorem witness_TimingComplete_12 : ∃ (s u : State) (ch : Chan) (d : _), u = s.elapse 0 ∧ firstDrive (u.chan ch.val).drive = some d ∧ u.reached
    d.instant = true ∧ u.waitsForVector ch.val d.ideal d.instant = false ∧ (u.chan ch.val).level ≠ actLevel d.act ∧ (u.chan ch.val).tooClose d.instant
    = false :=
  ⟨{ setAll [] with chans := [(0, { drive := [⟨0, 0, 0, 1⟩] })] }, _, 0, ⟨0, 0, 0, 1⟩, rfl, by decide +kernel⟩

theorem witness_TimingComplete_13 : ∃ (s u : State) (ch : Chan) (d : _), u = s.elapse 0 ∧ firstDrive (u.chan ch.val).drive = some d ∧ u.reached
    d.instant = true ∧ u.waitsForVector ch.val d.ideal d.instant = false ∧ (u.chan ch.val).level ≠ actLevel d.act ∧ (u.chan ch.val).tooClose d.instant
    = true :=
  ⟨{ setAll [] with chans := [(0, { drive := [⟨0, 0, 0, 1⟩], lastTrans := some 0 })] }, _, 0, ⟨0, 0, 0, 1⟩, rfl, by decide +kernel⟩

theorem witness_TimingComplete_14 : ∃ (s u : State) (x : Site) (i : _) (is : _) (r : _) (rest : _), u = s.elapse 0 ∧ (u.slicesOf x.val).filter (fun i
    => (u.slice i).live) = i :: is ∧ (u.site x.val).tsImm = r :: rest ∧ u.atBoundary x.val (u.slice i).nextB = true ∧ u.reached (u.slice i).nextB =
    true ∧ dtReached (u.slice i).nextB r.release = true ∧ (u.slice i).needEntry = false ∧ u.holdDue x.val (u.slice i).nextB = false ∧ u.stopDue x.val
    (u.slice i).nextB = false ∧ u.jumpsDue i = [] :=
  ⟨{ setAll [(F.SMAP_TSLICE.VALID, 0, 1)] with sites := [(0, { tsImm := [⟨0, 0, 0, none⟩] })], slices := [(0, { playing := true })] }, _, 0, 0, [], ⟨0,
    0, 0, none⟩, [], rfl, by decide +kernel⟩

/-! #### CompareComplete -/

theorem witness_CompareComplete_1 : ∃ (s u : State) (ch : Chan) (a : _), u = s.elapse 0 ∧ firstCmp (u.chan ch.val).cmps = some a ∧ a.kind = 1 ∧
    u.actionDue ch.val a = true :=
  ⟨{ setAll [] with chans := [(0, { cmps := [⟨0, 0, 0, 1, 0, 0, false, false⟩] })] }, _, 0, ⟨0, 0, 0, 1, 0, 0, false, false⟩, rfl, by decide +kernel⟩

theorem witness_CompareComplete_2 : ∃ (s u : State) (ch : Chan) (dL : Nat) (dM : Nat) (dH : Nat) (a : _), u = s.elapse 0 ∧ firstCmp (u.chan
    ch.val).cmps = some a ∧ a.kind = 2 ∧ u.actionDue ch.val a = true ∧ (dL < 80 ∨ 240 ≤ dL) ∧ (dM < 80 ∨ 240 ≤ dM) ∧ (dH < 80 ∨ 240 ≤ dH) :=
  ⟨{ setAll [] with chans := [(0, { cmps := [⟨0, 0, 0, 2, 0, 0, false, false⟩] })] }, _, 0, 0, 79, 240, ⟨0, 0, 0, 2, 0, 0, false, false⟩, rfl,
    by decide +kernel⟩

theorem witness_CompareComplete_3 : ∃ (s u : State) (ch : Chan) (r : CmpReg) (v : Word32), u = s.elapse 0 ∧ u.chanSettable ch.val = true ∧ cmpValueOk
    r v.toNat = true ∧ u.busHolds ch.val = false :=
  ⟨setAll [], _, 0, .vth, 0, rfl, by decide +kernel⟩

theorem witness_CompareComplete_4 : ∃ (s u : State) (ch : Chan) (r : CmpReg) (v : Word32), u = s.elapse 0 ∧ (u.chanSettable ch.val = false ∨
    cmpValueOk r v.toNat = false) :=
  ⟨setAll [], _, 0, .vtt, 0xFFFF, rfl, by decide +kernel⟩

theorem witness_CompareComplete_5 : ∃ (s u : State) (ch : Chan) (d : _), u = s.elapse 0 ∧ (u.chan ch.val).settle = some d ∧ u.reached d = true ∧
    u.chanOn ch.val = true ∧ u.flag F.MRD_CH_QF.HELD ch.val = false :=
  ⟨{ setAll [(F.MRD_CH_QF.HELD, 0, 0), ((groupFld 0), 0, 5)] with chans := [(0, { settle := some 0 })] }, _, 0, 0, rfl, by decide +kernel⟩

theorem witness_CompareComplete_7 : ∃ (s u : State) (sl : SliceNo), u = s.elapse 0 ∧ u.sliceValid sl.val = true ∧ (u.slice sl.val).live = true ∧
    (u.slice sl.val).atGran = true ∧ u.reached (u.slice sl.val).nextB = true :=
  ⟨{ setAll [(F.SMAP_TSLICE.VALID, 0, 1)] with slices := [(0, { playing := true })] }, _, 0, rfl, by decide +kernel⟩

theorem witness_CompareComplete_8 : ∃ (s u : State) (sl : SliceNo) (tag : Site) (x : _) (b : _) (r : _), u = s.elapse 0 ∧ (u.slice sl.val).staged =
    (x, b) :: r ∧ tag.val = x ∧ u.proxy x = false :=
  ⟨{ setAll [(F.SMAP_SITE.PROXY, 0, 0)] with slices := [(0, { staged := [(0, [])] })] }, _, 0, 0, 0, [], [], rfl, by decide +kernel⟩

theorem witness_CompareComplete_9 : ∃ (s u : State) (sl : SliceNo) (tag : Site) (x : _) (b : _) (r : _), u = s.elapse 0 ∧ (u.slice sl.val).staged =
    (x, b) :: r ∧ tag.val ≠ x :=
  ⟨{ setAll [] with slices := [(0, { staged := [(0, [])] })] }, _, 0, 1, 0, [], [], rfl, by decide +kernel⟩

theorem witness_CompareComplete_10 : ∃ (s u : State) (x : Site) (v : Word32), u = s.elapse 0 ∧ rdOk (u.get F.SEP_CAP_RING_RD.POS x.val) (u.get
    F.SEP_CAP_RING_WR.POS x.val) v.toNat = true :=
  ⟨setAll [], _, 0, 0, rfl, by decide +kernel⟩

theorem witness_CompareComplete_11 : ∃ (s u : State) (x : Site) (d : _), u = s.elapse 0 ∧ (u.site x.val).failDet = some d ∧ u.reached d = true ∧
    (u.site x.val).stop = none ∧ (u.siteState x.val = 3 ∨ u.siteState x.val = 4 ∨ u.siteState x.val = 5) :=
  ⟨{ setAll [(F.MDR_SITE_STATE.STATE, 0, 3)] with sites := [(0, { failDet := some 0 })] }, _, 0, 0, rfl, by decide +kernel⟩

theorem witness_CompareComplete_12 : ∃ (s u : State) (x : Site) (d : _) (i : _) (is : _), u = s.elapse 0 ∧ (u.site x.val).stop = some d ∧ (u.slicesOf
    x.val).filter (fun i => (u.slice i).live) = i :: is ∧ u.atBoundary x.val (u.slice i).nextB = true ∧ u.reached (u.slice i).nextB = true ∧ dtReached
    (u.slice i).nextB d.earliest = true :=
  ⟨{ setAll [(F.SMAP_TSLICE.VALID, 0, 1)] with sites := [(0, { stop := some ⟨1, 0, 0⟩ })], slices := [(0, { playing := true })] }, _, 0, ⟨1, 0, 0⟩, 0,
    [], rfl, by decide +kernel⟩

theorem witness_CompareComplete_13 : ∃ (s u : State) (x : Site) (d : _), u = s.elapse 0 ∧ (u.site x.val).stop = some d ∧ (u.slicesOf x.val).filter
    (fun i => (u.slice i).live) = [] ∧ u.reached d.earliest = true ∧ (∀ i ∈ u.slicesOf x.val, u.get F.SLP_STAT.STATE i ≠ 3) :=
  ⟨{ setAll [(F.SMAP_TSLICE.VALID, 0, 1)] with sites := [(0, { stop := some ⟨1, 0, 0⟩ })] }, _, 0, ⟨1, 0, 0⟩, rfl, by decide +kernel⟩

/-! #### StepArithmeticComplete -/

theorem witness_StepArithmeticComplete_1 : ∃ (s u : State) (x : Site) (w : _), u = s.elapse 0 ∧ u.runsWord x.val 0x00 w = true :=
  ⟨{ setAll [(F.MDR_SITE_STATE.STATE, 0, 2), (F.MDR_STEP_STAT.STATE, 0, 1)] with ctxs := [(0, { words := 1, lines := [(0, [0x0])] })] }, _, 0, 0x0, rfl,
    by decide +kernel⟩

theorem witness_StepArithmeticComplete_2 : ∃ (s u : State) (x : Site) (w : _), u = s.elapse 0 ∧ u.runsWord x.val 0x30 w = true :=
  ⟨{ setAll [(F.MDR_SITE_STATE.STATE, 0, 2), (F.MDR_STEP_STAT.STATE, 0, 1)] with ctxs := [(0, { words := 1, lines := [(0, [0x3000000000000000])] })] },
    _, 0, 0x3000000000000000, rfl, by decide +kernel⟩

theorem witness_StepArithmeticComplete_3 : ∃ (s u : State) (x : Site) (w : _), u = s.elapse 0 ∧ u.runsWord x.val 0x31 w = true :=
  ⟨{ setAll [(F.MDR_SITE_STATE.STATE, 0, 2), (F.MDR_STEP_STAT.STATE, 0, 1)] with ctxs := [(0, { words := 1, lines := [(0, [0x3100000000000000])] })] },
    _, 0, 0x3100000000000000, rfl, by decide +kernel⟩

theorem witness_StepArithmeticComplete_4 : ∃ (s u : State) (x : Site) (w : _), u = s.elapse 0 ∧ u.runsWord x.val 0x32 w = true :=
  ⟨{ setAll [(F.MDR_SITE_STATE.STATE, 0, 2), (F.MDR_STEP_STAT.STATE, 0, 1)] with ctxs := [(0, { words := 1, lines := [(0, [0x3200000000000000])] })] },
    _, 0, 0x3200000000000000, rfl, by decide +kernel⟩

theorem witness_StepArithmeticComplete_5 : ∃ (s u : State) (x : Site) (w : _), u = s.elapse 0 ∧ u.runsWord x.val 0x33 w = true :=
  ⟨{ setAll [(F.MDR_SITE_STATE.STATE, 0, 2), (F.MDR_STEP_STAT.STATE, 0, 1)] with ctxs := [(0, { words := 1, lines := [(0, [0x3300000000000000])] })] },
    _, 0, 0x3300000000000000, rfl, by decide +kernel⟩

theorem witness_StepArithmeticComplete_6 : ∃ (s u : State) (x : Site) (w : _), u = s.elapse 0 ∧ u.runsWord x.val 0x34 w = true :=
  ⟨{ setAll [(F.MDR_SITE_STATE.STATE, 0, 2), (F.MDR_STEP_STAT.STATE, 0, 1)] with ctxs := [(0, { words := 1, lines := [(0, [0x3400000000000000])] })] },
    _, 0, 0x3400000000000000, rfl, by decide +kernel⟩

theorem witness_StepArithmeticComplete_7 : ∃ (s u : State) (x : Site) (w : _) (v : _), u = s.elapse 0 ∧ u.runsWord x.val 0x35 w = true ∧ u.getSource
    x.val (bitsOf w 8 8) = some v :=
  ⟨{ setAll [(F.MDR_SITE_STATE.STATE, 0, 2), (F.MDR_STEP_STAT.STATE, 0, 1)] with ctxs := [(0, { words := 1, lines := [(0, [0x3500000000000000])] })] },
    _, 0, 0x3500000000000000, 0, rfl, by decide +kernel⟩

theorem witness_StepArithmeticComplete_8 : ∃ (s u : State) (x : Site) (w : _), u = s.elapse 0 ∧ u.runsWord x.val 0x36 w = true :=
  ⟨{ setAll [(F.MDR_SITE_STATE.STATE, 0, 2), (F.MDR_STEP_STAT.STATE, 0, 1)] with ctxs := [(0, { words := 1, lines := [(0, [0x3600000000000000])] })] },
    _, 0, 0x3600000000000000, rfl, by decide +kernel⟩

theorem witness_StepArithmeticComplete_9 : ∃ (s u : State) (x : Site) (w : _), u = s.elapse 0 ∧ u.runsWord x.val 0x37 w = true :=
  ⟨{ setAll [(F.MDR_SITE_STATE.STATE, 0, 2), (F.MDR_STEP_STAT.STATE, 0, 1)] with ctxs := [(0, { words := 1, lines := [(0, [0x3700000000000000])] })] },
    _, 0, 0x3700000000000000, rfl, by decide +kernel⟩

theorem witness_StepArithmeticComplete_10 : ∃ (s u : State) (x : Site) (w : _), u = s.elapse 0 ∧ u.runsWord x.val 0x40 w = true ∧ bitsOf w 0 10 < 1021
    :=
  ⟨{ setAll [(F.MDR_SITE_STATE.STATE, 0, 2), (F.MDR_STEP_STAT.STATE, 0, 1)] with ctxs := [(0, { words := 1, lines := [(0, [0x40000000000003fc])] })] },
    _, 0, 0x40000000000003fc, rfl, by decide +kernel⟩

theorem witness_StepArithmeticComplete_11 : ∃ (s u : State) (x : Site) (w : _), u = s.elapse 0 ∧ u.runsWord x.val 0x40 w = true ∧ 1021 ≤ bitsOf w 0 10
    :=
  ⟨{ setAll [(F.MDR_SITE_STATE.STATE, 0, 2), (F.MDR_STEP_STAT.STATE, 0, 1)] with ctxs := [(0, { words := 1, lines := [(0, [0x40000000000003fd])] })] },
    _, 0, 0x40000000000003fd, rfl, by decide +kernel⟩

theorem witness_StepArithmeticComplete_12 : ∃ (s u : State) (x : Site) (w : _), u = s.elapse 0 ∧ u.runsWord x.val 0x20 w = true ∧ bitsOf w 0 20 <
    (u.ctx x.val).words :=
  ⟨{ setAll [(F.MDR_SITE_STATE.STATE, 0, 2), (F.MDR_STEP_STAT.STATE, 0, 1)] with ctxs := [(0, { words := 1, lines := [(0, [0x2000000000000000])] })] },
    _, 0, 0x2000000000000000, rfl, by decide +kernel⟩

theorem witness_StepArithmeticComplete_13 : ∃ (s u : State) (x : Site) (w : _), u = s.elapse 0 ∧ u.runsWord x.val 0x21 w = true ∧ u.get
    F.MDR_STEP_STAT.DEPTH x.val < 16 ∧ bitsOf w 0 20 < (u.ctx x.val).words :=
  ⟨{ setAll [(F.MDR_SITE_STATE.STATE, 0, 2), (F.MDR_STEP_STAT.STATE, 0, 1), (F.MDR_STEP_STAT.DEPTH, 0, 15)] with ctxs := [(0, { words := 1, lines := [(0, [0x2100000000000000])] })] },
    _, 0, 0x2100000000000000, rfl, by decide +kernel⟩

theorem witness_StepArithmeticComplete_14 : ∃ (s u : State) (x : Site) (w : _) (d : _), u = s.elapse 0 ∧ u.runsWord x.val 0x22 w = true ∧ u.get
    F.MDR_STEP_STAT.DEPTH x.val = d + 1 :=
  ⟨{ setAll [(F.MDR_SITE_STATE.STATE, 0, 2), (F.MDR_STEP_STAT.STATE, 0, 1), (F.MDR_STEP_STAT.DEPTH, 0, 1)] with ctxs := [(0, { words := 1, lines := [(0, [0x2200000000000000])] })] },
    _, 0, 0x2200000000000000, 0, rfl, by decide +kernel⟩

theorem witness_StepArithmeticComplete_15 : ∃ (s u : State) (x : Site) (w : _), u = s.elapse 0 ∧ u.runsWord x.val 0x23 w = true ∧ 1 < u.gr x.val (regA
    w) ∧ bitsOf w 8 20 < (u.ctx x.val).words :=
  ⟨{ setAll [(F.MDR_SITE_STATE.STATE, 0, 2), (F.MDR_STEP_STAT.STATE, 0, 1), (F.MDR_STEP_G.VALUE, 0, 2)] with ctxs := [(0, { words := 1, lines := [(0, [0x2300000000000000])] })] },
    _, 0, 0x2300000000000000, rfl, by decide +kernel⟩

theorem witness_StepArithmeticComplete_16 : ∃ (s u : State) (x : Site) (w : _), u = s.elapse 0 ∧ u.runsWord x.val 0x23 w = true ∧ u.gr x.val (regA w)
    ≤ 1 :=
  ⟨{ setAll [(F.MDR_SITE_STATE.STATE, 0, 2), (F.MDR_STEP_STAT.STATE, 0, 1), (F.MDR_STEP_G.VALUE, 0, 1)] with ctxs := [(0, { words := 1, lines := [(0, [0x2300000000000000])] })] },
    _, 0, 0x2300000000000000, rfl, by decide +kernel⟩

theorem witness_StepArithmeticComplete_17 : ∃ (s u : State) (x : Site) (w : _), u = s.elapse 0 ∧ u.runsWord x.val 0x7F w = true :=
  ⟨{ setAll [(F.MDR_SITE_STATE.STATE, 0, 2), (F.MDR_STEP_STAT.STATE, 0, 1)] with ctxs := [(0, { words := 1, lines := [(0, [0x7f00000000000000])] })] },
    _, 0, 0x7f00000000000000, rfl, by decide +kernel⟩

/-! #### StepUnitsComplete -/

theorem witness_StepUnitsComplete_1 : ∃ (s u : State) (x : Site) (w : _), u = s.elapse 0 ∧ u.runsWord x.val 0x01 w = true ∧ bitsOf w 0 24 ≠ 0xFFFFFF ∧
    bitsOf w 24 24 ≠ 0 ∧ (∀ i ∈ u.slicesOf x.val, u.sliceFull i = false) ∧ (u.allFar x.val = true → u.farFull x.val = false) ∧ u.siteState x.val ≠ 3
    :=
  ⟨{ setAll [(F.MDR_SITE_STATE.STATE, 0, 2), (F.MDR_STEP_STAT.STATE, 0, 1), (F.SMAP_TSLICE.VALID, 0, 1)] with ctxs := [(0, { words := 1, lines := [(0, [0x100000001000000])] })] },
    _, 0, 0x100000001000000, rfl, by decide +kernel⟩

theorem witness_StepUnitsComplete_2 : ∃ (s u : State) (x : Site) (w : _), u = s.elapse 0 ∧ u.runsWord x.val 0x01 w = true ∧ bitsOf w 0 24 ≠ 0xFFFFFF ∧
    bitsOf w 24 24 ≠ 0 ∧ (((∃ i ∈ u.slicesOf x.val, u.sliceFull i = true) ∨ (u.allFar x.val = true ∧ u.farFull x.val = true))) :=
  ⟨{ setAll [(F.MDR_SITE_STATE.STATE, 0, 2), (F.MDR_STEP_STAT.STATE, 0, 1), (F.SMAP_TSLICE.VALID, 0, 1)] with ctxs := [(0, { words := 1, lines := [(0, [0x100000001000000])] })], slices := [(0, { queue := List.replicate 4 ⟨0, 1, 0, none⟩ })] },
    _, 0, 0x100000001000000, rfl, by decide +kernel⟩

theorem witness_StepUnitsComplete_3 : ∃ (s u : State) (x : Site) (w : _), u = s.elapse 0 ∧ u.runsWord x.val 0x01 w = true ∧ bitsOf w 0 24 ≠ 0xFFFFFF ∧
    bitsOf w 24 24 ≠ 0 ∧ (∀ i ∈ u.slicesOf x.val, u.sliceFull i = false) ∧ (u.allFar x.val = true → u.farFull x.val = false) :=
  ⟨{ setAll [(F.MDR_SITE_STATE.STATE, 0, 2), (F.MDR_STEP_STAT.STATE, 0, 1), (F.SMAP_TSLICE.VALID, 0, 1)] with ctxs := [(0, { words := 1, lines := [(0, [0x100000001000000])] })] },
    _, 0, 0x100000001000000, rfl, by decide +kernel⟩

theorem witness_StepUnitsComplete_4 : ∃ (s u : State) (x : Site) (w : _), u = s.elapse 0 ∧ u.runsWord x.val 0x02 w = true ∧ bitsOf w 0 24 ≠ 0xFFFFFF
    :=
  ⟨{ setAll [(F.MDR_SITE_STATE.STATE, 0, 2), (F.MDR_STEP_STAT.STATE, 0, 1)] with ctxs := [(0, { words := 1, lines := [(0, [0x200000000000000])] })] },
    _, 0, 0x200000000000000, rfl, by decide +kernel⟩

theorem witness_StepUnitsComplete_5 : ∃ (s u : State) (x : Site) (w : _) (i : _), u = s.elapse 0 ∧ u.runsWord x.val 0x03 w = true ∧ u.leadSlice x.val
    = some i ∧ flagOf w 0 = false :=
  ⟨{ setAll [(F.MDR_SITE_STATE.STATE, 0, 2), (F.MDR_STEP_STAT.STATE, 0, 1), (F.SMAP_TSLICE.VALID, 0, 1)] with ctxs := [(0, { words := 1, lines := [(0, [0x300000000000000])] })] },
    _, 0, 0x300000000000000, 0, rfl, by decide +kernel⟩

theorem witness_StepUnitsComplete_6 : ∃ (s u : State) (x : Site) (w : _), u = s.elapse 0 ∧ u.runsWord x.val 0x04 w = true ∧ u.chanSite (bitsOf w 0 10)
    = some x.val :=
  ⟨{ setAll [(F.MDR_SITE_STATE.STATE, 0, 2), (F.MDR_STEP_STAT.STATE, 0, 1), (F.SMAP_QUAD.SITE_LO, 0, 0)] with ctxs := [(0, { words := 1, lines := [(0, [0x400000000000000])] })] },
    _, 0, 0x400000000000000, rfl, by decide +kernel⟩

theorem witness_StepUnitsComplete_7 : ∃ (s u : State) (x : Site) (w : _), u = s.elapse 0 ∧ u.runsWord x.val 0x05 w = true ∧ u.chanSite (bitsOf w 0 10)
    = some x.val ∧ u.waiting x.val 0x05 = none ∧ flagOf w 0 = false ∧ bitsOf w 16 32 = 0 :=
  ⟨{ setAll [(F.MDR_SITE_STATE.STATE, 0, 2), (F.MDR_STEP_STAT.STATE, 0, 1), (F.SMAP_QUAD.SITE_LO, 0, 0)] with ctxs := [(0, { words := 1, lines := [(0, [0x500000000000000])] })] },
    _, 0, 0x500000000000000, rfl, by decide +kernel⟩

theorem witness_StepUnitsComplete_8 : ∃ (s u : State) (x : Site) (w : _), u = s.elapse 0 ∧ u.runsWord x.val 0x05 w = true ∧ u.chanSite (bitsOf w 0 10)
    = some x.val ∧ u.waiting x.val 0x05 = none ∧ flagOf w 0 = true ∧ u.measReason (bitsOf w 0 10) false = 0 :=
  ⟨{ setAll [(F.MDR_SITE_STATE.STATE, 0, 2), (F.MDR_STEP_STAT.STATE, 0, 1), (F.SMAP_QUAD.SITE_LO, 0, 0), (F.TIA_CH_CFG.START_SLOPE, 0, 1), (F.TIA_CH_CFG.STOP_SLOPE, 0, 1)] with ctxs := [(0, { words := 1, lines := [(0, [0x501000000000000])] })] },
    _, 0, 0x501000000000000, rfl, by decide +kernel⟩

theorem witness_StepUnitsComplete_9 : ∃ (s u : State) (x : Site) (w : _) (v : _), u = s.elapse 0 ∧ u.runsWord x.val 0x05 w = true ∧ u.chanSite (bitsOf
    w 0 10) = some x.val ∧ u.waiting x.val 0x05 = some v ∧ flagOf w 0 = true ∧ u.get F.TIA_CH_STAT.STATE (bitsOf w 0 10) = 3 :=
  ⟨{ setAll [(F.MDR_SITE_STATE.STATE, 0, 2), (F.MDR_STEP_STAT.STATE, 0, 1), (F.SMAP_QUAD.SITE_LO, 0, 0), (F.TIA_CH_STAT.STATE, 0, 3)] with ctxs := [(0, { words := 1, lines := [(0, [0x501000000000000])], wait := some ⟨0x05, 0, none, 0, false⟩ })] },
    _, 0, 0x501000000000000, ⟨0x05, 0, none, 0, false⟩, rfl, by decide +kernel⟩

theorem witness_StepUnitsComplete_10 : ∃ (s u : State) (x : Site) (w : _), u = s.elapse 0 ∧ u.runsWord x.val 0x06 w = true ∧ u.chanSite (bitsOf w 0
    10) = some x.val ∧ u.get F.TIA_CH_COUNT.SAMPLES (bitsOf w 0 10) ≠ 0 ∧ u.flag F.TIA_CH_STAT.OVF (bitsOf w 0 10) = false ∧ u.flag
    F.TIA_CH_STAT.STALE (bitsOf w 0 10) = false :=
  ⟨{ setAll [(F.MDR_SITE_STATE.STATE, 0, 2), (F.MDR_STEP_STAT.STATE, 0, 1), (F.SMAP_QUAD.SITE_LO, 0, 0), (F.TIA_CH_COUNT.SAMPLES, 0, 1)] with ctxs := [(0, { words := 1, lines := [(0, [0x600000000000000])] })] },
    _, 0, 0x600000000000000, rfl, by decide +kernel⟩

theorem witness_StepUnitsComplete_11 : ∃ (s u : State) (x : Site) (w : _), u = s.elapse 0 ∧ u.runsWord x.val 0x41 w = true ∧ bitsOf w 12 2 = 0 ∧
    bitsOf w 8 4 = 0 ∧ u.safRefuses (flowOf { dt := u.now, g0 := 0, g1 := 0, arg := bitsOf w 16 32, flow := bitsOf w 0 8, site := x.val, src := 4 }) =
    none :=
  ⟨{ setAll [(F.MDR_SITE_STATE.STATE, 0, 2), (F.MDR_STEP_STAT.STATE, 0, 1)] with ctxs := [(0, { words := 1, lines := [(0, [0x4100000000000000])] })] },
    _, 0, 0x4100000000000000, rfl, by decide +kernel⟩

theorem witness_StepUnitsComplete_12 : ∃ (s u : State) (x : Site) (w : _), u = s.elapse 0 ∧ u.runsWord x.val 0x43 w = true ∧ (u.ctx x.val).svcItem =
    none ∧ 8 ≤ bitsOf w 0 10 ∧ bitsOf w 0 10 ≤ 71 ∧ u.hasConn x.val (bitsOf w 0 10 - 8) = true ∧ flagOf w 0 = false ∧ u.safRefuses (flowOf
    { dt := u.now, g0 := u.gr x.val 0, g1 := u.gr x.val 1, arg := bitsOf w 16 32, flow := bitsOf w 0 10, site := x.val, src := 0 }) = none :=
  ⟨{ setAll [(F.MDR_SITE_STATE.STATE, 0, 2), (F.MDR_STEP_STAT.STATE, 0, 1)] with ctxs := [(0, { words := 1, lines := [(0, [0x4300000000000047])] })], img := { tables := [⟨5, 0, List.replicate 4096 0⟩] } },
    _, 0, 0x4300000000000047, rfl, by decide +kernel⟩

theorem witness_StepUnitsComplete_13 : ∃ (s u : State) (x : Site) (w : _), u = s.elapse 0 ∧ u.runsWord x.val 0x43 w = true ∧ (u.ctx x.val).svcItem =
    none ∧ u.hasConn x.val (bitsOf w 0 10 - 8) = false ∧ flagOf w 0 = true :=
  ⟨{ setAll [(F.MDR_SITE_STATE.STATE, 0, 2), (F.MDR_STEP_STAT.STATE, 0, 1)] with ctxs := [(0, { words := 1, lines := [(0, [0x4301000000000008])] })] },
    _, 0, 0x4301000000000008, rfl, by decide +kernel⟩

theorem witness_StepUnitsComplete_14 : ∃ (s u : State) (x : Site) (w : _), u = s.elapse 0 ∧ u.runsWord x.val 0x42 w = true ∧ imm40 w % 32 = 0 ∧
    u.proto (bitsOf w 0 6) ≠ 0 ∧ u.get F.BUS_CFG.SITE (bitsOf w 0 6) = x.val ∧ u.txFull (bitsOf w 0 6) = false ∧ flagOf w 0 = false ∧ u.readable
    (flagOf w 1) (imm40 w) 32 = true :=
  ⟨{ setAll [(F.MDR_SITE_STATE.STATE, 0, 2), (F.MDR_STEP_STAT.STATE, 0, 1), (F.DMC_REGION.TYPE, 0, 1), (F.DMC_REGION.SIZE_MIB, 0, 1), (F.BUS_CFG.PROTOCOL, 0, 1)] with ctxs := [(0, { words := 1, lines := [(0, [0x4200000000000000])] })] },
    _, 0, 0x4200000000000000, rfl, by decide +kernel⟩

theorem witness_StepUnitsComplete_15 : ∃ (s u : State) (x : Site) (w : _), u = s.elapse 0 ∧ u.runsWord x.val 0x42 w = true ∧ imm40 w % 32 = 0 ∧
    u.proto (bitsOf w 0 6) ≠ 0 ∧ u.get F.BUS_CFG.SITE (bitsOf w 0 6) = x.val ∧ u.txFull (bitsOf w 0 6) = true ∧ u.waiting x.val 0x42 = none :=
  ⟨{ setAll [(F.MDR_SITE_STATE.STATE, 0, 2), (F.MDR_STEP_STAT.STATE, 0, 1), (F.BUS_CFG.PROTOCOL, 0, 1)] with ctxs := [(0, { words := 1, lines := [(0, [0x4200000000000000])] })], buses := [(0, { queue := List.replicate 64 ⟨0, false, [], 0, none, none, none, false, 0, 0, 0⟩ })] },
    _, 0, 0x4200000000000000, rfl, by decide +kernel⟩

/-! #### StepWaitsComplete -/

theorem witness_StepWaitsComplete_1 : ∃ (s u : State) (x : Site) (w : _), u = s.elapse 0 ∧ u.runsWord x.val 0x10 w = true ∧ u.waiting x.val 0x10 =
    none ∧ flagOf w 1 = false ∧ u.evMet x.val (bitsOf w 0 3) (flagOf w 0) = false :=
  ⟨{ setAll [(F.MDR_SITE_STATE.STATE, 0, 2), (F.MDR_STEP_STAT.STATE, 0, 1)] with ctxs := [(0, { words := 1, lines := [(0, [0x1000000000000000])] })] },
    _, 0, 0x1000000000000000, rfl, by decide +kernel⟩

theorem witness_StepWaitsComplete_2 : ∃ (s u : State) (x : Site) (w : _), u = s.elapse 0 ∧ u.runsWord x.val 0x10 w = true ∧ flagOf w 1 = false ∧
    u.evMet x.val (bitsOf w 0 3) (flagOf w 0) = true :=
  ⟨{ setAll [(F.MDR_SITE_STATE.STATE, 0, 2), (F.MDR_STEP_STAT.STATE, 0, 1), (F.MDR_STEP_WMASK.CH, 0, 1), (F.MDR_STEP_EVL.CH, 0, 1)] with ctxs := [(0, { words := 1, lines := [(0, [0x1000000000000000])] })] },
    _, 0, 0x1000000000000000, rfl, by decide +kernel⟩

theorem witness_StepWaitsComplete_3 : ∃ (s u : State) (x : Site) (w : _), u = s.elapse 0 ∧ u.runsWord x.val 0x11 w = true ∧ flagOf w 0 = false ∧
    u.reached (u.gr x.val (regA w)) = true :=
  ⟨{ setAll [(F.MDR_SITE_STATE.STATE, 0, 2), (F.MDR_STEP_STAT.STATE, 0, 1)] with ctxs := [(0, { words := 1, lines := [(0, [0x1100000000000000])] })] },
    _, 0, 0x1100000000000000, rfl, by decide +kernel⟩

theorem witness_StepWaitsComplete_4 : ∃ (s u : State) (x : Site) (w : _), u = s.elapse 0 ∧ u.runsWord x.val 0x11 w = true ∧ flagOf w 0 = false ∧
    u.waiting x.val 0x11 = none ∧ u.reached (u.gr x.val (regA w)) = false :=
  ⟨{ setAll [(F.MDR_SITE_STATE.STATE, 0, 2), (F.MDR_STEP_STAT.STATE, 0, 1), (F.MDR_STEP_G.VALUE, 0, 1)] with ctxs := [(0, { words := 1, lines := [(0, [0x1100000000000000])] })] },
    _, 0, 0x1100000000000000, rfl, by decide +kernel⟩

theorem witness_StepWaitsComplete_5 : ∃ (s u : State) (x : Site) (w : _), u = s.elapse 0 ∧ u.runsWord x.val 0x11 w = true ∧ flagOf w 0 = true ∧ regA w
    = 0 ∧ u.waiting x.val 0x11 = none ∧ u.reached (wrap64 (u.now + ns (imm40 w))) = false :=
  ⟨{ setAll [(F.MDR_SITE_STATE.STATE, 0, 2), (F.MDR_STEP_STAT.STATE, 0, 1)] with ctxs := [(0, { words := 1, lines := [(0, [0x1101000000000100])] })] },
    _, 0, 0x1101000000000100, rfl, by decide +kernel⟩

theorem witness_StepWaitsComplete_6 : ∃ (s u : State) (x : Site) (w : _), u = s.elapse 0 ∧ u.runsWord x.val 0x12 w = true ∧ u.drained x.val = true :=
  ⟨{ setAll [(F.MDR_SITE_STATE.STATE, 0, 2), (F.MDR_STEP_STAT.STATE, 0, 1)] with ctxs := [(0, { words := 1, lines := [(0, [0x1200000000000000])] })] },
    _, 0, 0x1200000000000000, rfl, by decide +kernel⟩

theorem witness_StepWaitsComplete_7 : ∃ (s u : State) (x : Site) (w : _), u = s.elapse 0 ∧ u.runsWord x.val 0x12 w = true ∧ u.drained x.val = false ∧
    u.waiting x.val 0x12 = none :=
  ⟨{ setAll [(F.MDR_SITE_STATE.STATE, 0, 2), (F.MDR_STEP_STAT.STATE, 0, 1), (F.SMAP_TSLICE.VALID, 0, 1)] with ctxs := [(0, { words := 1, lines := [(0, [0x1200000000000000])] })] },
    _, 0, 0x1200000000000000, rfl, by decide +kernel⟩

theorem witness_StepWaitsComplete_8 : ∃ (s u : State) (x : Site) (w : _), u = s.elapse 0 ∧ u.runsWord x.val 0x13 w = true ∧ u.syncMember (bitsOf w 0
    6) x.val = true ∧ u.waiting x.val opSync = none ∧ Tab.get none u.barriers (bitsOf w 0 6) = none :=
  ⟨{ setAll [(F.MDR_SITE_STATE.STATE, 0, 2), (F.MDR_STEP_STAT.STATE, 0, 1), (F.MDR_STEP_SYNC_MEM.SITE, 504, 1)] with ctxs := [(0, { words := 1, lines := [(0, [0x130000000000003f])] })] },
    _, 0, 0x130000000000003f, rfl, by decide +kernel⟩

theorem witness_StepWaitsComplete_9 : ∃ (s u : State) (x : Site) (w : _), u = s.elapse 0 ∧ u.runsWord x.val 0x13 w = true ∧ u.syncMember (bitsOf w 0
    6) x.val = false :=
  ⟨{ setAll [(F.MDR_SITE_STATE.STATE, 0, 2), (F.MDR_STEP_STAT.STATE, 0, 1)] with ctxs := [(0, { words := 1, lines := [(0, [0x1300000000000000])] })] },
    _, 0, 0x1300000000000000, rfl, by decide +kernel⟩

theorem witness_StepWaitsComplete_10 : ∃ (s u : State) (x : Site) (w : _), u = s.elapse 0 ∧ u.runsWord x.val 0x14 w = true ∧ imm40 w ≠ 0 ∧ u.flag
    F.MDR_SITE_STATE.TRIMOK x.val = true :=
  ⟨{ setAll [(F.MDR_SITE_STATE.TRIMOK, 0, 1), (F.MDR_SITE_STATE.STATE, 0, 2), (F.MDR_STEP_STAT.STATE, 0, 1)] with ctxs := [(0, { words := 1, lines := [(0, [0x1400000000000100])] })] },
    _, 0, 0x1400000000000100, rfl, by decide +kernel⟩

theorem witness_StepWaitsComplete_11 : ∃ (s u : State) (x : Site) (w : _), u = s.elapse 0 ∧ u.runsWord x.val 0x14 w = true ∧ imm40 w ≠ 0 ∧ u.flag
    F.MDR_SITE_STATE.TRIMOK x.val = false :=
  ⟨{ setAll [(F.MDR_SITE_STATE.TRIMOK, 0, 0), (F.MDR_SITE_STATE.STATE, 0, 2), (F.MDR_STEP_STAT.STATE, 0, 1)] with ctxs := [(0, { words := 1, lines := [(0, [0x1400000000000100])] })] },
    _, 0, 0x1400000000000100, rfl, by decide +kernel⟩

theorem witness_StepWaitsComplete_12 : ∃ (s u : State) (x : Site), u = s.elapse 0 ∧ u.ctxRuns x.val = true ∧ u.lineHeld x.val (u.stepPc x.val) = none
    ∧ u.stepPc x.val < (u.ctx x.val).words ∧ u.eccAt (u.ctx x.val).hot ((u.ctx x.val).base + 64 * (u.stepPc x.val / 8)) 64 .clean = .clean ∧ u.get
    F.MDR_STEP_STAT.STATE x.val ≠ 4 :=
  ⟨{ setAll [(F.MDR_SITE_STATE.STATE, 0, 2), (F.MDR_STEP_STAT.STATE, 0, 1)] with ctxs := [(0, { words := 1 })] }, _, 0, rfl, by decide +kernel⟩

theorem witness_StepWaitsComplete_13 : ∃ (s u : State) (x : Site) (rom : Ecc), u = s.elapse 0 ∧ u.ctxLive x.val = true ∧ (u.microRead rom).ctxLive
    x.val = true ∧ ((u.microRead rom).ctx x.val).faultPend = true :=
  ⟨{ setAll [(F.MDR_STEP_STAT.STATE, 0, 1)] with ctxs := [(0, { faultPend := true })] }, _, 0, .clean, rfl, by decide +kernel⟩

theorem witness_StepWaitsComplete_14 : ∃ (s u : State) (x : Site) (rom : Ecc), u = s.elapse 0 ∧ u.ctxLive x.val = true ∧ (u.microRead rom).ctxLive
    x.val = true ∧ ((u.microRead rom).ctx x.val).faultPend = false ∧ ((u.microRead rom).ctxRuns x.val = true ∨ (u.microRead rom).ctxEnds x.val = true)
    ∧ ((u.microRead rom).site x.val).abortPend = true :=
  ⟨{ setAll [(F.MDR_SITE_STATE.STATE, 0, 2), (F.MDR_STEP_STAT.STATE, 0, 1)] with sites := [(0, { abortPend := true })] }, _, 0, .clean, rfl,
    by decide +kernel⟩

theorem witness_StepWaitsComplete_15 : ∃ (s u : State) (x : Site) (rom : Ecc), u = s.elapse 0 ∧ u.ctxLive x.val = true ∧ (u.microRead rom).ctxLive
    x.val = true ∧ ((u.microRead rom).ctx x.val).faultPend = false ∧ ((u.microRead rom).ctxRuns x.val = true ∨ (u.microRead rom).ctxEnds x.val = true)
    ∧ ((u.microRead rom).site x.val).abortPend = false ∧ ((u.microRead rom).site x.val).ctxStop = true :=
  ⟨{ setAll [(F.MDR_SITE_STATE.STATE, 0, 2), (F.MDR_STEP_STAT.STATE, 0, 1)] with sites := [(0, { ctxStop := true })] }, _, 0, .clean, rfl,
    by decide +kernel⟩

theorem witness_StepWaitsComplete_16 : ∃ (s u : State) (x : Site) (rom : Ecc), u = s.elapse 0 ∧ u.ctxLive x.val = true ∧ (u.microRead rom).ctxLive
    x.val = true ∧ ((u.microRead rom).ctx x.val).faultPend = false ∧ (u.microRead rom).ctxRuns x.val = true ∧ ((u.microRead rom).site x.val).abortPend
    = false ∧ ((u.microRead rom).site x.val).ctxStop = false ∧ (u.microRead rom).preceded x.val = true :=
  ⟨setAll [(F.MDR_SITE_STATE.STATE, 0, 2), (F.MDR_STEP_STAT.STATE, 0, 1), (F.MDR_STEP_STAT.TRAP_PEND, 0, 1), (F.MDR_STEP_TRAP.EN, 0, 1)], _, 0, .clean,
    rfl, by decide +kernel⟩

theorem witness_StepWaitsComplete_17 : ∃ (s u : State) (x : Site) (rom : Ecc) (k : _), u = s.elapse 0 ∧ u.ctxLive x.val = true ∧ (u.microRead
    rom).ctxLive x.val = true ∧ (u.microRead rom).ctxRuns x.val = true ∧ (u.microRead rom).preceded x.val = false ∧ (u.microRead rom).wordFault x.val
    = some k :=
  ⟨setAll [(F.MDR_SITE_STATE.STATE, 0, 2), (F.MDR_STEP_STAT.STATE, 0, 1)], _, 0, .clean, 7, rfl, by decide +kernel⟩

theorem witness_StepWaitsComplete_18 : ∃ (s u : State) (x : Site), u = s.elapse 0 ∧ u.proxy x.val = false ∧ (u.siteState x.val = 3 ∨ u.siteState x.val
    = 5) ∧ (u.site x.val).start = none ∧ (u.site x.val).stop = none ∧ u.slicesOf x.val ≠ [] ∧ (∀ i ∈ u.slicesOf x.val, u.playEnded i = true ∧ (u.slice
    i).queue ≠ []) :=
  ⟨{ setAll [(F.SMAP_SITE.PROXY, 0, 0), (F.MDR_SITE_STATE.STATE, 0, 3), (F.SMAP_TSLICE.VALID, 0, 1)] with slices := [(0, { endDT := some 0, queue := [⟨0, 1, 0, none⟩] })] },
    _, 0, rfl, by decide +kernel⟩

theorem witness_StepWaitsComplete_19 : ∃ (s u : State) (x : Site) (c : EvCh) (m : _), u = s.elapse 0 ∧ u.consumes = true ∧ m < 8 ∧ bitAt (u.wmask
    x.val m (c.val / 32)) (c.val % 32) = true ∧ bitAt (u.evl x.val (c.val / 32)) (c.val % 32) = false :=
  ⟨setAll [(F.MDR_STEP_WMASK.CH, 63, 2147483648)], _, 0, 255, 7, rfl, by decide +kernel⟩

theorem witness_StepWaitsComplete_20 : ∃ (s u : State) (x : Site) (c : EvCh) (m : _), u = s.elapse 0 ∧ u.consumes = true ∧ m < 8 ∧ bitAt (u.wmask
    x.val m (c.val / 32)) (c.val % 32) = true ∧ bitAt (u.evl x.val (c.val / 32)) (c.val % 32) = true :=
  ⟨setAll [(F.MDR_STEP_WMASK.CH, 63, 2147483648), (F.MDR_STEP_EVL.CH, 7, 2147483648)], _, 0, 255, 7, rfl, by decide +kernel⟩

theorem witness_StepWaitsComplete_21 : ∃ (s u : State) (x : Site) (w : _), u = s.elapse 0 ∧ (u.ctx x.val).wait = some w ∧ u.ctxRuns x.val = true ∧
    u.preceded x.val = false ∧ u.due w.limit = true ∧ u.waitMet x.val w = false :=
  ⟨{ setAll [(F.MDR_SITE_STATE.STATE, 0, 2), (F.MDR_STEP_STAT.STATE, 0, 1)] with ctxs := [(0, { wait := some ⟨0x10, 0, some 0, 0, false⟩ })] }, _, 0,
    ⟨0x10, 0, some 0, 0, false⟩, rfl, by decide +kernel⟩

theorem witness_StepWaitsComplete_22 : ∃ (s u : State) (x : Site) (r : _), u = s.elapse 0 ∧ (u.ctx x.val).svcDone = some r ∧ u.ctxRuns x.val = true ∧
    u.preceded x.val = false ∧ (u.waiting x.val 0x43).isSome = true :=
  ⟨{ setAll [(F.MDR_SITE_STATE.STATE, 0, 2), (F.MDR_STEP_STAT.STATE, 0, 1)] with ctxs := [(0, { svcDone := some 0, wait := some ⟨0x43, 0, none, 0, false⟩ })] },
    _, 0, 0, rfl, by decide +kernel⟩

theorem witness_StepWaitsComplete_23 : ∃ (s u : State) (b : Barrier) (r : _), u = s.elapse 0 ∧ Tab.get none u.barriers b.val = some r ∧ u.reached r =
    true :=
  ⟨{ setAll [] with barriers := [(63, some 0)] }, _, 63, 0, rfl, by decide +kernel⟩

theorem witness_StepWaitsComplete_24 : ∃ (s u : State) (x : Site), u = s.elapse 0 ∧ u.consumes = true ∧ u.flag F.MDR_STEP_STAT.TRAP_PEND x.val = false
    :=
  ⟨setAll [(F.MDR_STEP_STAT.TRAP_PEND, 0, 0)], _, 0, rfl, by decide +kernel⟩

theorem witness_StepWaitsComplete_25 : ∃ (s u : State) (x : Site), u = s.elapse 0 ∧ u.flag F.MDR_SITE_STATE.TRIMOK x.val = true ∧ u.proxy x.val =
    false ∧ u.reached (u.get F.MDR_STEP_TRIM.DT x.val) = true :=
  ⟨setAll [(F.MDR_SITE_STATE.TRIMOK, 0, 1), (F.SMAP_SITE.PROXY, 0, 0)], _, 0, rfl, by decide +kernel⟩

theorem witness_StepWaitsComplete_26 : ∃ (s u : State) (b : Barrier), u = s.elapse 0 ∧ u.arrived b.val = [] ∧ Tab.get none u.barriers b.val = none :=
  ⟨setAll [], _, 0, rfl, by decide +kernel⟩

theorem witness_StepWaitsComplete_27 : ∃ (s u : State) (b : Barrier), u = s.elapse 0 ∧ u.arrived b.val ≠ [] :=
  ⟨{ setAll [] with ctxs := [(0, { wait := some ⟨0x13, 0, none, 63, false⟩ })] }, _, 63, rfl, by decide +kernel⟩

theorem witness_StepWaitsComplete_28 : ∃ (s u : State) (x : Site) (w : _), u = s.elapse 0 ∧ u.waiting x.val opSync = some w ∧ u.due (Tab.get none
    u.barriers w.aux) = true :=
  ⟨{ setAll [] with barriers := [(63, some 0)], ctxs := [(0, { wait := some ⟨0x13, 0, none, 63, false⟩ })] }, _, 0, ⟨0x13, 0, none, 63, false⟩, rfl,
    by decide +kernel⟩

/-! #### AcquisitionComplete -/

theorem witness_AcquisitionComplete_1 : ∃ (s u : State) (ch : Chan), u = s.elapse 0 ∧ u.acqState ch.val = 0 ∧ u.armReason ch.val true = 0 :=
  ⟨setAll [(F.SEP_ACQ_CH_STAT.STATE, 0, 0), (F.SMAP_QUAD.SITE_LO, 0, 0), (F.MDR_SITE_STATE.STATE, 0, 1), (F.SEP_ACQ_CH_CFG.DEPTH, 0, 0)], _, 0, rfl,
    by decide +kernel⟩

theorem witness_AcquisitionComplete_2 : ∃ (s u : State) (ch : Chan), u = s.elapse 0 ∧ u.acqState ch.val = 0 ∧ u.armReason ch.val true ≠ 0 :=
  ⟨setAll [(F.SEP_ACQ_CH_STAT.STATE, 0, 0)], _, 0, rfl, by decide +kernel⟩

theorem witness_AcquisitionComplete_3 : ∃ (s u : State) (ch : Chan), u = s.elapse 0 ∧ u.acqState ch.val ≠ 0 :=
  ⟨setAll [(F.SEP_ACQ_CH_STAT.STATE, 0, 1)], _, 0, rfl, by decide +kernel⟩

theorem witness_AcquisitionComplete_4 : ∃ (s u : State) (ch : Chan) (x : _), u = s.elapse 0 ∧ u.chanSite ch.val = some x ∧ u.acqState ch.val ≠ 0 ∧ 1 ≤
    u.siteState x ∧ u.siteState x ≤ 4 :=
  ⟨setAll [(F.SEP_ACQ_CH_STAT.STATE, 0, 1), (F.SMAP_QUAD.SITE_LO, 0, 0), (F.MDR_SITE_STATE.STATE, 0, 4)], _, 0, 0, rfl, by decide +kernel⟩

theorem witness_AcquisitionComplete_6 : ∃ (s u : State) (ch : Chan), u = s.elapse 0 ∧ u.consumes = true ∧ u.flag F.SEP_ACQ_CH_ARMEV.ARM_EN ch.val =
    true ∧ u.acqState ch.val = 0 ∧ u.armReason ch.val true = 0 :=
  ⟨setAll [(F.SEP_ACQ_CH_ARMEV.ARM_EN, 0, 1), (F.SEP_ACQ_CH_STAT.STATE, 0, 0), (F.SMAP_QUAD.SITE_LO, 0, 0), (F.MDR_SITE_STATE.STATE, 0, 1), (F.SEP_ACQ_CH_CFG.DEPTH, 0, 0)],
    _, 0, rfl, by decide +kernel⟩

theorem witness_AcquisitionComplete_7 : ∃ (s u : State) (ch : Chan), u = s.elapse 0 ∧ u.consumes = true ∧ u.flag F.SEP_ACQ_CH_ARMEV.ARM_EN ch.val =
    true ∧ u.acqState ch.val ≠ 0 :=
  ⟨setAll [(F.SEP_ACQ_CH_ARMEV.ARM_EN, 0, 1), (F.SEP_ACQ_CH_STAT.STATE, 0, 1)], _, 0, rfl, by decide +kernel⟩

theorem witness_AcquisitionComplete_8 : ∃ (s u : State) (ch : Chan), u = s.elapse 0 ∧ u.consumes = true ∧ u.flag F.SEP_ACQ_CH_ARMEV.DIS_EN ch.val =
    true :=
  ⟨setAll [(F.SEP_ACQ_CH_ARMEV.DIS_EN, 0, 1)], _, 0, rfl, by decide +kernel⟩

theorem witness_AcquisitionComplete_9 : ∃ (s u : State) (ch : Chan) (d : _), u = s.elapse 0 ∧ (u.acqU ch.val).disarmAt.any (fun f => u.reached f) =
    false ∧ (u.acqU ch.val).armAt = some d ∧ u.acqState ch.val = 1 ∧ u.reached d = true ∧ u.flag F.MRD_CH_QF.HELD ch.val = false :=
  ⟨{ setAll [(F.SEP_ACQ_CH_STAT.STATE, 0, 1), (F.MRD_CH_QF.HELD, 0, 0)] with acqs := [(0, { armAt := some 0 })] }, _, 0, 0, rfl, by decide +kernel⟩

theorem witness_AcquisitionComplete_10 : ∃ (s u : State) (ch : Chan), u = s.elapse 0 ∧ (u.acqU ch.val).disarmAt.any (fun f => u.reached f) = true ∧
    u.acqState ch.val = 2 :=
  ⟨{ setAll [(F.SEP_ACQ_CH_STAT.STATE, 0, 2)] with acqs := [(0, { disarmAt := [0] })] }, _, 0, rfl, by decide +kernel⟩

theorem witness_AcquisitionComplete_11 : ∃ (s u : State) (ch : Chan), u = s.elapse 0 ∧ (u.acqU ch.val).disarmAt.any (fun f => u.reached f) = true ∧
    u.acqState ch.val = 4 :=
  ⟨{ setAll [(F.SEP_ACQ_CH_STAT.STATE, 0, 4)] with acqs := [(0, { disarmAt := [0] })] }, _, 0, rfl, by decide +kernel⟩

theorem witness_AcquisitionComplete_12 : ∃ (s u : State) (ch : Chan) (v : Word32), u = s.elapse 0 ∧ u.acqSettable ch.val = true ∧ u.acqCfgOk ch.val
    v.toNat = true ∧ ((if bitsOf v.toNat 5 3 = 7 then 0 else 1024 * 2 ^ bitsOf v.toNat 5 3)) ≤ u.get F.SEP_ACQ_POOL.FREE (ch.val / 128) + u.acqDepth
    ch.val :=
  ⟨setAll [], _, 0, 0, rfl, by decide +kernel⟩

theorem witness_AcquisitionComplete_13 : ∃ (s u : State) (ch : Chan) (v : Word32), u = s.elapse 0 ∧ (u.acqSettable ch.val = false ∨ u.acqCfgOk ch.val
    v.toNat = false) :=
  ⟨setAll [], _, 0, 7, rfl, by decide +kernel⟩

/-! #### TriggerComplete -/

theorem witness_TriggerComplete_1 : ∃ (s u : State) (ch : Chan) (ev : EvCh), u = s.elapse 0 ∧ u.acqState ch.val = 2 ∧ u.get F.SEP_ACQ_CH_CFG.TYPE
    ch.val = 0 ∧ u.get F.SEP_ACQ_CH_SEQ.COND (8 * ch.val + (u.get F.SEP_ACQ_CH_STAT.SEQ ch.val)) = 4 ∧ u.get F.SEP_ACQ_CH_SEQ.EVCH (8 * ch.val +
    (u.get F.SEP_ACQ_CH_STAT.SEQ ch.val)) = ev.val ∧ (u.acqU ch.val).disarmed (u.stampAt u.now) = false ∧ u.drew.pastTmax ch.val (u.get
    F.SEP_ACQ_CH_STAT.SEQ ch.val) (u.stampAt u.now) = false ∧ (u.acqU ch.val).count + 1 < u.get F.SEP_ACQ_CH_SEQ.COUNT (8 * ch.val + (u.get
    F.SEP_ACQ_CH_STAT.SEQ ch.val)) :=
  ⟨setAll [(F.SEP_ACQ_CH_STAT.STATE, 0, 2), (F.SEP_ACQ_CH_CFG.TYPE, 0, 0), (F.SEP_ACQ_CH_SEQ.COND, 0, 4), (F.SEP_ACQ_CH_SEQ.COUNT, 0, 2)], _, 0, (0 :
    EvCh), rfl, by decide +kernel⟩

theorem witness_TriggerComplete_3 : ∃ (s u : State) (ch : Chan), u = s.elapse 0 ∧ u.acqState ch.val = 2 ∧ u.get F.SEP_ACQ_CH_CFG.TYPE ch.val = 0 ∧
    u.get F.SEP_ACQ_CH_SEQ.COND (8 * ch.val + u.get F.SEP_ACQ_CH_STAT.SEQ ch.val) ≠ 6 ∧ u.get F.SEP_ACQ_CH_TIMER.TMAX (8 * ch.val + u.get
    F.SEP_ACQ_CH_STAT.SEQ ch.val) ≠ 0 ∧ u.reached (wrap64 ((u.acqU ch.val).entry + ns (u.get F.SEP_ACQ_CH_TIMER.TMAX (8 * ch.val + u.get
    F.SEP_ACQ_CH_STAT.SEQ ch.val)))) = true ∧ (u.acqU ch.val).disarmAt = [] :=
  ⟨setAll [(F.SEP_ACQ_CH_STAT.STATE, 0, 2), (F.SEP_ACQ_CH_CFG.TYPE, 0, 0), (F.UMB_DT.DT, 0, 1000000000000), (F.SEP_ACQ_CH_TIMER.TMAX, 0, 1)], _, 0, rfl,
    by decide +kernel⟩

theorem witness_TriggerComplete_4 : ∃ (s u : State) (ch : Chan), u = s.elapse 0 ∧ u.acqState ch.val = 2 ∧ u.get F.SEP_ACQ_CH_CFG.TYPE ch.val = 0 ∧
    u.get F.SEP_ACQ_CH_SEQ.COND (8 * ch.val + (u.get F.SEP_ACQ_CH_STAT.SEQ ch.val)) = 6 ∧ u.get F.SEP_ACQ_CH_SEQ.ON_MATCH (8 * ch.val + (u.get
    F.SEP_ACQ_CH_STAT.SEQ ch.val)) ≠ 8 ∧ u.reached (wrap64 ((u.acqU ch.val).entry + ns (u.get F.SEP_ACQ_CH_TIMER.TMIN (8 * ch.val + (u.get
    F.SEP_ACQ_CH_STAT.SEQ ch.val))))) = true ∧ (u.acqU ch.val).disarmAt = [] :=
  ⟨setAll [(F.SEP_ACQ_CH_STAT.STATE, 0, 2), (F.SEP_ACQ_CH_CFG.TYPE, 0, 0), (F.SEP_ACQ_CH_SEQ.COND, 0, 6)], _, 0, rfl, by decide +kernel⟩

theorem witness_TriggerComplete_5 : ∃ (s u : State) (ch : Chan) (v : PrivEval) (l : List Crossing) (j : PrivJudged), u = s.elapse 0 ∧ u.acqState
    ch.val = 2 ∧ (u.evalSeen ch.val v).judge ch.val v l = some j ∧ j.met = true ∧ (u.acqU ch.val).disarmed j.trig = false ∧ (∀ d, (u.acqU
    ch.val).lastStart = some d → dtReached j.start (wrap64 (d + ns 32)) = true) :=
  ⟨setAll [(F.SEP_ACQ_CH_STAT.STATE, 0, 2), (F.SEP_ACQ_CH_CFG.TYPE, 0, 1), (F.SEP_ACQ_CH_PARAM0.LIMIT, 0, 1)], _, 0, .pair ⟨true, true, 0⟩ ⟨true, false,
    0⟩, [], { start := 0, trig := 0, q := 0, met := true }, rfl, by decide +kernel⟩

theorem witness_TriggerComplete_6 : ∃ (s u : State) (ch : Chan) (v : PrivEval) (l : List Crossing) (j : PrivJudged), u = s.elapse 0 ∧ u.acqState
    ch.val ≠ 0 ∧ (u.evalSeen ch.val v).judge ch.val v l = some j ∧ j.met = false ∧ (∀ d, (u.acqU ch.val).lastStart = some d → dtReached j.start
    (wrap64 (d + ns 32)) = true) :=
  ⟨setAll [(F.SEP_ACQ_CH_STAT.STATE, 0, 1), (F.SEP_ACQ_CH_CFG.TYPE, 0, 1), (F.SEP_ACQ_CH_PARAM0.LIMIT, 0, 0)], _, 0, .pair ⟨true, true, 0⟩ ⟨true, false,
    0⟩, [], { start := 0, trig := 0, q := 0, met := false }, rfl, by decide +kernel⟩

theorem witness_TriggerComplete_7 : ∃ (s u : State) (ch : Chan) (v : PrivEval) (l : List Crossing), u = s.elapse 0 ∧ (u.evalSeen ch.val v).judge
    ch.val v l = none :=
  ⟨setAll [], _, 0, .pair ⟨true, true, 0⟩ ⟨true, false, 0⟩, [], rfl, by decide +kernel⟩

theorem witness_TriggerComplete_8 : ∃ (s u : State) (ch : Chan) (a : Crossing) (b : Crossing) (l : List Crossing), u = s.elapse 0 ∧ pairMeasured
    (u.get F.SEP_ACQ_CH_CFG.TYPE ch.val) (u.get F.SEP_ACQ_CH_PARAM0.EDGE ch.val) a b l = true ∧ u.reached (wrap64 b.dt) = true :=
  ⟨setAll [(F.SEP_ACQ_CH_CFG.TYPE, 0, 1)], _, 0, ⟨true, true, 0⟩, ⟨true, false, 0⟩, [], rfl, by decide +kernel⟩

theorem witness_TriggerComplete_9 : ∃ (s u : State) (ch : Chan) (f : _), u = s.elapse 0 ∧ u.acqState ch.val = 2 ∧ (u.acqU ch.val).forceAt = [f] ∧
    u.flag F.SEP_ACQ_CH_CFG.AUTO ch.val = false ∧ u.reached f = true ∧ (u.acqU ch.val).disarmed f = false :=
  ⟨{ setAll [(F.SEP_ACQ_CH_STAT.STATE, 0, 2), (F.SEP_ACQ_CH_CFG.AUTO, 0, 0)] with acqs := [(0, { forceAt := [0] })] }, _, 0, 0, rfl, by decide +kernel⟩

theorem witness_TriggerComplete_10 : ∃ (s u : State) (ch : Chan), u = s.elapse 0 ∧ (u.acqU ch.val).forceAt = [] ∧ u.flag F.SEP_ACQ_CH_CFG.AUTO ch.val
    = true ∧ u.reached (wrap64 ((u.acqU ch.val).autoFrom + us (max 1 (u.get F.SEP_ACQ_CH_AUTO.US ch.val)))) = true ∧ (u.acqU ch.val).disarmed (wrap64
    ((u.acqU ch.val).autoFrom + us (max 1 (u.get F.SEP_ACQ_CH_AUTO.US ch.val)))) = false :=
  ⟨setAll [(F.SEP_ACQ_CH_CFG.AUTO, 0, 1), (F.UMB_DT.DT, 0, 1000000000000)], _, 0, rfl, by decide +kernel⟩

theorem witness_TriggerComplete_11 : ∃ (s u : State) (ch : Chan) (d : _), u = s.elapse 0 ∧ u.acqState ch.val = 2 ∧ earliest (u.forcedDue ch.val) =
    some d :=
  ⟨{ setAll [(F.SEP_ACQ_CH_STAT.STATE, 0, 2)] with acqs := [(0, { forceAt := [0] })] }, _, 0, 0, rfl, by decide +kernel⟩

/-! #### HistoryComplete -/

theorem witness_HistoryComplete_1 : ∃ (s u : State) (ch : Chan) (w : Fin 8) (i : _), u = s.elapse 0 ∧ u.chanSlice ch.val = some i ∧ u.acqState ch.val
    = 2 ∧ w.val ≠ 0 ∧ (u.slice i).playing = true ∧ (u.acqU ch.val).trig = none ∧ ((u.acqU ch.val).nextSample + 1) * 2 ^ u.get F.SEP_ACQ_CH_CFG.DECIM
    ch.val < (u.slice i).vidx ∧ (u.slice i).resumes = (u.acqU ch.val).resumes :=
  ⟨{ setAll [(F.SEP_ACQ_CH_STAT.STATE, 0, 2), (F.SMAP_TSLICE.VALID, 0, 1), (F.SMAP_TSLICE.QUADS, 0, 1), (F.SEP_ACQ_CH_CFG.DECIM, 0, 0)] with slices := [(0, { playing := true, vidx := 2 })] },
    _, 0, 1, 0, rfl, by decide +kernel⟩

theorem witness_HistoryComplete_2 : ∃ (s u : State) (ch : Chan) (tr : _), u = s.elapse 0 ∧ u.acqState ch.val = 3 ∧ (u.acqU ch.val).trig = some tr ∧
    (u.acqU ch.val).tsamp.isSome = true ∧ (u.acqU ch.val).post.length = u.acqPost ch.val :=
  ⟨{ setAll [(F.SEP_ACQ_CH_STAT.STATE, 0, 3), (F.SEP_ACQ_CH_CFG.DEPTH, 0, 0), (F.SEP_ACQ_CH_CFG.PRE, 0, 1023)] with acqs := [(0, { trig := some ⟨0, false, false, 0, 0, 0, 0, 0, false⟩, tsamp := some 0 })] },
    _, 0, ⟨0, false, false, 0, 0, 0, 0, 0, false⟩, rfl, by decide +kernel⟩

theorem witness_HistoryComplete_3 : ∃ (s u : State) (ch : Chan) (tr : _), u = s.elapse 0 ∧ u.acqState ch.val = 3 ∧ (u.acqU ch.val).trig = some tr ∧
    tr.noplay = false ∧ (u.acqU ch.val).post.length ≠ u.acqPost ch.val ∧ u.playOver ch.val = true :=
  ⟨{ setAll [(F.SEP_ACQ_CH_STAT.STATE, 0, 3), (F.SEP_ACQ_CH_CFG.DEPTH, 0, 0), (F.SEP_ACQ_CH_CFG.PRE, 0, 0)] with acqs := [(0, { trig := some ⟨0, false, false, 0, 0, 0, 0, 0, false⟩ })] },
    _, 0, ⟨0, false, false, 0, 0, 0, 0, 0, false⟩, rfl, by decide +kernel⟩

theorem witness_HistoryComplete_4 : ∃ (s u : State) (ch : Chan) (x : Site) (tr : _), u = s.elapse 0 ∧ u.acqState ch.val = 4 ∧ (u.acqU ch.val).trig =
    some tr ∧ u.chanSite ch.val = some x.val ∧ u.proxy x.val = false :=
  ⟨{ setAll [(F.SEP_ACQ_CH_STAT.STATE, 0, 4), (F.SMAP_SITE.PROXY, 0, 0), (F.SMAP_QUAD.SITE_LO, 0, 0), (F.MDR_SITE_STATE.STATE, 0, 2)] with acqs := [(0, { trig := some ⟨0, false, false, 0, 0, 0, 0, 0, false⟩ })] },
    _, 0, 0, ⟨0, false, false, 0, 0, 0, 0, 0, false⟩, rfl, by decide +kernel⟩

theorem witness_HistoryComplete_5 : ∃ (s u : State) (ch : Chan) (x : Site) (y : _) (tr : _), u = s.elapse 0 ∧ u.acqState ch.val = 4 ∧ (u.acqU
    ch.val).trig = some tr ∧ u.chanSite ch.val = some y ∧ x.val ≠ y :=
  ⟨{ setAll [(F.SEP_ACQ_CH_STAT.STATE, 0, 4), (F.SMAP_QUAD.SITE_LO, 0, 0), (F.MDR_SITE_STATE.STATE, 0, 2)] with acqs := [(0, { trig := some ⟨0, false, false, 0, 0, 0, 0, 0, false⟩ })] },
    _, 0, 1, 0, ⟨0, false, false, 0, 0, 0, 0, 0, false⟩, rfl, by decide +kernel⟩

theorem witness_HistoryComplete_6 : ∃ (s u : State) (x : Site) (v : Word32), u = s.elapse 0 ∧ rdOk (u.get F.SEP_ACQ_RING_RD.POS x.val) (u.get
    F.SEP_ACQ_RING_WR.POS x.val) v.toNat = true :=
  ⟨setAll [], _, 0, 0, rfl, by decide +kernel⟩

theorem witness_HistoryComplete_7 : ∃ (s u : State) (x : Site) (v : Word32), u = s.elapse 0 ∧ rdOk (u.get F.SEP_ACQ_RING_RD.POS x.val) (u.get
    F.SEP_ACQ_RING_WR.POS x.val) v.toNat = false :=
  ⟨setAll [], _, 0, 1, rfl, by decide +kernel⟩

/-! #### MeasurementComplete -/

theorem witness_MeasurementComplete_1 : ∃ (s u : State) (ch : Chan), u = s.elapse 0 ∧ u.measReason ch.val true = 0 :=
  ⟨setAll [(F.SMAP_QUAD.SITE_LO, 0, 0), (F.MDR_SITE_STATE.STATE, 0, 1), (F.TIA_CH_CFG.START_SLOPE, 0, 1), (F.TIA_CH_CFG.STOP_SLOPE, 0, 1)], _, 0, rfl,
    by decide +kernel⟩

theorem witness_MeasurementComplete_2 : ∃ (s u : State) (ch : Chan), u = s.elapse 0 ∧ u.measReason ch.val true ≠ 0 :=
  ⟨setAll [], _, 0, rfl, by decide +kernel⟩

theorem witness_MeasurementComplete_3 : ∃ (s u : State) (ch : Chan), u = s.elapse 0 ∧ u.get F.TIA_CH_STAT.STATE ch.val = 2 :=
  ⟨setAll [(F.TIA_CH_STAT.STATE, 0, 2)], _, 0, rfl, by decide +kernel⟩

theorem witness_MeasurementComplete_4 : ∃ (s u : State) (ch : Chan) (d : _), u = s.elapse 0 ∧ (u.tiaU ch.val).startAt = some d ∧ u.get
    F.TIA_CH_STAT.STATE ch.val = 1 ∧ u.reached d = true ∧ u.flag F.MRD_CH_QF.HELD ch.val = false :=
  ⟨{ setAll [(F.TIA_CH_STAT.STATE, 0, 1), (F.MRD_CH_QF.HELD, 0, 0)] with tias := [(0, { startAt := some 0 })] }, _, 0, 0, rfl, by decide +kernel⟩

theorem witness_MeasurementComplete_5 : ∃ (s u : State) (ch : Chan) (a : _) (b : _) (p : _), u = s.elapse 0 ∧ u.sampling ch.val = true ∧ dtReached b a
    = true ∧ u.reached b = true ∧ u.get F.TIA_CH_CFG.TYPE ch.val = 0 ∧ u.startFits ch.val a = true ∧ u.startDead ch.val a = false ∧ (u.tiaU
    ch.val).lastB = none ∧ u.cycleFits ch.val a b p = true ∧ u.get F.TIA_CH_WMIN.TICKS ch.val ≤ wrap64 (b + 2 ^ 64 - wrap64 a) ∧ u.get
    F.TIA_CH_WMAX.TICKS ch.val = 0 :=
  ⟨setAll [(F.TIA_CH_CFG.TYPE, 0, 0), (F.TIA_CH_WMAX.TICKS, 0, 0), (F.TIA_CH_STAT.STATE, 0, 2)], _, 0, 0, 0, 0, rfl, by decide +kernel⟩

theorem witness_MeasurementComplete_6 : ∃ (s u : State) (ch : Chan) (a : _) (b : _) (p : _), u = s.elapse 0 ∧ u.sampling ch.val = true ∧ dtReached b a
    = true ∧ u.reached b = true ∧ u.get F.TIA_CH_CFG.TYPE ch.val = 0 ∧ u.startFits ch.val a = true ∧ u.startDead ch.val a = false ∧ (u.tiaU
    ch.val).lastB = none ∧ u.cycleFits ch.val a b p = true ∧ u.get F.TIA_CH_WMIN.TICKS ch.val ≤ wrap64 (b + 2 ^ 64 - wrap64 a) ∧ u.get
    F.TIA_CH_WMAX.TICKS ch.val = 0 :=
  ⟨setAll [(F.TIA_CH_CFG.TYPE, 0, 0), (F.TIA_CH_WMAX.TICKS, 0, 0), (F.TIA_CH_STAT.STATE, 0, 2)], _, 0, 0, 0, 0, rfl, by decide +kernel⟩

theorem witness_MeasurementComplete_7 : ∃ (s u : State) (ch : Chan) (a : _), u = s.elapse 0 ∧ u.sampling ch.val = true ∧ u.get F.TIA_CH_WMAX.TICKS
    ch.val ≠ 0 ∧ u.get F.TIA_CH_CFG.TYPE ch.val = 0 ∧ u.startFits ch.val a = true ∧ u.startDead ch.val a = false ∧ u.reached (u.windowEnd ch.val a) =
    true :=
  ⟨setAll [(F.TIA_CH_WMAX.TICKS, 0, 1), (F.TIA_CH_CFG.TYPE, 0, 0), (F.TIA_CH_STAT.STATE, 0, 2), (F.UMB_DT.DT, 0, 1000000000000)], _, 0, 0, rfl,
    by decide +kernel⟩

theorem witness_MeasurementComplete_8 : ∃ (s u : State) (ch : Chan) (a : _) (b : _) (n : _), u = s.elapse 0 ∧ u.sampling ch.val = true ∧ u.get
    F.TIA_CH_CFG.TYPE ch.val = 3 ∧ u.gateEmpty ch.val a b n = false ∧ u.gateFits ch.val a b n = true ∧ u.reached b = true :=
  ⟨setAll [(F.TIA_CH_CFG.TYPE, 0, 3), (F.TIA_CH_STAT.STATE, 0, 2), (F.TIA_CH_GATE.US, 0, 0), (F.UMB_DT.DT, 0, 1000000000000)], _, 0, 0, 5000, 1, rfl,
    by decide +kernel⟩

theorem witness_MeasurementComplete_9 : ∃ (s u : State) (ch : Chan), u = s.elapse 0 ∧ u.sampling ch.val = true ∧ u.get F.TIA_CH_CFG.TYPE ch.val = 3 ∧
    u.reached (wrap64 ((u.tiaU ch.val).gateOpen + 2 * u.gateLen ch.val)) = true :=
  ⟨setAll [(F.TIA_CH_CFG.TYPE, 0, 3), (F.TIA_CH_STAT.STATE, 0, 2), (F.UMB_DT.DT, 0, 1000000000000)], _, 0, rfl, by decide +kernel⟩

theorem witness_MeasurementComplete_10 : ∃ (s u : State) (ch : Chan), u = s.elapse 0 ∧ u.get F.TIA_CH_STAT.STATE ch.val = 2 ∧ u.measN ch.val ≤ u.get
    F.TIA_CH_COUNT.SAMPLES ch.val :=
  ⟨setAll [(F.TIA_CH_STAT.STATE, 0, 2), (F.TIA_CH_COUNT.SAMPLES, 0, 1)], _, 0, rfl, by decide +kernel⟩

/-! #### TimebaseComplete -/

theorem witness_TimebaseComplete_3 : ∃ (s u : State) (err : _), u = s.elapse 0 ∧ u.get F.UMB_STAT.STATE 0 = 1 ∧ ((u.get F.UMB_CFG.SRC 0 = 1 ∧ err <
    1000 ∧ u.reached (wrap64 (u.umb.refAt + 10 * second)) = true) ∨ (u.get F.UMB_CFG.SRC 0 = 2 ∧ 3 ≤ u.umb.ppsGood) ∨ (u.get F.UMB_CFG.SRC 0 = 3 ∧
    u.timeHolds = true)) :=
  ⟨setAll [(F.UMB_STAT.STATE, 0, 1), (F.UMB_DT.DT, 0, 20000000000000000), (F.UMB_CFG.SRC, 0, 1)], _, 0, rfl, by decide +kernel⟩

theorem witness_TimebaseComplete_4 : ∃ (s u : State) (edge : _) (err : _), u = s.elapse 0 ∧ (u.get F.UMB_STAT.STATE 0 = 1 ∨ u.get F.UMB_STAT.STATE 0 =
    2) ∧ ((u.get F.UMB_CFG.SRC 0 = 1 ∧ (u.reached (wrap64 (edge + us 1)) = true ∨ 20000000 < err)) ∨ (u.get F.UMB_CFG.SRC 0 = 2 ∧ ∀ d, u.umb.ppsAt =
    some d → u.reached (wrap64 (d + second + us 1000 + 1)) = true) ∨ (u.get F.UMB_CFG.SRC 0 = 3 ∧ u.upstream = none)) :=
  ⟨setAll [(F.UMB_STAT.STATE, 0, 1), (F.UMB_CFG.SRC, 0, 1), (F.UMB_DT.DT, 0, 1000000000000)], _, 0, 0, rfl, by decide +kernel⟩

theorem witness_TimebaseComplete_5 : ∃ (s u : State), u = s.elapse 0 ∧ u.get F.UMB_CFG.SRC 0 ≠ 0 ∧ u.get F.UMB_CFG.SRC 0 ≠ 3 ∧ (u.get F.UMB_STAT.STATE
    0 = 0 ∨ u.get F.UMB_STAT.STATE 0 = 3) :=
  ⟨setAll [(F.UMB_STAT.STATE, 0, 0), (F.UMB_CFG.SRC, 0, 1)], _, rfl, by decide +kernel⟩

theorem witness_TimebaseComplete_7 : ∃ (s u : State), u = s.elapse 0 ∧ u.umb.tempAt = none :=
  ⟨setAll [], _, rfl, by decide +kernel⟩

theorem witness_TimebaseComplete_8 : ∃ (s u : State), u = s.elapse 0 ∧ u.get F.UMB_AGE.BLOCKS 0 < 128 ∧ u.umb.agedAt + ((1024 * 3600 * second : Nat) :
    Int) ≤ u.extTime :=
  ⟨setAll [(F.UMB_ERA.ERA, 0, 10)], _, rfl, by decide +kernel⟩

theorem witness_TimebaseComplete_10 : ∃ (s u : State), u = s.elapse 0 ∧ (u.stationTime + 400000) % (second : Int) ≤ 800000 :=
  ⟨setAll [], _, rfl, by decide +kernel⟩

theorem witness_TimebaseComplete_11 : ∃ (s u : State), u = s.elapse 0 ∧ ¬ (u.stationTime + 400000) % (second : Int) ≤ 800000 :=
  ⟨setAll [(F.UMB_DT.DT, 0, 4000000000000)], _, rfl, by decide +kernel⟩

theorem witness_TimebaseComplete_12 : ∃ (s u : State), u = s.elapse 0 ∧ u.get F.UMB_CFG.SRC 0 ≠ 2 :=
  ⟨setAll [(F.UMB_CFG.SRC, 0, 0)], _, rfl, by decide +kernel⟩

theorem witness_TimebaseComplete_13 : ∃ (s u : State), u = s.elapse 0 ∧ (u.stationTime + 8000) % 8000000000000 ≤ 16000 ∧ u.pins.ppsRise = none :=
  ⟨setAll [], _, rfl, by decide +kernel⟩

/-! #### TrimComplete -/

theorem witness_TrimComplete_1 : ∃ (s u : State) (ch : Chan), u = s.elapse 0 ∧ u.flag F.MRD_CH_QF.HELD ch.val = true ∧ u.trimAvail ch.val = false :=
  ⟨setAll [(F.MRD_CH_QF.HELD, 0, 1)], _, 0, rfl, by decide +kernel⟩

theorem witness_TrimComplete_3 : ∃ (s u : State) (q : Fin 256), u = s.elapse 0 ∧ (u.engine q.val).hold = none :=
  ⟨setAll [], _, 0, rfl, by decide +kernel⟩

theorem witness_TrimComplete_4 : ∃ (s u : State) (q : Fin 256) (c : _), u = s.elapse 0 ∧ (u.engine q.val).hold = some c ∧ (u.engine q.val).refl =
    false ∧ u.reached (u.engine q.val).stepEnd = true ∧ u.stepValid c (u.engine q.val).stepEnd = true :=
  ⟨{ setAll [((groupFld 0), 0, 5)] with engines := [(0, { hold := some 0 })] }, _, 0, 0, rfl, by decide +kernel⟩

theorem witness_TrimComplete_5 : ∃ (s u : State) (ch : Chan) (r : _), u = s.elapse 0 ∧ (u.trimU ch.val).pend = some r ∧ (u.trimU ch.val).fix = none ∧
    u.commitDue ch.val r.from_ = true :=
  ⟨{ setAll [(F.UMB_DT.DT, 0, 1000000000000)] with trims := [(0, { pend := some ⟨0, 0, 0, 0, 0⟩ })] }, _, 0, ⟨0, 0, 0, 0, 0⟩, rfl, by decide +kernel⟩

theorem witness_TrimComplete_6 : ∃ (s u : State) (ch : Chan) (f : _), u = s.elapse 0 ∧ (u.trimU ch.val).pend = none ∧ (u.trimU ch.val).fix = some f ∧
    u.commitDue ch.val f.from_ = true :=
  ⟨{ setAll [(F.UMB_DT.DT, 0, 1000000000000)] with trims := [(0, { fix := some ⟨0, true, 0⟩ })] }, _, 0, ⟨0, true, 0⟩, rfl, by decide +kernel⟩

theorem witness_TrimComplete_7 : ∃ (s u : State) (ch : Chan) (r : _), u = s.elapse 0 ∧ (u.trimU ch.val).pend = some r ∧ u.commitDue ch.val r.from_ =
    true :=
  ⟨{ setAll [(F.UMB_DT.DT, 0, 1000000000000)] with trims := [(0, { pend := some ⟨0, 0, 0, 0, 0⟩ })] }, _, 0, ⟨0, 0, 0, 0, 0⟩, rfl, by decide +kernel⟩

theorem witness_TrimComplete_8 : ∃ (s u : State) (t : Tile), u = s.elapse 0 ∧ (∀ k < 8, k ≠ t.val → u.tileUp k = false) ∧ u.tileUp t.val = true ∧
    (Tab.get {} u.skews t.val).sent = none :=
  ⟨setAll [(F.TLK_CORE_STAT.STATE, 0, 2)], _, 0, rfl, by decide +kernel⟩

theorem witness_TrimComplete_9 : ∃ (s u : State) (t : Tile), u = s.elapse 0 ∧ (Tab.get {} u.skews t.val).waiting = true :=
  ⟨{ setAll [] with skews := [(0, { waiting := true })] }, _, 0, rfl, by decide +kernel⟩

theorem witness_TrimComplete_10 : ∃ (s u : State) (t : Tile), u = s.elapse 0 ∧ u.reached (wrap64 ((Tab.get {} u.skews t.val).lastReturn.getD (u.get
    F.TLK_CORE_UPDT.DT t.val) + us 10000)) = true :=
  ⟨setAll [(F.UMB_DT.DT, 0, 1000000000000)], _, 0, rfl, by decide +kernel⟩

theorem witness_TrimComplete_11 : ∃ (s u : State) (x : Site), u = s.elapse 0 ∧ u.reflRefused x.val false = true :=
  ⟨setAll [], _, 0, rfl, by decide +kernel⟩

theorem witness_TrimComplete_12 : ∃ (s u : State) (x : Site), u = s.elapse 0 ∧ u.reflRefused x.val false = false :=
  ⟨setAll [(F.MDR_SITE_STATE.STATE, 0, 1)], _, 0, rfl, by decide +kernel⟩

theorem witness_TrimComplete_13 : ∃ (s u : State) (ch : Chan) (x : _), u = s.elapse 0 ∧ u.chanSite ch.val = some x ∧ u.get F.MRD_REFL_STAT.STATE x = 2
    ∧ (u.engine (ch.val / 4)).refl = true ∧ (u.engine (ch.val / 4)).hold = some ch.val ∧ u.reached (u.engine (ch.val / 4)).stepEnd = true :=
  ⟨{ setAll [(F.MRD_REFL_STAT.STATE, 0, 2), (F.SMAP_QUAD.SITE_LO, 0, 0), (F.MDR_SITE_STATE.STATE, 0, 1)] with engines := [(0, { refl := true, hold := some 0 })] },
    _, 0, 0, rfl, by decide +kernel⟩

theorem witness_TrimComplete_14 : ∃ (s u : State) (x : Site), u = s.elapse 0 ∧ (u.reflChans x.val).all (fun c => (u.trimU c).reflDone) = true :=
  ⟨setAll [], _, 0, rfl, by decide +kernel⟩

theorem witness_TrimComplete_15 : ∃ (s u : State) (x : Site), u = s.elapse 0 ∧ (u.reflChans x.val).all (fun c => (u.trimU c).reflDone) = false ∧
    u.siteState x.val ≠ 1 ∧ u.flag F.MDR_SITE_STATE.TRIMOK x.val = false :=
  ⟨setAll [(F.MDR_SITE_STATE.STATE, 0, 0), (F.MDR_SITE_STATE.TRIMOK, 0, 0), (F.SMAP_TSLICE.VALID, 0, 1), (F.SMAP_TSLICE.QUADS, 0, 1), (F.WOD_CH_PIN.FIXTRIM, 0, 1)],
    _, 0, rfl, by decide +kernel⟩

/-! #### LinkComplete -/

theorem witness_LinkComplete_1 : ∃ (s u : State) (t : Tile), u = s.elapse 0 ∧ u.get F.TLK_CORE_STAT.STATE t.val = 1 :=
  ⟨setAll [(F.TLK_CORE_STAT.STATE, 0, 1)], _, 0, rfl, by decide +kernel⟩

theorem witness_LinkComplete_2 : ∃ (s u : State) (t : Tile), u = s.elapse 0 ∧ u.tileUp t.val = true :=
  ⟨setAll [(F.TLK_CORE_STAT.STATE, 0, 2)], _, 0, rfl, by decide +kernel⟩

theorem witness_LinkComplete_3 : ∃ (s u : State) (t : Tile), u = s.elapse 0 ∧ u.tileUp t.val = true :=
  ⟨setAll [(F.TLK_CORE_STAT.STATE, 0, 2)], _, 0, rfl, by decide +kernel⟩

theorem witness_LinkComplete_4 : ∃ (s u : State) (t : Tile) (q : Byte), u = s.elapse 0 ∧ u.tileUp t.val = true ∧ resendOf (u.tlink t.val).resent
    q.toNat = none :=
  ⟨setAll [(F.TLK_CORE_STAT.STATE, 0, 2)], _, 0, 0, rfl, by decide +kernel⟩

theorem witness_LinkComplete_5 : ∃ (s u : State) (t : Tile) (q : Byte) (d : _), u = s.elapse 0 ∧ u.tileUp t.val = true ∧ resendOf (u.tlink
    t.val).resent q.toNat = some (3, d) ∧ u.reached (wrap64 (d + ns 40)) = true :=
  ⟨{ setAll [(F.TLK_CORE_STAT.STATE, 0, 2), (F.UMB_DT.DT, 0, 1000000000000)] with tlinks := [(0, { resent := [(255, 3, 0)] })] }, _, 0, 255, 0, rfl,
    by decide +kernel⟩

theorem witness_LinkComplete_6 : ∃ (s u : State) (l : LinkId), u = s.elapse 0 ∧ u.linkLive l = true :=
  ⟨setAll [(F.TLK_STAT.STATE, 0, 1)], _, .tile 0, rfl, by decide +kernel⟩

theorem witness_LinkComplete_7 : ∃ (s u : State) (l : LinkId) (bits : _) (f : _), u = s.elapse 0 ∧ u.linkLive l = true ∧ readFrame bits = some f ∧
    f.invalid = 0 ∧ f.badCrc = 0 :=
  ⟨setAll [(F.TLK_STAT.STATE, 0, 2)], _, .tile 0, frameBits, ⟨0, 0, 0, 0, 0, 0⟩, rfl, by decide +kernel⟩

theorem witness_LinkComplete_8 : ∃ (s u : State) (l : LinkId) (bits : _), u = s.elapse 0 ∧ u.linkLive l = true ∧ readFrame bits = none :=
  ⟨setAll [(F.LNK_PORT_STAT.STATE, 7, 1)], _, .port 7, [], rfl, by decide +kernel⟩

/-! #### PortComplete -/

theorem witness_PortComplete_1 : ∃ (s u : State) (p : Port), u = s.elapse 0 ∧ u.lenkelOn = true ∧ u.portEn p.val = true ∧ u.portState p.val = 0 ∧
    (u.port p.val).disabled = false ∧ (u.port p.val).wakeCode = 0 :=
  ⟨{ setAll [(F.DEV_STATE.STATE, 0, 5), (F.EVF_STAT.ACTIVE, 0, 1), (F.LNK_PORT_STAT.STATE, 7, 0)] with img := { links := List.replicate 88 0 ++ [1] } },
    _, 7, rfl, by decide +kernel⟩

theorem witness_PortComplete_2 : ∃ (s u : State) (p : Port) (q : Byte) (b : BitVec 40), u = s.elapse 0 ∧ u.portState p.val = 1 ∧ (u.port p.val).direct
    = false ∧ (u.port p.val).capOk = false ∧ u.inOrder p.val q.toNat = true ∧ u.capReason p.val (bitsOf b.toNat 0 5) (bitsOf b.toNat 9 3) (bitsOf
    b.toNat 17 18) (bitAt b.toNat 5) = 0 :=
  ⟨{ setAll [(F.LNK_PORT_STAT.STATE, 0, 1)] with img := { links := List.replicate 34 0 ++ [0xFF] } }, _, 0, 0, 1, rfl, by decide +kernel⟩

theorem witness_PortComplete_3 : ∃ (s u : State) (p : Port) (q : Byte) (b : BitVec 40) (r : _), u = s.elapse 0 ∧ u.portState p.val = 1 ∧ (u.port
    p.val).direct = false ∧ (u.port p.val).capOk = false ∧ u.inOrder p.val q.toNat = true ∧ u.capReason p.val (bitsOf b.toNat 0 5) (bitsOf b.toNat 9
    3) (bitsOf b.toNat 17 18) (bitAt b.toNat 5) = r ∧ (r = 2 ∨ r = 3) :=
  ⟨setAll [(F.LNK_PORT_STAT.STATE, 0, 1)], _, 0, 0, 1, 2, rfl, by decide +kernel⟩

theorem witness_PortComplete_4 : ∃ (s u : State) (p : Port) (d : _), u = s.elapse 0 ∧ u.portState p.val = 3 ∧ (u.port p.val).retryAt = some d ∧
    u.reached d = true :=
  ⟨{ setAll [(F.LNK_PORT_STAT.STATE, 0, 3)] with ports := [(0, { retryAt := some 0 })] }, _, 0, 0, rfl, by decide +kernel⟩

theorem witness_PortComplete_5 : ∃ (s u : State) (p : Port) (q : Byte) (b : BitVec 40), u = s.elapse 0 ∧ u.portState p.val = 1 ∧ u.inOrder p.val
    q.toNat = true ∧ bitAt b.toNat 3 = true ∧ (u.port p.val).proposed = some (bitsOf b.toNat 0 3) :=
  ⟨{ setAll [(F.LNK_PORT_STAT.STATE, 0, 1)] with ports := [(0, { proposed := some 7 })] }, _, 0, 0, 15, rfl, by decide +kernel⟩

theorem witness_PortComplete_6 : ∃ (s u : State) (p : Port) (q : Byte) (b : BitVec 40), u = s.elapse 0 ∧ u.portState p.val = 1 ∧ u.inOrder p.val
    q.toNat = true ∧ bitAt b.toNat 3 = false ∧ (u.port p.val).capOk = true ∧ (u.port p.val).stepping = false ∧ bitsOf b.toNat 0 3 = u.rate p.val + 1 ∧
    u.get F.LNK_PORT_STAT.PEER_DEV p.val < u.devNum :=
  ⟨{ setAll [(F.LNK_PORT_STAT.STATE, 0, 1), (F.LNK_PORT_STAT.RATE, 0, 1), (F.DEV_NUMBER.NUMBER, 0, 1)] with ports := [(0, { capOk := true })] }, _, 0,
    0, 2, rfl, by decide +kernel⟩

theorem witness_PortComplete_7 : ∃ (s u : State) (p : Port) (c : _), u = s.elapse 0 ∧ (u.port p.val).switchTo = some c ∧ u.portState p.val = 1 :=
  ⟨{ setAll [(F.LNK_PORT_STAT.STATE, 0, 1)] with ports := [(0, { switchTo := some 7 })] }, _, 0, 7, rfl, by decide +kernel⟩

theorem witness_PortComplete_8 : ∃ (s u : State) (p : Port), u = s.elapse 0 ∧ u.portState p.val = 1 ∧ (u.port p.val).stepping = true ∧ (u.port
    p.val).direct = false ∧ u.stepGood p.val = true :=
  ⟨{ setAll [(F.LNK_PORT_STAT.STATE, 0, 1), (F.UMB_DT.DT, 0, 1000000000000), (F.LNK_PORT_STAT.RATE, 0, 1)] with ports := [(0, { stepping := true })] },
    _, 0, rfl, by decide +kernel⟩

theorem witness_PortComplete_9 : ∃ (s u : State) (p : Port), u = s.elapse 0 ∧ u.portState p.val = 1 ∧ (u.port p.val).stepping = true ∧ (u.port
    p.val).direct = false ∧ (u.port p.val).stepFrom = 0 ∧ u.reached (wrap64 ((u.port p.val).switchAt + us 50)) = true :=
  ⟨{ setAll [(F.LNK_PORT_STAT.STATE, 0, 1), (F.UMB_DT.DT, 0, 1000000000000)] with ports := [(0, { stepping := true })] }, _, 0, rfl, by decide +kernel⟩

theorem witness_PortComplete_10 : ∃ (s u : State) (p : Port), u = s.elapse 0 ∧ u.portState p.val = 1 ∧ (u.port p.val).stepping = true ∧ (u.port
    p.val).direct = false ∧ (u.port p.val).stepFrom ≠ 0 ∧ u.reached (wrap64 ((u.port p.val).switchAt + us 50)) = true :=
  ⟨{ setAll [(F.LNK_PORT_STAT.STATE, 0, 1), (F.UMB_DT.DT, 0, 1000000000000)] with ports := [(0, { stepping := true, stepFrom := 6 })] }, _, 0, rfl,
    by decide +kernel⟩

theorem witness_PortComplete_11 : ∃ (s u : State) (p : Port), u = s.elapse 0 ∧ u.portState p.val = 2 :=
  ⟨setAll [(F.LNK_PORT_STAT.STATE, 0, 2)], _, 0, rfl, by decide +kernel⟩

theorem witness_PortComplete_12 : ∃ (s u : State) (p : Port) (q : Byte) (n : _) (d : _), u = s.elapse 0 ∧ u.portState p.val = 2 ∧ resendOf (u.port
    p.val).unacked q.toNat = some (n, d) ∧ n < 3 ∧ u.reached (wrap64 (d + u.replayTime p.val)) = true :=
  ⟨{ setAll [(F.LNK_PORT_STAT.STATE, 0, 2), (F.UMB_DT.DT, 0, 1000000000000)] with ports := [(0, { unacked := [(255, 2, 0)] })] }, _, 0, 255, 2, 0, rfl,
    by decide +kernel⟩

theorem witness_PortComplete_13 : ∃ (s u : State) (p : Port) (q : Byte) (d : _), u = s.elapse 0 ∧ u.portState p.val = 2 ∧ resendOf (u.port
    p.val).unacked q.toNat = some (3, d) ∧ u.reached (wrap64 (d + u.replayTime p.val)) = true :=
  ⟨{ setAll [(F.LNK_PORT_STAT.STATE, 0, 2), (F.UMB_DT.DT, 0, 1000000000000)] with ports := [(0, { unacked := [(255, 3, 0)] })] }, _, 0, 255, 0, rfl,
    by decide +kernel⟩

theorem witness_PortComplete_14 : ∃ (s u : State) (p : Port), u = s.elapse 0 ∧ u.lenkelOn = true ∧ u.portEn p.val = true ∧ u.portState p.val ≠ 2 :=
  ⟨{ setAll [(F.DEV_STATE.STATE, 0, 5), (F.EVF_STAT.ACTIVE, 0, 1), (F.LNK_PORT_STAT.STATE, 7, 1)] with img := { links := List.replicate 88 0 ++ [1] } },
    _, 7, rfl, by decide +kernel⟩

theorem witness_PortComplete_15 : ∃ (s u : State) (p : Port), u = s.elapse 0 ∧ u.portState p.val ≠ 2 :=
  ⟨setAll [(F.LNK_PORT_STAT.STATE, 0, 0)], _, 0, rfl, by decide +kernel⟩

theorem witness_PortComplete_16 : ∃ (s u : State) (p : Port) (t1 : Word64), u = s.elapse 0 ∧ u.portState p.val = 2 ∧ u.upstream ≠ some p.val ∧
    u.ownLocked = true ∧ (u.port p.val).sentSync = none ∧ u.reached t1.toNat = true :=
  ⟨setAll [(F.LNK_PORT_STAT.STATE, 0, 2)], _, 0, 0, rfl, by decide +kernel⟩

theorem witness_PortComplete_17 : ∃ (s u : State) (p : Port) (q : Byte), u = s.elapse 0 ∧ u.portState p.val = 2 ∧ u.inOrder p.val q.toNat = true ∧
    u.upstream = some p.val ∧ (u.port p.val).ts = none :=
  ⟨setAll [(F.LNK_PORT_STAT.STATE, 0, 2), (F.LNK_TIME_STAT.UP_VALID, 0, 1)], _, 0, 0, rfl, by decide +kernel⟩

theorem witness_PortComplete_18 : ∃ (s u : State) (p : Port) (q : Byte), u = s.elapse 0 ∧ u.portState p.val = 2 ∧ u.inOrder p.val q.toNat = true :=
  ⟨setAll [(F.LNK_PORT_STAT.STATE, 0, 2)], _, 0, 0, rfl, by decide +kernel⟩

theorem witness_PortComplete_19 : ∃ (s u : State) (p : Port) (q : Byte) (b : BitVec 40) (t1 : _) (t2 : _) (t3 : _), u = s.elapse 0 ∧ u.portState p.val
    = 2 ∧ u.inOrder p.val q.toNat = true ∧ u.upstream = some p.val ∧ (u.port p.val).ts = some (t1, t2, t3) ∧ bitsOf b.toNat 0 8 = (u.port p.val).exch
    :=
  ⟨{ setAll [(F.LNK_PORT_STAT.STATE, 0, 2), (F.LNK_TIME_STAT.UP_VALID, 0, 1)] with ports := [(0, { ts := some (0, 0, 0) })] }, _, 0, 0, 0, 0, 0, 0, rfl,
    by decide +kernel⟩

theorem witness_PortComplete_20 : ∃ (s u : State) (p : Port) (q : Byte) (b : BitVec 40), u = s.elapse 0 ∧ u.portState p.val = 2 ∧ u.inOrder p.val
    q.toNat = true ∧ bitsOf b.toNat 32 8 = 2 ∧ u.upstream = some p.val :=
  ⟨setAll [(F.LNK_PORT_STAT.STATE, 0, 2), (F.LNK_TIME_STAT.UP_VALID, 0, 1)], _, 0, 0, 0x200000000, rfl, by decide +kernel⟩

theorem witness_PortComplete_21 : ∃ (s u : State) (p : Port) (q : Byte) (b : BitVec 40), u = s.elapse 0 ∧ u.portState p.val = 2 ∧ u.inOrder p.val
    q.toNat = true ∧ bitsOf b.toNat 32 8 = 0 :=
  ⟨setAll [(F.LNK_PORT_STAT.STATE, 0, 2)], _, 0, 0, 0, rfl, by decide +kernel⟩

theorem witness_PortComplete_22 : ∃ (s u : State) (p : _) (d : _), u = s.elapse 0 ∧ u.upstream = some p ∧ (u.port p).lastSync = some d ∧ u.reached
    (wrap64 (d + us 2000)) = true :=
  ⟨{ setAll [(F.LNK_TIME_STAT.UP_VALID, 0, 1), (F.UMB_DT.DT, 0, 1000000000000)] with ports := [(0, { lastSync := some 0 })] }, _, 0, 0, rfl,
    by decide +kernel⟩

theorem witness_PortComplete_23 : ∃ (s u : State) (p : Port) (b : BitVec 40), u = s.elapse 0 ∧ Tab.get none (u.port p.val).bcast (bitsOf b.toNat 0 8)
    = none ∧ u.portState p.val = 2 ∧ u.bothLocked p.val = true ∧ u.dev ≠ 6 ∧ u.reached (wrap64 ((nearDT u.now 32 (bitsOf b.toNat 8 32)) + u.get
    F.LNK_PORT_BCLAT.L p.val)) = false :=
  ⟨{ setAll [(F.LNK_PORT_STAT.STATE, 0, 2), (F.DEV_STATE.STATE, 0, 0)] with ports := [(0, { hops := 30 })] }, _, 0, 0x100, rfl, by decide +kernel⟩

theorem witness_PortComplete_24 : ∃ (s u : State) (p : Port) (b : BitVec 40), u = s.elapse 0 ∧ Tab.get none (u.port p.val).bcast (bitsOf b.toNat 0 8)
    = none ∧ u.portState p.val ≠ 2 :=
  ⟨setAll [(F.LNK_PORT_STAT.STATE, 0, 0)], _, 0, 0, rfl, by decide +kernel⟩

/-! #### TokenComplete -/

theorem witness_TokenComplete_1 : ∃ (s u : State) (p : Port) (q : Byte) (home : Site), u = s.elapse 0 ∧ u.carries p.val = true ∧ u.inOrder p.val
    q.toNat = true ∧ u.proxy home.val = false ∧ (u.siteState home.val = 1 ∨ u.siteState home.val = 6) ∧ popCount (setBit (u.get F.MDR_SITE_SPAN.DEV
    home.val) (u.get F.LNK_PORT_STAT.PEER_DEV p.val)) ≤ 4 :=
  ⟨setAll [(F.LNK_PORT_STAT.STATE, 0, 2), (F.SMAP_SITE.PROXY, 0, 0), (F.MDR_SITE_STATE.STATE, 0, 1)], _, 0, 0, 0, rfl, by decide +kernel⟩

theorem witness_TokenComplete_2 : ∃ (s u : State) (p : Port) (q : Byte) (home : Site), u = s.elapse 0 ∧ u.carries p.val = true ∧ u.inOrder p.val
    q.toNat = true ∧ 4 < popCount (setBit (u.get F.MDR_SITE_SPAN.DEV home.val) (u.get F.LNK_PORT_STAT.PEER_DEV p.val)) :=
  ⟨setAll [(F.LNK_PORT_STAT.STATE, 0, 2), (F.MDR_SITE_SPAN.DEV, 0, 15), (F.LNK_PORT_STAT.PEER_DEV, 0, 4)], _, 0, 0, 0, rfl, by decide +kernel⟩

theorem witness_TokenComplete_3 : ∃ (s u : State) (p : Port) (q : Byte) (home : Site) (arg : BitVec 26) (x : _), u = s.elapse 0 ∧ u.carries p.val =
    true ∧ u.inOrder p.val q.toNat = true ∧ u.proxyOf p.val home.val = some x ∧ bitAt arg.toNat 0 = false :=
  ⟨setAll [(F.LNK_PORT_STAT.STATE, 0, 2), (F.SMAP_SITE.PROXY, 0, 1), (F.MDR_SITE_STATE.STATE, 0, 1)], _, 0, 0, 0, 0, 0, rfl, by decide +kernel⟩

theorem witness_TokenComplete_4 : ∃ (s u : State) (p : Port) (q : Byte) (home : Site) (arg : BitVec 26) (x : _), u = s.elapse 0 ∧ u.carries p.val =
    true ∧ u.inOrder p.val q.toNat = true ∧ u.proxyOf p.val home.val = some x ∧ bitAt arg.toNat 0 = true :=
  ⟨setAll [(F.LNK_PORT_STAT.STATE, 0, 2), (F.SMAP_SITE.PROXY, 0, 1), (F.MDR_SITE_STATE.STATE, 0, 1)], _, 0, 0, 0, 1, 0, rfl, by decide +kernel⟩

theorem witness_TokenComplete_5 : ∃ (s u : State) (p : Port) (q : Byte) (home : Site) (x0 : BitVec 40) (x : _), u = s.elapse 0 ∧ u.carries p.val =
    true ∧ u.inOrder p.val q.toNat = true ∧ u.proxyOf p.val home.val = some x ∧ u.reached (u.dt40 x0) = false :=
  ⟨setAll [(F.LNK_PORT_STAT.STATE, 0, 2), (F.SMAP_SITE.PROXY, 0, 1), (F.MDR_SITE_STATE.STATE, 0, 1)], _, 0, 0, 0, 1, 0, rfl, by decide +kernel⟩

theorem witness_TokenComplete_6 : ∃ (s u : State) (p : Port) (q : Byte) (home : Site) (x0 : BitVec 40) (x : _), u = s.elapse 0 ∧ u.carries p.val =
    true ∧ u.inOrder p.val q.toNat = true ∧ u.proxyOf p.val home.val = some x ∧ u.reached (u.dt40 x0) = false :=
  ⟨setAll [(F.LNK_PORT_STAT.STATE, 0, 2), (F.SMAP_SITE.PROXY, 0, 1), (F.MDR_SITE_STATE.STATE, 0, 1)], _, 0, 0, 0, 1, 0, rfl, by decide +kernel⟩

theorem witness_TokenComplete_7 : ∃ (s u : State) (p : Port) (q : Byte) (home : Site) (x0 : BitVec 40) (x : _), u = s.elapse 0 ∧ u.carries p.val =
    true ∧ u.inOrder p.val q.toNat = true ∧ u.proxyOf p.val home.val = some x ∧ u.reached (u.dt40 x0) = true :=
  ⟨setAll [(F.LNK_PORT_STAT.STATE, 0, 2), (F.SMAP_SITE.PROXY, 0, 1), (F.MDR_SITE_STATE.STATE, 0, 1)], _, 0, 0, 0, 0, 0, rfl, by decide +kernel⟩

theorem witness_TokenComplete_8 : ∃ (s u : State) (p : Port) (q : Byte) (home : Site) (x0 : BitVec 40) (x : _), u = s.elapse 0 ∧ u.carries p.val =
    true ∧ u.inOrder p.val q.toNat = true ∧ u.proxyOf p.val home.val = some x ∧ u.reached (u.dt40 x0) = false :=
  ⟨setAll [(F.LNK_PORT_STAT.STATE, 0, 2), (F.SMAP_SITE.PROXY, 0, 1), (F.MDR_SITE_STATE.STATE, 0, 1)], _, 0, 0, 0, 1, 0, rfl, by decide +kernel⟩

theorem witness_TokenComplete_9 : ∃ (s u : State) (p : Port) (q : Byte) (home : Site) (x0 : BitVec 40) (x : _), u = s.elapse 0 ∧ u.carries p.val =
    true ∧ u.inOrder p.val q.toNat = true ∧ u.proxyOf p.val home.val = some x ∧ u.reached (u.dt40 x0) = false :=
  ⟨setAll [(F.LNK_PORT_STAT.STATE, 0, 2), (F.SMAP_SITE.PROXY, 0, 1), (F.MDR_SITE_STATE.STATE, 0, 1)], _, 0, 0, 0, 1, 0, rfl, by decide +kernel⟩

theorem witness_TokenComplete_10 : ∃ (s u : State) (p : Port) (q : Byte) (home : Site) (x0 : BitVec 40) (x : _), u = s.elapse 0 ∧ u.carries p.val =
    true ∧ u.inOrder p.val q.toNat = true ∧ u.proxyOf p.val home.val = some x ∧ u.reached (u.dt40 x0) = false :=
  ⟨setAll [(F.LNK_PORT_STAT.STATE, 0, 2), (F.SMAP_SITE.PROXY, 0, 1), (F.MDR_SITE_STATE.STATE, 0, 1)], _, 0, 0, 0, 1, 0, rfl, by decide +kernel⟩

theorem witness_TokenComplete_11 : ∃ (s u : State) (p : Port) (q : Byte) (home : Site) (x0 : BitVec 40) (x : _), u = s.elapse 0 ∧ u.carries p.val =
    true ∧ u.inOrder p.val q.toNat = true ∧ u.proxyOf p.val home.val = some x ∧ u.reached (u.dt40 x0) = false :=
  ⟨setAll [(F.LNK_PORT_STAT.STATE, 0, 2), (F.SMAP_SITE.PROXY, 0, 1), (F.MDR_SITE_STATE.STATE, 0, 1)], _, 0, 0, 0, 1, 0, rfl, by decide +kernel⟩

theorem witness_TokenComplete_12 : ∃ (s u : State) (p : Port) (q : Byte) (home : Site) (x0 : BitVec 40) (x : _), u = s.elapse 0 ∧ u.carries p.val =
    true ∧ u.inOrder p.val q.toNat = true ∧ u.proxyOf p.val home.val = some x ∧ u.reached (u.dt40 x0) = false ∧ (u.site x).hold = none :=
  ⟨setAll [(F.LNK_PORT_STAT.STATE, 0, 2), (F.SMAP_SITE.PROXY, 0, 1), (F.MDR_SITE_STATE.STATE, 0, 1)], _, 0, 0, 0, 1, 0, rfl, by decide +kernel⟩

theorem witness_TokenComplete_13 : ∃ (s u : State) (p : Port) (q : Byte) (home : Site) (x0 : BitVec 40), u = s.elapse 0 ∧ u.carries p.val = true ∧
    u.inOrder p.val q.toNat = true ∧ u.proxyOf p.val home.val = none ∧ u.siteState home.val ≠ 0 ∧ u.proxy home.val = false ∧ x0.toNat = 0 :=
  ⟨setAll [(F.LNK_PORT_STAT.STATE, 0, 2), (F.SMAP_SITE.PROXY, 0, 0), (F.MDR_SITE_STATE.STATE, 0, 1)], _, 0, 0, 0, 0, rfl, by decide +kernel⟩

theorem witness_TokenComplete_14 : ∃ (s u : State) (p : Port) (q : Byte) (home : Site) (arg : BitVec 26) (x0 : BitVec 40) (x : _), u = s.elapse 0 ∧
    u.carries p.val = true ∧ u.inOrder p.val q.toNat = true ∧ u.proxyOf p.val home.val = some x ∧ u.reached (u.dt40 x0) = false ∧ bitAt arg.toNat 12 =
    false :=
  ⟨setAll [(F.LNK_PORT_STAT.STATE, 0, 2), (F.SMAP_SITE.PROXY, 0, 1), (F.MDR_SITE_STATE.STATE, 0, 1)], _, 0, 0, 0, 0, 1, 0, rfl, by decide +kernel⟩

theorem witness_TokenComplete_15 : ∃ (s u : State) (p : Port) (q : Byte) (home : Site) (arg : BitVec 26) (x0 : BitVec 40) (x : _), u = s.elapse 0 ∧
    u.carries p.val = true ∧ u.inOrder p.val q.toNat = true ∧ u.proxyOf p.val home.val = some x ∧ u.reached (u.dt40 x0) = false ∧ bitAt arg.toNat 12 =
    true :=
  ⟨setAll [(F.LNK_PORT_STAT.STATE, 0, 2), (F.SMAP_SITE.PROXY, 0, 1), (F.MDR_SITE_STATE.STATE, 0, 1)], _, 0, 0, 0, 0x1000, 1, 0, rfl, by decide +kernel⟩

theorem witness_TokenComplete_16 : ∃ (s u : State) (p : Port) (q : Byte) (home : Site) (x0 : BitVec 40) (x : _), u = s.elapse 0 ∧ u.carries p.val =
    true ∧ u.inOrder p.val q.toNat = true ∧ u.proxyOf p.val home.val = some x ∧ u.reached (u.dt40 x0) = false :=
  ⟨setAll [(F.LNK_PORT_STAT.STATE, 0, 2), (F.SMAP_SITE.PROXY, 0, 1), (F.MDR_SITE_STATE.STATE, 0, 1)], _, 0, 0, 0, 1, 0, rfl, by decide +kernel⟩

theorem witness_TokenComplete_17 : ∃ (s u : State) (p : Port) (home : Site) (arg : BitVec 26) (x0 : BitVec 40) (x : _), u = s.elapse 0 ∧ u.proxyOf
    p.val home.val = some x ∧ u.reached (u.dt40 x0) = true ∧ (bitsOf arg.toNat 0 4, u.dt40 x0) ∈ (u.site x).states :=
  ⟨{ setAll [(F.SMAP_SITE.PROXY, 0, 1), (F.MDR_SITE_STATE.STATE, 0, 1)] with sites := [(0, { states := [(0, 0)] })] }, _, 0, 0, 0, 0, 0, rfl,
    by decide +kernel⟩

theorem witness_TokenComplete_18 : ∃ (s u : State) (p : Port) (q : Byte) (home : Site) (arg : BitVec 26) (x0 : BitVec 40) (x : _), u = s.elapse 0 ∧
    u.carries p.val = true ∧ u.inOrder p.val q.toNat = true ∧ u.proxyOf p.val home.val = some x ∧ u.reached (u.dt40 x0) = false ∧ bitAt arg.toNat 0 =
    true ∧ bitAt arg.toNat 1 = false ∧ u.flag F.MDR_SITE_STATE.TRIMOK x = false :=
  ⟨setAll [(F.LNK_PORT_STAT.STATE, 0, 2), (F.MDR_SITE_STATE.TRIMOK, 0, 0), (F.SMAP_SITE.PROXY, 0, 1), (F.MDR_SITE_STATE.STATE, 0, 1)], _, 0, 0, 0, 1, 1,
    0, rfl, by decide +kernel⟩

theorem witness_TokenComplete_19 : ∃ (s u : State) (p : Port) (q : Byte) (home : Site) (arg : BitVec 26), u = s.elapse 0 ∧ u.carries p.val = true ∧
    u.inOrder p.val q.toNat = true ∧ u.siteState home.val ≠ 0 ∧ u.proxy home.val = false ∧ bitAt arg.toNat 1 = false :=
  ⟨setAll [(F.LNK_PORT_STAT.STATE, 0, 2), (F.MDR_SITE_STATE.STATE, 0, 1), (F.SMAP_SITE.PROXY, 0, 0)], _, 0, 0, 0, 0, rfl, by decide +kernel⟩

theorem witness_TokenComplete_20 : ∃ (s u : State) (p : Port) (q : Byte) (home : Site) (x0 : BitVec 40), u = s.elapse 0 ∧ u.carries p.val = true ∧
    u.inOrder p.val q.toNat = true ∧ u.siteState home.val ≠ 0 ∧ u.proxy home.val = false ∧ (u.get F.SEP_CAP_POLICY.STOP home.val ≠ 1 ∨ bitsOf x0.toNat
    0 32 = 0) :=
  ⟨setAll [(F.LNK_PORT_STAT.STATE, 0, 2), (F.MDR_SITE_STATE.STATE, 0, 1), (F.SMAP_SITE.PROXY, 0, 0), (F.SEP_CAP_POLICY.STOP, 0, 0)], _, 0, 0, 0, 0, rfl,
    by decide +kernel⟩

theorem witness_TokenComplete_21 : ∃ (s u : State) (p : Port) (q : Byte) (home : Site) (x0 : BitVec 40), u = s.elapse 0 ∧ u.carries p.val = true ∧
    u.inOrder p.val q.toNat = true ∧ u.siteState home.val ≠ 0 ∧ u.proxy home.val = false ∧ u.get F.SEP_CAP_POLICY.STOP home.val = 1 ∧ bitsOf x0.toNat
    0 32 ≠ 0 :=
  ⟨setAll [(F.LNK_PORT_STAT.STATE, 0, 2), (F.MDR_SITE_STATE.STATE, 0, 1), (F.SMAP_SITE.PROXY, 0, 0), (F.SEP_CAP_POLICY.STOP, 0, 1)], _, 0, 0, 0, 1, rfl,
    by decide +kernel⟩

theorem witness_TokenComplete_22 : ∃ (s u : State) (p : Port) (q : Byte) (home : Site), u = s.elapse 0 ∧ u.carries p.val = true ∧ u.inOrder p.val
    q.toNat = true ∧ u.siteState home.val ≠ 0 ∧ u.proxy home.val = false :=
  ⟨setAll [(F.LNK_PORT_STAT.STATE, 0, 2), (F.MDR_SITE_STATE.STATE, 0, 1), (F.SMAP_SITE.PROXY, 0, 0)], _, 0, 0, 0, rfl, by decide +kernel⟩

theorem witness_TokenComplete_23 : ∃ (s u : State) (p : Port) (q : Byte) (home : Site) (typ : Byte) (b : List Byte), u = s.elapse 0 ∧ u.carries p.val
    = true ∧ u.inOrder p.val q.toNat = true ∧ u.siteState home.val ≠ 0 ∧ u.proxy home.val = false ∧ typ.toNat = 1 ∧ b.length = 32 ∧ leAt b 14 1 =
    home.val % 256 :=
  ⟨setAll [(F.LNK_PORT_STAT.STATE, 0, 2), (F.MDR_SITE_STATE.STATE, 0, 1), (F.SMAP_SITE.PROXY, 0, 0)], _, 0, 0, 0, 1, List.replicate 32 0, rfl,
    by decide +kernel⟩

theorem witness_TokenComplete_24 : ∃ (s u : State) (p : Port) (q : Byte) (home : Site) (typ : Byte) (b : List Byte), u = s.elapse 0 ∧ u.carries p.val
    = true ∧ u.inOrder p.val q.toNat = true ∧ u.siteState home.val ≠ 0 ∧ u.proxy home.val = false ∧ typ.toNat = 1 ∧ b.length = 32 ∧ leAt b 14 1 ≠
    home.val % 256 :=
  ⟨setAll [(F.LNK_PORT_STAT.STATE, 0, 2), (F.MDR_SITE_STATE.STATE, 0, 1), (F.SMAP_SITE.PROXY, 0, 0)], _, 0, 0, 0, 1, List.replicate 14 0 ++ [1] ++
    List.replicate 17 0, rfl, by decide +kernel⟩

theorem witness_TokenComplete_25 : ∃ (s u : State) (p : Port) (q : Byte) (home : Site) (typ : Byte) (b : List Byte), u = s.elapse 0 ∧ u.carries p.val
    = true ∧ u.inOrder p.val q.toNat = true ∧ u.siteState home.val ≠ 0 ∧ u.proxy home.val = false ∧ typ.toNat = 2 ∧ b.length % 32 = 0 ∧ b ≠ [] ∧ leAt
    b 14 1 = home.val % 256 :=
  ⟨setAll [(F.LNK_PORT_STAT.STATE, 0, 2), (F.MDR_SITE_STATE.STATE, 0, 1), (F.SMAP_SITE.PROXY, 0, 0)], _, 0, 0, 0, 2, List.replicate 32 0, rfl,
    by decide +kernel⟩

theorem witness_TokenComplete_26 : ∃ (s u : State) (p : Port) (q : Byte) (home : Site) (typ : Byte) (b : List Byte), u = s.elapse 0 ∧ u.carries p.val
    = true ∧ u.inOrder p.val q.toNat = true ∧ u.siteState home.val ≠ 0 ∧ u.proxy home.val = false ∧ typ.toNat = 2 ∧ b.length % 32 = 0 ∧ b ≠ [] ∧ leAt
    b 14 1 ≠ home.val % 256 :=
  ⟨setAll [(F.LNK_PORT_STAT.STATE, 0, 2), (F.MDR_SITE_STATE.STATE, 0, 1), (F.SMAP_SITE.PROXY, 0, 0)], _, 0, 0, 0, 2, List.replicate 14 0 ++ [1] ++
    List.replicate 17 0, rfl, by decide +kernel⟩

/-! #### BusComplete -/

theorem witness_BusComplete_1 : ∃ (s u : State) (n : Engine) (v : Word64), u = s.elapse 0 ∧ u.busOn n.val = true ∧ u.descAddrOk (bitsOf v.toNat 0 40)
    (bitAt v.toNat 40) = true ∧ u.txFull n.val = false :=
  ⟨setAll [(F.BUS_CFG.PROTOCOL, 0, 1), (F.BUS_CTRL.RUN, 0, 1), (F.DMC_REGION.TYPE, 0, 1), (F.DMC_REGION.SIZE_MIB, 0, 1)], _, 0, 0, rfl,
    by decide +kernel⟩

theorem witness_BusComplete_2 : ∃ (s u : State) (n : Engine) (v : Word64), u = s.elapse 0 ∧ u.busOn n.val = true ∧ u.descAddrOk (bitsOf v.toNat 0 40)
    (bitAt v.toNat 40) = true ∧ u.txFull n.val = true :=
  ⟨{ setAll [(F.BUS_CFG.PROTOCOL, 0, 1), (F.BUS_CTRL.RUN, 0, 1), (F.DMC_REGION.TYPE, 0, 1), (F.DMC_REGION.SIZE_MIB, 0, 1)] with buses := [(0, { queue := List.replicate 64 ⟨0, false, [], 0, none, none, none, false, 0, 0, 0⟩ })] },
    _, 0, 0, rfl, by decide +kernel⟩

theorem witness_BusComplete_3 : ∃ (s u : State) (n : Engine) (v : Word64), u = s.elapse 0 ∧ (u.busOn n.val = false ∨ u.descAddrOk (bitsOf v.toNat 0
    40) (bitAt v.toNat 40) = false) :=
  ⟨setAll [], _, 0, 0, rfl, by decide +kernel⟩

theorem witness_BusComplete_4 : ∃ (s u : State) (n : Engine) (k : Fin 2) (d : _) (c : Ecc), u = s.elapse 0 ∧ (u.bus n.val).queue[k.val]? = some d ∧
    d.payload = none ∧ u.eccAt (bitAt (d.fld 8 8) 40) (bitsOf (d.fld 8 8) 0 40) (u.payloadLen n.val d) c = .clean ∧ u.readable (bitAt (d.fld 8 8) 40)
    (bitsOf (d.fld 8 8) 0 40) (u.payloadLen n.val d) = true :=
  ⟨{ setAll [(F.DMC_REGION.TYPE, 0, 1), (F.DMC_REGION.SIZE_MIB, 0, 1)] with buses := [(0, { queue := [⟨0, false, [], 0, none, none, none, false, 0, 0, 0⟩] })] },
    _, 0, 0, ⟨0, false, [], 0, none, none, none, false, 0, 0, 0⟩, .clean, rfl, by decide +kernel⟩

theorem witness_BusComplete_5 : ∃ (s u : State) (n : Engine) (k : Fin 2) (d : _) (c : Ecc), u = s.elapse 0 ∧ (u.bus n.val).queue[k.val]? = some d ∧
    d.payload = none ∧ u.eccAt (bitAt (d.fld 8 8) 40) (bitsOf (d.fld 8 8) 0 40) (u.payloadLen n.val d) c = .uncorrectable :=
  ⟨{ setAll [(F.LAK_OWNER.OWNER, 0, 63)] with buses := [(0, { queue := [{ addr := 0, lake := false, raw := List.replicate 0xD 0 ++ [1] ++ List.replicate 50 0, posted := 0 }] })] },
    _, 0, 0, { addr := 0, lake := false, raw := List.replicate 0xD 0 ++ [1] ++ List.replicate 50 0, posted := 0 }, .uncorrectable, rfl,
    by decide +kernel⟩

theorem witness_BusComplete_6 : ∃ (s u : State) (n : Engine) (d : _) (r : _), u = s.elapse 0 ∧ (u.bus n.val).queue = d :: r ∧ u.mayStart n.val d =
    true ∧ u.proto n.val = 1 :=
  ⟨{ setAll [(F.BUS_CFG.PROTOCOL, 0, 1), (F.BUS_CTRL.RUN, 0, 1)] with buses := [(0, { queue := [{ addr := 0, lake := false, raw := [], posted := 0, payload := some [] }] })] },
    _, 0, { addr := 0, lake := false, raw := [], posted := 0, payload := some [] }, [], rfl, by decide +kernel⟩

theorem witness_BusComplete_7 : ∃ (s u : State) (n : Engine) (d : _) (r : _), u = s.elapse 0 ∧ (u.bus n.val).queue = d :: r ∧ u.mayStart n.val d =
    true ∧ u.proto n.val = 5 ∧ d.kind ≠ 0 :=
  ⟨{ setAll [(F.BUS_CFG.PROTOCOL, 0, 5), (F.BUS_CTRL.RUN, 0, 1)] with buses := [(0, { queue := [{ addr := 0, lake := false, raw := List.replicate 0x16 0 ++ [1] ++ List.replicate 50 0, posted := 0, payload := some [] }] })] },
    _, 0, { addr := 0, lake := false, raw := List.replicate 0x16 0 ++ [1] ++ List.replicate 50 0, posted := 0, payload := some [] }, [], rfl,
    by decide +kernel⟩

theorem witness_BusComplete_8 : ∃ (s u : State) (n : Engine) (d : _) (r : _), u = s.elapse 0 ∧ (u.bus n.val).queue = d :: r ∧ u.proto n.val = 1 ∧
    d.started.isSome = true :=
  ⟨{ setAll [(F.BUS_CFG.PROTOCOL, 0, 1)] with buses := [(0, { queue := [{ addr := 0, lake := false, raw := [], posted := 0, started := some 0 }] })] },
    _, 0, { addr := 0, lake := false, raw := [], posted := 0, started := some 0 }, [], rfl, by decide +kernel⟩

theorem witness_BusComplete_9 : ∃ (s u : State) (n : Engine) (d : _) (r : _), u = s.elapse 0 ∧ (u.bus n.val).queue = d :: r ∧ d.started = none ∧ u.due
    d.expiry = true :=
  ⟨{ setAll [(F.UMB_DT.DT, 0, 1000000000000)] with buses := [(0, { queue := [{ addr := 0, lake := false, raw := List.replicate 0x1A 0 ++ [1], posted := 0 }] })] },
    _, 0, { addr := 0, lake := false, raw := List.replicate 0x1A 0 ++ [1], posted := 0 }, [], rfl, by decide +kernel⟩

theorem witness_BusComplete_10 : ∃ (s u : State) (n : Engine) (d : _) (st : _) (a : _) (b : _) (r : _), u = s.elapse 0 ∧ (u.bus n.val).finished = (d,
    st, a, b) :: r ∧ bitAt d.flags 2 = false ∧ u.readable d.lake d.addr 32 = true :=
  ⟨{ setAll [(F.DMC_REGION.TYPE, 0, 1), (F.DMC_REGION.SIZE_MIB, 0, 1)] with buses := [(0, { finished := [(⟨0, false, [], 0, none, none, none, false, 0, 0, 0⟩, 1, 0, 0)] })] },
    _, 0, ⟨0, false, [], 0, none, none, none, false, 0, 0, 0⟩, 1, 0, 0, [], rfl, by decide +kernel⟩

theorem witness_BusComplete_11 : ∃ (s u : State) (n : Engine) (b : _) (d : _) (r : _), u = s.elapse 0 ∧ (u.bus n.val).finished = [] ∧ (u.bus
    n.val).queue = d :: r ∧ d.started.isSome = true ∧ u.reached b = true :=
  ⟨{ setAll [] with buses := [(0, { queue := [{ addr := 0, lake := false, raw := [], posted := 0, started := some 0 }] })] }, _, 0, 0,
    { addr := 0, lake := false, raw := [], posted := 0, started := some 0 }, [], rfl, by decide +kernel⟩

theorem witness_BusComplete_12 : ∃ (s u : State) (n : Engine) (d : _) (r : _), u = s.elapse 0 ∧ u.consumes = true ∧ u.flag F.BUS_GATE.EN n.val = true
    ∧ (u.bus n.val).queue = d :: r ∧ bitAt d.flags 1 = true ∧ d.gate = none :=
  ⟨{ setAll [(F.BUS_GATE.EN, 0, 1)] with buses := [(0, { queue := [{ addr := 0, lake := false, raw := List.replicate 0x17 0 ++ [2], posted := 0 }] })] },
    _, 0, { addr := 0, lake := false, raw := List.replicate 0x17 0 ++ [2], posted := 0 }, [], rfl, by decide +kernel⟩

theorem witness_BusComplete_13 : ∃ (s u : State) (n : Engine), u = s.elapse 0 ∧ u.consumes = true ∧ u.flag F.BUS_GATE.EN n.val = true ∧ (u.bus
    n.val).queue = [] :=
  ⟨setAll [(F.BUS_GATE.EN, 0, 1)], _, 0, rfl, by decide +kernel⟩

theorem witness_BusComplete_14 : ∃ (s u : State) (n : Engine), u = s.elapse 0 ∧ u.proto n.val ≠ 0 ∧ u.get F.BUS_STAT.STATE n.val < 2 :=
  ⟨setAll [(F.BUS_CFG.PROTOCOL, 0, 1)], _, 0, rfl, by decide +kernel⟩

theorem witness_BusComplete_16 : ∃ (s u : State) (n : Engine), u = s.elapse 0 ∧ u.proto n.val = 1 ∧ u.get F.BUS_STAT.ERRSTATE n.val = 2 :=
  ⟨setAll [(F.BUS_CFG.PROTOCOL, 0, 1), (F.BUS_STAT.ERRSTATE, 0, 2)], _, 0, rfl, by decide +kernel⟩

theorem witness_BusComplete_17 : ∃ (s u : State) (n : Engine), u = s.elapse 0 ∧ u.proto n.val = 1 ∧ u.get F.BUS_STAT.ERRSTATE n.val = 3 :=
  ⟨setAll [(F.BUS_CFG.PROTOCOL, 0, 1), (F.BUS_STAT.ERRSTATE, 0, 3)], _, 0, rfl, by decide +kernel⟩

theorem witness_BusComplete_19 : ∃ (s u : State) (n : Engine), u = s.elapse 0 ∧ (u.bus n.val).phyHeld = true ∧ u.reached (wrap64 ((u.bus
    n.val).commitDT + us 10)) = true :=
  ⟨{ setAll [(F.UMB_DT.DT, 0, 1000000000000)] with buses := [(0, { phyHeld := true })] }, _, 0, rfl, by decide +kernel⟩

theorem witness_BusComplete_20 : ∃ (s u : State) (n : Engine) (f : _) (k : _), u = s.elapse 0 ∧ u.busReceives n.val = true ∧ u.reached f.eof = true ∧
    u.proto n.val = 2 ∧ u.get F.BUS_STAT.STATE n.val = 1 ∧ bitAt f.info 1 = true ∧ (u.busEvent n.val 3).busSort n.val f = (0, k) :=
  ⟨setAll [(F.BUS_STAT.STATE, 0, 1), (F.BUS_CFG.PROTOCOL, 0, 1), (F.BUS_CTRL.RUN, 0, 1), (F.BUS_CFG.PROTOCOL, 0, 2), (F.BUS_FILT_VAL.EN, 31, 1)], _, 0,
    ⟨0, 0, 2, [], 0, 0, false⟩, 31, rfl, by decide +kernel⟩

theorem witness_BusComplete_21 : ∃ (s u : State) (n : Engine) (f : _) (k : _), u = s.elapse 0 ∧ u.busReceives n.val = true ∧ u.reached f.eof = true ∧
    u.proto n.val = 2 ∧ u.get F.BUS_STAT.STATE n.val = 1 ∧ bitAt f.info 1 = true ∧ (u.busEvent n.val 3).busSort n.val f = (2, k) :=
  ⟨setAll [(F.BUS_STAT.STATE, 0, 1), (F.BUS_CFG.PROTOCOL, 0, 1), (F.BUS_CTRL.RUN, 0, 1), (F.BUS_CFG.PROTOCOL, 0, 2)], _, 0, ⟨0, 0, 2, [], 0, 0, false⟩,
    255, rfl, by decide +kernel⟩

theorem witness_BusComplete_22 : ∃ (s u : State) (n : Engine), u = s.elapse 0 ∧ u.busReceives n.val = true ∧ u.proto n.val = 3 ∧ (u.bus n.val).queue =
    [] :=
  ⟨setAll [(F.BUS_CFG.PROTOCOL, 0, 3), (F.BUS_CTRL.RUN, 0, 1)], _, 0, rfl, by decide +kernel⟩

theorem witness_BusComplete_23 : ∃ (s u : State) (n : Engine) (id : Fin 64), u = s.elapse 0 ∧ u.proto n.val = 3 ∧ u.busOn n.val = true ∧ u.get
    F.BUS_LIN_RESP.ACTION (64 * n.val + id.val) ≠ 2 :=
  ⟨setAll [(F.BUS_LIN_RESP.ACTION, 63, 0), (F.BUS_CFG.PROTOCOL, 0, 3), (F.BUS_CTRL.RUN, 0, 1)], _, 0, 63, rfl, by decide +kernel⟩

theorem witness_BusComplete_24 : ∃ (s u : State) (n : Engine) (id : Fin 64), u = s.elapse 0 ∧ u.proto n.val = 3 ∧ u.busOn n.val = true ∧ u.get
    F.BUS_LIN_RESP.ACTION (64 * n.val + id.val) = 2 ∧ u.isSafe = false :=
  ⟨setAll [(F.CIN_STAT.SAFE, 0, 0), (F.BUS_CFG.PROTOCOL, 0, 3), (F.BUS_CTRL.RUN, 0, 1), (F.BUS_LIN_RESP.LEN, 63, 8), (F.BUS_LIN_RESP.ACTION, 63, 2)], _,
    0, 63, rfl, by decide +kernel⟩

theorem witness_BusComplete_25 : ∃ (s u : State) (n : Engine) (f : _), u = s.elapse 0 ∧ u.proto n.val = 3 ∧ u.busReceives n.val = true ∧ us 150 ≤
    u.since f ∧ u.since f ≤ us 5000 :=
  ⟨setAll [(F.BUS_CFG.PROTOCOL, 0, 3), (F.BUS_CTRL.RUN, 0, 1), (F.UMB_DT.DT, 0, 1200000000)], _, 0, 0, rfl, by decide +kernel⟩

theorem witness_BusComplete_26 : ∃ (s u : State) (n : Engine) (v : Word32), u = s.elapse 0 ∧ bitAt v.toNat 31 = true ∧ u.get F.BUS_MDIO_RES.RESULT
    n.val ≠ 1 ∧ u.proto n.val = 6 ∧ u.mdioQ = [] :=
  ⟨setAll [(F.BUS_MDIO_RES.RESULT, 0, 0), (F.BUS_CFG.PROTOCOL, 0, 6)], _, 0, 2147483648, rfl, by decide +kernel⟩

theorem witness_BusComplete_27 : ∃ (s u : State) (n : Engine) (v : Word32), u = s.elapse 0 ∧ bitAt v.toNat 31 = true ∧ u.get F.BUS_MDIO_RES.RESULT
    n.val ≠ 1 ∧ u.proto n.val ≠ 6 :=
  ⟨setAll [(F.BUS_MDIO_RES.RESULT, 0, 0), (F.BUS_CFG.PROTOCOL, 0, 0)], _, 0, 2147483648, rfl, by decide +kernel⟩

theorem witness_BusComplete_28 : ∃ (s u : State) (n : _) (v : _) (r : _), u = s.elapse 0 ∧ u.mdioQ = (n, v) :: r ∧ u.reached (wrap64 (u.mdioAt +
    204800000)) = true ∧ bitAt v 30 = false :=
  ⟨{ setAll [(F.UMB_DT.DT, 0, 1000000000000)] with mdioQ := [(63, 0)] }, _, 63, 0, [], rfl, by decide +kernel⟩

/-! #### SaffronComplete -/

theorem witness_SaffronComplete_1 : ∃ (s u : State) (i : _) (c : _), u = s.elapse 0 ∧ u.safBest = some i ∧ u.safCore (u.flowLevel (flowOf i.w)) none =
    some c :=
  ⟨{ setAll [(F.SAF_CFG.PULL, 0, 0)] with saf := { items := [⟨⟨0, 0, 0, 0, 0, 0, 0⟩, 1, some (0, 0), 0⟩] } }, _, ⟨⟨0, 0, 0, 0, 0, 0, 0⟩, 1, some (0, 0),
    0⟩, 0, rfl, by decide +kernel⟩

theorem witness_SaffronComplete_2 : ∃ (s u : State) (i : _) (y : Option Core), u = s.elapse 0 ∧ (u.yielded (y.map (fun c : Core => c.val))).safBest =
    some i :=
  ⟨{ setAll [] with saf := { items := [⟨⟨0, 0, 0, 0, 0, 0, 0⟩, 1, some (0, 0), 0⟩] } }, _, ⟨⟨0, 0, 0, 0, 0, 0, 0⟩, 1, some (0, 0), 0⟩, none, rfl,
    by decide +kernel⟩

theorem witness_SaffronComplete_3 : ∃ (s u : State) (i : _) (c : Core) (d : _), u = s.elapse 0 ∧ (u.setSaf
    { u.saf with given := Tab.set 0 u.saf.given c.val u.now }).safBest = some i ∧ (u.setSaf
    { u.saf with given := Tab.set 0 u.saf.given c.val u.now }).safCore ((u.setSaf { u.saf with given := Tab.set 0 u.saf.given c.val u.now }).flowLevel
    (flowOf i.w)) (some c.val) = some d :=
  ⟨{ setAll [(F.SAF_CFG.PULL, 0, 0)] with saf := { items := [⟨⟨0, 0, 0, 0, 0, 0, 0⟩, 1, some (0, 0), 0⟩] } }, _, ⟨⟨0, 0, 0, 0, 0, 0, 0⟩, 1, some (0, 0),
    0⟩, 0, 0, rfl, by decide +kernel⟩

theorem witness_SaffronComplete_4 : ∃ (s u : State) (c : Core) (i : _), u = s.elapse 0 ∧ u.running? c.val = some i ∧ u.uds.any (fun p => p.2.runs
    i.id) = false ∧ i.w.src ≠ 4 :=
  ⟨{ setAll [] with saf := { serv := [(15, ⟨⟨0, 0, 0, 0, 0, 0, 0⟩, 1, some (0, 0), 0⟩)] } }, _, 15, ⟨⟨0, 0, 0, 0, 0, 0, 0⟩, 1, some (0, 0), 0⟩, rfl,
    by decide +kernel⟩

theorem witness_SaffronComplete_5 : ∃ (s u : State) (c : Core) (i : _), u = s.elapse 0 ∧ u.running? c.val = some i ∧ u.uds.any (fun p => p.2.runs
    i.id) = false ∧ i.w.src = 4 :=
  ⟨{ setAll [] with saf := { serv := [(15, ⟨⟨0, 0, 0, 0, 0, 0, 4⟩, 1, some (0, 0), 0⟩)] } }, _, 15, ⟨⟨0, 0, 0, 0, 0, 0, 4⟩, 1, some (0, 0), 0⟩, rfl,
    by decide +kernel⟩

theorem witness_SaffronComplete_6 : ∃ (s u : State) (c : Core) (i : _), u = s.elapse 0 ∧ u.running? c.val = some i ∧ u.uds.any (fun p => p.2.runs
    i.id) = false :=
  ⟨{ setAll [] with saf := { serv := [(15, ⟨⟨0, 0, 0, 0, 0, 0, 0⟩, 1, some (0, 0), 0⟩)] } }, _, 15, ⟨⟨0, 0, 0, 0, 0, 0, 0⟩, 1, some (0, 0), 0⟩, rfl,
    by decide +kernel⟩

theorem witness_SaffronComplete_7 : ∃ (s u : State) (c : Core), u = s.elapse 0 ∧ (u.running? c.val).isSome = true ∧ u.reached (wrap64 (Tab.get 0
    u.saf.given c.val + us 100)) = true :=
  ⟨{ setAll [(F.UMB_DT.DT, 0, 1000000000000)] with saf := { serv := [(15, ⟨⟨0, 0, 0, 0, 0, 0, 0⟩, 1, some (0, 0), 0⟩)] } }, _, 15, rfl,
    by decide +kernel⟩

/-! #### WorkItemComplete -/

theorem witness_WorkItemComplete_1 : ∃ (s u : State) (w : _), u = s.elapse 0 ∧ u.safRefuses (flowOf w) = none :=
  ⟨setAll [], _, ⟨0, 0, 0, 0, 0, 0, 0⟩, rfl, by decide +kernel⟩

theorem witness_WorkItemComplete_2 : ∃ (s u : State) (w : _) (b : _), u = s.elapse 0 ∧ u.safRefuses (flowOf w) = some b :=
  ⟨{ setAll [] with saf := { items := List.replicate 64 ⟨⟨0, 0, 0, 0, 0, 0, 0⟩, 1, some (0, 0), 0⟩ } }, _, ⟨0, 0, 0, 0, 0, 0, 0⟩,
    F.SAF_FAULT_STAT.FLOW_FULL, rfl, by decide +kernel⟩

theorem witness_WorkItemComplete_4 : ∃ (s u : State) (w : _), u = s.elapse 0 ∧ u.safRefuses (flowOf w) = none :=
  ⟨setAll [], _, ⟨0, 0, 0, 0, 0, 0, 0⟩, rfl, by decide +kernel⟩

theorem witness_WorkItemComplete_5 : ∃ (s u : State) (c : Core), u = s.elapse 0 ∧ u.pulls c.val = true ∧ u.saf.waiting.contains c.val = false ∧
    u.saf.serv.any (fun p => p.1 == c.val) = false :=
  ⟨setAll [(F.SAF_CFG.PULL, 0, 32768)], _, 15, rfl, by decide +kernel⟩

theorem witness_WorkItemComplete_7 : ∃ (s u : State) (i : _), u = s.elapse 0 ∧ u.saf.delay = [i] ∧ dtReached u.safTick i.due = true ∧ u.safRefuses
    (flowOf i.w) = none :=
  ⟨{ setAll [] with saf := { delay := [⟨⟨0, 0, 0, 0, 0, 0, 0⟩, 1, some (0, 0), 0⟩] } }, _, ⟨⟨0, 0, 0, 0, 0, 0, 0⟩, 1, some (0, 0), 0⟩, rfl,
    by decide +kernel⟩

/-! #### PlanComplete -/

theorem witness_PlanComplete_1 : ∃ (s u : State) (x : Site), u = s.elapse 0 ∧ u.planCode x.val 1 = 1 ∧ u.get F.MRD_REFL_STAT.STATE x.val ≠ 2 :=
  ⟨setAll [(F.MRD_REFL_STAT.STATE, 0, 0), (F.DEV_STATE.STATE, 0, 4), (F.SVC_PLAN_STAT.STATE, 0, 1)], _, 0, rfl, by decide +kernel⟩

theorem witness_PlanComplete_2 : ∃ (s u : State) (x : Site), u = s.elapse 0 ∧ u.planCode x.val 1 = 1 ∧ u.get F.MRD_REFL_STAT.STATE x.val = 2 :=
  ⟨setAll [(F.MRD_REFL_STAT.STATE, 0, 2), (F.DEV_STATE.STATE, 0, 4), (F.SVC_PLAN_STAT.STATE, 0, 1)], _, 0, rfl, by decide +kernel⟩

theorem witness_PlanComplete_3 : ∃ (s u : State) (x : Site) (r : _), u = s.elapse 0 ∧ u.planCode x.val 1 = r ∧ r ≠ 1 :=
  ⟨setAll [(F.DEV_STATE.STATE, 0, 4), (F.SVC_PLAN_STAT.STATE, 0, 5)], _, 0, 3, rfl, by decide +kernel⟩

theorem witness_PlanComplete_4 : ∃ (s u : State) (x : Site), u = s.elapse 0 ∧ u.planCode x.val 2 = 1 ∧ (u.plan x.val).inDut = true :=
  ⟨{ setAll [(F.DEV_STATE.STATE, 0, 4), (F.SVC_PLAN_STAT.STATE, 0, 2)] with plans := [(0, { inDut := true })] }, _, 0, rfl, by decide +kernel⟩

theorem witness_PlanComplete_5 : ∃ (s u : State) (x : Site), u = s.elapse 0 ∧ u.planCode x.val 2 = 1 ∧ (u.plan x.val).inDut = false :=
  ⟨setAll [(F.DEV_STATE.STATE, 0, 4), (F.SVC_PLAN_STAT.STATE, 0, 2)], _, 0, rfl, by decide +kernel⟩

theorem witness_PlanComplete_6 : ∃ (s u : State) (x : Site), u = s.elapse 0 ∧ u.planCode x.val 3 = 1 ∧ (u.plan x.val).armed = true :=
  ⟨{ setAll [(F.DEV_STATE.STATE, 0, 4), (F.SVC_PLAN_STAT.STATE, 0, 2)] with plans := [(0, { armed := true })] }, _, 0, rfl, by decide +kernel⟩

theorem witness_PlanComplete_7 : ∃ (s u : State) (x : Site) (t : _), u = s.elapse 0 ∧ u.svcTable x.val 1 = some t ∧ bitAt (leAt t 4 2) 0 = true ∧
    u.running = true ∧ u.get F.SVC_PLAN_STAT.STATE x.val = 1 ∧ (u.plan x.val).dutPend = none ∧ u.planHeld x.val = false :=
  ⟨{ setAll [(F.DEV_STATE.STATE, 0, 4), (F.SVC_PLAN_STAT.STATE, 0, 1)] with img := { tables := [⟨1, 0, List.replicate 4 0 ++ [1] ++ List.replicate 91 0⟩] } },
    _, 0, List.replicate 4 0 ++ [1] ++ List.replicate 91 0, rfl, by decide +kernel⟩

theorem witness_PlanComplete_8 : ∃ (s u : State) (x : Site), u = s.elapse 0 ∧ (u.plan x.val).armed = true ∧ u.due (u.plan x.val).tmoAt = true :=
  ⟨{ setAll [] with plans := [(0, { armed := true, tmoAt := some 0 })] }, _, 0, rfl, by decide +kernel⟩

theorem witness_PlanComplete_9 : ∃ (s u : State) (x : Site) (t : _), u = s.elapse 0 ∧ u.svcTable x.val 1 = some t ∧ (u.plan x.val).inDut = true ∧
    (u.plan x.val).armed = false ∧ u.due (u.plan x.val).retryAt = true :=
  ⟨{ setAll [] with img := { tables := [⟨1, 0, List.replicate 4 0 ++ [0] ++ List.replicate 91 0⟩] }, plans := [(0, { inDut := true, retryAt := some 0 })] },
    _, 0, List.replicate 4 0 ++ [0] ++ List.replicate 91 0, rfl, by decide +kernel⟩

theorem witness_PlanComplete_10 : ∃ (s u : State) (x : Site) (t : _), u = s.elapse 0 ∧ u.svcTable x.val 1 = some t ∧ (u.plan x.val).armed = true ∧
    u.siteState x.val = 6 ∧ u.netPending x.val t = false :=
  ⟨{ setAll [(F.MDR_SITE_STATE.STATE, 0, 6)] with img := { tables := [⟨1, 0, List.replicate 4 0 ++ [0] ++ List.replicate 91 0⟩] }, plans := [(0, { armed := true })] },
    _, 0, List.replicate 4 0 ++ [0] ++ List.replicate 91 0, rfl, by decide +kernel⟩

theorem witness_PlanComplete_11 : ∃ (s u : State) (x : Site) (t : _), u = s.elapse 0 ∧ u.svcTable x.val 1 = some t ∧ (u.plan x.val).armed = true ∧
    u.siteState x.val = 7 :=
  ⟨{ setAll [(F.MDR_SITE_STATE.STATE, 0, 7)] with img := { tables := [⟨1, 0, List.replicate 4 0 ++ [0] ++ List.replicate 91 0⟩] }, plans := [(0, { armed := true })] },
    _, 0, List.replicate 4 0 ++ [0] ++ List.replicate 91 0, rfl, by decide +kernel⟩

theorem witness_PlanComplete_12 : ∃ (s u : State) (x : Site) (t : _), u = s.elapse 0 ∧ u.svcTable x.val 1 = some t ∧ (u.plan x.val).armed = true ∧
    (u.plan x.val).abortDut = false ∧ u.siteState x.val = 1 :=
  ⟨{ setAll [(F.MDR_SITE_STATE.STATE, 0, 1)] with img := { tables := [⟨1, 0, List.replicate 4 0 ++ [0] ++ List.replicate 91 0⟩] }, plans := [(0, { armed := true })] },
    _, 0, List.replicate 4 0 ++ [0] ++ List.replicate 91 0, rfl, by decide +kernel⟩

theorem witness_PlanComplete_13 : ∃ (s u : State) (x : Site) (t : _), u = s.elapse 0 ∧ u.svcTable x.val 1 = some t ∧ bitAt (leAt t 4 2) 2 = true ∧
    u.running = true ∧ u.get F.SVC_PLAN_STAT.STATE x.val = 1 ∧ (u.plan x.val).dutPend = none ∧ (u.plan x.val).reflAt = none ∧ u.reflRefused x.val
    false = false :=
  ⟨{ setAll [(F.DEV_STATE.STATE, 0, 4), (F.SVC_PLAN_STAT.STATE, 0, 1), (F.MDR_SITE_STATE.STATE, 0, 1)] with img := { tables := [⟨1, 0, List.replicate 4 0 ++ [4] ++ List.replicate 91 0⟩] } },
    _, 0, List.replicate 4 0 ++ [4] ++ List.replicate 91 0, rfl, by decide +kernel⟩

/-! #### DatalogComplete -/

theorem witness_DatalogComplete_1 : ∃ (s u : State) (x : Site) (b : _) (r : _), u = s.elapse 0 ∧ u.running = true ∧ (u.logOf x.val).made = b :: r :=
  ⟨{ setAll [(F.DEV_STATE.STATE, 0, 4)] with logs := [(0, { made := [List.replicate 32 0] })] }, _, 0, List.replicate 32 0, [], rfl, by decide +kernel⟩

theorem witness_DatalogComplete_2 : ∃ (s u : State) (x : Site) (b : _) (r : _), u = s.elapse 0 ∧ u.running = true ∧ (u.logOf x.val).made = b :: r ∧
    (u.logOf x.val).dropped = 0 ∧ u.resSpace x.val (b.length / 32) = true :=
  ⟨{ setAll [(F.DEV_STATE.STATE, 0, 4), (F.HRG_RES_CFG.EN, 0, 1), (F.HRG_RES_CFG.LOG2, 0, 6), (F.DMC_REGION.TYPE, 0, 1), (F.DMC_REGION.SIZE_MIB, 0, 1)] with logs := [(0, { made := [List.replicate 32 0] })] },
    _, 0, List.replicate 32 0, [], rfl, by decide +kernel⟩

theorem witness_DatalogComplete_3 : ∃ (s u : State) (x : Site), u = s.elapse 0 ∧ u.running = true ∧ (u.logOf x.val).dropped ≠ 0 ∧ u.resSpace x.val 1 =
    true ∧ u.logSelects x.val 0x17 = false :=
  ⟨{ setAll [(F.DEV_STATE.STATE, 0, 4), (F.HRG_RES_CFG.EN, 0, 1), (F.HRG_RES_CFG.LOG2, 0, 6), (F.DMC_REGION.TYPE, 0, 1), (F.DMC_REGION.SIZE_MIB, 0, 1)] with logs := [(0, { dropped := 1 })], img := { tables := [⟨4, 0, List.replicate 40 0⟩] } },
    _, 0, rfl, by decide +kernel⟩

theorem witness_DatalogComplete_4 : ∃ (s u : State) (x : Site), u = s.elapse 0 ∧ u.running = true ∧ (u.logOf x.val).dropped ≠ 0 ∧ u.resSpace x.val 1 =
    true ∧ u.logSelects x.val 0x17 = true :=
  ⟨{ setAll [(F.DEV_STATE.STATE, 0, 4), (F.HRG_RES_CFG.EN, 0, 1), (F.HRG_RES_CFG.LOG2, 0, 6), (F.DMC_REGION.TYPE, 0, 1), (F.DMC_REGION.SIZE_MIB, 0, 1)] with logs := [(0, { dropped := 1 })] },
    _, 0, rfl, by decide +kernel⟩

theorem witness_DatalogComplete_5 : ∃ (s u : State) (x : Site) (v : Word32), u = s.elapse 0 ∧ rdOk (u.get F.HRG_RES_RD.POS x.val) (u.get
    F.HRG_RES_WR.POS x.val) v.toNat = true :=
  ⟨setAll [], _, 0, 0, rfl, by decide +kernel⟩

theorem witness_DatalogComplete_6 : ∃ (s u : State) (x : Site) (v : Word32), u = s.elapse 0 ∧ rdOk (u.get F.HRG_RES_RD.POS x.val) (u.get
    F.HRG_RES_WR.POS x.val) v.toNat = false :=
  ⟨setAll [], _, 0, 1, rfl, by decide +kernel⟩

theorem witness_DatalogComplete_7 : ∃ (s u : State) (x : Site) (t : _), u = s.elapse 0 ∧ u.running = true ∧ (u.siteState x.val = 1 ∨ u.siteState x.val
    = 6) ∧ u.svcTable x.val 7 = some t :=
  ⟨{ setAll [(F.DEV_STATE.STATE, 0, 4), (F.MDR_SITE_STATE.STATE, 0, 1)] with img := { tables := [⟨7, 0, [1]⟩] } }, _, 0, [1], rfl, by decide +kernel⟩

theorem witness_DatalogComplete_8 : ∃ (s u : State) (x : Site) (t : _) (n : _), u = s.elapse 0 ∧ u.svcTable x.val 1 = some t ∧ u.svcTable x.val 7 =
    some n ∧ (u.plan x.val).armed = true ∧ u.siteState x.val = 6 ∧ u.netPending x.val t = true :=
  ⟨{ setAll [(F.MDR_SITE_STATE.STATE, 0, 6)] with img := { tables := [⟨1, 0, List.replicate 4 0 ++ [0] ++ List.replicate 91 0⟩, ⟨7, 0, List.replicate 32 0⟩] }, plans := [(0, { armed := true })] },
    _, 0, List.replicate 4 0 ++ [0] ++ List.replicate 91 0, List.replicate 32 0, rfl, by decide +kernel⟩

/-! #### UdsComplete -/

theorem witness_UdsComplete_1 : ∃ (s u : State) (c : Core) (a : Word64) (b : Word64) (i : _) (k : _), u = s.elapse 0 ∧ u.udsItem c.val = some (i, k) ∧
    (u.conn k).job = none ∧ u.reached a.toNat = true ∧ u.reached b.toNat = true ∧ u.ptrOk (jobPtr i) 64 = true ∧ u.eccBad (memPtr (jobPtr i)).2
    (memPtr (jobPtr i)).1 64 = false ∧ (u.readJob c.val i).op = 1 ∧ u.jobOk i k (u.readJob c.val i) = true :=
  ⟨{ setAll [(F.DMC_REGION.TYPE, 0, 1), (F.DMC_REGION.SIZE_MIB, 0, 1)] with saf := { serv := [(0, ⟨⟨0, 0, 0, 0, 8, 0, 0⟩, 1, some (0, 0), 0⟩)] }, img := { tables := [⟨5, 0, List.replicate 64 0⟩] }, dramZero := [(0, 4096)], dram := [(0, 1), (4, 1)] },
    _, 0, 0, 0, ⟨⟨0, 0, 0, 0, 8, 0, 0⟩, 1, some (0, 0), 0⟩, 0, rfl, by decide +kernel⟩

theorem witness_UdsComplete_2 : ∃ (s u : State) (c : Core) (a : Word64) (b : Word64) (i : _) (k : _), u = s.elapse 0 ∧ u.udsItem c.val = some (i, k) ∧
    (u.conn k).job = none ∧ u.reached a.toNat = true ∧ u.reached b.toNat = true ∧ u.ptrOk (jobPtr i) 64 = true ∧ u.eccBad (memPtr (jobPtr i)).2
    (memPtr (jobPtr i)).1 64 = false ∧ (u.readJob c.val i).op = 2 ∧ u.jobOk i k (u.readJob c.val i) = true :=
  ⟨{ setAll [(F.DMC_REGION.TYPE, 0, 1), (F.DMC_REGION.SIZE_MIB, 0, 1)] with saf := { serv := [(0, ⟨⟨0, 0, 0, 0, 8, 0, 0⟩, 1, some (0, 0), 0⟩)] }, img := { tables := [⟨5, 0, List.replicate 64 0⟩] }, dramZero := [(0, 4096)], dram := [(0, 2)] },
    _, 0, 0, 0, ⟨⟨0, 0, 0, 0, 8, 0, 0⟩, 1, some (0, 0), 0⟩, 0, rfl, by decide +kernel⟩

theorem witness_UdsComplete_3 : ∃ (s u : State) (c : Core) (a : Word64) (b : Word64) (i : _) (k : _), u = s.elapse 0 ∧ u.udsItem c.val = some (i, k) ∧
    (u.conn k).job = none ∧ u.reached a.toNat = true ∧ u.reached b.toNat = true ∧ u.ptrOk (jobPtr i) 64 = true ∧ u.eccBad (memPtr (jobPtr i)).2
    (memPtr (jobPtr i)).1 64 = false ∧ (u.readJob c.val i).op = 5 ∧ u.jobOk i k (u.readJob c.val i) = true :=
  ⟨{ setAll [(F.DMC_REGION.TYPE, 0, 1), (F.DMC_REGION.SIZE_MIB, 0, 1)] with saf := { serv := [(0, ⟨⟨0, 0, 0, 0, 8, 0, 0⟩, 1, some (0, 0), 0⟩)] }, img := { tables := [⟨5, 0, List.replicate 64 0⟩] }, dramZero := [(0, 4096)], dram := [(0, 5)] },
    _, 0, 0, 0, ⟨⟨0, 0, 0, 0, 8, 0, 0⟩, 1, some (0, 0), 0⟩, 0, rfl, by decide +kernel⟩

theorem witness_UdsComplete_4 : ∃ (s u : State) (c : Core) (a : Word64) (b : Word64) (i : _) (k : _), u = s.elapse 0 ∧ u.udsItem c.val = some (i, k) ∧
    (u.conn k).job = none ∧ u.ptrOk (jobPtr i) 64 = true ∧ u.eccBad (memPtr (jobPtr i)).2 (memPtr (jobPtr i)).1 64 = false ∧ u.reached a.toNat = true
    ∧ u.reached b.toNat = true ∧ (u.readJob c.val i).op = 1 ∧ u.jobOk i k (u.readJob c.val i) = false :=
  ⟨{ setAll [(F.DMC_REGION.TYPE, 0, 1), (F.DMC_REGION.SIZE_MIB, 0, 1)] with saf := { serv := [(0, ⟨⟨0, 0, 0, 0, 8, 0, 0⟩, 1, some (0, 0), 0⟩)] }, img := { tables := [⟨5, 0, List.replicate 64 0⟩] }, dramZero := [(0, 4096)], dram := [(0, 1)] },
    _, 0, 0, 0, ⟨⟨0, 0, 0, 0, 8, 0, 0⟩, 1, some (0, 0), 0⟩, 0, rfl, by decide +kernel⟩

theorem witness_UdsComplete_5 : ∃ (s u : State) (c : Core) (a : Word64) (b : Word64) (i : _) (k : _), u = s.elapse 0 ∧ u.udsItem c.val = some (i, k) ∧
    (u.conn k).job = none ∧ u.reached a.toNat = true ∧ u.reached b.toNat = true ∧ u.ptrOk (jobPtr i) 64 = true ∧ u.eccBad (memPtr (jobPtr i)).2
    (memPtr (jobPtr i)).1 64 = false ∧ (u.readJob c.val i).op = 3 ∧ u.jobOk i k (u.readJob c.val i) = true :=
  ⟨{ setAll [(F.DMC_REGION.TYPE, 0, 1), (F.DMC_REGION.SIZE_MIB, 0, 1)] with saf := { serv := [(0, ⟨⟨0, 0, 0, 0, 8, 0, 0⟩, 1, some (0, 0), 0⟩)] }, img := { tables := [⟨5, 0, List.replicate 64 0⟩] }, dramZero := [(0, 4096)], dram := [(0, 3), (2, 1)] },
    _, 0, 0, 0, ⟨⟨0, 0, 0, 0, 8, 0, 0⟩, 1, some (0, 0), 0⟩, 0, rfl, by decide +kernel⟩

theorem witness_UdsComplete_6 : ∃ (s u : State) (c : Core) (a : Word64) (b : Word64) (i : _) (k : _) (j : _), u = s.elapse 0 ∧ u.udsItem c.val = some
    (i, k) ∧ (u.conn k).job = some j ∧ u.reached a.toNat = true ∧ u.reached b.toNat = true ∧ j.op = 3 ∧ j.out = false ∧ j.stage = 3 :=
  ⟨{ setAll [(F.DMC_REGION.TYPE, 0, 1), (F.DMC_REGION.SIZE_MIB, 0, 1)] with saf := { serv := [(0, ⟨⟨0, 0, 0, 0, 8, 0, 0⟩, 1, some (0, 0), 0⟩)] }, img := { tables := [⟨5, 0, List.replicate 64 0⟩] }, uds := [(0, { job := some { item := 1, core := 0, block := 0, lake := false, op := 3, param := 1, reqAddr := 0, rspAddr := 0, rspMax := 0, stage := 3 } })] },
    _, 0, 0, 0, ⟨⟨0, 0, 0, 0, 8, 0, 0⟩, 1, some (0, 0), 0⟩, 0,
    { item := 1, core := 0, block := 0, lake := false, op := 3, param := 1, reqAddr := 0, rspAddr := 0, rspMax := 0, stage := 3 }, rfl,
    by decide +kernel⟩

theorem witness_UdsComplete_7 : ∃ (s u : State) (c : Core) (a : Word64) (b : Word64) (i : _) (k : _) (j : _) (d : _), u = s.elapse 0 ∧ u.udsItem c.val
    = some (i, k) ∧ (u.conn k).job = some j ∧ u.reached a.toNat = true ∧ u.reached b.toNat = true ∧ j.op = 3 ∧ j.out = false ∧ j.stage = 1 ∧
    u.secEntry (k / 64) j.param = some d ∧ leAt d 1 1 = 1 ∧ u.slotKind (k / 64) (leAt d 2 1) = 1 ∧ u.keyQ = [] :=
  ⟨{ setAll [(F.DMC_REGION.TYPE, 0, 1), (F.DMC_REGION.SIZE_MIB, 0, 1), (F.PCI_KEY_MAP.SLOTS, 0, 1)] with saf := { serv := [(0, ⟨⟨0, 0, 0, 0, 8, 0, 0⟩, 1, some (0, 0), 0⟩)] }, img := { tables := [⟨5, 0, List.replicate 64 0⟩, ⟨6, 0, [1, 1] ++ List.replicate 14 0⟩] }, uds := [(0, { job := some { item := 1, core := 0, block := 0, lake := false, op := 3, param := 1, reqAddr := 0, rspAddr := 0, rspMax := 0, stage := 1 } })] },
    _, 0, 0, 0, ⟨⟨0, 0, 0, 0, 8, 0, 0⟩, 1, some (0, 0), 0⟩, 0,
    { item := 1, core := 0, block := 0, lake := false, op := 3, param := 1, reqAddr := 0, rspAddr := 0, rspMax := 0, stage := 1 }, [1, 1] ++
    List.replicate 14 0, rfl, by decide +kernel⟩

theorem witness_UdsComplete_8 : ∃ (s u : State) (c : Core) (a : Word64) (b : Word64) (i : _) (k : _), u = s.elapse 0 ∧ u.udsItem c.val = some (i, k) ∧
    (u.conn k).job = none ∧ u.reached a.toNat = true ∧ u.reached b.toNat = true ∧ u.ptrOk (jobPtr i) 64 = true ∧ u.eccBad (memPtr (jobPtr i)).2
    (memPtr (jobPtr i)).1 64 = false ∧ (u.readJob c.val i).op = 4 ∧ u.jobOk i k (u.readJob c.val i) = true ∧ u.regionOk (u.regionStart (u.readJob
    c.val i)) = true :=
  ⟨{ setAll [(F.DMC_REGION.TYPE, 0, 1), (F.DMC_REGION.SIZE_MIB, 0, 1)] with saf := { serv := [(0, ⟨⟨0, 0, 0, 0, 8, 0, 0⟩, 1, some (0, 0), 0⟩)] }, img := { tables := [⟨5, 0, List.replicate 64 0⟩] }, dramZero := [(0, 4096)], dram := [(0, 4), (2, 1), (8, 64), (76, 1)] },
    _, 0, 0, 0, ⟨⟨0, 0, 0, 0, 8, 0, 0⟩, 1, some (0, 0), 0⟩, 0, rfl, by decide +kernel⟩

theorem witness_UdsComplete_9 : ∃ (s u : State) (c : Core) (a : Word64) (b : Word64) (i : _) (k : _) (j : _), u = s.elapse 0 ∧ u.udsItem c.val = some
    (i, k) ∧ (u.conn k).job = some j ∧ u.reached a.toNat = true ∧ u.reached b.toNat = true ∧ j.op = 4 ∧ j.out = false ∧ u.regionOk j = true :=
  ⟨{ setAll [(F.DMC_REGION.TYPE, 0, 1), (F.DMC_REGION.SIZE_MIB, 0, 1)] with saf := { serv := [(0, ⟨⟨0, 0, 0, 0, 8, 0, 0⟩, 1, some (0, 0), 0⟩)] }, img := { tables := [⟨5, 0, List.replicate 64 0⟩] }, dramZero := [(0, 4096)], dram := [(76, 1)], uds := [(0, { job := some { item := 1, core := 0, block := 0, lake := false, op := 4, param := 1, reqAddr := 64, rspAddr := 0, rspMax := 0 } })] },
    _, 0, 0, 0, ⟨⟨0, 0, 0, 0, 8, 0, 0⟩, 1, some (0, 0), 0⟩, 0,
    { item := 1, core := 0, block := 0, lake := false, op := 4, param := 1, reqAddr := 64, rspAddr := 0, rspMax := 0 }, rfl, by decide +kernel⟩

theorem witness_UdsComplete_10 : ∃ (s u : State) (x : Site) (n : Fin 64) (p : Word64) (q : Word64) (j : _), u = s.elapse 0 ∧ u.hasConn x.val n.val =
    true ∧ u.reached q.toNat = true ∧ u.running = true ∧ (u.conn (connKey x.val n.val)).job = some j ∧ j.meets p.toNat = true :=
  ⟨{ setAll [(F.DEV_STATE.STATE, 0, 4)] with img := { tables := [⟨5, 0, List.replicate 64 0⟩] }, uds := [(0, { job := some { item := 1, core := 0, block := 0, lake := false, op := 1, param := 1, reqAddr := 0, rspAddr := 0, rspMax := 0, out := true } })] },
    _, 0, 0, 0, 0, { item := 1, core := 0, block := 0, lake := false, op := 1, param := 1, reqAddr := 0, rspAddr := 0, rspMax := 0, out := true },
    rfl, by decide +kernel⟩

theorem witness_UdsComplete_11 : ∃ (s u : State) (x : Site) (n : Fin 64) (q : Word64), u = s.elapse 0 ∧ u.hasConn x.val n.val = true ∧ u.reached
    q.toNat = true ∧ u.running = true ∧ (u.conn (connKey x.val n.val)).job = none :=
  ⟨{ setAll [(F.DEV_STATE.STATE, 0, 4)] with img := { tables := [⟨5, 0, List.replicate 64 0⟩] } }, _, 0, 0, 0, rfl, by decide +kernel⟩

theorem witness_UdsComplete_12 : ∃ (s u : State) (x : Site) (n : Fin 64) (j : _), u = s.elapse 0 ∧ (u.conn (connKey x.val n.val)).job = some j ∧ j.out
    = true ∧ u.reached (wrap64 (j.sent + j.wait)) = true ∧ udsSuppress j.req = false ∧ j.op ≠ 4 :=
  ⟨{ setAll [] with uds := [(0, { job := some { item := 1, core := 0, block := 0, lake := false, op := 1, param := 1, reqAddr := 0, rspAddr := 0, rspMax := 0, out := true } })] },
    _, 0, 0, { item := 1, core := 0, block := 0, lake := false, op := 1, param := 1, reqAddr := 0, rspAddr := 0, rspMax := 0, out := true }, rfl,
    by decide +kernel⟩

theorem witness_UdsComplete_13 : ∃ (s u : State) (x : Site) (n : Fin 64) (j : _), u = s.elapse 0 ∧ (u.conn (connKey x.val n.val)).job = some j ∧ j.out
    = true ∧ u.reached (wrap64 (j.sent + j.wait)) = true ∧ udsSuppress j.req = true ∧ j.count = 0 :=
  ⟨{ setAll [] with uds := [(0, { job := some { item := 1, core := 0, block := 0, lake := false, op := 1, param := 1, reqAddr := 0, rspAddr := 0, rspMax := 0, out := true, req := [0x3E, 0x80] } })] },
    _, 0, 0,
    { item := 1, core := 0, block := 0, lake := false, op := 1, param := 1, reqAddr := 0, rspAddr := 0, rspMax := 0, out := true, req := [0x3E, 0x80] },
    rfl, by decide +kernel⟩

theorem witness_UdsComplete_14 : ∃ (s u : State) (x : Site) (n : Fin 64) (d : _), u = s.elapse 0 ∧ (u.conn (connKey x.val n.val)).presentAt = some d ∧
    u.reached d = true ∧ u.running = true :=
  ⟨{ setAll [(F.DEV_STATE.STATE, 0, 4)] with uds := [(0, { presentAt := some 0 })] }, _, 0, 0, 0, rfl, by decide +kernel⟩

theorem witness_UdsComplete_15 : ∃ (s u : State) (c : Core) (b : Word64) (i : _) (k : _) (j : _), u = s.elapse 0 ∧ u.udsItem c.val = some (i, k) ∧
    u.connFld k 1 1 ≠ 3 ∧ u.reached (wrap64 (b.toNat + msec (u.connFld k 0x18 2))) = true ∧ (u.conn k).job = some j ∧ j.op ≠ 4 :=
  ⟨{ setAll [(F.DMC_REGION.TYPE, 0, 1), (F.DMC_REGION.SIZE_MIB, 0, 1)] with saf := { serv := [(0, ⟨⟨0, 0, 0, 0, 8, 0, 0⟩, 1, some (0, 0), 0⟩)] }, img := { tables := [⟨5, 0, List.replicate 64 0⟩] }, uds := [(0, { job := some { item := 1, core := 0, block := 0, lake := false, op := 1, param := 1, reqAddr := 0, rspAddr := 0, rspMax := 0 } })] },
    _, 0, 0, ⟨⟨0, 0, 0, 0, 8, 0, 0⟩, 1, some (0, 0), 0⟩, 0,
    { item := 1, core := 0, block := 0, lake := false, op := 1, param := 1, reqAddr := 0, rspAddr := 0, rspMax := 0 }, rfl, by decide +kernel⟩

theorem witness_UdsComplete_16 : ∃ (s u : State) (k : _) (r : _) (j : _), u = s.elapse 0 ∧ u.flag F.MBX_STAT.FULL 1 = true ∧ u.keyQ = k :: r ∧ (u.conn
    k).job = some j ∧ u.replyFits j = true :=
  ⟨{ setAll [(F.MBX_STAT.FULL, 1, 1), (F.MBX_DATA.DATA, 16, 65536)] with keyQ := [0], uds := [(0, { job := some { item := 1, core := 0, block := 0, lake := false, op := 3, param := 1, reqAddr := 0, rspAddr := 0, rspMax := 0, keyNo := some 0 } })] },
    _, 0, [], { item := 1, core := 0, block := 0, lake := false, op := 3, param := 1, reqAddr := 0, rspAddr := 0, rspMax := 0, keyNo := some 0 }, rfl,
    by decide +kernel⟩

theorem witness_UdsComplete_17 : ∃ (s u : State), u = s.elapse 0 ∧ u.flag F.MBX_STAT.FULL 1 = true ∧ u.keyQ = [] :=
  ⟨setAll [(F.MBX_STAT.FULL, 1, 1)], _, rfl, by decide +kernel⟩

theorem witness_UdsComplete_18 : ∃ (s u : State) (x : Site) (n : Fin 64) (j : _), u = s.elapse 0 ∧ (u.conn (connKey x.val n.val)).job = some j ∧
    j.stage = 2 ∧ u.due j.keyAt = true :=
  ⟨{ setAll [] with uds := [(0, { job := some { item := 1, core := 0, block := 0, lake := false, op := 3, param := 1, reqAddr := 0, rspAddr := 0, rspMax := 0, stage := 2, keyAt := some 0 } })] },
    _, 0, 0,
    { item := 1, core := 0, block := 0, lake := false, op := 3, param := 1, reqAddr := 0, rspAddr := 0, rspMax := 0, stage := 2, keyAt := some 0 },
    rfl, by decide +kernel⟩

/-! #### EventComplete -/

theorem witness_EventComplete_1 : ∃ (s u : State) (p : Fin 1536), u = s.elapse 0 ∧ u.evf.raised.contains p.val = true :=
  ⟨{ setAll [] with evf := { raised := [1535] } }, _, 1535, rfl, by decide +kernel⟩

theorem witness_EventComplete_2 : ∃ (s u : State) (c : EvCh) (r : _) (b : _), u = s.elapse 0 ∧ Tab.get none u.evf.held c.val = some (r, b) ∧ u.reached
    r = true :=
  ⟨{ setAll [] with evf := { held := [(255, some (0, false))] } }, _, 255, 0, false, rfl, by decide +kernel⟩

theorem witness_EventComplete_3 : ∃ (s u : State) (c : EvCh) (b : _), u = s.elapse 0 ∧ u.evf.bcast.find? (fun b => b.1 == c.val && u.reached b.2) =
    some b :=
  ⟨{ setAll [] with evf := { bcast := [(255, 0)] } }, _, 255, (255, 0), rfl, by decide +kernel⟩

theorem witness_EventComplete_4 : ∃ (s u : State) (n : Fin 16) (d : _), u = s.elapse 0 ∧ Tab.get none u.pins.trigUntil n.val = some d ∧ u.reached d =
    true ∧ u.isSafe = false :=
  ⟨{ setAll [(F.CIN_STAT.SAFE, 0, 0)] with pins := { trigUntil := [(15, some 0)] } }, _, 15, 0, rfl, by decide +kernel⟩

theorem witness_EventComplete_8 : ∃ (s u : State) (k : Fin 32) (t : _), u = s.elapse 0 ∧ (u.timer k.val).target = some t ∧ u.reached (wrap64 (t + 2 ^
    64 - 8000)) = true ∧ u.timerMode k.val = 1 :=
  ⟨{ setAll [(F.EVF_TIMER_CFG.MODE, 31, 1)] with evf := { timers := [(31, { target := some 8000 })] } }, _, 31, 8000, rfl, by decide +kernel⟩

theorem witness_EventComplete_9 : ∃ (s u : State) (k : Fin 32) (t : _), u = s.elapse 0 ∧ (u.timer k.val).target = some t ∧ u.reached (wrap64 (t + 2 ^
    64 - 8000)) = true ∧ u.timerMode k.val = 2 :=
  ⟨{ setAll [(F.EVF_TIMER_CFG.MODE, 31, 2)] with evf := { timers := [(31, { target := some 8000 })] } }, _, 31, 8000, rfl, by decide +kernel⟩

theorem witness_EventComplete_10 : ∃ (s u : State) (k : Fin 32), u = s.elapse 0 ∧ u.timerMode k.val = 3 ∧ (u.timer k.val).target = none :=
  ⟨setAll [(F.EVF_TIMER_CFG.MODE, 31, 3)], _, 31, rfl, by decide +kernel⟩

theorem witness_EventComplete_11 : ∃ (s u : State) (k : Fin 32), u = s.elapse 0 ∧ u.timerMode k.val = 3 ∧ (u.timer k.val).target.isSome = true :=
  ⟨{ setAll [(F.EVF_TIMER_CFG.MODE, 31, 3)] with evf := { timers := [(31, { target := some 8000 })] } }, _, 31, rfl, by decide +kernel⟩

theorem witness_EventComplete_12 : ∃ (s u : State) (k : Fin 32), u = s.elapse 0 ∧ u.timerMode k.val = 4 ∧ max 1 (u.get F.EVF_TIMER_CFG.COUNT k.val) ≤
    (u.timer k.val).count + 1 :=
  ⟨setAll [(F.EVF_TIMER_CFG.MODE, 31, 4)], _, 31, rfl, by decide +kernel⟩

/-! #### InterruptComplete -/

theorem witness_InterruptComplete_1 : ∃ (s u : State) (n : Fin 4096), u = s.elapse 0 ∧ pulseSource n.val = true ∧ u.irc.pulses.contains n.val = true ∧
    u.dev ≠ 6 :=
  ⟨{ setAll [(F.DEV_STATE.STATE, 0, 0)] with irc := { pulses := [1976] } }, _, 1976, rfl, by decide +kernel⟩

theorem witness_InterruptComplete_2 : ∃ (s u : State) (n : Fin 4096), u = s.elapse 0 ∧ pulseSource n.val = true ∧ u.irc.pulses.contains n.val = true ∧
    u.dev = 6 :=
  ⟨{ setAll [(F.DEV_STATE.STATE, 0, 6)] with irc := { pulses := [1976] } }, _, 1976, rfl, by decide +kernel⟩

theorem witness_InterruptComplete_3 : ∃ (s u : State) (n : Fin 4096), u = s.elapse 0 ∧ pulseSource n.val = false ∧ u.dev ≠ 6 :=
  ⟨setAll [(F.DEV_STATE.STATE, 0, 0)], _, 0, rfl, by decide +kernel⟩

theorem witness_InterruptComplete_4 : ∃ (s u : State) (a : Agent) (w : Fin 128), u = s.elapse 0 ∧ u.reaches a .IRC_MASK = true ∧ w.val ≠ 0 :=
  ⟨setAll [(F.DEV_STATE.STATE, 0, 4)], _, .core 15, 127, rfl, by decide +kernel⟩

theorem witness_InterruptComplete_5 : ∃ (s u : State) (g : Group), u = s.elapse 0 ∧ u.flag F.IRC_HOLDOFF.ACTIVE g.val = true ∧ u.dev ≠ 6 ∧ u.reached
    (Tab.get 0 u.irc.holdUntil g.val) = true :=
  ⟨setAll [(F.DEV_STATE.STATE, 0, 4), (F.IRC_HOLDOFF.ACTIVE, 63, 1)], _, 63, rfl, by decide +kernel⟩

/-! #### ClaimComplete -/

theorem witness_ClaimComplete_1 : ∃ (s u : State) (a : Agent) (x : Fin 56) (n : _), u = s.elapse 0 ∧ slotOpen a x.val = true ∧ u.reaches a .IRC_CLAIM
    = true ∧ u.bestSource x.val = some n :=
  ⟨setAll [(F.DEV_STATE.STATE, 0, 4), (F.IRC_PEND.SRC, 61, 16777216), (F.IRC_MASK.SRC, 61, 0), (F.IRC_SRC.TARGETS, 1976, 32768)], _, .core 15, 15, 1976,
    rfl, by decide +kernel⟩

theorem witness_ClaimComplete_2 : ∃ (s u : State) (a : Agent) (x : Fin 56), u = s.elapse 0 ∧ slotOpen a x.val = true ∧ u.reaches a .IRC_CLAIM = true ∧
    u.bestSource x.val = none :=
  ⟨setAll [(F.DEV_STATE.STATE, 0, 4)], _, .core 15, 15, rfl, by decide +kernel⟩

theorem witness_ClaimComplete_3 : ∃ (s u : State) (a : Agent) (x : Fin 56) (n : Fin 4096), u = s.elapse 0 ∧ u.reaches a .IRC_COMPLETE = true ∧ x.val <
    48 ∧ Tab.get 0 u.irc.holder n.val = x.val + 1 :=
  ⟨{ setAll [(F.DEV_STATE.STATE, 0, 4)] with irc := { holder := [(4095, 48)] } }, _, .core 15, 47, 4095, rfl, by decide +kernel⟩

theorem witness_ClaimComplete_4 : ∃ (s u : State) (a : Agent) (x : Fin 56) (n : Fin 4096), u = s.elapse 0 ∧ u.reaches a .IRC_COMPLETE = true ∧ x.val <
    48 ∧ Tab.get 0 u.irc.holder n.val ≠ x.val + 1 :=
  ⟨setAll [(F.DEV_STATE.STATE, 0, 4)], _, .core 15, 47, 4095, rfl, by decide +kernel⟩

theorem witness_ClaimComplete_5 : ∃ (s u : State) (f : Func) (v : Fin 32), u = s.elapse 0 ∧ v.val < (fnSlots f).2 ∧ u.reaches f.agent .PCI_MSIX0_CTRL
    = true :=
  ⟨setAll [(F.DEV_STATE.STATE, 0, 4)], _, .pf1, 0, rfl, by decide +kernel⟩

/-! #### MemoryComplete -/

theorem witness_MemoryComplete_1 : ∃ (s u : State) (a : Agent) (b : Bank) (v : Byte), u = s.elapse 0 ∧ u.reaches a .LAK_OWNER = true ∧ u.bankAgent a
    b.val = true ∧ ownerValue v.toNat = true ∧ u.owner b.val ≠ 0x3F :=
  ⟨setAll [(F.DEV_STATE.STATE, 0, 4), (F.LAK_OWNER.OWNER, 255, 1)], _, .pf1, 255, 0x2F, rfl, by decide +kernel⟩

theorem witness_MemoryComplete_2 : ∃ (s u : State) (a : Agent) (b : Bank) (v : Byte), u = s.elapse 0 ∧ u.reaches a .LAK_OWNER = true ∧ (u.bankAgent a
    b.val && ownerValue v.toNat && u.owner b.val != 0x3F) = false :=
  ⟨setAll [(F.DEV_STATE.STATE, 0, 4)], _, .pf1, 0, 0, rfl, by decide +kernel⟩

theorem witness_MemoryComplete_3 : ∃ (s u : State) (a : Agent) (b : Bank), u = s.elapse 0 ∧ u.reaches a .LAK_STATE = true ∧ u.owner b.val = 0x3F :=
  ⟨setAll [(F.DEV_STATE.STATE, 0, 4), (F.LAK_OWNER.OWNER, 0, 63)], _, .pf0, 0, rfl, by decide +kernel⟩

theorem witness_MemoryComplete_4 : ∃ (s u : State) (a : Agent) (b : Bank) (v : Word32), u = s.elapse 0 ∧ u.reaches a .LAK_STATE = true ∧ u.owner b.val
    ≠ 0x3F ∧ u.bankAgent a b.val = true ∧ v.toNat % 4 ≠ 3 ∧ u.flag F.LAK_STATE.BUSY b.val = false :=
  ⟨setAll [(F.DEV_STATE.STATE, 0, 4), (F.LAK_STATE.BUSY, 0, 0), (F.LAK_OWNER.OWNER, 0, 1)], _, .pf1, 0, 2, rfl, by decide +kernel⟩

theorem witness_MemoryComplete_5 : ∃ (s u : State) (b : Bank) (tgt : _), u = s.elapse 0 ∧ Tab.get none u.lakeAt b.val = some (tgt, none) :=
  ⟨{ setAll [] with lakeAt := [(0, some (2, none))] }, _, 0, 2, rfl, by decide +kernel⟩

theorem witness_MemoryComplete_6 : ∃ (s u : State) (b : Bank) (tgt : _) (d : _), u = s.elapse 0 ∧ Tab.get none u.lakeAt b.val = some (tgt, some d) ∧
    u.reached d = true :=
  ⟨{ setAll [] with lakeAt := [(0, some (2, some 0))] }, _, 0, 2, 0, rfl, by decide +kernel⟩

theorem witness_MemoryComplete_7 : ∃ (s u : State) (a : Agent), u = s.elapse 0 ∧ u.lakeOpen a = true :=
  ⟨setAll [(F.DEV_STATE.STATE, 0, 4)], _, .pf0, rfl, by decide +kernel⟩

theorem witness_MemoryComplete_8 : ∃ (s u : State) (a : Agent), u = s.elapse 0 ∧ u.lakeOpen a = true :=
  ⟨setAll [(F.DEV_STATE.STATE, 0, 4)], _, .pf0, rfl, by decide +kernel⟩

theorem witness_MemoryComplete_9 : ∃ (s u : State) (a : Agent), u = s.elapse 0 ∧ u.lakeOpen a = true :=
  ⟨setAll [(F.DEV_STATE.STATE, 0, 4)], _, .pf0, rfl, by decide +kernel⟩

theorem witness_MemoryComplete_10 : ∃ (s u : State) (v : Word32), u = s.elapse 0 ∧ bitAt v.toNat 31 = true ∧ u.dev = 4 ∧ u.anyActive = false ∧ v.toNat
    % 4 ≠ 3 ∧ u.opAt = none ∧ u.dramDead = false :=
  ⟨setAll [(F.DEV_STATE.STATE, 0, 4)], _, 2147483648, rfl, by decide +kernel⟩

theorem witness_MemoryComplete_11 : ∃ (s u : State) (v : Word32), u = s.elapse 0 ∧ bitAt v.toNat 31 = true ∧ (u.dev == 4 && !u.anyActive && v.toNat %
    4 != 3 && u.opAt.isNone && !u.dramDead) = false :=
  ⟨setAll [], _, 2147483648, rfl, by decide +kernel⟩

theorem witness_MemoryComplete_12 : ∃ (s u : State) (op : _) (d : _), u = s.elapse 0 ∧ u.opAt = some (op, d) :=
  ⟨{ setAll [] with opAt := some (1, 0) }, _, 1, 0, rfl, by decide +kernel⟩

theorem witness_MemoryComplete_13 : ∃ (s u : State) (op : _) (d : _), u = s.elapse 0 ∧ u.opAt = some (op, d) :=
  ⟨{ setAll [] with opAt := some (1, 0) }, _, 1, 0, rfl, by decide +kernel⟩

theorem witness_MemoryComplete_14 : ∃ (s u : State) (k : Fin 4), u = s.elapse 0 ∧ k.val ≠ 0 :=
  ⟨setAll [], _, 3, rfl, by decide +kernel⟩

theorem witness_MemoryComplete_15 : ∃ (s u : State) (c : Fin 8) (b : Fin 64) (d : _), u = s.elapse 0 ∧ (u.dramBank (64 * c.val + b.val)).openAt = some
    d ∧ u.reached (wrap64 (d + 200 * 8000)) = true :=
  ⟨{ setAll [(F.UMB_DT.DT, 0, 1000000000000)] with banks := [(511, { openAt := some 0 })] }, _, 7, 63, 0, rfl, by decide +kernel⟩

theorem witness_MemoryComplete_16 : ∃ (s u : State) (f : Func) (n : Fin 137438953472) (data : List (Option Byte)), u = s.elapse 0 ∧ u.dramOpen f n.val
    data.length = true :=
  ⟨setAll [(F.DEV_STATE.STATE, 0, 4)], _, .pf0, 0, [], rfl, by decide +kernel⟩

/-! #### SafeStateComplete -/

theorem witness_SafeStateComplete_1 : ∃ (s u : State), u = s.elapse 0 ∧ u.pwr.vauxGood = true :=
  ⟨setAll [], _, rfl, by decide +kernel⟩

theorem witness_SafeStateComplete_2 : ∃ (s u : State), u = s.elapse 0 ∧ u.pwr.vauxGood = true :=
  ⟨setAll [], _, rfl, by decide +kernel⟩

theorem witness_SafeStateComplete_5 : ∃ (s u : State), u = s.elapse 0 ∧ u.pins.safeInHigh = false :=
  ⟨{ setAll [] with pins := { safeInHigh := false } }, _, rfl, by decide +kernel⟩

theorem witness_SafeStateComplete_6 : ∃ (s u : State), u = s.elapse 0 ∧ u.safeInLong = true :=
  ⟨setAll [], _, rfl, by decide +kernel⟩

theorem witness_SafeStateComplete_7 : ∃ (s u : State) (v : Word32), u = s.elapse 0 ∧ u.reaches .pf1 .CIN_FORCE = true ∧ v.toNat % 2 = 1 :=
  ⟨setAll [(F.DEV_STATE.STATE, 0, 4)], _, 1, rfl, by decide +kernel⟩

theorem witness_SafeStateComplete_8 : ∃ (s u : State) (v : Word32), u = s.elapse 0 ∧ u.reaches .pf1 .CIN_FORCE = true ∧ v.toNat % 2 = 0 :=
  ⟨setAll [(F.DEV_STATE.STATE, 0, 4)], _, 0, rfl, by decide +kernel⟩

theorem witness_SafeStateComplete_9 : ∃ (s u : State) (v : Word32), u = s.elapse 0 ∧ u.reaches .pf1 .CIN_EXIT = true ∧ bitsOf v.toNat 8 8 = 0xA7 ∧
    bitAt v.toNat 0 = true ∧ u.safeInSettle.exitOk = true :=
  ⟨setAll [(F.DEV_STATE.STATE, 0, 4), (F.CIN_STAT.SAFE, 0, 1)], _, 0xA701, rfl, by decide +kernel⟩

theorem witness_SafeStateComplete_10 : ∃ (s u : State) (v : Word32), u = s.elapse 0 ∧ u.reaches .pf1 .CIN_EXIT = true ∧ bitsOf v.toNat 8 8 = 0xA7 ∧
    bitAt v.toNat 0 = true ∧ u.safeInSettle.exitOk = false :=
  ⟨setAll [(F.DEV_STATE.STATE, 0, 4)], _, 0xA701, rfl, by decide +kernel⟩

theorem witness_SafeStateComplete_11 : ∃ (s u : State) (d : _), u = s.elapse 0 ∧ u.safe.exitAt = some d ∧ u.reached d = true ∧ d < 2 ^ 64 :=
  ⟨{ setAll [] with safe := { exitAt := some 0 } }, _, 0, rfl, by decide +kernel⟩

theorem witness_SafeStateComplete_12 : ∃ (s u : State) (v : Word32), u = s.elapse 0 ∧ u.reaches .pf1 .CIN_TILE_RESET = true ∧ bitsOf v.toNat 8 8 =
    0xA7 ∧ ((List.range 8).filter (fun t => bitAt v.toNat t)).any (fun t => (u.tileSites t).any (fun x => u.active x)) = true :=
  ⟨setAll [(F.DEV_STATE.STATE, 0, 4), (F.SMAP_TSLICE.VALID, 0, 1), (F.MDR_SITE_STATE.STATE, 0, 3)], _, 0xA701, rfl, by decide +kernel⟩

theorem witness_SafeStateComplete_13 : ∃ (s u : State) (v : Word32), u = s.elapse 0 ∧ u.reaches .pf1 .CIN_TILE_RESET = true ∧ bitsOf v.toNat 8 8 =
    0xA7 ∧ ((List.range 8).filter (fun t => bitAt v.toNat t)).any (fun t => (u.tileSites t).any (fun x => u.active x)) = false :=
  ⟨setAll [(F.DEV_STATE.STATE, 0, 4)], _, 0xA7FF, rfl, by decide +kernel⟩

theorem witness_SafeStateComplete_14 : ∃ (s u : State) (v : Word32), u = s.elapse 0 ∧ u.reaches .pf1 .CIN_CORE_RESET = true ∧ bitsOf v.toNat 16 8 =
    0xA7 :=
  ⟨setAll [(F.DEV_STATE.STATE, 0, 4)], _, 0xA7FFFF, rfl, by decide +kernel⟩

/-! #### AccessComplete -/

theorem witness_AccessComplete_1 : ∃ (s u : State) (o : Fin 67108864) (n : Fin 9), u = s.elapse 0 ∧ sizeOk o.val n.val = false :=
  ⟨setAll [], _, 4, 8, rfl, by decide +kernel⟩

theorem witness_AccessComplete_2 : ∃ (s u : State) (a : Agent) (o : Fin 67108864) (n : Fin 9), u = s.elapse 0 ∧ sizeOk o.val n.val = true ∧ n.val = 4
    ∧ u.hit a o.val = none :=
  ⟨setAll [], _, .pf1, 0x3FFFFFC, 4, rfl, by decide +kernel⟩

theorem witness_AccessComplete_3 : ∃ (s u : State) (a : Agent) (o : Fin 67108864) (n : Fin 9) (h : _), u = s.elapse 0 ∧ sizeOk o.val n.val = true ∧
    n.val = 4 ∧ u.hit a o.val = some h :=
  ⟨setAll [(F.DEV_STATE.STATE, 0, 4)], _, .pf0, 0x10, 4, _, rfl, by decide +kernel, rfl, (Option.some_get (by decide +kernel)).symm⟩

theorem witness_AccessComplete_4 : ∃ (s u : State) (a : Agent) (o : Fin 67108864) (h : _), u = s.elapse 0 ∧ sizeOk o.val 4 = true ∧ u.hit a o.val =
    some h :=
  ⟨setAll [(F.DEV_STATE.STATE, 0, 4)], _, .pf0, 0x10, _, rfl, by decide +kernel, (Option.some_get (by decide +kernel)).symm⟩

theorem witness_AccessComplete_5 : ∃ (s u : State) (o : Fin 67108864) (n : Fin 9), u = s.elapse 0 ∧ sizeOk o.val n.val = false :=
  ⟨setAll [], _, 4, 8, rfl, by decide +kernel⟩

theorem witness_AccessComplete_6 : ∃ (s u : State) (a : Agent) (o : Fin 67108864) (n : Fin 9), u = s.elapse 0 ∧ sizeOk o.val n.val = true ∧ n.val = 4
    ∧ u.hit a o.val = none :=
  ⟨setAll [], _, .pf1, 0x3FFFFFC, 4, rfl, by decide +kernel⟩

theorem witness_AccessComplete_7 : ∃ (s u : State) (a : Agent) (o : Fin 67108864) (n : Fin 9) (h : _), u = s.elapse 0 ∧ sizeOk o.val n.val = true ∧
    n.val = 4 ∧ u.hit a o.val = some h ∧ h.reg.bytes = 4 :=
  ⟨setAll [(F.DEV_STATE.STATE, 0, 4)], _, .pf0, 0x10, 4, _, rfl, by decide +kernel, rfl, (Option.some_get (by decide +kernel)).symm, by decide +kernel⟩

theorem witness_AccessComplete_8 : ∃ (s u : State) (a : Agent) (o : Fin 67108864) (h : _), u = s.elapse 0 ∧ sizeOk o.val 4 = true ∧ u.hit a o.val =
    some h ∧ h.reg.bytes ≠ 4 ∧ h.k % 8 = 4 :=
  ⟨setAll [(F.DEV_STATE.STATE, 0, 4)], _, .pf0, 0xC, _, rfl, by decide +kernel, (Option.some_get (by decide +kernel)).symm, by decide +kernel,
    by decide +kernel⟩

/-! #### HostLinkComplete -/

theorem witness_HostLinkComplete_1 : ∃ (s u : State) (h : Bool), u = s.elapse 0 ∧ h ≠ u.pins.perstN ∧ u.dev = 0 :=
  ⟨setAll [(F.DEV_STATE.STATE, 0, 0)], _, false, rfl, by decide +kernel⟩

theorem witness_HostLinkComplete_2 : ∃ (s u : State), u = s.elapse 0 ∧ u.pins.perstN = false ∧ u.dev ≠ 0 :=
  ⟨{ setAll [(F.DEV_STATE.STATE, 0, 1)] with pins := { perstN := false } }, _, rfl, by decide +kernel⟩

theorem witness_HostLinkComplete_3 : ∃ (s u : State), u = s.elapse 0 ∧ u.pins.perstN = true ∧ u.dev ≠ 0 :=
  ⟨setAll [(F.DEV_STATE.STATE, 0, 1)], _, rfl, by decide +kernel⟩

theorem witness_HostLinkComplete_4 : ∃ (s u : State), u = s.elapse 0 ∧ u.pins.perstN = true ∧ u.dev ≠ 0 :=
  ⟨setAll [(F.DEV_STATE.STATE, 0, 1)], _, rfl, by decide +kernel⟩

theorem witness_HostLinkComplete_5 : ∃ (s u : State), u = s.elapse 0 ∧ u.dev ≠ 0 :=
  ⟨setAll [(F.DEV_STATE.STATE, 0, 1)], _, rfl, by decide +kernel⟩

theorem witness_HostLinkComplete_6 : ∃ (s u : State), u = s.elapse 0 ∧ u.get F.PCI_LINK.STATE 0 = 2 :=
  ⟨setAll [(F.PCI_LINK.STATE, 0, 2)], _, rfl, by decide +kernel⟩

theorem witness_HostLinkComplete_7 : ∃ (s u : State) (r : Fin 16) (w : Fin 16) (fl : Bool), u = s.elapse 0 ∧ u.pins.perstN = true ∧ u.get
    F.PCI_LINK.STATE 0 ≠ 2 ∧ linkForm r.val w.val fl = true ∧ u.reaches .pf1 .PCI_LINK = true :=
  ⟨setAll [(F.DEV_STATE.STATE, 0, 4), (F.PCI_LINK.STATE, 0, 0)], _, 6, 8, true, rfl, by decide +kernel⟩

/-! #### DescriptorComplete -/

theorem witness_DescriptorComplete_1 : ∃ (s u : State) (a : Agent) (r : RingId) (v : Word32), u = s.elapse 0 ∧ u.ringOpen a = true ∧ ringDist
    (u.ringGet (ringKey r) (·.done)) (u.ringGet (ringKey r) (·.tail)) ≤ ringDist (u.ringGet (ringKey r) (·.done)) v.toNat ∧ ringDist (u.ringGet
    (ringKey r) (·.done)) v.toNat ≤ 2 ^ u.ringGet (ringKey r) (·.log2) :=
  ⟨setAll [(F.DEV_STATE.STATE, 0, 4)], _, .pf1, .cmd 0, 0, rfl, by decide +kernel⟩

theorem witness_DescriptorComplete_2 : ∃ (s u : State) (a : Agent) (r : RingId) (v : Word32), u = s.elapse 0 ∧ u.ringOpen a = true ∧ ((ringDist
    (u.ringGet (ringKey r) (·.done)) v.toNat < ringDist (u.ringGet (ringKey r) (·.done)) (u.ringGet (ringKey r) (·.tail)) ∨ 2 ^ u.ringGet (ringKey r)
    (·.log2) < ringDist (u.ringGet (ringKey r) (·.done)) v.toNat)) :=
  ⟨setAll [(F.DEV_STATE.STATE, 0, 4)], _, .pf1, .cmd 0, 0xFFFFFFFF, rfl, by decide +kernel⟩

theorem witness_DescriptorComplete_3 : ∃ (s u : State) (r : RingId), u = s.elapse 0 ∧ u.ringReady (ringKey r) = true ∧ u.ringUsable (ringKey r) = true
    :=
  ⟨setAll [(F.DEV_STATE.STATE, 0, 4), (F.HRG_CMD_CFG.EN, 255, 1), (F.HRG_CMD_TAIL.POS, 255, 1)], _, .cmd 255, rfl, by decide +kernel⟩

theorem witness_DescriptorComplete_4 : ∃ (s u : State) (r : RingId), u = s.elapse 0 ∧ u.ringReady (ringKey r) = true ∧ u.ringUsable (ringKey r) =
    false :=
  ⟨setAll [(F.DEV_STATE.STATE, 0, 4), (F.HRG_CMD_CFG.EN, 255, 1), (F.HRG_CMD_TAIL.POS, 255, 1), (F.HRG_CMD_CFG.MEM, 255, 1)], _, .cmd 255, rfl,
    by decide +kernel⟩

theorem witness_DescriptorComplete_5 : ∃ (s u : State) (r : RingId) (c : _) (st : _) (v : _), u = s.elapse 0 ∧ (u.hring (ringKey r)).cur = some c ∧
    u.descResult (ringKey r) c = some (st, v) ∧ (u.hring (ringKey r)).stopped = false ∧ u.ringUsable (ringKey r) = true ∧ (u.hring (ringKey
    r)).flushing = false :=
  ⟨{ setAll [] with rings := [(271, { cur := some { cmdOf 1 0 0 0 with begun := true, result := some (1, 1) } })] }, _, .mgmt 15,
    { cmdOf 1 0 0 0 with begun := true, result := some (1, 1) }, 1, 1, rfl, by decide +kernel⟩

theorem witness_DescriptorComplete_6 : ∃ (s u : State) (a : Agent) (r : RingId) (v : Word32), u = s.elapse 0 ∧ u.ringOpen a = true ∧ rdOk (u.ringGet
    (ringKey r) (·.seen)) (u.ringGet (ringKey r) (·.done)) v.toNat = true :=
  ⟨setAll [(F.DEV_STATE.STATE, 0, 4)], _, .pf1, .mgmt 15, 0, rfl, by decide +kernel⟩

theorem witness_DescriptorComplete_7 : ∃ (s u : State) (a : Agent) (r : RingId) (v : Word32), u = s.elapse 0 ∧ u.ringOpen a = true ∧ rdOk (u.ringGet
    (ringKey r) (·.seen)) (u.ringGet (ringKey r) (·.done)) v.toNat = false :=
  ⟨setAll [(F.DEV_STATE.STATE, 0, 4)], _, .pf1, .mgmt 15, 1, rfl, by decide +kernel⟩

theorem witness_DescriptorComplete_8 : ∃ (s u : State) (a : Agent) (r : RingId), u = s.elapse 0 ∧ u.ringOpen a = true ∧ u.ringGet (ringKey r) (·.en) ≠
    0 ∧ (u.hring (ringKey r)).cur.isSome = true :=
  ⟨{ setAll [(F.DEV_STATE.STATE, 0, 4), (F.HRG_MGT_CFG.EN, 15, 1)] with rings := [(271, { cur := some { cmdOf 1 0 0 0 with begun := true, result := some (1, 1) } })] },
    _, .pf1, .mgmt 15, rfl, by decide +kernel⟩

theorem witness_DescriptorComplete_9 : ∃ (s u : State) (a : Agent) (r : RingId), u = s.elapse 0 ∧ u.ringOpen a = true ∧ u.ringGet (ringKey r) (·.en) ≠
    0 ∧ (u.hring (ringKey r)).cur = none :=
  ⟨setAll [(F.DEV_STATE.STATE, 0, 4), (F.HRG_MGT_CFG.EN, 15, 1)], _, .pf1, .mgmt 15, rfl, by decide +kernel⟩

/-! #### RingOpComplete -/

theorem witness_RingOpComplete_1 : ∃ (s u : State) (x : Site) (c : _), u = s.elapse 0 ∧ u.opOf x.val 1 = some c ∧ u.flag F.MDR_SITE_CMD_RES.BUSY x.val
    = false ∧ u.armCode x.val (bitsOf (c.arg 0) 0 16) = 1 :=
  ⟨{ setAll [(F.MDR_SITE_CMD_RES.BUSY, 0, 0), (F.DEV_STATE.STATE, 0, 4), (F.MDR_SITE_STATE.STATE, 0, 1), (F.DMC_REGION.TYPE, 0, 1), (F.DMC_REGION.SIZE_MIB, 0, 1)] with rings := [(0, { cur := some (cmdOf 1 0 0 0) })], dram := [(5, 1)], dramZero := [(0, 4096)] },
    _, 0, cmdOf 1 0 0 0, rfl, by decide +kernel⟩

theorem witness_RingOpComplete_2 : ∃ (s u : State) (x : Site) (c : _) (r : _), u = s.elapse 0 ∧ u.opOf x.val 1 = some c ∧ u.flag
    F.MDR_SITE_CMD_RES.BUSY x.val = false ∧ u.armCode x.val (bitsOf (c.arg 0) 0 16) = r ∧ r ≠ 1 :=
  ⟨{ setAll [(F.MDR_SITE_CMD_RES.BUSY, 0, 0), (F.DEV_STATE.STATE, 0, 4)] with rings := [(0, { cur := some (cmdOf 1 0 0 0) })] }, _, 0, cmdOf 1 0 0 0, 2,
    rfl, by decide +kernel⟩

theorem witness_RingOpComplete_3 : ∃ (s u : State) (x : Site) (c : _), u = s.elapse 0 ∧ u.opOf x.val 2 = some c ∧ u.flag F.MDR_SITE_CMD_RES.BUSY x.val
    = false ∧ u.abortCode x.val = 0 :=
  ⟨{ setAll [(F.MDR_SITE_CMD_RES.BUSY, 0, 0), (F.DEV_STATE.STATE, 0, 4), (F.MDR_SITE_STATE.STATE, 0, 4)] with rings := [(0, { cur := some (cmdOf 2 0 0 0) })] },
    _, 0, cmdOf 2 0 0 0, rfl, by decide +kernel⟩

theorem witness_RingOpComplete_4 : ∃ (s u : State) (x : Site) (c : _), u = s.elapse 0 ∧ u.opOf x.val 3 = some c ∧ u.flag F.MDR_SITE_CMD_RES.BUSY x.val
    = false ∧ u.ackCode x.val = 1 :=
  ⟨{ setAll [(F.MDR_SITE_CMD_RES.BUSY, 0, 0), (F.DEV_STATE.STATE, 0, 4), (F.MDR_SITE_STATE.STATE, 0, 6)] with rings := [(0, { cur := some (cmdOf 3 0 0 0) })] },
    _, 0, cmdOf 3 0 0 0, rfl, by decide +kernel⟩

theorem witness_RingOpComplete_5 : ∃ (s u : State) (x : Site) (c : _), u = s.elapse 0 ∧ u.opOf x.val 4 = some c ∧ u.flag F.MDR_SITE_CMD_RES.BUSY x.val
    = false ∧ u.resetCode x.val = 1 :=
  ⟨{ setAll [(F.MDR_SITE_CMD_RES.BUSY, 0, 0), (F.DEV_STATE.STATE, 0, 4), (F.MDR_SITE_STATE.STATE, 0, 7)] with rings := [(0, { cur := some (cmdOf 4 0 0 0) })] },
    _, 0, cmdOf 4 0 0 0, rfl, by decide +kernel⟩

theorem witness_RingOpComplete_6 : ∃ (s u : State) (x : Site) (c : _), u = s.elapse 0 ∧ u.opOf x.val 5 = some c ∧ ((u.siteState x.val = 1 ∨
    u.siteState x.val = 6)) :=
  ⟨{ setAll [(F.MDR_SITE_STATE.STATE, 0, 1), (F.DEV_STATE.STATE, 0, 4)] with rings := [(0, { cur := some (cmdOf 5 0 0 0) })] }, _, 0, cmdOf 5 0 0 0,
    rfl, by decide +kernel⟩

theorem witness_RingOpComplete_7 : ∃ (s u : State) (x : Site) (c : _), u = s.elapse 0 ∧ u.opOf x.val 5 = some c ∧ (¬ (u.siteState x.val = 1 ∨
    u.siteState x.val = 6)) :=
  ⟨{ setAll [(F.DEV_STATE.STATE, 0, 4), (F.MDR_SITE_STATE.STATE, 0, 2)] with rings := [(0, { cur := some (cmdOf 5 0 0 0) })] }, _, 0, cmdOf 5 0 0 0,
    rfl, by decide +kernel⟩

theorem witness_RingOpComplete_8 : ∃ (s u : State) (x : Site) (c : _), u = s.elapse 0 ∧ u.opOf x.val 6 = some c :=
  ⟨{ setAll [(F.DEV_STATE.STATE, 0, 4)] with rings := [(0, { cur := some (cmdOf 6 0 0 0) })] }, _, 0, cmdOf 6 0 0 0, rfl, by decide +kernel⟩

theorem witness_RingOpComplete_9 : ∃ (s u : State) (x : Site) (c : _), u = s.elapse 0 ∧ u.opOf x.val 7 = some c :=
  ⟨{ setAll [(F.DEV_STATE.STATE, 0, 4)] with rings := [(0, { cur := some (cmdOf 7 0 0 0) })] }, _, 0, cmdOf 7 0 0 0, rfl, by decide +kernel⟩

theorem witness_RingOpComplete_10 : ∃ (s u : State) (x : Site) (c : _), u = s.elapse 0 ∧ u.opOf x.val 8 = some c :=
  ⟨{ setAll [(F.DEV_STATE.STATE, 0, 4)] with rings := [(0, { cur := some (cmdOf 8 0 0 0) })] }, _, 0, cmdOf 8 0 0 0, rfl, by decide +kernel⟩

theorem witness_RingOpComplete_11 : ∃ (s u : State) (x : Site) (c : _), u = s.elapse 0 ∧ u.opOf x.val 9 = some c :=
  ⟨{ setAll [(F.DEV_STATE.STATE, 0, 4)] with rings := [(0, { cur := some (cmdOf 9 0 0 0) })] }, _, 0, cmdOf 9 0 0 0, rfl, by decide +kernel⟩

theorem witness_RingOpComplete_12 : ∃ (s u : State) (x : Site) (c : _) (v : _), u = s.elapse 0 ∧ u.opOf x.val 10 = some c ∧ ((u.siteState x.val = 1 ∨
    u.siteState x.val = 6)) ∧ ((u.get F.SVC_PLAN_STAT.STATE x.val = 0 ∨ u.get F.SVC_PLAN_STAT.STATE x.val = 1 ∨ u.get F.SVC_PLAN_STAT.STATE x.val =
    5)) ∧ u.tableAt x.val c = some v :=
  ⟨{ setAll [(F.MDR_SITE_STATE.STATE, 0, 1), (F.SVC_PLAN_STAT.STATE, 0, 0), (F.DEV_STATE.STATE, 0, 4), (F.DMC_REGION.TYPE, 0, 1), (F.DMC_REGION.SIZE_MIB, 0, 1)] with rings := [(0, { cur := some (cmdOf 10 0 48 0) })], dram := [(0, 4), (4, 40)], dramZero := [(0, 4096)] },
    _, 0, cmdOf 10 0 48 0, ⟨4, 0, List.replicate 40 0⟩, rfl, by decide +kernel⟩

theorem witness_RingOpComplete_13 : ∃ (s u : State) (x : Site) (c : _), u = s.elapse 0 ∧ u.opOf x.val 10 = some c ∧ ((u.siteState x.val = 1 ∨
    u.siteState x.val = 6)) ∧ ((u.get F.SVC_PLAN_STAT.STATE x.val = 0 ∨ u.get F.SVC_PLAN_STAT.STATE x.val = 1 ∨ u.get F.SVC_PLAN_STAT.STATE x.val =
    5)) ∧ u.tableAt x.val c = none :=
  ⟨{ setAll [(F.MDR_SITE_STATE.STATE, 0, 1), (F.SVC_PLAN_STAT.STATE, 0, 0), (F.DEV_STATE.STATE, 0, 4)] with rings := [(0, { cur := some (cmdOf 10 0 0 0) })] },
    _, 0, cmdOf 10 0 0 0, rfl, by decide +kernel⟩

theorem witness_RingOpComplete_14 : ∃ (s u : State) (m : Fin 16) (data : List Byte) (c : _), u = s.elapse 0 ∧ u.nvmTurn m.val 1 = some c ∧ data.length
    = c.arg 2 :=
  ⟨{ setAll [(F.DEV_STATE.STATE, 0, 4)] with rings := [(271, { cur := some (cmdOf 1 0 0 4) })], nvm := [(15, 0)] }, _, 15, List.replicate 4 0, cmdOf 1 0
    0 4, rfl, by decide +kernel⟩

theorem witness_RingOpComplete_15 : ∃ (s u : State) (m : Fin 16) (n : Nat) (c : _), u = s.elapse 0 ∧ u.nvmTurn m.val 2 = some c ∧ n ≤ c.arg 2 ∧ n %
    4096 = 0 :=
  ⟨{ setAll [(F.DEV_STATE.STATE, 0, 4)] with rings := [(271, { cur := some (cmdOf 2 0 0 4096) })], nvm := [(15, 0)] }, _, 15, 4096, cmdOf 2 0 0 4096,
    rfl, by decide +kernel⟩

theorem witness_RingOpComplete_16 : ∃ (s u : State) (m : Fin 16) (n : Nat) (c : _), u = s.elapse 0 ∧ u.nvmTurn m.val 3 = some c ∧ n ≤ c.arg 2 ∧ n %
    256 = 0 ∧ u.ptrOk (c.arg 1) n = true :=
  ⟨{ setAll [(F.DEV_STATE.STATE, 0, 4), (F.DMC_REGION.TYPE, 0, 1), (F.DMC_REGION.SIZE_MIB, 0, 1)] with rings := [(271, { cur := some (cmdOf 3 0 0 256) })], nvm := [(15, 0)] },
    _, 15, 256, cmdOf 3 0 0 256, rfl, by decide +kernel⟩

theorem witness_RingOpComplete_17 : ∃ (s u : State) (m : Fin 16) (c : _), u = s.elapse 0 ∧ u.opOf (256 + m.val) 4 = some c ∧ u.todOk (c.arg 0) = true
    :=
  ⟨{ setAll [(F.DEV_STATE.STATE, 0, 4)] with rings := [(271, { cur := some (cmdOf 4 0 0 0) })] }, _, 15, cmdOf 4 0 0 0, rfl, by decide +kernel⟩

theorem witness_RingOpComplete_18 : ∃ (s u : State) (m : Fin 16) (c : _), u = s.elapse 0 ∧ u.opOf (256 + m.val) 4 = some c ∧ u.todOk (c.arg 0) = false
    :=
  ⟨{ setAll [(F.DEV_STATE.STATE, 0, 4), (F.UMB_CFG.SRC, 0, 3)] with rings := [(271, { cur := some (cmdOf 4 0 0 0) })] }, _, 15, cmdOf 4 0 0 0, rfl,
    by decide +kernel⟩

theorem witness_RingOpComplete_19 : ∃ (s u : State) (m : Fin 16) (c : _), u = s.elapse 0 ∧ u.opOf (256 + m.val) 5 = some c ∧ u.todOk (wrap64 (u.get
    F.UMB_TOD_OFFSET.OFFSET 0 + c.arg 0 * 8000000000000)) = true :=
  ⟨{ setAll [(F.DEV_STATE.STATE, 0, 4)] with rings := [(271, { cur := some (cmdOf 5 0 0 0) })] }, _, 15, cmdOf 5 0 0 0, rfl, by decide +kernel⟩

/-! #### MailboxComplete -/

theorem witness_MailboxComplete_1 : ∃ (s u : State) (a : Agent) (n : Fin 64), u = s.elapse 0 ∧ u.reaches a .MBX_DATA = true ∧ mbxOpen n.val a = true ∧
    mbxSends n.val a = true ∧ u.flag F.MBX_STAT.FULL n.val = false :=
  ⟨setAll [(F.DEV_STATE.STATE, 0, 4), (F.MBX_STAT.FULL, 62, 0)], _, .core 15, 62, rfl, by decide +kernel⟩

theorem witness_MailboxComplete_2 : ∃ (s u : State) (a : Agent) (n : Fin 64), u = s.elapse 0 ∧ u.reaches a .MBX_DATA = true ∧ mbxOpen n.val a = true ∧
    mbxSends n.val a = true ∧ u.flag F.MBX_STAT.FULL n.val = true :=
  ⟨setAll [(F.DEV_STATE.STATE, 0, 4), (F.MBX_STAT.FULL, 62, 1)], _, .core 15, 62, rfl, by decide +kernel⟩

theorem witness_MailboxComplete_3 : ∃ (s u : State) (a : Agent) (n : Fin 64), u = s.elapse 0 ∧ u.reaches a .MBX_DOORBELL = true ∧ mbxOpen n.val a =
    true ∧ mbxSends n.val a = true ∧ u.flag F.MBX_STAT.FULL n.val = false ∧ u.resetNowBy a.num = false :=
  ⟨setAll [(F.DEV_STATE.STATE, 0, 4), (F.MBX_STAT.FULL, 62, 0)], _, .core 15, 62, rfl, by decide +kernel⟩

theorem witness_MailboxComplete_4 : ∃ (s u : State) (a : Agent) (n : Fin 64), u = s.elapse 0 ∧ u.reaches a .MBX_DOORBELL = true ∧ mbxOpen n.val a =
    true ∧ mbxSends n.val a = true ∧ u.flag F.MBX_STAT.FULL n.val = true ∧ (u.get F.MBX_POST_DT.DT n.val ≠ u.now ∨ u.get F.MBX_STAT.SENDER n.val ≤
    a.num) :=
  ⟨setAll [(F.DEV_STATE.STATE, 0, 4), (F.MBX_STAT.FULL, 62, 1)], _, .core 15, 62, rfl, by decide +kernel⟩

theorem witness_MailboxComplete_5 : ∃ (s u : State) (a : Agent) (n : Fin 64), u = s.elapse 0 ∧ u.reaches a .MBX_DOORBELL = true ∧ mbxOpen n.val a =
    true ∧ mbxSends n.val a = true ∧ u.flag F.MBX_STAT.FULL n.val = true ∧ u.get F.MBX_POST_DT.DT n.val = u.now ∧ a.num < u.get F.MBX_STAT.SENDER
    n.val :=
  ⟨setAll [(F.DEV_STATE.STATE, 0, 4), (F.MBX_STAT.FULL, 62, 1), (F.MBX_STAT.SENDER, 62, 63)], _, .core 15, 62, rfl, by decide +kernel⟩

theorem witness_MailboxComplete_6 : ∃ (s u : State) (a : Agent) (n : Fin 64), u = s.elapse 0 ∧ u.reaches a .MBX_DOORBELL = true ∧ mbxOpen n.val a =
    true ∧ mbxSends n.val a = false :=
  ⟨setAll [(F.DEV_STATE.STATE, 0, 4)], _, .pf0, 62, rfl, by decide +kernel⟩

theorem witness_MailboxComplete_7 : ∃ (s u : State) (a : Agent) (n : Fin 64), u = s.elapse 0 ∧ u.reaches a .MBX_TAKE = true ∧ mbxOpen n.val a = true ∧
    mbxTakes n.val a = true ∧ u.flag F.MBX_STAT.FULL n.val = true ∧ n.val ≠ 0 :=
  ⟨setAll [(F.DEV_STATE.STATE, 0, 4), (F.MBX_STAT.FULL, 63, 1)], _, .core 15, 63, rfl, by decide +kernel⟩

theorem witness_MailboxComplete_8 : ∃ (s u : State) (a : Agent) (n : Fin 64), u = s.elapse 0 ∧ u.reaches a .MBX_TAKE = true ∧ mbxOpen n.val a = true ∧
    mbxTakes n.val a = true ∧ u.flag F.MBX_STAT.FULL n.val = true ∧ n.val = 0 :=
  ⟨setAll [(F.DEV_STATE.STATE, 0, 4), (F.MBX_STAT.FULL, 0, 1)], _, .pf1, 0, rfl, by decide +kernel⟩

theorem witness_MailboxComplete_9 : ∃ (s u : State) (a : Agent) (n : Fin 64), u = s.elapse 0 ∧ u.reaches a .MBX_LOCK = true ∧ mbxOpen n.val a = true ∧
    u.get F.MBX_LOCK.OWNER n.val = 0 :=
  ⟨setAll [(F.DEV_STATE.STATE, 0, 4), (F.MBX_LOCK.OWNER, 0, 0)], _, .pf1, 0, rfl, by decide +kernel⟩

theorem witness_MailboxComplete_10 : ∃ (s u : State) (a : Agent) (n : Fin 64), u = s.elapse 0 ∧ u.reaches a .MBX_LOCK = true ∧ mbxOpen n.val a = true
    ∧ u.get F.MBX_LOCK.OWNER n.val ≠ 0 :=
  ⟨setAll [(F.DEV_STATE.STATE, 0, 4), (F.MBX_LOCK.OWNER, 0, 1)], _, .pf1, 0, rfl, by decide +kernel⟩

theorem witness_MailboxComplete_11 : ∃ (s u : State) (a : Agent) (n : Fin 64) (v : Byte), u = s.elapse 0 ∧ u.reaches a .MBX_LOCK = true ∧ mbxOpen
    n.val a = true ∧ u.get F.MBX_LOCK.OWNER n.val ≠ 0 ∧ u.get F.MBX_LOCK.OWNER n.val = v.toNat ∧ ((a.num = v.toNat ∨ a = .pf1)) :=
  ⟨setAll [(F.DEV_STATE.STATE, 0, 4), (F.MBX_LOCK.OWNER, 0, 1)], _, .pf1, 0, 1, rfl, by decide +kernel⟩

theorem witness_MailboxComplete_12 : ∃ (s u : State), u = s.elapse 0 ∧ u.reaches .pf1 .PCI_KEY_CMD = true :=
  ⟨setAll [(F.DEV_STATE.STATE, 0, 4)], _, rfl, by decide +kernel⟩

theorem witness_MailboxComplete_13 : ∃ (s u : State), u = s.elapse 0 ∧ u.reaches .pf1 .PCI_KEY_CMD = true ∧ u.siteState (u.get F.PCI_KEY_SEL.SITE 0) ≠
    0 ∧ ((u.get F.PCI_KEY_SEL.KIND 0 = 1 ∨ u.get F.PCI_KEY_SEL.KIND 0 = 2)) :=
  ⟨setAll [(F.DEV_STATE.STATE, 0, 4), (F.PCI_KEY_SEL.KIND, 0, 2), (F.MDR_SITE_STATE.STATE, 0, 1)], _, rfl, by decide +kernel⟩

/-! #### ArithmeticRule -/

theorem witness_ArithmeticRule_1 : ∃ (s u : State) (x : Site) (w : Nat) (a : Nat) (b : Nat), u = s.elapse 0 ∧ a = u.gr x.val (regA w) ∧ u.runsWord
    x.val 0x32 w = true ∧ b = u.gr x.val (regB w) :=
  ⟨{ setAll [(F.MDR_SITE_STATE.STATE, 0, 2), (F.MDR_STEP_STAT.STATE, 0, 1), (F.MDR_STEP_G.VALUE, 1, 18446744073709551615), (F.MDR_STEP_G.VALUE, 0, 1)] with ctxs := [(0, { words := 1, lines := [(0, [0x3200000000000001])] })] },
    _, 0, 0x3200000000000001, 18446744073709551615, 1, rfl, by decide +kernel⟩

theorem witness_ArithmeticRule_2 : ∃ (s u : State) (x : Site) (w : Nat) (a : Nat) (b : Nat), u = s.elapse 0 ∧ a = u.gr x.val (regA w) ∧ u.runsWord
    x.val 0x33 w = true ∧ b = u.gr x.val (regB w) ∧ a < 2 ^ 64 ∧ b < 2 ^ 64 :=
  ⟨{ setAll [(F.MDR_SITE_STATE.STATE, 0, 2), (F.MDR_STEP_STAT.STATE, 0, 1), (F.MDR_STEP_G.VALUE, 1, 18446744073709551615), (F.MDR_STEP_G.VALUE, 0, 1)] with ctxs := [(0, { words := 1, lines := [(0, [0x3300000000000010])] })] },
    _, 0, 0x3300000000000010, 1, 18446744073709551615, rfl, by decide +kernel⟩

theorem witness_ArithmeticRule_3 : ∃ (s u : State) (x : Site) (w : Nat) (a : Nat) (b : Nat), u = s.elapse 0 ∧ a = u.gr x.val (regA w) ∧ u.runsWord
    x.val 0x31 w = true ∧ b = imm40 w ∧ flagOf w 1 = false :=
  ⟨{ setAll [(F.MDR_SITE_STATE.STATE, 0, 2), (F.MDR_STEP_STAT.STATE, 0, 1), (F.MDR_STEP_G.VALUE, 1, 18446744073709551615), (F.MDR_STEP_G.VALUE, 0, 1)] with ctxs := [(0, { words := 1, lines := [(0, [0x3100000000000101])] })] },
    _, 0, 0x3100000000000101, 18446744073709551615, 1, rfl, by decide +kernel⟩

theorem witness_ArithmeticRule_4 : ∃ (s u : State) (x : Site) (w : Nat) (a : Nat) (b : Nat), u = s.elapse 0 ∧ a = u.gr x.val (regA w) ∧ u.runsWord
    x.val 0x31 w = true ∧ b = imm40 w ∧ flagOf w 1 = true ∧ a < 2 ^ 64 :=
  ⟨{ setAll [(F.MDR_SITE_STATE.STATE, 0, 2), (F.MDR_STEP_STAT.STATE, 0, 1), (F.MDR_STEP_G.VALUE, 1, 18446744073709551615), (F.MDR_STEP_G.VALUE, 0, 1)] with ctxs := [(0, { words := 1, lines := [(0, [0x3102000000000201])] })] },
    _, 0, 0x3102000000000201, 18446744073709551615, 2, rfl, by decide +kernel⟩

theorem witness_ArithmeticRule_5 : ∃ (s u : State) (x : Site) (w : Nat) (a : Nat), u = s.elapse 0 ∧ a = u.gr x.val (regA w) ∧ u.runsWord x.val 0x23 w
    = true ∧ a = 0 :=
  ⟨{ setAll [(F.MDR_SITE_STATE.STATE, 0, 2), (F.MDR_STEP_STAT.STATE, 0, 1)] with ctxs := [(0, { words := 1, lines := [(0, [0x2300000000000000])] })] },
    _, 0, 0x2300000000000000, 0, rfl, by decide +kernel⟩

/-! #### BusyRule -/

theorem witness_BusyRule_1 : ∃ (s u : State) (x : Site) (c : Instr), u = s.elapse 0 ∧ u.flag F.MDR_SITE_CMD_RES.BUSY x.val = true ∧ c = .siteAbort 0 x
    :=
  ⟨setAll [(F.MDR_SITE_CMD_RES.BUSY, 255, 1)], _, 255, .siteAbort 0 255, rfl, by decide +kernel⟩

theorem witness_BusyRule_2 : ∃ (s u : State) (x : Site), u = s.elapse 0 ∧ u.flag F.MDR_SITE_CMD_RES.BUSY x.val = false :=
  ⟨setAll [(F.MDR_SITE_CMD_RES.BUSY, 255, 0)], _, 255, rfl, by decide +kernel⟩

/-! #### DeviceTimeRule -/

theorem witness_DeviceTimeRule_1 : ∃ (s u : State), u = s.elapse 0 ∧ s.pwr.vauxGood = true :=
  ⟨setAll [(F.UMB_DT.DT, 0, 18446744073709551615)], _, rfl, by decide +kernel⟩

theorem witness_DeviceTimeRule_2 : ∃ (s u : State) (a : Nat) (b : Nat), u = s.elapse 0 ∧ a < 2 ^ 64 ∧ b < 2 ^ 64 :=
  ⟨setAll [], _, 9223372036854775808, 0, rfl, by decide +kernel⟩

/-! #### ClaimTakesBest -/

theorem witness_ClaimTakesBest_1 : ∃ (s u : State) (a : Agent) (x : Fin 56) (m : Nat), u = s.elapse 0 ∧ u.reaches a .IRC_CLAIM = true ∧ slotOpen a
    x.val = true ∧ m < 1977 ∧ u.deliverable m = true ∧ u.serves m x.val = true :=
  ⟨setAll [(F.DEV_STATE.STATE, 0, 4), (F.IRC_PEND.SRC, 61, 16777216), (F.IRC_MASK.SRC, 61, 0), (F.IRC_SRC.TARGETS, 1976, 32768)], _, .core 15, 15, 1976,
    rfl, by decide +kernel⟩

theorem witness_ClaimTakesBest_2 : ∃ (s u : State) (a : Agent) (x : Fin 56), u = s.elapse 0 ∧ u.reaches a .IRC_CLAIM = true ∧ slotOpen a x.val = true
    ∧ (∀ m, m < 1977 → ¬ (u.deliverable m = true ∧ u.serves m x.val = true)) :=
  ⟨setAll [(F.DEV_STATE.STATE, 0, 4)], _, .core 15, 47, rfl, by decide +kernel⟩

theorem witness_ClaimTakesBest_3 : ∃ (s u : State) (a : Agent) (x : Fin 56), u = s.elapse 0 ∧ u.reaches a .IRC_CLAIM = true ∧ slotOpen a x.val = false
    :=
  ⟨setAll [(F.DEV_STATE.STATE, 0, 4)], _, .pf0, 55, rfl, by decide +kernel⟩

theorem witness_ClaimTakesBest_4 : ∃ (s u : State) (a : Agent) (x : Fin 56), u = s.elapse 0 ∧ u.reaches a .IRC_CLAIM = true ∧ x.val < 16 ∧ slotOpen a
    x.val = true :=
  ⟨setAll [(F.DEV_STATE.STATE, 0, 4)], _, .core 15, 15, rfl, by decide +kernel⟩

/-! #### HoldOffRule -/

theorem witness_HoldOffRule_1 : ∃ (s u : State) (a : Agent) (x : Fin 56) (n : Nat), u = s.elapse 0 ∧ slotOpen a x.val = true ∧ u.reaches a .IRC_CLAIM
    = true ∧ u.bestSource x.val = some n ∧ u.get F.IRC_HOLDOFF.STEPS (n / 64) ≠ 0 :=
  ⟨setAll [(F.DEV_STATE.STATE, 0, 4), (F.IRC_PEND.SRC, 61, 16777216), (F.IRC_MASK.SRC, 61, 0), (F.IRC_SRC.TARGETS, 1976, 32768), (F.IRC_HOLDOFF.STEPS, 30, 1)],
    _, .core 15, 15, 1976, rfl, by decide +kernel⟩

theorem witness_HoldOffRule_2 : ∃ (s u : State) (a : Agent) (x : Fin 56) (n : Nat), u = s.elapse 0 ∧ slotOpen a x.val = true ∧ u.reaches a .IRC_CLAIM
    = true ∧ u.bestSource x.val = some n ∧ u.get F.IRC_HOLDOFF.STEPS (n / 64) = 0 :=
  ⟨setAll [(F.DEV_STATE.STATE, 0, 4), (F.IRC_PEND.SRC, 61, 16777216), (F.IRC_MASK.SRC, 61, 0), (F.IRC_SRC.TARGETS, 1976, 32768), (F.IRC_HOLDOFF.STEPS, 30, 0)],
    _, .core 15, 15, 1976, rfl, by decide +kernel⟩

theorem witness_HoldOffRule_3 : ∃ (s u : State) (g : Group) (m : Nat), u = s.elapse 0 ∧ u.get F.IRC_HOLDOFF.ACTIVE g.val = 1 ∧ u.dev ≠ 6 ∧ u.reached
    (Tab.get 0 u.irc.holdUntil g.val) = true ∧ m / 64 = g.val ∧ u.mapBit F.IRC_PEND.SRC 0 m = true ∧ u.mapBit F.IRC_MASK.SRC 0 m = false :=
  ⟨setAll [(F.DEV_STATE.STATE, 0, 4), (F.IRC_HOLDOFF.ACTIVE, 63, 1), (F.IRC_PEND.SRC, 127, 2147483648), (F.IRC_MASK.SRC, 127, 0)], _, 63, 4095, rfl,
    by decide +kernel⟩

/-! #### CompletionRule -/

theorem witness_CompletionRule_1 : ∃ (s u : State) (a : Agent) (x : Fin 56) (n : Fin 4096), u = s.elapse 0 ∧ u.reaches a .IRC_COMPLETE = true ∧
    ((x.val < 48 ∨ a = .pf1)) ∧ Tab.get 0 u.irc.holder n.val = x.val + 1 ∧ u.edgeSource n.val = true :=
  ⟨{ setAll [(F.DEV_STATE.STATE, 0, 4)] with irc := { holder := [(1, 48)] } }, _, .pf0, 47, 1, rfl, by decide +kernel⟩

theorem witness_CompletionRule_2 : ∃ (s u : State) (a : Agent) (x : Fin 56) (n : Fin 4096), u = s.elapse 0 ∧ u.reaches a .IRC_COMPLETE = true ∧
    ((x.val < 48 ∨ a = .pf1)) ∧ Tab.get 0 u.irc.holder n.val = x.val + 1 ∧ u.edgeSource n.val = false :=
  ⟨{ setAll [(F.DEV_STATE.STATE, 0, 4)] with irc := { holder := [(0, 56)] } }, _, .pf1, 55, 0, rfl, by decide +kernel⟩

theorem witness_CompletionRule_3 : ∃ (s u : State) (a : Agent) (x : Fin 56) (n : Fin 4096), u = s.elapse 0 ∧ u.reaches a .IRC_COMPLETE = true ∧
    ((x.val < 48 ∨ a = .pf1)) ∧ Tab.get 0 u.irc.holder n.val ≠ x.val + 1 :=
  ⟨{ setAll [(F.DEV_STATE.STATE, 0, 4)] with irc := { holder := [(1, 48)] } }, _, .pf1, 48, 1, rfl, by decide +kernel⟩

theorem witness_CompletionRule_4 : ∃ (s u : State) (n : Fin 4096), u = s.elapse 0 ∧ pulseSource n.val = true ∧ u.irc.pulses.contains n.val = true ∧
    u.dev ≠ 6 ∧ (if u.mapBit F.IRC_CLAIMED.SRC 0 n.val then Tab.get 0 u.irc.latched n.val = 1 else u.mapBit F.IRC_PEND.SRC 0 n.val = true) :=
  ⟨{ setAll [(F.DEV_STATE.STATE, 0, 0), (F.IRC_CLAIMED.SRC, 61, 16777216)] with irc := { pulses := [1976], latched := [(1976, 1)] } }, _, 1976, rfl,
    by decide +kernel⟩

theorem witness_CompletionRule_5 : ∃ (s u : State) (n : Fin 4096), u = s.elapse 0 ∧ u.edgeSource n.val = true ∧ pulseSource n.val = false ∧
    u.lineLevel n.val = true ∧ Tab.get 0 u.irc.lineWas n.val = 0 ∧ u.dev ≠ 6 ∧ (if u.mapBit F.IRC_CLAIMED.SRC 0 n.val then Tab.get 0 u.irc.latched
    n.val = 1 else u.mapBit F.IRC_PEND.SRC 0 n.val = true) :=
  ⟨setAll [(F.DEV_STATE.STATE, 0, 0), (F.SEP_CAP_RING_WR.POS, 255, 1), (F.IRC_SRC.EDGE, 936, 1), (F.IRC_PEND.SRC, 29, 256)], _, 936, rfl,
    by decide +kernel⟩

/-! #### LockRule -/

theorem witness_LockRule_1 : ∃ (s u : State) (a : Agent) (n : Fin 64) (h : Nat), u = s.elapse 0 ∧ u.reaches a .MBX_LOCK = true ∧ mbxOpen n.val a =
    true ∧ h = u.get F.MBX_LOCK.OWNER n.val ∧ h = 0 :=
  ⟨setAll [(F.DEV_STATE.STATE, 0, 4)], _, .core 15, 63, 0, rfl, by decide +kernel⟩

theorem witness_LockRule_2 : ∃ (s u : State) (a : Agent) (n : Fin 64) (h : Nat), u = s.elapse 0 ∧ u.reaches a .MBX_LOCK = true ∧ mbxOpen n.val a =
    true ∧ h = u.get F.MBX_LOCK.OWNER n.val ∧ h ≠ 0 :=
  ⟨setAll [(F.DEV_STATE.STATE, 0, 4), (F.MBX_LOCK.OWNER, 63, 1)], _, .core 15, 63, 1, rfl, by decide +kernel⟩

theorem witness_LockRule_3 : ∃ (s u : State) (a : Agent) (n : Fin 64) (h : Nat) (v : Byte), u = s.elapse 0 ∧ u.reaches a .MBX_LOCK = true ∧ mbxOpen
    n.val a = true ∧ h = u.get F.MBX_LOCK.OWNER n.val ∧ h ≠ 0 ∧ v.toNat = h ∧ ((a.num = h ∨ a = .pf1)) :=
  ⟨setAll [(F.DEV_STATE.STATE, 0, 4), (F.MBX_LOCK.OWNER, 63, 47)], _, .core 15, 63, 0x2F, 0x2F, rfl, by decide +kernel⟩

theorem witness_LockRule_4 : ∃ (s u : State) (a : Agent) (n : Fin 64) (h : Nat) (v : Byte), u = s.elapse 0 ∧ u.reaches a .MBX_LOCK = true ∧ mbxOpen
    n.val a = true ∧ h = u.get F.MBX_LOCK.OWNER n.val ∧ ((h = 0 ∨ v.toNat ≠ h ∨ (a.num ≠ h ∧ a ≠ .pf1))) :=
  ⟨setAll [(F.DEV_STATE.STATE, 0, 4), (F.MBX_LOCK.OWNER, 63, 46)], _, .core 15, 63, 0x2E, 0x2E, rfl, by decide +kernel⟩

theorem witness_LockRule_5 : ∃ (s u : State) (a : Agent) (n : Fin 64) (h : Nat), u = s.elapse 0 ∧ u.reaches a .MBX_LOCK = true ∧ mbxOpen n.val a =
    true ∧ h = u.get F.MBX_LOCK.OWNER n.val ∧ u.reaches a .MBX_DOORBELL = true ∧ mbxSends n.val a = true ∧ u.flag F.MBX_STAT.FULL n.val = false :=
  ⟨setAll [(F.MBX_STAT.FULL, 62, 0), (F.DEV_STATE.STATE, 0, 4), (F.MBX_LOCK.OWNER, 62, 1)], _, .core 15, 62, 1, rfl, by decide +kernel⟩

/-! #### HandoverRule -/

theorem witness_HandoverRule_1 : ∃ (s u : State) (a : Agent) (b : Bank) (v : Byte), u = s.elapse 0 ∧ u.reaches a .LAK_OWNER = true ∧ ((u.owner b.val =
    a.num ∨ a = .pf1)) ∧ u.owner b.val ≠ 0x3F ∧ ((v.toNat = 1 ∨ v.toNat = 2 ∨ (0x20 ≤ v.toNat ∧ v.toNat ≤ 0x2F))) :=
  ⟨setAll [(F.DEV_STATE.STATE, 0, 4), (F.LAK_OWNER.OWNER, 63, 1)], _, .pf0, 63, 0x2F, rfl, by decide +kernel⟩

theorem witness_HandoverRule_2 : ∃ (s u : State) (a : Agent) (b : Bank) (v : Byte), u = s.elapse 0 ∧ u.reaches a .LAK_OWNER = true ∧ (((u.owner b.val
    ≠ a.num ∧ a ≠ .pf1) ∨ ¬ (v.toNat = 1 ∨ v.toNat = 2 ∨ (0x20 ≤ v.toNat ∧ v.toNat ≤ 0x2F)) ∨ u.owner b.val = 0x3F)) :=
  ⟨setAll [(F.DEV_STATE.STATE, 0, 4), (F.LAK_OWNER.OWNER, 63, 2)], _, .pf0, 63, 0x2F, rfl, by decide +kernel⟩

/-! #### LakeBytes -/

theorem witness_LakeBytes_1 : ∃ (s u : State) (a : Agent) (addr : Fin 33554432) (data : List (Option Byte)) (c : Instr) (v : Byte), u = s.elapse 0 ∧
    u.lakeOpen a = true ∧ c = .lakeWrite 0 a addr data [] ∧ data.getD 0 none = some v ∧ addr.val + 0 < 33554432 ∧ u.bankTakes a (bankOf (addr.val +
    0)) = true :=
  ⟨setAll [(F.DEV_STATE.STATE, 0, 4), (F.LAK_OWNER.OWNER, 63, 2), (F.LAK_STATE.CUR, 63, 2)], _, .pf1, 33554431, [some 1], .lakeWrite 0 .pf1 33554431
    [some 1] [], 1, rfl, by decide +kernel⟩

theorem witness_LakeBytes_2 : ∃ (s u : State) (a : Agent) (addr : Fin 33554432) (data : List (Option Byte)) (c : Instr) (v : Byte), u = s.elapse 0 ∧
    u.lakeOpen a = true ∧ c = .lakeSetWrite 0 a addr data ∧ data.getD 0 none = some v ∧ addr.val + 0 < 33554432 ∧ u.bankTakes a (bankOf (addr.val +
    0)) = true :=
  ⟨setAll [(F.DEV_STATE.STATE, 0, 4), (F.LAK_OWNER.OWNER, 63, 2), (F.LAK_STATE.CUR, 63, 2)], _, .pf1, 33554431, [some 1], .lakeSetWrite 0 .pf1 33554431
    [some 1], 1, rfl, by decide +kernel⟩

theorem witness_LakeBytes_3 : ∃ (s u : State) (a : Agent) (addr : Fin 33554432) (data : List (Option Byte)) (c : Instr) (v : Byte), u = s.elapse 0 ∧
    u.lakeOpen a = true ∧ c = .lakeClearWrite 0 a addr data ∧ data.getD 0 none = some v ∧ addr.val + 0 < 33554432 ∧ u.bankTakes a (bankOf (addr.val +
    0)) = true :=
  ⟨setAll [(F.DEV_STATE.STATE, 0, 4), (F.LAK_OWNER.OWNER, 63, 2), (F.LAK_STATE.CUR, 63, 2)], _, .pf1, 33554431, [some 1], .lakeClearWrite 0 .pf1
    33554431 [some 1], 1, rfl, by decide +kernel⟩

/-! #### DramBytes -/

theorem witness_DramBytes_1 : ∃ (s u : State) (f : Func) (addr : Fin 137438953472) (data : List (Option Byte)) (v : Byte), u = s.elapse 0 ∧ u.dramOpen
    f addr.val data.length = true ∧ u.dramDead = false ∧ data.getD 0 none = some v ∧ u.dramBad = [] ∧ u.wordRegion (8 * ((addr.val + 0) / 8)) ≠ 0 :=
  ⟨setAll [(F.DEV_STATE.STATE, 0, 4), (F.DMC_REGION.TYPE, 0, 1), (F.DMC_REGION.SIZE_MIB, 0, 1)], _, .pf0, 0, [some 1], 1, rfl, by decide +kernel⟩

/-! #### ClosedMemory -/

theorem witness_ClosedMemory_1 : ∃ (s u : State), u = s.elapse 0 ∧ u.dev ≠ 4 ∧ u.dev ≠ 5 :=
  ⟨setAll [(F.DEV_STATE.STATE, 0, 6)], _, rfl, by decide +kernel⟩

/-! #### PagePolicy -/

theorem witness_PagePolicy_2 : ∃ (s u : State) (f : Func) (addr : Fin 137438953472) (data : List (Option Byte)), u = s.elapse 0 ∧ u.dramOpen f
    addr.val data.length = true :=
  ⟨setAll [(F.DEV_STATE.STATE, 0, 5)], _, .pf0, 137438953471, [some 1], rfl, by decide +kernel⟩

theorem witness_PagePolicy_3 : ∃ (s u : State) (c : Fin 8) (b : Fin 64) (d : Nat), u = s.elapse 0 ∧ (u.dramBank (64 * c.val + b.val)).openAt = some d
    :=
  ⟨{ setAll [] with banks := [(511, { openAt := some 0 })] }, _, 7, 63, 0, rfl, by decide +kernel⟩

/-! #### CounterRule -/

theorem witness_CounterRule_2 : ∃ (s u : State) (f : Fld) (o : Fld) (i : Nat) (blk : Nat) (n : Nat), u = s.elapse 0 ∧ f.id ≠ o.id ∧ f.reg ≠ .CIN_SAT ∧
    f.reg ≠ .CIN_FAULT_STAT ∧ o.reg ≠ .CIN_SAT ∧ o.reg ≠ .CIN_FAULT_STAT ∧ o.w = 1 ∧ f.lo < 128 ∧ o.lo < 128 ∧ blk < 28 ∧ u.get f i < 2 ^ f.w - 1 ∧ 2
    ^ f.w - 1 ≤ u.get f i + n :=
  ⟨setAll [(F.MDR_SITE_HOLDS.COUNT, 255, 2 ^ F.MDR_SITE_HOLDS.COUNT.w - 2)], _, F.MDR_SITE_HOLDS.COUNT, F.MDR_SITE_HOLDS.OVF, 255, 27, 1, rfl,
    by decide +kernel⟩

theorem witness_CounterRule_3 : ∃ (s u : State) (f : Fld) (o : Fld) (i : Nat) (blk : Nat) (n : Nat), u = s.elapse 0 ∧ f.id ≠ o.id ∧ f.reg ≠ .CIN_SAT ∧
    f.reg ≠ .CIN_FAULT_STAT ∧ o.reg ≠ .CIN_SAT ∧ o.reg ≠ .CIN_FAULT_STAT ∧ o.w = 1 ∧ f.lo < 128 ∧ o.lo < 128 ∧ blk < 28 ∧ ((2 ^ f.w - 1 ≤ u.get f i ∨
    u.get f i + n < 2 ^ f.w - 1)) :=
  ⟨setAll [], _, F.MDR_SITE_HOLDS.COUNT, F.MDR_SITE_HOLDS.OVF, 255, 27, 1, rfl, by decide +kernel⟩

/-! #### SafeOverlap -/

theorem witness_SafeOverlap_1 : ∃ (s u : State) (v : Word32), u = s.elapse 0 ∧ u.reaches .pf1 .CIN_FORCE = true ∧ v.toNat % 2 = 1 ∧ u.isSafe = false
    :=
  ⟨setAll [(F.CIN_STAT.SAFE, 0, 0), (F.DEV_STATE.STATE, 0, 4)], _, 1, rfl, by decide +kernel⟩

theorem witness_SafeOverlap_2 : ∃ (s u : State) (v : Word32), u = s.elapse 0 ∧ u.reaches .pf1 .CIN_FORCE = true ∧ v.toNat % 2 = 1 ∧ u.isSafe = true ∧
    u.flag F.CIN_STAT.EXIT_PEND 0 = false :=
  ⟨setAll [(F.CIN_STAT.EXIT_PEND, 0, 0), (F.DEV_STATE.STATE, 0, 4), (F.CIN_STAT.SAFE, 0, 1)], _, 1, rfl, by decide +kernel⟩

theorem witness_SafeOverlap_3 : ∃ (s u : State) (v : Word32), u = s.elapse 0 ∧ u.reaches .pf1 .CIN_FORCE = true ∧ v.toNat % 2 = 1 ∧ u.isSafe = true ∧
    u.flag F.CIN_STAT.EXIT_PEND 0 = true ∧ u.safe.exitAt ≠ some (wrap64 (u.now + ns 120)) :=
  ⟨{ setAll [(F.DEV_STATE.STATE, 0, 4), (F.CIN_STAT.SAFE, 0, 1), (F.CIN_STAT.EXIT_PEND, 0, 1)] with safe := { exitAt := some 0 } }, _, 1, rfl,
    by decide +kernel⟩

theorem witness_SafeOverlap_4 : ∃ (s u : State) (v : Word32), u = s.elapse 0 ∧ u.reaches .pf1 .CIN_FORCE = true ∧ v.toNat % 2 = 1 ∧ u.isSafe = true ∧
    u.flag F.CIN_STAT.EXIT_PEND 0 = true ∧ u.safe.exitAt = some (wrap64 (u.now + ns 120)) :=
  ⟨{ setAll [(F.DEV_STATE.STATE, 0, 4), (F.CIN_STAT.SAFE, 0, 1), (F.CIN_STAT.EXIT_PEND, 0, 1)] with safe := { exitAt := some 960000 } }, _, 1, rfl,
    by decide +kernel⟩

/-- Every binding of the last clause but one of VectorComplete: a patch word stands in the routine of the code. -/
theorem witness_VectorComplete_13 : ∃ (s u : State) (sl : SliceNo) (ecc : VecEcc) (c : Instr) (n : Nat), u = s.elapse 0 ∧
    (c, n) ∈ [(.vectorNext 0 sl ecc, 0), (.vectorRepeat 0 sl ecc, 1), (.loopBegin 0 sl ecc, 2), (.loopEnd 0 sl ecc, 3),
      (.matchPass 0 sl ecc, 4), (.altVector 0 sl ecc, 5), (.endVector 0 sl ecc, 6), (.code7 0 sl ecc, 7)] ∧
    u.vectorDue sl.val n = true ∧ u.patchHit n = true :=
  ⟨{ setAll [(F.SMAP_TSLICE.VALID, 0, 1)] with
      slices := [(0, { playing := true, vec := 0, repLeft := 0, checked := some 0 })], grans := [⟨0, 0, 0, 0, [0x7000], 0⟩],
      img := { patchL0 := List.replicate 0x203 0 ++ [0x80] ++ List.replicate 56 0 ++ [0x80, 1, 0, 0x80] } },
    _, 0, ⟨.clean, .clean, []⟩, .code7 0 0 ⟨.clean, .clean, []⟩, 7, rfl, by decide +kernel, by decide +kernel, by decide +kernel⟩

/-- The clause over every number of control code: a slice that is not valid plays nothing. -/
theorem witness_VectorComplete_14 : ∃ (s u : State) (sl : SliceNo), u = s.elapse 0 ∧ ∀ n, u.vectorDue sl.val n = false :=
  ⟨setAll [], _, 0, rfl, fun _ => rfl⟩

/-- A stamp taken at a DT a little later than 0 lies after 0, whatever the free value. -/
theorem stamp_after (f : Nat) : dtReached (wrap64 (10 ^ 12 + 8000 + 2 ^ 64 - f % 24000)) 0 = true := by
  have h := Nat.mod_lt f (show 0 < 24000 by decide)
  have k : wrap64 (10 ^ 12 + 8000 + 2 ^ 64 - f % 24000) = 10 ^ 12 + 8000 - f % 24000 := by unfold wrap64; omega
  have r : wrap64 (10 ^ 12 + 8000 - f % 24000 + 2 ^ 64 - wrap64 0) = 10 ^ 12 + 8000 - f % 24000 := by unfold wrap64; omega
  refine decide_eq_true ?_
  rw [k, dtDiff, r, toInt, if_pos (by omega)]
  omega

/-- The state of the second clause of TriggerComplete: an event row of the sequence that is met by one occurrence. -/
def seqState : State :=
  setAll [(F.SEP_ACQ_CH_STAT.STATE, 0, 2), (F.UMB_DT.DT, 0, 10 ^ 12), (F.SEP_ACQ_CH_SEQ.COND, 7, 4), (F.SEP_ACQ_CH_SEQ.EVCH, 7, 255),
    (F.SEP_ACQ_CH_STAT.SEQ, 0, 7)]

/-- The second clause of TriggerComplete: the occurrence's stamp rests on a free value, and every one of them meets the clause. -/
theorem witness_TriggerComplete_2 : ∃ (s u : State) (ch : Chan) (ev : EvCh), u = s.elapse 0 ∧ u.acqState ch.val = 2 ∧ u.get F.SEP_ACQ_CH_CFG.TYPE ch.val = 0 ∧ u.get F.SEP_ACQ_CH_SEQ.COND
    (8 * ch.val + (u.get F.SEP_ACQ_CH_STAT.SEQ ch.val)) = 4 ∧ u.get F.SEP_ACQ_CH_SEQ.EVCH (8 * ch.val + (u.get F.SEP_ACQ_CH_STAT.SEQ ch.val)) = ev.val
    ∧ (u.acqU ch.val).disarmed (u.stampAt u.now) = false ∧ u.drew.pastTmax ch.val (u.get F.SEP_ACQ_CH_STAT.SEQ ch.val) (u.stampAt u.now) = false ∧
    u.get F.SEP_ACQ_CH_SEQ.COUNT (8 * ch.val + (u.get F.SEP_ACQ_CH_STAT.SEQ ch.val)) ≤ (u.acqU ch.val).count + 1 ∧ (u.get F.SEP_ACQ_CH_SEQ.ON_MATCH (8
    * ch.val + (u.get F.SEP_ACQ_CH_STAT.SEQ ch.val))) ≠ 8 ∧ dtReached (u.stampAt u.now) (wrap64 ((u.acqU ch.val).entry + ns (u.get
    F.SEP_ACQ_CH_TIMER.TMIN (8 * ch.val + (u.get F.SEP_ACQ_CH_STAT.SEQ ch.val))))) = true :=
  ⟨seqState, _, 0, (255 : EvCh), rfl, by decide +kernel, by decide +kernel, by decide +kernel, by decide +kernel, rfl, rfl,
    by decide +kernel, by decide +kernel, stamp_after _⟩

/-- The third and the fourth clause part on a free value: each state with a good supply and a high pin meets one of them. -/
theorem witness_SafeStateComplete_3_4 : ∃ s u : State, u = s.elapse 0 ∧ u.pwr.vauxGood = true ∧ u.pins.safeInHigh = true ∧
    (u.fresh % 2 = 1 ∨ u.fresh % 2 ≠ 1) :=
  ⟨setAll [], _, rfl, by decide +kernel, by decide +kernel, Decidable.em _⟩

/-- A state with a command waiting, and one with none. -/
theorem witness_StepRunsFront : (∃ (s : State) (c : Instr) (r : List Instr), s.pending = c :: r) ∧ ∃ s : State, s.pending = [] :=
  ⟨⟨{ setAll [] with pending := [.evfSwfire 0 1] }, _, _, rfl⟩, setAll [], rfl⟩

/-- A step that answers a next state. -/
theorem witness_StepHistory : ∃ s t : State, Sys2Proof.core.step s = .next t ∧ s.pending ≠ [] :=
  ⟨{ setAll [] with pending := [.evfSwfire 0 1] }, _, rfl, by decide +kernel⟩

/-- A step from a state in canonical form. -/
theorem witness_FormsKept : ∃ s t : State, Sys2Proof.core.step s = .next t ∧ s.regsWf = true ∧ s.memWf = true ∧ s.pending ≠ [] :=
  ⟨{ setAll [] with pending := [.evfSwfire 0 1] }, _, rfl, by decide +kernel, by decide +kernel, by decide +kernel⟩

/-- A command whose row of the table names registers, and a register outside it. -/
theorem witness_Frame : ∃ (c : Instr) (s t : State) (w : Touch) (r : Reg), touches c = some w ∧ exec c s = .next t ∧ r ∉ timeRegs ∧ r ∉ w.regs ∧
    w.mem = false ∧ w.out = false :=
  ⟨.evfSwfire 0 1, setAll [], _, _, .UMB_CFG, rfl, rfl, by decide +kernel, by decide +kernel, rfl, rfl⟩

end Sys2Proof.Tests
end

section
/-! Register accesses of an agent: what a 4-byte read and write do, by what their address reaches (R7, R8, R341, R342), and
the statement about the four register access commands. -/

namespace Sys2Proof.Machine

/-! ### Reads -/

/-- A size that BAR0 refuses reads 0 (R341). -/
theorem State.regRead_of_badSize {off n : Nat} (s : State) (a : Agent) (hsize : sizeOk off n = false) :
    s.regRead a off n = { s.badSize a with readData := 0 } := by
  simp [State.regRead, hsize]

theorem State.regRead_four {off : Nat} (s : State) (a : Agent) (hsize : sizeOk off 4 = true) : s.regRead a off 4 = s.read4 a off := by
  simp [State.regRead, hsize]

/-- Where no register is reached, a read finds 0 and raises nothing (R8). -/
theorem State.read4_of_hit_none {s : State} {a : Agent} {off : Nat} (hhit : s.hit a off = none) :
    s.read4 a off = { s with readData := 0 } := by
  simp [State.read4, hhit]

theorem State.read4_of_hit_some {s : State} {a : Agent} {off : Nat} {h : RegHit} (hhit : s.hit a off = some h) :
    s.read4 a off = s.readHit a h := by
  simp [State.read4, hhit]

/-! ### Writes -/

/-- A size that BAR0 refuses writes nothing (R341). -/
theorem State.busStore_of_badSize {off n : Nat} (s : State) (a : Agent) (v : Nat) (hsize : sizeOk off n = false) :
    s.busStore a off n v = s.badSize a := by
  simp [State.busStore, hsize]

theorem State.busStore_four {off : Nat} (s : State) (a : Agent) (v : Nat) (hsize : sizeOk off 4 = true) :
    s.busStore a off 4 v = s.write4 a off (v % 2 ^ 32) := by
  simp [State.busStore, hsize]

/-- Where no register is reached, a write is discarded (R8). -/
theorem State.write4_of_hit_none {s : State} {a : Agent} {off : Nat} (v : Nat) (hhit : s.hit a off = none) : s.write4 a off v = s := by
  simp [State.write4, hhit]

theorem State.write4_of_hit_some {s : State} {a : Agent} {off : Nat} {h : RegHit} (v : Nat) (hhit : s.hit a off = some h) :
    s.write4 a off v = s.writeHit a h v := by
  simp [State.write4, hhit]

theorem State.writeHit_of_word {h : RegHit} (s : State) (a : Agent) (v : Nat) (hword : h.reg.bytes = 4) :
    s.writeHit a h v = s.regWrite a h.reg h.idx v (2 ^ 32 - 1) := by
  simp [State.writeHit, hword]

/-- The high word of a 64-bit register waits in the agent's write shadow (R342). -/
theorem State.writeHit_of_high {h : RegHit} (s : State) (a : Agent) (v : Nat) (hwide : h.reg.bytes ≠ 4) (hhigh : h.k % 8 = 4) :
    s.writeHit a h v = s.shadowHigh a h v := by
  simp [State.writeHit, hwide, hhigh]

/-! ### The commands -/

theorem exec_rcRegisterRead (e : Nat) (a : Agent) (o : Fin 67108864) (n : Fin 9) (s : State) :
    exec (.rcRegisterRead e a o n) s = .next ((s.elapse e).regRead a o.val n.val) := rfl

theorem exec_reg64LowRead (e : Nat) (a : Agent) (o : Fin 67108864) (s : State) :
    exec (.reg64LowRead e a o) s = .next ((s.elapse e).regRead a o.val 4) := rfl

theorem exec_registerWrite (e : Nat) (a : Agent) (o : Fin 67108864) (n : Fin 9) (v : Word64) (s : State) :
    exec (.registerWrite e a o n v) s = .next ((s.elapse e).busStore a o.val n.val v.toNat) := rfl

theorem exec_reg64HighWrite (e : Nat) (a : Agent) (o : Fin 67108864) (v : Word32) (s : State) :
    exec (.reg64HighWrite e a o v) s = .next ((s.elapse e).busStore a o.val 4 v.toNat) := rfl

/-- Settles O32: each command is one `regRead` or `busStore` after its ticks, and the size and the address decide what that does. -/
theorem accessComplete : Obligations.AccessComplete := by
  rintro e s u rfl
  refine ⟨?readBadSize, ?readNone, ?readHit, ?lowRead, ?writeBadSize, ?writeNone, ?writeWord, ?writeHigh⟩
  case readBadSize =>
    intro a o n hsize
    rw [exec_rcRegisterRead, State.regRead_of_badSize _ _ hsize]
  case readNone =>
    intro a o n hsize hn hhit
    rw [hn] at hsize
    rw [exec_rcRegisterRead, hn, State.regRead_four _ _ hsize, State.read4_of_hit_none hhit]
  case readHit =>
    intro a o n h hsize hn hhit
    rw [hn] at hsize
    rw [exec_rcRegisterRead, hn, State.regRead_four _ _ hsize, State.read4_of_hit_some hhit]
  case lowRead =>
    intro a o h hsize hhit
    rw [exec_reg64LowRead, State.regRead_four _ _ hsize, State.read4_of_hit_some hhit]
  case writeBadSize =>
    intro a o n v hsize
    rw [exec_registerWrite, State.busStore_of_badSize _ _ _ hsize]
  case writeNone =>
    intro a o n v hsize hn hhit
    rw [hn] at hsize
    rw [exec_registerWrite, hn, State.busStore_four _ _ _ hsize, State.write4_of_hit_none _ hhit]
  case writeWord =>
    intro a o n v h hsize hn hhit hword
    rw [hn] at hsize
    rw [exec_registerWrite, hn, State.busStore_four _ _ _ hsize, State.write4_of_hit_some _ hhit, State.writeHit_of_word _ _ _ hword]
  case writeHigh =>
    intro a o v h hsize hhit hwide hhigh
    rw [exec_reg64HighWrite, State.busStore_four _ _ _ hsize, BitVec.toNat_mod_cancel, State.write4_of_hit_some _ hhit,
      State.writeHit_of_high _ _ _ hwide hhigh]

end Sys2Proof.Machine
end

section
/-! The rules of the operations that the commands of a site share, and the statement about the commands of a site (R68–R79). -/

namespace Sys2Proof.Machine

/-! ### Which meaning the dispatch calls -/

theorem exec_siteResetRelease (e : Nat) (x : Site) (s : State) :
    exec (.siteResetRelease e x) s = execSiteResetRelease e x s := rfl

theorem exec_staleCheck (e : Nat) (x : Site) (s : State) :
    exec (.staleCheck e x) s = execStaleCheck e x s := rfl

theorem exec_startInstant (e : Nat) (x : Site) (s : State) :
    exec (.startInstant e x) s = execStartInstant e x s := rfl

theorem exec_sliceMissedRelease (e : Nat) (sl : SliceNo) (s : State) :
    exec (.sliceMissedRelease e sl) s = execSliceMissedRelease e sl s := rfl

theorem exec_stoppingComplete (e : Nat) (x : Site) (s : State) :
    exec (.stoppingComplete e x) s = execStoppingComplete e x s := rfl

theorem exec_joinSend (e : Nat) (x : Site) (s : State) :
    exec (.joinSend e x) s = execJoinSend e x s := rfl

/-! ### A site enters a state -/

/-- Once the site's own state is written, its entry to that state changes DEV_STATE and the registers of the barriers only. -/
theorem State.enterState_keeps_set {W : Places} (s : State) (x c : Nat) (hW : Within 0x2000000000000000000000000000000004 W) :
    Keeps W (s.set F.MDR_SITE_STATE.STATE x c) (s.enterState x c) := by
  unfold State.enterState
  extract_lets s1 s2 u s3
  have h1 : Keeps W (s.set F.MDR_SITE_STATE.STATE x c) s1 := State.syncDev_keeps (Within.trans (by decide) hW) (Keeps.refl _ _)
  have h2 : Keeps W (s.set F.MDR_SITE_STATE.STATE x c) s2 := Keeps.ite (State.pulse_keeps _ h1) h1
  have h3 : Keeps W (s.set F.MDR_SITE_STATE.STATE x c) s3 := Keeps.ite (State.setSite_keeps _ _ h2) h2
  exact State.formSyncs_keeps (Within.trans (by decide) hW) h3

/-- A site that enters a state is in it. -/
@[simp] theorem State.siteState_enterState (s : State) (x c : Nat) : (s.enterState x c).siteState x = c % 16 :=
  (Keeps.get (State.enterState_keeps_set s x c (Within.ne (by decide)))).trans (State.get_set_self ..)

/-- The entry to a state leaves the test's outcome alone. -/
@[simp] theorem State.outcome_enterState (s : State) (x c y : Nat) :
    (s.enterState x c).get F.MDR_SITE_STATE.OUTCOME y = s.get F.MDR_SITE_STATE.OUTCOME y :=
  (Keeps.get (State.enterState_keeps_set s x c (Within.ne (by decide)))).trans (State.get_set_fld _ _ _ _ _ _ (by decide))

/-- A site that enters DONE is in it. -/
@[simp] theorem State.siteState_enterDone (s : State) (x : Nat) : (s.enterDone x).siteState x = 6 := by
  unfold State.enterDone
  exact State.siteState_enterState _ _ _

/-! ### The answer of a site command (R79) -/

@[simp] theorem State.busy_answer (s : State) (x r : Nat) : (s.answer x r).get F.MDR_SITE_CMD_RES.BUSY x = 0 :=
  State.get_set_self ..

@[simp] theorem State.result_answer (s : State) (x r : Nat) : (s.answer x r).get F.MDR_SITE_CMD_RES.RESULT x = r % 8 :=
  (State.get_set_fld _ _ _ _ _ _ (by decide)).trans (State.get_set_self ..)

@[simp] theorem State.siteState_answer (s : State) (x r y : Nat) : (s.answer x r).siteState y = s.siteState y :=
  Keeps.get (State.answer_keeps _ _ (Within.ne (by decide)) (Keeps.refl _ s))

@[simp] theorem State.outcome_answer (s : State) (x r y : Nat) :
    (s.answer x r).get F.MDR_SITE_STATE.OUTCOME y = s.get F.MDR_SITE_STATE.OUTCOME y :=
  Keeps.get (State.answer_keeps _ _ (Within.ne (by decide)) (Keeps.refl _ s))

theorem State.siteCmd_of_busy {s : State} {x : Nat} (f : State → State) (hbusy : s.flag F.MDR_SITE_CMD_RES.BUSY x = true) :
    s.siteCmd x f = s.set F.MDR_SITE_CMD_RES.RESULT x 7 := by
  simp [State.siteCmd, hbusy]

theorem State.siteCmd_of_free {s : State} {x : Nat} (f : State → State) (hfree : s.flag F.MDR_SITE_CMD_RES.BUSY x = false) :
    s.siteCmd x f = f s := by
  simp [State.siteCmd, hfree]

/-! ### ARM (R72) -/

theorem exec_siteArm (e : Nat) (x : Site) (prog : BitVec 16) (s : State) :
    exec (.siteArm e x prog) s = .next ((s.elapse e).siteCmd x.val (fun s => s.armSite x.val prog.toNat)) := rfl

theorem State.armSite_of_accepted {s : State} {x prog : Nat} (h : s.armCode x prog = 1) :
    s.armSite x prog = (s.answer x 1).armAccepted x prog (s.get F.MDR_SITE_START_REQ.DT x) := by
  simp [State.armSite, h]

/-- A refused ARM is answered, and reports the error of a directory entry that it has read. -/
theorem State.armSite_of_refused {s : State} {x prog : Nat} (h : s.armCode x prog ≠ 1) :
    s.armSite x prog = (if s.armCode x prog = 4 then s.dirSeen x prog else s).answer x (s.armCode x prog) := by
  simp [State.armSite, h]

/-! ### ABORT, ACK and RESET (R68, R78, R79, R170) -/

theorem exec_siteAbort (e : Nat) (x : Site) (s : State) :
    exec (.siteAbort e x) s = .next ((s.elapse e).siteCmd x.val (fun s => s.abortSite x.val)) := rfl

theorem exec_siteAck (e : Nat) (x : Site) (s : State) :
    exec (.siteAck e x) s = .next ((s.elapse e).siteCmd x.val (fun s => s.ackSite x.val)) := rfl

theorem exec_siteReset (e : Nat) (x : Site) (s : State) :
    exec (.siteReset e x) s = .next ((s.elapse e).siteCmd x.val (fun s => s.resetSite x.val)) := rfl

/-- An ABORT that the context settles waits for its boundary. -/
theorem State.abortSite_of_pending {s : State} {x : Nat} (h : s.abortCode x = 0) : s.abortSite x =
    ((s.set F.MDR_SITE_CMD_RES.BUSY x 1).set F.MDR_SITE_CMD_RES.RESULT x 0).setSite x
      { s.site x with abortPend := true, abortReg := true } := by
  simp [State.abortSite, h]

theorem State.abortSite_of_settled {s : State} {x : Nat} (h : s.abortCode x ≠ 0) : s.abortSite x = s.answer x (s.abortCode x) := by
  simp [State.abortSite, h]

theorem State.ackSite_of_done {s : State} {x : Nat} (hhome : s.proxy x = false) (hdone : s.siteState x = 6) :
    s.ackSite x = (s.answer x 1).ackDone x := by
  simp [State.ackSite, State.ackCode, hhome, hdone]

@[simp] theorem State.siteState_tellState (s : State) (x c y : Nat) : (s.tellState x c).siteState y = s.siteState y :=
  Keeps.get (State.tellState_keeps _ _ (Within.ne (by decide)) (Keeps.refl _ s))

@[simp] theorem State.siteState_ackDone (s : State) (x : Nat) : (s.ackDone x).siteState x = 1 := by
  simp [State.ackDone]

/-- The return to IDLE leaves the answer of the command alone. -/
@[simp] theorem State.result_ackDone (s : State) (x y : Nat) :
    (s.ackDone x).get F.MDR_SITE_CMD_RES.RESULT y = s.get F.MDR_SITE_CMD_RES.RESULT y :=
  Keeps.get (State.ackDone_keeps _ (Within.ne (by decide)) (Keeps.refl _ s))

theorem State.resetSite_of_accepted {s : State} {x : Nat} (h : s.resetCode x = 1) : s.resetSite x =
    (((s.set F.MDR_SITE_CMD_RES.BUSY x 1).set F.MDR_SITE_CMD_RES.RESULT x 0).setSite x
      { s.site x with resetAt := some (wrap64 (s.now + s.lead x)), resetReg := true }).sendToken x 12
        (wrap64 (s.now + s.lead x)) [] := by
  simp [State.resetSite, h]

/-! ### The release of a reset (R78) -/

theorem exec_siteResetRelease_of_due {e : Nat} {x : Site} {s u : State} (hu : u = s.elapse e)
    (hdue : u.due (u.site x.val).resetAt = true) (hpresent : u.siteState x.val ≠ 0) :
    exec (.siteResetRelease e x) s = .next (u.resetNow x.val) := by
  subst hu
  simp [exec_siteResetRelease, execSiteResetRelease, hdue, hpresent]

/-- A site reset leaves the site in IDLE. -/
@[simp] theorem State.siteState_resetNow (s : State) (x : Nat) : (s.resetNow x).siteState x = 1 := by
  unfold State.resetNow
  extract_lets
  split
  · rw [State.siteState_answer, State.siteState_enterState]
  · exact (State.get_set_fld _ _ _ _ _ _ (by decide)).trans (State.siteState_enterState _ _ _)

/-- A site reset leaves the test's outcome RESET. -/
@[simp] theorem State.outcome_resetNow (s : State) (x : Nat) : (s.resetNow x).get F.MDR_SITE_STATE.OUTCOME x = 3 := by
  unfold State.resetNow
  extract_lets
  split
  · rw [State.outcome_answer, State.outcome_enterState, State.get_set_self]
    rfl
  · rw [State.get_set_fld _ _ _ _ _ _ (by decide), State.outcome_enterState, State.get_set_self]
    rfl

/-! ### The stale check and the start instant (R40, R68, R72) -/

/-- At the ready DT of a home site the set starts together or goes back to IDLE together. -/
theorem exec_staleCheck_of_due {e : Nat} {x : Site} {s u : State} (hu : u = s.elapse e) (harmed : u.siteState x.val = 2)
    (hentered : (u.site x.val).entered = true) (hstart : (u.site x.val).start = none) (hdue : u.due (u.site x.val).ready = true)
    (hhome : u.proxy x.val = false) : exec (.staleCheck e x) s = .next
      (if (u.members x.val).any (fun y => u.staleFails y) then
        u.each ((u.members x.val).filter (fun y => u.siteState y == 2)) (fun s y => s.unarm y)
      else u.formStart x.val) := by
  subst hu
  simp only [exec_staleCheck, execStaleCheck, harmed, hentered, hstart, hdue, hhome, BEq.rfl, Option.isNone_none, Bool.and_self, if_true,
    Bool.false_eq_true, if_false]
  exact (apply_ite Host.Outcome.next _ _ _).symm

theorem exec_startInstant_of_armed {e st : Nat} {x : Site} {s u : State} (hu : u = s.elapse e)
    (hstart : (u.site x.val).start = some st) (hreached : u.reached st = true) (harmed : u.siteState x.val = 2) :
    exec (.startInstant e x) s = .next (u.startTest x.val st) := by
  subst hu
  simp [exec_startInstant, execStartInstant, hstart, hreached, harmed]

/-- A test that starts records its start instant. -/
theorem State.startDT_startTest (s : State) (x st : Nat) : (s.startTest x st).get F.MDR_SITE_START_DT.DT x = st % 2 ^ 64 := by
  unfold State.startTest
  extract_lets site plan s0 s1 ctx s2 s3 s4
  have h2 : Keeps (fun k => k != F.MDR_SITE_START_DT.DT.id / 128) s1 s2 := by
    refine State.setCtx_keeps _ _ (State.set_keeps ?_ (Keeps.refl _ _))
    decide
  have h3 : Keeps (fun k => k != F.MDR_SITE_START_DT.DT.id / 128) s1 s3 :=
    State.enterState_keeps _ _ (Within.ne (by decide)) (State.setSite_keeps _ _ h2)
  have h4 : Keeps (fun k => k != F.MDR_SITE_START_DT.DT.id / 128) s1 s4 :=
    Keeps.ite (State.tellState_keeps _ _ (Within.ne (by decide))
      (State.enterState_keeps _ _ (Within.ne (by decide)) (State.set_keeps (f := F.MDR_SITE_STATE.OUTCOME) (places_ne (by decide)) h3))) h3
  have h5 := State.startSlices_keeps x st (Within.ne (n := F.MDR_SITE_START_DT.DT.id / 128) (by decide)) h4
  rw [h5.get, State.get_set_self]

/-! ### A release that a slice missed (R20) -/

/-- The fault bit of a fault that a rule attributes to a site is set. -/
theorem State.missedRelease_faultSite (s : State) (i x cause : Nat) :
    (s.faultSite 19 F.SLP_FAULT_STAT.MISSED_RELEASE i x cause).get F.SLP_FAULT_STAT.MISSED_RELEASE i = 1 := by
  unfold State.faultSite State.raiseU
  rw [Keeps.get (State.siteFault_keeps _ _ (Within.ne (by decide)) (Keeps.refl _ _))]
  split
  · rw [Keeps.get (State.enterSafe_keeps _ (Within.ne (by decide)) (Keeps.refl _ _)), State.get_set_self]
    rfl
  · rw [State.get_set_self]
    rfl

/-- A slice of an active site that misses a release faults its site, whatever the slice itself does. -/
theorem exec_sliceMissedRelease_of_active {e : Nat} {sl : SliceNo} {s u : State} (hu : u = s.elapse e)
    (hvalid : u.sliceValid sl.val = true) (hactive : u.active (u.sliceSite sl.val) = true) :
    ∃ v : State, exec (.sliceMissedRelease e sl) s =
      .next (v.faultSite 19 F.SLP_FAULT_STAT.MISSED_RELEASE (sl.val / 32) (u.sliceSite sl.val) 1) := by
  subst hu
  simp only [exec_sliceMissedRelease, execSliceMissedRelease, hvalid, hactive, Bool.and_self, if_true]
  exact ⟨_, rfl⟩

/-! ### The end of a test (R68) -/

theorem exec_stoppingComplete_of_finished {e : Nat} {x : Site} {s u : State} (hu : u = s.elapse e) (hstopping : u.siteState x.val = 5)
    (hhome : u.proxy x.val = false) (hfin : u.siteFinished x.val = true) :
    exec (.stoppingComplete e x) s = .next ((u.drewFar x.val).completeTest x.val) := by
  subst hu
  simp [exec_stoppingComplete, execStoppingComplete, hstopping, hhome, hfin]

/-- A site whose test completes is DONE, or FAULTED where an idle waveform could not be read (R133). -/
theorem State.siteState_completeTest (s : State) (x : Nat) :
    (s.completeTest x).siteState x = 6 ∨ (s.completeTest x).siteState x = 7 := by
  unfold State.completeTest
  extract_lets s1
  split
  next hfault => exact .inr (by simpa using hfault)
  next => exact .inl (State.siteState_enterDone _ _)

/-- A site without slices here has no idle waveform to read. -/
theorem State.siteState_completeTest_of_noSlices {s : State} {x : Nat} (hnone : s.slicesOf x = []) (hstate : s.siteState x ≠ 7) :
    (s.completeTest x).siteState x = 6 := by
  have hone : s.completeTest x = (s.tellState x 6).enterDone x := by
    simp [State.completeTest, hnone, State.each, hstate]
  rw [hone, State.siteState_enterDone]

@[simp] theorem State.slicesOf_drewFar (s : State) (x y : Nat) : (s.drewFar x).slicesOf y = s.slicesOf y := by
  unfold State.drewFar
  split <;> rfl

@[simp] theorem State.siteState_drewFar (s : State) (x y : Nat) : (s.drewFar x).siteState y = s.siteState y := by
  unfold State.drewFar
  split <;> rfl

/-! ### Joins (R76) -/

theorem exec_joinSend_of_ready {e : Nat} {x : Site} {s u : State} (hu : u = s.elapse e) (hrun : u.running = true)
    (hproxy : u.proxy x.val = true) (hidle : u.siteState x.val = 1) (hnew : (u.site x.val).joinSent = false)
    (hport : (u.carrier (u.get F.SMAP_SITE.HOME_DEV x.val)).isSome = true) : exec (.joinSend e x) s = .next
      ((u.setSite x.val { u.site x.val with joinSent := true }).tokenHome x.val 1 0
        [x.val, u.get F.SMAP_SITE.TILES x.val, u.get F.SMAP_SITE.QUADS x.val]) := by
  subst hu
  simp [exec_joinSend, execJoinSend, hrun, hproxy, hidle, hnew, hport]

/-- Settles O4: each command is one operation on the state after its ticks, and the code that it is answered with decides which. -/
theorem siteComplete : Obligations.SiteComplete := by
  intro e s u hu
  refine ⟨?armAccepted, ?armRefused, ?armBusy, ?abortPending, ?abortSettled, ?ack, ?reset, ?release, ?staleGood, ?staleFailed,
    ?start, ?missed, ?stopping, ?join⟩
  case armAccepted =>
    intro x prog hfree hcode
    rw [exec_siteArm, ← hu, State.siteCmd_of_free _ hfree, State.armSite_of_accepted hcode]
  case armRefused =>
    intro x prog hfree hcode
    refine ⟨_, by rw [exec_siteArm, ← hu, State.siteCmd_of_free _ hfree, State.armSite_of_refused hcode], ?_, ?_, fun hdir => ?_⟩
    · rw [State.result_answer]
    · rw [State.busy_answer]
    · rw [State.siteState_answer, if_neg hdir]
  case armBusy =>
    intro x hbusy prog
    rw [exec_siteArm, ← hu, State.siteCmd_of_busy _ hbusy]
  case abortPending =>
    intro x hfree hcode
    refine ⟨_, by rw [exec_siteAbort, ← hu, State.siteCmd_of_free _ hfree, State.abortSite_of_pending hcode], ?_, ?_, ?_⟩
    · rw [State.setSite_get, State.get_set_fld _ _ _ _ _ _ (by decide), State.get_set_self]
      rfl
    · rw [State.setSite_get, State.get_set_self]
      rfl
    · rw [State.setSite_self]
  case abortSettled =>
    intro x hfree hcode
    rw [exec_siteAbort, ← hu, State.siteCmd_of_free _ hfree, State.abortSite_of_settled hcode]
  case ack =>
    intro x hfree hhome hdone
    refine ⟨_, by rw [exec_siteAck, ← hu, State.siteCmd_of_free _ hfree, State.ackSite_of_done hhome hdone], ?_, ?_⟩
    · rw [State.siteState_ackDone]
    · rw [State.result_ackDone, State.result_answer]
  case reset =>
    intro x hfree hcode
    rw [exec_siteReset, ← hu, State.siteCmd_of_free _ hfree, State.resetSite_of_accepted hcode]
  case release =>
    intro x hdue hpresent
    exact ⟨_, exec_siteResetRelease_of_due hu hdue hpresent, State.siteState_resetNow _ _, State.outcome_resetNow _ _⟩
  case staleGood =>
    intro x harmed hentered hstart hdue hhome hgood
    have hnone : (u.members x.val).any (fun y => u.staleFails y) = false := by simpa using hgood
    rw [exec_staleCheck_of_due hu harmed hentered hstart hdue hhome, hnone, if_neg Bool.false_ne_true]
  case staleFailed =>
    intro x y harmed hentered hstart hdue hhome hmem hfails
    have hsome : (u.members x.val).any (fun y => u.staleFails y) = true := List.any_eq_true.2 ⟨y.val, hmem, hfails⟩
    rw [exec_staleCheck_of_due hu harmed hentered hstart hdue hhome, if_pos hsome]
  case start =>
    intro x st hstart hreached harmed
    exact ⟨exec_startInstant_of_armed hu hstart hreached harmed, State.startDT_startTest u x.val st⟩
  case missed =>
    intro sl hvalid hactive
    obtain ⟨v, hv⟩ := exec_sliceMissedRelease_of_active hu hvalid hactive
    exact ⟨_, hv, State.missedRelease_faultSite _ _ _ _⟩
  case stopping =>
    intro x hstopping hhome hfin
    refine ⟨_, exec_stoppingComplete_of_finished hu hstopping hhome hfin, State.siteState_completeTest _ _, fun hnone => ?_⟩
    exact State.siteState_completeTest_of_noSlices (by rw [State.slicesOf_drewFar, hnone])
      (by rw [State.siteState_drewFar, hstopping]; decide)
  case join =>
    intro x hrun hproxy hidle hnew hport
    exact exec_joinSend_of_ready hu hrun hproxy hidle hnew hport

end Sys2Proof.Machine
end

section
/-! The waits, barriers, traps, fetches and boundaries of a step context, and the statement about them (R153, R159–R169). -/

namespace Sys2Proof.Machine

/-! ### Which meaning the dispatch calls -/

theorem exec_syncRelease (e : Nat) (b : Barrier) (s : State) :
    exec (.syncRelease e b) s = execSyncRelease e b s := rfl

theorem exec_stepMissedRelease (e : Nat) (x : Site) (s : State) :
    exec (.stepMissedRelease e x) s = execStepMissedRelease e x s := rfl

theorem exec_trimWindowClose (e : Nat) (x : Site) (s : State) :
    exec (.trimWindowClose e x) s = execTrimWindowClose e x s := rfl

theorem exec_stepWordFetch (e : Nat) (x : Site) (ecc : Ecc) (s : State) :
    exec (.stepWordFetch e x ecc) s = execStepWordFetch e x ecc s := rfl

theorem exec_stepBoundarySample (e : Nat) (x : Site) (rom : Ecc) (s : State) :
    exec (.stepBoundarySample e x rom) s = execStepBoundarySample e x s rom := rfl

theorem exec_sliceEndReport (e : Nat) (x : Site) (s : State) :
    exec (.sliceEndReport e x) s = execSliceEndReport e x s := rfl

theorem exec_eventLatch (e : Nat) (x : Site) (c : EvCh) (s : State) :
    exec (.eventLatch e x c) s = execEventLatch e x c s := rfl

theorem exec_waitTimeout (e : Nat) (x : Site) (s : State) :
    exec (.waitTimeout e x) s = execWaitTimeout e x s := rfl

theorem exec_serviceResult (e : Nat) (x : Site) (s : State) :
    exec (.serviceResult e x) s = execServiceResult e x s := rfl

theorem exec_trapFiring (e : Nat) (x : Site) (s : State) :
    exec (.trapFiring e x) s = execTrapFiring e x s := rfl

/-! ### WAITEV (R159) -/

theorem exec_waitev_of_runs {e w : Nat} {x : Site} {s u : State} (hu : u = s.elapse e) (hruns : u.runsWord x.val 0x10 w = true) :
    exec (.waitev e x) s = .next (u.doWaitev x.val w) := by
  subst hu
  exact congrArg _ (State.instr_runs hruns _)

/-- A WAITEV whose mask is not met begins to wait. -/
theorem State.doWaitev_of_unmet {s : State} {x w : Nat} (hfirst : s.waiting x 0x10 = none) (hkeep : flagOf w 1 = false)
    (hunmet : s.evMet x (bitsOf w 0 3) (flagOf w 0) = false) :
    s.doWaitev x w = s.beginWait x 0x10 (ns (imm40 w)) (bitsOf w 0 3) := by
  simp [State.doWaitev, hfirst, hkeep, hunmet]

/-- A WAITEV whose mask is met records the firing and ends, whether it has waited or not. -/
theorem State.doWaitev_of_met {s : State} {x w : Nat} (hkeep : flagOf w 1 = false)
    (hmet : s.evMet x (bitsOf w 0 3) (flagOf w 0) = true) : s.doWaitev x w =
      ((s.set F.MDR_STEP_EVDT.DT x (Tab.get 0 (s.ctx x).evlast (bitsOf w 0 3))).clearEvl x (bitsOf w 0 3)).endWait x := by
  simp [State.doWaitev, hkeep, hmet]

/-! ### WAITDT (R160) -/

theorem exec_waitdt_of_runs {e w : Nat} {x : Site} {s u : State} (hu : u = s.elapse e) (hruns : u.runsWord x.val 0x11 w = true) :
    exec (.waitdt e x) s = .next (u.doWaitdt x.val w) := by
  subst hu
  exact congrArg _ (State.instr_runs hruns _)

theorem State.doWaitdt_of_reached {s : State} {x w : Nat} (hreg : flagOf w 0 = false) (hreached : s.reached (s.gr x (regA w)) = true) :
    s.doWaitdt x w = s.endWait x := by
  simp [State.doWaitdt, hreg, hreached]

/-- A wait for the DT in a register has the timeout of its immediate. -/
theorem State.doWaitdt_of_register {s : State} {x w : Nat} (hreg : flagOf w 0 = false) (hfirst : s.waiting x 0x11 = none)
    (hnot : s.reached (s.gr x (regA w)) = false) : s.doWaitdt x w = s.beginWait x 0x11 (ns (imm40 w)) (s.gr x (regA w)) := by
  simp [State.doWaitdt, hreg, hfirst, hnot]

/-- A wait for a time from now has no timeout. -/
theorem State.doWaitdt_of_relative {s : State} {x w : Nat} (hrel : flagOf w 0 = true) (hform : regA w = 0)
    (hfirst : s.waiting x 0x11 = none) (hnot : s.reached (wrap64 (s.now + ns (imm40 w))) = false) :
    s.doWaitdt x w = s.beginWait x 0x11 0 (wrap64 (s.now + ns (imm40 w))) := by
  simp [State.doWaitdt, hrel, hform, hfirst, hnot]

/-! ### DRAIN (R163) -/

theorem exec_drain_of_runs {e w : Nat} {x : Site} {s u : State} (hu : u = s.elapse e) (hruns : u.runsWord x.val 0x12 w = true) :
    exec (.drain e x) s = .next (u.doDrain x.val w) := by
  subst hu
  exact congrArg _ (State.instr_runs hruns _)

theorem State.doDrain_of_drained {s : State} {x w : Nat} (hdrained : s.drained x = true) : s.doDrain x w =
    ((s.drewFar x).each ((s.drewFar x).slicesOf x) (fun s i => s.settleEnd i)).endWait x := by
  simp [State.doDrain, hdrained]

theorem State.doDrain_of_playing {s : State} {x w : Nat} (hplays : s.drained x = false) (hfirst : s.waiting x 0x12 = none) :
    s.doDrain x w = (s.drewFar x).beginWait x 0x12 (ns (imm40 w)) 0 := by
  simp [State.doDrain, hplays, hfirst]

/-! ### SYNC and its barriers (R165) -/

theorem exec_sync_of_runs {e w : Nat} {x : Site} {s u : State} (hu : u = s.elapse e) (hruns : u.runsWord x.val opSync w = true) :
    exec (.sync e x) s = .next (u.doSync x.val w) := by
  subst hu
  exact congrArg _ (State.instr_runs hruns _)

/-- An arrival for the next release is counted, and the release formed where it is the last. -/
theorem State.doSync_of_member {s : State} {x w : Nat} (hmember : s.syncMember (bitsOf w 0 6) x = true)
    (hfirst : s.waiting x opSync = none) (hopen : Tab.get none s.barriers (bitsOf w 0 6) = none) :
    s.doSync x w = (s.beginWait x opSync (ns (imm40 w)) (bitsOf w 0 6)).formSync (bitsOf w 0 6) := by
  simp [State.doSync, hmember, hfirst, hopen]

theorem State.doSync_of_stranger {s : State} {x w : Nat} (hstranger : s.syncMember (bitsOf w 0 6) x = false) :
    s.doSync x w = s.stepFault x 8 := by
  simp [State.doSync, hstranger]

/-- Forming a release changes no context, so the same contexts have arrived. -/
@[simp] theorem State.arrived_formSync (s : State) (b c : Nat) : (s.formSync b).arrived c = s.arrived c := by
  unfold State.formSync
  extract_lets
  split <;> rfl

/-- Of the registers, forming a release writes the count of arrivals only. -/
theorem State.get_formSync (s : State) (b : Nat) (f : Fld) (i : Nat) :
    (s.formSync b).get f i = (s.set F.MDR_STEP_SYNC_STAT.ARRIVED b (s.arrived b).length).get f i := by
  unfold State.formSync
  extract_lets
  split <;> rfl

theorem State.arrivals_formSync (s : State) (b : Nat) :
    (s.formSync b).get F.MDR_STEP_SYNC_STAT.ARRIVED b = (s.arrived b).length % 2 ^ 9 :=
  (State.get_formSync ..).trans (State.get_set_self ..)

theorem State.arrivals_nextSync (s : State) (b : Nat) :
    (s.nextSync b).get F.MDR_STEP_SYNC_STAT.ARRIVED b = ((s.nextSync b).arrived b).length % 2 ^ 9 := by
  unfold State.nextSync
  rw [State.arrivals_formSync, State.arrived_formSync]

theorem State.get_nextSync (s : State) (b : Nat) (f : Fld) (i : Nat) (hf : f.id ≠ F.MDR_STEP_SYNC_STAT.ARRIVED.id) :
    (s.nextSync b).get f i = s.get f i := by
  unfold State.nextSync
  rw [State.get_formSync, State.get_set_fld _ _ _ _ _ _ hf, State.get_mk]

/-- A release that is reached is recorded and counted, whatever the contexts that pass it do. -/
theorem exec_syncRelease_of_reached {e r : Nat} {b : Barrier} {s u : State} (hu : u = s.elapse e)
    (hformed : Tab.get none u.barriers b.val = some r) (hreached : u.reached r = true) :
    ∃ v : State, exec (.syncRelease e b) s = .next (((v.set F.MDR_STEP_SYNC_DT.DT b.val r).set F.MDR_STEP_SYNC_STAT.RELEASES b.val
      (min (2 ^ 32 - 1) (u.get F.MDR_STEP_SYNC_STAT.RELEASES b.val + 1))).nextSync b.val) := by
  subst hu
  simp only [exec_syncRelease, execSyncRelease, hformed, hreached, if_true]
  exact ⟨_, rfl⟩

/-- The member mask of a barrier is written while nobody waits at it and no release is formed. -/
theorem State.writeSyncMem_of_idle {s : State} {b : Nat} (w v : Nat) (hnone : s.arrived b = []) (hopen : Tab.get none s.barriers b = none) :
    s.writeSyncMem b w v = s.set F.MDR_STEP_SYNC_MEM.SITE (8 * b + w) v := by
  simp [State.writeSyncMem, hnone, hopen]

theorem State.writeSyncMem_of_arrived {s : State} {b : Nat} (w v : Nat) (hsome : s.arrived b ≠ []) :
    s.writeSyncMem b w v = s.set F.MDR_STEP_SYNC_STAT.WR_REJ b 1 := by
  simp [State.writeSyncMem, hsome]

theorem exec_syncMemberWrite (e : Nat) (b : Barrier) (w : Fin 8) (v : Word32) (s : State) :
    exec (.syncMemberWrite e b w v) s = .next ((s.elapse e).writeSyncMem b.val w.val v.toNat) := rfl

theorem exec_stepMissedRelease_of_due {e : Nat} {x : Site} {w : WaitSt} {s u : State} (hu : u = s.elapse e)
    (hwaits : u.waiting x.val opSync = some w) (hdue : u.due (Tab.get none u.barriers w.aux) = true) :
    exec (.stepMissedRelease e x) s =
      .next ((u.withdrawSync x.val).faultSite 14 F.MDR_STEP_FAULT_STAT.MISSED_RELEASE 0 x.val 1) := by
  subst hu
  simp only [exec_stepMissedRelease, execStepMissedRelease, hwaits, hdue, if_true]

/-! ### Trim windows (R166) -/

theorem exec_trimok_of_runs {e w : Nat} {x : Site} {s u : State} (hu : u = s.elapse e) (hruns : u.runsWord x.val 0x14 w = true) :
    exec (.trimok e x) s = .next (u.doTrimok x.val w) := by
  subst hu
  exact congrArg _ (State.instr_runs hruns _)

/-- A TRIMOK on an open window moves its close. -/
theorem State.doTrimok_of_open {s : State} {x w : Nat} (htime : imm40 w ≠ 0) (hopen : s.flag F.MDR_SITE_STATE.TRIMOK x = true) :
    s.doTrimok x w =
      (s.set F.MDR_STEP_TRIM.DT x (wrap64 (wrap64 (s.now + s.lead x) + ns (imm40 w)))).advance x := by
  simp [State.doTrimok, htime, hopen]

/-- A TRIMOK on a shut window opens it, here and at the proxies. -/
theorem State.doTrimok_of_shut {s : State} {x w : Nat} (htime : imm40 w ≠ 0) (hshut : s.flag F.MDR_SITE_STATE.TRIMOK x = false) :
    s.doTrimok x w =
      (((((s.set F.MDR_SITE_STATE.TRIMOK x 1).setSite x { s.site x with trimOpen := wrap64 (s.now + s.lead x) }).sendToken x 13
        (wrap64 (s.now + s.lead x)) [1]).set F.MDR_STEP_TRIM.DT x
          (wrap64 (wrap64 (s.now + s.lead x) + ns (imm40 w)))).advance x) := by
  simp [State.doTrimok, htime, hshut]

theorem exec_trimWindowClose_of_reached {e : Nat} {x : Site} {s u : State} (hu : u = s.elapse e)
    (hopen : u.flag F.MDR_SITE_STATE.TRIMOK x.val = true) (hhome : u.proxy x.val = false)
    (hreached : u.reached (u.get F.MDR_STEP_TRIM.DT x.val) = true) : exec (.trimWindowClose e x) s = .next (u.shutTrim x.val) := by
  subst hu
  simp [exec_trimWindowClose, execTrimWindowClose, hopen, hhome, hreached]

/-! ### Fetches (R153) -/

/-- A line that is not held is not held at any word of it. -/
theorem State.lineHeld_line (s : State) (x pc : Nat) : s.lineHeld x (8 * (pc / 8)) = s.lineHeld x pc := by
  unfold State.lineHeld
  rw [Nat.mul_div_cancel_left _ (by decide : 0 < 8)]

/-- The line at PC arrives without error at a context that does not wait for it. -/
theorem exec_stepWordFetch_of_clean {e : Nat} {x : Site} {s u : State} (hu : u = s.elapse e) (hruns : u.ctxRuns x.val = true)
    (hnew : u.lineHeld x.val (u.stepPc x.val) = none) (hin : u.stepPc x.val < (u.ctx x.val).words)
    (hclean : u.eccAt (u.ctx x.val).hot ((u.ctx x.val).base + 64 * (u.stepPc x.val / 8)) 64 .clean = .clean)
    (hready : u.get F.MDR_STEP_STAT.STATE x.val ≠ 4) : exec (.stepWordFetch e x .clean) s = .next
      (u.setCtx x.val { u.ctx x.val with lines := ((u.ctx x.val).lines.filter (fun p => p.1 == u.stepPc x.val / 8)) ++
        [(u.stepPc x.val / 8, u.readLine x.val (u.stepPc x.val / 8))] }) := by
  subst hu
  have hline := (State.lineHeld_line (s.elapse e) x.val ((s.elapse e).stepPc x.val)).trans hnew
  have hwords : ¬ ((s.elapse e).ctx x.val).words ≤ 8 * ((s.elapse e).stepPc x.val / 8) := by omega
  simp [exec_stepWordFetch, execStepWordFetch, hruns, hnew, hline, hwords, hclean, State.eccRaise, hready]

/-! ### Boundaries (R168–R171) -/

/-- Where nothing precedes the next instruction there is no fault, no abort and no completion. -/
theorem State.not_preceded {s : State} {x : Nat} (h : s.preceded x = false) :
    (s.ctx x).faultPend = false ∧ (s.site x).abortPend = false ∧ (s.site x).ctxStop = false := by
  simp only [State.preceded, Bool.or_eq_false_iff] at h
  obtain ⟨⟨⟨hfault, habort⟩, hstop⟩, -⟩ := h
  exact ⟨hfault, habort, hstop⟩

/-- What a live context does at its boundary once its microwords are read (R169): a site fault comes first, then an abort, a
completion, a trap and a fault of the next word. -/
def State.boundary (s : State) (x : Nat) : State :=
  if (s.ctx x).faultPend then ((s.withdrawSync x).stopCtx x).setCtx x { s.ctx x with faultPend := false, wait := none }
  else if !s.ctxRuns x && !s.ctxEnds x then s
  else if (s.site x).abortPend then s.settleAbort x
  else if (s.site x).ctxStop then (s.shutTrim x).testDone x
  else if s.preceded x then s.takeTrap x
  else match s.wordFault x with
    | some k => s.stepFault x k
    | none => s

theorem exec_stepBoundarySample_of_live {e : Nat} {x : Site} {rom : Ecc} {s u v : State} (hu : u = s.elapse e)
    (hlive : u.ctxLive x.val = true) (hv : v = u.microRead rom) (hstill : v.ctxLive x.val = true) :
    exec (.stepBoundarySample e x rom) s = .next (v.boundary x.val) := by
  subst hu hv
  simp only [exec_stepBoundarySample, execStepBoundarySample, hlive, hstill, if_true, Bool.not_true, Bool.false_eq_true, if_false,
    State.boundary, apply_ite Host.Outcome.next]
  cases (State.wordFault _ x.val) <;> rfl

section
variable {s : State} {x : Nat}

theorem State.boundary_of_fault (hfault : (s.ctx x).faultPend = true) :
    s.boundary x = ((s.withdrawSync x).stopCtx x).setCtx x { s.ctx x with faultPend := false, wait := none } := by
  simp [State.boundary, hfault]

theorem State.boundary_of_abort (hfault : (s.ctx x).faultPend = false) (hacts : s.ctxRuns x = true ∨ s.ctxEnds x = true)
    (habort : (s.site x).abortPend = true) : s.boundary x = s.settleAbort x := by
  rcases hacts with hacts | hacts <;> simp [State.boundary, hfault, hacts, habort]

theorem State.boundary_of_completion (hfault : (s.ctx x).faultPend = false) (hacts : s.ctxRuns x = true ∨ s.ctxEnds x = true)
    (habort : (s.site x).abortPend = false) (hstop : (s.site x).ctxStop = true) :
    s.boundary x = (s.shutTrim x).testDone x := by
  rcases hacts with hacts | hacts <;> simp [State.boundary, hfault, hacts, habort, hstop]

/-- What precedes an instruction and is no fault, abort or completion is a trap. -/
theorem State.boundary_of_trap (hfault : (s.ctx x).faultPend = false) (hruns : s.ctxRuns x = true)
    (habort : (s.site x).abortPend = false) (hstop : (s.site x).ctxStop = false) (htrap : s.preceded x = true) :
    s.boundary x = s.takeTrap x := by
  simp [State.boundary, hfault, hruns, habort, hstop, htrap]

theorem State.boundary_of_wordFault {k : Nat} (hruns : s.ctxRuns x = true) (hnext : s.preceded x = false)
    (hword : s.wordFault x = some k) : s.boundary x = s.stepFault x k := by
  obtain ⟨hfault, habort, hstop⟩ := State.not_preceded hnext
  simp [State.boundary, hfault, hruns, habort, hstop, hnext, hword]

end

/-! ### Reports, latches, timeouts and traps (R159, R160, R162, R167, R168) -/

/-- Slices that have all ended play with an entry left start again, and RESTART says so. -/
theorem exec_sliceEndReport_of_left {e : Nat} {x : Site} {s u : State} (hu : u = s.elapse e) (hhome : u.proxy x.val = false)
    (hstate : u.siteState x.val = 3 ∨ u.siteState x.val = 5) (hstart : (u.site x.val).start = none)
    (hstop : (u.site x.val).stop = none) (hslices : u.slicesOf x.val ≠ [])
    (hleft : ∀ i ∈ u.slicesOf x.val, u.playEnded i = true ∧ (u.slice i).queue ≠ []) :
    ∃ v : State, exec (.sliceEndReport e x) s = .next (v.set F.MDR_STEP_STAT.RESTART x.val 1) := by
  subst hu
  obtain ⟨i, hi⟩ := List.exists_mem_of_ne_nil _ hslices
  have hended : ((s.elapse e).slicesOf x.val).all (fun i => (s.elapse e).playEnded i) = true :=
    List.all_eq_true.2 fun i hi => (hleft i hi).1
  have hkept : ((s.elapse e).slicesOf x.val).any
      (fun i => !((s.elapse e).slice i).queue.isEmpty || !((s.elapse e).slice i).inbound.isEmpty) = true :=
    List.any_eq_true.2 ⟨i, hi, by simp [(hleft i hi).2]⟩
  have hplays : ((s.elapse e).siteState x.val == 3 || (s.elapse e).siteState x.val == 5) = true := by simpa using hstate
  simp only [exec_sliceEndReport, execSliceEndReport, hhome, hplays, hstart, hstop, hended, hkept, List.isEmpty_eq_false_iff.2 hslices,
    Option.isNone_none, Bool.not_false, Bool.and_self, if_true]
  exact ⟨_, rfl⟩

/-- A firing that a wait mask asks for is latched, or sets OVERRUN where it is latched already. -/
theorem exec_eventLatch_of_masked {e m : Nat} {x : Site} {c : EvCh} {s u : State} (hu : u = s.elapse e) (hawake : u.consumes = true)
    (hm : m < 8) (hmask : bitAt (u.wmask x.val m (c.val / 32)) (c.val % 32) = true) :
    ∃ ctx : CtxUnit, exec (.eventLatch e x c) s = .next
      (if bitAt (u.evl x.val (c.val / 32)) (c.val % 32) then u.set F.MDR_STEP_EVSTAT.OVERRUN x.val 1
      else (u.setCtx x.val ctx).set F.MDR_STEP_EVL.CH (8 * x.val + c.val / 32)
        (setBit (u.evl x.val (c.val / 32)) (c.val % 32))) := by
  subst hu
  have hsome : ((List.range 8).filter
      (fun m => bitAt ((s.elapse e).wmask x.val m (c.val / 32)) (c.val % 32))).isEmpty = false :=
    List.isEmpty_eq_false_iff.2 (List.ne_nil_of_mem (List.mem_filter.2 ⟨List.mem_range.2 hm, hmask⟩))
  simp only [exec_eventLatch, execEventLatch, hsome, hawake, Bool.not_true, Bool.or_self, Bool.false_eq_true, if_false]
  exact ⟨_, (apply_ite Host.Outcome.next _ _ _).symm⟩

theorem exec_waitTimeout_of_due {e : Nat} {x : Site} {w : WaitSt} {s u : State} (hu : u = s.elapse e)
    (hwait : (u.ctx x.val).wait = some w) (hruns : u.ctxRuns x.val = true) (hnext : u.preceded x.val = false)
    (hdue : u.due w.limit = true) (hunmet : u.waitMet x.val w = false) : exec (.waitTimeout e x) s = .next (u.timeOut x.val) := by
  subst hu
  simp [exec_waitTimeout, execWaitTimeout, hwait, hruns, hnext, hdue, hunmet]

theorem exec_serviceResult_of_waiting {e r : Nat} {x : Site} {s u : State} (hu : u = s.elapse e)
    (hdone : (u.ctx x.val).svcDone = some r) (hruns : u.ctxRuns x.val = true) (hnext : u.preceded x.val = false)
    (hwaits : (u.waiting x.val 0x43).isSome = true) : exec (.serviceResult e x) s = .next
      (((u.set F.MDR_STEP_SVC_RES.RESULT x.val r).setCtx x.val { u.ctx x.val with svcItem := none, svcDone := none }).endWait
        x.val) := by
  subst hu
  simp [exec_serviceResult, execServiceResult, hdone, hruns, hnext, hwaits]

theorem exec_trapFiring_of_clear {e : Nat} {x : Site} {s u : State} (hu : u = s.elapse e) (hawake : u.consumes = true)
    (hclear : u.flag F.MDR_STEP_STAT.TRAP_PEND x.val = false) :
    exec (.trapFiring e x) s = .next (u.set F.MDR_STEP_STAT.TRAP_PEND x.val 1) := by
  subst hu
  simp [exec_trapFiring, execTrapFiring, hawake, hclear]

/-- Settles O11: a step word runs as its instruction does at the boundary, and each other command does what its conditions leave. -/
theorem stepWaitsComplete : Obligations.StepWaitsComplete := by
  intro e s u hu
  refine ⟨?waitevBegins, ?waitevMet, ?waitdtReached, ?waitdtRegister, ?waitdtRelative, ?drained, ?drainBegins, ?syncArrives,
    ?syncStranger, ?trimokOpen, ?trimokShut, ?fetch, ?boundaryFault, ?boundaryAbort, ?boundaryCompletion, ?boundaryTrap,
    ?boundaryWord, ?sliceEnd, ?latchNew, ?latchHeld, ?timeout, ?service, ?release, ?trap, ?windowClose, ?memberWrite,
    ?memberRefused, ?missed⟩
  case waitevBegins =>
    intro x w hruns hfirst hkeep hunmet
    rw [exec_waitev_of_runs hu hruns, State.doWaitev_of_unmet hfirst hkeep hunmet]
  case waitevMet =>
    intro x w hruns hkeep hmet
    rw [exec_waitev_of_runs hu hruns, State.doWaitev_of_met hkeep hmet]
  case waitdtReached =>
    intro x w hruns hreg hreached
    rw [exec_waitdt_of_runs hu hruns, State.doWaitdt_of_reached hreg hreached]
  case waitdtRegister =>
    intro x w hruns hreg hfirst hnot
    rw [exec_waitdt_of_runs hu hruns, State.doWaitdt_of_register hreg hfirst hnot]
  case waitdtRelative =>
    intro x w hruns hrel hform hfirst hnot
    rw [exec_waitdt_of_runs hu hruns, State.doWaitdt_of_relative hrel hform hfirst hnot]
  case drained =>
    intro x w hruns hdrained
    rw [exec_drain_of_runs hu hruns, State.doDrain_of_drained hdrained]
  case drainBegins =>
    intro x w hruns hplays hfirst
    rw [exec_drain_of_runs hu hruns, State.doDrain_of_playing hplays hfirst]
  case syncArrives =>
    intro x w hruns hmember hfirst hopen
    rw [exec_sync_of_runs hu hruns, State.doSync_of_member hmember hfirst hopen]
  case syncStranger =>
    intro x w hruns hstranger
    rw [exec_sync_of_runs hu hruns, State.doSync_of_stranger hstranger]
  case trimokOpen =>
    intro x w hruns htime hopen
    rw [exec_trimok_of_runs hu hruns, State.doTrimok_of_open htime hopen]
  case trimokShut =>
    intro x w hruns htime hshut
    rw [exec_trimok_of_runs hu hruns, State.doTrimok_of_shut htime hshut]
  case fetch =>
    intro x hruns hnew hin hclean hstate
    exact exec_stepWordFetch_of_clean hu hruns hnew hin hclean hstate
  case boundaryFault =>
    intro x rom v hlive hv hstill hfault
    rw [exec_stepBoundarySample_of_live hu hlive hv hstill, State.boundary_of_fault hfault]
  case boundaryAbort =>
    intro x rom v hlive hv hstill hfault hacts habort
    rw [exec_stepBoundarySample_of_live hu hlive hv hstill, State.boundary_of_abort hfault hacts habort]
  case boundaryCompletion =>
    intro x rom v hlive hv hstill hfault hacts habort hstop
    rw [exec_stepBoundarySample_of_live hu hlive hv hstill, State.boundary_of_completion hfault hacts habort hstop]
  case boundaryTrap =>
    intro x rom v hlive hv hstill hfault hruns habort hstop htrap
    rw [exec_stepBoundarySample_of_live hu hlive hv hstill, State.boundary_of_trap hfault hruns habort hstop htrap]
  case boundaryWord =>
    intro x rom v k hlive hv hstill hruns hnext hword
    rw [exec_stepBoundarySample_of_live hu hlive hv hstill, State.boundary_of_wordFault hruns hnext hword]
  case sliceEnd =>
    intro x hhome hstate hstart hstop hslices hleft
    obtain ⟨v, hv⟩ := exec_sliceEndReport_of_left hu hhome hstate hstart hstop hslices hleft
    exact ⟨_, hv, State.get_set_self ..⟩
  case latchNew =>
    intro x c m hawake hm hmask hnew
    obtain ⟨ctx, hv⟩ := exec_eventLatch_of_masked hu hawake hm hmask
    rw [if_neg (by rw [hnew]; exact Bool.false_ne_true)] at hv
    exact ⟨_, hv, State.get_set_self ..⟩
  case latchHeld =>
    intro x c m hawake hm hmask hheld
    obtain ⟨ctx, hv⟩ := exec_eventLatch_of_masked hu hawake hm hmask
    rw [hv, if_pos hheld]
  case timeout =>
    intro x w hwait hruns hnext hdue hunmet
    exact exec_waitTimeout_of_due hu hwait hruns hnext hdue hunmet
  case service =>
    intro x r hdone hruns hnext hwaits
    exact exec_serviceResult_of_waiting hu hdone hruns hnext hwaits
  case release =>
    intro b r hformed hreached
    obtain ⟨v, hv⟩ := exec_syncRelease_of_reached hu hformed hreached
    refine ⟨_, hv, ?_, ?_, State.arrivals_nextSync _ _⟩
    · rw [State.get_nextSync _ _ _ _ (by decide), State.get_set_fld _ _ _ _ _ _ (by decide), State.get_set_self]
    · rw [State.get_nextSync _ _ _ _ (by decide), State.get_set_self]
  case trap =>
    intro x hawake hclear
    exact exec_trapFiring_of_clear hu hawake hclear
  case windowClose =>
    intro x hopen hhome hreached
    exact exec_trimWindowClose_of_reached hu hopen hhome hreached
  case memberWrite =>
    intro b w v hnone hopen
    rw [exec_syncMemberWrite, ← hu, State.writeSyncMem_of_idle _ _ hnone hopen]
  case memberRefused =>
    intro b w v hsome
    rw [exec_syncMemberWrite, ← hu, State.writeSyncMem_of_arrived _ _ hsome]
  case missed =>
    intro x w hwaits hdue
    exact exec_stepMissedRelease_of_due hu hwaits hdue

end Sys2Proof.Machine
end

section
/-! Windows, steps, passes, commits and reflections of the trim engines, and the statement about them (R211–R222). -/

namespace Sys2Proof.Machine

/-! ### Which meaning the dispatch calls -/

theorem exec_qualityAgeChange (e : Nat) (ch : Chan) (s : State) :
    exec (.qualityAgeChange e ch) s = execQualityAgeChange e ch s := rfl

theorem exec_channelReturn (e : Nat) (ch : Chan) (s : State) :
    exec (.channelReturn e ch) s = execChannelReturn e ch s := rfl

theorem exec_trimStepEnd (e : Nat) (q : Fin 256) (binsOk offsOk : Bool) (delay : BitVec 32) (qf : BitVec 16) (s : State) :
    exec (.trimStepEnd e q binsOk offsOk delay qf) s = execTrimStepEnd e q binsOk offsOk delay qf s := rfl

theorem exec_trimCommitMissed (e : Nat) (ch : Chan) (s : State) :
    exec (.trimCommitMissed e ch) s = execTrimCommitMissed e ch s := rfl

theorem exec_syncPulseReturn (e : Nat) (t : Tile) (off : Word32) (s : State) :
    exec (.syncPulseReturn e t off) s = execSyncPulseReturn e t off s := rfl

theorem exec_tskewLost (e : Nat) (t : Tile) (s : State) :
    exec (.tskewLost e t) s = execTskewLost e t s := rfl

theorem exec_reflectionStep (e : Nat) (ch : Chan) (inc ret : Nat) (stamped : Bool) (s : State) :
    exec (.reflectionStep e ch inc ret stamped) s = execReflectionStep e ch inc ret stamped s := rfl

theorem exec_reflectionEnd (e : Nat) (x : Site) (s : State) :
    exec (.reflectionEnd e x) s = execReflectionEnd e x s := rfl

/-! ### Quality figures (R222) -/

/-- The fields that hold the figures that rest on a channel's quality. -/
def qualityFlds : List Fld :=
  [F.MRD_CH_QF.QF_EDGE, F.MRD_CH_QF.STATE, F.MRD_CH_AGE.MS, F.MRD_TILE_STAT.FRESH, F.MRD_TILE_STAT.AGING, F.MRD_TILE_STAT.STALE,
    F.MRD_SITE_QF.WORST, F.MRD_SITE_QF.STALE, F.MRD_SITE_QF.AGING]

/-- Forming the quality figures again leaves every other field alone. -/
theorem State.get_refresh (s : State) (c : Nat) (f : Fld) (i : Nat) (hf : ∀ g ∈ qualityFlds, f.id ≠ g.id) :
    (s.refresh c).get f i = s.get f i := by
  simp only [qualityFlds, List.forall_mem_cons] at hf
  obtain ⟨hedge, hstate, hage, hfresh, haging, hstale, hworst, hsiteStale, hsiteAging, -⟩ := hf
  have hchan : ((s.refreshChan c).refreshTile (c / 128)).get f i = s.get f i := by
    unfold State.refreshTile State.refreshChan
    simp only [State.get_set_fld _ _ f _ _ _ hedge, State.get_set_fld _ _ f _ _ _ hstate, State.get_set_fld _ _ f _ _ _ hage,
      State.get_set_fld _ _ f _ _ _ hfresh, State.get_set_fld _ _ f _ _ _ haging, State.get_set_fld _ _ f _ _ _ hstale]
  unfold State.refresh
  extract_lets s1
  split
  · unfold State.refreshSite
    simp only [State.get_set_fld _ _ f _ _ _ hworst, State.get_set_fld _ _ f _ _ _ hsiteStale,
      State.get_set_fld _ _ f _ _ _ hsiteAging]
    exact hchan
  · exact hchan

/-- The quality figures are registers: forming them leaves Mordant's hidden state alone. -/
@[simp] theorem State.trimU_refresh (s : State) (c d : Nat) : (s.refresh c).trimU d = s.trimU d := by
  unfold State.refresh
  extract_lets s1
  split <;> rfl

/-- The age of a channel or of its tile's skew is looked at again. -/
theorem exec_qualityAgeChange_ages (e : Nat) (ch : Chan) (s u : State) (hu : u = s.elapse e) :
    exec (.qualityAgeChange e ch) s = .next (State.ageChan (
      let v := if secs 60 ≤ u.since ((Tab.get {} u.skews (ch.val / 128)).lastReturn.getD (u.get F.TLK_CORE_UPDT.DT (ch.val / 128))) then
        { u with skews := Tab.set {} u.skews (ch.val / 128) { Tab.get {} u.skews (ch.val / 128) with old := true } } else u
      if v.skewState (ch.val / 128) = 0 then v else v.set F.MRD_TSKEW.VALID (ch.val / 128) 0) ch.val) := by
  subst hu
  simp only [exec_qualityAgeChange, execQualityAgeChange, decide_eq_true_eq]

/-! ### Channels and steps (R211–R217) -/

theorem exec_channelReturn_of_closed {e : Nat} {ch : Chan} {s u : State} (hu : u = s.elapse e)
    (hheld : u.flag F.MRD_CH_QF.HELD ch.val = true) (hclosed : u.trimAvail ch.val = false) :
    exec (.channelReturn e ch) s = .next ((u.idleEngine (ch.val / 4)).returnChan ch.val) := by
  subst hu
  simp [exec_channelReturn, execChannelReturn, hheld, hclosed]

/-- An engine that holds no channel begins its next step. -/
theorem exec_trimStepEnd_of_free {e : Nat} {q : Fin 256} {b o : Bool} {d : BitVec 32} {f : BitVec 16} {s u : State}
    (hu : u = s.elapse e) (hfree : (u.engine q.val).hold = none) :
    exec (.trimStepEnd e q b o d f) s = .next (u.beginStep q.val) := by
  subst hu
  simp only [exec_trimStepEnd, execTrimStepEnd, hfree]

/-- A step that ends with valid data is kept. -/
theorem exec_trimStepEnd_of_valid {e c : Nat} {q : Fin 256} {b o : Bool} {d : BitVec 32} {f : BitVec 16} {s u : State}
    (hu : u = s.elapse e) (hhold : (u.engine q.val).hold = some c) (htrim : (u.engine q.val).refl = false)
    (hends : u.reached (u.engine q.val).stepEnd = true) (hvalid : u.stepValid c (u.engine q.val).stepEnd = true) :
    exec (.trimStepEnd e q b o d f) s = .next
      ((u.keepStep c (u.engine q.val).idx (u.engine q.val).stepEnd b o d.toNat f.toNat).beginStep q.val) := by
  subst hu
  simp [exec_trimStepEnd, execTrimStepEnd, hhold, htrim, hends, hvalid]

/-! ### Commits (R218, R221) -/

theorem exec_trimCommit (e : Nat) (ch : Chan) (s : State) :
    exec (.trimCommit e ch) s = .next ((s.elapse e).commitChan ch.val) := rfl

/-- The commit of a pass leaves a fixture delay that waits alone. -/
theorem State.fix_commitPass (s : State) (c : Nat) (r : TrimResult) : ((s.commitPass c r).trimU c).fix = (s.trimU c).fix := by
  unfold State.commitPass
  rw [State.trimU_refresh, State.setTrimU_self]

theorem State.commitChan_of_pass {s : State} {c : Nat} {r : TrimResult} (hpend : (s.trimU c).pend = some r)
    (hfix : (s.trimU c).fix = none) (hdue : s.commitDue c r.from_ = true) : s.commitChan c = s.commitPass c r := by
  simp [State.commitChan, hpend, hdue, State.fix_commitPass, hfix]

theorem State.commitChan_of_fix {s : State} {c : Nat} {f : FixResult} (hpend : (s.trimU c).pend = none)
    (hfix : (s.trimU c).fix = some f) (hdue : s.commitDue c f.from_ = true) : s.commitChan c = s.commitFix c f := by
  simp [State.commitChan, hpend, hdue, hfix]

/-- What the commit of a pass writes (R218). -/
theorem State.get_commitPass (s : State) (c : Nat) (r : TrimResult) :
    (s.commitPass c r).get F.MRD_CH_TRIM_DT.DT c = r.done % 2 ^ 64 ∧ (s.commitPass c r).get F.MRD_CH_QF.NEVER c = 0 ∧
      (s.commitPass c r).get F.MRD_CH_QF.PENDING c = 0 ∧
      (s.commitPass c r).get F.MRD_CH_PASS.QF_TRIM c = r.qf % 2 ^ F.MRD_CH_PASS.QF_TRIM.w := by
  unfold State.commitPass
  refine ⟨?_, ?_, ?_, ?_⟩ <;> rw [State.get_refresh _ _ _ _ (by decide), State.setTrimU_get]
  · rw [State.get_set_fld _ _ _ _ _ _ (by decide), State.get_set_fld _ _ _ _ _ _ (by decide),
      State.get_set_fld _ _ _ _ _ _ (by decide), State.get_set_self]
  · rw [State.get_set_fld _ _ _ _ _ _ (by decide), State.get_set_fld _ _ _ _ _ _ (by decide), State.get_set_self]
    rfl
  · rw [State.get_set_fld _ _ _ _ _ _ (by decide), State.get_set_self]
    rfl
  · rw [State.get_set_self]

/-- What the commit of a fixture delay writes, in one form for a valid delay and one that is not (R221). -/
theorem State.commitFix_eq (s : State) (c : Nat) (f : FixResult) : s.commitFix c f =
    ((((s.set F.MRD_CH_REFL.PEND c 0).setTrimU c { s.trimU c with fix := none }).set F.WOD_CH_FIXDELAY.DELAY c f.d).set
      F.WOD_CH_FIXDELAY.VALID c (if f.valid then 1 else 0)) := by
  unfold State.commitFix
  cases f.valid <;> rfl

theorem State.get_commitFix (s : State) (c : Nat) (f : FixResult) :
    (s.commitFix c f).get F.MRD_CH_REFL.PEND c = 0 ∧
      (s.commitFix c f).get F.WOD_CH_FIXDELAY.DELAY c = f.d % 2 ^ F.WOD_CH_FIXDELAY.DELAY.w ∧
      (s.commitFix c f).get F.WOD_CH_FIXDELAY.VALID c = if f.valid then 1 else 0 := by
  rw [State.commitFix_eq]
  refine ⟨?_, ?_, ?_⟩
  · rw [State.get_set_fld _ _ _ _ _ _ (by decide), State.get_set_fld _ _ _ _ _ _ (by decide), State.setTrimU_get,
      State.get_set_self]
    rfl
  · rw [State.get_set_fld _ _ _ _ _ _ (by decide), State.get_set_self]
  · rw [State.get_set_self]
    cases f.valid <;> rfl

/-- A pass whose commit point was missed raises MISSED_RELEASE of its tile (R20). -/
theorem exec_trimCommitMissed_of_due {e : Nat} {ch : Chan} {r : TrimResult} {s u : State} (hu : u = s.elapse e)
    (hpend : (u.trimU ch.val).pend = some r) (hdue : u.commitDue ch.val r.from_ = true) :
    ∃ v : State, exec (.trimCommitMissed e ch) s = .next (v.raiseC F.MRD_FAULT_STAT.MISSED_RELEASE (ch.val / 128)) := by
  subst hu
  simp only [exec_trimCommitMissed, execTrimCommitMissed, hpend, hdue, Bool.true_or, if_true]
  exact ⟨_, rfl⟩

/-! ### Tile skew (R219) -/

/-- What SYNC_PULSE does on one tile's link. -/
def State.pulseTile (s : State) (t : Nat) : State :=
  let k := Tab.get {} s.skews t
  let duePulse := match k.sent with | some d => s.reached (wrap64 (d + us 1000)) | none => true
  if s.tileUp t && duePulse then
    { s with skews := Tab.set {} s.skews t { k with sent := some s.now, waiting := true } }.emit (.tskewPulse t)
  else s

theorem exec_syncPulse (e : Nat) (s : State) :
    exec (.syncPulse e) s = .next ((s.elapse e).each (List.range 8) State.pulseTile) := rfl

theorem State.pulseTile_of_down {s : State} {t : Nat} (hdown : s.tileUp t = false) : s.pulseTile t = s := by
  simp [State.pulseTile, hdown]

/-- The first pulse on a link that is up goes out at once. -/
theorem State.pulseTile_of_first {s : State} {t : Nat} (hup : s.tileUp t = true) (hfirst : (Tab.get {} s.skews t).sent = none) :
    s.pulseTile t =
      { s with skews := Tab.set {} s.skews t { Tab.get ({} : Skew) s.skews t with sent := some s.now, waiting := true } }.emit
        (.tskewPulse t) := by
  simp [State.pulseTile, hup, hfirst]

/-- A pulse touches no register, so the links stay as they are. -/
@[simp] theorem State.tileUp_pulseTile (s : State) (t k : Nat) : (s.pulseTile t).tileUp k = s.tileUp k := by
  unfold State.pulseTile
  extract_lets
  split <;> rfl

/-- An operation that changes nothing at any number of a list changes nothing. -/
theorem State.each_unchanged {s : State} {f : State → Nat → State} {l : List Nat} (h : ∀ k ∈ l, f s k = s) : s.each l f = s := by
  unfold State.each
  induction l with
  | nil => rfl
  | cons a l ih =>
    rw [List.foldl_cons, h a (List.mem_cons_self ..)]
    exact ih fun k hk => h k (List.mem_cons_of_mem _ hk)

/-- An operation that changes something at one number of a list only is that one change. -/
theorem State.each_single {s : State} {f : State → Nat → State} {l : List Nat} {t : Nat} (hmem : t ∈ l) (hnodup : l.Nodup)
    (hbefore : ∀ k ∈ l, k ≠ t → f s k = s) (hafter : ∀ k ∈ l, k ≠ t → f (f s t) k = f s t) : s.each l f = f s t := by
  induction l with
  | nil => cases hmem
  | cons a l ih =>
    obtain ⟨hnew, hnodup⟩ := List.nodup_cons.1 hnodup
    have hcons : s.each (a :: l) f = (f s a).each l f := rfl
    by_cases hat : a = t
    · subst hat
      rw [hcons]
      exact State.each_unchanged fun k hk => hafter k (List.mem_cons_of_mem _ hk) fun hka => hnew (hka ▸ hk)
    · rw [hcons, hbefore a (List.mem_cons_self ..) hat]
      exact ih ((List.mem_cons.1 hmem).resolve_left (Ne.symm hat)) hnodup (fun k hk => hbefore k (List.mem_cons_of_mem _ hk))
        fun k hk => hafter k (List.mem_cons_of_mem _ hk)

/-- Where one tile's link alone is up, SYNC_PULSE is the pulse on that link. -/
theorem State.pulses_of_alone {s : State} {t : Nat} (ht : t < 8) (halone : ∀ k < 8, k ≠ t → s.tileUp k = false) :
    s.each (List.range 8) State.pulseTile = s.pulseTile t := by
  refine State.each_single (List.mem_range.2 ht) List.nodup_range (fun k hk hkt => ?_) (fun k hk hkt => ?_)
  · exact State.pulseTile_of_down (halone k (List.mem_range.1 hk) hkt)
  · exact State.pulseTile_of_down (by rw [State.tileUp_pulseTile, halone k (List.mem_range.1 hk) hkt])

/-- A pulse that was waited for gives the tile's offset; what follows forms the residue and the quality figures. -/
theorem exec_syncPulseReturn_of_waiting {e : Nat} {t : Tile} {off : Word32} {s u : State} (hu : u = s.elapse e)
    (hwaits : (Tab.get {} u.skews t.val).waiting = true) :
    ∃ (v : State) (n : Nat) (l : List Nat), exec (.syncPulseReturn e t off) s = .next
      ((((((v.set F.MRD_TSKEW.OFFSET t.val off.toNat).set F.MRD_TSKEW.VALID t.val 1).drew.set F.MRD_TSKEW.RESID t.val n).each l
        (fun s c => s.refreshChan c))).refreshTile t.val) := by
  subst hu
  simp only [exec_syncPulseReturn, execSyncPulseReturn, hwaits, if_true]
  exact ⟨_, _, _, rfl⟩

/-- The quality figures of channels and tiles leave the tiles' skew alone. -/
theorem State.refreshed_keeps_skew (s : State) (l : List Nat) (t : Nat) :
    Keeps (fun k => k != F.MRD_TSKEW.OFFSET.id / 128) s ((s.each l (fun s c => s.refreshChan c)).refreshTile t) :=
  State.refreshTile_keeps _ (Within.ne (by decide)) (State.each_keeps
    (fun _ _ h => State.refreshChan_keeps _ (Within.ne (by decide)) h) (Keeps.refl _ s))

theorem exec_tskewLost_of_reached {e : Nat} {t : Tile} {s u : State} (hu : u = s.elapse e)
    (hlate : u.reached (wrap64 ((Tab.get {} u.skews t.val).lastReturn.getD (u.get F.TLK_CORE_UPDT.DT t.val) + us 10000)) = true) :
    exec (.tskewLost e t) s = .next (u.set F.MRD_FAULT_STAT.TSKEW_LOST t.val 1) := by
  subst hu
  simp only [exec_tskewLost, execTskewLost, hlate, if_true, State.raiseC]

/-! ### Fixture reflection (R220, R221) -/

theorem exec_reflectionRequest (e : Nat) (x : Site) (s : State) :
    exec (.reflectionRequest e x) s = .next ((s.elapse e).requestRefl x.val) := rfl

theorem State.requestRefl_of_refused {s : State} {x : Nat} (h : s.reflRefused x false = true) :
    s.requestRefl x = s.set F.MRD_REFL_STAT.REJ x 1 := by
  simp [State.requestRefl, h]

theorem State.requestRefl_of_accepted {s : State} {x : Nat} (h : s.reflRefused x false = false) : s.requestRefl x =
    (s.beginRefl x).sendToken x 13 (wrap64 (s.now + s.img.leadHop)) [2 + s.get F.MDR_SITE_STATE.TRIMOK x] := by
  simp [State.requestRefl, h]

/-- A step of a reflection that ends with both stamps keeps their distance. -/
theorem exec_reflectionStep_of_stamped {e x a b : Nat} {ch : Chan} {s u : State} (hu : u = s.elapse e)
    (hsite : u.chanSite ch.val = some x) (hstate : u.get F.MRD_REFL_STAT.STATE x = 2) (hrefl : (u.engine (ch.val / 4)).refl = true)
    (hhold : (u.engine (ch.val / 4)).hold = some ch.val) (hends : u.reached (u.engine (ch.val / 4)).stepEnd = true) :
    exec (.reflectionStep e ch a b true) s = .next
      ((u.setTrimU ch.val { u.trimU ch.val with reflSteps := (u.trimU ch.val).reflSteps ++
        [(wrap64 (b + 2 ^ 64 - wrap64 a), decide (wrap64 (b + 2 ^ 64 - wrap64 a) ≤ 256000))] }).afterRefl x ch.val) := by
  subst hu
  simp [exec_reflectionStep, execReflectionStep, hsite, hstate, hrefl, hhold, hends]

theorem exec_reflectionEnd_of_done {e : Nat} {x : Site} {s u : State} (hu : u = s.elapse e)
    (hdone : (u.reflChans x.val).all (fun c => (u.trimU c).reflDone) = true) :
    exec (.reflectionEnd e x) s = .next ((u.endReflection x.val false).dutKick x.val) := by
  subst hu
  simp only [exec_reflectionEnd, execReflectionEnd, hdone, if_true]

/-- A reflection whose window has closed ends with PARTIAL. -/
theorem exec_reflectionEnd_of_closed {e : Nat} {x : Site} {s u : State} (hu : u = s.elapse e)
    (hpart : (u.reflChans x.val).all (fun c => (u.trimU c).reflDone) = false) (hbusy : u.siteState x.val ≠ 1)
    (hclosed : u.flag F.MDR_SITE_STATE.TRIMOK x.val = false) :
    exec (.reflectionEnd e x) s = .next ((u.endReflection x.val true).dutKick x.val) := by
  subst hu
  simp only [exec_reflectionEnd, execReflectionEnd, hpart, hclosed, bne_iff_ne.2 hbusy, Bool.false_eq_true, if_false, Bool.not_false,
    Bool.and_self, if_true]

/-- Settles O17: each command is one operation on the state after its ticks, chosen by what it finds of engine, channel and tile. -/
theorem trimComplete : Obligations.TrimComplete := by
  intro e s u hu
  refine ⟨?channelReturn, ?ageChange, ?stepFree, ?stepEnds, ?commitPass, ?commitFix, ?commitMissed, ?pulse, ?pulseReturn,
    ?skewLost, ?reflRefused, ?reflBegins, ?reflStep, ?reflDone, ?reflClosed⟩
  case channelReturn =>
    intro ch hheld hclosed
    exact exec_channelReturn_of_closed hu hheld hclosed
  case ageChange =>
    intro ch
    exact exec_qualityAgeChange_ages e ch s u hu
  case stepFree =>
    intro q b o d f hfree
    exact exec_trimStepEnd_of_free hu hfree
  case stepEnds =>
    intro q b o d f c hhold htrim hends hvalid
    exact exec_trimStepEnd_of_valid hu hhold htrim hends hvalid
  case commitPass =>
    intro ch r hpend hfix hdue
    exact ⟨_, by rw [exec_trimCommit, ← hu, State.commitChan_of_pass hpend hfix hdue], State.get_commitPass u ch.val r⟩
  case commitFix =>
    intro ch f hpend hfix hdue
    exact ⟨_, by rw [exec_trimCommit, ← hu, State.commitChan_of_fix hpend hfix hdue], State.get_commitFix u ch.val f⟩
  case commitMissed =>
    intro ch r hpend hdue
    obtain ⟨v, hv⟩ := exec_trimCommitMissed_of_due hu hpend hdue
    exact ⟨_, hv, State.get_set_self ..⟩
  case pulse =>
    intro t halone hup hfirst
    refine ⟨_, by rw [exec_syncPulse, ← hu, State.pulses_of_alone t.isLt halone, State.pulseTile_of_first hup hfirst], rfl, ?_, ?_⟩
    · simp [State.emit]
    · simp [State.emit]
  case pulseReturn =>
    intro t off hwaits
    obtain ⟨v, n, l, hv⟩ := exec_syncPulseReturn_of_waiting (off := off) hu hwaits
    refine ⟨_, hv, ?_, ?_⟩
    · rw [(State.refreshed_keeps_skew _ _ _).reg _ _ (by decide), State.get_set_fld _ _ _ _ _ _ (by decide), State.drew_get,
        State.get_set_fld _ _ _ _ _ _ (by decide), State.get_set_self]
    · rw [(State.refreshed_keeps_skew _ _ _).reg _ _ (by decide), State.get_set_fld _ _ _ _ _ _ (by decide), State.drew_get,
        State.get_set_self]
      rfl
  case skewLost =>
    intro t hlate
    exact exec_tskewLost_of_reached hu hlate
  case reflRefused =>
    intro x hrefused
    rw [exec_reflectionRequest, ← hu, State.requestRefl_of_refused hrefused]
  case reflBegins =>
    intro x haccepted
    rw [exec_reflectionRequest, ← hu, State.requestRefl_of_accepted haccepted]
  case reflStep =>
    intro ch x a b hsite hstate hrefl hhold hends
    exact exec_reflectionStep_of_stamped hu hsite hstate hrefl hhold hends
  case reflDone =>
    intro x hdone
    exact exec_reflectionEnd_of_done hu hdone
  case reflClosed =>
    intro x hpart hbusy hclosed
    exact exec_reflectionEnd_of_closed hu hpart hbusy hclosed

end Sys2Proof.Machine
end

section
/-! Resets, rails and the pins of power and test, and the statement about them (R32–R36, R373). -/

namespace Sys2Proof.Machine

/-! ### Which meaning the dispatch calls -/

theorem exec_powerOnReset (e : Nat) (testen safeInHigh resetHigh : Bool) (s : State) :
    exec (.powerOnReset e testen safeInHigh resetHigh) s = execPowerOnReset e testen safeInHigh resetHigh s := rfl

theorem exec_railsGood (e : Nat) (s : State) : exec (.railsGood e) s = execRailsGood e s := rfl

theorem exec_railUnderVoltage (e : Nat) (rail : Fin 7) (s : State) :
    exec (.railUnderVoltage e rail) s = execRailUnderVoltage e rail s := rfl

theorem exec_resetNFall (e : Nat) (s : State) : exec (.resetNFall e) s = execResetNFall e s := rfl

theorem exec_deviceReset (e : Nat) (s : State) : exec (.deviceReset e) s = execDeviceReset e s := rfl

theorem exec_resetNRise (e : Nat) (s : State) : exec (.resetNRise e) s = execResetNRise e s := rfl

theorem exec_devReset (e : Nat) (v : Word32) (s : State) : exec (.devReset e v) s = .next ((s.elapse e).devCmd v.toNat) := rfl

/-! ### What a reset leaves in the registers (R9, R35, R373) -/

/-- A field is at its reset value in the state after power-on, but for the rails. -/
theorem State.get_reset (f : Fld) (i : Nat) (hf : f.id ≠ F.PWR_RAIL_STAT.GOOD.id) : State.reset.get f i = f.reset i := by
  rw [State.reset, State.get_set_fld _ _ _ _ _ _ hf, State.get_default]

/-- The fields that every reset keeps. -/
def keptFlds : List Fld :=
  [F.DEV_ID.ORDER, F.DEV_SERIAL.SERIAL, F.CFG_FUSE_STAT.KEYHASH_PROG, F.CFG_FUSE_STAT.SECVER, F.UMB_AGE.BLOCKS]

theorem State.get_restart_of_kept (s r : State) (f : Fld) (i : Nat) (hkept : f.id ∈ keptFlds.map Fld.id) :
    (s.restart r).get f i = s.get f i :=
  (State.get_restart s r f i).trans (if_pos hkept)

theorem State.get_restart_of_lost (s : State) (f : Fld) (i : Nat) (hlost : f.id ∉ keptFlds.map Fld.id)
    (hrail : f.id ≠ F.PWR_RAIL_STAT.GOOD.id) : (s.restart State.reset).get f i = f.reset i :=
  ((State.get_restart s State.reset f i).trans (if_neg hlost)).trans (State.get_reset f i hrail)

/-- SAFE_IN_n high at a reset enters nothing. -/
theorem State.sampleSafeIn_of_high {s : State} (h : s.pins.safeInHigh = true) : s.sampleSafeIn = s := by
  simp [State.sampleSafeIn, h]

theorem State.isSafe_of_zero {s : State} (h : s.get F.CIN_STAT.SAFE 0 = 0) : s.isSafe = false := by
  simp [State.isSafe, State.flag, h]

/-! ### Device resets (R32, R373) -/

section
variable {s : State} (hhigh : s.pins.safeInHigh = true)
include hhigh

theorem State.dev_deviceReset : s.deviceReset.dev = 1 := by
  rw [State.dev, State.get_deviceReset s hhigh, if_neg (by decide), State.get_restart_of_lost _ _ _ (by decide) (by decide)]
  rfl

theorem State.isSafe_deviceReset : s.deviceReset.isSafe = false := by
  refine State.isSafe_of_zero ?_
  rw [State.get_deviceReset s hhigh, if_neg (by decide), State.get_restart_of_lost _ _ _ (by decide) (by decide)]
  rfl

/-- Device time runs through a device reset. -/
theorem State.now_deviceReset : s.deviceReset.now = s.now := by
  rw [State.now, State.get_deviceReset s hhigh, if_pos (by decide)]
  rfl

theorem State.era_deviceReset : s.deviceReset.get F.UMB_ERA.ERA 0 = s.get F.UMB_ERA.ERA 0 := by
  rw [State.get_deviceReset s hhigh, if_pos (by decide)]

end

/-! ### The cold start (R37, R38) -/

/-- Of the registers a cold start writes PWR_STAT alone. -/
theorem State.get_coldStart (s : State) (t : Nat) (f : Fld) (i : Nat) (hf : f.id ≠ F.PWR_STAT.PHASE.id) :
    (s.coldStart t).get f i = s.get f i := by
  rw [State.coldStart, State.get_set_fld _ _ _ _ _ _ hf, State.get_mk]

@[simp] theorem State.pins_coldStart (s : State) (t : Nat) : (s.coldStart t).pins = s.pins := (rfl)

@[simp] theorem State.inReset_coldStart (s : State) (t : Nat) : (s.coldStart t).pwr.inReset = s.pwr.inReset := (rfl)

/-! ### Power-on and loss of VAUX (R34, R35) -/

/-- A power-on reset with SAFE_IN_n high. -/
theorem exec_powerOnReset_of_high {e : Nat} {ti ri : Bool} {s u : State} (hu : u = s.elapse e) :
    exec (.powerOnReset e ti true ri) s = .next { u.restart State.reset with
      pins := { resetN := ri, testen := ti, safeInHigh := true, perstN := u.pins.perstN },
      pwr := { (u.restart State.reset).pwr with inReset := !ri } } := by
  subst hu
  rw [exec_powerOnReset]
  exact congrArg Host.Outcome.next (State.sampleSafeIn_of_high rfl)

theorem exec_vauxUnderVoltage {e : Nat} {s u : State} (hu : u = s.elapse e) :
    exec (.vauxUnderVoltage e) s = .next { (u.restart State.reset).set F.PWR_RAIL_STAT.GOOD 0 0 with
      pins := { u.pins with safeOutLow := false, trigOut := 0, trigUntil := [], ppsRise := none },
      pwr := { (u.restart State.reset).pwr with vauxGood := false } } := by
  subst hu
  rfl

/-! ### Rails (R34–R36) -/

/-- With VAUX good RAILS_GOOD marks every rail, whether a cold start follows or not. -/
theorem exec_railsGood_of_vaux {e : Nat} {s u : State} (hu : u = s.elapse e) (hvaux : u.pwr.vauxGood = true) :
    exec (.railsGood e) s = .next (u.set F.PWR_RAIL_STAT.GOOD 0 0xFF) ∨
      ∃ t, exec (.railsGood e) s = .next ((u.set F.PWR_RAIL_STAT.GOOD 0 0xFF).coldStart t) := by
  subst hu
  simp only [exec_railsGood, execRailsGood, hvaux, Bool.not_true, Bool.false_eq_true, if_false]
  split
  · exact .inr ⟨_, rfl⟩
  · exact .inl rfl

/-- A rail that fails is marked and enters safe state. -/
theorem exec_railUnderVoltage_of_good {e : Nat} {rail : Fin 7} {s u v : State} (hu : u = s.elapse e)
    (hgood : bitAt (u.get F.PWR_RAIL_STAT.GOOD 0) rail.val = true)
    (hv : v = (u.set F.PWR_RAIL_STAT.GOOD 0 (clearBit (u.get F.PWR_RAIL_STAT.GOOD 0) rail.val)).set F.PWR_FAULT_STAT.UV 0
      (setBit (u.get F.PWR_FAULT_STAT.UV 0) rail.val)) :
    exec (.railUnderVoltage e rail) s =
      .next (({ v with pwr := { u.pwr with heldRails := setBit u.pwr.heldRails rail.val } } : State).enterSafe 8) := by
  subst hu hv
  simp only [exec_railUnderVoltage, execRailUnderVoltage, hgood, if_true, State.set_pwr]

/-! ### RESET_n (R32) -/

theorem exec_resetNFall_of_high {e : Nat} {s u : State} (hu : u = s.elapse e) (hhigh : u.pins.resetN = true) :
    ∃ p, exec (.resetNFall e) s =
      .next { u with pins := { u.pins with resetN := false, resetFall := u.now, resetDone := false }, pwr := p } := by
  subst hu
  simp only [exec_resetNFall, execResetNFall, hhigh, if_true]
  exact ⟨_, rfl⟩

theorem State.resetLong_of_low {s : State} (hlow : s.pins.resetN = false)
    (hlong : s.reached (wrap64 (s.pins.resetFall + us 10)) = true) : s.resetLong = true := by
  simp [State.resetLong, hlow, hlong]

theorem exec_deviceReset_of_long {e : Nat} {s u : State} (hu : u = s.elapse e) (hlong : u.resetLong = true)
    (hnew : u.pins.resetDone = false) : exec (.deviceReset e) s = .next u.longLow := by
  subst hu
  simp only [exec_deviceReset, execDeviceReset, hlong, hnew, Bool.not_false, Bool.and_self, if_true]

theorem exec_resetNRise_of_long {e : Nat} {s u : State} (hu : u = s.elapse e) (hlow : u.pins.resetN = false)
    (hlong : u.resetLong = true) : exec (.resetNRise e) s = .next (if u.pins.resetDone then u else u.longLow).resetRisen := by
  subst hu
  simp only [exec_resetNRise, execResetNRise, hlow, hlong, Bool.false_eq_true, if_false, if_true]

/-- The rise of RESET_n is recorded, whether a cold start follows or not. -/
theorem State.pins_resetRisen (s : State) : s.resetRisen.pins = { s.pins with resetN := true, resetRise := s.now } := by
  unfold State.resetRisen
  extract_lets
  split <;> rfl

/-- A low of RESET_n that has started its reset, or does so now with SAFE_IN_n high, leaves device time running. -/
theorem State.now_afterLow {s : State} (h : s.pins.resetDone = true ∨ s.pins.safeInHigh = true) :
    (if s.pins.resetDone then s else s.longLow).now = s.now := by
  split
  next => rfl
  next hnew => exact State.now_deviceReset (h.resolve_left hnew)

/-! ### DEV_RESET (R372) -/

/-- The device after the reset that DEV_RESET makes: RESET_n counts as risen at the write. -/
def State.devReset (s : State) : State :=
  { s.deviceReset with pins := { s.deviceReset.pins with resetRise := s.deviceReset.now } }

/-- A reset that the key written to PCI_DEVCMD makes, whether a cold start follows or not. -/
theorem exec_devReset_of_key {e : Nat} {v : Word32} {s u : State} (hu : u = s.elapse e) (hop : bitsOf v.toNat 0 8 = 1)
    (hkey : bitsOf v.toNat 8 8 = 0xD5) :
    exec (.devReset e v) s = .next u.devReset ∨ ∃ t, exec (.devReset e v) s = .next (u.devReset.coldStart t) := by
  subst hu
  simp only [exec_devReset, State.devCmd, hop, hkey, decide_true, Bool.and_self, if_true]
  split
  · exact .inr ⟨_, rfl⟩
  · exact .inl rfl

/-! ### TESTEN (R33) -/

theorem exec_testenHigh (e : Nat) (s : State) :
    exec (.testenHigh e) s = .next { s.elapse e with pins := { (s.elapse e).pins with testen := true } } := rfl

theorem exec_testenLow (e : Nat) (s : State) :
    exec (.testenLow e) s = .next { s.elapse e with pins := { (s.elapse e).pins with testen := false } } := rfl

/-- Settles O1: each command is one reset, one change of the rails or one change of a pin on the state after its ticks. -/
theorem powerAndPinsComplete : Obligations.PowerAndPinsComplete := by
  intro e s u hu
  refine ⟨?powerOn, ?vauxLost, ?railsGood, ?railLost, ?resetFalls, ?deviceReset, ?resetRises, ?devReset, ?testenHigh, ?testenLow⟩
  case powerOn =>
    intro ti ri
    refine ⟨_, exec_powerOnReset_of_high hu, ?_, ?_, ?_, ?_, ?_, ?_, rfl, rfl, rfl, rfl, rfl⟩
    · exact State.get_restart_of_lost u F.DEV_STATE.STATE 0 (by decide) (by decide)
    · exact State.get_restart_of_lost u F.UMB_DT.DT 0 (by decide) (by decide)
    · exact State.get_restart_of_lost u F.UMB_ERA.ERA 0 (by decide) (by decide)
    · exact State.isSafe_of_zero (State.get_restart_of_lost u F.CIN_STAT.SAFE 0 (by decide) (by decide))
    · exact State.get_restart_of_kept u State.reset F.CFG_FUSE_STAT.SECVER 0 (by decide)
    · exact State.get_restart_of_kept u State.reset F.UMB_AGE.BLOCKS 0 (by decide)
  case vauxLost =>
    refine ⟨_, exec_vauxUnderVoltage hu, rfl, ?_, ?_, ?_, rfl, rfl⟩
    · rw [State.get_mk, State.get_set_self]
      rfl
    · rw [State.now, State.get_mk, State.get_set_fld _ _ _ _ _ _ (by decide), State.get_restart_of_lost _ _ _ (by decide) (by decide)]
      rfl
    · rw [State.get_mk, State.get_set_fld _ _ _ _ _ _ (by decide), State.get_restart_of_kept _ _ _ _ (by decide)]
  case railsGood =>
    intro hvaux
    obtain h | ⟨t, h⟩ := exec_railsGood_of_vaux hu hvaux
    · exact ⟨_, h, State.get_set_self ..⟩
    · exact ⟨_, h, (State.get_coldStart _ _ _ _ (by decide)).trans (State.get_set_self ..)⟩
  case railLost =>
    intro rail hgood
    refine ⟨_, exec_railUnderVoltage_of_good hu hgood rfl, State.enterSafe_isSafe _ _, ?_, ?_⟩
    · rw [Keeps.get (State.enterSafe_keeps 8 (Within.ne (by decide)) (Keeps.refl _ _)), State.get_mk, State.get_set_self]
      rfl
    · rw [Keeps.get (State.enterSafe_keeps 8 (Within.ne (by decide)) (Keeps.refl _ _)), State.get_mk,
        State.get_set_fld _ _ _ _ _ _ (by decide), State.get_set_self]
      rfl
  case resetFalls =>
    intro hhigh
    obtain ⟨p, h⟩ := exec_resetNFall_of_high hu hhigh
    exact ⟨_, h, rfl, rfl, fun f i => State.get_mk u f i⟩
  case deviceReset =>
    intro hlow hlong hnew hhigh
    obtain ⟨hkeys, hdram, hlake, hreset⟩ := State.deviceReset_rest u hhigh
    exact ⟨_, exec_deviceReset_of_long hu (State.resetLong_of_low hlow hlong) hnew, State.dev_deviceReset hhigh,
      State.now_deviceReset hhigh, State.era_deviceReset hhigh, State.isSafe_deviceReset hhigh, hkeys, hdram, hlake, hreset⟩
  case resetRises =>
    intro hlow hlong htime
    refine ⟨_, exec_resetNRise_of_long hu hlow (State.resetLong_of_low hlow hlong), ?_, ?_⟩
    · rw [State.pins_resetRisen]
    · rw [State.pins_resetRisen, State.now_afterLow htime]
  case devReset =>
    intro v hop hkey hhigh
    obtain ⟨-, -, -, hreset⟩ := State.deviceReset_rest u hhigh
    have hdev : u.devReset.dev = 1 := State.dev_deviceReset hhigh
    have hnow : u.devReset.now = u.now := State.now_deviceReset hhigh
    have hrise : u.devReset.pins.resetRise = u.now := State.now_deviceReset hhigh
    obtain h | ⟨t, h⟩ := exec_devReset_of_key hu hop hkey
    · exact ⟨_, h, hdev, hnow, hrise, hreset⟩
    · exact ⟨_, h, (State.get_coldStart _ _ _ _ (by decide)).trans hdev, (State.get_coldStart _ _ _ _ (by decide)).trans hnow,
        by rw [State.pins_coldStart, hrise], (State.inReset_coldStart ..).trans hreset⟩
  case testenHigh =>
    subst hu
    exact ⟨_, exec_testenHigh e s, rfl, fun f i => State.get_mk _ f i⟩
  case testenLow =>
    subst hu
    exact ⟨_, exec_testenLow e s, rfl, fun f i => State.get_mk _ f i⟩

end Sys2Proof.Machine
end

section
/-! The cold start, the ladder, sleep, Dormant and the thermal sensors, and the statement about them (R37–R46). -/

namespace Sys2Proof.Machine

/-! ### Which meaning the dispatch calls -/

theorem exec_coreIslandAdmission (e : Nat) (s : State) : exec (.coreIslandAdmission e) s = execCoreIslandAdmission e s := rfl

theorem exec_tileCommonAdmission (e : Nat) (s : State) : exec (.tileCommonAdmission e) s = execTileCommonAdmission e s := rfl

theorem exec_ladderRequest (e : Nat) (s : State) : exec (.ladderRequest e) s = execLadderRequest e s := rfl

theorem exec_ladderSlot (e : Nat) (s : State) : exec (.ladderSlot e) s = execLadderSlot e s := rfl

theorem exec_groupSettleEnd (e : Nat) (g : Group) (failed : Bool) (s : State) :
    exec (.groupSettleEnd e g failed) s = execGroupSettleEnd e g failed s := rfl

theorem exec_poweringEnd (e : Nat) (s : State) : exec (.poweringEnd e) s = execPoweringEnd e s := rfl

theorem exec_pwrSleepSet (e : Nat) (w : Fin 8) (v : Word32) (s : State) :
    exec (.pwrSleepSet e w v) s = .next ((s.elapse e).sleepSet w.val v.toNat) := rfl

theorem exec_pwrSleepClr (e : Nat) (w : Fin 8) (v : Word32) (s : State) :
    exec (.pwrSleepClr e w v) s = .next ((s.elapse e).sleepClr w.val v.toNat) := rfl

theorem exec_dormantRequest (e : Nat) (s : State) : exec (.dormantRequest e) s = .next (s.elapse e).dormant := rfl

theorem exec_dormantEntryComplete (e : Nat) (s : State) :
    exec (.dormantEntryComplete e) s = execDormantEntryComplete e s := rfl

theorem exec_wake (e : Nat) (c : WakeCause) (s : State) : exec (.wake e c) s = execWake e c s := rfl

theorem exec_wakeComplete (e : Nat) (s : State) : exec (.wakeComplete e) s = execWakeComplete e s := rfl

theorem exec_thermalConversion (e : Nat) (temps : List (BitVec 16)) (s : State) :
    exec (.thermalConversion e temps) s = execThermalConversion e temps s := rfl

/-! ### Groups (R38) -/

/-- The power state of every group is a field of PWR_GROUP_STATE. -/
theorem groupFld_place (g : Nat) : (groupFld g).id / 128 = Reg.PWR_GROUP_STATE.ctorIdx := by
  simp only [groupFld, Fld.id]
  omega

/-- Where PWR_GROUP_STATE is left alone a group stays in its power state. -/
theorem Keeps.group {s t : State} (h : Keeps (fun k => k != Reg.PWR_GROUP_STATE.ctorIdx) s t) (g : Nat) : t.group g = s.group g :=
  h.reg _ _ (by rw [groupFld_place, bne_self_eq_false])

/-! ### Unit admissions (R37) -/

theorem exec_coreIslandAdmission_of_due {e d : Nat} {s u : State} (hu : u = s.elapse e) (hdue : u.pwr.coldDue = some d)
    (hidx : u.pwr.coldIdx < 6) (hreached : u.reached d = true) (hrails : u.pwr.heldRails = 0) :
    exec (.coreIslandAdmission e) s = .next { u with pwr := { u.pwr with
      coldIdx := u.pwr.coldIdx + 1, coldDue := some (wrap64 (d + (if u.pwr.coldIdx + 1 < 6 then us 5 else us 2))) } } := by
  subst hu
  simp only [exec_coreIslandAdmission, execCoreIslandAdmission, hdue, hidx, hreached, hrails, decide_true, BEq.rfl, Bool.and_self,
    if_true]

/-- The tile link of a tile that has been admitted starts blind (R232). -/
def State.tileBlind (s : State) (t : Nat) : State := (s.set F.TLK_CORE_STAT.STATE t 1).set F.TLK_STAT.STATE t 1

/-- An admission starts the tile's link, and after the last tile the groups are queued. -/
theorem exec_tileCommonAdmission_of_due {e d : Nat} {s u : State} (hu : u = s.elapse e) (hdue : u.pwr.coldDue = some d)
    (hlow : 6 ≤ u.pwr.coldIdx) (hhigh : u.pwr.coldIdx < 14) (hreached : u.reached d = true) (hrails : u.pwr.heldRails = 0) :
    ∃ p, exec (.tileCommonAdmission e) s = .next { u.tileBlind (u.pwr.coldIdx - 6) with pwr := p } ∨
      ∃ gs, exec (.tileCommonAdmission e) s = .next (({ u.tileBlind (u.pwr.coldIdx - 6) with pwr := p } : State).queueGroups gs) := by
  subst hu
  simp only [exec_tileCommonAdmission, execTileCommonAdmission, hdue, hlow, hhigh, hreached, hrails, decide_true, BEq.rfl,
    Bool.and_self, if_true]
  split
  · exact ⟨_, .inl rfl⟩
  · exact ⟨_, .inr ⟨_, rfl⟩⟩

theorem State.linkState_tileBlind (s : State) (t : Nat) :
    (s.tileBlind t).get F.TLK_CORE_STAT.STATE t = 1 ∧ (s.tileBlind t).get F.TLK_STAT.STATE t = 1 :=
  ⟨(State.get_set_fld _ _ _ _ _ _ (by decide)).trans (State.get_set_self ..), State.get_set_self ..⟩

/-- Queueing groups leaves the tile links alone. -/
theorem State.linkState_queueGroups (s : State) (gs : List Nat) (t : Nat) :
    (s.queueGroups gs).get F.TLK_CORE_STAT.STATE t = s.get F.TLK_CORE_STAT.STATE t ∧
      (s.queueGroups gs).get F.TLK_STAT.STATE t = s.get F.TLK_STAT.STATE t :=
  ⟨Keeps.get (State.queueGroups_keeps _ (Within.ne (by decide)) (Keeps.refl _ s)),
    Keeps.get (State.queueGroups_keeps _ (Within.ne (by decide)) (Keeps.refl _ s))⟩

/-! ### The start ladder (R38, R39) -/

theorem exec_ladderRequest_of_due {e : Nat} {r : LadderReq} {s u : State} (hu : u = s.elapse e)
    (hnext : nextRequest u.pwr.requests = some r) (hedge : u.reached (takeEdge r.arrived) = true) :
    exec (.ladderRequest e) s = .next
      ((({ u with pwr := { u.pwr with requests := u.pwr.requests.erase r } } : State).each r.groups (fun s g => s.takeGroup r g)).each
        r.sites (fun s y => s.formReady y)) := by
  subst hu
  simp only [exec_ladderRequest, execLadderRequest, hnext, hedge, if_true]

/-- A slot begins that admits group g: the group leaves the queue and settles 10 µs after the slot. -/
def State.slotAdmits (s : State) (g : Nat) (q : List LadderJob) : State :=
  { (s.setQueue q).setGroup g 3 with
    pwr := { s.pwr with
      queue := q
      slotEnd := wrap64 (s.now + s.slotLen)
      settling := s.pwr.settling ++ [(g, wrap64 (wrap64 (s.now + s.slotLen) + us 10))] } }

theorem exec_ladderSlot_of_powerUp {e g : Nat} {q : List LadderJob} {s u : State} (hu : u = s.elapse e)
    (hqueue : u.pwr.queue = .powerUp g :: q) (hends : u.reached u.pwr.slotEnd = true)
    (hup : u.get F.TLK_CORE_STAT.STATE (g / 8) = 2) (hrail : u.railHeld 0x0E = false) :
    exec (.ladderSlot e) s = .next (u.slotAdmits g q) := by
  subst hu
  simp only [exec_ladderSlot, execLadderSlot, hqueue, hends, hup, hrail, Bool.not_true, Bool.false_eq_true, if_false, BEq.rfl,
    Bool.not_false, Bool.and_self, if_true]
  rfl

@[simp] theorem State.group_slotAdmits (s : State) (g : Nat) (q : List LadderJob) : (s.slotAdmits g q).group g = 3 := by
  rw [State.slotAdmits, State.group, State.get_mk]
  exact State.group_setGroup _ g 3

/-- A slot begins that moves group g from ON to RETENTION: its comparators follow their inputs no more. -/
def State.slotRetires (s : State) (g : Nat) (q : List LadderJob) : State :=
  ((s.setQueue q).setGroup g 1).each (groupChans g) (fun s c => s.set F.SEP_CMP_CH_LIVE.VALID c 0)

theorem exec_ladderSlot_of_retire {e g : Nat} {q : List LadderJob} {s u : State} (hu : u = s.elapse e)
    (hqueue : u.pwr.queue = .retire g :: q) (hends : u.reached u.pwr.slotEnd = true) :
    exec (.ladderSlot e) s = .next { u.slotRetires g q with
      pwr := { (u.slotRetires g q).pwr with slotEnd := wrap64 (u.now + u.slotLen) } } := by
  subst hu
  simp only [exec_ladderSlot, execLadderSlot, hqueue, hends, Bool.not_true, Bool.false_eq_true, if_false]
  rfl

@[simp] theorem State.group_slotRetires (s : State) (g : Nat) (q : List LadderJob) : (s.slotRetires g q).group g = 1 := by
  have hlive : Keeps (fun k => k != Reg.PWR_GROUP_STATE.ctorIdx) ((s.setQueue q).setGroup g 1) (s.slotRetires g q) :=
    State.each_keeps (fun _ _ h => State.set_keeps (by decide) h) (Keeps.refl _ _)
  rw [hlive.group, State.group_setGroup]

/-! ### The end of settling (R38, R375) -/

/-- Group g settles no more: it was to be usable at DT t. -/
def State.settled (s : State) (g t : Nat) : State :=
  { s with pwr := { s.pwr with settling := s.pwr.settling.filter (fun p => p.1 != g), lastSettle := t } }

/-- A group that has settled is usable, and the sites that wait for it go on. -/
def State.groupUsable (s : State) (g t : Nat) : State := (((s.settled g t).setGroup g 5).groupLive g).groupDone g t

/-- A group that becomes usable during the entry to Dormant is queued for RETENTION, and otherwise asks for it where all its quads
sleep (R42, R44). -/
def State.retireUnwanted (s : State) (g : Nat) : State :=
  if s.flag F.DEV_STATE.ENTERING 0 then s.setQueue (s.pwr.queue ++ [.retire g])
  else s.askRetire (256 * s.get F.DEV_NUMBER.NUMBER 0) [g]

/-- A group that has failed to settle raises SETTLE_FAIL. -/
def State.groupFailed (s : State) (g t : Nat) : State := ((s.settled g t).setGroup g 6).raiseU 2 F.PWR_FAULT_STAT.SETTLE_FAIL 0

/-- The sites of a group that has failed are FAULTED, and those that wait for it go on. -/
def State.groupFaults (s : State) (g t : Nat) : State :=
  ((s.groupFailed g t).each ((s.groupFailed g t).groupSites g) (fun s x => s.siteFault x 2)).groupDone g t

section
variable {e t₀ : Nat} {g : Group} {s u : State} (hu : u = s.elapse e)
  (hsettles : u.pwr.settling.find? (fun p => p.1 == g.val) = some (g.val, t₀)) (hreached : u.reached t₀ = true)
include hu hsettles hreached

theorem exec_groupSettleEnd_of_usable :
    exec (.groupSettleEnd e g false) s = .next ((u.groupUsable g t₀).retireUnwanted g) := by
  subst hu
  simp only [exec_groupSettleEnd, execGroupSettleEnd, hsettles, hreached, if_true, Bool.false_eq_true, if_false]
  exact (apply_ite Host.Outcome.next _ _ _).symm

theorem exec_groupSettleEnd_of_failed : exec (.groupSettleEnd e g true) s = .next (u.groupFaults g t₀) := by
  subst hu
  simp only [exec_groupSettleEnd, execGroupSettleEnd, hsettles, hreached, if_true]
  rfl

end

@[simp] theorem State.group_groupUsable (s : State) (g t : Nat) : (s.groupUsable g t).group g = 5 := by
  have hkeeps : Keeps (fun k => k != Reg.PWR_GROUP_STATE.ctorIdx) ((s.settled g t).setGroup g 5) (s.groupUsable g t) :=
    State.groupDone_keeps _ _ (Within.ne (by decide)) (State.groupLive_keeps _ (Within.ne (by decide)) (Keeps.refl _ _))
  rw [hkeeps.group, State.group_setGroup]

/-- A group keeps its power state until its move to RETENTION is taken. -/
@[simp] theorem State.group_retireUnwanted (s : State) (g y : Nat) : (s.retireUnwanted g).group y = s.group y := by
  unfold State.retireUnwanted
  split
  · exact Keeps.group (State.setQueue_keeps _ (Within.ne (by decide)) (Keeps.refl _ s)) y
  · exact Keeps.group (State.askRetire_keeps _ _ (Keeps.refl _ s)) y

/-- Once SETTLE_FAIL is raised, the faults of the group's sites and the end of their waiting leave the power registers alone. -/
theorem State.groupFaults_keeps {W : Places} (s : State) (g t : Nat) (hW : Within
    0x200000000000000000000000000000000060000000000000000000000000000000000000000624000040100000202008100000000600800445012000000004
    W) : Keeps W (s.groupFailed g t) (s.groupFaults g t) :=
  State.groupDone_keeps _ _ (Within.trans (by decide) hW) (State.each_keeps (fun _ _ h => State.siteFault_keeps _ _ hW h) (Keeps.refl _ _))

theorem State.settleFail_groupFaults (s : State) (g t : Nat) : (s.groupFaults g t).get F.PWR_FAULT_STAT.SETTLE_FAIL 0 = 1 := by
  rw [Keeps.get (State.groupFaults_keeps s g t (Within.ne (by decide))), State.groupFailed, State.raiseU]
  split
  · exact (Keeps.get (State.enterSafe_keeps _ (Within.ne (by decide)) (Keeps.refl _ _))).trans (State.get_set_self ..)
  · exact State.get_set_self ..

/-- Where SETTLE_FAIL is not escalated to safe state, a group that has failed stays FAILED. -/
theorem State.group_groupFaults {s : State} {g : Nat} (t : Nat) (hfree : s.escalated 2 F.PWR_FAULT_STAT.SETTLE_FAIL.lo = false) :
    (s.groupFaults g t).group g = 6 := by
  have hraise : s.groupFailed g t = ((s.settled g t).setGroup g 6).set F.PWR_FAULT_STAT.SETTLE_FAIL 0 1 :=
    if_neg (Bool.eq_false_iff.1 hfree)
  have hset : Keeps (fun k => k != Reg.PWR_GROUP_STATE.ctorIdx) ((s.settled g t).setGroup g 6) (s.groupFailed g t) := by
    rw [hraise]
    exact State.set_keeps (by decide) (Keeps.refl _ _)
  rw [(hset.trans (State.groupFaults_keeps s g t (Within.ne (by decide)))).group, State.group_setGroup]

/-! ### The end of powering (R38, R58) -/

theorem exec_poweringEnd_of_settled {e : Nat} {s u v : State} (hu : u = s.elapse e) (hdev : u.dev = 1)
    (hphase : u.get F.PWR_STAT.PHASE 0 = 1) (hidx : u.pwr.coldIdx = 14) (hidle : u.ladderIdle = true)
    (hv : v = (u.set F.DEV_STATE.STATE 0 2).set F.PWR_STAT.PHASE 0 0) :
    exec (.poweringEnd e) s = .next { v with pwr := { u.pwr with inReset := false }, ldr := { u.ldr with phase := .start } } := by
  subst hu hv
  simp only [exec_poweringEnd, execPoweringEnd, hdev, hphase, hidx, hidle, BEq.rfl, Bool.and_self, if_true, State.set_pwr,
    State.set_ldr]

/-! ### Dormant (R44, R45) -/

/-- Outside READY a request for Dormant is refused. -/
theorem State.dormant_of_notReady {s : State} (hdev : s.dev ≠ 4) : s.dormant = s.set F.PWR_STAT.DORM_REJ 0 1 := by
  simp [State.dormant, hdev]

/-- In READY the entry begins, with the groups that are ON queued for RETENTION. -/
theorem State.dormant_of_ready {s : State} (hdev : s.dev = 4) (hentering : s.flag F.DEV_STATE.ENTERING 0 = false)
    (hwaking : s.flag F.DEV_STATE.WAKING 0 = false) :
    ∃ v : State, s.dormant = (v.set F.DEV_STATE.ENTERING 0 1).set F.PWR_STAT.PHASE 0 2 := by
  simp only [State.dormant, hdev, hentering, hwaking, BEq.rfl, if_true, Bool.or_self, Bool.false_eq_true, if_false]
  exact ⟨_, rfl⟩

/-- Once no group is ON and the ladder is idle the device is in Dormant, whatever the islands and the DRAM do. -/
theorem exec_dormantEntryComplete_of_retired {e : Nat} {s u : State} (hu : u = s.elapse e)
    (hentering : u.flag F.DEV_STATE.ENTERING 0 = true) (hdev : u.dev = 4) (hidle : u.ladderIdle = true)
    (hretired : ∀ g < 64, u.group g ≠ 5) : ∃ v : State, exec (.dormantEntryComplete e) s = .next
      (((v.set F.DEV_STATE.ENTERING 0 0).set F.DEV_STATE.STATE 0 6).set F.PWR_STAT.PHASE 0 3) := by
  subst hu
  have hall : (List.range 64).all (fun g => (s.elapse e).group g != 5) = true := by simpa using hretired
  simp only [exec_dormantEntryComplete, execDormantEntryComplete, hentering, hdev, hidle, hall, BEq.rfl, Bool.and_self, if_true]
  exact ⟨_, rfl⟩

theorem exec_wake_of_enabled {e : Nat} {c : WakeCause} {s u : State} (hu : u = s.elapse e)
    (hcause : c = .event → u.flag F.PWR_WAKE_CFG.EN 0 = true) : exec (.wake e c) s = .next u.wake := by
  subst hu
  cases c with
  | event => simp only [exec_wake, execWake, hcause rfl, if_true]
  | ctrlWrite => rfl
  | doorbell => rfl

/-- A wake from Dormant begins with the island after the first, 5 µs from now. -/
theorem State.wake_of_dormant {s : State} (hdev : s.dev = 6) (hwaking : s.flag F.DEV_STATE.WAKING 0 = false) :
    s.wake = (({ s with pwr := { s.pwr with coldIdx := 1, coldDue := some (wrap64 (s.now + us 5)) } } : State).set
      F.DEV_STATE.WAKING 0 1).set F.PWR_STAT.PHASE 0 4 := by
  simp only [State.wake, hdev, hwaking, Bool.false_eq_true, if_false, BEq.rfl, if_true]

/-- A wake during the entry leaves the device as it was. -/
theorem exec_wakeComplete_of_entry {e : Nat} {s u : State} (hu : u = s.elapse e) (hwaking : u.flag F.DEV_STATE.WAKING 0 = true)
    (hidle : u.ladderIdle = true) (hdev : u.dev ≠ 6) :
    exec (.wakeComplete e) s = .next ((u.set F.DEV_STATE.WAKING 0 0).set F.PWR_STAT.PHASE 0 0) := by
  subst hu
  simp only [exec_wakeComplete, execWakeComplete, hwaking, hidle, beq_false_of_ne hdev, Bool.and_self, if_true, Bool.false_eq_true,
    if_false]

/-- A wake from Dormant gives the Lake banks and the DRAM back. -/
def State.restored (s : State) : State :=
  let s1 := (s.set F.DEV_STATE.WAKING 0 0).set F.PWR_STAT.PHASE 0 0
  let s2 := s1.each s1.pwr.dormBanks (fun s b => s.set F.LAK_STATE.CUR b 2)
  { (s2.setOp s2.pwr.dormOp).selfRefresh false with pwr := { s2.pwr with dormBanks := [] } }

theorem exec_wakeComplete_of_dormant {e : Nat} {s u : State} (hu : u = s.elapse e) (hwaking : u.flag F.DEV_STATE.WAKING 0 = true)
    (hidle : u.ladderIdle = true) (hdev : u.dev = 6) : exec (.wakeComplete e) s = .next
      ((((u.restored.set F.DEV_STATE.STATE 0 4).fire 1477).flushMsix .pf0).flushMsix .pf1) := by
  subst hu
  simp only [exec_wakeComplete, execWakeComplete, hwaking, hidle, hdev, Bool.and_self, BEq.rfl, if_true]
  rfl

/-- The restored Lake banks and DRAM leave DEV_STATE alone. -/
theorem State.waking_restored (s : State) : s.restored.get F.DEV_STATE.WAKING 0 = 0 := by
  unfold State.restored
  extract_lets s1 s2
  have hbanks : Keeps (fun k => k != F.DEV_STATE.WAKING.id / 128) s1 s2 :=
    State.each_keeps (fun _ _ h => State.set_keeps (by decide) h) (Keeps.refl _ _)
  rw [State.get_mk, Keeps.get (State.selfRefresh_keeps _ (Within.ne (by decide)) (State.setOp_keeps _ (Within.ne (by decide)) hbanks)),
    State.get_set_fld _ _ _ _ _ _ (by decide), State.get_set_self]
  rfl

/-- The firing of READY and the interrupts held back leave DEV_STATE alone. -/
theorem State.get_readyFired (s : State) (f : Fld) (i : Nat) (hf : f.id / 128 = Reg.DEV_STATE.ctorIdx) :
    (((s.fire 1477).flushMsix .pf0).flushMsix .pf1).get f i = s.get f i := by
  have hkeeps : Keeps (fun k => k != Reg.DEV_STATE.ctorIdx) s (((s.fire 1477).flushMsix .pf0).flushMsix .pf1) :=
    State.flushMsix_keeps _ (Within.ne (by decide)) (State.flushMsix_keeps _ (Within.ne (by decide))
      (State.fire_keeps _ (Keeps.refl _ s)))
  exact hkeeps.reg f i (by rw [hf, bne_self_eq_false])

/-! ### Thermal conversions (R46) -/

/-- A conversion within every limit records the readings and forms the causes of safe state again. -/
theorem exec_thermalConversion_of_within {e : Nat} {temps : List (BitVec 16)} {s u : State} (hu : u = s.elapse e)
    (hwarn : ∀ n < 9, ¬ (u.warnAt * 16 ≤ toInt 16 (temps.getD n 0).toNat))
    (hlow : ∀ n < 9, ¬ (toInt 16 (temps.getD n 0).toNat < u.lowLimit * 16))
    (htrip : ∀ n < 9, ¬ (112 * 16 ≤ toInt 16 (temps.getD n 0).toNat)) :
    exec (.thermalConversion e temps) s = .next (u.each (List.range 9) (fun s n =>
      (s.set F.DEV_TEMP.TEMP n (temps.getD n 0).toNat).set F.DEV_TEMP.VALID n 1)).recause := by
  subst hu
  have hnone : ∀ p : Int → Bool, (∀ n < 9, p (toInt 16 (temps.getD n 0).toNat) = false) →
      (List.range 9).any (fun n => p (toInt 16 (temps.getD n 0).toNat)) = false := fun p hp =>
    List.any_eq_false.2 fun n hn => Bool.eq_false_iff.1 (hp n (List.mem_range.1 hn))
  have hw := hnone (fun t => decide ((s.elapse e).warnAt * 16 ≤ t)) fun n hn => decide_eq_false (hwarn n hn)
  have hl := hnone (fun t => decide (t < (s.elapse e).lowLimit * 16)) fun n hn => decide_eq_false (hlow n hn)
  have ht := hnone (fun t => decide (112 * 16 ≤ t)) fun n hn => decide_eq_false (htrip n hn)
  simp only [exec_thermalConversion, execThermalConversion, hw, hl, ht, Bool.false_eq_true, if_false]

/-- Settles O2: each command that is due makes one step of the cold start, the ladder, Dormant or the sensors. -/
theorem powerLadderComplete : Obligations.PowerLadderComplete := by
  intro e s u hu
  refine ⟨?coreIsland, ?tileCommon, ?request, ?slotAdmits, ?slotRetires, ?settles, ?settleFails, ?poweringEnds, ?sleepSet, ?sleepClr,
    ?dormantRefused, ?dormantBegins, ?dormantEntered, ?wakes, ?wokenInEntry, ?woken, ?thermal⟩
  case coreIsland =>
    intro d hdue hidx hreached hrails
    exact ⟨_, exec_coreIslandAdmission_of_due hu hdue hidx hreached hrails, rfl, rfl, fun f i => State.get_mk u f i⟩
  case tileCommon =>
    intro d hdue hlow hhigh hreached hrails
    obtain ⟨p, h | ⟨gs, h⟩⟩ := exec_tileCommonAdmission_of_due hu hdue hlow hhigh hreached hrails
    · exact ⟨_, h, State.linkState_tileBlind u _⟩
    · obtain ⟨hcore, htile⟩ := State.linkState_tileBlind u (u.pwr.coldIdx - 6)
      refine ⟨_, h, ?_, ?_⟩
      · rw [(State.linkState_queueGroups _ _ _).1, State.get_mk, hcore]
      · rw [(State.linkState_queueGroups _ _ _).2, State.get_mk, htile]
  case request =>
    intro r hnext hedge
    exact exec_ladderRequest_of_due hu hnext hedge
  case slotAdmits =>
    intro g q hqueue hends hup hrail
    exact ⟨_, exec_ladderSlot_of_powerUp hu hqueue hends hup hrail, State.group_slotAdmits .., rfl, rfl, rfl⟩
  case slotRetires =>
    intro g q hqueue hends
    exact ⟨_, exec_ladderSlot_of_retire hu hqueue hends, (State.get_mk _ _ _).trans (State.group_slotRetires u g q), rfl⟩
  case settles =>
    intro g t₀ hsettles hreached
    refine ⟨_, exec_groupSettleEnd_of_usable hu hsettles hreached, ?_⟩
    exact (State.group_retireUnwanted ..).trans (State.group_groupUsable ..)
  case settleFails =>
    intro g t₀ hsettles hreached
    exact ⟨_, exec_groupSettleEnd_of_failed hu hsettles hreached, State.settleFail_groupFaults .., State.group_groupFaults t₀⟩
  case poweringEnds =>
    intro hdev hphase hidx hidle
    refine ⟨_, exec_poweringEnd_of_settled hu hdev hphase hidx hidle rfl, ?_, ?_, rfl, rfl⟩
    · rw [State.dev, State.get_mk, State.get_set_fld _ _ _ _ _ _ (by decide), State.get_set_self]
      rfl
    · rw [State.get_mk, State.get_set_self]
      rfl
  case sleepSet =>
    intro w v
    rw [exec_pwrSleepSet, hu]
  case sleepClr =>
    intro w v
    rw [exec_pwrSleepClr, hu]
  case dormantRefused =>
    intro hdev
    rw [exec_dormantRequest, ← hu, State.dormant_of_notReady hdev]
  case dormantBegins =>
    intro hdev hentering hwaking
    obtain ⟨v, hv⟩ := State.dormant_of_ready hdev hentering hwaking
    refine ⟨_, by rw [exec_dormantRequest, ← hu, hv], ?_, State.get_set_self ..⟩
    exact (State.get_set_fld _ _ _ _ _ _ (by decide)).trans (State.get_set_self ..)
  case dormantEntered =>
    intro hentering hdev hidle hretired
    obtain ⟨v, hv⟩ := exec_dormantEntryComplete_of_retired hu hentering hdev hidle hretired
    refine ⟨_, hv, ?_, ?_, State.get_set_self ..⟩
    · exact (State.get_set_fld _ _ _ _ _ _ (by decide)).trans (State.get_set_self ..)
    · rw [State.get_set_fld _ _ _ _ _ _ (by decide), State.get_set_fld _ _ _ _ _ _ (by decide), State.get_set_self]
      rfl
  case wakes =>
    intro c hcause hdev hwaking
    refine ⟨_, by rw [exec_wake_of_enabled hu hcause, State.wake_of_dormant hdev hwaking], ?_, State.get_set_self .., rfl, rfl⟩
    exact (State.get_set_fld _ _ _ _ _ _ (by decide)).trans (State.get_set_self ..)
  case wokenInEntry =>
    intro hwaking hidle hdev
    exact exec_wakeComplete_of_entry hu hwaking hidle hdev
  case woken =>
    intro hwaking hidle hdev
    refine ⟨_, exec_wakeComplete_of_dormant hu hwaking hidle hdev, ?_, ?_⟩
    · rw [State.dev, State.get_readyFired _ _ _ (by decide), State.get_set_self]
      rfl
    · rw [State.get_readyFired _ _ _ (by decide), State.get_set_fld _ _ _ _ _ _ (by decide), State.waking_restored]
  case thermal =>
    intro temps hwarn hlow htrip
    exact exec_thermalConversion_of_within hu hwarn hlow htrip

end Sys2Proof.Machine
end

section
/-! The load, its commit, a reload and the fuses, and the statement about them (R48–R61). -/

namespace Sys2Proof.Machine

/-! ### Which meaning the dispatch calls -/

theorem exec_loadStart (e : Nat) (c0 c1 : List Byte) (s : State) : exec (.loadStart e c0 c1) s = execLoadStart e c0 c1 s := rfl

theorem exec_slotReadStart (e : Nat) (hdr : List Byte) (s : State) : exec (.slotReadStart e hdr) s = execSlotReadStart e hdr s := rfl

theorem exec_imageRecordArrival (e : Nat) (i : ImageRecord) (s : State) :
    exec (.imageRecordArrival e i) s = execImageRecordArrival e i s := rfl

theorem exec_dramTrainingComplete (e : Nat) (ok : Bool) (s : State) :
    exec (.dramTrainingComplete e ok) s = execDramTrainingComplete e ok s := rfl

theorem exec_lastRecordRead (e : Nat) (s : State) : exec (.lastRecordRead e) s = execLastRecordRead e s := rfl

theorem exec_checksComplete (e : Nat) (s : State) : exec (.checksComplete e) s = execChecksComplete e s := rfl

theorem exec_commit (e : Nat) (s : State) : exec (.commit e) s = execCommit e s := rfl

theorem exec_reload (e : Nat) (v : Word32) (s : State) : exec (.reload e v) s = .next ((s.elapse e).reload v.toNat) := rfl

theorem exec_precheckComplete (e : Nat) (c0 c1 : List Byte) (images : List (List Byte × List ImageRecord)) (s : State) :
    exec (.precheckComplete e c0 c1 images) s = execPrecheckComplete e c0 c1 images s := rfl

theorem exec_reloadTeardown (e : Nat) (s : State) : exec (.reloadTeardown e) s = execReloadTeardown e s := rfl

theorem exec_fuseProgramKeyHash (e : Nat) (v : Word32) (s : State) :
    exec (.fuseProgramKeyHash e v) s = .next ((s.elapse e).fuseCmd v.toNat) := rfl

theorem exec_fuseRaiseSecver (e : Nat) (v : Word32) (s : State) :
    exec (.fuseRaiseSecver e v) s = .next ((s.elapse e).fuseCmd v.toNat) := rfl

theorem exec_fuseOpComplete (e : Nat) (s : State) : exec (.fuseOpComplete e) s = execFuseOpComplete e s := rfl

/-! ### The start of a load (R48, R49) -/

@[simp] theorem State.ldr_enterMode (s : State) (d : BootDesc) : (s.enterMode d).ldr = s.ldr := by
  unfold State.enterMode
  split <;> rfl

@[simp] theorem State.get_enterMode (s : State) (d : BootDesc) (f : Fld) (i : Nat) : (s.enterMode d).get f i = s.get f i := by
  unfold State.enterMode
  split <;> rfl

/-- The loader that turns to a source of its list reads it next, under the descriptor it has. -/
theorem State.ldr_nextSource_of_cons {s : State} {n : Nat} {r : List Nat} (h : s.ldr.todo = n :: r) : s.nextSource.ldr =
    { s.ldr with phase := .desc, source := n, todo := r, legacy := false, records := [], header := [], offset := 0 } := by
  simp only [State.nextSource, h]

/-- The loader that turns to a source of its list is in LOADING and writes no other register. -/
theorem State.get_nextSource_of_cons {s : State} {n : Nat} {r : List Nat} (h : s.ldr.todo = n :: r) (f : Fld) (i : Nat) :
    s.nextSource.get f i = (s.set F.DEV_STATE.STATE 0 2).get f i := by
  simp only [State.nextSource, h, State.get_mk, State.get_set]
  split
  · rfl
  · split
    · exact State.get_enterMode ..
    · rfl

/-- The sources that a load tries under boot descriptor d: the slot that a reload names, or both in order. -/
def BootDesc.sources (d : BootDesc) (src : Nat) : List Nat := if src = 1 then [0] else if src = 2 then [1] else d.order

theorem BootDesc.sources_ne_nil (d : BootDesc) (src : Nat) : d.sources src ≠ [] := by
  unfold BootDesc.sources BootDesc.order
  split
  · exact List.cons_ne_nil _ _
  split
  · exact List.cons_ne_nil _ _
  split <;> exact List.cons_ne_nil _ _

/-- LOAD_START has found boot descriptor d in copy 0: the flash is in its mode and its sources are listed. -/
def State.described (s : State) (d : BootDesc) : State :=
  { (((s.set F.CFG_STAT.BUSY 0 1).emit (.flash 1 0 [])).emit (.flash 0 0 [0x13])).enterMode d with
    ldr := { s.ldr with desc := d, todo := d.sources s.ldr.reqSrc } }

theorem State.busy_described (s : State) (d : BootDesc) : (s.described d).get F.CFG_STAT.BUSY 0 = 1 := by
  unfold State.described
  rw [State.get_mk, State.get_enterMode]
  exact State.get_set_self ..

theorem exec_loadStart_of_described {e : Nat} {c0 c1 : List Byte} {s u : State} (hu : u = s.elapse e) (hdev : u.dev = 2)
    (hphase : u.ldr.phase = .start) (hpin : u.pins.testen = false) (hcopy : descCode c0 = 0) :
    exec (.loadStart e c0 c1) s = .next (u.described (descOf c0)).nextSource := by
  subst hu
  simp only [exec_loadStart, execLoadStart, hdev, hphase, BEq.rfl, Bool.and_self, if_true, State.set_pins, hpin, Bool.false_eq_true,
    if_false, hcopy, bne_self_eq_false, Bool.false_and, State.ldr_enterMode]
  rfl

/-! ### The header of a source (R49, R58) -/

/-- A header of the flash that passes is taken. -/
theorem exec_slotReadStart_of_flash {e : Nat} {hdr : List Byte} {s u v : State} (hu : u = s.elapse e) (hdev : u.dev = 2)
    (hphase : u.ldr.phase = .desc) (hsource : u.ldr.source ≠ 2) (hcrc : hdrCrcBad hdr = false)
    (hcode : hdrCode hdr (u.sourceLen u.ldr.source) = 0)
    (hv : v = u.emit (.flash 0 (u.ldr.desc.slotOff u.ldr.source) (u.ldr.desc.readBytes u.ldr.legacy))) :
    exec (.slotReadStart e hdr) s =
      .next { v with ldr := { u.ldr with phase := .reading, header := hdr, records := [], offset := 64 } } := by
  subst hu hv
  have hpass : ∀ o, hdrCode hdr (((s.elapse e).emit o).sourceLen ((s.elapse e).emit o).ldr.source) = 0 := fun _ => hcode
  simp only [exec_slotReadStart, execSlotReadStart, hdev, hphase, bne_iff_ne.2 hsource, hcrc, hpass, BEq.rfl, Bool.and_self, if_true,
    Bool.and_false, Bool.false_and, Bool.false_eq_true, if_false, bne_self_eq_false]
  rfl

/-- A header of the staged image that passes is taken. -/
theorem exec_slotReadStart_of_staged {e : Nat} {hdr : List Byte} {s u : State} (hu : u = s.elapse e) (hdev : u.dev = 2)
    (hphase : u.ldr.phase = .desc) (hsource : u.ldr.source = 2) (hcode : hdrCode u.stagedHeader (u.sourceLen 2) = 0) :
    exec (.slotReadStart e hdr) s =
      .next { u with ldr := { u.ldr with phase := .reading, header := u.stagedHeader, records := [], offset := 64 } } := by
  subst hu
  simp only [exec_slotReadStart, execSlotReadStart, hdev, hphase, hsource, hcode, BEq.rfl, Bool.and_self, if_true, bne_self_eq_false,
    Bool.false_and, Bool.false_eq_true, if_false]

/-! ### The records of an image (R50, R54, R56, R58) -/

/-- What the checks of an arriving record know under DRAM record b. -/
def State.arrivalCtx (s : State) (b : List Byte) : ArrivalCtx :=
  ⟨s.ldr.header, s.ldr.records, s.ldr.offset, b, s.ldr.trained, s.stageOf⟩

/-- A record that passes its checks is held, and written where DRAM is its destination under DRAM record b. -/
def State.recordTaken (s : State) (b : List Byte) (r : ImageRecord) : State :=
  let s1 := { s with ldr := { s.ldr with records := s.ldr.records ++ [r], offset := s.ldr.offset + recSize r } }
  match dramDest b r with
  | some (a, d) => s1.putBytes false a d
  | none => s1

/-- A DRAM record, once taken, trains the controller. -/
def State.trainingStarts (s : State) (r : ImageRecord) : State :=
  { s.recordTaken r.body r with ldr := { (s.recordTaken r.body r).ldr with phase := .training, trained := false } }

/-- The loader in LOADING takes records until it has read as many as the header counts. -/
theorem State.awaitsRecord_of_reading {s : State} (hdev : s.dev = 2) (hphase : s.ldr.phase = .reading)
    (hmore : s.ldr.records.length < hdrCount s.ldr.header) :
    (s.dev == 2 && s.ldr.phase == .reading && decide (s.ldr.records.length < hdrCount s.ldr.header)) = true := by
  simp [hdev, hphase, hmore]

section
variable {e : Nat} {i r : ImageRecord} {s u : State} (hu : u = s.elapse e) (hdev : u.dev = 2) (hphase : u.ldr.phase = .reading)
  (hmore : u.ldr.records.length < hdrCount u.ldr.header) (hr : r = (if u.ldr.source = 2 then u.stagedRecord u.ldr.offset else i))
include hu hdev hphase hmore hr

theorem exec_imageRecordArrival_of_other (htyp : r.typ ≠ 9) (hcode : arrivalCode (u.arrivalCtx u.loadDram) r = 0)
    (hdram : arrivalDram (u.arrivalCtx u.loadDram) r = 0) :
    exec (.imageRecordArrival e i) s = .next (u.recordTaken u.loadDram r) := by
  have hreads := State.awaitsRecord_of_reading hdev hphase hmore
  unfold State.arrivalCtx at hcode hdram
  subst hu
  simp only [exec_imageRecordArrival, execImageRecordArrival, hreads, if_true, ← hr, htyp, if_false, hcode, hdram, ne_eq,
    not_true_eq_false, bne_self_eq_false, Bool.false_eq_true, decide_false, Bool.false_and]
  rfl

/-- The first DRAM record of a load is taken and trains the controller. -/
theorem exec_imageRecordArrival_of_dram (htyp : r.typ = 9) (hcode : arrivalCode (u.arrivalCtx r.body) r = 0)
    (hdram : arrivalDram (u.arrivalCtx r.body) r = 0) (hnew : u.ldr.trained = false) :
    exec (.imageRecordArrival e i) s = .next (u.trainingStarts r) := by
  have hreads := State.awaitsRecord_of_reading hdev hphase hmore
  have htrains : (!(u.ldr.trained && u.ldr.dram == r.body)) = true := by simp [hnew]
  unfold State.arrivalCtx at hcode hdram
  subst hu
  simp only [exec_imageRecordArrival, execImageRecordArrival, hreads, if_true, ← hr, htyp, hcode, hdram, htrains, ne_eq,
    not_true_eq_false, if_false, bne_self_eq_false, Bool.false_eq_true, decide_true, Bool.and_self]
  rfl

end

/-! ### Training (R58, R331) -/

@[simp] theorem State.op_setOp (s : State) (op : Nat) : (s.setOp op).get F.DMC_OP_STAT.OP 0 = op % 4 := by
  have hop : ((s.set F.DMC_OP_STAT.OP 0 op).set F.DMC_OP_STAT.RATE 0 (Tab.get 0 s.img.rates op)).get F.DMC_OP_STAT.OP 0 = op % 4 :=
    (State.get_set_fld _ _ _ _ _ _ (by decide)).trans (State.get_set_self ..)
  unfold State.setOp
  extract_lets rate s1
  split <;> exact (State.get_set_fld _ _ _ _ _ _ (by decide)).trans hop

@[simp] theorem State.dram_setOp (s : State) (op : Nat) : (s.setOp op).dram = s.dram := by
  unfold State.setOp
  extract_lets
  split <;> rfl

@[simp] theorem State.epoch_setOp (s : State) (op : Nat) : (s.setOp op).epoch = s.epoch := by
  unfold State.setOp
  extract_lets
  split <;> rfl

section
variable {e : Nat} {s u : State} (hu : u = s.elapse e) (hdev : u.dev = 2) (hphase : u.ldr.phase = .training)
include hu hdev hphase

/-- Training that succeeds opens the contents of DRAM and ends at the operating point of the DRAM record. -/
theorem exec_dramTrainingComplete_of_trained : ∃ v : State,
    exec (.dramTrainingComplete e true) s = .next (v.setOp (leAt u.loadDram 3 1)) ∧ v.dram = [] ∧ v.epoch = u.epoch + 1 := by
  subst hu
  simp only [exec_dramTrainingComplete, execDramTrainingComplete, hdev, hphase, BEq.rfl, Bool.and_self, if_true]
  exact ⟨_, rfl, State.each_view State.dram _ _ _ fun _ _ => rfl, State.each_view State.epoch _ _ _ fun _ _ => rfl⟩

theorem exec_dramTrainingComplete_of_failed : exec (.dramTrainingComplete e false) s = .next
    (u.slotFail 0x18 (u.ldr.records.length - 1) (whereType 9 0 64 u.ldr.records).2) := by
  subst hu
  simp only [exec_dramTrainingComplete, execDramTrainingComplete, hdev, hphase, BEq.rfl, Bool.and_self, if_true, Bool.false_eq_true,
    if_false]

end

/-! ### The end of reading, the checks and the commit (R51–R53, R58) -/

theorem exec_lastRecordRead_of_passed {e : Nat} {s u : State} (hu : u = s.elapse e) (hdev : u.dev = 2)
    (hphase : u.ldr.phase = .reading) (hlast : u.ldr.records.length = hdrCount u.ldr.header)
    (hcode : endCode u.ldr.header u.ldr.records u.ldr.offset = 0) : exec (.lastRecordRead e) s =
      .next { u.set F.DEV_STATE.STATE 0 3 with ldr := { u.ldr with phase := .checking } } := by
  subst hu
  simp only [exec_lastRecordRead, execLastRecordRead, hdev, hphase, hlast, hcode, BEq.rfl, Bool.and_self, if_true, bne_self_eq_false,
    Bool.false_eq_true, if_false]

section
variable {e : Nat} {s u : State} (hu : u = s.elapse e) (hdev : u.dev = 3) (hphase : u.ldr.phase = .checking)
include hu hdev hphase

theorem exec_checksComplete_of_passed (hcode : (checkCode u.facts u.ldr.header u.ldr.records).1 = 0) :
    exec (.checksComplete e) s = .next { u with ldr := { u.ldr with phase := .passed } } := by
  subst hu
  simp only [exec_checksComplete, execChecksComplete, hdev, hphase, hcode, BEq.rfl, Bool.and_self, if_true, bne_self_eq_false,
    Bool.false_eq_true, if_false]

theorem exec_checksComplete_of_failed {w : Nat × Nat} (hcode : (checkCode u.facts u.ldr.header u.ldr.records).1 ≠ 0)
    (hw : w = whereCheck u.facts u.ldr.records (checkCode u.facts u.ldr.header u.ldr.records)) : exec (.checksComplete e) s =
      .next (u.slotFail (checkCode u.facts u.ldr.header u.ldr.records).1 w.1 w.2) := by
  subst hu hw
  simp only [exec_checksComplete, execChecksComplete, hdev, hphase, bne_iff_ne.2 hcode, BEq.rfl, Bool.and_self, if_true]

end

/-- The loaded configuration takes effect and the device is in READY. -/
def State.committed (s : State) : State :=
  (((s.applyImage s.ldr.header s.ldr.records).commitResult).set F.DEV_STATE.STATE 0 4).fire 1477

/-- The sites with a quad of a FAILED group. -/
def State.failedSites (s : State) : List Nat := (List.range 256).filter (fun x => (s.siteGroups x).any (fun g => s.group g == 6))

theorem State.dev_committed (s : State) : s.committed.dev = 4 :=
  (Keeps.get (f := F.DEV_STATE.STATE) (State.fire_keeps _ (Keeps.refl _ _))).trans (State.get_set_self ..)

/-- Once the configuration has taken effect every mapped channel goes to its idle level and the sites of FAILED groups fault. -/
theorem exec_commit_of_passed {e : Nat} {s u : State} (hu : u = s.elapse e) (hdev : u.dev = 3) (hphase : u.ldr.phase = .passed)
    (hsettled : us 16000 ≤ u.since u.pwr.lastSettle) : exec (.commit e) s = .next
      ((u.committed.each ((List.range 256).filter (fun i => u.committed.sliceValid i)) (fun s i => s.idleSlice i s.now)).each
        u.committed.failedSites (fun s x => s.siteFault x 2)) := by
  subst hu
  simp only [exec_commit, execCommit, hdev, hphase, hsettled, decide_true, BEq.rfl, Bool.and_self, if_true]
  rfl

/-! ### Reload (R61) -/

/-- A reload that is accepted pre-checks the sources that it names. -/
theorem State.reload_of_accepted {s : State} {v : Nat} (hgo : bitAt v 31 = true) (hfree : s.flag F.CFG_STAT.BUSY 0 = false)
    (hdev : s.dev = 4 ∨ s.dev = 5 ∨ s.dev = 7) (hpin : s.pins.testen = false)
    (hsource : (bitsOf v 0 2 = 3 ∧ (s.region 1 (s.get F.CFG_STAGE_ADDR.ADDR 0) (s.get F.CFG_STAGE_LEN.LEN 0)).isSome = true) ∨
      (bitsOf v 0 2 ≠ 3 ∧ s.nvm = [])) :
    s.reload v = { s.set F.CFG_STAT.BUSY 0 1 with
      ldr := { s.ldr with phase := .precheck, reqSrc := bitsOf v 0 2, force := bitAt v 2 } } := by
  have hready : (s.flag F.CFG_STAT.BUSY 0 || s.dev == 1 || s.dev == 2 || s.dev == 3 || s.dev == 6) = false := by
    obtain h | h | h := hdev <;> simp [hfree, h]
  obtain ⟨hstaged, hregion⟩ | ⟨hflash, hidle⟩ := hsource
  · have hin : (s.region 1 (s.get F.CFG_STAGE_ADDR.ADDR 0) (s.get F.CFG_STAGE_LEN.LEN 0)).isNone = false :=
      Option.isNone_eq_false_iff.2 hregion
    simp [State.reload, hgo, hready, hstaged, hin, hpin]
  · simp [State.reload, hgo, hready, hflash, hidle, hpin]

theorem State.reload_of_refused {s : State} {v : Nat} (hgo : bitAt v 31 = true)
    (hbusy : s.flag F.CFG_STAT.BUSY 0 = true ∨ s.dev = 1 ∨ s.dev = 2 ∨ s.dev = 3 ∨ s.dev = 6) :
    s.reload v = s.set F.CFG_STAT.RELOAD_REJ 0 1 := by
  have href : (s.flag F.CFG_STAT.BUSY 0 || s.dev == 1 || s.dev == 2 || s.dev == 3 || s.dev == 6) = true := by
    simpa [or_assoc] using hbusy
  simp [State.reload, hgo, href]

@[simp] theorem State.ldr_sendAbort (s : State) (x : Nat) : (s.sendAbort x).ldr = s.ldr := by
  unfold State.sendAbort
  split <;> rfl

/-- A source that passes its pre-check lets the teardown wait for the sites, with or without aborts. -/
theorem exec_precheckComplete_of_passed {e : Nat} {c0 c1 : List Byte} {images : List (List Byte × List ImageRecord)} {s u : State}
    {r : State × Bool} (hu : u = s.elapse e) (hphase : u.ldr.phase = .precheck) (hcopy : descCode c0 = 0)
    (hr : u.precheckAll (descOf c0) (if u.ldr.reqSrc = 0 then (descOf c0).order else reloadSources u.ldr.reqSrc) images = r)
    (hpass : r.2 = true) : ∃ t : State, exec (.precheckComplete e c0 c1 images) s = .next t ∧ t.ldr.phase = .teardown := by
  subst hu
  simp only [exec_precheckComplete, execPrecheckComplete, hphase, BEq.rfl, if_true, hcopy, bne_self_eq_false, Bool.and_false,
    Bool.false_and, Bool.false_eq_true, if_false, hr, hpass]
  refine ⟨_, rfl, ?_⟩
  split
  · exact State.each_view (fun s => s.ldr.phase) _ _ _ fun s x => congrArg Loader.phase (State.ldr_sendAbort s x)
  · rfl

theorem exec_reloadTeardown_of_quiet {e : Nat} {s u : State} (hu : u = s.elapse e) (hphase : u.ldr.phase = .teardown)
    (hquiet : u.anyActive = false) : exec (.reloadTeardown e) s = .next u.teardown.reloadSource := by
  subst hu
  simp only [exec_reloadTeardown, execReloadTeardown, hphase, hquiet, BEq.rfl, Bool.not_false, Bool.and_self, if_true]

theorem State.dev_teardown (s : State) : s.teardown.dev = 2 := State.get_set_self ..

theorem State.active_teardown (s : State) : s.teardown.get F.EVF_STAT.ACTIVE 0 = 0 :=
  (State.get_set_fld _ _ _ _ _ _ (by decide)).trans (State.get_set_self ..)

/-! ### Fuses (R52) -/

section
variable {s : State} {v : Nat} (hgo : bitAt v 31 = true) (hidle : s.get F.CFG_FUSE_RES.RESULT 0 ≠ 1)
include hgo hidle

theorem State.fuseCmd_of_keyHash (hop : bitsOf v 0 2 = 1) (hblank : s.flag F.CFG_FUSE_STAT.KEYHASH_PROG 0 = false) :
    s.fuseCmd v = { s.set F.CFG_FUSE_RES.RESULT 0 1 with ldr := { s.ldr with fuseOp := 1, fuseArg := bitsOf v 8 7 } } := by
  simp [State.fuseCmd, hgo, hidle, hop, hblank]

theorem State.fuseCmd_of_secver (hop : bitsOf v 0 2 = 2) (hrise : s.get F.CFG_FUSE_STAT.SECVER 0 ≤ bitsOf v 8 7)
    (himage : bitsOf v 8 7 ≤ s.get F.CFG_IMAGE.SECVER 0) (hmax : bitsOf v 8 7 ≤ 64) :
    s.fuseCmd v = { s.set F.CFG_FUSE_RES.RESULT 0 1 with ldr := { s.ldr with fuseOp := 2, fuseArg := bitsOf v 8 7 } } := by
  simp [State.fuseCmd, hgo, hidle, hop, hrise, himage, hmax]

/-- A SECVER below the fuses' or above the image's is refused. -/
theorem State.fuseCmd_of_badSecver (hop : bitsOf v 0 2 = 2)
    (hbad : bitsOf v 8 7 < s.get F.CFG_FUSE_STAT.SECVER 0 ∨ s.get F.CFG_IMAGE.SECVER 0 < bitsOf v 8 7) :
    s.fuseCmd v = s.set F.CFG_FUSE_RES.RESULT 0 3 := by
  have hout : ¬ (s.get F.CFG_FUSE_STAT.SECVER 0 ≤ bitsOf v 8 7 ∧ bitsOf v 8 7 ≤ s.get F.CFG_IMAGE.SECVER 0) := by omega
  simp [State.fuseCmd, hgo, hidle, hop, hout]

end

section
variable {e : Nat} {s u : State} (hu : u = s.elapse e) (hrun : u.get F.CFG_FUSE_RES.RESULT 0 = 1)
include hu hrun

theorem exec_fuseOpComplete_of_keyHash (hop : u.ldr.fuseOp = 1) : ∃ l : Loader, exec (.fuseOpComplete e) s =
    .next { (u.set F.CFG_FUSE_RES.RESULT 0 2).set F.CFG_FUSE_STAT.KEYHASH_PROG 0 1 with ldr := l } := by
  subst hu
  simp only [exec_fuseOpComplete, execFuseOpComplete, hrun, hop, BEq.rfl, if_true]
  exact ⟨_, rfl⟩

theorem exec_fuseOpComplete_of_secver (hop : u.ldr.fuseOp = 2) : ∃ l : Loader, exec (.fuseOpComplete e) s =
    .next { (u.set F.CFG_FUSE_RES.RESULT 0 2).set F.CFG_FUSE_STAT.SECVER 0 u.ldr.fuseArg with ldr := l } := by
  subst hu
  simp only [exec_fuseOpComplete, execFuseOpComplete, hrun, hop, BEq.rfl, if_true, OfNat.ofNat_ne_one, if_false]
  exact ⟨_, rfl⟩

end

/-- Settles O3: each command that finds the loader where it belongs makes that one step of the load, the reload or the fuses. -/
theorem bootComplete : Obligations.BootComplete := by
  intro e s u hu
  refine ⟨?loadStarts, ?flashHeader, ?stagedHeader, ?recordTaken, ?dramRecord, ?trained, ?trainingFails, ?allRead, ?checksPass,
    ?checksFail, ?commits, ?reloadAccepted, ?reloadRefused, ?precheckPasses, ?tornDown, ?keyHashStarts, ?secverStarts, ?secverRefused,
    ?keyHashDone, ?secverDone⟩
  case loadStarts =>
    intro c0 c1 hdev hphase hpin hcopy
    obtain ⟨n, r, htodo⟩ := List.exists_cons_of_ne_nil ((descOf c0).sources_ne_nil u.ldr.reqSrc)
    refine ⟨_, exec_loadStart_of_described hu hdev hphase hpin hcopy, ?_, ?_, ?_⟩
    · exact (State.get_nextSource_of_cons htodo _ _).trans (State.get_set_self ..)
    · exact (State.get_nextSource_of_cons htodo _ _).trans
        ((State.get_set_fld _ _ _ _ _ _ (by decide)).trans (State.busy_described ..))
    · rw [State.ldr_nextSource_of_cons htodo]
      exact ⟨rfl, rfl⟩
  case flashHeader =>
    intro hdr v hdev hphase hsource hcrc hcode hv
    exact exec_slotReadStart_of_flash hu hdev hphase hsource hcrc hcode hv
  case stagedHeader =>
    intro hdr hdev hphase hsource hcode
    exact exec_slotReadStart_of_staged hu hdev hphase hsource hcode
  case recordTaken =>
    intro i r hdev hphase hmore hr htyp hcode hdram
    exact exec_imageRecordArrival_of_other hu hdev hphase hmore hr htyp hcode hdram
  case dramRecord =>
    intro i r hdev hphase hmore hr htyp hcode hdram hnew
    exact ⟨_, exec_imageRecordArrival_of_dram hu hdev hphase hmore hr htyp hcode hdram hnew, rfl⟩
  case trained =>
    intro hdev hphase
    obtain ⟨v, hexec, hdram, hepoch⟩ := exec_dramTrainingComplete_of_trained hu hdev hphase
    exact ⟨_, hexec, State.op_setOp .., (State.dram_setOp ..).trans hdram, (State.epoch_setOp ..).trans hepoch⟩
  case trainingFails =>
    intro hdev hphase
    exact exec_dramTrainingComplete_of_failed hu hdev hphase
  case allRead =>
    intro hdev hphase hlast hcode
    exact ⟨_, exec_lastRecordRead_of_passed hu hdev hphase hlast hcode, (State.get_mk _ _ _).trans (State.get_set_self ..), rfl⟩
  case checksPass =>
    intro hdev hphase hcode
    exact exec_checksComplete_of_passed hu hdev hphase hcode
  case checksFail =>
    intro w hdev hphase hcode hw
    exact exec_checksComplete_of_failed hu hdev hphase hcode hw
  case commits =>
    intro v hdev hphase hsettled hv
    change v = u.committed at hv
    rw [hv]
    exact ⟨exec_commit_of_passed hu hdev hphase hsettled, State.dev_committed u⟩
  case reloadAccepted =>
    intro v hgo hfree hdev hpin hsource
    refine ⟨_, by rw [exec_reload, ← hu, State.reload_of_accepted hgo hfree hdev hpin hsource], ?_, rfl, rfl, rfl⟩
    exact (State.get_mk _ _ _).trans (State.get_set_self ..)
  case reloadRefused =>
    intro v hgo hbusy
    rw [exec_reload, ← hu, State.reload_of_refused hgo hbusy]
  case precheckPasses =>
    intro c0 c1 images r hphase hcopy hr hpass
    exact exec_precheckComplete_of_passed hu hphase hcopy hr hpass
  case tornDown =>
    intro hphase hquiet
    exact ⟨exec_reloadTeardown_of_quiet hu hphase hquiet, State.dev_teardown u, State.active_teardown u, rfl, rfl⟩
  case keyHashStarts =>
    intro v hgo hop hidle hblank
    refine ⟨_, by rw [exec_fuseProgramKeyHash, ← hu, State.fuseCmd_of_keyHash hgo hidle hop hblank], ?_, rfl, ?_⟩
    · exact (State.get_mk _ _ _).trans (State.get_set_self ..)
    · exact (State.get_mk _ _ _).trans (State.get_set_fld _ _ _ _ _ _ (by decide))
  case secverStarts =>
    intro v hgo hop hidle hrise himage hmax
    refine ⟨_, by rw [exec_fuseRaiseSecver, ← hu, State.fuseCmd_of_secver hgo hidle hop hrise himage hmax], ?_, rfl, rfl⟩
    exact (State.get_mk _ _ _).trans (State.get_set_self ..)
  case secverRefused =>
    intro v hgo hop hidle hbad
    rw [exec_fuseRaiseSecver, ← hu, State.fuseCmd_of_badSecver hgo hidle hop hbad]
  case keyHashDone =>
    intro hrun hop
    obtain ⟨l, hexec⟩ := exec_fuseOpComplete_of_keyHash hu hrun hop
    refine ⟨_, hexec, ?_, (State.get_mk _ _ _).trans (State.get_set_self ..), ?_⟩
    · exact (State.get_mk _ _ _).trans ((State.get_set_fld _ _ _ _ _ _ (by decide)).trans (State.get_set_self ..))
    · exact (State.get_mk _ _ _).trans ((State.get_set_fld _ _ _ _ _ _ (by decide)).trans (State.get_set_fld _ _ _ _ _ _ (by decide)))
  case secverDone =>
    intro hrun hop hmax
    obtain ⟨l, hexec⟩ := exec_fuseOpComplete_of_secver hu hrun hop
    refine ⟨_, hexec, ?_, ?_, ?_⟩
    · exact (State.get_mk _ _ _).trans ((State.get_set_fld _ _ _ _ _ _ (by decide)).trans (State.get_set_self ..))
    · rw [State.get_mk, State.get_set_self]
      exact Nat.mod_eq_of_lt (Nat.lt_of_le_of_lt hmax (by decide))
    · exact (State.get_mk _ _ _).trans ((State.get_set_fld _ _ _ _ _ _ (by decide)).trans (State.get_set_fld _ _ _ _ _ _ (by decide)))

end Sys2Proof.Machine
end

section
/-! Joins, slice tokens and forwarded records, the commands of a busy site, and the statements about them (R75–R79, R247, R248). -/

namespace Sys2Proof.Machine

/-! ### What the blocks that a port took leave alone (R231) -/

@[simp] theorem State.site_took (s : State) (p q n x : Nat) : (s.took p q n).site x = s.site x := by
  rw [State.site, State.sites_took, State.site]

@[simp] theorem State.now_took (s : State) (p q n : Nat) : (s.took p q n).now = s.now := State.get_took ..

@[simp] theorem State.flag_took (s : State) (p q n : Nat) (f : Fld) (i : Nat) : (s.took p q n).flag f i = s.flag f i := by
  simp [State.flag]

@[simp] theorem State.siteState_took (s : State) (p q n x : Nat) : (s.took p q n).siteState x = s.siteState x := State.get_took ..

@[simp] theorem State.proxy_took (s : State) (p q n x : Nat) : (s.took p q n).proxy x = s.proxy x := State.flag_took ..

@[simp] theorem State.proxyOf_took (s : State) (p q n r home : Nat) : (s.took p q n).proxyOf r home = s.proxyOf r home := by
  simp [State.proxyOf]

@[simp] theorem State.dt40_took (s : State) (p q n : Nat) (v : BitVec 40) : (s.took p q n).dt40 v = s.dt40 v := by
  simp [State.dt40]

@[simp] theorem State.reached_took (s : State) (p q n d : Nat) : (s.took p q n).reached d = s.reached d := by
  simp [State.reached]

/-! ### Where a token acts (R75, R239, R247) -/

theorem State.token_of_inOrder {s : State} {p q : Nat} (hcarries : s.carries p = true) (horder : s.inOrder p q = true) (n : Nat)
    (f : State → State) : s.token p q n f = f (s.took p q n) := by
  rw [State.token, if_pos hcarries, State.recv_inOrder horder]

theorem State.toProxy_of_some {s : State} {p home x : Nat} (hproxy : s.proxyOf p home = some x) (f : State → Nat → State) :
    s.toProxy p home f = f s x := by
  rw [State.toProxy, hproxy]

theorem State.toHome_of_home {s : State} {home : Nat} (hpresent : s.siteState home ≠ 0) (hhome : s.proxy home = false)
    (f : State → Nat → State) : s.toHome home f = f s home := by
  simp [State.toHome, hpresent, hhome]

/-- A token from a home, taken in order, acts on the proxy of its site. -/
theorem State.token_toProxy {s : State} {p q home x : Nat} (hcarries : s.carries p = true) (horder : s.inOrder p q = true)
    (hproxy : s.proxyOf p home = some x) (n : Nat) (f : State → Nat → State) :
    s.token p q n (fun s => s.toProxy p home f) = f (s.took p q n) x := by
  rw [State.token_of_inOrder hcarries horder, State.toProxy_of_some (by rw [State.proxyOf_took, hproxy])]

/-- A token from a proxy, taken in order, acts on its home. -/
theorem State.token_toHome {s : State} {p q home : Nat} (hcarries : s.carries p = true) (horder : s.inOrder p q = true)
    (hpresent : s.siteState home ≠ 0) (hhome : s.proxy home = false) (n : Nat) (f : State → Nat → State) :
    s.token p q n (fun s => s.toHome home f) = f (s.took p q n) home := by
  rw [State.token_of_inOrder hcarries horder,
    State.toHome_of_home (by rwa [State.siteState_took]) (by rw [State.proxy_took, hhome])]

/-! ### When a token acts (R20, R247) -/

theorem State.timed_of_ahead {s : State} {d : Nat} (hahead : s.reached d = false) (x : Nat) (f : State → State) :
    s.timed x d f = f s := by
  simp [State.timed, hahead]

theorem State.timed_of_late {s : State} {d : Nat} (hlate : s.reached d = true) (x : Nat) (f : State → State) : s.timed x d f =
    (s.each (s.slicesOf x) (fun s i => s.raiseU 19 F.SLP_FAULT_STAT.MISSED_RELEASE (i / 32))).siteFault x 1 := by
  simp [State.timed, hlate]

theorem State.timed_took_of_ahead {s : State} {d : Nat} (hahead : s.reached d = false) (p q n x : Nat) (f : State → State) :
    (s.took p q n).timed x d f = f (s.took p q n) :=
  State.timed_of_ahead (by rw [State.reached_took, hahead]) x f

/-- A token with a held code that is ahead of its release arrives. -/
theorem State.heldToken_of_ahead {s : State} {d : Nat} (hahead : s.reached d = false) (p q home c : Nat) (arrive : State → Nat → State) :
    s.heldToken p q home c d arrive = s.token p q 2 (fun s => s.toProxy p home arrive) := by
  have hnone : (s.proxyOf p home).filter (fun x => (s.site x).states.contains (c, d) && s.reached d) = none := by
    cases s.proxyOf p home <;> simp [hahead]
  rw [State.heldToken, hnone]

/-- A held code whose release DT has come is released. -/
theorem State.heldToken_of_due {s : State} {p home c d x : Nat} (hproxy : s.proxyOf p home = some x) (hdue : s.reached d = true)
    (hheld : (c, d) ∈ (s.site x).states) (q : Nat) (arrive : State → Nat → State) :
    s.heldToken p q home c d arrive = s.takeHeld x c d := by
  have hsome : (s.proxyOf p home).filter (fun x => (s.site x).states.contains (c, d) && s.reached d) = some x := by
    simp [hproxy, hdue, hheld]
  rw [State.heldToken, hsome]

/-! ### What a token does to its site -/

theorem State.takeJoin_of_accepted {s : State} {p x dev : Nat} (hdev : dev = s.get F.LNK_PORT_STAT.PEER_DEV p) (hhome : s.proxy x = false)
    (hstate : s.siteState x = 1 ∨ s.siteState x = 6) (hspan : popCount (setBit (s.get F.MDR_SITE_SPAN.DEV x) dev) ≤ 4) (tiles : Nat) :
    s.takeJoin p x tiles = ((s.setSite x { s.site x with farSlices := (s.site x).farSlices.filter (fun r => r.1 != dev) ++
      [(dev, popCount tiles)] }).set F.MDR_SITE_SPAN.DEV x (setBit (s.get F.MDR_SITE_SPAN.DEV x) dev)).tokenTo dev 2 x 0 [1] := by
  subst hdev
  simp [State.takeJoin, hhome, hstate, hspan]

/-- A fifth device is refused, whatever the site's state (R76). -/
theorem State.takeJoin_of_full {s : State} {p x dev : Nat} (hdev : dev = s.get F.LNK_PORT_STAT.PEER_DEV p)
    (hfull : 4 < popCount (setBit (s.get F.MDR_SITE_SPAN.DEV x) dev)) (tiles : Nat) :
    s.takeJoin p x tiles = (s.set F.MDR_SITE_STAT.JOIN_REFUSED x 1).tokenTo dev 2 x 0 [0] := by
  subst hdev
  simp [State.takeJoin, Nat.not_le.2 hfull]

theorem State.proxyHold_of_ahead {s : State} {x d : Nat} (hahead : s.reached d = false) (hnone : (s.site x).hold = none) :
    s.proxyHold x d = s.drew.setSite x { s.site x with hold := some (d, 1 + s.fresh % 3) } := by
  rw [State.proxyHold, State.timed_of_ahead hahead]
  simp [hnone]

/-- A timing set of bit 12 clear is taken at once. -/
theorem State.takeTset_of_immediate {s : State} {x a d : Nat} (hahead : s.reached d = false) (himm : bitAt a 12 = false) (per : Nat) :
    s.takeTset x a d per = s.setSite x { s.site x with tsImm := (s.site x).tsImm ++
      [{ prim := bitsOf a 0 6, alt := bitsOf a 6 6, release := d, period := some per }] } := by
  rw [State.takeTset, State.timed_of_ahead hahead]
  simp [himm]

/-- A timing set of bit 12 set waits for the next entry. -/
theorem State.takeTset_of_queued {s : State} {x a d : Nat} (hahead : s.reached d = false) (hqueued : bitAt a 12 = true) (per : Nat) :
    s.takeTset x a d per = s.setSite x { s.site x with
      tsQueued := some { prim := bitsOf a 0 6, alt := bitsOf a 6 6, release := d, period := some per } } := by
  rw [State.takeTset, State.timed_of_ahead hahead]
  simp [hqueued]

theorem State.takeTrim_of_open {s : State} {x a : Nat} (hopen : bitAt a 0 = true) (hrefl : bitAt a 1 = false)
    (hclosed : s.flag F.MDR_SITE_STATE.TRIMOK x = false) (d : Nat) :
    s.takeTrim x a d = (s.set F.MDR_SITE_STATE.TRIMOK x 1).setSite x { s.site x with trimOpen := d } := by
  simp [State.takeTrim, hopen, hrefl, hclosed]

theorem State.takeReady_of_start {s : State} {a : Nat} (hstart : bitAt a 1 = false) (x dev d : Nat) : s.takeReady x dev a d =
    (s.setSite x { s.site x with proxyReady := (s.site x).proxyReady.filter (fun r => r.1 != dev) ++ [(dev, bitsOf a 0 1, d)] }).formReady x := by
  simp [State.takeReady, hstart]

theorem State.takeCounts_of_noStop {s : State} {x n : Nat} (hno : s.get F.SEP_CAP_POLICY.STOP x ≠ 1 ∨ n = 0) :
    s.takeCounts x n = (s.addFails x n).drew := by
  have hcond : ¬ (decide (s.get F.SEP_CAP_POLICY.STOP x = 1) && n != 0) = true := by
    rcases hno with h | h <;> simp [h]
  exact if_neg hcond

theorem State.takeCounts_of_stop {s : State} {x n : Nat} (hstop : s.get F.SEP_CAP_POLICY.STOP x = 1) (hfails : n ≠ 0) :
    s.takeCounts x n = (s.addFails x n).drew.detect x
      (wrap64 ((s.addFails x n).now + 2 ^ 64 - s.fresh % (s.since (s.get F.MDR_SITE_START_DT.DT x) + 1))) := by
  have hcond : (decide (s.get F.SEP_CAP_POLICY.STOP x = 1) && n != 0) = true := by simp [hstop, hfails]
  exact if_pos hcond

/-! ### Forwarded records (R16, R248) -/

theorem State.homeSite_of_home {s : State} {x : Nat} (hhome : s.proxy x = false) : s.homeSite x = x := by
  simp [State.homeSite, hhome]

/-- A fail record of its home's tag goes to the capture ring; another is a tag mismatch. -/
theorem State.takeRecord_fail {s : State} {x : Nat} {b : List Byte} (hhome : s.proxy x = false) (hlen : b.length = 32) :
    s.takeRecord x 1 b = if leAt b 14 1 = x % 256 then s.capRecord x b
      else s.faultSite 15 F.SEP_CAP_FAULT_STAT.TAG_MISMATCH 0 x 5 := by
  simp [State.takeRecord, State.homeSite_of_home hhome, hlen]

/-- Acquisition records of their home's tag go to the acquisition ring; others are a tag mismatch. -/
theorem State.takeRecord_acq {s : State} {x : Nat} {b : List Byte} (hhome : s.proxy x = false) (hlen : b.length % 32 = 0) (hsome : b ≠ []) :
    s.takeRecord x 2 b = if leAt b 14 1 = x % 256 then s.acqToRing x b
      else s.faultSite 16 F.SEP_ACQ_FAULT_STAT.TAG_MISMATCH 0 x 5 := by
  simp [State.takeRecord, State.homeSite_of_home hhome, hlen, hsome]

/-! ### The commands on a port that takes their blocks -/

section
variable {e : Nat} {s u : State} {p : Port} {q : Byte} {home : Site} {x : Nat}
variable (hu : u = s.elapse e) (hcarries : u.carries p.val = true) (horder : u.inOrder p.val q.toNat = true)
include hu hcarries horder

theorem exec_tokenJoin_inOrder (arg : BitVec 26) : exec (.tokenJoin e p q home arg) s =
    .next ((u.took p.val q.toNat 1).takeJoin p.val home.val (bitsOf arg.toNat 8 8)) := by
  subst hu
  exact congrArg _ (State.token_of_inOrder hcarries horder _ _)

theorem exec_tokenHold_toProxy (hproxy : u.proxyOf p.val home.val = some x) (x0 : BitVec 40) :
    exec (.tokenHold e p q home x0) s = .next ((u.took p.val q.toNat 2).proxyHold x (u.dt40 x0)) := by
  subst hu
  refine congrArg _ ((State.token_of_inOrder hcarries horder _ _).trans ?_)
  simp [hproxy]

theorem exec_tokenHold_toHome (hnone : u.proxyOf p.val home.val = none) (hpresent : u.siteState home.val ≠ 0)
    (hhome : u.proxy home.val = false) (x0 : BitVec 40) :
    exec (.tokenHold e p q home x0) s = .next ((u.took p.val q.toNat 2).homeHold home.val x0.toNat (u.dt40 x0)) := by
  subst hu
  refine congrArg _ ((State.token_of_inOrder hcarries horder _ _).trans ?_)
  simp [hnone, State.toHome_of_home, hpresent, hhome]

section
variable (hproxy : u.proxyOf p.val home.val = some x)
include hproxy

theorem exec_tokenJoinres_toProxy (arg : BitVec 26) : exec (.tokenJoinres e p q home arg) s =
    .next (if bitAt arg.toNat 0 then u.took p.val q.toNat 1 else (u.took p.val q.toNat 1).siteFault x 4) := by
  subst hu
  exact congrArg _ (State.token_toProxy hcarries horder hproxy _ _)

theorem exec_tokenEntry_toProxy (arg : BitVec 26) (x0 x1 : BitVec 40) : exec (.tokenEntry e p q home arg x0 x1) s =
    .next ((u.took p.val q.toNat 3).takeEntry x (bitsOf arg.toNat 0 24) (bitsOf x1.toNat 0 24) (u.dt40 x0)) := by
  subst hu
  rw [← State.dt40_took _ p.val q.toNat 3]
  exact congrArg _ (State.token_toProxy hcarries horder hproxy _ _)

theorem exec_tokenStart_toProxy (x0 : BitVec 40) : exec (.tokenStart e p q home x0) s =
    .next ((u.took p.val q.toNat 2).timed x (u.dt40 x0) (fun s => s.setSite x
      { s.site x with start := some (u.dt40 x0), startMin := u.dt40 x0 })) := by
  subst hu
  rw [← State.dt40_took _ p.val q.toNat 2]
  exact congrArg _ (State.token_toProxy hcarries horder hproxy _ _)

theorem exec_tokenResume_toProxy (x0 : BitVec 40) : exec (.tokenResume e p q home x0) s =
    .next ((u.took p.val q.toNat 2).timed x (u.dt40 x0) (fun s => s.setSite x
      { s.site x with resume := some (u.dt40 x0), trimClosed := s.now })) := by
  subst hu
  rw [← State.dt40_took _ p.val q.toNat 2]
  exact congrArg _ (State.token_toProxy hcarries horder hproxy _ _)

theorem exec_tokenStop_toProxy (x0 : BitVec 40) : exec (.tokenStop e p q home x0) s =
    .next ((u.took p.val q.toNat 2).timed x (u.dt40 x0) (fun s => s.setSite x
      { s.site x with stop := some ⟨3, u.dt40 x0, u.dt40 x0⟩ })) := by
  subst hu
  rw [← State.dt40_took _ p.val q.toNat 2]
  exact congrArg _ (State.token_toProxy hcarries horder hproxy _ _)

theorem exec_tokenReset_toProxy (x0 : BitVec 40) : exec (.tokenReset e p q home x0) s =
    .next ((u.took p.val q.toNat 2).timed x (u.dt40 x0) (fun s => s.setSite x { s.site x with resetAt := some (u.dt40 x0) })) := by
  subst hu
  rw [← State.dt40_took _ p.val q.toNat 2]
  exact congrArg _ (State.token_toProxy hcarries horder hproxy _ _)

theorem exec_tokenJump_toProxy (arg : BitVec 26) (x0 : BitVec 40) : exec (.tokenJump e p q home arg x0) s =
    .next ((u.took p.val q.toNat 2).timed x (u.dt40 x0) (fun s => s.drew.setSite x { s.site x with
      jumps := (s.site x).jumps ++ [⟨1 + s.fresh % 3, s.now, bitsOf arg.toNat 0 24, none, false, some (u.dt40 x0)⟩] })) := by
  subst hu
  rw [← State.dt40_took _ p.val q.toNat 2]
  exact congrArg _ (State.token_toProxy hcarries horder hproxy _ _)

theorem exec_tokenTset_toProxy (arg : BitVec 26) (x0 x1 : BitVec 40) : exec (.tokenTset e p q home arg x0 x1) s =
    .next ((u.took p.val q.toNat 3).takeTset x arg.toNat (u.dt40 x0) x1.toNat) := by
  subst hu
  rw [← State.dt40_took _ p.val q.toNat 3]
  exact congrArg _ (State.token_toProxy hcarries horder hproxy _ _)

theorem exec_tokenState_of_ahead {x0 : BitVec 40} (hahead : u.reached (u.dt40 x0) = false) (arg : BitVec 26) :
    exec (.tokenState e p q home arg x0) s = .next ((u.took p.val q.toNat 2).holdCode x (bitsOf arg.toNat 0 4) (u.dt40 x0)) := by
  subst hu
  exact congrArg _ ((State.heldToken_of_ahead hahead _ _ _ _ _).trans (State.token_toProxy hcarries horder hproxy _ _))

theorem exec_tokenTrim_of_ahead {x0 : BitVec 40} (hahead : u.reached (u.dt40 x0) = false) (arg : BitVec 26) :
    exec (.tokenTrim e p q home arg x0) s = .next ((u.took p.val q.toNat 2).takeTrim x arg.toNat (u.dt40 x0)) := by
  subst hu
  refine congrArg _ ((State.heldToken_of_ahead hahead _ _ _ _ _).trans ((State.token_toProxy hcarries horder hproxy _ _).trans ?_))
  exact State.timed_took_of_ahead hahead _ _ _ _ _

end

section
variable (hpresent : u.siteState home.val ≠ 0) (hhome : u.proxy home.val = false)
include hpresent hhome

theorem exec_tokenReady_toHome (arg : BitVec 26) (x0 : BitVec 40) : exec (.tokenReady e p q home arg x0) s =
    .next ((u.took p.val q.toNat 2).takeReady home.val (u.get F.LNK_PORT_STAT.PEER_DEV p.val) arg.toNat (u.dt40 x0)) := by
  subst hu
  rw [← State.dt40_took _ p.val q.toNat 2, ← State.get_took _ p.val q.toNat 2]
  exact congrArg _ (State.token_toHome hcarries horder hpresent hhome _ _)

theorem exec_tokenCounts_toHome (x0 : BitVec 40) : exec (.tokenCounts e p q home x0) s =
    .next ((u.took p.val q.toNat 2).takeCounts home.val (bitsOf x0.toNat 0 32)) := by
  subst hu
  exact congrArg _ (State.token_toHome hcarries horder hpresent hhome _ _)

theorem exec_tokenCcrc_toHome (arg : BitVec 26) (x0 : BitVec 40) : exec (.tokenCcrc e p q home arg x0) s =
    .next ((u.took p.val q.toNat 2).setSite home.val { (u.took p.val q.toNat 2).site home.val with
      crcs := ((u.took p.val q.toNat 2).site home.val).crcs ++ [(bitsOf arg.toNat 0 24, bitsOf x0.toNat 0 32)] }) := by
  subst hu
  exact congrArg _ (State.token_toHome hcarries horder hpresent hhome _ _)

theorem exec_record_toHome (typ : Byte) (b : List Byte) : exec (.record e p q home typ b) s =
    .next ((u.took p.val q.toNat 1).takeRecord home.val typ.toNat b) := by
  subst hu
  exact congrArg _ (State.token_toHome hcarries horder hpresent hhome _ _)

end

end

theorem exec_tokenState_of_due {e x : Nat} {s u : State} {p : Port} {home : Site} {arg : BitVec 26} {x0 : BitVec 40}
    (hu : u = s.elapse e) (hproxy : u.proxyOf p.val home.val = some x) (hdue : u.reached (u.dt40 x0) = true)
    (hheld : (bitsOf arg.toNat 0 4, u.dt40 x0) ∈ (u.site x).states) (q : Byte) :
    exec (.tokenState e p q home arg x0) s = .next (u.takeHeld x (bitsOf arg.toNat 0 4) (u.dt40 x0)) := by
  subst hu
  exact congrArg _ (State.heldToken_of_due hproxy hdue hheld _ _)

/-- Settles O20: a token that a port takes in order is one operation on the proxy or the home of its site, and its release DT and its
bits decide what the operation does. -/
theorem tokenComplete : Obligations.TokenComplete := by
  intro e s u hu
  refine ⟨?joinAccepted, ?joinRefused, ?joinresRefused, ?joinresAccepted, ?entry, ?start, ?startLate, ?resume, ?stop, ?reset, ?jump,
    ?hold, ?deviceLost, ?tsetNow, ?tsetQueued, ?stateHeld, ?stateTaken, ?trim, ?ready, ?counts, ?countsStop, ?ccrc, ?failRecord,
    ?failMismatch, ?acqRecord, ?acqMismatch⟩
  case joinAccepted =>
    rintro p q home arg _ d rfl hdev hcarries horder hhome hstate hspan
    rw [exec_tokenJoin_inOrder hu hcarries horder, State.takeJoin_of_accepted (dev := d) (by rw [State.get_took, hdev])
      (by rw [State.proxy_took, hhome]) (by rwa [State.siteState_took]) (by rwa [State.get_took]), State.get_took]
  case joinRefused =>
    rintro p q home arg _ d rfl hdev hcarries horder hfull
    rw [exec_tokenJoin_inOrder hu hcarries horder, State.takeJoin_of_full (dev := d) (by rw [State.get_took, hdev])
      (by rwa [State.get_took])]
  case joinresRefused =>
    rintro p q home arg x _ rfl hcarries horder hproxy hrefused
    rw [exec_tokenJoinres_toProxy hu hcarries horder hproxy, hrefused, if_neg Bool.false_ne_true]
  case joinresAccepted =>
    rintro p q home arg x _ rfl hcarries horder hproxy haccepted
    rw [exec_tokenJoinres_toProxy hu hcarries horder hproxy, haccepted, if_pos rfl]
  case entry =>
    rintro p q home arg x0 x1 x _ rfl hcarries horder hproxy hahead
    rw [exec_tokenEntry_toProxy hu hcarries horder hproxy, State.takeEntry, State.timed_took_of_ahead hahead]
  case start =>
    rintro p q home x0 x _ rfl hcarries horder hproxy hahead
    rw [exec_tokenStart_toProxy hu hcarries horder hproxy, State.timed_took_of_ahead hahead]
  case startLate =>
    rintro p q home x0 x _ rfl hcarries horder hproxy hlate
    rw [exec_tokenStart_toProxy hu hcarries horder hproxy, State.timed_of_late (by rw [State.reached_took, hlate])]
  case resume =>
    rintro p q home x0 x _ rfl hcarries horder hproxy hahead
    rw [exec_tokenResume_toProxy hu hcarries horder hproxy, State.timed_took_of_ahead hahead]
  case stop =>
    rintro p q home x0 x _ rfl hcarries horder hproxy hahead
    rw [exec_tokenStop_toProxy hu hcarries horder hproxy, State.timed_took_of_ahead hahead]
  case reset =>
    rintro p q home x0 x _ rfl hcarries horder hproxy hahead
    rw [exec_tokenReset_toProxy hu hcarries horder hproxy, State.timed_took_of_ahead hahead]
  case jump =>
    rintro p q home arg x0 x _ rfl hcarries horder hproxy hahead
    rw [exec_tokenJump_toProxy hu hcarries horder hproxy, State.timed_took_of_ahead hahead]
  case hold =>
    rintro p q home x0 x _ rfl hcarries horder hproxy hahead hnone
    rw [exec_tokenHold_toProxy hu hcarries horder hproxy, State.proxyHold_of_ahead (by rw [State.reached_took, hahead])
      (by rw [State.site_took, hnone])]
  case deviceLost =>
    rintro p q home x0 _ rfl hcarries horder hnone hpresent hhome hzero
    rw [exec_tokenHold_toHome hu hcarries horder hnone hpresent hhome, State.homeHold, if_pos hzero]
  case tsetNow =>
    rintro p q home arg x0 x1 x _ rfl hcarries horder hproxy hahead himm
    rw [exec_tokenTset_toProxy hu hcarries horder hproxy, State.takeTset_of_immediate (by rw [State.reached_took, hahead]) himm]
  case tsetQueued =>
    rintro p q home arg x0 x1 x _ rfl hcarries horder hproxy hahead hqueued
    rw [exec_tokenTset_toProxy hu hcarries horder hproxy, State.takeTset_of_queued (by rw [State.reached_took, hahead]) hqueued]
  case stateHeld =>
    rintro p q home arg x0 x _ rfl hcarries horder hproxy hahead
    rw [exec_tokenState_of_ahead hu hcarries horder hproxy hahead, State.holdCode, State.timed_took_of_ahead hahead]
  case stateTaken =>
    intro p q home arg x0 x hproxy hdue hheld
    rw [exec_tokenState_of_due hu hproxy hdue hheld, State.takeHeld]
  case trim =>
    rintro p q home arg x0 x _ rfl hcarries horder hproxy hahead hopen hrefl hclosed
    rw [exec_tokenTrim_of_ahead hu hcarries horder hproxy hahead,
      State.takeTrim_of_open hopen hrefl (by rw [State.flag_took, hclosed])]
  case ready =>
    rintro p q home arg x0 _ rfl hcarries horder hpresent hhome hstart
    rw [exec_tokenReady_toHome hu hcarries horder hpresent hhome, State.takeReady_of_start hstart]
  case counts =>
    rintro p q home x0 _ rfl hcarries horder hpresent hhome hno
    rw [exec_tokenCounts_toHome hu hcarries horder hpresent hhome, State.takeCounts_of_noStop (by rwa [State.get_took])]
  case countsStop =>
    rintro p q home x0 _ rfl hcarries horder hpresent hhome hstop hfails
    rw [exec_tokenCounts_toHome hu hcarries horder hpresent hhome, State.takeCounts_of_stop (by rw [State.get_took, hstop]) hfails,
      State.get_took]
  case ccrc =>
    rintro p q home arg x0 _ rfl hcarries horder hpresent hhome
    exact exec_tokenCcrc_toHome hu hcarries horder hpresent hhome arg x0
  case failRecord =>
    rintro p q home typ b _ rfl hcarries horder hpresent hhome htyp hlen htag
    rw [exec_record_toHome hu hcarries horder hpresent hhome, htyp, State.takeRecord_fail (by rw [State.proxy_took, hhome]) hlen,
      if_pos htag]
  case failMismatch =>
    rintro p q home typ b _ rfl hcarries horder hpresent hhome htyp hlen htag
    rw [exec_record_toHome hu hcarries horder hpresent hhome, htyp, State.takeRecord_fail (by rw [State.proxy_took, hhome]) hlen,
      if_neg htag]
  case acqRecord =>
    rintro p q home typ b _ rfl hcarries horder hpresent hhome htyp hlen hsome htag
    rw [exec_record_toHome hu hcarries horder hpresent hhome, htyp,
      State.takeRecord_acq (by rw [State.proxy_took, hhome]) hlen hsome, if_pos htag]
  case acqMismatch =>
    rintro p q home typ b _ rfl hcarries horder hpresent hhome htyp hlen hsome htag
    rw [exec_record_toHome hu hcarries horder hpresent hhome, htyp,
      State.takeRecord_acq (by rw [State.proxy_took, hhome]) hlen hsome, if_neg htag]

/-- Settles O44: each of the four writes of MDR_SITE_CMD goes through the one operation that looks at BUSY. -/
theorem busyRule : Obligations.BusyRule := by
  intro e s u x hu
  refine ⟨fun hbusy c hc => ?refused, fun hfree => ⟨fun prog => ?arm, ?abort, ?ack, ?reset⟩⟩
  case refused =>
    subst hu
    obtain ⟨prog, rfl⟩ | rfl | rfl | rfl := hc <;> exact congrArg _ (State.siteCmd_of_busy _ hbusy)
  case arm => rw [exec_siteArm, ← hu, State.siteCmd_of_free _ hfree]
  case abort => rw [exec_siteAbort, ← hu, State.siteCmd_of_free _ hfree]
  case ack => rw [exec_siteAck, ← hu, State.siteCmd_of_free _ hfree]
  case reset => rw [exec_siteReset, ← hu, State.siteCmd_of_free _ hfree]

end Sys2Proof.Machine
end

section
/-! Vectors and their routines, the player's boundaries, refills, holds and jumps, and the statements about them (R82–R105, R161). -/

namespace Sys2Proof.Machine

/-! ### Which meaning the dispatch calls -/

theorem exec_vectorNext (e : Nat) (sl : SliceNo) (ecc : VecEcc) (s : State) :
    exec (.vectorNext e sl ecc) s = .next ((s.elapse e).playCode sl.val 0 ecc) := rfl

theorem exec_loopBegin (e : Nat) (sl : SliceNo) (ecc : VecEcc) (s : State) :
    exec (.loopBegin e sl ecc) s = .next ((s.elapse e).playCode sl.val 2 ecc) := rfl

theorem exec_loopEnd (e : Nat) (sl : SliceNo) (ecc : VecEcc) (s : State) :
    exec (.loopEnd e sl ecc) s = .next ((s.elapse e).playCode sl.val 3 ecc) := rfl

theorem exec_altVector (e : Nat) (sl : SliceNo) (ecc : VecEcc) (s : State) :
    exec (.altVector e sl ecc) s = .next ((s.elapse e).playCode sl.val 5 ecc) := rfl

theorem exec_endVector (e : Nat) (sl : SliceNo) (ecc : VecEcc) (s : State) :
    exec (.endVector e sl ecc) s = .next ((s.elapse e).playCode sl.val 6 ecc) := rfl

theorem exec_code7 (e : Nat) (sl : SliceNo) (ecc : VecEcc) (s : State) :
    exec (.code7 e sl ecc) s = .next ((s.elapse e).playCode sl.val 7 ecc) := rfl

theorem exec_vectorRepeat (e : Nat) (sl : SliceNo) (ecc : VecEcc) (s : State) :
    exec (.vectorRepeat e sl ecc) s = execVectorRepeat e sl s ecc := rfl

theorem exec_matchPass (e : Nat) (sl : SliceNo) (ecc : VecEcc) (s : State) :
    exec (.matchPass e sl ecc) s = execMatchPass e sl s ecc := rfl

theorem exec_granuleCheckPoint (e : Nat) (sl : SliceNo) (s : State) :
    exec (.granuleCheckPoint e sl) s = execGranuleCheckPoint e sl s := rfl

theorem exec_holdRelease (e : Nat) (x : Site) (s : State) :
    exec (.holdRelease e x) s = execHoldRelease e x s := rfl

theorem exec_refillGranuleComplete (e : Nat) (sl : SliceNo) (seg : BitVec 24) (gran : Fin 65536) (col : Fin 64) (s : State) :
    exec (.refillGranuleComplete e sl seg gran col) s = execRefillGranuleComplete e sl seg gran col s := rfl

theorem exec_sliceReadyReport (e : Nat) (sl : SliceNo) (s : State) :
    exec (.sliceReadyReport e sl) s = execSliceReadyReport e sl s := rfl

theorem exec_resumeRelease (e : Nat) (x : Site) (s : State) :
    exec (.resumeRelease e x) s = execResumeRelease e x s := rfl

theorem exec_segmentAdmission (e : Nat) (sl : SliceNo) (seg : BitVec 24) (ecc : Ecc) (s : State) :
    exec (.segmentAdmission e sl seg ecc) s = execSegmentAdmission e sl seg ecc s := rfl

theorem exec_queueEntryRelease (e : Nat) (sl : SliceNo) (s : State) :
    exec (.queueEntryRelease e sl) s = execQueueEntryRelease e sl s := rfl

theorem exec_eventJumpRequest (e : Nat) (x : Site) (s : State) :
    exec (.eventJumpRequest e x) s = execEventJumpRequest e x s := rfl

theorem exec_jumpHonoured (e : Nat) (x : Site) (s : State) :
    exec (.jumpHonoured e x) s = execJumpHonoured e x s := rfl

theorem exec_ctrlCrcReport (e : Nat) (x : Site) (s : State) :
    exec (.ctrlCrcReport e x) s = execCtrlCrcReport e x s := rfl

theorem exec_slpJumpCfgWrite (e : Nat) (sl : SliceNo) (v : Word32) (s : State) :
    exec (.slpJumpCfgWrite e sl v) s = .next ((s.elapse e).writeJumpCfg sl.val v.toNat) := rfl

theorem exec_slpLooppreWrite (e : Nat) (sl : SliceNo) (r : Fin 4) (v : Word32) (s : State) :
    exec (.slpLooppreWrite e sl r v) s = .next ((s.elapse e).writeLooppre sl.val r.val v.toNat) := rfl

theorem exec_slpMatchTmoWrite (e : Nat) (sl : SliceNo) (v : Word32) (s : State) :
    exec (.slpMatchTmoWrite e sl v) s = .next ((s.elapse e).writeMatchTmo sl.val v.toNat) := rfl

/-! ### A vector and its routine (R82, R108, R109) -/

section
variable {s : State} {i n : Nat} {ecc : VecEcc}

/-- Without a patch word in it, the ROM routine of the code follows its vector. -/
theorem State.playCode_of_rom (hdue : s.vectorDue i n = true) (hrom : s.patchHit n = false) :
    s.playCode i n ecc = s.playVector i ecc (fun t => t.routine i n (ctrlOp (s.ctrl i))) := by
  have hfollow : s.follow i n = fun t => t.routine i n (ctrlOp (s.ctrl i)) := by
    funext t
    simp [State.follow, hrom]
  rw [State.playCode, if_pos hdue, hfollow]

theorem State.playCode_of_patch (hdue : s.vectorDue i n = true) (hpatch : s.patchHit n = true) :
    s.playCode i n ecc = s.playVector i ecc (fun t => t.freeRoutine i) := by
  have hfollow : s.follow i n = fun t => t.freeRoutine i := by
    funext t
    simp [State.follow, hpatch]
  rw [State.playCode, if_pos hdue, hfollow]

theorem State.playCode_of_notDue (hnot : s.vectorDue i n = false) : s.playCode i n ecc = s.faultStop i := by
  simp [State.playCode, hnot]

/-! ### REPEAT (R84) -/

/-- While cycles of a REPEAT remain, no vector begins. -/
theorem State.vectorDue_of_repLeft (hleft : (s.slice i).repLeft ≠ 0) : s.vectorDue i n = false := by
  simp [State.vectorDue, hleft]

theorem State.repeatVector_of_more {v : State} (hv : v = s.vectorReads i ecc) (hlive : (v.slice i).live = true)
    (hmore : 1 < (s.slice i).repLeft) : s.repeatVector i ecc =
      (v.cycle i).setSlice i { (v.cycle i).slice i with repLeft := (s.slice i).repLeft - 1 } := by
  subst hv
  simp [State.repeatVector, hlive, Nat.ne_of_gt hmore]

/-- The last cycle of a REPEAT moves the player on. -/
theorem State.repeatVector_of_last {v : State} (hv : v = s.vectorReads i ecc) (hlive : (v.slice i).live = true)
    (hlast : (s.slice i).repLeft = 1) : s.repeatVector i ecc =
      ((v.cycle i).setSlice i { (v.cycle i).slice i with repLeft := 0 }).nextVector i := by
  subst hv
  simp [State.repeatVector, hlive, hlast]

end

section
variable {e : Nat} {sl : SliceNo} {s u : State} (hu : u = s.elapse e)
include hu

theorem exec_vectorRepeat_of_due (hdue : u.vectorDue sl.val 1 = true) (ecc : VecEcc) :
    exec (.vectorRepeat e sl ecc) s = .next (u.playCode sl.val 1 ecc) := by
  subst hu
  simp [exec_vectorRepeat, execVectorRepeat, hdue]

theorem exec_vectorRepeat_of_left (hfree : u.boundaryFree sl.val = true) (hleft : (u.slice sl.val).repLeft ≠ 0) (ecc : VecEcc) :
    exec (.vectorRepeat e sl ecc) s = .next (u.repeatVector sl.val ecc) := by
  subst hu
  simp [exec_vectorRepeat, execVectorRepeat, State.vectorDue_of_repLeft hleft, hfree, hleft]

/-! ### MATCH (R86) -/

theorem exec_matchPass_of_due (hdue : u.vectorDue sl.val 4 = true) (ecc : VecEcc) :
    exec (.matchPass e sl ecc) s = .next (u.playCode sl.val 4 ecc) := by
  subst hu
  simp [exec_matchPass, execMatchPass, hdue]

theorem exec_matchPass_of_notDue (hnot : u.vectorDue sl.val 4 = false) (ecc : VecEcc) :
    exec (.matchPass e sl ecc) s = .next (u.judgeDue sl.val) := by
  subst hu
  simp [exec_matchPass, execMatchPass, hnot]

end

/-- A pass is judged once it has ended on every slice of the site and its compares are in. -/
theorem State.judgeDue_of_ended {s : State} {i b : Nat} (hjudge : (s.slice i).mat.judge = some b) (hvalid : s.sliceValid i = true)
    (hreached : s.reached b = true)
    (hall : ∀ j ∈ s.slicesOf (s.sliceSite i), (s.slice j).mat.judge = some b ∧ s.comparesDone j b = true) :
    s.judgeDue i = s.judgePass (s.sliceSite i) i b := by
  have hended : (s.slicesOf (s.sliceSite i)).all (fun j => (s.slice j).mat.judge == some b && s.comparesDone j b) = true :=
    List.all_eq_true.2 fun j hj => by simp [hall j hj]
  simp only [State.judgeDue, hjudge, hvalid, hreached, hended, Bool.and_self, if_true]

/-- Settles O5: a vector that is due plays and the ROM routine of its code or its patch follows; REPEAT and MATCH also go on
between vectors. -/
theorem vectorComplete : Obligations.VectorComplete := by
  intro e s u hu
  refine ⟨?next, ?repeatBegins, ?repeatMore, ?repeatLast, ?loopBegin, ?loopEnd, ?matchPlays, ?matchWaits, ?matchJudged, ?alt, ?endCode,
    ?code7, ?patched, ?faulted⟩
  case next =>
    intro sl ecc hdue hrom
    rw [exec_vectorNext, ← hu, State.playCode_of_rom hdue hrom]
    rfl
  case repeatBegins =>
    intro sl ecc hdue hrom
    rw [exec_vectorRepeat_of_due hu hdue, State.playCode_of_rom hdue hrom]
    rfl
  case repeatMore =>
    intro sl ecc v hfree hmore hv hlive
    rw [exec_vectorRepeat_of_left hu hfree (Nat.ne_of_gt (Nat.zero_lt_of_lt hmore)), State.repeatVector_of_more hv hlive hmore]
  case repeatLast =>
    intro sl ecc v hfree hlast hv hlive
    rw [exec_vectorRepeat_of_left hu hfree (hlast ▸ Nat.one_ne_zero), State.repeatVector_of_last hv hlive hlast]
  case loopBegin =>
    intro sl ecc hdue hrom
    rw [exec_loopBegin, ← hu, State.playCode_of_rom hdue hrom]
    rfl
  case loopEnd =>
    intro sl ecc hdue hrom
    rw [exec_loopEnd, ← hu, State.playCode_of_rom hdue hrom]
    rfl
  case matchPlays =>
    intro sl ecc hdue hrom
    rw [exec_matchPass_of_due hu hdue, State.playCode_of_rom hdue hrom]
    rfl
  case matchWaits =>
    intro sl ecc hnot
    exact exec_matchPass_of_notDue hu hnot ecc
  case matchJudged =>
    intro sl b hjudge hvalid hreached hall
    exact State.judgeDue_of_ended hjudge hvalid hreached hall
  case alt =>
    intro sl ecc hdue hrom
    rw [exec_altVector, ← hu, State.playCode_of_rom hdue hrom]
    rfl
  case endCode =>
    intro sl ecc hdue hrom
    rw [exec_endVector, ← hu, State.playCode_of_rom hdue hrom]
    rfl
  case code7 =>
    intro sl ecc hdue hrom
    rw [exec_code7, ← hu, State.playCode_of_rom hdue hrom]
    rfl
  case patched =>
    intro sl ecc c n hc hdue hpatch
    rw [← State.playCode_of_patch hdue hpatch]
    simp only [List.mem_cons, List.not_mem_nil, or_false, Prod.mk.injEq] at hc
    obtain ⟨rfl, rfl⟩ | ⟨rfl, rfl⟩ | ⟨rfl, rfl⟩ | ⟨rfl, rfl⟩ | ⟨rfl, rfl⟩ | ⟨rfl, rfl⟩ | ⟨rfl, rfl⟩ | ⟨rfl, rfl⟩ := hc
    · rw [exec_vectorNext, hu]
    · exact exec_vectorRepeat_of_due hu hdue ecc
    · rw [exec_loopBegin, hu]
    · rw [exec_loopEnd, hu]
    · exact exec_matchPass_of_due hu hdue ecc
    · rw [exec_altVector, hu]
    · rw [exec_endVector, hu]
    · rw [exec_code7, hu]
  case faulted =>
    intro sl ecc hnone
    rw [exec_vectorNext, exec_endVector, ← hu, State.playCode_of_notDue (hnone 0), State.playCode_of_notDue (hnone 6)]
    exact ⟨rfl, rfl⟩

/-! ### What a slice's hidden state leaves alone -/

@[simp] theorem State.proxy_setSlice (s : State) (i : Nat) (u : SliceUnit) (x : Nat) : (s.setSlice i u).proxy x = s.proxy x := rfl

/-! ### Check points and holds (R99, R100) -/

section
variable {e : Nat} {s u : State} (hu : u = s.elapse e)
include hu

theorem exec_granuleCheckPoint_of_due {sl : SliceNo} (hvalid : u.sliceValid sl.val = true) (hlive : (u.slice sl.val).live = true)
    (hgran : (u.slice sl.val).atGran = true) (hnew : (u.slice sl.val).checked ≠ some (u.slice sl.val).nextB)
    (hjudge : (u.slice sl.val).mat.judge = none) (hplays : u.siteState (u.sliceSite sl.val) = 3 ∨ u.siteState (u.sliceSite sl.val) = 5)
    (hreached : u.reached (wrap64 ((u.slice sl.val).nextB + 2 ^ 64 - u.checkLead (u.sliceSite sl.val))) = true) :
    exec (.granuleCheckPoint e sl) s = .next (u.checkPoint sl.val (u.slice sl.val).nextB) := by
  subst hu
  simp only [exec_granuleCheckPoint, execGranuleCheckPoint, hreached]
  simp [hvalid, hlive, hgran, hnew, hjudge, hplays]

theorem exec_holdRelease_of_due {x : Site} {b cause : Nat} (hhold : (u.site x.val).hold = some (b, cause))
    (hplays : u.siteState x.val = 3 ∨ u.siteState x.val = 5) (hreached : u.reached b = true) (hstop : u.stopDue x.val b = false)
    (hat : u.allAt x.val b = true) (hjumps : ∀ i ∈ u.slicesOf x.val, u.jumpsDue i = []) :
    exec (.holdRelease e x) s = .next (u.enterHold x.val b cause) := by
  subst hu
  have hnone : ((s.elapse e).slicesOf x.val).all (fun i => ((s.elapse e).jumpsDue i).isEmpty) = true :=
    List.all_eq_true.2 fun i hi => List.isEmpty_iff.2 (hjumps i hi)
  simp only [exec_holdRelease, execHoldRelease, hhold, hreached, hstop, hat, hnone]
  simp [hplays]

/-! ### Refill and admission (R93, R95) -/

theorem exec_refillGranuleComplete_of_due {sl : SliceNo} {seg : BitVec 24} {gran : Fin 65536} {col : Fin 64} {d : Desc}
    (hdesc : u.descFor sl.val seg.toNat = some d) (hvalid : u.sliceValid sl.val = true)
    (hmay : u.mayRefill sl.val d gran.val col.val = true) :
    exec (.refillGranuleComplete e sl seg gran col) s = .next (u.refill sl.val d gran.val col.val) := by
  subst hu
  simp [exec_refillGranuleComplete, execRefillGranuleComplete, hdesc, hvalid, hmay]

section
variable {sl : SliceNo} {seg : BitVec 24} {ecc r : Ecc} (hr : r = u.eccAt false (u.img.segtab + 32 * seg.toNat) 32 ecc)
  (hvalid : u.sliceValid sl.val = true) (hnew : u.descFor sl.val seg.toNat = none)
include hr hvalid hnew

theorem exec_segmentAdmission_of_wanted (hwanted : (u.wanted sl.val).contains seg.toNat = true) :
    exec (.segmentAdmission e sl seg ecc) s = .next ((u.eccRaise false r).takeIn sl.val seg.toNat false r) := by
  subst hu hr
  simp only [exec_segmentAdmission, execSegmentAdmission, hvalid, hnew, hwanted, Bool.not_true, Bool.false_eq_true, if_false, if_true]

theorem exec_segmentAdmission_of_target (hnot : (u.wanted sl.val).contains seg.toNat = false)
    (htarget : (u.targets sl.val).contains seg.toNat = true) :
    exec (.segmentAdmission e sl seg ecc) s = .next ((u.eccRaise false r).takeIn sl.val seg.toNat true r) := by
  subst hu hr
  simp only [exec_segmentAdmission, execSegmentAdmission, hvalid, hnew, hnot, htarget, Bool.not_true, Bool.false_eq_true, if_false, if_true]

end

/-! ### Ready and resume (R101) -/

/-- The last report of a home's slice lets the resume instant be formed. -/
theorem exec_sliceReadyReport_of_home {sl : SliceNo} (hvalid : u.sliceValid sl.val = true)
    (hheld : u.held (u.sliceSite sl.val) = true) (hslice : u.get F.SLP_STAT.STATE sl.val = 3)
    (hfirst : (u.slice sl.val).reported = false) (hresume : (u.site (u.sliceSite sl.val)).resume = none)
    (hstop : (u.site (u.sliceSite sl.val)).stop = none) (hready : u.ready sl.val = true)
    (hhome : u.proxy (u.sliceSite sl.val) = false) : exec (.sliceReadyReport e sl) s = .next
      ((u.setSlice sl.val { u.slice sl.val with reported := true }).formResume (u.sliceSite sl.val)) := by
  subst hu
  simp [exec_sliceReadyReport, execSliceReadyReport, hvalid, hheld, hslice, hfirst, hresume, hstop, hready, hhome]

end

/-- The slices of a site that stand held. -/
def State.heldSlices (s : State) (x : Nat) : List Nat := (s.slicesOf x).filter (fun i => s.get F.SLP_STAT.STATE i == 3)

/-- The held slices of a site play again from r, and a site in HOLD is RUNNING (R101). -/
def State.resumePlay (s : State) (x r : Nat) : State :=
  let s1 := s.each (s.heldSlices x) (fun s i => s.resumeSlice i r)
  let s2 := (s1.set F.MDR_SITE_RESUME_DT.DT x r).setSite x { s1.site x with resume := none, reports := [] }
  if s2.siteState x == 4 then s2.enterState x 3 else s2

theorem exec_resumeRelease_of_due {e r : Nat} {x : Site} {s u : State} (hu : u = s.elapse e) (hresume : (u.site x.val).resume = some r)
    (hheld : u.held x.val = true) (hreached : u.reached r = true) (hstop : (u.site x.val).stop = none) :
    exec (.resumeRelease e x) s = .next ((u.resumePlay x.val r).each (u.heldSlices x.val) (fun s i => s.checkPoint i r)) := by
  subst hu
  rw [exec_resumeRelease, execResumeRelease, hresume]
  exact if_pos (by rw [hheld, hreached, hstop]; rfl)

@[simp] theorem State.siteState_each_resumeSlice (s : State) (l : List Nat) (r x : Nat) :
    (s.each l (fun s i => s.resumeSlice i r)).siteState x = s.siteState x :=
  Keeps.get (State.each_keeps (fun _ _ => State.resumeSlice_keeps _ _ (Within.ne (by decide))) (Keeps.refl _ s))

/-- Play goes on in RUNNING from HOLD, and in the site's own state from any other (R101, R102). -/
theorem State.siteState_resumePlay (s : State) (x r : Nat) :
    (s.resumePlay x r).siteState x = if s.siteState x = 4 then 3 else s.siteState x := by
  unfold State.resumePlay
  extract_lets s1 v s2
  have hstate : s2.siteState x = s.siteState x :=
    (State.get_set_fld s1 _ _ _ _ _ (by decide)).trans (State.siteState_each_resumeSlice ..)
  rw [hstate]
  by_cases hhold : s.siteState x = 4
  · simp [hhold]
  · simp [hhold, hstate]

@[simp] theorem State.resumeDT_enterState (s : State) (x c y : Nat) :
    (s.enterState x c).get F.MDR_SITE_RESUME_DT.DT y = s.get F.MDR_SITE_RESUME_DT.DT y :=
  Keeps.get (State.enterState_keeps _ _ (Within.ne (by decide)) (Keeps.refl _ s))

theorem State.resumeDT_resumePlay (s : State) (x r : Nat) : (s.resumePlay x r).get F.MDR_SITE_RESUME_DT.DT x = r % 2 ^ 64 := by
  unfold State.resumePlay
  extract_lets s1 v s2
  have hdt : s2.get F.MDR_SITE_RESUME_DT.DT x = r % 2 ^ 64 := State.get_set_self ..
  split
  · rw [State.resumeDT_enterState, hdt]
  · exact hdt

/-! ### Queue entries and jumps (R103, R104, R161) -/

section
variable {e : Nat} {s u : State} (hu : u = s.elapse e)
include hu

theorem exec_queueEntryRelease_of_due {sl : SliceNo} {q : QEntry} {r : List QEntry} (hinbound : (u.slice sl.val).inbound = q :: r)
    (hvalid : u.sliceValid sl.val = true) (hreached : u.reached q.release = true)
    (hstate : u.siteState (u.sliceSite sl.val) ≠ 7) : exec (.queueEntryRelease e sl) s = .next
      ((u.setSlice sl.val { u.slice sl.val with inbound := r }).queueEntry sl.val q) := by
  subst hu
  simp [exec_queueEntryRelease, execQueueEntryRelease, hinbound, hvalid, hreached, hstate]

theorem exec_eventJumpRequest_of_enabled {x : Site} {i : Nat} (hlead : u.leadSlice x.val = some i)
    (henabled : u.flag F.SLP_JUMP_CFG.EN i = true) (hplays : u.get F.SLP_STAT.STATE i = 2 ∨ u.get F.SLP_STAT.STATE i = 3)
    (hactive : u.active x.val = true) : exec (.eventJumpRequest e x) s = .next (u.addJump x.val 3
      (if u.hasProxies x.val then wrap64 (u.now + ns 280) else u.now) (u.hinted i (u.get F.SLP_JUMP_CFG.HINT i))) := by
  subst hu
  simp [exec_eventJumpRequest, execEventJumpRequest, hlead, henabled, hplays, hactive]

/-- The one jump that is due at a boundary is taken by every slice that plays. -/
theorem exec_jumpHonoured_of_single {x : Site} {i : Nat} {is : List Nat} {j : JumpReq}
    (hlive : (u.slicesOf x.val).filter (fun i => (u.slice i).live) = i :: is) (hwinner : winner (u.jumpsDue i) = some j)
    (hreached : u.reached (u.slice i).nextB = true) (hat : u.allAt x.val (u.slice i).nextB = true)
    (hstop : u.stopDue x.val (u.slice i).nextB = false) (hplays : u.siteState x.val = 3 ∨ u.siteState x.val = 5)
    (hjudge : ∀ k ∈ i :: is, (u.slice k).mat.judge = none) (hone : (u.jumpsDue i).length = 1) (hhold : (u.site x.val).hold = none) :
    exec (.jumpHonoured e x) s = .next ((u.setSite x.val { u.site x.val with
      jumps := (u.site x.val).jumps.filter (fun k => !(u.jumpsDue i).contains k), hold := none }).each (i :: is)
        (fun s k => s.takeJump k (u.slice i).nextB j)) := by
  subst hu
  have hjudged : (i :: is).all (fun k => ((s.elapse e).slice k).mat.judge.isNone) = true :=
    List.all_eq_true.2 fun k hk => by simp [hjudge k hk]
  have hstate : ((s.elapse e).siteState x.val == 3 || (s.elapse e).siteState x.val == 5) = true := by simpa using hplays
  simp only [exec_jumpHonoured, execJumpHonoured, hlive, hwinner, hreached, hat, hstop, hstate, hjudged, hone, hhold, Bool.not_false,
    Bool.and_self, if_true, Nat.lt_irrefl, if_false]

/-! ### Control-column CRCs (R83) -/

theorem exec_ctrlCrcReport_of_proxy {x : Site} (hproxy : u.proxy x.val = true)
    (hends : ∀ i ∈ u.slicesOf x.val, (u.slice i).crcEnd.isSome = true) : exec (.ctrlCrcReport e x) s = .next (u.sendCrcs x.val) := by
  subst hu
  simp only [exec_ctrlCrcReport, execCtrlCrcReport, List.all_eq_true.2 hends, hproxy, Bool.not_true, Bool.false_eq_true, if_false, if_true]

theorem exec_ctrlCrcReport_of_home {x : Site} (hhome : u.proxy x.val = false) (hslices : u.slicesOf x.val ≠ [])
    (hends : ∀ i ∈ u.slicesOf x.val, (u.slice i).crcEnd.isSome = true) (hfar : u.farCrcs x.val ≤ (u.site x.val).crcs.length) :
    exec (.ctrlCrcReport e x) s = .next (u.judgeCrcs x.val) := by
  subst hu
  simp only [exec_ctrlCrcReport, execCtrlCrcReport, List.all_eq_true.2 hends, hhome, hfar, List.isEmpty_eq_false_iff.2 hslices,
    Bool.not_true, Bool.not_false, Bool.true_or, decide_true, Bool.and_self, Bool.false_eq_true, if_false, if_true]

end

/-- The CRCs that a home compares: one of each of its slices, then one of each slice of its joined devices. -/
def State.comparedCrcs (s : State) (x : Nat) : List (Nat × Nat) :=
  (s.slicesOf x).filterMap (fun i => (s.slice i).crcEnd) ++ (s.site x).crcs.take (s.farCrcs x)

/-- CRCs that are all the same are taken, and nothing is raised. -/
theorem State.judgeCrcs_of_same {s v : State} {x : Nat} {p : Nat × Nat} (hsome : s.comparedCrcs x ≠ [])
    (hsame : ∀ q ∈ s.comparedCrcs x, q = p)
    (hv : v = s.each (s.slicesOf x) (fun s k => s.setSlice k { s.slice k with crcEnd := none })) :
    s.judgeCrcs x = v.setSite x { v.site x with crcs := (v.site x).crcs.drop (s.farCrcs x) } := by
  have hfirst : (s.comparedCrcs x).headD (0, 0) = p := by
    obtain ⟨q, l, hl⟩ := List.exists_cons_of_ne_nil hsome
    rw [hl]
    exact hsame q (hl ▸ List.mem_cons_self ..)
  have hall : (s.comparedCrcs x).all (fun q => q == (s.comparedCrcs x).headD (0, 0)) = true :=
    List.all_eq_true.2 fun q hq => by rw [hfirst, hsame q hq, beq_self_eq_true]
  rw [hv]
  exact if_pos hall

/-! ### Slice-player registers (R85, R86, R99) -/

theorem State.writeJumpCfg_of_idle {s : State} {i : Nat} (hvalid : s.sliceValid i = true)
    (hidle : s.siteState (s.sliceSite i) = 1 ∨ s.siteState (s.sliceSite i) = 6) (v : Nat) : s.writeJumpCfg i v =
      s.each (s.siblings i) (fun s j => ((s.set F.SLP_JUMP_CFG.EVCH j (bitsOf v 0 8)).set F.SLP_JUMP_CFG.EN j (bitsOf v 8 1)).set
        F.SLP_JUMP_CFG.HINT j (bitsOf v 9 1)) := by
  simp [State.writeJumpCfg, hvalid, hidle]

theorem State.writeLooppre_of_preset {s : State} {i : Nat} (hpreset : s.presetOk i = true) (r v : Nat) :
    s.writeLooppre i r v = s.each (s.siblings i) (fun s j => s.set F.SLP_LOOPPRE.COUNT (4 * j + r) v) := by
  rw [State.writeLooppre, if_pos hpreset]

theorem State.writeMatchTmo_of_preset {s : State} {i : Nat} (hpreset : s.presetOk i = true) (v : Nat) :
    s.writeMatchTmo i v = s.each (s.siblings i) (fun s j => s.set F.SLP_MATCH_TMO.PASSES j (bitsOf v 0 24)) := by
  rw [State.writeMatchTmo, if_pos hpreset]

/-- Settles O6: each command whose conditions hold makes its one step of the player, the refill, the hold, the resume, the queue, the
jump, the CRC check or a register. -/
theorem playerComplete : Obligations.PlayerComplete := by
  intro e s u hu
  refine ⟨?checkPoint, ?hold, ?refill, ?ready, ?resume, ?admitted, ?target, ?entry, ?jumpRequest, ?jump, ?crcHome, ?crcProxy, ?jumpCfg,
    ?looppre, ?matchTmo⟩
  case checkPoint =>
    intro sl hvalid hlive hgran hnew hjudge hplays hreached
    exact exec_granuleCheckPoint_of_due hu hvalid hlive hgran hnew hjudge hplays hreached
  case hold =>
    intro x b cause hhold hplays hreached hstop hat hjumps
    exact exec_holdRelease_of_due hu hhold hplays hreached hstop hat hjumps
  case refill =>
    intro sl seg gran col d hdesc hvalid hmay
    exact exec_refillGranuleComplete_of_due hu hdesc hvalid hmay
  case ready =>
    intro sl hvalid hheld hslice hfirst hresume hstop hready hhome
    exact exec_sliceReadyReport_of_home hu hvalid hheld hslice hfirst hresume hstop hready hhome
  case resume =>
    intro x r hresume hheld hreached hstop
    refine ⟨u.resumePlay x.val r, exec_resumeRelease_of_due hu hresume hheld hreached hstop, State.resumeDT_resumePlay .., ?_⟩
    rw [State.siteState_resumePlay]
    split <;> omega
  case admitted =>
    intro sl seg ecc r hr hvalid hnew hwanted
    exact exec_segmentAdmission_of_wanted hu hr hvalid hnew hwanted
  case target =>
    intro sl seg ecc r hr hvalid hnew hnot htarget
    exact exec_segmentAdmission_of_target hu hr hvalid hnew hnot htarget
  case entry =>
    intro sl q r hinbound hvalid hreached hstate
    exact exec_queueEntryRelease_of_due hu hinbound hvalid hreached hstate
  case jumpRequest =>
    intro x i hlead henabled hplays hactive
    exact exec_eventJumpRequest_of_enabled hu hlead henabled hplays hactive
  case jump =>
    intro x i is j hlive hwinner hreached hat hstop hplays hjudge hone hhold
    exact exec_jumpHonoured_of_single hu hlive hwinner hreached hat hstop hplays hjudge hone hhold
  case crcHome =>
    intro x i is seg crc v hslices hends hhome hfar hcrcs hv
    rw [← hslices] at hends hv
    have hsome : u.comparedCrcs x.val ≠ [] := by simp [State.comparedCrcs, hslices, hends i (hslices ▸ List.mem_cons_self ..)]
    have hsame : ∀ q ∈ u.comparedCrcs x.val, q = (seg, crc) := by
      intro q hq
      obtain hq | hq := List.mem_append.1 hq
      · obtain ⟨k, hk, hcrc⟩ := List.mem_filterMap.1 hq
        exact (Option.some.inj ((hends k hk).symm.trans hcrc)).symm
      · exact hcrcs q hq
    rw [exec_ctrlCrcReport_of_home hu hhome (by simp [hslices]) (fun k hk => by simp [hends k hk]) hfar,
      State.judgeCrcs_of_same hsome hsame hv]
  case crcProxy =>
    intro x hproxy hends
    exact exec_ctrlCrcReport_of_proxy hu hproxy hends
  case jumpCfg =>
    intro sl v hvalid hidle
    rw [exec_slpJumpCfgWrite, ← hu, State.writeJumpCfg_of_idle hvalid hidle]
  case looppre =>
    intro sl r v hpreset
    rw [exec_slpLooppreWrite, ← hu, State.writeLooppre_of_preset hpreset]
  case matchTmo =>
    intro sl v hpreset
    rw [exec_slpMatchTmoWrite, ← hu, State.writeMatchTmo_of_preset hpreset]

end Sys2Proof.Machine
end

section
/-! Waveform accesses, periods, sets, drive events and set changes, and the statement about them (R113–R132, R376). -/

namespace Sys2Proof.Machine

/-! ### Which meaning the dispatch calls -/

theorem exec_waveformRead (e : Nat) (t : Tile) (s : State) :
    exec (.waveformRead e t) s = .next ((s.elapse e).startAccess t.val 1) := rfl

theorem exec_waveformWrite (e : Nat) (t : Tile) (s : State) :
    exec (.waveformWrite e t) s = .next ((s.elapse e).startAccess t.val 2) := rfl

theorem exec_waveformAccessComplete (e : Nat) (t : Tile) (e0 e1 e2 : Ecc) (s : State) :
    exec (.waveformAccessComplete e t e0 e1 e2) s = execWaveformAccessComplete e t e0 s e1 e2 := rfl

theorem exec_wodPeriodWrite (e : Nat) (sl : SliceNo) (set : Fin 64) (v : Word64) (s : State) :
    exec (.wodPeriodWrite e sl set v) s = .next ((s.elapse e).writePeriod sl.val set.val v.toNat) := rfl

theorem exec_wodSliceTsWrite (e : Nat) (sl : SliceNo) (v : Word32) (s : State) :
    exec (.wodSliceTsWrite e sl v) s = .next ((s.elapse e).writeSliceTs sl.val v.toNat) := rfl

theorem exec_wodChCfgWrite (e : Nat) (ch : Chan) (v : Word32) (s : State) :
    exec (.wodChCfgWrite e ch v) s = .next ((s.elapse e).writeChCfg ch.val v.toNat) := rfl

theorem exec_driveEvent (e : Nat) (ch : Chan) (s : State) :
    exec (.driveEvent e ch) s = execDriveEvent e ch s := rfl

theorem exec_timingSetRelease (e : Nat) (x : Site) (s : State) :
    exec (.timingSetRelease e x) s = execTimingSetRelease e x s := rfl

/-! ### A waveform access begins (R131, R132, R376) -/

/-- A tile with waveform access a in progress: its RESULT reads busy. -/
def State.accessing (s : State) (t : Nat) (a : WfAccess) : State :=
  ({ s with wfAcc := Tab.set none s.wfAcc t (some a) }).set F.WOD_WF_RES.RESULT t 1

@[simp] theorem State.result_accessing (s : State) (t : Nat) (a : WfAccess) : (s.accessing t a).get F.WOD_WF_RES.RESULT t = 1 :=
  State.get_set_self ..

@[simp] theorem State.wfAcc_accessing (s : State) (t : Nat) (a : WfAccess) : Tab.get none (s.accessing t a).wfAcc t = some a := by
  simp [State.accessing]

section
variable {s : State} {t : Nat} (hfree : s.get F.WOD_WF_RES.RESULT t ≠ 1)
include hfree

theorem State.startAccess_of_read : s.startAccess t 1 = s.accessing t ⟨1, s.now, 2, 0, 0⟩ := by
  simp [State.startAccess, State.accessing, hfree]

/-- A write that keeps the rules of R117 in every waveform that it touches is to succeed. -/
theorem State.startAccess_of_keeping (hset : s.chanSettable (s.wfChan t) = true)
    (hkeeps : s.writeBreaks (s.wfChan t) (s.get F.WOD_WF_SEL.SLOT t) (s.get F.WOD_WF_SEL.WF t) (s.wfData t) = none) :
    s.startAccess t 2 = s.accessing t ⟨2, s.now, 2, 0, 0⟩ := by
  simp [State.startAccess, State.accessing, hfree, hset, hkeeps]

/-- A write to a channel whose site is armed is to be refused (R131). -/
theorem State.startAccess_of_refused (hnot : s.chanSettable (s.wfChan t) = false) :
    s.startAccess t 2 = s.accessing t ⟨2, s.now, 3, 0, 0⟩ := by
  simp [State.startAccess, State.accessing, hfree, hnot]

end

/-! ### A waveform access ends (R376) -/

/-- A tile's waveform access a ends: it has its effect unless it was refused, and its result is reported. -/
def State.endAccess (s : State) (t : Nat) (a : WfAccess) (ecc : Ecc × Ecc × Ecc) : State :=
  let s1 := if a.result = 2 then s.doAccess t a.op ecc else s
  ((({ s1 with wfAcc := Tab.set none s1.wfAcc t none }).set F.WOD_WF_RES.RESULT t a.result).set F.WOD_WF_RES.REASON t a.reason).set
    F.WOD_WF_RES.WF t a.wf

theorem exec_waveformAccessComplete_of_pending {e : Nat} {t : Tile} {a : WfAccess} {s u : State} (hu : u = s.elapse e)
    (hacc : Tab.get none u.wfAcc t.val = some a) (e0 e1 e2 : Ecc) :
    exec (.waveformAccessComplete e t e0 e1 e2) s = .next (u.endAccess t.val a (e0, e1, e2)) := by
  subst hu
  simp only [exec_waveformAccessComplete, execWaveformAccessComplete, hacc]
  rfl

section
variable (s : State) (t : Nat) (a : WfAccess) (ecc : Ecc × Ecc × Ecc)

theorem State.result_endAccess : (s.endAccess t a ecc).get F.WOD_WF_RES.RESULT t = a.result % 8 :=
  (State.get_set_fld _ _ _ _ _ _ (by decide)).trans ((State.get_set_fld _ _ _ _ _ _ (by decide)).trans (State.get_set_self ..))

theorem State.reason_endAccess : (s.endAccess t a ecc).get F.WOD_WF_RES.REASON t = a.reason % 8 :=
  (State.get_set_fld _ _ _ _ _ _ (by decide)).trans (State.get_set_self ..)

theorem State.wf_endAccess : (s.endAccess t a ecc).get F.WOD_WF_RES.WF t = a.wf % 16 := State.get_set_self ..

end

/-! ### What an access leaves in the waveform memory (R132) -/

/-- Waveforms read the same in states whose waveform memories are the same. -/
theorem State.waveAt_congr {s v : State} (h : v.wave = s.wave) (c slot w : Nat) : v.waveAt c slot w = s.waveAt c slot w := by
  unfold State.waveAt
  rw [h]

@[simp] theorem State.waveAt_setWave_self (s : State) (c slot w : Nat) (d : WaveEntry) : (s.setWave c slot w d).waveAt c slot w = d := by
  simp [State.waveAt, State.setWave]

@[simp] theorem State.wave_setLevel (s : State) (c lv t : Nat) : (s.setLevel c lv t).wave = s.wave := by
  unfold State.setLevel
  extract_lets
  split <;> rfl

/-- A channel that follows its idle waveform changes no waveform. -/
@[simp] theorem State.wave_relevel (s : State) (c : Nat) : (s.relevel c).wave = s.wave := by
  unfold State.relevel
  cases s.chanSlice c with
  | none => rfl
  | some i => simp only [apply_ite State.wave, State.wave_setLevel, ite_self]

/-- A write access leaves the entry that WOD_WF_DATA holds in the waveform that WOD_WF_SEL names. -/
theorem State.waveAt_doAccess_write (s : State) (t : Nat) (ecc : Ecc × Ecc × Ecc) :
    (s.doAccess t 2 ecc).waveAt (s.wfChan t) (s.get F.WOD_WF_SEL.SLOT t) (s.get F.WOD_WF_SEL.WF t) = s.wfData t := by
  have hwave : (s.doAccess t 2 ecc).wave =
      (s.setWave (s.wfChan t) (s.get F.WOD_WF_SEL.SLOT t) (s.get F.WOD_WF_SEL.WF t) (s.wfData t)).wave := by
    simp only [State.doAccess, if_true, apply_ite State.wave, State.wave_relevel, ite_self]
  rw [State.waveAt_congr hwave, State.waveAt_setWave_self]

theorem State.waveAt_endAccess_write (s : State) (t : Nat) {a : WfAccess} (ecc : Ecc × Ecc × Ecc) (hdone : a.result = 2)
    (hwrite : a.op = 2) : (s.endAccess t a ecc).waveAt (s.wfChan t) (s.get F.WOD_WF_SEL.SLOT t) (s.get F.WOD_WF_SEL.WF t) =
      s.wfData t := by
  have hwave : (s.endAccess t a ecc).wave = (s.doAccess t 2 ecc).wave := by
    simp only [State.endAccess, hdone, hwrite, if_true, State.set_wave]
  rw [State.waveAt_congr hwave, State.waveAt_doAccess_write]

/-! ### Periods, sets and channel settings (R113, R114, R128, R131) -/

section
variable {s : State} {i : Nat}

theorem State.writePeriod_of_ok {v : Nat} (hset : s.sliceSettable i = true) (hok : periodOk v = true) (set : Nat) :
    s.writePeriod i set v = s.each (s.siblings i) (fun s j => s.set F.WOD_PERIOD.PERIOD (64 * j + set) v) := by
  simp [State.writePeriod, hset, hok]

/-- A value that is no period is refused (R113). -/
theorem State.writePeriod_of_bad {v : Nat} (hset : s.sliceSettable i = true) (hbad : periodOk v = false) (set : Nat) :
    s.writePeriod i set v = s.set F.WOD_SLICE_STAT.PER_REJ i 1 := by
  simp [State.writePeriod, hset, hbad]

theorem State.writePeriod_of_armed (hnot : s.sliceSettable i = false) (set v : Nat) :
    s.writePeriod i set v = s.set F.WOD_SLICE_STAT.WR_REJ i 1 := by
  simp [State.writePeriod, hnot]

theorem State.writeSliceTs_of_settable (hset : s.sliceSettable i = true) (v : Nat) : s.writeSliceTs i v =
    s.each (s.siblings i) (fun s j =>
      (s.set F.WOD_SLICE_TS.PRIMARY j (bitsOf v 0 6)).set F.WOD_SLICE_TS.ALTERNATE j (bitsOf v 8 6)) := by
  rw [State.writeSliceTs, if_pos hset]

theorem State.writeChCfg_of_settable {c : Nat} (hset : s.chanSettable c = true) (v : Nat) :
    s.writeChCfg c v = s.set F.WOD_CH_CFG.FIXCOMP c (bitsOf v 0 1) := by
  rw [State.writeChCfg, if_pos hset]

theorem State.writeChCfg_of_armed {c : Nat} (hnot : s.chanSettable c = false) (v : Nat) : s.writeChCfg c v = s := by
  simp [State.writeChCfg, hnot]

end

/-! ### Drive events (R120) -/

/-- The earliest placed event executes once its instant is reached and no vector can place an earlier one. -/
theorem exec_driveEvent_of_due {e : Nat} {ch : Chan} {d : DriveEv} {s u : State} (hu : u = s.elapse e)
    (hfirst : firstDrive (u.chan ch.val).drive = some d) (hreached : u.reached d.instant = true)
    (hfree : u.waitsForVector ch.val d.ideal d.instant = false) :
    exec (.driveEvent e ch) s = .next (u.driveNow ch.val d) := by
  subst hu
  simp [exec_driveEvent, execDriveEvent, hfirst, hreached, hfree]

/-- A dropped transition changes registers alone. -/
@[simp] theorem State.chan_dropEdge (s : State) (c y : Nat) : (s.dropEdge c).chan y = s.chan y := by
  unfold State.dropEdge
  rw [State.count_rest]
  rfl

/-- A dropped transition sets EDGE_DROP of its channel and of its tile. -/
theorem State.flags_dropEdge (s : State) (c : Nat) :
    (s.dropEdge c).get F.WOD_CH_STAT.EDGE_DROP c = 1 ∧ (s.dropEdge c).get F.WOD_FAULT_STAT.EDGE_DROP (c / 128) = 1 :=
  ⟨(State.get_set_fld _ _ _ _ _ _ (by decide)).trans (State.get_set_self ..), State.get_set_self ..⟩

section
variable {s : State} {c : Nat} {d : DriveEv} (hchange : (s.chan c).level ≠ actLevel d.act)
include hchange

theorem State.chan_driveNow_of_spaced (hspaced : (s.chan c).tooClose d.instant = false) : (s.driveNow c d).chan c =
    { s.chan c with drive := (s.chan c).drive.erase d, level := actLevel d.act, lastTrans := some d.instant } := by
  simp [State.driveNow, hchange, hspaced]

/-- An event too close to the transition before it is taken off and has no other effect on the channel. -/
theorem State.driveNow_of_close (hclose : (s.chan c).tooClose d.instant = true) : s.driveNow c d =
    (s.setChan c { s.chan c with drive := (s.chan c).drive.erase d }).dropEdge c := by
  simp [State.driveNow, hchange, hclose]

end

/-! ### Immediate set changes (R123) -/

theorem exec_timingSetRelease_of_due {e i : Nat} {is : List Nat} {x : Site} {r : TsetReq} {rest : List TsetReq} {s u : State}
    (hu : u = s.elapse e) (hlive : (u.slicesOf x.val).filter (fun i => (u.slice i).live) = i :: is)
    (himm : (u.site x.val).tsImm = r :: rest) (hat : u.atBoundary x.val (u.slice i).nextB = true)
    (hreached : u.reached (u.slice i).nextB = true) (hdue : dtReached (u.slice i).nextB r.release = true)
    (hentry : (u.slice i).needEntry = false) (hhold : u.holdDue x.val (u.slice i).nextB = false)
    (hstop : u.stopDue x.val (u.slice i).nextB = false) (hjumps : u.jumpsDue i = []) :
    exec (.timingSetRelease e x) s = .next ((u.setSite x.val { u.site x.val with tsImm := rest }).each (i :: is)
      (fun s j => s.immediateSets j (u.slice i).nextB r)) := by
  subst hu
  simp only [exec_timingSetRelease, execTimingSetRelease, hlive, himm, hat, hreached, hdue, hentry, hhold, hstop, hjumps,
    List.isEmpty_nil, Bool.not_false, Bool.and_self, if_true]

/-- Settles O7: each command begins or ends an access, writes one setting, executes one placed event or makes one set change. -/
theorem timingComplete : Obligations.TimingComplete := by
  intro e s u hu
  refine ⟨?read, ?write, ?writeRefused, ?ended, ?written, ?period, ?periodBad, ?periodArmed, ?sets, ?chan, ?chanArmed, ?driven, ?dropped,
    ?setChange⟩
  case read =>
    intro t hfree
    rw [hu] at hfree ⊢
    exact ⟨_, exec_waveformRead .., by simp [State.startAccess_of_read hfree]⟩
  case write =>
    intro t hfree hset hkeeps
    rw [hu] at hfree hset hkeeps ⊢
    exact ⟨_, exec_waveformWrite .., by simp [State.startAccess_of_keeping hfree hset hkeeps]⟩
  case writeRefused =>
    intro t hfree hnot
    rw [hu] at hfree hnot ⊢
    exact ⟨_, exec_waveformWrite .., by simp [State.startAccess_of_refused hfree hnot]⟩
  case ended =>
    intro t e0 e1 e2 a hacc
    exact ⟨_, exec_waveformAccessComplete_of_pending hu hacc e0 e1 e2, State.result_endAccess .., State.reason_endAccess ..,
      State.wf_endAccess ..⟩
  case written =>
    intro t e0 e1 e2 a hacc hdone hwrite
    exact ⟨_, exec_waveformAccessComplete_of_pending hu hacc e0 e1 e2, State.waveAt_endAccess_write _ _ _ hdone hwrite⟩
  case period =>
    intro sl set v hset hok
    rw [exec_wodPeriodWrite, ← hu, State.writePeriod_of_ok hset hok]
  case periodBad =>
    intro sl set v hset hbad
    rw [exec_wodPeriodWrite, ← hu, State.writePeriod_of_bad hset hbad]
  case periodArmed =>
    intro sl set v hnot
    rw [exec_wodPeriodWrite, ← hu, State.writePeriod_of_armed hnot]
  case sets =>
    intro sl v hset
    rw [exec_wodSliceTsWrite, ← hu, State.writeSliceTs_of_settable hset]
  case chan =>
    intro ch v hset
    rw [exec_wodChCfgWrite, ← hu, State.writeChCfg_of_settable hset]
  case chanArmed =>
    intro ch v hnot
    rw [exec_wodChCfgWrite, ← hu, State.writeChCfg_of_armed hnot]
  case driven =>
    intro ch d hfirst hreached hfree hchange hspaced
    exact ⟨_, exec_driveEvent_of_due hu hfirst hreached hfree, State.chan_driveNow_of_spaced hchange hspaced⟩
  case dropped =>
    intro ch d hfirst hreached hfree hchange hclose
    have hexec := exec_driveEvent_of_due hu hfirst hreached hfree
    rw [State.driveNow_of_close hchange hclose] at hexec
    obtain ⟨hflag, htile⟩ := State.flags_dropEdge (u.setChan ch.val { u.chan ch.val with drive := (u.chan ch.val).drive.erase d }) ch.val
    exact ⟨_, hexec, hflag, htile, by rw [State.chan_dropEdge, State.setChan_self]⟩
  case setChange =>
    intro x i is r rest hlive himm hat hreached hdue hentry hhold hstop hjumps
    exact exec_timingSetRelease_of_due hu hlive himm hat hreached hdue hentry hhold hstop hjumps

end Sys2Proof.Machine
end

section
/-! The step words that play, jump, use units and services, and the statement about them (R123, R157–R167, R177, R195, R199). -/

namespace Sys2Proof.Machine

/-! ### Which meaning the dispatch calls -/

/-- A command whose meaning is an instruction has that instruction's effect where its word runs (R154, R169). -/
theorem exec_of_runs {c : Instr} {e x op w : Nat} {s u : State} (f : State → Nat → State)
    (hc : exec c s = .next ((s.elapse e).instr x op (f (s.elapse e)))) (hu : u = s.elapse e) (hruns : u.runsWord x op w = true) :
    exec c s = .next (f u w) := by
  rw [hc, ← hu, State.instr_runs hruns]

section
variable {e w : Nat} {x : Site} {s u : State} (hu : u = s.elapse e)
include hu

theorem exec_play_of_runs (hruns : u.runsWord x.val 0x01 w = true) : exec (.play e x) s = .next (u.doPlay x.val w) :=
  exec_of_runs (fun v => v.doPlay x.val) rfl hu hruns

theorem exec_jseg_of_runs (hruns : u.runsWord x.val 0x02 w = true) : exec (.jseg e x) s = .next (u.doJseg x.val w) :=
  exec_of_runs (fun v => v.doJseg x.val) rfl hu hruns

theorem exec_tset_of_runs (hruns : u.runsWord x.val 0x03 w = true) : exec (.tset e x) s = .next (u.doTset x.val w) :=
  exec_of_runs (fun v => v.doTset x.val) rfl hu hruns

theorem exec_acq_of_runs (hruns : u.runsWord x.val 0x04 w = true) : exec (.acq e x) s = .next (u.doAcq x.val w) :=
  exec_of_runs (fun v => v.doAcq x.val) rfl hu hruns

theorem exec_meas_of_runs (hruns : u.runsWord x.val 0x05 w = true) : exec (.meas e x) s = .next (u.doMeas x.val w) :=
  exec_of_runs (fun v => v.doMeas x.val) rfl hu hruns

theorem exec_mget_of_runs (hruns : u.runsWord x.val 0x06 w = true) : exec (.mget e x) s = .next (u.doMget x.val w) :=
  exec_of_runs (fun v => v.doMget x.val) rfl hu hruns

theorem exec_dlog_of_runs (hruns : u.runsWord x.val 0x41 w = true) : exec (.dlog e x) s = .next (u.doDlog x.val w) :=
  exec_of_runs (fun v => v.doDlog x.val) rfl hu hruns

theorem exec_bustx_of_runs (hruns : u.runsWord x.val 0x42 w = true) : exec (.bustx e x) s = .next (u.doBustx x.val w) :=
  exec_of_runs (fun v => v.doBustx x.val) rfl hu hruns

theorem exec_req_of_runs (hruns : u.runsWord x.val 0x43 w = true) : exec (.req e x) s = .next (u.doReq x.val w) :=
  exec_of_runs (fun v => v.doReq x.val) rfl hu hruns

end

/-! ### The next instruction (R155) -/

@[simp] theorem State.stepPc_advance (s : State) (x : Nat) : (s.advance x).stepPc x = (s.stepPc x + 1) % 2 ^ 20 :=
  (State.get_set_fld _ _ _ _ _ _ (by decide)).trans (State.get_set_self s ..)

/-! ### PLAY (R161, R162) -/

/-- Do four entries wait in a slice of a site, here or, where it plays on other devices alone, there (R161). -/
def State.entriesFull (s : State) (x : Nat) : Bool := (s.slicesOf x).any (fun i => s.sliceFull i) || (s.allFar x && s.farFull x)

theorem State.entriesFull_iff (s : State) (x : Nat) : s.entriesFull x = true ↔
    (∃ i ∈ s.slicesOf x, s.sliceFull i = true) ∨ (s.allFar x = true ∧ s.farFull x = true) := by
  simp [State.entriesFull]

theorem State.entriesFull_eq_false_of {s : State} {x : Nat} (hhere : ∀ i ∈ s.slicesOf x, s.sliceFull i = false)
    (hfar : s.allFar x = true → s.farFull x = false) : s.entriesFull x = false := by
  rw [Bool.eq_false_iff, ne_eq, State.entriesFull_iff]
  rintro (⟨i, hi, hfull⟩ | ⟨hall, hfull⟩)
  · exact absurd (hhere i hi) (by simp [hfull])
  · exact absurd (hfar hall) (by simp [hfull])

/-- The entry of a PLAY word is sent, with the trim window shut and the instant that AT asks for kept. -/
def State.playSent (s : State) (x w : Nat) : State :=
  ((((s.drewFar x).drewFar x).shutTrim x).setCtx x
    { s.ctx x with playAt := if flagOf w 0 then some (s.gr x 15) else none }).sendEntry x (bitsOf w 0 24) (bitsOf w 24 24)

section
variable {s : State} {x w : Nat} (hseg : bitsOf w 0 24 ≠ 0xFFFFFF) (hcount : bitsOf w 24 24 ≠ 0)
include hseg hcount

/-- A PLAY that finds room sends its entry; in RUNNING it may form a start instant for slices that have ended play. -/
theorem State.doPlay_of_room (hroom : s.entriesFull x = false) : s.doPlay x w = (s.playSent x w).advance x ∨
    s.siteState x = 3 ∧ ∃ earliest at_, s.doPlay x w = ((s.playSent x w).formRestart x earliest at_).advance x := by
  unfold State.entriesFull at hroom
  unfold State.doPlay
  extract_lets seg c closes earliest at_ ended s1 s2 s3
  rw [if_neg (by simp [seg, c, hseg, hcount]), hroom, if_neg Bool.false_ne_true]
  by_cases hstart : (decide (s.siteState x = 3) && ended && (s.site x).start.isNone) = true
  · have hrunning : s.siteState x = 3 := by
      simp only [Bool.and_eq_true, decide_eq_true_eq] at hstart
      obtain ⟨⟨hrunning, -⟩, -⟩ := hstart
      exact hrunning
    exact .inr ⟨hrunning, earliest, at_, congrArg (State.advance · x) (if_pos hstart)⟩
  · exact .inl (congrArg (State.advance · x) (if_neg hstart))

/-- A PLAY that finds no room waits at its boundary with STATE 3. -/
theorem State.doPlay_of_full (hfull : s.entriesFull x = true) :
    s.doPlay x w = (s.drewFar x).set F.MDR_STEP_STAT.STATE x 3 := by
  unfold State.entriesFull at hfull
  simp [State.doPlay, hseg, hcount, hfull]

end

@[simp] theorem State.stepPc_playSent (s : State) (x w : Nat) : (s.playSent x w).stepPc x = s.stepPc x := by
  refine Keeps.get (State.sendEntry_keeps _ _ _ (Within.ne (by decide)) ?_)
  refine Keeps.trans ?_ (State.setCtx_keeps _ _ (Keeps.refl _ _))
  exact State.shutTrim_keeps _ (Within.ne (by decide)) (State.drewFar_keeps _ (State.drewFar_keeps _ (Keeps.refl _ s)))

@[simp] theorem State.stepPc_formRestart (s : State) (x earliest : Nat) (at_ : Option Nat) :
    (s.formRestart x earliest at_).stepPc x = s.stepPc x :=
  Keeps.get (State.formRestart_keeps _ _ _ (Within.ne (by decide)) (Keeps.refl _ s))

/-! ### JSEG (R164) -/

/-- A JSEG requests its jump where the site plays, and sets JUMP_IDLE where it does not. -/
theorem State.doJseg_of_segment {s : State} {x w : Nat} (hseg : bitsOf w 0 24 ≠ 0xFFFFFF) : s.doJseg x w =
    (if (if s.allFar x then !s.farEnded x else ((s.shutTrim x).slicesOf x).any (fun i =>
        (s.shutTrim x).get F.SLP_STAT.STATE i == 2 || (s.shutTrim x).get F.SLP_STAT.STATE i == 3)) then
      ((s.shutTrim x).drewFar x).addJump x 1 (wrap64 (s.now + s.lead x)) (bitsOf w 0 24)
      else ((s.shutTrim x).drewFar x).set F.MDR_STEP_STAT.JUMP_IDLE x 1).advance x := by
  rw [State.doJseg, if_neg hseg]

/-! ### TSET (R123) -/

/-- An immediate TSET of a site with a lead slice tells its proxies and waits for its release DT. -/
theorem State.doTset_of_immediate {s : State} {x w i : Nat} (hlead : s.leadSlice x = some i) (himm : flagOf w 0 = false) :
    s.doTset x w = (((s.sendToken x 10 (wrap64 (s.now + s.lead x)) [bitsOf w 0 6, bitsOf w 8 6, 0, s.setPeriodOf i (bitsOf w 0 6)]).setSite x
      { (s.sendToken x 10 (wrap64 (s.now + s.lead x)) [bitsOf w 0 6, bitsOf w 8 6, 0, s.setPeriodOf i (bitsOf w 0 6)]).site x with
        tsImm := (s.site x).tsImm ++
          [{ prim := bitsOf w 0 6, alt := bitsOf w 8 6, release := wrap64 (s.now + s.lead x) }] }).advance x) := by
  simp only [State.doTset, hlead, himm, Bool.false_eq_true, if_false]
  rfl

section
variable {s : State} {x w : Nat}

/-! ### ACQ (R177) -/

theorem State.doAcq_of_own (hown : s.chanSite (bitsOf w 0 10) = some x) : s.doAcq x w =
    (if flagOf w 0 then s.disarmAtDT (bitsOf w 0 10) (wrap64 (s.now + s.img.leadCore)) false
      else s.armUnit (bitsOf w 0 10) (wrap64 (s.now + s.img.leadCore)) false false).advance x := by
  simp [State.doAcq, hown]

/-! ### MEAS and MGET (R195, R199) -/

/-- A MEAS that does not wait starts its unit and goes on. -/
theorem State.doMeas_of_passing (hown : s.chanSite (bitsOf w 0 10) = some x) (hfirst : s.waiting x 0x05 = none)
    (hgo : flagOf w 0 = false) (htime : bitsOf w 16 32 = 0) :
    s.doMeas x w = (s.startMeas (bitsOf w 0 10) s.now false).advance x := by
  simp [State.doMeas, hown, hfirst, hgo, htime]

/-- A MEAS that waits begins its wait where its unit starts. -/
theorem State.doMeas_of_started (hown : s.chanSite (bitsOf w 0 10) = some x) (hfirst : s.waiting x 0x05 = none)
    (hwaits : flagOf w 0 = true) (hstarts : s.measReason (bitsOf w 0 10) false = 0) : s.doMeas x w =
      (s.startMeas (bitsOf w 0 10) s.now false).beginWait x 0x05 (us (bitsOf w 16 32)) (bitsOf w 0 10) := by
  simp [State.doMeas, hown, hfirst, hwaits, hstarts]

/-- A MEAS that has waited ends once its unit is DONE. -/
theorem State.doMeas_of_done {v : WaitSt} (hown : s.chanSite (bitsOf w 0 10) = some x) (hsome : s.waiting x 0x05 = some v)
    (hwaits : flagOf w 0 = true) (hdone : s.get F.TIA_CH_STAT.STATE (bitsOf w 0 10) = 3) : s.doMeas x w = s.endWait x := by
  simp [State.doMeas, hown, hsome, hwaits, hdone]

/-- An MGET of a statistic that holds clears T. -/
theorem State.doMget_of_valid (hown : s.chanSite (bitsOf w 0 10) = some x) (hsome : s.get F.TIA_CH_COUNT.SAMPLES (bitsOf w 0 10) ≠ 0)
    (hovf : s.flag F.TIA_CH_STAT.OVF (bitsOf w 0 10) = false) (hstale : s.flag F.TIA_CH_STAT.STALE (bitsOf w 0 10) = false) :
    s.doMget x w =
      ((s.drew.setGr x (bitsOf w 12 4) (s.mgetValue (bitsOf w 0 10) (bitsOf w 10 2))).setT x false).advance x := by
  simp [State.doMget, hown, beq_eq_false_iff_ne.2 hsome, hovf, hstale]

/-! ### DLOG and REQ (R167, R273, R274) -/

/-- A DLOG of no registers adds its item where Saffron takes it. -/
theorem State.doDlog_of_taken {i : WorkItem} (hnone : bitsOf w 12 2 = 0) (hfirst : bitsOf w 8 4 = 0)
    (hi : i = { dt := s.now, g0 := 0, g1 := 0, arg := bitsOf w 16 32, flow := bitsOf w 0 8, site := x, src := 4 })
    (htaken : s.safRefuses (flowOf i) = none) : s.doDlog x w = (s.safAdd i).advance x := by
  subst hi
  simp [State.doDlog, hnone, hfirst, htaken]

/-- A REQ that waits for no result adds its item where Saffron takes it. -/
theorem State.doReq_of_taken {i : WorkItem} (hfresh : (s.ctx x).svcItem = none) (hlow : 8 ≤ bitsOf w 0 10) (hhigh : bitsOf w 0 10 ≤ 71)
    (hconn : s.hasConn x (bitsOf w 0 10 - 8) = true) (hgo : flagOf w 0 = false)
    (hi : i = { dt := s.now, g0 := s.gr x 0, g1 := s.gr x 1, arg := bitsOf w 16 32, flow := bitsOf w 0 10, site := x, src := 0 })
    (htaken : s.safRefuses (flowOf i) = none) : s.doReq x w = (s.safAdd i).advance x := by
  subst hi
  simp [State.doReq, hfresh, hlow, hhigh, hconn, hgo, htaken]

/-- A REQ that waits for the result of a connection that the site does not have ends with status 3 (R274). -/
theorem State.doReq_of_noConn (hfresh : (s.ctx x).svcItem = none) (hnone : s.hasConn x (bitsOf w 0 10 - 8) = false)
    (hwaits : flagOf w 0 = true) : s.doReq x w = (s.set F.MDR_STEP_SVC_RES.RESULT x (resultWord 3 0 0)).endWait x := by
  simp [State.doReq, hfresh, hnone, hwaits]

/-! ### BUSTX (R167, R258) -/

/-- A descriptor in memory goes to an engine of the site that has room. -/
theorem State.doBustx_of_room (haligned : imm40 w % 32 = 0) (hproto : s.proto (bitsOf w 0 6) ≠ 0)
    (hown : s.get F.BUS_CFG.SITE (bitsOf w 0 6) = x) (hroom : s.txFull (bitsOf w 0 6) = false) (hkeep : flagOf w 0 = false)
    (hread : s.readable (flagOf w 1) (imm40 w) 32 = true) : s.doBustx x w =
      (s.postRaw (bitsOf w 0 6) (imm40 w) (flagOf w 1) (s.bytesAt (flagOf w 1) (imm40 w) 32)).advance x := by
  simp [State.doBustx, haligned, hproto, hown, hroom, hkeep, hread]

theorem State.doBustx_of_full (haligned : imm40 w % 32 = 0) (hproto : s.proto (bitsOf w 0 6) ≠ 0)
    (hown : s.get F.BUS_CFG.SITE (bitsOf w 0 6) = x) (hfull : s.txFull (bitsOf w 0 6) = true) (hfirst : s.waiting x 0x42 = none) :
    s.doBustx x w = s.beginWait x 0x42 0 0 := by
  simp [State.doBustx, haligned, hproto, hown, hfull, hfirst]

end

/-- Settles O10: a word that its context runs has the effect of its opcode at the boundary. -/
theorem stepUnitsComplete : Obligations.StepUnitsComplete := by
  intro e s u hu
  refine ⟨?playSends, ?playWaits, ?playAdvances, ?jseg, ?tset, ?acq, ?measPasses, ?measStarts, ?measDone, ?mget, ?dlog, ?req, ?reqNoConn,
    ?bustx, ?bustxFull⟩
  case playSends =>
    intro x w hruns hseg hcount hhere hfar hnot
    rw [exec_play_of_runs hu hruns]
    obtain hsent | ⟨hrunning, -⟩ := State.doPlay_of_room hseg hcount (State.entriesFull_eq_false_of hhere hfar)
    · rw [hsent]
      rfl
    · exact absurd hrunning hnot
  case playWaits =>
    intro x w hruns hseg hcount hfull
    rw [exec_play_of_runs hu hruns, State.doPlay_of_full hseg hcount ((State.entriesFull_iff ..).2 hfull)]
  case playAdvances =>
    intro x w hruns hseg hcount hhere hfar
    refine ⟨_, exec_play_of_runs hu hruns, ?_⟩
    obtain hsent | ⟨-, _, _, hsent⟩ := State.doPlay_of_room hseg hcount (State.entriesFull_eq_false_of hhere hfar)
    · rw [hsent, State.stepPc_advance, State.stepPc_playSent]
    · rw [hsent, State.stepPc_advance, State.stepPc_formRestart, State.stepPc_playSent]
  case jseg =>
    intro x w hruns hseg
    rw [exec_jseg_of_runs hu hruns, State.doJseg_of_segment hseg]
  case tset =>
    intro x w i hruns hlead himm
    rw [exec_tset_of_runs hu hruns, State.doTset_of_immediate hlead himm]
  case acq =>
    intro x w hruns hown
    rw [exec_acq_of_runs hu hruns, State.doAcq_of_own hown]
  case measPasses =>
    intro x w hruns hown hfirst hgo htime
    rw [exec_meas_of_runs hu hruns, State.doMeas_of_passing hown hfirst hgo htime]
  case measStarts =>
    intro x w hruns hown hfirst hwaits hstarts
    rw [exec_meas_of_runs hu hruns, State.doMeas_of_started hown hfirst hwaits hstarts]
  case measDone =>
    intro x w v hruns hown hsome hwaits hdone
    rw [exec_meas_of_runs hu hruns, State.doMeas_of_done hown hsome hwaits hdone]
  case mget =>
    intro x w hruns hown hsome hovf hstale
    rw [exec_mget_of_runs hu hruns, State.doMget_of_valid hown hsome hovf hstale]
  case dlog =>
    intro x w hruns hnone hfirst htaken
    rw [exec_dlog_of_runs hu hruns, State.doDlog_of_taken hnone hfirst rfl htaken]
  case req =>
    intro x w hruns hfresh hlow hhigh hconn hgo htaken
    rw [exec_req_of_runs hu hruns, State.doReq_of_taken hfresh hlow hhigh hconn hgo rfl htaken]
  case reqNoConn =>
    intro x w hruns hfresh hnone hwaits
    rw [exec_req_of_runs hu hruns, State.doReq_of_noConn hfresh hnone hwaits]
  case bustx =>
    intro x w hruns haligned hproto hown hroom hkeep hread
    rw [exec_bustx_of_runs hu hruns, State.doBustx_of_room haligned hproto hown hroom hkeep hread]
  case bustxFull =>
    intro x w hruns haligned hproto hown hfull hfirst
    rw [exec_bustx_of_runs hu hruns, State.doBustx_of_full haligned hproto hown hfull hfirst]

end Sys2Proof.Machine
end

section
/-! Compares, comparator settings, masks, counts, fail records and stops, and the statement about them (R134–R150, R171). -/

namespace Sys2Proof.Machine

/-! ### Which meaning the dispatch calls -/

theorem exec_strobe (e : Nat) (ch : Chan) (inp : SenseIn) (s : State) : exec (.strobe e ch inp) s = execStrobe e ch inp s := rfl

theorem exec_windowEnd (e : Nat) (ch : Chan) (dL dM dH : Nat) (s : State) :
    exec (.windowEnd e ch dL dM dH) s = execWindowEnd e ch dL dM dH s := rfl

theorem exec_comparatorSettingWrite (e : Nat) (ch : Chan) (r : CmpReg) (v : Word32) (s : State) :
    exec (.comparatorSettingWrite e ch r v) s = .next ((s.elapse e).writeCmp ch.val r v.toNat) := rfl

theorem exec_settlingEnd (e : Nat) (ch : Chan) (inp : SenseIn) (s : State) :
    exec (.settlingEnd e ch inp) s = execSettlingEnd e ch inp s := rfl

theorem exec_sepCmpChMaskWrite (e : Nat) (ch : Chan) (v : Word32) (s : State) :
    exec (.sepCmpChMaskWrite e ch v) s = .next ((s.elapse e).writeMask ch.val v.toNat) := rfl

theorem exec_granuleCountsAdd (e : Nat) (sl : SliceNo) (s : State) :
    exec (.granuleCountsAdd e sl) s = execGranuleCountsAdd e sl s := rfl

theorem exec_failRecordArrival (e : Nat) (sl : SliceNo) (tag : Site) (s : State) :
    exec (.failRecordArrival e sl tag) s = execFailRecordArrival e sl tag s := rfl

theorem exec_captureRingRdWrite (e : Nat) (x : Site) (v : Word32) (s : State) :
    exec (.captureRingRdWrite e x v) s = .next ((s.elapse e).writeCapRd x.val v.toNat) := rfl

theorem exec_stopDecision (e : Nat) (x : Site) (s : State) : exec (.stopDecision e x) s = execStopDecision e x s := rfl

theorem exec_stopRelease (e : Nat) (x : Site) (s : State) : exec (.stopRelease e x) s = execStopRelease e x s := rfl

/-! ### Verdicts of strobes and windows (R138) -/

/-- A state that lasted below 10 ps or at least 30 ps in a window is seen or not whatever the free value is. -/
theorem seen_of_decided {d : Nat} (h : d < 80 ∨ 240 ≤ d) (r : Nat) : seen d r = ofBool (decide (240 ≤ d)) := by
  obtain hshort | hlong := h
  · simp [seen, ofBool, hshort, show ¬ 240 ≤ d by omega]
  · simp [seen, ofBool, hlong]

section
variable {e : Nat} {ch : Chan} {a : CmpAct} {s u : State} (hu : u = s.elapse e) (hfirst : firstCmp (u.chan ch.val).cmps = some a)
  (hdue : u.actionDue ch.val a = true)
include hu hfirst hdue

theorem exec_strobe_of_due (hkind : a.kind = 1) (inp : SenseIn) : exec (.strobe e ch inp) s =
    .next ((u.seeLive ch.val (u.sense ch.val inp)).verdict ch.val a (strobePasses a.expect (u.sense ch.val inp))
      (1 <<< (u.sense ch.val inp).code)) := by
  subst hu
  simp [exec_strobe, execStrobe, hfirst, hkind, hdue]

/-- Where each of L, M and H is decided, the free values drawn do not show in the verdict. -/
theorem exec_windowEnd_of_due (hkind : a.kind = 2) {dL dM dH obs : Nat} (hL : dL < 80 ∨ 240 ≤ dL) (hM : dM < 80 ∨ 240 ≤ dM)
    (hH : dH < 80 ∨ 240 ≤ dH)
    (hobs : obs = ofBool (decide (240 ≤ dL)) + 2 * ofBool (decide (240 ≤ dM)) + 4 * ofBool (decide (240 ≤ dH))) :
    exec (.windowEnd e ch dL dM dH) s = .next (u.drew.drew.drew.verdict ch.val a (windowPasses a.expect obs) obs) := by
  subst hu hobs
  simp [exec_windowEnd, execWindowEnd, hfirst, hkind, hdue, seen_of_decided hL, seen_of_decided hM, seen_of_decided hH]

end

/-! ### Comparator settings (R137, R250) -/

/-- A channel whose comparator settles until DT d: its live state is not valid. -/
def State.settleUntil (s : State) (c d : Nat) : State :=
  (s.set F.SEP_CMP_CH_LIVE.VALID c 0).setChan c { s.chan c with settle := some d }

@[simp] theorem State.valid_settleUntil (s : State) (c d : Nat) : (s.settleUntil c d).get F.SEP_CMP_CH_LIVE.VALID c = 0 :=
  State.get_set_self ..

@[simp] theorem State.settle_settleUntil (s : State) (c d : Nat) : ((s.settleUntil c d).chan c).settle = some d := by
  rw [State.settleUntil, State.setChan_self]

section
variable {s : State} {c v : Nat} {r : CmpReg}

theorem State.writeCmp_of_taken (hset : s.chanSettable c = true) (hok : cmpValueOk r v = true) (hfree : s.busHolds c = false) :
    s.writeCmp c r v = (s.putCmp c r v).settleUntil c (wrap64 (s.now + us 2)) := by
  simp only [State.writeCmp, hset, hok, hfree, Bool.and_false, Bool.not_false, Bool.and_self, if_true]
  rfl

theorem State.writeCmp_of_refused (hnot : s.chanSettable c = false ∨ cmpValueOk r v = false) :
    s.writeCmp c r v = s.set F.SEP_CMP_CH_STAT.WR_REJ c 1 := by
  obtain hnot | hnot := hnot <;> simp [State.writeCmp, hnot]

end

/-! ### The end of settling (R137) -/

/-- The code of a comparator state fits SEP_CMP_CH_LIVE.STATE. -/
theorem CmpState.code_lt (st : CmpState) : st.code < 4 := by cases st <;> decide

/-- A channel whose comparator no longer settles shows the state of its input. -/
def State.settleDone (s : State) (c : Nat) (inp : SenseIn) : State :=
  (s.setChan c { s.chan c with settle := none }).seeLive c (s.sense c inp)

@[simp] theorem State.state_settleDone (s : State) (c : Nat) (inp : SenseIn) :
    (s.settleDone c inp).get F.SEP_CMP_CH_LIVE.STATE c = (s.sense c inp).code :=
  (State.get_set_self ..).trans (Nat.mod_eq_of_lt (CmpState.code_lt _))

@[simp] theorem State.chanOn_settleDone (s : State) (c : Nat) (inp : SenseIn) (d : Nat) :
    (s.settleDone c inp).chanOn d = s.chanOn d := by
  have hkeeps : Keeps (fun k => k != Reg.PWR_GROUP_STATE.ctorIdx) s (s.settleDone c inp) :=
    State.seeLive_keeps _ _ (Within.ne (by decide)) (State.setChan_keeps _ _ (Keeps.refl _ s))
  rw [State.chanOn, hkeeps.group, State.chanOn]

@[simp] theorem State.held_settleDone (s : State) (c : Nat) (inp : SenseIn) (d : Nat) :
    (s.settleDone c inp).flag F.MRD_CH_QF.HELD d = s.flag F.MRD_CH_QF.HELD d := by
  rw [State.flag, State.flag, State.settleDone, State.seeLive, State.get_set_fld _ _ _ _ _ _ (by decide), State.setChan_get]

/-- The end of settling makes the live state valid where the channel is ON and not held; that its site's ready DT may follow changes
no register of the comparator. -/
theorem exec_settlingEnd_of_usable {e d : Nat} {ch : Chan} {s u : State} (hu : u = s.elapse e)
    (hsettle : (u.chan ch.val).settle = some d) (hreached : u.reached d = true) (hon : u.chanOn ch.val = true)
    (hfree : u.flag F.MRD_CH_QF.HELD ch.val = false) (inp : SenseIn) :
    ∃ t, exec (.settlingEnd e ch inp) s = .next t ∧ Keeps (fun k => k != Reg.SEP_CMP_CH_LIVE.ctorIdx)
      ((u.settleDone ch.val inp).set F.SEP_CMP_CH_LIVE.VALID ch.val 1) t := by
  subst hu
  have hvalid : ((s.elapse e).settleDone ch.val inp).chanOn ch.val &&
      !((s.elapse e).settleDone ch.val inp).flag F.MRD_CH_QF.HELD ch.val := by
    simp [hon, hfree]
  rw [exec_settlingEnd, execSettlingEnd]
  simp -zeta only [hsettle, hreached, if_true]
  extract_lets v s1 s2
  have hs2 : s2 = ((s.elapse e).settleDone ch.val inp).set F.SEP_CMP_CH_LIVE.VALID ch.val 1 := if_pos hvalid
  rw [hs2]
  split
  · split
    · exact ⟨_, rfl, State.formReady_keeps _ (Within.ne (by decide)) (State.setSite_keeps _ _ (Keeps.refl _ _))⟩
    · exact ⟨_, rfl, Keeps.refl _ _⟩
  · exact ⟨_, rfl, Keeps.refl _ _⟩

/-! ### Compare masks (R141) -/

/-- A compare mask is recorded at once, whether or not it waits for a granule boundary. -/
theorem State.mask_writeMask (s : State) (c v : Nat) : (s.writeMask c v).get F.SEP_CMP_CH_MASK.MASK c = v % 2 := by
  unfold State.writeMask
  extract_lets m s1 playing
  have hmask : s1.get F.SEP_CMP_CH_MASK.MASK c = v % 2 := by
    rw [State.get_set_self]
    simp [m, bitsOf]
  cases playing <;> exact (State.get_set_fld _ _ _ _ _ _ (by decide)).trans hmask

/-! ### Counts (R143) -/

theorem exec_granuleCountsAdd_of_due {e : Nat} {sl : SliceNo} {s u : State} (hu : u = s.elapse e) (hvalid : u.sliceValid sl.val = true)
    (hlive : (u.slice sl.val).live = true) (hat : (u.slice sl.val).atGran = true) (hreached : u.reached (u.slice sl.val).nextB = true) :
    exec (.granuleCountsAdd e sl) s = .next (u.addCounts sl.val) := by
  subst hu
  simp [exec_granuleCountsAdd, execGranuleCountsAdd, hvalid, hlive, hat, hreached]

/-! ### Fail records and the capture ring (R16, R149, R150) -/

/-- Slice i with r as its staged fail records. -/
def State.unstage (s : State) (i : Nat) (r : List (Nat × List Byte)) : State :=
  (s.setSlice i { s.slice i with staged := r }).set F.SEP_CAP_STAGE.LEVEL i r.length

@[simp] theorem State.proxy_unstage (s : State) (i : Nat) (r : List (Nat × List Byte)) (x : Nat) :
    (s.unstage i r).proxy x = s.proxy x := by
  rw [State.proxy, State.proxy, State.flag, State.flag, State.unstage, State.get_set_fld _ _ _ _ _ _ (by decide), State.setSlice_get]

section
variable {e x : Nat} {sl : SliceNo} {tag : Site} {b : List Byte} {r : List (Nat × List Byte)} {s u : State} (hu : u = s.elapse e)
  (hstaged : (u.slice sl.val).staged = (x, b) :: r)
include hu hstaged

theorem exec_failRecordArrival_of_home (htag : tag.val = x) (hhome : u.proxy x = false) :
    exec (.failRecordArrival e sl tag) s = .next ((u.unstage sl.val r).capRecord x b) := by
  have hkept : (u.unstage sl.val r).proxy x = false := by rw [State.proxy_unstage, hhome]
  subst hu htag
  rw [exec_failRecordArrival]
  simp only [execFailRecordArrival, hstaged]
  rw [if_neg (by simp)]
  exact if_neg (Bool.eq_false_iff.1 hkept)

theorem exec_failRecordArrival_of_mismatch (htag : tag.val ≠ x) :
    exec (.failRecordArrival e sl tag) s = .next ((u.unstage sl.val r).faultSite 15 F.SEP_CAP_FAULT_STAT.TAG_MISMATCH 0 x 5) := by
  subst hu
  rw [exec_failRecordArrival]
  simp only [execFailRecordArrival, hstaged]
  exact if_pos (bne_iff_ne.2 htag)

end

theorem State.writeCapRd_of_ok {s : State} {x v : Nat}
    (hok : rdOk (s.get F.SEP_CAP_RING_RD.POS x) (s.get F.SEP_CAP_RING_WR.POS x) v = true) :
    s.writeCapRd x v = s.set F.SEP_CAP_RING_RD.POS x v := if_pos hok

/-! ### Stops (R145, R146, R171) -/

/-- Site x with its stop decided for a fail detected at DT d (R145). -/
def State.decideStop (s : State) (x d : Nat) : State :=
  let kind := s.get F.SEP_CAP_POLICY.STOP x
  let stop : StopDec := ⟨kind, d, wrap64 (d + s.stopLead x kind)⟩
  (s.setSite x { s.site x with failDet := none, stopped := true, ctxStop := s.siteState x != 5, stop := some stop }).tellStop x

theorem exec_stopDecision_of_due {e d : Nat} {x : Site} {s u : State} (hu : u = s.elapse e) (hfail : (u.site x.val).failDet = some d)
    (hreached : u.reached d = true) (hnone : (u.site x.val).stop = none)
    (hplays : u.siteState x.val = 3 ∨ u.siteState x.val = 4 ∨ u.siteState x.val = 5) :
    exec (.stopDecision e x) s = .next (u.decideStop x.val d) := by
  subst hu
  have hstate : ((s.elapse e).siteState x.val == 3 || (s.elapse e).siteState x.val == 4 || (s.elapse e).siteState x.val == 5) = true := by
    simpa [or_assoc] using hplays
  simp only [exec_stopDecision, execStopDecision, hfail, hreached, hnone, hstate, Option.isNone_none, Bool.and_self, if_true]
  rfl

section
variable {e : Nat} {x : Site} {d : StopDec} {s u : State} (hu : u = s.elapse e) (hstop : (u.site x.val).stop = some d)
include hu hstop

theorem exec_stopRelease_of_boundary {i : Nat} {is : List Nat} (hlive : (u.slicesOf x.val).filter (fun i => (u.slice i).live) = i :: is)
    (hat : u.atBoundary x.val (u.slice i).nextB = true) (hreached : u.reached (u.slice i).nextB = true)
    (hdue : dtReached (u.slice i).nextB d.earliest = true) :
    exec (.stopRelease e x) s = .next (u.stopPlay x.val d (u.slice i).nextB) := by
  subst hu
  simp only [exec_stopRelease, execStopRelease, hstop, hlive, hat, hreached, hdue, Bool.and_self, if_true]

/-- Where nothing plays and no slice holds, the boundary of a stop is its earliest DT. -/
theorem exec_stopRelease_of_idle (hnone : (u.slicesOf x.val).filter (fun i => (u.slice i).live) = [])
    (hreached : u.reached d.earliest = true) (hidle : ∀ i ∈ u.slicesOf x.val, u.get F.SLP_STAT.STATE i ≠ 3) :
    exec (.stopRelease e x) s = .next (u.stopPlay x.val d d.earliest) := by
  have hholds : (u.slicesOf x.val).any (fun i => u.get F.SLP_STAT.STATE i == 3) = false := by simpa using hidle
  subst hu
  simp [exec_stopRelease, execStopRelease, hstop, hnone, hreached, hholds]

end

/-- Settles O8: each command ends one action, writes or settles one comparator setting, or counts, records, decides or ends play as the
state after its ticks asks for. -/
theorem compareComplete : Obligations.CompareComplete := by
  intro e s u hu
  refine ⟨?strobe, ?window, ?setting, ?settingRefused, ?settled, ?mask, ?counts, ?record, ?mismatch, ?ring, ?decision, ?stopped,
    ?stoppedIdle⟩
  case strobe =>
    intro ch inp st a hfirst hkind hdue hst
    rw [hst]
    exact exec_strobe_of_due hu hfirst hdue hkind inp
  case window =>
    intro ch dL dM dH a hfirst hkind hdue hL hM hH
    exact exec_windowEnd_of_due hu hfirst hdue hkind hL hM hH rfl
  case setting =>
    intro ch r v hset hok hfree
    refine ⟨_, exec_comparatorSettingWrite .., ?_⟩
    rw [← hu, State.writeCmp_of_taken hset hok hfree]
    exact ⟨State.valid_settleUntil .., State.settle_settleUntil ..⟩
  case settingRefused =>
    intro ch r v hnot
    rw [exec_comparatorSettingWrite, ← hu, State.writeCmp_of_refused hnot]
  case settled =>
    intro ch inp d hsettle hreached hon hfree
    obtain ⟨t, hexec, hkeeps⟩ := exec_settlingEnd_of_usable hu hsettle hreached hon hfree inp
    refine ⟨t, hexec, ?_, (Keeps.get (f := F.SEP_CMP_CH_LIVE.VALID) hkeeps).trans (State.get_set_self ..)⟩
    rw [Keeps.get (f := F.SEP_CMP_CH_LIVE.STATE) hkeeps, State.get_set_fld _ _ _ _ _ _ (by decide), State.state_settleDone]
  case mask =>
    intro ch v
    exact ⟨_, exec_sepCmpChMaskWrite .., State.mask_writeMask ..⟩
  case counts =>
    intro sl hvalid hlive hat hreached
    exact exec_granuleCountsAdd_of_due hu hvalid hlive hat hreached
  case record =>
    intro sl tag x b r hstaged htag hhome
    exact exec_failRecordArrival_of_home hu hstaged htag hhome
  case mismatch =>
    intro sl tag x b r hstaged htag
    exact exec_failRecordArrival_of_mismatch hu hstaged htag
  case ring =>
    intro x v hok
    rw [exec_captureRingRdWrite, ← hu, State.writeCapRd_of_ok hok]
  case decision =>
    intro x d hfail hreached hnone hplays
    exact exec_stopDecision_of_due hu hfail hreached hnone hplays
  case stopped =>
    intro x d i is hstop hlive hat hreached hdue
    exact exec_stopRelease_of_boundary hu hstop hlive hat hreached hdue
  case stoppedIdle =>
    intro x d hstop hnone hreached hidle
    exact exec_stopRelease_of_idle hu hstop hnone hreached hidle

end Sys2Proof.Machine
end

section
/-! The step words of registers, flags and branches, and the statements about them (R155–R158, R168). -/

namespace Sys2Proof.Machine

/-! ### Which meaning the dispatch calls -/

section
variable {e w : Nat} {x : Site} {s u : State} (hu : u = s.elapse e)
include hu

theorem exec_nop_of_runs (hruns : u.runsWord x.val 0x00 w = true) : exec (.nop e x) s = .next (u.advance x.val) :=
  exec_of_runs (fun v _ => v.advance x.val) rfl hu hruns

theorem exec_jmp_of_runs (hruns : u.runsWord x.val 0x20 w = true) : exec (.jmp e x) s = .next (u.branch x.val (bitsOf w 0 20)) :=
  exec_of_runs (fun v w => v.branch x.val (bitsOf w 0 20)) rfl hu hruns

theorem exec_call_of_runs (hruns : u.runsWord x.val 0x21 w = true) : exec (.call e x) s = .next (u.doCall x.val w) :=
  exec_of_runs (fun v => v.doCall x.val) rfl hu hruns

theorem exec_ret_of_runs (hruns : u.runsWord x.val 0x22 w = true) : exec (.ret e x) s = .next (u.doRet x.val w) :=
  exec_of_runs (fun v => v.doRet x.val) rfl hu hruns

theorem exec_dbnz_of_runs (hruns : u.runsWord x.val 0x23 w = true) : exec (.dbnz e x) s = .next (u.doDbnz x.val w) :=
  exec_of_runs (fun v => v.doDbnz x.val) rfl hu hruns

theorem exec_ldi_of_runs (hruns : u.runsWord x.val 0x30 w = true) : exec (.ldi e x) s =
    .next ((u.setGr x.val (regA w) (if flagOf w 1 then imm40 w * 2 ^ 24 else imm40 w)).advance x.val) :=
  exec_of_runs (fun v w => (v.setGr x.val (regA w) (if flagOf w 1 then imm40 w * 2 ^ 24 else imm40 w)).advance x.val) rfl hu hruns

theorem exec_addi_of_runs (hruns : u.runsWord x.val 0x31 w = true) : exec (.addi e x) s =
    .next (u.arith x.val (regA w) (if flagOf w 1 then subG (flagOf w 0) (u.gr x.val (regA w)) (imm40 w)
      else addG (flagOf w 0) (u.gr x.val (regA w)) (imm40 w))) :=
  exec_of_runs (fun v w => v.arith x.val (regA w) (if flagOf w 1 then subG (flagOf w 0) (v.gr x.val (regA w)) (imm40 w)
    else addG (flagOf w 0) (v.gr x.val (regA w)) (imm40 w))) rfl hu hruns

theorem exec_add_of_runs (hruns : u.runsWord x.val 0x32 w = true) : exec (.add e x) s =
    .next (u.arith x.val (regA w) (addG (flagOf w 0) (u.gr x.val (regA w)) (u.gr x.val (regB w)))) :=
  exec_of_runs (fun v w => v.arith x.val (regA w) (addG (flagOf w 0) (v.gr x.val (regA w)) (v.gr x.val (regB w)))) rfl hu hruns

theorem exec_sub_of_runs (hruns : u.runsWord x.val 0x33 w = true) : exec (.sub e x) s =
    .next (u.arith x.val (regA w) (subG (flagOf w 0) (u.gr x.val (regA w)) (u.gr x.val (regB w)))) :=
  exec_of_runs (fun v w => v.arith x.val (regA w) (subG (flagOf w 0) (v.gr x.val (regA w)) (v.gr x.val (regB w)))) rfl hu hruns

theorem exec_mov_of_runs (hruns : u.runsWord x.val 0x34 w = true) : exec (.mov e x) s =
    .next ((u.setGr x.val (regA w) (u.gr x.val (regB w))).advance x.val) :=
  exec_of_runs (fun v w => (v.setGr x.val (regA w) (v.gr x.val (regB w))).advance x.val) rfl hu hruns

theorem exec_get_of_runs (hruns : u.runsWord x.val 0x35 w = true) : exec (.get e x) s = .next (u.doGet x.val w) :=
  exec_of_runs (fun v => v.doGet x.val) rfl hu hruns

theorem exec_cmpi_of_runs (hruns : u.runsWord x.val 0x36 w = true) : exec (.cmpi e x) s =
    .next ((u.setCompare x.val (u.gr x.val (regA w)) (imm40 w)).advance x.val) :=
  exec_of_runs (fun v w => (v.setCompare x.val (v.gr x.val (regA w)) (imm40 w)).advance x.val) rfl hu hruns

theorem exec_cmp_of_runs (hruns : u.runsWord x.val 0x37 w = true) : exec (.cmp e x) s =
    .next ((u.setCompare x.val (u.gr x.val (regA w)) (u.gr x.val (regB w))).advance x.val) :=
  exec_of_runs (fun v w => (v.setCompare x.val (v.gr x.val (regA w)) (v.gr x.val (regB w))).advance x.val) rfl hu hruns

theorem exec_bin_of_runs (hruns : u.runsWord x.val 0x40 w = true) : exec (.bin e x) s =
    .next ((if 1021 ≤ bitsOf w 0 10 then u.set F.MDR_STEP_STAT.BIN_REJ x.val 1 else u.setBin x.val (bitsOf w 0 10)).advance x.val) :=
  exec_of_runs (fun v w =>
    (if 1021 ≤ bitsOf w 0 10 then v.set F.MDR_STEP_STAT.BIN_REJ x.val 1 else v.setBin x.val (bitsOf w 0 10)).advance x.val) rfl hu hruns

theorem exec_stop_of_runs (hruns : u.runsWord x.val 0x7F w = true) :
    exec (.stop e x) s = .next ((u.shutTrim x.val).testDone x.val) :=
  exec_of_runs (fun v _ => (v.shutTrim x.val).testDone x.val) rfl hu hruns

end

/-! ### Operands -/

theorem bitsOf_lt (v lo w : Nat) : bitsOf v lo w < 2 ^ w := Nat.mod_lt _ (Nat.two_pow_pos w)

theorem bitsOf_mod (v lo w : Nat) : bitsOf v lo w % 2 ^ w = bitsOf v lo w := Nat.mod_eq_of_lt (bitsOf_lt v lo w)

/-! ### The next boundary (R155) -/

@[simp] theorem State.stepPc_atPc (s : State) (x pc : Nat) : (s.atPc x pc).stepPc x = pc % 2 ^ 20 :=
  (State.get_set_fld _ _ _ _ _ _ (by decide)).trans (State.get_set_self s ..)

/-- Of the registers, a context that stands at its next boundary has PC and STATE written. -/
theorem State.get_atPc (s : State) (x pc : Nat) (f : Fld) (i : Nat) (hpc : f.id ≠ F.MDR_STEP_PC.PC.id)
    (hstate : f.id ≠ F.MDR_STEP_STAT.STATE.id) : (s.atPc x pc).get f i = s.get f i :=
  (State.get_set_fld _ _ _ _ _ _ hstate).trans (State.get_set_fld s _ _ _ _ _ hpc)

theorem State.get_advance (s : State) (x : Nat) (f : Fld) (i : Nat) (hpc : f.id ≠ F.MDR_STEP_PC.PC.id)
    (hstate : f.id ≠ F.MDR_STEP_STAT.STATE.id) : (s.advance x).get f i = s.get f i :=
  State.get_atPc s x _ f i hpc hstate

theorem State.stepPc_set (s : State) (f : Fld) (i v x : Nat) (hf : F.MDR_STEP_PC.PC.id ≠ f.id) : (s.set f i v).stepPc x = s.stepPc x :=
  State.get_set_fld s f _ i x v hf

/-! ### General registers (R155) -/

@[simp] theorem State.gr_atPc (s : State) (x pc y n : Nat) : (s.atPc x pc).gr y n = s.gr y n :=
  State.get_atPc s x pc _ _ (by decide) (by decide)

@[simp] theorem State.gr_advance (s : State) (x y n : Nat) : (s.advance x).gr y n = s.gr y n := State.gr_atPc s x _ y n

@[simp] theorem State.gr_setGr (s : State) (x n v : Nat) : (s.setGr x n v).gr x n = v % 2 ^ 64 := State.get_set_self s ..

@[simp] theorem State.stepPc_setGr (s : State) (x n v y : Nat) : (s.setGr x n v).stepPc y = s.stepPc y :=
  State.stepPc_set s _ _ v y (by decide)

/-- A register written at its boundary: it holds the value, and the context goes on. -/
theorem State.advance_setGr (s : State) (x n v : Nat) : ((s.setGr x n v).advance x).gr x n = v % 2 ^ 64 ∧
    ((s.setGr x n v).advance x).stepPc x = (s.stepPc x + 1) % 2 ^ 20 := by
  simp

/-! ### Sums and differences (R156) -/

@[simp] theorem State.gr_arith (s : State) (x d : Nat) (r : Nat × Bool) : (s.arith x d r).gr x d = r.1 % 2 ^ 64 := by
  rw [State.arith, State.gr_advance, State.gr_setGr]

@[simp] theorem State.stepPc_arith (s : State) (x d : Nat) (r : Nat × Bool) :
    (s.arith x d r).stepPc x = (s.stepPc x + 1) % 2 ^ 20 := by
  rw [State.arith, State.stepPc_advance, State.stepPc_setGr]
  split
  · rw [State.stepPc_set _ _ _ _ _ (by decide)]
  · rfl

/-- SAT is sticky: a result that did not saturate leaves it as it was. -/
@[simp] theorem State.sat_arith (s : State) (x d : Nat) (r : Nat × Bool) :
    (s.arith x d r).get F.MDR_STEP_STAT.SAT x = if r.2 then 1 else s.get F.MDR_STEP_STAT.SAT x := by
  rw [State.arith, State.get_advance _ _ _ _ (by decide) (by decide), State.setGr, State.get_set_fld _ _ _ _ _ _ (by decide)]
  split
  · exact State.get_set_self ..
  · rfl

/-- A sum or difference at its boundary: it reaches its register, SAT shows a saturated one, and the context goes on. -/
theorem State.arith_effect (s : State) (x d : Nat) (r : Nat × Bool) : (s.arith x d r).gr x d = r.1 % 2 ^ 64 ∧
    (s.arith x d r).stepPc x = (s.stepPc x + 1) % 2 ^ 20 ∧ (r.2 = true → (s.arith x d r).get F.MDR_STEP_STAT.SAT x = 1) :=
  ⟨State.gr_arith .., State.stepPc_arith .., fun hsat => by rw [State.sat_arith, if_pos hsat]⟩

theorem addG_value (wrap : Bool) (a b : Nat) :
    (addG wrap a b).1 % 2 ^ 64 = if wrap then (a + b) % 2 ^ 64 else min (a + b) (2 ^ 64 - 1) := by
  cases wrap
  case true => exact Nat.mod_mod _ _
  case false =>
    rw [addG, if_neg Bool.false_ne_true, if_neg Bool.false_ne_true]
    split <;> dsimp only <;> omega

theorem addG_saturates (wrap : Bool) (a b : Nat) : (addG wrap a b).2 = (!wrap && decide (2 ^ 64 ≤ a + b)) := by
  cases wrap
  case true => rfl
  case false =>
    rw [addG, if_neg Bool.false_ne_true]
    split
    next hover => exact (decide_eq_true hover).symm
    next hfits => exact (decide_eq_false hfits).symm

theorem subG_value (wrap : Bool) {a b : Nat} (ha : a < 2 ^ 64) (hb : b < 2 ^ 64) :
    (subG wrap a b).1 % 2 ^ 64 = if wrap then (a + 2 ^ 64 - b) % 2 ^ 64 else a - b := by
  cases wrap
  case true =>
    rw [subG, if_pos rfl, if_pos rfl, Nat.mod_eq_of_lt hb]
    exact Nat.mod_mod _ _
  case false =>
    rw [subG, if_neg Bool.false_ne_true, if_neg Bool.false_ne_true]
    split <;> dsimp only <;> omega

theorem subG_saturates (wrap : Bool) (a b : Nat) : (subG wrap a b).2 = (!wrap && decide (a < b)) := by
  cases wrap
  case true => rfl
  case false =>
    rw [subG, if_neg Bool.false_ne_true]
    split
    next hunder => exact (decide_eq_true hunder).symm
    next hfits => exact (decide_eq_false hfits).symm

theorem State.arith_addG (s : State) (x d : Nat) (wrap : Bool) (a b : Nat) :
    (s.arith x d (addG wrap a b)).gr x d = (if wrap then (a + b) % 2 ^ 64 else min (a + b) (2 ^ 64 - 1)) ∧
    (s.arith x d (addG wrap a b)).get F.MDR_STEP_STAT.SAT x =
      (if !wrap && decide (2 ^ 64 ≤ a + b) then 1 else s.get F.MDR_STEP_STAT.SAT x) :=
  ⟨by rw [State.gr_arith, addG_value], by rw [State.sat_arith, addG_saturates]⟩

theorem State.arith_subG (s : State) (x d : Nat) (wrap : Bool) {a b : Nat} (ha : a < 2 ^ 64) (hb : b < 2 ^ 64) :
    (s.arith x d (subG wrap a b)).gr x d = (if wrap then (a + 2 ^ 64 - b) % 2 ^ 64 else a - b) ∧
    (s.arith x d (subG wrap a b)).get F.MDR_STEP_STAT.SAT x =
      (if !wrap && decide (a < b) then 1 else s.get F.MDR_STEP_STAT.SAT x) :=
  ⟨by rw [State.gr_arith, subG_value _ ha hb], by rw [State.sat_arith, subG_saturates]⟩

/-! ### Flags (R155) and bins (R284) -/

theorem State.z_setCompare (s : State) (x a b : Nat) : (s.setCompare x a b).get F.MDR_STEP_STAT.Z x = ofBool (a == b) := by
  rw [State.setCompare, State.get_set_fld _ _ _ _ _ _ (by decide), State.get_set_self]
  cases a == b <;> rfl

theorem State.l_setCompare (s : State) (x a b : Nat) : (s.setCompare x a b).get F.MDR_STEP_STAT.L x = ofBool (decide (a < b)) := by
  rw [State.setCompare, State.get_set_self]
  cases decide (a < b) <;> rfl

@[simp] theorem State.stepPc_setCompare (s : State) (x a b y : Nat) : (s.setCompare x a b).stepPc y = s.stepPc y :=
  (State.stepPc_set _ _ _ _ _ (by decide)).trans (State.stepPc_set _ _ _ _ _ (by decide))

/-- A comparison at its boundary: both flags are written, and the context goes on. -/
theorem State.advance_setCompare (s : State) (x a b : Nat) :
    ((s.setCompare x a b).advance x).get F.MDR_STEP_STAT.Z x = ofBool (a == b) ∧
    ((s.setCompare x a b).advance x).get F.MDR_STEP_STAT.L x = ofBool (decide (a < b)) ∧
    ((s.setCompare x a b).advance x).stepPc x = (s.stepPc x + 1) % 2 ^ 20 := by
  simp (disch := decide) [State.get_advance, State.z_setCompare, State.l_setCompare]

theorem State.bin_setBin (s : State) (x b : Nat) : (s.setBin x b).get F.MDR_STEP_BIN.BIN x = b % 2 ^ 10 :=
  (State.get_set_fld _ _ _ _ _ _ (by decide)).trans (State.get_set_self s ..)

theorem State.valid_setBin (s : State) (x b : Nat) : (s.setBin x b).get F.MDR_STEP_BIN.VALID x = 1 := State.get_set_self ..

@[simp] theorem State.stepPc_setBin (s : State) (x b y : Nat) : (s.setBin x b).stepPc y = s.stepPc y :=
  (State.stepPc_set _ _ _ _ _ (by decide)).trans (State.stepPc_set _ _ _ _ _ (by decide))

/-! ### Branches (R157, R158, R168) -/

theorem State.branch_of_inside {s : State} {x t : Nat} (hin : t < (s.ctx x).words) : s.branch x t = s.atPc x t :=
  if_neg (Nat.not_le.2 hin)

theorem State.doCall_of_room {s : State} {x w : Nat} (hroom : s.get F.MDR_STEP_STAT.DEPTH x < 16)
    (hin : bitsOf w 0 20 < (s.ctx x).words) : s.doCall x w =
      ((s.set F.MDR_STEP_STACK.INDEX (16 * x + s.get F.MDR_STEP_STAT.DEPTH x) (s.stepPc x + 1)).set F.MDR_STEP_STAT.DEPTH x
        (s.get F.MDR_STEP_STAT.DEPTH x + 1)).atPc x (bitsOf w 0 20) := by
  rw [State.doCall, if_neg (Nat.not_le.2 hroom), if_neg (Nat.not_le.2 hin)]
  exact State.branch_of_inside hin

/-- A RET goes to the index on top of the stack; with F0 it ends a trap. -/
theorem State.doRet_of_depth {s : State} {x w d : Nat} (hdepth : s.get F.MDR_STEP_STAT.DEPTH x = d + 1) : s.doRet x w =
    (if flagOf w 0 then (s.set F.MDR_STEP_STAT.DEPTH x d).set F.MDR_STEP_STAT.TRAP_ACTIVE x 0
      else s.set F.MDR_STEP_STAT.DEPTH x d).atPc x (s.get F.MDR_STEP_STACK.INDEX (16 * x + d)) := by
  simp [State.doRet, hdepth]

theorem State.doDbnz_of_more {s : State} {x w : Nat} (hmore : 1 < s.gr x (regA w)) (hin : bitsOf w 8 20 < (s.ctx x).words) :
    s.doDbnz x w = (s.setGr x (regA w) (s.gr x (regA w) - 1)).atPc x (bitsOf w 8 20) := by
  rw [State.doDbnz, if_pos hmore]
  exact State.branch_of_inside hin

/-- A count of 1 or 0 ends at 0, and the loop with it. -/
theorem State.doDbnz_of_last {s : State} {x w : Nat} (hlast : s.gr x (regA w) ≤ 1) :
    s.doDbnz x w = (s.setGr x (regA w) 0).advance x := by
  rw [State.doDbnz, if_neg (Nat.not_lt.2 hlast), Nat.sub_eq_zero_of_le hlast]

theorem State.doGet_of_source {s : State} {x w v : Nat} (hsource : s.getSource x (bitsOf w 8 8) = some v) :
    s.doGet x w = (s.setGr x (regA w) v).advance x := by
  simp [State.doGet, hsource]

/-! ### The statements -/

/-- Settles O9: a word that its context runs writes its register, flags, bin or stack, and PC goes on or to the branch's target. -/
theorem stepArithmeticComplete : Obligations.StepArithmeticComplete := by
  intro e s u hu
  refine ⟨?nop, ?ldi, ?addi, ?add, ?sub, ?mov, ?get, ?cmpi, ?cmp, ?bin, ?binRejected, ?jmp, ?call, ?ret, ?dbnz, ?dbnzLast, ?stop⟩
  case nop =>
    intro x w hruns
    exact ⟨_, exec_nop_of_runs hu hruns, State.stepPc_advance .., State.gr_advance _ _ _⟩
  case ldi =>
    intro x w hruns
    exact ⟨_, exec_ldi_of_runs hu hruns, State.advance_setGr ..⟩
  case addi =>
    intro x w hruns
    exact ⟨_, exec_addi_of_runs hu hruns, State.arith_effect ..⟩
  case add =>
    intro x w hruns
    exact ⟨_, exec_add_of_runs hu hruns, State.arith_effect ..⟩
  case sub =>
    intro x w hruns
    exact ⟨_, exec_sub_of_runs hu hruns, State.arith_effect ..⟩
  case mov =>
    intro x w hruns
    exact ⟨_, exec_mov_of_runs hu hruns, State.advance_setGr ..⟩
  case get =>
    intro x w v hruns hsource
    refine ⟨_, exec_get_of_runs hu hruns, ?_⟩
    rw [State.doGet_of_source hsource]
    exact State.advance_setGr ..
  case cmpi =>
    intro x w hruns
    exact ⟨_, exec_cmpi_of_runs hu hruns, State.advance_setCompare ..⟩
  case cmp =>
    intro x w hruns
    exact ⟨_, exec_cmp_of_runs hu hruns, State.advance_setCompare ..⟩
  case bin =>
    intro x w hruns hbin
    refine ⟨_, exec_bin_of_runs hu hruns, ?_⟩
    rw [if_neg (Nat.not_le.2 hbin)]
    exact ⟨by rw [State.get_advance _ _ _ _ (by decide) (by decide), State.bin_setBin, bitsOf_mod],
      by rw [State.get_advance _ _ _ _ (by decide) (by decide), State.valid_setBin],
      by rw [State.stepPc_advance, State.stepPc_setBin]⟩
  case binRejected =>
    intro x w hruns hbin
    refine ⟨_, exec_bin_of_runs hu hruns, ?_⟩
    rw [if_pos hbin]
    simp (disch := decide) [State.get_advance, State.get_set_fld, State.stepPc_set]
  case jmp =>
    intro x w hruns hin
    refine ⟨_, exec_jmp_of_runs hu hruns, ?_⟩
    rw [State.branch_of_inside hin]
    exact (State.stepPc_atPc ..).trans (bitsOf_mod ..)
  case call =>
    intro x w hruns hroom hin
    refine ⟨_, exec_call_of_runs hu hruns, ?_⟩
    rw [State.doCall_of_room hroom hin]
    have hdepth : (u.get F.MDR_STEP_STAT.DEPTH x.val + 1) % 2 ^ 5 = u.get F.MDR_STEP_STAT.DEPTH x.val + 1 :=
      Nat.mod_eq_of_lt (by omega)
    exact ⟨by rw [State.stepPc_atPc, bitsOf_mod],
      by rw [State.get_atPc _ _ _ _ _ (by decide) (by decide), State.get_set_self, hdepth],
      by rw [State.get_atPc _ _ _ _ _ (by decide) (by decide), State.get_set_fld _ _ _ _ _ _ (by decide), State.get_set_self]⟩
  case ret =>
    intro x w d hruns hdepth
    refine ⟨_, exec_ret_of_runs hu hruns, ?_⟩
    rw [State.doRet_of_depth hdepth]
    refine ⟨State.stepPc_atPc .., ?_, fun htrap => ?_⟩
    · rw [State.get_atPc _ _ _ _ _ (by decide) (by decide)]
      split <;> simp (disch := decide) [State.get_set_fld]
    · rw [State.get_atPc _ _ _ _ _ (by decide) (by decide), if_pos htrap]
      exact State.get_set_self ..
  case dbnz =>
    intro x w hruns hmore hin
    refine ⟨_, exec_dbnz_of_runs hu hruns, ?_⟩
    rw [State.doDbnz_of_more hmore hin]
    exact ⟨by simp, by rw [State.stepPc_atPc, bitsOf_mod]⟩
  case dbnzLast =>
    intro x w hruns hlast
    refine ⟨_, exec_dbnz_of_runs hu hruns, ?_⟩
    rw [State.doDbnz_of_last hlast]
    exact State.advance_setGr ..
  case stop =>
    intro x w hruns
    exact exec_stop_of_runs hu hruns

/-- Settles O43: the value and the SAT of a sum and of a difference, where ADD, SUB and ADDI write them, and the count of DBNZ. -/
theorem arithmeticRule : Obligations.ArithmeticRule := by
  rintro e s u x w a b hu rfl
  refine ⟨?add, ?sub, ?addi, ?subi, ?dbnz⟩
  case add =>
    rintro hruns rfl
    exact ⟨_, exec_add_of_runs hu hruns, State.arith_addG ..⟩
  case sub =>
    rintro hruns rfl ha hb
    exact ⟨_, exec_sub_of_runs hu hruns, State.arith_subG _ _ _ _ ha hb⟩
  case addi =>
    rintro hruns rfl hplus
    refine ⟨_, exec_addi_of_runs hu hruns, ?_⟩
    rw [hplus, if_neg Bool.false_ne_true]
    exact State.arith_addG ..
  case subi =>
    rintro hruns rfl hminus ha
    refine ⟨_, exec_addi_of_runs hu hruns, ?_⟩
    rw [if_pos hminus]
    exact State.arith_subG _ _ _ _ ha ((bitsOf_lt w 8 40).trans (by decide))
  case dbnz =>
    intro hruns hzero
    refine ⟨_, exec_dbnz_of_runs hu hruns, ?_⟩
    rw [State.doDbnz_of_last (by omega)]
    exact State.advance_setGr ..

end Sys2Proof.Machine
end

section
/-! Every command answers: the laws of `Laws/Answers.lean`, one for each meaning that the dispatch calls, together. -/

namespace Sys2Proof.Machine

/-- No arm of the dispatch ends in a fault or a refusal; a row that cannot occur in the state it finds answers that state after its
ticks. -/
theorem exec_answers (c : Instr) (s : State) : ∃ t, exec c s = .next t := by
  cases c with
  | powerOnReset e testen safeInHigh resetHigh => exact execPowerOnReset_answers e testen safeInHigh resetHigh s
  | vauxUnderVoltage e => exact execVauxUnderVoltage_answers e s
  | railsGood e => exact execRailsGood_answers e s
  | railUnderVoltage e rail => exact execRailUnderVoltage_answers e rail s
  | coreIslandAdmission e => exact execCoreIslandAdmission_answers e s
  | tileCommonAdmission e => exact execTileCommonAdmission_answers e s
  | ladderRequest e => exact execLadderRequest_answers e s
  | ladderSlot e => exact execLadderSlot_answers e s
  | groupSettleEnd e g failed => exact execGroupSettleEnd_answers e g failed s
  | poweringEnd e => exact execPoweringEnd_answers e s
  | resetNFall e => exact execResetNFall_answers e s
  | deviceReset e => exact execDeviceReset_answers e s
  | resetNRise e => exact execResetNRise_answers e s
  | devReset e v => exact execDevReset_answers e v s
  | testenHigh e => exact execTestenHigh_answers e s
  | pwrSleepSet e w v => exact execPwrSleepSet_answers e w v s
  | pwrSleepClr e w v => exact execPwrSleepClr_answers e w v s
  | dormantRequest e => exact execDormantRequest_answers e s
  | dormantEntryComplete e => exact execDormantEntryComplete_answers e s
  | wake e cause => exact execWake_answers e cause s
  | wakeComplete e => exact execWakeComplete_answers e s
  | thermalConversion e temps => exact execThermalConversion_answers e temps s
  | loadStart e copy0 copy1 => exact execLoadStart_answers e copy0 copy1 s
  | slotReadStart e hdr => exact execSlotReadStart_answers e hdr s
  | imageRecordArrival e r => exact execImageRecordArrival_answers e r s
  | dramTrainingComplete e ok => exact execDramTrainingComplete_answers e ok s
  | lastRecordRead e => exact execLastRecordRead_answers e s
  | checksComplete e => exact execChecksComplete_answers e s
  | commit e => exact execCommit_answers e s
  | reload e v => exact execReload_answers e v s
  | precheckComplete e copy0 copy1 images => exact execPrecheckComplete_answers e copy0 copy1 images s
  | reloadTeardown e => exact execReloadTeardown_answers e s
  | fuseProgramKeyHash e v => exact execFuseProgramKeyHash_answers e v s
  | fuseRaiseSecver e v => exact execFuseRaiseSecver_answers e v s
  | fuseOpComplete e => exact execFuseOpComplete_answers e s
  | siteArm e x prog => exact execSiteArm_answers e x prog s
  | siteAbort e x => exact execSiteAbort_answers e x s
  | siteAck e x => exact execSiteAck_answers e x s
  | siteReset e x => exact execSiteReset_answers e x s
  | siteResetRelease e x => exact execSiteResetRelease_answers e x s
  | staleCheck e x => exact execStaleCheck_answers e x s
  | startInstant e x => exact execStartInstant_answers e x s
  | sliceMissedRelease e sl => exact execSliceMissedRelease_answers e sl s
  | stoppingComplete e x => exact execStoppingComplete_answers e x s
  | joinSend e x => exact execJoinSend_answers e x s
  | vectorNext e sl ecc => exact execVectorNext_answers e sl ecc s
  | vectorRepeat e sl ecc => exact execVectorRepeat_answers e sl ecc s
  | loopBegin e sl ecc => exact execLoopBegin_answers e sl ecc s
  | loopEnd e sl ecc => exact execLoopEnd_answers e sl ecc s
  | matchPass e sl ecc => exact execMatchPass_answers e sl ecc s
  | altVector e sl ecc => exact execAltVector_answers e sl ecc s
  | endVector e sl ecc => exact execEndVector_answers e sl ecc s
  | code7 e sl ecc => exact execCode7_answers e sl ecc s
  | granuleCheckPoint e sl => exact execGranuleCheckPoint_answers e sl s
  | holdRelease e x => exact execHoldRelease_answers e x s
  | refillGranuleComplete e sl seg gran col => exact execRefillGranuleComplete_answers e sl seg gran col s
  | sliceReadyReport e sl => exact execSliceReadyReport_answers e sl s
  | resumeRelease e x => exact execResumeRelease_answers e x s
  | segmentAdmission e sl seg ecc => exact execSegmentAdmission_answers e sl seg ecc s
  | queueEntryRelease e sl => exact execQueueEntryRelease_answers e sl s
  | eventJumpRequest e x => exact execEventJumpRequest_answers e x s
  | jumpHonoured e x => exact execJumpHonoured_answers e x s
  | ctrlCrcReport e x => exact execCtrlCrcReport_answers e x s
  | slpJumpCfgWrite e sl v => exact execSlpJumpCfgWrite_answers e sl v s
  | slpLooppreWrite e sl r v => exact execSlpLooppreWrite_answers e sl r v s
  | slpMatchTmoWrite e sl v => exact execSlpMatchTmoWrite_answers e sl v s
  | waveformRead e t => exact execWaveformRead_answers e t s
  | waveformWrite e t => exact execWaveformWrite_answers e t s
  | waveformAccessComplete e t e0 e1 e2 => exact execWaveformAccessComplete_answers e t e0 e1 e2 s
  | wodPeriodWrite e sl set v => exact execWodPeriodWrite_answers e sl set v s
  | wodSliceTsWrite e sl v => exact execWodSliceTsWrite_answers e sl v s
  | wodChCfgWrite e ch v => exact execWodChCfgWrite_answers e ch v s
  | driveEvent e ch => exact execDriveEvent_answers e ch s
  | strobe e ch st => exact execStrobe_answers e ch st s
  | windowEnd e ch dL dM dH => exact execWindowEnd_answers e ch dL dM dH s
  | timingSetRelease e x => exact execTimingSetRelease_answers e x s
  | comparatorSettingWrite e ch r v => exact execComparatorSettingWrite_answers e ch r v s
  | settlingEnd e ch st => exact execSettlingEnd_answers e ch st s
  | sepCmpChMaskWrite e ch v => exact execSepCmpChMaskWrite_answers e ch v s
  | granuleCountsAdd e sl => exact execGranuleCountsAdd_answers e sl s
  | failRecordArrival e sl tag => exact execFailRecordArrival_answers e sl tag s
  | stopDecision e x => exact execStopDecision_answers e x s
  | stopRelease e x => exact execStopRelease_answers e x s
  | captureRingRdWrite e x v => exact execCaptureRingRdWrite_answers e x v s
  | stepWordFetch e x ecc => exact execStepWordFetch_answers e x ecc s
  | stepBoundarySample e x rom => exact execStepBoundarySample_answers e x rom s
  | nop e x => exact execNop_answers e x s
  | play e x => exact execPlay_answers e x s
  | jseg e x => exact execJseg_answers e x s
  | tset e x => exact execTset_answers e x s
  | acq e x => exact execAcq_answers e x s
  | meas e x => exact execMeas_answers e x s
  | mget e x => exact execMget_answers e x s
  | waitev e x => exact execWaitev_answers e x s
  | waitdt e x => exact execWaitdt_answers e x s
  | drain e x => exact execDrain_answers e x s
  | sync e x => exact execSync_answers e x s
  | trimok e x => exact execTrimok_answers e x s
  | jmp e x => exact execJmp_answers e x s
  | call e x => exact execCall_answers e x s
  | ret e x => exact execRet_answers e x s
  | dbnz e x => exact execDbnz_answers e x s
  | ldi e x => exact execLdi_answers e x s
  | addi e x => exact execAddi_answers e x s
  | add e x => exact execAdd_answers e x s
  | sub e x => exact execSub_answers e x s
  | mov e x => exact execMov_answers e x s
  | get e x => exact execGet_answers e x s
  | cmpi e x => exact execCmpi_answers e x s
  | cmp e x => exact execCmp_answers e x s
  | bin e x => exact execBin_answers e x s
  | dlog e x => exact execDlog_answers e x s
  | bustx e x => exact execBustx_answers e x s
  | req e x => exact execReq_answers e x s
  | stop e x => exact execStop_answers e x s
  | eventLatch e x c => exact execEventLatch_answers e x c s
  | waitTimeout e x => exact execWaitTimeout_answers e x s
  | serviceResult e x => exact execServiceResult_answers e x s
  | syncRelease e b => exact execSyncRelease_answers e b s
  | trapFiring e x => exact execTrapFiring_answers e x s
  | trimWindowClose e x => exact execTrimWindowClose_answers e x s
  | sliceEndReport e x => exact execSliceEndReport_answers e x s
  | syncMemberWrite e b w v => exact execSyncMemberWrite_answers e b w v s
  | stepMissedRelease e x => exact execStepMissedRelease_answers e x s
  | acqArmCommand e ch => exact execAcqArmCommand_answers e ch s
  | acqDisarmCommand e ch => exact execAcqDisarmCommand_answers e ch s
  | acqForce e ch => exact execAcqForce_answers e ch s
  | acqEventArm e ch arm => exact execAcqEventArm_answers e ch arm s
  | acqArmDt e ch late => exact execAcqArmDt_answers e ch late s
  | sequenceOccurrence e ch o => exact execSequenceOccurrence_answers e ch o s
  | sequenceTimer e ch => exact execSequenceTimer_answers e ch s
  | privilegedTriggerEval e ch v between => exact execPrivilegedTriggerEval_answers e ch v between s
  | acqAutoTimeout e ch => exact execAcqAutoTimeout_answers e ch s
  | historySample e ch seen => exact execHistorySample_answers e ch seen s
  | postTriggerComplete e ch => exact execPostTriggerComplete_answers e ch s
  | acqRecordArrival e ch tag => exact execAcqRecordArrival_answers e ch tag s
  | sepAcqChCfgWrite e ch v => exact execSepAcqChCfgWrite_answers e ch v s
  | acqRingRdWrite e x v => exact execAcqRingRdWrite_answers e x v s
  | tiaStart e ch => exact execTiaStart_answers e ch s
  | tiaEnd e ch => exact execTiaEnd_answers e ch s
  | measStartDt e ch late => exact execMeasStartDt_answers e ch late s
  | measSample e ch a b p remote => exact execMeasSample_answers e ch a b p remote s
  | measWindowExpiry e ch a => exact execMeasWindowExpiry_answers e ch a s
  | gateClose e ch edges a b n => exact execGateClose_answers e ch edges a b n s
  | measDone e ch => exact execMeasDone_answers e ch s
  | dtWrap e => exact execDtWrap_answers e s
  | umbDtRead e a => exact execUmbDtRead_answers e a s
  | referenceLock e err => exact execReferenceLock_answers e err s
  | referenceLoss e edge err => exact execReferenceLoss_answers e edge err s
  | xtalFail e => exact execXtalFail_answers e s
  | ppsInEdge e => exact execPpsInEdge_answers e s
  | ppsOutRise e => exact execPpsOutRise_answers e s
  | trimStepEnd e q binsOk offsOk delay qf => exact execTrimStepEnd_answers e q binsOk offsOk delay qf s
  | trimCommit e ch => exact execTrimCommit_answers e ch s
  | trimCommitMissed e ch => exact execTrimCommitMissed_answers e ch s
  | channelReturn e ch => exact execChannelReturn_answers e ch s
  | syncPulse e => exact execSyncPulse_answers e s
  | syncPulseReturn e t off => exact execSyncPulseReturn_answers e t off s
  | tskewLost e t => exact execTskewLost_answers e t s
  | qualityAgeChange e ch => exact execQualityAgeChange_answers e ch s
  | reflectionRequest e x => exact execReflectionRequest_answers e x s
  | reflectionStep e ch inc ret stamped => exact execReflectionStep_answers e ch inc ret stamped s
  | reflectionEnd e x => exact execReflectionEnd_answers e x s
  | tileLinkUp e t => exact execTileLinkUp_answers e t s
  | frameArrival e l lane bits => exact execFrameArrival_answers e l lane bits s
  | ack e l q => exact execAck_answers e l q s
  | tileReplayTimeout e t q => exact execTileReplayTimeout_answers e t q s
  | tileLinkDown e t => exact execTileLinkDown_answers e t s
  | portStart e p => exact execPortStart_answers e p s
  | cap e p q body => exact execCap_answers e p q body s
  | portRetry e p => exact execPortRetry_answers e p s
  | rate e p q body => exact execRate_answers e p q body s
  | rateSwitch e p => exact execRateSwitch_answers e p s
  | rateStepEnd e p ok => exact execRateStepEnd_answers e p ok s
  | portReplayTimeout e p q => exact execPortReplayTimeout_answers e p q s
  | portDown e p => exact execPortDown_answers e p s
  | portRetrain e p => exact execPortRetrain_answers e p s
  | portDisable e p => exact execPortDisable_answers e p s
  | timeExchangeStart e p t1 => exact execTimeExchangeStart_answers e p t1 s
  | tsync e p q body full t2 t3 => exact execTsync_answers e p q body full t2 t3 s
  | treq e p q body t4 => exact execTreq_answers e p q body t4 s
  | tresp e p q body => exact execTresp_answers e p q body s
  | tinfo e p q body => exact execTinfo_answers e p q body s
  | upstreamLoss e => exact execUpstreamLoss_answers e s
  | evbc e p body => exact execEvbc_answers e p body s
  | broadcastRelease e c => exact execBroadcastRelease_answers e c s
  | tokenJoin e p q home arg => exact execTokenJoin_answers e p q home arg s
  | tokenJoinres e p q home arg => exact execTokenJoinres_answers e p q home arg s
  | tokenEntry e p q home arg x0 x1 => exact execTokenEntry_answers e p q home arg x0 x1 s
  | tokenStart e p q home x0 => exact execTokenStart_answers e p q home x0 s
  | tokenHold e p q home x0 => exact execTokenHold_answers e p q home x0 s
  | tokenReady e p q home arg x0 => exact execTokenReady_answers e p q home arg x0 s
  | tokenResume e p q home x0 => exact execTokenResume_answers e p q home x0 s
  | tokenJump e p q home arg x0 => exact execTokenJump_answers e p q home arg x0 s
  | tokenStop e p q home x0 => exact execTokenStop_answers e p q home x0 s
  | tokenTset e p q home arg x0 x1 => exact execTokenTset_answers e p q home arg x0 x1 s
  | tokenState e p q home arg x0 => exact execTokenState_answers e p q home arg x0 s
  | tokenReset e p q home x0 => exact execTokenReset_answers e p q home x0 s
  | tokenTrim e p q home arg x0 => exact execTokenTrim_answers e p q home arg x0 s
  | tokenCounts e p q home x0 => exact execTokenCounts_answers e p q home x0 s
  | tokenCcrc e p q home arg x0 => exact execTokenCcrc_answers e p q home arg x0 s
  | record e p q home typ bytes => exact execRecord_answers e p q home typ bytes s
  | busRunWrite e en run => exact execBusRunWrite_answers e en run s
  | busFlush e en => exact execBusFlush_answers e en s
  | busRecover e en => exact execBusRecover_answers e en s
  | phyResetWrite e en held => exact execPhyResetWrite_answers e en held s
  | busTxPost e en v => exact execBusTxPost_answers e en v s
  | payloadRead e en k ecc => exact execPayloadRead_answers e en k ecc s
  | frameStart e en => exact execFrameStart_answers e en s
  | arbitrationLost e en => exact execArbitrationLost_answers e en s
  | frameExpired e en => exact execFrameExpired_answers e en s
  | txWriteBack e en sof eof => exact execTxWriteBack_answers e en sof eof s
  | gateFiring e en => exact execGateFiring_answers e en s
  | frameReceived e en f tag => exact execFrameReceived_answers e en f tag s
  | busError e en code inc => exact execBusError_answers e en code inc s
  | busOffRecovery e en => exact execBusOffRecovery_answers e en s
  | linHeader e en id => exact execLinHeader_answers e en id s
  | linWakeUp e en fell tag => exact execLinWakeUp_answers e en fell tag s
  | mdioCommand e en v => exact execMdioCommand_answers e en v s
  | mdioComplete e data => exact execMdioComplete_answers e data s
  | workItemEnqueue e w delayed due => exact execWorkItemEnqueue_answers e w delayed due s
  | safGet e c own => exact execSafGet_answers e c own s
  | dispatch e y ecc => exact execDispatch_answers e y ecc s
  | itemComplete e c status nrc v fw => exact execItemComplete_answers e c status nrc v fw s
  | delayDue e => exact execDelayDue_answers e s
  | watchdog e c => exact execWatchdog_answers e c s
  | planStart e x => exact execPlanStart_answers e x s
  | planStop e x => exact execPlanStop_answers e x s
  | planAbort e x => exact execPlanAbort_answers e x s
  | dutEvent e x => exact execDutEvent_answers e x s
  | planTestEnd e x => exact execPlanTestEnd_answers e x s
  | planTimeout e x => exact execPlanTimeout_answers e x s
  | staleRetry e x => exact execStaleRetry_answers e x s
  | reflEvent e x => exact execReflEvent_answers e x s
  | datalogRecord e x src => exact execDatalogRecord_answers e x src s
  | lost e x => exact execLost_answers e x s
  | udsRequest e c sof eof => exact execUdsRequest_answers e c sof eof s
  | udsSession e c sof eof => exact execUdsSession_answers e c sof eof s
  | security e c ecc sof eof => exact execSecurity_answers e c ecc sof eof s
  | download e c sof eof => exact execDownload_answers e c sof eof s
  | ecuReset e c sof eof => exact execEcuReset_answers e c sof eof s
  | udsResponse e x u r sof eof => exact execUdsResponse_answers e x u r sof eof s
  | p2Expiry e x u => exact execP2Expiry_answers e x u s
  | testerPresent e x u => exact execTesterPresent_answers e x u s
  | keyReply e => exact execKeyReply_answers e s
  | keyTimeout e x u => exact execKeyTimeout_answers e x u s
  | netlistBuild e x => exact execNetlistBuild_answers e x s
  | netlistAnalysis e x => exact execNetlistAnalysis_answers e x s
  | trigInEdge e n => exact execTrigInEdge_answers e n s
  | evfSwfire e v => exact execEvfSwfire_answers e v s
  | eventChannelFiring e p => exact execEventChannelFiring_answers e p s
  | heldFiringRelease e c => exact execHeldFiringRelease_answers e c s
  | trigOutPulseEnd e n => exact execTrigOutPulseEnd_answers e n s
  | timerExpiry e k => exact execTimerExpiry_answers e k s
  | evfTimerCfgWrite e k v => exact execEvfTimerCfgWrite_answers e k v s
  | timerStartFiring e k => exact execTimerStartFiring_answers e k s
  | interruptPending e n => exact execInterruptPending_answers e n s
  | ircClaim e a x => exact execIrcClaim_answers e a x s
  | ircComplete e a x n => exact execIrcComplete_answers e a x n s
  | ircMaskWrite e a w v => exact execIrcMaskWrite_answers e a w v s
  | holdoffEnd e g => exact execHoldoffEnd_answers e g s
  | lakOwnerWrite e a b v => exact execLakOwnerWrite_answers e a b v s
  | lakStateWrite e a b v => exact execLakStateWrite_answers e a b v s
  | bankTransitionComplete e b => exact execBankTransitionComplete_answers e b s
  | lakeWrite e a addr data coll => exact execLakeWrite_answers e a addr data coll s
  | lakeSetWrite e a addr data => exact execLakeSetWrite_answers e a addr data s
  | lakeClearWrite e a addr data => exact execLakeClearWrite_answers e a addr data s
  | dmcOpCmd e v => exact execDmcOpCmd_answers e v s
  | opChangeComplete e ok => exact execOpChangeComplete_answers e ok s
  | requestPromotion e k => exact execRequestPromotion_answers e k s
  | pageCloseTimeout e ch bank => exact execPageCloseTimeout_answers e ch bank s
  | perstN e high => exact execPerstN_answers e high s
  | flr e f => exact execFlr_answers e f s
  | hrgCmdTailWrite e a r v => exact execHrgCmdTailWrite_answers e a r v s
  | descriptorRead e r => exact execDescriptorRead_answers e r s
  | arm e x => exact execArm_answers e x s
  | abort e x => exact execAbort_answers e x s
  | ackCommand e x => exact execAckCommand_answers e x s
  | reset e x => exact execReset_answers e x s
  | setArg e x => exact execSetArg_answers e x s
  | ringPlanStart e x => exact execRingPlanStart_answers e x s
  | ringPlanStop e x => exact execRingPlanStop_answers e x s
  | ringPlanAbort e x => exact execRingPlanAbort_answers e x s
  | reflect e x => exact execReflect_answers e x s
  | tableLoad e x => exact execTableLoad_answers e x s
  | nvmRead e m data => exact execNvmRead_answers e m data s
  | nvmErase e m done => exact execNvmErase_answers e m done s
  | nvmProgram e m done => exact execNvmProgram_answers e m done s
  | todSet e m => exact execTodSet_answers e m s
  | todAdj e m => exact execTodAdj_answers e m s
  | descriptorComplete e r => exact execDescriptorComplete_answers e r s
  | hrgCmdSeenWrite e a r v => exact execHrgCmdSeenWrite_answers e a r v s
  | ringDisable e a r => exact execRingDisable_answers e a r s
  | hrgResRdWrite e x v => exact execHrgResRdWrite_answers e x v s
  | mbxDataWrite e a n w v => exact execMbxDataWrite_answers e a n w v s
  | mbxDoorbell e a n v => exact execMbxDoorbell_answers e a n v s
  | mbxTake e a n ecc => exact execMbxTake_answers e a n ecc s
  | mbxLockRead e a n => exact execMbxLockRead_answers e a n s
  | mbxLockRelease e a n v => exact execMbxLockRelease_answers e a n v s
  | keyStoreWrite e => exact execKeyStoreWrite_answers e s
  | keyStoreErase e => exact execKeyStoreErase_answers e s
  | reg64LowRead e a off => exact execReg64LowRead_answers e a off s
  | reg64HighWrite e a off v => exact execReg64HighWrite_answers e a off v s
  | rcRegisterRead e a off n => exact execRcRegisterRead_answers e a off n s
  | registerWrite e a off n v => exact execRegisterWrite_answers e a off n v s
  | safeInNFall e long => exact execSafeInNFall_answers e long s
  | cinForceWrite e v => exact execCinForceWrite_answers e v s
  | cinExit e v => exact execCinExit_answers e v s
  | exitRelease e => exact execExitRelease_answers e s
  | cinTileReset e v => exact execCinTileReset_answers e v s
  | cinCoreReset e v => exact execCinCoreReset_answers e v s
  | safeInNRise e => exact execSafeInNRise_answers e s
  | testenLow e => exact execTestenLow_answers e s
  | referenceReturn e => exact execReferenceReturn_answers e s
  | pcieLinkDown e => exact execPcieLinkDown_answers e s
  | pcieLinkUp e rate width flit rev => exact execPcieLinkUp_answers e rate width flit rev s
  | msixUnmask e f op => exact execMsixUnmask_answers e f op s
  | dramWrite e f addr data bad fixed lat pages => exact execDramWrite_answers e f addr data bad fixed lat pages s
  | isotpNTimeout e c began => exact execIsotpNTimeout_answers e c began s
  | phyResetRelease e en => exact execPhyResetRelease_answers e en s
  | xtalTempRead e temp => exact execXtalTempRead_answers e temp s
  | umbAgeIncrement e => exact execUmbAgeIncrement_answers e s

/-- Settles O41: each of the 322 meanings answers a next state. -/
theorem commandsAnswer : Obligations.CommandsAnswer := exec_answers

end Sys2Proof.Machine
end

section
/-! The rules of the operations on an acquisition unit, and the statement about its configuration, arming and disarming (R175–R177,
R180, R183, R186). -/

namespace Sys2Proof.Machine

/-! ### Which meaning the dispatch calls -/

theorem exec_acqArmCommand (e : Nat) (ch : Chan) (s : State) : exec (.acqArmCommand e ch) s =
    .next ((s.elapse e).armUnit ch.val (wrap64 ((s.elapse e).now + ns 120)) true false) := rfl

theorem exec_acqDisarmCommand (e : Nat) (ch : Chan) (s : State) : exec (.acqDisarmCommand e ch) s =
    .next ((s.elapse e).disarmAtDT ch.val (wrap64 ((s.elapse e).now + ns 120)) true) := rfl

theorem exec_acqForce (e : Nat) (ch : Chan) (s : State) : exec (.acqForce e ch) s =
    .next ((s.elapse e).setAcqU ch.val { (s.elapse e).acqU ch.val with
      forceAt := ((s.elapse e).acqU ch.val).forceAt ++ [wrap64 ((s.elapse e).now + ns 120)] }) := rfl

theorem exec_acqEventArm (e : Nat) (ch : Chan) (arm : Bool) (s : State) :
    exec (.acqEventArm e ch arm) s = execAcqEventArm e ch arm s := rfl

theorem exec_acqArmDt (e : Nat) (ch : Chan) (late : Bool) (s : State) : exec (.acqArmDt e ch late) s = execAcqArmDt e ch late s := rfl

theorem exec_sepAcqChCfgWrite (e : Nat) (ch : Chan) (v : Word32) (s : State) :
    exec (.sepAcqChCfgWrite e ch v) s = .next ((s.elapse e).writeAcqCfg ch.val v.toNat) := rfl

/-! ### What registers and free values leave of a unit -/

@[simp] theorem State.acqU_set (s : State) (f : Fld) (i v c : Nat) : (s.set f i v).acqU c = s.acqU c := (rfl)

@[simp] theorem State.acqU_drew (s : State) (c : Nat) : s.drew.acqU c = s.acqU c := (rfl)

@[simp] theorem State.acqState_drew (s : State) (c : Nat) : s.drew.acqState c = s.acqState c := (rfl)

@[simp] theorem State.acqState_setAcqU (s : State) (c d : Nat) (u : AcqUnit) : (s.setAcqU d u).acqState c = s.acqState c := (rfl)

/-! ### An arm reaches a unit (R177) -/

section
variable {s : State} {c : Nat}

/-- The unit of an arm that is accepted waits for its DT d. -/
theorem State.armUnit_of_accepted {d : Nat} {cmd event : Bool} (hidle : s.acqState c = 0) (hok : s.armReason c cmd = 0) :
    s.armUnit c d cmd event = (s.drew.set F.SEP_ACQ_CH_STAT.STATE c 1).setAcqU c
      { s.acqU c with armAt := some d, timeReleased := !cmd, entry := s.now, count := 0 } := by
  simp only [State.armUnit, hidle, hok, bne_self_eq_false, Bool.false_eq_true, if_false, if_true]
  rfl

theorem State.armUnit_of_refused {d : Nat} {cmd event : Bool} (hidle : s.acqState c = 0) (hno : s.armReason c cmd ≠ 0) :
    s.armUnit c d cmd event =
      (s.drew.set F.SEP_ACQ_CH_STAT.ARM_REJ c 1).set F.SEP_ACQ_CH_STAT.REASON c (s.armReason c cmd) := by
  simp [State.armUnit, hidle, hno]

/-- An arm that finds a unit armed is a duplicate, and by an event an overrun too. -/
theorem State.armUnit_of_armed {d : Nat} {cmd event : Bool} (harmed : s.acqState c ≠ 0) : s.armUnit c d cmd event =
    if event then (s.set F.SEP_ACQ_CH_STAT.ARM_DUP c 1).set F.SEP_ACQ_CH_STAT.OVERRUN c 1
    else s.set F.SEP_ACQ_CH_STAT.ARM_DUP c 1 := by
  simp [State.armUnit, harmed]

/-- What an accepted arm by command or event leaves. -/
theorem State.armed_of_accepted {d : Nat} {event : Bool} (hidle : s.acqState c = 0) (hok : s.armReason c true = 0) :
    (s.armUnit c d true event).get F.SEP_ACQ_CH_STAT.STATE c = 1 ∧ ((s.armUnit c d true event).acqU c).armAt = some d ∧
      ((s.armUnit c d true event).acqU c).timeReleased = false := by
  rw [State.armUnit_of_accepted hidle hok, State.setAcqU_self, State.setAcqU_get, State.get_set_self]
  exact ⟨rfl, rfl, rfl⟩

/-- A disarm by command is taken by an armed unit of a site in IDLE, ARMED, RUNNING or HOLD. -/
theorem State.disarmAtDT_of_armed {d x : Nat} (hsite : s.chanSite c = some x) (harmed : s.acqState c ≠ 0) (hlow : 1 ≤ s.siteState x)
    (hhigh : s.siteState x ≤ 4) :
    s.disarmAtDT c d true = s.setAcqU c { s.acqU c with disarmAt := (s.acqU c).disarmAt ++ [d] } := by
  have hstate : s.siteState x = 1 ∨ s.siteState x = 2 ∨ s.siteState x = 3 ∨ s.siteState x = 4 := by omega
  obtain hst | hst | hst | hst := hstate <;> simp [State.disarmAtDT, hsite, harmed, hst]

end

/-! ### A firing arms or disarms a unit (R177) -/

section
variable {e : Nat} {ch : Chan} {s u : State} (hu : u = s.elapse e) (hawake : u.consumes = true)
include hu hawake

theorem exec_acqEventArm_of_arm (hen : u.flag F.SEP_ACQ_CH_ARMEV.ARM_EN ch.val = true) :
    exec (.acqEventArm e ch true) s = .next (u.armUnit ch.val (wrap64 (u.now + ns 8)) true true) := by
  subst hu
  simp [exec_acqEventArm, execAcqEventArm, hawake, hen]

theorem exec_acqEventArm_of_disarm (hen : u.flag F.SEP_ACQ_CH_ARMEV.DIS_EN ch.val = true) :
    exec (.acqEventArm e ch false) s = .next (u.disarmAtDT ch.val (wrap64 (u.now + ns 8)) true) := by
  subst hu
  simp [exec_acqEventArm, execAcqEventArm, hawake, hen]

end

/-! ### A unit reaches its arm DT or its disarm DT (R176) -/

/-- What the registers of a unit hold once it begins to watch. -/
theorem State.get_armNow (s : State) (c d : Nat) : (s.armNow c d).get F.SEP_ACQ_CH_STAT.STATE c = 2 ∧
    (s.armNow c d).get F.SEP_ACQ_CH_STAT.SEQ c = 0 ∧ (s.armNow c d).get F.SEP_ACQ_CH_ARM_DT.DT c = d % 2 ^ 64 := by
  unfold State.armNow State.watch
  refine ⟨?_, ?_, ?_⟩ <;> rw [State.setAcqU_get]
  · rw [State.get_set_fld _ _ _ _ _ _ (by decide), State.setAcqU_get, State.get_set_fld _ _ _ _ _ _ (by decide), State.get_set_self]
    rfl
  · rw [State.get_set_fld _ _ _ _ _ _ (by decide), State.setAcqU_get, State.get_set_self]
    rfl
  · exact State.get_set_self ..

/-- The unit that begins to watch at DT d is in its sequence state since d, without history and with its record numbers begun anew. -/
theorem State.acqU_armNow (s : State) (c d : Nat) :
    ((s.armNow c d).acqU c).entry = d ∧ ((s.armNow c d).acqU c).pre = [] ∧ ((s.armNow c d).acqU c).recno = 0 := by
  simp only [State.armNow, State.watch, State.setAcqU_self, State.acqU_set, and_self]

section
variable {e : Nat} {ch : Chan} {s u : State} (hu : u = s.elapse e)
include hu

theorem exec_acqArmDt_of_arm {d : Nat} (hnone : (u.acqU ch.val).disarmAt.any (fun f => u.reached f) = false)
    (harm : (u.acqU ch.val).armAt = some d) (hstate : u.acqState ch.val = 1) (hreached : u.reached d = true)
    (hfree : u.flag F.MRD_CH_QF.HELD ch.val = false) : exec (.acqArmDt e ch false) s = .next (u.armNow ch.val d) := by
  subst hu
  simp [exec_acqArmDt, execAcqArmDt, State.armDue, -List.any_eq_true, -List.any_eq_false, hnone, harm, hstate, hreached, hfree]

theorem exec_acqArmDt_of_disarm (hdue : (u.acqU ch.val).disarmAt.any (fun f => u.reached f) = true) (late : Bool) :
    exec (.acqArmDt e ch late) s = .next ((u.setAcqU ch.val { u.acqU ch.val with
      disarmAt := (u.acqU ch.val).disarmAt.filter (fun f => !u.reached f) }).disarmUnit ch.val) := by
  subst hu
  rw [exec_acqArmDt]
  exact if_pos hdue

end

/-- A unit that watches is DISARMED at once; the disarms that wait for it stay. -/
theorem State.disarmUnit_of_watching {s : State} {c : Nat} (hstate : s.acqState c = 2) :
    (s.disarmUnit c).get F.SEP_ACQ_CH_STAT.STATE c = 0 ∧ ((s.disarmUnit c).acqU c).disarmAt = (s.acqU c).disarmAt := by
  rw [State.acqState] at hstate
  simp only [State.disarmUnit, hstate, State.setAcqU_self, State.setAcqU_get, State.get_set_self, Nat.zero_mod, and_self]

/-- A disarm finds the record of a unit on its way: the unit is not armed again after it. -/
theorem State.disarmUnit_of_moving {s : State} {c : Nat} (hstate : s.acqState c = 4) :
    (s.disarmUnit c).get F.SEP_ACQ_CH_STAT.STATE c = 4 ∧ ((s.disarmUnit c).acqU c).disarmWhileMoving = true := by
  rw [State.acqState] at hstate
  simp only [State.disarmUnit, hstate, State.setAcqU_self, State.setAcqU_get, and_self]

/-! ### Configuration (R186) -/

section
variable {s : State} {c v : Nat}

/-- A configuration that is taken, with a buffer of n bytes, written field by field. -/
theorem State.writeAcqCfg_of_taken {n : Nat} (hn : n = if bitsOf v 5 3 = 7 then 0 else 1024 * 2 ^ bitsOf v 5 3)
    (hset : s.acqSettable c = true) (hok : s.acqCfgOk c v = true)
    (hroom : n ≤ s.get F.SEP_ACQ_POOL.FREE (c / 128) + s.acqDepth c) : s.writeAcqCfg c v =
      ((((((s.set F.SEP_ACQ_POOL.FREE (c / 128) (s.get F.SEP_ACQ_POOL.FREE (c / 128) + s.acqDepth c - n)).set
        F.SEP_ACQ_CH_CFG.TYPE c (bitsOf v 0 3)).set F.SEP_ACQ_CH_CFG.REPEAT c (bitsOf v 3 1)).set
        F.SEP_ACQ_CH_CFG.AUTO c (bitsOf v 4 1)).set F.SEP_ACQ_CH_CFG.DEPTH c (bitsOf v 5 3)).set
        F.SEP_ACQ_CH_CFG.DECIM c (bitsOf v 8 4)).set F.SEP_ACQ_CH_CFG.PRE c (bitsOf v 16 16) := by
  subst hn
  unfold State.writeAcqCfg
  exact if_pos (by simpa only [hset, hok, Bool.true_and, decide_eq_true_eq] using hroom)

theorem State.writeAcqCfg_of_refused (hno : s.acqSettable c = false ∨ s.acqCfgOk c v = false) :
    s.writeAcqCfg c v = s.set F.SEP_ACQ_CH_STAT.CFG_REJ c 1 := by
  obtain hno | hno := hno <;> simp [State.writeAcqCfg, hno]

end

/-- Settles O12: each command is one operation on the state after its ticks, chosen by what it finds of the unit and its site. -/
theorem acquisitionComplete : Obligations.AcquisitionComplete := by
  intro e s u hu
  refine ⟨?arm, ?armRefused, ?armDuplicate, ?disarm, ?force, ?eventArm, ?eventDuplicate, ?eventDisarm, ?armDt, ?disarmDt,
    ?disarmMoving, ?config, ?configRefused⟩
  case arm =>
    intro ch hidle hok
    refine ⟨_, exec_acqArmCommand .., ?_⟩
    rw [← hu]
    exact State.armed_of_accepted hidle hok
  case armRefused =>
    intro ch hidle hno
    rw [exec_acqArmCommand, ← hu, State.armUnit_of_refused hidle hno]
  case armDuplicate =>
    intro ch harmed
    rw [exec_acqArmCommand, ← hu, State.armUnit_of_armed harmed, if_neg (by simp)]
  case disarm =>
    intro ch x hsite harmed hlow hhigh
    rw [exec_acqDisarmCommand, ← hu, State.disarmAtDT_of_armed hsite harmed hlow hhigh]
  case force =>
    intro ch
    rw [exec_acqForce, ← hu]
  case eventArm =>
    intro ch hawake hen hidle hok
    exact ⟨_, exec_acqEventArm_of_arm hu hawake hen, State.armed_of_accepted hidle hok⟩
  case eventDuplicate =>
    intro ch hawake hen harmed
    rw [exec_acqEventArm_of_arm hu hawake hen, State.armUnit_of_armed harmed, if_pos rfl]
  case eventDisarm =>
    intro ch hawake hen
    exact exec_acqEventArm_of_disarm hu hawake hen
  case armDt =>
    intro ch d hnone harm hstate hreached hfree
    obtain ⟨hwatch, hseq, hdt⟩ := State.get_armNow u ch.val d
    exact ⟨_, exec_acqArmDt_of_arm hu hnone harm hstate hreached hfree, hwatch, hseq, hdt, State.acqU_armNow u ch.val d⟩
  case disarmDt =>
    intro ch hdue hstate
    refine ⟨_, exec_acqArmDt_of_disarm hu hdue false, ?_⟩
    obtain ⟨hoff, hlist⟩ := State.disarmUnit_of_watching ((State.acqState_setAcqU ..).trans hstate)
    exact ⟨hoff, hlist.trans (by rw [State.setAcqU_self])⟩
  case disarmMoving =>
    intro ch hdue hstate
    exact ⟨_, exec_acqArmDt_of_disarm hu hdue false, State.disarmUnit_of_moving ((State.acqState_setAcqU ..).trans hstate)⟩
  case config =>
    intro ch v n hn hset hok hroom
    refine ⟨_, exec_sepAcqChCfgWrite .., ?_⟩
    rw [← hu, State.writeAcqCfg_of_taken hn hset hok hroom]
    refine ⟨?_, ?_, ?_, ?_, ?_⟩ <;> simp (disch := decide) only [State.get_set_fld, State.get_set_self, bitsOf_mod]
  case configRefused =>
    intro ch v hno
    rw [exec_sepAcqChCfgWrite, ← hu, State.writeAcqCfg_of_refused hno]

end Sys2Proof.Machine
end

section
/-! The triggers of an acquisition unit, and the statement about them (R176, R178–R183). -/

namespace Sys2Proof.Machine

/-! ### Which meaning the dispatch calls -/

theorem exec_sequenceOccurrence (e : Nat) (ch : Chan) (o : SeqOcc) (s : State) :
    exec (.sequenceOccurrence e ch o) s = execSequenceOccurrence e ch o s := rfl

theorem exec_sequenceTimer (e : Nat) (ch : Chan) (s : State) : exec (.sequenceTimer e ch) s = execSequenceTimer e ch s := rfl

theorem exec_privilegedTriggerEval (e : Nat) (ch : Chan) (v : PrivEval) (l : List Crossing) (s : State) :
    exec (.privilegedTriggerEval e ch v l) s = execPrivilegedTriggerEval e ch v l s := rfl

theorem exec_acqAutoTimeout (e : Nat) (ch : Chan) (s : State) : exec (.acqAutoTimeout e ch) s = execAcqAutoTimeout e ch s := rfl

/-! ### What counters, events and the comparator leave of a unit -/

@[simp] theorem State.acqU_count (s : State) (f : Fld) (o : Option Fld) (i blk n c : Nat) :
    (s.count f o i blk n).acqU c = s.acqU c := by
  rw [State.count_rest]
  rfl

@[simp] theorem State.acqU_channelEvent (s : State) (d code c : Nat) : (s.channelEvent d code).acqU c = s.acqU c := by
  unfold State.channelEvent State.fire
  split
  · split <;> rfl
  · rfl

@[simp] theorem State.acqU_evalSeen (s : State) (c : Nat) (v : PrivEval) (d : Nat) : (s.evalSeen c v).acqU d = s.acqU d := by
  unfold State.evalSeen
  split <;> rfl

@[simp] theorem State.acqState_evalSeen (s : State) (c : Nat) (v : PrivEval) (d : Nat) : (s.evalSeen c v).acqState d = s.acqState d :=
  Keeps.get (f := F.SEP_ACQ_CH_STAT.STATE) (State.evalSeen_keeps _ _ (Within.ne (by decide)) (Keeps.refl _ s))

/-- Without a disarm that waits no trigger time is disarmed. -/
theorem AcqUnit.not_disarmed {u : AcqUnit} (hnone : u.disarmAt = []) (t : Nat) : u.disarmed t = false := by
  simp [AcqUnit.disarmed, hnone]

/-! ### A trigger is taken (R182) -/

section
variable (s : State) (c t : Nat) (interp forced : Bool) (seq meas : Nat)

/-- A unit that takes a trigger collects its record. -/
theorem State.acqState_takeTrigger : (s.takeTrigger c t interp forced seq meas).acqState c = 3 := by
  unfold State.takeTrigger
  extract_lets u cyc place tr h s1 s2 s3
  have htaken : s2.acqState c = 3 := State.get_set_self ..
  have hcounted : Keeps (fun k => k != Reg.SEP_ACQ_CH_STAT.ctorIdx) s2 s3 := by
    dsimp only [s3]
    split
    · exact Keeps.refl _ _
    · exact State.count_keeps _ _ _ _ _ (Within.ne (by decide)) (by decide) (by decide) (Keeps.refl _ _)
  exact (Keeps.get (f := F.SEP_ACQ_CH_STAT.STATE) (State.channelEvent_keeps _ _ hcounted)).trans htaken

/-- The trigger that a unit takes is kept for its record. -/
theorem State.trig_takeTrigger : ((s.takeTrigger c t interp forced seq meas).acqU c).trig.map
    (fun r => (r.dt, r.interp, r.forced, r.meas)) = some (t, interp, forced, meas) := by
  unfold State.takeTrigger
  extract_lets u cyc place tr h s1 s2 s3
  have hcounted : s3.acqU c = s2.acqU c := by
    dsimp only [s3]
    split
    · rfl
    · exact State.acqU_count ..
  rw [State.acqU_channelEvent, hcounted, State.acqU_set, State.setAcqU_self]
  rfl

end

/-- A condition trigger is taken by an armed unit that no disarm precedes (R176, R177). -/
theorem State.condTrigger_of_watching {s : State} {c t : Nat} (interp : Bool) (seq meas : Nat) (hstate : s.acqState c = 2)
    (hlive : (s.acqU c).disarmed t = false) : s.condTrigger c t interp seq meas = s.takeTrigger c t interp false seq meas := by
  simp [State.condTrigger, hstate, hlive]

/-! ### Sequence states (R178, R179) -/

/-- A unit that enters sequence state i at DT t counts its occurrences from there. -/
theorem State.enterSeq_enters (s : State) (c i t : Nat) (tdc : Bool) :
    (s.enterSeq c i t tdc).get F.SEP_ACQ_CH_STAT.SEQ c = i % 8 ∧ ((s.enterSeq c i t tdc).acqU c).entry = t ∧
      ((s.enterSeq c i t tdc).acqU c).count = 0 := by
  rw [State.enterSeq, State.setAcqU_self, State.setAcqU_get, State.get_set_self]
  exact ⟨rfl, rfl, rfl⟩

/-- An outcome other than the trigger is the next sequence state. -/
theorem State.seqOutcome_of_state {o : Nat} (ho : o ≠ 8) (s : State) (c i t : Nat) (tdc : Bool) :
    s.seqOutcome c i o t tdc = s.enterSeq c o t tdc := by
  simp [State.seqOutcome, ho]

section
variable {s : State} {c i t : Nat}

/-- An occurrence before the last that sequence state i counts. -/
theorem State.seqCount_of_fewer (tdc : Bool) (hfew : (s.acqU c).count + 1 < s.get F.SEP_ACQ_CH_SEQ.COUNT (8 * c + i)) :
    s.seqCount c i t tdc = s.setAcqU c { s.acqU c with count := (s.acqU c).count + 1 } := by
  unfold State.seqCount
  exact if_pos (hfew.trans_le (le_max_right _ _))

/-- The occurrence that completes a sequence state not before TMIN has the outcome ON_MATCH. -/
theorem State.seqCount_of_match (tdc : Bool) (hstate : s.acqState c = 2)
    (hall : s.get F.SEP_ACQ_CH_SEQ.COUNT (8 * c + i) ≤ (s.acqU c).count + 1)
    (hlate : dtReached t (wrap64 ((s.acqU c).entry + ns (s.get F.SEP_ACQ_CH_TIMER.TMIN (8 * c + i)))) = true) :
    s.seqCount c i t tdc = s.seqOutcome c i (s.get F.SEP_ACQ_CH_SEQ.ON_MATCH (8 * c + i)) t tdc := by
  have hlast : ¬ (s.acqU c).count + 1 < max 1 (s.get F.SEP_ACQ_CH_SEQ.COUNT (8 * c + i)) := by omega
  simp [State.seqCount, State.seqResult, hlast, hstate, hlate]

end

/-- A firing of the event channel that the sequence state of a unit watches is counted with its stamp to 1 ns (R178, R182). -/
theorem exec_sequenceOccurrence_of_event {e n : Nat} {ch : Chan} {ev : EvCh} {s u : State} (hu : u = s.elapse e)
    (hn : n = u.get F.SEP_ACQ_CH_STAT.SEQ ch.val) (hstate : u.acqState ch.val = 2) (htype : u.get F.SEP_ACQ_CH_CFG.TYPE ch.val = 0)
    (hcond : u.get F.SEP_ACQ_CH_SEQ.COND (8 * ch.val + n) = 4) (hev : u.get F.SEP_ACQ_CH_SEQ.EVCH (8 * ch.val + n) = ev.val)
    (hlive : (u.acqU ch.val).disarmed (u.stampAt u.now) = false) (hintime : u.drew.pastTmax ch.val n (u.stampAt u.now) = false) :
    exec (.sequenceOccurrence e ch (.event ev)) s = .next (u.drew.seqCount ch.val n (u.stampAt u.now) false) := by
  have hmatch : u.seqMatches ch.val n (.event ev) = true := by simp [State.seqMatches, hcond, hev]
  subst hu hn
  simp [exec_sequenceOccurrence, execSequenceOccurrence, State.seqSeen, State.seqStamp, hstate, htype, hmatch, hlive, hintime]

/-! ### The timers of a sequence state (R179) -/

section
variable {e k : Nat} {ch : Chan} {s u : State} (hu : u = s.elapse e) (hk : k = 8 * ch.val + u.get F.SEP_ACQ_CH_STAT.SEQ ch.val)
  (hstate : u.acqState ch.val = 2) (htype : u.get F.SEP_ACQ_CH_CFG.TYPE ch.val = 0) (hnone : (u.acqU ch.val).disarmAt = [])
include hu hk hstate htype hnone

theorem exec_sequenceTimer_of_tmax (hcond : u.get F.SEP_ACQ_CH_SEQ.COND k ≠ 6) (hset : u.get F.SEP_ACQ_CH_TIMER.TMAX k ≠ 0)
    (hreached : u.reached (wrap64 ((u.acqU ch.val).entry + ns (u.get F.SEP_ACQ_CH_TIMER.TMAX k))) = true) :
    exec (.sequenceTimer e ch) s = .next (u.seqOutcome ch.val (u.get F.SEP_ACQ_CH_STAT.SEQ ch.val) (u.get F.SEP_ACQ_CH_SEQ.ON_TMO k)
      (wrap64 ((u.acqU ch.val).entry + ns (u.get F.SEP_ACQ_CH_TIMER.TMAX k))) (u.acqU ch.val).entryTdc) := by
  subst hu hk
  simp [exec_sequenceTimer, execSequenceTimer, hstate, htype, hcond, hset, hreached, AcqUnit.not_disarmed hnone]

/-- A sequence state of COND 6 is left when it has lasted TMIN. -/
theorem exec_sequenceTimer_of_tmin (hcond : u.get F.SEP_ACQ_CH_SEQ.COND k = 6)
    (hreached : u.reached (wrap64 ((u.acqU ch.val).entry + ns (u.get F.SEP_ACQ_CH_TIMER.TMIN k))) = true) :
    exec (.sequenceTimer e ch) s = .next (u.seqOutcome ch.val (u.get F.SEP_ACQ_CH_STAT.SEQ ch.val) (u.get F.SEP_ACQ_CH_SEQ.ON_MATCH k)
      (wrap64 ((u.acqU ch.val).entry + ns (u.get F.SEP_ACQ_CH_TIMER.TMIN k))) (u.acqU ch.val).entryTdc) := by
  subst hu hk
  simp [exec_sequenceTimer, execSequenceTimer, hstate, htype, hcond, hreached, AcqUnit.not_disarmed hnone]

end

/-! ### Privileged triggers (R180, R181) -/

/-- A unit whose last evaluation started at DT d. -/
def State.startedAt (s : State) (c d : Nat) : State := s.setAcqU c { s.acqU c with lastStart := some d }

section
variable {e : Nat} {ch : Chan} {v : PrivEval} {l : List Crossing} {j : PrivJudged} {s u : State} (hu : u = s.elapse e)
include hu

theorem exec_privilegedTriggerEval_of_unjudged (hjudge : (u.evalSeen ch.val v).judge ch.val v l = none) :
    exec (.privilegedTriggerEval e ch v l) s = .next (u.evalSeen ch.val v) := by
  subst hu
  simp [exec_privilegedTriggerEval, execPrivilegedTriggerEval, hjudge]

/-- An evaluation that starts 32 ns or more after the last one is judged. -/
theorem exec_privilegedTriggerEval_of_judged (hjudge : (u.evalSeen ch.val v).judge ch.val v l = some j) (harmed : u.acqState ch.val ≠ 0)
    (hstart : ∀ d, (u.acqU ch.val).lastStart = some d → dtReached j.start (wrap64 (d + ns 32)) = true) :
    exec (.privilegedTriggerEval e ch v l) s = .next (if j.met then
      ((u.evalSeen ch.val v).startedAt ch.val j.start).condTrigger ch.val j.trig true
        (((u.evalSeen ch.val v).startedAt ch.val j.start).get F.SEP_ACQ_CH_STAT.SEQ ch.val) j.q
      else (u.evalSeen ch.val v).startedAt ch.val j.start) := by
  subst hu
  rw [exec_privilegedTriggerEval]
  unfold execPrivilegedTriggerEval
  simp only [hjudge, State.acqU_evalSeen, State.acqState_evalSeen, beq_iff_eq, harmed, if_false]
  cases hlast : ((s.elapse e).acqU ch.val).lastStart with
  | none => simp [State.startedAt]
  | some d => simp [hstart d hlast, State.startedAt]

end

/-- What a unit measures of a pair of crossings once the second has come (R180). -/
theorem State.judge_of_pair {s : State} {c : Nat} {a b : Crossing} {l : List Crossing}
    (hpair : pairMeasured (s.get F.SEP_ACQ_CH_CFG.TYPE c) (s.get F.SEP_ACQ_CH_PARAM0.EDGE c) a b l = true)
    (hreached : s.reached (wrap64 b.dt) = true) : s.judge c (.pair a b) l =
      some { start := wrap64 a.dt, trig := wrap64 b.dt, q := wrap64 (wrap64 b.dt + 2 ^ 64 - wrap64 a.dt),
             met := s.relation c (wrap64 (wrap64 b.dt + 2 ^ 64 - wrap64 a.dt)) } := by
  simp [State.judge, hpair, hreached]

/-! ### Forced triggers (R183) -/

theorem State.forcedDue_of_force {s : State} {c f : Nat} (hforce : (s.acqU c).forceAt = [f])
    (hman : s.flag F.SEP_ACQ_CH_CFG.AUTO c = false) (hreached : s.reached f = true) (hlive : (s.acqU c).disarmed f = false) :
    s.forcedDue c = [f] := by
  simp [State.forcedDue, hforce, hman, hreached, hlive]

theorem State.forcedDue_of_auto {s : State} {c a : Nat}
    (ha : a = wrap64 ((s.acqU c).autoFrom + us (max 1 (s.get F.SEP_ACQ_CH_AUTO.US c)))) (hforce : (s.acqU c).forceAt = [])
    (hauto : s.flag F.SEP_ACQ_CH_CFG.AUTO c = true) (hreached : s.reached a = true) (hlive : (s.acqU c).disarmed a = false) :
    s.forcedDue c = [a] := by
  subst ha
  simp [State.forcedDue, hforce, hauto, hreached, hlive]

/-- An armed unit takes the earliest forced trigger that is due, and the FORCEs that are due are spent. -/
theorem exec_acqAutoTimeout_of_due {e d : Nat} {ch : Chan} {s u : State} (hu : u = s.elapse e) (hstate : u.acqState ch.val = 2)
    (hdue : earliest (u.forcedDue ch.val) = some d) : exec (.acqAutoTimeout e ch) s =
      .next ((u.setAcqU ch.val { u.acqU ch.val with forceAt := (u.acqU ch.val).forceAt.filter (fun d => !u.reached d) }).takeTrigger
        ch.val d false true (u.get F.SEP_ACQ_CH_STAT.SEQ ch.val) 0) := by
  subst hu
  simp [exec_acqAutoTimeout, execAcqAutoTimeout, hstate, hdue]

/-- Settles O13: each command judges what occurred by the state of the unit after its ticks, and counts it, enters a sequence state
or takes the trigger. -/
theorem triggerComplete : Obligations.TriggerComplete := by
  intro e s u hu
  refine ⟨?counted, ?matched, ?tmax, ?tmin, ?privileged, ?unmet, ?unjudged, ?pair, ?force, ?auto, ?forced⟩
  case counted =>
    intro ch ev n o ho hn hstate htype hcond hev hlive hintime hfew
    subst ho
    rw [exec_sequenceOccurrence_of_event hu hn hstate htype hcond hev hlive hintime]
    exact congrArg _ (State.seqCount_of_fewer false hfew)
  case matched =>
    intro ch ev n m o ho hn hm hstate htype hcond hev hlive hintime hall hnext hlate
    subst ho hm
    refine ⟨_, exec_sequenceOccurrence_of_event hu hn hstate htype hcond hev hlive hintime, ?_⟩
    have hentered : u.drew.seqCount ch.val n (u.stampAt u.now) false =
        u.drew.enterSeq ch.val (u.get F.SEP_ACQ_CH_SEQ.ON_MATCH (8 * ch.val + n)) (u.stampAt u.now) false :=
      (State.seqCount_of_match (s := u.drew) false hstate hall hlate).trans (State.seqOutcome_of_state hnext ..)
    rw [hentered]
    exact State.enterSeq_enters ..
  case tmax =>
    intro ch k hk hstate htype hcond hset hreached hnone
    exact exec_sequenceTimer_of_tmax hu hk hstate htype hnone hcond hset hreached
  case tmin =>
    intro ch k i hi hk hstate htype hcond hnext hreached hnone
    subst hi
    refine ⟨_, exec_sequenceTimer_of_tmin hu hk hstate htype hnone hcond hreached, ?_⟩
    rw [State.seqOutcome_of_state hnext]
    exact State.enterSeq_enters ..
  case privileged =>
    intro ch v l j hstate hjudge hmet hlive hstart
    refine ⟨_, exec_privilegedTriggerEval_of_judged hu hjudge (by omega) hstart, ?_⟩
    have hwatching : ((u.evalSeen ch.val v).startedAt ch.val j.start).acqState ch.val = 2 := by
      rw [State.startedAt, State.acqState_setAcqU, State.acqState_evalSeen, hstate]
    have hundisarmed : (((u.evalSeen ch.val v).startedAt ch.val j.start).acqU ch.val).disarmed j.trig = false := by
      rw [State.startedAt, State.setAcqU_self, State.acqU_evalSeen]
      exact hlive
    rw [if_pos hmet, State.condTrigger_of_watching _ _ _ hwatching hundisarmed]
    exact ⟨State.acqState_takeTrigger .., State.trig_takeTrigger ..⟩
  case unmet =>
    intro ch v l j harmed hjudge hmet hstart
    rw [exec_privilegedTriggerEval_of_judged hu hjudge harmed hstart, if_neg (by simp [hmet]), State.startedAt, State.acqU_evalSeen]
  case unjudged =>
    intro ch v l hjudge
    exact exec_privilegedTriggerEval_of_unjudged hu hjudge
  case pair =>
    intro ch a b l q hq hpair hreached
    subst hq
    exact State.judge_of_pair hpair hreached
  case force =>
    intro ch f hstate hforce hman hreached hlive
    have hdue : earliest (u.forcedDue ch.val) = some f := congrArg earliest (State.forcedDue_of_force hforce hman hreached hlive)
    rw [exec_acqAutoTimeout_of_due hu hstate hdue, hforce]
    simp [hreached]
  case auto =>
    intro ch a ha hforce hauto hreached hlive
    exact congrArg earliest (State.forcedDue_of_auto ha hforce hauto hreached hlive)
  case forced =>
    intro ch d hstate hdue
    exact ⟨_, exec_acqAutoTimeout_of_due hu hstate hdue, State.acqState_takeTrigger .., State.trig_takeTrigger ..⟩

end Sys2Proof.Machine
end

section
/-! The history, the records and the ring of an acquisition unit, and the statement about them (R176, R184, R185, R187, R188). -/

namespace Sys2Proof.Machine

/-! ### Which meaning the dispatch calls -/

theorem exec_historySample (e : Nat) (ch : Chan) (w : Fin 8) (s : State) :
    exec (.historySample e ch w) s = execHistorySample e ch w s := rfl

theorem exec_postTriggerComplete (e : Nat) (ch : Chan) (s : State) :
    exec (.postTriggerComplete e ch) s = execPostTriggerComplete e ch s := rfl

theorem exec_acqRecordArrival (e : Nat) (ch : Chan) (tag : Site) (s : State) :
    exec (.acqRecordArrival e ch tag) s = execAcqRecordArrival e ch tag s := rfl

theorem exec_acqRingRdWrite (e : Nat) (x : Site) (v : Word32) (s : State) :
    exec (.acqRingRdWrite e x v) s = .next ((s.elapse e).writeAcqRd x.val v.toNat) := rfl

/-! ### History samples (R184, R185) -/

/-- Before the trigger a sample goes to the end of the history, which keeps the last PRE samples and the newest. -/
theorem State.pre_storeSample_of_untriggered {s : State} {c : Nat} (w : Nat) (done : Bool) (hnone : (s.acqU c).trig = none) :
    ((s.storeSample c w done).acqU c).pre =
      ((s.acqU c).pre ++ [w]).drop ((s.acqU c).pre.length - s.get F.SEP_ACQ_CH_CFG.PRE c) := by
  simp only [State.storeSample, hnone, State.setAcqU_self]

/-- The history interval of a unit that watches ends, and no HOLD has been resumed in it. -/
theorem exec_historySample_of_ended {e i : Nat} {ch : Chan} {w : Fin 8} {s u : State} (hu : u = s.elapse e)
    (hslice : u.chanSlice ch.val = some i) (hstate : u.acqState ch.val = 2) (hseen : w.val ≠ 0) (hplays : (u.slice i).playing = true)
    (hnone : (u.acqU ch.val).trig = none)
    (hended : ((u.acqU ch.val).nextSample + 1) * 2 ^ u.get F.SEP_ACQ_CH_CFG.DECIM ch.val < (u.slice i).vidx)
    (hheld : (u.slice i).resumes = (u.acqU ch.val).resumes) : exec (.historySample e ch w) s =
      .next ((u.storeSample ch.val w.val true).setAcqU ch.val { (u.storeSample ch.val w.val true).acqU ch.val with
        nextSample := (u.acqU ch.val).nextSample + 1, resumes := (u.acqU ch.val).resumes }) := by
  subst hu
  simp [exec_historySample, execHistorySample, hslice, hstate, hseen, hplays, hnone, hended, hheld]

/-! ### The end of a record (R185) -/

section
variable {e : Nat} {ch : Chan} {tr : Trigger} {s u : State} (hu : u = s.elapse e) (hstate : u.acqState ch.val = 3)
  (htrig : (u.acqU ch.val).trig = some tr)
include hu hstate htrig

theorem exec_postTriggerComplete_of_full (hsample : (u.acqU ch.val).tsamp.isSome = true)
    (hfull : (u.acqU ch.val).post.length = u.acqPost ch.val) :
    exec (.postTriggerComplete e ch) s = .next (u.set F.SEP_ACQ_CH_STAT.STATE ch.val 4) := by
  subst hu
  simp [exec_postTriggerComplete, execPostTriggerComplete, hstate, htrig, hsample, hfull]

theorem exec_postTriggerComplete_of_over (hplayed : tr.noplay = false) (hshort : (u.acqU ch.val).post.length ≠ u.acqPost ch.val)
    (hover : u.playOver ch.val = true) : exec (.postTriggerComplete e ch) s = .next (u.cutRecord ch.val) := by
  subst hu
  simp [exec_postTriggerComplete, execPostTriggerComplete, hstate, htrig, hplayed, hshort, hover]

end

/-- A record that is cut short is moved, and says so. -/
theorem State.cutRecord_truncates (s : State) (c : Nat) :
    (s.cutRecord c).get F.SEP_ACQ_CH_STAT.STATE c = 4 ∧ ((s.cutRecord c).acqU c).trunc = true := by
  unfold State.cutRecord
  extract_lets u noplay s1
  have hmoving : s1.get F.SEP_ACQ_CH_STAT.STATE c = 4 := State.get_set_self ..
  split
  · rw [State.setAcqU_get, State.setAcqU_self]
    exact ⟨hmoving, rfl⟩
  · rw [State.setAcqU_get, State.setAcqU_self]
    exact ⟨hmoving, rfl⟩

/-! ### Records and the ring (R16, R188) -/

section
variable {e y : Nat} {ch : Chan} {x : Site} {tr : Trigger} {s u : State} (hu : u = s.elapse e) (hstate : u.acqState ch.val = 4)
  (htrig : (u.acqU ch.val).trig = some tr) (hsite : u.chanSite ch.val = some y)
include hu hstate htrig hsite

theorem exec_acqRecordArrival_of_home (htag : x.val = y) (hhome : u.proxy x.val = false) : exec (.acqRecordArrival e ch x) s =
    .next ((u.acqToRing x.val (u.acqRecord ch.val x.val (u.acqU ch.val) tr false)).afterRecord ch.val) := by
  subst hu htag
  simp [exec_acqRecordArrival, execAcqRecordArrival, hstate, htrig, hsite, hhome]

theorem exec_acqRecordArrival_of_mismatch (htag : x.val ≠ y) : exec (.acqRecordArrival e ch x) s =
    .next ((u.faultSite 16 F.SEP_ACQ_FAULT_STAT.TAG_MISMATCH 0 y 5).afterRecord ch.val) := by
  subst hu
  simp [exec_acqRecordArrival, execAcqRecordArrival, hstate, htrig, hsite, htag]

end

section
variable {s : State} {x v : Nat}

theorem State.writeAcqRd_of_ok (hok : rdOk (s.get F.SEP_ACQ_RING_RD.POS x) (s.get F.SEP_ACQ_RING_WR.POS x) v = true) :
    s.writeAcqRd x v = s.set F.SEP_ACQ_RING_RD.POS x v := if_pos hok

theorem State.writeAcqRd_of_beyond (hno : rdOk (s.get F.SEP_ACQ_RING_RD.POS x) (s.get F.SEP_ACQ_RING_WR.POS x) v = false) :
    s.writeAcqRd x v = s := if_neg (Bool.eq_false_iff.1 hno)

end

/-- Settles O14: each command stores one sample, closes or moves one record, or sets the read position of the ring. -/
theorem historyComplete : Obligations.HistoryComplete := by
  intro e s u hu
  refine ⟨?sample, ?full, ?cut, ?record, ?mismatch, ?ring, ?ringBeyond⟩
  case sample =>
    intro ch w i hslice hstate hseen hplays hnone hended hheld
    refine ⟨_, exec_historySample_of_ended hu hslice hstate hseen hplays hnone hended hheld, ?_⟩
    have hpre := State.pre_storeSample_of_untriggered w.val true hnone
    exact ⟨congrArg AcqUnit.nextSample (State.setAcqU_self ..), (congrArg AcqUnit.pre (State.setAcqU_self ..)).trans hpre⟩
  case full =>
    intro ch tr hstate htrig hsample hfull
    exact exec_postTriggerComplete_of_full hu hstate htrig hsample hfull
  case cut =>
    intro ch tr hstate htrig hplayed hshort hover
    exact ⟨_, exec_postTriggerComplete_of_over hu hstate htrig hplayed hshort hover, State.cutRecord_truncates ..⟩
  case record =>
    intro ch x tr hstate htrig hsite hhome
    exact exec_acqRecordArrival_of_home hu hstate htrig hsite rfl hhome
  case mismatch =>
    intro ch x y tr hstate htrig hsite htag
    exact exec_acqRecordArrival_of_mismatch hu hstate htrig hsite htag
  case ring =>
    intro x v hok
    rw [exec_acqRingRdWrite, ← hu, State.writeAcqRd_of_ok hok]
  case ringBeyond =>
    intro x v hno
    rw [exec_acqRingRdWrite, ← hu, State.writeAcqRd_of_beyond hno]

end Sys2Proof.Machine
end

section
/-! Device time, the discipline, the crystal and the pulses of Umber, and the statements about them (R202–R209). -/

namespace Sys2Proof.Machine

/-! ### Which meaning the dispatch calls -/

theorem exec_umbDtRead (e : Nat) (a : Agent) (s : State) :
    exec (.umbDtRead e a) s = .next ((s.elapse e).readDt a) := rfl

theorem exec_referenceLock (e err : Nat) (s : State) :
    exec (.referenceLock e err) s = execReferenceLock e s err := rfl

theorem exec_referenceLoss (e edge err : Nat) (s : State) :
    exec (.referenceLoss e edge err) s = execReferenceLoss e s edge err := rfl

theorem exec_referenceReturn (e : Nat) (s : State) :
    exec (.referenceReturn e) s = execReferenceReturn e s := rfl

theorem exec_xtalTempRead (e : Nat) (temp : BitVec 16) (s : State) :
    exec (.xtalTempRead e temp) s = execXtalTempRead e temp s := rfl

theorem exec_umbAgeIncrement (e : Nat) (s : State) :
    exec (.umbAgeIncrement e) s = execUmbAgeIncrement e s := rfl

theorem exec_ppsInEdge (e : Nat) (s : State) :
    exec (.ppsInEdge e) s = execPpsInEdge e s := rfl

theorem exec_ppsOutRise (e : Nat) (s : State) :
    exec (.ppsOutRise e) s = execPpsOutRise e s := rfl

/-! ### Device time (R202) -/

/-- The wraps that e ticks make are counted, where VAUX is good. -/
theorem State.era_elapse (s : State) (e : Nat) (hvaux : s.pwr.vauxGood = true) :
    (s.elapse e).get F.UMB_ERA.ERA 0 = (s.get F.UMB_ERA.ERA 0 + (s.now + e) / 2 ^ 64) % 2 ^ 32 := by
  simp only [State.elapse, hvaux, if_true]
  exact State.get_set_self ..

/-- Extended time counts ticks modulo 2^96. -/
theorem State.extTime_elapse (s : State) (e : Nat) (hvaux : s.pwr.vauxGood = true) :
    (s.elapse e).extTime = (s.extTime + e) % 2 ^ 96 := by
  unfold State.extTime
  rw [State.era_elapse s e hvaux, State.elapse_now s e hvaux]
  omega

/-- A difference of DTs is the distance modulo 2^64, read as two's complement. -/
theorem dtDiff_eq (a b : Nat) (ha : a < 2 ^ 64) :
    dtDiff a b = if (b + 2 ^ 64 - a) % 2 ^ 64 < 2 ^ 63 then (((b + 2 ^ 64 - a) % 2 ^ 64 : Nat) : Int)
      else (((b + 2 ^ 64 - a) % 2 ^ 64 : Nat) : Int) - 2 ^ 64 := by
  simp only [dtDiff, toInt, wrap64, Nat.mod_eq_of_lt ha, Nat.mod_mod]
  rfl

/-- A read of the low word of UMB_DT answers it and latches the high word for its agent, and the era. -/
theorem State.readDt_latches (s : State) (a : Agent) : (s.readDt a).readData = s.now % 2 ^ 32 ∧
    (Tab.get {} (s.readDt a).shadows a.num).rd = some (umbDtAddr, s.now / 2 ^ 32) ∧
    (s.readDt a).get F.UMB_ERA_LATCH.ERA 0 = s.get F.UMB_ERA.ERA 0 % 2 ^ 32 := by
  refine ⟨rfl, ?_, State.get_set_self ..⟩
  simp [State.readDt, State.latchHigh]

/-! ### Discipline (R205, R206) -/

/-- A producer that fires touches no register. -/
theorem State.get_fire (s : State) (p : Nat) (f : Fld) (i : Nat) : (s.fire p).get f i = s.get f i :=
  Keeps.get (State.fire_keeps p (Keeps.refl _ s))

theorem State.state_umberTo (s : State) (st : Nat) : (s.umberTo st).get F.UMB_STAT.STATE 0 = st % 8 := by
  unfold State.umberTo
  extract_lets s1
  have hstate : s1.get F.UMB_STAT.STATE 0 = st % 8 := State.get_set_self ..
  split
  · rw [State.get_fire, hstate]
  · exact hstate

section
variable {s : State} {err edge : Nat}

/-- The lock condition of each source. -/
theorem State.lockMet_of_source (hmet : (s.get F.UMB_CFG.SRC 0 = 1 ∧ err < 1000 ∧ s.reached (wrap64 (s.umb.refAt + 10 * second)) = true) ∨
    (s.get F.UMB_CFG.SRC 0 = 2 ∧ 3 ≤ s.umb.ppsGood) ∨ (s.get F.UMB_CFG.SRC 0 = 3 ∧ s.timeHolds = true)) : s.lockMet err = true := by
  unfold State.lockMet
  obtain ⟨hsrc, herr, hlong⟩ | ⟨hsrc, hgood⟩ | ⟨hsrc, hholds⟩ := hmet
  · simp [hsrc, herr, hlong]
  · simp [hsrc, hgood]
  · simp [hsrc, hholds]

/-- What tells that each source is lost. -/
theorem State.lossMet_of_source (hmet : (s.get F.UMB_CFG.SRC 0 = 1 ∧ (s.reached (wrap64 (edge + us 1)) = true ∨ 20000000 < err)) ∨
    (s.get F.UMB_CFG.SRC 0 = 2 ∧ ∀ d, s.umb.ppsAt = some d → s.reached (wrap64 (d + second + us 1000 + 1)) = true) ∨
    (s.get F.UMB_CFG.SRC 0 = 3 ∧ s.upstream = none)) : s.lossMet edge err = true := by
  unfold State.lossMet
  obtain ⟨hsrc, hlost⟩ | ⟨hsrc, hlate⟩ | ⟨hsrc, hnone⟩ := hmet
  · simpa [hsrc] using hlost
  · cases hpps : s.umb.ppsAt with
    | none => simp [hsrc]
    | some d => simpa [hsrc] using hlate d hpps
  · simp [hsrc, hnone]

end

theorem exec_referenceLock_of_met {e err : Nat} {s u : State} (hu : u = s.elapse e) (hstate : u.get F.UMB_STAT.STATE 0 = 1)
    (hmet : u.lockMet err = true) : exec (.referenceLock e err) s = .next ((u.umberTo 2).set F.UMB_STAT.REF_OK 0 1) := by
  subst hu
  simp [exec_referenceLock, execReferenceLock, hstate, hmet]

theorem exec_referenceLoss_of_met {e edge err : Nat} {s u : State} (hu : u = s.elapse e)
    (hstate : u.get F.UMB_STAT.STATE 0 = 1 ∨ u.get F.UMB_STAT.STATE 0 = 2) (hmet : u.lossMet edge err = true) :
    exec (.referenceLoss e edge err) s = .next u.holdover := by
  subst hu
  simp [exec_referenceLoss, execReferenceLoss, hstate, hmet]

/-- A source that is there, first or again, is acquired. -/
theorem exec_referenceReturn_of_local {e : Nat} {s u : State} (hu : u = s.elapse e) (hsrc : u.get F.UMB_CFG.SRC 0 ≠ 0)
    (hlocal : u.get F.UMB_CFG.SRC 0 ≠ 3) (hstate : u.get F.UMB_STAT.STATE 0 = 0 ∨ u.get F.UMB_STAT.STATE 0 = 3) :
    exec (.referenceReturn e) s = .next
      (({ u with umb := { u.umb with refAt := u.now, ppsGood := 0 } }.umberTo 1).set F.UMB_STAT.REF_OK 0 1) := by
  subst hu
  simp [exec_referenceReturn, execReferenceReturn, hsrc, hlocal, hstate]

/-- Umber in a state with its reference there. -/
theorem State.get_referenceOk (s : State) (st : Nat) :
    ((s.umberTo st).set F.UMB_STAT.REF_OK 0 1).get F.UMB_STAT.STATE 0 = st % 8 ∧
      ((s.umberTo st).set F.UMB_STAT.REF_OK 0 1).get F.UMB_STAT.REF_OK 0 = 1 :=
  ⟨(State.get_set_fld _ _ _ _ _ _ (by decide)).trans (State.state_umberTo s st), State.get_set_self ..⟩

theorem State.get_holdover (s : State) : s.holdover.get F.UMB_STAT.STATE 0 = 3 ∧ s.holdover.get F.UMB_STAT.REF_OK 0 = 0 ∧
    s.holdover.get F.UMB_FAULT_STAT.REF_LOST 0 = 1 := by
  unfold State.holdover State.raiseC
  refine ⟨?_, ?_, State.get_set_self ..⟩
  · rw [State.get_set_fld _ _ _ _ _ _ (by decide), State.get_set_fld _ _ _ _ _ _ (by decide), State.state_umberTo]
  · rw [State.get_set_fld _ _ _ _ _ _ (by decide), State.get_set_self]
    rfl

/-! ### The crystal (R203, R204, R207) -/

theorem exec_xtalFail (e : Nat) (s : State) : exec (.xtalFail e) s = .next
    ((((s.elapse e).set F.UMB_STAT.BACKUP 0 1).set F.UMB_FAULT_STAT.XTAL_FAIL 0 1).enterSafe 16) := rfl

/-- A correction leaves the latest conversion alone, and its instant. -/
theorem State.correct_keeps_temp (s : State) : s.correct.get F.UMB_XTAL_TEMP.TEMP 0 = s.get F.UMB_XTAL_TEMP.TEMP 0 ∧
    s.correct.umb.tempAt = s.umb.tempAt := by
  refine ⟨Keeps.get (State.correct_keeps (Within.ne (by decide)) (Keeps.refl _ s)), ?_⟩
  unfold State.correct
  extract_lets d s0 c k s1
  split <;> rfl

theorem exec_xtalTempRead_of_first {e : Nat} {temp : BitVec 16} {s u : State} (hu : u = s.elapse e) (hfirst : u.umb.tempAt = none) :
    exec (.xtalTempRead e temp) s = .next
      (({ u with umb := { u.umb with tempAt := some u.now } }.set F.UMB_XTAL_TEMP.TEMP 0 temp.toNat).correct) := by
  subst hu
  rw [exec_xtalTempRead, execXtalTempRead]
  exact if_pos (by simp only [hfirst])

theorem exec_umbAgeIncrement_of_due {e : Nat} {s u : State} (hu : u = s.elapse e) (hfuse : u.get F.UMB_AGE.BLOCKS 0 < 128)
    (hdue : u.umb.agedAt + ((1024 * 3600 * second : Nat) : Int) ≤ u.extTime) : exec (.umbAgeIncrement e) s = .next
      ({ u with umb := { u.umb with agedAt := u.umb.agedAt + ((1024 * 3600 * second : Nat) : Int) } }.set F.UMB_AGE.BLOCKS 0
        (u.get F.UMB_AGE.BLOCKS 0 + 1)) := by
  subst hu
  rw [exec_umbAgeIncrement, execUmbAgeIncrement]
  exact if_pos (by rw [decide_eq_true hfuse, decide_eq_true hdue]; rfl)

/-! ### Station time (R208, R209) -/

/-- Three marks in a row within 50 ns of a whole second are enough for lock, and their count stops there. -/
theorem State.ppsGood_markSecond_of_near {s : State} (hnear : (s.stationTime + 400000) % (second : Int) ≤ 800000) :
    s.markSecond.umb.ppsGood = min 3 (s.umb.ppsGood + 1) := if_pos hnear

theorem State.ppsGood_markSecond_of_off {s : State} (hoff : ¬ (s.stationTime + 400000) % (second : Int) ≤ 800000) :
    s.markSecond.umb.ppsGood = 0 := if_neg hoff

/-- Every edge of PPS_IN is stamped, whatever the discipline then does with it. -/
theorem exec_ppsInEdge_stamps {e : Nat} {s u : State} (hu : u = s.elapse e) :
    gives (.ppsInEdge e) s (fun t => t.get F.UMB_PPS_DT.DT 0 = u.now % 2 ^ 64) := by
  subst hu
  refine ⟨_, rfl, ?_⟩
  have hstamped : (((s.elapse e).markSecond.set F.UMB_PPS_DT.DT 0 (s.elapse e).now).fire 1457).get F.UMB_PPS_DT.DT 0 =
      (s.elapse e).now % 2 ^ 64 := (State.get_fire ..).trans (State.get_set_self ..)
  split
  · exact (Keeps.get (State.ownOffset_keeps (Within.ne (by decide)) (Keeps.refl _ _))).trans hstamped
  · exact hstamped

theorem exec_ppsInEdge_of_other {e : Nat} {s u : State} (hu : u = s.elapse e) (hother : u.get F.UMB_CFG.SRC 0 ≠ 2) :
    exec (.ppsInEdge e) s = .next ((u.markSecond.set F.UMB_PPS_DT.DT 0 u.now).fire 1457) := by
  subst hu
  simp only [exec_ppsInEdge, execPpsInEdge, hother, if_false]

theorem exec_ppsOutRise_of_first {e : Nat} {s u : State} (hu : u = s.elapse e)
    (hwhole : (u.stationTime + 8000) % 8000000000000 ≤ 16000) (hfirst : u.pins.ppsRise = none) : exec (.ppsOutRise e) s =
    .next (State.fire { u with pins := { u.pins with ppsRise := some u.now } } 1456) := by
  subst hu
  rw [exec_ppsOutRise, execPpsOutRise]
  exact if_pos (by simp only [hfirst, Bool.and_true]; exact decide_eq_true hwhole)

/-! ### The statements -/

/-- Settles O45: device time and UMB_ERA take the low and the high part of one sum, which extended time is. -/
theorem deviceTimeRule : Obligations.DeviceTimeRule := by
  rintro e s u rfl
  refine ⟨?ticks, ?difference, ?read⟩
  case ticks =>
    intro hvaux
    exact ⟨State.elapse_now s e hvaux, State.era_elapse s e hvaux, State.extTime_elapse s e hvaux⟩
  case difference =>
    intro a b ha _
    exact dtDiff_eq a b ha
  case read =>
    intro a
    exact ⟨_, exec_umbDtRead e a s, State.readDt_latches ..⟩

/-- Settles O16: each command reads, moves the discipline, or enters one value of the crystal or of a pulse, on the state after its
ticks. -/
theorem timebaseComplete : Obligations.TimebaseComplete := by
  intro e s u hu
  refine ⟨?wrap, ?read, ?lock, ?loss, ?returns, ?xtalFail, ?temperature, ?age, ?ppsIn, ?near, ?off, ?other, ?ppsOut⟩
  case wrap =>
    rw [hu]
    rfl
  case read =>
    intro a
    obtain ⟨hlow, hhigh, hera⟩ := State.readDt_latches u a
    exact ⟨u.readDt a, by rw [hu, exec_umbDtRead], hera, hlow, hhigh⟩
  case lock =>
    intro err hstate hmet
    exact ⟨_, exec_referenceLock_of_met hu hstate (State.lockMet_of_source hmet), State.get_referenceOk u 2⟩
  case loss =>
    intro edge err hstate hmet
    exact ⟨_, exec_referenceLoss_of_met hu hstate (State.lossMet_of_source hmet), State.get_holdover u⟩
  case returns =>
    intro hsrc hlocal hstate
    exact ⟨_, exec_referenceReturn_of_local hu hsrc hlocal hstate, State.get_referenceOk _ 1⟩
  case xtalFail =>
    refine ⟨_, exec_xtalFail e s, by rw [hu], State.enterSafe_isSafe ..⟩
  case temperature =>
    intro temp hfirst
    obtain ⟨htemp, hat⟩ := State.correct_keeps_temp
      ({ u with umb := { u.umb with tempAt := some u.now } }.set F.UMB_XTAL_TEMP.TEMP 0 temp.toNat)
    exact ⟨_, exec_xtalTempRead_of_first hu hfirst, htemp.trans (State.get_set_self ..), hat⟩
  case age =>
    intro hfuse hdue
    refine ⟨_, exec_umbAgeIncrement_of_due hu hfuse hdue, (State.get_set_self ..).trans (Nat.mod_eq_of_lt ?_)⟩
    exact Nat.lt_of_le_of_lt hfuse (by decide)
  case ppsIn => exact exec_ppsInEdge_stamps hu
  case near => exact State.ppsGood_markSecond_of_near
  case off => exact State.ppsGood_markSecond_of_off
  case other => exact exec_ppsInEdge_of_other hu
  case ppsOut => exact exec_ppsOutRise_of_first hu

end Sys2Proof.Machine
end

section
/-! What every command keeps: the laws of `Laws/Keep*.lean`, one for each meaning that the dispatch calls, together; and the
statement about the history of a step. -/

namespace Sys2Proof.Machine

/-- Every place that a change of registers, memories and outputs may name. -/
def anyPlace : Places := fun _ => true

theorem anyPlace_eq_true (k : Nat) : anyPlace k = true := rfl

/-- From the state before its ticks to the state that it answers, a command leaves the queue alone, gives no free value back, only
adds to what was sent, and keeps the canonical forms. -/
theorem exec_keeps (c : Instr) (s : State) : KeepsOut anyPlace s (exec c s) := by
  have hall := anyPlace_eq_true
  have hw : ∀ m, Within m anyPlace := fun _ => Within.all hall
  have he : ∀ e, Keeps anyPlace s (s.elapse e) := fun e => State.elapse_keeps e (hw _) (Keeps.refl _ s)
  cases c with
  | powerOnReset e testen safeInHigh resetHigh => exact execPowerOnReset_keeps e testen safeInHigh resetHigh hall (he e)
  | vauxUnderVoltage e => exact execVauxUnderVoltage_keeps e hall (he e)
  | railsGood e => exact execRailsGood_keeps e (hw _) (he e)
  | railUnderVoltage e rail => exact execRailUnderVoltage_keeps e rail (hw _) (he e)
  | coreIslandAdmission e => exact execCoreIslandAdmission_keeps e (he e)
  | tileCommonAdmission e => exact execTileCommonAdmission_keeps e (hw _) (he e)
  | ladderRequest e => exact execLadderRequest_keeps e (hw _) (he e)
  | ladderSlot e => exact execLadderSlot_keeps e (hw _) (he e)
  | groupSettleEnd e g failed => exact execGroupSettleEnd_keeps e g failed (hw _) (he e)
  | poweringEnd e => exact execPoweringEnd_keeps e (hw _) (he e)
  | resetNFall e => exact execResetNFall_keeps e (he e)
  | deviceReset e => exact execDeviceReset_keeps e hall (he e)
  | resetNRise e => exact execResetNRise_keeps e hall (he e)
  | devReset e v => exact execDevReset_keeps e v hall (he e)
  | testenHigh e => exact execTestenHigh_keeps e (he e)
  | pwrSleepSet e w v => exact execPwrSleepSet_keeps e w v (hw _) (he e)
  | pwrSleepClr e w v => exact execPwrSleepClr_keeps e w v (hw _) (he e)
  | dormantRequest e => exact execDormantRequest_keeps e (hw _) (he e)
  | dormantEntryComplete e => exact execDormantEntryComplete_keeps e (hw _) (he e)
  | wake e cause => exact execWake_keeps e cause (hw _) (he e)
  | wakeComplete e => exact execWakeComplete_keeps e (hw _) (he e)
  | thermalConversion e temps => exact execThermalConversion_keeps e temps (hw _) (he e)
  | loadStart e copy0 copy1 => exact execLoadStart_keeps e copy0 copy1 (hw _) (he e)
  | slotReadStart e hdr => exact execSlotReadStart_keeps e hdr (hw _) (he e)
  | imageRecordArrival e r => exact execImageRecordArrival_keeps e r (hw _) (he e)
  | dramTrainingComplete e ok => exact execDramTrainingComplete_keeps e ok (hw _) (he e)
  | lastRecordRead e => exact execLastRecordRead_keeps e (hw _) (he e)
  | checksComplete e => exact execChecksComplete_keeps e (hw _) (he e)
  | commit e => exact execCommit_keeps e (hw _) (he e)
  | reload e v => exact execReload_keeps e v (hw _) (he e)
  | precheckComplete e copy0 copy1 images => exact execPrecheckComplete_keeps e copy0 copy1 images (hw _) (he e)
  | reloadTeardown e => exact execReloadTeardown_keeps e (hw _) (he e)
  | fuseProgramKeyHash e v => exact execFuseProgramKeyHash_keeps e v (hw _) (he e)
  | fuseRaiseSecver e v => exact execFuseRaiseSecver_keeps e v (hw _) (he e)
  | fuseOpComplete e => exact execFuseOpComplete_keeps e (hw _) (he e)
  | siteArm e x prog => exact execSiteArm_keeps e x prog (hw _) (he e)
  | siteAbort e x => exact execSiteAbort_keeps e x (hw _) (he e)
  | siteAck e x => exact execSiteAck_keeps e x (hw _) (he e)
  | siteReset e x => exact execSiteReset_keeps e x (hw _) (he e)
  | siteResetRelease e x => exact execSiteResetRelease_keeps e x (hw _) (he e)
  | staleCheck e x => exact execStaleCheck_keeps e x (hw _) (he e)
  | startInstant e x => exact execStartInstant_keeps e x (hw _) (he e)
  | sliceMissedRelease e sl => exact execSliceMissedRelease_keeps e sl (hw _) (he e)
  | stoppingComplete e x => exact execStoppingComplete_keeps e x (hw _) (he e)
  | joinSend e x => exact execJoinSend_keeps e x (hw _) (he e)
  | vectorNext e sl ecc => exact execVectorNext_keeps e sl ecc (hw _) (he e)
  | vectorRepeat e sl ecc => exact execVectorRepeat_keeps e sl ecc (hw _) (he e)
  | loopBegin e sl ecc => exact execLoopBegin_keeps e sl ecc (hw _) (he e)
  | loopEnd e sl ecc => exact execLoopEnd_keeps e sl ecc (hw _) (he e)
  | matchPass e sl ecc => exact execMatchPass_keeps e sl ecc (hw _) (he e)
  | altVector e sl ecc => exact execAltVector_keeps e sl ecc (hw _) (he e)
  | endVector e sl ecc => exact execEndVector_keeps e sl ecc (hw _) (he e)
  | code7 e sl ecc => exact execCode7_keeps e sl ecc (hw _) (he e)
  | granuleCheckPoint e sl => exact execGranuleCheckPoint_keeps e sl (hw _) (he e)
  | holdRelease e x => exact execHoldRelease_keeps e x (hw _) (he e)
  | refillGranuleComplete e sl seg gran col => exact execRefillGranuleComplete_keeps e sl seg gran col (hw _) (he e)
  | sliceReadyReport e sl => exact execSliceReadyReport_keeps e sl (hw _) (he e)
  | resumeRelease e x => exact execResumeRelease_keeps e x (hw _) (he e)
  | segmentAdmission e sl seg ecc => exact execSegmentAdmission_keeps e sl seg ecc (hw _) (he e)
  | queueEntryRelease e sl => exact execQueueEntryRelease_keeps e sl (hw _) (he e)
  | eventJumpRequest e x => exact execEventJumpRequest_keeps e x (hw _) (he e)
  | jumpHonoured e x => exact execJumpHonoured_keeps e x (hw _) (he e)
  | ctrlCrcReport e x => exact execCtrlCrcReport_keeps e x (hw _) (he e)
  | slpJumpCfgWrite e sl v => exact execSlpJumpCfgWrite_keeps e sl v (hw _) (he e)
  | slpLooppreWrite e sl r v => exact execSlpLooppreWrite_keeps e sl r v (hw _) (he e)
  | slpMatchTmoWrite e sl v => exact execSlpMatchTmoWrite_keeps e sl v (hw _) (he e)
  | waveformRead e t => exact execWaveformRead_keeps e t (hw _) (he e)
  | waveformWrite e t => exact execWaveformWrite_keeps e t (hw _) (he e)
  | waveformAccessComplete e t e0 e1 e2 => exact execWaveformAccessComplete_keeps e t e0 e1 e2 (hw _) (he e)
  | wodPeriodWrite e sl set v => exact execWodPeriodWrite_keeps e sl set v (hw _) (he e)
  | wodSliceTsWrite e sl v => exact execWodSliceTsWrite_keeps e sl v (hw _) (he e)
  | wodChCfgWrite e ch v => exact execWodChCfgWrite_keeps e ch v (hw _) (he e)
  | driveEvent e ch => exact execDriveEvent_keeps e ch (hw _) (he e)
  | strobe e ch st => exact execStrobe_keeps e ch st (hw _) (he e)
  | windowEnd e ch dL dM dH => exact execWindowEnd_keeps e ch dL dM dH (hw _) (he e)
  | timingSetRelease e x => exact execTimingSetRelease_keeps e x (hw _) (he e)
  | comparatorSettingWrite e ch r v => exact execComparatorSettingWrite_keeps e ch r v (hw _) (he e)
  | settlingEnd e ch st => exact execSettlingEnd_keeps e ch st (hw _) (he e)
  | sepCmpChMaskWrite e ch v => exact execSepCmpChMaskWrite_keeps e ch v (hw _) (he e)
  | granuleCountsAdd e sl => exact execGranuleCountsAdd_keeps e sl (hw _) (he e)
  | failRecordArrival e sl tag => exact execFailRecordArrival_keeps e sl tag (hw _) (he e)
  | stopDecision e x => exact execStopDecision_keeps e x (hw _) (he e)
  | stopRelease e x => exact execStopRelease_keeps e x (hw _) (he e)
  | captureRingRdWrite e x v => exact execCaptureRingRdWrite_keeps e x v (hw _) (he e)
  | stepWordFetch e x ecc => exact execStepWordFetch_keeps e x ecc (hw _) (he e)
  | stepBoundarySample e x rom => exact execStepBoundarySample_keeps e x rom (hw _) (he e)
  | nop e x => exact execNop_keeps e x (hw _) (he e)
  | play e x => exact execPlay_keeps e x (hw _) (he e)
  | jseg e x => exact execJseg_keeps e x (hw _) (he e)
  | tset e x => exact execTset_keeps e x (hw _) (he e)
  | acq e x => exact execAcq_keeps e x (hw _) (he e)
  | meas e x => exact execMeas_keeps e x (hw _) (he e)
  | mget e x => exact execMget_keeps e x (hw _) (he e)
  | waitev e x => exact execWaitev_keeps e x (hw _) (he e)
  | waitdt e x => exact execWaitdt_keeps e x (hw _) (he e)
  | drain e x => exact execDrain_keeps e x (hw _) (he e)
  | sync e x => exact execSync_keeps e x (hw _) (he e)
  | trimok e x => exact execTrimok_keeps e x (hw _) (he e)
  | jmp e x => exact execJmp_keeps e x (hw _) (he e)
  | call e x => exact execCall_keeps e x (hw _) (he e)
  | ret e x => exact execRet_keeps e x (hw _) (he e)
  | dbnz e x => exact execDbnz_keeps e x (hw _) (he e)
  | ldi e x => exact execLdi_keeps e x (hw _) (he e)
  | addi e x => exact execAddi_keeps e x (hw _) (he e)
  | add e x => exact execAdd_keeps e x (hw _) (he e)
  | sub e x => exact execSub_keeps e x (hw _) (he e)
  | mov e x => exact execMov_keeps e x (hw _) (he e)
  | get e x => exact execGet_keeps e x (hw _) (he e)
  | cmpi e x => exact execCmpi_keeps e x (hw _) (he e)
  | cmp e x => exact execCmp_keeps e x (hw _) (he e)
  | bin e x => exact execBin_keeps e x (hw _) (he e)
  | dlog e x => exact execDlog_keeps e x (hw _) (he e)
  | bustx e x => exact execBustx_keeps e x (hw _) (he e)
  | req e x => exact execReq_keeps e x (hw _) (he e)
  | stop e x => exact execStop_keeps e x (hw _) (he e)
  | eventLatch e x c => exact execEventLatch_keeps e x c (hw _) (he e)
  | waitTimeout e x => exact execWaitTimeout_keeps e x (hw _) (he e)
  | serviceResult e x => exact execServiceResult_keeps e x (hw _) (he e)
  | syncRelease e b => exact execSyncRelease_keeps e b (hw _) (he e)
  | trapFiring e x => exact execTrapFiring_keeps e x (hw _) (he e)
  | trimWindowClose e x => exact execTrimWindowClose_keeps e x (hw _) (he e)
  | sliceEndReport e x => exact execSliceEndReport_keeps e x (hw _) (he e)
  | syncMemberWrite e b w v => exact execSyncMemberWrite_keeps e b w v (hw _) (he e)
  | stepMissedRelease e x => exact execStepMissedRelease_keeps e x (hw _) (he e)
  | acqArmCommand e ch => exact execAcqArmCommand_keeps e ch (hw _) (he e)
  | acqDisarmCommand e ch => exact execAcqDisarmCommand_keeps e ch (hw _) (he e)
  | acqForce e ch => exact execAcqForce_keeps e ch (hw _) (he e)
  | acqEventArm e ch arm => exact execAcqEventArm_keeps e ch arm (hw _) (he e)
  | acqArmDt e ch late => exact execAcqArmDt_keeps e ch late (hw _) (he e)
  | sequenceOccurrence e ch o => exact execSequenceOccurrence_keeps e ch o (hw _) (he e)
  | sequenceTimer e ch => exact execSequenceTimer_keeps e ch (hw _) (he e)
  | privilegedTriggerEval e ch v between => exact execPrivilegedTriggerEval_keeps e ch v between (hw _) (he e)
  | acqAutoTimeout e ch => exact execAcqAutoTimeout_keeps e ch (hw _) (he e)
  | historySample e ch seen => exact execHistorySample_keeps e ch seen (he e)
  | postTriggerComplete e ch => exact execPostTriggerComplete_keeps e ch (hw _) (he e)
  | acqRecordArrival e ch tag => exact execAcqRecordArrival_keeps e ch tag (hw _) (he e)
  | sepAcqChCfgWrite e ch v => exact execSepAcqChCfgWrite_keeps e ch v (hw _) (he e)
  | acqRingRdWrite e x v => exact execAcqRingRdWrite_keeps e x v (hw _) (he e)
  | tiaStart e ch => exact execTiaStart_keeps e ch (hw _) (he e)
  | tiaEnd e ch => exact execTiaEnd_keeps e ch (hw _) (he e)
  | measStartDt e ch late => exact execMeasStartDt_keeps e ch late (hw _) (he e)
  | measSample e ch a b p remote => exact execMeasSample_keeps e ch a b p remote (hw _) (he e)
  | measWindowExpiry e ch a => exact execMeasWindowExpiry_keeps e ch a (hw _) (he e)
  | gateClose e ch edges a b n => exact execGateClose_keeps e ch edges a b n (hw _) (he e)
  | measDone e ch => exact execMeasDone_keeps e ch (hw _) (he e)
  | dtWrap e => exact execDtWrap_keeps e (he e)
  | umbDtRead e a => exact execUmbDtRead_keeps e a (hw _) (he e)
  | referenceLock e err => exact execReferenceLock_keeps e err (hw _) (he e)
  | referenceLoss e edge err => exact execReferenceLoss_keeps e edge err (hw _) (he e)
  | xtalFail e => exact execXtalFail_keeps e (hw _) (he e)
  | ppsInEdge e => exact execPpsInEdge_keeps e (hw _) (he e)
  | ppsOutRise e => exact execPpsOutRise_keeps e (he e)
  | trimStepEnd e q binsOk offsOk delay qf => exact execTrimStepEnd_keeps e q binsOk offsOk delay qf (hw _) (he e)
  | trimCommit e ch => exact execTrimCommit_keeps e ch (hw _) (he e)
  | trimCommitMissed e ch => exact execTrimCommitMissed_keeps e ch (hw _) (he e)
  | channelReturn e ch => exact execChannelReturn_keeps e ch (hw _) (he e)
  | syncPulse e => exact execSyncPulse_keeps e (hw _) (he e)
  | syncPulseReturn e t off => exact execSyncPulseReturn_keeps e t off (hw _) (he e)
  | tskewLost e t => exact execTskewLost_keeps (s₀ := s) e t (hw _) (he e)
  | qualityAgeChange e ch => exact execQualityAgeChange_keeps e ch (hw _) (he e)
  | reflectionRequest e x => exact execReflectionRequest_keeps e x (hw _) (he e)
  | reflectionStep e ch inc ret stamped => exact execReflectionStep_keeps e ch inc ret stamped (hw _) (he e)
  | reflectionEnd e x => exact execReflectionEnd_keeps e x (hw _) (he e)
  | tileLinkUp e t => exact execTileLinkUp_keeps e t (hw _) (he e)
  | frameArrival e l lane bits => exact execFrameArrival_keeps e l lane bits (hw _) (he e)
  | ack e l q => exact execAck_keeps e l q (he e)
  | tileReplayTimeout e t q => exact execTileReplayTimeout_keeps e t q (hw _) (he e)
  | tileLinkDown e t => exact execTileLinkDown_keeps e t (hw _) (he e)
  | portStart e p => exact execPortStart_keeps e p (hw _) (he e)
  | cap e p q body => exact execCap_keeps e p q body (hw _) (he e)
  | portRetry e p => exact execPortRetry_keeps e p (hw _) (he e)
  | rate e p q body => exact execRate_keeps e p q body (hw _) (he e)
  | rateSwitch e p => exact execRateSwitch_keeps e p (hw _) (he e)
  | rateStepEnd e p ok => exact execRateStepEnd_keeps e p ok (hw _) (he e)
  | portReplayTimeout e p q => exact execPortReplayTimeout_keeps e p q (hw _) (he e)
  | portDown e p => exact execPortDown_keeps e p (hw _) (he e)
  | portRetrain e p => exact execPortRetrain_keeps e p (hw _) (he e)
  | portDisable e p => exact execPortDisable_keeps e p (hw _) (he e)
  | timeExchangeStart e p t1 => exact execTimeExchangeStart_keeps e p t1 (hw _) (he e)
  | tsync e p q body full t2 t3 => exact execTsync_keeps e p q body full t2 t3 (hw _) (he e)
  | treq e p q body t4 => exact execTreq_keeps e p q body t4 (hw _) (he e)
  | tresp e p q body => exact execTresp_keeps e p q body (hw _) (he e)
  | tinfo e p q body => exact execTinfo_keeps e p q body (hw _) (he e)
  | upstreamLoss e => exact execUpstreamLoss_keeps e (hw _) (he e)
  | evbc e p body => exact execEvbc_keeps e p body (hw _) (he e)
  | broadcastRelease e c => exact execBroadcastRelease_keeps e c (hw _) (he e)
  | tokenJoin e p q home arg => exact execTokenJoin_keeps e p q home arg (hw _) (he e)
  | tokenJoinres e p q home arg => exact execTokenJoinres_keeps e p q home arg (hw _) (he e)
  | tokenEntry e p q home arg x0 x1 => exact execTokenEntry_keeps e p q home arg x0 x1 (hw _) (he e)
  | tokenStart e p q home x0 => exact execTokenStart_keeps e p q home x0 (hw _) (he e)
  | tokenHold e p q home x0 => exact execTokenHold_keeps e p q home x0 (hw _) (he e)
  | tokenReady e p q home arg x0 => exact execTokenReady_keeps e p q home arg x0 (hw _) (he e)
  | tokenResume e p q home x0 => exact execTokenResume_keeps e p q home x0 (hw _) (he e)
  | tokenJump e p q home arg x0 => exact execTokenJump_keeps e p q home arg x0 (hw _) (he e)
  | tokenStop e p q home x0 => exact execTokenStop_keeps e p q home x0 (hw _) (he e)
  | tokenTset e p q home arg x0 x1 => exact execTokenTset_keeps e p q home arg x0 x1 (hw _) (he e)
  | tokenState e p q home arg x0 => exact execTokenState_keeps e p q home arg x0 (hw _) (he e)
  | tokenReset e p q home x0 => exact execTokenReset_keeps e p q home x0 (hw _) (he e)
  | tokenTrim e p q home arg x0 => exact execTokenTrim_keeps e p q home arg x0 (hw _) (he e)
  | tokenCounts e p q home x0 => exact execTokenCounts_keeps e p q home x0 (hw _) (he e)
  | tokenCcrc e p q home arg x0 => exact execTokenCcrc_keeps e p q home arg x0 (hw _) (he e)
  | record e p q home typ bytes => exact execRecord_keeps e p q home typ bytes (hw _) (he e)
  | busRunWrite e en run => exact execBusRunWrite_keeps e en run (hw _) (he e)
  | busFlush e en => exact execBusFlush_keeps e en (hw _) (he e)
  | busRecover e en => exact execBusRecover_keeps e en (hw _) (he e)
  | phyResetWrite e en held => exact execPhyResetWrite_keeps e en held (hw _) (he e)
  | busTxPost e en v => exact execBusTxPost_keeps e en v (hw _) (he e)
  | payloadRead e en k ecc => exact execPayloadRead_keeps e en k ecc (hw _) (he e)
  | frameStart e en => exact execFrameStart_keeps e en (hw _) (he e)
  | arbitrationLost e en => exact execArbitrationLost_keeps e en (hw _) (he e)
  | frameExpired e en => exact execFrameExpired_keeps e en (hw _) (he e)
  | txWriteBack e en sof eof => exact execTxWriteBack_keeps e en sof eof (hw _) (he e)
  | gateFiring e en => exact execGateFiring_keeps e en (hw _) (he e)
  | frameReceived e en f tag => exact execFrameReceived_keeps e en f tag (hw _) (he e)
  | busError e en code inc => exact execBusError_keeps e en code inc (hw _) (he e)
  | busOffRecovery e en => exact execBusOffRecovery_keeps e en (hw _) (he e)
  | linHeader e en id => exact execLinHeader_keeps e en id (hw _) (he e)
  | linWakeUp e en fell tag => exact execLinWakeUp_keeps e en fell tag (hw _) (he e)
  | mdioCommand e en v => exact execMdioCommand_keeps e en v (hw _) (he e)
  | mdioComplete e data => exact execMdioComplete_keeps e data (hw _) (he e)
  | workItemEnqueue e w delayed due => exact execWorkItemEnqueue_keeps e w delayed due (hw _) (he e)
  | safGet e c own => exact execSafGet_keeps e c own (he e)
  | dispatch e y ecc => exact execDispatch_keeps e y ecc (hw _) (he e)
  | itemComplete e c status nrc v fw => exact execItemComplete_keeps e c status nrc v fw (hw _) (he e)
  | delayDue e => exact execDelayDue_keeps e (hw _) (he e)
  | watchdog e c => exact execWatchdog_keeps e c (hw _) (he e)
  | planStart e x => exact execPlanStart_keeps e x (hw _) (he e)
  | planStop e x => exact execPlanStop_keeps e x (hw _) (he e)
  | planAbort e x => exact execPlanAbort_keeps e x (hw _) (he e)
  | dutEvent e x => exact execDutEvent_keeps e x (hw _) (he e)
  | planTestEnd e x => exact execPlanTestEnd_keeps e x (hw _) (he e)
  | planTimeout e x => exact execPlanTimeout_keeps e x (he e)
  | staleRetry e x => exact execStaleRetry_keeps e x (hw _) (he e)
  | reflEvent e x => exact execReflEvent_keeps e x (hw _) (he e)
  | datalogRecord e x src => exact execDatalogRecord_keeps e x src (hw _) (he e)
  | lost e x => exact execLost_keeps e x (hw _) (he e)
  | udsRequest e c sof eof => exact execUdsRequest_keeps e c sof eof (hw _) (he e)
  | udsSession e c sof eof => exact execUdsSession_keeps e c sof eof (hw _) (he e)
  | security e c ecc sof eof => exact execSecurity_keeps e c ecc sof eof (hw _) (he e)
  | download e c sof eof => exact execDownload_keeps e c sof eof (hw _) (he e)
  | ecuReset e c sof eof => exact execEcuReset_keeps e c sof eof (hw _) (he e)
  | udsResponse e x u r sof eof => exact execUdsResponse_keeps e x u r sof eof (hw _) (he e)
  | p2Expiry e x u => exact execP2Expiry_keeps e x u (hw _) (he e)
  | testerPresent e x u => exact execTesterPresent_keeps e x u (hw _) (he e)
  | keyReply e => exact execKeyReply_keeps e (hw _) (he e)
  | keyTimeout e x u => exact execKeyTimeout_keeps e x u (hw _) (he e)
  | netlistBuild e x => exact execNetlistBuild_keeps e x (hw _) (he e)
  | netlistAnalysis e x => exact execNetlistAnalysis_keeps e x (hw _) (he e)
  | trigInEdge e n => exact execTrigInEdge_keeps e n (he e)
  | evfSwfire e v => exact execEvfSwfire_keeps e v (he e)
  | eventChannelFiring e p => exact execEventChannelFiring_keeps e p (hw _) (he e)
  | heldFiringRelease e c => exact execHeldFiringRelease_keeps e c (hw _) (he e)
  | trigOutPulseEnd e n => exact execTrigOutPulseEnd_keeps e n (he e)
  | timerExpiry e k => exact execTimerExpiry_keeps e k (hw _) (he e)
  | evfTimerCfgWrite e k v => exact execEvfTimerCfgWrite_keeps e k v (hw _) (he e)
  | timerStartFiring e k => exact execTimerStartFiring_keeps e k (hw _) (he e)
  | interruptPending e n => exact execInterruptPending_keeps e n (hw _) (he e)
  | ircClaim e a x => exact execIrcClaim_keeps (s₀ := s) e a x (hw _) (he e)
  | ircComplete e a x n => exact execIrcComplete_keeps e a x n (hw _) (he e)
  | ircMaskWrite e a w v => exact execIrcMaskWrite_keeps e a w v (hw _) (he e)
  | holdoffEnd e g => exact execHoldoffEnd_keeps e g (hw _) (he e)
  | lakOwnerWrite e a b v => exact execLakOwnerWrite_keeps e a b v (hw _) (he e)
  | lakStateWrite e a b v => exact execLakStateWrite_keeps e a b v (hw _) (he e)
  | bankTransitionComplete e b => exact execBankTransitionComplete_keeps e b (hw _) (he e)
  | lakeWrite e a addr data coll => exact execLakeWrite_keeps e a addr data coll (hw _) (he e)
  | lakeSetWrite e a addr data => exact execLakeSetWrite_keeps e a addr data (hw _) (he e)
  | lakeClearWrite e a addr data => exact execLakeClearWrite_keeps e a addr data (hw _) (he e)
  | dmcOpCmd e v => exact execDmcOpCmd_keeps e v (hw _) (he e)
  | opChangeComplete e ok => exact execOpChangeComplete_keeps e ok (hw _) (he e)
  | requestPromotion e k => exact execRequestPromotion_keeps e k (hw _) (he e)
  | pageCloseTimeout e ch bank => exact execPageCloseTimeout_keeps e ch bank (he e)
  | perstN e high => exact execPerstN_keeps e high (hw _) (he e)
  | flr e f => exact execFlr_keeps e f (hw _) (he e)
  | hrgCmdTailWrite e a r v => exact execHrgCmdTailWrite_keeps e a r v (hw _) (he e)
  | descriptorRead e r => exact execDescriptorRead_keeps e r (hw _) (he e)
  | arm e x => exact execArm_keeps e x (hw _) (he e)
  | abort e x => exact execAbort_keeps e x (hw _) (he e)
  | ackCommand e x => exact execAckCommand_keeps e x (hw _) (he e)
  | reset e x => exact execReset_keeps e x (hw _) (he e)
  | setArg e x => exact execSetArg_keeps e x (hw _) (he e)
  | ringPlanStart e x => exact execRingPlanStart_keeps e x (hw _) (he e)
  | ringPlanStop e x => exact execRingPlanStop_keeps e x (hw _) (he e)
  | ringPlanAbort e x => exact execRingPlanAbort_keeps e x (hw _) (he e)
  | reflect e x => exact execReflect_keeps e x (hw _) (he e)
  | tableLoad e x => exact execTableLoad_keeps e x (hw _) (he e)
  | nvmRead e m data => exact execNvmRead_keeps e m data (hw _) (he e)
  | nvmErase e m done => exact execNvmErase_keeps e m done (hw _) (he e)
  | nvmProgram e m done => exact execNvmProgram_keeps e m done (hw _) (he e)
  | todSet e m => exact execTodSet_keeps e m (hw _) (he e)
  | todAdj e m => exact execTodAdj_keeps e m (hw _) (he e)
  | descriptorComplete e r => exact execDescriptorComplete_keeps e r (hw _) (he e)
  | hrgCmdSeenWrite e a r v => exact execHrgCmdSeenWrite_keeps e a r v (hw _) (he e)
  | ringDisable e a r => exact execRingDisable_keeps e a r (hw _) (he e)
  | hrgResRdWrite e x v => exact execHrgResRdWrite_keeps e x v (hw _) (he e)
  | mbxDataWrite e a n w v => exact execMbxDataWrite_keeps e a n w v (hw _) (he e)
  | mbxDoorbell e a n v => exact execMbxDoorbell_keeps e a n v (hw _) (he e)
  | mbxTake e a n ecc => exact execMbxTake_keeps e a n ecc (hw _) (he e)
  | mbxLockRead e a n => exact execMbxLockRead_keeps e a n (hw _) (he e)
  | mbxLockRelease e a n v => exact execMbxLockRelease_keeps e a n v (hw _) (he e)
  | keyStoreWrite e => exact execKeyStoreWrite_keeps e (hw _) (he e)
  | keyStoreErase e => exact execKeyStoreErase_keeps e (hw _) (he e)
  | reg64LowRead e a off => exact execReg64LowRead_keeps e a off hall (he e)
  | reg64HighWrite e a off v => exact execReg64HighWrite_keeps e a off v hall (he e)
  | rcRegisterRead e a off n => exact execRcRegisterRead_keeps e a off n hall (he e)
  | registerWrite e a off n v => exact execRegisterWrite_keeps e a off n v hall (he e)
  | safeInNFall e long => exact execSafeInNFall_keeps e long (hw _) (he e)
  | cinForceWrite e v => exact execCinForceWrite_keeps e v (hw _) (he e)
  | cinExit e v => exact execCinExit_keeps e v (hw _) (he e)
  | exitRelease e => exact execExitRelease_keeps e (hw _) (he e)
  | cinTileReset e v => exact execCinTileReset_keeps e v (hw _) (he e)
  | cinCoreReset e v => exact execCinCoreReset_keeps e v (hw _) (he e)
  | safeInNRise e => exact execSafeInNRise_keeps e (hw _) (he e)
  | testenLow e => exact execTestenLow_keeps e (he e)
  | referenceReturn e => exact execReferenceReturn_keeps e (hw _) (he e)
  | pcieLinkDown e => exact execPcieLinkDown_keeps e (hw _) (he e)
  | pcieLinkUp e rate width flit rev => exact execPcieLinkUp_keeps e rate width flit rev (hw _) (he e)
  | msixUnmask e f op => exact execMsixUnmask_keeps e f op (hw _) (he e)
  | dramWrite e f addr data bad fixed lat pages => exact execDramWrite_keeps e f addr data bad fixed lat pages (hw _) (he e)
  | isotpNTimeout e c began => exact execIsotpNTimeout_keeps e c began (hw _) (he e)
  | phyResetRelease e en => exact execPhyResetRelease_keeps e en (he e)
  | xtalTempRead e temp => exact execXtalTempRead_keeps e temp (hw _) (he e)
  | umbAgeIncrement e => exact execUmbAgeIncrement_keeps e (hw _) (he e)

/-- On an empty queue a step idles. -/
theorem core_step_of_idle {s : State} (hidle : s.pending = []) : Sys2Proof.core.step s = .next s := by
  simp only [core, step, hidle]

/-- A step takes the command at the front off the queue and executes it. -/
theorem core_step_of_waiting {s : State} {c : Instr} {r : List Instr} (hfront : s.pending = c :: r) :
    Sys2Proof.core.step s = exec c { s with pending := r } := by
  simp only [core, step, hfront]

/-- Settles O38: an empty queue leaves the state as it is; of any other the front is taken, and its command keeps the rest of the
queue, the free values drawn and what was sent. -/
theorem stepHistory : Obligations.StepHistory := by
  intro s t hstep
  cases hqueue : s.pending with
  | nil =>
    rw [core_step_of_idle hqueue] at hstep
    cases hstep
    exact ⟨hqueue, le_rfl, List.prefix_rfl⟩
  | cons c r =>
    rw [core_step_of_waiting hqueue] at hstep
    have hkeeps := exec_keeps c { s with pending := r } t hstep
    exact ⟨hkeeps.pending, hkeeps.free, hkeeps.out⟩

end Sys2Proof.Machine
end

section
/-! Starts, samples, windows, gates and ends of the measurement units, and the statement about them (R192–R200). -/

namespace Sys2Proof.Machine

/-! ### Which meaning the dispatch calls -/

theorem exec_tiaStart (e : Nat) (ch : Chan) (s : State) :
    exec (.tiaStart e ch) s = .next ((s.elapse e).startMeas ch.val (s.elapse e).now true) := rfl

theorem exec_tiaEnd (e : Nat) (ch : Chan) (s : State) :
    exec (.tiaEnd e ch) s = .next ((s.elapse e).endMeas ch.val) := rfl

theorem exec_measStartDt (e : Nat) (ch : Chan) (late : Bool) (s : State) :
    exec (.measStartDt e ch late) s = .next ((s.elapse e).measDue ch.val late) := rfl

theorem exec_measSample (e : Nat) (ch : Chan) (a b p : Nat) (remote : Bool) (s : State) :
    exec (.measSample e ch a b p remote) s = execMeasSample e ch a b p remote s := rfl

theorem exec_measWindowExpiry (e : Nat) (ch : Chan) (a : Nat) (s : State) :
    exec (.measWindowExpiry e ch a) s = execMeasWindowExpiry e ch a s := rfl

theorem exec_gateClose (e : Nat) (ch : Chan) (edges : Bool) (a b n : Nat) (s : State) :
    exec (.gateClose e ch edges a b n) s = execGateClose e ch edges a b n s := rfl

theorem exec_measDone (e : Nat) (ch : Chan) (s : State) :
    exec (.measDone e ch) s = execMeasDone e ch s := rfl

/-! ### Starts and ends (R195, R197) -/

section
variable {s : State} {c b d : Nat} {cmd : Bool}

/-- The free value that judges a start does not move its lead. -/
theorem State.startMeas_of_accepted (hok : s.measReason c cmd = 0) : s.startMeas c b cmd =
    ((s.drew.clearMeas c).set F.TIA_CH_STAT.STATE c 1).setTiaU c
      { startAt := some (wrap64 (b + s.measLead c cmd)), released := !cmd } := if_pos hok

/-- An accepted start waits for its DT. -/
theorem State.startMeas_waits (hok : s.measReason c cmd = 0) : (s.startMeas c b cmd).get F.TIA_CH_STAT.STATE c = 1 ∧
    ((s.startMeas c b cmd).tiaU c).startAt = some (wrap64 (b + s.measLead c cmd)) ∧
    ((s.startMeas c b cmd).tiaU c).released = !cmd := by
  rw [State.startMeas_of_accepted hok, State.setTiaU_get, State.get_set_self, State.setTiaU_self]
  exact ⟨rfl, rfl, rfl⟩

theorem State.startMeas_of_refused (hno : s.measReason c cmd ≠ 0) : s.startMeas c b cmd =
    (s.drew.set F.TIA_CH_STAT.REJ c 1).set F.TIA_CH_STAT.REASON c (s.measReason c cmd) := if_neg hno

theorem State.endMeas_of_running (hrun : s.get F.TIA_CH_STAT.STATE c = 2) : s.endMeas c = s.measDone c true := by
  simp [State.endMeas, hrun]

theorem State.measDue_of_due (hstart : (s.tiaU c).startAt = some d) (hstate : s.get F.TIA_CH_STAT.STATE c = 1)
    (hdue : s.reached d = true) (hfree : s.flag F.MRD_CH_QF.HELD c = false) : s.measDue c false = s.runMeas c d := by
  simp [State.measDue, hstart, hstate, hdue, hfree]

end

/-- A unit that runs shows it, and the DT of its start. -/
theorem State.get_runMeas (s : State) (c d : Nat) : (s.runMeas c d).get F.TIA_CH_STAT.STATE c = 2 ∧
    (s.runMeas c d).get F.TIA_CH_START_DT.DT c = d % 2 ^ 64 := by
  unfold State.runMeas
  rw [State.setTiaU_get, State.setTiaU_get, State.get_set_fld _ _ _ _ _ _ (by decide), State.get_set_self, State.get_set_self]
  exact ⟨rfl, rfl⟩

theorem State.state_measDone (s : State) (c : Nat) (incomplete : Bool) :
    (s.measDone c incomplete).get F.TIA_CH_STAT.STATE c = 3 := by
  unfold State.measDone
  extract_lets s1 held ended s2
  have hdone : s1.get F.TIA_CH_STAT.STATE c = 3 := (State.get_set_fld _ _ _ _ _ _ (by decide)).trans (State.get_set_self ..)
  have hheld : held.get F.TIA_CH_STAT.STATE c = 3 := by
    unfold held
    split
    · rw [State.get_set_fld _ _ _ _ _ _ (by decide), hdone]
    · exact hdone
  have hstamped : s2.get F.TIA_CH_STAT.STATE c = 3 := (State.get_set_fld _ _ _ _ _ _ (by decide)).trans hheld
  exact (Keeps.get (State.channelEvent_keeps c 7 (Keeps.refl _ s2))).trans hstamped

theorem exec_measDone_of_full {e : Nat} {ch : Chan} {s u : State} (hu : u = s.elapse e)
    (hrun : u.get F.TIA_CH_STAT.STATE ch.val = 2) (hfull : u.measN ch.val ≤ u.get F.TIA_CH_COUNT.SAMPLES ch.val) :
    exec (.measDone e ch) s = .next (u.measDone ch.val false) := by
  subst hu
  simp [exec_measDone, execMeasDone, hrun, hfull]

/-! ### Statistics (R199) -/

/-- After the count and the sum no part of a sample writes either. -/
theorem State.get_sample (s : State) (c : Nat) (x v : Int) (remote : Bool) (f : Fld)
    (hf : f = F.TIA_CH_COUNT.SAMPLES ∨ f = F.TIA_CH_SUM.VALUE) : (s.sample c x v remote).get f c =
      ((s.set F.TIA_CH_COUNT.SAMPLES c (s.get F.TIA_CH_COUNT.SAMPLES c + 1)).addSum c v).get f c := by
  have hrest : ∀ W : Places, Within 0x8f900000000000000000000000000000000000000000 W →
      Keeps W ((s.set F.TIA_CH_COUNT.SAMPLES c (s.get F.TIA_CH_COUNT.SAMPLES c + 1)).addSum c v) (s.sample c x v remote) :=
    fun W hW => State.markStale_keeps _ _ (Within.trans (by decide) hW) (State.results_keeps _ _ (Within.trans (by decide) hW)
      (State.extremes_keeps _ _ _ (Within.trans (by decide) hW) (State.moments_keeps _ _ _ (Within.trans (by decide) hW)
        (Keeps.refl W _))))
  obtain rfl | rfl := hf
  · exact Keeps.get (hrest _ (Within.ne (by decide)))
  · exact Keeps.get (hrest _ (Within.ne (by decide)))

/-- SUM holds its old value and the new one together, kept to its range. -/
theorem State.sum_addSum (s : State) (c : Nat) (v : Int) : (s.addSum c v).get F.TIA_CH_SUM.VALUE c =
    ofInt 64 (satInt 64 (toInt 64 (s.get F.TIA_CH_SUM.VALUE c) + v)) % 2 ^ 64 :=
  (Keeps.get (State.tiaSat_keeps _ _ (Within.ne (by decide)) (Keeps.refl _ _))).trans (State.get_set_self ..)

/-- A sample is counted. -/
theorem State.samples_sample (s : State) (c : Nat) (x v : Int) (remote : Bool) :
    (s.sample c x v remote).get F.TIA_CH_COUNT.SAMPLES c =
      (s.get F.TIA_CH_COUNT.SAMPLES c + 1) % 2 ^ F.TIA_CH_COUNT.SAMPLES.w := by
  rw [State.get_sample _ _ _ _ _ _ (.inl rfl)]
  exact (Keeps.get (State.addSum_keeps _ _ (Within.ne (by decide)) (Keeps.refl _ _))).trans (State.get_set_self ..)

/-- A sample is added to SUM. -/
theorem State.sum_sample (s : State) (c : Nat) (x v : Int) (remote : Bool) :
    (s.sample c x v remote).get F.TIA_CH_SUM.VALUE c =
      ofInt 64 (satInt 64 (toInt 64 (s.get F.TIA_CH_SUM.VALUE c) + v)) % 2 ^ 64 := by
  rw [State.get_sample _ _ _ _ _ _ (.inr rfl), State.sum_addSum, State.get_set_fld _ _ _ _ _ _ (by decide)]

/-! ### Pairs of stamps and windows (R196) -/

/-- But for a duty cycle, a pair of stamps is one sample of their distance, counted and added to SUM. -/
theorem State.get_pairSample_of_not_duty {s : State} {c : Nat} (a b p : Nat) (remote : Bool)
    (hty : s.get F.TIA_CH_CFG.TYPE c ≠ 5) :
    (s.pairSample c a b p remote).get F.TIA_CH_COUNT.SAMPLES c =
      (s.get F.TIA_CH_COUNT.SAMPLES c + 1) % 2 ^ F.TIA_CH_COUNT.SAMPLES.w ∧
    (s.pairSample c a b p remote).get F.TIA_CH_SUM.VALUE c =
      ofInt 64 (satInt 64 (toInt 64 (s.get F.TIA_CH_SUM.VALUE c) + dtDiff a b)) % 2 ^ 64 := by
  unfold State.pairSample
  extract_lets unit s1 s2
  rw [if_neg hty]
  exact ⟨State.samples_sample s1 .., State.sum_sample s1 ..⟩

/-- The first stop of a unit whose window has no end, not before its begin, makes a sample. -/
theorem State.pairStop_of_within {s : State} {c a b p : Nat} {remote : Bool} (hfirst : (s.tiaU c).lastB = none)
    (hmin : s.get F.TIA_CH_WMIN.TICKS c ≤ wrap64 (b + 2 ^ 64 - wrap64 a)) (hopen : s.get F.TIA_CH_WMAX.TICKS c = 0) :
    s.pairStop c a b p remote =
      (s.setTiaU c { s.tiaU c with startStamp := some (wrap64 a) }).pairSample c a b p remote := by
  unfold State.pairStop
  extract_lets unit x wmax s1
  rw [if_neg (by simp [unit, hfirst, within]), if_neg (Nat.not_lt.2 hmin), if_neg (by simp [wmax, hopen])]

section
variable {e a b p : Nat} {ch : Chan} {s u : State} (hu : u = s.elapse e) (hsampling : u.sampling ch.val = true)
include hu hsampling

theorem exec_measSample_of_pair (horder : dtReached b a = true) (hcome : u.reached b = true)
    (hty : u.get F.TIA_CH_CFG.TYPE ch.val = 0) (hfits : u.startFits ch.val a = true) (hlive : u.startDead ch.val a = false)
    (hfirst : (u.tiaU ch.val).lastB = none) (hcycle : u.cycleFits ch.val a b p = true)
    (hmin : u.get F.TIA_CH_WMIN.TICKS ch.val ≤ wrap64 (b + 2 ^ 64 - wrap64 a))
    (hopen : u.get F.TIA_CH_WMAX.TICKS ch.val = 0) : exec (.measSample e ch a b p false) s = .next
      ((u.setTiaU ch.val { u.tiaU ch.val with startStamp := some (wrap64 a) }).pairSample ch.val a b p false) := by
  subst hu
  rw [← State.pairStop_of_within hfirst hmin hopen]
  simp [exec_measSample, execMeasSample, hsampling, horder, hcome, hty, hfits, hlive, hfirst, within, hcycle]

theorem exec_measWindowExpiry_of_ended (hclosed : u.get F.TIA_CH_WMAX.TICKS ch.val ≠ 0) (hty : u.get F.TIA_CH_CFG.TYPE ch.val = 0)
    (hfits : u.startFits ch.val a = true) (hlive : u.startDead ch.val a = false)
    (hended : u.reached (u.windowEnd ch.val a) = true) :
    exec (.measWindowExpiry e ch a) s = .next (u.abandon ch.val a (u.windowEnd ch.val a)) := by
  subst hu
  simp [exec_measWindowExpiry, execMeasWindowExpiry, hsampling, hclosed, hty, hfits, hlive, hended]

/-! ### Gates (R198) -/

theorem exec_gateClose_of_edges {n : Nat} (hty : u.get F.TIA_CH_CFG.TYPE ch.val = 3) (hedge : u.gateEmpty ch.val a b n = false)
    (hfits : u.gateFits ch.val a b n = true) (hcome : u.reached b = true) :
    exec (.gateClose e ch true a b n) s = .next (u.closeGate ch.val a b n) := by
  subst hu
  simp [exec_gateClose, execGateClose, hsampling, hty, hedge, hfits, hcome]

/-- A gate that found no edge by its limit opens again there. -/
theorem exec_gateClose_of_limit {n : Nat} (hty : u.get F.TIA_CH_CFG.TYPE ch.val = 3)
    (hcome : u.reached (u.gateLimit ch.val) = true) : exec (.gateClose e ch false a b n) s =
      .next ((u.setTiaU ch.val { u.tiaU ch.val with gateOpen := u.gateLimit ch.val, gateFirst := none }).outside ch.val) := by
  subst hu
  simp [exec_gateClose, execGateClose, hsampling, hty, hcome]

end

/-- Settles O15: each command starts, refuses or ends a unit, or makes its one sample, expiry or gate, on the state after its
ticks; a sample is counted and summed first, and nothing after that touches the count or the sum. -/
theorem measurementComplete : Obligations.MeasurementComplete := by
  intro e s u hu
  refine ⟨?start, ?refused, ?ends, ?startDt, ?pair, ?counted, ?window, ?gate, ?limit, ?done⟩
  case start =>
    intro ch hok
    exact ⟨u.startMeas ch.val u.now true, by rw [exec_tiaStart, ← hu], State.startMeas_waits hok⟩
  case refused =>
    intro ch hno
    rw [exec_tiaStart, ← hu, State.startMeas_of_refused hno]
  case ends =>
    intro ch hrun
    rw [exec_tiaEnd, ← hu, State.endMeas_of_running hrun]
  case startDt =>
    intro ch d hstart hstate hdue hfree
    exact ⟨u.runMeas ch.val d, by rw [exec_measStartDt, ← hu, State.measDue_of_due hstart hstate hdue hfree],
      State.get_runMeas ..⟩
  case pair =>
    intro ch a b p hsampling horder hcome hty hfits hlive hfirst hcycle hmin hopen
    exact exec_measSample_of_pair hu hsampling horder hcome hty hfits hlive hfirst hcycle hmin hopen
  case counted =>
    intro ch a b p hsampling horder hcome hty hfits hlive hfirst hcycle hmin hopen
    exact ⟨_, exec_measSample_of_pair hu hsampling horder hcome hty hfits hlive hfirst hcycle hmin hopen,
      State.get_pairSample_of_not_duty a b p false (by rw [State.setTiaU_get, hty]; decide)⟩
  case window =>
    intro ch a hsampling hclosed hty hfits hlive hended
    exact exec_measWindowExpiry_of_ended hu hsampling hclosed hty hfits hlive hended
  case gate =>
    intro ch a b n hsampling hty hedge hfits hcome
    exact exec_gateClose_of_edges hu hsampling hty hedge hfits hcome
  case limit =>
    rintro ch a b n l rfl hsampling hty hcome
    exact exec_gateClose_of_limit hu hsampling hty hcome
  case done =>
    intro ch hrun hfull
    exact ⟨_, exec_measDone_of_full hu hrun hfull, State.state_measDone ..⟩

end Sys2Proof.Machine
end

section
/-! The line code against its decoding, and the statement about it (R225, R226). -/

namespace Sys2Proof.Machine

/-! ### Stuffing is undone (R226) -/

/-- The bit that stuffing inserts begins a new run. -/
theorem RunCount.n_push_not (r : RunCount) : (r.push (!r.last)).n = 1 := by simp [RunCount.push]

theorem RunCount.n_push_le (r : RunCount) (b : Bool) : (r.push b).n ≤ r.n + 1 := by
  unfold RunCount.push
  split <;> simp

/-- Whatever was sent before, the receiver drops just the inserted bits. -/
theorem unstuff_stuff (r : RunCount) (l : List Bool) : unstuff r (stuff r l) = l := by
  induction l generalizing r with
  | nil => rfl
  | cons b l ih =>
    unfold stuff
    by_cases hfull : 23 ≤ r.n
    · have hshort : ¬ 23 ≤ (r.push (!r.last)).n := by simp [RunCount.n_push_not]
      simp [unstuff, hfull, hshort, ih]
    · simp [unstuff, hfull, ih]

/-! ### Scrambling is undone (R225) -/

/-- The generator does not look at the payload, so that scrambling twice adds each of its bits twice. -/
theorem scramble_scramble (g l : List Bool) : scramble g (scramble g l) = l := by
  induction l generalizing g with
  | nil => rfl
  | cons b l ih => simp [scramble, ih]

/-! ### Runs in stuffed data (R226) -/

/-- Bits of which none ends a run longer than n, counted from the run r that precedes them. -/
def runsWithin (n : Nat) (r : RunCount) : List Bool → Prop
  | [] => True
  | b :: l => (r.push b).n ≤ n ∧ runsWithin n (r.push b) l

theorem runsWithin_stuff (r : RunCount) (l : List Bool) : runsWithin 23 r (stuff r l) := by
  induction l generalizing r with
  | nil => trivial
  | cons b l ih =>
    unfold stuff
    by_cases hfull : 23 ≤ r.n
    · rw [if_pos hfull]
      have hone := r.n_push_not
      have htwo := (r.push (!r.last)).n_push_le b
      exact ⟨by omega, by omega, ih _⟩
    · rw [if_neg hfull]
      have hnext := r.n_push_le b
      exact ⟨by omega, ih _⟩

/-- The run that any first part ends with is within the bound. -/
theorem runsWithin.n_foldl_le {n : Nat} {r : RunCount} {a c : List Bool} (h : runsWithin n r (a ++ c)) (hne : a ≠ []) :
    (a.foldl RunCount.push r).n ≤ n := by
  induction a generalizing r with
  | nil => exact absurd rfl hne
  | cons b a ih =>
    obtain ⟨hfirst, hrest⟩ := h
    cases a with
    | nil => exact hfirst
    | cons b' a => exact ih hrest (List.cons_ne_nil _ _)

/-- k equal bits are a run of at least k. -/
theorem le_n_foldl_replicate (r : RunCount) (b : Bool) (k : Nat) : k ≤ ((List.replicate k b).foldl RunCount.push r).n := by
  suffices hrun : ∀ (k : Nat) (r : RunCount), r.last = b → r.n + k ≤ ((List.replicate k b).foldl RunCount.push r).n by
    cases k with
    | zero => exact Nat.zero_le _
    | succ k =>
      have hbegin : 1 ≤ (r.push b).n := by unfold RunCount.push; split <;> simp
      exact le_trans (by omega) (hrun k (r.push b) rfl)
  intro k
  induction k with
  | zero => exact fun r _ => le_rfl
  | succ k ih =>
    intro r hlast
    have hnext : (r.push b).n = r.n + 1 := by simp [RunCount.push, hlast]
    have hrest := ih (r.push b) rfl
    rw [List.replicate_succ, List.foldl_cons]
    omega

/-- Stuffed data holds no run of 24 equal bits. -/
theorem stuff_ne_run (r : RunCount) (l p q : List Bool) (b : Bool) : stuff r l ≠ p ++ List.replicate 24 b ++ q := by
  intro heq
  have hbound := runsWithin_stuff r l
  rw [heq] at hbound
  have hlow := le_n_foldl_replicate (p.foldl RunCount.push r) b 24
  have hhigh := hbound.n_foldl_le (by simp)
  rw [List.foldl_append] at hhigh
  omega

/-- Settles O57: unstuffing and descrambling go through the bits as stuffing and scrambling do; the 28 ones of a comma make the first
bit an inserted 0, and no inserted bit leaves a run beyond 23. -/
theorem lineCode : Obligations.LineCode :=
  ⟨unstuff_stuff, scramble_scramble, fun _ _ => rfl, fun l p q b => stuff_ne_run afterComma l p q b⟩

end Sys2Proof.Machine
end

section
/-! The forms that every step keeps and the frame of every command: the laws of `Laws/Keep*.lean` once more, each within the row that the
table of touches gives its command; and the statements about them. -/

namespace Sys2Proof.Machine

/-- Settles O37: a step is defined by the queue's front. -/
theorem stepRunsFront : Obligations.StepRunsFront :=
  fun _ => ⟨fun _ _ => core_step_of_waiting, core_step_of_idle⟩

/-- Settles O39: the one field that is set at reset is listed alone, and the rest is empty. -/
theorem formsAtReset : Obligations.FormsAtReset := by
  unfold Obligations.FormsAtReset
  decide

/-- Settles O40: on an empty queue nothing changes, and the command at the front of any other keeps both forms. -/
theorem formsKept : Obligations.FormsKept := by
  intro s t hstep
  cases hqueue : s.pending with
  | nil =>
    rw [core_step_of_idle hqueue] at hstep
    cases hstep
    exact ⟨id, id⟩
  | cons c r =>
    rw [core_step_of_waiting hqueue] at hstep
    have hkeeps := exec_keeps c { s with pending := r } t hstep
    exact ⟨hkeeps.regs, hkeeps.mem⟩

/-! ### The places of a row -/

/-- The places that a row of the table names, and those of device time, as a mask. -/
def Touch.mask (w : Touch) : Nat :=
  (timeRegs ++ w.regs).foldr (fun r m => 1 <<< r.ctorIdx ||| m) ((if w.mem then 1 <<< 500 else 0) ||| (if w.out then 1 <<< 501 else 0))

/-- The places that a command may name: those of its row, or any where it has none. -/
def rowPlaces (c : Instr) : Places :=
  match touches c with
  | some w => fun k => w.mask.testBit k
  | none => anyPlace

theorem rowPlaces_of_row {c : Instr} {w : Touch} (hrow : touches c = some w) (k : Nat) : rowPlaces c k = w.mask.testBit k := by
  simp [rowPlaces, hrow]

/-- A law's mask that the row of a command covers names places of the command. -/
theorem Within.row {c : Instr} {w : Touch} {m : Nat} (hrow : touches c = some w) (hcover : m &&& w.mask = m) : Within m (rowPlaces c) := by
  refine Within.trans hcover fun k hk => ?_
  rw [rowPlaces_of_row hrow, hk]

theorem testBit_foldr_regs (l : List Reg) (m k : Nat) :
    (l.foldr (fun r m => 1 <<< r.ctorIdx ||| m) m).testBit k = (decide (∃ r ∈ l, r.ctorIdx = k) || m.testBit k) := by
  induction l with
  | nil => simp
  | cons r l ih =>
    rw [List.foldr_cons, Nat.testBit_or, ih, Nat.one_shiftLeft, Nat.testBit_two_pow]
    simp [Bool.decide_or, Bool.or_assoc]

/-- Every row has the places of device time. -/
theorem Within.time (c : Instr) : Within 0x600000000000000000000000000000000000000000000 (rowPlaces c) := by
  cases hrow : touches c with
  | none => exact Within.all fun k => by simp [rowPlaces, hrow, anyPlace]
  | some w =>
    intro k hk
    have htime : timeRegs.foldr (fun r m => 1 <<< r.ctorIdx ||| m) 0 = 0x600000000000000000000000000000000000000000000 := by decide
    rw [← htime, testBit_foldr_regs] at hk
    rw [rowPlaces_of_row hrow, Touch.mask, testBit_foldr_regs]
    simp only [Nat.zero_testBit, Bool.or_false, decide_eq_true_eq] at hk
    obtain ⟨r, hr, rfl⟩ := hk
    simp only [Bool.or_eq_true, decide_eq_true_eq]
    exact .inl ⟨r, List.mem_append_left _ hr, rfl⟩

/-! ### What every command keeps within its row -/

/-- From the state before its ticks to the state that it answers, a command changes the places of its row alone. -/
theorem exec_keeps_places (c : Instr) (s : State) : KeepsOut (rowPlaces c) s (exec c s) := by
  have he : ∀ e, Keeps (rowPlaces c) s (s.elapse e) := fun e => State.elapse_keeps e (Within.time c) (Keeps.refl _ s)
  cases c with
  | powerOnReset e testen safeInHigh resetHigh => exact execPowerOnReset_keeps e testen safeInHigh resetHigh (fun _ => rfl) (he e)
  | vauxUnderVoltage e => exact execVauxUnderVoltage_keeps e (fun _ => rfl) (he e)
  | railsGood e => exact execRailsGood_keeps e (Within.row rfl (by decide +kernel)) (he e)
  | railUnderVoltage e rail => exact execRailUnderVoltage_keeps e rail (Within.row rfl (by decide +kernel)) (he e)
  | coreIslandAdmission e => exact execCoreIslandAdmission_keeps e (he e)
  | tileCommonAdmission e => exact execTileCommonAdmission_keeps e (Within.row rfl (by decide +kernel)) (he e)
  | ladderRequest e => exact execLadderRequest_keeps e (Within.row rfl (by decide +kernel)) (he e)
  | ladderSlot e => exact execLadderSlot_keeps e (Within.row rfl (by decide +kernel)) (he e)
  | groupSettleEnd e g failed => exact execGroupSettleEnd_keeps e g failed (Within.row rfl (by decide +kernel)) (he e)
  | poweringEnd e => exact execPoweringEnd_keeps e (Within.row rfl (by decide +kernel)) (he e)
  | resetNFall e => exact execResetNFall_keeps e (he e)
  | deviceReset e => exact execDeviceReset_keeps e (fun _ => rfl) (he e)
  | resetNRise e => exact execResetNRise_keeps e (fun _ => rfl) (he e)
  | devReset e v => exact execDevReset_keeps e v (fun _ => rfl) (he e)
  | testenHigh e => exact execTestenHigh_keeps e (he e)
  | pwrSleepSet e w v => exact execPwrSleepSet_keeps e w v (Within.row rfl (by decide +kernel)) (he e)
  | pwrSleepClr e w v => exact execPwrSleepClr_keeps e w v (Within.row rfl (by decide +kernel)) (he e)
  | dormantRequest e => exact execDormantRequest_keeps e (Within.row rfl (by decide +kernel)) (he e)
  | dormantEntryComplete e => exact execDormantEntryComplete_keeps e (Within.row rfl (by decide +kernel)) (he e)
  | wake e cause => exact execWake_keeps e cause (Within.row rfl (by decide +kernel)) (he e)
  | wakeComplete e => exact execWakeComplete_keeps e (Within.row rfl (by decide +kernel)) (he e)
  | thermalConversion e temps => exact execThermalConversion_keeps e temps (Within.row rfl (by decide +kernel)) (he e)
  | loadStart e copy0 copy1 => exact execLoadStart_keeps e copy0 copy1 (Within.row rfl (by decide +kernel)) (he e)
  | slotReadStart e hdr => exact execSlotReadStart_keeps e hdr (Within.row rfl (by decide +kernel)) (he e)
  | imageRecordArrival e r => exact execImageRecordArrival_keeps e r (Within.row rfl (by decide +kernel)) (he e)
  | dramTrainingComplete e ok => exact execDramTrainingComplete_keeps e ok (Within.row rfl (by decide +kernel)) (he e)
  | lastRecordRead e => exact execLastRecordRead_keeps e (Within.row rfl (by decide +kernel)) (he e)
  | checksComplete e => exact execChecksComplete_keeps e (Within.row rfl (by decide +kernel)) (he e)
  | commit e => exact execCommit_keeps e (Within.row rfl (by decide +kernel)) (he e)
  | reload e v => exact execReload_keeps e v (Within.row rfl (by decide +kernel)) (he e)
  | precheckComplete e copy0 copy1 images => exact execPrecheckComplete_keeps e copy0 copy1 images (Within.row rfl (by decide +kernel)) (he e)
  | reloadTeardown e => exact execReloadTeardown_keeps e (Within.row rfl (by decide +kernel)) (he e)
  | fuseProgramKeyHash e v => exact execFuseProgramKeyHash_keeps e v (Within.row rfl (by decide +kernel)) (he e)
  | fuseRaiseSecver e v => exact execFuseRaiseSecver_keeps e v (Within.row rfl (by decide +kernel)) (he e)
  | fuseOpComplete e => exact execFuseOpComplete_keeps e (Within.row rfl (by decide +kernel)) (he e)
  | siteArm e x prog => exact execSiteArm_keeps e x prog (Within.row rfl (by decide +kernel)) (he e)
  | siteAbort e x => exact execSiteAbort_keeps e x (Within.row rfl (by decide +kernel)) (he e)
  | siteAck e x => exact execSiteAck_keeps e x (Within.row rfl (by decide +kernel)) (he e)
  | siteReset e x => exact execSiteReset_keeps e x (Within.row rfl (by decide +kernel)) (he e)
  | siteResetRelease e x => exact execSiteResetRelease_keeps e x (Within.row rfl (by decide +kernel)) (he e)
  | staleCheck e x => exact execStaleCheck_keeps e x (Within.row rfl (by decide +kernel)) (he e)
  | startInstant e x => exact execStartInstant_keeps e x (Within.row rfl (by decide +kernel)) (he e)
  | sliceMissedRelease e sl => exact execSliceMissedRelease_keeps e sl (Within.row rfl (by decide +kernel)) (he e)
  | stoppingComplete e x => exact execStoppingComplete_keeps e x (Within.row rfl (by decide +kernel)) (he e)
  | joinSend e x => exact execJoinSend_keeps e x (Within.row rfl (by decide +kernel)) (he e)
  | vectorNext e sl ecc => exact execVectorNext_keeps e sl ecc (Within.row rfl (by decide +kernel)) (he e)
  | vectorRepeat e sl ecc => exact execVectorRepeat_keeps e sl ecc (Within.row rfl (by decide +kernel)) (he e)
  | loopBegin e sl ecc => exact execLoopBegin_keeps e sl ecc (Within.row rfl (by decide +kernel)) (he e)
  | loopEnd e sl ecc => exact execLoopEnd_keeps e sl ecc (Within.row rfl (by decide +kernel)) (he e)
  | matchPass e sl ecc => exact execMatchPass_keeps e sl ecc (Within.row rfl (by decide +kernel)) (he e)
  | altVector e sl ecc => exact execAltVector_keeps e sl ecc (Within.row rfl (by decide +kernel)) (he e)
  | endVector e sl ecc => exact execEndVector_keeps e sl ecc (Within.row rfl (by decide +kernel)) (he e)
  | code7 e sl ecc => exact execCode7_keeps e sl ecc (Within.row rfl (by decide +kernel)) (he e)
  | granuleCheckPoint e sl => exact execGranuleCheckPoint_keeps e sl (Within.row rfl (by decide +kernel)) (he e)
  | holdRelease e x => exact execHoldRelease_keeps e x (Within.row rfl (by decide +kernel)) (he e)
  | refillGranuleComplete e sl seg gran col => exact execRefillGranuleComplete_keeps e sl seg gran col (Within.row rfl (by decide +kernel)) (he e)
  | sliceReadyReport e sl => exact execSliceReadyReport_keeps e sl (Within.row rfl (by decide +kernel)) (he e)
  | resumeRelease e x => exact execResumeRelease_keeps e x (Within.row rfl (by decide +kernel)) (he e)
  | segmentAdmission e sl seg ecc => exact execSegmentAdmission_keeps e sl seg ecc (Within.row rfl (by decide +kernel)) (he e)
  | queueEntryRelease e sl => exact execQueueEntryRelease_keeps e sl (Within.row rfl (by decide +kernel)) (he e)
  | eventJumpRequest e x => exact execEventJumpRequest_keeps e x (Within.row rfl (by decide +kernel)) (he e)
  | jumpHonoured e x => exact execJumpHonoured_keeps e x (Within.row rfl (by decide +kernel)) (he e)
  | ctrlCrcReport e x => exact execCtrlCrcReport_keeps e x (Within.row rfl (by decide +kernel)) (he e)
  | slpJumpCfgWrite e sl v => exact execSlpJumpCfgWrite_keeps e sl v (Within.row rfl (by decide +kernel)) (he e)
  | slpLooppreWrite e sl r v => exact execSlpLooppreWrite_keeps e sl r v (Within.row rfl (by decide +kernel)) (he e)
  | slpMatchTmoWrite e sl v => exact execSlpMatchTmoWrite_keeps e sl v (Within.row rfl (by decide +kernel)) (he e)
  | waveformRead e t => exact execWaveformRead_keeps e t (Within.row rfl (by decide +kernel)) (he e)
  | waveformWrite e t => exact execWaveformWrite_keeps e t (Within.row rfl (by decide +kernel)) (he e)
  | waveformAccessComplete e t e0 e1 e2 => exact execWaveformAccessComplete_keeps e t e0 e1 e2 (Within.row rfl (by decide +kernel)) (he e)
  | wodPeriodWrite e sl set v => exact execWodPeriodWrite_keeps e sl set v (Within.row rfl (by decide +kernel)) (he e)
  | wodSliceTsWrite e sl v => exact execWodSliceTsWrite_keeps e sl v (Within.row rfl (by decide +kernel)) (he e)
  | wodChCfgWrite e ch v => exact execWodChCfgWrite_keeps e ch v (Within.row rfl (by decide +kernel)) (he e)
  | driveEvent e ch => exact execDriveEvent_keeps e ch (Within.row rfl (by decide +kernel)) (he e)
  | strobe e ch st => exact execStrobe_keeps e ch st (Within.row rfl (by decide +kernel)) (he e)
  | windowEnd e ch dL dM dH => exact execWindowEnd_keeps e ch dL dM dH (Within.row rfl (by decide +kernel)) (he e)
  | timingSetRelease e x => exact execTimingSetRelease_keeps e x (Within.row rfl (by decide +kernel)) (he e)
  | comparatorSettingWrite e ch r v => exact execComparatorSettingWrite_keeps e ch r v (Within.row rfl (by decide +kernel)) (he e)
  | settlingEnd e ch st => exact execSettlingEnd_keeps e ch st (Within.row rfl (by decide +kernel)) (he e)
  | sepCmpChMaskWrite e ch v => exact execSepCmpChMaskWrite_keeps e ch v (Within.row rfl (by decide +kernel)) (he e)
  | granuleCountsAdd e sl => exact execGranuleCountsAdd_keeps e sl (Within.row rfl (by decide +kernel)) (he e)
  | failRecordArrival e sl tag => exact execFailRecordArrival_keeps e sl tag (Within.row rfl (by decide +kernel)) (he e)
  | stopDecision e x => exact execStopDecision_keeps e x (Within.row rfl (by decide +kernel)) (he e)
  | stopRelease e x => exact execStopRelease_keeps e x (Within.row rfl (by decide +kernel)) (he e)
  | captureRingRdWrite e x v => exact execCaptureRingRdWrite_keeps e x v (Within.row rfl (by decide +kernel)) (he e)
  | stepWordFetch e x ecc => exact execStepWordFetch_keeps e x ecc (Within.row rfl (by decide +kernel)) (he e)
  | stepBoundarySample e x rom => exact execStepBoundarySample_keeps e x rom (Within.row rfl (by decide +kernel)) (he e)
  | nop e x => exact execNop_keeps e x (Within.row rfl (by decide +kernel)) (he e)
  | play e x => exact execPlay_keeps e x (Within.row rfl (by decide +kernel)) (he e)
  | jseg e x => exact execJseg_keeps e x (Within.row rfl (by decide +kernel)) (he e)
  | tset e x => exact execTset_keeps e x (Within.row rfl (by decide +kernel)) (he e)
  | acq e x => exact execAcq_keeps e x (Within.row rfl (by decide +kernel)) (he e)
  | meas e x => exact execMeas_keeps e x (Within.row rfl (by decide +kernel)) (he e)
  | mget e x => exact execMget_keeps e x (Within.row rfl (by decide +kernel)) (he e)
  | waitev e x => exact execWaitev_keeps e x (Within.row rfl (by decide +kernel)) (he e)
  | waitdt e x => exact execWaitdt_keeps e x (Within.row rfl (by decide +kernel)) (he e)
  | drain e x => exact execDrain_keeps e x (Within.row rfl (by decide +kernel)) (he e)
  | sync e x => exact execSync_keeps e x (Within.row rfl (by decide +kernel)) (he e)
  | trimok e x => exact execTrimok_keeps e x (Within.row rfl (by decide +kernel)) (he e)
  | jmp e x => exact execJmp_keeps e x (Within.row rfl (by decide +kernel)) (he e)
  | call e x => exact execCall_keeps e x (Within.row rfl (by decide +kernel)) (he e)
  | ret e x => exact execRet_keeps e x (Within.row rfl (by decide +kernel)) (he e)
  | dbnz e x => exact execDbnz_keeps e x (Within.row rfl (by decide +kernel)) (he e)
  | ldi e x => exact execLdi_keeps e x (Within.row rfl (by decide +kernel)) (he e)
  | addi e x => exact execAddi_keeps e x (Within.row rfl (by decide +kernel)) (he e)
  | add e x => exact execAdd_keeps e x (Within.row rfl (by decide +kernel)) (he e)
  | sub e x => exact execSub_keeps e x (Within.row rfl (by decide +kernel)) (he e)
  | mov e x => exact execMov_keeps e x (Within.row rfl (by decide +kernel)) (he e)
  | get e x => exact execGet_keeps e x (Within.row rfl (by decide +kernel)) (he e)
  | cmpi e x => exact execCmpi_keeps e x (Within.row rfl (by decide +kernel)) (he e)
  | cmp e x => exact execCmp_keeps e x (Within.row rfl (by decide +kernel)) (he e)
  | bin e x => exact execBin_keeps e x (Within.row rfl (by decide +kernel)) (he e)
  | dlog e x => exact execDlog_keeps e x (Within.row rfl (by decide +kernel)) (he e)
  | bustx e x => exact execBustx_keeps e x (Within.row rfl (by decide +kernel)) (he e)
  | req e x => exact execReq_keeps e x (Within.row rfl (by decide +kernel)) (he e)
  | stop e x => exact execStop_keeps e x (Within.row rfl (by decide +kernel)) (he e)
  | eventLatch e x c => exact execEventLatch_keeps e x c (Within.row rfl (by decide +kernel)) (he e)
  | waitTimeout e x => exact execWaitTimeout_keeps e x (Within.row rfl (by decide +kernel)) (he e)
  | serviceResult e x => exact execServiceResult_keeps e x (Within.row rfl (by decide +kernel)) (he e)
  | syncRelease e b => exact execSyncRelease_keeps e b (Within.row rfl (by decide +kernel)) (he e)
  | trapFiring e x => exact execTrapFiring_keeps e x (Within.row rfl (by decide +kernel)) (he e)
  | trimWindowClose e x => exact execTrimWindowClose_keeps e x (Within.row rfl (by decide +kernel)) (he e)
  | sliceEndReport e x => exact execSliceEndReport_keeps e x (Within.row rfl (by decide +kernel)) (he e)
  | syncMemberWrite e b w v => exact execSyncMemberWrite_keeps e b w v (Within.row rfl (by decide +kernel)) (he e)
  | stepMissedRelease e x => exact execStepMissedRelease_keeps e x (Within.row rfl (by decide +kernel)) (he e)
  | acqArmCommand e ch => exact execAcqArmCommand_keeps e ch (Within.row rfl (by decide +kernel)) (he e)
  | acqDisarmCommand e ch => exact execAcqDisarmCommand_keeps e ch (Within.row rfl (by decide +kernel)) (he e)
  | acqForce e ch => exact execAcqForce_keeps e ch (Within.row rfl (by decide +kernel)) (he e)
  | acqEventArm e ch arm => exact execAcqEventArm_keeps e ch arm (Within.row rfl (by decide +kernel)) (he e)
  | acqArmDt e ch late => exact execAcqArmDt_keeps e ch late (Within.row rfl (by decide +kernel)) (he e)
  | sequenceOccurrence e ch o => exact execSequenceOccurrence_keeps e ch o (Within.row rfl (by decide +kernel)) (he e)
  | sequenceTimer e ch => exact execSequenceTimer_keeps e ch (Within.row rfl (by decide +kernel)) (he e)
  | privilegedTriggerEval e ch v between => exact execPrivilegedTriggerEval_keeps e ch v between (Within.row rfl (by decide +kernel)) (he e)
  | acqAutoTimeout e ch => exact execAcqAutoTimeout_keeps e ch (Within.row rfl (by decide +kernel)) (he e)
  | historySample e ch seen => exact execHistorySample_keeps e ch seen (he e)
  | postTriggerComplete e ch => exact execPostTriggerComplete_keeps e ch (Within.row rfl (by decide +kernel)) (he e)
  | acqRecordArrival e ch tag => exact execAcqRecordArrival_keeps e ch tag (Within.row rfl (by decide +kernel)) (he e)
  | sepAcqChCfgWrite e ch v => exact execSepAcqChCfgWrite_keeps e ch v (Within.row rfl (by decide +kernel)) (he e)
  | acqRingRdWrite e x v => exact execAcqRingRdWrite_keeps e x v (Within.row rfl (by decide +kernel)) (he e)
  | tiaStart e ch => exact execTiaStart_keeps e ch (Within.row rfl (by decide +kernel)) (he e)
  | tiaEnd e ch => exact execTiaEnd_keeps e ch (Within.row rfl (by decide +kernel)) (he e)
  | measStartDt e ch late => exact execMeasStartDt_keeps e ch late (Within.row rfl (by decide +kernel)) (he e)
  | measSample e ch a b p remote => exact execMeasSample_keeps e ch a b p remote (Within.row rfl (by decide +kernel)) (he e)
  | measWindowExpiry e ch a => exact execMeasWindowExpiry_keeps e ch a (Within.row rfl (by decide +kernel)) (he e)
  | gateClose e ch edges a b n => exact execGateClose_keeps e ch edges a b n (Within.row rfl (by decide +kernel)) (he e)
  | measDone e ch => exact execMeasDone_keeps e ch (Within.row rfl (by decide +kernel)) (he e)
  | dtWrap e => exact execDtWrap_keeps e (he e)
  | umbDtRead e a => exact execUmbDtRead_keeps e a (Within.row rfl (by decide +kernel)) (he e)
  | referenceLock e err => exact execReferenceLock_keeps e err (Within.row rfl (by decide +kernel)) (he e)
  | referenceLoss e edge err => exact execReferenceLoss_keeps e edge err (Within.row rfl (by decide +kernel)) (he e)
  | xtalFail e => exact execXtalFail_keeps e (Within.row rfl (by decide +kernel)) (he e)
  | ppsInEdge e => exact execPpsInEdge_keeps e (Within.row rfl (by decide +kernel)) (he e)
  | ppsOutRise e => exact execPpsOutRise_keeps e (he e)
  | trimStepEnd e q binsOk offsOk delay qf => exact execTrimStepEnd_keeps e q binsOk offsOk delay qf (Within.row rfl (by decide +kernel)) (he e)
  | trimCommit e ch => exact execTrimCommit_keeps e ch (Within.row rfl (by decide +kernel)) (he e)
  | trimCommitMissed e ch => exact execTrimCommitMissed_keeps e ch (Within.row rfl (by decide +kernel)) (he e)
  | channelReturn e ch => exact execChannelReturn_keeps e ch (Within.row rfl (by decide +kernel)) (he e)
  | syncPulse e => exact execSyncPulse_keeps e (Within.row rfl (by decide +kernel)) (he e)
  | syncPulseReturn e t off => exact execSyncPulseReturn_keeps e t off (Within.row rfl (by decide +kernel)) (he e)
  | tskewLost e t => exact execTskewLost_keeps (s₀ := s) e t (Within.row rfl (by decide +kernel)) (he e)
  | qualityAgeChange e ch => exact execQualityAgeChange_keeps e ch (Within.row rfl (by decide +kernel)) (he e)
  | reflectionRequest e x => exact execReflectionRequest_keeps e x (Within.row rfl (by decide +kernel)) (he e)
  | reflectionStep e ch inc ret stamped => exact execReflectionStep_keeps e ch inc ret stamped (Within.row rfl (by decide +kernel)) (he e)
  | reflectionEnd e x => exact execReflectionEnd_keeps e x (Within.row rfl (by decide +kernel)) (he e)
  | tileLinkUp e t => exact execTileLinkUp_keeps e t (Within.row rfl (by decide +kernel)) (he e)
  | frameArrival e l lane bits => exact execFrameArrival_keeps e l lane bits (Within.row rfl (by decide +kernel)) (he e)
  | ack e l q => exact execAck_keeps e l q (he e)
  | tileReplayTimeout e t q => exact execTileReplayTimeout_keeps e t q (Within.row rfl (by decide +kernel)) (he e)
  | tileLinkDown e t => exact execTileLinkDown_keeps e t (Within.row rfl (by decide +kernel)) (he e)
  | portStart e p => exact execPortStart_keeps e p (Within.row rfl (by decide +kernel)) (he e)
  | cap e p q body => exact execCap_keeps e p q body (Within.row rfl (by decide +kernel)) (he e)
  | portRetry e p => exact execPortRetry_keeps e p (Within.row rfl (by decide +kernel)) (he e)
  | rate e p q body => exact execRate_keeps e p q body (Within.row rfl (by decide +kernel)) (he e)
  | rateSwitch e p => exact execRateSwitch_keeps e p (Within.row rfl (by decide +kernel)) (he e)
  | rateStepEnd e p ok => exact execRateStepEnd_keeps e p ok (Within.row rfl (by decide +kernel)) (he e)
  | portReplayTimeout e p q => exact execPortReplayTimeout_keeps e p q (Within.row rfl (by decide +kernel)) (he e)
  | portDown e p => exact execPortDown_keeps e p (Within.row rfl (by decide +kernel)) (he e)
  | portRetrain e p => exact execPortRetrain_keeps e p (Within.row rfl (by decide +kernel)) (he e)
  | portDisable e p => exact execPortDisable_keeps e p (Within.row rfl (by decide +kernel)) (he e)
  | timeExchangeStart e p t1 => exact execTimeExchangeStart_keeps e p t1 (Within.row rfl (by decide +kernel)) (he e)
  | tsync e p q body full t2 t3 => exact execTsync_keeps e p q body full t2 t3 (Within.row rfl (by decide +kernel)) (he e)
  | treq e p q body t4 => exact execTreq_keeps e p q body t4 (Within.row rfl (by decide +kernel)) (he e)
  | tresp e p q body => exact execTresp_keeps e p q body (Within.row rfl (by decide +kernel)) (he e)
  | tinfo e p q body => exact execTinfo_keeps e p q body (Within.row rfl (by decide +kernel)) (he e)
  | upstreamLoss e => exact execUpstreamLoss_keeps e (Within.row rfl (by decide +kernel)) (he e)
  | evbc e p body => exact execEvbc_keeps e p body (Within.row rfl (by decide +kernel)) (he e)
  | broadcastRelease e c => exact execBroadcastRelease_keeps e c (Within.row rfl (by decide +kernel)) (he e)
  | tokenJoin e p q home arg => exact execTokenJoin_keeps e p q home arg (Within.row rfl (by decide +kernel)) (he e)
  | tokenJoinres e p q home arg => exact execTokenJoinres_keeps e p q home arg (Within.row rfl (by decide +kernel)) (he e)
  | tokenEntry e p q home arg x0 x1 => exact execTokenEntry_keeps e p q home arg x0 x1 (Within.row rfl (by decide +kernel)) (he e)
  | tokenStart e p q home x0 => exact execTokenStart_keeps e p q home x0 (Within.row rfl (by decide +kernel)) (he e)
  | tokenHold e p q home x0 => exact execTokenHold_keeps e p q home x0 (Within.row rfl (by decide +kernel)) (he e)
  | tokenReady e p q home arg x0 => exact execTokenReady_keeps e p q home arg x0 (Within.row rfl (by decide +kernel)) (he e)
  | tokenResume e p q home x0 => exact execTokenResume_keeps e p q home x0 (Within.row rfl (by decide +kernel)) (he e)
  | tokenJump e p q home arg x0 => exact execTokenJump_keeps e p q home arg x0 (Within.row rfl (by decide +kernel)) (he e)
  | tokenStop e p q home x0 => exact execTokenStop_keeps e p q home x0 (Within.row rfl (by decide +kernel)) (he e)
  | tokenTset e p q home arg x0 x1 => exact execTokenTset_keeps e p q home arg x0 x1 (Within.row rfl (by decide +kernel)) (he e)
  | tokenState e p q home arg x0 => exact execTokenState_keeps e p q home arg x0 (Within.row rfl (by decide +kernel)) (he e)
  | tokenReset e p q home x0 => exact execTokenReset_keeps e p q home x0 (Within.row rfl (by decide +kernel)) (he e)
  | tokenTrim e p q home arg x0 => exact execTokenTrim_keeps e p q home arg x0 (Within.row rfl (by decide +kernel)) (he e)
  | tokenCounts e p q home x0 => exact execTokenCounts_keeps e p q home x0 (Within.row rfl (by decide +kernel)) (he e)
  | tokenCcrc e p q home arg x0 => exact execTokenCcrc_keeps e p q home arg x0 (Within.row rfl (by decide +kernel)) (he e)
  | record e p q home typ bytes => exact execRecord_keeps e p q home typ bytes (Within.row rfl (by decide +kernel)) (he e)
  | busRunWrite e en run => exact execBusRunWrite_keeps e en run (Within.row rfl (by decide +kernel)) (he e)
  | busFlush e en => exact execBusFlush_keeps e en (Within.row rfl (by decide +kernel)) (he e)
  | busRecover e en => exact execBusRecover_keeps e en (Within.row rfl (by decide +kernel)) (he e)
  | phyResetWrite e en held => exact execPhyResetWrite_keeps e en held (Within.row rfl (by decide +kernel)) (he e)
  | busTxPost e en v => exact execBusTxPost_keeps e en v (Within.row rfl (by decide +kernel)) (he e)
  | payloadRead e en k ecc => exact execPayloadRead_keeps e en k ecc (Within.row rfl (by decide +kernel)) (he e)
  | frameStart e en => exact execFrameStart_keeps e en (Within.row rfl (by decide +kernel)) (he e)
  | arbitrationLost e en => exact execArbitrationLost_keeps e en (Within.row rfl (by decide +kernel)) (he e)
  | frameExpired e en => exact execFrameExpired_keeps e en (Within.row rfl (by decide +kernel)) (he e)
  | txWriteBack e en sof eof => exact execTxWriteBack_keeps e en sof eof (Within.row rfl (by decide +kernel)) (he e)
  | gateFiring e en => exact execGateFiring_keeps e en (Within.row rfl (by decide +kernel)) (he e)
  | frameReceived e en f tag => exact execFrameReceived_keeps e en f tag (Within.row rfl (by decide +kernel)) (he e)
  | busError e en code inc => exact execBusError_keeps e en code inc (Within.row rfl (by decide +kernel)) (he e)
  | busOffRecovery e en => exact execBusOffRecovery_keeps e en (Within.row rfl (by decide +kernel)) (he e)
  | linHeader e en id => exact execLinHeader_keeps e en id (Within.row rfl (by decide +kernel)) (he e)
  | linWakeUp e en fell tag => exact execLinWakeUp_keeps e en fell tag (Within.row rfl (by decide +kernel)) (he e)
  | mdioCommand e en v => exact execMdioCommand_keeps e en v (Within.row rfl (by decide +kernel)) (he e)
  | mdioComplete e data => exact execMdioComplete_keeps e data (Within.row rfl (by decide +kernel)) (he e)
  | workItemEnqueue e w delayed due => exact execWorkItemEnqueue_keeps e w delayed due (Within.row rfl (by decide +kernel)) (he e)
  | safGet e c own => exact execSafGet_keeps e c own (he e)
  | dispatch e y ecc => exact execDispatch_keeps e y ecc (Within.row rfl (by decide +kernel)) (he e)
  | itemComplete e c status nrc v fw => exact execItemComplete_keeps e c status nrc v fw (Within.row rfl (by decide +kernel)) (he e)
  | delayDue e => exact execDelayDue_keeps e (Within.row rfl (by decide +kernel)) (he e)
  | watchdog e c => exact execWatchdog_keeps e c (Within.row rfl (by decide +kernel)) (he e)
  | planStart e x => exact execPlanStart_keeps e x (Within.row rfl (by decide +kernel)) (he e)
  | planStop e x => exact execPlanStop_keeps e x (Within.row rfl (by decide +kernel)) (he e)
  | planAbort e x => exact execPlanAbort_keeps e x (Within.row rfl (by decide +kernel)) (he e)
  | dutEvent e x => exact execDutEvent_keeps e x (Within.row rfl (by decide +kernel)) (he e)
  | planTestEnd e x => exact execPlanTestEnd_keeps e x (Within.row rfl (by decide +kernel)) (he e)
  | planTimeout e x => exact execPlanTimeout_keeps e x (he e)
  | staleRetry e x => exact execStaleRetry_keeps e x (Within.row rfl (by decide +kernel)) (he e)
  | reflEvent e x => exact execReflEvent_keeps e x (Within.row rfl (by decide +kernel)) (he e)
  | datalogRecord e x src => exact execDatalogRecord_keeps e x src (Within.row rfl (by decide +kernel)) (he e)
  | lost e x => exact execLost_keeps e x (Within.row rfl (by decide +kernel)) (he e)
  | udsRequest e c sof eof => exact execUdsRequest_keeps e c sof eof (Within.row rfl (by decide +kernel)) (he e)
  | udsSession e c sof eof => exact execUdsSession_keeps e c sof eof (Within.row rfl (by decide +kernel)) (he e)
  | security e c ecc sof eof => exact execSecurity_keeps e c ecc sof eof (Within.row rfl (by decide +kernel)) (he e)
  | download e c sof eof => exact execDownload_keeps e c sof eof (Within.row rfl (by decide +kernel)) (he e)
  | ecuReset e c sof eof => exact execEcuReset_keeps e c sof eof (Within.row rfl (by decide +kernel)) (he e)
  | udsResponse e x u r sof eof => exact execUdsResponse_keeps e x u r sof eof (Within.row rfl (by decide +kernel)) (he e)
  | p2Expiry e x u => exact execP2Expiry_keeps e x u (Within.row rfl (by decide +kernel)) (he e)
  | testerPresent e x u => exact execTesterPresent_keeps e x u (Within.row rfl (by decide +kernel)) (he e)
  | keyReply e => exact execKeyReply_keeps e (Within.row rfl (by decide +kernel)) (he e)
  | keyTimeout e x u => exact execKeyTimeout_keeps e x u (Within.row rfl (by decide +kernel)) (he e)
  | netlistBuild e x => exact execNetlistBuild_keeps e x (Within.row rfl (by decide +kernel)) (he e)
  | netlistAnalysis e x => exact execNetlistAnalysis_keeps e x (Within.row rfl (by decide +kernel)) (he e)
  | trigInEdge e n => exact execTrigInEdge_keeps e n (he e)
  | evfSwfire e v => exact execEvfSwfire_keeps e v (he e)
  | eventChannelFiring e p => exact execEventChannelFiring_keeps e p (Within.row rfl (by decide +kernel)) (he e)
  | heldFiringRelease e c => exact execHeldFiringRelease_keeps e c (Within.row rfl (by decide +kernel)) (he e)
  | trigOutPulseEnd e n => exact execTrigOutPulseEnd_keeps e n (he e)
  | timerExpiry e k => exact execTimerExpiry_keeps e k (Within.row rfl (by decide +kernel)) (he e)
  | evfTimerCfgWrite e k v => exact execEvfTimerCfgWrite_keeps e k v (Within.row rfl (by decide +kernel)) (he e)
  | timerStartFiring e k => exact execTimerStartFiring_keeps e k (Within.row rfl (by decide +kernel)) (he e)
  | interruptPending e n => exact execInterruptPending_keeps e n (Within.row rfl (by decide +kernel)) (he e)
  | ircClaim e a x => exact execIrcClaim_keeps (s₀ := s) e a x (Within.row rfl (by decide +kernel)) (he e)
  | ircComplete e a x n => exact execIrcComplete_keeps e a x n (Within.row rfl (by decide +kernel)) (he e)
  | ircMaskWrite e a w v => exact execIrcMaskWrite_keeps e a w v (Within.row rfl (by decide +kernel)) (he e)
  | holdoffEnd e g => exact execHoldoffEnd_keeps e g (Within.row rfl (by decide +kernel)) (he e)
  | lakOwnerWrite e a b v => exact execLakOwnerWrite_keeps e a b v (Within.row rfl (by decide +kernel)) (he e)
  | lakStateWrite e a b v => exact execLakStateWrite_keeps e a b v (Within.row rfl (by decide +kernel)) (he e)
  | bankTransitionComplete e b => exact execBankTransitionComplete_keeps e b (Within.row rfl (by decide +kernel)) (he e)
  | lakeWrite e a addr data coll => exact execLakeWrite_keeps e a addr data coll (Within.row rfl (by decide +kernel)) (he e)
  | lakeSetWrite e a addr data => exact execLakeSetWrite_keeps e a addr data (Within.row rfl (by decide +kernel)) (he e)
  | lakeClearWrite e a addr data => exact execLakeClearWrite_keeps e a addr data (Within.row rfl (by decide +kernel)) (he e)
  | dmcOpCmd e v => exact execDmcOpCmd_keeps e v (Within.row rfl (by decide +kernel)) (he e)
  | opChangeComplete e ok => exact execOpChangeComplete_keeps e ok (Within.row rfl (by decide +kernel)) (he e)
  | requestPromotion e k => exact execRequestPromotion_keeps e k (Within.row rfl (by decide +kernel)) (he e)
  | pageCloseTimeout e ch bank => exact execPageCloseTimeout_keeps e ch bank (he e)
  | perstN e high => exact execPerstN_keeps e high (Within.row rfl (by decide +kernel)) (he e)
  | flr e f => exact execFlr_keeps e f (Within.row rfl (by decide +kernel)) (he e)
  | hrgCmdTailWrite e a r v => exact execHrgCmdTailWrite_keeps e a r v (Within.row rfl (by decide +kernel)) (he e)
  | descriptorRead e r => exact execDescriptorRead_keeps e r (Within.row rfl (by decide +kernel)) (he e)
  | arm e x => exact execArm_keeps e x (Within.row rfl (by decide +kernel)) (he e)
  | abort e x => exact execAbort_keeps e x (Within.row rfl (by decide +kernel)) (he e)
  | ackCommand e x => exact execAckCommand_keeps e x (Within.row rfl (by decide +kernel)) (he e)
  | reset e x => exact execReset_keeps e x (Within.row rfl (by decide +kernel)) (he e)
  | setArg e x => exact execSetArg_keeps e x (Within.row rfl (by decide +kernel)) (he e)
  | ringPlanStart e x => exact execRingPlanStart_keeps e x (Within.row rfl (by decide +kernel)) (he e)
  | ringPlanStop e x => exact execRingPlanStop_keeps e x (Within.row rfl (by decide +kernel)) (he e)
  | ringPlanAbort e x => exact execRingPlanAbort_keeps e x (Within.row rfl (by decide +kernel)) (he e)
  | reflect e x => exact execReflect_keeps e x (Within.row rfl (by decide +kernel)) (he e)
  | tableLoad e x => exact execTableLoad_keeps e x (Within.row rfl (by decide +kernel)) (he e)
  | nvmRead e m data => exact execNvmRead_keeps e m data (Within.row rfl (by decide +kernel)) (he e)
  | nvmErase e m done => exact execNvmErase_keeps e m done (Within.row rfl (by decide +kernel)) (he e)
  | nvmProgram e m done => exact execNvmProgram_keeps e m done (Within.row rfl (by decide +kernel)) (he e)
  | todSet e m => exact execTodSet_keeps e m (Within.row rfl (by decide +kernel)) (he e)
  | todAdj e m => exact execTodAdj_keeps e m (Within.row rfl (by decide +kernel)) (he e)
  | descriptorComplete e r => exact execDescriptorComplete_keeps e r (Within.row rfl (by decide +kernel)) (he e)
  | hrgCmdSeenWrite e a r v => exact execHrgCmdSeenWrite_keeps e a r v (Within.row rfl (by decide +kernel)) (he e)
  | ringDisable e a r => exact execRingDisable_keeps e a r (Within.row rfl (by decide +kernel)) (he e)
  | hrgResRdWrite e x v => exact execHrgResRdWrite_keeps e x v (Within.row rfl (by decide +kernel)) (he e)
  | mbxDataWrite e a n w v => exact execMbxDataWrite_keeps e a n w v (Within.row rfl (by decide +kernel)) (he e)
  | mbxDoorbell e a n v => exact execMbxDoorbell_keeps e a n v (Within.row rfl (by decide +kernel)) (he e)
  | mbxTake e a n ecc => exact execMbxTake_keeps e a n ecc (Within.row rfl (by decide +kernel)) (he e)
  | mbxLockRead e a n => exact execMbxLockRead_keeps e a n (Within.row rfl (by decide +kernel)) (he e)
  | mbxLockRelease e a n v => exact execMbxLockRelease_keeps e a n v (Within.row rfl (by decide +kernel)) (he e)
  | keyStoreWrite e => exact execKeyStoreWrite_keeps e (Within.row rfl (by decide +kernel)) (he e)
  | keyStoreErase e => exact execKeyStoreErase_keeps e (Within.row rfl (by decide +kernel)) (he e)
  | reg64LowRead e a off => exact execReg64LowRead_keeps e a off (fun _ => rfl) (he e)
  | reg64HighWrite e a off v => exact execReg64HighWrite_keeps e a off v (fun _ => rfl) (he e)
  | rcRegisterRead e a off n => exact execRcRegisterRead_keeps e a off n (fun _ => rfl) (he e)
  | registerWrite e a off n v => exact execRegisterWrite_keeps e a off n v (fun _ => rfl) (he e)
  | safeInNFall e long => exact execSafeInNFall_keeps e long (Within.row rfl (by decide +kernel)) (he e)
  | cinForceWrite e v => exact execCinForceWrite_keeps e v (Within.row rfl (by decide +kernel)) (he e)
  | cinExit e v => exact execCinExit_keeps e v (Within.row rfl (by decide +kernel)) (he e)
  | exitRelease e => exact execExitRelease_keeps e (Within.row rfl (by decide +kernel)) (he e)
  | cinTileReset e v => exact execCinTileReset_keeps e v (Within.row rfl (by decide +kernel)) (he e)
  | cinCoreReset e v => exact execCinCoreReset_keeps e v (Within.row rfl (by decide +kernel)) (he e)
  | safeInNRise e => exact execSafeInNRise_keeps e (Within.row rfl (by decide +kernel)) (he e)
  | testenLow e => exact execTestenLow_keeps e (he e)
  | referenceReturn e => exact execReferenceReturn_keeps e (Within.row rfl (by decide +kernel)) (he e)
  | pcieLinkDown e => exact execPcieLinkDown_keeps e (Within.row rfl (by decide +kernel)) (he e)
  | pcieLinkUp e rate width flit rev => exact execPcieLinkUp_keeps e rate width flit rev (Within.row rfl (by decide +kernel)) (he e)
  | msixUnmask e f op => exact execMsixUnmask_keeps e f op (Within.row rfl (by decide +kernel)) (he e)
  | dramWrite e f addr data bad fixed lat pages => exact execDramWrite_keeps e f addr data bad fixed lat pages (Within.row rfl (by decide +kernel)) (he e)
  | isotpNTimeout e c began => exact execIsotpNTimeout_keeps e c began (Within.row rfl (by decide +kernel)) (he e)
  | phyResetRelease e en => exact execPhyResetRelease_keeps e en (he e)
  | xtalTempRead e temp => exact execXtalTempRead_keeps e temp (Within.row rfl (by decide +kernel)) (he e)
  | umbAgeIncrement e => exact execUmbAgeIncrement_keeps e (Within.row rfl (by decide +kernel)) (he e)

/-! ### The frame (spec/95_what_each_step_holds.md) -/

theorem Reg.ctorIdx_inj {r q : Reg} (h : r.ctorIdx = q.ctorIdx) : r = q := by
  rw [← Reg.ofNat_ctorIdx r, h, Reg.ofNat_ctorIdx]

/-- The numbers of registers lie below those of the memories and of what is sent. -/
theorem Reg.ctorIdx_lt (r : Reg) : r.ctorIdx < 500 := by
  cases r <;> decide

/-- The places of a row: its registers, those of device time, and the memories and what is sent where it says so. -/
theorem Touch.testBit_mask (w : Touch) (k : Nat) : w.mask.testBit k =
    (decide (∃ r ∈ timeRegs ++ w.regs, r.ctorIdx = k) || (w.mem && decide (500 = k) || w.out && decide (501 = k))) := by
  have hbit (b : Bool) (n : Nat) : (if b then 1 <<< n else 0).testBit k = (b && decide (n = k)) := by
    cases b <;> simp [Nat.one_shiftLeft, Nat.testBit_two_pow]
  rw [Touch.mask, testBit_foldr_regs, Nat.testBit_or, hbit, hbit]

theorem Touch.testBit_mask_reg {w : Touch} {r : Reg} (htime : r ∉ timeRegs) (hregs : r ∉ w.regs) : w.mask.testBit r.ctorIdx = false := by
  have hlt := r.ctorIdx_lt
  have hmem : 500 ≠ r.ctorIdx := by omega
  have hout : 501 ≠ r.ctorIdx := by omega
  rw [Touch.testBit_mask]
  simp only [hmem, hout, decide_false, Bool.and_false, Bool.or_false, decide_eq_false_iff_not]
  rintro ⟨q, hq, heq⟩
  rw [Reg.ctorIdx_inj heq, List.mem_append] at hq
  exact hq.elim htime hregs

theorem Touch.testBit_mask_of_big {w : Touch} {k : Nat} (hk : 500 ≤ k) :
    w.mask.testBit k = (w.mem && decide (500 = k) || w.out && decide (501 = k)) := by
  have hnone : ¬ ∃ r ∈ timeRegs ++ w.regs, r.ctorIdx = k := by
    rintro ⟨r, -, heq⟩
    have hlt := r.ctorIdx_lt
    omega
  rw [Touch.testBit_mask, decide_eq_false hnone, Bool.false_or]

/-- Settles O42: a register, the memories or what is sent lie outside the places of a command's row where the row does not name them, and
what lies outside is as before. -/
theorem frame : Obligations.Frame := by
  intro c s t w hrow hexec
  have hkeeps := exec_keeps_places c s t hexec
  refine ⟨fun r htime hregs f hf i => ?_, fun hmem => ?_, fun hout => ?_⟩
  · refine hkeeps.reg f i ?_
    rw [Reg.fields_place r f hf, rowPlaces_of_row hrow, Touch.testBit_mask_reg htime hregs]
  · have hplace : rowPlaces c 500 = false := by
      rw [rowPlaces_of_row hrow, Touch.testBit_mask_of_big le_rfl, hmem]
      simp
    obtain ⟨hdram, hzero, -, hlake, hlost, hepoch, hbad⟩ := hkeeps.byte hplace
    refine ⟨fun lake a => ?_, hbad⟩
    unfold State.byteAt State.zeroed
    rw [hdram, hzero, hlake, hlost, hepoch]
  · refine hkeeps.said ?_
    rw [rowPlaces_of_row hrow, Touch.testBit_mask_of_big (by decide), hout]
    simp

end Sys2Proof.Machine
end

section
/-! Bits of numbers and of the bit maps that registers hold, and the fields that an update of other state leaves alone. -/

namespace Sys2Proof.Machine

/-! ### Bits -/

@[simp] theorem bitAt_setBit (v i j : Nat) : bitAt (setBit v i) j = (bitAt v j || decide (i = j)) := by
  simp only [bitAt, setBit, Nat.testBit_or, Nat.one_shiftLeft, Nat.testBit_two_pow]

@[simp] theorem bitAt_clearBit (v i j : Nat) : bitAt (clearBit v i) j = (bitAt v j && !decide (i = j)) := by
  unfold bitAt clearBit
  split
  · rename_i hset
    rw [Nat.testBit_xor, Nat.one_shiftLeft, Nat.testBit_two_pow]
    by_cases heq : i = j
    · subst heq
      simp [hset]
    · simp [heq]
  · rename_i hclear
    by_cases heq : i = j
    · subst heq
      simpa using hclear
    · simp [heq]

@[simp] theorem bitAt_mod (v w j : Nat) : bitAt (v % 2 ^ w) j = (decide (j < w) && bitAt v j) := Nat.testBit_mod_two_pow v w j

/-! ### Bit maps -/

/-- A bit of a map of 32-bit words, after a write to one of its bits. -/
theorem State.mapBit_setMapBit (s : State) (f : Fld) (base n m : Nat) (b : Bool) (hw : f.w = 32) :
    (s.setMapBit f base n b).mapBit f base m = if m = n then b else s.mapBit f base m := by
  have hlt : m % 32 < 32 := Nat.mod_lt _ (by decide)
  unfold State.mapBit State.setMapBit
  dsimp only
  by_cases hword : m / 32 = n / 32
  · have hbit : m = n ↔ n % 32 = m % 32 := by omega
    rw [hword, State.get_set_self, hw, bitAt_mod]
    cases b
    · by_cases heq : n % 32 = m % 32 <;> simp [hbit, heq, hlt]
    · by_cases heq : n % 32 = m % 32 <;> simp [hbit, heq, hlt]
  · rw [State.get_set_idx _ _ _ _ _ _ (by omega), if_neg (by rintro rfl; exact hword rfl)]

/-- A write to a bit map leaves every other field alone. -/
theorem State.get_setMapBit_fld (s : State) (f g : Fld) (base n j : Nat) (b : Bool) (h : g.id ≠ f.id) :
    (s.setMapBit f base n b).get g j = s.get g j := State.get_set_fld _ _ _ _ _ _ h

theorem State.mapBit_setMapBit_fld (s : State) (f g : Fld) (base base' n m : Nat) (b : Bool) (h : g.id ≠ f.id) :
    (s.setMapBit f base n b).mapBit g base' m = s.mapBit g base' m := by
  unfold State.mapBit
  rw [State.get_setMapBit_fld _ _ _ _ _ _ _ h]

theorem State.mapBit_set_fld (s : State) (f g : Fld) (i base m v : Nat) (h : g.id ≠ f.id) :
    (s.set f i v).mapBit g base m = s.mapBit g base m := by
  unfold State.mapBit
  rw [State.get_set_fld _ _ _ _ _ _ h]

/-- A bit map whose register is left alone reads as before. -/
theorem Keeps.mapBit {s t : State} {f : Fld} {base n : Nat} (h : Keeps (fun k => k != f.id / 128) s t) :
    t.mapBit f base n = s.mapBit f base n := by
  unfold State.mapBit
  rw [h.get]

theorem Keeps.flag {s t : State} {f : Fld} {i : Nat} (h : Keeps (fun k => k != f.id / 128) s t) : t.flag f i = s.flag f i := by
  unfold State.flag
  rw [h.get]

end Sys2Proof.Machine
end

section
/-! The interrupt controller: what becomes pending, what a claim takes, what a completion leaves and what holding off stops; and the
statements about it (R310–R317, R337). -/

namespace Sys2Proof.Machine

/-! ### Which meaning the dispatch calls -/

theorem exec_ircClaim (e a x s) : exec (.ircClaim e a x) s = execIrcClaim e a x s := rfl

theorem exec_ircComplete (e a x n s) : exec (.ircComplete e a x n) s = execIrcComplete e a x n s := rfl

theorem exec_interruptPending (e n s) : exec (.interruptPending e n) s = execInterruptPending e n s := rfl

theorem exec_ircMaskWrite (e a w v s) : exec (.ircMaskWrite e a w v) s = execIrcMaskWrite e a w v s := rfl

theorem exec_holdoffEnd (e g s) : exec (.holdoffEnd e g) s = execHoldoffEnd e g s := rfl

theorem exec_msixUnmask (e f op s) : exec (.msixUnmask e f op) s = execMsixUnmask e f op s := rfl

/-! ### Becoming pending (R312, R314) -/

/-- A pulse or an edge comes to a source that has one already: it waits for a completion, or is still pending. -/
def State.edgeMerges (s : State) (n : Nat) : Prop :=
  if s.mapBit F.IRC_CLAIMED.SRC 0 n then Tab.get 0 s.irc.latched n = 1 else s.mapBit F.IRC_PEND.SRC 0 n = true

theorem State.edgeArrive_of_merges {s : State} {n : Nat} (h : s.edgeMerges n) : s.edgeArrive n = s.setMapBit F.IRC_OVR.SRC 0 n true := by
  unfold State.edgeMerges at h
  unfold State.edgeArrive
  by_cases hclaimed : s.mapBit F.IRC_CLAIMED.SRC 0 n = true
  · rw [if_pos hclaimed] at h
    rw [if_pos hclaimed, if_pos h]
  · rw [if_neg hclaimed] at h
    rw [if_neg hclaimed, if_pos h]

/-- A merged edge sets OVR and leaves what is pending. -/
theorem State.edgeArrive_marks {s : State} {n : Nat} (h : s.edgeMerges n) : (s.edgeArrive n).mapBit F.IRC_OVR.SRC 0 n = true ∧
    (s.edgeArrive n).mapBit F.IRC_PEND.SRC 0 n = s.mapBit F.IRC_PEND.SRC 0 n := by
  rw [State.edgeArrive_of_merges h, State.mapBit_setMapBit _ _ _ _ _ _ rfl, State.mapBit_setMapBit_fld _ _ _ _ _ _ _ _ (by decide)]
  simp

/-- Delivery sends messages and sets bits of a PBA; the pending sources stay. -/
theorem State.pending_deliver (s : State) (n m : Nat) : (s.deliver n).mapBit F.IRC_PEND.SRC 0 m = s.mapBit F.IRC_PEND.SRC 0 m :=
  (State.deliver_keeps _ (Within.ne (by decide)) (Keeps.refl _ s)).mapBit

theorem State.pending_pend (s : State) (n : Nat) : (s.pend n).mapBit F.IRC_PEND.SRC 0 n = true := by
  rw [State.pend, State.pending_deliver, State.mapBit_setMapBit _ _ _ _ _ _ rfl, if_pos rfl]

/-- The state in which a line source arrives once its sample is recorded. -/
def State.sampled (s : State) (n : Nat) : State :=
  let s1 := s.setMapBit F.IRC_LINE.SRC 0 n (s.lineLevel n)
  { s1 with irc := { s1.irc with lineWas := Tab.set 0 s1.irc.lineWas n (ofBool (s.lineLevel n)) } }

theorem State.mapBit_sampled (s : State) (n : Nat) (f : Fld) (m : Nat) (hf : f.reg ≠ .IRC_LINE) (hlo : f.lo < 128) :
    (s.sampled n).mapBit f 0 m = s.mapBit f 0 m := by
  have hid : f.id ≠ F.IRC_LINE.SRC.id := by
    intro heq
    have hreg : f.reg.ctorIdx = Reg.IRC_LINE.ctorIdx := by
      simp only [Fld.id] at heq
      omega
    exact hf (by rw [← Reg.ofNat_ctorIdx f.reg, hreg, Reg.ofNat_ctorIdx])
  unfold State.sampled
  extract_lets s1
  exact State.mapBit_setMapBit_fld _ _ _ _ _ _ _ _ hid

theorem State.edgeMerges_sampled {s : State} {n : Nat} (h : s.edgeMerges n) : (s.sampled n).edgeMerges n := by
  unfold State.edgeMerges
  rw [State.mapBit_sampled _ _ _ _ (by decide) (by decide), State.mapBit_sampled _ _ _ _ (by decide) (by decide)]
  exact h

theorem State.sampleLine_of_rise {s : State} {n : Nat} (hedge : s.edgeSource n = true) (hlevel : s.lineLevel n = true)
    (hwas : Tab.get 0 s.irc.lineWas n = 0) : s.sampleLine n = (s.sampled n).edgeArrive n := by
  simp [State.sampleLine, State.sampled, hedge, hlevel, hwas]

/-- The sample of a source that is treated by its level: pending while asserted. -/
theorem State.pending_sampleLine {s : State} {n : Nat} (hedge : s.edgeSource n = false) (hfree : s.mapBit F.IRC_CLAIMED.SRC 0 n = false) :
    (s.sampleLine n).mapBit F.IRC_PEND.SRC 0 n = (s.mapBit F.IRC_PEND.SRC 0 n || s.lineLevel n) := by
  have hsame : (s.sampled n).mapBit F.IRC_PEND.SRC 0 n = s.mapBit F.IRC_PEND.SRC 0 n :=
    State.mapBit_sampled _ _ _ _ (by decide) (by decide)
  have hdef : s.sampleLine n = if s.lineLevel n && !s.mapBit F.IRC_PEND.SRC 0 n then (s.sampled n).pend n else s.sampled n := by
    simp [State.sampleLine, State.sampled, hedge, hfree]
  rw [hdef]
  split
  · rename_i hnew
    rw [State.pending_pend]
    simp_all
  · rename_i hold
    rw [hsame]
    simp only [Bool.and_eq_true, Bool.not_eq_true', not_and, Bool.not_eq_false] at hold
    cases hlevel : s.lineLevel n with
    | false => simp
    | true => simp [hold hlevel]

section
variable {e : Nat} {n : Fin 4096} {s u : State} (hu : u = s.elapse e)
include hu

theorem exec_interruptPending_of_pulse (hpulse : pulseSource n.val = true) (hcame : u.irc.pulses.contains n.val = true)
    (hawake : u.dev ≠ 6) : exec (.interruptPending e n) s =
      .next (State.edgeArrive { u with irc := { u.irc with pulses := u.irc.pulses.erase n.val } } n.val) := by
  simp only [exec_interruptPending, execInterruptPending, ← hu, hpulse, hcame, beq_iff_eq, hawake, if_true, if_false]

theorem exec_interruptPending_of_dormant (hpulse : pulseSource n.val = true) (hcame : u.irc.pulses.contains n.val = true)
    (hdormant : u.dev = 6) : exec (.interruptPending e n) s =
      .next { u with irc := { u.irc with pulses := u.irc.pulses.erase n.val } } := by
  simp only [exec_interruptPending, execInterruptPending, ← hu, hpulse, hcame, beq_iff_eq, hdormant, if_true]

theorem exec_interruptPending_of_line (hline : pulseSource n.val = false) (hawake : u.dev ≠ 6) :
    exec (.interruptPending e n) s = .next (u.sampleLine n.val) := by
  simp [exec_interruptPending, execInterruptPending, ← hu, hline, hawake]

end

/-! ### Claims (R313, R316) -/

/-- A source of a list that comes first: no other has a higher priority, and none of equal priority a lower number. -/
def State.firstOf (s : State) (l : List Nat) (n : Nat) : Prop :=
  n ∈ l ∧ ∀ m ∈ l, s.get F.IRC_SRC.PRIO n < s.get F.IRC_SRC.PRIO m ∨ (s.get F.IRC_SRC.PRIO n = s.get F.IRC_SRC.PRIO m ∧ n ≤ m)

/-- One more source, of a higher number, keeps its place behind the first one unless its priority is higher. -/
theorem State.firstOf_betterSource {s : State} {l : List Nat} {b k : Nat} (h : s.firstOf l b) (hk : ∀ m ∈ l, m < k) :
    ∃ n, s.betterSource (some b) k = some n ∧ s.firstOf (l ++ [k]) n := by
  obtain ⟨hmem, hfirst⟩ := h
  have hbk := hk b hmem
  by_cases hprio : s.get F.IRC_SRC.PRIO k < s.get F.IRC_SRC.PRIO b
  · refine ⟨k, if_pos hprio, by simp, fun m hm => ?_⟩
    obtain hm | rfl : m ∈ l ∨ m = k := by simpa using hm
    · have hm := hfirst m hm
      omega
    · exact .inr ⟨rfl, le_rfl⟩
  · refine ⟨b, if_neg hprio, by simp [hmem], fun m hm => ?_⟩
    obtain hm | rfl : m ∈ l ∨ m = k := by simpa using hm
    · exact hfirst m hm
    · omega

/-- Going through rising numbers finds the source that comes first, where there is one. -/
theorem State.foldl_betterSource (s : State) (l : List Nat) (hl : l.Pairwise (· < ·)) (hne : l ≠ []) :
    ∃ n, l.foldl (fun b n => s.betterSource b n) none = some n ∧ s.firstOf l n := by
  induction l using List.reverseRecOn with
  | nil => exact absurd rfl hne
  | append_singleton l k ih =>
    rw [List.pairwise_append] at hl
    obtain ⟨hrise, -, hlast⟩ := hl
    rw [List.foldl_append]
    by_cases hempty : l = []
    · subst hempty
      exact ⟨k, rfl, by simp [State.firstOf]⟩
    · obtain ⟨b, hb, hfirst⟩ := ih hrise hempty
      rw [hb]
      exact State.firstOf_betterSource hfirst fun m hm => hlast m hm k (by simp)

/-- The sources that are deliverable to a slot, by number. -/
def State.waitingFor (s : State) (x : Nat) : List Nat := (List.range 1977).filter (fun n => s.deliverable n && s.serves n x)

theorem State.mem_waitingFor {s : State} {x n : Nat} :
    n ∈ s.waitingFor x ↔ n < 1977 ∧ s.deliverable n = true ∧ s.serves n x = true := by
  simp [State.waitingFor]

theorem State.bestSource_eq (s : State) (x : Nat) :
    s.bestSource x = (s.waitingFor x).foldl (fun b n => s.betterSource b n) none := by
  rw [State.bestSource, State.waitingFor]

theorem State.bestSource_of_waiting {s : State} {x : Nat} (hne : s.waitingFor x ≠ []) :
    ∃ n, s.bestSource x = some n ∧ s.firstOf (s.waitingFor x) n := by
  rw [State.bestSource_eq]
  exact s.foldl_betterSource _ (List.pairwise_lt_range.filter _) hne

theorem State.bestSource_of_none {s : State} {x : Nat} (hnone : s.waitingFor x = []) : s.bestSource x = none := by
  rw [State.bestSource_eq, hnone, List.foldl_nil]

/-- What the claim takes is deliverable to its slot. -/
theorem State.deliverable_bestSource {s : State} {x n : Nat} (hbest : s.bestSource x = some n) : s.deliverable n = true := by
  by_cases hnone : s.waitingFor x = []
  · rw [State.bestSource_of_none hnone] at hbest
    cases hbest
  · obtain ⟨m, hm, hmem, -⟩ := State.bestSource_of_waiting hnone
    obtain rfl : n = m := by simpa [hbest] using hm
    exact (State.mem_waitingFor.1 hmem).2.1

/-- The group of a source that is deliverable does not hold off. -/
theorem State.active_of_deliverable {s : State} {n : Nat} (h : s.deliverable n = true) : s.get F.IRC_HOLDOFF.ACTIVE (n / 64) = 0 := by
  simp only [State.deliverable, Bool.and_eq_true, beq_iff_eq] at h
  exact h.2

theorem State.deliverable_of_active {s : State} {n : Nat} (h : s.get F.IRC_HOLDOFF.ACTIVE (n / 64) = 1) : s.deliverable n = false := by
  simp [State.deliverable, h]

theorem State.deliverable_of_idle {s : State} {n : Nat} (h : s.mapBit F.IRC_PEND.SRC 0 n = false) : s.deliverable n = false := by
  simp [State.deliverable, h]

@[simp] theorem State.mapBit_irc (s : State) (i : Irc) (f : Fld) (base m : Nat) :
    State.mapBit { s with irc := i } f base m = s.mapBit f base m := by
  unfold State.mapBit
  rw [State.get_mk]

/-- A source goes to a slot: it no longer is pending. -/
def State.taken (s : State) (x n : Nat) : State :=
  { (s.setMapBit F.IRC_PEND.SRC 0 n false).setMapBit F.IRC_CLAIMED.SRC 0 n true with
    irc := { s.irc with holder := Tab.set 0 s.irc.holder n (x + 1) } }

/-- A group holds off until DT d. -/
def State.holdOff (s : State) (g d : Nat) : State :=
  { s.set F.IRC_HOLDOFF.ACTIVE g 1 with irc := { s.irc with holdUntil := Tab.set 0 s.irc.holdUntil g d } }

theorem State.claim_eq (s : State) (x n : Nat) : s.claim x n =
    if s.get F.IRC_HOLDOFF.STEPS (n / 64) = 0 then s.taken x n
    else (s.taken x n).holdOff (n / 64) (wrap64 (s.now + s.get F.IRC_HOLDOFF.STEPS (n / 64) * ns 100)) := rfl

theorem State.mapBit_holdOff (s : State) (g d : Nat) (f : Fld) (base m : Nat) (hf : f.id ≠ F.IRC_HOLDOFF.ACTIVE.id) :
    (s.holdOff g d).mapBit f base m = s.mapBit f base m := by
  rw [State.holdOff, State.mapBit_irc, State.mapBit_set_fld _ _ _ _ _ _ _ hf]

theorem State.get_taken (s : State) (x n g : Nat) : (s.taken x n).get F.IRC_HOLDOFF.ACTIVE g = s.get F.IRC_HOLDOFF.ACTIVE g := by
  rw [State.taken, State.get_mk, State.get_setMapBit_fld _ _ _ _ _ _ _ (by decide), State.get_setMapBit_fld _ _ _ _ _ _ _ (by decide)]

/-- A claim takes the source out of the pending ones and gives it to the slot, whatever its group holds off. -/
theorem State.claim_takes (s : State) (x n : Nat) : Tab.get 0 (s.claim x n).irc.holder n = x + 1 ∧
    (s.claim x n).mapBit F.IRC_CLAIMED.SRC 0 n = true ∧
    ∀ m, (s.claim x n).mapBit F.IRC_PEND.SRC 0 m = if m = n then false else s.mapBit F.IRC_PEND.SRC 0 m := by
  have hheld : Tab.get 0 (s.taken x n).irc.holder n = x + 1 := by
    show Tab.get 0 (Tab.set 0 s.irc.holder n (x + 1)) n = x + 1
    exact Tab.get_set_self ..
  have hclaimed : (s.taken x n).mapBit F.IRC_CLAIMED.SRC 0 n = true := by
    rw [State.taken, State.mapBit_irc, State.mapBit_setMapBit _ _ _ _ _ _ rfl, if_pos rfl]
  have hpend (m : Nat) : (s.taken x n).mapBit F.IRC_PEND.SRC 0 m = if m = n then false else s.mapBit F.IRC_PEND.SRC 0 m := by
    rw [State.taken, State.mapBit_irc, State.mapBit_setMapBit_fld _ _ _ _ _ _ _ _ (by decide), State.mapBit_setMapBit _ _ _ _ _ _ rfl]
  rw [State.claim_eq]
  split
  · exact ⟨hheld, hclaimed, hpend⟩
  · refine ⟨hheld, ?_, fun m => ?_⟩
    · rw [State.mapBit_holdOff _ _ _ _ _ _ (by decide), hclaimed]
    · rw [State.mapBit_holdOff _ _ _ _ _ _ (by decide), hpend]

theorem State.claim_of_holdoff {s : State} {n : Nat} (x : Nat) (hlong : s.get F.IRC_HOLDOFF.STEPS (n / 64) ≠ 0) :
    (s.claim x n).get F.IRC_HOLDOFF.ACTIVE (n / 64) = 1 ∧ Tab.get 0 (s.claim x n).irc.holdUntil (n / 64) =
      wrap64 (s.now + s.get F.IRC_HOLDOFF.STEPS (n / 64) * ns 100) := by
  rw [State.claim_eq, if_neg hlong]
  refine ⟨?_, Tab.get_set_self ..⟩
  rw [State.holdOff, State.get_mk, State.get_set_self]
  rfl

theorem State.claim_of_noHoldoff {s : State} {n : Nat} (x g : Nat) (hnone : s.get F.IRC_HOLDOFF.STEPS (n / 64) = 0) :
    (s.claim x n).get F.IRC_HOLDOFF.ACTIVE g = s.get F.IRC_HOLDOFF.ACTIVE g := by
  rw [State.claim_eq, if_pos hnone, State.get_taken]

/-- What is delivered stays deliverable. -/
theorem State.deliverable_each_deliver (s : State) (l : List Nat) (f : Nat → Nat) (m : Nat) :
    (s.each l (fun s k => s.deliver (f k))).deliverable m = s.deliverable m := by
  refine State.each_inv (fun s => s.deliverable m) _ (fun v k => ?_) l s
  unfold State.deliverable
  rw [(State.deliver_keeps (f k) (Within.ne (by decide)) (Keeps.refl _ v)).mapBit,
    (State.deliver_keeps (f k) (Within.ne (by decide)) (Keeps.refl _ v)).mapBit,
    (State.deliver_keeps (f k) (Within.ne (by decide)) (Keeps.refl _ v)).get]

theorem State.active_each_deliver (s : State) (l : List Nat) (f : Nat → Nat) (g : Nat) :
    (s.each l (fun s k => s.deliver (f k))).get F.IRC_HOLDOFF.ACTIVE g = s.get F.IRC_HOLDOFF.ACTIVE g :=
  State.each_inv (fun s => s.get F.IRC_HOLDOFF.ACTIVE g) _
    (fun v k => (State.deliver_keeps (f k) (Within.ne (by decide)) (Keeps.refl _ v)).get) l s

/-- A group that no longer holds off. -/
theorem State.holdoff_over (s : State) (g : Nat) (i : Irc) : State.get { s.set F.IRC_HOLDOFF.ACTIVE g 0 with irc := i } F.IRC_HOLDOFF.ACTIVE g = 0 := by
  rw [State.get_mk, State.get_set_self]
  rfl

theorem State.deliverable_of_over {s : State} {g m : Nat} (i : Irc) (hm : m / 64 = g) (hpend : s.mapBit F.IRC_PEND.SRC 0 m = true)
    (hmask : s.mapBit F.IRC_MASK.SRC 0 m = false) : State.deliverable { s.set F.IRC_HOLDOFF.ACTIVE g 0 with irc := i } m = true := by
  unfold State.deliverable
  rw [hm, State.holdoff_over, State.mapBit_irc, State.mapBit_set_fld _ _ _ _ _ _ _ (by decide), hpend, State.mapBit_irc,
    State.mapBit_set_fld _ _ _ _ _ _ _ (by decide), hmask]
  rfl

section
variable {e : Nat} {a : Agent} {x : Fin 56} {s u : State} (hu : u = s.elapse e)
include hu

theorem exec_ircClaim_of_best {n : Nat} (hopen : slotOpen a x.val = true) (hreach : u.reaches a .IRC_CLAIM = true)
    (hbest : u.bestSource x.val = some n) : exec (.ircClaim e a x) s = .next { u.claim x.val n with readData := n } := by
  simp [exec_ircClaim, execIrcClaim, ← hu, hopen, hreach, hbest]

theorem exec_ircClaim_of_none (hopen : slotOpen a x.val = true) (hreach : u.reaches a .IRC_CLAIM = true)
    (hnone : u.bestSource x.val = none) : exec (.ircClaim e a x) s = .next { u with readData := 0 } := by
  simp [exec_ircClaim, execIrcClaim, ← hu, hopen, hreach, hnone]

theorem exec_ircClaim_of_shut (hshut : slotOpen a x.val = false) : exec (.ircClaim e a x) s = .next { u with readData := 0 } := by
  simp [exec_ircClaim, execIrcClaim, ← hu, hshut]

/-! ### Completions (R314) -/

theorem exec_ircComplete_of_slot {n : Fin 4096} (hreach : u.reaches a .IRC_COMPLETE = true) (hslot : x.val < 48 ∨ a = .pf1) :
    exec (.ircComplete e a x n) s = .next (u.completeWrite x.val n.val) := by
  simp [exec_ircComplete, execIrcComplete, ← hu, hreach, hslot]

end

theorem State.completeWrite_of_holder {s : State} {x n : Nat} (h : Tab.get 0 s.irc.holder n = x + 1) :
    s.completeWrite x n = s.completeSrc n := if_pos h

theorem State.completeWrite_of_stranger {s : State} {x n : Nat} (h : Tab.get 0 s.irc.holder n ≠ x + 1) :
    s.completeWrite x n = s.set F.IRC_FAULT_STAT.BAD_COMPLETE 0 1 := if_neg h

/-- A fault line reads FAULT_STAT and FAULT_MASK alone. -/
theorem State.faultLine_congr {s t : State} (st : Reg) (mask : Fld) (i : Nat) (hstat : ∀ f ∈ st.fields, t.get f i = s.get f i)
    (hmask : t.get mask i = s.get mask i) : t.faultLine st mask i = s.faultLine st mask i := by
  have hval : t.regVal st i = s.regVal st i := by
    unfold State.regVal
    exact List.foldl_ext _ _ _ fun v f hf => by rw [hstat f hf]
  unfold State.faultLine
  rw [hval, hmask]

/-- No line reads the claimed sources. -/
theorem State.lineLevel_of_keeps {s t : State} (h : Keeps (fun k => k == Reg.IRC_CLAIMED.ctorIdx) s t) (n : Nat) :
    t.lineLevel n = s.lineLevel n := by
  have hget (f : Fld) (i : Nat) (hf : (f.id / 128 == Reg.IRC_CLAIMED.ctorIdx) = false) : t.get f i = s.get f i := h.reg f i hf
  have hline (st : Reg) (mask : Fld) (i : Nat) (hst : (st.ctorIdx == Reg.IRC_CLAIMED.ctorIdx) = false)
      (hmask : (mask.id / 128 == Reg.IRC_CLAIMED.ctorIdx) = false) : t.faultLine st mask i = s.faultLine st mask i :=
    State.faultLine_congr st mask i (fun f hf => hget f i (by rw [Reg.fields_place st f hf, hst])) (hget mask i hmask)
  have hcore (i : Nat) : t.coreLine i = s.coreLine i := by
    unfold State.coreLine
    split <;> first | rfl | exact hline _ _ _ (by decide) (by decide)
  have htile (i k : Nat) : t.tileLine i k = s.tileLine i k := by
    unfold State.tileLine
    split <;> exact hline _ _ _ (by decide) (by decide)
  have hbus (i : Nat) : t.faultLine .BUS_FAULT_STAT F.BUS_FAULT_MASK.BITS i = s.faultLine .BUS_FAULT_STAT F.BUS_FAULT_MASK.BITS i :=
    hline _ _ _ (by decide) (by decide)
  unfold State.lineLevel State.flag
  simp only [hcore, htile, hbus, hget F.SEP_CAP_RING_WR.POS _ rfl, hget F.SEP_CAP_RING_RD.POS _ rfl, hget F.SEP_ACQ_RING_WR.POS _ rfl,
    hget F.SEP_ACQ_RING_RD.POS _ rfl, hget F.BUS_RX_WR.POS _ rfl, hget F.BUS_RX_RD.POS _ rfl, hget F.BUS_SR_WR.POS _ rfl,
    hget F.BUS_SR_RD.POS _ rfl, hget F.HRG_RES_CFG.THRESH _ rfl, hget F.HRG_RES_RD.POS _ rfl, hget F.HRG_RES_WR.POS _ rfl,
    hget F.HRG_CMD_DONE.POS _ rfl, hget F.HRG_CMD_SEEN.POS _ rfl, hget F.HRG_MGT_DONE.POS _ rfl, hget F.HRG_MGT_SEEN.POS _ rfl,
    hget F.MBX_STAT.FULL _ rfl]

/-- A completion takes the source from its slot; an edge that waits, or a level that stands, makes it pending again. -/
theorem State.completeSrc_idles (s : State) (n : Nat) : (s.completeSrc n).mapBit F.IRC_CLAIMED.SRC 0 n = false ∧
    (s.completeSrc n).mapBit F.IRC_PEND.SRC 0 n = (s.mapBit F.IRC_PEND.SRC 0 n ||
      if s.edgeSource n then Tab.get 0 s.irc.latched n == 1 else s.lineLevel n) := by
  unfold State.completeSrc
  extract_lets s1 irc s2
  have hkept : Keeps (fun k => k == Reg.IRC_CLAIMED.ctorIdx) s s2 := Keeps.upd (State.setMapBit_keeps _ _ _ _ (by decide) (Keeps.refl _ s))
  have hfree : s2.mapBit F.IRC_CLAIMED.SRC 0 n = false := by
    show s1.mapBit F.IRC_CLAIMED.SRC 0 n = false
    rw [State.mapBit_setMapBit _ _ _ _ _ _ rfl, if_pos rfl]
  have hpend : s2.mapBit F.IRC_PEND.SRC 0 n = s.mapBit F.IRC_PEND.SRC 0 n := by
    show s1.mapBit F.IRC_PEND.SRC 0 n = _
    exact State.mapBit_setMapBit_fld _ _ _ _ _ _ _ _ (by decide)
  have hedge : s2.edgeSource n = s.edgeSource n := by
    unfold State.edgeSource State.flag
    rw [hkept.reg _ _ (by decide)]
  by_cases hkind : s.edgeSource n = true
  · rw [if_pos hkind, if_pos hkind]
    split
    · rename_i hlatched
      refine ⟨(State.pend_keeps _ (Within.ne (by decide)) (Keeps.refl _ s2)).mapBit.trans hfree, ?_⟩
      rw [State.pending_pend, hlatched]
      simp
    · rename_i hnone
      exact ⟨hfree, by rw [hpend, beq_eq_false_iff_ne.2 hnone, Bool.or_false]⟩
  · rw [if_neg hkind, if_neg hkind]
    refine ⟨(State.sampleLine_keeps _ (Within.ne (by decide)) (Keeps.refl _ s2)).mapBit.trans hfree, ?_⟩
    rw [State.pending_sampleLine (by rw [hedge]; simpa using hkind) hfree, hpend, State.lineLevel_of_keeps hkept]

/-! ### Masks, the end of a hold-off and vectors (R315, R316, R337) -/

section
variable {e : Nat} {s u : State} (hu : u = s.elapse e)
include hu

theorem exec_ircMaskWrite_of_reached {a : Agent} {w : Fin 128} (v : Word32) (hreach : u.reaches a .IRC_MASK = true) :
    exec (.ircMaskWrite e a w v) s = .next (u.writeIrcMask w.val v.toNat) := by
  simp [exec_ircMaskWrite, execIrcMaskWrite, ← hu, hreach]

theorem exec_holdoffEnd_of_over {g : Group} (hactive : u.flag F.IRC_HOLDOFF.ACTIVE g.val = true) (hawake : u.dev ≠ 6)
    (hover : u.reached (Tab.get 0 u.irc.holdUntil g.val) = true) : exec (.holdoffEnd e g) s =
      .next (State.each { u.set F.IRC_HOLDOFF.ACTIVE g.val 0 with irc := { u.irc with holdUntil := Tab.set 0 u.irc.holdUntil g.val 0 } }
        (List.range 64) (fun s k => s.deliver (64 * g.val + k))) := by
  simp [exec_holdoffEnd, execHoldoffEnd, ← hu, hactive, hawake, hover]

theorem exec_msixUnmask_of_vector {f : Func} {v : Fin 32} (hvec : v.val < (fnSlots f).2) (hreach : u.reaches f.agent .PCI_MSIX0_CTRL = true) :
    exec (.msixUnmask e f (.vector v)) s = .next ((u.set (fnMask f) v.val 0).flushMsix f) := by
  simp [exec_msixUnmask, execMsixUnmask, ← hu, hvec, hreach]

end

/-- A word of IRC_MASK other than the first takes its value whole. -/
theorem State.writeIrcMask_of_other {s : State} {w : Nat} (v : Nat) (hother : w ≠ 0) : s.writeIrcMask w v =
    (s.set F.IRC_MASK.SRC w v).each ((List.range 32).filter (fun b => bitAt (s.get F.IRC_MASK.SRC w) b && !bitAt v b))
      (fun s b => s.deliver (32 * w + b)) := by
  simp only [State.writeIrcMask, if_neg hother]

/-! ### The statements -/

/-- Settles O28: a source is looked at by its kind and the device state; a mask and a hold-off that end deliver what they held back. -/
theorem interruptComplete : Obligations.InterruptComplete := by
  intro e s u hu
  refine ⟨?pulse, ?dormant, ?line, ?mask, ?ended⟩
  case pulse =>
    intro n hpulse hcame hawake
    exact exec_interruptPending_of_pulse hu hpulse hcame hawake
  case dormant =>
    intro n hpulse hcame hdormant
    exact exec_interruptPending_of_dormant hu hpulse hcame hdormant
  case line =>
    intro n hline hawake
    exact exec_interruptPending_of_line hu hline hawake
  case mask =>
    intro a w v hreach hother
    rw [exec_ircMaskWrite_of_reached hu v hreach, State.writeIrcMask_of_other _ hother]
  case ended =>
    intro g hactive hawake hover
    exact exec_holdoffEnd_of_over hu hactive hawake hover

/-- Settles O29: a claim answers the best source of its slot, a completion looks at who holds the source, and an unmask sends what waits. -/
theorem claimComplete : Obligations.ClaimComplete := by
  intro e s u hu
  refine ⟨?best, ?none, ?holder, ?stranger, ?vector, ?enable⟩
  case best =>
    intro a x n hopen hreach hbest
    exact exec_ircClaim_of_best hu hopen hreach hbest
  case none =>
    intro a x hopen hreach hnone
    exact exec_ircClaim_of_none hu hopen hreach hnone
  case holder =>
    intro a x n hreach hslot hholder
    rw [exec_ircComplete_of_slot hu hreach (.inl hslot), State.completeWrite_of_holder hholder]
  case stranger =>
    intro a x n hreach hslot hother
    rw [exec_ircComplete_of_slot hu hreach (.inl hslot), State.completeWrite_of_stranger hother]
  case vector =>
    rintro f op v rfl hvec hreach
    exact exec_msixUnmask_of_vector hu hvec hreach
  case enable =>
    intro f
    simp only [exec_msixUnmask, execMsixUnmask, ← hu]

/-- Settles O46: the sources that wait are gone through by rising number, so that the one found comes first among them. -/
theorem claimTakesBest : Obligations.ClaimTakesBest := by
  intro e s u a x hu hreach
  refine ⟨?best, ?none, ?shut, ?core⟩
  case best =>
    rintro hopen ⟨m, hm⟩
    obtain ⟨n, hbest, hmem, hfirst⟩ := State.bestSource_of_waiting (List.ne_nil_of_mem (State.mem_waitingFor.2 hm))
    obtain ⟨hlt, hdel, hserves⟩ := State.mem_waitingFor.1 hmem
    obtain ⟨hholder, hclaimed, hpend⟩ := u.claim_takes x.val n
    refine ⟨_, exec_ircClaim_of_best hu hopen hreach hbest, n, hlt, rfl, hdel, hserves, ?_, hholder, hclaimed, ?_⟩
    · exact fun m hm hmdel hmserves => hfirst m (State.mem_waitingFor.2 ⟨hm, hmdel, hmserves⟩)
    · exact State.deliverable_of_idle ((hpend n).trans (if_pos rfl))
  case none =>
    intro hopen hnone
    have hempty : u.waitingFor x.val = [] := List.eq_nil_iff_forall_not_mem.2 fun m hm => by
      obtain ⟨hlt, hwaits⟩ := State.mem_waitingFor.1 hm
      exact hnone m hlt hwaits
    exact exec_ircClaim_of_none hu hopen hreach (State.bestSource_of_none hempty)
  case shut =>
    intro hshut
    exact exec_ircClaim_of_shut hu hshut
  case core =>
    intro hcore hopen
    rw [slotOpen, if_pos hcore, beq_iff_eq] at hopen
    rw [hopen, Agent.num, Fin.val_ofNat, Nat.mod_eq_of_lt hcore]

/-- Settles O47: a claim sets the hold-off of its group where there is one, and its end clears nothing but that. -/
theorem holdOffRule : Obligations.HoldOffRule := by
  intro e s u hu
  refine ⟨fun a x n hopen hreach hbest => ⟨?idle, ?holds, ?none⟩, ?ended⟩
  case idle =>
    exact State.active_of_deliverable (State.deliverable_bestSource hbest)
  case holds =>
    intro hlong
    obtain ⟨hactive, huntil⟩ := State.claim_of_holdoff x.val hlong
    obtain ⟨-, -, hpend⟩ := u.claim_takes x.val n
    refine ⟨_, exec_ircClaim_of_best hu hopen hreach hbest, hactive, huntil, fun m hm => ?_, fun m hm => ?_⟩
    · exact State.deliverable_of_active (by rw [hm]; exact hactive)
    · exact (hpend m).trans (if_neg hm)
  case none =>
    intro hzero
    exact ⟨_, exec_ircClaim_of_best hu hopen hreach hbest, fun g => State.claim_of_noHoldoff x.val g hzero⟩
  case ended =>
    intro g hactive hawake hover
    refine ⟨_, exec_holdoffEnd_of_over hu (by simp [State.flag, hactive]) hawake hover, ?_, fun m hm hpend hmask => ?_⟩
    · rw [State.active_each_deliver, State.holdoff_over]
    · rw [State.deliverable_each_deliver, State.deliverable_of_over _ hm hpend hmask]

/-- Settles O48: the holder's completion idles the source or makes it pending again, any other only marks the fault, and a second edge
marks that it was merged. -/
theorem completionRule : Obligations.CompletionRule := by
  intro e s u a x n hu
  refine ⟨?holder, ?stranger, ?pulse, ?rise⟩
  case holder =>
    intro hreach hslot hholder
    obtain ⟨hfree, hpend⟩ := u.completeSrc_idles n.val
    refine ⟨u.completeSrc n.val, ?_, hfree, fun hedge => ?_, fun hlevel => ?_⟩
    · rw [exec_ircComplete_of_slot hu hreach hslot, State.completeWrite_of_holder hholder]
    · rw [hpend, if_pos hedge]
    · rw [hpend, hlevel]
      rfl
  case stranger =>
    intro hreach hslot hother
    rw [exec_ircComplete_of_slot hu hreach hslot, State.completeWrite_of_stranger hother]
  case pulse =>
    intro hpulse hcame hawake hmerges
    exact ⟨_, exec_interruptPending_of_pulse hu hpulse hcame hawake, State.edgeArrive_marks hmerges⟩
  case rise =>
    intro hedge hline hlevel hwas hawake hmerges
    refine ⟨_, exec_interruptPending_of_line hu hline hawake, ?_⟩
    rw [State.sampleLine_of_rise hedge hlevel hwas]
    obtain ⟨hovr, hpend⟩ := State.edgeArrive_marks (State.edgeMerges_sampled hmerges)
    exact ⟨hovr, hpend.trans (State.mapBit_sampled _ _ _ _ (by decide) (by decide))⟩

end Sys2Proof.Machine
end

section
/-! Lake and DRAM: who hands a bank over, which bytes a write changes, and the statements about memory (R319–R332, R343). -/

namespace Sys2Proof.Machine

/-! ### Which meaning the dispatch calls -/

theorem exec_lakOwnerWrite (e a b v s) : exec (.lakOwnerWrite e a b v) s = execLakOwnerWrite e a b v s := rfl

theorem exec_lakStateWrite (e a b v s) : exec (.lakStateWrite e a b v) s = execLakStateWrite e a b v s := rfl

theorem exec_bankTransitionComplete (e b s) : exec (.bankTransitionComplete e b) s = execBankTransitionComplete e b s := rfl

theorem exec_lakeWrite (e a addr data coll s) : exec (.lakeWrite e a addr data coll) s = execLakeWrite e a addr data coll s := rfl

theorem exec_lakeSetWrite (e a addr data s) : exec (.lakeSetWrite e a addr data) s = execLakeSetWrite e a addr data s := rfl

theorem exec_lakeClearWrite (e a addr data s) : exec (.lakeClearWrite e a addr data) s = execLakeClearWrite e a addr data s := rfl

theorem exec_dmcOpCmd (e v s) : exec (.dmcOpCmd e v) s = execDmcOpCmd e v s := rfl

theorem exec_opChangeComplete (e ok s) : exec (.opChangeComplete e ok) s = execOpChangeComplete e ok s := rfl

theorem exec_requestPromotion (e k s) : exec (.requestPromotion e k) s = execRequestPromotion e k s := rfl

theorem exec_pageCloseTimeout (e ch bank s) : exec (.pageCloseTimeout e ch bank) s = execPageCloseTimeout e ch bank s := rfl

theorem exec_dramWrite (e f addr data bad fixed lat pages s) : exec (.dramWrite e f addr data bad fixed lat pages) s = execDramWrite e f addr data bad fixed lat pages s := rfl

/-! ### Loops that each touch one cell -/

/-- A loop over the cells from a base, of which each step changes its own cell and keeps an invariant, leaves each of its cells changed once
and the others as they were. -/
theorem State.each_cells {β : Type} (inv : State → Prop) (read : State → Nat → β) (cell : Nat → Nat) (new : Nat → Nat → β → β)
    (f : State → Nat → State) (base : Nat) (hinv : ∀ s k, inv s → inv (f s k))
    (hf : ∀ s k p, inv s → read (f s k) p = if cell p = base + k then new k p (read s p) else read s p) (n : Nat) (s : State) (hs : inv s)
    (p : Nat) : read (s.each (List.range n) f) p =
      if base ≤ cell p ∧ cell p < base + n then new (cell p - base) p (read s p) else read s p := by
  suffices h : inv (s.each (List.range n) f) ∧ read (s.each (List.range n) f) p =
      if base ≤ cell p ∧ cell p < base + n then new (cell p - base) p (read s p) else read s p from h.2
  induction n with
  | zero => exact ⟨hs, by simp [State.each]⟩
  | succ n ih =>
    obtain ⟨hn, hread⟩ := ih
    have hstep : s.each (List.range (n + 1)) f = f (s.each (List.range n) f) n := by simp [State.each, List.range_succ]
    rw [hstep]
    refine ⟨hinv _ _ hn, ?_⟩
    rw [hf _ _ _ hn, hread]
    by_cases hlast : cell p = base + n
    · rw [if_pos hlast, if_neg (by omega), if_pos (by omega), hlast, Nat.add_sub_cancel_left]
    · rw [if_neg hlast]
      by_cases hbefore : base ≤ cell p ∧ cell p < base + n
      · rw [if_pos hbefore, if_pos (by omega)]
      · rw [if_neg hbefore, if_neg (by omega)]

/-! ### Writes of Lake through port A (R319, R320, R323) -/

/-- What a byte of a write, enabled or not, leaves of an old one. -/
def lakeLeft (kind : Nat) (old : Byte) : Option Byte → Byte
  | some v => aliasByte kind old v
  | none => old

theorem State.byteAt_lakeByte (s : State) (kind c p : Nat) (v : Option Byte) :
    (s.lakeByte kind c v).byteAt true p = if p = c then lakeLeft kind (s.byteAt true p) v else s.byteAt true p := by
  by_cases hp : p = c
  · subst hp
    rw [if_pos rfl]
    cases v with
    | none => rfl
    | some v => exact State.byteAt_putLake ..
  · rw [if_neg hp]
    cases v with
    | none => rfl
    | some v => exact State.byteAt_putByte_ne _ _ _ _ _ hp

theorem State.dramByte_lakeByte (s : State) (kind c p : Nat) (v : Option Byte) : (s.lakeByte kind c v).byteAt false p = s.byteAt false p := by
  cases v with
  | none => rfl
  | some v => exact State.byteAt_putByte_other s true c p _

/-- The flags that a write raises at the banks which do not take it. -/
def State.lakeFlagged (s : State) (a : Agent) (addr n : Nat) : State := s.each (banksFrom addr n) (fun s b => s.bankRefuse a b)

theorem State.lakeFlagged_keeps {W : Places} {a₀ s : State} (a addr n)
    (hW : Within 0x4400000000000000000000000000000000000000000000000000000000000000000000000000 W) (h₀ : Keeps W a₀ s) :
    Keeps W a₀ (s.lakeFlagged a addr n) :=
  State.each_keeps (fun _ b h => State.bankRefuse_keeps a b hW h) h₀

theorem State.byteAt_lakeFlagged (s : State) (a : Agent) (addr n : Nat) (lake : Bool) (p : Nat) :
    (s.lakeFlagged a addr n).byteAt lake p = s.byteAt lake p :=
  (State.lakeFlagged_keeps _ _ _ (Within.ne (by decide)) (Keeps.refl _ s)).byteAt

theorem State.bankTakes_lakeFlagged (s : State) (a : Agent) (addr n b : Nat) :
    (s.lakeFlagged a addr n).bankTakes a b = s.bankTakes a b := by
  have howner : (s.lakeFlagged a addr n).get F.LAK_OWNER.OWNER b = s.get F.LAK_OWNER.OWNER b :=
    Keeps.get (State.lakeFlagged_keeps _ _ _ (Within.ne (by decide)) (Keeps.refl _ s))
  have hcur : (s.lakeFlagged a addr n).get F.LAK_STATE.CUR b = s.get F.LAK_STATE.CUR b :=
    Keeps.get (State.lakeFlagged_keeps _ _ _ (Within.ne (by decide)) (Keeps.refl _ s))
  have hbusy : (s.lakeFlagged a addr n).get F.LAK_STATE.BUSY b = s.get F.LAK_STATE.BUSY b :=
    Keeps.get (State.lakeFlagged_keeps _ _ _ (Within.ne (by decide)) (Keeps.refl _ s))
  unfold State.bankTakes State.owner State.bankIsOn
  rw [howner, hcur, hbusy]

/-- Does a write of an agent reach a byte of Lake. -/
def State.lakeLands (s : State) (a : Agent) (p : Nat) : Bool := decide (p < 33554432) && s.bankTakes a (bankOf p)

theorem State.lakeWrite_eq (s : State) (a : Agent) (kind addr : Nat) (data : List (Option Byte)) : s.lakeWrite a kind addr data =
    (s.lakeFlagged a addr data.length).each (List.range data.length) (fun t n =>
      if addr + n < 33554432 && (s.lakeFlagged a addr data.length).bankTakes a (bankOf (addr + n)) then
        t.lakeByte kind (addr + n) (data.getD n none) else t) := rfl

/-- A write of Lake changes the enabled bytes that it reaches, each by its own value, and no other. -/
theorem State.byteAt_lakeWrite (s : State) (a : Agent) (kind addr : Nat) (data : List (Option Byte)) (p : Nat) :
    (s.lakeWrite a kind addr data).byteAt true p =
      if addr ≤ p ∧ p < addr + data.length then
        (if s.lakeLands a p then lakeLeft kind (s.byteAt true p) (data.getD (p - addr) none) else s.byteAt true p)
      else s.byteAt true p := by
  rw [State.lakeWrite_eq, ← State.byteAt_lakeFlagged s a addr data.length]
  refine State.each_cells (fun _ => True) (fun t p => t.byteAt true p) id
    (fun k p old => if s.lakeLands a p then lakeLeft kind old (data.getD k none) else old) _ addr (fun _ _ _ => trivial)
    (fun t k c _ => ?_) _ _ trivial p
  rw [State.bankTakes_lakeFlagged]
  by_cases hc : c = addr + k
  · rw [if_pos (show id c = addr + k from hc), State.lakeLands, hc]
    split
    · rw [State.byteAt_lakeByte, if_pos rfl]
    · rfl
  · rw [if_neg (show ¬ id c = addr + k from hc)]
    split
    · rw [State.byteAt_lakeByte, if_neg hc]
    · rfl

theorem State.dramByte_lakeWrite (s : State) (a : Agent) (kind addr : Nat) (data : List (Option Byte)) (p : Nat) :
    (s.lakeWrite a kind addr data).byteAt false p = s.byteAt false p := by
  rw [State.lakeWrite_eq, State.each_inv (fun t => t.byteAt false p), State.byteAt_lakeFlagged]
  intro t n
  split
  · exact State.dramByte_lakeByte ..
  · rfl

/-! ### Host writes of DRAM (R326, R327, R343) -/

/-- Is a byte of memory enabled by a write of bytes from an address. -/
def enabledAt (addr : Nat) (data : List (Option Byte)) (p : Nat) : Option Byte := if addr ≤ p then data.getD (p - addr) none else none

theorem enabledAt_none {addr p : Nat} {data : List (Option Byte)}
    (h : p < addr ∨ addr + data.length ≤ p ∨ data.getD (p - addr) none = none) : enabledAt addr data p = none := by
  unfold enabledAt
  split
  · rcases h with hbelow | habove | hopen
    · omega
    · rw [List.getD_eq_default _ _ (by omega)]
    · exact hopen
  · rfl

theorem wordPart_getD (addr : Nat) (data : List (Option Byte)) (w k : Nat) (hk : k < 8) :
    (wordPart addr data w).getD k none = enabledAt addr data (8 * w + k) := by
  simp [wordPart, enabledAt, hk]

/-- The bytes that a word takes of a write. -/
def State.putWord (s : State) (w : Nat) (part : List (Option Byte)) : State :=
  s.each (List.range 8) (fun s k => match part.getD k none with
    | some v => s.putByte false (8 * w + k) v
    | none => s)

/-- What a byte of a write, enabled or not, leaves of an old byte of DRAM, which takes nothing when an operating point failed. -/
def dramLeft (dead : Bool) (old : Byte) : Option Byte → Byte
  | some v => if dead then old else v
  | none => old

theorem State.dramDead_putByte (s : State) (lake : Bool) (c : Nat) (v : Byte) : (s.putByte lake c v).dramDead = s.dramDead := by
  unfold State.putByte
  split
  · rfl
  · split <;> rfl

theorem State.byteAt_putDramByte (s : State) (c p : Nat) (v : Byte) :
    (s.putByte false c v).byteAt false p = if p = c then dramLeft s.dramDead (s.byteAt false p) (some v) else s.byteAt false p := by
  by_cases hp : p = c
  · subst hp
    rw [if_pos rfl]
    cases hdead : s.dramDead with
    | true => simp [State.putByte, hdead, dramLeft]
    | false => exact State.byteAt_putDram _ _ _ hdead
  · rw [if_neg hp, State.byteAt_putByte_ne _ _ _ _ _ hp]

theorem State.byteAt_putWord (s : State) (w p : Nat) (part : List (Option Byte)) : (s.putWord w part).byteAt false p =
    if p / 8 = w then dramLeft s.dramDead (s.byteAt false p) (part.getD (p % 8) none) else s.byteAt false p := by
  have hcell : p / 8 = w ↔ 8 * w ≤ id p ∧ id p < 8 * w + 8 := by
    show _ ↔ 8 * w ≤ p ∧ p < 8 * w + 8
    omega
  have hplace (h : p / 8 = w) : p % 8 = id p - 8 * w := by
    show p % 8 = p - 8 * w
    omega
  refine (State.each_cells (fun t => t.dramDead = s.dramDead) (fun t p => t.byteAt false p) id
    (fun k _ old => dramLeft s.dramDead old (part.getD k none)) _ (8 * w) (fun t k ht => ?_) (fun t k c ht => ?_) 8 s rfl p).trans ?_
  · split
    · rw [State.dramDead_putByte, ht]
    · exact ht
  · cases hv : part.getD k none with
    | some v => exact (State.byteAt_putDramByte ..).trans (by rw [ht]; rfl)
    | none => simp [dramLeft]
  · by_cases hw : p / 8 = w
    · rw [if_pos hw, if_pos (hcell.1 hw), hplace hw]
    · rw [if_neg hw, if_neg (mt hcell.2 hw)]

theorem State.byteAt_dramBad (s : State) (l : List Nat) (lake : Bool) (p : Nat) : State.byteAt { s with dramBad := l } lake p = s.byteAt lake p := rfl

theorem State.byteAt_raiseC_noRegion (s : State) (p : Nat) : (s.raiseC F.DMC_FAULT_STAT.NO_REGION 0).byteAt false p = s.byteAt false p := rfl

/-- A word of a write is stored or dropped. -/
theorem State.byteAt_dramWord (s : State) (w : Nat) (part : List (Option Byte)) (bad : Bool) :
    (∀ p, (s.dramWord w part bad).byteAt false p = s.byteAt false p) ∨
      ∀ p, (s.dramWord w part bad).byteAt false p = (s.putWord w part).byteAt false p := by
  unfold State.dramWord
  dsimp only
  split
  · exact .inl fun p => rfl
  split
  · exact .inl fun p => State.byteAt_raiseC_noRegion s p
  split
  · exact .inl fun p => (State.raiseU_keeps _ _ _ (Within.ne (by decide)) (by decide) (Keeps.refl _ _)).byteAt.trans (s.byteAt_dramBad ..)
  · refine .inr fun p => ?_
    split
    · exact (State.byteAt_putWord { s with dramBad := _ } w p part).trans (State.byteAt_putWord s w p part).symm
    · rfl

theorem State.byteAt_dramWord_open {s : State} {w p : Nat} {part : List (Option Byte)} {bad : Bool}
    (hopen : p / 8 = w → part.getD (p % 8) none = none) : (s.dramWord w part bad).byteAt false p = s.byteAt false p := by
  rcases s.byteAt_dramWord w part bad with hdropped | hstored
  · exact hdropped p
  · rw [hstored, State.byteAt_putWord]
    split
    · rename_i hw
      rw [hopen hw]
      rfl
    · rfl

/-- Where no word holds an uncorrectable error, a word is stored in the usable part of a region and dropped elsewhere. -/
theorem State.dramWord_of_clean {s : State} (w : Nat) (part : List (Option Byte)) (hclean : s.dramBad = []) :
    s.dramWord w part false = if part.all (fun b => b.isNone) then s
      else if s.wordRegion (8 * w) = 0 then s.raiseC F.DMC_FAULT_STAT.NO_REGION 0 else s.putWord w part := by
  have hsame : ({ s with dramBad := s.dramBad.filter (· != w) } : State) = s := by
    cases s
    simp_all
  unfold State.dramWord
  rw [hsame]
  simp [hclean, State.putWord, State.each] <;> rfl

theorem State.byteAt_dramWord_clean {s : State} (w p : Nat) {part : List (Option Byte)} (hclean : s.dramBad = []) :
    (s.dramWord w part false).byteAt false p = if p / 8 = w then
      (if s.wordRegion (8 * (p / 8)) = 0 then s.byteAt false p else dramLeft s.dramDead (s.byteAt false p) (part.getD (p % 8) none))
      else s.byteAt false p := by
  rw [State.dramWord_of_clean w part hclean]
  by_cases hw : p / 8 = w
  · rw [if_pos hw, hw]
    split
    · rename_i hnone
      have hopen : part.getD (p % 8) none = none := by
        rw [List.getD_eq_getElem?_getD]
        cases hget : part[p % 8]? with
        | none => rfl
        | some b => simpa using List.all_eq_true.1 hnone b (List.mem_of_getElem? hget)
      rw [hopen]
      simp [dramLeft]
    split
    · exact State.byteAt_raiseC_noRegion s p
    · rw [State.byteAt_putWord, if_pos hw]
  · rw [if_neg hw]
    split
    · rfl
    split
    · exact State.byteAt_raiseC_noRegion s p
    · rw [State.byteAt_putWord, if_neg hw]

/-- What a host write finds of a DRAM without errors stays while its words are stored. -/
def State.sameDram (s t : State) : Prop := t.dramBad = [] ∧ t.dramDead = s.dramDead ∧ ∀ a, t.wordRegion a = s.wordRegion a

theorem State.sameDram_putByte {s t : State} (c : Nat) (v : Byte) (h : s.sameDram t) : s.sameDram (t.putByte false c v) := by
  unfold State.putByte
  split
  · contradiction
  split
  · exact h
  · exact h

theorem State.wordRegion_raiseC (s : State) (f : Fld) (i a : Nat) (hdev : F.DEV_STATE.STATE.id ≠ f.id) (htype : F.DMC_REGION.TYPE.id ≠ f.id)
    (hbase : F.DMC_REGION.BASE.id ≠ f.id) (hsize : F.DMC_REGION.SIZE_MIB.id ≠ f.id) : (s.raiseC f i).wordRegion a = s.wordRegion a := by
  have hget {g : Fld} (hg : g.id ≠ f.id) (j : Nat) : (s.raiseC f i).get g j = s.get g j := State.get_set_fld _ _ _ _ _ _ hg
  simp only [State.wordRegion, State.running, State.dev, State.region, State.regionSize, hget hdev, hget htype, hget hbase, hget hsize]
  rfl

theorem State.sameDram_dramWord {s t : State} (w : Nat) (part : List (Option Byte)) (h : s.sameDram t) :
    s.sameDram (t.dramWord w part false) := by
  obtain ⟨hclean, hdead, hregion⟩ := h
  rw [State.dramWord_of_clean w part hclean]
  split
  · exact ⟨hclean, hdead, hregion⟩
  split
  · exact ⟨hclean, hdead, fun a => (t.wordRegion_raiseC _ _ a (by decide) (by decide) (by decide) (by decide)).trans (hregion a)⟩
  · refine List.foldlRecOn (motive := s.sameDram) _ _ ⟨hclean, hdead, hregion⟩ fun v hv k _ => ?_
    split
    · exact State.sameDram_putByte _ _ hv
    · exact hv

/-- The words of a host write. -/
def State.dramWords (s : State) (addr : Nat) (data : List (Option Byte)) (bad : List Nat) : State :=
  s.each (List.range ((addr % 8 + data.length + 7) / 8)) (fun s n =>
    s.dramWord (addr / 8 + n) (wordPart addr data (addr / 8 + n)) (bad.contains (addr / 8 + n)))

theorem State.byteAt_dramWords_open {s : State} {addr p : Nat} {data : List (Option Byte)} {bad : List Nat}
    (hopen : enabledAt addr data p = none) : (s.dramWords addr data bad).byteAt false p = s.byteAt false p := by
  refine State.each_inv (fun t => t.byteAt false p) _ (fun t n => State.byteAt_dramWord_open fun hw => ?_) _ s
  rw [← hw, wordPart_getD _ _ _ _ (Nat.mod_lt _ (by decide)), Nat.div_add_mod, hopen]

/-- What a host write leaves of a byte where no word holds an uncorrectable error. -/
theorem State.byteAt_dramWords_clean {s : State} (addr p : Nat) (data : List (Option Byte)) (hclean : s.dramBad = []) :
    (s.dramWords addr data []).byteAt false p =
      if addr / 8 ≤ p / 8 ∧ p / 8 < addr / 8 + (addr % 8 + data.length + 7) / 8 then
        (if s.wordRegion (8 * (p / 8)) = 0 then s.byteAt false p else dramLeft s.dramDead (s.byteAt false p) (enabledAt addr data p))
      else s.byteAt false p := by
  refine State.each_cells s.sameDram (fun t p => t.byteAt false p) (· / 8)
    (fun k p old => if s.wordRegion (8 * (p / 8)) = 0 then old else dramLeft s.dramDead old (enabledAt addr data p)) _ (addr / 8)
    (fun t k ht => ?_) (fun t k c ht => ?_) _ s ⟨hclean, rfl, fun _ => rfl⟩ p
  · exact State.sameDram_dramWord _ _ ht
  · obtain ⟨hclean', hdead, hregion⟩ := ht
    refine (State.byteAt_dramWord_clean _ c hclean').trans ?_
    rw [hregion, hdead]
    by_cases hc : c / 8 = addr / 8 + k
    · rw [if_pos hc, if_pos hc, ← hc, wordPart_getD _ _ _ _ (Nat.mod_lt _ (by decide)), Nat.div_add_mod]
    · rw [if_neg hc, if_neg hc]

/-! ### What each command answers -/

theorem State.mem_ownerValue {v : Nat} : ownerValue v = true ↔ v = 1 ∨ v = 2 ∨ (0x20 ≤ v ∧ v ≤ 0x2F) := by
  simp [ownerValue, or_assoc]

theorem State.bankAgent_iff {s : State} {a : Agent} {b : Nat} : s.bankAgent a b = true ↔ s.owner b = a.num ∨ a = .pf1 := by
  simp [State.bankAgent]

theorem State.writeOwner_of_handed {s : State} {a : Agent} {b v : Nat} (hagent : s.bankAgent a b = true) (hvalue : ownerValue v = true)
    (hloader : s.owner b ≠ 0x3F) : s.writeOwner a b v = s.set F.LAK_OWNER.OWNER b v := by
  simp [State.writeOwner, hagent, hvalue, hloader]

theorem State.owner_handed (s : State) (b v : Nat) (hv : v < 256) : (s.set F.LAK_OWNER.OWNER b v).owner b = v :=
  (State.get_set_self ..).trans (Nat.mod_eq_of_lt hv)

theorem State.takes_handed (s : State) (b v : Nat) (hv : v < 256) (a : Agent) :
    (s.set F.LAK_OWNER.OWNER b v).bankTakes a b = (decide (a.num = v) && (s.set F.LAK_OWNER.OWNER b v).bankIsOn b) := by
  rw [State.bankTakes, State.owner_handed _ _ _ hv]
  by_cases h : a.num = v
  · simp [h]
  · simp [h, Ne.symm h]

section
variable {e : Nat} {s u : State} (hu : u = s.elapse e)
include hu

theorem exec_lakOwnerWrite_of_reach {a : Agent} {b : Bank} {v : Byte} (hreach : u.reaches a .LAK_OWNER = true) :
    exec (.lakOwnerWrite e a b v) s = .next (u.writeOwner a b.val v.toNat) := by
  simp [exec_lakOwnerWrite, execLakOwnerWrite, ← hu, hreach]

theorem exec_lakOwnerWrite_of_refused {a : Agent} {b : Bank} {v : Byte} (hreach : u.reaches a .LAK_OWNER = true)
    (hrefused : (u.bankAgent a b.val && ownerValue v.toNat && u.owner b.val != 0x3F) = false) :
    exec (.lakOwnerWrite e a b v) s = .next (u.raiseC F.LAK_FAULT_STAT.HANDOVER_REJ 0) := by
  rw [exec_lakOwnerWrite_of_reach hu hreach, State.writeOwner, hrefused]
  rfl

theorem exec_lakStateWrite_of_reach {a : Agent} {b : Bank} {v : Word32} (hreach : u.reaches a .LAK_STATE = true) :
    exec (.lakStateWrite e a b v) s = .next (u.writeBank a b.val v.toNat) := by
  simp [exec_lakStateWrite, execLakStateWrite, ← hu, hreach]

theorem exec_bankTransitionComplete_of_open {b : Bank} {tgt : Nat} (hat : Tab.get none u.lakeAt b.val = some (tgt, none)) :
    exec (.bankTransitionComplete e b) s = .next (u.bankDone b.val tgt) := by
  simp [exec_bankTransitionComplete, execBankTransitionComplete, ← hu, hat]

theorem exec_bankTransitionComplete_of_due {b : Bank} {tgt d : Nat} (hat : Tab.get none u.lakeAt b.val = some (tgt, some d))
    (hdue : u.reached d = true) : exec (.bankTransitionComplete e b) s = .next (u.bankDone b.val tgt) := by
  simp [exec_bankTransitionComplete, execBankTransitionComplete, ← hu, hat, hdue]

theorem exec_lakeWrite_of_open {a : Agent} {n : Fin 33554432} {data : List (Option Byte)} {coll : List Nat} (hopen : u.lakeOpen a = true) :
    exec (.lakeWrite e a n data coll) s =
      .next (coll.dedup.foldl (fun s w => s.lakeCollide a n.val data w) (u.lakeWrite a 0 n.val data)) := by
  simp [exec_lakeWrite, execLakeWrite, ← hu, hopen]

theorem exec_lakeSetWrite_eq {a : Agent} {n : Fin 33554432} {data : List (Option Byte)} :
    exec (.lakeSetWrite e a n data) s = .next (if u.lakeOpen a then u.lakeWrite a 1 n.val data else u) := by
  rw [exec_lakeSetWrite, execLakeSetWrite, hu]

theorem exec_lakeClearWrite_eq {a : Agent} {n : Fin 33554432} {data : List (Option Byte)} :
    exec (.lakeClearWrite e a n data) s = .next (if u.lakeOpen a then u.lakeWrite a 2 n.val data else u) := by
  rw [exec_lakeClearWrite, execLakeClearWrite, hu]

theorem exec_dmcOpCmd_of_accepted {v : Word32} (hgo : bitAt v.toNat 31 = true) (hready : u.dev = 4) (hquiet : u.anyActive = false)
    (hop : v.toNat % 4 ≠ 3) (hidle : u.opAt = none) (halive : u.dramDead = false) : exec (.dmcOpCmd e v) s = .next
      { ((u.set F.DMC_OP_STAT.CHANGING 0 1).set F.DMC_OP_STAT.RESULT 0 2).selfRefresh true with
        opAt := some (v.toNat % 4, wrap64 (u.now + us 25)) } := by
  simp [exec_dmcOpCmd, execDmcOpCmd, ← hu, State.opCmd, hgo, hready, hquiet, hop, hidle, halive]

theorem exec_dmcOpCmd_of_refused {v : Word32} (hgo : bitAt v.toNat 31 = true)
    (hrefused : (u.dev == 4 && !u.anyActive && v.toNat % 4 != 3 && u.opAt.isNone && !u.dramDead) = false) :
    exec (.dmcOpCmd e v) s = .next (u.set F.DMC_OP_STAT.RESULT 0 3) := by
  rw [exec_dmcOpCmd, execDmcOpCmd, ← hu, State.opCmd, hgo, hrefused]
  rfl

theorem exec_opChangeComplete_of_ok {op d : Nat} (hat : u.opAt = some (op, d)) : exec (.opChangeComplete e true) s = .next
    (((State.setOp { u.set F.DMC_OP_STAT.CHANGING 0 0 with opAt := none } op).selfRefresh false).set F.DMC_OP_STAT.RESULT 0 1) := by
  simp [exec_opChangeComplete, execOpChangeComplete, ← hu, hat]

theorem exec_opChangeComplete_of_failed {op d : Nat} (hat : u.opAt = some (op, d)) : exec (.opChangeComplete e false) s = .next
    (State.raiseF { u.set F.DMC_OP_STAT.CHANGING 0 0 with
      opAt := none, dram := [], dramZero := [], dramBad := [], dramDead := true } F.DMC_FAULT_STAT.OP_FAIL 0 5) := by
  simp [exec_opChangeComplete, execOpChangeComplete, ← hu, hat]

theorem exec_requestPromotion_of_pos {k : Fin 4} (hk : k.val ≠ 0) :
    exec (.requestPromotion e k) s = .next (u.count F.DMC_SC.PROMOTED (some F.DMC_SC.POVF) k.val 8 1) := by
  simp only [exec_requestPromotion, execRequestPromotion, ← hu, hk, if_false]

theorem exec_pageCloseTimeout_of_due {c : Fin 8} {b : Fin 64} {d : Nat} (hopen : (u.dramBank (64 * c.val + b.val)).openAt = some d)
    (hdue : u.reached (wrap64 (d + ns 200)) = true) : exec (.pageCloseTimeout e c b) s =
      .next (u.setDramBank (64 * c.val + b.val) { u.dramBank (64 * c.val + b.val) with openAt := none }) := by
  simp only [exec_pageCloseTimeout, execPageCloseTimeout, ← hu, hopen, hdue, if_true]

end

theorem State.dramBank_setDramBank (s : State) (n : Nat) (v : DramBank) : (s.setDramBank n v).dramBank n = v := Tab.get_set_self ..

/-! ### The frame of a host write -/

/-- A host write after its words: a corrected error is flagged, and the longest latency is kept. -/
def State.dramTimed (s : State) (fixed : Bool) (lat : Nat) : State :=
  let s2 := if fixed then s.raiseC F.DMC_FAULT_STAT.ECC_CORR 0 else s
  s2.set F.DMC_SC.MAXLAT 3 (max (s2.get F.DMC_SC.MAXLAT 3) (min 65535 lat))

theorem exec_dramWrite_of_open {e : Nat} {s u : State} (hu : u = s.elapse e) {f : Func} {n : Fin 137438953472}
    {data : List (Option Byte)} {bad : List Nat} {fixed : Bool} {lat : Nat} {pages : List PageAccess}
    (hopen : u.dramOpen f n.val data.length = true) : exec (.dramWrite e f n data bad fixed lat pages) s =
      .next (pages.foldl (fun s p => s.pageAccess p) ((u.dramWords n.val data bad).dramTimed fixed lat)) := by
  simp [exec_dramWrite, execDramWrite, ← hu, hopen, State.dramWords, State.dramTimed]

theorem State.dramTimed_byteAt (s : State) (fixed : Bool) (lat : Nat) (lake : Bool) (p : Nat) :
    (s.dramTimed fixed lat).byteAt lake p = s.byteAt lake p := by
  cases fixed <;> rfl

theorem State.pages_keeps {W : Places} (s : State) (pages : List PageAccess) :
    Keeps W s (pages.foldl (fun s p => s.pageAccess p) s) :=
  Keeps.foldl (fun _ p h => State.pageAccess_keeps p h) (Keeps.refl _ s)

theorem State.dramWritten_byteAt (s : State) (addr : Nat) (data : List (Option Byte)) (bad : List Nat) (fixed : Bool) (lat : Nat)
    (pages : List PageAccess) (lake : Bool) (p : Nat) :
    (pages.foldl (fun s p => s.pageAccess p) ((s.dramWords addr data bad).dramTimed fixed lat)).byteAt lake p =
      (s.dramWords addr data bad).byteAt lake p :=
  (State.pages_keeps _ pages).byteAt.trans (State.dramTimed_byteAt ..)

theorem State.maxLat_dramTimed (s : State) (fixed : Bool) (lat : Nat) :
    (s.dramTimed fixed lat).get F.DMC_SC.MAXLAT 3 = max (s.get F.DMC_SC.MAXLAT 3) (min 65535 lat) % 2 ^ 16 := by
  rw [State.dramTimed, State.get_set_self]
  cases fixed
  · rfl
  · rw [if_pos rfl, State.raiseC, State.get_set_fld _ _ _ _ _ _ (by decide)]

theorem State.maxLat_dramWords (s : State) (addr : Nat) (data : List (Option Byte)) (bad : List Nat) :
    (s.dramWords addr data bad).get F.DMC_SC.MAXLAT 3 = s.get F.DMC_SC.MAXLAT 3 :=
  Keeps.get (State.each_keeps (fun _ _ h => State.dramWord_keeps _ _ _ (Within.ne (by decide)) h) (Keeps.refl _ s))

theorem State.lakeByte_putWord (s : State) (w p : Nat) (part : List (Option Byte)) : (s.putWord w part).byteAt true p = s.byteAt true p := by
  refine State.each_inv (fun t => t.byteAt true p) _ (fun t k => ?_) _ s
  split
  · exact State.byteAt_putByte_other t false _ p _
  · rfl

theorem State.lakeByte_dramWord (s : State) (w p : Nat) (part : List (Option Byte)) (bad : Bool) :
    (s.dramWord w part bad).byteAt true p = s.byteAt true p := by
  unfold State.dramWord
  dsimp only
  split
  · rfl
  split
  · rfl
  split
  · exact (State.raiseU_keeps _ _ _ (Within.ne (by decide)) (by decide) (Keeps.refl _ _)).byteAt.trans (s.byteAt_dramBad ..)
  · split
    · exact State.lakeByte_putWord { s with dramBad := _ } w p part
    · exact State.lakeByte_putWord s w p part

theorem State.lakeByte_dramWords (s : State) (addr p : Nat) (data : List (Option Byte)) (bad : List Nat) :
    (s.dramWords addr data bad).byteAt true p = s.byteAt true p :=
  State.each_inv (fun t => t.byteAt true p) _ (fun t _ => State.lakeByte_dramWord t _ p _ _) _ s

/-! ### The statements -/

/-- Settles O30: each command of memory, accepted and refused. -/
theorem memoryComplete : Obligations.MemoryComplete := by
  intro e s u hu
  refine ⟨?handed, ?kept, ?loaders, ?request, ?doneOpen, ?doneDue, ?lake, ?lakeSet, ?lakeClear, ?opStart, ?opRefused, ?opDone, ?opFailed,
    ?promoted, ?closed, ?written⟩
  case handed =>
    intro a b v hreach hagent hvalue hloader
    refine ⟨_, exec_lakOwnerWrite_of_reach hu hreach, ?_, fun c hc => ?_⟩
    · rw [State.writeOwner_of_handed hagent hvalue hloader, State.owner_handed _ _ _ v.isLt]
    · rw [State.writeOwner_of_handed hagent hvalue hloader]
      exact State.get_set_idx _ _ _ _ _ _ hc
  case kept => exact fun a b v hreach hrefused => exec_lakOwnerWrite_of_refused hu hreach hrefused
  case loaders =>
    intro a b v hreach hloader
    rw [exec_lakStateWrite_of_reach hu hreach, State.writeBank, if_pos hloader]
  case request =>
    intro a b v hreach hloader hagent hvalue hidle
    rw [exec_lakStateWrite_of_reach hu hreach, State.writeBank, if_neg hloader]
    simp [hagent, hvalue, hidle]
  case doneOpen => exact fun b tgt hat => exec_bankTransitionComplete_of_open hu hat
  case doneDue => exact fun b tgt d hat hdue => exec_bankTransitionComplete_of_due hu hat hdue
  case lake => exact fun a n data coll hopen => exec_lakeWrite_of_open hu hopen
  case lakeSet =>
    intro a n data hopen
    rw [exec_lakeSetWrite_eq hu, if_pos hopen]
  case lakeClear =>
    intro a n data hopen
    rw [exec_lakeClearWrite_eq hu, if_pos hopen]
  case opStart =>
    intro v hgo hready hquiet hop hidle halive
    refine ⟨_, exec_dmcOpCmd_of_accepted hu hgo hready hquiet hop hidle halive, ?_, ?_, rfl⟩
    · rw [State.get_mk, Keeps.get (State.selfRefresh_keeps _ (Within.ne (by decide)) (Keeps.refl _ _)),
        State.get_set_fld _ _ _ _ _ _ (by decide), State.get_set_self]
      rfl
    · rw [State.get_mk, Keeps.get (State.selfRefresh_keeps _ (Within.ne (by decide)) (Keeps.refl _ _)), State.get_set_self]
      rfl
  case opRefused => exact fun v hgo hrefused => exec_dmcOpCmd_of_refused hu hgo hrefused
  case opDone => exact fun op d hat => exec_opChangeComplete_of_ok hu hat
  case opFailed => exact fun op d hat => exec_opChangeComplete_of_failed hu hat
  case promoted => exact fun k hk => exec_requestPromotion_of_pos hu hk
  case closed =>
    intro c b d hopen hdue
    refine ⟨_, exec_pageCloseTimeout_of_due hu hopen hdue, ?_, ?_⟩
    · rw [State.dramBank_setDramBank]
    · rw [State.dramBank_setDramBank]
  case written =>
    intro f n data bad fixed lat pages hopen
    refine ⟨_, exec_dramWrite_of_open hu hopen, ?_⟩
    beta_reduce
    rw [Keeps.get (State.pages_keeps _ pages), State.maxLat_dramTimed, State.maxLat_dramWords]

/-- Settles O50: the owner and PF1 hand a bank over, everyone else sets HANDOVER_REJ. -/
theorem handoverRule : Obligations.HandoverRule := by
  intro e s u a b v hu hreach
  refine ⟨fun hagent hloader hvalue => ?_, fun hrefused => ?_⟩
  · refine ⟨_, exec_lakOwnerWrite_of_reach hu hreach, ?_⟩
    rw [State.writeOwner_of_handed (State.bankAgent_iff.2 hagent) (State.mem_ownerValue.2 hvalue) hloader]
    exact ⟨State.owner_handed _ _ _ v.isLt, State.get_set_fld _ _ _ _ _ _ (by decide), State.takes_handed _ _ _ v.isLt⟩
  · have hkept : (u.bankAgent a b.val && ownerValue v.toNat && u.owner b.val != 0x3F) = false := by
      rw [← Bool.not_eq_true]
      simp only [Bool.and_eq_true, State.bankAgent_iff, State.mem_ownerValue, bne_iff_ne]
      tauto
    refine ⟨_, exec_lakOwnerWrite_of_refused hu hreach hkept, State.get_set_fld _ _ _ _ _ _ (by decide), ?_⟩
    rw [State.raiseC, State.get_set_self]
    rfl

/-- What a port A write of one of the three kinds leaves of the two memories. -/
theorem State.lakeWrite_bytes (u : State) (a : Agent) (kind addr : Nat) (data : List (Option Byte)) :
    (∀ k v, data.getD k none = some v → addr + k < 33554432 → u.bankTakes a (bankOf (addr + k)) = true →
      (u.lakeWrite a kind addr data).byteAt true (addr + k) = aliasByte kind (u.byteAt true (addr + k)) v) ∧
    (∀ p, (p < addr ∨ addr + data.length ≤ p ∨ data.getD (p - addr) none = none ∨ 33554432 ≤ p ∨ u.bankTakes a (bankOf p) = false) →
      (u.lakeWrite a kind addr data).byteAt true p = u.byteAt true p) := by
  refine ⟨fun k v hv hend htakes => ?_, fun p hp => ?_⟩
  · have hk : k < data.length := by
      by_contra hlong
      rw [List.getD_eq_default _ _ (not_lt.1 hlong)] at hv
      cases hv
    rw [State.byteAt_lakeWrite, if_pos (by omega), State.lakeLands, htakes, decide_eq_true hend, Nat.add_sub_cancel_left, hv]
    rfl
  · rw [State.byteAt_lakeWrite]
    split
    · split
      · rename_i hin hlands
        obtain ⟨hend, htakes⟩ : p < 33554432 ∧ u.bankTakes a (bankOf p) = true := by simpa [State.lakeLands] using hlands
        have hopen : data.getD (p - addr) none = none := by
          rcases hp with h | h | h | h | h
          · omega
          · omega
          · exact h
          · omega
          · rw [h] at htakes
            cases htakes
        rw [hopen]
        rfl
      · rfl
    · rfl

/-- Settles O51: each enabled byte that lands is written by its window's rule, and no other byte changes. -/
theorem lakeBytes : Obligations.LakeBytes := by
  intro e s u a addr data c kind hu hopen hc
  have hexec : exec c s = .next (u.lakeWrite a kind addr.val data) := by
    rcases hc with ⟨rfl, rfl⟩ | ⟨rfl, rfl⟩ | ⟨rfl, rfl⟩
    · rw [exec_lakeWrite_of_open hu hopen]
      rfl
    · rw [exec_lakeSetWrite_eq hu, if_pos hopen]
    · rw [exec_lakeClearWrite_eq hu, if_pos hopen]
  obtain ⟨hwritten, hkept⟩ := u.lakeWrite_bytes a kind addr.val data
  exact ⟨_, hexec, hwritten, hkept, u.dramByte_lakeWrite a kind addr.val data⟩

/-- Settles O52: a byte that is not enabled stays; without errors one that is enabled is written in a usable part and stays elsewhere. -/
theorem dramBytes : Obligations.DramBytes := by
  intro e s u f addr data bad fixed lat pages hu hopen
  refine ⟨_, exec_dramWrite_of_open hu hopen, ?_⟩
  simp only [State.dramWritten_byteAt]
  refine ⟨fun p hp => State.byteAt_dramWords_open (enabledAt_none hp), fun p => State.lakeByte_dramWords .., ?_⟩
  rintro rfl hclean
  refine ⟨fun p hoff => ?_, fun halive k v hv hon => ?_⟩
  · rw [State.byteAt_dramWords_clean _ _ _ hclean, if_pos hoff, ite_self]
  · have hk : k < data.length := by
      by_contra hlong
      rw [List.getD_eq_default _ _ (not_lt.1 hlong)] at hv
      cases hv
    rw [State.byteAt_dramWords_clean _ _ _ hclean, if_pos (by omega), if_neg hon, enabledAt, if_pos (by omega),
      Nat.add_sub_cancel_left, hv, halive]
    rfl

/-- Settles O53: neither memory is open to the host outside READY and RUNNING. -/
theorem closedMemory : Obligations.ClosedMemory := by
  intro e s u hu hready hrun
  have hclosed : u.running = false := by simp [State.running, hready, hrun]
  have hlake : u.lakeOpen .pf0 = false := hclosed
  have hdram (addr n : Nat) : u.dramOpen .pf0 addr n = false := hclosed
  refine ⟨fun addr data coll => ?_, fun addr data => ?_, fun addr data => ?_, fun addr data bad fixed lat pages => ?_⟩
  · simp [exec_lakeWrite, execLakeWrite, ← hu, hlake]
  · simp [exec_lakeSetWrite_eq hu, hlake]
  · simp [exec_lakeClearWrite_eq hu, hlake]
  · simp [exec_dramWrite, execDramWrite, ← hu, hdram]

end Sys2Proof.Machine
end

section
/-! Safe state and counters: what a counter's event marks, what an entry latches, what overlapping causes do, and the statements about
them (R363–R372). -/

namespace Sys2Proof.Machine

/-! ### Which meaning the dispatch calls -/

theorem exec_safeInNFall (e long s) : exec (.safeInNFall e long) s = execSafeInNFall e long s := rfl

theorem exec_safeInNRise (e s) : exec (.safeInNRise e) s = execSafeInNRise e s := rfl

theorem exec_cinForceWrite (e v s) : exec (.cinForceWrite e v) s = execCinForceWrite e v s := rfl

theorem exec_cinExit (e v s) : exec (.cinExit e v) s = execCinExit e v s := rfl

theorem exec_exitRelease (e s) : exec (.exitRelease e) s = execExitRelease e s := rfl

theorem exec_cinTileReset (e v s) : exec (.cinTileReset e v) s = execCinTileReset e v s := rfl

theorem exec_cinCoreReset (e v s) : exec (.cinCoreReset e v) s = execCinCoreReset e v s := rfl

/-! ### Counters (R371) -/

theorem Fld.id_ne_of_reg {f g : Fld} (hreg : f.reg ≠ g.reg) (hf : f.lo < 128) (hg : g.lo < 128) : f.id ≠ g.id := by
  intro hid
  refine hreg (Reg.ctorIdx_inj ?_)
  unfold Fld.id at hid
  omega

/-- A count's new value in its place. -/
def State.counted (s : State) (f : Fld) (i n : Nat) : State := s.set f i (min (s.get f i + n) (2 ^ f.w - 1))

theorem State.get_counted_self (s : State) (f : Fld) (i n : Nat) : (s.counted f i n).get f i = min (s.get f i + n) (2 ^ f.w - 1) := by
  have hpos : 0 < 2 ^ f.w := Nat.two_pow_pos _
  rw [State.counted, State.get_set_self, Nat.mod_eq_of_lt (by omega)]

/-- Where a counter comes to its end: its overflow bit, and the mark of its block. -/
def State.overflowed (s : State) (ovf : Option Fld) (i blk : Nat) : State :=
  match ovf with
  | some o => (s.set o i 1).saturated blk
  | none => s.saturated blk

theorem State.regs_noteRc (s : State) (f : Fld) (i n : Nat) : (s.noteRc f i n).regs = s.regs := by rw [State.noteRc_rest]

theorem State.regs_set_congr {s t : State} (h : s.regs = t.regs) (f : Fld) (i v : Nat) : (s.set f i v).regs = (t.set f i v).regs := by
  unfold State.set State.put
  dsimp only
  rw [h]

theorem State.regs_overflowed_congr {s t : State} (h : s.regs = t.regs) (ovf : Option Fld) (i blk : Nat) :
    (s.overflowed ovf i blk).regs = (t.overflowed ovf i blk).regs := by
  have hsat {v w : State} (hvw : v.regs = w.regs) : (v.saturated blk).regs = (w.saturated blk).regs := by
    unfold State.saturated
    rw [State.get_congr hvw]
    exact State.regs_set_congr (State.regs_set_congr hvw ..) ..
  cases ovf with
  | none => exact hsat h
  | some o => exact hsat (State.regs_set_congr h ..)

/-- A count writes its register, and at its end the marks of the overflow. -/
theorem State.regs_count (s : State) (f : Fld) (ovf : Option Fld) (i blk n : Nat) : (s.count f ovf i blk n).regs =
    (if s.saturates f i n then (s.counted f i n).overflowed ovf i blk else s.counted f i n).regs := by
  have hnoted : ((match ovf with
      | some o => (s.noteRc o i 0).noteRc f i n
      | none => s.noteRc f i n).set f i (min (s.get f i + n) (2 ^ f.w - 1))).regs = (s.counted f i n).regs := by
    refine State.regs_set_congr ?_ ..
    cases ovf with
    | none => exact s.regs_noteRc f i n
    | some o => exact (State.regs_noteRc ..).trans (s.regs_noteRc o i 0)
  unfold State.count
  dsimp only
  split
  · refine Eq.trans ?_ (State.regs_overflowed_congr hnoted ovf i blk)
    cases ovf <;> rfl
  · exact hnoted

theorem State.get_count (s : State) (f : Fld) (ovf : Option Fld) (i blk n : Nat) (g : Fld) (j : Nat) : (s.count f ovf i blk n).get g j =
    (if s.saturates f i n then (s.counted f i n).overflowed ovf i blk else s.counted f i n).get g j :=
  State.get_congr (s.regs_count f ovf i blk n) g j

theorem State.saturates_iff {s : State} {f : Fld} {i n : Nat} :
    s.saturates f i n = true ↔ s.get f i < 2 ^ f.w - 1 ∧ 2 ^ f.w - 1 ≤ s.get f i + n := by
  simp [State.saturates]

theorem State.get_saturated_fld (s : State) (blk : Nat) (g : Fld) (j : Nat) (hsat : g.id ≠ F.CIN_SAT.BLOCK.id)
    (hstat : g.id ≠ F.CIN_FAULT_STAT.SAT.id) : (s.saturated blk).get g j = s.get g j := by
  rw [State.saturated, State.get_set_fld _ _ _ _ _ _ hstat, State.get_set_fld _ _ _ _ _ _ hsat]

theorem State.saturated_marks (s : State) {blk : Nat} (hblk : blk < 28) :
    bitAt ((s.saturated blk).get F.CIN_SAT.BLOCK 0) blk = true ∧ (s.saturated blk).get F.CIN_FAULT_STAT.SAT 0 = 1 := by
  refine ⟨?_, State.get_set_self ..⟩
  rw [State.saturated, State.get_set_fld _ _ _ _ _ _ (by decide), State.get_set_self, bitAt_mod, bitAt_setBit]
  simp [hblk]

theorem State.overflowed_marks (s : State) (ovf : Option Fld) (i : Nat) {blk : Nat} (hblk : blk < 28) :
    bitAt ((s.overflowed ovf i blk).get F.CIN_SAT.BLOCK 0) blk = true ∧ (s.overflowed ovf i blk).get F.CIN_FAULT_STAT.SAT 0 = 1 := by
  cases ovf with
  | none => exact s.saturated_marks hblk
  | some o => exact (s.set o i 1).saturated_marks hblk

/-- A field other than the overflow bit and the marks stays at an overflow. -/
theorem State.get_overflowed_fld (s : State) {ovf : Option Fld} (i blk : Nat) (g : Fld) (j : Nat) (hovf : ∀ o ∈ ovf, g.id ≠ o.id)
    (hsat : g.id ≠ F.CIN_SAT.BLOCK.id) (hstat : g.id ≠ F.CIN_FAULT_STAT.SAT.id) : (s.overflowed ovf i blk).get g j = s.get g j := by
  cases ovf with
  | none => exact s.get_saturated_fld blk g j hsat hstat
  | some o => exact ((s.set o i 1).get_saturated_fld blk g j hsat hstat).trans (State.get_set_fld _ _ _ _ _ _ (hovf o rfl))

/-- Settles O55: a counter takes the sum or its largest value, and only the event that brings it there marks the overflow. -/
theorem counterRule : Obligations.CounterRule := by
  intro s f o i blk n hfo hfsat hfstat hosat hostat how hflo holo hblk
  have hne {g : Fld} (hgsat : g.reg ≠ .CIN_SAT) (hgstat : g.reg ≠ .CIN_FAULT_STAT) (hlo : g.lo < 128) :
      g.id ≠ F.CIN_SAT.BLOCK.id ∧ g.id ≠ F.CIN_FAULT_STAT.SAT.id :=
    ⟨Fld.id_ne_of_reg hgsat hlo (by decide), Fld.id_ne_of_reg hgstat hlo (by decide)⟩
  obtain ⟨hf1, hf2⟩ := hne hfsat hfstat hflo
  obtain ⟨ho1, ho2⟩ := hne hosat hostat holo
  refine ⟨fun ovf hovf => ?_, fun hbelow hend => ⟨?_, fun ovf _ => ?_⟩, fun hno ovf _ g j => ?_⟩
  · rw [State.get_count, ← State.get_counted_self]
    split
    · refine State.get_overflowed_fld _ _ _ _ _ (fun p hp => ?_) hf1 hf2
      rcases hovf with rfl | rfl
      · cases hp
      · cases hp
        exact hfo
    · rfl
  · rw [State.get_count, if_pos (State.saturates_iff.2 ⟨hbelow, hend⟩), State.overflowed, State.get_saturated_fld _ _ _ _ ho1 ho2,
      State.get_set_self, how]
    rfl
  · rw [State.get_count, State.get_count, if_pos (State.saturates_iff.2 ⟨hbelow, hend⟩)]
    exact State.overflowed_marks _ _ _ hblk
  · rw [State.get_count, if_neg (by rw [State.saturates_iff]; omega)]
    rfl

/-! ### What safe-state entry leaves of DEV_STATE (R365) -/

theorem State.devSafe_syncDev (s : State) : s.syncDev.get F.DEV_STATE.SAFE 0 = s.get F.DEV_STATE.SAFE 0 := by
  unfold State.syncDev
  split
  · split
    · exact State.get_set_fld _ _ _ _ _ _ (by decide)
    split
    · rw [State.get_fire, State.get_set_fld _ _ _ _ _ _ (by decide)]
    · rfl
  · rfl

theorem State.devSafe_enterState (s : State) (x c : Nat) : (s.enterState x c).get F.DEV_STATE.SAFE 0 = s.get F.DEV_STATE.SAFE 0 := by
  unfold State.enterState
  extract_lets s1 s2 v s3
  have hpulsed : Keeps (fun k => k != F.DEV_STATE.SAFE.id / 128) s1 s2 := Keeps.ite (State.pulse_keeps _ (Keeps.refl _ _)) (Keeps.refl _ _)
  have hidle : Keeps (fun k => k != F.DEV_STATE.SAFE.id / 128) s1 s3 := Keeps.ite (State.setSite_keeps _ _ hpulsed) hpulsed
  rw [Keeps.get (State.formSyncs_keeps (Within.ne (by decide)) hidle), State.devSafe_syncDev, State.get_set_fld _ _ _ _ _ _ (by decide)]

/-- What a site that enters DONE has done before its state changes. -/
theorem State.devSafe_enterDone (s : State) (x : Nat) : (s.enterDone x).get F.DEV_STATE.SAFE 0 = s.get F.DEV_STATE.SAFE 0 := by
  unfold State.enterDone
  rw [State.devSafe_enterState]
  refine Keeps.get (State.set_keeps (places_ne (by decide)) (State.setSite_keeps _ _ (State.each_keeps (fun t i h => ?_)
    (State.set_keeps (places_ne (by decide)) (State.endUnits_keeps _ (Within.ne (by decide)) (State.closeTrim_keeps _ (Within.ne (by decide))
      (State.stopCtx_keeps _ (Within.ne (by decide)) (State.answerAbort_keeps _ _ (Within.ne (by decide)) (Keeps.refl _ s)))))))))
  exact State.set_keeps (places_ne (by decide)) (State.emptySlice_keeps _ (Within.ne (by decide)) (State.setSlice_keeps _ _ h))

theorem State.devSafe_safeSite (s : State) (x : Nat) : (s.safeSite x).get F.DEV_STATE.SAFE 0 = s.get F.DEV_STATE.SAFE 0 := by
  unfold State.safeSite
  extract_lets st s1 s2
  have h1 : Keeps (fun k => k != F.DEV_STATE.SAFE.id / 128) s s1 := State.answerAbort_keeps _ _ (Within.ne (by decide)) (Keeps.refl _ s)
  have h2 : Keeps (fun k => k != F.DEV_STATE.SAFE.id / 128) s s2 := Keeps.ite h1 (State.set_keeps (places_ne (by decide)) h1)
  split
  · split
    · rw [State.devSafe_enterDone]
      exact Keeps.get (State.tokenHome_keeps _ _ _ _ (Within.ne (by decide)) (Keeps.refl _ s))
    · rw [State.devSafe_enterDone]
      exact Keeps.get (State.sendToken_keeps _ _ _ _ (Within.ne (by decide)) (State.withdrawLadder_keeps _ (Within.ne (by decide))
        (State.setBin_keeps _ _ (Within.ne (by decide)) h2)))
  · rfl

theorem State.devSafe_safeEffects (s : State) : s.safeEffects.get F.DEV_STATE.SAFE 0 = s.get F.DEV_STATE.SAFE 0 := by
  unfold State.safeEffects
  extract_lets s1 s2 s3 s4 s5
  have hslices : s1.get F.DEV_STATE.SAFE 0 = s.get F.DEV_STATE.SAFE 0 :=
    Keeps.get (State.each_keeps (fun _ _ h => State.safeSlice_keeps _ (Within.ne (by decide)) h) (Keeps.refl _ s))
  have hsites : s2.get F.DEV_STATE.SAFE 0 = s1.get F.DEV_STATE.SAFE 0 :=
    State.each_inv (fun t => t.get F.DEV_STATE.SAFE 0) _ State.devSafe_safeSite _ s1
  have hunits : Keeps (fun k => k != F.DEV_STATE.SAFE.id / 128) s2 s3 :=
    State.each_keeps (fun _ _ h => State.endMeas_keeps _ (Within.ne (by decide)) (State.disarmUnit_keeps _ (Within.ne (by decide)) h))
      (Keeps.refl _ s2)
  have hbuses : Keeps (fun k => k != F.DEV_STATE.SAFE.id / 128) s2 s4 :=
    State.each_keeps (fun _ _ h => Keeps.ite (State.flushBus_keeps _ (Within.ne (by decide)) h) h) hunits
  have hrefl : Keeps (fun k => k != F.DEV_STATE.SAFE.id / 128) s2 s5 :=
    State.each_keeps (fun _ _ h => State.endReflection_keeps _ _ (Within.ne (by decide)) h) hbuses
  rw [Keeps.get (State.trigSafe_keeps hrefl), hsites, hslices]

/-! ### Entries, held causes and voided exits (R363, R367) -/

/-- What an entry records before it counts. -/
def State.recorded (s : State) (bits : Nat) : State :=
  ((s.set F.CIN_CAUSE.CAUSE 0 (s.get F.CIN_CAUSE.CAUSE 0 ||| bits)).set F.CIN_CAUSE_SEEN.CAUSE 0 bits).stamp F.CIN_ENTRY_DT.DT 0 s.now

theorem State.latchEntry_eq (s : State) (bits : Nat) :
    s.latchEntry bits = (s.recorded bits).count F.CIN_ENTRIES.COUNT (some F.CIN_ENTRIES.OVF) 0 4 1 := rfl

theorem State.get_recorded_fld (s : State) (bits : Nat) (g : Fld) (j : Nat) (hdt : g.id ≠ F.CIN_ENTRY_DT.DT.id) : (s.recorded bits).get g j =
    ((s.set F.CIN_CAUSE.CAUSE 0 (s.get F.CIN_CAUSE.CAUSE 0 ||| bits)).set F.CIN_CAUSE_SEEN.CAUSE 0 bits).get g j := by
  rw [State.recorded, State.stamp, State.drew, State.get_mk, State.get_set_fld _ _ _ _ _ _ hdt]

theorem State.cause_latchEntry (s : State) (bits : Nat) :
    (s.latchEntry bits).get F.CIN_CAUSE.CAUSE 0 = (s.get F.CIN_CAUSE.CAUSE 0 ||| bits) % 2 ^ 10 := by
  rw [State.latchEntry_eq, Keeps.get (State.count_keeps _ _ _ _ _ (Within.ne (by decide)) (by decide) (by decide) (Keeps.refl _ _)),
    State.get_recorded_fld _ _ _ _ (by decide), State.get_set_fld _ _ _ _ _ _ (by decide), State.get_set_self]

theorem State.seen_latchEntry (s : State) (bits : Nat) : (s.latchEntry bits).get F.CIN_CAUSE_SEEN.CAUSE 0 = bits % 2 ^ 10 := by
  rw [State.latchEntry_eq, Keeps.get (State.count_keeps _ _ _ _ _ (Within.ne (by decide)) (by decide) (by decide) (Keeps.refl _ _)),
    State.get_recorded_fld _ _ _ _ (by decide), State.get_set_self]

theorem State.entries_latchEntry (s : State) (bits : Nat) :
    (s.latchEntry bits).get F.CIN_ENTRIES.COUNT 0 = min (s.get F.CIN_ENTRIES.COUNT 0 + 1) (2 ^ 31 - 1) := by
  have hrecorded : (s.recorded bits).get F.CIN_ENTRIES.COUNT 0 = s.get F.CIN_ENTRIES.COUNT 0 := by
    rw [State.get_recorded_fld _ _ _ _ (by decide), State.get_set_fld _ _ _ _ _ _ (by decide), State.get_set_fld _ _ _ _ _ _ (by decide)]
  rw [State.latchEntry_eq, State.get_count, ← hrecorded]
  refine Eq.trans ?_ (State.get_counted_self _ _ _ _)
  split
  · exact State.get_overflowed_fld _ _ _ _ _ (by decide) (by decide) (by decide)
  · rfl

/-- Recording an entry leaves everything but registers and the free values. -/
theorem State.latchEntry_rest (s : State) (bits : Nat) : (s.latchEntry bits).evf = s.evf ∧ (s.latchEntry bits).pins = s.pins ∧
    (s.latchEntry bits).safe = s.safe := by
  rw [State.latchEntry_eq, State.count_rest]
  simp [State.recorded, State.stamp, State.drew]

/-- The registers and the pin of an entry, before what it does to the rest of the part. -/
def State.entered (s : State) (bits : Nat) : State :=
  let s1 := ((s.latchEntry bits).set F.CIN_STAT.SAFE 0 1).set F.DEV_STATE.SAFE 0 1
  { s1 with pins := { s1.pins with safeOutLow := true } }

theorem State.enterSafe_of_fresh {s : State} (bits : Nat) (hfresh : s.isSafe = false) :
    s.enterSafe bits = ((s.entered bits).safeEffects).fire 1458 := by
  rw [State.enterSafe, if_neg (by simp [hfresh])]
  rfl

theorem State.enterSafe_of_held {s : State} (bits : Nat) (hsafe : s.isSafe = true) (hidle : s.flag F.CIN_STAT.EXIT_PEND 0 = false) :
    s.enterSafe bits = s.addCause bits := by
  rw [State.enterSafe, hsafe, hidle]
  rfl

theorem State.enterSafe_of_tied {s : State} (bits : Nat) (hsafe : s.isSafe = true) (hpend : s.flag F.CIN_STAT.EXIT_PEND 0 = true)
    (htied : s.safe.exitAt = some (wrap64 (s.now + ns 120))) : s.enterSafe bits = (s.voidExit.refuseExit).addCause bits := by
  rw [State.enterSafe, hsafe, hpend, if_pos htied]
  rfl

theorem State.enterSafe_of_waiting {s : State} (bits : Nat) (hsafe : s.isSafe = true) (hpend : s.flag F.CIN_STAT.EXIT_PEND 0 = true)
    (huntied : s.safe.exitAt ≠ some (wrap64 (s.now + ns 120))) : s.enterSafe bits = (s.latchEntry bits).voidExit := by
  rw [State.enterSafe, hsafe, hpend, if_neg huntied]
  rfl

theorem State.get_entered_fld (s : State) (bits : Nat) (g : Fld) (j : Nat) (hsafe : g.id ≠ F.CIN_STAT.SAFE.id)
    (hdev : g.id ≠ F.DEV_STATE.SAFE.id) : (s.entered bits).get g j = (s.latchEntry bits).get g j := by
  rw [State.entered, State.get_mk, State.get_set_fld _ _ _ _ _ _ hdev, State.get_set_fld _ _ _ _ _ _ hsafe]

/-- A register that entry does not touch in the rest of the part reads as the entry recorded it. -/
theorem State.get_enterSafe_fresh {s : State} (bits : Nat) (g : Fld) (j : Nat) (hfresh : s.isSafe = false)
    (hsafe : g.id ≠ F.CIN_STAT.SAFE.id) (hdev : g.id ≠ F.DEV_STATE.SAFE.id)
    (heffects : Keeps (fun k => k != g.id / 128) (s.entered bits) (s.entered bits).safeEffects) :
    (s.enterSafe bits).get g j = (s.latchEntry bits).get g j := by
  rw [State.enterSafe_of_fresh bits hfresh, State.get_fire, heffects.get, State.get_entered_fld _ _ _ _ hsafe hdev]

theorem State.devSafe_enterSafe_fresh {s : State} (bits : Nat) (hfresh : s.isSafe = false) :
    (s.enterSafe bits).get F.DEV_STATE.SAFE 0 = 1 := by
  rw [State.enterSafe_of_fresh bits hfresh, State.get_fire, State.devSafe_safeEffects, State.entered, State.get_mk, State.get_set_self]
  rfl

theorem State.get_addCause_fld (s : State) (bits : Nat) (g : Fld) (j : Nat) (hcause : g.id ≠ F.CIN_CAUSE.CAUSE.id)
    (hseen : g.id ≠ F.CIN_CAUSE_SEEN.CAUSE.id) : (s.addCause bits).get g j = s.get g j := by
  rw [State.addCause, State.get_set_fld _ _ _ _ _ _ hseen, State.get_set_fld _ _ _ _ _ _ hcause]

theorem State.cause_addCause (s : State) (bits : Nat) :
    (s.addCause bits).get F.CIN_CAUSE.CAUSE 0 = (s.get F.CIN_CAUSE.CAUSE 0 ||| bits) % 2 ^ 10 := by
  rw [State.addCause, State.get_set_fld _ _ _ _ _ _ (by decide), State.get_set_self]

theorem State.seen_addCause (s : State) (bits : Nat) :
    (s.addCause bits).get F.CIN_CAUSE_SEEN.CAUSE 0 = (s.get F.CIN_CAUSE_SEEN.CAUSE 0 ||| bits) % 2 ^ 10 := State.get_set_self ..

theorem State.get_voidExit_fld (s : State) (g : Fld) (j : Nat) (h : g.id ≠ F.CIN_STAT.EXIT_PEND.id) : s.voidExit.get g j = s.get g j := by
  rw [State.voidExit, State.get_mk, State.get_set_fld _ _ _ _ _ _ h]

theorem State.exitPend_voidExit (s : State) : s.voidExit.get F.CIN_STAT.EXIT_PEND 0 = 0 := by
  rw [State.voidExit, State.get_mk, State.get_set_self]
  rfl

theorem State.get_refuseExit_fld (s : State) (g : Fld) (j : Nat) (hstat : g.id ≠ F.CIN_STAT.EXIT_REJ.id)
    (hfault : g.id ≠ F.CIN_FAULT_STAT.EXIT_REJ.id) : s.refuseExit.get g j = s.get g j := by
  rw [State.refuseExit, State.get_set_fld _ _ _ _ _ _ hfault, State.get_set_fld _ _ _ _ _ _ hstat]

theorem State.exitRej_refuseExit (s : State) : s.refuseExit.get F.CIN_STAT.EXIT_REJ 0 = 1 := by
  rw [State.refuseExit, State.get_set_fld _ _ _ _ _ _ (by decide), State.get_set_self]
  rfl

@[simp] theorem State.evf_addCause (s : State) (bits : Nat) : (s.addCause bits).evf = s.evf := by simp [State.addCause]

@[simp] theorem State.safe_addCause (s : State) (bits : Nat) : (s.addCause bits).safe = s.safe := by simp [State.addCause]

@[simp] theorem State.evf_refuseExit (s : State) : s.refuseExit.evf = s.evf := by simp [State.refuseExit]

@[simp] theorem State.safe_refuseExit (s : State) : s.refuseExit.safe = s.safe := by simp [State.refuseExit]

@[simp] theorem State.evf_voidExit (s : State) : s.voidExit.evf = s.evf := by simp [State.voidExit]

@[simp] theorem State.pins_voidExit (s : State) : s.voidExit.pins = s.pins := by simp [State.voidExit]

@[simp] theorem State.exitAt_voidExit (s : State) : s.voidExit.safe.exitAt = none := by simp [State.voidExit]

/-! ### The forced cause (R363) -/

/-- CIN_FORCE holds what PF1 wrote. -/
def State.forced (s : State) (v : Nat) : State := s.set F.CIN_FORCE.FORCE 0 (v % 2)

theorem State.get_forced_fld (s : State) (v : Nat) (g : Fld) (j : Nat) (h : g.id ≠ F.CIN_FORCE.FORCE.id) : (s.forced v).get g j = s.get g j :=
  State.get_set_fld _ _ _ _ _ _ h

theorem State.isSafe_forced (s : State) (v : Nat) : (s.forced v).isSafe = s.isSafe := by
  rw [State.isSafe, State.flag, State.get_forced_fld _ _ _ _ (by decide)]
  rfl

theorem State.exitPend_forced (s : State) (v : Nat) : (s.forced v).flag F.CIN_STAT.EXIT_PEND 0 = s.flag F.CIN_STAT.EXIT_PEND 0 := by
  rw [State.flag, State.get_forced_fld _ _ _ _ (by decide), State.flag]

theorem State.now_forced (s : State) (v : Nat) : (s.forced v).now = s.now := s.get_forced_fld v _ _ (by decide)

@[simp] theorem State.evf_forced (s : State) (v : Nat) : (s.forced v).evf = s.evf := State.set_evf ..

@[simp] theorem State.pins_forced (s : State) (v : Nat) : (s.forced v).pins = s.pins := State.set_pins ..

section
variable {e : Nat} {s u : State} {v : Word32} (hu : u = s.elapse e)
include hu

theorem exec_cinForceWrite_of_set (hreach : u.reaches .pf1 .CIN_FORCE = true) (hv : v.toNat % 2 = 1) :
    exec (.cinForceWrite e v) s = .next ((u.forced v.toNat).enterSafe 2) := by
  simp only [exec_cinForceWrite, execCinForceWrite, ← hu, hreach, if_true, State.writeForce, if_pos hv, State.forced]

theorem exec_cinForceWrite_of_clear (hreach : u.reaches .pf1 .CIN_FORCE = true) (hv : v.toNat % 2 = 0) : exec (.cinForceWrite e v) s =
    .next ((u.forced v.toNat).set F.CIN_CAUSE.CAUSE 0 (clearBit (u.get F.CIN_CAUSE.CAUSE 0) 1)) := by
  have hne : ¬ v.toNat % 2 = 1 := by omega
  simp only [exec_cinForceWrite, execCinForceWrite, ← hu, hreach, if_true, State.writeForce, if_neg hne, State.forced]

end

/-- Settles O56: a cause enters safe state, adds to it, voids the exit that waits, or refuses the exit of its own instant. -/
theorem safeOverlap : Obligations.SafeOverlap := by
  intro e s u v hu hreach hv
  have hexec := exec_cinForceWrite_of_set hu hreach hv
  have hsafe : (u.forced v.toNat).isSafe = u.isSafe := u.isSafe_forced _
  have hpend : (u.forced v.toNat).flag F.CIN_STAT.EXIT_PEND 0 = u.flag F.CIN_STAT.EXIT_PEND 0 := u.exitPend_forced _
  have hget {g : Fld} (h : g.id ≠ F.CIN_FORCE.FORCE.id) : (u.forced v.toNat).get g 0 = u.get g 0 := u.get_forced_fld _ _ _ h
  refine ⟨fun hfresh => ?_, fun hheld hidle => ?_, fun hheld hwait huntied => ?_, fun hheld hwait htied => ?_⟩
  · rw [← hsafe] at hfresh
    refine ⟨_, hexec, State.enterSafe_isSafe _ _, ?_, ?_, ?_, State.devSafe_enterSafe_fresh _ hfresh⟩
    · rw [State.get_enterSafe_fresh _ _ _ hfresh (by decide) (by decide) (State.safeEffects_keeps (Within.ne (by decide)) (Keeps.refl _ _)),
        State.cause_latchEntry, hget (by decide)]
    · rw [State.get_enterSafe_fresh _ _ _ hfresh (by decide) (by decide) (State.safeEffects_keeps (Within.ne (by decide)) (Keeps.refl _ _)),
        State.seen_latchEntry]
      rfl
    · rw [State.get_enterSafe_fresh _ _ _ hfresh (by decide) (by decide) (State.safeEffects_keeps (Within.ne (by decide)) (Keeps.refl _ _)),
        State.entries_latchEntry, hget (by decide)]
  · rw [← hsafe] at hheld
    rw [← hpend] at hidle
    refine ⟨_, hexec, State.enterSafe_isSafe _ _, ?_⟩
    rw [State.enterSafe_of_held _ hheld hidle, State.cause_addCause, State.seen_addCause,
      State.get_addCause_fld _ _ F.CIN_ENTRIES.COUNT _ (by decide) (by decide),
      State.get_addCause_fld _ _ F.CIN_ENTRY_DT.DT _ (by decide) (by decide), hget (by decide), hget (by decide), hget (by decide),
      hget (by decide)]
    exact ⟨rfl, rfl, rfl, rfl, by simp⟩
  · rw [← hsafe] at hheld
    rw [← hpend] at hwait
    rw [← u.now_forced v.toNat] at huntied
    obtain ⟨hevf, hpins, -⟩ := (u.forced v.toNat).latchEntry_rest 2
    refine ⟨_, hexec, State.enterSafe_isSafe _ _, ?_⟩
    rw [State.enterSafe_of_waiting _ hheld hwait huntied]
    refine ⟨State.exitPend_voidExit _, by simp, ?_, by simp [hpins], by simp [hevf], ?_, ?_, ?_⟩
    · rw [State.get_voidExit_fld _ _ _ (by decide), Keeps.get (State.latchEntry_keeps _ (Within.ne (by decide)) (Keeps.refl _ _)),
        hget (by decide)]
    · rw [State.get_voidExit_fld _ _ _ (by decide), State.cause_latchEntry, hget (by decide)]
    · rw [State.get_voidExit_fld _ _ _ (by decide), State.seen_latchEntry]
      rfl
    · rw [State.get_voidExit_fld _ _ _ (by decide), State.entries_latchEntry, hget (by decide)]
  · rw [← hsafe] at hheld
    rw [← hpend] at hwait
    rw [← u.now_forced v.toNat] at htied
    refine ⟨_, hexec, State.enterSafe_isSafe _ _, ?_⟩
    rw [State.enterSafe_of_tied _ hheld hwait htied]
    refine ⟨?_, by simp, ?_, ?_, ?_, by simp⟩
    · rw [State.get_addCause_fld _ _ _ _ (by decide) (by decide), State.get_refuseExit_fld _ _ _ (by decide) (by decide),
        State.exitPend_voidExit]
    · rw [State.get_addCause_fld _ _ _ _ (by decide) (by decide), State.exitRej_refuseExit]
    · rw [State.get_addCause_fld _ _ _ _ (by decide) (by decide), State.get_refuseExit_fld _ _ _ (by decide) (by decide),
        State.get_voidExit_fld _ _ _ (by decide), hget (by decide)]
    · rw [State.cause_addCause, State.get_refuseExit_fld _ _ _ (by decide) (by decide), State.get_voidExit_fld _ _ _ (by decide),
        hget (by decide)]

/-! ### The pin (R363, R368) -/

section
variable {e : Nat} {s u : State} (hu : u = s.elapse e)
include hu

theorem exec_safeInNFall_of_long (hgood : u.pwr.vauxGood = true) : exec (.safeInNFall e true) s = .next
    ((State.set { u with pins := { u.pins with safeInHigh := false, safeInRise := none } } F.CIN_STAT.SAFE_IN 0 1).enterSafe 1) := by
  simp [exec_safeInNFall, execSafeInNFall, ← hu, hgood]

theorem exec_safeInNFall_of_short (hgood : u.pwr.vauxGood = true) (hhigh : u.pins.safeInHigh = true) :
    exec (.safeInNFall e false) s = .next (if u.fresh % 2 = 1
      then State.enterSafe { u.drew with pins := { u.pins with safeInRise := some u.now } } 1
      else { u.drew with pins := { u.pins with safeInRise := some u.now } }) := by
  simp [exec_safeInNFall, execSafeInNFall, ← hu, hgood, hhigh]

theorem exec_safeInNRise_of_low (hlow : u.pins.safeInHigh = false) : exec (.safeInNRise e) s = .next
    (State.set { u with pins := { u.pins with safeInHigh := true, safeInRise := some u.now } } F.CIN_STAT.SAFE_IN 0 0) := by
  simp [exec_safeInNRise, execSafeInNRise, ← hu, hlow]

theorem exec_safeInNRise_of_high (hhigh : u.pins.safeInHigh = true) : exec (.safeInNRise e) s = .next u.safeInSettle := by
  simp [exec_safeInNRise, execSafeInNRise, ← hu, hhigh]

end

theorem State.safeInHigh_of_long {s : State} (h : s.safeInLong = true) : s.pins.safeInHigh = true := by
  unfold State.safeInLong at h
  exact (Bool.and_eq_true_iff.1 h).1

theorem State.cause_safeInSettle {s : State} (h : s.safeInLong = true) :
    s.safeInSettle.get F.CIN_CAUSE.CAUSE 0 = clearBit (s.get F.CIN_CAUSE.CAUSE 0) 0 % 2 ^ 10 := by
  rw [State.safeInSettle, if_pos h]
  exact State.get_set_self ..

/-! ### Leaving safe state (R368) -/

/-- An exit is accepted for a release instant. -/
def State.acceptExit (s : State) (d : Nat) : State :=
  let s2 := s.set F.CIN_STAT.EXIT_PEND 0 1
  { s2 with safe := { s2.safe with exitAt := some d } }

/-- The registers and the pin when safe state ends. -/
def State.left (s : State) (d : Nat) : State :=
  let s1 := ((s.set F.CIN_STAT.SAFE 0 0).set F.DEV_STATE.SAFE 0 0).set F.CIN_STAT.EXIT_PEND 0 0
  { s1.set F.CIN_EXIT_DT.DT 0 d with safe := { s1.safe with exitAt := none }, pins := { s1.pins with safeOutLow := false } }

theorem State.exitAt_eq (s : State) (d : Nat) : s.exitAt d =
    (((s.left d).each (List.range 256) (fun s i => s.restSlice i d)).each (List.range 16) (fun s n => s.showTrig n)).fire 1459 := rfl

/-- What follows the end of safe state shows levels at pins; registers stay. -/
theorem State.get_exitAt (s : State) (d : Nat) (g : Fld) (j : Nat) : (s.exitAt d).get g j = (s.left d).get g j := by
  rw [State.exitAt_eq]
  exact Keeps.get (State.fire_keeps _ (State.each_keeps (fun _ _ h => State.showTrig_keeps _ h)
    (State.each_keeps (fun _ _ h => State.restSlice_keeps _ _ h) (Keeps.refl _ _))))

theorem State.get_left (s : State) (d : Nat) (g : Fld) (j : Nat) : (s.left d).get g j =
    ((((s.set F.CIN_STAT.SAFE 0 0).set F.DEV_STATE.SAFE 0 0).set F.CIN_STAT.EXIT_PEND 0 0).set F.CIN_EXIT_DT.DT 0 d).get g j := by
  rw [State.left, State.get_mk]

theorem State.left_fields (s : State) {d : Nat} (hd : d < 2 ^ 64) : (s.left d).get F.CIN_STAT.SAFE 0 = 0 ∧
    (s.left d).get F.DEV_STATE.SAFE 0 = 0 ∧ (s.left d).get F.CIN_STAT.EXIT_PEND 0 = 0 ∧ (s.left d).get F.CIN_EXIT_DT.DT 0 = d := by
  refine ⟨?_, ?_, ?_, ?_⟩
  · rw [State.get_left, State.get_set_fld _ _ _ _ _ _ (by decide), State.get_set_fld _ _ _ _ _ _ (by decide),
      State.get_set_fld _ _ _ _ _ _ (by decide), State.get_set_self]
    rfl
  · rw [State.get_left, State.get_set_fld _ _ _ _ _ _ (by decide), State.get_set_fld _ _ _ _ _ _ (by decide), State.get_set_self]
    rfl
  · rw [State.get_left, State.get_set_fld _ _ _ _ _ _ (by decide), State.get_set_self]
    rfl
  · rw [State.get_left, State.get_set_self]
    exact Nat.mod_eq_of_lt hd

section
variable {e : Nat} {s u : State} (hu : u = s.elapse e)
include hu

theorem exec_cinExit_of_keyed {v : Word32} (hreach : u.reaches .pf1 .CIN_EXIT = true) (hkey : bitsOf v.toNat 8 8 = 0xA7)
    (hexit : bitAt v.toNat 0 = true) : exec (.cinExit e v) s = .next
      (if u.safeInSettle.exitOk then u.safeInSettle.acceptExit (wrap64 (u.now + ns 120)) else u.refuseExit) := by
  simp [exec_cinExit, execCinExit, ← hu, hreach, State.exitCmd, hkey, hexit, State.acceptExit]

theorem exec_exitRelease_of_due {d : Nat} (hat : u.safe.exitAt = some d) (hdue : u.reached d = true) :
    exec (.exitRelease e) s = .next (u.exitAt d) := by
  simp [exec_exitRelease, execExitRelease, ← hu, hat, hdue]

/-! ### Resets for PF1 (R372) -/

theorem exec_cinTileReset_of_keyed {v : Word32} (hreach : u.reaches .pf1 .CIN_TILE_RESET = true) (hkey : bitsOf v.toNat 8 8 = 0xA7) :
    exec (.cinTileReset e v) s = .next
      (if ((List.range 8).filter (fun t => bitAt v.toNat t)).any (fun t => (u.tileSites t).any (fun x => u.active x)) then
        u.set F.CIN_TILE_RESET.RESULT 0 2
      else (u.each ((List.range 8).filter (fun t => bitAt v.toNat t)) (fun s t => s.tileReset t)).set F.CIN_TILE_RESET.RESULT 0 1) := by
  rw [exec_cinTileReset, execCinTileReset, ← hu, if_pos hreach, State.tileCmd, hkey]
  rfl

theorem exec_cinCoreReset_of_keyed {v : Word32} (hreach : u.reaches .pf1 .CIN_CORE_RESET = true) (hkey : bitsOf v.toNat 16 8 = 0xA7) :
    exec (.cinCoreReset e v) s = .next (u.each ((List.range 16).filter (fun c => bitAt v.toNat c)) (fun s c => s.safCoreReset c)) := by
  rw [exec_cinCoreReset, execCinCoreReset, ← hu, if_pos hreach, State.coreCmd, hkey]
  rfl

end

/-- Settles O31: each command of safe state and of PF1's resets. -/
theorem safeStateComplete : Obligations.SafeStateComplete := by
  intro e s u hu
  refine ⟨?fall, ?fallSafe, ?shortSeen, ?shortMissed, ?rise, ?settle, ?force, ?unforce, ?accept, ?refuse, ?release, ?tileBusy, ?tile, ?core⟩
  case fall => exact fun hgood => exec_safeInNFall_of_long hu hgood
  case fallSafe => exact fun hgood => ⟨_, exec_safeInNFall_of_long hu hgood, State.enterSafe_isSafe _ _⟩
  case shortSeen =>
    intro hgood hhigh hseen
    rw [exec_safeInNFall_of_short hu hgood hhigh, if_pos hseen]
  case shortMissed =>
    intro hgood hhigh hmissed
    rw [exec_safeInNFall_of_short hu hgood hhigh, if_neg hmissed]
  case rise => exact fun hlow => exec_safeInNRise_of_low hu hlow
  case settle => exact fun hlong => ⟨_, exec_safeInNRise_of_high hu (State.safeInHigh_of_long hlong), State.cause_safeInSettle hlong⟩
  case force =>
    intro v hreach hv
    refine ⟨_, exec_cinForceWrite_of_set hu hreach hv, State.enterSafe_isSafe _ _, ?_⟩
    rw [Keeps.get (State.enterSafe_keeps _ (Within.ne (by decide)) (Keeps.refl _ _)), State.forced, State.get_set_self, hv]
    rfl
  case unforce =>
    intro v hreach hv
    refine ⟨_, exec_cinForceWrite_of_clear hu hreach hv, ?_, ?_⟩
    · rw [State.get_set_fld _ _ _ _ _ _ (by decide), State.forced, State.get_set_self, hv]
      rfl
    · rw [State.get_set_self, bitAt_mod, bitAt_clearBit]
      simp
  case accept =>
    intro v hreach hkey hexit hok
    refine ⟨_, exec_cinExit_of_keyed hu hreach hkey hexit, ?_⟩
    rw [if_pos hok]
    refine ⟨?_, rfl⟩
    rw [State.acceptExit, State.get_mk, State.get_set_self]
    rfl
  case refuse =>
    intro v hreach hkey hexit hno
    rw [exec_cinExit_of_keyed hu hreach hkey hexit, if_neg (by simp [hno])]
    rfl
  case release =>
    intro d hat hdue hd
    obtain ⟨hsafe, hdev, hpend, hdt⟩ := u.left_fields hd
    refine ⟨_, exec_exitRelease_of_due hu hat hdue, State.isSafe_of_zero ?_, ?_, ?_, ?_⟩
    · rw [State.get_exitAt, hsafe]
    · rw [State.get_exitAt, hdev]
    · rw [State.get_exitAt, hpend]
    · rw [State.get_exitAt, hdt]
  case tileBusy =>
    intro v hreach hkey hbusy
    rw [exec_cinTileReset_of_keyed hu hreach hkey, if_pos hbusy]
  case tile =>
    intro v hreach hkey hquiet
    rw [exec_cinTileReset_of_keyed hu hreach hkey, if_neg (by rw [hquiet]; exact Bool.false_ne_true)]
  case core => exact fun v hreach hkey => exec_cinCoreReset_of_keyed hu hreach hkey

end Sys2Proof.Machine
end

section
/-! The host interface: the PCI Express link, the rings and their operations, mailboxes, locks and the key store; and the statements
about them (R291, R334–R354). -/

namespace Sys2Proof.Machine

/-! ### Which meaning the dispatch calls -/

theorem exec_perstN (e high s) : exec (.perstN e high) s = execPerstN e high s := rfl

theorem exec_flr (e f s) : exec (.flr e f) s = execFlr e f s := rfl

theorem exec_pcieLinkDown (e s) : exec (.pcieLinkDown e) s = execPcieLinkDown e s := rfl

theorem exec_pcieLinkUp (e rate width flit rev s) : exec (.pcieLinkUp e rate width flit rev) s = execPcieLinkUp e rate width flit rev s := rfl

theorem exec_hrgCmdTailWrite (e a r v s) : exec (.hrgCmdTailWrite e a r v) s = execHrgCmdTailWrite e a r v s := rfl

theorem exec_descriptorRead (e r s) : exec (.descriptorRead e r) s = execDescriptorRead e r s := rfl

theorem exec_descriptorComplete (e r s) : exec (.descriptorComplete e r) s = execDescriptorComplete e r s := rfl

theorem exec_hrgCmdSeenWrite (e a r v s) : exec (.hrgCmdSeenWrite e a r v) s = execHrgCmdSeenWrite e a r v s := rfl

theorem exec_ringDisable (e a r s) : exec (.ringDisable e a r) s = execRingDisable e a r s := rfl

theorem exec_arm (e x s) : exec (.arm e x) s = execArm e x s := rfl

theorem exec_abort (e x s) : exec (.abort e x) s = execAbort e x s := rfl

theorem exec_ackCommand (e x s) : exec (.ackCommand e x) s = execAckCommand e x s := rfl

theorem exec_reset (e x s) : exec (.reset e x) s = execReset e x s := rfl

theorem exec_setArg (e x s) : exec (.setArg e x) s = execSetArg e x s := rfl

theorem exec_ringPlanStart (e x s) : exec (.ringPlanStart e x) s = execRingPlanStart e x s := rfl

theorem exec_ringPlanStop (e x s) : exec (.ringPlanStop e x) s = execRingPlanStop e x s := rfl

theorem exec_ringPlanAbort (e x s) : exec (.ringPlanAbort e x) s = execRingPlanAbort e x s := rfl

theorem exec_reflect (e x s) : exec (.reflect e x) s = execReflect e x s := rfl

theorem exec_tableLoad (e x s) : exec (.tableLoad e x) s = execTableLoad e x s := rfl

theorem exec_nvmRead (e m data s) : exec (.nvmRead e m data) s = execNvmRead e m data s := rfl

theorem exec_nvmErase (e m done s) : exec (.nvmErase e m done) s = execNvmErase e m done s := rfl

theorem exec_nvmProgram (e m done s) : exec (.nvmProgram e m done) s = execNvmProgram e m done s := rfl

theorem exec_todSet (e m s) : exec (.todSet e m) s = execTodSet e m s := rfl

theorem exec_todAdj (e m s) : exec (.todAdj e m) s = execTodAdj e m s := rfl

theorem exec_mbxDataWrite (e a n w v s) : exec (.mbxDataWrite e a n w v) s = execMbxDataWrite e a n w v s := rfl

theorem exec_mbxDoorbell (e a n v s) : exec (.mbxDoorbell e a n v) s = execMbxDoorbell e a n v s := rfl

theorem exec_mbxTake (e a n ecc s) : exec (.mbxTake e a n ecc) s = execMbxTake e a n ecc s := rfl

theorem exec_mbxLockRead (e a n s) : exec (.mbxLockRead e a n) s = execMbxLockRead e a n s := rfl

theorem exec_mbxLockRelease (e a n v s) : exec (.mbxLockRelease e a n v) s = execMbxLockRelease e a n v s := rfl

theorem exec_keyStoreWrite (e s) : exec (.keyStoreWrite e) s = execKeyStoreWrite e s := rfl

theorem exec_keyStoreErase (e s) : exec (.keyStoreErase e) s = execKeyStoreErase e s := rfl

/-! ### The link and the resets of the host's side (R334, R344) -/

/-- A link that is not up has its state, and no rate, width or mode. -/
theorem State.get_linkTo (s : State) {st : Nat} (hst : st < 4) :
    (s.linkTo st).get F.PCI_LINK.STATE 0 = st ∧ (s.linkTo st).get F.PCI_LINK.WIDTH 0 = 0 := by
  unfold State.linkTo
  extract_lets s1
  simp only [List.foldl_cons, List.foldl_nil]
  refine ⟨?_, ?_⟩
  · rw [State.get_set_fld _ _ _ _ _ _ (by decide), State.get_set_fld _ _ _ _ _ _ (by decide), State.get_set_fld _ _ _ _ _ _ (by decide),
      State.get_set_fld _ _ _ _ _ _ (by decide), State.get_set_self]
    exact Nat.mod_eq_of_lt hst
  · rw [State.get_set_fld _ _ _ _ _ _ (by decide), State.get_set_fld _ _ _ _ _ _ (by decide), State.get_set_self]
    rfl

/-- A function's reset leaves the link and the endpoint's faults. -/
theorem State.get_fnReset_link (s : State) (f : Func) : (s.fnReset f).get F.PCI_LINK.STATE 0 = s.get F.PCI_LINK.STATE 0 :=
  Keeps.get (State.fnReset_keeps _ (Within.ne (by decide)) (Keeps.refl _ s))

theorem State.get_fnReset_perst (s : State) (f : Func) : (s.fnReset f).get F.PCI_FAULT_STAT.PERST 0 = s.get F.PCI_FAULT_STAT.PERST 0 :=
  Keeps.get (State.fnReset_keeps _ (Within.ne (by decide)) (Keeps.refl _ s))

theorem State.get_linkTo_perst (s : State) (st : Nat) : (s.linkTo st).get F.PCI_FAULT_STAT.PERST 0 = s.get F.PCI_FAULT_STAT.PERST 0 :=
  Keeps.get (State.linkTo_keeps _ (Within.ne (by decide)) (Keeps.refl _ s))

theorem State.get_linkTo_down (s : State) (st : Nat) :
    (s.linkTo st).get F.PCI_FAULT_STAT.LINK_DOWN 0 = s.get F.PCI_FAULT_STAT.LINK_DOWN 0 :=
  Keeps.get (State.linkTo_keeps _ (Within.ne (by decide)) (Keeps.refl _ s))

/-- What linking up records of the negotiated link. -/
def State.linkedUp (s : State) (rate width : Nat) (flit rev : Bool) : State :=
  let s1 := ((s.set F.PCI_LINK.STATE 0 2).set F.PCI_LINK.RATE 0 rate).set F.PCI_LINK.WIDTH 0 width
  (s1.set F.PCI_LINK.FLIT 0 (ofBool flit)).set F.PCI_LINK.REVERSED 0 (ofBool rev)

theorem linkForm_iff {rate width : Nat} {flit : Bool} : linkForm rate width flit = true ↔
    ((1 ≤ rate ∧ rate ≤ 6) ∧ (rate ≠ 6 ∨ flit = true)) ∧ (width = 1 ∨ width = 2 ∨ width = 4 ∨ width = 8) := by
  simp [linkForm, or_assoc]

theorem ofBool_mod (b : Bool) : ofBool b % 2 ^ 1 = ofBool b := by cases b <;> rfl

theorem State.get_linkedUp (s : State) {rate width : Nat} (flit rev : Bool) (hrate : rate < 8) (hwidth : width < 16) :
    (s.linkedUp rate width flit rev).get F.PCI_LINK.STATE 0 = 2 ∧ (s.linkedUp rate width flit rev).get F.PCI_LINK.RATE 0 = rate ∧
    (s.linkedUp rate width flit rev).get F.PCI_LINK.WIDTH 0 = width ∧ (s.linkedUp rate width flit rev).get F.PCI_LINK.FLIT 0 = ofBool flit ∧
    (s.linkedUp rate width flit rev).get F.PCI_LINK.REVERSED 0 = ofBool rev := by
  unfold State.linkedUp
  extract_lets s1
  have hs1 {g : Fld} (hflit : g.id ≠ F.PCI_LINK.FLIT.id) (hrev : g.id ≠ F.PCI_LINK.REVERSED.id) :
      ((s1.set F.PCI_LINK.FLIT 0 (ofBool flit)).set F.PCI_LINK.REVERSED 0 (ofBool rev)).get g 0 = s1.get g 0 := by
    rw [State.get_set_fld _ _ _ _ _ _ hrev, State.get_set_fld _ _ _ _ _ _ hflit]
  refine ⟨?_, ?_, ?_, ?_, ?_⟩
  · rw [hs1 (by decide) (by decide), State.get_set_fld _ _ _ _ _ _ (by decide), State.get_set_fld _ _ _ _ _ _ (by decide), State.get_set_self]
    rfl
  · rw [hs1 (by decide) (by decide), State.get_set_fld _ _ _ _ _ _ (by decide), State.get_set_self]
    exact Nat.mod_eq_of_lt hrate
  · rw [hs1 (by decide) (by decide), State.get_set_self]
    exact Nat.mod_eq_of_lt hwidth
  · rw [State.get_set_fld _ _ _ _ _ _ (by decide), State.get_set_self, ofBool_mod]
  · rw [State.get_set_self, ofBool_mod]

/-- The fault bit that shows the reset of a function. -/
def flrBit : Func → Fld
  | .pf0 => F.PCI_FAULT_STAT.FLR0
  | .pf1 => F.PCI_FAULT_STAT.FLR1

section
variable {e : Nat} {s u : State} (hu : u = s.elapse e)
include hu

theorem exec_perstN_of_cold {h : Bool} (hedge : h ≠ u.pins.perstN) (hcold : u.dev = 0) :
    exec (.perstN e h) s = .next { u with pins := { u.pins with perstN := h } } := by
  simp [exec_perstN, execPerstN, ← hu, hedge, hcold]

theorem exec_perstN_of_rise (hlow : u.pins.perstN = false) (hdev : u.dev ≠ 0) : exec (.perstN e true) s =
    .next (State.set { u with pins := { u.pins with perstN := true } } F.PCI_LINK.STATE 0 1) := by
  simp [exec_perstN, execPerstN, ← hu, hlow, hdev]

theorem exec_perstN_of_fall (hhigh : u.pins.perstN = true) (hdev : u.dev ≠ 0) : exec (.perstN e false) s = .next
    ((((State.raiseC { u with pins := { u.pins with perstN := false } } F.PCI_FAULT_STAT.PERST 0).linkTo 0).fnReset .pf0).fnReset .pf1) := by
  simp [exec_perstN, execPerstN, ← hu, hhigh, hdev]

theorem exec_flr_of_on {f : Func} (hdev : u.dev ≠ 0) : exec (.flr e f) s =
    .next ((u.raiseC (flrBit f) 0).fnReset f) := by
  cases f <;> simp [exec_flr, execFlr, ← hu, hdev, flrBit]

theorem exec_pcieLinkDown_of_up (hup : u.get F.PCI_LINK.STATE 0 = 2) :
    exec (.pcieLinkDown e) s = .next ((u.raiseC F.PCI_FAULT_STAT.LINK_DOWN 0).linkTo 1) := by
  simp only [exec_pcieLinkDown, execPcieLinkDown, ← hu, hup, if_true]

theorem exec_pcieLinkUp_of_form {r w : Fin 16} {fl rev : Bool} (hperst : u.pins.perstN = true) (hdown : u.get F.PCI_LINK.STATE 0 ≠ 2)
    (hform : linkForm r.val w.val fl = true) (hreach : u.reaches .pf1 .PCI_LINK = true) :
    exec (.pcieLinkUp e r w fl rev) s = .next (u.linkedUp r.val w.val fl rev) := by
  simp [exec_pcieLinkUp, execPcieLinkUp, ← hu, hperst, hdown, hform, hreach, State.linkedUp]

end

/-- Settles O33: PERST_n, FLR, and the link going down and up. -/
theorem hostLinkComplete : Obligations.HostLinkComplete := by
  intro e s u hu
  refine ⟨?cold, ?rise, ?fall, ?fallen, ?flr, ?down, ?up⟩
  case cold => exact fun h hedge hcold => exec_perstN_of_cold hu hedge hcold
  case rise => exact fun hlow hdev => exec_perstN_of_rise hu hlow hdev
  case fall => exact fun hhigh hdev => exec_perstN_of_fall hu hhigh hdev
  case fallen =>
    intro hhigh hdev
    refine ⟨_, exec_perstN_of_fall hu hhigh hdev, ?_, ?_⟩
    · rw [State.get_fnReset_perst, State.get_fnReset_perst, State.get_linkTo_perst, State.raiseC, State.get_set_self]
      rfl
    · rw [State.get_fnReset_link, State.get_fnReset_link, (State.get_linkTo _ (by decide)).1]
  case flr =>
    intro f hdev
    rw [exec_flr_of_on hu hdev]
    cases f <;> rfl
  case down =>
    intro hup
    obtain ⟨hstate, hwidth⟩ := (u.raiseC F.PCI_FAULT_STAT.LINK_DOWN 0).get_linkTo (st := 1) (by decide)
    refine ⟨_, exec_pcieLinkDown_of_up hu hup, hstate, ?_, hwidth⟩
    rw [State.get_linkTo_down, State.raiseC, State.get_set_self]
    rfl
  case up =>
    intro r w fl rev hperst hdown hform hreach
    obtain ⟨⟨⟨-, hrate⟩, -⟩, -⟩ := linkForm_iff.1 hform
    exact ⟨_, exec_pcieLinkUp_of_form hu hperst hdown hform hreach, u.get_linkedUp fl rev (by omega) w.isLt⟩

/-! ### Descriptors (R346, R347) -/

section
variable {e : Nat} {s u : State} (hu : u = s.elapse e)
include hu

theorem exec_hrgCmdTailWrite_of_open {a : Agent} {r : RingId} {v : Word32} (hopen : u.ringOpen a = true) :
    exec (.hrgCmdTailWrite e a r v) s = .next (u.writeTail (ringKey r) v.toNat) := by
  simp [exec_hrgCmdTailWrite, execHrgCmdTailWrite, ← hu, hopen]

theorem exec_descriptorRead_of_ready {r : RingId} (hready : u.ringReady (ringKey r) = true) : exec (.descriptorRead e r) s =
    .next (if u.ringUsable (ringKey r) then u.takeDesc (ringKey r) else u.ringStop (ringKey r)) := by
  simp [exec_descriptorRead, execDescriptorRead, ← hu, hready]

theorem exec_descriptorComplete_of_done {r : RingId} {c : RingCmd} {st v : Nat} (hcur : (u.hring (ringKey r)).cur = some c)
    (hresult : u.descResult (ringKey r) c = some (st, v)) (hgoing : (u.hring (ringKey r)).stopped = false)
    (husable : u.ringUsable (ringKey r) = true) (hkept : (u.hring (ringKey r)).flushing = false) :
    exec (.descriptorComplete e r) s = .next (u.ringDone (ringKey r) c st v) := by
  simp [exec_descriptorComplete, execDescriptorComplete, ← hu, hcur, hresult, hgoing, husable, hkept]

theorem exec_hrgCmdSeenWrite_of_open {a : Agent} {r : RingId} {v : Word32} (hopen : u.ringOpen a = true) :
    exec (.hrgCmdSeenWrite e a r v) s = .next (u.writeSeen (ringKey r) v.toNat) := by
  simp [exec_hrgCmdSeenWrite, execHrgCmdSeenWrite, ← hu, hopen]

theorem exec_ringDisable_of_open {a : Agent} {r : RingId} (hopen : u.ringOpen a = true) :
    exec (.ringDisable e a r) s = .next (u.ringOff (ringKey r)) := by
  simp [exec_ringDisable, execRingDisable, ← hu, hopen]

end

/-- Does a write of TAIL name no position from the last one published on, or one beyond the ring. -/
theorem State.writeTail_of_taken {s : State} {k v : Nat}
    (hafter : ringDist (s.ringGet k (·.done)) (s.ringGet k (·.tail)) ≤ ringDist (s.ringGet k (·.done)) v)
    (hfits : ringDist (s.ringGet k (·.done)) v ≤ 2 ^ s.ringGet k (·.log2)) : s.writeTail k v = (s.ringSet k (·.tail) v).wake := by
  simp [State.writeTail, Nat.not_lt.2 hafter, Nat.not_lt.2 hfits]

theorem State.writeTail_of_refused {s : State} {k v : Nat}
    (h : ringDist (s.ringGet k (·.done)) v < ringDist (s.ringGet k (·.done)) (s.ringGet k (·.tail)) ∨
      2 ^ s.ringGet k (·.log2) < ringDist (s.ringGet k (·.done)) v) : s.writeTail k v = s.raiseC F.HRG_FAULT_STAT.DB_REJ 0 := by
  rw [State.writeTail]
  exact if_pos (by simpa using h)

@[simp] theorem State.hring_setHring (s : State) (k : Nat) (v : HostRing) : (s.setHring k v).hring k = v := Tab.get_set_self ..

theorem State.ringOff_of_idle {s : State} {k : Nat} (hon : s.ringGet k (·.en) ≠ 0) (hidle : (s.hring k).cur = none) :
    s.ringOff k = ((s.ringSet k (·.en) 0).setHring k { s.hring k with stopped := false }).flushOrStop k := by
  rw [State.ringOff, if_neg hon]
  simp [hidle]

theorem State.ringOff_of_busy {s : State} {k : Nat} (hon : s.ringGet k (·.en) ≠ 0) (hbusy : (s.hring k).cur.isSome = true) :
    (s.ringOff k).hring k = { s.hring k with stopped := false, flushing := true } := by
  rw [State.ringOff, if_neg hon]
  simp [hbusy]

/-- Settles O34: publishing, reading, completing, acknowledging and flushing descriptors. -/
theorem descriptorComplete : Obligations.DescriptorComplete := by
  intro e s u hu
  refine ⟨?taken, ?refused, ?read, ?stop, ?done, ?seen, ?unseen, ?busy, ?idle⟩
  case taken =>
    rintro a r v k rfl hopen hafter hfits
    rw [exec_hrgCmdTailWrite_of_open hu hopen, State.writeTail_of_taken hafter hfits]
  case refused =>
    rintro a r v k rfl hopen hout
    rw [exec_hrgCmdTailWrite_of_open hu hopen, State.writeTail_of_refused hout]
  case read =>
    intro r hready husable
    rw [exec_descriptorRead_of_ready hu hready, if_pos husable]
  case stop =>
    intro r hready hlost
    rw [exec_descriptorRead_of_ready hu hready, if_neg (by simp [hlost])]
  case done => exact fun r c st v hcur hresult hgoing husable hkept => exec_descriptorComplete_of_done hu hcur hresult hgoing husable hkept
  case seen =>
    rintro a r v k rfl hopen hok
    rw [exec_hrgCmdSeenWrite_of_open hu hopen, State.writeSeen, if_pos hok]
  case unseen =>
    rintro a r v k rfl hopen hbeyond
    rw [exec_hrgCmdSeenWrite_of_open hu hopen, State.writeSeen, if_neg (by simp [hbeyond])]
  case busy =>
    rintro a r k rfl hopen hon hbusy
    refine ⟨_, exec_ringDisable_of_open hu hopen, ?_⟩
    beta_reduce
    rw [State.ringOff_of_busy hon hbusy]
    exact ⟨rfl, rfl⟩
  case idle =>
    rintro a r k rfl hopen hon hidle
    rw [exec_ringDisable_of_open hu hopen, State.ringOff_of_idle hon hidle]

/-! ### Operations of command rings (R348) -/

section
variable {e : Nat} {s u : State} (hu : u = s.elapse e)
include hu

/-- An operation of a site command in execution, while no register command is processed. -/
theorem exec_arm_of_op {x : Site} {c : RingCmd} (hop : u.opOf x.val 1 = some c) (hfree : u.flag F.MDR_SITE_CMD_RES.BUSY x.val = false) :
    exec (.arm e x) s = .next ((if u.armCode x.val (bitsOf (c.arg 0) 0 16) = 1 then u.armAccepted x.val (bitsOf (c.arg 0) 0 16) (c.arg 1)
      else if u.armCode x.val (bitsOf (c.arg 0) 0 16) = 4 then u.dirSeen x.val (bitsOf (c.arg 0) 0 16) else u).opResult x.val c
        (u.armCode x.val (bitsOf (c.arg 0) 0 16))) := by
  simp [exec_arm, execArm, ← hu, State.siteOp, hop, hfree]

theorem exec_abort_of_op {x : Site} {c : RingCmd} (hop : u.opOf x.val 2 = some c) (hfree : u.flag F.MDR_SITE_CMD_RES.BUSY x.val = false)
    (hcode : u.abortCode x.val = 0) : exec (.abort e x) s = .next (((u.set F.MDR_SITE_CMD_RES.BUSY x.val 1).setSite x.val
      { u.site x.val with abortPend := true, abortAns := none }).opBegun x.val c) := by
  simp [exec_abort, execAbort, ← hu, State.siteOp, hop, hfree, hcode]

theorem exec_ackCommand_of_op {x : Site} {c : RingCmd} (hop : u.opOf x.val 3 = some c)
    (hfree : u.flag F.MDR_SITE_CMD_RES.BUSY x.val = false) (hcode : u.ackCode x.val = 1) :
    exec (.ackCommand e x) s = .next ((u.ackDone x.val).opResult x.val c 1) := by
  simp [exec_ackCommand, execAckCommand, ← hu, State.siteOp, hop, hfree, hcode]

theorem exec_reset_of_op {x : Site} {c : RingCmd} (hop : u.opOf x.val 4 = some c) (hfree : u.flag F.MDR_SITE_CMD_RES.BUSY x.val = false)
    (hcode : u.resetCode x.val = 1) : exec (.reset e x) s = .next ((((u.set F.MDR_SITE_CMD_RES.BUSY x.val 1).setSite x.val
      { u.site x.val with resetAt := some (wrap64 (u.now + u.lead x.val)) }).sendToken x.val 12 (wrap64 (u.now + u.lead x.val)) []).opBegun
        x.val c) := by
  simp [exec_reset, execReset, ← hu, State.siteOp, hop, hfree, hcode]

theorem exec_setArg_of_rest {x : Site} {c : RingCmd} (hop : u.opOf x.val 5 = some c)
    (hrest : u.siteState x.val = 1 ∨ u.siteState x.val = 6) : exec (.setArg e x) s =
      .next ((u.set F.MDR_STEP_ARG.VALUE (4 * x.val + c.arg 0 % 4) (c.arg 1)).opResult x.val c 1) := by
  simp [exec_setArg, execSetArg, ← hu, hop, hrest]

theorem exec_setArg_of_busy {x : Site} {c : RingCmd} (hop : u.opOf x.val 5 = some c)
    (hbusy : ¬ (u.siteState x.val = 1 ∨ u.siteState x.val = 6)) : exec (.setArg e x) s = .next (u.opResult x.val c 2) := by
  simp [exec_setArg, execSetArg, ← hu, hop, hbusy]

omit hu in
/-- A plan operation in execution is answered with the result of the plan command. -/
theorem State.planOp_of_op {x op cmd : Nat} {c : RingCmd} {t : State} (hop : u.opOf x op = some c) (ht : t = u.planCmd x cmd (c.arg 0)) :
    u.planOp x op cmd = t.opResult x c (resultWord (if t.get F.SVC_PLAN_STAT.RESULT x = 1 then 0 else 3) 0 (t.get F.SVC_PLAN_STAT.RESULT x)) := by
  subst ht
  simp [State.planOp, hop]

theorem exec_reflect_of_op {x : Site} {c : RingCmd} (hop : u.opOf x.val 9 = some c) : exec (.reflect e x) s =
    .next ((u.requestRefl x.val).opResult x.val c (if u.reflRefused x.val false then 2 else 1)) := by
  simp [exec_reflect, execReflect, ← hu, hop]

omit hu in
/-- A site at rest whose plan does not run may take a table. -/
theorem State.tableLoad_allowed {x : Nat} (hrest : u.siteState x = 1 ∨ u.siteState x = 6) (hplan : u.get F.SVC_PLAN_STAT.STATE x = 0 ∨
    u.get F.SVC_PLAN_STAT.STATE x = 1 ∨ u.get F.SVC_PLAN_STAT.STATE x = 5) :
    (!(u.siteState x == 1 || u.siteState x == 6) || !(u.get F.SVC_PLAN_STAT.STATE x == 0 || u.get F.SVC_PLAN_STAT.STATE x == 1 ||
      u.get F.SVC_PLAN_STAT.STATE x == 5)) = false := by
  have hsite : (u.siteState x == 1 || u.siteState x == 6) = true := by simpa using hrest
  have hstate : (u.get F.SVC_PLAN_STAT.STATE x == 0 || u.get F.SVC_PLAN_STAT.STATE x == 1 || u.get F.SVC_PLAN_STAT.STATE x == 5) = true := by
    simpa [or_assoc] using hplan
  rw [hsite, hstate]
  rfl

theorem exec_tableLoad_of_table {x : Site} {c : RingCmd} {v : SvcTable} (hop : u.opOf x.val 10 = some c)
    (hrest : u.siteState x.val = 1 ∨ u.siteState x.val = 6) (hplan : u.get F.SVC_PLAN_STAT.STATE x.val = 0 ∨
      u.get F.SVC_PLAN_STAT.STATE x.val = 1 ∨ u.get F.SVC_PLAN_STAT.STATE x.val = 5) (hv : u.tableAt x.val c = some v) :
    exec (.tableLoad e x) s = .next ((u.loadTable x.val v).opResult x.val c 1) := by
  simp only [exec_tableLoad, execTableLoad, ← hu, hop, State.tableLoad_allowed hrest hplan, Bool.false_eq_true, if_false, hv]

theorem exec_tableLoad_of_bad {x : Site} {c : RingCmd} (hop : u.opOf x.val 10 = some c)
    (hrest : u.siteState x.val = 1 ∨ u.siteState x.val = 6) (hplan : u.get F.SVC_PLAN_STAT.STATE x.val = 0 ∨
      u.get F.SVC_PLAN_STAT.STATE x.val = 1 ∨ u.get F.SVC_PLAN_STAT.STATE x.val = 5) (hv : u.tableAt x.val c = none) :
    exec (.tableLoad e x) s = .next (u.opResult x.val c (3 + 0x1D * 256)) := by
  simp only [exec_tableLoad, execTableLoad, ← hu, hop, State.tableLoad_allowed hrest hplan, Bool.false_eq_true, if_false, hv]

/-! ### Operations of management rings (R349) -/

theorem exec_nvmRead_of_turn {m : Fin 16} {data : List Byte} {c : RingCmd} (hturn : u.nvmTurn m.val 1 = some c)
    (hlen : data.length = c.arg 2) : exec (.nvmRead e m data) s = .next ((u.ptrWrite (c.arg 1) data).nvmDone m.val c data.length) := by
  simp [exec_nvmRead, execNvmRead, ← hu, hturn, hlen]

theorem exec_nvmErase_of_turn {m : Fin 16} {n : Nat} {c : RingCmd} (hturn : u.nvmTurn m.val 2 = some c) (hlen : n ≤ c.arg 2)
    (hblock : n % 4096 = 0) :
    exec (.nvmErase e m n) s = .next ((u.emit (.flash 2 (c.arg 0) (List.replicate n 0xFF))).nvmDone m.val c n) := by
  simp [exec_nvmErase, execNvmErase, ← hu, hturn, hlen, hblock]

theorem exec_nvmProgram_of_turn {m : Fin 16} {n : Nat} {c : RingCmd} (hturn : u.nvmTurn m.val 3 = some c) (hlen : n ≤ c.arg 2)
    (hpage : n % 256 = 0) (hptr : u.ptrOk (c.arg 1) n = true) :
    exec (.nvmProgram e m n) s = .next ((u.emit (.flash 3 (c.arg 0) (u.ptrBytes (c.arg 1) n))).nvmDone m.val c n) := by
  simp [exec_nvmProgram, execNvmProgram, ← hu, hturn, hlen, hpage, hptr]

theorem exec_todSet_of_op {m : Fin 16} {c : RingCmd} (hop : u.opOf (256 + m.val) 4 = some c) :
    exec (.todSet e m) s = .next (u.writeTod m.val c (c.arg 0)) := by
  simp [exec_todSet, execTodSet, ← hu, hop]

theorem exec_todAdj_of_op {m : Fin 16} {c : RingCmd} (hop : u.opOf (256 + m.val) 5 = some c) : exec (.todAdj e m) s =
    .next (u.writeTod m.val c (wrap64 (u.get F.UMB_TOD_OFFSET.OFFSET 0 + c.arg 0 * 8000000000000))) := by
  simp [exec_todAdj, execTodAdj, ← hu, hop]

end

/-- Settles O35: the operations of both kinds of ring, accepted and refused. -/
theorem ringOpComplete : Obligations.RingOpComplete := by
  intro e s u hu
  refine ⟨?arm, ?armRefused, ?abort, ?ack, ?reset, ?setArg, ?setArgRefused, ?planStart, ?planStop, ?planAbort, ?reflect, ?table,
    ?tableRefused, ?nvmRead, ?nvmErase, ?nvmProgram, ?tod, ?todRefused, ?todAdj⟩
  case arm =>
    intro x c hop hfree hcode
    rw [exec_arm_of_op hu hop hfree, hcode]
    rfl
  case armRefused =>
    intro x c r hop hfree hcode hr
    rw [exec_arm_of_op hu hop hfree, hcode, if_neg hr]
  case abort => exact fun x c hop hfree hcode => exec_abort_of_op hu hop hfree hcode
  case ack => exact fun x c hop hfree hcode => exec_ackCommand_of_op hu hop hfree hcode
  case reset =>
    rintro x c d hop hfree hcode rfl
    exact exec_reset_of_op hu hop hfree hcode
  case setArg => exact fun x c hop hrest => exec_setArg_of_rest hu hop hrest
  case setArgRefused => exact fun x c hop hbusy => exec_setArg_of_busy hu hop hbusy
  case planStart =>
    intro x c t hop ht
    rw [exec_ringPlanStart, execRingPlanStart, ← hu, State.planOp_of_op hop ht]
  case planStop =>
    intro x c t hop ht
    rw [exec_ringPlanStop, execRingPlanStop, ← hu, State.planOp_of_op hop ht]
  case planAbort =>
    intro x c t hop ht
    rw [exec_ringPlanAbort, execRingPlanAbort, ← hu, State.planOp_of_op hop ht]
  case reflect => exact fun x c hop => exec_reflect_of_op hu hop
  case table => exact fun x c v hop hrest hplan hv => exec_tableLoad_of_table hu hop hrest hplan hv
  case tableRefused => exact fun x c hop hrest hplan hv => exec_tableLoad_of_bad hu hop hrest hplan hv
  case nvmRead => exact fun m data c hturn hlen => exec_nvmRead_of_turn hu hturn hlen
  case nvmErase => exact fun m n c hturn hlen hblock => exec_nvmErase_of_turn hu hturn hlen hblock
  case nvmProgram =>
    rintro m n c b hturn hlen hpage hptr rfl
    exact exec_nvmProgram_of_turn hu hturn hlen hpage hptr
  case tod =>
    intro m c hop hok
    rw [exec_todSet_of_op hu hop, State.writeTod, if_pos hok]
  case todRefused =>
    intro m c hop hno
    rw [exec_todSet_of_op hu hop, State.writeTod, if_neg (by simp [hno])]
  case todAdj =>
    rintro m c v hop rfl hok
    rw [exec_todAdj_of_op hu hop, State.writeTod, if_pos hok]

/-! ### Mailboxes and locks (R352–R354) -/

theorem agentNum_lt (a : Agent) : a.num < 256 := by
  cases a with
  | core c =>
    have := c.isLt
    simp only [Agent.num]
    omega
  | pf0 => decide
  | pf1 => decide
  | loader => decide

theorem State.mbxData_of_sender {s : State} {a : Agent} {n w v : Nat} (hopen : mbxOpen n a = true) (hsends : mbxSends n a = true) :
    s.mbxData a n w v = if s.flag F.MBX_STAT.FULL n then s.set F.MBX_STAT.WR_FULL n 1 else s.set F.MBX_DATA.DATA (16 * n + w) v := by
  simp [State.mbxData, hopen, hsends]

theorem State.mbxBell_of_empty {s : State} {a : Agent} {n v : Nat} (hopen : mbxOpen n a = true) (hsends : mbxSends n a = true)
    (hempty : s.flag F.MBX_STAT.FULL n = false) : s.mbxBell a n v = s.mbxPost n a.num v := by
  simp [State.mbxBell, hopen, hsends, hempty]

theorem State.mbxBell_of_full {s : State} {a : Agent} {n v : Nat} (hopen : mbxOpen n a = true) (hsends : mbxSends n a = true)
    (hfull : s.flag F.MBX_STAT.FULL n = true) : s.mbxBell a n v =
      (if s.get F.MBX_POST_DT.DT n = s.now ∧ a.num < s.get F.MBX_STAT.SENDER n then s.mbxPost n a.num v else s).set F.MBX_STAT.DB_REJ n 1 := by
  simp [State.mbxBell, hopen, hsends, hfull]

theorem State.mbxBell_of_stranger {s : State} {a : Agent} {n v : Nat} (hopen : mbxOpen n a = true) (hsends : mbxSends n a = false) :
    s.mbxBell a n v = s.mbxSideErr n := by
  simp [State.mbxBell, hopen, hsends]

/-- What a posting leaves in the mailbox's registers. -/
theorem State.get_mbxPost (s : State) (n code : Nat) {agent : Nat} (hcode : code < 2 ^ 32) (hagent : agent < 256) :
    (s.mbxPost n agent code).get F.MBX_STAT.FULL n = 1 ∧ (s.mbxPost n agent code).get F.MBX_CODE.VALUE n = code ∧
    (s.mbxPost n agent code).get F.MBX_STAT.SENDER n = agent ∧
    (s.mbxPost n agent code).get F.MBX_STAT.ORPHAN n = ofBool (s.resetNowBy agent) ∧ (s.mbxPost n agent code).get F.MBX_STAT.DISCARD n = 0 := by
  unfold State.mbxPost
  extract_lets s1
  have hs1 {g : Fld} (hdt : g.id ≠ F.MBX_POST_DT.DT.id) (horphan : g.id ≠ F.MBX_STAT.ORPHAN.id) (hdiscard : g.id ≠ F.MBX_STAT.DISCARD.id) :
      (((s1.set F.MBX_POST_DT.DT n s.now).set F.MBX_STAT.ORPHAN n (ofBool (s.resetNowBy agent))).set F.MBX_STAT.DISCARD n 0).get g n =
        s1.get g n := by
    rw [State.get_set_fld _ _ _ _ _ _ hdiscard, State.get_set_fld _ _ _ _ _ _ horphan, State.get_set_fld _ _ _ _ _ _ hdt]
  refine ⟨?_, ?_, ?_, ?_, ?_⟩
  · rw [hs1 (by decide) (by decide) (by decide), State.get_set_fld _ _ _ _ _ _ (by decide), State.get_set_fld _ _ _ _ _ _ (by decide),
      State.get_set_self]
    rfl
  · rw [hs1 (by decide) (by decide) (by decide), State.get_set_fld _ _ _ _ _ _ (by decide), State.get_set_self]
    exact Nat.mod_eq_of_lt hcode
  · rw [hs1 (by decide) (by decide) (by decide), State.get_set_self]
    exact Nat.mod_eq_of_lt hagent
  · rw [State.get_set_fld _ _ _ _ _ _ (by decide), State.get_set_self, ofBool_mod]
  · rw [State.get_set_self]
    rfl

theorem State.lock_mbxPost (s : State) (n agent code : Nat) :
    (s.mbxPost n agent code).get F.MBX_LOCK.OWNER n = s.get F.MBX_LOCK.OWNER n :=
  Keeps.get (State.mbxPost_keeps _ _ _ (Within.ne (by decide)) (Keeps.refl _ s))

theorem State.mbxTake_of_full {s : State} {a : Agent} {n : Nat} (hopen : mbxOpen n a = true) (htakes : mbxTakes n a = true)
    (hfull : s.flag F.MBX_STAT.FULL n = true) :
    s.mbxTake a n .clean = if n = 0 then (s.mbxEmpty n).keyPost else s.mbxEmpty n := by
  simp [State.mbxTake, hopen, htakes, hfull]

theorem State.lock_lockRead (s : State) (a : Agent) (n : Nat) (hfree : s.get F.MBX_LOCK.OWNER n = 0) :
    (s.lockRead a n).readData = 0 ∧ (s.lockRead a n).get F.MBX_LOCK.OWNER n = a.num := by
  simp only [State.lockRead, hfree, if_true, State.get_mk, true_and]
  rw [State.get_set_self]
  exact Nat.mod_eq_of_lt (agentNum_lt a)

theorem State.lockRead_of_held {s : State} {a : Agent} {n : Nat} (hheld : s.get F.MBX_LOCK.OWNER n ≠ 0) :
    s.lockRead a n = { s with readData := s.get F.MBX_LOCK.OWNER n } := by
  simp [State.lockRead, hheld]

/-- A write to a lock releases it where it names the holder and comes from the holder or PF1. -/
theorem State.lockWrite_eq (s : State) (a : Agent) (n v : Nat) : s.lockWrite a n v =
    if s.get F.MBX_LOCK.OWNER n ≠ 0 ∧ v = s.get F.MBX_LOCK.OWNER n ∧ (a.num = s.get F.MBX_LOCK.OWNER n ∨ a = .pf1) then
      s.set F.MBX_LOCK.OWNER n 0 else s := by
  simp [State.lockWrite, and_assoc]

section
variable {e : Nat} {s u : State} (hu : u = s.elapse e)
include hu

theorem exec_mbxDataWrite_of_reach {a : Agent} {n : Fin 64} {w : Fin 16} {v : Word32} (hreach : u.reaches a .MBX_DATA = true) :
    exec (.mbxDataWrite e a n w v) s = .next (u.mbxData a n.val w.val v.toNat) := by
  simp [exec_mbxDataWrite, execMbxDataWrite, ← hu, hreach]

theorem exec_mbxDoorbell_of_reach {a : Agent} {n : Fin 64} {v : Word32} (hreach : u.reaches a .MBX_DOORBELL = true) :
    exec (.mbxDoorbell e a n v) s = .next (u.mbxBell a n.val v.toNat) := by
  simp [exec_mbxDoorbell, execMbxDoorbell, ← hu, hreach]

theorem exec_mbxTake_of_reach {a : Agent} {n : Fin 64} {ecc : Ecc} (hreach : u.reaches a .MBX_TAKE = true) :
    exec (.mbxTake e a n ecc) s = .next (u.mbxTake a n.val ecc) := by
  simp [exec_mbxTake, execMbxTake, ← hu, hreach]

theorem exec_mbxLockRead_of_reach {a : Agent} {n : Fin 64} (hreach : u.reaches a .MBX_LOCK = true) (hopen : mbxOpen n.val a = true) :
    exec (.mbxLockRead e a n) s = .next (u.lockRead a n.val) := by
  simp [exec_mbxLockRead, execMbxLockRead, ← hu, hreach, hopen]

theorem exec_mbxLockRelease_of_reach {a : Agent} {n : Fin 64} {v : Byte} (hreach : u.reaches a .MBX_LOCK = true)
    (hopen : mbxOpen n.val a = true) : exec (.mbxLockRelease e a n v) s = .next (u.lockWrite a n.val v.toNat) := by
  simp [exec_mbxLockRelease, execMbxLockRelease, ← hu, hreach, hopen]

theorem exec_keyStoreWrite_of_reach (hreach : u.reaches .pf1 .PCI_KEY_CMD = true) :
    exec (.keyStoreWrite e) s = .next (u.keyCmd 0x80000001) := by
  simp [exec_keyStoreWrite, execKeyStoreWrite, ← hu, hreach]

theorem exec_keyStoreErase_of_reach (hreach : u.reaches .pf1 .PCI_KEY_CMD = true) :
    exec (.keyStoreErase e) s = .next (u.keyCmd 0x80000002) := by
  simp [exec_keyStoreErase, execKeyStoreErase, ← hu, hreach]

end

/-- An erase of a slot that the site map and the kinds of keys allow. -/
theorem State.keyCmd_erase {s : State} (hsite : s.siteState (s.get F.PCI_KEY_SEL.SITE 0) ≠ 0)
    (hkind : s.get F.PCI_KEY_SEL.KIND 0 = 1 ∨ s.get F.PCI_KEY_SEL.KIND 0 = 2) : s.keyCmd 0x80000002 =
      ((s.clearReg .PCI_KEY_DATA).setSlot (s.get F.PCI_KEY_SEL.SITE 0) (s.get F.PCI_KEY_SEL.SLOT 0) 0 []).set F.PCI_KEY_RES.RESULT 0 2 := by
  have hgo : bitAt 0x80000002 31 = true := by decide
  have hop : bitsOf 0x80000002 0 2 = 2 := by decide
  rcases hkind with hkind | hkind
  · simp [State.keyCmd, hgo, hop, hsite, hkind]
  · simp [State.keyCmd, hgo, hop, hsite, hkind]

/-- Settles O36: mailboxes by side and fullness, locks by holder, and the key store's two commands. -/
theorem mailboxComplete : Obligations.MailboxComplete := by
  intro e s u hu
  refine ⟨?data, ?dataFull, ?post, ?reject, ?swap, ?side, ?take, ?takeKey, ?lockFree, ?lockHeld, ?release, ?keyWrite, ?keyErase⟩
  case data =>
    intro a n w v hreach hopen hsends hempty
    rw [exec_mbxDataWrite_of_reach hu hreach, State.mbxData_of_sender hopen hsends, if_neg (by simp [hempty])]
  case dataFull =>
    intro a n w v hreach hopen hsends hfull
    rw [exec_mbxDataWrite_of_reach hu hreach, State.mbxData_of_sender hopen hsends, if_pos hfull]
  case post =>
    intro a n v hreach hopen hsends hempty hlives
    have hposted := u.get_mbxPost n.val v.toNat v.isLt (agentNum_lt a)
    rw [hlives] at hposted
    refine ⟨_, exec_mbxDoorbell_of_reach hu hreach, ?_⟩
    rw [State.mbxBell_of_empty hopen hsends hempty]
    exact hposted
  case reject =>
    intro a n v hreach hopen hsends hfull hlater
    rw [exec_mbxDoorbell_of_reach hu hreach, State.mbxBell_of_full hopen hsends hfull, if_neg]
    rintro ⟨hsame, hlower⟩
    rcases hlater with hother | hhigher
    · exact hother hsame
    · exact absurd hlower (not_lt.2 hhigher)
  case swap =>
    intro a n v hreach hopen hsends hfull hsame hlower
    rw [exec_mbxDoorbell_of_reach hu hreach, State.mbxBell_of_full hopen hsends hfull, if_pos ⟨hsame, hlower⟩]
  case side =>
    intro a n v hreach hopen hsends
    rw [exec_mbxDoorbell_of_reach hu hreach, State.mbxBell_of_stranger hopen hsends]
  case take =>
    intro a n hreach hopen htakes hfull hn
    rw [exec_mbxTake_of_reach hu hreach, State.mbxTake_of_full hopen htakes hfull, if_neg hn]
  case takeKey =>
    intro a n hreach hopen htakes hfull hn
    rw [exec_mbxTake_of_reach hu hreach, State.mbxTake_of_full hopen htakes hfull, if_pos hn]
  case lockFree => exact fun a n hreach hopen hfree => ⟨_, exec_mbxLockRead_of_reach hu hreach hopen, u.lock_lockRead a n.val hfree⟩
  case lockHeld =>
    intro a n hreach hopen hheld
    rw [exec_mbxLockRead_of_reach hu hreach hopen, State.lockRead_of_held hheld]
  case release =>
    intro a n v hreach hopen hheld howner hagent
    refine ⟨_, exec_mbxLockRelease_of_reach hu hreach hopen, ?_⟩
    beta_reduce
    rw [State.lockWrite_eq, if_pos ⟨hheld, howner.symm, by rwa [howner]⟩, State.get_set_self]
    rfl
  case keyWrite => exact fun hreach => exec_keyStoreWrite_of_reach hu hreach
  case keyErase =>
    intro hreach hsite hkind
    rw [exec_keyStoreErase_of_reach hu hreach, State.keyCmd_erase hsite hkind]

/-- Settles O49: reads take a free lock, the holder's number releases it, and the doorbell passes it by. -/
theorem lockRule : Obligations.LockRule := by
  intro e s u a n h hu hreach hopen hh
  refine ⟨fun hfree => ?_, fun hheld => ?_, fun v hheld hv hagent => ?_, fun v hother => ?_, fun v hbell hsends hempty => ?_⟩
  · exact ⟨_, exec_mbxLockRead_of_reach hu hreach hopen, u.lock_lockRead a n.val (hh.symm.trans hfree)⟩
  · rw [exec_mbxLockRead_of_reach hu hreach hopen, State.lockRead_of_held (by rwa [← hh]), ← hh]
  · rw [exec_mbxLockRelease_of_reach hu hreach hopen, State.lockWrite_eq, ← hh, if_pos ⟨hheld, hv, hagent⟩]
  · rw [exec_mbxLockRelease_of_reach hu hreach hopen, State.lockWrite_eq, ← hh, if_neg]
    rintro ⟨hheld, hv, hagent⟩
    rcases hother with hfree | hwrong | ⟨hnum, hpf1⟩
    · exact hheld hfree
    · exact hwrong hv
    · exact hagent.elim hnum hpf1
  · obtain ⟨hfull, -⟩ := u.get_mbxPost n.val v.toNat v.isLt (agentNum_lt a)
    refine ⟨_, exec_mbxDoorbell_of_reach hu hbell, ?_⟩
    rw [State.mbxBell_of_empty hopen hsends hempty]
    exact ⟨hfull, (u.lock_mbxPost _ _ _).trans hh.symm⟩

end Sys2Proof.Machine
end

section
/-! Work items and the cores that run them, test plans, the datalog and the netlist sweep; and the statements about them (R271–R286,
R294–R296, R350). -/

namespace Sys2Proof.Machine

/-! ### Which meaning the dispatch calls -/

theorem exec_dispatch (e y ecc s) : exec (.dispatch e y ecc) s = execDispatch e y ecc s := rfl

theorem exec_itemComplete (e c status nrc v fw s) : exec (.itemComplete e c status nrc v fw) s = execItemComplete e c status nrc v fw s := rfl

theorem exec_watchdog (e c s) : exec (.watchdog e c) s = execWatchdog e c s := rfl

theorem exec_workItemEnqueue (e w delayed due s) : exec (.workItemEnqueue e w delayed due) s = execWorkItemEnqueue e w delayed due s := rfl

theorem exec_safGet (e c own s) : exec (.safGet e c own) s = execSafGet e c own s := rfl

theorem exec_delayDue (e s) : exec (.delayDue e) s = execDelayDue e s := rfl

theorem exec_planStart (e x s) : exec (.planStart e x) s = execPlanStart e x s := rfl

theorem exec_planStop (e x s) : exec (.planStop e x) s = execPlanStop e x s := rfl

theorem exec_planAbort (e x s) : exec (.planAbort e x) s = execPlanAbort e x s := rfl

theorem exec_dutEvent (e x s) : exec (.dutEvent e x) s = execDutEvent e x s := rfl

theorem exec_planTimeout (e x s) : exec (.planTimeout e x) s = execPlanTimeout e x s := rfl

theorem exec_staleRetry (e x s) : exec (.staleRetry e x) s = execStaleRetry e x s := rfl

theorem exec_planTestEnd (e x s) : exec (.planTestEnd e x) s = execPlanTestEnd e x s := rfl

theorem exec_reflEvent (e x s) : exec (.reflEvent e x) s = execReflEvent e x s := rfl

theorem exec_datalogRecord (e x src s) : exec (.datalogRecord e x src) s = execDatalogRecord e x src s := rfl

theorem exec_lost (e x s) : exec (.lost e x) s = execLost e x s := rfl

theorem exec_hrgResRdWrite (e x v s) : exec (.hrgResRdWrite e x v) s = execHrgResRdWrite e x v s := rfl

theorem exec_netlistBuild (e x s) : exec (.netlistBuild e x) s = execNetlistBuild e x s := rfl

theorem exec_netlistAnalysis (e x s) : exec (.netlistAnalysis e x) s = execNetlistAnalysis e x s := rfl

/-! ### Dispatch, completion and the watchdog (R272–R279) -/

theorem isSafe_raiseF (s : State) (f : Fld) (i cause : Nat) : (s.raiseF f i cause).isSafe = true := State.enterSafe_isSafe _ _

section
variable {e : Nat} {s u : State} (hu : u = s.elapse e)
include hu

theorem exec_dispatch_of_push {i : SafItem} {c : Nat} (hbest : u.safBest = some i)
    (hcore : u.safCore (u.flowLevel (flowOf i.w)) none = some c) : exec (.dispatch e none .clean) s = .next (u.safGive i c) := by
  simp [exec_dispatch, execDispatch, ← hu, State.yielded, hbest, hcore]

theorem exec_dispatch_of_uncorrectable {i : SafItem} {y : Option Core} (hbest : (u.yielded (y.map (fun c => c.val))).safBest = some i) :
    exec (.dispatch e y .uncorrectable) s = .next ((u.yielded (y.map (fun c => c.val))).safUncorr i) := by
  simp only [exec_dispatch, execDispatch, ← hu, hbest]

theorem exec_dispatch_of_yield {i : SafItem} {c : Core} {d : Nat} {v : State}
    (hv : v = u.setSaf { u.saf with given := Tab.set 0 u.saf.given c.val u.now }) (hbest : v.safBest = some i)
    (hcore : v.safCore (v.flowLevel (flowOf i.w)) (some c.val) = some d) : exec (.dispatch e (some c) .clean) s = .next (v.safGive i d) := by
  have hyield : u.yielded ((some c : Option Core).map (fun c => c.val)) = v := hv.symm
  simp only [exec_dispatch, execDispatch, ← hu, hyield, hbest]
  simp [hcore]

theorem exec_itemComplete_of_clean {c : Core} {st : Fin 6} {nrc : Byte} {v : Word32} {i : SafItem} (hrun : u.running? c.val = some i)
    (hidle : u.uds.any (fun p => p.2.runs i.id) = false) : exec (.itemComplete e c st nrc v .clean) s =
      .next ((if i.w.src = 4 then u.logUser i.w else u).safEnd c.val i (resultWord st.val nrc.toNat v.toNat)) := by
  simp only [exec_itemComplete, execItemComplete, ← hu, hrun, hidle]
  simp

theorem exec_itemComplete_of_uncorrectable {c : Core} {st : Fin 6} {nrc : Byte} {v : Word32} {i : SafItem} (hrun : u.running? c.val = some i)
    (hidle : u.uds.any (fun p => p.2.runs i.id) = false) : exec (.itemComplete e c st nrc v .uncorrectable) s =
      .next (u.raiseF F.SVC_FAULT_STAT.FW_UNCORR 0 6) := by
  simp only [exec_itemComplete, execItemComplete, ← hu, hrun, hidle]
  rfl

theorem exec_watchdog_of_hung {c : Core} (hrun : (u.running? c.val).isSome = true)
    (hlong : u.reached (wrap64 (Tab.get 0 u.saf.given c.val + us 100)) = true) : exec (.watchdog e c) s =
      .next (((u.set F.SVC_CORE_STAT.WDOG c.val (min 255 (u.get F.SVC_CORE_STAT.WDOG c.val + 1))).safCoreReset c.val).raiseU
        11 F.SVC_FAULT_STAT.WDOG 0) := by
  simp [exec_watchdog, execWatchdog, ← hu, hrun, hlong]

end

/-- Settles O22: dispatch with and without a yield or an error, completions, and the watchdog's reset. -/
theorem saffronComplete : Obligations.SaffronComplete := by
  intro e s u hu
  refine ⟨?push, ?uncorrectable, ?yield, ?complete, ?log, ?firmware, ?hung⟩
  case push => exact fun i c hbest hcore => exec_dispatch_of_push hu hbest hcore
  case uncorrectable =>
    rintro i y v rfl hbest
    exact exec_dispatch_of_uncorrectable hu hbest
  case yield =>
    rintro i c y d v rfl hv hbest hcore
    exact exec_dispatch_of_yield hu hv hbest hcore
  case complete =>
    intro c st nrc v i hrun hidle hsrc
    rw [exec_itemComplete_of_clean hu hrun hidle, if_neg hsrc]
  case log =>
    intro c st nrc v i hrun hidle hsrc
    rw [exec_itemComplete_of_clean hu hrun hidle, if_pos hsrc]
  case firmware => exact fun c st nrc v i hrun hidle => ⟨_, exec_itemComplete_of_uncorrectable hu hrun hidle, isSafe_raiseF _ _ _ _⟩
  case hung => exact fun c hrun hlong => exec_watchdog_of_hung hu hrun hlong

/-! ### Enqueueing, delaying and pulling (R271–R277) -/

/-- An item that becomes eligible keeps its place and its work. -/
theorem Saf.items_wake (v : Saf) (f now : Nat) : (v.wake f now).items.map (fun i => i.w) = v.items.map (fun i => i.w) := by
  unfold Saf.wake
  split
  · rfl
  split
  · split
    · rfl
    · rw [List.map_map]
      refine List.map_congr_left fun j _ => ?_
      dsimp only [Function.comp_apply]
      split <;> rfl
  · rfl

/-- The registers of Saffron follow its queues, which stay. -/
theorem State.saf_showSaf (s : State) : s.showSaf.saf = s.saf := by
  unfold State.showSaf
  extract_lets v n s1
  rw [State.each_inv (fun t => t.saf) _ (fun t p => State.set_saf ..)]
  rfl

theorem State.items_safAdd (s : State) (w : WorkItem) :
    (s.safAdd w).saf.items.map (fun i => i.w) = s.saf.items.map (fun i => i.w) ++ [w] := by
  rw [State.safAdd, State.saf_showSaf, State.setSaf, Saf.items_wake, List.map_append]
  rfl

section
variable {e : Nat} {s u : State} (hu : u = s.elapse e)
include hu

theorem exec_workItemEnqueue_of_room {w : WorkItem} {d : Nat} (hroom : u.safRefuses (flowOf w) = none) :
    exec (.workItemEnqueue e w false d) s = .next (u.safAdd w) := by
  simp [exec_workItemEnqueue, execWorkItemEnqueue, ← hu, State.safEnqueue, hroom]

theorem exec_workItemEnqueue_of_full {w : WorkItem} {d : Nat} {b : Fld} (hfull : u.safRefuses (flowOf w) = some b) :
    exec (.workItemEnqueue e w false d) s = .next (u.safRefused (flowOf w) b) := by
  simp [exec_workItemEnqueue, execWorkItemEnqueue, ← hu, State.safEnqueue, hfull]

theorem exec_workItemEnqueue_of_delay {w : WorkItem} {d : Nat} :
    exec (.workItemEnqueue e w true d) s = .next (u.safDelay w (wrap64 d)) := by
  simp [exec_workItemEnqueue, execWorkItemEnqueue, ← hu]

theorem exec_safGet_of_pull {c : Core} (hpull : u.pulls c.val = true) (hnew : u.saf.waiting.contains c.val = false)
    (hidle : u.saf.serv.any (fun p => p.1 == c.val) = false) :
    exec (.safGet e c true) s = .next (u.setSaf { u.saf with waiting := u.saf.waiting ++ [c.val] }) := by
  simp only [exec_safGet, execSafGet, ← hu, hpull, hnew, hidle, Bool.not_false, Bool.and_true, if_true]

theorem exec_safGet_of_other {c : Core} : exec (.safGet e c false) s = .next { u with readData := 0 } := by
  rw [exec_safGet, execSafGet, ← hu]
  rfl

theorem exec_delayDue_of_one {i : SafItem} (hdelay : u.saf.delay = [i]) (hdue : dtReached u.safTick i.due = true)
    (hroom : u.safRefuses (flowOf i.w) = none) : exec (.delayDue e) s =
      .next (u.setSaf (Saf.wake { u.saf with delay := [], items := u.saf.items ++ [i] } (flowOf i.w) u.now)).showSaf := by
  simp [exec_delayDue, execDelayDue, ← hu, hdelay, State.dueItems, hdue, hroom]

end

/-- Settles O23: items enqueued, refused, delayed and due, and the cores that wait for one. -/
theorem workItemComplete : Obligations.WorkItemComplete := by
  intro e s u hu
  refine ⟨?added, ?refused, ?delayed, ?items, ?pull, ?other, ?due⟩
  case added => exact fun w d hroom => exec_workItemEnqueue_of_room hu hroom
  case refused => exact fun w d b hfull => exec_workItemEnqueue_of_full hu hfull
  case delayed => exact fun w d => exec_workItemEnqueue_of_delay hu
  case items => exact fun w d hroom => ⟨_, exec_workItemEnqueue_of_room hu hroom, u.items_safAdd w⟩
  case pull => exact fun c hpull hnew hidle => exec_safGet_of_pull hu hpull hnew hidle
  case other => exact fun c => exec_safGet_of_other hu
  case due => exact fun i hdelay hdue hroom => exec_delayDue_of_one hu hdelay hdue hroom

/-! ### Plan commands (R281, R282) -/

theorem State.planCmd_start {s : State} {x : Nat} (serial : Nat) (hcode : s.planCode x 1 = 1) :
    s.planCmd x 1 serial = (s.set F.SVC_PLAN_STAT.RESULT x 1).dutAsk x serial := by
  unfold State.planCmd
  rw [hcode]
  rfl

theorem State.planCmd_stop {s : State} {x : Nat} (serial : Nat) (hcode : s.planCode x 2 = 1) :
    s.planCmd x 2 serial = (s.set F.SVC_PLAN_STAT.RESULT x 1).planStop x := by
  unfold State.planCmd
  rw [hcode]
  rfl

theorem State.planCmd_abort {s : State} {x : Nat} (serial : Nat) (hcode : s.planCode x 3 = 1) :
    s.planCmd x 3 serial = (s.set F.SVC_PLAN_STAT.RESULT x 1).planAbort x := by
  unfold State.planCmd
  rw [hcode]
  rfl

theorem State.planCmd_of_refused {s : State} {x op r : Nat} (serial : Nat) (hcode : s.planCode x op = r) (hr : r ≠ 1) :
    s.planCmd x op serial = s.set F.SVC_PLAN_STAT.RESULT x r := by
  simp [State.planCmd, hcode, hr]

theorem State.plan_set (s : State) (f : Fld) (i v x : Nat) : (s.set f i v).plan x = s.plan x := by
  rw [State.plan, State.set_plans, State.plan]

@[simp] theorem State.plan_setPlan (s : State) (x : Nat) (p : Plan) : (s.setPlan x p).plan x = p := Tab.get_set_self ..

@[simp] theorem State.get_setPlan (s : State) (x : Nat) (p : Plan) (g : Fld) (j : Nat) : (s.setPlan x p).get g j = s.get g j := State.get_mk ..

theorem State.dutAsk_of_free {s : State} {x : Nat} (serial : Nat) (hfree : s.get F.MRD_REFL_STAT.STATE x ≠ 2) :
    s.dutAsk x serial = s.dutStart x serial := if_neg hfree

theorem State.dutAsk_of_reflecting {s : State} {x : Nat} (serial : Nat) (hrefl : s.get F.MRD_REFL_STAT.STATE x = 2) :
    s.dutAsk x serial = (s.setPlan x { s.plan x with dutPend := some serial }).set F.SVC_PLAN_STAT.STATE x 1 := if_pos hrefl

theorem State.planStop_of_inDut {s : State} {x : Nat} (hin : (s.plan x).inDut = true) :
    s.planStop x = (s.setPlan x { s.plan x with stopAfter := true }).set F.SVC_PLAN_STAT.STATE x 4 := if_pos hin

theorem State.planStop_of_idle {s : State} {x : Nat} (hidle : (s.plan x).inDut = false) :
    s.planStop x = (s.setPlan x { s.plan x with dutPend := none }).set F.SVC_PLAN_STAT.STATE x 0 := if_neg (by simp [hidle])

theorem State.planAbort_of_armed {s : State} {x : Nat} (harmed : (s.plan x).armed = true) : s.planAbort x =
    ((s.setPlan x { s.plan x with stopAfter := true, abortDut := true }).set F.SVC_PLAN_STAT.STATE x 4).sendAbort x := if_pos harmed

/-- What an accepted command that only changes the plan's state leaves in SVC_PLAN_STAT. -/
theorem State.planStat_changed (s : State) (x st : Nat) (p : Plan) (hst : st < 8) :
    (((s.set F.SVC_PLAN_STAT.RESULT x 1).setPlan x p).set F.SVC_PLAN_STAT.STATE x st).get F.SVC_PLAN_STAT.RESULT x = 1 ∧
    (((s.set F.SVC_PLAN_STAT.RESULT x 1).setPlan x p).set F.SVC_PLAN_STAT.STATE x st).get F.SVC_PLAN_STAT.STATE x = st ∧
    (((s.set F.SVC_PLAN_STAT.RESULT x 1).setPlan x p).set F.SVC_PLAN_STAT.STATE x st).plan x = p := by
  refine ⟨?_, ?_, ?_⟩
  · rw [State.get_set_fld _ _ _ _ _ _ (by decide), State.get_setPlan, State.get_set_self]
    rfl
  · rw [State.get_set_self]
    exact Nat.mod_eq_of_lt hst
  · rw [State.plan_set, State.plan_setPlan]

section
variable {e : Nat} {s u : State} (hu : u = s.elapse e) {x : Site}
include hu

theorem exec_planStart_eq : exec (.planStart e x) s = .next (u.planCmd x.val 1 (u.get F.SVC_PLAN_SERIAL.SERIAL x.val)) := by
  simp [exec_planStart, execPlanStart, ← hu, State.writePlanCmd]

theorem exec_planStop_eq : exec (.planStop e x) s = .next (u.planCmd x.val 2 (u.get F.SVC_PLAN_SERIAL.SERIAL x.val)) := by
  simp [exec_planStop, execPlanStop, ← hu, State.writePlanCmd]

theorem exec_planAbort_eq : exec (.planAbort e x) s = .next (u.planCmd x.val 3 (u.get F.SVC_PLAN_SERIAL.SERIAL x.val)) := by
  simp [exec_planAbort, execPlanAbort, ← hu, State.writePlanCmd]

/-! ### Plans that wait, time out and retry (R281) -/

theorem exec_dutEvent_of_waiting {t : List Byte} (htable : u.svcTable x.val 1 = some t) (hevent : bitAt (leAt t 4 2) 0 = true)
    (hrun : u.running = true) (hwaits : u.get F.SVC_PLAN_STAT.STATE x.val = 1) (hnone : (u.plan x.val).dutPend = none)
    (hspace : u.planHeld x.val = false) : exec (.dutEvent e x) s = .next (u.dutAsk x.val (u.get F.SVC_PLAN_SERIAL.SERIAL x.val)) := by
  simp [exec_dutEvent, execDutEvent, ← hu, htable, hevent, hrun, hwaits, hnone, hspace]

theorem exec_planTimeout_of_due (harmed : (u.plan x.val).armed = true) (hdue : u.due (u.plan x.val).tmoAt = true) :
    exec (.planTimeout e x) s = .next ((u.setPlan x.val { u.plan x.val with tmoAt := none }).sendAbort x.val) := by
  simp [exec_planTimeout, execPlanTimeout, ← hu, harmed, hdue]

theorem exec_staleRetry_of_due {t : List Byte} (htable : u.svcTable x.val 1 = some t) (hin : (u.plan x.val).inDut = true)
    (hunarmed : (u.plan x.val).armed = false) (hdue : u.due (u.plan x.val).retryAt = true) :
    exec (.staleRetry e x) s = .next ((u.setPlan x.val { u.plan x.val with retryAt := none }).tryEntry x.val t) := by
  simp [exec_staleRetry, execStaleRetry, ← hu, htable, hin, hunarmed, hdue]

/-! ### The end of a plan's test (R281, R283) -/

theorem exec_planTestEnd_of_table {t : List Byte} (htable : u.svcTable x.val 1 = some t) :
    exec (.planTestEnd e x) s = .next (u.planLook x.val t) := by
  simp [exec_planTestEnd, execPlanTestEnd, ← hu, htable]

/-- A reflection that no earlier one holds up is asked for by the plan that waits for a DUT. -/
theorem exec_reflEvent_of_waiting {t : List Byte} (htable : u.svcTable x.val 1 = some t) (hevent : bitAt (leAt t 4 2) 2 = true)
    (hrun : u.running = true) (hwaits : u.get F.SVC_PLAN_STAT.STATE x.val = 1) (hnone : (u.plan x.val).dutPend = none)
    (hrested : (u.plan x.val).reflAt = none) (hallowed : u.reflRefused x.val false = false) : exec (.reflEvent e x) s =
      .next ((u.setPlan x.val { u.plan x.val with reflAt := some u.now }).requestRefl x.val) := by
  simp [exec_reflEvent, execReflEvent, ← hu, htable, hevent, hrun, hwaits, hnone, hrested, hallowed]

end

section
variable {s : State} {x : Nat} (t : List Byte) (harmed : (s.plan x).armed = true)
include harmed

theorem State.planLook_of_done (hdone : s.siteState x = 6) (hjudged : s.netPending x t = false) : s.planLook x t = s.judgeTest x t := by
  simp [State.planLook, harmed, hdone, hjudged]

theorem State.planLook_of_faulted (hfault : s.siteState x = 7) : s.planLook x t = (s.notRun x t 3).endDut x none true := by
  simp [State.planLook, harmed, hfault]

theorem State.planLook_of_idle (hidle : s.siteState x = 1) (hgoes : (s.plan x).abortDut = false) : s.planLook x t = s.planRefused x t 1 := by
  simp [State.planLook, harmed, hidle, hgoes]

end

/-- Settles O24: the plan's commands, its waits, and the ends of its tests. -/
theorem planComplete : Obligations.PlanComplete := by
  intro e s u hu
  refine ⟨?start, ?startLater, ?refused, ?stop, ?stopIdle, ?abort, ?event, ?timeout, ?retry, ?judged, ?faulted, ?idle, ?reflect⟩
  case start =>
    intro x hcode hfree
    rw [exec_planStart_eq hu, State.planCmd_start _ hcode]
    rw [State.dutAsk_of_free _ (by rwa [State.get_set_fld _ _ _ _ _ _ (by decide)])]
  case startLater =>
    intro x hcode hrefl
    refine ⟨_, exec_planStart_eq hu, ?_⟩
    rw [State.planCmd_start _ hcode]
    rw [State.dutAsk_of_reflecting _ (by rwa [State.get_set_fld _ _ _ _ _ _ (by decide)])]
    obtain ⟨hresult, hstate, hplan⟩ := u.planStat_changed x.val 1
      { (u.set F.SVC_PLAN_STAT.RESULT x.val 1).plan x.val with dutPend := some (u.get F.SVC_PLAN_SERIAL.SERIAL x.val) } (by decide)
    exact ⟨hresult, hstate, by rw [hplan]⟩
  case refused =>
    intro x r hcode hr
    rw [exec_planStart_eq hu, State.planCmd_of_refused _ hcode hr]
  case stop =>
    intro x hcode hin
    refine ⟨_, exec_planStop_eq hu, ?_⟩
    rw [State.planCmd_stop _ hcode]
    rw [State.planStop_of_inDut (by rwa [State.plan_set])]
    obtain ⟨hresult, hstate, hplan⟩ := u.planStat_changed x.val 4
      { (u.set F.SVC_PLAN_STAT.RESULT x.val 1).plan x.val with stopAfter := true } (by decide)
    exact ⟨hresult, hstate, by rw [hplan]⟩
  case stopIdle =>
    intro x hcode hidle
    refine ⟨_, exec_planStop_eq hu, ?_⟩
    rw [State.planCmd_stop _ hcode]
    rw [State.planStop_of_idle (by rwa [State.plan_set])]
    obtain ⟨hresult, hstate, -⟩ := u.planStat_changed x.val 0
      { (u.set F.SVC_PLAN_STAT.RESULT x.val 1).plan x.val with dutPend := none } (by decide)
    exact ⟨hresult, hstate⟩
  case abort =>
    rintro x v rfl hcode harmed
    rw [exec_planAbort_eq hu, State.planCmd_abort _ hcode]
    rw [State.planAbort_of_armed (by rwa [State.plan_set])]
  case event => exact fun x t htable hevent hrun hwaits hnone hspace => exec_dutEvent_of_waiting hu htable hevent hrun hwaits hnone hspace
  case timeout => exact fun x harmed hdue => exec_planTimeout_of_due hu harmed hdue
  case retry => exact fun x t htable hin hunarmed hdue => exec_staleRetry_of_due hu htable hin hunarmed hdue
  case judged =>
    intro x t htable harmed hdone hjudged
    rw [exec_planTestEnd_of_table hu htable, State.planLook_of_done t harmed hdone hjudged]
  case faulted =>
    intro x t htable harmed hfault
    rw [exec_planTestEnd_of_table hu htable, State.planLook_of_faulted t harmed hfault]
  case idle =>
    intro x t htable harmed hgoes hidle
    rw [exec_planTestEnd_of_table hu htable, State.planLook_of_idle t harmed hidle hgoes]
  case reflect =>
    exact fun x t htable hevent hrun hwaits hnone hrested hallowed => exec_reflEvent_of_waiting hu htable hevent hrun hwaits hnone hrested hallowed

/-! ### The datalog and the result ring (R285, R286, R350) -/

theorem State.resLost_of_none {s : State} {x : Nat} (hnone : (s.logOf x).dropped = 0) : s.resLost x = s := by
  simp [State.resLost, hnone]

theorem State.resLost_of_space {s : State} {x : Nat} (hlost : (s.logOf x).dropped ≠ 0) (hspace : s.resSpace x 1 = true) :
    s.resLost x = (if s.logSelects x 0x17 then
      s.resWrite x (s.logRecord x 0x17 s.now 0xFFFF 0 1 (toBytes 4 (s.logOf x).dropped)) else s).setLog x
        { s.logOf x with dropped := 0, lost := true } := by
  simp [State.resLost, hlost, hspace]

/-- The record as it is written, with LOST_BEFORE where one was dropped before it. -/
def recordOf (log : Datalog) (b : List Byte) : List Byte := if log.lost then setRecBit b 15 0 else b

theorem length_recordOf (log : Datalog) (b : List Byte) : (recordOf log b).length = b.length := by
  unfold recordOf
  split
  · exact List.length_set
  · rfl

theorem State.resPut_of_space {s : State} {x : Nat} {b : List Byte} (hnone : (s.logOf x).dropped = 0)
    (hspace : s.resSpace x (b.length / 32) = true) :
    s.resPut x b = (s.resWrite x (recordOf (s.logOf x) b)).setLog x { s.logOf x with lost := false } := by
  simp [State.resPut, State.resLost_of_none hnone, hnone, hspace, recordOf]

@[simp] theorem State.logOf_setLog (s : State) (x : Nat) (v : Datalog) : (s.setLog x v).logOf x = v := Tab.get_set_self ..

@[simp] theorem State.get_setLog (s : State) (x : Nat) (v : Datalog) (g : Fld) (j : Nat) : (s.setLog x v).get g j = s.get g j := State.get_mk ..

theorem State.resSpace_setLog (s : State) (x : Nat) (v : Datalog) (n : Nat) : (s.setLog x v).resSpace x n = s.resSpace x n := rfl

theorem State.logOf_planPause (s : State) (x : Nat) : (s.planPause x).logOf x = s.logOf x := by
  unfold State.planPause
  dsimp only
  split
  · rw [State.logOf, State.set_logs, State.logOf]
  · rfl

theorem State.get_resWrite (s : State) (x : Nat) (b : List Byte) :
    (s.resWrite x b).get F.HRG_RES_WR.POS x = (s.get F.HRG_RES_WR.POS x + b.length / 32) % 2 ^ 32 := State.get_set_self ..

section
variable {e : Nat} {s u : State} (hu : u = s.elapse e) {x : Site}
include hu

theorem exec_datalogRecord_of_made {b : List Byte} {r : List (List Byte)} (hrun : u.running = true)
    (hmade : (u.logOf x.val).made = b :: r) : exec (.datalogRecord e x .made) s =
      .next (((u.setLog x.val { u.logOf x.val with made := r }).resPut x.val b).planPause x.val) := by
  simp [exec_datalogRecord, execDatalogRecord, ← hu, hrun, State.putMade, hmade]

theorem exec_lost_of_running (hrun : u.running = true) : exec (.lost e x) s = .next ((u.resLost x.val).planPause x.val) := by
  simp [exec_lost, execLost, ← hu, hrun]

theorem exec_hrgResRdWrite_eq {v : Word32} : exec (.hrgResRdWrite e x v) s = .next (u.writeResRd x.val v.toNat) := by
  rw [exec_hrgResRdWrite, execHrgResRdWrite, hu]

/-! ### The netlist sweep (R294–R296) -/

theorem exec_netlistBuild_of_rest {t : List Byte} (hrun : u.running = true) (hrest : u.siteState x.val = 1 ∨ u.siteState x.val = 6)
    (htable : u.svcTable x.val 7 = some t) : exec (.netlistBuild e x) s = .next (u.netBuild x.val t) := by
  simp [exec_netlistBuild, execNetlistBuild, ← hu, hrun, hrest, State.netRebuild, htable]

theorem exec_netlistAnalysis_of_done {t n : List Byte} (htable : u.svcTable x.val 1 = some t) (hnet : u.svcTable x.val 7 = some n)
    (harmed : (u.plan x.val).armed = true) (hdone : u.siteState x.val = 6) (hpending : u.netPending x.val t = true) :
    exec (.netlistAnalysis e x) s = .next (u.netAnalyse x.val n) := by
  simp [exec_netlistAnalysis, execNetlistAnalysis, ← hu, htable, hnet, harmed, hdone, hpending]

end

/-- Settles O25: records written and dropped, the host's read position, and the sweep built and judged. -/
theorem datalogComplete : Obligations.DatalogComplete := by
  intro e s u hu
  refine ⟨?record, ?written, ?quiet, ?told, ?read, ?beyond, ?built, ?analysed⟩
  case record => exact fun x b r hrun hmade => exec_datalogRecord_of_made hu hrun hmade
  case written =>
    intro x b r hrun hmade hnone hspace
    refine ⟨_, exec_datalogRecord_of_made hu hrun hmade, ?_⟩
    rw [State.resPut_of_space (by rw [State.logOf_setLog]; exact hnone) (by rwa [State.resSpace_setLog])]
    refine ⟨?_, ?_⟩
    · rw [Keeps.get (State.planPause_keeps _ (Within.ne (by decide)) (Keeps.refl _ _)), State.get_setLog, State.get_resWrite,
        length_recordOf, State.get_setLog]
    · rw [State.logOf_planPause, State.logOf_setLog, State.logOf_setLog]
  case quiet =>
    intro x hrun hlost hspace hskip
    rw [exec_lost_of_running hu hrun, State.resLost_of_space hlost hspace, if_neg (by simp [hskip])]
  case told =>
    intro x hrun hlost hspace hselected
    rw [exec_lost_of_running hu hrun, State.resLost_of_space hlost hspace, if_pos hselected]
  case read =>
    intro x v hok
    rw [exec_hrgResRdWrite_eq hu, State.writeResRd, if_pos hok]
  case beyond =>
    intro x v hno
    rw [exec_hrgResRdWrite_eq hu, State.writeResRd, if_neg (by simp [hno])]
  case built => exact fun x t hrun hrest htable => exec_netlistBuild_of_rest hu hrun hrest htable
  case analysed =>
    exact fun x t n htable hnet harmed hdone hpending => exec_netlistAnalysis_of_done hu htable hnet harmed hdone hpending

end Sys2Proof.Machine
end

section
/-! The UDS client: how jobs begin, go on, are answered and time out; and the statement about it (R287–R293). -/

namespace Sys2Proof.Machine

/-! ### Which meaning the dispatch calls -/

theorem exec_udsRequest (e c sof eof s) : exec (.udsRequest e c sof eof) s = execUdsRequest e c sof eof s := rfl

theorem exec_udsSession (e c sof eof s) : exec (.udsSession e c sof eof) s = execUdsSession e c sof eof s := rfl

theorem exec_ecuReset (e c sof eof s) : exec (.ecuReset e c sof eof) s = execEcuReset e c sof eof s := rfl

theorem exec_security (e c ecc sof eof s) : exec (.security e c ecc sof eof) s = execSecurity e c ecc sof eof s := rfl

theorem exec_download (e c sof eof s) : exec (.download e c sof eof) s = execDownload e c sof eof s := rfl

theorem exec_udsResponse (e x u r sof eof s) : exec (.udsResponse e x u r sof eof) s = execUdsResponse e x u r sof eof s := rfl

theorem exec_p2Expiry (e x u s) : exec (.p2Expiry e x u) s = execP2Expiry e x u s := rfl

theorem exec_testerPresent (e x u s) : exec (.testerPresent e x u) s = execTesterPresent e x u s := rfl

theorem exec_isotpNTimeout (e c began s) : exec (.isotpNTimeout e c began) s = execIsotpNTimeout e c began s := rfl

theorem exec_keyReply (e s) : exec (.keyReply e) s = execKeyReply e s := rfl

theorem exec_keyTimeout (e x u s) : exec (.keyTimeout e x u) s = execKeyTimeout e x u s := rfl

/-! ### Beginning a job (R289) -/

section
variable {s : State} {c op k sof eof : Nat} {i : SafItem} {j : UdsJob} (hptr : s.ptrOk (jobPtr i) 64 = true)
  (hecc : s.eccBad (memPtr (jobPtr i)).2 (memPtr (jobPtr i)).1 64 = false) (hj : j = s.readJob c i) (hop : j.op = op)
include hptr hecc hj hop

theorem State.jobBegin_of_ok (hok : s.jobOk i k j = true) (hload : op ≠ 4) :
    s.jobBegin c op i k sof eof = s.jobSend k j (s.firstMessage i j) sof eof := by
  subst hj
  simp [State.jobBegin, hptr, hecc, hop, hok, hload]

theorem State.jobBegin_of_invalid (hbad : s.jobOk i k j = false) : s.jobBegin c op i k sof eof = s.jobEnd k j 3 0 0 none := by
  subst hj
  simp [State.jobBegin, hptr, hecc, hop, hbad]

theorem State.jobBegin_of_download (hok : s.jobOk i k j = true) (hload : op = 4) (hregion : s.regionOk (s.regionStart j) = true) :
    s.jobBegin c op i k sof eof = s.jobSend k (s.regionStart j) (s.loadMessage (s.regionStart j)) sof eof := by
  have hfirst : s.firstMessage i (s.regionStart j) = s.loadMessage (s.regionStart j) := by
    have hkind : (s.regionStart j).op = 4 := hop.trans hload
    simp [State.firstMessage, hkind]
  subst hj
  subst hload
  simp [State.jobBegin, hptr, hecc, hop, hok, hregion, hfirst]

end

theorem State.firstMessage_request {s : State} {i : SafItem} {j : UdsJob} (hop : j.op = 1) :
    s.firstMessage i j = s.ptrBytes j.reqAddr (s.requestOf i) := by
  simp [State.firstMessage, hop]

theorem State.firstMessage_session {s : State} {i : SafItem} {j : UdsJob} (hop : j.op = 2) :
    s.firstMessage i j = toBytes 1 0x10 ++ toBytes 1 j.param := by
  simp [State.firstMessage, hop]

theorem State.firstMessage_security {s : State} {i : SafItem} {j : UdsJob} (hop : j.op = 3) :
    s.firstMessage i j = toBytes 1 0x27 ++ toBytes 1 j.param := by
  simp [State.firstMessage, hop]

theorem State.firstMessage_reset {s : State} {i : SafItem} {j : UdsJob} (hop : j.op = 5) :
    s.firstMessage i j = toBytes 1 0x11 ++ toBytes 1 j.param := by
  simp [State.firstMessage, hop]

/-- A core's row of an operation begins the job of its connection, whose request has gone out. -/
theorem State.udsRow_of_free {s : State} {c op sof eof k : Nat} {i : SafItem} (hitem : s.udsItem c = some (i, k))
    (hfree : (s.conn k).job = none) (hsof : s.reached sof = true) (heof : s.reached eof = true) :
    s.udsRow c op sof eof = s.jobBegin c op i k sof eof := by
  simp [State.udsRow, hitem, hfree, hsof, heof]

/-! ### Keys (R290–R292) -/

/-- No job asks the host for a key: nothing is posted. -/
theorem State.keyPost_of_none {s : State} (hnone : s.keyQ = []) : s.keyPost = s := by
  simp [State.keyPost, hnone]

/-- A level whose key the device computes by HMAC from a slot that holds such a key. -/
theorem State.secCompute_of_hmac {s : State} {k sof eof : Nat} {j : UdsJob} {d : List Byte} (hentry : s.secEntry (k / 64) j.param = some d)
    (hkind : leAt d 1 1 = 1) (hslot : s.slotKind (k / 64) (leAt d 2 1) = 1) : s.secCompute k j .clean sof eof =
      s.jobSend k { j with stage := 3 } (toBytes 1 0x27 ++ toBytes 1 (j.param + 1) ++
        (Config.hmacSha256 (Tab.get [] s.keys (8 * (k / 64) + leAt d 2 1)) (j.seed ++ (d.drop 8).take (leAt d 4 1))).take (leAt d 3 1))
        sof eof := by
  simp [State.secCompute, hentry, hkind, hslot, State.secKey]

theorem State.keyQ_jobSend (s : State) (k sof eof : Nat) (j : UdsJob) (msg : List Byte) : (s.jobSend k j msg sof eof).keyQ = s.keyQ := rfl

section
variable {e : Nat} {s u : State} (hu : u = s.elapse e)
include hu

theorem exec_udsRequest_eq {c : Core} {a b : Word64} : exec (.udsRequest e c a b) s = .next (u.udsRow c.val 1 a.toNat b.toNat) := by
  rw [exec_udsRequest, execUdsRequest, hu]

theorem exec_udsSession_eq {c : Core} {a b : Word64} : exec (.udsSession e c a b) s = .next (u.udsRow c.val 2 a.toNat b.toNat) := by
  rw [exec_udsSession, execUdsSession, hu]

theorem exec_ecuReset_eq {c : Core} {a b : Word64} : exec (.ecuReset e c a b) s = .next (u.udsRow c.val 5 a.toNat b.toNat) := by
  rw [exec_ecuReset, execEcuReset, hu]

theorem exec_security_of_free {c : Core} {ecc : Ecc} {a b : Word64} {i : SafItem} {k : Nat} (hitem : u.udsItem c.val = some (i, k))
    (hfree : (u.conn k).job = none) (ha : u.reached a.toNat = true) (hb : u.reached b.toNat = true) :
    exec (.security e c ecc a b) s = .next (u.jobBegin c.val 3 i k a.toNat b.toNat) := by
  simp [exec_security, execSecurity, ← hu, hitem, hfree, ha, hb]

theorem exec_security_of_open {c : Core} {ecc : Ecc} {a b : Word64} {i : SafItem} {k : Nat} {j : UdsJob}
    (hitem : u.udsItem c.val = some (i, k)) (hjob : (u.conn k).job = some j) (ha : u.reached a.toNat = true)
    (hb : u.reached b.toNat = true) : exec (.security e c ecc a b) s = .next (u.secGo k j ecc a.toNat b.toNat) := by
  simp [exec_security, execSecurity, ← hu, hitem, hjob, ha, hb]

theorem exec_download_of_free {c : Core} {a b : Word64} {i : SafItem} {k : Nat} (hitem : u.udsItem c.val = some (i, k))
    (hfree : (u.conn k).job = none) (ha : u.reached a.toNat = true) (hb : u.reached b.toNat = true) :
    exec (.download e c a b) s = .next (u.jobBegin c.val 4 i k a.toNat b.toNat) := by
  simp [exec_download, execDownload, ← hu, hitem, hfree, ha, hb]

theorem exec_download_of_open {c : Core} {a b : Word64} {i : SafItem} {k : Nat} {j : UdsJob} (hitem : u.udsItem c.val = some (i, k))
    (hjob : (u.conn k).job = some j) (ha : u.reached a.toNat = true) (hb : u.reached b.toNat = true) :
    exec (.download e c a b) s = .next (u.loadGo k j a.toNat b.toNat) := by
  simp [exec_download, execDownload, ← hu, hitem, hjob, ha, hb]

/-! ### Responses and waits (R288, R289) -/

omit hu in
/-- The receive ring is a register; the connections stay. -/
theorem State.conn_connConsume (k n : Nat) : (u.connConsume k).conn n = u.conn n := by
  rw [State.connConsume, State.conn, State.set_uds, State.conn]

theorem exec_udsResponse_of_job {x : Site} {n : Fin 64} {r : UdsIn} {p q : Word64} {k : Nat} {j : UdsJob} (hk : k = connKey x.val n.val)
    (hconn : u.hasConn x.val n.val = true) (hq : u.reached q.toNat = true) (hrun : u.running = true) (hjob : (u.conn k).job = some j)
    (hmeets : j.meets p.toNat = true) : exec (.udsResponse e x n r p q) s = .next ((u.connConsume k).jobInput k j r q.toNat) := by
  subst hk
  simp [exec_udsResponse, execUdsResponse, ← hu, hconn, hq, hrun, State.conn_connConsume, hjob, hmeets]

theorem exec_udsResponse_of_none {x : Site} {n : Fin 64} {r : UdsIn} {p q : Word64} {k : Nat} (hk : k = connKey x.val n.val)
    (hconn : u.hasConn x.val n.val = true) (hq : u.reached q.toNat = true) (hrun : u.running = true) (hnone : (u.conn k).job = none) :
    exec (.udsResponse e x n r p q) s = .next ((u.connConsume k).setConn k
      { (u.connConsume k).conn k with discarded := satAdd 32 ((u.connConsume k).conn k).discarded 1 }) := by
  subst hk
  simp [exec_udsResponse, execUdsResponse, ← hu, hconn, hq, hrun, State.conn_connConsume, hnone]

theorem exec_p2Expiry_of_due {x : Site} {n : Fin 64} {j : UdsJob} {k : Nat} (hk : k = connKey x.val n.val)
    (hjob : (u.conn k).job = some j) (hout : j.out = true) (hdue : u.reached (wrap64 (j.sent + j.wait)) = true) :
    exec (.p2Expiry e x n) s = .next (if udsSuppress j.req = true ∧ j.count = 0 then u.jobEnd k j 0 0 0 none
      else u.jobEnd k j 2 0 (if j.op = 4 then j.acked else 0) none) := by
  subst hk
  simp only [exec_p2Expiry, execP2Expiry, ← hu, hjob, hout, hdue, Bool.and_self, if_true, Bool.and_eq_true, decide_eq_true_eq]
  split <;> rfl

theorem exec_testerPresent_of_due {x : Site} {n : Fin 64} {d k : Nat} (hk : k = connKey x.val n.val)
    (hat : (u.conn k).presentAt = some d) (hdue : u.reached d = true) (hrun : u.running = true) : exec (.testerPresent e x n) s =
      .next ((u.setConn k { u.conn k with presentAt := some (wrap64 (d + msec (u.connFld k 0x16 2))) }).emit (.uds x.val n.val [0x3E, 0x80])) := by
  subst hk
  have hmsg : toBytes 2 0x803E = [0x3E, 0x80] := by decide
  simp [exec_testerPresent, execTesterPresent, ← hu, hat, hdue, hrun, hmsg]

theorem exec_isotpNTimeout_of_job {c : Core} {b : Word64} {i : SafItem} {k : Nat} {j : UdsJob} (hitem : u.udsItem c.val = some (i, k))
    (hcan : u.connFld k 1 1 ≠ 3) (hdue : u.reached (wrap64 (b.toNat + msec (u.connFld k 0x18 2))) = true)
    (hjob : (u.conn k).job = some j) : exec (.isotpNTimeout e c b) s =
      .next (u.jobEnd k j 2 0 (if j.op = 4 then j.acked else 0) none) := by
  simp [exec_isotpNTimeout, execIsotpNTimeout, ← hu, hitem, hcan, hdue, hjob]

/-! ### Keys from the host (R292) -/

theorem exec_keyReply_of_fit {k : Nat} {r : List Nat} {j : UdsJob} (hfull : u.flag F.MBX_STAT.FULL 1 = true) (hq : u.keyQ = k :: r)
    (hjob : (u.conn k).job = some j) (hfits : u.replyFits j = true) : exec (.keyReply e) s =
      .next (State.keyPost { (u.mbxEmpty 1).setConn k { (u.mbxEmpty 1).conn k with
        job := some { j with stage := 3, key := u.replyKey, keyNo := none, keyAt := none } } with keyQ := r }) := by
  simp [exec_keyReply, execKeyReply, ← hu, hfull, hq, hjob, hfits]

theorem exec_keyReply_of_none (hfull : u.flag F.MBX_STAT.FULL 1 = true) (hq : u.keyQ = []) :
    exec (.keyReply e) s = .next (u.mbxEmpty 1) := by
  simp [exec_keyReply, execKeyReply, ← hu, hfull, hq]

theorem exec_keyTimeout_of_due {x : Site} {n : Fin 64} {j : UdsJob} {k : Nat} (hk : k = connKey x.val n.val)
    (hjob : (u.conn k).job = some j) (hstage : j.stage = 2) (hdue : u.due j.keyAt = true) :
    exec (.keyTimeout e x n) s = .next (u.jobEnd k j 2 0 0 none).keyPost := by
  subst hk
  simp [exec_keyTimeout, execKeyTimeout, ← hu, hjob, hstage, hdue]

end

/-- Settles O26: jobs opened, gone on, answered, timed out and ended, and the keys of the host. -/
theorem udsComplete : Obligations.UdsComplete := by
  intro e s u hu
  refine ⟨?request, ?session, ?ecuReset, ?invalid, ?seed, ?key, ?compute, ?load, ?loadNext, ?response, ?discarded, ?expiry, ?suppressed,
    ?present, ?isotp, ?reply, ?stray, ?keyTimeout⟩
  case request =>
    intro c a b i k j hitem hfree ha hb hptr hecc hj hop hok
    rw [exec_udsRequest_eq hu, State.udsRow_of_free hitem hfree ha hb, State.jobBegin_of_ok hptr hecc hj hop hok (by decide),
      State.firstMessage_request hop]
  case session =>
    intro c a b i k j hitem hfree ha hb hptr hecc hj hop hok
    rw [exec_udsSession_eq hu, State.udsRow_of_free hitem hfree ha hb, State.jobBegin_of_ok hptr hecc hj hop hok (by decide),
      State.firstMessage_session hop]
  case ecuReset =>
    intro c a b i k j hitem hfree ha hb hptr hecc hj hop hok
    rw [exec_ecuReset_eq hu, State.udsRow_of_free hitem hfree ha hb, State.jobBegin_of_ok hptr hecc hj hop hok (by decide),
      State.firstMessage_reset hop]
  case invalid =>
    intro c a b i k j hitem hfree hptr hecc hj ha hb hop hbad
    rw [exec_udsRequest_eq hu, State.udsRow_of_free hitem hfree ha hb, State.jobBegin_of_invalid hptr hecc hj hop hbad]
  case seed =>
    intro c a b i k j hitem hfree ha hb hptr hecc hj hop hok
    rw [exec_security_of_free hu hitem hfree ha hb, State.jobBegin_of_ok hptr hecc hj hop hok (by decide), State.firstMessage_security hop]
  case key =>
    intro c ecc a b i k j hitem hjob ha hb hop hidle hstage
    rw [exec_security_of_open hu hitem hjob ha hb]
    simp [State.secGo, hop, hidle, hstage]
  case compute =>
    intro c a b i k j d hitem hjob ha hb hop hidle hstage hentry hkind hslot hnone
    rw [exec_security_of_open hu hitem hjob ha hb, ← State.secCompute_of_hmac hentry hkind hslot]
    have hposted : (u.secCompute k j .clean a.toNat b.toNat).keyPost = u.secCompute k j .clean a.toNat b.toNat := by
      rw [State.secCompute_of_hmac hentry hkind hslot]
      exact State.keyPost_of_none (by rw [State.keyQ_jobSend, hnone])
    simp [State.secGo, hop, hidle, hstage, hposted]
  case load =>
    rintro c a b i k j hitem hfree ha hb hptr hecc hop hok rfl hregion
    rw [exec_download_of_free hu hitem hfree ha hb, State.jobBegin_of_download hptr hecc rfl hop hok rfl hregion]
  case loadNext =>
    intro c a b i k j hitem hjob ha hb hop hidle hregion
    rw [exec_download_of_open hu hitem hjob ha hb]
    simp [State.loadGo, hop, hidle, hregion]
  case response =>
    rintro x n b r p q k v j rfl hk hconn hq hrun rfl hjob hmeets
    exact exec_udsResponse_of_job hu hk hconn hq hrun hjob hmeets
  case discarded =>
    rintro x n r p q k v hk hconn hq hrun rfl hnone
    exact exec_udsResponse_of_none hu hk hconn hq hrun hnone
  case expiry =>
    intro x n j k hk hjob hout hdue hspoken hop
    rw [exec_p2Expiry_of_due hu hk hjob hout hdue, if_neg (by simp [hspoken]), if_neg hop]
  case suppressed =>
    intro x n j k hk hjob hout hdue hsuppressed hcount
    rw [exec_p2Expiry_of_due hu hk hjob hout hdue, if_pos ⟨hsuppressed, hcount⟩]
  case present => exact fun x n d k hk hat hdue hrun => exec_testerPresent_of_due hu hk hat hdue hrun
  case isotp =>
    intro c b i k j hitem hcan hdue hjob hop
    rw [exec_isotpNTimeout_of_job hu hitem hcan hdue hjob, if_neg hop]
  case reply =>
    rintro k r j v hfull hq hjob hfits rfl
    exact exec_keyReply_of_fit hu hfull hq hjob hfits
  case stray => exact fun hfull hq => exec_keyReply_of_none hu hfull hq
  case keyTimeout => exact fun x n j k hk hjob hstage hdue => exec_keyTimeout_of_due hu hk hjob hstage hdue

end Sys2Proof.Machine
end

section
/-! The event fabric: firings of producers, of held channels and of broadcasts, the balls and the timers; and the statement about them
(R297–R308). -/

namespace Sys2Proof.Machine

/-! ### Which meaning the dispatch calls -/

theorem exec_eventChannelFiring (e p s) : exec (.eventChannelFiring e p) s = execEventChannelFiring e p s := rfl

theorem exec_heldFiringRelease (e c s) : exec (.heldFiringRelease e c) s = execHeldFiringRelease e c s := rfl

theorem exec_broadcastRelease (e c s) : exec (.broadcastRelease e c) s = execBroadcastRelease e c s := rfl

theorem exec_trigOutPulseEnd (e n s) : exec (.trigOutPulseEnd e n) s = execTrigOutPulseEnd e n s := rfl

theorem exec_trigInEdge (e n s) : exec (.trigInEdge e n) s = execTrigInEdge e n s := rfl

theorem exec_evfSwfire (e v s) : exec (.evfSwfire e v) s = execEvfSwfire e v s := rfl

theorem exec_evfTimerCfgWrite (e k v s) : exec (.evfTimerCfgWrite e k v) s = execEvfTimerCfgWrite e k v s := rfl

theorem exec_timerExpiry (e k s) : exec (.timerExpiry e k) s = execTimerExpiry e k s := rfl

theorem exec_timerStartFiring (e k s) : exec (.timerStartFiring e k) s = execTimerStartFiring e k s := rfl

/-! ### Firings (R297–R307) -/

/-- The pulse of a ball is over. -/
def State.pulseOver (s : State) (n : Nat) : State := { s with pins := { s.pins with trigUntil := Tab.set none s.pins.trigUntil n none } }

section
variable {e : Nat} {s u : State} (hu : u = s.elapse e)
include hu

theorem exec_eventChannelFiring_of_raised {p : Fin 1536} (hraised : u.evf.raised.contains p.val = true) :
    exec (.eventChannelFiring e p) s = .next ((u.setEvf { u.evf with raised := u.evf.raised.erase p.val }).each
      ((u.setEvf { u.evf with raised := u.evf.raised.erase p.val }).columns p.val) (fun s c => s.arriveAt c s.now false)) := by
  simp only [exec_eventChannelFiring, execEventChannelFiring, ← hu, hraised, if_true]

theorem exec_heldFiringRelease_of_due {c : EvCh} {r : Nat} {b : Bool} (hheld : Tab.get none u.evf.held c.val = some (r, b))
    (hdue : u.reached r = true) : exec (.heldFiringRelease e c) s =
      .next ((u.setEvf { u.evf with held := Tab.set none u.evf.held c.val none }).fireChannel c.val r true b) := by
  simp [exec_heldFiringRelease, execHeldFiringRelease, ← hu, hheld, hdue]

theorem exec_broadcastRelease_of_due {c : EvCh} {b : Nat × Nat} (hfound : u.evf.bcast.find? (fun b => b.1 == c.val && u.reached b.2) = some b) :
    exec (.broadcastRelease e c) s = .next ((u.setEvf { u.evf with bcast := u.evf.bcast.erase b }).arriveAt c.val b.2 true) := by
  simp only [exec_broadcastRelease, execBroadcastRelease, ← hu, hfound]

theorem exec_trigOutPulseEnd_of_due {n : Fin 16} {d : Nat} (hat : Tab.get none u.pins.trigUntil n.val = some d) (hdue : u.reached d = true) :
    exec (.trigOutPulseEnd e n) s = .next ((u.pulseOver n.val).showTrig n.val) := by
  simp [exec_trigOutPulseEnd, execTrigOutPulseEnd, ← hu, hat, State.due, hdue, State.pulseOver]

theorem exec_trigInEdge_eq {n : Fin 16} : exec (.trigInEdge e n) s = .next (u.fire (1344 + n.val)) := by
  rw [exec_trigInEdge, execTrigInEdge, hu]

theorem exec_evfSwfire_eq {v : Word32} : exec (.evfSwfire e v) s =
    .next (u.each ((List.range 16).filter (fun n => bitAt v.toNat n)) (fun s n => s.fire (1478 + n))) := by
  rw [exec_evfSwfire, execEvfSwfire, hu]
  rfl

end

/-- A ball whose pulse is over and which safe state does not force is low. -/
theorem State.pins_showTrig_low {s : State} {n : Nat} (hsafe : s.isSafe = false) (hover : Tab.get none s.pins.trigUntil n = none) :
    (s.showTrig n).pins = { s.pins with trigOut := clearBit s.pins.trigOut n } := by
  have hfree : s.trigForced n = false := by simp [State.trigForced, hsafe]
  simp [State.showTrig, hfree, hover]

/-! ### Timers (R308) -/

@[simp] theorem State.timer_setTimer (s : State) (k : Nat) (r : TimerRun) : (s.setTimer k r).timer k = r := Tab.get_set_self ..

@[simp] theorem State.get_setTimer (s : State) (k : Nat) (r : TimerRun) (g : Fld) (j : Nat) : (s.setTimer k r).get g j = s.get g j := State.get_mk ..

theorem State.timer_set (s : State) (f : Fld) (i v k : Nat) : (s.set f i v).timer k = s.timer k := by
  rw [State.timer, State.set_evf, State.timer]

/-- The setting of a timer that a write leaves. -/
theorem State.get_timerSetting (s : State) (k m c n : Nat) (hm : m < 8) (hc : c < 256) (hn : n < 2 ^ 32) :
    (((s.set F.EVF_TIMER_CFG.MODE k m).set F.EVF_TIMER_CFG.EVCH k c).set F.EVF_TIMER_CFG.COUNT k n).get F.EVF_TIMER_CFG.MODE k = m ∧
    (((s.set F.EVF_TIMER_CFG.MODE k m).set F.EVF_TIMER_CFG.EVCH k c).set F.EVF_TIMER_CFG.COUNT k n).get F.EVF_TIMER_CFG.EVCH k = c ∧
    (((s.set F.EVF_TIMER_CFG.MODE k m).set F.EVF_TIMER_CFG.EVCH k c).set F.EVF_TIMER_CFG.COUNT k n).get F.EVF_TIMER_CFG.COUNT k = n := by
  refine ⟨?_, ?_, ?_⟩
  · rw [State.get_set_fld _ _ _ _ _ _ (by decide), State.get_set_fld _ _ _ _ _ _ (by decide), State.get_set_self]
    exact Nat.mod_eq_of_lt hm
  · rw [State.get_set_fld _ _ _ _ _ _ (by decide), State.get_set_self]
    exact Nat.mod_eq_of_lt hc
  · rw [State.get_set_self]
    exact Nat.mod_eq_of_lt hn

section
variable {e : Nat} {s u : State} (hu : u = s.elapse e) {k : Fin 32}
include hu

theorem exec_evfTimerCfgWrite_eq {v : Word64} : exec (.evfTimerCfgWrite e k v) s = .next (u.writeTimer k.val v.toNat) := by
  rw [exec_evfTimerCfgWrite, execEvfTimerCfgWrite, hu]

theorem exec_timerExpiry_of_once {t : Nat} (hat : (u.timer k.val).target = some t)
    (hdue : u.reached (wrap64 (t + 2 ^ 64 - 8000)) = true) (hmode : u.timerMode k.val = 1) : exec (.timerExpiry e k) s =
      .next (((u.timerFire k.val).setTimer k.val {}).set F.EVF_TIMER_CFG.MODE k.val 0) := by
  simp only [exec_timerExpiry, execTimerExpiry, ← hu, hat, hdue, if_true, hmode]

theorem exec_timerExpiry_of_periodic {t : Nat} (hat : (u.timer k.val).target = some t)
    (hdue : u.reached (wrap64 (t + 2 ^ 64 - 8000)) = true) (hmode : u.timerMode k.val = 2) : exec (.timerExpiry e k) s =
      .next ((u.timerFire k.val).setTimer k.val { target := some (u.nextTarget k.val t) }) := by
  simp only [exec_timerExpiry, execTimerExpiry, ← hu, hat, hdue, if_true, hmode]

theorem exec_timerStartFiring_of_delay (hmode : u.timerMode k.val = 3) (hidle : (u.timer k.val).target = none) :
    exec (.timerStartFiring e k) s = .next (u.setTimer k.val
      { target := some (wrap64 (u.get F.EVF_CH_LAST.DT (u.get F.EVF_TIMER_CFG.EVCH k.val) + u.timerPeriod k.val)) }) := by
  simp [exec_timerStartFiring, execTimerStartFiring, ← hu, hmode, hidle]

theorem exec_timerStartFiring_of_overrun (hmode : u.timerMode k.val = 3) (hruns : (u.timer k.val).target.isSome = true) :
    exec (.timerStartFiring e k) s = .next (u.set F.EVF_TIMER_STAT.OVR k.val 1) := by
  simp [exec_timerStartFiring, execTimerStartFiring, ← hu, hmode, hruns]

theorem exec_timerStartFiring_of_counted (hmode : u.timerMode k.val = 4)
    (hlast : max 1 (u.get F.EVF_TIMER_CFG.COUNT k.val) ≤ (u.timer k.val).count + 1) :
    exec (.timerStartFiring e k) s = .next ((u.timerFire k.val).setTimer k.val {}) := by
  simp only [exec_timerStartFiring, execTimerStartFiring, ← hu, hmode, if_neg (not_lt.2 hlast)]

end

/-- Settles O27: firings of producers, channels and broadcasts, the balls, software and the timers. -/
theorem eventComplete : Obligations.EventComplete := by
  intro e s u hu
  refine ⟨?producer, ?held, ?broadcast, ?ball, ?edge, ?software, ?setting, ?once, ?periodic, ?delay, ?overrun, ?counted⟩
  case producer => exact fun p hraised => exec_eventChannelFiring_of_raised hu hraised
  case held => exact fun c r b hheld hdue => exec_heldFiringRelease_of_due hu hheld hdue
  case broadcast => exact fun c b hfound => exec_broadcastRelease_of_due hu hfound
  case ball =>
    intro n d hat hdue hsafe
    have hover : Tab.get none (u.pulseOver n.val).pins.trigUntil n.val = none := by simp [State.pulseOver]
    have hlow := State.pins_showTrig_low (s := u.pulseOver n.val) hsafe hover
    refine ⟨_, exec_trigOutPulseEnd_of_due hu hat hdue, ?_, ?_⟩
    · rw [hlow, hover]
    · rw [hlow]
      rfl
  case edge => exact fun n => exec_trigInEdge_eq hu
  case software => exact fun v => exec_evfSwfire_eq hu
  case setting =>
    intro k v
    obtain ⟨hmode, hevch, hcount⟩ := u.get_timerSetting k.val _ _ _ (bitsOf_lt v.toNat 0 3) (bitsOf_lt v.toNat 8 8) (bitsOf_lt v.toNat 16 32)
    refine ⟨_, exec_evfTimerCfgWrite_eq hu, ?_⟩
    beta_reduce
    unfold State.writeTimer
    extract_lets s1 m
    rw [State.get_setTimer, State.get_setTimer, State.get_setTimer, State.timer_setTimer]
    exact ⟨hmode, hevch, hcount, rfl⟩
  case once =>
    intro k t hat hdue hmode
    refine ⟨_, exec_timerExpiry_of_once hu hat hdue hmode, ?_, ?_⟩
    · rw [State.get_set_self]
      rfl
    · rw [State.timer_set, State.timer_setTimer]
  case periodic => exact fun k t hat hdue hmode => exec_timerExpiry_of_periodic hu hat hdue hmode
  case delay => exact fun k hmode hidle => exec_timerStartFiring_of_delay hu hmode hidle
  case overrun => exact fun k hmode hruns => exec_timerStartFiring_of_overrun hu hmode hruns
  case counted => exact fun k hmode hlast => exec_timerStartFiring_of_counted hu hmode hlast

end Sys2Proof.Machine
end

section
/-! The vehicle bus engines: postings and payloads, frames and their ends, gates, control, received frames, errors, LIN and MDIO; and the
statement about them (R249–R270). -/

namespace Sys2Proof.Machine

/-! ### Which meaning the dispatch calls -/

theorem exec_busTxPost (e en v s) : exec (.busTxPost e en v) s = execBusTxPost e en v s := rfl

theorem exec_payloadRead (e en k ecc s) : exec (.payloadRead e en k ecc) s = execPayloadRead e en k ecc s := rfl

theorem exec_frameStart (e en s) : exec (.frameStart e en) s = execFrameStart e en s := rfl

theorem exec_arbitrationLost (e en s) : exec (.arbitrationLost e en) s = execArbitrationLost e en s := rfl

theorem exec_frameExpired (e en s) : exec (.frameExpired e en) s = execFrameExpired e en s := rfl

theorem exec_txWriteBack (e en sof eof s) : exec (.txWriteBack e en sof eof) s = execTxWriteBack e en sof eof s := rfl

theorem exec_gateFiring (e en s) : exec (.gateFiring e en) s = execGateFiring e en s := rfl

theorem exec_busRunWrite (e en run s) : exec (.busRunWrite e en run) s = execBusRunWrite e en run s := rfl

theorem exec_busFlush (e en s) : exec (.busFlush e en) s = execBusFlush e en s := rfl

theorem exec_busRecover (e en s) : exec (.busRecover e en) s = execBusRecover e en s := rfl

theorem exec_busOffRecovery (e en s) : exec (.busOffRecovery e en) s = execBusOffRecovery e en s := rfl

theorem exec_phyResetWrite (e en held s) : exec (.phyResetWrite e en held) s = execPhyResetWrite e en held s := rfl

theorem exec_phyResetRelease (e en s) : exec (.phyResetRelease e en) s = execPhyResetRelease e en s := rfl

theorem exec_frameReceived (e en f tag s) : exec (.frameReceived e en f tag) s = execFrameReceived e en f tag s := rfl

theorem exec_busError (e en code inc s) : exec (.busError e en code inc) s = execBusError e en code inc s := rfl

theorem exec_linHeader (e en id s) : exec (.linHeader e en id) s = execLinHeader e en id s := rfl

theorem exec_linWakeUp (e en fell tag s) : exec (.linWakeUp e en fell tag) s = execLinWakeUp e en fell tag s := rfl

theorem exec_mdioCommand (e en v s) : exec (.mdioCommand e en v) s = execMdioCommand e en v s := rfl

theorem exec_mdioComplete (e data s) : exec (.mdioComplete e data) s = execMdioComplete e data s := rfl

/-! ### The state's operations on an engine -/

/-- An occurrence fires a producer of the fabric and changes nothing else. -/
theorem State.busEvent_rest (s : State) (en src : Nat) : s.busEvent en src = { s with evf := (s.busEvent en src).evf } := by
  unfold State.busEvent State.fire
  split
  · split <;> rfl
  · rfl

@[simp] theorem State.get_busEvent (s : State) (en src : Nat) (f : Fld) (i : Nat) : (s.busEvent en src).get f i = s.get f i := by
  rw [State.busEvent_rest, State.get_mk]

@[simp] theorem State.bus_busEvent (s : State) (en src n : Nat) : (s.busEvent en src).bus n = s.bus n := by
  rw [State.busEvent_rest, State.bus, State.bus]

@[simp] theorem State.out_busEvent (s : State) (en src : Nat) : (s.busEvent en src).out = s.out := by
  rw [State.busEvent_rest]

@[simp] theorem State.bus_set (s : State) (f : Fld) (i v n : Nat) : (s.set f i v).bus n = s.bus n := by
  rw [State.bus, State.set_buses, State.bus]

@[simp] theorem State.bus_emit (s : State) (o : Output) (n : Nat) : (s.emit o).bus n = s.bus n := by
  rw [State.bus, State.emit_buses, State.bus]

@[simp] theorem State.bus_drew (s : State) (n : Nat) : s.drew.bus n = s.bus n := by
  simp [State.drew, State.bus]

@[simp] theorem State.get_drew (s : State) (f : Fld) (i : Nat) : s.drew.get f i = s.get f i := State.get_mk ..

@[simp] theorem State.out_drew (s : State) : s.drew.out = s.out := by simp [State.drew]

@[simp] theorem State.bus_setTxq (s : State) (n : Nat) (q : List TxDesc) : (s.setTxq n q).bus n = { s.bus n with queue := q } := by
  simp [State.setTxq]

@[simp] theorem State.out_setTxq (s : State) (n : Nat) (q : List TxDesc) : (s.setTxq n q).out = s.out := by
  simp [State.setTxq]

theorem State.get_setTxq_fld (s : State) (n : Nat) (q : List TxDesc) (g : Fld) (j : Nat) (h : g.id ≠ F.BUS_STAT.TXQ.id) :
    (s.setTxq n q).get g j = s.get g j := by
  rw [State.setTxq, State.get_set_fld _ _ _ _ _ _ h, State.setBus_get]

/-! ### Postings and payloads (R258, R259) -/

section
variable {e : Nat} {s u : State} (hu : u = s.elapse e) {n : Engine}
include hu

theorem exec_busTxPost_eq {v : Word64} : exec (.busTxPost e n v) s = .next (u.hostPost n.val v.toNat) := by
  rw [exec_busTxPost, execBusTxPost, hu]

theorem exec_payloadRead_of_clean {k : Fin 2} {d : TxDesc} {c : Ecc} (hd : (u.bus n.val).queue[k.val]? = some d) (hnone : d.payload = none)
    (hecc : u.eccAt (bitAt (d.fld 8 8) 40) (bitsOf (d.fld 8 8) 0 40) (u.payloadLen n.val d) c = .clean)
    (hread : u.readable (bitAt (d.fld 8 8) 40) (bitsOf (d.fld 8 8) 0 40) (u.payloadLen n.val d) = true) : exec (.payloadRead e n k c) s =
      .next (u.setTxq n.val ((u.bus n.val).queue.set k.val
        { d with payload := some (u.bytesAt (bitAt (d.fld 8 8) 40) (bitsOf (d.fld 8 8) 0 40) (u.payloadLen n.val d)) })) := by
  simp [exec_payloadRead, execPayloadRead, ← hu, hd, hnone, hecc, State.eccRaise, hread]

theorem exec_payloadRead_of_uncorrectable {k : Fin 2} {d : TxDesc} {c : Ecc} (hd : (u.bus n.val).queue[k.val]? = some d)
    (hnone : d.payload = none)
    (hecc : u.eccAt (bitAt (d.fld 8 8) 40) (bitsOf (d.fld 8 8) 0 40) (u.payloadLen n.val d) c = .uncorrectable) :
    exec (.payloadRead e n k c) s = .next ((((u.eccRaise (bitAt (d.fld 8 8) 40) .uncorrectable).setTxq n.val
      ((u.bus n.val).queue.eraseIdx k.val)).finishTx n.val d 7 0 0).raiseC F.BUS_FAULT_STAT.PAYLOAD n.val) := by
  simp only [exec_payloadRead, execPayloadRead, ← hu, hd, hnone, hecc]
  rfl

end

theorem State.hostPost_of_posted {s : State} {n v : Nat} (hon : s.busOn n = true) (haddr : s.descAddrOk (bitsOf v 0 40) (bitAt v 40) = true)
    (hroom : s.txFull n = false) : s.hostPost n v =
      (s.postRaw n (bitsOf v 0 40) (bitAt v 40) (s.bytesAt (bitAt v 40) (bitsOf v 0 40) 32)).set F.BUS_TX_RES.RESULT n 1 := by
  simp [State.hostPost, hon, haddr, hroom]

theorem State.hostPost_of_full {s : State} {n v : Nat} (hon : s.busOn n = true) (haddr : s.descAddrOk (bitsOf v 0 40) (bitAt v 40) = true)
    (hfull : s.txFull n = true) : s.hostPost n v = s.set F.BUS_TX_RES.RESULT n 2 := by
  simp [State.hostPost, hon, haddr, hfull]

theorem State.hostPost_of_refused {s : State} {n v : Nat} (hno : s.busOn n = false ∨ s.descAddrOk (bitsOf v 0 40) (bitAt v 40) = false) :
    s.hostPost n v = s.set F.BUS_TX_RES.RESULT n 3 := by
  rcases hno with hoff | haddr
  · simp [State.hostPost, hoff]
  · simp [State.hostPost, haddr]

/-! ### Frames on the medium (R260–R262) -/

/-- The head of a queue as it starts. -/
def State.startedDesc (s : State) (d : TxDesc) : TxDesc :=
  { d with started := some s.now, late := d.late || d.retries != 0 || d.arbLost != 0 || s.startsLate d }

/-- A frame is on the medium. -/
def State.sending (s : State) (n : Nat) (d : TxDesc) (r : List TxDesc) : State :=
  (s.setTxq n (s.startedDesc d :: r)).set F.BUS_STAT.STATE n 2

theorem State.get_sending_fld (s : State) (n : Nat) (d : TxDesc) (r : List TxDesc) (g : Fld) (j : Nat) (hstate : g.id ≠ F.BUS_STAT.STATE.id)
    (htxq : g.id ≠ F.BUS_STAT.TXQ.id) : (s.sending n d r).get g j = s.get g j := by
  rw [State.sending, State.get_set_fld _ _ _ _ _ _ hstate, State.get_setTxq_fld _ _ _ _ _ htxq]

/-- The header of a CAN frame is its descriptor's. -/
theorem State.sentHdr_of_can {s : State} {n : Nat} {d : TxDesc} (hcan : s.proto n = 1) : s.sentHdr n d = d.hdr := by
  simp [State.sentHdr, hcan]

theorem State.esi_of_can {s : State} {n : Nat} (hcan : s.proto n = 1) : s.esi n = (s.get F.BUS_STAT.ERRSTATE n == 1) := by
  simp [State.esi, hcan]

section
variable {e : Nat} {s u : State} (hu : u = s.elapse e) {n : Engine} {d : TxDesc} {r : List TxDesc}
include hu

theorem exec_frameStart_of_can (hq : (u.bus n.val).queue = d :: r) (hmay : u.mayStart n.val d = true) (hcan : u.proto n.val = 1) :
    exec (.frameStart e n) s = .next (((u.sending n.val d r).drew.emit
      (.busFrame n.val d.hdr (u.get F.BUS_STAT.ERRSTATE n.val == 1) (d.payload.getD []))).busEvent n.val 3) := by
  have hproto : (u.sending n.val d r).proto n.val = 1 := by
    rw [State.proto, State.get_sending_fld _ _ _ _ _ _ (by decide) (by decide)]
    exact hcan
  have hfast : u.isSlow n.val d = false := by simp [State.isSlow, hcan]
  have herr : (u.sending n.val d r).get F.BUS_STAT.ERRSTATE n.val = u.get F.BUS_STAT.ERRSTATE n.val :=
    State.get_sending_fld _ _ _ _ _ _ (by decide) (by decide)
  rw [← herr, ← State.esi_of_can hproto, ← State.sentHdr_of_can (d := d) hproto]
  simp only [exec_frameStart, execFrameStart, ← hu, hq, hmay, hfast, Bool.and_false, Bool.false_eq_true, if_false, if_true]
  simp [State.sending, State.startedDesc, hcan]

theorem exec_frameStart_of_slow (hq : (u.bus n.val).queue = d :: r) (hmay : u.mayStart n.val d = true) (hsent : u.proto n.val = 5)
    (hkind : d.kind ≠ 0) : exec (.frameStart e n) s = .next (u.takeSlow n.val d r) := by
  simp [exec_frameStart, execFrameStart, ← hu, hq, hmay, State.isSlow, hsent, hkind]

theorem exec_arbitrationLost_of_can (hq : (u.bus n.val).queue = d :: r) (hcan : u.proto n.val = 1) (hstarted : d.started.isSome = true) :
    exec (.arbitrationLost e n) s = .next (((u.setTxq n.val ({ d with started := none, arbLost := satAdd 8 d.arbLost 1 } :: r)).set
      F.BUS_STAT.STATE n.val 3).count F.BUS_CNT.COUNT (some F.BUS_CNT.OVF) (8 * n.val + 4) 27 1) := by
  simp [exec_arbitrationLost, execArbitrationLost, ← hu, hq, hcan, hstarted, State.busCount]

theorem exec_frameExpired_of_due (hq : (u.bus n.val).queue = d :: r) (hwaits : d.started = none) (hdue : u.due d.expiry = true) :
    exec (.frameExpired e n) s = .next ((u.finishHead n.val 3 0 0).busCount n.val 7) := by
  simp [exec_frameExpired, execFrameExpired, ← hu, hq, hwaits, hdue]

theorem exec_txWriteBack_of_finished {st a b : Nat} {r' : List (TxDesc × Nat × Nat × Nat)}
    (hdone : (u.bus n.val).finished = (d, st, a, b) :: r') (hquiet : bitAt d.flags 2 = false) (hread : u.readable d.lake d.addr 32 = true) :
    exec (.txWriteBack e n 0 0) s =
      .next ((u.setBus n.val { u.bus n.val with finished := r' }).putBytes d.lake d.addr (d.writeBack st a b)) := by
  have hread' : (u.setBus n.val { u.bus n.val with finished := r' }).readable d.lake d.addr 32 = true := hread
  simp [exec_txWriteBack, execTxWriteBack, ← hu, hdone, State.writeBackFirst, hquiet, hread']

theorem exec_txWriteBack_of_sent {a b : Nat} (hnone : (u.bus n.val).finished = []) (hq : (u.bus n.val).queue = d :: r)
    (hstarted : d.started.isSome = true) (hend : u.reached b = true) :
    exec (.txWriteBack e n a b) s = .next ((u.frameSent n.val a b d).writeBackFirst n.val) := by
  simp [exec_txWriteBack, execTxWriteBack, ← hu, hnone, hq, hstarted, hend]

theorem exec_gateFiring_of_shut (hlive : u.consumes = true) (hgate : u.flag F.BUS_GATE.EN n.val = true) (hq : (u.bus n.val).queue = d :: r)
    (hgated : bitAt d.flags 1 = true) (hshut : d.gate = none) :
    exec (.gateFiring e n) s = .next (u.setTxq n.val ({ d with gate := some u.now } :: r)) := by
  simp [exec_gateFiring, execGateFiring, ← hu, hlive, hgate, hq, hgated, hshut]

theorem exec_gateFiring_of_empty (hlive : u.consumes = true) (hgate : u.flag F.BUS_GATE.EN n.val = true) (hq : (u.bus n.val).queue = []) :
    exec (.gateFiring e n) s = .next (u.set F.BUS_STAT.GATE_OVR n.val 1) := by
  simp [exec_gateFiring, execGateFiring, ← hu, hlive, hgate, hq]

end

/-! ### Control (R249, R252, R262, R267) -/

theorem State.busRun_of_rest {s : State} {n : Nat} (run : Bool) (hengine : s.proto n ≠ 0) (hrest : s.get F.BUS_STAT.STATE n < 2) :
    s.busRun n run = (s.set F.BUS_CTRL.RUN n (ofBool run)).busIdle n := by
  simp [State.busRun, hengine, Nat.not_le.2 hrest]

/-- An engine at rest that is started or stopped. -/
theorem State.get_busIdle_run (s : State) (n : Nat) (run : Bool) :
    ((s.set F.BUS_CTRL.RUN n (ofBool run)).busIdle n).get F.BUS_CTRL.RUN n = (if run then 1 else 0) ∧
    ((s.set F.BUS_CTRL.RUN n (ofBool run)).busIdle n).get F.BUS_STAT.STATE n = if run then 1 else 0 := by
  have hrun : (s.set F.BUS_CTRL.RUN n (ofBool run)).get F.BUS_CTRL.RUN n = if run then 1 else 0 := by
    rw [State.get_set_self]
    cases run <;> rfl
  unfold State.busIdle
  refine ⟨?_, ?_⟩
  · rw [State.get_set_fld _ _ _ _ _ _ (by decide), hrun]
  · rw [State.get_set_self, State.flag, hrun]
    cases run <;> rfl

theorem State.canState_of_new {s : State} {n st : Nat} (hnew : s.get F.BUS_STAT.ERRSTATE n ≠ st) :
    s.canState n st = ((s.set F.BUS_STAT.ERRSTATE n st).set F.BUS_STAT.ERR_CHG n 1).busEvent n 5 := if_neg hnew

theorem State.get_canState_new {s : State} {n st : Nat} (hnew : s.get F.BUS_STAT.ERRSTATE n ≠ st) (hst : st < 4) :
    (s.canState n st).get F.BUS_STAT.ERRSTATE n = st ∧ (s.canState n st).get F.BUS_STAT.ERR_CHG n = 1 := by
  rw [State.canState_of_new hnew, State.get_busEvent, State.get_busEvent, State.get_set_self, State.get_set_fld _ _ _ _ _ _ (by decide),
    State.get_set_self]
  exact ⟨Nat.mod_eq_of_lt hst, rfl⟩

/-- The counters of an engine that has recovered. -/
def State.canCleared (s : State) (n : Nat) : State :=
  ((s.set F.BUS_CAN_ERR.TEC n 0).set F.BUS_CAN_ERR.REC n 0).set F.BUS_CAN_ERR.PASSIVE n 0

theorem State.get_canCleared (s : State) (n : Nat) : (s.canCleared n).get F.BUS_STAT.ERRSTATE n = s.get F.BUS_STAT.ERRSTATE n ∧
    (s.canCleared n).get F.BUS_CAN_ERR.TEC n = 0 ∧ (s.canCleared n).get F.BUS_CAN_ERR.REC n = 0 ∧
    (s.canCleared n).get F.BUS_CAN_ERR.PASSIVE n = 0 := by
  unfold State.canCleared
  refine ⟨?_, ?_, ?_, ?_⟩
  · rw [State.get_set_fld _ _ _ _ _ _ (by decide), State.get_set_fld _ _ _ _ _ _ (by decide), State.get_set_fld _ _ _ _ _ _ (by decide)]
  · rw [State.get_set_fld _ _ _ _ _ _ (by decide), State.get_set_fld _ _ _ _ _ _ (by decide), State.get_set_self]
    rfl
  · rw [State.get_set_fld _ _ _ _ _ _ (by decide), State.get_set_self]
    rfl
  · rw [State.get_set_self]
    rfl

section
variable {e : Nat} {s u : State} (hu : u = s.elapse e) {n : Engine}
include hu

theorem exec_busRunWrite_eq {b : Bool} : exec (.busRunWrite e n b) s = .next (u.busRun n.val b) := by
  rw [exec_busRunWrite, execBusRunWrite, hu]

theorem exec_busFlush_eq : exec (.busFlush e n) s = .next (u.flushBus n.val) := by
  rw [exec_busFlush, execBusFlush, hu]

theorem exec_busRecover_of_off (hcan : u.proto n.val = 1) (hoff : u.get F.BUS_STAT.ERRSTATE n.val = 2) :
    exec (.busRecover e n) s = .next (u.canState n.val 3) := by
  simp [exec_busRecover, execBusRecover, ← hu, State.busRecover, hcan, hoff]

theorem exec_busOffRecovery_of_recovering (hcan : u.proto n.val = 1) (hrec : u.get F.BUS_STAT.ERRSTATE n.val = 3) :
    exec (.busOffRecovery e n) s = .next ((u.canState n.val 0).canCleared n.val) := by
  simp [exec_busOffRecovery, execBusOffRecovery, ← hu, hcan, hrec, State.canCleared]

theorem exec_phyResetWrite_eq {b : Bool} : exec (.phyResetWrite e n b) s = .next (u.set F.BUS_CTRL.PHY_RESET n.val (ofBool b)) := by
  rw [exec_phyResetWrite, execPhyResetWrite, hu]

theorem exec_phyResetRelease_of_due (hheld : (u.bus n.val).phyHeld = true)
    (hdue : u.reached (wrap64 ((u.bus n.val).commitDT + us 10)) = true) :
    exec (.phyResetRelease e n) s = .next (u.setBus n.val { u.bus n.val with phyHeld := false }) := by
  simp only [exec_phyResetRelease, execPhyResetRelease, ← hu, hheld, hdue, Bool.and_self, if_true]

/-! ### Receiving and errors (R264–R267) -/

/-- A LIN frame that carries an error is sorted after the occurrence that it is. -/
theorem exec_frameReceived_of_lin {f : BusRx} {tag : Site} {k : Nat} (hlive : u.busReceives n.val = true) (heof : u.reached f.eof = true)
    (hlin : u.proto n.val = 2) (hidle : u.get F.BUS_STAT.STATE n.val = 1) (herror : bitAt f.info 1 = true)
    (hsort : (u.busEvent n.val 3).busSort n.val f = (0, k)) :
    exec (.frameReceived e n f tag) s = .next ((u.busEvent n.val 3).frameIn n.val tag.val k f) := by
  simp [exec_frameReceived, execFrameReceived, ← hu, hlive, heof, hidle, herror, State.slowIn, hlin, hsort]

theorem exec_frameReceived_of_stranger {f : BusRx} {tag : Site} {k : Nat} (hlive : u.busReceives n.val = true) (heof : u.reached f.eof = true)
    (hlin : u.proto n.val = 2) (hidle : u.get F.BUS_STAT.STATE n.val = 1) (herror : bitAt f.info 1 = true)
    (hsort : (u.busEvent n.val 3).busSort n.val f = (2, k)) :
    exec (.frameReceived e n f tag) s = .next ((u.busEvent n.val 3).strangerIn n.val tag.val f) := by
  simp [exec_frameReceived, execFrameReceived, ← hu, hlive, heof, hidle, herror, State.slowIn, hlin, hsort]

theorem exec_busError_of_idle {inc : Fin 9} (hlive : u.busReceives n.val = true) (hlin : u.proto n.val = 3)
    (hq : (u.bus n.val).queue = []) : exec (.busError e n 2 inc) s =
      .next (((((u.busCount n.val 4).errorRecord n.val 2).busEvent n.val 5).canError n.val inc.val false).failAttempt n.val) := by
  simp [exec_busError, execBusError, ← hu, hlive, hlin, hq, errorCodes, errorCounter]

/-! ### LIN (R255) -/

theorem exec_linHeader_of_lin {id : Fin 64} (hlin : u.proto n.val = 3) (hon : u.busOn n.val = true) : exec (.linHeader e n id) s =
    .next (if u.get F.BUS_LIN_RESP.ACTION (64 * n.val + id.val) = 2 ∧ u.isSafe = false then
      ((u.setBus n.val { u.bus n.val with linHdr := some (id.val, u.get F.BUS_LIN_RESP.ACTION (64 * n.val + id.val)) }).emit
        (.busFrame n.val (id.val + 256 * u.get F.BUS_LIN_RESP.ENHANCED (64 * n.val + id.val)) false
          (toBytes (min 8 (if u.get F.BUS_LIN_RESP.LEN (64 * n.val + id.val) = 0 then 8 else u.get F.BUS_LIN_RESP.LEN (64 * n.val + id.val)))
            (u.get F.BUS_LIN_DATA.DATA (64 * n.val + id.val))))).busCount n.val 1
      else u.setBus n.val { u.bus n.val with linHdr := some (id.val, u.get F.BUS_LIN_RESP.ACTION (64 * n.val + id.val)) }) := by
  simp only [exec_linHeader, execLinHeader, ← hu, hlin, hon, bne_self_eq_false, Bool.not_true, Bool.or_self, Bool.false_eq_true, if_false,
    Bool.and_eq_true, decide_eq_true_eq, Bool.not_eq_true']
  split <;> rfl

theorem exec_linWakeUp_of_pulse {f : Nat} {tag : Site} (hlin : u.proto n.val = 3) (hlive : u.busReceives n.val = true)
    (hmin : us 150 ≤ u.since f) (hmax : u.since f ≤ us 5000) : exec (.linWakeUp e n f tag) s =
      .next ((u.busCount n.val 6).frameIn n.val tag.val 0xFF ⟨0, 2, 0, [], wrap64 f, u.now, true⟩) := by
  simp only [exec_linWakeUp, execLinWakeUp, ← hu, hlin, hlive, hmin, hmax]
  rfl

/-! ### MDIO (R270) -/

theorem exec_mdioCommand_eq {v : Word32} : exec (.mdioCommand e n v) s = .next (u.mdioCmd n.val v.toNat) := by
  rw [exec_mdioCommand, execMdioCommand, hu]

end

theorem State.mdioCmd_of_idle {s : State} {n v : Nat} (hgo : bitAt v 31 = true) (hfree : s.get F.BUS_MDIO_RES.RESULT n ≠ 1)
    (heth : s.proto n = 6) (hempty : s.mdioQ = []) :
    s.mdioCmd n v = State.mdioBegin { s.set F.BUS_MDIO_RES.RESULT n 1 with mdioQ := [(n, v)] } := by
  simp [State.mdioCmd, hgo, hfree, heth, hempty]

theorem State.mdioCmd_of_other {s : State} {n v : Nat} (hgo : bitAt v 31 = true) (hfree : s.get F.BUS_MDIO_RES.RESULT n ≠ 1)
    (hother : s.proto n ≠ 6) : s.mdioCmd n v = s.set F.BUS_MDIO_RES.RESULT n 3 := by
  simp [State.mdioCmd, hgo, hfree, hother]

/-- The read at the head of the queue ends with the data that it found. -/
def State.mdioRead (s : State) (n v data : Nat) (r : List (Nat × Nat)) : State :=
  ((State.set { s with mdioQ := r } F.BUS_MDIO_RES.RESULT n 2).emit
    (.mdio (leAt s.img.buseng (32 * n + 6) 1) (bitsOf v 16 5) false data)).set F.BUS_MDIO_RES.DATA n data

theorem exec_mdioComplete_of_read {e : Nat} {s u : State} (hu : u = s.elapse e) {d : BitVec 16} {n v : Nat} {r : List (Nat × Nat)}
    (hq : u.mdioQ = (n, v) :: r) (hdue : u.reached (wrap64 (u.mdioAt + 204800000)) = true) (hread : bitAt v 30 = false) :
    exec (.mdioComplete e d) s = .next (u.mdioRead n v d.toNat r).mdioBegin := by
  simp [exec_mdioComplete, execMdioComplete, ← hu, hq, hdue, hread, State.mdioRead]

theorem State.get_mdioBegin (s : State) (g : Fld) (j : Nat) : s.mdioBegin.get g j = s.get g j := State.get_mk ..

theorem State.get_mdioRead (s : State) (n v data : Nat) (r : List (Nat × Nat)) :
    (s.mdioRead n v data r).get F.BUS_MDIO_RES.RESULT n = 2 ∧ (s.mdioRead n v data r).get F.BUS_MDIO_RES.DATA n = data % 2 ^ 16 := by
  unfold State.mdioRead
  refine ⟨?_, State.get_set_self ..⟩
  rw [State.get_set_fld _ _ _ _ _ _ (by decide), State.emit_get, State.get_set_self]
  rfl

theorem ofBool_eq_ite (b : Bool) : ofBool b = if b then 1 else 0 := by cases b <;> rfl

/-- Settles O21: the engines' postings, frames, gates, control, receptions, errors, LIN and MDIO. -/
theorem busComplete : Obligations.BusComplete := by
  intro e s u hu
  refine ⟨?posted, ?postFull, ?postRefused, ?payload, ?payloadBad, ?started, ?slow, ?arbitration, ?expired, ?writeBack, ?sent, ?gate,
    ?gateEmpty, ?run, ?flush, ?recover, ?recovered, ?phy, ?phyDone, ?received, ?stranger, ?error, ?header, ?response, ?wake, ?mdio,
    ?mdioOther, ?mdioRead⟩
  case posted =>
    intro n v hon haddr hroom
    refine ⟨_, exec_busTxPost_eq hu, ?_⟩
    rw [State.hostPost_of_posted hon haddr hroom]
    exact ⟨rfl, State.get_set_self ..⟩
  case postFull =>
    intro n v hon haddr hfull
    rw [exec_busTxPost_eq hu, State.hostPost_of_full hon haddr hfull]
  case postRefused =>
    intro n v hno
    rw [exec_busTxPost_eq hu, State.hostPost_of_refused hno]
  case payload =>
    rintro n k d a l c hd hnone rfl rfl hecc hread
    exact exec_payloadRead_of_clean hu hd hnone hecc hread
  case payloadBad =>
    rintro n k d a l c hd hnone rfl rfl hecc
    exact exec_payloadRead_of_uncorrectable hu hd hnone hecc
  case started =>
    intro n d r hq hmay hcan
    refine ⟨_, exec_frameStart_of_can hu hq hmay hcan, ?_, ?_, ?_⟩
    · rw [State.get_busEvent, State.emit_get, State.get_drew, State.sending, State.get_set_self]
      rfl
    · rw [State.out_busEvent, State.emit_out, State.out_drew, State.sending, State.set_out, State.out_setTxq]
    · rw [State.bus_busEvent, State.bus_emit, State.bus_drew, State.sending, State.bus_set, State.bus_setTxq]
      rfl
  case slow =>
    intro n d r hq hmay hsent hkind
    refine ⟨_, exec_frameStart_of_slow hu hq hmay hsent hkind, ?_⟩
    simp [State.takeSlow]
  case arbitration => exact fun n d r hq hcan hstarted => exec_arbitrationLost_of_can hu hq hcan hstarted
  case expired => exact fun n d r hq hwaits hdue => exec_frameExpired_of_due hu hq hwaits hdue
  case writeBack => exact fun n d st a b r hdone hquiet hread => exec_txWriteBack_of_finished hu hdone hquiet hread
  case sent => exact fun n a b d r hnone hq hstarted hend => exec_txWriteBack_of_sent hu hnone hq hstarted hend
  case gate => exact fun n d r hlive hgate hq hgated hshut => exec_gateFiring_of_shut hu hlive hgate hq hgated hshut
  case gateEmpty => exact fun n hlive hgate hq => exec_gateFiring_of_empty hu hlive hgate hq
  case run =>
    intro n b hengine hrest
    refine ⟨_, exec_busRunWrite_eq hu, ?_⟩
    rw [State.busRun_of_rest b hengine hrest]
    exact u.get_busIdle_run n.val b
  case flush => exact fun n => exec_busFlush_eq hu
  case recover =>
    intro n hcan hoff
    exact ⟨_, exec_busRecover_of_off hu hcan hoff, State.get_canState_new (by rw [hoff]; decide) (by decide)⟩
  case recovered =>
    intro n hcan hrec
    obtain ⟨hstate, htec, hcounted, hpassive⟩ := (u.canState n.val 0).get_canCleared n.val
    refine ⟨_, exec_busOffRecovery_of_recovering hu hcan hrec, ?_, htec, hcounted, hpassive⟩
    rw [hstate]
    exact (State.get_canState_new (by rw [hrec]; decide) (by decide)).1
  case phy =>
    intro n b
    rw [exec_phyResetWrite_eq hu, ofBool_eq_ite]
  case phyDone => exact fun n hheld hdue => exec_phyResetRelease_of_due hu hheld hdue
  case received =>
    rintro n f tag k v hlive heof hlin hidle herror rfl hsort
    exact exec_frameReceived_of_lin hu hlive heof hlin hidle herror hsort
  case stranger =>
    rintro n f tag k v hlive heof hlin hidle herror rfl hsort
    exact exec_frameReceived_of_stranger hu hlive heof hlin hidle herror hsort
  case error => exact fun n inc hlive hlin hq => exec_busError_of_idle hu hlive hlin hq
  case header =>
    intro n id hlin hon haction
    rw [exec_linHeader_of_lin hu hlin hon, if_neg (fun h => haction h.1)]
  case response =>
    rintro n id k l rfl rfl hlin hon haction hsafe
    rw [exec_linHeader_of_lin hu hlin hon, if_pos ⟨haction, hsafe⟩, haction]
  case wake => exact fun n f tag hlin hlive hmin hmax => exec_linWakeUp_of_pulse hu hlin hlive hmin hmax
  case mdio =>
    intro n v hgo hfree heth hempty
    refine ⟨_, exec_mdioCommand_eq hu, ?_⟩
    rw [State.mdioCmd_of_idle hgo hfree heth hempty]
    refine ⟨?_, rfl, ?_⟩
    · rw [State.get_mdioBegin, State.get_mk, State.get_set_self]
      rfl
    · exact State.get_set_fld _ _ _ _ _ _ (by decide)
  case mdioOther =>
    intro n v hgo hfree hother
    rw [exec_mdioCommand_eq hu, State.mdioCmd_of_other hgo hfree hother]
  case mdioRead =>
    intro d n v r hq hdue hread
    obtain ⟨hresult, hdata⟩ := u.get_mdioRead n v d.toNat r
    refine ⟨_, exec_mdioComplete_of_read hu hq hdue hread, ?_, ?_, rfl, rfl⟩
    · rw [State.get_mdioBegin, hresult]
    · rw [State.get_mdioBegin, hdata]

end Sys2Proof.Machine
end

section
/-! Tile links: up, down, replay, acknowledgements and frames; and the statement about them (R224–R235, R372). -/

namespace Sys2Proof.Machine

/-! ### Which meaning the dispatch calls -/

theorem exec_tileLinkUp (e t s) : exec (.tileLinkUp e t) s = execTileLinkUp e t s := rfl

theorem exec_tileLinkDown (e t s) : exec (.tileLinkDown e t) s = execTileLinkDown e t s := rfl

theorem exec_tileReplayTimeout (e t q s) : exec (.tileReplayTimeout e t q) s = execTileReplayTimeout e t q s := rfl

theorem exec_ack (e l q s) : exec (.ack e l q) s = execAck e l q s := rfl

theorem exec_frameArrival (e l lane bits s) : exec (.frameArrival e l lane bits) s = execFrameArrival e l lane bits s := rfl

/-! ### The states of a link (R232, R233, R235) -/

/-- The registers of a link that is up. -/
def State.tlinkUp (s : State) (t : Nat) : State :=
  ((s.tlinkState t 2).set F.TLK_STAT.DOWN_LOCK t 0xFFFF).set F.TLK_CORE_STAT.UP_LOCK t 0xFF

/-- A link comes up: it is counted and stamped. -/
def State.tlinkUpCounted (s : State) (t : Nat) : State :=
  (((s.tlinkUp t).count F.TLK_CORE_STAT.UPS none t 26 1).stamp F.TLK_CORE_UPDT.DT t (s.tlinkUp t).now).setTlink t {}

/-- The registers of a link that is down. -/
def State.tlinkDowned (s : State) (t : Nat) : State :=
  (((s.tlinkState t 1).set F.TLK_STAT.DOWN_LOCK t 0).set F.TLK_CORE_STAT.UP_LOCK t 0).set F.TLK_CORE_STAT.DOWN t 1

theorem State.get_tlinkUp (s : State) (t : Nat) : (s.tlinkUp t).get F.TLK_CORE_STAT.STATE t = 2 ∧ (s.tlinkUp t).get F.TLK_STAT.STATE t = 2 ∧
    (s.tlinkUp t).get F.TLK_STAT.DOWN_LOCK t = 0xFFFF ∧ (s.tlinkUp t).get F.TLK_CORE_STAT.UP_LOCK t = 0xFF := by
  unfold State.tlinkUp State.tlinkState
  refine ⟨?_, ?_, ?_, State.get_set_self ..⟩
  · rw [State.get_set_fld _ _ _ _ _ _ (by decide), State.get_set_fld _ _ _ _ _ _ (by decide), State.get_set_fld _ _ _ _ _ _ (by decide)]
    exact State.get_set_self ..
  · rw [State.get_set_fld _ _ _ _ _ _ (by decide), State.get_set_fld _ _ _ _ _ _ (by decide)]
    exact State.get_set_self ..
  · rw [State.get_set_fld _ _ _ _ _ _ (by decide)]
    exact State.get_set_self ..

/-- Counting and stamping leave a field of the link's state alone. -/
theorem State.get_tlinkUpCounted (s : State) (t : Nat) (g : Fld) (j : Nat) (hups : g.id ≠ F.TLK_CORE_STAT.UPS.id)
    (hdt : g.id ≠ F.TLK_CORE_UPDT.DT.id) (hsat : g.id ≠ F.CIN_SAT.BLOCK.id) (hstat : g.id ≠ F.CIN_FAULT_STAT.SAT.id) :
    (s.tlinkUpCounted t).get g j = (s.tlinkUp t).get g j := by
  calc (s.tlinkUpCounted t).get g j = ((s.tlinkUp t).count F.TLK_CORE_STAT.UPS none t 26 1).get g j := State.get_set_fld _ _ _ _ _ _ hdt
    _ = (s.tlinkUp t).get g j := by
      rw [State.get_count]
      split
      · rw [State.overflowed, State.get_saturated_fld _ _ _ _ hsat hstat, State.counted, State.get_set_fld _ _ _ _ _ _ hups]
      · rw [State.counted, State.get_set_fld _ _ _ _ _ _ hups]

theorem State.get_tlinkDowned (s : State) (t : Nat) :
    (s.tlinkDowned t).get F.TLK_STAT.STATE t = 1 ∧ (s.tlinkDowned t).get F.TLK_CORE_STAT.DOWN t = 1 := by
  unfold State.tlinkDowned State.tlinkState
  refine ⟨?_, State.get_set_self ..⟩
  rw [State.get_set_fld _ _ _ _ _ _ (by decide), State.get_set_fld _ _ _ _ _ _ (by decide), State.get_set_fld _ _ _ _ _ _ (by decide)]
  exact State.get_set_self ..

/-- A class-U source shows its sticky bit, whether it is escalated or not. -/
theorem State.get_raiseU_tlinkDown (s : State) (t : Nat) : (s.raiseU 26 F.TLK_FAULT_STAT.DOWN t).get F.TLK_FAULT_STAT.DOWN t = 1 := by
  have hset : (s.set F.TLK_FAULT_STAT.DOWN t 1).get F.TLK_FAULT_STAT.DOWN t = 1 := State.get_set_self ..
  unfold State.raiseU
  split
  · exact (Keeps.get (State.enterSafe_keeps _ (Within.ne (by decide)) (Keeps.refl _ _))).trans hset
  · exact hset

/-- A link that goes down shows it in both ends' registers and in the fault register. -/
theorem State.get_tlinkDown (s : State) (t : Nat) : (s.tlinkDown t).get F.TLK_STAT.STATE t = 1 ∧
    (s.tlinkDown t).get F.TLK_CORE_STAT.DOWN t = 1 ∧ (s.tlinkDown t).get F.TLK_FAULT_STAT.DOWN t = 1 := by
  obtain ⟨hstate, hdown⟩ := s.get_tlinkDowned t
  unfold State.tlinkDown
  extract_lets s1 s2 s3
  have hs2 (g : Fld) (j : Nat) : s2.get g j = (s.tlinkDowned t).get g j := State.get_fire ..
  refine ⟨?_, ?_, ?_⟩
  · refine (Keeps.get (State.each_keeps (fun _ _ => State.siteFault_keeps _ _ (Within.ne (by decide))) ?_)).trans ((hs2 _ _).trans hstate)
    exact State.raiseU_keeps _ _ _ (Within.ne (by decide)) (places_ne (by decide)) (Keeps.refl _ s2)
  · refine (Keeps.get (State.each_keeps (fun _ _ => State.siteFault_keeps _ _ (Within.ne (by decide))) ?_)).trans ((hs2 _ _).trans hdown)
    exact State.raiseU_keeps _ _ _ (Within.ne (by decide)) (places_ne (by decide)) (Keeps.refl _ s2)
  · refine (Keeps.get (State.each_keeps (fun _ _ => State.siteFault_keeps _ _ (Within.ne (by decide))) (Keeps.refl _ s3))).trans ?_
    exact s2.get_raiseU_tlinkDown t

section
variable {e : Nat} {s u : State} (hu : u = s.elapse e)
include hu

theorem exec_tileLinkUp_of_locking {t : Tile} (hlocking : u.get F.TLK_CORE_STAT.STATE t.val = 1) : exec (.tileLinkUp e t) s =
    .next ((if (u.tlink t.val).restart then u.tileReset t.val else u).tlinkUpCounted t.val) := by
  simp only [exec_tileLinkUp, execTileLinkUp, ← hu, hlocking, beq_self_eq_true, if_true]
  rfl

theorem exec_tileLinkDown_of_up {t : Tile} (hup : u.tileUp t.val = true) : exec (.tileLinkDown e t) s = .next (u.tlinkDown t.val) := by
  simp only [exec_tileLinkDown, execTileLinkDown, ← hu, hup, if_true]

/-! ### Replay, acknowledgements and frames (R227–R234) -/

theorem exec_tileReplayTimeout_of_first {t : Tile} {q : Byte} (hup : u.tileUp t.val = true)
    (hfirst : resendOf (u.tlink t.val).resent q.toNat = none) : exec (.tileReplayTimeout e t q) s =
      .next (((u.setTlink t.val { u.tlink t.val with resent := (u.tlink t.val).resent.filter (fun b => b.1 != q.toNat) ++ [(q.toNat, 2, u.now)] }).count
        F.TLK_ERR.REPLAY none t.val 26 1).emit (.replay none (some t.val) q.toNat)) := by
  simp only [exec_tileReplayTimeout, execTileReplayTimeout, ← hu, hup, hfirst, if_true]

theorem exec_tileReplayTimeout_of_third {t : Tile} {q : Byte} {d : Nat} (hup : u.tileUp t.val = true)
    (hthird : resendOf (u.tlink t.val).resent q.toNat = some (3, d)) (hdue : u.reached (wrap64 (d + ns 40)) = true) :
    exec (.tileReplayTimeout e t q) s = .next (u.tlinkDown t.val) := by
  simp only [exec_tileReplayTimeout, execTileReplayTimeout, ← hu, hup, hthird, hdue, if_true, lt_irrefl, if_false]

theorem exec_ack_of_live {l : LinkId} {q : Byte} (hlive : u.linkLive l = true) : exec (.ack e l q) s = .next (u.acked l q.toNat) := by
  simp only [exec_ack, execAck, ← hu, hlive, if_true]

theorem exec_frameArrival_of_good {l : LinkId} {n : Fin 16} {bits : List Bool} {f : FrameInfo} (hlive : u.linkLive l = true)
    (hread : readFrame bits = some f) (hvalid : f.invalid = 0) (hcrc : f.badCrc = 0) :
    exec (.frameArrival e l n bits) s = .next ((u.frameSeen l n.val f).acked l f.ack) := by
  simp [exec_frameArrival, execFrameArrival, ← hu, hlive, hread, hvalid, hcrc]

theorem exec_frameArrival_of_bad {l : LinkId} {n : Fin 16} {bits : List Bool} (hlive : u.linkLive l = true) (hread : readFrame bits = none) :
    exec (.frameArrival e l n bits) s = .next ((u.linkErr l 1).linkCrc l) := by
  simp only [exec_frameArrival, execFrameArrival, ← hu, hlive, hread, if_true]

end

/-- Settles O18: tile links come up and go down, replay, take acknowledgements and frames. -/
theorem linkComplete : Obligations.LinkComplete := by
  intro e s u hu
  refine ⟨?up, ?down, ?downShown, ?again, ?third, ?ack, ?good, ?bad⟩
  case up =>
    intro t hlocking
    refine ⟨_, exec_tileLinkUp_of_locking hu hlocking, ?_⟩
    obtain ⟨hcore, htile, hdownLock, hupLock⟩ := State.get_tlinkUp (if (u.tlink t.val).restart then u.tileReset t.val else u) t.val
    refine ⟨?_, ?_, ?_, ?_⟩
    · rwa [State.get_tlinkUpCounted _ _ _ _ (by decide) (by decide) (by decide) (by decide)]
    · rwa [State.get_tlinkUpCounted _ _ _ _ (by decide) (by decide) (by decide) (by decide)]
    · rwa [State.get_tlinkUpCounted _ _ _ _ (by decide) (by decide) (by decide) (by decide)]
    · rwa [State.get_tlinkUpCounted _ _ _ _ (by decide) (by decide) (by decide) (by decide)]
  case down => exact fun t hup => exec_tileLinkDown_of_up hu hup
  case downShown => exact fun t hup => ⟨_, exec_tileLinkDown_of_up hu hup, u.get_tlinkDown t.val⟩
  case again => exact fun t q hup hfirst => exec_tileReplayTimeout_of_first hu hup hfirst
  case third => exact fun t q d hup hthird hdue => exec_tileReplayTimeout_of_third hu hup hthird hdue
  case ack => exact fun l q hlive => exec_ack_of_live hu hlive
  case good => exact fun l n bits f hlive hread hvalid hcrc => exec_frameArrival_of_good hu hlive hread hvalid hcrc
  case bad => exact fun l n bits hlive hread => exec_frameArrival_of_bad hu hlive hread

end Sys2Proof.Machine
end

section
/-! Lenkel ports: bring-up, rate steps, loss and replay, station time and received broadcasts; and the statement about them (R236–R246). -/

namespace Sys2Proof.Machine

/-! ### Which meaning the dispatch calls -/

theorem exec_portStart (e p s) : exec (.portStart e p) s = execPortStart e p s := rfl

theorem exec_cap (e p q body s) : exec (.cap e p q body) s = execCap e p q body s := rfl

theorem exec_portRetry (e p s) : exec (.portRetry e p) s = execPortRetry e p s := rfl

theorem exec_rate (e p q body s) : exec (.rate e p q body) s = execRate e p q body s := rfl

theorem exec_rateSwitch (e p s) : exec (.rateSwitch e p) s = execRateSwitch e p s := rfl

theorem exec_rateStepEnd (e p ok s) : exec (.rateStepEnd e p ok) s = execRateStepEnd e p ok s := rfl

theorem exec_portDown (e p s) : exec (.portDown e p) s = execPortDown e p s := rfl

theorem exec_portReplayTimeout (e p q s) : exec (.portReplayTimeout e p q) s = execPortReplayTimeout e p q s := rfl

theorem exec_portRetrain (e p s) : exec (.portRetrain e p) s = execPortRetrain e p s := rfl

theorem exec_portDisable (e p s) : exec (.portDisable e p) s = execPortDisable e p s := rfl

theorem exec_timeExchangeStart (e p t1 s) : exec (.timeExchangeStart e p t1) s = execTimeExchangeStart e p t1 s := rfl

theorem exec_tsync (e p q body full t2 t3 s) : exec (.tsync e p q body full t2 t3) s = execTsync e p q body full t2 t3 s := rfl

theorem exec_treq (e p q body t4 s) : exec (.treq e p q body t4) s = execTreq e p q body t4 s := rfl

theorem exec_tresp (e p q body s) : exec (.tresp e p q body) s = execTresp e p q body s := rfl

theorem exec_tinfo (e p q body s) : exec (.tinfo e p q body) s = execTinfo e p q body s := rfl

theorem exec_upstreamLoss (e s) : exec (.upstreamLoss e) s = execUpstreamLoss e s := rfl

theorem exec_evbc (e p body s) : exec (.evbc e p body) s = execEvbc e p body s := rfl

/-! ### What the shared operations of ports leave alone -/

/-- Sending a block touches no register. -/
theorem State.get_sendBlock (s : State) (p kind : Nat) (args : List Nat) (g : Fld) (j : Nat) : (s.sendBlock p kind args).get g j = s.get g j :=
  State.get_congr rfl g j

@[simp] theorem State.img_took (s : State) (p q n : Nat) : (s.took p q n).img = s.img := by
  unfold State.took
  refine (State.each_inv (fun s => s.img) _ (by intro s x; rfl) _ _).trans ?_
  rw [State.setPort_img]

@[simp] theorem State.upstream_took (s : State) (p q n : Nat) : (s.took p q n).upstream = s.upstream := by
  simp [State.upstream, State.flag]

@[simp] theorem State.capReason_took (s : State) (p q n i dev port tag : Nat) (master : Bool) :
    (s.took p q n).capReason i dev port tag master = s.capReason i dev port tag master := by
  simp [State.capReason, State.devNum, State.portByte, State.timeMaster]

theorem State.port_setFld (s : State) (f : Fld) (i v p : Nat) : (s.set f i v).port p = s.port p := by
  rw [State.port, State.set_ports, State.port]

/-- SLOW is all that its update changes. -/
theorem State.get_setSlow (s : State) (g : Fld) (j : Nat) (hslow : g.id ≠ F.LNK_PORT_STAT.SLOW.id) : s.setSlow.get g j = s.get g j :=
  State.each_inv (fun s => s.get g j) _ (fun _ _ => State.get_set_fld _ _ _ _ _ _ hslow) _ _

theorem State.get_portUp (s : State) (p : Nat) (g : Fld) (j : Nat) (hslow : g.id ≠ F.LNK_PORT_STAT.SLOW.id) :
    (s.portUp p).get g j = (s.set F.LNK_PORT_STAT.STATE p 2).get g j := by
  unfold State.portUp
  rw [State.get_setSlow _ _ _ hslow, State.setPort_get]

/-- Whichever way a port goes on, only STATE and SLOW can change in its register. -/
theorem State.get_portAdvance (s : State) (p : Nat) (g : Fld) (j : Nat) (hstate : g.id ≠ F.LNK_PORT_STAT.STATE.id)
    (hslow : g.id ≠ F.LNK_PORT_STAT.SLOW.id) : (s.portAdvance p).get g j = s.get g j := by
  unfold State.portAdvance
  dsimp only
  split_ifs
  · rfl
  · rw [State.get_portUp _ _ _ _ hslow, State.get_set_fld _ _ _ _ _ _ hstate]
  · rw [State.get_sendBlock, State.setPort_get]
  · rfl

/-- A port that begins to negotiate runs at code 1. -/
theorem State.get_train (s : State) (p : Nat) : (s.train p false).get F.LNK_PORT_STAT.STATE p = 1 ∧
    (s.train p false).get F.LNK_PORT_STAT.RATE p = 1 ∧ (s.train p false).get F.LNK_PORT_STAT.REASON p = 0 := by
  unfold State.train
  extract_lets code s1 s2 s3
  have hsent (g : Fld) (hreg : g.id / 128 = F.LNK_PORT_STAT.STATE.id / 128) (hslow : g.id ≠ F.LNK_PORT_STAT.SLOW.id) :
      (s3.sendCap p).get g p = s2.get g p :=
    calc (s3.sendCap p).get g p = s3.get g p := State.get_sendBlock ..
      _ = (s2.set F.LNK_PORT_STAT.SLOW p 0).get g p := by
        refine Keeps.get (State.count_keeps _ _ _ _ _ ?_ ?_ (by simp) (Keeps.refl _ _)) <;> rw [hreg]
        · exact Within.ne (by decide)
        · decide
      _ = s2.get g p := State.get_set_fld _ _ _ _ _ _ hslow
  rw [if_neg Bool.false_ne_true]
  refine ⟨?_, ?_, ?_⟩
  · rw [hsent F.LNK_PORT_STAT.STATE rfl (by decide), State.get_set_fld _ _ _ _ _ _ (by decide), State.get_set_fld _ _ _ _ _ _ (by decide)]
    exact State.get_set_self ..
  · rw [hsent F.LNK_PORT_STAT.RATE rfl (by decide), State.get_set_fld _ _ _ _ _ _ (by decide)]
    exact State.get_set_self ..
  · rw [hsent F.LNK_PORT_STAT.REASON rfl (by decide)]
    exact State.get_set_self ..

theorem State.get_portFailed (s : State) (p : Nat) {reason : Nat} (hreason : reason < 8) :
    (s.portFailed p reason).get F.LNK_PORT_STAT.STATE p = 3 ∧ (s.portFailed p reason).get F.LNK_PORT_STAT.REASON p = reason ∧
    ((s.portFailed p reason).port p).retryAt = some (wrap64 (s.now + us 100000)) := by
  unfold State.portFailed
  dsimp only
  refine ⟨?_, ?_, ?_⟩
  · rw [State.setPort_get, State.get_set_fld _ _ _ _ _ _ (by decide), State.get_set_fld _ _ _ _ _ _ (by decide)]
    exact State.get_set_self ..
  · rw [State.setPort_get, State.get_set_self]
    exact Nat.mod_eq_of_lt hreason
  · rw [State.setPort_self]

/-- The registers of a port that is disabled. -/
def State.portShut (s : State) (p : Nat) : State :=
  (((s.setPort p { disabled := true }).set F.LNK_PORT_STAT.STATE p 0).set F.LNK_PORT_STAT.RATE p 0).set F.LNK_PORT_STAT.SLOW p 0

theorem State.get_portShut (s : State) (p : Nat) : (s.portShut p).get F.LNK_PORT_STAT.STATE p = 0 ∧
    (s.portShut p).get F.LNK_PORT_STAT.RATE p = 0 ∧ ((s.portShut p).port p).disabled = true := by
  unfold State.portShut
  refine ⟨?_, ?_, ?_⟩
  · rw [State.get_set_fld _ _ _ _ _ _ (by decide), State.get_set_fld _ _ _ _ _ _ (by decide)]
    exact State.get_set_self ..
  · rw [State.get_set_fld _ _ _ _ _ _ (by decide)]
    exact State.get_set_self ..
  · rw [State.port_setFld, State.port_setFld, State.port_setFld, State.setPort_self]

theorem State.disablePort_of_down {s : State} {p : Nat} (hdown : s.portState p ≠ 2) : s.disablePort p = s.portShut p := by
  unfold State.disablePort
  simp only [beq_iff_eq, hdown, if_false]
  rfl

/-! ### Bring-up (R236) -/

/-- The peer that a CAP names. -/
def State.peerOf (s : State) (p b : Nat) : State := (s.set F.LNK_PORT_STAT.PEER_DEV p (bitsOf b 0 5)).set F.LNK_PORT_STAT.PEER_PORT p (bitsOf b 9 3)

theorem State.get_peerOf (s : State) (p b : Nat) : (s.peerOf p b).get F.LNK_PORT_STAT.PEER_DEV p = bitsOf b 0 5 ∧
    (s.peerOf p b).get F.LNK_PORT_STAT.PEER_PORT p = bitsOf b 9 3 := by
  unfold State.peerOf
  refine ⟨?_, ?_⟩
  · rw [State.get_set_fld _ _ _ _ _ _ (by decide), State.get_set_self]
    exact Nat.mod_eq_of_lt (bitsOf_lt b 0 5)
  · rw [State.get_set_self]
    exact Nat.mod_eq_of_lt (bitsOf_lt b 9 3)

theorem State.takeCap_of_accepted {s : State} {p b : Nat}
    (hreason : s.capReason p (bitsOf b 0 5) (bitsOf b 9 3) (bitsOf b 17 18) (bitAt b 5) = 0) : s.takeCap p b =
      ((s.peerOf p b).setPort p { (s.peerOf p b).port p with capOk := true, peerMaster := bitAt b 5, peerMax := bitsOf b 6 3 }).portAdvance p := by
  simp only [State.takeCap, hreason, if_true]
  rfl

theorem State.takeCap_of_refused {s : State} {p b r : Nat}
    (hreason : s.capReason p (bitsOf b 0 5) (bitsOf b 9 3) (bitsOf b 17 18) (bitAt b 5) = r) (hr : r = 2 ∨ r = 3) :
    s.takeCap p b = (s.peerOf p b).portFailed p r := by
  obtain rfl | rfl := hr <;> simp [State.takeCap, hreason, State.peerOf]

section
variable {e : Nat} {s u : State} (hu : u = s.elapse e) {p : Port}
include hu

theorem exec_portStart_of_off (hon : u.lenkelOn = true) (hen : u.portEn p.val = true) (hoff : u.portState p.val = 0)
    (hdisabled : (u.port p.val).disabled = false) (hwake : (u.port p.val).wakeCode = 0) :
    exec (.portStart e p) s = .next (u.train p.val false) := by
  simp [exec_portStart, execPortStart, ← hu, hon, hen, hoff, hdisabled, hwake]

theorem exec_cap_inOrder {q : Byte} {b : BitVec 40} (hstate : u.portState p.val = 1) (hdirect : (u.port p.val).direct = false)
    (hcap : (u.port p.val).capOk = false) (horder : u.inOrder p.val q.toNat = true) :
    exec (.cap e p q b) s = .next ((u.took p.val q.toNat 1).takeCap p.val b.toNat) := by
  simp [exec_cap, execCap, ← hu, hstate, hdirect, State.recv_inOrder horder, State.port_took, hcap]

theorem exec_portRetry_of_due {d : Nat} (hfailed : u.portState p.val = 3) (hat : (u.port p.val).retryAt = some d) (hdue : u.reached d = true) :
    exec (.portRetry e p) s = .next (u.train p.val false) := by
  simp [exec_portRetry, execPortRetry, ← hu, hfailed, hat, State.due, hdue]

/-! ### Rate steps (R237) -/

theorem exec_rate_inOrder {q : Byte} {b : BitVec 40} (hstate : u.portState p.val = 1) (horder : u.inOrder p.val q.toNat = true) :
    exec (.rate e p q b) s = .next ((u.took p.val q.toNat 1).takeRate p.val b.toNat) := by
  simp [exec_rate, execRate, ← hu, hstate, State.recv_inOrder horder]

theorem exec_rateSwitch_of_agreed {c : Nat} (hagreed : (u.port p.val).switchTo = some c) (hstate : u.portState p.val = 1) :
    exec (.rateSwitch e p) s = .next ((u.set F.LNK_PORT_STAT.RATE p.val c).setPort p.val
      { u.port p.val with switchTo := none, stepping := true, stepFrom := u.rate p.val, switchAt := u.now }) := by
  simp [exec_rateSwitch, execRateSwitch, ← hu, hagreed, hstate]

theorem exec_rateStepEnd_of_good (hstate : u.portState p.val = 1) (hstep : (u.port p.val).stepping = true)
    (hdirect : (u.port p.val).direct = false) (hgood : u.stepGood p.val = true) :
    exec (.rateStepEnd e p true) s = .next ((u.setPort p.val { u.port p.val with stepping := false }).portAdvance p.val) := by
  simp [exec_rateStepEnd, execRateStepEnd, ← hu, hstate, hstep, hdirect, hgood, State.stepEnd]

theorem exec_rateStepEnd_of_bad (hstate : u.portState p.val = 1) (hstep : (u.port p.val).stepping = true)
    (hdirect : (u.port p.val).direct = false) (hdue : u.reached (wrap64 ((u.port p.val).switchAt + us 50)) = true) :
    exec (.rateStepEnd e p false) s = .next (if (u.port p.val).stepFrom = 0 then
        (u.set F.LNK_PORT_TRAIN.FAILED p.val (u.rate p.val)).portFailed p.val 5
      else ((u.set F.LNK_PORT_TRAIN.FAILED p.val (u.rate p.val)).set F.LNK_PORT_STAT.RATE p.val (u.port p.val).stepFrom).portUp p.val) := by
  simp [exec_rateStepEnd, execRateStepEnd, ← hu, hstate, hstep, hdirect, hdue, State.stepEnd]

/-! ### Loss and replay (R238) -/

theorem exec_portDown_of_up (hup : u.portState p.val = 2) : exec (.portDown e p) s = .next (u.portDown p.val) := by
  simp [exec_portDown, execPortDown, ← hu, hup]

theorem exec_portReplayTimeout_of_due {q : Byte} {n d : Nat} (hup : u.portState p.val = 2)
    (hsent : resendOf (u.port p.val).unacked q.toNat = some (n, d)) (hdue : u.reached (wrap64 (d + u.replayTime p.val)) = true) :
    exec (.portReplayTimeout e p q) s = .next (if n < 3 then ((u.setPort p.val { u.port p.val with
        unacked := (u.port p.val).unacked.map (fun b => if b.1 == q.toNat then (q.toNat, n + 1, u.now) else b) }).count
          F.LNK_PORT_ERR.REPLAY none p.val 13 1).emit (.replay (some p.val) none q.toNat)
      else u.portDown p.val) := by
  have hlive : u.linkLive (.port (Fin.ofNat 8 p.val)) = true := by
    have hstat : u.get F.LNK_PORT_STAT.STATE p.val = 2 := hup
    simp [State.linkLive, hstat]
  simp only [exec_portReplayTimeout, execPortReplayTimeout, ← hu, hsent, hlive, hdue, Bool.and_self, if_true]
  split <;> rfl

theorem exec_portRetrain_of_down (hon : u.lenkelOn = true) (hen : u.portEn p.val = true) (hdown : u.portState p.val ≠ 2) :
    exec (.portRetrain e p) s = .next (u.train p.val false) := by
  simp [exec_portRetrain, execPortRetrain, ← hu, State.retrain, hon, hen, hdown]

theorem exec_portDisable_of_down (hdown : u.portState p.val ≠ 2) : exec (.portDisable e p) s = .next (u.portShut p.val) := by
  rw [exec_portDisable, execPortDisable, ← hu, State.disablePort_of_down hdown]

/-! ### Station time (R240–R245) -/

theorem exec_timeExchangeStart_of_first {t1 : Word64} (hup : u.portState p.val = 2) (hnot : u.upstream ≠ some p.val) (hlocked : u.ownLocked = true)
    (hfirst : (u.port p.val).sentSync = none) (hdeparted : u.reached t1.toNat = true) : exec (.timeExchangeStart e p t1) s =
      .next (((((((u.setPort p.val { u.port p.val with sentSync := some u.now }).sendBlock p.val 0x20 [t1.toNat % 2 ^ 40]).sendBlock p.val 0x23
        [t1.toNat / 2 ^ 40]).sendInfo p.val 0 (u.get F.UMB_ERA.ERA 0 % 2 ^ 32)).sendInfo p.val 1 (u.get F.UMB_TOD_OFFSET.OFFSET 0 % 2 ^ 32)).sendInfo
          p.val 2 (u.get F.UMB_TOD_OFFSET.OFFSET 0 / 2 ^ 32)).sendInfo p.val 3 u.hopInfo) := by
  have hother : (u.upstream != some p.val) = true := by rwa [bne_iff_ne]
  simp only [exec_timeExchangeStart, execTimeExchangeStart, ← hu, hup, hother, hlocked, hfirst, hdeparted, beq_self_eq_true, Bool.and_self, if_true]

theorem exec_tsync_inOrder {q : Byte} {a b : BitVec 40} {t2 t3 : Word64} (hup : u.portState p.val = 2) (horder : u.inOrder p.val q.toNat = true) :
    exec (.tsync e p q a b t2 t3) s =
      .next ((u.took p.val q.toNat 2).takeSync p.val (a.toNat + 2 ^ 40 * (b.toNat % 2 ^ 24)) t2.toNat t3.toNat) := by
  simp only [exec_tsync, execTsync, ← hu, hup, State.recv_inOrder horder, beq_self_eq_true, if_true]

theorem exec_treq_inOrder {q : Byte} {b : BitVec 40} {t4 : Word64} (hup : u.portState p.val = 2) (horder : u.inOrder p.val q.toNat = true) :
    exec (.treq e p q b t4) s = .next ((u.took p.val q.toNat 1).takeReq p.val (bitsOf b.toNat 0 8) t4.toNat) := by
  simp only [exec_treq, execTreq, ← hu, hup, State.recv_inOrder horder, beq_self_eq_true, if_true]

theorem exec_tresp_inOrder {q : Byte} {b : BitVec 40} (hup : u.portState p.val = 2) (horder : u.inOrder p.val q.toNat = true) :
    exec (.tresp e p q b) s = .next ((u.took p.val q.toNat 1).takeResp p.val b.toNat) := by
  simp only [exec_tresp, execTresp, ← hu, hup, State.recv_inOrder horder, beq_self_eq_true, if_true]

theorem exec_tinfo_inOrder {q : Byte} {b : BitVec 40} (hup : u.portState p.val = 2) (horder : u.inOrder p.val q.toNat = true) :
    exec (.tinfo e p q b) s = .next ((u.took p.val q.toNat 1).takeInfo p.val b.toNat) := by
  simp only [exec_tinfo, execTinfo, ← hu, hup, State.recv_inOrder horder, beq_self_eq_true, if_true]

theorem exec_upstreamLoss_of_late {n d : Nat} (hfrom : u.upstream = some n) (hlast : (u.port n).lastSync = some d)
    (hlate : u.reached (wrap64 (d + us 2000)) = true) :
    exec (.upstreamLoss e) s = .next (u.setPort n { u.port n with hops := 31 }).selectUpstream := by
  simp only [exec_upstreamLoss, execUpstreamLoss, ← hu, hfrom, hlast, hlate, if_true]

/-! ### Received broadcasts (R246) -/

theorem exec_evbc_eq {b : BitVec 40} : exec (.evbc e p b) s = .next (u.takeCast p.val (bitsOf b.toNat 0 8) (nearDT u.now 32 (bitsOf b.toNat 8 32))) := by
  rw [exec_evbc, execEvbc, hu]

end

/-- The port goes down, negotiates again, and what hangs on it is lost. -/
theorem State.portDown_of_up {s : State} {p : Nat} (hup : s.portState p = 2) :
    s.portDown p = (((s.set F.LNK_FAULT_STAT.DOWN 0 1).fire (1460 + p)).train p false).portLost p := by
  simp only [State.portDown, State.raiseC, hup, beq_self_eq_true, if_true]

/-! ### What a port does with a block that it took (R237, R241, R242) -/

theorem State.takeRate_of_answer {s : State} {p b : Nat} (hanswer : bitAt b 3 = true) (hproposed : (s.port p).proposed = some (bitsOf b 0 3)) :
    s.takeRate p b = s.setPort p { s.port p with proposed := none, switchTo := some (bitsOf b 0 3) } := by
  simp [State.takeRate, hanswer, hproposed]

theorem State.takeRate_of_proposal {s : State} {p b : Nat} (hproposal : bitAt b 3 = false) (hcap : (s.port p).capOk = true)
    (hstep : (s.port p).stepping = false) (hnext : bitsOf b 0 3 = s.rate p + 1) (hpeer : s.get F.LNK_PORT_STAT.PEER_DEV p < s.devNum) :
    s.takeRate p b = (s.setPort p { s.port p with switchTo := some (bitsOf b 0 3) }).sendBlock p 0x11 [bitsOf b 0 3, 1] := by
  simp [State.takeRate, hproposal, hcap, hstep, hnext, hpeer]

theorem State.takeSync_of_upstream {s : State} {p t1 t2 t3 : Nat} (hup : s.upstream = some p) (hopen : (s.port p).ts = none) :
    s.takeSync p t1 t2 t3 = ((s.setPort p { s.port p with
      lastSync := some s.now, exch := ((s.port p).exch + 1) % 256, ts := some (t1, t2, t3) }).sendBlock p 0x21 [((s.port p).exch + 1) % 256]).sendInfo p 3 s.hopInfo := by
  simp [State.takeSync, hup, hopen]

theorem State.takeResp_of_open {s : State} {p b t1 t2 t3 t4 : Nat} (hup : s.upstream = some p) (hopen : (s.port p).ts = some (t1, t2, t3))
    (hexch : bitsOf b 0 8 = (s.port p).exch) (ht4 : t4 = nearDT (wrap64 (t1 + t3 + 2 ^ 64 - t2 % 2 ^ 64)) 32 (bitsOf b 8 32)) :
    s.takeResp p b = (s.drew.drew.setPort p { s.port p with ts := none }).useOffset p t1 t2 (s.openDiv (dtDiff t1 t2 - dtDiff t3 t4) 2)
      (s.drew.openDiv (dtDiff t1 t2 + dtDiff t3 t4) 2) := by
  subst ht4
  simp only [State.takeResp, hopen, hup, hexch, beq_self_eq_true, Bool.and_self, if_true]

theorem State.takeInfo_of_offset {s : State} {p b : Nat} (hitem : bitsOf b 32 8 = 2) (hup : s.upstream = some p) :
    s.takeInfo p b = s.set F.UMB_TOD_OFFSET.OFFSET 0 (bitsOf b 0 32 * 2 ^ 32 + (s.port p).offLow) := by
  simp only [State.takeInfo, hitem, hup, beq_self_eq_true, if_true]

theorem State.takeInfo_of_era {s : State} {p b : Nat} (hitem : bitsOf b 32 8 = 0) :
    s.takeInfo p b = s.setPort p { s.port p with era := bitsOf b 0 32 } := by
  simp only [State.takeInfo, hitem]

/-- The port remembers the firing of a channel that it received last. -/
def State.castNoted (s : State) (p c d : Nat) : State := s.setPort p { s.port p with bcast := Tab.set none (s.port p).bcast c (some d) }

theorem State.takeCast_of_ahead {s : State} {p c d : Nat} (hnew : Tab.get none (s.port p).bcast c = none) (hup : s.portState p = 2)
    (hlocked : s.bothLocked p = true) (hdev : s.dev ≠ 6) (hahead : s.reached (wrap64 (d + s.get F.LNK_PORT_BCLAT.L p)) = false) :
    s.takeCast p c d = (s.castNoted p c d).setEvf { (s.castNoted p c d).evf with
      bcast := (s.castNoted p c d).evf.bcast ++ [(c, wrap64 (d + s.get F.LNK_PORT_BCLAT.L p))] } := by
  simp [State.takeCast, hnew, hup, hlocked, hdev, hahead, State.castNoted]

theorem State.takeCast_of_down {s : State} {p c d : Nat} (hnew : Tab.get none (s.port p).bcast c = none) (hdown : s.portState p ≠ 2) :
    s.takeCast p c d = (s.castNoted p c d).count F.LNK_PORT_DROP.DROP none p 13 1 := by
  simp [State.takeCast, hnew, hdown, State.castNoted]

/-- Settles O19: ports come up, step their rates, go down and replay, and keep station time. -/
theorem portComplete : Obligations.PortComplete := by
  intro e s u hu
  refine ⟨?start, ?accepted, ?refused, ?retry, ?answer, ?proposal, ?switch, ?good, ?bad, ?fallback, ?down, ?again, ?third, ?retrain, ?disable,
    ?exchange, ?tsync, ?treq, ?tresp, ?offset, ?era, ?loss, ?ahead, ?dropped⟩
  case start =>
    intro p hon hen hoff hdisabled hwake
    exact ⟨_, exec_portStart_of_off hu hon hen hoff hdisabled hwake, u.get_train p.val⟩
  case accepted =>
    intro p q b hstate hdirect hcap horder hreason
    obtain ⟨hdev, hport⟩ := (u.took p.val q.toNat 1).get_peerOf p.val b.toNat
    refine ⟨_, exec_cap_inOrder hu hstate hdirect hcap horder, ?_⟩
    rw [State.takeCap_of_accepted (by rwa [State.capReason_took])]
    refine ⟨?_, ?_⟩
    · rwa [State.get_portAdvance _ _ _ _ (by decide) (by decide), State.setPort_get]
    · rwa [State.get_portAdvance _ _ _ _ (by decide) (by decide), State.setPort_get]
  case refused =>
    intro p q b r hstate hdirect hcap horder hreason hr
    have hsmall : r < 8 := by omega
    obtain ⟨hfailed, hwhy, hretry⟩ := ((u.took p.val q.toNat 1).peerOf p.val b.toNat).get_portFailed p.val hsmall
    have hnow : ((u.took p.val q.toNat 1).peerOf p.val b.toNat).now = u.now :=
      (State.get_set_fld _ _ _ _ _ _ (by decide)).trans ((State.get_set_fld _ _ _ _ _ _ (by decide)).trans (State.now_took ..))
    refine ⟨_, exec_cap_inOrder hu hstate hdirect hcap horder, ?_⟩
    rw [State.takeCap_of_refused (by rwa [State.capReason_took]) hr]
    exact ⟨hfailed, hwhy, hnow ▸ hretry⟩
  case retry => exact fun p d hfailed hat hdue => exec_portRetry_of_due hu hfailed hat hdue
  case answer =>
    rintro p q b v rfl hstate horder hanswer hproposed
    rw [exec_rate_inOrder hu hstate horder, State.takeRate_of_answer hanswer (by rwa [State.port_took])]
  case proposal =>
    rintro p q b v rfl hstate horder hproposal hcap hstep hnext hpeer
    rw [exec_rate_inOrder hu hstate horder, State.takeRate_of_proposal hproposal (by rwa [State.port_took]) (by rwa [State.port_took])
      (by rwa [State.rate, State.get_took]) (by rwa [State.devNum, State.get_took, State.get_took])]
  case switch =>
    intro p c hagreed hstate
    refine ⟨_, exec_rateSwitch_of_agreed hu hagreed hstate, ?_, ?_, ?_⟩
    · rw [State.setPort_get, State.get_set_self]
    · rw [State.setPort_self]
    · rw [State.setPort_self]
  case good => exact fun p hstate hstep hdirect hgood => exec_rateStepEnd_of_good hu hstate hstep hdirect hgood
  case bad =>
    intro p hstate hstep hdirect hfrom hdue
    refine ⟨_, exec_rateStepEnd_of_bad hu hstate hstep hdirect hdue, ?_⟩
    rw [if_pos hfrom]
    obtain ⟨hfailed, hwhy, -⟩ := (u.set F.LNK_PORT_TRAIN.FAILED p.val (u.rate p.val)).get_portFailed p.val (reason := 5) (by decide)
    exact ⟨hfailed, hwhy⟩
  case fallback =>
    intro p hstate hstep hdirect hfrom hdue
    refine ⟨_, exec_rateStepEnd_of_bad hu hstate hstep hdirect hdue, ?_⟩
    rw [if_neg hfrom]
    refine ⟨?_, ?_⟩
    · rw [State.get_portUp _ _ _ _ (by decide)]
      exact State.get_set_self ..
    · rw [State.get_portUp _ _ _ _ (by decide), State.get_set_fld _ _ _ _ _ _ (by decide)]
      exact State.get_set_self ..
  case down =>
    intro p hup
    rw [exec_portDown_of_up hu hup, State.portDown_of_up hup]
  case again =>
    intro p q n d hup hsent hn hdue
    rw [exec_portReplayTimeout_of_due hu hup hsent hdue, if_pos hn]
  case third =>
    intro p q d hup hsent hdue
    rw [exec_portReplayTimeout_of_due hu hup hsent hdue, if_neg (lt_irrefl 3)]
  case retrain => exact fun p hon hen hdown => exec_portRetrain_of_down hu hon hen hdown
  case disable => exact fun p hdown => ⟨_, exec_portDisable_of_down hu hdown, u.get_portShut p.val⟩
  case exchange =>
    rintro p t1 v hup hnot hlocked hfirst hdeparted rfl
    exact exec_timeExchangeStart_of_first hu hup hnot hlocked hfirst hdeparted
  case tsync =>
    rintro p q a b t2 t3 v rfl hup horder hfrom hopen
    rw [exec_tsync_inOrder hu hup horder, State.takeSync_of_upstream (by rwa [State.upstream_took]) (by rwa [State.port_took]),
      State.now_took, State.port_took]
  case treq => exact fun p q b t4 hup horder => exec_treq_inOrder hu hup horder
  case tresp =>
    rintro p q b t1 t2 t3 t4 v rfl hup horder hfrom hopen hexch ht4
    rw [exec_tresp_inOrder hu hup horder, State.takeResp_of_open (by rwa [State.upstream_took]) (by rwa [State.port_took])
      (by rwa [State.port_took]) ht4]
  case offset =>
    intro p q b hup horder hitem hfrom
    refine ⟨_, exec_tinfo_inOrder hu hup horder, ?_⟩
    rw [State.takeInfo_of_offset hitem (by rwa [State.upstream_took]), State.port_took]
    exact State.get_set_self ..
  case era =>
    intro p q b hup horder hitem
    refine ⟨_, exec_tinfo_inOrder hu hup horder, ?_⟩
    beta_reduce
    rw [State.takeInfo_of_era hitem, State.setPort_self]
  case loss => exact fun p d hfrom hlast hlate => exec_upstreamLoss_of_late hu hfrom hlast hlate
  case ahead =>
    rintro p b c d v rfl rfl hnew rfl hup hlocked hdev hahead
    rw [exec_evbc_eq hu, State.takeCast_of_ahead hnew hup hlocked hdev hahead]
    rfl
  case dropped =>
    rintro p b c d v rfl rfl hnew rfl hdown
    rw [exec_evbc_eq hu, State.takeCast_of_down hnew hdown]
    rfl

end Sys2Proof.Machine
end
